-- ==== Sys2Proof/Word.lean ====
section
/-!
DEFINITION. The word types of the BW3212: registers are 64 bits (R5), memory is bytes (R261).
-/
namespace Sys2Proof

/-- A register value: 64 bits, little-endian (R5). -/
abbrev Word := BitVec 64

/-- A 32-bit word of tile SRAM or of the tile sequencer's registers (R106). -/
abbrev Word32 := BitVec 32

/-- One byte of memory. -/
abbrev Byte := BitVec 8

end Sys2Proof
end

