-- ==== Sys2Proof/Syntax.lean ====
section
/-!
DEFINITION. The commands the BW3212 takes: one constructor of `Instr` per row of the table of operations and
events. A command's operands are what comes with it from outside the step: the register value written, the
flit or message received, the reading taken by a sensor, the unit the event happens at.
-/
namespace Sys2Proof

/-- A tile: die d (row × 8 + column), x 0–63, y 0–65 (R17). -/
structure TileId where
  d : Fin 32
  x : Fin 64
  y : Fin 66
  deriving DecidableEq, Repr

/-- A sequencer under R106: a tile's, or one of the 16 contexts of a die's tier engine (R276). -/
inductive CoreId where
  | tile (t : TileId)
  | ctx (d : Fin 32) (k : Fin 16)
  deriving DecidableEq, Repr

/-- Where a register access comes from: a Trais port, or Keeper firmware (R496). -/
inductive Src where
  | port (n : Fin 4)
  | keeper
  deriving DecidableEq, Repr

/-- What the SEC-DED or symbol code found in the word an access read (R105, R281). -/
inductive Ecc where
  | ok
  | corrected
  | uncorrectable
  deriving DecidableEq, Repr

/-- The five virtual channels (R133). -/
inductive Vc where
  | ctl | act | red | bulk | trn
  deriving DecidableEq, Repr

/-- The ports of a router (R129). -/
inductive RPort where
  | n | e | s | w | l
  deriving DecidableEq, Repr

/-- What the checks of a core's own hardware find while a command of its sequencer runs: nothing; a word of its SRAM that
SEC-DED corrected; an uncorrectable word at an SRAM offset (R105); a residue that does not match (R43, R113). -/
inductive CoreErr where
  | ok
  | corrected
  | uncorrectable (o : Fin 32768)
  | residue
  deriving DecidableEq, Repr

/-- A core that carries out a command of its sequencer, with what its own checks find meanwhile. -/
structure CoreAt where
  core : CoreId
  err  : CoreErr
  deriving DecidableEq, Repr

/-- What is read from a memory, with what its code finds (R105, R281, R283). -/
structure Read (α : Type) where
  data : α
  ecc  : Ecc
  deriving DecidableEq, Repr

/-- A shadow record read for a tier engine's array, with the context in whose columns a residue does not match, if there is one (R43). -/
structure ArrRead where
  ecc : Ecc
  res : Option (Fin 16)
  deriving DecidableEq, Repr

/-- What a work item of a passage homed on another part carries with it (R206), and an expert item its gate (R248). -/
structure Carried where
  handle   : Word32
  epoch    : BitVec 16
  prio     : Fin 16
  deadline : Word
  seed     : Word32
  gate     : Option (Fin 32769)
  deriving DecidableEq, Repr

/-- An input segment of a work item that a tile of a replica reports, with what the item of a passage homed on another part
carries (R225). -/
structure Arrived where
  rep     : BitVec 8
  seg     : BitVec 16
  carried : Option Carried
  deriving DecidableEq, Repr

/-- A segment of a selected expert's input that enters at the expert's entry point (R246): its passage, number and bytes. -/
structure EntrySeg where
  idx   : Fin 1048576
  seg   : BitVec 16
  bytes : List Byte
  deriving DecidableEq, Repr

/-- One flit of a mesh link or D2D channel: the sideband fields of R131 and its data. The buffer class of the flit and of the credits it
returns have no sideband bits (R131): they are the link's own (log entry 214). -/
structure NocFlit where
  valid : Bool
  vc    : Vc
  clsB  : Bool
  head  : Bool
  tail  : Bool
  seq   : BitVec 8
  crVc  : Vc
  crCls : Bool
  crCnt : Fin 4
  nak   : Bool
  ack   : BitVec 8
  crc   : BitVec 16
  data  : BitVec 512
  deriving DecidableEq, Repr

/-- One flit of a fabric link (R361) as its block delivers it: its fields, its 240 bytes of data and the CRC-32 it came with; `uncorr` says
that the block could not be corrected, `corr` is the number of symbols the block code corrected. -/
structure BfpFlit where
  crc    : Word32
  uncorr : Bool
  corr   : Nat
  ftype  : BitVec 3
  vc     : Vc
  clsB   : Bool
  head   : Bool
  tail   : Bool
  seq    : BitVec 12
  ack    : BitVec 12
  nak    : Bool
  crVc   : Vc
  crCls  : Bool
  crEnt  : Fin 32
  crCnt  : BitVec 8
  ent    : Fin 32
  len    : BitVec 8
  lsub   : BitVec 8
  data   : List Byte
  deriving DecidableEq, Repr

/-- One flit of a Trais link (R415) as its block delivers it: its fields, its 240 bytes of messages and the CRC-32 it came with; `uncorr` says
that the block could not be corrected, `corr` is the number of symbols the block code corrected. -/
structure TraisFlit where
  crc    : Word32
  uncorr : Bool
  corr   : Nat
  ftype  : BitVec 2
  seq    : BitVec 12
  ack    : BitVec 12
  nak    : Bool
  crCls  : Fin 4
  crCnt  : BitVec 8
  nmsg   : BitVec 8
  lsub   : BitVec 8
  data   : List Byte
  deriving DecidableEq, Repr

/-- The package header of a packet (R132), its payload, and its unicast or multicast destination. -/
structure Packet where
  ptype : BitVec 8
  mc    : Bool
  tree  : BitVec 16
  dst   : TileId
  kind  : Fin 16
  src   : TileId
  srcKind : Fin 16
  part  : Fin 64
  tag   : BitVec 16
  vc    : Vc
  data  : List Byte
  crcOk : Bool
  /-- What a MSG carries (R316): 0 a register read or its response, 1 a register write, 2 anything else. -/
  msg   : Fin 3
  deriving DecidableEq, Repr

/-- The system header of a packet between parts (R370) with the packet it carries. -/
structure SysPacket where
  dx    : Fin 64
  dy    : Fin 64
  dz    : Fin 64
  sx    : Fin 64
  sy    : Fin 64
  sz    : Fin 64
  mc    : Bool
  job   : BitVec 16
  spart : Fin 64
  hops  : BitVec 8
  tree  : BitVec 16
  pkt   : Packet
  deriving DecidableEq, Repr

/-- One ACC56 block (R40): 32 words and a signed scale F. -/
structure AccBlk where
  f : Int
  w : List Word
  deriving DecidableEq, Repr

/-- Link training as the far side sends it (R364, R417). -/
structure TrainInfo where
  signal : Bool
  lock   : Bool
  quads  : BitVec 24
  lanes  : BitVec 4
  ncoord : BitVec 18
  nlink  : BitVec 4
  revMin : BitVec 8
  revMax : BitVec 8
  nfeat  : BitVec 8
  deriving DecidableEq, Repr

/-- How a Trais request names its space (R418). -/
inductive Space where
  | reg | ring | stack | host | tile
  deriving DecidableEq, Repr

/-- What a stack or stream cache request does (R270). -/
inductive ReqOp where
  | read (len : Nat)
  | write (data : List Byte)
  deriving DecidableEq, Repr

/-- What the codes of the stream cache find at an access (R283): nothing; a corrected word; an uncorrectable 32-byte word of the
line hit; a tag uncorrectable in both copies, in a way of the set. -/
inductive CacheErr where
  | ok
  | corrected
  | word (w : Fin 8)
  | tag (way : Fin 12)
  deriving DecidableEq, Repr

/-- The self-test and training results the start-up sequence finds (R526–R528). -/
structure SelfTest where
  railsGood : Bool
  pllLock   : Bool
  meshOk    : Bool
  edgesOk   : Bool
  badTiles  : List TileId
  badTier   : List (Fin 32)
  badStack  : List (Fin 12)
  badSensor : List (Fin 49 × Fin 16)
  d2dUp     : List (Fin 32 × Word)
  deriving DecidableEq, Repr

/-- The commands: one constructor per row of opcode_table.json, in the table's order. -/
inductive Instr where
  /-- R9: a host write of a register that has no row of its own. -/
  | registerWrite (src : Src) (addr : BitVec 48) (v : Word)
  /-- R61: a write of SCH_RCP_CMD of die d. -/
  | recipeUpdate (src : Src) (d : Fin 32) (v : Word)
  /-- R61: die d's next batch boundary for the stages of recipe `idx`. -/
  | recipeApply (d : Fin 32) (idx : Fin 4096)
  /-- R58: a flag window boundary on die d. -/
  | flagWindowEnd (d : Fin 32)
  /-- R64: a write of SCH_FMT_CLR. -/
  | fmtCntClear (src : Src) (d : Fin 32) (v : Word)
  /-- R102: a write of TIL_ARR_CLR. -/
  | arrCntClear (src : Src) (t : TileId) (v : Word)
  /-- R107: NOP, with the instruction word `w` fetched from PROG; a word R107 does not list faults (CAUSE 1). -/
  | nop (c : CoreId) (w : Read Word32)
  | ldi (c : CoreId) (a : Fin 16) (imm : BitVec 18)
  | add (c : CoreId) (a b : Fin 16) (imm : BitVec 18)
  | sub (c : CoreId) (a b : Fin 16) (imm : BitVec 18)
  | and (c : CoreId) (a b : Fin 16) (imm : BitVec 18)
  | or (c : CoreId) (a b : Fin 16) (imm : BitVec 18)
  | shl (c : CoreId) (a b : Fin 16) (imm : BitVec 18)
  | shr (c : CoreId) (a b : Fin 16) (imm : BitVec 18)
  /-- R107: LD; `ecc` is what the SRAM code found in the word (R105). -/
  | ld (c : CoreId) (a b : Fin 16) (imm : BitVec 18) (ecc : Ecc)
  | st (c : CoreId) (a b : Fin 16) (imm : BitVec 18)
  | bz (c : CoreId) (a : Fin 16) (imm : BitVec 18)
  | bnz (c : CoreId) (a : Fin 16) (imm : BitVec 18)
  | jmp (c : CoreId) (imm : BitVec 18)
  | wait (c : CoreId) (imm : BitVec 18)
  /-- R80: MVM on drive buffer sA[0]. Here and below, `c` says what the core's own checks find too (R105, R113). -/
  | mvm (c : CoreAt) (a : Fin 16)
  /-- R318: the outstanding MVM's conversions are complete. -/
  | mvmComplete (c : CoreAt)
  | opass (c : CoreAt) (a : Fin 16)
  | opassComplete (c : CoreAt)
  | accClearAddMvm (c : CoreAt) (bank : Fin 2)
  | accAddMvm (c : CoreAt) (bank : Fin 2)
  | accAddOpass (c : CoreAt) (bank : Fin 2)
  | accAddPsum (c : CoreAt) (bank : Fin 2)
  | accAddSpill (c : CoreAt) (bank : Fin 2)
  /-- R46: re-quantise a bank into an output buffer. -/
  | rq (c : CoreAt) (bank : Fin 2) (outb : Fin 2)
  | send (c : CoreAt) (outb : Fin 2) (route : Fin 16)
  | psum (c : CoreAt) (bank : Fin 2) (route : Fin 16)
  /-- R107: the oldest SEND or PSUM of the core has been injected in full. -/
  | injectionComplete (c : CoreId)
  | spill (c : CoreAt) (a : Fin 16)
  /-- R124: the spill in service on die d ends; `ecc` is what its stack reads found. -/
  | spillDone (d : Fin 32) (ecc : Ecc)
  | done (c : CoreId)
  | fail (c : CoreId) (code : BitVec 8)
  | sequencerWatchdog (c : CoreId)
  /-- R127: a write of TIL_OUT_CLR. -/
  | outCntClear (src : Src) (t : TileId) (v : Word)
  /-- R107: a PSUM packet reaches an owner. -/
  | partialSumArrival (c : CoreId) (handle : Word32) (expert : Bool) (blks : List AccBlk)
  /-- R140: a flit reaches the input `p` of router (d, x, y). -/
  | nocFlitReceive (r : TileId) (p : RPort) (f : NocFlit)
  /-- R140: the sender on output `p` of router (d, x, y) receives a NAK with ACK_SEQ. -/
  | nocReplay (r : TileId) (p : RPort) (ack : BitVec 8)
  /-- R148: a flit failed 8 replays on channel k of an edge of die d. -/
  | d2dChannelDown (d : Fin 32) (edge : Fin 4) (k : Fin 8)
  /-- R148: a flit failed 8 replays on a mesh link of a router. -/
  | meshLinkDown (r : TileId) (p : RPort)
  /-- R136: a packet head is routed at a router. -/
  | packetRoute (r : TileId) (p : RPort) (k : Packet)
  /-- R144: a branch of a tree stalled beyond the hold limit. -/
  | mcHoldExpiry (r : TileId) (p : RPort) (tree : BitVec 16) (part : Fin 64)
  /-- R145: a unicast flit stalled beyond the hold limit. -/
  | unicastHoldExpiry (r : TileId) (p : RPort) (part : Fin 64)
  /-- R144: the scheduler of die d receives MC_HOLD for a job of a partition. -/
  | mcHold (d : Fin 32) (part : Fin 64)
  /-- R146: a leaf tile receives a MARKER on an old tree. -/
  | marker (t : TileId) (tree : BitVec 16) (part : Fin 64)
  /-- R146: a MARKER_ACK of a leaf reaches the Billeter. -/
  | markerAck (t : TileId) (tree : BitVec 16) (part : Fin 64)
  /-- R167: BIL_IMG_CMD with OP LOAD. -/
  | imageLoad (src : Src) (d : Fin 32) (v : Word)
  | imageCheck (src : Src) (d : Fin 32) (v : Word)
  | imageUnload (src : Src) (d : Fin 32) (v : Word)
  /-- R169: the drain of a partition's unload ends. -/
  | unloadDrainExpiry (part : Fin 16)
  /-- R167: checks 7–13 of a partition's load end. -/
  | imageChecksDone (part : Fin 16)
  /-- R194: the bind of a partition completes. For a slice of several parts: whether IMAGE_ID, header CRC and feature
  level agree, whether every part finds a retention match, this part's rank, the coordinator's BIL_POL, the
  wrap dimensions every other part reports good, and the capacities the parts report, by rank and die. -/
  | bindDone (part : Fin 16) (sliceAgrees allMatch : Bool) (rank : BitVec 14) (pol : Word) (wrapOk : BitVec 3)
    (caps : List (List (Nat × Nat)))
  /-- R194: a slice peer of rank `rank` has not answered within 1 s. -/
  | sliceBindTimeout (part : Fin 16) (rank : BitVec 14)
  /-- R167: weights and start-up calibration are complete. -/
  | loadReady (part : Fin 16)
  /-- R181: BIL_FORBID with SET 1. -/
  | forbidSet (src : Src) (d : Fin 32) (v : Word)
  | forbidClear (src : Src) (d : Fin 32) (v : Word)
  /-- R196: the spare of a rebind is programmed and calibrated. -/
  | rebindSpareReady (t : TileId)
  /-- R217: a write of PAS_ARING_TAIL. -/
  | admissionDoorbell (src : Src) (d : Fin 32) (v : Word)
  /-- R212: die d takes the OPEN entry at HEAD of its admission ring. -/
  | openEntry (d : Fin 32)
  | feed (d : Fin 32)
  | close (d : Fin 32)
  | cancel (d : Fin 32)
  /-- R217: the home die `d` receives a FEED, CLOSE or CANCEL (op 2–4) read on die `from_`. -/
  | commandForward (d : Fin 32) (from_ : Fin 32) (op : Fin 5) (handle : Word32) (nFeed : BitVec 16)
  /-- R212: a write of PAS_CRING_HEAD. -/
  | completionHeadWrite (src : Src) (d : Fin 32) (v : Word)
  /-- R222: a write of PAS_ARING_BASE or (completion) PAS_CRING_BASE. -/
  | ringBaseWrite (src : Src) (d : Fin 32) (completion : Bool) (v : Word)
  | ptBaseWrite (src : Src) (d : Fin 32) (v : Word)
  | peekWrite (src : Src) (d : Fin 32) (v : Word)
  /-- R209: the entry of a passage index is brought into die d's cache. -/
  | passageCacheFill (d : Fin 32) (idx : Fin 1048576) (ecc : Ecc)
  /-- R225: an input segment of a passage's work item at stage replica (stage, rep) has arrived. -/
  | arrivalReport (d : Fin 32) (idx : Fin 1048576) (stage : BitVec 16) (rep : Arrived)
  /-- R226: a batch of a replica closes. -/
  | batchClose (d : Fin 32) (stage : BitVec 16) (rep : BitVec 8)
  | batchWaitExpiry (d : Fin 32) (stage : BitVec 16) (rep : BitVec 8)
  /-- R226: the next item of the open batch is fed to a tile of the replica. -/
  | workDispatch (d : Fin 32) (stage : BitVec 16) (rep : BitVec 8)
  /-- R213: the step in flight of a passage has its SINK result. -/
  | stepComplete (d : Fin 32) (idx : Fin 1048576) (result : List Byte)
  | admissionStop (d : Fin 32)
  | admissionStopLift (part : Fin 16)
  | deadlinePass (d : Fin 32) (idx : Fin 1048576)
  /-- R239: the score packets (output segments) of a router's work item reach die d's scheduler, which reads the
  item's segments in the dispatch buffer, with what its codes find there. -/
  | routerScores (d : Fin 32) (stage : BitVec 16) (rep : BitVec 8) (idx : Fin 1048576) (segs : Read (List (List Byte)))
  | capacityEmptyBatch (d : Fin 32) (stage : BitVec 16) (rep : BitVec 8)
  /-- R247: a combining scoreboard receives the count of expert contributions, or a decrement. -/
  | expertCount (d : Fin 32) (idx : Fin 1048576) (stage : BitVec 16) (decrement : Bool) (n : Fin 17)
  | entryPointInject (d : Fin 32) (stage : BitVec 16) (rep : BitVec 8) (seg : EntrySeg)
  /-- R250: output segment 0 of an exit stage's work item reaches die d's scheduler, which reads the item's
  segments as for router scores. -/
  | exitTest (d : Fin 32) (stage : BitVec 16) (rep : BitVec 8) (idx : Fin 1048576) (seg : Read (List Byte))
  | histFlush (d : Fin 32)
  | expCntClear (src : Src) (d : Fin 32) (v : Word)
  /-- R270: a request of partition `part` reaches the owner slice; `ecc` is what the code found. -/
  | stackRequest (part : Fin 64) (d : Fin 32) (bulk : Bool) (addr : BitVec 48) (op : ReqOp) (err : CacheErr)
  /-- R270: the stack returns the line at addr; `ecc` per 32-byte word. -/
  | lineFill (d : Fin 32) (addr : BitVec 48) (ecc : List Ecc)
  | prefetchHint (d : Fin 32) (addr : BitVec 48) (bytes : Nat)
  | prefetchDrop (d : Fin 32) (addr : BitVec 48)
  | trackerRelease (d : Fin 32) (k : Fin 64)
  /-- R267: window `i` is added, given a new owner (some) or removed (none). -/
  | windowOwnerChange (k : Fin 256) (base limit : BitVec 36) (owner : Option (Fin 32))
  /-- R282: a scrub pass of stack n ends; the words found correctable and uncorrectable. -/
  | scrubPass (n : Fin 12) (corrected : Nat) (uncorr : List (BitVec 48))
  | stkCntClear (src : Src) (d : Fin 32) (v : Word)
  /-- R276: a work item reaches context k of die d's tier engine at a priority of R274, with the input segments of its
  logical array, each with its outlier list. -/
  | tierWork (d : Fin 32) (k : Fin 16) (prio : Fin 5) (stage : BitVec 16) (arr : BitVec 24) (idx : Fin 1048576)
    (segs : List (List Byte))
  /-- R277: the main datapath of die d finishes its logical array. -/
  | tierArrayDone (d : Fin 32) (r : ArrRead)
  /-- R291: a read of a shard completes with the data delivered and an NVMe status. -/
  | nvmeCompletion (part : Fin 16) (shard : BitVec 24) (off : Nat) (status : BitVec 11) (data : List Byte)
  | nvmeTimeout (part : Fin 16) (shard : BitVec 24)
  | rdmaConnectionLost (part : Fin 16) (shard : BitVec 24)
  | upstreamTimeout (part : Fin 16) (shard : BitVec 24)
  /-- R288: an array record forwarded by the chain member before (or a peer). -/
  | forwardedRecord (part : Fin 16) (shard : BitVec 24) (k : BitVec 24) (peer : BitVec 16) (data : List Byte)
  | sstatWrite (src : Src) (v : Word)
  | ldrCntClear (src : Src) (v : Word)
  /-- R293: the next queued array of die d begins programming. -/
  | programStart (d : Fin 32)
  /-- R294: programming of a tile ends; weight cells and check or reference cells outside the window. -/
  | programDone (t : TileId) (weightOut checkOut : Nat)
  | retainedVerifyDone (t : TileId) (weightOut checkOut : Nat)
  | swapStart (src : Src) (v : Word)
  | swapAbort (src : Src) (v : Word)
  /-- R304: the coordinator receives a part's report that its shards are LANDED (or one FAILED). -/
  | swapLandedReport (part : Fin 16) (rank : BitVec 14) (failed : Bool)
  | swapFlip (part : Fin 16)
  /-- R305: the coordinator receives a part's lowest low-water wave (none: not counted). -/
  | lowWaveReport (part : Fin 16) (rank : BitVec 14) (lw : Option (BitVec 13))
  | waveClear (part : Fin 16) (w : BitVec 13)
  | oldLimitExpiry (part : Fin 16)
  /-- R320: tile t's hard event reaches its die's checker. -/
  | checkerHardReport (t : TileId)
  /-- R323: the second opinion on tile t's work item ends: its columns, or no sound result. -/
  | secondOpinionDone (t : TileId) (result : Option (List Int))
  | softReport (d : Fin 32)
  /-- R329: Keeper firmware records the event `kind` against a unit. -/
  | unitHistoryRecord (unit : Word32) (kind : BitVec 8) (flags : BitVec 8) (stage : BitVec 16) (handle detail : Word32)
  /-- R335: a due target is taken under pattern `pat` of the installed pack. -/
  | testRunStart (t : TileId) (pat : BitVec 12)
  | testRunDone (t : TileId) (pass : Bool)
  /-- R470: a sensor is sampled: its reading in 0.01 °C, or no answer. -/
  | sensorSample (unit : Fin 49) (sns : Fin 16) (reading : Option Int)
  | sampleDelivery (d : Fin 32)
  | calDemand (src : Src) (d : Fin 32) (v : Word)
  | calPeriodDue (t : TileId)
  /-- R345: die d takes due arrays into CAL. -/
  | calEngage (d : Fin 32)
  | calPassDone (t : TileId)
  | calGapExpiry (d : Fin 32) (stage : BitVec 16) (rep : BitVec 8)
  /-- R364: link n has trained with what the far side sent. -/
  | linkTrain (n : Fin 12) (info : TrainInfo)
  | bfpFlitReceive (n : Fin 12) (f : BfpFlit)
  | bfpReplay (n : Fin 12) (ack : BitVec 12)
  | shareRegrant (src : Src) (n : Fin 12) (e : Fin 16) (v : Word)
  | bfpPacketArrive (n : Fin 12) (k : SysPacket)
  | sliceSet (src : Src) (v : Word)
  | sliceClear (src : Src) (v : Word)
  /-- R381: one SYNC exchange with the parent: t1 and t4 on the child, t2 and t3 on the parent, in 1/16 ns. -/
  | milestoneSync (n : Fin 12) (t1 t2 t3 t4 : Int) (depth : BitVec 8)
  | parentLost
  | lockLoss
  | ethLinkChange (n : Fin 16) (up : Bool)
  /-- R393: a local source sends a segment (blocks `pieces` at PIECE) of a collective instance. -/
  | collectiveContribution (coll : BitVec 16) (job : BitVec 16) (handle : Word32) (step : BitVec 16)
      (piece : BitVec 16) (acc : List AccBlk) (blk : List (List Byte))
  /-- R395: a collective packet (R394) reaches the engine over direction `dim`/`neg`. -/
  | collectivePacket (coll : BitVec 16) (job : BitVec 16) (handle : Word32) (step : BitVec 16) (round : Fin 64)
      (dim : Fin 3) (neg gather : Bool) (piece : BitVec 16) (fmt : BitVec 4) (blks : List (List Byte))
  | collectiveTimeout (coll : BitVec 16) (job : BitVec 16) (handle : Word32) (step : BitVec 16)
  | barrierGo (src : Src) (v : Word)
  /-- R401: ARRIVE reaches the coordinator. -/
  | arrive (job : BitVec 16) (origin : BitVec 18) (mile : Word) (lock : Bool) (num : BitVec 16)
  | release (job : BitVec 16) (mile : Word) (code : BitVec 4) (num : BitVec 16)
  | barrierReleaseTime (part : Fin 16)
  | barrierTimeout (part : Fin 16)
  | quadFail (n : Fin 12) (q : Fin 24)
  /-- R404: link n is dead: cause 1 replay, 2 last quad, 3 signal lost. -/
  | linkDead (n : Fin 12) (cause : Fin 4)
  | abort (n : Fin 12) (job : BitVec 16) (cause : BitVec 4) (link : BitVec 4) (origin : BitVec 18)
  | traisTrain (n : Fin 4) (info : TrainInfo)
  | traisFlitReceive (n : Fin 4) (f : TraisFlit)
  /-- R416: port n goes DOWN: `replay` after 16 NAKs, else loss of block lock. -/
  | traisPortDown (n : Fin 4) (replay : Bool)
  | traisRd (n : Fin 4) (sp : Space) (off : Word) (len : Nat) (tag : BitVec 16)
  | traisWr (n : Fin 4) (sp : Space) (off : Word) (data : List Byte)
  | traisRdS (n : Fin 4) (off : Word) (tag : BitVec 16)
  | traisRdE (n : Fin 4) (off : Word) (tag : BitVec 16)
  | traisWb (n : Fin 4) (off : Word) (data : List Byte)
  | traisSnpRsp (n : Fin 4) (tag : BitVec 16) (data : Option (List Byte))
  /-- R426: a completion for the part's own read of host memory: its line and STATUS. -/
  | traisCpl (n : Fin 4) (tag : BitVec 16) (status : BitVec 8) (data : List Byte)
  | traisSnpInv (n : Fin 4) (addr : Word) (tag : BitVec 16)
  | traisSnpRcl (n : Fin 4) (addr : Word) (tag : BitVec 16)
  /-- R425: the snoop with `tag` on port n is not answered in time. -/
  | snoopTimeout (n : Fin 4) (tag : BitVec 16)
  | eventRaise (v : Fin 128) (data : Word32)
  | eventHoldoffExpiry (n : Fin 4) (v : Fin 128)
  | eventTableWrite (src : Src) (n : Fin 4) (v : Fin 128) (w : Word)
  | ringWindowRemap (src : Src) (n : Fin 4) (k : Fin 16) (v : Word)
  | dmaRingWrite (src : Src) (d : Fin 32) (c : Fin 2) (v : Word)
  | dmaDoorbell (src : Src) (d : Fin 32) (c : Fin 2) (v : Word)
  /-- R440: channel c of die d takes the descriptor at HEAD. -/
  | dmaDescriptor (d : Fin 32) (c : Fin 2)
  /-- R438: the descriptor in progress ends; a failure of the move (5 POISON or 6 HOST), with the bytes
  written before it, or 0. -/
  | dmaTransferDone (d : Fin 32) (c : Fin 2) (status : BitVec 8) (moved : Nat) (host : List Byte)
  | dmaBurstGap (d : Fin 32) (c : Fin 2)
  | dmaResume (src : Src) (d : Fin 32) (c : Fin 2) (v : Word)
  | dmaAbort (src : Src) (d : Fin 32) (c : Fin 2) (v : Word)
  | keeperWatchdog
  | keeperReturn
  /-- R452: an event of class and code is logged. -/
  | logRecord (cls : Fin 13) (sev : Fin 5) (code : BitVec 16) (unit : Word32) (part : Fin 64)
      (job : BitVec 16) (handle : Word32) (detail : List Byte)
  | mbxRead (src : Src) (v : Word)
  | mbxWrite (src : Src) (v : Word)
  | mbxCommit (src : Src) (v : Word)
  | mbxInfo (src : Src) (v : Word)
  | mbxWake (src : Src) (v : Word)
  /-- R458: an MCTP control request with its command code and data. -/
  | mctpControl (cmd : BitVec 8) (data : List Byte)
  | i3cCcc (ccc : BitVec 8) (data : List Byte)
  | pldmBase (cmd : BitVec 8) (data : List Byte)
  | pldmPlatform (cmd : BitVec 8) (data : List Byte)
  | pldmRequestUpdate
  | pldmFirmwareData (off : Word32) (data : List Byte)
  | pldmActivateFirmware
  | pldmCancelUpdate
  | pldmOem (op : BitVec 3) (obj : BitVec 16) (off : Word32) (len : BitVec 13) (data : List Byte)
  | monEnable (src : Src) (v : Word)
  | monStartupDone
  /-- R463: the conversion in progress ends with the input at `v` nanovolts. -/
  | monConversionDone (v : Int)
  | monDelayExpiry
  | injSw (src : Src) (v : Word)
  /-- R462: an injected trigger: 0 near-limit sensor, 1 overcurrent, 2 software. -/
  | monInjectedTrigger (cause : Fin 3)
  | monFifoRead (src : Src)
  /-- R474: the governor's 10 µs tick with each die's demand over the last 10 µs, in firing units. -/
  | governorTick (demand : List Nat)
  /-- R477: the input current, in 0.1 A, exceeds the limit. -/
  | overcurrentTrip (current : BitVec 16)
  | overcurrentHoldEnd
  | pwrcapChange (low : Bool)
  /-- R478: a stop comparator trips. -/
  | thermalStop (unit : Fin 49) (sns : Fin 16)
  | stopDrainEnd
  | stopRailsOff
  | hardwareCut (unit : Fin 49) (sns : Fin 16)
  /-- R480: the 48 V input, lowest at `v` in 0.01 V. -/
  | undervoltage (v : BitVec 16)
  | refclkLoss
  | vauxRemoval
  | powerReqP0 (src : Src) (v : Word)
  | powerReqP2 (src : Src) (v : Word)
  /-- R483: the P2 drain ends, with every step drained or not. -/
  | p2DrainEnd (drained : Bool)
  | powerReqP3 (src : Src) (v : Word)
  | wakePin
  | stagePtab (src : Src) (v : Word)
  | stageCfg (src : Src) (v : Word)
  | stageDeploy (src : Src) (v : Word)
  | stageDecommission (src : Src) (v : Word)
  | stageProvision (src : Src) (v : Word)
  | attest (src : Src) (v : Word)
  | present (src : Src) (v : Word)
  | revoke (src : Src) (v : Word)
  | newNonce (src : Src) (v : Word)
  | debugOpen (src : Src) (v : Word)
  | tokenExpiry
  /-- R504: 0 BYPASS, 1 IDCODE, 2 SAMPLE/PRELOAD, 3 EXTEST, 4 EXTEST_PULSE, 5 EXTEST_TRAIN, 6 halt,
  7 step, 8 a private instruction. -/
  | tapInstruction (k : Fin 9)
  | piece (src : Src) (v : Word)
  | activate (src : Src) (v : Word)
  | cancelUpdate (src : Src) (v : Word)
  | confirm (src : Src) (v : Word)
  | confirmExpiry
  | recover (src : Src) (v : Word)
  /-- R525: a cold reset: cause 1 VAUX, 2 RESET_N, 3 KPR_RST with its value; RECOV_N low and the identity
  read-out are what the ROM finds. -/
  | coldReset (src : Option Src) (cause : Fin 4) (v : Word) (recovLow : Bool) (straps : Fin 8) (idOk : Bool)
  | warmReset (src : Option Src) (v : Word)
  | partitionReset (src : Src) (d : Fin 32) (v : Word)
  /-- R525: the conditions of step 3, the rails and PLLs of steps 4 and 5. -/
  | bringupRailsEnable (inputOk : Bool) (test : SelfTest)
  | bringupReady (test : SelfTest) (ms : Word32)
  | swapCommandTimeout (part : Fin 16)
  | noiseModelRefresh
  /-- R371: a fabric tree branch of a port block stalled beyond BFP_MCHOLD.LIMIT. -/
  | fabricMcHoldExpiry (n : Fin 12) (job : BitVec 16) (tree : BitVec 16)
  deriving DecidableEq, Repr

end Sys2Proof
end

