-- ==== Sys2Proof/Decode.lean ====
section
/-!
DEFINITION. The words of the block. No row of the table of operations and events gives bits, so no word spells a command by the
table; the tile sequencer's own instruction words (R106, R107) are read here.
-/
namespace Sys2Proof

/-- The command a word spells by the table's bits: none, for the table gives no row bits. -/
def decodeTableWord (_nbits _w : Nat) : Option Instr := none

/-! ## Instruction words of a sequencer (R106) -/

/-- OP, A, B and IMM of an instruction word. -/
def insnOp (w : Word32) : Nat := (w >>> 26).toNat
def insnA (w : Word32) : Fin 16 := ⟨(w >>> 22).toNat % 16, Nat.mod_lt _ (by decide)⟩
def insnB (w : Word32) : Fin 16 := ⟨(w >>> 18).toNat % 16, Nat.mod_lt _ (by decide)⟩
def insnImm (w : Word32) : BitVec 18 := w.setWidth 18

/-- IMM[3:0] names a route entry; IMM[4] a bank; IMM[5] an output buffer. -/
def insnRoute (w : Word32) : Fin 16 := ⟨w.toNat % 16, Nat.mod_lt _ (by decide)⟩
def insnBank (w : Word32) : Fin 2 := ⟨(w >>> 4).toNat % 2, Nat.mod_lt _ (by decide)⟩
def insnOutb (w : Word32) : Fin 2 := ⟨(w >>> 5).toNat % 2, Nat.mod_lt _ (by decide)⟩

/-- A word is an instruction of R107: a listed opcode, and for ACC a mode 0–4. -/
def insnListed (w : Word32) : Bool :=
  (insnOp w ≤ 9 || (0x0C ≤ insnOp w && insnOp w ≤ 0x0E) || insnOp w == 0x10 || (0x12 ≤ insnOp w && insnOp w ≤ 0x1A)) &&
    !(insnOp w == 0x14 && 5 ≤ w.toNat % 8)

/-- R107: the ACC instruction of a word, by its mode. -/
def insnAcc (c : CoreId) (w : Word32) : Instr :=
  match w.toNat % 8 with
  | 0 => .accClearAddMvm ⟨c, .ok⟩ (insnBank w)
  | 1 => .accAddMvm ⟨c, .ok⟩ (insnBank w)
  | 2 => .accAddOpass ⟨c, .ok⟩ (insnBank w)
  | 3 => .accAddPsum ⟨c, .ok⟩ (insnBank w)
  | 4 => .accAddSpill ⟨c, .ok⟩ (insnBank w)
  | _ => .nop c ⟨w, .ok⟩

/-- R106, R107: the command that an instruction word is, where its checks find nothing. A word that is no instruction is the row NOP's,
which takes its fault. -/
def insnCommand (c : CoreId) (w : Word32) : Instr :=
  let a := insnA w
  let b := insnB w
  let imm := insnImm w
  match insnOp w with
  | 0x01 => .ldi c a imm
  | 0x02 => .add c a b imm
  | 0x03 => .sub c a b imm
  | 0x04 => .and c a b imm
  | 0x05 => .or c a b imm
  | 0x06 => .shl c a b imm
  | 0x07 => .shr c a b imm
  | 0x08 => .ld c a b imm .ok
  | 0x09 => .st c a b imm
  | 0x0C => .bz c a imm
  | 0x0D => .bnz c a imm
  | 0x0E => .jmp c imm
  | 0x10 => .wait c imm
  | 0x12 => .mvm ⟨c, .ok⟩ a
  | 0x13 => .opass ⟨c, .ok⟩ a
  | 0x14 => insnAcc c w
  | 0x15 => .rq ⟨c, .ok⟩ (insnBank w) (insnOutb w)
  | 0x16 => .send ⟨c, .ok⟩ (insnOutb w) (insnRoute w)
  | 0x17 => .psum ⟨c, .ok⟩ (insnBank w) (insnRoute w)
  | 0x18 => .spill ⟨c, .ok⟩ a
  | 0x19 => .done c
  | 0x1A => .fail c (w.setWidth 8)
  | _ => .nop c ⟨w, .ok⟩

end Sys2Proof
end

