-- ==== Sys2Proof/Config.lean ====
section
/-!
DEFINITION. What the manual leaves open: free values without a body (no proof can use what they are), and the
cryptographic functions the manual names but does not define.
-/
namespace Sys2Proof.Config

/-- R87, R92: by how much the code of a conversion departs from the ideal code. Arguments: the draw counter, the plane, the
column pair. -/
opaque adcNoise : Nat → Nat → Nat → Int

/-- R347: the sum of the 2,048 codes an ADC gives at one calibration point. Arguments: the draw counter, the
ADC (0–65), the point (1–8). -/
opaque calReading : Nat → Nat → Nat → Int

/-- R228: which of the replicas on other parts has the fewest work items queued or running, a count those parts keep. Arguments:
the draw counter, the stage, the passage index. -/
opaque farReplica : Nat → Nat → Nat → Nat

/-- SHAKE256 (R489): the first n bytes of the digest of a byte string. -/
opaque shake256 : Nat → List Byte → List Byte

/-- Falcon-1024 verification (R491): key, message digest, signature. -/
opaque falconVerify : List Byte → List Byte → List Byte → Bool

/-- Falcon-1024 signature with the part's identity key (R499) over a digest. -/
opaque identitySign : List Byte → List Byte

/-- R489: the identity public key the part's seed gives. -/
opaque identityPublicKey : List Byte

/-- R491: the boot ROM's four public keys, by index. -/
opaque romKey : Nat → List Byte

/-- R492: the digest of the ROM's contents. -/
opaque romDigest : List Byte

/-- R508: the debug nonce drawn at the n-th draw. -/
opaque nonce : Nat → List Byte

/-- A byte the manual leaves open. Arguments: the draw counter, the position. -/
opaque freeByte : Nat → Nat → Byte

/-- A word the manual leaves open. -/
opaque freeWord : Nat → Word

/-- A number the manual leaves open. -/
opaque freeNat : Nat → Nat

/-- A yes or no the manual leaves open. -/
opaque freeBool : Nat → Bool

/-- R451: the NVM words of a write that fail their read-back after three further tries. -/
opaque nvmFails : Nat → Nat

/-- R455: the contents of object LOG_CODES of the running firmware. -/
opaque logCodes : List Byte

/-- R294: the level, 0–7, nearest the conductance of a cell left outside the verify window. -/
opaque stuckLevel : Nat → Nat → Nat

/-- R65: the level, 0–7, of a cell of a weight whose code is the reserved 0b1000. Arguments: the draw of its programming, the
cell. -/
opaque reservedLevel : Nat → Nat → Nat

/-- The contents of the noise model's sections measured at manufacture (R95, R96), by byte offset in the file. -/
opaque noiseModelByte : Nat → Byte

end Sys2Proof.Config
end

