-- ==== Sys2Proof/Machine/RegTable.lean ====
section
/-!
DEFINITION. The register space (R9, R14, R15): the blocks, and for each register the manual tables its offset, its
fields, their access codes and their reset values. `F` names every field as the manual does, REG_FIELD.
-/
namespace Sys2Proof.Machine

/-- The register blocks of R14. `fab` holds the registers of BFP_0 that are banked by partition (R496). -/
inductive Blk where
  | sch | pas | bil | cal | chk | stk | dma | til | kpr | mon | thm | pwr | sec | upd | msc | ldr | eth | trl | bfp | prt | fab
  deriving DecidableEq, Repr

/-- The access codes of R9; `rsw1c` is a field that carries RS and W1C. -/
inductive Acc where
  | ro | rw | wo | w1c | w1s | rs | rsw1c | bw
  deriving DecidableEq, Repr

/-- A named field: its block, the register's offset, and its bits. -/
structure Fld where
  blk : Blk
  off : Nat
  hi : Nat
  lo : Nat
  deriving DecidableEq, Repr

/-- One field of a register table. -/
structure RegFld where
  hi : Nat
  lo : Nat
  acc : Acc
  rst : Nat
  deriving DecidableEq, Repr

/-- One row of a register table: `n` registers, `stride` bytes apart. -/
structure RegRow where
  off : Nat
  n : Nat
  stride : Nat
  flds : List RegFld
  deriving DecidableEq, Repr

/-- The type code of a block (R14). `fab` shares the fabric block; its code only separates register keys. -/
def Blk.code : Blk → Nat
  | .sch => 0x0011
  | .pas => 0x0012
  | .bil => 0x0010
  | .cal => 0x0014
  | .chk => 0x0015
  | .stk => 0x0016
  | .dma => 0x0017
  | .til => 0x0013
  | .kpr => 0x0001
  | .mon => 0x0002
  | .thm => 0x0003
  | .pwr => 0x0004
  | .sec => 0x0005
  | .upd => 0x0006
  | .msc => 0x0023
  | .ldr => 0x0025
  | .eth => 0x0024
  | .trl => 0x0020
  | .bfp => 0x0022
  | .prt => 0x0021
  | .fab => 0x0100

/-- The registers of SCH_ blocks. -/
def rowsSch : List RegRow :=
  [/- SCH_FLAG_SEL (R64) -/ ⟨0x0800, 1, 8, [⟨15, 0, .rw, 0⟩]⟩,
   /- SCH_FLAG_CNT (R64) -/ ⟨0x0808, 1, 8, [⟨63, 32, .ro, 0⟩, ⟨31, 0, .ro, 0⟩]⟩,
   /- SCH_FLAG_WIN (R64) -/ ⟨0x0810, 1, 8, [⟨5, 0, .rw, 30⟩]⟩,
   /- SCH_FLAG_EVT (R64) -/ ⟨0x0818, 1, 8, [⟨47, 32, .ro, 0⟩, ⟨1, 1, .w1c, 0⟩, ⟨0, 0, .w1c, 0⟩]⟩,
   /- SCH_FMT_CNT (R64) -/ ⟨0x0820, 1, 8, [⟨63, 32, .ro, 0⟩, ⟨31, 0, .ro, 0⟩]⟩,
   /- SCH_FMT_CLR (R64) -/ ⟨0x0828, 1, 8, [⟨0, 0, .wo, 0⟩]⟩,
   /- SCH_RCP_CMD (R64) -/ ⟨0x0830, 1, 8, [⟨63, 48, .rw, 0⟩, ⟨47, 6, .rw, 0⟩, ⟨0, 0, .wo, 0⟩]⟩,
   /- SCH_RCP_STS (R64) -/ ⟨0x0838, 1, 8, [⟨63, 48, .ro, 0⟩, ⟨47, 32, .ro, 0⟩, ⟨7, 4, .ro, 0⟩, ⟨1, 1, .w1c, 0⟩, ⟨0, 0, .ro, 0⟩]⟩,
   /- SCH_BATCH (R233) -/ ⟨0x0100, 1, 8, [⟨47, 32, .rw, 200⟩, ⟨8, 0, .rw, 64⟩]⟩,
   /- SCH_AGE (R233) -/ ⟨0x0108, 1, 8, [⟨5, 0, .rw, 20⟩]⟩,
   /- SCH_SB_STS (R233) -/ ⟨0x0110, 1, 8, [⟨31, 31, .ro, 0⟩, ⟨16, 0, .ro, 0⟩]⟩,
   /- SCH_BATCH_CNT (R233) -/ ⟨0x0118, 1, 8, [⟨63, 0, .ro, 0⟩]⟩,
   /- SCH_ITEM_CNT (R233) -/ ⟨0x0120, 1, 8, [⟨63, 0, .ro, 0⟩]⟩,
   /- SCH_DL_MISS (R233) -/ ⟨0x0128, 1, 8, [⟨31, 0, .ro, 0⟩]⟩,
   /- SCH_EXP_SEL (R256) -/ ⟨0x0300, 1, 8, [⟨15, 0, .rw, 0⟩]⟩,
   /- SCH_EXP_CNT (R256) -/ ⟨0x0308, 1, 8, [⟨63, 32, .ro, 0⟩, ⟨31, 0, .ro, 0⟩]⟩,
   /- SCH_EXP_DROP (R256) -/ ⟨0x0310, 1, 8, [⟨63, 32, .ro, 0⟩, ⟨31, 0, .ro, 0⟩]⟩,
   /- SCH_EXP_QUE (R256) -/ ⟨0x0318, 1, 8, [⟨63, 32, .ro, 0⟩, ⟨24, 16, .ro, 0⟩, ⟨8, 0, .ro, 0⟩]⟩,
   /- SCH_EXP_HIST (R256) -/ ⟨0x0320, 1, 8, [⟨63, 63, .rw, 0⟩, ⟨47, 6, .rw, 0⟩]⟩,
   /- SCH_EXIT_SEL (R256) -/ ⟨0x0328, 1, 8, [⟨15, 0, .rw, 0⟩]⟩,
   /- SCH_EXIT_CNT (R256) -/ ⟨0x0330, 1, 8, [⟨63, 32, .ro, 0⟩, ⟨31, 0, .ro, 0⟩]⟩,
   /- SCH_DISP_BUF (R256) -/ ⟨0x0338, 1, 8, [⟨63, 32, .ro, 0⟩, ⟨23, 0, .ro, 0⟩]⟩,
   /- SCH_EXP_CLR (R256) -/ ⟨0x0340, 1, 8, [⟨0, 0, .wo, 0⟩]⟩,
   /- SCH_PRST (R533) -/ ⟨0x0400, 1, 8, [⟨1, 1, .ro, 0⟩, ⟨0, 0, .wo, 0⟩]⟩]

/-- The registers of PAS_ blocks. -/
def rowsPas : List RegRow :=
  [/- PAS_PT_BASE (R232) -/ ⟨0x0100, 1, 8, [⟨63, 63, .ro, 0⟩, ⟨47, 12, .rw, 0⟩]⟩,
   /- PAS_RANGE (R232) -/ ⟨0x0108, 1, 8, [⟨51, 32, .ro, 0⟩, ⟨19, 0, .ro, 0⟩]⟩,
   /- PAS_ARING_BASE (R232) -/ ⟨0x0110, 1, 8, [⟨63, 63, .rw, 0⟩, ⟨47, 6, .rw, 0⟩, ⟨5, 0, .rw, 6⟩]⟩,
   /- PAS_ARING_TAIL (R232) -/ ⟨0x0118, 1, 8, [⟨16, 0, .wo, 0⟩]⟩,
   /- PAS_ARING_HEAD (R232) -/ ⟨0x0120, 1, 8, [⟨16, 0, .ro, 0⟩]⟩,
   /- PAS_CRING_BASE (R232) -/ ⟨0x0128, 1, 8, [⟨63, 63, .rw, 0⟩, ⟨47, 6, .rw, 0⟩, ⟨5, 0, .rw, 6⟩]⟩,
   /- PAS_CRING_HEAD (R232) -/ ⟨0x0130, 1, 8, [⟨16, 0, .rw, 0⟩]⟩,
   /- PAS_CRING_TAIL (R232) -/ ⟨0x0138, 1, 8, [⟨18, 18, .rw, 0⟩, ⟨17, 17, .ro, 0⟩, ⟨16, 0, .ro, 0⟩]⟩,
   /- PAS_LIVE (R232) -/ ⟨0x0140, 1, 8, [⟨63, 32, .ro, 0⟩, ⟨31, 0, .ro, 0⟩]⟩,
   /- PAS_CACHE_CNT (R232) -/ ⟨0x0148, 1, 8, [⟨63, 32, .ro, 0⟩, ⟨31, 0, .ro, 0⟩]⟩,
   /- PAS_REJ (R232) -/ ⟨0x0150, 1, 8, [⟨63, 32, .ro, 0⟩, ⟨7, 0, .ro, 0⟩]⟩,
   /- PAS_PEEK (R232) -/ ⟨0x0158, 1, 8, [⟨63, 63, .ro, 0⟩, ⟨59, 56, .ro, 0⟩, ⟨19, 0, .rw, 0⟩]⟩]

/-- The registers of BIL_ blocks. -/
def rowsBil : List RegRow :=
  [/- BIL_IMG_ADDR (R171) -/ ⟨0x0100, 1, 8, [⟨47, 6, .rw, 0⟩]⟩,
   /- BIL_IMG_LEN (R171) -/ ⟨0x0108, 1, 8, [⟨31, 0, .rw, 0⟩]⟩,
   /- BIL_IMG_CMD (R171) -/ ⟨0x0110, 1, 8, [⟨63, 48, .rw, 20⟩, ⟨47, 32, .rw, 0⟩, ⟨3, 1, .rw, 0⟩, ⟨0, 0, .wo, 0⟩]⟩,
   /- BIL_IMG_STS (R171) -/ ⟨0x0118, 1, 8, [⟨63, 48, .ro, 0⟩, ⟨47, 24, .ro, 0⟩, ⟨23, 16, .ro, 0⟩, ⟨8, 8, .ro, 0⟩, ⟨7, 4, .ro, 0⟩, ⟨1, 1, .w1c, 0⟩, ⟨0, 0, .ro, 0⟩]⟩,
   /- BIL_IMG_ID (R171) -/ ⟨0x0120, 4, 8, [⟨63, 0, .ro, 0⟩]⟩,
   /- BIL_BIND_STS (R203) -/ ⟨0x0200, 1, 8, [⟨63, 32, .ro, 0⟩, ⟨23, 16, .ro, 0⟩, ⟨15, 8, .ro, 0⟩, ⟨2, 2, .ro, 0⟩, ⟨1, 1, .ro, 0⟩, ⟨0, 0, .ro, 0⟩]⟩,
   /- BIL_RPT_ADDR (R203) -/ ⟨0x0208, 1, 8, [⟨47, 6, .rw, 0⟩]⟩,
   /- BIL_RPT_LEN (R203) -/ ⟨0x0210, 1, 8, [⟨63, 32, .ro, 0⟩, ⟨31, 0, .rw, 0⟩]⟩,
   /- BIL_POL (R203) -/ ⟨0x0218, 1, 8, [⟨28, 16, .rw, 0⟩, ⟨7, 0, .rw, 128⟩]⟩,
   /- BIL_COST (R203) -/ ⟨0x0220, 1, 8, [⟨39, 32, .rw, 64⟩, ⟨31, 24, .rw, 1⟩, ⟨23, 16, .rw, 1⟩, ⟨15, 8, .rw, 2⟩, ⟨7, 0, .rw, 4⟩]⟩,
   /- BIL_FORBID (R203) -/ ⟨0x0228, 1, 8, [⟨19, 13, .wo, 0⟩, ⟨12, 6, .wo, 0⟩, ⟨1, 1, .wo, 0⟩, ⟨0, 0, .wo, 0⟩]⟩,
   /- BIL_FORBID_CNT (R203) -/ ⟨0x0230, 1, 8, [⟨15, 0, .ro, 0⟩]⟩,
   /- BIL_TILES (R203) -/ ⟨0x0238, 1, 8, [⟨63, 48, .ro, 0⟩, ⟨47, 32, .ro, 0⟩, ⟨31, 16, .ro, 0⟩, ⟨15, 0, .ro, 0⟩]⟩,
   /- BIL_REBIND (R203) -/ ⟨0x0240, 1, 8, [⟨63, 32, .rs, 0⟩, ⟨19, 13, .ro, 0⟩, ⟨12, 6, .ro, 0⟩, ⟨2, 0, .ro, 0⟩]⟩,
   /- BIL_SLICE (R203) -/ ⟨0x0248, 1, 8, [⟨47, 32, .ro, 0⟩, ⟨13, 0, .ro, 0⟩]⟩]

/-- The registers of CAL_ blocks. -/
def rowsCal : List RegRow :=
  [/- CAL_CFG (R355) -/ ⟨0x0100, 1, 8, [⟨63, 48, .rw, 655⟩, ⟨47, 40, .rw, 24⟩, ⟨39, 32, .rw, 16⟩, ⟨24, 16, .rw, 128⟩, ⟨15, 8, .rw, 24⟩, ⟨7, 0, .rw, 64⟩]⟩,
   /- CAL_HOLD (R355) -/ ⟨0x0108, 1, 8, [⟨63, 32, .rw, 1000⟩, ⟨15, 0, .rw, 400⟩]⟩,
   /- CAL_CMD (R355) -/ ⟨0x0110, 1, 8, [⟨20, 20, .wo, 0⟩, ⟨19, 13, .wo, 0⟩, ⟨12, 6, .wo, 0⟩, ⟨0, 0, .wo, 0⟩]⟩,
   /- CAL_STS (R355) -/ ⟨0x0118, 1, 8, [⟨47, 32, .ro, 0⟩, ⟨8, 0, .ro, 0⟩]⟩,
   /- CAL_CNT (R355) -/ ⟨0x0120, 1, 8, [⟨63, 32, .rs, 0⟩, ⟨31, 0, .rs, 0⟩]⟩,
   /- CAL_TRIG (R355) -/ ⟨0x0128, 1, 8, [⟨63, 48, .rs, 0⟩, ⟨47, 32, .rs, 0⟩, ⟨31, 16, .rs, 0⟩, ⟨15, 0, .rs, 0⟩]⟩,
   /- CAL_FLAG (R355) -/ ⟨0x0130, 1, 8, [⟨63, 32, .rs, 0⟩, ⟨15, 0, .rs, 0⟩]⟩]

/-- The registers of CHK_ blocks. -/
def rowsChk : List RegRow :=
  [/- CHK_CFG (R337) -/ ⟨0x0100, 1, 8, [⟨47, 32, .bw, 64⟩, ⟨8, 8, .bw, 0⟩, ⟨7, 0, .bw, 112⟩]⟩,
   /- CHK_SIGMA (R337) -/ ⟨0x0108, 1, 8, [⟨47, 32, .ro, 0⟩, ⟨15, 0, .ro, 0⟩]⟩,
   /- CHK_SOFT (R337) -/ ⟨0x0110, 1, 8, [⟨63, 32, .rs, 0⟩, ⟨31, 0, .rs, 0⟩]⟩,
   /- CHK_HARD (R337) -/ ⟨0x0118, 1, 8, [⟨63, 48, .rs, 0⟩, ⟨47, 32, .rs, 0⟩, ⟨31, 16, .rs, 0⟩, ⟨15, 0, .rs, 0⟩]⟩,
   /- CHK_SECOND (R337) -/ ⟨0x0120, 1, 8, [⟨63, 32, .rs, 0⟩, ⟨31, 0, .rs, 0⟩]⟩,
   /- CHK_DATA (R337) -/ ⟨0x0128, 1, 8, [⟨47, 32, .rs, 0⟩, ⟨31, 16, .rs, 0⟩, ⟨15, 0, .rs, 0⟩]⟩,
   /- CHK_LAST (R337) -/ ⟨0x0130, 1, 8, [⟨63, 63, .w1c, 0⟩, ⟨55, 48, .ro, 0⟩, ⟨47, 32, .ro, 0⟩, ⟨31, 0, .ro, 0⟩]⟩,
   /- CHK_HOLD (R337) -/ ⟨0x0138, 1, 8, [⟨63, 32, .rs, 0⟩, ⟨10, 0, .ro, 0⟩]⟩,
   /- CHK_TP (R337) -/ ⟨0x0140, 1, 8, [⟨63, 32, .rs, 0⟩, ⟨31, 16, .rs, 0⟩, ⟨6, 0, .ro, 0⟩]⟩]

/-- The registers of STK_ blocks. -/
def rowsStk : List RegRow :=
  [/- STK_CFG (R285) -/ ⟨0x0100, 1, 8, [⟨63, 32, .ro, 0⟩, ⟨8, 8, .ro, 0⟩, ⟨3, 0, .ro, 0⟩]⟩,
   /- STK_ECC_CNT (R285) -/ ⟨0x0108, 1, 8, [⟨63, 32, .rs, 0⟩, ⟨31, 0, .rs, 0⟩]⟩,
   /- STK_ECC_ADDR (R285) -/ ⟨0x0110, 1, 8, [⟨63, 63, .w1c, 0⟩, ⟨47, 5, .ro, 0⟩, ⟨0, 0, .ro, 0⟩]⟩,
   /- STK_SCRUB (R285) -/ ⟨0x0118, 1, 8, [⟨63, 32, .rs, 0⟩, ⟨7, 0, .rw, 24⟩]⟩,
   /- STK_ARB (R285) -/ ⟨0x0120, 1, 8, [⟨3, 0, .bw, 4⟩]⟩,
   /- STK_BW_RD (R285) -/ ⟨0x0128, 1, 8, [⟨63, 0, .ro, 0⟩]⟩,
   /- STK_BW_WR (R285) -/ ⟨0x0130, 1, 8, [⟨63, 0, .ro, 0⟩]⟩,
   /- STK_SC_CNT (R285) -/ ⟨0x0200, 1, 8, [⟨63, 32, .ro, 0⟩, ⟨31, 0, .ro, 0⟩]⟩,
   /- STK_SC_WB (R285) -/ ⟨0x0208, 1, 8, [⟨31, 0, .ro, 0⟩]⟩,
   /- STK_PF_CTL (R285) -/ ⟨0x0210, 1, 8, [⟨31, 16, .rw, 256⟩, ⟨7, 7, .rw, 1⟩, ⟨6, 0, .rw, 16⟩]⟩,
   /- STK_PF_CNT (R285) -/ ⟨0x0218, 1, 8, [⟨63, 32, .ro, 0⟩, ⟨31, 0, .ro, 0⟩]⟩,
   /- STK_PF_USE (R285) -/ ⟨0x0220, 1, 8, [⟨31, 0, .ro, 0⟩]⟩,
   /- STK_SC_ECC (R285) -/ ⟨0x0228, 1, 8, [⟨63, 32, .rs, 0⟩, ⟨31, 0, .rs, 0⟩]⟩,
   /- STK_VIOL (R285) -/ ⟨0x0230, 1, 8, [⟨63, 32, .rs, 0⟩, ⟨21, 16, .ro, 0⟩, ⟨10, 0, .ro, 0⟩]⟩,
   /- STK_WIN_SEL (R285) -/ ⟨0x0300, 1, 8, [⟨7, 0, .rw, 0⟩]⟩,
   /- STK_WIN_BASE (R285) -/ ⟨0x0308, 1, 8, [⟨63, 63, .ro, 0⟩, ⟨53, 48, .ro, 0⟩, ⟨47, 12, .ro, 0⟩]⟩,
   /- STK_WIN_LIM (R285) -/ ⟨0x0310, 1, 8, [⟨47, 12, .ro, 0⟩]⟩,
   /- STK_WIN_CNT (R285) -/ ⟨0x0318, 1, 8, [⟨63, 32, .ro, 0⟩, ⟨8, 0, .ro, 0⟩]⟩,
   /- STK_TIER_STS (R285) -/ ⟨0x0400, 1, 8, [⟨20, 16, .ro, 0⟩, ⟨12, 8, .ro, 0⟩, ⟨2, 0, .ro, 0⟩]⟩,
   /- STK_TIER_WGT (R285) -/ ⟨0x0408, 1, 8, [⟨63, 0, .ro, 0⟩]⟩,
   /- STK_TIER_ITEM (R285) -/ ⟨0x0410, 1, 8, [⟨63, 32, .ro, 0⟩, ⟨31, 0, .ro, 0⟩]⟩,
   /- STK_CLR (R285) -/ ⟨0x0418, 1, 8, [⟨0, 0, .wo, 0⟩]⟩]

/-- The registers of DMA_ blocks. -/
def rowsDma : List RegRow :=
  [/- DMA_CH_RING (R445) -/ ⟨0x0100, 2, 128, [⟨63, 63, .rw, 0⟩, ⟨47, 6, .rw, 0⟩, ⟨5, 0, .rw, 4⟩]⟩,
   /- DMA_CH_TAIL (R445) -/ ⟨0x0108, 2, 128, [⟨16, 0, .wo, 0⟩]⟩,
   /- DMA_CH_HEAD (R445) -/ ⟨0x0110, 2, 128, [⟨16, 0, .ro, 0⟩]⟩,
   /- DMA_CH_CFG (R445) -/ ⟨0x0118, 2, 128, [⟨39, 32, .rw, 64⟩, ⟨25, 24, .rw, 1⟩, ⟨17, 16, .rw, 0⟩, ⟨1, 1, .rw, 1⟩, ⟨0, 0, .rw, 0⟩]⟩,
   /- DMA_CH_STS (R445) -/ ⟨0x0120, 2, 128, [⟨37, 32, .ro, 0⟩, ⟨15, 8, .ro, 0⟩, ⟨2, 1, .ro, 0⟩, ⟨0, 0, .ro, 0⟩]⟩,
   /- DMA_CH_ERR (R445) -/ ⟨0x0128, 2, 128, [⟨63, 32, .ro, 0⟩, ⟨16, 0, .ro, 0⟩]⟩,
   /- DMA_CH_CMD (R445) -/ ⟨0x0130, 2, 128, [⟨1, 0, .wo, 0⟩]⟩,
   /- DMA_CH_BYTES (R445) -/ ⟨0x0138, 2, 128, [⟨63, 0, .ro, 0⟩]⟩,
   /- DMA_CH_DESC (R445) -/ ⟨0x0140, 2, 128, [⟨63, 32, .rs, 0⟩, ⟨31, 0, .ro, 0⟩]⟩]

/-- The registers of TIL_ blocks. -/
def rowsTil : List RegRow :=
  [/- TIL_ARR_CFG (R102) -/ ⟨0x0100, 1, 8, [⟨15, 12, .ro, 0⟩, ⟨9, 8, .ro, 0⟩, ⟨2, 0, .ro, 0⟩]⟩,
   /- TIL_ARR_STS (R102) -/ ⟨0x0108, 1, 8, [⟨7, 7, .ro, 0⟩, ⟨2, 0, .ro, 0⟩]⟩,
   /- TIL_ARR_MVM (R102) -/ ⟨0x0110, 1, 8, [⟨47, 0, .ro, 0⟩]⟩,
   /- TIL_ARR_SKIP (R102) -/ ⟨0x0118, 1, 8, [⟨63, 32, .ro, 0⟩, ⟨31, 0, .ro, 0⟩]⟩,
   /- TIL_ARR_ADCSAT (R102) -/ ⟨0x0120, 1, 8, [⟨31, 0, .ro, 0⟩]⟩,
   /- TIL_ARR_WEAR (R102) -/ ⟨0x0128, 1, 8, [⟨31, 0, .ro, 0⟩]⟩,
   /- TIL_ARR_CLR (R102) -/ ⟨0x0130, 1, 8, [⟨0, 0, .wo, 0⟩]⟩,
   /- TIL_SEQ_STS (R127) -/ ⟨0x0200, 1, 8, [⟨25, 16, .ro, 0⟩, ⟨11, 8, .ro, 0⟩, ⟨1, 0, .ro, 0⟩]⟩,
   /- TIL_SEQ_FLT (R127) -/ ⟨0x0208, 1, 8, [⟨31, 0, .ro, 0⟩]⟩,
   /- TIL_SEQ_WDOG (R127) -/ ⟨0x0210, 1, 8, [⟨31, 0, .ro, 65536⟩]⟩,
   /- TIL_OUT_CNT (R127) -/ ⟨0x0280, 1, 8, [⟨63, 32, .ro, 0⟩, ⟨31, 0, .ro, 0⟩]⟩,
   /- TIL_OUT_OVF (R127) -/ ⟨0x0288, 1, 8, [⟨63, 32, .ro, 0⟩, ⟨31, 0, .ro, 0⟩]⟩,
   /- TIL_OUT_SPILL (R127) -/ ⟨0x0290, 1, 8, [⟨63, 32, .ro, 0⟩, ⟨31, 0, .ro, 0⟩]⟩,
   /- TIL_OUT_ESC (R127) -/ ⟨0x0298, 1, 8, [⟨31, 0, .ro, 0⟩]⟩,
   /- TIL_OUT_PASS (R127) -/ ⟨0x02A0, 1, 8, [⟨31, 0, .ro, 0⟩]⟩,
   /- TIL_OUT_CLR (R127) -/ ⟨0x02A8, 1, 8, [⟨0, 0, .wo, 0⟩]⟩,
   /- TIL_SRAM_ERR (R127) -/ ⟨0x0300, 1, 8, [⟨63, 32, .rs, 0⟩, ⟨31, 0, .rs, 0⟩]⟩,
   /- TIL_CHK (R338) -/ ⟨0x0380, 1, 8, [⟨63, 48, .rs, 0⟩, ⟨47, 32, .rs, 0⟩, ⟨31, 0, .rs, 0⟩]⟩,
   /- TIL_CAL (R356) -/ ⟨0x0340, 1, 8, [⟨63, 48, .ro, 0⟩, ⟨47, 32, .ro, 0⟩, ⟨31, 24, .ro, 0⟩, ⟨17, 16, .ro, 0⟩, ⟨15, 0, .ro, 32768⟩]⟩,
   /- TIL_CAL_SEL (R356) -/ ⟨0x0348, 1, 8, [⟨6, 0, .rw, 0⟩]⟩,
   /- TIL_CAL_TRIM (R356) -/ ⟨0x0350, 1, 8, [⟨23, 8, .ro, 32768⟩, ⟨7, 0, .ro, 0⟩]⟩,
   /- TIL_CAL_POS (R356) -/ ⟨0x0358, 1, 8, [⟨31, 0, .ro, 0⟩]⟩]

/-- The registers of KPR_ blocks. -/
def rowsKpr : List RegRow :=
  [/- KPR_STS (R466) -/ ⟨0x0100, 1, 8, [⟨63, 48, .ro, 0⟩, ⟨47, 32, .ro, 0⟩, ⟨3, 3, .ro, 0⟩, ⟨2, 0, .ro, 0⟩]⟩,
   /- KPR_POS (R466) -/ ⟨0x0108, 1, 8, [⟨31, 0, .ro, 0⟩]⟩,
   /- KPR_WDOG (R466) -/ ⟨0x0110, 1, 8, [⟨63, 32, .rs, 0⟩, ⟨15, 0, .bw, 500⟩]⟩,
   /- KPR_NVM (R466) -/ ⟨0x0118, 1, 8, [⟨63, 32, .ro, 0⟩, ⟨31, 16, .ro, 0⟩, ⟨0, 0, .ro, 0⟩]⟩,
   /- KPR_LOG (R466) -/ ⟨0x0120, 1, 8, [⟨63, 32, .ro, 0⟩, ⟨31, 16, .rs, 0⟩]⟩,
   /- KPR_MBX_CMD (R466) -/ ⟨0x0200, 1, 8, [⟨63, 48, .rw, 0⟩, ⟨47, 32, .rw, 0⟩, ⟨3, 1, .rw, 0⟩, ⟨0, 0, .wo, 0⟩]⟩,
   /- KPR_MBX_ARG (R466) -/ ⟨0x0208, 1, 8, [⟨63, 32, .rw, 0⟩, ⟨12, 0, .rw, 0⟩]⟩,
   /- KPR_MBX_STS (R466) -/ ⟨0x0210, 1, 8, [⟨63, 48, .ro, 0⟩, ⟨47, 32, .ro, 0⟩, ⟨31, 24, .ro, 0⟩, ⟨1, 1, .w1c, 0⟩, ⟨0, 0, .ro, 0⟩]⟩,
   /- KPR_I3C (R466) -/ ⟨0x0300, 1, 8, [⟨23, 16, .ro, 0⟩, ⟨15, 8, .ro, 0⟩, ⟨6, 0, .ro, 0⟩]⟩,
   /- KPR_MBX_BUF (R466) -/ ⟨0x1000, 512, 8, [⟨63, 0, .rw, 0⟩]⟩,
   /- KPR_RST (R533) -/ ⟨0x0400, 1, 8, [⟨15, 8, .wo, 0⟩, ⟨1, 0, .wo, 0⟩]⟩,
   /- KPR_BOOT (R533) -/ ⟨0x0408, 1, 8, [⟨63, 32, .ro, 0⟩, ⟨31, 24, .ro, 0⟩, ⟨23, 16, .ro, 0⟩, ⟨8, 8, .bw, 1⟩, ⟨3, 0, .ro, 0⟩]⟩,
   /- KPR_BOOT_CNT (R533) -/ ⟨0x0410, 1, 8, [⟨63, 32, .ro, 0⟩, ⟨31, 0, .ro, 0⟩]⟩]

/-- The registers of MON_ blocks. -/
def rowsMon : List RegRow :=
  [/- MON_CTL (R467) -/ ⟨0x0100, 1, 8, [⟨1, 1, .wo, 0⟩, ⟨0, 0, .rw, 0⟩]⟩,
   /- MON_CFG (R467) -/ ⟨0x0108, 1, 8, [⟨20, 16, .rw, 0⟩, ⟨9, 8, .rw, 0⟩, ⟨7, 4, .rw, 1⟩, ⟨0, 0, .rw, 0⟩]⟩,
   /- MON_STS (R467) -/ ⟨0x0110, 1, 8, [⟨63, 48, .ro, 0⟩, ⟨47, 32, .ro, 0⟩, ⟨20, 16, .ro, 0⟩, ⟨7, 7, .ro, 0⟩, ⟨6, 6, .ro, 0⟩, ⟨5, 5, .ro, 0⟩, ⟨4, 0, .ro, 0⟩]⟩,
   /- MON_LEN (R467) -/ ⟨0x0118, 1, 8, [⟨15, 10, .rw, 1⟩, ⟨9, 5, .rw, 1⟩, ⟨4, 2, .rw, 0⟩]⟩,
   /- MON_INJ (R467) -/ ⟨0x0120, 1, 8, [⟨1, 1, .rw, 0⟩, ⟨0, 0, .rw, 0⟩]⟩,
   /- MON_TBL (R467) -/ ⟨0x0200, 32, 8, [⟨31, 16, .rw, 0⟩, ⟨12, 8, .rw, 1⟩, ⟨4, 0, .rw, 0⟩]⟩,
   /- MON_REG (R467) -/ ⟨0x0300, 2, 8, [⟨63, 0, .rw, 0⟩]⟩,
   /- MON_INJL (R467) -/ ⟨0x0310, 1, 8, [⟨31, 0, .rw, 0⟩]⟩,
   /- MON_RES (R467) -/ ⟨0x0400, 24, 8, [⟨63, 63, .ro, 0⟩, ⟨62, 62, .ro, 0⟩, ⟨55, 32, .ro, 0⟩, ⟨23, 0, .ro, 0⟩]⟩,
   /- MON_FIFO (R467) -/ ⟨0x0500, 1, 8, [⟨63, 63, .ro, 0⟩, ⟨62, 62, .ro, 0⟩, ⟨61, 61, .ro, 0⟩, ⟨52, 48, .ro, 0⟩, ⟨47, 24, .ro, 0⟩, ⟨23, 0, .ro, 0⟩]⟩,
   /- MON_FIFO_STS (R467) -/ ⟨0x0508, 1, 8, [⟨63, 32, .ro, 0⟩, ⟨6, 0, .ro, 0⟩]⟩,
   /- MON_LIM (R467) -/ ⟨0x0600, 8, 8, [⟨63, 63, .rw, 0⟩, ⟨52, 48, .rw, 0⟩, ⟨47, 24, .rw, 0⟩, ⟨23, 0, .rw, 0⟩]⟩,
   /- MON_LIM_STS (R467) -/ ⟨0x0640, 1, 8, [⟨7, 0, .w1c, 0⟩]⟩]

/-- The registers of THM_ blocks. -/
def rowsThm : List RegRow :=
  [/- THM_CFG (R486) -/ ⟨0x0100, 1, 8, [⟨39, 32, .bw, 95⟩, ⟨31, 24, .bw, 85⟩, ⟨23, 16, .bw, 10⟩, ⟨15, 8, .bw, 10⟩, ⟨7, 0, .bw, 10⟩]⟩,
   /- THM_STS (R486) -/ ⟨0x0108, 1, 8, [⟨63, 63, .rsw1c, 0⟩, ⟨62, 62, .rsw1c, 0⟩, ⟨55, 48, .ro, 0⟩, ⟨47, 44, .ro, 0⟩, ⟨31, 16, .ro, 0⟩, ⟨5, 0, .ro, 0⟩]⟩,
   /- THM_SNS_SEL (R486) -/ ⟨0x0110, 1, 8, [⟨13, 8, .rw, 0⟩, ⟨3, 0, .rw, 0⟩]⟩,
   /- THM_SNS (R486) -/ ⟨0x0118, 1, 8, [⟨63, 63, .ro, 0⟩, ⟨62, 62, .ro, 0⟩, ⟨15, 0, .ro, 0⟩]⟩,
   /- THM_CNT (R486) -/ ⟨0x0120, 1, 8, [⟨63, 32, .rs, 0⟩, ⟨31, 16, .rs, 0⟩, ⟨15, 0, .rs, 0⟩]⟩,
   /- THM_DIE (R486) -/ ⟨0x0200, 32, 8, [⟨47, 32, .ro, 0⟩, ⟨31, 28, .ro, 0⟩, ⟨8, 0, .ro, 256⟩]⟩,
   /- THM_STK (R486) -/ ⟨0x0300, 12, 8, [⟨15, 0, .ro, 0⟩]⟩]

/-- The registers of PWR_ blocks. -/
def rowsPwr : List RegRow :=
  [/- PWR_STATE (R487) -/ ⟨0x0100, 1, 8, [⟨39, 32, .ro, 0⟩, ⟨11, 8, .ro, 0⟩, ⟨3, 1, .ro, 0⟩, ⟨0, 0, .ro, 0⟩]⟩,
   /- PWR_CMD (R487) -/ ⟨0x0108, 1, 8, [⟨63, 48, .rw, 100⟩, ⟨3, 1, .rw, 0⟩, ⟨0, 0, .wo, 0⟩]⟩,
   /- PWR_BUDGET (R487) -/ ⟨0x0110, 1, 8, [⟨47, 32, .rw, 0⟩, ⟨15, 0, .bw, 14300⟩]⟩,
   /- PWR_OC (R487) -/ ⟨0x0118, 1, 8, [⟨63, 32, .rs, 0⟩, ⟨31, 16, .rw, 1000⟩, ⟨15, 0, .bw, 1050⟩]⟩,
   /- PWR_IN (R487) -/ ⟨0x0120, 1, 8, [⟨47, 32, .ro, 0⟩, ⟨31, 16, .ro, 0⟩, ⟨15, 0, .ro, 0⟩]⟩,
   /- PWR_P1 (R487) -/ ⟨0x0128, 1, 8, [⟨63, 32, .rs, 0⟩, ⟨2, 2, .ro, 0⟩, ⟨1, 1, .ro, 0⟩, ⟨0, 0, .ro, 0⟩]⟩,
   /- PWR_DIE (R487) -/ ⟨0x0200, 32, 8, [⟨47, 32, .ro, 0⟩, ⟨31, 16, .ro, 0⟩, ⟨15, 0, .ro, 0⟩]⟩]

/-- The registers of SEC_ blocks. -/
def rowsSec : List RegRow :=
  [/- SEC_STS (R508) -/ ⟨0x0100, 1, 8, [⟨33, 33, .ro, 0⟩, ⟨32, 32, .ro, 0⟩, ⟨25, 24, .ro, 0⟩, ⟨21, 16, .ro, 0⟩, ⟨13, 12, .ro, 0⟩, ⟨9, 8, .ro, 0⟩, ⟨7, 7, .ro, 0⟩, ⟨6, 4, .ro, 0⟩, ⟨2, 0, .ro, 0⟩]⟩,
   /- SEC_ID (R508) -/ ⟨0x0108, 4, 8, [⟨63, 0, .ro, 0⟩]⟩,
   /- SEC_MEAS_SEL (R508) -/ ⟨0x0128, 1, 8, [⟨1, 0, .rw, 0⟩]⟩,
   /- SEC_MEAS (R508) -/ ⟨0x0130, 4, 8, [⟨63, 0, .ro, 0⟩]⟩,
   /- SEC_ARB (R508) -/ ⟨0x0150, 1, 8, [⟨31, 0, .ro, 0⟩]⟩,
   /- SEC_DBG_NONCE (R508) -/ ⟨0x0158, 4, 8, [⟨63, 0, .ro, 0⟩]⟩,
   /- SEC_DBG_ADDR (R508) -/ ⟨0x0178, 1, 8, [⟨47, 6, .rw, 0⟩]⟩,
   /- SEC_DBG_CMD (R508) -/ ⟨0x0180, 1, 8, [⟨3, 1, .wo, 0⟩, ⟨0, 0, .wo, 0⟩]⟩,
   /- SEC_DBG_STS (R508) -/ ⟨0x0188, 1, 8, [⟨63, 32, .ro, 0⟩, ⟨15, 8, .ro, 0⟩, ⟨1, 1, .w1c, 0⟩, ⟨0, 0, .ro, 0⟩]⟩,
   /- SEC_ATT_ADDR (R508) -/ ⟨0x0190, 1, 8, [⟨47, 6, .rw, 0⟩]⟩,
   /- SEC_ATT_CMD (R508) -/ ⟨0x0198, 1, 8, [⟨0, 0, .wo, 0⟩]⟩,
   /- SEC_ATT_STS (R508) -/ ⟨0x01A0, 1, 8, [⟨15, 8, .ro, 0⟩, ⟨1, 1, .w1c, 0⟩, ⟨0, 0, .ro, 0⟩]⟩,
   /- SEC_STAGE_ADDR (R508) -/ ⟨0x01A8, 1, 8, [⟨47, 6, .rw, 0⟩]⟩,
   /- SEC_STAGE_CMD (R508) -/ ⟨0x01B0, 1, 8, [⟨3, 1, .wo, 0⟩, ⟨0, 0, .wo, 0⟩]⟩,
   /- SEC_STAGE_STS (R508) -/ ⟨0x01B8, 1, 8, [⟨63, 32, .ro, 0⟩, ⟨31, 24, .ro, 0⟩, ⟨23, 16, .ro, 0⟩, ⟨5, 5, .ro, 0⟩, ⟨4, 4, .ro, 0⟩, ⟨1, 1, .w1c, 0⟩, ⟨0, 0, .ro, 0⟩]⟩,
   /- SEC_VIOL (R508) -/ ⟨0x01C0, 1, 8, [⟨63, 32, .rs, 0⟩, ⟨21, 16, .ro, 0⟩, ⟨15, 0, .ro, 0⟩]⟩]

/-- The registers of UPD_ blocks. -/
def rowsUpd : List RegRow :=
  [/- UPD_STS (R520) -/ ⟨0x0100, 1, 8, [⟨63, 56, .ro, 0⟩, ⟨55, 48, .ro, 0⟩, ⟨47, 40, .ro, 0⟩, ⟨7, 7, .ro, 0⟩, ⟨6, 4, .ro, 0⟩, ⟨1, 1, .w1c, 0⟩, ⟨0, 0, .ro, 0⟩]⟩,
   /- UPD_SLOT (R520) -/ ⟨0x0108, 2, 8, [⟨63, 32, .ro, 0⟩, ⟨31, 16, .ro, 0⟩, ⟨15, 0, .ro, 0⟩]⟩,
   /- UPD_BOOT (R520) -/ ⟨0x0118, 1, 8, [⟨7, 7, .ro, 0⟩, ⟨6, 6, .rsw1c, 0⟩, ⟨3, 3, .ro, 0⟩, ⟨1, 1, .ro, 0⟩, ⟨0, 0, .ro, 0⟩]⟩,
   /- UPD_CFG (R520) -/ ⟨0x0120, 1, 8, [⟨63, 32, .rw, 3600⟩]⟩,
   /- UPD_ARG (R520) -/ ⟨0x0128, 1, 8, [⟨63, 32, .rw, 0⟩, ⟨12, 0, .rw, 0⟩]⟩,
   /- UPD_CMD (R520) -/ ⟨0x0130, 1, 8, [⟨3, 1, .wo, 0⟩, ⟨0, 0, .wo, 0⟩]⟩,
   /- UPD_CNT (R520) -/ ⟨0x0138, 1, 8, [⟨63, 32, .rs, 0⟩, ⟨31, 16, .rs, 0⟩, ⟨15, 0, .rs, 0⟩]⟩,
   /- UPD_BUF (R520) -/ ⟨0x1000, 512, 8, [⟨63, 0, .rw, 0⟩]⟩]

/-- The registers of MSC_ blocks. -/
def rowsMsc : List RegRow :=
  [/- MSC_VALUE (R388) -/ ⟨0x0100, 1, 8, [⟨63, 0, .ro, 0⟩]⟩,
   /- MSC_CFG (R388) -/ ⟨0x0108, 1, 8, [⟨0, 0, .rw, 0⟩]⟩,
   /- MSC_STS (R388) -/ ⟨0x0110, 1, 8, [⟨63, 63, .ro, 0⟩, ⟨62, 62, .ro, 0⟩, ⟨55, 52, .ro, 15⟩, ⟨51, 44, .ro, 0⟩, ⟨31, 16, .ro, 0⟩, ⟨15, 0, .ro, 0⟩]⟩,
   /- MSC_EVT (R388) -/ ⟨0x0118, 1, 8, [⟨63, 32, .rs, 0⟩, ⟨31, 0, .rs, 0⟩]⟩]

/-- The registers of LDR_ blocks. -/
def rowsLdr : List RegRow :=
  [/- LDR_SEL (R313) -/ ⟨0x0100, 1, 8, [⟨5, 0, .rw, 0⟩]⟩,
   /- LDR_CFG (R313) -/ ⟨0x0108, 1, 8, [⟨47, 32, .rw, 2000⟩, ⟨23, 20, .rw, 4⟩, ⟨0, 0, .rw, 1⟩]⟩,
   /- LDR_SSTAT (R313) -/ ⟨0x0110, 1, 8, [⟨63, 63, .rw, 0⟩, ⟨47, 6, .rw, 0⟩]⟩,
   /- LDR_STS (R313) -/ ⟨0x0118, 1, 8, [⟨63, 39, .ro, 0⟩, ⟨38, 14, .ro, 0⟩, ⟨7, 4, .ro, 0⟩, ⟨0, 0, .ro, 0⟩]⟩,
   /- LDR_SWAP_ADDR (R313) -/ ⟨0x0120, 1, 8, [⟨47, 6, .rw, 0⟩]⟩,
   /- LDR_SWAP_CMD (R313) -/ ⟨0x0128, 1, 8, [⟨63, 32, .rw, 0⟩, ⟨3, 1, .rw, 0⟩, ⟨0, 0, .wo, 0⟩]⟩,
   /- LDR_SWAP_STS (R313) -/ ⟨0x0130, 1, 8, [⟨63, 48, .ro, 0⟩, ⟨47, 32, .ro, 0⟩, ⟨31, 20, .ro, 0⟩, ⟨19, 16, .ro, 0⟩, ⟨11, 8, .ro, 0⟩, ⟨1, 1, .w1c, 0⟩, ⟨0, 0, .ro, 0⟩]⟩,
   /- LDR_WAVE (R313) -/ ⟨0x0138, 1, 8, [⟨54, 42, .ro, 0⟩, ⟨41, 29, .ro, 0⟩, ⟨28, 16, .ro, 0⟩]⟩,
   /- LDR_OLD (R313) -/ ⟨0x0140, 1, 8, [⟨63, 32, .ro, 0⟩, ⟨31, 0, .ro, 0⟩]⟩,
   /- LDR_PROG (R313) -/ ⟨0x0148, 1, 8, [⟨47, 24, .ro, 0⟩, ⟨23, 0, .ro, 0⟩]⟩,
   /- LDR_PROG_CNT (R313) -/ ⟨0x0150, 1, 8, [⟨63, 48, .rs, 0⟩, ⟨47, 24, .rs, 0⟩, ⟨23, 0, .rs, 0⟩]⟩,
   /- LDR_FETCH (R313) -/ ⟨0x0158, 1, 8, [⟨63, 0, .ro, 0⟩]⟩,
   /- LDR_FWD (R313) -/ ⟨0x0160, 1, 8, [⟨63, 0, .ro, 0⟩]⟩,
   /- LDR_ERR (R313) -/ ⟨0x0168, 1, 8, [⟨63, 32, .rs, 0⟩, ⟨31, 16, .rs, 0⟩, ⟨15, 0, .rs, 0⟩]⟩,
   /- LDR_CLR (R313) -/ ⟨0x0170, 1, 8, [⟨0, 0, .wo, 0⟩]⟩]

/-- The registers of ETH_ blocks. -/
def rowsEth : List RegRow :=
  [/- ETH_MODE (R389) -/ ⟨0x0100, 1, 8, [⟨0, 0, .bw, 0⟩]⟩,
   /- ETH_STS (R389) -/ ⟨0x0108, 1, 8, [⟨2, 1, .ro, 0⟩, ⟨0, 0, .ro, 0⟩]⟩,
   /- ETH_MAC (R389) -/ ⟨0x0110, 1, 8, [⟨47, 0, .ro, 0⟩]⟩,
   /- ETH_CFG (R389) -/ ⟨0x0118, 1, 8, [⟨63, 48, .rw, 4096⟩, ⟨47, 40, .rw, 64⟩, ⟨39, 32, .rw, 8⟩, ⟨15, 15, .rw, 0⟩, ⟨14, 12, .rw, 3⟩, ⟨11, 0, .rw, 0⟩]⟩,
   /- ETH_IP (R389) -/ ⟨0x0120, 2, 8, [⟨63, 0, .rw, 0⟩]⟩,
   /- ETH_RTR (R389) -/ ⟨0x0130, 2, 8, [⟨63, 0, .rw, 0⟩]⟩,
   /- ETH_CNT (R389) -/ ⟨0x0140, 1, 8, [⟨63, 32, .rs, 0⟩, ⟨31, 0, .rs, 0⟩]⟩]

/-- The registers of TRL_ blocks. -/
def rowsTrl : List RegRow :=
  [/- TRL_LNK_STS (R430) -/ ⟨0x0100, 1, 8, [⟨63, 60, .ro, 0⟩, ⟨59, 56, .ro, 0⟩, ⟨55, 52, .ro, 0⟩, ⟨51, 48, .ro, 0⟩, ⟨37, 32, .ro, 0⟩, ⟨31, 0, .rs, 0⟩]⟩,
   /- TRL_CFG (R430) -/ ⟨0x0108, 1, 8, [⟨63, 32, .bw, 100⟩, ⟨15, 0, .rw, 0⟩]⟩,
   /- TRL_ERR (R430) -/ ⟨0x0110, 1, 8, [⟨63, 48, .rs, 0⟩, ⟨47, 32, .rs, 0⟩, ⟨31, 0, .rs, 0⟩]⟩,
   /- TRL_REPLAY (R430) -/ ⟨0x0118, 1, 8, [⟨63, 32, .rs, 0⟩, ⟨31, 0, .rs, 0⟩]⟩,
   /- TRL_SNP (R430) -/ ⟨0x0120, 1, 8, [⟨63, 32, .rs, 0⟩, ⟨31, 0, .ro, 0⟩]⟩,
   /- TRL_HLC (R430) -/ ⟨0x0128, 1, 8, [⟨63, 32, .ro, 0⟩, ⟨31, 0, .ro, 0⟩]⟩,
   /- TRL_WIN_ERR (R430) -/ ⟨0x0130, 1, 8, [⟨63, 48, .rs, 0⟩, ⟨47, 32, .rs, 0⟩, ⟨31, 16, .rs, 0⟩, ⟨15, 0, .rs, 0⟩]⟩,
   /- TRL_TPAGE (R430) -/ ⟨0x0140, 4, 8, [⟨63, 63, .rw, 0⟩, ⟨7, 2, .rw, 0⟩, ⟨1, 0, .rw, 0⟩]⟩,
   /- TRL_RWIN (R430) -/ ⟨0x0200, 16, 8, [⟨63, 63, .rw, 0⟩, ⟨10, 0, .rw, 0⟩]⟩,
   /- TRL_EVT (R430) -/ ⟨0x0400, 128, 8, [⟨63, 63, .rw, 0⟩, ⟨62, 62, .rw, 0⟩, ⟨61, 61, .w1c, 0⟩, ⟨31, 0, .rw, 0⟩]⟩]

/-- The registers of BFP_ blocks. -/
def rowsBfp : List RegRow :=
  [/- BFP_LNK_STS (R386) -/ ⟨0x0100, 1, 8, [⟨63, 60, .ro, 0⟩, ⟨59, 56, .ro, 0⟩, ⟨55, 52, .ro, 0⟩, ⟨51, 44, .ro, 0⟩, ⟨43, 40, .ro, 0⟩, ⟨39, 36, .ro, 0⟩, ⟨35, 18, .ro, 0⟩]⟩,
   /- BFP_CREDIT (R386) -/ ⟨0x0108, 1, 8, [⟨44, 36, .bw, 80⟩, ⟨35, 27, .bw, 128⟩, ⟨26, 18, .bw, 128⟩, ⟨17, 9, .bw, 160⟩, ⟨8, 0, .bw, 16⟩]⟩,
   /- BFP_ARB (R386) -/ ⟨0x0110, 1, 8, [⟨15, 0, .bw, 8776⟩]⟩,
   /- BFP_ERR (R386) -/ ⟨0x0118, 1, 8, [⟨63, 48, .rs, 0⟩, ⟨47, 32, .rs, 0⟩, ⟨31, 0, .rs, 0⟩]⟩,
   /- BFP_REPLAY (R386) -/ ⟨0x0120, 1, 8, [⟨31, 0, .rs, 0⟩]⟩,
   /- BFP_DROP (R386) -/ ⟨0x0128, 1, 8, [⟨63, 32, .rs, 0⟩, ⟨31, 0, .rs, 0⟩]⟩,
   /- BFP_FLITS (R386) -/ ⟨0x0130, 1, 8, [⟨63, 0, .ro, 0⟩]⟩,
   /- BFP_SHARE (R386) -/ ⟨0x0200, 16, 8, [⟨47, 32, .rw, 0⟩, ⟨19, 16, .rw, 15⟩, ⟨15, 15, .rw, 0⟩, ⟨6, 0, .rw, 0⟩]⟩,
   /- BFP_MCEVT (R386) -/ ⟨0x0300, 1, 8, [⟨63, 63, .w1c, 0⟩, ⟨47, 32, .ro, 0⟩, ⟨31, 28, .ro, 0⟩, ⟨15, 0, .ro, 0⟩]⟩,
   /- BFP_COORD (R387) -/ ⟨0x8000, 1, 8, [⟨17, 0, .bw, 0⟩]⟩,
   /- BFP_QMAP0 (R387) -/ ⟨0x8008, 1, 8, [⟨63, 0, .bw, 0⟩]⟩,
   /- BFP_QMAP1 (R387) -/ ⟨0x8010, 1, 8, [⟨31, 0, .bw, 0⟩]⟩,
   /- BFP_MCHOLD (R387) -/ ⟨0x8038, 1, 8, [⟨15, 0, .bw, 1000⟩]⟩,
   /- BFP_QDROP (R410) -/ ⟨0x0138, 1, 8, [⟨47, 24, .rs, 0⟩, ⟨15, 0, .rs, 0⟩]⟩,
   /- BFP_DEAD (R410) -/ ⟨0x0140, 1, 8, [⟨63, 32, .rs, 0⟩, ⟨3, 0, .rs, 0⟩]⟩]

/-- The registers of PRT_ blocks. -/
def rowsPrt : List RegRow :=
  [/- PRT_NOC_ARB (R149) -/ ⟨0x2000, 1, 8, [⟨15, 12, .bw, 2⟩, ⟨11, 8, .bw, 2⟩, ⟨7, 4, .bw, 4⟩, ⟨3, 0, .bw, 8⟩]⟩,
   /- PRT_NOC_MCHOLD (R149) -/ ⟨0x2008, 1, 8, [⟨15, 0, .bw, 1000⟩]⟩,
   /- PRT_NOC_D2D (R149) -/ ⟨0x2010, 1, 8, [⟨31, 24, .ro, 0⟩, ⟨23, 16, .ro, 0⟩, ⟨15, 8, .ro, 0⟩, ⟨7, 0, .ro, 0⟩]⟩,
   /- PRT_NOC_LNK (R149) -/ ⟨0x2018, 1, 8, [⟨63, 32, .rs, 0⟩, ⟨31, 0, .rs, 0⟩]⟩,
   /- PRT_NOC_DOWN (R149) -/ ⟨0x2020, 1, 8, [⟨63, 32, .rs, 0⟩, ⟨5, 3, .rs, 0⟩, ⟨2, 0, .rs, 0⟩]⟩,
   /- PRT_NOC_MCEVT (R149) -/ ⟨0x2028, 1, 8, [⟨63, 63, .w1c, 0⟩, ⟨48, 46, .ro, 0⟩, ⟨45, 39, .ro, 0⟩, ⟨38, 32, .ro, 0⟩, ⟨21, 16, .ro, 0⟩, ⟨15, 0, .ro, 0⟩]⟩,
   /- PRT_NOC_DROP (R149) -/ ⟨0x2030, 1, 8, [⟨63, 32, .rs, 0⟩, ⟨31, 0, .rs, 0⟩]⟩,
   /- PRT_NOC_FSEL (R149) -/ ⟨0x2038, 1, 8, [⟨2, 0, .rw, 0⟩]⟩,
   /- PRT_NOC_FLITS (R149) -/ ⟨0x2040, 1, 8, [⟨63, 0, .ro, 0⟩]⟩]

/-- The registers of FAB_ blocks. -/
def rowsFab : List RegRow :=
  [/- BFP_SLICE_SEL (R387) -/ ⟨0x8018, 1, 8, [⟨5, 0, .rw, 0⟩]⟩,
   /- BFP_SLICE_ADDR (R387) -/ ⟨0x8020, 1, 8, [⟨47, 6, .rw, 0⟩]⟩,
   /- BFP_SLICE_CMD (R387) -/ ⟨0x8028, 1, 8, [⟨3, 1, .rw, 0⟩, ⟨0, 0, .wo, 0⟩]⟩,
   /- BFP_SLICE_STS (R387) -/ ⟨0x8030, 1, 8, [⟨63, 48, .ro, 0⟩, ⟨39, 37, .ro, 0⟩, ⟨36, 34, .ro, 0⟩, ⟨23, 16, .ro, 0⟩, ⟨7, 4, .ro, 0⟩, ⟨1, 1, .w1c, 0⟩, ⟨0, 0, .ro, 0⟩]⟩,
   /- BFP_COLL (R411) -/ ⟨0x8040, 1, 8, [⟨63, 32, .rw, 10000⟩, ⟨1, 0, .rw, 0⟩]⟩,
   /- BFP_COLL_STS (R411) -/ ⟨0x8048, 1, 8, [⟨63, 32, .rs, 0⟩, ⟨13, 0, .ro, 0⟩]⟩,
   /- BFP_BAR_CMD (R411) -/ ⟨0x8050, 1, 8, [⟨47, 32, .rw, 100⟩, ⟨31, 16, .rw, 0⟩, ⟨1, 1, .rw, 0⟩, ⟨0, 0, .wo, 0⟩]⟩,
   /- BFP_BAR_STS (R411) -/ ⟨0x8058, 1, 8, [⟨63, 48, .ro, 0⟩, ⟨19, 16, .ro, 0⟩, ⟨7, 4, .ro, 0⟩, ⟨2, 2, .ro, 0⟩, ⟨1, 1, .w1c, 0⟩, ⟨0, 0, .ro, 0⟩]⟩,
   /- BFP_BAR_REL (R411) -/ ⟨0x8060, 1, 8, [⟨63, 0, .ro, 0⟩]⟩,
   /- BFP_JSTOP (R411) -/ ⟨0x8068, 1, 8, [⟨63, 63, .w1c, 0⟩, ⟨55, 52, .ro, 0⟩, ⟨51, 48, .ro, 0⟩, ⟨47, 32, .ro, 0⟩, ⟨17, 0, .ro, 0⟩]⟩]

/-- The register table of each block. -/
def regRows : Blk → List RegRow
  | .sch => rowsSch
  | .pas => rowsPas
  | .bil => rowsBil
  | .cal => rowsCal
  | .chk => rowsChk
  | .stk => rowsStk
  | .dma => rowsDma
  | .til => rowsTil
  | .kpr => rowsKpr
  | .mon => rowsMon
  | .thm => rowsThm
  | .pwr => rowsPwr
  | .sec => rowsSec
  | .upd => rowsUpd
  | .msc => rowsMsc
  | .ldr => rowsLdr
  | .eth => rowsEth
  | .trl => rowsTrl
  | .bfp => rowsBfp
  | .prt => rowsPrt
  | .fab => rowsFab

/-- SCH_FLAG_SEL.STAGE (R64). -/
abbrev F.SCH_FLAG_SEL_STAGE : Fld := ⟨.sch, 0x0800, 15, 0⟩
/-- SCH_FLAG_CNT.SAT (R64). -/
abbrev F.SCH_FLAG_CNT_SAT : Fld := ⟨.sch, 0x0808, 63, 32⟩
/-- SCH_FLAG_CNT.UNDER (R64). -/
abbrev F.SCH_FLAG_CNT_UNDER : Fld := ⟨.sch, 0x0808, 31, 0⟩
/-- SCH_FLAG_WIN.EXP (R64). -/
abbrev F.SCH_FLAG_WIN_EXP : Fld := ⟨.sch, 0x0810, 5, 0⟩
/-- SCH_FLAG_EVT.STAGE (R64). -/
abbrev F.SCH_FLAG_EVT_STAGE : Fld := ⟨.sch, 0x0818, 47, 32⟩
/-- SCH_FLAG_EVT.SAT (R64). -/
abbrev F.SCH_FLAG_EVT_SAT : Fld := ⟨.sch, 0x0818, 1, 1⟩
/-- SCH_FLAG_EVT.UNDER (R64). -/
abbrev F.SCH_FLAG_EVT_UNDER : Fld := ⟨.sch, 0x0818, 0, 0⟩
/-- SCH_FMT_CNT.RESCALE (R64). -/
abbrev F.SCH_FMT_CNT_RESCALE : Fld := ⟨.sch, 0x0820, 63, 32⟩
/-- SCH_FMT_CNT.RSVD_CODE (R64). -/
abbrev F.SCH_FMT_CNT_RSVD_CODE : Fld := ⟨.sch, 0x0820, 31, 0⟩
/-- SCH_FMT_CLR.CLR (R64). -/
abbrev F.SCH_FMT_CLR_CLR : Fld := ⟨.sch, 0x0828, 0, 0⟩
/-- SCH_RCP_CMD.INDEX (R64). -/
abbrev F.SCH_RCP_CMD_INDEX : Fld := ⟨.sch, 0x0830, 63, 48⟩
/-- SCH_RCP_CMD.ADDR (R64). -/
abbrev F.SCH_RCP_CMD_ADDR : Fld := ⟨.sch, 0x0830, 47, 6⟩
/-- SCH_RCP_CMD.GO (R64). -/
abbrev F.SCH_RCP_CMD_GO : Fld := ⟨.sch, 0x0830, 0, 0⟩
/-- SCH_RCP_STS.INDEX (R64). -/
abbrev F.SCH_RCP_STS_INDEX : Fld := ⟨.sch, 0x0838, 63, 48⟩
/-- SCH_RCP_STS.VERSION (R64). -/
abbrev F.SCH_RCP_STS_VERSION : Fld := ⟨.sch, 0x0838, 47, 32⟩
/-- SCH_RCP_STS.CODE (R64). -/
abbrev F.SCH_RCP_STS_CODE : Fld := ⟨.sch, 0x0838, 7, 4⟩
/-- SCH_RCP_STS.LOST (R64). -/
abbrev F.SCH_RCP_STS_LOST : Fld := ⟨.sch, 0x0838, 1, 1⟩
/-- SCH_RCP_STS.BUSY (R64). -/
abbrev F.SCH_RCP_STS_BUSY : Fld := ⟨.sch, 0x0838, 0, 0⟩
/-- TIL_ARR_CFG.IN_FMT (R102). -/
abbrev F.TIL_ARR_CFG_IN_FMT : Fld := ⟨.til, 0x0100, 15, 12⟩
/-- TIL_ARR_CFG.ALIGN_EXT (R102). -/
abbrev F.TIL_ARR_CFG_ALIGN_EXT : Fld := ⟨.til, 0x0100, 9, 8⟩
/-- TIL_ARR_CFG.RNG (R102). -/
abbrev F.TIL_ARR_CFG_RNG : Fld := ⟨.til, 0x0100, 2, 0⟩
/-- TIL_ARR_STS.WINC (R102). -/
abbrev F.TIL_ARR_STS_WINC : Fld := ⟨.til, 0x0108, 7, 7⟩
/-- TIL_ARR_STS.STATE (R102). -/
abbrev F.TIL_ARR_STS_STATE : Fld := ⟨.til, 0x0108, 2, 0⟩
/-- TIL_ARR_MVM.COUNT (R102). -/
abbrev F.TIL_ARR_MVM_COUNT : Fld := ⟨.til, 0x0110, 47, 0⟩
/-- TIL_ARR_SKIP.MVM (R102). -/
abbrev F.TIL_ARR_SKIP_MVM : Fld := ⟨.til, 0x0118, 63, 32⟩
/-- TIL_ARR_SKIP.GROUP (R102). -/
abbrev F.TIL_ARR_SKIP_GROUP : Fld := ⟨.til, 0x0118, 31, 0⟩
/-- TIL_ARR_ADCSAT.COUNT (R102). -/
abbrev F.TIL_ARR_ADCSAT_COUNT : Fld := ⟨.til, 0x0120, 31, 0⟩
/-- TIL_ARR_WEAR.REWRITES (R102). -/
abbrev F.TIL_ARR_WEAR_REWRITES : Fld := ⟨.til, 0x0128, 31, 0⟩
/-- TIL_ARR_CLR.CLR (R102). -/
abbrev F.TIL_ARR_CLR_CLR : Fld := ⟨.til, 0x0130, 0, 0⟩
/-- TIL_SEQ_STS.PC (R127). -/
abbrev F.TIL_SEQ_STS_PC : Fld := ⟨.til, 0x0200, 25, 16⟩
/-- TIL_SEQ_STS.CAUSE (R127). -/
abbrev F.TIL_SEQ_STS_CAUSE : Fld := ⟨.til, 0x0200, 11, 8⟩
/-- TIL_SEQ_STS.STATE (R127). -/
abbrev F.TIL_SEQ_STS_STATE : Fld := ⟨.til, 0x0200, 1, 0⟩
/-- TIL_SEQ_FLT.COUNT (R127). -/
abbrev F.TIL_SEQ_FLT_COUNT : Fld := ⟨.til, 0x0208, 31, 0⟩
/-- TIL_SEQ_WDOG.LIMIT (R127). -/
abbrev F.TIL_SEQ_WDOG_LIMIT : Fld := ⟨.til, 0x0210, 31, 0⟩
/-- TIL_OUT_CNT.PAIRS (R127). -/
abbrev F.TIL_OUT_CNT_PAIRS : Fld := ⟨.til, 0x0280, 63, 32⟩
/-- TIL_OUT_CNT.SEG (R127). -/
abbrev F.TIL_OUT_CNT_SEG : Fld := ⟨.til, 0x0280, 31, 0⟩
/-- TIL_OUT_OVF.PAIRS (R127). -/
abbrev F.TIL_OUT_OVF_PAIRS : Fld := ⟨.til, 0x0288, 63, 32⟩
/-- TIL_OUT_OVF.SEG (R127). -/
abbrev F.TIL_OUT_OVF_SEG : Fld := ⟨.til, 0x0288, 31, 0⟩
/-- TIL_OUT_SPILL.FALLBACK (R127). -/
abbrev F.TIL_OUT_SPILL_FALLBACK : Fld := ⟨.til, 0x0290, 63, 32⟩
/-- TIL_OUT_SPILL.REQ (R127). -/
abbrev F.TIL_OUT_SPILL_REQ : Fld := ⟨.til, 0x0290, 31, 0⟩
/-- TIL_OUT_ESC.SEG (R127). -/
abbrev F.TIL_OUT_ESC_SEG : Fld := ⟨.til, 0x0298, 31, 0⟩
/-- TIL_OUT_PASS.COUNT (R127). -/
abbrev F.TIL_OUT_PASS_COUNT : Fld := ⟨.til, 0x02A0, 31, 0⟩
/-- TIL_OUT_CLR.CLR (R127). -/
abbrev F.TIL_OUT_CLR_CLR : Fld := ⟨.til, 0x02A8, 0, 0⟩
/-- TIL_SRAM_ERR.UNCORR (R127). -/
abbrev F.TIL_SRAM_ERR_UNCORR : Fld := ⟨.til, 0x0300, 63, 32⟩
/-- TIL_SRAM_ERR.CORR (R127). -/
abbrev F.TIL_SRAM_ERR_CORR : Fld := ⟨.til, 0x0300, 31, 0⟩
/-- PRT_NOC_ARB.W_TRN (R149). -/
abbrev F.PRT_NOC_ARB_W_TRN : Fld := ⟨.prt, 0x2000, 15, 12⟩
/-- PRT_NOC_ARB.W_BULK (R149). -/
abbrev F.PRT_NOC_ARB_W_BULK : Fld := ⟨.prt, 0x2000, 11, 8⟩
/-- PRT_NOC_ARB.W_RED (R149). -/
abbrev F.PRT_NOC_ARB_W_RED : Fld := ⟨.prt, 0x2000, 7, 4⟩
/-- PRT_NOC_ARB.W_ACT (R149). -/
abbrev F.PRT_NOC_ARB_W_ACT : Fld := ⟨.prt, 0x2000, 3, 0⟩
/-- PRT_NOC_MCHOLD.LIMIT (R149). -/
abbrev F.PRT_NOC_MCHOLD_LIMIT : Fld := ⟨.prt, 0x2008, 15, 0⟩
/-- PRT_NOC_D2D.W_UP (R149). -/
abbrev F.PRT_NOC_D2D_W_UP : Fld := ⟨.prt, 0x2010, 31, 24⟩
/-- PRT_NOC_D2D.S_UP (R149). -/
abbrev F.PRT_NOC_D2D_S_UP : Fld := ⟨.prt, 0x2010, 23, 16⟩
/-- PRT_NOC_D2D.E_UP (R149). -/
abbrev F.PRT_NOC_D2D_E_UP : Fld := ⟨.prt, 0x2010, 15, 8⟩
/-- PRT_NOC_D2D.N_UP (R149). -/
abbrev F.PRT_NOC_D2D_N_UP : Fld := ⟨.prt, 0x2010, 7, 0⟩
/-- PRT_NOC_LNK.REPLAY (R149). -/
abbrev F.PRT_NOC_LNK_REPLAY : Fld := ⟨.prt, 0x2018, 63, 32⟩
/-- PRT_NOC_LNK.CRC (R149). -/
abbrev F.PRT_NOC_LNK_CRC : Fld := ⟨.prt, 0x2018, 31, 0⟩
/-- PRT_NOC_DOWN.COUNT (R149). -/
abbrev F.PRT_NOC_DOWN_COUNT : Fld := ⟨.prt, 0x2020, 63, 32⟩
/-- PRT_NOC_DOWN.EDGE (R149). -/
abbrev F.PRT_NOC_DOWN_EDGE : Fld := ⟨.prt, 0x2020, 5, 3⟩
/-- PRT_NOC_DOWN.CHAN (R149). -/
abbrev F.PRT_NOC_DOWN_CHAN : Fld := ⟨.prt, 0x2020, 2, 0⟩
/-- PRT_NOC_MCEVT.VALID (R149). -/
abbrev F.PRT_NOC_MCEVT_VALID : Fld := ⟨.prt, 0x2028, 63, 63⟩
/-- PRT_NOC_MCEVT.PORT (R149). -/
abbrev F.PRT_NOC_MCEVT_PORT : Fld := ⟨.prt, 0x2028, 48, 46⟩
/-- PRT_NOC_MCEVT.Y (R149). -/
abbrev F.PRT_NOC_MCEVT_Y : Fld := ⟨.prt, 0x2028, 45, 39⟩
/-- PRT_NOC_MCEVT.X (R149). -/
abbrev F.PRT_NOC_MCEVT_X : Fld := ⟨.prt, 0x2028, 38, 32⟩
/-- PRT_NOC_MCEVT.PART (R149). -/
abbrev F.PRT_NOC_MCEVT_PART : Fld := ⟨.prt, 0x2028, 21, 16⟩
/-- PRT_NOC_MCEVT.TREE (R149). -/
abbrev F.PRT_NOC_MCEVT_TREE : Fld := ⟨.prt, 0x2028, 15, 0⟩
/-- PRT_NOC_DROP.PART_MISS (R149). -/
abbrev F.PRT_NOC_DROP_PART_MISS : Fld := ⟨.prt, 0x2030, 63, 32⟩
/-- PRT_NOC_DROP.TRN_MISS (R149). -/
abbrev F.PRT_NOC_DROP_TRN_MISS : Fld := ⟨.prt, 0x2030, 31, 0⟩
/-- PRT_NOC_FSEL.VC (R149). -/
abbrev F.PRT_NOC_FSEL_VC : Fld := ⟨.prt, 0x2038, 2, 0⟩
/-- PRT_NOC_FLITS.COUNT (R149). -/
abbrev F.PRT_NOC_FLITS_COUNT : Fld := ⟨.prt, 0x2040, 63, 0⟩
/-- BIL_IMG_ADDR.ADDR (R171). -/
abbrev F.BIL_IMG_ADDR_ADDR : Fld := ⟨.bil, 0x0100, 47, 6⟩
/-- BIL_IMG_LEN.LEN (R171). -/
abbrev F.BIL_IMG_LEN_LEN : Fld := ⟨.bil, 0x0108, 31, 0⟩
/-- BIL_IMG_CMD.DRAIN (R171). -/
abbrev F.BIL_IMG_CMD_DRAIN : Fld := ⟨.bil, 0x0110, 63, 48⟩
/-- BIL_IMG_CMD.JOB (R171). -/
abbrev F.BIL_IMG_CMD_JOB : Fld := ⟨.bil, 0x0110, 47, 32⟩
/-- BIL_IMG_CMD.OP (R171). -/
abbrev F.BIL_IMG_CMD_OP : Fld := ⟨.bil, 0x0110, 3, 1⟩
/-- BIL_IMG_CMD.GO (R171). -/
abbrev F.BIL_IMG_CMD_GO : Fld := ⟨.bil, 0x0110, 0, 0⟩
/-- BIL_IMG_STS.FAIL_SECT (R171). -/
abbrev F.BIL_IMG_STS_FAIL_SECT : Fld := ⟨.bil, 0x0118, 63, 48⟩
/-- BIL_IMG_STS.FAIL_IDX (R171). -/
abbrev F.BIL_IMG_STS_FAIL_IDX : Fld := ⟨.bil, 0x0118, 47, 24⟩
/-- BIL_IMG_STS.CODE (R171). -/
abbrev F.BIL_IMG_STS_CODE : Fld := ⟨.bil, 0x0118, 23, 16⟩
/-- BIL_IMG_STS.FAIL_TGT (R171). -/
abbrev F.BIL_IMG_STS_FAIL_TGT : Fld := ⟨.bil, 0x0118, 8, 8⟩
/-- BIL_IMG_STS.STATE (R171). -/
abbrev F.BIL_IMG_STS_STATE : Fld := ⟨.bil, 0x0118, 7, 4⟩
/-- BIL_IMG_STS.LOST (R171). -/
abbrev F.BIL_IMG_STS_LOST : Fld := ⟨.bil, 0x0118, 1, 1⟩
/-- BIL_IMG_STS.BUSY (R171). -/
abbrev F.BIL_IMG_STS_BUSY : Fld := ⟨.bil, 0x0118, 0, 0⟩
/-- BIL_IMG_ID0–3.ID (R171). -/
abbrev F.BIL_IMG_ID_ID : Fld := ⟨.bil, 0x0120, 63, 0⟩
/-- BIL_BIND_STS.SEQ (R203). -/
abbrev F.BIL_BIND_STS_SEQ : Fld := ⟨.bil, 0x0200, 63, 32⟩
/-- BIL_BIND_STS.CAUSE (R203). -/
abbrev F.BIL_BIND_STS_CAUSE : Fld := ⟨.bil, 0x0200, 23, 16⟩
/-- BIL_BIND_STS.NOTES (R203). -/
abbrev F.BIL_BIND_STS_NOTES : Fld := ⟨.bil, 0x0200, 15, 8⟩
/-- BIL_BIND_STS.TRUNC (R203). -/
abbrev F.BIL_BIND_STS_TRUNC : Fld := ⟨.bil, 0x0200, 2, 2⟩
/-- BIL_BIND_STS.DEGRADED (R203). -/
abbrev F.BIL_BIND_STS_DEGRADED : Fld := ⟨.bil, 0x0200, 1, 1⟩
/-- BIL_BIND_STS.REBIND (R203). -/
abbrev F.BIL_BIND_STS_REBIND : Fld := ⟨.bil, 0x0200, 0, 0⟩
/-- BIL_RPT_ADDR.ADDR (R203). -/
abbrev F.BIL_RPT_ADDR_ADDR : Fld := ⟨.bil, 0x0208, 47, 6⟩
/-- BIL_RPT_LEN.USED (R203). -/
abbrev F.BIL_RPT_LEN_USED : Fld := ⟨.bil, 0x0210, 63, 32⟩
/-- BIL_RPT_LEN.LEN (R203). -/
abbrev F.BIL_RPT_LEN_LEN : Fld := ⟨.bil, 0x0210, 31, 0⟩
/-- BIL_POL.RSV (R203). -/
abbrev F.BIL_POL_RSV : Fld := ⟨.bil, 0x0218, 28, 16⟩
/-- BIL_POL.UTIL (R203). -/
abbrev F.BIL_POL_UTIL : Fld := ⟨.bil, 0x0218, 7, 0⟩
/-- BIL_COST.W_CHK (R203). -/
abbrev F.BIL_COST_W_CHK : Fld := ⟨.bil, 0x0220, 39, 32⟩
/-- BIL_COST.W_QF (R203). -/
abbrev F.BIL_COST_W_QF : Fld := ⟨.bil, 0x0220, 31, 24⟩
/-- BIL_COST.W_WEAR (R203). -/
abbrev F.BIL_COST_W_WEAR : Fld := ⟨.bil, 0x0220, 23, 16⟩
/-- BIL_COST.W_TEMP (R203). -/
abbrev F.BIL_COST_W_TEMP : Fld := ⟨.bil, 0x0220, 15, 8⟩
/-- BIL_COST.W_DIST (R203). -/
abbrev F.BIL_COST_W_DIST : Fld := ⟨.bil, 0x0220, 7, 0⟩
/-- BIL_FORBID.Y (R203). -/
abbrev F.BIL_FORBID_Y : Fld := ⟨.bil, 0x0228, 19, 13⟩
/-- BIL_FORBID.X (R203). -/
abbrev F.BIL_FORBID_X : Fld := ⟨.bil, 0x0228, 12, 6⟩
/-- BIL_FORBID.SET (R203). -/
abbrev F.BIL_FORBID_SET : Fld := ⟨.bil, 0x0228, 1, 1⟩
/-- BIL_FORBID.GO (R203). -/
abbrev F.BIL_FORBID_GO : Fld := ⟨.bil, 0x0228, 0, 0⟩
/-- BIL_FORBID_CNT.COUNT (R203). -/
abbrev F.BIL_FORBID_CNT_COUNT : Fld := ⟨.bil, 0x0230, 15, 0⟩
/-- BIL_TILES.RETIRED (R203). -/
abbrev F.BIL_TILES_RETIRED : Fld := ⟨.bil, 0x0238, 63, 48⟩
/-- BIL_TILES.SPARE (R203). -/
abbrev F.BIL_TILES_SPARE : Fld := ⟨.bil, 0x0238, 47, 32⟩
/-- BIL_TILES.BOUND (R203). -/
abbrev F.BIL_TILES_BOUND : Fld := ⟨.bil, 0x0238, 31, 16⟩
/-- BIL_TILES.USABLE (R203). -/
abbrev F.BIL_TILES_USABLE : Fld := ⟨.bil, 0x0238, 15, 0⟩
/-- BIL_REBIND.COUNT (R203). -/
abbrev F.BIL_REBIND_COUNT : Fld := ⟨.bil, 0x0240, 63, 32⟩
/-- BIL_REBIND.Y (R203). -/
abbrev F.BIL_REBIND_Y : Fld := ⟨.bil, 0x0240, 19, 13⟩
/-- BIL_REBIND.X (R203). -/
abbrev F.BIL_REBIND_X : Fld := ⟨.bil, 0x0240, 12, 6⟩
/-- BIL_REBIND.RESULT (R203). -/
abbrev F.BIL_REBIND_RESULT : Fld := ⟨.bil, 0x0240, 2, 0⟩
/-- BIL_SLICE.N_PARTS (R203). -/
abbrev F.BIL_SLICE_N_PARTS : Fld := ⟨.bil, 0x0248, 47, 32⟩
/-- BIL_SLICE.RANK (R203). -/
abbrev F.BIL_SLICE_RANK : Fld := ⟨.bil, 0x0248, 13, 0⟩
/-- PAS_PT_BASE.VALID (R232). -/
abbrev F.PAS_PT_BASE_VALID : Fld := ⟨.pas, 0x0100, 63, 63⟩
/-- PAS_PT_BASE.ADDR (R232). -/
abbrev F.PAS_PT_BASE_ADDR : Fld := ⟨.pas, 0x0100, 47, 12⟩
/-- PAS_RANGE.HI (R232). -/
abbrev F.PAS_RANGE_HI : Fld := ⟨.pas, 0x0108, 51, 32⟩
/-- PAS_RANGE.LO (R232). -/
abbrev F.PAS_RANGE_LO : Fld := ⟨.pas, 0x0108, 19, 0⟩
/-- PAS_ARING_BASE.EN (R232). -/
abbrev F.PAS_ARING_BASE_EN : Fld := ⟨.pas, 0x0110, 63, 63⟩
/-- PAS_ARING_BASE.ADDR (R232). -/
abbrev F.PAS_ARING_BASE_ADDR : Fld := ⟨.pas, 0x0110, 47, 6⟩
/-- PAS_ARING_BASE.LOG2 (R232). -/
abbrev F.PAS_ARING_BASE_LOG2 : Fld := ⟨.pas, 0x0110, 5, 0⟩
/-- PAS_ARING_TAIL.TAIL (R232). -/
abbrev F.PAS_ARING_TAIL_TAIL : Fld := ⟨.pas, 0x0118, 16, 0⟩
/-- PAS_ARING_HEAD.HEAD (R232). -/
abbrev F.PAS_ARING_HEAD_HEAD : Fld := ⟨.pas, 0x0120, 16, 0⟩
/-- PAS_CRING_BASE.EN (R232). -/
abbrev F.PAS_CRING_BASE_EN : Fld := ⟨.pas, 0x0128, 63, 63⟩
/-- PAS_CRING_BASE.ADDR (R232). -/
abbrev F.PAS_CRING_BASE_ADDR : Fld := ⟨.pas, 0x0128, 47, 6⟩
/-- PAS_CRING_BASE.LOG2 (R232). -/
abbrev F.PAS_CRING_BASE_LOG2 : Fld := ⟨.pas, 0x0128, 5, 0⟩
/-- PAS_CRING_HEAD.HEAD (R232). -/
abbrev F.PAS_CRING_HEAD_HEAD : Fld := ⟨.pas, 0x0130, 16, 0⟩
/-- PAS_CRING_TAIL.EVT_EN (R232). -/
abbrev F.PAS_CRING_TAIL_EVT_EN : Fld := ⟨.pas, 0x0138, 18, 18⟩
/-- PAS_CRING_TAIL.FULL (R232). -/
abbrev F.PAS_CRING_TAIL_FULL : Fld := ⟨.pas, 0x0138, 17, 17⟩
/-- PAS_CRING_TAIL.TAIL (R232). -/
abbrev F.PAS_CRING_TAIL_TAIL : Fld := ⟨.pas, 0x0138, 16, 0⟩
/-- PAS_LIVE.CACHED (R232). -/
abbrev F.PAS_LIVE_CACHED : Fld := ⟨.pas, 0x0140, 63, 32⟩
/-- PAS_LIVE.LIVE (R232). -/
abbrev F.PAS_LIVE_LIVE : Fld := ⟨.pas, 0x0140, 31, 0⟩
/-- PAS_CACHE_CNT.MISS (R232). -/
abbrev F.PAS_CACHE_CNT_MISS : Fld := ⟨.pas, 0x0148, 63, 32⟩
/-- PAS_CACHE_CNT.HIT (R232). -/
abbrev F.PAS_CACHE_CNT_HIT : Fld := ⟨.pas, 0x0148, 31, 0⟩
/-- PAS_REJ.COUNT (R232). -/
abbrev F.PAS_REJ_COUNT : Fld := ⟨.pas, 0x0150, 63, 32⟩
/-- PAS_REJ.LAST (R232). -/
abbrev F.PAS_REJ_LAST : Fld := ⟨.pas, 0x0150, 7, 0⟩
/-- PAS_PEEK.VALID (R232). -/
abbrev F.PAS_PEEK_VALID : Fld := ⟨.pas, 0x0158, 63, 63⟩
/-- PAS_PEEK.STATE (R232). -/
abbrev F.PAS_PEEK_STATE : Fld := ⟨.pas, 0x0158, 59, 56⟩
/-- PAS_PEEK.INDEX (R232). -/
abbrev F.PAS_PEEK_INDEX : Fld := ⟨.pas, 0x0158, 19, 0⟩
/-- SCH_BATCH.WAIT (R233). -/
abbrev F.SCH_BATCH_WAIT : Fld := ⟨.sch, 0x0100, 47, 32⟩
/-- SCH_BATCH.MAX (R233). -/
abbrev F.SCH_BATCH_MAX : Fld := ⟨.sch, 0x0100, 8, 0⟩
/-- SCH_AGE.EXP (R233). -/
abbrev F.SCH_AGE_EXP : Fld := ⟨.sch, 0x0108, 5, 0⟩
/-- SCH_SB_STS.ADM_STOP (R233). -/
abbrev F.SCH_SB_STS_ADM_STOP : Fld := ⟨.sch, 0x0110, 31, 31⟩
/-- SCH_SB_STS.OCC (R233). -/
abbrev F.SCH_SB_STS_OCC : Fld := ⟨.sch, 0x0110, 16, 0⟩
/-- SCH_BATCH_CNT.COUNT (R233). -/
abbrev F.SCH_BATCH_CNT_COUNT : Fld := ⟨.sch, 0x0118, 63, 0⟩
/-- SCH_ITEM_CNT.COUNT (R233). -/
abbrev F.SCH_ITEM_CNT_COUNT : Fld := ⟨.sch, 0x0120, 63, 0⟩
/-- SCH_DL_MISS.COUNT (R233). -/
abbrev F.SCH_DL_MISS_COUNT : Fld := ⟨.sch, 0x0128, 31, 0⟩
/-- SCH_EXP_SEL.STAGE (R256). -/
abbrev F.SCH_EXP_SEL_STAGE : Fld := ⟨.sch, 0x0300, 15, 0⟩
/-- SCH_EXP_CNT.DISPATCHED (R256). -/
abbrev F.SCH_EXP_CNT_DISPATCHED : Fld := ⟨.sch, 0x0308, 63, 32⟩
/-- SCH_EXP_CNT.SELECTED (R256). -/
abbrev F.SCH_EXP_CNT_SELECTED : Fld := ⟨.sch, 0x0308, 31, 0⟩
/-- SCH_EXP_DROP.QOVF (R256). -/
abbrev F.SCH_EXP_DROP_QOVF : Fld := ⟨.sch, 0x0310, 63, 32⟩
/-- SCH_EXP_DROP.CAP (R256). -/
abbrev F.SCH_EXP_DROP_CAP : Fld := ⟨.sch, 0x0310, 31, 0⟩
/-- SCH_EXP_QUE.ZGATE (R256). -/
abbrev F.SCH_EXP_QUE_ZGATE : Fld := ⟨.sch, 0x0318, 63, 32⟩
/-- SCH_EXP_QUE.PEAK (R256). -/
abbrev F.SCH_EXP_QUE_PEAK : Fld := ⟨.sch, 0x0318, 24, 16⟩
/-- SCH_EXP_QUE.NOW (R256). -/
abbrev F.SCH_EXP_QUE_NOW : Fld := ⟨.sch, 0x0318, 8, 0⟩
/-- SCH_EXP_HIST.EN (R256). -/
abbrev F.SCH_EXP_HIST_EN : Fld := ⟨.sch, 0x0320, 63, 63⟩
/-- SCH_EXP_HIST.ADDR (R256). -/
abbrev F.SCH_EXP_HIST_ADDR : Fld := ⟨.sch, 0x0320, 47, 6⟩
/-- SCH_EXIT_SEL.STAGE (R256). -/
abbrev F.SCH_EXIT_SEL_STAGE : Fld := ⟨.sch, 0x0328, 15, 0⟩
/-- SCH_EXIT_CNT.TAKEN (R256). -/
abbrev F.SCH_EXIT_CNT_TAKEN : Fld := ⟨.sch, 0x0330, 63, 32⟩
/-- SCH_EXIT_CNT.TESTED (R256). -/
abbrev F.SCH_EXIT_CNT_TESTED : Fld := ⟨.sch, 0x0330, 31, 0⟩
/-- SCH_DISP_BUF.WAITS (R256). -/
abbrev F.SCH_DISP_BUF_WAITS : Fld := ⟨.sch, 0x0338, 63, 32⟩
/-- SCH_DISP_BUF.USED (R256). -/
abbrev F.SCH_DISP_BUF_USED : Fld := ⟨.sch, 0x0338, 23, 0⟩
/-- SCH_EXP_CLR.CLR (R256). -/
abbrev F.SCH_EXP_CLR_CLR : Fld := ⟨.sch, 0x0340, 0, 0⟩
/-- STK_CFG.CH_UP (R285). -/
abbrev F.STK_CFG_CH_UP : Fld := ⟨.stk, 0x0100, 63, 32⟩
/-- STK_CFG.UP (R285). -/
abbrev F.STK_CFG_UP : Fld := ⟨.stk, 0x0100, 8, 8⟩
/-- STK_CFG.STACK (R285). -/
abbrev F.STK_CFG_STACK : Fld := ⟨.stk, 0x0100, 3, 0⟩
/-- STK_ECC_CNT.UNCORR (R285). -/
abbrev F.STK_ECC_CNT_UNCORR : Fld := ⟨.stk, 0x0108, 63, 32⟩
/-- STK_ECC_CNT.CORR (R285). -/
abbrev F.STK_ECC_CNT_CORR : Fld := ⟨.stk, 0x0108, 31, 0⟩
/-- STK_ECC_ADDR.VALID (R285). -/
abbrev F.STK_ECC_ADDR_VALID : Fld := ⟨.stk, 0x0110, 63, 63⟩
/-- STK_ECC_ADDR.ADDR (R285). -/
abbrev F.STK_ECC_ADDR_ADDR : Fld := ⟨.stk, 0x0110, 47, 5⟩
/-- STK_ECC_ADDR.SCRUB (R285). -/
abbrev F.STK_ECC_ADDR_SCRUB : Fld := ⟨.stk, 0x0110, 0, 0⟩
/-- STK_SCRUB.PASSES (R285). -/
abbrev F.STK_SCRUB_PASSES : Fld := ⟨.stk, 0x0118, 63, 32⟩
/-- STK_SCRUB.PERIOD (R285). -/
abbrev F.STK_SCRUB_PERIOD : Fld := ⟨.stk, 0x0118, 7, 0⟩
/-- STK_ARB.BULK_MIN (R285). -/
abbrev F.STK_ARB_BULK_MIN : Fld := ⟨.stk, 0x0120, 3, 0⟩
/-- STK_BW_RD.BYTES (R285). -/
abbrev F.STK_BW_RD_BYTES : Fld := ⟨.stk, 0x0128, 63, 0⟩
/-- STK_BW_WR.BYTES (R285). -/
abbrev F.STK_BW_WR_BYTES : Fld := ⟨.stk, 0x0130, 63, 0⟩
/-- STK_SC_CNT.MISS (R285). -/
abbrev F.STK_SC_CNT_MISS : Fld := ⟨.stk, 0x0200, 63, 32⟩
/-- STK_SC_CNT.HIT (R285). -/
abbrev F.STK_SC_CNT_HIT : Fld := ⟨.stk, 0x0200, 31, 0⟩
/-- STK_SC_WB.COUNT (R285). -/
abbrev F.STK_SC_WB_COUNT : Fld := ⟨.stk, 0x0208, 31, 0⟩
/-- STK_PF_CTL.PAS_MAX (R285). -/
abbrev F.STK_PF_CTL_PAS_MAX : Fld := ⟨.stk, 0x0210, 31, 16⟩
/-- STK_PF_CTL.EN (R285). -/
abbrev F.STK_PF_CTL_EN : Fld := ⟨.stk, 0x0210, 7, 7⟩
/-- STK_PF_CTL.DEPTH (R285). -/
abbrev F.STK_PF_CTL_DEPTH : Fld := ⟨.stk, 0x0210, 6, 0⟩
/-- STK_PF_CNT.DROPPED (R285). -/
abbrev F.STK_PF_CNT_DROPPED : Fld := ⟨.stk, 0x0218, 63, 32⟩
/-- STK_PF_CNT.ISSUED (R285). -/
abbrev F.STK_PF_CNT_ISSUED : Fld := ⟨.stk, 0x0218, 31, 0⟩
/-- STK_PF_USE.USED (R285). -/
abbrev F.STK_PF_USE_USED : Fld := ⟨.stk, 0x0220, 31, 0⟩
/-- STK_SC_ECC.UNCORR (R285). -/
abbrev F.STK_SC_ECC_UNCORR : Fld := ⟨.stk, 0x0228, 63, 32⟩
/-- STK_SC_ECC.CORR (R285). -/
abbrev F.STK_SC_ECC_CORR : Fld := ⟨.stk, 0x0228, 31, 0⟩
/-- STK_VIOL.COUNT (R285). -/
abbrev F.STK_VIOL_COUNT : Fld := ⟨.stk, 0x0230, 63, 32⟩
/-- STK_VIOL.PART (R285). -/
abbrev F.STK_VIOL_PART : Fld := ⟨.stk, 0x0230, 21, 16⟩
/-- STK_VIOL.GRANULE (R285). -/
abbrev F.STK_VIOL_GRANULE : Fld := ⟨.stk, 0x0230, 10, 0⟩
/-- STK_WIN_SEL.INDEX (R285). -/
abbrev F.STK_WIN_SEL_INDEX : Fld := ⟨.stk, 0x0300, 7, 0⟩
/-- STK_WIN_BASE.VALID (R285). -/
abbrev F.STK_WIN_BASE_VALID : Fld := ⟨.stk, 0x0308, 63, 63⟩
/-- STK_WIN_BASE.OWNER (R285). -/
abbrev F.STK_WIN_BASE_OWNER : Fld := ⟨.stk, 0x0308, 53, 48⟩
/-- STK_WIN_BASE.BASE (R285). -/
abbrev F.STK_WIN_BASE_BASE : Fld := ⟨.stk, 0x0308, 47, 12⟩
/-- STK_WIN_LIM.LIMIT (R285). -/
abbrev F.STK_WIN_LIM_LIMIT : Fld := ⟨.stk, 0x0310, 47, 12⟩
/-- STK_WIN_CNT.SHORT (R285). -/
abbrev F.STK_WIN_CNT_SHORT : Fld := ⟨.stk, 0x0318, 63, 32⟩
/-- STK_WIN_CNT.USED (R285). -/
abbrev F.STK_WIN_CNT_USED : Fld := ⟨.stk, 0x0318, 8, 0⟩
/-- STK_TIER_STS.SPILLQ (R285). -/
abbrev F.STK_TIER_STS_SPILLQ : Fld := ⟨.stk, 0x0400, 20, 16⟩
/-- STK_TIER_STS.CTX (R285). -/
abbrev F.STK_TIER_STS_CTX : Fld := ⟨.stk, 0x0400, 12, 8⟩
/-- STK_TIER_STS.DUTY (R285). -/
abbrev F.STK_TIER_STS_DUTY : Fld := ⟨.stk, 0x0400, 2, 0⟩
/-- STK_TIER_WGT.COUNT (R285). -/
abbrev F.STK_TIER_WGT_COUNT : Fld := ⟨.stk, 0x0408, 63, 0⟩
/-- STK_TIER_ITEM.SPILLS (R285). -/
abbrev F.STK_TIER_ITEM_SPILLS : Fld := ⟨.stk, 0x0410, 63, 32⟩
/-- STK_TIER_ITEM.ITEMS (R285). -/
abbrev F.STK_TIER_ITEM_ITEMS : Fld := ⟨.stk, 0x0410, 31, 0⟩
/-- STK_CLR.CLR (R285). -/
abbrev F.STK_CLR_CLR : Fld := ⟨.stk, 0x0418, 0, 0⟩
/-- LDR_SEL.PART (R313). -/
abbrev F.LDR_SEL_PART : Fld := ⟨.ldr, 0x0100, 5, 0⟩
/-- LDR_CFG.TMO (R313). -/
abbrev F.LDR_CFG_TMO : Fld := ⟨.ldr, 0x0108, 47, 32⟩
/-- LDR_CFG.CHAIN (R313). -/
abbrev F.LDR_CFG_CHAIN : Fld := ⟨.ldr, 0x0108, 23, 20⟩
/-- LDR_CFG.RETAIN (R313). -/
abbrev F.LDR_CFG_RETAIN : Fld := ⟨.ldr, 0x0108, 0, 0⟩
/-- LDR_SSTAT.EN (R313). -/
abbrev F.LDR_SSTAT_EN : Fld := ⟨.ldr, 0x0110, 63, 63⟩
/-- LDR_SSTAT.ADDR (R313). -/
abbrev F.LDR_SSTAT_ADDR : Fld := ⟨.ldr, 0x0110, 47, 6⟩
/-- LDR_STS.DONE (R313). -/
abbrev F.LDR_STS_DONE : Fld := ⟨.ldr, 0x0118, 63, 39⟩
/-- LDR_STS.FAIL (R313). -/
abbrev F.LDR_STS_FAIL : Fld := ⟨.ldr, 0x0118, 38, 14⟩
/-- LDR_STS.PHASE (R313). -/
abbrev F.LDR_STS_PHASE : Fld := ⟨.ldr, 0x0118, 7, 4⟩
/-- LDR_STS.BUSY (R313). -/
abbrev F.LDR_STS_BUSY : Fld := ⟨.ldr, 0x0118, 0, 0⟩
/-- LDR_SWAP_ADDR.ADDR (R313). -/
abbrev F.LDR_SWAP_ADDR_ADDR : Fld := ⟨.ldr, 0x0120, 47, 6⟩
/-- LDR_SWAP_CMD.OLD_LIMIT (R313). -/
abbrev F.LDR_SWAP_CMD_OLD_LIMIT : Fld := ⟨.ldr, 0x0128, 63, 32⟩
/-- LDR_SWAP_CMD.OP (R313). -/
abbrev F.LDR_SWAP_CMD_OP : Fld := ⟨.ldr, 0x0128, 3, 1⟩
/-- LDR_SWAP_CMD.GO (R313). -/
abbrev F.LDR_SWAP_CMD_GO : Fld := ⟨.ldr, 0x0128, 0, 0⟩
/-- LDR_SWAP_STS.NEW_EPOCH (R313). -/
abbrev F.LDR_SWAP_STS_NEW_EPOCH : Fld := ⟨.ldr, 0x0130, 63, 48⟩
/-- LDR_SWAP_STS.ADM_EPOCH (R313). -/
abbrev F.LDR_SWAP_STS_ADM_EPOCH : Fld := ⟨.ldr, 0x0130, 47, 32⟩
/-- LDR_SWAP_STS.LOW_WAVE (R313). -/
abbrev F.LDR_SWAP_STS_LOW_WAVE : Fld := ⟨.ldr, 0x0130, 31, 20⟩
/-- LDR_SWAP_STS.CODE (R313). -/
abbrev F.LDR_SWAP_STS_CODE : Fld := ⟨.ldr, 0x0130, 19, 16⟩
/-- LDR_SWAP_STS.STATE (R313). -/
abbrev F.LDR_SWAP_STS_STATE : Fld := ⟨.ldr, 0x0130, 11, 8⟩
/-- LDR_SWAP_STS.LOST (R313). -/
abbrev F.LDR_SWAP_STS_LOST : Fld := ⟨.ldr, 0x0130, 1, 1⟩
/-- LDR_SWAP_STS.BUSY (R313). -/
abbrev F.LDR_SWAP_STS_BUSY : Fld := ⟨.ldr, 0x0130, 0, 0⟩
/-- LDR_WAVE.N_NEW (R313). -/
abbrev F.LDR_WAVE_N_NEW : Fld := ⟨.ldr, 0x0138, 54, 42⟩
/-- LDR_WAVE.N_WRITING (R313). -/
abbrev F.LDR_WAVE_N_WRITING : Fld := ⟨.ldr, 0x0138, 41, 29⟩
/-- LDR_WAVE.N_WAVE (R313). -/
abbrev F.LDR_WAVE_N_WAVE : Fld := ⟨.ldr, 0x0138, 28, 16⟩
/-- LDR_OLD.ENDED (R313). -/
abbrev F.LDR_OLD_ENDED : Fld := ⟨.ldr, 0x0140, 63, 32⟩
/-- LDR_OLD.OPEN (R313). -/
abbrev F.LDR_OLD_OPEN : Fld := ⟨.ldr, 0x0140, 31, 0⟩
/-- LDR_PROG.QUEUED (R313). -/
abbrev F.LDR_PROG_QUEUED : Fld := ⟨.ldr, 0x0148, 47, 24⟩
/-- LDR_PROG.ACTIVE (R313). -/
abbrev F.LDR_PROG_ACTIVE : Fld := ⟨.ldr, 0x0148, 23, 0⟩
/-- LDR_PROG_CNT.VFAIL (R313). -/
abbrev F.LDR_PROG_CNT_VFAIL : Fld := ⟨.ldr, 0x0150, 63, 48⟩
/-- LDR_PROG_CNT.STUCK (R313). -/
abbrev F.LDR_PROG_CNT_STUCK : Fld := ⟨.ldr, 0x0150, 47, 24⟩
/-- LDR_PROG_CNT.DONE (R313). -/
abbrev F.LDR_PROG_CNT_DONE : Fld := ⟨.ldr, 0x0150, 23, 0⟩
/-- LDR_FETCH.BYTES (R313). -/
abbrev F.LDR_FETCH_BYTES : Fld := ⟨.ldr, 0x0158, 63, 0⟩
/-- LDR_FWD.BYTES (R313). -/
abbrev F.LDR_FWD_BYTES : Fld := ⟨.ldr, 0x0160, 63, 0⟩
/-- LDR_ERR.TRIES (R313). -/
abbrev F.LDR_ERR_TRIES : Fld := ⟨.ldr, 0x0168, 63, 32⟩
/-- LDR_ERR.PEER (R313). -/
abbrev F.LDR_ERR_PEER : Fld := ⟨.ldr, 0x0168, 31, 16⟩
/-- LDR_ERR.FAILED (R313). -/
abbrev F.LDR_ERR_FAILED : Fld := ⟨.ldr, 0x0168, 15, 0⟩
/-- LDR_CLR.CLR (R313). -/
abbrev F.LDR_CLR_CLR : Fld := ⟨.ldr, 0x0170, 0, 0⟩
/-- CHK_CFG.SOFT_CAL (R337). -/
abbrev F.CHK_CFG_SOFT_CAL : Fld := ⟨.chk, 0x0100, 47, 32⟩
/-- CHK_CFG.TIER_ONLY (R337). -/
abbrev F.CHK_CFG_TIER_ONLY : Fld := ⟨.chk, 0x0100, 8, 8⟩
/-- CHK_CFG.K (R337). -/
abbrev F.CHK_CFG_K : Fld := ⟨.chk, 0x0100, 7, 0⟩
/-- CHK_SIGMA.TEMP (R337). -/
abbrev F.CHK_SIGMA_TEMP : Fld := ⟨.chk, 0x0108, 47, 32⟩
/-- CHK_SIGMA.SIGMA (R337). -/
abbrev F.CHK_SIGMA_SIGMA : Fld := ⟨.chk, 0x0108, 15, 0⟩
/-- CHK_SOFT.RES (R337). -/
abbrev F.CHK_SOFT_RES : Fld := ⟨.chk, 0x0110, 63, 32⟩
/-- CHK_SOFT.SUM (R337). -/
abbrev F.CHK_SOFT_SUM : Fld := ⟨.chk, 0x0110, 31, 0⟩
/-- CHK_HARD.ARRAY (R337). -/
abbrev F.CHK_HARD_ARRAY : Fld := ⟨.chk, 0x0118, 63, 48⟩
/-- CHK_HARD.CHECK (R337). -/
abbrev F.CHK_HARD_CHECK : Fld := ⟨.chk, 0x0118, 47, 32⟩
/-- CHK_HARD.DIGITAL (R337). -/
abbrev F.CHK_HARD_DIGITAL : Fld := ⟨.chk, 0x0118, 31, 16⟩
/-- CHK_HARD.UNRESOLVED (R337). -/
abbrev F.CHK_HARD_UNRESOLVED : Fld := ⟨.chk, 0x0118, 15, 0⟩
/-- CHK_SECOND.TIER (R337). -/
abbrev F.CHK_SECOND_TIER : Fld := ⟨.chk, 0x0120, 63, 32⟩
/-- CHK_SECOND.REPLICA (R337). -/
abbrev F.CHK_SECOND_REPLICA : Fld := ⟨.chk, 0x0120, 31, 0⟩
/-- CHK_DATA.CTL (R337). -/
abbrev F.CHK_DATA_CTL : Fld := ⟨.chk, 0x0128, 47, 32⟩
/-- CHK_DATA.MEM (R337). -/
abbrev F.CHK_DATA_MEM : Fld := ⟨.chk, 0x0128, 31, 16⟩
/-- CHK_DATA.SRAM (R337). -/
abbrev F.CHK_DATA_SRAM : Fld := ⟨.chk, 0x0128, 15, 0⟩
/-- CHK_LAST.VALID (R337). -/
abbrev F.CHK_LAST_VALID : Fld := ⟨.chk, 0x0130, 63, 63⟩
/-- CHK_LAST.KIND (R337). -/
abbrev F.CHK_LAST_KIND : Fld := ⟨.chk, 0x0130, 55, 48⟩
/-- CHK_LAST.STAGE (R337). -/
abbrev F.CHK_LAST_STAGE : Fld := ⟨.chk, 0x0130, 47, 32⟩
/-- CHK_LAST.UNIT (R337). -/
abbrev F.CHK_LAST_UNIT : Fld := ⟨.chk, 0x0130, 31, 0⟩
/-- CHK_HOLD.DROPPED (R337). -/
abbrev F.CHK_HOLD_DROPPED : Fld := ⟨.chk, 0x0138, 63, 32⟩
/-- CHK_HOLD.HELD (R337). -/
abbrev F.CHK_HOLD_HELD : Fld := ⟨.chk, 0x0138, 10, 0⟩
/-- CHK_TP.RUNS (R337). -/
abbrev F.CHK_TP_RUNS : Fld := ⟨.chk, 0x0140, 63, 32⟩
/-- CHK_TP.FAILS (R337). -/
abbrev F.CHK_TP_FAILS : Fld := ⟨.chk, 0x0140, 31, 16⟩
/-- CHK_TP.ACTIVE (R337). -/
abbrev F.CHK_TP_ACTIVE : Fld := ⟨.chk, 0x0140, 6, 0⟩
/-- TIL_CHK.HARD (R338). -/
abbrev F.TIL_CHK_HARD : Fld := ⟨.til, 0x0380, 63, 48⟩
/-- TIL_CHK.RES (R338). -/
abbrev F.TIL_CHK_RES : Fld := ⟨.til, 0x0380, 47, 32⟩
/-- TIL_CHK.SOFT (R338). -/
abbrev F.TIL_CHK_SOFT : Fld := ⟨.til, 0x0380, 31, 0⟩
/-- CAL_CFG.DRIFT_TOL (R355). -/
abbrev F.CAL_CFG_DRIFT_TOL : Fld := ⟨.cal, 0x0100, 63, 48⟩
/-- CAL_CFG.QF_MAX (R355). -/
abbrev F.CAL_CFG_QF_MAX : Fld := ⟨.cal, 0x0100, 47, 40⟩
/-- CAL_CFG.AGREE (R355). -/
abbrev F.CAL_CFG_AGREE : Fld := ⟨.cal, 0x0100, 39, 32⟩
/-- CAL_CFG.MAX (R355). -/
abbrev F.CAL_CFG_MAX : Fld := ⟨.cal, 0x0100, 24, 16⟩
/-- CAL_CFG.PERIOD (R355). -/
abbrev F.CAL_CFG_PERIOD : Fld := ⟨.cal, 0x0100, 15, 8⟩
/-- CAL_CFG.DELTA (R355). -/
abbrev F.CAL_CFG_DELTA : Fld := ⟨.cal, 0x0100, 7, 0⟩
/-- CAL_HOLD.GAP (R355). -/
abbrev F.CAL_HOLD_GAP : Fld := ⟨.cal, 0x0108, 63, 32⟩
/-- CAL_HOLD.MAX (R355). -/
abbrev F.CAL_HOLD_MAX : Fld := ⟨.cal, 0x0108, 15, 0⟩
/-- CAL_CMD.DIE (R355). -/
abbrev F.CAL_CMD_DIE : Fld := ⟨.cal, 0x0110, 20, 20⟩
/-- CAL_CMD.Y (R355). -/
abbrev F.CAL_CMD_Y : Fld := ⟨.cal, 0x0110, 19, 13⟩
/-- CAL_CMD.X (R355). -/
abbrev F.CAL_CMD_X : Fld := ⟨.cal, 0x0110, 12, 6⟩
/-- CAL_CMD.GO (R355). -/
abbrev F.CAL_CMD_GO : Fld := ⟨.cal, 0x0110, 0, 0⟩
/-- CAL_STS.QUEUED (R355). -/
abbrev F.CAL_STS_QUEUED : Fld := ⟨.cal, 0x0118, 47, 32⟩
/-- CAL_STS.ACTIVE (R355). -/
abbrev F.CAL_STS_ACTIVE : Fld := ⟨.cal, 0x0118, 8, 0⟩
/-- CAL_CNT.BAD (R355). -/
abbrev F.CAL_CNT_BAD : Fld := ⟨.cal, 0x0120, 63, 32⟩
/-- CAL_CNT.ACCEPTED (R355). -/
abbrev F.CAL_CNT_ACCEPTED : Fld := ⟨.cal, 0x0120, 31, 0⟩
/-- CAL_TRIG.START (R355). -/
abbrev F.CAL_TRIG_START : Fld := ⟨.cal, 0x0128, 63, 48⟩
/-- CAL_TRIG.DEMAND (R355). -/
abbrev F.CAL_TRIG_DEMAND : Fld := ⟨.cal, 0x0128, 47, 32⟩
/-- CAL_TRIG.PERIOD (R355). -/
abbrev F.CAL_TRIG_PERIOD : Fld := ⟨.cal, 0x0128, 31, 16⟩
/-- CAL_TRIG.TEMP (R355). -/
abbrev F.CAL_TRIG_TEMP : Fld := ⟨.cal, 0x0128, 15, 0⟩
/-- CAL_FLAG.VOID (R355). -/
abbrev F.CAL_FLAG_VOID : Fld := ⟨.cal, 0x0130, 63, 32⟩
/-- CAL_FLAG.RETIRED (R355). -/
abbrev F.CAL_FLAG_RETIRED : Fld := ⟨.cal, 0x0130, 15, 0⟩
/-- TIL_CAL.D (R356). -/
abbrev F.TIL_CAL_D : Fld := ⟨.til, 0x0340, 63, 48⟩
/-- TIL_CAL.T_CAL (R356). -/
abbrev F.TIL_CAL_T_CAL : Fld := ⟨.til, 0x0340, 47, 32⟩
/-- TIL_CAL.QF (R356). -/
abbrev F.TIL_CAL_QF : Fld := ⟨.til, 0x0340, 31, 24⟩
/-- TIL_CAL.BAD (R356). -/
abbrev F.TIL_CAL_BAD : Fld := ⟨.til, 0x0340, 17, 16⟩
/-- TIL_CAL.TRACK (R356). -/
abbrev F.TIL_CAL_TRACK : Fld := ⟨.til, 0x0340, 15, 0⟩
/-- TIL_CAL_SEL.ADC (R356). -/
abbrev F.TIL_CAL_SEL_ADC : Fld := ⟨.til, 0x0348, 6, 0⟩
/-- TIL_CAL_TRIM.GAIN (R356). -/
abbrev F.TIL_CAL_TRIM_GAIN : Fld := ⟨.til, 0x0350, 23, 8⟩
/-- TIL_CAL_TRIM.OFFSET (R356). -/
abbrev F.TIL_CAL_TRIM_OFFSET : Fld := ⟨.til, 0x0350, 7, 0⟩
/-- TIL_CAL_POS.POS (R356). -/
abbrev F.TIL_CAL_POS_POS : Fld := ⟨.til, 0x0358, 31, 0⟩
/-- BFP_LNK_STS.STATE (R386). -/
abbrev F.BFP_LNK_STS_STATE : Fld := ⟨.bfp, 0x0100, 63, 60⟩
/-- BFP_LNK_STS.CAUSE (R386). -/
abbrev F.BFP_LNK_STS_CAUSE : Fld := ⟨.bfp, 0x0100, 59, 56⟩
/-- BFP_LNK_STS.REV (R386). -/
abbrev F.BFP_LNK_STS_REV : Fld := ⟨.bfp, 0x0100, 55, 52⟩
/-- BFP_LNK_STS.NFEAT (R386). -/
abbrev F.BFP_LNK_STS_NFEAT : Fld := ⟨.bfp, 0x0100, 51, 44⟩
/-- BFP_LNK_STS.NLINK (R386). -/
abbrev F.BFP_LNK_STS_NLINK : Fld := ⟨.bfp, 0x0100, 43, 40⟩
/-- BFP_LNK_STS.QUADS (R386). -/
abbrev F.BFP_LNK_STS_QUADS : Fld := ⟨.bfp, 0x0100, 39, 36⟩
/-- BFP_LNK_STS.NCOORD (R386). -/
abbrev F.BFP_LNK_STS_NCOORD : Fld := ⟨.bfp, 0x0100, 35, 18⟩
/-- BFP_CREDIT.TRN (R386). -/
abbrev F.BFP_CREDIT_TRN : Fld := ⟨.bfp, 0x0108, 44, 36⟩
/-- BFP_CREDIT.BULK (R386). -/
abbrev F.BFP_CREDIT_BULK : Fld := ⟨.bfp, 0x0108, 35, 27⟩
/-- BFP_CREDIT.RED (R386). -/
abbrev F.BFP_CREDIT_RED : Fld := ⟨.bfp, 0x0108, 26, 18⟩
/-- BFP_CREDIT.ACT (R386). -/
abbrev F.BFP_CREDIT_ACT : Fld := ⟨.bfp, 0x0108, 17, 9⟩
/-- BFP_CREDIT.CTL (R386). -/
abbrev F.BFP_CREDIT_CTL : Fld := ⟨.bfp, 0x0108, 8, 0⟩
/-- BFP_ARB.W (R386). -/
abbrev F.BFP_ARB_W : Fld := ⟨.bfp, 0x0110, 15, 0⟩
/-- BFP_ERR.UNCORR (R386). -/
abbrev F.BFP_ERR_UNCORR : Fld := ⟨.bfp, 0x0118, 63, 48⟩
/-- BFP_ERR.CRC (R386). -/
abbrev F.BFP_ERR_CRC : Fld := ⟨.bfp, 0x0118, 47, 32⟩
/-- BFP_ERR.CORR (R386). -/
abbrev F.BFP_ERR_CORR : Fld := ⟨.bfp, 0x0118, 31, 0⟩
/-- BFP_REPLAY.COUNT (R386). -/
abbrev F.BFP_REPLAY_COUNT : Fld := ⟨.bfp, 0x0120, 31, 0⟩
/-- BFP_DROP.HOPS (R386). -/
abbrev F.BFP_DROP_HOPS : Fld := ⟨.bfp, 0x0128, 63, 32⟩
/-- BFP_DROP.NOROUTE (R386). -/
abbrev F.BFP_DROP_NOROUTE : Fld := ⟨.bfp, 0x0128, 31, 0⟩
/-- BFP_FLITS.COUNT (R386). -/
abbrev F.BFP_FLITS_COUNT : Fld := ⟨.bfp, 0x0130, 63, 0⟩
/-- BFP_SHAREe.JOB (R386). -/
abbrev F.BFP_SHARE_JOB : Fld := ⟨.bfp, 0x0200, 47, 32⟩
/-- BFP_SHAREe.FWD (R386). -/
abbrev F.BFP_SHARE_FWD : Fld := ⟨.bfp, 0x0200, 19, 16⟩
/-- BFP_SHAREe.VALID (R386). -/
abbrev F.BFP_SHARE_VALID : Fld := ⟨.bfp, 0x0200, 15, 15⟩
/-- BFP_SHAREe.SHARE (R386). -/
abbrev F.BFP_SHARE_SHARE : Fld := ⟨.bfp, 0x0200, 6, 0⟩
/-- BFP_MCEVT.VALID (R386). -/
abbrev F.BFP_MCEVT_VALID : Fld := ⟨.bfp, 0x0300, 63, 63⟩
/-- BFP_MCEVT.JOB (R386). -/
abbrev F.BFP_MCEVT_JOB : Fld := ⟨.bfp, 0x0300, 47, 32⟩
/-- BFP_MCEVT.LINK (R386). -/
abbrev F.BFP_MCEVT_LINK : Fld := ⟨.bfp, 0x0300, 31, 28⟩
/-- BFP_MCEVT.TREE (R386). -/
abbrev F.BFP_MCEVT_TREE : Fld := ⟨.bfp, 0x0300, 15, 0⟩
/-- BFP_COORD.COORD (R387). -/
abbrev F.BFP_COORD_COORD : Fld := ⟨.bfp, 0x8000, 17, 0⟩
/-- BFP_QMAP0.Q15–Q0 (R387). -/
abbrev F.BFP_QMAP0_Q : Fld := ⟨.bfp, 0x8008, 63, 0⟩
/-- BFP_QMAP1.Q23–Q16 (R387). -/
abbrev F.BFP_QMAP1_Q : Fld := ⟨.bfp, 0x8010, 31, 0⟩
/-- BFP_SLICE_SEL.PART (R387). -/
abbrev F.BFP_SLICE_SEL_PART : Fld := ⟨.fab, 0x8018, 5, 0⟩
/-- BFP_SLICE_ADDR.ADDR (R387). -/
abbrev F.BFP_SLICE_ADDR_ADDR : Fld := ⟨.fab, 0x8020, 47, 6⟩
/-- BFP_SLICE_CMD.OP (R387). -/
abbrev F.BFP_SLICE_CMD_OP : Fld := ⟨.fab, 0x8028, 3, 1⟩
/-- BFP_SLICE_CMD.GO (R387). -/
abbrev F.BFP_SLICE_CMD_GO : Fld := ⟨.fab, 0x8028, 0, 0⟩
/-- BFP_SLICE_STS.JOB (R387). -/
abbrev F.BFP_SLICE_STS_JOB : Fld := ⟨.fab, 0x8030, 63, 48⟩
/-- BFP_SLICE_STS.WRAP (R387). -/
abbrev F.BFP_SLICE_STS_WRAP : Fld := ⟨.fab, 0x8030, 39, 37⟩
/-- BFP_SLICE_STS.WRAP_OK (R387). -/
abbrev F.BFP_SLICE_STS_WRAP_OK : Fld := ⟨.fab, 0x8030, 36, 34⟩
/-- BFP_SLICE_STS.CODE (R387). -/
abbrev F.BFP_SLICE_STS_CODE : Fld := ⟨.fab, 0x8030, 23, 16⟩
/-- BFP_SLICE_STS.STATE (R387). -/
abbrev F.BFP_SLICE_STS_STATE : Fld := ⟨.fab, 0x8030, 7, 4⟩
/-- BFP_SLICE_STS.LOST (R387). -/
abbrev F.BFP_SLICE_STS_LOST : Fld := ⟨.fab, 0x8030, 1, 1⟩
/-- BFP_SLICE_STS.BUSY (R387). -/
abbrev F.BFP_SLICE_STS_BUSY : Fld := ⟨.fab, 0x8030, 0, 0⟩
/-- BFP_MCHOLD.LIMIT (R387). -/
abbrev F.BFP_MCHOLD_LIMIT : Fld := ⟨.bfp, 0x8038, 15, 0⟩
/-- MSC_VALUE.VALUE (R388). -/
abbrev F.MSC_VALUE_VALUE : Fld := ⟨.msc, 0x0100, 63, 0⟩
/-- MSC_CFG.ROOT (R388). -/
abbrev F.MSC_CFG_ROOT : Fld := ⟨.msc, 0x0108, 0, 0⟩
/-- MSC_STS.LOCK (R388). -/
abbrev F.MSC_STS_LOCK : Fld := ⟨.msc, 0x0110, 63, 63⟩
/-- MSC_STS.HOLD (R388). -/
abbrev F.MSC_STS_HOLD : Fld := ⟨.msc, 0x0110, 62, 62⟩
/-- MSC_STS.PARENT (R388). -/
abbrev F.MSC_STS_PARENT : Fld := ⟨.msc, 0x0110, 55, 52⟩
/-- MSC_STS.DEPTH (R388). -/
abbrev F.MSC_STS_DEPTH : Fld := ⟨.msc, 0x0110, 51, 44⟩
/-- MSC_STS.OFFSET (R388). -/
abbrev F.MSC_STS_OFFSET : Fld := ⟨.msc, 0x0110, 31, 16⟩
/-- MSC_STS.RATE (R388). -/
abbrev F.MSC_STS_RATE : Fld := ⟨.msc, 0x0110, 15, 0⟩
/-- MSC_EVT.LOCKLOSS (R388). -/
abbrev F.MSC_EVT_LOCKLOSS : Fld := ⟨.msc, 0x0118, 63, 32⟩
/-- MSC_EVT.REPARENT (R388). -/
abbrev F.MSC_EVT_REPARENT : Fld := ⟨.msc, 0x0118, 31, 0⟩
/-- ETH_MODE.M800 (R389). -/
abbrev F.ETH_MODE_M800 : Fld := ⟨.eth, 0x0100, 0, 0⟩
/-- ETH_STS.SPEED (R389). -/
abbrev F.ETH_STS_SPEED : Fld := ⟨.eth, 0x0108, 2, 1⟩
/-- ETH_STS.UP (R389). -/
abbrev F.ETH_STS_UP : Fld := ⟨.eth, 0x0108, 0, 0⟩
/-- ETH_MAC.MAC (R389). -/
abbrev F.ETH_MAC_MAC : Fld := ⟨.eth, 0x0110, 47, 0⟩
/-- ETH_CFG.MTU (R389). -/
abbrev F.ETH_CFG_MTU : Fld := ⟨.eth, 0x0118, 63, 48⟩
/-- ETH_CFG.PLEN (R389). -/
abbrev F.ETH_CFG_PLEN : Fld := ⟨.eth, 0x0118, 47, 40⟩
/-- ETH_CFG.PFC (R389). -/
abbrev F.ETH_CFG_PFC : Fld := ⟨.eth, 0x0118, 39, 32⟩
/-- ETH_CFG.VLAN_EN (R389). -/
abbrev F.ETH_CFG_VLAN_EN : Fld := ⟨.eth, 0x0118, 15, 15⟩
/-- ETH_CFG.PCP (R389). -/
abbrev F.ETH_CFG_PCP : Fld := ⟨.eth, 0x0118, 14, 12⟩
/-- ETH_CFG.VID (R389). -/
abbrev F.ETH_CFG_VID : Fld := ⟨.eth, 0x0118, 11, 0⟩
/-- ETH_IP0.ADDR (R389). -/
abbrev F.ETH_IP_ADDR : Fld := ⟨.eth, 0x0120, 63, 0⟩
/-- ETH_RTR0.ADDR (R389). -/
abbrev F.ETH_RTR_ADDR : Fld := ⟨.eth, 0x0130, 63, 0⟩
/-- ETH_CNT.FCS (R389). -/
abbrev F.ETH_CNT_FCS : Fld := ⟨.eth, 0x0140, 63, 32⟩
/-- ETH_CNT.FEC (R389). -/
abbrev F.ETH_CNT_FEC : Fld := ⟨.eth, 0x0140, 31, 0⟩
/-- BFP_QDROP.QMASK (R410). -/
abbrev F.BFP_QDROP_QMASK : Fld := ⟨.bfp, 0x0138, 47, 24⟩
/-- BFP_QDROP.COUNT (R410). -/
abbrev F.BFP_QDROP_COUNT : Fld := ⟨.bfp, 0x0138, 15, 0⟩
/-- BFP_DEAD.COUNT (R410). -/
abbrev F.BFP_DEAD_COUNT : Fld := ⟨.bfp, 0x0140, 63, 32⟩
/-- BFP_DEAD.CAUSE (R410). -/
abbrev F.BFP_DEAD_CAUSE : Fld := ⟨.bfp, 0x0140, 3, 0⟩
/-- BFP_COLL.TMO (R411). -/
abbrev F.BFP_COLL_TMO : Fld := ⟨.fab, 0x8040, 63, 32⟩
/-- BFP_COLL.ALG (R411). -/
abbrev F.BFP_COLL_ALG : Fld := ⟨.fab, 0x8040, 1, 0⟩
/-- BFP_COLL_STS.ABORTS (R411). -/
abbrev F.BFP_COLL_STS_ABORTS : Fld := ⟨.fab, 0x8048, 63, 32⟩
/-- BFP_COLL_STS.OPEN (R411). -/
abbrev F.BFP_COLL_STS_OPEN : Fld := ⟨.fab, 0x8048, 13, 0⟩
/-- BFP_BAR_CMD.LEAD (R411). -/
abbrev F.BFP_BAR_CMD_LEAD : Fld := ⟨.fab, 0x8050, 47, 32⟩
/-- BFP_BAR_CMD.NUM (R411). -/
abbrev F.BFP_BAR_CMD_NUM : Fld := ⟨.fab, 0x8050, 31, 16⟩
/-- BFP_BAR_CMD.HOLD (R411). -/
abbrev F.BFP_BAR_CMD_HOLD : Fld := ⟨.fab, 0x8050, 1, 1⟩
/-- BFP_BAR_CMD.GO (R411). -/
abbrev F.BFP_BAR_CMD_GO : Fld := ⟨.fab, 0x8050, 0, 0⟩
/-- BFP_BAR_STS.NUM (R411). -/
abbrev F.BFP_BAR_STS_NUM : Fld := ⟨.fab, 0x8058, 63, 48⟩
/-- BFP_BAR_STS.CODE (R411). -/
abbrev F.BFP_BAR_STS_CODE : Fld := ⟨.fab, 0x8058, 19, 16⟩
/-- BFP_BAR_STS.STATE (R411). -/
abbrev F.BFP_BAR_STS_STATE : Fld := ⟨.fab, 0x8058, 7, 4⟩
/-- BFP_BAR_STS.LATE (R411). -/
abbrev F.BFP_BAR_STS_LATE : Fld := ⟨.fab, 0x8058, 2, 2⟩
/-- BFP_BAR_STS.LOST (R411). -/
abbrev F.BFP_BAR_STS_LOST : Fld := ⟨.fab, 0x8058, 1, 1⟩
/-- BFP_BAR_STS.BUSY (R411). -/
abbrev F.BFP_BAR_STS_BUSY : Fld := ⟨.fab, 0x8058, 0, 0⟩
/-- BFP_BAR_REL.M_REL (R411). -/
abbrev F.BFP_BAR_REL_M_REL : Fld := ⟨.fab, 0x8060, 63, 0⟩
/-- BFP_JSTOP.VALID (R411). -/
abbrev F.BFP_JSTOP_VALID : Fld := ⟨.fab, 0x8068, 63, 63⟩
/-- BFP_JSTOP.CAUSE (R411). -/
abbrev F.BFP_JSTOP_CAUSE : Fld := ⟨.fab, 0x8068, 55, 52⟩
/-- BFP_JSTOP.LINK (R411). -/
abbrev F.BFP_JSTOP_LINK : Fld := ⟨.fab, 0x8068, 51, 48⟩
/-- BFP_JSTOP.JOB (R411). -/
abbrev F.BFP_JSTOP_JOB : Fld := ⟨.fab, 0x8068, 47, 32⟩
/-- BFP_JSTOP.ORIGIN (R411). -/
abbrev F.BFP_JSTOP_ORIGIN : Fld := ⟨.fab, 0x8068, 17, 0⟩
/-- TRL_LNK_STS.STATE (R430). -/
abbrev F.TRL_LNK_STS_STATE : Fld := ⟨.trl, 0x0100, 63, 60⟩
/-- TRL_LNK_STS.CAUSE (R430). -/
abbrev F.TRL_LNK_STS_CAUSE : Fld := ⟨.trl, 0x0100, 59, 56⟩
/-- TRL_LNK_STS.REV (R430). -/
abbrev F.TRL_LNK_STS_REV : Fld := ⟨.trl, 0x0100, 55, 52⟩
/-- TRL_LNK_STS.LANES (R430). -/
abbrev F.TRL_LNK_STS_LANES : Fld := ⟨.trl, 0x0100, 51, 48⟩
/-- TRL_LNK_STS.PART (R430). -/
abbrev F.TRL_LNK_STS_PART : Fld := ⟨.trl, 0x0100, 37, 32⟩
/-- TRL_LNK_STS.DOWNS (R430). -/
abbrev F.TRL_LNK_STS_DOWNS : Fld := ⟨.trl, 0x0100, 31, 0⟩
/-- TRL_CFG.SNP_TMO (R430). -/
abbrev F.TRL_CFG_SNP_TMO : Fld := ⟨.trl, 0x0108, 63, 32⟩
/-- TRL_CFG.HOLDOFF (R430). -/
abbrev F.TRL_CFG_HOLDOFF : Fld := ⟨.trl, 0x0108, 15, 0⟩
/-- TRL_ERR.PROTO (R430). -/
abbrev F.TRL_ERR_PROTO : Fld := ⟨.trl, 0x0110, 63, 48⟩
/-- TRL_ERR.CRC (R430). -/
abbrev F.TRL_ERR_CRC : Fld := ⟨.trl, 0x0110, 47, 32⟩
/-- TRL_ERR.CORR (R430). -/
abbrev F.TRL_ERR_CORR : Fld := ⟨.trl, 0x0110, 31, 0⟩
/-- TRL_REPLAY.UNCORR (R430). -/
abbrev F.TRL_REPLAY_UNCORR : Fld := ⟨.trl, 0x0118, 63, 32⟩
/-- TRL_REPLAY.COUNT (R430). -/
abbrev F.TRL_REPLAY_COUNT : Fld := ⟨.trl, 0x0118, 31, 0⟩
/-- TRL_SNP.TMO (R430). -/
abbrev F.TRL_SNP_TMO : Fld := ⟨.trl, 0x0120, 63, 32⟩
/-- TRL_SNP.SENT (R430). -/
abbrev F.TRL_SNP_SENT : Fld := ⟨.trl, 0x0120, 31, 0⟩
/-- TRL_HLC.MISS (R430). -/
abbrev F.TRL_HLC_MISS : Fld := ⟨.trl, 0x0128, 63, 32⟩
/-- TRL_HLC.HIT (R430). -/
abbrev F.TRL_HLC_HIT : Fld := ⟨.trl, 0x0128, 31, 0⟩
/-- TRL_WIN_ERR.POISON (R430). -/
abbrev F.TRL_WIN_ERR_POISON : Fld := ⟨.trl, 0x0130, 63, 48⟩
/-- TRL_WIN_ERR.NOTRDY (R430). -/
abbrev F.TRL_WIN_ERR_NOTRDY : Fld := ⟨.trl, 0x0130, 47, 32⟩
/-- TRL_WIN_ERR.UNMAP (R430). -/
abbrev F.TRL_WIN_ERR_UNMAP : Fld := ⟨.trl, 0x0130, 31, 16⟩
/-- TRL_WIN_ERR.ALIGN (R430). -/
abbrev F.TRL_WIN_ERR_ALIGN : Fld := ⟨.trl, 0x0130, 15, 0⟩
/-- TRL_TPAGEk.VALID (R430). -/
abbrev F.TRL_TPAGE_VALID : Fld := ⟨.trl, 0x0140, 63, 63⟩
/-- TRL_TPAGEk.DIE (R430). -/
abbrev F.TRL_TPAGE_DIE : Fld := ⟨.trl, 0x0140, 7, 2⟩
/-- TRL_TPAGEk.PAGE (R430). -/
abbrev F.TRL_TPAGE_PAGE : Fld := ⟨.trl, 0x0140, 1, 0⟩
/-- TRL_RWINk.VALID (R430). -/
abbrev F.TRL_RWIN_VALID : Fld := ⟨.trl, 0x0200, 63, 63⟩
/-- TRL_RWINk.GRANULE (R430). -/
abbrev F.TRL_RWIN_GRANULE : Fld := ⟨.trl, 0x0200, 10, 0⟩
/-- TRL_EVTs.EN (R430). -/
abbrev F.TRL_EVT_EN : Fld := ⟨.trl, 0x0400, 63, 63⟩
/-- TRL_EVTs.MASK (R430). -/
abbrev F.TRL_EVT_MASK : Fld := ⟨.trl, 0x0400, 62, 62⟩
/-- TRL_EVTs.PEND (R430). -/
abbrev F.TRL_EVT_PEND : Fld := ⟨.trl, 0x0400, 61, 61⟩
/-- TRL_EVTs.VECTOR (R430). -/
abbrev F.TRL_EVT_VECTOR : Fld := ⟨.trl, 0x0400, 31, 0⟩
/-- DMA_CHc_RING.EN (R445). -/
abbrev F.DMA_CH_RING_EN : Fld := ⟨.dma, 0x0100, 63, 63⟩
/-- DMA_CHc_RING.ADDR (R445). -/
abbrev F.DMA_CH_RING_ADDR : Fld := ⟨.dma, 0x0100, 47, 6⟩
/-- DMA_CHc_RING.LOG2 (R445). -/
abbrev F.DMA_CH_RING_LOG2 : Fld := ⟨.dma, 0x0100, 5, 0⟩
/-- DMA_CHc_TAIL.TAIL (R445). -/
abbrev F.DMA_CH_TAIL_TAIL : Fld := ⟨.dma, 0x0108, 16, 0⟩
/-- DMA_CHc_HEAD.HEAD (R445). -/
abbrev F.DMA_CH_HEAD_HEAD : Fld := ⟨.dma, 0x0110, 16, 0⟩
/-- DMA_CHc_CFG.SHARE (R445). -/
abbrev F.DMA_CH_CFG_SHARE : Fld := ⟨.dma, 0x0118, 39, 32⟩
/-- DMA_CHc_CFG.BURST (R445). -/
abbrev F.DMA_CH_CFG_BURST : Fld := ⟨.dma, 0x0118, 25, 24⟩
/-- DMA_CHc_CFG.PORT (R445). -/
abbrev F.DMA_CH_CFG_PORT : Fld := ⟨.dma, 0x0118, 17, 16⟩
/-- DMA_CHc_CFG.HALT_ERR (R445). -/
abbrev F.DMA_CH_CFG_HALT_ERR : Fld := ⟨.dma, 0x0118, 1, 1⟩
/-- DMA_CHc_CFG.MODE (R445). -/
abbrev F.DMA_CH_CFG_MODE : Fld := ⟨.dma, 0x0118, 0, 0⟩
/-- DMA_CHc_STS.PART (R445). -/
abbrev F.DMA_CH_STS_PART : Fld := ⟨.dma, 0x0120, 37, 32⟩
/-- DMA_CHc_STS.LAST_ERR (R445). -/
abbrev F.DMA_CH_STS_LAST_ERR : Fld := ⟨.dma, 0x0120, 15, 8⟩
/-- DMA_CHc_STS.STATE (R445). -/
abbrev F.DMA_CH_STS_STATE : Fld := ⟨.dma, 0x0120, 2, 1⟩
/-- DMA_CHc_STS.BUSY (R445). -/
abbrev F.DMA_CH_STS_BUSY : Fld := ⟨.dma, 0x0120, 0, 0⟩
/-- DMA_CHc_ERR.USER (R445). -/
abbrev F.DMA_CH_ERR_USER : Fld := ⟨.dma, 0x0128, 63, 32⟩
/-- DMA_CHc_ERR.IDX (R445). -/
abbrev F.DMA_CH_ERR_IDX : Fld := ⟨.dma, 0x0128, 16, 0⟩
/-- DMA_CHc_CMD.OP (R445). -/
abbrev F.DMA_CH_CMD_OP : Fld := ⟨.dma, 0x0130, 1, 0⟩
/-- DMA_CHc_BYTES.BYTES (R445). -/
abbrev F.DMA_CH_BYTES_BYTES : Fld := ⟨.dma, 0x0138, 63, 0⟩
/-- DMA_CHc_DESC.ERRORS (R445). -/
abbrev F.DMA_CH_DESC_ERRORS : Fld := ⟨.dma, 0x0140, 63, 32⟩
/-- DMA_CHc_DESC.DONE (R445). -/
abbrev F.DMA_CH_DESC_DONE : Fld := ⟨.dma, 0x0140, 31, 0⟩
/-- KPR_STS.FW_MAJ (R466). -/
abbrev F.KPR_STS_FW_MAJ : Fld := ⟨.kpr, 0x0100, 63, 48⟩
/-- KPR_STS.FW_MIN (R466). -/
abbrev F.KPR_STS_FW_MIN : Fld := ⟨.kpr, 0x0100, 47, 32⟩
/-- KPR_STS.SLOT (R466). -/
abbrev F.KPR_STS_SLOT : Fld := ⟨.kpr, 0x0100, 3, 3⟩
/-- KPR_STS.STATE (R466). -/
abbrev F.KPR_STS_STATE : Fld := ⟨.kpr, 0x0100, 2, 0⟩
/-- KPR_POS.POS (R466). -/
abbrev F.KPR_POS_POS : Fld := ⟨.kpr, 0x0108, 31, 0⟩
/-- KPR_WDOG.BITES (R466). -/
abbrev F.KPR_WDOG_BITES : Fld := ⟨.kpr, 0x0110, 63, 32⟩
/-- KPR_WDOG.LIMIT (R466). -/
abbrev F.KPR_WDOG_LIMIT : Fld := ⟨.kpr, 0x0110, 15, 0⟩
/-- KPR_NVM.REMAP (R466). -/
abbrev F.KPR_NVM_REMAP : Fld := ⟨.kpr, 0x0118, 63, 32⟩
/-- KPR_NVM.SPARE (R466). -/
abbrev F.KPR_NVM_SPARE : Fld := ⟨.kpr, 0x0118, 31, 16⟩
/-- KPR_NVM.WORN (R466). -/
abbrev F.KPR_NVM_WORN : Fld := ⟨.kpr, 0x0118, 0, 0⟩
/-- KPR_LOG.SEQ (R466). -/
abbrev F.KPR_LOG_SEQ : Fld := ⟨.kpr, 0x0120, 63, 32⟩
/-- KPR_LOG.DROPPED (R466). -/
abbrev F.KPR_LOG_DROPPED : Fld := ⟨.kpr, 0x0120, 31, 16⟩
/-- KPR_MBX_CMD.OBJ (R466). -/
abbrev F.KPR_MBX_CMD_OBJ : Fld := ⟨.kpr, 0x0200, 63, 48⟩
/-- KPR_MBX_CMD.SEQ (R466). -/
abbrev F.KPR_MBX_CMD_SEQ : Fld := ⟨.kpr, 0x0200, 47, 32⟩
/-- KPR_MBX_CMD.OP (R466). -/
abbrev F.KPR_MBX_CMD_OP : Fld := ⟨.kpr, 0x0200, 3, 1⟩
/-- KPR_MBX_CMD.GO (R466). -/
abbrev F.KPR_MBX_CMD_GO : Fld := ⟨.kpr, 0x0200, 0, 0⟩
/-- KPR_MBX_ARG.OFFSET (R466). -/
abbrev F.KPR_MBX_ARG_OFFSET : Fld := ⟨.kpr, 0x0208, 63, 32⟩
/-- KPR_MBX_ARG.LEN (R466). -/
abbrev F.KPR_MBX_ARG_LEN : Fld := ⟨.kpr, 0x0208, 12, 0⟩
/-- KPR_MBX_STS.SEQ (R466). -/
abbrev F.KPR_MBX_STS_SEQ : Fld := ⟨.kpr, 0x0210, 63, 48⟩
/-- KPR_MBX_STS.LEN (R466). -/
abbrev F.KPR_MBX_STS_LEN : Fld := ⟨.kpr, 0x0210, 47, 32⟩
/-- KPR_MBX_STS.CODE (R466). -/
abbrev F.KPR_MBX_STS_CODE : Fld := ⟨.kpr, 0x0210, 31, 24⟩
/-- KPR_MBX_STS.LOST (R466). -/
abbrev F.KPR_MBX_STS_LOST : Fld := ⟨.kpr, 0x0210, 1, 1⟩
/-- KPR_MBX_STS.BUSY (R466). -/
abbrev F.KPR_MBX_STS_BUSY : Fld := ⟨.kpr, 0x0210, 0, 0⟩
/-- KPR_I3C.EID (R466). -/
abbrev F.KPR_I3C_EID : Fld := ⟨.kpr, 0x0300, 23, 16⟩
/-- KPR_I3C.DYN (R466). -/
abbrev F.KPR_I3C_DYN : Fld := ⟨.kpr, 0x0300, 15, 8⟩
/-- KPR_I3C.STATIC (R466). -/
abbrev F.KPR_I3C_STATIC : Fld := ⟨.kpr, 0x0300, 6, 0⟩
/-- KPR_MBX_BUF.DATA (R466). -/
abbrev F.KPR_MBX_BUF_DATA : Fld := ⟨.kpr, 0x1000, 63, 0⟩
/-- MON_CTL.INJ_SW (R467). -/
abbrev F.MON_CTL_INJ_SW : Fld := ⟨.mon, 0x0100, 1, 1⟩
/-- MON_CTL.EN (R467). -/
abbrev F.MON_CTL_EN : Fld := ⟨.mon, 0x0100, 0, 0⟩
/-- MON_CFG.SUPSEL (R467). -/
abbrev F.MON_CFG_SUPSEL : Fld := ⟨.mon, 0x0108, 20, 16⟩
/-- MON_CFG.INT (R467). -/
abbrev F.MON_CFG_INT : Fld := ⟨.mon, 0x0108, 9, 8⟩
/-- MON_CFG.NCYC (R467). -/
abbrev F.MON_CFG_NCYC : Fld := ⟨.mon, 0x0108, 7, 4⟩
/-- MON_CFG.MODE (R467). -/
abbrev F.MON_CFG_MODE : Fld := ⟨.mon, 0x0108, 0, 0⟩
/-- MON_STS.ABORTS (R467). -/
abbrev F.MON_STS_ABORTS : Fld := ⟨.mon, 0x0110, 63, 48⟩
/-- MON_STS.CFG_LOST (R467). -/
abbrev F.MON_STS_CFG_LOST : Fld := ⟨.mon, 0x0110, 47, 32⟩
/-- MON_STS.CH (R467). -/
abbrev F.MON_STS_CH : Fld := ⟨.mon, 0x0110, 20, 16⟩
/-- MON_STS.INJ (R467). -/
abbrev F.MON_STS_INJ : Fld := ⟨.mon, 0x0110, 7, 7⟩
/-- MON_STS.PD (R467). -/
abbrev F.MON_STS_PD : Fld := ⟨.mon, 0x0110, 6, 6⟩
/-- MON_STS.START (R467). -/
abbrev F.MON_STS_START : Fld := ⟨.mon, 0x0110, 5, 5⟩
/-- MON_STS.POSN (R467). -/
abbrev F.MON_STS_POSN : Fld := ⟨.mon, 0x0110, 4, 0⟩
/-- MON_LEN.TBL (R467). -/
abbrev F.MON_LEN_TBL : Fld := ⟨.mon, 0x0118, 15, 10⟩
/-- MON_LEN.REG (R467). -/
abbrev F.MON_LEN_REG : Fld := ⟨.mon, 0x0118, 9, 5⟩
/-- MON_LEN.INJ (R467). -/
abbrev F.MON_LEN_INJ : Fld := ⟨.mon, 0x0118, 4, 2⟩
/-- MON_INJ.OVERCUR (R467). -/
abbrev F.MON_INJ_OVERCUR : Fld := ⟨.mon, 0x0120, 1, 1⟩
/-- MON_INJ.THERMAL (R467). -/
abbrev F.MON_INJ_THERMAL : Fld := ⟨.mon, 0x0120, 0, 0⟩
/-- MON_TBLe.DELAY (R467). -/
abbrev F.MON_TBL_DELAY : Fld := ⟨.mon, 0x0200, 31, 16⟩
/-- MON_TBLe.REP (R467). -/
abbrev F.MON_TBL_REP : Fld := ⟨.mon, 0x0200, 12, 8⟩
/-- MON_TBLe.CH (R467). -/
abbrev F.MON_TBL_CH : Fld := ⟨.mon, 0x0200, 4, 0⟩
/-- MON_REG0.CH (R467). -/
abbrev F.MON_REG_CH : Fld := ⟨.mon, 0x0300, 63, 0⟩
/-- MON_INJL.CH (R467). -/
abbrev F.MON_INJL_CH : Fld := ⟨.mon, 0x0310, 31, 0⟩
/-- MON_RESc.VALID (R467). -/
abbrev F.MON_RES_VALID : Fld := ⟨.mon, 0x0400, 63, 63⟩
/-- MON_RESc.SAT (R467). -/
abbrev F.MON_RES_SAT : Fld := ⟨.mon, 0x0400, 62, 62⟩
/-- MON_RESc.COUNT (R467). -/
abbrev F.MON_RES_COUNT : Fld := ⟨.mon, 0x0400, 55, 32⟩
/-- MON_RESc.RESULT (R467). -/
abbrev F.MON_RES_RESULT : Fld := ⟨.mon, 0x0400, 23, 0⟩
/-- MON_FIFO.VALID (R467). -/
abbrev F.MON_FIFO_VALID : Fld := ⟨.mon, 0x0500, 63, 63⟩
/-- MON_FIFO.INJ (R467). -/
abbrev F.MON_FIFO_INJ : Fld := ⟨.mon, 0x0500, 62, 62⟩
/-- MON_FIFO.SAT (R467). -/
abbrev F.MON_FIFO_SAT : Fld := ⟨.mon, 0x0500, 61, 61⟩
/-- MON_FIFO.CH (R467). -/
abbrev F.MON_FIFO_CH : Fld := ⟨.mon, 0x0500, 52, 48⟩
/-- MON_FIFO.COUNT (R467). -/
abbrev F.MON_FIFO_COUNT : Fld := ⟨.mon, 0x0500, 47, 24⟩
/-- MON_FIFO.RESULT (R467). -/
abbrev F.MON_FIFO_RESULT : Fld := ⟨.mon, 0x0500, 23, 0⟩
/-- MON_FIFO_STS.DROPPED (R467). -/
abbrev F.MON_FIFO_STS_DROPPED : Fld := ⟨.mon, 0x0508, 63, 32⟩
/-- MON_FIFO_STS.LEVEL (R467). -/
abbrev F.MON_FIFO_STS_LEVEL : Fld := ⟨.mon, 0x0508, 6, 0⟩
/-- MON_LIMk.EN (R467). -/
abbrev F.MON_LIM_EN : Fld := ⟨.mon, 0x0600, 63, 63⟩
/-- MON_LIMk.CH (R467). -/
abbrev F.MON_LIM_CH : Fld := ⟨.mon, 0x0600, 52, 48⟩
/-- MON_LIMk.HI (R467). -/
abbrev F.MON_LIM_HI : Fld := ⟨.mon, 0x0600, 47, 24⟩
/-- MON_LIMk.LO (R467). -/
abbrev F.MON_LIM_LO : Fld := ⟨.mon, 0x0600, 23, 0⟩
/-- MON_LIM_STS.HIT (R467). -/
abbrev F.MON_LIM_STS_HIT : Fld := ⟨.mon, 0x0640, 7, 0⟩
/-- THM_CFG.THROT (R486). -/
abbrev F.THM_CFG_THROT : Fld := ⟨.thm, 0x0100, 39, 32⟩
/-- THM_CFG.RESUME (R486). -/
abbrev F.THM_CFG_RESUME : Fld := ⟨.thm, 0x0100, 31, 24⟩
/-- THM_CFG.FLOOR (R486). -/
abbrev F.THM_CFG_FLOOR : Fld := ⟨.thm, 0x0100, 23, 16⟩
/-- THM_CFG.K (R486). -/
abbrev F.THM_CFG_K : Fld := ⟨.thm, 0x0100, 15, 8⟩
/-- THM_CFG.NEAR (R486). -/
abbrev F.THM_CFG_NEAR : Fld := ⟨.thm, 0x0100, 7, 0⟩
/-- THM_STS.CUT (R486). -/
abbrev F.THM_STS_CUT : Fld := ⟨.thm, 0x0108, 63, 63⟩
/-- THM_STS.STOP (R486). -/
abbrev F.THM_STS_STOP : Fld := ⟨.thm, 0x0108, 62, 62⟩
/-- THM_STS.SRC_UNIT (R486). -/
abbrev F.THM_STS_SRC_UNIT : Fld := ⟨.thm, 0x0108, 55, 48⟩
/-- THM_STS.SRC_SNS (R486). -/
abbrev F.THM_STS_SRC_SNS : Fld := ⟨.thm, 0x0108, 47, 44⟩
/-- THM_STS.TMAX (R486). -/
abbrev F.THM_STS_TMAX : Fld := ⟨.thm, 0x0108, 31, 16⟩
/-- THM_STS.NTHROT (R486). -/
abbrev F.THM_STS_NTHROT : Fld := ⟨.thm, 0x0108, 5, 0⟩
/-- THM_SNS_SEL.UNIT (R486). -/
abbrev F.THM_SNS_SEL_UNIT : Fld := ⟨.thm, 0x0110, 13, 8⟩
/-- THM_SNS_SEL.SNS (R486). -/
abbrev F.THM_SNS_SEL_SNS : Fld := ⟨.thm, 0x0110, 3, 0⟩
/-- THM_SNS.FAULTY (R486). -/
abbrev F.THM_SNS_FAULTY : Fld := ⟨.thm, 0x0118, 63, 63⟩
/-- THM_SNS.FAST (R486). -/
abbrev F.THM_SNS_FAST : Fld := ⟨.thm, 0x0118, 62, 62⟩
/-- THM_SNS.T (R486). -/
abbrev F.THM_SNS_T : Fld := ⟨.thm, 0x0118, 15, 0⟩
/-- THM_CNT.NEAR (R486). -/
abbrev F.THM_CNT_NEAR : Fld := ⟨.thm, 0x0120, 63, 32⟩
/-- THM_CNT.STOPS (R486). -/
abbrev F.THM_CNT_STOPS : Fld := ⟨.thm, 0x0120, 31, 16⟩
/-- THM_CNT.CUTS (R486). -/
abbrev F.THM_CNT_CUTS : Fld := ⟨.thm, 0x0120, 15, 0⟩
/-- THM_DIEd.TMAX (R486). -/
abbrev F.THM_DIE_TMAX : Fld := ⟨.thm, 0x0200, 47, 32⟩
/-- THM_DIEd.SNS (R486). -/
abbrev F.THM_DIE_SNS : Fld := ⟨.thm, 0x0200, 31, 28⟩
/-- THM_DIEd.FACTOR (R486). -/
abbrev F.THM_DIE_FACTOR : Fld := ⟨.thm, 0x0200, 8, 0⟩
/-- THM_STKn.T (R486). -/
abbrev F.THM_STK_T : Fld := ⟨.thm, 0x0300, 15, 0⟩
/-- PWR_STATE.CODE (R487). -/
abbrev F.PWR_STATE_CODE : Fld := ⟨.pwr, 0x0100, 39, 32⟩
/-- PWR_STATE.TARGET (R487). -/
abbrev F.PWR_STATE_TARGET : Fld := ⟨.pwr, 0x0100, 11, 8⟩
/-- PWR_STATE.STATE (R487). -/
abbrev F.PWR_STATE_STATE : Fld := ⟨.pwr, 0x0100, 3, 1⟩
/-- PWR_STATE.BUSY (R487). -/
abbrev F.PWR_STATE_BUSY : Fld := ⟨.pwr, 0x0100, 0, 0⟩
/-- PWR_CMD.DRAIN (R487). -/
abbrev F.PWR_CMD_DRAIN : Fld := ⟨.pwr, 0x0108, 63, 48⟩
/-- PWR_CMD.REQ (R487). -/
abbrev F.PWR_CMD_REQ : Fld := ⟨.pwr, 0x0108, 3, 1⟩
/-- PWR_CMD.GO (R487). -/
abbrev F.PWR_CMD_GO : Fld := ⟨.pwr, 0x0108, 0, 0⟩
/-- PWR_BUDGET.CAP (R487). -/
abbrev F.PWR_BUDGET_CAP : Fld := ⟨.pwr, 0x0110, 47, 32⟩
/-- PWR_BUDGET.BUDGET (R487). -/
abbrev F.PWR_BUDGET_BUDGET : Fld := ⟨.pwr, 0x0110, 15, 0⟩
/-- PWR_OC.TRIPS (R487). -/
abbrev F.PWR_OC_TRIPS : Fld := ⟨.pwr, 0x0118, 63, 32⟩
/-- PWR_OC.HOLD (R487). -/
abbrev F.PWR_OC_HOLD : Fld := ⟨.pwr, 0x0118, 31, 16⟩
/-- PWR_OC.LIMIT (R487). -/
abbrev F.PWR_OC_LIMIT : Fld := ⟨.pwr, 0x0118, 15, 0⟩
/-- PWR_IN.P (R487). -/
abbrev F.PWR_IN_P : Fld := ⟨.pwr, 0x0120, 47, 32⟩
/-- PWR_IN.I (R487). -/
abbrev F.PWR_IN_I : Fld := ⟨.pwr, 0x0120, 31, 16⟩
/-- PWR_IN.V (R487). -/
abbrev F.PWR_IN_V : Fld := ⟨.pwr, 0x0120, 15, 0⟩
/-- PWR_P1.TIME (R487). -/
abbrev F.PWR_P1_TIME : Fld := ⟨.pwr, 0x0128, 63, 32⟩
/-- PWR_P1.OC (R487). -/
abbrev F.PWR_P1_OC : Fld := ⟨.pwr, 0x0128, 2, 2⟩
/-- PWR_P1.PIN (R487). -/
abbrev F.PWR_P1_PIN : Fld := ⟨.pwr, 0x0128, 1, 1⟩
/-- PWR_P1.HOST (R487). -/
abbrev F.PWR_P1_HOST : Fld := ⟨.pwr, 0x0128, 0, 0⟩
/-- PWR_DIEd.USED (R487). -/
abbrev F.PWR_DIE_USED : Fld := ⟨.pwr, 0x0200, 47, 32⟩
/-- PWR_DIEd.EFF (R487). -/
abbrev F.PWR_DIE_EFF : Fld := ⟨.pwr, 0x0200, 31, 16⟩
/-- PWR_DIEd.ALLOT (R487). -/
abbrev F.PWR_DIE_ALLOT : Fld := ⟨.pwr, 0x0200, 15, 0⟩
/-- SEC_STS.OWNER (R508). -/
abbrev F.SEC_STS_OWNER : Fld := ⟨.sec, 0x0100, 33, 33⟩
/-- SEC_STS.BOOT_DONE (R508). -/
abbrev F.SEC_STS_BOOT_DONE : Fld := ⟨.sec, 0x0100, 32, 32⟩
/-- SEC_STS.DBG_PORT (R508). -/
abbrev F.SEC_STS_DBG_PORT : Fld := ⟨.sec, 0x0100, 25, 24⟩
/-- SEC_STS.DBG_PART (R508). -/
abbrev F.SEC_STS_DBG_PART : Fld := ⟨.sec, 0x0100, 21, 16⟩
/-- SEC_STS.SCOPE (R508). -/
abbrev F.SEC_STS_SCOPE : Fld := ⟨.sec, 0x0100, 13, 12⟩
/-- SEC_STS.DEBUG (R508). -/
abbrev F.SEC_STS_DEBUG : Fld := ⟨.sec, 0x0100, 9, 8⟩
/-- SEC_STS.ID_FAIL (R508). -/
abbrev F.SEC_STS_ID_FAIL : Fld := ⟨.sec, 0x0100, 7, 7⟩
/-- SEC_STS.STORED (R508). -/
abbrev F.SEC_STS_STORED : Fld := ⟨.sec, 0x0100, 6, 4⟩
/-- SEC_STS.STATE (R508). -/
abbrev F.SEC_STS_STATE : Fld := ⟨.sec, 0x0100, 2, 0⟩
/-- SEC_ID0–3.ID (R508). -/
abbrev F.SEC_ID_ID : Fld := ⟨.sec, 0x0108, 63, 0⟩
/-- SEC_MEAS_SEL.INDEX (R508). -/
abbrev F.SEC_MEAS_SEL_INDEX : Fld := ⟨.sec, 0x0128, 1, 0⟩
/-- SEC_MEAS0–3.DIGEST (R508). -/
abbrev F.SEC_MEAS_DIGEST : Fld := ⟨.sec, 0x0130, 63, 0⟩
/-- SEC_ARB.FW (R508). -/
abbrev F.SEC_ARB_FW : Fld := ⟨.sec, 0x0150, 31, 0⟩
/-- SEC_DBG_NONCE0–3.NONCE (R508). -/
abbrev F.SEC_DBG_NONCE_NONCE : Fld := ⟨.sec, 0x0158, 63, 0⟩
/-- SEC_DBG_ADDR.ADDR (R508). -/
abbrev F.SEC_DBG_ADDR_ADDR : Fld := ⟨.sec, 0x0178, 47, 6⟩
/-- SEC_DBG_CMD.OP (R508). -/
abbrev F.SEC_DBG_CMD_OP : Fld := ⟨.sec, 0x0180, 3, 1⟩
/-- SEC_DBG_CMD.GO (R508). -/
abbrev F.SEC_DBG_CMD_GO : Fld := ⟨.sec, 0x0180, 0, 0⟩
/-- SEC_DBG_STS.LEFT (R508). -/
abbrev F.SEC_DBG_STS_LEFT : Fld := ⟨.sec, 0x0188, 63, 32⟩
/-- SEC_DBG_STS.CODE (R508). -/
abbrev F.SEC_DBG_STS_CODE : Fld := ⟨.sec, 0x0188, 15, 8⟩
/-- SEC_DBG_STS.LOST (R508). -/
abbrev F.SEC_DBG_STS_LOST : Fld := ⟨.sec, 0x0188, 1, 1⟩
/-- SEC_DBG_STS.BUSY (R508). -/
abbrev F.SEC_DBG_STS_BUSY : Fld := ⟨.sec, 0x0188, 0, 0⟩
/-- SEC_ATT_ADDR.ADDR (R508). -/
abbrev F.SEC_ATT_ADDR_ADDR : Fld := ⟨.sec, 0x0190, 47, 6⟩
/-- SEC_ATT_CMD.GO (R508). -/
abbrev F.SEC_ATT_CMD_GO : Fld := ⟨.sec, 0x0198, 0, 0⟩
/-- SEC_ATT_STS.CODE (R508). -/
abbrev F.SEC_ATT_STS_CODE : Fld := ⟨.sec, 0x01A0, 15, 8⟩
/-- SEC_ATT_STS.LOST (R508). -/
abbrev F.SEC_ATT_STS_LOST : Fld := ⟨.sec, 0x01A0, 1, 1⟩
/-- SEC_ATT_STS.BUSY (R508). -/
abbrev F.SEC_ATT_STS_BUSY : Fld := ⟨.sec, 0x01A0, 0, 0⟩
/-- SEC_STAGE_ADDR.ADDR (R508). -/
abbrev F.SEC_STAGE_ADDR_ADDR : Fld := ⟨.sec, 0x01A8, 47, 6⟩
/-- SEC_STAGE_CMD.KIND (R508). -/
abbrev F.SEC_STAGE_CMD_KIND : Fld := ⟨.sec, 0x01B0, 3, 1⟩
/-- SEC_STAGE_CMD.GO (R508). -/
abbrev F.SEC_STAGE_CMD_GO : Fld := ⟨.sec, 0x01B0, 0, 0⟩
/-- SEC_STAGE_STS.PTAB_SEQ (R508). -/
abbrev F.SEC_STAGE_STS_PTAB_SEQ : Fld := ⟨.sec, 0x01B8, 63, 32⟩
/-- SEC_STAGE_STS.BOOT_CODE (R508). -/
abbrev F.SEC_STAGE_STS_BOOT_CODE : Fld := ⟨.sec, 0x01B8, 31, 24⟩
/-- SEC_STAGE_STS.CODE (R508). -/
abbrev F.SEC_STAGE_STS_CODE : Fld := ⟨.sec, 0x01B8, 23, 16⟩
/-- SEC_STAGE_STS.CFG (R508). -/
abbrev F.SEC_STAGE_STS_CFG : Fld := ⟨.sec, 0x01B8, 5, 5⟩
/-- SEC_STAGE_STS.PTAB (R508). -/
abbrev F.SEC_STAGE_STS_PTAB : Fld := ⟨.sec, 0x01B8, 4, 4⟩
/-- SEC_STAGE_STS.LOST (R508). -/
abbrev F.SEC_STAGE_STS_LOST : Fld := ⟨.sec, 0x01B8, 1, 1⟩
/-- SEC_STAGE_STS.BUSY (R508). -/
abbrev F.SEC_STAGE_STS_BUSY : Fld := ⟨.sec, 0x01B8, 0, 0⟩
/-- SEC_VIOL.COUNT (R508). -/
abbrev F.SEC_VIOL_COUNT : Fld := ⟨.sec, 0x01C0, 63, 32⟩
/-- SEC_VIOL.PART (R508). -/
abbrev F.SEC_VIOL_PART : Fld := ⟨.sec, 0x01C0, 21, 16⟩
/-- SEC_VIOL.TYPE (R508). -/
abbrev F.SEC_VIOL_TYPE : Fld := ⟨.sec, 0x01C0, 15, 0⟩
/-- UPD_STS.CODE (R520). -/
abbrev F.UPD_STS_CODE : Fld := ⟨.upd, 0x0100, 63, 56⟩
/-- UPD_STS.RCVD (R520). -/
abbrev F.UPD_STS_RCVD : Fld := ⟨.upd, 0x0100, 55, 48⟩
/-- UPD_STS.N_BLK (R520). -/
abbrev F.UPD_STS_N_BLK : Fld := ⟨.upd, 0x0100, 47, 40⟩
/-- UPD_STS.SRC (R520). -/
abbrev F.UPD_STS_SRC : Fld := ⟨.upd, 0x0100, 7, 7⟩
/-- UPD_STS.STATE (R520). -/
abbrev F.UPD_STS_STATE : Fld := ⟨.upd, 0x0100, 6, 4⟩
/-- UPD_STS.LOST (R520). -/
abbrev F.UPD_STS_LOST : Fld := ⟨.upd, 0x0100, 1, 1⟩
/-- UPD_STS.BUSY (R520). -/
abbrev F.UPD_STS_BUSY : Fld := ⟨.upd, 0x0100, 0, 0⟩
/-- UPD_SLOTs.SVN (R520). -/
abbrev F.UPD_SLOT_SVN : Fld := ⟨.upd, 0x0108, 63, 32⟩
/-- UPD_SLOTs.FW_MAJ (R520). -/
abbrev F.UPD_SLOT_FW_MAJ : Fld := ⟨.upd, 0x0108, 31, 16⟩
/-- UPD_SLOTs.FW_MIN (R520). -/
abbrev F.UPD_SLOT_FW_MIN : Fld := ⟨.upd, 0x0108, 15, 0⟩
/-- UPD_BOOT.RECOVER (R520). -/
abbrev F.UPD_BOOT_RECOVER : Fld := ⟨.upd, 0x0118, 7, 7⟩
/-- UPD_BOOT.FALLBACK (R520). -/
abbrev F.UPD_BOOT_FALLBACK : Fld := ⟨.upd, 0x0118, 6, 6⟩
/-- UPD_BOOT.NEXT (R520). -/
abbrev F.UPD_BOOT_NEXT : Fld := ⟨.upd, 0x0118, 3, 3⟩
/-- UPD_BOOT.VALID_B (R520). -/
abbrev F.UPD_BOOT_VALID_B : Fld := ⟨.upd, 0x0118, 1, 1⟩
/-- UPD_BOOT.VALID_A (R520). -/
abbrev F.UPD_BOOT_VALID_A : Fld := ⟨.upd, 0x0118, 0, 0⟩
/-- UPD_CFG.CONFIRM_S (R520). -/
abbrev F.UPD_CFG_CONFIRM_S : Fld := ⟨.upd, 0x0120, 63, 32⟩
/-- UPD_ARG.OFFSET (R520). -/
abbrev F.UPD_ARG_OFFSET : Fld := ⟨.upd, 0x0128, 63, 32⟩
/-- UPD_ARG.LEN (R520). -/
abbrev F.UPD_ARG_LEN : Fld := ⟨.upd, 0x0128, 12, 0⟩
/-- UPD_CMD.OP (R520). -/
abbrev F.UPD_CMD_OP : Fld := ⟨.upd, 0x0130, 3, 1⟩
/-- UPD_CMD.GO (R520). -/
abbrev F.UPD_CMD_GO : Fld := ⟨.upd, 0x0130, 0, 0⟩
/-- UPD_CNT.BAD_BLK (R520). -/
abbrev F.UPD_CNT_BAD_BLK : Fld := ⟨.upd, 0x0138, 63, 32⟩
/-- UPD_CNT.ACTIVATIONS (R520). -/
abbrev F.UPD_CNT_ACTIVATIONS : Fld := ⟨.upd, 0x0138, 31, 16⟩
/-- UPD_CNT.RESUMES (R520). -/
abbrev F.UPD_CNT_RESUMES : Fld := ⟨.upd, 0x0138, 15, 0⟩
/-- UPD_BUF.DATA (R520). -/
abbrev F.UPD_BUF_DATA : Fld := ⟨.upd, 0x1000, 63, 0⟩
/-- KPR_RST.KEY (R533). -/
abbrev F.KPR_RST_KEY : Fld := ⟨.kpr, 0x0400, 15, 8⟩
/-- KPR_RST.OP (R533). -/
abbrev F.KPR_RST_OP : Fld := ⟨.kpr, 0x0400, 1, 0⟩
/-- KPR_BOOT.READY_MS (R533). -/
abbrev F.KPR_BOOT_READY_MS : Fld := ⟨.kpr, 0x0408, 63, 32⟩
/-- KPR_BOOT.CAUSE (R533). -/
abbrev F.KPR_BOOT_CAUSE : Fld := ⟨.kpr, 0x0408, 31, 24⟩
/-- KPR_BOOT.CODE (R533). -/
abbrev F.KPR_BOOT_CODE : Fld := ⟨.kpr, 0x0408, 23, 16⟩
/-- KPR_BOOT.AUTOWAKE (R533). -/
abbrev F.KPR_BOOT_AUTOWAKE : Fld := ⟨.kpr, 0x0408, 8, 8⟩
/-- KPR_BOOT.STAGE (R533). -/
abbrev F.KPR_BOOT_STAGE : Fld := ⟨.kpr, 0x0408, 3, 0⟩
/-- KPR_BOOT_CNT.RETAINED (R533). -/
abbrev F.KPR_BOOT_CNT_RETAINED : Fld := ⟨.kpr, 0x0410, 63, 32⟩
/-- KPR_BOOT_CNT.UNUSABLE (R533). -/
abbrev F.KPR_BOOT_CNT_UNUSABLE : Fld := ⟨.kpr, 0x0410, 31, 0⟩
/-- SCH_PRST.BUSY (R533). -/
abbrev F.SCH_PRST_BUSY : Fld := ⟨.sch, 0x0400, 1, 1⟩
/-- SCH_PRST.GO (R533). -/
abbrev F.SCH_PRST_GO : Fld := ⟨.sch, 0x0400, 0, 0⟩

end Sys2Proof.Machine
end

