-- ==== Sys2Proof/Machine/SMap.lean ====
section
/-!
DEFINITION. Sparse maps from natural numbers: a list of (key, value) pairs with keys strictly rising and no entry
equal to what an unlisted key reads as. Registers, memory, tiles and passages are held in this one form.
-/
namespace Sys2Proof.Machine

/-- A sparse map: keys strictly rising, no value equal to the default of its key. -/
abbrev SMap (β : Type) := List (Nat × β)

/-- What key k reads as: its listed value, else its default. -/
def SMap.get {β : Type} (dflt : Nat → β) : SMap β → Nat → β
  | [], k => dflt k
  | (j, v) :: r, k => if k = j then v else if k < j then dflt k else SMap.get dflt r k

/-- Write v at key k; writing the default of k removes every entry for it. -/
def SMap.set {β : Type} [DecidableEq β] (dflt : Nat → β) : SMap β → Nat → β → SMap β
  | [], k, v => if v = dflt k then [] else [(k, v)]
  | (j, w) :: r, k, v =>
    if k = j then (if v = dflt k then r.filter (fun x => x.1 != k) else (k, v) :: r)
    else if k < j then (if v = dflt k then (j, w) :: r else (k, v) :: (j, w) :: r)
    else (j, w) :: SMap.set dflt r k v

/-- The canonical form, as a check: every key above `lo`, rising, and no default value listed. -/
def SMap.wfFrom {β : Type} [DecidableEq β] (dflt : Nat → β) : Nat → SMap β → Bool
  | _, [] => true
  | lo, (k, v) :: r => decide (lo ≤ k) && decide (v ≠ dflt k) && SMap.wfFrom dflt (k + 1) r

/-- The canonical form. -/
def SMap.wf {β : Type} [DecidableEq β] (dflt : Nat → β) (m : SMap β) : Bool := SMap.wfFrom dflt 0 m

/-- The listed keys. -/
def SMap.keys {β : Type} (m : SMap β) : List Nat := m.map Prod.fst

end Sys2Proof.Machine
end

