-- ==== Sys2Proof/Machine/State.lean ====
section
/-!
DEFINITION. The state of the BW3212 as plain data: every register, memory, queue, table and record the manual gives
the part, the commands waiting, and what the part has sent out on its links and lands. `State.reset` is the part
right after power-on reset.
-/
namespace Sys2Proof.Machine

/-- The conditions that stop the model. -/
inductive Fault where
  /-- Raised by no command: the part reports its errors in registers, records and passage states, and goes on.
  Safe: nothing reaches it. -/
  | none
  deriving DecidableEq, Repr

/-- Why a command has no meaning in the model. -/
inductive Refusal where
  /-- Raised by the dispatch arm of a row that has no meaning yet. Safe: the model stops. -/
  | notModelled (mnemonic : String)
  deriving DecidableEq, Repr

/-- A recipe entry's fields (R160). -/
structure Recipe where
  version : Nat
  inFmt : Nat
  outFmt : Nat
  expMode : Nat
  rqRnd : Nat
  accRnd : Nat
  redRnd : Nat
  alignExt : Nat
  ovfPol : Nat
  tierSub : Bool
  outMax : Nat
  pasUnder : Nat
  pasSat : Nat
  stgUnder : Nat
  stgSat : Nat
  capFactor : Nat
  capPol : Nat
  exitThr : Nat
  deriving DecidableEq, Repr

/-- The recipe a die holds before any image gives it one: every field 0. -/
def Recipe.zero : Recipe := ⟨0, 0, 0, 0, 0, 0, 0, 0, 0, false, 0, 0, 0, 0, 0, 0, 0, 0⟩

/-- An input segment that has arrived at a tile for an item not yet dispatched to it (R104, R107): which of the two of its drive buffer,
its passage once the tile has reported it (R225), the drive buffer it stands in, or none while no buffer is free, and its bytes
with its outlier list. -/
structure TileIn where
  half : Nat
  idx : Option Nat
  buf : Option Nat
  seg : List Byte
  list : List Byte
  deriving DecidableEq, Repr

/-- A work item: one passage step at one stage replica (R225), with what travels with it (R206, R108). -/
structure WorkItem where
  handle : Word32
  stage : Nat
  rep : Nat
  arr : Nat
  retry : Bool
  seg2 : Bool
  spills : Bool
  mile : Word
  buf : Nat
  step : Nat
  epoch : Nat
  part : Nat
  job : Nat
  rcp : Recipe
  rng : Nat
  wx : Nat
  seed : Word32
  destRep : Nat
  gate : Option Nat
  nPsum : Nat
  /-- The tile a second opinion was moved from (R321). -/
  moved : Option TileId
  /-- Its input while no drive buffer of its tile is free for it (R107). -/
  input : Option (List TileIn)
  deriving DecidableEq, Repr

/-- An MVM or outlier pass issued on an array (R80, R118): planes, alignment, scale and drive values. -/
structure MvmOp where
  buf : Nat
  planes : Nat
  ext : Nat
  ea : Int
  drives : List Int
  pconv : Nat
  nrow : Nat
  skipped : Bool
  y2 : Bool
  /-- An outlier pass. -/
  pass : Bool
  deriving DecidableEq, Repr

/-- The reconstructed columns of an MVM or pass (R77) and the scale F its products take (R112). -/
structure ArrRes where
  cols : List Int
  f : Int
  deriving DecidableEq, Repr

/-- A SEND or PSUM being injected (R107): the output buffer or bank it reads and the route entry. -/
structure Inj where
  psum : Bool
  src : Nat
  route : Word32
  job : Nat
  destRep : Nat
  blks : List AccBlk
  bytes : List Byte
  deriving DecidableEq, Repr

/-- What a tile holds of a hard event until its die's checker decides (R320): a_s, or the unit of a residue event. -/
structure HardEvt where
  cols : List Int
  drives : List Int
  residue : Bool
  unit : Word32
  opass : Bool
  halves : Nat
  delta : Nat
  planes : Nat
  rng : Nat
  item : WorkItem
  /-- Its drive buffer: the input that moves with the item. -/
  input : List Byte
  /-- 0 waiting for a second opinion, 1 a replica has it, 2 the tier engine has it, 3 the tier engine has it after a replica,
  4 the tier engine could not read the shadow (R336). -/
  phase : Nat
  deriving DecidableEq, Repr

/-- A sequencer with its accumulators and queues (R104–R111): a tile's, or a tier engine context's. -/
structure Core where
  sregs : List Word32
  pc : Nat
  /-- 0 IDLE, 1 RUN, 2 WAIT, 3 FAULT (R127). -/
  st : Nat
  cause : Nat
  item : Option WorkItem
  queue : List WorkItem
  second : Option WorkItem
  secondQ : List WorkItem
  /-- Events of R107 requested for the current work item, and those that have occurred. -/
  req : BitVec 6
  ev : BitVec 6
  gen : Word
  drawn : Nat
  bank0 : List AccBlk
  bank1 : List AccBlk
  mvm : Option MvmOp
  opass : Option MvmOp
  mvmRes : Option ArrRes
  opRes : Option ArrRes
  /-- Partial sums received for the item at hand or a queued one, with their passage handle, in arrival order. -/
  psums : List (Word32 × List AccBlk)
  /-- How many of the item's partial sums have been added. -/
  psumAdded : Nat
  inj : List Inj
  gainErr : Bool
  spillBad : Bool
  spilled : Bool
  hard : List HardEvt
  /-- The stage, replica and logical array the tile is bound to. -/
  bound : Option (Nat × Nat × Nat)
  /-- R335, R320: the state a test run returns the array to. -/
  testRet : Option Nat
  /-- The outstanding pass was issued before the outstanding MVM (R109: the array runs its operations in issue order). -/
  passFirst : Bool
  /-- The drive buffers the item at hand has requested a spill for (R123). -/
  spillReq : List Nat
  /-- In a tier engine context: the drive buffer of the item's MVM whose read of the record is made (R277). -/
  readBuf : Option Nat
  /-- Input segments of items not yet dispatched to the tile, oldest first (R107). -/
  ins : List TileIn
  deriving DecidableEq, Repr

/-- An ACC56 bank of 16 zero blocks. -/
def zeroBank : List AccBlk := List.replicate 16 ⟨0, List.replicate 32 0⟩

/-- A sequencer at reset: IDLE, every register and bank zero. -/
def Core.zero : Core :=
  ⟨List.replicate 16 0, 0, 0, 0, none, [], none, [], 0, 0, 0, 0, zeroBank, zeroBank, none, none, none, none,
    [], 0, [], false, false, false, [], none, none, false, [], none, []⟩

/-- The cells of an array (R69): the weights it was programmed with, the array exponent, the cells left
outside the verify window with the level they read as (R294), and MODEL: the draw that its reserved W4 codes take their
unspecified levels from (R65). -/
structure Cells where
  wgt : List Byte
  wx : Nat
  stuck : List (Nat × Nat)
  draw : Nat
  deriving DecidableEq, Repr

/-- Erased cells hold no weights. -/
def Cells.erased : Cells := ⟨[], 0, [], 0⟩

/-- Trims of one ADC (R340): offset in 1/16 LSB, gain in 1/32,768. -/
structure Trim where
  ofs : Int
  gain : Nat
  deriving DecidableEq, Repr

/-- What a tile's converter holds (R340, R341): its 66 trims, the tracking factor, and the one that applies from the next issue
(R120, R350). -/
structure Conv where
  trims : List Trim
  track : Nat
  next : Nat
  deriving DecidableEq, Repr

/-- Converter at reset (TIL_CAL_TRIM, TIL_CAL.TRACK of R356). -/
def Conv.zero : Conv := ⟨List.replicate 66 ⟨0, 0x8000⟩, 0x8000, 0x8000⟩

/-- A tile summary of Keeper NVM (R328). -/
structure TileSum where
  rewrites : Nat
  tagStage : Nat
  tagEpoch : Nat
  tagArr : Nat
  valid : Bool
  winc : Bool
  retired : Bool
  soft : Nat
  arrT : List Nat
  chkT : List Nat
  digT : List Nat
  retCause : Nat
  stFails : Nat
  deriving DecidableEq, Repr

/-- A tile's summary before anything is recorded. -/
def TileSum.zero : TileSum := ⟨0, 0, 0, 0, false, false, false, 0, [], [], [], 0, 0⟩

/-- A calibration record of Keeper NVM (R342). -/
structure CalRec where
  d : Nat
  tcal : Int
  qf : Nat
  bad : Nat
  pos : Nat
  deriving DecidableEq, Repr

/-- R342: a tile that never had an accepted attempt. -/
def CalRec.zero : CalRec := ⟨0x8000, 7000, 0xFF, 0, 0⟩

/-- A unit history record (R327). -/
structure HistRec where
  unit : Word32
  kind : Nat
  flags : Nat
  stage : Nat
  mile : Word
  pos : Nat
  handle : Word32
  detail : Word32
  deriving DecidableEq, Repr

/-- An event log record (R452). Records held while the Keeper is down (R454) have SEQ and POS 0 until delivered. -/
structure LogRec where
  seq : Nat
  cls : Nat
  sev : Nat
  code : Nat
  unit : Word32
  part : Nat
  job : Nat
  mile : Word
  pos : Nat
  handle : Word32
  detail : List Byte
  deriving DecidableEq, Repr

/-- A passage (R208), with what the part keeps beside its Passage Table entry. -/
structure Passage where
  handle : Word32
  st : Nat
  part : Nat
  job : Nat
  epoch : Nat
  stage : Nat
  kvBase : Nat
  inRing : Word
  inHead : Nat
  inTail : Nat
  outNext : Nat
  home : Nat
  cring : Nat
  outRing : Word
  prio : Nat
  stream : Bool
  dlFault : Bool
  noExit : Bool
  status : Nat
  hold : Nat
  seed : Word32
  deadline : Word
  under : Nat
  sat : Nat
  user : Word32
  admitAt : Word
  steps : Nat
  /-- The entry is in its home die's passage cache (R209). -/
  cached : Bool
  /-- A step is in flight. -/
  inflight : Bool
  /-- CLOSE accepted. -/
  closed : Bool
  /-- The state a HELD passage came from (R212). -/
  heldFrom : Nat
  /-- The exit taken in the step in flight (R252). -/
  exitAt : Nat
  /-- The deadline miss has been counted (R230). -/
  missed : Bool
  /-- Count of the final completion entry once written (R212). -/
  finalAt : Option Nat
  /-- Counts of the completion entries of its recent results, by step (R215). -/
  outAt : List (Nat × Nat)
  /-- A result waiting for its slot (R215). -/
  waiting : Option (List Byte)
  flagUnder : Bool
  flagSat : Bool
  /-- A passage homed on another part, whose work items run here with what they carry (R206). -/
  guest : Bool
  deriving DecidableEq, Repr

/-- A FREE passage. -/
def Passage.zero : Passage :=
  ⟨0, 0, 0, 0, 0, 0, 0, 0, 0, 0, 0, 0, 0, 0, 0, false, false, false, 0, 0, 0, 0, 0, 0, 0, 0, 0,
    false, false, false, 0, 0xFFFF, false, none, [], none, false, false, false⟩

/-- One item of a scoreboard (R225): a passage step at a stage replica. -/
structure SbItem where
  idx : Nat
  stage : Nat
  rep : Nat
  need : Nat
  got : Nat
  ready : Bool
  /-- Readiness order and the milestone value at readiness. -/
  ord : Nat
  mile : Word
  /-- 0 waiting or ready, 1 in a batch, 2 dispatched, 3 complete. -/
  phase : Nat
  /-- Expert contributions expected and received (R247). -/
  exp : Option Nat
  expGot : Nat
  gate : Option Nat
  step : Nat
  /-- Tiles of the replica that have reported DONE. -/
  dones : Nat
  /-- Its wait for the dispatch buffer has been counted (R237). -/
  waited : Bool
  /-- It waits for a replica in service (R196, R228). -/
  noRep : Bool
  /-- Its batch, the recipe version the batch runs under (R226), and the milestone value read when the batch was dispatched
  (R51). -/
  bat : Nat
  rcp : Recipe
  bmile : Word
  deriving DecidableEq, Repr

/-- An item that has just come onto a scoreboard: no segment has arrived. -/
def SbItem.fresh (i stage rep need step : Nat) : SbItem :=
  ⟨i, stage, rep, need, 0, false, 0, 0, 0, none, 0, none, step, 0, false, false, 0, Recipe.zero, 0⟩

/-- A batch of one replica (R226): its number on the die, the version of its stage's recipe, and the milestone value read
when it is dispatched (R51). -/
structure Batch where
  stage : Nat
  rep : Nat
  epoch : Nat
  bat : Nat
  rcp : Recipe
  items : List Nat
  next : Nat
  size : Nat
  closed : Bool
  mile : Option Word
  deriving DecidableEq, Repr

/-- A selection of a router (R239–R243). -/
structure Sel where
  idx : Nat
  handle : Word32
  expert : Nat
  q : Nat
  deriving DecidableEq, Repr

/-- The capacity of an earlier batch of a router replica (R242): its number, C, and what is used per expert. -/
structure RBatch where
  bat : Nat
  cap : Nat
  used : List (Nat × Nat)
  deriving DecidableEq, Repr

/-- What a router replica keeps between batches (R242, R243): the capacity of its latest batch and what is used per expert, the
same of earlier batches whose scores have not all arrived, and queued selections. -/
structure RouterRep where
  stage : Nat
  rep : Nat
  bat : Nat
  cap : Nat
  used : List (Nat × Nat)
  past : List RBatch
  queue : List Sel
  /-- Selections that wait for a replica in service (R245). -/
  waits : List Sel
  deriving DecidableEq, Repr

/-- Counters of a router stage (R256). -/
structure ExpCnt where
  selected : Nat
  dispatched : Nat
  cap : Nat
  qovf : Nat
  zgate : Nat
  peak : Nat
  deriving DecidableEq, Repr

def ExpCnt.zero : ExpCnt := ⟨0, 0, 0, 0, 0, 0⟩

/-- Segments held in a dispatch buffer for a router or exit work item (R237, R238). -/
structure Held where
  stage : Nat
  rep : Nat
  idx : Nat
  segs : List (List Byte)
  units : Nat
  deriving DecidableEq, Repr

/-- A line of the stream cache (R268): which line, dirty, chosen first for eviction, brought in by prefetch. -/
structure CLine where
  line : Nat
  dirty : Bool
  evictFirst : Bool
  prefetched : Bool
  deriving DecidableEq, Repr

/-- A stream tracker (R271): the next line expected, the direction, and its use order. -/
structure Tracker where
  slot : Nat
  last : Nat
  up : Bool
  deriving DecidableEq, Repr

/-- A request held at its slice: waiting for a line (R270). -/
structure HeldReq where
  part : Nat
  addr : Nat
  bulk : Bool
  op : ReqOp
  prefetch : Bool
  deriving DecidableEq, Repr

/-- A spill requested of a tier engine (R123). -/
structure SpillReq where
  core : CoreId
  handle : Word32
  /-- The drive buffer it was asked for. -/
  buf : Nat
  deriving DecidableEq, Repr

/-- Work in a context of a tier engine (R276). -/
structure TierJob where
  prio : Nat
  stage : Nat
  arr : Nat
  item : WorkItem
  /-- An MVM of the context waits for the main datapath: the order of its arrival, and when it came. -/
  want : Bool
  ord : Nat
  since : Word
  deriving DecidableEq, Repr

/-- A target due for calibration on a die (R345). -/
structure CalDue where
  tile : TileId
  /-- 0 START, 1 DEMAND, 2 TEMP, 3 PERIOD (R345). -/
  cls : Nat
  delta : Int
  ord : Nat
  deriving DecidableEq, Repr

/-- A calibration attempt (R346): the fit of the first pass once made. -/
structure CalAtt where
  tile : TileId
  cls : Nat
  startT : Int
  pass1 : Option (List Trim × Nat)
  voided : Bool
  deriving DecidableEq, Repr

/-- An array queued for programming (R295). -/
structure ProgReq where
  tile : TileId
  cls : Nat
  part : Nat
  stage : Nat
  arr : Nat
  epoch : Nat
  wave : Nat
  ord : Nat
  deriving DecidableEq, Repr

/-- A DMA channel (R432–R443) beside its registers: TAIL; the descriptor in progress and the configuration it started with; the
bursts begun and when the last began; host source lines asked for and in hand; the flush read is out; and the STATUS
of a descriptor that has ended and waits for its completion to be written. -/
structure DmaCh where
  tail : Nat
  cur : Option (List Byte)
  curCfg : Word
  bursts : Nat
  issued : Word
  got : Nat
  flushing : Bool
  ending : Option Nat
  deriving DecidableEq, Repr

def DmaCh.zero : DmaCh := ⟨0, none, 0, 0, 0, 0, false, none⟩

/-- A completion entry waiting for room in its ring (R221). -/
structure QComp where
  handle : Word32
  kind : Nat
  status : Nat
  slot : Nat
  under : Nat
  sat : Nat
  exit : Nat
  epoch : Nat
  step : Nat
  user : Word32
  idx : Nat
  deriving DecidableEq, Repr

/-- What a Y-die holds beside its registers. -/
structure Die where
  flagCnt : SMap (Nat × Nat)
  flagFired : List (Nat × Bool)
  /-- The milestone value at which the flag window in progress was last seen (R58). -/
  flagAt : Word
  recipes : SMap Recipe
  pendRcp : SMap (Recipe × Nat)
  sb : List SbItem
  sbOrd : Nat
  batches : List Batch
  /-- Batches closed. -/
  batNo : Nat
  compQ : List QComp
  atail : Nat
  /-- The admission ring stopped at an entry whose OWN is 0 (R217). -/
  aStop : Bool
  routers : List RouterRep
  expCnt : SMap ExpCnt
  exitCnt : SMap (Nat × Nat)
  hist : SMap Nat
  dispBuf : List Held
  cache : SMap (List CLine)
  trackers : List Tracker
  /-- Recent demand misses of ACT and CTL traffic: line and milestone value (R271). -/
  lastMiss : List (Nat × Word)
  missQ : List HeldReq
  pfQ : List Nat
  spillQ : List SpillReq
  tier : SMap (Option TierJob)
  tierNow : Option (Nat × Nat × Nat)
  tierFaulty : Bool
  chkHold : List HistRec
  chkDropped : Nat
  softUp : List Nat
  logHold : List LogRec
  logDropped : Nat
  calDue : List CalDue
  calNow : List CalAtt
  /-- Replicas in their gap (R345): stage, replica, and the milestone value at which the last of its arrays left CAL. -/
  calGap : List (Nat × Nat × Word)
  calOwed : List (Nat × CalRec)
  progQ : List ProgReq
  /-- Retained arrays that wait for their retained verify (R299). -/
  verQ : List ProgReq
  progNow : List ProgReq
  /-- Arrays whose programming waits for the Keeper at step 5 (R296): the tile's number, and the cells left outside the window. -/
  progHeld : List (Nat × Nat × Nat)
  dma0 : DmaCh
  dma1 : DmaCh
  forbid : List TileId
  unusable : List TileId
  holdAdm : Bool
  credit : Int
  /-- Charges issued in the last 10 µs (R487). -/
  used : Int
  /-- Sets with a way disabled until cold reset, once for each way (R283). -/
  badWays : List Nat
  /-- A stop has parked the die's arrays (R101, R478). -/
  parked : Bool
  /-- March results held for the Keeper: a tile's number, and whether the march passed (R331, R335). -/
  marchHeld : List (Nat × Bool)
  /-- Arrays that passed their retained verify and await their start-up calibration (R531). -/
  reused : List ProgReq
  deriving DecidableEq, Repr

/-- A die at reset. -/
def Die.zero : Die :=
  ⟨[], [], 0, [], [], [], 0, [], 0, [], 0, false, [], [], [], [], [], [], [], [], [], [], [], [], none, false, [], 0, [], [], 0,
    [], [], [], [], [], [], [], [], DmaCh.zero, DmaCh.zero, [], [], false, 0, 0, [], false, [], []⟩

/-- An output that a routed packet leaves by: the port, the class it travels in there, and the flits that have gone out by it. -/
structure Branch where
  port : RPort
  clsB : Bool
  taken : Nat
  deriving DecidableEq, Repr

/-- A packet whose head is routed: the packet, the flits of it that have left the input buffer, and its outputs (R143). -/
structure Cross where
  pkt : Packet
  gone : Nat
  outs : List Branch
  deriving DecidableEq, Repr

/-- A router port (R139, R140, R143). Of the link or channel it sends on: the last sequence number, the flits it keeps (at most 64), the
credits it has used by VC and class, by VC and class the input whose packet is on its way and the partition served next (R145), the VC whose
turn it is and the flits left of its turn (R134), packets cut off whose end it still owes by VC and class, and successive failures of the
flit at the front. Of the one it receives on: the last intact sequence number, whether it has asked for a replay, its buffers by VC and
class, the packets at their fronts whose heads are routed, and the credits it has still to return. Up or taken down. -/
structure NocLink where
  txSeq : Nat
  kept : List NocFlit
  used : SMap Nat
  lock : SMap Nat
  rr : SMap Nat
  turn : Nat
  left : Nat
  ends : List Nat
  fails : Nat
  rxSeq : Nat
  nakked : Bool
  buf : SMap (List NocFlit)
  cur : SMap (List Cross)
  owed : List Nat
  down : Bool
  deriving DecidableEq, Repr

def NocLink.zero : NocLink := ⟨0, [], [], [], [], 0, 0, [], 0, 255, false, [], [], [], false⟩

/-- A tree entry of a router (R142): TREE, PART and the branch mask, by port. -/
structure TreeEnt where
  tree : Nat
  part : Nat
  mask : List RPort
  deriving DecidableEq, Repr

/-- Where a tree leaves the mesh: its router, the port, and the endpoint's kind (R132, R142). -/
structure Leaf where
  t : TileId
  port : RPort
  kind : Nat
  deriving DecidableEq, Repr

/-- A tree being retired under R146: the router its source injects at, whether its packets travel on RED, and the leaves that have not
yet acknowledged. -/
structure OldTree where
  tree : Nat
  part : Nat
  src : TileId
  red : Bool
  leaves : List Leaf
  deriving DecidableEq, Repr

/-- A window of the stream window table (R265). -/
structure Win where
  valid : Bool
  base : Nat
  limit : Nat
  owner : Nat
  deriving DecidableEq, Repr

def Win.zero : Win := ⟨false, 0, 0, 0⟩

/-- A sensor (R470, R471). -/
structure Sensor where
  t : Int
  faulty : Bool
  fast : Bool
  miss : Nat
  seen : Bool
  deriving DecidableEq, Repr

def Sensor.zero : Sensor := ⟨0, false, false, 0, false⟩

/-- A GRAPH and RESIDENCY entry (R157, R159). -/
structure Stage where
  kind : Nat
  kv : Bool
  expert : Bool
  rcp : Nat
  prog : Nat
  nIn : Nat
  nOut : Nat
  route : Nat
  nRoute : Nat
  egroup : Nat
  eidx : Nat
  topk : Nat
  kvBytes : Nat
  actBytes : Nat
  rate : Nat
  cls : Nat
  prio : Nat
  minRep : Nat
  maxRep : Nat
  dies : Nat
  rank : Nat
  near : Nat
  deriving DecidableEq, Repr

/-- A bound replica (R180): the tile of each logical array, its anchor, and whether it is in service. -/
structure Replica where
  stage : Nat
  rep : Nat
  tiles : List TileId
  anchor : TileId
  tree : Nat
  outOfService : Bool
  epoch : Nat
  deriving DecidableEq, Repr

/-- A key-value or activation region (R189). -/
structure Region where
  stage : Nat
  rep : Nat
  kv : Bool
  base : Nat
  len : Nat
  stride : Nat
  deriving DecidableEq, Repr

/-- A shadow of a stage in one epoch (R190). -/
structure Shadow where
  stage : Nat
  epoch : Nat
  base : Nat
  n : Nat
  deriving DecidableEq, Repr

/-- A shard of the manifest in use (R164), with its status record (R292). -/
structure Shard where
  stage : Nat
  fmode : Nat
  first : Nat
  n : Nat
  target : Nat
  nsid : Nat
  slba : Nat
  bytes : Nat
  /-- Its storage target: name, address, service port (R164). -/
  nqn : List Byte
  addr : List Byte
  tport : Nat
  /-- 0 NOT_HERE … 6 FAILED (R292). -/
  st : Nat
  source : Nat
  tries : Nat
  cause : Nat
  nvme : Nat
  peer : Nat
  mile : Word
  /-- Byte ranges landed, as (offset, length). -/
  landed : List (Nat × Nat)
  /-- An array of it on this part has been programmed, not only verified (R299). -/
  prog : Bool
  deriving DecidableEq, Repr

/-- What the costs of tiles are reckoned from (R184): BIL_COST and BIL_POL, the sensors, the tile summaries, the calibration records and
the power-on second, as read at the start of a bind or rebind. -/
structure CostIn where
  cost : Word
  pol : Word
  sensors : SMap Sensor
  tsum : SMap TileSum
  calr : SMap CalRec
  pos : Nat
  deriving DecidableEq, Repr

/-- A rebind in progress (R196): from a tile to a spare, the work items the tile held with their input, how many spares
have failed verify, and whether the spare is programmed and calibrated. While the batch on the tile still runs, `due` is the state the
tile takes when its array moves (R173). `inp` is what its costs are reckoned from (R184). -/
structure Rebind where
  old : TileId
  spare : TileId
  stage : Nat
  rep : Nat
  arr : Nat
  failed : Nat
  result : Nat
  items : List (WorkItem × List TileIn)
  ready : Bool
  due : Option Nat
  inp : Option CostIn
  deriving DecidableEq, Repr

/-- A tree family of one source (R187): the router at which its packets enter, the stage and replica, the segment and the route entry
it serves (0xFFFF: the entry tree of an expert replica, R246), the first TREE number, whether its group travels on RED (R162), and for
each r the leaves of TREE + r. -/
structure TreeFam where
  src : TileId
  stage : Nat
  rep : Nat
  out : Nat
  route : Nat
  base : Nat
  red : Bool
  leaves : List (List Leaf)
  deriving DecidableEq, Repr

/-- Routes and trees a source replica changes to at its next batch boundary (R146): the words of PARAM ROUTE by SRAM address, and the trees
it then retires. -/
structure Switch where
  stage : Nat
  rep : Nat
  loads : List (Nat × List Byte)
  old : List OldTree
  deriving DecidableEq, Repr

/-- A weight swap (R302–R310): waves by stage, the state of each wave (0 OLD, 1 WRITING or DOUBLING, 2 DOUBLE, 3 NEW), how
many are clear, M_FLIP, and the ranks whose shards have landed; the lowest low-water wave of each rank (4,096: not counted);
the new manifest's shards, and the new copies of a shadow swap. -/
structure Swap where
  shadow : Bool
  newEpoch : Nat
  nWave : Nat
  waveOf : List Nat
  waves : List Nat
  clear : Nat
  flip : Option Word
  landed : List Nat
  lows : List (Nat × Nat)
  newShards : List Shard
  copies : List Replica
  deriving DecidableEq, Repr

/-- A bind note (R201). -/
structure Note where
  code : Nat
  stage : Nat
  arg : Nat
  deriving DecidableEq, Repr

/-- A partition's image and job (R167): what was loaded, what it was bound to, and what runs. -/
structure Job where
  /-- An image is loaded or being loaded. -/
  live : Bool
  /-- 1 LOAD, 3 CHECK, 2 UNLOAD in progress; 0 none. -/
  op : Nat
  addr : Nat
  len : Nat
  job : Nat
  hdrCrc : Nat
  epoch : Nat
  stages : List Stage
  reps : List Replica
  tier : List (Nat × Nat)
  repCount : List Nat
  /-- The rank that holds each replica of the slice: stage, replica, rank. -/
  holders : List (Nat × Nat × Nat)
  /-- The tree families in force; changed ones that wait for entries or numbers to come free (R146, R188); and the changes that wait for
  their sources' batch boundaries. -/
  fams : List TreeFam
  treeDue : Bool
  switches : List Switch
  /-- What the bind in progress reckons costs from (R184). -/
  bindIn : Option CostIn
  /-- The bind handed a stage back to the slice coordinator (R193). -/
  handed : Bool
  regions : List Region
  shadows : List Shadow
  shards : List Shard
  rebinds : List Rebind
  notes : List Note
  swap : Option Swap
  stopped : Bool
  degraded : List Nat
  /-- MODEL: the draw taken at bind for the choice of R399. -/
  algDraw : Nat
  /-- BFP_COLL.ALG at the bind (R399). -/
  alg : Nat
  /-- The milestone value at which an unload's drain (R169), a slice peer's time to answer (R194) or the other parts' time to be commanded
  for a swap (R303) is over. -/
  due : Word
  deriving DecidableEq, Repr

def Job.zero : Job :=
  ⟨false, 0, 0, 0, 0, 0, 0, [], [], [], [], [], [], false, [], none, false, [], [], [], [], [], none, false, [], 0, 0, 0⟩

/-- A set slice (R373): its descriptor, the wrap flags, and barrier state (R401). -/
structure Slice where
  set : Bool
  job : Nat
  size : Nat × Nat × Nat
  wrapReq : Nat
  coord : Nat × Nat × Nat
  dirs : List (Nat × Nat)
  wrap : Nat
  barArrived : List (BitVec 18)
  barLatest : Word
  /-- The milestone value at which the first ARRIVE came (R401). -/
  barFirst : Word
  barLock : Bool
  barRel : Option Word
  deriving DecidableEq, Repr

def Slice.zero : Slice := ⟨false, 0, (0, 0, 0), 0, (0, 0, 0), [], 0, [], 0, 0, true, none⟩

/-- A fabric tree entry of the port blocks (R371). -/
structure FabTree where
  job : Nat
  tree : Nat
  links : List Nat
  loc : Bool
  deriving DecidableEq, Repr

/-- A branch of a packet at the port blocks (R371): the link it leaves by, 12 for the package; its class and credit pool there; the flits
it has taken. -/
structure FabBranch where
  link : Nat
  clsB : Bool
  ent : Nat
  taken : Nat
  deriving DecidableEq, Repr

/-- A packet whose head is routed at a port block: the packet as it goes on, the flits of it that have left its buffer, its branches. -/
structure FabCross where
  pkt : SysPacket
  gone : Nat
  outs : List FabBranch
  deriving DecidableEq, Repr

/-- A fabric link (R362, R367, R368, R371). Of its transmitter: the last sequence number used, the sequenced flits it keeps (at most 2,048),
the credits it holds by pool, the share entry served and the slots left of its turn, the same of the VCs by share entry, the buffer whose
packet is on its way by pool, the pools in which it still owes the end of a packet cut off, and how often one flit has been asked for. Of
its receiver: the last intact sequence number, whether it has asked for a replay, its buffers, the packets at their fronts whose heads are
routed, and the credits it has still to return. The quads in service. Link number 12 stands for the part itself: its buffers hold what its
own units send. -/
structure BfpLink where
  txSeq : Nat
  kept : List BfpFlit
  credits : SMap Nat
  turn : Nat × Nat
  vcTurn : SMap (Nat × Nat)
  lock : SMap Nat
  ends : List Nat
  naks : Nat
  rxSeq : Nat
  nakked : Bool
  rxBuf : SMap (List BfpFlit)
  cur : SMap (List FabCross)
  owed : List Nat
  quads : List Nat
  deriving DecidableEq, Repr

def BfpLink.zero : BfpLink := ⟨0, [], [], (0, 0), [], [], [], 0, 4095, false, [], [], [], []⟩

/-- Collective data on its way (R394): round, dimension, direction, phase, first block, blocks (mantissas, then the exponent
byte); and whether a reduce packet has been added already. -/
structure CollMsg where
  round : Nat
  dim : Nat
  neg : Bool
  gather : Bool
  piece : Nat
  blks : List (List Byte)
  added : Bool
  deriving DecidableEq, Repr

/-- A collective instance (R393): its key, its opening, the sum so far, the blocks final or stored in the dimension at hand,
the local segments received, the dimension at hand, and what waits for the local contribution or a later dimension. -/
structure Coll where
  coll : Nat
  job : Nat
  handle : Word32
  step : Nat
  opened : Word
  acc : List AccBlk
  fin : List (Nat × List Byte)
  got : Nat
  dim : Nat
  wait : List CollMsg
  deriving DecidableEq, Repr

/-- A snoop sent on a Trais port and not yet answered (R424): its tag, the line, invalidate or recall. -/
structure Snoop where
  tag : Nat
  line : Nat
  inv : Bool
  /-- The milestone value at which it was sent (R425). -/
  sent : Word
  deriving DecidableEq, Repr

/-- A host request, or a change of a ring window slot, that waits at a Trais port for the answers to snoops (R424). -/
inductive HostReq where
  | rd (sp : Space) (off len tag : Nat)
  | wr (sp : Space) (off : Nat) (data : List Byte)
  | rdS (off tag : Nat)
  | rdE (off tag : Nat)
  | remap (k : Nat) (v : Word)
  deriving DecidableEq, Repr

/-- A read of host memory that the part has sent (R426, R438): its tag, the DMA channel 2d + c, the 64-byte line; a flush read
after the last write. -/
structure HostRead where
  tag : Nat
  ch : Nat
  line : Nat
  flush : Bool
  deriving DecidableEq, Repr

/-- A message the part sends on Trais (R419). -/
inductive TMsg where
  | evt (vector data : Nat)
  | cpl (tag status : Nat) (data : List Byte)
  | snp (tag addr : Nat) (inv : Bool)
  | snpRsp (tag : Nat)
  | rd (tag addr len : Nat) (line : Bool)
  | wr (addr : Nat) (data : List Byte)
  deriving DecidableEq, Repr

/-- A Trais port (R415, R416, R420, R424–R428): the sender's sequence number, the sequenced flits it keeps (at most 1,024), the
messages that wait for credits, the credits by class in 16-byte units; the receiver's last intact sequence number, whether it has
asked for a replay, how often one flit was asked for again; the host-line cache, most recently used first; reads and snoops
outstanding; lines whose write-back is to be discarded; vectors in holdoff; data of pending events; and held requests. -/
structure TPort where
  txSeq : Nat
  kept : List TraisFlit
  txq : List TMsg
  credits : SMap Nat
  rxSeq : Nat
  nakked : Bool
  naks : Nat
  hlc : List (Nat × List Byte)
  reads : List HostRead
  rdTag : Nat
  snoops : List Snoop
  snpTag : Nat
  dropWb : List Nat
  /-- Vectors in holdoff, with the milestone value of their last EVT (R428). -/
  holdoff : List (Nat × Word)
  evData : SMap Nat
  held : List HostReq
  /-- NAKs in succession for the first flit kept (R416). -/
  txNaks : Nat
  deriving DecidableEq, Repr

def TPort.zero : TPort := ⟨0, [], [], [], 4095, false, 0, [], [], 0, [], 0, [], [], [], [], 0⟩

/-- A snoop filter entry (R424): line, exclusive, the ports that hold it. -/
structure SfEnt where
  line : Nat
  excl : Bool
  ports : List Nat
  deriving DecidableEq, Repr

/-- A partition table (R493). -/
structure Ptab where
  mgmt : Nat
  seq : Nat
  die : List Nat
  trais : List Nat
  link : List Nat
  range : List (Nat × Nat × Bool)
  gran : List Nat
  raw : List Byte
  deriving DecidableEq, Repr

/-- R495: the default table: partition 0 owns everything. -/
def Ptab.default : Ptab :=
  ⟨0, 0, List.replicate 32 0, List.replicate 4 0, List.replicate 12 0,
    (0, 1048575, true) :: List.replicate 15 (0, 0, false), List.replicate 1536 0, []⟩

/-- A firmware slot (R510): its manifest and its blocks of 64 KiB, by number. -/
structure Slot where
  manifest : List Byte
  blocks : SMap (List Byte)
  deriving DecidableEq, Repr

/-- The transfer state of an update (R511) in NVM: the manifest received, the blocks whose bit is set, STATE (R520), whether the
source is Trais, and whether a
piece has fixed it. -/
structure Update where
  manifest : List Byte
  bitmap : List Nat
  st : Nat
  trais : Bool
  fixed : Bool
  /-- The power-on second from which the time of CONFIRM_S counts. -/
  since : Nat
  deriving DecidableEq, Repr

/-- A retention record (R297). -/
structure Retain where
  imageId : List Byte
  scrcs : List Nat
  part : Nat
  nParts : Nat
  rank : Nat
  epoch : Nat
  reps : List Replica
  /-- Stage, replica and rank of every replica of the slice. -/
  holders : List (Nat × Nat × Nat)
  deriving DecidableEq, Repr

/-- Keeper NVM (R450). -/
structure Nvm where
  coord : Nat
  qmap0 : Word
  qmap1 : Word
  ethMode : List Nat
  mac : List Nat
  hostNqn : List Byte
  monEn : Bool
  ptab : Ptab
  ptabStaged : Option (List Byte)
  cfgStaged : Option (Nat × List (Nat × Word))
  ownerKey : List Byte
  cert : List Byte
  secState : Nat
  arb : Nat
  upd : Update
  slotA : Slot
  slotB : Slot
  tpack : List Byte
  tpackSeq : Nat
  retain : List Retain
  calr : SMap CalRec
  tsum : SMap TileSum
  uhist : List HistRec
  log : List LogRec
  logSeq : Nat
  remap : Nat
  spare : Nat
  worn : Bool
  pos : Nat
  noiseSeq : Nat
  noisePoh : Nat
  /-- The die and array sections of NOISE_MODEL at the last refresh (R96, R97). -/
  noise : List Byte
  repairMap : List TileId
  /-- The slot the ROM boots next, and a recovery asked for (R517). -/
  next : Nat
  recover : Bool
  deriving DecidableEq, Repr

def Slot.zero : Slot := ⟨[], []⟩

def Update.zero : Update := ⟨[], [], 0, false, false, 0⟩

/-- Keeper NVM before anything is written to it: the default partition table, security state MANUFACTURE, no firmware, no
records. DESIGN CHOICE (log entry 48): the contents of NVM at manufacture are not given. -/
def Nvm.fresh : Nvm :=
  ⟨0, 0, 0, [0, 0, 0, 0], List.replicate 16 0, [], false, Ptab.default, none, none, [], [], 0, 0, Update.zero,
    Slot.zero, Slot.zero, [], 0, [], [], [], [], [], 0, 0, 16384, false, 0, 0, 0, [], [], 0, false⟩

/-- The Keeper (R447–R458) beside its registers: the power-on seconds of its resets; staged pieces and their object; snapshots
(requester, object, power-on second taken, bytes); the K-die's held log records; what R330 counts; the board's addresses,
message limits and event receiver, and platform events that wait; and whether the TAP has halted the processor. -/
structure Keeper where
  bites : List Nat
  staged : List (Nat × List Byte)
  stagedObj : Nat
  snaps : List (Nat × Nat × Nat × List Byte)
  /-- Bytes of the update image gathered in SRAM (R513): offset, bytes. -/
  gather : List (Nat × List Byte)
  kHold : List LogRec
  kDropped : Nat
  softWin : SMap (List (Nat × Nat))
  calReqAt : SMap Nat
  tid : Nat
  i3cEvents : Bool
  mwl : Nat
  mrl : Nat
  evReceiver : Nat
  evPending : List LogRec
  haltedByTap : Bool
  /-- Retirements, with RET_CAUSE, that wait for the end of a calibration pass or test run (R336). -/
  retWait : List (TileId × Nat)
  /-- Temperature samples of the Y-dies (R96): by die, the power-on hour, the sum and the number of its samples, newest last. -/
  tHours : SMap (List (Nat × Int × Nat))
  /-- The last test run of a tile under a pattern of the installed pack (R335), by tile number × 4,096 + pattern: power-on seconds + 1. -/
  lastRun : SMap Nat
  /-- Partitions whose retention record is still to be written (R297). -/
  retDue : List Nat
  deriving DecidableEq, Repr

def Keeper.zero : Keeper := ⟨[], [], 0, [], [], [], 0, [], [], 0, true, 64, 64, 0, [], false, [], [], [], []⟩

/-- The monitor converter (R459–R463) beside its registers: off 0, in start-up delay 1, converting 2, in an entry's delay 3; table
entry or list position; conversions done of the entry; position in the injected list during an injected run; a pending
trigger; powered down; the FIFO, oldest first. -/
structure Mon where
  phase : Nat
  pos : Nat
  rep : Nat
  inj : Option Nat
  pend : Bool
  pd : Bool
  fifo : List Word
  deriving DecidableEq, Repr

def Mon.zero : Mon := ⟨0, 0, 0, none, false, false, []⟩

/-- Power, thermal and clocks (R472–R483) beside the registers: the compute, stack and serdes rails; the auxiliary supply; clocks
gated; every array parked by a stop; what is left of the return after an overcurrent hold, in ticks of 10 µs; B′; what is
drained for (0 nothing, 1 P2, 2 an orderly stop, 3 P2 with the steps drained); the THERMTRIP_N land driven; the straps RECOV_N and of the I3C address
as last sampled; a wake that has arrived; the stacks taken out of service at start-up (R528); and governor ticks of the running millisecond in P1. -/
structure Power where
  rails : Bool
  vaux : Bool
  gated : Bool
  parked : Bool
  ramp : Nat
  bPrime : Nat
  drainFor : Nat
  thermtrip : Bool
  recovLow : Bool
  straps : Nat
  wake : Bool
  stacksOut : List Nat
  p1Ticks : Nat
  /-- The milestone value at which the drain in progress is over (R478, R483), and that of the last overcurrent trip (R477). -/
  due : Word
  ocAt : Word
  deriving DecidableEq, Repr

def Power.zero : Power := ⟨false, true, false, false, 0, 14300, 0, false, false, 0, false, [], 0, 0, 0⟩

/-- Security (R489–R503) beside the registers: M0–M3, the identity key's digest once the ROM has read it, the power-on second at
which a token ends, how many debug nonces have been drawn, and the boundary test instruction in force (0 none). -/
structure Sec where
  m : List (List Byte)
  partId : List Byte
  tokenEnds : Nat
  nonceNo : Nat
  tap : Nat
  deriving DecidableEq, Repr

def Sec.zero : Sec :=
  ⟨[List.replicate 32 0, List.replicate 32 0, List.replicate 32 0, List.replicate 32 0], [], 0, 0, 0⟩

/-- The milestone counter (R380–R383) beside its registers: the last offsets, the count of good exchanges, whether it was ever
locked, the depths the neighbours report, the correction still to be made, in increments, and the value at which the parent was lost. -/
structure Mile where
  thetas : List Int
  good : Nat
  everLocked : Bool
  depths : List Nat
  slew : Int
  lostAt : Word
  deriving DecidableEq, Repr

def Mile.zero : Mile := ⟨[], 0, false, List.replicate 12 255, 0, 0⟩

/-- What the part sends out: on Trais, on the fabric, to storage, to the board, and on its lands. -/
inductive Out where
  /-- Flits a Trais port sends (R410–R417). -/
  | traisFlits (port : Nat) (fs : List TraisFlit)
  | stackRsp (d part addr : Nat) (data : List Byte) (poison : Bool)
  | nocResend (r : TileId) (p : RPort) (fs : List NocFlit)
  | nocSend (r : TileId) (p : RPort) (k : Packet)
  | nocFlits (r : TileId) (p : RPort) (fs : List NocFlit)
  | ctl (kind : String) (die part : Nat) (a b : Nat)
  /-- A segment a scheduler sends; with it the packet and the router it enters the mesh at, unless another packet carries it too or it
  leaves for another part. -/
  | segment (die idx target rep seg : Nat) (gate : Option Nat) (bytes : List Byte) (pkt : Option (TileId × Packet))
  /-- A SEND or PSUM injected; with it the packet and the router it enters the mesh at, where its route names a tile or a tree. -/
  | inject (c : CoreId) (route : Word32) (bytes : List Byte) (blks : List AccBlk) (rep : Nat) (pkt : Option (TileId × Packet))
  /-- A packet the part sends by the L port of a router: PACKET_ROUTE follows. -/
  | enter (r : TileId) (k : Packet)
  | bfpResend (n : Nat) (fs : List BfpFlit)
  | bfpFlits (n : Nat) (fs : List BfpFlit)
  | train (n : Nat)
  | abort (n : Nat) (msg : List Byte)
  | arrive (msg : List Byte)
  | release (msg : List Byte)
  | collOut (coll job : Nat) (handle : Word32) (step : Nat) (seg : Nat) (bytes : List Byte)
  /-- A tier engine asks lines of stack memory through one of its ports (R263). -/
  | tierRead (die port lines : Nat)
  /-- Bytes of a shard are asked of its storage target: NQN, ADDR, PORT, and the namespace and first block (R164). -/
  | fetch (part shard off len : Nat) (nqn addr : List Byte) (tport nsid slba : Nat)
  | peerFetch (part shard : Nat)
  | forward (part shard k : Nat) (data : List Byte)
  | slice (part : Nat) (what : String) (a b : Nat)
  | mctp (cmd cc : Nat) (data : List Byte)
  | i3c (ack : Bool) (data : List Byte)
  | pldm (ty cmd cc : Nat) (data : List Byte)
  | record (die : Nat) (r : HistRec)
  | platformEvent (receiver : Nat) (r : LogRec)
  /-- What a read of MON_FIFO returns. -/
  | monFifo (v : Word)
  | thermtrip (low : Bool)
  | tap (k : Nat) (granted : Bool)
  deriving DecidableEq, Repr

/-- The state of the part. -/
structure State where
  /-- The milestone counter (R380). -/
  mile : Word
  /-- MILE cycles into the current power-on second. -/
  posNs : Nat
  /-- Every register, keyed by block, instance and offset. -/
  regs : SMap Word
  /-- Stack memory, tile SRAM windows and tier engine context SRAM, byte by byte, keyed by device address. -/
  mem : SMap Byte
  /-- Poisoned 32-byte words of stack memory, by address, rising (R281). -/
  poison : List Nat
  cores : SMap Core
  cells : SMap Cells
  convs : SMap Conv
  dies : SMap Die
  links : SMap NocLink
  trees : SMap (List TreeEnt)
  oldTrees : List OldTree
  flitSel : SMap Nat
  wins : SMap Win
  passages : SMap Passage
  jobs : SMap Job
  slices : SMap Slice
  fabTrees : List FabTree
  bfp : SMap BfpLink
  colls : List Coll
  /-- Jobs whose ABORT this part has seen (R402). -/
  aborted : List Nat
  ports : SMap TPort
  snoopF : SMap (List SfEnt)
  sensors : SMap Sensor
  nvm : Nvm
  keeper : Keeper
  mon : Mon
  power : Power
  sec : Sec
  milestone : Mile
  /-- What the part has sent, oldest first. -/
  out : List Out
  /-- MODEL: how many free values have been taken. -/
  free : Nat
  /-- The commands waiting, first in, first out. -/
  pending : List Instr
  deriving DecidableEq, Repr

/-- The part right after power-on reset: every register at its reset value, no memory listed, nothing queued. -/
def State.reset : State :=
  ⟨0, 0, [], [], [], [], [], [], [], [], [], [], [], [], [], [], [], [], [], [], [], [], [], [],
    Nvm.fresh, Keeper.zero, Mon.zero, Power.zero, Sec.zero, Mile.zero, [], 0, []⟩

end Sys2Proof.Machine
end

