-- ==== Sys2Proof/Machine/Effect.lean ====
section
/-!
DEFINITION. What a command can do: a list of effects, each the new value of one cell of the state. A meaning is an
`Act`, which reads the state and answers its effects in order; `runAct` applies them. No effect touches the queue of
waiting commands. Here too are the keys under which the state holds registers, tiles and contexts.
-/
namespace Sys2Proof.Machine

/-- The key of a register: block code, instance, offset. -/
def regKey (b : Blk) (i off : Nat) : Nat := (b.code * 1048576 + i) * 65536 + off

/-- The block of a type code. -/
def Blk.ofCode (c : Nat) : Option Blk :=
  [Blk.sch, .pas, .bil, .cal, .chk, .stk, .dma, .til, .kpr, .mon, .thm, .pwr, .sec, .upd, .msc, .ldr, .eth, .trl,
    .bfp, .prt, .fab].find? (fun b => b.code == c)

/-- The row of the register table that names offset `off` of a block (R10: none, no register there). -/
def rowOf (b : Blk) (off : Nat) : Option RegRow :=
  (regRows b).find? (fun r => r.off ≤ off && off < r.off + r.n * r.stride && (off - r.off) % r.stride == 0)

/-- The bits hi to lo as a mask. -/
def maskOf (hi lo : Nat) : Word := ((1#64 <<< (hi + 1 - lo)) - 1#64) <<< lo

/-- The reset value of a register, from the fields' resets. -/
def RegRow.reset (r : RegRow) : Word := r.flds.foldl (fun w f => w ||| (BitVec.ofNat 64 f.rst <<< f.lo)) 0

/-- The reset value at offset `off` of a block; an address no register occupies reads zero (R10). -/
def regReset (b : Blk) (off : Nat) : Word := (rowOf b off).elim 0 RegRow.reset

/-- The reset value under a key. -/
def regResetKey (k : Nat) : Word :=
  (Blk.ofCode (k / 68719476736)).elim 0 (fun b => regReset b (k % 65536))

/-- A byte of memory nothing has written. DESIGN CHOICE (log entry 3): zero; the manual gives stack memory and
tile SRAM no reset contents. -/
def memReset (_ : Nat) : Byte := 0

/-- The register instance number of a tile: its number on its die (R15) beyond the dies before it. -/
def tileKey (t : TileId) : Nat := t.d.val * 8448 + t.y.val * 128 + t.x.val

/-- The key of a sequencer: a tile's key, or a tier engine context's. -/
def coreKey : CoreId → Nat
  | .tile t => tileKey t
  | .ctx d k => 1048576 + d.val * 16 + k.val

/-- The die of a sequencer. -/
def coreDie : CoreId → Nat
  | .tile t => t.d.val
  | .ctx d _ => d.val


namespace State
variable (s : State)

/-- The register at offset `off` of instance i of a block. -/
def reg (b : Blk) (i off : Nat) : Word := SMap.get regResetKey s.regs (regKey b i off)
/-- The byte at a device address. -/
def byte (a : Nat) : Byte := SMap.get memReset s.mem a
/-- The sequencer of a core. -/
def core (c : CoreId) : Core := SMap.get (fun _ => Core.zero) s.cores (coreKey c)
/-- The cells of a tile's array: erased cells hold no weights. -/
def cell (t : TileId) : Cells := SMap.get (fun _ => Cells.erased) s.cells (tileKey t)
/-- The converter of a tile. -/
def conv (t : TileId) : Conv := SMap.get (fun _ => Conv.zero) s.convs (tileKey t)
/-- Die d. -/
def die (d : Nat) : Die := SMap.get (fun _ => Die.zero) s.dies d
/-- The link or channel under a key. -/
def link (k : Nat) : NocLink := SMap.get (fun _ => NocLink.zero) s.links k
/-- The tree table of a router. -/
def treeTab (k : Nat) : List TreeEnt := SMap.get (fun _ => []) s.trees k
/-- Flits counted on a die per virtual channel. -/
def flits (k : Nat) : Nat := SMap.get (fun _ => 0) s.flitSel k
/-- Entry i of the stream window table. -/
def win (i : Nat) : Win := SMap.get (fun _ => Win.zero) s.wins i
/-- The passage of an index. -/
def passage (i : Nat) : Passage := SMap.get (fun _ => Passage.zero) s.passages i
/-- The job of a partition. -/
def job (p : Nat) : Job := SMap.get (fun _ => Job.zero) s.jobs p
/-- The slice of a partition. -/
def slice (p : Nat) : Slice := SMap.get (fun _ => Slice.zero) s.slices p
/-- Fabric link n. -/
def bfpLink (n : Nat) : BfpLink := SMap.get (fun _ => BfpLink.zero) s.bfp n
/-- Trais port n. -/
def port (n : Nat) : TPort := SMap.get (fun _ => TPort.zero) s.ports n
/-- The snoop filter of a die. -/
def filter (d : Nat) : List SfEnt := SMap.get (fun _ => []) s.snoopF d
/-- A sensor. -/
def sensor (k : Nat) : Sensor := SMap.get (fun _ => Sensor.zero) s.sensors k
end State

/-- One effect: the new value of one cell of the state. -/
inductive Eff where
  | mile (v : Word)
  | posNs (n : Nat)
  | reg (b : Blk) (i off : Nat) (v : Word)
  | byte (a : Nat) (v : Byte)
  | poison (l : List Nat)
  | core (c : CoreId) (v : Core)
  | cell (t : TileId) (v : Cells)
  | conv (t : TileId) (v : Conv)
  | die (d : Nat) (v : Die)
  | link (k : Nat) (v : NocLink)
  | treeTab (k : Nat) (v : List TreeEnt)
  | oldTrees (l : List OldTree)
  | flits (k n : Nat)
  | win (i : Nat) (v : Win)
  | passage (i : Nat) (v : Passage)
  | job (p : Nat) (v : Job)
  | slice (p : Nat) (v : Slice)
  | fabTrees (l : List FabTree)
  | bfpLink (n : Nat) (v : BfpLink)
  | colls (l : List Coll)
  | aborted (l : List Nat)
  | port (n : Nat) (v : TPort)
  | filter (d : Nat) (v : List SfEnt)
  | sensor (k : Nat) (v : Sensor)
  | nvm (v : Nvm)
  | keeper (v : Keeper)
  | mon (v : Mon)
  | power (v : Power)
  | sec (v : Sec)
  | milestone (v : Mile)
  /-- What goes with the compute, stack and serdes rails, or with a warm reset that keeps stack memory (R481, R522). -/
  | lost (keepStack : Bool)
  | out (o : Out)
  | free (n : Nat)
  deriving DecidableEq, Repr

/-- Apply one effect. -/
def Eff.ap : Eff → State → State
  | .mile v, s => { s with mile := v }
  | .posNs n, s => { s with posNs := n }
  | .reg b i off v, s => { s with regs := SMap.set regResetKey s.regs (regKey b i off) v }
  | .byte a v, s => { s with mem := SMap.set memReset s.mem a v }
  | .poison l, s => { s with poison := l }
  | .core c v, s => { s with cores := SMap.set (fun _ => Core.zero) s.cores (coreKey c) v }
  | .cell t v, s => { s with cells := SMap.set (fun _ => Cells.erased) s.cells (tileKey t) v }
  | .conv t v, s => { s with convs := SMap.set (fun _ => Conv.zero) s.convs (tileKey t) v }
  | .die d v, s => { s with dies := SMap.set (fun _ => Die.zero) s.dies d v }
  | .link k v, s => { s with links := SMap.set (fun _ => NocLink.zero) s.links k v }
  | .treeTab k v, s => { s with trees := SMap.set (fun _ => []) s.trees k v }
  | .oldTrees l, s => { s with oldTrees := l }
  | .flits k n, s => { s with flitSel := SMap.set (fun _ => 0) s.flitSel k n }
  | .win i v, s => { s with wins := SMap.set (fun _ => Win.zero) s.wins i v }
  | .passage i v, s => { s with passages := SMap.set (fun _ => Passage.zero) s.passages i v }
  | .job p v, s => { s with jobs := SMap.set (fun _ => Job.zero) s.jobs p v }
  | .slice p v, s => { s with slices := SMap.set (fun _ => Slice.zero) s.slices p v }
  | .fabTrees l, s => { s with fabTrees := l }
  | .bfpLink n v, s => { s with bfp := SMap.set (fun _ => BfpLink.zero) s.bfp n v }
  | .colls l, s => { s with colls := l }
  | .aborted l, s => { s with aborted := l }
  | .port n v, s => { s with ports := SMap.set (fun _ => TPort.zero) s.ports n v }
  | .filter d v, s => { s with snoopF := SMap.set (fun _ => []) s.snoopF d v }
  | .sensor k v, s => { s with sensors := SMap.set (fun _ => Sensor.zero) s.sensors k v }
  | .nvm v, s => { s with nvm := v }
  | .keeper v, s => { s with keeper := v }
  | .mon v, s => { s with mon := v }
  | .power v, s => { s with power := v }
  | .sec v, s => { s with sec := v }
  | .milestone v, s => { s with milestone := v }
  | .lost k, s => { s with
      mem := if k then s.mem.filter (fun x => x.1 < 0x018000000000) else []
      poison := if k then s.poison else []
      cores := [], convs := [], links := [], trees := [], oldTrees := [], flitSel := [], wins := [], passages := []
      jobs := [], slices := [], fabTrees := [], bfp := [], colls := [], aborted := [], ports := [], snoopF := [] }
  | .out o, s => { s with out := s.out ++ [o] }
  | .free n, s => { s with free := n }

/-- Apply a list of effects, first to last. -/
def apAll : List Eff → State → State
  | [], s => s
  | e :: r, s => apAll r (e.ap s)

/-- A meaning: the effects it has in a state. -/
abbrev Act := State → List Eff

/-- The state after an action. -/
def after (a : Act) (s : State) : State := apAll (a s) s

/-- No effect. -/
def skip : Act := fun _ => []

/-- One effect, computed from the state. -/
def eff (f : State → Eff) : Act := fun s => [f s]

/-- Actions one after another, each reading the state the ones before it left. -/
def seqA : List Act → Act
  | [], _ => []
  | a :: r, s => a s ++ seqA r (after a s)

/-- An action for each element, in order. -/
def forA {α : Type} (l : List α) (f : α → Act) : Act := seqA (l.map f)

/-- An action if a condition holds of the state it starts from. -/
def whenA (c : State → Bool) (a : Act) : Act := fun s => if c s then a s else []

/-- One of two actions, by a condition of the state they start from. -/
def iteA (c : State → Bool) (a b : Act) : Act := fun s => if c s then a s else b s

/-- A value read from the state, given to an action. -/
def withA {α : Type} (f : State → α) (g : α → Act) : Act := fun s => g (f s) s

/-- A value that may be absent, given to an action. -/
def forOpt {α : Type} (o : Option α) (g : α → Act) : Act :=
  match o with
  | some x => g x
  | none => skip

/-- A command whose meaning is an action: the next state is the state after it. -/
def runAct (a : Act) (s : State) : Host.Outcome State Fault Refusal := .next (after a s)

end Sys2Proof.Machine
end

