-- ==== Sys2Proof/Machine/Ops.lean ====
section
/-!
DEFINITION. The shared operations: fields of registers, bytes of memory, partitions the CRCs of the manual (R153, R361), and the register access check
(R496), device addresses (R14, R258–R260), events to the host (R428), the event log (R452–R454).
-/
namespace Sys2Proof.Machine

/-! ## Registers and fields -/

/-- Field f of register j of its array (stride 8), as the manual writes REG_j.FIELD. -/
def Fld.nth (f : Fld) (j : Nat) : Fld := { f with off := f.off + 8 * j }

/-- Field f of channel c of a DMA block (stride 0x80). -/
def Fld.chan (f : Fld) (c : Nat) : Fld := { f with off := f.off + 128 * c }

/-- The bits hi to lo of a word, as a number. -/
def bitsOf (w : Word) (hi lo : Nat) : Nat := (w.toNat >>> lo) % 2 ^ (hi + 1 - lo)

/-- A word with bits hi to lo replaced by v. -/
def putBits (w : Word) (hi lo v : Nat) : Word :=
  (w &&& ~~~(maskOf hi lo)) ||| ((BitVec.ofNat 64 v <<< lo) &&& maskOf hi lo)

/-- The value of field f of a register word. -/
def Fld.of (f : Fld) (w : Word) : Nat := bitsOf w f.hi f.lo

/-- The largest value of a field. -/
def Fld.top (f : Fld) : Nat := 2 ^ (f.hi + 1 - f.lo) - 1

/-- The value of field f of instance i. -/
def State.fld (s : State) (f : Fld) (i : Nat) : Nat := f.of (s.reg f.blk i f.off)

/-- A one-bit field as a Bool. -/
def State.flag (s : State) (f : Fld) (i : Nat) : Bool := s.fld f i == 1

/-- Set a register whole. -/
def setReg (b : Blk) (i off : Nat) (v : Word) : Act := eff fun _ => .reg b i off v

/-- Set field f of instance i to v (taken modulo its width). -/
def setF (f : Fld) (i v : Nat) : Act :=
  eff fun s => .reg f.blk i f.off (putBits (s.reg f.blk i f.off) f.hi f.lo v)

/-- Set a one-bit field. -/
def setB (f : Fld) (i : Nat) (v : Bool) : Act := setF f i (if v then 1 else 0)

/-- Add n to a counter that saturates at its largest value. -/
def bump (f : Fld) (i n : Nat) : Act := withA (fun s => s.fld f i) fun v => setF f i (min (v + n) f.top)

/-- Add n to a counter that wraps. -/
def bumpW (f : Fld) (i n : Nat) : Act := withA (fun s => s.fld f i) fun v => setF f i (v + n)

/-- What a host write of v leaves in a register that held w, by the access codes of R9: RW takes v, W1C clears the
bits written 1, W1S sets them, and every other field keeps its value (BW is set by boot code only). -/
def writeCodes (r : RegRow) (w v : Word) : Word :=
  r.flds.foldl (fun a f =>
    let m := maskOf f.hi f.lo
    match f.acc with
    | .rw => (a &&& ~~~m) ||| (v &&& m)
    | .w1c => a &&& ~~~(v &&& m)
    | .rsw1c => a &&& ~~~(v &&& m)
    | .w1s => a ||| (v &&& m)
    | _ => a) w

/-- What boot code's write of v leaves: BW fields take v too (R9). -/
def writeBoot (r : RegRow) (w v : Word) : Word :=
  r.flds.foldl (fun a f =>
    let m := maskOf f.hi f.lo
    match f.acc with
    | .bw => (a &&& ~~~m) ||| (v &&& m)
    | _ => a) w

/-- The bits of a register that a warm reset keeps (R547): RS and BW fields. -/
def keepMask (r : RegRow) : Word :=
  r.flds.foldl (fun a f =>
    match f.acc with
    | .rs => a ||| maskOf f.hi f.lo
    | .rsw1c => a ||| maskOf f.hi f.lo
    | .bw => a ||| maskOf f.hi f.lo
    | _ => a) 0

/-- A host write of a register by its fields' access codes; an address no register occupies discards it (R10). -/
def writeReg (b : Blk) (i off : Nat) (v : Word) : Act := fun s =>
  match rowOf b off with
  | some r => [.reg b i off (writeCodes r (s.reg b i off) v)]
  | none => []

/-! ## Bytes -/

/-- The n low bytes of v, least significant first (R5). -/
def leBytes (n v : Nat) : List Byte := (List.range n).map fun i => BitVec.ofNat 8 (v >>> (8 * i))

/-- The number a byte string spells, least significant byte first (R5). -/
def leNat : List Byte → Nat
  | [] => 0
  | b :: r => b.toNat + 256 * leNat r

/-- n bytes of a byte string at offset o; bytes beyond its end are zero. -/
def slice (bs : List Byte) (o n : Nat) : List Byte := (List.range n).map fun i => bs.getD (o + i) 0

/-- The little-endian number of n bytes at offset o of a byte string. -/
def leAt (bs : List Byte) (o n : Nat) : Nat := leNat (slice bs o n)

/-- Bits hi to lo of a number. -/
def nbits (v hi lo : Nat) : Nat := (v >>> lo) % 2 ^ (hi + 1 - lo)

/-- Bit i of a number. -/
def nbit (v i : Nat) : Bool := (v >>> i) % 2 == 1

/-- A byte string of exactly n bytes: cut, or filled with zeros. -/
def padTo (n : Nat) (bs : List Byte) : List Byte := bs.take n ++ List.replicate (n - bs.length) 0

/-- A byte string with `bs` laid over it at offset o. -/
def putAt (base : List Byte) (o : Nat) (bs : List Byte) : List Byte :=
  base.take o ++ bs ++ base.drop (o + bs.length)

/-- n bytes of memory at device address a. -/
def State.bytes (s : State) (a n : Nat) : List Byte := (List.range n).map fun i => s.byte (a + i)

/-- The little-endian number of n bytes at device address a. -/
def State.num (s : State) (a n : Nat) : Nat := leNat (s.bytes a n)

/-- Write a byte string at device address a. -/
def putBytes (a : Nat) (bs : List Byte) : Act := fun _ => (bs.zipIdx a).map fun p => .byte p.2 p.1

/-! ## Changing one component -/

def modDie (d : Nat) (f : Die → Die) : Act := eff fun s => .die d (f (s.die d))
def modCore (c : CoreId) (f : Core → Core) : Act := eff fun s => .core c (f (s.core c))
def modCell (t : TileId) (f : Cells → Cells) : Act := eff fun s => .cell t (f (s.cell t))
def modConv (t : TileId) (f : Conv → Conv) : Act := eff fun s => .conv t (f (s.conv t))
def modLink (k : Nat) (f : NocLink → NocLink) : Act := eff fun s => .link k (f (s.link k))
def modPassage (i : Nat) (f : Passage → Passage) : Act := eff fun s => .passage i (f (s.passage i))
def modJob (p : Nat) (f : Job → Job) : Act := eff fun s => .job p (f (s.job p))
def modSlice (p : Nat) (f : Slice → Slice) : Act := eff fun s => .slice p (f (s.slice p))
def modBfp (n : Nat) (f : BfpLink → BfpLink) : Act := eff fun s => .bfpLink n (f (s.bfpLink n))
def modPort (n : Nat) (f : TPort → TPort) : Act := eff fun s => .port n (f (s.port n))
def modFilter (d : Nat) (f : List SfEnt → List SfEnt) : Act := eff fun s => .filter d (f (s.filter d))
def modSensor (k : Nat) (f : Sensor → Sensor) : Act := eff fun s => .sensor k (f (s.sensor k))
def modNvm (f : Nvm → Nvm) : Act := eff fun s => .nvm (f s.nvm)
def modKeeper (f : Keeper → Keeper) : Act := eff fun s => .keeper (f s.keeper)
def modMon (f : Mon → Mon) : Act := eff fun s => .mon (f s.mon)
def modPower (f : Power → Power) : Act := eff fun s => .power (f s.power)
def modSec (f : Sec → Sec) : Act := eff fun s => .sec (f s.sec)
def modMile (f : Mile → Mile) : Act := eff fun s => .milestone (f s.milestone)

/-- Record something the part sends. -/
def emit (o : Out) : Act := eff fun _ => .out o

/-- Take a free value: the draw counter advances. -/
def draw : Act := eff fun s => .free (s.free + 1)

/-- The tile summary of a tile (R328). -/
def State.tsum (s : State) (t : TileId) : TileSum := SMap.get (fun _ => TileSum.zero) s.nvm.tsum (tileKey t)

/-- The calibration record of a tile (R342). -/
def State.calr (s : State) (t : TileId) : CalRec := SMap.get (fun _ => CalRec.zero) s.nvm.calr (tileKey t)

def modTsum (t : TileId) (f : TileSum → TileSum) : Act :=
  eff fun s => .nvm { s.nvm with tsum := SMap.set (fun _ => TileSum.zero) s.nvm.tsum (tileKey t) (f (s.tsum t)) }

def setCalr (t : TileId) (r : CalRec) : Act :=
  modNvm fun n => { n with calr := SMap.set (fun _ => CalRec.zero) n.calr (tileKey t) r }

/-! ## Geometry (R17–R19) -/

/-- Row and column of die d. -/
def dieRow (d : Nat) : Nat := d / 8
def dieCol (d : Nat) : Nat := d % 8

/-- The stack a die serves (R18). -/
def stackOf (d : Nat) : Option Nat :=
  if 1 ≤ d ∧ d ≤ 6 then some (d - 1) else if 25 ≤ d ∧ d ≤ 30 then some (d - 19) else none

/-- The die a stack attaches to (R18). -/
def dieOfStack (n : Nat) : Nat := if n < 6 then n + 1 else n + 19

/-- The die of Trais port n (R19). -/
def dieOfPort (n : Nat) : Nat := [0, 24, 7, 31].getD n 0

/-- All dies, and all Trais ports. -/
def allDies : List Nat := List.range 32
def allPorts : List Nat := List.range 4

/-- All tiles of die d, by y then x. -/
def dieTiles (d : Fin 32) : List TileId :=
  (List.finRange 66).flatMap fun y => (List.finRange 64).map fun x => ⟨d, x, y⟩

/-- A die number as a `Fin`; numbers out of range (which no caller gives) fold to their residue. -/
def fin32 (d : Nat) : Fin 32 := ⟨d % 32, Nat.mod_lt _ (by decide)⟩

/-- The tile packed as ANCHOR is (R200): die in [5:0], x in [12:6], y in [19:13]. -/
def packTile (t : TileId) : Nat := t.d.val + t.x.val * 64 + t.y.val * 8192

/-! ## Where units attach to the mesh (R263) -/

/-- Attach point j of a stack controller, on row 0 or row 3; the stream cache's slice k; and port k of a tier engine. -/
def attachPoint (d j : Nat) : TileId := ⟨fin32 d, ⟨4 * (j % 16) + 2, by omega⟩, if d < 8 then 0 else 65⟩
def sliceRouter (d k : Nat) : TileId := ⟨fin32 d, ⟨4 * (k % 16) + 1, by omega⟩, 33⟩
def tierPort (d k : Nat) : TileId := ⟨fin32 d, ⟨8 * (k % 8) + 3, by omega⟩, 32⟩

/-- The router at which packets for a die's tier engine leave the mesh: its port 0. DESIGN CHOICE (log entry 200): R263 sends reads of
stack lines by the port nearest their slice, and names none for the rest. -/
def tierRouter (d : Nat) : TileId := tierPort d 0

/-- The router at which a die's scheduler attaches. DESIGN CHOICE (log entry 216): R263 names none; the middle of the die is taken. -/
def schedRouter (d : Nat) : TileId := ⟨fin32 d, 32, 33⟩

/-! ## Unit codes (R326) -/

/-- The unit code of a die as a whole. -/
def unitDie (d : Nat) : Nat := 8 * 2 ^ 28 + d * 2 ^ 22

/-- The unit code of a unit of a tile: kind 0 weight path, 1 check path, 2 digital path. -/
def unitTile (kind : Nat) (t : TileId) : Nat :=
  kind * 2 ^ 28 + t.d.val * 2 ^ 22 + t.y.val * 2 ^ 15 + t.x.val * 2 ^ 8

/-- The unit code of a tier engine. -/
def unitTier (d : Nat) : Nat := 3 * 2 ^ 28 + d * 2 ^ 22

/-- No unit. -/
def noUnit : Nat := 0xFFFFFFFF

/-! ## Partitions (R493–R496) -/

namespace State
variable (s : State)

/-- The partition that owns die d; 0x3F for none. -/
def part (d : Nat) : Nat := s.nvm.ptab.die.getD d 0x3F
/-- The partition of Trais port n. -/
def portPart (n : Nat) : Nat := s.nvm.ptab.trais.getD n 0x3F
/-- The partition that owns fabric link n. -/
def linkPart (n : Nat) : Nat := s.nvm.ptab.link.getD n 0x3F
/-- The management partition. -/
def mgmt : Nat := s.nvm.ptab.mgmt
/-- The partition of stack granule g; none while its stack is out of service (R528). -/
def granPart (g : Nat) : Nat := if s.power.stacksOut.contains (g / 128) then 0x3F else s.nvm.ptab.gran.getD g 0x3F
/-- The passage index range of a partition: (LO, HI), if it has one. -/
def range (p : Nat) : Option (Nat × Nat) :=
  match s.nvm.ptab.range[p]? with
  | some (lo, hi, true) => some (lo, hi)
  | _ => none
/-- The dies a partition owns. -/
def partDies (p : Nat) : List Nat := allDies.filter fun d => s.part d == p
/-- The Trais ports of a partition. -/
def partPorts (p : Nat) : List Nat := allPorts.filter fun n => s.portPart n == p
/-- The partition whose image runs a job. -/
def jobPart (j : Nat) : Option Nat := (List.range 16).find? fun p => (s.job p).live && (s.job p).job == j
/-- The Keeper's processor runs firmware (R23, R449). -/
def keeperUp : Bool := s.fld F.KPR_STS_STATE 0 == 1 && !s.keeper.haltedByTap
/-- The power state P0 to P3: P3 while the compute rails are off, else as PWR_STATE shows it. -/
def pstate : Nat := if s.power.rails then s.fld F.PWR_STATE_STATE 0 else 3
/-- Steps are being drained, for P2 or an orderly stop (R478, R483). -/
def draining : Bool := s.power.drainFor != 0
/-- Debug is CLOSED 0, AUTH 1 or OPEN 2. -/
def debug : Nat := s.fld F.SEC_STS_DEBUG 0
/-- The security state. -/
def secState : Nat := s.fld F.SEC_STS_STATE 0
end State

/-- Every die of a partition: an action on each. -/
def onDies (p : Nat) (f : Nat → Act) : Act := withA (fun s => s.partDies p) fun l => forA l f

/-- A field set on every die of a partition, as registers that show one value on all of them are. -/
def setFP (f : Fld) (p v : Nat) : Act := onDies p fun d => setF f d v

/-- The partition a register access carries (R496); the Keeper carries none. -/
def State.srcPart (s : State) : Src → Option Nat
  | .port n => some (s.portPart n.val)
  | .keeper => none

/-- The Keeper's blocks: KPR_ to UPD_, at 0x0801_0000_0000 (R14). -/
def Blk.isKeeper : Blk → Bool
  | .kpr | .mon | .thm | .pwr | .sec | .upd => true
  | _ => false

/-- The die of an instance of a die block. -/
def dieOfInst : Blk → Nat → Option Nat
  | .sch, i | .pas, i | .bil, i | .cal, i | .chk, i | .stk, i | .dma, i | .prt, i => some i
  | .til, i => some (i / 8448)
  | _, _ => none

/-- R496: the checks are bypassed for the Keeper, for the port that holds a token of scope REG, and in OPEN. -/
def State.bypass (s : State) : Src → Bool
  | .keeper => true
  | .port n => s.debug == 2 || (s.debug == 1 && s.fld F.SEC_STS_DBG_PORT 0 == n.val && s.fld F.SEC_STS_SCOPE 0 == 2)

/-- R496: whether partition p may write (or read) offset `off` of an instance of a block. DEDUCED (log entry 6):
SEC_ registers outside SEC_DBG_, SEC_ATT_ and SEC_STAGE_ are written by any partition; BFP_ registers below 0x0100
follow those at 0x0100–0x03FF. -/
def State.mayAccess (s : State) (p : Nat) (write : Bool) (b : Blk) (i off : Nat) : Bool :=
  match dieOfInst b i with
  | some d => s.part d == p
  | none =>
    match b with
    | .trl => s.portPart i == p
    | .bfp => !write || (if off < 0x8000 then s.linkPart i == p else s.mgmt == p)
    | .fab | .ldr => true
    | .sec => !write || !(0x01A8 ≤ off && off ≤ 0x01B8) || s.mgmt == p
    | _ => !write || s.mgmt == p

/-- Whether a register access from a source is admitted. -/
def State.admits (s : State) (src : Src) (write : Bool) (b : Blk) (i off : Nat) : Bool :=
  (s.bypass src && !(b == .sec && write && 0x01A8 ≤ off && off ≤ 0x01B8 && src != .keeper)) ||
    match src with
    | .port n => s.mayAccess (s.portPart n.val) write b i off
    | .keeper => true

/-- Bank of a partition-banked block: the requester's partition; for the Keeper the selector as last written
(DESIGN CHOICE, log entry 7). -/
def State.bank (s : State) (src : Src) (b : Blk) : Nat :=
  match s.srcPart src with
  | some p => p
  | none => if b = .ldr then s.fld F.LDR_SEL_PART 0 else s.fld F.BFP_SLICE_SEL_PART 0

/-- R502: whether an access of partition p's Trais port n (none: of its DMA channels) may reach partition q's granules and
tiles: its own; those of a MEM token's PART through the holding port or the holder's channels; any in OPEN. -/
def State.reaches (s : State) (p : Nat) (n : Option Nat) (q : Nat) : Bool :=
  q == p || (s.debug == 2 && q != 0x3F) ||
    (s.debug == 1 && s.fld F.SEC_STS_SCOPE 0 == 3 && q == s.fld F.SEC_STS_DBG_PART 0 &&
      match n with
      | some n => s.fld F.SEC_STS_DBG_PORT 0 == n
      | none => s.portPart (s.fld F.SEC_STS_DBG_PORT 0) == p)

/-- R503: a token or OPEN ends; DEBUG returns to CLOSED. -/
def debugEnd : Act :=
  seqA [setF F.SEC_STS_DEBUG 0 0, setF F.SEC_STS_SCOPE 0 0, setF F.SEC_STS_DBG_PORT 0 0, setF F.SEC_STS_DBG_PART 0 0,
    setF F.SEC_DBG_STS_LEFT 0 0, modSec fun x => { x with tokenEnds := 0 }]

/-! ## Device addresses -/

/-- The device address of a tile's SRAM window (R259). -/
def sramBase (t : TileId) : Nat := 0x020000000000 + t.d.val * 0x40000000 + (t.y.val * 128 + t.x.val) * 0x8000

/-- The address under which the model keeps a core's 32 KiB: a tile's window; a tier engine context's SRAM (R276)
has no device address, and the model keeps it above the device address space. -/
def coreBase : CoreId → Nat
  | .tile t => sramBase t
  | .ctx d k => 0x1000000000000 + (d.val * 16 + k.val) * 0x8000

/-- What a device address names (R14, R258). -/
inductive Target where
  | stack
  | reserved
  | sram (t : TileId) (off : Nat)
  | noTile
  | reg (b : Blk) (i off : Nat)
  | nothing
  deriving DecidableEq, Repr

/-- A tile by numbers, if it exists. -/
def tileAt (d x y : Nat) : Option TileId :=
  if h : d < 32 ∧ x < 64 ∧ y < 66 then some ⟨⟨d, h.1⟩, ⟨x, h.2.1⟩, ⟨y, h.2.2⟩⟩ else none

/-- The registers of a die's 16 MiB (R14), at offset o from the die base. -/
def dieTarget (d o : Nat) : Target :=
  if o < 0x70000 then
    match [Blk.sch, .pas, .bil, .cal, .chk, .stk, .dma][o / 0x10000]? with
    | some b => .reg b d (o % 0x10000)
    | none => .nothing
  else if 0x400000 ≤ o then
    let n := (o - 0x400000) / 0x400
    match tileAt d (n % 128) (n / 128) with
    | some t => .reg .til (tileKey t) ((o - 0x400000) % 0x400)
    | none => .nothing
  else .nothing

/-- The port and system blocks (R14), at offset o from 0x0802_0000_0000. -/
def sysTarget (o : Nat) : Target :=
  if o < 0x10000 then .reg .msc 0 o
  else if o < 0x20000 then .reg .ldr 0 (o - 0x10000)
  else if o < 0x30000 then .reg .eth ((o - 0x20000) / 0x1000) (o % 0x1000)
  else if o < 0x40000 then .nothing
  else if o < 0x80000 then .reg .trl ((o - 0x40000) / 0x10000) (o % 0x10000)
  else if o < 0x140000 then .reg .bfp ((o - 0x80000) / 0x10000) (o % 0x10000)
  else if o < 0x200000 then .nothing
  else if o < 0x400000 then .reg .prt ((o - 0x200000) / 0x10000) (o % 0x10000)
  else .nothing

/-- What a device address names. -/
def target (a : Nat) : Target :=
  if a < 0x018000000000 then .stack
  else if a < 0x020000000000 then .reserved
  else if a < 0x020800000000 then
    let o := a - 0x020000000000
    let n := o % 0x40000000 / 0x8000
    match tileAt (o / 0x40000000) (n % 128) (n / 128) with
    | some t => .sram t (o % 0x8000)
    | none => .noTile
  else if a < 0x080000000000 then .reserved
  else if a < 0x080020000000 then dieTarget ((a - 0x080000000000) / 0x1000000) (a % 0x1000000)
  else if a < 0x080100000000 then .nothing
  else if a < 0x080100060000 then
    match [Blk.kpr, .mon, .thm, .pwr, .sec, .upd][(a - 0x080100000000) / 0x10000]? with
    | some b => .reg b 0 (a % 0x10000)
    | none => .nothing
  else if 0x080200000000 ≤ a then sysTarget (a - 0x080200000000)
  else .nothing

/-- The offsets of BFP_0 banked by partition (R496). -/
def banked (off : Nat) : Bool := (0x8018 ≤ off && off ≤ 0x8030) || (0x8040 ≤ off && off ≤ 0x8068)

/-- The register a source reaches at an address: LDR_ and the banked registers of BFP_0 by the requester's
partition. -/
def State.resolve (s : State) (src : Src) (b : Blk) (i off : Nat) : Blk × Nat × Nat :=
  if b = .ldr then (.ldr, s.bank src .ldr, off)
  else if b = .bfp ∧ i = 0 ∧ banked off = true then (.fab, s.bank src .fab, off)
  else (b, i, off)

/-- Whether every byte of [a, a+n) lies in a granule assigned to partition p (R260). -/
def State.owns (s : State) (p a n : Nat) : Bool :=
  decide (a + n ≤ 0x018000000000) &&
    (List.range ((a + n - 1) / 2 ^ 30 - a / 2 ^ 30 + 1)).all fun j => s.granPart (a / 2 ^ 30 + j) == p

/-- Every byte of [a, a+n) lies in a granule of a partition that satisfies ok. -/
def State.inGranules (s : State) (ok : Nat → Bool) (a n : Nat) : Bool :=
  decide (a + n ≤ 0x018000000000) &&
    (List.range ((a + n - 1) / 2 ^ 30 - a / 2 ^ 30 + 1)).all fun j => ok (s.granPart (a / 2 ^ 30 + j))

/-! ## CRCs -/

/-- One byte into CRC-16: polynomial 0x1021, most significant bit first (R153). -/
def crc16Byte (c : BitVec 16) (b : Byte) : BitVec 16 :=
  (List.range 8).foldl (fun c _ => if c.msb then (c <<< 1) ^^^ 0x1021#16 else c <<< 1) (c ^^^ (b.setWidth 16 <<< 8))

/-- CRC-16 of a byte string: initial value 0xFFFF, no final exclusive-or (R153). -/
def crc16 (bs : List Byte) : Nat := (bs.foldl crc16Byte 0xFFFF#16).toNat

/-- One byte into a reflected 32-bit CRC with the reflected polynomial `p`. -/
def crc32Byte (p : Word32) (c : Word32) (b : Byte) : Word32 :=
  (List.range 8).foldl (fun c _ => if c.getLsbD 0 then (c >>> 1) ^^^ p else c >>> 1) (c ^^^ b.setWidth 32)

/-- CRC-32C: polynomial 0x1EDC_6F41 reflected, initial value and final exclusive-or all ones (R153). -/
def crc32c (bs : List Byte) : Nat := ((bs.foldl (crc32Byte 0x82F63B78#32) 0xFFFFFFFF#32) ^^^ 0xFFFFFFFF#32).toNat

/-- CRC-32: polynomial 0x04C1_1DB7 reflected, initial value and final exclusive-or all ones (R361). -/
def crc32 (bs : List Byte) : Nat := ((bs.foldl (crc32Byte 0xEDB88320#32) 0xFFFFFFFF#32) ^^^ 0xFFFFFFFF#32).toNat

/-- Whether the CRC-16 stored at offset o of a byte string is that of the bytes before it. -/
def crc16Ok (bs : List Byte) (o : Nat) : Bool := leAt bs o 2 == crc16 (slice bs 0 o)

/-- A byte string with its own CRC-16 stored at offset o over the bytes before it. -/
def withCrc16 (bs : List Byte) (o : Nat) : List Byte := putAt bs o (leBytes 2 (crc16 (bs.take o)))

/-! ## Events to the host (R428) -/

/-- The entry of source v in port n's event table. -/
def State.evt (s : State) (n v : Nat) : Word := s.reg .trl n (0x400 + 8 * v)

/-- The class of a message (R419): 0 REQ, 1 RSP, 2 SNP. -/
def TMsg.cls : TMsg → Nat
  | .evt .. | .rd .. | .wr .. => 0
  | .cpl .. | .snpRsp .. => 1
  | .snp .. => 2

/-- The size of a message in the 16-byte units of credits (R415, R418). -/
def TMsg.units : TMsg → Nat
  | .cpl _ _ d | .wr _ d => 1 + (d.length + 15) / 16
  | _ => 1

/-- Credits before CREDIT_INIT: none. -/
def noCr (_ : Nat) : Nat := 0

/-- A message as R418 lays it out, padded to a multiple of 16 bytes. DESIGN CHOICE (log entry 43): an answer's SPACE and ADDR are 0. -/
def TMsg.bytes (m : TMsg) : List Byte :=
  let f := fun (ty sp len st tag addr : Nat) (d : List Byte) => leBytes 1 ty ++ leBytes 1 sp ++ leBytes 1 len ++ leBytes 1 st ++
    leBytes 2 tag ++ leBytes 2 0 ++ leBytes 8 addr ++ padTo ((d.length + 15) / 16 * 16) d
  match m with
  | .evt v x => f 6 0 0 0 0 (v + x * 2 ^ 32) []
  | .cpl tag st d => f 7 0 d.length st tag 0 d
  | .snp tag a inv => f (if inv then 8 else 9) 1 0 0 tag a []
  | .snpRsp tag => f 10 0 0 0 tag 0 []
  | .rd tag a len line => f (if line then 3 else 1) 3 len 0 tag a []
  | .wr a d => f 2 3 d.length 0 0 a d

/-- A flit's 12-byte header (R415). -/
def traisHead (f : TraisFlit) : Nat :=
  f.ftype.toNat + f.nmsg.toNat * 2 ^ 2 + f.seq.toNat * 2 ^ 10 + f.ack.toNat * 2 ^ 22 + (if f.nak then 2 ^ 34 else 0) +
    f.crCls.val * 2 ^ 46 + f.crCnt.toNat * 2 ^ 48 + f.lsub.toNat * 2 ^ 56

/-- The CRC-32 a flit should carry over its 252 bytes (R415). -/
def traisSum (f : TraisFlit) : Word32 := BitVec.ofNat 32 (crc32 (leBytes 12 (traisHead f) ++ padTo 240 f.data))

/-- A flit given its CRC-32. -/
def traisSeal (f : TraisFlit) : TraisFlit := { f with crc := traisSum f }

/-- The flits a port sends: a DATA flit with one message, an IDLE flit that acknowledges or asks for a replay, and CREDIT_INIT. -/
def traisData (seq ack : Nat) (m : TMsg) : TraisFlit :=
  traisSeal ⟨0, false, 0, 1, BitVec.ofNat 12 seq, BitVec.ofNat 12 ack, false, 0, 0, 1, 0, padTo 240 m.bytes⟩
def traisIdle (ack : Nat) (nak : Bool) : TraisFlit :=
  traisSeal ⟨0, false, 0, 0, 0, BitVec.ofNat 12 ack, nak, 0, 0, 0, 0, List.replicate 240 0⟩
def traisCredit (seq ack : Nat) : TraisFlit :=
  traisSeal ⟨0, false, 0, 2, BitVec.ofNat 12 seq, BitVec.ofNat 12 ack, false, 0, 0, 0, 2, List.replicate 240 0⟩

/-- R416, R420: send the messages of a list in order within each class, as far as credits go; RSP always. One message goes in
one flit (DESIGN CHOICE, log entry 43); the last 1,024 flits are kept. -/
def pumpMsgs (n : Nat) : List TMsg → Act
  | [] => skip
  | m :: r => fun s =>
    let p := s.port n
    let have_ := SMap.get noCr p.credits m.cls
    if m.cls ≠ 1 ∧ (have_ < m.units ∨ p.txq.any (fun x => x.cls == m.cls) = true) then
      seqA [modPort n fun p => { p with txq := p.txq ++ [m] }, pumpMsgs n r] s
    else seqA [modPort n fun p => { p with
          credits := if m.cls = 1 then p.credits else SMap.set noCr p.credits m.cls (have_ - m.units)
          txSeq := (p.txSeq + 1) % 4096
          kept := (p.kept ++ [traisData p.txSeq p.rxSeq m]).drop (p.kept.length - 1023) },
        emit (.traisFlits n [traisData p.txSeq p.rxSeq m]), pumpMsgs n r] s

/-- Send what waits at port n. -/
def pumpPort (n : Nat) : Act := fun s =>
  let l := (s.port n).txq
  seqA [modPort n fun p => { p with txq := [] }, pumpMsgs n l] s

/-- Send a message on port n, where it is UP. -/
def traisSend (n : Nat) (m : TMsg) : Act :=
  whenA (fun s => s.fld F.TRL_LNK_STS_STATE n == 2)
    (seqA [modPort n fun p => { p with txq := p.txq ++ [m] }, pumpPort n])

/-- A vector is in holdoff on a port. -/
def TPort.inHoldoff (p : TPort) (vec : Nat) : Bool := p.holdoff.any fun x => x.1 == vec

/-- Send the EVT of source v on port n and start its vector's holdoff. -/
def sendEvt (n v data : Nat) : Act := fun s =>
  let vec := F.TRL_EVT_VECTOR.of (s.evt n v)
  seqA [traisSend n (.evt vec (data % 2 ^ 32)),
    whenA (fun s => s.fld F.TRL_CFG_HOLDOFF n != 0) (fun s => modPort n (fun p => { p with
      holdoff := p.holdoff.filter (fun x => x.1 != vec) ++ [(vec, s.mile)] }) s)] s

/-- An event of source v on port n: sent if its entry has EN set, the port is UP, and neither MASK nor holdoff
stands; otherwise PEND is set and the latest data kept. -/
def portEvent (n v data : Nat) : Act := fun s =>
  let e := s.evt n v
  if F.TRL_EVT_EN.of e = 1 then
    if F.TRL_EVT_MASK.of e = 1 ∨ (s.port n).inHoldoff (F.TRL_EVT_VECTOR.of e) = true
        ∨ s.fld F.TRL_LNK_STS_STATE n ≠ 2 then
      seqA [setF (F.TRL_EVT_PEND.nth v) n 1,
        modPort n fun p => { p with evData := SMap.set (fun _ => 0) p.evData v data }] s
    else sendEvt n v data s
  else []

/-- An event of source v whose unit lies in partition p. -/
def raiseEvent (p v data : Nat) : Act := withA (fun s => s.partPorts p) fun l => forA l fun n => portEvent n v data

/-- Event source 98: BIL_IMG_STS or BIL_BIND_STS.SEQ of die d has changed. -/
def dieEvent (d : Nat) : Act := withA (fun s => s.part d) fun p => raiseEvent p 98 d

/-- LDR_SWAP_STS.STATE of partition p changes, with event source 99. -/
def swapState (p st : Nat) : Act := seqA [setF F.LDR_SWAP_STS_STATE p st, raiseEvent p 99 st]

/-! ## The event log (R452–R454) -/

/-- A record added to the log ring of 65,536 records, with event source 97 and the platform event of a record of SEV ERROR and
above (R458). DEDUCED (log entry 49): the event's record count is the number of records since manufacture. -/
def logPut (r : LogRec) : Act := fun s =>
  let r := { r with seq := s.nvm.logSeq, pos := s.nvm.pos }
  let n := (s.nvm.logSeq + 1) % 2 ^ 32
  seqA [modNvm fun x => { x with log := (if x.log.length ≥ 65536 then x.log.tail else x.log) ++ [r], logSeq := n },
    whenA (fun _ => 3 ≤ r.sev) (if s.keeper.evReceiver ≠ 0 then emit (.platformEvent s.keeper.evReceiver r)
      else modKeeper fun k => { k with evPending := k.evPending ++ [r] }),
    raiseEvent s.mgmt 97 n] s

/-- R451: a write of NVM words by Keeper firmware. Whether words fail their read-back three times over is free; each then takes a
spare word, and with none left WORN is set and logged and the write is lost. -/
def nvmWrite (act : Act) : Act := fun s =>
  let bad := Config.nvmFails s.free
  seqA [draw,
    if bad = 0 then act
    else if bad ≤ s.nvm.spare then seqA [modNvm fun n => { n with spare := n.spare - bad, remap := n.remap + bad }, act]
    else whenA (fun s => !s.nvm.worn) (seqA [modNvm fun n => { n with worn := true },
      logPut ⟨0, 10, Config.freeNat s.free / 0x8000 % 5, 0x8000 + Config.freeNat s.free % 0x8000, 0xFFFFFFFF, 0x3F, 0, s.mile, 0, 0,
        (List.range 30).map (Config.freeByte s.free)⟩])] s

/-- The Keeper adds a record to the log. -/
def logAdd (r : LogRec) : Act := nvmWrite (logPut r)

/-- A record that arises on a die (some d) or on the K-die: logged, or held while the Keeper is down; beyond the
hold (256 records on a die, 64 in the K-die) it is dropped and counted. -/
def logRec (d : Option Nat) (r : LogRec) : Act := fun s =>
  if s.keeperUp then logAdd r s
  else match d with
  | some d => modDie d (fun x =>
      if x.logHold.length < 256 then { x with logHold := x.logHold ++ [r] }
      else { x with logDropped := x.logDropped + 1 }) s
  | none => modKeeper (fun k =>
      if k.kHold.length < 64 then { k with kHold := k.kHold ++ [r] }
      else { k with kDropped := k.kDropped + 1 }) s

/-- A record of the event log: class, severity, code, unit, partition, job, handle, DETAIL bytes. -/
def logEv (d : Option Nat) (cls sev code unit part job : Nat) (h : Word32) (detail : List Byte) : Act := fun s =>
  logRec d ⟨0, cls, sev, code, BitVec.ofNat 32 unit, part, job, s.mile, 0, h, padTo 30 detail⟩ s

/-- R496: a refused register access is counted in SEC_VIOL and logged (SECURITY 0x0001). -/
def refuse (src : Src) (write : Bool) (b : Blk) (i off addr : Nat) : Act := fun s =>
  let p := (s.srcPart src).getD 0x3F
  seqA [bump F.SEC_VIOL_COUNT 0 1, setF F.SEC_VIOL_PART 0 p, setF F.SEC_VIOL_TYPE 0 b.code,
    logEv (dieOfInst b i) 8 2 1 noUnit p 0 0
      (leBytes 2 b.code ++ leBytes 1 p ++ leBytes 1 (if write then 1 else 0) ++ leBytes 4 0 ++ leBytes 8 addr)] s

/-- The device address of a register instance (R14). -/
def regAddr (b : Blk) (i off : Nat) : Nat :=
  match b with
  | .sch => 0x080000000000 + i * 0x1000000 + off
  | .pas => 0x080000010000 + i * 0x1000000 + off
  | .bil => 0x080000020000 + i * 0x1000000 + off
  | .cal => 0x080000030000 + i * 0x1000000 + off
  | .chk => 0x080000040000 + i * 0x1000000 + off
  | .stk => 0x080000050000 + i * 0x1000000 + off
  | .dma => 0x080000060000 + i * 0x1000000 + off
  | .til => 0x080000400000 + i / 8448 * 0x1000000 + i % 8448 * 0x400 + off
  | .kpr => 0x080100000000 + off
  | .mon => 0x080100010000 + off
  | .thm => 0x080100020000 + off
  | .pwr => 0x080100030000 + off
  | .sec => 0x080100040000 + off
  | .upd => 0x080100050000 + off
  | .msc => 0x080200000000 + off
  | .ldr => 0x080200010000 + off
  | .eth => 0x080200020000 + i * 0x1000 + off
  | .trl => 0x080200040000 + i * 0x10000 + off
  | .bfp => 0x080200080000 + i * 0x10000 + off
  | .prt => 0x080200200000 + i * 0x10000 + off
  | .fab => 0x080200080000 + off

/-- A register write from a source: refused under R496, discarded while the Keeper is down if it names a Keeper
block (R23), else `act`. -/
def guardW (src : Src) (b : Blk) (i off : Nat) (act : Act) : Act := fun s =>
  if b.isKeeper && !s.keeperUp then []
  else if s.admits src true b i off then act s
  else refuse src true b i off (regAddr b i off) s

/-- Store the RW fields of a command register (its WO and GO bits are not held). -/
def storeRW (b : Blk) (i off : Nat) (v : Word) : Act := writeReg b i off v

/-- A command register's GO: while `busy` is set it sets `lost` and does nothing else; otherwise the RW fields are
stored and, with GO (bit 0) set, the command runs. A write without GO stores the fields only. -/
def goCmd (src : Src) (b : Blk) (i off : Nat) (busy lost : Fld) (v : Word) (act : Act) : Act :=
  guardW src b i off fun s =>
    if bitsOf v 0 0 = 0 then storeRW b i off v s
    else if s.flag busy i then setF lost i 1 s
    else seqA [storeRW b i off v, act] s

end Sys2Proof.Machine
end

