-- ==== Sys2Proof/Machine/Flags.lean ====
section
/-!
DEFINITION. The arithmetic of the part: block formats and reserved codes (R30–R36, R551), ACC56 with its residue
(R40–R44), rounding and the generator (R49–R53), re-quantisation with outliers and the two block flags (R45–R48,
R54–R56, R117).
-/
namespace Sys2Proof.Machine

/-! ## Integers -/

/-- v restricted to lo..hi. -/
def clampI (v lo hi : Int) : Int := max lo (min v hi)

/-- The low n bits of a number as two's complement. -/
def sext (n v : Nat) : Int :=
  let u := v % 2 ^ n
  if 2 * u < 2 ^ n then (u : Int) else (u : Int) - 2 ^ n

/-- An integer as n bits of two's complement. -/
def tc (n : Nat) (v : Int) : Nat := (v % (2 ^ n : Int)).toNat

/-- v / d rounded to the nearest integer, a tie to the even one (R4), for d > 0. -/
def roundDiv (v d : Int) : Int :=
  let q := v / d
  let r := v % d
  if 2 * r < d then q else if d < 2 * r then q + 1 else if q % 2 = 0 then q else q + 1

/-- round(v × 2^e), RNE, for any sign of e. -/
def roundP2 (v e : Int) : Int := if 0 ≤ e then v * 2 ^ e.toNat else roundDiv v (2 ^ (-e).toNat)

/-- Whether m ≤ p × 2^t, for any sign of t. -/
def leP2 (m p : Nat) (t : Int) : Bool :=
  if 0 ≤ t then decide (m ≤ p * 2 ^ t.toNat) else decide (m * 2 ^ (-t).toNat ≤ p)

/-- The smallest integer t with m ≤ p × 2^t, for m > 0 and p > 0. -/
def fitExp (m p : Nat) : Int :=
  let top : Int := Nat.log2 m + 1
  (((List.range (Nat.log2 m + 2 + 64)).map fun i => top - (i : Int)).takeWhile (leP2 m p)).getLastD top

/-! ## The generator (R50–R52) -/

/-- mix of R51. -/
def mix (z : Word) : Word :=
  let z := (z ^^^ (z >>> 30)) * 0xBF58476D1CE4E5B9#64
  let z := (z ^^^ (z >>> 27)) * 0x94D049BB133111EB#64
  z ^^^ (z >>> 31)

/-- seed of R51. -/
def seedOf (handle seed : Word32) (mile : Word) (stage d x y : Nat) : Word :=
  let s := mix ((handle.setWidth 64 <<< 32) ||| seed.setWidth 64)
  let s := mix (s ^^^ mile)
  let s := mix (s ^^^ BitVec.ofNat 64 (stage * 2 ^ 24 ||| d * 2 ^ 14 ||| y * 2 ^ 7 ||| x))
  if s = 0 then 0x0000000100000001#64 else s

/-- next of R51. -/
def nextGen (s : Word) : Word :=
  let s := s ^^^ (s <<< 13)
  let s := s ^^^ (s >>> 7)
  s ^^^ (s <<< 17)

/-- A generator: its state and how many draws have been taken from it. -/
structure Gen where
  st : Word
  n : Nat
  deriving DecidableEq, Repr

/-- One 16-bit draw (R51): before the first draw and after every fourth, `next` is applied. -/
def Gen.draw (g : Gen) : Nat × Gen :=
  let st := if g.n % 4 = 0 then nextGen g.st else g.st
  ((st.toNat >>> (16 * (g.n % 4))) % 65536, ⟨st, g.n + 1⟩)

/-- The rounding modes' codes (R49). -/
def rne : Nat := 0
def rsr : Nat := 1
def rtz : Nat := 2

/-- The RSR addend of R50 for a draw r and k discarded bits. -/
def rsrAddend (r k : Nat) : Nat := if k ≤ 16 then r >>> (16 - k) else r <<< (k - 16)

/-- v / 2^k under a mode of R49, k > 0, with the generator after it: RSR takes one draw. -/
def roundBy (mode : Nat) (v : Int) (k : Nat) (g : Gen) : Int × Gen :=
  if mode = rsr then
    let d := g.draw
    ((v + rsrAddend d.1 k) / 2 ^ k, d.2)
  else if mode = rtz then (v.tdiv (2 ^ k), g)
  else (roundDiv v (2 ^ k), g)

/-- v × 2^−t under a mode: exact and without a draw when t ≤ 0 (R49). -/
def roundAt (mode : Nat) (v t : Int) (g : Gen) : Int × Gen :=
  if t ≤ 0 then (v * 2 ^ (-t).toNat, g) else roundBy mode v t.toNat g

/-! ## Block formats (R30–R36) -/

/-- A decoded block: its exponent code and its 32 mantissas. -/
structure Block where
  e : Nat
  m : List Int
  deriving DecidableEq, Repr

/-- The zero block. -/
def Block.zero : Block := ⟨0, List.replicate 32 0⟩

/-- A consumer takes a block as all zero (R35). -/
def Block.isZero (b : Block) : Bool := b.e == 0 || b.m.all (· == 0)

/-- Mantissa bits of a format code (R31, R36). -/
def fmtBits (f : Nat) : Nat := [0, 2, 4, 8, 16].getD f 0

/-- Largest positive and most negative mantissa of a format (R46). -/
def fmtP (f : Nat) : Nat := [0, 1, 7, 127, 32767].getD f 0
def fmtN (f : Nat) : Int := [0, -1, -8, -128, -32768].getD f 0

/-- Bytes of a block's mantissas, the offset of the exponents, and the segment size (R31). -/
def fmtBlkBytes (f : Nat) : Nat := fmtBits f * 4
def fmtExpOff (f : Nat) : Nat := fmtBlkBytes f * 16
def fmtSeg (f : Nat) : Nat := fmtExpOff f + 16

/-- The stored code of element i of the mantissas at offset o (R32). -/
def mantCode (f : Nat) (bs : List Byte) (o i : Nat) : Nat :=
  match f with
  | 1 => ((bs.getD (o + i / 4) 0).toNat >>> (2 * (i % 4))) % 4
  | 2 => ((bs.getD (o + i / 2) 0).toNat >>> (4 * (i % 2))) % 16
  | 3 => (bs.getD (o + i) 0).toNat
  | _ => leAt bs (o + 2 * i) 2

/-- A mantissa code as a value: two's complement; the reserved Y2 code 0b10 is taken as 0 (R33). -/
def mantVal (f c : Nat) : Int := if f = 1 ∧ c = 2 then 0 else sext (fmtBits f) c

/-- Decode a block from its exponent code and its mantissas at offset o: the block as a consumer takes it (an
exponent of 0xFF is taken as 0xFE) and the reserved codes counted (R33, R34, R551). -/
def decBlock (f e : Nat) (bs : List Byte) (o : Nat) : Block × Nat :=
  if e = 0 then (Block.zero, 0)
  else
    let cs := (List.range 32).map (mantCode f bs o)
    (⟨min e 0xFE, cs.map (mantVal f)⟩,
      (if e = 0xFF then 1 else 0) + (if f = 1 then cs.countP (· == 2) else 0))

/-- Decode a segment of format f: its 16 blocks and the reserved codes counted. -/
def decSeg (f : Nat) (bs : List Byte) : List Block × Nat :=
  let l := (List.range 16).map fun b => decBlock f (bs.getD (fmtExpOff f + b) 0).toNat bs (b * fmtBlkBytes f)
  (l.map Prod.fst, (l.map Prod.snd).sum)

/-- The mantissas of a block as bytes (R32). -/
def encMants (f : Nat) (m : List Int) : List Byte :=
  match f with
  | 1 => (List.range 8).map fun j => BitVec.ofNat 8 (((List.range 4).map fun i => tc 2 (m.getD (4 * j + i) 0) * 4 ^ i).sum)
  | 2 => (List.range 16).map fun j => BitVec.ofNat 8 (tc 4 (m.getD (2 * j) 0) + 16 * tc 4 (m.getD (2 * j + 1) 0))
  | 3 => (List.range 32).map fun i => BitVec.ofNat 8 (tc 8 (m.getD i 0))
  | _ => (List.range 32).flatMap fun i => leBytes 2 (tc 16 (m.getD i 0))

/-- A segment as bytes: mantissas, then exponents (R31). -/
def encSeg (f : Nat) (bs : List Block) : List Byte :=
  bs.flatMap (fun b => encMants f b.m) ++ bs.map fun b => BitVec.ofNat 8 b.e

/-- Format codes a recipe may name for a stage's input and output (R36, R73). -/
def blockFmt (f : Nat) : Bool := 1 ≤ f && f ≤ 4

/-! ## ACC56 (R40–R44) -/

/-- VAL of an ACC56 word. -/
def accVal (w : Word) : Int := sext 56 w.toNat

/-- RES of an ACC56 word. -/
def accRes (w : Word) : Nat := bitsOf w 58 56

/-- The least non-negative remainder modulo 7. -/
def mod7 (v : Int) : Nat := (v % 7).toNat

/-- An ACC56 word of a value, with its residue. -/
def accWord (v : Int) : Word := BitVec.ofNat 64 (tc 56 v + mod7 v * 2 ^ 56)

/-- A word whose residue does not match its value, or is the invalid code 7: a residue event (R43). -/
def accBad (w : Word) : Bool := accRes w != mod7 (accVal w)

/-- A block with a residue event. -/
def AccBlk.bad (b : AccBlk) : Bool := b.w.any accBad

/-- An ACC56 block of exact values. -/
def accOf (f : Int) (vs : List Int) : AccBlk := ⟨f, vs.map accWord⟩

/-- The values of a block. -/
def accVals (b : AccBlk) : List Int := b.w.map accVal

/-- Fits 56-bit two's complement. -/
def fits56 (v : Int) : Bool := decide (-(2 ^ 55) ≤ v) && decide (v < 2 ^ 55)

/-- The fewest k such that floor(v / 2^k) and ceil(v / 2^k) fit 56 bits for every v (R44). -/
def rescaleBits (vs : List Int) : Nat :=
  let top := (vs.map fun v => Nat.log2 v.natAbs + 1).foldl max 1
  ((List.range (top + 1)).find? fun k =>
    vs.all fun v => fits56 (v / 2 ^ k) && fits56 (-((-v) / 2 ^ k))).getD top

/-- Round a list element by element, k > 0 bits away, in element order (R52). -/
def roundList (mode k : Nat) : List Int → Gen → List Int × Gen
  | [], g => ([], g)
  | v :: r, g =>
    let a := roundBy mode v k g
    let b := roundList mode k r a.2
    (a.1 :: b.1, b.2)

/-- R44: the sum of two ACC56 blocks, whether it rescaled, and the generator after it. -/
def accAdd (mode : Nat) (a b : AccBlk) (g : Gen) : AccBlk × Bool × Gen :=
  let f := min a.f b.f
  let vs := (accVals a).zipWith
    (fun x y => x * 2 ^ (a.f - f).toNat + y * 2 ^ (b.f - f).toNat) (accVals b)
  let k := rescaleBits vs
  if k = 0 then (accOf f vs, false, g)
  else
    let r := roundList mode k vs g
    (accOf (f + k) r.1, true, r.2)

/-- Add a list of blocks to a bank's blocks one by one, counting the rescales. -/
def accAddAll (mode : Nat) : List AccBlk → List AccBlk → Gen → List AccBlk × Nat × Gen
  | a :: r, b :: t, g =>
    let x := accAdd mode a b g
    let y := accAddAll mode r t x.2.2
    (x.1 :: y.1, (if x.2.1 then 1 else 0) + y.2.1, y.2.2)
  | l, _, g => (l, 0, g)

/-- An ACC56 block in its stored form of 264 bytes (R41). -/
def encAcc (b : AccBlk) : List Byte :=
  b.w.flatMap (fun w => leBytes 8 w.toNat) ++ leBytes 8 (tc 16 b.f + 9 * 65536)

/-- An ACC56 block from its stored form at offset o. -/
def decAcc (bs : List Byte) (o : Nat) : AccBlk :=
  ⟨sext 16 (leAt bs (o + 256) 2), (List.range 32).map fun i => BitVec.ofNat 64 (leAt bs (o + 8 * i) 8)⟩

/-! ## Re-quantisation (R45–R48, R54–R56) -/

/-- The index and magnitude of the largest magnitude of a list, the lower index first on a tie. -/
def rank1 (vs : List Int) : Nat × Nat :=
  vs.zipIdx.foldl (fun a p => if a.2 < p.1.natAbs then (p.2, p.1.natAbs) else a) (0, (vs.headD 0).natAbs)

/-- The rank-2 magnitude: the largest of the elements other than the rank-1 element. -/
def rank2 (vs : List Int) : Nat :=
  ((vs.zipIdx.filter fun p => p.2 != (rank1 vs).1).map fun p => p.1.natAbs).foldl max 0

/-- One block re-quantised. -/
structure RqBlk where
  blk : Block
  /-- The outlier: element index, its exact residual, and the power of 2 above 2^F (0, or t where t < 0) the residual counts. -/
  out : Option (Nat × Int × Int)
  under : Bool
  sat : Bool
  deriving DecidableEq, Repr

/-- The mantissas of a block at scale t (R46): the outlier, if element `o` is one, takes the clamped RNE value and
no draw; every other element is rounded by the mode and clamped. The Bool says that some element was clamped. -/
def rqMants (p : Nat) (n : Int) (mode : Nat) (t : Int) (o : Option Nat) :
    List (Int × Nat) → Gen → List Int × Bool × Gen
  | [], g => ([], false, g)
  | (v, i) :: r, g =>
    let a := if o = some i then (roundP2 v (-t), g) else roundAt mode v t g
    let m := clampI a.1 n p
    let b := rqMants p n mode t o r a.2
    (m :: b.1, (m != a.1) || b.2.1, b.2.2)

/-- R45, R46: re-quantise the values of a block of scale F to format `fmt` under OUTFIT or MAXFIT. -/
def rqBlock (fmt : Nat) (outfit : Bool) (mode : Nat) (f : Int) (vs : List Int) (g : Gen) : RqBlk × Gen :=
  if vs.all (· == 0) then (⟨Block.zero, none, false, false⟩, g)
  else
    let p := fmtP fmt
    let n := fmtN fmt
    let r1 := rank1 vs
    let m := if outfit ∧ rank2 vs ≠ 0 then rank2 vs else r1.2
    let e0 := fitExp m p + f + 127
    let lim := decide (254 < e0)
    let e := if 254 < e0 then 254 else if e0 < 1 then 1 else e0
    let t := e - 127 - f
    let v1 := vs.getD r1.1 0
    let q1 := roundP2 v1 (-t)
    let o := if outfit ∧ lim = false ∧ (q1 < n ∨ (p : Int) < q1) then some r1.1 else none
    let ms := rqMants p n mode t o vs.zipIdx g
    if ms.1.all (· == 0) then (⟨Block.zero, none, true, false⟩, ms.2.2)
    else (⟨⟨e.toNat, ms.1⟩, o.map fun i => (i, v1 * 2 ^ (-t).toNat - ms.1.getD i 0 * 2 ^ t.toNat, min t 0), false, lim && ms.2.1⟩, ms.2.2)

/-- Re-quantise blocks one after another, in block order (R52). -/
def rqBlocks (fmt : Nat) (outfit : Bool) (mode : Nat) : List AccBlk → Gen → List RqBlk × Gen
  | [], g => ([], g)
  | b :: r, g =>
    let x := rqBlock fmt outfit mode b.f (accVals b) g
    let y := rqBlocks fmt outfit mode r x.2
    (x.1 :: y.1, y.2)

/-! ## Outlier pairs (R116, R117, R122) -/

/-- A pair: element index in the segment, exponent code, Y16 mantissa. -/
structure Pair where
  index : Nat
  exp : Nat
  mant : Int
  deriving DecidableEq, Repr

/-- R117: the pair that carries residual R in units of 2^(F + u), u ≤ 0, never finer than 2^F. DEDUCED (log entry 177): where
t < 0 the exact residual of R48 is no integer in units of 2^F, and is rounded to them. -/
def pairOf (index : Nat) (f r u : Int) : Pair :=
  let s : Int := max 0 (fitExp r.natAbs 32767 + u)
  let e := f + 127 + s
  if e < 1 then ⟨index, 1, roundP2 r (f + 126 + u)⟩
  else if 254 < e then ⟨index, 254, clampI (roundP2 r (f - 127 + u)) (-32768) 32767⟩
  else ⟨index, e.toNat, roundP2 r (u - s)⟩

/-- The pair word of R116. -/
def encPair (p : Pair) : List Byte := leBytes 8 (p.index + tc 16 p.mant * 2 ^ 16 + p.exp * 2 ^ 32)

/-- A pair from its word. -/
def decPair (v : Nat) : Pair := ⟨nbits v 8 0, nbits v 39 32, sext 16 (nbits v 31 16)⟩

/-- The outlier list of R116. -/
def encList (fmt : Nat) (esc clip : Bool) (normal spill : List Pair) : List Byte :=
  leBytes 8 (normal.length + spill.length * 2 ^ 8 + fmt * 2 ^ 16 + (if clip then 2 ^ 20 else 0) +
    (if esc then 2 ^ 21 else 0)) ++ (normal ++ spill).flatMap encPair

/-- An outlier list read from bytes at offset o: format, normal pairs, spill pairs. -/
def decList (bs : List Byte) (o : Nat) : Nat × List Pair × List Pair :=
  let h := leAt bs o 8
  let ps := (List.range (nbits h 4 0 + nbits h 12 8)).map fun i => decPair (leAt bs (o + 8 + 8 * i) 8)
  (nbits h 19 16, ps.take (nbits h 4 0), ps.drop (nbits h 4 0))

/-- Whether |r1| × 2^f1 exceeds |r2| × 2^f2. -/
def resGt (r1 f1 r2 f2 : Int) : Bool :=
  let f := min f1 f2
  decide (r2.natAbs * 2 ^ (f2 - f).toNat < r1.natAbs * 2 ^ (f1 - f).toNat)

/-- Insert an outlier (index, residual, F, u) by R122's ranking: larger first, ties by lower index. -/
def insOut (x : Nat × Int × Int × Int) : List (Nat × Int × Int × Int) → List (Nat × Int × Int × Int)
  | [] => [x]
  | y :: r =>
    if resGt x.2.1 (x.2.2.1 + x.2.2.2) y.2.1 (y.2.2.1 + y.2.2.2) then x :: y :: r
    else y :: insOut x r

/-- A segment's outliers, ranked by R122. -/
def rankOuts (bs : List AccBlk) (rs : List RqBlk) : List (Nat × Int × Int × Int) :=
  ((rs.zip bs).zipIdx.filterMap fun p =>
    p.1.1.out.map fun o => (32 * p.2 + o.1, o.2.1, p.1.2.f, o.2.2)).foldl (fun l x => insOut x l) []

/-! ## Alignment and the outlier pass (R74, R75, R118) -/

/-- E_A: the largest exponent among the non-zero blocks (R74). -/
def alignExp (bs : List Block) : Nat := ((bs.filter fun b => !b.isZero).map Block.e).foldl max 0

/-- The drive values of one block under R74. -/
def driveBlock (ea x : Nat) (b : Block) : List Int :=
  if b.isZero then List.replicate 32 0 else b.m.map fun m => roundP2 m ((x : Int) - (ea - b.e : Nat))

/-- Planes of an MVM (R75): 2 for Y2, width + X otherwise. -/
def planesOf (f x : Nat) : Nat := if f = 1 then 2 else fmtBits f + x

/-- Whether plane b drives a row with drive value a (R75). -/
def driven (y2 : Bool) (planes b : Nat) (a : Int) : Bool :=
  if y2 then (if b = 0 then a == 1 else a == -1) else nbit (tc planes a) b

/-- The signed significance of plane b (R75). -/
def signif (y2 : Bool) (planes b : Nat) : Int :=
  if y2 then (if b = 0 then 1 else -1) else if b + 1 = planes then -(2 ^ b) else 2 ^ b

/-- The rows driven in plane b. -/
def rowsIn (y2 : Bool) (planes : Nat) (drives : List Int) (b : Nat) : Nat := drives.countP (driven y2 planes b)

/-- R118: the drive values of an outlier pass over both segments' normal pairs, and its E_P; none without pairs. A pair with MANT 0 bounds
no E_P. DESIGN CHOICE (log entry 222): where every pair has MANT 0, for which no smallest E_P exists, it is the largest exponent less 64, and the drives are zeros. -/
def passDrives (p0 p1 : List Pair) : Option (List Int × Int) :=
  let ps := p0.map (fun p => (p.index, p)) ++ p1.map fun p => (512 + p.index, p)
  if ps.isEmpty then none
  else
    let live := ps.filter fun p => p.2.mant != 0
    let need := (if live.isEmpty then ps else live).map fun p => (p.2.exp : Int) + fitExp p.2.mant.natAbs 127
    let ep := need.foldl max (need.headD 0)
    some ((List.range 1024).map (fun r =>
      match ps.find? (fun p => p.1 == r) with
      | some p => roundP2 p.2.mant ((p.2.exp : Int) - ep)
      | none => 0), ep)

end Sys2Proof.Machine
end

