-- ==== Sys2Proof/Machine/Operands.lean ====
section
/-!
DEFINITION. Operand forms: the sequencer's operands (R106, R107), the recipe
entry (R160) with the checks of R63 and R165 on its codes, and the RCP field of PARAM (R552).
-/
namespace Sys2Proof.Machine

/-! ## Sequencer operands -/

/-- Register sN: s0 reads as zero (R106). -/
def Core.sreg (c : Core) (n : Nat) : Word32 := if n = 0 then 0 else c.sregs.getD n 0

/-- Write register sN: writes of s0 are discarded (R106). -/
def Core.setSreg (c : Core) (n : Nat) (v : Word32) : Core :=
  if n = 0 then c else { c with sregs := (List.range 16).map fun i => if i = n then v else c.sregs.getD i 0 }

/-- The second operand of an ALU operation (R106, R107): with IMM[17] set the register IMM[3:0], otherwise IMM[16:0]
sign-extended. -/
def Core.operand (c : Core) (imm : BitVec 18) : Word32 :=
  if imm.getLsbD 17 then c.sreg (imm.toNat % 16) else (imm.setWidth 17).signExtend 32

/-! ## Recipes -/

/-- A recipe entry's fields from its 64 bytes (R160). -/
def decRecipe (bs : List Byte) : Recipe :=
  let f := leAt bs 2 1
  let m := leAt bs 3 1
  let o := leAt bs 4 1
  { version := leAt bs 0 2, inFmt := f % 16, outFmt := f / 16
    expMode := nbits m 0 0, rqRnd := nbits m 2 1, accRnd := nbits m 4 3, redRnd := nbits m 6 5
    alignExt := nbits o 1 0, ovfPol := nbits o 3 2, tierSub := nbit o 4
    outMax := leAt bs 5 1 % 64
    pasUnder := leAt bs 6 2, pasSat := leAt bs 8 2, stgUnder := leAt bs 12 4, stgSat := leAt bs 16 4
    capFactor := leAt bs 20 2, capPol := leAt bs 22 1 % 2, exitThr := leAt bs 24 2 }

/-- The CRC-16 of a recipe entry holds. -/
def recipeCrcOk (bs : List Byte) : Bool := crc16Ok bs 0x3E

/-- A format code R36 reserves. -/
def fmtReserved (f : Nat) : Bool := (5 ≤ f && f ≤ 7) || 10 ≤ f

/-- A recipe with no reserved code and only the rounding modes R53 allows (R63 CODE 4, R165 check 11). -/
def recipeCodesOk (r : Recipe) : Bool :=
  !fmtReserved r.inFmt && !fmtReserved r.outFmt && r.rqRnd != 3 && r.accRnd < 2 && r.redRnd < 2 &&
    r.alignExt != 3 && r.ovfPol != 3 && r.outMax ≤ 32

/-- The RCP field of PARAM, 32 bytes (R552). -/
def encRcp (r : Recipe) (rng wx : Nat) : List Byte :=
  leBytes 1 (r.inFmt + 16 * r.outFmt) ++
    leBytes 1 (r.expMode + 2 * r.rqRnd + 8 * r.accRnd + 32 * r.redRnd) ++
    leBytes 1 (r.alignExt + 4 * r.ovfPol + (if r.tierSub then 16 else 0)) ++
    leBytes 1 r.outMax ++ leBytes 1 rng ++ leBytes 1 wx ++ leBytes 2 r.version ++ leBytes 24 0

end Sys2Proof.Machine
end

