-- ==== Sys2Proof/Machine/Coherence.lean ====
section
/-!
DEFINITION. Memory as the part's units reach it: the owner die of a line (R264, R265), the snoops that go before a
unit's read or write of a line the host caches (R424), and poison (R281); the lines a stream cache slice holds, what units
read and write there, and prefetches (R268–R273).
-/
namespace Sys2Proof.Machine

/-- The owner die of the line at device address a (R265). -/
def State.owner (s : State) (a : Nat) : Nat :=
  match (List.range 256).find? fun i =>
    let w := s.win i
    w.valid && w.base ≤ a / 4096 && a / 4096 ≤ w.limit with
  | some i => (s.win i).owner
  | none => dieOfStack (a / 2 ^ 37)

/-- The 64-byte host lines that [a, a+n) touches. -/
def hostLines (a n : Nat) : List Nat := (List.range ((a + n + 63) / 64 - a / 64)).map fun i => a / 64 + i

/-- The snoop filter's entry for a host line, with the die that holds it. -/
def State.sfEntry (s : State) (line : Nat) : Option (Nat × SfEnt) :=
  let d := s.owner (line * 64)
  ((s.filter d).find? fun e => e.line == line).map fun e => (d, e)

/-- The host lines of a range that a host port holds in E. -/
def State.heldE (s : State) (a n : Nat) : List (Nat × SfEnt) :=
  (hostLines a n).filterMap fun l => (s.sfEntry l).filter fun p => p.2.excl

/-- The host lines of a range that some port holds in S. -/
def State.heldS (s : State) (a n : Nat) : List (Nat × SfEnt) :=
  (hostLines a n).filterMap fun l => (s.sfEntry l).filter fun p => !p.2.excl

/-- The offset of a host line in port n's ring window: that of the first slot mapped to its granule. -/
def State.ringOff (s : State) (n line : Nat) : Nat :=
  let g := line * 64 / 2 ^ 30
  ((List.range 16).find? fun k => F.TRL_RWIN_VALID.of (s.reg .trl n (0x200 + 8 * k)) == 1 &&
    F.TRL_RWIN_GRANULE.of (s.reg .trl n (0x200 + 8 * k)) == g).elim 0 fun k => k * 2 ^ 30 + line * 64 % 2 ^ 30

/-- Send a snoop on a port: invalidate or recall. -/
def sendSnoop (n line : Nat) (inv : Bool) : Act := fun s =>
  let p := s.port n
  seqA [modPort n fun p => { p with snoops := p.snoops ++ [⟨p.snpTag, line, inv, s.mile⟩], snpTag := (p.snpTag + 1) % 65536 },
    bump F.TRL_SNP_SENT n 1, traisSend n (.snp p.snpTag (s.ringOff n line) inv)] s

/-- A snoop for a line is already outstanding on a port. -/
def State.snooping (s : State) (n line : Nat) : Bool := (s.port n).snoops.any fun x => x.line == line

/-- Recall the E copies of a list of lines, where no snoop for them is out already. -/
def recallE (l : List (Nat × SfEnt)) : Act :=
  forA l fun p => forA p.2.ports fun n => whenA (fun s => !s.snooping n p.2.line) (sendSnoop n p.2.line false)

/-- Invalidate the S copies of a list of lines and clear their filter entries. -/
def invalidateS (l : List (Nat × SfEnt)) : Act :=
  forA l fun p => seqA [forA p.2.ports fun n => sendSnoop n p.2.line true,
    modFilter p.1 fun f => f.filter fun e => e.line != p.2.line]

/-- R424: a unit's write of [a, a+n): an E copy's data is recalled first, S copies are invalidated. -/
def unitWrite (a n : Nat) (act : Act) : Act := fun s =>
  if (s.heldE a n).isEmpty then seqA [invalidateS (s.heldS a n), act] s else recallE (s.heldE a n) s

/-- Put bytes in stack memory, clearing the poison of every 32-byte word written whole; a word written in part
keeps it (R281). S copies of the host are invalidated first. -/
def putStack (a : Nat) (bs : List Byte) : Act := fun s =>
  seqA [invalidateS (s.heldS a bs.length), putBytes a bs,
    whenA (fun s => !s.poison.isEmpty) (eff fun s => .poison (s.poison.filter fun w =>
      !(decide (a ≤ w) && decide (w + 32 ≤ a + bs.length))))] s

/-- Mark the 32-byte word at w as poisoned. -/
def poisonWord (w : Nat) : Act := eff fun s =>
  .poison (s.poison.filter (fun x => x < w) ++ [w] ++ s.poison.filter fun x => w < x)

/-- The stack channel of a device address (R262). -/
def stackChannel (a : Nat) : Nat := (a / 256 % 32) ^^^ (a / 8192 % 32)

/-- The unit code of the stack channel that holds an address (R326). -/
def unitChannel (a : Nat) : Nat := 4 * 2 ^ 28 + dieOfStack (a / 2 ^ 37) * 2 ^ 22 + stackChannel (a % 2 ^ 37)

/-! ## Lines and slices (R268) -/

/-- The set and slice of a line (A / 256) as one key. -/
def setKey (line : Nat) : Nat := line / 16 % 1024 * 16 + (line % 16 ^^^ line / 16 % 16 ^^^ line / 256 % 16)

/-- The ways in service of a set of die d. -/
def State.ways (s : State) (d key : Nat) : Nat := 12 - (s.die d).badWays.count key

/-- The lines a set holds, most recently used first. -/
def Die.set (x : Die) (key : Nat) : List CLine := SMap.get (fun _ => []) x.cache key
def Die.putSet (x : Die) (key : Nat) (l : List CLine) : Die := { x with cache := SMap.set (fun _ => []) x.cache key l }

/-- A die's slice holds a line. -/
def State.hit (s : State) (d line : Nat) : Option CLine := ((s.die d).set (setKey line)).find? fun c => c.line == line

/-- The stack-attached die whose controller serves a line. -/
def lineDie (line : Nat) : Nat := dieOfStack (line * 256 / 2 ^ 37)

/-- Write a dirty line back: counted at the slice, its bytes at the stack. -/
def writeBack (d line : Nat) : Act :=
  seqA [bump F.STK_SC_WB_COUNT d 1, bumpW F.STK_BW_WR_BYTES (lineDie line) 256]

/-- Make a line the most recently used of its set, with its marks changed by `f`. -/
def touchLine (d line : Nat) (f : CLine → CLine) : Act := modDie d fun x =>
  let l := x.set (setKey line)
  match l.find? fun c => c.line == line with
  | some c => x.putSet (setKey line) (f c :: l.filter fun y => y.line != line)
  | none => x

/-- The line a full set evicts: the least recently used of those chosen first, else of all. -/
def victim (l : List CLine) : Option CLine :=
  match (l.filter CLine.evictFirst).getLast? with
  | some c => some c
  | none => l.getLast?

/-- Allocate a line in its set (R268), writing back a dirty victim. -/
def allocLine (d : Nat) (c : CLine) : Act := fun s =>
  let key := setKey c.line
  let l := (s.die d).set key
  if s.ways d key = 0 then []
  else if l.length < s.ways d key then modDie d (fun x => x.putSet key (c :: l)) s
  else match victim l with
    | some v => seqA [whenA (fun _ => v.dirty) (writeBack d v.line),
        modDie d fun x => x.putSet key (c :: l.filter fun y => y.line != v.line)] s
    | none => []

/-- R281: an uncorrectable word is poisoned, recorded and logged. -/
def badWord (a : Nat) (scrub : Bool) : Act := fun s =>
  let d := dieOfStack (a / 2 ^ 37)
  seqA [setF F.STK_ECC_ADDR_VALID d 1, setF F.STK_ECC_ADDR_ADDR d (a / 32), setB F.STK_ECC_ADDR_SCRUB d scrub, poisonWord a,
    logEv (some d) 12 3 1 (unitChannel a) (s.granPart (a / 2 ^ 30)) 0 0 (leBytes 8 a ++ leBytes 1 (if scrub then 1 else 0))] s

/-- R281: one 32-byte word of a fill: corrected and counted, or uncorrectable, poisoned, recorded and logged. -/
def fillWord (a : Nat) (e : Ecc) (scrub : Bool) : Act := fun s =>
  let d := dieOfStack (a / 2 ^ 37)
  if e = .uncorrectable ∨ s.poison.contains a = true then
    seqA [bump F.STK_ECC_CNT_UNCORR d 1, badWord a scrub] s
  else if e = .corrected then bump F.STK_ECC_CNT_CORR d 1 s
  else []

/-- The lines that [a, a+n) touches. -/
def linesOf (a n : Nat) : List Nat :=
  if n = 0 then [] else (List.range ((a + n + 255) / 256 - a / 256)).map fun i => a / 256 + i

/-- R281: the codes of a line's eight words as the stack returns it; a word that holds the poison mark is uncorrectable again. -/
def lineWords (line : Nat) (ecc : List Ecc) : Act := forA (List.range 8) fun i => fillWord (line * 256 + 32 * i) (ecc.getD i .ok) false

/-- R281: what the code finds in one word of a range read. DESIGN CHOICE (log entry 219): which word of the range it is is free. -/
def eccRead (a n : Nat) (e : Ecc) : Act := fun s =>
  if e = .ok ∨ n = 0 then []
  else seqA [draw, fillWord ((a + Config.freeNat s.free % n) / 32 * 32) e false] s

/-! ## Prefetching (R271–R273) -/

/-- Miss-queue entries in use at the slice of a line. -/
def State.missUsed (s : State) (d line : Nat) : Nat :=
  (s.die d).missQ.countP fun q => setKey (q.addr / 256) % 16 == setKey line % 16

/-- A line is on its way to die d. -/
def State.coming (s : State) (d line : Nat) : Bool :=
  (s.die d).missQ.any (fun q => q.addr / 256 == line) || (s.die d).pfQ.contains line

/-- Ask for a line as a prefetch: discarded if present or on its way; issued while fewer than 48 miss-queue entries are
in use, else it waits. -/
def prefetch (d line : Nat) : Act := fun s =>
  if (s.hit d line).isSome ∨ s.coming d line = true then []
  else if s.missUsed d line < 48 then
    seqA [bump F.STK_PF_CNT_ISSUED d 1,
      modDie d fun x => { x with missQ := x.missQ ++ [⟨0x3F, line * 256, false, .read 0, true⟩] }] s
  else modDie d (fun x => { x with pfQ := x.pfQ ++ [line] }) s

/-- Waiting prefetches that can now be issued. -/
def issueWaiting (d : Nat) : Act := fun s =>
  forA ((s.die d).pfQ.filter fun l => s.missUsed d l < 48) (fun l =>
    seqA [modDie d fun x => { x with pfQ := x.pfQ.filter fun y => y != l }, prefetch d l]) s

/-- The window that holds a line. -/
def State.winOf (s : State) (line : Nat) : Option Nat :=
  (List.range 256).find? fun i => (s.win i).valid && (s.win i).base ≤ line / 16 && line / 16 ≤ (s.win i).limit

/-- R271: two lines that a tracker may join: in one window, or outside windows in one 64 KiB. -/
def State.together (s : State) (a b : Nat) : Bool :=
  match s.winOf a, s.winOf b with
  | some i, some j => i == j
  | none, none => a / 256 == b / 256
  | _, _ => false

/-- R271: DEPTH lines ahead of a tracker's line. -/
def ahead (d line : Nat) (up : Bool) : Act := fun s =>
  let n := max 1 (min 64 (s.fld F.STK_PF_CTL_DEPTH d))
  let ls := ((List.range n).map fun i => if up then line + i + 1 else line - (i + 1)).filter fun l =>
    s.together line l && (up || decide (l < line))
  forA ls (prefetch d) s

/-- A demand access of ACT or CTL traffic moves the tracker whose stream it continues. -/
def trackHit (d line : Nat) : Act := fun s =>
  if s.flag F.STK_PF_CTL_EN d = false then []
  else match (s.die d).trackers.find? fun t => if t.up then t.last + 1 == line else line + 1 == t.last with
    | none => []
    | some t => seqA [modDie d fun x => { x with trackers := { t with last := line } :: x.trackers.filter fun y => y.slot != t.slot },
        ahead d line t.up] s

/-- The slot of a new stream: the lowest free one, else that of the least recently used tracker. -/
def freeSlot (l : List Tracker) : Nat :=
  match (List.range 64).find? fun k => !l.any fun t => t.slot == k with
  | some k => k
  | none => (l.getLast?.map Tracker.slot).getD 0

/-- A demand miss of ACT or CTL traffic: it starts a tracker with an adjacent miss of the last 1,024 NOC cycles
(512 ns), or is remembered. -/
def trackMiss (d line : Nat) : Act := fun s =>
  if s.flag F.STK_PF_CTL_EN d = false then []
  else
    let recent := (s.die d).lastMiss.filter fun m => (s.mile - m.2).toNat ≤ 512
    match recent.find? fun m => (m.1 + 1 == line || line + 1 == m.1) && s.together m.1 line with
    | some m =>
      let up := decide (m.1 < line)
      let k := freeSlot (s.die d).trackers
      seqA [modDie d fun x => { x with
          trackers := ⟨k, line, up⟩ :: x.trackers.filter fun t => t.slot != k
          lastMiss := recent.filter fun y => y != m }, ahead d line up] s
    | none => modDie d (fun x => { x with lastMiss := recent ++ [(line, s.mile)] }) s

/-! ## The units' accesses at the slices (R263, R264, R269) -/

/-- R264, R269: a unit reads a line at its owner's slice: a hit is a demand access; a miss reads the stack, and allocates for ACT and CTL
traffic, not for BULK. -/
def sliceRead (bulk : Bool) (line : Nat) : Act := fun s =>
  let d := s.owner (line * 256)
  match s.hit d line with
  | some c => seqA [bump F.STK_SC_CNT_HIT d 1, whenA (fun _ => c.prefetched) (bump F.STK_PF_USE_USED d 1),
      touchLine d line fun c => { c with evictFirst := false, prefetched := false }, whenA (fun _ => !bulk) (trackHit d line)] s
  | none => seqA [bump F.STK_SC_CNT_MISS d 1, bumpW F.STK_BW_RD_BYTES (lineDie line) 256, lineWords line [],
      whenA (fun _ => !bulk) (seqA [allocLine d ⟨line, false, false, false⟩, trackHit d line, trackMiss d line])] s

/-- R269: a unit writes n bytes of a line at its owner's slice: ACT and CTL traffic writes back, a miss of a whole line allocating without
a read of the stack and any other reading the line first; BULK writes through, and updates a hit. -/
def sliceWrite (bulk : Bool) (line n : Nat) : Act := fun s =>
  let d := s.owner (line * 256)
  match s.hit d line with
  | some c => seqA [bump F.STK_SC_CNT_HIT d 1, whenA (fun _ => c.prefetched) (bump F.STK_PF_USE_USED d 1),
      touchLine d line (fun c => { c with evictFirst := false, prefetched := false, dirty := c.dirty || !bulk }),
      if bulk then bumpW F.STK_BW_WR_BYTES (lineDie line) n else trackHit d line] s
  | none => seqA [bump F.STK_SC_CNT_MISS d 1,
      if bulk then bumpW F.STK_BW_WR_BYTES (lineDie line) n
      else seqA [whenA (fun _ => n != 256) (seqA [bumpW F.STK_BW_RD_BYTES (lineDie line) 256, lineWords line []]),
        allocLine d ⟨line, true, false, false⟩, trackHit d line, trackMiss d line]] s

/-- A range lies in stack memory (R258). -/
def inStacks (a n : Nat) : Bool := decide (a + n ≤ 0x018000000000)

/-- A unit's read of a range at the slices. -/
def sliceReads (bulk : Bool) (a n : Nat) : Act := whenA (fun _ => inStacks a n) (forA (linesOf a n) (sliceRead bulk))

/-- A unit's write of a range at the slices. -/
def sliceWrites (bulk : Bool) (a n : Nat) : Act :=
  whenA (fun _ => inStacks a n) (forA (linesOf a n) fun l => sliceWrite bulk l (min (a + n) (l * 256 + 256) - max a (l * 256)))

/-- A unit writes bytes to stack memory, as BULK traffic or as ACT or CTL (R269). -/
def storeBytes (bulk : Bool) (a : Nat) (bs : List Byte) : Act := seqA [sliceWrites bulk a bs.length, putStack a bs]

/-- R424: a unit's read of [a, a+n): an E copy is recalled first, then the lines are read at their slices. DEDUCED (log entry 9): while the recall is out the
command has no other effect, and takes effect when it is sent again after the answer. -/
def unitRead (bulk : Bool) (a n : Nat) (act : Act) : Act := fun s =>
  if (s.heldE a n).isEmpty then seqA [sliceReads bulk a n, act] s else recallE (s.heldE a n) s

/-- A read of a structure that must lie in partition p's stack regions: nothing is read of one that does not. -/
def ownedRead (p a n : Nat) (act : Act) : Act := iteA (fun s => s.owns p a n) (unitRead true a n act) act

/-- A tier engine reads a line at its owner's slice: a hit is used, and stays first for eviction until a demand access uses it (R268); a
miss comes from the stack, and is chosen first for eviction. -/
def engineLine (line : Nat) : Act := fun s =>
  let d := s.owner (line * 256)
  if (s.hit d line).isSome then seqA [bump F.STK_SC_CNT_HIT d 1, touchLine d line id] s
  else seqA [bump F.STK_SC_CNT_MISS d 1, bumpW F.STK_BW_RD_BYTES (lineDie line) 256, lineWords line [],
    allocLine d ⟨line, false, true, false⟩] s

/-- R263, R269: the engine of die e reads n bytes at a: the lines of slice s leave through its port s div 2. -/
def engineRead (e a n : Nat) : Act := seqA [
  forA (List.range 8) fun k =>
    let m := (linesOf a n).countP fun l => setKey l % 16 / 2 == k
    whenA (fun _ => m != 0) (emit (.tierRead e k m)),
  forA (linesOf a n) engineLine]

/-! ## Reports to the Keeper (R327, R331) -/

/-- CHK_LAST shows a record. -/
def chkLast (d : Nat) (r : HistRec) : Act :=
  seqA [setF F.CHK_LAST_VALID d 1, setF F.CHK_LAST_KIND d r.kind, setF F.CHK_LAST_STAGE d r.stage,
    setF F.CHK_LAST_UNIT d r.unit.toNat]

/-- A report of a die's checker: CHK_LAST shows it; it goes to the Keeper, or is held while the Keeper is down (1,024
records; beyond that it is dropped and counted). -/
def chkReport (d : Nat) (r : HistRec) : Act := fun s =>
  seqA [chkLast d r,
    if s.keeperUp then emit (.record d r)
    else if (s.die d).chkHold.length < 1024 then modDie d fun x => { x with chkHold := x.chkHold ++ [r] }
    else seqA [modDie d fun x => { x with chkDropped := x.chkDropped + 1 }, bump F.CHK_HOLD_DROPPED d 1]] s

/-- The unit code of slice k of die d (R326). -/
def unitSlice (d k : Nat) : Nat := 5 * 2 ^ 28 + d * 2 ^ 22 + k

end Sys2Proof.Machine
end

