-- ==== Sys2Proof/Machine/Image.lean ====
section
/-!
DEFINITION. The Skaem image in stack memory (R151–R166): its header, directory, section entries, and the checks made
at load.
-/
namespace Sys2Proof.Machine

/-- A directory entry (R154). -/
structure Sect where
  type : Nat
  maj : Nat
  esize : Nat
  off : Nat
  slen : Nat
  count : Nat
  crc : Nat
  deriving DecidableEq, Repr

/-- The directory entry at position i of the image at address a. -/
def State.sect (s : State) (a i : Nat) : Sect :=
  let b := s.bytes (a + 0x80 + 32 * i) 32
  ⟨leAt b 0 2, leAt b 2 1, leAt b 4 2, leAt b 8 8, leAt b 16 8, leAt b 24 4, leAt b 28 4⟩

/-- The directory of the image at a. -/
def State.dir (s : State) (a : Nat) : List Sect := (List.range (s.num (a + 0x10) 2)).map (s.sect a)

/-- The section of a type, if the image has it. -/
def State.sectOf (s : State) (a t : Nat) : Option Sect := (s.dir a).find? fun x => x.type == t

/-- Whether a poisoned 32-byte word overlaps [a, a+n) (R281). -/
def State.poisoned (s : State) (a n : Nat) : Bool := s.poison.any fun w => a < w + 32 && w < a + n

/-- The failure of a load check: CODE, FAIL_SECT, FAIL_IDX, FAIL_TGT. -/
structure ImgFail where
  code : Nat
  sect : Nat
  idx : Nat
  tgt : Bool
  deriving DecidableEq, Repr

def imgFail (code : Nat) (sect : Nat := 0) (idx : Nat := 0) : Option ImgFail := some ⟨code, sect, idx, false⟩

/-- The first failure of a list of checks. -/
def firstFail : List (Option ImgFail) → Option ImgFail
  | [] => none
  | some f :: _ => some f
  | none :: r => firstFail r

/-- The compute feature level of the part (R1). -/
def featureLevel : Nat := 1

/-- Checks 1–6 of R165, for an image of LEN `len` at `a` in partition p. DEDUCED (log entry 8): an uncorrectable
header word ends the load when the first check that reads it is due. -/
def State.imgHeader (s : State) (p a len : Nat) : Option ImgFail :=
  let n := s.num (a + 0x10) 2
  let dirLen := 0x80 + 32 * n
  if a % 64 ≠ 0 ∨ len > 2 ^ 30 ∨ s.owns p a (max 1 len) = false then imgFail 5
  else if s.poisoned a 32 then imgFail 6
  else if s.num a 4 ≠ 0x4D454B53 ∨ s.num (a + 6) 1 ≠ 1 then imgFail 2
  else if s.num (a + 4) 1 ≠ 1 then imgFail 3
  else if s.num (a + 7) 1 > featureLevel then imgFail 4
  else if s.num (a + 8) 8 ≠ len then imgFail 5
  else if n = 0 ∨ n > 16 ∨ dirLen > len then imgFail 7
  else if s.poisoned a dirLen then imgFail 6
  else if crc32c (putAt (s.bytes a dirLen) 0x7C [0, 0, 0, 0]) ≠ s.num (a + 0x7C) 4 then imgFail 6
  else none

/-- The known section types (R155), and the version 1.0 entry size of the fixed-entry ones. -/
def sectKnown (t : Nat) : Bool := (1 ≤ t && t ≤ 7) || t == 0x100

/-- ESIZE is valid for a section type (R154, R155). -/
def esizeOk (x : Sect) : Bool :=
  match x.type with
  | 1 => x.esize % 8 == 0 && 64 ≤ x.esize
  | 2 => x.esize % 8 == 0 && 32 ≤ x.esize
  | 3 => x.esize % 8 == 0 && 64 ≤ x.esize
  | 4 => x.esize % 8 == 0 && 8 ≤ x.esize
  | 5 | 6 => x.esize == 0
  | 7 => x.esize % 8 == 0 && 48 ≤ x.esize
  | _ => x.esize % 8 == 0

/-- Check 7 of R165: the directory. An empty section overlaps none. -/
def dirCheck (len : Nat) (d : List Sect) : Option ImgFail :=
  let lo := 0x80 + 32 * d.length
  match d.zipIdx.find? (fun p =>
      !sectKnown p.1.type || (d.take p.2).any (fun y => y.type == p.1.type) || p.1.off % 64 != 0 ||
        decide (len < p.1.off + p.1.slen) || !esizeOk p.1 ||
        (p.1.slen != 0 && (decide (p.1.off < lo) ||
          (d.take p.2).any fun y => y.slen != 0 && decide (p.1.off < y.off + y.slen) && decide (y.off < p.1.off + p.1.slen)))) with
  | some p => imgFail 7 0 p.2
  | none => if [1, 2, 3, 4, 6, 7].all (fun t => d.any fun x => x.type == t) then none else imgFail 7

/-- COUNT limits of R155. -/
def countOk (s : State) (a : Nat) (x : Sect) : Bool :=
  match x.type with
  | 1 => 1 ≤ x.count && x.count ≤ 65536
  | 2 => (s.sectOf a 1).elim false fun g => g.count == x.count
  | 3 => 1 ≤ x.count && x.count ≤ 4096
  | 4 => 1 ≤ x.count && x.count ≤ 1048576
  | 5 => x.count ≤ 65535
  | 6 => 1 ≤ x.count && x.count ≤ 4096
  | 7 => 1 ≤ x.count && x.count ≤ 2 ^ 24
  | _ => true

/-- Check 10 of R165: SLEN agrees with the section. -/
def slenOk (s : State) (a : Nat) (x : Sect) : Bool :=
  let b := a + x.off
  match x.type with
  | 1 | 2 | 3 | 4 => x.slen == x.count * x.esize
  | 5 => decide (16 * x.count ≤ x.slen) && (x.slen - 16 * x.count) % 2 == 0
  | 6 => decide (16 + 96 * x.count ≤ x.slen) && s.num b 2 == x.count &&
      decide (16 + 96 * x.count ≤ s.num (b + 4) 4) && decide (s.num (b + 4) 4 + s.num (b + 8) 4 ≤ x.slen)
  | 7 => decide (16 ≤ x.slen) && s.num (b + 4) 4 == x.count && decide (1 ≤ s.num b 2) && decide (s.num b 2 ≤ 64) &&
      decide (16 + 256 * s.num b 2 + x.esize * x.count ≤ x.slen)
  | _ => true

/-! ## Section entries -/

/-- The byte address of entry i of a fixed-entry section. -/
def State.entry (s : State) (a t i : Nat) : Nat :=
  match s.sectOf a t with
  | some x => a + x.off + x.esize * i
  | none => a

/-- A section's COUNT, or 0 where the image has no such section. -/
def State.count (s : State) (a t : Nat) : Nat := (s.sectOf a t).elim 0 Sect.count

/-- The stage described by GRAPH and RESIDENCY entries i (R157, R159). -/
def State.stageAt (s : State) (a i : Nat) : Stage :=
  let g := s.bytes (s.entry a 1 i) 64
  let r := s.bytes (s.entry a 2 i) 32
  { kind := leAt g 2 1 % 16, kv := nbit (leAt g 3 1) 0, expert := nbit (leAt g 3 1) 1
    rcp := leAt g 4 2, prog := leAt g 6 2, nIn := leAt g 8 2, nOut := leAt g 10 2
    route := leAt g 12 4, nRoute := leAt g 16 1, egroup := leAt g 18 2, eidx := leAt g 20 2, topk := leAt g 22 1
    kvBytes := leAt g 24 4, actBytes := leAt g 28 4, rate := leAt g 32 4
    cls := leAt r 2 1, prio := leAt r 4 2, minRep := leAt r 6 1, maxRep := leAt r 7 1, dies := leAt r 8 4
    rank := leAt r 12 2, near := leAt r 14 2 }

/-- The stages of an image. -/
def State.stages (s : State) (a : Nat) : List Stage := (List.range (s.count a 1)).map (s.stageAt a)

/-- A stage that computes on arrays (R158). -/
def Stage.onArrays (x : Stage) : Bool := x.kind ≤ 2

/-- The number of logical arrays of a stage (R158). -/
def Stage.nArr (x : Stage) : Nat := if x.onArrays then (x.nIn + 1) / 2 * x.nOut else 0

/-- The recipe entry of an index in an image. -/
def State.recipeAt (s : State) (a i : Nat) : Recipe := decRecipe (s.bytes (s.entry a 3 i) 64)

/-- A ROUTE entry (R161): RKIND, TARGET, DSEG. -/
structure RouteDef where
  kind : Nat
  target : Nat
  dseg : Nat
  deriving DecidableEq, Repr

def State.routeAt (s : State) (a i : Nat) : RouteDef :=
  let b := s.bytes (s.entry a 4 i) 8
  ⟨leAt b 0 1, leAt b 2 2, leAt b 4 2⟩

/-- The ROUTE entries of a stage, in order. -/
def State.routesOf (s : State) (a : Nat) (x : Stage) : List RouteDef :=
  (List.range x.nRoute).map fun i => s.routeAt a (x.route + i)

/-- A multicast group (R162): source stage, leaf stages, VC. -/
def State.groupLeaves (s : State) (a g : Nat) : List Nat :=
  match s.sectOf a 5 with
  | some x =>
    let h := a + x.off + 16 * g
    (List.range (s.num (h + 2) 2)).map fun k => s.num (a + x.off + 16 * x.count + 2 * (s.num (h + 4) 4 + k)) 2
  | none => []

/-- A group's VC is RED (R162). -/
def State.groupRed (s : State) (a g : Nat) : Bool :=
  (s.sectOf a 5).any fun x => s.num (a + x.off + 16 * g + 8) 1 == 2

/-- The address of program entry j and of the PROG section (R163). -/
def State.progSect (s : State) (a : Nat) : Nat := (s.sectOf a 6).elim a fun x => a + x.off
def State.progEntry (s : State) (a j : Nat) : Nat := s.progSect a + 16 + 96 * j

/-- RNG of the i-th logical array of the range table (R163). -/
def State.rngAt (s : State) (a i : Nat) : Nat := s.num (s.progSect a + s.num (s.progSect a + 4) 4 + i) 1 % 8

/-- The position in the range table of a stage's first logical array. -/
def rngBase (l : List Stage) (i : Nat) : Nat := ((l.take i).map Stage.nArr).sum

/-- The address of the MANIFEST section and of its shard k at a stride (R164). -/
def State.manSect (s : State) (a : Nat) : Nat := (s.sectOf a 7).elim a fun x => a + x.off

/-- A shard entry at an address, with its storage target among those of the manifest section at `m` (R164). -/
def State.shardAt (s : State) (m b : Nat) : Shard :=
  let g := m + 16 + 256 * s.num (b + 12) 2
  { nqn := s.bytes g 224, addr := s.bytes (g + 0xE0) 16, tport := s.num (g + 0xF0) 2
    stage := s.num b 2, fmode := s.num (b + 2) 1, first := s.num (b + 4) 4, n := s.num (b + 8) 4
    target := s.num (b + 12) 2, nsid := s.num (b + 16) 4, slba := s.num (b + 24) 8, bytes := s.num (b + 32) 8
    st := 0, source := 0, tries := 0, cause := 0, nvme := 0, peer := 0, mile := 0, landed := [], prog := false }

/-- The shards of a manifest section at `m` whose entries lie `stride` apart. -/
def State.shardsAt (s : State) (m stride : Nat) : List Shard :=
  (List.range (s.num (m + 4) 4)).map fun k => s.shardAt m (m + 16 + 256 * s.num m 2 + stride * k)

/-- The shards of an image. -/
def State.imgShards (s : State) (a : Nat) : List Shard :=
  s.shardsAt (s.manSect a) ((s.sectOf a 7).elim 48 Sect.esize)

/-- The first index below n that fails. -/
def firstBad (n : Nat) (ok : Nat → Bool) : Option Nat := (List.range n).find? fun i => !ok i

/-- Check 11 of R165 on the entries of one section. -/
def check11 (s : State) (a : Nat) (x : Sect) : Option ImgFail :=
  let b := a + x.off
  match x.type with
  | 1 => (firstBad x.count fun i =>
      let g := s.stageAt a i
      g.kind ≤ 5 && g.nRoute ≤ 16 && g.nIn != 0 && g.nOut != 0 && (g.kind != 1 || (1 ≤ g.topk && g.topk ≤ 16)) &&
        g.kvBytes % 64 == 0 && g.actBytes % 64 == 0).bind fun i => imgFail 11 1 i
  | 2 => (firstBad x.count fun i =>
      let g := s.stageAt a i
      g.cls ≤ 2 && g.minRep != 0 && g.minRep ≤ g.maxRep).bind fun i => imgFail 11 2 i
  | 3 => (firstBad x.count fun i => recipeCodesOk (s.recipeAt a i)).bind fun i => imgFail 11 3 i
  | 4 => (firstBad x.count fun i => (s.routeAt a i).kind ≤ 5).bind fun i => imgFail 11 4 i
  | 5 => (firstBad x.count fun i =>
      s.num (b + 16 * i + 2) 2 != 0 && (s.num (b + 16 * i + 8) 1 == 1 || s.num (b + 16 * i + 8) 1 == 2)).bind
        fun i => imgFail 11 5 i
  | 6 =>
    match firstBad x.count fun i =>
      let e := s.progEntry a i
      1 ≤ s.num (e + 4) 2 && s.num (e + 4) 2 ≤ 1024 && s.num (e + 6) 2 ≤ 18176 && s.num e 4 % 4 == 0 with
    | some i => imgFail 11 6 i
    | none => if (List.range (s.num (b + 8) 4)).all fun i => s.rngAt a i != 7 then none else imgFail 11 6
  | 7 =>
    match firstBad (s.num b 2) fun i => s.num (b + 16 + 256 * i + 0xF2) 1 == 1 with
    | some i => some ⟨11, 7, i, true⟩
    | none => (firstBad x.count fun k => ((s.imgShards a).getD k (s.shardAt b b)).fmode ≤ 2).bind fun k => imgFail 11 7 k
  | _ => none

/-- Check 12 of R165 on the entries of one section. -/
def check12 (s : State) (a : Nat) (x : Sect) : Option ImgFail :=
  let b := a + x.off
  let n := s.count a 1
  match x.type with
  | 1 => (firstBad x.count fun i =>
      let g := s.stageAt a i
      s.num (s.entry a 1 i) 2 == i && g.rcp < s.count a 3 && (3 ≤ g.kind || g.prog < s.count a 6) &&
        g.route + g.nRoute ≤ s.count a 4).bind fun i => imgFail 12 1 i
  | 2 => (firstBad x.count fun i =>
      let g := s.stageAt a i
      s.num (s.entry a 2 i) 2 == i && (g.near == 0xFFFF || g.near < n)).bind fun i => imgFail 12 2 i
  | 4 => (firstBad x.count fun i =>
      let r := s.routeAt a i
      match r.kind with
      | 0 | 4 | 5 => decide (r.target < n)
      | 1 => decide (r.target < s.count a 5)
      | _ => true).bind fun i => imgFail 12 4 i
  | 5 => (firstBad x.count fun i =>
      s.num (b + 16 * i) 2 < n &&
        s.num (b + 16 * i + 4) 4 + s.num (b + 16 * i + 2) 2 ≤ (x.slen - 16 * x.count) / 2 &&
        (s.groupLeaves a i).all fun l => l < n).bind fun i => imgFail 12 5 i
  | 6 =>
    match firstBad x.count fun i => s.num (s.progEntry a i) 4 + 4 * s.num (s.progEntry a i + 4) 2 ≤ x.slen with
    | some i => imgFail 12 6 i
    | none => if s.num (b + 8) 4 = ((s.stages a).map Stage.nArr).sum then none else imgFail 12 6
  | 7 => (firstBad x.count fun k =>
      let h := (s.imgShards a).getD k (s.shardAt b b)
      h.stage < n && h.target < s.num b 2).bind fun k => imgFail 12 7 k
  | _ => none

/-- Check 13 of R165: the CRC-16 of every recipe entry. -/
def check13 (s : State) (a : Nat) (x : Sect) : Option ImgFail :=
  if x.type = 3 then (firstBad x.count fun i => recipeCrcOk (s.bytes (s.entry a 3 i) 64)).bind fun i => imgFail 13 3 i
  else none

/-- Checks 7–13 of R165, for the image of length `len` at `a`: within each, the sections in directory order. An uncorrectable word of the
header or the directory ends them with CODE 6. -/
def State.imgBody (s : State) (a len : Nat) : Option ImgFail :=
  let d := s.dir a
  firstFail [if s.poisoned a (0x80 + 32 * s.num (a + 0x10) 2) then imgFail 6 else none, dirCheck len d,
    firstFail (d.map fun x => if x.maj = 1 then none else imgFail 8 x.type),
    firstFail (d.map fun x =>
      if s.poisoned (a + x.off) x.slen = true ∨ crc32c (s.bytes (a + x.off) x.slen) ≠ x.crc then imgFail 9 x.type
      else none),
    firstFail (d.map fun x => if countOk s a x && slenOk s a x then none else imgFail 10 x.type),
    firstFail (d.map (check11 s a)), firstFail (d.map (check12 s a)), firstFail (d.map (check13 s a))]

end Sys2Proof.Machine
end

