-- ==== Sys2Proof/Machine/Passages.lean ====
section
/-!
DEFINITION. Passages and their rings (R205–R223, R230, R231): the Passage Table entry, completion entries, the
states and their transitions, and the commands of the admission and completion rings.
-/
namespace Sys2Proof.Machine

/-! ## The Passage Table entry (R208) -/

/-- The 128 bytes of an entry, with its CRC-16. -/
def encPt (p : Passage) : List Byte :=
  withCrc16 (leBytes 4 p.handle.toNat ++ leBytes 4 0 ++ leBytes 1 p.st ++ leBytes 1 p.part ++ leBytes 2 p.job ++
    leBytes 2 p.epoch ++ leBytes 2 p.stage ++ leBytes 8 p.kvBase ++ leBytes 8 p.inRing.toNat ++ leBytes 2 p.inHead ++
    leBytes 2 p.inTail ++ leBytes 2 p.outNext ++ leBytes 1 p.home ++ leBytes 1 p.cring ++ leBytes 8 p.outRing.toNat ++
    leBytes 1 p.prio ++
    leBytes 1 ((if p.stream then 1 else 0) + (if p.dlFault then 2 else 0) + (if p.noExit then 4 else 0)) ++
    leBytes 1 p.status ++ leBytes 1 p.hold ++ leBytes 4 p.seed.toNat ++ leBytes 8 p.deadline.toNat ++
    leBytes 2 p.under ++ leBytes 2 p.sat ++ leBytes 4 p.user.toNat ++ leBytes 8 p.admitAt.toNat ++ leBytes 4 p.steps ++
    leBytes 42 0 ++ leBytes 2 0) 0x7E

/-- A passage with the fields of an entry read from the stack; what the part keeps beside the entry stays. -/
def decPt (p : Passage) (b : List Byte) : Passage :=
  let f := leAt b 0x31 1
  { p with handle := BitVec.ofNat 32 (leAt b 0 4), st := leAt b 8 1 % 16, part := leAt b 9 1 % 64, job := leAt b 10 2,
           epoch := leAt b 12 2, stage := leAt b 14 2, kvBase := leAt b 16 8,
           inRing := BitVec.ofNat 64 (leAt b 24 8), inHead := leAt b 32 2, inTail := leAt b 34 2,
           outNext := leAt b 36 2, home := leAt b 38 1 % 64, cring := leAt b 39 1 % 64,
           outRing := BitVec.ofNat 64 (leAt b 40 8), prio := leAt b 48 1 % 16, stream := nbit f 0,
           dlFault := nbit f 1, noExit := nbit f 2, status := leAt b 50 1, hold := leAt b 51 1,
           seed := BitVec.ofNat 32 (leAt b 52 4), deadline := BitVec.ofNat 64 (leAt b 56 8), under := leAt b 64 2,
           sat := leAt b 66 2, user := BitVec.ofNat 32 (leAt b 68 4), admitAt := BitVec.ofNat 64 (leAt b 72 8),
           steps := leAt b 80 4 }

/-- The address of the entry of index i homed on die d (R207). -/
def State.ptAddr (s : State) (d i : Nat) : Nat :=
  s.fld F.PAS_PT_BASE_ADDR d * 4096 + (i - ((s.range (s.part d)).getD (0, 0)).1) * 128

/-- R210: write the entry of index i through to the stack, where its table is valid. -/
def savePt (i : Nat) : Act := fun s =>
  let p := s.passage i
  if s.flag F.PAS_PT_BASE_VALID p.home then storeBytes false (s.ptAddr p.home i) (encPt p) s else []

/-- The passage indices that are listed, rising. -/
def State.live (s : State) : List Nat := SMap.keys s.passages

/-- A passage that has not ended. -/
def Passage.open_ (p : Passage) : Bool := p.st != 0 && p.st != 5 && p.st != 6

/-- The live passages of a partition that are homed here. -/
def State.partLive (s : State) (p : Nat) : List Nat :=
  s.live.filter fun i => (s.passage i).open_ && (s.passage i).part == p && !(s.passage i).guest

/-! ## Completion entries (R219–R221) -/

/-- The 32 bytes of the completion entry for count n of a ring of 2^lg entries. -/
def encComp (c : QComp) (mile : Word) (n lg : Nat) : List Byte :=
  withCrc16 (leBytes 4 c.handle.toNat ++ leBytes 1 c.kind ++ leBytes 1 c.status ++ leBytes 2 c.slot ++
    leBytes 2 c.under ++ leBytes 2 c.sat ++ leBytes 2 c.exit ++ leBytes 2 c.epoch ++ leBytes 8 mile.toNat ++
    leBytes 4 c.user.toNat ++ leBytes 2 0 ++ leBytes 1 0 ++ leBytes 1 (1 - (n / 2 ^ lg) % 2)) 0x1C

/-- The base address of a die's completion ring, and of its admission ring. -/
def State.cringBase (s : State) (d : Nat) : Nat := s.fld F.PAS_CRING_BASE_ADDR d * 64
def State.aringBase (s : State) (d : Nat) : Nat := s.fld F.PAS_ARING_BASE_ADDR d * 64

/-- Whether the completion ring of die d can take an entry now (R221, R222). -/
def State.cringRoom (s : State) (d : Nat) : Bool :=
  s.flag F.PAS_CRING_BASE_EN d &&
    (s.fld F.PAS_CRING_TAIL_TAIL d + 131072 - s.fld F.PAS_CRING_HEAD_HEAD d) % 131072 !=
      2 ^ s.fld F.PAS_CRING_BASE_LOG2 d

/-- The address of the next completion entry of die d. -/
def State.cringNext (s : State) (d : Nat) : Nat :=
  s.cringBase d + s.fld F.PAS_CRING_TAIL_TAIL d % 2 ^ s.fld F.PAS_CRING_BASE_LOG2 d * 32

/-- Note on a passage that its completion entry was written at count n: its final entry, or the result of a step. -/
def noteComp (c : QComp) (n : Nat) : Act :=
  whenA (fun s => c.kind != 5 && (s.passage c.idx).handle == c.handle) (modPassage c.idx fun p =>
    { p with finalAt := if c.kind = 1 then p.finalAt else some n,
             outAt := if c.kind ≤ 2 then p.outAt.drop (p.outAt.length - 4095) ++ [(c.step, n)] else p.outAt })

/-- Write one completion entry (R219, R220), with the ring's event if the write finds the ring empty. -/
def writeComp (d : Nat) (c : QComp) : Act := fun s =>
  let n := s.fld F.PAS_CRING_TAIL_TAIL d
  let empty := n == s.fld F.PAS_CRING_HEAD_HEAD d
  seqA [storeBytes false (s.cringNext d) (encComp c s.mile n (s.fld F.PAS_CRING_BASE_LOG2 d)),
    setF F.PAS_CRING_TAIL_TAIL d (n + 1), noteComp c n,
    whenA (fun s => empty && s.flag F.PAS_CRING_TAIL_EVT_EN d) (raiseEvent (s.part d) d ((n + 1) % 131072))] s

/-- Write queued completions while the ring has room; a line the host holds in E is recalled and waited for. -/
def drainList (d : Nat) : List QComp → Act
  | [] => setF F.PAS_CRING_TAIL_FULL d 0
  | c :: r => fun s =>
    if !s.cringRoom d then []
    else if !(s.heldE (s.cringNext d) 32).isEmpty then recallE (s.heldE (s.cringNext d) 32) s
    else seqA [modDie d fun x => { x with compQ := x.compQ.tail }, writeComp d c, drainList d r] s

/-- Write what the queue of die d holds. -/
def drainComp (d : Nat) : Act := withA (fun s => (s.die d).compQ) (drainList d)

/-- A completion for the ring of die d: it joins the queue, and the queue is written as far as the ring has room.
DEDUCED (log entry 10): FAULT and DONE entries always join; SINK results and admission entries stop at 256. -/
def complete (d : Nat) (c : QComp) : Act :=
  seqA [modDie d fun x => { x with compQ := x.compQ ++ [c] }, setF F.PAS_CRING_TAIL_FULL d 1, drainComp d]

/-- The completion of passage i: KIND, and the slot and step of its result. -/
def compOf (i : Nat) (p : Passage) (kind slot step : Nat) : QComp :=
  ⟨p.handle, kind, p.status, slot, p.under, p.sat, p.exitAt, p.epoch, step, p.user, i⟩

/-! ## States (R211–R213, R231) -/

/-- Queued selections of passage i in a router replica. -/
def RouterRep.queuedOf (r : RouterRep) (i : Nat) : Nat := r.queue.countP fun q => q.idx == i

/-- Count k selections of a router stage as dropped from its queue (R256). -/
def addQovf (m : SMap ExpCnt) (stage k : Nat) : SMap ExpCnt :=
  let e := SMap.get (fun _ => ExpCnt.zero) m stage
  SMap.set (fun _ => ExpCnt.zero) m stage { e with qovf := min (e.qovf + k) (2 ^ 32 - 1) }

/-- A batch without passage i's items that are not dispatched. -/
def Batch.without (i : Nat) (b : Batch) : Batch := { b with items := b.items.filter fun j => j != i || b.items.idxOf j < b.next }

/-- An item of a batch is not dispatched yet. -/
def Batch.undone (b : Batch) : Bool := decide (b.next < b.items.length)

/-- A die without passage i's undispatched items, held segments and queued selections; a batch that has no undispatched item left
leaves. -/
def Die.dropped (i : Nat) (x : Die) : Die :=
  { x with
    sb := x.sb.filter fun y => y.idx != i || y.phase == 2
    batches := (x.batches.map (Batch.without i)).filter Batch.undone
    dispBuf := x.dispBuf.filter fun y => y.idx != i
    routers := x.routers.map fun r => { r with queue := r.queue.filter (fun q => q.idx != i),
                                               waits := r.waits.filter fun q => q.idx != i }
    expCnt := x.routers.foldl (fun m r => addQovf m r.stage (r.queuedOf i)) x.expCnt }

/-- The stages of the image a partition runs. -/
def State.stagesOf (s : State) (p : Nat) : List Stage := (s.job p).stages

/-- Stage k of a partition's image. -/
def State.stage (s : State) (p k : Nat) : Option Stage := (s.job p).stages[k]?

/-- The expert stage of an index in a group, and the group's size (R235). -/
def State.expertStage (s : State) (p grp e : Nat) : Option Nat :=
  ((s.stagesOf p).zipIdx.find? fun x => x.1.expert && x.1.egroup == grp && x.1.eidx == e).map Prod.snd
def State.groupSize (s : State) (p grp : Nat) : Nat := (s.stagesOf p).countP fun x => x.expert && x.egroup == grp

/-- R247: the combining stages of an expert stage: the targets of its OWNER routes. -/
def State.ownersOf (s : State) (p e : Nat) : List Nat :=
  (s.stage p e).elim [] fun z => ((s.routesOf (s.job p).addr z).filter fun r => r.kind == 4).map RouteDef.target

/-- R247: a selection that a router's queue drops sends one decrement to the scoreboard of each combining stage of its expert. -/
def decrement (d : Nat) (r : RouterRep) (q : Sel) : Act := fun s =>
  let p := s.part d
  let own := ((s.stage p r.stage).bind fun st => s.expertStage p st.egroup q.expert).elim [] (s.ownersOf p)
  forA own (fun c => emit (.ctl "DECREMENT" d c q.idx 1)) s

/-- Input segments of passage i that wait at tiles go. -/
def dropInputs (i : Nat) : Act := fun s =>
  forA (s.cores.filter fun k => k.1 < 1048576 && k.2.ins.any fun x => x.idx == some i) (fun k =>
    forOpt (tileAt (k.1 / 8448) (k.1 % 128) (k.1 % 8448 / 128)) fun t => modCore (.tile t) fun c =>
      { c with ins := c.ins.filter fun x => x.idx != some i }) s

/-- Drop what schedulers hold of a passage that is not yet dispatched: scoreboard items, held segments, and queued
selections, which count as QOVF and send a decrement each (R255); a batch dispatched in part that this ends is counted. -/
def dropItems (i : Nat) : Act :=
  seqA [dropInputs i, forA allDies fun d => whenA (fun s =>
      (s.die d).sb.any (fun x => x.idx == i) || (s.die d).dispBuf.any (fun x => x.idx == i) ||
        (s.die d).routers.any fun r => r.queue.any (fun q => q.idx == i) || r.waits.any fun q => q.idx == i)
    (withA (fun s => s.die d) fun x =>
      seqA [forA x.routers fun r => forA (r.queue.filter fun q => q.idx == i) (decrement d r),
        bumpW F.SCH_BATCH_CNT_COUNT d ((x.batches.map (Batch.without i)).countP fun b => !b.undone && b.next != 0),
        modDie d (Die.dropped i)])]

/-! ## Slice rank, retention record, the end of a swap -/

/-- This part's rank in the slice of a partition. -/
def State.rank (s : State) (p : Nat) : Nat := s.fld F.BIL_SLICE_RANK ((s.partDies p).headD 0)
/-- The parts of the slice. -/
def State.nParts (s : State) (p : Nat) : Nat := max 1 (s.fld F.BIL_SLICE_N_PARTS ((s.partDies p).headD 0))

/-- The retention record of a partition. -/
def State.retainOf (s : State) (p : Nat) : Option Retain := s.nvm.retain.find? fun r => r.part == p

/-- The SCRCs a retention record holds, of the image at a: GRAPH, RESIDENCY, ROUTE, MCAST, PROG. -/
def State.retScrcs (s : State) (a : Nat) : List Nat := [1, 2, 4, 5, 6].map fun t => (s.sectOf a t).elim 0 Sect.crc

/-- R297: write the retention record of a partition. DESIGN CHOICE (log entry 223): one that falls due while the Keeper is down is written,
as things then stand, at the Keeper's return. -/
def writeRetain (p : Nat) : Act := fun s =>
  let j := s.job p
  if s.keeperUp then nvmWrite (modNvm fun n => { n with retain := n.retain.filter (fun r => r.part != p) ++
    [⟨s.bytes (j.addr + 0x18) 32, s.retScrcs j.addr, p, s.nParts p, s.rank p, s.fld F.LDR_SWAP_STS_ADM_EPOCH p, j.reps, j.holders⟩] }) s
  else modKeeper (fun k => { k with retDue := (k.retDue ++ [p]).dedup }) s

/-- R304, R311: a swap whose waves are all NEW and whose old-epoch passages have all ended is DONE: the old shadows of the
stages it changed are freed, its shards join the manifest, and the retention record is written. -/
def swapDone (p : Nat) : Act := fun s =>
  match (s.job p).swap with
  | none => []
  | some w =>
    let changed := fun k => w.waveOf.getD k 0xFFFF != 0xFFFF
    if s.fld F.LDR_SWAP_STS_STATE p = 3 ∧ w.waves.all (fun x => x == 3) = true ∧
        (s.partLive p).all (fun i => (s.passage i).epoch == w.newEpoch) = true then
      seqA [modJob p fun j => { j with
          swap := none, epoch := w.newEpoch
          shadows := j.shadows.filter fun x => x.epoch == w.newEpoch || !changed x.stage
          shards := (j.shards.filter fun h => !changed h.stage) ++ w.newShards.filter fun h => changed h.stage },
        swapState p 4, setF F.LDR_SWAP_STS_CODE p 0, setF F.LDR_SWAP_STS_BUSY p 0,
        setF F.LDR_STS_PHASE p 4, setF F.LDR_STS_BUSY p 0, writeRetain p] s
    else []

/-- R57: a passage homed on another part leaves: what was counted for it here goes to its home, and nothing of it stays. -/
def guestLeaves (i : Nat) : Act := fun s =>
  let p := s.passage i
  if p.guest then seqA [emit (.ctl "FLAGS" 0 p.part p.handle.toNat (p.under + 65536 * p.sat)), modPassage i fun _ => Passage.zero] s
  else []

/-- End a live passage in FAULTED with a status (R212): dropped from the schedulers, written through, reported. One homed on another
part is ended by its home (CTL). -/
def endPassage (i status : Nat) : Act := fun s =>
  if (s.passage i).guest then
    let p := s.passage i
    seqA [dropItems i, emit (.ctl "FAULT" 0 p.part p.handle.toNat status), guestLeaves i] s
  else if (s.passage i).open_ then
    seqA [dropItems i,
      modPassage i fun p => { p with st := 6, status := status, hold := 0, inflight := false, waiting := none },
      savePt i,
      withA (fun s => s.passage i) fun p => seqA [complete p.cring (compOf i p 4 0 0), swapDone p.part]] s
  else []

/-- The passage a handle names, if it is live here under that handle. -/
def State.byHandle (s : State) (h : Word32) : Option Nat :=
  let i := h.toNat % 1048576
  if (s.passage i).open_ ∧ (s.passage i).handle = h then some i else none

/-- End the passage a work item belongs to; a passage of another part is ended by its home part (CTL). -/
def endHandle (d : Nat) (h : Word32) (status : Nat) : Act := fun s =>
  match s.byHandle h with
  | some i => endPassage i status s
  | none => emit (.ctl "FAULT" d (s.part d) h.toNat status) s

/-- Slots fed and not started. -/
def Passage.pendingIn (p : Passage) : Nat := (p.inTail + 65536 - p.inHead) % 65536

/-- The ring address and LOG2 of an IN_RING or OUT_RING field (R208). -/
def ringAddr (w : Word) : Nat := bitsOf w 47 6 * 64
def ringLog2 (w : Word) : Nat := bitsOf w 5 0

/-- Bytes of a segment's place in an input slot, and in a result slot (R214). -/
def inStride (fmt : Nat) : Nat := (fmtSeg fmt + 136 + 63) / 64 * 64
def outStride (fmt : Nat) : Nat := (fmtSeg fmt + 63) / 64 * 64

/-- The stages of a kind: their numbers with the stages. -/
def State.stagesKind (s : State) (p kind : Nat) : List (Nat × Stage) :=
  ((s.stagesOf p).zipIdx.filter fun x => x.1.kind == kind).map fun x => (x.2, x.1)

/-- The size of an input slot: the output segments of every SOURCE stage (R214). -/
def State.inSlot (s : State) (p : Nat) : Nat :=
  ((s.stagesKind p 5).map fun x => x.2.nOut * inStride (s.recipeAt (s.job p).addr x.2.rcp).outFmt).sum

/-- The size of a result slot: the input segments of every SINK stage (R214). -/
def State.outSlot (s : State) (p : Nat) : Nat :=
  ((s.stagesKind p 4).map fun x => x.2.nIn * outStride (s.recipeAt (s.job p).addr x.2.rcp).inFmt).sum

/-- Entries of die d's passage cache (R209). -/
def State.cachedOn (s : State) (d : Nat) : List Nat :=
  s.live.filter fun i => (s.passage i).cached && (s.passage i).home == d

/-- Make room in die d's passage cache: when it is full, an entry with no step in flight is written through and
evicted. Which one is free (R209 names none). -/
def makeRoom (d : Nat) : Act := fun s =>
  if (s.cachedOn d).length < 2048 then []
  else
    let l := (s.cachedOn d).filter fun i => !(s.passage i).inflight
    match l[Config.freeNat s.free % l.length]? with
    | some i => seqA [draw, savePt i, modPassage i fun p => { p with cached := false }] s
    | none => []

/-- A passage whose entry failed its CRC-16 (R210): FAULTED with PT_CRC, logged against the stack. -/
def ptCrcFault (d i : Nat) (h : Nat) : Act := fun s =>
  let a := s.ptAddr d i
  seqA [endPassage i 8, logEv (some d) 12 3 2 (unitChannel a) (s.part d) (s.passage i).job 0
    (leBytes 8 a ++ leBytes 4 h)] s

/-- Change the entry of a passage (R209, R210): in the cache where it is cached; otherwise read from the stack, its
CRC-16 checked, and written back. -/
def changeEntry (i : Nat) (f : Passage → Passage) : Act := fun s =>
  let p := s.passage i
  let a := s.ptAddr p.home i
  if p.cached ∨ p.guest then modPassage i f s
  else if crc16Ok (s.bytes a 128) 0x7E && !s.poisoned a 128 then seqA [modPassage i f, savePt i] s
  else ptCrcFault p.home i (leAt (s.bytes a 4) 0 4) s

/-- Put a passage on hold for a reason (R212, R213). -/
def holdP (i reason : Nat) : Act := changeEntry i fun p =>
  if p.st = 1 ∨ p.st = 3 ∨ p.st = 4 then { p with heldFrom := p.st, st := 2, hold := reason }
  else if p.st = 2 then { p with hold := reason } else p

/-- Clear a hold of a reason: back to the state it came from. -/
def unholdP (i reason : Nat) : Act := changeEntry i fun p =>
  if p.st = 2 ∧ p.hold = reason then { p with st := p.heldFrom, hold := 0 } else p

/-- Bring the entry of index i into the passage cache of its home die d (R209, R210), if it can be brought in. -/
def cacheIn (d i : Nat) : Act := seqA [makeRoom d, fun s =>
  if (s.cachedOn d).length < 2048 then
    let b := s.bytes (s.ptAddr d i) 128
    if crc16Ok b 0x7E && !s.poisoned (s.ptAddr d i) 128 then
      modPassage i (fun p => { decPt p b with cached := true }) s
    else ptCrcFault d i (leAt b 0 4) s
  else []]

/-- R225: a work item of passage i's step at a stage of die d's scoreboard. -/
def addItem (d i stage rep need : Nat) (ready : Bool) (step : Nat) (gate : Option Nat) : Act := fun s =>
  modDie d (fun x => { x with
    sb := x.sb ++ [{ SbItem.fresh i stage rep need step with ready := ready, ord := x.sbOrd, mile := s.mile, gate := gate }],
    sbOrd := x.sbOrd + 1 }) s

/-- The admission stop of R229 stands in a partition. -/
def State.admStopped (s : State) (p : Nat) : Bool := (s.partDies p).any fun d => s.flag F.SCH_SB_STS_ADM_STOP d

/-- Begin the next step of a passage that may: its entry is in the cache, its input slot reads without error, its
SOURCE work items become ready on its home die (R209, R213, R223). -/
def beginStep (i : Nat) : Act := fun s =>
  let p := s.passage i
  let slot := ringAddr p.inRing + p.inHead % 2 ^ ringLog2 p.inRing * s.inSlot p.part
  if s.poisoned slot (s.inSlot p.part) then endPassage i 0x0C s
  else
    seqA [modPassage i fun p => { p with inHead := (p.inHead + 1) % 65536, inflight := true, exitAt := 0xFFFF,
                                         st := if p.st = 2 then p.heldFrom else p.st, hold := 0 },
      forA (s.stagesKind p.part 5) fun x => addItem p.home i x.1 0 0 true p.inHead none] s

/-- A result of passage i waits in its completion queue (R221). -/
def State.compWaits (s : State) (i : Nat) : Bool := (s.die (s.passage i).cring).compQ.any fun c => c.idx == i && c.kind == 1

/-- Start the next step of passage i if one is pending and none is in flight (R213: after the completion entry of the
step before is written), and steps are not being drained (R231) nor clocks gated (R483); a step that cannot start puts the passage on hold, for ADM_STOP
(R229) or CACHE (R209). -/
def startStep (i : Nat) : Act := fun s =>
  let p := s.passage i
  if p.open_ = false ∨ p.inflight = true ∨ p.pendingIn = 0 ∨ s.compWaits i = true ∨ s.draining = true ∨ s.power.gated = true then []
  else if s.admStopped p.part then holdP i 5 s
  else if p.cached then seqA [bump F.PAS_CACHE_CNT_HIT p.home 1, beginStep i] s
  else
    seqA [bump F.PAS_CACHE_CNT_MISS p.home 1, cacheIn p.home i, fun s =>
      if (s.passage i).cached then beginStep i s else if (s.passage i).open_ then holdP i 4 s else []] s

/-- A passage that has ended all its steps enters DONE with its final completion entry (R212). -/
def donePassage (i kind slot step : Nat) : Act :=
  seqA [modPassage i fun p => { p with st := 5, status := 0, hold := 0, inflight := false }, savePt i,
    withA (fun s => s.passage i) fun p => seqA [complete p.cring (compOf i p kind slot step), swapDone p.part]]

/-! ## Admission (R216–R218) -/

/-- The address of the entry at HEAD of die d's admission ring. -/
def State.aringEntry (s : State) (d : Nat) : Nat :=
  s.aringBase d + s.fld F.PAS_ARING_HEAD_HEAD d % 2 ^ s.fld F.PAS_ARING_BASE_LOG2 d * 64

/-- Whether a die may read admission entries now (R207, R217, R221, R222): image READY, table valid, ring enabled,
entries offered, no stop at an entry of the host's, room in the completion queue, and no stop of admission. -/
def State.mayAdmit (s : State) (d : Nat) : Bool :=
  s.fld F.BIL_IMG_STS_STATE d == 4 && s.flag F.PAS_PT_BASE_VALID d && s.flag F.PAS_ARING_BASE_EN d &&
    s.fld F.PAS_ARING_HEAD_HEAD d != (s.die d).atail && decide ((s.die d).compQ.length < 256) &&
    !(s.die d).holdAdm && !(s.die d).aStop && !(s.job (s.part d)).stopped &&
    s.pstate ≤ 1 && !s.draining && s.sec.tap == 0

/-- R218: a rejection is counted, and reported where the die has an enabled completion ring. -/
def reject (d status : Nat) (h : Word32) (user : Nat) : Act :=
  seqA [bump F.PAS_REJ_COUNT d 1, setF F.PAS_REJ_LAST d status,
    whenA (fun s => s.flag F.PAS_CRING_BASE_EN d)
      (complete d ⟨h, 5, status, 0, 0, 0, 0xFFFF, 0, 0, BitVec.ofNat 32 user, 0⟩)]

/-- Check 5 of R218: CRING names an enabled completion ring of the partition, and both rings lie in its regions. -/
def State.ringsOk (s : State) (p cring : Nat) (inR outR : Word) : Bool :=
  decide (cring < 32) && s.part cring == p && s.flag F.PAS_CRING_BASE_EN cring &&
    ringLog2 inR ≤ 12 && ringLog2 outR ≤ 12 &&
    s.owns p (ringAddr inR) (2 ^ ringLog2 inR * max 1 (s.inSlot p)) &&
    s.owns p (ringAddr outR) (2 ^ ringLog2 outR * max 1 (s.outSlot p))

/-- R189: the stack address of a passage's key-value state in the partition's lowest-numbered KV stage, or 0.
DEDUCED (log entry 11): the offset counts indices from LO, for the region holds N_PAS of them. -/
def State.kvBase (s : State) (p i : Nat) : Nat :=
  match (s.stagesOf p).zipIdx.find? (fun x => x.1.kv) with
  | none => 0
  | some x =>
    let rep := max 1 ((s.job p).repCount.getD x.2 1)
    match (s.job p).regions.find? (fun r => r.kv && r.stage == x.2 && r.rep == i % rep) with
    | none => 0
    | some r => r.base + (i - ((s.range p).getD (0, 0)).1) / rep * x.1.kvBytes

/-- The entry's passage index lies in the partition's range (check 3). -/
def State.inRange (s : State) (p i : Nat) : Bool := (s.range p).any fun r => r.1 ≤ i && i ≤ r.2

/-- An OPEN entry `e` read on die d (R212, R218): the passage, or the status of its rejection. -/
def openCheck (s : State) (d : Nat) (e : List Byte) : Nat :=
  let p := s.part d
  let inR : Word := BitVec.ofNat 64 (leAt e 24 8)
  let outR : Word := BitVec.ofNat 64 (leAt e 32 8)
  let n := leAt e 10 2
  let stream := nbit (leAt e 1 1) 0
  if !s.inRange p (leAt e 4 4 % 1048576) then 0x22
  else if !s.ringsOk p (leAt e 3 1 % 64) inR outR then 0x24
  else if leAt e 8 2 ≠ (s.job p).job then 0x25
  else if !stream && n != 1 then 0x26
  else 0

/-- The passage an accepted OPEN creates (R208, R212, R216). -/
def openPassage (s : State) (d : Nat) (e : List Byte) : Passage :=
  let f := leAt e 1 1
  let p := s.part d
  let i := leAt e 4 4 % 1048576
  { Passage.zero with
    handle := BitVec.ofNat 32 (leAt e 4 4), st := if leAt e 10 2 = 0 then 4 else 1, part := p, job := leAt e 8 2
    epoch := s.fld F.LDR_SWAP_STS_ADM_EPOCH p, kvBase := s.kvBase p i, inRing := BitVec.ofNat 64 (leAt e 24 8)
    inTail := leAt e 10 2, home := d, cring := leAt e 3 1 % 64, outRing := BitVec.ofNat 64 (leAt e 32 8)
    prio := leAt e 2 1 % 16, stream := nbit f 0, dlFault := nbit f 1, noExit := nbit f 2
    seed := BitVec.ofNat 32 (leAt e 12 4), deadline := BitVec.ofNat 64 (leAt e 16 8)
    user := BitVec.ofNat 32 (leAt e 40 4), admitAt := s.mile }

/-- An accepted OPEN: the passage, its entry cached if the cache can take it and written through, its first step. -/
def openAccept (d : Nat) (e : List Byte) : Act := fun s =>
  let i := leAt e 4 4 % 1048576
  seqA [dropItems i, makeRoom d,
    fun s => modPassage i (fun _ => { openPassage s d e with cached := decide ((s.cachedOn d).length < 2048) }) s,
    savePt i, startStep i] s

/-- Check 4 of R218: the live passage a FEED, CLOSE or CANCEL names. -/
def State.target4 (s : State) (h : Word32) : Option Nat := (s.byHandle h).filter fun i => !(s.passage i).guest

/-- FEED on its home die (R212, R218 check 7): `rej` says where a rejection goes. -/
def feedHome (d : Nat) (i n : Nat) (h : Word32) (user : Nat) : Act := fun s =>
  let p := s.passage i
  if !p.stream || p.closed || n == 0 || decide (4096 < n) ||
      decide (2 ^ ringLog2 p.inRing < p.pendingIn + n) then
    reject d 0x26 h user s
  else
    seqA [changeEntry i fun p => { p with inTail := (p.inTail + n) % 65536, st := if p.st = 4 then 3 else p.st,
                                          heldFrom := if p.st = 2 ∧ p.heldFrom = 4 then 3 else p.heldFrom },
      startStep i] s

/-- CLOSE on its home die (R212, R231): DONE at once when every fed step has ended, otherwise after the last. -/
def closeHome (i : Nat) : Act := fun s =>
  let p := s.passage i
  seqA [modPassage i fun p => { p with closed := true },
    whenA (fun _ => p.pendingIn == 0 && !p.inflight && p.waiting.isNone) (donePassage i 3 0 0)] s

/-- A FEED, CLOSE or CANCEL applied on the home die, with rejections to the ring of the die that read it. -/
def applyHome (from_ i op n : Nat) (h : Word32) (user : Nat) : Act :=
  match op with
  | 2 => feedHome from_ i n h user
  | 3 => closeHome i
  | _ => endPassage i 6

/-- One entry read at HEAD of die d whose operation is the command's (R217, R218), a poisoned one taken as its CRC-16's failure (R281); a
FEED, CLOSE or CANCEL of a
passage homed on another die is forwarded over CTL. -/
def admitOp (d op : Nat) (e : List Byte) : Act := fun s =>
  let h : Word32 := BitVec.ofNat 32 (leAt e 4 4)
  let user := leAt e 0 4
  if !crc16Ok e 0x3C || s.poisoned (s.aringEntry d) 64 then reject d 0x20 h user s
  else if op = 0 ∨ 4 < op then reject d 0x21 h user s
  else if op = 1 then
    if openCheck s d e = 0 then openAccept d e s else reject d (openCheck s d e) h user s
  else if !s.inRange (s.part d) (leAt e 4 4 % 1048576) then reject d 0x22 h user s
  else
    match s.target4 h with
    | none => reject d 0x23 h user s
    | some i =>
      if (s.passage i).home = d then applyHome d i op (leAt e 10 2) h user s
      else emit (.ctl "FORWARD" (s.passage i).home (s.part d) op h.toNat) s

/-- Which command takes an entry: its OP, and OPEN's for an entry whose OP is reserved. -/
def entryOp (e : List Byte) : Nat := if 2 ≤ leAt e 0 1 ∧ leAt e 0 1 ≤ 4 then leAt e 0 1 else 1

/-- Take the entry at HEAD of die d if it is offered and carries operation `op` (R217): process it, write OWN = 0,
advance HEAD. At an entry whose OWN is 0 the die stops until the next doorbell. -/
def takeEntry (d op : Nat) : Act := fun s =>
  let a := s.aringEntry d
  let e := s.bytes a 64
  if s.mayAdmit d then
    unitRead false a 64 (fun s =>
      if leAt e 63 1 % 2 = 0 then modDie d (fun x => { x with aStop := true }) s
      else if entryOp e = op then
        seqA [admitOp d (leAt e 0 1) e, storeBytes false (a + 63) [0],
          bumpW F.PAS_ARING_HEAD_HEAD d 1] s
      else []) s
  else []

/-! ## The commands -/

/-- R217: a write of PAS_ARING_TAIL offers entries up to TAIL. -/
def hostAdmissionDoorbell (src : Src) (d : Fin 32) (v : Word) : Act := fun s =>
  (guardW src .pas d.val 0x118 (modDie d.val fun x => { x with atail := bitsOf v 16 0, aStop := false })) s

/-- AdmissionDoorbell: the command of its row. -/
def execAdmissionDoorbell (src : Src) (d : Fin 32) (v : Word) (s : State) : Host.Outcome State Fault Refusal :=
  runAct (hostAdmissionDoorbell src d v) s

/-- R212: die d takes an OPEN entry. -/
def execOpenEntry (d : Fin 32) (s : State) : Host.Outcome State Fault Refusal := runAct (takeEntry d.val 1) s

/-- R212: die d takes a FEED entry. -/
def execFeed (d : Fin 32) (s : State) : Host.Outcome State Fault Refusal := runAct (takeEntry d.val 2) s

/-- R212: die d takes a CLOSE entry. -/
def execClose (d : Fin 32) (s : State) : Host.Outcome State Fault Refusal := runAct (takeEntry d.val 3) s

/-- R231: die d takes a CANCEL entry. -/
def execCancel (d : Fin 32) (s : State) : Host.Outcome State Fault Refusal := runAct (takeEntry d.val 4) s

/-- R217: the home die d applies a FEED, CLOSE or CANCEL read on die `from_`. -/
def execCommandForward (d from_ : Fin 32) (op : Fin 5) (h : Word32) (n : BitVec 16) (s : State) :
    Host.Outcome State Fault Refusal :=
  runAct (fun s =>
    if op.val < 2 then [] else match s.target4 h with
    | some i => if (s.passage i).home = d.val then applyHome from_.val i op.val n.toNat h op.val s
                else reject from_.val 0x23 h op.val s
    | none => reject from_.val 0x23 h op.val s) s

/-- HEAD moves from h₀ to h past count n, all modulo 2^17 (R212). -/
def passed (h₀ h n : Nat) : Bool := decide ((n + 131072 - h₀) % 131072 < (h + 131072 - h₀) % 131072)

/-- Free the passage of index i (R212): it leaves the cache, and its entry is written through. -/
def freePassage (i : Nat) : Act :=
  seqA [modPassage i fun p => { p with st := 0, cached := false }, savePt i, modPassage i fun _ => Passage.zero]

/-- R215: the result slot of the step in flight may be written: HEAD of the passage's ring has moved past the entry
of the step that used the slot before, which is then no longer listed. -/
def State.slotFree (s : State) (i : Nat) : Bool :=
  let p := s.passage i
  let prev := (p.outNext + 65536 - 2 ^ ringLog2 p.outRing) % 65536
  !(s.die p.cring).compQ.any (fun c => c.idx == i && c.step == prev && c.kind == 1) && p.outAt.all fun x => x.1 != prev

/-- Everything schedulers hold of passage i leaves them: its step has ended. -/
def clearItems (i : Nat) : Act := seqA [dropInputs i,
  forA allDies fun d => whenA (fun s => (s.die d).sb.any (fun x => x.idx == i) || (s.die d).dispBuf.any fun x => x.idx == i)
    (modDie d fun x => { x with sb := x.sb.filter (fun y => y.idx != i), dispBuf := x.dispBuf.filter fun y => y.idx != i })]

/-- R213, R215, R220: the step in flight of passage i ends with its SINK result: the slot is written before the entry,
then the passage is DONE, WAITING or starts its next step. A result whose slot is not released, or whose slot the
host holds in E, waits. -/
def finishStep (i : Nat) (res : List Byte) : Act := fun s =>
  let p := s.passage i
  let slot := p.outNext % 2 ^ ringLog2 p.outRing
  let n := s.outSlot p.part
  let a := ringAddr p.outRing + slot * n
  if s.slotFree i = false then modPassage i (fun p => { p with waiting := some res }) s
  else if (s.heldE a n).isEmpty = false then
    seqA [modPassage i fun p => { p with waiting := some res }, recallE (s.heldE a n)] s
  else
    seqA [storeBytes false a (padTo n res), clearItems i,
      modPassage i fun p => { p with
        outNext := (p.outNext + 1) % 65536, steps := (p.steps + 1) % 2 ^ 32, inflight := false, waiting := none
        hold := 0, st := if p.pendingIn = 0 then 4 else 3 },
      if !p.stream || (p.closed && p.pendingIn == 0) then donePassage i 2 slot p.outNext
      else seqA [withA (fun s => s.passage i) fun q => complete q.cring (compOf i q 1 slot p.outNext),
        modPassage i fun p => { p with exitAt := 0xFFFF }, startStep i]] s

/-- Passage i has a step to start that nothing of its own holds. -/
def State.stepDue (s : State) (i : Nat) : Bool :=
  let p := s.passage i
  p.open_ && p.st != 2 && !p.inflight && p.pendingIn != 0

/-- R221: queued completions of die d's ring are written, and passages whose next step waited for that start it. -/
def resumeRing (d : Nat) : Act := seqA [drainComp d, fun s =>
  forA (s.live.filter fun i => (s.passage i).cring == d && s.stepDue i) startStep s]

/-- R483: steps that a drain or gated clocks held up start. -/
def resumeSteps : Act := fun s => forA (s.live.filter s.stepDue) startStep s

/-- The results of passages on die d's ring that wait for their slot are written, while the completion queue has room (R221). -/
def waitingResults (d : Nat) : Act := fun s =>
  forA (s.live.filter fun i => (s.passage i).cring == d && (s.passage i).waiting.isSome) (fun i =>
    whenA (fun s => decide ((s.die d).compQ.length < 256)) (withA (fun s => (s.passage i).waiting) fun o => forOpt o (finishStep i))) s

/-- R212, R215, R221: HEAD of die d's completion ring moves from h₀ to h: the slots of the results passed are released, queued
completions written, results that waited for their slot may be written, and passages whose final entry is passed become FREE. -/
def headMoved (d h₀ h : Nat) : Act := seqA [
  (fun s => forA (s.live.filter fun i => (s.passage i).cring == d && !(s.passage i).outAt.isEmpty) (fun i =>
    modPassage i fun p => { p with outAt := p.outAt.filter fun x => !passed h₀ h x.2 }) s),
  (fun s => forA (s.live.filter fun i =>
      let p := s.passage i
      (p.st == 5 || p.st == 6) && p.cring == d && p.finalAt.any (passed h₀ h)) freePassage s),
  resumeRing d, waitingResults d]

/-- R212: a write of PAS_CRING_HEAD. -/
def hostCompletionHeadWrite (src : Src) (d : Fin 32) (v : Word) : Act := fun s =>
  (guardW src .pas d.val 0x130 (seqA [writeReg .pas d.val 0x130 v,
    headMoved d.val (s.fld F.PAS_CRING_HEAD_HEAD d.val) (bitsOf v 16 0)])) s

/-- CompletionHeadWrite: the command of its row. -/
def execCompletionHeadWrite (src : Src) (d : Fin 32) (v : Word) (s : State) : Host.Outcome State Fault Refusal :=
  runAct (hostCompletionHeadWrite src d v) s

/-- The bytes of a ring as a base register names it: completion entries are 32 bytes, admission entries 64. -/
def ringBytes (completion : Bool) (v : Word) : Nat := 2 ^ bitsOf v 5 0 * (if completion then 32 else 64)

/-- R222, R232: whether a write of a ring's base register is discarded: with EN 1 a ring outside the partition's
regions or a LOG2 outside 6–16 (DEDUCED, log entry 12), or a change of an enabled ring. -/
def ringDiscard (s : State) (d : Nat) (completion : Bool) (v : Word) : Bool :=
  let old := s.reg .pas d (if completion then 0x128 else 0x110)
  bitsOf v 63 63 == 1 &&
    ((bitsOf old 63 63 == 1 && (bitsOf v 47 6 != bitsOf old 47 6 || bitsOf v 5 0 != bitsOf old 5 0)) ||
      !(6 ≤ bitsOf v 5 0 && bitsOf v 5 0 ≤ 16) || !s.owns (s.part d) (bitsOf v 47 6 * 64) (ringBytes completion v))

/-- The effect of enabling a ring (R222): HEAD and TAIL zero, then queued completions written from count 0. DEDUCED (log entry 210): the
counts of entries written before name no entry of the ring any more, so their result slots are released. -/
def ringEnabled (d : Nat) (completion : Bool) : Act :=
  if completion then
    seqA [setF F.PAS_CRING_HEAD_HEAD d 0, setF F.PAS_CRING_TAIL_TAIL d 0,
      (fun s => forA (s.live.filter fun i => (s.passage i).cring == d && !(s.passage i).outAt.isEmpty) (fun i =>
        modPassage i fun p => { p with outAt := [] }) s), resumeRing d, waitingResults d]
  else seqA [setF F.PAS_ARING_HEAD_HEAD d 0, modDie d fun x => { x with atail := 0, aStop := false }]

/-- R222: a write of PAS_ARING_BASE or PAS_CRING_BASE. -/
def hostRingBaseWrite (src : Src) (d : Fin 32) (completion : Bool) (v : Word) : Act := fun s =>
  let off := if completion then 0x128 else 0x110
  (guardW src .pas d.val off fun s =>
    let was := bitsOf (s.reg .pas d.val off) 63 63
    if ringDiscard s d.val completion v then []
    else seqA [writeReg .pas d.val off v,
      whenA (fun _ => was == 0 && bitsOf v 63 63 == 1) (ringEnabled d.val completion)] s) s

/-- RingBaseWrite: the command of its row. -/
def execRingBaseWrite (src : Src) (d : Fin 32) (completion : Bool) (v : Word) (s : State) : Host.Outcome State Fault Refusal :=
  runAct (hostRingBaseWrite src d completion v) s

/-- R207: a write of PAS_PT_BASE: accepted while the image is EMPTY and the table lies in the partition's regions;
every die of the partition shows it. A base that does not fit is discarded and VALID keeps its value. -/
def hostPtBaseWrite (src : Src) (d : Fin 32) (v : Word) : Act := fun s =>
  (guardW src .pas d.val 0x100 fun s =>
    let p := s.part d.val
    match s.range p with
    | none => []
    | some (lo, hi) =>
      if s.fld F.BIL_IMG_STS_STATE d.val ≠ 0 ∨ s.owns p (bitsOf v 47 12 * 4096) ((hi + 1 - lo) * 128) = false then []
      else seqA [setFP F.PAS_PT_BASE_ADDR p (bitsOf v 47 12), setFP F.PAS_PT_BASE_VALID p 1] s) s

/-- PtBaseWrite: the command of its row. -/
def execPtBaseWrite (src : Src) (d : Fin 32) (v : Word) (s : State) : Host.Outcome State Fault Refusal :=
  runAct (hostPtBaseWrite src d v) s

/-- R210, R232: a write of PAS_PEEK: the die shows the state, whatever it becomes, of a passage homed on it. -/
def hostPeekWrite (src : Src) (d : Fin 32) (v : Word) : Act := fun s =>
  (guardW src .pas d.val 0x158 fun s =>
    let i := bitsOf v 19 0
    seqA [setF F.PAS_PEEK_INDEX d.val i, setB F.PAS_PEEK_VALID d.val ((s.passage i).home == d.val)] s) s

/-- PeekWrite: the command of its row. -/
def execPeekWrite (src : Src) (d : Fin 32) (v : Word) (s : State) : Host.Outcome State Fault Refusal :=
  runAct (hostPeekWrite src d v) s

/-- R209, R210: the entry of index idx is brought into die d's cache; `ecc` is what its read found. A passage held
for CACHE proceeds. -/
def execPassageCacheFill (d : Fin 32) (idx : Fin 1048576) (ecc : Ecc) (s : State) :
    Host.Outcome State Fault Refusal :=
  runAct (fun s =>
    let p := s.passage idx.val
    if p.open_ = false ∨ p.home ≠ d.val ∨ p.cached = true then []
    else
      let a := s.ptAddr d.val idx.val
      let rd : Act := whenA (fun s => s.flag F.PAS_PT_BASE_VALID d.val) (seqA [sliceReads false a 128, eccRead a 128 ecc])
      if ecc = .uncorrectable then seqA [rd, ptCrcFault d.val idx.val 0] s
      else seqA [rd, cacheIn d.val idx.val,
      whenA (fun s => (s.passage idx.val).cached) (seqA [unholdP idx.val 4, startStep idx.val])] s) s

end Sys2Proof.Machine
end

