-- ==== Sys2Proof/Machine/Recipes.lean ====
section
/-!
DEFINITION. Recipes at run time (R60–R63) and the counts of block flags (R57, R58, R64).
-/
namespace Sys2Proof.Machine

/-- The recipe of an index in force on die d. -/
def State.rcp (s : State) (d i : Nat) : Recipe := SMap.get (fun _ => Recipe.zero) (s.die d).recipes i

/-- No recipe waits: the commanding die number is out of range. -/
def noPend (_ : Nat) : Recipe × Nat := (Recipe.zero, 32)

/-- The new version of a recipe that waits for die d's next batch boundary, with the commanding die. -/
def State.pendOf (s : State) (d i : Nat) : Recipe × Nat := SMap.get noPend (s.die d).pendRcp i

/-- The checks of a recipe update that read nothing of the entry (R63): index and address. -/
def State.rcpPlace (s : State) (d idx addr : Nat) : Nat :=
  let p := s.part d
  if s.fld F.BIL_IMG_STS_STATE d ≠ 4 ∨ s.count (s.job p).addr 3 ≤ idx then 5
  else if s.owns p addr 64 = false then 6
  else 0

/-- The checks of a recipe update (R63). DEDUCED (log entry 13): R63 lists no order; index, address, CRC, fixed
fields, reserved codes, VERSION is taken. DESIGN CHOICE (log entry 208): one higher than VERSION 65,535 is 0. -/
def State.rcpCheck (s : State) (d idx addr : Nat) : Nat :=
  let b := s.bytes addr 64
  let r := decRecipe b
  let old := s.rcp d idx
  if s.rcpPlace d idx addr ≠ 0 then s.rcpPlace d idx addr
  else if recipeCrcOk b = false ∨ s.poisoned addr 64 = true then 2
  else if r.inFmt ≠ old.inFmt ∨ r.outFmt ≠ old.outFmt then 3
  else if recipeCodesOk r = false then 4
  else if r.version ≠ (old.version + 1) % 65536 then 7
  else 0

/-- R61: the checked entry goes over CTL to every die of the partition, or the update ends with its CODE. DESIGN CHOICE (log entry 209):
every die gets the one copy read here, also where the entry in stack memory is overwritten while BUSY stands (R65). -/
def recipeStart (d idx addr : Nat) : Act := fun s =>
  let code := s.rcpCheck d idx addr
  let r := decRecipe (s.bytes addr 64)
  if code = 0 then
    seqA [setF F.SCH_RCP_STS_INDEX d idx, setF F.SCH_RCP_STS_BUSY d 1,
      onDies (s.part d) fun e => modDie e fun x => { x with pendRcp := SMap.set noPend x.pendRcp idx (r, d) }] s
  else seqA [setF F.SCH_RCP_STS_INDEX d idx, setF F.SCH_RCP_STS_CODE d code,
    setF F.SCH_RCP_STS_VERSION d (s.rcp d idx).version] s

/-- R61: a write of SCH_RCP_CMD. -/
def hostRecipeUpdate (src : Src) (d : Fin 32) (v : Word) : Act := fun s =>
  (guardW src .sch d.val 0x830 fun s =>
    if bitsOf v 0 0 = 0 then storeRW .sch d.val 0x830 v s
    else if (s.partDies (s.part d.val)).any fun e => s.flag F.SCH_RCP_STS_BUSY e then
      setF F.SCH_RCP_STS_LOST d.val 1 s
    else
      let addr := bitsOf v 47 6 * 64
      let start := recipeStart d.val (bitsOf v 63 48) addr
      seqA [storeRW .sch d.val 0x830 v, if s.rcpPlace d.val (bitsOf v 63 48) addr ≠ 0 then start else unitRead false addr 64 start] s) s

/-- RecipeUpdate: the command of its row. -/
def execRecipeUpdate (src : Src) (d : Fin 32) (v : Word) (s : State) : Host.Outcome State Fault Refusal :=
  runAct (hostRecipeUpdate src d v) s

/-- A batch of a stage that uses recipe `i` has been dispatched in part on die d: its boundary has not come. -/
def State.midBatch (s : State) (d i : Nat) : Bool :=
  (s.die d).batches.any fun b =>
    decide (0 < b.next) && ((s.stage (s.part d) b.stage).any fun st => st.rcp == i)

/-- R61, R62: die d applies the waiting version at the batch boundary; when the last die has, the commanding die
reports. -/
def execRecipeApply (d : Fin 32) (idx : Fin 4096) (s : State) : Host.Outcome State Fault Refusal :=
  runAct (fun s =>
    let p := s.pendOf d.val idx.val
    if 32 ≤ p.2 ∨ s.midBatch d.val idx.val = true then []
    else seqA [modDie d.val fun x => { x with
        recipes := SMap.set (fun _ => Recipe.zero) x.recipes idx.val p.1
        pendRcp := SMap.set noPend x.pendRcp idx.val (noPend 0) },
      whenA (fun s => (s.partDies (s.part d.val)).all fun e => 32 ≤ (s.pendOf e idx.val).2)
        (seqA [setF F.SCH_RCP_STS_BUSY p.2 0, setF F.SCH_RCP_STS_CODE p.2 0,
          setF F.SCH_RCP_STS_VERSION p.2 p.1.version])] s) s

/-- SCH_FLAG_WIN.EXP as it acts (R64): 20 to 40. -/
def State.flagExp (s : State) (d : Nat) : Nat := max 20 (min 40 (s.fld F.SCH_FLAG_WIN_EXP d))

/-- R58: a window boundary, a multiple of 2^EXP of the milestone counter, has passed since the window in progress on die d was last
seen. -/
def State.flagOver (s : State) (d : Nat) : Bool :=
  s.mile.toNat / 2 ^ s.flagExp d != (s.die d).flagAt.toNat / 2 ^ s.flagExp d

/-- R58: at a boundary the stage counts of a die restart at zero. -/
def flagRoll (d : Nat) : Act := whenA (fun s => s.flagOver d) fun s =>
  modDie d (fun x => { x with flagCnt := [], flagFired := [], flagAt := s.mile }) s

/-- R58: a window boundary on die d. -/
def execFlagWindowEnd (d : Fin 32) (s : State) : Host.Outcome State Fault Refusal := runAct (flagRoll d.val) s

/-- R64: a write of SCH_FMT_CLR. -/
def hostFmtCntClear (src : Src) (d : Fin 32) (v : Word) : Act := fun s =>
  (guardW src .sch d.val 0x828 (whenA (fun _ => bitsOf v 0 0 == 1) (setReg .sch d.val 0x820 0))) s

/-- FmtCntClear: the command of its row. -/
def execFmtCntClear (src : Src) (d : Fin 32) (v : Word) (s : State) : Host.Outcome State Fault Refusal :=
  runAct (hostFmtCntClear src d v) s

/-- The two flag counts of a stage on die d in the current window. -/
def State.stageFlags (s : State) (d stage : Nat) : Nat × Nat :=
  if s.flagOver d then (0, 0) else SMap.get (fun _ => (0, 0)) (s.die d).flagCnt stage

/-- One event for a stage, flag and window, when the count has reached its threshold (R58). DEDUCED (log entry 14):
a threshold of 0 disables the stage event as it does the passage event. -/
def stageFlagEvent (d : Nat) (w : WorkItem) (sat : Bool) (thr : Nat) : Act := fun s =>
  let n := if sat then (s.stageFlags d w.stage).2 else (s.stageFlags d w.stage).1
  if thr ≠ 0 ∧ thr ≤ n ∧ (s.die d).flagFired.contains (w.stage, sat) = false then
    seqA [modDie d fun x => { x with flagFired := x.flagFired ++ [(w.stage, sat)] },
      setF (if sat then F.SCH_FLAG_EVT_SAT else F.SCH_FLAG_EVT_UNDER) d 1, setF F.SCH_FLAG_EVT_STAGE d w.stage,
      logEv (some d) 6 1 2 (unitDie d) w.part w.job 0
        (leBytes 2 (if sat then 1 else 0) ++ leBytes 2 w.stage ++ leBytes 4 n)] s
  else []

/-- One event for a passage and flag, when its count reaches the threshold (R58). -/
def passageFlagEvent (d i : Nat) (w : WorkItem) (sat : Bool) (thr : Nat) : Act := fun s =>
  let p := s.passage i
  let n := if sat then p.sat else p.under
  if thr ≠ 0 ∧ thr ≤ n ∧ (if sat then p.flagSat else p.flagUnder) = false then
    seqA [modPassage i fun p => if sat then { p with flagSat := true } else { p with flagUnder := true },
      logEv (some d) 6 1 1 (unitDie d) w.part w.job w.handle
        (leBytes 2 (if sat then 1 else 0) ++ leBytes 2 n)] s
  else []

/-- R57, R58: count block flags of work item w on die d, in the stage's window and in the passage; those of a passage homed on another
part are kept here until it leaves. -/
def countFlags (d : Nat) (w : WorkItem) (under sat : Nat) : Act :=
  if under = 0 ∧ sat = 0 then skip
  else seqA [flagRoll d, modDie d fun x =>
      let c := SMap.get (fun _ => (0, 0)) x.flagCnt w.stage
      let n := (min (c.1 + under) (2 ^ 32 - 1), min (c.2 + sat) (2 ^ 32 - 1))
      { x with flagCnt := SMap.set (fun _ => (0, 0)) x.flagCnt w.stage n },
    stageFlagEvent d w false w.rcp.stgUnder, stageFlagEvent d w true w.rcp.stgSat,
    withA (fun s => s.byHandle w.handle) fun o => forOpt o fun i => seqA [
      modPassage i fun p => { p with under := min (p.under + under) 65535, sat := min (p.sat + sat) 65535 },
      passageFlagEvent d i w false w.rcp.pasUnder, passageFlagEvent d i w true w.rcp.pasSat]]

end Sys2Proof.Machine
end

