-- ==== Sys2Proof/Machine/Schedule.lean ====
section
/-!
DEFINITION. The scoreboard (R225), selection order (R227), the choice of a replica (R228, R245, R353) and curfews
(R307), which batching and expert routing share.
-/
namespace Sys2Proof.Machine

/-! ## Sorting by a key of four numbers -/

/-- Lexicographic order of four numbers. -/
def keyLe (a b : Nat × Nat × Nat × Nat) : Bool :=
  a.1 < b.1 || (a.1 == b.1 && (a.2.1 < b.2.1 || (a.2.1 == b.2.1 &&
    (a.2.2.1 < b.2.2.1 || (a.2.2.1 == b.2.2.1 && a.2.2.2 ≤ b.2.2.2)))))

/-- Insert by key; equal keys keep their order. -/
def insKey {α : Type} (key : α → Nat × Nat × Nat × Nat) (x : α) : List α → List α
  | [] => [x]
  | y :: r => if keyLe (key y) (key x) then y :: insKey key x r else x :: y :: r

/-- A list sorted by key. -/
def sortKey {α : Type} (key : α → Nat × Nat × Nat × Nat) (l : List α) : List α :=
  l.foldl (fun r x => insKey key x r) []

/-! ## Replicas -/

/-- The bound replicas of a stage of a partition's image. -/
def State.repsOf (s : State) (p stage : Nat) : List Replica := (s.job p).reps.filter fun r => r.stage == stage

/-- Replica `rep` of a stage, if it is bound in arrays. -/
def State.repOf (s : State) (p stage rep : Nat) : Option Replica := (s.repsOf p stage).find? fun r => r.rep == rep

/-- The replica count of a stage over the slice (R180). -/
def State.nRep (s : State) (p stage : Nat) : Nat := max 1 ((s.job p).repCount.getD stage 1)

/-- The state of a tile's array (R102). -/
def State.arrState (s : State) (t : TileId) : Nat := s.fld F.TIL_ARR_STS_STATE (tileKey t)

/-- Items queued or running at a replica: those on the scoreboard of its anchor's die. -/
def State.load (s : State) (r : Replica) : Nat :=
  (s.die r.anchor.d.val).sb.countP fun x => x.stage == r.stage && x.rep == r.rep

/-- The die whose tier engine runs a stage, if it is on the slower tier (R191). -/
def State.tierDie (s : State) (p stage : Nat) : Option Nat := ((s.job p).tier.find? fun x => x.1 == stage).map Prod.snd

/-- The replica of least load, the lower number on a tie. -/
def State.leastLoaded (s : State) (l : List Replica) : Option Replica :=
  (sortKey (fun r => (s.load r, r.rep, 0, 0)) l).head?

/-- R228, R353: the replica of a non-KV stage for a new work item: among those in service, those without an array in
CAL or WRITE first. -/
def State.freeRep (s : State) (p stage : Nat) (not_ : Option Nat) : Option Replica :=
  let l := (s.repsOf p stage).filter fun r => !r.outOfService && not_ != some r.rep
  let q := l.filter fun r => r.tiles.all fun t => s.arrState t != 2 && s.arrState t != 3
  s.leastLoaded (if q.isEmpty then l else q)

/-- The replica numbers of a stage on other parts of the slice, ascending. -/
def State.farReps (s : State) (p stage : Nat) : List Nat :=
  let own := s.fld F.BIL_SLICE_RANK ((s.partDies p).headD 0)
  sortKey (fun r => (r, 0, 0, 0)) (((s.job p).holders.filter fun h => h.1 == stage && h.2.2 != own).map fun h => h.2.1)

/-- R187, R189, R228: the replica number a work item of passage i takes at a stage; none where no replica serves. Where other parts hold
replicas of it too, whose counts are theirs, which one has the fewest items is free (log entry 179). -/
def State.chooseRep (s : State) (p stage i : Nat) : Option Nat :=
  match s.stage p stage with
  | none => none
  | some st =>
    if st.kv then some (i % s.nRep p stage)
    else if (s.tierDie p stage).isSome then some 0
    else
      let own := ((s.freeRep p stage none).map Replica.rep).toList
      let l := own ++ s.farReps p stage
      if (s.farReps p stage).isEmpty then own.head? else l[Config.farReplica s.free stage i % l.length]?

/-- The state of a stage's wave in a swap; NEW for a stage without a wave. -/
def Swap.stateOf (w : Swap) (stage : Nat) : Nat :=
  if w.waveOf.getD stage 0xFFFF = 0xFFFF then 3 else w.waves.getD (w.waveOf.getD stage 0xFFFF) 0

/-- R307, R310: whether a work item of an epoch is held at a stage by the swap in progress: its wave is not NEW, nor DOUBLE. -/
def State.curfewed (s : State) (p stage epoch : Nat) : Bool :=
  match (s.job p).swap with
  | some w => epoch == w.newEpoch && decide (w.stateOf stage < 2) && (s.tierDie p stage).isNone
  | none => false

/-- R310: the new copy of a replica, while both copies are bound. -/
def State.copyOf (s : State) (p stage rep epoch : Nat) : Option Replica :=
  (s.job p).swap.bind fun w =>
    if epoch = w.newEpoch ∧ w.stateOf stage = 2 then w.copies.find? fun r => r.stage == stage && r.rep == rep else none

/-! ## The scoreboard (R225) -/

/-- A stage whose work items wait for expert contributions: the target of an OWNER route of an expert stage (R247). -/
def State.combines (s : State) (p stage : Nat) : Bool :=
  (s.stagesOf p).any fun e => e.expert && (s.routesOf (s.job p).addr e).any fun r => r.kind == 4 && r.target == stage

/-- The item of a passage step at a stage replica. -/
def SbItem.is (i stage rep : Nat) (x : SbItem) : Bool := x.idx == i && x.stage == stage && x.rep == rep

/-- An item becomes ready when all its input segments have arrived and, where its stage combines expert results, the
count of contributions is known and has arrived (R225, R247). -/
def SbItem.settle (comb : Bool) (mile : Word) (ord : Nat) (x : SbItem) : SbItem :=
  if !x.ready && x.need ≤ x.got && (!comb || x.exp.any fun n => n ≤ x.expGot) then
    { x with ready := true, ord := ord, mile := mile }
  else x

/-- Change the item of a passage step at a stage replica on die d's scoreboard, making it if it is not there. -/
def touchItem (d i stage rep : Nat) (f : SbItem → SbItem) : Act := fun s =>
  let p := s.part d
  let q := s.passage i
  let comb := s.combines p stage
  let need := (s.stage p stage).elim 0 Stage.nIn
  modDie d (fun x =>
    let g := fun y => (f y).settle comb s.mile x.sbOrd
    { x with
      sb := if x.sb.any (SbItem.is i stage rep) then x.sb.map (fun y => if y.is i stage rep then g y else y)
            else x.sb ++ [g (SbItem.fresh i stage rep need ((q.inHead + 65535) % 65536))]
      sbOrd := x.sbOrd + 1 }) s

/-- R225: die d's scoreboard tracks the items of a stage replica: the replica's anchor lies on it, or the tier engine that runs the
stage. -/
def State.tracks (s : State) (d stage rep : Nat) : Bool :=
  let p := s.part d
  match s.repOf p stage rep, s.tierDie p stage with
  | some r, _ => r.anchor.d.val == d
  | none, some e => e == d
  | none, none => true

/-- R225: the tiles of a stage replica's input segment k know which passage the oldest such segment they hold belongs to. -/
def claimInput (i : Nat) (st : Stage) (r : Replica) (k : Nat) : Act :=
  forA (r.tiles.zipIdx.filter fun t => t.2 / max 1 st.nOut == k / 2) fun t => modCore (.tile t.1) fun c =>
    match c.ins.findIdx? fun x => x.half == k % 2 && x.idx.isNone with
    | some j => { c with ins := c.ins.zipIdx.map fun x => if x.2 = j then { x.1 with idx := some i } else x.1 }
    | none => c

/-- R206: a passage homed on another part, as its work items here know it. -/
def guestOf (p job : Nat) (c : Carried) : Passage :=
  { Passage.zero with
    handle := c.handle, st := 3, part := p, job := job, epoch := c.epoch.toNat, home := 63, prio := c.prio.val
    deadline := c.deadline, seed := c.seed, guest := true }

/-- R206, R225: input segment `seg` of a passage's work item at a stage replica has arrived; the item of a passage homed on another part of
the slice runs here by what it carries. -/
def execArrivalReport : Fin 32 → Fin 1048576 → BitVec 16 → Arrived → State → Host.Outcome State Fault Refusal
  | d, idx, stage, ⟨rep, seg, carried⟩, s =>
  runAct (fun s =>
    let p := s.part d.val
    let gate := carried.bind fun c => c.gate.map Fin.val
    let come := seqA [touchItem d.val idx.val stage.toNat rep.toNat fun x => { x with got := x.got + 1, gate := gate.or x.gate },
      forOpt (s.stage p stage.toNat) fun st => forOpt (s.repOf p stage.toNat rep.toNat) fun r => claimInput idx.val st r seg.toNat]
    if (s.stage p stage.toNat).isNone = true ∨ s.tracks d.val stage.toNat rep.toNat = false then []
    else if (s.passage idx.val).open_ then come s
    else match carried with
    | some c =>
      if (s.passage idx.val).st = 0 ∧ 1 < s.nParts p ∧ c.handle.toNat % 1048576 = idx.val then
        seqA [modPassage idx.val fun _ => guestOf p (s.job p).job c, come] s
      else []
    | none => []) s

/-- The replica of an item of a passage at a combining stage of die d: that of the item already there, the KV
replica, or the lowest replica anchored on the die. -/
def State.combineRep (s : State) (d i stage : Nat) : Nat :=
  match (s.die d).sb.find? fun x => x.idx == i && x.stage == stage with
  | some x => x.rep
  | none =>
    let p := s.part d
    if (s.stage p stage).any Stage.kv then i % s.nRep p stage
    else (((s.repsOf p stage).find? fun r => r.anchor.d.val == d).map Replica.rep).getD 0

/-- R247: the combining scoreboard learns how many expert contributions to expect, or one fewer. -/
def execExpertCount (d : Fin 32) (idx : Fin 1048576) (stage : BitVec 16) (decrement : Bool) (n : Fin 17)
    (s : State) : Host.Outcome State Fault Refusal :=
  runAct (fun s =>
    if (s.passage idx.val).open_ ∧ (s.stage (s.part d.val) stage.toNat).isSome then
      touchItem d.val idx.val stage.toNat (s.combineRep d.val idx.val stage.toNat) (fun x =>
        { x with exp := if decrement then x.exp.map (fun k => k - 1) else some n.val }) s
    else []) s

/-- R247: an expert contribution has arrived at a combining stage. -/
def expertArrived (d i stage : Nat) : Act := fun s =>
  touchItem d i stage (s.combineRep d i stage) (fun x => { x with expGot := x.expGot + 1 }) s

/-- Why passage i is held by work of a step in flight (R196, R243, R245, R307): a selection queued for capacity, an item under curfew,
or one that waits for a replica in service; none where nothing of it waits. -/
def State.holdReason (s : State) (i : Nat) : Option Nat :=
  let on := fun (f : Die → Bool) => allDies.any fun d => f (s.die d)
  if on fun x => x.routers.any fun r => r.queue.any fun q => q.idx == i then some 2
  else if allDies.any fun d => (s.die d).sb.any fun y =>
      y.idx == i && y.phase == 0 && y.ready && s.curfewed (s.part d) y.stage (s.passage i).epoch then some 1
  else if on fun x => x.routers.any (fun r => r.waits.any fun q => q.idx == i) || x.sb.any fun y => y.idx == i && y.noRep then some 3
  else none

/-- R212: a passage held by its step's work goes on once no reason is left, or shows the reason that is. -/
def settleHold (i : Nat) : Act := fun s =>
  let p := s.passage i
  if p.st = 2 ∧ (p.hold = 1 ∨ p.hold = 2 ∨ p.hold = 3) then
    match s.holdReason i with
    | some r => if r = p.hold then [] else changeEntry i (fun p => { p with hold := r }) s
    | none => unholdP i p.hold s
  else []

/-- An item that waits for a replica in service is marked, or no longer (R196, R228). -/
def markNoRep (d i stage rep : Nat) (v : Bool) : Act := modDie d fun x =>
  { x with sb := x.sb.map fun y => if y.is i stage rep then { y with noRep := v } else y }

/-- A work item ends at its scheduler (R107 DONE): when every tile of the replica has reported, it leaves the
scoreboard. -/
def itemDone (d i stage rep n : Nat) : Act := modDie d fun x =>
  let step := fun (y : SbItem) => if y.is i stage rep && y.phase == 2 then { y with dones := y.dones + 1 } else y
  { x with sb := (x.sb.map step).filter fun y => !(y.is i stage rep && y.phase == 2 && n ≤ y.dones) }

end Sys2Proof.Machine
end

