-- ==== Sys2Proof/Machine/Inputs.lean ====
section
/-!
DEFINITION. Input segments at a tile (R104, R107, R108): those that have arrived, the drive buffers that hold them, and the items
that take them.
-/
namespace Sys2Proof.Machine

/-- The drive buffer's offset (R104). -/
def driveOff (buf : Nat) : Nat := 0x1600 + 0x600 * buf

/-- The drive buffer of a tile's next item (R108): the two buffers take turns. -/
def Core.nextBuf (c : Core) : Nat :=
  match c.queue.getLast?, c.item with
  | some w, _ => 1 - w.buf
  | none, some w => 1 - w.buf
  | none, none => 0

/-- R107: an item not yet DONE holds a drive buffer. -/
def Core.bufUsed (c : Core) (b : Nat) : Bool :=
  c.item.any (fun w => w.buf == b) || c.queue.any fun w => w.buf == b && w.input.isNone

/-- The drive buffer the tile's next item may take: none while the item before it has none, or it is in use. -/
def Core.freeBuf (c : Core) : Option Nat :=
  if c.queue.any (fun w => w.input.isSome) || c.bufUsed c.nextBuf then none else some c.nextBuf

/-- The bytes of a drive buffer as its two input segments. -/
def inHalves (b : List Byte) : List TileIn :=
  [⟨0, none, none, b.take 528, slice b 1056 136⟩, ⟨1, none, none, slice b 528 528, slice b 1192 136⟩]
def State.driveIn (s : State) (c : CoreId) (buf : Nat) : List TileIn := inHalves (s.bytes (coreBase c + driveOff buf) 1328)

/-- The input segments of passage i at a tile: those reported for it, else the oldest not yet reported. -/
def Core.inputOf (k : Core) (i : Nat) : List TileIn :=
  match k.ins.filter fun x => x.idx == some i with
  | [] => [0, 1].filterMap fun h => k.ins.find? fun x => x.half == h && x.idx.isNone
  | l => l

/-- The input of a tile's next item of passage i; the drive buffer's where no segment of it is known. -/
def State.nextInput (s : State) (c : CoreId) (i : Nat) : List TileIn :=
  match (s.core c).inputOf i with
  | [] => s.driveIn c (s.core c).nextBuf
  | l => l

/-- An input segment is written into a drive buffer (R104). -/
def writeHalf (c : CoreId) (b : Nat) (x : TileIn) : Act :=
  seqA [putBytes (coreBase c + driveOff b + 528 * x.half) x.seg,
    whenA (fun _ => !x.list.isEmpty) (putBytes (coreBase c + driveOff b + 1056 + 136 * x.half) x.list)]

/-- R104, R107: an input segment arrives at a tile: in the next drive buffer, or waiting until it is free. -/
def arriveInput (c : CoreId) (x : TileIn) : Act := fun s =>
  let k := s.core c
  match k.freeBuf.filter fun b => !k.ins.any fun y => y.half == x.half && y.buf == some b with
  | some b => seqA [writeHalf c b x, modCore c fun k => { k with ins := k.ins ++ [{ x with buf := some b }] }] s
  | none => modCore c (fun k => { k with ins := k.ins ++ [x] }) s

/-- The input segments of passage i leave a tile's waiting ones. -/
def takeInput (c : CoreId) (i : Nat) : Act := modCore c fun k => { k with ins := k.ins.filter fun x => !(k.inputOf i).contains x }

/-- Input segments that wait no longer stand in drive buffer b. -/
def Core.unbuf (k : Core) (b : Nat) : Core := { k with ins := k.ins.map fun x => if x.buf = some b then { x with buf := none } else x }

/-- An item of passage i joins a tile's work queue with its input: in a drive buffer where one is free, else waiting for one (R107). -/
def enqueue (c : CoreId) (i : Nat) (w : WorkItem) : Act := fun s =>
  let k := s.core c
  let l := k.inputOf i
  let push := fun (w : WorkItem) => modCore c fun k => { k with queue := k.queue ++ [w] }
  match k.freeBuf with
  | some b => seqA [takeInput c i, modCore c fun k => k.unbuf b, forA (l.filter fun x => x.buf != some b) (writeHalf c b),
      push { w with buf := b, input := none }] s
  | none => seqA [takeInput c i, push { w with buf := k.nextBuf, input := if l.isEmpty then none else some l }] s

end Sys2Proof.Machine
end

