-- ==== Sys2Proof/Machine/Routing.lean ====
section
/-!
DEFINITION. Expert routing and early exit (R235–R256): selection, gates, capacity, dispatch of held segments, the exit
test, and the counters of both.
-/
namespace Sys2Proof.Machine

/-! ## Exponentials in 96 fraction bits -/

/-- 1.0 in 96 fraction bits. -/
def one96 : Int := 2 ^ 96

/-- e^−y for 0 ≤ y < 1 in 96 fraction bits, by its series: term k is the one before times −y / k. -/
def expSeries (y : Int) : Nat → Int → Int → Int
  | 0, _, acc => acc
  | n + 1, t, acc => expSeries y n (-(t * y) / (one96 * (32 - (n : Int)))) (acc + -(t * y) / (one96 * (32 - (n : Int))))

/-- e^−x for x ≥ 0 in 96 fraction bits, 0 beyond x = 60. -/
def expNeg (x : Int) : Int :=
  if 60 * one96 < x then 0
  else (List.range 8).foldl (fun v _ => v * v / one96) (expSeries (x / 256) 32 one96 one96)

/-- m × 2^e in 96 fraction bits. -/
def fix96 (m e : Int) : Int := roundP2 m (e + 96)

/-- The integers within `tol`/4 of n/d, lowest first, that a result may take. -/
def within (n d : Int) (tol : Nat) : List Int :=
  ((List.range (tol + 3)).map fun k => n / d - tol + (k : Int)).filter fun v =>
    decide (4 * (v * d - n).natAbs ≤ tol * d.natAbs)

/-- R240: the values a gate may take: those within 0.75 × 2^−15 of the softmax of the selected scores. -/
def gateChoices (scores : List (Int × Int)) (j : Nat) : List Int :=
  let fx := scores.map fun p => fix96 p.1 p.2
  let top := fx.foldl max (fx.headD 0)
  let ex := fx.map fun v => expNeg (top - v)
  (within (ex.getD j 0 * 2 ^ 15) ex.sum 3).filter fun v => 0 ≤ v && v ≤ 32768

/-- R250: the values the confidence may take in 16 fraction bits, within 2^−15 of the logistic of m × 2^e. -/
def confChoices (m e : Int) : List Int :=
  let v := fix96 m e
  let x := expNeg v.natAbs
  let num := if 0 ≤ v then one96 else x
  (within (num * 2 ^ 16) (one96 + x) 8).filter fun c => 0 ≤ c && c ≤ 65536

/-- One of a list of choices: which one is free. -/
def State.pick (s : State) (l : List Int) (k : Nat) : Nat := (l.getD (Config.freeNat (s.free + k) % l.length) 0).toNat

/-! ## Selection (R239–R241) -/

/-- Count reserved codes decoded on die d (R551). -/
def countRsvd (d n : Nat) : Act := whenA (fun _ => n != 0) (bump F.SCH_FMT_CNT_RSVD_CODE d n)

/-- The scores of a router's output segments: mantissa and exponent of every element in order (R239). -/
def scoresOf (fmt : Nat) (segs : List (List Byte)) : List (Int × Int) :=
  segs.flatMap fun sg => (decSeg fmt sg).1.flatMap fun b =>
    if b.isZero then List.replicate 32 (0, 0) else b.m.map fun m => (m, (b.e : Int) - 127)

/-- Whether score a exceeds score b, exactly. -/
def scoreGt (a b : Int × Int) : Bool :=
  let e := min a.2 b.2
  decide (b.1 * 2 ^ (b.2 - e).toNat < a.1 * 2 ^ (a.2 - e).toNat)

/-- Insert an expert into a ranking: larger scores first, equal scores by lower index. -/
def insScore (x : Nat × Int × Int) : List (Nat × Int × Int) → List (Nat × Int × Int)
  | [] => [x]
  | y :: r => if scoreGt x.2 y.2 then x :: y :: r else y :: insScore x r

/-- R239: the K largest scores among the first G, in rank order. -/
def topK (k g : Nat) (scores : List (Int × Int)) : List (Nat × Int × Int) :=
  ((((List.range g).map fun i => (i, scores.getD i (0, 0))).foldl (fun l x => insScore x l) []).take k)

/-- R242: the capacity of each expert for a batch of B items; 0 for no limit. -/
def capacity (factor b k g : Nat) : Nat := if factor = 0 then 0 else max 1 ((factor * b * k + 256 * g - 1) / (256 * g))

/-- What a router replica keeps (R242, R243). -/
def Die.router (x : Die) (stage rep : Nat) : RouterRep :=
  (x.routers.find? fun r => r.stage == stage && r.rep == rep).getD ⟨stage, rep, 0, 0, [], [], [], []⟩

/-- Put a router replica's record back. -/
def Die.setRouter (x : Die) (r : RouterRep) : Die :=
  { x with routers := (x.routers.filter fun y => !(y.stage == r.stage && y.rep == r.rep)) ++ [r] }

/-- Selections counted against an expert in the current batch. -/
def RouterRep.usedBy (r : RouterRep) (e : Nat) : Nat := ((r.used.find? fun x => x.1 == e).map Prod.snd).getD 0

/-- One more selection counted against an expert. -/
def RouterRep.use (r : RouterRep) (e : Nat) : RouterRep :=
  { r with used := (r.used.filter fun x => x.1 != e) ++ [(e, r.usedBy e + 1)] }

/-- R242: the record with the capacity of batch b in force: the latest batch's, or that of an earlier one whose scores come now. -/
def RouterRep.load (b : Nat) (r : RouterRep) : RouterRep :=
  if r.bat = b then r
  else match r.past.find? fun x => x.bat == b with
  | some x => { r with cap := x.cap, used := x.used }
  | none => r

/-- The record after batch b's capacity has been counted against in `x`. -/
def RouterRep.store (b : Nat) (r x : RouterRep) : RouterRep :=
  if r.bat = b then x
  else { x with cap := r.cap, used := r.used
                past := r.past.map fun y => if y.bat = b then { y with used := x.used } else y }

/-- The expert has capacity left. -/
def RouterRep.room (r : RouterRep) (e : Nat) : Bool := r.cap == 0 || decide (r.usedBy e < r.cap)

/-- What happens to the selections of one work item. -/
structure Plan where
  rr : RouterRep
  go : List Sel
  dropped : Nat
  qovf : Nat
  zero : Nat
  deriving DecidableEq, Repr

/-- R241–R243: one selection, in rank order. -/
def planSel (pol : Nat) (pl : Plan) (x : Sel) : Plan :=
  if x.q = 0 then { pl with zero := pl.zero + 1 }
  else if pl.rr.room x.expert then { pl with rr := pl.rr.use x.expert, go := pl.go ++ [x] }
  else if pol = 0 then { pl with dropped := pl.dropped + 1 }
  else if pl.rr.queue.length < 256 then { pl with rr := { pl.rr with queue := pl.rr.queue ++ [x] } }
  else { pl with qovf := pl.qovf + 1 }

/-! ## Dispatch (R245–R247) -/

/-- The segments held for a work item of a router or exit replica. -/
def Die.held (x : Die) (stage rep i : Nat) : List (List Byte) :=
  ((x.dispBuf.find? fun h => h.stage == stage && h.rep == rep && h.idx == i).map Held.segs).getD []

/-- R238: the held segments of a work item are released when nothing of it waits any more. -/
def releaseHeld (d stage rep i : Nat) : Act := modDie d fun x =>
  let r := x.router stage rep
  if r.queue.any (fun q => q.idx == i) || r.waits.any (fun q => q.idx == i) then x
  else { x with dispBuf := x.dispBuf.filter fun h => !(h.stage == stage && h.rep == rep && h.idx == i) }

/-- A segment with its outlier list as one WRITE packet of partition p (R132, R133). DESIGN CHOICE (log entry 28): TAG holds the segment
number, or HALF of a tile's route. -/
def segPacket (p : Nat) (src : TileId) (srcKind : Fin 16) (vc : Vc) (seg : Nat) (bytes : List Byte) : Packet :=
  { ptype := 1, mc := false, tree := 0, dst := src, kind := 0, src := src, srcKind := srcKind, part := ⟨p % 64, Nat.mod_lt _ (by decide)⟩
    tag := BitVec.ofNat 16 seg, vc := vc, data := bytes, crcOk := true, msg := 0 }

/-- R246: the unicast packet that takes a segment from die d's scheduler to the entry point of a replica on this part, or to the tier engine
that runs it. -/
def State.entryPkt (s : State) (d p target rep seg : Nat) (bytes : List Byte) : Option (TileId × Packet) :=
  let k := segPacket p (schedRouter d) 1 .act seg bytes
  match s.repOf p target rep, s.tierDie p target with
  | some r, _ => some (schedRouter d, { k with dst := schedRouter r.anchor.d.val, kind := 1 })
  | none, some e => some (schedRouter d, { k with dst := tierRouter e, kind := 5 })
  | none, none => none

/-- R187: the packet that takes a segment of a source on the tree of destination replica `r` of one of its route entries. -/
def State.treePkt (s : State) (p stage rep out route r seg : Nat) (bytes : List Byte) : Option (TileId × Packet) :=
  ((s.job p).fams.find? fun f => f.stage == stage && f.rep == rep && f.out == out && f.route == route).map fun f =>
    (f.src, { segPacket p f.src 1 (if f.red then .red else .act) seg bytes with
      mc := true, tree := BitVec.ofNat 16 (f.base + r % max 1 f.leaves.length) })

/-- Send segments to a replica's entry point as its input segments from `first` on, with an expert item's gate (R246). -/
def sendSegs (d i target rep first : Nat) (gate : Option Nat) (segs : List (List Byte)) : Act := fun s =>
  forA segs.zipIdx (fun x => emit (.segment d i target rep (first + x.2) gate x.1
    (s.entryPkt d (s.part d) target rep (first + x.2) x.1))) s

/-- R245: the replica of expert stage e a selection of passage i goes to: on this part, else replica (i + EXPERT) mod REP of those on
other parts; none where R196 applies. -/
def State.expertRep (s : State) (p e i : Nat) : Option Nat :=
  match s.stage p e with
  | none => none
  | some st =>
    if st.kv then (if (s.repOf p e (i % s.nRep p e)).all (fun y => !Replica.outOfService y) then some (i % s.nRep p e) else none)
    else if (s.tierDie p e).isSome then some 0
    else match s.freeRep p e none with
      | some r => some r.rep
      | none => (s.farReps p e)[(i + st.eidx) % (s.farReps p e).length]?

/-- Change a router stage's counters on die d. -/
def modExp (d stage : Nat) (f : ExpCnt → ExpCnt) : Act := modDie d fun x =>
  { x with expCnt := SMap.set (fun _ => ExpCnt.zero) x.expCnt stage (f (SMap.get (fun _ => ExpCnt.zero) x.expCnt stage)) }

/-- A count that saturates at 32 bits. -/
def sat32 (n : Nat) : Nat := min n (2 ^ 32 - 1)

/-- R248: the gate of an expert's work item on the scoreboard that tracks the item: that of its replica's anchor die, or of the die whose
tier engine runs it; an item on another part takes the gate its segments carry. -/
def gateItem (d p e r i q : Nat) : Act := fun s =>
  match (s.repOf p e r).map (fun x => x.anchor.d.val), s.tierDie p e with
  | some k, _ => touchItem k i e r (fun y => { y with gate := some q }) s
  | none, some k => touchItem k i e r (fun y => { y with gate := some q }) s
  | none, none => if r = 255 then touchItem d i e r (fun y => { y with gate := some q }) s else []

/-- R245, R248: dispatch one selection: its segments go to the chosen replica of its expert stage, to the tier engine where
none is in service and the expert's recipe sets TIER_SUB, or the selection waits with the passage HELD. A selection that goes is counted. -/
def dispatchSel (d stage rep : Nat) (x : Sel) : Act := fun s =>
  let p := s.part d
  match (s.stage p stage).bind fun st => s.expertStage p st.egroup x.expert with
  | none => []
  | some e =>
    let st := s.stage p e
    let segs := (s.die d).held stage rep x.idx
    let sent := modExp d stage fun e => { e with dispatched := sat32 (e.dispatched + 1) }
    match s.expertRep p e x.idx with
    | some r => seqA [sent, gateItem d p e r x.idx x.q, sendSegs d x.idx e r 0 (some x.q) segs] s
    | none =>
      if st.any (fun y => (s.rcp d (Stage.rcp y)).tierSub) then
        seqA [sent, gateItem d p e 255 x.idx x.q, emit (.ctl "TIER" d p e x.idx), sendSegs d x.idx e 255 0 (some x.q) segs] s
      else seqA [modDie d fun y =>
          let r := y.router stage rep
          y.setRouter { r with waits := r.waits ++ [x] },
        holdP x.idx 3] s

/-- Dispatch a list of selections. -/
def dispatchAll (d stage rep : Nat) (l : List Sel) : Act := forA l (dispatchSel d stage rep)

/-- Selections of a router stage queued on a die, over its replicas there (R256). -/
def Die.queuedNow (x : Die) (stage : Nat) : Nat := ((x.routers.filter fun r => r.stage == stage).map fun r => r.queue.length).sum

/-- R239, R551: the reserved codes the scheduler decodes: those of the blocks that hold the scores 0 to G − 1, whole blocks of 32. -/
def scoreRsvd (fmt g : Nat) (segs : List (List Byte)) : Nat :=
  ((List.range ((g + 31) / 32)).map fun b => let sg := segs.getD (b / 16) []
    (decBlock fmt (sg.getD (fmtExpOff fmt + b % 16) 0).toNat sg (b % 16 * fmtBlkBytes fmt)).2).sum

/-- R239–R246: select, gate, count, apply the capacity of the item's own batch, tell the combining scoreboards, dispatch. DEDUCED (log
entry 211): the reserved codes counted are those of the blocks the scores stand in, elements past G of such a block included. -/
def routeScores (d stage rep i bat : Nat) (st : Stage) (r : Recipe) (segs : List (List Byte)) : Act := fun s =>
  let p := s.part d
  let g := s.groupSize p st.egroup
  let tk := topK (min st.topk g) g (scoresOf r.outFmt segs)
  let sels := tk.zipIdx.map fun x =>
    (⟨i, (s.passage i).handle, x.1.1, s.pick (gateChoices (tk.map Prod.snd) x.2) x.2⟩ : Sel)
  let rr := (s.die d).router stage rep
  let pl := sels.foldl (planSel r.capPol) ⟨rr.load bat, [], 0, 0, 0⟩
  let queued := pl.rr.queue.filter fun q => q.idx == i
  let comb := ((sels.head?.bind fun y => s.expertStage p st.egroup y.expert).elim [] (s.ownersOf p)).dedup
  seqA [countRsvd d (scoreRsvd r.outFmt g segs),
    forA tk fun _ => draw,
    modExp d stage (fun e => { e with
      selected := sat32 (e.selected + sels.length), cap := sat32 (e.cap + pl.dropped), qovf := sat32 (e.qovf + pl.qovf)
      zgate := sat32 (e.zgate + pl.zero) }),
    whenA (fun s => s.flag F.SCH_EXP_HIST_EN d) (modDie d fun x => { x with
      hist := sels.foldl (fun m y => match s.expertStage p st.egroup y.expert with
        | some e => SMap.set (fun _ => 0) m e (SMap.get (fun _ => 0) m e + 1)
        | none => m) x.hist }),
    modDie d fun x => x.setRouter (rr.store bat pl.rr),
    withA (fun s => (s.die d).queuedNow stage) fun n => modExp d stage fun e => { e with peak := max e.peak n },
    forA comb fun x => emit (.ctl "EXPERT_COUNT" d x i (pl.go.length + queued.length)),
    dispatchAll d stage rep pl.go,
    whenA (fun _ => !queued.isEmpty) (holdP i 2), releaseHeld d stage rep i] s

/-- R281, R283, R325: a scheduler reads the dispatch buffer of die d for a work item of passage i: a word that cannot be corrected ends the
passage. DESIGN CHOICE (log entry 219): which slice holds it is free. -/
def bufRead (d stage i : Nat) (e : Ecc) (act : Act) : Act := fun s =>
  match e with
  | .ok => act s
  | .corrected => seqA [bump F.STK_SC_ECC_CORR d 1, act] s
  | .uncorrectable =>
    seqA [draw, bump F.STK_SC_ECC_UNCORR d 1, bump F.CHK_DATA_MEM d 1,
      chkReport d ⟨BitVec.ofNat 32 (unitSlice d (Config.freeNat s.free % 16)), 5, 0, stage, s.mile, 0, (s.passage i).handle, 0⟩,
      endPassage i 9] s

/-- R239, R244: the scores of a router's dispatched work item reach die d's scheduler, which applies the recipe version of the item's
batch. -/
def execRouterScores : Fin 32 → BitVec 16 → BitVec 8 → Fin 1048576 → Read (List (List Byte)) → State → Host.Outcome State Fault Refusal
  | d, stage, rep, idx, ⟨segs, ecc⟩, s =>
  runAct (fun s =>
    match s.stage (s.part d.val) stage.toNat with
    | none => []
    | some st =>
      match (s.die d.val).sb.find? fun x => x.is idx.val stage.toNat rep.toNat && x.phase == 2 with
      | some x => if st.kind = 1 ∧ (s.passage idx.val).open_ = true then
          bufRead d.val stage.toNat idx.val ecc (routeScores d.val stage.toNat rep.toNat idx.val x.bat st x.rcp segs) s else []
      | none => []) s

/-! ## A router's batch closes (R242–R244) -/

/-- Queued selections offered in order against a new batch: those dispatched, and the record with those that stay. -/
def offerQueue (r : RouterRep) : List Sel → RouterRep × List Sel
  | [] => (r, [])
  | x :: q =>
    if r.room x.expert then
      let y := offerQueue (r.use x.expert) q
      (y.1, x :: y.2)
    else
      let y := offerQueue r q
      ({ y.1 with queue := x :: y.1.queue }, y.2)

/-- R242–R244: batch `bat` of B items of a router replica closes under recipe `rc`: capacity counts anew, and queued selections are
offered first. The capacity of earlier batches stays while items of theirs are on the scoreboard. -/
def routerBatch (d stage rep b : Nat) (rc : Recipe) (bat : Nat) : Act := fun s =>
  match s.stage (s.part d) stage with
  | none => []
  | some st =>
    if st.kind ≠ 1 then [] else
    let r := (s.die d).router stage rep
    let c := capacity rc.capFactor b st.topk (s.groupSize (s.part d) st.egroup)
    let past := (r.past ++ [({ bat := r.bat, cap := r.cap, used := r.used } : RBatch)]).filter fun x => (s.die d).sb.any fun y => y.bat == x.bat && y.stage == stage && y.rep == rep
    let o := offerQueue { r with bat := bat, past := past, cap := c, used := [], queue := [] } r.queue
    let left := o.1.queue.map Sel.idx
    seqA [modDie d fun x => x.setRouter o.1, dispatchAll d stage rep o.2,
      forA (o.2.map Sel.idx).dedup fun i =>
        seqA [whenA (fun _ => !left.contains i) (settleHold i), releaseHeld d stage rep i]] s

/-- SCH_BATCH.MAX as it acts (R233). -/
def State.batchMax (s : State) (d : Nat) : Nat := max 1 (min 256 (s.fld F.SCH_BATCH_MAX d))

/-- R243: a router replica with queued selections and no new batch closes an empty one. -/
def execCapacityEmptyBatch (d : Fin 32) (stage : BitVec 16) (rep : BitVec 8) (s : State) :
    Host.Outcome State Fault Refusal :=
  runAct (fun s =>
    if ((s.die d.val).router stage.toNat rep.toNat).queue.isEmpty then []
    else
      let rc := (s.stage (s.part d.val) stage.toNat).elim Recipe.zero fun st => s.rcp d.val st.rcp
      let bat := (s.die d.val).batNo * 32 + d.val
      seqA [modDie d.val fun x => { x with batNo := x.batNo + 1 },
        routerBatch d.val stage.toNat rep.toNat (s.batchMax d.val) rc bat] s) s

/-- R246: an entry point injects a segment of passage idx on its replica's entry tree. -/
def execEntryPointInject : Fin 32 → BitVec 16 → BitVec 8 → EntrySeg → State → Host.Outcome State Fault Refusal
  | d, stage, rep, ⟨idx, seg, bytes⟩, s =>
  runAct (emit (.segment d.val idx.val stage.toNat rep.toNat seg.toNat none bytes
    (s.treePkt (s.part d.val) stage.toNat rep.toNat seg.toNat 0xFFFF 0 seg.toNat bytes))) s

/-! ## Early exit (R250–R252) -/

/-- R187: the tree of a group that a passage's segments take. DEDUCED (log entry 215): where a leaf stage keeps key-value state, that of the
passage's replica in the leaf stage with most replicas, else that of the replica R228 chooses there. -/
def State.groupRep (s : State) (p i : Nat) (ls : List Nat) : Nat :=
  let n := ls.foldl (fun m l => max m (s.nRep p l)) 1
  if ls.any fun l => (s.stage p l).any Stage.kv then i % n
  else ((ls.find? fun l => s.nRep p l == n).bind fun l => s.chooseRep p l i).getD 0

/-- Send the segments of a passage on one route entry of a stage replica, on the trees of R187 (R214, R251, R398): to the chosen replica of a
stage, to every leaf stage of a group with one packet, or to the result slot. -/
def sendRoute (d i stage rep : Nat) (segs : List (List Byte)) (r : RouteDef × Nat) : Act := fun s =>
  let p := s.part d
  let send := fun (target q : Nat) (tree : Bool) => forA segs.zipIdx fun x => emit (.segment d i target q (r.1.dseg + x.2) none x.1
    (if tree then s.treePkt p stage rep x.2 r.2 q (r.1.dseg + x.2) x.1 else none))
  match r.1.kind with
  | 0 => send r.1.target ((s.chooseRep p r.1.target i).getD 0) true s
  | 1 =>
    let ls := s.groupLeaves (s.job p).addr r.1.target
    let q := s.groupRep p i ls
    seqA [send (ls.headD 0) q true, forA (ls.drop 1) fun l => send l (q % max 1 (s.nRep p l)) false] s
  | _ => send 65536 0 false s

/-- Change an exit stage's counts (tested, taken) on die d. -/
def modExit (d stage : Nat) (taken : Bool) : Act := modDie d fun x =>
  let c := SMap.get (fun _ => (0, 0)) x.exitCnt stage
  let n := (sat32 (c.1 + 1), if taken then sat32 (c.2 + 1) else c.2)
  { x with exitCnt := SMap.set (fun _ => (0, 0)) x.exitCnt stage n }

/-- R250, R251: the exit test on element 0 of output segment 0, and the held segments sent on. The scheduler decodes the element's block,
and counts its reserved codes (log entry 211). -/
def exitTest (d stage rep i : Nat) (st : Stage) (r : Recipe) (seg : List Byte) : Act := fun s =>
  let b := decBlock r.outFmt (seg.getD (fmtExpOff r.outFmt) 0).toNat seg 0
  let c := s.pick (confChoices (b.1.m.getD 0 0) ((b.1.e : Nat) - 127)) 0
  let take := r.exitThr != 0 && !(s.passage i).noExit && decide (r.exitThr ≤ c)
  let rt := (s.routesOf (s.job (s.part d)).addr st).zipIdx
  let segs := (s.die d).held stage rep i
  seqA [countRsvd d b.2, draw, modExit d stage take,
    whenA (fun _ => take) (modPassage i fun p => { p with exitAt := if p.exitAt = 0xFFFF then stage else p.exitAt }),
    forA (if take then rt.drop 2 else (rt.drop 1).take 1) (sendRoute d i stage rep segs), releaseHeld d stage rep i] s

/-- R250: an exit stage's value reaches die d's scheduler. -/
def execExitTest : Fin 32 → BitVec 16 → BitVec 8 → Fin 1048576 → Read (List Byte) → State → Host.Outcome State Fault Refusal
  | d, stage, rep, idx, ⟨seg, ecc⟩, s =>
  runAct (fun s =>
    match s.stage (s.part d.val) stage.toNat with
    | none => []
    | some st =>
      match (s.die d.val).sb.find? fun x => x.is idx.val stage.toNat rep.toNat && x.phase == 2 with
      | some x => if st.kind = 2 ∧ (s.passage idx.val).open_ = true then
          bufRead d.val stage.toNat idx.val ecc (exitTest d.val stage.toNat rep.toNat idx.val st x.rcp seg) s else []
      | none => []) s

/-! ## Counters (R256) -/

/-- Add the histogram's counts of die d to the stack and clear them. -/
def flushHist (d : Nat) : Act := fun s =>
  let a := s.fld F.SCH_EXP_HIST_ADDR d * 64
  if s.flag F.SCH_EXP_HIST_EN d then
    seqA [forA (s.die d).hist (fun x => fun s =>
        storeBytes true (a + 4 * x.1) (leBytes 4 ((s.num (a + 4 * x.1) 4 + x.2) % 2 ^ 32)) s),
      modDie d fun x => { x with hist := [] }] s
  else []

/-- R256: the histogram counts of die d are written to the stack. -/
def execHistFlush (d : Fin 32) (s : State) : Host.Outcome State Fault Refusal := runAct (flushHist d.val) s

/-- R256: a write of SCH_EXP_CLR. DEDUCED (log entry 15): the counts of every stage are cleared, PEAK among them;
NOW shows what is queued. -/
def hostExpCntClear (src : Src) (d : Fin 32) (v : Word) : Act := fun s =>
  (guardW src .sch d.val 0x340 (whenA (fun _ => bitsOf v 0 0 == 1)
    (seqA [modDie d.val fun x => { x with expCnt := [], exitCnt := [] }, setF F.SCH_DISP_BUF_WAITS d.val 0]))) s

/-- ExpCntClear: the command of its row. -/
def execExpCntClear (src : Src) (d : Fin 32) (v : Word) (s : State) : Host.Outcome State Fault Refusal :=
  runAct (hostExpCntClear src d v) s

end Sys2Proof.Machine
end

