-- ==== Sys2Proof/Machine/Batches.lean ====
section
/-!
DEFINITION. Batching and dispatch (R226–R230), the end of a step (R213), and the admission stop (R229).
-/
namespace Sys2Proof.Machine

/-! ## Batches (R226, R227) -/

/-- R227: the selection key of a ready item: effective priority, deadline, readiness, index. -/
def State.selKey (s : State) (d : Nat) (x : SbItem) : Nat × Nat × Nat × Nat :=
  let p := s.passage x.idx
  let age := max 10 (min 40 (s.fld F.SCH_AGE_EXP d))
  (p.prio - (s.mile - x.mile).toNat / 2 ^ age, if p.deadline = 0 then 2 ^ 64 else p.deadline.toNat, x.ord, x.idx)

/-- Items of a replica that are ready and in no batch, in selection order. -/
def State.readyItems (s : State) (d stage rep : Nat) : List SbItem :=
  sortKey (s.selKey d) ((s.die d).sb.filter fun x =>
    x.stage == stage && x.rep == rep && x.phase == 0 && x.ready && (s.passage x.idx).open_)

/-- R307: ready items that the curfew holds, and the others. -/
def State.heldItems (s : State) (d stage rep : Nat) : List SbItem :=
  (s.readyItems d stage rep).filter fun x => s.curfewed (s.part d) stage (s.passage x.idx).epoch
def State.freeItems (s : State) (d stage rep : Nat) : List SbItem :=
  (s.readyItems d stage rep).filter fun x => !s.curfewed (s.part d) stage (s.passage x.idx).epoch

/-- An item leaves for its replica's tiles or a tier engine (R212): the passage's step is RUNNING, or stays held while other work of it
waits. -/
def sentItem (d i stage rep : Nat) : Act :=
  seqA [modDie d fun x => { x with sb := x.sb.map fun y => if y.is i stage rep then { y with phase := 2, noRep := false } else y },
    modPassage i fun p => { p with stage := stage, st := if p.st = 1 then 3 else p.st
                                   heldFrom := if p.st = 2 ∧ p.heldFrom = 1 then 3 else p.heldFrom },
    settleHold i, bumpW F.SCH_ITEM_CNT_COUNT d 1]

/-- A work item sent to the tier engine of a die (R191, R196, R308, R353): TIER_WORK follows. -/
def tierItem (d e i stage rep : Nat) : Act := seqA [withA (fun s => s.part d) fun p =>
  emit (.ctl "TIER" e p stage i), sentItem d i stage rep]

/-- R307, R308: items under curfew are held with reason CURFEW; where the recipe sets TIER_SUB and their wave is being
written, they go to the tier engine. -/
def holdCurfew (d stage rep : Nat) : Act := fun s =>
  let p := s.part d
  let sub := (s.stage p stage).any fun st => (s.rcp d st.rcp).tierSub
  let writing := (s.job p).swap.any fun w => w.stateOf stage == 1
  forA (s.heldItems d stage rep) (fun x =>
    if sub && writing then tierItem d d x.idx stage rep else holdP x.idx 1) s

/-- Ready items, no curfew standing, of the epoch of the first in selection order: those a batch may take (R226). -/
def State.batchItems (s : State) (d stage rep : Nat) : List SbItem :=
  match s.freeItems d stage rep with
  | [] => []
  | f :: r => (f :: r).filter fun x => (s.passage x.idx).epoch == (s.passage f.idx).epoch

/-- R272: the hints of a work item that joins a batch: to the owner die of its key-value and of its activation window, the stage's bytes at
the passage's offset, each cut to PAS_MAX KiB; none where that is 0. -/
def hintItem (d p stage rep i : Nat) : Act := fun s =>
  let max := s.fld F.STK_PF_CTL_PAS_MAX d * 1024
  let k := s.nRep p stage
  match s.stage p stage with
  | none => []
  | some st =>
    forA ((s.job p).regions.filter fun g => g.stage == stage && g.rep == rep && max != 0) (fun g =>
      let n := if g.kv then st.kvBytes else st.actBytes
      let a := g.base + (i - ((s.range p).getD (0, 0)).1) / k * n
      whenA (fun _ => n != 0) (emit (.ctl "HINT" (s.owner a) p a (min n max)))) s

/-- The number of die d's next batch: no two batches of the part share one. -/
def State.batNext (s : State) (d : Nat) : Nat := (s.die d).batNo * 32 + d

/-- R226: a batch of the replica closes with the first ready items of one epoch, under the version its stage's recipe has now; a
router's capacity counts anew, and the key-value and activation lines of the batch are hinted to their owner dies (R272). -/
def closeBatch (d stage rep : Nat) : Act := fun s =>
  match s.batchItems d stage rep with
  | [] => []
  | f :: r =>
    let p := s.part d
    let ids := ((f :: r).take (s.batchMax d)).map SbItem.idx
    let rc := (s.stage p stage).elim Recipe.zero fun st => s.rcp d st.rcp
    let bat := s.batNext d
    seqA [modDie d fun x => { x with
        batNo := x.batNo + 1
        batches := x.batches ++ [⟨stage, rep, (s.passage f.idx).epoch, bat, rc, ids, 0, ids.length, true, none⟩]
        sb := x.sb.map fun y => if y.stage == stage && y.rep == rep && ids.contains y.idx && y.phase == 0
          then { y with phase := 1, bat := bat, rcp := rc } else y },
      routerBatch d stage rep ids.length rc bat, forA ids (hintItem d p stage rep)] s

/-- No work item of the replica is queued or running (R226). -/
def State.idleRep (s : State) (d stage rep : Nat) : Bool :=
  !(s.die d).sb.any fun x => x.stage == stage && x.rep == rep && (x.phase == 1 || x.phase == 2)

/-- R226: a batch closes at MAX items or for an idle replica. -/
def execBatchClose (d : Fin 32) (stage : BitVec 16) (rep : BitVec 8) (s : State) : Host.Outcome State Fault Refusal :=
  runAct (fun s =>
    seqA [holdCurfew d.val stage.toNat rep.toNat, fun s =>
      if s.batchMax d.val ≤ (s.batchItems d.val stage.toNat rep.toNat).length ∨
          s.idleRep d.val stage.toNat rep.toNat = true then closeBatch d.val stage.toNat rep.toNat s else []] s) s

/-- An item of the replica's next batch has waited SCH_BATCH.WAIT (10 ns units) since it was ready. -/
def State.batchWaited (s : State) (d stage rep : Nat) : Bool :=
  ((s.batchItems d stage rep).take (s.batchMax d)).any fun x => decide (10 * s.fld F.SCH_BATCH_WAIT d ≤ (s.mile - x.mile).toNat)

/-- R226: a batch closes whose oldest item has waited SCH_BATCH.WAIT. -/
def execBatchWaitExpiry (d : Fin 32) (stage : BitVec 16) (rep : BitVec 8) (s : State) :
    Host.Outcome State Fault Refusal :=
  runAct (seqA [holdCurfew d.val stage.toNat rep.toNat,
    whenA (fun s => s.batchWaited d.val stage.toNat rep.toNat) (closeBatch d.val stage.toNat rep.toNat)]) s

/-! ## Dispatch (R108, R187, R226, R228) -/

/-- A tree's entries leave every router. -/
def clearTree (tree part : Nat) : Act := fun s =>
  forA (SMap.keys s.trees) (fun k => eff fun s =>
    .treeTab k ((s.treeTab k).filter fun e => !(e.tree == tree && e.part == part))) s

/-- R146: a source retires a tree: a MARKER follows what it has sent there, on the VC it used; a tree without leaves is cleared at once. -/
def retireTree (o : OldTree) : Act :=
  if o.leaves.isEmpty then clearTree o.tree o.part
  else seqA [eff fun s => .oldTrees (s.oldTrees ++ [o]),
    emit (.enter o.src { segPacket o.part o.src 0 (if o.red then .red else .act) 0 [] with
      ptype := 6, mc := true, tree := BitVec.ofNat 16 o.tree })]

/-- R146, R196 step 5: a source changes to its new routes and trees. -/
def doSwitch (x : Switch) : Act := seqA [forA x.loads fun l => putBytes l.1 l.2, forA x.old retireTree]

/-- The changes of partition p that `f` picks are made. -/
def runSwitches (p : Nat) (f : Switch → Bool) : Act := fun s =>
  let l := (s.job p).switches.filter f
  if l.isEmpty then []
  else seqA [modJob p fun j => { j with switches := j.switches.filter fun x => !f x }, forA l doSwitch] s

/-- A replica of partition p is between two batches, or out of service, or not on this part. -/
def State.atBoundary (s : State) (p stage rep : Nat) : Bool :=
  match s.repOf p stage rep with
  | none => true
  | some r =>
    let x := s.die r.anchor.d.val
    r.outOfService || !(x.sb.any (fun y => y.stage == stage && y.rep == rep && y.phase == 2) ||
      x.batches.any fun b => b.stage == stage && b.rep == rep && b.next != 0)

/-- The changes whose sources stand at a batch boundary are made. -/
def switchIdle (p : Nat) : Act := fun s => runSwitches p (fun x => s.atBoundary p x.stage x.rep) s

/-- A replica's oldest batch begins to be dispatched: its milestone value is read (R51), and its tiles change to new routes and trees
(R146). -/
def startBatch (d stage rep : Nat) : Act := fun s =>
  match (s.die d).batches.find? fun b => b.stage == stage && b.rep == rep with
  | some b =>
    if b.mile.isSome then []
    else seqA [runSwitches (s.part d) fun x => x.stage == stage && x.rep == rep, modDie d fun x => { x with
      batches := x.batches.map fun y => if y.bat == b.bat then { y with mile := some s.mile } else y
      sb := x.sb.map fun y => if y.bat == b.bat && y.phase == 1 && y.stage == stage && y.rep == rep then { y with bmile := s.mile } else y }] s
  | none => []

/-- The next item of the oldest batch of a replica that is not yet wholly dispatched. -/
def State.nextItem (s : State) (d stage rep : Nat) : Option (Batch × Nat) :=
  ((s.die d).batches.find? fun b => b.stage == stage && b.rep == rep).bind fun b => (b.items[b.next]?).map fun i => (b, i)

/-- The batch's next item has been dispatched or dropped; a batch wholly dispatched leaves and is counted. -/
def advance (d stage rep : Nat) : Act := fun s =>
  match (s.die d).batches.findIdx? fun b => b.stage == stage && b.rep == rep with
  | none => []
  | some k =>
    match (s.die d).batches[k]? with
    | none => []
    | some b =>
      if b.items.length ≤ b.next + 1 then
        seqA [modDie d fun x => { x with batches := x.batches.eraseIdx k }, bumpW F.SCH_BATCH_CNT_COUNT d 1] s
      else modDie d (fun x => { x with batches := x.batches.set k { b with next := b.next + 1 } }) s

/-- The destination replica number of a work item (R187): that of its first STAGE or GROUP route (log entry 215). -/
def State.destRep (s : State) (p i : Nat) (st : Stage) : Nat :=
  match (s.routesOf (s.job p).addr st).find? fun r => r.kind ≤ 1 with
  | some r =>
    if r.kind = 0 then (s.chooseRep p r.target i).getD 0 else s.groupRep p i (s.groupLeaves (s.job p).addr r.target)
  | none => 0

/-- The position of a stage's logical array a in the range table (R163). -/
def State.rngOf (s : State) (p stage a : Nat) : Nat := s.rngAt (s.job p).addr (rngBase (s.stagesOf p) stage + a)

/-- Partial sums the owner of an output segment expects (R107): one from each other array, and the experts' count. -/
def expectPsum (st : Stage) (a : Nat) (exp : Option Nat) : Nat :=
  if a / st.nOut = 0 then (st.nIn + 1) / 2 - 1 + exp.getD 0 else 0

/-- The work item of passage i for logical array a of a stage replica (R108, R225). -/
def State.workItem (s : State) (d i stage rep a : Nat) (st : Stage) (t : TileId) (x : SbItem) : WorkItem :=
  let p := s.passage i
  { handle := p.handle, stage := stage, rep := rep, arr := a, retry := false
    seg2 := decide (2 * (a / st.nOut) + 1 < st.nIn), spills := false, mile := x.bmile
    buf := 0, step := x.step, epoch := p.epoch, part := p.part, job := p.job
    rcp := x.rcp, rng := s.rngOf p.part stage a, wx := (s.cell t).wx, seed := p.seed
    destRep := s.destRep p.part i st, gate := x.gate, nPsum := expectPsum st a x.exp, moved := none, input := none }

/-- An input segment with its outlier list as it travels (R104, R116). -/
def inSeg (l : List TileIn) (k fmt : Nat) : List Byte :=
  match l.find? fun x => x.half == k with
  | some x => padTo (inStride fmt) (padTo (fmtSeg fmt) (x.seg.take (fmtSeg fmt)) ++ padTo 136 x.list)
  | none => List.replicate (inStride fmt) 0

/-- R237: the input of a router or exit item of passage i, as its anchor die's dispatch buffer holds it. -/
def State.heldSegs (s : State) (i : Nat) (st : Stage) (r : Replica) (fmt : Nat) : List (List Byte) :=
  (List.range st.nIn).map fun k =>
    match r.tiles[k / 2 * st.nOut]? with
    | some t => inSeg (s.nextInput (.tile t) i) (k % 2) fmt
    | none => []

/-- The units of 64 bytes a router or exit item takes in the dispatch buffer (R237). -/
def dispUnits (st : Stage) (fmt : Nat) : Nat := st.nIn * (inStride fmt / 64)

/-- Units of the dispatch buffer of die d in use. -/
def State.dispUsed (s : State) (d : Nat) : Nat := ((s.die d).dispBuf.map Held.units).sum

/-- R237: the item does not fit the dispatch buffer: it waits, counted once. -/
def dispWait (d : Nat) (x : SbItem) : Act :=
  if x.waited then skip
  else seqA [bump F.SCH_DISP_BUF_WAITS d 1,
    modDie d fun y => { y with sb := y.sb.map fun z => if z.is x.idx x.stage x.rep then { z with waited := true } else z }]

/-- R111: an item offered to a tile that stays in FAULT is abandoned with status TILE_SEQ. -/
def faultedTiles (d i stage rep : Nat) (r : Replica) : Act := fun s =>
  seqA [forA r.tiles fun t => whenA (fun s => (s.core (.tile t)).st == 3) (modCore (.tile t) fun c => { c with queue := [] }),
    endHandle d (s.passage i).handle 1,
    modDie d fun y => { y with sb := y.sb.filter fun z => !z.is i stage rep }] s

/-- Feed an item to the tiles of its replica (R226). -/
def feedTiles (d i stage rep : Nat) (st : Stage) (r : Replica) (x : SbItem) : Act := fun s =>
  let fmt := x.rcp.inFmt
  seqA [whenA (fun _ => st.kind == 1 || st.kind == 2) (modDie d fun y => { y with
      dispBuf := y.dispBuf ++ [⟨stage, rep, i, s.heldSegs i st r fmt, dispUnits st fmt⟩] }),
    forA r.tiles.zipIdx fun t => enqueue (.tile t.1) i (s.workItem d i stage rep t.2 st t.1 x),
    sentItem d i stage rep, advance d stage rep,
    whenA (fun s => r.tiles.any fun t => (s.core (.tile t)).st == 3) (faultedTiles d i stage rep r)] s

/-- A SOURCE item: the passage's input slot goes out on the stage's routes, segment by segment (R214), and the item is
complete. -/
def feedSource (d i stage rep : Nat) (st : Stage) (x : SbItem) : Act := fun s =>
  let p := s.passage i
  let fmt := x.rcp.outFmt
  let base := ringAddr p.inRing + (p.inHead + 65535) % 65536 % 2 ^ ringLog2 p.inRing * s.inSlot p.part +
    (((s.stagesKind p.part 5).filter fun x => decide (x.1 < stage)).map fun x =>
      x.2.nOut * inStride (s.rcp d x.2.rcp).outFmt).sum
  let segs := (List.range st.nOut).map fun k => s.bytes (base + k * inStride fmt) (inStride fmt)
  seqA [sliceReads false base (st.nOut * inStride fmt), forA (s.routesOf (s.job p.part).addr st).zipIdx (sendRoute d i stage (s.rank p.part) segs), sentItem d i stage rep,
    modDie d fun y => { y with sb := y.sb.filter fun z => !z.is i stage rep }, advance d stage rep] s

/-- What has come for passage i at a replica's tiles leaves them: its item runs elsewhere. -/
def takeInputs (l : List TileId) (i : Nat) : Act := forA l fun t => takeInput (.tile t) i

/-- The input of an item of passage i at one replica's tiles is given to another replica's tiles (R196). -/
def copyDrive (i : Nat) (a b : List TileId) : Act :=
  seqA [forA (a.zip b) fun p => fun s => modCore (.tile p.2) (fun k => { k with
      ins := k.ins ++ (s.nextInput (.tile p.1) i).map fun x => { x with idx := some i, buf := none } }) s, takeInputs a i]

/-- Every tile of a replica has a free place in its work queue (R108). -/
def State.queuesOpen (s : State) (r : Replica) : Bool := r.tiles.all fun t => (s.core (.tile t)).queue.length < 8

/-- R237: a router or exit item whose input does not fit the dispatch buffer is not dispatched. -/
def State.dispFull (s : State) (d : Nat) (st : Stage) (x : SbItem) : Bool :=
  (st.kind == 1 || st.kind == 2) && decide (262144 < s.dispUsed d + dispUnits st x.rcp.inFmt)

/-- R237: an item's input goes to the dispatch buffer of die d where its stage is a router or exit, also for an item that a tier engine
runs. -/
def holdSegs (d i stage rep : Nat) (st : Stage) (segs : List (List Byte)) (x : SbItem) : Act :=
  whenA (fun _ => st.kind == 1 || st.kind == 2) (modDie d fun y => { y with
    dispBuf := y.dispBuf ++ [⟨stage, rep, i, segs, dispUnits st x.rcp.inFmt⟩] })

/-- An item's tiles at a replica q take it with its input from the tiles of r, where there is room (R108, R237). -/
def feedFrom (d i stage rep : Nat) (st : Stage) (r q : Replica) (x : SbItem) : Act := fun s =>
  if s.dispFull d st x then dispWait d x s
  else if s.queuesOpen q then seqA [copyDrive i r.tiles q.tiles, feedTiles d i stage rep st q x] s
  else []

/-- An item goes to the tier engine of die e from its replica's batch on die d, with the input its tiles at r hold. -/
def feedTier (d e i stage rep : Nat) (st : Stage) (r : Option Replica) (x : SbItem) : Act := fun s =>
  if s.dispFull d st x then dispWait d x s
  else seqA [holdSegs d i stage rep st (r.elim [] fun q => s.heldSegs i st q x.rcp.inFmt) x, takeInputs (r.elim [] Replica.tiles) i,
    tierItem d e i stage rep, advance d stage rep] s

/-- An item of a replica out of service (R196): to another replica in service, on this part or another, unless its stage holds
key-value state, else to the tier engine where the recipe sets TIER_SUB, else it waits. -/
def dispatchAway (d i stage rep : Nat) (st : Stage) (r : Replica) (x : SbItem) : Act := fun s =>
  let p := s.part d
  let far := if st.kv then [] else s.farReps p stage
  match if st.kv then none else s.freeRep p stage (some rep) with
  | some q => feedFrom d i stage rep st r q x s
  | none =>
    match far[Config.farReplica s.free stage i % far.length]? with
    | some q => seqA [sendSegs d i stage q 0 x.gate (s.heldSegs i st r x.rcp.inFmt), takeInputs r.tiles i, sentItem d i stage rep,
        modDie d fun y => { y with sb := y.sb.filter fun z => !z.is i stage rep }, advance d stage rep] s
    | none =>
      if x.rcp.tierSub then feedTier d d i stage rep st (some r) x s
      else seqA [markNoRep d i stage rep true, holdP i 3] s

/-- R196, R228, R310, R353: dispatch an item of an array stage whose replica is `r`: to the new copy where a shadow swap has
bound one for its epoch. -/
def dispatchTo (d i stage rep : Nat) (st : Stage) (r : Replica) (x : SbItem) : Act := fun s =>
  let cal := r.tiles.any fun t => s.arrState t == 2 || s.arrState t == 3
  match s.copyOf (s.part d) stage rep (s.passage i).epoch with
  | some q => feedFrom d i stage rep st r q x s
  | none =>
  if r.outOfService then dispatchAway d i stage rep st r x s
  else if cal && x.rcp.tierSub then feedTier d r.anchor.d.val i stage rep st (some r) x s
  else if s.dispFull d st x then dispWait d x s
  else if s.queuesOpen r then feedTiles d i stage rep st r x s
  else []

/-- R226: the next item of the replica's batch is dispatched, where there is room. -/
def workDispatch (d stage rep : Nat) : Act := seqA [startBatch d stage rep, fun s =>
  match s.nextItem d stage rep with
  | none => []
  | some (_, i) =>
    let p := s.part d
    match s.stage p stage, (s.die d).sb.find? (SbItem.is i stage rep) with
    | some st, some x =>
      if (s.passage i).open_ = false then advance d stage rep s
      else if st.kind = 5 then feedSource d i stage rep st x s
      else
        match s.repOf p stage rep, s.tierDie p stage with
        | some r, _ => dispatchTo d i stage rep st r x s
        | none, some e => feedTier d e i stage rep st none x s
        | none, none => seqA [markNoRep d i stage rep true, holdP i 3] s
    | _, _ => advance d stage rep s]

/-- R226: the scheduler feeds the next batch item of a replica. -/
def execWorkDispatch (d : Fin 32) (stage : BitVec 16) (rep : BitVec 8) (s : State) : Host.Outcome State Fault Refusal :=
  runAct (workDispatch d.val stage.toNat rep.toNat) s

/-! ## The end of a step, deadlines, the admission stop -/

/-- R213: the SINK result of the step in flight is ready. While the completion queue is full, SINK work items stall
(R221) and the command has no effect. -/
def execStepComplete (d : Fin 32) (idx : Fin 1048576) (result : List Byte) (s : State) :
    Host.Outcome State Fault Refusal :=
  runAct (fun s =>
    let p := s.passage idx.val
    if p.open_ = true ∧ p.home = d.val ∧ p.inflight = true ∧ (s.die p.cring).compQ.length < 256 then
      finishStep idx.val (p.waiting.getD result) s
    else []) s

/-- R229: the occupancy of die d's scoreboard. -/
def State.occ (s : State) (d : Nat) : Nat := (s.die d).sb.length

/-- Passages of a partition that have input pending and no step in flight. -/
def State.pendingPas (s : State) (p : Nat) : List Nat :=
  (s.partLive p).filter fun i => (s.passage i).pendingIn != 0 && !(s.passage i).inflight

/-- R229: a scoreboard has reached 49,152 items. -/
def execAdmissionStop (d : Fin 32) (s : State) : Host.Outcome State Fault Refusal :=
  runAct (fun s =>
    if s.occ d.val < 49152 then []
    else
      let p := s.part d.val
      seqA [setF F.SCH_SB_STS_ADM_STOP d.val 1, emit (.ctl "ADM_STOP" d.val p 1 0), forA (s.pendingPas p) fun i =>
        holdP i 5] s) s

/-- R229: every scoreboard of the partition is below 32,768: passages held for ADM_STOP go on. -/
def execAdmissionStopLift (part : Fin 16) (s : State) : Host.Outcome State Fault Refusal :=
  runAct (fun s =>
    let p := part.val
    if s.admStopped p = false ∨ (s.partDies p).any (fun d => 32768 ≤ s.occ d) = true then []
    else seqA [setFP F.SCH_SB_STS_ADM_STOP p 0, emit (.ctl "ADM_STOP" 0 p 0 0),
      forA ((s.partLive p).filter fun i => (s.passage i).hold == 5) fun i => seqA [unholdP i 5, startStep i]] s) s

/-- R230: the milestone counter has passed a passage's deadline. -/
def execDeadlinePass (d : Fin 32) (idx : Fin 1048576) (s : State) : Host.Outcome State Fault Refusal :=
  runAct (fun s =>
    let p := s.passage idx.val
    if p.open_ = true ∧ p.home = d.val ∧ p.deadline ≠ 0 ∧ p.deadline < s.mile ∧ p.missed = false then
      seqA [bump F.SCH_DL_MISS_COUNT d.val 1, modPassage idx.val fun p => { p with missed := true },
        whenA (fun _ => p.dlFault) (endPassage idx.val 7)] s
    else []) s

end Sys2Proof.Machine
end

