-- ==== Sys2Proof/Machine/Tile.lean ====
section
/-!
DEFINITION. What a sequencer and its tile share (R104–R111): work items, restarts and faults, data errors (R325),
reports to the Keeper (R327, R331), the tolerances of the checker (R319, R322) and the firing budget (R85, R86, R475).
-/
namespace Sys2Proof.Machine

/-! ## Work items -/

/-- A history record of a work item, taken now. -/
def State.histRec (s : State) (unit kind flags : Nat) (w : Option WorkItem) (detail : Nat) : HistRec :=
  ⟨BitVec.ofNat 32 unit, kind, flags, w.elim 0xFFFF WorkItem.stage, s.mile, 0, w.elim 0 WorkItem.handle,
    BitVec.ofNat 32 detail⟩

/-- The unit charged for a core's digital path (R317): the tile's, or the tier engine. -/
def unitDigital : CoreId → Nat
  | .tile t => unitTile 2 t
  | .ctx d _ => unitTier d.val

/-- The die on whose scoreboard a work item stands (R225): that of its replica's anchor, or of its tier engine, unless the
replica has moved since. -/
def State.sbDie (s : State) (w : WorkItem) : Nat :=
  let i := w.handle.toNat % 1048576
  match (s.partDies w.part).find? fun d => (s.die d).sb.any (SbItem.is i w.stage w.rep),
      s.tierDie w.part w.stage, s.repOf w.part w.stage w.rep with
  | some d, _, _ => d
  | none, some d, _ => d
  | none, none, some r => r.anchor.d.val
  | none, none, none => (s.passage i).home

/-- The logical arrays of a work item's stage. -/
def State.nArrOf (s : State) (w : WorkItem) : Nat := (s.stage w.part w.stage).elim 1 fun st => max 1 st.nArr

/-- The passage index of a handle. -/
def idxOf (h : Word32) : Nat := h.toNat % 1048576

/-- No work item of a passage is left on this part: one homed on another part leaves (R57). -/
def guestDone (i : Nat) : Act :=
  whenA (fun s => (s.passage i).guest && !allDies.any fun d => (s.die d).sb.any fun x => x.idx == i) (guestLeaves i)

/-- A tile reports its work item complete. -/
def reportDone (w : WorkItem) : Act := fun s =>
  seqA [itemDone (s.sbDie w) (idxOf w.handle) w.stage w.rep (s.nArrOf w), guestDone (idxOf w.handle)] s

/-- R276: a tier engine context whose work item has ended is free; partial sums for a later item stay. -/
def freeCtx (c : CoreId) : Act :=
  match c with
  | .tile _ => skip
  | .ctx d k => seqA [modCore c fun x => { Core.zero with
        psums := x.psums.filter fun p => (x.item.toList ++ x.queue).all fun w => w.handle != p.1 },
      modDie d.val fun x => { x with tier := SMap.set (fun _ => none) x.tier k.val none }]

/-- A work item ends with a status: its passage is FAULTED, and the item leaves the scoreboard. -/
def failItem (c : CoreId) (w : WorkItem) (status : Nat) : Act := fun s =>
  let d := s.sbDie w
  seqA [endHandle (coreDie c) w.handle status,
    modDie d fun x => { x with sb := x.sb.filter fun y => !y.is (idxOf w.handle) w.stage w.rep }, freeCtx c] s

/-- A sequencer restarted at instruction 0 (R109): s1–s15 zero, nothing outstanding, no item held. -/
def Core.restart (k : Core) : Core :=
  { k with sregs := List.replicate 16 0, pc := 0, st := 1, item := none, req := 0, ev := 0, mvm := none, opass := none,
           mvmRes := none, opRes := none, psumAdded := 0, gainErr := false, spillBad := false, spilled := false,
           passFirst := false, spillReq := [], readBuf := none
           psums := k.psums.filter fun p => (k.item.elim true fun w => w.handle != p.1) }

/-- The item at hand ends: what was received for it goes with it. -/
def Core.endItem (k : Core) : Core :=
  { k with item := none, req := 0, ev := 0, mvm := none, opass := none, mvmRes := none, opRes := none, psumAdded := 0
           gainErr := false, spillBad := false, spilled := false, passFirst := false, spillReq := [], readBuf := none
           psums := k.psums.filter fun p => (k.item.elim true fun w => w.handle != p.1) }

/-- R111: the log record of a sequencer fault. -/
def logSeqFault (c : CoreId) (k : Core) (cause : Nat) : Act :=
  logEv (some (coreDie c)) 3 2 0x100 (unitDigital c) (k.item.elim 0x3F WorkItem.part) (k.item.elim 0 WorkItem.job)
    (k.item.elim 0 WorkItem.handle) (leBytes 2 cause ++ leBytes 2 k.pc)

/-- Abandon every queued item of a core in FAULT, with status TILE_SEQ (R111). -/
def abandonQueue (c : CoreId) : Act := fun s =>
  let k := s.core c
  seqA [modCore c fun k => { k with queue := [], second := none, secondQ := [] },
    forA (k.second.toList ++ k.secondQ ++ k.queue) fun w => failItem c w 1] s

/-- R111: a sequencer fault: counted, logged; the item at hand ends with TILE_SEQ and the sequencer restarts, or
without an item it stays in FAULT and abandons what is queued. -/
def seqFault (c : CoreId) (cause : Nat) : Act := fun s =>
  let k := s.core c
  seqA [match c with
      | .tile t => bump F.TIL_SEQ_FLT_COUNT (tileKey t) 1
      | .ctx _ _ => skip,
    logSeqFault c k cause,
    match k.item with
    | some w => seqA [modCore c fun k => { k.restart with cause := cause }, failItem c w 1]
    | none => seqA [modCore c fun k => { k with st := 3, cause := cause }, abandonQueue c]] s

/-- The next instruction; beyond 1,023 the fetch faults (CAUSE 7). -/
def nextPc (c : CoreId) : Act := fun s =>
  if (s.core c).pc = 1023 then seqFault c 7 s else modCore c (fun k => { k with pc := k.pc + 1 }) s

/-- Jump to an instruction index (R111: outside 0–1,023 faults). -/
def jumpTo (c : CoreId) (i : Int) : Act :=
  if 0 ≤ i ∧ i ≤ 1023 then modCore c fun k => { k with pc := i.toNat } else seqFault c 7

/-- An instruction executes only in STATE RUN. -/
def onRun (c : CoreId) (f : Core → Act) : Act := fun s =>
  if (s.core c).st = 1 ∧ s.power.gated = false then f (s.core c) s else []

/-- The work item at hand; without one a blank item (R128). -/
def Core.work (k : Core) : WorkItem :=
  k.item.getD ⟨0, 0, 0, 0, false, false, false, 0, 0, 0, 0, 0, 0, Recipe.zero, 0, 0, 0, 0, none, 0, none, none⟩

/-- The event of bit i was requested for the item at hand. -/
def Core.ask (k : Core) (i : Nat) : Core := { k with req := k.req ||| (1#6 <<< i), ev := k.ev &&& ~~~(1#6 <<< i) }
/-- The event of bit i has occurred. -/
def Core.hit (k : Core) (i : Nat) : Core := { k with ev := k.ev ||| (1#6 <<< i) }

/-! ## Tile memory -/

/-- The 4 bytes of SRAM at an offset. -/
def State.sramWord (s : State) (c : CoreId) (o : Nat) : Word32 := BitVec.ofNat 32 (s.num (coreBase c + o) 4)

/-- The outlier lists of a drive buffer: those of segment 0 and, where there is one, segment 1. -/
def State.driveLists (s : State) (c : CoreId) (buf : Nat) (seg2 : Bool) :
    (Nat × List Pair × List Pair) × (Nat × List Pair × List Pair) :=
  let b := s.bytes (coreBase c + driveOff buf + 1056) 272
  (decList b 0, if seg2 then decList b 136 else (0, [], []))

/-- The position the generator's seed names (R51, R276). -/
def seedPos : CoreId → Nat × Nat × Nat
  | .tile t => (t.d.val, t.x.val, t.y.val)
  | .ctx d _ => (d.val, 127, 127)

/-- The seed of a work item on a core. -/
def seedFor (c : CoreId) (w : WorkItem) : Word :=
  seedOf w.handle w.seed w.mile w.stage (seedPos c).1 (seedPos c).2.1 (seedPos c).2.2

/-- PARAM 0x00–0x3F of a work descriptor (R108, R552). -/
def encDesc (w : WorkItem) : List Byte :=
  leBytes 4 w.handle.toNat ++ leBytes 2 w.stage ++
    leBytes 2 ((if w.retry then 1 else 0) + (if w.seg2 then 2 else 0) + (if w.spills then 4 else 0)) ++
    leBytes 8 w.mile.toNat ++ leBytes 4 w.buf ++ leBytes 12 0 ++ encRcp w.rcp w.rng w.wx

/-- An item loaded with its input still to place takes the drive buffer the next queued item does not hold; what stands there for a
later one waits again (R107, R108). -/
def placeInput (c : CoreId) (w : WorkItem) (l : List TileIn) : Act := fun s =>
  let b := (s.core c).queue.head?.elim 0 fun q => if q.input.isNone then 1 - q.buf else 0
  let old := s.driveIn c b
  seqA [modCore c fun k => { k.unbuf b with
      queue := k.queue.map fun q => if q.buf = b ∧ q.input = none then { q with input := some old } else q
      item := some { w with buf := b, input := none } },
    forA l (writeHalf c b)] s

/-- Load a work descriptor into PARAM and the generator (R108). -/
def loadItem (c : CoreId) (w : WorkItem) : Act := fun s =>
  let l := s.driveLists c w.buf w.seg2
  let w := { w with spills := !(l.1.2.2 ++ l.2.2.2).isEmpty }
  seqA [putBytes (coreBase c + 0x1000) (encDesc w),
    modCore c fun k => { k with item := some w, req := 0, ev := 0, gen := seedFor c w, drawn := 0,
                                psumAdded := 0 }] s

/-- The seeded generator of a core. -/
def Core.rng (k : Core) : Gen := ⟨k.gen, k.drawn⟩
/-- Put the generator back. -/
def Core.setRng (k : Core) (g : Gen) : Core := { k with gen := g.st, drawn := g.n }

/-- Restart the item at hand at instruction 0 with its descriptor reloaded and the milestone read afresh (R320). A
good SPILL result is kept (R126), and a spill is requested afresh only where its result was bad (R553). -/
def restartItem (c : CoreId) (retry : Bool) : Act := fun s =>
  let k := s.core c
  match k.item with
  | none => []
  | some w =>
    let w := { w with mile := s.mile, retry := w.retry || retry }
    seqA [modCore c fun j => { j.restart with spilled := k.spilled && !k.spillBad, gainErr := k.gainErr
                                              spillReq := if k.spillBad then [] else k.spillReq, psums := k.psums },
      loadItem c w] s

/-! ## Data errors (R325) -/

/-- The unit and DETAIL of a data error in a core's SRAM at offset o. -/
def sramDetail (c : CoreId) (o : Nat) : Nat :=
  match c with
  | .tile t => (sramBase t + o) / 32 % 2 ^ 32
  | .ctx _ k => o / 8 * 8 + k.val * 2 ^ 15

/-- A data error of a core's SRAM: counted and reported as DATA. -/
def dataError (c : CoreId) (o : Nat) : Act := fun s =>
  seqA [bump F.CHK_DATA_SRAM (coreDie c) 1,
    chkReport (coreDie c) (s.histRec (unitDigital c) 5 0 (s.core c).item (sramDetail c o))] s

/-- The shadow of a stage that a work item of an epoch reads (R190, R308). -/
def State.shadowOf (s : State) (p stage epoch : Nat) : Option Shadow :=
  let l := (s.job p).shadows.filter fun x => x.stage == stage
  match l.find? fun x => x.epoch == epoch with
  | some x => some x
  | none => l.head?

/-- The address of the array record of a work item's logical array in the shadow of its epoch (R39, R190). -/
def State.recordOf (s : State) (w : WorkItem) : Option Nat :=
  (s.shadowOf w.part w.stage w.epoch).map fun x => x.base + w.arr * 263232

/-- An uncorrectable word of a core's SRAM read for its work item (R105, R325): PROG and PARAM fault; GAIN is reloaded
from the shadow once per item; any other region ends the item. -/
def sramUncorr (c : CoreId) (o : Nat) : Act := fun s =>
  let k := s.core c
  seqA [match c with
      | .tile t => bump F.TIL_SRAM_ERR_UNCORR (tileKey t) 1
      | .ctx _ _ => skip,
    dataError c o,
    if o < 0x1100 then seqFault c 4
    else match k.item with
    | none => skip
    | some w =>
      if 0x1100 ≤ o ∧ o < 0x1500 ∧ k.gainErr = false then
        seqA [match s.recordOf w with
            | some a => putBytes (coreBase c + 0x1100) (s.bytes (a + 0x40000) 1024)
            | none => skip,
          modCore c fun k => { k with gainErr := true }, restartItem c false]
      else seqA [modCore c fun k => k.restart, failItem c w 9]] s

/-- R105: a corrected word of a core's SRAM is counted. -/
def sramCorr (c : CoreId) : Act :=
  match c with
  | .tile t => bump F.TIL_SRAM_ERR_CORR (tileKey t) 1
  | .ctx _ _ => skip

/-- A command that reads the SRAM offsets `rd` under what the core's checks find (R105, R113): `res` handles a residue that does not
match, and the command goes on unless it is stopped. -/
def coreRead (c : CoreId) (err : CoreErr) (rd : Nat → Bool) (res act : Act) : Act :=
  match err with
  | .ok => act
  | .corrected => seqA [sramCorr c, act]
  | .uncorrectable o => if rd o.val then sramUncorr c o.val else act
  | .residue => res

/-! ## Tolerances (R319, R322) -/

/-- The key of a sensor: unit (die 0–31, stack 32–43, K-die 48) and number. -/
def snsKey (unit sns : Nat) : Nat := unit * 16 + sns

/-- The sensor nearest a tile (R469). -/
def nearSns (t : TileId) : Nat := min t.y.val 63 / 16 * 4 + t.x.val / 16

/-- The sensors of a unit's die (R471): the 16 of a Y-die, with a stack's its stack-attached die's, the K-die's two. -/
def sensorGroup (unit : Nat) : List Nat :=
  if unit < 32 then (List.range 16).map fun j => snsKey unit j
  else if unit < 44 then (List.range 16).map fun j => snsKey (dieOfStack (unit - 32)) j
  else [snsKey 48 0, snsKey 48 1]

/-- The latest sample of a sensor; a FAULTY one stands for the hottest healthy sensor of its die plus 5 °C (R471). -/
def State.temp (s : State) (unit sns : Nat) : Int :=
  if (s.sensor (snsKey unit sns)).faulty then
    let ok := ((sensorGroup unit).filter fun k => !(s.sensor k).faulty).map fun k => (s.sensor k).t
    ok.foldl max (ok.headD 0) + 500
  else (s.sensor (snsKey unit sns)).t

/-- The fields of the noise model's fixed sections that the manual gives as figures or limits, by offset: CAL_BOUND, ENDUR
(R95) and the temperatures T (R96). -/
def noiseFixed : List (Nat × Nat) :=
  [(0x8E, 154), (0x98, 100), (0xC0, 2500), (0xD0, 5000), (0xE0, 7000), (0xF0, 8500), (0x100, 9500)]

/-- A byte of the noise model's sections measured at manufacture: a fixed field's, or free (log entry 171). -/
def noiseByte (o : Nat) : Byte :=
  match noiseFixed.find? fun x => x.1 == o || x.1 + 1 == o with
  | some x => if x.1 = o then BitVec.ofNat 8 x.2 else BitVec.ofNat 8 (x.2 / 256)
  | none => Config.noiseModelByte o

/-- A 16-bit field of the noise model at manufacture (R95, R96). -/
def noiseAt (o : Nat) : Nat := (noiseByte o).toNat + 256 * (noiseByte (o + 1)).toNat

/-- A temperature table column (R96), interpolated linearly at `t`, as numerator over denominator. `slope` is what is
added per 0.01 °C above 95 °C, in 1/100,000. DEDUCED (log entry 203): below 25 °C, and above 95 °C where no slope is given, the end
values hold. -/
def tempInterp (col slope : Nat) (t : Int) : Int × Int :=
  let v := fun k => (noiseAt (0xC0 + 16 * k + col) : Int)
  if t ≤ 2500 then (v 0, 1)
  else if t ≤ 5000 then (v 0 * (5000 - t) + v 1 * (t - 2500), 2500)
  else if t ≤ 7000 then (v 1 * (7000 - t) + v 2 * (t - 5000), 2000)
  else if t ≤ 8500 then (v 2 * (8500 - t) + v 3 * (t - 7000), 1500)
  else if t ≤ 9500 then (v 3 * (9500 - t) + v 4 * (t - 8500), 1000)
  else (v 4 * 100000 + slope * (t - 9500), 100000)

/-- σ_lim × 1,024 at a temperature (R319), as numerator over denominator. 0.012 LSB per °C is 12.288/1,024 LSB. -/
def sigmaLim (t : Int) : Int × Int :=
  let f := tempInterp 2 12288 t
  (f.1 + noiseAt (0x80 + 0x0E) * f.2, f.2)

/-- S_P in thousandths (R319): by format, alignment extension, and whether it is an outlier pass. -/
def sP (fmt x : Nat) (opass : Bool) : Nat :=
  if opass ∨ fmt = 3 then [147800, 295600, 591200].getD (if opass then 0 else x) 147800
  else if fmt = 1 then 1414 else [9220, 18470, 36950].getD x 9220

/-- ceil(a / b) for b > 0. -/
def ceilDiv (a b : Int) : Int := -(-a / b)

/-- K × 16 as it acts (R337). -/
def State.chkK (s : State) (d : Nat) : Nat := max 48 (s.fld F.CHK_CFG_K d)

/-- CHK_TOL (R319), with K × 16 given. -/
def chkTol (k16 rng : Nat) (t : Int) (sp : Nat) : Int :=
  let g := sigmaLim t
  ceilDiv (k16 * 516295 * 2 ^ rng * g.1 * sp) (16 * 1000 * 1000 * 1024 * g.2)

/-- T_A (R322), with m in thousandths. -/
def agreeTol (k16 rng : Nat) (t : Int) (sp m : Nat) : Int :=
  let g := sigmaLim t
  ceilDiv (k16 * 16 * 2 ^ rng * g.1 * sp * m) (16 * 1000 * 1000 * 1024 * g.2)

/-! ## The firing budget (R85, R86, R475) -/

/-- MVMs and passes between sample and last slot on a die: those outstanding on its tiles (R86). -/
def State.firing (s : State) (d : Nat) : Nat :=
  s.cores.countP fun k => k.1 / 8448 == d && k.1 < 1048576 && (k.2.mvm.any (fun m => !m.skipped) || k.2.opass.isSome)

/-- The charge of R85 in femtojoules: E_conv and E_row at the die's hottest sensor; outside the table's temperatures the end values
(log entry 203). -/
def State.charge (s : State) (d pconv nrow : Nat) : Int :=
  let t := ((List.range 16).map fun j => s.temp d j).foldl max (s.temp d 0)
  let ec := tempInterp 8 0 t
  let er := tempInterp 10 0 t
  ec.1 * 1000 * pconv / ec.2 + er.1 * nrow / er.2

/-- A rewrite of a tile's array is requested (R101). -/
def State.rewriteDue (s : State) (t : TileId) : Bool := (s.die t.d.val).progQ.any fun q => q.tile == t

/-- A tile's array accepts an issue: BOUND, no rewrite requested (R101), a free place under R86, credit not negative (R475), no
stop in force. -/
def State.mayIssue (s : State) (c : CoreId) : Bool :=
  match c with
  | .tile t => s.arrState t == 1 && !s.rewriteDue t && decide (s.firing t.d.val < 1024) &&
      decide (0 ≤ (s.die t.d.val).credit) && !(s.die t.d.val).parked && !s.power.parked
  | .ctx _ _ => true

/-- R120: the item at hand has issued its MVM and its buffer's normal pairs wait for their pass: the two are one unit. -/
def State.passDue (s : State) (c : CoreId) : Bool :=
  let k := s.core c
  k.item.isSome && k.req.getLsbD 1 && !k.req.getLsbD 2 &&
    (let l := s.driveLists c k.work.buf k.work.seg2
     !(l.1.2.1 ++ l.2.2.1).isEmpty)

/-- A tile's array has an MVM or pass outstanding, or a pass to come (R80, R120). -/
def State.arrBusy (s : State) (t : TileId) : Bool :=
  (s.core (.tile t)).mvm.isSome || (s.core (.tile t)).opass.isSome || s.passDue (.tile t)

/-- TIL_ARR_STS.STATE as it shows (R101): PARKED on a die that a stop has parked, once no MVM or pass runs; a RETIRED array stays so. -/
def State.shownState (s : State) (t : TileId) : Nat :=
  if (s.die t.d.val).parked && s.arrState t != 4 && !s.arrBusy t then 5 else s.arrState t

/-- A charge against a die's credit. -/
def Die.spend (c : Int) (x : Die) : Die := { x with credit := x.credit - c, used := x.used + c }

/-- Charge an issue to the die's credit. -/
def chargeDie (d pconv nrow : Nat) : Act := fun s =>
  modDie d (Die.spend (s.charge d pconv nrow)) s

end Sys2Proof.Machine
end

