-- ==== Sys2Proof/Machine/Sequencer.lean ====
section
/-!
DEFINITION. The sequencer's own instructions (R106, R107, R111): arithmetic, loads and stores, branches, WAIT, DONE,
FAIL, and its watchdog. The array's instructions are in Arrays.
-/
namespace Sys2Proof.Machine

/-- An instruction that writes v to sA and goes on. -/
def writeS (c : CoreId) (a : Nat) (v : Word32) : Act := seqA [modCore c fun k => k.setSreg a v, nextPc c]

/-- An ALU instruction: sA = f sB operand. -/
def alu (c : CoreId) (a b : Nat) (imm : BitVec 18) (f : Word32 → Word32 → Word32) : Act :=
  onRun c fun k => writeS c a (f (k.sreg b) (k.operand imm))

/-- R105, R107: an instruction word whose opcode is 0 does nothing for a cycle; a word that is no instruction of R107, or an
ACC with mode 5–7, faults (CAUSE 1). A word corrected as it was fetched is counted, and one that cannot be corrected faults (CAUSE 4).
The word of another instruction takes effect by that instruction's own command. -/
def execNop : CoreId → Read Word32 → State → Host.Outcome State Fault Refusal
  | c, ⟨w, ecc⟩, s =>
  let run : Act := if insnOp w = 0 then nextPc c else if insnListed w then skip else seqFault c 1
  runAct (onRun c fun k => match ecc with
    | .ok => run
    | .corrected => seqA [sramCorr c, run]
    | .uncorrectable => sramUncorr c (4 * k.pc)) s

/-- R107: sA = IMM, sign-extended. -/
def execLdi (c : CoreId) (a : Fin 16) (imm : BitVec 18) (s : State) : Host.Outcome State Fault Refusal :=
  runAct (onRun c fun _ => writeS c a.val (imm.signExtend 32)) s

/-- R107: sA = sB + operand. -/
def execAdd (c : CoreId) (a b : Fin 16) (imm : BitVec 18) (s : State) : Host.Outcome State Fault Refusal :=
  runAct (alu c a.val b.val imm fun x y => x + y) s

/-- R107: sA = sB − operand. -/
def execSub (c : CoreId) (a b : Fin 16) (imm : BitVec 18) (s : State) : Host.Outcome State Fault Refusal :=
  runAct (alu c a.val b.val imm fun x y => x - y) s

/-- R107: sA = sB and operand. -/
def execAnd (c : CoreId) (a b : Fin 16) (imm : BitVec 18) (s : State) : Host.Outcome State Fault Refusal :=
  runAct (alu c a.val b.val imm fun x y => x &&& y) s

/-- R107: sA = sB or operand. -/
def execOr (c : CoreId) (a b : Fin 16) (imm : BitVec 18) (s : State) : Host.Outcome State Fault Refusal :=
  runAct (alu c a.val b.val imm fun x y => x ||| y) s

/-- R107: sA = sB shifted left by operand bits [4:0]. -/
def execShl (c : CoreId) (a b : Fin 16) (imm : BitVec 18) (s : State) : Host.Outcome State Fault Refusal :=
  runAct (alu c a.val b.val imm fun x y => x <<< (y.toNat % 32)) s

/-- R107: sA = sB shifted right logically by operand bits [4:0]. -/
def execShr (c : CoreId) (a b : Fin 16) (imm : BitVec 18) (s : State) : Host.Outcome State Fault Refusal :=
  runAct (alu c a.val b.val imm fun x y => x >>> (y.toNat % 32)) s

/-- The byte address sB + IMM of LD and ST. DEDUCED (log entry 16): IMM is sign-extended, as LDI's. -/
def Core.addr (k : Core) (b : Nat) (imm : BitVec 18) : Nat := (k.sreg b + imm.signExtend 32).toNat

/-- R111: an address outside 0x0000–0x7FFF, or not 4-byte aligned. -/
def badAddr (o : Nat) : Bool := decide (0x8000 ≤ o) || o % 4 != 0

/-- R107: sA = the 32-bit word at sB + IMM; R105: a correctable error is corrected and counted, an uncorrectable one is
handled under R325. -/
def execLd (c : CoreId) (a b : Fin 16) (imm : BitVec 18) (ecc : Ecc) (s : State) : Host.Outcome State Fault Refusal :=
  runAct (onRun c fun k =>
    let o := k.addr b.val imm
    if badAddr o then seqFault c 3
    else match ecc with
    | .uncorrectable => sramUncorr c o
    | .corrected => seqA [sramCorr c, withA (fun s => s.sramWord c o) (writeS c a.val)]
    | .ok => withA (fun s => s.sramWord c o) (writeS c a.val)) s

/-- R107: word at sB + IMM = sA; a store to PROG or PARAM faults (CAUSE 2). DESIGN CHOICE (log entry 204): one that is also misaligned
faults with CAUSE 3. -/
def execSt (c : CoreId) (a b : Fin 16) (imm : BitVec 18) (s : State) : Host.Outcome State Fault Refusal :=
  runAct (onRun c fun k =>
    let o := k.addr b.val imm
    if badAddr o then seqFault c 3
    else if o < 0x1100 then seqFault c 2
    else seqA [putBytes (coreBase c + o) (leBytes 4 (k.sreg a.val).toNat), nextPc c]) s

/-- A branch taken on a condition, relative to the branch itself. -/
def branch (c : CoreId) (imm : BitVec 18) (take : Core → Bool) : Act :=
  onRun c fun k => if take k then jumpTo c (k.pc + imm.toInt) else nextPc c

/-- R107: branch if sA is zero. -/
def execBz (c : CoreId) (a : Fin 16) (imm : BitVec 18) (s : State) : Host.Outcome State Fault Refusal :=
  runAct (branch c imm fun k => k.sreg a.val == 0) s

/-- R107: branch if sA is not zero. -/
def execBnz (c : CoreId) (a : Fin 16) (imm : BitVec 18) (s : State) : Host.Outcome State Fault Refusal :=
  runAct (branch c imm fun k => k.sreg a.val != 0) s

/-- R107: jump to instruction IMM[9:0]. -/
def execJmp (c : CoreId) (imm : BitVec 18) (s : State) : Host.Outcome State Fault Refusal :=
  runAct (onRun c fun _ => jumpTo c (imm.toNat % 1024)) s

/-- R106, R109: the command of the word a sequencer fetches next: PROG at its instruction index. -/
def State.fetched (s : State) (c : CoreId) : Instr := insnCommand c (s.sramWord c (4 * (s.core c).pc))

/-! ## WAIT (R107, R108) -/

/-- Partial sums of the item at hand that have arrived. -/
def Core.psumsOf (k : Core) : List (List AccBlk) := (k.psums.filter fun p => k.item.any fun w => w.handle == p.1).map Prod.snd

/-- The event of bit i has occurred, or was not requested (R107). -/
def Core.ready (k : Core) (i : Nat) : Bool :=
  match i with
  | 0 => k.item.isSome || k.second.isSome || !k.queue.isEmpty
  | 3 => decide (k.work.nPsum ≤ k.psumsOf.length)
  | 5 => k.inj.isEmpty
  | _ => !k.req.getLsbD i || k.ev.getLsbD i

/-- A work item taken from its place is loaded, its input first where no drive buffer holds it (R107, R108). -/
def takeItem (c : CoreId) (w : WorkItem) : Act :=
  match w.input with
  | some b => seqA [placeInput c w b, withA (fun s => (s.core c).work) (loadItem c)]
  | none => loadItem c w

/-- The next work item: the reserved place first, which the next waiting second opinion then takes (R108). -/
def takeNext (c : CoreId) : Act := fun s =>
  let k := s.core c
  match k.item, k.second, k.queue with
  | some _, _, _ => []
  | none, some w, _ => seqA [modCore c fun k => { k with second := k.secondQ.head?, secondQ := k.secondQ.tail }, takeItem c w] s
  | none, none, w :: q => seqA [modCore c fun k => { k with queue := q }, takeItem c w] s
  | none, none, [] => []

/-- R107: stall until every event of the mask has occurred; WORK loads the next descriptor and the seed. -/
def execWait (c : CoreId) (imm : BitVec 18) (s : State) : Host.Outcome State Fault Refusal :=
  runAct (fun s =>
    let k := s.core c
    if (k.st ≠ 1 ∧ k.st ≠ 2) ∨ s.power.gated = true then []
    else if (List.range 6).all fun i => !imm.getLsbD i || k.ready i then
      seqA [whenA (fun _ => imm.getLsbD 0) (takeNext c), modCore c fun k => { k with st := 1 }, nextPc c] s
    else modCore c (fun k => { k with st := 2 }) s) s

/-! ## The watchdog -/

/-- R353: an array of the item's replica is in CAL, and the watchdog does not count. -/
def State.calPaused (s : State) (w : WorkItem) : Bool :=
  (s.repOf w.part w.stage w.rep).any fun r => r.tiles.any fun t => s.arrState t == 2

/-- R111: the work item at hand is past TIL_SEQ_WDOG.LIMIT: CAUSE 6. -/
def execSequencerWatchdog (c : CoreId) (s : State) : Host.Outcome State Fault Refusal :=
  runAct (fun s =>
    match (s.core c).item with
    | some w => if s.calPaused w then [] else seqFault c 6 s
    | none => []) s

/-- R127: a write of TIL_OUT_CLR. -/
def hostOutCntClear (src : Src) (t : TileId) (v : Word) : Act := fun s =>
  (guardW src .til (tileKey t) 0x2A8 (whenA (fun _ => bitsOf v 0 0 == 1)
    (forA [0x280, 0x288, 0x290, 0x298, 0x2A0, 0x208] fun o => setReg .til (tileKey t) o 0))) s

/-- OutCntClear: the command of its row. -/
def execOutCntClear (src : Src) (t : TileId) (v : Word) (s : State) : Host.Outcome State Fault Refusal :=
  runAct (hostOutCntClear src t v) s

/-- R102: a write of TIL_ARR_CLR. -/
def hostArrCntClear (src : Src) (t : TileId) (v : Word) : Act := fun s =>
  (guardW src .til (tileKey t) 0x130 (whenA (fun _ => bitsOf v 0 0 == 1)
    (forA [0x110, 0x118, 0x120] fun o => setReg .til (tileKey t) o 0))) s

/-- ArrCntClear: the command of its row. -/
def execArrCntClear (src : Src) (t : TileId) (v : Word) (s : State) : Host.Outcome State Fault Refusal :=
  runAct (hostArrCntClear src t v) s

/-- R321, R353: a tier engine runs the item of a passage for the logical array a tile holds. -/
def State.standIn (s : State) (c : CoreId) (handle : Word32) : Bool :=
  match c, (s.core c).bound with
  | .tile t, some (stage, _, arr) => (s.partDies (s.part t.d.val)).any fun d => (s.die d).tier.any fun x => x.2.any fun j =>
      (j.prio == 2 || j.prio == 3) && j.item.handle == handle && j.item.stage == stage && j.item.arr == arr
  | _, _ => false

/-- R247: the combining stage that an expert's contribution to the tier engine of die d is for: one on the slower tier there, first one whose
item of the passage is not ready yet. -/
def State.tierCombiner (s : State) (d i : Nat) : Option Nat :=
  let p := s.part d
  let l := (List.range (s.stagesOf p).length).filter fun k => s.tierDie p k == some d && s.combines p k
  (l.find? fun k => (s.die d).sb.any fun x => x.idx == i && x.stage == k && !x.ready).or l.head?

/-- R107: a PSUM packet reaches an owner: it is held for ACC mode 3. An expert's counts at the combining scoreboard
(R247). DEDUCED (log entry 18): at the owner of output segment 0. A tile whose item a tier engine runs forwards it (R321, R353). -/
def execPartialSumArrival (c : CoreId) (handle : Word32) (expert : Bool) (blks : List AccBlk) (s : State) :
    Host.Outcome State Fault Refusal :=
  runAct (fun s =>
    let k := s.core c
    seqA [if s.standIn c handle then
        emit (.ctl "PSUM_FORWARD" (coreDie c) 0 handle.toNat blks.length)
      else modCore c fun k => { k with psums := k.psums ++ [(handle, blks)] },
      whenA (fun s => expert && (s.passage (idxOf handle)).open_) (match k.bound, c with
        | some (stage, _, arr), .tile _ => if arr = 0 then expertArrived (coreDie c) (idxOf handle) stage else skip
        | none, .tile _ => skip
        | _, .ctx d _ => forOpt (s.tierCombiner d.val (idxOf handle)) (expertArrived d.val (idxOf handle)))] s) s

end Sys2Proof.Machine
end

