-- ==== Sys2Proof/Machine/Arrays.lean ====
section
/-!
DEFINITION. The array and its datapath (R66–R82, R112–R125): MVM and outlier pass, the checksum (R318), accumulation,
re-quantisation, injection and spills; and what a failed check does (R320).
-/
namespace Sys2Proof.Machine

/-! ## Issuing (R73–R77, R80–R82, R118) -/

/-- The format of a drive buffer's segment: the recipe's, or what its outlier list says of an escalated Y4 segment. -/
def segFmt (inFmt listFmt : Nat) : Nat := if inFmt = 2 ∧ listFmt = 3 then 3 else inFmt

/-- The blocks of a segment an array takes, with the reserved codes counted: Y2, Y4 or Y8. DEDUCED (log entry 205): a segment of
another format drives nothing, for the array never takes it (R73). -/
def takeSeg (f : Nat) (b : List Byte) : List Block × Nat :=
  if 1 ≤ f ∧ f ≤ 3 then decSeg f b else (List.replicate 16 Block.zero, 0)

/-- The two input segments of a drive buffer: format, blocks, reserved codes counted. -/
def State.inputs (s : State) (c : CoreId) (w : WorkItem) (buf : Nat) : Nat × List Block × Nat :=
  let l := s.driveLists c buf w.seg2
  let b := s.bytes (coreBase c + driveOff buf) 1056
  let f0 := segFmt w.rcp.inFmt l.1.1
  let f1 := segFmt w.rcp.inFmt l.2.1
  let x0 := takeSeg f0 b
  let x1 := if w.seg2 then takeSeg f1 (b.drop 528) else (List.replicate 16 Block.zero, 0)
  (if w.seg2 then max f0 f1 else f0, x0.1 ++ x1.1, x0.2 + x1.2)

/-- R74, R75: the aligned MVM of a list of blocks. -/
def alignMvm (buf fmt ext : Nat) (bs : List Block) : MvmOp :=
  let x := if fmt = 1 then 0 else ext
  let ea := alignExp bs
  let dr := bs.flatMap (driveBlock ea x)
  let p := planesOf fmt x
  let rows := (List.range p).map (rowsIn (fmt == 1) p dr)
  ⟨buf, p, x, ea, dr, rows.countP (· != 0), rows.sum, dr.all (· == 0), fmt == 1, false⟩

/-- Row groups of 32 that are not driven (R74). -/
def groupsIdle (dr : List Int) : Nat :=
  (List.range 32).countP fun g => ((dr.drop (32 * g)).take 32).all (· == 0)

/-- The SRAM offsets of drive buffer b. -/
def inDrive (b o : Nat) : Bool := decide (driveOff b ≤ o) && decide (o < driveOff b + 0x600)

/-- An MVM of a context joins those that wait for the main datapath of its engine, which takes its logical array at once where it was
idle (R274, R276). -/
def tierWant (d : Fin 32) (k : Fin 16) : Act := fun s => modDie d.val (fun x =>
  let t := (SMap.get (fun _ => none) x.tier k.val).map fun (j : TierJob) => { j with want := true, ord := x.sbOrd, since := s.mile }
  { x with
    tierNow := if x.tier.any fun y => y.2.any TierJob.want then x.tierNow
      else t.map fun (j : TierJob) => (j.stage, j.arr, j.item.epoch)
    tier := SMap.set (fun _ => none) x.tier k.val t, sbOrd := x.sbOrd + 1 }) s

/-- R74, R80–R82, R85: issue the MVM on drive buffer sA[0]; it waits while one is outstanding or the array does not
accept it. An MVM of zeros is not issued. DESIGN CHOICE (log entry 206): TIL_ARR_SKIP.GROUP counts the groups that an issued MVM does
not drive, not those of an MVM that is not issued or of a pass. -/
def execMvm : CoreAt → Fin 16 → State → Host.Outcome State Fault Refusal
  | ⟨c, err⟩, a, s =>
  runAct (onRun c fun k => coreRead c err (inDrive ((k.sreg a.val).toNat % 2)) skip fun s =>
    let w := k.work
    let buf := (k.sreg a.val).toNat % 2
    let x := s.inputs c w buf
    let m := alignMvm buf x.1 w.rcp.alignExt x.2.1
    if k.mvm.isSome ∨ (m.skipped = false ∧ s.mayIssue c = false) then []
    else
      seqA [countRsvd (coreDie c) x.2.2,
        modCore c fun k => { (k.ask 1) with mvm := some m, mvmRes := none, passFirst := k.opass.isSome },
        match c with
        | .ctx d k => tierWant d k
        | .tile t => if m.skipped then bump F.TIL_ARR_SKIP_MVM (tileKey t) 1
          else seqA [whenA (fun s => (s.conv t).track != (s.conv t).next) (modConv t fun c => { c with track := c.next }),
            bumpW F.TIL_ARR_MVM_COUNT (tileKey t) 1,
            bump F.TIL_ARR_SKIP_GROUP (tileKey t) (groupsIdle m.drives), chargeDie t.d.val m.pconv m.nrow],
        nextPc c] s) s

/-- R118–R120: issue the outlier pass of drive buffer sA[0]; without normal pairs its event is done at once. After the MVM it is one
unit with, nothing holds it back. -/
def execOpass : CoreAt → Fin 16 → State → Host.Outcome State Fault Refusal
  | ⟨c, err⟩, a, s =>
  runAct (onRun c fun k => coreRead c err (inDrive ((k.sreg a.val).toNat % 2)) skip fun s =>
    if k.opass.isSome then []
    else
      let w := k.work
      let buf := (k.sreg a.val).toNat % 2
      let l := s.driveLists c buf w.seg2
      match passDrives l.1.2.1 l.2.2.1 with
      | none => seqA [modCore c fun k => { ((k.ask 2).hit 2) with opRes := none }, nextPc c] s
      | some p =>
        if s.mayIssue c = false ∧ s.passDue c = false then []
        else
          let rows := (List.range 8).map (rowsIn false 8 p.1)
          let m : MvmOp := ⟨buf, 8, 0, p.2, p.1, rows.countP (· != 0), rows.sum, false, false, true⟩
          seqA [modCore c fun k => { (k.ask 2) with opass := some m, opRes := none, passFirst := false },
            match c with
            | .ctx _ _ => skip
            | .tile t => seqA [bump F.TIL_OUT_PASS_COUNT (tileKey t) 1, chargeDie t.d.val m.pconv m.nrow],
            nextPc c] s) s

/-! ## What a failed check does (R320) -/

/-- A soft event of a tile (R320, R328, R330). -/
def softEvent (c : CoreId) (residue : Bool) : Act := fun s =>
  seqA [bump (if residue then F.CHK_SOFT_RES else F.CHK_SOFT_SUM) (coreDie c) 1,
    match c with
    | .tile t => seqA [bump F.TIL_CHK_SOFT (tileKey t) 1, whenA (fun _ => residue) (bump F.TIL_CHK_RES (tileKey t) 1),
        modTsum t fun y => { y with soft := sat32 (y.soft + 1) },
        modDie t.d.val fun x => { x with softUp := x.softUp ++ [tileKey t] }]
    | .ctx _ _ => skip] s

/-- R320: a checksum mismatch or residue event in the item at hand. The first restarts the item with RETRY; the
second is hard: the result is held, the item leaves the tile, and the sequencer goes on at instruction 0. A tier engine's
own hard event leaves the checker without a second opinion (R323). -/
def checkFail (c : CoreId) (h : HardEvt) : Act := fun s =>
  let k := s.core c
  match k.item with
  | none => []
  | some w =>
    if w.retry = false then seqA [softEvent c h.residue, restartItem c true] s
    else match c with
    | .tile t =>
      let held := { h with item := w, input := s.bytes (coreBase c + driveOff w.buf) 1328 }
      seqA [bump F.TIL_CHK_HARD (tileKey t) 1,
        modCore c fun k => { k.restart with hard := k.hard ++ [held], psums := k.psums }] s
    | .ctx d k =>
      if (SMap.get (fun _ => none) (s.die d.val).tier k.val).any fun j => j.prio == 2 then
        seqA [emit (.ctl "NO_OPINION" d.val w.part w.stage (idxOf w.handle)), freeCtx c] s
      else seqA [bump F.CHK_HARD_UNRESOLVED d.val 1,
        chkReport d.val (s.histRec (unitTier d.val) 4 4 (some w) 0), modCore c Core.restart, failItem c w 9] s

/-- A residue event charged to a unit (R43, R317). -/
def residueEvent (c : CoreId) (unit : Nat) (spill : Bool) : Act := fun s =>
  let w := (s.core c).work
  seqA [modCore c fun k => { k with spillBad := k.spillBad || spill },
    checkFail c ⟨[], [], true, BitVec.ofNat 32 unit, false, 0, 0, 0, w.rng, w, [], 0⟩] s

/-! ## The checksum (R77–R79, R318) -/

/-- R68: column c lies in the odd half. -/
def oddCol (c : Nat) : Bool := c / 32 % 2 == 1

/-- The columns of half h. -/
def halfCols (h : Nat) : List Nat := (List.range 512).filter fun c => oddCol c == (h == 1)

/-- The W4 weight the cells of row r, column c were programmed with; erased cells hold none. The check digits take the reserved code
0b1000 as −8 (DESIGN CHOICE, log entry 207). -/
def Cells.w4 (k : Cells) (r c : Nat) : Int := sext 4 ((k.wgt.getD (r * 256 + c / 2) 0).toNat >>> (4 * (c % 2)))

/-- R70: check digit k of a row sum. -/
def checkDigit : Nat → Int → Int
  | k, s =>
    let d := if 4 < s % 8 ∨ (s % 8 = 4 ∧ s < 0) then s % 8 - 8 else s % 8
    match k with
    | 0 => d
    | k + 1 => checkDigit k ((s - d) / 8)

/-- The weight of row r, pair p: of a column, a check digit (R70) or a reference pattern (R71). -/
def Cells.weight (k : Cells) (r p : Nat) : Int :=
  if p < 512 then k.w4 r p
  else if p < 520 then checkDigit ((p - 512) % 4) ((halfCols ((p - 512) / 4)).map (k.w4 r)).sum
  else if k.wgt.isEmpty then 0
  else [7, -7, if r % 2 = 0 then 7 else -7, ((r % 15 : Nat) : Int) - 7].getD (p - 520) 0

/-- The level a cell reads as (R69): canonical, or what a cell left outside the verify window kept (R294). The cells of a weight whose
code is the reserved 0b1000 have an unspecified level (R65): a free one (log entry 207). -/
def Cells.level (k : Cells) (r p : Nat) (neg : Bool) : Int :=
  let cell := r * 1048 + 2 * p + (if neg then 1 else 0)
  match k.stuck.find? fun x => x.1 == cell with
  | some x => x.2
  | none =>
    if p < 512 ∧ k.w4 r p = -8 then ((Config.reservedLevel k.draw cell % 8 : Nat) : Int)
    else max 0 (if neg then -k.weight r p else k.weight r p)

/-- R76: I_b, the current of plane b in pair p, in weight units: over the driven rows, the levels' differences. -/
def planeSum (k : Cells) (m : MvmOp) (b p : Nat) : Int :=
  ((m.drives.zipIdx.filter fun x => driven m.y2 m.planes b x.1).map fun x => k.level x.2 p false - k.level x.2 p true).sum

/-- R76, R87, R92: the code of pair p in plane b of a conversion: the ideal code with a free error, clamped; a plane that drives
no row is not converted. A pass with RNG ≥ 1 gives no rail code (R118). -/
def adc (n rng : Nat) (k : Cells) (m : MvmOp) (b p : Nat) : Int :=
  let rail := if m.pass ∧ 1 ≤ rng then 1 else 0
  if rowsIn m.y2 m.planes m.drives b = 0 then 0
  else clampI (roundDiv (planeSum k m b p) (2 ^ rng) + Config.adcNoise n b p) (-128 + rail) (127 - rail)

/-- A plane-weighted sum of the codes of a pair. -/
def pairSum (n rng : Nat) (k : Cells) (m : MvmOp) (p : Nat) : Int :=
  ((List.range m.planes).map fun b => signif m.y2 m.planes b * adc n rng k m b p).sum

/-- R77: the array output of every column. -/
def arrayOut (n rng : Nat) (k : Cells) (m : MvmOp) : List Int := (List.range 512).map fun p => 2 ^ rng * pairSum n rng k m p

/-- R78: the check reading of half h. -/
def checkReading (n rng : Nat) (k : Cells) (m : MvmOp) (h : Nat) : Int :=
  2 ^ rng * ((List.range 4).map fun j => 8 ^ j * pairSum n rng k m (512 + 4 * h + j)).sum

/-- The sum of a column list over half h. -/
def halfSum (cols : List Int) (h : Nat) : Int := ((halfCols h).map fun c => cols.getD c 0).sum

/-- R79: a rail code on a weight or check column of half h. -/
def railed (n rng : Nat) (k : Cells) (m : MvmOp) (h : Nat) : Bool :=
  (List.range m.planes).any fun b => (halfCols h ++ (List.range 4).map fun j => 512 + 4 * h + j).any fun p =>
    adc n rng k m b p == -128 || adc n rng k m b p == 127

/-- A half mismatches (R318): not railed, and |Δ_h| > T. -/
def halfBad (n rng : Nat) (k : Cells) (tol : Int) (m : MvmOp) (h : Nat) : Bool :=
  !railed n rng k m h && decide (tol < (halfSum (arrayOut n rng k m) h - checkReading n rng k m h).natAbs)

/-- The scale F of an operation's products (R112). -/
def scaleOf (w : WorkItem) (m : MvmOp) : Int := ((w.wx : Int) - 142) + (m.ea - 127 - m.ext)

/-- S_P of an operation (R319), in thousandths. -/
def opSP (m : MvmOp) (opass : Bool) : Nat :=
  sP (if m.y2 then 1 else if m.planes - m.ext = 8 then 3 else 2) m.ext opass

/-- An outstanding MVM or pass of a tile ends: its codes are drawn, the halves compared, and the result kept, or the
mismatch handled (R318, R320). -/
def convDone (t : TileId) (opass : Bool) (m : MvmOp) : Act := fun s =>
  let c := CoreId.tile t
  let w := (s.core c).work
  let n := s.free
  let x := s.cell t
  let sp := opSP m opass
  let tol := chkTol (s.chkK t.d.val) w.rng (s.temp t.d.val (nearSns t)) sp
  let bad0 := halfBad n w.rng x tol m 0
  let bad1 := halfBad n w.rng x tol m 1
  let cols := arrayOut n w.rng x m
  let delta := max (halfSum cols 0 - checkReading n w.rng x m 0).natAbs (halfSum cols 1 - checkReading n w.rng x m 1).natAbs
  seqA [draw, whenA (fun _ => railed n w.rng x m 0 || railed n w.rng x m 1) (bump F.TIL_ARR_ADCSAT_COUNT (tileKey t) 1),
    modCore c fun k => if opass then { k with opass := none } else { k with mvm := none },
    if bad0 || bad1 then
      checkFail c ⟨cols, m.drives, false, 0, opass, (if bad0 then 1 else 0) + (if bad1 then 2 else 0),
        min (delta * 16 / max 1 tol.toNat) (2 ^ 32 - 1), sp, w.rng, w, [], 0⟩
    else modCore c fun k =>
      if opass then { (k.hit 2) with opRes := some ⟨cols, scaleOf w m⟩ }
      else { (k.hit 1) with mvmRes := some ⟨cols, scaleOf w m⟩ }] s

/-- R109: the outstanding MVM (or pass) of a core is the operation its array runs: the other was not issued before it. An MVM that was
not issued (R82) holds nothing up. -/
def Core.mvmNext (k : Core) : Bool := !(k.opass.isSome && k.passFirst)
def Core.passNext (k : Core) : Bool := !(k.mvm.any (fun m => !m.skipped) && !k.passFirst)

/-- R80, R82, R113, R318: a tile's outstanding MVM is complete; where the two paths of its reconstruction disagree, that is a residue
event. In a tier engine context the engine's datapath completes it (TIER_ARRAY_DONE). -/
def execMvmComplete : CoreAt → State → Host.Outcome State Fault Refusal
  | ⟨c, err⟩, s =>
  runAct (fun s =>
    match c, (s.core c).mvm with
    | .tile t, some m =>
      if m.skipped then modCore c (fun k =>
        { (k.hit 1) with mvm := none, mvmRes := some ⟨List.replicate 512 0, scaleOf k.work m⟩ }) s
      else if (s.core c).mvmNext = false then []
      else if err = .residue then seqA [modCore c fun k => { k with mvm := none }, residueEvent c (unitDigital c) false] s
      else convDone t false m s
    | _, _ => []) s

/-! ## Exact products from a shadow record (R123, R276) -/

/-- W4 weight of row r, column c in the array record at a. -/
def State.w4At (s : State) (a r c : Nat) : Int :=
  sext 4 ((s.byte (a + r * 256 + c / 2)).toNat >>> (4 * (c % 2)))

/-- A[c] formed exactly from a record for drive values. -/
def State.exactCols (s : State) (a : Nat) (dr : List Int) : List Int :=
  let rows := dr.zipIdx.filter fun x => x.1 != 0
  (List.range 512).map fun c => (rows.map fun x => x.1 * s.w4At a x.2 c).sum

/-- The tile whose hard event waits for the tier engine's opinion on an item of a partition (R321). -/
def State.opinionFor (s : State) (p i stage arr : Nat) : Option (TileId × HardEvt) :=
  s.cores.findSome? fun k => if 1048576 ≤ k.1 then none else
    (k.2.hard.find? fun h => (h.phase == 2 || h.phase == 3) && h.item.part == p && h.item.stage == stage && h.item.arr == arr &&
      h.item.handle == (s.passage i).handle).bind fun h => (tileAt (k.1 / 8448) (k.1 % 128) (k.1 % 8448 / 128)).map fun t => (t, h)

/-- R323, R336: the tier engine's second opinion on an item cannot be had, its record holding a word that cannot be corrected. -/
def noShadow (d : Nat) (w : WorkItem) : Act := fun s =>
  seqA [forOpt (s.opinionFor w.part (idxOf w.handle) w.stage w.arr) fun x => modCore (.tile x.1) fun k =>
      { k with hard := k.hard.map fun y => if y == x.2 ∧ y.phase = 2 then { y with phase := 4 } else y },
    emit (.ctl "NO_OPINION" d w.part w.stage (idxOf w.handle))] s

/-- R276, R325: a context's record holds a word that cannot be corrected, or is gone: the item ends, or the checker is left without this
second opinion. -/
def ctxBad (d : Fin 32) (k : Nat) (a : Nat) : Act := fun s =>
  let c := CoreId.ctx d ⟨k % 16, Nat.mod_lt _ (by decide)⟩
  let w := (s.core c).work
  if (SMap.get (fun _ => none) (s.die d.val).tier k).any fun (j : TierJob) => j.prio == 2 then seqA [noShadow d.val w, freeCtx c] s
  else seqA [bump F.CHK_DATA_MEM d.val 1, chkReport d.val (s.histRec (unitChannel a) 5 0 (some w) (a / 32)), failItem c w 9] s

/-- R276, R277: pairs applied exactly take their rows from the read of the MVM of the same drive buffer, or read the named rows
first. -/
def pairRead (c : CoreId) (d buf a : Nat) (ps : List (Nat × Pair)) : Act := fun s =>
  if (s.core c).readBuf = some buf then [] else forA ps (fun p => engineRead d (a + p.1 * 256) 256) s

/-- A row that pairs name holds a word that cannot be corrected. -/
def State.pairsBad (s : State) (a : Nat) (ps : List (Nat × Pair)) : Bool := ps.any fun p => s.poisoned (a + p.1 * 256) 256

/-- The normal pairs of a drive buffer, with the row each names. -/
def State.normalPairs (s : State) (c : CoreId) (buf : Nat) (seg2 : Bool) : List (Nat × Pair) :=
  let l := s.driveLists c buf seg2
  l.1.2.1.map (fun p => (p.index, p)) ++ l.2.2.1.map fun p => (512 + p.index, p)

/-- R276: pairs applied exactly, from the record at a: MANT × 2^(EXP − 127) × W4, at the scale of the smallest EXP. -/
def State.exactPairs (s : State) (a wx : Nat) (ps : List (Nat × Pair)) : ArrRes :=
  let e := (ps.map fun p => p.2.exp).foldl min ((ps.head?.map fun p => p.2.exp).getD 0)
  ⟨(List.range 512).map fun c => (ps.map fun p => p.2.mant * 2 ^ (p.2.exp - e) * s.w4At a p.1 c).sum,
    ((wx : Int) - 142) + ((e : Int) - 127)⟩

/-- R119, R276, R277: an outlier pass ends; in a tier engine context its pairs are applied exactly. -/
def execOpassComplete : CoreAt → State → Host.Outcome State Fault Refusal
  | ⟨c, err⟩, s =>
  runAct (fun s =>
    match c, (s.core c).opass with
    | .tile t, some m =>
      if (s.core c).passNext = false then []
      else if err = .residue then seqA [modCore c fun k => { k with opass := none }, residueEvent c (unitDigital c) false] s
      else convDone t true m s
    | .ctx d k, some m =>
      let w := (s.core c).work
      if (s.core c).passNext = false then []
      else if err = .residue then seqA [modCore c fun k => { k with opass := none }, residueEvent c (unitDigital c) false] s
      else match s.recordOf w with
      | some a =>
        let ps := s.normalPairs c m.buf w.seg2
        seqA [pairRead c d.val m.buf a ps,
          if s.pairsBad a ps then ctxBad d k.val a
          else modCore c fun k => { (k.hit 2) with opass := none, opRes := some (s.exactPairs a w.wx ps) }] s
      | none => ctxBad d k.val 0 s
    | _, none => []) s

/-! ## Accumulation (R112–R114) -/

/-- G[c] from the core's GAIN region. -/
def State.gain (s : State) (c : CoreId) (col : Nat) : Nat := s.num (coreBase c + 0x1100 + 2 * col) 2

/-- The 16 ACC56 blocks of a result's products with the column gains (R112). -/
def State.products (s : State) (c : CoreId) (r : ArrRes) : List AccBlk :=
  (List.range 16).map fun b => accOf r.f ((List.range 32).map fun i =>
    r.cols.getD (32 * b + i) 0 * s.gain c (32 * b + i))

/-- A bank of a core. -/
def Core.bank (k : Core) (b : Nat) : List AccBlk := if b = 0 then k.bank0 else k.bank1
def Core.setBank (k : Core) (b : Nat) (v : List AccBlk) : Core := if b = 0 then { k with bank0 := v } else { k with bank1 := v }

/-- Add blocks to a bank by R44, counting rescales. -/
def accInto (c : CoreId) (b : Nat) (v : List AccBlk) : Act := fun s =>
  let k := s.core c
  let r := accAddAll k.work.rcp.accRnd (k.bank b) v k.rng
  seqA [modCore c fun k => (k.setBank b r.1).setRng r.2.2,
    whenA (fun _ => r.2.1 != 0) (bump F.SCH_FMT_CNT_RESCALE (coreDie c) r.2.1)] s

/-- Add a list of partial sums in order. -/
def accAllInto (c : CoreId) (b : Nat) (l : List (List AccBlk)) : Act := forA l (accInto c b)

/-- An accumulation of a core under what its checks find: it reads the SRAM region at [lo, hi), and a residue that does not match is
charged to the core's digital path (R105, R113, R317). -/
def accRead (c : CoreId) (err : CoreErr) (lo hi : Nat) (act : Act) : Act :=
  coreRead c err (fun o => decide (lo ≤ o) && decide (o < hi)) (residueEvent c (unitDigital c) false) act

/-- R114: clear a bank and add the MVM result. -/
def execAccClearAddMvm : CoreAt → Fin 2 → State → Host.Outcome State Fault Refusal
  | ⟨c, err⟩, bank, s =>
  runAct (onRun c fun _ => accRead c err 0x1100 0x1500 fun s => seqA [modCore c fun k => k.setBank bank.val
      (k.mvmRes.elim zeroBank fun r => s.products c r), nextPc c] s) s

/-- R114: add the MVM result to a bank. -/
def execAccAddMvm : CoreAt → Fin 2 → State → Host.Outcome State Fault Refusal
  | ⟨c, err⟩, bank, s =>
  runAct (onRun c fun k => accRead c err 0x1100 0x1500 fun s => seqA [match k.mvmRes with
      | some r => accInto c bank.val (s.products c r)
      | none => skip, nextPc c] s) s

/-- R114: add the outlier-pass result to a bank. -/
def execAccAddOpass : CoreAt → Fin 2 → State → Host.Outcome State Fault Refusal
  | ⟨c, err⟩, bank, s =>
  runAct (onRun c fun k => accRead c err 0x1100 0x1500 fun s => seqA [match k.opRes with
      | some r => accInto c bank.val (s.products c r)
      | none => skip, nextPc c] s) s

/-- R114: add every partial sum received and not yet added, in arrival order; a word whose residue does not match is
a residue event of the tile (R43). -/
def execAccAddPsum : CoreAt → Fin 2 → State → Host.Outcome State Fault Refusal
  | ⟨c, err⟩, bank, s =>
  runAct (onRun c fun k => accRead c err 0 0 <|
    let l := k.psumsOf.drop k.psumAdded
    if l.any fun p => p.any AccBlk.bad then residueEvent c (unitDigital c) false
    else seqA [accAllInto c bank.val l, modCore c fun k => { k with psumAdded := k.psumsOf.length }, nextPc c]) s

/-- The SPILL region of a core (R104). -/
def State.spillBlks (s : State) (c : CoreId) : List AccBlk :=
  let b := s.bytes (coreBase c + 0x2800) 4224
  (List.range 16).map fun i => decAcc b (264 * i)

/-- R114, R553: check each SPILL word's residue, then add the region to a bank. Nothing is added where no spill was
completed (R125). -/
def execAccAddSpill : CoreAt → Fin 2 → State → Host.Outcome State Fault Refusal
  | ⟨c, err⟩, bank, s =>
  runAct (onRun c fun k => accRead c err 0x2800 0x3900 fun s =>
    if k.spilled = false then nextPc c s
    else
      let l := s.spillBlks c
      if l.any AccBlk.bad then residueEvent c (unitTier (coreDie c)) true s
      else seqA [accInto c bank.val l, nextPc c] s) s

/-! ## Re-quantisation (R45–R48, R113, R115–R117, R122) -/

/-- R115: every destination of the stage's output is an array stage. -/
def State.outfitOk (s : State) (p stage : Nat) : Bool :=
  match s.stage p stage with
  | none => false
  | some st =>
    st.kind == 0 && (s.routesOf (s.job p).addr st).all fun r =>
      match r.kind with
      | 0 | 4 => (s.stage p r.target).any Stage.onArrays
      | 1 => (s.groupLeaves (s.job p).addr r.target).all fun l => (s.stage p l).any Stage.onArrays
      | _ => false

/-- A re-quantised segment: format, blocks, its outlier list's flags and pairs, pairs dropped, and the generator. -/
structure Seg where
  fmt : Nat
  blks : List RqBlk
  normal : List Pair
  spill : List Pair
  clipped : Nat
  esc : Bool
  rng : Gen
  deriving DecidableEq, Repr

/-- R122: the pairs of a segment under the overflow policy of its recipe. -/
def requant (w : WorkItem) (outfit : Bool) (bank : List AccBlk) (g : Gen) : Seg :=
  let r := w.rcp
  let x := rqBlocks r.outFmt outfit r.rqRnd bank g
  let ps := (rankOuts bank x.1).map fun o => pairOf o.1 o.2.2.1 o.2.1 o.2.2.2
  if ps.length ≤ r.outMax then ⟨r.outFmt, x.1, ps, [], 0, false, x.2⟩
  else match r.ovfPol with
  | 0 => ⟨r.outFmt, x.1, ps.take r.outMax, [], ps.length - r.outMax, false, x.2⟩
  | 1 => ⟨r.outFmt, x.1, ps.take r.outMax, ps.drop r.outMax, 0, false, x.2⟩
  | _ =>
    let y := rqBlocks 3 false r.rqRnd bank x.2
    ⟨3, y.1, [], [], 0, true, y.2⟩

/-- The output buffer's offset (R104). -/
def outOff (outb : Nat) : Nat := 0x2200 + 0x300 * outb

/-- An output segment as the output buffer holds it: the segment, then its outlier list 528 bytes on; a Y16 segment
carries no list (R104, R115). -/
def encOut (x : Seg) : List Byte :=
  let seg := encSeg x.fmt (x.blks.map RqBlk.blk)
  if x.fmt = 4 then seg else padTo 528 seg ++ padTo 136 (encList x.fmt x.esc (x.clipped != 0) x.normal x.spill)

/-- R46, R113: re-quantise a bank into an output buffer under the item's recipe, which PARAM holds. -/
def execRq : CoreAt → Fin 2 → Fin 2 → State → Host.Outcome State Fault Refusal
  | ⟨c, err⟩, bank, outb, s =>
  runAct (onRun c fun k => accRead c err 0x1020 0x1040 fun s =>
    let w := k.work
    let b := k.bank bank.val
    if b.any AccBlk.bad then residueEvent c (unitDigital c) false s
    else
      let outfit := w.rcp.expMode == 1 && w.rcp.outFmt == 2 && decide (0 < w.rcp.outMax) && s.outfitOk w.part w.stage
      let x := requant w outfit b k.rng
      let n := x.normal.length + x.spill.length
      seqA [putBytes (coreBase c + outOff outb.val) (encOut x), modCore c fun k => k.setRng x.rng,
        countFlags (coreDie c) w (x.blks.countP RqBlk.under) (x.blks.countP RqBlk.sat),
        match c with
        | .ctx _ _ => skip
        | .tile t => seqA [whenA (fun _ => n != 0) (seqA [bump F.TIL_OUT_CNT_SEG (tileKey t) 1,
              bump F.TIL_OUT_CNT_PAIRS (tileKey t) n]),
            whenA (fun _ => x.clipped != 0) (seqA [bump F.TIL_OUT_OVF_SEG (tileKey t) 1,
              bump F.TIL_OUT_OVF_PAIRS (tileKey t) x.clipped]),
            whenA (fun _ => x.esc) (bump F.TIL_OUT_ESC_SEG (tileKey t) 1)],
        nextPc c] s) s

/-! ## Injection (R107, R186, R248) -/

/-- A route entry of PARAM (R108), and whether its RFORM is defined (R186). -/
def State.routeWord (s : State) (c : CoreId) (i : Nat) : Word32 := s.sramWord c (0x1040 + 4 * i)
def rformOk (w : Word32) : Bool := 1 ≤ w.toNat / 2 ^ 28 && w.toNat / 2 ^ 28 ≤ 6

/-- R116: the bytes that leave an output buffer as one unit: the segment in the format its list names, then the list, of as many pairs as
its header says; a Y16 segment carries no list (R115). -/
def State.outUnit (s : State) (c : CoreId) (fmt outb : Nat) : List Byte :=
  let a := coreBase c + outOff outb
  if fmt = 4 then s.bytes a 1040
  else
    let h := s.num (a + 528) 8
    s.bytes a (fmtSeg (segFmt fmt (nbits h 19 16))) ++ s.bytes (a + 528) (8 + 8 * (nbits h 4 0 + nbits h 12 8))

/-- The SRAM offsets that a SEND reads: its route entry and its output buffer. -/
def inSend (outb route o : Nat) : Bool :=
  (decide (0x1040 + 4 * route ≤ o) && decide (o < 0x1044 + 4 * route)) ||
    (decide (outOff outb ≤ o) && decide (o < outOff outb + 0x600))

/-- R107: start injecting an output buffer with its outlier list on a route entry; an undefined or reserved entry
faults (CAUSE 5). -/
def execSend : CoreAt → Fin 2 → Fin 16 → State → Host.Outcome State Fault Refusal
  | ⟨c, err⟩, outb, route, s =>
  runAct (onRun c fun k => coreRead c err (inSend outb.val route.val) skip fun s =>
    let r := s.routeWord c route.val
    if rformOk r = false then seqFault c 5 s
    else
      seqA [modCore c fun k => { k with inj := k.inj ++ [⟨false, outb.val, r, k.work.job, k.work.destRep, [],
        s.outUnit c k.work.rcp.outFmt outb.val⟩] }, nextPc c] s) s

/-- R248: a block multiplied by gate q; a product that does not fit 56 bits is rescaled (R44). -/
def gateBlk (mode q : Nat) (b : AccBlk) (g : Gen) : AccBlk × Bool × Gen :=
  let vs := (accVals b).map fun v => v * (q : Int)
  let k := rescaleBits vs
  if k = 0 then (accOf (b.f - 15) vs, false, g)
  else
    let r := roundList mode k vs g
    (accOf (b.f - 15 + k) r.1, true, r.2)

/-- A bank multiplied by a gate: the blocks, the rescales, the generator. -/
def gateAll (mode q : Nat) : List AccBlk → Gen → List AccBlk × Nat × Gen
  | [], g => ([], 0, g)
  | b :: l, g =>
    let x := gateBlk mode q b g
    let y := gateAll mode q l x.2.2
    (x.1 :: y.1, (if x.2.1 then 1 else 0) + y.2.1, y.2.2)

/-- R107: start sending a bank as partial sums; the injection unit of an expert stage applies the item's gate. -/
def execPsum : CoreAt → Fin 2 → Fin 16 → State → Host.Outcome State Fault Refusal
  | ⟨c, err⟩, bank, route, s =>
  runAct (onRun c fun k => accRead c err (0x1040 + 4 * route.val) (0x1044 + 4 * route.val) fun s =>
    let r := s.routeWord c route.val
    if rformOk r = false then seqFault c 5 s
    else
      let w := k.work
      let x := match w.gate with
        | some q => gateAll w.rcp.accRnd q (k.bank bank.val) k.rng
        | none => (k.bank bank.val, 0, k.rng)
      seqA [modCore c fun k => { (k.setRng x.2.2) with inj := k.inj ++ [⟨true, bank.val, r, w.job, w.destRep, x.1, []⟩] },
        whenA (fun _ => x.2.1 != 0) (bump F.SCH_FMT_CNT_RESCALE (coreDie c) x.2.1), nextPc c] s) s

/-- R276: the context of the same engine that runs the owner of a context's partial sums: the array that holds the output segment of
the item's stage, or the combining stage's that an expert sends them to. -/
def State.ownerCtx (s : State) (d : Fin 32) (w : WorkItem) : Option (Fin 16) :=
  let nOut := (s.stage w.part w.stage).elim 1 fun st => max 1 st.nOut
  let tgts := (s.stage w.part w.stage).elim [] fun st => ((s.routesOf (s.job w.part).addr st).filter fun r => r.kind == 4).map RouteDef.target
  (List.finRange 16).find? fun k => (s.core (.ctx d k)).item.any fun x => x.handle == w.handle &&
    ((x.stage == w.stage && nOut ≤ w.arr && x.arr == w.arr % nOut) || (tgts.contains x.stage && x.arr == w.arr % nOut))

/-- The packet of a SEND or PSUM, and the router it enters the mesh at (R132, R133, R186, R187): a WRITE on ACT, on RED for a group's; a PSUM
on RED; to the tile the entry names, the scheduler for the output of a router or exit (R236), or on tree TREE + r. A context injects at the
root of its tree. KV, RESULT and COLL entries name no endpoint. -/
def State.injectPkt (s : State) (c : CoreId) (x : Inj) : Option (TileId × Packet) :=
  let n := x.route.toNat
  let d := coreDie c
  let src := match c with
    | .tile t => t
    | .ctx _ _ => tierRouter d
  let p := (s.jobPart x.job).getD (s.part d)
  let kind : Fin 16 := match c with
    | .tile _ => 0
    | .ctx _ _ => 5
  let k := { segPacket p src kind (if x.psum then .red else .act) (n / 2 ^ (if n / 2 ^ 28 = 2 then 16 else 20) % 2)
      (if x.psum then x.blks.flatMap encAcc else x.bytes) with ptype := if x.psum then 5 else 1 }
  let sched := (s.core c).bound.any fun b => (s.stage p b.1).any fun st => st.kind == 1 || st.kind == 2
  match n / 2 ^ 28 with
  | 2 =>
    let tree := (n + x.destRep % (n / 2 ^ 17 % 256 + 1)) % 65536
    let f := (s.job p).fams.find? fun f => f.base ≤ tree && decide (tree < f.base + f.leaves.length)
    some (f.elim src TreeFam.src, { k with
      mc := true, tree := BitVec.ofNat 16 tree, vc := if f.any TreeFam.red then .red else k.vc })
  | 1 | 5 => (tileAt (n % 64) (n / 64 % 128) (n / 8192 % 128)).map fun t => (src, { k with
      dst := t, kind := if sched && !x.psum then 1 else if t == tierRouter t.d.val && (s.core (.tile t)).bound.isNone then 5 else 0 })
  | _ => none

/-- R107: the oldest SEND or PSUM has been injected in full; with none left SEND_CREDIT is satisfied. Partial sums for an owner on the
same tier engine are added there, with no packet (R276). -/
def execInjectionComplete (c : CoreId) (s : State) : Host.Outcome State Fault Refusal :=
  runAct (fun s =>
    match (s.core c).inj with
    | [] => []
    | x :: _ => seqA [modCore c fun k => { k with inj := k.inj.tail },
        match c, x.psum with
        | .ctx d _, true => match s.ownerCtx d (s.core c).work with
          | some k => modCore (.ctx d k) fun y => { y with psums := y.psums ++ [((s.core c).work.handle, x.blks)] }
          | none => emit (.inject c x.route x.bytes x.blks x.destRep (s.injectPkt c x))
        | _, _ => emit (.inject c x.route x.bytes x.blks x.destRep (s.injectPkt c x))] s) s

/-! ## Spills (R122–R125) -/

/-- R123: the die whose tier engine serves die d's work: its own, or the nearest of the partition that is not FAULTY
(R329); none where there is none. -/
def State.engineFor (s : State) (d : Nat) : Option Nat :=
  let hops := fun e => (dieRow d - dieRow e) + (dieRow e - dieRow d) + (dieCol d - dieCol e) + (dieCol e - dieCol d)
  (sortKey (fun e => (hops e, e, 0, 0)) ((s.partDies (s.part d)).filter fun e => !(s.die e).tierFaulty)).head?

/-- The spill pairs of a drive buffer, with the row each names. -/
def State.spillPairs (s : State) (c : CoreId) (buf : Nat) (seg2 : Bool) : List (Nat × Pair) :=
  let l := s.driveLists c buf seg2
  l.1.2.2.map (fun p => (p.index, p)) ++ l.2.2.2.map fun p => (512 + p.index, p)

/-- One pair's products (R123): MANT × 2^(EXP − 127) × W4 × G × 2^(WX − 142), as 16 blocks. -/
def State.pairProducts (s : State) (a : Nat) (p : Nat × Pair) : List AccBlk :=
  let wx := s.num (a + 0x40400) 1
  (List.range 16).map fun b => accOf ((p.2.exp : Int) - 127 + ((wx : Int) - 142)) ((List.range 32).map fun i =>
    p.2.mant * s.w4At a p.1 (32 * b + i) * s.num (a + 0x40000 + 2 * (32 * b + i)) 2)

/-- The sum of a list of pairs' products: blocks, rescales, generator. -/
def sumPairs (mode : Nat) : List (List AccBlk) → List AccBlk → Gen → List AccBlk × Nat × Gen
  | [], acc, g => (acc, 0, g)
  | p :: r, acc, g =>
    let x := accAddAll mode acc p g
    let y := sumPairs mode r x.1 x.2.2
    (y.1, x.2.1 + y.2.1, y.2.2)

/-- R123: the spill result of a work item from the record at a. -/
def State.spillSum (s : State) (d : Nat) (w : WorkItem) (a : Nat) (ps : List (Nat × Pair)) : List AccBlk × Nat × Gen :=
  let l := ps.map (s.pairProducts a)
  sumPairs w.rcp.accRnd l.tail (l.headD zeroBank) ⟨seedOf w.handle w.seed w.mile w.stage d 126 127, 0⟩

/-- Write a spill result and raise SPILL_DONE. -/
def spillInto (c : CoreId) (d : Nat) (w : WorkItem) (a : Nat) (ps : List (Nat × Pair)) : Act := fun s =>
  let x := s.spillSum d w a ps
  seqA [putBytes (coreBase c + 0x2800) (x.1.flatMap encAcc),
    whenA (fun _ => x.2.1 != 0) (bump F.SCH_FMT_CNT_RESCALE d x.2.1),
    modCore c fun k => { (k.hit 4) with spilled := true, spillBad := false }] s

/-- R125: fall back to CLIP for a spill's pairs. -/
def spillFallback (c : CoreId) (n : Nat) : Act :=
  seqA [match c with
      | .tile t => bump F.TIL_OUT_SPILL_FALLBACK (tileKey t) n
      | .ctx _ _ => skip,
    modCore c fun k => { (k.hit 4) with spilled := false }]

/-- The request of a core's item for a spill of drive buffer `buf` waits or is in service on some die. -/
def State.spillWaits (s : State) (c : CoreId) (h : Word32) (buf : Nat) : Bool :=
  allDies.any fun d => (s.die d).spillQ.any fun q => q == ⟨c, h, buf⟩

/-- R123, R125, R126: request a spill for drive buffer sA[0]; a retry reuses a good result, and no item asks twice for one buffer; a full
queue falls back. In a tier engine context the spill pairs are added exactly at once (R276). -/
def execSpill : CoreAt → Fin 16 → State → Host.Outcome State Fault Refusal
  | ⟨c, err⟩, a, s =>
  runAct (onRun c fun k => coreRead c err (inDrive ((k.sreg a.val).toNat % 2)) skip fun s =>
    let w := k.work
    let buf := (k.sreg a.val).toNat % 2
    let ps := s.spillPairs c buf w.seg2
    if ps.isEmpty ∨ k.spilled = true then seqA [modCore c fun k => (k.ask 4).hit 4, nextPc c] s
    else if k.spillReq.contains buf then
      seqA [modCore c fun k => if s.spillWaits c w.handle buf then k.ask 4 else (k.ask 4).hit 4, nextPc c] s
    else match c with
    | .ctx d k =>
      match s.recordOf w with
      | some r => seqA [modCore c fun k => { (k.ask 4) with spillReq := k.spillReq ++ [buf] }, pairRead c d.val buf r ps,
          if s.pairsBad r ps then ctxBad d k.val r else seqA [spillInto c d.val w r ps, nextPc c]] s
      | none => ctxBad d k.val 0 s
    | .tile t =>
      seqA [modCore c fun k => { (k.ask 4) with spillReq := k.spillReq ++ [buf] }, bump F.TIL_OUT_SPILL_REQ (tileKey t) 1,
        match s.engineFor t.d.val with
        | some e =>
          if 16 ≤ (s.die e).spillQ.length then spillFallback c ps.length
          else modDie e fun x => { x with spillQ := x.spillQ ++ [⟨c, w.handle, buf⟩] }
        | none => spillFallback c ps.length,
        nextPc c] s) s

/-- R123, R125: the spill in service on die d ends. A request whose item has ended since is dropped. -/
def execSpillDone (d : Fin 32) (ecc : Ecc) (s : State) : Host.Outcome State Fault Refusal :=
  runAct (fun s =>
    match (s.die d.val).spillQ with
    | [] => []
    | q :: _ =>
      let k := s.core q.core
      let w := k.work
      let ps := s.spillPairs q.core q.buf w.seg2
      seqA [modDie d.val fun x => { x with spillQ := x.spillQ.tail },
        if k.item.isNone || w.handle != q.handle then skip
        else match s.recordOf w with
        | none => spillFallback q.core ps.length
        | some a => seqA [forA ps fun p => engineRead d.val (a + p.1 * 256) 256, engineRead d.val (a + 0x40000) 1056,
          eccRead (a + (ps.head?.elim 0 fun p => p.1 * 256)) 256 ecc,
          if ecc == .uncorrectable || ps.any (fun p => s.poisoned (a + p.1 * 256) 256) ||
              s.poisoned (a + 0x40000) 1056 then
            seqA [spillFallback q.core ps.length,
              logEv (some d.val) 12 3 1 (unitChannel a) w.part w.job w.handle (leBytes 8 a)]
          else seqA [spillInto q.core d.val w a ps, bump F.STK_TIER_ITEM_SPILLS d.val 1]]] s) s

end Sys2Proof.Machine
end

