-- ==== Sys2Proof/Machine/Noc.lean ====
section
/-!
DEFINITION. The package network (R129–R149, R316): routes, links with credits and replay, packets at a router, holds,
markers, and links and channels taken down.
-/
namespace Sys2Proof.Machine

/-! ## Geometry (R129, R130) -/

/-- A port's number (R149), and the port of a number. -/
def portCode : RPort → Nat
  | .n => 0 | .e => 1 | .s => 2 | .w => 3 | .l => 4
def edgePort (e : Nat) : RPort := [RPort.n, .e, .s, .w].getD e .l

/-- The opposite port. -/
def portBack : RPort → RPort
  | .n => .s | .e => .w | .s => .n | .w => .e | .l => .l

/-- A tile by numbers; numbers out of range (which no caller gives) fold to their residue. -/
def tileOf (d x y : Nat) : TileId :=
  ⟨fin32 d, ⟨x % 64, Nat.mod_lt _ (by decide)⟩, ⟨y % 66, Nat.mod_lt _ (by decide)⟩⟩

/-- Gateway k of an edge of die d (R130). -/
def gateway (d : Nat) (e : RPort) (k : Nat) : TileId :=
  match e with
  | .n => tileOf d (8 * k + 4) 0
  | .s => tileOf d (8 * k + 4) 65
  | .w => tileOf d 0 (8 * k + 4)
  | _ => tileOf d 63 (8 * k + 4)

/-- The die an edge faces, if it faces one. -/
def facing (d : Nat) : RPort → Option Nat
  | .n => if 8 ≤ d then some (d - 8) else none
  | .s => if d < 24 then some (d + 8) else none
  | .w => if d % 8 = 0 then none else some (d - 1)
  | .e => if d % 8 = 7 then none else some (d + 1)
  | .l => none

/-- The gateway number of router r on edge e, if it is one. -/
def gateNo (r : TileId) (e : RPort) : Option Nat :=
  if e = .l then none else (List.range 8).find? fun k => gateway r.d.val e k == r

/-- The key of the link at port p of router r. -/
def linkKey (r : TileId) (p : RPort) : Nat := tileKey r * 8 + portCode p

/-- The router a port leads to: a neighbour on the die, or the facing gateway of the next die; none at the edge of the mesh. -/
def across (r : TileId) (p : RPort) : Option TileId :=
  match gateNo r p with
  | some k => (facing r.d.val p).map fun d => gateway d (portBack p) k
  | none =>
    match p with
    | .n => if r.y.val = 0 then none else tileAt r.d.val r.x.val (r.y.val - 1)
    | .s => tileAt r.d.val r.x.val (r.y.val + 1)
    | .w => if r.x.val = 0 then none else tileAt r.d.val (r.x.val - 1) r.y.val
    | .e => tileAt r.d.val (r.x.val + 1) r.y.val
    | .l => none

/-- R130: the port by which a gateway of column 0 or 7 reaches the port block of its die. -/
def portSide (r : TileId) : Option RPort :=
  [RPort.w, .e].find? fun p => (gateNo r p).isSome && (facing r.d.val p).isNone

/-- A port that leads out of the mesh: L, or the port block's side of a gateway. -/
def leaves (r : TileId) (p : RPort) : Bool := p == .l || portSide r == some p

/-- Die-to-die hops. -/
def dieHops (a b : Nat) : Nat :=
  (dieRow a - dieRow b) + (dieRow b - dieRow a) + (dieCol a - dieCol b) + (dieCol b - dieCol a)

/-- Mesh hops between two tiles of a die. -/
def meshHops (a b : TileId) : Nat :=
  (a.x.val - b.x.val) + (b.x.val - a.x.val) + (a.y.val - b.y.val) + (b.y.val - a.y.val)

/-! ## Routes (R136, R148) -/

namespace State
variable (s : State)

/-- Channel k of an edge of die d is up (PRT_NOC_D2D). -/
def chanUp (d : Nat) (e : RPort) (k : Nat) : Bool := nbit (s.reg .prt d 0x2010).toNat (8 * portCode e + k)

/-- The channel that carries gateway k's traffic (R148): k itself, or the up channel of nearest index, the lower on a tie. DESIGN CHOICE
(log entry 35): the routes and the trees keep their gateways, and their flits keep the sequence numbers, credits and buffers of theirs. -/
def chanFor (d : Nat) (e : RPort) (k : Nat) : Option Nat :=
  (sortKey (fun j => ((j - k) + (k - j), j, 0, 0)) ((List.range 8).filter (s.chanUp d e))).head?

/-- Every channel of an edge is down. -/
def edgeDead (d : Nat) (e : RPort) : Bool := !(List.range 8).any (s.chanUp d e)

end State

/-- The edge a route leaves die d by on its way to die t: column first, or row first. -/
def nextEdge (rowFirst : Bool) (d t : Nat) : RPort :=
  let c := if dieCol d < dieCol t then RPort.e else .w
  let r := if dieRow d < dieRow t then RPort.s else .n
  if d = t then .l
  else if dieRow d = dieRow t then c
  else if dieCol d = dieCol t then r
  else if rowFirst then r else c

/-- The edges a route between two dies crosses; two dies are at most ten crossings apart. -/
def dieRoute (rowFirst : Bool) : Nat → Nat → Nat → List (Nat × RPort)
  | 0, _, _ => []
  | n + 1, d, t =>
    if d = t then []
    else
      let e := nextEdge rowFirst d t
      (d, e) :: (match facing d e with
        | some d' => dieRoute rowFirst n d' t
        | none => [])

/-- R148: CTL goes around a dead edge by changing die row first. -/
def State.rowFirst (s : State) (vc : Vc) (a b : Nat) : Bool :=
  vc == .ctl && (dieRoute false 10 a b).any fun x => s.edgeDead x.1 x.2

/-- The port by which a route toward tile t leaves router r (R136); none at a dead edge. -/
def State.nextPort (s : State) (rf : Bool) (r t : TileId) : Option RPort :=
  let toward := fun (g : TileId) (out : RPort) =>
    if r.x.val < g.x.val then RPort.e else if g.x.val < r.x.val then .w
    else if r.y.val < g.y.val then .s else if g.y.val < r.y.val then .n else out
  match nextEdge rf r.d.val t.d.val with
  | .l => some (toward t .l)
  | e =>
    let k := if e = .e ∨ e = .w then min (t.y.val / 8) 7 else t.x.val / 8
    if s.edgeDead r.d.val e then none else some (toward (gateway r.d.val e k) e)

/-- The routers and ports of a route, source to destination (R136, R142); `n` bounds its length. -/
def State.path (s : State) (rf : Bool) : Nat → TileId → TileId → List (TileId × RPort)
  | 0, _, _ => []
  | n + 1, r, t =>
    match s.nextPort rf r t with
    | none => []
    | some .l => [(r, .l)]
    | some p => (r, p) :: (match across r p with
      | some q => s.path rf n q t
      | none => [])

/-- The route between two tiles: at most 11 dies of 128 routers each. -/
def State.route (s : State) (a t : TileId) : List (TileId × RPort) := s.path false 1500 a t

/-! ## Partitions and jobs that stop -/

/-- A record of the log whose CODE, SEV and DETAIL the manual leaves to Keeper firmware (R546): codes 0x8000–0xFFFF. -/
def logOpen (d : Option Nat) (cls unit part job : Nat) (h : Word32) : Act := fun s =>
  let n := s.free
  seqA [draw, draw, logEv d cls (Config.freeNat n % 5) (0x8000 + Config.freeNat (n + 1) % 0x8000) unit part job h
    ((List.range 30).map (Config.freeByte n))] s

/-- A partition's job stops: admission ends and every passage not DONE is FAULTED with a status (R144, R148, R316). -/
def stopJobs (p status : Nat) : Act := fun s =>
  seqA [modJob p fun j => { j with stopped := true }, forA (s.partLive p) fun i => endPassage i status] s

/-! ## Flits (R131–R133, R137–R140) -/

/-- The code of a VC (R133), and the key of a buffer: VC and class. DESIGN CHOICE (log entry 214): CTL has two classes too, as R138's column
"CTL, per class" says; R137 names the other four. -/
def vcCode : Vc → Nat
  | .ctl => 0 | .act => 1 | .red => 2 | .bulk => 3 | .trn => 4
def bufKey (vc : Vc) (clsB : Bool) : Nat := vcCode vc * 2 + (if clsB then 1 else 0)
def keyVc (key : Nat) : Vc := [Vc.ctl, .act, .red, .bulk, .trn].getD (key / 2) .ctl

/-- Flits counted on a die by VC (PRT_NOC_FLITS). -/
def countFlits (d : Nat) (vc : Vc) (n : Nat) : Act :=
  eff fun s => .flits (d * 8 + vcCode vc) ((s.flits (d * 8 + vcCode vc) + n) % 2 ^ 64)

/-- Flits that cross an edge of router r's die at port p are counted (R149). -/
def countEdge (r : TileId) (p : RPort) (vc : Vc) (n : Nat) : Act :=
  whenA (fun _ => (gateNo r p).isSome && n != 0) (countFlits r.d.val vc n)

/-- R138: the flits an input buffer holds. -/
def bufSize (d2d : Bool) (key : Nat) : Nat := if key < 2 then (if d2d then 4 else 2) else if d2d then 24 else 8

/-- Nothing by VC and class: no credit used, no output held, partition 0 served next. -/
def noUsed (_ : Nat) : Nat := 0

/-- A flit's sideband but its CRC, bits [47:16] of R131. -/
def flitSide (f : NocFlit) : Nat :=
  let b := fun (x : Bool) (i : Nat) => if x then 2 ^ i else 0
  vcCode f.vc * 2 ^ 29 + b f.valid 28 + b f.head 27 + b f.tail 26 + f.seq.toNat * 2 ^ 18 + vcCode f.crVc * 2 ^ 15 +
    f.crCnt.val * 2 ^ 13 + b f.nak 12 + f.ack.toNat * 2 ^ 4

/-- The CRC-16 a flit should carry (R131). DESIGN CHOICE (log entry 214): over the data bytes in address order, then the sideband's bytes
from bit 47 down. -/
def flitSum (f : NocFlit) : BitVec 16 :=
  BitVec.ofNat 16 (crc16 (leBytes 64 f.data.toNat ++ (leBytes 4 (flitSide f)).reverse))

/-- The 48-bit sideband of a flit (R131). -/
def flitBits (f : NocFlit) : BitVec 48 := BitVec.ofNat 48 (flitSide f * 2 ^ 16 + f.crc.toNat)

/-- A flit whose CRC-16 holds, and a flit given its CRC-16. -/
def flitIntact (f : NocFlit) : Bool := f.crc == flitSum f
def flitSeal (f : NocFlit) : NocFlit := { f with crc := flitSum f }

/-- A flit that carries no part of a packet: acknowledgement, NAK and n credits of one VC and class. -/
def idleFlit (ack : Nat) (nak : Bool) (key n : Nat) : NocFlit :=
  flitSeal ⟨false, .ctl, false, false, false, 0, keyVc key, key % 2 == 1, ⟨min n 3, by omega⟩, nak, BitVec.ofNat 8 ack, 0, 0⟩

/-- The last flit of a packet that was cut off on its way (log entry 35). -/
def endFlit (key : Nat) : NocFlit :=
  ⟨true, keyVc key, key % 2 == 1, false, true, 0, .ctl, false, 0, false, 0, 0, 0⟩

/-- An endpoint as DST and SRC give it. -/
def endWord (t : TileId) (kind : Nat) : Nat := t.d.val + t.x.val * 2 ^ 6 + t.y.val * 2 ^ 13 + kind * 2 ^ 20

/-- The package header and payload of a packet (R132). -/
def pktBytes (k : Packet) : List Byte :=
  leBytes 1 k.ptype.toNat ++ leBytes 1 (16 + if k.mc then 8 else 0) ++ leBytes 2 k.data.length ++
    leBytes 4 (if k.mc then k.tree.toNat else endWord k.dst k.kind.val) ++ leBytes 4 (endWord k.src k.srcKind.val) ++
    leBytes 1 k.part.val ++ leBytes 2 k.tag.toNat ++ leBytes 1 0 ++ k.data

/-- A byte string in pieces of n. -/
def chunksOf (n : Nat) (l : List Byte) : List (List Byte) := (List.range ((l.length + n - 1) / n)).map fun i => (l.drop (n * i)).take n

/-- The flits of a packet (R132), not yet sent on a link. -/
def pktFlits (k : Packet) (clsB : Bool) : List NocFlit :=
  let l := chunksOf 64 (pktBytes k)
  l.zipIdx.map fun x => ⟨true, k.vc, clsB, x.2 == 0, x.2 + 1 == l.length, 0, .ctl, false, 0, false, 0, 0, BitVec.ofNat 512 (leNat x.1)⟩

/-! ## Input buffers (R143) -/

/-- The flits of a buffer's first packet that are there. -/
def firstPacket (l : List NocFlit) : List NocFlit :=
  match l.findIdx? NocFlit.tail with
  | some i => l.take (i + 1)
  | none => l

namespace NocLink

/-- A buffer, and the routed packets at its front. -/
def inBuf (k : NocLink) (b : Nat) : List NocFlit := SMap.get (fun _ => []) k.buf b
def routed (k : NocLink) (b : Nat) : List Cross := SMap.get (fun _ => []) k.cur b

/-- R139, R143: the flits at the front of buffer b that every branch has taken leave it, and their credits are owed; with its tail gone
the packet has left. A packet without a branch is discarded. -/
def settle (b : Nat) (k : NocLink) : NocLink :=
  match k.routed b with
  | [] => k
  | c :: r =>
    let l := firstPacket (k.inBuf b)
    let m := match c.outs.map Branch.taken with
      | [] => l.length
      | x :: t => t.foldl min x - c.gone
    let out := l.take m
    { k with buf := SMap.set (fun _ => []) k.buf b ((k.inBuf b).drop out.length)
             cur := SMap.set (fun _ => []) k.cur b (if out.any NocFlit.tail then r else { c with gone := c.gone + out.length } :: r)
             owed := k.owed ++ List.replicate out.length b }

/-- The packet at the front of buffer b has its branch by port p taken n flits further. -/
def take (b : Nat) (p : RPort) (n : Nat) (k : NocLink) : NocLink :=
  settle b { k with cur := SMap.set (fun _ => []) k.cur b (match k.routed b with
    | [] => []
    | c :: r => { c with outs := c.outs.map fun o => if o.port = p then { o with taken := o.taken + n } else o } :: r) }

/-- Branches by port q of the packets `hit` names leave buffer b. -/
def prune (q : RPort) (hit : Packet → Bool) (b : Nat) (k : NocLink) : NocLink :=
  settle b { k with cur := SMap.set (fun _ => []) k.cur b ((k.routed b).map fun c =>
    if hit c.pkt then { c with outs := c.outs.filter fun o => o.port != q } else c) }

/-- Buffer b's last packet has no tail and gets none: it is ended (log entry 35). -/
def endIn (b : Nat) (k : NocLink) : NocLink :=
  let l := k.inBuf b
  if (match l.getLast? with
      | some f => !f.tail
      | none => !(k.routed b).isEmpty) then
    settle b { k with buf := SMap.set (fun _ => []) k.buf b (l ++ [endFlit b]) }
  else k

/-- A flit goes out on the link (R139, R140): numbered, acknowledging, kept, its credit used. -/
def put (key : Nat) (f : NocFlit) (k : NocLink) : NocLink × NocFlit :=
  let g := flitSeal { f with clsB := key % 2 == 1, seq := BitVec.ofNat 8 k.txSeq, ack := BitVec.ofNat 8 k.rxSeq }
  let l := k.kept ++ [g]
  ({ k with used := SMap.set noUsed k.used key (SMap.get noUsed k.used key + 1), txSeq := (k.txSeq + 1) % 256, kept := l.drop (l.length - 64) }, g)

/-- The credits and acknowledgement a flit's sideband carries for the opposite direction. -/
def heard (f : NocFlit) (k : NocLink) : NocLink :=
  let key := bufKey f.crVc f.crCls
  { k with used := SMap.set noUsed k.used key (SMap.get noUsed k.used key - f.crCnt.val)
           fails := if k.kept.any (fun g => g.seq == f.ack) then 0 else k.fails
           kept := (match k.kept.findIdx? fun g => g.seq == f.ack with
             | some i => k.kept.drop (i + 1)
             | none => k.kept) }

end NocLink

/-! ## Outputs (R134, R139, R143, R145) -/

/-- The next flit of a routed packet's branch: the input port and buffer, the packet, the branch and the flit. -/
structure Offer where
  p : RPort
  b : Nat
  c : Cross
  o : Branch
  f : NocFlit

/-- The VC and class an offer travels in, and the number of its input. -/
def Offer.key (x : Offer) : Nat := bufKey x.c.pkt.vc x.o.clsB
def Offer.input (x : Offer) : Nat := portCode x.p * 10 + x.b + 1

/-- The ports of a router and the keys of its buffers. -/
def rPorts : List RPort := [.n, .e, .s, .w, .l]
def allKeys : List Nat := List.range 10

/-- What the inputs of router r offer. -/
def State.offers (s : State) (r : TileId) : List Offer :=
  rPorts.flatMap fun p => allKeys.flatMap fun b =>
    let k := s.link (linkKey r p)
    match k.routed b with
    | [] => []
    | c :: _ => c.outs.filterMap fun o => (firstPacket (k.inBuf b))[o.taken - c.gone]?.map fun f => ⟨p, b, c, o, f⟩

/-- R139, R145: an offer for output q may go: it holds a credit, and its packet is the one on its way in its VC and class, or begins. -/
def NocLink.mayGo (d2d : Bool) (k : NocLink) (x : Offer) : Bool :=
  decide (SMap.get noUsed k.used x.key < bufSize d2d x.key) &&
    SMap.get noUsed k.lock x.key == (if x.o.taken = 0 then 0 else x.input)

/-- The weight of VC code v on die d (R134, R149); 0 is taken as 1. -/
def State.weight (s : State) (d v : Nat) : Nat :=
  max 1 (s.fld ([F.PRT_NOC_ARB_W_ACT, F.PRT_NOC_ARB_W_RED, F.PRT_NOC_ARB_W_BULK, F.PRT_NOC_ARB_W_TRN].getD (v - 1) F.PRT_NOC_ARB_W_ACT) d)

/-- R134: the VC whose flit output q sends next, with the turn that follows: CTL first; else the VC whose turn it is while flits of it are
left, or the next in code order that waits. DESIGN CHOICE (log entry 164): a turn is as many flits as the weight. -/
def NocLink.nextVc (weight : Nat → Nat) (l : List Offer) (k : NocLink) : Nat × Nat × Nat :=
  let waits := fun (v : Nat) => l.any fun x => vcCode x.c.pkt.vc == v
  if waits 0 then (0, k.turn, k.left)
  else if k.left ≠ 0 ∧ waits k.turn = true then (k.turn, k.turn, k.left - 1)
  else
    let v := ((List.range 4).map fun i => (k.turn + i) % 4 + 1).find? waits |>.getD 1
    (v, v, weight v - 1)

/-- R145: of what may go in one VC, partitions with a head waiting take turns. DESIGN CHOICE (log entry 164): class B goes first, and of one
partition the input of the lowest port number. -/
def NocLink.pick (k : NocLink) (l : List Offer) : Option Offer :=
  (sortKey (fun x => (if x.o.clsB then 0 else 1, (x.c.pkt.part.val + 64 - SMap.get noUsed k.rr x.key) % 64, portCode x.p, x.b)) l).head?

/-! ## Partitions and packets at their end (R132, R135, R142, R148, R316) -/

/-- R142, R148: a packet whose PART does not match is discarded, counted and logged. -/
def partMiss (d : Nat) (k : Packet) : Act :=
  seqA [bump F.PRT_NOC_DROP_PART_MISS d 1, logOpen (some d) 5 (unitDie d) k.part.val 0 0]

/-- R148: packets of a partition are lost at a dead edge: of each passage with a step in flight it is free whether one was its own. -/
def packetLost (p : Nat) : Act := fun s =>
  forA ((s.partLive p).filter fun i => (s.passage i).inflight) (fun i s =>
    seqA [draw, whenA (fun _ => Config.freeBool s.free) (endPassage i 3)] s) s

/-- R316: a MSG whose CRC-16 fails is discarded, counted and logged; what it carried decides what follows. -/
def msgFail (d : Nat) (k : Packet) : Act := fun s =>
  let job := (s.job k.part.val).job
  seqA [bump F.CHK_DATA_CTL d 1, logEv (some d) 3 2 0x101 (unitDie d) k.part.val job 0 (leBytes 1 k.msg.val),
    if k.msg.val = 0 then emit (.ctl "READ_ONES" d k.part.val k.tag.toNat 0)
    else if k.msg.val = 1 then skip
    else stopJobs k.part.val 9] s

/-- Endpoints that serve one partition, that of their die (R132); slices, stack controllers, the Billeter's package
coordinator and port blocks serve them all. -/
def kindOfDie (k : Nat) : Bool := k == 0 || k == 1 || k == 5 || k == 6 || k == 8 || k == 9

/-- R116, R132: a segment with its outlier list in a WRITE packet reaches a tile: it fills the next drive buffer, or waits until that is
free; at a tile being left it waits for the spare (R196). DESIGN CHOICE (log entry 28): the input segment it fills is bit 0 of TAG, which a
WRITE has no other use for. -/
def driveWrite (r : TileId) (k : Packet) : Act := fun s =>
  let moving := (s.job k.part.val).rebinds.find? fun b => b.old == r
  match ((s.core (.tile r)).bound.map fun b => b.1).or (moving.map Rebind.stage) with
  | none => []
  | some stage =>
    let fmt := (s.stage k.part.val stage).elim 2 fun st => (s.rcp r.d.val st.rcp).inFmt
    let n := if 536 ≤ k.data.length then 528 else fmtSeg fmt
    arriveInput (.tile r) ⟨k.tag.toNat % 2, none, none, k.data.take n, (k.data.drop n).take 136⟩ s

/-- A tree of partition p that ends at router r ends there at other units than the tile (R237). -/
def State.notTile (s : State) (p tree : Nat) (r : TileId) : Bool :=
  let l := ((s.job p).fams.flatMap fun f => (f.leaves.zipIdx.filter fun x => (f.base + x.2) % 65536 == tree).flatMap Prod.fst) ++
    (s.oldTrees.filter fun o => o.tree == tree && o.part == p).flatMap OldTree.leaves
  let here := l.filter fun x => x.t == r && x.port == .l
  !here.isEmpty && here.all fun x => x.kind != 0

/-- The port by which a packet leaves the mesh at its destination router: the port block's side for a port block, else L. -/
def exitPort (r : TileId) (kind : Nat) : RPort := if kind = 7 then (portSide r).getD .l else .l

/-- A whole packet leaves the mesh at router r by port q. -/
def deliver (r : TileId) (q : RPort) (k : Packet) : Act := fun s =>
  if k.mc = false ∧ k.vc ≠ .trn ∧ kindOfDie k.kind.val = true ∧ s.part r.d.val ≠ k.part.val then partMiss r.d.val k s
  else if k.ptype = 4 ∧ k.crcOk = false then msgFail r.d.val k s
  else seqA [whenA (fun s => k.ptype == 1 && q == .l && (if k.mc then !s.notTile k.part.val k.tree.toNat r else k.kind.val == 0))
      (driveWrite r k), emit (.nocSend r q k)] s

/-- A routed packet's flits leave the mesh by port q as they come; with its tail the packet is delivered, unless it was cut off. -/
def sink (r : TileId) (x : Offer) : Act := fun s =>
  let l := (firstPacket ((s.link (linkKey r x.p)).inBuf x.b)).drop (x.o.taken - x.c.gone)
  seqA [modLink (linkKey r x.p) (NocLink.take x.b x.o.port l.length), countEdge r x.o.port x.c.pkt.vc l.length,
    whenA (fun _ => l.any NocFlit.tail && x.o.taken + l.length == (pktFlits x.c.pkt false).length) (deliver r x.o.port x.c.pkt)] s

/-- A flit goes out on output q of router r. -/
def sendFlit (r : TileId) (q : RPort) (key : Nat) (f : NocFlit) : Act := fun s =>
  let y := (s.link (linkKey r q)).put key f
  seqA [modLink (linkKey r q) fun _ => y.1, emit (.nocFlits r q [y.2]), countEdge r q (keyVc key) 1] s

/-- What output q of router r sends next: the end of a packet that was cut off, or a flit the arbiter picks (R134, R145); nothing where
no credit is held. -/
def sendNext (r : TileId) (q : RPort) : Act := fun s =>
  let k := s.link (linkKey r q)
  let d2d := (gateNo r q).isSome
  match k.ends.find? fun e => SMap.get noUsed k.used e < bufSize d2d e with
  | some e => seqA [sendFlit r q e (endFlit e),
      modLink (linkKey r q) fun y => { y with ends := y.ends.filter fun z => z != e, lock := SMap.set noUsed y.lock e 0 }] s
  | none =>
    let l := (s.offers r).filter fun x => x.o.port == q && k.mayGo d2d x
    let v := k.nextVc (s.weight r.d.val) l
    match k.pick (l.filter fun x => vcCode x.c.pkt.vc == v.1) with
    | none => []
    | some x => seqA [sendFlit r q x.key x.f,
        modLink (linkKey r q) fun y => { y with turn := v.2.1, left := v.2.2
                                                lock := SMap.set noUsed y.lock x.key (if x.f.tail then 0 else x.input)
                                                rr := if x.o.taken = 0 then SMap.set noUsed y.rr x.key ((x.c.pkt.part.val + 1) % 64) else y.rr },
        modLink (linkKey r x.p) (NocLink.take x.b q 1)] s

/-- One thing router r can do: a flit leaves the mesh, goes out on a link, or is discarded with its packet. -/
def flowStep (r : TileId) : Act := fun s =>
  match (s.offers r).find? fun x => leaves r x.o.port with
  | some x => sink r x s
  | none =>
    match (rPorts.filter fun q => !leaves r q && !(s.link (linkKey r q)).down).map (fun q => sendNext r q s) |>.find? fun l => !l.isEmpty with
    | some l => l
    | none => (rPorts.flatMap fun p => allKeys.flatMap fun b =>
        let k := s.link (linkKey r p)
        if k.settle b = k then [] else [Eff.link (linkKey r p) (k.settle b)]).take 1

/-- R139: the credits an input owes go back in flits that carry nothing else, up to three of one VC and class in each. -/
def payBack (r : TileId) (p : RPort) : Act := fun s =>
  let k := s.link (linkKey r p)
  if k.owed.isEmpty then []
  else seqA [modLink (linkKey r p) fun x => { x with owed := [] },
    whenA (fun _ => !leaves r p && !k.down) (forA (allKeys.flatMap fun b =>
      let n := k.owed.countP fun x => x == b
      (List.range ((n + 2) / 3)).map fun i => (b, n - 3 * i)) fun x => emit (.nocFlits r p [idleFlit k.rxSeq false x.1 x.2]))] s

/-- Router r goes on as far as its inputs hold flits and its outputs credits; every flit is sent at most once by each port. -/
def flowFor (r : TileId) : Nat → Act
  | 0 => skip
  | n + 1 => fun s =>
    let l := flowStep r s
    if l.isEmpty then [] else seqA [fun _ => l, flowFor r n] s

def flow (r : TileId) : Act := fun s =>
  let n := (rPorts.flatMap fun p => allKeys.map fun b => ((s.link (linkKey r p)).inBuf b).length + ((s.link (linkKey r p)).routed b).length).sum
  seqA [flowFor r (6 * n + 10), forA rPorts (payBack r)] s

/-- Nothing is on its way through router r: no packet is routed, none is to be ended, and no credit is owed. -/
def State.routerQuiet (s : State) (r : TileId) : Bool :=
  rPorts.all fun p => (s.link (linkKey r p)).cur.isEmpty && (s.link (linkKey r p)).ends.isEmpty && (s.link (linkKey r p)).owed.isEmpty

/-! ## Branches and links that end (R144, R145, R148) -/

/-- Packets that `hit` names no longer leave router r by port q; one whose head has gone out there is ended behind what was sent. -/
def cutBranch (r : TileId) (q : RPort) (hit : Packet → Bool) : Act := fun s =>
  let lock := (s.link (linkKey r q)).lock
  let begun := rPorts.flatMap fun p => allKeys.flatMap fun b => (((s.link (linkKey r p)).routed b).take 1).flatMap fun c =>
    ((c.outs.filter fun o => hit c.pkt && o.port == q).map fun o => bufKey c.pkt.vc o.clsB).filter fun e =>
      SMap.get noUsed lock e == portCode p * 10 + b + 1
  seqA [modLink (linkKey r q) fun k => { k with ends := k.ends ++ begun },
    forA rPorts (fun p => modLink (linkKey r p) fun k => allKeys.foldl (fun k b => k.prune q hit b) k), flow r] s

/-- One side of a link or channel ends: nothing goes out by port p of router r any more, and what came in without its end is ended. -/
def sever (r : TileId) (p : RPort) : Act :=
  seqA [modLink (linkKey r p) fun k =>
      let k := allKeys.foldl (fun k b => k.endIn b) k
      { k with down := true, kept := [], used := [], lock := [], ends := [], fails := 0 },
    cutBranch r p fun _ => true]

/-- Both sides. -/
def severLink (r : TileId) (p : RPort) : Act :=
  seqA [sever r p, forOpt (across r p) fun q => sever q (portBack p)]

/-- The packets a die edge has lost, in every partition whose routes cross the edge (R148). -/
def edgeLost (d : Nat) (e : RPort) : Act := fun s =>
  let hit := fun p => (s.partDies p).any fun a => (s.partDies p).any fun b => (dieRoute false 10 a b).contains (d, e)
  forA ((List.range 16).filter hit) packetLost s

/-- R140: what the sender on output p of router r keeps after the flit numbered `ack` goes out again, and is counted. -/
def resend (r : TileId) (p : RPort) (l : List NocFlit) : Act :=
  seqA [bump F.PRT_NOC_LNK_REPLAY r.d.val l.length, emit (.nocResend r p l)]

/-- The flits of a list that follow the one numbered `ack`; all of them where it is not there. -/
def keptAfter (l : List NocFlit) (ack : BitVec 8) : List NocFlit :=
  match l.findIdx? fun g => g.seq == ack with
  | some i => l.drop (i + 1)
  | none => l

/-- R148: the replay buffer of a gateway whose channel went down goes out on the channel that takes over, in order, from the flit the far
side waits for. -/
def moveChannel (d : Nat) (e : RPort) (k : Nat) : Act := fun s =>
  match across (gateway d e k) e with
  | none => []
  | some q =>
    let l := keptAfter (s.link (linkKey (gateway d e k) e)).kept (BitVec.ofNat 8 (s.link (linkKey q (portBack e))).rxSeq)
    if l.isEmpty then []
    else seqA [modLink (linkKey (gateway d e k) e) fun x => { x with kept := l, fails := 0 }, resend (gateway d e k) e l] s

/-- R148: D2D channel k of an edge of die d goes down: counted, shown on both dies, logged; the up channel of nearest index takes its traffic
over, and with the last channel the edge is dead. -/
def channelDown (d : Nat) (e : RPort) (k : Nat) : Act := fun s =>
  let moved := (List.range 8).filter fun i => s.chanFor d e i == some k
  let clear := fun (a : Nat) (p : RPort) => setReg .prt a 0x2010 (putBits (s.reg .prt a 0x2010) (8 * portCode p + k) (8 * portCode p + k) 0)
  if s.chanUp d e k = false then []
  else
    seqA [clear d e, forOpt (facing d e) fun a => clear a (portBack e),
      bump F.PRT_NOC_DOWN_COUNT d 1, setF F.PRT_NOC_DOWN_EDGE d (portCode e), setF F.PRT_NOC_DOWN_CHAN d k,
      logOpen (some d) 5 (7 * 2 ^ 28 + d * 2 ^ 22 + portCode e * 8 + k) 0x3F 0 0,
      iteA (fun s => s.edgeDead d e) (seqA [forA (List.range 8) fun i => severLink (gateway d e i) e, edgeLost d e])
        (forA moved fun i => seqA [moveChannel d e i, forOpt (facing d e) fun a => moveChannel a (portBack e) i])] s

/-- R148: a mesh link of router r goes down: counted, logged, and every job of the partition of the die stops. -/
def meshDown (r : TileId) (p : RPort) : Act := fun s =>
  let d := r.d.val
  if (s.link (linkKey r p)).down then []
  else
    seqA [severLink r p,
      bump F.PRT_NOC_DOWN_COUNT d 1, setF F.PRT_NOC_DOWN_EDGE d 4,
      logOpen (some d) 5 (6 * 2 ^ 28 + d * 2 ^ 22 + r.y.val * 2 ^ 15 + r.x.val * 2 ^ 8 + portCode p) (s.part d) 0 0,
      whenA (fun s => s.part d != 0x3F) (stopJobs (s.part d) 4)] s

/-- What a link on which one flit failed 8 replays does: the D2D channel that carries it or the mesh link goes down. -/
def linkFailed (r : TileId) (p : RPort) : Act := fun s =>
  match gateNo r p with
  | some k => forOpt (s.chanFor r.d.val p k) (fun j => channelDown r.d.val p j) s
  | none => meshDown r p s

/-- R140: the sender on output p of router r is asked for a replay: it resends from ACK_SEQ + 1. A flit that is asked for again after 8
replays has failed the eighth too, and the link goes down (R148). -/
def replay (r : TileId) (p : RPort) (ack : BitVec 8) : Act := fun s =>
  let k := s.link (linkKey r p)
  let rest := keptAfter k.kept ack
  let n := if rest.length = k.kept.length then k.fails + 1 else 1
  if k.down ∨ rest.isEmpty then []
  else if 9 ≤ n then linkFailed r p s
  else seqA [modLink (linkKey r p) fun x => { x with kept := rest, fails := n }, resend r p rest] s

/-- R140: the sender on output p receives a NAK. -/
def execNocReplay (r : TileId) (p : RPort) (ack : BitVec 8) (s : State) : Host.Outcome State Fault Refusal :=
  runAct (replay r p ack) s

/-- R140: a flit reaches input p of router r. One that is damaged or out of order is counted, discarded, and asked for again; what follows
it is discarded until it comes. An intact one is buffered and acknowledged. Its sideband returns credits, and asks for replays. -/
def execNocFlitReceive (r : TileId) (p : RPort) (f : NocFlit) (s : State) : Host.Outcome State Fault Refusal :=
  runAct (fun s =>
    let key := linkKey r p
    let k := s.link key
    let hear := seqA [modLink key (NocLink.heard f), whenA (fun _ => f.nak) (replay r p f.ack)]
    let ask := seqA [bump F.PRT_NOC_LNK_CRC r.d.val 1, modLink key fun k => { k with nakked := true },
      emit (.nocFlits r p [idleFlit k.rxSeq true 0 0])]
    let b := bufKey f.vc f.clsB
    if k.down ∨ leaves r p = true then []
    else if flitIntact f = false then ask s
    else if f.valid = false then seqA [hear, flow r] s
    else if f.seq.toNat ≠ (k.rxSeq + 1) % 256 then (if k.nakked then [] else ask s)
    else seqA [hear, modLink key fun k => NocLink.settle b { k with
          rxSeq := f.seq.toNat, nakked := false, buf := SMap.set (fun _ => []) k.buf b (k.inBuf b ++ [f]) },
        emit (.nocFlits r p [idleFlit f.seq.toNat false 0 0]), countEdge r p f.vc 1, flow r] s) s

/-- R148: a flit failed 8 replays on channel k of an edge of die d. -/
def execD2dChannelDown (d : Fin 32) (edge : Fin 4) (k : Fin 8) (s : State) : Host.Outcome State Fault Refusal :=
  runAct (channelDown d.val (edgePort edge.val) k.val) s

/-- R148: a flit failed 8 replays on a mesh link. L, a gateway's outward port and a port at the edge of the mesh are no mesh links. -/
def execMeshLinkDown (r : TileId) (p : RPort) (s : State) : Host.Outcome State Fault Refusal :=
  runAct (fun s => if (across r p).isNone = true ∨ (gateNo r p).isSome = true then [] else meshDown r p s) s

/-! ## Routing (R135–R137, R142) -/

/-- The tree entry of a router. -/
def State.treeEnt (s : State) (r : TileId) (tree part : Nat) : Option TreeEnt :=
  (s.treeTab (tileKey r)).find? fun e => e.tree == tree && e.part == part

/-- A tree from router r on serves leaves of die d alone; `n` bounds its depth. -/
def State.treeOn (s : State) (d tree part : Nat) : Nat → TileId → Bool
  | 0, _ => true
  | n + 1, r => match s.treeEnt r tree part with
    | none => true
    | some e => e.mask.all fun p => if leaves r p then r.d.val == d else match across r p with
      | some q => s.treeOn d tree part n q
      | none => true

/-- R137: a packet leaves router r by port p in class B: every destination beyond the link lies on the link's die. -/
def State.classB (s : State) (r : TileId) (p : RPort) (k : Packet) : Bool :=
  match across r p with
  | none => true
  | some q => if k.mc then s.treeOn q.d.val k.tree.toNat k.part.val 1500 q else k.dst.d == q.d

/-- The ports by which a packet leaves router r: its tree's branches (R142), or its fixed route's port (R136); none where it has no tree
entry, or at a dead edge. -/
def State.outPorts (s : State) (r : TileId) (k : Packet) : Option (List RPort) :=
  if k.mc then (s.treeEnt r k.tree.toNat k.part.val).map TreeEnt.mask
  else (s.nextPort (s.rowFirst k.vc k.src.d.val k.dst.d.val) r k.dst).map fun q => [if q = .l then exitPort r k.kind.val else q]

/-- R135: traffic of other parts leaves the mesh at a port block alone. -/
def trnMiss (r : TileId) (k : Packet) (q : RPort) : Bool := k.vc == .trn && q == .l && (k.mc || k.kind.val != 7)

/-- The branches a packet takes at router r: those it may take and whose link is up. -/
def State.branchesAt (s : State) (r : TileId) (k : Packet) : List Branch :=
  (((s.outPorts r k).getD []).filter fun q => !trnMiss r k q && (leaves r q || !(s.link (linkKey r q)).down)).map fun q =>
    ⟨q, s.classB r q k, 0⟩

/-- What a packet that finds no way on at router r leaves behind: TRN_MISS (R135), PART_MISS (R142), packets lost at a dead edge (R148). -/
def routeMiss (r : TileId) (k : Packet) : Act := fun s =>
  match s.outPorts r k with
  | none => if k.mc then partMiss r.d.val k s else packetLost k.part.val s
  | some l => seqA [whenA (fun _ => l.any (trnMiss r k)) (bump F.PRT_NOC_DROP_TRN_MISS r.d.val 1),
      whenA (fun s => l.any fun q => (gateNo r q).isSome && !leaves r q && (s.link (linkKey r q)).down) (packetLost k.part.val)] s

/-- A packet enters the mesh at input p of router r: L, or the port block's side. -/
def enterAt (r : TileId) (p : RPort) (k : Packet) : Act := fun s =>
  let fs := pktFlits k false
  let b := bufKey k.vc false
  let c : Cross := ⟨k, 0, s.branchesAt r k⟩
  seqA [routeMiss r k, countEdge r p k.vc fs.length, modLink (linkKey r p) fun x => { x with
      buf := SMap.set (fun _ => []) x.buf b (x.inBuf b ++ fs), cur := SMap.set (fun _ => []) x.cur b (x.routed b ++ [c]) }, flow r] s

/-- The buffer of an input at whose front the head of a packet waits to be routed. -/
def NocLink.headOf (k : NocLink) (x : Packet) : Option Nat :=
  ([false, true].map (bufKey x.vc)).find? fun b => (k.routed b).isEmpty &&
    (k.inBuf b).head?.any fun f => f.head && (pktFlits x false).head?.any fun g => g.data == f.data

/-- R136, R142: a packet head is routed at router r: a packet that enters by L or from the port block, or the one at the front of a buffer
of input p (R141); the packet takes its outputs, and its flits go as these have credits. -/
def execPacketRoute (r : TileId) (p : RPort) (k : Packet) (s : State) : Host.Outcome State Fault Refusal :=
  runAct (fun s =>
    if leaves r p then enterAt r p k s
    else match (s.link (linkKey r p)).headOf k with
      | none => []
      | some b => seqA [routeMiss r k, modLink (linkKey r p) fun x =>
            { x with cur := SMap.set (fun _ => []) x.cur b [⟨k, 0, s.branchesAt r k⟩] }, flow r] s) s

/-! ## Holds (R143–R145) -/

/-- PRT_NOC_MCEVT records a branch, and MC_HOLD goes to the scheduler of every die of the partition. -/
def mcEvent (r : TileId) (p : RPort) (part tree : Nat) : Act :=
  let d := r.d.val
  seqA [setF F.PRT_NOC_MCEVT_VALID d 1, setF F.PRT_NOC_MCEVT_PORT d (portCode p), setF F.PRT_NOC_MCEVT_Y d r.y.val,
    setF F.PRT_NOC_MCEVT_X d r.x.val, setF F.PRT_NOC_MCEVT_PART d part, setF F.PRT_NOC_MCEVT_TREE d tree,
    withA (fun s => s.partDies part) fun l => forA l fun a => emit (.ctl "MC_HOLD" a part tree (packTile r))]

/-- R144: a branch stalled beyond MC_HOLD_LIMIT leaves its tree entry, and what waits for it is discarded. -/
def execMcHoldExpiry (r : TileId) (p : RPort) (tree : BitVec 16) (part : Fin 64) (s : State) :
    Host.Outcome State Fault Refusal :=
  runAct (fun s =>
    match s.treeEnt r tree.toNat part.val with
    | none => []
    | some e =>
      if e.mask.contains p then
        seqA [eff fun s => .treeTab (tileKey r) ((s.treeTab (tileKey r)).map fun x =>
            if x.tree == tree.toNat && x.part == part.val then { x with mask := x.mask.filter fun q => q != p } else x),
          cutBranch r p (fun k => k.mc && k.tree == tree && k.part == part), mcEvent r p part.val tree.toNat] s
      else []) s

/-- The unicast packet of a partition that waits at output p of router r: the one on its way, or the first in order of inputs. -/
def State.stalledAt (s : State) (r : TileId) (p : RPort) (part : Fin 64) : Option Offer :=
  let l := (s.offers r).filter fun x => x.o.port == p && !x.c.pkt.mc && x.c.pkt.part == part
  (l.find? fun x => x.o.taken != 0).orElse fun _ => l.head?

/-- R145: a unicast flit waited beyond MC_HOLD_LIMIT: its packet is discarded at the output, recorded with TREE 0xFFFF. -/
def execUnicastHoldExpiry (r : TileId) (p : RPort) (part : Fin 64) (s : State) : Host.Outcome State Fault Refusal :=
  runAct (fun s => seqA [forOpt (s.stalledAt r p part) fun x => cutBranch r p (fun k => k == x.c.pkt), mcEvent r p part.val 0xFFFF] s) s

/-- R144: the scheduler of die d receives MC_HOLD: admission for the job stops, and its passages not DONE that are homed
here are FAULTED. -/
def execMcHold (d : Fin 32) (part : Fin 64) (s : State) : Host.Outcome State Fault Refusal :=
  runAct (fun s =>
    if s.part d.val = part.val then
      seqA [modJob part.val fun j => { j with stopped := true },
        forA ((s.partLive part.val).filter fun i => (s.passage i).home == d.val) fun i => endPassage i 2,
        logOpen (some d.val) 5 (unitDie d.val) part.val (s.job part.val).job 0] s
    else []) s

/-! ## Replacing trees (R146) -/

/-- R146: a leaf answers a MARKER of an old tree. -/
def execMarker (t : TileId) (tree : BitVec 16) (part : Fin 64) (s : State) : Host.Outcome State Fault Refusal :=
  runAct (emit (.ctl "MARKER_ACK" t.d.val part.val tree.toNat (packTile t))) s

end Sys2Proof.Machine
end

