-- ==== Sys2Proof/Machine/Memory.lean ====
section
/-!
DEFINITION. Stack memory and the stream cache (R258–R285): the granule check, the lines a slice holds, misses and
fills, prefetching, windows, scrub.
-/
namespace Sys2Proof.Machine

/-! ## Flushes and checks -/

/-- Write back the dirty lines of die d that satisfy `p`, and drop every line that does. -/
def flushDie (d : Nat) (p : Nat → Bool) : Act := fun s =>
  let gone := ((s.die d).cache.flatMap fun e => e.2).filter fun c => p c.line
  seqA [forA (gone.filter CLine.dirty) fun c => writeBack d c.line,
    forA ((gone.map fun c => setKey c.line).dedup) fun k => modDie d fun x =>
      x.putSet k ((x.set k).filter fun c => !p c.line)] s

/-- R260: a refused request is counted and recorded in STK_VIOL of the checking die, and logged. -/
def stkViol (d part addr : Nat) : Act :=
  seqA [bump F.STK_VIOL_COUNT d 1, setF F.STK_VIOL_PART d part, setF F.STK_VIOL_GRANULE d (addr / 2 ^ 30),
    logEv (some d) 8 2 2 (unitDie d) part 0 0
      (leBytes 2 (addr / 2 ^ 30 % 2048) ++ leBytes 1 part ++ leBytes 5 0 ++ leBytes 8 addr)]

/-- The length of a request. -/
def reqLen : ReqOp → Nat
  | .read n => n
  | .write bs => bs.length

/-- A request cut at line boundaries: each piece's address and operation. -/
def splitReq (addr : Nat) (op : ReqOp) : List (Nat × ReqOp) :=
  let n := reqLen op
  (List.range ((addr + n + 255) / 256 - addr / 256)).map fun i =>
    let a := max addr ((addr / 256 + i) * 256)
    let e := min (addr + n) ((addr / 256 + i + 1) * 256)
    (a, match op with
      | .read _ => .read (e - a)
      | .write bs => .write ((bs.drop (a - addr)).take (e - a)))

/-! ## Requests (R269, R270, R281) -/

/-- R283: a dirty line is lost with its way on die d: the jobs that own a window there stop, their passages end with CHECKER.
DEDUCED (log entry 63): this stop sends no ABORT and sets no BFP_JSTOP, which R406 gives to its own causes. -/
def cacheStop (d : Nat) : Act := fun s =>
  forA ((List.range 16).filter fun p => (s.job p).regions.any fun r => (s.winOf (r.base / 256)).any fun i => (s.win i).owner == d) (fun p =>
    seqA [modJob p fun j => { j with stopped := true }, withA (fun s => s.partLive p) fun l => forA l fun i => endPassage i 9]) s

/-- A line leaves its set without being written back. -/
def dropLine (d line : Nat) : Act := modDie d fun x => x.putSet (setKey line) ((x.set (setKey line)).filter fun c => c.line != line)

/-- R283: what the cache's codes find at an access of a line on die d. -/
def cacheCheck (d line : Nat) : CacheErr → Act
  | .ok => skip
  | .corrected => bump F.STK_SC_ECC_CORR d 1
  | .word w => fun s =>
    match s.hit d line with
    | none => []
    | some c => seqA [bump F.STK_SC_ECC_UNCORR d 1, if c.dirty then badWord (line * 256 + 32 * w.val) false else dropLine d line] s
  | .tag w => fun s =>
    let key := setKey line
    let l := (s.die d).set key
    let n := s.ways d key
    let c := if l.length < n then l[w.val]? else l[w.val % l.length]?
    if n = 0 then []
    else seqA [bump F.STK_SC_ECC_UNCORR d 1, modDie d fun x => { x with badWays := x.badWays ++ [key] },
      forOpt c fun c => seqA [dropLine d c.line, whenA (fun _ => c.dirty) (cacheStop d)]] s

/-- The reply to a read: its bytes, and whether a poisoned word is among them. -/
def reply (d part a n : Nat) : Act := fun s => emit (.stackRsp d part a (s.bytes a n) (s.poisoned a n)) s

/-- A passage whose key-value or activation state holds address a (R189): stage and passage index. -/
def State.regionOf (s : State) (p a : Nat) : Option (Nat × Nat) :=
  ((s.job p).regions.find? fun r => r.stride != 0 && r.base ≤ a && a < r.base + r.len).map fun r =>
    (r.stage, (a - r.base) / r.stride * s.nRep p r.stage + r.rep + ((s.range p).getD (0, 0)).1)

/-- R325: a poisoned word read for a work item ends it, and the stack channel is recorded. -/
def memDataError (d p a : Nat) : Act := fun s =>
  match s.regionOf p a with
  | none => []
  | some (st, i) =>
    seqA [bump F.CHK_DATA_MEM d 1,
      chkReport d ⟨BitVec.ofNat 32 (unitChannel a), 5, 0, st, s.mile, 0, (s.passage i).handle, BitVec.ofNat 32 (a / 32)⟩,
      endPassage i 9] s

/-- A read served from the line: its reply, and the data error a poisoned word brings. -/
def serveRead (d part a n : Nat) : Act := fun s =>
  seqA [reply d part a n, whenA (fun s => s.poisoned a n) (memDataError d part a)] s

/-- One piece of a request, within one line, at its owner slice. -/
def piece1 (d part : Nat) (bulk : Bool) (a : Nat) (op : ReqOp) : Act := fun s =>
  let line := a / 256
  let hold : Act := modDie d fun x => { x with missQ := x.missQ ++ [⟨part, a, bulk, op, false⟩] }
  match s.hit d line with
  | some c =>
    seqA [bump F.STK_SC_CNT_HIT d 1, whenA (fun _ => c.prefetched) (bump F.STK_PF_USE_USED d 1),
      match op with
      | .read n => seqA [touchLine d line fun c => { c with evictFirst := false, prefetched := false }, serveRead d part a n]
      | .write bs => seqA [touchLine d line fun c =>
            { c with evictFirst := false, prefetched := false, dirty := c.dirty || !bulk },
          putStack a bs, whenA (fun _ => bulk) (bumpW F.STK_BW_WR_BYTES (lineDie line) bs.length)],
      whenA (fun _ => !bulk) (trackHit d line)] s
  | none =>
    seqA [bump F.STK_SC_CNT_MISS d 1,
      match op, bulk with
      | .write bs, true => seqA [putStack a bs, bumpW F.STK_BW_WR_BYTES (lineDie line) bs.length]
      | .write bs, false => if bs.length = 256 then seqA [allocLine d ⟨line, true, false, false⟩, putStack a bs] else hold
      | .read _, _ => hold,
      whenA (fun _ => !bulk) (seqA [trackHit d line, trackMiss d line])] s

/-- R424: what a read at a slice does once no host port holds a line of the range in E. -/
def afterRecall (a n : Nat) (act : Act) : Act := fun s => if (s.heldE a n).isEmpty then act s else recallE (s.heldE a n) s

/-- R260, R269, R270: a request of a partition reaches the owner slice on die d. A request wholly in a reserved range
reads zero and writes nothing (R258); one that fails the granule check is refused whole. A slice whose 64 miss-queue entries
are in use takes it later. `err` is what the cache's codes find in the line at `addr` (R283). -/
def execStackRequest (part : Fin 64) (d : Fin 32) (bulk : Bool) (addr : BitVec 48) (op : ReqOp) (err : CacheErr)
    (s : State) : Host.Outcome State Fault Refusal :=
  let a := addr.toNat
  let chk := cacheCheck d.val (a / 256) err
  let zero : Act := match op with
    | .read n => emit (.stackRsp d.val part.val a (List.replicate n 0) false)
    | .write _ => skip
  runAct (fun s =>
    if reqLen op = 0 then []
    else if (0x018000000000 ≤ a ∧ a + reqLen op ≤ 0x020000000000) ∨ 0x020800000000 ≤ a then zero s
    else if s.owns part.val a (reqLen op) = false then seqA [stkViol d.val part.val a, zero] s
    else if (splitReq a op).any (fun x => s.owner x.1 != d.val || decide (64 ≤ s.missUsed d.val (x.1 / 256))) then []
    else match op with
      | .read _ => afterRecall a (reqLen op) (seqA [chk, forA (splitReq a op) fun x => piece1 d.val part.val bulk x.1 x.2]) s
      | .write _ => unitWrite a (reqLen op) (seqA [chk, forA (splitReq a op) fun x => piece1 d.val part.val bulk x.1 x.2]) s) s

/-- A request that waited for a line takes it. -/
def serveHeld (d : Nat) (q : HeldReq) : Act :=
  match q.op with
  | .read n => if q.prefetch then skip else serveRead d q.part q.addr n
  | .write bs => seqA [putStack q.addr bs, touchLine d (q.addr / 256) fun c => { c with dirty := true }]

/-- R273: the line's read has a miss-queue entry: it stands among the first 64 that its slice waits for. DEDUCED (log entry 220): what a
request of many lines asks for past 64 waits for an entry. -/
def State.issued (s : State) (d line : Nat) : Bool :=
  (((s.die d).missQ.filter fun q => setKey (q.addr / 256) % 16 == setKey line % 16).take 64).any fun q => q.addr / 256 == line

/-- R270: the stack returns a line: its words' codes are dealt with, the line is allocated where the traffic that waits
allocates and the slice does not hold it yet, and the waiting requests are served. -/
def execLineFill (d : Fin 32) (addr : BitVec 48) (ecc : List Ecc) (s : State) : Host.Outcome State Fault Refusal :=
  let line := addr.toNat / 256
  runAct (fun s =>
    let qs := (s.die d.val).missQ.filter fun q => q.addr / 256 == line
    if qs.isEmpty ∨ s.issued d.val line = false then []
    else
      let act := qs.any fun q => !q.bulk
      let pf := qs.all fun q => q.prefetch
      seqA [bumpW F.STK_BW_RD_BYTES (lineDie line) 256,
        lineWords line ecc,
        modDie d.val fun x => { x with missQ := x.missQ.filter fun q => q.addr / 256 != line },
        whenA (fun s => act && (s.hit d.val line).isNone) (allocLine d.val ⟨line, false, pf, pf⟩),
        forA qs (serveHeld d.val), issueWaiting d.val] s) s

/-- R272: a hint asks for a passage's lines, which its sender has cut to PAS_MAX KiB; PAS_MAX 0 here takes none. -/
def execPrefetchHint (d : Fin 32) (addr : BitVec 48) (bytes : Nat) (s : State) : Host.Outcome State Fault Refusal :=
  runAct (fun s =>
    let n := bytes
    let a := addr.toNat
    if n = 0 ∨ s.fld F.STK_PF_CTL_PAS_MAX d.val = 0 then []
    else forA (((List.range ((a + n + 255) / 256 - a / 256)).map fun i => a / 256 + i).filter fun l =>
      s.owner (l * 256) == d.val) (prefetch d.val) s) s

/-- R273: a prefetch that waited 1,024 NOC cycles is dropped. -/
def execPrefetchDrop (d : Fin 32) (addr : BitVec 48) (s : State) : Host.Outcome State Fault Refusal :=
  runAct (fun s =>
    if (s.die d.val).pfQ.contains (addr.toNat / 256) then
      seqA [modDie d.val fun x => { x with pfQ := x.pfQ.filter fun l => l != addr.toNat / 256 },
        bump F.STK_PF_CNT_DROPPED d.val 1] s
    else []) s

/-- R271: a tracker without a demand access for 4,096 NOC cycles is released. -/
def execTrackerRelease (d : Fin 32) (k : Fin 64) (s : State) : Host.Outcome State Fault Refusal :=
  runAct (modDie d.val fun x => { x with trackers := x.trackers.filter fun t => t.slot != k.val }) s

/-! ## Windows (R265–R267) -/

/-- R267: entry i of the window table becomes `w`: every line of the old and the new window is written back and dropped
where it is held, and the host copies known at the old owner become known at the new one. Reads of those lines that the old owner waits
for go on to the new one; its prefetches of them end. -/
def windowChange (i : Nat) (w : Win) : Act := fun s =>
  let o := s.win i
  let inside := fun (x : Win) (l : Nat) => x.valid && x.base ≤ l / 16 && l / 16 ≤ x.limit
  let p := fun l => inside o l || inside w l
  let move := fun (e : SfEnt) => p (e.line / 4)
  let ents := allDies.flatMap fun d => (s.filter d).filter move
  let held := allDies.flatMap fun d => (s.die d).missQ.filter fun q => p (q.addr / 256) && !q.prefetch
  seqA [forA allDies fun d => flushDie d p,
    forA allDies fun d => whenA (fun s => (s.filter d).any move) (modFilter d fun f => f.filter fun e => !move e),
    forA allDies fun d => whenA (fun s => (s.die d).missQ.any (fun q => p (q.addr / 256)) || (s.die d).pfQ.any p) (modDie d fun x => { x with
      missQ := x.missQ.filter fun q => !p (q.addr / 256)
      pfQ := x.pfQ.filter fun l => !p l }),
    eff fun _ => .win i w,
    forA held fun q => fun s => modDie (s.owner q.addr) (fun x => { x with missQ := x.missQ ++ [q] }) s,
    forA ents fun e => fun s => modFilter (s.owner (e.line * 64)) (fun f => f ++ [e]) s] s

/-- R267: a window is added, given a new owner or removed. Windows never overlap (R265): one that would is not taken. -/
def execWindowOwnerChange (i : Fin 256) (base limit : BitVec 36) (owner : Option (Fin 32)) (s : State) :
    Host.Outcome State Fault Refusal :=
  runAct (fun s =>
    match owner with
    | none => windowChange i.val Win.zero s
    | some d =>
      let clash := (List.range 256).any fun j => j != i.val && (s.win j).valid &&
        (s.win j).base ≤ limit.toNat && base.toNat ≤ (s.win j).limit
      if clash ∨ limit.toNat < base.toNat then [] else windowChange i.val ⟨true, base.toNat, limit.toNat, d.val⟩ s) s

/-! ## Scrub and counters (R282, R285) -/

/-- R282: a scrub pass of stack n ends, in P0 or P1: it meets the words it finds bad, and those that hold the poison mark. -/
def execScrubPass (n : Fin 12) (corrected : Nat) (uncorr : List (BitVec 48)) (s : State) :
    Host.Outcome State Fault Refusal :=
  let d := dieOfStack n.val
  runAct (fun s =>
    if 2 ≤ s.pstate then []
    else seqA [bump F.STK_ECC_CNT_CORR d corrected,
      forA ((uncorr.filter fun a => a.toNat / 2 ^ 37 == n.val && !s.poison.contains (a.toNat / 32 * 32)).map fun a => a.toNat / 32 * 32).dedup (fun a =>
        fillWord a .uncorrectable true),
      forA (s.poison.filter fun a => a / 2 ^ 37 == n.val) fun a => fillWord a .ok true,
      bump F.STK_SCRUB_PASSES d 1] s) s

/-- R285: a write of STK_CLR. -/
def hostStkCntClear (src : Src) (d : Fin 32) (v : Word) : Act := fun s =>
  (guardW src .stk d.val 0x418 (whenA (fun _ => bitsOf v 0 0 == 1)
    (forA [0x128, 0x130, 0x200, 0x208, 0x218, 0x220, 0x408, 0x410] fun o => setReg .stk d.val o 0))) s

/-- StkCntClear: the command of its row. -/
def execStkCntClear (src : Src) (d : Fin 32) (v : Word) (s : State) : Host.Outcome State Fault Refusal :=
  runAct (hostStkCntClear src d v) s

end Sys2Proof.Machine
end

