-- ==== Sys2Proof/Machine/Placement.lean ====
section
/-!
DEFINITION. The Billeter's decisions (R173–R192, R391): usable tiles and capacity, the five passes, dies, tiles, routes
and trees, regions and shadows.
-/
namespace Sys2Proof.Machine

/-! ## Usable tiles and capacity (R175–R177) -/

namespace State
variable (s : State)

/-- A tile is usable: it passed its self-test and is not retired. -/
def usable (t : TileId) : Bool := !(s.die t.d.val).unusable.contains t && !(s.tsum t).retired

/-- A tile holds a logical array of some partition's job. -/
def boundTile (t : TileId) : Bool := (List.range 16).any fun p =>
  (s.job p).reps.any (fun r => r.tiles.contains t) || (s.job p).swap.any fun w => w.copies.any fun r => r.tiles.contains t

/-- The tiles of die d that are usable and not forbidden. -/
def canBind (d : Nat) : List TileId :=
  (dieTiles (fin32 d)).filter fun t => s.usable t && !(s.die d).forbid.contains t

/-- A mesh link of the die is down: it does not bind again before its self-test (R148). -/
def meshBroken (d : Nat) : Bool := s.links.any fun k => k.1 / 8 / 8448 == d && k.2.down &&
  (gateNo (tileOf d (k.1 / 8 % 128) (k.1 / 8 % 8448 / 128)) (edgePort (k.1 % 8))).isNone

/-- The capacity of a die for a bind, before BIL_POL.RSV (R176). -/
def capacityOf (d : Nat) : Nat := if s.meshBroken d then 0 else min 4096 (s.canBind d).length

/-- Bound tiles of a die. -/
def boundOn (d : Nat) : Nat := (dieTiles (fin32 d)).countP s.boundTile

/-- The spares of a die (R176). -/
def spares (d : Nat) : Nat :=
  min ((s.canBind d).countP fun t => !s.boundTile t) ((s.canBind d).length - 4096)

/-- R177: a tile is hot. -/
def hot (t : TileId) : Bool :=
  let throt := max 70 (min 95 (s.fld F.THM_CFG_THROT 0))
  decide (((throt : Int) - max 1 (s.fld F.THM_CFG_NEAR 0)) * 100 ≤ s.temp t.d.val (nearSns t))

/-- R184: the cost of a tile without its distance term, under the weights of BIL_COST as word `w`. -/
def costOf (w : Word) (t : TileId) : Nat :=
  let m := s.tsum t
  let q := (s.calr t).qf
  let n := (m.arrT ++ m.chkT ++ m.digT).countP fun x => x != 0 && s.nvm.pos ≤ x + 86400
  F.BIL_COST_W_TEMP.of w * (max 0 (s.temp t.d.val (nearSns t) / 100 - 40)).toNat +
    F.BIL_COST_W_WEAR.of w * (m.rewrites / 1000) + F.BIL_COST_W_QF.of w * (if q = 0xFF then 64 else q) +
    F.BIL_COST_W_CHK.of w * n

end State

/-- The element of least key, the first on a tie. -/
def leastKey {α : Type} (key : α → Nat × Nat × Nat × Nat) : List α → Option α
  | [] => none
  | x :: r => some (r.foldl (fun b y => if keyLe (key b) (key y) then b else y) x)

/-- Mesh and die-edge hops of a route from tile a, by the crossings given, to tile t (R136). -/
def hopsVia : List (Nat × RPort) → TileId → TileId → Nat
  | [], a, t => meshHops a t
  | (d, e) :: r, a, t =>
    let g := gateway d e (if e = .e ∨ e = .w then min (t.y.val / 8) 7 else t.x.val / 8)
    meshHops a g + 1 + hopsVia r ((across g e).getD g) t
def hops (a t : TileId) : Nat := hopsVia (dieRoute false 10 a.d.val t.d.val) a t

/-- R184: what the costs of partition p's tiles are reckoned from, as it is now. -/
def State.costIn (s : State) (p : Nat) : CostIn :=
  let d := (s.partDies p).headD 0
  ⟨s.reg .bil d 0x220, s.reg .bil d 0x218, s.sensors, s.nvm.tsum, s.nvm.calr, s.nvm.pos⟩

/-- The state as costs see it: with the inputs read at the start of the bind or rebind. -/
def State.seenBy (s : State) (c : CostIn) : State :=
  { s with sensors := c.sensors, nvm := { s.nvm with tsum := c.tsum, calr := c.calr, pos := c.pos } }

/-- R183: the free tile of lowest cost, hot tiles only where no other has room; `ref` is what distance is taken from, if
anything. -/
def State.pickTile (s : State) (c : CostIn) (ref : Option TileId) (l : List TileId) : Option TileId :=
  leastKey (fun t => ((if (s.seenBy c).hot t then 1 else 0), (s.seenBy c).costOf c.cost t + (match ref with
    | some a => F.BIL_COST_W_DIST.of c.cost * hops t a
    | none => 0), t.y.val, t.x.val)) l

/-- R183: on a die that continues a replica, the anchor: the free tile nearest the gateway toward its first die. -/
def State.pickNear (s : State) (c : CostIn) (g : TileId) (l : List TileId) : Option TileId :=
  leastKey (fun t => ((if (s.seenBy c).hot t then 1 else 0), meshHops t g, t.y.val, t.x.val)) l

/-! ## The passes (R178–R182) -/

/-- A replica placed by the passes: its stage, the rank of its part, the pass, its share of each die, first die first,
and whether it has its NEAR hint honoured. -/
structure Placed where
  stage : Nat
  rank : Nat
  pass : Nat
  shares : List (Nat × Nat)
  hint : Bool
  deriving DecidableEq, Repr

/-- What the passes keep: free capacity by rank and die, replicas placed, stages on the slower tier, notes, and the
failure that ended them, if one did. -/
structure Passes where
  free : List (List (Nat × Nat))
  placed : List Placed
  tier : List Nat
  notes : List Note
  fail : Option Note
  deriving DecidableEq, Repr

/-- The replicas of a stage placed so far. -/
def Passes.of (q : Passes) (i : Nat) : List Placed := q.placed.filter fun x => x.stage == i

/-- R159, R181: the dies of a part that a stage may use, with the capacity free beyond `rsv`. -/
def allowed (st : Stage) (rsv : Nat) (l : List (Nat × Nat)) : List (Nat × Nat) :=
  (l.zipIdx.filter fun x => nbit st.dies x.2).map fun x => (x.1.1, x.1.2 - rsv)

/-- Free capacity of a list of dies. -/
def roomOf (l : List (Nat × Nat)) : Nat := (l.map Prod.snd).sum

/-- Take n arrays from dies in order. -/
def takeRoom : Nat → List (Nat × Nat) → List (Nat × Nat)
  | _, [] => []
  | n, (d, k) :: r => if n = 0 then [] else if k = 0 then takeRoom n r else (d, min n k) :: takeRoom (n - min n k) r

/-- R180–R182: a place for one more replica of stage i, if one fits. -/
def findPlace (q : Passes) (i : Nat) (st : Stage) (rsv pass : Nat) : Option Placed :=
  let n := st.nArr
  let ok := q.free.zipIdx.filter fun x =>
    (st.rank == 0xFFFF || st.rank == x.2) && decide (n ≤ roomOf (allowed st rsv x.1))
  let part := leastKey (fun x => ((if (q.of i).any (fun y => y.rank == x.2) then 1 else 0),
    2 ^ 32 - roomOf (x.1.map fun y => (y.1, y.2 - rsv)), x.2, 0)) ok
  part.bind fun x =>
    let dies := allowed st rsv x.1
    let near := if st.near = 0xFFFF ∨ st.near = i then [] else (q.of st.near).filter fun y => y.rank == x.2
    let tgt := near[(q.of i).length % near.length]?.bind fun y => y.shares.head?.map Prod.fst
    let held := fun d => (q.of i).any fun y => y.rank == x.2 && y.shares.any fun z => z.1 == d
    let first := leastKey (fun z => ((if held z.1 then 1 else 0), tgt.elim 0 (dieHops z.1), 2 ^ 32 - z.2, z.1))
      (dies.filter fun z => z.2 != 0)
    first.map fun f =>
      let rest := sortKey (fun z => (dieHops f.1 z.1, z.1, 0, 0)) (dies.filter fun z => z.1 != f.1)
      ⟨i, x.2, pass, takeRoom n (f :: rest), tgt == some f.1⟩

/-- A replica placed: its shares leave the free capacity. -/
def Passes.put (q : Passes) (x : Placed) : Passes :=
  { q with
    placed := q.placed ++ [x]
    free := q.free.zipIdx.map fun l => if l.2 = x.rank then
      l.1.map (fun d => (d.1, d.2 - ((x.shares.find? fun z => z.1 == d.1).map Prod.snd).getD 0)) else l.1 }

/-- k more replicas of a stage, all or none. -/
def placeAll (i : Nat) (st : Stage) (rsv pass : Nat) : Nat → Passes → Option Passes
  | 0, q => some q
  | k + 1, q => (findPlace q i st rsv pass).bind fun x => placeAll i st rsv pass k (q.put x)

/-- As many as k more replicas of a stage. -/
def placeUpTo (i : Nat) (st : Stage) (rsv pass : Nat) : Nat → Passes → Passes
  | 0, q => q
  | k + 1, q => match findPlace q i st rsv pass with
    | some x => placeUpTo i st rsv pass k (q.put x)
    | none => q

/-- R180, R181, R201: why MIN_REP replicas of a REQUIRED stage do not fit. DEDUCED (log entry 20): PIN where the dies or
the rank the stage is restricted to are what fails, else NO_ROOM with the arrays missing. -/
def whyNot (q : Passes) (i : Nat) (st : Stage) : Note :=
  let need := st.nArr * st.minRep
  let all := (q.free.map roomOf).sum
  let narrow := q.free.any fun l => decide (roomOf (allowed st 0 l) < roomOf l)
  if q.free.all fun l => decide (roomOf l < st.nArr) && q.placed.isEmpty then ⟨2, i, st.nArr⟩
  else if st.rank ≠ 0xFFFF then ⟨3, i, 1⟩
  else if narrow ∧ need ≤ all then ⟨3, i, 0⟩
  else ⟨1, i, need - all⟩

/-- R181: a stage pinned to one die of a part of n dies. -/
def diePin (st : Stage) (n : Nat) : Bool := (List.range n).countP (nbit st.dies) == 1

/-- One stage in pass 1 or 2. A pin that cannot be honoured fails the bind whatever the stage's class (R181). -/
def placeStage (caps : Nat) (q : Passes) (x : Nat × Stage) : Passes :=
  let i := x.1
  let st := x.2
  let tier := { q with tier := q.tier ++ [i] }
  if q.fail.isSome then q
  else if st.cls = 2 ∨ (st.cls = 1 ∧ q.tier.length ≠ 0) then tier
  else if caps < st.nArr then { q with fail := some ⟨2, i, st.nArr⟩ }
  else match placeAll i st 0 (if st.cls = 0 then 1 else 2) st.minRep q with
    | some r => r
    | none =>
      if st.cls = 0 then { q with fail := some (whyNot q i st) }
      else if st.rank ≠ 0xFFFF then { q with fail := some ⟨3, i, 1⟩ }
      else if q.free.all fun l => diePin st l.length then { q with fail := some ⟨3, i, 0⟩ }
      else tier

/-- R178: passes 1 and 2 over the stages with arrays, by PRIO; TIER stages join the slower tier after. -/
def pass12 (q : Passes) (l : List (Nat × Stage)) : Passes :=
  let caps := (q.free.map roomOf).foldl max 0
  let a := (l.filter fun x => x.2.cls == 0).foldl (placeStage caps) q
  let b := (l.filter fun x => x.2.cls == 1).foldl (placeStage caps) a
  let t := (l.filter fun x => x.2.cls == 2).map Prod.fst
  { b with tier := ((l.map Prod.fst).filter fun i => b.tier.contains i || t.contains i) }

/-- R179: ARITH cycles a work item takes an array, and the replicas a target asks for. -/
def itemCycles (fmt x : Nat) : Nat := 16 * planesOf fmt (if fmt = 1 then 0 else x) + (if fmt = 2 then 128 else 0)
def wantReps (st : Stage) (cyc util : Nat) : Nat :=
  let den := 5 * max 1 util * 10 ^ 6
  min st.maxRep (max st.minRep ((st.rate * cyc * 2 * 256 + den - 1) / den))

/-- R178: pass 3. -/
def pass3 (rsv util : Nat) (cyc : Nat → Nat) (q : Passes) (l : List (Nat × Stage)) : Passes :=
  (l.filter fun x => x.2.rate != 0 && !(q.of x.1).isEmpty).foldl (fun r x =>
    let want := wantReps x.2 (cyc x.1) util
    let r' := placeUpTo x.1 x.2 rsv 3 (want - (r.of x.1).length) r
    if (r'.of x.1).length < want then { r' with notes := r'.notes ++ [⟨0x101, x.1, (r'.of x.1).length⟩] } else r') q

/-- One class of pass 4: one more replica of each of its stages, or none. -/
def placeClass (rsv : Nat) : List (Nat × Stage) → Passes → Option Passes
  | [], q => some q
  | x :: r, q => (findPlace q x.1 x.2 rsv 4).bind fun y => placeClass rsv r (q.put y)

/-- R178: a round of pass 4 over the PRIO values: the state, whether it placed anything, and whether the pass ends. -/
def round4 (rsv : Nat) (l : List (Nat × Stage)) (q : Passes) (vs : List Nat) : Passes × Bool × Bool :=
  vs.foldl (fun a v =>
    let c := l.filter fun x => x.2.prio == v && !(a.1.of x.1).isEmpty && decide ((a.1.of x.1).length < x.2.maxRep)
    if a.2.2 ∨ c.isEmpty = true then a
    else match placeClass rsv c a.1 with
      | some q' => (q', true, false)
      | none => (a.1, a.2.1, true)) (q, false, false)

/-- R178: pass 4; MAX_REP is at most 255, so at most 255 rounds place something. -/
def pass4 (rsv : Nat) (l : List (Nat × Stage)) (vs : List Nat) : Nat → Passes → Passes
  | 0, q => q
  | n + 1, q =>
    let r := round4 rsv l q vs
    if r.2.2 ∨ r.2.1 = false then r.1 else pass4 rsv l vs n r.1

/-- R178: passes 1–4 over the stages of an image with the capacities of the slice's parts; a RANK beyond the slice fails the bind
first (R181). -/
def runPasses (free : List (List (Nat × Nat))) (stages : List Stage) (cyc : Nat → Nat) (rsv util : Nat) : Passes :=
  let l := sortKey (fun x => (x.2.prio, x.1, 0, 0)) ((stages.zipIdx.filter fun x => x.1.nArr != 0).map fun x => (x.2, x.1))
  let far := l.find? fun x => x.2.rank != 0xFFFF && decide (free.length ≤ x.2.rank)
  let a := pass12 ⟨free, [], [], [], far.map fun x => ⟨3, x.1, 1⟩⟩ l
  if a.fail.isSome then a
  else
    let b := pass4 rsv l (l.map fun x => x.2.prio).dedup 256 (pass3 rsv util cyc a l)
    { b with notes := b.notes ++ (l.filter fun x => x.2.near != 0xFFFF && !(b.of x.1).isEmpty &&
        !((b.of x.1).all Placed.hint)).map (fun x => ⟨0x100, x.1, 0⟩) }

/-! ## Tiles (R183) -/

/-- n tiles of a die's free list, each of lowest cost from the anchor `a`: the tiles and what is left. -/
def bindShare (s : State) (w : CostIn) (a : TileId) : Nat → List TileId → List TileId × List TileId
  | 0, l => ([], l)
  | n + 1, l =>
    match s.pickTile w (some a) l with
    | none => ([], l)
    | some t =>
      let r := bindShare s w a n (l.filter fun x => x != t)
      (t :: r.1, r.2)

/-- The gateway of die d toward die `to`, on the route to tile t (R136). -/
def towardGate (d : Nat) (t : TileId) : TileId :=
  match nextEdge false d t.d.val with
  | .l => t
  | e => gateway d e (if e = .e ∨ e = .w then min (t.y.val / 8) 7 else t.x.val / 8)

/-- One replica's share of each of its dies: the tiles in order of a, and the free tiles left by die. -/
def bindShares (s : State) (w : CostIn) : Option TileId → List (Nat × Nat) → List TileId → List TileId × List TileId
  | _, [], free => ([], free)
  | anchor, (d, n) :: r, free =>
    let here := free.filter fun t => t.d.val == d
    let a := match anchor with
      | none => s.pickTile w none here
      | some t => s.pickNear w (towardGate d t) here
    match a with
    | none => ([], free)
    | some a =>
      let x := bindShare s w a (n - 1) (here.filter fun t => t != a)
      let y := bindShares s w (some (anchor.getD a)) r ((free.filter fun t => t.d.val != d) ++ x.2)
      (a :: x.1 ++ y.1, y.2)

/-- The replicas of this part, bound in the order they were placed; replica numbers count over the slice. -/
def bindReps (s : State) (w : CostIn) (rank epoch : Nat) (all : List Placed) : List (Placed × Nat) → List TileId → List Replica
  | [], _ => []
  | (x, k) :: r, free =>
    let rep := (all.take k).countP fun y => y.stage == x.stage
    if x.rank = rank then
      let b := bindShares s w none x.shares free
      match b.1 with
      | [] => bindReps s w rank epoch all r free
      | t :: _ => ⟨x.stage, rep, b.1, t, 0, false, epoch⟩ :: bindReps s w rank epoch all r b.2
    else bindReps s w rank epoch all r free

/-! ## The slower tier (R191) -/

/-- Dies of a partition that may run slower-tier stages: its stack-attached dies, else its die nearest a stack in the
partition. -/
def State.tierDies (s : State) (p : Nat) : List Nat :=
  let att := (s.partDies p).filter fun d => (stackOf d).isSome
  if att.isEmpty then
    let st := (List.range 12).filter fun n => (List.range 128).any fun g => s.granPart (n * 128 + g) == p
    let near := fun d => (st.map fun n => dieHops d (dieOfStack n)).foldl min 100
    (leastKey (fun d => (near d, d, 0, 0)) (s.partDies p)).toList
  else att

/-- R191: the next slower-tier stage goes to the die with the fewest weights assigned so far. -/
def assignTier (dies : List Nat) (stages : List Stage) (acc : List (Nat × Nat)) (i : Nat) : List (Nat × Nat) :=
  let w := fun d => ((acc.filter fun x => x.2 == d).map fun x => (stages[x.1]?).elim 0 Stage.nArr).sum
  match leastKey (fun d => (w d, d, 0, 0)) dies with
  | some d => acc ++ [(i, d)]
  | none => acc

/-! ## Routes and trees (R136, R142, R186–R188) -/

/-- The die of a fabric quad (R19), and the quads the map gives a link (R358): a link with more than 6 quads, in two columns
or on dies that are not one or two adjacent rows has none. -/
def quadDie (q : Nat) : Nat := q % 12 / 3 * 8 + (if q < 12 then 0 else 7)
def State.mapQuads (s : State) (n : Nat) : List Nat := (List.range 24).filter fun q =>
  (if q < 16 then bitsOf (s.reg .bfp 0 0x8008) (4 * q + 3) (4 * q)
    else bitsOf (s.reg .bfp 0 0x8010) (4 * (q - 16) + 3) (4 * (q - 16))) == n
def quadsOk (l : List Nat) : Bool :=
  let d := (l.map quadDie).dedup
  l.length ≤ 6 && (l.map fun q => q / 12).dedup.length ≤ 1 && d.all fun x => d.all fun y => x ≤ y + 8
def State.linkQuads (s : State) (n : Nat) : List Nat := if quadsOk (s.mapQuads n) then s.mapQuads n else []
/-- The die of a link's port block, and its router (R359). DESIGN CHOICE (log entry 27): gateway 0 of the outer edge. -/
def State.portDie (s : State) (n : Nat) : Nat := ((s.linkQuads n).head?.map quadDie).getD 0
def State.portRouter (s : State) (n : Nat) : TileId :=
  let d := s.portDie n
  gateway d (if d % 8 = 0 then .w else .e) 0

/-- The links of a list of directions of a slice. -/
def dirLinks (sl : Slice) (ds : List Nat) : List Nat := ds.filterMap fun d => (sl.dirs[d]?.map Prod.fst).filter fun n => n < 12

/-- The placement a bind has reached: the replicas and slower-tier stages of this part, and the replicas of the slice with the ranks that
hold them. -/
structure BindPlan where
  reps : List Replica
  tier : List (Nat × Nat)
  repCount : List Nat
  holders : List (Nat × Nat × Nat)
  deriving DecidableEq, Repr

/-- Replicas of a stage over the slice, at least one. -/
def BindPlan.nRep (q : BindPlan) (k : Nat) : Nat := max 1 (q.repCount.getD k 1)

/-- The die whose tier engine runs replica r of stage k: one that no part holds in arrays (R191, R197). -/
def BindPlan.onTier (q : BindPlan) (k r : Nat) : Option Nat :=
  if q.holders.any fun h => h.1 == k && h.2.1 == r then none else (q.tier.find? fun x => x.1 == k).map Prod.snd

/-- R237: the scheduler of die d as a leaf of every tree into a router or exit replica anchored there. -/
def schedLeaf (st : Stage) (d : Nat) : List Leaf := if st.kind = 1 ∨ st.kind = 2 then [⟨schedRouter d, .l, 1⟩] else []

/-- The leaves of replica r of stage k for input segment `seg`: its tiles that take it, one per output segment (R158), or the tier engine that
runs it. -/
def BindPlan.takers (q : BindPlan) (stages : List Stage) (k r seg : Nat) : List Leaf :=
  match stages[k]?, q.reps.find? (fun x => x.stage == k && x.rep == r), q.onTier k r with
  | some st, some x, _ =>
    (((List.range st.nOut).filterMap fun o => x.tiles[seg / 2 * st.nOut + o]?).map fun t => (⟨t, .l, 0⟩ : Leaf)) ++ schedLeaf st x.anchor.d.val
  | some st, none, some e => ⟨tierRouter e, .l, 5⟩ :: schedLeaf st e
  | _, _, _ => []

/-- R186: the single tile a STAGE route reaches, where its stage has one replica of one such tile on this part. -/
def BindPlan.single (q : BindPlan) (stages : List Stage) (k seg : Nat) : Option TileId :=
  if q.nRep k = 1 then
    match q.takers stages k 0 seg with
    | [⟨t, _, 0⟩] => some t
    | _ => none
  else none

/-- R187: the leaves of the trees of a route entry for segment o, by r: one tree per replica of the destination, or
for a group replica r mod REP of every leaf stage. None for a route in another form, or one that a tile takes in TILE form. -/
def BindPlan.leavesOf (q : BindPlan) (s : State) (a : Nat) (stages : List Stage) (tile : Bool) (o : Nat) (r : RouteDef) :
    Option (List (List Leaf)) :=
  match r.kind with
  | 0 =>
    if tile && (q.single stages r.target (r.dseg + o)).isSome then none
    else some ((List.range (q.nRep r.target)).map fun j => q.takers stages r.target j (r.dseg + o))
  | 1 =>
    let ls := s.groupLeaves a r.target
    let n := (ls.map q.nRep).foldl max 1
    some ((List.range n).map fun j => ls.flatMap fun k => q.takers stages k (j % q.nRep k) (r.dseg + o))
  | _ => none

/-- A source of trees: the router its packets enter at, its stage and replica, whether it is a tile, and the numbers of segments and of
route entries it sends on. -/
structure TreeSrc where
  src : TileId
  stage : Nat
  rep : Nat
  tile : Bool
  outs : List (Nat × TileId)
  routes : List Nat

/-- The port block router at which a collective's result enters the package: that of the slice's first link. -/
def State.collPort (s : State) (p : Nat) : TileId := s.portRouter (((s.slice p).dirs.findSome? fun d => if d.1 < 12 then some d.1 else none).getD 0)

/-- The sources of a stage's trees on this part (R187): the tiles that own its output segments, or the tier engine that runs it; for an exit
the scheduler of the replica's anchor die (R251); for a SOURCE the partition's first scheduler, for a COLLECTIVE the port block. Entry 0 of
a router or exit has no tree (R236). DESIGN CHOICE (log entry 216): the roots of the last two; a SOURCE's replica number is the part's rank. -/
def BindPlan.sources (q : BindPlan) (s : State) (p a rank k : Nat) (st : Stage) : List TreeSrc :=
  let all := List.range (s.routesOf a st).length
  let on := fun (t : TileId) (n : Nat) => (List.range n).map fun o => (o, t)
  let here := sortKey (fun r => (r.rep, 0, 0, 0)) (q.reps.filter fun r => r.stage == k)
  let slow := (List.range (q.nRep k)).filterMap fun r => (q.onTier k r).map fun e => (r, e)
  match st.kind with
  | 0 => (here.map fun r => ⟨r.anchor, k, r.rep, true, (List.range st.nOut).filterMap fun o => (r.tiles[o]?).map fun t => (o, t), all⟩) ++
      slow.map fun r => ⟨tierRouter r.2, k, r.1, true, on (tierRouter r.2) st.nOut, all⟩
  | 2 => (here.map fun r => ⟨r.anchor, k, r.rep, false, on (schedRouter r.anchor.d.val) st.nIn, all.drop 1⟩) ++
      slow.map fun r => ⟨tierRouter r.2, k, r.1, false, on (schedRouter r.2) st.nIn, all.drop 1⟩
  | 3 => [⟨s.collPort p, k, 0, false, on (s.collPort p) st.nOut, all⟩]
  | 5 => [⟨schedRouter ((s.partDies p).headD 0), k, rank, false, on (schedRouter ((s.partDies p).headD 0)) st.nOut, all⟩]
  | _ => []

/-- R246: the entry trees of a replica of an expert stage: one for each input segment, from the scheduler of its anchor die to every tile that
takes the segment. -/
def BindPlan.entryTrees (q : BindPlan) (stages : List Stage) (k : Nat) (st : Stage) : List TreeFam :=
  if st.expert then (q.reps.filter fun r => r.stage == k).flatMap fun r => (List.range st.nIn).map fun o =>
    ⟨schedRouter r.anchor.d.val, k, r.rep, o, 0xFFFF, 0, false, [q.takers stages k r.rep o]⟩
  else []

/-- A group route travels on the group's VC (R162). -/
def State.routeRed (s : State) (a : Nat) (r : RouteDef) : Bool := r.kind == 1 && s.groupRed a r.target

/-- R187: the tree families of a plan, with TREE numbers given in ascending stage, replica, segment and route order from `first` on. -/
def BindPlan.trees (q : BindPlan) (s : State) (p a rank : Nat) (stages : List Stage) (first : Nat) : List TreeFam :=
  let raw := stages.zipIdx.flatMap fun x => ((q.sources s p a rank x.2 x.1).flatMap fun c => c.outs.flatMap fun o => c.routes.filterMap fun i =>
      ((s.routesOf a x.1)[i]?).bind fun r => (q.leavesOf s a stages c.tile o.1 r).map fun l =>
        TreeFam.mk o.2 x.2 c.rep o.1 i 0 (s.routeRed a r) l) ++ q.entryTrees stages x.2 x.1
  ((sortKey (fun f => (f.stage, f.rep, f.out, f.route)) raw).foldl (fun acc f =>
    (acc.1 ++ [{ f with base := acc.2 }], acc.2 + f.leaves.length)) ([], first)).1

/-- The route from a source to a leaf: that to its router, and out by its port (R136). -/
def State.leafRoute (s : State) (a : TileId) (l : Leaf) : List (TileId × RPort) :=
  (s.route a l.t).map fun h => if h.2 = .l then (h.1, l.port) else h

/-- Add a branch of a tree to a router's entries. -/
def addBranch (part : Nat) (tab : SMap (List TreeEnt)) (x : Nat × TileId × RPort) : SMap (List TreeEnt) :=
  let k := tileKey x.2.1
  let l := SMap.get (fun _ => []) tab k
  let new := if l.any fun e => e.tree == x.1 && e.part == part then
      l.map (fun e => if e.tree == x.1 && e.part == part && !e.mask.contains x.2.2 then { e with mask := e.mask ++ [x.2.2] } else e)
    else l ++ [⟨x.1, part, [x.2.2]⟩]
  SMap.set (fun _ => []) tab k new

/-- R142: the branches of a list of tree families: the union of the routes from source to leaves. -/
def branches (s : State) (fs : List TreeFam) : List (Nat × TileId × RPort) :=
  fs.flatMap fun f => f.leaves.zipIdx.flatMap fun l => l.1.flatMap fun t =>
    (s.leafRoute f.src t).map fun h => ((f.base + l.2) % 65536, h.1, h.2)

/-- The router tables with a plan's trees added. -/
def treeTable (s : State) (part : Nat) (fs : List TreeFam) : SMap (List TreeEnt) :=
  (branches s fs).foldl (addBranch part) s.trees

/-- R188: a router with more than 480 entries. -/
def overfull (t : SMap (List TreeEnt)) : Option Nat := (t.find? fun e => decide (480 < e.2.length)).map Prod.fst

/-! ## Regions (R189, R190, R192, R266) -/

/-- The stack memory a partition owns, as intervals of one stack each. -/
def State.partSpace (s : State) (p : Nat) : List (Nat × Nat) :=
  (List.range 1536).foldl (fun l g =>
    if s.granPart g != p then l
    else match l.getLast? with
      | some i => if i.2 = g * 2 ^ 30 ∧ g % 128 ≠ 0 then l.dropLast ++ [(i.1, (g + 1) * 2 ^ 30)] else l ++ [(g * 2 ^ 30, (g + 1) * 2 ^ 30)]
      | none => [(g * 2 ^ 30, (g + 1) * 2 ^ 30)]) []

/-- Intervals without [a, a+n). -/
def cutSpace (l : List (Nat × Nat)) (a n : Nat) : List (Nat × Nat) :=
  l.flatMap fun i =>
    if n = 0 ∨ i.2 ≤ a ∨ a + n ≤ i.1 then [i]
    else (if i.1 < a then [(i.1, a)] else []) ++ (if a + n < i.2 then [(a + n, i.2)] else [])

/-- What host software holds in a partition's stack regions: image, report, Passage Table, rings, as (address, length). -/
def State.hostAreas (s : State) (p : Nat) : List (Nat × Nat) :=
  let d := (s.partDies p).headD 0
  let n := (s.range p).elim 0 fun r => r.2 + 1 - r.1
  [((s.job p).addr, (s.job p).len), (s.fld F.BIL_RPT_ADDR_ADDR d * 64, s.fld F.BIL_RPT_LEN_LEN d)] ++
    (if s.flag F.PAS_PT_BASE_VALID d then [(s.fld F.PAS_PT_BASE_ADDR d * 4096, n * 128)] else []) ++
    (s.partDies p).flatMap fun e =>
      (if s.flag F.PAS_ARING_BASE_EN e then [(s.aringBase e, 64 * 2 ^ s.fld F.PAS_ARING_BASE_LOG2 e)] else []) ++
      (if s.flag F.PAS_CRING_BASE_EN e then [(s.cringBase e, 32 * 2 ^ s.fld F.PAS_CRING_BASE_LOG2 e)] else [])

/-- R189: the fewest hops from a router to an attach point of a stack (R263). -/
def stackHops (t : TileId) (n : Nat) : Nat :=
  ((List.range 16).map fun j => hops t (attachPoint (dieOfStack n) j)).foldl min 100000

/-- R189, R266: `size` bytes on the stack nearest `t` with room, on a 4 KiB boundary. DESIGN CHOICE (log entry 21): the
lowest address that fits. -/
def State.allocNear (s : State) (space : List (Nat × Nat)) (t : TileId) (size : Nat) : Option (Nat × List (Nat × Nat)) :=
  let fit := space.filter fun i => decide ((i.1 + 4095) / 4096 * 4096 + size ≤ i.2)
  (leastKey (fun i => (stackHops t (i.1 / 2 ^ 37), i.1 / 2 ^ 37, i.1, 0)) fit).map fun i =>
    let a := (i.1 + 4095) / 4096 * 4096
    (a, cutSpace space a size)

/-- What a bind asks memory for. -/
inductive Ask where
  | region (stage rep : Nat) (kv : Bool) (len stride : Nat)
  | shadow (stage n : Nat)
  deriving DecidableEq, Repr

/-- The bytes of a request for memory. -/
def askSize : Ask → Nat
  | .region _ _ _ len _ => len
  | .shadow _ n => n * 263232

/-- The regions and shadows a bind needs, with the tile each lies near (R189–R191). -/
def BindPlan.asks (q : BindPlan) (stages : List Stage) (npas : Nat) : List (Ask × TileId) :=
  (stages.zipIdx.filter fun x => x.1.nArr != 0).flatMap fun x =>
    let st := x.1
    let i := x.2
    let rs : List Replica := q.reps.filter fun r => r.stage == i
    let per := (npas + q.nRep i - 1) / q.nRep i
    let at_ : List (Nat × TileId) := match q.tier.find? fun e => e.1 == i with
      | some e => [(0, tierRouter e.2)]
      | none => rs.map fun r => (r.rep, r.anchor)
    (match at_ with
      | [] => []
      | a :: _ => [(Ask.shadow i st.nArr, a.2)]) ++
    at_.flatMap fun a =>
      (if st.kv then [(Ask.region i a.1 true (st.kvBytes * per) st.kvBytes, a.2)] else []) ++
      (if st.actBytes ≠ 0 then [(Ask.region i a.1 false (st.actBytes * per) st.actBytes, a.2)] else [])

/-- Memory for a list of requests: what was given, what is left, and the bytes missing. -/
def giveMem (s : State) (space : List (Nat × Nat)) (l : List (Ask × TileId)) : List (Ask × Nat) × List (Nat × Nat) × Nat :=
  l.foldl (fun acc x =>
    match s.allocNear acc.2.1 x.2 (askSize x.1) with
    | some g => (acc.1 ++ [(x.1, g.1)], g.2, acc.2.2)
    | none => (acc.1, acc.2.1, acc.2.2 + askSize x.1)) ([], space, 0)

/-! ## Collectives at bind (R391) -/

/-- The ranks that hold a replica of a stage. -/
def Passes.ranksOf (q : Passes) (k : Nat) : List Nat := ((q.of k).map Placed.rank).dedup

/-- Slice coordinates of a rank, counted X first. DEDUCED (log entry 22): ranks run as slice coordinates do. -/
def rankCoord (size : Nat × Nat × Nat) (r : Nat) : Nat × Nat × Nat :=
  (r % size.1, r / size.1 % size.2.1, r / size.1 / size.2.1)

/-- A list of coordinates fills a box. -/
def isBox (l : List (Nat × Nat × Nat)) : Bool :=
  let ext := fun (f : Nat × Nat × Nat → Nat) => (l.map f).foldl max 0 + 1 - (l.map f).foldl min 100
  l.length == ext (fun c => c.1) * ext (fun c => c.2.1) * ext fun c => c.2.2

/-- Sources and destinations of collective stage k (R391). -/
def State.collSources (s : State) (a : Nat) (stages : List Stage) (k : Nat) : List Nat :=
  (stages.zipIdx.filter fun x => (s.routesOf a x.1).any fun r => r.kind == 5 && r.target == k).map Prod.snd
def State.collDests (s : State) (a : Nat) (st : Stage) : List Nat :=
  (s.routesOf a st).flatMap fun r => if r.kind = 0 then [r.target] else if r.kind = 1 then s.groupLeaves a r.target else []

/-- R391: the kind of a collective, 0 ALL_REDUCE, 1 ALL_GATHER, 2 BROADCAST; none where it fits no row. -/
def State.collKind (s : State) (a : Nat) (q : Passes) (stages : List Stage) (k : Nat) (st : Stage) : Option Nat :=
  let src := ((s.collSources a stages k).flatMap q.ranksOf).dedup
  let all := (src ++ (s.collDests a st).flatMap q.ranksOf).dedup
  let r := s.recipeAt a st.rcp
  if r.inFmt = 9 then (if st.nOut = st.nIn then some 0 else none)
  else if r.inFmt ≠ r.outFmt then none
  else if src.length = all.length ∧ st.nOut = st.nIn * all.length then some 1
  else if src.length = 1 ∧ st.nOut = st.nIn then some 2
  else none

/-- R391: the first collective stage that fits no kind or whose participants form no box. -/
def State.collBad (s : State) (a : Nat) (q : Passes) (stages : List Stage) (size : Nat × Nat × Nat) : Option Nat :=
  ((stages.zipIdx.filter fun x => x.1.kind == 3).find? fun x =>
    let all := ((s.collSources a stages x.2 ++ s.collDests a x.1).flatMap q.ranksOf).dedup
    (s.collKind a q stages x.2 x.1).isNone || !isBox (all.map (rankCoord size))).map Prod.snd

end Sys2Proof.Machine
end

