-- ==== Sys2Proof/Machine/Binding.lean ====
section
/-!
DEFINITION. What a bind leaves and an unload releases: physical routes and trees in the tiles and port blocks (R186,
R187, R371), windows (R266), the binding report (R198–R201), the programming queue (R295), shard status (R292) and the
release of a partition's bindings (R169).
-/
namespace Sys2Proof.Machine

/-! ## Physical routes (R186, R187) -/

/-- The binding a partition's job stands on. -/
def Job.plan (j : Job) : BindPlan := ⟨j.reps, j.tier, j.repCount, j.holders⟩

/-- A physical route entry: RFORM 1 or 5 with a tile and HALF. -/
def tileWord (form half : Nat) (t : TileId) : Nat :=
  form * 2 ^ 28 + half * 2 ^ 20 + t.y.val * 2 ^ 13 + t.x.val * 2 ^ 6 + t.d.val

/-- The tile an OWNER route names for output segment o (R107, R247): in its own stage the owner of the same replica, in
another stage the owner of segment DSEG + o. DESIGN CHOICE (log entry 25): there, of the replica of the same number,
counted around. -/
def BindPlan.ownerTile (q : BindPlan) (stages : List Stage) (stage rep o : Nat) (r : RouteDef) : Option TileId :=
  let k := if r.target = stage then rep else rep % q.nRep r.target
  match q.onTier r.target k with
  | some e => some (tierRouter e)
  | none => (q.reps.find? fun x => x.stage == r.target && x.rep == k).bind fun x =>
      x.tiles[if r.target = stage then o else (r.dseg + o) % max 1 (stages[r.target]?.elim 1 Stage.nOut)]?

/-- A plan in which a replica stands as given. -/
def BindPlan.withRep (q : BindPlan) (r : Replica) : BindPlan :=
  { q with reps := r :: q.reps.filter fun x => !(x.stage == r.stage && x.rep == r.rep) }

/-- The tree family of a source for a route entry: that of the tile that injects, where there is one. -/
def famOf (fs : List TreeFam) (stage rep o route : Nat) (src : Option TileId) : Option TreeFam :=
  let l := fs.filter fun f => f.stage == stage && f.rep == rep && f.out == o && f.route == route
  (l.find? fun f => some f.src == src).orElse fun _ => l.head?

/-- The die whose scheduler serves a replica: its anchor's, or that of the tier engine that runs it. -/
def BindPlan.schedDie (q : BindPlan) (stage rep : Nat) : Nat :=
  match q.reps.find? fun x => x.stage == stage && x.rep == rep with
  | some x => x.anchor.d.val
  | none => (q.onTier stage rep).getD 0

/-- R186: the physical entry of one ROUTE entry at a tile of logical array a. R236: entry 0 of a router or exit is its scheduler. DEDUCED (log
entry 216): as a TILE entry naming the scheduler's router; the others, which no tile uses, stay 0. -/
def BindPlan.routeWord (q : BindPlan) (stages : List Stage) (fs : List TreeFam) (stage rep o k : Nat) (r : RouteDef) : Nat :=
  if (stages[stage]?).any fun st => st.kind == 1 || st.kind == 2 then
    (if k = 0 then tileWord 1 0 (schedRouter (q.schedDie stage rep)) else 0)
  else match r.kind with
  | 2 => 3 * 2 ^ 28
  | 3 => 4 * 2 ^ 28
  | 4 => match q.ownerTile stages stage rep o r with
    | some t => tileWord 5 0 t
    | none => 0
  | 5 => 6 * 2 ^ 28 + r.target
  | _ =>
    let half := (r.dseg + o) % 2
    match famOf fs stage rep o k ((q.reps.find? fun x => x.stage == stage && x.rep == rep).bind fun x => x.tiles[o]?), q.single stages r.target (r.dseg + o) with
    | some f, _ => 2 * 2 ^ 28 + (f.leaves.length - 1) % 256 * 2 ^ 17 + half * 2 ^ 16 + f.base % 65536
    | none, some t => tileWord 1 half t
    | none, none => 0

/-- PARAM ROUTE of the tile of logical array a of a replica: the first 16 entries of its stage (R108, R157). -/
def BindPlan.routeBytes (q : BindPlan) (s : State) (a : Nat) (stages : List Stage) (fs : List TreeFam) (stage rep arr : Nat) :
    List Byte :=
  match stages[stage]? with
  | none => []
  | some st => padTo 64 ((s.routesOf a st).zipIdx.flatMap fun x =>
      leBytes 4 (q.routeWord stages fs stage rep (arr % max 1 st.nOut) x.2 x.1))

/-- Load PARAM ROUTE of every tile of a replica. -/
def loadRoutes (p : Nat) (r : Replica) : Act := fun s =>
  let j := s.job p
  forA r.tiles.zipIdx (fun t => putBytes (sramBase t.1 + 0x1040) ((j.plan.withRep r).routeBytes s j.addr j.stages j.fams r.stage r.rep t.2)) s

/-- Bind a tile to a logical array (R109, R167 step 4): program, constants, routes, range, watchdog; the sequencer starts
at instruction 0. -/
def bindTile (p : Nat) (r : Replica) (t : TileId) (arr : Nat) : Act := fun s =>
  let j := s.job p
  match j.stages[r.stage]? with
  | none => []
  | some st =>
    let e := s.progEntry j.addr st.prog
    let wd := s.num (e + 8) 4
    let k := tileKey t
    seqA [putBytes (sramBase t) (padTo 4096 (s.bytes (s.progSect j.addr + s.num e 4) (4 * s.num (e + 4) 2))),
      putBytes (sramBase t + 0x1000) (List.replicate 64 0 ++ (j.plan.withRep r).routeBytes s j.addr j.stages j.fams r.stage r.rep arr ++
        s.bytes (e + 0x10) 64 ++ List.replicate 64 0),
      setF F.TIL_SEQ_WDOG_LIMIT k (if wd = 0 then 65536 else wd),
      setF F.TIL_ARR_CFG_RNG k (s.rngAt j.addr (rngBase j.stages r.stage + arr)),
      setF F.TIL_ARR_STS_STATE k 1,
      modCore (.tile t) fun _ => { Core.zero with st := 1, bound := some (r.stage, r.rep, arr) }] s

/-- A tile leaves its logical array: the sequencer goes to IDLE, and the array to a state. -/
def freeTile (t : TileId) (st : Nat) : Act :=
  seqA [modCore (.tile t) fun _ => Core.zero,
    whenA (fun s => s.arrState t != 4) (setF F.TIL_ARR_STS_STATE (tileKey t) st)]

/-! ## Fabric trees (R371, R376) -/

/-- The step a route takes at coordinates a toward b in one dimension of size n: none, + (0) or − (1). -/
def dimStep (n : Nat) (wrap : Bool) (a b : Nat) : Option Nat :=
  if a = b then none
  else if wrap then (if (b + n - a) % n ≤ (a + n - b) % n then some 0 else some 1)
  else if a < b then some 0 else some 1

/-- R376: the direction (0 +X, 1 −X, 2 +Y, 3 −Y, 4 +Z, 5 −Z) a route leaves slice coordinates a by toward b. -/
def fabDir (size : Nat × Nat × Nat) (wrap : Nat) (a b : Nat × Nat × Nat) : Option Nat :=
  match dimStep size.1 (nbit wrap 0) a.1 b.1, dimStep size.2.1 (nbit wrap 1) a.2.1 b.2.1,
      dimStep size.2.2 (nbit wrap 2) a.2.2 b.2.2 with
  | some k, _, _ => some k
  | none, some k, _ => some (2 + k)
  | none, none, some k => some (4 + k)
  | none, none, none => none

/-- The neighbour of slice coordinates in a direction. -/
def fabNext (size : Nat × Nat × Nat) (a : Nat × Nat × Nat) (d : Nat) : Nat × Nat × Nat :=
  let mv := fun (n x : Nat) => if d % 2 = 0 then (x + 1) % max 1 n else (x + n - 1) % max 1 n
  if d < 2 then (mv size.1 a.1, a.2.1, a.2.2)
  else if d < 4 then (a.1, mv size.2.1 a.2.1, a.2.2) else (a.1, a.2.1, mv size.2.2 a.2.2)

/-- The parts and directions of a route, source to destination (at most 31 + 31 + 15 steps). -/
def fabPath (size : Nat × Nat × Nat) (wrap : Nat) : Nat → Nat × Nat × Nat → Nat × Nat × Nat → List ((Nat × Nat × Nat) × Nat)
  | 0, _, _ => []
  | n + 1, a, b =>
    match fabDir size wrap a b with
    | some d => (a, d) :: fabPath size wrap n (fabNext size a d) b
    | none => []

/-- A tree family that reaches parts other than its source's: its key, its first TREE number, its source's rank, and for
each r the ranks of the leaves. -/
structure FarFam where
  stage : Nat
  rep : Nat
  out : Nat
  route : Nat
  base : Nat
  src : Nat
  leaves : List (List Nat)
  deriving DecidableEq, Repr

/-- R191, R193: the ranks that run slower-tier stages: those no part holds a replica of, as stage, replica 0, rank. DESIGN CHOICE (log entry
24): a stage goes to the part its RANK pins it to, else the k-th in PRIO order to the part of rank k modulo the slice's size. -/
def slowRanks (stages : List Stage) (holders : List (Nat × Nat × Nat)) (n : Nat) : List (Nat × Nat × Nat) :=
  ((sortKey (fun x => (x.2.prio, x.1, 0, 0)) ((stages.zipIdx.filter fun x =>
    x.1.nArr != 0 && !holders.any fun h => h.1 == x.2).map fun x => (x.2, x.1))).zipIdx).map fun x =>
      (x.1.1, 0, if x.1.2.rank = 0xFFFF then x.2 % max 1 n else x.1.2.rank)

/-- R371: the families that cross parts, numbered from 0x8000 over the whole slice in ascending stage, replica, output
segment and route order. Every part of the n is a source of the SOURCE stages, as the replica of its rank. -/
def farFams (s : State) (a : Nat) (stages : List Stage) (held : List (Nat × Nat × Nat)) (n : Nat) : List FarFam :=
  let holders := held ++ slowRanks stages held n
  let srcs := holders ++ (stages.zipIdx.filter fun x => x.1.kind == 5).flatMap fun x => (List.range n).map fun r => (x.2, r, r)
  let at_ := fun (k r : Nat) => (holders.filter fun h => h.1 == k && h.2.1 == r).map fun h => h.2.2
  let n := fun k => max 1 (holders.countP fun h => h.1 == k)
  let raw := (sortKey (fun h => (h.1, h.2.1, 0, 0)) srcs).flatMap fun h =>
    match stages[h.1]? with
    | none => []
    | some st => (List.range (if st.kind = 2 then st.nIn else st.nOut)).flatMap fun o => (s.routesOf a st).zipIdx.filterMap fun r =>
        let ls := if st.kind = 1 ∨ (st.kind = 2 ∧ r.2 = 0) then [] else if r.1.kind = 0 then [r.1.target] else if r.1.kind = 1 then s.groupLeaves a r.1.target else []
        let m := (ls.map n).foldl max 0
        let far := (List.range m).map fun j => (ls.flatMap fun k => at_ k (j % n k)).dedup
        if far.any fun x => x.any fun y => y != h.2.2 then some (FarFam.mk h.1 h.2.1 o r.2 0 h.2.2 far) else none
  (raw.foldl (fun acc f => (acc.1 ++ [{ f with base := acc.2 }], acc.2 + f.leaves.length)) ([], 0x8000)).1

/-- The directions a tree takes at this part, and the one it arrives from. -/
def farDirs (sl : Slice) (rank src : Nat) (ls : List Nat) : List Nat :=
  (ls.flatMap fun l => ((fabPath sl.size sl.wrap 80 (rankCoord sl.size src) (rankCoord sl.size l)).filter fun x =>
    x.1 == rankCoord sl.size rank).map Prod.snd).dedup
def farFrom (sl : Slice) (rank src : Nat) : Option Nat :=
  (fabPath sl.size sl.wrap 80 (rankCoord sl.size src) (rankCoord sl.size rank)).getLast?.map fun x => x.2 ^^^ 1

/-- The port block entries of this part for the trees that cross parts: a link for each direction taken here, LOCAL where
the part holds a leaf. -/
def portTrees (sl : Slice) (job rank : Nat) (fs : List FarFam) : List FabTree :=
  fs.flatMap fun f => f.leaves.zipIdx.filterMap fun l =>
    let links := dirLinks sl (farDirs sl rank f.src l.1)
    let loc := l.1.contains rank && f.src != rank
    if links.isEmpty && !loc then none else some ⟨job, f.base + l.2, links, loc⟩

/-- The fabric tree of a BROADCAST collective (R371, R398). DESIGN CHOICE (log entry 41): 0xFFFF less the stage number. -/
def collTree (k : Nat) : Nat := 0xFFFF - k % 0x4000

/-- R371, R391, R398: the fabric trees of the BROADCAST collectives, from the rank of the source to the other participants. -/
def collFams (s : State) (a : Nat) (stages : List Stage) (holders : List (Nat × Nat × Nat)) : List FarFam :=
  let ranks := fun (l : List Nat) => (l.flatMap fun k => (holders.filter fun h => h.1 == k).map fun h => h.2.2).dedup
  stages.zipIdx.filterMap fun x =>
    let src := ranks (s.collSources a stages x.2)
    if x.1.kind ≠ 3 ∨ (s.recipeAt a x.1.rcp).inFmt = 9 ∨ x.1.nOut ≠ x.1.nIn ∨ src.length ≠ 1 then none
    else some ⟨x.2, 0, 0, 0, collTree x.2, src.headD 0, [(ranks (s.collDests a x.1)).filter fun r => r != src.headD 0]⟩

/-- The package trees of this part: those of its own sources, with a leaf at a port block for each link a tree leaves by,
and those on which packets from other parts are injected (R371). -/
def BindPlan.allFams (q : BindPlan) (s : State) (p a : Nat) (stages : List Stage) (first : Nat) (far : List FarFam) (sl : Slice)
    (rank : Nat) : List TreeFam :=
  let port := fun (n : Nat) => let r := s.portRouter n; (⟨r, (portSide r).getD .l, 7⟩ : Leaf)
  let own := (q.trees s p a rank stages first).map fun f =>
    match far.find? fun g => g.stage == f.stage && g.rep == f.rep && g.out == f.out && g.route == f.route with
    | none => f
    | some g => { f with base := g.base
                         leaves := f.leaves.zipIdx.map fun l =>
                          l.1 ++ (dirLinks sl (farDirs sl rank g.src (g.leaves.getD l.2 []))).map port }
  own ++ (far.filter fun g => g.src != rank && g.leaves.any fun l => l.contains rank).filterMap fun g =>
    (stages[g.stage]?.bind fun st => (s.routesOf a st)[g.route]?).bind fun r =>
      (q.leavesOf s a stages false g.out r).bind fun l =>
        (farFrom sl rank g.src).bind fun d => (dirLinks sl [d]).head?.map fun n =>
          ⟨s.portRouter n, g.stage, g.rep, g.out, g.route, g.base, s.routeRed a r, l⟩

/-! ## Windows (R266) -/

/-- The windows a binding's regions take: one for each run of adjacent regions with one owner, in ascending stage order. -/
def regionWindows (reps : List Replica) (tier : List (Nat × Nat)) (l : List Region) : List Win :=
  let own := fun (r : Region) => match reps.find? fun x => x.stage == r.stage && x.rep == r.rep with
    | some x => x.anchor.d.val
    | none => ((tier.find? fun e => e.1 == r.stage).map Prod.snd).getD 0
  ((l.filter fun r => r.len != 0).foldl (fun acc r =>
    let lo := r.base / 4096
    let hi := (r.base + r.len - 1) / 4096
    match acc.findIdx? fun w => w.owner == own r && (w.limit + 1 == lo || hi + 1 == w.base) with
    | some i => acc.zipIdx.map fun x => if x.2 = i then { x.1 with base := min lo x.1.base, limit := max hi x.1.limit } else x.1
    | none => acc ++ [(⟨true, lo, hi, own r⟩ : Win)]) [])

/-- Free entries of the window table. -/
def State.freeWins (s : State) : List Nat := (List.range 256).filter fun i => !(s.win i).valid

/-- Enter windows in free entries, as far as there are any. -/
def addWindows (l : List Win) : Act := withA (fun s => s.freeWins) fun free => forA (free.zip l) fun x => windowChange x.1 x.2

/-- The entries whose windows lie in a partition's granules. -/
def State.partWins (s : State) (p : Nat) : List Nat :=
  (List.range 256).filter fun i => (s.win i).valid && s.granPart ((s.win i).base * 4096 / 2 ^ 30) == p

/-! ## The binding report (R198–R201) -/

/-- The stage records of the report. -/
def stageRecs (j : Job) : List (List Byte) :=
  ((j.stages.zipIdx.filter fun x => x.1.nArr != 0).foldl (fun (acc : List (List Byte) × Nat) x =>
    let here := j.reps.countP fun r => r.stage == x.2
    let tier := j.tier.any fun e => e.1 == x.2
    let note := fun c => j.notes.any fun n => n.code == c && n.stage == x.2
    let sfl := (if x.1.rank ≠ 0xFFFF ∨ (List.range 32).countP (nbit x.1.dies) = 1 then 1 else 0) +
      (if x.1.near ≠ 0xFFFF && !note 0x100 then 2 else 0) + (if note 0x102 then 4 else 0) +
      (if note 0x101 then 8 else 0) + (if j.degraded.contains x.2 then 16 else 0)
    let w := if tier then 1 else if here = 0 then 2 else 0
    (acc.1 ++ [leBytes 2 x.2 ++ leBytes 1 w ++ leBytes 1 (j.repCount.getD x.2 0) ++ leBytes 4 x.1.nArr ++
      leBytes 4 acc.2 ++ leBytes 2 sfl ++ leBytes 2 0], acc.2 + here)) ([], 0)).1

/-- The replicas of the report in the order of their stage records. -/
def Job.repsSorted (j : Job) : List Replica := sortKey (fun r => (r.stage, r.rep, 0, 0)) j.reps

/-- The replica records of the report. -/
def repRecs (j : Job) : List (List Byte) :=
  (j.repsSorted.foldl (fun (acc : List (List Byte) × Nat) r =>
    let dies := ((r.tiles.map fun t => t.d.val).dedup.map fun d => 2 ^ d).sum
    (acc.1 ++ [leBytes 2 r.stage ++ leBytes 1 r.rep ++ leBytes 1 0 ++ leBytes 4 dies ++ leBytes 4 (packTile r.anchor) ++
      leBytes 4 acc.2 ++ leBytes 2 r.tree ++ leBytes 6 0], acc.2 + r.tiles.length)) ([], 0)).1

/-- The note records and the tile map. -/
def noteRecs (j : Job) : List (List Byte) :=
  j.notes.map fun n => leBytes 2 n.code ++ leBytes 2 n.stage ++ leBytes 4 n.arg
def tmapRecs (j : Job) : List (List Byte) :=
  j.repsSorted.flatMap fun r => r.tiles.map fun t => leBytes 4 (packTile t)

/-- Records as far as `room` bytes go. -/
def fitRecs : Nat → List (List Byte) → List (List Byte)
  | _, [] => []
  | room, r :: l => if r.length ≤ room then r :: fitRecs (room - r.length) l else []

/-- The bytes of the report at SEQ `seq` in a space of `len` bytes, and whether it was cut. DEDUCED (log entry 217): R152's "reported in the
binding report" gives IMAGE_ID no field of the layouts of R199 and R200; those are followed. -/
def State.reportBytes (s : State) (p cause seq len : Nat) : List Byte × Bool :=
  let j := s.job p
  let d := (s.partDies p).headD 0
  let secs := if cause = 0 then [stageRecs j, repRecs j, noteRecs j, tmapRecs j] else [[], [], noteRecs j, []]
  let fit := fitRecs (len - 64) secs.flatten
  let n0 := min fit.length ((secs.getD 0 []).length)
  let n1 := min (fit.length - n0) ((secs.getD 1 []).length)
  let n2 := min (fit.length - n0 - n1) ((secs.getD 2 []).length)
  let n3 := fit.length - n0 - n1 - n2
  let bound := (j.reps.map fun r => r.tiles.length).sum
  let cap := ((s.partDies p).map s.capacityOf).sum
  let tier := (j.tier.map fun e => (j.stages[e.1]?).elim 0 Stage.nArr).sum
  let h := leBytes 4 0x54505242 ++ leBytes 1 1 ++ leBytes 1 0 ++ leBytes 2 j.job ++ leBytes 4 (64 + fit.flatten.length) ++
    leBytes 4 seq ++ leBytes 8 s.mile.toNat ++ leBytes 2 (s.fld F.BIL_SLICE_RANK d) ++ leBytes 2 (s.fld F.BIL_SLICE_N_PARTS d) ++
    leBytes 1 cause ++ leBytes 3 0 ++ leBytes 4 n0 ++ leBytes 4 n1 ++ leBytes 4 n2 ++ leBytes 4 n3 ++ leBytes 4 bound ++
    leBytes 4 (cap - bound) ++ leBytes 4 tier ++ leBytes 4 0
  let all := h ++ fit.flatten
  (putAt all 0x3C (leBytes 4 (crc32c all)), fit.length < secs.flatten.length)

/-- R198: the report is rewritten. DEDUCED (log entry 26): where BIL_RPT_ADDR names no region of the partition, or fewer
than 64 bytes are given, nothing is written; SEQ rises all the same. -/
def writeReport (p cause : Nat) : Act := fun s =>
  let d := (s.partDies p).headD 0
  let seq := (s.fld F.BIL_BIND_STS_SEQ d + 1) % 2 ^ 32
  let len := s.fld F.BIL_RPT_LEN_LEN d
  let a := s.fld F.BIL_RPT_ADDR_ADDR d * 64
  let r := s.reportBytes p cause seq len
  let ok := decide (64 ≤ len) && s.owns p a (max 1 len)
  seqA [whenA (fun _ => ok) (storeBytes true a r.1),
    onDies p fun e => seqA [setF F.BIL_BIND_STS_SEQ e seq, setF F.BIL_BIND_STS_NOTES e (min 255 (s.job p).notes.length),
      setB F.BIL_BIND_STS_TRUNC e (r.2 || !ok), setF F.BIL_RPT_LEN_USED e (if ok then r.1.length else 0), dieEvent e]] s

/-! ## Shards (R287, R288, R292) -/

/-- The shards of the manifest in use: the swap's while one is in progress. -/
def Job.inUse (j : Job) : List Shard := match j.swap with
  | some w => w.newShards
  | none => j.shards

/-- The 16 bytes of a shard's status record (R292). -/
def encShard (h : Shard) : List Byte :=
  leBytes 1 h.st ++ leBytes 1 h.source ++ leBytes 1 h.tries ++ leBytes 1 h.cause ++ leBytes 2 h.nvme ++ leBytes 2 h.peer ++
    leBytes 8 h.mile.toNat

/-- Write the status record of shard k where records are kept, within the partition's stack regions (R11). -/
def writeSstat (p k : Nat) : Act := fun s =>
  match (s.job p).inUse[k]? with
  | some h =>
    let a := s.fld F.LDR_SSTAT_ADDR p * 64 + 16 * k
    if s.flag F.LDR_SSTAT_EN p && s.owns p a 16 then storeBytes true a (encShard h) s else []
  | none => []

/-- Change shard k of the manifest in use; its record follows. -/
def modShard (p k : Nat) (f : Shard → Shard) : Act := fun s =>
  let g := fun (l : List Shard) => l.zipIdx.map fun x => if x.2 = k then { (f x.1) with mile := s.mile } else x.1
  seqA [modJob p fun j => match j.swap with
      | some w => { j with swap := some { w with newShards := g w.newShards } }
      | none => { j with shards := g j.shards }, writeSstat p k] s

/-- Ranks that hold a stage, ascending (R288). -/
def Job.holderRanks (j : Job) (stage : Nat) : List Nat :=
  sortKey (fun r => (r, 0, 0, 0)) ((j.holders.filter fun h => h.1 == stage).map fun h => h.2.2).dedup

/-- Whether this part is the head of its chain for a shard, and the rank after it in the chain, if there is one. -/
def State.chain (s : State) (p : Nat) (h : Shard) : Bool × Option Nat :=
  let l := (s.job p).holderRanks h.stage
  let i := l.findIdx? fun r => r == s.rank p
  let c := max 1 (s.fld F.LDR_CFG_CHAIN p)
  match i with
  | none => (true, none)
  | some i =>
    if h.fmode = 0 then (true, none)
    else if h.fmode = 1 then (i == 0, l[i + 1]?)
    else (i % c == 0, if (i + 1) % c = 0 then none else l[i + 1]?)

/-- This part holds a stage, as a replica or on the slower tier (R287). -/
def Job.holds (j : Job) (stage : Nat) : Bool := j.reps.any (fun r => r.stage == stage) || j.tier.any fun e => e.1 == stage

/-- A read of n bytes of a shard from byte `off` on, of its storage target (R289). -/
def fetchOut (p k : Nat) (h : Shard) (off n : Nat) : Out := .fetch p k off n h.nqn h.addr h.tport h.nsid h.slba

/-- Start fetching shard k: from storage, or from the member before. A shard of a stage that a swap does not change is not
fetched. -/
def fetchShard (p k : Nat) : Act := fun s =>
  match (s.job p).inUse[k]? with
  | none => []
  | some h =>
    if (s.job p).holds h.stage = false ∨ (s.job p).swap.any (fun w => w.waveOf.getD h.stage 0xFFFF == 0xFFFF) = true then
      modShard p k (fun x => { x with st := 0 }) s
    else if (s.chain p h).1 then seqA [modShard p k fun x => { x with st := 2, source := 1, tries := 1, peer := 0xFFFF },
      emit (fetchOut p k h 0 h.bytes)] s
    else modShard p k (fun x => { x with st := 1, source := 2, peer := 0xFFFF }) s

/-- A shard that has landed, or that the part does not fetch. -/
def Shard.here (h : Shard) : Bool := h.st == 0 || (3 ≤ h.st && h.st ≤ 5)

/-- Arrays of a partition wait for their retained verify (R299). -/
def State.verifying (s : State) (p : Nat) : Bool := (s.partDies p).any fun d => (s.die d).verQ.any fun q => q.part == p

/-- LDR_STS.PHASE once every shard has landed: retained verify as long as arrays wait for theirs, else programming (R313). DESIGN CHOICE
(log entry 224): fetch goes before both, for the three overlap (R295). -/
def phaseOn (p : Nat) : Act := whenA (fun s => (s.job p).inUse.all Shard.here)
  (withA (fun s => s.verifying p) fun v => setF F.LDR_STS_PHASE p (if v then 3 else 2))

/-- The part holds every shard it fetches: it says so to the slice coordinator (R304), and programming goes on. -/
def allLanded (p : Nat) : Act :=
  whenA (fun s => (s.job p).inUse.all Shard.here) (seqA [emit (.slice p "LANDED" 0 0), phaseOn p])

/-- Start fetching every shard of the manifest in use; there may be none that the part fetches (R287). -/
def fetchAll (p : Nat) : Act := withA (fun s => (s.job p).inUse.length) fun n =>
  seqA [forA (List.range n) (fetchShard p), setF F.LDR_STS_PHASE p 1, setF F.LDR_STS_BUSY p 1, allLanded p]

/-- The shard of the manifest in use that holds the record of a logical array. -/
def Job.shardOf (j : Job) (stage arr : Nat) : Option (Nat × Shard) :=
  (j.inUse.zipIdx.find? fun x => x.1.stage == stage && x.1.first ≤ arr && decide (arr < x.1.first + x.1.n)).map fun x => (x.2, x.1)

/-! ## The unit history's ring (R327, R546) -/

/-- The first 30 bytes of a unit history record (R327). -/
def encHist (r : HistRec) : List Byte :=
  leBytes 4 r.unit.toNat ++ leBytes 1 r.kind ++ leBytes 1 r.flags ++ leBytes 2 r.stage ++ leBytes 8 r.mile.toNat ++
    leBytes 4 r.pos ++ leBytes 4 r.handle.toNat ++ leBytes 4 r.detail.toNat ++ leBytes 2 0

/-- The SEV of a CHECKER log record of a KIND (R546). -/
def histSev (k : Nat) : Nat := if k = 4 ∨ k = 8 then 3 else if k = 6 then 1 else if k = 12 ∨ k = 13 then 0 else 2

/-- The tile a unit code of KIND 0–2 names (R326). -/
def unitTileOf (u : Word32) : Option (Nat × TileId) :=
  let n := u.toNat
  if n / 2 ^ 28 ≤ 2 then (tileAt (n / 2 ^ 22 % 64) (n / 2 ^ 8 % 128) (n / 2 ^ 15 % 128)).map fun t => (n / 2 ^ 28, t) else none

/-- Write a record in the history ring of 262,144 records, and its CHECKER record in the log (R327, R453). -/
def histRing (r : HistRec) : Act := fun s =>
  let r := { r with pos := s.nvm.pos }
  let t := unitTileOf r.unit
  let d := r.unit.toNat / 2 ^ 22 % 64
  let p := (s.byHandle r.handle).elim (if d < 32 then s.part d else 0x3F) fun i => (s.passage i).part
  seqA [nvmWrite (modNvm fun n => { n with uhist := (if n.uhist.length ≥ 262144 then n.uhist.tail else n.uhist) ++ [r] }),
    logEv (some d) 3 (histSev r.kind) r.kind r.unit.toNat p (s.job p).job r.handle (encHist r)] s

/-- A Keeper record about a tile or die without a work item. -/
def plainRec (s : State) (unit kind stage detail : Nat) : HistRec :=
  ⟨BitVec.ofNat 32 unit, kind, 0, stage, s.mile, 0, 0, BitVec.ofNat 32 detail⟩

/-! ## The programming queue (R295) -/

/-- Queue an array for programming. -/
def queueProg (q : ProgReq) : Act := modDie q.tile.d.val fun x => { x with progQ := x.progQ ++ [q] }

/-- Queue an array for its retained verify (R299). -/
def queueVerify (q : ProgReq) : Act := modDie q.tile.d.val fun x => { x with verQ := x.verQ ++ [q] }

/-- Every programming operation, complete or not, counts as a rewrite of its tile; WEAR is recorded at 90,000 (R99). -/
def countRewrite (t : TileId) : Act := fun s =>
  let n := (s.tsum t).rewrites + 1
  seqA [modTsum t fun m => { m with rewrites := n },
    whenA (fun _ => n == 90000) (histRing (plainRec s (unitTile 0 t) 12 ((s.core (.tile t)).bound.elim 0xFFFF fun b => b.1) 0))] s

/-- Programming in progress on a die is abandoned or cut off: each array counts a rewrite (R99). -/
def cutProg (d : Nat) : Act := fun s => forA (s.die d).progNow (fun q => countRewrite q.tile) s

/-- Clear what programming, verifying and calibrating holds of a tile; programming under way counts as a rewrite. -/
def dropTile (t : TileId) : Act := seqA [
  whenA (fun s => (s.die t.d.val).progNow.any fun q => q.tile == t) (countRewrite t), modDie t.d.val fun x => { x with
  progQ := x.progQ.filter fun q => q.tile != t, verQ := x.verQ.filter fun q => q.tile != t
  progNow := x.progNow.filter fun q => q.tile != t, progHeld := x.progHeld.filter fun h => h.1 != tileKey t, calDue := x.calDue.filter fun q => q.tile != t
  calNow := x.calNow.filter fun q => q.tile != t, reused := x.reused.filter fun q => q.tile != t }]

/-! ## Release (R169) -/

/-- A partition's die forgets the work of its image: scoreboard, batches, router and tier state, queues, its counters of conditional computation (R255) and the recipes. -/
def Die.cleared (x : Die) : Die := { x with
  sb := [], batches := [], routers := [], dispBuf := [], spillQ := [], tier := [], tierNow := none, progQ := [], verQ := []
  progNow := [], progHeld := [], reused := [], calDue := [], calNow := [], calGap := [], expCnt := [], exitCnt := [], hist := [], recipes := [], pendRcp := [], flagCnt := [], flagFired := []
  missQ := x.missQ.filter fun q => q.part == 0x3F }

/-- What a die keeps over a warm reset: BIL_FORBID's set, what self-test and the checker found, and the longest queue since cold reset
(SCH_EXP_QUE.PEAK, R256). -/
def Die.warm (x : Die) : Die := { Die.zero with
  forbid := x.forbid, unusable := x.unusable, tierFaulty := x.tierFaulty, badWays := x.badWays
  expCnt := x.expCnt.map fun e => (e.1, { ExpCnt.zero with peak := e.2.peak }) }

/-- R169: the bindings, trees, regions and windows of a partition are released, and its sequencers go to IDLE. Attempts in progress are void (R354). A recipe update on its way is abandoned (R63). Arrays keep
their cells; an array in WRITE keeps WINC. -/
def release (p : Nat) : Act := fun s =>
  let j := s.job p
  seqA [forA (j.reps.flatMap Replica.tiles) fun t => freeTile t 0,
    forA (match j.swap with
      | some w => w.copies.flatMap Replica.tiles
      | none => []) fun t => freeTile t 0,
    forA (s.partDies p) fun d => seqA [cutProg d, fun s => bump F.CAL_FLAG_VOID d (s.die d).calNow.length s, modDie d Die.cleared, setF F.SCH_DISP_BUF_WAITS d 0,
      whenA (fun s => s.flag F.SCH_RCP_STS_BUSY d) (seqA [setF F.SCH_RCP_STS_BUSY d 0, setF F.SCH_RCP_STS_CODE d 1])],
    forA (s.partDies p) fun d => forA (List.finRange 16) fun k => modCore (.ctx (fin32 d) k) fun _ => Core.zero,
    forA (SMap.keys s.trees) fun k => whenA (fun s => (s.treeTab k).any fun e => e.part == p)
      (eff fun s => .treeTab k ((s.treeTab k).filter fun e => e.part != p)),
    eff fun s => .oldTrees (s.oldTrees.filter fun o => o.part != p),
    forA (s.partWins p) fun i => windowChange i Win.zero,
    eff fun s => .fabTrees (s.fabTrees.filter fun f => f.job != j.job),
    eff fun s => .colls (s.colls.filter fun c => c.job != j.job),
    setFP F.BIL_BIND_STS_REBIND p 0, setFP F.BIL_BIND_STS_DEGRADED p 0, setF F.LDR_STS_BUSY p 0, setF F.LDR_STS_PHASE p 0,
    modJob p fun _ => Job.zero] s

end Sys2Proof.Machine
end

