-- ==== Sys2Proof/Machine/Images.lean ====
section
/-!
DEFINITION. Loading, binding and unloading an image (R167–R171, R193, R194, R298) and rebinding a tile (R175, R181, R196,
R197).
-/
namespace Sys2Proof.Machine

/-! ## The image's state (R167, R170, R171) -/

/-- BIL_IMG_STS of every die of a partition: STATE and CODE, and whether an operation is in progress. -/
def imgState (p st code : Nat) (busy : Bool) : Act :=
  onDies p fun d => seqA [setF F.BIL_IMG_STS_STATE d st, setF F.BIL_IMG_STS_CODE d code, setB F.BIL_IMG_STS_BUSY d busy, dieEvent d]

/-- FAIL_SECT, FAIL_IDX and FAIL_TGT. -/
def imgFailAt (p sect idx : Nat) (tgt : Bool) : Act :=
  onDies p fun d => seqA [setF F.BIL_IMG_STS_FAIL_SECT d sect, setF F.BIL_IMG_STS_FAIL_IDX d idx, setB F.BIL_IMG_STS_FAIL_TGT d tgt]

/-- The STATE of a partition's image. -/
def State.imgSt (s : State) (p : Nat) : Nat := s.fld F.BIL_IMG_STS_STATE ((s.partDies p).headD 0)

/-- BIL_IMG_ID0–3. -/
def imgId (p : Nat) (id : List Byte) : Act :=
  onDies p fun d => forA (List.range 4) fun k => setReg .bil d (0x120 + 8 * k) (BitVec.ofNat 64 (leAt id (8 * k) 8))

/-- A load or check fails with a code: bindings released, BUSY clears. -/
def imgEnd (p st code : Nat) (f : Option ImgFail) : Act :=
  seqA [release p, imgFailAt p (f.elim 0 ImgFail.sect) (f.elim 0 ImgFail.idx) (f.any ImgFail.tgt), imgState p st code false]

/-- A load that fails at the weights (R291): CODE 16, reported to the slice. -/
def loadFailed (p code : Nat) : Act :=
  seqA [emit (.slice p "FAILED" code 0), imgEnd p 6 code none, setF F.LDR_STS_PHASE p 5]

/-- OP LOAD or CHECK: steps 1 of R167. -/
def imgStart (p d op : Nat) : Act := fun s =>
  let a := s.fld F.BIL_IMG_ADDR_ADDR d * 64
  let len := s.fld F.BIL_IMG_LEN_LEN d
  ownedRead p a 640 (fun s =>
    match s.imgHeader p a len with
    | some f => seqA [imgFailAt p f.sect f.idx f.tgt, imgState p 6 f.code false] s
    | none => seqA [modJob p fun _ => { Job.zero with
          live := op == 1, op := op, addr := a, len := len, job := s.fld F.BIL_IMG_CMD_JOB d },
        imgFailAt p 0 0 false, imgState p 1 0 true] s) s

/-- R305, R312: a swap in progress is abandoned with the image. -/
def abandonSwap (p : Nat) : Act := whenA (fun s => (s.job p).swap.isSome)
  (seqA [swapState p 5, setF F.LDR_SWAP_STS_CODE p 1, setF F.LDR_SWAP_STS_BUSY p 0])

/-- R169: admission stops, passages ADMITTED or HELD are FAULTED with UNLOADED, the others may go on for up to `ms` milliseconds. -/
def unloadStart (p ms : Nat) : Act := fun s =>
  seqA [modJob p fun j => { j with op := 2, stopped := true, due := s.mile + BitVec.ofNat 64 (1000000 * ms) }, abandonSwap p, imgState p 5 0 true, imgFailAt p 0 0 false,
    emit (.slice p "UNLOAD" 0 0),
    forA ((s.partLive p).filter fun i => (s.passage i).st == 1 || (s.passage i).st == 2) fun i => endPassage i 5] s

/-- A write of BIL_IMG_CMD; one of Keeper firmware starts nothing (R174). -/
def imgCmd (src : Src) (d : Nat) (v : Word) : Act := guardW src .bil d 0x110 fun s =>
  let p := s.part d
  let op := bitsOf v 3 1
  let st := s.fld F.BIL_IMG_STS_STATE d
  let busy := s.flag F.BIL_IMG_STS_BUSY d
  if bitsOf v 0 0 = 0 ∨ src = .keeper then storeRW .bil d 0x110 v s
  else if busy = true ∧ op ≠ 2 then (if op = 1 ∨ op = 3 then setF F.BIL_IMG_STS_LOST d 1 s else [])
  else seqA [storeRW .bil d 0x110 v,
    if 16 ≤ p then skip
    else if op = 1 ∨ op = 3 then (if st = 0 ∨ st = 6 then imgStart p d op else seqA [imgFailAt p 0 0 false, setFP F.BIL_IMG_STS_CODE p 14, onDies p dieEvent])
    else if op = 2 then
      (if busy then (if st = 5 then skip else seqA [emit (.slice p "UNLOAD" 0 0), abandonSwap p, release p, imgId p [], imgFailAt p 0 0 false, imgState p 0 1 false])
      else if st = 4 then unloadStart p (F.BIL_IMG_CMD_DRAIN.of v) else seqA [imgFailAt p 0 0 false, setFP F.BIL_IMG_STS_CODE p 14, onDies p dieEvent])
    else skip] s

/-- R167: BIL_IMG_CMD with OP LOAD. -/
def hostImageLoad (src : Src) (d : Fin 32) (v : Word) : Act := fun s =>
  (imgCmd src d.val v) s

/-- ImageLoad: the command of its row. -/
def execImageLoad (src : Src) (d : Fin 32) (v : Word) (s : State) : Host.Outcome State Fault Refusal :=
  runAct (hostImageLoad src d v) s

/-- R167: BIL_IMG_CMD with OP CHECK. -/
def hostImageCheck (src : Src) (d : Fin 32) (v : Word) : Act := fun s =>
  (imgCmd src d.val v) s

/-- ImageCheck: the command of its row. -/
def execImageCheck (src : Src) (d : Fin 32) (v : Word) (s : State) : Host.Outcome State Fault Refusal :=
  runAct (hostImageCheck src d v) s

/-- R169, R170: BIL_IMG_CMD with OP UNLOAD. -/
def hostImageUnload (src : Src) (d : Fin 32) (v : Word) : Act := fun s =>
  (imgCmd src d.val v) s

/-- ImageUnload: the command of its row. -/
def execImageUnload (src : Src) (d : Fin 32) (v : Word) (s : State) : Host.Outcome State Fault Refusal :=
  runAct (hostImageUnload src d v) s

/-- A step of partition p's passages is RUNNING or WAITING. -/
def State.busySteps (s : State) (p : Nat) : Bool := (s.partLive p).any fun i => (s.passage i).st == 3 || (s.passage i).st == 4

/-- R169: the drain of an unload ends: BIL_IMG_CMD.DRAIN ms have passed, or nothing is RUNNING or WAITING. -/
def execUnloadDrainExpiry (part : Fin 16) (s : State) : Host.Outcome State Fault Refusal :=
  let p := part.val
  runAct (fun s =>
    if s.imgSt p ≠ 5 ∨ (s.busySteps p = true ∧ s.mile < (s.job p).due) then []
    else seqA [forA (s.partLive p) fun i => endPassage i 5, release p, imgId p [], imgState p 0 0 false] s) s

/-- R167 step 2: checks 7–13 end. CHECK returns to EMPTY; LOAD goes on to BINDING. -/
def execImageChecksDone (part : Fin 16) (s : State) : Host.Outcome State Fault Refusal :=
  let p := part.val
  runAct (fun s =>
    let j := s.job p
    if s.imgSt p ≠ 1 ∨ j.op = 0 then []
    else unitRead true j.addr j.len (fun s =>
      match s.imgBody j.addr j.len with
      | some f => imgEnd p 6 f.code (some f) s
      | none =>
        if j.op = 3 then imgEnd p 0 0 none s
        else seqA [modJob p fun x => { x with
            bindIn := some (s.costIn p), due := s.mile + 1000000000, hdrCrc := s.num (j.addr + 0x7C) 4, epoch := s.num (s.manSect j.addr + 8) 2, stages := s.stages j.addr },
          imgId p (s.bytes (j.addr + 0x18) 32), imgState p 2 0 true] s) s) s

/-! ## Binding (R193, R194) -/

/-- R184, R202: what the bind in progress reckons costs from: what was read at its start. -/
def State.bindCost (s : State) (p : Nat) : CostIn := (s.job p).bindIn.getD (s.costIn p)

/-- What a bind decided. -/
structure Bound where
  reps : List Replica
  tier : List (Nat × Nat)
  repCount : List Nat
  holders : List (Nat × Nat × Nat)
  notes : List Note
  fams : List TreeFam
  far : List FarFam
  regions : List Region
  shadows : List Shadow
  deriving DecidableEq, Repr

/-- Replicas of each stage among those placed, less those removed. -/
def repCounts (n : Nat) (l : List Placed) : List Nat := (List.range n).map fun i => l.countP fun x => x.stage == i

/-- The holders of the replicas placed, in placement order within a stage. -/
def holdersOf (l : List Placed) : List (Nat × Nat × Nat) :=
  l.zipIdx.map fun x => (x.1.stage, (l.take x.2).countP fun y => y.stage == x.1.stage, x.1.rank)

/-- R188: the last pass-4 replica to remove: of highest PRIO, then highest stage number. -/
def lastExtra (stages : List Stage) (l : List Placed) : Option Nat :=
  leastKey (fun i => match l[i]? with
    | some x => (2 ^ 16 - (stages[x.stage]?).elim 0 Stage.prio, 2 ^ 16 - x.stage, 2 ^ 24 - i, 0)
    | none => (2 ^ 17, 0, 0, 0)) ((List.range l.length).filter fun i => (l[i]?).any fun x => x.pass == 4)

/-- Routes and trees for the replicas placed, removing pass-4 replicas until every router fits (R188): what stays, the
families, the removals by stage, or the router that does not fit. -/
def fitTrees (s : State) (p a : Nat) (stages : List Stage) (tier : List (Nat × Nat)) (rank first : Nat) :
    Nat → List Placed → List Replica → List Nat → (List Placed × List Replica × List TreeFam × List FarFam × List Nat) × Option Nat
  | 0, l, r, gone => ((l, r, [], [], gone), none)
  | n + 1, l, r, gone =>
    let q : BindPlan := ⟨r, tier, repCounts stages.length l, holdersOf l⟩
    let far := farFams s a stages (holdersOf l) (s.nParts p)
    let fs := q.allFams s p a stages first far (s.slice p) rank
    match overfull (treeTable s p fs) with
    | none => ((l, r, fs, far, gone), none)
    | some router =>
      match lastExtra stages l with
      | none => ((l, r, fs, far, gone), some router)
      | some i =>
        let x := l.getD i ⟨0, 0, 0, [], false⟩
        let rep := (l.take i).countP fun y => y.stage == x.stage
        fitTrees s p a stages tier rank first n (l.eraseIdx i)
          (r.filter fun y => !(y.stage == x.stage && y.rep == rep)) (gone ++ [x.stage])

/-- Counts of a list by stage as notes. -/
def countNotes (code : Nat) (l : List Nat) : List Note := l.dedup.map fun i => ⟨code, i, l.countP fun x => x == i⟩

/-- A router's key packed as ANCHOR. -/
def packKey (k : Nat) : Nat := k / 8448 + k % 128 * 64 + k % 8448 / 128 * 8192

/-- The first TREE number of the routes into a replica (R200): of those of STAGE and GROUP routes that end at its tiles, else of its entry
trees. -/
def treeOf (fs : List TreeFam) (r : Replica) : Nat :=
  let ns := fun (l : List TreeFam) => l.flatMap fun f => (f.leaves.zipIdx.filter fun x =>
    x.1.any fun y => y.kind == 0 && r.tiles.contains y.t).map fun x => (f.base + x.2) % 65536
  let a := ns (fs.filter fun f => f.route != 0xFFFF)
  let l := if a.isEmpty then ns fs else a
  l.foldl min (l.headD 0)

/-- Steps 4–6 of a bind from the replicas placed: tiles, routes and trees, memory. A failure leaves the notes made so far. -/
def bindRest (s : State) (p a rank epoch : Nat) (stages : List Stage) (l : List Placed) (reps : List Replica)
    (notes : List Note) : Except (List Note) Bound :=
  let mine := ((slowRanks stages (holdersOf l) (s.nParts p)).filter fun x => x.2.2 == rank).map Prod.fst
  let tier := mine.foldl (assignTier (s.tierDies p) stages) []
  let f := fitTrees s p a stages tier rank 0 (l.length + 1) l reps []
  match f.2 with
  | some router => .error (notes ++ countNotes 0x104 f.1.2.2.2.2 ++ [⟨4, 0xFFFF, packKey router⟩])
  | none =>
    let l := f.1.1
    let q : BindPlan := ⟨f.1.2.1, tier, repCounts stages.length l, holdersOf l⟩
    let npas := (s.range p).elim 0 fun r => r.2 + 1 - r.1
    let space := (s.hostAreas p).foldl (fun sp x => cutSpace sp x.1 x.2) (s.partSpace p)
    let g := giveMem s space (q.asks stages npas)
    let notes := notes ++ countNotes 0x104 f.1.2.2.2.2
    if g.2.2 ≠ 0 then .error (notes ++ [⟨5, 0xFFFF, g.2.2⟩])
    else
      let hot := q.reps.flatMap fun r => (r.tiles.filter (s.seenBy (s.bindCost p)).hot).map fun _ => r.stage
      .ok { reps := q.reps.map fun r => { r with tree := treeOf f.1.2.2.1 r }
            tier := tier, repCount := q.repCount, holders := holdersOf l
            notes := notes ++ countNotes 0x102 hot ++ tier.map fun t => ⟨0x103, t.1, t.2⟩
            fams := f.1.2.2.1, far := f.1.2.2.2.1
            regions := g.1.filterMap fun x => match x.1 with
              | .region st r kv len stride => some ⟨st, r, kv, x.2, len, stride⟩
              | .shadow _ _ => none
            shadows := g.1.filterMap fun x => match x.1 with
              | .shadow st n => some ⟨st, epoch, x.2, n⟩
              | .region _ _ _ _ _ => none }

/-- Capacities by rank, with this part's own read from its dies; in a bind of several parts no more than the coordinator reckons with, which has
moved what the part handed back (R193). -/
def State.capsOf (s : State) (p rank : Nat) (caps : List (List (Nat × Nat))) : List (List (Nat × Nat)) :=
  let own := (s.partDies p).map fun d => (d, s.capacityOf d)
  let told := (caps[rank]?).getD []
  if caps.length ≤ 1 then [own]
  else caps.zipIdx.map fun x => if x.2 = rank then own.map fun y => (y.1, match told.find? fun z => z.1 == y.1 with
    | some z => min y.2 z.2
    | none => y.2) else x.1

/-- A bind under R178–R192. -/
def bindNew (s : State) (p rank : Nat) (pol : Word) (caps : List (List (Nat × Nat))) : Except (List Note) Bound :=
  let j := s.job p
  let cyc := fun i => (j.stages[i]?).elim 0 fun st =>
    let r := s.recipeAt j.addr st.rcp
    itemCycles r.inFmt r.alignExt
  let q := runPasses (s.capsOf p rank caps) j.stages cyc (F.BIL_POL_RSV.of pol) (F.BIL_POL_UTIL.of pol)
  match q.fail, s.collBad j.addr q j.stages (s.slice p).size with
  | some n, _ => .error (q.notes ++ [n])
  | none, some k => .error (q.notes ++ [⟨7, k, k⟩])
  | none, none =>
    let w := s.bindCost p
    bindRest s p j.addr rank j.epoch j.stages q.placed
      (bindReps s w rank j.epoch q.placed q.placed.zipIdx ((s.partDies p).flatMap s.canBind)) q.notes

/-! ## Retained bindings (R297, R298) -/

/-- R298: the retention record matches the image and slice being loaded. -/
def State.retainOk (s : State) (p rank : Nat) : Bool :=
  let j := s.job p
  s.flag F.LDR_CFG_RETAIN p && s.keeperUp && (s.retainOf p).any fun r =>
    r.imageId == s.bytes (j.addr + 0x18) 32 && r.scrcs == s.retScrcs j.addr && r.nParts == s.nParts p && r.rank == rank

/-- A recorded tile that may still serve. -/
def State.keepTile (s : State) (t : TileId) : Bool := s.usable t && !(s.die t.d.val).forbid.contains t

/-- R298: the recorded tiles of a replica, each that may no longer serve replaced by a spare under R183. -/
def keepTiles (s : State) (w : CostIn) (a : TileId) : List TileId → List TileId → List TileId
  | [], _ => []
  | t :: r, free =>
    if s.keepTile t then t :: keepTiles s w a r free
    else match s.pickTile w (some a) (free.filter fun x => x.d == t.d) with
      | some x => x :: keepTiles s w a r (free.filter fun y => y != x)
      | none => match s.pickTile w (some a) free with
        | some x => x :: keepTiles s w a r (free.filter fun y => y != x)
        | none => t :: keepTiles s w a r free

/-- R298: a bind to the recorded placement: a stage no part of the slice holds a replica of is on the slower tier. -/
def bindKept (s : State) (p rank : Nat) (r : Retain) : Except (List Note) Bound :=
  let j := s.job p
  let w := s.bindCost p
  let used := r.reps.flatMap Replica.tiles
  let free := ((s.partDies p).flatMap s.canBind).filter fun t => !used.contains t
  let reps := (r.reps.foldl (fun (acc : List Replica × List TileId) x =>
    let ts := keepTiles s w x.anchor x.tiles acc.2
    (acc.1 ++ [{ x with tiles := ts, anchor := ts.headD x.anchor, outOfService := false, epoch := j.epoch }],
      acc.2.filter fun t => !ts.contains t)) ([], free)).1
  bindRest s p j.addr rank j.epoch j.stages
    ((sortKey (fun h => (h.1, h.2.1, 0, 0)) r.holders).map fun h => ⟨h.1, h.2.2, 1, [], true⟩) reps []

/-! ## What a completed bind does (R167 steps 4 and 5) -/

/-- The tile's tag names the logical array and epoch, and its cells are whole (R298). -/
def State.tagged (s : State) (t : TileId) (stage arr epoch : Nat) : Bool :=
  let m := s.tsum t
  m.valid && m.tagStage == stage && m.tagArr == arr && m.tagEpoch == epoch && !m.winc

/-- Queue the arrays of a replica: those whose tags match for the retained verify, the others for programming, those with
WINC or a tag of another epoch in class 2 (R295, R298). -/
def queueReplica (p epoch : Nat) (r : Replica) : Act := forA r.tiles.zipIdx fun x => fun s =>
  let m := s.tsum x.1
  let q := fun c => (⟨x.1, c, p, r.stage, x.2, epoch, 0, 0⟩ : ProgReq)
  if s.tagged x.1 r.stage x.2 epoch then queueVerify (q 2) s
  else queueProg (q (if m.winc then 2 else 3)) s

/-- The recipes of an image, on every die of the partition. -/
def loadRecipes (p : Nat) : Act := fun s =>
  let a := (s.job p).addr
  let m := (List.range (s.count a 3)).foldl (fun (m : SMap Recipe) i => SMap.set (fun _ => Recipe.zero) m i (s.recipeAt a i)) []
  onDies p (fun d => modDie d fun x => { x with recipes := m }) s

/-- The bind succeeded. -/
def bindOk (p : Nat) (b : Bound) : Act := fun s =>
  let j := s.job p
  seqA [modJob p fun x => { x with
      reps := b.reps, tier := b.tier, repCount := b.repCount, holders := b.holders, notes := b.notes, fams := b.fams
      algDraw := s.free, alg := s.fld F.BFP_COLL_ALG p
      treeDue := false, switches := [], bindIn := none, handed := false
      regions := b.regions, shadows := b.shadows, shards := s.imgShards j.addr }, draw,
    withA (fun s => treeTable s p b.fams) (fun t => forA t fun e => eff fun _ => .treeTab e.1 e.2),
    eff fun s => .fabTrees (s.fabTrees ++ portTrees (s.slice p) j.job (s.rank p)
      (b.far ++ collFams s j.addr j.stages b.holders)),
    addWindows (regionWindows b.reps b.tier (sortKey (fun r => (r.stage, r.rep, 0, 0)) b.regions)),
    forA b.reps fun r => forA r.tiles.zipIdx fun t => bindTile p r t.1 t.2,
    loadRecipes p, setF F.LDR_SWAP_STS_ADM_EPOCH p j.epoch,
    onDies p fun d => setF F.BIL_BIND_STS_CAUSE d 0, writeReport p 0,
    imgState p 3 0 true, forA b.reps (queueReplica p j.epoch), fetchAll p] s

/-- The bind failed: CODE 15; its cause, the last of its notes, in the report. -/
def bindFailed (p : Nat) (l : List Note) : Act := fun s =>
  let code := (l.getLast?).elim 0 Note.code
  seqA [setFP F.BIL_BIND_STS_CAUSE p code,
    modJob p fun j => { j with reps := [], tier := [], notes := l }, writeReport p code, imgEnd p 6 15 none] s

/-- R193: what a part of several cannot place after R188 it hands back to the coordinator once: the bind stays in BINDING until the coordinator
has moved it; what fails otherwise, or again, fails the bind. -/
def bindError (p n : Nat) (l : List Note) : Act := fun s =>
  if l.getLast?.any (fun x => x.code == 4) ∧ 1 < n ∧ (s.job p).handed = false then
    seqA [modJob p fun j => { j with handed := true },
      emit (.slice p "HANDED_BACK" (l.getLast?.elim 0 Note.arg) (s.rank p))] s
  else bindFailed p l s

/-- R193, R194: what the parts of a slice of n have agreed: its size, this part's rank, and the dimensions that wrap. -/
def bindSlice (p n rank wrapOk : Nat) : Act :=
  seqA [onDies p fun d => seqA [setF F.BIL_SLICE_N_PARTS d n, setF F.BIL_SLICE_RANK d rank],
    fun s => modSlice p (fun x => { x with wrap := x.wrapReq &&& s.fld F.BFP_SLICE_STS_WRAP_OK p &&& (if n = 1 then 7 else wrapOk) }) s]

/-- R194, R298: the placement a bind decides: the retained one where every part finds a match, otherwise a new one under the
coordinator's BIL_POL. -/
def State.bindChoice (s : State) (p rank : Nat) (allMatch : Bool) (pol : Word) (caps : List (List (Nat × Nat))) : Except (List Note) Bound :=
  match if allMatch && s.retainOk p rank then s.retainOf p else none with
  | some x => bindKept s p rank x
  | none => bindNew s p rank (if rank = 0 then (s.bindCost p).pol else pol) caps

/-- R193: this part's rank by its slice coordinates, counted X first; with one part 0. -/
def State.rankHere (s : State) (p n : Nat) : Nat :=
  if n ≤ 1 then 0
  else let x := s.slice p; x.coord.1 + x.size.1 * (x.coord.2.1 + x.size.2.1 * x.coord.2.2)

/-- R168, R193, R194: the bind of a partition completes, at the rank that its slice coordinates give the part. -/
def execBindDone (part : Fin 16) (sliceAgrees allMatch : Bool) (rank : BitVec 14) (pol : Word) (wrapOk : BitVec 3)
    (caps : List (List (Nat × Nat))) (s : State) : Host.Outcome State Fault Refusal :=
  let p := part.val
  runAct (fun s =>
    let n := max 1 caps.length
    if s.imgSt p ≠ 2 ∨ n ≤ rank.toNat ∨ rank.toNat ≠ s.rankHere p n then []
    else if sliceAgrees = false then imgEnd p 6 17 none s
    else seqA [bindSlice p n rank.toNat wrapOk.toNat, fun s =>
      match s.bindChoice p rank.toNat allMatch pol caps with
      | .ok b => bindOk p b s
      | .error e => bindError p n e s] s) s

/-- R194: a slice peer has not answered within 1 s. -/
def execSliceBindTimeout (part : Fin 16) (rank : BitVec 14) (s : State) : Host.Outcome State Fault Refusal :=
  runAct (fun s => if s.imgSt part.val = 2 ∧ (s.job part.val).due ≤ s.mile then bindFailed part.val [⟨6, 0xFFFF, rank.toNat⟩] s else []) s

/-- The programming, verifying and calibrating a partition's load still waits for. -/
def State.loadBusy (s : State) (p : Nat) : Bool :=
  (s.partDies p).any fun d =>
    let x := s.die d
    !x.progQ.isEmpty || !x.progNow.isEmpty || !x.verQ.isEmpty || x.calDue.any (fun c => c.cls == 0) ||
      x.calNow.any fun c => c.cls == 0

/-- R167 step 7: the weights and the start-up calibration are complete. -/
def execLoadReady (part : Fin 16) (s : State) : Host.Outcome State Fault Refusal :=
  let p := part.val
  runAct (fun s =>
    if s.imgSt p = 3 ∧ s.loadBusy p = false ∧ (s.job p).shards.all Shard.here = true then
      seqA [modJob p fun j => { j with op := 0, stopped := false }, writeRetain p,
        setF F.LDR_STS_PHASE p 4, setF F.LDR_STS_BUSY p 0, imgState p 4 0 false] s
    else []) s

/-! ## Rebinding (R195–R197) -/

/-- The replica that holds a tile, with the logical array. -/
def State.replicaAt (s : State) (t : TileId) : Option (Nat × Replica × Nat) :=
  (List.range 16).findSome? fun p => ((s.job p).reps.find? fun r => r.tiles.contains t).map fun r =>
    (p, r, r.tiles.idxOf t)

/-- Change a replica of a partition's job. -/
def modRep (p stage rep : Nat) (f : Replica → Replica) : Act := modJob p fun j =>
  { j with reps := j.reps.map fun r => if r.stage == stage && r.rep == rep then f r else r }

/-! ## New copies of a shadow swap (R310) -/

/-- Free tiles for the new copy of a replica, beside those `taken` already: on the die of the tile it copies, or the nearest allowed die;
capacity that BIL_POL.RSV withholds counts, and no die has more than 4,096 tiles bound (R176). -/
def State.copyTiles (s : State) (p : Nat) (r : Replica) (taken : List TileId) : List TileId → List TileId → Option (List TileId)
  | [], _ => some []
  | t :: l, free =>
    let allow := (s.stage p r.stage).elim 0 Stage.dies
    let ok := ((s.partDies p).zipIdx.filter fun x => (nbit allow x.2 || x.1 == t.d.val) &&
      decide (s.boundOn x.1 + taken.countP (fun y => y.d.val == x.1) < 4096)).map Prod.fst
    match (sortKey (fun d => (dieHops t.d.val d, d, 0, 0)) ok).findSome? fun d =>
        s.pickTile (s.costIn p) none (free.filter fun x => x.d.val == d) with
    | some x => (s.copyTiles p r (x :: taken) l (free.filter fun y => y != x)).map fun q => x :: q
    | none => none

/-- The free tiles of a partition. -/
def State.freeTiles (s : State) (p : Nat) : List TileId :=
  ((s.partDies p).flatMap s.canBind).filter fun t => !s.boundTile t

/-- Waves OLD, DOUBLING and so on, as LDR_WAVE counts them. -/
def waveRegs (p : Nat) : Act := fun s =>
  match (s.job p).swap with
  | none => []
  | some w => seqA [setF F.LDR_WAVE_N_NEW p (w.waves.countP fun x => x == 3), setF F.LDR_WAVE_N_WRITING p (w.waves.countP fun x => x == 1),
      setF F.LDR_WAVE_N_WAVE p w.nWave] s

/-- Set a wave's state. -/
def setWave (p v st : Nat) : Act := seqA [modJob p fun j => { j with swap := j.swap.map fun w => { w with waves := w.waves.set v st } },
  waveRegs p]

/-! ## Spares (R196, R197) -/

/-- R183, R197 orders 1 and 2: the spare for a tile of a replica, of least cost with the distance to the replica's anchor: on the die of the
tile left, or the nearest allowed die of the partition with fewer than 4,096 tiles bound (R176). -/
def State.findSpare (s : State) (p : Nat) (c : CostIn) (r : Replica) (t : TileId) : Option (TileId × Nat) :=
  let dies := s.partDies p
  let allow := (s.stage p r.stage).elim 0 Stage.dies
  let ok := (dies.zipIdx.filter fun x => nbit allow x.2 && decide (s.boundOn x.1 < 4096)).map Prod.fst
  let on := fun d => if s.spares d = 0 then none
    else s.pickTile c (some r.anchor) ((s.canBind d).filter fun x => !s.boundTile x)
  match on t.d.val with
  | some x => some (x, 1)
  | none => (sortKey (fun d => (dieHops t.d.val d, d, 0, 0)) (ok.filter fun d => d != t.d.val)).findSome? fun d =>
      (on d).map fun x => (x, 2)

/-- The input segments a core has for items to come, waiting at a core that takes its place. -/
def Core.keepIns (c k : Core) : Core := { k with ins := k.ins ++ c.ins.map fun x => { x with buf := none } }

/-- R196 step 1: the replica leaves service; the tile's work items and their input stay with the rebind; an
event of the tile that waits for a second opinion waits on. -/
def leaveTile (p : Nat) (r : Replica) (t : TileId) (st : Nat) : Act := fun s =>
  seqA [modRep p r.stage r.rep fun x => { x with outOfService := true }, dropTile t, freeTile t st,
    modCore (.tile t) fun k => { (s.core (.tile t)).keepIns k with hard := (s.core (.tile t)).hard },
    modTsum t fun m => { m with valid := false }] s

/-- The work items of a tile and their input. -/
def State.heldWork (s : State) (t : TileId) : List (WorkItem × List TileIn) :=
  let c := s.core (.tile t)
  (c.item.toList ++ c.second.toList ++ c.secondQ ++ c.queue).map fun w => (w, w.input.getD (s.driveIn (.tile t) w.buf))

/-- The report and log of a rebind that ends (R196 step 6, R201–R203): a note and a log record for each tile left, with its spare and
result, and one count and one report for all. -/
def rebindEnd (p : Nat) (l : List (TileId × Option TileId × Nat)) : Act :=
  seqA [modJob p fun j => { j with rebinds := j.rebinds.filter fun x => !l.any fun y => y.1 == x.old
                                   notes := j.notes ++ l.map fun y => ⟨0x105, 0xFFFF, packTile y.1⟩ },
    forOpt l.head? fun y => bump F.BIL_REBIND_COUNT y.1.d.val 1,
    forA l fun y => seqA [setF F.BIL_REBIND_Y y.1.d.val y.1.y.val, setF F.BIL_REBIND_X y.1.d.val y.1.x.val,
      setF F.BIL_REBIND_RESULT y.1.d.val y.2.2],
    withA (fun s => (s.job p).rebinds.isEmpty) fun e => setFP F.BIL_BIND_STS_REBIND p (if e then 0 else 1),
    writeReport p 0, writeRetain p,
    forA l fun y => fun s => logEv (some y.1.d.val) 7 1 1 (y.2.1.elim noUnit (unitTile 0)) p (s.job p).job 0
      (leBytes 4 (packTile y.1) ++ leBytes 1 y.2.2) s]

/-- A replica leaves the job, with its new copy in a swap. -/
def Job.without (j : Job) (stage rep : Nat) : Job :=
  { j with
    reps := j.reps.filter fun r => !(r.stage == stage && r.rep == rep)
    holders := j.holders.filter fun h => !(h.1 == stage && h.2.1 == rep)
    rebinds := j.rebinds.filter fun b => !(b.stage == stage && b.rep == rep)
    swap := j.swap.map fun w => { w with copies := w.copies.filter fun r => !(r.stage == stage && r.rep == rep) } }

/-- Replica numbers above one dropped fall by one. -/
def lessRep (rep n : Nat) : Nat := if rep < n then n - 1 else n

/-- R197 order 3: a replica is dropped, and the numbers of those after it fall by one, in the job, the schedulers and the tiles. -/
def dropReplica (p stage rep : Nat) : Act :=
  let f := lessRep rep
  seqA [modJob p fun j0 =>
      let j := j0.without stage rep
      { j with
        reps := j.reps.map fun r => if r.stage == stage then { r with rep := f r.rep } else r
        holders := j.holders.map fun h => if h.1 == stage then (h.1, f h.2.1, h.2.2) else h
        repCount := j.repCount.zipIdx.map fun x => if x.2 = stage then x.1 - 1 else x.1
        rebinds := j.rebinds.map fun b => if b.stage == stage then { b with rep := f b.rep } else b
        swap := j.swap.map fun w => { w with
          copies := w.copies.map fun r => if r.stage == stage then { r with rep := f r.rep } else r } },
    onDies p fun d => modDie d fun x => { x with
      sb := x.sb.map fun y => if y.stage == stage then { y with rep := f y.rep } else y
      batches := x.batches.map fun y => if y.stage == stage then { y with rep := f y.rep } else y
      routers := x.routers.map fun y => if y.stage == stage then { y with rep := f y.rep } else y
      dispBuf := x.dispBuf.map fun y => if y.stage == stage then { y with rep := f y.rep } else y },
    withA (fun s => ((s.job p).reps ++ ((s.job p).swap.elim [] Swap.copies)).filter fun r => r.stage == stage) fun l => forA l fun r =>
      forA r.tiles fun t => modCore (.tile t) fun c =>
        let g := fun (w : WorkItem) => if w.stage == stage then { w with rep := f w.rep } else w
        { c with bound := c.bound.map (fun b => (b.1, r.rep, b.2.2)), item := c.item.map g, queue := c.queue.map g
                 second := c.second.map g, secondQ := c.secondQ.map g }]

/-- Two families of one source and route entry, of trees that reach the same leaves. -/
def TreeFam.key (f : TreeFam) : Nat × Nat × Nat × Nat := (f.stage, f.rep, f.out, f.route)
def TreeFam.same (f g : TreeFam) : Bool := f.key == g.key && f.src == g.src && f.red == g.red && f.leaves == g.leaves

/-- TREE numbers of a partition that may not be given again: those of its families and of its old trees (R146). -/
def State.usedTrees (s : State) (p : Nat) (fs : List TreeFam) : List (Nat × Nat) :=
  (fs.map fun f => (f.base, f.leaves.length)) ++ ((s.oldTrees.filter fun o => o.part == p) ++ (s.job p).switches.flatMap Switch.old).map
    fun o => (o.tree, 1)

/-- The lowest run of n free TREE numbers below 0x8000: it starts at 0 or behind one in use. -/
def freeTree (l : List (Nat × Nat)) (n : Nat) : Option Nat :=
  (sortKey (fun x => (x, 0, 0, 0)) (0 :: l.map fun x => x.1 + x.2)).find? fun x => decide (x + n ≤ 0x8000) &&
    l.all fun y => decide (x + n ≤ y.1) || decide (y.1 + y.2 ≤ x)

/-- The families of a plan computed afresh (R146): those unchanged keep their TREE numbers; a changed one gets new numbers, beside the old
until these are retired, where every router it takes has one of its 512 entries free for it (R142), else the old ones stay in force and the change
waits. A family that crosses parts keeps its numbers, which are allocated once for the slice (R371). What is in force, what is new, and whether
a change waits. -/
def mergeFams (s : State) (p : Nat) (old new : List TreeFam) : List TreeFam × List TreeFam × Bool :=
  new.foldl (fun (acc : List TreeFam × List TreeFam × Bool) f =>
    match old.find? fun g => g.same f, old.find? fun g => g.key == f.key with
    | some g, _ => (acc.1 ++ [g], acc.2)
    | none, was =>
      if 0x8000 ≤ f.base then
        let g := { f with base := (was.filter fun g => 0x8000 ≤ g.base).elim f.base TreeFam.base }
        (acc.1 ++ [g], acc.2.1 ++ [g], acc.2.2)
      else
        let stay := (acc.1 ++ was.toList, acc.2.1, true)
        match freeTree (s.usedTrees p (old ++ acc.1)) f.leaves.length with
        | none => stay
        | some b =>
          let g := { f with base := b }
          if (treeTable s p (acc.2.1 ++ [g])).any fun e => decide (512 < e.2.length) then stay
          else (acc.1 ++ [g], acc.2.1 ++ [g], acc.2.2))
    ([], [], false)

/-- The families of the new copies of a shadow swap: those of the replicas they copy, injected at the copies' tiles (R310). -/
def Job.copyFams (j : Job) (fs : List TreeFam) : List TreeFam := match j.swap with
  | none => []
  | some w => fs.filterMap fun f =>
      let same := fun (r : Replica) => r.stage == f.stage && r.rep == f.rep
      if (j.reps.find? same).any (fun r => r.tiles[f.out]? == some f.src) then
        (w.copies.find? same).bind fun c => (c.tiles[f.out]?).map fun t => { f with src := t }
      else none

/-- PARAM ROUTE of a replica's tiles where its words are not those in force (R146). -/
def State.newRoutes (s : State) (p : Nat) (r : Replica) : List (Nat × List Byte) :=
  let j := s.job p
  r.tiles.zipIdx.filterMap fun t =>
    let a := sramBase t.1 + 0x1040
    let b := (j.plan.withRep r).routeBytes s j.addr j.stages j.fams r.stage r.rep t.2
    if s.bytes a b.length = b then none else some (a, b)

/-- A family's trees, to be retired. -/
def famOld (p : Nat) (g : TreeFam) : List OldTree :=
  g.leaves.zipIdx.map fun l => ⟨(g.base + l.2) % 65536, p, g.src, g.red, l.1⟩

/-- A source's change of routes and trees: made now where it stands between batches, else kept for its next batch boundary, with what still
waits for it (R146). -/
def queueSwitch (p : Nat) (x : Switch) : Act := fun s =>
  let was := (s.job p).switches.filter fun y => y.stage == x.stage && y.rep == x.rep
  let y := { x with loads := (was.flatMap Switch.loads).filter (fun l => !x.loads.any fun m => m.1 == l.1) ++ x.loads
                    old := was.flatMap Switch.old ++ x.old }
  if y.loads.isEmpty && y.old.isEmpty then []
  else seqA [modJob p fun j => { j with switches := j.switches.filter (fun z => !(z.stage == x.stage && z.rep == x.rep)) ++ [y] }, switchIdle p] s

/-- R146, R196 step 5: routes and trees follow the placement in force: changed families get new TREE numbers, and their sources change to
them, reload PARAM ROUTE and send MARKERs on the old trees at their next batch boundary. DEDUCED (log entry 201): the trees of a family that
crosses parts change with their numbers kept. -/
def retree (p : Nat) : Act := fun s =>
  let j := s.job p
  let far := farFams s j.addr j.stages j.holders (s.nParts p)
  let base := j.plan.allFams s p j.addr j.stages 0 far (s.slice p) (s.rank p)
  let m := mergeFams s p j.fams (base ++ j.copyFams base)
  let gone := j.fams.filter fun g => !m.1.contains g
  let keep := (gone.filter fun g => 0x8000 ≤ g.base).map TreeFam.base
  let srcs := (gone.map fun g => (g.stage, g.rep)) ++ (j.reps ++ j.swap.elim [] Swap.copies).map fun r => (r.stage, r.rep)
  seqA [modJob p fun x => { x with fams := m.1, treeDue := m.2.2, reps := x.reps.map fun r => { r with tree := treeOf m.1 r } },
    forA (gone.filter fun g => keep.contains g.base) fun g => forA (famOld p g) fun o => clearTree o.tree p,
    withA (fun s => treeTable s p (m.2.1 ++ m.1.filter fun f => keep.contains f.base)) (fun t => forA t fun e => eff fun _ => .treeTab e.1 e.2),
    forA srcs.dedup fun k => fun s =>
      let rs := ((s.job p).reps ++ ((s.job p).swap.elim [] Swap.copies)).filter fun r => r.stage == k.1 && r.rep == k.2
      queueSwitch p ⟨k.1, k.2, rs.flatMap (s.newRoutes p),
        (gone.filter fun g => g.stage == k.1 && g.rep == k.2 && decide (g.base < 0x8000)).flatMap (famOld p)⟩ s,
    switchIdle p] s

/-- Passages held for want of a replica go on (R196, R245); segments held for selections that are sent now are released (R238). -/
def resumeHeld (p : Nat) : Act := fun s =>
  seqA [forA (s.partDies p) fun d => seqA [modDie d fun x => { x with sb := x.sb.map fun y => { y with noRep := false } },
      withA (fun s => (s.die d).routers) fun rs => forA rs fun r =>
        seqA [modDie d fun x => x.setRouter { x.router r.stage r.rep with waits := [] },
          forA r.waits fun w => seqA [dispatchSel d r.stage r.rep w, releaseHeld d r.stage r.rep w.idx]]],
    forA (s.live.filter fun i => (s.passage i).part == p && (s.passage i).hold == 3) settleHold] s

/-- Items held at the tile left, with their input, are queued at the spare, seeded with the milestone value read now (R52); the input
of items to come follows. -/
def giveHeld (b : Rebind) : Act := fun s =>
  let old := s.core (.tile b.old)
  seqA [modCore (.tile b.spare) fun c => old.keepIns { c with queue := c.queue ++ b.items.map fun x =>
      { x.1 with wx := (s.cell b.spare).wx, mile := s.mile, input := some x.2 } },
    modCore (.tile b.old) fun c => { c with ins := [] }] s

/-- The work items of logical array a of a replica, with their input: those its rebind keeps, or those of its tile. -/
def State.heldOf (s : State) (p : Nat) (r : Replica) (t : TileId) (a : Nat) : List (WorkItem × List TileIn) :=
  match (s.job p).rebinds.find? fun b => b.stage == r.stage && b.rep == r.rep && b.arr == a with
  | some b => b.items
  | none => s.heldWork t

/-- R196, R197 order 3: the work of a replica about to be dropped goes to another replica of its stage on this part: the items on its
scoreboard, what its tiles held, and its router's selections. With none here it is told to the replicas of other parts. -/
def moveWork (p : Nat) (r : Replica) : Act := fun s =>
  let d := r.anchor.d.val
  let its := (s.die d).sb.filter fun x => x.stage == r.stage && x.rep == r.rep
  let rr := (s.die d).router r.stage r.rep
  let buf := (s.die d).dispBuf.filter fun x => x.stage == r.stage && x.rep == r.rep
  seqA [modDie d fun x => { x with
      sb := x.sb.filter fun y => !(y.stage == r.stage && y.rep == r.rep)
      batches := x.batches.filter fun y => !(y.stage == r.stage && y.rep == r.rep)
      routers := x.routers.filter fun y => !(y.stage == r.stage && y.rep == r.rep)
      dispBuf := x.dispBuf.filter fun y => !(y.stage == r.stage && y.rep == r.rep) },
    match (s.freeRep p r.stage (some r.rep)).or (s.leastLoaded ((s.repsOf p r.stage).filter fun q => q.rep != r.rep)) with
    | none => forA its fun x => emit (.ctl "ITEM_MOVED" d p r.stage x.idx)
    | some q => seqA [modDie q.anchor.d.val fun x =>
          let qr := x.router q.stage q.rep
          let y := { x with
            sb := x.sb ++ its.map fun z => { z with rep := q.rep, phase := if z.phase = 2 then 2 else 0 }
            dispBuf := x.dispBuf ++ buf.map fun z => { z with rep := q.rep } }
          if rr.queue.isEmpty ∧ rr.waits.isEmpty then y
          else y.setRouter { qr with
            queue := qr.queue ++ rr.queue, waits := qr.waits ++ rr.waits, past := qr.past ++ rr.past ++ [⟨rr.bat, rr.cap, rr.used⟩] },
        forA (r.tiles.zip q.tiles).zipIdx fun x => seqA [
          giveHeld ⟨x.1.1, x.1.2, q.stage, q.rep, x.2, 0, 0,
            (s.heldOf p r x.1.1 x.2).map fun w => ({ w.1 with rep := q.rep }, w.2), false, none, none⟩,
          modCore (.tile x.1.2) fun c => { c with psums := c.psums ++ (s.core (.tile x.1.1)).psums }]]] s

/-- The tiles of a replica and of its new copy in a swap, all free again. -/
def freeReplica (p : Nat) (r : Replica) : Act := fun s =>
  forA (r.tiles ++ ((s.job p).swap.elim [] fun w => (w.copies.filter fun c => c.stage == r.stage && c.rep == r.rep).flatMap Replica.tiles))
    (fun t => seqA [dropTile t, freeTile t 0]) s

/-- R197 order 4: the replica's logical arrays move to the slower tier; its items go to the tier engine. -/
def toTier (p : Nat) (r : Replica) : Act := fun s =>
  let j := s.job p
  match (assignTier (s.tierDies p) j.stages j.tier r.stage).getLast? with
  | none => []
  | some e =>
    seqA [freeReplica p r,
      modJob p fun x => { x.without r.stage r.rep with
        tier := if x.tier.any fun y => y.1 == r.stage then x.tier else x.tier ++ [e]
        degraded := (x.degraded ++ [r.stage]).dedup },
      setFP F.BIL_BIND_STS_DEGRADED p 1, retree p,
      forA ((s.die r.anchor.d.val).sb.filter fun x => x.stage == r.stage && x.rep == r.rep && x.phase == 2) fun x =>
        emit (.ctl "TIER" e.2 p r.stage x.idx)] s

/-- R197 orders 3 and 4, for a replica that finds no spare for tile t. -/
def noSpare (p : Nat) (r : Replica) (t : TileId) : Act := fun s =>
  if 2 ≤ s.nRep p r.stage ∧ (s.stage p r.stage).any Stage.kv = false then
    seqA [moveWork p r, freeReplica p r, dropReplica p r.stage r.rep, retree p, rebindEnd p [(t, none, 3)], resumeHeld p] s
  else seqA [toTier p r, rebindEnd p [(t, none, 4)], resumeHeld p] s

/-- R196 steps 2 and 3, R202: a spare is chosen, bound and queued ahead of rewrites; after three spares that failed, or
without one, orders 3 and 4 of R197. -/
def chooseSpare (p : Nat) (b : Rebind) : Act := fun s =>
  match s.repOf p b.stage b.rep with
  | none => []
  | some r =>
    match if 3 ≤ b.failed then none else s.findSpare p (b.inp.getD (s.costIn p)) r b.old with
    | none => noSpare p r b.old s
    | some x =>
      let r' := { r with tiles := r.tiles.map (fun y => if y == b.old || y == b.spare then x.1 else y)
                         anchor := if r.anchor == b.old || r.anchor == b.spare then x.1 else r.anchor }
      seqA [modRep p b.stage b.rep fun _ => { r' with outOfService := true },
        modJob p fun j => { j with rebinds := j.rebinds.filter (fun y => y.old != b.old) ++
          [{ b with spare := x.1, result := x.2 }] },
        bindTile p r' x.1 b.arr, queueProg ⟨x.1, 1, p, b.stage, b.arr, r.epoch, 0, 0⟩] s

/-- Work items of a batch are on a tile. -/
def State.coreBusy (s : State) (t : TileId) : Bool :=
  let c := s.core (.tile t)
  c.item.isSome || c.second.isSome || !c.secondQ.isEmpty || !c.queue.isEmpty

/-- A logical array leaves its tile, which takes state `st`, for a spare (R196 steps 1–3). -/
def moveArray (p : Nat) (b : Rebind) (st : Nat) : Act := fun s =>
  match s.repOf p b.stage b.rep with
  | none => []
  | some r =>
    let b' := { b with items := s.heldWork b.old, due := none }
    seqA [leaveTile p r b.old st, setF F.TIL_ARR_STS_STATE (tileKey b.old) st,
      modJob p fun j => { j with rebinds := j.rebinds.map fun x => if x.old == b.old then b' else x }, chooseSpare p b'] s

/-- R196, R173: tile t leaves service: its replica at once, and the tile (STATE RETIRED, or UNBOUND where it is forbidden) when no batch runs on
its array any more. -/
def startRebind (t : TileId) (st : Nat) : Act := fun s =>
  match s.replicaAt t with
  | none => []
  | some (p, r, arr) =>
    if (s.job p).rebinds.any fun b => b.old == t then
      modJob p (fun j => { j with rebinds := j.rebinds.map fun b => if b.old == t && b.due.isSome then { b with due := some st } else b }) s
    else
      let b : Rebind := ⟨t, t, r.stage, r.rep, arr, 0, 0, [], false, some st, some (s.costIn p)⟩
      seqA [setFP F.BIL_BIND_STS_REBIND p 1, modRep p r.stage r.rep fun x => { x with outOfService := true },
        modJob p fun j => { j with rebinds := j.rebinds ++ [b] }, whenA (fun s => !s.coreBusy t) (moveArray p b st)] s

/-- R173: rebinds of die d whose tiles have no batch running any more go on. -/
def moveDue (d : Nat) : Act := forA (List.range 16) fun p => fun s =>
  forA ((s.job p).rebinds.filter fun b => b.old.d.val == d) (fun b => forOpt b.due fun st =>
    whenA (fun s => !s.coreBusy b.old) (moveArray p b st)) s

/-- R202, R310, R312: a tile of a new copy that may no longer serve is replaced by a free tile, which is programmed with the copy's epoch
and takes the work the tile held; the copy's wave is DOUBLING until then. Without a free tile it waits. -/
def mendCopy (p : Nat) (t : TileId) : Act := fun s =>
  match (s.job p).swap.bind fun w => (w.copies.find? fun r => r.tiles.contains t).map fun r => (w, r) with
  | none => []
  | some (w, r) =>
    match s.copyTiles p r [] [t] (s.freeTiles p) with
    | some (x :: _) =>
      let a := r.tiles.idxOf t
      let r' := { r with tiles := r.tiles.map (fun y => if y == t then x else y), anchor := if r.anchor == t then x else r.anchor }
      seqA [modJob p fun j => { j with swap := j.swap.map fun w => { w with copies := w.copies.map fun y => if y == r then r' else y } },
        setWave p (w.waveOf.getD r.stage 0xFFFF) 1, freeTile t 0, bindTile p r' x a, giveHeld ⟨t, x, r.stage, r.rep, a, 0, 0, s.heldWork t, false, none, none⟩,
        queueProg ⟨x, 1, p, r.stage, a, r.epoch, 0, 0⟩, retree p] s
    | _ => setWave p (w.waveOf.getD r.stage 0xFFFF) 1 s

/-- A tile of a new copy is retired or forbidden: its work items stay with it until another tile takes its place. -/
def leaveCopy (t : TileId) (st : Nat) : Act := fun s =>
  match (List.range 16).find? fun p => (s.job p).swap.any fun w => w.copies.any fun r => r.tiles.contains t with
  | none => []
  | some p =>
    seqA [dropTile t, modCore (.tile t) fun c => { c.keepIns Core.zero with hard := c.hard, queue := (s.heldWork t).map fun x => { x.1 with input := some x.2 } },
      setF F.TIL_ARR_STS_STATE (tileKey t) st, mendCopy p t] s

/-- R329, R202: a tile is retired: its summary, its state, and a rebind where it held a logical array. A spare of a rebind in
progress is replaced by the next. -/
def retireTile (t : TileId) (cause : Nat) : Act := fun s =>
  let spare := (List.range 16).findSome? fun p => ((s.job p).rebinds.find? fun b => b.spare == t && b.old != t).map fun b => (p, b)
  seqA [modTsum t fun m => { m with retired := true, valid := false, retCause := cause },
    whenA (fun s => (s.replicaAt t).isNone || spare.isSome) (setF F.TIL_ARR_STS_STATE (tileKey t) 4),
    match spare with
    | some (p, b) => seqA [dropTile t, freeTile t 4,
        modJob p fun j => { j with notes := j.notes ++ [⟨0x105, 0xFFFF, packTile t⟩] },
        chooseSpare p { b with failed := b.failed + 1 }]
    | none => seqA [startRebind t 4, leaveCopy t 4]] s

/-- The rebind of which t is the spare. -/
def State.rebindOf (s : State) (t : TileId) : Option (Nat × Rebind) :=
  (List.range 16).findSome? fun p => ((s.job p).rebinds.find? fun b => b.spare == t).map fun b => (p, b)

/-- A change of a partition's routes or trees waits for a batch boundary, for free entries, or for a MARKER round (R146). -/
def State.routesWait (s : State) (p : Nat) : Bool :=
  !(s.job p).switches.isEmpty || (s.job p).treeDue || s.oldTrees.any fun o => o.part == p

/-- R196 step 6: replicas whose spares are all ready return to service once no source waits for a batch boundary and no old tree for its
MARKER round. -/
def finishRebinds (p : Nat) : Act := fun s =>
  let j := s.job p
  if s.routesWait p then []
  else
    let ready := j.rebinds.filter fun b => !j.rebinds.any fun x => x.stage == b.stage && x.rep == b.rep && !x.ready
    forA (ready.map fun b => (b.stage, b.rep)).dedup (fun k =>
      let done := ready.filter fun b => b.stage == k.1 && b.rep == k.2
      seqA [modRep p k.1 k.2 fun r => { r with outOfService := false }, forA done giveHeld,
        rebindEnd p (done.map fun x => (x.old, some x.spare, x.result)), resumeHeld p]) s

/-- R146: a leaf has acknowledged; when every leaf of the old tree has, its entries are cleared, its number is free, and what waited for either
goes on. -/
def execMarkerAck (t : TileId) (tree : BitVec 16) (part : Fin 64) (s : State) : Host.Outcome State Fault Refusal :=
  runAct (fun s =>
    match s.oldTrees.find? fun o => o.tree == tree.toNat && o.part == part.val && o.leaves.any fun x => x.t == t with
    | none => []
    | some o =>
      let left := o.leaves.eraseP fun x => x.t == t
      let rest := s.oldTrees.filter fun x => x != o
      if left.isEmpty then seqA [eff fun _ => .oldTrees rest, clearTree tree.toNat part.val,
        whenA (fun s => (s.job part.val).treeDue) (retree part.val), finishRebinds part.val] s
      else [.oldTrees (rest ++ [{ o with leaves := left }])]) s

/-- R196 step 5: routes and trees follow a replica's spares, and where its anchor has left its die the windows of the partition. -/
def respare (p stage rep : Nat) : Act := fun s =>
  let done := (s.job p).rebinds.filter fun x => x.stage == stage && x.rep == rep
  seqA [retree p, whenA (fun _ => done.any fun x => x.arr == 0 && x.old.d != x.spare.d) (fun s =>
    seqA [forA (s.partWins p) fun i => windowChange i Win.zero,
      addWindows (regionWindows (s.job p).reps (s.job p).tier
        (sortKey (fun r => (r.stage, r.rep, 0, 0)) (s.job p).regions))] s)] s

/-- R196 steps 5 and 6: the spare of a rebind is programmed and calibrated. When every spare of the replica is ready, routes and trees change,
and the replica returns to service. -/
def execRebindSpareReady (t : TileId) (s : State) : Host.Outcome State Fault Refusal :=
  runAct (fun s =>
    match s.rebindOf t with
    | none => []
    | some (p, b) =>
      if b.due.isSome = true ∨ b.old = b.spare ∨ s.arrState t ≠ 1 ∨ (s.die t.d.val).progQ.any (fun q => q.tile == t) = true ∨
          (s.die t.d.val).progNow.any (fun q => q.tile == t) = true ∨
          (s.die t.d.val).calDue.any (fun q => q.tile == t) = true ∨ (s.die t.d.val).calNow.any (fun q => q.tile == t) = true then []
      else
        let rest := (s.job p).rebinds.any fun x => x.stage == b.stage && x.rep == b.rep && x.old != b.old && !x.ready
        seqA [modJob p fun j => { j with rebinds := j.rebinds.map fun x => if x.old == b.old then { x with ready := true } else x },
          if rest then skip else seqA [respare p b.stage b.rep, finishRebinds p]] s) s

/-! ## Forbids (R181, R203) -/

/-- A write of BIL_FORBID: a tile of the die joins or leaves the forbid set; a bound tile is rebound. -/
def forbidCmd (src : Src) (d : Fin 32) (v : Word) : Act := guardW src .bil d.val 0x228 fun s =>
  let set := bitsOf v 1 1
  if bitsOf v 0 0 = 0 ∨ 16 ≤ s.part d.val then []
  else match tileAt d.val (F.BIL_FORBID_X.of v) (F.BIL_FORBID_Y.of v) with
  | none => []
  | some t =>
    let l := (s.die d.val).forbid.filter fun x => x != t
    let l' := if set = 1 then l ++ [t] else l
    let was := (s.die d.val).forbid.contains t
    seqA [modDie d.val fun x => { x with forbid := l' }, setF F.BIL_FORBID_CNT_COUNT d.val l'.length,
      whenA (fun _ => set == 1 && !was) (seqA [modTsum t fun m => { m with valid := false },
        match s.rebindOf t with
        | some (p, b) => if b.old = t then skip
            else seqA [dropTile t, freeTile t 0, chooseSpare p b]
        | none => seqA [startRebind t 0, leaveCopy t 0]])] s

/-- R181: BIL_FORBID with SET 1. -/
def hostForbidSet (src : Src) (d : Fin 32) (v : Word) : Act := fun s =>
  (forbidCmd src d v) s

/-- ForbidSet: the command of its row. -/
def execForbidSet (src : Src) (d : Fin 32) (v : Word) (s : State) : Host.Outcome State Fault Refusal :=
  runAct (hostForbidSet src d v) s

/-- R181, R202: BIL_FORBID with SET 0: the tile becomes a spare; nothing moves back. -/
def hostForbidClear (src : Src) (d : Fin 32) (v : Word) : Act := fun s =>
  (forbidCmd src d v) s

/-- ForbidClear: the command of its row. -/
def execForbidClear (src : Src) (d : Fin 32) (v : Word) (s : State) : Host.Outcome State Fault Refusal :=
  runAct (hostForbidClear src d v) s

end Sys2Proof.Machine
end

