-- ==== Sys2Proof/Machine/Tier.lean ====
section
/-!
DEFINITION. The end of a work item (R107), and the tier engine's contexts and main datapath (R274–R277).
-/
namespace Sys2Proof.Machine

/-! ## The end of a work item (R107) -/

/-- A work item has left a tile: sources at a batch boundary change routes (R146), and a rebind that waited for the batch goes on (R173). -/
def itemGone (c : CoreId) : Act := seqA [withA (fun s => s.part (coreDie c)) switchIdle, moveDue (coreDie c)]

/-- R107: the work item is complete; its drive buffer is free. -/
def execDone (c : CoreId) (s : State) : Host.Outcome State Fault Refusal :=
  runAct (onRun c fun k => seqA [match k.item with
      | some w => reportDone w
      | none => skip,
    match c with
      | .tile _ => seqA [modCore c Core.endItem, nextPc c]
      | .ctx d _ => seqA [bump F.STK_TIER_ITEM_ITEMS d.val 1, freeCtx c], itemGone c]) s

/-- R107: the work item failed with a code, which goes with the report to its scheduler. DEDUCED (log entry 17): R223 names no status
for it; TILE_SEQ is taken. -/
def execFail (c : CoreId) (code : BitVec 8) (s : State) : Host.Outcome State Fault Refusal :=
  runAct (onRun c fun k => seqA [match k.item with
      | some w => seqA [emit (.ctl "FAIL" (coreDie c) w.part w.handle.toNat code.toNat), failItem c w 1]
      | none => skip,
    match c with
      | .tile _ => seqA [modCore c Core.endItem, nextPc c]
      | .ctx _ _ => freeCtx c, itemGone c]) s

/-! ## Contexts (R274, R276) -/

/-- Work in context k of die d's tier engine. -/
def State.tierJob (s : State) (d k : Nat) : Option TierJob := SMap.get (fun _ => none) (s.die d).tier k

/-- A work item of the tier engine of die d for logical array a of a stage replica. -/
def State.tierItem (s : State) (d p i stage rep a : Nat) (st : Stage) (x : SbItem) (rcd : Nat) : WorkItem :=
  let q := s.passage i
  { handle := q.handle, stage := stage, rep := rep, arr := a, retry := false
    seg2 := decide (2 * (a / st.nOut) + 1 < st.nIn), spills := false, mile := x.bmile, buf := 0, step := x.step
    epoch := q.epoch, part := p, job := q.job, rcp := x.rcp, rng := s.rngOf p stage a
    wx := s.num (rcd + 0x40400) 1, seed := q.seed, destRep := s.destRep p i st, gate := x.gate
    nPsum := expectPsum st a x.exp, moved := none, input := none }

/-- A context starts the stage's tile program on a work item: program, constants, routes, gains, input (R276). Partial sums that reached
the context before come with it, and those of the tile it stands in for (R321, R353). -/
def startCtx (d : Fin 32 × Fin 16) (prio p : Nat) (w : WorkItem) (st : Stage) (rcd : Nat) (input : List Byte)
    (from_ : Option TileId) : Act := fun s =>
  let c := CoreId.ctx d.1 d.2
  let ps := (from_.elim [] fun t => (s.core (.tile t)).psums.filter fun x => x.1 == w.handle) ++ (s.core c).psums
  let j := s.job p
  let e := s.progEntry j.addr st.prog
  seqA [putBytes (coreBase c) (padTo 4096 (s.bytes (s.progSect j.addr + s.num e 4) (4 * s.num (e + 4) 2))),
    putBytes (coreBase c + 0x1000) (List.replicate 64 0 ++ j.plan.routeBytes s j.addr j.stages j.fams w.stage w.rep w.arr ++
      s.bytes (e + 0x10) 64 ++ List.replicate 64 0),
    putBytes (coreBase c + 0x1100) (s.bytes (rcd + 0x40000) 1024), putBytes (coreBase c + 0x1600) (padTo 1536 input),
    modCore c fun _ => { Core.zero with st := 1, bound := some (w.stage, w.rep, w.arr), queue := [w], psums := ps },
    forOpt from_ fun t => modCore (.tile t) fun k => { k with psums := k.psums.filter fun x => x.1 != w.handle },
    modDie d.1.val fun x => { x with
      tier := SMap.set (fun _ => none) x.tier d.2.val (some ⟨prio, w.stage, w.arr, w, false, 0, 0⟩) }] s

/-- The drive buffer that segments with their outlier lists fill. -/
def driveImage (fmt : Nat) (segs : List (List Byte)) : List Byte :=
  let n := fun (x : List Byte) => if 536 ≤ x.length then 528 else fmtSeg fmt
  let seg := fun i => let x := segs.getD i []; padTo 528 (x.take (n x))
  let lst := fun i => let x := segs.getD i []; padTo 136 (x.drop (n x))
  seg 0 ++ seg 1 ++ lst 0 ++ lst 1

/-- R274, R276: a work item reaches a free context of die d's tier engine: the checker's from the tile that holds its event,
the others from the scoreboard that dispatched them. -/
def execTierWork (d : Fin 32) (k : Fin 16) (prio : Fin 5) (stage : BitVec 16) (arr : BitVec 24) (idx : Fin 1048576)
    (segs : List (List Byte)) (s : State) : Host.Outcome State Fault Refusal :=
  runAct (fun s =>
    let p := s.part d.val
    let i := idx.val
    match s.stage p stage.toNat with
    | none => []
    | some st =>
      if s.power.gated = true ∨ (s.tierJob d.val k.val).isSome ∨ (s.die d.val).tierFaulty = true ∨ (s.passage i).open_ = false ∨ st.nArr ≤ arr.toNat then []
      else if prio.val = 2 then
        match s.opinionFor p i stage.toNat arr.toNat with
        | none => []
        | some (t, h) => match s.recordOf h.item with
          | none => []
          | some rcd => startCtx (d, k) 2 p { h.item with mile := s.mile, retry := false, buf := 0 } st rcd h.input (some t) s
      else if prio.val = 3 ∨ prio.val = 4 then
        match (s.partDies p).findSome? fun e => (s.die e).sb.find? fun x => x.idx == i && x.stage == stage.toNat && x.phase == 2 with
        | none => []
        | some x =>
          match s.shadowOf p stage.toNat (s.passage i).epoch with
          | none => []
          | some sh =>
            let rcd := sh.base + arr.toNat * 263232
            let w := s.tierItem d.val p i stage.toNat x.rep arr.toNat st x rcd
            startCtx (d, k) prio.val p w st rcd (driveImage w.rcp.inFmt segs)
              (if prio.val = 3 then (s.repOf p stage.toNat x.rep).bind fun r => r.tiles[arr.toNat]? else none) s
      else []) s

/-- Contexts of die d whose MVMs wait for the main datapath, in the order of R276. -/
def State.waitingCtx (s : State) (d : Nat) : List (Nat × TierJob) :=
  sortKey (fun x => (x.2.prio, x.2.ord, x.1, 0))
    ((s.die d).tier.filterMap fun x => (x.2.filter TierJob.want).map fun j => (x.1, j))

/-- The logical array a waiting MVM names. -/
def TierJob.key (j : TierJob) : Nat × Nat × Nat := (j.stage, j.arr, j.item.epoch)

/-- The datapath gives a context its MVM's columns, exactly, or a residue event of the engine (R43); a word of the record that cannot be corrected ends the item
(R325), or leaves the checker without this second opinion. -/
def ctxDone (d : Fin 32) (bad res : Bool) (x : Nat × TierJob) : Act := fun s =>
  let c := CoreId.ctx d ⟨x.1 % 16, Nat.mod_lt _ (by decide)⟩
  let w := x.2.item
  match s.recordOf w, (s.core c).mvm with
  | some a, some m =>
    if bad || s.poisoned a 263232 then ctxBad d x.1 a s
    else seqA [modDie d.val fun y => { y with tier := SMap.set (fun _ => none) y.tier x.1 (some { x.2 with want := false }) },
      if res then seqA [modCore c fun k => { k with mvm := none }, residueEvent c (unitDigital c) false]
        else modCore c fun k => { (k.hit 1) with
          mvm := none, mvmRes := some ⟨s.exactCols a m.drives, scaleOf k.work m⟩, readBuf := some m.buf }] s
  | _, _ => []

/-- The logical array the main datapath works on: the one it had taken, or that of the first waiting context. -/
def State.tierTaken (s : State) (d : Nat) : Option (Nat × Nat × Nat) :=
  let first := (s.waitingCtx d).head?.map fun (x : Nat × TierJob) => x.2.key
  match (s.die d).tierNow with
  | some k => if (s.waitingCtx d).any (fun (x : Nat × TierJob) => x.2.key == k) then some k else first
  | none => first

/-- R276: two MVMs name an array within 64 NOC cycles, 32 MILE cycles, of one another. -/
def TierJob.near (a b : TierJob) : Bool := decide (a.since - b.since ≤ 32#64) || decide (b.since - a.since ≤ 32#64)

/-- R43, R276, R277: the main datapath finishes a logical array for the contexts that share its read, and takes the next; `res` is a
context in whose columns a residue does not match. DEDUCED (log entry 29): the contexts that share the read are those whose MVMs came
within 64 NOC cycles of that of the first. -/
def execTierArrayDone : Fin 32 → ArrRead → State → Host.Outcome State Fault Refusal
  | d, ⟨ecc, res⟩, s =>
  runAct (fun s =>
    match s.tierTaken d.val with
    | none => modDie d.val (fun x => { x with tierNow := none }) s
    | some k =>
      let named := (s.waitingCtx d.val).filter fun (x : Nat × TierJob) => x.2.key == k
      let mine := named.filter fun (x : Nat × TierJob) => named.head?.any fun (y : Nat × TierJob) => TierJob.near x.2 y.2
      let rest := (s.waitingCtx d.val).filter fun (x : Nat × TierJob) => !mine.any fun (y : Nat × TierJob) => y.1 == x.1
      seqA [bumpW F.STK_TIER_WGT_COUNT d.val (2 ^ 19),
        forOpt (mine.findSome? fun x => s.recordOf x.2.item) fun a => seqA [engineRead d.val a 263232, eccRead a 0x40408 ecc],
        forA mine fun x => ctxDone d (decide (ecc = Ecc.uncorrectable)) (res.any fun k => k.val == x.1) x,
        modDie d.val fun x => { x with tierNow := rest.head?.map fun y => y.2.key }] s) s

end Sys2Proof.Machine
end

