-- ==== Sys2Proof/Machine/Checker.lean ====
section
/-!
DEFINITION. The checker (R320–R323), the unit history (R326–R331) and test runs (R332–R335).
-/
namespace Sys2Proof.Machine

/-! ## The unit history (R327–R329) -/

/-- The last three of a list of POS values with one more. -/
def last3 (l : List Nat) (pos : Nat) : List Nat := (l ++ [pos]).drop ((l.length + 1) - 3)

/-- R329: three events within 24 hours. -/
def threeIn24 (l : List Nat) : Bool := l.length == 3 && decide (l.getD 2 0 ≤ l.getD 0 0 + 86400)

/-- Retire a tile, with its RETIRE record (R327, R329). -/
def retireNow (t : TileId) (cause : Nat) : Act := fun s =>
  if (s.tsum t).retired then []
  else seqA [retireTile t cause, histRing (plainRec s (unitTile 0 t) 6 0xFFFF cause)] s

/-- A tile is in a calibration attempt or under test, or its array runs an MVM or pass (R120). -/
def State.inRun (s : State) (t : TileId) : Bool :=
  (s.die t.d.val).calNow.any (fun c => c.tile == t) || (s.core (.tile t)).testRet.isSome || s.arrBusy t

/-- Retire a tile on the Keeper's decision: at once, or at the end of its run, pass or MVM (R120, R329, R336). -/
def keeperRetire (t : TileId) (cause : Nat) : Act := fun s =>
  if s.inRun t then (if s.keeper.retWait.any (fun x => x.1 == t) then [] else
    modKeeper (fun x => { x with retWait := x.retWait ++ [(t, cause)] }) s)
  else retireNow t cause s

/-- R336: a retirement that waited for a tile's run or pass is carried out. -/
def retireDue (t : TileId) : Act := fun s =>
  if s.keeperUp = false then []
  else forOpt (s.keeper.retWait.find? fun x => x.1 == t) (fun x => seqA [
    modKeeper fun k => { k with retWait := k.retWait.filter fun y => y.1 != t }, retireNow t x.2]) s

/-- R329: a tier engine is marked FAULTY: its spills, slower-tier stages and the work of its contexts move to the engine of the
nearest die of each partition, which takes each item afresh. -/
def tierFault (d : Nat) : Act := fun s =>
  if (s.die d).tierFaulty then []
  else
    seqA [modDie d fun x => { x with tierFaulty := true }, histRing (plainRec s (unitTier d) 8 0xFFFF 0),
      withA (fun s => s.engineFor d) fun e => forOpt e fun e => seqA [
        fun s => modDie e (fun x => { x with spillQ := x.spillQ ++ (s.die d).spillQ }) s,
        modDie d fun x => { x with spillQ := [] },
        withA (fun s => s.part d) fun p => whenA (fun _ => decide (p < 16)) (modJob p fun j => { j with
          tier := j.tier.map fun y => if y.2 = d then (y.1, e) else y }),
        forA (List.finRange 16) fun k => freeCtx (.ctx (fin32 d) k), modDie d fun x => { x with tierNow := none },
        emit (.ctl "TIER_MOVED" e (s.part d) d 0)]] s

/-- Events of a unit in the history that count toward R329, newest three. -/
def State.unitEvents (s : State) (u : Word32) : List Nat :=
  let l := (s.nvm.uhist.filter fun r => r.unit == u && (r.kind == 3 || r.kind == 5)).map HistRec.pos
  l.drop (l.length - 3)

/-- R329: what a record that counts leads to. -/
def countEvent (r : HistRec) : Act := fun s =>
  let pos := s.nvm.pos
  match unitTileOf r.unit with
  | some (k, t) =>
    let m := s.tsum t
    let f := fun l => last3 l pos
    if k = 0 ∧ (r.kind = 1 ∨ r.kind = 7) then
      seqA [modTsum t fun m => { m with arrT := f m.arrT }, whenA (fun _ => threeIn24 (f m.arrT)) (keeperRetire t 1)] s
    else if k = 1 ∧ (r.kind = 2 ∨ r.kind = 7) then
      seqA [modTsum t fun m => { m with chkT := f m.chkT }, whenA (fun _ => threeIn24 (f m.chkT)) (keeperRetire t 2)] s
    else if k = 2 ∧ (r.kind = 3 ∨ r.kind = 5 ∨ r.kind = 7) then
      seqA [modTsum t fun m => { m with digT := f m.digT }, whenA (fun _ => threeIn24 (f m.digT)) (keeperRetire t 3)] s
    else if r.kind = 10 then keeperRetire t 6 s
    else []
  | none =>
    let n := r.unit.toNat / 2 ^ 28
    let three := threeIn24 (s.unitEvents r.unit)
    if three = false ∨ (r.kind ≠ 3 ∧ r.kind ≠ 5) then []
    else if n = 3 then tierFault (r.unit.toNat / 2 ^ 22 % 64) s
    else if n = 4 ∨ n = 5 then histRing { r with kind := 8, detail := 0 } s
    else []

/-- R327, R329: Keeper firmware records an event against a unit, with the retirement or mark it leads to. -/
def keeperRecord (r : HistRec) : Act := seqA [histRing r, countEvent r]

/-- A record of a die: recorded by the Keeper, or held by the die's checker while the Keeper is down (R331). -/
def dieRecord (d : Nat) (r : HistRec) : Act := fun s =>
  if s.keeperUp then seqA [chkLast d r, keeperRecord r] s
  else chkReport d r s

/-- R329: Keeper firmware records the event of a checker's report. -/
def execUnitHistoryRecord (unit : Word32) (kind : BitVec 8) (flags : BitVec 8) (stage : BitVec 16) (handle detail : Word32)
    (s : State) : Host.Outcome State Fault Refusal :=
  runAct (fun s => if s.keeperUp then
    keeperRecord ⟨unit, kind.toNat, flags.toNat, stage.toNat, s.mile, 0, handle, detail⟩ s else []) s

/-! ## Due arrays (R343, R345) -/

/-- An array becomes due for calibration under a trigger (0 START, 1 DEMAND, 2 TEMP, 3 PERIOD); one that is due already, or in CAL, does
not become due again, but START takes the place of another trigger. -/
def calAsk (t : TileId) (cls : Nat) (delta : Int) : Act := fun s =>
  let d := t.d.val
  let x := s.die d
  if (s.core (.tile t)).bound.isNone ∨ x.calNow.any (fun c => c.tile == t && (c.cls == 0 || cls != 0)) = true ∨
      x.calDue.any (fun c => c.tile == t && (c.cls == 0 || cls != 0)) = true then []
  else if x.calNow.any (fun c => c.tile == t) = true then seqA [bump F.CAL_TRIG_START d 1,
    modDie d fun x => { x with calNow := x.calNow.map fun c => if c.tile == t then { c with cls := 0 } else c }] s
  else seqA [bump ([F.CAL_TRIG_START, F.CAL_TRIG_DEMAND, F.CAL_TRIG_TEMP, F.CAL_TRIG_PERIOD].getD cls F.CAL_TRIG_START) d 1,
    modDie d fun x => { x with
      calDue := (x.calDue.filter fun c => c.tile != t) ++ [⟨t, cls, delta, x.sbOrd⟩], sbOrd := x.sbOrd + 1 }] s

/-! ## Second opinions (R320–R323) -/

/-- Change the held events of a tile. -/
def modHard (t : TileId) (f : List HardEvt → List HardEvt) : Act := modCore (.tile t) fun k => { k with hard := f k.hard }

/-- The unit an event is charged to, and its flags (R323, R327). -/
def hardUnit (t : TileId) (h : HardEvt) (kind : Nat) : Nat :=
  if h.residue then h.unit.toNat else unitTile kind t
def hardFlags (h : HardEvt) : Nat := h.halves + (if 2 ≤ h.phase then 4 else 0) + (if h.opass then 8 else 0)

/-- No sound second result: the passage is FAULTED with CHECKER, UNRESOLVED is recorded. -/
def unresolved (t : TileId) (h : HardEvt) : Act := fun s =>
  let d := t.d.val
  let w := h.item
  seqA [bump F.CHK_HARD_UNRESOLVED d 1,
    chkReport d (s.histRec (hardUnit t h 0) 4 (hardFlags h) (some w) 0), modHard t fun l => l.erase h,
    endHandle d w.handle 9,
    modDie (s.sbDie w) fun x => { x with sb := x.sb.filter fun y => !y.is (idxOf w.handle) w.stage w.rep }] s

/-- R321: the tier engine is asked for the second opinion; a partition without one leaves none. -/
def askTier (t : TileId) (h : HardEvt) : Act := fun s =>
  match s.engineFor t.d.val with
  | none => unresolved t h s
  | some e => seqA [bump F.CHK_SECOND_TIER t.d.val 1,
      modHard t fun l => l.map fun x => if x == h then { x with phase := if h.phase = 1 then 3 else 2 } else x,
      emit (.ctl "OPINION" e h.item.part h.item.stage (idxOf h.item.handle))] s

/-- R321: a replica that may give the second opinion on an item of tile t. -/
def State.opinionRep (s : State) (d : Nat) (w : WorkItem) : Option (Replica × TileId) :=
  match s.stage w.part w.stage with
  | none => none
  | some st =>
    if st.nArr = 1 ∧ st.kv = false ∧ s.fld F.CHK_CFG_TIER_ONLY d = 0 then
      (s.freeRep w.part w.stage (some w.rep)).bind fun r => r.tiles.head?.map fun t => (r, t)
    else none

/-- R108, R321: the item moves to the reserved place of the replica's tile, with its input; a tile in FAULT abandons it (R111). -/
def moveToRep (t : TileId) (h : HardEvt) (r : Replica) (o : TileId) : Act := fun s =>
  let w := h.item
  let w' := { w with rep := r.rep, moved := some t, mile := s.mile, retry := false, wx := (s.cell o).wx, input := some (inHalves h.input) }
  let od := s.sbDie w
  let it := (s.die od).sb.find? fun y => y.is (idxOf w.handle) w.stage w.rep
  seqA [bump F.CHK_SECOND_REPLICA t.d.val 1,
    modHard t fun l => l.map fun x => if x == h then { x with phase := 1 } else x,
    modDie od fun x => { x with sb := x.sb.filter fun y => !y.is (idxOf w.handle) w.stage w.rep },
    forOpt it fun y => modDie r.anchor.d.val fun x => { x with sb := x.sb ++ [{ y with rep := r.rep }] },
    modCore (.tile o) fun k => if k.second.isNone then { k with second := some w' } else { k with secondQ := k.secondQ ++ [w'] },
    whenA (fun s => (s.core (.tile o)).st == 3) (abandonQueue (.tile o))] s

/-- R320: tile t's oldest hard event that waits for its die's checker. An event of an item moved here as a second opinion
sends the item on to the tier engine. -/
def execCheckerHardReport (t : TileId) (s : State) : Host.Outcome State Fault Refusal :=
  runAct (fun s =>
    match (s.core (.tile t)).hard.find? fun h => h.phase == 0 with
    | none => []
    | some h =>
      match h.item.moved with
      | some t0 =>
        match (s.core (.tile t0)).hard.find? fun g => g.phase == 1 && g.item.handle == h.item.handle with
        | some g => seqA [modHard t fun l => l.erase h, askTier t0 g] s
        | none => seqA [modHard t fun l => l.erase h, endHandle t.d.val h.item.handle 9] s
      | none =>
        match s.opinionRep t.d.val h.item with
        | some (r, o) => moveToRep t h r o s
        | none => askTier t h s) s

/-- R322: a_s agrees with a_o. -/
def State.agree (s : State) (t : TileId) (h : HardEvt) (o : List Int) : Bool :=
  let tol := agreeTol (s.chkK t.d.val) h.rng (s.temp t.d.val (nearSns t)) h.planes (if h.phase = 1 then 1414 else 1000)
  [0, 1].all fun k => decide (((halfSum h.cols k - halfSum o k).natAbs : Int) ≤ tol)

/-- R320, R322, R323: the second opinion on tile t's work item ends. One the tier engine could not give, its shadow unreadable, is
asked of a replica where R321 allows one (R336). -/
def execSecondOpinionDone (t : TileId) (result : Option (List Int)) (s : State) : Host.Outcome State Fault Refusal :=
  runAct (fun s =>
    match (s.core (.tile t)).hard.find? fun h => h.phase != 0 with
    | none => []
    | some h =>
      let d := t.d.val
      let rec_ := fun (kind unit : Nat) (f : Fld) => seqA [bump f d 1,
        chkReport d (s.histRec unit kind (hardFlags h) (some h.item) (if h.residue then 0 else h.delta)),
        modHard t fun l => l.erase h]
      match result with
      | none => match if h.phase = 4 then s.opinionRep d h.item else none with
        | some (r, o) => moveToRep t h r o s
        | none => unresolved t h s
      | some o =>
        if h.residue then rec_ 3 h.unit.toNat F.CHK_HARD_DIGITAL s
        else if s.agree t h o then rec_ 2 (unitTile 1 t) F.CHK_HARD_CHECK s
        else rec_ 1 (unitTile 0 t) F.CHK_HARD_ARRAY s) s

/-! ## Soft counts (R330) -/

/-- R330: one tile's rise in soft events is counted over the last 3,600 power-on seconds, and may ask for a calibration. -/
def softCount (d k n : Nat) : Act := fun s =>
  let pos := s.nvm.pos
  let lim := s.fld F.CHK_CFG_SOFT_CAL d
  let win := ((SMap.get (fun _ => []) s.keeper.softWin k).filter fun x => pos < x.1 + 3600) ++ [(pos, n)]
  let last := SMap.get (fun _ => 0) s.keeper.calReqAt k
  let ask := lim != 0 && decide (lim ≤ (win.map Prod.snd).sum) && (last == 0 || decide (last - 1 + 3600 ≤ pos))
  seqA [modKeeper fun x => { x with softWin := SMap.set (fun _ => []) x.softWin k win },
    whenA (fun _ => ask) (forOpt (tileAt (k / 8448) (k % 128) (k % 8448 / 128)) fun t => seqA [
      modKeeper fun x => { x with calReqAt := SMap.set (fun _ => 0) x.calReqAt k (pos + 1) },
      calAsk t 1 0, keeperRecord (plainRec s (unitTile 0 t) 13 0xFFFF 0)])] s

/-- R330: die d's report of the tiles whose soft counts rose; held while the Keeper is down (R331). DEDUCED (log entry 138): a
retirement whose run or pass was abandoned meanwhile is carried out now. -/
def execSoftReport (d : Fin 32) (s : State) : Host.Outcome State Fault Refusal :=
  runAct (fun s =>
    if s.keeperUp then
      let l := (s.die d.val).softUp
      seqA [modDie d.val fun x => { x with softUp := [] },
        forA l.dedup fun k => softCount d.val k (l.countP fun x => x == k),
        forA (s.keeper.retWait.filter fun x => x.1.d == d && !s.inRun x.1) fun x => retireDue x.1, moveDue d.val] s
    else []) s

/-! ## Test runs (R333, R335) -/

/-- A pattern of the installed pack: KIND and SELECT. -/
def State.pattern (s : State) (i : Nat) : Option (Nat × Nat) :=
  let b := s.nvm.tpack
  if i < leAt b 0x10 2 then some (leAt b (128 + 32 * i) 1, leAt b (128 + 32 * i + 8) 4 % 64) else none

/-- Tiles of a die under test. -/
def State.testing (s : State) (d : Nat) : Nat :=
  s.cores.countP fun k => k.1 < 1048576 && k.1 / 8448 == d && k.2.testRet.isSome

/-- The targets of a KIND (R333). -/
def State.testTarget (s : State) (t : TileId) (kind : Nat) : Bool :=
  let bound := (s.core (.tile t)).bound.isSome
  if kind ≤ 2 then bound && s.shownState t == 1 else if kind = 3 then !bound && s.shownState t == 0 else s.shownState t ≤ 1

/-- R335: the MVMs of pattern i of the installed pack: its pairs of input segments, aligned with ALIGN_EXT 0, and the reserved codes the
alignment unit finds (R551). -/
def State.testMvms (s : State) (i : Nat) : List (MvmOp × Nat) :=
  let b := s.nvm.tpack
  let e := 128 + 32 * i
  let fmt := leAt b (e + 1) 1
  let n := fmtSeg fmt
  if leAt b e 1 = 1 ∨ leAt b e 1 = 2 then (List.range (leAt b (e + 16) 4 / max 1 (2 * n))).map fun j =>
    let q := b.drop (leAt b (e + 12) 4 + 2 * n * j)
    let x := decSeg fmt q
    let y := decSeg fmt (q.drop n)
    (alignMvm 0 fmt 0 (x.1 ++ y.1), x.2 + y.2)
  else []

/-- R333, R335: a tile is due under pattern i when its last run is PERIOD power-on hours old, or there was none. -/
def State.runDue (s : State) (t : TileId) (i : Nat) : Bool :=
  let l := SMap.get (fun _ => 0) s.keeper.lastRun (tileKey t * 4096 + i)
  l == 0 || decide (l - 1 + 3600 * leAt s.nvm.tpack (128 + 32 * i + 4) 2 ≤ s.nvm.pos)

/-- R335: a due tile is taken for a run, in P0, with the Keeper running and the die not throttling; its MVMs are charged to the firing
budget. -/
def execTestRunStart (t : TileId) (pat : BitVec 12) (s : State) : Host.Outcome State Fault Refusal :=
  runAct (fun s =>
    let d := t.d.val
    let k := s.core (.tile t)
    match s.pattern pat.toNat with
    | none => []
    | some (kind, sel) =>
      if s.pstate = 0 ∧ s.keeperUp = true ∧ s.fld (F.THM_DIE_FACTOR.nth d) 0 = 256 ∧ (sel = 0x3F ∨ sel = d) ∧ 1 ≤ kind ∧
          kind ≤ 4 ∧ s.testTarget t kind = true ∧ s.runDue t pat.toNat = true ∧ k.item = none ∧ k.queue = [] ∧ k.testRet = none ∧ s.testing d < 64 ∧
          (s.die d).calNow.any (fun c => c.tile == t) = false then
        seqA [modCore (.tile t) fun k => { k with testRet := some (s.arrState t + 16 * pat.toNat) },
          modKeeper fun k => { k with lastRun := SMap.set (fun _ => 0) k.lastRun (tileKey t * 4096 + pat.toNat) (s.nvm.pos + 1) },
          setF F.TIL_ARR_STS_STATE (tileKey t) 2, bump F.CHK_TP_RUNS d 1,
          forA (s.testMvms pat.toNat) fun m => seqA [countRsvd d m.2, whenA (fun _ => !m.1.skipped) (chargeDie d m.1.pconv m.1.nrow)]] s
      else []) s

/-- R335: an SRAM march that fails twice in succession retires the spare. -/
def marchDone (t : TileId) (pass : Bool) : Act := fun s =>
  let n := (s.tsum t).stFails / 16
  if pass then modTsum t (fun m => { m with stFails := m.stFails % 16 }) s
  else if n = 0 then modTsum t (fun m => { m with stFails := m.stFails % 16 + 16 }) s
  else keeperRetire t 7 s

/-- R331, R335: an SRAM march ends. A failure is recorded, or held by the die's checker while the Keeper is down, which then counts the
march at its return. -/
def marchEnd (t : TileId) (pass : Bool) : Act := fun s =>
  let d := t.d.val
  let r := plainRec s (unitTile 2 t) 7 0xFFFF 0
  let hold := modDie d fun x => { x with marchHeld := x.marchHeld ++ [(tileKey t, pass)] }
  if s.keeperUp then seqA [whenA (fun _ => !pass) (seqA [chkLast d r, histRing r]), marchDone t pass] s
  else if pass then hold s
  else seqA [whenA (fun s => decide ((s.die d).chkHold.length < 1024)) hold, chkReport d r] s

/-- R331: a record that a die's checker held is delivered; a march's failure of a spare counts apart (R335). -/
def deliverRec (held : List (Nat × Bool)) (r : HistRec) : Act :=
  match unitTileOf r.unit with
  | some (2, t) => if r.kind = 7 ∧ r.stage = 0xFFFF ∧ held.contains (tileKey t, false) = true then histRing r else keeperRecord r
  | _ => keeperRecord r

/-- R335: a run ends: the tile returns to its earlier state, and a failure is recorded against the part of it that failed; a
retirement that waited for the end follows. The mismatch in DETAIL is free (log entry 178). -/
def execTestRunDone (t : TileId) (pass : Bool) (s : State) : Host.Outcome State Fault Refusal :=
  runAct (fun s =>
    match (s.core (.tile t)).testRet with
    | none => []
    | some r =>
      let d := t.d.val
      let kind := ((s.pattern (r / 16)).map Prod.fst).getD 0
      let unit := unitTile (if kind = 1 then 0 else if kind = 2 then 1 else 2) t
      let stage := (s.core (.tile t)).bound.elim 0xFFFF fun b => b.1
      seqA [modCore (.tile t) fun k => { k with testRet := none }, setF F.TIL_ARR_STS_STATE (tileKey t) (r % 16),
        whenA (fun _ => !pass) (bump F.CHK_TP_FAILS d 1),
        if kind = 3 then marchEnd t pass
        else whenA (fun _ => !pass) (seqA [
          dieRecord d (plainRec s unit 7 stage (if kind = 4 then 0 else Config.freeNat s.free)), draw]), retireDue t] s) s

end Sys2Proof.Machine
end

