-- ==== Sys2Proof/Machine/Loading.lean ====
section
/-!
DEFINITION. Fetching shards (R287–R292), programming arrays (R293–R296) and the retained verify (R299).
-/
namespace Sys2Proof.Machine

/-! ## What has landed -/

/-- The bytes of a record (R39). -/
def recBytes : Nat := 263232

/-- Byte ranges with one more, overlapping or touching ranges joined. -/
def addRange (l : List (Nat × Nat)) (o n : Nat) : List (Nat × Nat) :=
  if n = 0 then l
  else
    let far := l.filter fun r => decide (r.1 + r.2 < o) || decide (o + n < r.1)
    let near := l.filter fun r => !(decide (r.1 + r.2 < o) || decide (o + n < r.1))
    let lo := near.foldl (fun m r => min m r.1) o
    let hi := near.foldl (fun m r => max m (r.1 + r.2)) (o + n)
    sortKey (fun r => (r.1, 0, 0, 0)) ((lo, hi - lo) :: far)

/-- Byte ranges without [o, o+n). -/
def cutRange (l : List (Nat × Nat)) (o n : Nat) : List (Nat × Nat) :=
  (cutSpace (l.map fun r => (r.1, r.1 + r.2)) o n).map fun r => (r.1, r.2 - r.1)

/-- The range [o, o+n) has landed. -/
def Shard.has (h : Shard) (o n : Nat) : Bool := h.landed.any fun r => r.1 ≤ o && decide (o + n ≤ r.1 + r.2)

/-- The epoch of the manifest in use, and the shadow its records land in. -/
def Job.inEpoch (j : Job) : Nat := match j.swap with
  | some w => w.newEpoch
  | none => j.epoch
def State.landAt (s : State) (p : Nat) (h : Shard) : Option Nat :=
  let j := s.job p
  (j.shadows.find? fun x => x.stage == h.stage && (x.epoch == j.inEpoch || j.swap.isNone)).map fun x => x.base + h.first * recBytes

/-! ## A shard's failures (R291) -/

/-- A swap fails before M_FLIP: the new shadows are discarded (R304). -/
def swapEnd (p st code : Nat) : Act := fun s =>
  match (s.job p).swap with
  | none => []
  | some w =>
    seqA [forA (w.copies.flatMap Replica.tiles) (fun t => seqA [dropTile t, freeTile t 0]),
      modJob p fun j => { j with swap := none, shadows := j.shadows.filter fun x => x.epoch != w.newEpoch },
      swapState p st, setF F.LDR_SWAP_STS_CODE p code, setF F.LDR_SWAP_STS_BUSY p 0,
      setF F.LDR_STS_PHASE p (if st = 5 then 5 else 0), setF F.LDR_STS_BUSY p 0] s

/-- A shard is FAILED: the load or the swap fails with it, on every part of the slice. -/
def shardFailed (p k cause : Nat) : Act := fun s =>
  seqA [modShard p k fun h => { h with st := 6, cause := cause }, bump F.LDR_ERR_FAILED p 1,
    emit (.slice p "SHARD_FAILED" k 0),
    if (s.job p).swap.isSome then swapEnd p 5 8 else if s.imgSt p = 3 then loadFailed p 16 else skip] s

/-- Ask the storage for what of a shard has not landed. -/
def askMissing (p k : Nat) : Act := fun s =>
  match (s.job p).inUse[k]? with
  | none => []
  | some h => forA (h.landed.foldl (fun l r => cutSpace l r.1 r.2) [(0, h.bytes)]) (fun r => emit (fetchOut p k h r.1 (r.2 - r.1))) s

/-- Order 2 of R291: the holder of lowest rank other than this part. -/
def askPeer (p k cause : Nat) : Act := fun s =>
  match (s.job p).inUse[k]? with
  | none => []
  | some h => match ((s.job p).holderRanks h.stage).find? fun r => r != s.rank p with
    | none => shardFailed p k 7 s
    | some r => seqA [modShard p k fun x => { x with source := 3, peer := r, cause := cause }, emit (.peerFetch p k)] s

/-- One further try from storage for what `ask` asks, or the peer after three (R291). Records read again for a bad word leave the rest
of a shard to the member that sends it. -/
def tryAgain (p k cause nvme : Nat) (ask : Act) : Act := fun s =>
  match (s.job p).inUse[k]? with
  | none => []
  | some h =>
    if h.st ≠ 2 ∧ h.st ≠ 1 then []
    else if 3 ≤ h.tries then askPeer p k cause s
    else seqA [bump F.LDR_ERR_TRIES p 1,
      modShard p k fun x => { x with
        st := 2, source := if cause = 5 ∧ x.source = 2 then 2 else 1, tries := min 3 (x.tries + 1), cause := cause
        nvme := if nvme = 0 then x.nvme else nvme }, ask] s

/-! ## Data that lands (R287, R288, R291) -/

/-- Records of a shard that lie wholly in its landed ranges. -/
def Shard.whole (h : Shard) : List Nat := (List.range h.n).filter fun k => h.has (k * recBytes) recBytes

/-- Records of a shard that became whole are passed on to the next member of the chain (R288). -/
def passOn (p k : Nat) (old : List Nat) : Act := fun s =>
  match (s.job p).inUse[k]? with
  | none => []
  | some h =>
    match (s.chain p h).2, s.landAt p h with
    | some _, some a => forA (h.whole.filter fun r => !old.contains r) (fun r => fun s =>
        if s.poisoned (a + r * recBytes) recBytes then
          seqA [modShard p k fun x => { x with landed := cutRange x.landed (r * recBytes) recBytes }, 
            tryAgain p k 5 0 (emit (fetchOut p k h (r * recBytes) recBytes))] s
        else emit (.forward p k r (s.bytes (a + r * recBytes) recBytes)) s) s
    | _, _ => []

/-! ## New copies of a shadow swap (R310) -/

/-- The new copies of a list of replicas, if they fit. -/
def State.copiesOf (s : State) (p epoch : Nat) : List Replica → List TileId → Option (List Replica)
  | [], _ => some []
  | r :: l, free =>
    match s.copyTiles p r [] r.tiles free with
    | none => none
    | some ts => (s.copiesOf p epoch l (free.filter fun t => !ts.contains t)).map fun q =>
        { r with tiles := ts, anchor := ts.headD r.anchor, epoch := epoch, outOfService := false } :: q

/-- The replicas of a wave on this part. -/
def Job.waveReps (j : Job) (w : Swap) (v : Nat) : List Replica := j.reps.filter fun r => w.waveOf.getD r.stage 0xFFFF == v

/-- R310: the new copy of wave v, if it fits: bound, queued, DOUBLING. A wave without arrays here is DOUBLE at once. -/
def placeWave (p v : Nat) : Act := fun s =>
  match (s.job p).swap with
  | none => []
  | some w =>
    match s.copiesOf p w.newEpoch ((s.job p).waveReps w v) (s.freeTiles p) with
    | none => []
    | some l =>
      seqA [modJob p fun j => { j with swap := j.swap.map fun w => { w with copies := w.copies ++ l } },
        setWave p v (if l.isEmpty then 2 else 1), whenA (fun _ => !l.isEmpty) (retree p),
        forA l fun r => forA r.tiles.zipIdx fun t => seqA [bindTile p r t.1 t.2,
          queueProg ⟨t.1, 4, p, r.stage, t.2, w.newEpoch, v, 0⟩]] s

/-- R310: new copies are placed in wave order as long as the next fits. -/
def placeFrom (p : Nat) : List Nat → Act
  | [] => skip
  | v :: l => seqA [placeWave p v, fun s =>
      if (s.job p).swap.any (fun w => w.waves.getD v 0 == 0) then [] else placeFrom p l s]
def placeCopies (p : Nat) : Act := fun s =>
  match (s.job p).swap with
  | none => []
  | some w => if w.shadow then placeFrom p ((List.range w.nWave).filter fun v => w.waves.getD v 0 == 0) s else []

/-- A shard has landed whole. -/
def landedWhole (p k : Nat) : Act := fun s =>
  match (s.job p).inUse[k]? with
  | none => []
  | some h =>
    if h.has 0 h.bytes = false ∨ h.st = 3 then []
    else
      seqA [modShard p k fun x => { x with st := 3 },
        whenA (fun _ => h.source == 3) (bump F.LDR_ERR_PEER p 1),
        allLanded p, whenA (fun s => (s.job p).inUse.all Shard.here) (placeCopies p)] s

/-- Bytes of a shard land in its stage's shadow. -/
def landData (p k off : Nat) (data : List Byte) : Act := fun s =>
  match (s.job p).inUse[k]? with
  | none => []
  | some h =>
    match s.landAt p h with
    | none => []
    | some a =>
      let d := data.take (h.bytes - off)
      unitWrite (a + off) d.length (seqA [storeBytes true (a + off) d,
        modShard p k fun x => { x with st := 2, landed := addRange x.landed off d.length },
        passOn p k h.whole, landedWhole p k]) s

/-- The bytes a read of a shard at an offset asks for. DESIGN CHOICE (log entry 32): reads of 1 MiB. -/
def readLen (h : Shard) (off : Nat) : Nat := min (2 ^ 20) (h.bytes - off)

/-- R291: a read of a shard completes. -/
def execNvmeCompletion (part : Fin 16) (shard : BitVec 24) (off : Nat) (status : BitVec 11) (data : List Byte) (s : State) :
    Host.Outcome State Fault Refusal :=
  let p := part.val
  let k := shard.toNat
  runAct (fun s =>
    match (s.job p).inUse[k]? with
    | none => []
    | some h =>
      if h.st ≠ 2 ∨ (h.source ≠ 1 ∧ (h.source ≠ 2 ∨ h.cause ≠ 5)) ∨ h.bytes ≤ off then []
      else if status ≠ 0 then tryAgain p k 1 status.toNat (emit (fetchOut p k h off (readLen h off))) s
      else seqA [bumpW F.LDR_FETCH_BYTES p data.length, landData p k off data,
        whenA (fun _ => decide (data.length < readLen h off))
          (tryAgain p k 4 0 (emit (fetchOut p k h (off + data.length) (readLen h off - data.length))))] s) s

/-- R291: no completion within LDR_CFG.TMO. -/
def execNvmeTimeout (part : Fin 16) (shard : BitVec 24) (s : State) : Host.Outcome State Fault Refusal :=
  runAct (fun s =>
    if ((s.job part.val).inUse[shard.toNat]?).any fun h => h.st == 2 && h.source == 1 &&
        decide (1000000 * max 1 (s.fld F.LDR_CFG_TMO part.val) ≤ (s.mile - h.mile).toNat) then
      tryAgain part.val shard.toNat 2 0 (askMissing part.val shard.toNat) s else []) s

/-- R291: an RDMA connection is lost. -/
def execRdmaConnectionLost (part : Fin 16) (shard : BitVec 24) (s : State) : Host.Outcome State Fault Refusal :=
  runAct (fun s =>
    if ((s.job part.val).inUse[shard.toNat]?).any fun h => h.st == 2 && h.source == 1 then
      tryAgain part.val shard.toNat 3 0 (askMissing part.val shard.toNat) s else []) s

/-- R291: the member before has sent nothing for LDR_CFG.TMO ms: the rest comes from storage. A peer that fails leaves the shard FAILED. -/
def execUpstreamTimeout (part : Fin 16) (shard : BitVec 24) (s : State) : Host.Outcome State Fault Refusal :=
  let p := part.val
  let k := shard.toNat
  runAct (fun s =>
    match (s.job p).inUse[k]? with
    | none => []
    | some h =>
      if 3 ≤ h.st ∨ h.st = 0 ∨ (s.mile - h.mile).toNat < 1000000 * max 1 (s.fld F.LDR_CFG_TMO p) then []
      else if h.source = 2 then tryAgain p k 6 0 (askMissing p k) s
      else if h.source = 3 then shardFailed p k 6 s
      else []) s

/-- R288, R291: a record passed on by the member before, or sent by a peer. -/
def execForwardedRecord (part : Fin 16) (shard : BitVec 24) (k : BitVec 24) (peer : BitVec 16) (data : List Byte) (s : State) :
    Host.Outcome State Fault Refusal :=
  let p := part.val
  runAct (fun s =>
    match (s.job p).inUse[shard.toNat]? with
    | none => []
    | some h =>
      if 3 ≤ h.st ∨ h.st = 0 ∨ h.n ≤ k.toNat ∨ h.source < 2 ∨ data.length ≠ recBytes then []
      else seqA [bumpW F.LDR_FWD_BYTES p data.length, modShard p shard.toNat fun x => { x with peer := peer.toNat },
        landData p shard.toNat (k.toNat * recBytes) data] s) s

/-- R292: a write of LDR_SSTAT. The region must lie in the partition's stack regions and hold a record of every shard. -/
def hostSstatWrite (src : Src) (v : Word) : Act := fun s =>
  let p := s.bank src .ldr
  (guardW src .ldr p 0x110 fun s =>
    if bitsOf v 63 63 = 1 ∧ s.owns p (bitsOf v 47 6 * 64) (16 * max 1 (s.job p).inUse.length) = false then []
    else writeReg .ldr p 0x110 v s) s

/-- SstatWrite: the command of its row. -/
def execSstatWrite (src : Src) (v : Word) (s : State) : Host.Outcome State Fault Refusal :=
  runAct (hostSstatWrite src v) s

/-- R313: a write of LDR_CLR. -/
def hostLdrCntClear (src : Src) (v : Word) : Act := fun s =>
  let p := s.bank src .ldr
  (guardW src .ldr p 0x170 (whenA (fun _ => bitsOf v 0 0 == 1)
    (seqA [setReg .ldr p 0x158 0, setReg .ldr p 0x160 0]))) s

/-- LdrCntClear: the command of its row. -/
def execLdrCntClear (src : Src) (v : Word) (s : State) : Host.Outcome State Fault Refusal :=
  runAct (hostLdrCntClear src v) s

/-! ## Programming (R293–R296) -/

/-- The order of R295. -/
def progKey (q : ProgReq) : Nat × Nat × Nat × Nat :=
  if q.cls ≤ 2 then (q.cls, 0, 0, 0) else if q.cls = 3 then (3, 0, q.stage, q.arr) else (q.cls, q.wave, q.stage, q.arr)

/-- The record an array is programmed from: the shadow of the epoch its copy serves. -/
def State.progRecord (s : State) (q : ProgReq) : Option Nat :=
  (s.shadowOf q.part q.stage q.epoch).map fun x => x.base + q.arr * recBytes

/-- The record's shard has landed; a shadow not of the manifest in use is whole. -/
def State.recLanded (s : State) (q : ProgReq) : Bool :=
  let j := s.job q.part
  if j.inEpoch = q.epoch then match j.shardOf q.stage q.arr with
    | some h => 3 ≤ h.2.st && h.2.st ≤ 5
    | none => true
  else true

/-- The shard of the manifest in use that a record at `a` can be read from again. -/
def State.rereads (s : State) (q : ProgReq) (a : Nat) : Option (Nat × Shard) :=
  ((s.job q.part).shardOf q.stage q.arr).filter fun x => s.landAt q.part x.2 == some (a - (q.arr - x.2.first) * recBytes)

/-- A queued array can start: its record is there, and its last MVM with its pass has ended (R101, R120). DESIGN CHOICE (log entry 182): a record with a bad
word that is not of the manifest in use waits. -/
def State.progReady (s : State) (q : ProgReq) : Bool :=
  s.recLanded q && (s.progRecord q).any (fun a => !s.poisoned a recBytes || (s.rereads q a).isSome) && !s.arrBusy q.tile &&
    (s.core (.tile q.tile)).testRet.isNone && !(s.die q.tile.d.val).parked && !(s.die q.tile.d.val).progNow.any fun x => x.tile == q.tile

/-- Set a tile's write-incomplete mark, in NVM and in its register (R101, R293). -/
def setWinc (t : TileId) (b : Bool) : Act :=
  seqA [modTsum t fun m => { m with winc := b }, setB F.TIL_ARR_STS_WINC (tileKey t) b]

/-- Programming of an array starts: WRITE, WINC, gains loaded; a calibration attempt is abandoned as void (R354). A record
with a word that cannot be corrected is read again from storage (R291). -/
def startProg (q : ProgReq) (a : Nat) : Act := fun s =>
  let d := q.tile.d.val
  if s.poisoned a recBytes then
    match s.rereads q a with
    | some (k, h) =>
      let o := (q.arr - h.first) * recBytes
      seqA [modShard q.part k fun x => { x with st := 2, source := 1, landed := cutRange x.landed o recBytes },
        tryAgain q.part k 5 0 (emit (fetchOut q.part k h o recBytes))] s
    | none => []
  else
    seqA [whenA (fun s => (s.die d).calNow.any fun c => c.tile == q.tile) (bump F.CAL_FLAG_VOID d 1), dropTile q.tile,
      sliceReads true a recBytes, modDie d fun x => { x with progNow := x.progNow ++ [q] },
      setF F.TIL_ARR_STS_STATE (tileKey q.tile) 3, setWinc q.tile true,
      putBytes (sramBase q.tile + 0x1100) (s.bytes (a + 0x40000) 1024)] s

/-- R293, R295, R296: die d's next queued array begins programming, while the Keeper runs and fewer than 256 do. DEDUCED (log entry 218): a
rebind's spare waits for the Keeper too, for R296 gives programming no other way; the rest of a rebind goes on without it (R174). -/
def execProgramStart (d : Fin 32) (s : State) : Host.Outcome State Fault Refusal :=
  runAct (fun s =>
    if s.keeperUp = false ∨ s.power.gated = true ∨ 256 ≤ (s.die d.val).progNow.length then []
    else match (sortKey progKey (s.die d.val).progQ).find? s.progReady with
    | none => []
    | some q => forOpt (s.progRecord q) (startProg q) s) s

/-- Arrays of a shard that still wait for programming or verify. -/
def State.shardWaits (s : State) (p : Nat) (h : Shard) : Bool :=
  (s.partDies p).any fun d => ((s.die d).progQ ++ (s.die d).progNow ++ (s.die d).verQ).any fun q =>
    q.part == p && q.stage == h.stage && h.first ≤ q.arr && decide (q.arr < h.first + h.n)

/-- The shard of an array that has been programmed or verified: PROGRAMMED or RETAINED when its last array has (R292, R299). -/
def shardNext (p stage arr st : Nat) : Act := fun s =>
  match (s.job p).shardOf stage arr with
  | none => []
  | some (k, h) =>
    if h.st < 3 ∨ 5 < h.st then []
    else
      let b := h.prog || st == 4
      let g : Shard := { h with prog := b, st := if s.shardWaits p h then (if st = 4 ∧ h.st = 5 then 3 else h.st) else if b then 4 else 5 }
      if g = h then [] else modShard p k (fun _ => g) s

/-- The number of the i-th cell left outside the window, among the weight pairs: row, then physical column. -/
def stuckCell (n i : Nat) : Nat := Config.freeNat (n + i) % 2 ^ 20 / 1024 * 1048 + Config.freeNat (n + i) % 1024

/-- The cells an array has been left with: the record's weights and exponent; the cells outside the window keep a free level
(R294). DESIGN CHOICE (log entry 212): of a record overwritten meanwhile (R103), the weights are those of the end, the gains those of
the start. -/
def programmed (s : State) (a out : Nat) : Cells :=
  ⟨s.bytes a 0x40000, s.num (a + 0x40400) 1, (List.range out).map fun i => (stuckCell s.free i, Config.stuckLevel s.free i % 8), s.free⟩

/-- A verified array: cells, tag, counts, and its start-up calibration (R293 step 5). -/
def progOk (q : ProgReq) (out : Nat) : Act := fun s =>
  match s.progRecord q with
  | none => []
  | some a =>
    seqA [eff fun s => .cell q.tile (programmed s a out), draw, forA (List.range out) fun _ => draw,
      bump F.LDR_PROG_CNT_STUCK q.part out, bump F.LDR_PROG_CNT_DONE q.part 1, setWinc q.tile false,
      countRewrite q.tile,
      modTsum q.tile fun m => { m with tagStage := q.stage, tagEpoch := q.epoch, tagArr := q.arr, valid := true },
      calAsk q.tile 0 0, shardNext q.part q.stage q.arr 4] s

/-- R294: an array that fails verify counts a rewrite (R99) and is retired, and its logical array rebound. -/
def progFail (q : ProgReq) : Act := fun s =>
  seqA [countRewrite q.tile, bump F.LDR_PROG_CNT_VFAIL q.part 1, histRing (plainRec s (unitTile 0 q.tile) 11 q.stage 0), retireNow q.tile 5] s

/-- R293, R294: step 5 of programming a tile. -/
def progEnds (t : TileId) (weightOut checkOut : Nat) : Act := fun s =>
  match (s.die t.d.val).progNow.find? fun q => q.tile == t with
  | none => []
  | some q => seqA [modDie t.d.val fun x => { x with
        progNow := x.progNow.filter fun y => y.tile != t, progHeld := x.progHeld.filter fun h => h.1 != tileKey t },
      if 0 < checkOut ∨ 4 < weightOut then progFail q else progOk q weightOut] s

/-- R293, R294, R296: step 4 of programming a tile ends; while the Keeper is down it waits at step 5. -/
def execProgramDone (t : TileId) (weightOut checkOut : Nat) (s : State) : Host.Outcome State Fault Refusal :=
  runAct (fun s =>
    if s.keeperUp then progEnds t weightOut checkOut s
    else if (s.die t.d.val).progNow.any (fun q => q.tile == t) && !(s.die t.d.val).progHeld.any (fun h => h.1 == tileKey t) then
      modDie t.d.val (fun x => { x with progHeld := x.progHeld ++ [(tileKey t, weightOut, checkOut)] }) s
    else []) s

/-- R296: what waited at step 5 on die d goes on at the Keeper's return. -/
def progResume (d : Nat) : Act := fun s =>
  forA (s.die d).progHeld (fun h => forOpt (tileAt (h.1 / 8448) (h.1 % 128) (h.1 % 8448 / 128)) fun t => progEnds t h.2.1 h.2.2) s

/-- R299: the retained verify of a tile ends, against its newly landed record. -/
def execRetainedVerifyDone (t : TileId) (weightOut checkOut : Nat) (s : State) : Host.Outcome State Fault Refusal :=
  runAct (fun s =>
    match (s.die t.d.val).verQ.find? fun q => q.tile == t with
    | none => []
    | some q =>
      match s.recLanded q, s.progRecord q with
      | true, some a =>
        seqA [modDie t.d.val fun x => { x with verQ := x.verQ.filter fun y => y.tile != t }, phaseOn q.part,
          if 0 < checkOut ∨ 4 < weightOut then seqA [queueProg { q with cls := 2 }, shardNext q.part q.stage q.arr 4]
          else seqA [putBytes (sramBase t + 0x1100) (s.bytes (a + 0x40000) 1024), modDie t.d.val fun x => { x with reused := x.reused ++ [q] },
            calAsk t 0 0, shardNext q.part q.stage q.arr 5]] s
      | _, _ => []) s

end Sys2Proof.Machine
end

