-- ==== Sys2Proof/Machine/Swap.lean ====
section
/-!
DEFINITION. Replacing weights (R301–R312): the swap descriptor, the fetch phase and the flip, waves rewritten in place or
doubled and released, and the end of old-epoch passages.
-/
namespace Sys2Proof.Machine

/-! ## The descriptor (R302, R303) -/

/-- The manifest and the wave table of the descriptor at a. -/
def State.swapMan (s : State) (a : Nat) : Nat := a + s.num (a + 0x10) 8
def State.swapTab (s : State) (a : Nat) : Nat := a + s.num (a + 0x20) 8

/-- The wave of each stage. -/
def State.swapWaves (s : State) (a n : Nat) : List Nat := (List.range n).map fun i => s.num (s.swapTab a + 2 * i) 2

/-- R303 check 2. DEDUCED (log entry 8): a word of them that cannot be corrected fails the CRC. -/
def State.swapCrcOk (s : State) (p a n : Nat) : Bool :=
  let m := s.swapMan a
  let ml := s.num (a + 0x18) 8
  let t := s.swapTab a
  s.owns p a 64 && s.owns p m (max 1 ml) && s.owns p t (2 * n) && !s.poisoned a 64 && !s.poisoned m ml && !s.poisoned t (2 * n) &&
    crc32c (putAt (s.bytes a 64) 0x3C [0, 0, 0, 0] ++ s.bytes m ml ++ s.bytes t (2 * n)) == s.num (a + 0x3C) 4

/-- The shards of a manifest cover logical arrays 0 to n−1 of a stage, each once. -/
def coversOnce (l : List Shard) (stage n : Nat) : Bool :=
  let q := sortKey (fun (h : Shard) => (h.first, 0, 0, 0)) (l.filter fun h => h.stage == stage)
  (q.foldl (fun (e : Option Nat) h => if e = some h.first then some (h.first + h.n) else none) (some 0)) == some n

/-- R303 check 6: checks 10–12 of R165 on the manifest, and the waves. -/
def State.swapManOk (s : State) (p a : Nat) : Bool :=
  let m := s.swapMan a
  let nt := s.num m 2
  let ns := s.num (m + 4) 4
  let st := (s.job p).stages
  let l := s.shardsAt m 48
  let w := s.swapWaves a st.length
  let nw := s.num (a + 0x0E) 2
  decide (1 ≤ nt) && decide (nt ≤ 64) && decide (1 ≤ ns) && decide (ns ≤ 2 ^ 24) &&
    decide (16 + 256 * nt + 48 * ns ≤ s.num (a + 0x18) 8) &&
    (List.range nt).all (fun i => s.num (m + 16 + 256 * i + 0xF2) 1 == 1) &&
    l.all (fun h => decide (h.fmode ≤ 2) && decide (h.stage < st.length) && decide (h.target < nt)) &&
    decide (1 ≤ nw) && decide (nw ≤ 4096) &&
    w.zipIdx.all fun x => x.1 == 0xFFFF || (decide (x.1 < nw) && coversOnce l x.2 ((st[x.2]?).elim 0 Stage.nArr))

/-- R303 check 7: the second shadows, each on the stack of the current one, or the nearest with room. -/
def placeShadow (s : State) (space : List (Nat × Nat)) (x : Shadow) (t : TileId) : Option (Nat × List (Nat × Nat)) :=
  match s.allocNear (space.filter fun i => i.1 / 2 ^ 37 == x.base / 2 ^ 37) t (x.n * recBytes) with
  | some g => some (g.1, cutSpace space g.1 (x.n * recBytes))
  | none => s.allocNear space t (x.n * recBytes)

/-- The tile a stage's shadow lies near (R190). -/
def State.shadowNear (s : State) (p stage : Nat) : TileId :=
  match s.tierDie p stage, (s.repsOf p stage).head? with
  | some d, _ => tierRouter d
  | none, some r => r.anchor
  | none, none => tierRouter 0

/-- The new shadows of the stages a swap changes, or none where one does not fit. -/
def State.newShadows (s : State) (p a epoch : Nat) (waves : List Nat) : Option (List Shadow) :=
  let j := s.job p
  let held := s.hostAreas p ++ (j.regions.map fun r => (r.base, r.len)) ++ (j.shadows.map fun x => (x.base, x.n * recBytes)) ++
    [(a, 64), (s.swapMan a, s.num (a + 0x18) 8), (s.swapTab a, 2 * j.stages.length)]
  let space := held.foldl (fun sp x => cutSpace sp x.1 x.2) (s.partSpace p)
  let old := j.shadows.filter fun x => waves.getD x.stage 0xFFFF != 0xFFFF
  (old.foldl (fun (acc : Option (List Shadow × List (Nat × Nat))) x => acc.bind fun q =>
    (placeShadow s q.2 x (s.shadowNear p x.stage)).map fun g => (q.1 ++ [⟨x.stage, epoch, g.1, x.n⟩], g.2)) (some ([], space))).map Prod.fst

/-- R303 check 8: the part's free capacity holds its largest wave, the capacity BIL_POL.RSV withholds included. -/
def State.waveFits (s : State) (p : Nat) (waves : List Nat) (n : Nat) : Bool :=
  let size := fun v => (((s.job p).reps.filter fun r => waves.getD r.stage 0xFFFF == v).map fun r => r.tiles.length).sum
  (List.range n).all fun v => decide (size v ≤ (s.freeTiles p).length)

/-- R303: what the checks of START answer: a CODE, or the swap with its new shadows. DESIGN CHOICE (log entry 34): MODE 2
looks at this part's free capacity alone. -/
def State.swapCheck (s : State) (p : Nat) : Except Nat (Swap × List Shadow) :=
  let a := s.fld F.LDR_SWAP_ADDR_ADDR p * 64
  let j := s.job p
  let mode := s.num (a + 6) 1
  let e := s.num (a + 0x0C) 2
  let nw := s.num (a + 0x0E) 2
  let w := s.swapWaves a j.stages.length
  if s.imgSt p ≠ 4 then .error 10
  else if s.swapCrcOk p a j.stages.length = false then .error 2
  else if s.num a 4 ≠ 0x50415753 ∨ s.num (a + 4) 1 ≠ 1 ∨ 2 < mode then .error 3
  else if s.num (a + 8) 4 ≠ j.hdrCrc then .error 4
  else if e ≠ (s.fld F.LDR_SWAP_STS_ADM_EPOCH p + 1) % 65536 ∨ s.num (s.swapMan a + 8) 2 ≠ e then .error 5
  else if s.swapManOk p a = false then .error 6
  else match s.newShadows p a e w with
    | none => .error 7
    | some l =>
      let fits := s.waveFits p w nw
      if mode = 1 ∧ fits = false then .error 11
      else .ok ({ shadow := mode == 1 || (mode == 2 && fits), newEpoch := e, nWave := nw, waveOf := w
                  waves := List.replicate nw 0, clear := 0, flip := none, landed := [], lows := []
                  newShards := s.shardsAt (s.swapMan a) 48, copies := [] }, l)

/-! ## START and ABORT (R303, R304) -/

/-- OP START. -/
def swapBegin (p : Nat) : Act := fun s =>
  match s.swapCheck p with
  | .error c => seqA [swapState p 5, setF F.LDR_SWAP_STS_CODE p c] s
  | .ok (w, l) =>
    seqA [modJob p fun j => { j with swap := some w, shadows := j.shadows ++ l, due := s.mile + 10000000000 },
      setF F.LDR_SWAP_STS_NEW_EPOCH p w.newEpoch, setF F.LDR_SWAP_STS_LOW_WAVE p 0, setF F.LDR_SWAP_STS_CODE p 0,
      swapState p 1, setF F.LDR_SWAP_STS_BUSY p 1, waveRegs p,
      emit (.slice p "SWAP" (s.num (s.fld F.LDR_SWAP_ADDR_ADDR p * 64 + 0x3C) 4) 0), fetchAll p,
      whenA (fun s => (s.job p).inUse.all Shard.here) (placeCopies p)] s

/-- A write of LDR_SWAP_CMD. DEDUCED (log entry 33): a START while a swap runs is discarded with LOST and CODE 10; ABORT acts
while a swap runs, before M_FLIP. -/
def swapCmd (src : Src) (v : Word) : Act := fun s =>
  let p := s.bank src .ldr
  guardW src .ldr p 0x128 (fun s =>
    let op := bitsOf v 3 1
    if bitsOf v 0 0 = 0 then storeRW .ldr p 0x128 v s
    else if op = 1 then
      if s.flag F.LDR_SWAP_STS_BUSY p then seqA [setF F.LDR_SWAP_STS_LOST p 1, setF F.LDR_SWAP_STS_CODE p 10] s
      else seqA [storeRW .ldr p 0x128 v, fun s =>
        let a := s.fld F.LDR_SWAP_ADDR_ADDR p * 64
        ownedRead p a 64 (ownedRead p (s.swapMan a) (s.num (a + 0x18) 8)
          (ownedRead p (s.swapTab a) (2 * (s.job p).stages.length) (swapBegin p))) s] s
    else seqA [storeRW .ldr p 0x128 v, whenA (fun s => op == 2 && (s.job p).swap.isSome && decide (s.fld F.LDR_SWAP_STS_STATE p < 3) &&
        (s.job p).swap.any fun w => w.flip.all fun f => decide (s.mile < f)) (swapEnd p 6 0)] s) s

/-- R303: LDR_SWAP_CMD with OP START. -/
def hostSwapStart (src : Src) (v : Word) : Act := fun s => (swapCmd src v) s

/-- SwapStart: the command of its row. -/
def execSwapStart (src : Src) (v : Word) (s : State) : Host.Outcome State Fault Refusal :=
  runAct (hostSwapStart src v) s

/-- R304: LDR_SWAP_CMD with OP ABORT. -/
def hostSwapAbort (src : Src) (v : Word) : Act := fun s => (swapCmd src v) s

/-- SwapAbort: the command of its row. -/
def execSwapAbort (src : Src) (v : Word) (s : State) : Host.Outcome State Fault Refusal :=
  runAct (hostSwapAbort src v) s

/-- R303 check 9: 10 s have passed since START and another part of the slice has not been commanded. -/
def execSwapCommandTimeout (part : Fin 16) (s : State) : Host.Outcome State Fault Refusal :=
  let p := part.val
  runAct (fun s => if s.fld F.LDR_SWAP_STS_STATE p = 1 ∧ 1 < s.nParts p ∧ (s.job p).due ≤ s.mile then swapEnd p 5 9 s else []) s

/-! ## The flip (R304, R310) -/

/-- The coordinator fixes M_FLIP once every part has landed; a shadow swap waits until every wave is DOUBLE or the next does
not fit. -/
def maybeFlip (p : Nat) : Act := fun s =>
  match (s.job p).swap with
  | none => []
  | some w =>
    if s.fld F.LDR_SWAP_STS_STATE p = 1 ∧ s.rank p = 0 ∧ s.nParts p ≤ w.landed.length ∧
        (w.shadow = false ∨ w.waves.all (fun x => 2 ≤ x) = true ∨ w.waves.contains 0 = true) then
      let m := s.mile + 1000000
      seqA [modJob p fun j => { j with swap := some { w with flip := some m } }, swapState p 2,
        emit (.slice p "FLIP" m.toNat 0)] s
    else []

/-- R304: a part's report that its shards are LANDED, or that one FAILED (CODE 8). This part's own comes when they have. -/
def execSwapLandedReport (part : Fin 16) (rank : BitVec 14) (failed : Bool) (s : State) : Host.Outcome State Fault Refusal :=
  let p := part.val
  runAct (fun s =>
    match (s.job p).swap with
    | none => []
    | some w =>
      if s.fld F.LDR_SWAP_STS_STATE p ≠ 1 ∨ s.nParts p ≤ rank.toNat ∨
          (failed = false ∧ rank.toNat = s.rank p ∧ w.newShards.all Shard.here = false) then []
      else if failed then seqA [emit (.slice p "SWAP_FAILED" 8 0), swapEnd p 5 8] s
      else seqA [modJob p fun j => { j with swap := some { w with landed := (w.landed ++ [rank.toNat]).dedup } }, maybeFlip p] s) s

/-- R301, R304: M_FLIP passes: every OPEN takes the new epoch. A part that is not the coordinator learns M_FLIP over CTL. -/
def execSwapFlip (part : Fin 16) (s : State) : Host.Outcome State Fault Refusal :=
  let p := part.val
  runAct (fun s =>
    match (s.job p).swap with
    | none => []
    | some w =>
      let st := s.fld F.LDR_SWAP_STS_STATE p
      if (st = 2 ∧ w.flip.any (fun f => decide (f ≤ s.mile)) = true) ∨
          (st = 1 ∧ s.rank p ≠ 0 ∧ w.newShards.all Shard.here = true) then
        seqA [modJob p fun j => { j with swap := some { w with flip := some (w.flip.getD s.mile) } },
          setF F.LDR_SWAP_STS_ADM_EPOCH p w.newEpoch, swapState p 3, swapDone p] s
      else []) s

/-! ## Low-water waves (R305) -/

/-- The wave of a stage, 4,096 for one without a wave. -/
def Swap.waveNo (w : Swap) (stage : Nat) : Nat := min 4096 (w.waveOf.getD stage 0xFFFF)

/-- Stages of the work items of passage i that stand on the scoreboards or wait as selections, and its last stage
dispatched, where none does. -/
def State.stepStages (s : State) (i : Nat) : List Nat :=
  let p := (s.passage i).part
  let l := (s.partDies p).flatMap fun d =>
    ((s.die d).sb.filter fun x => x.idx == i).map SbItem.stage ++
      (s.die d).routers.flatMap fun r => ((r.queue ++ r.waits).filter fun q => q.idx == i).filterMap fun q =>
        (s.stage p r.stage).bind fun st => s.expertStage p st.egroup q.expert
  if l.isEmpty then [(s.passage i).stage] else l

/-- R305: the low-water wave of an old-epoch passage; 4,096 where it is not counted. -/
def State.lowOf (s : State) (w : Swap) (i : Nat) : Nat :=
  let q := s.passage i
  if q.pendingIn ≠ 0 ∨ (q.stream = true ∧ q.closed = false) then 0
  else if q.inflight then ((s.stepStages i).map w.waveNo).foldl min 4096 else 4096

/-- The lowest low-water wave of the old-epoch passages homed on this part. -/
def State.lowWave (s : State) (p : Nat) (w : Swap) : Nat :=
  (((s.partLive p).filter fun i => (s.passage i).epoch != w.newEpoch).map (s.lowOf w)).foldl min 4096

/-- R305: a part's lowest low-water wave reaches the coordinator, which announces the waves that are clear. Its own rank's
value is the one the state gives. A part that is not the coordinator sends its own. -/
def execLowWaveReport (part : Fin 16) (rank : BitVec 14) (lw : Option (BitVec 13)) (s : State) :
    Host.Outcome State Fault Refusal :=
  let p := part.val
  runAct (fun s =>
    match (s.job p).swap with
    | none => []
    | some w =>
      if s.fld F.LDR_SWAP_STS_STATE p ≠ 3 ∨ s.nParts p ≤ rank.toNat then []
      else if s.rank p ≠ 0 then emit (.slice p "LOW_WAVE" (s.lowWave p w) 0) s
      else
        let v := if rank = 0 then s.lowWave p w else lw.elim 4096 BitVec.toNat
        let l := w.lows.filter (fun x => x.1 != rank.toNat) ++ [(rank.toNat, v)]
        let clear := if l.length < s.nParts p then w.clear else min w.nWave ((l.map Prod.snd).foldl min 4096)
        seqA [modJob p fun j => { j with swap := some { w with lows := l } },
          forA ((List.range clear).filter fun k => w.clear ≤ k) fun k => emit (.slice p "CLEAR" k 0)] s) s

/-! ## Waves (R306, R308, R310) -/

/-- Stages of a wave. -/
def Swap.stagesOf (w : Swap) (v : Nat) : List Nat := (w.waveOf.zipIdx.filter fun x => x.1 == v).map Prod.snd

/-- A wave's arrays on this part wait for programming, calibration or a rebind. -/
def State.waveBusy (s : State) (p : Nat) (w : Swap) (v : Nat) : Bool :=
  let ts := ((if w.shadow then w.copies.filter (fun r => w.waveOf.getD r.stage 0xFFFF == v) else (s.job p).waveReps w v)).flatMap
    Replica.tiles
  (ts.any fun t =>
    let x := s.die t.d.val
    (w.shadow && !s.keepTile t) || (x.progQ ++ x.progNow).any (fun q => q.tile == t) || x.calDue.any (fun c => c.tile == t && c.cls == 0) ||
      x.calNow.any fun c => c.tile == t && c.cls == 0) ||
    (s.job p).rebinds.any fun b => w.waveOf.getD b.stage 0xFFFF == v

/-- R306: wave v goes from OLD to WRITING: its arrays are queued to be rewritten, in class 4 of R295. -/
def writeWave (p v : Nat) : Act := fun s =>
  match (s.job p).swap with
  | none => []
  | some w =>
    seqA [modJob p fun j => { j with
        reps := j.reps.map (fun r => if w.waveOf.getD r.stage 0xFFFF = v then { r with epoch := w.newEpoch } else r) },
      setWave p v 1,
      forA ((s.job p).waveReps w v) fun r => forA r.tiles.zipIdx fun t => queueProg ⟨t.1, 4, p, r.stage, t.2, w.newEpoch, v, 0⟩] s

/-- R310: wave v goes from DOUBLE to NEW: the old copies' tiles are free, the new copies stand in their place. -/
def releaseWave (p v : Nat) : Act := fun s =>
  match (s.job p).swap with
  | none => []
  | some w =>
    let mine := fun (r : Replica) => w.waveOf.getD r.stage 0xFFFF == v
    let newOf := fun (r : Replica) => (w.copies.find? fun c => c.stage == r.stage && c.rep == r.rep).getD r
    seqA [forA (((s.job p).reps.filter mine).flatMap Replica.tiles) fun t => seqA [dropTile t, freeTile t 0],
      modJob p fun j => { j with
        reps := j.reps.map (fun r => if mine r then newOf r else r)
        rebinds := j.rebinds.filter (fun b => w.waveOf.getD b.stage 0xFFFF != v)
        swap := some { w with copies := w.copies.filter (fun r => !mine r) } },
      withA (fun s => (s.job p).rebinds.isEmpty) fun e => setFP F.BIL_BIND_STS_REBIND p (if e then 0 else 1),
      setWave p v 3, retree p] s

/-- Passages that no curfew holds any more go on (R307). -/
def curfewEnds (p : Nat) : Act := fun s =>
  forA (s.live.filter fun i => (s.passage i).open_ && (s.passage i).part == p && (s.passage i).hold == 1 && !(s.partDies p).any fun d => (s.die d).sb.any fun x =>
    x.idx == i && x.phase == 0 && x.ready && s.curfewed p x.stage (s.passage i).epoch) settleHold s

/-- One wave moves on as far as it can. -/
def waveStep (p v : Nat) : Act := fun s =>
  match (s.job p).swap with
  | none => []
  | some w =>
    match w.waves.getD v 3 with
    | 0 => if w.shadow = false ∧ v < w.clear then writeWave p v s else []
    | 1 => if s.waveBusy p w v then [] else setWave p v (if w.shadow then 2 else 3) s
    | 2 => if v < w.clear then releaseWave p v s else []
    | _ => []

/-- R306, R310: waves move on after an announcement or when their arrays are done; the swap may be DONE. -/
def waveProgress (p : Nat) : Act := fun s =>
  match (s.job p).swap with
  | none => []
  | some w =>
    seqA [forA (List.range w.nWave) fun v => seqA [waveStep p v, waveStep p v, waveStep p v],
      withA (fun s => ((s.job p).swap.elim [] Swap.copies).flatMap Replica.tiles) fun l =>
        forA l fun t => whenA (fun s => !s.keepTile t) (mendCopy p t),
      whenA (fun s => !(s.job p).swap.any fun w => w.newShards.any fun h => !h.here) (placeCopies p),
      curfewEnds p, maybeFlip p, swapDone p] s

/-- R306, R308, R310: the coordinator announces that wave w, and every wave before it, is clear. -/
def execWaveClear (part : Fin 16) (wave : BitVec 13) (s : State) : Host.Outcome State Fault Refusal :=
  let p := part.val
  runAct (fun s =>
    match (s.job p).swap with
    | none => []
    | some w =>
      if s.fld F.LDR_SWAP_STS_STATE p ≠ 3 then []
      else
        let c := max w.clear (min w.nWave (wave.toNat + 1))
        seqA [modJob p fun j => { j with
            swap := some { w with clear := c }
            shadows := j.shadows.filter (fun x => !(x.epoch != w.newEpoch && j.tier.any (fun e => e.1 == x.stage) &&
              decide (w.waveOf.getD x.stage 0xFFFF < c))) },
          setF F.LDR_SWAP_STS_LOW_WAVE p c, waveProgress p] s) s

/-- R309: M_FLIP plus LDR_SWAP_CMD.OLD_LIMIT ms have passed: old-epoch passages end with status UNLOADED. -/
def execOldLimitExpiry (part : Fin 16) (s : State) : Host.Outcome State Fault Refusal :=
  let p := part.val
  runAct (fun s =>
    match (s.job p).swap with
    | none => []
    | some w =>
      let lim := s.fld F.LDR_SWAP_CMD_OLD_LIMIT p
      let old := (s.partLive p).filter fun i => (s.passage i).epoch != w.newEpoch
      if s.fld F.LDR_SWAP_STS_STATE p = 3 ∧ lim ≠ 0 ∧ w.flip.any (fun f => decide (f.toNat + lim * 1000000 ≤ s.mile.toNat)) = true then
        seqA [bump F.LDR_OLD_ENDED p old.length, forA old fun i => endPassage i 5] s
      else []) s

end Sys2Proof.Machine
end

