-- ==== Sys2Proof/Machine/Calibration.lean ====
section
/-!
DEFINITION. Calibration and drift compensation (R340–R356): triggers, engagements, the fit of a pass, and how an attempt
ends; and the samples delivered to a die (R341, R470).
-/
namespace Sys2Proof.Machine

/-! ## Records (R341, R342) -/

/-- The calibration record in force of a tile: the newest of those its die owes the Keeper, else the Keeper's. -/
def State.calRec (s : State) (t : TileId) : CalRec :=
  (((s.die t.d.val).calOwed.filter fun x => x.1 == tileKey t).getLast?.map Prod.snd).getD (s.calr t)

/-- Write a tile's calibration record; while the Keeper is down the die owes it. -/
def putCalRec (t : TileId) (r : CalRec) : Act := iteA (fun s => s.keeperUp) (nvmWrite (setCalr t r))
  (modDie t.d.val fun x => { x with calOwed := x.calOwed ++ [(tileKey t, r)] })

/-- The sample of the sensor nearest a tile. -/
def State.tileTemp (s : State) (t : TileId) : Int := s.temp t.d.val (nearSns t)

/-- 10^8 × (1 + TC_G × 10^−6 × ΔT) with ΔT in 0.01 °C (R341). -/
def tcScale (dT : Int) : Int := 10 ^ 8 + sext 16 (noiseAt 0x80) * dT

/-- The tracking factor of R341 in 1/32,768. DESIGN CHOICE (log entry 30): rounded to the nearest. -/
def trackOf (dT : Int) : Nat := (clampI (roundDiv (32768 * 10 ^ 8) (tcScale dT)) 0 65535).toNat

/-! ## Triggers (R343) -/

/-- CAL_DELTA in 1/16 °C. -/
def State.calDelta (s : State) (d : Nat) : Nat := max 16 (s.fld F.CAL_CFG_DELTA d)

/-- R341, R343: a delivered sample sets the tracking factor, between two MVMs with their passes (R120, R350), and raises TEMP for a
bound array. -/
def sampleTile (t : TileId) : Act := fun s =>
  let dT := s.tileTemp t - (s.calRec t).tcal
  seqA [modConv t fun c => { c with next := trackOf dT, track := if s.arrBusy t then c.track else trackOf dT },
    modDie t.d.val fun x => { x with calDue := x.calDue.map fun c => if c.tile == t ∧ c.cls = 2 then { c with delta := dT.natAbs } else c },
    whenA (fun s => decide ((s.calDelta t.d.val : Int) * 100 < dT.natAbs * 16)) (calAsk t 2 dT.natAbs)] s

/-- Bound tiles of a die. -/
def State.boundTiles (s : State) (d : Nat) : List TileId :=
  (dieTiles (fin32 d)).filter fun t => (s.core (.tile t)).bound.isSome

/-- The throttle factor of R473 in 1/256: T in 0.01 °C. -/
def throttle (throt k floor : Nat) (t : Int) : Nat :=
  let r := fun (x : Int) => roundDiv x 100
  if t ≤ throt * 100 then 256
  else (max (r (256 * floor)) (256 - roundDiv (256 * k * (t - throt * 100)) 10000)).toNat

/-- The hottest of the 16 sensors of a die: its reading and number. -/
def State.hottest (s : State) (d : Nat) : Int × Nat :=
  ((List.range 16).map fun j => (s.temp d j, j)).foldl (fun b x => if b.1 < x.1 then x else b) (s.temp d 0, 0)

/-- T_d: the hottest sensor of a die, its stack's among them (R469, R473). -/
def State.dieTemp (s : State) (d : Nat) : Int :=
  match stackOf d with
  | some n => max (s.hottest d).1 (s.temp (32 + n) 0)
  | none => (s.hottest d).1

/-- The throttle factor of die d is computed and written to it (R473). -/
def setThrottle (d : Nat) : Act := fun s =>
  let throt := max 70 (min 95 (s.fld F.THM_CFG_THROT 0))
  seqA [setF (F.THM_DIE_FACTOR.nth d) 0 (throttle throt (max 1 (s.fld F.THM_CFG_K 0)) (max 1 (s.fld F.THM_CFG_FLOOR 0)) (s.dieTemp d)),
    setF (F.THM_DIE_TMAX.nth d) 0 (tc 16 (s.dieTemp d)), setF (F.THM_DIE_SNS.nth d) 0 (s.hottest d).2,
    withA (fun s => (List.range 32).countP fun k => s.fld (F.THM_DIE_FACTOR.nth k) 0 != 256) (setF F.THM_STS_NTHROT 0)] s

/-- R341, R470: a sample reaches die d: tracking factors and TEMP triggers. -/
def execSampleDelivery (d : Fin 32) (s : State) : Host.Outcome State Fault Refusal :=
  runAct (fun s =>
    if s.keeperUp = false then []
    else
      forA (s.boundTiles d.val) sampleTile s) s

/-- R343, R355: a write of CAL_CMD raises DEMAND for a tile, or for every bound array of the die. -/
def hostCalDemand (src : Src) (d : Fin 32) (v : Word) : Act := fun s =>
  (guardW src .cal d.val 0x110 fun s =>
    if bitsOf v 0 0 = 0 then []
    else if bitsOf v 20 20 = 1 then forA (s.boundTiles d.val) (fun t => calAsk t 1 0) s
    else forOpt (tileAt d.val (F.CAL_CMD_X.of v) (F.CAL_CMD_Y.of v)) (fun t => calAsk t 1 0) s) s

/-- CalDemand: the command of its row. -/
def execCalDemand (src : Src) (d : Fin 32) (v : Word) (s : State) : Host.Outcome State Fault Refusal :=
  runAct (hostCalDemand src d v) s

/-- R343: an array's calibration is CAL_CFG.PERIOD power-on hours old. -/
def execCalPeriodDue (t : TileId) (s : State) : Host.Outcome State Fault Refusal :=
  runAct (fun s =>
    let h := s.fld F.CAL_CFG_PERIOD t.d.val
    if h ≠ 0 ∧ s.keeperUp = true ∧ (s.calRec t).pos + h * 3600 ≤ s.nvm.pos then calAsk t 3 0 s else []) s

/-! ## Engagements (R345, R353) -/

/-- CAL_CFG.MAX as it acts. -/
def State.calMax (s : State) (d : Nat) : Nat := max 1 (min 256 (s.fld F.CAL_CFG_MAX d))

/-- A due array can be taken: bound (or newly programmed), with no MVM or pass running or to come (R120), no repeat pending (R336, R354) and no
test run, and room on its die. -/
def State.calReady (s : State) (c : CalDue) : Bool :=
  let k := s.core (.tile c.tile)
  let st := s.arrState c.tile
  (st == 1 || (c.cls == 0 && st == 3)) && !s.arrBusy c.tile && !(s.die c.tile.d.val).parked && k.testRet.isNone &&
    !(k.item.any fun w => w.retry) && decide ((s.die c.tile.d.val).calNow.length < s.calMax c.tile.d.val) &&
    !(s.die c.tile.d.val).progNow.any fun q => q.tile == c.tile

/-- 250 firing units of a pass (R346) in femtojoules (4.2 nJ each, R85). -/
def calCharge : Int := 250 * 4200000

/-- R353: items that have not started on a tile in CAL go to the tier engine where the recipe sets TIER_SUB. -/
def calDivert (t : TileId) : Act := fun s =>
  let k := s.core (.tile t)
  let mv := k.queue.filter fun w => w.rcp.tierSub
  seqA [whenA (fun _ => !mv.isEmpty) (modCore (.tile t) fun k => { k with queue := k.queue.filter fun w => !w.rcp.tierSub }),
    forA mv fun w => emit (.ctl "TIER" t.d.val w.part w.stage (idxOf w.handle))] s

/-- An array enters CAL. -/
def enterCal (c : CalDue) : Act := fun s =>
  let d := c.tile.d.val
  seqA [modDie d fun x => { x with calDue := x.calDue.filter (fun y => y.tile != c.tile)
                                   calNow := x.calNow ++ [⟨c.tile, c.cls, s.tileTemp c.tile, none, false⟩]
                                   credit := x.credit - calCharge, used := x.used + calCharge },
    setF F.TIL_ARR_STS_STATE (tileKey c.tile) 2, calDivert c.tile] s

/-- A gap of a replica of a stage. -/
def inGap (stage rep : Nat) (g : Nat × Nat × Word) : Bool := g.1 == stage && g.2.1 == rep

/-- An array of another replica of a stage is in CAL on this part (R345). -/
def State.stageInCal (s : State) (p : Nat) (r : Replica) : Bool :=
  (s.repsOf p r.stage).any fun q => q.rep != r.rep && q.tiles.any fun t => (s.die t.d.val).calNow.any fun c => c.tile == t

/-- R345: one due array is offered to an engagement: START alone, the others with every due array of their replica. -/
def engage (c : CalDue) : Act := fun s =>
  if (s.die c.tile.d.val).calDue.contains c = false then []
  else if c.cls = 0 then (if s.calReady c then enterCal c s else [])
  else match s.replicaAt c.tile with
  | none => []
  | some (p, r, _) =>
    if s.stageInCal p r = true ∨ (s.die r.anchor.d.val).calGap.any (inGap r.stage r.rep) = true then []
    else forA (r.tiles.flatMap fun t => (s.die t.d.val).calDue.filter fun y => y.tile == t && y.cls != 0)
      (fun y => whenA (fun s => s.calReady y) (enterCal y)) s

/-- R345: die d takes due arrays into CAL, in the order of their classes. -/
def execCalEngage (d : Fin 32) (s : State) : Host.Outcome State Fault Refusal :=
  runAct (fun s => if s.power.gated then [] else forA (sortKey (fun (c : CalDue) => (c.cls, if c.cls = 2 then (2 ^ 20 - c.delta).toNat else 0, c.ord, 0))
    (s.die d.val).calDue) engage s) s

/-! ## The fit of a pass (R347–R349) -/

/-- The sum of the 2,048 codes of ADC a at point p (1–8) of a pass (free, R347; a code is −128 to +127). -/
def calSum (n a p : Nat) : Int := clampI (Config.calReading n a p) (-128 * 2048) (127 * 2048)

/-- The trims of ADC a from a pass: OFFSET cancels point 1, GAIN makes points 3 and 5 differ by 224 codes. DESIGN CHOICE
(log entry 31): each rounded to the nearest step. -/
def fitTrim (n a : Nat) : Trim :=
  let o := clampI (roundDiv (-(calSum n a 1) * 16) 2048) (-128) 127
  let dif := calSum n a 3 - calSum n a 5
  ⟨o, if dif ≤ 0 then 65535 else (clampI (roundDiv (32768 * 224 * 2048) dif) 0 65535).toNat⟩

/-- D_a of an ADC in 1/32,768 with 16 further fraction bits, both trims applied (R347). -/
def fitD (n a : Nat) : Int :=
  let o := (fitTrim n a).ofs
  let den := 2 * (calSum n a 2 * 16 + o * 2048)
  if den ≤ 0 then 65535 * 65536 else roundDiv ((calSum n a 3 - calSum n a 5) * 16 * 32768 * 65536) den

/-- The median of the 66 values: the mean of the 33rd and 34th, in 1/32,768. -/
def medianD (l : List Int) : Nat :=
  let q := sortKey (fun (x : Int) => (x.toNat, 0, 0, 0)) l
  (clampI (roundDiv (q.getD 32 0 + q.getD 33 0) 131072) 0 65535).toNat

/-- A pass: the 66 trims and D. -/
def fitPass (n : Nat) : List Trim × Nat := ((List.range 66).map (fitTrim n), medianD ((List.range 66).map (fitD n)))

/-- R348: the two passes agree on an ADC. -/
def trimAgree (agree : Nat) (a b : Trim) : Bool :=
  decide ((a.ofs - b.ofs).natAbs * 2048 + 127 * ((a.gain : Int) - b.gain).natAbs ≤ agree * 512)

/-- The mean of two passes. -/
def meanTrim (a b : Trim) : Trim := ⟨roundDiv (a.ofs + b.ofs) 2, (roundDiv ((a.gain : Int) + b.gain) 2).toNat⟩

/-- The ideal reading of a point in 2^−20 LSB (R347). -/
def idealFp (rng d p : Nat) : Int :=
  let one : Int := 2 ^ 20
  let n := 16 * 2 ^ rng
  match p with
  | 2 => roundDiv (112 * 32768 * one) (max 1 d)
  | 3 => 112 * one
  | 4 => 56 * one
  | 5 => -112 * one
  | 6 => -56 * one
  | 8 => ((List.range n).map fun r => ((r % 15 : Nat) : Int) - 7).sum * one / 2 ^ rng
  | _ => 0

/-- R349: CAL_QF of the readings of draw n corrected by trims, in 1/64 LSB. -/
def calQf (n rng d : Nat) (ts : List Trim) : Nat :=
  let sq := ((List.range 66).flatMap fun a =>
    let t := ts.getD a ⟨0, 32768⟩
    (List.range 8).map fun k =>
      let y := calSum n a (k + 1) * 512 + t.ofs * 65536
      (y * t.gain / 32768 - idealFp rng d (k + 1)).natAbs ^ 2).sum
  min 0xFE ((Nat.sqrt (sq / 528) + 2 ^ 13) / 2 ^ 14)

/-! ## How an attempt ends (R346, R351, R352) -/

/-- The gap of a replica begins when the last of its arrays leaves CAL (R345). -/
def leaveCal (t : TileId) : Act := fun s =>
  seqA [modDie t.d.val fun x => { x with calNow := x.calNow.filter fun c => c.tile != t },
    withA (fun s => s.replicaAt t) fun r => forOpt r fun r =>
      whenA (fun s => !(r.2.1.tiles.any fun u => (s.die u.d.val).calNow.any fun c => c.tile == u))
        (modDie r.2.1.anchor.d.val fun x => { x with
          calGap := x.calGap.filter (fun g => !inGap r.2.1.stage r.2.1.rep g) ++ [(r.2.1.stage, r.2.1.rep, s.mile)] })] s

/-- An array that left CAL without new corrections is due again. -/
def dueAgain (t : TileId) (cls : Nat) : Act := fun s =>
  let dT := if cls = 2 then (s.tileTemp t - (s.calRec t).tcal).natAbs else 0
  modDie t.d.val (fun x => { x with calDue := x.calDue ++ [⟨t, cls, dT, x.sbOrd⟩], sbOrd := x.sbOrd + 1 }) s

/-- R351: whether the drift check fails. -/
def State.driftBad (s : State) (t : TileId) (cls dNew : Nat) : Bool :=
  let r := s.calRec t
  let tol := s.fld F.CAL_CFG_DRIFT_TOL t.d.val
  let k := tcScale (s.tileTemp t - r.tcal)
  cls != 0 && r.qf != 0xFF && tol != 0 && decide ((tol : Int) * k < ((dNew : Int) * 10 ^ 8 - r.d * k).natAbs)

/-- R531: the start-up calibration of an array whose cells were kept over P3 measures D against the recorded one: lower by more than
1,311/32,768, the array is programmed again. -/
def reuseCheck (t : TileId) (d : Nat) : Act := fun s =>
  let l := (s.die t.d.val).reused.filter fun q => q.tile == t
  seqA [modDie t.d.val fun x => { x with reused := x.reused.filter fun q => q.tile != t },
    whenA (fun _ => (s.calRec t).qf != 0xFF && decide (d + 1311 < (s.calRec t).d)) (forA (l.take 1) fun q => queueProg { q with cls := 2 })] s

/-- An attempt is accepted: corrections applied together, record written, the array BOUND (R350, R351); its
wave may go on (R306). -/
def calAccept (t : TileId) (ts : List Trim) (d qf : Nat) : Act := fun s =>
  seqA [reuseCheck t d, modConv t fun c => { c with trims := ts, track := 0x8000, next := 0x8000 },
    putCalRec t ⟨d, s.tileTemp t, qf, 0, s.nvm.pos⟩, bump F.CAL_CNT_ACCEPTED t.d.val 1,
    setF F.TIL_ARR_STS_STATE (tileKey t) 1, leaveCal t, withA (fun s => s.part t.d.val) waveProgress] s

/-- An attempt is bad; the third in succession retires the tile (R351, R352). -/
def calBad (t : TileId) (cls : Nat) : Act := fun s =>
  let d := t.d.val
  let r := s.calRec t
  let n := min 3 (r.bad + 1)
  let again : Act := if cls = 0 then modDie d fun x => { x with
      calNow := x.calNow.map fun c => if c.tile == t then { c with pass1 := none, startT := s.tileTemp t, voided := false } else c
      credit := x.credit - calCharge, used := x.used + calCharge }
    else seqA [setF F.TIL_ARR_STS_STATE (tileKey t) 1, leaveCal t, dueAgain t cls]
  seqA [putCalRec t { r with bad := n }, bump F.CAL_CNT_BAD d 1,
    if n = 3 ∧ r.bad < 3 then seqA [bump F.CAL_FLAG_RETIRED d 1, if cls = 0 ∧ s.keeperUp = true then leaveCal t else again,
      dieRecord d (plainRec s (unitTile 0 t) 10 ((s.core (.tile t)).bound.elim 0xFFFF fun b => b.1) 0)]
    else again] s

/-- An attempt is void (R351). -/
def calVoid (t : TileId) (cls : Nat) : Act := fun s =>
  seqA [bump F.CAL_FLAG_VOID t.d.val 1,
    if cls = 0 then modDie t.d.val fun x => { x with
      calNow := x.calNow.map fun c => if c.tile == t then { c with pass1 := none, startT := s.tileTemp t, voided := false } else c
      credit := x.credit - calCharge, used := x.used + calCharge }
    else seqA [setF F.TIL_ARR_STS_STATE (tileKey t) 1, leaveCal t, dueAgain t cls]] s

/-- R346–R352: a pass of tile t's attempt ends: the first is fitted and repeated, the second decides; a retirement that waited for
the end of the pass follows (R336). Whether a reading held a rail code is free. -/
def execCalPassDone (t : TileId) (s : State) : Host.Outcome State Fault Refusal :=
  runAct (fun s =>
    let d := t.d.val
    match (s.die d).calNow.find? fun c => c.tile == t with
    | none => []
    | some a =>
      match a.pass1 with
      | none => seqA [modDie d fun x => { x with
            calNow := x.calNow.map fun c => if c.tile == t then { c with pass1 := some (fitPass s.free) } else c
            credit := x.credit - calCharge, used := x.used + calCharge }, draw, retireDue t] s
      | some p1 =>
        let p2 := fitPass s.free
        let ts := (p1.1.zip p2.1).map fun x => meanTrim x.1 x.2
        let dn := (roundDiv ((p1.2 : Int) + p2.2) 2).toNat
        let rng := s.fld F.TIL_ARR_CFG_RNG (tileKey t)
        let qf := calQf s.free rng dn ts
        let ok := (p1.1.zip p2.1).all (fun x => trimAgree (max 1 (s.fld F.CAL_CFG_AGREE d)) x.1 x.2) &&
          decide (qf ≤ s.fld F.CAL_CFG_QF_MAX d) && !Config.freeBool s.free && !s.driftBad t a.cls dn
        seqA [draw,
          if a.voided || decide (100 < (s.tileTemp t - a.startT).natAbs) then calVoid t a.cls
          else if ok then calAccept t ts dn qf else calBad t a.cls, retireDue t] s) s

/-- R345: the gap of a replica, CAL_HOLD.GAP µs long, ends on its anchor's die. -/
def execCalGapExpiry (d : Fin 32) (stage : BitVec 16) (rep : BitVec 8) (s : State) : Host.Outcome State Fault Refusal :=
  runAct (fun s => modDie d.val (fun x => { x with calGap := x.calGap.filter fun g => !(inGap stage.toNat rep.toNat g &&
    decide (1000 * s.fld F.CAL_HOLD_GAP d.val ≤ (s.mile - g.2.2).toNat)) }) s) s

end Sys2Proof.Machine
end

