-- ==== Sys2Proof/Machine/Fabric.lean ====
section
/-!
DEFINITION. The system fabric (R358–R389): links with training, credits and replay, packets between parts, slices, the
milestone counter and the service ports; and how a job is stopped (R404–R406).
-/
namespace Sys2Proof.Machine

/-! ## Credit pools (R367) -/

/-- The VCs in the order of their codes. -/
def allVcs : List Vc := [.ctl, .act, .red, .bulk, .trn]

/-- The key of a credit pool: VC, class, entry. -/
def poolKey (vc : Vc) (clsB : Bool) (ent : Nat) : Nat := bufKey vc clsB * 32 + ent

/-- The credit allotment of a VC on link n in flits, both classes together; the defaults where the sum is above 512. -/
def State.allot (s : State) (n : Nat) (vc : Vc) : Nat :=
  let w := s.reg .bfp n 0x108
  let f : Word → Vc → Nat := fun w v => match v with
    | .ctl => F.BFP_CREDIT_CTL.of w
    | .act => F.BFP_CREDIT_ACT.of w
    | .red => F.BFP_CREDIT_RED.of w
    | .bulk => F.BFP_CREDIT_BULK.of w
    | .trn => F.BFP_CREDIT_TRN.of w
  16 * f (if 512 < (allVcs.map fun v => f w v).sum then regReset .bfp 0x108 else w) vc

/-- The valid entries of link n's share table, with their jobs and shares (R378, R386). -/
def State.shares (s : State) (n : Nat) : List (Nat × Nat × Nat) :=
  (List.range 16).filterMap fun e =>
    let w := s.reg .bfp n (0x200 + 8 * e)
    if F.BFP_SHARE_VALID.of w = 1 then some (e, F.BFP_SHARE_JOB.of w, min 64 (F.BFP_SHARE_SHARE.of w)) else none

/-- R367: the pools an allotment is divided into. -/
def poolsOf (l : List (Nat × Nat × Nat)) (a : Nat) : List (Nat × Nat) :=
  if l.length < 2 then [(16, a)]
  else
    let rest := a - a / 16
    let sum := (l.map fun x => x.2.2).sum
    let give := l.map fun x => (x.1, if sum = 0 then 0 else rest * x.2.2 / sum)
    let left := rest - (give.map Prod.snd).sum
    (match give with
      | [] => []
      | x :: r => (x.1, x.2 + left) :: r) ++ [(16, a / 16)]

/-- The pools a receiver grants: key and flits, per class. -/
def State.grants (s : State) (n : Nat) : List (Nat × Nat) :=
  allVcs.flatMap fun v => (poolsOf (s.shares n) (s.allot n v)).flatMap fun x =>
    [(poolKey v false x.1, x.2 / 2), (poolKey v true x.1, x.2 / 2)]

/-- The pool a job's flits use on link n. -/
def State.entOf (s : State) (n job : Nat) : Nat :=
  if (s.shares n).length < 2 then 16 else (((s.shares n).find? fun x => x.2.1 == job).map Prod.fst).getD 16

/-- Credits a sender holds before a CREDIT_INIT: none. -/
def noCredit (_ : Nat) : Nat := 0

/-! ## Flits (R361–R363, R370) -/

/-- Slice coordinates in the form of DST. -/
def coordWord (x y z : Nat) : Nat := x + y * 2 ^ 6 + z * 2 ^ 12

/-- The system header, package header and payload of a packet (R370). -/
def sysBytes (k : SysPacket) : List Byte :=
  leBytes 4 (coordWord k.dx.val k.dy.val k.dz.val + if k.mc then 2 ^ 18 else 0) ++ leBytes 4 (coordWord k.sx.val k.sy.val k.sz.val) ++
    leBytes 2 k.job.toNat ++ leBytes 1 k.spart.val ++ leBytes 1 k.hops.toNat ++ leBytes 2 k.tree.toNat ++ leBytes 2 1 ++ pktBytes k.pkt

/-! ### The flit's layout (R361) -/

/-- A flit's 12-byte header. -/
def bfpHead (f : BfpFlit) : Nat :=
  let b := fun (x : Bool) (i : Nat) => if x then 2 ^ i else 0
  f.ftype.toNat + vcCode f.vc * 2 ^ 3 + b f.clsB 6 + b f.head 7 + b f.tail 8 + f.seq.toNat * 2 ^ 9 + f.ack.toNat * 2 ^ 21 + b f.nak 33 +
    vcCode f.crVc * 2 ^ 34 + b f.crCls 37 + f.crEnt.val * 2 ^ 38 + f.crCnt.toNat * 2 ^ 43 + f.len.toNat * 2 ^ 51 + f.lsub.toNat * 2 ^ 64 +
    f.ent.val * 2 ^ 72

/-- The 252 bytes of a flit under its CRC-32, and the CRC-32 it should carry. -/
def bfpBytes (f : BfpFlit) : List Byte := leBytes 12 (bfpHead f) ++ padTo 240 f.data
def bfpSum (f : BfpFlit) : Word32 := BitVec.ofNat 32 (crc32 (bfpBytes f))

/-- A flit whose CRC-32 holds, and a flit given its CRC-32. -/
def bfpIntact (f : BfpFlit) : Bool := f.crc == bfpSum f
def bfpSeal (f : BfpFlit) : BfpFlit := { f with crc := bfpSum f }

/-- The DATA flits of a packet in a class and pool, not yet sent on a link (R363). -/
def sysFlits (k : SysPacket) (clsB : Bool) (ent : Nat) : List BfpFlit :=
  let l := chunksOf 240 (sysBytes k)
  l.zipIdx.map fun x => { crc := 0, uncorr := false, corr := 0, ftype := 1, vc := k.pkt.vc, clsB := clsB, head := x.2 == 0
                          tail := x.2 + 1 == l.length, seq := 0, ack := 0, nak := false, crVc := .ctl, crCls := false, crEnt := 0
                          crCnt := 0, ent := ⟨ent % 32, Nat.mod_lt _ (by decide)⟩, len := BitVec.ofNat 8 x.1.length, lsub := 0
                          data := padTo 240 x.1 }

/-- The pool of a flit. -/
def flitPool (f : BfpFlit) : Nat := poolKey f.vc f.clsB f.ent.val

/-- An IDLE flit: acknowledgement, NAK and n credits of a pool. -/
def idleBfp (ack : Nat) (nak : Bool) (pool n : Nat) : BfpFlit :=
  bfpSeal { crc := 0, uncorr := false, corr := 0, ftype := 0, vc := .ctl, clsB := false, head := false, tail := false, seq := 0
            ack := BitVec.ofNat 12 ack, nak := nak, crVc := keyVc (pool / 32), crCls := pool / 32 % 2 == 1
            crEnt := ⟨pool % 32, Nat.mod_lt _ (by decide)⟩, crCnt := BitVec.ofNat 8 n, ent := 0, len := 0, lsub := 0, data := List.replicate 240 0 }

/-- The last flit of a packet in a pool that was cut off on its way (log entry 35). -/
def endBfp (pool : Nat) : BfpFlit :=
  { idleBfp 0 false 0 0 with
    ftype := 1, vc := keyVc (pool / 32), clsB := pool / 32 % 2 == 1, tail := true, ent := ⟨pool % 32, Nat.mod_lt _ (by decide)⟩ }

/-- The CREDIT_INIT flit of a list of grants. DESIGN CHOICE (log entry 36): two-byte counts by VC and pool 0–16, the same for both
classes. -/
def creditFlit (g : List (Nat × Nat)) (seq ack : Nat) : BfpFlit :=
  bfpSeal { idleBfp ack false 0 0 with
    ftype := 2, seq := BitVec.ofNat 12 seq, lsub := 3
    data := padTo 240 (allVcs.flatMap fun v => (List.range 17).flatMap fun e =>
      leBytes 2 ((g.find? fun x => x.1 == poolKey v false e).elim 0 Prod.snd)) }

/-! ### Buffers (R367, R371) -/

/-- The flits of a buffer's first packet that are there. -/
def firstSys (l : List BfpFlit) : List BfpFlit :=
  match l.findIdx? BfpFlit.tail with
  | some i => l.take (i + 1)
  | none => l

namespace BfpLink

/-- A buffer, the routed packets at its front, and the buffers that hold anything. -/
def inBuf (k : BfpLink) (b : Nat) : List BfpFlit := SMap.get (fun _ => []) k.rxBuf b
def routed (k : BfpLink) (b : Nat) : List FabCross := SMap.get (fun _ => []) k.cur b
def bufs (k : BfpLink) : List Nat := (SMap.keys k.rxBuf ++ SMap.keys k.cur).dedup

/-- R371 (R139, R143): the flits at the front of buffer b that every branch has taken leave it, and their credits are owed; with its tail
gone the packet has left. A packet without a branch is discarded. -/
def settle (b : Nat) (k : BfpLink) : BfpLink :=
  match k.routed b with
  | [] => k
  | c :: r =>
    let l := firstSys (k.inBuf b)
    let m := match c.outs.map FabBranch.taken with
      | [] => l.length
      | x :: t => t.foldl min x - c.gone
    let out := l.take m
    { k with rxBuf := SMap.set (fun _ => []) k.rxBuf b ((k.inBuf b).drop out.length)
             cur := SMap.set (fun _ => []) k.cur b (if out.any BfpFlit.tail then r else { c with gone := c.gone + out.length } :: r)
             owed := k.owed ++ out.map flitPool }

/-- The packet at the front of buffer b has its branch by link n taken m flits further, in a pool. -/
def take (b n ent m : Nat) (k : BfpLink) : BfpLink :=
  settle b { k with cur := SMap.set (fun _ => []) k.cur b (match k.routed b with
    | [] => []
    | c :: r => { c with outs := c.outs.map fun o => if o.link = n then { o with ent := ent, taken := o.taken + m } else o } :: r) }

/-- Branches by link n of the packets `hit` names leave buffer b. -/
def prune (n : Nat) (hit : SysPacket → Bool) (b : Nat) (k : BfpLink) : BfpLink :=
  settle b { k with cur := SMap.set (fun _ => []) k.cur b ((k.routed b).map fun c =>
    if hit c.pkt then { c with outs := c.outs.filter fun o => o.link != n } else c) }

/-- A sequenced flit goes out on the link (R362): numbered, acknowledging, kept. -/
def put (f : BfpFlit) (k : BfpLink) : BfpLink × BfpFlit :=
  let g := bfpSeal { f with seq := BitVec.ofNat 12 k.txSeq, ack := BitVec.ofNat 12 k.rxSeq }
  ({ k with txSeq := (k.txSeq + 1) % 4096, kept := k.kept ++ [g] }, g)

/-- What every intact flit carries: an acknowledgement, and credits for a pool (R361). -/
def heard (f : BfpFlit) (k : BfpLink) : BfpLink :=
  let key := poolKey f.crVc f.crCls f.crEnt.val
  { k with credits := SMap.set noCredit k.credits key (SMap.get noCredit k.credits key + f.crCnt.toNat)
           naks := if k.kept.any (fun g => g.seq == f.ack) then 0 else k.naks
           kept := (match k.kept.findIdx? fun g => g.seq == f.ack with
             | some i => k.kept.drop (i + 1)
             | none => k.kept) }

/-- The buffer at whose front the head of a packet waits to be routed. -/
def headOf (k : BfpLink) (x : SysPacket) : Option Nat :=
  k.bufs.find? fun b => (k.routed b).isEmpty &&
    (k.inBuf b).head?.any fun f => f.head && (sysFlits x false 0).head?.any fun g => g.data == f.data

end BfpLink

/-! ### Arbitration (R367, R368) -/

/-- What link n could send next: link and buffer it comes from, the packet and its branch. -/
structure FabOffer where
  i : Nat
  b : Nat
  c : FabCross
  o : FabBranch

/-- Link n is UP. -/
def State.linkUp (s : State) (n : Nat) : Bool := s.fld F.BFP_LNK_STS_STATE n == 2

/-- The links, and the part itself. -/
def fabSides : List Nat := List.range 13

/-- Everything that waits at the port blocks and is there to go on. -/
def State.fabOffers (s : State) : List FabOffer :=
  fabSides.flatMap fun i => (s.bfpLink i).bufs.flatMap fun b =>
    match (s.bfpLink i).routed b with
    | [] => []
    | c :: _ => (c.outs.filter fun o => decide (o.taken - c.gone < (firstSys ((s.bfpLink i).inBuf b)).length)).map fun o => ⟨i, b, c, o⟩

/-- The number of an offer's buffer among all. -/
def FabOffer.src (x : FabOffer) : Nat := x.i * 8192 + x.b + 1

/-- The pool an offer's next flit travels in on link n: a packet keeps the pool its head took. -/
def State.poolOf (s : State) (n : Nat) (x : FabOffer) : Nat :=
  if x.o.taken = 0 then s.entOf n x.c.pkt.job.toNat else x.o.ent
def State.poolKeyOf (s : State) (n : Nat) (x : FabOffer) : Nat := poolKey x.c.pkt.pkt.vc x.o.clsB (s.poolOf n x)

/-- The share entry an offer's job has on link n, 16 for none. -/
def State.arbEnt (s : State) (n : Nat) (x : FabOffer) : Nat :=
  (((s.shares n).find? fun e => e.2.1 == x.c.pkt.job.toNat).map Prod.fst).getD 16

/-- An offer may go on link n: it holds a credit, and its packet is the one on its way in its pool, or begins. -/
def State.mayGoFab (s : State) (n : Nat) (x : FabOffer) : Bool :=
  let k := s.bfpLink n
  let key := s.poolKeyOf n x
  x.o.link == n && SMap.get noCredit k.credits key != 0 && SMap.get noUsed k.lock key == (if x.o.taken = 0 then 0 else x.src)

/-- A turn of a weighted round robin among what waits: the one served while slots are left of its turn, else the next in order. -/
def nextTurn (n : Nat) (weight : Nat → Nat) (waits : Nat → Bool) (t : Nat × Nat) : Nat × Nat :=
  if t.2 ≠ 0 ∧ waits t.1 = true then (t.1, t.2 - 1)
  else
    let v := (((List.range n).map fun i => (t.1 + 1 + i) % n).find? waits).getD 0
    (v, max 1 (weight v) - 1)

/-- No turn of a VC has begun. -/
def noTurn (_ : Nat) : Nat × Nat := (0, 0)

/-- R368: what link n sends next, with its turns after it: CTL of any job, then the share entries by their weights and within one its VCs
by BFP_ARB, then the jobs without an entry. DESIGN CHOICE (log entry 164): a turn is as many flits as the weight; jobs without an entry
share the VC weights too. -/
def State.fabPick (s : State) (n : Nat) : Option (FabOffer × BfpLink) :=
  let k := s.bfpLink n
  let l := s.fabOffers.filter (s.mayGoFab n)
  match l.find? fun x => x.c.pkt.pkt.vc == .ctl with
  | some x => some (x, k)
  | none =>
    let has := fun (e : Nat) => l.any fun x => s.arbEnt n x == e
    let t := if (List.range 16).any has then nextTurn 16 (fun e => (((s.shares n).find? fun x => x.1 == e).map fun x => x.2.2).getD 0) has k.turn
      else k.turn
    let e := if (List.range 16).any has then t.1 else 16
    let m := l.filter fun x => s.arbEnt n x == e
    let w := (s.fld F.BFP_ARB_W n)
    let v := nextTurn 5 (fun v => w / 16 ^ (v - 1) % 16) (fun v => m.any fun x => vcCode x.c.pkt.pkt.vc == v) (SMap.get noTurn k.vcTurn e)
    (m.find? fun x => vcCode x.c.pkt.pkt.vc == v.1).map fun x => (x, { k with turn := t, vcTurn := SMap.set noTurn k.vcTurn e v })

/-! ### Flow (R362, R363, R371) -/

/-- A DATA flit goes out on link n in a pool; its credit is used. -/
def sendBfp (n pool : Nat) (f : BfpFlit) : Act := fun s =>
  let y := (s.bfpLink n).put f
  seqA [modBfp n fun _ => { y.1 with credits := SMap.set noCredit y.1.credits pool (SMap.get noCredit y.1.credits pool - 1) },
    emit (.bfpFlits n [y.2]), bumpW F.BFP_FLITS_COUNT n 1] s

/-- What link n sends next: the end of a packet that was cut off, or what R368 chooses; nothing without a credit, with 2,048 flits not
acknowledged, or while it is not UP (R404). -/
def sendFab (n : Nat) : Act := fun s =>
  let k := s.bfpLink n
  if s.linkUp n = false ∨ 2048 ≤ k.kept.length then []
  else match k.ends.find? fun e => SMap.get noCredit k.credits e != 0 with
  | some e => seqA [sendBfp n e (endBfp e), modBfp n fun y => { y with ends := y.ends.erase e, lock := SMap.set noUsed y.lock e 0 }] s
  | none =>
    match s.fabPick n with
    | none => []
    | some (x, k') =>
      let key := s.poolKeyOf n x
      forOpt (sysFlits x.c.pkt x.o.clsB (s.poolOf n x))[x.o.taken]? (fun f =>
        seqA [modBfp n fun _ => { k' with lock := SMap.set noUsed k'.lock key (if f.tail then 0 else x.src) }, sendBfp n key f,
          modBfp x.i (BfpLink.take x.b n (s.poolOf n x) 1)]) s

/-- The partition whose set slice names a job. -/
def State.slicePart (s : State) (job : Nat) : Option Nat :=
  (List.range 16).find? fun p => (s.slice p).set && (s.slice p).job == job

/-- A packet enters the package at the port block of link n, for the partition that holds its job (R371). -/
def injectSys (n : Nat) (k : SysPacket) : Act := fun s =>
  let r := s.portRouter n
  forOpt (s.slicePart k.job.toNat) (fun p => enterAt r ((portSide r).getD .l) { k.pkt with
    part := ⟨p % 64, Nat.mod_lt _ (by decide)⟩, mc := k.mc, tree := if k.mc then k.tree else k.pkt.tree }) s

/-- A packet's flits that are there leave for the package; with its tail the packet is injected. -/
def sinkFab (x : FabOffer) : Act := fun s =>
  let l := (firstSys ((s.bfpLink x.i).inBuf x.b)).drop (x.o.taken - x.c.gone)
  seqA [modBfp x.i (BfpLink.take x.b 12 16 l.length),
    whenA (fun _ => l.any BfpFlit.tail && x.o.taken + l.length == (sysFlits x.c.pkt false 0).length) (injectSys x.i x.c.pkt)] s

/-- One thing the port blocks can do: flits leave for the package, one goes out on a link, or some are discarded with their packet. -/
def fabStep : Act := fun s =>
  match s.fabOffers.find? fun x => x.o.link == 12 with
  | some x => sinkFab x s
  | none =>
    match ((List.range 12).map fun n => sendFab n s).find? fun l => !l.isEmpty with
    | some l => l
    | none => (fabSides.flatMap fun i => (s.bfpLink i).bufs.flatMap fun b =>
        let k := s.bfpLink i
        if k.settle b = k then [] else [Eff.bfpLink i (k.settle b)]).take 1

/-- The port blocks go on as far as their buffers hold flits and their links credits. -/
def fabFor : Nat → Act
  | 0 => skip
  | n + 1 => fun s =>
    let l := fabStep s
    if l.isEmpty then [] else seqA [fun _ => l, fabFor n] s

/-- R361, R367: the credits link n owes go back, up to 255 of one pool in a flit. -/
def payFab (n : Nat) : Act := fun s =>
  let k := s.bfpLink n
  if k.owed.isEmpty then []
  else seqA [modBfp n fun x => { x with owed := [] },
    whenA (fun s => s.linkUp n) (forA (k.owed.dedup.flatMap fun b =>
      let m := k.owed.countP fun x => x == b
      (List.range ((m + 254) / 255)).map fun i => (b, min 255 (m - 255 * i))) fun x => emit (.bfpFlits n [idleBfp k.rxSeq false x.1 x.2]))] s

def fabFlow : Act := fun s =>
  let n := (fabSides.flatMap fun i => (s.bfpLink i).bufs.map fun b => ((s.bfpLink i).inBuf b).length + ((s.bfpLink i).routed b).length).sum
  let e := ((List.range 12).map fun i => (s.bfpLink i).ends.length).sum
  seqA [fabFor (14 * n + e + 1), forA fabSides payFab] s

/-- Nothing is on its way through the port blocks: no packet is routed, none is to be ended, and no credit is owed. -/
def State.fabQuiet (s : State) : Bool :=
  fabSides.all fun i => (s.bfpLink i).cur.isEmpty && (s.bfpLink i).ends.isEmpty && (s.bfpLink i).owed.isEmpty

/-- A packet of the part's own leaves by link n; a link that is not UP carries nothing (R404). -/
def sendSys (n : Nat) (k : SysPacket) (clsB : Bool) : Act := fun s =>
  let e := s.entOf n k.job.toNat
  let b := n * 512 + poolKey k.pkt.vc clsB e
  if s.linkUp n then seqA [modBfp 12 fun x => { x with
      rxBuf := SMap.set (fun _ => []) x.rxBuf b (x.inBuf b ++ sysFlits k clsB e)
      cur := SMap.set (fun _ => []) x.cur b (x.routed b ++ [⟨k, 0, [⟨n, clsB, e, 0⟩]⟩]) }, fabFlow] s else []

/-- Send what this side's receiver grants in a CREDIT_INIT flit, which is sequenced and kept for replay (R362). -/
def creditInit (n : Nat) : Act := fun s =>
  let f := creditFlit (s.grants n) (s.bfpLink n).txSeq (s.bfpLink n).rxSeq
  seqA [emit (.bfpFlits n [f]), modBfp n fun x => { x with txSeq := (x.txSeq + 1) % 4096, kept := x.kept ++ [f] }] s

/-- Packets that `hit` names no longer leave by link n; one whose head has gone out there is ended behind what was sent. -/
def cutFab (n : Nat) (hit : SysPacket → Bool) : Act := fun s =>
  let lock := (s.bfpLink n).lock
  let begun := fabSides.flatMap fun i => (s.bfpLink i).bufs.flatMap fun b => (((s.bfpLink i).routed b).take 1).flatMap fun c =>
    ((c.outs.filter fun o => hit c.pkt && o.link == n).map fun o => poolKey c.pkt.pkt.vc o.clsB o.ent).filter fun e =>
      SMap.get noUsed lock e == (FabOffer.mk i b c ⟨n, false, 0, 0⟩).src
  seqA [modBfp n fun k => { k with ends := k.ends ++ begun },
    forA fabSides (fun i => modBfp i fun k => k.bufs.foldl (fun k b => k.prune n hit b) k), fabFlow] s

/-- Link n loses all it keeps and holds; packets that came by it are ended where their heads have gone out (log entry 35). -/
def clearFab (n : Nat) : Act := fun s =>
  let cut := (s.bfpLink n).bufs.flatMap fun b => (((s.bfpLink n).routed b).take 1).flatMap fun c =>
    c.outs.map fun o => (o.link, poolKey c.pkt.pkt.vc o.clsB o.ent, (FabOffer.mk n b c o).src)
  seqA [modBfp n fun _ => BfpLink.zero,
    forA cut (fun x => modBfp x.1 fun k => if SMap.get noUsed k.lock x.2.1 = x.2.2 then { k with ends := k.ends ++ [x.2.1] } else k),
    cutFab n fun _ => true] s

/-- R362: the sender of link n resends what it keeps after the flit numbered `ack`. -/
def keptFrom (l : List BfpFlit) (ack : BitVec 12) : List BfpFlit :=
  match l.findIdx? fun g => g.seq == ack with
  | some i => l.drop (i + 1)
  | none => l

/-- The pools a CREDIT_INIT flit grants (log entry 36). -/
def creditPools (d : List Byte) : SMap Nat :=
  (allVcs.flatMap fun v => (List.range 17).flatMap fun e => [(poolKey v false e, v, e), (poolKey v true e, v, e)]).foldl
    (fun m x => SMap.set noCredit m x.1 (leAt d (2 * (bufKey x.2.1 false / 2 * 17 + x.2.2)) 2)) []

/-! ## Stopping a job (R404–R406) -/

/-- The links a slice names. -/
def Slice.links (x : Slice) : List Nat := ((x.dirs.map Prod.fst).filter fun n => n < 12).dedup

/-- R405: the up links a job's ABORT leaves by. -/
def State.abortLinks (s : State) (job : Nat) : List Nat :=
  (List.range 12).filter fun n => s.linkUp n &&
    (((s.slicePart job).any fun p => (s.slice p).links.contains n) || (s.shares n).any fun x => x.2.1 == job)

/-- R406 steps 2–4 for a partition whose job is stopped. -/
def stopPart (p job cause link origin status : Nat) : Act :=
  seqA [modJob p fun j => { j with stopped := true },
    eff fun s => .colls (s.colls.filter fun c => c.job != job), setF F.BFP_COLL_STS_OPEN p 0,
    eff fun s => .fabTrees (s.fabTrees.filter fun f => f.job != job),
    setReg .fab p 0x8068 (BitVec.ofNat 64 (2 ^ 63 + cause % 16 * 2 ^ 52 + link % 16 * 2 ^ 48 + job % 2 ^ 16 * 2 ^ 32 + origin % 2 ^ 18)), raiseEvent p 100 job,
    bump F.BFP_COLL_STS_ABORTS p 1, whenA (fun s => (s.job p).swap.isSome) (swapEnd p 5 1),
    withA (fun s => s.partLive p) fun l => forA l fun i => endPassage i status,
    logOpen none 5 noUnit p job 0]

/-- R402: a fabric control message: 24 bytes and their CRC-16. -/
def fabMsg (mcode arg job origin : Nat) (mile : Word) (num : Nat) : List Byte :=
  let b := leBytes 1 mcode ++ leBytes 1 arg ++ leBytes 2 job ++ leBytes 4 origin ++ leBytes 8 mile.toNat ++ leBytes 2 num ++ leBytes 6 0
  b ++ leBytes 2 (crc16 b)

/-- The ABORT of a job (R402): its cause and link, its origin, and the milestone value. DESIGN CHOICE (log entry 225): one passed on carries the
milestone value at which it was heard. -/
def abortMsg (s : State) (job cause link origin : Nat) : List Byte := fabMsg 0x41 (cause % 16 + link % 16 * 16) job origin s.mile 0

/-- R405, R406: a job stops, by a cause of this part or an ABORT: the first time it is heard of, the ABORT goes out on the
job's links. DEDUCED (log entry 37): the status is MC_HOLD where the stop's first cause is a branch cleared, FABRIC otherwise;
a job is heard of anew once its slice is set again. -/
def jobStop (job cause first link origin : Nat) : Act := fun s =>
  if s.aborted.contains job then []
  else seqA [eff fun s => .aborted (s.aborted ++ [job]),
    forA (s.abortLinks job) fun n => emit (.abort n (abortMsg s job first link origin)),
    forOpt (s.slicePart job) fun p => stopPart p job cause link origin (if first = 3 then 2 else 10)] s

/-- The part's own coordinates. -/
def State.coord (s : State) : Nat := s.fld F.BFP_COORD_COORD 0

/-- The jobs a link serves (R405). -/
def State.jobsOn (s : State) (n : Nat) : List Nat :=
  (((List.range 16).filter fun p => (s.slice p).set && (s.slice p).links.contains n).map (fun p => (s.slice p).job) ++
    (s.shares n).map fun x => x.2.1).dedup

/-- R404: link n is dead: the flits it keeps are discarded, it trains again, and its jobs stop; once up again it serves no slice set before. -/
def linkDie (n cause : Nat) : Act := fun s =>
  if s.linkUp n then
    seqA [setF F.BFP_LNK_STS_STATE n 1, setF F.BFP_LNK_STS_QUADS n 0, setF F.BFP_LNK_STS_CAUSE n (if cause = 3 then 1 else 0),
      bump F.BFP_DEAD_COUNT n 1, setF F.BFP_DEAD_CAUSE n cause, clearFab n, emit (.train n),
      forA (s.jobsOn n) fun j => jobStop j 1 1 n s.coord,
      forA (List.range 16) fun p => whenA (fun s => (s.slice p).links.contains n) (modSlice p fun x => { x with
        dirs := x.dirs.map fun e => if e.1 = n then (15, e.2) else e })] s
  else []

/-- R404: link n is dead. -/
def execLinkDead (n : Fin 12) (cause : Fin 4) (s : State) : Host.Outcome State Fault Refusal :=
  runAct (if cause.val = 0 then skip else linkDie n.val cause.val) s

/-- R403: a lane quad fails in service: the link goes on narrower and replays, or dies with its last quad. -/
def execQuadFail (n : Fin 12) (q : Fin 24) (s : State) : Host.Outcome State Fault Refusal :=
  let n := n.val
  runAct (fun s =>
    let k := s.bfpLink n
    if s.linkUp n = false ∨ k.quads.contains q.val = false then []
    else
      let left := k.quads.filter fun x => x != q.val
      seqA [setF F.BFP_QDROP_QMASK n (s.fld F.BFP_QDROP_QMASK n ||| 2 ^ q.val), bump F.BFP_QDROP_COUNT n 1,
        if left.isEmpty then linkDie n 2
        else seqA [modBfp n fun x => { x with quads := left }, setF F.BFP_LNK_STS_QUADS n left.length, emit (.train n),
          whenA (fun _ => !k.kept.isEmpty) (emit (.bfpResend n k.kept))]] s) s

/-- R362, R404: the sender of link n is asked for a replay: it resends from ACK_SEQ + 1; the sixteenth of one flit kills the link. -/
def bfpAgain (n : Nat) (ack : BitVec 12) : Act := fun s =>
  let k := s.bfpLink n
  let rest := keptFrom k.kept ack
  let c := if rest.length = k.kept.length then k.naks + 1 else 1
  if s.linkUp n = false ∨ rest.isEmpty then []
  else seqA [bump F.BFP_REPLAY_COUNT n rest.length, modBfp n fun x => { x with kept := rest, naks := c },
    emit (.bfpResend n rest), whenA (fun _ => 16 ≤ c) (linkDie n 1)] s

/-- R362: the sender of link n receives a NAK. -/
def execBfpReplay (n : Fin 12) (ack : BitVec 12) (s : State) : Host.Outcome State Fault Refusal :=
  runAct (bfpAgain n.val ack) s

/-- R361, R362: a block reaches the receiver of link n. An unsequenced flit that fails is discarded; a sequenced one that fails or is out of
order is discarded and asked for again, and what follows it is discarded until it comes; an intact one is taken and acknowledged. Every
intact flit acknowledges, returns credits, and may ask for a replay. -/
def execBfpFlitReceive (n : Fin 12) (f : BfpFlit) (s : State) : Host.Outcome State Fault Refusal :=
  let n := n.val
  runAct (fun s =>
    let k := s.bfpLink n
    let seqd := f.ftype == 1 || (f.ftype == 2 && f.lsub == 3)
    let fail := f.uncorr || !bfpIntact f
    let ask := seqA [modBfp n fun x => { x with nakked := true }, emit (.bfpFlits n [idleBfp k.rxSeq true 0 0])]
    let hear := seqA [modBfp n (BfpLink.heard f), whenA (fun _ => f.nak) (bfpAgain n f.ack)]
    if s.fld F.BFP_LNK_STS_STATE n = 0 then []
    else seqA [bump F.BFP_ERR_CORR n f.corr, whenA (fun _ => f.uncorr) (bump F.BFP_ERR_UNCORR n 1),
      if fail then seqA [bump F.BFP_ERR_CRC n 1, whenA (fun _ => seqd) ask]
      else if seqd = false then seqA [hear, fabFlow]
      else if f.seq.toNat ≠ (k.rxSeq + 1) % 4096 then (if k.nakked then skip else seqA [bump F.BFP_ERR_CRC n 1, ask])
      else if f.ftype = 2 then seqA [hear, modBfp n fun x => { x with rxSeq := f.seq.toNat, nakked := false, credits := creditPools f.data },
        emit (.bfpFlits n [idleBfp f.seq.toNat false 0 0]), fabFlow]
      else seqA [hear, modBfp n fun x => BfpLink.settle (flitPool f) { x with
          rxSeq := f.seq.toNat, nakked := false
          rxBuf := SMap.set (fun _ => []) x.rxBuf (flitPool f) (x.inBuf (flitPool f) ++ [f]) },
        emit (.bfpFlits n [idleBfp f.seq.toNat false 0 0]), fabFlow]] s) s

/-- R406: an ABORT for a job arrives on link n. -/
def execAbort (_n : Fin 12) (job : BitVec 16) (cause link : BitVec 4) (origin : BitVec 18) (s : State) :
    Host.Outcome State Fault Refusal :=
  runAct (jobStop job.toNat 5 cause.toNat link.toNat origin.toNat) s

/-! ## Training (R358, R364, R365) -/

/-- R364, R365: link n trains with what the far side sent. -/
def execLinkTrain (n : Fin 12) (i : TrainInfo) (s : State) : Host.Outcome State Fault Refusal :=
  let n := n.val
  runAct (fun s =>
    let map := s.mapQuads n
    let mine := s.linkQuads n
    let up := mine.filter fun q => i.quads.getLsbD q
    let down := fun c => seqA [setF F.BFP_LNK_STS_STATE n 0, setF F.BFP_LNK_STS_CAUSE n c]
    if map.isEmpty ∨ s.power.rails = false then []
    else if mine.isEmpty then down 5 s
    else if i.signal = false then down 1 s
    else if i.lock = false then down 2 s
    else if up.isEmpty then down 3 s
    else seqA [whenA (fun _ => decide (up.length < mine.length)) (logOpen none 5 noUnit (s.linkPart n) 0 0),
      if i.revMax.toNat = 0 ∨ 1 < i.revMin.toNat then down 4
      else seqA [setF F.BFP_LNK_STS_STATE n 2, setF F.BFP_LNK_STS_CAUSE n 0, setF F.BFP_LNK_STS_REV n 1,
        setF F.BFP_LNK_STS_NFEAT n i.nfeat.toNat, setF F.BFP_LNK_STS_NLINK n i.nlink.toNat, setF F.BFP_LNK_STS_QUADS n up.length,
        setF F.BFP_LNK_STS_NCOORD n i.ncoord.toNat, whenA (fun _ => s.linkUp n) (clearFab n), modBfp n fun _ => { BfpLink.zero with quads := up }, creditInit n]] s) s

/-- R367: a write of BFP_SHARE e of link n; on a link that is up the pools are granted anew. -/
def hostShareRegrant (src : Src) (n : Fin 12) (e : Fin 16) (v : Word) : Act := fun s =>
  let off := 0x200 + 8 * e.val
  (guardW src .bfp n.val off (seqA [writeReg .bfp n.val off v, whenA (fun s => s.linkUp n.val) (creditInit n.val)])) s

/-- ShareRegrant: the command of its row. -/
def execShareRegrant (src : Src) (n : Fin 12) (e : Fin 16) (v : Word) (s : State) : Host.Outcome State Fault Refusal :=
  runAct (hostShareRegrant src n e v) s

/-! ## Packets between parts (R366, R370, R371, R376, R377) -/

/-- A packet of the slice's job that leaves here in direction d travels in class B: it has crossed, or now crosses, the wrap
link of the dimension. DEDUCED (log entry 38): the wrap link itself is travelled in class B. -/
def wrapped (sl : Slice) (k : SysPacket) (d : Nat) : Bool :=
  let at_ := if d < 2 then sl.coord.1 else if d < 4 then sl.coord.2.1 else sl.coord.2.2
  let from_ := if d < 2 then k.sx.val else if d < 4 then k.sy.val else k.sz.val
  let n := if d < 2 then sl.size.1 else if d < 4 then sl.size.2.1 else sl.size.2.2
  if d % 2 = 0 then decide (at_ < from_) || at_ + 1 == n else decide (from_ < at_) || at_ == 0

/-- The direction a link has in a slice. -/
def Slice.dirOf (sl : Slice) (n : Nat) : Nat := (sl.dirs.findIdx? fun x => x.1 == n).getD 0

/-- The branch of a packet by link n in direction d of a slice, and that into the package. -/
def fabBranch (s : State) (sl : Slice) (k : SysPacket) (n d : Nat) : FabBranch := ⟨n, wrapped sl k d, s.entOf n k.job.toNat, 0⟩
def toPackage : FabBranch := ⟨12, false, 16, 0⟩

/-- R371, R376, R377: the ways a packet that came by link n goes on: delivered, forwarded by the slice's route or tree, passed on as transit;
none where there is no route. A collective's packet on a tree (DST a port block) is the engine's (R392), which COLLECTIVE_PACKET gives it:
no package tree carries it. -/
def State.fabWays (s : State) (n : Nat) (k : SysPacket) : Option (List FabBranch) :=
  match s.slicePart k.job.toNat with
  | some p =>
    let sl := s.slice p
    if k.mc then (s.fabTrees.find? fun f => f.job == k.job.toNat && f.tree == k.tree.toNat).map fun f =>
      ((f.links.filter fun m => m != n).map fun m => fabBranch s sl k m (sl.dirOf m)) ++
        (if f.loc && k.pkt.kind != 7 then [toPackage] else [])
    else
      match fabDir sl.size sl.wrap sl.coord (k.dx.val, k.dy.val, k.dz.val) with
      | none => some [toPackage]
      | some d => (sl.dirs[d]?.filter fun x => decide (x.1 < 12)).map fun x => [fabBranch s sl k x.1 d]
  | none => (((s.shares n).find? fun x => x.2.1 == k.job.toNat).filter fun x => decide (s.fld (F.BFP_SHARE_FWD.nth x.1) n < 12)).map fun x =>
      let m := s.fld (F.BFP_SHARE_FWD.nth x.1) n
      [⟨m, false, s.entOf m k.job.toNat, 0⟩]

/-- The ways a packet takes, one hop older: none at 64 hops; a link that is not UP carries nothing (R404). -/
def State.fabOuts (s : State) (n : Nat) (k : SysPacket) : List FabBranch :=
  if 64 ≤ k.hops.toNat + 1 then []
  else ((s.fabWays n { k with hops := k.hops + 1 }).getD []).filter fun o => o.link == 12 || s.linkUp o.link

/-- R370, R371, R377: the head of a packet at the front of a buffer of link n is routed at its port block; its flits go on as its ways have
credits. One at 64 hops, or without a route, is discarded and counted. -/
def execBfpPacketArrive (n : Fin 12) (k : SysPacket) (s : State) : Host.Outcome State Fault Refusal :=
  let n := n.val
  runAct (fun s =>
    match (s.bfpLink n).headOf k with
    | none => []
    | some b => seqA [
        if 64 ≤ k.hops.toNat + 1 then bump F.BFP_DROP_HOPS n 1
        else whenA (fun s => (s.fabWays n { k with hops := k.hops + 1 }).isNone) (bump F.BFP_DROP_NOROUTE n 1),
        modBfp n fun x => { x with cur := SMap.set (fun _ => []) x.cur b [⟨{ k with hops := k.hops + 1 }, 0, s.fabOuts n k⟩] }, fabFlow] s) s

/-- R371, R144: a branch of a fabric tree has stalled too long: it is cleared, what waits for it is discarded, and the job is stopped. -/
def execFabricMcHoldExpiry (n : Fin 12) (job tree : BitVec 16) (s : State) : Host.Outcome State Fault Refusal :=
  let n := n.val
  runAct (fun s =>
    if (s.fabTrees.any fun f => f.job == job.toNat && f.tree == tree.toNat && f.links.contains n) = false then []
    else seqA [eff fun s => .fabTrees (s.fabTrees.map fun f =>
        if f.job == job.toNat && f.tree == tree.toNat then { f with links := f.links.filter fun m => m != n } else f),
      cutFab n (fun k => k.mc && k.job == job && k.tree == tree), setF F.BFP_MCEVT_VALID n 1, setF F.BFP_MCEVT_JOB n job.toNat, setF F.BFP_MCEVT_LINK n n, setF F.BFP_MCEVT_TREE n tree.toNat,
      jobStop job.toNat 3 3 n s.coord] s) s

/-! ## Slices (R373, R374, R379) -/

/-- The slice a descriptor at a spells. -/
def State.sliceAt (s : State) (a : Nat) : Slice :=
  { Slice.zero with
    set := true, job := s.num (a + 6) 2, size := (s.num (a + 8) 1, s.num (a + 9) 1, s.num (a + 10) 1)
    wrapReq := s.num (a + 0x0B) 1 % 8, coord := (s.num (a + 0x0C) 1, s.num (a + 0x0D) 1, s.num (a + 0x0E) 1)
    dirs := (List.range 6).map fun k =>
      let w := s.num (a + 0x10 + 4 * k) 4
      (nbits w 3 0, nbits w 25 8) }

/-- R374: the CODE of the first check that fails, 0 for none. -/
def State.sliceCheck (s : State) (p a : Nat) : Nat :=
  let x := s.sliceAt a
  let named := x.dirs.filter fun e => e.1 != 15
  if s.owns p a 64 = false ∨ s.poisoned a 64 = true ∨ s.num a 4 ≠ 0x45434C53 ∨ s.num (a + 4) 1 ≠ 1 ∨
      crc32c (putAt (s.bytes a 64) 0x3C [0, 0, 0, 0]) ≠ s.num (a + 0x3C) 4 then 2
  else if x.size.1 < 1 ∨ 32 < x.size.1 ∨ x.size.2.1 < 1 ∨ 32 < x.size.2.1 ∨ x.size.2.2 < 1 ∨ 16 < x.size.2.2 ∨
      x.size.1 ≤ x.coord.1 ∨ x.size.2.1 ≤ x.coord.2.1 ∨ x.size.2.2 ≤ x.coord.2.2 then 3
  else if (named.any fun e => !(decide (e.1 < 12) && s.linkUp e.1)) = true then 4
  else if (named.any fun e => s.fld F.BFP_LNK_STS_NCOORD e.1 != e.2) = true then 5
  else if (named.any fun e => s.fld F.BFP_LNK_STS_NFEAT e.1 != featureLevel) = true then 6
  else if ((List.range 16).any fun q => q != p && (s.slice q).set && (s.slice q).job == x.job) = true then 7
  else 0

/-- R379: a wrap link's share table lets the job wrap. -/
def State.wrapLinkOk (s : State) (job n : Nat) : Bool :=
  let l := s.shares n
  if l.any fun x => x.2.1 != job then
    (l.any fun x => x.2.1 == job && decide (1 ≤ x.2.2)) && decide ((l.map fun x => x.2.2).sum ≤ 64)
  else true

/-- R379: this part's WRAP_OK bits: in each dimension, the wrap links that end here exist and pass. -/
def State.wrapBits (s : State) (x : Slice) : Nat :=
  let dim := fun (k at_ n : Nat) =>
    let ok := fun (d : Nat) => (x.dirs[d]?).any fun e => decide (e.1 < 12) && s.wrapLinkOk x.job e.1
    (at_ != 0 || ok (2 * k + 1)) && (at_ + 1 != n || ok (2 * k))
  (if dim 0 x.coord.1 x.size.1 then 1 else 0) + (if dim 1 x.coord.2.1 x.size.2.1 then 2 else 0) +
    (if dim 2 x.coord.2.2 x.size.2.2 then 4 else 0)

/-- OP SET. -/
def sliceSet (p : Nat) : Act := fun s =>
  let a := s.fld F.BFP_SLICE_ADDR_ADDR p * 64
  ownedRead p a 64 (fun s =>
    let c := s.sliceCheck p a
    let x := s.sliceAt a
    if c ≠ 0 then seqA [modSlice p fun _ => Slice.zero, setF F.BFP_SLICE_STS_STATE p 3, setF F.BFP_SLICE_STS_CODE p c,
      setF F.BFP_SLICE_STS_JOB p 0, setF F.BFP_SLICE_STS_WRAP p 0, setF F.BFP_SLICE_STS_WRAP_OK p 0] s
    else seqA [modSlice p fun _ => x, setF F.BFP_SLICE_STS_STATE p 2, setF F.BFP_SLICE_STS_CODE p 0,
      setF F.BFP_SLICE_STS_JOB p x.job, setF F.BFP_SLICE_STS_WRAP p 0, setF F.BFP_SLICE_STS_WRAP_OK p (s.wrapBits x),
      eff fun s => .aborted (s.aborted.filter fun j => j != x.job)] s) s

/-- R401 step 4: the barrier of a partition ends. -/
def barEnd (p st code : Nat) (late : Bool) (rel : Option Word) : Act :=
  seqA [setF F.BFP_BAR_STS_STATE p st, setF F.BFP_BAR_STS_CODE p code, setB F.BFP_BAR_STS_LATE p late, setF F.BFP_BAR_STS_BUSY p 0,
    forOpt rel (setReg .fab p 0x8060), modSlice p fun x => { x with barRel := none },
    onDies p fun d => modDie d fun x => { x with holdAdm := false }]

/-- DEDUCED (log entry 186): a barrier in progress is abandoned, CODE 1, when its slice is cleared or its partition reset. -/
def barAbandon (p : Nat) : Act := whenA (fun s => s.flag F.BFP_BAR_STS_BUSY p) (barEnd p 3 1 false none)

/-- OP CLEAR: CODE 8 while an image of the job is loaded. -/
def sliceClear (p : Nat) : Act := fun s =>
  if (s.job p).live ∧ (s.job p).job = (s.slice p).job ∧ (s.slice p).set = true then setF F.BFP_SLICE_STS_CODE p 8 s
  else seqA [barAbandon p, modSlice p fun _ => Slice.zero, setReg .fab p 0x8030 (s.reg .fab p 0x8030 &&& 2)] s

/-- A write of BFP_SLICE_CMD. -/
def sliceCmd (src : Src) (v : Word) : Act := fun s =>
  let p := s.bank src .fab
  goCmd src .fab p 0x8028 F.BFP_SLICE_STS_BUSY F.BFP_SLICE_STS_LOST v
    (if bitsOf v 3 1 = 1 then sliceSet p else if bitsOf v 3 1 = 2 then sliceClear p else skip) s

/-- R374: BFP_SLICE_CMD with OP SET. -/
def hostSliceSet (src : Src) (v : Word) : Act := fun s => (sliceCmd src v) s

/-- SliceSet: the command of its row. -/
def execSliceSet (src : Src) (v : Word) (s : State) : Host.Outcome State Fault Refusal :=
  runAct (hostSliceSet src v) s

/-- R374: BFP_SLICE_CMD with OP CLEAR. -/
def hostSliceClear (src : Src) (v : Word) : Act := fun s => (sliceCmd src v) s

/-- SliceClear: the command of its row. -/
def execSliceClear (src : Src) (v : Word) (s : State) : Host.Outcome State Fault Refusal :=
  runAct (hostSliceClear src v) s

/-! ## The milestone counter (R380–R383) -/

/-- The best parent: the up link whose neighbour reports the smallest depth, the lower number on a tie. -/
def State.bestParent (s : State) (l : List Nat) : Option Nat :=
  (sortKey (fun n => (l.getD n 255, n, 0, 0)) ((List.range 12).filter fun n => s.linkUp n && decide (l.getD n 255 < 255))).head?

/-- Take a parent (0xF for none). -/
def setParent (n : Nat) : Act := fun s =>
  let old := s.fld F.MSC_STS_PARENT 0
  seqA [setF F.MSC_STS_PARENT 0 n,
    whenA (fun _ => old != n && old != 15) (bump F.MSC_EVT_REPARENT 0 1)] s

/-- R381: one SYNC exchange with a neighbour. With the parent it gives an offset θ; the counter is corrected by the mean of the
last 16 (DESIGN CHOICE, log entry 39), at once before LOCK was ever set, by slewing otherwise (R380). RATE is free. -/
def execMilestoneSync (n : Fin 12) (t1 t2 t3 t4 : Int) (depth : BitVec 8) (s : State) : Host.Outcome State Fault Refusal :=
  let n := n.val
  runAct (fun s =>
    if s.flag F.MSC_CFG_ROOT 0 ∨ s.linkUp n = false then []
    else
      let ds := s.milestone.depths.set n depth.toNat
      match s.bestParent ds with
      | none => modMile (fun m => { m with depths := ds }) s
      | some q =>
        seqA [modMile fun m => { m with depths := ds }, setParent q,
          if q ≠ n then skip
          else fun s =>
            let th := ((t2 - t1) - (t4 - t3)) / 2
            let l := ((s.milestone.thetas ++ [th]).reverse.take 16).reverse
            let f := roundDiv l.sum l.length
            let g := if f.natAbs < 32 then s.milestone.good + 1 else 0
            let step := f / 16
            seqA [draw, modMile fun m => { m with
                thetas := l, good := g, everLocked := m.everLocked || decide (16 ≤ g)
                slew := if m.everLocked then step else min step 0 },
              whenA (fun s => !s.milestone.everLocked && decide (0 < step)) (eff fun s => .mile (s.mile + BitVec.ofInt 64 step)),
              setF F.MSC_STS_DEPTH 0 (min 255 (depth.toNat + 1)), setF F.MSC_STS_OFFSET 0 (tc 16 (clampI f (-32768) 32767)),
              setF F.MSC_STS_RATE 0 (Config.freeNat s.free), setF F.MSC_STS_HOLD 0 0,
              whenA (fun _ => decide (16 ≤ g)) (setF F.MSC_STS_LOCK 0 1)] s] s) s

/-- R383: the parent link has gone down: holdover, and a new parent where there is one. -/
def execParentLost (s : State) : Host.Outcome State Fault Refusal :=
  runAct (fun s =>
    let p := s.fld F.MSC_STS_PARENT 0
    if s.flag F.MSC_CFG_ROOT 0 ∨ p = 15 then []
    else
      let ds := s.milestone.depths.set p 255
      seqA [modMile fun m => { m with depths := ds, good := 0, lostAt := s.mile }, setF F.MSC_STS_HOLD 0 1,
        match s.bestParent ds with
        | some q => setParent q
        | none => setF F.MSC_STS_PARENT 0 15] s) s

/-- R383: no parent within 10 ms: LOCK clears. -/
def execLockLoss (s : State) : Host.Outcome State Fault Refusal :=
  runAct (fun s =>
    if s.flag F.MSC_STS_HOLD 0 ∧ s.fld F.MSC_STS_PARENT 0 = 15 ∧ s.flag F.MSC_STS_LOCK 0 = true ∧
        10000000 ≤ (s.mile - s.milestone.lostAt).toNat then
      seqA [setF F.MSC_STS_LOCK 0 0, modMile fun m => { m with good := 0 }, bump F.MSC_EVT_LOCKLOSS 0 1,
        logOpen none 5 noUnit 0x3F 0 0] s
    else []) s

/-! ## Service ports (R384) -/

/-- R384: service port n comes up or goes down. In 800GbE mode the three ports that follow are part of the first. -/
def execEthLinkChange (n : Fin 16) (up : Bool) (s : State) : Host.Outcome State Fault Refusal :=
  runAct (fun s =>
    let m8 := s.flag F.ETH_MODE_M800 (n.val / 4 * 4)
    if m8 = true ∧ n.val % 4 ≠ 0 then []
    else seqA [setB F.ETH_STS_UP n.val up, setF F.ETH_STS_SPEED n.val (if up then (if m8 then 2 else 1) else 0)] s) s

end Sys2Proof.Machine
end

