-- ==== Sys2Proof/Machine/Collectives.lean ====
section
/-!
DEFINITION. Collectives (R391–R400) and step barriers (R401, R402).
-/
namespace Sys2Proof.Machine

/-! ## A collective on this part (R391, R393, R398) -/

/-- What the engine needs of a collective: its partition, stage and recipe, its kind (0 ALL_REDUCE, 1 ALL_GATHER,
2 BROADCAST), the ranks of its sources and of its participants, and D in blocks. -/
structure CollInfo where
  part : Nat
  coll : Nat
  st : Stage
  rcp : Recipe
  kind : Nat
  srcs : List Nat
  ranks : List Nat
  d : Nat
  deriving DecidableEq, Repr

/-- A collective stage of a job on this part. -/
def State.collInfo (s : State) (job k : Nat) : Option CollInfo :=
  (s.jobPart job).bind fun p => (s.stage p k).bind fun st =>
    if st.kind ≠ 3 then none
    else
      let j := s.job p
      let rc := s.rcp ((s.partDies p).headD 0) st.rcp
      let src := ((s.collSources j.addr j.stages k).flatMap j.holderRanks).dedup
      let all := sortKey (fun r => (r, 0, 0, 0)) (src ++ (s.collDests j.addr st).flatMap j.holderRanks).dedup
      some ⟨p, k, st, rc, if rc.inFmt = 9 then 0 else if st.nOut = st.nIn ∧ src.length ≤ 1 then 2 else 1, src, all, st.nIn * 16⟩

/-- One dimension of slice coordinates. -/
def coordOf (dim : Nat) (c : Nat × Nat × Nat) : Nat := if dim = 0 then c.1 else if dim = 1 then c.2.1 else c.2.2

/-- The line of participants through this part in a dimension: its length and this part's position. -/
def State.collLine (s : State) (c : CollInfo) (dim : Nat) : Nat × Nat :=
  let sl := s.slice c.part
  let l := c.ranks.map fun r => coordOf dim (rankCoord sl.size r)
  let lo := l.foldl min 100
  (l.foldl max 0 + 1 - lo, coordOf dim sl.coord - lo)

/-- RING or CHAIN (R398, R399): RING only where the box spans the slice in the dimension and its wrap flag is set; BFP_COLL.ALG
forces the choice. DEDUCED (log entry 40): the choice of R399 rests on the delays of every link of the line, which this part
does not hold: it is free, fixed at bind. -/
def State.collRing (s : State) (c : CollInfo) (dim : Nat) : Bool :=
  let sl := s.slice c.part
  (s.collLine c dim).1 == coordOf dim sl.size && nbit sl.wrap dim &&
    match (s.job c.part).alg with
    | 1 => true
    | 2 => false
    | _ => (Config.freeNat (s.job c.part).algDraw).testBit (c.coll * 3 + dim)

/-- R392: the die whose port block runs the collective here: that of the participant's link in the first direction it uses. -/
def State.collDie (s : State) (c : CollInfo) : Nat :=
  let k := (List.range 6).find? fun k =>
    let l := s.collLine c (k / 2)
    decide (1 < l.1) && (s.collRing c (k / 2) || (if k % 2 = 0 then decide (l.2 + 1 < l.1) else decide (0 < l.2)))
  s.portDie (((k.bind fun k => (s.slice c.part).dirs[k]?).map Prod.fst).getD 0)

/-- Segments the local sources send (R393): those of the source stages with a replica on this part. -/
def State.collWant (s : State) (c : CollInfo) : Nat :=
  (((s.collSources (s.job c.part).addr (s.job c.part).stages c.coll).filter fun k => !(s.repsOf c.part k).isEmpty).map fun k =>
    ((s.stage c.part k).elim 0 Stage.nOut)).sum

/-! ## Numbers (R395–R397) -/

/-- R396: the generator of a piece and round. -/
def collGen (h : Word32) (step coll phase dim dir round piece : Nat) : Gen :=
  let a := mix ((h.setWidth 64 <<< 32) ||| BitVec.ofNat 64 (step * 2 ^ 16 + coll))
  let b := mix (a ^^^ BitVec.ofNat 64 (phase * 2 ^ 40 + dim * 2 ^ 36 + dir * 2 ^ 35 + round * 2 ^ 24 + piece))
  ⟨if b = 0 then 0x0000000100000001 else b, 0⟩

/-- A block's bytes on the way: mantissas, then its exponent. -/
def blkBytes (fmt : Nat) (b : Block) : List Byte := encMants fmt b.m ++ [BitVec.ofNat 8 b.e]

/-- The Y16 block of such bytes, with the reserved codes counted (R34, R551). -/
def blkOf (bs : List Byte) : Block × Nat := decBlock 4 (bs.getLastD 0).toNat bs 0

/-- R395: a Y16 block widened exactly. -/
def widen (bs : List Byte) : AccBlk :=
  let b := (blkOf bs).1
  if b.isZero then accOf 0 (List.replicate 32 0) else accOf ((b.e : Int) - 127) b.m

/-- R395: blocks re-quantised to Y16 under MAXFIT with RED_RND. -/
def toY16 (rc : Recipe) (l : List AccBlk) (g : Gen) : List (List Byte) :=
  (rqBlocks 4 false rc.redRnd l g).1.map fun r => blkBytes 4 r.blk

/-- R397: a segment of the result re-quantised once to OUT_FMT. -/
def collSeg (rc : Recipe) (h : Word32) (step coll piece : Nat) (l : List AccBlk) : List RqBlk :=
  (rqBlocks rc.outFmt false rc.rqRnd l (collGen h step coll 2 0 0 0 piece)).1

/-! ## Sending (R392, R394) -/

/-- R394: the payload of a collective packet. -/
def collPayload (x : Coll) (m : CollMsg) (fmt : Nat) : List Byte :=
  leBytes 2 x.coll ++ leBytes 2 x.step ++ leBytes 4 x.handle.toNat ++ leBytes 1 m.round ++
    leBytes 1 (m.dim + (if m.neg then 4 else 0) + if m.gather then 8 else 0) ++ leBytes 2 m.piece ++ leBytes 1 m.blks.length ++
    leBytes 1 fmt ++ leBytes 2 0 ++ m.blks.flatMap List.dropLast ++ m.blks.map fun b => b.getLastD 0

/-- The direction of a message. -/
def CollMsg.dir (m : CollMsg) : Nat := 2 * m.dim + if m.neg then 1 else 0

/-- A collective packet to the neighbour in its direction, in packets of at most 64 blocks; a BROADCAST one on the
collective's fabric tree. -/
def collSendTo (c : CollInfo) (x : Coll) (m : CollMsg) (mcTree : Option Nat) : Act := fun s =>
  let sl := s.slice c.part
  let dst := fabNext sl.size sl.coord m.dir
  let r := s.portRouter ((sl.dirs[m.dir]?.map Prod.fst).getD 0)
  let f6 := fun (n : Nat) => (⟨n % 64, Nat.mod_lt _ (by decide)⟩ : Fin 64)
  forA (List.range ((m.blks.length + 63) / 64)) (fun i =>
    let part := { m with piece := m.piece + 64 * i, blks := (m.blks.drop (64 * i)).take 64 }
    let fmt := if c.kind = 0 then 4 else c.rcp.inFmt
    let k : SysPacket :=
      { dx := f6 dst.1, dy := f6 dst.2.1, dz := f6 dst.2.2, sx := f6 sl.coord.1, sy := f6 sl.coord.2.1, sz := f6 sl.coord.2.2
        mc := mcTree.isSome, job := BitVec.ofNat 16 x.job, spart := f6 c.part, hops := 0, tree := BitVec.ofNat 16 (mcTree.getD 0)
        pkt := { ptype := 1, mc := false, tree := 0, dst := r, kind := 7, src := r, srcKind := 7, part := f6 c.part, tag := 0
                 vc := if c.kind = 0 then .red else .act, data := collPayload x part fmt, crcOk := true, msg := 2 } }
    match mcTree with
    | some t => forA (((s.fabTrees.find? fun f => f.job == x.job && f.tree == t).map FabTree.links).getD []) fun n =>
        sendSys n k (wrapped sl k (sl.dirOf n))
    | none => match sl.dirs[m.dir]? with
      | some l => sendSys l.1 k (wrapped sl k m.dir)
      | none => skip) s

/-! ## An instance -/

/-- The instance of a key. -/
def Coll.is (k job : Nat) (h : Word32) (step : Nat) (x : Coll) : Bool := x.coll == k && x.job == job && x.handle == h && x.step == step

/-- Change an instance. -/
def modColl (x : Coll) (f : Coll → Coll) : Act := eff fun s =>
  .colls (s.colls.map fun y => if y.is x.coll x.job x.handle x.step then f y else y)

/-- The instance as it stands. -/
def State.collNow (s : State) (x : Coll) : Option Coll := s.colls.find? fun y => y.is x.coll x.job x.handle x.step

/-- Store blocks at their indices. -/
def putBlks (fin : List (Nat × List Byte)) (piece : Nat) (blks : List (List Byte)) : List (Nat × List Byte) :=
  let new := (blks.zipIdx piece).map fun b => (b.2, b.1)
  fin.filter (fun b => !new.any fun c => c.1 == b.1) ++ new

/-- Blocks an ALL_GATHER instance holds once dimensions below n are done. -/
def State.gathered (s : State) (c : CollInfo) (n : Nat) : Nat := c.d * (((List.range n).map fun k => (s.collLine c k).1).prod)

/-- The local contribution is complete. -/
def State.collOwn (s : State) (c : CollInfo) (x : Coll) : Bool := s.collWant c ≤ x.got

/-- The blocks of the sum an ALL_REDUCE packet of n blocks from piece on names. -/
def Coll.sum (x : Coll) (piece n : Nat) : List AccBlk := (x.acc.drop piece).take n

/-- Blocks added to the sum from a piece on, and the rescales that takes (R44). -/
def Coll.addAt (x : Coll) (c : CollInfo) (piece : Nat) (l : List AccBlk) (g : Gen) : Coll :=
  let y := (accAddAll c.rcp.accRnd (x.sum piece l.length) l g).1
  { x with acc := x.acc.take piece ++ y ++ x.acc.drop (piece + l.length) }
def Coll.addCost (x : Coll) (c : CollInfo) (piece : Nat) (l : List AccBlk) (g : Gen) : Nat :=
  (accAddAll c.rcp.accRnd (x.sum piece l.length) l g).2.1

/-- R44, R551: what a collective engine counts, on the die of its port block: reserved codes of the blocks it widens, and rescales. -/
def collCount (c : CollInfo) (wide : List (List Byte)) (rescales : Nat) : Act := fun s =>
  seqA [countRsvd (s.collDie c) (wide.map fun b => (blkOf b).2).sum,
    whenA (fun _ => rescales != 0) (bump F.SCH_FMT_CNT_RESCALE (s.collDie c) rescales)] s

/-- A segment of blocks as they came, laid out as in R31. -/
def copySeg (fmt : Nat) (l : List (List Byte)) : List Byte :=
  (l.flatMap fun b => padTo (fmtBlkBytes fmt) (b.take (fmtBlkBytes fmt))) ++ l.map fun b => b.getD (fmtBlkBytes fmt) 0

/-- Send a reduce packet on, or begin the gather where the last part of the line has added to it (R398). -/
def reduceOn (c : CollInfo) (x : Coll) (m : CollMsg) : Act := fun s =>
  let l := (s.collLine c m.dim).1
  let n := m.blks.length
  let dir := if m.neg then 1 else 0
  match s.collNow x with
  | none => []
  | some x =>
    if m.round + 1 < l - 1 then
      collSendTo c x { m with
        round := m.round + 1
        blks := toY16 c.rcp (x.sum m.piece n) (collGen x.handle x.step x.coll 0 m.dim dir (m.round + 1) m.piece) } none s
    else
      let back := if s.collRing c m.dim then m.neg else !m.neg
      let y := toY16 c.rcp (x.sum m.piece n) (collGen x.handle x.step x.coll 1 m.dim (if back then 1 else 0) (l - 1) m.piece)
      seqA [modColl x fun z => { z with fin := putBlks z.fin m.piece y },
        collSendTo c x { m with round := l - 1, neg := back, gather := true, blks := y } none] s

/-- The blocks from a to b of the sum as first sent in a round, in packets of at most n blocks. -/
def startPieces (c : CollInfo) (x : Coll) (dim : Nat) (neg : Bool) (n a b : Nat) : Act :=
  forA (List.range ((b - a + n - 1) / n)) fun i =>
    let p := a + n * i
    collSendTo c x ⟨0, dim, neg, false, p, toY16 c.rcp (x.sum p (min n (b - p)))
      (collGen x.handle x.step x.coll 0 dim (if neg then 1 else 0) 0 p), false⟩ none

/-- R398: what this part sends first in a dimension. DESIGN CHOICE (log entry 42): on a RING, the part at position r starts
piece r moving + and piece m + r moving −. -/
def startDim (c : CollInfo) (x : Coll) (dim : Nat) : Act := fun s =>
  let m := (s.collLine c dim).1
  let r := (s.collLine c dim).2
  if c.kind = 0 then
    if s.collRing c dim then
      let n := max 1 ((c.d + 2 * m - 1) / (2 * m))
      seqA [startPieces c x dim false (max 1 (min 64 n)) (min c.d (n * r)) (min c.d (n * (r + 1))),
        startPieces c x dim true (max 1 (min 64 n)) (min c.d (n * (m + r))) (min c.d (n * (m + r + 1)))] s
    else
      let half := (c.d + 1) / 2
      seqA [whenA (fun _ => r == 0) (startPieces c x dim false 32 0 half),
        whenA (fun _ => r + 1 == m) (startPieces c x dim true 32 half c.d)] s
  else
    let held := sortKey (fun b => (b.1, 0, 0, 0)) x.fin
    forA held (fun b =>
      let first := decide (b.1 % max 1 c.d < (c.d + 1) / 2)
      let send := fun neg => collSendTo c x ⟨0, dim, neg, true, b.1, [b.2], false⟩ none
      if s.collRing c dim then send (!first)
      else seqA [whenA (fun _ => r + 1 != m) (send false), whenA (fun _ => r != 0) (send true)]) s

/-- The next dimension from k on in which the box is wider than 1; 3 for none. -/
def State.nextDim (s : State) (c : CollInfo) (k : Nat) : Nat :=
  ((List.range 3).find? fun d => k ≤ d && decide (1 < (s.collLine c d).1)).getD 3

/-- What R57 counts the flags of a result under: the collective's stage, job and recipe, and the passage. -/
def collItem (c : CollInfo) (x : Coll) : WorkItem :=
  ⟨x.handle, c.coll, 0, 0, false, false, false, 0, 0, x.step, 0, c.part, x.job, c.rcp, 0, 0, 0, 0, none, 0, none, none⟩

/-- The result of an instance goes to its destinations, and the instance closes (R397, R398). -/
def collFinish (c : CollInfo) (x : Coll) : Act := fun s =>
  let segs := if c.kind = 0 then
      (List.range c.st.nOut).map fun i => collSeg c.rcp x.handle x.step x.coll (16 * i) (x.sum (16 * i) 16)
    else []
  let bytes := if c.kind = 0 then segs.map fun l => encSeg c.rcp.outFmt (l.map RqBlk.blk)
    else (List.range c.st.nOut).map fun i => copySeg c.rcp.outFmt ((List.range 16).map fun b =>
      ((x.fin.find? fun y => y.1 == 16 * i + b).map Prod.snd).getD [])
  let rs := segs.flatten
  let d := s.collDie c
  seqA [eff fun s => .colls (s.colls.filter fun y => !y.is x.coll x.job x.handle x.step),
    countFlags d (collItem c x) (rs.countP RqBlk.under) (rs.countP RqBlk.sat),
    forA bytes.zipIdx fun b => emit (.collOut x.coll x.job x.handle x.step b.2 b.1),
    forA (s.routesOf (s.job c.part).addr c.st).zipIdx (sendRoute d (idxOf x.handle) c.coll 0 bytes),
    withA (fun s => s.colls.countP fun y => (s.jobPart y.job) == some c.part) fun n => setF F.BFP_COLL_STS_OPEN c.part n] s

/-- The blocks of the dimension at hand are all final or stored (R397, R398). -/
def State.dimDone (s : State) (c : CollInfo) (x : Coll) : Bool :=
  if c.kind = 0 then c.d ≤ x.fin.length else if c.kind = 2 then c.d ≤ x.fin.length else s.gathered c (x.dim + 1) ≤ x.fin.length

/-- A packet of the dimension at hand, once the local contribution is complete (R393, R398). -/
def takeMsg (c : CollInfo) (x : Coll) (m : CollMsg) : Act := fun s =>
  let l := s.collLine c m.dim
  let ring := s.collRing c m.dim
  if c.kind = 0 ∧ m.gather = false then
    let g := collGen x.handle x.step x.coll 0 m.dim 0 m.round m.piece
    let l := m.blks.map widen
    seqA [if m.added then skip else seqA [forOpt (s.collNow x) fun z => collCount c m.blks (z.addCost c m.piece l g),
        modColl x fun z => z.addAt c m.piece l g], reduceOn c x m] s
  else
    let last := if c.kind = 0 then 2 * (l.1 - 1) else if ring then l.1 - 1 else if m.neg then m.round + 1 + l.2 else m.round + l.1 - l.2
    seqA [modColl x fun z => { z with fin := putBlks z.fin m.piece m.blks },
      whenA (fun _ => c.kind != 2 && decide (m.round + 1 < last)) (collSendTo c x { m with round := m.round + 1 } none)] s

/-- Dimensions are gone through as far as what has arrived allows; the box has three. -/
def collSteps (c : CollInfo) (x : Coll) : Nat → Act
  | 0 => skip
  | n + 1 => fun s =>
    match s.collNow x with
    | none => []
    | some y =>
      if s.collOwn c y = false then []
      else if y.dim = 3 then collFinish c y s
      else
        let now := y.wait.filter fun m => m.dim == y.dim
        seqA [modColl y fun z => { z with wait := z.wait.filter fun m => m.dim != y.dim }, forA now (takeMsg c y), fun s =>
          match s.collNow y with
          | none => []
          | some z =>
            if s.dimDone c z then
              let next := if c.kind = 2 then 3 else s.nextDim c (z.dim + 1)
              let z' := if c.kind = 0 then { z with
                  dim := next, acc := (sortKey (fun b => (b.1, 0, 0, 0)) z.fin).map (fun b => widen b.2), fin := [] } else { z with dim := next }
              seqA [whenA (fun _ => c.kind == 0) (collCount c (z.fin.map Prod.snd) 0), modColl z fun _ => z', if next = 3 then skip else startDim c z' next, collSteps c z' n] s
            else []] s

/-- The local contribution of an instance has just become complete (R393). -/
def collBegin (c : CollInfo) (x : Coll) : Act := fun s =>
  match s.collNow x with
  | none => []
  | some y =>
    if s.collOwn c y = false then []
    else if c.kind = 2 then
      seqA [whenA (fun s => c.srcs.contains (s.rank c.part)) (collSendTo c y ⟨0, 0, false, true, 0,
          (sortKey (fun b => (b.1, 0, 0, 0)) y.fin).map Prod.snd, false⟩ (some (collTree c.coll))), collSteps c y 4] s
    else if y.dim = 3 then collSteps c y 4 s
    else seqA [startDim c y y.dim, collSteps c y 4] s

/-- Open an instance where there is none: at most 1,024 are held by the engine of one port block (R392, R393). -/
def collOpen (c : CollInfo) (k job : Nat) (h : Word32) (step : Nat) : Act := fun s =>
  if s.colls.any (Coll.is k job h step) then []
  else
    let x : Coll := ⟨k, job, h, step, s.mile, List.replicate c.d (accOf 0 (List.replicate 32 0)), [], 0,
      if c.kind = 2 then 0 else s.nextDim c 0, []⟩
    seqA [eff fun s => .colls (s.colls ++ [x]),
      withA (fun s => s.colls.countP fun y => (s.jobPart y.job) == some c.part) (fun n => setF F.BFP_COLL_STS_OPEN c.part n),
      whenA (fun s => s.collWant c == 0) (collBegin c x)] s

/-- The engine takes a contribution or packet of an instance it holds, or has room for: the engine of one port block holds 1,024 (R392). -/
def State.collRoom (s : State) (c : CollInfo) (k job : Nat) (h : Word32) (step : Nat) : Bool :=
  s.colls.any (Coll.is k job h step) ||
    decide (s.colls.countP (fun y => ((s.collInfo y.job y.coll).map s.collDie) == some (s.collDie c)) < 1024)

/-- R393: a local source sends a segment of a collective instance. While the engine is full it waits (R392). -/
def execCollectiveContribution (coll job : BitVec 16) (h : Word32) (step piece : BitVec 16) (acc : List AccBlk)
    (blk : List (List Byte)) (s : State) : Host.Outcome State Fault Refusal :=
  let k := coll.toNat
  let j := job.toNat
  let st := step.toNat
  runAct (fun s =>
    match s.collInfo j k with
    | none => []
    | some c =>
      if (s.job c.part).stopped = true ∨ s.collRoom c k j h st = false then []
      else seqA [collOpen c k j h st, fun s =>
        match s.colls.find? (Coll.is k j h st) with
        | none => []
        | some x =>
          let base := if c.kind = 1 then (c.ranks.idxOf (s.rank c.part)) * c.d else 0
          let g := collGen h st k 0 0 0 0 piece.toNat
          seqA [whenA (fun _ => c.kind == 0) (collCount c [] (x.addCost c piece.toNat acc g)), modColl x fun z =>
              let z := { z with got := z.got + 1 }
              if c.kind = 0 then z.addAt c piece.toNat acc g else { z with fin := putBlks z.fin (base + piece.toNat) blk },
            whenA (fun _ => x.got + 1 == s.collWant c) (collBegin c x)] s] s) s

/-- R395, R398: a collective packet reaches this participant's engine. -/
def execCollectivePacket (coll job : BitVec 16) (h : Word32) (step : BitVec 16) (round : Fin 64) (dim : Fin 3) (neg gather : Bool)
    (piece : BitVec 16) (_fmt : BitVec 4) (blks : List (List Byte)) (s : State) : Host.Outcome State Fault Refusal :=
  let k := coll.toNat
  let j := job.toNat
  let st := step.toNat
  runAct (fun s =>
    match s.collInfo j k with
    | none => []
    | some c =>
      if (s.job c.part).stopped = true ∨ s.collRoom c k j h st = false then []
      else seqA [collOpen c k j h st, fun s =>
        match s.colls.find? (Coll.is k j h st) with
        | none => []
        | some x =>
          let early := c.kind == 0 && !gather && dim.val == x.dim && !s.collOwn c x
          let g := collGen h st k 0 dim.val 0 round.val piece.toNat
          seqA [whenA (fun _ => early) (collCount c blks (x.addCost c piece.toNat (blks.map widen) g)), modColl x fun z =>
              let z := if early then z.addAt c piece.toNat (blks.map widen) g else z
              { z with wait := z.wait ++ [⟨round.val, if c.kind = 2 then 0 else dim.val, neg, gather, piece.toNat, blks, early⟩] },
            collSteps c x 4] s] s) s

/-- R400: an instance is not complete within BFP_COLL.TMO of its opening: the job stops, cause 2. -/
def execCollectiveTimeout (coll job : BitVec 16) (h : Word32) (step : BitVec 16) (s : State) : Host.Outcome State Fault Refusal :=
  runAct (fun s =>
    match s.colls.find? (Coll.is coll.toNat job.toNat h step.toNat), s.jobPart job.toNat with
    | some x, some p =>
      if (s.mile - x.opened).toNat < 1000 * max 1 (s.fld F.BFP_COLL_TMO p) then []
      else jobStop job.toNat 2 2 0 s.coord s
    | _, _ => []) s

/-! ## Step barriers (R401, R402) -/

/-- This part is the coordinator of a slice: the part at slice coordinates (0, 0, 0). -/
def Slice.leads (x : Slice) : Bool := x.set && x.coord == (0, 0, 0)

/-- The parts of a slice. -/
def Slice.parts (x : Slice) : Nat := x.size.1 * x.size.2.1 * x.size.2.2

/-- R401 step 1: BFP_BAR_CMD. -/
def hostBarrierGo (src : Src) (v : Word) : Act := fun s =>
  let p := s.bank src .fab
  (goCmd src .fab p 0x8050 F.BFP_BAR_STS_BUSY F.BFP_BAR_STS_LOST v fun s =>
    let x := s.slice p
    let num := s.fld F.BFP_BAR_CMD_NUM p
    let sts := fun (st code : Nat) (busy : Bool) => seqA [setF F.BFP_BAR_STS_NUM p num, setF F.BFP_BAR_STS_CODE p code,
      setF F.BFP_BAR_STS_STATE p st, setF F.BFP_BAR_STS_LATE p 0, setB F.BFP_BAR_STS_BUSY p busy]
    if x.set = false then sts 3 4 false s
    else seqA [sts 1 0 true, modSlice p fun y => { y with barRel := none },
      whenA (fun s => s.flag F.BFP_BAR_CMD_HOLD p) (onDies p fun d => modDie d fun x => { x with holdAdm := true }),
      emit (.arrive (fabMsg 0x42 (s.fld F.MSC_STS_LOCK 0) x.job s.coord s.mile num))] s) s

/-- BarrierGo: the command of its row. -/
def execBarrierGo (src : Src) (v : Word) (s : State) : Host.Outcome State Fault Refusal :=
  runAct (hostBarrierGo src v) s

/-- R401 step 3: ARRIVE reaches the coordinator. -/
def execArrive (job : BitVec 16) (origin : BitVec 18) (mile : Word) (lock : Bool) (num : BitVec 16) (s : State) :
    Host.Outcome State Fault Refusal :=
  runAct (fun s =>
    match s.slicePart job.toNat with
    | none => []
    | some p =>
      let x := s.slice p
      if x.leads = false ∨ x.barArrived.contains origin = true then []
      else
        let y := { x with barArrived := x.barArrived ++ [origin], barLock := x.barLock && lock
                          barFirst := if x.barArrived.isEmpty then s.mile else x.barFirst
                          barLatest := if x.barArrived.isEmpty ∨ x.barLatest < mile then mile else x.barLatest }
        if y.barArrived.length < x.parts then modSlice p (fun _ => y) s
        else
          let rel := y.barLatest + BitVec.ofNat 64 (1000 * max 1 (s.fld F.BFP_BAR_CMD_LEAD p))
          seqA [modSlice p fun _ => { y with barArrived := [], barLatest := 0, barFirst := 0, barLock := true },
            emit (.release (fabMsg 0x43 (if y.barLock then 0 else 3) x.job s.coord rel num.toNat))] s) s

/-- R401: 1 s after the first ARRIVE some are missing: RELEASE carries CODE 2. -/
def execBarrierTimeout (part : Fin 16) (s : State) : Host.Outcome State Fault Refusal :=
  let p := part.val
  runAct (fun s =>
    let x := s.slice p
    if x.leads = false ∨ x.barArrived.isEmpty ∨ (s.mile - x.barFirst).toNat < 1000000000 then []
    else seqA [modSlice p fun y => { y with barArrived := [], barLatest := 0, barFirst := 0, barLock := true },
      emit (.release (fabMsg 0x43 2 x.job s.coord x.barLatest (s.fld F.BFP_BAR_CMD_NUM p)))] s) s

/-- R401: RELEASE reaches a part: it waits for M_REL, or acts at once where late or carrying a CODE. -/
def execRelease (job : BitVec 16) (mile : Word) (code : BitVec 4) (_num : BitVec 16) (s : State) : Host.Outcome State Fault Refusal :=
  runAct (fun s =>
    match s.slicePart job.toNat with
    | none => []
    | some p =>
      if s.fld F.BFP_BAR_STS_STATE p ≠ 1 then []
      else if code ≠ 0 then barEnd p 3 code.toNat false none s
      else if mile < s.mile then barEnd p 2 0 true (some mile) s
      else modSlice p (fun x => { x with barRel := some mile }) s) s

/-- R401 step 4: M_REL has come. -/
def execBarrierReleaseTime (part : Fin 16) (s : State) : Host.Outcome State Fault Refusal :=
  let p := part.val
  runAct (fun s =>
    match (s.slice p).barRel with
    | some m => if m ≤ s.mile ∧ s.fld F.BFP_BAR_STS_STATE p = 1 then barEnd p 2 0 false (some m) s else []
    | none => []) s

end Sys2Proof.Machine
end

