-- ==== Sys2Proof/Machine/Trais.lean ====
section
/-!
DEFINITION. The Trais host link (R413–R430) below the windows: the host-line cache, reads and writes of host memory, the end of a
snoop, and events.
-/
namespace Sys2Proof.Machine

/-! ## Host memory and the host-line cache (R426) -/

/-- The line a port's cache holds. -/
def TPort.line (p : TPort) (line : Nat) : Option (List Byte) := (p.hlc.find? fun x => x.1 == line).map Prod.snd

/-- A line enters the cache, or is used again: 8 ways a set, the least recently used goes. DESIGN CHOICE (log entry 44): the set is
the line number modulo 16,384. -/
def TPort.keepLine (p : TPort) (line : Nat) (bs : List Byte) : TPort :=
  let l := p.hlc.filter fun x => x.1 != line
  let same := l.filter fun x => x.1 % 16384 == line % 16384
  let out := if 8 ≤ same.length then same.getLast?.map Prod.fst else none
  { p with hlc := (line, bs) :: l.filter fun x => some x.1 != out }

/-- A byte string at address a cut at boundaries of sz bytes. -/
def cutAt (sz a : Nat) (bs : List Byte) : List (Nat × List Byte) :=
  if bs.isEmpty then []
  else (List.range ((a + bs.length + sz - 1) / sz - a / sz)).map fun i =>
    let b := max a ((a / sz + i) * sz)
    let e := min (a + bs.length) ((a / sz + i + 1) * sz)
    (b, (bs.drop (b - a)).take (e - b))

/-- The bytes from address o on, with those that lie in [a, a + |bs|) replaced. -/
def overlay (o : Nat) (old : List Byte) (a : Nat) (bs : List Byte) : List Byte :=
  old.zipIdx.map fun x => if a ≤ o + x.2 ∧ o + x.2 < a + bs.length then bs.getD (o + x.2 - a) 0 else x.1

/-- Writes of host memory go out as WR, each within one 128-byte block, and update any copy the cache holds. -/
def hostStore (n a : Nat) (bs : List Byte) : Act :=
  seqA [forA (cutAt 128 a bs) fun x => traisSend n (.wr x.1 x.2),
    modPort n fun p => { p with hlc := p.hlc.map fun x => (x.1, overlay (x.1 * 64) x.2 a bs) }]

/-- A read of host memory for a DMA channel is sent: RD_S of a line, or the flush RD. -/
def hostAsk (n ch line : Nat) (flush : Bool) (addr len : Nat) : Act := fun s =>
  let t := (s.port n).rdTag
  seqA [modPort n fun p => { p with reads := p.reads ++ [⟨t, ch, line, flush⟩], rdTag := (t + 1) % 65536 },
    traisSend n (.rd t addr len (!flush))] s

/-- R426: a host SNP_INV: the copy is dropped, and answered. -/
def execTraisSnpInv (n : Fin 4) (addr : Word) (tag : BitVec 16) (s : State) : Host.Outcome State Fault Refusal :=
  let n := n.val
  runAct (whenA (fun s => s.fld F.TRL_LNK_STS_STATE n == 2) (seqA [
    modPort n fun p => { p with hlc := p.hlc.filter fun x => x.1 != addr.toNat / 64 }, traisSend n (.snpRsp tag.toNat)])) s

/-- R426: a host SNP_RCL: the part holds no modified line; it answers and keeps its shared copy. -/
def execTraisSnpRcl (n : Fin 4) (_addr : Word) (tag : BitVec 16) (s : State) : Host.Outcome State Fault Refusal :=
  let n := n.val
  runAct (whenA (fun s => s.fld F.TRL_LNK_STS_STATE n == 2) (traisSend n (.snpRsp tag.toNat))) s

/-! ## Lines the host caches (R424, R425) -/

/-- A host line is written into the stream cache of its owner slice, which now holds it dirty. -/
def storeLine (line : Nat) (bs : List Byte) : Act := fun s =>
  let a := line * 64
  let d := s.owner a
  let l := a / 256
  seqA [putBytes a (padTo 64 bs), eff fun s => .poison (s.poison.filter fun w => !(decide (a ≤ w) && decide (w + 32 ≤ a + 64))),
    match s.hit d l with
    | some _ => touchLine d l fun c => { c with dirty := true }
    | none => allocLine d ⟨l, true, false, false⟩] s

/-- The entry of a line, as changed by f; an entry no port holds goes. -/
def modEntry (line : Nat) (f : SfEnt → SfEnt) : Act := fun s =>
  modFilter (s.owner (line * 64)) (fun l => (l.map fun e => if e.line = line then f e else e).filter fun e => !e.ports.isEmpty) s

/-- A snoop of port n ends with the host's answer: modified data is written; after a recall the port may keep a shared copy, after
an invalidation it holds none. -/
def snoopAnswered (n : Nat) (x : Snoop) (data : Option (List Byte)) : Act :=
  seqA [modPort n fun p => { p with snoops := p.snoops.filter fun y => y.tag != x.tag },
    forOpt data (storeLine x.line),
    if x.inv then modEntry x.line fun e => { e with ports := e.ports.filter fun m => m != n }
    else modEntry x.line fun e => if e.ports.contains n then { e with excl := false } else e]

/-- R425: a snoop of port n is not answered: the host's copy is taken as invalid; a later write-back of an exclusive one is
discarded. -/
def snoopLost (n : Nat) (x : Snoop) : Act := fun s =>
  let held := (s.sfEntry x.line).any fun e => e.2.excl && e.2.ports.contains n
  seqA [modPort n fun p => { p with
      snoops := p.snoops.filter fun y => y.tag != x.tag
      dropWb := if held ∧ p.dropWb.contains x.line = false then p.dropWb ++ [x.line] else p.dropWb },
    modEntry x.line fun e => { e with ports := e.ports.filter fun m => m != n },
    bump F.TRL_SNP_TMO n 1, logOpen none 5 noUnit (s.portPart n) 0 0] s

/-! ## Events (R428) -/

/-- The pending event of source v on port n goes out if nothing holds it any more. -/
def pendOut (n v : Nat) : Act := fun s =>
  let e := s.evt n v
  if F.TRL_EVT_EN.of e = 1 ∧ F.TRL_EVT_PEND.of e = 1 ∧ F.TRL_EVT_MASK.of e = 0 ∧ s.fld F.TRL_LNK_STS_STATE n = 2 ∧
      (s.port n).inHoldoff (F.TRL_EVT_VECTOR.of e) = false then
    seqA [setF (F.TRL_EVT_PEND.nth v) n 0, sendEvt n v (SMap.get (fun _ => 0) (s.port n).evData v)] s
  else []

/-- The partitions in which the unit of source v lies: of sources 98 the named die, of 99 and 100 those whose swap is in the named
state or whose job stopped, of 96 and 97 the management partition while the Keeper is up. -/
def State.evtParts (s : State) (v data : Nat) : List Nat :=
  if v < 32 then [s.part v]
  else if v < 96 then [s.part ((v - 32) / 2)]
  else if v < 98 then (if s.keeperUp then [s.mgmt] else [])
  else if v = 98 then [s.part (data % 32)]
  else if v = 99 then (List.range 16).filter fun p => (s.job p).live && s.fld F.LDR_SWAP_STS_STATE p == data
  else if v = 100 then (List.range 16).filter fun p => (s.slice p).set && (s.slice p).job == data
  else []

/-- R428: a source raises an event. -/
def execEventRaise (v : Fin 128) (data : Word32) (s : State) : Host.Outcome State Fault Refusal :=
  runAct (withA (fun s => s.evtParts v.val data.toNat) fun l => forA l fun p => raiseEvent p v.val data.toNat) s

/-- R428: the holdoff of source v's vector ends on port n, HOLDOFF µs after its last EVT: one EVT with the latest data goes out if one is pending. -/
def execEventHoldoffExpiry (n : Fin 4) (v : Fin 128) (s : State) : Host.Outcome State Fault Refusal :=
  let n := n.val
  runAct (seqA [fun s => modPort n (fun p => { p with holdoff := p.holdoff.filter fun x => !(x.1 == F.TRL_EVT_VECTOR.of (s.evt n v.val) &&
      decide (1000 * s.fld F.TRL_CFG_HOLDOFF n ≤ (s.mile - x.2).toNat)) }) s, pendOut n v.val]) s

/-- R428: a write of TRL_EVT v of port n. -/
def hostEventTableWrite (src : Src) (n : Fin 4) (v : Fin 128) (w : Word) : Act :=
  guardW src .trl n.val (0x400 + 8 * v.val) (seqA [writeReg .trl n.val (0x400 + 8 * v.val) w, pendOut n.val v.val])

/-- EventTableWrite: the command of its row. -/
def execEventTableWrite (src : Src) (n : Fin 4) (v : Fin 128) (w : Word) (s : State) : Host.Outcome State Fault Refusal :=
  runAct (hostEventTableWrite src n v w) s

end Sys2Proof.Machine
end

