-- ==== Sys2Proof/Machine/Dma.lean ====
section
/-!
DEFINITION. The DMA channels (R432–R445): rings, descriptors and their checks, the move, bursts, completion, and what a Trais port
going DOWN ends.
-/
namespace Sys2Proof.Machine

/-! ## Channels and descriptors (R432–R436) -/

/-- Channel c of die d. -/
def State.dma (s : State) (d c : Nat) : DmaCh := if c = 0 then (s.die d).dma0 else (s.die d).dma1

/-- Change channel c of die d. -/
def modDma (d c : Nat) (f : DmaCh → DmaCh) : Act :=
  modDie d fun x => if c = 0 then { x with dma0 := f x.dma0 } else { x with dma1 := f x.dma1 }

/-- The entries of a ring as a power of two: LOG2 from 4 to 16. DEDUCED (log entry 45): a LOG2 below 4 is taken as 4, one above 16
as 16. -/
def dmaLog2 (w : Word) : Nat := max 4 (min 16 (F.DMA_CH_RING_LOG2.of w))

/-- The register word of channel c at offset `off` from its registers' start. -/
def State.dmaReg (s : State) (d c off : Nat) : Word := s.reg .dma d (0x100 + 128 * c + off)

/-- The address of the descriptor of a count. -/
def State.descAddr (s : State) (d c n : Nat) : Nat :=
  let w := s.dmaReg d c 0
  F.DMA_CH_RING_ADDR.of w * 64 + n % 2 ^ dmaLog2 w * 32

/-- HEAD of a channel. -/
def State.dmaHead (s : State) (d c : Nat) : Nat := s.fld (F.DMA_CH_HEAD_HEAD.chan c) d

/-- One side of a descriptor (R434, R435): whether it is host memory, FIXED, its element size, its address. -/
structure DmaSide where
  space : Nat
  fixed : Bool
  es : Nat
  addr : Nat
  deriving DecidableEq, Repr

/-- LEN of a descriptor; 0 means 4 GiB. -/
def descLen (b : List Byte) : Nat := if leAt b 0x10 4 = 0 then 2 ^ 32 else leAt b 0x10 4

/-- The source (0) or destination (1) of a descriptor. -/
def descSide (b : List Byte) (k : Nat) : DmaSide :=
  let m := leAt b (0x14 + k) 1
  ⟨m % 4, nbit m 2, 8 * 2 ^ nbits m 4 3, leAt b (8 * k) 8⟩

/-- The address of byte j of the transfer on a side. DEDUCED (log entry 46): each side goes by its own ESIZE. -/
def DmaSide.at_ (x : DmaSide) (j : Nat) : Nat := if x.fixed then x.addr + j % x.es else x.addr + j

/-- The bytes a side spans. -/
def DmaSide.span (x : DmaSide) (len : Nat) : Nat := if x.fixed then x.es else len

/-- EVT and FENCE of a descriptor. -/
def descEvt (b : List Byte) : Bool := nbit (leAt b 0x16 1) 0

/-- The side lies in tile SRAM windows. -/
def DmaSide.sram (x : DmaSide) : Bool := x.space == 0 && decide (0x018000000000 ≤ x.addr)

/-- R432, R436: every byte of a device side lies in stack granules of the partition, or in SRAM windows of its tiles
(and of the partition a debug token opens, R502). -/
def State.dmaRange (s : State) (p : Nat) (x : DmaSide) (len : Nat) : Bool :=
  let n := x.span len
  if x.space ≠ 0 then true
  else if x.addr < 0x018000000000 then s.inGranules (s.reaches p none) x.addr n
  else (List.range ((x.addr + n - 1) / 0x8000 - x.addr / 0x8000 + 1)).all fun i =>
    match target ((x.addr / 0x8000 + i) * 0x8000) with
    | .sram t _ => s.reaches p none (s.part t.d.val)
    | _ => false

/-- R440: the check of a descriptor before it moves data; 0 where it passes. -/
def State.dmaCheck (s : State) (d : Nat) (b : List Byte) (cfg : Word) (poison : Bool) : Nat :=
  let x := descSide b 0
  let y := descSide b 1
  let n := descLen b
  let p := s.part d
  let port := F.DMA_CH_CFG_PORT.of cfg
  let bad := fun (z : DmaSide) => z.fixed && (z.addr % z.es != 0)
  let off8 := fun (z : DmaSide) => z.sram && (z.addr % 8 != 0 || n % 8 != 0)
  if poison ∨ crc16 (b.take 0x1C) ≠ leAt b 0x1C 2 then 1
  else if 2 ≤ x.space ∨ 2 ≤ y.space ∨ (x.fixed = true ∧ n % x.es ≠ 0) ∨ (y.fixed = true ∧ n % y.es ≠ 0) ∨
    (x.fixed || y.fixed) = true ∧ (bad x || bad y) = true then 2
  else if s.dmaRange p x n = false ∨ s.dmaRange p y n = false then 3
  else if off8 x = true ∨ off8 y = true then 4
  else if (x.space = 1 ∨ y.space = 1) ∧ (s.fld F.TRL_LNK_STS_STATE port ≠ 2 ∨ s.portPart port ≠ p) then 6
  else 0

/-! ## Ends (R437, R438, R441) -/

/-- The channel goes on: RUN while descriptors are offered, else IDLE. -/
def dmaNext (d c : Nat) : Act := fun s =>
  seqA [setF (F.DMA_CH_STS_BUSY.chan c) d 0,
    if s.fld (F.DMA_CH_STS_STATE.chan c) d = 0 then skip
    else setF (F.DMA_CH_STS_STATE.chan c) d (if s.dmaHead d c = (s.dma d c).tail then 1 else 2)] s

/-- R483: an attempt in progress is abandoned as void when the part enters P2; the array is due again. -/
def calAbandon (c : CalAtt) : Act :=
  seqA [bump F.CAL_FLAG_VOID c.tile.d.val 1, setF F.TIL_ARR_STS_STATE (tileKey c.tile) (if c.cls = 0 then 3 else 1), leaveCal c.tile,
    dueAgain c.tile c.cls]

/-- R483 steps 3–5: with the steps drained, the part enters P2 once no descriptor is in progress: the cache is written back and
invalidated, calibration attempts are void, and clocks are gated. -/
def p2Settle : Act :=
  whenA (fun s => s.power.drainFor == 3 && allDies.all fun d => (s.dma d 0).cur.isNone && (s.dma d 1).cur.isNone)
    (seqA [forA allDies fun d => flushDie d fun _ => true, forA allDies fun d => withA (fun s => (s.die d).calNow) fun l => forA l calAbandon,
      modPower fun p => { p with drainFor := 0, gated := true }, setF F.PWR_STATE_STATE 0 2, setF F.PWR_STATE_CODE 0 0,
      setF F.PWR_STATE_BUSY 0 0])

/-- A channel's reads of the host that are still out no longer count for it. -/
def dropReads (d c : Nat) : Act :=
  forA allPorts fun n => modPort n fun p => { p with reads := p.reads.map fun y => if y.ch = 2 * d + c then { y with ch := 64 } else y }

/-- Write a descriptor's completion: STATUS and OWN 0 in one write, HEAD, the counters, the record of a failure, the event, and
HALTED where HALT_ERR asks for it. -/
def dmaWrite (d c : Nat) (b : List Byte) (cfg : Word) (status : Nat) : Act := fun s =>
  let h := s.dmaHead d c
  let h' := (h + 1) % 2 ^ 17
  let bad := status != 0
  seqA [storeBytes true (s.descAddr d c h + 0x1E) [BitVec.ofNat 8 status, 0], setF (F.DMA_CH_HEAD_HEAD.chan c) d h',
    bump (F.DMA_CH_DESC_DONE.chan c) d 1,
    whenA (fun _ => bad) (seqA [setF (F.DMA_CH_ERR_IDX.chan c) d h, setF (F.DMA_CH_ERR_USER.chan c) d (leAt b 0x18 4),
      setF (F.DMA_CH_STS_LAST_ERR.chan c) d status, bump (F.DMA_CH_DESC_ERRORS.chan c) d 1]),
    whenA (fun _ => bad || descEvt b) (raiseEvent (s.part d) (32 + 2 * d + c) (h' + status * 2 ^ 17)),
    modDma d c fun x => { DmaCh.zero with tail := x.tail }, dropReads d c, dmaNext d c,
    whenA (fun s => bad && F.DMA_CH_CFG_HALT_ERR.of cfg == 1 && s.fld (F.DMA_CH_STS_STATE.chan c) d != 0) (setF (F.DMA_CH_STS_STATE.chan c) d 3), p2Settle] s

/-- The completion of a descriptor that has ended is written once no host copy of its line is exclusive. -/
def dmaTry (d c : Nat) : Act := fun s =>
  let x := s.dma d c
  match x.cur, x.ending with
  | some b, some st =>
    let a := s.descAddr d c (s.dmaHead d c) + 0x1E
    if (s.heldE a 2).isEmpty then dmaWrite d c b x.curCfg st s else recallE (s.heldE a 2) s
  | _, _ => []

/-- The descriptor in progress ends with a STATUS. -/
def dmaEnd (d c status : Nat) : Act :=
  seqA [modDma d c fun x => { x with ending := some status, flushing := false }, dmaTry d c]

/-- Every channel that waits to write a completion tries again. -/
def dmaRetry : Act := forA allDies fun d => seqA [dmaTry d 0, dmaTry d 1]

/-! ## The move (R435, R438, R443) -/

/-- The burst size and the share of a configuration. -/
def dmaBurst (cfg : Word) : Nat := 256 * 4 ^ F.DMA_CH_CFG_BURST.of cfg
def dmaShare (cfg : Word) : Nat := max 1 (min 64 (F.DMA_CH_CFG_SHARE.of cfg))

/-- R443: the gap in NOC cycles; with a host side over `lanes` lanes, R_path is 12.35 × lanes. -/
def dmaGap (cfg : Word) (host : Bool) (lanes : Nat) : Nat :=
  if host then (dmaBurst cfg * 64 * 20 + dmaShare cfg * 247 * lanes - 1) / (dmaShare cfg * 247 * lanes)
  else (dmaBurst cfg + dmaShare cfg - 1) / dmaShare cfg

/-- Lanes in service on a port. -/
def State.lanes (s : State) (n : Nat) : Nat := (List.range 4).countP fun i => nbit (s.fld F.TRL_LNK_STS_LANES n) i

/-- The bytes of a descriptor whose bursts have begun. -/
def DmaCh.begun (x : DmaCh) (b : List Byte) : Nat :=
  if F.DMA_CH_CFG_MODE.of x.curCfg = 0 then descLen b else min (descLen b) (x.bursts * dmaBurst x.curCfg)

/-- The host lines of a source that may be asked for so far: the first line and how many. -/
def DmaCh.srcLines (x : DmaCh) (b : List Byte) : Nat × Nat :=
  let y := descSide b 0
  let n := y.span (x.begun b)
  if y.space ≠ 1 ∨ x.begun b = 0 then (0, 0) else (y.addr / 64, (y.addr + n + 63) / 64 - y.addr / 64)

/-- Ask for the source's host lines in order, until one must come from the host; at most n. DESIGN CHOICE (log entry 47): a channel
has one read outstanding. -/
def dmaAsk (d c : Nat) : Nat → Act
  | 0 => skip
  | n + 1 => fun s =>
    let x := s.dma d c
    match x.cur with
    | none => []
    | some b =>
      let r := x.srcLines b
      let port := F.DMA_CH_CFG_PORT.of x.curCfg
      if r.2 ≤ x.got ∨ (s.port port).reads.any (fun y => y.ch == 2 * d + c) = true then []
      else match (s.port port).line (r.1 + x.got) with
        | some bs => seqA [bump F.TRL_HLC_HIT port 1, modPort port fun p => p.keepLine (r.1 + x.got) bs,
            modDma d c fun x => { x with got := x.got + 1 }, dmaAsk d c n] s
        | none => seqA [bump F.TRL_HLC_MISS port 1, hostAsk port (2 * d + c) (r.1 + x.got) false ((r.1 + x.got) * 64) 64] s

/-- Byte j of the source: from device memory, from the line the port's cache holds, or as the host delivered it. -/
def State.dmaByte (s : State) (b : List Byte) (port : Nat) (host : List Byte) (j : Nat) : Byte :=
  let x := descSide b 0
  let a := x.at_ j
  if x.space = 0 then s.byte a
  else match (s.port port).line (a / 64) with
    | some bs => bs.getD (a % 64) 0
    | none => host.getD j (Config.freeByte s.free j)

/-- The first n bytes of a transfer are written to the destination; those of a poisoned source word are not (R440). -/
def dmaMove (d c : Nat) (b : List Byte) (port : Nat) (host : List Byte) (n : Nat) : Act := fun s =>
  let x := descSide b 0
  let y := descSide b 1
  let bad := fun j => x.space == 0 && !s.poison.isEmpty && s.poisoned (x.at_ j) 1
  let bytes := ((List.range n).filter fun j => !bad j).map fun j => (y.at_ j, s.dmaByte b port host j)
  let whole := (List.range n).all fun j => !bad j
  seqA [whenA (fun _ => x.space == 1) draw, if y.space = 1 then
        (if whole && !y.fixed then hostStore port y.addr (bytes.map Prod.snd) else forA bytes fun z => hostStore port z.1 [z.2])
      else seqA [whenA (fun _ => !bytes.isEmpty && !y.sram) (sliceWrites true y.addr (y.span n)),
        if whole && !y.fixed then putStack y.addr (bytes.map Prod.snd) else forA bytes fun z => putStack z.1 [z.2]],
    bumpW (F.DMA_CH_BYTES_BYTES.chan c) d bytes.length] s

/-- The number of bytes written before a failure inside the move, where nothing says it (R440): free, among those in hand. -/
def dmaPartial (d c : Nat) (b : List Byte) (port : Nat) : Act := fun s =>
  let x := s.dma d c
  let y := descSide b 0
  let top := if y.space = 1 ∧ y.fixed = false then min (x.begun b) (x.got * 64 - y.addr % 64) else x.begun b
  seqA [draw, dmaMove d c b port [] (Config.freeNat s.free % (top + 1))] s

/-- A descriptor in progress fails inside its move. -/
def dmaFail (d c status : Nat) : Act := fun s =>
  match (s.dma d c).cur with
  | none => []
  | some b => if (s.dma d c).ending.isSome then [] else
      seqA [whenA (fun s => !(s.dma d c).flushing && ((descSide b 0).space == 0 || decide (0 < (s.dma d c).got))) (dmaPartial d c b (F.DMA_CH_CFG_PORT.of (s.dma d c).curCfg)),
        dmaEnd d c status] s

/-! ## The commands -/

/-- R433: a write of DMA_CHc_RING. -/
def hostDmaRingWrite (src : Src) (d : Fin 32) (c : Fin 2) (v : Word) : Act :=
  let off := 0x100 + 128 * c.val
  guardW src .dma d.val off fun s =>
    let w := s.reg .dma d.val off
    let on := F.DMA_CH_RING_EN.of v == 1
    if on = true ∧ s.owns (s.part d.val) (F.DMA_CH_RING_ADDR.of v * 64) (2 ^ dmaLog2 v * 32) = false then []
    else seqA [writeReg .dma d.val off v,
      if on = false then setF (F.DMA_CH_STS_STATE.chan c.val) d.val 0
      else whenA (fun _ => F.DMA_CH_RING_EN.of w == 0) (setF (F.DMA_CH_STS_STATE.chan c.val) d.val 1)] s

/-- DmaRingWrite: the command of its row. -/
def execDmaRingWrite (src : Src) (d : Fin 32) (c : Fin 2) (v : Word) (s : State) : Host.Outcome State Fault Refusal :=
  runAct (hostDmaRingWrite src d c v) s

/-- R437, R444: a doorbell. While HALTED or DISABLED it records TAIL only. -/
def hostDmaDoorbell (src : Src) (d : Fin 32) (c : Fin 2) (v : Word) : Act :=
  guardW src .dma d.val (0x108 + 128 * c.val) (seqA [modDma d.val c.val fun x => { x with tail := F.DMA_CH_TAIL_TAIL.of v },
    whenA (fun s => s.fld (F.DMA_CH_STS_STATE.chan c.val) d.val == 1 && s.dmaHead d.val c.val != (s.dma d.val c.val).tail)
      (setF (F.DMA_CH_STS_STATE.chan c.val) d.val 2)])

/-- DmaDoorbell: the command of its row. -/
def execDmaDoorbell (src : Src) (d : Fin 32) (c : Fin 2) (v : Word) (s : State) : Host.Outcome State Fault Refusal :=
  runAct (hostDmaDoorbell src d c v) s

/-- R437, R440: channel c of die d takes the descriptor at HEAD, in P0 or P1. OWN 0 stops it until the next doorbell. -/
def execDmaDescriptor (d : Fin 32) (c : Fin 2) (s : State) : Host.Outcome State Fault Refusal :=
  let d := d.val
  let c := c.val
  runAct (fun s =>
    let a := s.descAddr d c (s.dmaHead d c)
    let x := s.dma d c
    if s.fld (F.DMA_CH_STS_STATE.chan c) d ≠ 2 ∨ x.cur.isSome = true ∨ 1 < s.pstate ∨ s.power.drainFor = 3 then []
    else if s.dmaHead d c = x.tail then setF (F.DMA_CH_STS_STATE.chan c) d 1 s
    else unitRead true a 32 (fun s =>
      let b := s.bytes a 32
      let cfg := s.dmaReg d c 0x18
      if nbit (leAt b 0x1F 1) 0 = false then setF (F.DMA_CH_STS_STATE.chan c) d 1 s
      else
        let code := s.dmaCheck d b cfg (s.poisoned a 32)
        let start := { x with cur := some b, curCfg := cfg, bursts := 1, issued := s.mile, got := 0, flushing := false }
        seqA [modDma d c fun _ => start, setF (F.DMA_CH_STS_BUSY.chan c) d 1,
          if code ≠ 0 then dmaEnd d c code else dmaAsk d c (2 ^ 26 + 2)] s) s) s

/-- R443: in compatibility mode the next burst of the descriptor begins, once the gap has passed (NOC cycles of 0.5 ns). -/
def execDmaBurstGap (d : Fin 32) (c : Fin 2) (s : State) : Host.Outcome State Fault Refusal :=
  let d := d.val
  let c := c.val
  runAct (fun s =>
    let x := s.dma d c
    match x.cur with
    | none => []
    | some b =>
      let host := (descSide b 0).space == 1 || (descSide b 1).space == 1
      let gap := dmaGap x.curCfg host (max 1 (s.lanes (F.DMA_CH_CFG_PORT.of x.curCfg)))
      if F.DMA_CH_CFG_MODE.of x.curCfg = 0 ∨ descLen b ≤ x.begun b ∨ x.ending.isSome = true ∨
          2 * (s.mile - x.issued).toNat < gap then []
      else seqA [modDma d c fun x => { x with bursts := x.bursts + 1, issued := s.mile }, dmaAsk d c (2 ^ 26 + 2)] s) s

/-- R438, R440: the move of the descriptor in progress ends, or fails inside with STATUS 5 or 6 after `moved` bytes. A host
destination is followed by a read of its last 128-byte block, whose CPL completes the descriptor; for a device destination
the completion is written now. -/
def execDmaTransferDone (d : Fin 32) (c : Fin 2) (status : BitVec 8) (moved : Nat) (host : List Byte) (s : State) :
    Host.Outcome State Fault Refusal :=
  let d := d.val
  let c := c.val
  runAct (fun s =>
    let x := s.dma d c
    match x.cur with
    | none => []
    | some b =>
      let n := descLen b
      let src := descSide b 0
      let dst := descSide b 1
      let port := F.DMA_CH_CFG_PORT.of x.curCfg
      let bad := status = 5 ∨ status = 6
      if x.ending.isSome then dmaTry d c s
      else if x.flushing = true ∨ (¬bad ∧ (x.begun b < n ∨ x.got < (x.srcLines b).2)) then []
      else
        let poison := src.space == 0 && !s.poison.isEmpty && s.poisoned src.addr (src.span n)
        let st := if bad then status.toNat else if poison then 5 else 0
        let m := if bad ∨ poison = true then min moved (x.begun b) else n
        let go : Act := seqA [dmaMove d c b port host m,
          if st = 0 ∧ dst.space = 1 then
            let last := (dst.addr + dst.span n - 1) / 128 * 128
            seqA [modDma d c fun x => { x with flushing := true }, hostAsk port (2 * d + c) 0 true last 128]
          else dmaEnd d c st]
        let w : Act := if dst.space = 0 ∧ dst.sram = false then unitWrite dst.addr (dst.span n) go else go
        (if src.space = 0 ∧ src.sram = false then unitRead true src.addr (src.span n) w else w) s) s

/-- R442: DMA_CHc_CMD. RESUME continues a HALTED channel; ABORT ends the running descriptor and every offered one after it. -/
def dmaCmd (src : Src) (d c : Nat) (v : Word) : Act :=
  guardW src .dma d (0x130 + 128 * c) fun s =>
    let op := F.DMA_CH_CMD_OP.of v
    let st := s.fld (F.DMA_CH_STS_STATE.chan c) d
    if op = 1 ∧ st = 3 then setF (F.DMA_CH_STS_STATE.chan c) d (if s.dmaHead d c = (s.dma d c).tail then 1 else 2) s
    else if op = 2 ∧ (st = 2 ∨ st = 3) then
      let h := s.dmaHead d c
      let cnt := min (((s.dma d c).tail + 2 ^ 17 - h) % 2 ^ 17) (2 ^ dmaLog2 (s.dmaReg d c 0))
      let addrs := (List.range cnt).map fun i => s.descAddr d c (h + i)
      let own := fun a => nbit (s.byte (a + 0x1F)).toNat 0
      let held := addrs.flatMap fun a => s.heldE a 32
      if !held.isEmpty then recallE held s
      else
        let n := (addrs.takeWhile own).length
        seqA [whenA (fun s => (s.dma d c).cur.isSome && (s.dma d c).ending.isNone)
            (fun s => forOpt (s.dma d c).cur (fun b => dmaPartial d c b (F.DMA_CH_CFG_PORT.of (s.dma d c).curCfg)) s),
          forA (List.range n) fun _ => fun s => dmaWrite d c (s.bytes (s.descAddr d c (s.dmaHead d c)) 32) 0 7 s,
          modDma d c fun x => { DmaCh.zero with tail := x.tail }, dropReads d c, setF (F.DMA_CH_STS_BUSY.chan c) d 0,
          setF (F.DMA_CH_STS_STATE.chan c) d 1, p2Settle] s
    else []

/-- R442: DMA_CHc_CMD with OP RESUME. -/
def hostDmaResume (src : Src) (d : Fin 32) (c : Fin 2) (v : Word) : Act := dmaCmd src d.val c.val v

/-- DmaResume: the command of its row. -/
def execDmaResume (src : Src) (d : Fin 32) (c : Fin 2) (v : Word) (s : State) : Host.Outcome State Fault Refusal :=
  runAct (hostDmaResume src d c v) s

/-- R442: DMA_CHc_CMD with OP ABORT. -/
def hostDmaAbort (src : Src) (d : Fin 32) (c : Fin 2) (v : Word) : Act := dmaCmd src d.val c.val v

/-- DmaAbort: the command of its row. -/
def execDmaAbort (src : Src) (d : Fin 32) (c : Fin 2) (v : Word) (s : State) : Host.Outcome State Fault Refusal :=
  runAct (hostDmaAbort src d c v) s

/-! ## Completions of the part's own reads, and a port that goes DOWN (R416, R426, R429) -/

/-- R426, R438, R440: a completion for a read the part has sent: a line for the cache and its channel, the end of a flush, or a
failure. -/
def execTraisCpl (n : Fin 4) (tag : BitVec 16) (status : BitVec 8) (data : List Byte) (s : State) :
    Host.Outcome State Fault Refusal :=
  let n := n.val
  runAct (fun s =>
    match (s.port n).reads.find? fun r => r.tag == tag.toNat with
    | none => []
    | some r =>
      let d := r.ch / 2
      let c := r.ch % 2
      seqA [modPort n fun p => { p with reads := p.reads.filter fun y => y.tag != r.tag },
        if r.ch = 64 then skip
        else if status ≠ 0 then dmaFail d c (if status = 2 then 5 else 6)
        else if r.flush then dmaEnd d c 0
        else seqA [modPort n fun p => p.keepLine r.line (padTo 64 data), modDma d c fun x => { x with got := x.got + 1 },
          dmaAsk d c (2 ^ 26 + 2)]] s) s

/-- A change of a ring window slot. -/
def HostReq.isRemap : HostReq → Bool
  | .remap .. => true
  | _ => false

/-- A port leaves service (R416, R429): replay buffers, cache and requests are gone, events wait, snoops are taken as timed out,
and the DMA descriptors that use it end with HOST. -/
def portOff (n st cause : Nat) : Act := fun s =>
  let p := s.port n
  let evs := p.txq.flatMap fun m => match m with
    | .evt v x => ((List.range 128).filter fun e => F.TRL_EVT_EN.of (s.evt n e) == 1 && F.TRL_EVT_VECTOR.of (s.evt n e) == v).map
        fun e => (e, x)
    | _ => []
  let chans := (allDies.flatMap fun d => [(d, 0), (d, 1)]).filter fun x =>
    let y := s.dma x.1 x.2
    F.DMA_CH_CFG_PORT.of y.curCfg == n && y.cur.any fun b => (descSide b 0).space == 1 || (descSide b 1).space == 1
  seqA [whenA (fun s => s.fld F.TRL_LNK_STS_STATE n == 2) (bump F.TRL_LNK_STS_DOWNS n 1),
    setF F.TRL_LNK_STS_STATE n st, setF F.TRL_LNK_STS_CAUSE n cause, setF F.TRL_LNK_STS_LANES n 0, setF F.TRL_LNK_STS_REV n 0,
    forA evs fun e => seqA [setF (F.TRL_EVT_PEND.nth e.1) n 1,
      modPort n fun p => { p with evData := SMap.set (fun _ => 0) p.evData e.1 e.2 }],
    forA p.snoops (snoopLost n), whenA (fun s => s.debug == 1 && s.fld F.SEC_STS_DBG_PORT 0 == n) debugEnd,
    modPort n fun p => { TPort.zero with
      dropWb := p.dropWb, holdoff := p.holdoff, evData := p.evData, snpTag := p.snpTag, rdTag := p.rdTag, held := p.held.filter HostReq.isRemap },
    forA chans fun x => dmaFail x.1 x.2 6] s

end Sys2Proof.Machine
end

