-- ==== Sys2Proof/Machine/Keeper.lean ====
section
/-!
DEFINITION. The Keeper (R447–R454): its reset and return, firmware slots as the ROM judges them (R516), measurements (R492), the
delivery of what the dies held, log records, and the noise model's refresh (R97).
-/
namespace Sys2Proof.Machine

/-! ## Debug, measurements and slots that a Keeper reset touches (R492, R503, R516) -/

def modSlot (k : Nat) (f : Slot → Slot) : Act :=
  modNvm fun n => if k = 0 then { n with slotA := f n.slotA } else { n with slotB := f n.slotB }

/-- Slot A (0) or B (1). -/
def State.slot (s : State) (k : Nat) : Slot := if k = 0 then s.nvm.slotA else s.nvm.slotB

/-- R492: measurement register i is extended by x. -/
def extend (i : Nat) (x : List Byte) : Act :=
  modSec fun c => { c with m := c.m.set i (Config.shake256 32 (c.m.getD i [] ++ x)) }

/-- A signature block at offset o of a byte string: SIG_LEN at most 1,280, then SIG; it verifies over a digest of 64 bytes. -/
def sigOk (key : List Byte) (body bs : List Byte) (o : Nat) : Bool :=
  leAt bs o 2 ≤ 1280 && Config.falconVerify key (Config.shake256 64 body) (slice bs (o + 2) (leAt bs o 2))

/-- Fields of an update manifest (R510). -/
def manFwMaj (m : List Byte) : Nat := leAt m 0x08 2
def manFwMin (m : List Byte) : Nat := leAt m 0x0A 2
def manSvn (m : List Byte) : Nat := leAt m 0x0C 4
def manBlocks (m : List Byte) : Nat := leAt m 0x10 2

/-- The digest of block b in a manifest. -/
def manDigest (m : List Byte) (b : Nat) : List Byte := slice m (0x80 + 32 * b) 32

/-- A manifest's signature verifies with the firmware key. -/
def manSigned (m : List Byte) : Bool := sigOk (Config.romKey 0) (m.take 0x1880) m 0x1880

/-- Block b of a slot, as stored. -/
def Slot.block (x : Slot) (b : Nat) : List Byte := SMap.get (fun _ => []) x.blocks b

/-- R516: the ROM boots a slot only if signature, block digests and SVN hold. -/
def State.slotPasses (s : State) (k : Nat) : Bool :=
  let x := s.slot k
  decide (x.manifest.length = 8192) && manSigned x.manifest && decide (s.nvm.arb ≤ manSvn x.manifest) &&
    (List.range (manBlocks x.manifest)).all fun b => Config.shake256 32 (x.block b) == manDigest x.manifest b

/-- UPD_BOOT.VALID_A and VALID_B, as the ROM finds them at a boot. -/
def slotsJudged : Act := fun s =>
  seqA [setB F.UPD_BOOT_VALID_A 0 (s.slotPasses 0), setB F.UPD_BOOT_VALID_B 0 (s.slotPasses 1)] s

/-- STATE of the transfer, kept in NVM. -/
def updState (n : Nat) : Act := modNvm fun x => { x with upd := { x.upd with st := n } }

/-- UPD_STS.CODE. -/
def updCode (c : Nat) : Act := setF F.UPD_STS_CODE 0 c

/-! ## Reset of the processor (R449, R465) -/

/-- The Keeper's processor is reset: firmware stops, staged pieces, snapshots and partial blocks are gone, debug ends. -/
def keeperDown : Act :=
  seqA [setF F.KPR_STS_STATE 0 0, modKeeper fun k => { k with staged := [], stagedObj := 0, snaps := [], gather := [], haltedByTap := false },
    debugEnd]

/-- R449: a watchdog expiry or an uncorrectable SRAM error. The third within an hour boots the other slot if it passes R516 and
is offered, else leaves the ROM in ROM_WAIT, where it also stays when no firmware has run since the boot; the count then begins anew (DESIGN CHOICE, log entry 50). -/
def execKeeperWatchdog (s : State) : Host.Outcome State Fault Refusal :=
  runAct (fun s =>
    if s.power.vaux = false then []
    else
      let pos := s.nvm.pos
      let l := (s.keeper.bites.filter fun p => pos ≤ p + 3600) ++ [pos]
      let cur := s.fld F.KPR_STS_SLOT 0
      let st := s.nvm.upd.st
      let ok := s.slotPasses (1 - cur) && st != 1 && st != 2
      seqA [keeperDown, bump F.KPR_WDOG_BITES 0 1, logOpen none 10 noUnit 0x3F 0 0,
        modNvm fun n => { n with upd := { n.upd with since := pos } },
        if s.flag F.SEC_STS_BOOT_DONE 0 = false then setF F.KPR_STS_STATE 0 2
        else if l.length < 3 then modKeeper fun k => { k with bites := l }
        else seqA [modKeeper fun k => { k with bites := [] },
          if ok then seqA [setF F.KPR_STS_SLOT 0 (1 - cur), whenA (fun _ => st == 4)
            (seqA [updState 5, updCode 11, setF F.UPD_BOOT_FALLBACK 0 1])]
          else setF F.KPR_STS_STATE 0 2]] s) s

/-! ## Return (R454, R331, R23) -/

/-- R454: the records of a hold are delivered in order, then a KEEPER record of the number dropped. -/
def deliverLog (l : List LogRec) (dropped unit : Nat) : Act := fun s =>
  seqA [forA l logAdd,
    whenA (fun _ => dropped != 0) (seqA [bump F.KPR_LOG_DROPPED 0 dropped,
      logAdd ⟨0, 10, 2, 2, BitVec.ofNat 32 unit, 0x3F, 0, s.mile, 0, 0, padTo 30 (leBytes 4 dropped)⟩])] s

/-- R331: die d's checker delivers its records, then one OVERFLOW record if any were dropped. -/
def deliverHist (d : Nat) : Act := fun s =>
  let x := s.die d
  seqA [modDie d fun x => { x with chkHold := [], chkDropped := 0, marchHeld := [] }, forA x.chkHold (deliverRec x.marchHeld),
    forA x.marchHeld fun m => forOpt (tileAt (m.1 / 8448) (m.1 % 128) (m.1 % 8448 / 128)) fun t => marchDone t m.2,
    whenA (fun _ => x.chkDropped != 0) (keeperRecord ⟨BitVec.ofNat 32 (unitDie d), 9, 0, 0xFFFF, s.mile, 0, 0, BitVec.ofNat 32 x.chkDropped⟩)] s

/-- What a die held for the Keeper: checker records and soft counts, log records, calibration records. -/
def deliverDie (d : Nat) : Act := fun s =>
  let x := s.die d
  seqA [deliverHist d,
    modDie d fun y => { y with softUp := [], logHold := [], logDropped := 0, calOwed := [] },
    forA x.softUp.dedup fun k => softCount d k (x.softUp.countP fun y => y == k),
    deliverLog x.logHold x.logDropped (unitDie d),
    forA x.calOwed fun r => nvmWrite (modNvm fun n => { n with calr := SMap.set (fun _ => CalRec.zero) n.calr r.1 r.2 })] s

/-- An array whose calibration has become due while nothing triggered it (R23, R343): TEMP from the present samples, PERIOD. DESIGN
CHOICE (log entry 213): the current temperature at the Keeper's return is that of the last samples before it halted. -/
def recheckTile (t : TileId) : Act := fun s =>
  let h := s.fld F.CAL_CFG_PERIOD t.d.val
  seqA [sampleTile t, whenA (fun s => h != 0 && decide ((s.calRec t).pos + h * 3600 ≤ s.nvm.pos)) (calAsk t 3 0)] s

/-- Firmware runs: the version and slot in KPR_STS. -/
def firmwareRuns : Act := fun s =>
  let m := (s.slot (s.fld F.KPR_STS_SLOT 0)).manifest
  seqA [setF F.KPR_STS_STATE 0 1, setF F.KPR_STS_FW_MAJ 0 (manFwMaj m), setF F.KPR_STS_FW_MIN 0 (manFwMin m),
    extend 1 (Config.shake256 64 (m.take 0x1880))] s

/-- The Keeper returns after a reset of its processor: M1 is extended, held records go first from the K-die, then from each die,
programming and retention records that waited go on, triggers are evaluated again, and an activation in progress is confirmed as running (R515 step 5). -/
def execKeeperReturn (s : State) : Host.Outcome State Fault Refusal :=
  runAct (fun s =>
    if s.fld F.KPR_STS_STATE 0 ≠ 0 ∨ s.flag F.SEC_STS_BOOT_DONE 0 = false ∨ s.power.vaux = false then []
    else
      seqA [firmwareRuns, slotsJudged, modKeeper fun k => { k with kHold := [], kDropped := 0 },
        deliverLog s.keeper.kHold s.keeper.kDropped noUnit, forA allDies deliverDie,
        forA allDies progResume, modKeeper fun k => { k with retDue := [] },
        forA s.keeper.retDue fun p => whenA (fun s => s.imgSt p == 4) (writeRetain p),
        withA (fun s => allDies.flatMap fun d => s.boundTiles d) fun l => forA l recheckTile,
        whenA (fun s => s.nvm.upd.st == 3) (seqA [updState 4, modNvm fun n => { n with upd := { n.upd with since := n.pos } },
          logOpen none 9 noUnit 0x3F 0 0])] s) s

/-! ## Log records (R452–R454) -/

/-- R452: an event of a class and code is logged; one whose UNIT lies on a Y-die is held there while the Keeper is down. -/
def execLogRecord (cls : Fin 13) (sev : Fin 5) (code : BitVec 16) (unit : Word32) (part : Fin 64) (job : BitVec 16) (h : Word32)
    (detail : List Byte) (s : State) : Host.Outcome State Fault Refusal :=
  let d := unit.toNat / 2 ^ 22 % 64
  runAct (fun s => if cls.val = 0 then [] else
    logRec (if unit = 0xFFFFFFFF ∨ 32 ≤ d then none else some d)
      ⟨0, cls.val, sev.val, code.toNat, unit, part.val, job.toNat, s.mile, 0, h, padTo 30 detail⟩ s) s

/-! ## The noise model's refresh (R96, R97) -/

/-- The value at rank k of n of a sorted list of CAL_QF; 0xFF for none. -/
def qfRank (l : List Nat) (k : Nat) : Nat := (sortKey (fun x => (x, 0, 0, 0)) l).getD k 0xFF

/-- T_MEAN of die d: the mean of its samples of the last 24 power-on hours, kept by the hour; free where there is none. -/
def State.tMean (s : State) (d : Nat) : Nat :=
  let l := (SMap.get (fun _ => []) s.keeper.tHours d).filter fun x => s.nvm.pos / 3600 < x.1 + 24
  let n := (l.map fun x => x.2.2).sum
  if n = 0 then Config.freeNat (s.free + 32 + d) else tc 16 (roundDiv (l.map fun x => x.2.1).sum n)

/-- The die entry of die d. SIG_SCALE is measured: free. DESIGN CHOICE (log entry 51): the median is the upper one. -/
def State.noiseDie (s : State) (d : Nat) : List Byte :=
  let b := s.boundTiles d
  let q := b.map fun t => (s.calRec t).qf
  let ts := dieTiles (fin32 d)
  let u := ts.countP s.usable
  leBytes 2 (Config.freeNat (s.free + d)) ++ leBytes 1 (qfRank q (q.length / 2)) ++ leBytes 1 (qfRank q ((99 * q.length + 99) / 100 - 1)) ++
    leBytes 2 (ts.countP fun t => (s.tsum t).retired) ++ leBytes 2 (min (u - 4096) (u - b.length)) ++
    leBytes 2 (s.tMean d) ++ leBytes 6 0

/-- The array entry of a tile. -/
def State.noiseArr (s : State) (t : TileId) : List Byte :=
  leBytes 1 (if (s.tsum t).retired then 0xFF else (s.calRec t).qf) ++ leBytes 1 (min 255 ((s.tsum t).rewrites / 1000))

/-- Firmware refreshes the die and array sections, and SEQ rises. -/
def noiseRefresh : Act := fun s =>
  let b := (allDies.flatMap s.noiseDie) ++ allDies.flatMap fun d => (dieTiles (fin32 d)).flatMap s.noiseArr
  seqA [forA (List.range 64) fun _ => draw,
    modNvm fun n => { n with noise := b, noiseSeq := (n.noiseSeq + 1) % 2 ^ 32, noisePoh := n.pos / 3600 }] s

/-- R97: the refresh of every 24 hours, by running firmware. -/
def execNoiseModelRefresh (s : State) : Host.Outcome State Fault Refusal :=
  runAct (whenA (fun s => s.keeperUp) noiseRefresh) s

/-- The file of object NOISE_MODEL (R93–R96). -/
def State.noiseFile (s : State) : List Byte :=
  let h := leBytes 4 0x4D4E5742 ++ leBytes 1 1 ++ leBytes 1 0 ++ leBytes 1 1 ++ leBytes 1 1 ++ leBytes 4 271696 ++
    leBytes 4 s.nvm.noiseSeq ++ leBytes 4 s.nvm.noisePoh ++ leBytes 4 0 ++ padTo 32 s.sec.partId ++ leBytes 1 5 ++ leBytes 1 32 ++ leBytes 2 0 ++
    leBytes 4 135168 ++ leBytes 4 0x80 ++ leBytes 4 0xC0 ++ leBytes 4 0x110 ++ leBytes 4 0x150 ++ leBytes 4 0x350 ++ leBytes 4 0x550 ++
    leBytes 36 0 ++ leBytes 4 0
  let all := h ++ (List.range 0x2D0).map (fun i => noiseByte (0x80 + i)) ++ padTo 270848 s.nvm.noise
  putAt all 0x7C (leBytes 4 (crc32c all))

end Sys2Proof.Machine
end

