-- ==== Sys2Proof/Machine/Mailbox.lean ====
section
/-!
DEFINITION. The Keeper's objects and mailbox (R455–R457) and the board management interfaces (R458).
-/
namespace Sys2Proof.Machine

/-! ## Objects (R455, R502) -/

/-- The partition of a history record: its passage's, else that of the die its unit lies on. -/
def State.histPart (s : State) (r : HistRec) : Nat :=
  let d := r.unit.toNat / 2 ^ 22 % 64
  (s.byHandle r.handle).elim (if d < 32 then s.part d else 0x3F) fun i => (s.passage i).part

/-- R502: a requester sees whole records: through the port that holds a token, or in OPEN. -/
def State.unredacted (s : State) : Option Src → Bool
  | some (.port n) => s.debug == 2 || (s.debug == 1 && s.fld F.SEC_STS_DBG_PORT 0 == n.val && s.fld F.SEC_STS_SCOPE 0 ≤ 2)
  | some .keeper => true
  | none => false

/-- The partition of a requester of objects: none for the board and the Keeper. -/
def State.reqPart (s : State) : Option Src → Nat
  | some r => (s.srcPart r).getD 0x3F
  | none => 0x3F

/-- A history record of 32 bytes as requester r sees it. -/
def State.encHistFor (s : State) (r : Option Src) (h : HistRec) : List Byte :=
  let h := if s.unredacted r || s.histPart h == s.reqPart r then h else { h with handle := 0, detail := 0 }
  withCrc16 (encHist h ++ leBytes 2 0) 0x1E

/-- A log record of 64 bytes as requester r sees it (R452). -/
def State.encLogFor (s : State) (r : Option Src) (l : LogRec) : List Byte :=
  let l := if s.unredacted r || l.part == s.reqPart r then l else { l with handle := 0, job := 0, detail := [] }
  withCrc16 (leBytes 4 l.seq ++ leBytes 1 l.cls ++ leBytes 1 l.sev ++ leBytes 2 l.code ++ leBytes 4 l.unit.toNat ++ leBytes 1 l.part ++
    leBytes 1 0 ++ leBytes 2 l.job ++ leBytes 8 l.mile.toNat ++ leBytes 4 l.pos ++ leBytes 4 l.handle.toNat ++ padTo 30 l.detail ++
    leBytes 2 0) 0x3E

/-- A tile summary of 64 bytes (R328). -/
def encTsum (m : TileSum) : List Byte :=
  let t3 := fun (l : List Nat) => leBytes 4 (l.getD 0 0) ++ leBytes 4 (l.getD 1 0) ++ leBytes 4 (l.getD 2 0)
  withCrc16 (leBytes 4 m.rewrites ++ leBytes 2 m.tagStage ++ leBytes 2 m.tagEpoch ++
    leBytes 4 (m.tagArr % 2 ^ 24 + (if m.valid then 2 ^ 24 else 0) + (if m.winc then 2 ^ 25 else 0) + if m.retired then 2 ^ 26 else 0) ++
    leBytes 4 m.soft ++ t3 m.arrT ++ t3 m.chkT ++ t3 m.digT ++ leBytes 1 m.retCause ++ leBytes 9 0 ++ leBytes 2 0) 0x3E

/-- A calibration record of 16 bytes (R342). -/
def encCalr (r : CalRec) : List Byte :=
  withCrc16 (leBytes 2 r.d ++ leBytes 2 (tc 16 r.tcal) ++ leBytes 1 r.qf ++ leBytes 1 r.bad ++ leBytes 4 r.pos ++ leBytes 4 0 ++ leBytes 2 0) 0xE

/-- All tiles of the part. DEDUCED (log entry 52): TILE_SUM and CAL_REC list them in the order of R96. -/
def allTiles : List TileId := allDies.flatMap fun d => dieTiles (fin32 d)

/-- The bytes of an object as requester r reads it. -/
def State.object (s : State) (r : Option Src) : Nat → Option (List Byte)
  | 0x31 => some s.noiseFile
  | 0x32 => some s.nvm.hostNqn
  | 0x33 => some s.nvm.tpack
  | 0x34 => some (leBytes 4 s.nvm.uhist.length ++ leBytes 4 ((s.nvm.uhist.head?.map HistRec.pos).getD 0) ++ leBytes 8 0 ++
      s.nvm.uhist.flatMap (s.encHistFor r))
  | 0x35 => some (leBytes 4 s.nvm.log.length ++ leBytes 4 ((s.nvm.log.head?.map LogRec.seq).getD 0) ++ leBytes 8 0 ++
      s.nvm.log.flatMap (s.encLogFor r))
  | 0x36 => some Config.logCodes
  | 0x37 => some (allTiles.flatMap fun t => encTsum (s.tsum t))
  | 0x38 => some (allTiles.flatMap fun t => encCalr (s.calr t))
  | _ => none

/-! ## The mailbox OPs (R456, R457) -/

/-- What an OP answers: CODE, LEN and the bytes read. -/
structure MbxRes where
  code : Nat
  len : Nat
  data : List Byte
  deriving DecidableEq, Repr

/-- The number of a requester for its snapshots: its partition, 0x3F for the Keeper, 0x40 for the board. -/
def State.reqNo (s : State) : Option Src → Nat
  | some r => (s.srcPart r).getD 0x3F
  | none => 0x40

/-- R456: READ at offset 0 takes a snapshot; later reads come from it for up to 60 s. -/
def State.mbxRead (s : State) (r : Option Src) (obj off len : Nat) : MbxRes × Keeper :=
  let k := s.keeper
  match s.object r obj with
  | none => (⟨1, 0, []⟩, k)
  | some now =>
    let mine := k.snaps.find? fun x => x.1 == s.reqNo r && x.2.1 == obj
    let snap := if off = 0 then some now
      else match mine with
        | some x => if s.nvm.pos ≤ x.2.2.1 + 60 then some x.2.2.2 else none
        | none => none
    match snap with
    | none => (⟨4, 0, []⟩, k)
    | some b =>
      let k' := if off = 0 then { k with snaps := (k.snaps.filter fun x => !(x.1 == s.reqNo r && x.2.1 == obj)) ++
        [(s.reqNo r, obj, s.nvm.pos, now)] } else k
      if len = 0 ∨ 4096 < len ∨ b.length < off + len then (⟨2, 0, []⟩, k') else (⟨0, len, Machine.slice b off len⟩, k')

/-- The bytes that staged pieces spell: of length n, each byte covered by exactly one piece; none where there is a gap or an
overlap (R468). -/
def assemble (l : List (Nat × List Byte)) (n : Nat) : Option (List Byte) :=
  if (List.range n).all (fun i => l.countP (fun p => decide (p.1 ≤ i) && decide (i < p.1 + p.2.length)) == 1) ∧
      l.all (fun p => decide (p.1 + p.2.length ≤ n)) = true then
    some ((List.range n).map fun i =>
      ((l.find? fun p => decide (p.1 ≤ i) && decide (i < p.1 + p.2.length)).map fun p => p.2.getD (i - p.1) 0).getD 0)
  else none

/-- R456: WRITE stages a piece of TESTPACK (at most 1 MiB) or, before DEPLOYED, of HOSTNQN. DEDUCED (log entry 53): an object
that is never written answers CODE 3, HOSTNQN is at most 256 bytes, and a piece of another object discards what is staged. -/
def State.mbxWrite (s : State) (obj off len : Nat) (data : List Byte) : MbxRes × Keeper :=
  let k := s.keeper
  if obj < 0x31 ∨ 0x38 < obj then (⟨1, 0, []⟩, k)
  else if (obj ≠ 0x32 ∧ obj ≠ 0x33) ∨ (obj = 0x32 ∧ 2 ≤ s.secState) then (⟨3, 0, []⟩, k)
  else if len = 0 ∨ 4096 < len ∨ (if obj = 0x33 then 2 ^ 20 else 256) < off + len then (⟨2, 0, []⟩, k)
  else (⟨0, len, []⟩, { k with staged := (if k.stagedObj = obj then k.staged else []) ++ [(off, padTo len data)], stagedObj := obj })

/-- R334: what a test pack must satisfy. -/
def State.packOk (s : State) (b : List Byte) : Bool :=
  let body := leAt b 0x14 4
  leAt b 0 4 == 0x4B505453 && leAt b 4 1 == 1 && leAt b 6 1 == 1 && decide (leAt b 8 4 ≤ 2 ^ 20) && leAt b 8 4 == b.length &&
    sigOk (Config.romKey 1) (b.take body) b body &&
    decide (leAt b 0x38 4 ≤ s.fld F.KPR_STS_FW_MAJ 0 * 65536 + s.fld F.KPR_STS_FW_MIN 0) && decide (s.nvm.tpackSeq < leAt b 0xC 4)

/-- The length of the object that staged pieces spell: the end of the last one. -/
def stagedLen (l : List (Nat × List Byte)) : Nat := (l.map fun p => p.1 + p.2.length).foldl max 0

/-- R456: COMMIT installs the staged object: its CODE, and its effect on NVM and M3. -/
def State.mbxCommit (s : State) (obj : Nat) : Nat × Act :=
  let l := s.keeper.staged
  let clear := modKeeper fun k => { k with staged := [], stagedObj := 0 }
  let done := fun (act : Act) => if Config.nvmFails s.free ≤ s.nvm.spare then (0, seqA [clear, nvmWrite act]) else (6, seqA [clear, nvmWrite act])
  if obj < 0x31 ∨ 0x38 < obj then (1, skip)
  else if (obj ≠ 0x32 ∧ obj ≠ 0x33) ∨ (obj = 0x32 ∧ 2 ≤ s.secState) then (3, skip)
  else if s.keeper.stagedObj ≠ obj then (5, skip)
  else match assemble l (stagedLen l) with
    | none => (5, clear)
    | some b =>
      if obj = 0x32 then done (modNvm fun n => { n with hostNqn := b })
      else if s.packOk b then done (seqA [modKeeper fun k => { k with lastRun := [] }, modNvm fun n => { n with tpack := b, tpackSeq := leAt b 0xC 4 },
        extend 3 (Config.shake256 64 (b.take (leAt b 0x14 4)))])
      else (5, clear)

/-- Whether R482 lets the part leave P3: every sensor below RESUME, CUT and STOP clear. -/
def State.mayWake (s : State) : Bool :=
  let lim : Int := s.fld F.THM_CFG_RESUME 0 * 100
  !s.flag F.THM_STS_CUT 0 && !s.flag F.THM_STS_STOP 0 &&
    ((List.range 32).all fun d => (List.range 16).all fun j => decide (s.temp d j < lim)) &&
    ((List.range 12).all fun n => decide (s.temp (32 + n) 0 < lim)) && decide (s.temp 48 0 < lim) && decide (s.temp 48 1 < lim)

/-- R482: a wake is asked for in P3: it begins the transition to P0, or is refused with CODE 4. -/
def wake : Act := iteA (fun s => s.mayWake)
  (seqA [modPower fun p => { p with wake := true }, setF F.PWR_STATE_CODE 0 0, setF F.PWR_STATE_TARGET 0 0, setF F.PWR_STATE_BUSY 0 1])
  (setF F.PWR_STATE_CODE 0 4)

/-- One OP for a requester: its answer, and its effect. -/
def State.mbxOp (s : State) (r : Option Src) (op obj off len : Nat) (data : List Byte) : MbxRes × Act :=
  match op with
  | 1 => let x := s.mbxRead r obj off len; (x.1, modKeeper fun _ => x.2)
  | 2 => let x := s.mbxWrite obj off len data; (x.1, modKeeper fun _ => x.2)
  | 3 => let x := s.mbxCommit obj; (⟨x.1, 0, []⟩, x.2)
  | 4 => match s.object r obj with
    | some b => (⟨0, (b.length + 1023) / 1024, []⟩, skip)
    | none => (⟨1, 0, []⟩, skip)
  | 5 => if s.pstate ≠ 3 then (⟨0, 0, []⟩, skip) else if s.mayWake then (⟨0, 0, []⟩, wake) else (⟨8, 0, []⟩, wake)
  | _ => (⟨1, 0, []⟩, skip)

/-- The n bytes of KPR_MBX_BUF. -/
def State.mbxBuf (s : State) (n : Nat) : List Byte :=
  ((List.range ((n + 7) / 8)).flatMap fun i => leBytes 8 (s.reg .kpr 0 (0x1000 + 8 * i)).toNat).take n

/-- Bytes placed in KPR_MBX_BUF. -/
def putBuf (b : List Byte) : Act := forA (List.range ((b.length + 7) / 8)) fun i => fun s =>
  setReg .kpr 0 (0x1000 + 8 * i) (BitVec.ofNat 64 (leNat (((b.drop (8 * i)).take 8) ++
    (leBytes 8 (s.reg .kpr 0 (0x1000 + 8 * i)).toNat).drop ((b.drop (8 * i)).take 8).length))) s

/-- R456: a write of KPR_MBX_CMD. DESIGN CHOICE (log entry 54): an OP completes within its command, so BUSY is never seen. -/
def mbxCmd (src : Src) (v : Word) : Act :=
  goCmd src .kpr 0 0x200 F.KPR_MBX_STS_BUSY F.KPR_MBX_STS_LOST v fun s =>
    let len := s.fld F.KPR_MBX_ARG_LEN 0
    let x := s.mbxOp (some src) (s.fld F.KPR_MBX_CMD_OP 0) (s.fld F.KPR_MBX_CMD_OBJ 0) (s.fld F.KPR_MBX_ARG_OFFSET 0) len (s.mbxBuf len)
    seqA [x.2, putBuf x.1.data, setF F.KPR_MBX_STS_SEQ 0 (s.fld F.KPR_MBX_CMD_SEQ 0), setF F.KPR_MBX_STS_LEN 0 x.1.len,
      setF F.KPR_MBX_STS_CODE 0 x.1.code, raiseEvent s.mgmt 96 (s.fld F.KPR_MBX_CMD_SEQ 0)] s

/-- R456: KPR_MBX_CMD with OP READ. -/
def hostMbxRead (src : Src) (v : Word) : Act := mbxCmd src v
/-- MbxRead: the command of its row. -/
def execMbxRead (src : Src) (v : Word) (s : State) : Host.Outcome State Fault Refusal := runAct (hostMbxRead src v) s

/-- R456: KPR_MBX_CMD with OP WRITE. -/
def hostMbxWrite (src : Src) (v : Word) : Act := mbxCmd src v
/-- MbxWrite: the command of its row. -/
def execMbxWrite (src : Src) (v : Word) (s : State) : Host.Outcome State Fault Refusal := runAct (hostMbxWrite src v) s

/-- R456: KPR_MBX_CMD with OP COMMIT. -/
def hostMbxCommit (src : Src) (v : Word) : Act := mbxCmd src v
/-- MbxCommit: the command of its row. -/
def execMbxCommit (src : Src) (v : Word) (s : State) : Host.Outcome State Fault Refusal := runAct (hostMbxCommit src v) s

/-- R456: KPR_MBX_CMD with OP INFO. -/
def hostMbxInfo (src : Src) (v : Word) : Act := mbxCmd src v
/-- MbxInfo: the command of its row. -/
def execMbxInfo (src : Src) (v : Word) (s : State) : Host.Outcome State Fault Refusal := runAct (hostMbxInfo src v) s

/-- R456: KPR_MBX_CMD with OP WAKE. -/
def hostMbxWake (src : Src) (v : Word) : Act := mbxCmd src v
/-- MbxWake: the command of its row. -/
def execMbxWake (src : Src) (v : Word) (s : State) : Host.Outcome State Fault Refusal := runAct (hostMbxWake src v) s

/-! ## Board management (R458)

PRESUMED (log entry 55): the command codes and message layouts are those of MIPI I3C, DMTF DSP0236, DSP0240 and DSP0248; the
manual names the commands only. -/

/-- The Keeper answers on MCTP: firmware runs, or the ROM waits (R449). -/
def State.mctpUp (s : State) : Bool := s.power.vaux && (s.keeperUp || s.fld F.KPR_STS_STATE 0 == 2)

/-- R458: an MCTP control message. -/
def execMctpControl (cmd : BitVec 8) (data : List Byte) (s : State) : Host.Outcome State Fault Refusal :=
  let e := (data.getD 1 0).toNat
  runAct (whenA (fun s => s.mctpUp) fun s =>
    match cmd.toNat with
    | 1 => if e = 0 ∨ 8 ≤ e ∧ e ≠ 255 then
        seqA [setF F.KPR_I3C_EID 0 e, emit (.mctp 1 0 (leBytes 1 0 ++ leBytes 1 e ++ leBytes 1 0))] s
      else emit (.mctp 1 2 []) s
    | 2 => emit (.mctp 2 0 (leBytes 1 (s.fld F.KPR_I3C_EID 0) ++ leBytes 2 0)) s
    | 4 => seqA [draw, emit (.mctp 4 0 (leBytes 1 1 ++ (List.range 4).map (Config.freeByte s.free)))] s
    | 5 => emit (.mctp 5 0 (leBytes 1 1 ++ leBytes 1 1)) s
    | c => emit (.mctp c 5 []) s) s

/-- R458: an I3C common command code. While the processor is halted the target NAKs its dynamic address. -/
def execI3cCcc (ccc : BitVec 8) (data : List Byte) (s : State) : Host.Outcome State Fault Refusal :=
  let c := ccc.toNat
  let b := data.getD 0 0
  let w := leAt (data.reverse) 0 2
  let free := fun (n k : Nat) => (List.range k).map (Config.freeByte n)
  runAct (whenA (fun s => s.power.vaux) fun s =>
    let ok := fun (d : List Byte) => emit (.i3c true d)
    let k := fun (f : Keeper → Keeper) => seqA [modKeeper f, ok []]
    if 0x80 ≤ c ∧ c ≠ 0x87 ∧ (s.keeper.haltedByTap = true ∨ s.fld F.KPR_I3C_DYN 0 = 0) then emit (.i3c false []) s
    else if c = 0x00 ∨ c = 0x80 then k (fun x => { x with i3cEvents := x.i3cEvents || b.getLsbD 0 }) s
    else if c = 0x01 ∨ c = 0x81 then k (fun x => { x with i3cEvents := x.i3cEvents && !b.getLsbD 0 }) s
    else if c = 0x06 then seqA [setF F.KPR_I3C_DYN 0 0, ok []] s
    else if c = 0x07 then (if s.fld F.KPR_I3C_DYN 0 = 0 then seqA [draw, setF F.KPR_I3C_DYN 0 (b.toNat % 128), ok (free s.free 8)] s
      else emit (.i3c false []) s)
    else if c = 0x87 then seqA [setF F.KPR_I3C_DYN 0 (b.toNat / 2), ok []] s
    else if c = 0x09 ∨ c = 0x89 then k (fun x => { x with mwl := w }) s
    else if c = 0x0A ∨ c = 0x8A then k (fun x => { x with mrl := w }) s
    else if c = 0x8B then ok (leBytes 1 (s.keeper.mwl / 256) ++ leBytes 1 s.keeper.mwl) s
    else if c = 0x8C then ok (leBytes 1 (s.keeper.mrl / 256) ++ leBytes 1 s.keeper.mrl) s
    else if c = 0x8D then seqA [draw, ok (free s.free 6)] s
    else if c = 0x8E ∨ c = 0x8F then seqA [draw, ok (free s.free 1)] s
    else if c = 0x90 then seqA [draw, ok (free s.free 2)] s
    else emit (.i3c false []) s) s

/-- The PLDM commands a type supports, by code. -/
def pldmCmds : Nat → List Nat
  | 0 => [1, 2, 3, 4, 5]
  | 2 => [0x04, 0x0A, 0x0B, 0x11, 0x21, 0x50, 0x51]
  | 5 => [0x01, 0x02, 0x10, 0x13, 0x14, 0x15, 0x16, 0x17, 0x18, 0x1A, 0x1B, 0x1C, 0x1D]
  | 63 => [1, 2, 3, 4, 5]
  | _ => []

/-- A bit map of n bytes with the listed bits set. -/
def bitMap (n : Nat) (l : List Nat) : List Byte := leBytes n (l.map fun i => 2 ^ i).sum

/-- R458: a PLDM base command. -/
def execPldmBase (cmd : BitVec 8) (data : List Byte) (s : State) : Host.Outcome State Fault Refusal :=
  let b := (data.getD 0 0).toNat
  runAct (whenA (fun s => s.mctpUp) fun s =>
    match cmd.toNat with
    | 1 => if b = 0 ∨ b = 255 then emit (.pldm 0 1 2 []) s
      else seqA [modKeeper fun k => { k with tid := b }, emit (.pldm 0 1 0 [])] s
    | 2 => emit (.pldm 0 2 0 (leBytes 1 s.keeper.tid)) s
    | 3 => seqA [draw, emit (.pldm 0 3 0 ((List.range 13).map (Config.freeByte s.free)))] s
    | 4 => emit (.pldm 0 4 0 (bitMap 8 [0, 2, 5, 63])) s
    | 5 => emit (.pldm 0 5 0 (bitMap 32 (pldmCmds b))) s
    | c => emit (.pldm 0 c 5 []) s) s

/-- The value of a platform sensor: hottest of each die (1–32), each stack (33–44), the K-die's two (45, 46), 48 V voltage, current
and power (47–49, as measured when read: free), 3.3 V auxiliary (50), power state (51), security state (52). DESIGN CHOICE (log entry 56): the numbers. -/
def State.platSensor (s : State) (i : Nat) : Option (List Byte) :=
  if 1 ≤ i ∧ i ≤ 32 then some (leBytes 2 (tc 16 (s.hottest (i - 1)).1))
  else if 33 ≤ i ∧ i ≤ 44 then some (leBytes 2 (tc 16 (s.temp (i - 1) 0)))
  else if i = 45 ∨ i = 46 then some (leBytes 2 (tc 16 (s.temp 48 (i - 45))))
  else if 47 ≤ i ∧ i ≤ 49 then some ((List.range 2).map (Config.freeByte s.free))
  else if i = 50 then some (leBytes 4 (bitsOf (s.reg .mon 0 0x490) 23 0))
  else if i = 51 then some (leBytes 1 s.pstate)
  else if i = 52 then some (leBytes 1 s.secState)
  else none

/-- R458: a PLDM command for platform monitoring and control. PDR contents are free. -/
def execPldmPlatform (cmd : BitVec 8) (data : List Byte) (s : State) : Host.Outcome State Fault Refusal :=
  runAct (whenA (fun s => s.power.vaux && s.keeperUp) fun s =>
    match cmd.toNat with
    | 0x04 => seqA [modKeeper fun k => { k with evReceiver := (data.getD 2 0).toNat }, emit (.pldm 2 0x04 0 [])] s
    | 0x0B => match s.keeper.evPending with
      | [] => emit (.pldm 2 0x0B 0 (leBytes 3 0)) s
      | r :: l => seqA [modKeeper fun k => { k with evPending := l }, emit (.pldm 2 0x0B 0 (s.encLogFor none r))] s
    | 0x11 => match s.platSensor (leAt data 0 2) with
      | some v => seqA [draw, emit (.pldm 2 0x11 0 v)] s
      | none => emit (.pldm 2 0x11 0x80 []) s
    | 0x21 => match s.platSensor (leAt data 0 2) with
      | some v => seqA [draw, emit (.pldm 2 0x21 0 v)] s
      | none => emit (.pldm 2 0x21 0x80 []) s
    | 0x50 => seqA [draw, emit (.pldm 2 0x50 0 ((List.range 40).map (Config.freeByte s.free)))] s
    | 0x51 => seqA [draw, emit (.pldm 2 0x51 0 ((List.range 64).map (Config.freeByte s.free)))] s
    | c => emit (.pldm 2 c 5 []) s) s

/-- R458: PLDM type 63: a mailbox OP, with at most 1,024 data bytes. -/
def execPldmOem (op : BitVec 3) (obj : BitVec 16) (off : Word32) (len : BitVec 13) (data : List Byte) (s : State) :
    Host.Outcome State Fault Refusal :=
  runAct (whenA (fun s => s.power.vaux && s.keeperUp) fun s =>
    if 1024 < len.toNat then emit (.pldm 63 op.toNat 2 []) s
    else
      let x := s.mbxOp none op.toNat obj.toNat off.toNat len.toNat data
      seqA [x.2, emit (.pldm 63 op.toNat x.1.code (if op = 4 then leBytes 2 x.1.len else x.1.data))] s) s

end Sys2Proof.Machine
end

