-- ==== Sys2Proof/Machine/Monitor.lean ====
section
/-!
DEFINITION. The monitor converter (R459–R464).
-/
namespace Sys2Proof.Machine

/-- TABLE mode, or REGULAR + INJECTED. -/
def State.monTable (s : State) : Bool := s.fld F.MON_CFG_MODE 0 == 0

/-- Byte i of a list of channels. -/
def monByte (w : Word) (i : Nat) : Nat := bitsOf w (8 * i + 4) (8 * i)

/-- The channel at hand: of the injected run, of the regular list, or of the table entry. -/
def State.monCh (s : State) : Nat :=
  match s.mon.inj with
  | some i => monByte (s.reg .mon 0 0x310) i
  | none =>
    if s.monTable then F.MON_TBL_CH.of (s.reg .mon 0 (0x200 + 8 * s.mon.pos))
    else monByte (s.reg .mon 0 (0x300 + 8 * (s.mon.pos / 8))) (s.mon.pos % 8)

/-- Entries of the table (1–32), of the regular list (1–16) and of the injected list (0–4); values outside are taken as the nearest
(DEDUCED, log entry 57). -/
def State.monTbl (s : State) : Nat := max 1 (min 32 (s.fld F.MON_LEN_TBL 0))
def State.monReg (s : State) : Nat := max 1 (min 16 (s.fld F.MON_LEN_REG 0))
def State.monInj (s : State) : Nat := min 4 (s.fld F.MON_LEN_INJ 0)

/-- REP of a table entry. -/
def monRep (w : Word) : Nat := max 1 (min 16 (F.MON_TBL_REP.of w))

/-- MON_STS shows where the converter is. -/
def monShow : Act := fun s =>
  let m := s.mon
  seqA [setF F.MON_STS_CH 0 s.monCh, setB F.MON_STS_INJ 0 m.inj.isSome, setB F.MON_STS_PD 0 m.pd, setB F.MON_STS_START 0 (m.phase == 1),
    setF F.MON_STS_POSN 0 (m.inj.getD m.pos)] s

/-- The next conversion begins; a table entry with a reserved channel converts nothing and waits its DELAY. -/
def monBegin : Act := fun s =>
  let none_ := s.monTable && s.mon.inj.isNone && decide (24 ≤ s.monCh)
  let long := decide (10 ≤ F.MON_TBL_DELAY.of (s.reg .mon 0 (0x200 + 8 * s.mon.pos)))
  seqA [modMon fun m => { m with phase := if none_ then 3 else 2, pd := none_ && long }, monShow] s

/-- R460: a write of MON_CTL: EN starts or stops the converter; INJ_SW raises a trigger. -/
def monStart (v : Word) : Act := fun s =>
  let was := s.flag F.MON_CTL_EN 0
  let on := F.MON_CTL_EN.of v == 1
  seqA [setB F.MON_CTL_EN 0 on,
    if on && !was then seqA [modMon fun m => { Mon.zero with fifo := m.fifo, phase := 1 }, monShow]
    else if was && !on then seqA [modMon fun m => { Mon.zero with fifo := m.fifo }, monShow]
    else skip] s

/-- R462: an injected trigger acts in MODE 1 with a list to convert: it aborts the regular conversion, or waits as the one pending
trigger. -/
def monTrigger : Act := fun s =>
  let m := s.mon
  if s.monTable = true ∨ s.monInj = 0 ∨ m.phase = 0 then []
  else if m.inj.isSome = true ∨ m.phase = 1 then modMon (fun m => { m with pend := true }) s
  else seqA [bump F.MON_STS_ABORTS 0 1, modMon fun m => { m with inj := some 0 }, monBegin] s

/-- A write of MON_CTL, from a register write of any kind. -/
def monCtl (src : Src) (v : Word) : Act :=
  guardW src .mon 0 0x100 (seqA [monStart v, whenA (fun _ => F.MON_CTL_INJ_SW.of v == 1) monTrigger])

/-- R460: a write of MON_CTL.EN. -/
def hostMonEnable (src : Src) (v : Word) : Act := monCtl src v
/-- MonEnable: the command of its row. -/
def execMonEnable (src : Src) (v : Word) (s : State) : Host.Outcome State Fault Refusal := runAct (hostMonEnable src v) s

/-- R462: a write of MON_CTL.INJ_SW. -/
def hostInjSw (src : Src) (v : Word) : Act := monCtl src v
/-- InjSw: the command of its row. -/
def execInjSw (src : Src) (v : Word) (s : State) : Host.Outcome State Fault Refusal := runAct (hostInjSw src v) s

/-- R462: a trigger of a sensor near its limit (0), of the overcurrent comparator (1), or of software (2); the first two act when
enabled. -/
def monInject (cause : Nat) : Act :=
  whenA (fun s => if cause = 0 then s.flag F.MON_INJ_THERMAL 0 else if cause = 1 then s.flag F.MON_INJ_OVERCUR 0 else true) monTrigger

/-- R462: an injected trigger. -/
def execMonInjectedTrigger (cause : Fin 3) (s : State) : Host.Outcome State Fault Refusal := runAct (monInject cause.val) s

/-- R460: the start-up delay ends and conversion begins. -/
def execMonStartupDone (s : State) : Host.Outcome State Fault Refusal :=
  runAct (whenA (fun s => s.mon.phase == 1) (seqA [
    modMon fun m => if m.pend then { m with inj := some 0, pend := false } else m, monBegin])) s

/-- R460: the result of an input in nanovolts, and whether it was clamped. -/
def monResult (v : Int) : Int × Bool :=
  let r := roundDiv (v * 2 ^ 23) 1250000000
  (clampI r (-(2 ^ 23)) (2 ^ 23 - 1), decide (r < -(2 ^ 23)) || decide (2 ^ 23 - 1 < r))

/-- R463: comparator k looks at a result of channel ch. -/
def monCompare (ch : Nat) (r : Int) (k : Nat) : Act := fun s =>
  let w := s.reg .mon 0 (0x600 + 8 * k)
  let out := r < sext 24 (F.MON_LIM_LO.of w) ∨ sext 24 (F.MON_LIM_HI.of w) < r
  if F.MON_LIM_EN.of w = 1 ∧ F.MON_LIM_CH.of w = ch ∧ out ∧ nbit (s.fld F.MON_LIM_STS_HIT 0) k = false then
    seqA [setF F.MON_LIM_STS_HIT 0 (s.fld F.MON_LIM_STS_HIT 0 + 2 ^ k), logOpen none 11 noUnit 0x3F 0 0] s
  else []

/-- R463: a result updates MON_RES, is offered to the FIFO and to the comparators. -/
def monStore (ch : Nat) (v : Int) : Act := fun s =>
  let r := monResult v
  let n := (bitsOf (s.reg .mon 0 (0x400 + 8 * ch)) 55 32 + 1) % 2 ^ 24
  let x := tc 24 r.1
  let b := fun (c : Bool) (i : Nat) => if c then 2 ^ i else 0
  let word := BitVec.ofNat 64 (2 ^ 63 + b s.mon.inj.isSome 62 + b r.2 61 + ch * 2 ^ 48 + n * 2 ^ 24 + x)
  seqA [setReg .mon 0 (0x400 + 8 * ch) (BitVec.ofNat 64 (2 ^ 63 + b r.2 62 + n * 2 ^ 32 + x)),
    if s.mon.fifo.length < 64 then seqA [modMon fun m => { m with fifo := m.fifo ++ [word] }, setF F.MON_FIFO_STS_LEVEL 0 (s.mon.fifo.length + 1)]
    else bump F.MON_FIFO_STS_DROPPED 0 1,
    forA (List.range 8) (monCompare ch r.1)] s

/-- What follows a conversion (R461, R462). -/
def monNext : Act := fun s =>
  let m := s.mon
  match m.inj with
  | some i =>
    if i + 1 < s.monInj then seqA [modMon fun m => { m with inj := some (i + 1) }, monBegin] s
    else seqA [modMon fun m => { m with inj := if m.pend then some 0 else none, pend := false }, monBegin] s
  | none =>
    if s.monTable then
      let w := s.reg .mon 0 (0x200 + 8 * m.pos)
      if m.rep + 1 < monRep w then seqA [modMon fun m => { m with rep := m.rep + 1 }, monBegin] s
      else if F.MON_TBL_DELAY.of w = 0 then seqA [modMon fun m => { m with rep := 0, pos := (m.pos + 1) % s.monTbl }, monBegin] s
      else seqA [modMon fun m => { m with rep := 0, phase := 3, pd := decide (10 ≤ F.MON_TBL_DELAY.of w) }, monShow] s
    else seqA [modMon fun m => { m with pos := (m.pos + 1) % s.monReg }, monBegin] s

/-- R460, R463: the conversion in progress ends with the input at v nanovolts. A list position with a reserved channel gives no
result. -/
def execMonConversionDone (v : Int) (s : State) : Host.Outcome State Fault Refusal :=
  runAct (fun s => if s.mon.phase ≠ 2 then []
    else seqA [whenA (fun s => decide (s.monCh < 24)) (monStore s.monCh v), monNext] s) s

/-- R461: a table entry's delay ends; after a power-down the start-up delay follows. -/
def execMonDelayExpiry (s : State) : Host.Outcome State Fault Refusal :=
  runAct (fun s => if s.mon.phase ≠ 3 then []
    else seqA [modMon fun m => { m with rep := 0, pos := (m.pos + 1) % s.monTbl },
      if s.mon.pd then seqA [modMon fun m => { m with phase := 1, pd := false }, monShow] else monBegin] s) s

/-- A read of MON_FIFO removes the oldest result. -/
def monPop : Act := seqA [modMon fun m => { m with fifo := m.fifo.tail },
  withA (fun s => s.mon.fifo.length) (setF F.MON_FIFO_STS_LEVEL 0)]

/-- R467: a read of MON_FIFO returns and removes the oldest result; while the Keeper is down it returns zero and removes nothing
(R465). -/
def execMonFifoRead (_src : Src) (s : State) : Host.Outcome State Fault Refusal :=
  runAct (fun s => if s.keeperUp then seqA [emit (.monFifo ((s.mon.fifo.head?).getD 0)), monPop] s else emit (.monFifo 0) s) s

/-- R464: a write of the configuration registers and lists while EN is 1 is discarded and counted. -/
def monConfig (off : Nat) : Bool := off == 0x108 || off == 0x118 || off == 0x120 || (0x200 ≤ off && off < 0x318)

end Sys2Proof.Machine
end

