-- ==== Sys2Proof/Machine/Thermal.lean ====
section
/-!
DEFINITION. Temperature, power and power states (R469–R485, R543): sensors, the governor, overcurrent, the orderly stop and the
cut, and the transitions between P0, P2, P3 and P4.
-/
namespace Sys2Proof.Machine

/-! ## Sensors (R469–R473) -/

/-- The sensor exists (R469). -/
def snsExists (unit sns : Nat) : Bool :=
  if unit < 32 then sns < 16 else if unit < 44 then sns == 0 else unit == 48 && sns < 2

/-- The die whose throttle factor a sensor bears on. -/
def snsDie (unit : Nat) : Option Nat := if unit < 32 then some unit else if unit < 44 then some (dieOfStack (unit - 32)) else none

/-- DETAIL of a THERMAL record (R546): the sensor and its last reading. -/
def snsDetail (unit sns : Nat) (t : Int) : List Byte := leBytes 1 unit ++ leBytes 1 sns ++ leBytes 2 (tc 16 t)

/-- R471: whether a reading marks its sensor: outside −40 to 150 °C, or more than 25 °C from every other sensor of its die that has
been sampled. -/
def State.snsOdd (s : State) (unit sns : Nat) (t : Int) : Bool :=
  let l := ((sensorGroup unit).filter fun k => k != snsKey unit sns && (s.sensor k).seen).map fun k => (s.sensor k).t
  decide (t < -4000) || decide (15000 < t) || (!l.isEmpty && l.all fun x => decide (2500 < (t - x).natAbs))

/-- The level from which a sensor is in the near range (R470). -/
def State.nearLevel (s : State) : Int :=
  ((max 70 (min 95 (s.fld F.THM_CFG_THROT 0)) : Nat) : Int) * 100 - max 1 (s.fld F.THM_CFG_NEAR 0) * 100

/-- R471: a sensor is marked FAULTY, once, and logged. -/
def markFaulty (unit sns : Nat) : Act := fun s =>
  let x := s.sensor (snsKey unit sns)
  if x.faulty then []
  else seqA [modSensor (snsKey unit sns) fun x => { x with faulty := true }, logEv none 1 2 1 noUnit 0x3F 0 0 (snsDetail unit sns x.t)] s

/-- R470: sampling every 100 µs begins at the near level and ends 1 °C below it. -/
def nearRange (unit sns : Nat) : Act := fun s =>
  let k := snsKey unit sns
  let t := s.temp unit sns
  if s.nearLevel ≤ t ∧ (s.sensor k).fast = false then
    seqA [modSensor k fun x => { x with fast := true }, bump F.THM_CNT_NEAR 0 1, monInject 0] s
  else if t ≤ s.nearLevel - 100 then modSensor k (fun x => { x with fast := false }) s
  else []

/-- A sample joins those of its power-on hour; what is 24 hours old goes (R96). -/
def addSample (h : Nat) (t : Int) (l : List (Nat × Int × Nat)) : List (Nat × Int × Nat) :=
  let old := l.filter fun x => h < x.1 + 24
  match old.find? fun x => x.1 == h with
  | some x => old.filter (fun y => y.1 != h) ++ [(h, x.2.1 + t, x.2.2 + 1)]
  | none => old ++ [(h, t, 1)]

/-- R470, R471, R473: running firmware samples a sensor: the reading is kept, or a miss counted; marks, the near range and the
throttle factor follow. -/
def execSensorSample (unit : Fin 49) (sns : Fin 16) (reading : Option Int) (s : State) : Host.Outcome State Fault Refusal :=
  let u := unit.val
  let k := snsKey u sns.val
  runAct (fun s =>
    if s.keeperUp = false ∨ snsExists u sns.val = false then []
    else seqA [match reading with
      | none => seqA [modSensor k fun x => { x with miss := x.miss + 1 },
          whenA (fun s => decide (3 ≤ (s.sensor k).miss)) (markFaulty u sns.val)]
      | some t => seqA [modSensor k fun x => { x with t := t, miss := 0, seen := true },
          whenA (fun _ => decide (u < 32)) (modKeeper fun y => { y with
            tHours := SMap.set (fun _ => []) y.tHours u (addSample (s.nvm.pos / 3600) t (SMap.get (fun _ => []) y.tHours u)) }),
          whenA (fun s => s.snsOdd u sns.val t) (markFaulty u sns.val)],
      nearRange u sns.val, forOpt (snsDie u) setThrottle] s) s

/-! ## The governor (R474–R477) -/

/-- B: PWR_BUDGET.BUDGET as it acts. -/
def State.budget (s : State) : Nat := max 1 (min 14300 (s.fld F.PWR_BUDGET_BUDGET 0))

/-- The budget in force but for an overcurrent hold. -/
def State.budgetNoHold (s : State) : Nat :=
  let c := s.fld F.PWR_BUDGET_CAP 0
  let b := if c = 0 then s.budget else min s.budget c
  if s.flag F.PWR_P1_PIN 0 then min b (s.budget / 2) else b

/-- B′: halved in a hold, and on its way back for 100 ticks after it (R477). -/
def State.budgetNow (s : State) : Nat :=
  let v := s.budgetNoHold
  if s.flag F.PWR_P1_OC 0 then v / 2 else v - (v - v / 2) * min 100 s.power.ramp / 100

/-- B′ is set, with PWR_P1.HOST; the part is in P1 while B′ is below B, in P0 else (R476). -/
def setBudget : Act := fun s =>
  let b := s.budgetNow
  let c := s.fld F.PWR_BUDGET_CAP 0
  seqA [modPower fun p => { p with bPrime := b }, setB F.PWR_P1_HOST 0 (c != 0 && decide (c < s.budget)),
    whenA (fun s => decide (s.pstate ≤ 1)) (setB F.PWR_STATE_STATE 0 (decide (b < s.budget)))] s

/-- A_d. DEDUCED (log entry 58): rounded down. -/
def allot (b : Nat) (demand : List Nat) (d : Nat) : Nat :=
  let t := (demand.take 32).sum
  if t = 0 then b / 32 else b * (t + 96 * demand.getD d 0) / (128 * t)

/-- A die's allotment, effective allotment, and the charges of the last 10 µs in firing units per 25.6 ns. -/
def governDie (b : Nat) (demand : List Nat) (d : Nat) : Act := fun s =>
  let a := allot b demand d
  seqA [setF (F.PWR_DIE_ALLOT.nth d) 0 a, setF (F.PWR_DIE_EFF.nth d) 0 (a * s.fld (F.THM_DIE_FACTOR.nth d) 0 / 256),
    setF (F.PWR_DIE_USED.nth d) 0 ((s.die d).used * 256 / (100000 * 4200000)).toNat, modDie d fun x => { x with used := 0 }] s

/-- R474: the governor's tick. -/
def execGovernorTick (demand : List Nat) (s : State) : Host.Outcome State Fault Refusal :=
  runAct (fun s =>
    if s.power.rails = false then []
    else seqA [modPower fun p => { p with ramp := p.ramp - 1 }, setBudget, fun s => forA allDies (governDie s.power.bPrime demand) s,
      whenA (fun s => s.pstate == 1) (seqA [modPower fun p => { p with p1Ticks := p.p1Ticks + 1 },
        whenA (fun s => decide (100 ≤ s.power.p1Ticks)) (seqA [modPower fun p => { p with p1Ticks := 0 }, bump F.PWR_P1_TIME 0 1])])] s) s

/-- R477: the input current, in 0.1 A, exceeds the limit: credits are zeroed and B′ halved. -/
def execOvercurrentTrip (current : BitVec 16) (s : State) : Host.Outcome State Fault Refusal :=
  runAct (fun s =>
    if s.power.rails = false ∨ current.toNat ≤ s.fld F.PWR_OC_LIMIT 0 then []
    else seqA [forA allDies fun d => modDie d fun x => { x with credit := 0 }, setF F.PWR_P1_OC 0 1,
      modPower fun p => { p with ramp := 0, ocAt := s.mile }, setBudget, bump F.PWR_OC_TRIPS 0 1,
      logEv none 2 2 1 noUnit 0x3F 0 0 (leBytes 2 current.toNat), monInject 1] s) s

/-- R477: HOLD µs have passed since the last trip; B′ returns over 1 ms. -/
def execOvercurrentHoldEnd (s : State) : Host.Outcome State Fault Refusal :=
  runAct (whenA (fun s => s.flag F.PWR_P1_OC 0 && decide (1000 * s.fld F.PWR_OC_HOLD 0 ≤ (s.mile - s.power.ocAt).toNat))
    (seqA [setF F.PWR_P1_OC 0 0, modPower fun p => { p with ramp := 100 }, setBudget])) s

/-- R474: the PWRCAP_N land, as sampled. -/
def execPwrcapChange (low : Bool) (s : State) : Host.Outcome State Fault Refusal :=
  runAct (whenA (fun s => s.power.vaux) (seqA [setB F.PWR_P1_PIN 0 low, setBudget])) s

/-! ## Rails off (R481, R484) -/

/-- The compute, stack and serdes rails go off: the part is in P3, and what R481 calls lost is lost. BIL_FORBID's set, kept until a
cold reset, and what self-test found stay. -/
def railsOff (code : Nat) : Act :=
  seqA [forA allDies cutProg, eff fun _ => .lost false,
    forA allDies fun d => modDie d fun x => { Die.zero with forbid := x.forbid, unusable := x.unusable, tierFaulty := x.tierFaulty, badWays := x.badWays },
    forA allPorts fun n => portOff n 0 0,
    forA (List.range 12) fun n => seqA [setF F.BFP_LNK_STS_STATE n 0, setF F.BFP_LNK_STS_CAUSE n 0, setF F.BFP_LNK_STS_QUADS n 0],
    debugEnd,
    modPower fun p => { p with rails := false, gated := true, parked := false, ramp := 0, drainFor := 0, wake := false },
    setF F.PWR_STATE_STATE 0 3, setF F.PWR_STATE_TARGET 0 3, setF F.PWR_STATE_CODE 0 code, setF F.PWR_STATE_BUSY 0 0]

/-- A stop, cut or clock loss during bring-up leaves it HALTED until a wake. DEDUCED (log entry 59): STAGE 5. -/
def haltBringup : Act := whenA (fun s => s.fld F.KPR_BOOT_STAGE 0 == 2 || s.fld F.KPR_BOOT_STAGE 0 == 3) (setF F.KPR_BOOT_STAGE 0 5)

/-! ## The orderly stop and the cut (R478, R479) -/

/-- An array is PARKED; a RETIRED one stays so. -/
def parkTile (t : TileId) : Act := whenA (fun s => s.arrState t != 4) (setF F.TIL_ARR_STS_STATE (tileKey t) 5)

/-- The arrays of a die are parked; calibration and programming in progress are abandoned (R101, R354). An array whose MVM or pass runs
parks at its end (R120). -/
def parkDie (d : Nat) : Act :=
  seqA [cutProg d, forA (dieTiles (fin32 d)) fun t => whenA (fun s => !s.arrBusy t) (parkTile t),
    modDie d fun x => { x with calNow := [], progNow := [], progHeld := [], parked := true }]

/-- The dirty lines of a die are written back and stay in its cache. -/
def cleanDie (d : Nat) : Act := fun s =>
  forA (((s.die d).cache.flatMap fun e => e.2).filter CLine.dirty) (fun c =>
    seqA [writeBack d c.line, modDie d fun x => x.putSet (setKey c.line)
      ((x.set (setKey c.line)).map fun y => if y.line = c.line then { y with dirty := false } else y)]) s

/-- R409: ABORT with cause 4 goes out for a fabric job; its passages here are left to what sends it. -/
def abortOut (job : Nat) : Act := fun s =>
  if s.aborted.contains job then []
  else seqA [eff fun s => .aborted (s.aborted ++ [job]), forA (s.abortLinks job) fun n => emit (.abort n (abortMsg s job 4 0 s.coord))] s

/-- The fabric jobs of this part. -/
def State.fabricJobs (s : State) : List Nat := ((List.range 16).filter fun p => (s.slice p).set).map fun p => (s.slice p).job

/-- THM_STS.STOP and its count, once the stop is complete or a cut overtakes it. -/
def stopSeen : Act := seqA [setF F.THM_STS_STOP 0 1, bump F.THM_CNT_STOPS 0 1]

/-- R478 steps 1 and 2: a stop comparator trips: its die parks, STOP and ABORT go out, admission stops everywhere and dirty lines are
written back. A second trip parks its own die. -/
def execThermalStop (unit : Fin 49) (sns : Fin 16) (s : State) : Host.Outcome State Fault Refusal :=
  let u := unit.val
  runAct (fun s =>
    if s.power.rails = false ∨ snsExists u sns.val = false then []
    else seqA [forOpt (snsDie u) parkDie,
      whenA (fun s => s.power.drainFor != 2) (seqA [
        modPower fun p => { p with drainFor := 2, due := s.mile + 20000000 }, setF F.PWR_STATE_BUSY 0 1, setF F.PWR_STATE_TARGET 0 3,
        setF F.THM_STS_SRC_UNIT 0 u, setF F.THM_STS_SRC_SNS 0 sns.val,
        logEv none 1 4 2 noUnit 0x3F 0 0 (snsDetail u sns.val (s.sensor (snsKey u sns.val)).t),
        withA State.fabricJobs fun l => forA l abortOut, forA allDies cleanDie])] s) s

/-- Any passage has a step in flight. -/
def State.inFlight (s : State) : Bool := s.live.any fun i => (s.passage i).inflight

/-- R478 step 4: the drain ends, 20 ms from STOP or with no step left: passages not DONE are FAULTED with THERMAL_STOP, every array is PARKED and clocks are gated. -/
def execStopDrainEnd (s : State) : Host.Outcome State Fault Refusal :=
  runAct (fun s =>
    if s.power.drainFor ≠ 2 ∨ s.power.parked = true ∨ (s.inFlight = true ∧ s.mile < s.power.due) then []
    else seqA [forA s.live fun i => endPassage i 0x0B, forA allDies parkDie, forA allDies (fun d => forA (dieTiles (fin32 d)) parkTile),
      modPower fun p => { p with parked := true, gated := true }] s) s

/-- R478 step 5: with the Keeper running, the rails go off. -/
def execStopRailsOff (s : State) : Host.Outcome State Fault Refusal :=
  runAct (fun s =>
    if s.power.parked = false ∨ s.keeperUp = false then []
    else seqA [railsOff 0, stopSeen, haltBringup] s) s

/-- R479: a cut comparator trips: the rails are released at once and THERMTRIP_N is driven low. -/
def execHardwareCut (unit : Fin 49) (sns : Fin 16) (s : State) : Host.Outcome State Fault Refusal :=
  let u := unit.val
  runAct (fun s =>
    if s.power.vaux = false ∨ snsExists u sns.val = false then []
    else seqA [whenA (fun s => s.power.drainFor == 2) stopSeen, railsOff 0, haltBringup,
      modPower fun p => { p with thermtrip := true }, emit (.thermtrip true),
      setF F.THM_STS_CUT 0 1, bump F.THM_CNT_CUTS 0 1, setF F.THM_STS_SRC_UNIT 0 u, setF F.THM_STS_SRC_SNS 0 sns.val,
      logEv none 1 4 3 noUnit 0x3F 0 0 (snsDetail u sns.val (s.sensor (snsKey u sns.val)).t)] s) s

/-! ## Supplies and the reference (R480, R541, R543) -/

/-- R480: the 48 V input stays below 38 V; during bring-up the part returns to step 3 of R525 (R532). -/
def execUndervoltage (v : BitVec 16) (s : State) : Host.Outcome State Fault Refusal :=
  runAct (fun s =>
    if s.power.rails = false then []
    else
      let early := s.fld F.KPR_BOOT_STAGE 0 == 2 || s.fld F.KPR_BOOT_STAGE 0 == 3
      let w := s.power.wake
      seqA [railsOff 6, whenA (fun _ => early) (seqA [setF F.KPR_BOOT_STAGE 0 1, setF F.KPR_BOOT_CODE 0 5, modPower fun p => { p with wake := w }]),
        logEv none 2 3 2 noUnit 0x3F 0 0 (leBytes 2 v.toNat)] s) s

/-- R543: the reference clock is lost. -/
def execRefclkLoss (s : State) : Host.Outcome State Fault Refusal :=
  runAct (fun s =>
    if s.power.rails = false then []
    else seqA [railsOff 0, haltBringup, logEv none 2 3 3 noUnit 0x3F 0 0 (leBytes 1 s.pstate)] s) s

/-- R541: VAUX is removed: every rail is released, and the Keeper, the converter and the sensors lose what they hold. -/
def execVauxRemoval (s : State) : Host.Outcome State Fault Refusal :=
  runAct (fun s =>
    seqA [railsOff 0, whenA (fun s => s.power.thermtrip) (emit (.thermtrip false)),
      forA (SMap.keys s.sensors) fun k => modSensor k fun x => { Sensor.zero with faulty := x.faulty },
      modKeeper fun _ => Keeper.zero, modMon fun _ => Mon.zero, modSec fun x => { Sec.zero with nonceNo := x.nonceNo + 1 },
      modPower fun _ => { Power.zero with vaux := false }, setF F.KPR_STS_STATE 0 0, setF F.KPR_BOOT_STAGE 0 0,
      setF F.SEC_STS_BOOT_DONE 0 0] s) s

/-! ## Requests (R482, R483) -/

/-- PWR_STATE of a request that ends at once. -/
def powerDone (code : Nat) : Act := setF F.PWR_STATE_CODE 0 code

/-- R482: a write of PWR_CMD. A request for the state the part is in succeeds at once; one with a reserved REQ, or for a transition
R482 does not list, has no effect. -/
def powerCmd (src : Src) (v : Word) : Act := guardW src .pwr 0 0x108 fun s =>
  let req := F.PWR_CMD_REQ.of v
  let st := s.pstate
  if F.PWR_CMD_GO.of v = 0 then storeRW .pwr 0 0x108 v s
  else if s.flag F.PWR_STATE_BUSY 0 then setF F.PWR_STATE_CODE 0 1 s
  else if req ≠ 0 ∧ req ≠ 2 ∧ req ≠ 3 then storeRW .pwr 0 0x108 v s
  else seqA [storeRW .pwr 0 0x108 v, setF F.PWR_STATE_TARGET 0 req,
    if req = st ∨ (req = 0 ∧ st = 1) then powerDone 0
    else if req = 0 then
      (if st = 2 then seqA [modPower fun p => { p with gated := false }, setF F.PWR_STATE_STATE 0 0, setBudget, powerDone 0, resumeSteps] else skip)
    else if req = 2 then
      (if st ≤ 1 then seqA [modPower fun p => { p with drainFor := 1, due := s.mile + BitVec.ofNat 64 (1000000 * max 1 (F.PWR_CMD_DRAIN.of v)) }, setF F.PWR_STATE_BUSY 0 1] else skip)
    else if allDies.all fun d => s.fld F.BIL_IMG_STS_STATE d == 0 then railsOff 0
    else powerDone 3] s

/-- R482: PWR_CMD with REQ P0. -/
def hostPowerReqP0 (src : Src) (v : Word) : Act := powerCmd src v
/-- PowerReqP0: the command of its row. -/
def execPowerReqP0 (src : Src) (v : Word) (s : State) : Host.Outcome State Fault Refusal := runAct (hostPowerReqP0 src v) s

/-- R483: PWR_CMD with REQ P2. -/
def hostPowerReqP2 (src : Src) (v : Word) : Act := powerCmd src v
/-- PowerReqP2: the command of its row. -/
def execPowerReqP2 (src : Src) (v : Word) (s : State) : Host.Outcome State Fault Refusal := runAct (hostPowerReqP2 src v) s

/-- R482: PWR_CMD with REQ P3. -/
def hostPowerReqP3 (src : Src) (v : Word) : Act := powerCmd src v
/-- PowerReqP3: the command of its row. -/
def execPowerReqP3 (src : Src) (v : Word) (s : State) : Host.Outcome State Fault Refusal := runAct (hostPowerReqP3 src v) s

/-- R483: the drain of a P2 entry ends, with every step complete, or abandoned with CODE 2 once PWR_CMD.DRAIN ms (0 taken as 1) have passed. -/
def execP2DrainEnd (drained : Bool) (s : State) : Host.Outcome State Fault Refusal :=
  runAct (fun s =>
    if s.power.drainFor ≠ 1 then []
    else if drained = true ∧ s.inFlight = false then seqA [modPower fun p => { p with drainFor := 3 }, p2Settle] s
    else if s.mile < s.power.due then []
    else seqA [modPower fun p => { p with drainFor := 0 }, setF F.PWR_STATE_BUSY 0 0, powerDone 2, resumeSteps] s) s

/-- R482: WAKE_N has been low for 1 ms. -/
def execWakePin (s : State) : Host.Outcome State Fault Refusal :=
  runAct (whenA (fun s => s.pstate == 3 && s.power.vaux && !s.power.wake) wake) s

end Sys2Proof.Machine
end

