-- ==== Sys2Proof/Machine/Security.lean ====
section
/-!
DEFINITION. Security (R489–R507): the partition table, staging, decommissioning, attestation, debug tokens and the test access
port.
-/
namespace Sys2Proof.Machine

/-! ## The partition table (R493, R495) -/

/-- The 1,792 bytes of a table. -/
def Ptab.bytes (t : Ptab) : List Byte :=
  if t.raw.isEmpty then
    let b := leBytes 4 0x42415450 ++ [1, 0, 1, BitVec.ofNat 8 t.mgmt] ++ leBytes 4 t.seq ++ leBytes 4 0 ++
      (t.die ++ t.trais ++ t.link).map (BitVec.ofNat 8) ++
      t.range.flatMap (fun r => leBytes 8 (r.1 + r.2.1 * 2 ^ 20 + (if r.2.2 then 2 ^ 63 else 0))) ++ t.gran.map (BitVec.ofNat 8) ++ leBytes 60 0
    b ++ leBytes 4 (crc32c b)
  else t.raw

/-- A table from its bytes. -/
def decPtab (b : List Byte) : Ptab :=
  let col := fun (o n : Nat) => (slice b o n).map fun x => x.toNat % 64
  ⟨leAt b 7 1 % 64, leAt b 8 4, col 0x10 32, col 0x30 4, col 0x34 12,
    (List.range 16).map (fun p => let w := leAt b (0x40 + 8 * p) 8; (w % 2 ^ 20, w / 2 ^ 20 % 2 ^ 20, nbit w 63)), col 0xC0 1536, b⟩

/-- The CRC of a table holds. -/
def ptabCrc (b : List Byte) : Bool := b.length == 1792 && leAt b 0x6FC 4 == crc32c (b.take 0x6FC)

/-- A partition byte that holds no reserved value. -/
def partByte (p : Nat) : Bool := p < 16 || p == 0x3F

/-- R495: a table is valid. -/
def ptabOk (b : List Byte) : Bool :=
  let t := decPtab b
  let l := (t.range.zipIdx.filter fun r => r.1.2.2).map fun r => (r.1.1, r.1.2.1, r.2)
  ptabCrc b && leAt b 0 4 == 0x42415450 && leAt b 4 1 == 1 && leAt b 6 1 == 1 &&
    partByte t.mgmt && (t.die ++ t.trais ++ t.link ++ t.gran).all partByte && t.trais.contains t.mgmt && t.mgmt != 0x3F &&
    ((List.range 16).all fun p => t.die.contains p == l.any fun r => r.2.2 == p) && (l.all fun r => r.1 ≤ r.2.1) &&
    l.all fun r => l.all fun q => r.2.2 == q.2.2 || r.2.1 < q.1 || q.2.1 < r.1

/-! ## Staging (R497, R498) -/

/-- A staging record in memory: its header and body, the signature block after it, and its length in all. -/
structure StageRec where
  kind : Nat
  hdr : List Byte
  body : List Byte
  sig : List Byte
  len : Nat
  deriving DecidableEq, Repr

/-- The record at an address, signed or not. -/
def State.stageRec (s : State) (a : Nat) (signed : Bool) : StageRec :=
  let h := s.bytes a 16
  let n := leAt h 8 4
  let o := (16 + n + 7) / 8 * 8
  let k := if signed then 2 + s.num (a + o) 2 else 0
  ⟨leAt h 4 1, h, s.bytes (a + 16) n, s.bytes (a + o) k, if signed then o + k else 16 + n⟩

/-- The image of every die is EMPTY. -/
def State.imagesEmpty (s : State) : Bool := allDies.all fun d => s.fld F.BIL_IMG_STS_STATE d == 0

/-- Kinds allowed in a security state (R497, R505). -/
def stageAllowed (kind st : Nat) : Bool :=
  match kind with
  | 1 | 2 => st ≤ 2
  | 3 => st == 1
  | 4 => st == 2
  | 5 => st == 0
  | _ => false

/-- The N entries of a CFG body. -/
def cfgEntries (b : List Byte) : List (Nat × Word) :=
  (List.range (leAt b 4 4)).map fun i => (leAt b (8 + 16 * i) 8 % 2 ^ 48, BitVec.ofNat 64 (leAt b (16 + 16 * i) 8))

/-- The body of a record is whole: the CRC of a table or list, the length of the others. -/
def bodyOk (r : StageRec) : Bool :=
  let b := r.body
  match r.kind with
  | 1 => ptabCrc b
  | 2 => let n := leAt b 4 4; 1 ≤ n && n ≤ 1024 && b.length == 12 + 16 * n && leAt b (8 + 16 * n) 4 == crc32c (b.take (8 + 16 * n))
  | 3 => b.length == 1793
  | 4 => b.length == 32
  | _ => b.length ≤ 1280

/-- SEQ is above that of the table in force, or of the staged list. -/
def State.seqOk (s : State) (r : StageRec) : Bool :=
  match r.kind with
  | 1 => s.nvm.ptab.seq < leAt r.body 8 4
  | 2 => s.nvm.cfgStaged.all fun c => c.1 < leAt r.body 0 4
  | _ => true

/-- The current debug nonce (R500). -/
def State.dbgNonce (s : State) : List Byte := padTo 32 (Config.nonce s.sec.nonceNo)

/-- The signature of a record holds, where one is asked for. DEDUCED (log entry 60): a NONCE that is not the part's fails here. -/
def State.stageSigned (s : State) (r : StageRec) (signed : Bool) : Bool :=
  if r.kind = 5 then Config.falconVerify (Config.romKey 3) (Config.shake256 64 (s.sec.partId ++ Config.identityPublicKey)) r.body
  else (!signed || sigOk s.nvm.ownerKey (r.hdr ++ r.body ++ s.sec.partId) r.sig 0) && (r.kind != 4 || r.body == s.dbgNonce)

/-- The checks of R497, in order: the code of the first that fails, 0 for none. -/
def State.stageCheck (s : State) (p a kind : Nat) (r : StageRec) (signed : Bool) : Nat :=
  if s.owns p a 16 = false ∨ s.owns p a r.len = false then 2
  else if leAt r.hdr 0 4 ≠ 0x45475453 ∨ r.kind ≠ kind ∨ leAt r.hdr 5 1 ≠ 1 ∨ stageAllowed kind s.secState = false then 3
  else if bodyOk r = false then 4
  else if s.seqOk r = false then 5
  else if s.stageSigned r signed = false then 6
  else if kind = 1 ∧ ptabOk r.body = false then 7
  else if kind = 4 ∧ s.imagesEmpty = false then 9
  else 0

/-- R498: every usable array is programmed to level 0 in all its pairs, which counts as a rewrite (R99); its retention tag goes. -/
def wipeTile (t : TileId) : Act := seqA [modCell t fun _ => Cells.erased, countRewrite t]

/-- R498: DECOMMISSION. -/
def decommission : Act := fun s =>
  let ts := allDies.flatMap fun d => (dieTiles (fin32 d)).filter s.usable
  seqA [forA ts wipeTile,
    modNvm fun n => { n with
      tsum := (SMap.keys n.tsum).foldl (fun m k => SMap.set (fun _ => TileSum.zero) m k
        { SMap.get (fun _ => TileSum.zero) n.tsum k with tagStage := 0, tagEpoch := 0, tagArr := 0, valid := false }) n.tsum
      retain := [], cfgStaged := none, ownerKey := [], ptabStaged := some Ptab.default.bytes, secState := 1 },
    setF F.SEC_STS_STATE 0 1, setF F.SEC_STS_OWNER 0 0, debugEnd] s

/-- The effect of an accepted record (R497). -/
def stageEffect (r : StageRec) : Act :=
  match r.kind with
  | 1 => modNvm fun n => { n with ptabStaged := some r.body }
  | 2 => modNvm fun n => { n with cfgStaged := some (leAt r.body 0 4, cfgEntries r.body) }
  | 3 => seqA [modNvm fun n => { n with ownerKey := r.body, secState := 2 }, setF F.SEC_STS_STATE 0 2, setF F.SEC_STS_OWNER 0 1, debugEnd]
  | 4 => decommission
  | _ => modNvm fun n => { n with cert := r.body, secState := 1 }

/-- R497: a write of SEC_STAGE_CMD. The Keeper's own writes carry no partition and stage nothing outside the management
partition's regions. -/
def stageCmd (src : Src) (v : Word) : Act := guardW src .sec 0 0x1B0 fun s =>
  let kind := F.SEC_STAGE_CMD_KIND.of v
  let p := (s.srcPart src).getD s.mgmt
  let a := s.fld F.SEC_STAGE_ADDR_ADDR 0 * 64
  let signed := kind == 4 || (kind ≤ 2 && s.secState == 2)
  let r := s.stageRec a signed
  if F.SEC_STAGE_CMD_GO.of v = 0 then []
  else ownedRead p a r.len (fun s =>
    let c := s.stageCheck p a kind r signed
    if c ≠ 0 then setF F.SEC_STAGE_STS_CODE 0 c s
    else seqA [nvmWrite (stageEffect r), setF F.SEC_STAGE_STS_CODE 0 (if Config.nvmFails s.free ≤ s.nvm.spare then 0 else 10)] s) s

/-- R497: KIND 1. -/
def hostStagePtab (src : Src) (v : Word) : Act := stageCmd src v
/-- StagePtab: the command of its row. -/
def execStagePtab (src : Src) (v : Word) (s : State) : Host.Outcome State Fault Refusal := runAct (hostStagePtab src v) s

/-- R497: KIND 2. -/
def hostStageCfg (src : Src) (v : Word) : Act := stageCmd src v
/-- StageCfg: the command of its row. -/
def execStageCfg (src : Src) (v : Word) (s : State) : Host.Outcome State Fault Refusal := runAct (hostStageCfg src v) s

/-- R497: KIND 3. -/
def hostStageDeploy (src : Src) (v : Word) : Act := stageCmd src v
/-- StageDeploy: the command of its row. -/
def execStageDeploy (src : Src) (v : Word) (s : State) : Host.Outcome State Fault Refusal := runAct (hostStageDeploy src v) s

/-- R497, R498: KIND 4. -/
def hostStageDecommission (src : Src) (v : Word) : Act := stageCmd src v
/-- StageDecommission: the command of its row. -/
def execStageDecommission (src : Src) (v : Word) (s : State) : Host.Outcome State Fault Refusal :=
  runAct (hostStageDecommission src v) s

/-- R497: KIND 5. -/
def hostStageProvision (src : Src) (v : Word) : Act := stageCmd src v
/-- StageProvision: the command of its row. -/
def execStageProvision (src : Src) (v : Word) (s : State) : Host.Outcome State Fault Refusal :=
  runAct (hostStageProvision src v) s

/-! ## Attestation (R499) -/

/-- The first 0xE10 bytes of the report for partition p over a nonce. -/
def State.reportHead (s : State) (p : Nat) (nonce : List Byte) : List Byte :=
  let d := (s.partDies p).headD 0
  let own := !(s.partDies p).isEmpty
  leBytes 4 0x52545441 ++ [1, 0, 1, 1] ++ leBytes 1 (s.secState + s.nvm.secState * 16) ++
    leBytes 1 (s.debug + s.fld F.SEC_STS_SCOPE 0 * 4) ++ leBytes 1 p ++ [0] ++ leBytes 4 4896 ++ leBytes 8 s.mile.toNat ++
    padTo 32 s.sec.partId ++ leBytes 4 (s.fld F.KPR_STS_FW_MAJ 0 * 65536 + s.fld F.KPR_STS_FW_MIN 0) ++ leBytes 4 s.nvm.arb ++ nonce ++
    s.sec.m.flatMap (padTo 32) ++ leBytes 4 s.nvm.ptab.seq ++ leBytes 4 0 ++ padTo 32 (Config.shake256 32 s.nvm.ptab.bytes) ++
    (if own then (List.range 4).flatMap fun k => leBytes 8 (s.reg .bil d (0x120 + 8 * k)).toNat else leBytes 32 0) ++
    leBytes 4 (s.job p).hdrCrc ++ leBytes 2 (s.fld F.LDR_SWAP_STS_ADM_EPOCH p) ++
    leBytes 1 (if own then s.fld F.BIL_IMG_STS_STATE d else 0) ++ [0] ++
    (if s.nvm.ownerKey.isEmpty then leBytes 32 0 else padTo 32 (Config.shake256 32 s.nvm.ownerKey)) ++ leBytes 4 s.nvm.pos ++ leBytes 172 0 ++
    padTo 1793 Config.identityPublicKey ++ leBytes 7 0 ++ leBytes 2 s.nvm.cert.length ++ padTo 1280 s.nvm.cert ++ leBytes 6 0

/-- The whole report: with its signature. -/
def State.attReport (s : State) (p : Nat) (nonce : List Byte) : List Byte :=
  let h := s.reportHead p nonce
  let g := (Config.identitySign (Config.shake256 64 h)).take 1280
  padTo 4896 (h ++ leBytes 2 g.length ++ g)

/-- R499: a write of SEC_ATT_CMD: the report is written over the area. DEDUCED (log entry 61): an identity is enrolled where the
read-out succeeds, and no report is given in RECOVERY (R505). -/
def hostAttest (src : Src) (v : Word) : Act := guardW src .sec 0 0x198 fun s =>
  let a := s.fld F.SEC_ATT_ADDR_ADDR 0 * 64
  let p := (s.srcPart src).getD 0x3F
  let code := fun c => setF F.SEC_ATT_STS_CODE 0 c
  if F.SEC_ATT_CMD_GO.of v = 0 then []
  else if p = 0x3F ∨ s.owns p a 4896 = false then code 2 s
  else if s.flag F.SEC_STS_ID_FAIL 0 = true ∨ s.secState = 3 then code 3 s
  else unitWrite a 4896 (fun s => seqA [storeBytes true a (s.attReport p (s.bytes (a + 0x40) 32)), code 0] s) s

/-- Attest: the command of its row. -/
def execAttest (src : Src) (v : Word) (s : State) : Host.Outcome State Fault Refusal := runAct (hostAttest src v) s

/-! ## Debug (R500–R503) -/

/-- SEC_DBG_NONCE takes a fresh value. -/
def newNonce : Act := modSec fun x => { x with nonceNo := x.nonceNo + 1 }

/-- R501: the checks of PRESENT by partition p on the token at a, in order. -/
def State.tokenCheck (s : State) (p a : Nat) : Nat :=
  let b := s.bytes a 0x80
  let sc := leAt b 6 1
  let life := leAt b 8 4
  let key := leAt b 0x0C 1
  let n := s.num (a + 0x80) 2
  if p = 0x3F ∨ s.owns p a 0x82 = false ∨ s.owns p a (0x82 + n) = false then 2
  else if s.secState = 3 ∨ s.flag F.SEC_STS_ID_FAIL 0 = true then 3
  else if leAt b 0 4 ≠ 0x4B4F5444 ∨ leAt b 4 1 ≠ 1 ∨ sc < 1 ∨ 3 < sc ∨ life < 1 ∨ 86400 < life ∨
      (sc = 3 ∧ s.nvm.ptab.die.contains (leAt b 7 1 % 64) = false) ∨ (sc = 3 ∧ leAt b 7 1 % 64 = 0x3F) then 4
  else if Machine.slice b 0x10 32 ≠ padTo 32 s.sec.partId ∨ Machine.slice b 0x30 32 ≠ s.dbgNonce then 5
  else if key ≠ (if s.secState = 2 then 1 else 0) ∨
      sigOk (if s.secState = 2 then s.nvm.ownerKey else Config.romKey 2) b (s.bytes (a + 0x80) (2 + n)) 0 = false then 6
  else if s.debug = 1 then 7
  else 0

/-- R500, R501: PRESENT through port n. -/
def presentToken (n : Nat) : Act := fun s =>
  let p := s.portPart n
  let a := s.fld F.SEC_DBG_ADDR_ADDR 0 * 64
  ownedRead p a (0x82 + s.num (a + 0x80) 2) (fun s =>
    let c := s.tokenCheck p a
    let life := s.num (a + 8) 4
    seqA [setF F.SEC_DBG_STS_CODE 0 c, newNonce,
      whenA (fun _ => c == 0) (seqA [setF F.SEC_STS_DEBUG 0 1, setF F.SEC_STS_SCOPE 0 (s.num (a + 6) 1), setF F.SEC_STS_DBG_PORT 0 n,
        setF F.SEC_STS_DBG_PART 0 (if s.num (a + 6) 1 = 3 then s.num (a + 7) 1 % 64 else 0), setF F.SEC_DBG_STS_LEFT 0 life,
        modSec fun x => { x with tokenEnds := s.nvm.pos + life }])] s) s

/-- R500, R503: a write of SEC_DBG_CMD: 1 PRESENT, 2 REVOKE, 3 NEW_NONCE, 4 OPEN. -/
def dbgCmd (src : Src) (v : Word) : Act := guardW src .sec 0 0x180 fun s =>
  if F.SEC_DBG_CMD_GO.of v = 0 then []
  else match F.SEC_DBG_CMD_OP.of v with
  | 1 => match src with
    | .port n => presentToken n.val s
    | .keeper => seqA [setF F.SEC_DBG_STS_CODE 0 2, newNonce] s
  | 2 => seqA [debugEnd, setF F.SEC_DBG_STS_CODE 0 0] s
  | 3 => seqA [newNonce, setF F.SEC_DBG_STS_CODE 0 0] s
  | 4 => if s.srcPart src = some s.mgmt ∧ s.secState = 0 then
      seqA [debugEnd, setF F.SEC_STS_DEBUG 0 2, setF F.SEC_DBG_STS_CODE 0 0] s
    else setF F.SEC_DBG_STS_CODE 0 3 s
  | _ => []

/-- R500: OP PRESENT. -/
def hostPresent (src : Src) (v : Word) : Act := dbgCmd src v
/-- Present: the command of its row. -/
def execPresent (src : Src) (v : Word) (s : State) : Host.Outcome State Fault Refusal := runAct (hostPresent src v) s

/-- R503: OP REVOKE. -/
def hostRevoke (src : Src) (v : Word) : Act := dbgCmd src v
/-- Revoke: the command of its row. -/
def execRevoke (src : Src) (v : Word) (s : State) : Host.Outcome State Fault Refusal := runAct (hostRevoke src v) s

/-- R508: OP NEW_NONCE. -/
def hostNewNonce (src : Src) (v : Word) : Act := dbgCmd src v
/-- NewNonce: the command of its row. -/
def execNewNonce (src : Src) (v : Word) (s : State) : Host.Outcome State Fault Refusal := runAct (hostNewNonce src v) s

/-- R503: OP OPEN. -/
def hostDebugOpen (src : Src) (v : Word) : Act := dbgCmd src v
/-- DebugOpen: the command of its row. -/
def execDebugOpen (src : Src) (v : Word) (s : State) : Host.Outcome State Fault Refusal := runAct (hostDebugOpen src v) s

/-- R503: VALID_S seconds have passed. -/
def execTokenExpiry (s : State) : Host.Outcome State Fault Refusal :=
  runAct (whenA (fun s => s.debug == 1 && decide (s.sec.tokenEnds ≤ s.nvm.pos)) debugEnd) s

/-! ## The test access port (R504, R506) -/

/-- A TAP instruction is available: 0 BYPASS and 1 IDCODE always; 2–5 the boundary tests; 6, 7 halt and step; 8 private. -/
def State.tapOk (s : State) (k : Nat) : Bool :=
  let regScope := s.debug == 2 || (s.debug == 1 && s.fld F.SEC_STS_SCOPE 0 == 2)
  if k ≤ 1 then true
  else if k ≤ 5 then s.pstate ≤ 2 && s.imagesEmpty && (s.secState ≤ 1 || (s.secState == 2 && regScope))
  else if k ≤ 7 then regScope
  else s.debug == 2

/-- R504: an instruction of the test access port: a boundary test that drives the lands stops admission while it is in force; halt
stops the Keeper's processor. -/
def execTapInstruction (k : Fin 9) (s : State) : Host.Outcome State Fault Refusal :=
  runAct (fun s =>
    if s.power.vaux = false then []
    else
      let ok := s.tapOk k.val
      seqA [modSec fun x => { x with tap := if ok ∧ 3 ≤ k.val ∧ k.val ≤ 5 then k.val else 0 },
        whenA (fun _ => ok && k.val == 6) (modKeeper fun x => { x with haltedByTap := true }), emit (.tap k.val ok)] s) s

end Sys2Proof.Machine
end

