-- ==== Sys2Proof/Machine/Reset.lean ====
section
/-!
DEFINITION. Reset and bring-up (R522–R532, R547): cold, warm and partition reset, the ROM's boot, and the sequence of R525.
-/
namespace Sys2Proof.Machine

/-! ## Registers across a reset (R547) -/

/-- The blocks a warm reset covers. -/
def Blk.warm : Blk → Bool
  | .kpr | .mon | .thm | .pwr | .sec | .upd | .msc => false
  | _ => true

/-- The register under a key: block, instance, offset. -/
def keyReg (k : Nat) : Option (Blk × Nat × Nat) := (Blk.ofCode (k / 68719476736)).map fun b => (b, k / 65536 % 1048576, k % 65536)

/-- A register after a warm reset: RS and BW fields keep their values, and so does what is counted since the last cold reset (TIL_ARR_MVM,
R102); the others take their resets. -/
def warmValue (b : Blk) (off : Nat) (v : Word) : Word :=
  if b = .til ∧ off = 0x110 then v else (rowOf b off).elim 0 fun r => (v &&& keepMask r) ||| (r.reset &&& ~~~(keepMask r))

/-- The tile of a key. -/
def keyTile (k : Nat) : Option TileId := tileAt (k / 8448) (k % 8448 % 128) (k % 8448 / 128)

/-- What NVM says of a tile shows in its registers: WINC, and RETIRED. -/
def tileShow (k : Nat) : Act := fun s =>
  match keyTile k with
  | none => []
  | some t => seqA [setB F.TIL_ARR_STS_WINC k (s.tsum t).winc, whenA (fun s => (s.tsum t).retired) (setF F.TIL_ARR_STS_STATE k 4)] s

/-- The dies whose image was being loaded or checked. -/
def State.loadingDies (s : State) : List Nat :=
  allDies.filter fun d => s.flag F.BIL_IMG_STS_BUSY d && s.fld F.BIL_IMG_STS_STATE d != 5

/-- What shows after a reset of the registers: tiles as NVM has them, the forbid sets' sizes, and CODE 1 where a load was abandoned
(R170). -/
def resetShow (loading : List Nat) : Act :=
  seqA [withA (fun s => SMap.keys s.nvm.tsum) fun l => forA l tileShow,
    forA allDies fun d => whenA (fun s => !(s.die d).forbid.isEmpty) (fun s => setF F.BIL_FORBID_CNT_COUNT d (s.die d).forbid.length s),
    forA loading fun d => setF F.BIL_IMG_STS_CODE d 1]

/-- Every register of the blocks a warm reset covers. -/
def warmRegs : Act := fun s =>
  let l := s.loadingDies
  seqA [withA (fun s => SMap.keys s.regs) fun ks => forA ks fun k => forOpt (keyReg k) fun x =>
      if x.1.warm then (fun s => setReg x.1 x.2.1 x.2.2 (warmValue x.1 x.2.2 (s.reg x.1 x.2.1 x.2.2)) s) else skip,
    resetShow l] s

/-- Every register of every block. -/
def coldRegs : Act := fun s =>
  let l := s.loadingDies
  seqA [withA (fun s => SMap.keys s.regs) fun ks => forA ks fun k => forOpt (keyReg k) fun x =>
      setReg x.1 x.2.1 x.2.2 (regReset x.1 x.2.2),
    resetShow l] s

/-! ## The ROM and firmware (R492, R497, R516, R517) -/

/-- A CFG entry is written where it names a BW field; else it is skipped and logged. -/
def cfgApply (e : Nat × Word) : Act := fun s =>
  let bad := logOpen none 8 noUnit 0x3F 0 0
  match target e.1 with
  | .reg b i off => match rowOf b off with
    | some r => if r.flds.any (fun f => match f.acc with
          | .bw => true
          | _ => false) then setReg b i off (writeBoot r (s.reg b i off) e.2) s else bad s
    | none => bad s
  | _ => bad s

/-- The bytes of a CFG list, as M2 measures them. -/
def cfgBytes (c : Option (Nat × List (Nat × Word))) : List Byte :=
  c.elim [] fun c => leBytes 4 c.1 ++ leBytes 4 c.2.length ++ c.2.flatMap fun e => leBytes 8 e.1 ++ leBytes 8 e.2.toNat

/-- Firmware applies a staged table that is valid, and discards one that is not (R497, R507). -/
def applyPtab : Act := fun s =>
  match s.nvm.ptabStaged with
  | none => []
  | some b =>
    seqA [modNvm fun n => { n with ptabStaged := none },
      if ptabOk b then seqA [modNvm fun n => { n with ptab := decPtab b }, setF F.SEC_STAGE_STS_BOOT_CODE 0 0]
      else seqA [setF F.SEC_STAGE_STS_BOOT_CODE 0 7, logOpen none 8 noUnit 0x3F 0 0]] s

/-- Firmware writes the BW registers: those NVM holds, then the CFG list; the others stand at their resets. A link whose quads break the rules shows
CAUSE MAP (R358). -/
def bootBw : Act := fun s =>
  let n := s.nvm
  seqA [setF F.BFP_COORD_COORD 0 n.coord, setF F.BFP_QMAP0_Q 0 n.qmap0.toNat, setF F.BFP_QMAP1_Q 0 n.qmap1.toNat,
    forA n.ethMode.zipIdx fun x => setF F.ETH_MODE_M800 (4 * x.2) x.1, forA n.mac.zipIdx fun x => setF F.ETH_MAC_MAC x.2 x.1,
    forOpt n.cfgStaged fun c => forA c.2 cfgApply,
    forA (List.range 12) fun n => whenA (fun s => !(s.mapQuads n).isEmpty && (s.linkQuads n).isEmpty) (setF F.BFP_LNK_STS_CAUSE n 5),
    whenA (fun s => s.flag F.MSC_CFG_ROOT 0) (setF F.MSC_STS_LOCK 0 1)] s

/-- R530: the scan of tile summaries: a write-incomplete tile's tag is no longer VALID; VALID tags are counted. -/
def retainScan : Act := seqA [
  modNvm fun n => { n with tsum := (SMap.keys n.tsum).foldl (fun m k =>
    let x := SMap.get (fun _ => TileSum.zero) m k
    SMap.set (fun _ => TileSum.zero) m k { x with valid := x.valid && !x.winc }) n.tsum },
  withA (fun s => s.nvm.tsum.countP fun x => x.2.valid) (setF F.KPR_BOOT_CNT_RETAINED 0)]

/-- R492 steps 4–6: the slot runs: measured, staged records applied, BW registers written, BOOT_DONE. -/
def bootSlot (k : Nat) : Act :=
  seqA [setF F.KPR_STS_SLOT 0 k, firmwareRuns, slotsJudged, applyPtab, bootBw, fun s =>
      seqA [extend 2 (Config.shake256 64 s.nvm.ptab.bytes), extend 2 (Config.shake256 64 (cfgBytes s.nvm.cfgStaged)),
        extend 2 (Config.shake256 64 s.nvm.ownerKey), setF F.SEC_STS_STATE 0 s.nvm.secState,
        setB F.SEC_STS_OWNER 0 (!s.nvm.ownerKey.isEmpty), setF F.SEC_STS_STORED 0 s.nvm.secState] s,
    retainScan, setF F.SEC_STS_BOOT_DONE 0 1, setF F.KPR_BOOT_STAGE 0 1, noiseRefresh,
    whenA (fun s => s.nvm.monEn) (seqA [setF F.MON_CTL_EN 0 1, modMon fun m => { m with phase := 1 }, monShow]),
    whenA (fun s => s.nvm.upd.st == 3) (seqA [updState 4, modNvm fun n => { n with upd := { n.upd with since := n.pos } },
      logOpen none 9 noUnit 0x3F 0 0])]

/-- The ROM waits: for a transfer over PLDM (R449, R517). -/
def romWaits (recovery : Bool) : Act := fun s =>
  seqA [setF F.KPR_STS_STATE 0 2, slotsJudged, setF F.SEC_STS_STORED 0 s.nvm.secState, setB F.SEC_STS_OWNER 0 (!s.nvm.ownerKey.isEmpty),
    setF F.SEC_STS_STATE 0 (if recovery then 3 else s.nvm.secState)] s

/-- R516, R517: the ROM's choice: RECOVERY, the next slot, the other as fallback where it is offered, or ROM_WAIT. -/
def romBoot : Act := fun s =>
  let k := s.nvm.next
  let offered := s.nvm.upd.st != 1 && s.nvm.upd.st != 2
  if s.power.recovLow = true ∨ s.nvm.recover = true ∨ (s.slotPasses 0 = false ∧ s.slotPasses 1 = false) then
    seqA [modNvm fun n => { n with recover := false }, setF F.KPR_STS_SLOT 0 k, romWaits true] s
  else if s.slotPasses k then bootSlot k s
  else if offered then seqA [setF F.UPD_BOOT_FALLBACK 0 1, bootSlot (1 - k)] s
  else seqA [setF F.KPR_STS_SLOT 0 k, romWaits false] s

/-! ## Cold reset (R522, R525 steps 1 and 2) -/

/-- Everything but cells and NVM is reset, and the ROM boots. The part is in P3. -/
def coldBoot (cause : Nat) (recovLow : Bool) (straps : Nat) (idOk : Bool) : Act := fun s =>
  let m := [List.replicate 32 0, List.replicate 32 0, List.replicate 32 0, List.replicate 32 0]
  seqA [whenA (fun s => s.power.thermtrip) (emit (.thermtrip false)),
    forA allDies fun d => modDie d fun _ => Die.zero, coldRegs, eff fun _ => .lost false,
    forA (SMap.keys s.sensors) fun k => modSensor k fun x => { Sensor.zero with faulty := x.faulty },
    modKeeper fun _ => Keeper.zero, modMon fun _ => Mon.zero, eff fun _ => .milestone Mile.zero, eff fun _ => .mile 0, eff fun _ => .posNs 0,
    modPower fun _ => { Power.zero with recovLow := recovLow, straps := straps, gated := true },
    modSec fun x => ⟨m, if idOk then Config.shake256 32 Config.identityPublicKey else [], 0, x.nonceNo + 1, 0⟩,
    setF F.PWR_STATE_STATE 0 3, setF F.KPR_BOOT_CAUSE 0 cause,
    whenA (fun _ => !idOk) (seqA [setF F.SEC_STS_ID_FAIL 0 1, logOpen none 8 noUnit 0x3F 0 0]),
    extend 0 Config.romDigest, romBoot] s

/-- R522: a cold reset: 1 VAUX rising, 2 RESET_N low, 3 KPR_RST with OP COLD. -/
def execColdReset (src : Option Src) (cause : Fin 4) (v : Word) (recovLow : Bool) (straps : Fin 8) (idOk : Bool) (s : State) :
    Host.Outcome State Fault Refusal :=
  let boot := coldBoot cause.val recovLow straps.val idOk
  runAct (fun s =>
    match cause.val, src with
    | 1, _ => boot s
    | 2, _ => if s.power.vaux then boot s else []
    | 3, some x => guardW x .kpr 0 0x400 (if F.KPR_RST_KEY.of v = 0xA5 ∧ F.KPR_RST_OP.of v = 1 then boot else skip) s
    | _, _ => []) s

/-! ## Partition reset (R523) -/

/-- A die's channels go to DISABLED with no completion written (R444). -/
def dmaDisable (d c : Nat) : Act :=
  seqA [modDma d c fun _ => DmaCh.zero, dropReads d c, setF (F.DMA_CH_RING_EN.chan c) d 0, setF (F.DMA_CH_HEAD_HEAD.chan c) d 0,
    setF (F.DMA_CH_TAIL_TAIL.chan c) d 0, setF (F.DMA_CH_STS_STATE.chan c) d 0, setF (F.DMA_CH_STS_BUSY.chan c) d 0]

/-- A die's rings are disabled with HEAD and TAIL zero, and its completion queue is empty (R231). -/
def ringsOff (d : Nat) : Act :=
  seqA [setF F.PAS_ARING_BASE_EN d 0, setF F.PAS_ARING_HEAD_HEAD d 0, setF F.PAS_ARING_TAIL_TAIL d 0, setF F.PAS_CRING_BASE_EN d 0,
    setF F.PAS_CRING_HEAD_HEAD d 0, setF F.PAS_CRING_TAIL_TAIL d 0, setF F.PAS_CRING_TAIL_FULL d 0,
    modDie d fun x => { x with compQ := [], atail := 0 }]

/-- The dirty lines of partition p are written back (R284). -/
def cleanPart (p : Nat) : Act := forA allDies fun d => fun s =>
  forA ((((s.die d).cache.flatMap fun e => e.2).filter CLine.dirty).filter fun c => s.granPart (c.line * 256 / 2 ^ 30) == p) (fun c =>
    seqA [writeBack d c.line, modDie d fun x => x.putSet (setKey c.line)
      ((x.set (setKey c.line)).map fun y => if y.line = c.line then { y with dirty := false } else y)]) s

/-- R429: the snoop filter's entries of partition p are recalled. -/
def recallPart (p : Nat) : Act := forA allDies fun d => fun s =>
  let l := ((s.filter d).filter fun e => s.granPart (e.line * 64 / 2 ^ 30) == p).map fun e => (d, e)
  seqA [recallE (l.filter fun x => x.2.excl), invalidateS (l.filter fun x => !x.2.excl)] s

/-- R523: the partition's work ends: ABORT for its fabric job, passages gone without completions, attempts void, the swap
abandoned, channels and rings disabled, dirty lines written back, the image EMPTY. -/
def partReset (p : Nat) : Act := fun s =>
  let busy := (s.partDies p).any fun d => s.loadingDies.contains d
  seqA [whenA (fun s => (s.slice p).set) (abortOut (s.slice p).job),
    forA (s.live.filter fun i => (s.passage i).part == p) fun i => modPassage i fun _ => Passage.zero,
    forA (s.partDies p) fun d => seqA [dmaDisable d 0, dmaDisable d 1, ringsOff d],
    abandonSwap p, barAbandon p, recallPart p, cleanPart p,
    forA (s.partDies p) fun d => modDie d fun x => { x with pfQ := [], trackers := [], lastMiss := [] },
    release p, forA (s.partDies p) fun d => setF F.SCH_SB_STS_ADM_STOP d 0, setF F.BFP_COLL_STS_OPEN p 0,
    imgId p [], imgFailAt p 0 0 false, imgState p 0 (if busy then 1 else 0) false] s

/-- R523: a write of SCH_PRST. -/
def hostPartitionReset (src : Src) (d : Fin 32) (v : Word) : Act := guardW src .sch d.val 0x400 fun s =>
  if F.SCH_PRST_GO.of v = 1 ∧ s.part d.val < 16 then partReset (s.part d.val) s else []

/-- PartitionReset: the command of its row. -/
def execPartitionReset (src : Src) (d : Fin 32) (v : Word) (s : State) : Host.Outcome State Fault Refusal :=
  runAct (hostPartitionReset src d v) s

/-! ## Warm reset (R522) -/

/-- A warm reset's state: what the Y-dies, stack controllers and port blocks hold is reset; the part goes on from step 4 of R525. -/
def warmDown (keepStack : Bool) (cause : Nat) : Act :=
  seqA [forA allPorts fun n => portOff n 0 0, eff fun _ => .lost keepStack,
    forA allDies fun d => modDie d Die.warm,
    warmRegs, modPower fun p => { p with gated := true, parked := false, drainFor := 0, ramp := 0, wake := true },
    setF F.KPR_BOOT_CAUSE 0 cause, setF F.KPR_BOOT_CODE 0 0, setF F.KPR_BOOT_READY_MS 0 0, setF F.KPR_BOOT_STAGE 0 1,
    setF F.PWR_STATE_TARGET 0 0, setF F.PWR_STATE_BUSY 0 1]

/-- R522, R532: KPR_RST with OP WARM, with the rails on: every partition's work ends, dirty lines are written back, and the stacks
keep their contents. -/
def hostWarmReset (src : Src) (v : Word) : Act := guardW src .kpr 0 0x400 fun s =>
  if F.KPR_RST_KEY.of v ≠ 0xA5 ∨ F.KPR_RST_OP.of v ≠ 2 ∨ s.power.rails = false then []
  else seqA [forA (List.range 16) fun p => partReset p, forA allDies cleanDie, warmDown true 4] s

/-- R522: a warm reset: a write of KPR_RST, or (no source) the wake from P3 that R482 has granted. -/
def execWarmReset (src : Option Src) (v : Word) (s : State) : Host.Outcome State Fault Refusal :=
  match src with
  | some x => runAct (hostWarmReset x v) s
  | none => runAct (whenA (fun s => s.power.wake && !s.power.rails && s.fld F.KPR_BOOT_STAGE 0 != 1 && s.keeperUp) (warmDown false 5)) s

/-! ## Bring-up (R525 steps 3–9) -/

/-- Every sensor reads below RESUME. -/
def State.cool (s : State) : Bool :=
  let lim : Int := s.fld F.THM_CFG_RESUME 0 * 100
  ((List.range 32).all fun d => (List.range 16).all fun j => decide (s.temp d j < lim)) &&
    ((List.range 12).all fun n => decide (s.temp (32 + n) 0 < lim)) && decide (s.temp 48 0 < lim) && decide (s.temp 48 1 < lim)

/-- Bring-up fails: the rails are released and the part stays in P3 with a CODE. DEDUCED (log entry 59): STAGE HALTED. -/
def bringupFails (code : Nat) : Act := seqA [railsOff 0, setF F.KPR_BOOT_CODE 0 code, setF F.KPR_BOOT_STAGE 0 5]

/-- R525 steps 3–5: the 48 V input is in range, sensors are cool and the part may go on: rails come up and PLLs lock; self-test and
training begin. -/
def execBringupRailsEnable (inputOk : Bool) (test : SelfTest) (s : State) : Host.Outcome State Fault Refusal :=
  runAct (fun s =>
    if s.keeperUp = false ∨ s.fld F.KPR_BOOT_STAGE 0 ≠ 1 ∨ inputOk = false ∨ s.cool = false ∨
        (s.flag F.KPR_BOOT_AUTOWAKE 0 = false ∧ s.power.wake = false) then []
    else if test.railsGood = false then bringupFails 1 s
    else if test.pllLock = false then bringupFails 2 s
    else seqA [modPower fun p => { p with rails := true, gated := true }, setF F.KPR_BOOT_STAGE 0 3, setF F.PWR_STATE_BUSY 0 1,
      setF F.PWR_STATE_TARGET 0 0, forA allPorts fun n => setF F.TRL_LNK_STS_STATE n 1,
      forA (List.range 12) fun n => whenA (fun s => !(s.linkQuads n).isEmpty) (setF F.BFP_LNK_STS_STATE n 1)] s) s

/-- R526: self-test's verdict on a tile that failed: not usable; after the second start-up in succession, retired. -/
def tileFailed (t : TileId) : Act := fun s =>
  let n := (s.tsum t).stFails + 1
  seqA [modTsum t fun x => { x with stFails := min n 255 }, whenA (fun _ => decide (2 ≤ n)) (retireNow t 4)] s

/-- Self-test fixes the usable set, the tier engines, stacks and sensors in service, and the D2D channels up (R526–R528). -/
def selfTested (test : SelfTest) : Act := fun s =>
  let passed := (SMap.keys s.nvm.tsum).filterMap keyTile |>.filter fun t => !test.badTiles.contains t
  seqA [forA passed fun t => modTsum t fun x => { x with stFails := 0 },
    forA (test.badTiles.filter fun t => !s.nvm.repairMap.contains t) tileFailed,
    forA allDies fun d => seqA [modDie d fun x => { x with
        unusable := (test.badTiles ++ s.nvm.repairMap).filter (fun t => t.d.val == d)
        tierFaulty := test.badTier.any fun e => e.val == d },
      forOpt (stackOf d) fun n => if test.badStack.any (fun e => e.val == n) then (fun s => seqA [draw, setF F.STK_CFG_UP d 0,
          setF F.STK_CFG_CH_UP d (Config.freeNat s.free % (2 ^ 32 - 1))] s)
        else seqA [setF F.STK_CFG_UP d 1, setF F.STK_CFG_CH_UP d (2 ^ 32 - 1)],
      forA (test.d2dUp.filter fun e => e.1.val == d) fun e => setReg .prt d 0x2010 (e.2 &&& 0xFFFFFFFF)],
    modPower fun p => { p with stacksOut := test.badStack.map fun n => n.val },
    forA (List.range 49) fun u => forA (List.range 16) fun j => whenA (fun _ => snsExists u j)
      (if test.badSensor.any (fun e => e.1.val == u && e.2.val == j) then markFaulty u j
      else modSensor (snsKey u j) fun x => { x with faulty := false }),
    setF F.KPR_BOOT_CNT_UNUSABLE 0 (test.badTiles.filter fun t => !s.nvm.repairMap.contains t).dedup.length] s

/-- R525 steps 6–9: self-test and training end: the part is READY in P0, or stays in P3 with CODE MESH or EDGE. -/
def execBringupReady (test : SelfTest) (ms : Word32) (s : State) : Host.Outcome State Fault Refusal :=
  runAct (fun s =>
    if s.keeperUp = false ∨ s.power.rails = false ∨ s.fld F.KPR_BOOT_STAGE 0 ≠ 3 then []
    else if test.meshOk = false then bringupFails 3 s
    else if test.edgesOk = false then bringupFails 4 s
    else seqA [selfTested test, setF F.KPR_BOOT_STAGE 0 4, setF F.KPR_BOOT_READY_MS 0 ms.toNat, setF F.KPR_BOOT_CODE 0 0,
      modPower fun p => { p with gated := false, parked := false, drainFor := 0, wake := false },
      setF F.PWR_STATE_STATE 0 0, setF F.PWR_STATE_BUSY 0 0, setF F.PWR_STATE_CODE 0 0, setBudget,
      withA (fun s => s.fld F.KPR_BOOT_CAUSE 0) fun c => logEv none 10 0 1 noUnit 0x3F 0 0 (leBytes 4 ms.toNat ++ leBytes 1 c)] s) s

end Sys2Proof.Machine
end

