-- ==== Sys2Proof/Machine/Update.lean ====
section
/-!
DEFINITION. Firmware update (R510–R517): the manifest and blocks received over either path, activation, confirmation and recovery.
-/
namespace Sys2Proof.Machine

/-! ## Receiving (R511–R513) -/

/-- The slot a transfer writes: the one not running; in RECOVERY and ROM_WAIT the one that failed R516 (R517). -/
def State.updTarget (s : State) : Nat :=
  let other := 1 - s.fld F.KPR_STS_SLOT 0
  if s.secState = 3 ∨ s.fld F.KPR_STS_STATE 0 = 2 then
    let a := s.flag F.UPD_BOOT_VALID_A 0
    let b := s.flag F.UPD_BOOT_VALID_B 0
    if a = false ∧ b = true then 0 else if a = true ∧ b = false then 1 else other
  else other

/-- A transfer's source is fixed. -/
def State.updFixed (s : State) : Bool := s.nvm.upd.fixed && (s.nvm.upd.st == 1 || s.nvm.upd.st == 2 || !s.keeper.gather.isEmpty)

/-- Bytes [o, o+n) of the image, once every one is gathered. -/
def State.gathered1 (s : State) (o n : Nat) : Option (List Byte) :=
  let l := s.keeper.gather.filterMap fun p =>
    let a := max o p.1
    let e := min (o + n) (p.1 + p.2.length)
    if a < e then some (a - o, (p.2.drop (a - p.1)).take (e - a)) else none
  let cover := l.foldl (fun c p => addRange c p.1 p.2.length) []
  if cover.any fun r => r.1 == 0 && decide (n ≤ r.2) then some (l.foldl (fun b p => putAt b p.1 p.2) (List.replicate n 0)) else none

/-- Gathered bytes below offset e, from offset o, are dropped. -/
def dropGather (o e : Nat) : Act := modKeeper fun k => { k with gather := k.gather.filter fun p => p.1 + p.2.length ≤ o || e ≤ p.1 }

/-- R512: the checks of a manifest, in order: the code of the first that fails, 0 for none. -/
def State.manCheck (s : State) (m : List Byte) : Nat :=
  if leAt m 0 4 ≠ 0x4D574655 ∨ leAt m 4 1 ≠ 1 ∨ leAt m 6 1 ≠ 1 then 2
  else if leAt m 7 1 ≠ 1 ∨ leAt m 0x12 1 ≠ 0x11 ∨ leAt m 0x13 1 ≠ 0x11 then 3
  else if manBlocks m < 1 ∨ 192 < manBlocks m ∨ 1280 < leAt m 0x1880 2 then 4
  else if manSigned m = false then 5
  else if manSvn m < s.nvm.arb then 6
  else 0

/-- The digest of a manifest. -/
def manDig (m : List Byte) : List Byte := Config.shake256 64 (m.take 0x1880)

/-- R512: a whole manifest: it resumes its own transfer, is refused while another is received, or is checked and begins one. -/
def takeManifest (trais : Bool) (m : List Byte) : Act := fun s =>
  let u := s.nvm.upd
  let same := (u.st == 1 || u.st == 2) && manDig u.manifest == manDig m
  let c := s.manCheck m
  seqA [dropGather 0 8192,
    if same then seqA [bump F.UPD_CNT_RESUMES 0 1, updCode 0]
    else if u.st = 1 then updCode 7
    else if c ≠ 0 then updCode c
    else seqA [nvmWrite (modNvm fun n => { n with upd := ⟨m, [], 1, trais, true, n.upd.since⟩ }),
      updCode (if Config.nvmFails s.free ≤ s.nvm.spare then 0 else 10)]] s

/-- R513: a whole block: written to the slot and its bit set if its digest is the manifest's, else discarded and counted. -/
def takeBlock (b : Nat) (bs : List Byte) : Act := fun s =>
  let u := s.nvm.upd
  let k := s.updTarget
  let bits := u.bitmap ++ [b]
  seqA [dropGather (8192 + b * 65536) (8192 + (b + 1) * 65536),
    if Config.shake256 32 bs ≠ manDigest u.manifest b then seqA [bump F.UPD_CNT_BAD_BLK 0 1, updCode 8]
    else if Config.nvmFails s.free ≤ s.nvm.spare then
      seqA [nvmWrite (seqA [modSlot k fun x => { x with blocks := SMap.set (fun _ => []) x.blocks b bs },
        modNvm fun n => { n with upd := { n.upd with bitmap := bits, st := if manBlocks u.manifest ≤ bits.length then 2 else 1 } }]), updCode 0]
    else seqA [nvmWrite skip, updCode 10]] s

/-- Bytes of block b, at image offset o. Before a manifest is accepted, and beyond the last block (DEDUCED, log entry 62), they are
discarded with CODE 7; those of a block already received are ignored. -/
def blockBytes (b o : Nat) (bs : List Byte) : Act := fun s =>
  let u := s.nvm.upd
  if bs.isEmpty = true then []
  else if u.st ≠ 1 ∧ u.st ≠ 2 ∨ manBlocks u.manifest ≤ b then updCode 7 s
  else if u.bitmap.contains b then updCode 0 s
  else seqA [modKeeper fun k => { k with gather := k.gather ++ [(o, bs)] }, updCode 0,
    withA (fun s => s.gathered1 (8192 + b * 65536) 65536) fun x => forOpt x (takeBlock b)] s

/-- R511–R513: a piece of the image from PLDM or Trais: the part in the manifest, then the parts in each block it touches. -/
def takePiece (trais : Bool) (off : Nat) (bs : List Byte) : Act := fun s =>
  if s.updFixed = true ∧ s.nvm.upd.trais ≠ trais then updCode 7 s
  else
    let head := bs.take (8192 - off)
    let blocks := (List.range (bs.length / 65536 + 2)).map fun i => (off - 8192) / 65536 + i
    seqA [whenA (fun s => !s.updFixed) (modNvm fun n => { n with upd := { n.upd with trais := trais, fixed := true } }),
      whenA (fun _ => decide (off < 8192)) (seqA [modKeeper fun k => { k with gather := k.gather ++ [(off, head)] }, updCode 0,
        withA (fun s => s.gathered1 0 8192) fun x => forOpt x (takeManifest trais)]),
      forA blocks fun b =>
        let lo := max off (8192 + b * 65536)
        let hi := min (off + bs.length) (8192 + (b + 1) * 65536)
        if lo < hi then blockBytes b lo ((bs.drop (lo - off)).take (hi - lo)) else skip] s

/-! ## Activation, confirmation, cancel (R515, R516, R519) -/

/-- The first block of the target slot that does not compare with its digest. -/
def State.badBlock (s : State) : Option Nat :=
  (List.range (manBlocks s.nvm.upd.manifest)).find? fun b =>
    Config.shake256 32 ((s.slot s.updTarget).block b) != manDigest s.nvm.upd.manifest b

/-- R515 steps 1–3, then the Keeper's reset into the new slot; in RECOVERY, and in ROM_WAIT
before firmware has run, the ROM boots it, unless RECOV_N was low (R517). -/
def activate : Act := fun s =>
  let u := s.nvm.upd
  let k := s.updTarget
  if u.st ≠ 2 then updCode 9 s
  else if manSigned u.manifest = false then updCode 5 s
  else match s.badBlock with
  | some b => seqA [modNvm fun n => { n with upd := { n.upd with bitmap := n.upd.bitmap.filter (fun x => x != b), st := 1 } }, updCode 8] s
  | none =>
    if s.nvm.spare < Config.nvmFails s.free then seqA [nvmWrite skip, updCode 10] s
    else seqA [nvmWrite (seqA [modSlot k fun x => { x with manifest := u.manifest },
        modNvm fun n => { n with next := k, upd := ⟨[], [], 3, false, false, n.pos⟩ }]),
      bump F.UPD_CNT_ACTIVATIONS 0 1, updCode 0, fun s =>
        if s.secState = 3 ∨ s.flag F.SEC_STS_BOOT_DONE 0 = false then (if s.power.recovLow then romWaits true s else bootSlot k s)
        else seqA [setF F.KPR_STS_SLOT 0 k, keeperDown] s] s

/-- The transfer is cancelled: manifest and bitmap are cleared; while ACTIVATING nothing happens. -/
def cancelTransfer : Act := fun s =>
  if s.nvm.upd.st = 3 then []
  else seqA [modKeeper fun k => { k with gather := [] }, whenA (fun s => s.nvm.upd.st == 1 || s.nvm.upd.st == 2)
    (modNvm fun n => { n with upd := { Update.zero with since := n.upd.since } }), updCode 0] s

/-- R516: the running firmware is confirmed: the anti-rollback counter rises to its SVN. -/
def confirmRun : Act := whenA (fun s => s.nvm.upd.st == 4) fun s =>
  let v := manSvn (s.slot (s.fld F.KPR_STS_SLOT 0)).manifest
  seqA [nvmWrite (modNvm fun n => { n with arb := max n.arb v, upd := { n.upd with st := 0 } }),
    updCode (if Config.nvmFails s.free ≤ s.nvm.spare then 0 else 10)] s

/-! ## The commands over Trais (R514, R520) -/

/-- The n bytes of UPD_BUF. -/
def State.updBuf (s : State) (n : Nat) : List Byte :=
  ((List.range ((n + 7) / 8)).flatMap fun i => leBytes 8 (s.reg .upd 0 (0x1000 + 8 * i)).toNat).take n

/-- A write of UPD_CMD: 1 PIECE, 2 ACTIVATE, 3 CANCEL, 4 CONFIRM, 5 RECOVER. A LEN outside 1–4,096 is taken as the nearest
(DESIGN CHOICE, log entry 62). -/
def updCmd (src : Src) (v : Word) : Act := guardW src .upd 0 0x130 fun s =>
  if F.UPD_CMD_GO.of v = 0 then []
  else match F.UPD_CMD_OP.of v with
  | 1 => takePiece true (s.fld F.UPD_ARG_OFFSET 0) (s.updBuf (max 1 (min 4096 (s.fld F.UPD_ARG_LEN 0)))) s
  | 2 => activate s
  | 3 => cancelTransfer s
  | 4 => confirmRun s
  | 5 => nvmWrite (modNvm fun n => { n with recover := true }) s
  | _ => []

/-- R514: OP PIECE. -/
def hostPiece (src : Src) (v : Word) : Act := updCmd src v
/-- Piece: the command of its row. -/
def execPiece (src : Src) (v : Word) (s : State) : Host.Outcome State Fault Refusal := runAct (hostPiece src v) s

/-- R515: OP ACTIVATE. -/
def hostActivate (src : Src) (v : Word) : Act := updCmd src v
/-- Activate: the command of its row. -/
def execActivate (src : Src) (v : Word) (s : State) : Host.Outcome State Fault Refusal := runAct (hostActivate src v) s

/-- R519: OP CANCEL. -/
def hostCancelUpdate (src : Src) (v : Word) : Act := updCmd src v
/-- CancelUpdate: the command of its row. -/
def execCancelUpdate (src : Src) (v : Word) (s : State) : Host.Outcome State Fault Refusal := runAct (hostCancelUpdate src v) s

/-- R516: OP CONFIRM. -/
def hostConfirm (src : Src) (v : Word) : Act := updCmd src v
/-- Confirm: the command of its row. -/
def execConfirm (src : Src) (v : Word) (s : State) : Host.Outcome State Fault Refusal := runAct (hostConfirm src v) s

/-- R516: CONFIRM_S power-on seconds pass without a watchdog reset. -/
def execConfirmExpiry (s : State) : Host.Outcome State Fault Refusal :=
  runAct (whenA (fun s => s.keeperUp && s.fld F.UPD_CFG_CONFIRM_S 0 != 0 && decide (s.nvm.upd.since + s.fld F.UPD_CFG_CONFIRM_S 0 ≤ s.nvm.pos))
    confirmRun) s

/-- R517: OP RECOVER. -/
def hostRecover (src : Src) (v : Word) : Act := updCmd src v
/-- Recover: the command of its row. -/
def execRecover (src : Src) (v : Word) (s : State) : Host.Outcome State Fault Refusal := runAct (hostRecover src v) s

/-! ## PLDM for Firmware Update (R458, R514, R517)

Command and completion codes are those of DSP0267 (PRESUMED, log entry 55). -/

/-- The image offset the part asks for next: the manifest's first byte not gathered; then that of the lowest block whose bit is
clear. -/
def State.nextAsk (s : State) : Option Nat :=
  let got := fun (o n : Nat) => ((List.range (n / 1024)).find? fun i => (s.gathered1 (o + 1024 * i) 1024).isNone).map fun i => o + 1024 * i
  let u := s.nvm.upd
  if u.st = 1 then
    match (List.range (manBlocks u.manifest)).find? fun b => !u.bitmap.contains b with
    | some b => got (8192 + b * 65536) 65536
    | none => none
  else if u.st = 2 then none
  else got 0 8192

/-- The part asks for the next 1,024 bytes, or reports the transfer, its verification and its application complete. -/
def pldmAsk : Act := fun s =>
  match s.nextAsk with
  | some o => emit (.pldm 5 0x15 0 (leBytes 4 o ++ leBytes 4 1024)) s
  | none => if s.nvm.upd.st = 2 then
      seqA [emit (.pldm 5 0x16 0 [0]), emit (.pldm 5 0x17 0 [0]), emit (.pldm 5 0x18 0 [0])] s
    else []

/-- R514: RequestUpdate: a transfer begins, or resumes at the first byte of the lowest clear block. -/
def execPldmRequestUpdate (s : State) : Host.Outcome State Fault Refusal :=
  runAct (whenA (fun s => s.mctpUp) fun s =>
    if s.updFixed = true ∧ s.nvm.upd.trais = true then seqA [updCode 7, emit (.pldm 5 0x10 0x81 [])] s
    else seqA [emit (.pldm 5 0x10 0 []), whenA (fun s => s.nvm.upd.st == 1) (bump F.UPD_CNT_RESUMES 0 1), pldmAsk] s) s

/-- R514: the bytes of an answer to RequestFirmwareData. -/
def execPldmFirmwareData (off : Word32) (data : List Byte) (s : State) : Host.Outcome State Fault Refusal :=
  runAct (whenA (fun s => s.mctpUp && !data.isEmpty) (seqA [takePiece false off.toNat data, pldmAsk])) s

/-- R514, R515, R517: ActivateFirmware, self-contained, in an estimated 2 s. -/
def execPldmActivateFirmware (s : State) : Host.Outcome State Fault Refusal :=
  runAct (whenA (fun s => s.mctpUp) fun s =>
    seqA [if s.nvm.upd.st = 2 then emit (.pldm 5 0x1A 0 (leBytes 2 2)) else emit (.pldm 5 0x1A 0x82 []), activate] s) s

/-- R519: CancelUpdate. -/
def execPldmCancelUpdate (s : State) : Host.Outcome State Fault Refusal :=
  runAct (whenA (fun s => s.mctpUp) (seqA [cancelTransfer, emit (.pldm 5 0x1D 0 [])])) s

end Sys2Proof.Machine
end

