-- ==== Sys2Proof/Machine/HostAccess.lean ====
section
/-!
DEFINITION. Host access: what registers read as and what a write of each does (R9, R10, R496), the four windows of a Trais port
(R422, R423), the requests that arrive there (R418–R425), and the port itself (R415–R417, R429).
-/
namespace Sys2Proof.Machine

/-! ## What registers read as -/

/-- R15: the identity register of a block. -/
def idWord (b : Blk) (i : Nat) : Word :=
  let inst := match b with
    | .til => i % 8448
    | .ldr => 0
    | _ => i
  BitVec.ofNat 64 (2 ^ 48 + inst * 2 ^ 32 + b.code * 2 ^ 16 + 0x100)

/-- The logical array bound to a tile: its stage. -/
def State.tileStage (s : State) (t : TileId) : Option Stage :=
  (s.core (.tile t)).bound.bind fun x => s.stage (s.part t.d.val) x.1

/-- The use of a tier engine's main datapath as STK_TIER_STS.DUTY has it. -/
def State.tierDuty (s : State) (d : Nat) : Nat :=
  match s.tierTaken d with
  | none => 0
  | some k => (((s.waitingCtx d).find? fun (x : Nat × TierJob) => x.2.key == k).map fun (x : Nat × TierJob) => x.2.prio).getD 0

/-- The fields of a tile's registers that show state held elsewhere. -/
def State.viewTile (s : State) (k off : Nat) (t : TileId) : List (Fld × Nat) :=
  let c := s.core (.tile t)
  let v := s.conv t
  let r := s.calRec t
  let a := s.fld F.TIL_CAL_SEL_ADC k
  match off with
  | 0x100 => (s.tileStage t).elim [] fun st =>
    let r := s.rcp t.d.val st.rcp
    [(F.TIL_ARR_CFG_IN_FMT, r.inFmt), (F.TIL_ARR_CFG_ALIGN_EXT, if r.inFmt = 1 then 0 else r.alignExt)]
  | 0x108 => [(F.TIL_ARR_STS_STATE, s.shownState t)]
  | 0x128 => [(F.TIL_ARR_WEAR_REWRITES, (s.tsum t).rewrites)]
  | 0x200 => [(F.TIL_SEQ_STS_PC, c.pc), (F.TIL_SEQ_STS_CAUSE, c.cause), (F.TIL_SEQ_STS_STATE, c.st)]
  | 0x340 => [(F.TIL_CAL_D, r.d), (F.TIL_CAL_T_CAL, tc 16 r.tcal), (F.TIL_CAL_QF, r.qf), (F.TIL_CAL_BAD, r.bad), (F.TIL_CAL_TRACK, if s.arrBusy t then v.track else v.next)]
  | 0x350 => (v.trims[a]?).elim [] fun x => [(F.TIL_CAL_TRIM_GAIN, x.gain), (F.TIL_CAL_TRIM_OFFSET, tc 8 x.ofs)]
  | 0x358 => [(F.TIL_CAL_POS_POS, r.pos)]
  | _ => []

/-- Those of the SCH_ and PAS_ registers of die d. -/
def State.viewSched (s : State) (b : Blk) (d off : Nat) : List (Fld × Nat) :=
  let x := s.die d
  let st := s.fld F.SCH_EXP_SEL_STAGE d
  let e := SMap.get (fun _ => ExpCnt.zero) x.expCnt st
  match b, off with
  | .sch, 0x808 =>
    let c := s.stageFlags d (s.fld F.SCH_FLAG_SEL_STAGE d)
    [(F.SCH_FLAG_CNT_UNDER, c.1), (F.SCH_FLAG_CNT_SAT, c.2)]
  | .sch, 0x110 => [(F.SCH_SB_STS_OCC, s.occ d)]
  | .sch, 0x308 => [(F.SCH_EXP_CNT_DISPATCHED, e.dispatched), (F.SCH_EXP_CNT_SELECTED, e.selected)]
  | .sch, 0x310 => [(F.SCH_EXP_DROP_QOVF, e.qovf), (F.SCH_EXP_DROP_CAP, e.cap)]
  | .sch, 0x318 => [(F.SCH_EXP_QUE_ZGATE, e.zgate), (F.SCH_EXP_QUE_PEAK, e.peak),
      (F.SCH_EXP_QUE_NOW, x.queuedNow st)]
  | .sch, 0x330 =>
    let c := SMap.get (fun _ => (0, 0)) x.exitCnt (s.fld F.SCH_EXIT_SEL_STAGE d)
    [(F.SCH_EXIT_CNT_TESTED, c.1), (F.SCH_EXIT_CNT_TAKEN, c.2)]
  | .sch, 0x338 => [(F.SCH_DISP_BUF_USED, s.dispUsed d)]
  | .pas, 0x108 => (s.range (s.part d)).elim [] fun r => [(F.PAS_RANGE_LO, r.1), (F.PAS_RANGE_HI, r.2)]
  | .pas, 0x140 =>
    let l := s.live.filter fun i => (s.passage i).st != 0 && (s.passage i).home == d
    [(F.PAS_LIVE_LIVE, l.length), (F.PAS_LIVE_CACHED, l.countP fun i => (s.passage i).cached)]
  | .pas, 0x158 =>
    let p := s.passage (s.fld F.PAS_PEEK_INDEX d)
    let on := s.flag F.PAS_PEEK_VALID d && p.home == d
    [(F.PAS_PEEK_VALID, if on then 1 else 0), (F.PAS_PEEK_STATE, if on then p.st else 0)]
  | _, _ => []

/-- Those of the other die blocks of die d. -/
def State.viewDie (s : State) (b : Blk) (d off : Nat) : List (Fld × Nat) :=
  let x := s.die d
  match b, off with
  | .bil, 0x238 => [(F.BIL_TILES_RETIRED, (dieTiles (fin32 d)).countP fun t => (s.tsum t).retired), (F.BIL_TILES_SPARE, s.spares d),
      (F.BIL_TILES_BOUND, s.boundOn d), (F.BIL_TILES_USABLE, (dieTiles (fin32 d)).countP s.usable)]
  | .cal, 0x118 => [(F.CAL_STS_QUEUED, x.calDue.length), (F.CAL_STS_ACTIVE, x.calNow.length)]
  | .chk, 0x108 =>
    let t := (s.hottest d).1
    let g := sigmaLim t
    [(F.CHK_SIGMA_TEMP, tc 16 t), (F.CHK_SIGMA_SIGMA, (roundDiv g.1 g.2).toNat)]
  | .chk, 0x138 => [(F.CHK_HOLD_HELD, x.chkHold.length)]
  | .chk, 0x140 => [(F.CHK_TP_ACTIVE, (dieTiles (fin32 d)).countP fun t => (s.core (.tile t)).testRet.isSome)]
  | .stk, 0x100 => (stackOf d).elim [] fun n => [(F.STK_CFG_STACK, n)]
  | .stk, 0x308 =>
    let w := s.win (s.fld F.STK_WIN_SEL_INDEX d)
    [(F.STK_WIN_BASE_VALID, if w.valid then 1 else 0), (F.STK_WIN_BASE_OWNER, w.owner), (F.STK_WIN_BASE_BASE, w.base)]
  | .stk, 0x310 => [(F.STK_WIN_LIM_LIMIT, (s.win (s.fld F.STK_WIN_SEL_INDEX d)).limit)]
  | .stk, 0x318 => [(F.STK_WIN_CNT_USED, (List.range 256).countP fun i => (s.win i).valid),
      (F.STK_WIN_CNT_SHORT, ((List.range 16).map fun p => (s.job p).regions.countP fun r => (s.winOf (r.base / 256)).isNone).sum)]
  | .stk, 0x400 => [(F.STK_TIER_STS_SPILLQ, x.spillQ.length), (F.STK_TIER_STS_CTX, x.tier.countP fun k => k.2.isSome),
      (F.STK_TIER_STS_DUTY, s.tierDuty d)]
  | .prt, 0x2040 => [(F.PRT_NOC_FLITS_COUNT, s.flits (d * 8 + s.fld F.PRT_NOC_FSEL_VC d))]
  | .dma, 0x120 => [(F.DMA_CH_STS_PART, s.part d)]
  | .dma, 0x1A0 => [(F.DMA_CH_STS_PART.chan 1, s.part d)]
  | _, _ => viewSched s b d off

/-- Those of the storage engine's bank of partition p. -/
def State.viewLoader (s : State) (p off : Nat) : List (Fld × Nat) :=
  let l := (s.job p).inUse
  match off with
  | 0x118 => [(F.LDR_STS_DONE, l.countP fun h => h.st == 3 || h.st == 4 || h.st == 5), (F.LDR_STS_FAIL, l.countP fun h => h.st == 6)]
  | 0x140 => [(F.LDR_OLD_OPEN, (s.partLive p).countP fun i => (s.passage i).epoch != s.fld F.LDR_SWAP_STS_ADM_EPOCH p)]
  | 0x148 => [(F.LDR_PROG_QUEUED, ((s.partDies p).map fun d => (s.die d).progQ.length).sum),
      (F.LDR_PROG_ACTIVE, ((s.partDies p).map fun d => (s.die d).progNow.length).sum)]
  | _ => []

/-- Those of the Keeper's blocks. -/
def State.viewKeeper (s : State) (b : Blk) (off : Nat) : List (Fld × Nat) :=
  let n := s.nvm
  let one := fun (c : Bool) => if c then 1 else 0
  let m := fun k => (s.slot k).manifest
  let tmax := (allDies.map fun d => s.dieTemp d).foldl max (s.dieTemp 0)
  let sel := snsKey (s.fld F.THM_SNS_SEL_UNIT 0) (s.fld F.THM_SNS_SEL_SNS 0)
  match b with
  | .kpr => match off with
    | 0x108 => [(F.KPR_POS_POS, n.pos)]
    | 0x118 => [(F.KPR_NVM_REMAP, n.remap), (F.KPR_NVM_SPARE, n.spare), (F.KPR_NVM_WORN, one n.worn)]
    | 0x120 => [(F.KPR_LOG_SEQ, n.logSeq)]
    | 0x300 => [(F.KPR_I3C_STATIC, 0x3A + s.power.straps)]
    | _ => []
  | .thm =>
    if off = 0x108 then [(F.THM_STS_TMAX, tc 16 (max tmax (max (s.temp 48 0) (s.temp 48 1))))]
    else if off = 0x118 then
      [(F.THM_SNS_FAULTY, one (s.sensor sel).faulty), (F.THM_SNS_FAST, one (s.sensor sel).fast), (F.THM_SNS_T, tc 16 (s.sensor sel).t)]
    else if 0x300 ≤ off ∧ off < 0x360 then [(F.THM_STK_T, tc 16 (s.temp (32 + (off - 0x300) / 8) 0))]
    else []
  | .sec =>
    if off = 0x100 then [(F.SEC_STS_OWNER, one (!n.ownerKey.isEmpty)), (F.SEC_STS_STORED, n.secState)]
    else if 0x108 ≤ off ∧ off < 0x128 then [(F.SEC_ID_ID, leAt s.sec.partId (off - 0x108) 8)]
    else if 0x130 ≤ off ∧ off < 0x150 then
      [(F.SEC_MEAS_DIGEST, leAt (s.sec.m.getD (s.fld F.SEC_MEAS_SEL_INDEX 0) []) (off - 0x130) 8)]
    else if off = 0x150 then [(F.SEC_ARB_FW, n.arb)]
    else if 0x158 ≤ off ∧ off < 0x178 then [(F.SEC_DBG_NONCE_NONCE, leAt s.dbgNonce (off - 0x158) 8)]
    else if off = 0x188 then [(F.SEC_DBG_STS_LEFT, s.sec.tokenEnds - n.pos)]
    else if off = 0x1B8 then
      [(F.SEC_STAGE_STS_PTAB_SEQ, n.ptab.seq), (F.SEC_STAGE_STS_CFG, one n.cfgStaged.isSome), (F.SEC_STAGE_STS_PTAB, one n.ptabStaged.isSome)]
    else []
  | .upd => match off with
    | 0x100 => [(F.UPD_STS_RCVD, n.upd.bitmap.length), (F.UPD_STS_N_BLK, if n.upd.manifest.isEmpty then 0 else manBlocks n.upd.manifest),
        (F.UPD_STS_SRC, one n.upd.trais), (F.UPD_STS_STATE, n.upd.st)]
    | 0x108 => [(F.UPD_SLOT_SVN, manSvn (m 0)), (F.UPD_SLOT_FW_MAJ, manFwMaj (m 0)), (F.UPD_SLOT_FW_MIN, manFwMin (m 0))]
    | 0x110 => [(F.UPD_SLOT_SVN, manSvn (m 1)), (F.UPD_SLOT_FW_MAJ, manFwMaj (m 1)), (F.UPD_SLOT_FW_MIN, manFwMin (m 1))]
    | 0x118 => [(F.UPD_BOOT_RECOVER, one n.recover), (F.UPD_BOOT_NEXT, n.next)]
    | _ => []
  | _ => []

/-- Every field of a register that shows state held elsewhere, with its value. DESIGN CHOICE (log entry 221): the milestone value is the
counter's at the moment of the read, without the lag of its crossings (R28). -/
def State.views (s : State) (b : Blk) (i off : Nat) : List (Fld × Nat) :=
  match b with
  | .til => (keyTile i).elim [] fun t => s.viewTile i off t
  | .ldr => s.viewLoader i off
  | .msc => if off = 0x100 then [(F.MSC_VALUE_VALUE, s.mile.toNat)] else []
  | .trl => if off = 0x100 then [(F.TRL_LNK_STS_PART, s.portPart i)] else []
  | _ => if b.isKeeper then s.viewKeeper b off else s.viewDie b i off

/-- The bits that host software reads: every field but WO ones (R9). -/
def readMask (r : RegRow) : Word :=
  r.flds.foldl (fun a f => match f.acc with
    | .wo => a
    | _ => a ||| maskOf f.hi f.lo) 0

/-- R285: registers of the stack controller, unoccupied on dies without a stack. -/
def noStack (b : Blk) (i off : Nat) : Bool := b == .stk && decide (0x100 ≤ off) && decide (off ≤ 0x130) && (stackOf i).isNone

/-- What a register reads as (R9, R10, R15). PWR_IN is measured when read: a free value (R487). -/
def State.readReg (s : State) (b : Blk) (i off : Nat) : Word :=
  if off = 0 then idWord b i
  else if noStack b i off then 0
  else match rowOf b off with
    | none => 0
    | some r =>
      let w := if b = .pwr ∧ off = 0x120 then Config.freeWord s.free &&& 0x0000FFFFFFFFFFFF#64 else s.reg b i off
      ((s.views b i off).foldl (fun w e => putBits w e.1.hi e.1.lo e.2) w) &&& readMask r

/-- A register read from port n (R496, R465, R467): a refused read returns zero and is counted; Keeper blocks read zero while the
Keeper is down; a read of MON_FIFO removes its entry. -/
def hostRead (n : Fin 4) (addr : Nat) (k : Word → Act) : Act := fun s =>
  match target addr with
  | .reg b i off =>
    if b.isKeeper && !s.keeperUp then k 0 s
    else if s.admits (.port n) false b i off = false then seqA [refuse (.port n) false b i off addr, k 0] s
    else
      let x := s.resolve (.port n) b i off
      if b = .mon ∧ off = 0x500 then seqA [monPop, k ((s.mon.fifo.head?).getD 0)] s
      else if b = .pwr ∧ off = 0x120 then seqA [draw, k (s.readReg b i off)] s
      else k (s.readReg x.1 x.2.1 x.2.2) s
  | _ => k 0 s

/-! ## What a write of a register does -/

/-- R423, R429: a write of TRL_RWINk of port n. A granule outside the port's partition is refused; otherwise the change waits at the
port until the lines of the old granule are recalled. -/
def hostRemap (src : Src) (n k : Nat) (v : Word) : Act := guardW src .trl n (0x200 + 8 * k) fun s =>
  if F.TRL_RWIN_VALID.of v = 1 ∧ s.granPart (F.TRL_RWIN_GRANULE.of v) ≠ s.portPart n then []
  else modPort n (fun p => { p with held := p.held ++ [.remap k v] }) s

/-- A register that every die of a partition shows alike is written on all of them (R203). -/
def mirrored (src : Src) (d off : Nat) (v : Word) : Act := guardW src .bil d off fun s =>
  if s.part d = 0x3F then writeReg .bil d off v s else onDies (s.part d) (fun e => writeReg .bil e off v) s

/-- R381: MSC_CFG.ROOT: the root's counter runs free and counts as locked. -/
def rootWrite (src : Src) (v : Word) : Act := guardW src .msc 0 0x108 fun s =>
  let was := s.flag F.MSC_CFG_ROOT 0
  seqA [writeReg .msc 0 0x108 v,
    if F.MSC_CFG_ROOT.of v = 1 then seqA [setF F.MSC_STS_LOCK 0 1, setF F.MSC_STS_HOLD 0 0, setF F.MSC_STS_PARENT 0 15, setF F.MSC_STS_DEPTH 0 0]
    else if was then seqA [setF F.MSC_STS_LOCK 0 0, modMile fun m => { m with good := 0 }] else skip] s

/-- A write of THM_STS: clearing CUT releases THERMTRIP_N (R479). -/
def thmStsWrite (src : Src) (v : Word) : Act := guardW src .thm 0 0x108 (seqA [writeReg .thm 0 0x108 v,
  whenA (fun s => s.power.thermtrip && !s.flag F.THM_STS_CUT 0)
    (seqA [modPower fun p => { p with thermtrip := false }, emit (.thermtrip false)])])

/-- A write of the monitor's registers: configuration while EN is 1 is discarded and counted (R464). -/
def monWrite (src : Src) (off : Nat) (v : Word) : Act := guardW src .mon 0 off fun s =>
  if monConfig off && s.flag F.MON_CTL_EN 0 then bump F.MON_STS_CFG_LOST 0 1 s else writeReg .mon 0 off v s

/-- R256: a write of SCH_EXP_HIST; a region outside the partition's stack regions is refused. -/
def histWrite (src : Src) (d : Nat) (v : Word) : Act := guardW src .sch d 0x320 fun s =>
  if F.SCH_EXP_HIST_EN.of v = 1 ∧ s.owns (s.part d) (F.SCH_EXP_HIST_ADDR.of v * 64) (2 ^ 18) = false then []
  else writeReg .sch d 0x320 v s

/-- R522, R533: a write of KPR_RST. Whether the identity reads out is free. -/
def resetWrite (src : Src) (v : Word) : Act := fun s =>
  if F.KPR_RST_OP.of v = 1 then guardW src .kpr 0 0x400 (whenA (fun _ => F.KPR_RST_KEY.of v == 0xA5) (seqA [draw,
    coldBoot 3 s.power.recovLow s.power.straps (Config.freeBool s.free)])) s
  else hostWarmReset src v s

/-- The tile of a register instance. -/
def tileOfInst (i : Nat) (f : TileId → Act) : Act := forOpt (keyTile i) f

/-- A write of a die block's register. -/
def dieWrite (src : Src) (b : Blk) (d : Fin 32) (off : Nat) (v : Word) : Act :=
  let plain := guardW src b d.val off (writeReg b d.val off v)
  match b with
  | .sch => match off with
    | 0x828 => hostFmtCntClear src d v
    | 0x830 => hostRecipeUpdate src d v
    | 0x340 => hostExpCntClear src d v
    | 0x400 => hostPartitionReset src d v
    | 0x320 => histWrite src d.val v
    | _ => plain
  | .pas => match off with
    | 0x100 => hostPtBaseWrite src d v
    | 0x110 => hostRingBaseWrite src d false v
    | 0x128 => hostRingBaseWrite src d true v
    | 0x118 => hostAdmissionDoorbell src d v
    | 0x130 => hostCompletionHeadWrite src d v
    | 0x158 => hostPeekWrite src d v
    | _ => plain
  | .bil => match off with
    | 0x110 => hostImageLoad src d v
    | 0x228 => hostForbidSet src d v
    | 0x208 | 0x210 | 0x218 | 0x220 => mirrored src d.val off v
    | _ => plain
  | .cal => if off = 0x110 then hostCalDemand src d v else plain
  | .stk => if off = 0x418 then hostStkCntClear src d v else if noStack .stk d.val off then skip else plain
  | .dma => match off with
    | 0x100 => hostDmaRingWrite src d 0 v
    | 0x180 => hostDmaRingWrite src d 1 v
    | 0x108 => hostDmaDoorbell src d 0 v
    | 0x188 => hostDmaDoorbell src d 1 v
    | 0x130 => hostDmaResume src d 0 v
    | 0x1B0 => hostDmaResume src d 1 v
    | _ => plain
  | _ => plain

/-- A write of a Keeper block's register. -/
def keeperWrite (src : Src) (b : Blk) (off : Nat) (v : Word) : Act :=
  let plain := guardW src b 0 off (writeReg b 0 off v)
  match b, off with
  | .kpr, 0x200 => hostMbxRead src v
  | .kpr, 0x400 => resetWrite src v
  | .mon, 0x100 => monCtl src v
  | .mon, o => monWrite src o v
  | .thm, 0x108 => thmStsWrite src v
  | .pwr, 0x108 => powerCmd src v
  | .sec, 0x180 => dbgCmd src v
  | .sec, 0x198 => hostAttest src v
  | .sec, 0x1B0 => stageCmd src v
  | .upd, 0x130 => updCmd src v
  | _, _ => plain

/-- A number below m, of a number known to fold there. -/
def finMod (m : Nat) (h : 0 < m) (n : Nat) : Fin m := ⟨n % m, Nat.mod_lt _ h⟩

/-- A write of a register by its block, instance and offset: the row's own meaning, or its fields' access codes. -/
def regWrite (src : Src) (b : Blk) (i off : Nat) (v : Word) : Act :=
  let plain := guardW src b i off (writeReg b i off v)
  match b with
  | .til => match off with
    | 0x130 => tileOfInst i fun t => hostArrCntClear src t v
    | 0x2A8 => tileOfInst i fun t => hostOutCntClear src t v
    | _ => plain
  | .ldr => match off with
    | 0x110 => hostSstatWrite src v
    | 0x128 => hostSwapStart src v
    | 0x170 => hostLdrCntClear src v
    | _ => plain
  | .fab => match off with
    | 0x8028 => sliceCmd src v
    | 0x8050 => hostBarrierGo src v
    | _ => plain
  | .bfp =>
    if 0x200 ≤ off ∧ off < 0x280 ∧ off % 8 = 0 then hostShareRegrant src (finMod 12 (by decide) i) (finMod 16 (by decide) ((off - 0x200) / 8)) v
    else plain
  | .trl =>
    if 0x200 ≤ off ∧ off < 0x280 ∧ off % 8 = 0 then hostRemap src i ((off - 0x200) / 8) v
    else if 0x400 ≤ off ∧ off < 0x800 ∧ off % 8 = 0 then
      hostEventTableWrite src (finMod 4 (by decide) i) (finMod 128 (by decide) ((off - 0x400) / 8)) v
    else plain
  | .msc => if off = 0x108 then rootWrite src v else plain
  | .eth | .prt => plain
  | _ => if b.isKeeper then keeperWrite src b off v else dieWrite src b (fin32 i) off v

/-- A 64-bit write of register space (R9, R10). -/
def hostWrite (src : Src) (addr : Nat) (v : Word) : Act := fun s =>
  match target addr with
  | .reg b i off =>
    let x := s.resolve src b i off
    regWrite src x.1 x.2.1 x.2.2 v s
  | _ => []

/-! ## Windows (R422, R423) -/

/-- The device address of an offset of port n's register window; none where nothing is mapped. -/
def State.regWin (s : State) (n o : Nat) : Option Nat :=
  if o < 0x2000000 then some (0x080000000000 + o / 0x100000 * 0x1000000 + o % 0x100000)
  else if o < 0x2800000 then some (0x080100000000 + (o - 0x2000000))
  else if o < 0x3000000 then some (0x080200000000 + (o - 0x2800000))
  else if o < 0x4000000 then
    let k := (o - 0x3000000) / 0x400000
    let w := s.reg .trl n (0x140 + 8 * k)
    if F.TRL_TPAGE_VALID.of w = 1 ∧ F.TRL_TPAGE_PAGE.of w < 3 ∧ F.TRL_TPAGE_DIE.of w < 32 then
      some (0x080000400000 + F.TRL_TPAGE_DIE.of w * 0x1000000 + F.TRL_TPAGE_PAGE.of w * 0x400000 + o % 0x400000)
    else none
  else none

/-- The stack address of an offset of port n's ring window; none where the slot is not VALID. -/
def State.ringWin (s : State) (n o : Nat) : Option Nat :=
  if o < 0x400000000 then
    let w := s.reg .trl n (0x200 + 8 * (o / 2 ^ 30))
    if F.TRL_RWIN_VALID.of w = 1 then some (F.TRL_RWIN_GRANULE.of w * 2 ^ 30 + o % 2 ^ 30) else none
  else none

/-- The stack address a request names, where it names stack memory its port may reach and the part is not in P2. -/
def State.reqAddr (s : State) (n : Nat) (sp : Space) (o len : Nat) : Option Nat :=
  let a := match sp with
    | .ring => s.ringWin n o
    | .stack => if o < 0x018000000000 then some o else none
    | _ => none
  if s.pstate = 2 then none else a.filter fun a => s.inGranules (s.reaches (s.portPart n) (some n)) a len

/-! ## Requests (R418–R425) -/

/-- The snoop filter entries of lines for which p holds. -/
def State.sfWhere (s : State) (p : Nat → Bool) : List SfEnt := (allDies.flatMap fun d => s.filter d).filter fun e => p e.line

/-- R424: the copies that must go before port n's request for a line can be granted: port, line, and whether to invalidate (else
recall). With the home's filter full, those of its least recently used entry. -/
def State.lineSnoops (s : State) (n line : Nat) (excl : Bool) : List (Nat × Nat × Bool) :=
  match s.sfEntry line with
  | some (_, e) =>
    let l := e.ports.filter fun m => m != n
    if e.excl then l.map fun m => (m, line, false) else if excl then l.map fun m => (m, line, true) else []
  | none =>
    let f := s.filter (s.owner (line * 64))
    if f.length < 8192 then [] else (f.head?).elim [] fun e => e.ports.map fun m => (m, e.line, !e.excl)

/-- The copies that must go before a request held at port n can be served. -/
def State.reqSnoops (s : State) (n : Nat) : HostReq → List (Nat × Nat × Bool)
  | .rd sp o len _ => (s.reqAddr n sp o len).elim [] fun a => (s.heldE a len).flatMap fun x => x.2.ports.map fun m => (m, x.2.line, false)
  | .wr sp o bs => (s.reqAddr n sp o bs.length).elim [] fun a =>
      (s.heldE a bs.length).flatMap fun x => x.2.ports.map fun m => (m, x.2.line, false)
  | .rdS o _ => (s.reqAddr n .ring o 64).elim [] fun a => s.lineSnoops n (a / 64) false
  | .rdE o _ => (s.reqAddr n .ring o 64).elim [] fun a => s.lineSnoops n (a / 64) true
  | .remap k _ =>
    let w := s.reg .trl n (0x200 + 8 * k)
    if F.TRL_RWIN_VALID.of w = 1 then
      (s.sfWhere fun l => l * 64 / 2 ^ 30 == F.TRL_RWIN_GRANULE.of w).flatMap fun e => e.ports.map fun m => (m, e.line, !e.excl)
    else []

/-- A completion with data, or with POISON where a word of stack memory is poisoned. -/
def cplMem (n tag a len : Nat) (k : Act) : Act := fun s =>
  seqA [sliceReads true a len, if s.poisoned a len then seqA [bump F.TRL_WIN_ERR_POISON n 1, traisSend n (.cpl tag 2 [])]
    else seqA [k, traisSend n (.cpl tag 0 (s.bytes a len))]] s

/-- A line is granted to port n: its filter entry becomes the most recently used. -/
def grant (n line : Nat) (excl : Bool) : Act := fun s =>
  let old := ((s.sfEntry line).map fun x => x.2.ports).getD []
  let ports := if excl then [n] else if old.contains n then old else old ++ [n]
  seqA [modFilter (s.owner (line * 64)) fun f => f.filter (fun e => e.line != line) ++ [⟨line, excl, ports⟩],
    modPort n fun p => { p with dropWb := p.dropWb.filter fun l => l != line }] s

/-- Why a request to the ring or stack window is not served, and what is answered: NOT_READY in P2, UNMAPPED, zeros above the stack
space, or the partition check (R260). `zero` is the answer of a read that yields no data. -/
def refused (n : Nat) (sp : Space) (o len : Nat) (cpl : Nat → List Byte → Act) : Act := fun s =>
  let a := match sp with
    | .ring => s.ringWin n o
    | _ => some o
  if s.pstate = 2 then seqA [bump F.TRL_WIN_ERR_NOTRDY n 1, cpl 3 []] s
  else match a with
    | none => seqA [bump F.TRL_WIN_ERR_UNMAP n 1, cpl 1 []] s
    | some a =>
      if 0x018000000000 ≤ a then cpl 0 (List.replicate len 0) s
      else seqA [stkViol (s.owner a) (s.portPart n) a, cpl 0 (List.replicate len 0)] s

/-- R422: an access of port n to a tile's window that its partition may not reach: counted at the tile's die. -/
def State.tileReach (s : State) (n : Nat) (t : TileId) : Bool := s.reaches (s.portPart n) (some n) (s.part t.d.val)

/-- A read of tile SRAM through the window (R259); other than aligned 64 bits its bytes are free (R286). -/
def readTile (n o len tag : Nat) : Act := fun s =>
  let a := 0x020000000000 + o
  let zero := traisSend n (.cpl tag 0 (List.replicate len 0))
  match target a with
  | .sram t _ =>
    if s.tileReach n t = false then seqA [stkViol t.d.val (s.portPart n) a, zero] s
    else if len = 8 ∧ o % 8 = 0 then traisSend n (.cpl tag 0 (s.bytes a 8)) s
    else seqA [draw, traisSend n (.cpl tag 0 ((List.range len).map (Config.freeByte s.free)))] s
  | _ => zero s

/-- A write of tile SRAM through the window; other than aligned 64 bits it leaves free bytes in the words it touches (R286). -/
def writeTile (n o : Nat) (bs : List Byte) : Act := fun s =>
  let a := 0x020000000000 + o
  match target a with
  | .sram t _ =>
    if s.tileReach n t = false then stkViol t.d.val (s.portPart n) a s
    else if bs.length = 8 ∧ o % 8 = 0 then putBytes a bs s
    else
      let b := a / 8 * 8
      let e := min ((a + bs.length + 7) / 8 * 8) (sramBase t + 0x8000)
      seqA [draw, putBytes b ((List.range (e - b)).map (Config.freeByte s.free))] s
  | _ => []

/-- A request that no snoop holds back takes effect. A request for the host's own memory (SPACE 3) names nothing of the part: a read
completes UNMAPPED, a write is discarded (DESIGN CHOICE, log entry 64). -/
def serveReq (n : Fin 4) : HostReq → Act
  | .rd .reg o len tag => fun s =>
    if len ≠ 8 ∨ o % 8 ≠ 0 then seqA [bump F.TRL_WIN_ERR_ALIGN n.val 1, traisSend n.val (.cpl tag 4 [])] s
    else match s.regWin n.val o with
      | some a => hostRead n a (fun v => traisSend n.val (.cpl tag 0 (leBytes 8 v.toNat))) s
      | none => traisSend n.val (.cpl tag 0 (leBytes 8 0)) s
  | .rd .tile o len tag => readTile n.val o len tag
  | .rd .host _ _ tag => traisSend n.val (.cpl tag 1 [])
  | .rd sp o len tag => fun s =>
    match s.reqAddr n.val sp o len with
    | some a => cplMem n.val tag a len skip s
    | none => refused n.val sp o len (fun st bs => traisSend n.val (.cpl tag st bs)) s
  | .wr .reg o bs => fun s =>
    if bs.length ≠ 8 ∨ o % 8 ≠ 0 then bump F.TRL_WIN_ERR_ALIGN n.val 1 s
    else forOpt (s.regWin n.val o) (fun a => hostWrite (.port n) a (BitVec.ofNat 64 (leNat bs))) s
  | .wr .tile o bs => writeTile n.val o bs
  | .wr .host _ _ => skip
  | .wr sp o bs => fun s =>
    match s.reqAddr n.val sp o bs.length with
    | some a => storeBytes true a bs s
    | none => refused n.val sp o bs.length (fun _ _ => skip) s
  | .rdS o tag => fun s =>
    match s.reqAddr n.val .ring o 64 with
    | some a => cplMem n.val tag (a / 64 * 64) 64 (grant n.val (a / 64) false) s
    | none => refused n.val .ring o 64 (fun st bs => traisSend n.val (.cpl tag st bs)) s
  | .rdE o tag => fun s =>
    match s.reqAddr n.val .ring o 64 with
    | some a => cplMem n.val tag (a / 64 * 64) 64 (grant n.val (a / 64) true) s
    | none => refused n.val .ring o 64 (fun st bs => traisSend n.val (.cpl tag st bs)) s
  | .remap k v => writeReg .trl n.val (0x200 + 8 * k) v

/-- R421, R424: serve the requests that wait at port n in order, until one needs snoops, which are sent. -/
def pumpHeld (n : Fin 4) : Nat → Act
  | 0 => skip
  | k + 1 => fun s =>
    match (s.port n.val).held with
    | [] => []
    | r :: _ =>
      let l := s.reqSnoops n.val r
      if l.isEmpty then
        seqA [modPort n.val fun p => { p with held := p.held.tail }, serveReq n r, pumpHeld n k] s
      else forA l (fun x => whenA (fun s => !s.snooping x.1 x.2.1) (sendSnoop x.1 x.2.1 x.2.2)) s

/-- Every port's waiting requests, and the DMA completions that wait, are tried again. -/
def pumpAll : Act := seqA [forA (List.finRange 4) fun n => fun s => pumpHeld n (2 * (s.port n.val).held.length + 1) s, dmaRetry]

/-- A request arrives at port n, while it is UP. -/
def takeReq (n : Fin 4) (r : HostReq) : Act :=
  whenA (fun s => s.fld F.TRL_LNK_STS_STATE n.val == 2)
    (seqA [modPort n.val fun p => { p with held := p.held ++ [r] }, pumpAll])

/-! ## The commands -/

/-- R11: the registers that a host error of a port may leave with an unpredictable value: those of the die blocks SCH_, PAS_, CAL_ and CHK_
of its own partition but the partition reset. Elsewhere nothing happens: no security or debug state, power, reset, range or ring
window of the part, and nothing of another partition, is within its reach. -/
def State.mayGarble (s : State) (src : Src) (addr : Nat) : Bool :=
  match target addr with
  | .reg b i off => (b == .sch || b == .pas || b == .cal || b == .chk) && off != 0x400 && s.srcPart src == some (s.part i)
  | _ => false

/-- R9: a host write of a register. Other than aligned, it is a host error: nothing happens, or a register that R11 leaves open takes a
free value (R6, R13). -/
def execRegisterWrite (src : Src) (addr : BitVec 48) (v : Word) (s : State) : Host.Outcome State Fault Refusal :=
  let a := addr.toNat
  runAct (seqA [if a % 8 = 0 then hostWrite src a v
    else seqA [draw, whenA (fun s' => Config.freeBool s.free && s'.mayGarble src (a / 8 * 8)) (hostWrite src (a / 8 * 8) (Config.freeWord s.free))], pumpAll]) s

/-- R419: an uncached read. -/
def execTraisRd (n : Fin 4) (sp : Space) (off : Word) (len : Nat) (tag : BitVec 16) (s : State) : Host.Outcome State Fault Refusal :=
  runAct (takeReq n (.rd sp off.toNat len tag.toNat)) s

/-- R419: a posted write. -/
def execTraisWr (n : Fin 4) (sp : Space) (off : Word) (data : List Byte) (s : State) : Host.Outcome State Fault Refusal :=
  runAct (takeReq n (.wr sp off.toNat data)) s

/-- R424: a read of a line for a shared copy. -/
def execTraisRdS (n : Fin 4) (off : Word) (tag : BitVec 16) (s : State) : Host.Outcome State Fault Refusal :=
  runAct (takeReq n (.rdS off.toNat tag.toNat)) s

/-- R424: a read of a line for an exclusive copy. -/
def execTraisRdE (n : Fin 4) (off : Word) (tag : BitVec 16) (s : State) : Host.Outcome State Fault Refusal :=
  runAct (takeReq n (.rdE off.toNat tag.toNat)) s

/-- R424, R425: a write-back: into the stream cache, the filter entry cleared; one whose snoop was not answered in time is
discarded. A write-back waits for nothing. -/
def execTraisWb (n : Fin 4) (off : Word) (data : List Byte) (s : State) : Host.Outcome State Fault Refusal :=
  let n := n.val
  runAct (fun s =>
    if s.fld F.TRL_LNK_STS_STATE n ≠ 2 then []
    else match s.reqAddr n .ring off.toNat 64 with
      | none => refused n .ring off.toNat 64 (fun _ _ => skip) s
      | some a =>
        let line := a / 64
        if (s.port n).dropWb.contains line then modPort n (fun p => { p with dropWb := p.dropWb.filter fun l => l != line }) s
        else seqA [storeLine line data, modEntry line fun e => { e with ports := e.ports.filter fun m => m != n }, pumpAll] s) s

/-- R424: the host answers a snoop. -/
def execTraisSnpRsp (n : Fin 4) (tag : BitVec 16) (data : Option (List Byte)) (s : State) : Host.Outcome State Fault Refusal :=
  runAct (fun s =>
    match (s.port n.val).snoops.find? fun x => x.tag == tag.toNat with
    | none => []
    | some x => seqA [snoopAnswered n.val x data, pumpAll] s) s

/-- R425: a snoop is not answered within SNP_TMO. -/
def execSnoopTimeout (n : Fin 4) (tag : BitVec 16) (s : State) : Host.Outcome State Fault Refusal :=
  runAct (fun s =>
    match (s.port n.val).snoops.find? fun x => x.tag == tag.toNat with
    | none => []
    | some x => if (s.mile - x.sent).toNat < 1000 * max 1 (s.fld F.TRL_CFG_SNP_TMO n.val) then []
      else seqA [snoopLost n.val x, pumpAll] s) s

/-- R429: a write of TRL_RWINk. -/
def hostRingWindowRemap (src : Src) (n : Fin 4) (k : Fin 16) (v : Word) : Act := hostRemap src n.val k.val v

/-- RingWindowRemap: the command of its row. -/
def execRingWindowRemap (src : Src) (n : Fin 4) (k : Fin 16) (v : Word) (s : State) : Host.Outcome State Fault Refusal :=
  runAct (seqA [hostRingWindowRemap src n k v, pumpAll]) s

/-! ## The port (R415–R417, R429) -/

/-- R417: port n trains: no signal, no lane in lock and no common revision leave it DOWN, with CAUSE; else it comes UP at the lanes
in lock, CREDIT_INIT goes out, and pending events follow. -/
def execTraisTrain (n : Fin 4) (i : TrainInfo) (s : State) : Host.Outcome State Fault Refusal :=
  let n := n.val
  runAct (fun s =>
    if s.power.rails = false ∨ s.fld F.TRL_LNK_STS_STATE n = 2 then []
    else if i.signal = false then seqA [setF F.TRL_LNK_STS_STATE n 0, setF F.TRL_LNK_STS_CAUSE n 1] s
    else if i.lock = false ∨ i.lanes = 0 then seqA [setF F.TRL_LNK_STS_STATE n 0, setF F.TRL_LNK_STS_CAUSE n 2] s
    else if i.revMax = 0 ∨ 1 < i.revMin.toNat then seqA [setF F.TRL_LNK_STS_STATE n 0, setF F.TRL_LNK_STS_CAUSE n 4] s
    else
      let p := s.port n
      seqA [setF F.TRL_LNK_STS_STATE n 2, setF F.TRL_LNK_STS_CAUSE n 0, setF F.TRL_LNK_STS_REV n 1, setF F.TRL_LNK_STS_LANES n i.lanes.toNat,
        modPort n fun p => { p with txSeq := (p.txSeq + 1) % 4096, kept := (p.kept ++ [traisCredit p.txSeq p.rxSeq]).drop (p.kept.length - 1023) },
        emit (.traisFlits n [traisCredit p.txSeq p.rxSeq]), forA (List.range 128) fun v => pendOut n v] s) s

/-- R429: a port goes DOWN and trains again, by replays (CAUSE 3) or loss of lock (CAUSE 2). -/
def portDown (n : Nat) (replay : Bool) : Act :=
  whenA (fun s => s.fld F.TRL_LNK_STS_STATE n == 2) (seqA [portOff n 1 (if replay then 3 else 2), pumpAll])

/-- R416, R429: a port goes DOWN. -/
def execTraisPortDown (n : Fin 4) (replay : Bool) (s : State) : Host.Outcome State Fault Refusal := runAct (portDown n.val replay) s

/-- A message type that R419 reserves, or that the host never sends. -/
def badType (t : Nat) : Bool := t == 0 || t == 6 || decide (10 < t)

/-- Of the n messages packed in a payload (R418), those with a reserved MTYPE or SPACE. Write-backs, writes and answers carry data. -/
def badMsgs : Nat → List Byte → Nat
  | 0, _ => 0
  | n + 1, l =>
    let t := leAt l 0 1
    let d := if t = 2 ∨ t = 5 ∨ t = 7 ∨ t = 10 then (leAt l 2 1 + 15) / 16 * 16 else 0
    (if badType t || decide (4 < leAt l 1 1) then 1 else 0) + badMsgs n (l.drop (16 + d))

/-- What a flit received intact in order, or one without SEQ, says of the other direction: acknowledgement, replay asked for,
credits returned; the sixteenth NAK of one flit takes the port DOWN (R415, R416). -/
def flitBack (n : Nat) (f : TraisFlit) : Act := fun s =>
  let p := s.port n
  let a := f.ack.toNat
  let resend := p.kept.filter fun q => (q.seq.toNat + 4096 - (a + 1) % 4096) % 4096 < 2048
  let c := if f.nak ∧ resend.isEmpty = false then (if resend.length = p.kept.length then p.txNaks + 1 else 1)
    else if resend.length = p.kept.length then p.txNaks else 0
  seqA [modPort n fun p => { p with
      kept := resend, txNaks := c
      credits := if f.crCls.val < 3 then SMap.set noCr p.credits f.crCls.val (SMap.get noCr p.credits f.crCls.val + f.crCnt.toNat) else p.credits },
    whenA (fun _ => f.nak && !resend.isEmpty) (seqA [bump F.TRL_REPLAY_COUNT n resend.length, emit (.traisFlits n resend)]),
    if 16 ≤ c then portDown n true else pumpPort n] s

/-- The receiver asks for a replay, once until the flit arrives; after 16 for one flit the port goes DOWN (R416). -/
def askReplay (n : Nat) : Act := fun s =>
  let p := s.port n
  if 15 ≤ p.naks then portDown n true s
  else seqA [modPort n fun p => { p with nakked := true, naks := p.naks + 1 }, emit (.traisFlits n [traisIdle p.rxSeq true])] s

/-- R415, R416: a flit arrives on port n. Each valid message of a DATA flit takes effect by the command of its own row. -/
def execTraisFlitReceive (n : Fin 4) (f : TraisFlit) (s : State) : Host.Outcome State Fault Refusal :=
  let n := n.val
  runAct (fun s =>
    let p := s.port n
    if s.fld F.TRL_LNK_STS_STATE n ≠ 2 then []
    else seqA [bump F.TRL_ERR_CORR n f.corr,
      if f.uncorr ∨ f.crc ≠ traisSum f then
        seqA [whenA (fun _ => f.uncorr) (bump F.TRL_REPLAY_UNCORR n 1), whenA (fun _ => !f.uncorr) (bump F.TRL_ERR_CRC n 1), askReplay n]
      else
        let numbered := f.ftype = 1 ∨ (f.ftype = 2 ∧ f.lsub = 2)
        if ¬numbered then flitBack n f
        else if f.seq.toNat = (p.rxSeq + 1) % 4096 then
          seqA [modPort n fun p => { p with rxSeq := f.seq.toNat, nakked := false, naks := 0 }, flitBack n f,
            whenA (fun _ => f.ftype == 1) (bump F.TRL_ERR_PROTO n (badMsgs f.nmsg.toNat f.data)), emit (.traisFlits n [traisIdle f.seq.toNat false])]
        else if (p.rxSeq + 4096 - f.seq.toNat) % 4096 < 1024 then emit (.traisFlits n [traisIdle p.rxSeq false])
        else if p.nakked then skip
        else seqA [bump F.TRL_ERR_CRC n 1, askReplay n]] s) s

end Sys2Proof.Machine
end

