-- ==== Sys2Proof/Machine/Clock.lean ====
section
/-!
DEFINITION. The part's own clock: one cycle of the MILE domain (1 ns), in which the milestone counter advances (R380), power-on
seconds count (R447), and each die's firing credit grows (R475).
-/
namespace Sys2Proof.Machine

/-- What the milestone counter advances by in a cycle, and the correction left: one increment in 1,000 is skipped or doubled while a
correction stands; before LOCK was ever set the counter pauses instead (R380). -/
def mileStep (m : Mile) (cycle : Nat) : Nat × Int :=
  if m.slew = 0 then (1, 0)
  else if m.everLocked = false ∧ m.slew < 0 then (0, m.slew + 1)
  else if cycle % 1000 ≠ 0 then (1, m.slew)
  else if m.slew < 0 then (0, m.slew + 1) else (2, m.slew - 1)

/-- The credit of a die after a MILE cycle, 2.5 ARITH cycles, in fJ: 1/64 of the effective allotment for each ARITH cycle, at most
4 × the effective allotment; a firing unit is 4.2 nJ (R85, R475). -/
def creditStep (eff : Nat) (c : Int) : Int := min (4 * eff * 4200000) (c + eff * 4200000 * 5 / 128)

/-- The milestone counter of one cycle. -/
def mileTick : Act := fun s =>
  let x := mileStep s.milestone s.posNs
  seqA [eff fun s => .mile (s.mile + BitVec.ofNat 64 x.1), modMile fun m => { m with slew := x.2 }] s

/-- A power-on second is 10^9 cycles. -/
def secondTick : Act := fun s =>
  if s.posNs + 1 = 1000000000 then seqA [eff fun _ => .posNs 0, modNvm fun n => { n with pos := (n.pos + 1) % 2 ^ 32 }] s
  else [.posNs (s.posNs + 1)]

/-- The credits of the dies that have an allotment or owe one. -/
def creditTick : Act := fun s =>
  forA (allDies.filter fun d => s.fld (F.PWR_DIE_EFF.nth d) 0 != 0 || (s.die d).credit != 0) (fun d =>
    modDie d fun x => { x with credit := creditStep (s.fld (F.PWR_DIE_EFF.nth d) 0) x.credit }) s

/-- One cycle of the MILE domain, on the auxiliary supply; credits grow while the rails are on. -/
def tick : Act := fun s =>
  if s.power.vaux = false then [] else seqA [mileTick, secondTick, whenA (fun s => s.power.rails && !s.power.gated) creditTick] s

end Sys2Proof.Machine
end

