-- ==== Sys2Proof/Machine/Dispatch.lean ====
section
/-!
DEFINITION. The meaning of every command: one arm per row of the table of operations and events.
-/
namespace Sys2Proof.Machine

def exec (i : Instr) (s : State) : Host.Outcome State Fault Refusal :=
  match i with
  | .registerWrite src addr v => Sys2Proof.Machine.execRegisterWrite src addr v s
  | .recipeUpdate src d v => Sys2Proof.Machine.execRecipeUpdate src d v s
  | .recipeApply d idx => Sys2Proof.Machine.execRecipeApply d idx s
  | .flagWindowEnd d => Sys2Proof.Machine.execFlagWindowEnd d s
  | .fmtCntClear src d v => Sys2Proof.Machine.execFmtCntClear src d v s
  | .arrCntClear src t v => Sys2Proof.Machine.execArrCntClear src t v s
  | .nop c w => Sys2Proof.Machine.execNop c w s
  | .ldi c a imm => Sys2Proof.Machine.execLdi c a imm s
  | .add c a b imm => Sys2Proof.Machine.execAdd c a b imm s
  | .sub c a b imm => Sys2Proof.Machine.execSub c a b imm s
  | .and c a b imm => Sys2Proof.Machine.execAnd c a b imm s
  | .or c a b imm => Sys2Proof.Machine.execOr c a b imm s
  | .shl c a b imm => Sys2Proof.Machine.execShl c a b imm s
  | .shr c a b imm => Sys2Proof.Machine.execShr c a b imm s
  | .ld c a b imm ecc => Sys2Proof.Machine.execLd c a b imm ecc s
  | .st c a b imm => Sys2Proof.Machine.execSt c a b imm s
  | .bz c a imm => Sys2Proof.Machine.execBz c a imm s
  | .bnz c a imm => Sys2Proof.Machine.execBnz c a imm s
  | .jmp c imm => Sys2Proof.Machine.execJmp c imm s
  | .wait c imm => Sys2Proof.Machine.execWait c imm s
  | .mvm c a => Sys2Proof.Machine.execMvm c a s
  | .mvmComplete c => Sys2Proof.Machine.execMvmComplete c s
  | .opass c a => Sys2Proof.Machine.execOpass c a s
  | .opassComplete c => Sys2Proof.Machine.execOpassComplete c s
  | .accClearAddMvm c bank => Sys2Proof.Machine.execAccClearAddMvm c bank s
  | .accAddMvm c bank => Sys2Proof.Machine.execAccAddMvm c bank s
  | .accAddOpass c bank => Sys2Proof.Machine.execAccAddOpass c bank s
  | .accAddPsum c bank => Sys2Proof.Machine.execAccAddPsum c bank s
  | .accAddSpill c bank => Sys2Proof.Machine.execAccAddSpill c bank s
  | .rq c bank outb => Sys2Proof.Machine.execRq c bank outb s
  | .send c outb route => Sys2Proof.Machine.execSend c outb route s
  | .psum c bank route => Sys2Proof.Machine.execPsum c bank route s
  | .injectionComplete c => Sys2Proof.Machine.execInjectionComplete c s
  | .spill c a => Sys2Proof.Machine.execSpill c a s
  | .spillDone d ecc => Sys2Proof.Machine.execSpillDone d ecc s
  | .done c => Sys2Proof.Machine.execDone c s
  | .fail c code => Sys2Proof.Machine.execFail c code s
  | .sequencerWatchdog c => Sys2Proof.Machine.execSequencerWatchdog c s
  | .outCntClear src t v => Sys2Proof.Machine.execOutCntClear src t v s
  | .partialSumArrival c handle expert blks => Sys2Proof.Machine.execPartialSumArrival c handle expert blks s
  | .nocFlitReceive r p f => Sys2Proof.Machine.execNocFlitReceive r p f s
  | .nocReplay r p ack => Sys2Proof.Machine.execNocReplay r p ack s
  | .d2dChannelDown d edge k => Sys2Proof.Machine.execD2dChannelDown d edge k s
  | .meshLinkDown r p => Sys2Proof.Machine.execMeshLinkDown r p s
  | .packetRoute r p k => Sys2Proof.Machine.execPacketRoute r p k s
  | .mcHoldExpiry r p tree part => Sys2Proof.Machine.execMcHoldExpiry r p tree part s
  | .unicastHoldExpiry r p part => Sys2Proof.Machine.execUnicastHoldExpiry r p part s
  | .mcHold d part => Sys2Proof.Machine.execMcHold d part s
  | .marker t tree part => Sys2Proof.Machine.execMarker t tree part s
  | .markerAck t tree part => Sys2Proof.Machine.execMarkerAck t tree part s
  | .imageLoad src d v => Sys2Proof.Machine.execImageLoad src d v s
  | .imageCheck src d v => Sys2Proof.Machine.execImageCheck src d v s
  | .imageUnload src d v => Sys2Proof.Machine.execImageUnload src d v s
  | .unloadDrainExpiry part => Sys2Proof.Machine.execUnloadDrainExpiry part s
  | .imageChecksDone part => Sys2Proof.Machine.execImageChecksDone part s
  | .bindDone part sliceAgrees allMatch rank pol wrapOk caps => Sys2Proof.Machine.execBindDone part sliceAgrees allMatch rank pol wrapOk caps s
  | .sliceBindTimeout part rank => Sys2Proof.Machine.execSliceBindTimeout part rank s
  | .loadReady part => Sys2Proof.Machine.execLoadReady part s
  | .forbidSet src d v => Sys2Proof.Machine.execForbidSet src d v s
  | .forbidClear src d v => Sys2Proof.Machine.execForbidClear src d v s
  | .rebindSpareReady t => Sys2Proof.Machine.execRebindSpareReady t s
  | .admissionDoorbell src d v => Sys2Proof.Machine.execAdmissionDoorbell src d v s
  | .openEntry d => Sys2Proof.Machine.execOpenEntry d s
  | .feed d => Sys2Proof.Machine.execFeed d s
  | .close d => Sys2Proof.Machine.execClose d s
  | .cancel d => Sys2Proof.Machine.execCancel d s
  | .commandForward d from_ op handle nFeed => Sys2Proof.Machine.execCommandForward d from_ op handle nFeed s
  | .completionHeadWrite src d v => Sys2Proof.Machine.execCompletionHeadWrite src d v s
  | .ringBaseWrite src d completion v => Sys2Proof.Machine.execRingBaseWrite src d completion v s
  | .ptBaseWrite src d v => Sys2Proof.Machine.execPtBaseWrite src d v s
  | .peekWrite src d v => Sys2Proof.Machine.execPeekWrite src d v s
  | .passageCacheFill d idx ecc => Sys2Proof.Machine.execPassageCacheFill d idx ecc s
  | .arrivalReport d idx stage rep => Sys2Proof.Machine.execArrivalReport d idx stage rep s
  | .batchClose d stage rep => Sys2Proof.Machine.execBatchClose d stage rep s
  | .batchWaitExpiry d stage rep => Sys2Proof.Machine.execBatchWaitExpiry d stage rep s
  | .workDispatch d stage rep => Sys2Proof.Machine.execWorkDispatch d stage rep s
  | .stepComplete d idx result => Sys2Proof.Machine.execStepComplete d idx result s
  | .admissionStop d => Sys2Proof.Machine.execAdmissionStop d s
  | .admissionStopLift part => Sys2Proof.Machine.execAdmissionStopLift part s
  | .deadlinePass d idx => Sys2Proof.Machine.execDeadlinePass d idx s
  | .routerScores d stage rep idx segs => Sys2Proof.Machine.execRouterScores d stage rep idx segs s
  | .capacityEmptyBatch d stage rep => Sys2Proof.Machine.execCapacityEmptyBatch d stage rep s
  | .expertCount d idx stage decrement n => Sys2Proof.Machine.execExpertCount d idx stage decrement n s
  | .entryPointInject d stage rep seg => Sys2Proof.Machine.execEntryPointInject d stage rep seg s
  | .exitTest d stage rep idx seg => Sys2Proof.Machine.execExitTest d stage rep idx seg s
  | .histFlush d => Sys2Proof.Machine.execHistFlush d s
  | .expCntClear src d v => Sys2Proof.Machine.execExpCntClear src d v s
  | .stackRequest part d bulk addr op err => Sys2Proof.Machine.execStackRequest part d bulk addr op err s
  | .lineFill d addr ecc => Sys2Proof.Machine.execLineFill d addr ecc s
  | .prefetchHint d addr bytes => Sys2Proof.Machine.execPrefetchHint d addr bytes s
  | .prefetchDrop d addr => Sys2Proof.Machine.execPrefetchDrop d addr s
  | .trackerRelease d k => Sys2Proof.Machine.execTrackerRelease d k s
  | .windowOwnerChange k base limit owner => Sys2Proof.Machine.execWindowOwnerChange k base limit owner s
  | .scrubPass n corrected uncorr => Sys2Proof.Machine.execScrubPass n corrected uncorr s
  | .stkCntClear src d v => Sys2Proof.Machine.execStkCntClear src d v s
  | .tierWork d k prio stage arr idx segs => Sys2Proof.Machine.execTierWork d k prio stage arr idx segs s
  | .tierArrayDone d r => Sys2Proof.Machine.execTierArrayDone d r s
  | .nvmeCompletion part shard off status data => Sys2Proof.Machine.execNvmeCompletion part shard off status data s
  | .nvmeTimeout part shard => Sys2Proof.Machine.execNvmeTimeout part shard s
  | .rdmaConnectionLost part shard => Sys2Proof.Machine.execRdmaConnectionLost part shard s
  | .upstreamTimeout part shard => Sys2Proof.Machine.execUpstreamTimeout part shard s
  | .forwardedRecord part shard k peer data => Sys2Proof.Machine.execForwardedRecord part shard k peer data s
  | .sstatWrite src v => Sys2Proof.Machine.execSstatWrite src v s
  | .ldrCntClear src v => Sys2Proof.Machine.execLdrCntClear src v s
  | .programStart d => Sys2Proof.Machine.execProgramStart d s
  | .programDone t weightOut checkOut => Sys2Proof.Machine.execProgramDone t weightOut checkOut s
  | .retainedVerifyDone t weightOut checkOut => Sys2Proof.Machine.execRetainedVerifyDone t weightOut checkOut s
  | .swapStart src v => Sys2Proof.Machine.execSwapStart src v s
  | .swapAbort src v => Sys2Proof.Machine.execSwapAbort src v s
  | .swapLandedReport part rank failed => Sys2Proof.Machine.execSwapLandedReport part rank failed s
  | .swapFlip part => Sys2Proof.Machine.execSwapFlip part s
  | .lowWaveReport part rank lw => Sys2Proof.Machine.execLowWaveReport part rank lw s
  | .waveClear part w => Sys2Proof.Machine.execWaveClear part w s
  | .oldLimitExpiry part => Sys2Proof.Machine.execOldLimitExpiry part s
  | .checkerHardReport t => Sys2Proof.Machine.execCheckerHardReport t s
  | .secondOpinionDone t result => Sys2Proof.Machine.execSecondOpinionDone t result s
  | .softReport d => Sys2Proof.Machine.execSoftReport d s
  | .unitHistoryRecord unit kind flags stage handle detail => Sys2Proof.Machine.execUnitHistoryRecord unit kind flags stage handle detail s
  | .testRunStart t pat => Sys2Proof.Machine.execTestRunStart t pat s
  | .testRunDone t pass => Sys2Proof.Machine.execTestRunDone t pass s
  | .sensorSample unit sns reading => Sys2Proof.Machine.execSensorSample unit sns reading s
  | .sampleDelivery d => Sys2Proof.Machine.execSampleDelivery d s
  | .calDemand src d v => Sys2Proof.Machine.execCalDemand src d v s
  | .calPeriodDue t => Sys2Proof.Machine.execCalPeriodDue t s
  | .calEngage d => Sys2Proof.Machine.execCalEngage d s
  | .calPassDone t => Sys2Proof.Machine.execCalPassDone t s
  | .calGapExpiry d stage rep => Sys2Proof.Machine.execCalGapExpiry d stage rep s
  | .linkTrain n info => Sys2Proof.Machine.execLinkTrain n info s
  | .bfpFlitReceive n f => Sys2Proof.Machine.execBfpFlitReceive n f s
  | .bfpReplay n ack => Sys2Proof.Machine.execBfpReplay n ack s
  | .shareRegrant src n e v => Sys2Proof.Machine.execShareRegrant src n e v s
  | .bfpPacketArrive n k => Sys2Proof.Machine.execBfpPacketArrive n k s
  | .sliceSet src v => Sys2Proof.Machine.execSliceSet src v s
  | .sliceClear src v => Sys2Proof.Machine.execSliceClear src v s
  | .milestoneSync n t1 t2 t3 t4 depth => Sys2Proof.Machine.execMilestoneSync n t1 t2 t3 t4 depth s
  | .parentLost => Sys2Proof.Machine.execParentLost s
  | .lockLoss => Sys2Proof.Machine.execLockLoss s
  | .ethLinkChange n up => Sys2Proof.Machine.execEthLinkChange n up s
  | .collectiveContribution coll job handle step piece acc blk => Sys2Proof.Machine.execCollectiveContribution coll job handle step piece acc blk s
  | .collectivePacket coll job handle step round dim neg gather piece fmt blks => Sys2Proof.Machine.execCollectivePacket coll job handle step round dim neg gather piece fmt blks s
  | .collectiveTimeout coll job handle step => Sys2Proof.Machine.execCollectiveTimeout coll job handle step s
  | .barrierGo src v => Sys2Proof.Machine.execBarrierGo src v s
  | .arrive job origin mile lock num => Sys2Proof.Machine.execArrive job origin mile lock num s
  | .release job mile code num => Sys2Proof.Machine.execRelease job mile code num s
  | .barrierReleaseTime part => Sys2Proof.Machine.execBarrierReleaseTime part s
  | .barrierTimeout part => Sys2Proof.Machine.execBarrierTimeout part s
  | .quadFail n q => Sys2Proof.Machine.execQuadFail n q s
  | .linkDead n cause => Sys2Proof.Machine.execLinkDead n cause s
  | .abort n job cause link origin => Sys2Proof.Machine.execAbort n job cause link origin s
  | .traisTrain n info => Sys2Proof.Machine.execTraisTrain n info s
  | .traisFlitReceive n f => Sys2Proof.Machine.execTraisFlitReceive n f s
  | .traisPortDown n replay => Sys2Proof.Machine.execTraisPortDown n replay s
  | .traisRd n sp off len tag => Sys2Proof.Machine.execTraisRd n sp off len tag s
  | .traisWr n sp off data => Sys2Proof.Machine.execTraisWr n sp off data s
  | .traisRdS n off tag => Sys2Proof.Machine.execTraisRdS n off tag s
  | .traisRdE n off tag => Sys2Proof.Machine.execTraisRdE n off tag s
  | .traisWb n off data => Sys2Proof.Machine.execTraisWb n off data s
  | .traisSnpRsp n tag data => Sys2Proof.Machine.execTraisSnpRsp n tag data s
  | .traisCpl n tag status data => Sys2Proof.Machine.execTraisCpl n tag status data s
  | .traisSnpInv n addr tag => Sys2Proof.Machine.execTraisSnpInv n addr tag s
  | .traisSnpRcl n addr tag => Sys2Proof.Machine.execTraisSnpRcl n addr tag s
  | .snoopTimeout n tag => Sys2Proof.Machine.execSnoopTimeout n tag s
  | .eventRaise v data => Sys2Proof.Machine.execEventRaise v data s
  | .eventHoldoffExpiry n v => Sys2Proof.Machine.execEventHoldoffExpiry n v s
  | .eventTableWrite src n v w => Sys2Proof.Machine.execEventTableWrite src n v w s
  | .ringWindowRemap src n k v => Sys2Proof.Machine.execRingWindowRemap src n k v s
  | .dmaRingWrite src d c v => Sys2Proof.Machine.execDmaRingWrite src d c v s
  | .dmaDoorbell src d c v => Sys2Proof.Machine.execDmaDoorbell src d c v s
  | .dmaDescriptor d c => Sys2Proof.Machine.execDmaDescriptor d c s
  | .dmaTransferDone d c status moved host => Sys2Proof.Machine.execDmaTransferDone d c status moved host s
  | .dmaBurstGap d c => Sys2Proof.Machine.execDmaBurstGap d c s
  | .dmaResume src d c v => Sys2Proof.Machine.execDmaResume src d c v s
  | .dmaAbort src d c v => Sys2Proof.Machine.execDmaAbort src d c v s
  | .keeperWatchdog => Sys2Proof.Machine.execKeeperWatchdog s
  | .keeperReturn => Sys2Proof.Machine.execKeeperReturn s
  | .logRecord cls sev code unit part job handle detail => Sys2Proof.Machine.execLogRecord cls sev code unit part job handle detail s
  | .mbxRead src v => Sys2Proof.Machine.execMbxRead src v s
  | .mbxWrite src v => Sys2Proof.Machine.execMbxWrite src v s
  | .mbxCommit src v => Sys2Proof.Machine.execMbxCommit src v s
  | .mbxInfo src v => Sys2Proof.Machine.execMbxInfo src v s
  | .mbxWake src v => Sys2Proof.Machine.execMbxWake src v s
  | .mctpControl cmd data => Sys2Proof.Machine.execMctpControl cmd data s
  | .i3cCcc ccc data => Sys2Proof.Machine.execI3cCcc ccc data s
  | .pldmBase cmd data => Sys2Proof.Machine.execPldmBase cmd data s
  | .pldmPlatform cmd data => Sys2Proof.Machine.execPldmPlatform cmd data s
  | .pldmRequestUpdate => Sys2Proof.Machine.execPldmRequestUpdate s
  | .pldmFirmwareData off data => Sys2Proof.Machine.execPldmFirmwareData off data s
  | .pldmActivateFirmware => Sys2Proof.Machine.execPldmActivateFirmware s
  | .pldmCancelUpdate => Sys2Proof.Machine.execPldmCancelUpdate s
  | .pldmOem op obj off len data => Sys2Proof.Machine.execPldmOem op obj off len data s
  | .monEnable src v => Sys2Proof.Machine.execMonEnable src v s
  | .monStartupDone => Sys2Proof.Machine.execMonStartupDone s
  | .monConversionDone v => Sys2Proof.Machine.execMonConversionDone v s
  | .monDelayExpiry => Sys2Proof.Machine.execMonDelayExpiry s
  | .injSw src v => Sys2Proof.Machine.execInjSw src v s
  | .monInjectedTrigger cause => Sys2Proof.Machine.execMonInjectedTrigger cause s
  | .monFifoRead src => Sys2Proof.Machine.execMonFifoRead src s
  | .governorTick demand => Sys2Proof.Machine.execGovernorTick demand s
  | .overcurrentTrip current => Sys2Proof.Machine.execOvercurrentTrip current s
  | .overcurrentHoldEnd => Sys2Proof.Machine.execOvercurrentHoldEnd s
  | .pwrcapChange low => Sys2Proof.Machine.execPwrcapChange low s
  | .thermalStop unit sns => Sys2Proof.Machine.execThermalStop unit sns s
  | .stopDrainEnd => Sys2Proof.Machine.execStopDrainEnd s
  | .stopRailsOff => Sys2Proof.Machine.execStopRailsOff s
  | .hardwareCut unit sns => Sys2Proof.Machine.execHardwareCut unit sns s
  | .undervoltage v => Sys2Proof.Machine.execUndervoltage v s
  | .refclkLoss => Sys2Proof.Machine.execRefclkLoss s
  | .vauxRemoval => Sys2Proof.Machine.execVauxRemoval s
  | .powerReqP0 src v => Sys2Proof.Machine.execPowerReqP0 src v s
  | .powerReqP2 src v => Sys2Proof.Machine.execPowerReqP2 src v s
  | .p2DrainEnd drained => Sys2Proof.Machine.execP2DrainEnd drained s
  | .powerReqP3 src v => Sys2Proof.Machine.execPowerReqP3 src v s
  | .wakePin => Sys2Proof.Machine.execWakePin s
  | .stagePtab src v => Sys2Proof.Machine.execStagePtab src v s
  | .stageCfg src v => Sys2Proof.Machine.execStageCfg src v s
  | .stageDeploy src v => Sys2Proof.Machine.execStageDeploy src v s
  | .stageDecommission src v => Sys2Proof.Machine.execStageDecommission src v s
  | .stageProvision src v => Sys2Proof.Machine.execStageProvision src v s
  | .attest src v => Sys2Proof.Machine.execAttest src v s
  | .present src v => Sys2Proof.Machine.execPresent src v s
  | .revoke src v => Sys2Proof.Machine.execRevoke src v s
  | .newNonce src v => Sys2Proof.Machine.execNewNonce src v s
  | .debugOpen src v => Sys2Proof.Machine.execDebugOpen src v s
  | .tokenExpiry => Sys2Proof.Machine.execTokenExpiry s
  | .tapInstruction k => Sys2Proof.Machine.execTapInstruction k s
  | .piece src v => Sys2Proof.Machine.execPiece src v s
  | .activate src v => Sys2Proof.Machine.execActivate src v s
  | .cancelUpdate src v => Sys2Proof.Machine.execCancelUpdate src v s
  | .confirm src v => Sys2Proof.Machine.execConfirm src v s
  | .confirmExpiry => Sys2Proof.Machine.execConfirmExpiry s
  | .recover src v => Sys2Proof.Machine.execRecover src v s
  | .coldReset src cause v recovLow straps idOk => Sys2Proof.Machine.execColdReset src cause v recovLow straps idOk s
  | .warmReset src v => Sys2Proof.Machine.execWarmReset src v s
  | .partitionReset src d v => Sys2Proof.Machine.execPartitionReset src d v s
  | .bringupRailsEnable inputOk test => Sys2Proof.Machine.execBringupRailsEnable inputOk test s
  | .bringupReady test ms => Sys2Proof.Machine.execBringupReady test ms s
  | .swapCommandTimeout part => Sys2Proof.Machine.execSwapCommandTimeout part s
  | .noiseModelRefresh => Sys2Proof.Machine.execNoiseModelRefresh s
  | .fabricMcHoldExpiry n job tree => Sys2Proof.Machine.execFabricMcHoldExpiry n job tree s

end Sys2Proof.Machine
end

