-- ==== Sys2Proof/Safety.lean ====
section
/-!
DEFINITION. What a sound state of the model is: every sparse map in its canonical form, so that equal contents are equal data.
Claims about every state take it as a premise where a map that lists a key twice, or out of order, could read two ways.
-/
namespace Sys2Proof.Machine

/-- The canonical form of memory: addresses strictly rising, no byte listed that an unlisted address reads as. -/
def Memory.wf (m : SMap Byte) : Bool := SMap.wf memReset m

/-- The canonical form of the register file. -/
def Regs.wf (m : SMap Word) : Bool := SMap.wf regResetKey m

/-- Every map of the state is in canonical form. -/
def State.canon (s : State) : Bool :=
  Regs.wf s.regs && Memory.wf s.mem && SMap.wf (fun _ => Core.zero) s.cores && SMap.wf (fun _ => Cells.erased) s.cells &&
  SMap.wf (fun _ => Conv.zero) s.convs && SMap.wf (fun _ => Die.zero) s.dies && SMap.wf (fun _ => NocLink.zero) s.links &&
  SMap.wf (fun _ => ([] : List TreeEnt)) s.trees && SMap.wf (fun _ => (0 : Nat)) s.flitSel && SMap.wf (fun _ => Win.zero) s.wins &&
  SMap.wf (fun _ => Passage.zero) s.passages && SMap.wf (fun _ => Job.zero) s.jobs && SMap.wf (fun _ => Slice.zero) s.slices &&
  SMap.wf (fun _ => BfpLink.zero) s.bfp && SMap.wf (fun _ => TPort.zero) s.ports && SMap.wf (fun _ => ([] : List SfEnt)) s.snoopF &&
  SMap.wf (fun _ => Sensor.zero) s.sensors

/-! ## What a command leaves as it was -/

/-- Every register reads in t as in s, but those under the listed keys. -/
def RegsBut (l : List Nat) (s t : State) : Prop :=
  ∀ k, k ∉ l → SMap.get regResetKey t.regs k = SMap.get regResetKey s.regs k

/-- The key of an entry of a Trais port's event table (R428). -/
def evtKey (k : Nat) : Prop := ∃ n v : Nat, n < 4 ∧ v < 128 ∧ k = regKey .trl n (0x400 + 8 * v)

/-- Every register reads in t as in s, but those under the listed keys and the event tables of the Trais ports. -/
def RegsButEvt (l : List Nat) (s t : State) : Prop :=
  ∀ k, k ∉ l → ¬ evtKey k → SMap.get regResetKey t.regs k = SMap.get regResetKey s.regs k

/-- Every die, passage, port, sequencer or byte but those listed is in t as in s. -/
def DiesBut (l : List Nat) (s t : State) : Prop := ∀ d, d ∉ l → t.die d = s.die d
def PassagesBut (l : List Nat) (s t : State) : Prop := ∀ i, i ∉ l → t.passage i = s.passage i
def PortsBut (l : List Nat) (s t : State) : Prop := ∀ n, n ∉ l → t.port n = s.port n
def JobsBut (l : List Nat) (s t : State) : Prop := ∀ p, p ∉ l → t.job p = s.job p
def CoresBut (l : List CoreId) (s t : State) : Prop := ∀ c, c ∉ l → t.core c = s.core c
def BytesBut (a n : Nat) (s t : State) : Prop := ∀ x, x < a ∨ a + n ≤ x → t.byte x = s.byte x

/-- Nvm but the event log and the spare words a write takes (R451, R452). -/
def Nvm.sansLog (n : Nvm) : Nvm := { n with log := [], logSeq := 0, spare := 0, remap := 0, worn := false }

/-- What the log and the events to the host may change, beside the registers under the listed keys: Keeper NVM in its log and spare words alone, the Keeper's held and waiting
records, the dies' held records, the ports' queues, the free values drawn, what is sent, and the event tables. -/
def ButReports (l : List Nat) (s t : State) : Prop :=
  t = { s with regs := t.regs, nvm := t.nvm, keeper := t.keeper, dies := t.dies, ports := t.ports, free := t.free, out := t.out } ∧
  t.nvm.sansLog = s.nvm.sansLog ∧
  t.keeper = { s.keeper with kHold := t.keeper.kHold, kDropped := t.keeper.kDropped, evPending := t.keeper.evPending } ∧
  (∀ d, t.die d = { s.die d with logHold := (t.die d).logHold, logDropped := (t.die d).logDropped }) ∧
  RegsButEvt l s t

/-- A register access of a source that is admitted, to a block that is up (R23, R496). -/
def State.takes (s : State) (src : Src) (b : Blk) (i off : Nat) : Bool :=
  s.admits src true b i off && (!b.isKeeper || s.keeperUp)

/-- No Trais port holds a request back for snoops, and no DMA channel waits to write a completion (R424, R438). -/
def State.quiet (s : State) : Bool :=
  allPorts.all (fun n => (s.port n).held.isEmpty) &&
    allDies.all fun d => (s.dma d 0).ending.isNone && (s.dma d 1).ending.isNone

/-- Every sequencer but those listed is in t as in s, but for input segments that wait at its tile (R107). -/
def CoresButIns (l : List CoreId) (s t : State) : Prop := ∀ c, c ∉ l → t.core c = { s.core c with ins := (t.core c).ins }

/-- A die is as it was but for what its slices hold and fetch and the log records it holds. -/
def DieSlices (x y : Die) : Prop :=
  y = { x with cache := y.cache, trackers := y.trackers, lastMiss := y.lastMiss, missQ := y.missQ, pfQ := y.pfQ
               logHold := y.logHold, logDropped := y.logDropped }

/-- The key of a register of an STK_ block (R285). -/
def stkKey (k : Nat) : Prop := ∃ d off : Nat, k = regKey .stk d off

/-- What a unit's read of stack memory may change, beside the registers under the listed keys (R269–R271, R281): the slices' lines and
requests, the STK_ registers, and the reports of words found bad again. -/
def ButSlices (l : List Nat) (s t : State) : Prop :=
  t = { s with regs := t.regs, poison := t.poison, nvm := t.nvm, keeper := t.keeper, dies := t.dies, ports := t.ports, free := t.free, out := t.out } ∧
  (∀ w, w ∈ t.poison ↔ w ∈ s.poison) ∧ t.nvm.sansLog = s.nvm.sansLog ∧
  t.keeper = { s.keeper with kHold := t.keeper.kHold, kDropped := t.keeper.kDropped, evPending := t.keeper.evPending } ∧
  (∀ d, DieSlices (s.die d) (t.die d)) ∧
  ∀ k, k ∉ l → ¬ evtKey k → ¬ stkKey k → SMap.get regResetKey t.regs k = SMap.get regResetKey s.regs k

/-- Every die is in t as in s, but for the lines its slices hold. -/
def DiesButCache (s t : State) : Prop := ∀ d, t.die d = { s.die d with cache := (t.die d).cache }

/-- No change of routes waits for a batch boundary, and no rebind for a batch to end (R146, R173). -/
def State.steady (s : State) : Bool :=
  (List.range 16).all fun p => (s.job p).switches.isEmpty && (s.job p).rebinds.all fun b => b.due.isNone

/-- A sequencer executes: it is in RUN, and its clock runs (R107, R483). -/
def State.runs (s : State) (c : CoreId) : Bool := (s.core c).st == 1 && !s.power.gated

/-- It executes, and the next instruction exists (R111). -/
def State.goesOn (s : State) (c : CoreId) : Bool := s.runs c && decide ((s.core c).pc < 1023)

/-- From s to t, sequencer c alone changed, in sA, which holds v (s0 stays zero), and in its pc, which advanced (R106, R107). -/
def SregWritten (c : CoreId) (a : Nat) (v : Word32) (s t : State) : Prop :=
  (∀ n, n < 16 → (t.core c).sreg n = if n = a ∧ n ≠ 0 then v else (s.core c).sreg n) ∧
  t.core c = { s.core c with sregs := (t.core c).sregs, pc := (s.core c).pc + 1 } ∧ CoresBut [c] s t

/-- A passage has ended FAULTED with a status (R212, R223). -/
def State.faulted (s : State) (i status : Nat) : Prop := (s.passage i).st = 6 ∧ (s.passage i).status = status

end Sys2Proof.Machine
end

