-- ==== Sys2Proof/Certificates/Slice0/Obligations.lean ====
section
/-!
DEFINITION. The statements about the model, for the provers.
-/
open Sys2Proof Sys2Proof.Machine

/-! ## The queue, the clock, reset and the register space -/

/-- A step takes the command at the front of the queue and runs it on the state with the rest of the queue. -/
def Obligations.StepRunsFront : Prop :=
  ∀ (c : Instr) (r : List Instr) (s : State), step { s with pending := c :: r } = exec c { s with pending := r }

/-- With no command waiting, a step is one MILE cycle. Without VAUX nothing counts; with it the milestone counter advances by one where no
correction stands (R380), a power-on second ends after 10^9 cycles (R447), and nothing but the dies' firing credits moves beside. That a
tick takes the place of idling is the model's choice (log entry 1). -/
def Obligations.IdleStepIsOneCycle : Prop :=
  ∀ s : State, s.pending = [] →
    (s.power.vaux = false → step s = .next s) ∧
    (s.power.vaux = true → ∃ t, step s = .next t ∧
      (s.milestone.slew = 0 → t.mile = s.mile + 1) ∧
      (s.posNs + 1 = 1000000000 → t.posNs = 0 ∧ t.nvm.pos = (s.nvm.pos + 1) % 2 ^ 32) ∧
      (s.posNs + 1 ≠ 1000000000 → t.posNs = s.posNs + 1 ∧ t.nvm = s.nvm) ∧
      (s.power.rails = false → t.dies = s.dies) ∧
      t.nvm = { s.nvm with pos := t.nvm.pos } ∧
      t = { s with mile := t.mile, posNs := t.posNs, nvm := t.nvm, milestone := t.milestone, dies := t.dies })

/-- Whatever the command and the state, the machine goes on: no command ends in a fault or a refusal, none touches the queue, and what has
been sent stays sent. -/
def Obligations.EveryCommandGoesOn : Prop :=
  ∀ (c : Instr) (s : State), ∃ t, exec c s = .next t ∧ t.pending = s.pending ∧ s.out <+: t.out

/-- Reset leaves every map in its canonical form. At power-on reset every register holds the reset value of the register tables, partition 0
owns every die, Trais port, fabric link and granule and is the management partition (R495's default table), the rails are off, the
auxiliary supply is on, no array is programmed or bound, every passage is FREE, no port is UP, and nothing waits. Memory reads zero, which
is the model's choice (log entry 3). -/
def Obligations.ResetState : Prop :=
  (State.reset.canon = true) ∧
  ((∀ b i off, i < 1048576 → off < 65536 → State.reset.reg b i off = regReset b off) ∧
  (∀ a, State.reset.byte a = 0) ∧
  (∀ d, d < 32 → State.reset.part d = 0) ∧ (∀ n, n < 4 → State.reset.portPart n = 0) ∧ (∀ n, n < 12 → State.reset.linkPart n = 0) ∧
  (∀ g, g < 1536 → State.reset.granPart g = 0) ∧ State.reset.mgmt = 0 ∧
  State.reset.power.rails = false ∧ State.reset.power.vaux = true ∧ State.reset.pstate = 3 ∧
  (∀ t, State.reset.cell t = Cells.erased ∧ (State.reset.core (.tile t)).bound = none ∧ State.reset.arrState t = 0) ∧
  (∀ i, (State.reset.passage i).st = 0) ∧ (∀ n, n < 4 → State.reset.fld F.TRL_LNK_STS_STATE n = 0) ∧
  State.reset.pending = [] ∧ State.reset.out = [])

/-- Every step keeps every map of the state in its canonical form: keys strictly rising, none listed with what it reads as unlisted. So equal
contents are equal data after any run from any such state. -/
def Obligations.StepKeepsCanonicalForm : Prop :=
  ∀ s t : State, s.canon = true → step s = .next t → t.canon = true

/-- R10: an address of register space that no register occupies reads zero, a write to it is discarded, and neither raises an error: inside a
block's range (for a source that the partition check admits), and outside every block. Offset 0 of a block is its identity register (R15).
The registers that a partition's copies stand behind are meant as resolved. -/
def Obligations.UnoccupiedRegisterAddresses : Prop :=
  (∀ (s : State) (n : Fin 4) (addr : Nat) (k : Word → Act),
    (∀ b i off, target addr = .reg b i off → off ≠ 0 ∧ s.admits (.port n) false b i off = true ∧
      (∀ x, x = s.resolve (.port n) b i off → rowOf x.1 x.2.2 = none)) →
    (∃ b i off, target addr = .reg b i off) ∨ target addr = .nothing → hostRead n addr k s = k 0 s) ∧
  (∀ (s : State) (src : Src) (addr : BitVec 48) (v : Word), addr.toNat % 8 = 0 → s.quiet = true →
    (target addr.toNat = .nothing ∨ ∃ b i off, target addr.toNat = .reg b i off ∧
      (∀ x, x = s.resolve src b i off → s.admits src true x.1 x.2.1 x.2.2 = true ∧ rowOf x.1 x.2.2 = none)) →
    exec (.registerWrite src addr v) s = .next s)

/-- R9: a register write acts on each field by its access code, on registers whose write has no effect of its own (those of the checker,
calibration, port and Ethernet blocks): RW takes the value, W1C bits written 1 are cleared, W1S bits written 1 are set, and every other
field keeps its value. No other register and nothing else changes. R496: a register write that the partition check refuses changes no
register it names: it is counted in SEC_VIOL with the requester's partition and the block's type and logged, and nothing else happens.
Stated for the registers of the checker, calibration, port and Ethernet blocks, on no clear of a count. -/
def Obligations.RegisterWrites : Prop :=
  (∀ (s : State) (src : Src) (addr : BitVec 48) (v : Word) (b : Blk) (i off : Nat) (r : RegRow) (f : RegFld),
    s.canon = true → s.quiet = true → addr.toNat % 8 = 0 → target addr.toNat = .reg b i off →
    b ∈ [Blk.chk, .cal, .prt, .eth] → ¬ (b = .cal ∧ off = 0x110) → s.takes src b i off = true →
    rowOf b off = some r → f ∈ r.flds →
    ∃ t, exec (.registerWrite src addr v) s = .next t ∧
      bitsOf (t.reg b i off) f.hi f.lo = (match f.acc with
        | .rw => bitsOf v f.hi f.lo
        | .w1c | .rsw1c => bitsOf (s.reg b i off &&& ~~~v) f.hi f.lo
        | .w1s => bitsOf (s.reg b i off ||| v) f.hi f.lo
        | _ => bitsOf (s.reg b i off) f.hi f.lo) ∧
      RegsBut [regKey b i off] s t ∧ t = { s with regs := t.regs }) ∧
  (∀ (s : State) (n : Fin 4) (addr : BitVec 48) (v : Word) (b : Blk) (i off : Nat),
    s.canon = true → s.quiet = true → addr.toNat % 8 = 0 → target addr.toNat = .reg b i off →
    b ∈ [Blk.chk, .cal, .prt, .eth] → ¬ (b = .cal ∧ off = 0x110) → s.admits (.port n) true b i off = false →
    ∃ t, exec (.registerWrite (.port n) addr v) s = .next t ∧
      t.fld F.SEC_VIOL_COUNT 0 = min (s.fld F.SEC_VIOL_COUNT 0 + 1) F.SEC_VIOL_COUNT.top ∧
      t.fld F.SEC_VIOL_PART 0 = s.portPart n.val % 64 ∧ t.fld F.SEC_VIOL_TYPE 0 = b.code ∧
      t.reg b i off = s.reg b i off ∧
      ButReports [regKey .sec 0 F.SEC_VIOL_COUNT.off] s t)

/-! ## The tile sequencer -/

/-- R106, R107: NOP, LDI and the six ALU operations. In RUN, sA takes the result, s0 stays zero, the second operand is the register IMM[3:0]
with IMM[17] set and IMM[16:0] sign-extended otherwise, shifts use operand bits [4:0], the pc advances, and nothing else changes but the
count of a word corrected as it was fetched. -/
def Obligations.SequencerArithmetic : Prop :=
  ∀ (s : State) (c : CoreId) (a b : Fin 16) (imm : BitVec 18), s.canon = true → s.goesOn c = true →
    let k := s.core c
    let x := k.sreg b.val
    let y := k.operand imm
    (imm.getLsbD 17 = true → y = k.sreg (imm.toNat % 16)) ∧
    (imm.getLsbD 17 = false → y = (imm.setWidth 17).signExtend 32) ∧
    (∀ (w : Word32) (ecc : Ecc), w.toNat / 2 ^ 26 = 0 → ecc ≠ .uncorrectable → ∃ t, exec (.nop c ⟨w, ecc⟩) s = .next t ∧
      t.core c = { k with pc := k.pc + 1 } ∧ CoresBut [c] s t ∧ (ecc = .ok → t = { s with cores := t.cores }) ∧
      t = { s with cores := t.cores, regs := t.regs }) ∧
    (∃ t, exec (.ldi c a imm) s = .next t ∧ SregWritten c a.val (imm.signExtend 32) s t ∧ t = { s with cores := t.cores }) ∧
    (∃ t, exec (.add c a b imm) s = .next t ∧ SregWritten c a.val (x + y) s t ∧ t = { s with cores := t.cores }) ∧
    (∃ t, exec (.sub c a b imm) s = .next t ∧ SregWritten c a.val (x - y) s t ∧ t = { s with cores := t.cores }) ∧
    (∃ t, exec (.and c a b imm) s = .next t ∧ SregWritten c a.val (x &&& y) s t ∧ t = { s with cores := t.cores }) ∧
    (∃ t, exec (.or c a b imm) s = .next t ∧ SregWritten c a.val (x ||| y) s t ∧ t = { s with cores := t.cores }) ∧
    (∃ t, exec (.shl c a b imm) s = .next t ∧ SregWritten c a.val (x <<< (y.toNat % 32)) s t ∧ t = { s with cores := t.cores }) ∧
    (∃ t, exec (.shr c a b imm) s = .next t ∧ SregWritten c a.val (x >>> (y.toNat % 32)) s t ∧ t = { s with cores := t.cores })

/-- R105, R107: LD and ST at the word sB + IMM of the 32 KiB, aligned to 4 (IMM sign-extended: DEDUCED, log entry 16). LD writes the
little-endian word to sA, a corrected error being counted at a tile; ST writes sA above PARAM, and only those four bytes. R105, R113,
R325: what a core's checks find while MVM, OPASS, SPILL, ACC, RQ, SEND or PSUM runs. A corrected word is counted at a tile, and the
instruction goes on as without it; an uncorrectable word in a region that none of them reads leaves the instruction as it is; one that
MVM, OPASS or SPILL reads in the drive buffer restarts the sequencer and ends the item's passage with CHECKER; a first residue event of
ACC, RQ or PSUM restarts the item at instruction 0 with RETRY and the milestone read afresh, and is counted. -/
def Obligations.SequencerLoadStore : Prop :=
  (∀ (s : State) (c : CoreId) (a b : Fin 16) (imm : BitVec 18), s.canon = true → s.goesOn c = true →
    let k := s.core c
    let o := (k.sreg b.val + imm.signExtend 32).toNat
    o < 0x8000 → o % 4 = 0 →
    (∀ ecc, ecc ≠ Ecc.uncorrectable → ∃ t, exec (.ld c a b imm ecc) s = .next t ∧
      SregWritten c a.val (BitVec.ofNat 32 (leNat ((List.range 4).map fun j => s.byte (coreBase c + o + j)))) s t ∧
      (ecc = .ok → t = { s with cores := t.cores }) ∧
      (∀ x, c = .tile x → ecc = .corrected →
        t.fld F.TIL_SRAM_ERR_CORR (tileKey x) = min (s.fld F.TIL_SRAM_ERR_CORR (tileKey x) + 1) F.TIL_SRAM_ERR_CORR.top ∧
        RegsBut [regKey .til (tileKey x) F.TIL_SRAM_ERR_CORR.off] s t) ∧
      t = { s with cores := t.cores, regs := t.regs }) ∧
    (0x1100 ≤ o → ∃ t, exec (.st c a b imm) s = .next t ∧ t.core c = { k with pc := k.pc + 1 } ∧ CoresBut [c] s t ∧
      t.bytes (coreBase c + o) 4 = leBytes 4 (k.sreg a.val).toNat ∧ BytesBut (coreBase c + o) 4 s t ∧
      t = { s with cores := t.cores, mem := t.mem })) ∧
  (∀ (s : State) (c : CoreId) (a r : Fin 16) (b o : Fin 2), s.canon = true → s.runs c = true →
    let acc : List (CoreErr → Instr) := [fun e => .accClearAddMvm ⟨c, e⟩ b, fun e => .accAddMvm ⟨c, e⟩ b, fun e => .accAddOpass ⟨c, e⟩ b,
      fun e => .accAddPsum ⟨c, e⟩ b, fun e => .accAddSpill ⟨c, e⟩ b, fun e => .rq ⟨c, e⟩ b o, fun e => .psum ⟨c, e⟩ b r]
    let drv : List (CoreErr → Instr) := [fun e => .mvm ⟨c, e⟩ a, fun e => .opass ⟨c, e⟩ a, fun e => .spill ⟨c, e⟩ a]
    (∃ u : State, (∀ x, c = .tile x → u.fld F.TIL_SRAM_ERR_CORR (tileKey x) =
          min (s.fld F.TIL_SRAM_ERR_CORR (tileKey x) + 1) F.TIL_SRAM_ERR_CORR.top ∧
        RegsBut [regKey .til (tileKey x) F.TIL_SRAM_ERR_CORR.off] s u) ∧ ((∃ d k, c = .ctx d k) → u = s) ∧ u = { s with regs := u.regs } ∧
      ∀ i ∈ (fun e => .send ⟨c, e⟩ o r) :: acc ++ drv, exec (i .corrected) s = exec (i .ok) u) ∧
    (∀ q : Fin 32768, 0x3900 ≤ q.val → ∀ i ∈ (fun e => .send ⟨c, e⟩ o r) :: acc ++ drv, exec (i (.uncorrectable q)) s = exec (i .ok) s) ∧
    (∀ (x : TileId) (w : WorkItem) (i : Nat), c = .tile x → (s.core c).item = some w →
      (∀ q : Fin 32768, s.byHandle w.handle = some i → (s.passage i).guest = false → inDrive (((s.core c).sreg a.val).toNat % 2) q.val = true →
        ∀ f ∈ drv, ∃ t, exec (f (.uncorrectable q)) s = .next t ∧ t.faulted i 9 ∧
          t.core c = { (s.core c).restart with ins := (t.core c).ins } ∧ CoresButIns [c] s t ∧
          t.fld F.TIL_SRAM_ERR_UNCORR (tileKey x) = min (s.fld F.TIL_SRAM_ERR_UNCORR (tileKey x) + 1) F.TIL_SRAM_ERR_UNCORR.top) ∧
      (w.retry = false → ∀ f ∈ acc, ∃ t, exec (f .residue) s = .next t ∧ (t.core c).pc = 0 ∧ (t.core c).st = 1 ∧
        (∃ w', (t.core c).item = some w' ∧ w' = { w with retry := true, mile := s.mile, spills := w'.spills }) ∧ CoresBut [c] s t ∧
        t.fld F.TIL_CHK_SOFT (tileKey x) = min (s.fld F.TIL_CHK_SOFT (tileKey x) + 1) F.TIL_CHK_SOFT.top)))

/-- R107: branches go to the branch plus the signed IMM where their condition holds and on otherwise, JMP goes to IMM[9:0]; WAIT goes on once
every event of its mask has occurred or was not requested, and stalls the sequencer in WAIT otherwise. Only the sequencer changes. R111: a
sequencer that faults with no work item at hand stays in FAULT with the CAUSE: 1 for a word R107 does not list, 2 for a store to PROG or
PARAM, 3 for an address that is misaligned or outside the SRAM, 4 for an instruction word that cannot be corrected, 7 past instruction
1,023. The fault is counted. -/
def Obligations.SequencerControl : Prop :=
  (∀ (s : State) (c : CoreId) (a : Fin 16) (imm : BitVec 18), s.canon = true → s.goesOn c = true →
    let k := s.core c
    let go := fun (i : Instr) (n : Nat) (st : Nat) => ∃ t, exec i s = .next t ∧ t.core c = { k with pc := n, st := st } ∧ CoresBut [c] s t ∧
      t = { s with cores := t.cores }
    let target := (k.pc : Int) + imm.toInt
    (k.sreg a.val = 0 → 0 ≤ target → target ≤ 1023 → go (.bz c a imm) target.toNat 1) ∧
    (k.sreg a.val ≠ 0 → go (.bz c a imm) (k.pc + 1) 1) ∧
    (k.sreg a.val ≠ 0 → 0 ≤ target → target ≤ 1023 → go (.bnz c a imm) target.toNat 1) ∧
    (k.sreg a.val = 0 → go (.bnz c a imm) (k.pc + 1) 1) ∧
    go (.jmp c imm) (imm.toNat % 1024) 1 ∧
    (imm.getLsbD 0 = false → (∀ j, j < 6 → imm.getLsbD j = true → k.ready j = true) → go (.wait c imm) (k.pc + 1) 1) ∧
    ((∃ j, j < 6 ∧ imm.getLsbD j = true ∧ k.ready j = false) → go (.wait c imm) k.pc 2)) ∧
  (∀ (s : State) (x : TileId) (a b : Fin 16) (imm : BitVec 18), s.canon = true → s.runs (.tile x) = true →
    (s.core (.tile x)).item = none → (s.core (.tile x)).queue = [] → (s.core (.tile x)).second = none → (s.core (.tile x)).secondQ = [] →
    let c := CoreId.tile x
    let o := ((s.core c).sreg b.val + imm.signExtend 32).toNat
    let stops := fun (i : Instr) (cause : Nat) => ∃ t, exec i s = .next t ∧ (t.core c).st = 3 ∧ (t.core c).cause = cause ∧
      t.fld F.TIL_SEQ_FLT_COUNT (tileKey x) = min (s.fld F.TIL_SEQ_FLT_COUNT (tileKey x) + 1) F.TIL_SEQ_FLT_COUNT.top ∧ CoresBut [c] s t ∧
      (∀ y, t.byte y = s.byte y)
    (∀ w : Word32, (w.toNat / 2 ^ 26 ∈ [0x0A, 0x0B, 0x0F, 0x11] ∨ 0x1B ≤ w.toNat / 2 ^ 26 ∨
      (w.toNat / 2 ^ 26 = 0x14 ∧ 5 ≤ w.toNat % 8)) → ∀ ecc, ecc ≠ Ecc.uncorrectable → stops (.nop c ⟨w, ecc⟩) 1) ∧
    (∀ w : Word32, (s.core c).pc ≤ 1023 → stops (.nop c ⟨w, .uncorrectable⟩) 4) ∧
    (o < 0x1100 → o % 4 = 0 → stops (.st c a b imm) 2) ∧
    (0x8000 ≤ o ∨ o % 4 ≠ 0 → stops (.st c a b imm) 3 ∧ ∀ ecc, stops (.ld c a b imm ecc) 3) ∧
    ((s.core c).pc = 1023 → stops (.ldi c a imm) 7))

/-- R107, R108: WAIT on WORK alone, with no item at hand and one queued, takes the oldest queued item: its descriptor stands in PARAM
0x00–0x3F, and the generator is seeded for it. An item whose input still waited for a drive buffer takes one. R107, R111: the ends of a
work item. DONE ends it and reports it to its scoreboard; FAIL and the watchdog end its passage FAULTED with TILE_SEQ (for FAIL DEDUCED,
log entry 17); the watchdog restarts the tile's sequencer at instruction 0 with CAUSE 6. A tier engine context is free after DONE. Stated
for a passage that is live and homed here, where no change of routes and no rebind waits for the item's end; one homed on another part is
ended by its home, which FAIL tells. -/
def Obligations.WorkItems : Prop :=
  (∀ (s : State) (c : CoreId) (w : WorkItem) (q : List WorkItem), s.canon = true → s.goesOn c = true →
    (s.core c).item = none → (s.core c).second = none → (s.core c).queue = w :: q →
    ∃ t, exec (.wait c 1#18) s = .next t ∧
      (∃ x : WorkItem, (t.core c).item = some x ∧ x = { w with spills := x.spills, buf := x.buf, input := none } ∧
        (w.input = none → x.buf = w.buf) ∧ t.bytes (coreBase c + 0x1000) (encDesc x).length = encDesc x) ∧
      (w.input = none → (t.core c).queue = q) ∧ (t.core c).queue.map WorkItem.handle = q.map WorkItem.handle ∧ (t.core c).gen = seedFor c w ∧ (t.core c).drawn = 0 ∧ (t.core c).st = 1 ∧
      (t.core c).pc = (s.core c).pc + 1 ∧ CoresBut [c] s t ∧ t = { s with cores := t.cores, mem := t.mem }) ∧
  (∀ (s : State) (w : WorkItem) (i : Nat), s.canon = true → s.byHandle w.handle = some i → s.steady = true →
    ((s.passage i).guest = true → ∀ (x : TileId) (code : BitVec 8), (s.core (.tile x)).item = some w → s.goesOn (.tile x) = true →
      ∃ t, exec (.fail (.tile x) code) s = .next t ∧ Out.ctl "FAULT" 0 (s.passage i).part (s.passage i).handle.toNat 1 ∈ t.out) ∧
    ((s.passage i).guest = false →
    (∀ x : TileId, (s.core (.tile x)).item = some w → s.goesOn (.tile x) = true →
      (∃ t, exec (.done (.tile x)) s = .next t ∧
        t.core (.tile x) = { (s.core (.tile x)).endItem with pc := (s.core (.tile x)).pc + 1 } ∧
        (s.nArrOf w = 1 → ∀ y ∈ (t.die (s.sbDie w)).sb, ¬ (y.is (idxOf w.handle) w.stage w.rep = true ∧ y.phase = 2)) ∧
        CoresBut [.tile x] s t ∧ DiesBut [s.sbDie w] s t ∧ t = { s with cores := t.cores, dies := t.dies }) ∧
      (∀ code, ∃ t, exec (.fail (.tile x) code) s = .next t ∧ t.faulted i 1 ∧
        t.core (.tile x) = { (s.core (.tile x)).endItem with pc := (s.core (.tile x)).pc + 1, ins := (t.core (.tile x)).ins } ∧
        CoresButIns [.tile x] s t)) ∧
    (∀ (d : Fin 32) (k : Fin 16), (s.core (.ctx d k)).item = some w → s.runs (.ctx d k) = true →
      (∃ t, exec (.done (.ctx d k)) s = .next t ∧ t.core (.ctx d k) = { Core.zero with psums := (t.core (.ctx d k)).psums } ∧
        (∀ z ∈ (t.core (.ctx d k)).psums, z.1 ≠ w.handle) ∧ CoresBut [.ctx d k] s t ∧
        t = { s with cores := t.cores, dies := t.dies, regs := t.regs }) ∧
      (∀ code, ∃ t, exec (.fail (.ctx d k) code) s = .next t ∧ t.faulted i 1 ∧
        t.core (.ctx d k) = { Core.zero with psums := (t.core (.ctx d k)).psums })) ∧
    (∀ x : TileId, (s.core (.tile x)).item = some w → s.calPaused w = false →
      ∃ t, exec (.sequencerWatchdog (.tile x)) s = .next t ∧ t.faulted i 1 ∧
        t.core (.tile x) = { (s.core (.tile x)).restart with cause := 6, ins := (t.core (.tile x)).ins } ∧ (t.core (.tile x)).pc = 0 ∧ (t.core (.tile x)).st = 1 ∧
        t.fld F.TIL_SEQ_FLT_COUNT (tileKey x) = min (s.fld F.TIL_SEQ_FLT_COUNT (tileKey x) + 1) F.TIL_SEQ_FLT_COUNT.top ∧
        CoresButIns [.tile x] s t)))

/-! ## Arrays and accumulators -/

/-- R80–R82, R85: MVM on drive buffer sA[0], issued where none is outstanding and the array accepts it (BOUND, a free place of the 1,024,
credit not negative, no stop, no rewrite requested, R101): the aligned operation of the buffer's segments is outstanding, its event is
asked for, a tile counts it, pays its charge and takes the trim values of a track update, and the pc advances. An MVM whose aligned input
is all zero is not issued, counts as skipped and pays nothing. With one outstanding the sequencer stalls. R77, R82, R112, R318: an MVM
completes at a tile. One that was not issued gives 512 zeros; another gives, unless a half of the checksum mismatches, the reconstructed
columns of the codes drawn now (the error of each code is free) at the scale F = (WX − 142) + (E_A − 127 − X). The event MVM_DONE occurs.
Where the two paths of its reconstruction disagree, a first such event restarts the item with RETRY (R113, R320). An issued one completes
in the order of R109. -/
def Obligations.MatrixProducts : Prop :=
  (∀ (s : State) (c : CoreId) (a : Fin 16), s.canon = true → s.goesOn c = true →
    let k := s.core c
    let buf := (k.sreg a.val).toNat % 2
    let x := s.inputs c k.work buf
    let m := alignMvm buf x.1 k.work.rcp.alignExt x.2.1
    (k.mvm.isSome = true → exec (.mvm ⟨c, .ok⟩ a) s = .next s) ∧
    (k.mvm = none → s.mayIssue c = true → ∃ t, exec (.mvm ⟨c, .ok⟩ a) s = .next t ∧
      t.core c = { (k.ask 1) with mvm := some m, mvmRes := none, passFirst := k.opass.isSome, pc := k.pc + 1 } ∧ CoresBut [c] s t ∧
      (∀ y, c = .tile y → m.skipped = false →
        t.fld F.TIL_ARR_MVM_COUNT (tileKey y) = (s.fld F.TIL_ARR_MVM_COUNT (tileKey y) + 1) % 2 ^ 48 ∧
        (t.die y.d.val).credit = (s.die y.d.val).credit - s.charge y.d.val m.pconv m.nrow ∧ (t.conv y).track = (s.conv y).next) ∧
      (∀ y, c = .tile y → m.skipped = true →
        t.fld F.TIL_ARR_SKIP_MVM (tileKey y) = min (s.fld F.TIL_ARR_SKIP_MVM (tileKey y) + 1) F.TIL_ARR_SKIP_MVM.top ∧
        t.dies = s.dies ∧ t.convs = s.convs) ∧
      DiesBut [coreDie c] s t ∧ t = { s with cores := t.cores, regs := t.regs, dies := t.dies, convs := t.convs })) ∧
  (∀ (s : State) (x : TileId) (m : MvmOp), s.canon = true →
    let c := CoreId.tile x
    let k := s.core c
    let f := ((k.work.wx : Int) - 142) + (m.ea - 127 - m.ext)
    let tol := chkTol (s.chkK x.d.val) k.work.rng (s.temp x.d.val (nearSns x)) (opSP m false)
    k.mvm = some m →
    (m.skipped = true → ∀ err, ∃ t, exec (.mvmComplete ⟨c, err⟩) s = .next t ∧
      t.core c = { (k.hit 1) with mvm := none, mvmRes := some ⟨List.replicate 512 0, f⟩ } ∧ CoresBut [c] s t ∧
      t = { s with cores := t.cores }) ∧
    (m.skipped = false → k.mvmNext = true → ∀ w, k.item = some w → w.retry = false → ∃ t, exec (.mvmComplete ⟨c, .residue⟩) s = .next t ∧
      (t.core c).pc = 0 ∧ (t.core c).mvm = none ∧ (t.core c).item.any WorkItem.retry = true ∧ CoresBut [c] s t) ∧
    (m.skipped = false → k.mvmNext = true → ∀ err, err ≠ CoreErr.residue → ∃ t, exec (.mvmComplete ⟨c, err⟩) s = .next t ∧
      ((∀ h, h < 2 → halfBad s.free k.work.rng (s.cell x) tol m h = false) →
        t.core c = { (k.hit 1) with mvm := none, mvmRes := some ⟨arrayOut s.free k.work.rng (s.cell x) m, f⟩ } ∧
        CoresBut [c] s t ∧ RegsBut [regKey .til (tileKey x) F.TIL_ARR_ADCSAT_COUNT.off] s t ∧
        t = { s with cores := t.cores, regs := t.regs, free := s.free + 1 })))

/-- R118, R119: the outlier pass of drive buffer sA[0]. Without normal pairs its event is done at once; with pairs it is outstanding as eight
planes of the aligned pairs, counted and charged at a tile; after the item's MVM nothing holds it back (R120). R119, R276, R277: an
outlier pass ends. In a tier engine context the pairs are applied exactly with the record's weights, whose rows are read first where no
MVM of the buffer has read them; at a tile the columns are those of the codes drawn now, unless a half mismatches. OPASS_DONE occurs. -/
def Obligations.OutlierPasses : Prop :=
  (∀ (s : State) (c : CoreId) (a : Fin 16), s.canon = true → s.goesOn c = true →
    let k := s.core c
    let buf := (k.sreg a.val).toNat % 2
    let l := s.driveLists c buf k.work.seg2
    (k.opass = none → passDrives l.1.2.1 l.2.2.1 = none → ∃ t, exec (.opass ⟨c, .ok⟩ a) s = .next t ∧
      t.core c = { ((k.ask 2).hit 2) with opRes := none, pc := k.pc + 1 } ∧ CoresBut [c] s t ∧ t = { s with cores := t.cores }) ∧
    (∀ dr ep, k.opass = none → passDrives l.1.2.1 l.2.2.1 = some (dr, ep) → s.mayIssue c = true ∨ s.passDue c = true →
      ∃ t m, exec (.opass ⟨c, .ok⟩ a) s = .next t ∧ m.drives = dr ∧ m.ea = ep ∧ m.planes = 8 ∧ m.ext = 0 ∧
        t.core c = { (k.ask 2) with opass := some m, opRes := none, passFirst := false, pc := k.pc + 1 } ∧ CoresBut [c] s t ∧
        (∀ y, c = .tile y →
          t.fld F.TIL_OUT_PASS_COUNT (tileKey y) = min (s.fld F.TIL_OUT_PASS_COUNT (tileKey y) + 1) F.TIL_OUT_PASS_COUNT.top ∧
          (t.die y.d.val).credit = (s.die y.d.val).credit - s.charge y.d.val m.pconv m.nrow) ∧
        t = { s with cores := t.cores, regs := t.regs, dies := t.dies })) ∧
  (∀ (s : State) (c : CoreId), s.canon = true →
    let k := s.core c
    (∀ m d j r err, c = .ctx d j → k.opass = some m → k.passNext = true → err ≠ CoreErr.residue → s.recordOf k.work = some r → s.poison = [] →
      ∃ t, exec (.opassComplete ⟨c, err⟩) s = .next t ∧
      t.core c = { (k.hit 2) with opass := none, opRes := some (s.exactPairs r k.work.wx (s.normalPairs c m.buf k.work.seg2)) } ∧
      CoresBut [c] s t ∧ (k.readBuf = some m.buf → t = { s with cores := t.cores }) ∧ DiesButCache s t ∧
      t = { s with cores := t.cores, regs := t.regs, dies := t.dies, out := t.out }) ∧
    (∀ m x err, c = .tile x → k.opass = some m → k.passNext = true → err ≠ CoreErr.residue → ∃ t, exec (.opassComplete ⟨c, err⟩) s = .next t ∧
      ((∀ h, h < 2 →
          halfBad s.free k.work.rng (s.cell x) (chkTol (s.chkK x.d.val) k.work.rng (s.temp x.d.val (nearSns x)) (opSP m true)) m h = false) →
        t.core c = { (k.hit 2) with opass := none, opRes := some ⟨arrayOut s.free k.work.rng (s.cell x) m, scaleOf k.work m⟩ } ∧
        CoresBut [c] s t ∧ t = { s with cores := t.cores, regs := t.regs, free := s.free + 1 })))

/-- R44: while every aligned sum fits 56 bits, the sum of two ACC56 blocks is exact at the smaller scale, element by element, each word
carries the residue modulo 7 of its value, no rescale is counted, and no draw is taken. -/
def Obligations.AccumulationIsExact : Prop :=
  ∀ (mode : Nat) (a b : AccBlk) (g : Gen), a.w.length = 32 → b.w.length = 32 →
    (∀ i, i < 32 → fits56 ((accVals a).getD i 0 * 2 ^ (a.f - min a.f b.f).toNat + (accVals b).getD i 0 * 2 ^ (b.f - min a.f b.f).toNat) = true) →
    let r := accAdd mode a b g
    r.1.f = min a.f b.f ∧ r.2.1 = false ∧ r.2.2 = g ∧ r.1.w.length = 32 ∧ AccBlk.bad r.1 = false ∧
    ∀ i, i < 32 → (accVals r.1).getD i 0 =
      (accVals a).getD i 0 * 2 ^ (a.f - min a.f b.f).toNat + (accVals b).getD i 0 * 2 ^ (b.f - min a.f b.f).toNat

/-- R114: the five ACC modes. ACC 0 puts the products of the MVM result with the column gains in the bank; ACC 1 and 2 add the products of the
MVM result and of the pass result by R44; ACC 3 adds the partial sums of the item not yet added, in order of arrival; ACC 4 adds the SPILL
region where a spill was completed. The other bank stays, the pc advances, and of registers only the rescale count moves. Stated where no
word added carries a residue event. R107: a PSUM packet that reaches a sequencer joins the partial sums it holds, in arrival order, unless
a tier engine stands in for the tile; for a tile bound to no stage nothing else changes. -/
def Obligations.Accumulation : Prop :=
  (∀ (s : State) (c : CoreId) (bank : Fin 2), s.canon = true → s.goesOn c = true →
    let k := s.core c
    let kept := fun (t : State) => (t.core c).bank (1 - bank.val) = k.bank (1 - bank.val) ∧ (t.core c).pc = k.pc + 1 ∧ (t.core c).st = 1 ∧
      CoresBut [c] s t ∧ RegsBut [regKey .sch (coreDie c) F.SCH_FMT_CNT_RESCALE.off] s t ∧ t = { s with cores := t.cores, regs := t.regs }
    let sum := fun (v : List AccBlk) => (accAddAll k.work.rcp.accRnd (k.bank bank.val) v k.rng).1
    (∀ r, k.mvmRes = some r → ∃ t, exec (.accClearAddMvm ⟨c, .ok⟩ bank) s = .next t ∧ (t.core c).bank bank.val = s.products c r ∧ kept t) ∧
    (∀ r, k.mvmRes = some r → ∃ t, exec (.accAddMvm ⟨c, .ok⟩ bank) s = .next t ∧ (t.core c).bank bank.val = sum (s.products c r) ∧ kept t) ∧
    (∀ r, k.opRes = some r → ∃ t, exec (.accAddOpass ⟨c, .ok⟩ bank) s = .next t ∧ (t.core c).bank bank.val = sum (s.products c r) ∧ kept t) ∧
    (∀ p, k.psumsOf.drop k.psumAdded = [p] → p.any AccBlk.bad = false → ∃ t, exec (.accAddPsum ⟨c, .ok⟩ bank) s = .next t ∧
      (t.core c).bank bank.val = sum p ∧ (t.core c).psumAdded = k.psumsOf.length ∧ kept t) ∧
    (k.spilled = true → (s.spillBlks c).any AccBlk.bad = false → ∃ t, exec (.accAddSpill ⟨c, .ok⟩ bank) s = .next t ∧
      (t.core c).bank bank.val = sum (s.spillBlks c) ∧ kept t)) ∧
  (∀ (s : State) (c : CoreId) (h : Word32) (expert : Bool) (blks : List AccBlk), s.canon = true →
    s.standIn c h = false → (expert = false ∨ (s.core c).bound = none ∧ ∃ x, c = .tile x) →
    ∃ t, exec (.partialSumArrival c h expert blks) s = .next t ∧
      t.core c = { s.core c with psums := (s.core c).psums ++ [(h, blks)] } ∧ CoresBut [c] s t ∧ t = { s with cores := t.cores })

/-- R56: a block re-quantised raises at most one of BLK_UNDER and BLK_SAT, and a block of zeros raises neither. -/
def Obligations.BlockFlagsExclude : Prop :=
  ∀ (fmt : Nat) (outfit : Bool) (mode : Nat) (f : Int) (vs : List Int) (g : Gen),
    let r := (rqBlock fmt outfit mode f vs g).1
    ¬ (r.under = true ∧ r.sat = true) ∧ (vs.all (· == 0) = true → r.under = false ∧ r.sat = false ∧ r.out = none)

/-- R54: a block raises BLK_UNDER exactly when it starts from a non-zero value and every mantissa comes out zero, and then it is the zero
block. That happens where E was raised to 1, or for Y2 output rounded by RTZ or RSR, and nowhere else. -/
def Obligations.UnderflowedBlocks : Prop :=
  ∀ (fmt : Nat) (outfit : Bool) (mode : Nat) (f : Int) (vs : List Int) (g : Gen), 1 ≤ fmt → fmt ≤ 4 → mode ≤ 2 →
    let r := (rqBlock fmt outfit mode f vs g).1
    let m := if outfit = true ∧ rank2 vs ≠ 0 then rank2 vs else (rank1 vs).2
    (r.under = true ↔ (∃ v ∈ vs, v ≠ 0) ∧ ∀ x ∈ r.blk.m, x = 0) ∧
    (r.under = true → r.blk = Block.zero ∧ (fitExp m (fmtP fmt) + f + 127 < 1 ∨ fmt = 1 ∧ mode ≠ rne))

/-- R46, R104, R107: RQ writes the re-quantised segment of the bank, with its outlier list, into the output buffer and nothing else of the
SRAM, the generator advances by the draws taken, and the pc advances. SEND and PSUM add an injection on a defined route entry, SEND of the
output buffer's segment with its list as long as it is (R116), PSUM of the bank's blocks (those of an item without a gate); the oldest
injection leaves when it has been injected in full, as a packet, but for partial sums whose owner runs on the same tier engine, which are
added there (R276). R123, R125, R126: SPILL at a tile with spill pairs, no good result and no request for the buffer yet joins the queue
of the nearest tier engine in service while it holds fewer than 16, and is counted; with the queue full, or no engine, it falls back: the
pairs are counted and SPILL_DONE occurs. Without pairs, or with a good result, the event occurs at once; a buffer asked for is not asked
for twice. In a tier engine context the pairs are added exactly at once (R276). The spill in service ends by adding the pairs' exact
products into the SPILL region, which the requester then may add. -/
def Obligations.OutputAndSpills : Prop :=
  (∀ (s : State) (c : CoreId) (bank outb : Fin 2) (route : Fin 16), s.canon = true →
    let k := s.core c
    let w := k.work
    let outfit := w.rcp.expMode == 1 && w.rcp.outFmt == 2 && decide (0 < w.rcp.outMax) && s.outfitOk w.part w.stage
    let x := requant w outfit (k.bank bank.val) k.rng
    let off := coreBase c + outOff outb.val
    (s.goesOn c = true → (k.bank bank.val).any AccBlk.bad = false → ∃ t, exec (.rq ⟨c, .ok⟩ bank outb) s = .next t ∧
      t.bytes off (encOut x).length = encOut x ∧ BytesBut off (encOut x).length s t ∧
      t.core c = { k with gen := x.rng.st, drawn := x.rng.n, pc := k.pc + 1 } ∧ CoresBut [c] s t) ∧
    (s.goesOn c = true → rformOk (s.routeWord c route.val) = true → ∃ t, exec (.send ⟨c, .ok⟩ outb route) s = .next t ∧
      t.core c = { k with pc := k.pc + 1, inj := k.inj ++ [⟨false, outb.val, s.routeWord c route.val, w.job, w.destRep, [],
        s.outUnit c w.rcp.outFmt outb.val⟩] } ∧
      CoresBut [c] s t ∧ t = { s with cores := t.cores }) ∧
    (s.goesOn c = true → rformOk (s.routeWord c route.val) = true → w.gate = none → ∃ t, exec (.psum ⟨c, .ok⟩ bank route) s = .next t ∧
      t.core c = { k with pc := k.pc + 1, inj := k.inj ++
        [⟨true, bank.val, s.routeWord c route.val, w.job, w.destRep, k.bank bank.val, []⟩] } ∧
      CoresBut [c] s t ∧ t = { s with cores := t.cores }) ∧
    (∀ j r d e e', c = .ctx d e → k.inj = j :: r → j.psum = true → s.ownerCtx d w = some e' → ∃ t, exec (.injectionComplete c) s = .next t ∧
      (t.core c).inj = r ∧ (t.core (.ctx d e')).psums = (s.core (.ctx d e')).psums ++ [(w.handle, j.blks)] ∧ CoresBut [c, .ctx d e'] s t ∧
      t = { s with cores := t.cores }) ∧
    (∀ j r, k.inj = j :: r → ((∃ x, c = .tile x) ∨ j.psum = false ∨ ∀ d, s.ownerCtx d w = none) → ∃ t, exec (.injectionComplete c) s = .next t ∧ t.core c = { k with inj := r } ∧ CoresBut [c] s t ∧
      t.out = s.out ++ [.inject c j.route j.bytes j.blks j.destRep (s.injectPkt c j)] ∧ t = { s with cores := t.cores, out := t.out })) ∧
  (∀ (s : State) (x : TileId) (a : Fin 16), s.canon = true →
    let c := CoreId.tile x
    let k := s.core c
    let ps := s.spillPairs c ((k.sreg a.val).toNat % 2) k.work.seg2
    (s.goesOn c = true → (ps = [] ∨ k.spilled = true) → ∃ t, exec (.spill ⟨c, .ok⟩ a) s = .next t ∧ t.core c = { ((k.ask 4).hit 4) with pc := k.pc + 1 } ∧
      CoresBut [c] s t ∧ t = { s with cores := t.cores }) ∧
    (s.goesOn c = true → ps ≠ [] → k.spilled = false → k.spillReq.contains ((k.sreg a.val).toNat % 2) = true →
      ∃ t, exec (.spill ⟨c, .ok⟩ a) s = .next t ∧ (t.core c).pc = k.pc + 1 ∧ (t.core c).spillReq = k.spillReq ∧ CoresBut [c] s t ∧
      t = { s with cores := t.cores }) ∧
    (∀ e, s.goesOn c = true → ps ≠ [] → k.spilled = false → k.spillReq.contains ((k.sreg a.val).toNat % 2) = false →
      s.engineFor x.d.val = some e → (s.die e).spillQ.length < 16 →
      ∃ t, exec (.spill ⟨c, .ok⟩ a) s = .next t ∧ (t.die e).spillQ = (s.die e).spillQ ++ [⟨c, k.work.handle, (k.sreg a.val).toNat % 2⟩] ∧
        t.core c = { (k.ask 4) with spillReq := k.spillReq ++ [(k.sreg a.val).toNat % 2], pc := k.pc + 1 } ∧
        t.fld F.TIL_OUT_SPILL_REQ (tileKey x) = min (s.fld F.TIL_OUT_SPILL_REQ (tileKey x) + 1) F.TIL_OUT_SPILL_REQ.top ∧
        CoresBut [c] s t ∧ DiesBut [e] s t ∧ t = { s with cores := t.cores, regs := t.regs, dies := t.dies }) ∧
    (s.goesOn c = true → ps ≠ [] → k.spilled = false → k.spillReq.contains ((k.sreg a.val).toNat % 2) = false →
      (s.engineFor x.d.val = none ∨ ∃ e, s.engineFor x.d.val = some e ∧ 16 ≤ (s.die e).spillQ.length) →
      ∃ t, exec (.spill ⟨c, .ok⟩ a) s = .next t ∧ t.core c = { ((k.ask 4).hit 4) with
          spilled := false, spillReq := k.spillReq ++ [(k.sreg a.val).toNat % 2], pc := k.pc + 1 } ∧
        t.fld F.TIL_OUT_SPILL_FALLBACK (tileKey x) = min (s.fld F.TIL_OUT_SPILL_FALLBACK (tileKey x) + ps.length) F.TIL_OUT_SPILL_FALLBACK.top ∧
        t.dies = s.dies ∧ CoresBut [c] s t ∧ t = { s with cores := t.cores, regs := t.regs }) ∧
    (∀ (d : Fin 32) (q : List SpillReq) (w : WorkItem) (r b : Nat), (s.die d.val).spillQ = ⟨c, w.handle, b⟩ :: q → k.item = some w →
      s.recordOf w = some r → s.poison = [] →
      ∃ t, exec (.spillDone d .ok) s = .next t ∧ (t.die d.val).spillQ = q ∧ (t.core c).spilled = true ∧
        (t.core c).ev = k.ev ||| 16#6 ∧
        t.bytes (coreBase c + 0x2800) ((s.spillSum d.val w r (s.spillPairs c b w.seg2)).1.flatMap encAcc).length
          = (s.spillSum d.val w r (s.spillPairs c b w.seg2)).1.flatMap encAcc ∧
        CoresBut [c] s t ∧ (∀ e, e ≠ d.val → t.die e = { s.die e with cache := (t.die e).cache }) ∧
        t = { s with cores := t.cores, regs := t.regs, dies := t.dies, mem := t.mem, out := t.out }) ∧
    (∀ (d : Fin 32) (j : Fin 16) (r : Nat), let e := CoreId.ctx d j
      let w := (s.core e).work
      let b := ((s.core e).sreg a.val).toNat % 2
      let qs := s.spillPairs e b w.seg2
      s.goesOn e = true → qs ≠ [] → (s.core e).spilled = false → (s.core e).spillReq.contains b = false → s.recordOf w = some r → s.poison = [] →
      ∃ t, exec (.spill ⟨e, .ok⟩ a) s = .next t ∧ (t.core e).spilled = true ∧ (t.core e).ev = (s.core e).ev ||| 16#6 ∧
        (t.core e).pc = (s.core e).pc + 1 ∧
        t.bytes (coreBase e + 0x2800) ((s.spillSum d.val w r qs).1.flatMap encAcc).length = (s.spillSum d.val w r qs).1.flatMap encAcc ∧
        CoresBut [e] s t ∧ DiesButCache s t ∧ t = { s with cores := t.cores, regs := t.regs, dies := t.dies, mem := t.mem, out := t.out }))

/-- R41, R31–R33: an ACC56 block in memory is 264 bytes: its 32 words, element 0 first, then a header of F in bits [15:0], FMT 9 in [19:16]
and zeros; read from wherever it stands it is the block again. A segment of 16 blocks whose mantissas its format holds decodes to itself
with no reserved code counted, and the reserved code of Y2 decodes to 0. -/
def Obligations.StoredForms : Prop :=
  (∀ (b : AccBlk) (pre post : List Byte), b.w.length = 32 → -(2 ^ 15) ≤ b.f → b.f < 2 ^ 15 →
    (encAcc b).length = 264 ∧ (∀ i, i < 32 → leAt (encAcc b) (8 * i) 8 = (b.w.getD i 0).toNat) ∧
    nbits (leAt (encAcc b) 256 8) 15 0 = tc 16 b.f ∧ nbits (leAt (encAcc b) 256 8) 19 16 = 9 ∧
    nbits (leAt (encAcc b) 256 8) 63 20 = 0 ∧ decAcc (pre ++ encAcc b ++ post) pre.length = b) ∧
  (∀ (f : Nat) (bs : List Block), blockFmt f = true → bs.length = 16 →
    (∀ b ∈ bs, 1 ≤ b.e ∧ b.e ≤ 0xFE ∧ b.m.length = 32 ∧ ∀ m ∈ b.m, fmtN f ≤ m ∧ m ≤ fmtP f) →
    (encSeg f bs).length = fmtSeg f ∧ decSeg f (encSeg f bs) = (bs, 0)) ∧
  mantVal 1 2 = 0

/-! ## Recipes, counters and the package network -/

/-- R61–R63: an update of a recipe that passes its checks waits on every die of the partition, under the commanding die, which shows BUSY and
INDEX; one that fails a check changes no recipe and shows its CODE and the version in force, and where its index or address is refused
nothing is read. At a die's next batch boundary the version is in force there; the last die to apply it ends the command with CODE 0 and
the version. (The order of the checks is DEDUCED, log entry 13.) R58, R64, R102, R127, R256, R285, R313: once a multiple of 2^EXP of the
milestone counter has passed (EXP taken as 20 to 40), a window boundary restarts a die's stage flag counts, and the CLR registers clear
the counts beside them (SCH_EXP_CLR those of every stage: DEDUCED, log entry 15). Each changes nothing else. -/
def Obligations.RecipesAndCounts : Prop :=
  ((∀ (s : State) (src : Src) (d : Fin 32) (v : Word), s.canon = true → s.takes src .sch d.val 0x830 = true → bitsOf v 0 0 = 1 →
    (∀ e, e < 32 → s.part e = s.part d.val → s.flag F.SCH_RCP_STS_BUSY e = false) →
    let idx := bitsOf v 63 48
    let a := bitsOf v 47 6 * 64
    (s.rcpPlace d.val idx a = 0 → (s.heldE a 64).isEmpty = true) →
    (s.rcpCheck d.val idx a = 0 → ∃ t, exec (.recipeUpdate src d v) s = .next t ∧ t.flag F.SCH_RCP_STS_BUSY d.val = true ∧
      t.fld F.SCH_RCP_STS_INDEX d.val = idx ∧
      (∀ e, e < 32 → s.part e = s.part d.val → t.pendOf e idx = (decRecipe (s.bytes a 64), d.val)) ∧
      (∀ e, (t.die e).recipes = (s.die e).recipes ∧ DieSlices { s.die e with pendRcp := (t.die e).pendRcp } (t.die e)) ∧
      t.mem = s.mem ∧ t.passages = s.passages ∧ t.jobs = s.jobs ∧ t.cores = s.cores) ∧
    (s.rcpCheck d.val idx a ≠ 0 → ∃ t, exec (.recipeUpdate src d v) s = .next t ∧
      t.fld F.SCH_RCP_STS_CODE d.val = s.rcpCheck d.val idx a ∧ t.fld F.SCH_RCP_STS_VERSION d.val = (s.rcp d.val idx).version % 2 ^ 16 ∧
      ButSlices [regKey .sch d.val 0x830, regKey .sch d.val F.SCH_RCP_STS_BUSY.off] s t ∧
      (s.rcpPlace d.val idx a ≠ 0 → t = { s with regs := t.regs }))) ∧
  (∀ (s : State) (d : Fin 32) (idx : Fin 4096) (r : Recipe) (c : Nat), s.canon = true → s.pendOf d.val idx.val = (r, c) → c < 32 →
    s.midBatch d.val idx.val = false →
    ∃ t, exec (.recipeApply d idx) s = .next t ∧ t.rcp d.val idx.val = r ∧ t.pendOf d.val idx.val = noPend 0 ∧
      ((∀ e, e < 32 → e ≠ d.val → s.part e = s.part d.val → 32 ≤ (s.pendOf e idx.val).2) →
        t.flag F.SCH_RCP_STS_BUSY c = false ∧ t.fld F.SCH_RCP_STS_CODE c = 0 ∧ t.fld F.SCH_RCP_STS_VERSION c = r.version % 2 ^ 16) ∧
      DiesBut [d.val] s t ∧ RegsBut [regKey .sch c F.SCH_RCP_STS_BUSY.off] s t ∧ t = { s with regs := t.regs, dies := t.dies })) ∧
  (∀ (s : State), s.canon = true →
    (∀ d : Fin 32, let e := max 20 (min 40 (s.fld F.SCH_FLAG_WIN_EXP d.val))
      (s.mile.toNat / 2 ^ e ≠ (s.die d.val).flagAt.toNat / 2 ^ e → ∃ t, exec (.flagWindowEnd d) s = .next t ∧
        (∀ k, t.stageFlags d.val k = (0, 0)) ∧ t.die d.val = { s.die d.val with flagCnt := [], flagFired := [], flagAt := s.mile } ∧
        DiesBut [d.val] s t ∧ t = { s with dies := t.dies }) ∧
      (s.mile.toNat / 2 ^ e = (s.die d.val).flagAt.toNat / 2 ^ e → exec (.flagWindowEnd d) s = .next s)) ∧
    (∀ (src : Src) (v : Word), bitsOf v 0 0 = 1 →
      (∀ d : Fin 32, s.takes src .sch d.val 0x828 = true → ∃ t, exec (.fmtCntClear src d v) s = .next t ∧
        t.fld F.SCH_FMT_CNT_RESCALE d.val = 0 ∧ t.fld F.SCH_FMT_CNT_RSVD_CODE d.val = 0 ∧ RegsBut [regKey .sch d.val 0x820] s t ∧
        t = { s with regs := t.regs }) ∧
      (∀ x : TileId, s.takes src .til (tileKey x) 0x130 = true → ∃ t, exec (.arrCntClear src x v) s = .next t ∧
        (∀ o ∈ [0x110, 0x118, 0x120], t.reg .til (tileKey x) o = 0) ∧
        RegsBut ([0x110, 0x118, 0x120].map (regKey .til (tileKey x))) s t ∧ t = { s with regs := t.regs }) ∧
      (∀ x : TileId, s.takes src .til (tileKey x) 0x2A8 = true → ∃ t, exec (.outCntClear src x v) s = .next t ∧
        (∀ o ∈ [0x208, 0x280, 0x288, 0x290, 0x298, 0x2A0], t.reg .til (tileKey x) o = 0) ∧
        RegsBut ([0x208, 0x280, 0x288, 0x290, 0x298, 0x2A0].map (regKey .til (tileKey x))) s t ∧ t = { s with regs := t.regs }) ∧
      (∀ d : Fin 32, s.takes src .sch d.val 0x340 = true → ∃ t, exec (.expCntClear src d v) s = .next t ∧
        t.die d.val = { s.die d.val with expCnt := [], exitCnt := [] } ∧ t.fld F.SCH_DISP_BUF_WAITS d.val = 0 ∧
        DiesBut [d.val] s t ∧ RegsBut [regKey .sch d.val F.SCH_DISP_BUF_WAITS.off] s t ∧ t = { s with regs := t.regs, dies := t.dies }) ∧
      (∀ d : Fin 32, s.takes src .stk d.val 0x418 = true → ∃ t, exec (.stkCntClear src d v) s = .next t ∧
        (∀ o ∈ [0x128, 0x130, 0x200, 0x208, 0x218, 0x220, 0x408, 0x410], t.reg .stk d.val o = 0) ∧
        RegsBut ([0x128, 0x130, 0x200, 0x208, 0x218, 0x220, 0x408, 0x410].map (regKey .stk d.val)) s t ∧ t = { s with regs := t.regs }) ∧
      (s.takes src .ldr (s.bank src .ldr) 0x170 = true → ∃ t, exec (.ldrCntClear src v) s = .next t ∧
        (∀ o ∈ [0x158, 0x160], t.reg .ldr (s.bank src .ldr) o = 0) ∧
        RegsBut ([0x158, 0x160].map (regKey .ldr (s.bank src .ldr))) s t ∧ t = { s with regs := t.regs })))

/-- R131, R139, R140: a flit that reaches a router input intact and in order is buffered by its VC and class and acknowledged, its sideband
returns credits and acknowledges what was sent; one with a CRC error or out of order is discarded, counted, and asked for again, once
until it arrives but for a damaged one. The sender asked for a replay resends what it keeps after ACK_SEQ, counts it, and keeps just that.
Stated where nothing else is on its way through the router and the input is no end of the mesh. R148: a D2D channel that goes down is
shown down on its die and counted with its edge and number; a mesh link that goes down is counted, and the job of the partition that owns
its die stops. What the link kept is gone from it. A port that leads to no router, and a gateway's outward port, is no mesh link. -/
def Obligations.NocLinks : Prop :=
  (∀ (s : State) (r : TileId) (p : RPort), s.canon = true →
    let key := linkKey r p
    let k := s.link key
    k.down = false → leaves r p = false →
    (∀ f : NocFlit, f.crc = flitSum f → f.valid = true → f.nak = false → f.seq.toNat = (k.rxSeq + 1) % 256 → s.routerQuiet r = true →
      ∃ t, exec (.nocFlitReceive r p f) s = .next t ∧ (t.link key).rxSeq = f.seq.toNat ∧ (t.link key).nakked = false ∧
        (t.link key).inBuf (bufKey f.vc f.clsB) = k.inBuf (bufKey f.vc f.clsB) ++ [f] ∧
        SMap.get noUsed (t.link key).used (bufKey f.crVc f.crCls) = SMap.get noUsed k.used (bufKey f.crVc f.crCls) - f.crCnt.val ∧
        (∀ g l, k.kept = g :: l → g.seq = f.ack → (t.link key).kept = l) ∧
        t.out = s.out ++ [.nocFlits r p [idleFlit f.seq.toNat false 0 0]] ∧ (∀ k', k' ≠ key → t.link k' = s.link k') ∧
        t = { s with links := t.links, out := t.out, flitSel := t.flitSel }) ∧
    (∀ f : NocFlit, f.crc = flitSum f → f.valid = false → s.routerQuiet r = true →
      (f.nak = false → ∃ t, exec (.nocFlitReceive r p f) s = .next t ∧ t.link key = k.heard f ∧ (∀ k', k' ≠ key → t.link k' = s.link k') ∧
        t = { s with links := t.links }) ∧
      (∀ g l, f.nak = true → k.kept = g :: l → g.seq = f.ack → l ≠ [] → (∀ h ∈ l, h.seq ≠ f.ack) →
        ∃ t, exec (.nocFlitReceive r p f) s = .next t ∧ (t.link key).kept = l ∧ t.out = s.out ++ [.nocResend r p l] ∧
          (∀ k', k' ≠ key → t.link k' = s.link k') ∧ t = { s with regs := t.regs, links := t.links, out := t.out })) ∧
    (∀ f : NocFlit, (f.crc ≠ flitSum f ∨ (f.valid = true ∧ f.seq.toNat ≠ (k.rxSeq + 1) % 256)) →
      (f.crc = flitSum f → k.nakked = true → exec (.nocFlitReceive r p f) s = .next s) ∧
      (f.crc ≠ flitSum f ∨ k.nakked = false → ∃ t, exec (.nocFlitReceive r p f) s = .next t ∧ t.link key = { k with nakked := true } ∧
        t.out = s.out ++ [.nocFlits r p [idleFlit k.rxSeq true 0 0]] ∧
        t.fld F.PRT_NOC_LNK_CRC r.d.val = min (s.fld F.PRT_NOC_LNK_CRC r.d.val + 1) F.PRT_NOC_LNK_CRC.top ∧
        (∀ k', k' ≠ key → t.link k' = s.link k') ∧ RegsBut [regKey .prt r.d.val F.PRT_NOC_LNK_CRC.off] s t ∧
        t = { s with regs := t.regs, links := t.links, out := t.out })) ∧
    (∀ (a : BitVec 8) (l : List NocFlit), l ≠ [] → (∃ g, k.kept = g :: l ∧ g.seq = a) ∨ (k.kept = l ∧ (∀ h ∈ l, h.seq ≠ a) ∧ k.fails < 8) →
      ∃ t, exec (.nocReplay r p a) s = .next t ∧ t.link key = { k with kept := l, fails := if k.kept = l then k.fails + 1 else 1 } ∧
        t.out = s.out ++ [.nocResend r p l] ∧
        t.fld F.PRT_NOC_LNK_REPLAY r.d.val = min (s.fld F.PRT_NOC_LNK_REPLAY r.d.val + l.length) F.PRT_NOC_LNK_REPLAY.top ∧
        (∀ k', k' ≠ key → t.link k' = s.link k') ∧ RegsBut [regKey .prt r.d.val F.PRT_NOC_LNK_REPLAY.off] s t ∧
        t = { s with regs := t.regs, links := t.links, out := t.out })) ∧
  ((∀ (s : State) (d : Fin 32) (edge : Fin 4) (k : Fin 8), s.canon = true → s.chanUp d.val (edgePort edge.val) k.val = true →
    ∃ t, exec (.d2dChannelDown d edge k) s = .next t ∧ t.chanUp d.val (edgePort edge.val) k.val = false ∧
      (∀ a, facing d.val (edgePort edge.val) = some a → t.chanUp a (portBack (edgePort edge.val)) k.val = false) ∧
      t.fld F.PRT_NOC_DOWN_COUNT d.val = min (s.fld F.PRT_NOC_DOWN_COUNT d.val + 1) F.PRT_NOC_DOWN_COUNT.top ∧
      t.fld F.PRT_NOC_DOWN_EDGE d.val = edge.val ∧ t.fld F.PRT_NOC_DOWN_CHAN d.val = k.val ∧
      CoresButIns [] s t ∧ t.cells = s.cells ∧ t.trees = s.trees) ∧
  (∀ (s : State) (r : TileId) (p : RPort), s.canon = true →
    ((across r p = none ∨ (gateNo r p).isSome = true) → exec (.meshLinkDown r p) s = .next s) ∧
    (∀ q, across r p = some q → gateNo r p = none → (s.link (linkKey r p)).down = false →
      ∃ t, exec (.meshLinkDown r p) s = .next t ∧ (t.link (linkKey r p)).down = true ∧ (t.link (linkKey r p)).kept = [] ∧
        (t.link (linkKey q (portBack p))).down = true ∧
        t.fld F.PRT_NOC_DOWN_COUNT r.d.val = min (s.fld F.PRT_NOC_DOWN_COUNT r.d.val + 1) F.PRT_NOC_DOWN_COUNT.top ∧
        t.fld F.PRT_NOC_DOWN_EDGE r.d.val = 4 ∧ (s.part r.d.val ≠ 0x3F → (t.job (s.part r.d.val)).stopped = true) ∧
        CoresButIns [] s t ∧ t.cells = s.cells ∧ t.trees = s.trees)))

/-- R135, R136, R141, R142: a packet's head at its destination router leaves the mesh there. A TRN packet for any endpoint but a port block is
discarded and counted in PRT_NOC_DROP.TRN_MISS, and never reaches the endpoint. A packet on its way goes to the fixed route's output:
every flit of it is sent there, or waits at the input for a credit. A packet that has come by a link is routed when its head stands at the
front of its buffer, and not before. Stated where nothing else is on its way through the router. R144–R146: a branch stalled beyond the
limit leaves its tree's entry and is recorded in PRT_NOC_MCEVT, a unicast stall is recorded with TREE 0xFFFF, and MC_HOLD goes to every
die of the partition; a scheduler that receives it stops admission of its job and ends the passages homed there FAULTED with MC_HOLD. A
leaf answers a MARKER; with the last acknowledgement the old tree's entries are gone. -/
def Obligations.NocPackets : Prop :=
  (∀ (s : State) (r : TileId) (p : RPort) (k : Packet), s.canon = true → s.routerQuiet r = true → k.mc = false →
    (leaves r p = true → (s.link (linkKey r p)).buf = [] →
      (k.dst = r → k.vc = .trn → k.kind.val ≠ 7 → ∃ t, exec (.packetRoute r p k) s = .next t ∧
        t.fld F.PRT_NOC_DROP_TRN_MISS r.d.val = min (s.fld F.PRT_NOC_DROP_TRN_MISS r.d.val + 1) F.PRT_NOC_DROP_TRN_MISS.top ∧
        RegsBut [regKey .prt r.d.val F.PRT_NOC_DROP_TRN_MISS.off] s t ∧ (∀ k', t.link k' = s.link k') ∧
        t = { s with regs := t.regs, links := t.links, flitSel := t.flitSel }) ∧
      (k.dst = r → k.vc = .trn → k.kind.val = 7 → ¬ (k.ptype = 4 ∧ k.crcOk = false) → ∃ t, exec (.packetRoute r p k) s = .next t ∧
        t.out = s.out ++ [.nocSend r (exitPort r 7) k] ∧ (∀ k', t.link k' = s.link k') ∧
        t = { s with links := t.links, out := t.out, flitSel := t.flitSel }) ∧
      (∀ q, k.dst.d = r.d → k.dst ≠ r → s.nextPort false r k.dst = some q → (s.link (linkKey r q)).down = false →
        ∃ t, exec (.packetRoute r p k) s = .next t ∧ q ≠ .l ∧
          (∀ f ∈ pktFlits k false, f ∈ (t.link (linkKey r p)).inBuf (bufKey k.vc false) ∨
            ∃ g : NocFlit, g.data = f.data ∧ .nocFlits r q [g] ∈ t.out) ∧
          (∀ k', k' ≠ linkKey r q → k' ≠ linkKey r p → t.link k' = s.link k') ∧
          t = { s with links := t.links, out := t.out, flitSel := t.flitSel })) ∧
    (leaves r p = false →
      ((s.link (linkKey r p)).headOf k = none → exec (.packetRoute r p k) s = .next s) ∧
      (∀ b q, (s.link (linkKey r p)).headOf k = some b → k.dst.d = r.d → k.dst ≠ r → s.nextPort false r k.dst = some q →
        (s.link (linkKey r q)).down = false → ∃ t, exec (.packetRoute r p k) s = .next t ∧
          (∀ f ∈ firstPacket ((s.link (linkKey r p)).inBuf b), f ∈ (t.link (linkKey r p)).inBuf b ∨
            ∃ g : NocFlit, g.data = f.data ∧ .nocFlits r q [g] ∈ t.out) ∧
          t = { s with links := t.links, out := t.out, flitSel := t.flitSel }))) ∧
  (∀ (s : State), s.canon = true →
    (∀ (r : TileId) (p : RPort) (tree : BitVec 16) (part : Fin 64) (e : TreeEnt), s.treeEnt r tree.toNat part.val = some e → p ∈ e.mask →
      ∃ t, exec (.mcHoldExpiry r p tree part) s = .next t ∧ (∀ e', t.treeEnt r tree.toNat part.val = some e' → p ∉ e'.mask) ∧
        t.fld F.PRT_NOC_MCEVT_VALID r.d.val = 1 ∧ t.fld F.PRT_NOC_MCEVT_TREE r.d.val = tree.toNat ∧
        t.fld F.PRT_NOC_MCEVT_PART r.d.val = part.val ∧ t.fld F.PRT_NOC_MCEVT_PORT r.d.val = portCode p ∧
        (∀ d ∈ s.partDies part.val, .ctl "MC_HOLD" d part.val tree.toNat (packTile r) ∈ t.out) ∧
        (s.routerQuiet r = true → (∀ k, t.link k = s.link k) ∧ RegsBut [regKey .prt r.d.val F.PRT_NOC_MCEVT_VALID.off] s t ∧
          t = { s with regs := t.regs, trees := t.trees, links := t.links, out := t.out })) ∧
    (∀ (r : TileId) (p : RPort) (part : Fin 64), ∃ t, exec (.unicastHoldExpiry r p part) s = .next t ∧
        t.fld F.PRT_NOC_MCEVT_VALID r.d.val = 1 ∧ t.fld F.PRT_NOC_MCEVT_TREE r.d.val = 0xFFFF ∧
        t.fld F.PRT_NOC_MCEVT_PART r.d.val = part.val ∧
        (∀ d ∈ s.partDies part.val, .ctl "MC_HOLD" d part.val 0xFFFF (packTile r) ∈ t.out) ∧
        (s.routerQuiet r = true → RegsBut [regKey .prt r.d.val F.PRT_NOC_MCEVT_VALID.off] s t ∧
          t = { s with regs := t.regs, out := t.out })) ∧
    (∀ (d : Fin 32) (part : Fin 64) (i : Nat), s.part d.val = part.val → i ∈ s.partLive part.val → (s.passage i).home = d.val →
      ∃ t, exec (.mcHold d part) s = .next t ∧ (t.job part.val).stopped = true ∧ t.faulted i 2 ∧ CoresButIns [] s t ∧ t.trees = s.trees) ∧
    (∀ (x : TileId) (tree : BitVec 16) (part : Fin 64),
      ∃ t, exec (.marker x tree part) s = .next t ∧ t.out = s.out ++ [.ctl "MARKER_ACK" x.d.val part.val tree.toNat (packTile x)] ∧
        t = { s with out := t.out }) ∧
    (∀ (x : TileId) (tree : BitVec 16) (part : Fin 64) (o : OldTree) (y : Leaf), s.oldTrees = [o] → o.tree = tree.toNat → o.part = part.val →
      o.leaves = [y] → y.t = x → (s.job part.val).treeDue = false → (s.job part.val).rebinds = [] →
      ∃ t, exec (.markerAck x tree part) s = .next t ∧ t.oldTrees = [] ∧
        (∀ k, ∀ e ∈ t.treeTab k, ¬ (e.tree = tree.toNat ∧ e.part = part.val)) ∧ t = { s with trees := t.trees, oldTrees := t.oldTrees }))

/-! ## Images, binding and rebinding -/

/-- R167, R169–R171: LOAD or CHECK of an image whose header passes checks 1–6, on a partition that is idle and EMPTY or FAILED, shows STATE
CHECKING with BUSY on every die and holds the operation, address, length and job; with a header that fails a check, STATE FAILED with the
check's code; a write of Keeper firmware starts nothing (R174). UNLOAD of a READY image stops admission, shows DRAINING and ends the
passages ADMITTED or HELD FAULTED with UNLOADED. R167–R170, R194: where checks 7–13 pass, a CHECK ends EMPTY and a LOAD goes on to BINDING
with the image's stages and epoch and what its costs are reckoned from (R184); a failed check ends it FAILED with the check's code. The
end of an unload's drain, DRAIN ms long or until no passage is RUNNING or WAITING, faults what still runs with UNLOADED, releases the
partition and shows EMPTY. A load whose shards are here and whose arrays are programmed and calibrated is READY. A slice peer that does
not answer within 1 s ends the load FAILED with CODE 15, CAUSE 6. Arrays keep their cells throughout. -/
def Obligations.Images : Prop :=
  (∀ (s : State) (src : Src) (d : Fin 32) (v : Word), s.canon = true → s.takes src .bil d.val 0x110 = true → bitsOf v 0 0 = 1 →
    s.part d.val < 16 → s.flag F.BIL_IMG_STS_BUSY d.val = false →
    let p := s.part d.val
    let u := after (storeRW .bil d.val 0x110 v) s
    let a := u.fld F.BIL_IMG_ADDR_ADDR d.val * 64
    let len := u.fld F.BIL_IMG_LEN_LEN d.val
    let st := s.fld F.BIL_IMG_STS_STATE d.val
    let keys := regKey .bil d.val 0x110 :: (s.partDies p).map fun e => regKey .bil e F.BIL_IMG_STS_STATE.off
    let begun := fun (t : State) (live : Bool) (op : Nat) =>
      t.job p = { Job.zero with live := live, op := op, addr := a, len := len, job := F.BIL_IMG_CMD_JOB.of v } ∧
      (∀ e ∈ s.partDies p, t.fld F.BIL_IMG_STS_STATE e = 1 ∧ t.fld F.BIL_IMG_STS_CODE e = 0 ∧ t.flag F.BIL_IMG_STS_BUSY e = true) ∧
      JobsBut [p] s t ∧ ButSlices keys { s with jobs := t.jobs } t
    let failed := fun (t : State) (f : ImgFail) =>
      (∀ e ∈ s.partDies p, t.fld F.BIL_IMG_STS_STATE e = 6 ∧ t.fld F.BIL_IMG_STS_CODE e = f.code % 256 ∧ t.flag F.BIL_IMG_STS_BUSY e = false) ∧
      ButSlices keys s t
    (src = .keeper → ∀ i ∈ [Instr.imageLoad src d v, .imageCheck src d v, .imageUnload src d v], exec i s = .next u) ∧
    (src ≠ .keeper → bitsOf v 3 1 = 1 → st = 0 ∨ st = 6 → (s.heldE a 640).isEmpty = true →
      (u.imgHeader p a len = none → ∃ t, exec (.imageLoad src d v) s = .next t ∧ begun t true 1) ∧
      (∀ f, u.imgHeader p a len = some f → ∃ t, exec (.imageLoad src d v) s = .next t ∧ failed t f)) ∧
    (src ≠ .keeper → bitsOf v 3 1 = 3 → st = 0 ∨ st = 6 → (s.heldE a 640).isEmpty = true →
      (u.imgHeader p a len = none → ∃ t, exec (.imageCheck src d v) s = .next t ∧ begun t false 3) ∧
      (∀ f, u.imgHeader p a len = some f → ∃ t, exec (.imageCheck src d v) s = .next t ∧ failed t f)) ∧
    (src ≠ .keeper → bitsOf v 3 1 = 2 → st = 4 → ∃ t, exec (.imageUnload src d v) s = .next t ∧ (t.job p).op = 2 ∧ (t.job p).stopped = true ∧
      (t.job p).due = s.mile + BitVec.ofNat 64 (1000000 * F.BIL_IMG_CMD_DRAIN.of v) ∧
      (∀ e ∈ s.partDies p, t.fld F.BIL_IMG_STS_STATE e = 5 ∧ t.flag F.BIL_IMG_STS_BUSY e = true) ∧
      (∀ i ∈ s.partLive p, (s.passage i).st = 1 ∨ (s.passage i).st = 2 → t.faulted i 5) ∧
      (∀ i ∈ s.partLive p, ¬ ((s.passage i).st = 1 ∨ (s.passage i).st = 2) → (t.passage i).st = (s.passage i).st) ∧
      t.cells = s.cells ∧ t.trees = s.trees ∧ t.wins = s.wins ∧ t.bfp = s.bfp)) ∧
  (∀ (s : State) (part : Fin 16), s.canon = true →
    let p := part.val
    let j := s.job p
    s.partDies p ≠ [] →
    let shows := fun (t : State) (st code : Nat) (busy : Bool) =>
      ∀ e ∈ s.partDies p, t.fld F.BIL_IMG_STS_STATE e = st ∧ t.fld F.BIL_IMG_STS_CODE e = code ∧ t.flag F.BIL_IMG_STS_BUSY e = busy
    (s.imgSt p = 1 → j.op = 1 ∨ j.op = 3 → (s.heldE j.addr j.len).isEmpty = true →
      (s.imgBody j.addr j.len = none → j.op = 3 → ∃ t, exec (.imageChecksDone part) s = .next t ∧ shows t 0 0 false ∧
        t.job p = Job.zero ∧ t.cells = s.cells) ∧
      (s.imgBody j.addr j.len = none → j.op = 1 → ∃ t, exec (.imageChecksDone part) s = .next t ∧ shows t 2 0 true ∧
        t.job p = { j with bindIn := some (s.costIn p), due := s.mile + 1000000000, hdrCrc := s.num (j.addr + 0x7C) 4, epoch := s.num (s.manSect j.addr + 8) 2, stages := s.stages j.addr } ∧
        (∀ e ∈ s.partDies p, ∀ k, k < 4 → t.reg .bil e (0x120 + 8 * k) = BitVec.ofNat 64 (s.num (j.addr + 0x18 + 8 * k) 8)) ∧
        JobsBut [p] s t ∧
        ButSlices ((s.partDies p).flatMap fun e => [0x118, 0x120, 0x128, 0x130, 0x138].map (regKey .bil e)) { s with jobs := t.jobs } t) ∧
      (∀ f, s.imgBody j.addr j.len = some f → ∃ t, exec (.imageChecksDone part) s = .next t ∧ shows t 6 (f.code % 256) false ∧
        t.job p = Job.zero ∧ t.cells = s.cells)) ∧
    (s.imgSt p = 5 → s.busySteps p = false ∨ j.due ≤ s.mile → ∃ t, exec (.unloadDrainExpiry part) s = .next t ∧ shows t 0 0 false ∧ t.job p = Job.zero ∧
      (∀ i ∈ s.partLive p, t.faulted i 5) ∧ t.cells = s.cells) ∧
    (s.imgSt p = 3 → s.loadBusy p = false → j.shards.all Shard.here = true →
      ∃ t, exec (.loadReady part) s = .next t ∧ shows t 4 0 false ∧ t.job p = { j with op := 0, stopped := false } ∧
        t.fld F.LDR_STS_PHASE p = 4 ∧ JobsBut [p] s t ∧
        (s.keeperUp = false → p ∈ t.keeper.retDue) ∧
        t = { s with regs := t.regs, jobs := t.jobs, nvm := t.nvm, keeper := t.keeper, ports := t.ports, free := t.free, out := t.out }) ∧
    (∀ rank : BitVec 14, s.imgSt p = 2 → j.due ≤ s.mile → ∃ t, exec (.sliceBindTimeout part rank) s = .next t ∧ shows t 6 15 false ∧
      t.job p = Job.zero ∧ (∀ e ∈ s.partDies p, t.fld F.BIL_BIND_STS_CAUSE e = 6) ∧ t.cells = s.cells))

/-- R167, R168, R193, R194, R298: a bind whose parts disagree ends FAILED with CODE 17. Otherwise the placement is what the billeter decides
from the partition's dies, the image and the slice: the part's rank is what its slice coordinates give; where it decides one, the
replicas, the tier's logical arrays, the regions and the notes are in force, every placed tile is bound, and the image is LOADING; where
it cannot, the load is FAILED with CODE 15 and the cause; but what one part of several cannot place for its routers' entries it hands back
to the coordinator once, and stays in BINDING. R181, R202, R203: a tile that BIL_FORBID names joins its die's forbid set, or leaves it,
and BIL_FORBID_CNT counts the set; a tile that joins loses its tag. Nothing moves back when a tile leaves it. R196: once the spare of a
rebind is programmed and calibrated, and no other tile of its replica is still awaited, routes and trees follow it. Where no change of
them is still on its way the rebind is over: the replica is back in service, the items held for the tile left are queued at the spare, and
BIL_REBIND shows the tile left and the result; else the rebind is ready and waits for the change. -/
def Obligations.Binding : Prop :=
  (∀ (s : State) (part : Fin 16) (agrees allMatch : Bool) (rank : BitVec 14) (pol : Word) (wrapOk : BitVec 3) (caps : List (List (Nat × Nat))),
    s.canon = true →
    let p := part.val
    let n := max 1 caps.length
    let u := after (bindSlice p n rank.toNat wrapOk.toNat) s
    let i := Instr.bindDone part agrees allMatch rank pol wrapOk caps
    let shows := fun (t : State) (st code : Nat) (busy : Bool) =>
      ∀ e ∈ s.partDies p, t.fld F.BIL_IMG_STS_STATE e = st ∧ t.fld F.BIL_IMG_STS_CODE e = code ∧ t.flag F.BIL_IMG_STS_BUSY e = busy
    s.partDies p ≠ [] → s.imgSt p = 2 → rank.toNat < n → rank.toNat = s.rankHere p n →
    (agrees = false → ∃ t, exec i s = .next t ∧ shows t 6 17 false ∧ t.job p = Job.zero ∧ t.cells = s.cells) ∧
    (agrees = true →
      (∀ b, u.bindChoice p rank.toNat allMatch pol caps = .ok b → ∃ t, exec i s = .next t ∧ shows t 3 0 true ∧
        (t.job p).reps = b.reps ∧ (t.job p).tier = b.tier ∧ (t.job p).regions = b.regions ∧ (t.job p).notes = b.notes ∧
        (∀ e ∈ s.partDies p, t.fld F.BIL_BIND_STS_CAUSE e = 0) ∧ t.fld F.LDR_STS_PHASE p = (if (t.job p).inUse.all Shard.here then if t.verifying p then 3 else 2 else 1) ∧
        ((b.reps.flatMap Replica.tiles).Nodup →
          ∀ r ∈ b.reps, r.stage < (s.job p).stages.length → ∀ x ∈ r.tiles.zipIdx, (t.core (.tile x.1)).bound = some (r.stage, r.rep, x.2)) ∧
        JobsBut [p] s t ∧ t.cells = s.cells) ∧
      (∀ l c, u.bindChoice p rank.toNat allMatch pol caps = .error (l ++ [c]) →
        (c.code = 4 → 1 < n → (s.job p).handed = false →
          exec i s = .next { u with jobs := SMap.set (fun _ => Job.zero) u.jobs p { u.job p with handed := true }
                                    out := u.out ++ [.slice p "HANDED_BACK" c.arg (u.rank p)] }) ∧
        (¬ (c.code = 4 ∧ 1 < n ∧ (s.job p).handed = false) → ∃ t, exec i s = .next t ∧ shows t 6 15 false ∧
          (∀ x ∈ s.partDies p, t.fld F.BIL_BIND_STS_CAUSE x = c.code % 2 ^ 8) ∧ t.job p = Job.zero ∧ t.cells = s.cells)))) ∧
  (∀ (s : State) (src : Src) (d : Fin 32) (v : Word) (x : TileId), s.canon = true → s.takes src .bil d.val 0x228 = true →
    bitsOf v 0 0 = 1 → s.part d.val < 16 → tileAt d.val (F.BIL_FORBID_X.of v) (F.BIL_FORBID_Y.of v) = some x →
    let l := (s.die d.val).forbid.filter fun y => y != x
    (bitsOf v 1 1 = 1 → ∃ t, exec (.forbidSet src d v) s = .next t ∧ (t.die d.val).forbid = l ++ [x] ∧
      t.fld F.BIL_FORBID_CNT_COUNT d.val = (l.length + 1) % 2 ^ 16 ∧
      (x ∉ (s.die d.val).forbid → s.rebindOf x = none → s.replicaAt x = none →
        (∀ q, q < 16 → ∀ w ∈ (s.job q).swap, ∀ r ∈ w.copies, x ∉ r.tiles) → (t.tsum x).valid = false ∧
        (∀ y, y ≠ x → t.tsum y = s.tsum y) ∧ RegsBut [regKey .bil d.val F.BIL_FORBID_CNT_COUNT.off] s t ∧ DiesBut [d.val] s t ∧
        t = { s with regs := t.regs, dies := t.dies, nvm := t.nvm })) ∧
    (bitsOf v 1 1 = 0 → ∃ t, exec (.forbidClear src d v) s = .next t ∧ t.die d.val = { s.die d.val with forbid := l } ∧
      t.fld F.BIL_FORBID_CNT_COUNT d.val = l.length % 2 ^ 16 ∧ DiesBut [d.val] s t ∧
      RegsBut [regKey .bil d.val F.BIL_FORBID_CNT_COUNT.off] s t ∧ t = { s with regs := t.regs, dies := t.dies })) ∧
  (∀ (s : State) (x : TileId) (p : Nat) (b : Rebind), s.canon = true → s.rebindOf x = some (p, b) → s.arrState x = 1 →
    let busy := s.die x.d.val
    busy.progQ.any (fun q => q.tile == x) = false → busy.progNow.any (fun q => q.tile == x) = false →
    busy.calDue.any (fun q => q.tile == x) = false → busy.calNow.any (fun q => q.tile == x) = false →
    b.due = none → b.old ≠ b.spare →
    ((s.job p).rebinds.filter fun y => y.stage == b.stage && y.rep == b.rep) = [b] →
    (∀ y ∈ (s.job p).rebinds, y.ready = true → y.old = b.old) →
    let u := after (respare p b.stage b.rep)
      (after (modJob p fun j => { j with rebinds := j.rebinds.map fun y => if y.old == b.old then { y with ready := true } else y }) s)
    (u.routesWait p = true → exec (.rebindSpareReady x) s = .next u) ∧
    (u.routesWait p = false → ∃ t, exec (.rebindSpareReady x) s = .next t ∧
      (t.job p).rebinds = (s.job p).rebinds.filter (fun y => y.old != b.old) ∧
      (∀ r ∈ (t.job p).reps, r.stage = b.stage → r.rep = b.rep → r.outOfService = false) ∧
      (t.core (.tile x)).queue.map WorkItem.handle = (s.core (.tile x)).queue.map WorkItem.handle ++ (b.items.map fun y => y.1.handle) ∧
      t.fld F.BIL_REBIND_X b.old.d.val = b.old.x.val ∧ t.fld F.BIL_REBIND_Y b.old.d.val = b.old.y.val ∧
      t.fld F.BIL_REBIND_RESULT b.old.d.val = b.result % (F.BIL_REBIND_RESULT.top + 1) ∧ JobsBut [p] s t ∧ t.cells = s.cells))

/-! ## Passages and their rings -/

/-- R206–R208, R212, R213, R216–R218, R231: the command of an entry's operation takes the entry at HEAD of an admission ring that may be read:
its OWN byte is zero and HEAD rises by one. An entry whose CRC-16 fails, or that the stack cannot correct, is rejected with BAD_CRC. An
OPEN that passes its checks makes its passage, WAITING without input, otherwise with its first step in flight. A FEED adds its slots, a
CLOSE closes, and a CANCEL ends the passage FAULTED with CANCELLED: for a passage homed there, or, over CTL, where the home die receives
the command. -/
def Obligations.EntriesAreTaken : Prop :=
  ∀ (s : State) (d : Fin 32), s.canon = true →
    let fed := fun (t : State) (i n : Nat) => (t.passage i).inTail = ((s.passage i).inTail + n) % 65536
    let mayFeed := fun (i n : Nat) => (s.passage i).stream = true ∧ (s.passage i).closed = false ∧ n ≠ 0 ∧ n ≤ 4096 ∧
      (s.passage i).pendingIn + n ≤ 2 ^ ringLog2 (s.passage i).inRing
    let closed := fun (t : State) (i : Nat) => (t.passage i).closed = true ∧
      ((s.passage i).pendingIn = 0 → (s.passage i).inflight = false → (s.passage i).waiting = none → (t.passage i).st = 5)
    let a := s.aringEntry d.val
    let e := s.bytes a 64
    let i := leAt e 4 4 % 1048576
    let taken := fun (c : Instr) (t : State) => exec c s = .next t ∧ t.byte (a + 63) = 0 ∧
      t.fld F.PAS_ARING_HEAD_HEAD d.val = (s.fld F.PAS_ARING_HEAD_HEAD d.val + 1) % 2 ^ 17 ∧ t.cells = s.cells ∧ t.trees = s.trees
    (s.mayAdmit d.val = true → (s.heldE a 64).isEmpty = true → leAt e 63 1 % 2 = 1 →
      (∀ x ∈ [(1, Instr.openEntry d), (2, .feed d), (3, .close d), (4, .cancel d)], entryOp e = x.1 → ∃ t, taken x.2 t ∧
        (crc16Ok e 0x3C = false ∨ s.poisoned a 64 = true → t.fld F.PAS_REJ_COUNT d.val = min (s.fld F.PAS_REJ_COUNT d.val + 1) F.PAS_REJ_COUNT.top ∧
          t.fld F.PAS_REJ_LAST d.val = 0x20)) ∧
      (crc16Ok e 0x3C = true → s.poisoned a 64 = false → leAt e 0 1 = 1 → openCheck s d.val e = 0 → (s.cachedOn d.val).length < 2048 →
        ∃ t, taken (.openEntry d) t ∧
          let g := t.passage i
          let o := openPassage s d.val e
          g = { o with cached := true, st := g.st, inHead := g.inHead, inflight := g.inflight, hold := g.hold, heldFrom := g.heldFrom,
                       exitAt := g.exitAt, status := g.status, finalAt := g.finalAt, outAt := g.outAt } ∧
          (o.inTail = 0 → g.st = 4) ∧
          (o.inTail ≠ 0 → s.power.gated = false → (s.die o.cring).compQ.any (fun c => c.idx == i && c.kind == 1) = false → s.admStopped (s.part d.val) = false →
            s.poisoned (ringAddr o.inRing) (s.inSlot (s.part d.val)) = false → g.st = 1 ∧ g.inflight = true ∧ g.inHead = 1)) ∧
      (crc16Ok e 0x3C = true → s.poisoned a 64 = false → s.inRange (s.part d.val) i = true → s.byHandle (BitVec.ofNat 32 (leAt e 4 4)) = some i →
        (s.passage i).guest = false → (s.passage i).home = d.val → (s.passage i).cached = true →
        (leAt e 0 1 = 2 → mayFeed i (leAt e 10 2) → ∃ t, taken (.feed d) t ∧ fed t i (leAt e 10 2)) ∧
        (leAt e 0 1 = 3 → ∃ t, taken (.close d) t ∧ closed t i) ∧
        (leAt e 0 1 = 4 → ∃ t, taken (.cancel d) t ∧ t.faulted i 6))) ∧
    (∀ (from_ : Fin 32) (h : Word32) (i : Nat) (n : BitVec 16), s.byHandle h = some i → (s.passage i).guest = false → (s.passage i).home = d.val →
      (s.passage i).cached = true →
      (mayFeed i n.toNat → ∃ t, exec (.commandForward d from_ 2 h n) s = .next t ∧ fed t i n.toNat ∧ t.cells = s.cells) ∧
      (∃ t, exec (.commandForward d from_ 3 h n) s = .next t ∧ closed t i ∧ t.cells = s.cells) ∧
      (∃ t, exec (.commandForward d from_ 4 h n) s = .next t ∧ t.faulted i 6 ∧ t.cells = s.cells))

/-- R207, R217, R222, R232: PAS_ARING_TAIL offers entries up to TAIL. A ring base that R222 does not discard is stored, and enabling the ring
sets HEAD to 0; one that it discards changes nothing. A Passage Table base within the partition's regions, while its image is EMPTY, is
shown with VALID on every die of the partition. PAS_PEEK shows the state of a passage homed on the die as it is when read. R209, R210,
R212, R215: once the host moves HEAD of a completion ring past an ended passage's final entry, the passage is FREE. The entry of a passage
is brought into its home die's cache as the stack holds it, and one whose CRC-16 fails, or that the stack cannot correct, ends the passage
FAULTED with PT_CRC. -/
def Obligations.PassageRings : Prop :=
  (∀ (s : State) (src : Src) (d : Fin 32) (v : Word), s.canon = true →
    (s.takes src .pas d.val 0x118 = true → ∃ t, exec (.admissionDoorbell src d v) s = .next t ∧
      t.die d.val = { s.die d.val with atail := bitsOf v 16 0, aStop := false } ∧ DiesBut [d.val] s t ∧ t = { s with dies := t.dies }) ∧
    (∀ c : Bool, let off := if c then 0x128 else 0x110
      s.takes src .pas d.val off = true →
      (ringDiscard s d.val c v = true → exec (.ringBaseWrite src d c v) s = .next s) ∧
      (ringDiscard s d.val c v = false → ∃ t, exec (.ringBaseWrite src d c v) s = .next t ∧
        bitsOf (t.reg .pas d.val off) 63 63 = bitsOf v 63 63 ∧ bitsOf (t.reg .pas d.val off) 47 6 = bitsOf v 47 6 ∧
        bitsOf (t.reg .pas d.val off) 5 0 = bitsOf v 5 0 ∧ t.cells = s.cells ∧
        (bitsOf (s.reg .pas d.val off) 63 63 = 0 → bitsOf v 63 63 = 1 →
          (c = false → t.fld F.PAS_ARING_HEAD_HEAD d.val = 0 ∧ (t.die d.val).atail = 0) ∧
          (c = true → t.fld F.PAS_CRING_HEAD_HEAD d.val = 0)))) ∧
    (s.takes src .pas d.val 0x100 = true → ∀ lo hi, s.range (s.part d.val) = some (lo, hi) →
      s.fld F.BIL_IMG_STS_STATE d.val = 0 → s.owns (s.part d.val) (bitsOf v 47 12 * 4096) ((hi + 1 - lo) * 128) = true →
      ∃ t, exec (.ptBaseWrite src d v) s = .next t ∧
        (∀ e ∈ s.partDies (s.part d.val), t.fld F.PAS_PT_BASE_ADDR e = bitsOf v 47 12 ∧ t.flag F.PAS_PT_BASE_VALID e = true) ∧
        RegsBut ((s.partDies (s.part d.val)).map fun e => regKey .pas e 0x100) s t ∧ t = { s with regs := t.regs }) ∧
    (s.takes src .pas d.val 0x158 = true → ∃ t, exec (.peekWrite src d v) s = .next t ∧
      t.fld F.PAS_PEEK_INDEX d.val = bitsOf v 19 0 ∧
      ((s.passage (bitsOf v 19 0)).home = d.val → t.flag F.PAS_PEEK_VALID d.val = true) ∧
      (∀ u : State, u.regs = t.regs → (u.passage (bitsOf v 19 0)).home = d.val → (s.passage (bitsOf v 19 0)).home = d.val →
        u.views .pas d.val 0x158 = [(F.PAS_PEEK_VALID, 1), (F.PAS_PEEK_STATE, (u.passage (bitsOf v 19 0)).st)]) ∧
      ((s.passage (bitsOf v 19 0)).home ≠ d.val → t.flag F.PAS_PEEK_VALID d.val = false) ∧
      RegsBut [regKey .pas d.val 0x158] s t ∧ t = { s with regs := t.regs })) ∧
  ((∀ (s : State) (src : Src) (d : Fin 32) (v : Word) (i n : Nat), s.canon = true → s.takes src .pas d.val 0x130 = true →
    i ∈ s.live → (s.passage i).st = 5 ∨ (s.passage i).st = 6 → (s.passage i).cring = d.val → (s.passage i).waiting = none →
    (s.passage i).finalAt = some n →
    passed (s.fld F.PAS_CRING_HEAD_HEAD d.val) (bitsOf v 16 0) n = true → (∀ e, ∀ c ∈ (s.die e).compQ, c.idx ≠ i) →
    ∃ t, exec (.completionHeadWrite src d v) s = .next t ∧ t.fld F.PAS_CRING_HEAD_HEAD d.val = bitsOf v 16 0 ∧
      t.passage i = Passage.zero ∧ t.cells = s.cells) ∧
  (∀ (s : State) (d : Fin 32) (i : Fin 1048576), s.canon = true →
    let p := s.passage i.val
    let b := s.bytes (s.ptAddr d.val i.val) 128
    p.open_ = true → p.guest = false → p.home = d.val → p.cached = false → (s.cachedOn d.val).length < 2048 →
    (crc16Ok b 0x7E = true → s.poisoned (s.ptAddr d.val i.val) 128 = false → ∃ t, exec (.passageCacheFill d i .ok) s = .next t ∧
      let g := t.passage i.val
      g.cached = true ∧ g.handle = BitVec.ofNat 32 (leAt b 0 4) ∧ g.inTail = leAt b 34 2 ∧ g.outNext = leAt b 36 2 ∧
      g.user = BitVec.ofNat 32 (leAt b 68 4) ∧ t.cells = s.cells) ∧
    (crc16Ok b 0x7E = false → ∃ t, exec (.passageCacheFill d i .ok) s = .next t ∧ t.faulted i.val 8 ∧ t.cells = s.cells) ∧
    (∃ t, exec (.passageCacheFill d i .uncorrectable) s = .next t ∧ t.faulted i.val 8 ∧ t.cells = s.cells)))

/-! ## Scheduling, expert routing and early exit -/

/-- R225, R247: a report adds one arrived segment to the passage's item at the replica, making the item where the scoreboard has none; an item
whose segments are all there is ready, unless its stage combines expert contributions; it takes the gate its segment carries. A passage
homed on another part of the slice runs here by what its segments carry (R206). A count of contributions, or one fewer, is noted on the
item. Nothing but the die's scoreboard changes, and what the replica's tiles know of their input. -/
def Obligations.ScoreboardReports : Prop :=
  ∀ (s : State) (d : Fin 32) (i : Fin 1048576) (stage : BitVec 16) (st : Stage), s.canon = true →
    s.stage (s.part d.val) stage.toNat = some st →
    let sb := (s.die d.val).sb
    let only := fun (u t : State) => t.die d.val = { s.die d.val with sb := (t.die d.val).sb, sbOrd := (s.die d.val).sbOrd + 1 } ∧
      DiesBut [d.val] s t ∧ CoresButIns [] s t ∧ t = { u with dies := t.dies, cores := t.cores }
    (∀ (rep : BitVec 8) (seg : BitVec 16) (carried : Option Carried), s.tracks d.val stage.toNat rep.toNat = true →
      (s.passage i.val).open_ = true → ∃ t, exec (.arrivalReport d i stage ⟨rep, seg, carried⟩) s = .next t ∧ only s t ∧
      (sb.any (SbItem.is i.val stage.toNat rep.toNat) = false → ∃ y, (t.die d.val).sb = sb ++ [y] ∧
        y.is i.val stage.toNat rep.toNat = true ∧ y.got = 1 ∧ y.need = st.nIn ∧ y.gate = (carried.bind fun c => c.gate.map Fin.val) ∧
        (s.combines (s.part d.val) stage.toNat = false → y.ready = decide (st.nIn ≤ 1))) ∧
      (∀ x ∈ sb, x.is i.val stage.toNat rep.toNat = true → ∃ y ∈ (t.die d.val).sb, y.is i.val stage.toNat rep.toNat = true ∧
        y.got = x.got + 1 ∧ (s.combines (s.part d.val) stage.toNat = false → y.ready = (x.ready || decide (x.need ≤ x.got + 1)))) ∧
      (∀ x ∈ sb, x.is i.val stage.toNat rep.toNat = false → x ∈ (t.die d.val).sb)) ∧
    (∀ (rep : BitVec 8) (seg : BitVec 16) (c : Carried), s.tracks d.val stage.toNat rep.toNat = true →
      (s.passage i.val).st = 0 → 1 < s.nParts (s.part d.val) → c.handle.toNat % 1048576 = i.val →
      let g := guestOf (s.part d.val) (s.job (s.part d.val)).job c
      ∃ t, exec (.arrivalReport d i stage ⟨rep, seg, some c⟩) s = .next t ∧ t.passage i.val = g ∧ PassagesBut [i.val] s t ∧
        only { s with passages := t.passages } t ∧
        ∃ y ∈ (t.die d.val).sb, y.is i.val stage.toNat rep.toNat = true) ∧
    (∀ (rep : BitVec 8) (seg : BitVec 16) (carried : Option Carried), s.tracks d.val stage.toNat rep.toNat = false →
      exec (.arrivalReport d i stage ⟨rep, seg, carried⟩) s = .next s) ∧
    ((s.passage i.val).open_ = true → ∀ n : Fin 17, let rep := s.combineRep d.val i.val stage.toNat
      (∃ t, exec (.expertCount d i stage false n) s = .next t ∧ only s t ∧
        ∃ y ∈ (t.die d.val).sb, y.is i.val stage.toNat rep = true ∧ y.exp = some n.val) ∧
      (∃ t, exec (.expertCount d i stage true n) s = .next t ∧ only s t ∧
        ∀ x ∈ sb, x.is i.val stage.toNat rep = true → ∃ y ∈ (t.die d.val).sb, y.is i.val stage.toNat rep = true ∧
          y.exp = x.exp.map fun k => k - 1))

/-- R226, R227: a batch of a replica closes with the first ready items of one epoch, in selection order, at most MAX of them: by BATCH_CLOSE
when MAX are ready or the replica is idle, by BATCH_WAIT_EXPIRY as they stand, once one of them has waited SCH_BATCH.WAIT. They are then
in that batch, under the recipe its stage has now (R62). (Stated for a stage that is no router, with no item under curfew.) R108, R196,
R214, R226: the scheduler feeds the next item of a replica's batch to the replica's tiles: each queues the work item of its logical array
with its input, in a drive buffer that no item holds or waiting for one (R107), and the item counts as dispatched. The first item of a
batch reads the milestone value of all (R51). Stated where no change of routes waits for the batch. A SOURCE item goes out on its routes
and is complete. -/
def Obligations.BatchesAndDispatch : Prop :=
  (∀ (s : State) (d : Fin 32) (stage : BitVec 16) (rep : BitVec 8) (st : Stage) (f : SbItem) (r : List SbItem), s.canon = true →
    s.stage (s.part d.val) stage.toNat = some st → st.kind ≠ 1 → s.heldItems d.val stage.toNat rep.toNat = [] →
    s.freeItems d.val stage.toNat rep.toNat = f :: r →
    let e := (s.passage f.idx).epoch
    let same := (f :: r).filter fun x => (s.passage x.idx).epoch == e
    let ids := (same.take (s.batchMax d.val)).map SbItem.idx
    let bat := s.batNext d.val
    let closes := fun (c : Instr) => ∃ t, exec c s = .next t ∧
      (t.die d.val).batches = (s.die d.val).batches ++
        [⟨stage.toNat, rep.toNat, e, bat, s.rcp d.val st.rcp, ids, 0, ids.length, true, none⟩] ∧
      (∀ y ∈ (t.die d.val).sb, y.stage = stage.toNat → y.rep = rep.toNat → y.idx ∈ ids → y.phase ≠ 0) ∧
      t.die d.val = { s.die d.val with batNo := (s.die d.val).batNo + 1, batches := (t.die d.val).batches, sb := (t.die d.val).sb } ∧
      DiesBut [d.val] s t ∧ t = { s with dies := t.dies, out := t.out }
    (s.batchMax d.val ≤ same.length ∨ s.idleRep d.val stage.toNat rep.toNat = true → closes (.batchClose d stage rep)) ∧
    (s.batchWaited d.val stage.toNat rep.toNat = true → closes (.batchWaitExpiry d stage rep))) ∧
  (∀ (s : State) (d : Fin 32) (stage : BitVec 16) (rep : BitVec 8) (b : Batch) (i : Nat) (st : Stage) (x : SbItem), s.canon = true →
    s.nextItem d.val stage.toNat rep.toNat = some (b, i) → s.stage (s.part d.val) stage.toNat = some st →
    (s.die d.val).sb.find? (SbItem.is i stage.toNat rep.toNat) = some x → (s.passage i).open_ = true →
    (s.job (s.part d.val)).switches.filter (fun y => y.stage == stage.toNat && y.rep == rep.toNat) = [] →
    (s.passage i).st ≠ 2 ∨ (s.passage i).cached = true →
    let x' := if b.mile.isNone && x.bat == b.bat && x.phase == 1 then { x with bmile := s.mile } else x
    (∀ r : Replica, st.kind ≠ 5 → s.repOf (s.part d.val) stage.toNat rep.toNat = some r →
      s.copyOf (s.part d.val) stage.toNat rep.toNat (s.passage i).epoch = none → r.outOfService = false →
      (∀ t ∈ r.tiles, s.arrState t ≠ 2 ∧ s.arrState t ≠ 3) →
      (st.kind = 1 ∨ st.kind = 2 → s.dispUsed d.val + dispUnits st x.rcp.inFmt ≤ 262144) → s.queuesOpen r = true →
      (∀ t ∈ r.tiles, (s.core (.tile t)).st ≠ 3) → r.tiles.Nodup →
      ∃ t, exec (.workDispatch d stage rep) s = .next t ∧
        (∀ y ∈ r.tiles.zipIdx, let k := s.core (.tile y.1)
          let c := t.core (.tile y.1)
          let l := k.inputOf i
          ∃ w, c = { k with queue := k.queue ++ [w], ins := c.ins } ∧
            w = { s.workItem d.val i stage.toNat rep.toNat y.2 st y.1 x' with buf := w.buf, input := w.input } ∧
            (∀ q, k.freeBuf = some q → w.buf = q ∧ w.input = none ∧
              t.bytes (coreBase (.tile y.1) + driveOff q) 0x600 =
                (after (forA (l.filter fun z => z.buf != some q) (writeHalf (.tile y.1) q)) s).bytes (coreBase (.tile y.1) + driveOff q) 0x600) ∧
            (k.freeBuf = none → w.input = if l.isEmpty then none else some l)) ∧
        (∀ a, (∀ y ∈ r.tiles, a < coreBase (.tile y) + 0x1600 ∨ coreBase (.tile y) + 0x2200 ≤ a) → t.byte a = s.byte a) ∧
        CoresBut (r.tiles.map CoreId.tile) s t ∧
        (∀ y ∈ (t.die d.val).sb, y.is i stage.toNat rep.toNat = true → y.phase = 2) ∧
        t.fld F.SCH_ITEM_CNT_COUNT d.val = (s.fld F.SCH_ITEM_CNT_COUNT d.val + 1) % (F.SCH_ITEM_CNT_COUNT.top + 1) ∧
        (t.passage i).stage = stage.toNat ∧ PassagesBut [i] s t ∧ DiesBut [d.val] s t ∧
        t = { s with cores := t.cores, dies := t.dies, passages := t.passages, regs := t.regs, mem := t.mem }) ∧
    (st.kind = 5 → ∃ t, exec (.workDispatch d stage rep) s = .next t ∧
      (∀ y ∈ (t.die d.val).sb, y.is i stage.toNat rep.toNat = false) ∧ (t.passage i).stage = stage.toNat ∧
      PassagesBut [i] s t ∧ (∀ e, e ≠ d.val → DieSlices (s.die e) (t.die e)) ∧ t.mem = s.mem ∧ t.cores = s.cores ∧ t.cells = s.cells ∧
      t.jobs = s.jobs ∧ t.trees = s.trees))

/-- R213, R215, R229, R230: the SINK result of a step ends it: OUT_NEXT and the steps rise by one, and a passage of one step is DONE with
nothing of it left on a scoreboard; a result whose slot the host has not released waits. A full scoreboard sets ADM_STOP and holds the
passages with input pending; the lift clears it on every die and lets them go on. A deadline that has passed is counted once, and ends the
passage FAULTED with DEADLINE where the OPEN asked for that. -/
def Obligations.StepsAndStops : Prop :=
  ∀ s : State, s.canon = true →
    (∀ (d : Fin 32) (i : Fin 1048576) (res : List Byte), let p := s.passage i.val
      let n := s.outSlot p.part
      p.open_ = true → p.guest = false → p.home = d.val → p.inflight = true → p.cached = true → p.waiting = none → (s.die p.cring).compQ.length < 256 →
      (s.slotFree i.val = true → (s.heldE (ringAddr p.outRing + p.outNext % 2 ^ ringLog2 p.outRing * n) n).isEmpty = true →
        ∃ t, exec (.stepComplete d i res) s = .next t ∧ (t.passage i.val).outNext = (p.outNext + 1) % 65536 ∧
          (t.passage i.val).steps = (p.steps + 1) % 2 ^ 32 ∧ t.cells = s.cells ∧ CoresButIns [] s t ∧
          (p.stream = false → (t.passage i.val).st = 5 ∧ (t.passage i.val).inflight = false ∧
            ∀ e, e < 32 → ∀ x ∈ (t.die e).sb, x.idx ≠ i.val)) ∧
      (s.slotFree i.val = false → ∃ t, exec (.stepComplete d i res) s = .next t ∧ t.passage i.val = { p with waiting := some res } ∧
        PassagesBut [i.val] s t ∧ t = { s with passages := t.passages })) ∧
    (∀ d : Fin 32, 49152 ≤ s.occ d.val → ∃ t, exec (.admissionStop d) s = .next t ∧ t.flag F.SCH_SB_STS_ADM_STOP d.val = true ∧
      (∀ i ∈ s.pendingPas (s.part d.val), (s.passage i).cached = true → (s.passage i).st ≤ 4 →
        (t.passage i).st = 2 ∧ (t.passage i).hold = 5) ∧ t.cells = s.cells) ∧
    (∀ part : Fin 16, s.admStopped part.val = true → (∀ d ∈ s.partDies part.val, s.occ d < 32768) →
      (∀ i ∈ s.partLive part.val, (s.passage i).cached = true) →
      ∃ t, exec (.admissionStopLift part) s = .next t ∧
        (∀ d ∈ s.partDies part.val, t.flag F.SCH_SB_STS_ADM_STOP d = false) ∧
        (∀ i ∈ s.partLive part.val, (s.passage i).st = 2 → (s.passage i).hold = 5 → (t.passage i).hold = 0) ∧ t.cells = s.cells) ∧
    (∀ (d : Fin 32) (i : Fin 1048576), let p := s.passage i.val
      p.open_ = true → p.guest = false → p.home = d.val → p.deadline ≠ 0 → p.deadline < s.mile → p.missed = false →
      ∃ t, exec (.deadlinePass d i) s = .next t ∧
        t.fld F.SCH_DL_MISS_COUNT d.val = min (s.fld F.SCH_DL_MISS_COUNT d.val + 1) F.SCH_DL_MISS_COUNT.top ∧
        (p.dlFault = true → t.faulted i.val 7 ∧ t.cells = s.cells) ∧
        (p.dlFault = false → t.passage i.val = { p with missed := true } ∧ PassagesBut [i.val] s t ∧
          RegsBut [regKey .sch d.val F.SCH_DL_MISS_COUNT.off] s t ∧ t = { s with regs := t.regs, passages := t.passages }))

/-- R239–R244, R246, R250–R252, R256, R281: scores count the K selections of the router's stage; a new batch with selections queued gives
every expert its capacity anew and offers the queue first, so nothing stays queued without a limit. An entry point sends its segment on,
on its entry tree. An exit test is counted, taken or not, and never taken where the recipe has no threshold or the OPEN forbids exits.
Both take the recipe of the item's batch; input that the dispatch buffer cannot correct ends the passage. A flush adds the histogram's
counts to the stack and clears them. -/
def Obligations.RoutingAndExits : Prop :=
  ∀ (s : State) (d : Fin 32) (stage : BitVec 16) (rep : BitVec 8), s.canon = true →
    let p := s.part d.val
    let mine := fun (i : Nat) => (s.die d.val).sb.find? fun x => x.is i stage.toNat rep.toNat && x.phase == 2
    (∀ (i : Fin 1048576) (segs : List (List Byte)) (st : Stage) (x : SbItem) (ecc : Ecc), s.stage p stage.toNat = some st → st.kind = 1 →
      (s.passage i.val).open_ = true → mine i.val = some x → ecc ≠ .uncorrectable →
      ∃ t, exec (.routerScores d stage rep i ⟨segs, ecc⟩) s = .next t ∧
        (SMap.get (fun _ => ExpCnt.zero) (t.die d.val).expCnt stage.toNat).selected =
          min ((SMap.get (fun _ => ExpCnt.zero) (s.die d.val).expCnt stage.toNat).selected + min st.topk (s.groupSize p st.egroup))
            (2 ^ 32 - 1) ∧ t.cells = s.cells ∧ t.wins = s.wins) ∧
    (∀ st : Stage, s.stage p stage.toNat = some st → st.kind = 1 → ((s.die d.val).router stage.toNat rep.toNat).queue ≠ [] →
      let c := capacity (s.rcp d.val st.rcp).capFactor (s.batchMax d.val) st.topk (s.groupSize p st.egroup)
      ∃ t, exec (.capacityEmptyBatch d stage rep) s = .next t ∧ ((t.die d.val).router stage.toNat rep.toNat).cap = c ∧
        (c = 0 → ((t.die d.val).router stage.toNat rep.toNat).queue = []) ∧ t.cells = s.cells ∧ t.wins = s.wins) ∧
    (∀ (i : Fin 1048576) (seg : BitVec 16) (bs : List Byte), ∃ t, exec (.entryPointInject d stage rep ⟨i, seg, bs⟩) s = .next t ∧
      t.out = s.out ++ [.segment d.val i.val stage.toNat rep.toNat seg.toNat none bs
        (s.treePkt p stage.toNat rep.toNat seg.toNat 0xFFFF 0 seg.toNat bs)] ∧ t = { s with out := t.out }) ∧
    (∀ (i : Fin 1048576) (bs : List Byte) (segs : List (List Byte)) (st : Stage) (x : SbItem), s.stage p stage.toNat = some st →
      (s.passage i.val).open_ = true → (s.passage i.val).guest = false → mine i.val = some x →
      ∀ c ∈ [(1, Instr.routerScores d stage rep i ⟨segs, .uncorrectable⟩), (2, .exitTest d stage rep i ⟨bs, .uncorrectable⟩)], st.kind = c.1 →
        ∃ t, exec c.2 s = .next t ∧ t.faulted i.val 9 ∧ t.cells = s.cells) ∧
    (∀ (i : Fin 1048576) (seg : List Byte) (st : Stage) (x : SbItem) (ecc : Ecc), s.stage p stage.toNat = some st → st.kind = 2 →
      (s.passage i.val).open_ = true → mine i.val = some x → ecc ≠ .uncorrectable →
      let c := SMap.get (fun _ => (0, 0)) (s.die d.val).exitCnt stage.toNat
      ∃ t, exec (.exitTest d stage rep i ⟨seg, ecc⟩) s = .next t ∧
        (SMap.get (fun _ => (0, 0)) (t.die d.val).exitCnt stage.toNat).1 = min (c.1 + 1) (2 ^ 32 - 1) ∧
        (x.rcp.exitThr = 0 ∨ (s.passage i.val).noExit = true →
          (SMap.get (fun _ => (0, 0)) (t.die d.val).exitCnt stage.toNat).2 = c.2 ∧ t.passages = s.passages) ∧
        PassagesBut [i.val] s t ∧ DiesBut [d.val] s t ∧
        t = { s with regs := t.regs, dies := t.dies, passages := t.passages, free := t.free, out := t.out }) ∧
    (s.flag F.SCH_EXP_HIST_EN d.val = true → ∃ t, exec (.histFlush d) s = .next t ∧
      DieSlices { s.die d.val with hist := [] } (t.die d.val) ∧ (∀ e, e ≠ d.val → DieSlices (s.die e) (t.die e)) ∧
      (∀ k n, (s.die d.val).hist = [(k, n)] → let a := s.fld F.SCH_EXP_HIST_ADDR d.val * 64 + 4 * k
        t.num a 4 = (s.num a 4 + n) % 2 ^ 32 ∧ BytesBut a 4 s t) ∧ t.cells = s.cells)

/-! ## Stack memory, the stream cache and the tier engine -/

/-- R258–R261, R268–R270: a request that lies wholly in the partition's granules and within one line of the owner slice: a read of a line it
holds is answered with the bytes there and a hit; a write to one it holds leaves just those bytes changed, the line dirty unless the
traffic is BULK; a read of a line it does not hold is a miss that waits for the line. A request in a reserved range reads zero and writes
nothing; one that fails the granule check is counted, recorded and logged, and does neither. R267, R270–R273, R282: a line that arrives
sound answers the read that waits for it, and is held where ACT or CTL traffic asked; one that has no miss-queue entry does not come. A
hint asks for a line that is neither there nor coming; a prefetch dropped is counted; a released tracker is gone. A change of a window's
owner leaves no line of it in any slice, and requests that wait for its lines wait at the owner they have now. A scrub pass counts,
poisons what it cannot correct, and finds again each word that holds the mark. -/
def Obligations.StackRequests : Prop :=
  (∀ (s : State) (part : Fin 64) (d : Fin 32) (bulk : Bool) (addr : BitVec 48), s.canon = true →
    let a := addr.toNat
    let line := a / 256
    (∀ n : Nat, n ≠ 0 → a % 256 + n ≤ 256 → s.owns part.val a n = true → s.owner a = d.val → s.missUsed d.val line < 64 →
      (s.heldE a n).isEmpty = true →
      (∀ c, s.hit d.val line = some c → s.poisoned a n = false → ∃ t, exec (.stackRequest part d bulk addr (.read n) .ok) s = .next t ∧
        .stackRsp d.val part.val a (s.bytes a n) false ∈ t.out ∧ t.hit d.val line = some { c with evictFirst := false, prefetched := false } ∧
        t.fld F.STK_SC_CNT_HIT d.val = min (s.fld F.STK_SC_CNT_HIT d.val + 1) F.STK_SC_CNT_HIT.top ∧
        t = { s with regs := t.regs, dies := t.dies, out := t.out } ∧ DiesBut [d.val] s t) ∧
      (s.hit d.val line = none → ∃ t, exec (.stackRequest part d bulk addr (.read n) .ok) s = .next t ∧
        ⟨part.val, a, bulk, .read n, false⟩ ∈ (t.die d.val).missQ ∧
        t.fld F.STK_SC_CNT_MISS d.val = min (s.fld F.STK_SC_CNT_MISS d.val + 1) F.STK_SC_CNT_MISS.top ∧
        DiesBut [d.val] s t ∧ t = { s with regs := t.regs, dies := t.dies })) ∧
    (∀ (bs : List Byte) (c : CLine), bs ≠ [] → a % 256 + bs.length ≤ 256 → s.owns part.val a bs.length = true → s.owner a = d.val →
      s.missUsed d.val line < 64 → (s.heldE a bs.length).isEmpty = true → s.hit d.val line = some c →
      ∃ t, exec (.stackRequest part d bulk addr (.write bs) .ok) s = .next t ∧ t.bytes a bs.length = bs ∧ BytesBut a bs.length s t ∧
        t.hit d.val line = some { c with evictFirst := false, prefetched := false, dirty := c.dirty || !bulk } ∧
        t.fld F.STK_SC_CNT_HIT d.val = min (s.fld F.STK_SC_CNT_HIT d.val + 1) F.STK_SC_CNT_HIT.top ∧ DiesBut [d.val] s t ∧
        t = { s with regs := t.regs, dies := t.dies, mem := t.mem, poison := t.poison, ports := t.ports, snoopF := t.snoopF, out := t.out }) ∧
    (∀ (op : ReqOp) (e : CacheErr), reqLen op ≠ 0 →
      let zero : List Out := (match op with | .read n => [Out.stackRsp d.val part.val a (List.replicate n 0) false] | .write _ => [])
      ((0x018000000000 ≤ a ∧ a + reqLen op ≤ 0x020000000000) ∨ 0x020800000000 ≤ a →
        exec (.stackRequest part d bulk addr op e) s = .next { s with out := s.out ++ zero }) ∧
      (a < 0x018000000000 → s.owns part.val a (reqLen op) = false → ∃ t, exec (.stackRequest part d bulk addr op e) s = .next t ∧
        t.fld F.STK_VIOL_COUNT d.val = min (s.fld F.STK_VIOL_COUNT d.val + 1) F.STK_VIOL_COUNT.top ∧
        t.fld F.STK_VIOL_PART d.val = part.val ∧ (∀ x ∈ zero, x ∈ t.out) ∧
        ButReports [regKey .stk d.val F.STK_VIOL_COUNT.off] s t))) ∧
  (∀ (s : State) (d : Fin 32), s.canon = true →
    (∀ (addr : BitVec 48) (q : HeldReq) (n : Nat), let line := addr.toNat / 256
      ((s.die d.val).missQ.filter fun x => x.addr / 256 == line) = [q] → q.op = .read n → q.prefetch = false →
      s.poison = [] → (s.die d.val).pfQ = [] →
      (s.issued d.val line = false → exec (.lineFill d addr []) s = .next s) ∧
      (s.issued d.val line = true → ∃ t, exec (.lineFill d addr []) s = .next t ∧ .stackRsp d.val q.part q.addr (s.bytes q.addr n) false ∈ t.out ∧
        (t.die d.val).missQ = (s.die d.val).missQ.filter (fun x => x.addr / 256 != line) ∧
        (q.bulk = false → s.hit d.val line = none → s.ways d.val (setKey line) ≠ 0 → t.hit d.val line = some ⟨line, false, false, false⟩) ∧
        DiesBut [d.val] s t ∧ t = { s with regs := t.regs, dies := t.dies, out := t.out })) ∧
    (∀ (addr : BitVec 48) (n : Nat),
      (n = 0 ∨ s.fld F.STK_PF_CTL_PAS_MAX d.val = 0 → exec (.prefetchHint d addr n) s = .next s) ∧
      (s.fld F.STK_PF_CTL_PAS_MAX d.val ≠ 0 → n ≠ 0 → addr.toNat % 256 + n ≤ 256 → s.owner (addr.toNat / 256 * 256) = d.val → s.hit d.val (addr.toNat / 256) = none →
        s.coming d.val (addr.toNat / 256) = false → s.missUsed d.val (addr.toNat / 256) < 48 →
        ∃ t, exec (.prefetchHint d addr n) s = .next t ∧
          t.die d.val = { s.die d.val with missQ := (s.die d.val).missQ ++ [⟨0x3F, addr.toNat / 256 * 256, false, .read 0, true⟩] } ∧
          t.fld F.STK_PF_CNT_ISSUED d.val = min (s.fld F.STK_PF_CNT_ISSUED d.val + 1) F.STK_PF_CNT_ISSUED.top ∧
          RegsBut [regKey .stk d.val F.STK_PF_CNT_ISSUED.off] s t ∧ DiesBut [d.val] s t ∧ t = { s with regs := t.regs, dies := t.dies })) ∧
    (∀ addr : BitVec 48, addr.toNat / 256 ∈ (s.die d.val).pfQ → ∃ t, exec (.prefetchDrop d addr) s = .next t ∧
      t.die d.val = { s.die d.val with pfQ := (s.die d.val).pfQ.filter fun l => l != addr.toNat / 256 } ∧
      t.fld F.STK_PF_CNT_DROPPED d.val = min (s.fld F.STK_PF_CNT_DROPPED d.val + 1) F.STK_PF_CNT_DROPPED.top ∧
      RegsBut [regKey .stk d.val F.STK_PF_CNT_DROPPED.off] s t ∧ DiesBut [d.val] s t ∧ t = { s with regs := t.regs, dies := t.dies }) ∧
    (∀ k : Fin 64, ∃ t, exec (.trackerRelease d k) s = .next t ∧
      t.die d.val = { s.die d.val with trackers := (s.die d.val).trackers.filter fun x => x.slot != k.val } ∧
      DiesBut [d.val] s t ∧ t = { s with dies := t.dies }) ∧
    (∀ (k : Fin 256) (base limit : BitVec 36), let o := s.win k.val
      let gone := fun (t : State) (w : Win) => t.win k.val = w ∧ (∀ j, j ≠ k.val → t.win j = s.win j) ∧
        (∀ e line, e < 32 → ((o.valid = true ∧ o.base ≤ line / 16 ∧ line / 16 ≤ o.limit) ∨
          (w.valid = true ∧ w.base ≤ line / 16 ∧ line / 16 ≤ w.limit)) → t.hit e line = none ∧
          ∀ q ∈ (s.die e).missQ, q.addr / 256 = line → q.prefetch = false → q ∈ (t.die (t.owner q.addr)).missQ) ∧
        t = { s with regs := t.regs, dies := t.dies, wins := t.wins, snoopF := t.snoopF }
      (∃ t, exec (.windowOwnerChange k base limit none) s = .next t ∧ gone t Win.zero) ∧
      ((∀ j, j < 256 → j ≠ k.val → (s.win j).valid = true → limit.toNat < (s.win j).base ∨ (s.win j).limit < base.toNat) →
        base.toNat ≤ limit.toNat →
        ∃ t, exec (.windowOwnerChange k base limit (some d)) s = .next t ∧ gone t ⟨true, base.toNat, limit.toNat, d.val⟩)) ∧
    (∀ (n : Fin 12) (c : Nat) (l : List (BitVec 48)), s.pstate < 2 → s.poison.Nodup → let e := dieOfStack n.val
      ∃ t, exec (.scrubPass n c l) s = .next t ∧
        t.fld F.STK_SCRUB_PASSES e = min (s.fld F.STK_SCRUB_PASSES e + 1) F.STK_SCRUB_PASSES.top ∧
        t.fld F.STK_ECC_CNT_CORR e = min (s.fld F.STK_ECC_CNT_CORR e + c) F.STK_ECC_CNT_CORR.top ∧
        t.fld F.STK_ECC_CNT_UNCORR e = min (s.fld F.STK_ECC_CNT_UNCORR e +
          (((l.map fun a : BitVec 48 => a.toNat / 32 * 32) ++ s.poison).filter fun a => a / 2 ^ 37 == n.val).dedup.length) F.STK_ECC_CNT_UNCORR.top ∧
        (∀ a ∈ l, a.toNat / 2 ^ 37 = n.val → t.poisoned (a.toNat / 32 * 32) 32 = true) ∧ t.mem = s.mem ∧ t.cells = s.cells))

/-- R274–R277, R321: a work item that reaches a free context of a tier engine in service starts its stage's program there: the context runs,
bound to the logical array, with the item queued; a second opinion brings the event's own item and its partial sums. When the main
datapath has read an array's record sound, the context that waited for it holds the columns the record's weights give exactly. (Stated
where no word of stack memory is poisoned, and no residue event comes from the context.) -/
def Obligations.TierEngine : Prop :=
  ∀ (s : State) (d : Fin 32), s.canon = true →
    (∀ (k : Fin 16) (prio : Fin 5) (stage : BitVec 16) (arr : BitVec 24) (i : Fin 1048576) (segs : List (List Byte)) (st : Stage),
      let p := s.part d.val
      s.stage p stage.toNat = some st → s.power.gated = false → s.tierJob d.val k.val = none → (s.die d.val).tierFaulty = false →
      (s.passage i.val).open_ = true → arr.toNat < st.nArr →
      let starts := fun (w : WorkItem) (x : Option TileId) =>
        ∃ t, exec (.tierWork d k prio stage arr i segs) s = .next t ∧
          t.core (.ctx d k) = { Core.zero with
            st := 1, bound := some (w.stage, w.rep, w.arr), queue := [w]
            psums := (x.elim [] fun x => (s.core (.tile x)).psums.filter fun y => y.1 == w.handle) ++ (s.core (.ctx d k)).psums } ∧
          t.tierJob d.val k.val = some ⟨prio.val, w.stage, w.arr, w, false, 0, 0⟩ ∧ CoresBut (.ctx d k :: x.toList.map .tile) s t ∧ DiesBut [d.val] s t ∧
          BytesBut (coreBase (.ctx d k)) 0x8000 s t ∧ t = { s with mem := t.mem, cores := t.cores, dies := t.dies }
      (∀ x sh, prio.val = 3 ∨ prio.val = 4 →
        ((s.partDies p).findSome? fun e => (s.die e).sb.find? fun x => x.idx == i.val && x.stage == stage.toNat && x.phase == 2) = some x →
        s.shadowOf p stage.toNat (s.passage i.val).epoch = some sh →
        starts (s.tierItem d.val p i.val stage.toNat x.rep arr.toNat st x (sh.base + arr.toNat * 263232))
          (if prio.val = 3 then (s.repOf p stage.toNat x.rep).bind fun r => r.tiles[arr.toNat]? else none)) ∧
      (∀ x h rcd, prio.val = 2 → s.opinionFor p i.val stage.toNat arr.toNat = some (x, h) → s.recordOf h.item = some rcd →
        starts { h.item with mile := s.mile, retry := false, buf := 0 } (some x))) ∧
    (∀ (e : Ecc) (res : Option (Fin 16)) (key : Nat × Nat × Nat) (k : Fin 16) (j : TierJob) (a : Nat) (m : MvmOp), e ≠ .uncorrectable →
      res ≠ some k → s.poison = [] →
      s.tierTaken d.val = some key → ((s.waitingCtx d.val).filter fun (x : Nat × TierJob) => x.2.key == key) = [(k.val, j)] →
      s.recordOf j.item = some a → (s.core (.ctx d k)).mvm = some m →
      ∃ t, exec (.tierArrayDone d ⟨e, res⟩) s = .next t ∧
        t.core (.ctx d k) = { (s.core (.ctx d k)).hit 1 with
          mvm := none, mvmRes := some ⟨s.exactCols a m.drives, scaleOf (s.core (.ctx d k)).work m⟩, readBuf := some m.buf } ∧
        t.tierJob d.val k.val = some { j with want := false } ∧ CoresBut [.ctx d k] s t ∧
        (∀ x, x ≠ d.val → DieSlices (s.die x) (t.die x)) ∧
        t.fld F.STK_TIER_WGT_COUNT d.val = (s.fld F.STK_TIER_WGT_COUNT d.val + 2 ^ 19) % (F.STK_TIER_WGT_COUNT.top + 1) ∧
        t = { s with regs := t.regs, cores := t.cores, dies := t.dies, free := t.free, out := t.out })

/-! ## Fetching and programming -/

/-- R287–R292: a read of a shard that fails, or that has no answer for TMO, is tried again from storage, with its cause, and after three tries
the shard is asked of the lowest other rank that holds its stage. Data that arrives, from storage or from another part, lands in the
stage's shadow and is noted; a shard that is there whole has LANDED. A silent member before is replaced by storage, after three tries by a
peer; a peer that fails leaves the shard, and the load, FAILED. (Landing is stated with no swap, no poison and no status records.) R292:
LDR_SSTAT with EN is taken where its region lies in the partition's stack regions and holds a record of every shard; else it is discarded. -/
def Obligations.ShardTraffic : Prop :=
  (∀ (s : State) (part : Fin 16) (k : BitVec 24) (h : Shard), s.canon = true → (s.job part.val).inUse[k.toNat]? = some h →
    let p := part.val
    let now := fun (t : State) => (t.job p).inUse[k.toNat]?
    let only := fun (t : State) => t = { s with regs := t.regs, jobs := t.jobs, mem := t.mem, poison := t.poison, ports := t.ports, nvm := t.nvm,
                                                keeper := t.keeper, free := t.free, snoopF := t.snoopF, dies := t.dies, out := t.out } ∧
      JobsBut [p] s t ∧ ∀ d, DieSlices (s.die d) (t.die d)
    (∀ (c : Instr) (cause nv : Nat) (off : Nat) (status : BitVec 11) (data : List Byte),
      h.st = 2 → h.source = 1 → off < h.bytes → status ≠ 0 →
      (c, cause, nv) ∈ [(.nvmeCompletion part k off status data, 1, status.toNat), (.nvmeTimeout part k, 2, h.nvme),
        (.rdmaConnectionLost part k, 3, h.nvme)] →
      (cause = 2 → 1000000 * max 1 (s.fld F.LDR_CFG_TMO p) ≤ (s.mile - h.mile).toNat) →
      (h.tries < 3 → ∃ t, exec c s = .next t ∧
        now t = some { h with tries := h.tries + 1, cause := cause, nvme := nv, mile := s.mile } ∧
        t.fld F.LDR_ERR_TRIES p = min (s.fld F.LDR_ERR_TRIES p + 1) F.LDR_ERR_TRIES.top ∧ only t) ∧
      (∀ r, 3 ≤ h.tries → ((s.job p).holderRanks h.stage).find? (fun r => r != s.rank p) = some r →
        ∃ t, exec c s = .next t ∧ now t = some { h with source := 3, peer := r, cause := cause, mile := s.mile } ∧
          .peerFetch p k.toNat ∈ t.out ∧ only t)) ∧
    ((s.mile - h.mile).toNat < 1000000 * max 1 (s.fld F.LDR_CFG_TMO p) → exec (.nvmeTimeout part k) s = .next s) ∧
    (∀ (a : Nat), (s.job p).swap = none → s.landAt p h = some a → s.poison = [] → s.flag F.LDR_SSTAT_EN p = false →
      let lands := fun (t : State) (g : Shard) (off : Nat) (data : List Byte) =>
        let l := addRange h.landed off data.length
        t.bytes (a + off) data.length = data ∧ BytesBut (a + off) data.length s t ∧
        now t = some { g with landed := l, mile := s.mile, st := if ({ h with landed := l } : Shard).has 0 h.bytes then 3 else 2 } ∧ only t
      (∀ (off : Nat) (data : List Byte), h.st = 2 → h.source = 1 → off < h.bytes → data.length = readLen h off →
        (s.heldE (a + off) data.length).isEmpty = true →
        ∃ t, exec (.nvmeCompletion part k off 0 data) s = .next t ∧ lands t h off data) ∧
      (∀ (r : BitVec 24) (peer : BitVec 16) (data : List Byte), h.st = 1 ∨ h.st = 2 → h.source = 2 ∨ h.source = 3 → r.toNat < h.n →
        data.length = recBytes → h.bytes = h.n * recBytes → (s.heldE (a + r.toNat * recBytes) data.length).isEmpty = true →
        ∃ t, exec (.forwardedRecord part k r peer data) s = .next t ∧ lands t { h with peer := peer.toNat } (r.toNat * recBytes) data)) ∧
    (h.st = 1 ∨ h.st = 2 → 1000000 * max 1 (s.fld F.LDR_CFG_TMO p) ≤ (s.mile - h.mile).toNat →
      (h.source = 2 → h.tries < 3 → ∃ t, exec (.upstreamTimeout part k) s = .next t ∧
        now t = some { h with st := 2, source := 1, tries := h.tries + 1, cause := 6, mile := s.mile } ∧ only t) ∧
      (∀ r, h.source = 2 → 3 ≤ h.tries → ((s.job p).holderRanks h.stage).find? (fun r => r != s.rank p) = some r →
        ∃ t, exec (.upstreamTimeout part k) s = .next t ∧ now t = some { h with source := 3, peer := r, cause := 6, mile := s.mile } ∧ only t) ∧
      (h.source = 3 → (s.job p).swap = none → s.imgSt p = 3 → ∃ t, exec (.upstreamTimeout part k) s = .next t ∧
        t.fld F.LDR_ERR_FAILED p = min (s.fld F.LDR_ERR_FAILED p + 1) F.LDR_ERR_FAILED.top ∧
        (∀ d ∈ s.partDies p, t.fld F.BIL_IMG_STS_STATE d = 6 ∧ t.fld F.BIL_IMG_STS_CODE d = 16) ∧ t.cells = s.cells))) ∧
  (∀ (s : State) (src : Src) (v : Word), s.canon = true →
    let p := s.bank src .ldr
    let fits := bitsOf v 63 63 = 0 ∨ s.owns p (bitsOf v 47 6 * 64) (16 * max 1 (s.job p).inUse.length) = true
    s.takes src .ldr p 0x110 = true →
    ∃ t, exec (.sstatWrite src v) s = .next t ∧
      (fits → t.fld F.LDR_SSTAT_EN p = bitsOf v 63 63 ∧ t.fld F.LDR_SSTAT_ADDR p = bitsOf v 47 6) ∧
      (¬ fits → t = s) ∧
      RegsBut [regKey .ldr p 0x110] s t ∧ t = { s with regs := t.regs })

/-- R101, R293–R296, R299: the first queued array that is ready begins programming: STATE WRITE, WINC set, the gains of its record loaded.
Programming that ends with no check cell and at most four weight cells outside the window leaves the record's weights in the cells (which
cells are off, and at what level, is free), its tag, one more rewrite, and WINC clear. One that fails verify is counted. While the Keeper
is down, what the verify found waits. A retained array that verifies takes its record's gains; one that does not is queued for
programming. -/
def Obligations.ArraysAreProgrammed : Prop :=
  ∀ s : State, s.canon = true →
    (∀ (d : Fin 32) (q : ProgReq) (a : Nat), s.keeperUp = true → s.power.gated = false → (s.die d.val).progNow.length < 256 →
      (sortKey progKey (s.die d.val).progQ).find? s.progReady = some q → q.tile.d = d → s.progRecord q = some a →
      s.poisoned a recBytes = false →
      ∃ t, exec (.programStart d) s = .next t ∧ t.arrState q.tile = 3 ∧ t.flag F.TIL_ARR_STS_WINC (tileKey q.tile) = true ∧
        (t.tsum q.tile) = { s.tsum q.tile with winc := true } ∧ (t.die d.val).progNow = (s.die d.val).progNow.filter (fun y => y.tile != q.tile) ++ [q] ∧
        (∀ y ∈ (t.die d.val).progQ, y.tile ≠ q.tile) ∧
        t.bytes (sramBase q.tile + 0x1100) 1024 = s.bytes (a + 0x40000) 1024 ∧ BytesBut (sramBase q.tile + 0x1100) 1024 s t ∧
        (∀ e, e ≠ d.val → DieSlices (s.die e) (t.die e)) ∧
        t = { s with regs := t.regs, dies := t.dies, mem := t.mem, nvm := t.nvm, poison := t.poison, keeper := t.keeper, ports := t.ports,
                     free := t.free, out := t.out }) ∧
    (∀ (x : TileId) (q : ProgReq) (a : Nat) (w : Nat), s.keeperUp = true →
      ((s.die x.d.val).progNow.find? fun y => y.tile == x) = some q → s.progRecord q = some a → q.part < 16 →
      (w ≤ 4 → ∃ t, exec (.programDone x w 0) s = .next t ∧ t.cell x = programmed s a w ∧ t.flag F.TIL_ARR_STS_WINC (tileKey x) = false ∧
        (t.tsum x) = { s.tsum x with
          rewrites := (s.tsum x).rewrites + 1, tagStage := q.stage, tagEpoch := q.epoch, tagArr := q.arr, valid := true, winc := false } ∧
        t.fld F.LDR_PROG_CNT_DONE q.part = min (s.fld F.LDR_PROG_CNT_DONE q.part + 1) F.LDR_PROG_CNT_DONE.top ∧
        (∀ y, y ≠ x → t.cell y = s.cell y) ∧ t.cores = s.cores) ∧
      (∀ c, 0 < c ∨ 4 < w → ∃ t, exec (.programDone x w c) s = .next t ∧
        t.fld F.LDR_PROG_CNT_VFAIL q.part = min (s.fld F.LDR_PROG_CNT_VFAIL q.part + 1) F.LDR_PROG_CNT_VFAIL.top ∧ t.cells = s.cells)) ∧
    (∀ (x : TileId) (w c : Nat), s.keeperUp = false → (s.die x.d.val).progNow.any (fun q => q.tile == x) = true →
      (s.die x.d.val).progHeld.any (fun h => h.1 == tileKey x) = false → ∃ t, exec (.programDone x w c) s = .next t ∧
        t.die x.d.val = { s.die x.d.val with progHeld := (s.die x.d.val).progHeld ++ [(tileKey x, w, c)] } ∧ DiesBut [x.d.val] s t ∧
        t = { s with dies := t.dies }) ∧
    (∀ (x : TileId) (q : ProgReq) (a : Nat) (w : Nat), ((s.die x.d.val).verQ.find? fun y => y.tile == x) = some q →
      s.recLanded q = true → s.progRecord q = some a → q.part < 16 → s.flag F.LDR_SSTAT_EN q.part = false →
      let phase := fun (t : State) => t.fld F.LDR_STS_PHASE q.part =
        (if (s.job q.part).inUse.all Shard.here then if t.verifying q.part then 3 else 2 else s.fld F.LDR_STS_PHASE q.part)
      (w ≤ 4 → ∃ t, exec (.retainedVerifyDone x w 0) s = .next t ∧ t.bytes (sramBase x + 0x1100) 1024 = s.bytes (a + 0x40000) 1024 ∧
        (∀ y ∈ (t.die x.d.val).verQ, y.tile ≠ x) ∧ phase t ∧ t.cells = s.cells ∧ t.nvm = s.nvm) ∧
      (∀ c, 0 < c ∨ 4 < w → ∃ t, exec (.retainedVerifyDone x w c) s = .next t ∧
        (t.die x.d.val).verQ = (s.die x.d.val).verQ.filter (fun y => y.tile != x) ∧
        { q with cls := 2 } ∈ (t.die q.tile.d.val).progQ ∧ phase t ∧ t.cells = s.cells ∧ t.nvm = s.nvm))

/-! ## Replacing weights -/

/-- R301–R304, R309: a START that passes the checks of R303 is FETCHING with the swap it describes and its second shadows, and one that does
not is FAILED with the check's CODE. ABORT before M_FLIP ends the swap ABORTED, and parts not commanded in 10 s or a shard FAILED end it
FAILED with CODE 9 or 8: the new shadows are gone. When the last part has landed, the coordinator fixes M_FLIP; when it passes, every OPEN
takes the new epoch. Old-epoch passages still there at the limit end FAULTED with UNLOADED. (A START before any slice is busy; the
in-place form of the flip.) R305, R306: the coordinator keeps each part's lowest low-water wave, and announces every wave below the lowest
of them all; another part sends its own. A wave announced clear, with every wave before it, is shown in LOW_WAVE, and no wave so cleared
of an in-place swap is still OLD. -/
def Obligations.Swaps : Prop :=
  (∀ s : State, s.canon = true →
    let ends := fun (t : State) (p st code : Nat) (w : Swap) => (t.job p).swap = none ∧
      (t.job p).shadows = (s.job p).shadows.filter (fun x => x.epoch != w.newEpoch) ∧
      t.fld F.LDR_SWAP_STS_STATE p = st ∧ t.fld F.LDR_SWAP_STS_CODE p = code ∧ t.fld F.LDR_SWAP_STS_BUSY p = 0 ∧
      JobsBut [p] s t ∧ t.cells = s.cells
    (∀ (src : Src) (v : Word), let p := s.bank src .ldr
      let u := after (storeRW .ldr p 0x128 v) s
      let a := u.fld F.LDR_SWAP_ADDR_ADDR p * 64
      s.takes src .ldr p 0x128 = true → bitsOf v 0 0 = 1 →
      (bitsOf v 3 1 = 1 → s.flag F.LDR_SWAP_STS_BUSY p = false → (u.heldE a 64).isEmpty = true →
        (u.heldE (u.swapMan a) (u.num (a + 0x18) 8)).isEmpty = true →
        (u.heldE (u.swapTab a) (2 * (s.job p).stages.length)).isEmpty = true →
        (∀ c, u.swapCheck p = .error c → ∃ t, exec (.swapStart src v) s = .next t ∧ t.fld F.LDR_SWAP_STS_STATE p = 5 ∧
          t.fld F.LDR_SWAP_STS_CODE p = c % (F.LDR_SWAP_STS_CODE.top + 1) ∧
          ButSlices [regKey .ldr p 0x128, regKey .ldr p F.LDR_SWAP_STS_STATE.off] s t) ∧
        (∀ w l, u.swapCheck p = .ok (w, l) → ∃ t, exec (.swapStart src v) s = .next t ∧
          (t.job p).shadows = (s.job p).shadows ++ l ∧ (t.job p).due = s.mile + 10000000000 ∧ t.fld F.LDR_SWAP_STS_STATE p = 1 ∧ t.fld F.LDR_SWAP_STS_BUSY p = 1 ∧
          t.fld F.LDR_SWAP_STS_CODE p = 0 ∧ JobsBut [p] s t ∧ t.cells = s.cells ∧
          ((t.job p).inUse.all Shard.here = false → t.fld F.LDR_STS_PHASE p = 1 ∧ t.cores = s.cores ∧
            ((t.job p).swap.map fun x => { x with newShards := [] }) = some { w with newShards := [] }) ∧
          ((t.job p).inUse.all Shard.here = true → t.fld F.LDR_STS_PHASE p = if s.verifying p then 3 else 2))) ∧
      (∀ w, bitsOf v 3 1 = 2 → (s.job p).swap = some w → s.fld F.LDR_SWAP_STS_STATE p < 3 → w.flip.all (fun f => decide (s.mile < f)) = true →
        ∃ t, exec (.swapAbort src v) s = .next t ∧ ends t p 6 0 w)) ∧
    (∀ (part : Fin 16) (w : Swap), let p := part.val
      (s.job p).swap = some w →
      (s.fld F.LDR_SWAP_STS_STATE p = 1 → 1 < s.nParts p → (s.job p).due ≤ s.mile → ∃ t, exec (.swapCommandTimeout part) s = .next t ∧ ends t p 5 9 w) ∧
      (∀ rank : BitVec 14, s.fld F.LDR_SWAP_STS_STATE p = 1 → rank.toNat < s.nParts p →
        let l := (w.landed ++ [rank.toNat]).dedup
        (∃ t, exec (.swapLandedReport part rank true) s = .next t ∧ ends t p 5 8 w) ∧
        let own := rank.toNat = s.rank p → w.newShards.all Shard.here = true
        (¬ own → exec (.swapLandedReport part rank false) s = .next s) ∧
        (own → l.length < s.nParts p ∨ s.rank p ≠ 0 → ∃ t, exec (.swapLandedReport part rank false) s = .next t ∧
          t.job p = { s.job p with swap := some { w with landed := l } } ∧ JobsBut [p] s t ∧ t = { s with jobs := t.jobs }) ∧
        (own → s.nParts p ≤ l.length → s.rank p = 0 → w.shadow = false → ∃ t, exec (.swapLandedReport part rank false) s = .next t ∧
          t.job p = { s.job p with swap := some { w with landed := l, flip := some (s.mile + 1000000) } } ∧
          t.fld F.LDR_SWAP_STS_STATE p = 2 ∧ JobsBut [p] s t ∧ RegsButEvt [regKey .ldr p F.LDR_SWAP_STS_STATE.off] s t ∧
          t = { s with regs := t.regs, jobs := t.jobs, ports := t.ports, out := t.out })) ∧
      (∀ f, s.fld F.LDR_SWAP_STS_STATE p = 2 → w.flip = some f → f ≤ s.mile → w.waves.all (fun x => x == 3) = false →
        ∃ t, exec (.swapFlip part) s = .next t ∧ t.fld F.LDR_SWAP_STS_ADM_EPOCH p = w.newEpoch % 2 ^ 16 ∧
          t.fld F.LDR_SWAP_STS_STATE p = 3 ∧ t.job p = s.job p ∧ JobsBut [p] s t ∧
          RegsButEvt [regKey .ldr p F.LDR_SWAP_STS_STATE.off] s t ∧ t = { s with regs := t.regs, jobs := t.jobs, ports := t.ports, out := t.out }) ∧
      (∀ f, s.fld F.LDR_SWAP_STS_STATE p = 3 → s.fld F.LDR_SWAP_CMD_OLD_LIMIT p ≠ 0 → w.flip = some f →
        f.toNat + s.fld F.LDR_SWAP_CMD_OLD_LIMIT p * 1000000 ≤ s.mile.toNat →
        ∃ t, exec (.oldLimitExpiry part) s = .next t ∧
          (∀ i ∈ s.partLive p, (s.passage i).epoch ≠ w.newEpoch → t.faulted i 5) ∧ t.cells = s.cells ∧ CoresButIns [] s t))) ∧
  (∀ (s : State) (part : Fin 16) (w : Swap), s.canon = true →
    let p := part.val
    (s.job p).swap = some w → s.fld F.LDR_SWAP_STS_STATE p = 3 →
    (∀ (rank : BitVec 14) (lw : Option (BitVec 13)), rank.toNat < s.nParts p →
      let v := if rank = 0 then s.lowWave p w else lw.elim 4096 BitVec.toNat
      let l := w.lows.filter (fun x => x.1 != rank.toNat) ++ [(rank.toNat, v)]
      (s.rank p = 0 → ∃ t, exec (.lowWaveReport part rank lw) s = .next t ∧
        t.job p = { s.job p with swap := some { w with lows := l } } ∧
        (s.nParts p ≤ l.length → ∀ k, w.clear ≤ k → k < w.nWave → (∀ x ∈ l, k < x.2) → k < 4096 → .slice p "CLEAR" k 0 ∈ t.out) ∧
        JobsBut [p] s t ∧ t = { s with jobs := t.jobs, out := t.out }) ∧
      (s.rank p ≠ 0 → exec (.lowWaveReport part rank lw) s = .next { s with out := s.out ++ [.slice p "LOW_WAVE" (s.lowWave p w) 0] })) ∧
    (∀ k : BitVec 13, let c := max w.clear (min w.nWave (k.toNat + 1))
      ∃ t, exec (.waveClear part k) s = .next t ∧ t.fld F.LDR_SWAP_STS_LOW_WAVE p = c % (F.LDR_SWAP_STS_LOW_WAVE.top + 1) ∧
        (w.shadow = false → ∀ w', (t.job p).swap = some w' → ∀ v, v < c → v < w.nWave → w'.waves.getD v 3 ≠ 0) ∧
        JobsBut [p] s t ∧ t.cells = s.cells))

/-! ## The checker, the unit history and test runs -/

/-- R320–R323: the oldest event of a tile that waits for its checker is given a second opinion: by a replica, which gets the work item in its
reserved place with its input, or by a tier engine; a replica's tile in FAULT abandons it (R111). The result that comes back decides: a
residue event is charged to its unit, an agreeing sum to the check path, a disagreeing one to the weight path, and one without a sound
result is UNRESOLVED and ends the passage FAULTED with CHECKER. The event is then over. A shadow that cannot be read leaves the opinion to
a replica where one may give it. -/
def Obligations.SecondOpinions : Prop :=
  ∀ (s : State) (x : TileId) (h : HardEvt), s.canon = true →
    let d := x.d.val
    let hard := fun (t : State) => (t.core (.tile x)).hard
    let counts := fun (t : State) (f : Fld) => t.fld f d = min (s.fld f d + 1) f.top
    ((hard s).find? (fun h => h.phase == 0) = some h → h.item.moved = none →
      (∀ r o, s.opinionRep d h.item = some (r, o) → o ≠ x → (s.core (.tile o)).st ≠ 3 → ∃ t, exec (.checkerHardReport x) s = .next t ∧ counts t F.CHK_SECOND_REPLICA ∧
        hard t = (hard s).map (fun y => if y == h then { y with phase := 1 } else y) ∧
        ((s.core (.tile o)).second = none → ∃ w, (t.core (.tile o)).second = some w ∧ w.handle = h.item.handle ∧ w.rep = r.rep ∧
          w.moved = some x ∧ w.input = some (inHalves h.input)) ∧
        CoresBut [.tile x, .tile o] s t ∧ RegsBut [regKey .chk d F.CHK_SECOND_REPLICA.off] s t ∧
        t = { s with regs := t.regs, cores := t.cores, dies := t.dies }) ∧
      (∀ r o i, s.opinionRep d h.item = some (r, o) → o ≠ x → (s.core (.tile o)).st = 3 → s.byHandle h.item.handle = some i →
        (s.passage i).guest = false → ∃ t, exec (.checkerHardReport x) s = .next t ∧ counts t F.CHK_SECOND_REPLICA ∧
          (t.core (.tile o)).second = none ∧ t.faulted i 1 ∧ t.cells = s.cells) ∧
      (∀ e, s.opinionRep d h.item = none → s.engineFor d = some e → ∃ t, exec (.checkerHardReport x) s = .next t ∧ counts t F.CHK_SECOND_TIER ∧
        hard t = (hard s).map (fun y => if y == h then { y with phase := 2 } else y) ∧
        t.out = s.out ++ [.ctl "OPINION" e h.item.part h.item.stage (idxOf h.item.handle)] ∧
        CoresBut [.tile x] s t ∧ RegsBut [regKey .chk d F.CHK_SECOND_TIER.off] s t ∧
        t = { s with regs := t.regs, cores := t.cores, out := t.out })) ∧
    ((hard s).find? (fun h => h.phase != 0) = some h →
      (∀ o : List Int,
        let f := if h.residue then F.CHK_HARD_DIGITAL else if s.agree x h o then F.CHK_HARD_CHECK else F.CHK_HARD_ARRAY
        ∃ t, exec (.secondOpinionDone x (some o)) s = .next t ∧ counts t f ∧ hard t = (hard s).erase h ∧
          t.fld F.CHK_LAST_KIND d = (if h.residue then 3 else if s.agree x h o then 2 else 1) ∧
          CoresBut [.tile x] s t ∧ DiesBut [d] s t ∧ t = { s with regs := t.regs, cores := t.cores, dies := t.dies, out := t.out }) ∧
      (∀ r o, h.phase = 4 → s.opinionRep d h.item = some (r, o) → ∃ t, exec (.secondOpinionDone x none) s = .next t ∧
        counts t F.CHK_SECOND_REPLICA ∧ t.fld F.CHK_HARD_UNRESOLVED d = s.fld F.CHK_HARD_UNRESOLVED d ∧ t.cells = s.cells) ∧
      (∀ i, h.phase ≠ 4 ∨ s.opinionRep d h.item = none → s.byHandle h.item.handle = some i → (s.passage i).guest = false →
        ∃ t, exec (.secondOpinionDone x none) s = .next t ∧ counts t F.CHK_HARD_UNRESOLVED ∧
        hard t = (hard s).erase h ∧ t.faulted i 9 ∧ t.cells = s.cells))

/-- R327, R329–R331, R335: with the Keeper running, an event is recorded in the unit history at the power-on second of its record, unless NVM
has no word left for it, and the soft counts a die reports are taken from it. R333, R335: a test run takes an idle target of its pattern
that is due in P0, on a die that does not throttle, while fewer than 64 run there: the array is in CAL, the run and the reserved codes of
its segments are counted, and its MVMs are charged to the die. When it ends the array is back in the state it was taken from, and a pass
changes nothing else but the march count of a spare, which its die's checker keeps while the Keeper is down (R331); a tile whose
retirement waited for the end is retired. -/
def Obligations.HistoryAndTests : Prop :=
  (∀ s : State, s.canon = true → s.keeperUp = true →
    (∀ (u : Word32) (kind flags : BitVec 8) (stage : BitVec 16) (h det : Word32),
      ∃ t, exec (.unitHistoryRecord u kind flags stage h det) s = .next t ∧
        (Config.nvmFails s.free ≤ s.nvm.spare → ⟨u, kind.toNat, flags.toNat, stage.toNat, s.mile, s.nvm.pos, h, det⟩ ∈ t.nvm.uhist) ∧
        (s.nvm.spare < Config.nvmFails s.free → t.nvm.worn = true) ∧ t.cells = s.cells) ∧
    (∀ d : Fin 32, ∃ t, exec (.softReport d) s = .next t ∧ (t.die d.val).softUp = [] ∧ t.cells = s.cells)) ∧
  (∀ (s : State) (x : TileId), s.canon = true →
    let d := x.d.val
    let k := s.core (.tile x)
    (∀ (pat : BitVec 12) (kind sel : Nat), s.pattern pat.toNat = some (kind, sel) → s.pstate = 0 → s.keeperUp = true →
      s.fld (F.THM_DIE_FACTOR.nth d) 0 = 256 → sel = 0x3F ∨ sel = d → 1 ≤ kind → kind ≤ 4 → s.testTarget x kind = true →
      s.runDue x pat.toNat = true → k.item = none →
      k.queue = [] → k.testRet = none → s.testing d < 64 → (s.die d).calNow.any (fun c => c.tile == x) = false →
      ∃ t, exec (.testRunStart x pat) s = .next t ∧
        t.core (.tile x) = { k with testRet := some (s.arrState x + 16 * pat.toNat) } ∧ t.arrState x = 2 ∧
        t.fld F.CHK_TP_RUNS d = min (s.fld F.CHK_TP_RUNS d + 1) F.CHK_TP_RUNS.top ∧ CoresBut [.tile x] s t ∧
        t.fld F.SCH_FMT_CNT_RSVD_CODE d =
          min (s.fld F.SCH_FMT_CNT_RSVD_CODE d + ((s.testMvms pat.toNat).map Prod.snd).sum) F.SCH_FMT_CNT_RSVD_CODE.top ∧
        RegsBut [regKey .til (tileKey x) F.TIL_ARR_STS_STATE.off, regKey .chk d F.CHK_TP_RUNS.off, regKey .sch d F.SCH_FMT_CNT_RSVD_CODE.off] s t ∧
        t.dies = (after (forA (s.testMvms pat.toNat) fun m => whenA (fun _ => !m.1.skipped) (chargeDie d m.1.pconv m.1.nrow)) s).dies ∧
        t = { s with regs := t.regs, cores := t.cores, dies := t.dies,
                     keeper := { s.keeper with lastRun := SMap.set (fun _ => 0) s.keeper.lastRun (tileKey x * 4096 + pat.toNat) (s.nvm.pos + 1) } }) ∧
    (∀ r, k.testRet = some r →
      (s.keeper.retWait.any (fun y => y.1 == x) = false → ∃ t, exec (.testRunDone x true) s = .next t ∧ t.core (.tile x) = { k with testRet := none } ∧ t.arrState x = r % 16 % 8 ∧
        CoresBut [.tile x] s t ∧ RegsBut [regKey .til (tileKey x) F.TIL_ARR_STS_STATE.off] s t ∧
        (∀ e, t.die e = { s.die e with marchHeld := (t.die e).marchHeld }) ∧ (s.keeperUp = true → t.dies = s.dies) ∧
        t = { s with regs := t.regs, cores := t.cores, nvm := t.nvm, dies := t.dies }) ∧
      (∃ t, exec (.testRunDone x false) s = .next t ∧ (t.core (.tile x)).testRet = none ∧
        t.fld F.CHK_TP_FAILS d = min (s.fld F.CHK_TP_FAILS d + 1) F.CHK_TP_FAILS.top ∧ t.cells = s.cells) ∧
      (∀ c, s.keeperUp = true → s.keeper.retWait.find? (fun y => y.1 == x) = some (x, c) → (s.tsum x).retired = false → s.arrBusy x = false →
        (s.die d).calNow.any (fun c => c.tile == x) = false → ∃ t, exec (.testRunDone x true) s = .next t ∧ (t.tsum x).retired = true ∧ (t.tsum x).retCause = c ∧ t.cells = s.cells)))

/-! ## Calibration and sensors -/

/-- R343–R345, R353: a demand for a bound tile, or a calibration whose period has passed, makes the array due once under its trigger. A die
takes a due array that is ready into CAL, for START alone and for the others with its replica; the gap of a replica ends once CAL_HOLD.GAP
has passed. R346–R352: the first pass of an attempt is fitted and kept. The second ends the attempt: void if the tile's temperature moved
by more than 1 °C, when a due array is due again; accepted if the passes agree, CAL_QF and the drift are within bounds and no reading held
a rail code, when the mean trims are in force; bad otherwise. A START of an array kept over P3 that finds D lower than recorded by more
than 1,311/32,768 queues it for programming in class 2 (R531). (The readings are free: what an attempt finds is not the model's.) -/
def Obligations.Calibration : Prop :=
  (∀ (s : State) (d : Fin 32), s.canon = true →
    let due := fun (t : State) (x : TileId) (cls : Nat) (f : Fld) =>
      t.die x.d.val = { s.die x.d.val with
        calDue := (s.die x.d.val).calDue ++ [⟨x, cls, 0, (s.die x.d.val).sbOrd⟩], sbOrd := (s.die x.d.val).sbOrd + 1 } ∧
      t.fld f x.d.val = min (s.fld f x.d.val + 1) f.top ∧ DiesBut [x.d.val] s t ∧ RegsBut [regKey .cal x.d.val f.off] s t ∧
      t = { s with regs := t.regs, dies := t.dies }
    let free := fun (x : TileId) => (s.core (.tile x)).bound ≠ none ∧ (s.die x.d.val).calDue.any (fun c => c.tile == x) = false ∧
      (s.die x.d.val).calNow.any (fun c => c.tile == x) = false
    let entered := fun (t : State) (c : CalDue) => t.arrState c.tile = 2 ∧ (∀ y ∈ (t.die d.val).calDue, y.tile ≠ c.tile) ∧
      (t.die d.val).calNow = (s.die d.val).calNow ++ [⟨c.tile, c.cls, s.tileTemp c.tile, none, false⟩] ∧
      DiesBut [d.val] s t ∧ CoresBut [.tile c.tile] s t ∧ t = { s with regs := t.regs, dies := t.dies, cores := t.cores, out := t.out }
    (∀ (src : Src) (v : Word) (x : TileId), s.takes src .cal d.val 0x110 = true → bitsOf v 0 0 = 1 → bitsOf v 20 20 = 0 →
      tileAt d.val (F.CAL_CMD_X.of v) (F.CAL_CMD_Y.of v) = some x → free x →
      ∃ t, exec (.calDemand src d v) s = .next t ∧ due t x 1 F.CAL_TRIG_DEMAND) ∧
    (∀ x : TileId, s.fld F.CAL_CFG_PERIOD x.d.val ≠ 0 → s.keeperUp = true →
      (s.calRec x).pos + s.fld F.CAL_CFG_PERIOD x.d.val * 3600 ≤ s.nvm.pos → free x →
      ∃ t, exec (.calPeriodDue x) s = .next t ∧ due t x 3 F.CAL_TRIG_PERIOD) ∧
    (∀ c : CalDue, s.power.gated = false → (s.die d.val).calDue = [c] → c.tile.d = d → s.calReady c = true →
      (c.cls = 0 → ∃ t, exec (.calEngage d) s = .next t ∧ entered t c) ∧
      (∀ p r a, c.cls ≠ 0 → s.replicaAt c.tile = some (p, r, a) → r.tiles = [c.tile] → s.stageInCal p r = false →
        (s.die r.anchor.d.val).calGap.any (inGap r.stage r.rep) = false → ∃ t, exec (.calEngage d) s = .next t ∧ entered t c)) ∧
    (∀ (stage : BitVec 16) (rep : BitVec 8), ∃ t, exec (.calGapExpiry d stage rep) s = .next t ∧
      t.die d.val = { s.die d.val with calGap := (s.die d.val).calGap.filter fun g => !(inGap stage.toNat rep.toNat g &&
        decide (1000 * s.fld F.CAL_HOLD_GAP d.val ≤ (s.mile - g.2.2).toNat)) } ∧
      DiesBut [d.val] s t ∧ t = { s with dies := t.dies })) ∧
  (∀ (s : State) (x : TileId) (a : CalAtt), s.canon = true → (s.die x.d.val).calNow.find? (fun c => c.tile == x) = some a →
    s.keeper.retWait.any (fun y => y.1 == x) = false →
    let d := x.d.val
    (a.pass1 = none → ∃ t, exec (.calPassDone x) s = .next t ∧
      (t.die d).calNow = (s.die d).calNow.map (fun c => if c.tile == x then { c with pass1 := some (fitPass s.free) } else c) ∧
      t.free = s.free + 1 ∧ DiesBut [d] s t ∧ t = { s with dies := t.dies, free := t.free }) ∧
    (∀ p1, a.pass1 = some p1 →
      let p2 := fitPass s.free
      let ts := (p1.1.zip p2.1).map fun x => meanTrim x.1 x.2
      let dn := (roundDiv ((p1.2 : Int) + p2.2) 2).toNat
      let ok := (p1.1.zip p2.1).all (fun x => trimAgree (max 1 (s.fld F.CAL_CFG_AGREE d)) x.1 x.2) = true ∧
        calQf s.free (s.fld F.TIL_ARR_CFG_RNG (tileKey x)) dn ts ≤ s.fld F.CAL_CFG_QF_MAX d ∧ Config.freeBool s.free = false ∧
        s.driftBad x a.cls dn = false
      let moved := a.voided = true ∨ 100 < (s.tileTemp x - a.startT).natAbs
      ∃ t, exec (.calPassDone x) s = .next t ∧ t.cells = s.cells ∧
        (moved → t.fld F.CAL_FLAG_VOID d = min (s.fld F.CAL_FLAG_VOID d + 1) F.CAL_FLAG_VOID.top ∧ t.convs = s.convs ∧
          (a.cls ≠ 0 → t.arrState x = 1 ∧ (∃ y ∈ (t.die d).calDue, y.tile = x ∧ y.cls = a.cls) ∧ ∀ c ∈ (t.die d).calNow, c.tile ≠ x)) ∧
        (¬ moved → ok → ∀ q, (s.die d).reused.filter (fun q => q.tile == x) = [q] → (s.calRec x).qf ≠ 0xFF → dn + 1311 < (s.calRec x).d → (s.job (s.part d)).swap = none →
          { q with cls := 2 } ∈ (t.die d).progQ) ∧
        (¬ moved → ok → t.conv x = { s.conv x with trims := ts, track := 0x8000, next := 0x8000 } ∧
          t.fld F.CAL_CNT_ACCEPTED d = min (s.fld F.CAL_CNT_ACCEPTED d + 1) F.CAL_CNT_ACCEPTED.top) ∧
        (¬ moved → ¬ ok → t.convs = s.convs ∧ t.fld F.CAL_CNT_BAD d = min (s.fld F.CAL_CNT_BAD d + 1) F.CAL_CNT_BAD.top)))

/-- R97, R341, R469–R473: a sample of a sensor is kept, and the throttle factor of the die it bears on is that of its hottest sensor; a sensor
that does not answer keeps its value, and the misses are counted. The samples delivered to a die set the tracking factor of every bound
array, between two MVMs (R120, R350). The daily refresh of the noise model raises its SEQ and records the power-on hour. -/
def Obligations.SensorsAndNoise : Prop :=
  ∀ s : State, s.canon = true → s.keeperUp = true →
    (∀ (u : Fin 49) (n : Fin 16), snsExists u.val n.val = true → let k := snsKey u.val n.val
      (∀ v : Int, ∃ t, exec (.sensorSample u n (some v)) s = .next t ∧
        t.sensor k = { s.sensor k with t := v, miss := 0, seen := true, faulty := (t.sensor k).faulty, fast := (t.sensor k).fast } ∧
        (∀ k', k' ≠ k → t.sensor k' = s.sensor k') ∧
        (∀ d, snsDie u.val = some d → t.fld (F.THM_DIE_FACTOR.nth d) 0 = throttle (max 70 (min 95 (s.fld F.THM_CFG_THROT 0)))
          (max 1 (s.fld F.THM_CFG_K 0)) (max 1 (s.fld F.THM_CFG_FLOOR 0)) (t.dieTemp d) % 2 ^ 9) ∧ t.cells = s.cells ∧ t.jobs = s.jobs) ∧
      (∃ t, exec (.sensorSample u n none) s = .next t ∧
        t.sensor k = { s.sensor k with miss := (s.sensor k).miss + 1, faulty := (t.sensor k).faulty, fast := (t.sensor k).fast } ∧
        (∀ k', k' ≠ k → t.sensor k' = s.sensor k') ∧ t.cells = s.cells ∧ t.jobs = s.jobs)) ∧
    (∀ d : Fin 32, ∃ t, exec (.sampleDelivery d) s = .next t ∧
      (∀ x : TileId, x.d = d → (s.core (.tile x)).bound ≠ none →
        let v := trackOf (s.tileTemp x - (s.calRec x).tcal)
        t.conv x = { s.conv x with next := v, track := if s.arrBusy x then (s.conv x).track else v }) ∧
      (∀ x : TileId, x.d ≠ d ∨ (s.core (.tile x)).bound = none → t.conv x = s.conv x) ∧
      DiesBut [d.val] s t ∧ t = { s with regs := t.regs, dies := t.dies, convs := t.convs }) ∧
    (∃ t, exec .noiseModelRefresh s = .next t ∧ t.nvm.noiseSeq = (s.nvm.noiseSeq + 1) % 2 ^ 32 ∧ t.nvm.noisePoh = s.nvm.pos / 3600 ∧
      t.nvm = { s.nvm with noise := t.nvm.noise, noiseSeq := t.nvm.noiseSeq, noisePoh := t.nvm.noisePoh } ∧ t.free = s.free + 64 ∧
      t = { s with nvm := t.nvm, free := t.free })

/-! ## The system fabric -/

/-- R358, R361–R367, R378: a link whose quads, signal, lock and revisions allow it comes UP with what both sides bring, fresh sequence numbers
and a grant of credits. A flit of its packets that arrives sound and in order is buffered and acknowledged; a damaged one, and the first
out of order, is counted and asked for again. A sender asked for a replay resends what follows ACK_SEQ. A share entry is stored, and on an
UP link the pools are granted anew. R403–R406, R409: a lane quad that fails leaves its link narrower, or dead with its last one. A dead
link shows TRAINING, counts and keeps nothing, and every job it serves is stopped. An ABORT heard for the first time goes on by the job's
other links, and the job's partition stops: JSTOP names cause 5, the ABORT's link and its origin, and its passages end FAULTED with
FABRIC, or MC_HOLD where the ABORT's cause is a branch cleared (the model's choice, log entry 37). A fabric branch stalled too long is
cleared, recorded, and stops its job with MC_HOLD. -/
def Obligations.FabricLinks : Prop :=
  (∀ (s : State) (n : Fin 12), s.canon = true →
    let k := s.bfpLink n.val
    let others := fun (t : State) => ∀ m, m ≠ n.val → t.bfpLink m = s.bfpLink m
    (∀ i : TrainInfo, s.mapQuads n.val ≠ [] → s.power.rails = true → s.linkQuads n.val ≠ [] →
      let up := (s.linkQuads n.val).filter fun q => i.quads.getLsbD q
      (i.signal = true → i.lock = true → up ≠ [] → 1 ≤ i.revMax.toNat → i.revMin.toNat ≤ 1 →
        ∃ t, exec (.linkTrain n i) s = .next t ∧ t.linkUp n.val = true ∧ t.fld F.BFP_LNK_STS_CAUSE n.val = 0 ∧
          t.fld F.BFP_LNK_STS_REV n.val = 1 ∧ t.fld F.BFP_LNK_STS_NCOORD n.val = i.ncoord.toNat ∧
          t.fld F.BFP_LNK_STS_NLINK n.val = i.nlink.toNat % (F.BFP_LNK_STS_NLINK.top + 1) ∧
          t.bfpLink n.val = { BfpLink.zero with
            quads := up, txSeq := 1, kept := [creditFlit (s.grants n.val) 0 4095] } ∧ .bfpFlits n.val [creditFlit (s.grants n.val) 0 4095] ∈ t.out ∧
          t.cells = s.cells ∧ (s.linkUp n.val = false → others t ∧ t.jobs = s.jobs)) ∧
      (i.signal = false → ∃ t, exec (.linkTrain n i) s = .next t ∧ t.fld F.BFP_LNK_STS_STATE n.val = 0 ∧ t.fld F.BFP_LNK_STS_CAUSE n.val = 1 ∧
        RegsBut [regKey .bfp n.val F.BFP_LNK_STS_STATE.off] s t ∧ t = { s with regs := t.regs })) ∧
    (∀ f : BfpFlit, s.fld F.BFP_LNK_STS_STATE n.val ≠ 0 → f.corr = 0 → f.uncorr = false → f.ftype = 1 →
      (bfpIntact f = true → f.seq.toNat = (k.rxSeq + 1) % 4096 → f.nak = false → s.fabQuiet = true → ∃ t, exec (.bfpFlitReceive n f) s = .next t ∧
        (t.bfpLink n.val).rxSeq = f.seq.toNat ∧ (t.bfpLink n.val).nakked = false ∧
        SMap.get (fun _ => []) (t.bfpLink n.val).rxBuf (flitPool f) = SMap.get (fun _ => []) k.rxBuf (flitPool f) ++ [f] ∧
        t.out = s.out ++ [.bfpFlits n.val [idleBfp f.seq.toNat false 0 0]] ∧ others t ∧ t = { s with regs := t.regs, bfp := t.bfp, out := t.out }) ∧
      (bfpIntact f = true → f.seq.toNat ≠ (k.rxSeq + 1) % 4096 → k.nakked = true → ∃ t, exec (.bfpFlitReceive n f) s = .next t ∧
        t = { s with regs := t.regs }) ∧
      (bfpIntact f = false ∨ (f.seq.toNat ≠ (k.rxSeq + 1) % 4096 ∧ k.nakked = false) → ∃ t, exec (.bfpFlitReceive n f) s = .next t ∧
        t.bfpLink n.val = { k with nakked := true } ∧ t.out = s.out ++ [.bfpFlits n.val [idleBfp k.rxSeq true 0 0]] ∧
        t.fld F.BFP_ERR_CRC n.val = min (s.fld F.BFP_ERR_CRC n.val + 1) F.BFP_ERR_CRC.top ∧ others t ∧
        t = { s with regs := t.regs, bfp := t.bfp, out := t.out })) ∧
    (∀ (a : BitVec 12) (g : BfpFlit) (l : List BfpFlit), s.linkUp n.val = true → k.kept = g :: l → g.seq = a → l ≠ [] →
      ∃ t, exec (.bfpReplay n a) s = .next t ∧ t.bfpLink n.val = { k with kept := l, naks := 1 } ∧
        t.out = s.out ++ [.bfpResend n.val l] ∧
        t.fld F.BFP_REPLAY_COUNT n.val = min (s.fld F.BFP_REPLAY_COUNT n.val + l.length) F.BFP_REPLAY_COUNT.top ∧ others t ∧
        RegsBut [regKey .bfp n.val F.BFP_REPLAY_COUNT.off] s t ∧ t = { s with regs := t.regs, bfp := t.bfp, out := t.out }) ∧
    (∀ (src : Src) (e : Fin 16) (v : Word), s.takes src .bfp n.val (0x200 + 8 * e.val) = true →
      ∃ t, exec (.shareRegrant src n e v) s = .next t ∧ t.fld (F.BFP_SHARE_JOB.nth e.val) n.val = F.BFP_SHARE_JOB.of v ∧
        t.fld (F.BFP_SHARE_SHARE.nth e.val) n.val = F.BFP_SHARE_SHARE.of v ∧
        t.fld (F.BFP_SHARE_VALID.nth e.val) n.val = F.BFP_SHARE_VALID.of v ∧
        t.out = s.out ++ (if s.linkUp n.val then [.bfpFlits n.val [creditFlit (t.grants n.val) k.txSeq k.rxSeq]] else []) ∧ others t ∧
        RegsBut [regKey .bfp n.val (0x200 + 8 * e.val)] s t ∧ t = { s with regs := t.regs, bfp := t.bfp, out := t.out })) ∧
  (∀ (s : State) (n : Fin 12), s.canon = true →
    let dead := fun (t : State) (cause : Nat) => t.fld F.BFP_LNK_STS_STATE n.val = 1 ∧ t.fld F.BFP_LNK_STS_QUADS n.val = 0 ∧
      t.fld F.BFP_DEAD_COUNT n.val = min (s.fld F.BFP_DEAD_COUNT n.val + 1) F.BFP_DEAD_COUNT.top ∧ t.fld F.BFP_DEAD_CAUSE n.val = cause ∧
      t.bfpLink n.val = BfpLink.zero ∧ (∀ j ∈ s.jobsOn n.val, j ∈ t.aborted) ∧ t.cells = s.cells
    let stopped := fun (t : State) (job p status : Nat) => job ∈ t.aborted ∧ (t.job p).stopped = true ∧
      (∀ i ∈ s.partLive p, t.faulted i status) ∧ (∀ c ∈ t.colls, c.job ≠ job) ∧ (∀ f ∈ t.fabTrees, f.job ≠ job) ∧ t.cells = s.cells
    (∀ q : Fin 24, s.linkUp n.val = true → q.val ∈ (s.bfpLink n.val).quads →
      let left := (s.bfpLink n.val).quads.filter fun x => x != q.val
      (left ≠ [] → ∃ t, exec (.quadFail n q) s = .next t ∧ t.bfpLink n.val = { s.bfpLink n.val with quads := left } ∧
        t.fld F.BFP_QDROP_COUNT n.val = min (s.fld F.BFP_QDROP_COUNT n.val + 1) F.BFP_QDROP_COUNT.top ∧
        t.fld F.BFP_QDROP_QMASK n.val = s.fld F.BFP_QDROP_QMASK n.val ||| 2 ^ q.val ∧
        t = { s with regs := t.regs, bfp := t.bfp, out := t.out }) ∧
      (left = [] → ∃ t, exec (.quadFail n q) s = .next t ∧ dead t 2)) ∧
    (∀ c : Fin 4, s.linkUp n.val = true → c ≠ 0 → ∃ t, exec (.linkDead n c) s = .next t ∧ dead t c.val) ∧
    (∀ (job : BitVec 16) (cause link : BitVec 4) (origin : BitVec 18) (p : Nat), job.toNat ∉ s.aborted → s.slicePart job.toNat = some p →
      ∃ t, exec (.abort n job cause link origin) s = .next t ∧ stopped t job.toNat p (if cause = 3 then 2 else 10) ∧
        (∀ m ∈ s.abortLinks job.toNat, .abort m (abortMsg s job.toNat cause.toNat link.toNat origin.toNat) ∈ t.out) ∧
        t.reg .fab p 0x8068 = BitVec.ofNat 64 (2 ^ 63 + 5 * 2 ^ 52 + link.toNat * 2 ^ 48 + job.toNat * 2 ^ 32 + origin.toNat)) ∧
    (∀ (job tree : BitVec 16) (p : Nat), (∃ f ∈ s.fabTrees, f.job = job.toNat ∧ f.tree = tree.toNat ∧ n.val ∈ f.links) →
      job.toNat ∉ s.aborted → s.slicePart job.toNat = some p →
      ∃ t, exec (.fabricMcHoldExpiry n job tree) s = .next t ∧ stopped t job.toNat p 2 ∧ t.fld F.BFP_MCEVT_VALID n.val = 1 ∧
        t.fld F.BFP_MCEVT_JOB n.val = job.toNat ∧ t.fld F.BFP_MCEVT_LINK n.val = n.val ∧ t.fld F.BFP_MCEVT_TREE n.val = tree.toNat))

/-- R370, R371, R376, R377: a packet whose head is at the front of no buffer of its link is not routed. One that has taken 64 part hops is
discarded and counted, as is one for a job this part neither runs nor passes on: its flits leave their buffer and their credits go back. A
packet of a slice set here whose destination lies in another part goes on by the slice's link in the direction of the dimension-ordered
route, one hop older: with a credit of its pool its first flit is sent and kept, without one it waits in its buffer. (Stated where nothing
else is on its way through the port blocks.) -/
def Obligations.FabricPackets : Prop :=
  ∀ (s : State) (n : Fin 12) (k : SysPacket), s.canon = true →
    let y := s.bfpLink n.val
    let k' := { k with hops := k.hops + 1 }
    let others := fun (t : State) => t = { s with regs := t.regs, bfp := t.bfp, out := t.out }
    let dropped := fun (t : State) (b : Nat) (f : Fld) => t.fld f n.val = min (s.fld f n.val + 1) f.top ∧
      (t.bfpLink n.val).inBuf b = (y.inBuf b).drop (firstSys (y.inBuf b)).length ∧ (t.bfpLink n.val).routed b = [] ∧
      (s.linkUp n.val = true → ∀ g ∈ firstSys (y.inBuf b), ∃ m, 0 < m ∧ .bfpFlits n.val [idleBfp y.rxSeq false (flitPool g) m] ∈ t.out) ∧
      RegsBut [regKey .bfp n.val f.off] s t ∧ others t
    (y.headOf k = none → exec (.bfpPacketArrive n k) s = .next s) ∧
    (∀ b, y.headOf k = some b → s.fabQuiet = true →
      (64 ≤ k.hops.toNat + 1 → (y.inBuf b).any BfpFlit.tail = true → ∃ t, exec (.bfpPacketArrive n k) s = .next t ∧ dropped t b F.BFP_DROP_HOPS) ∧
      (k.hops.toNat + 1 < 64 → (y.inBuf b).any BfpFlit.tail = true → s.slicePart k.job.toNat = none → (∀ x ∈ s.shares n.val, x.2.1 ≠ k.job.toNat) →
        ∃ t, exec (.bfpPacketArrive n k) s = .next t ∧ dropped t b F.BFP_DROP_NOROUTE) ∧
      (∀ p d x, k.hops.toNat + 1 < 64 → s.slicePart k.job.toNat = some p → k.mc = false →
        fabDir (s.slice p).size (s.slice p).wrap (s.slice p).coord (k.dx.val, k.dy.val, k.dz.val) = some d →
        (s.slice p).dirs[d]? = some x → x.1 < 12 → s.linkUp x.1 = true →
        let clsB := wrapped (s.slice p) k' d
        let ent := s.entOf x.1 k.job.toNat
        let pool := poolKey k.pkt.vc clsB ent
        let z := s.bfpLink x.1
        (SMap.get noCredit z.credits pool = 0 → ∃ t, exec (.bfpPacketArrive n k) s = .next t ∧
          (t.bfpLink n.val).routed b = [⟨k', 0, [⟨x.1, clsB, ent, 0⟩]⟩] ∧ (t.bfpLink n.val).inBuf b = y.inBuf b ∧ t = { s with bfp := t.bfp }) ∧
        (0 < SMap.get noCredit z.credits pool → SMap.get noUsed z.lock pool = 0 → z.kept.length < 2048 →
          ∃ t, exec (.bfpPacketArrive n k) s = .next t ∧
          (∃ f g, (sysFlits k' clsB ent).head? = some f ∧ g = (z.put f).2 ∧ .bfpFlits x.1 [g] ∈ t.out ∧ g ∈ (t.bfpLink x.1).kept) ∧ others t)))

/-- R373, R374, R379: SET takes the slice of a descriptor that passes its checks: STATE SET with its job; one that fails a check leaves no
slice and the check's CODE. CLEAR leaves no slice; while an image of the job is loaded it is refused with CODE 8. -/
def Obligations.Slices : Prop :=
  ∀ (s : State) (src : Src) (v : Word), s.canon = true →
    let p := s.bank src .fab
    let u := after (storeRW .fab p 0x8028 v) s
    let a := u.fld F.BFP_SLICE_ADDR_ADDR p * 64
    s.takes src .fab p 0x8028 = true → bitsOf v 0 0 = 1 → s.flag F.BFP_SLICE_STS_BUSY p = false →
    (bitsOf v 3 1 = 1 → (u.heldE a 64).isEmpty = true → ∃ t, exec (.sliceSet src v) s = .next t ∧
      (u.sliceCheck p a ≠ 0 → t.slice p = Slice.zero ∧ t.fld F.BFP_SLICE_STS_STATE p = 3 ∧
        t.fld F.BFP_SLICE_STS_CODE p = u.sliceCheck p a ∧ t.aborted = s.aborted) ∧
      (u.sliceCheck p a = 0 → t.slice p = u.sliceAt a ∧ t.fld F.BFP_SLICE_STS_STATE p = 2 ∧ t.fld F.BFP_SLICE_STS_CODE p = 0 ∧
        t.fld F.BFP_SLICE_STS_JOB p = (u.sliceAt a).job ∧ (u.sliceAt a).job ∉ t.aborted) ∧
      (∀ q, q ≠ p → t.slice q = s.slice q) ∧
      ButSlices [regKey .fab p 0x8028, regKey .fab p F.BFP_SLICE_STS_STATE.off] { s with slices := t.slices, aborted := t.aborted } t) ∧
    (bitsOf v 3 1 = 2 → ∃ t, exec (.sliceClear src v) s = .next t ∧
      (¬ ((s.job p).live = true ∧ (s.job p).job = (s.slice p).job ∧ (s.slice p).set = true) → t.slice p = Slice.zero ∧
        t.fld F.BFP_SLICE_STS_STATE p = 0) ∧
      ((s.job p).live = true ∧ (s.job p).job = (s.slice p).job ∧ (s.slice p).set = true → t.slice p = s.slice p ∧
        t.fld F.BFP_SLICE_STS_CODE p = 8) ∧
      (∀ q, q ≠ p → t.slice q = s.slice q) ∧ t = { s with regs := t.regs, slices := t.slices, dies := t.dies })

/-- R380–R384: a SYNC exchange makes the up neighbour of least depth the parent; with the parent it gives an offset, which is kept with the
last sixteen, shows DEPTH one more than the parent's and ends holdover. Losing the parent begins holdover; without a new one in time LOCK
clears and is counted. A service port shows UP and its speed. -/
def Obligations.MilestoneAndPorts : Prop :=
  ∀ s : State, s.canon = true →
    (∀ (n : Fin 12) (t1 t2 t3 t4 : Int) (depth : BitVec 8), s.flag F.MSC_CFG_ROOT 0 = false → s.linkUp n.val = true →
      let ds := s.milestone.depths.set n.val depth.toNat
      (∀ q, s.bestParent ds = some q → q ≠ n.val → ∃ t, exec (.milestoneSync n t1 t2 t3 t4 depth) s = .next t ∧
        t.milestone = { s.milestone with depths := ds } ∧ t.fld F.MSC_STS_PARENT 0 = q % 16 ∧ t.mile = s.mile ∧
        t = { s with regs := t.regs, milestone := t.milestone }) ∧
      (s.bestParent ds = some n.val → ∃ t, exec (.milestoneSync n t1 t2 t3 t4 depth) s = .next t ∧
        t.milestone.thetas = ((s.milestone.thetas ++ [((t2 - t1) - (t4 - t3)) / 2]).reverse.take 16).reverse ∧
        t.milestone.depths = ds ∧ t.fld F.MSC_STS_PARENT 0 = n.val ∧ t.fld F.MSC_STS_DEPTH 0 = min 255 (depth.toNat + 1) ∧
        t.fld F.MSC_STS_HOLD 0 = 0 ∧ (s.milestone.everLocked = true → t.mile = s.mile) ∧
        t = { s with regs := t.regs, milestone := t.milestone, mile := t.mile, free := t.free })) ∧
    (s.flag F.MSC_CFG_ROOT 0 = false → s.fld F.MSC_STS_PARENT 0 ≠ 15 → ∃ t, exec .parentLost s = .next t ∧
      let ds := s.milestone.depths.set (s.fld F.MSC_STS_PARENT 0) 255
      t.milestone = { s.milestone with depths := ds, good := 0, lostAt := s.mile } ∧ t.fld F.MSC_STS_HOLD 0 = 1 ∧
      t.fld F.MSC_STS_PARENT 0 = (s.bestParent ds).getD 15 % 16 ∧ t = { s with regs := t.regs, milestone := t.milestone }) ∧
    (s.flag F.MSC_STS_HOLD 0 = true → s.fld F.MSC_STS_PARENT 0 = 15 → s.flag F.MSC_STS_LOCK 0 = true → 10000000 ≤ (s.mile - s.milestone.lostAt).toNat →
      ∃ t, exec .lockLoss s = .next t ∧ t.flag F.MSC_STS_LOCK 0 = false ∧ t.milestone = { s.milestone with good := 0 } ∧
        t.fld F.MSC_EVT_LOCKLOSS 0 = min (s.fld F.MSC_EVT_LOCKLOSS 0 + 1) F.MSC_EVT_LOCKLOSS.top ∧ t.cells = s.cells) ∧
    (∀ (n : Fin 16) (up : Bool), s.flag F.ETH_MODE_M800 (n.val / 4 * 4) = false ∨ n.val % 4 = 0 →
      ∃ t, exec (.ethLinkChange n up) s = .next t ∧ t.flag F.ETH_STS_UP n.val = up ∧
        t.fld F.ETH_STS_SPEED n.val = (if up then (if s.flag F.ETH_MODE_M800 (n.val / 4 * 4) then 2 else 1) else 0) ∧
        RegsBut [regKey .eth n.val F.ETH_STS_UP.off] s t ∧ t = { s with regs := t.regs })

/-! ## Collectives and barriers -/

/-- R44, R391–R395, R400, R551: a local segment joins its instance: an ALL_REDUCE adds its blocks to the sum from PIECE on, another collective
stores them at their place, until the last local segment starts the exchange. A packet that comes before the local contribution is
complete waits; the reduce phase's is added at once. The die of the port block counts the rescales of what is added, and the reserved
codes of blocks widened. An instance still open after BFP_COLL.TMO stops its job. R401: BFP_BAR_CMD shows ARRIVED with its number and
sends ARRIVE, holding admission where HOLD asks; without a slice it fails with CODE 4. The coordinator releases when all have arrived,
LEAD µs after the latest, and with CODE 2 when some are missing after 1 s. A part told to release fails with a CODE, is late for a time
that has passed, or waits for it; at that time the barrier is done and admission goes on. -/
def Obligations.CollectivesAndBarriers : Prop :=
  (∀ (s : State) (coll job : BitVec 16) (h : Word32) (step : BitVec 16) (x : Coll), s.canon = true →
    let is := Coll.is coll.toNat job.toNat h step.toNat
    s.colls.find? is = some x →
    let counted := fun (t : State) (c : CollInfo) (rescales rsvd : Nat) => let e := s.collDie c
      t.fld F.SCH_FMT_CNT_RESCALE e = min (s.fld F.SCH_FMT_CNT_RESCALE e + rescales) F.SCH_FMT_CNT_RESCALE.top ∧
      t.fld F.SCH_FMT_CNT_RSVD_CODE e = min (s.fld F.SCH_FMT_CNT_RSVD_CODE e + rsvd) F.SCH_FMT_CNT_RSVD_CODE.top ∧
      RegsBut [regKey .sch e F.SCH_FMT_CNT_RESCALE.off, regKey .sch e F.SCH_FMT_CNT_RSVD_CODE.off] s t
    (∀ c, s.collInfo job.toNat coll.toNat = some c → (s.job c.part).stopped = false →
      (∀ (piece : BitVec 16) (acc : List AccBlk) (blk : List (List Byte)), x.got + 1 ≠ s.collWant c →
        ∃ t, exec (.collectiveContribution coll job h step piece acc blk) s = .next t ∧
          t.colls.find? is = some (if c.kind = 0 then
              { x with got := x.got + 1 }.addAt c piece.toNat acc (collGen h step.toNat coll.toNat 0 0 0 0 piece.toNat)
            else
              let place : Nat := (if c.kind = 1 then c.ranks.idxOf (s.rank c.part) * c.d else 0) + piece.toNat
              { x with got := x.got + 1, fin := (putBlks x.fin place blk) }) ∧
          counted t c (if c.kind = 0 then x.addCost c piece.toNat acc (collGen h step.toNat coll.toNat 0 0 0 0 piece.toNat) else 0) 0 ∧
          (∀ y ∈ s.colls, is y = false → y ∈ t.colls) ∧ t = { s with colls := t.colls, regs := t.regs }) ∧
      (∀ (round : Fin 64) (dim : Fin 3) (neg gather : Bool) (piece : BitVec 16) (fmt : BitVec 4) (blks : List (List Byte)),
        s.collOwn c x = false →
        let early := c.kind == 0 && !gather && dim.val == x.dim
        let m : CollMsg := ⟨round.val, if c.kind = 2 then 0 else dim.val, neg, gather, piece.toNat, blks, early⟩
        ∃ t, exec (.collectivePacket coll job h step round dim neg gather piece fmt blks) s = .next t ∧
          t.colls.find? is = some { (if early then x.addAt c piece.toNat (blks.map widen)
              (collGen h step.toNat coll.toNat 0 dim.val 0 round.val piece.toNat) else x) with wait := x.wait ++ [m] } ∧
          counted t c (if early then x.addCost c piece.toNat (blks.map widen)
              (collGen h step.toNat coll.toNat 0 dim.val 0 round.val piece.toNat) else 0) (if early then (blks.map fun b => (blkOf b).2).sum else 0) ∧
          (∀ y ∈ s.colls, is y = false → y ∈ t.colls) ∧ t = { s with colls := t.colls, regs := t.regs })) ∧
    (∀ p q, s.jobPart job.toNat = some p → 1000 * max 1 (s.fld F.BFP_COLL_TMO p) ≤ (s.mile - x.opened).toNat → job.toNat ∉ s.aborted →
      s.slicePart job.toNat = some q → ∃ t, exec (.collectiveTimeout coll job h step) s = .next t ∧ job.toNat ∈ t.aborted ∧
        (t.job q).stopped = true ∧ (∀ i ∈ s.partLive q, t.faulted i 10) ∧ (∀ y ∈ t.colls, y.job ≠ job.toNat) ∧ t.cells = s.cells)) ∧
  (∀ s : State, s.canon = true →
    let ended := fun (t : State) (p st code : Nat) (late : Bool) => t.fld F.BFP_BAR_STS_STATE p = st ∧ t.fld F.BFP_BAR_STS_CODE p = code ∧
      t.flag F.BFP_BAR_STS_LATE p = late ∧ t.fld F.BFP_BAR_STS_BUSY p = 0 ∧ (t.slice p).barRel = none ∧
      (∀ d ∈ s.partDies p, t.die d = { s.die d with holdAdm := false }) ∧ t = { s with regs := t.regs, slices := t.slices, dies := t.dies }
    (∀ (src : Src) (v : Word), let p := s.bank src .fab
      s.takes src .fab p 0x8050 = true → bitsOf v 0 0 = 1 → s.flag F.BFP_BAR_STS_BUSY p = false →
      ((s.slice p).set = true → ∃ t, exec (.barrierGo src v) s = .next t ∧ t.fld F.BFP_BAR_STS_STATE p = 1 ∧
        t.flag F.BFP_BAR_STS_BUSY p = true ∧ t.fld F.BFP_BAR_STS_NUM p = F.BFP_BAR_CMD_NUM.of v ∧
        t.out = s.out ++ [.arrive (fabMsg 0x42 (s.fld F.MSC_STS_LOCK 0) (s.slice p).job s.coord s.mile (F.BFP_BAR_CMD_NUM.of v))] ∧
        (F.BFP_BAR_CMD_HOLD.of v = 1 → ∀ d ∈ s.partDies p, (t.die d).holdAdm = true) ∧
        t = { s with regs := t.regs, slices := t.slices, dies := t.dies, out := t.out }) ∧
      ((s.slice p).set = false → ∃ t, exec (.barrierGo src v) s = .next t ∧ t.fld F.BFP_BAR_STS_STATE p = 3 ∧
        t.fld F.BFP_BAR_STS_CODE p = 4 ∧ RegsBut [regKey .fab p 0x8050, regKey .fab p F.BFP_BAR_STS_STATE.off] s t ∧
        t = { s with regs := t.regs })) ∧
    (∀ (job : BitVec 16) (p : Nat), s.slicePart job.toNat = some p → let x := s.slice p
      (∀ (o : BitVec 18) (m : Word) (lock : Bool) (num : BitVec 16), x.leads = true → x.barArrived.contains o = false →
        let latest := if x.barArrived.isEmpty ∨ x.barLatest < m then m else x.barLatest
        (x.barArrived.length + 1 < x.parts → ∃ t, exec (.arrive job o m lock num) s = .next t ∧
          t.slice p = { x with barArrived := x.barArrived ++ [o], barLatest := latest, barLock := x.barLock && lock,
                               barFirst := if x.barArrived.isEmpty then s.mile else x.barFirst } ∧
          (∀ q, q ≠ p → t.slice q = s.slice q) ∧ t = { s with slices := t.slices }) ∧
        (x.parts ≤ x.barArrived.length + 1 → ∃ t, exec (.arrive job o m lock num) s = .next t ∧
          t.slice p = { x with barArrived := [], barLatest := 0, barFirst := 0, barLock := true } ∧
          t.out = s.out ++ [.release (fabMsg 0x43 (if x.barLock && lock then 0 else 3) x.job s.coord
            (latest + BitVec.ofNat 64 (1000 * max 1 (s.fld F.BFP_BAR_CMD_LEAD p))) num.toNat)] ∧
          (∀ q, q ≠ p → t.slice q = s.slice q) ∧ t = { s with slices := t.slices, out := t.out })) ∧
      (∀ (m : Word) (code : BitVec 4) (num : BitVec 16), s.fld F.BFP_BAR_STS_STATE p = 1 →
        (code ≠ 0 → ∃ t, exec (.release job m code num) s = .next t ∧ ended t p 3 code.toNat false) ∧
        (code = 0 → m < s.mile → ∃ t, exec (.release job m code num) s = .next t ∧ ended t p 2 0 true ∧ t.reg .fab p 0x8060 = m) ∧
        (code = 0 → s.mile ≤ m → ∃ t, exec (.release job m code num) s = .next t ∧ t.slice p = { x with barRel := some m } ∧
          (∀ q, q ≠ p → t.slice q = s.slice q) ∧ t = { s with slices := t.slices }))) ∧
    (∀ part : Fin 16, let p := part.val
      (∀ m, (s.slice p).barRel = some m → m ≤ s.mile → s.fld F.BFP_BAR_STS_STATE p = 1 →
        ∃ t, exec (.barrierReleaseTime part) s = .next t ∧ ended t p 2 0 false ∧ t.reg .fab p 0x8060 = m) ∧
      ((s.slice p).leads = true → (s.slice p).barArrived ≠ [] → 1000000000 ≤ (s.mile - (s.slice p).barFirst).toNat → ∃ t, exec (.barrierTimeout part) s = .next t ∧
        t.slice p = { s.slice p with barArrived := [], barLatest := 0, barFirst := 0, barLock := true } ∧
        t.out = s.out ++ [.release (fabMsg 0x43 2 (s.slice p).job s.coord (s.slice p).barLatest (s.fld F.BFP_BAR_CMD_NUM p))] ∧
        (∀ q, q ≠ p → t.slice q = s.slice q) ∧ t = { s with slices := t.slices, out := t.out })))

/-! ## The Trais ports -/

/-- R415–R417, R429: a port that finds signal, lock, lanes and revision 1 comes UP at its lanes and sends CREDIT_INIT; without a signal it
stays DOWN with CAUSE 1. A DATA flit sound and in order is acknowledged; one whose CRC fails is counted and asked for again. A port that
goes DOWN trains again with nothing queued, kept, cached or asked for. -/
def Obligations.TraisPorts : Prop :=
  ∀ (s : State) (n : Fin 4), s.canon = true →
    let p := s.port n.val
    (∀ i : TrainInfo, s.power.rails = true → s.fld F.TRL_LNK_STS_STATE n.val ≠ 2 →
      (i.signal = true → i.lock = true → i.lanes ≠ 0 → i.revMax ≠ 0 → i.revMin.toNat ≤ 1 →
        ∃ t, exec (.traisTrain n i) s = .next t ∧ t.fld F.TRL_LNK_STS_STATE n.val = 2 ∧ t.fld F.TRL_LNK_STS_CAUSE n.val = 0 ∧
          t.fld F.TRL_LNK_STS_REV n.val = 1 ∧ t.fld F.TRL_LNK_STS_LANES n.val = i.lanes.toNat ∧ .traisFlits n.val [traisCredit p.txSeq p.rxSeq] ∈ t.out ∧
          PortsBut [n.val] s t ∧ RegsButEvt [regKey .trl n.val F.TRL_LNK_STS_STATE.off] s t ∧
          t = { s with regs := t.regs, ports := t.ports, out := t.out }) ∧
      (i.signal = false → ∃ t, exec (.traisTrain n i) s = .next t ∧ t.fld F.TRL_LNK_STS_STATE n.val = 0 ∧
          t.fld F.TRL_LNK_STS_CAUSE n.val = 1 ∧ RegsBut [regKey .trl n.val F.TRL_LNK_STS_STATE.off] s t ∧ t = { s with regs := t.regs })) ∧
    (∀ f : TraisFlit, s.fld F.TRL_LNK_STS_STATE n.val = 2 → f.ftype = 1 → f.uncorr = false →
      (f.crc = traisSum f → f.seq.toNat = (p.rxSeq + 1) % 4096 → p.txNaks < 15 → ∃ t, exec (.traisFlitReceive n f) s = .next t ∧
        (t.port n.val).rxSeq = f.seq.toNat ∧ (t.port n.val).nakked = false ∧ (t.port n.val).naks = 0 ∧
        .traisFlits n.val [traisIdle f.seq.toNat false] ∈ t.out ∧ PortsBut [n.val] s t ∧
        RegsBut [regKey .trl n.val F.TRL_ERR_CRC.off, regKey .trl n.val F.TRL_REPLAY_COUNT.off] s t ∧
        t = { s with regs := t.regs, ports := t.ports, out := t.out }) ∧
      (f.crc ≠ traisSum f → p.naks < 15 → ∃ t, exec (.traisFlitReceive n f) s = .next t ∧
        t.port n.val = { p with nakked := true, naks := p.naks + 1 } ∧ t.out = s.out ++ [.traisFlits n.val [traisIdle p.rxSeq true]] ∧
        t.fld F.TRL_ERR_CRC n.val = min (s.fld F.TRL_ERR_CRC n.val + 1) F.TRL_ERR_CRC.top ∧ PortsBut [n.val] s t ∧
        RegsBut [regKey .trl n.val F.TRL_ERR_CRC.off] s t ∧ t = { s with regs := t.regs, ports := t.ports, out := t.out })) ∧
    (∀ replay : Bool, s.fld F.TRL_LNK_STS_STATE n.val = 2 → s.quiet = true → (∀ d c, (s.dma d c).cur = none) →
      ∃ t, exec (.traisPortDown n replay) s = .next t ∧ t.fld F.TRL_LNK_STS_STATE n.val = 1 ∧
        t.fld F.TRL_LNK_STS_CAUSE n.val = (if replay then 3 else 2) ∧ t.fld F.TRL_LNK_STS_LANES n.val = 0 ∧
        t.fld F.TRL_LNK_STS_DOWNS n.val = min (s.fld F.TRL_LNK_STS_DOWNS n.val + 1) F.TRL_LNK_STS_DOWNS.top ∧
        (t.port n.val).txq = [] ∧ (t.port n.val).kept = [] ∧ (t.port n.val).hlc = [] ∧ (t.port n.val).reads = [] ∧
        (t.port n.val).snoops = [] ∧
        t = { s with regs := t.regs, ports := t.ports, snoopF := t.snoopF, sec := t.sec, nvm := t.nvm, keeper := t.keeper,
                     dies := t.dies, free := t.free, out := t.out })

/-- R418–R424: a read of stack memory that needs no snoop is answered with its bytes, a write stores its bytes, a line is granted shared or
exclusive with its data, and the filter names its holders: all through the slices (R264). A request for a line that another port holds
exclusively, or exclusively wanted and held elsewhere, waits, and a snoop is out for each copy. A write-back stores the line and clears
its holder, unless its snoop had gone unanswered: then it is discarded. A write of a ring window slot that may be made is made. -/
def Obligations.HostRequests : Prop :=
  ∀ (s : State) (n : Fin 4), s.canon = true → s.quiet = true → s.fld F.TRL_LNK_STS_STATE n.val = 2 →
    let p := s.port n.val
    let snp := fun (l : List Nat) => l.map fun m => regKey .trl m F.TRL_SNP_SENT.off
    (∀ (sp : Space) (off : Word) (len : Nat) (tag : BitVec 16) (a : Nat), s.reqAddr n.val sp off.toNat len = some a → p.txq = [] →
      s.heldE a len = [] → s.poison = [] → ∃ t, exec (.traisRd n sp off len tag) s = .next t ∧
        t.out = s.out ++ [.traisFlits n.val [traisData p.txSeq p.rxSeq (.cpl tag.toNat 0 (s.bytes a len))]] ∧ PortsBut [n.val] s t ∧
        ButSlices [] s t) ∧
    (∀ (sp : Space) (off : Word) (data : List Byte) (a : Nat), s.reqAddr n.val sp off.toNat data.length = some a →
      s.heldE a data.length = [] → ∃ t, exec (.traisWr n sp off data) s = .next t ∧ t.bytes a data.length = data ∧
        BytesBut a data.length s t ∧ (∀ d, DieSlices (s.die d) (t.die d)) ∧
        (∀ k, k ∉ snp ((s.heldS a data.length).flatMap fun x => x.2.ports) → ¬ stkKey k →
          SMap.get regResetKey t.regs k = SMap.get regResetKey s.regs k) ∧
        t = { s with mem := t.mem, poison := t.poison, snoopF := t.snoopF, regs := t.regs, ports := t.ports, dies := t.dies, out := t.out }) ∧
    (∀ (off : Word) (tag : BitVec 16) (excl : Bool) (a : Nat), s.reqAddr n.val .ring off.toNat 64 = some a →
      let c := if excl then Instr.traisRdE n off tag else Instr.traisRdS n off tag
      let l := s.lineSnoops n.val (a / 64) excl
      (l = [] → p.txq = [] → s.poison = [] → ∃ t, exec c s = .next t ∧
        t.out = s.out ++ [.traisFlits n.val [traisData p.txSeq p.rxSeq (.cpl tag.toNat 0 (s.bytes (a / 64 * 64) 64))]] ∧
        (∃ e, t.sfEntry (a / 64) = some (s.owner (a / 64 * 64), e) ∧ n.val ∈ e.ports ∧ e.excl = excl ∧ (excl = true → e.ports = [n.val])) ∧
        PortsBut [n.val] s t ∧ ButSlices [] { s with snoopF := t.snoopF } t) ∧
      (l ≠ [] → ∃ t, exec c s = .next t ∧ (∀ x ∈ l, t.snooping x.1 x.2.1 = true) ∧
        (t.port n.val).held = [if excl then .rdE off.toNat tag.toNat else .rdS off.toNat tag.toNat] ∧ RegsBut (snp (l.map Prod.fst)) s t ∧
        t = { s with regs := t.regs, ports := t.ports, out := t.out })) ∧
    (∀ (off : Word) (data : List Byte) (a : Nat), s.reqAddr n.val .ring off.toNat 64 = some a →
      (a / 64 ∉ p.dropWb → ∃ t, exec (.traisWb n off data) s = .next t ∧ t.bytes (a / 64 * 64) 64 = padTo 64 data ∧
        (∀ x, t.sfEntry (a / 64) = some x → n.val ∉ x.2.ports) ∧ BytesBut (a / 64 * 64) 64 s t ∧
        t = { s with mem := t.mem, poison := t.poison, dies := t.dies, regs := t.regs, snoopF := t.snoopF }) ∧
      (a / 64 ∈ p.dropWb → ∃ t, exec (.traisWb n off data) s = .next t ∧
        t.port n.val = { p with dropWb := p.dropWb.filter fun x => x != a / 64 } ∧ PortsBut [n.val] s t ∧
        t = { s with ports := t.ports })) ∧
    (∀ (src : Src) (k : Fin 16) (v : Word), s.takes src .trl n.val (0x200 + 8 * k.val) = true →
      F.TRL_RWIN_VALID.of v = 0 ∨ s.granPart (F.TRL_RWIN_GRANULE.of v) = s.portPart n.val →
      s.reqSnoops n.val (.remap k.val v) = [] → ∃ t, exec (.ringWindowRemap src n k v) s = .next t ∧
        t.fld (F.TRL_RWIN_VALID.nth k.val) n.val = F.TRL_RWIN_VALID.of v ∧
        t.fld (F.TRL_RWIN_GRANULE.nth k.val) n.val = F.TRL_RWIN_GRANULE.of v ∧
        RegsBut [regKey .trl n.val (0x200 + 8 * k.val)] s t ∧ PortsBut [] s t ∧ t = { s with regs := t.regs, ports := t.ports })

/-- R424–R426: an answer to a snoop ends it; modified data is stored, an invalidated copy is gone and a recalled one is shared at most. A
snoop not answered in time is counted and its copy taken as gone; a later write-back of an exclusive one is discarded. The host's own
snoops are answered, its invalidations with the copy dropped. A line the host sends for a DMA channel enters the cache. -/
def Obligations.Snoops : Prop :=
  ∀ (s : State) (n : Fin 4), s.canon = true →
    let p := s.port n.val
    (∀ (tag : BitVec 16) (x : Snoop), s.quiet = true → p.snoops.find? (fun y => y.tag == tag.toNat) = some x →
      let ended := fun (t : State) => ∀ y ∈ (t.port n.val).snoops, y.tag ≠ x.tag
      (∀ data : Option (List Byte), ∃ t, exec (.traisSnpRsp n tag data) s = .next t ∧ ended t ∧
        (∀ bs, data = some bs → t.bytes (x.line * 64) 64 = padTo 64 bs) ∧
        (∀ d e, t.sfEntry x.line = some (d, e) → n.val ∈ e.ports → x.inv = false ∧ e.excl = false) ∧
        (data = none → t.mem = s.mem) ∧ BytesBut (x.line * 64) 64 s t ∧ PortsBut [n.val] s t ∧
        t = { s with mem := t.mem, poison := t.poison, dies := t.dies, regs := t.regs, ports := t.ports, snoopF := t.snoopF }) ∧
      (1000 * max 1 (s.fld F.TRL_CFG_SNP_TMO n.val) ≤ (s.mile - x.sent).toNat → ∃ t, exec (.snoopTimeout n tag) s = .next t ∧ ended t ∧ (∀ d e, t.sfEntry x.line = some (d, e) → n.val ∉ e.ports) ∧
        t.fld F.TRL_SNP_TMO n.val = min (s.fld F.TRL_SNP_TMO n.val + 1) F.TRL_SNP_TMO.top ∧
        (∀ d e, s.sfEntry x.line = some (d, e) → e.excl = true → n.val ∈ e.ports → x.line ∈ (t.port n.val).dropWb) ∧
        RegsButEvt [regKey .trl n.val F.TRL_SNP_TMO.off] s t ∧
        t = { s with snoopF := t.snoopF, regs := t.regs, ports := t.ports, nvm := t.nvm, keeper := t.keeper, dies := t.dies,
                     free := t.free, out := t.out })) ∧
    (∀ (addr : Word) (tag : BitVec 16), s.fld F.TRL_LNK_STS_STATE n.val = 2 → p.txq = [] →
      let answered := fun (t : State) => t.out = s.out ++ [.traisFlits n.val [traisData p.txSeq p.rxSeq (.snpRsp tag.toNat)]] ∧ PortsBut [n.val] s t ∧
        t = { s with ports := t.ports, out := t.out }
      (∃ t, exec (.traisSnpInv n addr tag) s = .next t ∧
        (t.port n.val).hlc = (p.hlc.filter fun x => x.1 != addr.toNat / 64) ∧ answered t) ∧
      (∃ t, exec (.traisSnpRcl n addr tag) s = .next t ∧ (t.port n.val).hlc = p.hlc ∧ answered t)) ∧
    (∀ (tag : BitVec 16) (data : List Byte) (r : HostRead), p.reads.find? (fun y => y.tag == tag.toNat) = some r → r.flush = false →
      let x := s.dma (r.ch / 2) (r.ch % 2)
      (∀ b, x.cur = some b → (x.srcLines b).2 ≤ x.got + 1) → ∃ t, exec (.traisCpl n tag 0 data) s = .next t ∧
        (t.port n.val).line r.line = some (padTo 64 data) ∧ t.dma (r.ch / 2) (r.ch % 2) = { x with got := x.got + 1 } ∧
        (∀ y ∈ (t.port n.val).reads, y.tag ≠ tag.toNat) ∧ PortsBut [n.val] s t ∧ DiesBut [r.ch / 2] s t ∧
        t = { s with ports := t.ports, dies := t.dies })

/-- R428: an event goes to every port of its unit's partition whose entry for the source is enabled: masked, in holdoff or with the port not
UP it is kept pending with its latest data, else its EVT is sent with the entry's vector, and the holdoff begins. At a holdoff's end a
pending event that nothing else holds is sent. A write of an entry takes its EN, MASK and VECTOR. -/
def Obligations.HostEvents : Prop :=
  ∀ s : State, s.canon = true →
    let vec := fun (n v : Nat) => F.TRL_EVT_VECTOR.of (s.evt n v)
    let room := fun (n : Nat) => (s.port n).txq = [] ∧ 1 ≤ SMap.get noCr (s.port n).credits 0
    let frame := fun (t : State) => RegsButEvt [] s t ∧ t = { s with regs := t.regs, ports := t.ports, out := t.out }
    (∀ (v : Fin 128) (data : Word32), ∃ t, exec (.eventRaise v data) s = .next t ∧ frame t ∧
      (∀ q n, q ∈ s.evtParts v.val data.toNat → n ∈ s.partPorts q → F.TRL_EVT_EN.of (s.evt n v.val) = 1 →
        let held := F.TRL_EVT_MASK.of (s.evt n v.val) = 1 ∨ (s.port n).inHoldoff (vec n v.val) = true ∨ s.fld F.TRL_LNK_STS_STATE n ≠ 2
        (held → t.fld (F.TRL_EVT_PEND.nth v.val) n = 1 ∧ SMap.get (fun _ => 0) (t.port n).evData v.val = data.toNat) ∧
        (¬held → (room n → .traisFlits n [traisData (s.port n).txSeq (s.port n).rxSeq (.evt (vec n v.val) data.toNat)] ∈ t.out) ∧
          (s.fld F.TRL_CFG_HOLDOFF n ≠ 0 → (t.port n).inHoldoff (vec n v.val) = true))) ∧
      (∀ n, (∀ q ∈ s.evtParts v.val data.toNat, n ∉ s.partPorts q) → t.port n = s.port n)) ∧
    (∀ (n : Fin 4) (v : Fin 128), room n.val → s.fld F.TRL_LNK_STS_STATE n.val = 2 → F.TRL_EVT_EN.of (s.evt n.val v.val) = 1 →
      F.TRL_EVT_MASK.of (s.evt n.val v.val) = 0 → F.TRL_EVT_PEND.of (s.evt n.val v.val) = 1 →
      (∀ x ∈ (s.port n.val).holdoff, x.1 = vec n.val v.val → 1000 * s.fld F.TRL_CFG_HOLDOFF n.val ≤ (s.mile - x.2).toNat) →
      ∃ t, exec (.eventHoldoffExpiry n v) s = .next t ∧ t.fld (F.TRL_EVT_PEND.nth v.val) n.val = 0 ∧
        t.out = s.out ++ [.traisFlits n.val [traisData (s.port n.val).txSeq (s.port n.val).rxSeq
          (.evt (vec n.val v.val) (SMap.get (fun _ => 0) (s.port n.val).evData v.val % 2 ^ 32))]] ∧ PortsBut [n.val] s t ∧ frame t) ∧
    (∀ (src : Src) (n : Fin 4) (v : Fin 128) (w : Word), s.takes src .trl n.val (0x400 + 8 * v.val) = true →
      ∃ t, exec (.eventTableWrite src n v w) s = .next t ∧ t.fld (F.TRL_EVT_EN.nth v.val) n.val = F.TRL_EVT_EN.of w ∧
        t.fld (F.TRL_EVT_MASK.nth v.val) n.val = F.TRL_EVT_MASK.of w ∧ t.fld (F.TRL_EVT_VECTOR.nth v.val) n.val = F.TRL_EVT_VECTOR.of w ∧
        RegsBut [regKey .trl n.val (0x400 + 8 * v.val)] s t ∧ PortsBut [n.val] s t ∧ t = { s with regs := t.regs, ports := t.ports, out := t.out })

/-! ## DMA -/

/-- R432, R433, R437, R442, R444: a ring whose bytes all lie in granules of the die's partition is taken, and enabling it leaves the channel
IDLE; one that does not is discarded; clearing EN disables the channel (log entry 191). A doorbell records TAIL, and an IDLE channel with
descriptors offered RUNs. RESUME continues a HALTED channel. ABORT ends the offered descriptors, up to the first that is not (log entry
192), with STATUS 7 and leaves the channel IDLE. -/
def Obligations.DmaControl : Prop :=
  ∀ (s : State) (src : Src) (d : Fin 32) (c : Fin 2) (v : Word), s.canon = true → s.power.drainFor ≠ 3 →
    let off := 0x100 + 128 * c.val
    let st := fun (s : State) => s.fld (F.DMA_CH_STS_STATE.chan c.val) d.val
    let h := s.dmaHead d.val c.val
    let w := s.dmaReg d.val c.val 0
    let x := s.dma d.val c.val
    let sts := regKey .dma d.val (off + 0x20)
    (s.takes src .dma d.val off = true →
      let own := s.owns (s.part d.val) (F.DMA_CH_RING_ADDR.of v * 64) (2 ^ dmaLog2 v * 32)
      (F.DMA_CH_RING_EN.of v = 0 ∨ own = true → ∃ t, exec (.dmaRingWrite src d c v) s = .next t ∧
        F.DMA_CH_RING_EN.of (t.dmaReg d.val c.val 0) = F.DMA_CH_RING_EN.of v ∧
        F.DMA_CH_RING_ADDR.of (t.dmaReg d.val c.val 0) = F.DMA_CH_RING_ADDR.of v ∧
        F.DMA_CH_RING_LOG2.of (t.dmaReg d.val c.val 0) = F.DMA_CH_RING_LOG2.of v ∧
        st t = (if F.DMA_CH_RING_EN.of v = 0 then 0 else if F.DMA_CH_RING_EN.of w = 0 then 1 else st s) ∧
        RegsBut [regKey .dma d.val off, sts] s t ∧ t = { s with regs := t.regs }) ∧
      (F.DMA_CH_RING_EN.of v = 1 → own = false → exec (.dmaRingWrite src d c v) s = .next s)) ∧
    (s.takes src .dma d.val (off + 8) = true → ∃ t, exec (.dmaDoorbell src d c v) s = .next t ∧
      t.dma d.val c.val = { x with tail := F.DMA_CH_TAIL_TAIL.of v } ∧
      st t = (if st s = 1 ∧ h ≠ F.DMA_CH_TAIL_TAIL.of v then 2 else st s) ∧ DiesBut [d.val] s t ∧ RegsBut [sts] s t ∧
      t = { s with dies := t.dies, regs := t.regs }) ∧
    (s.takes src .dma d.val (off + 0x30) = true → F.DMA_CH_CMD_OP.of v = 1 → st s = 3 → ∃ t, exec (.dmaResume src d c v) s = .next t ∧
      st t = (if h = x.tail then 1 else 2) ∧ RegsBut [sts] s t ∧ t = { s with regs := t.regs }) ∧
    (s.takes src .dma d.val (off + 0x30) = true → F.DMA_CH_CMD_OP.of v = 2 → st s = 2 ∨ st s = 3 →
      let cnt := min ((x.tail + 2 ^ 17 - h) % 2 ^ 17) (2 ^ dmaLog2 w)
      let n := ((List.range cnt).takeWhile fun i => nbit (s.byte (s.descAddr d.val c.val (h + i) + 0x1F)).toNat 0).length
      (∀ i, i < cnt → s.heldE (s.descAddr d.val c.val (h + i)) 32 = []) → ∃ t, exec (.dmaAbort src d c v) s = .next t ∧ st t = 1 ∧
        t.fld (F.DMA_CH_STS_BUSY.chan c.val) d.val = 0 ∧ t.dma d.val c.val = { DmaCh.zero with tail := x.tail } ∧
        t.dmaHead d.val c.val = (h + n) % 2 ^ 17 ∧ (∀ i, i < n → t.bytes (s.descAddr d.val c.val (h + i) + 0x1E) 2 = [7, 0]) ∧
        t = { s with mem := t.mem, poison := t.poison, snoopF := t.snoopF, regs := t.regs, ports := t.ports, dies := t.dies,
                     free := t.free, out := t.out })

/-- R434–R441: a running channel takes the descriptor at HEAD. One whose OWN is 0 leaves the channel IDLE; one that fails a check is completed
with the check's STATUS and moves nothing; a sound one is in progress. When the move ends, a device destination holds the source's bytes
and the descriptor is completed with STATUS 0; a host destination is first followed by a read of the host, whose completion completes the
descriptor. Completing writes STATUS and OWN 0 at once, advances HEAD, counts, and goes on, is IDLE, or HALTS. In compatibility mode the
next burst begins once the gap has passed. -/
def Obligations.DmaMoves : Prop :=
  ∀ (s : State) (d : Fin 32) (c : Fin 2), s.canon = true → s.power.drainFor ≠ 3 →
    let st := fun (s : State) => s.fld (F.DMA_CH_STS_STATE.chan c.val) d.val
    let h := s.dmaHead d.val c.val
    let a := s.descAddr d.val c.val h
    let x := s.dma d.val c.val
    let fin := fun (t : State) (cfg : Word) (code : Nat) => t.bytes (a + 0x1E) 2 = [BitVec.ofNat 8 code, 0] ∧
      t.dmaHead d.val c.val = (h + 1) % 2 ^ 17 ∧ t.dma d.val c.val = { DmaCh.zero with tail := x.tail } ∧
      t.fld (F.DMA_CH_DESC_DONE.chan c.val) d.val =
        min (s.fld (F.DMA_CH_DESC_DONE.chan c.val) d.val + 1) F.DMA_CH_DESC_DONE.top ∧
      st t = (if code ≠ 0 ∧ F.DMA_CH_CFG_HALT_ERR.of cfg = 1 then 3 else if (h + 1) % 2 ^ 17 = x.tail then 1 else 2) ∧
      (code ≠ 0 → t.fld (F.DMA_CH_STS_LAST_ERR.chan c.val) d.val = code % 256 ∧ t.fld (F.DMA_CH_ERR_IDX.chan c.val) d.val = h)
    let only := fun (t : State) =>
      t = { s with mem := t.mem, poison := t.poison, snoopF := t.snoopF, regs := t.regs, ports := t.ports, dies := t.dies, out := t.out } ∧
      ∀ e, e ≠ d.val → DieSlices (s.die e) (t.die e)
    let read := fun (t : State) => { t with poison := s.poison, nvm := s.nvm, keeper := s.keeper, free := s.free }
    st s = 2 →
    (x.cur = none → s.pstate ≤ 1 → h ≠ x.tail → s.heldE a 32 = [] →
      let b := s.bytes a 32
      let cfg := s.dmaReg d.val c.val 0x18
      let code := s.dmaCheck d.val b cfg (s.poisoned a 32)
      (nbit (leAt b 0x1F 1) 0 = false → ∃ t, exec (.dmaDescriptor d c) s = .next t ∧ st t = 1 ∧
        ButSlices [regKey .dma d.val (0x120 + 128 * c.val)] s t) ∧
      (nbit (leAt b 0x1F 1) 0 = true → code ≠ 0 → ∃ t, exec (.dmaDescriptor d c) s = .next t ∧ fin t cfg code ∧
        BytesBut (a + 0x1E) 2 s t ∧ only (read t) ∧ (s.poison = [] → only t)) ∧
      (nbit (leAt b 0x1F 1) 0 = true → code = 0 → ∃ t, exec (.dmaDescriptor d c) s = .next t ∧ (t.dma d.val c.val).cur = some b ∧
        t.fld (F.DMA_CH_STS_BUSY.chan c.val) d.val = 1 ∧ st t = 2 ∧ t.mem = s.mem ∧ t.snoopF = s.snoopF ∧ only (read t) ∧
        (s.poison = [] → only t))) ∧
    (∀ b, x.cur = some b → x.ending = none →
      let u := descSide b 0
      let y := descSide b 1
      let n := descLen b
      let port := F.DMA_CH_CFG_PORT.of x.curCfg
      (∀ (status : BitVec 8) (moved : Nat) (host : List Byte), status ≠ 5 → status ≠ 6 → x.flushing = false →
        F.DMA_CH_CFG_MODE.of x.curCfg = 0 → u.space = 0 → u.fixed = false → s.poison = [] → s.heldE u.addr n = [] →
        (y.space = 0 → y.fixed = false → s.heldE y.addr n = [] → s.heldE (a + 0x1E) 2 = [] → y.addr + n ≤ a + 0x1E ∨ a + 0x20 ≤ y.addr →
          ∃ t, exec (.dmaTransferDone d c status moved host) s = .next t ∧ t.bytes y.addr n = s.bytes u.addr n ∧ fin t x.curCfg 0 ∧ only t ∧
            (∀ z, (z < y.addr ∨ y.addr + n ≤ z) → (z < a + 0x1E ∨ a + 0x20 ≤ z) → t.byte z = s.byte z)) ∧
        (y.space = 1 → ∃ t, exec (.dmaTransferDone d c status moved host) s = .next t ∧ (t.dma d.val c.val).flushing = true ∧
          (∃ r ∈ (t.port port).reads, r.flush = true ∧ r.ch = 2 * d.val + c.val) ∧ only t ∧ t.mem = s.mem ∧ t.snoopF = s.snoopF)) ∧
      (∀ (n : Fin 4) (tag : BitVec 16) (data : List Byte) (r : HostRead), (s.port n.val).reads.find? (fun z => z.tag == tag.toNat) = some r →
        r.flush = true → r.ch = 2 * d.val + c.val → s.heldE (a + 0x1E) 2 = [] → ∃ t, exec (.traisCpl n tag 0 data) s = .next t ∧
          fin t x.curCfg 0 ∧ only t ∧ BytesBut (a + 0x1E) 2 s t) ∧
      (F.DMA_CH_CFG_MODE.of x.curCfg = 1 → x.begun b < n →
        dmaGap x.curCfg (u.space == 1 || y.space == 1) (max 1 (s.lanes port)) ≤ 2 * (s.mile - x.issued).toNat →
        ∃ t, exec (.dmaBurstGap d c) s = .next t ∧ (t.dma d.val c.val).bursts = x.bursts + 1 ∧ (t.dma d.val c.val).issued = s.mile ∧
          (t.dma d.val c.val).cur = some b ∧ DiesBut [d.val] s t ∧
          t = { s with regs := t.regs, ports := t.ports, dies := t.dies, out := t.out }))

/-! ## The Keeper -/

/-- R449, R454: a watchdog expiry stops firmware, loses what its memory held, and is counted and logged; the third within an hour boots the
other slot if it passes and may be offered, else leaves the ROM waiting, as does one before firmware has run (log entry 198). When
firmware runs again it extends M1, and what the dies and the K-die held for it has been delivered; an activation goes on to its
confirmation. R452–R454: while the Keeper runs, a record is added to the log with the next SEQ and the power-on second, if NVM takes the
write (that it may not is free, log entry 65). While it does not run, a record of a unit of a Y-die is held on the die, up to 256, and
dropped and counted beyond. -/
def Obligations.KeeperAndLog : Prop :=
  (∀ s : State, s.canon = true → s.power.vaux = true →
    (let l := (s.keeper.bites.filter fun p => s.nvm.pos ≤ p + 3600) ++ [s.nvm.pos]
     let cur := s.fld F.KPR_STS_SLOT 0
     let ok := s.slotPasses (1 - cur) && s.nvm.upd.st != 1 && s.nvm.upd.st != 2
     let ran := s.flag F.SEC_STS_BOOT_DONE 0
     ∃ t, exec .keeperWatchdog s = .next t ∧ t.keeperUp = false ∧ t.debug = 0 ∧
      t.fld F.KPR_STS_STATE 0 = (if ran = false ∨ (3 ≤ l.length ∧ ok = false) then 2 else 0) ∧
      t.fld F.KPR_STS_SLOT 0 = (if ran = true ∧ 3 ≤ l.length ∧ ok = true then (1 - cur) % (F.KPR_STS_SLOT.top + 1) else cur) ∧
      t.keeper.bites = (if ran = false then s.keeper.bites else if l.length < 3 then l else []) ∧ t.keeper.staged = [] ∧ t.keeper.snaps = [] ∧ t.keeper.gather = [] ∧
      t.fld F.KPR_WDOG_BITES 0 = min (s.fld F.KPR_WDOG_BITES 0 + 1) F.KPR_WDOG_BITES.top ∧
      t.nvm = { s.nvm with upd := { s.nvm.upd with since := s.nvm.pos, st := t.nvm.upd.st } } ∧
      t = { s with regs := t.regs, nvm := t.nvm, keeper := t.keeper, sec := t.sec, free := t.free }) ∧
    (s.fld F.KPR_STS_STATE 0 = 0 → s.flag F.SEC_STS_BOOT_DONE 0 = true → s.keeper.haltedByTap = false →
      ∃ t, exec .keeperReturn s = .next t ∧ t.keeperUp = true ∧
        t.sec.m = s.sec.m.set 1 (Config.shake256 32 (s.sec.m.getD 1 [] ++
          Config.shake256 64 ((s.slot (s.fld F.KPR_STS_SLOT 0)).manifest.take 0x1880))) ∧
        t.keeper.kHold = [] ∧ (∀ d, d < 32 → (t.die d).logHold = [] ∧ (t.die d).chkHold = [] ∧ (t.die d).marchHeld = [] ∧ (t.die d).softUp = []) ∧
        t.nvm.upd.st = (if s.nvm.upd.st = 3 then 4 else s.nvm.upd.st) ∧
        ((∀ d, d < 32 → (s.die d).chkHold = [] ∧ (s.die d).chkDropped = 0 ∧ (s.die d).marchHeld = [] ∧ (s.die d).softUp = []) → t.cells = s.cells ∧ t.mem = s.mem))) ∧
  (∀ (s : State) (cls : Fin 13) (sev : Fin 5) (code : BitVec 16) (unit : Word32) (part : Fin 64) (job : BitVec 16) (h : Word32)
    (detail : List Byte), s.canon = true → cls ≠ 0 →
    let r : LogRec := ⟨0, cls.val, sev.val, code.toNat, unit, part.val, job.toNat, s.mile, 0, h, padTo 30 detail⟩
    let d := unit.toNat / 2 ^ 22 % 64
    ∃ t, exec (.logRecord cls sev code unit part job h detail) s = .next t ∧ ButReports [] s t ∧
      (s.keeperUp = true → Config.nvmFails s.free = 0 → t.nvm.logSeq = (s.nvm.logSeq + 1) % 2 ^ 32 ∧
        t.nvm.log.getLast? = some { r with seq := s.nvm.logSeq, pos := s.nvm.pos }) ∧
      (s.keeperUp = false → d < 32 → t.nvm = s.nvm ∧ DiesBut [d] s t ∧
        t.die d = (if (s.die d).logHold.length < 256 then { s.die d with logHold := (s.die d).logHold ++ [r] }
          else { s.die d with logDropped := (s.die d).logDropped + 1 })))

/-! ## Objects, the board and the monitor -/

/-- R455–R457, R468: an OP of the mailbox runs on the fields its command leaves and answers with its SEQ. READ from offset 0 takes a snapshot
and puts its bytes in the buffer. WRITE stages a piece of a test pack. COMMIT answers CODE 5 where nothing of the object is staged, and
installs a host NQN that its pieces spell before deployment, if NVM takes the write. INFO answers the size in KiB. WAKE in P3 begins the
wake where every sensor is below RESUME. That an OP completes within its command is the model's choice (log entry 54). R458: what the
board can set and read: the MCTP endpoint, the I3C address, a PLDM terminus and event receiver, and objects by the mailbox's OPs. The
command codes are presumed (log entry 55). -/
def Obligations.MailboxAndBoard : Prop :=
  (∀ (s : State) (src : Src) (v : Word), s.canon = true → s.takes src .kpr 0 0x200 = true → bitsOf v 0 0 = 1 →
    s.flag F.KPR_MBX_STS_BUSY 0 = false →
    let u := after (storeRW .kpr 0 0x200 v) s
    let obj := u.fld F.KPR_MBX_CMD_OBJ 0
    let off := s.fld F.KPR_MBX_ARG_OFFSET 0
    let len := s.fld F.KPR_MBX_ARG_LEN 0
    let ends := fun (t : State) (code : Nat) => t.fld F.KPR_MBX_STS_CODE 0 = code ∧
      t.fld F.KPR_MBX_STS_SEQ 0 = u.fld F.KPR_MBX_CMD_SEQ 0 % (F.KPR_MBX_STS_SEQ.top + 1) ∧
      t = { s with regs := t.regs, keeper := t.keeper, nvm := t.nvm, sec := t.sec, ports := t.ports, power := t.power, free := t.free,
                   out := t.out }
    (u.fld F.KPR_MBX_CMD_OP 0 = 1 → ∀ b, s.object (some src) obj = some b → off = 0 → 1 ≤ len → len ≤ 4096 → len ≤ b.length →
      ∃ t, exec (.mbxRead src v) s = .next t ∧ ends t 0 ∧ t.mbxBuf len = Machine.slice b 0 len ∧
        (s.reqNo (some src), obj, s.nvm.pos, b) ∈ t.keeper.snaps ∧ t.nvm = s.nvm) ∧
    (u.fld F.KPR_MBX_CMD_OP 0 = 2 → obj = 0x33 → 1 ≤ len → len ≤ 4096 → off + len ≤ 2 ^ 20 →
      ∃ t, exec (.mbxWrite src v) s = .next t ∧ ends t 0 ∧ t.nvm = s.nvm ∧
        t.keeper = { s.keeper with stagedObj := 0x33, staged := t.keeper.staged } ∧
        t.keeper.staged = (if s.keeper.stagedObj = 0x33 then s.keeper.staged else []) ++ [(off, padTo len (s.mbxBuf len))]) ∧
    (u.fld F.KPR_MBX_CMD_OP 0 = 3 →
      (s.keeper.stagedObj ≠ obj → obj = 0x33 → ∃ t, exec (.mbxCommit src v) s = .next t ∧ ends t 5 ∧ t.nvm = s.nvm ∧ t.keeper = s.keeper) ∧
      (∀ b, s.keeper.stagedObj = obj → obj = 0x32 → s.secState < 2 → assemble s.keeper.staged (stagedLen s.keeper.staged) = some b →
        ∃ t, exec (.mbxCommit src v) s = .next t ∧ t.keeper.staged = [] ∧ (Config.nvmFails s.free = 0 → ends t 0 ∧ t.nvm.hostNqn = b))) ∧
    (u.fld F.KPR_MBX_CMD_OP 0 = 4 → ∀ b, s.object (some src) obj = some b → ∃ t, exec (.mbxInfo src v) s = .next t ∧ ends t 0 ∧
      t.fld F.KPR_MBX_STS_LEN 0 = (b.length + 1023) / 1024 % (F.KPR_MBX_STS_LEN.top + 1) ∧ t.nvm = s.nvm ∧ t.keeper = s.keeper) ∧
    (u.fld F.KPR_MBX_CMD_OP 0 = 5 → s.pstate = 3 → (s.mayWake = true → ∃ t, exec (.mbxWake src v) s = .next t ∧ ends t 0 ∧
      t.power = { s.power with wake := true } ∧ t.flag F.PWR_STATE_BUSY 0 = true ∧ t.fld F.PWR_STATE_TARGET 0 = 0 ∧ t.nvm = s.nvm))) ∧
  (∀ s : State, s.canon = true →
    (∀ (e : Byte) (data : List Byte), s.mctpUp = true → 8 ≤ e.toNat → e.toNat ≠ 255 → data.getD 1 0 = e →
      ∃ t, exec (.mctpControl 1 data) s = .next t ∧ t.fld F.KPR_I3C_EID 0 = e.toNat ∧ t.out = s.out ++ [.mctp 1 0 [0, e, 0]] ∧
        RegsBut [regKey .kpr 0 F.KPR_I3C_EID.off] s t ∧ t = { s with regs := t.regs, out := t.out }) ∧
    (∀ data : List Byte, s.power.vaux = true → ∃ t, exec (.i3cCcc 0x87 data) s = .next t ∧
      t.fld F.KPR_I3C_DYN 0 = (data.getD 0 0).toNat / 2 ∧ t.out = s.out ++ [.i3c true []] ∧
      RegsBut [regKey .kpr 0 F.KPR_I3C_DYN.off] s t ∧ t = { s with regs := t.regs, out := t.out }) ∧
    (∀ (tid : Byte) (data : List Byte), s.mctpUp = true → tid ≠ 0 → tid ≠ 255 → ∃ t, exec (.pldmBase 1 (tid :: data)) s = .next t ∧
      t.keeper = { s.keeper with tid := tid.toNat } ∧ t = { s with keeper := t.keeper, out := t.out }) ∧
    (∀ data : List Byte, s.power.vaux = true → s.keeperUp = true → ∃ t, exec (.pldmPlatform 0x04 data) s = .next t ∧
      t.keeper = { s.keeper with evReceiver := (data.getD 2 0).toNat } ∧ t = { s with keeper := t.keeper, out := t.out }) ∧
    (∀ (obj : BitVec 16) (len : BitVec 13) (data b : List Byte), s.power.vaux = true → s.keeperUp = true → s.object none obj.toNat = some b →
      1 ≤ len.toNat → len.toNat ≤ 1024 → len.toNat ≤ b.length → ∃ t, exec (.pldmOem 1 obj 0 len data) s = .next t ∧
        t.out = s.out ++ [.pldm 63 1 0 (Machine.slice b 0 len.toNat)] ∧ t.keeper = { s.keeper with snaps := t.keeper.snaps } ∧
        t = { s with keeper := t.keeper, out := t.out }))

/-- R459–R463, R467: EN starts the converter with its start-up delay, and stops it. After the delay the first conversion begins. A
conversion's result, scaled and clamped to 24 bits, enters its channel's register with its count and the FIFO, which drops what comes when
full. A delay's end goes on to the next entry. An injected trigger, of software or of an enabled cause, aborts a regular conversion for
the injected list. A read of the FIFO takes its oldest result. -/
def Obligations.Monitoring : Prop :=
  ∀ s : State, s.canon = true →
    let sts := [regKey .mon 0 0x100, regKey .mon 0 0x110]
    let next := fun (t : State) => t.mon.phase = (if t.monTable = true ∧ t.mon.inj = none ∧ 24 ≤ t.monCh then 3 else 2)
    let ready := s.monTable = false ∧ s.monInj ≠ 0 ∧ 2 ≤ s.mon.phase ∧ s.mon.inj = none
    let begun := fun (t : State) => t.mon.inj = some 0 ∧ next t ∧
      t.fld F.MON_STS_ABORTS 0 = min (s.fld F.MON_STS_ABORTS 0 + 1) F.MON_STS_ABORTS.top ∧ RegsBut sts s t ∧
      t = { s with regs := t.regs, mon := t.mon }
    (∀ (src : Src) (v : Word), s.takes src .mon 0 0x100 = true →
      (F.MON_CTL_INJ_SW.of v = 0 → ∃ t, exec (.monEnable src v) s = .next t ∧ t.fld F.MON_CTL_EN 0 = F.MON_CTL_EN.of v ∧
        t.mon = (if F.MON_CTL_EN.of v = s.fld F.MON_CTL_EN 0 then s.mon
          else { Mon.zero with fifo := s.mon.fifo, phase := F.MON_CTL_EN.of v }) ∧ RegsBut sts s t ∧
        t = { s with regs := t.regs, mon := t.mon }) ∧
      (F.MON_CTL_INJ_SW.of v = 1 → F.MON_CTL_EN.of v = s.fld F.MON_CTL_EN 0 → ready →
        ∃ t, exec (.injSw src v) s = .next t ∧ begun t)) ∧
    (∀ cause : Fin 3, (cause = 0 → s.flag F.MON_INJ_THERMAL 0 = true) → (cause = 1 → s.flag F.MON_INJ_OVERCUR 0 = true) → ready →
      ∃ t, exec (.monInjectedTrigger cause) s = .next t ∧ begun t) ∧
    (s.mon.phase = 1 → ∃ t, exec .monStartupDone s = .next t ∧ next t ∧ t.mon.pos = s.mon.pos ∧ t.mon.fifo = s.mon.fifo ∧
      t.flag F.MON_STS_START 0 = false ∧ RegsBut sts s t ∧ t = { s with regs := t.regs, mon := t.mon }) ∧
    (s.mon.phase = 3 → ∃ t, exec .monDelayExpiry s = .next t ∧ t.mon.pos = (s.mon.pos + 1) % s.monTbl ∧ t.mon.rep = 0 ∧
      (if s.mon.pd = true then t.mon.phase = 1 else next t) ∧ t.mon.fifo = s.mon.fifo ∧ RegsBut sts s t ∧
      t = { s with regs := t.regs, mon := t.mon }) ∧
    (∀ x : Int, s.mon.phase = 2 → s.monCh < 24 → ∃ t, exec (.monConversionDone x) s = .next t ∧
      let r := clampI (roundDiv (x * 2 ^ 23) 1250000000) (-(2 ^ 23)) (2 ^ 23 - 1)
      t.fld (F.MON_RES_VALID.nth s.monCh) 0 = 1 ∧ t.fld (F.MON_RES_RESULT.nth s.monCh) 0 = tc 24 r ∧
      t.fld (F.MON_RES_COUNT.nth s.monCh) 0 = (s.fld (F.MON_RES_COUNT.nth s.monCh) 0 + 1) % 2 ^ 24 ∧
      (s.mon.fifo.length < 64 → ∃ w, t.mon.fifo = s.mon.fifo ++ [w] ∧ F.MON_FIFO_RESULT.of w = tc 24 r ∧ F.MON_FIFO_CH.of w = s.monCh) ∧
      (64 ≤ s.mon.fifo.length → t.mon.fifo = s.mon.fifo ∧
        t.fld F.MON_FIFO_STS_DROPPED 0 = min (s.fld F.MON_FIFO_STS_DROPPED 0 + 1) F.MON_FIFO_STS_DROPPED.top) ∧
      ((2 ≤ s.mon.phase ∧ s.monTable = false ∧ s.mon.inj = none) → t.mon.pos = (s.mon.pos + 1) % s.monReg) ∧
      t = { s with regs := t.regs, mon := t.mon, nvm := t.nvm, keeper := t.keeper, ports := t.ports, free := t.free, out := t.out }) ∧
    (∀ src : Src, s.keeperUp = true → ∃ t, exec (.monFifoRead src) s = .next t ∧ t.mon = { s.mon with fifo := s.mon.fifo.tail } ∧
      t.out = s.out ++ [.monFifo ((s.mon.fifo.head?).getD 0)] ∧
      t.fld F.MON_FIFO_STS_LEVEL 0 = s.mon.fifo.tail.length % (F.MON_FIFO_STS_LEVEL.top + 1) ∧
      RegsBut [regKey .mon 0 F.MON_FIFO_STS_LEVEL.off] s t ∧ t = { s with regs := t.regs, mon := t.mon, out := t.out })

/-! ## Temperature, power and power states -/

/-- R474–R477: each tick the governor sets B′, every die's allotment and its share under the throttle factor, and charges begin anew; the part
is in P1 exactly while B′ is below B. An overcurrent trip zeroes every credit, halves B′ and is counted; when its hold, PWR_OC.HOLD µs
after the last trip, ends B′ begins its return. The PWRCAP_N land shows, and bears on B′. -/
def Obligations.PowerGovernor : Prop :=
  ∀ s : State, s.canon = true →
    let p1 := fun (t : State) => t.power.bPrime = t.budgetNow ∧
      (s.power.rails = true → s.pstate ≤ 1 → t.pstate = (if t.power.bPrime < t.budget then 1 else 0))
    (∀ demand : List Nat, s.power.rails = true → ∃ t, exec (.governorTick demand) s = .next t ∧ p1 t ∧
      t.power.ramp = s.power.ramp - 1 ∧
      (∀ d, d < 32 → t.fld (F.PWR_DIE_ALLOT.nth d) 0 = allot t.power.bPrime demand d % (F.PWR_DIE_ALLOT.top + 1) ∧
        t.fld (F.PWR_DIE_EFF.nth d) 0 =
          allot t.power.bPrime demand d * s.fld (F.THM_DIE_FACTOR.nth d) 0 / 256 % (F.PWR_DIE_EFF.top + 1) ∧
        t.die d = { s.die d with used := 0 }) ∧ t = { s with regs := t.regs, power := t.power, dies := t.dies }) ∧
    (∀ current : BitVec 16, s.power.rails = true → s.fld F.PWR_OC_LIMIT 0 < current.toNat →
      ∃ t, exec (.overcurrentTrip current) s = .next t ∧ p1 t ∧ t.flag F.PWR_P1_OC 0 = true ∧ t.power.bPrime = s.budgetNoHold / 2 ∧ t.power.ocAt = s.mile ∧
        t.fld F.PWR_OC_TRIPS 0 = min (s.fld F.PWR_OC_TRIPS 0 + 1) F.PWR_OC_TRIPS.top ∧
        (∀ d, d < 32 → t.die d = { s.die d with credit := 0 }) ∧
        t = { s with regs := t.regs, power := t.power, dies := t.dies, nvm := t.nvm, keeper := t.keeper, mon := t.mon, ports := t.ports,
                     free := t.free, out := t.out }) ∧
    (s.flag F.PWR_P1_OC 0 = true → 1000 * s.fld F.PWR_OC_HOLD 0 ≤ (s.mile - s.power.ocAt).toNat → ∃ t, exec .overcurrentHoldEnd s = .next t ∧ p1 t ∧ t.flag F.PWR_P1_OC 0 = false ∧
      t.power.ramp = 100 ∧ t = { s with regs := t.regs, power := t.power }) ∧
    (∀ low : Bool, s.power.vaux = true → ∃ t, exec (.pwrcapChange low) s = .next t ∧ p1 t ∧ t.flag F.PWR_P1_PIN 0 = low ∧
      RegsBut [regKey .pwr 0 F.PWR_P1_PIN.off, regKey .pwr 0 F.PWR_STATE_STATE.off] s t ∧ t = { s with regs := t.regs, power := t.power })

/-- R101, R478–R481, R541, R543: a stop comparator parks its die's arrays and begins an orderly stop, which aborts every fabric job; at its
drain's end, 20 ms later or with no step left, every open passage is FAULTED with THERMAL_STOP and every array parked (one whose operation
runs at the stop parks at its end), and a running Keeper then takes the rails off. A cut comparator takes them off at once and drives
THERMTRIP_N; low input voltage does so with CODE 6, a lost reference and the loss of the auxiliary supply too. With the rails off the part
is in P3 and links and ports are down, passages and stack memory are gone, and every array keeps its cells. -/
def Obligations.StopsAndLosses : Prop :=
  ∀ s : State, s.canon = true →
    let parked := fun (t : State) (x : TileId) => t.arrState x = 5 ∨ (s.arrState x = 4 ∧ t.arrState x = 4)
    let idle := ∀ d, d < 32 → (s.die d).progNow = []
    let off := fun (t : State) => t.power.rails = false ∧ t.pstate = 3 ∧ t.passages = [] ∧ t.mem = [] ∧ t.cells = s.cells ∧
      (∀ n, n < 4 → t.fld F.TRL_LNK_STS_STATE n = 0) ∧ (∀ n, n < 12 → t.fld F.BFP_LNK_STS_STATE n = 0) ∧
      t.nvm.sansLog = { s.nvm.sansLog with tsum := t.nvm.tsum, uhist := t.nvm.uhist } ∧ (idle → t.nvm.sansLog = s.nvm.sansLog)
    (∀ (unit : Fin 49) (sns : Fin 16), s.power.rails = true → snsExists unit.val sns.val = true →
      ∃ t, exec (.thermalStop unit sns) s = .next t ∧ (∀ d, snsDie unit.val = some d → ∀ x : TileId, x.d.val = d →
          if s.arrBusy x = true then (t.die d).parked = true else parked t x) ∧
        t.power.drainFor = 2 ∧ t.mem = s.mem ∧ t.cells = s.cells ∧ t.passages = s.passages ∧
        (s.power.drainFor ≠ 2 → t.power.due = s.mile + 20000000 ∧ (∀ j ∈ s.fabricJobs, j ∈ t.aborted) ∧ t.flag F.PWR_STATE_BUSY 0 = true ∧
          t.fld F.THM_STS_SRC_UNIT 0 = unit.val ∧ t.fld F.THM_STS_SRC_SNS 0 = sns.val)) ∧
    (s.power.drainFor = 2 → s.power.parked = false → s.inFlight = false ∨ s.power.due ≤ s.mile → ∃ t, exec .stopDrainEnd s = .next t ∧ t.power.parked = true ∧ t.power.gated = true ∧
      (∀ i ∈ s.live, (s.passage i).open_ = true → (s.passage i).guest = false → t.faulted i 0x0B) ∧ (∀ x : TileId, parked t x) ∧ t.cells = s.cells) ∧
    (s.power.parked = true → s.keeperUp = true → ∃ t, exec .stopRailsOff s = .next t ∧ off t ∧ t.flag F.THM_STS_STOP 0 = true ∧
      t.fld F.THM_CNT_STOPS 0 = min (s.fld F.THM_CNT_STOPS 0 + 1) F.THM_CNT_STOPS.top) ∧
    (∀ (unit : Fin 49) (sns : Fin 16), s.power.vaux = true → snsExists unit.val sns.val = true →
      ∃ t, exec (.hardwareCut unit sns) s = .next t ∧ off t ∧ t.power.thermtrip = true ∧ .thermtrip true ∈ t.out ∧
        t.flag F.THM_STS_CUT 0 = true ∧ t.fld F.THM_CNT_CUTS 0 = min (s.fld F.THM_CNT_CUTS 0 + 1) F.THM_CNT_CUTS.top) ∧
    (∀ v : BitVec 16, s.power.rails = true → ∃ t, exec (.undervoltage v) s = .next t ∧ off t ∧ t.fld F.PWR_STATE_CODE 0 = 6 ∧
      t.power.thermtrip = s.power.thermtrip) ∧
    (s.power.rails = true → ∃ t, exec .refclkLoss s = .next t ∧ off t ∧ t.power.thermtrip = s.power.thermtrip) ∧
    (∃ t, exec .vauxRemoval s = .next t ∧ off t ∧ t.power.vaux = false ∧ t.keeperUp = false ∧ t.keeper = Keeper.zero ∧ t.mon = Mon.zero ∧
      (idle → t.nvm = s.nvm))

/-- R482, R483: in P2 a request for P0 lets clocks run and ends in P0 or P1. In P0 or P1 a request for P2 begins a drain, which starts no
step; at its end, steps and descriptors done, the part is in P2 with clocks gated, and with a step left after DRAIN ms the entry is given
up with CODE 2. Steps that the drain or the gated clocks held up then start (resumeSteps). A request for P3 takes the rails off where no
image is loaded, else it ends with CODE 3. WAKE_N begins a wake from P3 where every sensor is cool enough, else CODE is 4. -/
def Obligations.PowerStates : Prop :=
  ∀ (s : State) (src : Src) (v : Word), s.canon = true →
    let asks := s.takes src .pwr 0 0x108 = true ∧ F.PWR_CMD_GO.of v = 1 ∧ s.flag F.PWR_STATE_BUSY 0 = false
    let regs := [regKey .pwr 0 0x108, regKey .pwr 0 F.PWR_STATE_STATE.off]
    (asks → F.PWR_CMD_REQ.of v = 0 → s.pstate = 2 → ∃ t, exec (.powerReqP0 src v) s = .next (after resumeSteps t) ∧ t.power.gated = false ∧ t.pstate ≤ 1 ∧
      t.fld F.PWR_STATE_CODE 0 = 0 ∧ RegsBut (regKey .pwr 0 F.PWR_P1_HOST.off :: regs) s t ∧ t = { s with regs := t.regs, power := t.power }) ∧
    (asks → F.PWR_CMD_REQ.of v = 2 → s.pstate ≤ 1 → ∃ t, exec (.powerReqP2 src v) s = .next t ∧
      t.power = { s.power with drainFor := 1, due := s.mile + BitVec.ofNat 64 (1000000 * max 1 (F.PWR_CMD_DRAIN.of v)) } ∧ t.flag F.PWR_STATE_BUSY 0 = true ∧ t.fld F.PWR_STATE_TARGET 0 = 2 ∧
      RegsBut regs s t ∧ t = { s with regs := t.regs, power := t.power }) ∧
    (asks → F.PWR_CMD_REQ.of v = 3 → s.pstate ≠ 3 →
      ((∀ d, d < 32 → s.fld F.BIL_IMG_STS_STATE d = 0) → ∃ t, exec (.powerReqP3 src v) s = .next t ∧ t.power.rails = false ∧ t.pstate = 3 ∧
        t.fld F.PWR_STATE_CODE 0 = 0 ∧ t.cells = s.cells ∧ ((∀ d, d < 32 → (s.die d).progNow = []) → t.nvm = s.nvm)) ∧
      (∀ d, d < 32 → s.fld F.BIL_IMG_STS_STATE d ≠ 0 → ∃ t, exec (.powerReqP3 src v) s = .next t ∧ t.fld F.PWR_STATE_CODE 0 = 3 ∧
        t.pstate = s.pstate ∧ RegsBut regs s t ∧ t = { s with regs := t.regs })) ∧
    (∀ drained : Bool, s.power.drainFor = 1 →
      (drained = true → s.inFlight = false → (∀ d, d < 32 → (s.dma d 0).cur = none ∧ (s.dma d 1).cur = none) → s.power.rails = true →
        ∃ t, exec (.p2DrainEnd drained) s = .next t ∧ t.pstate = 2 ∧ t.power = { s.power with drainFor := 0, gated := true } ∧
          t.flag F.PWR_STATE_BUSY 0 = false ∧ t.mem = s.mem ∧ t.cells = s.cells ∧ t.passages = s.passages) ∧
      (drained = false ∨ s.inFlight = true → s.power.due ≤ s.mile → ∃ t, exec (.p2DrainEnd drained) s = .next (after resumeSteps t) ∧ t.fld F.PWR_STATE_CODE 0 = 2 ∧
        t.flag F.PWR_STATE_BUSY 0 = false ∧ t.power = { s.power with drainFor := 0 } ∧ RegsBut regs s t ∧
        t = { s with regs := t.regs, power := t.power })) ∧
    (s.pstate = 3 → s.power.vaux = true → s.power.wake = false → ∃ t, exec .wakePin s = .next t ∧
      t.power = { s.power with wake := s.mayWake } ∧ t.fld F.PWR_STATE_CODE 0 = (if s.mayWake then 0 else 4) ∧
      (s.mayWake = true → t.flag F.PWR_STATE_BUSY 0 = true ∧ t.fld F.PWR_STATE_TARGET 0 = 0) ∧ RegsBut regs s t ∧
      t = { s with regs := t.regs, power := t.power })

/-! ## Security -/

/-- R497, R498: a staging record is checked in the manual's order, and the code of the first check that fails is all a bad one leaves. A sound
one takes effect, if NVM takes the write: a partition table or a configuration list is staged for the next boot; DEPLOY stores the owner's
key and deploys the part; DECOMMISSION wipes every usable array and forgets the owner; PROVISION stores the certificate. -/
def Obligations.StagingRecords : Prop :=
  ∀ (s : State) (src : Src) (v : Word), s.canon = true → s.takes src .sec 0 0x1B0 = true → F.SEC_STAGE_CMD_GO.of v = 1 →
    let kind := F.SEC_STAGE_CMD_KIND.of v
    let p := (s.srcPart src).getD s.mgmt
    let a := s.fld F.SEC_STAGE_ADDR_ADDR 0 * 64
    let signed := kind == 4 || (kind ≤ 2 && s.secState == 2)
    let r := s.stageRec a signed
    let c := s.stageCheck p a kind r signed
    let ends := fun (i : Instr) (took : State → Prop) => ∃ t, exec i s = .next t ∧
      (c ≠ 0 → t.fld F.SEC_STAGE_STS_CODE 0 = c ∧ ButSlices [regKey .sec 0 0x1B8] s t) ∧
      (c = 0 → Config.nvmFails s.free = 0 → t.fld F.SEC_STAGE_STS_CODE 0 = 0 ∧ took t ∧
        (∀ d, DieSlices (s.die d) (t.die d)) ∧ (kind ≠ 4 → t.keeper = s.keeper ∧ t.ports = s.ports ∧ t.out = s.out) ∧
        t = { s with regs := t.regs, nvm := t.nvm, cells := t.cells, sec := t.sec, free := t.free, dies := t.dies, keeper := t.keeper,
                     ports := t.ports, out := t.out })
    s.heldE a r.len = [] → s.poison = [] →
    (kind = 1 → ends (.stagePtab src v) fun t => t.nvm = { s.nvm with ptabStaged := some r.body } ∧ t.cells = s.cells) ∧
    (kind = 2 → ends (.stageCfg src v) fun t =>
      t.nvm = { s.nvm with cfgStaged := some (leAt r.body 0 4, cfgEntries r.body) } ∧ t.cells = s.cells) ∧
    (kind = 3 → ends (.stageDeploy src v) fun t => t.nvm = { s.nvm with ownerKey := r.body, secState := 2 } ∧ t.secState = 2 ∧
      t.debug = 0 ∧ t.cells = s.cells) ∧
    (kind = 4 → ends (.stageDecommission src v) fun t => (∀ x : TileId, s.usable x = true → t.cell x = Cells.erased) ∧
      (∀ x : TileId, s.usable x = false → t.cell x = s.cell x) ∧ t.nvm.ownerKey = [] ∧ t.nvm.retain = [] ∧ t.nvm.secState = 1 ∧
      t.secState = 1 ∧ t.debug = 0) ∧
    (kind = 5 → ends (.stageProvision src v) fun t => t.nvm = { s.nvm with cert := r.body, secState := 1 } ∧ t.cells = s.cells)

/-- R499–R504: an attestation writes the report of the requester's partition over the area it names. A token presented is checked, and the
nonce changes whether or not it passes; one that passes opens its scope to the port for its time. REVOKE and the time's end close it; OPEN
opens a part in its first state to the management partition alone. A test access instruction is granted where the state of the part allows
it: a boundary test stays in force, and a halt stops the Keeper. -/
def Obligations.AttestationAndDebug : Prop :=
  ∀ (s : State) (v : Word), s.canon = true →
    (∀ src : Src, s.takes src .sec 0 0x198 = true → F.SEC_ATT_CMD_GO.of v = 1 →
      let a := s.fld F.SEC_ATT_ADDR_ADDR 0 * 64
      let p := (s.srcPart src).getD 0x3F
      p ≠ 0x3F → s.owns p a 4896 = true → s.flag F.SEC_STS_ID_FAIL 0 = false → s.secState ≠ 3 → s.heldE a 4896 = [] →
      ∃ t, exec (.attest src v) s = .next t ∧ t.bytes a 4896 = s.attReport p (s.bytes (a + 0x40) 32) ∧
        t.fld F.SEC_ATT_STS_CODE 0 = 0 ∧ BytesBut a 4896 s t ∧
        (∀ d, DieSlices (s.die d) (t.die d)) ∧ t = { s with dies := t.dies, mem := t.mem, poison := t.poison, snoopF := t.snoopF, regs := t.regs, ports := t.ports, out := t.out }) ∧
    (∀ src : Src, s.takes src .sec 0 0x180 = true → F.SEC_DBG_CMD_GO.of v = 1 →
      let kept := fun (t : State) => t = { s with regs := t.regs, sec := t.sec } ∧
        RegsBut [regKey .sec 0 0x100, regKey .sec 0 0x188] s t
      (∀ n : Fin 4, F.SEC_DBG_CMD_OP.of v = 1 → src = .port n →
        let a := s.fld F.SEC_DBG_ADDR_ADDR 0 * 64
        let c := s.tokenCheck (s.portPart n.val) a
        s.heldE a (0x82 + s.num (a + 0x80) 2) = [] → s.poison = [] → ∃ t, exec (.present src v) s = .next t ∧ t.fld F.SEC_DBG_STS_CODE 0 = c ∧ t.sec.nonceNo = s.sec.nonceNo + 1 ∧
          (c = 0 → t.debug = 1 ∧ t.fld F.SEC_STS_SCOPE 0 = s.num (a + 6) 1 ∧ t.fld F.SEC_STS_DBG_PORT 0 = n.val ∧
            t.sec.tokenEnds = s.nvm.pos + s.num (a + 8) 4) ∧ (c ≠ 0 → t.debug = s.debug) ∧
          ButSlices [regKey .sec 0 0x100, regKey .sec 0 0x188] s { t with sec := s.sec }) ∧
      (F.SEC_DBG_CMD_OP.of v = 2 → ∃ t, exec (.revoke src v) s = .next t ∧ t.debug = 0 ∧ t.fld F.SEC_STS_SCOPE 0 = 0 ∧
        t.fld F.SEC_DBG_STS_CODE 0 = 0 ∧ kept t) ∧
      (F.SEC_DBG_CMD_OP.of v = 3 → ∃ t, exec (.newNonce src v) s = .next t ∧ t.sec = { s.sec with nonceNo := s.sec.nonceNo + 1 } ∧
        t.fld F.SEC_DBG_STS_CODE 0 = 0 ∧ t.debug = s.debug ∧ kept t) ∧
      (F.SEC_DBG_CMD_OP.of v = 4 → ∃ t, exec (.debugOpen src v) s = .next t ∧ kept t ∧
        (if s.srcPart src = some s.mgmt ∧ s.secState = 0 then t.debug = 2 ∧ t.fld F.SEC_DBG_STS_CODE 0 = 0
         else t.debug = s.debug ∧ t.fld F.SEC_DBG_STS_CODE 0 = 3))) ∧
    (s.debug = 1 → s.sec.tokenEnds ≤ s.nvm.pos → ∃ t, exec .tokenExpiry s = .next t ∧ t.debug = 0 ∧ t.fld F.SEC_DBG_STS_LEFT 0 = 0 ∧
      RegsBut [regKey .sec 0 0x100, regKey .sec 0 0x188] s t ∧ t = { s with regs := t.regs, sec := t.sec }) ∧
    (∀ k : Fin 9, s.power.vaux = true → ∃ t, exec (.tapInstruction k) s = .next t ∧ t.out = s.out ++ [.tap k.val (s.tapOk k.val)] ∧
      t.sec = { s.sec with tap := if s.tapOk k.val = true ∧ 3 ≤ k.val ∧ k.val ≤ 5 then k.val else 0 } ∧
      t.keeper.haltedByTap = (s.keeper.haltedByTap || (s.tapOk k.val && k.val == 6)) ∧
      t.keeper = { s.keeper with haltedByTap := t.keeper.haltedByTap } ∧ t = { s with sec := t.sec, keeper := t.keeper, out := t.out })

/-! ## Firmware update -/

/-- R511–R517, R519: bytes of the manifest are gathered from the one source that holds the transfer, and the other source is refused with CODE
7. CANCEL clears the transfer but while it is activating. ACTIVATE of a whole transfer, whose manifest and blocks still hold, makes it the
next slot's and resets the Keeper into it; without one CODE is 9. A confirmation, asked for or by time, raises the anti-rollback counter
to the running version, and RECOVER is kept for the next boot, each if NVM takes the write. -/
def Obligations.FirmwareUpdate : Prop :=
  ∀ (s : State) (src : Src) (v : Word), s.canon = true →
    let u := s.nvm.upd
    let cmd := fun (op : Nat) => s.takes src .upd 0 0x130 = true ∧ F.UPD_CMD_GO.of v = 1 ∧ F.UPD_CMD_OP.of v = op
    let took := fun (t : State) (trais : Bool) (off : Nat) (bs : List Byte) =>
      t.keeper = { s.keeper with gather := s.keeper.gather ++ [(off, bs)] } ∧ t.fld F.UPD_STS_CODE 0 = 0 ∧
      t.nvm = { s.nvm with upd := { u with trais := trais, fixed := true } } ∧ RegsBut [regKey .upd 0 0x100] s t ∧
      t = { s with regs := t.regs, keeper := t.keeper, nvm := t.nvm, out := t.out }
    let room := fun (off : Nat) (bs : List Byte) => bs ≠ [] ∧ off + bs.length ≤ 8192 ∧
      State.gathered1 { s with keeper := { s.keeper with gather := s.keeper.gather ++ [(off, bs)] } } 0 8192 = none
    let cancelled := fun (t : State) => t.keeper = { s.keeper with gather := [] } ∧ t.fld F.UPD_STS_CODE 0 = 0 ∧
      t.nvm = { s.nvm with upd := (if u.st = 1 ∨ u.st = 2 then { Update.zero with since := u.since } else u) } ∧
      RegsBut [regKey .upd 0 0x100] s t ∧ t = { s with regs := t.regs, keeper := t.keeper, nvm := t.nvm, out := t.out }
    let activated := fun (t : State) => t.cells = s.cells ∧ t.mem = s.mem ∧
      (u.st ≠ 2 → t.fld F.UPD_STS_CODE 0 = 9 ∧ t.nvm = s.nvm) ∧
      (u.st = 2 → manSigned u.manifest = true → s.badBlock = none → s.secState ≠ 3 → s.flag F.SEC_STS_BOOT_DONE 0 = true →
        Config.nvmFails s.free = 0 → t.keeperUp = false ∧ t.nvm.upd.st = 3 ∧
        t.nvm.next = s.updTarget ∧ (t.slot s.updTarget).manifest = u.manifest ∧ t.fld F.KPR_STS_SLOT 0 = s.updTarget)
    let confirmed := fun (t : State) => Config.nvmFails s.free = 0 → t.nvm = { s.nvm with
        arb := max s.nvm.arb (manSvn (s.slot (s.fld F.KPR_STS_SLOT 0)).manifest), upd := { u with st := 0 } } ∧
      t = { s with regs := t.regs, nvm := t.nvm, free := t.free }
    (cmd 1 →
      let off := s.fld F.UPD_ARG_OFFSET 0
      let bs := s.updBuf (max 1 (min 4096 (s.fld F.UPD_ARG_LEN 0)))
      (s.updFixed = true → u.trais = false → ∃ t, exec (.piece src v) s = .next t ∧ t.fld F.UPD_STS_CODE 0 = 7 ∧
        RegsBut [regKey .upd 0 0x100] s t ∧ t = { s with regs := t.regs }) ∧
      (s.updFixed = false ∨ u.trais = true → room off bs → ∃ t, exec (.piece src v) s = .next t ∧ took t true off bs)) ∧
    (∀ (off : Word32) (data : List Byte), s.mctpUp = true → s.updFixed = false ∨ u.trais = false → room off.toNat data →
      ∃ t, exec (.pldmFirmwareData off data) s = .next t ∧ took t false off.toNat data) ∧
    (s.mctpUp = true → s.updFixed = false ∨ u.trais = false → ∃ t, exec .pldmRequestUpdate s = .next t ∧ .pldm 5 0x10 0 [] ∈ t.out ∧
      (u.st = 1 → t.fld F.UPD_CNT_RESUMES 0 = min (s.fld F.UPD_CNT_RESUMES 0 + 1) F.UPD_CNT_RESUMES.top) ∧
      RegsBut [regKey .upd 0 F.UPD_CNT_RESUMES.off] s t ∧ t = { s with regs := t.regs, out := t.out }) ∧
    (u.st ≠ 3 → (cmd 3 → ∃ t, exec (.cancelUpdate src v) s = .next t ∧ cancelled t) ∧
      (s.mctpUp = true → ∃ t, exec .pldmCancelUpdate s = .next t ∧ cancelled t)) ∧
    (cmd 2 → ∃ t, exec (.activate src v) s = .next t ∧ activated t) ∧
    (s.mctpUp = true → ∃ t, exec .pldmActivateFirmware s = .next t ∧ activated t) ∧
    (u.st = 4 → (cmd 4 → ∃ t, exec (.confirm src v) s = .next t ∧ confirmed t) ∧
      (s.keeperUp = true → s.fld F.UPD_CFG_CONFIRM_S 0 ≠ 0 → u.since + s.fld F.UPD_CFG_CONFIRM_S 0 ≤ s.nvm.pos →
        ∃ t, exec .confirmExpiry s = .next t ∧ confirmed t)) ∧
    (cmd 5 → ∃ t, exec (.recover src v) s = .next t ∧ t.cells = s.cells ∧
      (Config.nvmFails s.free = 0 → t.nvm = { s.nvm with recover := true } ∧ t = { s with nvm := t.nvm, free := t.free }))

/-! ## Reset and bring-up -/

/-- R101, R170, R444, R522, R523, R525, R547: a cold reset leaves the part in P3 with every array's cells, no memory, passage or image, and
its cause; with RECOV_N low the ROM waits in RECOVERY. A warm reset keeps the stacks, the wake from P3 does not. A partition reset ends
that partition's passages, rings, channels and image, and no other's passages. Bring-up enables the rails where input and sensors allow,
and READY ends it in P0 or P1. -/
def Obligations.ResetsAndBringUp : Prop :=
  ∀ s : State, s.canon = true →
    let warm := fun (t : State) => t.power.wake = true ∧ t.power.gated = true ∧ t.passages = [] ∧ t.jobs = [] ∧ t.cells = s.cells ∧
      t.fld F.KPR_BOOT_STAGE 0 = 1 ∧ t.flag F.PWR_STATE_BUSY 0 = true
    (∀ (src : Option Src) (v : Word) (recovLow : Bool) (straps : Fin 8) (idOk : Bool),
      ∃ t, exec (.coldReset src 1 v recovLow straps idOk) s = .next t ∧ t.power.rails = false ∧ t.pstate = 3 ∧ t.mem = [] ∧
        t.passages = [] ∧ t.jobs = [] ∧ t.cells = s.cells ∧ t.mile = 0 ∧ t.nvm.ownerKey = s.nvm.ownerKey ∧
        t.fld F.KPR_BOOT_CAUSE 0 = 1 ∧ (recovLow = true → t.secState = 3 ∧ t.fld F.KPR_STS_STATE 0 = 2) ∧
        (s.nvm.cfgStaged = none → ∀ i off, i < 1048576 → off < 65536 → t.reg .chk i off = regReset .chk off)) ∧
    (∀ (src : Src) (v : Word), s.takes src .kpr 0 0x400 = true → F.KPR_RST_KEY.of v = 0xA5 → F.KPR_RST_OP.of v = 2 →
      s.power.rails = true → (∀ d c, (s.dma d c).cur = none) → ∃ t, exec (.warmReset (some src) v) s = .next t ∧ warm t ∧
        t.power.rails = true ∧ t.fld F.KPR_BOOT_CAUSE 0 = 4 ∧ (∀ a, a < 0x018000000000 → t.byte a = s.byte a)) ∧
    (∀ v : Word, s.power.wake = true → s.power.rails = false → s.fld F.KPR_BOOT_STAGE 0 ≠ 1 → s.keeperUp = true →
      ∃ t, exec (.warmReset none v) s = .next t ∧ warm t ∧ t.mem = [] ∧ t.fld F.KPR_BOOT_CAUSE 0 = 5) ∧
    (∀ (src : Src) (d : Fin 32) (v : Word), s.takes src .sch d.val 0x400 = true → F.SCH_PRST_GO.of v = 1 → s.part d.val < 16 →
      ∃ t, exec (.partitionReset src d v) s = .next t ∧
        (∀ i, t.passage i = if (s.passage i).part = s.part d.val then Passage.zero else s.passage i) ∧
        t.job (s.part d.val) = Job.zero ∧ t.mem = s.mem ∧ t.cells = s.cells ∧
        (∀ e ∈ s.partDies (s.part d.val), t.fld F.BIL_IMG_STS_STATE e = 0 ∧ t.fld F.PAS_ARING_BASE_EN e = 0 ∧
          t.fld F.PAS_CRING_BASE_EN e = 0 ∧ t.fld (F.DMA_CH_STS_STATE.chan 0) e = 0 ∧ t.fld (F.DMA_CH_STS_STATE.chan 1) e = 0)) ∧
    (∀ test : SelfTest, s.keeperUp = true →
      (s.fld F.KPR_BOOT_STAGE 0 = 1 → s.cool = true → s.flag F.KPR_BOOT_AUTOWAKE 0 = true ∨ s.power.wake = true → test.railsGood = true →
        test.pllLock = true → ∃ t, exec (.bringupRailsEnable true test) s = .next t ∧ t.power.rails = true ∧
          t.fld F.KPR_BOOT_STAGE 0 = 3 ∧ (∀ n, n < 4 → t.fld F.TRL_LNK_STS_STATE n = 1) ∧ t = { s with regs := t.regs, power := t.power }) ∧
      (∀ ms : Word32, s.power.rails = true → s.fld F.KPR_BOOT_STAGE 0 = 3 → test.meshOk = true → test.edgesOk = true →
        ∃ t, exec (.bringupReady test ms) s = .next t ∧ t.fld F.KPR_BOOT_STAGE 0 = 4 ∧ t.pstate ≤ 1 ∧ t.power.gated = false ∧
          t.flag F.PWR_STATE_BUSY 0 = false ∧ t.fld F.KPR_BOOT_READY_MS 0 = ms.toNat ∧ (test.badTiles = [] → t.cells = s.cells)))
end

