-- ==== Sys2Proof/Laws/SMap.lean ====
section
/-!
SUPPORT. Laws of sparse maps: reading after writing, and the canonical form kept by writing.
-/
namespace Sys2Proof.Machine

variable {β : Type} [DecidableEq β] (d : Nat → β)

/-- A canonical map from `lo` on reads its default below `lo`. -/
theorem SMap.get_below : ∀ (m : SMap β) (lo k : Nat), SMap.wfFrom d lo m = true → k < lo → SMap.get d m k = d k
  | [], _, _, _, _ => rfl
  | (j, v) :: r, lo, k, h, hk => by
    simp only [SMap.wfFrom, Bool.and_eq_true, decide_eq_true_eq] at h
    have h1 : k ≠ j := by omega
    have h2 : k < j := by omega
    simp [SMap.get, h1, h2]

/-- The canonical form holds from any lower bound. -/
theorem SMap.wfFrom_le : ∀ (m : SMap β) (lo lo' : Nat), SMap.wfFrom d lo m = true → lo' ≤ lo → SMap.wfFrom d lo' m = true
  | [], _, _, _, _ => rfl
  | (j, v) :: r, lo, lo', h, hl => by
    simp only [SMap.wfFrom, Bool.and_eq_true, decide_eq_true_eq] at h ⊢
    exact ⟨⟨by omega, h.1.2⟩, h.2⟩

/-- Leaving out entries keeps the canonical form. -/
theorem SMap.filter_wfFrom (p : Nat × β → Bool) : ∀ (m : SMap β) (lo : Nat),
    SMap.wfFrom d lo m = true → SMap.wfFrom d lo (m.filter p) = true
  | [], _, _ => rfl
  | (j, w) :: r, lo, h => by
    simp only [SMap.wfFrom, Bool.and_eq_true, decide_eq_true_eq] at h
    obtain ⟨⟨h1, h2⟩, h3⟩ := h
    have ih := SMap.filter_wfFrom p r (j + 1) h3
    by_cases hp : p (j, w) = true
    · simp [List.filter, hp, SMap.wfFrom, h1, h2, ih]
    · simp only [Bool.not_eq_true] at hp
      simp only [List.filter, hp]
      exact SMap.wfFrom_le d _ (j + 1) lo ih (by omega)

/-- A canonical map from k + 1 on lists no entry for k. -/
theorem SMap.filter_above (k : Nat) : ∀ (m : SMap β) (lo : Nat), SMap.wfFrom d lo m = true → k < lo →
    m.filter (fun x => x.1 != k) = m
  | [], _, _, _ => rfl
  | (j, w) :: r, lo, h, hk => by
    simp only [SMap.wfFrom, Bool.and_eq_true, decide_eq_true_eq] at h
    have hj : (j != k) = true := by simp; omega
    simp [List.filter, hj, SMap.filter_above k r (j + 1) h.2 (by omega)]

/-- A map that lists no entry for k reads its default there. -/
theorem SMap.get_filter (k : Nat) : ∀ m : SMap β, SMap.get d (m.filter fun x => x.1 != k) k = d k
  | [] => rfl
  | (j, w) :: r => by
    by_cases hj : j = k
    · simp [List.filter, hj, SMap.get_filter k r]
    · have h1 : (j != k) = true := by simp [hj]
      have h2 : k ≠ j := fun e => hj e.symm
      simp [List.filter, h1, SMap.get, h2, SMap.get_filter k r]

/-- Writing keeps the canonical form. -/
theorem SMap.set_wfFrom : ∀ (m : SMap β) (lo k : Nat) (v : β),
    SMap.wfFrom d lo m = true → lo ≤ k → SMap.wfFrom d lo (SMap.set d m k v) = true
  | [], lo, k, v, _, hk => by
    by_cases hv : v = d k <;> simp [SMap.set, SMap.wfFrom, hv, hk]
  | (j, w) :: r, lo, k, v, h, hk => by
    simp only [SMap.wfFrom, Bool.and_eq_true, decide_eq_true_eq] at h
    obtain ⟨⟨h1, h2⟩, h3⟩ := h
    unfold SMap.set
    by_cases hj : k = j
    · subst hj
      by_cases hv : v = d k
      · simpa [hv] using SMap.wfFrom_le d _ (k + 1) lo (SMap.filter_wfFrom d _ r (k + 1) h3) (by omega)
      · simp [hv, SMap.wfFrom, h1, h3]
    · by_cases hlt : k < j
      · by_cases hv : v = d k
        · simp [hj, hlt, hv, SMap.wfFrom, h1, h2, h3]
        · simp [hj, hlt, hv, SMap.wfFrom, hk, h2, h3]
      · have := SMap.set_wfFrom r (j + 1) k v h3 (by omega)
        simp [hj, hlt, SMap.wfFrom, h1, h2, this]

/-- Writing keeps the canonical form. -/
theorem SMap.set_wf (m : SMap β) (k : Nat) (v : β) (h : SMap.wf d m = true) : SMap.wf d (SMap.set d m k v) = true :=
  SMap.set_wfFrom d m 0 k v h (Nat.zero_le k)

/-- What was written is read, whatever the map. -/
theorem SMap.get_set_self : ∀ (m : SMap β) (k : Nat) (v : β), SMap.get d (SMap.set d m k v) k = v
  | [], k, v => by
    by_cases hv : v = d k <;> simp [SMap.set, SMap.get, hv]
  | (j, w) :: r, k, v => by
    unfold SMap.set
    by_cases hj : k = j
    · subst hj
      by_cases hv : v = d k
      · simpa [hv] using SMap.get_filter d k r
      · simp [hv, SMap.get]
    · by_cases hlt : k < j
      · by_cases hv : v = d k
        · simp [hj, hlt, hv, SMap.get]
        · simp [hj, hlt, hv, SMap.get]
      · simpa [hj, hlt, SMap.get] using SMap.get_set_self r k v

/-- What was written is read. -/
theorem SMap.get_set_same (m : SMap β) (k : Nat) (v : β) (_ : SMap.wf d m = true) :
    SMap.get d (SMap.set d m k v) k = v := SMap.get_set_self d m k v

/-- Every other key reads as before. -/
theorem SMap.get_set_otherFrom : ∀ (m : SMap β) (lo k k' : Nat) (v : β),
    SMap.wfFrom d lo m = true → k' ≠ k → SMap.get d (SMap.set d m k v) k' = SMap.get d m k'
  | [], _, k, k', v, _, hk => by
    by_cases hv : v = d k
    · simp [SMap.set, SMap.get, hv]
    · simp [SMap.set, SMap.get, hv, hk]
  | (j, w) :: r, lo, k, k', v, h, hk => by
    simp only [SMap.wfFrom, Bool.and_eq_true, decide_eq_true_eq] at h
    obtain ⟨⟨h1, h2⟩, h3⟩ := h
    unfold SMap.set
    by_cases hj : k = j
    · subst hj
      have hf := SMap.filter_above d k r (k + 1) h3 (by omega)
      by_cases hv : v = d k
      · by_cases hlt : k' < k
        · simp only [hv, if_true, hf]
          simp [SMap.get, hk, hlt]
          exact SMap.get_below d r (k + 1) k' h3 (by omega)
        · simp only [hv, if_true, hf]
          simp [SMap.get, hk, hlt]
      · simp [hv, SMap.get, hk]
    · by_cases hlt : k < j
      · by_cases hv : v = d k
        · simp [hj, hlt, hv]
        · by_cases hlt' : k' < k
          · have a : k' ≠ j := by omega
            have b : k' < j := by omega
            simp [hj, hlt, hv, SMap.get, hk, hlt', a, b]
          · simp [hj, hlt, hv, SMap.get, hk, hlt']
      · have ih := SMap.get_set_otherFrom r (j + 1) k k' v h3 hk
        by_cases e : k' = j
        · simp [hj, hlt, SMap.get, e]
        · by_cases l : k' < j
          · simp [hj, hlt, SMap.get, e, l]
          · simp [hj, hlt, SMap.get, e, l, ih]

/-- Every other key reads as before. -/
theorem SMap.get_set_other (m : SMap β) (k k' : Nat) (v : β) (h : SMap.wf d m = true) (hk : k' ≠ k) :
    SMap.get d (SMap.set d m k v) k' = SMap.get d m k' := SMap.get_set_otherFrom d m 0 k k' v h hk

end Sys2Proof.Machine
end

