-- ==== Sys2Proof/Laws/State.lean ====
section
/-!
SUPPORT. What each effect leaves as it was, field by field and accessor by accessor, and what it sets.
-/
namespace Sys2Proof.Machine

variable (s : State)

/-- `mile` changes mile alone: the fields. -/
@[simp] theorem ap_mile_fields (v : Word) :
    ((Eff.mile v).ap s).posNs = s.posNs ∧ ((Eff.mile v).ap s).regs = s.regs ∧ ((Eff.mile v).ap s).mem = s.mem ∧ ((Eff.mile v).ap s).poison = s.poison ∧ ((Eff.mile v).ap s).cores = s.cores ∧ ((Eff.mile v).ap s).cells = s.cells ∧ ((Eff.mile v).ap s).convs = s.convs ∧ ((Eff.mile v).ap s).dies = s.dies ∧ ((Eff.mile v).ap s).links = s.links ∧ ((Eff.mile v).ap s).trees = s.trees ∧ ((Eff.mile v).ap s).oldTrees = s.oldTrees ∧ ((Eff.mile v).ap s).flitSel = s.flitSel ∧ ((Eff.mile v).ap s).wins = s.wins ∧ ((Eff.mile v).ap s).passages = s.passages ∧ ((Eff.mile v).ap s).jobs = s.jobs ∧ ((Eff.mile v).ap s).slices = s.slices ∧ ((Eff.mile v).ap s).fabTrees = s.fabTrees ∧ ((Eff.mile v).ap s).bfp = s.bfp ∧ ((Eff.mile v).ap s).colls = s.colls ∧ ((Eff.mile v).ap s).aborted = s.aborted ∧ ((Eff.mile v).ap s).ports = s.ports ∧ ((Eff.mile v).ap s).snoopF = s.snoopF ∧ ((Eff.mile v).ap s).sensors = s.sensors ∧ ((Eff.mile v).ap s).nvm = s.nvm ∧ ((Eff.mile v).ap s).keeper = s.keeper ∧ ((Eff.mile v).ap s).mon = s.mon ∧ ((Eff.mile v).ap s).power = s.power ∧ ((Eff.mile v).ap s).sec = s.sec ∧ ((Eff.mile v).ap s).milestone = s.milestone ∧ ((Eff.mile v).ap s).out = s.out ∧ ((Eff.mile v).ap s).free = s.free ∧ ((Eff.mile v).ap s).pending = s.pending :=
  ⟨rfl, rfl, rfl, rfl, rfl, rfl, rfl, rfl, rfl, rfl, rfl, rfl, rfl, rfl, rfl, rfl, rfl, rfl, rfl, rfl, rfl, rfl, rfl, rfl, rfl, rfl, rfl, rfl, rfl, rfl, rfl, rfl⟩

/-- `mile` changes mile alone: what is read. -/
@[simp] theorem ap_mile_reads (v : Word) :
    (∀ b' i' o', ((Eff.mile v).ap s).reg b' i' o' = s.reg b' i' o') ∧
    (∀ a', ((Eff.mile v).ap s).byte a' = s.byte a') ∧
    (∀ c', ((Eff.mile v).ap s).core c' = s.core c') ∧
    (∀ t', ((Eff.mile v).ap s).cell t' = s.cell t') ∧
    (∀ t', ((Eff.mile v).ap s).conv t' = s.conv t') ∧
    (∀ d', ((Eff.mile v).ap s).die d' = s.die d') ∧
    (∀ k', ((Eff.mile v).ap s).link k' = s.link k') ∧
    (∀ k', ((Eff.mile v).ap s).treeTab k' = s.treeTab k') ∧
    (∀ k', ((Eff.mile v).ap s).flits k' = s.flits k') ∧
    (∀ i', ((Eff.mile v).ap s).win i' = s.win i') ∧
    (∀ i', ((Eff.mile v).ap s).passage i' = s.passage i') ∧
    (∀ p', ((Eff.mile v).ap s).job p' = s.job p') ∧
    (∀ p', ((Eff.mile v).ap s).slice p' = s.slice p') ∧
    (∀ n', ((Eff.mile v).ap s).bfpLink n' = s.bfpLink n') ∧
    (∀ n', ((Eff.mile v).ap s).port n' = s.port n') ∧
    (∀ d', ((Eff.mile v).ap s).filter d' = s.filter d') ∧
    (∀ k', ((Eff.mile v).ap s).sensor k' = s.sensor k') :=
  ⟨fun _ _ _ => rfl, fun _ => rfl, fun _ => rfl, fun _ => rfl, fun _ => rfl, fun _ => rfl, fun _ => rfl, fun _ => rfl, fun _ => rfl, fun _ => rfl, fun _ => rfl, fun _ => rfl, fun _ => rfl, fun _ => rfl, fun _ => rfl, fun _ => rfl, fun _ => rfl⟩

@[simp] theorem ap_mile_set (v : Word) : ((Eff.mile v).ap s).mile = v := rfl

/-- `posNs` changes posNs alone: the fields. -/
@[simp] theorem ap_posNs_fields (n : Nat) :
    ((Eff.posNs n).ap s).mile = s.mile ∧ ((Eff.posNs n).ap s).regs = s.regs ∧ ((Eff.posNs n).ap s).mem = s.mem ∧ ((Eff.posNs n).ap s).poison = s.poison ∧ ((Eff.posNs n).ap s).cores = s.cores ∧ ((Eff.posNs n).ap s).cells = s.cells ∧ ((Eff.posNs n).ap s).convs = s.convs ∧ ((Eff.posNs n).ap s).dies = s.dies ∧ ((Eff.posNs n).ap s).links = s.links ∧ ((Eff.posNs n).ap s).trees = s.trees ∧ ((Eff.posNs n).ap s).oldTrees = s.oldTrees ∧ ((Eff.posNs n).ap s).flitSel = s.flitSel ∧ ((Eff.posNs n).ap s).wins = s.wins ∧ ((Eff.posNs n).ap s).passages = s.passages ∧ ((Eff.posNs n).ap s).jobs = s.jobs ∧ ((Eff.posNs n).ap s).slices = s.slices ∧ ((Eff.posNs n).ap s).fabTrees = s.fabTrees ∧ ((Eff.posNs n).ap s).bfp = s.bfp ∧ ((Eff.posNs n).ap s).colls = s.colls ∧ ((Eff.posNs n).ap s).aborted = s.aborted ∧ ((Eff.posNs n).ap s).ports = s.ports ∧ ((Eff.posNs n).ap s).snoopF = s.snoopF ∧ ((Eff.posNs n).ap s).sensors = s.sensors ∧ ((Eff.posNs n).ap s).nvm = s.nvm ∧ ((Eff.posNs n).ap s).keeper = s.keeper ∧ ((Eff.posNs n).ap s).mon = s.mon ∧ ((Eff.posNs n).ap s).power = s.power ∧ ((Eff.posNs n).ap s).sec = s.sec ∧ ((Eff.posNs n).ap s).milestone = s.milestone ∧ ((Eff.posNs n).ap s).out = s.out ∧ ((Eff.posNs n).ap s).free = s.free ∧ ((Eff.posNs n).ap s).pending = s.pending :=
  ⟨rfl, rfl, rfl, rfl, rfl, rfl, rfl, rfl, rfl, rfl, rfl, rfl, rfl, rfl, rfl, rfl, rfl, rfl, rfl, rfl, rfl, rfl, rfl, rfl, rfl, rfl, rfl, rfl, rfl, rfl, rfl, rfl⟩

/-- `posNs` changes posNs alone: what is read. -/
@[simp] theorem ap_posNs_reads (n : Nat) :
    (∀ b' i' o', ((Eff.posNs n).ap s).reg b' i' o' = s.reg b' i' o') ∧
    (∀ a', ((Eff.posNs n).ap s).byte a' = s.byte a') ∧
    (∀ c', ((Eff.posNs n).ap s).core c' = s.core c') ∧
    (∀ t', ((Eff.posNs n).ap s).cell t' = s.cell t') ∧
    (∀ t', ((Eff.posNs n).ap s).conv t' = s.conv t') ∧
    (∀ d', ((Eff.posNs n).ap s).die d' = s.die d') ∧
    (∀ k', ((Eff.posNs n).ap s).link k' = s.link k') ∧
    (∀ k', ((Eff.posNs n).ap s).treeTab k' = s.treeTab k') ∧
    (∀ k', ((Eff.posNs n).ap s).flits k' = s.flits k') ∧
    (∀ i', ((Eff.posNs n).ap s).win i' = s.win i') ∧
    (∀ i', ((Eff.posNs n).ap s).passage i' = s.passage i') ∧
    (∀ p', ((Eff.posNs n).ap s).job p' = s.job p') ∧
    (∀ p', ((Eff.posNs n).ap s).slice p' = s.slice p') ∧
    (∀ n', ((Eff.posNs n).ap s).bfpLink n' = s.bfpLink n') ∧
    (∀ n', ((Eff.posNs n).ap s).port n' = s.port n') ∧
    (∀ d', ((Eff.posNs n).ap s).filter d' = s.filter d') ∧
    (∀ k', ((Eff.posNs n).ap s).sensor k' = s.sensor k') :=
  ⟨fun _ _ _ => rfl, fun _ => rfl, fun _ => rfl, fun _ => rfl, fun _ => rfl, fun _ => rfl, fun _ => rfl, fun _ => rfl, fun _ => rfl, fun _ => rfl, fun _ => rfl, fun _ => rfl, fun _ => rfl, fun _ => rfl, fun _ => rfl, fun _ => rfl, fun _ => rfl⟩

@[simp] theorem ap_posNs_set (n : Nat) : ((Eff.posNs n).ap s).posNs = n := rfl

/-- `reg` changes regs alone: the fields. -/
@[simp] theorem ap_reg_fields (b : Blk) (i off : Nat) (v : Word) :
    ((Eff.reg b i off v).ap s).mile = s.mile ∧ ((Eff.reg b i off v).ap s).posNs = s.posNs ∧ ((Eff.reg b i off v).ap s).mem = s.mem ∧ ((Eff.reg b i off v).ap s).poison = s.poison ∧ ((Eff.reg b i off v).ap s).cores = s.cores ∧ ((Eff.reg b i off v).ap s).cells = s.cells ∧ ((Eff.reg b i off v).ap s).convs = s.convs ∧ ((Eff.reg b i off v).ap s).dies = s.dies ∧ ((Eff.reg b i off v).ap s).links = s.links ∧ ((Eff.reg b i off v).ap s).trees = s.trees ∧ ((Eff.reg b i off v).ap s).oldTrees = s.oldTrees ∧ ((Eff.reg b i off v).ap s).flitSel = s.flitSel ∧ ((Eff.reg b i off v).ap s).wins = s.wins ∧ ((Eff.reg b i off v).ap s).passages = s.passages ∧ ((Eff.reg b i off v).ap s).jobs = s.jobs ∧ ((Eff.reg b i off v).ap s).slices = s.slices ∧ ((Eff.reg b i off v).ap s).fabTrees = s.fabTrees ∧ ((Eff.reg b i off v).ap s).bfp = s.bfp ∧ ((Eff.reg b i off v).ap s).colls = s.colls ∧ ((Eff.reg b i off v).ap s).aborted = s.aborted ∧ ((Eff.reg b i off v).ap s).ports = s.ports ∧ ((Eff.reg b i off v).ap s).snoopF = s.snoopF ∧ ((Eff.reg b i off v).ap s).sensors = s.sensors ∧ ((Eff.reg b i off v).ap s).nvm = s.nvm ∧ ((Eff.reg b i off v).ap s).keeper = s.keeper ∧ ((Eff.reg b i off v).ap s).mon = s.mon ∧ ((Eff.reg b i off v).ap s).power = s.power ∧ ((Eff.reg b i off v).ap s).sec = s.sec ∧ ((Eff.reg b i off v).ap s).milestone = s.milestone ∧ ((Eff.reg b i off v).ap s).out = s.out ∧ ((Eff.reg b i off v).ap s).free = s.free ∧ ((Eff.reg b i off v).ap s).pending = s.pending :=
  ⟨rfl, rfl, rfl, rfl, rfl, rfl, rfl, rfl, rfl, rfl, rfl, rfl, rfl, rfl, rfl, rfl, rfl, rfl, rfl, rfl, rfl, rfl, rfl, rfl, rfl, rfl, rfl, rfl, rfl, rfl, rfl, rfl⟩

/-- `reg` changes regs alone: what is read. -/
@[simp] theorem ap_reg_reads (b : Blk) (i off : Nat) (v : Word) :
    (∀ a', ((Eff.reg b i off v).ap s).byte a' = s.byte a') ∧
    (∀ c', ((Eff.reg b i off v).ap s).core c' = s.core c') ∧
    (∀ t', ((Eff.reg b i off v).ap s).cell t' = s.cell t') ∧
    (∀ t', ((Eff.reg b i off v).ap s).conv t' = s.conv t') ∧
    (∀ d', ((Eff.reg b i off v).ap s).die d' = s.die d') ∧
    (∀ k', ((Eff.reg b i off v).ap s).link k' = s.link k') ∧
    (∀ k', ((Eff.reg b i off v).ap s).treeTab k' = s.treeTab k') ∧
    (∀ k', ((Eff.reg b i off v).ap s).flits k' = s.flits k') ∧
    (∀ i', ((Eff.reg b i off v).ap s).win i' = s.win i') ∧
    (∀ i', ((Eff.reg b i off v).ap s).passage i' = s.passage i') ∧
    (∀ p', ((Eff.reg b i off v).ap s).job p' = s.job p') ∧
    (∀ p', ((Eff.reg b i off v).ap s).slice p' = s.slice p') ∧
    (∀ n', ((Eff.reg b i off v).ap s).bfpLink n' = s.bfpLink n') ∧
    (∀ n', ((Eff.reg b i off v).ap s).port n' = s.port n') ∧
    (∀ d', ((Eff.reg b i off v).ap s).filter d' = s.filter d') ∧
    (∀ k', ((Eff.reg b i off v).ap s).sensor k' = s.sensor k') :=
  ⟨fun _ => rfl, fun _ => rfl, fun _ => rfl, fun _ => rfl, fun _ => rfl, fun _ => rfl, fun _ => rfl, fun _ => rfl, fun _ => rfl, fun _ => rfl, fun _ => rfl, fun _ => rfl, fun _ => rfl, fun _ => rfl, fun _ => rfl, fun _ => rfl⟩

/-- `byte` changes mem alone: the fields. -/
@[simp] theorem ap_byte_fields (a : Nat) (v : Byte) :
    ((Eff.byte a v).ap s).mile = s.mile ∧ ((Eff.byte a v).ap s).posNs = s.posNs ∧ ((Eff.byte a v).ap s).regs = s.regs ∧ ((Eff.byte a v).ap s).poison = s.poison ∧ ((Eff.byte a v).ap s).cores = s.cores ∧ ((Eff.byte a v).ap s).cells = s.cells ∧ ((Eff.byte a v).ap s).convs = s.convs ∧ ((Eff.byte a v).ap s).dies = s.dies ∧ ((Eff.byte a v).ap s).links = s.links ∧ ((Eff.byte a v).ap s).trees = s.trees ∧ ((Eff.byte a v).ap s).oldTrees = s.oldTrees ∧ ((Eff.byte a v).ap s).flitSel = s.flitSel ∧ ((Eff.byte a v).ap s).wins = s.wins ∧ ((Eff.byte a v).ap s).passages = s.passages ∧ ((Eff.byte a v).ap s).jobs = s.jobs ∧ ((Eff.byte a v).ap s).slices = s.slices ∧ ((Eff.byte a v).ap s).fabTrees = s.fabTrees ∧ ((Eff.byte a v).ap s).bfp = s.bfp ∧ ((Eff.byte a v).ap s).colls = s.colls ∧ ((Eff.byte a v).ap s).aborted = s.aborted ∧ ((Eff.byte a v).ap s).ports = s.ports ∧ ((Eff.byte a v).ap s).snoopF = s.snoopF ∧ ((Eff.byte a v).ap s).sensors = s.sensors ∧ ((Eff.byte a v).ap s).nvm = s.nvm ∧ ((Eff.byte a v).ap s).keeper = s.keeper ∧ ((Eff.byte a v).ap s).mon = s.mon ∧ ((Eff.byte a v).ap s).power = s.power ∧ ((Eff.byte a v).ap s).sec = s.sec ∧ ((Eff.byte a v).ap s).milestone = s.milestone ∧ ((Eff.byte a v).ap s).out = s.out ∧ ((Eff.byte a v).ap s).free = s.free ∧ ((Eff.byte a v).ap s).pending = s.pending :=
  ⟨rfl, rfl, rfl, rfl, rfl, rfl, rfl, rfl, rfl, rfl, rfl, rfl, rfl, rfl, rfl, rfl, rfl, rfl, rfl, rfl, rfl, rfl, rfl, rfl, rfl, rfl, rfl, rfl, rfl, rfl, rfl, rfl⟩

/-- `byte` changes mem alone: what is read. -/
@[simp] theorem ap_byte_reads (a : Nat) (v : Byte) :
    (∀ b' i' o', ((Eff.byte a v).ap s).reg b' i' o' = s.reg b' i' o') ∧
    (∀ c', ((Eff.byte a v).ap s).core c' = s.core c') ∧
    (∀ t', ((Eff.byte a v).ap s).cell t' = s.cell t') ∧
    (∀ t', ((Eff.byte a v).ap s).conv t' = s.conv t') ∧
    (∀ d', ((Eff.byte a v).ap s).die d' = s.die d') ∧
    (∀ k', ((Eff.byte a v).ap s).link k' = s.link k') ∧
    (∀ k', ((Eff.byte a v).ap s).treeTab k' = s.treeTab k') ∧
    (∀ k', ((Eff.byte a v).ap s).flits k' = s.flits k') ∧
    (∀ i', ((Eff.byte a v).ap s).win i' = s.win i') ∧
    (∀ i', ((Eff.byte a v).ap s).passage i' = s.passage i') ∧
    (∀ p', ((Eff.byte a v).ap s).job p' = s.job p') ∧
    (∀ p', ((Eff.byte a v).ap s).slice p' = s.slice p') ∧
    (∀ n', ((Eff.byte a v).ap s).bfpLink n' = s.bfpLink n') ∧
    (∀ n', ((Eff.byte a v).ap s).port n' = s.port n') ∧
    (∀ d', ((Eff.byte a v).ap s).filter d' = s.filter d') ∧
    (∀ k', ((Eff.byte a v).ap s).sensor k' = s.sensor k') :=
  ⟨fun _ _ _ => rfl, fun _ => rfl, fun _ => rfl, fun _ => rfl, fun _ => rfl, fun _ => rfl, fun _ => rfl, fun _ => rfl, fun _ => rfl, fun _ => rfl, fun _ => rfl, fun _ => rfl, fun _ => rfl, fun _ => rfl, fun _ => rfl, fun _ => rfl⟩

/-- `poison` changes poison alone: the fields. -/
@[simp] theorem ap_poison_fields (l : List Nat) :
    ((Eff.poison l).ap s).mile = s.mile ∧ ((Eff.poison l).ap s).posNs = s.posNs ∧ ((Eff.poison l).ap s).regs = s.regs ∧ ((Eff.poison l).ap s).mem = s.mem ∧ ((Eff.poison l).ap s).cores = s.cores ∧ ((Eff.poison l).ap s).cells = s.cells ∧ ((Eff.poison l).ap s).convs = s.convs ∧ ((Eff.poison l).ap s).dies = s.dies ∧ ((Eff.poison l).ap s).links = s.links ∧ ((Eff.poison l).ap s).trees = s.trees ∧ ((Eff.poison l).ap s).oldTrees = s.oldTrees ∧ ((Eff.poison l).ap s).flitSel = s.flitSel ∧ ((Eff.poison l).ap s).wins = s.wins ∧ ((Eff.poison l).ap s).passages = s.passages ∧ ((Eff.poison l).ap s).jobs = s.jobs ∧ ((Eff.poison l).ap s).slices = s.slices ∧ ((Eff.poison l).ap s).fabTrees = s.fabTrees ∧ ((Eff.poison l).ap s).bfp = s.bfp ∧ ((Eff.poison l).ap s).colls = s.colls ∧ ((Eff.poison l).ap s).aborted = s.aborted ∧ ((Eff.poison l).ap s).ports = s.ports ∧ ((Eff.poison l).ap s).snoopF = s.snoopF ∧ ((Eff.poison l).ap s).sensors = s.sensors ∧ ((Eff.poison l).ap s).nvm = s.nvm ∧ ((Eff.poison l).ap s).keeper = s.keeper ∧ ((Eff.poison l).ap s).mon = s.mon ∧ ((Eff.poison l).ap s).power = s.power ∧ ((Eff.poison l).ap s).sec = s.sec ∧ ((Eff.poison l).ap s).milestone = s.milestone ∧ ((Eff.poison l).ap s).out = s.out ∧ ((Eff.poison l).ap s).free = s.free ∧ ((Eff.poison l).ap s).pending = s.pending :=
  ⟨rfl, rfl, rfl, rfl, rfl, rfl, rfl, rfl, rfl, rfl, rfl, rfl, rfl, rfl, rfl, rfl, rfl, rfl, rfl, rfl, rfl, rfl, rfl, rfl, rfl, rfl, rfl, rfl, rfl, rfl, rfl, rfl⟩

/-- `poison` changes poison alone: what is read. -/
@[simp] theorem ap_poison_reads (l : List Nat) :
    (∀ b' i' o', ((Eff.poison l).ap s).reg b' i' o' = s.reg b' i' o') ∧
    (∀ a', ((Eff.poison l).ap s).byte a' = s.byte a') ∧
    (∀ c', ((Eff.poison l).ap s).core c' = s.core c') ∧
    (∀ t', ((Eff.poison l).ap s).cell t' = s.cell t') ∧
    (∀ t', ((Eff.poison l).ap s).conv t' = s.conv t') ∧
    (∀ d', ((Eff.poison l).ap s).die d' = s.die d') ∧
    (∀ k', ((Eff.poison l).ap s).link k' = s.link k') ∧
    (∀ k', ((Eff.poison l).ap s).treeTab k' = s.treeTab k') ∧
    (∀ k', ((Eff.poison l).ap s).flits k' = s.flits k') ∧
    (∀ i', ((Eff.poison l).ap s).win i' = s.win i') ∧
    (∀ i', ((Eff.poison l).ap s).passage i' = s.passage i') ∧
    (∀ p', ((Eff.poison l).ap s).job p' = s.job p') ∧
    (∀ p', ((Eff.poison l).ap s).slice p' = s.slice p') ∧
    (∀ n', ((Eff.poison l).ap s).bfpLink n' = s.bfpLink n') ∧
    (∀ n', ((Eff.poison l).ap s).port n' = s.port n') ∧
    (∀ d', ((Eff.poison l).ap s).filter d' = s.filter d') ∧
    (∀ k', ((Eff.poison l).ap s).sensor k' = s.sensor k') :=
  ⟨fun _ _ _ => rfl, fun _ => rfl, fun _ => rfl, fun _ => rfl, fun _ => rfl, fun _ => rfl, fun _ => rfl, fun _ => rfl, fun _ => rfl, fun _ => rfl, fun _ => rfl, fun _ => rfl, fun _ => rfl, fun _ => rfl, fun _ => rfl, fun _ => rfl, fun _ => rfl⟩

@[simp] theorem ap_poison_set (l : List Nat) : ((Eff.poison l).ap s).poison = l := rfl

/-- `core` changes cores alone: the fields. -/
@[simp] theorem ap_core_fields (c : CoreId) (v : Core) :
    ((Eff.core c v).ap s).mile = s.mile ∧ ((Eff.core c v).ap s).posNs = s.posNs ∧ ((Eff.core c v).ap s).regs = s.regs ∧ ((Eff.core c v).ap s).mem = s.mem ∧ ((Eff.core c v).ap s).poison = s.poison ∧ ((Eff.core c v).ap s).cells = s.cells ∧ ((Eff.core c v).ap s).convs = s.convs ∧ ((Eff.core c v).ap s).dies = s.dies ∧ ((Eff.core c v).ap s).links = s.links ∧ ((Eff.core c v).ap s).trees = s.trees ∧ ((Eff.core c v).ap s).oldTrees = s.oldTrees ∧ ((Eff.core c v).ap s).flitSel = s.flitSel ∧ ((Eff.core c v).ap s).wins = s.wins ∧ ((Eff.core c v).ap s).passages = s.passages ∧ ((Eff.core c v).ap s).jobs = s.jobs ∧ ((Eff.core c v).ap s).slices = s.slices ∧ ((Eff.core c v).ap s).fabTrees = s.fabTrees ∧ ((Eff.core c v).ap s).bfp = s.bfp ∧ ((Eff.core c v).ap s).colls = s.colls ∧ ((Eff.core c v).ap s).aborted = s.aborted ∧ ((Eff.core c v).ap s).ports = s.ports ∧ ((Eff.core c v).ap s).snoopF = s.snoopF ∧ ((Eff.core c v).ap s).sensors = s.sensors ∧ ((Eff.core c v).ap s).nvm = s.nvm ∧ ((Eff.core c v).ap s).keeper = s.keeper ∧ ((Eff.core c v).ap s).mon = s.mon ∧ ((Eff.core c v).ap s).power = s.power ∧ ((Eff.core c v).ap s).sec = s.sec ∧ ((Eff.core c v).ap s).milestone = s.milestone ∧ ((Eff.core c v).ap s).out = s.out ∧ ((Eff.core c v).ap s).free = s.free ∧ ((Eff.core c v).ap s).pending = s.pending :=
  ⟨rfl, rfl, rfl, rfl, rfl, rfl, rfl, rfl, rfl, rfl, rfl, rfl, rfl, rfl, rfl, rfl, rfl, rfl, rfl, rfl, rfl, rfl, rfl, rfl, rfl, rfl, rfl, rfl, rfl, rfl, rfl, rfl⟩

/-- `core` changes cores alone: what is read. -/
@[simp] theorem ap_core_reads (c : CoreId) (v : Core) :
    (∀ b' i' o', ((Eff.core c v).ap s).reg b' i' o' = s.reg b' i' o') ∧
    (∀ a', ((Eff.core c v).ap s).byte a' = s.byte a') ∧
    (∀ t', ((Eff.core c v).ap s).cell t' = s.cell t') ∧
    (∀ t', ((Eff.core c v).ap s).conv t' = s.conv t') ∧
    (∀ d', ((Eff.core c v).ap s).die d' = s.die d') ∧
    (∀ k', ((Eff.core c v).ap s).link k' = s.link k') ∧
    (∀ k', ((Eff.core c v).ap s).treeTab k' = s.treeTab k') ∧
    (∀ k', ((Eff.core c v).ap s).flits k' = s.flits k') ∧
    (∀ i', ((Eff.core c v).ap s).win i' = s.win i') ∧
    (∀ i', ((Eff.core c v).ap s).passage i' = s.passage i') ∧
    (∀ p', ((Eff.core c v).ap s).job p' = s.job p') ∧
    (∀ p', ((Eff.core c v).ap s).slice p' = s.slice p') ∧
    (∀ n', ((Eff.core c v).ap s).bfpLink n' = s.bfpLink n') ∧
    (∀ n', ((Eff.core c v).ap s).port n' = s.port n') ∧
    (∀ d', ((Eff.core c v).ap s).filter d' = s.filter d') ∧
    (∀ k', ((Eff.core c v).ap s).sensor k' = s.sensor k') :=
  ⟨fun _ _ _ => rfl, fun _ => rfl, fun _ => rfl, fun _ => rfl, fun _ => rfl, fun _ => rfl, fun _ => rfl, fun _ => rfl, fun _ => rfl, fun _ => rfl, fun _ => rfl, fun _ => rfl, fun _ => rfl, fun _ => rfl, fun _ => rfl, fun _ => rfl⟩

/-- `cell` changes cells alone: the fields. -/
@[simp] theorem ap_cell_fields (t : TileId) (v : Cells) :
    ((Eff.cell t v).ap s).mile = s.mile ∧ ((Eff.cell t v).ap s).posNs = s.posNs ∧ ((Eff.cell t v).ap s).regs = s.regs ∧ ((Eff.cell t v).ap s).mem = s.mem ∧ ((Eff.cell t v).ap s).poison = s.poison ∧ ((Eff.cell t v).ap s).cores = s.cores ∧ ((Eff.cell t v).ap s).convs = s.convs ∧ ((Eff.cell t v).ap s).dies = s.dies ∧ ((Eff.cell t v).ap s).links = s.links ∧ ((Eff.cell t v).ap s).trees = s.trees ∧ ((Eff.cell t v).ap s).oldTrees = s.oldTrees ∧ ((Eff.cell t v).ap s).flitSel = s.flitSel ∧ ((Eff.cell t v).ap s).wins = s.wins ∧ ((Eff.cell t v).ap s).passages = s.passages ∧ ((Eff.cell t v).ap s).jobs = s.jobs ∧ ((Eff.cell t v).ap s).slices = s.slices ∧ ((Eff.cell t v).ap s).fabTrees = s.fabTrees ∧ ((Eff.cell t v).ap s).bfp = s.bfp ∧ ((Eff.cell t v).ap s).colls = s.colls ∧ ((Eff.cell t v).ap s).aborted = s.aborted ∧ ((Eff.cell t v).ap s).ports = s.ports ∧ ((Eff.cell t v).ap s).snoopF = s.snoopF ∧ ((Eff.cell t v).ap s).sensors = s.sensors ∧ ((Eff.cell t v).ap s).nvm = s.nvm ∧ ((Eff.cell t v).ap s).keeper = s.keeper ∧ ((Eff.cell t v).ap s).mon = s.mon ∧ ((Eff.cell t v).ap s).power = s.power ∧ ((Eff.cell t v).ap s).sec = s.sec ∧ ((Eff.cell t v).ap s).milestone = s.milestone ∧ ((Eff.cell t v).ap s).out = s.out ∧ ((Eff.cell t v).ap s).free = s.free ∧ ((Eff.cell t v).ap s).pending = s.pending :=
  ⟨rfl, rfl, rfl, rfl, rfl, rfl, rfl, rfl, rfl, rfl, rfl, rfl, rfl, rfl, rfl, rfl, rfl, rfl, rfl, rfl, rfl, rfl, rfl, rfl, rfl, rfl, rfl, rfl, rfl, rfl, rfl, rfl⟩

/-- `cell` changes cells alone: what is read. -/
@[simp] theorem ap_cell_reads (t : TileId) (v : Cells) :
    (∀ b' i' o', ((Eff.cell t v).ap s).reg b' i' o' = s.reg b' i' o') ∧
    (∀ a', ((Eff.cell t v).ap s).byte a' = s.byte a') ∧
    (∀ c', ((Eff.cell t v).ap s).core c' = s.core c') ∧
    (∀ t', ((Eff.cell t v).ap s).conv t' = s.conv t') ∧
    (∀ d', ((Eff.cell t v).ap s).die d' = s.die d') ∧
    (∀ k', ((Eff.cell t v).ap s).link k' = s.link k') ∧
    (∀ k', ((Eff.cell t v).ap s).treeTab k' = s.treeTab k') ∧
    (∀ k', ((Eff.cell t v).ap s).flits k' = s.flits k') ∧
    (∀ i', ((Eff.cell t v).ap s).win i' = s.win i') ∧
    (∀ i', ((Eff.cell t v).ap s).passage i' = s.passage i') ∧
    (∀ p', ((Eff.cell t v).ap s).job p' = s.job p') ∧
    (∀ p', ((Eff.cell t v).ap s).slice p' = s.slice p') ∧
    (∀ n', ((Eff.cell t v).ap s).bfpLink n' = s.bfpLink n') ∧
    (∀ n', ((Eff.cell t v).ap s).port n' = s.port n') ∧
    (∀ d', ((Eff.cell t v).ap s).filter d' = s.filter d') ∧
    (∀ k', ((Eff.cell t v).ap s).sensor k' = s.sensor k') :=
  ⟨fun _ _ _ => rfl, fun _ => rfl, fun _ => rfl, fun _ => rfl, fun _ => rfl, fun _ => rfl, fun _ => rfl, fun _ => rfl, fun _ => rfl, fun _ => rfl, fun _ => rfl, fun _ => rfl, fun _ => rfl, fun _ => rfl, fun _ => rfl, fun _ => rfl⟩

/-- `conv` changes convs alone: the fields. -/
@[simp] theorem ap_conv_fields (t : TileId) (v : Conv) :
    ((Eff.conv t v).ap s).mile = s.mile ∧ ((Eff.conv t v).ap s).posNs = s.posNs ∧ ((Eff.conv t v).ap s).regs = s.regs ∧ ((Eff.conv t v).ap s).mem = s.mem ∧ ((Eff.conv t v).ap s).poison = s.poison ∧ ((Eff.conv t v).ap s).cores = s.cores ∧ ((Eff.conv t v).ap s).cells = s.cells ∧ ((Eff.conv t v).ap s).dies = s.dies ∧ ((Eff.conv t v).ap s).links = s.links ∧ ((Eff.conv t v).ap s).trees = s.trees ∧ ((Eff.conv t v).ap s).oldTrees = s.oldTrees ∧ ((Eff.conv t v).ap s).flitSel = s.flitSel ∧ ((Eff.conv t v).ap s).wins = s.wins ∧ ((Eff.conv t v).ap s).passages = s.passages ∧ ((Eff.conv t v).ap s).jobs = s.jobs ∧ ((Eff.conv t v).ap s).slices = s.slices ∧ ((Eff.conv t v).ap s).fabTrees = s.fabTrees ∧ ((Eff.conv t v).ap s).bfp = s.bfp ∧ ((Eff.conv t v).ap s).colls = s.colls ∧ ((Eff.conv t v).ap s).aborted = s.aborted ∧ ((Eff.conv t v).ap s).ports = s.ports ∧ ((Eff.conv t v).ap s).snoopF = s.snoopF ∧ ((Eff.conv t v).ap s).sensors = s.sensors ∧ ((Eff.conv t v).ap s).nvm = s.nvm ∧ ((Eff.conv t v).ap s).keeper = s.keeper ∧ ((Eff.conv t v).ap s).mon = s.mon ∧ ((Eff.conv t v).ap s).power = s.power ∧ ((Eff.conv t v).ap s).sec = s.sec ∧ ((Eff.conv t v).ap s).milestone = s.milestone ∧ ((Eff.conv t v).ap s).out = s.out ∧ ((Eff.conv t v).ap s).free = s.free ∧ ((Eff.conv t v).ap s).pending = s.pending :=
  ⟨rfl, rfl, rfl, rfl, rfl, rfl, rfl, rfl, rfl, rfl, rfl, rfl, rfl, rfl, rfl, rfl, rfl, rfl, rfl, rfl, rfl, rfl, rfl, rfl, rfl, rfl, rfl, rfl, rfl, rfl, rfl, rfl⟩

/-- `conv` changes convs alone: what is read. -/
@[simp] theorem ap_conv_reads (t : TileId) (v : Conv) :
    (∀ b' i' o', ((Eff.conv t v).ap s).reg b' i' o' = s.reg b' i' o') ∧
    (∀ a', ((Eff.conv t v).ap s).byte a' = s.byte a') ∧
    (∀ c', ((Eff.conv t v).ap s).core c' = s.core c') ∧
    (∀ t', ((Eff.conv t v).ap s).cell t' = s.cell t') ∧
    (∀ d', ((Eff.conv t v).ap s).die d' = s.die d') ∧
    (∀ k', ((Eff.conv t v).ap s).link k' = s.link k') ∧
    (∀ k', ((Eff.conv t v).ap s).treeTab k' = s.treeTab k') ∧
    (∀ k', ((Eff.conv t v).ap s).flits k' = s.flits k') ∧
    (∀ i', ((Eff.conv t v).ap s).win i' = s.win i') ∧
    (∀ i', ((Eff.conv t v).ap s).passage i' = s.passage i') ∧
    (∀ p', ((Eff.conv t v).ap s).job p' = s.job p') ∧
    (∀ p', ((Eff.conv t v).ap s).slice p' = s.slice p') ∧
    (∀ n', ((Eff.conv t v).ap s).bfpLink n' = s.bfpLink n') ∧
    (∀ n', ((Eff.conv t v).ap s).port n' = s.port n') ∧
    (∀ d', ((Eff.conv t v).ap s).filter d' = s.filter d') ∧
    (∀ k', ((Eff.conv t v).ap s).sensor k' = s.sensor k') :=
  ⟨fun _ _ _ => rfl, fun _ => rfl, fun _ => rfl, fun _ => rfl, fun _ => rfl, fun _ => rfl, fun _ => rfl, fun _ => rfl, fun _ => rfl, fun _ => rfl, fun _ => rfl, fun _ => rfl, fun _ => rfl, fun _ => rfl, fun _ => rfl, fun _ => rfl⟩

/-- `die` changes dies alone: the fields. -/
@[simp] theorem ap_die_fields (d : Nat) (v : Die) :
    ((Eff.die d v).ap s).mile = s.mile ∧ ((Eff.die d v).ap s).posNs = s.posNs ∧ ((Eff.die d v).ap s).regs = s.regs ∧ ((Eff.die d v).ap s).mem = s.mem ∧ ((Eff.die d v).ap s).poison = s.poison ∧ ((Eff.die d v).ap s).cores = s.cores ∧ ((Eff.die d v).ap s).cells = s.cells ∧ ((Eff.die d v).ap s).convs = s.convs ∧ ((Eff.die d v).ap s).links = s.links ∧ ((Eff.die d v).ap s).trees = s.trees ∧ ((Eff.die d v).ap s).oldTrees = s.oldTrees ∧ ((Eff.die d v).ap s).flitSel = s.flitSel ∧ ((Eff.die d v).ap s).wins = s.wins ∧ ((Eff.die d v).ap s).passages = s.passages ∧ ((Eff.die d v).ap s).jobs = s.jobs ∧ ((Eff.die d v).ap s).slices = s.slices ∧ ((Eff.die d v).ap s).fabTrees = s.fabTrees ∧ ((Eff.die d v).ap s).bfp = s.bfp ∧ ((Eff.die d v).ap s).colls = s.colls ∧ ((Eff.die d v).ap s).aborted = s.aborted ∧ ((Eff.die d v).ap s).ports = s.ports ∧ ((Eff.die d v).ap s).snoopF = s.snoopF ∧ ((Eff.die d v).ap s).sensors = s.sensors ∧ ((Eff.die d v).ap s).nvm = s.nvm ∧ ((Eff.die d v).ap s).keeper = s.keeper ∧ ((Eff.die d v).ap s).mon = s.mon ∧ ((Eff.die d v).ap s).power = s.power ∧ ((Eff.die d v).ap s).sec = s.sec ∧ ((Eff.die d v).ap s).milestone = s.milestone ∧ ((Eff.die d v).ap s).out = s.out ∧ ((Eff.die d v).ap s).free = s.free ∧ ((Eff.die d v).ap s).pending = s.pending :=
  ⟨rfl, rfl, rfl, rfl, rfl, rfl, rfl, rfl, rfl, rfl, rfl, rfl, rfl, rfl, rfl, rfl, rfl, rfl, rfl, rfl, rfl, rfl, rfl, rfl, rfl, rfl, rfl, rfl, rfl, rfl, rfl, rfl⟩

/-- `die` changes dies alone: what is read. -/
@[simp] theorem ap_die_reads (d : Nat) (v : Die) :
    (∀ b' i' o', ((Eff.die d v).ap s).reg b' i' o' = s.reg b' i' o') ∧
    (∀ a', ((Eff.die d v).ap s).byte a' = s.byte a') ∧
    (∀ c', ((Eff.die d v).ap s).core c' = s.core c') ∧
    (∀ t', ((Eff.die d v).ap s).cell t' = s.cell t') ∧
    (∀ t', ((Eff.die d v).ap s).conv t' = s.conv t') ∧
    (∀ k', ((Eff.die d v).ap s).link k' = s.link k') ∧
    (∀ k', ((Eff.die d v).ap s).treeTab k' = s.treeTab k') ∧
    (∀ k', ((Eff.die d v).ap s).flits k' = s.flits k') ∧
    (∀ i', ((Eff.die d v).ap s).win i' = s.win i') ∧
    (∀ i', ((Eff.die d v).ap s).passage i' = s.passage i') ∧
    (∀ p', ((Eff.die d v).ap s).job p' = s.job p') ∧
    (∀ p', ((Eff.die d v).ap s).slice p' = s.slice p') ∧
    (∀ n', ((Eff.die d v).ap s).bfpLink n' = s.bfpLink n') ∧
    (∀ n', ((Eff.die d v).ap s).port n' = s.port n') ∧
    (∀ d', ((Eff.die d v).ap s).filter d' = s.filter d') ∧
    (∀ k', ((Eff.die d v).ap s).sensor k' = s.sensor k') :=
  ⟨fun _ _ _ => rfl, fun _ => rfl, fun _ => rfl, fun _ => rfl, fun _ => rfl, fun _ => rfl, fun _ => rfl, fun _ => rfl, fun _ => rfl, fun _ => rfl, fun _ => rfl, fun _ => rfl, fun _ => rfl, fun _ => rfl, fun _ => rfl, fun _ => rfl⟩

/-- `link` changes links alone: the fields. -/
@[simp] theorem ap_link_fields (k : Nat) (v : NocLink) :
    ((Eff.link k v).ap s).mile = s.mile ∧ ((Eff.link k v).ap s).posNs = s.posNs ∧ ((Eff.link k v).ap s).regs = s.regs ∧ ((Eff.link k v).ap s).mem = s.mem ∧ ((Eff.link k v).ap s).poison = s.poison ∧ ((Eff.link k v).ap s).cores = s.cores ∧ ((Eff.link k v).ap s).cells = s.cells ∧ ((Eff.link k v).ap s).convs = s.convs ∧ ((Eff.link k v).ap s).dies = s.dies ∧ ((Eff.link k v).ap s).trees = s.trees ∧ ((Eff.link k v).ap s).oldTrees = s.oldTrees ∧ ((Eff.link k v).ap s).flitSel = s.flitSel ∧ ((Eff.link k v).ap s).wins = s.wins ∧ ((Eff.link k v).ap s).passages = s.passages ∧ ((Eff.link k v).ap s).jobs = s.jobs ∧ ((Eff.link k v).ap s).slices = s.slices ∧ ((Eff.link k v).ap s).fabTrees = s.fabTrees ∧ ((Eff.link k v).ap s).bfp = s.bfp ∧ ((Eff.link k v).ap s).colls = s.colls ∧ ((Eff.link k v).ap s).aborted = s.aborted ∧ ((Eff.link k v).ap s).ports = s.ports ∧ ((Eff.link k v).ap s).snoopF = s.snoopF ∧ ((Eff.link k v).ap s).sensors = s.sensors ∧ ((Eff.link k v).ap s).nvm = s.nvm ∧ ((Eff.link k v).ap s).keeper = s.keeper ∧ ((Eff.link k v).ap s).mon = s.mon ∧ ((Eff.link k v).ap s).power = s.power ∧ ((Eff.link k v).ap s).sec = s.sec ∧ ((Eff.link k v).ap s).milestone = s.milestone ∧ ((Eff.link k v).ap s).out = s.out ∧ ((Eff.link k v).ap s).free = s.free ∧ ((Eff.link k v).ap s).pending = s.pending :=
  ⟨rfl, rfl, rfl, rfl, rfl, rfl, rfl, rfl, rfl, rfl, rfl, rfl, rfl, rfl, rfl, rfl, rfl, rfl, rfl, rfl, rfl, rfl, rfl, rfl, rfl, rfl, rfl, rfl, rfl, rfl, rfl, rfl⟩

/-- `link` changes links alone: what is read. -/
@[simp] theorem ap_link_reads (k : Nat) (v : NocLink) :
    (∀ b' i' o', ((Eff.link k v).ap s).reg b' i' o' = s.reg b' i' o') ∧
    (∀ a', ((Eff.link k v).ap s).byte a' = s.byte a') ∧
    (∀ c', ((Eff.link k v).ap s).core c' = s.core c') ∧
    (∀ t', ((Eff.link k v).ap s).cell t' = s.cell t') ∧
    (∀ t', ((Eff.link k v).ap s).conv t' = s.conv t') ∧
    (∀ d', ((Eff.link k v).ap s).die d' = s.die d') ∧
    (∀ k', ((Eff.link k v).ap s).treeTab k' = s.treeTab k') ∧
    (∀ k', ((Eff.link k v).ap s).flits k' = s.flits k') ∧
    (∀ i', ((Eff.link k v).ap s).win i' = s.win i') ∧
    (∀ i', ((Eff.link k v).ap s).passage i' = s.passage i') ∧
    (∀ p', ((Eff.link k v).ap s).job p' = s.job p') ∧
    (∀ p', ((Eff.link k v).ap s).slice p' = s.slice p') ∧
    (∀ n', ((Eff.link k v).ap s).bfpLink n' = s.bfpLink n') ∧
    (∀ n', ((Eff.link k v).ap s).port n' = s.port n') ∧
    (∀ d', ((Eff.link k v).ap s).filter d' = s.filter d') ∧
    (∀ k', ((Eff.link k v).ap s).sensor k' = s.sensor k') :=
  ⟨fun _ _ _ => rfl, fun _ => rfl, fun _ => rfl, fun _ => rfl, fun _ => rfl, fun _ => rfl, fun _ => rfl, fun _ => rfl, fun _ => rfl, fun _ => rfl, fun _ => rfl, fun _ => rfl, fun _ => rfl, fun _ => rfl, fun _ => rfl, fun _ => rfl⟩

/-- `treeTab` changes trees alone: the fields. -/
@[simp] theorem ap_treeTab_fields (k : Nat) (v : List TreeEnt) :
    ((Eff.treeTab k v).ap s).mile = s.mile ∧ ((Eff.treeTab k v).ap s).posNs = s.posNs ∧ ((Eff.treeTab k v).ap s).regs = s.regs ∧ ((Eff.treeTab k v).ap s).mem = s.mem ∧ ((Eff.treeTab k v).ap s).poison = s.poison ∧ ((Eff.treeTab k v).ap s).cores = s.cores ∧ ((Eff.treeTab k v).ap s).cells = s.cells ∧ ((Eff.treeTab k v).ap s).convs = s.convs ∧ ((Eff.treeTab k v).ap s).dies = s.dies ∧ ((Eff.treeTab k v).ap s).links = s.links ∧ ((Eff.treeTab k v).ap s).oldTrees = s.oldTrees ∧ ((Eff.treeTab k v).ap s).flitSel = s.flitSel ∧ ((Eff.treeTab k v).ap s).wins = s.wins ∧ ((Eff.treeTab k v).ap s).passages = s.passages ∧ ((Eff.treeTab k v).ap s).jobs = s.jobs ∧ ((Eff.treeTab k v).ap s).slices = s.slices ∧ ((Eff.treeTab k v).ap s).fabTrees = s.fabTrees ∧ ((Eff.treeTab k v).ap s).bfp = s.bfp ∧ ((Eff.treeTab k v).ap s).colls = s.colls ∧ ((Eff.treeTab k v).ap s).aborted = s.aborted ∧ ((Eff.treeTab k v).ap s).ports = s.ports ∧ ((Eff.treeTab k v).ap s).snoopF = s.snoopF ∧ ((Eff.treeTab k v).ap s).sensors = s.sensors ∧ ((Eff.treeTab k v).ap s).nvm = s.nvm ∧ ((Eff.treeTab k v).ap s).keeper = s.keeper ∧ ((Eff.treeTab k v).ap s).mon = s.mon ∧ ((Eff.treeTab k v).ap s).power = s.power ∧ ((Eff.treeTab k v).ap s).sec = s.sec ∧ ((Eff.treeTab k v).ap s).milestone = s.milestone ∧ ((Eff.treeTab k v).ap s).out = s.out ∧ ((Eff.treeTab k v).ap s).free = s.free ∧ ((Eff.treeTab k v).ap s).pending = s.pending :=
  ⟨rfl, rfl, rfl, rfl, rfl, rfl, rfl, rfl, rfl, rfl, rfl, rfl, rfl, rfl, rfl, rfl, rfl, rfl, rfl, rfl, rfl, rfl, rfl, rfl, rfl, rfl, rfl, rfl, rfl, rfl, rfl, rfl⟩

/-- `treeTab` changes trees alone: what is read. -/
@[simp] theorem ap_treeTab_reads (k : Nat) (v : List TreeEnt) :
    (∀ b' i' o', ((Eff.treeTab k v).ap s).reg b' i' o' = s.reg b' i' o') ∧
    (∀ a', ((Eff.treeTab k v).ap s).byte a' = s.byte a') ∧
    (∀ c', ((Eff.treeTab k v).ap s).core c' = s.core c') ∧
    (∀ t', ((Eff.treeTab k v).ap s).cell t' = s.cell t') ∧
    (∀ t', ((Eff.treeTab k v).ap s).conv t' = s.conv t') ∧
    (∀ d', ((Eff.treeTab k v).ap s).die d' = s.die d') ∧
    (∀ k', ((Eff.treeTab k v).ap s).link k' = s.link k') ∧
    (∀ k', ((Eff.treeTab k v).ap s).flits k' = s.flits k') ∧
    (∀ i', ((Eff.treeTab k v).ap s).win i' = s.win i') ∧
    (∀ i', ((Eff.treeTab k v).ap s).passage i' = s.passage i') ∧
    (∀ p', ((Eff.treeTab k v).ap s).job p' = s.job p') ∧
    (∀ p', ((Eff.treeTab k v).ap s).slice p' = s.slice p') ∧
    (∀ n', ((Eff.treeTab k v).ap s).bfpLink n' = s.bfpLink n') ∧
    (∀ n', ((Eff.treeTab k v).ap s).port n' = s.port n') ∧
    (∀ d', ((Eff.treeTab k v).ap s).filter d' = s.filter d') ∧
    (∀ k', ((Eff.treeTab k v).ap s).sensor k' = s.sensor k') :=
  ⟨fun _ _ _ => rfl, fun _ => rfl, fun _ => rfl, fun _ => rfl, fun _ => rfl, fun _ => rfl, fun _ => rfl, fun _ => rfl, fun _ => rfl, fun _ => rfl, fun _ => rfl, fun _ => rfl, fun _ => rfl, fun _ => rfl, fun _ => rfl, fun _ => rfl⟩

/-- `oldTrees` changes oldTrees alone: the fields. -/
@[simp] theorem ap_oldTrees_fields (l : List OldTree) :
    ((Eff.oldTrees l).ap s).mile = s.mile ∧ ((Eff.oldTrees l).ap s).posNs = s.posNs ∧ ((Eff.oldTrees l).ap s).regs = s.regs ∧ ((Eff.oldTrees l).ap s).mem = s.mem ∧ ((Eff.oldTrees l).ap s).poison = s.poison ∧ ((Eff.oldTrees l).ap s).cores = s.cores ∧ ((Eff.oldTrees l).ap s).cells = s.cells ∧ ((Eff.oldTrees l).ap s).convs = s.convs ∧ ((Eff.oldTrees l).ap s).dies = s.dies ∧ ((Eff.oldTrees l).ap s).links = s.links ∧ ((Eff.oldTrees l).ap s).trees = s.trees ∧ ((Eff.oldTrees l).ap s).flitSel = s.flitSel ∧ ((Eff.oldTrees l).ap s).wins = s.wins ∧ ((Eff.oldTrees l).ap s).passages = s.passages ∧ ((Eff.oldTrees l).ap s).jobs = s.jobs ∧ ((Eff.oldTrees l).ap s).slices = s.slices ∧ ((Eff.oldTrees l).ap s).fabTrees = s.fabTrees ∧ ((Eff.oldTrees l).ap s).bfp = s.bfp ∧ ((Eff.oldTrees l).ap s).colls = s.colls ∧ ((Eff.oldTrees l).ap s).aborted = s.aborted ∧ ((Eff.oldTrees l).ap s).ports = s.ports ∧ ((Eff.oldTrees l).ap s).snoopF = s.snoopF ∧ ((Eff.oldTrees l).ap s).sensors = s.sensors ∧ ((Eff.oldTrees l).ap s).nvm = s.nvm ∧ ((Eff.oldTrees l).ap s).keeper = s.keeper ∧ ((Eff.oldTrees l).ap s).mon = s.mon ∧ ((Eff.oldTrees l).ap s).power = s.power ∧ ((Eff.oldTrees l).ap s).sec = s.sec ∧ ((Eff.oldTrees l).ap s).milestone = s.milestone ∧ ((Eff.oldTrees l).ap s).out = s.out ∧ ((Eff.oldTrees l).ap s).free = s.free ∧ ((Eff.oldTrees l).ap s).pending = s.pending :=
  ⟨rfl, rfl, rfl, rfl, rfl, rfl, rfl, rfl, rfl, rfl, rfl, rfl, rfl, rfl, rfl, rfl, rfl, rfl, rfl, rfl, rfl, rfl, rfl, rfl, rfl, rfl, rfl, rfl, rfl, rfl, rfl, rfl⟩

/-- `oldTrees` changes oldTrees alone: what is read. -/
@[simp] theorem ap_oldTrees_reads (l : List OldTree) :
    (∀ b' i' o', ((Eff.oldTrees l).ap s).reg b' i' o' = s.reg b' i' o') ∧
    (∀ a', ((Eff.oldTrees l).ap s).byte a' = s.byte a') ∧
    (∀ c', ((Eff.oldTrees l).ap s).core c' = s.core c') ∧
    (∀ t', ((Eff.oldTrees l).ap s).cell t' = s.cell t') ∧
    (∀ t', ((Eff.oldTrees l).ap s).conv t' = s.conv t') ∧
    (∀ d', ((Eff.oldTrees l).ap s).die d' = s.die d') ∧
    (∀ k', ((Eff.oldTrees l).ap s).link k' = s.link k') ∧
    (∀ k', ((Eff.oldTrees l).ap s).treeTab k' = s.treeTab k') ∧
    (∀ k', ((Eff.oldTrees l).ap s).flits k' = s.flits k') ∧
    (∀ i', ((Eff.oldTrees l).ap s).win i' = s.win i') ∧
    (∀ i', ((Eff.oldTrees l).ap s).passage i' = s.passage i') ∧
    (∀ p', ((Eff.oldTrees l).ap s).job p' = s.job p') ∧
    (∀ p', ((Eff.oldTrees l).ap s).slice p' = s.slice p') ∧
    (∀ n', ((Eff.oldTrees l).ap s).bfpLink n' = s.bfpLink n') ∧
    (∀ n', ((Eff.oldTrees l).ap s).port n' = s.port n') ∧
    (∀ d', ((Eff.oldTrees l).ap s).filter d' = s.filter d') ∧
    (∀ k', ((Eff.oldTrees l).ap s).sensor k' = s.sensor k') :=
  ⟨fun _ _ _ => rfl, fun _ => rfl, fun _ => rfl, fun _ => rfl, fun _ => rfl, fun _ => rfl, fun _ => rfl, fun _ => rfl, fun _ => rfl, fun _ => rfl, fun _ => rfl, fun _ => rfl, fun _ => rfl, fun _ => rfl, fun _ => rfl, fun _ => rfl, fun _ => rfl⟩

@[simp] theorem ap_oldTrees_set (l : List OldTree) : ((Eff.oldTrees l).ap s).oldTrees = l := rfl

/-- `flits` changes flitSel alone: the fields. -/
@[simp] theorem ap_flits_fields (k n : Nat) :
    ((Eff.flits k n).ap s).mile = s.mile ∧ ((Eff.flits k n).ap s).posNs = s.posNs ∧ ((Eff.flits k n).ap s).regs = s.regs ∧ ((Eff.flits k n).ap s).mem = s.mem ∧ ((Eff.flits k n).ap s).poison = s.poison ∧ ((Eff.flits k n).ap s).cores = s.cores ∧ ((Eff.flits k n).ap s).cells = s.cells ∧ ((Eff.flits k n).ap s).convs = s.convs ∧ ((Eff.flits k n).ap s).dies = s.dies ∧ ((Eff.flits k n).ap s).links = s.links ∧ ((Eff.flits k n).ap s).trees = s.trees ∧ ((Eff.flits k n).ap s).oldTrees = s.oldTrees ∧ ((Eff.flits k n).ap s).wins = s.wins ∧ ((Eff.flits k n).ap s).passages = s.passages ∧ ((Eff.flits k n).ap s).jobs = s.jobs ∧ ((Eff.flits k n).ap s).slices = s.slices ∧ ((Eff.flits k n).ap s).fabTrees = s.fabTrees ∧ ((Eff.flits k n).ap s).bfp = s.bfp ∧ ((Eff.flits k n).ap s).colls = s.colls ∧ ((Eff.flits k n).ap s).aborted = s.aborted ∧ ((Eff.flits k n).ap s).ports = s.ports ∧ ((Eff.flits k n).ap s).snoopF = s.snoopF ∧ ((Eff.flits k n).ap s).sensors = s.sensors ∧ ((Eff.flits k n).ap s).nvm = s.nvm ∧ ((Eff.flits k n).ap s).keeper = s.keeper ∧ ((Eff.flits k n).ap s).mon = s.mon ∧ ((Eff.flits k n).ap s).power = s.power ∧ ((Eff.flits k n).ap s).sec = s.sec ∧ ((Eff.flits k n).ap s).milestone = s.milestone ∧ ((Eff.flits k n).ap s).out = s.out ∧ ((Eff.flits k n).ap s).free = s.free ∧ ((Eff.flits k n).ap s).pending = s.pending :=
  ⟨rfl, rfl, rfl, rfl, rfl, rfl, rfl, rfl, rfl, rfl, rfl, rfl, rfl, rfl, rfl, rfl, rfl, rfl, rfl, rfl, rfl, rfl, rfl, rfl, rfl, rfl, rfl, rfl, rfl, rfl, rfl, rfl⟩

/-- `flits` changes flitSel alone: what is read. -/
@[simp] theorem ap_flits_reads (k n : Nat) :
    (∀ b' i' o', ((Eff.flits k n).ap s).reg b' i' o' = s.reg b' i' o') ∧
    (∀ a', ((Eff.flits k n).ap s).byte a' = s.byte a') ∧
    (∀ c', ((Eff.flits k n).ap s).core c' = s.core c') ∧
    (∀ t', ((Eff.flits k n).ap s).cell t' = s.cell t') ∧
    (∀ t', ((Eff.flits k n).ap s).conv t' = s.conv t') ∧
    (∀ d', ((Eff.flits k n).ap s).die d' = s.die d') ∧
    (∀ k', ((Eff.flits k n).ap s).link k' = s.link k') ∧
    (∀ k', ((Eff.flits k n).ap s).treeTab k' = s.treeTab k') ∧
    (∀ i', ((Eff.flits k n).ap s).win i' = s.win i') ∧
    (∀ i', ((Eff.flits k n).ap s).passage i' = s.passage i') ∧
    (∀ p', ((Eff.flits k n).ap s).job p' = s.job p') ∧
    (∀ p', ((Eff.flits k n).ap s).slice p' = s.slice p') ∧
    (∀ n', ((Eff.flits k n).ap s).bfpLink n' = s.bfpLink n') ∧
    (∀ n', ((Eff.flits k n).ap s).port n' = s.port n') ∧
    (∀ d', ((Eff.flits k n).ap s).filter d' = s.filter d') ∧
    (∀ k', ((Eff.flits k n).ap s).sensor k' = s.sensor k') :=
  ⟨fun _ _ _ => rfl, fun _ => rfl, fun _ => rfl, fun _ => rfl, fun _ => rfl, fun _ => rfl, fun _ => rfl, fun _ => rfl, fun _ => rfl, fun _ => rfl, fun _ => rfl, fun _ => rfl, fun _ => rfl, fun _ => rfl, fun _ => rfl, fun _ => rfl⟩

/-- `win` changes wins alone: the fields. -/
@[simp] theorem ap_win_fields (i : Nat) (v : Win) :
    ((Eff.win i v).ap s).mile = s.mile ∧ ((Eff.win i v).ap s).posNs = s.posNs ∧ ((Eff.win i v).ap s).regs = s.regs ∧ ((Eff.win i v).ap s).mem = s.mem ∧ ((Eff.win i v).ap s).poison = s.poison ∧ ((Eff.win i v).ap s).cores = s.cores ∧ ((Eff.win i v).ap s).cells = s.cells ∧ ((Eff.win i v).ap s).convs = s.convs ∧ ((Eff.win i v).ap s).dies = s.dies ∧ ((Eff.win i v).ap s).links = s.links ∧ ((Eff.win i v).ap s).trees = s.trees ∧ ((Eff.win i v).ap s).oldTrees = s.oldTrees ∧ ((Eff.win i v).ap s).flitSel = s.flitSel ∧ ((Eff.win i v).ap s).passages = s.passages ∧ ((Eff.win i v).ap s).jobs = s.jobs ∧ ((Eff.win i v).ap s).slices = s.slices ∧ ((Eff.win i v).ap s).fabTrees = s.fabTrees ∧ ((Eff.win i v).ap s).bfp = s.bfp ∧ ((Eff.win i v).ap s).colls = s.colls ∧ ((Eff.win i v).ap s).aborted = s.aborted ∧ ((Eff.win i v).ap s).ports = s.ports ∧ ((Eff.win i v).ap s).snoopF = s.snoopF ∧ ((Eff.win i v).ap s).sensors = s.sensors ∧ ((Eff.win i v).ap s).nvm = s.nvm ∧ ((Eff.win i v).ap s).keeper = s.keeper ∧ ((Eff.win i v).ap s).mon = s.mon ∧ ((Eff.win i v).ap s).power = s.power ∧ ((Eff.win i v).ap s).sec = s.sec ∧ ((Eff.win i v).ap s).milestone = s.milestone ∧ ((Eff.win i v).ap s).out = s.out ∧ ((Eff.win i v).ap s).free = s.free ∧ ((Eff.win i v).ap s).pending = s.pending :=
  ⟨rfl, rfl, rfl, rfl, rfl, rfl, rfl, rfl, rfl, rfl, rfl, rfl, rfl, rfl, rfl, rfl, rfl, rfl, rfl, rfl, rfl, rfl, rfl, rfl, rfl, rfl, rfl, rfl, rfl, rfl, rfl, rfl⟩

/-- `win` changes wins alone: what is read. -/
@[simp] theorem ap_win_reads (i : Nat) (v : Win) :
    (∀ b' i' o', ((Eff.win i v).ap s).reg b' i' o' = s.reg b' i' o') ∧
    (∀ a', ((Eff.win i v).ap s).byte a' = s.byte a') ∧
    (∀ c', ((Eff.win i v).ap s).core c' = s.core c') ∧
    (∀ t', ((Eff.win i v).ap s).cell t' = s.cell t') ∧
    (∀ t', ((Eff.win i v).ap s).conv t' = s.conv t') ∧
    (∀ d', ((Eff.win i v).ap s).die d' = s.die d') ∧
    (∀ k', ((Eff.win i v).ap s).link k' = s.link k') ∧
    (∀ k', ((Eff.win i v).ap s).treeTab k' = s.treeTab k') ∧
    (∀ k', ((Eff.win i v).ap s).flits k' = s.flits k') ∧
    (∀ i', ((Eff.win i v).ap s).passage i' = s.passage i') ∧
    (∀ p', ((Eff.win i v).ap s).job p' = s.job p') ∧
    (∀ p', ((Eff.win i v).ap s).slice p' = s.slice p') ∧
    (∀ n', ((Eff.win i v).ap s).bfpLink n' = s.bfpLink n') ∧
    (∀ n', ((Eff.win i v).ap s).port n' = s.port n') ∧
    (∀ d', ((Eff.win i v).ap s).filter d' = s.filter d') ∧
    (∀ k', ((Eff.win i v).ap s).sensor k' = s.sensor k') :=
  ⟨fun _ _ _ => rfl, fun _ => rfl, fun _ => rfl, fun _ => rfl, fun _ => rfl, fun _ => rfl, fun _ => rfl, fun _ => rfl, fun _ => rfl, fun _ => rfl, fun _ => rfl, fun _ => rfl, fun _ => rfl, fun _ => rfl, fun _ => rfl, fun _ => rfl⟩

/-- `passage` changes passages alone: the fields. -/
@[simp] theorem ap_passage_fields (i : Nat) (v : Passage) :
    ((Eff.passage i v).ap s).mile = s.mile ∧ ((Eff.passage i v).ap s).posNs = s.posNs ∧ ((Eff.passage i v).ap s).regs = s.regs ∧ ((Eff.passage i v).ap s).mem = s.mem ∧ ((Eff.passage i v).ap s).poison = s.poison ∧ ((Eff.passage i v).ap s).cores = s.cores ∧ ((Eff.passage i v).ap s).cells = s.cells ∧ ((Eff.passage i v).ap s).convs = s.convs ∧ ((Eff.passage i v).ap s).dies = s.dies ∧ ((Eff.passage i v).ap s).links = s.links ∧ ((Eff.passage i v).ap s).trees = s.trees ∧ ((Eff.passage i v).ap s).oldTrees = s.oldTrees ∧ ((Eff.passage i v).ap s).flitSel = s.flitSel ∧ ((Eff.passage i v).ap s).wins = s.wins ∧ ((Eff.passage i v).ap s).jobs = s.jobs ∧ ((Eff.passage i v).ap s).slices = s.slices ∧ ((Eff.passage i v).ap s).fabTrees = s.fabTrees ∧ ((Eff.passage i v).ap s).bfp = s.bfp ∧ ((Eff.passage i v).ap s).colls = s.colls ∧ ((Eff.passage i v).ap s).aborted = s.aborted ∧ ((Eff.passage i v).ap s).ports = s.ports ∧ ((Eff.passage i v).ap s).snoopF = s.snoopF ∧ ((Eff.passage i v).ap s).sensors = s.sensors ∧ ((Eff.passage i v).ap s).nvm = s.nvm ∧ ((Eff.passage i v).ap s).keeper = s.keeper ∧ ((Eff.passage i v).ap s).mon = s.mon ∧ ((Eff.passage i v).ap s).power = s.power ∧ ((Eff.passage i v).ap s).sec = s.sec ∧ ((Eff.passage i v).ap s).milestone = s.milestone ∧ ((Eff.passage i v).ap s).out = s.out ∧ ((Eff.passage i v).ap s).free = s.free ∧ ((Eff.passage i v).ap s).pending = s.pending :=
  ⟨rfl, rfl, rfl, rfl, rfl, rfl, rfl, rfl, rfl, rfl, rfl, rfl, rfl, rfl, rfl, rfl, rfl, rfl, rfl, rfl, rfl, rfl, rfl, rfl, rfl, rfl, rfl, rfl, rfl, rfl, rfl, rfl⟩

/-- `passage` changes passages alone: what is read. -/
@[simp] theorem ap_passage_reads (i : Nat) (v : Passage) :
    (∀ b' i' o', ((Eff.passage i v).ap s).reg b' i' o' = s.reg b' i' o') ∧
    (∀ a', ((Eff.passage i v).ap s).byte a' = s.byte a') ∧
    (∀ c', ((Eff.passage i v).ap s).core c' = s.core c') ∧
    (∀ t', ((Eff.passage i v).ap s).cell t' = s.cell t') ∧
    (∀ t', ((Eff.passage i v).ap s).conv t' = s.conv t') ∧
    (∀ d', ((Eff.passage i v).ap s).die d' = s.die d') ∧
    (∀ k', ((Eff.passage i v).ap s).link k' = s.link k') ∧
    (∀ k', ((Eff.passage i v).ap s).treeTab k' = s.treeTab k') ∧
    (∀ k', ((Eff.passage i v).ap s).flits k' = s.flits k') ∧
    (∀ i', ((Eff.passage i v).ap s).win i' = s.win i') ∧
    (∀ p', ((Eff.passage i v).ap s).job p' = s.job p') ∧
    (∀ p', ((Eff.passage i v).ap s).slice p' = s.slice p') ∧
    (∀ n', ((Eff.passage i v).ap s).bfpLink n' = s.bfpLink n') ∧
    (∀ n', ((Eff.passage i v).ap s).port n' = s.port n') ∧
    (∀ d', ((Eff.passage i v).ap s).filter d' = s.filter d') ∧
    (∀ k', ((Eff.passage i v).ap s).sensor k' = s.sensor k') :=
  ⟨fun _ _ _ => rfl, fun _ => rfl, fun _ => rfl, fun _ => rfl, fun _ => rfl, fun _ => rfl, fun _ => rfl, fun _ => rfl, fun _ => rfl, fun _ => rfl, fun _ => rfl, fun _ => rfl, fun _ => rfl, fun _ => rfl, fun _ => rfl, fun _ => rfl⟩

/-- `job` changes jobs alone: the fields. -/
@[simp] theorem ap_job_fields (p : Nat) (v : Job) :
    ((Eff.job p v).ap s).mile = s.mile ∧ ((Eff.job p v).ap s).posNs = s.posNs ∧ ((Eff.job p v).ap s).regs = s.regs ∧ ((Eff.job p v).ap s).mem = s.mem ∧ ((Eff.job p v).ap s).poison = s.poison ∧ ((Eff.job p v).ap s).cores = s.cores ∧ ((Eff.job p v).ap s).cells = s.cells ∧ ((Eff.job p v).ap s).convs = s.convs ∧ ((Eff.job p v).ap s).dies = s.dies ∧ ((Eff.job p v).ap s).links = s.links ∧ ((Eff.job p v).ap s).trees = s.trees ∧ ((Eff.job p v).ap s).oldTrees = s.oldTrees ∧ ((Eff.job p v).ap s).flitSel = s.flitSel ∧ ((Eff.job p v).ap s).wins = s.wins ∧ ((Eff.job p v).ap s).passages = s.passages ∧ ((Eff.job p v).ap s).slices = s.slices ∧ ((Eff.job p v).ap s).fabTrees = s.fabTrees ∧ ((Eff.job p v).ap s).bfp = s.bfp ∧ ((Eff.job p v).ap s).colls = s.colls ∧ ((Eff.job p v).ap s).aborted = s.aborted ∧ ((Eff.job p v).ap s).ports = s.ports ∧ ((Eff.job p v).ap s).snoopF = s.snoopF ∧ ((Eff.job p v).ap s).sensors = s.sensors ∧ ((Eff.job p v).ap s).nvm = s.nvm ∧ ((Eff.job p v).ap s).keeper = s.keeper ∧ ((Eff.job p v).ap s).mon = s.mon ∧ ((Eff.job p v).ap s).power = s.power ∧ ((Eff.job p v).ap s).sec = s.sec ∧ ((Eff.job p v).ap s).milestone = s.milestone ∧ ((Eff.job p v).ap s).out = s.out ∧ ((Eff.job p v).ap s).free = s.free ∧ ((Eff.job p v).ap s).pending = s.pending :=
  ⟨rfl, rfl, rfl, rfl, rfl, rfl, rfl, rfl, rfl, rfl, rfl, rfl, rfl, rfl, rfl, rfl, rfl, rfl, rfl, rfl, rfl, rfl, rfl, rfl, rfl, rfl, rfl, rfl, rfl, rfl, rfl, rfl⟩

/-- `job` changes jobs alone: what is read. -/
@[simp] theorem ap_job_reads (p : Nat) (v : Job) :
    (∀ b' i' o', ((Eff.job p v).ap s).reg b' i' o' = s.reg b' i' o') ∧
    (∀ a', ((Eff.job p v).ap s).byte a' = s.byte a') ∧
    (∀ c', ((Eff.job p v).ap s).core c' = s.core c') ∧
    (∀ t', ((Eff.job p v).ap s).cell t' = s.cell t') ∧
    (∀ t', ((Eff.job p v).ap s).conv t' = s.conv t') ∧
    (∀ d', ((Eff.job p v).ap s).die d' = s.die d') ∧
    (∀ k', ((Eff.job p v).ap s).link k' = s.link k') ∧
    (∀ k', ((Eff.job p v).ap s).treeTab k' = s.treeTab k') ∧
    (∀ k', ((Eff.job p v).ap s).flits k' = s.flits k') ∧
    (∀ i', ((Eff.job p v).ap s).win i' = s.win i') ∧
    (∀ i', ((Eff.job p v).ap s).passage i' = s.passage i') ∧
    (∀ p', ((Eff.job p v).ap s).slice p' = s.slice p') ∧
    (∀ n', ((Eff.job p v).ap s).bfpLink n' = s.bfpLink n') ∧
    (∀ n', ((Eff.job p v).ap s).port n' = s.port n') ∧
    (∀ d', ((Eff.job p v).ap s).filter d' = s.filter d') ∧
    (∀ k', ((Eff.job p v).ap s).sensor k' = s.sensor k') :=
  ⟨fun _ _ _ => rfl, fun _ => rfl, fun _ => rfl, fun _ => rfl, fun _ => rfl, fun _ => rfl, fun _ => rfl, fun _ => rfl, fun _ => rfl, fun _ => rfl, fun _ => rfl, fun _ => rfl, fun _ => rfl, fun _ => rfl, fun _ => rfl, fun _ => rfl⟩

/-- `slice` changes slices alone: the fields. -/
@[simp] theorem ap_slice_fields (p : Nat) (v : Slice) :
    ((Eff.slice p v).ap s).mile = s.mile ∧ ((Eff.slice p v).ap s).posNs = s.posNs ∧ ((Eff.slice p v).ap s).regs = s.regs ∧ ((Eff.slice p v).ap s).mem = s.mem ∧ ((Eff.slice p v).ap s).poison = s.poison ∧ ((Eff.slice p v).ap s).cores = s.cores ∧ ((Eff.slice p v).ap s).cells = s.cells ∧ ((Eff.slice p v).ap s).convs = s.convs ∧ ((Eff.slice p v).ap s).dies = s.dies ∧ ((Eff.slice p v).ap s).links = s.links ∧ ((Eff.slice p v).ap s).trees = s.trees ∧ ((Eff.slice p v).ap s).oldTrees = s.oldTrees ∧ ((Eff.slice p v).ap s).flitSel = s.flitSel ∧ ((Eff.slice p v).ap s).wins = s.wins ∧ ((Eff.slice p v).ap s).passages = s.passages ∧ ((Eff.slice p v).ap s).jobs = s.jobs ∧ ((Eff.slice p v).ap s).fabTrees = s.fabTrees ∧ ((Eff.slice p v).ap s).bfp = s.bfp ∧ ((Eff.slice p v).ap s).colls = s.colls ∧ ((Eff.slice p v).ap s).aborted = s.aborted ∧ ((Eff.slice p v).ap s).ports = s.ports ∧ ((Eff.slice p v).ap s).snoopF = s.snoopF ∧ ((Eff.slice p v).ap s).sensors = s.sensors ∧ ((Eff.slice p v).ap s).nvm = s.nvm ∧ ((Eff.slice p v).ap s).keeper = s.keeper ∧ ((Eff.slice p v).ap s).mon = s.mon ∧ ((Eff.slice p v).ap s).power = s.power ∧ ((Eff.slice p v).ap s).sec = s.sec ∧ ((Eff.slice p v).ap s).milestone = s.milestone ∧ ((Eff.slice p v).ap s).out = s.out ∧ ((Eff.slice p v).ap s).free = s.free ∧ ((Eff.slice p v).ap s).pending = s.pending :=
  ⟨rfl, rfl, rfl, rfl, rfl, rfl, rfl, rfl, rfl, rfl, rfl, rfl, rfl, rfl, rfl, rfl, rfl, rfl, rfl, rfl, rfl, rfl, rfl, rfl, rfl, rfl, rfl, rfl, rfl, rfl, rfl, rfl⟩

/-- `slice` changes slices alone: what is read. -/
@[simp] theorem ap_slice_reads (p : Nat) (v : Slice) :
    (∀ b' i' o', ((Eff.slice p v).ap s).reg b' i' o' = s.reg b' i' o') ∧
    (∀ a', ((Eff.slice p v).ap s).byte a' = s.byte a') ∧
    (∀ c', ((Eff.slice p v).ap s).core c' = s.core c') ∧
    (∀ t', ((Eff.slice p v).ap s).cell t' = s.cell t') ∧
    (∀ t', ((Eff.slice p v).ap s).conv t' = s.conv t') ∧
    (∀ d', ((Eff.slice p v).ap s).die d' = s.die d') ∧
    (∀ k', ((Eff.slice p v).ap s).link k' = s.link k') ∧
    (∀ k', ((Eff.slice p v).ap s).treeTab k' = s.treeTab k') ∧
    (∀ k', ((Eff.slice p v).ap s).flits k' = s.flits k') ∧
    (∀ i', ((Eff.slice p v).ap s).win i' = s.win i') ∧
    (∀ i', ((Eff.slice p v).ap s).passage i' = s.passage i') ∧
    (∀ p', ((Eff.slice p v).ap s).job p' = s.job p') ∧
    (∀ n', ((Eff.slice p v).ap s).bfpLink n' = s.bfpLink n') ∧
    (∀ n', ((Eff.slice p v).ap s).port n' = s.port n') ∧
    (∀ d', ((Eff.slice p v).ap s).filter d' = s.filter d') ∧
    (∀ k', ((Eff.slice p v).ap s).sensor k' = s.sensor k') :=
  ⟨fun _ _ _ => rfl, fun _ => rfl, fun _ => rfl, fun _ => rfl, fun _ => rfl, fun _ => rfl, fun _ => rfl, fun _ => rfl, fun _ => rfl, fun _ => rfl, fun _ => rfl, fun _ => rfl, fun _ => rfl, fun _ => rfl, fun _ => rfl, fun _ => rfl⟩

/-- `fabTrees` changes fabTrees alone: the fields. -/
@[simp] theorem ap_fabTrees_fields (l : List FabTree) :
    ((Eff.fabTrees l).ap s).mile = s.mile ∧ ((Eff.fabTrees l).ap s).posNs = s.posNs ∧ ((Eff.fabTrees l).ap s).regs = s.regs ∧ ((Eff.fabTrees l).ap s).mem = s.mem ∧ ((Eff.fabTrees l).ap s).poison = s.poison ∧ ((Eff.fabTrees l).ap s).cores = s.cores ∧ ((Eff.fabTrees l).ap s).cells = s.cells ∧ ((Eff.fabTrees l).ap s).convs = s.convs ∧ ((Eff.fabTrees l).ap s).dies = s.dies ∧ ((Eff.fabTrees l).ap s).links = s.links ∧ ((Eff.fabTrees l).ap s).trees = s.trees ∧ ((Eff.fabTrees l).ap s).oldTrees = s.oldTrees ∧ ((Eff.fabTrees l).ap s).flitSel = s.flitSel ∧ ((Eff.fabTrees l).ap s).wins = s.wins ∧ ((Eff.fabTrees l).ap s).passages = s.passages ∧ ((Eff.fabTrees l).ap s).jobs = s.jobs ∧ ((Eff.fabTrees l).ap s).slices = s.slices ∧ ((Eff.fabTrees l).ap s).bfp = s.bfp ∧ ((Eff.fabTrees l).ap s).colls = s.colls ∧ ((Eff.fabTrees l).ap s).aborted = s.aborted ∧ ((Eff.fabTrees l).ap s).ports = s.ports ∧ ((Eff.fabTrees l).ap s).snoopF = s.snoopF ∧ ((Eff.fabTrees l).ap s).sensors = s.sensors ∧ ((Eff.fabTrees l).ap s).nvm = s.nvm ∧ ((Eff.fabTrees l).ap s).keeper = s.keeper ∧ ((Eff.fabTrees l).ap s).mon = s.mon ∧ ((Eff.fabTrees l).ap s).power = s.power ∧ ((Eff.fabTrees l).ap s).sec = s.sec ∧ ((Eff.fabTrees l).ap s).milestone = s.milestone ∧ ((Eff.fabTrees l).ap s).out = s.out ∧ ((Eff.fabTrees l).ap s).free = s.free ∧ ((Eff.fabTrees l).ap s).pending = s.pending :=
  ⟨rfl, rfl, rfl, rfl, rfl, rfl, rfl, rfl, rfl, rfl, rfl, rfl, rfl, rfl, rfl, rfl, rfl, rfl, rfl, rfl, rfl, rfl, rfl, rfl, rfl, rfl, rfl, rfl, rfl, rfl, rfl, rfl⟩

/-- `fabTrees` changes fabTrees alone: what is read. -/
@[simp] theorem ap_fabTrees_reads (l : List FabTree) :
    (∀ b' i' o', ((Eff.fabTrees l).ap s).reg b' i' o' = s.reg b' i' o') ∧
    (∀ a', ((Eff.fabTrees l).ap s).byte a' = s.byte a') ∧
    (∀ c', ((Eff.fabTrees l).ap s).core c' = s.core c') ∧
    (∀ t', ((Eff.fabTrees l).ap s).cell t' = s.cell t') ∧
    (∀ t', ((Eff.fabTrees l).ap s).conv t' = s.conv t') ∧
    (∀ d', ((Eff.fabTrees l).ap s).die d' = s.die d') ∧
    (∀ k', ((Eff.fabTrees l).ap s).link k' = s.link k') ∧
    (∀ k', ((Eff.fabTrees l).ap s).treeTab k' = s.treeTab k') ∧
    (∀ k', ((Eff.fabTrees l).ap s).flits k' = s.flits k') ∧
    (∀ i', ((Eff.fabTrees l).ap s).win i' = s.win i') ∧
    (∀ i', ((Eff.fabTrees l).ap s).passage i' = s.passage i') ∧
    (∀ p', ((Eff.fabTrees l).ap s).job p' = s.job p') ∧
    (∀ p', ((Eff.fabTrees l).ap s).slice p' = s.slice p') ∧
    (∀ n', ((Eff.fabTrees l).ap s).bfpLink n' = s.bfpLink n') ∧
    (∀ n', ((Eff.fabTrees l).ap s).port n' = s.port n') ∧
    (∀ d', ((Eff.fabTrees l).ap s).filter d' = s.filter d') ∧
    (∀ k', ((Eff.fabTrees l).ap s).sensor k' = s.sensor k') :=
  ⟨fun _ _ _ => rfl, fun _ => rfl, fun _ => rfl, fun _ => rfl, fun _ => rfl, fun _ => rfl, fun _ => rfl, fun _ => rfl, fun _ => rfl, fun _ => rfl, fun _ => rfl, fun _ => rfl, fun _ => rfl, fun _ => rfl, fun _ => rfl, fun _ => rfl, fun _ => rfl⟩

@[simp] theorem ap_fabTrees_set (l : List FabTree) : ((Eff.fabTrees l).ap s).fabTrees = l := rfl

/-- `bfpLink` changes bfp alone: the fields. -/
@[simp] theorem ap_bfpLink_fields (n : Nat) (v : BfpLink) :
    ((Eff.bfpLink n v).ap s).mile = s.mile ∧ ((Eff.bfpLink n v).ap s).posNs = s.posNs ∧ ((Eff.bfpLink n v).ap s).regs = s.regs ∧ ((Eff.bfpLink n v).ap s).mem = s.mem ∧ ((Eff.bfpLink n v).ap s).poison = s.poison ∧ ((Eff.bfpLink n v).ap s).cores = s.cores ∧ ((Eff.bfpLink n v).ap s).cells = s.cells ∧ ((Eff.bfpLink n v).ap s).convs = s.convs ∧ ((Eff.bfpLink n v).ap s).dies = s.dies ∧ ((Eff.bfpLink n v).ap s).links = s.links ∧ ((Eff.bfpLink n v).ap s).trees = s.trees ∧ ((Eff.bfpLink n v).ap s).oldTrees = s.oldTrees ∧ ((Eff.bfpLink n v).ap s).flitSel = s.flitSel ∧ ((Eff.bfpLink n v).ap s).wins = s.wins ∧ ((Eff.bfpLink n v).ap s).passages = s.passages ∧ ((Eff.bfpLink n v).ap s).jobs = s.jobs ∧ ((Eff.bfpLink n v).ap s).slices = s.slices ∧ ((Eff.bfpLink n v).ap s).fabTrees = s.fabTrees ∧ ((Eff.bfpLink n v).ap s).colls = s.colls ∧ ((Eff.bfpLink n v).ap s).aborted = s.aborted ∧ ((Eff.bfpLink n v).ap s).ports = s.ports ∧ ((Eff.bfpLink n v).ap s).snoopF = s.snoopF ∧ ((Eff.bfpLink n v).ap s).sensors = s.sensors ∧ ((Eff.bfpLink n v).ap s).nvm = s.nvm ∧ ((Eff.bfpLink n v).ap s).keeper = s.keeper ∧ ((Eff.bfpLink n v).ap s).mon = s.mon ∧ ((Eff.bfpLink n v).ap s).power = s.power ∧ ((Eff.bfpLink n v).ap s).sec = s.sec ∧ ((Eff.bfpLink n v).ap s).milestone = s.milestone ∧ ((Eff.bfpLink n v).ap s).out = s.out ∧ ((Eff.bfpLink n v).ap s).free = s.free ∧ ((Eff.bfpLink n v).ap s).pending = s.pending :=
  ⟨rfl, rfl, rfl, rfl, rfl, rfl, rfl, rfl, rfl, rfl, rfl, rfl, rfl, rfl, rfl, rfl, rfl, rfl, rfl, rfl, rfl, rfl, rfl, rfl, rfl, rfl, rfl, rfl, rfl, rfl, rfl, rfl⟩

/-- `bfpLink` changes bfp alone: what is read. -/
@[simp] theorem ap_bfpLink_reads (n : Nat) (v : BfpLink) :
    (∀ b' i' o', ((Eff.bfpLink n v).ap s).reg b' i' o' = s.reg b' i' o') ∧
    (∀ a', ((Eff.bfpLink n v).ap s).byte a' = s.byte a') ∧
    (∀ c', ((Eff.bfpLink n v).ap s).core c' = s.core c') ∧
    (∀ t', ((Eff.bfpLink n v).ap s).cell t' = s.cell t') ∧
    (∀ t', ((Eff.bfpLink n v).ap s).conv t' = s.conv t') ∧
    (∀ d', ((Eff.bfpLink n v).ap s).die d' = s.die d') ∧
    (∀ k', ((Eff.bfpLink n v).ap s).link k' = s.link k') ∧
    (∀ k', ((Eff.bfpLink n v).ap s).treeTab k' = s.treeTab k') ∧
    (∀ k', ((Eff.bfpLink n v).ap s).flits k' = s.flits k') ∧
    (∀ i', ((Eff.bfpLink n v).ap s).win i' = s.win i') ∧
    (∀ i', ((Eff.bfpLink n v).ap s).passage i' = s.passage i') ∧
    (∀ p', ((Eff.bfpLink n v).ap s).job p' = s.job p') ∧
    (∀ p', ((Eff.bfpLink n v).ap s).slice p' = s.slice p') ∧
    (∀ n', ((Eff.bfpLink n v).ap s).port n' = s.port n') ∧
    (∀ d', ((Eff.bfpLink n v).ap s).filter d' = s.filter d') ∧
    (∀ k', ((Eff.bfpLink n v).ap s).sensor k' = s.sensor k') :=
  ⟨fun _ _ _ => rfl, fun _ => rfl, fun _ => rfl, fun _ => rfl, fun _ => rfl, fun _ => rfl, fun _ => rfl, fun _ => rfl, fun _ => rfl, fun _ => rfl, fun _ => rfl, fun _ => rfl, fun _ => rfl, fun _ => rfl, fun _ => rfl, fun _ => rfl⟩

/-- `colls` changes colls alone: the fields. -/
@[simp] theorem ap_colls_fields (l : List Coll) :
    ((Eff.colls l).ap s).mile = s.mile ∧ ((Eff.colls l).ap s).posNs = s.posNs ∧ ((Eff.colls l).ap s).regs = s.regs ∧ ((Eff.colls l).ap s).mem = s.mem ∧ ((Eff.colls l).ap s).poison = s.poison ∧ ((Eff.colls l).ap s).cores = s.cores ∧ ((Eff.colls l).ap s).cells = s.cells ∧ ((Eff.colls l).ap s).convs = s.convs ∧ ((Eff.colls l).ap s).dies = s.dies ∧ ((Eff.colls l).ap s).links = s.links ∧ ((Eff.colls l).ap s).trees = s.trees ∧ ((Eff.colls l).ap s).oldTrees = s.oldTrees ∧ ((Eff.colls l).ap s).flitSel = s.flitSel ∧ ((Eff.colls l).ap s).wins = s.wins ∧ ((Eff.colls l).ap s).passages = s.passages ∧ ((Eff.colls l).ap s).jobs = s.jobs ∧ ((Eff.colls l).ap s).slices = s.slices ∧ ((Eff.colls l).ap s).fabTrees = s.fabTrees ∧ ((Eff.colls l).ap s).bfp = s.bfp ∧ ((Eff.colls l).ap s).aborted = s.aborted ∧ ((Eff.colls l).ap s).ports = s.ports ∧ ((Eff.colls l).ap s).snoopF = s.snoopF ∧ ((Eff.colls l).ap s).sensors = s.sensors ∧ ((Eff.colls l).ap s).nvm = s.nvm ∧ ((Eff.colls l).ap s).keeper = s.keeper ∧ ((Eff.colls l).ap s).mon = s.mon ∧ ((Eff.colls l).ap s).power = s.power ∧ ((Eff.colls l).ap s).sec = s.sec ∧ ((Eff.colls l).ap s).milestone = s.milestone ∧ ((Eff.colls l).ap s).out = s.out ∧ ((Eff.colls l).ap s).free = s.free ∧ ((Eff.colls l).ap s).pending = s.pending :=
  ⟨rfl, rfl, rfl, rfl, rfl, rfl, rfl, rfl, rfl, rfl, rfl, rfl, rfl, rfl, rfl, rfl, rfl, rfl, rfl, rfl, rfl, rfl, rfl, rfl, rfl, rfl, rfl, rfl, rfl, rfl, rfl, rfl⟩

/-- `colls` changes colls alone: what is read. -/
@[simp] theorem ap_colls_reads (l : List Coll) :
    (∀ b' i' o', ((Eff.colls l).ap s).reg b' i' o' = s.reg b' i' o') ∧
    (∀ a', ((Eff.colls l).ap s).byte a' = s.byte a') ∧
    (∀ c', ((Eff.colls l).ap s).core c' = s.core c') ∧
    (∀ t', ((Eff.colls l).ap s).cell t' = s.cell t') ∧
    (∀ t', ((Eff.colls l).ap s).conv t' = s.conv t') ∧
    (∀ d', ((Eff.colls l).ap s).die d' = s.die d') ∧
    (∀ k', ((Eff.colls l).ap s).link k' = s.link k') ∧
    (∀ k', ((Eff.colls l).ap s).treeTab k' = s.treeTab k') ∧
    (∀ k', ((Eff.colls l).ap s).flits k' = s.flits k') ∧
    (∀ i', ((Eff.colls l).ap s).win i' = s.win i') ∧
    (∀ i', ((Eff.colls l).ap s).passage i' = s.passage i') ∧
    (∀ p', ((Eff.colls l).ap s).job p' = s.job p') ∧
    (∀ p', ((Eff.colls l).ap s).slice p' = s.slice p') ∧
    (∀ n', ((Eff.colls l).ap s).bfpLink n' = s.bfpLink n') ∧
    (∀ n', ((Eff.colls l).ap s).port n' = s.port n') ∧
    (∀ d', ((Eff.colls l).ap s).filter d' = s.filter d') ∧
    (∀ k', ((Eff.colls l).ap s).sensor k' = s.sensor k') :=
  ⟨fun _ _ _ => rfl, fun _ => rfl, fun _ => rfl, fun _ => rfl, fun _ => rfl, fun _ => rfl, fun _ => rfl, fun _ => rfl, fun _ => rfl, fun _ => rfl, fun _ => rfl, fun _ => rfl, fun _ => rfl, fun _ => rfl, fun _ => rfl, fun _ => rfl, fun _ => rfl⟩

@[simp] theorem ap_colls_set (l : List Coll) : ((Eff.colls l).ap s).colls = l := rfl

/-- `aborted` changes aborted alone: the fields. -/
@[simp] theorem ap_aborted_fields (l : List Nat) :
    ((Eff.aborted l).ap s).mile = s.mile ∧ ((Eff.aborted l).ap s).posNs = s.posNs ∧ ((Eff.aborted l).ap s).regs = s.regs ∧ ((Eff.aborted l).ap s).mem = s.mem ∧ ((Eff.aborted l).ap s).poison = s.poison ∧ ((Eff.aborted l).ap s).cores = s.cores ∧ ((Eff.aborted l).ap s).cells = s.cells ∧ ((Eff.aborted l).ap s).convs = s.convs ∧ ((Eff.aborted l).ap s).dies = s.dies ∧ ((Eff.aborted l).ap s).links = s.links ∧ ((Eff.aborted l).ap s).trees = s.trees ∧ ((Eff.aborted l).ap s).oldTrees = s.oldTrees ∧ ((Eff.aborted l).ap s).flitSel = s.flitSel ∧ ((Eff.aborted l).ap s).wins = s.wins ∧ ((Eff.aborted l).ap s).passages = s.passages ∧ ((Eff.aborted l).ap s).jobs = s.jobs ∧ ((Eff.aborted l).ap s).slices = s.slices ∧ ((Eff.aborted l).ap s).fabTrees = s.fabTrees ∧ ((Eff.aborted l).ap s).bfp = s.bfp ∧ ((Eff.aborted l).ap s).colls = s.colls ∧ ((Eff.aborted l).ap s).ports = s.ports ∧ ((Eff.aborted l).ap s).snoopF = s.snoopF ∧ ((Eff.aborted l).ap s).sensors = s.sensors ∧ ((Eff.aborted l).ap s).nvm = s.nvm ∧ ((Eff.aborted l).ap s).keeper = s.keeper ∧ ((Eff.aborted l).ap s).mon = s.mon ∧ ((Eff.aborted l).ap s).power = s.power ∧ ((Eff.aborted l).ap s).sec = s.sec ∧ ((Eff.aborted l).ap s).milestone = s.milestone ∧ ((Eff.aborted l).ap s).out = s.out ∧ ((Eff.aborted l).ap s).free = s.free ∧ ((Eff.aborted l).ap s).pending = s.pending :=
  ⟨rfl, rfl, rfl, rfl, rfl, rfl, rfl, rfl, rfl, rfl, rfl, rfl, rfl, rfl, rfl, rfl, rfl, rfl, rfl, rfl, rfl, rfl, rfl, rfl, rfl, rfl, rfl, rfl, rfl, rfl, rfl, rfl⟩

/-- `aborted` changes aborted alone: what is read. -/
@[simp] theorem ap_aborted_reads (l : List Nat) :
    (∀ b' i' o', ((Eff.aborted l).ap s).reg b' i' o' = s.reg b' i' o') ∧
    (∀ a', ((Eff.aborted l).ap s).byte a' = s.byte a') ∧
    (∀ c', ((Eff.aborted l).ap s).core c' = s.core c') ∧
    (∀ t', ((Eff.aborted l).ap s).cell t' = s.cell t') ∧
    (∀ t', ((Eff.aborted l).ap s).conv t' = s.conv t') ∧
    (∀ d', ((Eff.aborted l).ap s).die d' = s.die d') ∧
    (∀ k', ((Eff.aborted l).ap s).link k' = s.link k') ∧
    (∀ k', ((Eff.aborted l).ap s).treeTab k' = s.treeTab k') ∧
    (∀ k', ((Eff.aborted l).ap s).flits k' = s.flits k') ∧
    (∀ i', ((Eff.aborted l).ap s).win i' = s.win i') ∧
    (∀ i', ((Eff.aborted l).ap s).passage i' = s.passage i') ∧
    (∀ p', ((Eff.aborted l).ap s).job p' = s.job p') ∧
    (∀ p', ((Eff.aborted l).ap s).slice p' = s.slice p') ∧
    (∀ n', ((Eff.aborted l).ap s).bfpLink n' = s.bfpLink n') ∧
    (∀ n', ((Eff.aborted l).ap s).port n' = s.port n') ∧
    (∀ d', ((Eff.aborted l).ap s).filter d' = s.filter d') ∧
    (∀ k', ((Eff.aborted l).ap s).sensor k' = s.sensor k') :=
  ⟨fun _ _ _ => rfl, fun _ => rfl, fun _ => rfl, fun _ => rfl, fun _ => rfl, fun _ => rfl, fun _ => rfl, fun _ => rfl, fun _ => rfl, fun _ => rfl, fun _ => rfl, fun _ => rfl, fun _ => rfl, fun _ => rfl, fun _ => rfl, fun _ => rfl, fun _ => rfl⟩

@[simp] theorem ap_aborted_set (l : List Nat) : ((Eff.aborted l).ap s).aborted = l := rfl

/-- `port` changes ports alone: the fields. -/
@[simp] theorem ap_port_fields (n : Nat) (v : TPort) :
    ((Eff.port n v).ap s).mile = s.mile ∧ ((Eff.port n v).ap s).posNs = s.posNs ∧ ((Eff.port n v).ap s).regs = s.regs ∧ ((Eff.port n v).ap s).mem = s.mem ∧ ((Eff.port n v).ap s).poison = s.poison ∧ ((Eff.port n v).ap s).cores = s.cores ∧ ((Eff.port n v).ap s).cells = s.cells ∧ ((Eff.port n v).ap s).convs = s.convs ∧ ((Eff.port n v).ap s).dies = s.dies ∧ ((Eff.port n v).ap s).links = s.links ∧ ((Eff.port n v).ap s).trees = s.trees ∧ ((Eff.port n v).ap s).oldTrees = s.oldTrees ∧ ((Eff.port n v).ap s).flitSel = s.flitSel ∧ ((Eff.port n v).ap s).wins = s.wins ∧ ((Eff.port n v).ap s).passages = s.passages ∧ ((Eff.port n v).ap s).jobs = s.jobs ∧ ((Eff.port n v).ap s).slices = s.slices ∧ ((Eff.port n v).ap s).fabTrees = s.fabTrees ∧ ((Eff.port n v).ap s).bfp = s.bfp ∧ ((Eff.port n v).ap s).colls = s.colls ∧ ((Eff.port n v).ap s).aborted = s.aborted ∧ ((Eff.port n v).ap s).snoopF = s.snoopF ∧ ((Eff.port n v).ap s).sensors = s.sensors ∧ ((Eff.port n v).ap s).nvm = s.nvm ∧ ((Eff.port n v).ap s).keeper = s.keeper ∧ ((Eff.port n v).ap s).mon = s.mon ∧ ((Eff.port n v).ap s).power = s.power ∧ ((Eff.port n v).ap s).sec = s.sec ∧ ((Eff.port n v).ap s).milestone = s.milestone ∧ ((Eff.port n v).ap s).out = s.out ∧ ((Eff.port n v).ap s).free = s.free ∧ ((Eff.port n v).ap s).pending = s.pending :=
  ⟨rfl, rfl, rfl, rfl, rfl, rfl, rfl, rfl, rfl, rfl, rfl, rfl, rfl, rfl, rfl, rfl, rfl, rfl, rfl, rfl, rfl, rfl, rfl, rfl, rfl, rfl, rfl, rfl, rfl, rfl, rfl, rfl⟩

/-- `port` changes ports alone: what is read. -/
@[simp] theorem ap_port_reads (n : Nat) (v : TPort) :
    (∀ b' i' o', ((Eff.port n v).ap s).reg b' i' o' = s.reg b' i' o') ∧
    (∀ a', ((Eff.port n v).ap s).byte a' = s.byte a') ∧
    (∀ c', ((Eff.port n v).ap s).core c' = s.core c') ∧
    (∀ t', ((Eff.port n v).ap s).cell t' = s.cell t') ∧
    (∀ t', ((Eff.port n v).ap s).conv t' = s.conv t') ∧
    (∀ d', ((Eff.port n v).ap s).die d' = s.die d') ∧
    (∀ k', ((Eff.port n v).ap s).link k' = s.link k') ∧
    (∀ k', ((Eff.port n v).ap s).treeTab k' = s.treeTab k') ∧
    (∀ k', ((Eff.port n v).ap s).flits k' = s.flits k') ∧
    (∀ i', ((Eff.port n v).ap s).win i' = s.win i') ∧
    (∀ i', ((Eff.port n v).ap s).passage i' = s.passage i') ∧
    (∀ p', ((Eff.port n v).ap s).job p' = s.job p') ∧
    (∀ p', ((Eff.port n v).ap s).slice p' = s.slice p') ∧
    (∀ n', ((Eff.port n v).ap s).bfpLink n' = s.bfpLink n') ∧
    (∀ d', ((Eff.port n v).ap s).filter d' = s.filter d') ∧
    (∀ k', ((Eff.port n v).ap s).sensor k' = s.sensor k') :=
  ⟨fun _ _ _ => rfl, fun _ => rfl, fun _ => rfl, fun _ => rfl, fun _ => rfl, fun _ => rfl, fun _ => rfl, fun _ => rfl, fun _ => rfl, fun _ => rfl, fun _ => rfl, fun _ => rfl, fun _ => rfl, fun _ => rfl, fun _ => rfl, fun _ => rfl⟩

/-- `filter` changes snoopF alone: the fields. -/
@[simp] theorem ap_filter_fields (d : Nat) (v : List SfEnt) :
    ((Eff.filter d v).ap s).mile = s.mile ∧ ((Eff.filter d v).ap s).posNs = s.posNs ∧ ((Eff.filter d v).ap s).regs = s.regs ∧ ((Eff.filter d v).ap s).mem = s.mem ∧ ((Eff.filter d v).ap s).poison = s.poison ∧ ((Eff.filter d v).ap s).cores = s.cores ∧ ((Eff.filter d v).ap s).cells = s.cells ∧ ((Eff.filter d v).ap s).convs = s.convs ∧ ((Eff.filter d v).ap s).dies = s.dies ∧ ((Eff.filter d v).ap s).links = s.links ∧ ((Eff.filter d v).ap s).trees = s.trees ∧ ((Eff.filter d v).ap s).oldTrees = s.oldTrees ∧ ((Eff.filter d v).ap s).flitSel = s.flitSel ∧ ((Eff.filter d v).ap s).wins = s.wins ∧ ((Eff.filter d v).ap s).passages = s.passages ∧ ((Eff.filter d v).ap s).jobs = s.jobs ∧ ((Eff.filter d v).ap s).slices = s.slices ∧ ((Eff.filter d v).ap s).fabTrees = s.fabTrees ∧ ((Eff.filter d v).ap s).bfp = s.bfp ∧ ((Eff.filter d v).ap s).colls = s.colls ∧ ((Eff.filter d v).ap s).aborted = s.aborted ∧ ((Eff.filter d v).ap s).ports = s.ports ∧ ((Eff.filter d v).ap s).sensors = s.sensors ∧ ((Eff.filter d v).ap s).nvm = s.nvm ∧ ((Eff.filter d v).ap s).keeper = s.keeper ∧ ((Eff.filter d v).ap s).mon = s.mon ∧ ((Eff.filter d v).ap s).power = s.power ∧ ((Eff.filter d v).ap s).sec = s.sec ∧ ((Eff.filter d v).ap s).milestone = s.milestone ∧ ((Eff.filter d v).ap s).out = s.out ∧ ((Eff.filter d v).ap s).free = s.free ∧ ((Eff.filter d v).ap s).pending = s.pending :=
  ⟨rfl, rfl, rfl, rfl, rfl, rfl, rfl, rfl, rfl, rfl, rfl, rfl, rfl, rfl, rfl, rfl, rfl, rfl, rfl, rfl, rfl, rfl, rfl, rfl, rfl, rfl, rfl, rfl, rfl, rfl, rfl, rfl⟩

/-- `filter` changes snoopF alone: what is read. -/
@[simp] theorem ap_filter_reads (d : Nat) (v : List SfEnt) :
    (∀ b' i' o', ((Eff.filter d v).ap s).reg b' i' o' = s.reg b' i' o') ∧
    (∀ a', ((Eff.filter d v).ap s).byte a' = s.byte a') ∧
    (∀ c', ((Eff.filter d v).ap s).core c' = s.core c') ∧
    (∀ t', ((Eff.filter d v).ap s).cell t' = s.cell t') ∧
    (∀ t', ((Eff.filter d v).ap s).conv t' = s.conv t') ∧
    (∀ d', ((Eff.filter d v).ap s).die d' = s.die d') ∧
    (∀ k', ((Eff.filter d v).ap s).link k' = s.link k') ∧
    (∀ k', ((Eff.filter d v).ap s).treeTab k' = s.treeTab k') ∧
    (∀ k', ((Eff.filter d v).ap s).flits k' = s.flits k') ∧
    (∀ i', ((Eff.filter d v).ap s).win i' = s.win i') ∧
    (∀ i', ((Eff.filter d v).ap s).passage i' = s.passage i') ∧
    (∀ p', ((Eff.filter d v).ap s).job p' = s.job p') ∧
    (∀ p', ((Eff.filter d v).ap s).slice p' = s.slice p') ∧
    (∀ n', ((Eff.filter d v).ap s).bfpLink n' = s.bfpLink n') ∧
    (∀ n', ((Eff.filter d v).ap s).port n' = s.port n') ∧
    (∀ k', ((Eff.filter d v).ap s).sensor k' = s.sensor k') :=
  ⟨fun _ _ _ => rfl, fun _ => rfl, fun _ => rfl, fun _ => rfl, fun _ => rfl, fun _ => rfl, fun _ => rfl, fun _ => rfl, fun _ => rfl, fun _ => rfl, fun _ => rfl, fun _ => rfl, fun _ => rfl, fun _ => rfl, fun _ => rfl, fun _ => rfl⟩

/-- `sensor` changes sensors alone: the fields. -/
@[simp] theorem ap_sensor_fields (k : Nat) (v : Sensor) :
    ((Eff.sensor k v).ap s).mile = s.mile ∧ ((Eff.sensor k v).ap s).posNs = s.posNs ∧ ((Eff.sensor k v).ap s).regs = s.regs ∧ ((Eff.sensor k v).ap s).mem = s.mem ∧ ((Eff.sensor k v).ap s).poison = s.poison ∧ ((Eff.sensor k v).ap s).cores = s.cores ∧ ((Eff.sensor k v).ap s).cells = s.cells ∧ ((Eff.sensor k v).ap s).convs = s.convs ∧ ((Eff.sensor k v).ap s).dies = s.dies ∧ ((Eff.sensor k v).ap s).links = s.links ∧ ((Eff.sensor k v).ap s).trees = s.trees ∧ ((Eff.sensor k v).ap s).oldTrees = s.oldTrees ∧ ((Eff.sensor k v).ap s).flitSel = s.flitSel ∧ ((Eff.sensor k v).ap s).wins = s.wins ∧ ((Eff.sensor k v).ap s).passages = s.passages ∧ ((Eff.sensor k v).ap s).jobs = s.jobs ∧ ((Eff.sensor k v).ap s).slices = s.slices ∧ ((Eff.sensor k v).ap s).fabTrees = s.fabTrees ∧ ((Eff.sensor k v).ap s).bfp = s.bfp ∧ ((Eff.sensor k v).ap s).colls = s.colls ∧ ((Eff.sensor k v).ap s).aborted = s.aborted ∧ ((Eff.sensor k v).ap s).ports = s.ports ∧ ((Eff.sensor k v).ap s).snoopF = s.snoopF ∧ ((Eff.sensor k v).ap s).nvm = s.nvm ∧ ((Eff.sensor k v).ap s).keeper = s.keeper ∧ ((Eff.sensor k v).ap s).mon = s.mon ∧ ((Eff.sensor k v).ap s).power = s.power ∧ ((Eff.sensor k v).ap s).sec = s.sec ∧ ((Eff.sensor k v).ap s).milestone = s.milestone ∧ ((Eff.sensor k v).ap s).out = s.out ∧ ((Eff.sensor k v).ap s).free = s.free ∧ ((Eff.sensor k v).ap s).pending = s.pending :=
  ⟨rfl, rfl, rfl, rfl, rfl, rfl, rfl, rfl, rfl, rfl, rfl, rfl, rfl, rfl, rfl, rfl, rfl, rfl, rfl, rfl, rfl, rfl, rfl, rfl, rfl, rfl, rfl, rfl, rfl, rfl, rfl, rfl⟩

/-- `sensor` changes sensors alone: what is read. -/
@[simp] theorem ap_sensor_reads (k : Nat) (v : Sensor) :
    (∀ b' i' o', ((Eff.sensor k v).ap s).reg b' i' o' = s.reg b' i' o') ∧
    (∀ a', ((Eff.sensor k v).ap s).byte a' = s.byte a') ∧
    (∀ c', ((Eff.sensor k v).ap s).core c' = s.core c') ∧
    (∀ t', ((Eff.sensor k v).ap s).cell t' = s.cell t') ∧
    (∀ t', ((Eff.sensor k v).ap s).conv t' = s.conv t') ∧
    (∀ d', ((Eff.sensor k v).ap s).die d' = s.die d') ∧
    (∀ k', ((Eff.sensor k v).ap s).link k' = s.link k') ∧
    (∀ k', ((Eff.sensor k v).ap s).treeTab k' = s.treeTab k') ∧
    (∀ k', ((Eff.sensor k v).ap s).flits k' = s.flits k') ∧
    (∀ i', ((Eff.sensor k v).ap s).win i' = s.win i') ∧
    (∀ i', ((Eff.sensor k v).ap s).passage i' = s.passage i') ∧
    (∀ p', ((Eff.sensor k v).ap s).job p' = s.job p') ∧
    (∀ p', ((Eff.sensor k v).ap s).slice p' = s.slice p') ∧
    (∀ n', ((Eff.sensor k v).ap s).bfpLink n' = s.bfpLink n') ∧
    (∀ n', ((Eff.sensor k v).ap s).port n' = s.port n') ∧
    (∀ d', ((Eff.sensor k v).ap s).filter d' = s.filter d') :=
  ⟨fun _ _ _ => rfl, fun _ => rfl, fun _ => rfl, fun _ => rfl, fun _ => rfl, fun _ => rfl, fun _ => rfl, fun _ => rfl, fun _ => rfl, fun _ => rfl, fun _ => rfl, fun _ => rfl, fun _ => rfl, fun _ => rfl, fun _ => rfl, fun _ => rfl⟩

/-- `nvm` changes nvm alone: the fields. -/
@[simp] theorem ap_nvm_fields (v : Nvm) :
    ((Eff.nvm v).ap s).mile = s.mile ∧ ((Eff.nvm v).ap s).posNs = s.posNs ∧ ((Eff.nvm v).ap s).regs = s.regs ∧ ((Eff.nvm v).ap s).mem = s.mem ∧ ((Eff.nvm v).ap s).poison = s.poison ∧ ((Eff.nvm v).ap s).cores = s.cores ∧ ((Eff.nvm v).ap s).cells = s.cells ∧ ((Eff.nvm v).ap s).convs = s.convs ∧ ((Eff.nvm v).ap s).dies = s.dies ∧ ((Eff.nvm v).ap s).links = s.links ∧ ((Eff.nvm v).ap s).trees = s.trees ∧ ((Eff.nvm v).ap s).oldTrees = s.oldTrees ∧ ((Eff.nvm v).ap s).flitSel = s.flitSel ∧ ((Eff.nvm v).ap s).wins = s.wins ∧ ((Eff.nvm v).ap s).passages = s.passages ∧ ((Eff.nvm v).ap s).jobs = s.jobs ∧ ((Eff.nvm v).ap s).slices = s.slices ∧ ((Eff.nvm v).ap s).fabTrees = s.fabTrees ∧ ((Eff.nvm v).ap s).bfp = s.bfp ∧ ((Eff.nvm v).ap s).colls = s.colls ∧ ((Eff.nvm v).ap s).aborted = s.aborted ∧ ((Eff.nvm v).ap s).ports = s.ports ∧ ((Eff.nvm v).ap s).snoopF = s.snoopF ∧ ((Eff.nvm v).ap s).sensors = s.sensors ∧ ((Eff.nvm v).ap s).keeper = s.keeper ∧ ((Eff.nvm v).ap s).mon = s.mon ∧ ((Eff.nvm v).ap s).power = s.power ∧ ((Eff.nvm v).ap s).sec = s.sec ∧ ((Eff.nvm v).ap s).milestone = s.milestone ∧ ((Eff.nvm v).ap s).out = s.out ∧ ((Eff.nvm v).ap s).free = s.free ∧ ((Eff.nvm v).ap s).pending = s.pending :=
  ⟨rfl, rfl, rfl, rfl, rfl, rfl, rfl, rfl, rfl, rfl, rfl, rfl, rfl, rfl, rfl, rfl, rfl, rfl, rfl, rfl, rfl, rfl, rfl, rfl, rfl, rfl, rfl, rfl, rfl, rfl, rfl, rfl⟩

/-- `nvm` changes nvm alone: what is read. -/
@[simp] theorem ap_nvm_reads (v : Nvm) :
    (∀ b' i' o', ((Eff.nvm v).ap s).reg b' i' o' = s.reg b' i' o') ∧
    (∀ a', ((Eff.nvm v).ap s).byte a' = s.byte a') ∧
    (∀ c', ((Eff.nvm v).ap s).core c' = s.core c') ∧
    (∀ t', ((Eff.nvm v).ap s).cell t' = s.cell t') ∧
    (∀ t', ((Eff.nvm v).ap s).conv t' = s.conv t') ∧
    (∀ d', ((Eff.nvm v).ap s).die d' = s.die d') ∧
    (∀ k', ((Eff.nvm v).ap s).link k' = s.link k') ∧
    (∀ k', ((Eff.nvm v).ap s).treeTab k' = s.treeTab k') ∧
    (∀ k', ((Eff.nvm v).ap s).flits k' = s.flits k') ∧
    (∀ i', ((Eff.nvm v).ap s).win i' = s.win i') ∧
    (∀ i', ((Eff.nvm v).ap s).passage i' = s.passage i') ∧
    (∀ p', ((Eff.nvm v).ap s).job p' = s.job p') ∧
    (∀ p', ((Eff.nvm v).ap s).slice p' = s.slice p') ∧
    (∀ n', ((Eff.nvm v).ap s).bfpLink n' = s.bfpLink n') ∧
    (∀ n', ((Eff.nvm v).ap s).port n' = s.port n') ∧
    (∀ d', ((Eff.nvm v).ap s).filter d' = s.filter d') ∧
    (∀ k', ((Eff.nvm v).ap s).sensor k' = s.sensor k') :=
  ⟨fun _ _ _ => rfl, fun _ => rfl, fun _ => rfl, fun _ => rfl, fun _ => rfl, fun _ => rfl, fun _ => rfl, fun _ => rfl, fun _ => rfl, fun _ => rfl, fun _ => rfl, fun _ => rfl, fun _ => rfl, fun _ => rfl, fun _ => rfl, fun _ => rfl, fun _ => rfl⟩

@[simp] theorem ap_nvm_set (v : Nvm) : ((Eff.nvm v).ap s).nvm = v := rfl

/-- `keeper` changes keeper alone: the fields. -/
@[simp] theorem ap_keeper_fields (v : Keeper) :
    ((Eff.keeper v).ap s).mile = s.mile ∧ ((Eff.keeper v).ap s).posNs = s.posNs ∧ ((Eff.keeper v).ap s).regs = s.regs ∧ ((Eff.keeper v).ap s).mem = s.mem ∧ ((Eff.keeper v).ap s).poison = s.poison ∧ ((Eff.keeper v).ap s).cores = s.cores ∧ ((Eff.keeper v).ap s).cells = s.cells ∧ ((Eff.keeper v).ap s).convs = s.convs ∧ ((Eff.keeper v).ap s).dies = s.dies ∧ ((Eff.keeper v).ap s).links = s.links ∧ ((Eff.keeper v).ap s).trees = s.trees ∧ ((Eff.keeper v).ap s).oldTrees = s.oldTrees ∧ ((Eff.keeper v).ap s).flitSel = s.flitSel ∧ ((Eff.keeper v).ap s).wins = s.wins ∧ ((Eff.keeper v).ap s).passages = s.passages ∧ ((Eff.keeper v).ap s).jobs = s.jobs ∧ ((Eff.keeper v).ap s).slices = s.slices ∧ ((Eff.keeper v).ap s).fabTrees = s.fabTrees ∧ ((Eff.keeper v).ap s).bfp = s.bfp ∧ ((Eff.keeper v).ap s).colls = s.colls ∧ ((Eff.keeper v).ap s).aborted = s.aborted ∧ ((Eff.keeper v).ap s).ports = s.ports ∧ ((Eff.keeper v).ap s).snoopF = s.snoopF ∧ ((Eff.keeper v).ap s).sensors = s.sensors ∧ ((Eff.keeper v).ap s).nvm = s.nvm ∧ ((Eff.keeper v).ap s).mon = s.mon ∧ ((Eff.keeper v).ap s).power = s.power ∧ ((Eff.keeper v).ap s).sec = s.sec ∧ ((Eff.keeper v).ap s).milestone = s.milestone ∧ ((Eff.keeper v).ap s).out = s.out ∧ ((Eff.keeper v).ap s).free = s.free ∧ ((Eff.keeper v).ap s).pending = s.pending :=
  ⟨rfl, rfl, rfl, rfl, rfl, rfl, rfl, rfl, rfl, rfl, rfl, rfl, rfl, rfl, rfl, rfl, rfl, rfl, rfl, rfl, rfl, rfl, rfl, rfl, rfl, rfl, rfl, rfl, rfl, rfl, rfl, rfl⟩

/-- `keeper` changes keeper alone: what is read. -/
@[simp] theorem ap_keeper_reads (v : Keeper) :
    (∀ b' i' o', ((Eff.keeper v).ap s).reg b' i' o' = s.reg b' i' o') ∧
    (∀ a', ((Eff.keeper v).ap s).byte a' = s.byte a') ∧
    (∀ c', ((Eff.keeper v).ap s).core c' = s.core c') ∧
    (∀ t', ((Eff.keeper v).ap s).cell t' = s.cell t') ∧
    (∀ t', ((Eff.keeper v).ap s).conv t' = s.conv t') ∧
    (∀ d', ((Eff.keeper v).ap s).die d' = s.die d') ∧
    (∀ k', ((Eff.keeper v).ap s).link k' = s.link k') ∧
    (∀ k', ((Eff.keeper v).ap s).treeTab k' = s.treeTab k') ∧
    (∀ k', ((Eff.keeper v).ap s).flits k' = s.flits k') ∧
    (∀ i', ((Eff.keeper v).ap s).win i' = s.win i') ∧
    (∀ i', ((Eff.keeper v).ap s).passage i' = s.passage i') ∧
    (∀ p', ((Eff.keeper v).ap s).job p' = s.job p') ∧
    (∀ p', ((Eff.keeper v).ap s).slice p' = s.slice p') ∧
    (∀ n', ((Eff.keeper v).ap s).bfpLink n' = s.bfpLink n') ∧
    (∀ n', ((Eff.keeper v).ap s).port n' = s.port n') ∧
    (∀ d', ((Eff.keeper v).ap s).filter d' = s.filter d') ∧
    (∀ k', ((Eff.keeper v).ap s).sensor k' = s.sensor k') :=
  ⟨fun _ _ _ => rfl, fun _ => rfl, fun _ => rfl, fun _ => rfl, fun _ => rfl, fun _ => rfl, fun _ => rfl, fun _ => rfl, fun _ => rfl, fun _ => rfl, fun _ => rfl, fun _ => rfl, fun _ => rfl, fun _ => rfl, fun _ => rfl, fun _ => rfl, fun _ => rfl⟩

@[simp] theorem ap_keeper_set (v : Keeper) : ((Eff.keeper v).ap s).keeper = v := rfl

/-- `mon` changes mon alone: the fields. -/
@[simp] theorem ap_mon_fields (v : Mon) :
    ((Eff.mon v).ap s).mile = s.mile ∧ ((Eff.mon v).ap s).posNs = s.posNs ∧ ((Eff.mon v).ap s).regs = s.regs ∧ ((Eff.mon v).ap s).mem = s.mem ∧ ((Eff.mon v).ap s).poison = s.poison ∧ ((Eff.mon v).ap s).cores = s.cores ∧ ((Eff.mon v).ap s).cells = s.cells ∧ ((Eff.mon v).ap s).convs = s.convs ∧ ((Eff.mon v).ap s).dies = s.dies ∧ ((Eff.mon v).ap s).links = s.links ∧ ((Eff.mon v).ap s).trees = s.trees ∧ ((Eff.mon v).ap s).oldTrees = s.oldTrees ∧ ((Eff.mon v).ap s).flitSel = s.flitSel ∧ ((Eff.mon v).ap s).wins = s.wins ∧ ((Eff.mon v).ap s).passages = s.passages ∧ ((Eff.mon v).ap s).jobs = s.jobs ∧ ((Eff.mon v).ap s).slices = s.slices ∧ ((Eff.mon v).ap s).fabTrees = s.fabTrees ∧ ((Eff.mon v).ap s).bfp = s.bfp ∧ ((Eff.mon v).ap s).colls = s.colls ∧ ((Eff.mon v).ap s).aborted = s.aborted ∧ ((Eff.mon v).ap s).ports = s.ports ∧ ((Eff.mon v).ap s).snoopF = s.snoopF ∧ ((Eff.mon v).ap s).sensors = s.sensors ∧ ((Eff.mon v).ap s).nvm = s.nvm ∧ ((Eff.mon v).ap s).keeper = s.keeper ∧ ((Eff.mon v).ap s).power = s.power ∧ ((Eff.mon v).ap s).sec = s.sec ∧ ((Eff.mon v).ap s).milestone = s.milestone ∧ ((Eff.mon v).ap s).out = s.out ∧ ((Eff.mon v).ap s).free = s.free ∧ ((Eff.mon v).ap s).pending = s.pending :=
  ⟨rfl, rfl, rfl, rfl, rfl, rfl, rfl, rfl, rfl, rfl, rfl, rfl, rfl, rfl, rfl, rfl, rfl, rfl, rfl, rfl, rfl, rfl, rfl, rfl, rfl, rfl, rfl, rfl, rfl, rfl, rfl, rfl⟩

/-- `mon` changes mon alone: what is read. -/
@[simp] theorem ap_mon_reads (v : Mon) :
    (∀ b' i' o', ((Eff.mon v).ap s).reg b' i' o' = s.reg b' i' o') ∧
    (∀ a', ((Eff.mon v).ap s).byte a' = s.byte a') ∧
    (∀ c', ((Eff.mon v).ap s).core c' = s.core c') ∧
    (∀ t', ((Eff.mon v).ap s).cell t' = s.cell t') ∧
    (∀ t', ((Eff.mon v).ap s).conv t' = s.conv t') ∧
    (∀ d', ((Eff.mon v).ap s).die d' = s.die d') ∧
    (∀ k', ((Eff.mon v).ap s).link k' = s.link k') ∧
    (∀ k', ((Eff.mon v).ap s).treeTab k' = s.treeTab k') ∧
    (∀ k', ((Eff.mon v).ap s).flits k' = s.flits k') ∧
    (∀ i', ((Eff.mon v).ap s).win i' = s.win i') ∧
    (∀ i', ((Eff.mon v).ap s).passage i' = s.passage i') ∧
    (∀ p', ((Eff.mon v).ap s).job p' = s.job p') ∧
    (∀ p', ((Eff.mon v).ap s).slice p' = s.slice p') ∧
    (∀ n', ((Eff.mon v).ap s).bfpLink n' = s.bfpLink n') ∧
    (∀ n', ((Eff.mon v).ap s).port n' = s.port n') ∧
    (∀ d', ((Eff.mon v).ap s).filter d' = s.filter d') ∧
    (∀ k', ((Eff.mon v).ap s).sensor k' = s.sensor k') :=
  ⟨fun _ _ _ => rfl, fun _ => rfl, fun _ => rfl, fun _ => rfl, fun _ => rfl, fun _ => rfl, fun _ => rfl, fun _ => rfl, fun _ => rfl, fun _ => rfl, fun _ => rfl, fun _ => rfl, fun _ => rfl, fun _ => rfl, fun _ => rfl, fun _ => rfl, fun _ => rfl⟩

@[simp] theorem ap_mon_set (v : Mon) : ((Eff.mon v).ap s).mon = v := rfl

/-- `power` changes power alone: the fields. -/
@[simp] theorem ap_power_fields (v : Power) :
    ((Eff.power v).ap s).mile = s.mile ∧ ((Eff.power v).ap s).posNs = s.posNs ∧ ((Eff.power v).ap s).regs = s.regs ∧ ((Eff.power v).ap s).mem = s.mem ∧ ((Eff.power v).ap s).poison = s.poison ∧ ((Eff.power v).ap s).cores = s.cores ∧ ((Eff.power v).ap s).cells = s.cells ∧ ((Eff.power v).ap s).convs = s.convs ∧ ((Eff.power v).ap s).dies = s.dies ∧ ((Eff.power v).ap s).links = s.links ∧ ((Eff.power v).ap s).trees = s.trees ∧ ((Eff.power v).ap s).oldTrees = s.oldTrees ∧ ((Eff.power v).ap s).flitSel = s.flitSel ∧ ((Eff.power v).ap s).wins = s.wins ∧ ((Eff.power v).ap s).passages = s.passages ∧ ((Eff.power v).ap s).jobs = s.jobs ∧ ((Eff.power v).ap s).slices = s.slices ∧ ((Eff.power v).ap s).fabTrees = s.fabTrees ∧ ((Eff.power v).ap s).bfp = s.bfp ∧ ((Eff.power v).ap s).colls = s.colls ∧ ((Eff.power v).ap s).aborted = s.aborted ∧ ((Eff.power v).ap s).ports = s.ports ∧ ((Eff.power v).ap s).snoopF = s.snoopF ∧ ((Eff.power v).ap s).sensors = s.sensors ∧ ((Eff.power v).ap s).nvm = s.nvm ∧ ((Eff.power v).ap s).keeper = s.keeper ∧ ((Eff.power v).ap s).mon = s.mon ∧ ((Eff.power v).ap s).sec = s.sec ∧ ((Eff.power v).ap s).milestone = s.milestone ∧ ((Eff.power v).ap s).out = s.out ∧ ((Eff.power v).ap s).free = s.free ∧ ((Eff.power v).ap s).pending = s.pending :=
  ⟨rfl, rfl, rfl, rfl, rfl, rfl, rfl, rfl, rfl, rfl, rfl, rfl, rfl, rfl, rfl, rfl, rfl, rfl, rfl, rfl, rfl, rfl, rfl, rfl, rfl, rfl, rfl, rfl, rfl, rfl, rfl, rfl⟩

/-- `power` changes power alone: what is read. -/
@[simp] theorem ap_power_reads (v : Power) :
    (∀ b' i' o', ((Eff.power v).ap s).reg b' i' o' = s.reg b' i' o') ∧
    (∀ a', ((Eff.power v).ap s).byte a' = s.byte a') ∧
    (∀ c', ((Eff.power v).ap s).core c' = s.core c') ∧
    (∀ t', ((Eff.power v).ap s).cell t' = s.cell t') ∧
    (∀ t', ((Eff.power v).ap s).conv t' = s.conv t') ∧
    (∀ d', ((Eff.power v).ap s).die d' = s.die d') ∧
    (∀ k', ((Eff.power v).ap s).link k' = s.link k') ∧
    (∀ k', ((Eff.power v).ap s).treeTab k' = s.treeTab k') ∧
    (∀ k', ((Eff.power v).ap s).flits k' = s.flits k') ∧
    (∀ i', ((Eff.power v).ap s).win i' = s.win i') ∧
    (∀ i', ((Eff.power v).ap s).passage i' = s.passage i') ∧
    (∀ p', ((Eff.power v).ap s).job p' = s.job p') ∧
    (∀ p', ((Eff.power v).ap s).slice p' = s.slice p') ∧
    (∀ n', ((Eff.power v).ap s).bfpLink n' = s.bfpLink n') ∧
    (∀ n', ((Eff.power v).ap s).port n' = s.port n') ∧
    (∀ d', ((Eff.power v).ap s).filter d' = s.filter d') ∧
    (∀ k', ((Eff.power v).ap s).sensor k' = s.sensor k') :=
  ⟨fun _ _ _ => rfl, fun _ => rfl, fun _ => rfl, fun _ => rfl, fun _ => rfl, fun _ => rfl, fun _ => rfl, fun _ => rfl, fun _ => rfl, fun _ => rfl, fun _ => rfl, fun _ => rfl, fun _ => rfl, fun _ => rfl, fun _ => rfl, fun _ => rfl, fun _ => rfl⟩

@[simp] theorem ap_power_set (v : Power) : ((Eff.power v).ap s).power = v := rfl

/-- `sec` changes sec alone: the fields. -/
@[simp] theorem ap_sec_fields (v : Sec) :
    ((Eff.sec v).ap s).mile = s.mile ∧ ((Eff.sec v).ap s).posNs = s.posNs ∧ ((Eff.sec v).ap s).regs = s.regs ∧ ((Eff.sec v).ap s).mem = s.mem ∧ ((Eff.sec v).ap s).poison = s.poison ∧ ((Eff.sec v).ap s).cores = s.cores ∧ ((Eff.sec v).ap s).cells = s.cells ∧ ((Eff.sec v).ap s).convs = s.convs ∧ ((Eff.sec v).ap s).dies = s.dies ∧ ((Eff.sec v).ap s).links = s.links ∧ ((Eff.sec v).ap s).trees = s.trees ∧ ((Eff.sec v).ap s).oldTrees = s.oldTrees ∧ ((Eff.sec v).ap s).flitSel = s.flitSel ∧ ((Eff.sec v).ap s).wins = s.wins ∧ ((Eff.sec v).ap s).passages = s.passages ∧ ((Eff.sec v).ap s).jobs = s.jobs ∧ ((Eff.sec v).ap s).slices = s.slices ∧ ((Eff.sec v).ap s).fabTrees = s.fabTrees ∧ ((Eff.sec v).ap s).bfp = s.bfp ∧ ((Eff.sec v).ap s).colls = s.colls ∧ ((Eff.sec v).ap s).aborted = s.aborted ∧ ((Eff.sec v).ap s).ports = s.ports ∧ ((Eff.sec v).ap s).snoopF = s.snoopF ∧ ((Eff.sec v).ap s).sensors = s.sensors ∧ ((Eff.sec v).ap s).nvm = s.nvm ∧ ((Eff.sec v).ap s).keeper = s.keeper ∧ ((Eff.sec v).ap s).mon = s.mon ∧ ((Eff.sec v).ap s).power = s.power ∧ ((Eff.sec v).ap s).milestone = s.milestone ∧ ((Eff.sec v).ap s).out = s.out ∧ ((Eff.sec v).ap s).free = s.free ∧ ((Eff.sec v).ap s).pending = s.pending :=
  ⟨rfl, rfl, rfl, rfl, rfl, rfl, rfl, rfl, rfl, rfl, rfl, rfl, rfl, rfl, rfl, rfl, rfl, rfl, rfl, rfl, rfl, rfl, rfl, rfl, rfl, rfl, rfl, rfl, rfl, rfl, rfl, rfl⟩

/-- `sec` changes sec alone: what is read. -/
@[simp] theorem ap_sec_reads (v : Sec) :
    (∀ b' i' o', ((Eff.sec v).ap s).reg b' i' o' = s.reg b' i' o') ∧
    (∀ a', ((Eff.sec v).ap s).byte a' = s.byte a') ∧
    (∀ c', ((Eff.sec v).ap s).core c' = s.core c') ∧
    (∀ t', ((Eff.sec v).ap s).cell t' = s.cell t') ∧
    (∀ t', ((Eff.sec v).ap s).conv t' = s.conv t') ∧
    (∀ d', ((Eff.sec v).ap s).die d' = s.die d') ∧
    (∀ k', ((Eff.sec v).ap s).link k' = s.link k') ∧
    (∀ k', ((Eff.sec v).ap s).treeTab k' = s.treeTab k') ∧
    (∀ k', ((Eff.sec v).ap s).flits k' = s.flits k') ∧
    (∀ i', ((Eff.sec v).ap s).win i' = s.win i') ∧
    (∀ i', ((Eff.sec v).ap s).passage i' = s.passage i') ∧
    (∀ p', ((Eff.sec v).ap s).job p' = s.job p') ∧
    (∀ p', ((Eff.sec v).ap s).slice p' = s.slice p') ∧
    (∀ n', ((Eff.sec v).ap s).bfpLink n' = s.bfpLink n') ∧
    (∀ n', ((Eff.sec v).ap s).port n' = s.port n') ∧
    (∀ d', ((Eff.sec v).ap s).filter d' = s.filter d') ∧
    (∀ k', ((Eff.sec v).ap s).sensor k' = s.sensor k') :=
  ⟨fun _ _ _ => rfl, fun _ => rfl, fun _ => rfl, fun _ => rfl, fun _ => rfl, fun _ => rfl, fun _ => rfl, fun _ => rfl, fun _ => rfl, fun _ => rfl, fun _ => rfl, fun _ => rfl, fun _ => rfl, fun _ => rfl, fun _ => rfl, fun _ => rfl, fun _ => rfl⟩

@[simp] theorem ap_sec_set (v : Sec) : ((Eff.sec v).ap s).sec = v := rfl

/-- `milestone` changes milestone alone: the fields. -/
@[simp] theorem ap_milestone_fields (v : Mile) :
    ((Eff.milestone v).ap s).mile = s.mile ∧ ((Eff.milestone v).ap s).posNs = s.posNs ∧ ((Eff.milestone v).ap s).regs = s.regs ∧ ((Eff.milestone v).ap s).mem = s.mem ∧ ((Eff.milestone v).ap s).poison = s.poison ∧ ((Eff.milestone v).ap s).cores = s.cores ∧ ((Eff.milestone v).ap s).cells = s.cells ∧ ((Eff.milestone v).ap s).convs = s.convs ∧ ((Eff.milestone v).ap s).dies = s.dies ∧ ((Eff.milestone v).ap s).links = s.links ∧ ((Eff.milestone v).ap s).trees = s.trees ∧ ((Eff.milestone v).ap s).oldTrees = s.oldTrees ∧ ((Eff.milestone v).ap s).flitSel = s.flitSel ∧ ((Eff.milestone v).ap s).wins = s.wins ∧ ((Eff.milestone v).ap s).passages = s.passages ∧ ((Eff.milestone v).ap s).jobs = s.jobs ∧ ((Eff.milestone v).ap s).slices = s.slices ∧ ((Eff.milestone v).ap s).fabTrees = s.fabTrees ∧ ((Eff.milestone v).ap s).bfp = s.bfp ∧ ((Eff.milestone v).ap s).colls = s.colls ∧ ((Eff.milestone v).ap s).aborted = s.aborted ∧ ((Eff.milestone v).ap s).ports = s.ports ∧ ((Eff.milestone v).ap s).snoopF = s.snoopF ∧ ((Eff.milestone v).ap s).sensors = s.sensors ∧ ((Eff.milestone v).ap s).nvm = s.nvm ∧ ((Eff.milestone v).ap s).keeper = s.keeper ∧ ((Eff.milestone v).ap s).mon = s.mon ∧ ((Eff.milestone v).ap s).power = s.power ∧ ((Eff.milestone v).ap s).sec = s.sec ∧ ((Eff.milestone v).ap s).out = s.out ∧ ((Eff.milestone v).ap s).free = s.free ∧ ((Eff.milestone v).ap s).pending = s.pending :=
  ⟨rfl, rfl, rfl, rfl, rfl, rfl, rfl, rfl, rfl, rfl, rfl, rfl, rfl, rfl, rfl, rfl, rfl, rfl, rfl, rfl, rfl, rfl, rfl, rfl, rfl, rfl, rfl, rfl, rfl, rfl, rfl, rfl⟩

/-- `milestone` changes milestone alone: what is read. -/
@[simp] theorem ap_milestone_reads (v : Mile) :
    (∀ b' i' o', ((Eff.milestone v).ap s).reg b' i' o' = s.reg b' i' o') ∧
    (∀ a', ((Eff.milestone v).ap s).byte a' = s.byte a') ∧
    (∀ c', ((Eff.milestone v).ap s).core c' = s.core c') ∧
    (∀ t', ((Eff.milestone v).ap s).cell t' = s.cell t') ∧
    (∀ t', ((Eff.milestone v).ap s).conv t' = s.conv t') ∧
    (∀ d', ((Eff.milestone v).ap s).die d' = s.die d') ∧
    (∀ k', ((Eff.milestone v).ap s).link k' = s.link k') ∧
    (∀ k', ((Eff.milestone v).ap s).treeTab k' = s.treeTab k') ∧
    (∀ k', ((Eff.milestone v).ap s).flits k' = s.flits k') ∧
    (∀ i', ((Eff.milestone v).ap s).win i' = s.win i') ∧
    (∀ i', ((Eff.milestone v).ap s).passage i' = s.passage i') ∧
    (∀ p', ((Eff.milestone v).ap s).job p' = s.job p') ∧
    (∀ p', ((Eff.milestone v).ap s).slice p' = s.slice p') ∧
    (∀ n', ((Eff.milestone v).ap s).bfpLink n' = s.bfpLink n') ∧
    (∀ n', ((Eff.milestone v).ap s).port n' = s.port n') ∧
    (∀ d', ((Eff.milestone v).ap s).filter d' = s.filter d') ∧
    (∀ k', ((Eff.milestone v).ap s).sensor k' = s.sensor k') :=
  ⟨fun _ _ _ => rfl, fun _ => rfl, fun _ => rfl, fun _ => rfl, fun _ => rfl, fun _ => rfl, fun _ => rfl, fun _ => rfl, fun _ => rfl, fun _ => rfl, fun _ => rfl, fun _ => rfl, fun _ => rfl, fun _ => rfl, fun _ => rfl, fun _ => rfl, fun _ => rfl⟩

@[simp] theorem ap_milestone_set (v : Mile) : ((Eff.milestone v).ap s).milestone = v := rfl

/-- `out` changes out alone: the fields. -/
@[simp] theorem ap_out_fields (o : Out) :
    ((Eff.out o).ap s).mile = s.mile ∧ ((Eff.out o).ap s).posNs = s.posNs ∧ ((Eff.out o).ap s).regs = s.regs ∧ ((Eff.out o).ap s).mem = s.mem ∧ ((Eff.out o).ap s).poison = s.poison ∧ ((Eff.out o).ap s).cores = s.cores ∧ ((Eff.out o).ap s).cells = s.cells ∧ ((Eff.out o).ap s).convs = s.convs ∧ ((Eff.out o).ap s).dies = s.dies ∧ ((Eff.out o).ap s).links = s.links ∧ ((Eff.out o).ap s).trees = s.trees ∧ ((Eff.out o).ap s).oldTrees = s.oldTrees ∧ ((Eff.out o).ap s).flitSel = s.flitSel ∧ ((Eff.out o).ap s).wins = s.wins ∧ ((Eff.out o).ap s).passages = s.passages ∧ ((Eff.out o).ap s).jobs = s.jobs ∧ ((Eff.out o).ap s).slices = s.slices ∧ ((Eff.out o).ap s).fabTrees = s.fabTrees ∧ ((Eff.out o).ap s).bfp = s.bfp ∧ ((Eff.out o).ap s).colls = s.colls ∧ ((Eff.out o).ap s).aborted = s.aborted ∧ ((Eff.out o).ap s).ports = s.ports ∧ ((Eff.out o).ap s).snoopF = s.snoopF ∧ ((Eff.out o).ap s).sensors = s.sensors ∧ ((Eff.out o).ap s).nvm = s.nvm ∧ ((Eff.out o).ap s).keeper = s.keeper ∧ ((Eff.out o).ap s).mon = s.mon ∧ ((Eff.out o).ap s).power = s.power ∧ ((Eff.out o).ap s).sec = s.sec ∧ ((Eff.out o).ap s).milestone = s.milestone ∧ ((Eff.out o).ap s).free = s.free ∧ ((Eff.out o).ap s).pending = s.pending :=
  ⟨rfl, rfl, rfl, rfl, rfl, rfl, rfl, rfl, rfl, rfl, rfl, rfl, rfl, rfl, rfl, rfl, rfl, rfl, rfl, rfl, rfl, rfl, rfl, rfl, rfl, rfl, rfl, rfl, rfl, rfl, rfl, rfl⟩

/-- `out` changes out alone: what is read. -/
@[simp] theorem ap_out_reads (o : Out) :
    (∀ b' i' o', ((Eff.out o).ap s).reg b' i' o' = s.reg b' i' o') ∧
    (∀ a', ((Eff.out o).ap s).byte a' = s.byte a') ∧
    (∀ c', ((Eff.out o).ap s).core c' = s.core c') ∧
    (∀ t', ((Eff.out o).ap s).cell t' = s.cell t') ∧
    (∀ t', ((Eff.out o).ap s).conv t' = s.conv t') ∧
    (∀ d', ((Eff.out o).ap s).die d' = s.die d') ∧
    (∀ k', ((Eff.out o).ap s).link k' = s.link k') ∧
    (∀ k', ((Eff.out o).ap s).treeTab k' = s.treeTab k') ∧
    (∀ k', ((Eff.out o).ap s).flits k' = s.flits k') ∧
    (∀ i', ((Eff.out o).ap s).win i' = s.win i') ∧
    (∀ i', ((Eff.out o).ap s).passage i' = s.passage i') ∧
    (∀ p', ((Eff.out o).ap s).job p' = s.job p') ∧
    (∀ p', ((Eff.out o).ap s).slice p' = s.slice p') ∧
    (∀ n', ((Eff.out o).ap s).bfpLink n' = s.bfpLink n') ∧
    (∀ n', ((Eff.out o).ap s).port n' = s.port n') ∧
    (∀ d', ((Eff.out o).ap s).filter d' = s.filter d') ∧
    (∀ k', ((Eff.out o).ap s).sensor k' = s.sensor k') :=
  ⟨fun _ _ _ => rfl, fun _ => rfl, fun _ => rfl, fun _ => rfl, fun _ => rfl, fun _ => rfl, fun _ => rfl, fun _ => rfl, fun _ => rfl, fun _ => rfl, fun _ => rfl, fun _ => rfl, fun _ => rfl, fun _ => rfl, fun _ => rfl, fun _ => rfl, fun _ => rfl⟩

@[simp] theorem ap_out_set (o : Out) : ((Eff.out o).ap s).out = s.out ++ [o] := rfl

/-- `free` changes free alone: the fields. -/
@[simp] theorem ap_free_fields (n : Nat) :
    ((Eff.free n).ap s).mile = s.mile ∧ ((Eff.free n).ap s).posNs = s.posNs ∧ ((Eff.free n).ap s).regs = s.regs ∧ ((Eff.free n).ap s).mem = s.mem ∧ ((Eff.free n).ap s).poison = s.poison ∧ ((Eff.free n).ap s).cores = s.cores ∧ ((Eff.free n).ap s).cells = s.cells ∧ ((Eff.free n).ap s).convs = s.convs ∧ ((Eff.free n).ap s).dies = s.dies ∧ ((Eff.free n).ap s).links = s.links ∧ ((Eff.free n).ap s).trees = s.trees ∧ ((Eff.free n).ap s).oldTrees = s.oldTrees ∧ ((Eff.free n).ap s).flitSel = s.flitSel ∧ ((Eff.free n).ap s).wins = s.wins ∧ ((Eff.free n).ap s).passages = s.passages ∧ ((Eff.free n).ap s).jobs = s.jobs ∧ ((Eff.free n).ap s).slices = s.slices ∧ ((Eff.free n).ap s).fabTrees = s.fabTrees ∧ ((Eff.free n).ap s).bfp = s.bfp ∧ ((Eff.free n).ap s).colls = s.colls ∧ ((Eff.free n).ap s).aborted = s.aborted ∧ ((Eff.free n).ap s).ports = s.ports ∧ ((Eff.free n).ap s).snoopF = s.snoopF ∧ ((Eff.free n).ap s).sensors = s.sensors ∧ ((Eff.free n).ap s).nvm = s.nvm ∧ ((Eff.free n).ap s).keeper = s.keeper ∧ ((Eff.free n).ap s).mon = s.mon ∧ ((Eff.free n).ap s).power = s.power ∧ ((Eff.free n).ap s).sec = s.sec ∧ ((Eff.free n).ap s).milestone = s.milestone ∧ ((Eff.free n).ap s).out = s.out ∧ ((Eff.free n).ap s).pending = s.pending :=
  ⟨rfl, rfl, rfl, rfl, rfl, rfl, rfl, rfl, rfl, rfl, rfl, rfl, rfl, rfl, rfl, rfl, rfl, rfl, rfl, rfl, rfl, rfl, rfl, rfl, rfl, rfl, rfl, rfl, rfl, rfl, rfl, rfl⟩

/-- `free` changes free alone: what is read. -/
@[simp] theorem ap_free_reads (n : Nat) :
    (∀ b' i' o', ((Eff.free n).ap s).reg b' i' o' = s.reg b' i' o') ∧
    (∀ a', ((Eff.free n).ap s).byte a' = s.byte a') ∧
    (∀ c', ((Eff.free n).ap s).core c' = s.core c') ∧
    (∀ t', ((Eff.free n).ap s).cell t' = s.cell t') ∧
    (∀ t', ((Eff.free n).ap s).conv t' = s.conv t') ∧
    (∀ d', ((Eff.free n).ap s).die d' = s.die d') ∧
    (∀ k', ((Eff.free n).ap s).link k' = s.link k') ∧
    (∀ k', ((Eff.free n).ap s).treeTab k' = s.treeTab k') ∧
    (∀ k', ((Eff.free n).ap s).flits k' = s.flits k') ∧
    (∀ i', ((Eff.free n).ap s).win i' = s.win i') ∧
    (∀ i', ((Eff.free n).ap s).passage i' = s.passage i') ∧
    (∀ p', ((Eff.free n).ap s).job p' = s.job p') ∧
    (∀ p', ((Eff.free n).ap s).slice p' = s.slice p') ∧
    (∀ n', ((Eff.free n).ap s).bfpLink n' = s.bfpLink n') ∧
    (∀ n', ((Eff.free n).ap s).port n' = s.port n') ∧
    (∀ d', ((Eff.free n).ap s).filter d' = s.filter d') ∧
    (∀ k', ((Eff.free n).ap s).sensor k' = s.sensor k') :=
  ⟨fun _ _ _ => rfl, fun _ => rfl, fun _ => rfl, fun _ => rfl, fun _ => rfl, fun _ => rfl, fun _ => rfl, fun _ => rfl, fun _ => rfl, fun _ => rfl, fun _ => rfl, fun _ => rfl, fun _ => rfl, fun _ => rfl, fun _ => rfl, fun _ => rfl, fun _ => rfl⟩

@[simp] theorem ap_free_set (n : Nat) : ((Eff.free n).ap s).free = n := rfl

end Sys2Proof.Machine
end

