-- ==== Sys2Proof/Laws/Effects.lean ====
section
/-!
SUPPORT. Laws of actions: what runs after what, what a command can do at all (a list of effects, none of which touches the queue),
the canonical form kept by every effect, and reads after writes under the keys of the state.
-/
namespace Sys2Proof.Machine

/-! ## Running actions -/

theorem apAll_append : ∀ (a b : List Eff) (s : State), apAll (a ++ b) s = apAll b (apAll a s)
  | [], _, _ => rfl
  | e :: r, b, s => apAll_append r b (e.ap s)

@[simp] theorem apAll_nil (s : State) : apAll [] s = s := rfl
@[simp] theorem apAll_cons (e : Eff) (r : List Eff) (s : State) : apAll (e :: r) s = apAll r (e.ap s) := rfl

@[simp] theorem after_skip (s : State) : after skip s = s := rfl
@[simp] theorem after_eff (f : State → Eff) (s : State) : after (eff f) s = (f s).ap s := rfl
@[simp] theorem after_seqA_nil (s : State) : after (seqA []) s = s := rfl

@[simp] theorem after_seqA_cons (a : Act) (r : List Act) (s : State) : after (seqA (a :: r)) s = after (seqA r) (after a s) :=
  apAll_append (a s) (seqA r (after a s)) s

@[simp] theorem after_forA_nil {α : Type} (f : α → Act) (s : State) : after (forA [] f) s = s := rfl

@[simp] theorem after_forA_cons {α : Type} (x : α) (l : List α) (f : α → Act) (s : State) :
    after (forA (x :: l) f) s = after (forA l f) (after (f x) s) := after_seqA_cons (f x) (l.map f) s

@[simp] theorem after_whenA (c : State → Bool) (a : Act) (s : State) : after (whenA c a) s = if c s then after a s else s := by
  unfold after whenA
  cases c s <;> rfl

@[simp] theorem after_iteA (c : State → Bool) (a b : Act) (s : State) :
    after (iteA c a b) s = if c s then after a s else after b s := by
  unfold after iteA
  cases c s <;> rfl

@[simp] theorem after_withA {α : Type} (f : State → α) (g : α → Act) (s : State) : after (withA f g) s = after (g (f s)) s := rfl
@[simp] theorem after_forOpt_none {α : Type} (g : α → Act) (s : State) : after (forOpt none g) s = s := rfl
@[simp] theorem after_forOpt_some {α : Type} (x : α) (g : α → Act) (s : State) : after (forOpt (some x) g) s = after (g x) s := rfl

/-- What follows one action is decided in the state it leaves. -/
theorem after_app (a b : Act) (s : State) : after (fun s => a s ++ b (after a s)) s = after b (after a s) :=
  apAll_append (a s) (b (after a s)) s

/-! ## What an effect can do -/

/-- No effect touches the queue. -/
theorem ap_pending (e : Eff) (s : State) : (e.ap s).pending = s.pending := by cases e <;> rfl

/-- No action touches the queue. -/
theorem apAll_pending : ∀ (l : List Eff) (s : State), (apAll l s).pending = s.pending
  | [], _ => rfl
  | e :: r, s => (apAll_pending r (e.ap s)).trans (ap_pending e s)

/-- What has been sent stays sent: an effect only adds to it. -/
theorem ap_out (e : Eff) (s : State) : s.out <+: (e.ap s).out := by
  cases e <;> first | exact List.prefix_refl _ | exact List.prefix_append _ _

/-- What has been sent stays sent. -/
theorem apAll_out : ∀ (l : List Eff) (s : State), s.out <+: (apAll l s).out
  | [], _ => List.prefix_refl _
  | e :: r, s => (ap_out e s).trans (apAll_out r (e.ap s))

/-- Every effect keeps the canonical form of every map. -/
theorem ap_canon (e : Eff) (s : State) (h : s.canon = true) : (e.ap s).canon = true := by
  simp only [State.canon, Bool.and_eq_true, Regs.wf, Memory.wf] at h ⊢
  obtain ⟨⟨⟨⟨⟨⟨⟨⟨⟨⟨⟨⟨⟨⟨⟨⟨h1, h2⟩, h3⟩, h4⟩, h5⟩, h6⟩, h7⟩, h8⟩, h9⟩, h10⟩, h11⟩, h12⟩, h13⟩, h14⟩, h15⟩, h16⟩, h17⟩ := h
  cases e
  case lost k =>
    simp only [Eff.ap]
    refine ⟨⟨⟨⟨⟨⟨⟨⟨⟨⟨⟨⟨⟨⟨⟨⟨h1, ?_⟩, rfl⟩, h4⟩, rfl⟩, h6⟩, rfl⟩, rfl⟩, rfl⟩, rfl⟩, rfl⟩, rfl⟩, rfl⟩, rfl⟩, rfl⟩, rfl⟩, h17⟩
    cases k
    · rfl
    · exact SMap.filter_wfFrom memReset _ s.mem 0 h2
  all_goals
    simp only [Eff.ap]
    refine ⟨⟨⟨⟨⟨⟨⟨⟨⟨⟨⟨⟨⟨⟨⟨⟨?_, ?_⟩, ?_⟩, ?_⟩, ?_⟩, ?_⟩, ?_⟩, ?_⟩, ?_⟩, ?_⟩, ?_⟩, ?_⟩, ?_⟩, ?_⟩, ?_⟩, ?_⟩, ?_⟩
  all_goals first
    | assumption
    | (apply SMap.set_wf; assumption)

/-- Every action keeps the canonical form. -/
theorem apAll_canon : ∀ (l : List Eff) (s : State), s.canon = true → (apAll l s).canon = true
  | [], _, h => h
  | e :: r, s, h => apAll_canon r (e.ap s) (ap_canon e s h)

/-- Every action keeps the canonical form. -/
theorem after_canon (a : Act) (s : State) (h : s.canon = true) : (after a s).canon = true := apAll_canon (a s) s h

end Sys2Proof.Machine
end

