-- ==== Sys2Proof/Laws/Fields.lean ====
section
/-!
SUPPORT. Laws of keys and fields: which keys differ, what a register, a field, a core, a die, a passage reads after it or another one
is written.
-/
namespace Sys2Proof.Machine

/-! ## Keys -/

theorem tileKey_inj {a b : TileId} (h : tileKey a = tileKey b) : a = b := by
  obtain ⟨⟨d, hd⟩, ⟨x, hx⟩, ⟨y, hy⟩⟩ := a
  obtain ⟨⟨d', hd'⟩, ⟨x', hx'⟩, ⟨y', hy'⟩⟩ := b
  simp only [tileKey] at h
  simp only [TileId.mk.injEq, Fin.mk.injEq]
  omega

theorem tileKey_lt (t : TileId) : tileKey t < 270336 := by
  obtain ⟨⟨d, hd⟩, ⟨x, hx⟩, ⟨y, hy⟩⟩ := t
  simp only [tileKey]
  omega

theorem coreKey_inj {a b : CoreId} (h : coreKey a = coreKey b) : a = b := by
  match a, b with
  | .tile t, .tile u => rw [tileKey_inj h]
  | .tile t, .ctx d k =>
    have := tileKey_lt t
    simp only [coreKey] at h
    omega
  | .ctx d k, .tile t =>
    have := tileKey_lt t
    simp only [coreKey] at h
    omega
  | .ctx d k, .ctx d' k' =>
    obtain ⟨d, hd⟩ := d
    obtain ⟨k, hk⟩ := k
    obtain ⟨d', hd'⟩ := d'
    obtain ⟨k', hk'⟩ := k'
    simp only [coreKey] at h
    simp only [CoreId.ctx.injEq, Fin.mk.injEq]
    omega

theorem regKey_inj {b b' : Blk} {i i' o o' : Nat} (hi : i < 1048576) (hi' : i' < 1048576) (ho : o < 65536) (ho' : o' < 65536)
    (h : regKey b i o = regKey b' i' o') : b.code = b'.code ∧ i = i' ∧ o = o' := by
  simp only [regKey] at h
  omega

/-! ## Reads after writes -/

section
variable (s : State)

theorem canon_regs (h : s.canon = true) : SMap.wf regResetKey s.regs = true := by
  simp only [State.canon, Bool.and_eq_true, Regs.wf] at h; exact h.1.1.1.1.1.1.1.1.1.1.1.1.1.1.1.1

theorem canon_mem (h : s.canon = true) : SMap.wf memReset s.mem = true := by
  simp only [State.canon, Bool.and_eq_true, Memory.wf] at h; exact h.1.1.1.1.1.1.1.1.1.1.1.1.1.1.1.2

theorem canon_cores (h : s.canon = true) : SMap.wf (fun _ => Core.zero) s.cores = true := by
  simp only [State.canon, Bool.and_eq_true] at h; exact h.1.1.1.1.1.1.1.1.1.1.1.1.1.1.2

theorem canon_cells (h : s.canon = true) : SMap.wf (fun _ => Cells.erased) s.cells = true := by
  simp only [State.canon, Bool.and_eq_true] at h; exact h.1.1.1.1.1.1.1.1.1.1.1.1.1.2

theorem canon_convs (h : s.canon = true) : SMap.wf (fun _ => Conv.zero) s.convs = true := by
  simp only [State.canon, Bool.and_eq_true] at h; exact h.1.1.1.1.1.1.1.1.1.1.1.1.2

theorem canon_dies (h : s.canon = true) : SMap.wf (fun _ => Die.zero) s.dies = true := by
  simp only [State.canon, Bool.and_eq_true] at h; exact h.1.1.1.1.1.1.1.1.1.1.1.2

theorem canon_links (h : s.canon = true) : SMap.wf (fun _ => NocLink.zero) s.links = true := by
  simp only [State.canon, Bool.and_eq_true] at h; exact h.1.1.1.1.1.1.1.1.1.1.2

theorem canon_trees (h : s.canon = true) : SMap.wf (fun _ => ([] : List TreeEnt)) s.trees = true := by
  simp only [State.canon, Bool.and_eq_true] at h; exact h.1.1.1.1.1.1.1.1.1.2

theorem canon_wins (h : s.canon = true) : SMap.wf (fun _ => Win.zero) s.wins = true := by
  simp only [State.canon, Bool.and_eq_true] at h; exact h.1.1.1.1.1.1.1.2

theorem canon_passages (h : s.canon = true) : SMap.wf (fun _ => Passage.zero) s.passages = true := by
  simp only [State.canon, Bool.and_eq_true] at h; exact h.1.1.1.1.1.1.2

theorem canon_jobs (h : s.canon = true) : SMap.wf (fun _ => Job.zero) s.jobs = true := by
  simp only [State.canon, Bool.and_eq_true] at h; exact h.1.1.1.1.1.2

theorem canon_slices (h : s.canon = true) : SMap.wf (fun _ => Slice.zero) s.slices = true := by
  simp only [State.canon, Bool.and_eq_true] at h; exact h.1.1.1.1.2

theorem canon_bfp (h : s.canon = true) : SMap.wf (fun _ => BfpLink.zero) s.bfp = true := by
  simp only [State.canon, Bool.and_eq_true] at h; exact h.1.1.1.2

theorem canon_ports (h : s.canon = true) : SMap.wf (fun _ => TPort.zero) s.ports = true := by
  simp only [State.canon, Bool.and_eq_true] at h; exact h.1.1.2

theorem canon_snoopF (h : s.canon = true) : SMap.wf (fun _ => ([] : List SfEnt)) s.snoopF = true := by
  simp only [State.canon, Bool.and_eq_true] at h; exact h.1.2

theorem canon_sensors (h : s.canon = true) : SMap.wf (fun _ => Sensor.zero) s.sensors = true := by
  simp only [State.canon, Bool.and_eq_true] at h; exact h.2

theorem reg_ap_reg (h : s.canon = true) (b : Blk) (i o : Nat) (v : Word) (b' : Blk) (i' o' : Nat) :
    ((Eff.reg b i o v).ap s).reg b' i' o' = if regKey b' i' o' = regKey b i o then v else s.reg b' i' o' := by
  unfold State.reg Eff.ap
  by_cases e : regKey b' i' o' = regKey b i o
  · simp only [e, if_true]
    exact SMap.get_set_same _ _ _ _ (canon_regs s h)
  · simp only [e, if_false]
    exact SMap.get_set_other _ _ _ _ _ (canon_regs s h) e

theorem byte_ap_byte (h : s.canon = true) (a : Nat) (v : Byte) (a' : Nat) :
    ((Eff.byte a v).ap s).byte a' = if a' = a then v else s.byte a' := by
  unfold State.byte Eff.ap
  by_cases e : a' = a
  · simp only [e, if_true]
    exact SMap.get_set_same _ _ _ _ (canon_mem s h)
  · simp only [e, if_false]
    exact SMap.get_set_other _ _ _ _ _ (canon_mem s h) e

theorem core_ap_core (h : s.canon = true) (c : CoreId) (v : Core) (c' : CoreId) :
    ((Eff.core c v).ap s).core c' = if c' = c then v else s.core c' := by
  unfold State.core Eff.ap
  by_cases e : c' = c
  · subst e
    simp only [if_true]
    exact SMap.get_set_same _ _ _ _ (canon_cores s h)
  · simp only [e, if_false]
    exact SMap.get_set_other _ _ _ _ _ (canon_cores s h) fun x => e (coreKey_inj x)

theorem cell_ap_cell (h : s.canon = true) (t : TileId) (v : Cells) (t' : TileId) :
    ((Eff.cell t v).ap s).cell t' = if t' = t then v else s.cell t' := by
  unfold State.cell Eff.ap
  by_cases e : t' = t
  · subst e
    simp only [if_true]
    exact SMap.get_set_same _ _ _ _ (canon_cells s h)
  · simp only [e, if_false]
    exact SMap.get_set_other _ _ _ _ _ (canon_cells s h) fun x => e (tileKey_inj x)

theorem conv_ap_conv (h : s.canon = true) (t : TileId) (v : Conv) (t' : TileId) :
    ((Eff.conv t v).ap s).conv t' = if t' = t then v else s.conv t' := by
  unfold State.conv Eff.ap
  by_cases e : t' = t
  · subst e
    simp only [if_true]
    exact SMap.get_set_same _ _ _ _ (canon_convs s h)
  · simp only [e, if_false]
    exact SMap.get_set_other _ _ _ _ _ (canon_convs s h) fun x => e (tileKey_inj x)

theorem die_ap_die (h : s.canon = true) (d : Nat) (v : Die) (d' : Nat) :
    ((Eff.die d v).ap s).die d' = if d' = d then v else s.die d' := by
  unfold State.die Eff.ap
  by_cases e : d' = d
  · subst e
    simp only [if_true]
    exact SMap.get_set_same _ _ _ _ (canon_dies s h)
  · simp only [e, if_false]
    exact SMap.get_set_other _ _ _ _ _ (canon_dies s h) e

theorem link_ap_link (h : s.canon = true) (k : Nat) (v : NocLink) (k' : Nat) :
    ((Eff.link k v).ap s).link k' = if k' = k then v else s.link k' := by
  unfold State.link Eff.ap
  by_cases e : k' = k
  · subst e
    simp only [if_true]
    exact SMap.get_set_same _ _ _ _ (canon_links s h)
  · simp only [e, if_false]
    exact SMap.get_set_other _ _ _ _ _ (canon_links s h) e

theorem treeTab_ap_treeTab (h : s.canon = true) (k : Nat) (v : List TreeEnt) (k' : Nat) :
    ((Eff.treeTab k v).ap s).treeTab k' = if k' = k then v else s.treeTab k' := by
  unfold State.treeTab Eff.ap
  by_cases e : k' = k
  · subst e
    simp only [if_true]
    exact SMap.get_set_same _ _ _ _ (canon_trees s h)
  · simp only [e, if_false]
    exact SMap.get_set_other _ _ _ _ _ (canon_trees s h) e

theorem win_ap_win (h : s.canon = true) (i : Nat) (v : Win) (i' : Nat) :
    ((Eff.win i v).ap s).win i' = if i' = i then v else s.win i' := by
  unfold State.win Eff.ap
  by_cases e : i' = i
  · subst e
    simp only [if_true]
    exact SMap.get_set_same _ _ _ _ (canon_wins s h)
  · simp only [e, if_false]
    exact SMap.get_set_other _ _ _ _ _ (canon_wins s h) e

theorem passage_ap_passage (h : s.canon = true) (i : Nat) (v : Passage) (i' : Nat) :
    ((Eff.passage i v).ap s).passage i' = if i' = i then v else s.passage i' := by
  unfold State.passage Eff.ap
  by_cases e : i' = i
  · subst e
    simp only [if_true]
    exact SMap.get_set_same _ _ _ _ (canon_passages s h)
  · simp only [e, if_false]
    exact SMap.get_set_other _ _ _ _ _ (canon_passages s h) e

theorem job_ap_job (h : s.canon = true) (p : Nat) (v : Job) (p' : Nat) :
    ((Eff.job p v).ap s).job p' = if p' = p then v else s.job p' := by
  unfold State.job Eff.ap
  by_cases e : p' = p
  · subst e
    simp only [if_true]
    exact SMap.get_set_same _ _ _ _ (canon_jobs s h)
  · simp only [e, if_false]
    exact SMap.get_set_other _ _ _ _ _ (canon_jobs s h) e

theorem slice_ap_slice (h : s.canon = true) (p : Nat) (v : Slice) (p' : Nat) :
    ((Eff.slice p v).ap s).slice p' = if p' = p then v else s.slice p' := by
  unfold State.slice Eff.ap
  by_cases e : p' = p
  · subst e
    simp only [if_true]
    exact SMap.get_set_same _ _ _ _ (canon_slices s h)
  · simp only [e, if_false]
    exact SMap.get_set_other _ _ _ _ _ (canon_slices s h) e

theorem bfpLink_ap_bfpLink (h : s.canon = true) (n : Nat) (v : BfpLink) (n' : Nat) :
    ((Eff.bfpLink n v).ap s).bfpLink n' = if n' = n then v else s.bfpLink n' := by
  unfold State.bfpLink Eff.ap
  by_cases e : n' = n
  · subst e
    simp only [if_true]
    exact SMap.get_set_same _ _ _ _ (canon_bfp s h)
  · simp only [e, if_false]
    exact SMap.get_set_other _ _ _ _ _ (canon_bfp s h) e

theorem port_ap_port (h : s.canon = true) (n : Nat) (v : TPort) (n' : Nat) :
    ((Eff.port n v).ap s).port n' = if n' = n then v else s.port n' := by
  unfold State.port Eff.ap
  by_cases e : n' = n
  · subst e
    simp only [if_true]
    exact SMap.get_set_same _ _ _ _ (canon_ports s h)
  · simp only [e, if_false]
    exact SMap.get_set_other _ _ _ _ _ (canon_ports s h) e

theorem filter_ap_filter (h : s.canon = true) (d : Nat) (v : List SfEnt) (d' : Nat) :
    ((Eff.filter d v).ap s).filter d' = if d' = d then v else s.filter d' := by
  unfold State.filter Eff.ap
  by_cases e : d' = d
  · subst e
    simp only [if_true]
    exact SMap.get_set_same _ _ _ _ (canon_snoopF s h)
  · simp only [e, if_false]
    exact SMap.get_set_other _ _ _ _ _ (canon_snoopF s h) e

theorem sensor_ap_sensor (h : s.canon = true) (k : Nat) (v : Sensor) (k' : Nat) :
    ((Eff.sensor k v).ap s).sensor k' = if k' = k then v else s.sensor k' := by
  unfold State.sensor Eff.ap
  by_cases e : k' = k
  · subst e
    simp only [if_true]
    exact SMap.get_set_same _ _ _ _ (canon_sensors s h)
  · simp only [e, if_false]
    exact SMap.get_set_other _ _ _ _ _ (canon_sensors s h) e

end

/-! ## Bits -/

theorem testBit_bitsOf (w : Word) (hi lo j : Nat) :
    (bitsOf w hi lo).testBit j = (decide (j < hi + 1 - lo) && w.getLsbD (lo + j)) := by
  unfold bitsOf
  rw [Nat.testBit_mod_two_pow, Nat.testBit_shiftRight, BitVec.testBit_toNat]

theorem toNat_low (n : Nat) (h : n ≤ 64) : ((1#64 <<< n) - 1#64).toNat = 2 ^ n - 1 := by
  rcases Nat.lt_or_ge n 64 with h1 | h1
  · have : 2 ^ n < 2 ^ 64 := Nat.pow_lt_pow_right (by decide) h1
    have : 1 ≤ 2 ^ n := Nat.one_le_two_pow
    simp only [BitVec.toNat_sub, BitVec.toNat_shiftLeft, BitVec.toNat_ofNat, Nat.shiftLeft_eq]
    omega
  · obtain rfl : n = 64 := by omega
    decide

theorem getLsbD_maskOf (hi lo k : Nat) (h : lo ≤ hi) (h' : hi < 64) : (maskOf hi lo).getLsbD k = decide (lo ≤ k ∧ k ≤ hi) := by
  unfold maskOf
  rw [BitVec.getLsbD_shiftLeft, ← BitVec.testBit_toNat, toNat_low _ (by omega), Nat.testBit_two_pow_sub_one]
  by_cases a : lo ≤ k <;> by_cases b : k ≤ hi <;> simp [a, b] <;> omega

theorem getLsbD_putBits (w : Word) (hi lo v k : Nat) (h : lo ≤ hi) (h' : hi < 64) :
    (putBits w hi lo v).getLsbD k = if lo ≤ k ∧ k ≤ hi then v.testBit (k - lo) else w.getLsbD k := by
  unfold putBits
  simp only [BitVec.getLsbD_or, BitVec.getLsbD_and, BitVec.getLsbD_not, BitVec.getLsbD_shiftLeft, getLsbD_maskOf hi lo k h h']
  by_cases a : lo ≤ k ∧ k ≤ hi
  · have hk : k < 64 := by omega
    have hlt : ¬ k < lo := by omega
    have hs : k - lo < 64 := by omega
    simp only [a, hk, hlt, BitVec.getLsbD_ofNat, hs]
    simp
  · by_cases hk : k < 64
    · simp [a, hk]
    · have : w.getLsbD k = false := BitVec.getLsbD_of_ge w k (by omega)
      simp [a, hk, this]

/-- A field reads what was put into it, modulo its width. -/
theorem bitsOf_putBits_same (w : Word) (hi lo v : Nat) (h : lo ≤ hi) (h' : hi < 64) :
    bitsOf (putBits w hi lo v) hi lo = v % 2 ^ (hi + 1 - lo) := by
  apply Nat.eq_of_testBit_eq
  intro j
  rw [testBit_bitsOf, getLsbD_putBits w hi lo v (lo + j) h h', Nat.testBit_mod_two_pow]
  by_cases a : j < hi + 1 - lo
  · have : lo + j ≤ hi := by omega
    simp [a, this]
  · simp [a]

/-- A field apart from the one put reads as before. -/
theorem bitsOf_putBits_other (w : Word) (hi lo v hi' lo' : Nat) (h : lo ≤ hi) (h' : hi < 64) (hd : hi' < lo ∨ hi < lo') :
    bitsOf (putBits w hi lo v) hi' lo' = bitsOf w hi' lo' := by
  apply Nat.eq_of_testBit_eq
  intro j
  rw [testBit_bitsOf, testBit_bitsOf, getLsbD_putBits w hi lo v (lo' + j) h h']
  by_cases a : j < hi' + 1 - lo'
  · have : ¬ (lo ≤ lo' + j ∧ lo' + j ≤ hi) := by omega
    simp [this]
  · simp [a]

/-! ## Fields -/

section
variable (s : State)

/-- A field that was set reads the value, modulo its width. -/
theorem fld_setF_same (h : s.canon = true) (f : Fld) (i v : Nat) (hl : f.lo ≤ f.hi) (hh : f.hi < 64) :
    (after (setF f i v) s).fld f i = v % 2 ^ (f.hi + 1 - f.lo) := by
  simp only [setF, after_eff, State.fld, Fld.of, reg_ap_reg s h, if_true]
  exact bitsOf_putBits_same _ _ _ _ hl hh

/-- A field of another register reads as before. -/
theorem fld_setF_reg (h : s.canon = true) (f g : Fld) (i j v : Nat) (hk : regKey g.blk j g.off ≠ regKey f.blk i f.off) :
    (after (setF f i v) s).fld g j = s.fld g j := by
  simp only [setF, after_eff, State.fld, Fld.of, reg_ap_reg s h, if_neg hk]

/-- Another field of the same register reads as before. -/
theorem fld_setF_bits (h : s.canon = true) (f g : Fld) (i j v : Nat) (hl : f.lo ≤ f.hi) (hh : f.hi < 64)
    (hd : g.hi < f.lo ∨ f.hi < g.lo) : (after (setF f i v) s).fld g j = s.fld g j := by
  simp only [setF, after_eff, State.fld, Fld.of, reg_ap_reg s h]
  split
  · rename_i e
    rw [bitsOf_putBits_other _ _ _ _ _ _ hl hh hd]
    unfold State.reg
    rw [e]
  · rfl

/-- A register that was set reads the value. -/
theorem reg_setReg (h : s.canon = true) (b : Blk) (i o : Nat) (v : Word) (b' : Blk) (i' o' : Nat) :
    (after (setReg b i o v) s).reg b' i' o' = if regKey b' i' o' = regKey b i o then v else s.reg b' i' o' := by
  simp only [setReg, after_eff, reg_ap_reg s h]

/-- A counter that saturates reads one more, or its largest value. -/
theorem fld_bump (h : s.canon = true) (f : Fld) (i n : Nat) (hl : f.lo ≤ f.hi) (hh : f.hi < 64) :
    (after (bump f i n) s).fld f i = min (s.fld f i + n) f.top := by
  simp only [bump, after_withA]
  rw [fld_setF_same s h f i _ hl hh]
  refine Nat.mod_eq_of_lt ?_
  have : 0 < 2 ^ (f.hi + 1 - f.lo) := Nat.two_pow_pos _
  simp only [Fld.top]
  omega

end

end Sys2Proof.Machine
end

