-- ==== Sys2Proof/Laws/Exec.lean ====
section
/-!
SUPPORT. What any command can do: a list of effects on the state it finds, and nothing else.
-/
namespace Sys2Proof.Machine

/-- Every command answers the state after some list of effects. -/
theorem exec_effects (c : Instr) (s : State) : ∃ l : List Eff, exec c s = .next (apAll l s) := by
  cases c
  case warmReset src v =>
    cases src <;> exact ⟨_, rfl⟩
  all_goals exact ⟨_, rfl⟩

end Sys2Proof.Machine
end

