-- ==== Sys2Proof/Laws/Frames.lean ====
section
/-!
SUPPORT. What an action leaves as it was: `Keeps R a` says that from every sound state the action leads to a state related to it by R.
For a relation that is reflexive and transitive it composes over the ways actions are built. The reports (event log, events to the
host) are done here once.
-/
namespace Sys2Proof.Machine

/-- From every sound state the action leads to a related one. -/
def Keeps (R : State → State → Prop) (a : Act) : Prop := ∀ s, s.canon = true → R s (after a s)

/-- A relation that composes: reflexive and transitive. -/
structure Composes (R : State → State → Prop) : Prop where
  refl : ∀ s, R s s
  trans : ∀ a b c, R a b → R b c → R a c

variable {R : State → State → Prop}

theorem Keeps.mono {Q : State → State → Prop} (h : Keeps R a) (hRQ : ∀ s t, R s t → Q s t) : Keeps Q a :=
  fun s hc => hRQ _ _ (h s hc)

theorem keeps_skip (hR : Composes R) : Keeps R skip := fun s _ => hR.refl s

theorem keeps_nil (hR : Composes R) : Keeps R (fun _ => []) := fun s _ => hR.refl s

theorem keeps_one (f : State → Eff) (h : ∀ s, s.canon = true → R s ((f s).ap s)) : Keeps R (eff f) := fun s hc => by
  simpa using h s hc

theorem keeps_seqA_nil (hR : Composes R) : Keeps R (seqA []) := fun s _ => hR.refl s

theorem keeps_seqA_cons (hR : Composes R) {r : List Act} (ha : Keeps R a) (hr : Keeps R (seqA r)) : Keeps R (seqA (a :: r)) :=
  fun s hc => by
    rw [after_seqA_cons]
    exact hR.trans _ _ _ (ha s hc) (hr _ (after_canon a s hc))

theorem keeps_seqA (hR : Composes R) : ∀ (l : List Act), (∀ a ∈ l, Keeps R a) → Keeps R (seqA l)
  | [], _ => keeps_seqA_nil hR
  | a :: r, h => keeps_seqA_cons hR (h a (List.mem_cons_self ..)) (keeps_seqA hR r fun b hb => h b (List.mem_cons_of_mem _ hb))

theorem keeps_forA {α : Type} (hR : Composes R) (l : List α) (f : α → Act) (h : ∀ x ∈ l, Keeps R (f x)) : Keeps R (forA l f) := by
  apply keeps_seqA hR
  intro a ha
  obtain ⟨x, hx, rfl⟩ := List.mem_map.1 ha
  exact h x hx

theorem keeps_whenA (hR : Composes R) (c : State → Bool) (h : Keeps R a) : Keeps R (whenA c a) := fun s hc => by
  rw [after_whenA]
  split
  · exact h s hc
  · exact hR.refl s

theorem keeps_iteA (c : State → Bool) (ha : Keeps R a) (hb : Keeps R b) : Keeps R (iteA c a b) := fun s hc => by
  rw [after_iteA]
  split
  · exact ha s hc
  · exact hb s hc

theorem keeps_withA {α : Type} (f : State → α) (g : α → Act) (h : ∀ x, Keeps R (g x)) : Keeps R (withA f g) :=
  fun s hc => h (f s) s hc

theorem keeps_forOpt {α : Type} (hR : Composes R) (o : Option α) (g : α → Act) (h : ∀ x, Keeps R (g x)) : Keeps R (forOpt o g) := by
  cases o
  · exact keeps_skip hR
  · exact h _

/-- An action read off the state. -/
theorem keeps_read (f : State → Act) (h : ∀ s, Keeps R (f s)) : Keeps R (fun s => f s s) := fun s hc => h s s hc

theorem keeps_ite (c : Prop) [Decidable c] (ha : Keeps R a) (hb : Keeps R b) : Keeps R (if c then a else b) := by
  split
  · exact ha
  · exact hb

/-! ## Reports -/

theorem composes_reports (l : List Nat) : Composes (ButReports l) where
  refl s := ⟨rfl, rfl, rfl, fun _ => rfl, fun _ _ _ => rfl⟩
  trans a b c h1 h2 := by
    obtain ⟨h11, h12, h13, h14, h15⟩ := h1
    obtain ⟨h21, h22, h23, h24, h25⟩ := h2
    refine ⟨?_, h22.trans h12, ?_, ?_, ?_⟩
    · rw [h21, h11]
    · rw [h23, h13]
    · intro d
      rw [h24 d, h14 d]
    · intro k hk he
      rw [h25 k hk he, h15 k hk he]

theorem ButReports.mono {l l' : List Nat} (hl : ∀ k ∈ l, k ∈ l') {s t : State} (h : ButReports l s t) : ButReports l' s t :=
  ⟨h.1, h.2.1, h.2.2.1, h.2.2.2.1, fun k hk he => h.2.2.2.2 k (fun x => hk (hl k x)) he⟩

theorem reports_modPort (n : Nat) (f : TPort → TPort) : Keeps (ButReports []) (modPort n f) := fun s _ => by
  simp [modPort, ButReports, RegsButEvt, Eff.ap, State.die]

theorem reports_emit (o : Out) : Keeps (ButReports []) (emit o) := fun s _ => by
  simp [emit, ButReports, RegsButEvt, Eff.ap, State.die]

theorem reports_draw : Keeps (ButReports []) draw := fun s _ => by
  simp [draw, ButReports, RegsButEvt, Eff.ap, State.die]

/-- A register of the event table is set. -/
theorem reports_evt (f : Fld) (n v x : Nat) (hn : n < 4) (hv : v < 128) (hf : f.blk = .trl ∧ f.off = 0x400) :
    Keeps (ButReports []) (setF (f.nth v) n x) := fun s hc => by
  refine ⟨rfl, rfl, rfl, fun _ => rfl, fun k _ he => ?_⟩
  simp only [setF, after_eff, Eff.ap]
  refine SMap.get_set_other _ _ _ _ _ (canon_regs s hc) fun hk => he ⟨n, v, hn, hv, ?_⟩
  rw [hk]
  simp [Fld.nth, hf.1, hf.2]

theorem reports_nvm (f : Nvm → Nvm) (h : ∀ n, (f n).sansLog = n.sansLog) : Keeps (ButReports []) (modNvm f) := fun s _ => by
  simp [modNvm, ButReports, RegsButEvt, Eff.ap, State.die, h]

theorem reports_keeper (f : Keeper → Keeper)
    (h : ∀ k, f k = { k with kHold := (f k).kHold, kDropped := (f k).kDropped, evPending := (f k).evPending }) :
    Keeps (ButReports []) (modKeeper f) := fun s _ => by
  refine ⟨rfl, rfl, ?_, fun _ => rfl, fun _ _ _ => rfl⟩
  simpa [modKeeper, Eff.ap] using h s.keeper

theorem reports_die (d : Nat) (f : Die → Die) (h : ∀ x, f x = { x with logHold := (f x).logHold, logDropped := (f x).logDropped }) :
    Keeps (ButReports []) (modDie d f) := fun s hc => by
  refine ⟨rfl, rfl, rfl, fun d' => ?_, fun _ _ _ => rfl⟩
  simp only [modDie, after_eff, die_ap_die s hc]
  split
  · rename_i e
    subst e
    exact h _
  · rfl

theorem reports_pumpMsgs (n : Nat) : ∀ l : List TMsg, Keeps (ButReports []) (pumpMsgs n l)
  | [] => keeps_skip (composes_reports [])
  | m :: r => by
    have hr := reports_pumpMsgs n r
    have hR := composes_reports []
    intro s hc
    simp only [pumpMsgs, after]
    split
    · exact (keeps_seqA_cons hR (reports_modPort _ _) (keeps_seqA_cons hR hr (keeps_seqA_nil hR))) s hc
    · exact (keeps_seqA_cons hR (reports_modPort _ _) (keeps_seqA_cons hR (reports_emit _) (keeps_seqA_cons hR hr (keeps_seqA_nil hR)))) s hc

theorem reports_pumpPort (n : Nat) : Keeps (ButReports []) (pumpPort n) := by
  have hR := composes_reports []
  intro s hc
  exact (keeps_seqA_cons hR (reports_modPort _ _) (keeps_seqA_cons hR (reports_pumpMsgs n _) (keeps_seqA_nil hR)) : Keeps _ (seqA _)) s hc

theorem reports_traisSend (n : Nat) (m : TMsg) : Keeps (ButReports []) (traisSend n m) := by
  have hR := composes_reports []
  exact keeps_whenA hR _ (keeps_seqA_cons hR (reports_modPort _ _) (keeps_seqA_cons hR (reports_pumpPort n) (keeps_seqA_nil hR)))

theorem reports_sendEvt (n v data : Nat) : Keeps (ButReports []) (sendEvt n v data) := by
  have hR := composes_reports []
  intro s hc
  exact (keeps_seqA_cons hR (reports_traisSend _ _)
    (keeps_seqA_cons hR (keeps_whenA hR _ (keeps_read (fun (s : State) => modPort n (fun p => { p with
      holdoff := p.holdoff.filter (fun x => x.1 != _) ++ [(_, s.mile)] })) fun _ => reports_modPort _ _)) (keeps_seqA_nil hR)) :
    Keeps _ (seqA _)) s hc

theorem reports_portEvent (n v data : Nat) (hn : n < 4) (hv : v < 128) : Keeps (ButReports []) (portEvent n v data) := by
  have hR := composes_reports []
  intro s hc
  simp only [portEvent, after]
  split
  · split
    · exact (keeps_seqA_cons hR (reports_evt _ n v 1 hn hv ⟨rfl, rfl⟩) (keeps_seqA_cons hR (reports_modPort _ _) (keeps_seqA_nil hR))) s hc
    · exact reports_sendEvt _ _ _ s hc
  · exact hR.refl s

/-- An event to the host changes what reports may and nothing else. -/
theorem reports_raiseEvent (p v data : Nat) (hv : v < 128) : Keeps (ButReports []) (raiseEvent p v data) := by
  have hR := composes_reports []
  unfold raiseEvent
  intro s hc
  rw [after_withA]
  refine keeps_forA hR _ _ (fun n hn => reports_portEvent n v data ?_ hv) s hc
  simp only [State.partPorts, allPorts, List.mem_filter, List.mem_range] at hn
  exact hn.1

theorem reports_logPut (r : LogRec) : Keeps (ButReports []) (logPut r) := by
  have hR := composes_reports []
  intro s hc
  refine (?_ : Keeps _ (seqA _)) s hc
  refine keeps_seqA_cons hR (reports_nvm _ fun n => rfl) (keeps_seqA_cons hR (keeps_whenA hR _ ?_)
    (keeps_seqA_cons hR (reports_raiseEvent _ _ _ (by decide)) (keeps_seqA_nil hR)))
  exact keeps_ite _ (reports_emit _) (reports_keeper _ fun k => rfl)

theorem reports_nvmWrite (a : Act) (h : Keeps (ButReports []) a) : Keeps (ButReports []) (nvmWrite a) := by
  have hR := composes_reports []
  intro s hc
  refine (keeps_seqA_cons hR reports_draw (keeps_seqA_cons hR ?_ (keeps_seqA_nil hR)) : Keeps (ButReports []) (seqA _)) s hc
  refine keeps_ite _ h (keeps_ite _ ?_ (keeps_whenA hR _ ?_))
  · exact keeps_seqA_cons hR (reports_nvm _ fun n => rfl) (keeps_seqA_cons hR h (keeps_seqA_nil hR))
  · exact keeps_seqA_cons hR (reports_nvm _ fun n => rfl) (keeps_seqA_cons hR (reports_logPut _) (keeps_seqA_nil hR))

theorem reports_logRec (d : Option Nat) (r : LogRec) : Keeps (ButReports []) (logRec d r) := by
  intro s hc
  simp only [logRec, after]
  split
  · exact reports_nvmWrite _ (reports_logPut r) s hc
  · cases d with
    | some d => exact reports_die d _ (fun x => by split <;> rfl) s hc
    | none => exact reports_keeper _ (fun k => by split <;> rfl) s hc

/-- A record of the event log changes what reports may and nothing else. -/
theorem reports_logEv (d : Option Nat) (cls sev code unit part job : Nat) (h : Word32) (detail : List Byte) :
    Keeps (ButReports []) (logEv d cls sev code unit part job h detail) := by
  unfold logEv
  exact keeps_read (fun s => logRec d ⟨0, cls, sev, code, BitVec.ofNat 32 unit, part, job, s.mile, 0, h, padTo 30 detail⟩)
    fun s => reports_logRec d _

/-- The outcome of a setting of registers listed, followed by reports: those registers and what reports may change. -/
theorem reports_setF (f : Fld) (i v : Nat) (l : List Nat) (h : regKey f.blk i f.off ∈ l) : Keeps (ButReports l) (setF f i v) := fun s hc => by
  refine ⟨rfl, rfl, rfl, fun _ => rfl, fun k hk _ => ?_⟩
  simp only [setF, after_eff, Eff.ap]
  exact SMap.get_set_other _ _ _ _ _ (canon_regs s hc) fun e => hk (e ▸ h)

theorem reports_bump (f : Fld) (i n : Nat) (l : List Nat) (h : regKey f.blk i f.off ∈ l) : Keeps (ButReports l) (bump f i n) :=
  keeps_withA _ _ fun _ => reports_setF f i _ l h

theorem reports_setReg (b : Blk) (i o : Nat) (v : Word) (l : List Nat) (h : regKey b i o ∈ l) : Keeps (ButReports l) (setReg b i o v) :=
  fun s hc => by
  refine ⟨rfl, rfl, rfl, fun _ => rfl, fun k hk _ => ?_⟩
  simp only [setReg, after_eff, Eff.ap]
  exact SMap.get_set_other _ _ _ _ _ (canon_regs s hc) fun e => hk (e ▸ h)

/-- A refused access: its count in SEC_VIOL, and reports. -/
theorem reports_refuse (src : Src) (w : Bool) (b : Blk) (i off addr : Nat) :
    Keeps (ButReports [regKey .sec 0 F.SEC_VIOL_COUNT.off]) (refuse src w b i off addr) := by
  have hR := composes_reports [regKey .sec 0 F.SEC_VIOL_COUNT.off]
  have key : ∀ p : Nat, ∀ x : Act, Keeps (ButReports []) x →
      Keeps (ButReports [regKey .sec 0 F.SEC_VIOL_COUNT.off])
        (seqA [bump F.SEC_VIOL_COUNT 0 1, setF F.SEC_VIOL_PART 0 p, setF F.SEC_VIOL_TYPE 0 b.code, x]) := by
    intro p x hx
    refine keeps_seqA_cons hR (reports_bump _ _ _ _ (List.mem_singleton.2 rfl)) (keeps_seqA_cons hR (reports_setF _ _ _ _ (List.mem_singleton.2 rfl))
      (keeps_seqA_cons hR (reports_setF _ _ _ _ (List.mem_singleton.2 rfl)) (keeps_seqA_cons hR ?_ (keeps_seqA_nil hR))))
    exact hx.mono fun s t h => h.mono fun k hk => by cases hk
  unfold refuse
  exact keeps_read (fun s => seqA [bump F.SEC_VIOL_COUNT 0 1, setF F.SEC_VIOL_PART 0 ((s.srcPart src).getD 0x3F),
    setF F.SEC_VIOL_TYPE 0 b.code, logEv (dieOfInst b i) 8 2 1 noUnit ((s.srcPart src).getD 0x3F) 0 0
      (leBytes 2 b.code ++ leBytes 1 ((s.srcPart src).getD 0x3F) ++ leBytes 1 (if w then 1 else 0) ++ leBytes 4 0 ++ leBytes 8 addr)])
    fun s => key _ _ (reports_logEv _ _ _ _ _ _ _ _ _)

end Sys2Proof.Machine
end

