-- ==== Sys2Proof/Laws/Sequencer.lean ====
section
/-!
SUPPORT. What the shared operations of a sequencer do.
-/
namespace Sys2Proof.Machine

/-- A sequencer reads what was put into it; the others as before. -/
theorem core_modCore (s : State) (hc : s.canon = true) (c : CoreId) (f : Core → Core) (c' : CoreId) :
    (after (modCore c f) s).core c' = if c' = c then f (s.core c) else s.core c' := by
  simp only [modCore, after_eff]
  exact core_ap_core s hc c _ c'

/-- A register of a sequencer reads what was written to it, s0 zero. -/
theorem sreg_setSreg (k : Core) (a n : Nat) (v : Word32) (hn : n < 16) :
    (k.setSreg a v).sreg n = if n = a ∧ n ≠ 0 then v else k.sreg n := by
  unfold Core.setSreg Core.sreg
  by_cases ha : a = 0
  · subst ha; by_cases h0 : n = 0 <;> simp [h0]
  · by_cases h0 : n = 0
    · simp [h0]
    · simp [ha, h0, hn, List.getD]

/-- A sequencer in RUN executes. -/
theorem onRun_eq (s : State) (c : CoreId) (f : Core → Act) (h : s.runs c = true) : after (onRun c f) s = after (f (s.core c)) s := by
  simp only [State.runs, Bool.and_eq_true, beq_iff_eq, Bool.not_eq_true'] at h
  simp [onRun, after, h.1, h.2]

/-- Short of instruction 1,023 the pc advances. -/
theorem nextPc_eq (s : State) (c : CoreId) (h : (s.core c).pc ≠ 1023) :
    after (nextPc c) s = after (modCore c fun k => { k with pc := k.pc + 1 }) s := by
  simp [nextPc, after, h]

/-- An instruction that writes sA writes it and goes on, and nothing else changes. -/
theorem writeS_ok (s : State) (hc : s.canon = true) (c : CoreId) (a : Nat) (v : Word32) (h : (s.core c).pc < 1023) :
    SregWritten c a v s (after (writeS c a v) s) ∧ after (writeS c a v) s = { s with cores := (after (writeS c a v) s).cores } := by
  have hc1 := after_canon (modCore c fun k => k.setSreg a v) s hc
  have hp : ((after (modCore c fun k => k.setSreg a v) s).core c).pc ≠ 1023 := by
    rw [core_modCore s hc, if_pos rfl]
    have : ((s.core c).setSreg a v).pc = (s.core c).pc := by
      unfold Core.setSreg
      split <;> rfl
    rw [this]
    omega
  have e : after (writeS c a v) s = after (modCore c fun k => { k with pc := k.pc + 1 }) (after (modCore c fun k => k.setSreg a v) s) := by
    rw [writeS, after_seqA_cons, after_seqA_cons, after_seqA_nil, nextPc_eq _ _ hp]
  rw [e]
  refine ⟨⟨?_, ?_, ?_⟩, rfl⟩
  · intro n hn
    rw [core_modCore _ hc1, if_pos rfl, core_modCore s hc, if_pos rfl]
    exact sreg_setSreg (s.core c) a n v hn
  · rw [core_modCore _ hc1, if_pos rfl, core_modCore s hc, if_pos rfl]
    unfold Core.setSreg; split <;> rfl
  · intro c' h'
    simp only [List.mem_singleton] at h'
    rw [core_modCore _ hc1, if_neg h', core_modCore s hc, if_neg h']


end Sys2Proof.Machine
end

