-- ==== Sys2Proof/WellFormed.lean ====
section
/-!
DEFINITION. Which commands an event of the part can be: the operands the manual's formats allow. `exec` does not need it; a command
it refuses is no event the part can meet.
-/
namespace Sys2Proof

/-- The word of a NOP command: opcode 0, or a word R107 does not list (R107, R111). -/
def nopWord (w : Word32) : Bool :=
  let op := w.toNat / 2 ^ 26
  op == 0 || !(op ≤ 9 || (0x0C ≤ op && op ≤ 0x0E) || op == 0x10 || (0x12 ≤ op && op ≤ 0x1A)) || (op == 0x14 && 5 ≤ w.toNat % 8)

/-- A partial sum: 16 blocks of 32 words (R40). -/
def blksOk (l : List AccBlk) : Bool := l.length == 16 && l.all fun b => b.w.length == 32

/-- A stack request of at least one byte, below the end of the device addresses. -/
def reqOk (a : Nat) : ReqOp → Bool
  | .read n => decide (1 ≤ n) && decide (a + n ≤ 2 ^ 48)
  | .write bs => decide (1 ≤ bs.length) && decide (a + bs.length ≤ 2 ^ 48)

/-- A sensor of R469: 16 on a Y-die, one in a stack, two on the K-die. -/
def sensorOk (unit : Fin 49) (sns : Fin 16) : Bool :=
  if unit.val < 32 then true else if unit.val < 44 then sns == 0 else unit.val == 48 && decide (sns.val < 2)

/-- A packet as R132 and R133 have it: a listed type and endpoint kind, at most 4,592 bytes; READ_REQ, MSG and MARKER_ACK on CTL and PSUM on
RED, but for another part's traffic in transit; at most two flits on CTL. -/
def Packet.ok (k : Packet) : Bool :=
  let t := k.ptype.toNat
  decide (1 ≤ t) && decide (t ≤ 7) && decide (k.data.length ≤ 4592) && decide (k.kind.val ≤ 9) && decide (k.srcKind.val ≤ 9) &&
    (k.vc == .trn || ((!(t == 2 || t == 4 || t == 7) || k.vc == .ctl) && (t != 5 || k.vc == .red))) &&
    (k.vc != .ctl || decide (k.data.length ≤ 112))

/-- The operands of a command are those of an event of the part. -/
def Instr.wellFormed (i : Instr) : Bool :=
  match i with
  | .registerWrite _ _ _ => true
  | .recipeUpdate _ _ _ => true
  | .recipeApply _ _ => true
  | .flagWindowEnd _ => true
  | .fmtCntClear _ _ _ => true
  | .arrCntClear _ _ _ => true
  | .nop _ w => nopWord w.data
  | .ldi _ _ _ => true
  | .add _ _ _ _ => true
  | .sub _ _ _ _ => true
  | .and _ _ _ _ => true
  | .or _ _ _ _ => true
  | .shl _ _ _ _ => true
  | .shr _ _ _ _ => true
  | .ld _ _ _ _ _ => true
  | .st _ _ _ _ => true
  | .bz _ _ _ => true
  | .bnz _ _ _ => true
  | .jmp _ _ => true
  | .wait _ _ => true
  | .mvm _ _ => true
  | .mvmComplete _ => true
  | .opass _ _ => true
  | .opassComplete _ => true
  | .accClearAddMvm _ _ => true
  | .accAddMvm _ _ => true
  | .accAddOpass _ _ => true
  | .accAddPsum _ _ => true
  | .accAddSpill _ _ => true
  | .rq _ _ _ => true
  | .send _ _ _ => true
  | .psum _ _ _ => true
  | .injectionComplete _ => true
  | .spill _ _ => true
  | .spillDone _ _ => true
  | .done _ => true
  | .fail _ _ => true
  | .sequencerWatchdog _ => true
  | .outCntClear _ _ _ => true
  | .partialSumArrival _ _ _ blks => blksOk blks
  | .nocFlitReceive _ _ _ => true
  | .nocReplay _ _ _ => true
  | .d2dChannelDown _ _ _ => true
  | .meshLinkDown _ _ => true
  | .packetRoute _ _ k => k.ok
  | .mcHoldExpiry _ _ _ _ => true
  | .unicastHoldExpiry _ _ _ => true
  | .mcHold _ _ => true
  | .marker _ _ _ => true
  | .markerAck _ _ _ => true
  | .imageLoad _ _ _ => true
  | .imageCheck _ _ _ => true
  | .imageUnload _ _ _ => true
  | .unloadDrainExpiry _ => true
  | .imageChecksDone _ => true
  | .bindDone _ _ _ _ _ _ _ => true
  | .sliceBindTimeout _ _ => true
  | .loadReady _ => true
  | .forbidSet _ _ _ => true
  | .forbidClear _ _ _ => true
  | .rebindSpareReady _ => true
  | .admissionDoorbell _ _ _ => true
  | .openEntry _ => true
  | .feed _ => true
  | .close _ => true
  | .cancel _ => true
  | .commandForward _ _ op _ _ => decide (2 ≤ op.val)
  | .completionHeadWrite _ _ _ => true
  | .ringBaseWrite _ _ _ _ => true
  | .ptBaseWrite _ _ _ => true
  | .peekWrite _ _ _ => true
  | .passageCacheFill _ _ _ => true
  | .arrivalReport _ _ _ _ => true
  | .batchClose _ _ _ => true
  | .batchWaitExpiry _ _ _ => true
  | .workDispatch _ _ _ => true
  | .stepComplete _ _ _ => true
  | .admissionStop _ => true
  | .admissionStopLift _ => true
  | .deadlinePass _ _ => true
  | .routerScores _ _ _ _ segs => decide (1 ≤ segs.data.length)
  | .capacityEmptyBatch _ _ _ => true
  | .expertCount _ _ _ _ _ => true
  | .entryPointInject _ _ _ _ => true
  | .exitTest _ _ _ _ _ => true
  | .histFlush _ => true
  | .expCntClear _ _ _ => true
  | .stackRequest _ _ _ addr op _ => reqOk addr.toNat op
  | .lineFill _ addr ecc => decide (addr.toNat % 256 = 0) && decide (ecc.length = 8)
  | .prefetchHint _ _ _ => true
  | .prefetchDrop _ _ => true
  | .trackerRelease _ _ => true
  | .windowOwnerChange _ base limit _ => decide (base.toNat ≤ limit.toNat)
  | .scrubPass n _ uncorr => uncorr.all fun a => a.toNat / 2 ^ 37 == n.val
  | .stkCntClear _ _ _ => true
  | .tierWork _ _ _ _ _ _ _ => true
  | .tierArrayDone _ _ => true
  | .nvmeCompletion _ _ _ _ _ => true
  | .nvmeTimeout _ _ => true
  | .rdmaConnectionLost _ _ => true
  | .upstreamTimeout _ _ => true
  | .forwardedRecord _ _ _ _ data => decide (data.length = 263232)
  | .sstatWrite _ _ => true
  | .ldrCntClear _ _ => true
  | .programStart _ => true
  | .programDone _ _ _ => true
  | .retainedVerifyDone _ _ _ => true
  | .swapStart _ _ => true
  | .swapAbort _ _ => true
  | .swapLandedReport _ _ _ => true
  | .swapFlip _ => true
  | .lowWaveReport _ _ _ => true
  | .waveClear _ _ => true
  | .oldLimitExpiry _ => true
  | .checkerHardReport _ => true
  | .secondOpinionDone _ _ => true
  | .softReport _ => true
  | .unitHistoryRecord _ _ _ _ _ _ => true
  | .testRunStart _ _ => true
  | .testRunDone _ _ => true
  | .sensorSample unit sns _ => sensorOk unit sns
  | .sampleDelivery _ => true
  | .calDemand _ _ _ => true
  | .calPeriodDue _ => true
  | .calEngage _ => true
  | .calPassDone _ => true
  | .calGapExpiry _ _ _ => true
  | .linkTrain _ _ => true
  | .bfpFlitReceive _ f => decide (f.data.length = 240)
  | .bfpReplay _ _ => true
  | .shareRegrant _ _ _ _ => true
  | .bfpPacketArrive _ _ => true
  | .sliceSet _ _ => true
  | .sliceClear _ _ => true
  | .milestoneSync _ _ _ _ _ _ => true
  | .parentLost => true
  | .lockLoss => true
  | .ethLinkChange _ _ => true
  | .collectiveContribution _ _ _ _ _ _ _ => true
  | .collectivePacket _ _ _ _ _ _ _ _ _ _ _ => true
  | .collectiveTimeout _ _ _ _ => true
  | .barrierGo _ _ => true
  | .arrive _ _ _ _ _ => true
  | .release _ _ _ _ => true
  | .barrierReleaseTime _ => true
  | .barrierTimeout _ => true
  | .quadFail _ _ => true
  | .linkDead _ cause => cause != 0
  | .abort _ _ _ _ _ => true
  | .traisTrain _ _ => true
  | .traisFlitReceive _ f => decide (f.data.length = 240) && (f.ftype != 1 || (decide (1 ≤ f.nmsg.toNat) && decide (f.nmsg.toNat ≤ 15)))
  | .traisPortDown _ _ => true
  | .traisRd _ _ off len _ => decide (1 ≤ len) && decide (off.toNat % 128 + len ≤ 128)
  | .traisWr _ _ off data => decide (1 ≤ data.length) && decide (off.toNat % 128 + data.length ≤ 128)
  | .traisRdS _ off _ => decide (off.toNat % 64 = 0)
  | .traisRdE _ off _ => decide (off.toNat % 64 = 0)
  | .traisWb _ off data => decide (off.toNat % 64 = 0) && decide (data.length = 64)
  | .traisSnpRsp _ _ data => data.all fun b => b.length == 64
  | .traisCpl _ _ _ data => decide (data.length ≤ 128)
  | .traisSnpInv _ _ _ => true
  | .traisSnpRcl _ _ _ => true
  | .snoopTimeout _ _ => true
  | .eventRaise v _ => decide (v.val ≤ 100)
  | .eventHoldoffExpiry _ _ => true
  | .eventTableWrite _ _ _ _ => true
  | .ringWindowRemap _ _ _ _ => true
  | .dmaRingWrite _ _ _ _ => true
  | .dmaDoorbell _ _ _ _ => true
  | .dmaDescriptor _ _ => true
  | .dmaTransferDone _ _ status _ _ => status == 0 || status == 5 || status == 6
  | .dmaBurstGap _ _ => true
  | .dmaResume _ _ _ _ => true
  | .dmaAbort _ _ _ _ => true
  | .keeperWatchdog => true
  | .keeperReturn => true
  | .logRecord _ _ _ _ _ _ _ _ => true
  | .mbxRead _ _ => true
  | .mbxWrite _ _ => true
  | .mbxCommit _ _ => true
  | .mbxInfo _ _ => true
  | .mbxWake _ _ => true
  | .mctpControl _ _ => true
  | .i3cCcc _ _ => true
  | .pldmBase _ _ => true
  | .pldmPlatform _ _ => true
  | .pldmRequestUpdate => true
  | .pldmFirmwareData _ data => decide (data.length ≤ 4096)
  | .pldmActivateFirmware => true
  | .pldmCancelUpdate => true
  | .pldmOem _ _ _ _ data => decide (data.length ≤ 1024)
  | .monEnable _ _ => true
  | .monStartupDone => true
  | .monConversionDone _ => true
  | .monDelayExpiry => true
  | .injSw _ _ => true
  | .monInjectedTrigger _ => true
  | .monFifoRead _ => true
  | .governorTick demand => decide (demand.length = 32)
  | .overcurrentTrip _ => true
  | .overcurrentHoldEnd => true
  | .pwrcapChange _ => true
  | .thermalStop unit sns => sensorOk unit sns
  | .stopDrainEnd => true
  | .stopRailsOff => true
  | .hardwareCut unit sns => sensorOk unit sns
  | .undervoltage _ => true
  | .refclkLoss => true
  | .vauxRemoval => true
  | .powerReqP0 _ _ => true
  | .powerReqP2 _ _ => true
  | .p2DrainEnd _ => true
  | .powerReqP3 _ _ => true
  | .wakePin => true
  | .stagePtab _ _ => true
  | .stageCfg _ _ => true
  | .stageDeploy _ _ => true
  | .stageDecommission _ _ => true
  | .stageProvision _ _ => true
  | .attest _ _ => true
  | .present _ _ => true
  | .revoke _ _ => true
  | .newNonce _ _ => true
  | .debugOpen _ _ => true
  | .tokenExpiry => true
  | .tapInstruction _ => true
  | .piece _ _ => true
  | .activate _ _ => true
  | .cancelUpdate _ _ => true
  | .confirm _ _ => true
  | .confirmExpiry => true
  | .recover _ _ => true
  | .coldReset src cause _ _ _ _ => cause != 0 && (decide (cause.val = 3) == src.isSome)
  | .warmReset _ _ => true
  | .partitionReset _ _ _ => true
  | .bringupRailsEnable _ _ => true
  | .bringupReady _ _ => true
  | .swapCommandTimeout _ => true
  | .noiseModelRefresh => true
  | .fabricMcHoldExpiry _ _ _ => true

end Sys2Proof
end

