-- ==== Sys2Proof/Tests/Slice0.lean ====
section
/-!
SUPPORT. Small tests: ill-formed commands are refused, concrete states meet the hypotheses of every statement, and a few single steps give
what the manual's rules give.
-/
namespace Sys2Proof.Tests
open Sys2Proof Sys2Proof.Machine

set_option Elab.async false

/-- The part in P0 with its Keeper running and Trais port 0 UP. -/
def up : State := after (seqA [modPower fun p => { p with rails := true }, setF F.PWR_STATE_STATE 0 0, setF F.KPR_STS_STATE 0 1,
  setF F.SEC_STS_BOOT_DONE 0 1, setF F.TRL_LNK_STS_STATE 0 2]) State.reset

/-- That part after some more of its state has been set. -/
def on (l : List Act) : State := after (seqA l) up

/-- Host software of partition 0. -/
def host : Src := .port 0

/-- Tile (0, 0) of die 0, and its sequencer. -/
def t0 : TileId := ⟨0, 0, 0⟩
def c0 : CoreId := .tile t0

/-! ## The queue, reset and registers -/

theorem witness_IdleStepIsOneCycle : State.reset.pending = [] ∧ State.reset.power.vaux = true ∧ State.reset.milestone.slew = 0 ∧
    State.reset.posNs + 1 ≠ 1000000000 ∧ (after (eff fun _ => .posNs 999999999) State.reset).posNs + 1 = 1000000000 ∧
    (after (modPower fun p => { p with vaux := false }) State.reset).power.vaux = false := by decide +kernel

theorem witness_StepKeepsCanonicalForm : State.reset.canon = true ∧ up.canon = true := by decide +kernel

/-- R10: 0x0804_0000_00F8 lies in no block, and CHK has no register at 0x0F8. -/
theorem witness_UnoccupiedRegisterAddresses : up.quiet = true ∧ target 0x080280000000 = .nothing ∧ target 0x0800000400F8 = .reg .chk 0 0xF8 ∧
    up.resolve host .chk 0 0xF8 = (.chk, 0, 0xF8) ∧ up.admits host true .chk 0 0xF8 = true ∧ up.admits host false .chk 0 0xF8 = true ∧
    rowOf .chk 0xF8 = none := by decide +kernel

/-- The part with Trais port 1 in partition 1, the dies in 0. -/
def split : State := on [modNvm fun n => { n with ptab := { n.ptab with trais := [0, 1, 0, 0] } }]

theorem witness_RegisterWrites : up.canon = true ∧ up.quiet = true ∧ target 0x080000040100 = .reg .chk 0 0x100 ∧
    up.takes host .chk 0 0x100 = true ∧ ((rowOf .chk 0x100).any fun r => !r.flds.isEmpty) = true ∧
    split.canon = true ∧ split.quiet = true ∧ split.admits (.port 1) true .chk 0 0x100 = false := by decide +kernel

/-! ## Sequencers, arrays and accumulators -/

/-- A work item of passage 5 at stage 0. -/
def wi : WorkItem := ⟨0x00100005, 0, 0, 0, false, false, false, 0, 0, 0, 0, 0, 0, Recipe.zero, 0, 142, 1, 0, none, 0, none, none⟩

/-- Tile t0 running. -/
def run0 (f : Core → Core) : State := on [modCore c0 fun k => f { k with st := 1 }]

/-- With passage 5 live in die 0. -/
def live5 (l : List Act) : State := on (modPassage 5 (fun p => { p with handle := 0x00100005, st := 3, inflight := true }) :: l)

theorem witness_SequencerArithmetic : (run0 id).canon = true ∧ (run0 id).goesOn c0 = true ∧ (run0 fun k => { k with pc := 1022 }).goesOn c0 = true ∧
    (0x20003 : BitVec 18).getLsbD 17 = true ∧ (3 : BitVec 18).getLsbD 17 = false := by decide +kernel

theorem witness_SequencerLoadStore : (run0 id).canon = true ∧ (run0 id).goesOn c0 = true ∧
    (((run0 id).core c0).sreg 0 + (0x1100 : BitVec 18).signExtend 32).toNat = 0x1100 ∧
    (((run0 id).core c0).sreg 0 + (0x7FFC : BitVec 18).signExtend 32).toNat = 0x7FFC := by decide +kernel

def wait1 : State := run0 fun k => { k with sregs := (List.replicate 16 0).set 1 7, req := 2 }

theorem witness_SequencerControl : wait1.canon = true ∧ wait1.goesOn c0 = true ∧ (wait1.core c0).sreg 1 ≠ 0 ∧ (wait1.core c0).sreg 2 = 0 ∧
    0 ≤ ((wait1.core c0).pc : Int) + (1023 : BitVec 18).toInt ∧ ((wait1.core c0).pc : Int) + (1023 : BitVec 18).toInt ≤ 1023 ∧
    (wait1.core c0).ready 1 = false ∧ (wait1.core c0).ready 2 = true ∧
    (run0 id).runs c0 = true ∧ ((run0 id).core c0).item = none ∧ ((run0 id).core c0).queue = [] ∧ ((run0 id).core c0).second = none ∧
    ((run0 id).core c0).secondQ = [] ∧ (0x28000000 : Word32).toNat / 2 ^ 26 = 0x0A ∧
    (((run0 id).core c0).sreg 0 + (0x10FC : BitVec 18).signExtend 32).toNat = 0x10FC ∧
    (((run0 id).core c0).sreg 0 + (0x8000 : BitVec 18).signExtend 32).toNat = 0x8000 ∧
    ((run0 fun k => { k with pc := 1023 }).core c0).pc = 1023 := by decide +kernel

def taken : State := run0 fun k => { k with queue := [wi] }
def guestBusy : State := on [modPassage 5 fun p => { p with handle := 0x00100005, st := 3, guest := true },
  modCore c0 fun k => { k with st := 1, item := some wi }]
def busy : State := live5 [modCore c0 fun k => { k with st := 1, item := some wi },
  modCore (.ctx 0 0) fun k => { k with st := 1, item := some wi },
  modDie 0 fun x => { x with sb := [⟨5, 0, 0, 1, 1, true, 0, 0, 2, none, 0, none, 0, 0, false, false, 0, Recipe.zero, 0⟩] }]

theorem witness_WorkItems : taken.canon = true ∧ taken.goesOn c0 = true ∧ (taken.core c0).item = none ∧ (taken.core c0).second = none ∧
    (taken.core c0).queue = wi :: [] ∧ busy.canon = true ∧ busy.byHandle wi.handle = some 5 ∧ (busy.core c0).item = some wi ∧
    busy.steady = true ∧ (busy.passage 5).guest = false ∧ guestBusy.canon = true ∧ guestBusy.byHandle wi.handle = some 5 ∧
    guestBusy.steady = true ∧ (guestBusy.passage 5).guest = true ∧ (guestBusy.core c0).item = some wi ∧ guestBusy.goesOn c0 = true ∧
    wi.input = none ∧ wi.retry = false ∧ busy.runs c0 = true ∧ inDrive (((busy.core c0).sreg 0).toNat % 2) (0x1600 : Fin 32768).val = true ∧
    busy.goesOn c0 = true ∧ (busy.core (.ctx 0 0)).item = some wi ∧ busy.runs (.ctx 0 0) = true ∧ busy.calPaused wi = false := by decide +kernel

/-- Tile t0 bound to logical array 0 of stage 0, its array BOUND, its die with credit, its drive buffer 0 with one Y4 segment of ones. -/
def bound0 : State := live5 [modCore c0 fun k => { k with st := 1, item := some wi, bound := some (0, 0, 0) },
  setF F.TIL_ARR_STS_STATE 0 1, modDie 0 fun x => { x with credit := 1000000 }]
def mvm0 (sk : Bool) : MvmOp := ⟨0, 4, 0, 127, List.replicate 512 0, 0, 0, sk, false, false⟩
def outstanding : State := on [modCore c0 fun k => { k with st := 1, item := some wi, mvm := some (mvm0 false), opass := some (mvm0 false) }]
def passing : State := on [modCore c0 fun k => { k with st := 1, item := some wi, opass := some (mvm0 false) }]
def skipped : State := on [modCore c0 fun k => { k with st := 1, item := some wi, mvm := some (mvm0 true) }]

theorem witness_MatrixProducts : bound0.canon = true ∧ bound0.goesOn c0 = true ∧ (bound0.core c0).mvm = none ∧ bound0.mayIssue c0 = true ∧
    outstanding.canon = true ∧ outstanding.goesOn c0 = true ∧ (outstanding.core c0).mvm = some (mvm0 false) ∧ (outstanding.core c0).mvmNext = true ∧
    (outstanding.core c0).item = some wi ∧ (mvm0 false).skipped = false ∧
    skipped.canon = true ∧ (skipped.core c0).mvm = some (mvm0 true) ∧ (mvm0 true).skipped = true := by decide +kernel

/-- bound0 with one normal pair in drive buffer 0: element 3, exponent 127, mantissa 1. -/
def paired : State := after (putBytes (coreBase c0 + 0x1A20) [1, 0, 0, 0, 0, 0, 0, 0, 3, 0, 1, 0, 127]) bound0

/-- Context 0 of die 0 with an outlier pass outstanding, and the shadow of stage 0. -/
def ctxPass : State := on [modCore (.ctx 0 0) fun k => { k with st := 1, item := some wi, opass := some (mvm0 false) },
  modJob 0 fun j => { j with live := true, shadows := [⟨0, 0, 0x100000, 1⟩] }]

theorem witness_OutlierPasses : bound0.canon = true ∧ (bound0.core c0).opass = none ∧
    (let l := bound0.driveLists c0 0 false; passDrives l.1.2.1 l.2.2.1 = none) ∧
    paired.canon = true ∧ paired.goesOn c0 = true ∧ (paired.core c0).opass = none ∧ paired.mayIssue c0 = true ∧
    (let l := paired.driveLists c0 0 false; (passDrives l.1.2.1 l.2.2.1).isSome = true) ∧
    ctxPass.canon = true ∧ (ctxPass.core (.ctx 0 0)).opass = some (mvm0 false) ∧
    ctxPass.recordOf (ctxPass.core (.ctx 0 0)).work = some 0x100000 ∧ (ctxPass.core (.ctx 0 0)).passNext = true ∧ ctxPass.poison = [] ∧
    passing.canon = true ∧ (passing.core c0).opass = some (mvm0 false) ∧ (passing.core c0).passNext = true := by decide +kernel

/-- A block of ones. -/
def ones : AccBlk := accOf 0 (List.replicate 32 1)

theorem witness_AccumulationIsExact : ones.w.length = 32 ∧ ∀ i, i < 32 →
    fits56 ((accVals ones).getD i 0 * 2 ^ (ones.f - min ones.f ones.f).toNat +
      (accVals ones).getD i 0 * 2 ^ (ones.f - min ones.f ones.f).toNat) = true := by decide +kernel

/-- Tile t0 with an MVM result, a pass result, one partial sum for its item and a completed spill. -/
def accum : State := run0 fun k => { k with
  item := some wi, mvmRes := some ⟨List.replicate 512 1, 0⟩, opRes := some ⟨List.replicate 512 2, 0⟩
  psums := [(wi.handle, List.replicate 16 ones)], spilled := true }

theorem witness_Accumulation : accum.canon = true ∧ accum.goesOn c0 = true ∧ (accum.core c0).mvmRes = some ⟨List.replicate 512 1, 0⟩ ∧
    (accum.core c0).opRes = some ⟨List.replicate 512 2, 0⟩ ∧
    (accum.core c0).psumsOf.drop (accum.core c0).psumAdded = [List.replicate 16 ones] ∧ (List.replicate 16 ones).any AccBlk.bad = false ∧
    (accum.core c0).spilled = true ∧ (accum.core c0).hard = [] ∧ (accum.core c0).bound = none := by decide +kernel

/-- An SRAM of zeros holds no word with a residue event. -/
theorem witness_Accumulation_spill : (accum.spillBlks c0).any AccBlk.bad = false := by
  have zero : ∀ n o k, leAt (List.replicate n (0 : Byte)) o k = 0 := by
    intro n o k
    have hs : slice (List.replicate n (0 : Byte)) o k = List.replicate k 0 := by
      simp only [slice, List.getD_eq_getElem?_getD, List.getElem?_replicate]
      apply List.ext_getElem <;> simp
      intro i _; split <;> rfl
    rw [leAt, hs]
    induction k with
    | zero => rfl
    | succ k ih => simp_all [List.replicate_succ, leNat, slice]
  have hb : accum.bytes (coreBase c0 + 0x2800) 4224 = List.replicate 4224 0 := by
    have hm : ∀ x, accum.byte x = 0 := by
      intro x; show SMap.get memReset accum.mem x = 0
      have : accum.mem = [] := by decide +kernel
      rw [this]; rfl
    simp [State.bytes, hm, List.map_const']
  simp only [State.spillBlks, hb, decAcc, zero]
  decide +kernel

theorem witness_BlockFlagsExclude : (List.replicate 32 (0 : Int)).all (· == 0) = true := by decide +kernel

/-- Tile t0 at an item, with route entry 0 of RFORM 1, an injection on its way, and one spill pair in drive buffer 0. -/
def sending : State := on [modCore c0 fun k => { k with st := 1, item := some wi, inj := [⟨false, 0, 0x10000000, 142, 0, [], []⟩] },
  putBytes (coreBase c0 + 0x1040) [0, 0, 0, 0x10], putBytes (coreBase c0 + 0x1A20) [0, 1, 0, 0, 0, 0, 0, 0, 3, 0, 1, 0, 127],
  modJob 0 fun j => { j with live := true, shadows := [⟨0, 0, 0x100000, 1⟩] }]
def spillAsked : State := after (modDie 0 fun x => { x with spillQ := [⟨c0, wi.handle, 0⟩] }) sending
def spillTwice : State := after (modCore c0 fun k => { k with spillReq := [0] }) sending
def ctxSpill : State := on [modCore (.ctx 0 0) fun k => { k with st := 1, item := some { wi with arr := 1 }, inj := [⟨true, 0, 0x10000000, 142, 0, [], []⟩] },
  modCore (.ctx 0 1) fun k => { k with st := 1, item := some wi },
  putBytes (coreBase (.ctx 0 0) + 0x1A20) [0, 1, 0, 0, 0, 0, 0, 0, 3, 0, 1, 0, 127],
  modJob 0 fun j => { j with live := true, shadows := [⟨0, 0, 0x100000, 1⟩, ⟨0, 1, 0x100000, 1⟩] }]
def spillFull : State := after (modDie 0 fun x => { x with spillQ := List.replicate 16 ⟨c0, wi.handle, 0⟩ }) sending

theorem witness_OutputAndSpills : sending.canon = true ∧ sending.goesOn c0 = true ∧ ((sending.core c0).bank 0).any AccBlk.bad = false ∧
    rformOk (sending.routeWord c0 0) = true ∧ (sending.core c0).work.gate = none ∧ (sending.core c0).inj ≠ [] ∧
    (run0 id).spillPairs c0 0 false = [] ∧ sending.spillPairs c0 0 false ≠ [] ∧ (sending.core c0).spilled = false ∧
    sending.engineFor 0 = some 0 ∧ (sending.die 0).spillQ.length < 16 ∧
    spillFull.canon = true ∧ spillFull.goesOn c0 = true ∧ spillFull.engineFor 0 = some 0 ∧ 16 ≤ (spillFull.die 0).spillQ.length ∧
    spillFull.spillPairs c0 0 false ≠ [] ∧
    spillAsked.canon = true ∧ (spillAsked.die 0).spillQ = ⟨c0, wi.handle, 0⟩ :: [] ∧ (spillAsked.core c0).item = some wi ∧
    spillAsked.recordOf wi = some 0x100000 ∧ spillAsked.poison = [] ∧ ((sending.core c0).spillReq.contains 0) = false ∧
    spillTwice.goesOn c0 = true ∧ (spillTwice.core c0).spillReq.contains 0 = true ∧ spillTwice.spillPairs c0 0 false ≠ [] ∧
    ctxSpill.canon = true ∧ ctxSpill.goesOn (.ctx 0 0) = true ∧ ctxSpill.spillPairs (.ctx 0 0) 0 false ≠ [] ∧
    (ctxSpill.core (.ctx 0 0)).spilled = false ∧ (ctxSpill.core (.ctx 0 0)).spillReq = [] ∧ ctxSpill.poison = [] ∧
    (ctxSpill.recordOf (ctxSpill.core (.ctx 0 0)).work).isSome = true ∧ (ctxSpill.core (.ctx 0 0)).inj ≠ [] ∧
    ctxSpill.ownerCtx 0 (ctxSpill.core (.ctx 0 0)).work = some 1 := by decide +kernel

/-- A block of 32 twos at exponent 127. -/
def twos : Block := ⟨127, List.replicate 32 1⟩

theorem witness_StoredForms : ones.w.length = 32 ∧ -(2 ^ 15) ≤ ones.f ∧ ones.f < 2 ^ 15 ∧ blockFmt 1 = true ∧ blockFmt 4 = true ∧
    (List.replicate 16 twos).length = 16 ∧
    ∀ b ∈ List.replicate 16 twos, 1 ≤ b.e ∧ b.e ≤ 0xFE ∧ b.m.length = 32 ∧ ∀ m ∈ b.m, fmtN 1 ≤ m ∧ m ≤ fmtP 1 := by decide +kernel

/-! ## Recipes and the package network -/

/-- An image READY in partition 0 whose one directory entry counts one recipe, and at 0x2000 the next version of that recipe. -/
def recipe1 : List Byte := withCrc16 ([1, 0] ++ List.replicate 62 0) 62
def updating : State := on [putBytes 0x1010 [1], putBytes 0x1080 [3], putBytes 0x1098 [1], putBytes 0x2000 recipe1,
  modJob 0 fun j => { j with live := true, addr := 0x1000 }, setFP F.BIL_IMG_STS_STATE 0 4]
def waitsRcp : State := on [modDie 3 fun x => { x with pendRcp := [(5, (Recipe.zero, 0))] }]

/-- A window of 2^20 of the milestone counter after the last boundary. -/
def aged : State := on [setF F.SCH_FLAG_WIN_EXP 0 20, eff fun _ => .mile 0x180000]

theorem witness_RecipesAndCounts : updating.canon = true ∧ updating.takes host .sch 0 0x830 = true ∧ (bitsOf 0x2001 0 0 = 1) ∧
    (∀ e, e < 32 → updating.part e = updating.part 0 → updating.flag F.SCH_RCP_STS_BUSY e = false) ∧
    bitsOf 0x2001 47 6 * 64 = 0x2000 ∧ (updating.heldE 0x2000 64).isEmpty = true ∧ updating.rcpCheck 0 0 0x2000 = 0 ∧ updating.rcpPlace 0 0 0x2000 = 0 ∧ up.rcpPlace 0 0 0x2000 ≠ 0 ∧
    aged.canon = true ∧ aged.mile.toNat / 2 ^ 20 ≠ (aged.die 0).flagAt.toNat / 2 ^ 20 ∧ max 20 (min 40 (aged.fld F.SCH_FLAG_WIN_EXP 0)) = 20 ∧
    up.mile.toNat / 2 ^ max 20 (min 40 (up.fld F.SCH_FLAG_WIN_EXP 0)) = (up.die 0).flagAt.toNat / 2 ^ max 20 (min 40 (up.fld F.SCH_FLAG_WIN_EXP 0)) ∧
    up.canon = true ∧ up.takes host .sch 0 0x830 = true ∧ (up.heldE 0x2000 64).isEmpty = true ∧ up.rcpCheck 0 0 0x2000 ≠ 0 ∧
    (∀ e, e < 32 → up.part e = up.part 0 → up.flag F.SCH_RCP_STS_BUSY e = false) ∧
    waitsRcp.canon = true ∧ waitsRcp.pendOf 3 5 = (Recipe.zero, 0) ∧ waitsRcp.midBatch 3 5 = false ∧
    (∀ e, e < 32 → e ≠ 3 → waitsRcp.part e = waitsRcp.part 3 → 32 ≤ (waitsRcp.pendOf e 5).2) ∧ bitsOf 1 0 0 = 1 ∧
    up.takes host .sch 0 0x828 = true ∧ up.takes host .til (tileKey t0) 0x130 = true ∧ up.takes host .til (tileKey t0) 0x2A8 = true ∧
    up.takes host .sch 0 0x340 = true ∧ up.takes host .stk 0 0x418 = true ∧ up.takes host .ldr (up.bank host .ldr) 0x170 = true := by
  decide +kernel

/-- Flits: the first after reset, a damaged one, one out of order, idle ones, and ones kept by a sender. -/
def flit0 : NocFlit := flitSeal ⟨true, .act, false, true, true, 0, .ctl, false, 0, false, 0, 0, 0⟩
def flit1 : NocFlit := flitSeal { flit0 with seq := 1 }
def keeps : State := on [modLink (linkKey t0 .e) fun k => { k with kept := [flit0, flit1] }]
def askedOnce : State := on [modLink (linkKey t0 .e) fun k => { k with nakked := true }]
def d2dUp : State := on [setReg .prt 0 0x2010 0xFF00]

theorem witness_NocLinks : up.canon = true ∧ (up.link (linkKey t0 .e)).down = false ∧ leaves t0 .e = false ∧ flit0.crc = flitSum flit0 ∧
    flit0.valid = true ∧ flit0.nak = false ∧ flit0.seq.toNat = ((up.link (linkKey t0 .e)).rxSeq + 1) % 256 ∧ up.routerQuiet t0 = true ∧
    ({ flit0 with crc := 0 } : NocFlit).crc ≠ flitSum { flit0 with crc := 0 } ∧ flit1.crc = flitSum flit1 ∧ flit1.valid = true ∧
    flit1.seq.toNat ≠ ((up.link (linkKey t0 .e)).rxSeq + 1) % 256 ∧ (up.link (linkKey t0 .e)).nakked = false ∧
    askedOnce.canon = true ∧ (askedOnce.link (linkKey t0 .e)).nakked = true ∧ (askedOnce.link (linkKey t0 .e)).down = false ∧
    (idleFlit 0 false 0 0).crc = flitSum (idleFlit 0 false 0 0) ∧ (idleFlit 0 false 0 0).nak = false ∧ (idleFlit 0 true 0 0).nak = true ∧
    (idleFlit 0 true 0 0).valid = false ∧ (idleFlit 0 true 0 0).ack = flit0.seq ∧ keeps.routerQuiet t0 = true ∧
    keeps.canon = true ∧ (keeps.link (linkKey t0 .e)).kept = flit0 :: [flit1] ∧ (keeps.link (linkKey t0 .e)).down = false ∧
    (∀ h ∈ [flit1], h.seq ≠ flit0.seq) ∧ (∀ h ∈ [flit0, flit1], h.seq ≠ 9) ∧ (keeps.link (linkKey t0 .e)).fails < 8 ∧
    d2dUp.canon = true ∧ d2dUp.chanUp 0 (edgePort 1) 7 = true ∧ across t0 .n = none ∧ (gateNo ⟨0, 4, 0⟩ .n).isSome = true ∧
    across t0 .e = some ⟨0, 1, 0⟩ ∧ gateNo t0 .e = none := by decide +kernel

/-- Packets from tile (0, 0) of die 0: to its own tile over TRN, to its port block, and to tile (5, 7). -/
def pkt (d : TileId) (vc : Vc) (kind : Fin 16) (ty : BitVec 8) : Packet :=
  { vc := vc, ptype := ty, mc := false, dst := d, kind := kind, tree := 0, src := t0, srcKind := 0, part := 0, tag := 0,
    msg := 0, crcOk := true, data := [] }
def treed : State := on [eff fun _ => .treeTab (tileKey t0) [⟨9, 0, [.e, .l]⟩],
  modPassage 5 fun p => { p with handle := 0x00100005, st := 3 }, eff fun _ => .oldTrees [⟨9, 0, t0, false, [⟨t0, .l, 0⟩]⟩]]

/-- A packet for tile (5, 7) at the front of the input of tile (0, 0) from the south. -/
def arrived : State := on [modLink (linkKey t0 .s) fun k => { k with
  buf := SMap.set (fun _ => []) k.buf (bufKey .act false) (pktFlits (pkt ⟨0, 5, 7⟩ .act 0 1) false) }]

theorem witness_NocPackets : up.canon = true ∧ up.routerQuiet t0 = true ∧ leaves t0 .l = true ∧ (up.link (linkKey t0 .l)).buf = [] ∧
    (pkt t0 .trn 0 1).mc = false ∧ (pkt t0 .trn 0 1).dst = t0 ∧ (pkt t0 .trn 0 1).vc = .trn ∧ (pkt t0 .trn 0 1).kind.val ≠ 7 ∧
    (pkt t0 .trn 7 0).kind.val = 7 ∧ (pkt t0 .trn 7 0).ptype ≠ 4 ∧ (pkt ⟨0, 5, 7⟩ .act 0 1).dst.d = t0.d ∧ (pkt ⟨0, 5, 7⟩ .act 0 1).dst ≠ t0 ∧
    up.nextPort false t0 ⟨0, 5, 7⟩ = some .e ∧ (up.link (linkKey t0 .e)).down = false ∧ leaves t0 .s = false ∧
    (up.link (linkKey t0 .s)).headOf (pkt ⟨0, 5, 7⟩ .act 0 1) = none ∧ arrived.canon = true ∧ arrived.routerQuiet t0 = true ∧
    (arrived.link (linkKey t0 .s)).headOf (pkt ⟨0, 5, 7⟩ .act 0 1) = some (bufKey .act false) ∧
    arrived.nextPort false t0 ⟨0, 5, 7⟩ = some .e ∧ (arrived.link (linkKey t0 .e)).down = false ∧
    treed.canon = true ∧ treed.treeEnt t0 9 0 = some ⟨9, 0, [.e, .l]⟩ ∧ treed.routerQuiet t0 = true ∧
    treed.part 0 = 0 ∧ treed.partLive 0 = [5] ∧ (treed.passage 5).home = 0 ∧ treed.oldTrees = [⟨9, 0, t0, false, [⟨t0, .l, 0⟩]⟩] ∧
    (treed.job 0).treeDue = false ∧ (treed.job 0).rebinds = [] := by decide +kernel

/-- Y4 at F = −150 raises E; Y2 under RTZ loses every element below one unit. -/
theorem witness_UnderflowedBlocks : (rqBlock 2 false rne (-150) [3] ⟨0, 0⟩).1.under = true ∧ fitExp 3 7 + (-150) + 127 < 1 ∧
    (rqBlock 1 false rtz 0 [3, -3] ⟨0, 0⟩).1.under = true ∧ ¬ fitExp 3 1 + 0 + 127 < 1 ∧ (rqBlock 2 true rne (-20) [1, 900] ⟨0, 0⟩).1.under = false := by
  decide +kernel

theorem witness_PartialSumIsHeld : up.canon = true ∧ up.standIn c0 wi.handle = false ∧ (up.core c0).bound = none ∧
    accum.canon = true ∧ accum.standIn c0 wi.handle = false := by decide +kernel

/-! ## Images, binding and rebinding -/

/-- A small image of one array stage of one logical array, by the layout of R152–R164, as runs of bytes. -/
def image : List (Nat × List Byte) := [
  (0x0, [83, 75, 69, 77, 1, 0, 1, 1, 0, 4]), (0x10, [6]), (0x18, [7]), (0x7C, [14, 160, 199, 126, 1, 0, 1, 0, 64]), (0x88, [64, 1]),
  (0x90, [64]), (0x98, [1]), (0x9C, [54, 128, 111, 151, 2, 0, 1, 0, 32]), (0xA8, [128, 1]), (0xB0, [32]), (0xB8, [1]),
  (0xBC, [232, 195, 53, 177, 3, 0, 1, 0, 64]), (0xC8, [192, 1]), (0xD0, [64]), (0xD8, [1]), (0xDC, [200, 219, 131, 3, 4, 0, 1, 0, 8]),
  (0xE9, [2]), (0xF0, [8]), (0xF8, [1]), (0xFC, [138, 178, 40, 140, 6, 0, 1]), (0x108, [64, 2]), (0x110, [117]), (0x118, [1]),
  (0x11C, [48, 160, 6, 24, 7, 0, 1, 0, 48]), (0x128, [192, 2]), (0x130, [64, 1]), (0x138, [1]), (0x13C, [143, 91, 24, 5]),
  (0x148, [1, 0, 1]), (0x186, [1, 1, 255, 255, 255, 255, 255, 255, 255, 255]), (0x1C2, [34]), (0x1FE, [82, 164]), (0x240, [1]),
  (0x244, [116]), (0x248, [1]), (0x250, [112]), (0x254, [1]), (0x2C0, [1]), (0x2C4, [1]), (0x2C8, [1]), (0x3C2, [1]), (0x3D8, [1]),
  (0x3F0, [64, 4, 4])]

def place (a : Nat) (l : List (Nat × List Byte)) : Act := forA l fun x => putBytes (a + x.1) x.2

/-- CRC-32C with the value so far looked at before each byte, so that it is known at every step. -/
def crcFrom : Word32 → List Byte → Word32
  | c, [] => c
  | c, b :: r => if c = 0 then crcFrom (crc32Byte 0x82F63B78#32 0 b) r else crcFrom (crc32Byte 0x82F63B78#32 c b) r

theorem crc32c_eq : crc32c = fun bs => (crcFrom 0xFFFFFFFF#32 bs ^^^ 0xFFFFFFFF#32).toNat := by
  have h : ∀ bs c, bs.foldl (crc32Byte 0x82F63B78#32) c = crcFrom c bs := by
    intro bs
    induction bs with
    | nil => intro c; rfl
    | cons b r ih => intro c; simp only [List.foldl_cons, ih, crcFrom]; split <;> simp_all
  funext bs; simp only [crc32c, h]

theorem crcFrom_append (c : Word32) (a b : List Byte) : crcFrom c (a ++ b) = crcFrom (crcFrom c a) b := by
  induction a generalizing c with
  | nil => rfl
  | cons x r ih => simp only [List.cons_append, crcFrom, ih]; split <;> rfl

/-- The image at 0x10000, named by BIL_IMG_ADDR and BIL_IMG_LEN of die 0. -/
def loadable : State := on [place 0x10000 image, setF F.BIL_IMG_ADDR_ADDR 0 0x400, setF F.BIL_IMG_LEN_LEN 0 0x400]
/-- A partition in an image state, with its job. -/
def imgIn (st : Nat) (f : Job → Job) (l : List Act) : State := on ([setFP F.BIL_IMG_STS_STATE 0 st, modJob 0 f] ++ l)
def imaged : State := imgIn 1 id [place 0x10000 image]
def checking (op : Nat) : State := after (modJob 0 fun j => { j with live := true, op := op, addr := 0x10000, len := 0x400 }) imaged
def checkBad : State := imgIn 1 (fun j => { j with live := true, op := 1, addr := 0x20000, len := 0x400 }) []

theorem witness_Images : loadable.canon = true ∧ loadable.takes host .bil 0 0x110 = true ∧ loadable.part 0 < 16 ∧
    loadable.flag F.BIL_IMG_STS_BUSY 0 = false ∧ loadable.fld F.BIL_IMG_STS_STATE 0 = 0 ∧ (loadable.heldE 0x10000 640).isEmpty = true ∧
    ((bitsOf 3 0 0 = 1 ∧ bitsOf 3 3 1 = 1) ∧ (bitsOf 7 0 0 = 1 ∧ bitsOf 7 3 1 = 3) ∧ (bitsOf 5 0 0 = 1 ∧ bitsOf 5 3 1 = 2)) ∧
    (after (storeRW .bil 0 0x110 3) loadable).fld F.BIL_IMG_ADDR_ADDR 0 * 64 = 0x10000 ∧
    (after (storeRW .bil 0 0x110 3) loadable).fld F.BIL_IMG_LEN_LEN 0 = 0x400 ∧
    up.takes host .bil 0 0x110 = true ∧ (up.heldE 0 640).isEmpty = true ∧
    ((after (storeRW .bil 0 0x110 3) up).imgHeader 0 0 0).isSome = true ∧ ((after (storeRW .bil 0 0x110 7) up).imgHeader 0 0 0).isSome = true ∧
    (imgIn 4 id []).canon = true ∧ (imgIn 4 id []).takes host .bil 0 0x110 = true ∧ (imgIn 4 id []).fld F.BIL_IMG_STS_STATE 0 = 4 := by
  decide +kernel

theorem witness_Images_header : (after (storeRW .bil 0 0x110 3) loadable).imgHeader 0 0x10000 0x400 = none ∧
    (after (storeRW .bil 0 0x110 7) loadable).imgHeader 0 0x10000 0x400 = none := by
  simp only [State.imgHeader, crc32c_eq]
  decide +kernel

/-- The directory of the image as it stands in memory. -/
def imageDir : List Sect := [⟨1, 1, 64, 0x140, 64, 1, 2540666934⟩, ⟨2, 1, 32, 0x180, 32, 1, 2973090792⟩, ⟨3, 1, 64, 0x1C0, 64, 1, 58973128⟩,
  ⟨4, 1, 8, 0x200, 8, 1, 2351477386⟩, ⟨6, 1, 0, 0x240, 117, 1, 403087408⟩, ⟨7, 1, 48, 0x2C0, 320, 1, 85482383⟩]

theorem image_dir : imaged.dir 0x10000 = imageDir := by decide +kernel

theorem test_imaged_body : imaged.imgBody 0x10000 0x400 = none := by
  simp only [State.imgBody, crc32c_eq, image_dir, imageDir, countOk, slenOk, State.sectOf]
  decide +kernel

/-- The checks read nothing but memory. -/
theorem body_congr (s t : State) (a n : Nat) (hm : s.mem = t.mem) (hp : s.poison = t.poison) : s.imgBody a n = t.imgBody a n := by
  have h : ∀ u : State, u.imgBody a n = ({ State.reset with mem := u.mem, poison := u.poison } : State).imgBody a n := fun _ => rfl
  rw [h s, h t, hm, hp]

theorem witness_Images_body (op : Nat) : (checking op).imgBody 0x10000 0x400 = none :=
  (body_congr (checking op) imaged _ _ (by simp only [checking, after, modJob, eff, apAll, Eff.ap])
    (by simp only [checking, after, modJob, eff, apAll, Eff.ap])).trans test_imaged_body

theorem witness_Images_checks : (checking 1).canon = true ∧ (checking 1).partDies 0 ≠ [] ∧ (checking 1).imgSt 0 = 1 ∧
    ((checking 1).heldE 0x10000 0x400).isEmpty = true ∧ ((checking 1).job 0).op = 1 ∧ ((checking 3).job 0).op = 3 ∧
    checkBad.canon = true ∧ checkBad.imgSt 0 = 1 ∧ (checkBad.imgBody 0x20000 0x400).isSome = true ∧ (checkBad.heldE 0x20000 0x400).isEmpty = true ∧
    (imgIn 5 id []).imgSt 0 = 5 ∧ (imgIn 5 id []).busySteps 0 = false ∧ ((imgIn 2 id []).job 0).due ≤ (imgIn 2 id []).mile ∧ (imgIn 3 id []).imgSt 0 = 3 ∧ (imgIn 3 id []).loadBusy 0 = false ∧
    ((imgIn 3 id []).job 0).shards.all Shard.here = true ∧ (imgIn 2 id []).imgSt 0 = 2 := by decide +kernel

/-- A stage of one array. -/
def stg (kind : Nat) : Stage := ⟨kind, false, false, 0, 0, 1, 1, 0, 0, 0, 0, 2, 0, 0, 0, 0, 0, 1, 1, 0xFFFFFFFF, 0xFFFF, 0xFFFF⟩
def rep0 (l : List TileId) : Replica := ⟨0, 0, l, t0, 0, false, 0⟩

/-- BINDING, with a retained placement of a SOURCE stage that matches, or with a required stage for a rank the slice has not. -/
def binding (fits : Bool) : State := imgIn 2
  (fun j => { j with live := true, op := 1, addr := 0x10000, len := 0x400, stages := [if fits then stg 5 else { stg 0 with cls := 0, rank := 5 }] })
  [place 0x10000 image, setF F.LDR_CFG_RETAIN 0 1, fun s => modNvm (fun n => { n with
    retain := if fits then [⟨s.bytes 0x10018 32, s.retScrcs 0x10000, 0, 1, 0, 0, [rep0 [t0]], [(0, 0, 0)]⟩] else [] }) s]
def bound? (s : State) : Option Nat := match (after (bindSlice 0 1 0 0) s).bindChoice 0 0 true 0 [] with
  | .ok b => some b.reps.length
  | .error _ => none
def spare1 : TileId := ⟨0, 1, 0⟩
def rebind1 : Rebind := ⟨t0, spare1, 0, 0, 0, 0, 1, [(wi, [])], false, none, none⟩
def rebinding : State := on [setF F.TIL_ARR_STS_STATE (tileKey spare1) 1,
  modJob 0 fun j => { j with live := true, stages := [stg 0], reps := [rep0 [spare1]], rebinds := [rebind1] }]

/-- The same in a slice of two parts, with a router on the way that has no entry left. -/
def twoBind : State := after (eff fun _ => .treeTab (tileKey t0) (List.replicate 481 ⟨1, 1, [.e]⟩)) (binding true)

theorem witness_Binding_handed : twoBind.canon = true ∧ twoBind.imgSt 0 = 2 ∧ twoBind.rankHere 0 2 = 0 ∧ (twoBind.job 0).handed = false ∧
    (match (after (bindSlice 0 2 0 0) twoBind).bindChoice 0 0 true 0 [[], []] with | .ok _ => none | .error (l : List Note) => l.getLast?.map Note.code) =
      some 4 := by decide +kernel

theorem witness_Binding : (binding true).rankHere 0 1 = 0 ∧ (binding true).canon = true ∧ (binding true).imgSt 0 = 2 ∧ bound? (binding true) = some 1 ∧
    (binding false).canon = true ∧ (binding false).imgSt 0 = 2 ∧ bound? (binding false) = none := by decide +kernel

/-- The rebind again, while an old tree of the partition waits for its MARKER round. -/
def rewaits : State := after (eff fun _ => .oldTrees [⟨9, 0, t0, false, [⟨t0, .l, 0⟩]⟩]) rebinding
def respared (s : State) : State := after (respare 0 0 0)
  (after (modJob 0 fun j => { j with rebinds := j.rebinds.map fun y => if y.old == t0 then { y with ready := true } else y }) s)

theorem witness_Binding_waits : (respared rebinding).routesWait 0 = false ∧ rewaits.canon = true ∧ (respared rewaits).routesWait 0 = true ∧
    rewaits.arrState spare1 = 1 ∧ rebind1.due = none ∧ rebind1.old ≠ rebind1.spare ∧ (∀ y ∈ (rewaits.job 0).rebinds, y.old = t0) ∧
    up.takes .keeper .bil 0 0x110 = true ∧ (∀ q, q < 16 → (up.job q).swap = none) := by decide +kernel

theorem witness_Binding_tiles : up.canon = true ∧ up.takes host .bil 0 0x228 = true ∧ up.part 0 < 16 ∧
    (bitsOf 3 0 0 = 1 ∧ bitsOf 3 1 1 = 1 ∧ bitsOf 1 1 1 = 0) ∧ tileAt 0 (F.BIL_FORBID_X.of 3) (F.BIL_FORBID_Y.of 3) = some t0 ∧
    tileAt 0 (F.BIL_FORBID_X.of 1) (F.BIL_FORBID_Y.of 1) = some t0 ∧ t0 ∉ (up.die 0).forbid ∧ up.rebindOf t0 = none ∧ up.replicaAt t0 = none ∧
    rebinding.canon = true ∧ (rebinding.rebindOf spare1).map (fun x => (x.1, x.2.old, x.2.stage, x.2.rep)) = some (0, t0, 0, 0) ∧
    rebinding.arrState spare1 = 1 ∧ (rebinding.die 0).progQ = [] ∧ (rebinding.die 0).progNow = [] ∧ (rebinding.die 0).calDue = [] ∧
    (rebinding.die 0).calNow = [] ∧ ((rebinding.job 0).rebinds.filter fun y => y.stage == 0 && y.rep == 0) = (rebinding.job 0).rebinds ∧
    (rebinding.job 0).rebinds.length = 1 := by decide +kernel

/-! ## Passages and their rings -/

/-- An admission ring entry (R216) with its CRC-16 and OWN set. -/
def entry (op flags : Nat) (h : Nat) (n : Nat) : List Byte :=
  putAt (withCrc16 (leBytes 1 op ++ leBytes 1 flags ++ leBytes 2 0 ++ leBytes 4 h ++ leBytes 2 0 ++ leBytes 2 n ++ leBytes 12 0 ++
    leBytes 8 0x10000 ++ leBytes 8 0x20000 ++ leBytes 24 0) 0x3C) 63 [1]

/-- Die 0 admits: image READY, Passage Table at 4 MiB, admission ring at 0x8000, completion ring at 0x4000; the entry at HEAD is `e`. Passage
5 is live there with room in its ring. -/
def admits1 (e : List Byte) : State := live5 [setF F.BIL_IMG_STS_STATE 0 4, setF F.PAS_PT_BASE_ADDR 0 0x400, setF F.PAS_PT_BASE_VALID 0 1,
  setF F.PAS_ARING_BASE_EN 0 1, setF F.PAS_ARING_BASE_ADDR 0 0x200, setF F.PAS_ARING_BASE_LOG2 0 6, setF F.PAS_CRING_BASE_EN 0 1,
  setF F.PAS_CRING_BASE_ADDR 0 0x100, setF F.PAS_CRING_BASE_LOG2 0 6, modDie 0 fun x => { x with atail := 1 }, putBytes 0x8000 e,
  modPassage 5 fun p => { p with stream := true, cached := true, inflight := false, inRing := 0x10004 }]
def opens1 : State := admits1 (entry 1 0 0x00200007 1)
def opens0 : State := admits1 (entry 1 1 0x00200007 0)
def feeds : State := admits1 (entry 2 0 0x00100005 2)

theorem witness_EntriesAreTaken : opens1.canon = true ∧ opens1.mayAdmit 0 = true ∧ opens1.aringEntry 0 = 0x8000 ∧
    (opens1.heldE 0x8000 64).isEmpty = true ∧ (let e := opens1.bytes 0x8000 64;
      leAt e 63 1 % 2 = 1 ∧ crc16Ok e 0x3C = true ∧ leAt e 0 1 = 1 ∧ entryOp e = 1 ∧ openCheck opens1 0 e = 0 ∧
      (openPassage opens1 0 e).inTail ≠ 0) ∧
    opens1.power.gated = false ∧ opens1.poisoned 0x8000 64 = false ∧
    opens1.poisoned (ringAddr (openPassage opens1 0 (opens1.bytes 0x8000 64)).inRing) (opens1.inSlot 0) = false ∧
    (opens1.cachedOn 0).length < 2048 ∧ (opens1.die 0).compQ = [] ∧ opens1.admStopped 0 = false ∧
    opens0.canon = true ∧ opens0.mayAdmit 0 = true ∧ (let e := opens0.bytes 0x8000 64;
      leAt e 63 1 % 2 = 1 ∧ crc16Ok e 0x3C = true ∧ leAt e 0 1 = 1 ∧ openCheck opens0 0 e = 0 ∧ (openPassage opens0 0 e).inTail = 0) := by
  decide +kernel

theorem witness_EntriesAreTaken_live : feeds.canon = true ∧ feeds.mayAdmit 0 = true ∧ (feeds.heldE 0x8000 64).isEmpty = true ∧
    (let e := feeds.bytes 0x8000 64;
      leAt e 63 1 % 2 = 1 ∧ crc16Ok e 0x3C = true ∧ entryOp e = 2 ∧ leAt e 0 1 = 2 ∧ leAt e 10 2 = 2 ∧ leAt e 4 4 % 1048576 = 5 ∧
      feeds.byHandle (BitVec.ofNat 32 (leAt e 4 4)) = some 5) ∧
    feeds.inRange 0 5 = true ∧ (feeds.passage 5).home = 0 ∧ (feeds.passage 5).cached = true ∧ (feeds.passage 5).stream = true ∧
    (feeds.passage 5).closed = false ∧ (feeds.passage 5).guest = false ∧ feeds.poisoned 0x8000 64 = false ∧ (feeds.passage 5).pendingIn + 2 ≤
      2 ^ ringLog2 (feeds.passage 5).inRing ∧
    (∀ op ∈ [3, 4], let e := entry op 0 0x00100005 0; crc16Ok e 0x3C = true ∧ leAt e 0 1 = op ∧ leAt e 63 1 % 2 = 1 ∧ entryOp e = op) ∧
    (let e := putAt (entry 3 0 0x00100005 0) 4 [6]; crc16Ok e 0x3C = false ∧ entryOp e = 3 ∧ leAt e 63 1 % 2 = 1) := by decide +kernel

/-- CRC-16 with the value so far looked at before each byte. -/
def crcFrom16 : BitVec 16 → List Byte → BitVec 16
  | c, [] => c
  | c, b :: r => if c = 0 then crcFrom16 (crc16Byte 0 b) r else crcFrom16 (crc16Byte c b) r

theorem crc16_eq : crc16 = fun bs => (crcFrom16 0xFFFF#16 bs).toNat := by
  have h : ∀ bs c, bs.foldl crc16Byte c = crcFrom16 c bs := by
    intro bs
    induction bs with
    | nil => intro c; rfl
    | cons b r ih => intro c; simp only [List.foldl_cons, ih, crcFrom16]; split <;> simp_all
  funext bs; simp only [crc16, h]

/-- Passage 5 ended, its final completion entry written at count 0, the host at count 0 of the ring. -/
def ended : State := on [modPassage 5 fun p => { p with handle := 0x00100005, st := 5, finalAt := some 0 }]
/-- Passage 5 live with its entry in stack memory only. -/
def uncached : State := live5 [setF F.PAS_PT_BASE_ADDR 0 0x400, setF F.PAS_PT_BASE_VALID 0 1,
  place (0x400000 + 5 * 128) [(0, [5, 0, 16]), (8, [3]), (126, [31, 3])]]

theorem witness_PassageRings : up.canon = true ∧ up.takes host .pas 0 0x118 = true ∧ up.takes host .pas 0 0x110 = true ∧
    up.takes host .pas 0 0x128 = true ∧ ringDiscard up 0 false 0x8000000000008006 = false ∧ ringDiscard up 0 true 0x8000000000008006 = false ∧
    ringDiscard up 0 false 0x8000000000008005 = true ∧ ringDiscard up 0 true 0x8000000000008011 = true ∧
    bitsOf (up.reg .pas 0 0x110) 63 63 = 0 ∧ bitsOf 0x8000000000008006 63 63 = 1 ∧
    up.takes host .pas 0 0x100 = true ∧ up.range (up.part 0) = some (0, 1048575) ∧ up.fld F.BIL_IMG_STS_STATE 0 = 0 ∧
    up.owns (up.part 0) (bitsOf 0x400000 47 12 * 4096) ((1048575 + 1 - 0) * 128) = true ∧ up.takes host .pas 0 0x158 = true ∧
    (up.passage (bitsOf 5 19 0)).home = 0 ∧ up.takes host .pas 1 0x158 = true ∧ (up.passage (bitsOf 5 19 0)).home ≠ 1 := by decide +kernel

theorem witness_PassageRings_free : ended.canon = true ∧ ended.takes host .pas 0 0x130 = true ∧ 5 ∈ ended.live ∧ (ended.passage 5).st = 5 ∧
    (ended.passage 5).cring = 0 ∧ (ended.passage 5).waiting = none ∧ (ended.passage 5).finalAt = some 0 ∧
    ended.fld F.PAS_CRING_HEAD_HEAD 0 = 0 ∧ passed 0 (bitsOf 1 16 0) 0 = true ∧ (∀ e, ∀ c ∈ (ended.die e).compQ, c.idx ≠ 5) := by
  refine ⟨?_, ?_, ?_, ?_, ?_, ?_, ?_, ?_, ?_, ?_⟩
  case refine_10 =>
    intro e c h
    have hd : ended.dies = [] := by decide +kernel
    simp [State.die, hd, SMap.get, Die.zero] at h
  all_goals decide +kernel

theorem witness_PassageRings_fill : uncached.canon = true ∧ (uncached.passage 5).open_ = true ∧ (uncached.passage 5).home = 0 ∧ (uncached.passage 5).guest = false ∧
    (uncached.passage 5).cached = false ∧ (uncached.cachedOn 0).length < 2048 ∧ uncached.ptAddr 0 5 = 0x400280 ∧
    crc16Ok (uncached.bytes 0x400280 128) 0x7E = true ∧ uncached.poisoned 0x400280 128 = false ∧
    (live5 []).canon = true ∧ (live5 []).partLive 0 = [5] ∧ (live5 []).ptAddr 0 5 = 0x280 ∧
    crc16Ok ((live5 []).bytes 0x280 128) 0x7E = false := by
  simp only [crc16Ok, crc16_eq]
  decide +kernel

/-! ## Scheduling, routing and exits -/

/-- Partition 0 runs an image of one stage of a kind; passage 5 is live; die 0's scoreboard holds `sb`. -/
def item (phase : Nat) : SbItem := ⟨5, 0, 0, 1, 1, true, 0, 0, phase, none, 0, none, 0, 0, false, false, 0, Recipe.zero, 0⟩
def sched (st : Stage) (sb : List SbItem) (l : List Act) : State := live5 ([modJob 0 fun j => { j with live := true, stages := [st] },
  modPassage 5 fun p => { p with cached := true }, modDie 0 fun x => { x with sb := sb }] ++ l)

def batched (st : Stage) : State := sched st [item 1] [modDie 0 fun x => { x with batches := [⟨0, 0, 0, 0, Recipe.zero, [5], 0, 1, true, none⟩] },
  modJob 0 fun j => { j with reps := if st.kind = 5 then [] else [rep0 [t0]] }]

/-- Passage 6 runs at part 0 for another part of a slice of two. -/
def slicedPas : State := sched (stg 0) [] [setF F.BIL_SLICE_N_PARTS 0 2]
def far6 : Carried := ⟨0x00100006, 0, 0, 0, 0, none⟩

theorem witness_ScoreboardReports : slicedPas.canon = true ∧ slicedPas.stage (slicedPas.part 0) 0 = some (stg 0) ∧ slicedPas.tracks 0 0 0 = true ∧
    (slicedPas.passage 6).st = 0 ∧ 1 < slicedPas.nParts (slicedPas.part 0) ∧ far6.handle.toNat % 1048576 = 6 ∧
    (batched (stg 0)).canon = true ∧ (batched (stg 0)).stage 0 0 = some (stg 0) ∧ (batched (stg 0)).tracks 1 0 0 = false ∧
    (sched (stg 0) [item 0] []).tracks 0 0 0 = true ∧
    (sched (stg 0) [item 0] []).canon = true ∧ ((sched (stg 0) [item 0] []).passage 5).open_ = true ∧
    (sched (stg 0) [item 0] []).stage ((sched (stg 0) [item 0] []).part 0) 0 = some (stg 0) ∧
    (sched (stg 0) [item 0] []).combines 0 0 = false ∧ (item 0).is 5 0 0 = true ∧ (sched (stg 0) [] []).canon = true ∧
    ((sched (stg 0) [] []).die 0).sb.any (SbItem.is 5 0 0) = false := by decide +kernel

theorem witness_BatchesAndDispatch : (sched (stg 0) [item 0] []).canon = true ∧ (sched (stg 0) [item 0] []).heldItems 0 0 0 = [] ∧
    (sched (stg 0) [item 0] []).freeItems 0 0 0 = item 0 :: [] ∧ (sched (stg 0) [item 0] []).idleRep 0 0 0 = true ∧ (stg 0).kind ≠ 1 ∧
    (let s := sched (stg 0) [item 0] [eff fun _ => .mile 1000000];
      s.canon = true ∧ s.heldItems 0 0 0 = [] ∧ s.freeItems 0 0 0 = item 0 :: [] ∧ s.batchWaited 0 0 0 = true) ∧
    (batched (stg 0)).canon = true ∧ ((batched (stg 0)).nextItem 0 0 0).map Prod.snd = some 5 ∧
    (batched (stg 0)).stage ((batched (stg 0)).part 0) 0 = some (stg 0) ∧
    ((batched (stg 0)).die 0).sb.find? (SbItem.is 5 0 0) = some (item 1) ∧ ((batched (stg 0)).job 0).switches = [] ∧
    ((batched (stg 0)).passage 5).st ≠ 2 ∧ ((batched (stg 0)).passage 5).open_ = true ∧
    (batched (stg 0)).tierDie 0 0 = none ∧ (batched (stg 0)).repOf 0 0 0 = some (rep0 [t0]) ∧ (batched (stg 0)).copyOf 0 0 0 0 = none ∧
    (rep0 [t0]).outOfService = false ∧ (∀ t ∈ (rep0 [t0]).tiles, (batched (stg 0)).arrState t ≠ 2 ∧ (batched (stg 0)).arrState t ≠ 3) ∧
    (batched (stg 1)).dispUsed 0 + dispUnits (stg 1) (item 1).rcp.inFmt ≤ 262144 ∧ (batched (stg 0)).queuesOpen (rep0 [t0]) = true ∧
    (∀ t ∈ (rep0 [t0]).tiles, ((batched (stg 0)).core (.tile t)).st ≠ 3) ∧ (rep0 [t0]).tiles.Nodup ∧
    ((batched (stg 5)).job 0).switches = [] ∧ ((batched (stg 5)).passage 5).st ≠ 2 ∧ (batched (stg 5)).canon = true ∧ ((batched (stg 5)).nextItem 0 0 0).map Prod.snd = some 5 ∧ (stg 5).kind = 5 ∧
    (batched (stg 5)).stage ((batched (stg 5)).part 0) 0 = some (stg 5) ∧
    ((batched (stg 5)).die 0).sb.find? (SbItem.is 5 0 0) = some (item 1) := by decide +kernel

/-- The result of a step of passage 5: its slot is free, or not yet. -/
def ending (busy : Bool) : State := sched (stg 4) [] [modPassage 5 fun p => { p with
  inflight := true, outRing := 0x20000, outNext := 1, outAt := if busy then [(0, 7)] else [] }]
def stopped : State := sched (stg 0) [] [setF F.SCH_SB_STS_ADM_STOP 0 1, modPassage 5 fun p => { p with st := 2, heldFrom := 3, hold := 5 }]
def late (f : Bool) : State := live5 [eff fun _ => .mile 1000, modPassage 5 fun p => { p with deadline := 999, dlFault := f }]

theorem witness_StepsAndStops : (ending false).canon = true ∧ ((ending false).passage 5).open_ = true ∧ ((ending false).passage 5).guest = false ∧ ((ending false).passage 5).home = 0 ∧
    ((ending false).passage 5).inflight = true ∧ ((ending false).passage 5).cached = true ∧ ((ending false).passage 5).waiting = none ∧
    ((ending false).die 0).compQ = [] ∧ (ending false).slotFree 5 = true ∧
    ((ending false).heldE (ringAddr 0x20000 + 1 % 2 ^ ringLog2 0x20000 * (ending false).outSlot 0) ((ending false).outSlot 0)).isEmpty = true ∧ ((ending false).passage 5).stream = false ∧
    (ending true).canon = true ∧ (ending true).slotFree 5 = false ∧ ((ending true).passage 5).inflight = true ∧
    stopped.canon = true ∧ stopped.admStopped 0 = true ∧ (∀ d ∈ stopped.partDies 0, stopped.occ d < 32768) ∧ stopped.partLive 0 = [5] ∧
    (stopped.passage 5).cached = true ∧ (stopped.passage 5).st = 2 ∧ (stopped.passage 5).hold = 5 ∧
    (late true).canon = true ∧ ((late true).passage 5).open_ = true ∧ ((late true).passage 5).guest = false ∧ ((late true).passage 5).deadline < (late true).mile ∧
    ((late true).passage 5).missed = false ∧ ((late true).passage 5).dlFault = true ∧
    (late false).canon = true ∧ ((late false).passage 5).dlFault = false ∧ ((late false).passage 5).deadline ≠ 0 := by decide +kernel

def sel0 : Sel := ⟨5, 0x00100005, 0, 0⟩
def router1 (l : List Act) : State := sched { stg 1 with topk := 1 } [item 2] ([modDie 0 fun x => { x with
  routers := [⟨0, 0, 0, 0, [], [], [sel0], []⟩], hist := [(3, 7)] }, setF F.SCH_EXP_HIST_EN 0 1, setF F.SCH_EXP_HIST_ADDR 0 0x100] ++ l)

theorem witness_RoutingAndExits : (router1 []).canon = true ∧ (router1 []).stage ((router1 []).part 0) 0 = some { stg 1 with topk := 1 } ∧
    ((router1 []).passage 5).open_ = true ∧ (((router1 []).die 0).sb.find? fun x => x.is 5 0 0 && x.phase == 2) = some (item 2) ∧ ((router1 []).passage 5).guest = false ∧
    (((router1 []).die 0).router 0 0).queue ≠ [] ∧ capacity ((router1 []).rcp 0 0).capFactor ((router1 []).batchMax 0) 1 ((router1 []).groupSize 0 0) = 0 ∧
    (router1 []).flag F.SCH_EXP_HIST_EN 0 = true ∧ ((router1 []).die 0).hist = [(3, 7)] ∧
    (sched (stg 2) [item 2] []).canon = true ∧ (sched (stg 2) [item 2] []).stage 0 0 = some (stg 2) ∧ (stg 2).kind = 2 ∧
    (((sched (stg 2) [item 2] []).die 0).sb.find? fun x => x.is 5 0 0 && x.phase == 2) = some (item 2) ∧
    (item 2).rcp.exitThr = 0 ∧ Ecc.ok ≠ .uncorrectable := by decide +kernel

/-- Die 0's scoreboard full to the limit of R229. -/
def full : State := live5 [modDie 0 fun x => { x with sb := List.replicate 49152 (item 0) }]

theorem witness_StepsAndStops_full : full.canon = true ∧ 49152 ≤ full.occ 0 := by
  have h : (full.die 0).sb = List.replicate 49152 (item 0) := rfl
  refine ⟨by decide +kernel, ?_⟩
  simp only [State.occ, h, List.length_replicate, le_refl]

/-! ## Stack memory, the stream cache and the tier engine -/

/-- Line 16 (0x1000, owned by die 1) is in its slice. -/
def line0 : CLine := ⟨16, false, false, false⟩
def cached1 : State := on [modDie 1 fun x => { x with cache := [(setKey 16, [line0])] }]
/-- A read waits for line 16. -/
def missing : State := on [modDie 1 fun x => { x with missQ := [⟨0, 0x1000, false, .read 8, false⟩] }]
def hints (n : Nat) : State := on [setF F.STK_PF_CTL_PAS_MAX 1 n, modDie 1 fun x => { x with pfQ := if n = 0 then [16] else [] }]

theorem witness_StackRequests : cached1.canon = true ∧ 0x1000 % 256 + 8 ≤ 256 ∧ 0x1000 % 256 + 256 ≤ 256 ∧ cached1.owns 0 0x1000 256 = true ∧
    cached1.owner 0x1000 = 1 ∧ cached1.missUsed 1 16 < 64 ∧ (cached1.heldE 0x1000 256).isEmpty = true ∧ cached1.hit 1 16 = some line0 ∧
    cached1.poisoned 0x1000 256 = false ∧ up.owns 0 0x1000 256 = true ∧ up.owner 0x1000 = 1 ∧ up.missUsed 1 16 < 64 ∧
    (up.heldE 0x1000 256).isEmpty = true ∧ up.hit 1 16 = none ∧ reqLen (.read 8) ≠ 0 ∧
    0x018000000000 + reqLen (.read 8) ≤ 0x020000000000 ∧ up.owns 5 0x1000 8 = false ∧ up.owns 0 0x017FFFFFFFFC 8 = false := by decide +kernel

theorem witness_StackRequests_lines : missing.canon = true ∧
    ((missing.die 1).missQ.filter fun x => x.addr / 256 == 16) = [⟨0, 0x1000, false, .read 8, false⟩] ∧ missing.poison = [] ∧
    (missing.die 1).pfQ = [] ∧ missing.issued 1 16 = true ∧ missing.issued 1 17 = false ∧ missing.hit 1 16 = none ∧ missing.ways 1 (setKey 16) ≠ 0 ∧
    (hints 0).canon = true ∧ (hints 0).fld F.STK_PF_CTL_PAS_MAX 1 = 0 ∧ 16 ∈ ((hints 0).die 1).pfQ ∧
    (hints 1).canon = true ∧ (hints 1).fld F.STK_PF_CTL_PAS_MAX 1 = 1 ∧ min 64 1024 = 64 ∧ 0x1000 % 256 + 64 ≤ 256 ∧ (hints 1).owner (16 * 256) = 1 ∧
    (hints 1).hit 1 16 = none ∧ (hints 1).coming 1 16 = false ∧ (hints 1).missUsed 1 16 < 48 ∧
    (∀ j, j < 256 → j ≠ 3 → (up.win j).valid = true → 10 < (up.win j).base ∨ (up.win j).limit < 5) ∧ up.pstate < 2 ∧ up.poison.Nodup := by decide +kernel

/-- Context 0 of die 1 free, and passage 5's item dispatched; or an event of tile t0 that waits for a tier engine. -/
def event (phase : Nat) : HardEvt := ⟨List.replicate 512 0, List.replicate 512 0, false, 0, false, 0, 0, 4, 0, wi, [], phase⟩
def tiered (l : List Act) : State := sched (stg 0) [item 2] ([modJob 0 fun j => { j with reps := [rep0 [t0]], shadows := [⟨0, 0, 0x100000, 1⟩] },
  modCore c0 fun k => { k with hard := [event 2], psums := [(wi.handle, [ones])] }] ++ l)
/-- Context 0 of die 1 waits for the main datapath. -/
def tjob : TierJob := ⟨3, 0, 0, wi, true, 0, 0⟩
def reading : State := tiered [modCore (.ctx 1 0) fun k => { k with st := 1, item := some wi, mvm := some (mvm0 false) },
  modDie 1 fun x => { x with tier := [(0, some tjob)] }]

theorem witness_TierEngine : (tiered []).canon = true ∧ (tiered []).stage ((tiered []).part 1) 0 = some (stg 0) ∧ (tiered []).power.gated = false ∧
    (tiered []).tierJob 1 0 = none ∧ ((tiered []).die 1).tierFaulty = false ∧ ((tiered []).passage 5).open_ = true ∧ 0 < (stg 0).nArr ∧
    (((tiered []).partDies 0).findSome? fun e => ((tiered []).die e).sb.find? fun x => x.idx == 5 && x.stage == 0 && x.phase == 2) = some (item 2) ∧
    (tiered []).shadowOf 0 0 ((tiered []).passage 5).epoch = some ⟨0, 0, 0x100000, 1⟩ ∧
    (tiered []).opinionFor 0 5 0 0 = some (t0, event 2) ∧ (tiered []).recordOf (event 2).item = some 0x100000 ∧
    reading.canon = true ∧ reading.tierTaken 1 = some tjob.key ∧
    ((reading.waitingCtx 1).filter fun (x : Nat × TierJob) => x.2.key == tjob.key) = [(0, tjob)] ∧ reading.recordOf tjob.item = some 0x100000 ∧
    (reading.core (.ctx 1 0)).mvm = some (mvm0 false) ∧ reading.poison = [] ∧ Ecc.ok ≠ .uncorrectable := by decide +kernel

/-! ## Fetching, programming and replacing weights -/

def shard (src tries : Nat) : Shard := ⟨0, 0, 0, 1, 0, 0, 0, recBytes, [], [], 0, 2, src, tries, 0, 0, 0, 0, [], false⟩
def fetching (src tries : Nat) : State := imgIn 3 (fun j => { j with
  live := true, stages := [stg 0], shards := [shard src tries]
  holders := [(0, 0, 0), (0, 1, 1)], shadows := [⟨0, 0, 0x100000, 1⟩] }) []

theorem witness_ShardTraffic : (fetching 1 0).canon = true ∧ ((fetching 1 0).job 0).inUse[0]? = some (shard 1 0) ∧ (shard 1 0).st = 2 ∧
    (shard 1 0).source = 1 ∧ 0 < (shard 1 0).bytes ∧ (3 : BitVec 11) ≠ 0 ∧ (shard 1 2).tries < 3 ∧
    ((fetching 1 0).mile - (shard 1 0).mile).toNat < 1000000 * max 1 ((fetching 1 0).fld F.LDR_CFG_TMO 0) ∧
    (∀ x ∈ [(2, 0), (2, 3), (3, 0)], let s := after (eff fun _ => .mile 1000000000000) (fetching x.1 x.2)
      s.canon = true ∧ (s.job 0).inUse[0]? = some (shard x.1 x.2) ∧ (s.job 0).swap = none ∧ s.imgSt 0 = 3 ∧
      1000000 * max 1 (s.fld F.LDR_CFG_TMO 0) ≤ (s.mile - (shard x.1 x.2).mile).toNat) ∧
    (∀ k ∈ [0, 3], let s := after (eff fun _ => .mile 1000000000000) (fetching 1 k)
      s.canon = true ∧ (s.job 0).inUse[0]? = some (shard 1 k) ∧
      1000000 * max 1 (s.fld F.LDR_CFG_TMO 0) ≤ (s.mile - (shard 1 k).mile).toNat) ∧
    (fetching 1 3).canon = true ∧ ((fetching 1 3).job 0).inUse[0]? = some (shard 1 3) ∧ 3 ≤ (shard 1 3).tries ∧
    (((fetching 1 3).job 0).holderRanks 0).find? (fun r => r != (fetching 1 3).rank 0) = some 1 ∧
    ((fetching 1 0).job 0).swap = none ∧ (fetching 1 0).landAt 0 (shard 1 0) = some 0x100000 ∧ (fetching 1 0).poison = [] ∧
    (fetching 1 0).flag F.LDR_SSTAT_EN 0 = false ∧ readLen (shard 1 0) 262208 = 1024 ∧
    ((fetching 1 0).heldE (0x100000 + 262208) 1024).isEmpty = true ∧
    (fetching 3 0).canon = true ∧ ((fetching 3 0).job 0).inUse[0]? = some (shard 3 0) ∧ (fetching 3 0).imgSt 0 = 3 ∧
    (fetching 2 0).canon = true ∧ ((fetching 2 0).job 0).inUse[0]? = some (shard 2 0) ∧ (shard 2 0).bytes = (shard 2 0).n * recBytes ∧
    (fetching 2 0).landAt 0 (shard 2 0) = some 0x100000 ∧ ((fetching 2 0).heldE 0x100000 recBytes).isEmpty = true ∧
    up.canon = true ∧ up.takes host .ldr (up.bank host .ldr) 0x110 = true ∧ up.owns 0 (bitsOf 0x8000000000001000 47 6 * 64) 16 = true ∧
    up.owns 0 (bitsOf 0x8000018000000000 47 6 * 64) 16 = false := by decide +kernel

def preq (x : TileId) : ProgReq := ⟨x, 3, 0, 0, 0, 0, 0, 0⟩
def programs (f : Die → Die) : State := imgIn 3 (fun j => { j with live := true, stages := [stg 0], shadows := [⟨0, 0, 0x100000, 1⟩] }) [modDie 0 f]
def prog0 : State := programs fun x => { x with progQ := [preq t0] }
def prog1 : State := programs fun x => { x with progNow := [preq t0] }
def verify0 : State := programs fun x => { x with verQ := [preq t0] }

theorem witness_ArraysAreProgrammed : prog0.canon = true ∧ prog0.keeperUp = true ∧ prog0.power.gated = false ∧ (prog0.die 0).progNow.length < 256 ∧
    (sortKey progKey (prog0.die 0).progQ).find? prog0.progReady = some (preq t0) ∧ prog0.progRecord (preq t0) = some 0x100000 ∧
    prog0.poisoned 0x100000 recBytes = false ∧ prog1.canon = true ∧ prog1.keeperUp = true ∧
    (let s := after (setF F.KPR_STS_STATE 0 0) prog1;
      s.canon = true ∧ s.keeperUp = false ∧ (s.die 0).progNow.any (fun q => q.tile == t0) = true ∧ (s.die 0).progHeld = []) ∧
    ((prog1.die 0).progNow.find? fun y => y.tile == t0) = some (preq t0) ∧ prog1.progRecord (preq t0) = some 0x100000 ∧ (preq t0).part < 16 ∧
    verify0.canon = true ∧ ((verify0.die 0).verQ.find? fun y => y.tile == t0) = some (preq t0) ∧ verify0.recLanded (preq t0) = true ∧
    verify0.progRecord (preq t0) = some 0x100000 ∧ verify0.flag F.LDR_SSTAT_EN 0 = false := by decide +kernel

/-- A swap descriptor of one wave that changes no stage, by the layout of R302, as runs of bytes. -/
def descriptor : List (Nat × List Byte) := [(0, [83, 87, 65, 80, 1]), (12, [1, 0, 1, 0, 64]), (24, [64, 1]), (32, [128, 1]),
  (60, [241, 32, 102, 79, 1]), (68, [1]), (72, [1]), (322, [1]), (344, [1]), (368, [64, 4, 4]), (384, [255, 255])]
def swappable : State := imgIn 4 (fun j => { j with live := true, stages := [stg 0] }) [place 0x30000 descriptor, setF F.LDR_SWAP_ADDR_ADDR 0 0xC00]
def swap0 : Swap := ⟨false, 1, 1, [0], [0], 0, none, [], [], [], []⟩
/-- A swap in a phase, in a slice of `n` parts. -/
def swapping (st n : Nat) (w : Swap) (l : List Act) : State := imgIn 4 (fun j => { j with live := true, stages := [stg 0], swap := some w })
  ([setF F.LDR_SWAP_STS_STATE 0 st, setF F.BIL_SLICE_N_PARTS 0 n, eff fun _ => .mile 5000000] ++ l)
def limited : State := after (seqA [setF F.LDR_SWAP_CMD_OLD_LIMIT 0 1, modPassage 5 fun p => { p with handle := 0x00100005, st := 3 }])
  (swapping 3 1 { swap0 with flip := some 4000000 } [])

/-- A START on `swappable` passes the checks of R303. -/
def swapStart1 : State := after (storeRW .ldr 0 0x128 3) swappable

theorem swapCheck_ok (s : State) (a : Nat) (ha : s.fld F.LDR_SWAP_ADDR_ADDR 0 * 64 = a) (h1 : s.imgSt 0 = 4)
    (h2 : s.swapCrcOk 0 a (s.job 0).stages.length = true) (h3 : s.num a 4 = 0x50415753 ∧ s.num (a + 4) 1 = 1 ∧ s.num (a + 6) 1 = 0)
    (h4 : s.num (a + 8) 4 = (s.job 0).hdrCrc)
    (h5 : s.num (a + 0x0C) 2 = (s.fld F.LDR_SWAP_STS_ADM_EPOCH 0 + 1) % 65536 ∧ s.num (s.swapMan a + 8) 2 = s.num (a + 0x0C) 2)
    (h6 : s.swapManOk 0 a = true) (h7 : (s.newShadows 0 a (s.num (a + 0x0C) 2) (s.swapWaves a (s.job 0).stages.length)).isSome = true) :
    (match s.swapCheck 0 with | .ok _ => true | .error _ => false) = true := by
  obtain ⟨l, hl⟩ := Option.isSome_iff_exists.mp h7
  simp [State.swapCheck, ha, h1, h2, h3, h4, ← h5.1, h5.2, h6, hl]

theorem swap_crc : swapStart1.swapCrcOk 0 0x30000 1 = true := by
  simp only [State.swapCrcOk, crc32c_eq, crcFrom_append]
  decide +kernel

theorem witness_Swaps_ok : (match swapStart1.swapCheck 0 with | .ok _ => true | .error _ => false) = true :=
  swapCheck_ok swapStart1 0x30000 (by decide +kernel) (by decide +kernel) swap_crc (by decide +kernel) (by decide +kernel) (by decide +kernel)
    (by decide +kernel) (by decide +kernel)

theorem witness_Swaps_start : swappable.canon = true ∧ swappable.takes host .ldr 0 0x128 = true ∧ swappable.bank host .ldr = 0 ∧
    (bitsOf 3 0 0 = 1 ∧ bitsOf 3 3 1 = 1 ∧ bitsOf 5 0 0 = 1 ∧ bitsOf 5 3 1 = 2) ∧ swappable.flag F.LDR_SWAP_STS_BUSY 0 = false ∧
    (swappable.heldE 0x30000 64).isEmpty = true ∧ (swappable.heldE (swappable.swapMan 0x30000) (swappable.num 0x30018 8)).isEmpty = true ∧
    (swappable.heldE (swappable.swapTab 0x30000) 2).isEmpty = true ∧
    up.canon = true ∧ up.takes host .ldr 0 0x128 = true ∧ up.flag F.LDR_SWAP_STS_BUSY 0 = false ∧ (up.heldE 0 64).isEmpty = true ∧
    (match (after (storeRW .ldr 0 0x128 3) up).swapCheck 0 with | .ok _ => true | .error _ => false) = false := by decide +kernel

theorem witness_Swaps : (swapping 1 1 swap0 []).canon = true ∧ ((swapping 1 1 swap0 []).job 0).swap = some swap0 ∧
    (swapping 1 1 swap0 []).takes host .ldr 0 0x128 = true ∧ (swapping 1 1 swap0 []).fld F.LDR_SWAP_STS_STATE 0 < 3 ∧
    swap0.flip.all (fun f => decide ((swapping 1 1 swap0 []).mile < f)) = true ∧
    (swapping 1 2 swap0 []).fld F.LDR_SWAP_STS_STATE 0 = 1 ∧ 1 < (swapping 1 2 swap0 []).nParts 0 ∧
    ((swapping 1 2 swap0 []).job 0).due ≤ (swapping 1 2 swap0 []).mile ∧
    swap0.newShards.all Shard.here = true ∧ [shard 1 0].all Shard.here = false ∧
    (swap0.landed ++ [0]).dedup.length < (swapping 1 2 swap0 []).nParts 0 ∧
    (swapping 1 1 swap0 []).nParts 0 ≤ (swap0.landed ++ [0]).dedup.length ∧ (swapping 1 1 swap0 []).rank 0 = 0 ∧
    (swapping 2 1 { swap0 with flip := some 4000000 } []).canon = true ∧
    (swapping 2 1 { swap0 with flip := some 4000000 } []).fld F.LDR_SWAP_STS_STATE 0 = 2 ∧
    (4000000 : Word) ≤ (swapping 2 1 { swap0 with flip := some 4000000 } []).mile ∧ swap0.waves.all (fun x => x == 3) = false ∧
    limited.canon = true ∧ limited.fld F.LDR_SWAP_STS_STATE 0 = 3 ∧ limited.fld F.LDR_SWAP_CMD_OLD_LIMIT 0 ≠ 0 ∧
    (4000000 : Word).toNat + limited.fld F.LDR_SWAP_CMD_OLD_LIMIT 0 * 1000000 ≤ limited.mile.toNat ∧ limited.partLive 0 = [5] ∧
    (limited.passage 5).epoch ≠ swap0.newEpoch := by decide +kernel

theorem witness_Swaps_waves : (swapping 3 1 swap0 []).canon = true ∧ ((swapping 3 1 swap0 []).job 0).swap = some swap0 ∧
    (swapping 3 1 swap0 []).fld F.LDR_SWAP_STS_STATE 0 = 3 ∧ (swapping 3 1 swap0 []).rank 0 = 0 ∧ 0 < (swapping 3 1 swap0 []).nParts 0 ∧
    (swapping 3 2 swap0 [setF F.BIL_SLICE_RANK 0 1]).rank 0 = 1 ∧
    ((swapping 3 2 swap0 [setF F.BIL_SLICE_RANK 0 1]).job 0).swap = some swap0 := by decide +kernel

/-! ## The checker, test runs, calibration and sensors -/

/-- An event of t0 waits for its checker; stage 0 has, or has not, a second replica at tile (1, 0). -/
def asked (two : Bool) (phase : Nat) : State := live5 [modJob 0 fun j => { j with
  live := true, stages := [stg 0]
  reps := rep0 [t0] :: if two then [{ rep0 [spare1] with rep := 1 }] else [] }, modCore c0 fun k => { k with hard := [event phase] }]

theorem witness_SecondOpinions : (asked true 0).canon = true ∧
    ((asked true 0).core c0).hard.find? (fun h => h.phase == 0) = some (event 0) ∧ (event 0).item.moved = none ∧
    (asked true 0).opinionRep 0 (event 0).item = some ({ rep0 [spare1] with rep := 1 }, spare1) ∧ spare1 ≠ t0 ∧
    ((asked true 0).core (.tile spare1)).second = none ∧
    (let s := after (modCore (.tile spare1) fun k => { k with st := 3 }) (asked true 0);
      s.canon = true ∧ (s.core c0).hard.find? (fun h => h.phase == 0) = some (event 0) ∧
      s.opinionRep 0 (event 0).item = some ({ rep0 [spare1] with rep := 1 }, spare1) ∧ (s.core (.tile spare1)).st = 3 ∧
      s.byHandle (event 0).item.handle = some 5 ∧ (s.passage 5).guest = false) ∧
    (asked false 0).canon = true ∧ ((asked false 0).core c0).hard.find? (fun h => h.phase == 0) = some (event 0) ∧
    (asked false 0).opinionRep 0 (event 0).item = none ∧ (asked false 0).engineFor 0 = some 0 ∧
    (asked false 2).canon = true ∧ ((asked false 2).core c0).hard.find? (fun h => h.phase != 0) = some (event 2) ∧
    (asked false 2).byHandle (event 2).item.handle = some 5 ∧
    (asked true 4).canon = true ∧ ((asked true 4).core c0).hard.find? (fun h => h.phase != 0) = some (event 4) ∧
    (asked true 4).opinionRep 0 (event 4).item = some ({ rep0 [spare1] with rep := 1 }, spare1) := by decide +kernel

/-- A test pack with one pattern of kind 1 for every die; t0 bound and idle; and t0 in a run. -/
def tests (r : Option Nat) : State := on [modNvm fun n => { n with
    tpack := List.replicate 16 0 ++ [1] ++ List.replicate 111 0 ++ [1] ++ List.replicate 7 0 ++ [0x3F] }, modCore c0 fun k => { k with bound := some (0, 0, 0), testRet := r },
  setF F.TIL_ARR_STS_STATE (tileKey t0) (if r.isSome then 2 else 1), setF (F.THM_DIE_FACTOR.nth 0) 0 256]

theorem witness_HistoryAndTests : (tests none).canon = true ∧ (tests none).keeperUp = true ∧ (tests none).pattern 0 = some (1, 0x3F) ∧
    (tests none).pstate = 0 ∧ (tests none).fld (F.THM_DIE_FACTOR.nth 0) 0 = 256 ∧ (tests none).testTarget t0 1 = true ∧ (tests none).runDue t0 0 = true ∧
    ((tests none).core c0).item = none ∧ ((tests none).core c0).queue = [] ∧ ((tests none).core c0).testRet = none ∧ (tests none).testing 0 < 64 ∧
    ((tests none).die 0).calNow.any (fun c => c.tile == t0) = false ∧
    (tests (some 1)).canon = true ∧ ((tests (some 1)).core c0).testRet = some 1 ∧
    (tests (some 1)).keeper.retWait = [] ∧ (let s := after (modKeeper fun x => { x with retWait := [(t0, 3)] }) (tests (some 1))
      s.canon = true ∧ s.keeperUp = true ∧ (s.core c0).testRet = some 1 ∧ s.keeper.retWait.find? (fun y => y.1 == t0) = some (t0, 3) ∧
      (s.tsum t0).retired = false ∧ s.arrBusy t0 = false ∧ (s.die 0).calNow = []) := by decide +kernel

def due0 (cls : Nat) : CalDue := ⟨t0, cls, 0, 0⟩
def calib (f : Die → Die) : State := on [modCore c0 fun k => { k with bound := some (0, 0, 0) }, modDie 0 f, setF F.TIL_ARR_STS_STATE (tileKey t0) 1,
  modJob 0 fun j => { j with live := true, stages := [stg 0], reps := [rep0 [t0]] }, setF F.CAL_CFG_PERIOD 0 1,
  modNvm fun n => { n with pos := 3600 }]
def att (p : Option (List Trim × Nat)) : CalAtt := ⟨t0, 1, 0, p, false⟩

theorem witness_Calibration : (calib id).canon = true ∧ (calib id).takes host .cal 0 0x110 = true ∧ bitsOf 1 0 0 = 1 ∧ bitsOf 1 20 20 = 0 ∧
    tileAt 0 (F.CAL_CMD_X.of 1) (F.CAL_CMD_Y.of 1) = some t0 ∧ ((calib id).core c0).bound ≠ none ∧
    ((calib id).die 0).calDue = [] ∧ ((calib id).die 0).calNow = [] ∧ (calib id).fld F.CAL_CFG_PERIOD 0 ≠ 0 ∧ (calib id).keeperUp = true ∧
    ((calib id).calRec t0).pos + (calib id).fld F.CAL_CFG_PERIOD 0 * 3600 ≤ (calib id).nvm.pos ∧
    (∀ cls ∈ [0, 1], let s := calib fun x => { x with calDue := [due0 cls] }
      s.canon = true ∧ s.power.gated = false ∧ (s.die 0).calDue = [due0 cls] ∧ s.calReady (due0 cls) = true ∧
      (s.replicaAt t0).map (fun x => (x.1, x.2.1.tiles)) = some (0, [t0]) ∧ s.stageInCal 0 (rep0 [t0]) = false ∧
      (s.die 0).calGap = []) ∧
    (∀ p ∈ [none, some ([], 0)], let s := calib fun x => { x with calNow := [att p] }
      s.canon = true ∧ (s.die 0).calNow.find? (fun c => c.tile == t0) = some (att p) ∧ s.keeper.retWait = []) := by decide +kernel

theorem witness_SensorsAndNoise : up.canon = true ∧ up.keeperUp = true ∧ snsExists 0 0 = true ∧ snsExists 48 1 = true ∧ snsDie 0 = some 0 ∧
    ((calib id).core c0).bound ≠ none := by decide +kernel

/-! ## The system fabric -/

/-- Quads 0 and 1 mapped to link 0. -/
def mapped (l : List Act) : State := on ([setReg .bfp 0 0x8008 0xFFFFFFFFFFFFFF00, setReg .bfp 0 0x8010 0xFFFFFFFF] ++ l)
def bflit (crc : Word32) (seq : BitVec 12) : BfpFlit :=
  ⟨crc, false, 0, 1, .act, false, true, true, seq, 0, false, .ctl, false, 0, 0, 16, 8, 0, List.replicate 240 0⟩
def linked (f : BfpLink → BfpLink) (l : List Act) : State := mapped ([setF F.BFP_LNK_STS_STATE 0 2, modBfp 0 f] ++ l)
def brings (signal : Bool) : TrainInfo := ⟨signal, true, 3, 0, 5, 1, 1, 1, 1⟩
/-- Partition 0's slice of two parts in X, its +X neighbour on link 0, for job 7. -/
def pair : Slice := { Slice.zero with set := true, job := 7, size := (2, 1, 1), dirs := [(0, 5), (15, 0), (15, 0), (15, 0), (15, 0), (15, 0)] }
def sliced (l : List Act) : State := linked id (modSlice 0 (fun _ => pair) :: l)

/-- Flits that carry their CRC-32, and flits that do not. -/
theorem witness_FabricLinks_crc (f : BfpFlit) : bfpIntact (bfpSeal f) = true ∧ bfpIntact { f with crc := bfpSum f + 1 } = false := by
  have h : ∀ c : Word32, bfpSum { f with crc := c } = bfpSum f := fun _ => rfl
  refine ⟨by simp [bfpIntact, bfpSeal, h], ?_⟩
  simp only [bfpIntact, h, beq_eq_false_iff_ne]
  bv_omega

theorem witness_FabricLinks : (mapped []).canon = true ∧ (mapped []).mapQuads 0 ≠ [] ∧ (mapped []).power.rails = true ∧
    (mapped []).linkQuads 0 ≠ [] ∧ ((mapped []).linkQuads 0).filter (fun q => (brings true).quads.getLsbD q) ≠ [] ∧
    (1 ≤ (brings true).revMax.toNat ∧ (brings true).revMin.toNat ≤ 1) ∧ (brings false).signal = false ∧
    (linked id []).canon = true ∧ (linked id []).fld F.BFP_LNK_STS_STATE 0 ≠ 0 ∧
    (0 : BitVec 12).toNat = (((linked id []).bfpLink 0).rxSeq + 1) % 4096 ∧ (linked id []).fabQuiet = true ∧
    ((linked id []).bfpLink 0).nakked = false ∧ ((linked (fun k => { k with nakked := true }) []).bfpLink 0).nakked = true ∧
    (bflit 0 3).seq.toNat ≠ (((linked id []).bfpLink 0).rxSeq + 1) % 4096 ∧
    (linked (fun k => { k with kept := [bflit 0 3, bflit 0 4] }) []).canon = true ∧
    ((linked (fun k => { k with kept := [bflit 0 3, bflit 0 4] }) []).bfpLink 0).kept = bflit 0 3 :: [bflit 0 4] ∧
    (linked (fun k => { k with kept := [bflit 0 3, bflit 0 4] }) []).linkUp 0 = true ∧
    up.takes host .bfp 0 0x200 = true := by decide +kernel

theorem witness_FabricLinks_stops : (linked (fun k => { k with quads := [0, 1] }) []).canon = true ∧ (linked (fun k => { k with quads := [0, 1] }) []).linkUp 0 = true ∧
    0 ∈ ((linked (fun k => { k with quads := [0, 1] }) []).bfpLink 0).quads ∧
    ((linked (fun k => { k with quads := [0, 1] }) []).bfpLink 0).quads.filter (fun x => x != 0) ≠ [] ∧
    ((linked (fun k => { k with quads := [0] }) []).bfpLink 0).quads.filter (fun x => x != 0) = [] ∧ (1 : Fin 4) ≠ 0 ∧
    (sliced []).canon = true ∧ 7 ∉ (sliced []).aborted ∧ (sliced []).slicePart 7 = some 0 ∧
    (let s := sliced [eff fun _ => .fabTrees [⟨7, 3, [0], true⟩]];
      s.canon = true ∧ s.fabTrees = [⟨7, 3, [0], true⟩] ∧ 7 ∉ s.aborted ∧ s.slicePart 7 = some 0) := by decide +kernel

def spkt (hops : BitVec 8) (job : BitVec 16) : SysPacket := ⟨1, 0, 0, 0, 0, 0, false, job, 0, hops, 0, pkt t0 .act 3 1⟩

/-- A packet whose one flit waits at the front of its buffer of link 0, and credits of its pool on the way out. -/
def parked (k : SysPacket) (cr : Nat) : State := sliced [modBfp 0 fun x => { x with
  rxBuf := SMap.set (fun _ => []) x.rxBuf (poolKey .act false 16) (sysFlits k false 16)
  credits := SMap.set noCredit x.credits (poolKey .act false 16) cr }]

theorem witness_FabricPackets : (∀ k ∈ [spkt 63 7, spkt 0 9, spkt 0 7], ∀ cr ∈ [0, 1], (parked k cr).canon = true ∧
      ((parked k cr).bfpLink 0).headOf k = some (poolKey .act false 16) ∧ (parked k cr).fabQuiet = true ∧
      (((parked k cr).bfpLink 0).inBuf (poolKey .act false 16)).any BfpFlit.tail = true ∧
      SMap.get noCredit ((parked k cr).bfpLink 0).credits (poolKey .act false 16) = cr ∧
      SMap.get noUsed ((parked k cr).bfpLink 0).lock (poolKey .act false 16) = 0 ∧ ((parked k cr).bfpLink 0).kept.length < 2048) ∧
    wrapped pair { spkt 0 7 with hops := 1 } 0 = false ∧ (sliced []).entOf 0 7 = 16 ∧
    ((sliced []).bfpLink 0).headOf (spkt 0 7) = none ∧ (sliced []).canon = true ∧ 64 ≤ (spkt 63 7).hops.toNat + 1 ∧ (spkt 0 9).hops.toNat + 1 < 64 ∧
    (sliced []).slicePart (spkt 0 9).job.toNat = none ∧ (sliced []).shares 0 = [] ∧
    (sliced []).slicePart (spkt 0 7).job.toNat = some 0 ∧ (spkt 0 7).mc = false ∧
    fabDir ((sliced []).slice 0).size ((sliced []).slice 0).wrap ((sliced []).slice 0).coord (1, 0, 0) = some 0 ∧
    ((sliced []).slice 0).dirs[0]? = some (0, 5) ∧ (sliced []).linkUp 0 = true := by decide +kernel

/-- A slice descriptor of one part for job 7, by the layout of R373, at 0x10000. -/
def single : State := on [place 0x10000 [(0, [83, 76, 67, 69, 1]), (6, [7]), (8, [1, 1, 1]), (16, [15]), (20, [15]), (24, [15]), (28, [15]),
  (32, [15]), (36, [15]), (60, [220, 90, 74, 99])], setF F.BFP_SLICE_ADDR_ADDR 0 0x400]
def singleSet : State := after (storeRW .fab 0 0x8028 3) single

theorem witness_Slices : single.canon = true ∧ single.takes host .fab 0 0x8028 = true ∧ single.bank host .fab = 0 ∧ bitsOf 3 0 0 = 1 ∧
    bitsOf 5 0 0 = 1 ∧ bitsOf 3 3 1 = 1 ∧ bitsOf 5 3 1 = 2 ∧ single.flag F.BFP_SLICE_STS_BUSY 0 = false ∧
    singleSet.fld F.BFP_SLICE_ADDR_ADDR 0 * 64 = 0x10000 ∧ (singleSet.heldE 0x10000 64).isEmpty = true ∧
    up.canon = true ∧ up.sliceCheck 0 0 ≠ 0 := by decide +kernel

theorem witness_Slices_set : singleSet.sliceCheck 0 0x10000 = 0 := by
  simp only [State.sliceCheck, crc32c_eq]
  decide +kernel

def mild (l : List Act) : State := linked id ([setF F.BFP_LNK_STS_STATE 1 2, modMile fun m => { m with depths := m.depths.set 0 3 }] ++ l)

theorem witness_MilestoneAndPorts : (mild []).canon = true ∧ (mild []).flag F.MSC_CFG_ROOT 0 = false ∧ (mild []).linkUp 0 = true ∧
    (mild []).linkUp 1 = true ∧ (mild []).bestParent ((mild []).milestone.depths.set 1 5) = some 0 ∧
    (mild []).bestParent ((mild []).milestone.depths.set 1 2) = some 1 ∧
    (let s := mild [setF F.MSC_STS_PARENT 0 0]; s.canon = true ∧ s.flag F.MSC_CFG_ROOT 0 = false ∧ s.fld F.MSC_STS_PARENT 0 ≠ 15) ∧
    (let s := mild [setF F.MSC_STS_PARENT 0 15, setF F.MSC_STS_HOLD 0 1, setF F.MSC_STS_LOCK 0 1, eff fun _ => .mile 10000000];
      s.canon = true ∧ 10000000 ≤ (s.mile - s.milestone.lostAt).toNat ∧ s.flag F.MSC_STS_HOLD 0 = true ∧ s.fld F.MSC_STS_PARENT 0 = 15 ∧ s.flag F.MSC_STS_LOCK 0 = true) ∧
    up.flag F.ETH_MODE_M800 (1 / 4 * 4) = false ∧ 4 % 4 = 0 := by decide +kernel

/-! ## Collectives and barriers -/

/-- The small image with its one stage feeding collective stage 1, whose instance of passage handle 9, step 2 is open. -/
def coll1 : Coll := ⟨1, 7, 9, 2, 0, [], [], 0, 0, []⟩
def collective (l : List Act) : State := imgIn 4 (fun j => { j with
  live := true, job := 7, addr := 0x10000, stages := [{ stg 0 with nOut := 2, nRoute := 1 }, stg 3], reps := [rep0 [t0]], holders := [(0, 0, 0)] })
  ([place 0x10000 image, place 0x10200 [(0, [5, 0, 1])], eff fun _ => .colls [coll1], modSlice 0 fun _ => pair] ++ l)

theorem witness_CollectivesAndBarriers : (collective []).canon = true ∧ (collective []).colls.find? (Coll.is 1 7 9 2) = some coll1 ∧
    ((collective []).collInfo 7 1).map (fun c => (c.part, (collective []).collWant c, (collective []).collOwn c coll1)) = some (0, 2, false) ∧
    coll1.got + 1 ≠ 2 ∧ ((collective []).job 0).stopped = false ∧
    (let s := collective [eff fun _ => .mile 20000000];
      s.canon = true ∧ s.jobPart 7 = some 0 ∧ 1000 * max 1 (s.fld F.BFP_COLL_TMO 0) ≤ (s.mile - coll1.opened).toNat ∧ 7 ∉ s.aborted ∧
      s.slicePart 7 = some 0) := by decide +kernel

/-- Partition 0 waits at a barrier. -/
def barred (f : Slice → Slice) : State := sliced [setF F.BFP_BAR_STS_STATE 0 1, modSlice 0 f]

theorem witness_CollectivesAndBarriers_barriers : (sliced []).canon = true ∧ (sliced []).bank host .fab = 0 ∧ (sliced []).takes host .fab 0 0x8050 = true ∧
    bitsOf 1 0 0 = 1 ∧ (sliced []).flag F.BFP_BAR_STS_BUSY 0 = false ∧ ((sliced []).slice 0).set = true ∧ (up.slice 0).set = false ∧
    (barred id).canon = true ∧ (barred id).slicePart 7 = some 0 ∧ ((barred id).slice 0).leads = true ∧
    ((barred id).slice 0).barArrived.contains 3 = false ∧ ((barred id).slice 0).barArrived.length + 1 < ((barred id).slice 0).parts ∧
    (let x := ((barred fun x => { x with barArrived := [4] }).slice 0);
      x.leads = true ∧ x.barArrived.contains 3 = false ∧ x.parts ≤ x.barArrived.length + 1 ∧ x.barArrived ≠ [] ∧
      1000000000 ≤ ((2000000000 : Word) - x.barFirst).toNat) ∧
    (barred id).fld F.BFP_BAR_STS_STATE 0 = 1 ∧ (0 : Word) ≤ (barred id).mile ∧
    (let s := after (eff fun _ => .mile 100) (barred fun x => { x with barRel := some 50 });
      s.canon = true ∧ (s.slice 0).barRel = some 50 ∧ (50 : Word) ≤ s.mile ∧ s.fld F.BFP_BAR_STS_STATE 0 = 1 ∧ s.slicePart 7 = some 0) := by
  decide +kernel

/-! ## The Trais ports -/

def tflit (seq : BitVec 12) : TraisFlit := ⟨0, false, 0, 1, seq, 0, false, 0, 0, 1, 0, List.replicate 240 0⟩

theorem witness_TraisPorts_crc (f : TraisFlit) : (traisSeal f).crc = traisSum (traisSeal f) ∧
    ({ f with crc := traisSum f + 1 } : TraisFlit).crc ≠ traisSum { f with crc := traisSum f + 1 } := by
  have h : ∀ c : Word32, traisSum { f with crc := c } = traisSum f := fun _ => rfl
  refine ⟨(h _).symm, ?_⟩
  simp only [h]
  bv_omega

theorem witness_TraisPorts : up.canon = true ∧ up.power.rails = true ∧ up.fld F.TRL_LNK_STS_STATE 1 ≠ 2 ∧
    (let i : TrainInfo := ⟨true, true, 0, 4, 0, 0, 1, 1, 1⟩; i.lanes ≠ 0 ∧ i.revMax ≠ 0 ∧ i.revMin.toNat ≤ 1) ∧
    up.fld F.TRL_LNK_STS_STATE 0 = 2 ∧ (tflit 0).ftype = 1 ∧ (tflit 0).uncorr = false ∧
    (tflit 0).seq.toNat = ((up.port 0).rxSeq + 1) % 4096 ∧ (up.port 0).txNaks < 15 ∧ (up.port 0).naks < 15 ∧ up.quiet = true ∧
    (∀ d ∈ List.range 32, ∀ c ∈ [0, 1], (up.dma d c).cur = none) := by decide +kernel

/-- Ring window 0 of port 0 shows granule 0. -/
def windowed (l : List Act) : State := on (setReg .trl 0 0x200 0x8000000000000000 :: l)
/-- Port 1 holds line 64 exclusively. -/
def heldBy1 (l : List Act) : State := windowed ([modFilter 1 fun f => f ++ [⟨64, true, [1]⟩]] ++ l)

theorem witness_HostRequests : (windowed []).canon = true ∧ (windowed []).quiet = true ∧ (windowed []).fld F.TRL_LNK_STS_STATE 0 = 2 ∧
    (windowed []).reqAddr 0 .stack 0x1000 8 = some 0x1000 ∧ ((windowed []).port 0).txq = [] ∧ (windowed []).heldE 0x1000 8 = [] ∧
    (windowed []).poison = [] ∧ (windowed []).reqAddr 0 .ring 0x1000 64 = some 0x1000 ∧
    (windowed []).lineSnoops 0 64 true = [] ∧ (windowed []).lineSnoops 0 64 false = [] ∧
    (heldBy1 []).canon = true ∧ (heldBy1 []).quiet = true ∧ (heldBy1 []).reqAddr 0 .ring 0x1000 64 = some 0x1000 ∧
    (heldBy1 []).lineSnoops 0 64 true ≠ [] ∧ (heldBy1 []).lineSnoops 0 64 false ≠ [] ∧
    64 ∉ ((windowed []).port 0).dropWb ∧ 64 ∈ ((windowed [modPort 0 fun p => { p with dropWb := [64] }]).port 0).dropWb ∧
    (windowed []).takes host .trl 0 (0x200 + 8 * 1) = true ∧ F.TRL_RWIN_VALID.of 0 = 0 ∧ (windowed []).granPart 0 = (windowed []).portPart 0 ∧
    (windowed []).reqSnoops 0 (.remap 1 0) = [] := by decide +kernel

def snooped : State := heldBy1 [setF F.TRL_LNK_STS_STATE 1 2, modPort 1 fun p => { p with snoops := [⟨3, 64, false, 0⟩] },
  eff fun _ => .mile 100000000000]
/-- Channel 0 of die 0 waits for line 64 of the host, the last its descriptor asks for. -/
def dread : List Byte := putAt (putAt (List.replicate 32 0) 0 (leBytes 8 0x1000)) 16 (leBytes 4 64)
def asking : State := on [modPort 0 fun p => { p with reads := [⟨2, 0, 64, false⟩] }]

theorem witness_Snoops : snooped.canon = true ∧ snooped.quiet = true ∧ (snooped.port 1).snoops.find? (fun y => y.tag == 3) = some ⟨3, 64, false, 0⟩ ∧
    1000 * max 1 (snooped.fld F.TRL_CFG_SNP_TMO 1) ≤ (snooped.mile - 0).toNat ∧
    snooped.sfEntry 64 = some (1, ⟨64, true, [1]⟩) ∧ up.fld F.TRL_LNK_STS_STATE 0 = 2 ∧ (up.port 0).txq = [] ∧
    asking.canon = true ∧ (asking.port 0).reads.find? (fun y => y.tag == 2) = some ⟨2, 0, 64, false⟩ ∧ (asking.dma 0 0).cur = none := by decide +kernel

/-- Port 0's entry for source 97 enabled, with MASK and PEND, and room to send. -/
def notified (m p : Nat) : State := on [setF (F.TRL_EVT_EN.nth 97) 0 1, setF (F.TRL_EVT_MASK.nth 97) 0 m, setF (F.TRL_EVT_PEND.nth 97) 0 p,
  modPort 0 fun x => { x with credits := [(0, 8)] }]

theorem witness_HostEvents : (∀ m ∈ [0, 1], ∀ p ∈ [0, 1], let s := notified m p;
    s.canon = true ∧ 0 ∈ s.evtParts 97 5 ∧ 0 ∈ s.partPorts 0 ∧ F.TRL_EVT_EN.of (s.evt 0 97) = 1 ∧ F.TRL_EVT_MASK.of (s.evt 0 97) = m ∧
    F.TRL_EVT_PEND.of (s.evt 0 97) = p ∧ (s.port 0).holdoff = [] ∧ s.fld F.TRL_LNK_STS_STATE 0 = 2 ∧ (s.port 0).txq = [] ∧
    1 ≤ SMap.get noCr (s.port 0).credits 0 ∧ s.takes host .trl 0 (0x400 + 8 * 97) = true) := by decide +kernel

/-! ## DMA -/

/-- Channel 0 of die 0 with its ring at 0x8000 and the descriptor at HEAD, in a state. -/
def dmaIn (st : Nat) (desc : List (Nat × List Byte)) (f : DmaCh → DmaCh) (l : List Act) : State :=
  on ([setF F.DMA_CH_RING_EN 0 1, setF F.DMA_CH_RING_ADDR 0 0x200, setF F.DMA_CH_RING_LOG2 0 4, setF F.DMA_CH_STS_STATE 0 st, place 0x8000 desc,
    modDma 0 0 f] ++ l)
/-- A move of 64 bytes from 0x1000 to 0x2000, by the layout of R434: its CRC right, and wrong. -/
def desc1 (crc : List Byte) : List (Nat × List Byte) := [(1, [16]), (9, [32]), (16, [64]), (28, crc), (31, [1])]
def offered (d : List (Nat × List Byte)) : State := dmaIn 2 d (fun x => { x with tail := 1 }) []
def ringOf (a : Nat) : Word := BitVec.ofNat 64 (2 ^ 63 + a + 4)

theorem witness_DmaControl : up.canon = true ∧ up.power.drainFor ≠ 3 ∧ up.takes host .dma 0 0x100 = true ∧
    F.DMA_CH_RING_EN.of 0 = 0 ∧ F.DMA_CH_RING_EN.of (ringOf 0x8000) = 1 ∧
    up.owns (up.part 0) (F.DMA_CH_RING_ADDR.of (ringOf 0x8000) * 64) (2 ^ dmaLog2 (ringOf 0x8000) * 32) = true ∧
    F.DMA_CH_RING_EN.of (ringOf 0x018000000000) = 1 ∧
    up.owns (up.part 0) (F.DMA_CH_RING_ADDR.of (ringOf 0x018000000000) * 64) (2 ^ dmaLog2 (ringOf 0x018000000000) * 32) = false ∧
    up.takes host .dma 0 0x108 = true ∧ up.takes host .dma 0 0x130 = true ∧ F.DMA_CH_CMD_OP.of 1 = 1 ∧ F.DMA_CH_CMD_OP.of 2 = 2 ∧
    (dmaIn 3 [] id []).canon = true ∧ (dmaIn 3 [] id []).power.drainFor ≠ 3 ∧ (dmaIn 3 [] id []).takes host .dma 0 0x130 = true ∧
    (dmaIn 3 [] id []).fld (F.DMA_CH_STS_STATE.chan 0) 0 = 3 ∧
    (offered (desc1 [0, 0])).canon = true ∧ (offered (desc1 [0, 0])).takes host .dma 0 0x130 = true ∧
    (offered (desc1 [0, 0])).fld (F.DMA_CH_STS_STATE.chan 0) 0 = 2 ∧ ((offered (desc1 [0, 0])).dma 0 0).tail = 1 ∧
    (offered (desc1 [0, 0])).heldE ((offered (desc1 [0, 0])).descAddr 0 0 (0 + 0)) 32 = [] := by decide +kernel

theorem witness_DmaMoves : (∀ d ∈ [[], desc1 [0, 0], desc1 [36, 87]], let s := offered d;
      s.canon = true ∧ s.power.drainFor ≠ 3 ∧ s.fld (F.DMA_CH_STS_STATE.chan 0) 0 = 2 ∧ (s.dma 0 0).cur = none ∧ s.pstate ≤ 1 ∧
      s.dmaHead 0 0 ≠ (s.dma 0 0).tail ∧ s.descAddr 0 0 (s.dmaHead 0 0) = 0x8000 ∧ s.heldE 0x8000 32 = []) ∧
    nbit (leAt ((offered []).bytes 0x8000 32) 0x1F 1) 0 = false ∧ nbit (leAt ((offered (desc1 [0, 0])).bytes 0x8000 32) 0x1F 1) 0 = true ∧
    nbit (leAt ((offered (desc1 [36, 87])).bytes 0x8000 32) 0x1F 1) 0 = true := by decide +kernel

theorem witness_DmaMoves_check : (let s := offered (desc1 [36, 87]); s.dmaCheck 0 (s.bytes 0x8000 32) (s.dmaReg 0 0 0x18) (s.poisoned 0x8000 32) = 0) ∧
    (let s := offered (desc1 [0, 0]); s.dmaCheck 0 (s.bytes 0x8000 32) (s.dmaReg 0 0 0x18) (s.poisoned 0x8000 32) ≠ 0) := by
  simp only [State.dmaCheck, crc16_eq]
  decide +kernel

/-- The descriptor in progress, to device or to host memory; its flush read out; or in compatibility mode, no burst begun. -/
def descB (dst : Nat) : List Byte := [0, 16, 0, 0, 0, 0, 0, 0, 0, 32, 0, 0, 0, 0, 0, 0, 64, 0, 0, 0, 0, BitVec.ofNat 8 dst, 0, 0, 0, 0, 0, 0, 0, 0, 0, 1]
def dmaMoving (dst : Nat) (f : DmaCh → DmaCh) (l : List Act) : State := dmaIn 2 (desc1 [0, 0]) (fun x => f { x with tail := 1, cur := some (descB dst) }) l

theorem witness_DmaMoves_done : (∀ dst ∈ [0, 1], let s := dmaMoving dst id [];
      s.canon = true ∧ s.power.drainFor ≠ 3 ∧ s.fld (F.DMA_CH_STS_STATE.chan 0) 0 = 2 ∧ (s.dma 0 0).cur = some (descB dst) ∧
      (s.dma 0 0).ending = none ∧ (s.dma 0 0).flushing = false ∧ F.DMA_CH_CFG_MODE.of (s.dma 0 0).curCfg = 0 ∧
      (descSide (descB dst) 0).space = 0 ∧ (descSide (descB dst) 0).fixed = false ∧ s.poison = [] ∧ s.heldE 0x1000 64 = [] ∧
      (descSide (descB dst) 1).space = dst ∧ (descSide (descB dst) 1).fixed = false ∧ s.heldE 0x2000 64 = [] ∧ s.heldE 0x801E 2 = []) ∧
    0x2000 + 64 ≤ 0x8000 + 0x1E ∧ (0 : BitVec 8) ≠ 5 ∧ (0 : BitVec 8) ≠ 6 ∧
    (let s := dmaMoving 1 id [modPort 0 fun p => { p with reads := [⟨2, 0, 0, true⟩] }];
      s.canon = true ∧ (s.dma 0 0).cur = some (descB 1) ∧ (s.dma 0 0).ending = none ∧
      (s.port 0).reads.find? (fun z => z.tag == 2) = some ⟨2, 0, 0, true⟩) ∧
    (let s := dmaMoving 0 (fun x => { x with curCfg := 0x4000000001 }) [eff fun _ => .mile 1000];
      s.canon = true ∧ (s.dma 0 0).cur = some (descB 0) ∧ (s.dma 0 0).ending = none ∧ F.DMA_CH_CFG_MODE.of (s.dma 0 0).curCfg = 1 ∧
      (s.dma 0 0).begun (descB 0) < 64 ∧ dmaGap (s.dma 0 0).curCfg false 1 ≤ 2 * (s.mile - (s.dma 0 0).issued).toNat) := by decide +kernel

/-! ## The Keeper, the mailbox and the monitor -/

def silent : State := on [setF F.KPR_STS_STATE 0 0]

theorem witness_KeeperAndLog : up.canon = true ∧ up.power.vaux = true ∧ silent.canon = true ∧ silent.power.vaux = true ∧
    silent.fld F.KPR_STS_STATE 0 = 0 ∧ silent.flag F.SEC_STS_BOOT_DONE 0 = true ∧ silent.keeper.haltedByTap = false ∧
    (∀ d ∈ List.range 32, (silent.die d).chkHold = [] ∧ (silent.die d).chkDropped = 0 ∧ (silent.die d).marchHeld = [] ∧ (silent.die d).softUp = []) ∧
    (1 : Fin 13) ≠ 0 ∧ up.keeperUp = true ∧ silent.keeperUp = false ∧ (0 : Word32).toNat / 2 ^ 22 % 64 < 32 := by decide +kernel

/-- A mailbox command of an OP on an object, with LEN 8; pieces of that object may be staged. -/
def boxed (obj : Nat) (st : List (Nat × List Byte)) (l : List Act) : State := on ([setF F.KPR_MBX_ARG_LEN 0 8, modKeeper fun k => { k with
  stagedObj := if st = [] then 0 else obj, staged := st }] ++ l)
def boxCmd (op obj : Nat) : Word := BitVec.ofNat 64 (obj * 2 ^ 48 + op * 2 + 1)

theorem witness_MailboxAndBoard :
    (∀ x ∈ [(1, 0x34), (2, 0x33), (3, 0x33), (3, 0x32), (4, 0x34), (5, 0)], let s := boxed x.2 [] []; let v := boxCmd x.1 x.2;
      let u := after (storeRW .kpr 0 0x200 v) s;
      s.canon = true ∧ s.takes host .kpr 0 0x200 = true ∧ bitsOf v 0 0 = 1 ∧ s.flag F.KPR_MBX_STS_BUSY 0 = false ∧
      u.fld F.KPR_MBX_CMD_OP 0 = x.1 ∧ u.fld F.KPR_MBX_CMD_OBJ 0 = x.2 ∧ s.fld F.KPR_MBX_ARG_OFFSET 0 = 0 ∧ s.fld F.KPR_MBX_ARG_LEN 0 = 8) ∧
    (up.object (some host) 0x34).map List.length = some 16 ∧ (up.object none 0x34).map List.length = some 16 ∧
    (boxed 0x33 [] []).keeper.stagedObj ≠ 0x33 ∧
    (let s := boxed 0x32 [(0, [110, 113, 110])] [];
      s.canon = true ∧ s.keeper.stagedObj = 0x32 ∧ s.secState < 2 ∧ assemble s.keeper.staged (stagedLen s.keeper.staged) = some [110, 113, 110]) ∧
    (let s := boxed 0 [] [setF F.PWR_STATE_STATE 0 3];
      s.canon = true ∧ s.takes host .kpr 0 0x200 = true ∧ s.pstate = 3 ∧ s.mayWake = true) ∧
    up.mctpUp = true ∧ (8 ≤ (9 : Byte).toNat ∧ (9 : Byte).toNat ≠ 255 ∧ [0, (9 : Byte)].getD 1 0 = 9) ∧ up.power.vaux = true ∧ up.keeperUp = true ∧
    (1 : Byte) ≠ 0 ∧ (1 : Byte) ≠ 255 := by decide +kernel

def monitor (f : Mon → Mon) (l : List Act) : State := on (modMon f :: l)

theorem witness_Monitoring : up.canon = true ∧ up.takes host .mon 0 0x100 = true ∧ F.MON_CTL_INJ_SW.of 1 = 0 ∧
    (let s := monitor (fun m => { m with phase := 2 }) [setF F.MON_CFG_MODE 0 1, setF F.MON_LEN_INJ 0 1, setF F.MON_CTL_EN 0 1,
        setF F.MON_INJ_THERMAL 0 1, setF F.MON_INJ_OVERCUR 0 1];
      s.canon = true ∧ s.takes host .mon 0 0x100 = true ∧ s.monTable = false ∧ s.monInj ≠ 0 ∧ 2 ≤ s.mon.phase ∧ s.mon.inj = none ∧
      s.flag F.MON_INJ_THERMAL 0 = true ∧ s.flag F.MON_INJ_OVERCUR 0 = true ∧
      (let v := BitVec.ofNat 64 (2 ^ F.MON_CTL_EN.lo + 2 ^ F.MON_CTL_INJ_SW.lo);
        F.MON_CTL_INJ_SW.of v = 1 ∧ F.MON_CTL_EN.of v = s.fld F.MON_CTL_EN 0)) ∧
    (monitor (fun m => { m with phase := 1 }) []).canon = true ∧ (monitor (fun m => { m with phase := 1 }) []).mon.phase = 1 ∧
    (monitor (fun m => { m with phase := 3 }) []).canon = true ∧ (monitor (fun m => { m with phase := 3 }) []).mon.phase = 3 ∧
    (monitor (fun m => { m with phase := 2 }) []).canon = true ∧ (monitor (fun m => { m with phase := 2 }) []).mon.phase = 2 ∧
    (monitor (fun m => { m with phase := 2 }) []).monCh < 24 ∧
    64 ≤ (monitor (fun m => { m with phase := 2, fifo := List.replicate 64 0 }) []).mon.fifo.length ∧ up.keeperUp = true := by decide +kernel

/-! ## Temperature, power and power states -/

theorem witness_PowerGovernor : up.canon = true ∧ up.power.rails = true ∧ up.fld F.PWR_OC_LIMIT 0 < (65535 : BitVec 16).toNat ∧
    (let s := on [setF F.PWR_P1_OC 0 1, eff fun _ => .mile 1000000];
      s.canon = true ∧ s.flag F.PWR_P1_OC 0 = true ∧ 1000 * s.fld F.PWR_OC_HOLD 0 ≤ (s.mile - s.power.ocAt).toNat) ∧ up.power.vaux = true := by decide +kernel

theorem witness_StopsAndLosses : up.canon = true ∧ up.power.rails = true ∧ snsExists 0 0 = true ∧ up.power.vaux = true ∧
    up.power.drainFor ≠ 2 ∧ (on [modPower fun p => { p with drainFor := 2 }]).canon = true ∧
    (on [modPower fun p => { p with drainFor := 2 }]).power.drainFor = 2 ∧ (on [modPower fun p => { p with drainFor := 2 }]).power.parked = false ∧
    (on [modPower fun p => { p with drainFor := 2 }]).inFlight = false ∧
    (on [modPower fun p => { p with parked := true }]).canon = true ∧ (on [modPower fun p => { p with parked := true }]).power.parked = true ∧
    (on [modPower fun p => { p with parked := true }]).keeperUp = true := by decide +kernel

def powerWord (req : Nat) : Word := BitVec.ofNat 64 (2 ^ F.PWR_CMD_GO.lo + req * 2 ^ F.PWR_CMD_REQ.lo)
def resting (st : Nat) : State := on [setF F.PWR_STATE_STATE 0 st]

theorem witness_PowerStates : (∀ x ∈ [(0, 2), (2, 0), (2, 1), (3, 0), (3, 2)], let s := resting x.2;
      s.canon = true ∧ s.takes host .pwr 0 0x108 = true ∧ F.PWR_CMD_GO.of (powerWord x.1) = 1 ∧ F.PWR_CMD_REQ.of (powerWord x.1) = x.1 ∧
      s.flag F.PWR_STATE_BUSY 0 = false ∧ s.pstate = x.2) ∧
    (∀ d ∈ List.range 32, up.fld F.BIL_IMG_STS_STATE d = 0) ∧ (on [setF F.BIL_IMG_STS_STATE 3 4]).fld F.BIL_IMG_STS_STATE 3 ≠ 0 ∧
    (let s := on [modPower fun p => { p with drainFor := 1 }];
      s.canon = true ∧ s.power.drainFor = 1 ∧ s.inFlight = false ∧ s.power.rails = true ∧
      (∀ d ∈ List.range 32, (s.dma d 0).cur = none ∧ (s.dma d 1).cur = none)) ∧
    (let s := live5 [modPower fun p => { p with drainFor := 1 }]; s.canon = true ∧ s.power.drainFor = 1 ∧ s.inFlight = true ∧ s.power.due ≤ s.mile) ∧ (resting 3).pstate = 3 ∧ (resting 3).power.vaux = true ∧
    (resting 3).power.wake = false := by decide +kernel

/-! ## Security, firmware update, reset and bring-up -/

/-- A configuration list of one entry in a staging record at 0x10000, by the layout of R497, for a provisioned part. -/
def staged : State := on [place 0x10000 [(0, [83, 84, 71, 69, 2, 1]), (8, [28]), (16, [1, 0, 0, 0, 1, 0, 0, 0, 0, 0, 2, 0, 1, 8]), (32, [5]),
  (40, [231, 61, 151, 84])], setF F.SEC_STAGE_ADDR_ADDR 0 0x400, setF F.SEC_STS_STATE 0 1]
def stageWord (kind : Nat) : Word := BitVec.ofNat 64 (2 ^ F.SEC_STAGE_CMD_GO.lo + kind * 2 ^ F.SEC_STAGE_CMD_KIND.lo)

theorem witness_StagingRecords : staged.canon = true ∧ staged.poison = [] ∧ staged.takes host .sec 0 0x1B0 = true ∧
    (∀ k ∈ [1, 2, 3, 4, 5], F.SEC_STAGE_CMD_GO.of (stageWord k) = 1 ∧ F.SEC_STAGE_CMD_KIND.of (stageWord k) = k) ∧
    staged.fld F.SEC_STAGE_ADDR_ADDR 0 * 64 = 0x10000 ∧ (staged.heldE 0x10000 (staged.stageRec 0x10000 false).len).isEmpty = true ∧
    (staged.heldE 0x10000 (staged.stageRec 0x10000 true).len).isEmpty = true ∧
    staged.stageCheck 0 0x10000 3 (staged.stageRec 0x10000 false) false ≠ 0 := by decide +kernel

theorem witness_StagingRecords_sound : staged.stageCheck 0 0x10000 2 (staged.stageRec 0x10000 false) false = 0 := by
  simp only [State.stageCheck, bodyOk, crc32c_eq]
  decide +kernel

def debugWord (op : Nat) : Word := BitVec.ofNat 64 (2 ^ F.SEC_DBG_CMD_GO.lo + op * 2 ^ F.SEC_DBG_CMD_OP.lo)

theorem witness_AttestationAndDebug : up.canon = true ∧ up.takes host .sec 0 0x198 = true ∧ F.SEC_ATT_CMD_GO.of 1 = 1 ∧
    (up.srcPart host).getD 0x3F ≠ 0x3F ∧ up.owns ((up.srcPart host).getD 0x3F) (up.fld F.SEC_ATT_ADDR_ADDR 0 * 64) 4896 = true ∧
    up.flag F.SEC_STS_ID_FAIL 0 = false ∧ up.secState ≠ 3 ∧ up.heldE (up.fld F.SEC_ATT_ADDR_ADDR 0 * 64) 4896 = [] ∧
    up.takes host .sec 0 0x180 = true ∧ (∀ k ∈ [1, 2, 3, 4], F.SEC_DBG_CMD_GO.of (debugWord k) = 1 ∧ F.SEC_DBG_CMD_OP.of (debugWord k) = k) ∧
    up.heldE (up.fld F.SEC_DBG_ADDR_ADDR 0 * 64) (0x82 + up.num (up.fld F.SEC_DBG_ADDR_ADDR 0 * 64 + 0x80) 2) = [] ∧ up.poison = [] ∧
    (on [setF F.SEC_STS_DEBUG 0 1]).canon = true ∧ (on [setF F.SEC_STS_DEBUG 0 1]).debug = 1 ∧
    (on [setF F.SEC_STS_DEBUG 0 1]).sec.tokenEnds ≤ (on [setF F.SEC_STS_DEBUG 0 1]).nvm.pos ∧ up.power.vaux = true := by decide +kernel

def upd1 (f : Update → Update) : State := on [modNvm fun n => { n with upd := f n.upd }, setF F.UPD_ARG_LEN 0 8]
def updWord (op : Nat) : Word := BitVec.ofNat 64 (2 ^ F.UPD_CMD_GO.lo + op * 2 ^ F.UPD_CMD_OP.lo)

theorem witness_FirmwareUpdate : up.canon = true ∧ up.takes host .upd 0 0x130 = true ∧
    (∀ k ∈ [1, 2, 3, 4, 5], F.UPD_CMD_GO.of (updWord k) = 1 ∧ F.UPD_CMD_OP.of (updWord k) = k) ∧
    (upd1 fun u => { u with fixed := true, st := 1 }).canon = true ∧ (upd1 fun u => { u with fixed := true, st := 1 }).updFixed = true ∧
    (upd1 fun u => { u with fixed := true, st := 1 }).nvm.upd.trais = false ∧ up.updFixed = false ∧ up.mctpUp = true ∧
    (let s := upd1 id; let bs := s.updBuf (max 1 (min 4096 (s.fld F.UPD_ARG_LEN 0)));
      s.canon = true ∧ bs ≠ [] ∧ s.fld F.UPD_ARG_OFFSET 0 + bs.length ≤ 8192 ∧
      State.gathered1 { s with keeper := { s.keeper with gather := s.keeper.gather ++ [(0, bs)] } } 0 8192 = none) ∧
    up.nvm.upd.st ≠ 3 ∧ (upd1 fun u => { u with st := 4 }).nvm.upd.st = 4 ∧ (upd1 fun u => { u with st := 4 }).canon = true ∧
    (let s := on [modNvm fun n => { n with upd := { n.upd with st := 4, since := 0 }, pos := 100000 }];
      s.canon = true ∧ s.keeperUp = true ∧ s.fld F.UPD_CFG_CONFIRM_S 0 ≠ 0 ∧ s.nvm.upd.since + s.fld F.UPD_CFG_CONFIRM_S 0 ≤ s.nvm.pos) ∧
    (let s := upd1 fun u => { u with st := 2 }; s.canon = true ∧ s.nvm.upd.st = 2 ∧ s.badBlock = none ∧ s.secState ≠ 3 ∧
      s.flag F.SEC_STS_BOOT_DONE 0 = true) := by decide +kernel

/-- The manifest of that transfer is signed where verification, which is free, says so. -/
theorem witness_FirmwareUpdate_signed (h : Config.falconVerify (Config.romKey 0) (Config.shake256 64 []) [] = true) :
    manSigned (upd1 fun u => { u with st := 2 }).nvm.upd.manifest = true := h

def rstWord : Word := BitVec.ofNat 64 (0xA5 * 2 ^ F.KPR_RST_KEY.lo + 2 * 2 ^ F.KPR_RST_OP.lo)
def booting (stage : Nat) (rails : Bool) : State := on [modPower fun p => { p with rails := rails, wake := true }, setF F.KPR_BOOT_STAGE 0 stage]

theorem witness_ResetsAndBringUp : up.canon = true ∧ up.nvm.cfgStaged = none ∧ up.takes host .kpr 0 0x400 = true ∧
    F.KPR_RST_KEY.of rstWord = 0xA5 ∧ F.KPR_RST_OP.of rstWord = 2 ∧ up.power.rails = true ∧
    (∀ d ∈ List.range 32, ∀ c ∈ [0, 1], (up.dma d c).cur = none) ∧
    (let s := booting 0 false; s.canon = true ∧ s.power.wake = true ∧ s.power.rails = false ∧ s.fld F.KPR_BOOT_STAGE 0 ≠ 1 ∧ s.keeperUp = true) ∧
    up.takes host .sch 0 0x400 = true ∧ F.SCH_PRST_GO.of 1 = 1 ∧ up.part 0 < 16 ∧
    (let s := booting 1 false; s.canon = true ∧ s.keeperUp = true ∧ s.fld F.KPR_BOOT_STAGE 0 = 1 ∧ s.cool = true ∧ s.power.wake = true) ∧
    (let s := booting 3 true; s.canon = true ∧ s.keeperUp = true ∧ s.power.rails = true ∧ s.fld F.KPR_BOOT_STAGE 0 = 3) := by decide +kernel

/-! ## Ill-formed commands -/

/-- One command for each check of `Instr.wellFormed`, which the check refuses. -/
theorem test_ill_formed_tile : [Instr.nop c0 ⟨0x04000000, .ok⟩, .packetRoute t0 .l (pkt t0 .act 0 8), .packetRoute t0 .l (pkt t0 .act 0 2),
    .packetRoute t0 .l (pkt t0 .act 0 5), .packetRoute t0 .l { pkt t0 .ctl 0 1 with data := List.replicate 113 0 }, .partialSumArrival c0 0 0 [],
    .commandForward 0 0 1 0 0, .routerScores 0 0 0 0 ⟨[], .ok⟩, .stackRequest 0 0 0 0 (.read 0) .ok, .lineFill 0 1 (List.replicate 8 .ok),
    .lineFill 0 0 [], .windowOwnerChange 0 5 4 (some 0), .scrubPass 1 0 [0], .forwardedRecord 0 0 0 0 []].any Instr.wellFormed = false := by
  decide +kernel

theorem test_ill_formed_links : [Instr.bfpFlitReceive 0 { bflit 0 0 with data := List.replicate 241 0 }, .linkDead 0 0,
    .traisFlitReceive 0 { tflit 0 with nmsg := 0 }, .traisRd 0 .stack 0 0 0, .traisRd 0 .stack 100 64 0, .traisWr 0 .stack 0 [], .traisRdS 0 8 0,
    .traisRdE 0 8 0, .traisWb 0 0 [0], .traisSnpRsp 0 0 (some [0]), .traisCpl 0 0 0 (List.replicate 129 0), .eventRaise 101 0].any
    Instr.wellFormed = false := by decide +kernel

theorem test_ill_formed_part : [Instr.sensorSample 40 3 none, .sensorSample 46 0 none, .thermalStop 48 2, .hardwareCut 45 0, .governorTick [],
    .dmaTransferDone 0 0 3 0 [], .pldmFirmwareData 0 (List.replicate 4097 0), .coldReset none 0 0 false 0 true, .coldReset none 3 0 false 0 true,
    .coldReset (some host) 1 0 false 0 true].any Instr.wellFormed = false := by decide +kernel

theorem test_well_formed : [Instr.nop c0 ⟨0, .ok⟩, .packetRoute t0 .l (pkt t0 .red 0 5), .stackRequest 0 0 0 0x1000 (.read 8) .ok, .traisRd 0 .stack 0x1000 8 0, .sensorSample 40 0 none,
    .linkDead 0 1, .coldReset none 1 0 false 0 true, .histFlush 0].all Instr.wellFormed = true := by decide +kernel

/-! ## The manual's worked examples -/

/-- "Finding a tile's registers": TIL_ID of tile (17, 40) on die 19. -/
theorem test_tile_registers : target 0x080013904400 = .reg .til (tileKey ⟨19, 17, 40⟩) 0 ∧
    State.reset.readReg .til (tileKey ⟨19, 17, 40⟩) 0 = 0x0001141100130100 := by decide +kernel

/-- "Two registers through the window". -/
theorem test_register_window : up.regWin 0 0x1110118 = some 0x080011010118 ∧
    (on [setF (F.TRL_TPAGE_DIE.nth 2) 0 19, setF (F.TRL_TPAGE_PAGE.nth 2) 0 1, setF (F.TRL_TPAGE_VALID.nth 2) 0 1]).regWin 0 0x3904400 =
      some 0x080013904400 := by decide +kernel

/-- "One block of an attention output": elements 4, 9, 17 and 22 of a block with F = −20. -/
def attention : List Int := (((List.replicate 32 0).set 4 (-2750)).set 9 1900 |>.set 17 9812).set 22 130

theorem test_requantise_outfit : (let r := (rqBlock 2 true rne (-20) attention ⟨0, 0⟩).1
    (r.blk.e, [4, 9, 22, 17].map fun i => r.blk.m.getD i 0, r.out, r.under, r.sat)) =
    (116, [-5, 4, 0, 7], some (17, 6228, 0), false, false) := by decide +kernel

theorem test_requantise_maxfit : (let r := (rqBlock 2 false rne (-20) attention ⟨0, 0⟩).1
    (r.blk.e, [17, 4, 9, 22].map fun i => r.blk.m.getD i 0)) = (118, [5, -1, 1, 0]) := by decide +kernel

/-- "A stochastic round": the draw 0x9A3C rounds 1,900 / 2^9 to 4. -/
theorem test_stochastic_round : rsrAddend 0x9A3C 9 = 308 ∧ (1900 + (308 : Int)) / 2 ^ 9 = 4 := by decide +kernel

/-- "An underflowing block": F = −150, every |VAL| ≤ 3. -/
theorem test_underflow : (let r := (rqBlock 2 false rne (-150) (List.replicate 32 3) ⟨0, 0⟩).1
    (r.blk.e, r.blk.m.all (· == 0), r.under)) = (0, true, true) := by decide +kernel

/-- "Aligning and reconstructing one expert MVM": drive values of blocks 3 and 20 with X = 0 and 1, and the weights of the planes. -/
theorem test_align : driveBlock 121 0 ⟨119, [-6, 5, 3, -1]⟩ = [-2, 1, 1, 0] ∧ driveBlock 121 1 ⟨119, [-6, 5, 3, -1]⟩ = [-3, 2, 2, 0] ∧
    driveBlock 121 0 ⟨116, [-8, 7]⟩ = [0, 0] ∧ driveBlock 121 1 ⟨121, [7, -3]⟩ = [14, -6] ∧
    4 * (List.zipWith (· * ·) ((List.range 4).map (signif false 4)) [41, -18, 35, 6]).sum = 388 := by decide +kernel

/-- "One key-value line": line 0x0025_C0F0_0000 is cached in slice 0, set 768. -/
theorem test_cache_set : setKey (0x0025C0F00000 / 256) = 768 * 16 + 0 := by decide +kernel

/-- "A throttled snapshot": a gap of 332 NOC cycles at BURST 2, SHARE 16, 4 lanes. -/
theorem test_dma_gap : dmaGap (BitVec.ofNat 64 (16 * 2 ^ 32 + 2 * 2 ^ 24 + 1)) true 4 = 332 := by decide +kernel

end Sys2Proof.Tests
end

section
/-!
SUPPORT. Register addresses that no register occupies (R10): the addresses of register space, what a write of a register is when its
block gives it no effect of its own, and a part on which nothing waits for a write.
-/
namespace Sys2Proof.Machine

/-! ## Addresses of register space (R14) -/

/-- The index at which an address can name a block (R14), where the block's writes go by it: 0 for the Keeper's blocks, below 32 for the die,
port and system blocks. Tiles, and the partitions' copies in LDR_ and FAB_, have indices of their own that no write depends on. -/
def Blk.HasIndex (i : Nat) : Blk → Prop
  | .kpr | .mon | .thm | .pwr | .sec | .upd => i = 0
  | .til | .ldr | .fab => True
  | _ => i < 32

/-- A die's register space names a block at an index it has, and an offset keeps its place in the 8-byte word. -/
theorem dieTarget_reg {d o i off : Nat} {b : Blk} (hd : d < 32) (h : dieTarget d o = .reg b i off) : b.HasIndex i ∧ off % 8 = o % 8 := by
  unfold dieTarget at h
  split at h
  · split at h
    next c hc =>
      cases h
      have hmem := List.mem_of_getElem? hc
      refine ⟨?_, by omega⟩
      fin_cases hmem <;> exact hd
    · cases h
  · split at h
    · dsimp only at h
      split at h <;> cases h
      exact ⟨trivial, by omega⟩
    · cases h

/-- The port and system space names a block at an index it has, and an offset keeps its place in the 8-byte word. -/
theorem sysTarget_reg {o i off : Nat} {b : Blk} (h : sysTarget o = .reg b i off) : b.HasIndex i ∧ off % 8 = o % 8 := by
  unfold sysTarget at h
  split_ifs at h <;> cases h
  all_goals
    refine ⟨?_, by omega⟩
    simp only [Blk.HasIndex] <;> omega

/-- An address names a block at an index it has, and an offset keeps the address's place in the 8-byte word. -/
theorem target_reg {a i off : Nat} {b : Blk} (h : target a = .reg b i off) : b.HasIndex i ∧ off % 8 = a % 8 := by
  unfold target at h
  split_ifs at h
  · dsimp only at h
    split at h <;> cases h
  · obtain ⟨hi, ho⟩ := dieTarget_reg (by omega) h
    exact ⟨hi, by omega⟩
  · split at h
    next c hc =>
      cases h
      have hmem := List.mem_of_getElem? hc
      refine ⟨?_, by omega⟩
      fin_cases hmem <;> rfl
    · cases h
  · obtain ⟨hi, ho⟩ := sysTarget_reg h
    exact ⟨hi, by omega⟩

/-- An access reaches the register its address names, or a partition's copy in LDR_ or FAB_ at the same offset (R496). -/
theorem resolve_cases (s : State) (src : Src) (b : Blk) (i off : Nat) :
    s.resolve src b i off = (b, i, off) ∨ ∃ c p, (c = .ldr ∨ c = .fab) ∧ s.resolve src b i off = (c, p, off) := by
  unfold State.resolve
  split_ifs
  · exact .inr ⟨_, _, .inl rfl, rfl⟩
  · exact .inr ⟨_, _, .inr rfl, rfl⟩
  · exact .inl rfl

/-- The register an access reaches has an index its block has, and the offset of the address. -/
theorem resolve_hasIndex (s : State) (src : Src) {b : Blk} {i : Nat} (off : Nat) (hi : b.HasIndex i) :
    (s.resolve src b i off).1.HasIndex (s.resolve src b i off).2.1 ∧ (s.resolve src b i off).2.2 = off := by
  obtain h | ⟨c, p, rfl | rfl, h⟩ := resolve_cases s src b i off <;> rw [h]
  · exact ⟨hi, rfl⟩
  · exact ⟨trivial, rfl⟩
  · exact ⟨trivial, rfl⟩

/-- Resolving changes no block but LDR_ and BFP_0. -/
theorem resolve_eq_self (s : State) (src : Src) {b : Blk} (i off : Nat) (hl : b ≠ .ldr) (hb : b ≠ .bfp) :
    s.resolve src b i off = (b, i, off) := by
  simp [State.resolve, hl, hb]

/-! ## Reads (R10, R15) -/

/-- Beyond the identity register, an offset no register occupies reads zero. -/
theorem readReg_of_unoccupied (s : State) {b : Blk} (i : Nat) {off : Nat} (h0 : off ≠ 0) (hr : rowOf b off = none) :
    s.readReg b i off = 0 := by
  simp [State.readReg, h0, hr]

/-- An admitted read of an offset no register occupies yields zero and does nothing else. -/
theorem hostRead_of_unoccupied (s : State) (n : Fin 4) {addr i off : Nat} {b : Blk} (k : Word → Act) (ht : target addr = .reg b i off)
    (h0 : off ≠ 0) (ha : s.admits (.port n) false b i off = true)
    (hr : rowOf (s.resolve (.port n) b i off).1 (s.resolve (.port n) b i off).2.2 = none) : hostRead n addr k s = k 0 s := by
  have hfifo : ¬ (b = .mon ∧ off = 0x500) := by
    rintro ⟨rfl, rfl⟩
    rw [resolve_eq_self s _ _ _ (by decide) (by decide)] at hr
    dsimp only at hr
    exact absurd hr (by decide +kernel)
  have hpwr : ¬ (b = .pwr ∧ off = 0x120) := by
    rintro ⟨rfl, rfl⟩
    rw [resolve_eq_self s _ _ _ (by decide) (by decide)] at hr
    dsimp only at hr
    exact absurd hr (by decide +kernel)
  have hoff : (s.resolve (.port n) b i off).2.2 ≠ 0 := by
    obtain ⟨hi, -⟩ := target_reg ht
    obtain ⟨-, ho⟩ := resolve_hasIndex s (.port n) off hi
    rwa [ho]
  simp [hostRead, ht, ha, hfifo, hpwr, readReg_of_unoccupied s _ hoff hr]

/-- Outside every block a read yields zero and does nothing else. -/
theorem hostRead_of_nothing (s : State) (n : Fin 4) {addr : Nat} (k : Word → Act) (ht : target addr = .nothing) :
    hostRead n addr k s = k 0 s := by
  simp [hostRead, ht]

/-! ## Writes (R9, R10) -/

/-- The aligned offsets of a block whose write is more than its fields' access codes. -/
def ownWrites : Blk → List Nat
  | .til => [0x130, 0x2A8]
  | .ldr => [0x110, 0x128, 0x170]
  | .fab => [0x8028, 0x8050]
  | .bfp => (List.range 16).map (0x200 + 8 * ·)
  | .trl => (List.range 16).map (0x200 + 8 * ·) ++ (List.range 128).map (0x400 + 8 * ·)
  | .msc => [0x108]
  | .sch => [0x320, 0x340, 0x400, 0x828, 0x830]
  | .pas => [0x100, 0x110, 0x118, 0x128, 0x130, 0x158]
  | .bil => [0x110, 0x208, 0x210, 0x218, 0x220, 0x228]
  | .cal => [0x110]
  | .stk => [0x418]
  | .dma => [0x100, 0x108, 0x130, 0x180, 0x188, 0x1B0]
  | .kpr => [0x200, 0x400]
  | .mon => [0x100, 0x108, 0x118, 0x120] ++ (List.range 35).map (0x200 + 8 * ·)
  | .thm => [0x108]
  | .pwr => [0x108]
  | .sec => [0x180, 0x198, 0x1B0]
  | .upd => [0x130]
  | .chk | .eth | .prt => []

/-- A register occupies every offset whose write has an effect of its own. -/
theorem rowOf_ne_none_of_mem_ownWrites {b : Blk} {off : Nat} (h : off ∈ ownWrites b) : rowOf b off ≠ none := by
  have hall : ∀ off ∈ ownWrites b, rowOf b off ≠ none := by cases b <;> decide +kernel
  exact hall off h

/-- An aligned offset of an array of n registers from `base` is one of the array's. -/
theorem mem_array_of_aligned {base off : Nat} (n : Nat) (hb : base % 8 = 0) (h8 : off % 8 = 0) (h1 : base ≤ off) (h2 : off < base + 8 * n) :
    off ∈ (List.range n).map (base + 8 * ·) :=
  List.mem_map.2 ⟨(off - base) / 8, List.mem_range.2 (by omega), by omega⟩

/-- An aligned offset of the monitor whose write has no effect of its own is no configuration (R464). -/
theorem monConfig_of_not_mem_ownWrites {off : Nat} (h8 : off % 8 = 0) (h : off ∉ ownWrites .mon) : monConfig off = false := by
  simp only [ownWrites, List.mem_append, not_or] at h
  obtain ⟨hreg, hlist⟩ := h
  have hlists : ¬ (0x200 ≤ off ∧ off < 0x318) := fun ⟨h1, h2⟩ => hlist (mem_array_of_aligned 35 (by decide) h8 h1 h2)
  simp only [List.mem_cons, List.not_mem_nil, or_false, not_or] at hreg
  simp [monConfig, hreg]
  omega

/-- A Keeper register whose write has no effect of its own is written by its fields' access codes. -/
theorem keeperWrite_eq (src : Src) (b : Blk) {off : Nat} (v : Word) (h8 : off % 8 = 0) (h : off ∉ ownWrites b) :
    keeperWrite src b off v = guardW src b 0 off (writeReg b 0 off v) := by
  cases b
  case mon =>
    have hc := monConfig_of_not_mem_ownWrites h8 h
    simp [ownWrites] at h
    simp [keeperWrite, monWrite, hc, h]
  all_goals
    simp [ownWrites] at h
    simp [keeperWrite, h]

/-- A die block's register whose write has no effect of its own is written by its fields' access codes; on a die without a stack the stack
controller has no registers (R285). -/
theorem dieWrite_eq (src : Src) (b : Blk) (d : Fin 32) {off : Nat} (v : Word) (h : off ∉ ownWrites b) :
    dieWrite src b d off v = if noStack b d.val off then skip else guardW src b d.val off (writeReg b d.val off v) := by
  cases b
  all_goals
    simp [ownWrites] at h
    simp [dieWrite, noStack, h]

/-- A write of a register that its block gives no effect of its own goes by the fields' access codes. -/
theorem regWrite_eq (src : Src) {b : Blk} {i off : Nat} (v : Word) (h8 : off % 8 = 0) (h : off ∉ ownWrites b)
    (hi : b.HasIndex i) :
    regWrite src b i off v = if noStack b i off then skip else guardW src b i off (writeReg b i off v) := by
  cases b
  case bfp =>
    have hn : ¬ (0x200 ≤ off ∧ off < 0x280 ∧ off % 8 = 0) := fun ⟨h1, h2, _⟩ => h (mem_array_of_aligned 16 (by decide) h8 h1 h2)
    simp only [regWrite, hn, if_false]
    rfl
  case trl =>
    simp only [ownWrites, List.mem_append, not_or] at h
    obtain ⟨hwin, hevt⟩ := h
    have hw : ¬ (0x200 ≤ off ∧ off < 0x280 ∧ off % 8 = 0) := fun ⟨h1, h2, _⟩ => hwin (mem_array_of_aligned 16 (by decide) h8 h1 h2)
    have he : ¬ (0x400 ≤ off ∧ off < 0x800 ∧ off % 8 = 0) := fun ⟨h1, h2, _⟩ => hevt (mem_array_of_aligned 128 (by decide) h8 h1 h2)
    simp only [regWrite, hw, he, if_false]
    rfl
  case til | ldr | fab | msc =>
    simp [ownWrites] at h
    simp [regWrite, noStack, h]
  case eth | prt => rfl
  case kpr | mon | thm | pwr | sec | upd =>
    have h0 : i = 0 := hi
    subst h0
    exact keeperWrite_eq src _ v h8 h
  case sch | pas | bil | cal | chk | stk | dma =>
    have hd : (fin32 i).val = i := Nat.mod_eq_of_lt hi
    have hw := dieWrite_eq src _ (fin32 i) v h
    rw [hd] at hw
    exact hw

/-- An admitted write of an offset no register occupies has no effect (R10). -/
theorem regWrite_of_unoccupied (s : State) (src : Src) {b : Blk} {i off : Nat} (v : Word) (h8 : off % 8 = 0) (hi : b.HasIndex i)
    (ha : s.admits src true b i off = true) (hr : rowOf b off = none) : regWrite src b i off v s = [] := by
  rw [regWrite_eq src v h8 (fun h => rowOf_ne_none_of_mem_ownWrites h hr) hi]
  split
  · rfl
  · simp [guardW, ha, writeReg, hr]

/-- An admitted aligned write of an address whose register, as resolved, does not exist has no effect. -/
theorem hostWrite_of_unoccupied (s : State) (src : Src) {addr i off : Nat} {b : Blk} (v : Word) (h8 : addr % 8 = 0)
    (ht : target addr = .reg b i off)
    (ha : s.admits src true (s.resolve src b i off).1 (s.resolve src b i off).2.1 (s.resolve src b i off).2.2 = true)
    (hr : rowOf (s.resolve src b i off).1 (s.resolve src b i off).2.2 = none) : hostWrite src addr v s = [] := by
  obtain ⟨hi, ho⟩ := target_reg ht
  obtain ⟨hi', ho'⟩ := resolve_hasIndex s src off hi
  simp only [hostWrite, ht]
  exact regWrite_of_unoccupied s src v (by omega) hi' ha hr

/-- An address outside every block takes no write. -/
theorem hostWrite_of_nothing (s : State) (src : Src) {addr : Nat} (v : Word) (ht : target addr = .nothing) :
    hostWrite src addr v s = [] := by
  simp [hostWrite, ht]

/-! ## Nothing waits for a write (R424, R438) -/

/-- Actions none of which changes the state leave it as it is. -/
theorem after_forA_of_forall_eq {α : Type} (s : State) (f : α → Act) : ∀ l : List α, (∀ x ∈ l, after (f x) s = s) → after (forA l f) s = s
  | [], _ => rfl
  | x :: l, h => by
    rw [after_forA_cons, h x (List.mem_cons_self ..)]
    exact after_forA_of_forall_eq s f l fun y hy => h y (List.mem_cons_of_mem _ hy)

/-- A port that holds no request serves none. -/
theorem after_pumpHeld_of_held_eq_nil (s : State) (n : Fin 4) (k : Nat) (h : (s.port n.val).held = []) : after (pumpHeld n k) s = s := by
  cases k with
  | zero => rfl
  | succ k => simp [after, pumpHeld, h]

/-- A channel with no completion to write writes none. -/
theorem after_dmaTry_of_ending_eq_none (s : State) (d c : Nat) (h : (s.dma d c).ending = none) : after (dmaTry d c) s = s := by
  simp [after, dmaTry, h]

/-- Where no request and no completion waits, trying them again changes nothing. -/
theorem after_pumpAll_of_quiet (s : State) (h : s.quiet = true) : after pumpAll s = s := by
  simp only [State.quiet, allPorts, Bool.and_eq_true, List.all_eq_true, List.mem_range, List.isEmpty_iff, Option.isNone_iff_eq_none] at h
  obtain ⟨hheld, hending⟩ := h
  have hports : after (forA (List.finRange 4) fun n => fun s => pumpHeld n (2 * (s.port n.val).held.length + 1) s) s = s :=
    after_forA_of_forall_eq s _ _ fun n _ => after_pumpHeld_of_held_eq_nil s n _ (hheld n.val n.isLt)
  have hdma : after dmaRetry s = s := after_forA_of_forall_eq s _ _ fun d hd => by
    obtain ⟨h0, h1⟩ := hending d hd
    rw [after_seqA_cons, after_dmaTry_of_ending_eq_none s d 0 h0, after_seqA_cons, after_dmaTry_of_ending_eq_none s d 1 h1, after_seqA_nil]
  rw [pumpAll, after_seqA_cons, hports, after_seqA_cons, hdma, after_seqA_nil]

/-- An aligned register write takes effect, then what waits is tried again. -/
theorem exec_registerWrite_of_aligned (s : State) (src : Src) (addr : BitVec 48) (v : Word) (h8 : addr.toNat % 8 = 0) :
    exec (.registerWrite src addr v) s = .next (after pumpAll (after (hostWrite src addr.toNat v) s)) := by
  simp [exec, execRegisterWrite, runAct, h8]

/-- Where nothing waits, an aligned register write without an effect leaves the state as it is. -/
theorem exec_registerWrite_of_no_effect (s : State) (src : Src) (addr : BitVec 48) (v : Word) (h8 : addr.toNat % 8 = 0) (hq : s.quiet = true)
    (h : hostWrite src addr.toNat v s = []) : exec (.registerWrite src addr v) s = .next s := by
  have hw : after (hostWrite src addr.toNat v) s = s := by rw [after, h, apAll_nil]
  rw [exec_registerWrite_of_aligned s src addr v h8, hw, after_pumpAll_of_quiet s hq]

/-- Settles O6: a read finds no row, and a write that has an effect of its own is to an offset a row names. -/
theorem unoccupiedRegisterAddresses : Obligations.UnoccupiedRegisterAddresses := by
  unfold Obligations.UnoccupiedRegisterAddresses
  refine ⟨fun s n addr k hreg hadr => ?_, fun s src addr v h8 hq hadr => ?_⟩
  · obtain ⟨b, i, off, ht⟩ | ht := hadr
    · obtain ⟨h0, ha, hr⟩ := hreg b i off ht
      exact hostRead_of_unoccupied s n k ht h0 ha (hr _ rfl)
    · exact hostRead_of_nothing s n k ht
  · refine exec_registerWrite_of_no_effect s src addr v h8 hq ?_
    obtain ht | ⟨b, i, off, ht, hx⟩ := hadr
    · exact hostWrite_of_nothing s src v ht
    · obtain ⟨ha, hr⟩ := hx _ rfl
      exact hostWrite_of_unoccupied s src v h8 ht ha hr

end Sys2Proof.Machine
end

section
/-!
SUPPORT. Re-quantisation of a block that is not zero (R45, R46, R49, R54): the exponent is the least that fits the magnitude it is taken
from, no rounding mode takes a value of one unit or more to zero, and so an element of that magnitude keeps a mantissa.
-/
namespace Sys2Proof.Machine

/-! ## The magnitude the exponent is taken from (R45) -/

/-- The magnitude of R45: the second largest under OUTFIT, where there is one, else the largest. -/
def fitMag (outfit : Bool) (vs : List Int) : Nat := if outfit = true ∧ rank2 vs ≠ 0 then rank2 vs else (rank1 vs).2

/-- A running maximum is where it began or an element. -/
theorem foldl_max_eq_or_mem (l : List Nat) (a : Nat) : l.foldl max a = a ∨ l.foldl max a ∈ l := by
  induction l generalizing a with
  | nil => exact .inl rfl
  | cons x l ih =>
    rw [List.foldl_cons]
    obtain h | h := ih (max a x)
    · obtain hx | hx := max_choice a x <;> rw [h, hx] <;> simp
    · exact .inr (List.mem_cons_of_mem _ h)

/-- The magnitude kept in search of the rank-1 element is a running maximum. -/
theorem foldl_rank_snd (l : List (Int × Nat)) (a : Nat × Nat) :
    (l.foldl (fun a p => if a.2 < p.1.natAbs then (p.2, p.1.natAbs) else a) a).2 = (l.map fun p => p.1.natAbs).foldl max a.2 := by
  induction l generalizing a with
  | nil => rfl
  | cons p l ih =>
    rw [List.foldl_cons, ih, List.map_cons, List.foldl_cons]
    split
    · rw [max_eq_right (by omega)]
    · rw [max_eq_left (by omega)]

/-- The rank-1 magnitude is the maximum of the magnitudes. -/
theorem rank1_snd (vs : List Int) : (rank1 vs).2 = (vs.map Int.natAbs).foldl max (vs.headD 0).natAbs := by
  have hmap : (vs.zipIdx.map fun p => p.1.natAbs) = vs.map Int.natAbs := by
    rw [← List.zipIdx_map_fst 0 vs, List.map_map, List.zipIdx_map_fst]
    rfl
  rw [rank1, foldl_rank_snd, hmap]

/-- No magnitude is above the rank-1 magnitude. -/
theorem natAbs_le_rank1 {vs : List Int} {v : Int} (hv : v ∈ vs) : v.natAbs ≤ (rank1 vs).2 := by
  have hmax := List.le_max?_getD_of_mem (k := (vs.headD 0).natAbs) (List.mem_map_of_mem (f := Int.natAbs) hv)
  rw [rank1_snd, List.foldl_max]
  exact le_max_of_le_right hmax

/-- The rank-1 magnitude is an element's. -/
theorem exists_mem_natAbs_eq_rank1 {vs : List Int} (h : vs ≠ []) : ∃ v ∈ vs, v.natAbs = (rank1 vs).2 := by
  rw [rank1_snd]
  obtain heq | hmem := foldl_max_eq_or_mem (vs.map Int.natAbs) (vs.headD 0).natAbs
  · obtain ⟨v, l, rfl⟩ := List.exists_cons_of_ne_nil h
    exact ⟨v, List.mem_cons_self, heq.symm⟩
  · exact List.mem_map.1 hmem

/-- A rank-2 magnitude other than zero is an element's. -/
theorem exists_mem_natAbs_eq_rank2 {vs : List Int} (h : rank2 vs ≠ 0) : ∃ v ∈ vs, v.natAbs = rank2 vs := by
  obtain hzero | hmem := foldl_max_eq_or_mem ((vs.zipIdx.filter fun p => p.2 != (rank1 vs).1).map fun p => p.1.natAbs) 0
  · exact absurd hzero h
  · obtain ⟨p, hp, heq⟩ := List.mem_map.1 hmem
    exact ⟨p.1, List.fst_mem_of_mem_zipIdx (List.mem_filter.1 hp).1, heq⟩

/-- In a block that is not zero, the exponent is taken from the magnitude of an element that is not zero. -/
theorem exists_mem_natAbs_eq_fitMag (outfit : Bool) {vs : List Int} (h : ∃ v ∈ vs, v ≠ 0) :
    ∃ v ∈ vs, v ≠ 0 ∧ v.natAbs = fitMag outfit vs := by
  obtain ⟨w, hw, hw0⟩ := h
  unfold fitMag
  split
  next hr =>
    obtain ⟨v, hv, heq⟩ := exists_mem_natAbs_eq_rank2 hr.2
    exact ⟨v, hv, by omega, heq⟩
  next =>
    obtain ⟨v, hv, heq⟩ := exists_mem_natAbs_eq_rank1 (List.ne_nil_of_mem hw)
    have hle := natAbs_le_rank1 hw
    exact ⟨v, hv, by omega, heq⟩

/-! ## The exponent (R45) -/

/-- `leP2` compares m with p × 2^t. -/
theorem leP2_iff (m p : Nat) (t : Int) : leP2 m p t = true ↔ (m : ℚ) ≤ p * 2 ^ t := by
  unfold leP2
  split
  next h =>
    obtain ⟨k, rfl⟩ := Int.eq_ofNat_of_zero_le h
    rw [decide_eq_true_iff, Int.toNat_natCast, zpow_natCast]
    exact_mod_cast Iff.rfl
  next h =>
    obtain ⟨k, hk⟩ := Int.eq_ofNat_of_zero_le (a := -t) (by omega)
    obtain rfl : t = -k := by omega
    rw [decide_eq_true_iff, neg_neg, Int.toNat_natCast, zpow_neg, zpow_natCast, ← div_eq_mul_inv, le_div_iff₀ (by positivity)]
    exact_mod_cast Iff.rfl

/-- A magnitude that fits at a scale fits at every larger one. -/
theorem leP2_mono {m p : Nat} {t u : Int} (htu : t ≤ u) (h : leP2 m p t = true) : leP2 m p u = true := by
  rw [leP2_iff] at h ⊢
  have hpow : (2 : ℚ) ^ t ≤ 2 ^ u := zpow_le_zpow_right₀ (by norm_num) htu
  exact h.trans (by gcongr)

/-- Below the last of a descending run of integers that satisfy P comes one that does not, if one does not at the run's end. -/
theorem pred_last_takeWhile_eq_false (P : Int → Bool) (n : Nat) (top d : Int) (h0 : P top = true) (hn : P (top - n) = false) :
    P ((((List.range (n + 1)).map fun i : Nat => top - (i : Int)).takeWhile P).getLastD d - 1) = false := by
  induction n generalizing top d with
  | zero => simp_all
  | succ n ih =>
    have hshift : (fun i : Nat => top - (i : Int)) ∘ Nat.succ = fun i : Nat => top - 1 - (i : Int) := by
      funext i; simp only [Function.comp_apply, Nat.succ_eq_add_one, Nat.cast_add, Nat.cast_one]; omega
    rw [List.range_succ_eq_map, List.map_cons, List.map_map, hshift, Nat.cast_zero, sub_zero, List.takeWhile_cons_of_pos h0,
      List.getLastD_cons]
    cases hp : P (top - 1) with
    | true => exact ih (top - 1) top hp (by rw [← hn]; congr 1; omega)
    | false =>
      rw [List.range_succ_eq_map, List.map_cons, Nat.cast_zero, sub_zero, List.takeWhile_cons_of_neg (by simp [hp])]
      exact hp

/-- The run of exponents that `fitExp` searches. -/
theorem fitExp_eq (m p : Nat) : fitExp m p =
    (((List.range (Nat.log2 m + 65 + 1)).map fun i : Nat => (Nat.log2 m + 1 : Int) - i).takeWhile (leP2 m p)).getLastD
      (Nat.log2 m + 1) := by
  simp only [fitExp, List.bind_eq_flatMap, List.pure_def, ← List.map_eq_flatMap, List.map_map]
  rfl

/-- The exponent is the least: at no scale below `fitExp m p` does m fit p. -/
theorem leP2_eq_false_of_lt_fitExp {m p : Nat} {t : Int} (hm : 0 < m) (hp : 0 < p) (hp' : p < 2 ^ 64) (h : t < fitExp m p) :
    leP2 m p t = false := by
  have htop : leP2 m p (Nat.log2 m + 1) = true := by
    rw [leP2_iff]
    have hlog : m ≤ p * 2 ^ (Nat.log2 m + 1) := Nat.lt_log2_self.le.trans (Nat.le_mul_of_pos_left _ hp)
    exact_mod_cast hlog
  have hend : leP2 m p (Nat.log2 m + 1 - (Nat.log2 m + 65 : Nat)) = false := by
    have h64 : (Nat.log2 m + 1 : Int) - (Nat.log2 m + 65 : Nat) = -64 := by omega
    have hbig : ¬ m * 2 ^ 64 ≤ p := by omega
    rw [h64]
    simpa [leP2] using hbig
  have hlast := pred_last_takeWhile_eq_false (leP2 m p) (Nat.log2 m + 65) (Nat.log2 m + 1) (Nat.log2 m + 1) htop hend
  rw [← fitExp_eq] at hlast
  rw [← Bool.not_eq_true] at hlast ⊢
  exact fun ht => hlast (leP2_mono (Int.le_sub_one_of_lt h) ht)

/-- At the scale of the exponent or below, m is more than half of p units. -/
theorem lt_of_succ_le_fitExp {m p k : Nat} (hm : 0 < m) (hp : 0 < p) (hp' : p < 2 ^ 64) (h : (k + 1 : Nat) ≤ fitExp m p) :
    p * 2 ^ k < m := by
  have hle := leP2_eq_false_of_lt_fitExp (t := k) hm hp hp' (by omega)
  simpa [leP2] using hle

/-! ## Rounding (R46, R49, R50) -/

/-- More than half a unit rounds to the nearest integer other than zero. -/
theorem roundDiv_ne_zero {v d : Int} (hd : 0 < d) (h : d < 2 * v.natAbs) : roundDiv v d ≠ 0 := by
  have hdiv := Int.mul_ediv_add_emod v d
  intro h0
  have hq : v / d = 0 ∨ v / d = -1 := by
    simp only [roundDiv] at h0
    split_ifs at h0 <;> omega
  have hr := Int.emod_nonneg v hd.ne'
  have hr' := Int.emod_lt_of_pos v hd
  simp only [roundDiv] at h0
  obtain hq | hq := hq <;> rw [hq] at hdiv h0
  · rw [mul_zero] at hdiv
    split_ifs at h0 <;> omega
  · rw [mul_neg_one] at hdiv
    split_ifs at h0 <;> omega

/-- RSR adds less than one unit (R50). -/
theorem rsrAddend_lt {r : Nat} (k : Nat) (hr : r < 2 ^ 16) : rsrAddend r k < 2 ^ k := by
  unfold rsrAddend
  split
  next hk =>
    rw [Nat.shiftRight_eq_div_pow]
    exact Nat.div_lt_of_lt_mul (by rwa [← pow_add, Nat.sub_add_cancel hk])
  next hk =>
    rw [Nat.shiftLeft_eq]
    calc r * 2 ^ (k - 16) < 2 ^ 16 * 2 ^ (k - 16) := by gcongr
      _ = 2 ^ k := by rw [← pow_add]; congr 1; omega

/-- A value of more than half a unit rounds to other than zero under RNE, and one of a unit or more under every mode. -/
theorem roundBy_ne_zero {mode : Nat} {v : Int} {k : Nat} (g : Gen) (h : 2 ^ k < 2 * v.natAbs)
    (hunit : mode = rne ∨ 2 ^ k ≤ v.natAbs) : (roundBy mode v k g).1 ≠ 0 := by
  have hpow : (0 : Int) < 2 ^ k := by positivity
  have hcast : ((2 ^ k : Nat) : Int) = 2 ^ k := by norm_cast
  unfold roundBy
  split_ifs with hs hz
  · have hv : 2 ^ k ≤ v.natAbs := hunit.resolve_left (by rw [hs]; decide)
    have hadd : rsrAddend g.draw.1 k < 2 ^ k := rsrAddend_lt k (Nat.mod_lt _ (by norm_num))
    have hdiv := Int.mul_ediv_add_emod (v + rsrAddend g.draw.1 k) (2 ^ k)
    have hr := Int.emod_nonneg (v + rsrAddend g.draw.1 k) hpow.ne'
    have hr' := Int.emod_lt_of_pos (v + rsrAddend g.draw.1 k) hpow
    rintro (h0 : (v + rsrAddend g.draw.1 k) / 2 ^ k = 0)
    rw [h0, mul_zero] at hdiv
    omega
  · have hv : 2 ^ k ≤ v.natAbs := hunit.resolve_left (by rw [hz]; decide)
    rw [← Int.natAbs_ne_zero, Int.natAbs_tdiv, Int.natAbs_pow]
    exact (Nat.div_pos hv (by positivity)).ne'
  · exact roundDiv_ne_zero hpow (by omega)

/-- A value other than zero of more than half of p units keeps a part other than zero at scale t, whatever the mode where p > 1. -/
theorem roundAt_ne_zero {mode p : Nat} {v t : Int} (g : Gen) (hv : v ≠ 0) (hp : 0 < p) (hp' : p < 2 ^ 64)
    (ht : t ≤ fitExp v.natAbs p) (hunit : mode = rne ∨ 1 < p) : (roundAt mode v t g).1 ≠ 0 := by
  unfold roundAt
  split
  · positivity
  next hpos =>
    obtain ⟨k, hk⟩ : ∃ k : Nat, t = (k + 1 : Nat) := ⟨t.toNat - 1, by omega⟩
    subst hk
    have hbig : p * 2 ^ k < v.natAbs := lt_of_succ_le_fitExp (by omega) hp hp' ht
    rw [Int.toNat_natCast]
    refine roundBy_ne_zero g ?_ (hunit.imp_right fun h1 => ?_)
    · have : 1 * 2 ^ k ≤ p * 2 ^ k := by gcongr; omega
      omega
    · have : 2 * 2 ^ k ≤ p * 2 ^ k := by gcongr; omega
      omega

/-! ## The mantissas (R46) -/

/-- Clamping to limits on either side of zero takes nothing else to zero. -/
theorem clampI_ne_zero {v lo hi : Int} (hlo : lo < 0) (hhi : 0 < hi) (hv : v ≠ 0) : clampI v lo hi ≠ 0 := by
  unfold clampI
  omega

/-- Each element's mantissa is its rounded value, clamped. -/
theorem mem_rqMants {p : Nat} {n : Int} {mode : Nat} {t : Int} {o : Option Nat} {l : List (Int × Nat)} {v : Int} {i : Nat}
    (h : (v, i) ∈ l) (g : Gen) :
    ∃ g', clampI (if o = some i then roundP2 v (-t) else (roundAt mode v t g').1) n p ∈ (rqMants p n mode t o l g).1 := by
  induction l generalizing g with
  | nil => simp at h
  | cons x l ih =>
    obtain rfl | h := List.mem_cons.1 h
    · refine ⟨g, List.mem_cons.2 (.inl ?_)⟩
      split <;> rfl
    · obtain ⟨g', hg'⟩ := ih h _
      exact ⟨g', List.mem_cons_of_mem _ hg'⟩

/-- The limits of a format that a block may have (R31). -/
theorem fmt_limits {fmt : Nat} (h1 : 1 ≤ fmt) (h4 : fmt ≤ 4) :
    fmtN fmt < 0 ∧ 0 < fmtP fmt ∧ fmtP fmt < 2 ^ 64 ∧ (fmt ≠ 1 → 1 < fmtP fmt) := by
  interval_cases fmt <;> decide

/-! ## Underflow (R54) -/

section
variable (fmt : Nat) (outfit : Bool) (mode : Nat) (f : Int) (vs : List Int) (g : Gen)

/-- The exponent before it is limited to 1 to 254 (R45). -/
def rqExp : Int := fitExp (fitMag outfit vs) (fmtP fmt) + f + 127

/-- The scale of a block's mantissas above its values. -/
def rqScale : Int :=
  (if 254 < rqExp fmt outfit f vs then 254 else if rqExp fmt outfit f vs < 1 then 1 else rqExp fmt outfit f vs) - 127 - f

/-- The element that becomes an outlier: the rank-1 element, where the format does not hold it (R46). -/
def rqOutlier : Option Nat :=
  let q := roundP2 (vs.getD (rank1 vs).1 0) (-rqScale fmt outfit f vs)
  if outfit = true ∧ decide (254 < rqExp fmt outfit f vs) = false ∧ (q < fmtN fmt ∨ fmtP fmt < q) then some (rank1 vs).1 else none

/-- The mantissas of a block that is not zero. -/
def rqMantissas : List Int :=
  (rqMants (fmtP fmt) (fmtN fmt) mode (rqScale fmt outfit f vs) (rqOutlier fmt outfit f vs) vs.zipIdx g).1

variable {vs}

/-- A block of zeros is the zero block, without a flag. -/
theorem rqBlock_of_all_zero (h : vs.all (· == 0) = true) :
    (rqBlock fmt outfit mode f vs g).1 = ⟨Block.zero, none, false, false⟩ := by
  simp [rqBlock, h]

/-- A block that is not zero, with every mantissa zero, is the zero block and raises BLK_UNDER. -/
theorem rqBlock_of_mantissas_zero (h : ¬ vs.all (· == 0) = true)
    (hz : (rqMantissas fmt outfit mode f vs g).all (· == 0) = true) :
    (rqBlock fmt outfit mode f vs g).1 = ⟨Block.zero, none, true, false⟩ := by
  rw [rqBlock, if_neg h]
  exact congrArg Prod.fst (if_pos hz)

/-- A block with a mantissa other than zero has these mantissas and does not raise BLK_UNDER. -/
theorem rqBlock_of_mantissas (h : ¬ vs.all (· == 0) = true) (hz : ¬ (rqMantissas fmt outfit mode f vs g).all (· == 0) = true) :
    (rqBlock fmt outfit mode f vs g).1.blk.m = rqMantissas fmt outfit mode f vs g ∧ (rqBlock fmt outfit mode f vs g).1.under = false := by
  rw [rqBlock, if_neg h]
  exact ⟨congrArg (fun r : RqBlk × Gen => r.1.blk.m) (if_neg hz), congrArg (fun r : RqBlk × Gen => r.1.under) (if_neg hz)⟩

/-- BLK_UNDER is raised exactly where a block that is not zero has zero mantissas only. -/
theorem rqBlock_under_iff : (rqBlock fmt outfit mode f vs g).1.under = true ↔
    (∃ v ∈ vs, v ≠ 0) ∧ ∀ x ∈ rqMantissas fmt outfit mode f vs g, x = 0 := by
  by_cases h : vs.all (· == 0) = true
  · rw [rqBlock_of_all_zero _ _ _ _ _ h]
    simp_all
  · have hv : ∃ v ∈ vs, v ≠ 0 := by simpa using h
    by_cases hz : (rqMantissas fmt outfit mode f vs g).all (· == 0) = true
    · rw [rqBlock_of_mantissas_zero _ _ _ _ _ h hz]
      simpa [hv] using hz
    · rw [(rqBlock_of_mantissas _ _ _ _ _ h hz).2]
      simpa [hv] using hz

/-- A block that raises BLK_UNDER is the zero block. -/
theorem rqBlock_blk_of_under (h : (rqBlock fmt outfit mode f vs g).1.under = true) :
    (rqBlock fmt outfit mode f vs g).1.blk = Block.zero := by
  obtain ⟨hv, hz⟩ := (rqBlock_under_iff _ _ _ _ _).1 h
  rw [rqBlock_of_mantissas_zero _ _ _ _ _ (by simpa using hv) (by simpa using hz)]

/-- A block that starts from a value other than zero and has zero mantissas only raises BLK_UNDER. -/
theorem rqBlock_under_of_blk_zero (hv : ∃ v ∈ vs, v ≠ 0) (hm : ∀ x ∈ (rqBlock fmt outfit mode f vs g).1.blk.m, x = 0) :
    (rqBlock fmt outfit mode f vs g).1.under = true := by
  refine (rqBlock_under_iff _ _ _ _ _).2 ⟨hv, ?_⟩
  by_contra hz
  have hkeep := rqBlock_of_mantissas fmt outfit mode f g (by simpa using hv) (by simpa using hz)
  rw [hkeep.1] at hm
  exact hz hm

/-- Unless E was raised to 1, the scale is the exponent's or, where E was lowered, below it. -/
theorem rqScale_le (he : 1 ≤ rqExp fmt outfit f vs) : rqScale fmt outfit f vs ≤ fitExp (fitMag outfit vs) (fmtP fmt) := by
  unfold rqScale
  unfold rqExp at he ⊢
  split_ifs <;> omega

/-- The format does not hold an outlier. -/
theorem rqOutlier_out_of_range {i : Nat} (h : rqOutlier fmt outfit f vs = some i) :
    roundP2 (vs.getD i 0) (-rqScale fmt outfit f vs) < fmtN fmt ∨ fmtP fmt < roundP2 (vs.getD i 0) (-rqScale fmt outfit f vs) := by
  simp only [rqOutlier] at h
  split at h
  next hq =>
    cases h
    exact hq.2.2
  next => cases h

/-- An element that rounds to other than zero is one of the block's. -/
theorem mem_zipIdx_of_roundP2_ne_zero {vs : List Int} {i : Nat} {e : Int} (h : roundP2 (vs.getD i 0) e ≠ 0) :
    (vs.getD i 0, i) ∈ vs.zipIdx := by
  have hi : i < vs.length := by
    by_contra hi
    rw [List.getD_eq_default _ _ (by omega)] at h
    refine h ?_
    simp [roundP2, roundDiv]
  rw [List.mk_mem_zipIdx_iff_getElem?, List.getD_eq_getElem _ _ hi, List.getElem?_eq_getElem hi]

/-- Unless E was raised to 1, a block that is not zero keeps a mantissa other than zero under RNE, and in a format wider than Y2 under every
mode: its outlier's, or that of an element of the magnitude the exponent is taken from. -/
theorem exists_rqMantissa_ne_zero (h1 : 1 ≤ fmt) (h4 : fmt ≤ 4) (hvs : ∃ v ∈ vs, v ≠ 0) (hmode : mode = rne ∨ fmt ≠ 1)
    (he : 1 ≤ rqExp fmt outfit f vs) : ∃ x ∈ rqMantissas fmt outfit mode f vs g, x ≠ 0 := by
  obtain ⟨hn, hp, hp', hwide⟩ := fmt_limits h1 h4
  unfold rqMantissas
  cases ho : rqOutlier fmt outfit f vs with
  | none =>
    obtain ⟨v, hv, hv0, hmag⟩ := exists_mem_natAbs_eq_fitMag outfit hvs
    obtain ⟨i, hi⟩ := List.mem_iff_getElem?.1 hv
    obtain ⟨g', hg'⟩ := mem_rqMants (List.mk_mem_zipIdx_iff_getElem?.2 hi) g
    have hkeep := roundAt_ne_zero g' hv0 hp hp' (hmag ▸ rqScale_le fmt outfit f he) (hmode.imp_right hwide)
    exact ⟨_, hg', clampI_ne_zero hn (by omega) hkeep⟩
  | some i =>
    have hout := rqOutlier_out_of_range fmt outfit f ho
    have hq : roundP2 (vs.getD i 0) (-rqScale fmt outfit f vs) ≠ 0 := by omega
    obtain ⟨g', hg'⟩ := mem_rqMants (mem_zipIdx_of_roundP2_ne_zero hq) g
    rw [if_pos rfl] at hg'
    exact ⟨_, hg', clampI_ne_zero hn (by omega) hq⟩

end

/-- Settles O17. Where E was not raised to 1, an element of the magnitude that E was taken from is above half of P units: RNE rounds it to
other than zero, and with P > 1 it is a unit or more, which no mode takes to zero. -/
theorem underflowedBlocks : Obligations.UnderflowedBlocks := by
  unfold Obligations.UnderflowedBlocks
  intro fmt outfit mode f vs g h1 h4 _
  refine ⟨⟨fun hu => ?_, fun ⟨hv, hm⟩ => rqBlock_under_of_blk_zero fmt outfit mode f g hv hm⟩, fun hu => ?_⟩
  all_goals
    have hblk := rqBlock_blk_of_under fmt outfit mode f g hu
    obtain ⟨hvs, hzero⟩ := (rqBlock_under_iff fmt outfit mode f g).1 hu
  · exact ⟨hvs, by simp [hblk, Block.zero]⟩
  · refine ⟨hblk, ?_⟩
    change rqExp fmt outfit f vs < 1 ∨ _
    by_contra! hc
    obtain ⟨he, hmode⟩ := hc
    obtain ⟨x, hx, hx0⟩ := exists_rqMantissa_ne_zero fmt outfit mode f g h1 h4 hvs (by tauto) he
    exact hx0 (hzero x hx)

end Sys2Proof.Machine
end

section
/-!
SUPPORT. Stored forms (R5, R31–R33, R41): numbers as bytes and two's complement, where an item stands among items of one length, and the
codes of a block's mantissas in each format.
-/
namespace Sys2Proof.Machine

/-! ## Numbers as bytes (R5) -/

@[simp] theorem length_leBytes (n v : Nat) : (leBytes n v).length = n := by simp [leBytes]

@[simp] theorem length_slice (bs : List Byte) (o n : Nat) : (slice bs o n).length = n := by simp [slice]

/-- The first byte is the least significant. -/
theorem leBytes_succ (n v : Nat) : leBytes (n + 1) v = BitVec.ofNat 8 v :: leBytes n (v / 256) := by
  rw [leBytes, List.range_succ_eq_map, List.map_cons, List.map_map]
  congr 1
  refine List.map_congr_left fun i _ => ?_
  have hpow : 2 ^ (8 * (i + 1)) = 256 * 2 ^ (8 * i) := by rw [mul_add, pow_add, mul_comm]; norm_num
  simp only [Function.comp_apply, Nat.shiftRight_eq_div_pow, Nat.div_div_eq_div_mul, Nat.succ_eq_add_one, hpow]

/-- The bytes of a number spell its low bits. -/
theorem leNat_leBytes (n v : Nat) : leNat (leBytes n v) = v % 2 ^ (8 * n) := by
  induction n generalizing v with
  | zero => simp [leBytes, leNat, Nat.mod_one]
  | succ n ih =>
    rw [leBytes_succ, leNat, ih, BitVec.toNat_ofNat, add_comm n, mul_add, mul_one, pow_add, Nat.mod_mul]
    norm_num

/-- Fewer bytes of a number are the first of more. -/
theorem take_leBytes {k n : Nat} (v : Nat) (h : k ≤ n) : (leBytes n v).take k = leBytes k v := by
  rw [leBytes, ← List.map_take, List.take_range, min_eq_left h, leBytes]

/-- Where the same bytes stand, so does the number they spell. -/
theorem leAt_congr {bs cs : List Byte} {o o' n : Nat} (h : ∀ j, j < n → bs.getD (o + j) 0 = cs.getD (o' + j) 0) :
    leAt bs o n = leAt cs o' n := by
  rw [leAt, leAt, slice, slice, List.map_congr_left fun j hj => h j (List.mem_range.1 hj)]

/-- The number at the front of a byte string it spells. -/
theorem leAt_leBytes {k n : Nat} (v : Nat) (h : k ≤ n) : leAt (leBytes n v) 0 k = v % 2 ^ (8 * k) := by
  rw [leAt, ← leNat_leBytes, ← take_leBytes v h]
  congr 1
  refine List.ext_getElem (by simp [h]) fun j hj hj' => ?_
  have hjk : j < k := by simpa using hj
  simp [slice, Nat.lt_of_lt_of_le hjk h]

/-! ## Items of one length, one after another -/

section
variable {α : Type} {enc : α → List Byte} {k : Nat}

/-- Items of one length take their number times that length. -/
theorem length_flatMap_of_length_eq (l : List α) (h : ∀ x ∈ l, (enc x).length = k) : (l.flatMap enc).length = k * l.length := by
  rw [List.length_flatMap, List.map_congr_left h, List.map_const', List.sum_replicate, smul_eq_mul, mul_comm]

/-- Byte j of item i of items of one length. -/
theorem getD_flatMap_append (l : List α) (post : List Byte) (h : ∀ x ∈ l, (enc x).length = k) {i j : Nat} (hi : i < l.length)
    (hj : j < k) : (l.flatMap enc ++ post).getD (k * i + j) 0 = (enc l[i]).getD j 0 := by
  induction l generalizing i with
  | nil => simp at hi
  | cons x l ih =>
    have hx := h x List.mem_cons_self
    rw [List.flatMap_cons, List.append_assoc]
    cases i with
    | zero =>
      rw [mul_zero, zero_add, List.getD_append _ _ _ _ (by omega)]
      rfl
    | succ i =>
      have hpos : k * (i + 1) + j - k = k * i + j := by rw [mul_add]; omega
      rw [List.getD_append_right _ _ _ _ (by rw [hx, mul_add]; omega), hx, hpos]
      exact ih (fun y hy => h y (List.mem_cons_of_mem _ hy)) (by simpa using hi)

end

/-! ## Two's complement -/

/-- The code of a number fits its bits. -/
theorem tc_lt (n : Nat) (v : Int) : tc n v < 2 ^ n := by
  have hpow : (0 : Int) < 2 ^ n := by positivity
  have hlt := Int.emod_lt_of_pos v hpow
  have hnn := Int.emod_nonneg v hpow.ne'
  have hcast : ((2 ^ n : Nat) : Int) = 2 ^ n := by norm_cast
  unfold tc
  omega

/-- A number that n bits of two's complement hold is read from its code. -/
theorem sext_tc {n : Nat} {v : Int} (hlo : -(2 ^ n) ≤ 2 * v) (hhi : 2 * v < 2 ^ n) : sext n (tc n v) = v := by
  have hcode : (tc n v : Int) = if 0 ≤ v then v else v + 2 ^ n := by
    rw [tc, Int.toNat_of_nonneg (Int.emod_nonneg _ (by positivity))]
    split
    · exact Int.emod_eq_of_lt ‹_› (by omega)
    · rw [← Int.add_emod_right, Int.emod_eq_of_lt (by omega) (by omega)]
  have hcast : ((2 ^ n : Nat) : Int) = 2 ^ n := by norm_cast
  simp only [sext, Nat.mod_eq_of_lt (tc_lt n v)]
  split at hcode <;> split <;> omega

/-! ## ACC56 blocks in memory (R41) -/

/-- A number that stands in a byte string stands there wherever the string does. -/
theorem leAt_append {pre x post : List Byte} {o n : Nat} (h : o + n ≤ x.length) :
    leAt (pre ++ x ++ post) (pre.length + o) n = leAt x o n := by
  refine leAt_congr fun j hj => ?_
  rw [List.append_assoc, add_assoc, List.getD_append_right _ _ _ _ (by omega), Nat.add_sub_cancel_left, List.getD_append _ _ _ _ (by omega)]

section
variable {b : AccBlk} (hw : b.w.length = 32)
include hw

theorem length_encAcc : (encAcc b).length = 264 := by
  rw [encAcc, List.length_append, length_flatMap_of_length_eq b.w fun w _ => length_leBytes 8 w.toNat, hw, length_leBytes]

/-- Word i of a stored block. -/
theorem leAt_encAcc_word {i : Nat} (hi : i < 32) : leAt (encAcc b) (8 * i) 8 = (b.w.getD i 0).toNat := by
  have hib : i < b.w.length := by omega
  have hbytes : leAt (encAcc b) (8 * i) 8 = leAt (leBytes 8 b.w[i].toNat) 0 8 := leAt_congr fun j hj => by
    rw [encAcc, getD_flatMap_append b.w _ (fun w _ => length_leBytes 8 w.toNat) hib hj, zero_add]
  rw [hbytes, leAt_leBytes _ le_rfl, Nat.mod_eq_of_lt b.w[i].isLt, List.getD_eq_getElem _ _ hib]

/-- The header of a stored block, or its first k bytes. -/
theorem leAt_encAcc_header {k : Nat} (hk : k ≤ 8) : leAt (encAcc b) 256 k = (tc 16 b.f + 9 * 65536) % 2 ^ (8 * k) := by
  have hlen := length_flatMap_of_length_eq b.w fun w _ => length_leBytes 8 w.toNat
  have hbytes : leAt (encAcc b) 256 k = leAt (leBytes 8 (tc 16 b.f + 9 * 65536)) 0 k := leAt_congr fun j _ => by
    rw [encAcc, List.getD_append_right _ _ _ _ (by omega), zero_add]
    congr 1
    omega
  rw [hbytes, leAt_leBytes _ hk]

/-- A stored block is read as the block, wherever it stands. -/
theorem decAcc_encAcc (pre post : List Byte) (hlo : -(2 ^ 15) ≤ b.f) (hhi : b.f < 2 ^ 15) :
    decAcc (pre ++ encAcc b ++ post) pre.length = b := by
  have hlen := length_encAcc hw
  have hf : sext 16 (leAt (pre ++ encAcc b ++ post) (pre.length + 256) 2) = b.f := by
    have hcode : (tc 16 b.f + 9 * 65536) % 2 ^ (8 * 2) = tc 16 b.f := by
      have hlt := tc_lt 16 b.f
      omega
    rw [leAt_append (by omega), leAt_encAcc_header hw (by omega), hcode]
    exact sext_tc (by omega) (by omega)
  have hws : ((List.range 32).map fun i => BitVec.ofNat 64 (leAt (pre ++ encAcc b ++ post) (pre.length + 8 * i) 8)) = b.w := by
    refine List.ext_getElem (by simp [hw]) fun i hi hib => ?_
    have hi32 : i < 32 := by omega
    rw [List.getElem_map, List.getElem_range, leAt_append (by omega), leAt_encAcc_word hw hi32, List.getD_eq_getElem _ _ hib]
    simp
  rw [decAcc, hf, hws]

end

/-! ## The codes of a block's mantissas (R31–R33) -/

/-- The formats a block may have. -/
theorem blockFmt_cases {f : Nat} (hf : blockFmt f = true) : f = 1 ∨ f = 2 ∨ f = 3 ∨ f = 4 := by
  simp only [blockFmt, Bool.and_eq_true, decide_eq_true_iff] at hf
  omega

/-- A block's mantissas take the bytes of its format. -/
theorem length_encMants {f : Nat} (hf : blockFmt f = true) (m : List Int) : (encMants f m).length = fmtBlkBytes f := by
  obtain rfl | rfl | rfl | rfl := blockFmt_cases hf
  · simp [encMants, fmtBlkBytes, fmtBits]
  · simp [encMants, fmtBlkBytes, fmtBits]
  · simp [encMants, fmtBlkBytes, fmtBits]
  · exact length_flatMap_of_length_eq _ fun i _ => length_leBytes 2 _

/-- The code of an element depends on its block's bytes only. -/
theorem mantCode_congr {f : Nat} (hf : blockFmt f = true) {bs cs : List Byte} {o i : Nat} (hi : i < 32)
    (h : ∀ j, j < fmtBlkBytes f → bs.getD (o + j) 0 = cs.getD j 0) : mantCode f bs o i = mantCode f cs 0 i := by
  obtain rfl | rfl | rfl | rfl := blockFmt_cases hf
  · simp only [mantCode, zero_add, h (i / 4) (by simp [fmtBlkBytes, fmtBits]; omega)]
  · simp only [mantCode, zero_add, h (i / 2) (by simp [fmtBlkBytes, fmtBits]; omega)]
  · simp only [mantCode, zero_add, h i (by simp [fmtBlkBytes, fmtBits]; omega)]
  · exact leAt_congr fun j hj => by
      rw [zero_add, add_assoc, h _ (by simp [fmtBlkBytes, fmtBits]; omega)]

/-- Digit r of a byte of four base-4 digits. -/
theorem shiftRight_sum_base4 {c : Nat → Nat} (hc : ∀ k, c k < 4) {r : Nat} (hr : r < 4) :
    ((((List.range 4).map fun k => c k * 4 ^ k).sum % 2 ^ 8) >>> (2 * r)) % 4 = c r := by
  have h0 := hc 0
  have h1 := hc 1
  have h2 := hc 2
  have h3 := hc 3
  simp only [List.range_succ, List.range_zero, List.nil_append, List.map_append, List.map_cons, List.map_nil, List.sum_append,
    List.sum_cons, List.sum_nil, Nat.shiftRight_eq_div_pow]
  interval_cases r <;> omega

/-- The code of an element is its mantissa in two's complement. -/
theorem mantCode_encMants {f : Nat} (hf : blockFmt f = true) (m : List Int) {i : Nat} (hi : i < 32) :
    mantCode f (encMants f m) 0 i = tc (fmtBits f) (m.getD i 0) := by
  obtain rfl | rfl | rfl | rfl := blockFmt_cases hf
  · have hdiv : i / 4 < 8 := by omega
    have hbyte : (encMants 1 m).getD (i / 4) 0 =
        BitVec.ofNat 8 (((List.range 4).map fun k => tc 2 (m.getD (4 * (i / 4) + k) 0) * 4 ^ k).sum) := by
      simp [encMants, List.getD, hdiv]
    rw [mantCode, zero_add, hbyte, BitVec.toNat_ofNat]
    rw [shiftRight_sum_base4 (fun k => tc_lt 2 (m.getD (4 * (i / 4) + k) 0)) (Nat.mod_lt i (by omega)), Nat.div_add_mod]
    rfl
  · have hdiv : i / 2 < 16 := by omega
    have hbyte : (encMants 2 m).getD (i / 2) 0 =
        BitVec.ofNat 8 (tc 4 (m.getD (2 * (i / 2)) 0) + 16 * tc 4 (m.getD (2 * (i / 2) + 1) 0)) := by
      simp [encMants, List.getD, hdiv]
    have hlo := tc_lt 4 (m.getD (2 * (i / 2)) 0)
    have hhi := tc_lt 4 (m.getD (2 * (i / 2) + 1) 0)
    rw [mantCode, zero_add, hbyte, BitVec.toNat_ofNat, Nat.shiftRight_eq_div_pow]
    change _ = tc 4 (m.getD i 0)
    obtain hr | hr := Nat.mod_two_eq_zero_or_one i
    · have hi' : 2 * (i / 2) = i := by omega
      rw [hi'] at hlo hhi ⊢
      rw [hr]
      omega
    · have hi' : 2 * (i / 2) + 1 = i := by omega
      rw [hi'] at hhi ⊢
      rw [hr]
      omega
  · have hlt := tc_lt 8 (m.getD i 0)
    have hcode : mantCode 3 (encMants 3 m) 0 i = tc 8 (m.getD i 0) % 2 ^ 8 := by
      simp [mantCode, encMants, List.getD, hi]
    rw [hcode, Nat.mod_eq_of_lt hlt]
    rfl
  · have hlt := tc_lt 16 (m.getD i 0)
    have hbytes : mantCode 4 (encMants 4 m) 0 i = leAt (leBytes 2 (tc 16 (m.getD i 0))) 0 2 := leAt_congr fun j hj => by
      have hbyte := getD_flatMap_append (List.range 32) [] (fun i _ => length_leBytes 2 (tc 16 (m.getD i 0))) (by simpa using hi) hj
      rw [List.append_nil, List.getElem_range] at hbyte
      rw [zero_add, zero_add]
      exact hbyte
    rw [hbytes, leAt_leBytes _ le_rfl, Nat.mod_eq_of_lt hlt]
    rfl

/-- Two's complement holds the mantissas of a format (R46). -/
theorem fmt_limits_fit {f : Nat} (hf : blockFmt f = true) : -(2 ^ fmtBits f) ≤ 2 * fmtN f ∧ 2 * (fmtP f : Int) < 2 ^ fmtBits f := by
  obtain rfl | rfl | rfl | rfl := blockFmt_cases hf <;> decide

section
variable {f : Nat} (hf : blockFmt f = true) {v : Int} (hlo : fmtN f ≤ v) (hhi : v ≤ fmtP f)
include hf hlo hhi

/-- A mantissa that its format holds is read from its code. -/
theorem sext_tc_of_fmt : sext (fmtBits f) (tc (fmtBits f) v) = v := by
  obtain ⟨hN, hP⟩ := fmt_limits_fit hf
  exact sext_tc (by omega) (by omega)

/-- The code of a mantissa that Y2 holds is not the reserved one (R33). -/
theorem tc_ne_reserved (h1 : f = 1) : tc (fmtBits f) v ≠ 2 := by
  intro h2
  have hread := sext_tc_of_fmt hf hlo hhi
  rw [h2, h1] at hread
  have hcode : sext (fmtBits 1) 2 = -2 := by decide
  have hN : fmtN f = -1 := by rw [h1]; rfl
  omega

/-- A mantissa that its format holds is the value of its code. -/
theorem mantVal_tc : mantVal f (tc (fmtBits f) v) = v := by
  rw [mantVal, if_neg fun h => tc_ne_reserved hf hlo hhi h.1 h.2, sext_tc_of_fmt hf hlo hhi]

end

/-! ## Segments -/

/-- A block whose mantissas its format holds is decoded from its exponent and its bytes, with no reserved code counted. -/
theorem decBlock_encMants {f : Nat} (hf : blockFmt f = true) {b : Block} {bs : List Byte} {o : Nat} (he : 1 ≤ b.e) (he' : b.e ≤ 0xFE)
    (hlen : b.m.length = 32) (hm : ∀ m ∈ b.m, fmtN f ≤ m ∧ m ≤ fmtP f)
    (hbs : ∀ j, j < fmtBlkBytes f → bs.getD (o + j) 0 = (encMants f b.m).getD j 0) : decBlock f b.e bs o = (b, 0) := by
  have hcodes : (List.range 32).map (mantCode f bs o) = b.m.map fun m => tc (fmtBits f) m := by
    refine List.ext_getElem (by simp [hlen]) fun i hi hi' => ?_
    have hi32 : i < 32 := by simpa using hi
    rw [List.getElem_map, List.getElem_range, mantCode_congr hf hi32 hbs, mantCode_encMants hf b.m hi32,
      List.getD_eq_getElem _ _ (by omega), List.getElem_map]
  have hvals : (b.m.map fun m => tc (fmtBits f) m).map (mantVal f) = b.m := by
    rw [List.map_map]
    exact (List.map_congr_left fun m h => mantVal_tc hf (hm m h).1 (hm m h).2).trans (List.map_id' b.m)
  have hres : f = 1 → (b.m.map fun m => tc (fmtBits f) m).countP (· == 2) = 0 := fun h1 => by
    rw [List.countP_eq_zero]
    simpa using fun m h => tc_ne_reserved hf (hm m h).1 (hm m h).2 h1
  have he0 : b.e ≠ 0 := by omega
  have heFF : b.e ≠ 0xFF := by omega
  simp only [decBlock, if_neg he0, if_neg heFF, hcodes, hvals, min_eq_left he']
  split
  next h1 => rw [hres h1]
  next => rfl

section
variable {f : Nat} (hf : blockFmt f = true) {bs : List Block} (hlen : bs.length = 16)
include hf

/-- A block's mantissas in its segment. -/
theorem getD_encSeg_mants {i j : Nat} (hi : i < bs.length) (hj : j < fmtBlkBytes f) :
    (encSeg f bs).getD (i * fmtBlkBytes f + j) 0 = (encMants f bs[i].m).getD j 0 := by
  rw [encSeg, mul_comm, getD_flatMap_append bs _ (fun b _ => length_encMants hf b.m) hi hj]

include hlen

theorem length_encSeg : (encSeg f bs).length = fmtSeg f := by
  rw [encSeg, List.length_append, length_flatMap_of_length_eq bs fun b _ => length_encMants hf b.m, List.length_map, hlen, fmtSeg,
    fmtExpOff]

/-- A block's exponent in its segment. -/
theorem getD_encSeg_exp {i : Nat} (hi : i < bs.length) :
    (encSeg f bs).getD (fmtExpOff f + i) 0 = BitVec.ofNat 8 bs[i].e := by
  have hm := length_flatMap_of_length_eq bs fun b _ => length_encMants hf b.m
  rw [hlen] at hm
  rw [encSeg, List.getD_append_right _ _ _ _ (by rw [hm, fmtExpOff]; omega), hm, fmtExpOff, Nat.add_sub_cancel_left]
  simp [List.getD, hi]

/-- A segment of blocks whose mantissas its format holds is decoded to them, with no reserved code counted. -/
theorem decSeg_encSeg (hbs : ∀ b ∈ bs, 1 ≤ b.e ∧ b.e ≤ 0xFE ∧ b.m.length = 32 ∧ ∀ m ∈ b.m, fmtN f ≤ m ∧ m ≤ fmtP f) :
    decSeg f (encSeg f bs) = (bs, 0) := by
  have hblk : ((List.range 16).map fun i =>
      decBlock f ((encSeg f bs).getD (fmtExpOff f + i) 0).toNat (encSeg f bs) (i * fmtBlkBytes f)) = bs.map (·, 0) := by
    refine List.ext_getElem (by simp [hlen]) fun i hi hi' => ?_
    have hib : i < bs.length := by simpa using hi'
    obtain ⟨he, he', hm32, hm⟩ := hbs bs[i] (List.getElem_mem hib)
    rw [List.getElem_map, List.getElem_range, List.getElem_map, getD_encSeg_exp hf hlen hib, BitVec.toNat_ofNat,
      Nat.mod_eq_of_lt (by omega)]
    exact decBlock_encMants hf he he' hm32 hm fun j hj => getD_encSeg_mants hf hib hj
  simp only [decSeg, hblk, List.map_map]
  simp [Function.comp_def]

end

/-- Settles O19. Bytes, words and codes stand at their places in the stored form, and two's complement gives each number back. -/
theorem storedForms : Obligations.StoredForms := by
  unfold Obligations.StoredForms
  refine ⟨fun b pre post hw hlo hhi => ?_, fun f bs hf hlen hbs => ⟨length_encSeg hf hlen, decSeg_encSeg hf hlen hbs⟩, rfl⟩
  have hf := tc_lt 16 b.f
  have hhdr : leAt (encAcc b) 256 8 = tc 16 b.f + 9 * 65536 := by
    rw [leAt_encAcc_header hw le_rfl]
    omega
  rw [hhdr]
  simp only [nbits, Nat.shiftRight_eq_div_pow]
  exact ⟨length_encAcc hw, fun i hi => leAt_encAcc_word hw hi, by omega, by omega, by omega, decAcc_encAcc hw pre post hlo hhi⟩

end Sys2Proof.Machine
end

section
/-!
SUPPORT. What every step keeps, whatever the command: it goes on, it leaves the queue alone, and every map stays canonical. The cycle
that passes when no command waits.
-/
namespace Sys2Proof.Machine

/-- A step answers the state after some list of effects, on the state whose queue has lost its front. -/
theorem step_effects (s : State) : ∃ l q, step s = .next (apAll l { s with pending := q }) := by
  unfold step
  split
  · obtain ⟨l, hl⟩ := exec_effects ‹Instr› { s with pending := ‹List Instr› }
    exact ⟨l, _, hl⟩
  next h =>
    refine ⟨tick s, [], ?_⟩
    have hs : { s with pending := [] } = s := by rw [← h]
    rw [hs]
    rfl

/-- Settles O1: by the definition of a step. -/
theorem stepRunsFront : Obligations.StepRunsFront := by
  unfold Obligations.StepRunsFront
  intro c r s
  rfl

/-- Settles O3: a command is a list of effects, none of which touches the queue or takes back what was sent. -/
theorem everyCommandGoesOn : Obligations.EveryCommandGoesOn := by
  unfold Obligations.EveryCommandGoesOn
  intro c s
  obtain ⟨l, hl⟩ := exec_effects c s
  exact ⟨apAll l s, hl, apAll_pending l s, apAll_out l s⟩

/-- Settles O5: a step is a list of effects, each of which keeps the canonical form. -/
theorem stepKeepsCanonicalForm : Obligations.StepKeepsCanonicalForm := by
  unfold Obligations.StepKeepsCanonicalForm
  intro s t hs hst
  obtain ⟨l, q, hl⟩ := step_effects s
  have ht : t = apAll l { s with pending := q } := by
    rw [hl] at hst
    exact (Host.Outcome.next.inj hst).symm
  rw [ht]
  exact apAll_canon l _ hs

end Sys2Proof.Machine
end

section
/-!
SUPPORT. Footprints: `Allowed P l s` says that each effect of the list satisfies P in the state it meets. It splits over the ways actions
are built, by equations that `simp` uses, and gives back what an action leaves as it was: whole fields of the state, or the registers,
sequencers, dies and so on outside a set.
-/
namespace Sys2Proof.Machine

/-- The fields of the state that an effect can change. -/
inductive StateField where
  | mile | posNs | regs | mem | poison | cores | cells | convs | dies | links | trees | oldTrees | flitSel | wins | passages | jobs
  | slices | fabTrees | bfp | colls | aborted | ports | snoopF | sensors | nvm | keeper | mon | power | sec | milestone | out | free
  deriving DecidableEq

/-- The fields an effect changes. -/
@[simp] def Eff.fields : Eff → List StateField
  | .mile .. => [.mile]
  | .posNs .. => [.posNs]
  | .reg .. => [.regs]
  | .byte .. => [.mem]
  | .poison .. => [.poison]
  | .core .. => [.cores]
  | .cell .. => [.cells]
  | .conv .. => [.convs]
  | .die .. => [.dies]
  | .link .. => [.links]
  | .treeTab .. => [.trees]
  | .oldTrees .. => [.oldTrees]
  | .flits .. => [.flitSel]
  | .win .. => [.wins]
  | .passage .. => [.passages]
  | .job .. => [.jobs]
  | .slice .. => [.slices]
  | .fabTrees .. => [.fabTrees]
  | .bfpLink .. => [.bfp]
  | .colls .. => [.colls]
  | .aborted .. => [.aborted]
  | .port .. => [.ports]
  | .filter .. => [.snoopF]
  | .sensor .. => [.sensors]
  | .nvm .. => [.nvm]
  | .keeper .. => [.keeper]
  | .mon .. => [.mon]
  | .power .. => [.power]
  | .sec .. => [.sec]
  | .milestone .. => [.milestone]
  | .out .. => [.out]
  | .free .. => [.free]
  | .lost .. => [.mem, .poison, .cores, .convs, .links, .trees, .oldTrees, .flitSel, .wins, .passages, .jobs, .slices, .fabTrees, .bfp, .colls, .aborted, .ports, .snoopF]

/-- The state s with the listed fields as in t. -/
def State.overlay (l : List StateField) (s t : State) : State where
  mile := if .mile ∈ l then t.mile else s.mile
  posNs := if .posNs ∈ l then t.posNs else s.posNs
  regs := if .regs ∈ l then t.regs else s.regs
  mem := if .mem ∈ l then t.mem else s.mem
  poison := if .poison ∈ l then t.poison else s.poison
  cores := if .cores ∈ l then t.cores else s.cores
  cells := if .cells ∈ l then t.cells else s.cells
  convs := if .convs ∈ l then t.convs else s.convs
  dies := if .dies ∈ l then t.dies else s.dies
  links := if .links ∈ l then t.links else s.links
  trees := if .trees ∈ l then t.trees else s.trees
  oldTrees := if .oldTrees ∈ l then t.oldTrees else s.oldTrees
  flitSel := if .flitSel ∈ l then t.flitSel else s.flitSel
  wins := if .wins ∈ l then t.wins else s.wins
  passages := if .passages ∈ l then t.passages else s.passages
  jobs := if .jobs ∈ l then t.jobs else s.jobs
  slices := if .slices ∈ l then t.slices else s.slices
  fabTrees := if .fabTrees ∈ l then t.fabTrees else s.fabTrees
  bfp := if .bfp ∈ l then t.bfp else s.bfp
  colls := if .colls ∈ l then t.colls else s.colls
  aborted := if .aborted ∈ l then t.aborted else s.aborted
  ports := if .ports ∈ l then t.ports else s.ports
  snoopF := if .snoopF ∈ l then t.snoopF else s.snoopF
  sensors := if .sensors ∈ l then t.sensors else s.sensors
  nvm := if .nvm ∈ l then t.nvm else s.nvm
  keeper := if .keeper ∈ l then t.keeper else s.keeper
  mon := if .mon ∈ l then t.mon else s.mon
  power := if .power ∈ l then t.power else s.power
  sec := if .sec ∈ l then t.sec else s.sec
  milestone := if .milestone ∈ l then t.milestone else s.milestone
  out := if .out ∈ l then t.out else s.out
  free := if .free ∈ l then t.free else s.free
  pending := s.pending


/-- Each effect of the list satisfies P in the state it meets. -/
inductive Allowed (P : State → Eff → Prop) : List Eff → State → Prop
  | nil (s : State) : Allowed P [] s
  | cons {e : Eff} {r : List Eff} {s : State} : P s e → Allowed P r (e.ap s) → Allowed P (e :: r) s

section
variable {P Q : State → Eff → Prop}

@[simp] theorem allowed_nil (s : State) : Allowed P [] s := .nil s

@[simp] theorem allowed_cons (e : Eff) (r : List Eff) (s : State) : Allowed P (e :: r) s ↔ P s e ∧ Allowed P r (e.ap s) :=
  ⟨fun h => by cases h with | cons he hr => exact ⟨he, hr⟩, fun ⟨he, hr⟩ => .cons he hr⟩

@[simp] theorem allowed_append : ∀ (l r : List Eff) (s : State), Allowed P (l ++ r) s ↔ Allowed P l s ∧ Allowed P r (apAll l s)
  | [], r, s => by simp
  | e :: l, r, s => by simp [allowed_append l r (e.ap s), and_assoc]

theorem Allowed.mono (h : ∀ s e, P s e → Q s e) {l : List Eff} {s : State} (ha : Allowed P l s) : Allowed Q l s := by
  induction ha with
  | nil s => exact .nil s
  | cons he _ ih => exact .cons (h _ _ he) ih

@[simp] theorem allowed_skip (s : State) : Allowed P (skip s) s := .nil s

@[simp] theorem allowed_eff (f : State → Eff) (s : State) : Allowed P (eff f s) s ↔ P s (f s) := by simp [eff]

@[simp] theorem allowed_seqA_nil (s : State) : Allowed P (seqA [] s) s := .nil s

@[simp] theorem allowed_seqA_cons (a : Act) (r : List Act) (s : State) :
    Allowed P (seqA (a :: r) s) s ↔ Allowed P (a s) s ∧ Allowed P (seqA r (after a s)) (after a s) := by
  simp [seqA, after]

@[simp] theorem allowed_whenA (c : State → Bool) (a : Act) (s : State) :
    Allowed P (whenA c a s) s ↔ (c s = true → Allowed P (a s) s) := by
  unfold whenA
  split <;> simp [*]

@[simp] theorem allowed_iteA (c : State → Bool) (a b : Act) (s : State) :
    Allowed P (iteA c a b s) s ↔ (c s = true → Allowed P (a s) s) ∧ (c s = false → Allowed P (b s) s) := by
  unfold iteA
  split <;> simp [*]

@[simp] theorem allowed_withA {α : Type} (f : State → α) (g : α → Act) (s : State) :
    Allowed P (withA f g s) s ↔ Allowed P (g (f s) s) s := Iff.rfl

@[simp] theorem allowed_forOpt {α : Type} (o : Option α) (g : α → Act) (s : State) :
    Allowed P (forOpt o g s) s ↔ ∀ x, o = some x → Allowed P (g x s) s := by
  cases o <;> simp [forOpt]

theorem allowed_seqA : ∀ (l : List Act) (s : State), (∀ a ∈ l, ∀ s, Allowed P (a s) s) → Allowed P (seqA l s) s
  | [], s, _ => .nil s
  | a :: r, s, h => (allowed_seqA_cons a r s).2
      ⟨h a (List.mem_cons_self ..) s, allowed_seqA r (after a s) fun b hb => h b (List.mem_cons_of_mem _ hb)⟩

theorem allowed_forA {α : Type} (l : List α) (f : α → Act) (s : State) (h : ∀ x ∈ l, ∀ s, Allowed P (f x s) s) :
    Allowed P (forA l f s) s := by
  refine allowed_seqA _ s fun a ha => ?_
  obtain ⟨x, hx, rfl⟩ := List.mem_map.1 ha
  exact h x hx

@[simp] theorem allowed_ite (c : Prop) [Decidable c] (a b : List Eff) (s : State) :
    Allowed P (if c then a else b) s ↔ (c → Allowed P a s) ∧ (¬ c → Allowed P b s) := by
  split <;> simp [*]

@[simp] theorem allowed_iteAct (c : Prop) [Decidable c] (a b : Act) (s : State) :
    Allowed P ((if c then a else b) s) s ↔ (c → Allowed P (a s) s) ∧ (¬ c → Allowed P (b s) s) := by
  split <;> simp [*]

/-- A relation that every allowed effect gives, and that composes, holds from before to after. -/
theorem Allowed.rel {R : State → State → Prop} (hR : Composes R) (h : ∀ s e, s.canon = true → P s e → R s (e.ap s))
    {l : List Eff} {s : State} (hc : s.canon = true) (ha : Allowed P l s) : R s (apAll l s) := by
  induction ha with
  | nil s => exact hR.refl s
  | cons he _ ih => exact hR.trans _ _ _ (h _ _ hc he) (ih (ap_canon _ _ hc))

end

/-! ## Running an action read off the state -/

/-- No proof by `rfl`: `simp` would leave it to the kernel to compare whole states. -/
theorem after_seqA_end (s : State) : after (seqA []) s = s := Eq.trans (after_seqA_nil s) (Eq.refl s)

theorem after_skipped (s : State) : after skip s = s := Eq.trans (after_skip s) (Eq.refl s)

@[simp] theorem apAll_seqA_nil (s : State) : apAll (seqA [] s) s = s := after_seqA_end s

@[simp] theorem apAll_seqA_cons (a : Act) (r : List Act) (s : State) :
    apAll (seqA (a :: r) s) s = apAll (seqA r (after a s)) (after a s) := after_seqA_cons a r s

/-- Actions that answer the same effects in a state lead to the same state. -/
theorem after_congr {a b : Act} {s : State} (h : a s = b s) : after a s = after b s := by simp only [after, h]

theorem runAct_eq (a : Act) (s : State) : runAct a s = .next (apAll (a s) s) := rfl

/-! ## The changes actions are made of -/

section
variable {P : State → Eff → Prop} (s : State)

@[simp] theorem allowed_setReg (b : Blk) (i o : Nat) (v : Word) : Allowed P (setReg b i o v s) s ↔ P s (.reg b i o v) := allowed_eff _ s
@[simp] theorem allowed_setF (f : Fld) (i v : Nat) :
    Allowed P (setF f i v s) s ↔ P s (.reg f.blk i f.off (putBits (s.reg f.blk i f.off) f.hi f.lo v)) := allowed_eff _ s
@[simp] theorem allowed_setB (f : Fld) (i : Nat) (v : Bool) :
    Allowed P (setB f i v s) s ↔ P s (.reg f.blk i f.off (putBits (s.reg f.blk i f.off) f.hi f.lo (if v then 1 else 0))) := allowed_setF s f i _
@[simp] theorem allowed_bump (f : Fld) (i n : Nat) :
    Allowed P (bump f i n s) s ↔ P s (.reg f.blk i f.off (putBits (s.reg f.blk i f.off) f.hi f.lo (min (s.fld f i + n) f.top))) :=
  allowed_setF s f i _
@[simp] theorem allowed_bumpW (f : Fld) (i n : Nat) :
    Allowed P (bumpW f i n s) s ↔ P s (.reg f.blk i f.off (putBits (s.reg f.blk i f.off) f.hi f.lo (s.fld f i + n))) := allowed_setF s f i _
@[simp] theorem allowed_writeReg (b : Blk) (i o : Nat) (v : Word) :
    Allowed P (writeReg b i o v s) s ↔ ∀ r, rowOf b o = some r → P s (.reg b i o (writeCodes r (s.reg b i o) v)) := by
  unfold writeReg
  split <;> simp [*]
@[simp] theorem allowed_putBytes (a : Nat) (bs : List Byte) (h : ∀ s v x, a ≤ x → x < a + bs.length → P s (.byte x v)) :
    Allowed P (putBytes a bs s) s := by
  have key : ∀ (l : List (Byte × Nat)) (s : State), (∀ p ∈ l, a ≤ p.2 ∧ p.2 < a + bs.length) →
      Allowed P (l.map fun p => Eff.byte p.2 p.1) s := by
    intro l
    induction l with
    | nil => exact fun s _ => .nil s
    | cons p l ih =>
      exact fun s hl => .cons (h s _ _ (hl p (List.mem_cons_self ..)).1 (hl p (List.mem_cons_self ..)).2)
        (ih _ fun q hq => hl q (List.mem_cons_of_mem _ hq))
  exact key _ s fun p hp => by
    obtain ⟨h1, h2, -⟩ := List.mem_zipIdx hp
    omega
@[simp] theorem allowed_modDie (d : Nat) (f : Die → Die) : Allowed P (modDie d f s) s ↔ P s (.die d (f (s.die d))) := allowed_eff _ s
@[simp] theorem allowed_modCore (c : CoreId) (f : Core → Core) : Allowed P (modCore c f s) s ↔ P s (.core c (f (s.core c))) := allowed_eff _ s
@[simp] theorem allowed_modCell (t : TileId) (f : Cells → Cells) : Allowed P (modCell t f s) s ↔ P s (.cell t (f (s.cell t))) := allowed_eff _ s
@[simp] theorem allowed_modConv (t : TileId) (f : Conv → Conv) : Allowed P (modConv t f s) s ↔ P s (.conv t (f (s.conv t))) := allowed_eff _ s
@[simp] theorem allowed_modLink (k : Nat) (f : NocLink → NocLink) : Allowed P (modLink k f s) s ↔ P s (.link k (f (s.link k))) := allowed_eff _ s
@[simp] theorem allowed_modPassage (i : Nat) (f : Passage → Passage) : Allowed P (modPassage i f s) s ↔ P s (.passage i (f (s.passage i))) := allowed_eff _ s
@[simp] theorem allowed_modJob (p : Nat) (f : Job → Job) : Allowed P (modJob p f s) s ↔ P s (.job p (f (s.job p))) := allowed_eff _ s
@[simp] theorem allowed_modSlice (p : Nat) (f : Slice → Slice) : Allowed P (modSlice p f s) s ↔ P s (.slice p (f (s.slice p))) := allowed_eff _ s
@[simp] theorem allowed_modBfp (n : Nat) (f : BfpLink → BfpLink) : Allowed P (modBfp n f s) s ↔ P s (.bfpLink n (f (s.bfpLink n))) := allowed_eff _ s
@[simp] theorem allowed_modPort (n : Nat) (f : TPort → TPort) : Allowed P (modPort n f s) s ↔ P s (.port n (f (s.port n))) := allowed_eff _ s
@[simp] theorem allowed_modFilter (d : Nat) (f : List SfEnt → List SfEnt) : Allowed P (modFilter d f s) s ↔ P s (.filter d (f (s.filter d))) := allowed_eff _ s
@[simp] theorem allowed_modSensor (k : Nat) (f : Sensor → Sensor) : Allowed P (modSensor k f s) s ↔ P s (.sensor k (f (s.sensor k))) := allowed_eff _ s
@[simp] theorem allowed_modNvm (f : Nvm → Nvm) : Allowed P (modNvm f s) s ↔ P s (.nvm (f s.nvm)) := allowed_eff _ s
@[simp] theorem allowed_modKeeper (f : Keeper → Keeper) : Allowed P (modKeeper f s) s ↔ P s (.keeper (f s.keeper)) := allowed_eff _ s
@[simp] theorem allowed_modMon (f : Mon → Mon) : Allowed P (modMon f s) s ↔ P s (.mon (f s.mon)) := allowed_eff _ s
@[simp] theorem allowed_modPower (f : Power → Power) : Allowed P (modPower f s) s ↔ P s (.power (f s.power)) := allowed_eff _ s
@[simp] theorem allowed_modSec (f : Sec → Sec) : Allowed P (modSec f s) s ↔ P s (.sec (f s.sec)) := allowed_eff _ s
@[simp] theorem allowed_modMile (f : Mile → Mile) : Allowed P (modMile f s) s ↔ P s (.milestone (f s.milestone)) := allowed_eff _ s
@[simp] theorem allowed_emit (o : Out) : Allowed P (emit o s) s ↔ P s (.out o) := allowed_eff _ s
@[simp] theorem allowed_draw : Allowed P (draw s) s ↔ P s (.free (s.free + 1)) := allowed_eff _ s
@[simp] theorem allowed_modTsum (t : TileId) (f : TileSum → TileSum) : Allowed P (modTsum t f s) s ↔ P s (.nvm { s.nvm with tsum := SMap.set (fun _ => TileSum.zero) s.nvm.tsum (tileKey t) (f (s.tsum t)) }) := allowed_eff _ s
@[simp] theorem allowed_setCalr (t : TileId) (r : CalRec) : Allowed P (setCalr t r s) s ↔ P s (.nvm { s.nvm with calr := SMap.set (fun _ => CalRec.zero) s.nvm.calr (tileKey t) r }) := allowed_modNvm s _

end

/-! ## Whole fields -/

/-- The effect changes none but the listed fields. -/
@[simp] def onlyFields (l : List StateField) (_ : State) (e : Eff) : Prop := ∀ f ∈ e.fields, f ∈ l

theorem overlay_trans (l : List StateField) {a b c : State} (h1 : b = State.overlay l a b) (h2 : c = State.overlay l b c) :
    c = State.overlay l a c := by
  rw [h2, h1]
  simp only [State.overlay, State.mk.injEq]
  refine ⟨?_, ?_, ?_, ?_, ?_, ?_, ?_, ?_, ?_, ?_, ?_, ?_, ?_, ?_, ?_, ?_, ?_, ?_, ?_, ?_, ?_, ?_, ?_, ?_, ?_, ?_, ?_, ?_, ?_, ?_, ?_, ?_, trivial⟩
  all_goals split <;> rfl

theorem ap_overlay (l : List StateField) (s : State) (e : Eff) (h : onlyFields l s e) : e.ap s = State.overlay l s (e.ap s) := by
  cases e
  case lost =>
    simp only [onlyFields, Eff.fields, List.forall_mem_cons] at h
    simp [State.overlay, Eff.ap, h]
  all_goals
    have hf := h _ (List.mem_singleton.2 rfl)
    simp [State.overlay, Eff.ap, hf]

/-- An action leaves every field alone that none of its effects changes. -/
theorem apAll_overlay (fs : List StateField) {l : List Eff} {s : State} (h : Allowed (onlyFields fs) l s) :
    apAll l s = State.overlay fs s (apAll l s) := by
  induction h with
  | nil s => simp [State.overlay]
  | cons he _ ih => exact overlay_trans fs (ap_overlay fs _ _ he) ih

theorem after_overlay (fs : List StateField) {a : Act} {s : State} (h : Allowed (onlyFields fs) (a s) s) :
    after a s = State.overlay fs s (after a s) := apAll_overlay fs h

/-- What reads none of the fields an action changes reads as before. -/
theorem after_read_eq {α : Type} {fs : List StateField} {a : Act} {s : State} (f : State → α) (h : Allowed (onlyFields fs) (a s) s)
    (hf : ∀ t, f (State.overlay fs s t) = f s) : f (after a s) = f s := by
  rw [after_overlay fs h, hf]

/-! ## Parts of fields -/

/-- A relation between what each key reads before and after composes where it is reflexive and transitive. -/
theorem composes_reads {κ β : Type} (get : State → κ → β) {R : κ → β → β → Prop} (hr : ∀ k x, R k x x)
    (ht : ∀ k x y z, R k x y → R k y z → R k x z) : Composes fun s t => ∀ k, R k (get s k) (get t k) where
  refl _ k := hr k _
  trans _ _ _ h1 h2 k := ht k _ _ _ (h1 k) (h2 k)

/-- An effect on a sequencer takes it from what it was to what R allows. -/
@[simp] def coreRel (R : CoreId → Core → Core → Prop) (s : State) (e : Eff) : Prop :=
  match e with
  | .core c v => R c (s.core c) v
  | .lost _ => False
  | _ => True

theorem after_coreRel {R : CoreId → Core → Core → Prop} (hr : ∀ k x, R k x x) (ht : ∀ k x y z, R k x y → R k y z → R k x z)
    {a : Act} {s : State} (hc : s.canon = true) (h : Allowed (coreRel R) (a s) s) (k : CoreId) :
    R k (State.core s k) (State.core (after a s) k) := by
  refine Allowed.rel (composes_reads State.core hr ht) (fun s e hc he k => ?_) hc h k
  cases e
  case core c v =>
    rw [core_ap_core s hc]
    split
    · subst k
      exact he
    · exact hr _ _
  case lost => exact he.elim
  all_goals exact hr _ _

/-- An effect on a array takes it from what it was to what R allows. -/
@[simp] def cellRel (R : TileId → Cells → Cells → Prop) (s : State) (e : Eff) : Prop :=
  match e with
  | .cell c v => R c (s.cell c) v
  | _ => True

theorem after_cellRel {R : TileId → Cells → Cells → Prop} (hr : ∀ k x, R k x x) (ht : ∀ k x y z, R k x y → R k y z → R k x z)
    {a : Act} {s : State} (hc : s.canon = true) (h : Allowed (cellRel R) (a s) s) (k : TileId) :
    R k (State.cell s k) (State.cell (after a s) k) := by
  refine Allowed.rel (composes_reads State.cell hr ht) (fun s e hc he k => ?_) hc h k
  cases e
  case cell c v =>
    rw [cell_ap_cell s hc]
    split
    · subst k
      exact he
    · exact hr _ _
  all_goals exact hr _ _

/-- An effect on a converter takes it from what it was to what R allows. -/
@[simp] def convRel (R : TileId → Conv → Conv → Prop) (s : State) (e : Eff) : Prop :=
  match e with
  | .conv c v => R c (s.conv c) v
  | .lost _ => False
  | _ => True

theorem after_convRel {R : TileId → Conv → Conv → Prop} (hr : ∀ k x, R k x x) (ht : ∀ k x y z, R k x y → R k y z → R k x z)
    {a : Act} {s : State} (hc : s.canon = true) (h : Allowed (convRel R) (a s) s) (k : TileId) :
    R k (State.conv s k) (State.conv (after a s) k) := by
  refine Allowed.rel (composes_reads State.conv hr ht) (fun s e hc he k => ?_) hc h k
  cases e
  case conv c v =>
    rw [conv_ap_conv s hc]
    split
    · subst k
      exact he
    · exact hr _ _
  case lost => exact he.elim
  all_goals exact hr _ _

/-- An effect on a die takes it from what it was to what R allows. -/
@[simp] def dieRel (R : Nat → Die → Die → Prop) (s : State) (e : Eff) : Prop :=
  match e with
  | .die d v => R d (s.die d) v
  | _ => True

theorem after_dieRel {R : Nat → Die → Die → Prop} (hr : ∀ k x, R k x x) (ht : ∀ k x y z, R k x y → R k y z → R k x z)
    {a : Act} {s : State} (hc : s.canon = true) (h : Allowed (dieRel R) (a s) s) (k : Nat) :
    R k (State.die s k) (State.die (after a s) k) := by
  refine Allowed.rel (composes_reads State.die hr ht) (fun s e hc he k => ?_) hc h k
  cases e
  case die d v =>
    rw [die_ap_die s hc]
    split
    · subst k
      exact he
    · exact hr _ _
  all_goals exact hr _ _

/-- An effect on a link of the package network takes it from what it was to what R allows. -/
@[simp] def linkRel (R : Nat → NocLink → NocLink → Prop) (s : State) (e : Eff) : Prop :=
  match e with
  | .link d v => R d (s.link d) v
  | .lost _ => False
  | _ => True

theorem after_linkRel {R : Nat → NocLink → NocLink → Prop} (hr : ∀ k x, R k x x) (ht : ∀ k x y z, R k x y → R k y z → R k x z)
    {a : Act} {s : State} (hc : s.canon = true) (h : Allowed (linkRel R) (a s) s) (k : Nat) :
    R k (State.link s k) (State.link (after a s) k) := by
  refine Allowed.rel (composes_reads State.link hr ht) (fun s e hc he k => ?_) hc h k
  cases e
  case link d v =>
    rw [link_ap_link s hc]
    split
    · subst k
      exact he
    · exact hr _ _
  case lost => exact he.elim
  all_goals exact hr _ _

/-- An effect on a tree table takes it from what it was to what R allows. -/
@[simp] def treeRel (R : Nat → (List TreeEnt) → (List TreeEnt) → Prop) (s : State) (e : Eff) : Prop :=
  match e with
  | .treeTab d v => R d (s.treeTab d) v
  | .lost _ => False
  | _ => True

theorem after_treeRel {R : Nat → (List TreeEnt) → (List TreeEnt) → Prop} (hr : ∀ k x, R k x x) (ht : ∀ k x y z, R k x y → R k y z → R k x z)
    {a : Act} {s : State} (hc : s.canon = true) (h : Allowed (treeRel R) (a s) s) (k : Nat) :
    R k (State.treeTab s k) (State.treeTab (after a s) k) := by
  refine Allowed.rel (composes_reads State.treeTab hr ht) (fun s e hc he k => ?_) hc h k
  cases e
  case treeTab d v =>
    rw [treeTab_ap_treeTab s hc]
    split
    · subst k
      exact he
    · exact hr _ _
  case lost => exact he.elim
  all_goals exact hr _ _

/-- An effect on a passage takes it from what it was to what R allows. -/
@[simp] def passageRel (R : Nat → Passage → Passage → Prop) (s : State) (e : Eff) : Prop :=
  match e with
  | .passage d v => R d (s.passage d) v
  | .lost _ => False
  | _ => True

theorem after_passageRel {R : Nat → Passage → Passage → Prop} (hr : ∀ k x, R k x x) (ht : ∀ k x y z, R k x y → R k y z → R k x z)
    {a : Act} {s : State} (hc : s.canon = true) (h : Allowed (passageRel R) (a s) s) (k : Nat) :
    R k (State.passage s k) (State.passage (after a s) k) := by
  refine Allowed.rel (composes_reads State.passage hr ht) (fun s e hc he k => ?_) hc h k
  cases e
  case passage d v =>
    rw [passage_ap_passage s hc]
    split
    · subst k
      exact he
    · exact hr _ _
  case lost => exact he.elim
  all_goals exact hr _ _

/-- An effect on a job takes it from what it was to what R allows. -/
@[simp] def jobRel (R : Nat → Job → Job → Prop) (s : State) (e : Eff) : Prop :=
  match e with
  | .job d v => R d (s.job d) v
  | .lost _ => False
  | _ => True

theorem after_jobRel {R : Nat → Job → Job → Prop} (hr : ∀ k x, R k x x) (ht : ∀ k x y z, R k x y → R k y z → R k x z)
    {a : Act} {s : State} (hc : s.canon = true) (h : Allowed (jobRel R) (a s) s) (k : Nat) :
    R k (State.job s k) (State.job (after a s) k) := by
  refine Allowed.rel (composes_reads State.job hr ht) (fun s e hc he k => ?_) hc h k
  cases e
  case job d v =>
    rw [job_ap_job s hc]
    split
    · subst k
      exact he
    · exact hr _ _
  case lost => exact he.elim
  all_goals exact hr _ _

/-- An effect on a slice takes it from what it was to what R allows. -/
@[simp] def sliceRel (R : Nat → Slice → Slice → Prop) (s : State) (e : Eff) : Prop :=
  match e with
  | .slice d v => R d (s.slice d) v
  | .lost _ => False
  | _ => True

theorem after_sliceRel {R : Nat → Slice → Slice → Prop} (hr : ∀ k x, R k x x) (ht : ∀ k x y z, R k x y → R k y z → R k x z)
    {a : Act} {s : State} (hc : s.canon = true) (h : Allowed (sliceRel R) (a s) s) (k : Nat) :
    R k (State.slice s k) (State.slice (after a s) k) := by
  refine Allowed.rel (composes_reads State.slice hr ht) (fun s e hc he k => ?_) hc h k
  cases e
  case slice d v =>
    rw [slice_ap_slice s hc]
    split
    · subst k
      exact he
    · exact hr _ _
  case lost => exact he.elim
  all_goals exact hr _ _

/-- An effect on a fabric link takes it from what it was to what R allows. -/
@[simp] def bfpRel (R : Nat → BfpLink → BfpLink → Prop) (s : State) (e : Eff) : Prop :=
  match e with
  | .bfpLink d v => R d (s.bfpLink d) v
  | .lost _ => False
  | _ => True

theorem after_bfpRel {R : Nat → BfpLink → BfpLink → Prop} (hr : ∀ k x, R k x x) (ht : ∀ k x y z, R k x y → R k y z → R k x z)
    {a : Act} {s : State} (hc : s.canon = true) (h : Allowed (bfpRel R) (a s) s) (k : Nat) :
    R k (State.bfpLink s k) (State.bfpLink (after a s) k) := by
  refine Allowed.rel (composes_reads State.bfpLink hr ht) (fun s e hc he k => ?_) hc h k
  cases e
  case bfpLink d v =>
    rw [bfpLink_ap_bfpLink s hc]
    split
    · subst k
      exact he
    · exact hr _ _
  case lost => exact he.elim
  all_goals exact hr _ _

/-- An effect on a Trais port takes it from what it was to what R allows. -/
@[simp] def portRel (R : Nat → TPort → TPort → Prop) (s : State) (e : Eff) : Prop :=
  match e with
  | .port d v => R d (s.port d) v
  | .lost _ => False
  | _ => True

theorem after_portRel {R : Nat → TPort → TPort → Prop} (hr : ∀ k x, R k x x) (ht : ∀ k x y z, R k x y → R k y z → R k x z)
    {a : Act} {s : State} (hc : s.canon = true) (h : Allowed (portRel R) (a s) s) (k : Nat) :
    R k (State.port s k) (State.port (after a s) k) := by
  refine Allowed.rel (composes_reads State.port hr ht) (fun s e hc he k => ?_) hc h k
  cases e
  case port d v =>
    rw [port_ap_port s hc]
    split
    · subst k
      exact he
    · exact hr _ _
  case lost => exact he.elim
  all_goals exact hr _ _

/-- An effect on a byte takes it from what it was to what R allows. -/
@[simp] def byteRel (R : Nat → Byte → Byte → Prop) (s : State) (e : Eff) : Prop :=
  match e with
  | .byte d v => R d (s.byte d) v
  | .lost _ => False
  | _ => True

theorem after_byteRel {R : Nat → Byte → Byte → Prop} (hr : ∀ k x, R k x x) (ht : ∀ k x y z, R k x y → R k y z → R k x z)
    {a : Act} {s : State} (hc : s.canon = true) (h : Allowed (byteRel R) (a s) s) (k : Nat) :
    R k (State.byte s k) (State.byte (after a s) k) := by
  refine Allowed.rel (composes_reads State.byte hr ht) (fun s e hc he k => ?_) hc h k
  cases e
  case byte d v =>
    rw [byte_ap_byte s hc]
    split
    · subst k
      exact he
    · exact hr _ _
  case lost => exact he.elim
  all_goals exact hr _ _

/-- An effect on a register is on one of the keys that p allows. -/
@[simp] def regIn (p : Nat → Prop) (_ : State) (e : Eff) : Prop :=
  match e with
  | .reg b i o _ => p (regKey b i o)
  | _ => True

/-- Registers under no key that an action may change read as before. -/
theorem after_regIn {p : Nat → Prop} {a : Act} {s : State} (hc : s.canon = true) (h : Allowed (regIn p) (a s) s) {k : Nat} (hk : ¬ p k) :
    SMap.get regResetKey (after a s).regs k = SMap.get regResetKey s.regs k := by
  have hR : Composes fun s t => SMap.get regResetKey t.regs k = SMap.get regResetKey s.regs k :=
    ⟨fun _ => rfl, fun _ _ _ h1 h2 => h2.trans h1⟩
  refine Allowed.rel hR (fun s e hc he => ?_) hc h
  cases e
  case reg b i o v =>
    exact SMap.get_set_other _ _ _ _ _ (canon_regs s hc) fun hkey => hk (by rw [hkey]; exact he)
  all_goals rfl

theorem after_regsBut {L : List Nat} {a : Act} {s : State} (hc : s.canon = true) (h : Allowed (regIn (· ∈ L)) (a s) s) :
    RegsBut L s (after a s) := fun _ hk => after_regIn hc h hk

/-- What the keys outside a list read stays. -/
@[simp] def keepBut {κ β : Type} (L : List κ) : κ → β → β → Prop := fun k x y => k ∈ L ∨ y = x

theorem keepBut_refl {κ β : Type} (L : List κ) (k : κ) (x : β) : keepBut L k x x := .inr rfl

theorem keepBut_trans {κ β : Type} (L : List κ) (k : κ) (x y z : β) (h1 : keepBut L k x y) (h2 : keepBut L k y z) : keepBut L k x z := by
  obtain h1 | h1 := h1
  · exact .inl h1
  · obtain h2 | h2 := h2
    · exact .inl h2
    · exact .inr (h2.trans h1)

section
variable {a : Act} {s : State} (hc : s.canon = true)
include hc

theorem after_coresBut {L : List CoreId} (h : Allowed (coreRel (keepBut L)) (a s) s) : CoresBut L s (after a s) := fun c hm =>
  (after_coreRel (keepBut_refl L) (keepBut_trans L) hc h c).resolve_left hm
theorem after_diesBut {L : List Nat} (h : Allowed (dieRel (keepBut L)) (a s) s) : DiesBut L s (after a s) := fun d hm =>
  (after_dieRel (keepBut_refl L) (keepBut_trans L) hc h d).resolve_left hm
theorem after_passagesBut {L : List Nat} (h : Allowed (passageRel (keepBut L)) (a s) s) : PassagesBut L s (after a s) := fun i hm =>
  (after_passageRel (keepBut_refl L) (keepBut_trans L) hc h i).resolve_left hm
theorem after_jobsBut {L : List Nat} (h : Allowed (jobRel (keepBut L)) (a s) s) : JobsBut L s (after a s) := fun p hm =>
  (after_jobRel (keepBut_refl L) (keepBut_trans L) hc h p).resolve_left hm
theorem after_portsBut {L : List Nat} (h : Allowed (portRel (keepBut L)) (a s) s) : PortsBut L s (after a s) := fun n hm =>
  (after_portRel (keepBut_refl L) (keepBut_trans L) hc h n).resolve_left hm
theorem after_linksBut {L : List Nat} (h : Allowed (linkRel (keepBut L)) (a s) s) : ∀ k, k ∉ L → (after a s).link k = s.link k := fun k hm =>
  (after_linkRel (keepBut_refl L) (keepBut_trans L) hc h k).resolve_left hm

end

/-- Bytes outside a range that an action writes read as before. -/
theorem after_bytesBut {a : Act} {s : State} (hc : s.canon = true) {x n : Nat}
    (h : Allowed (byteRel fun z u v => (x ≤ z ∧ z < x + n) ∨ v = u) (a s) s) : BytesBut x n s (after a s) := by
  intro z hz
  obtain h | h := after_byteRel (R := fun z u v => (x ≤ z ∧ z < x + n) ∨ v = u) (fun _ _ => .inr rfl)
    (fun _ _ _ _ h1 h2 => h2.elim .inl fun h2 => h1.imp id h2.trans) hc h z
  · omega
  · exact h

end Sys2Proof.Machine
end

section
/-!
SUPPORT. The sequencer's own instructions (R106, R107, R111): arithmetic, branches, WAIT, and a fault with no work item at hand.
-/
namespace Sys2Proof.Machine

/-! ## Registers apart -/

/-- Registers at different offsets of a 64 KiB block have different keys. -/
theorem regKey_ne_of_off {b b' : Blk} {i i' o o' : Nat} (h : o % 65536 ≠ o' % 65536) : regKey b i o ≠ regKey b' i' o' := by
  intro hk
  simp only [regKey] at hk
  omega

/-- No register below an event table's offsets is an entry of one. -/
theorem not_evtKey_of_off {b : Blk} {i o : Nat} (h : o % 65536 < 0x400 ∨ 0x800 ≤ o % 65536) : ¬ evtKey (regKey b i o) := by
  rintro ⟨n, v, hn, hv, hk⟩
  simp only [regKey] at hk
  omega

/-- A field under a key that an action does not change reads as before. -/
theorem fld_after_of_regIn {p : Nat → Prop} {a : Act} {s : State} (hc : s.canon = true) (h : Allowed (regIn p) (a s) s) {f : Fld} {i : Nat}
    (hk : ¬ p (regKey f.blk i f.off)) : (after a s).fld f i = s.fld f i := by
  simp only [State.fld, State.reg, after_regIn hc h hk]

/-- A field that a relation of registers leaves out reads as before. -/
theorem fld_of_regsBut {L : List Nat} {s t : State} (h : RegsBut L s t) {f : Fld} {i : Nat} (hk : regKey f.blk i f.off ∉ L) :
    t.fld f i = s.fld f i := by
  simp only [State.fld, State.reg, h _ hk]

theorem fld_of_regsButEvt {L : List Nat} {s t : State} (h : RegsButEvt L s t) {f : Fld} {i : Nat} (hk : regKey f.blk i f.off ∉ L)
    (he : ¬ evtKey (regKey f.blk i f.off)) : t.fld f i = s.fld f i := by
  simp only [State.fld, State.reg, h _ hk he]

/-! ## What a report leaves (R428, R452) -/

/-- What reports leave as it was: every field but those of the reports. -/
theorem ButReports.overlay {L : List Nat} {s t : State} (h : ButReports L s t) :
    t = State.overlay [.regs, .nvm, .keeper, .dies, .ports, .free, .out] s t := h.1

theorem core_logEv (s : State) (hc : s.canon = true) (d : Option Nat) (cls sev code unit part job : Nat) (h : Word32) (detail : List Byte)
    (c : CoreId) : (after (logEv d cls sev code unit part job h detail) s).core c = s.core c := by
  obtain ⟨ht, -⟩ := reports_logEv d cls sev code unit part job h detail s hc
  rw [ht]
  rfl

/-! ## One sequencer changes -/

/-- A change of one sequencer alone. -/
theorem modCore_frame (s : State) (hc : s.canon = true) (c : CoreId) (f : Core → Core) :
    (after (modCore c f) s).core c = f (s.core c) ∧ CoresBut [c] s (after (modCore c f) s) ∧
      after (modCore c f) s = { s with cores := (after (modCore c f) s).cores } := by
  refine ⟨by rw [core_modCore s hc, if_pos rfl], fun c' hm => ?_, rfl⟩
  rw [core_modCore s hc, if_neg (by simpa using hm)]

theorem runs_iff {s : State} {c : CoreId} : s.runs c = true ↔ (s.core c).st = 1 ∧ s.power.gated = false := by
  simp [State.runs]

theorem goesOn_iff {s : State} {c : CoreId} : s.goesOn c = true ↔ s.runs c = true ∧ (s.core c).pc < 1023 := by
  simp [State.goesOn]

/-- Short of instruction 1,023 the pc alone advances. -/
theorem nextPc_frame (s : State) (hc : s.canon = true) (c : CoreId) (h : (s.core c).pc < 1023) :
    (after (nextPc c) s).core c = { s.core c with pc := (s.core c).pc + 1 } ∧ CoresBut [c] s (after (nextPc c) s) ∧
      after (nextPc c) s = { s with cores := (after (nextPc c) s).cores } := by
  rw [nextPc_eq s c (by omega)]
  exact modCore_frame s hc c _

/-- A corrected word of the SRAM is counted at a tile and changes nothing else. -/
theorem sramCorr_frame (s : State) (c : CoreId) : after (sramCorr c) s = { s with regs := (after (sramCorr c) s).regs } := by
  cases c <;> rfl

theorem sramCorr_core (s : State) (c c' : CoreId) : (after (sramCorr c) s).core c' = s.core c' := by
  cases c <;> rfl

end Sys2Proof.Machine

open Sys2Proof Sys2Proof.Machine

/-- Settles O8: each operation is one write of sA, or none, and the pc advances. -/
theorem sequencerArithmetic : Obligations.SequencerArithmetic := by
  unfold Obligations.SequencerArithmetic
  intro s c a b imm hc hg
  obtain ⟨hr, hpc⟩ := goesOn_iff.1 hg
  have hrun : ∀ (f : Core → Act), runAct (onRun c f) s = .next (after (f (s.core c)) s) := fun f => by
    rw [runAct, onRun_eq s c f hr]
  have halu : ∀ f : Word32 → Word32 → Word32, ∃ t, runAct (alu c a.val b.val imm f) s = .next t ∧
      SregWritten c a.val (f ((s.core c).sreg b.val) ((s.core c).operand imm)) s t ∧ t = { s with cores := t.cores } := fun f => by
    obtain ⟨hw, ht⟩ := writeS_ok s hc c a.val (f ((s.core c).sreg b.val) ((s.core c).operand imm)) hpc
    exact ⟨_, hrun _, hw, ht⟩
  refine ⟨fun h => if_pos h, fun h => if_neg (by rw [h]; decide), fun w ecc hw hecc => ?_, ?_,
    halu _, halu _, halu _, halu _, halu _, halu _⟩
  · have hop : insnOp w = 0 := by simpa [insnOp, Nat.shiftRight_eq_div_pow] using hw
    obtain ⟨hcore, hbut, ht⟩ := nextPc_frame s hc c hpc
    cases ecc with
    | uncorrectable => exact absurd rfl hecc
    | ok =>
      refine ⟨_, ?_, hcore, hbut, fun _ => ht, ?_⟩
      · simp only [exec, execNop, hop, if_true]
        exact hrun _
      · rw [ht]
    | corrected =>
      have hc1 := after_canon (sramCorr c) s hc
      obtain ⟨hcore', hbut', ht'⟩ := nextPc_frame _ hc1 c (by rw [sramCorr_core]; exact hpc)
      refine ⟨after (nextPc c) (after (sramCorr c) s), ?_, ?_, ?_, fun h => by simp at h, ?_⟩
      · simp only [exec, execNop, hop, if_true]
        rw [hrun]
        simp
      · rw [hcore', sramCorr_core]
      · intro c' hm
        rw [hbut' c' hm, sramCorr_core]
      · rw [ht', sramCorr_frame]
  · obtain ⟨hw, ht⟩ := writeS_ok s hc c a.val (imm.signExtend 32) hpc
    exact ⟨_, hrun _, hw, ht⟩
end

section
/-!
SUPPORT. The footprint of the reports: event log records, events to the host, writes of NVM words (R428, R451, R452).
-/
namespace Sys2Proof.Machine

/-- What a message to the host changes of a port: what waits to be sent, what was sent, the credits, holdoffs and pending data. -/
def PortReport (x y : TPort) : Prop :=
  y = { x with txq := y.txq, credits := y.credits, txSeq := y.txSeq, kept := y.kept, holdoff := y.holdoff, evData := y.evData }

/-- Of non-volatile memory a report changes the log, the spares and the mark that it is worn, which stays. -/
def NvmReport (x y : Nvm) : Prop := y.sansLog = x.sansLog ∧ (x.worn = true → y.worn = true)

/-- What an effect of a report can be. -/
def Report (s : State) (e : Eff) : Prop :=
  match e with
  | .reg b i o _ => evtKey (regKey b i o)
  | .nvm n => NvmReport s.nvm n
  | .keeper k => k = { s.keeper with kHold := k.kHold, kDropped := k.kDropped, evPending := k.evPending }
  | .die d x => x = { s.die d with logHold := x.logHold, logDropped := x.logDropped }
  | .port n x => PortReport (s.port n) x
  | .free _ | .out _ => True
  | _ => False

/-- The footprint P leaves room for reports. -/
def AllowsReports (P : State → Eff → Prop) : Prop := ∀ s e, Report s e → P s e

theorem allowsReports_report : AllowsReports Report := fun _ _ h => h

/-- The effects that write no die. -/
@[simp] def Eff.noDie : Eff → Bool
  | .die .. => false
  | _ => true

/-- The footprint P leaves room for what a report with the Keeper running does: no die holds a record. -/
def AllowsEvents (P : State → Eff → Prop) : Prop := ∀ s e, Report s e → e.noDie = true → P s e

theorem AllowsReports.events {P : State → Eff → Prop} (h : AllowsReports P) : AllowsEvents P := fun s e he _ => h s e he

/-- What an effect of a message to the host on port n can be. -/
def SendTo (n : Nat) (s : State) (e : Eff) : Prop :=
  match e with
  | .port k x => k = n ∧ PortReport (s.port n) x
  | .out _ => True
  | _ => False

/-- The footprint P leaves room for messages to the host. -/
def AllowsSends (P : State → Eff → Prop) : Prop := ∀ n s e, SendTo n s e → P s e

theorem AllowsEvents.sends {P : State → Eff → Prop} (h : AllowsEvents P) : AllowsSends P := fun n s e he => by
  cases e with
  | port k x =>
    obtain ⟨rfl, hx⟩ := he
    exact h s _ hx rfl
  | out => exact h s _ he rfl
  | _ => exact he.elim

section
variable {P : State → Eff → Prop} {n : Nat} (hP : ∀ s e, SendTo n s e → P s e)
include hP

theorem allowed_pumpMsgs : ∀ (l : List TMsg) (s : State), Allowed P (pumpMsgs n l s) s
  | [], s => allowed_skip s
  | m :: r, s => by
    have hp : ∀ s x, PortReport (s.port n) x → P s (.port n x) := fun s x h => hP s _ ⟨rfl, h⟩
    have ho : ∀ s o, P s (.out o) := fun s o => hP s _ trivial
    have hr := allowed_pumpMsgs r
    simp only [pumpMsgs]
    split
    · simp only [allowed_seqA_cons, allowed_modPort, allowed_seqA_nil, and_true]
      exact ⟨hp _ _ rfl, hr _⟩
    · simp only [allowed_seqA_cons, allowed_modPort, allowed_emit, allowed_seqA_nil, and_true]
      refine ⟨hp _ _ ?_, ho _ _, hr _⟩
      simp [PortReport]

theorem allowed_pumpPort_to (s : State) : Allowed P (pumpPort n s) s := by
  have hp : ∀ s x, PortReport (s.port n) x → P s (.port n x) := fun s x h => hP s _ ⟨rfl, h⟩
  simp only [pumpPort, allowed_seqA_cons, allowed_modPort, allowed_seqA_nil, and_true]
  exact ⟨hp _ _ rfl, allowed_pumpMsgs hP _ _⟩

theorem allowed_traisSend_to (m : TMsg) (s : State) : Allowed P (traisSend n m s) s := by
  have hp : ∀ s x, PortReport (s.port n) x → P s (.port n x) := fun s x h => hP s _ ⟨rfl, h⟩
  simp only [traisSend, allowed_whenA, allowed_seqA_cons, allowed_modPort, allowed_seqA_nil, and_true]
  exact fun _ => ⟨hp _ _ rfl, allowed_pumpPort_to hP _⟩

theorem allowed_sendEvt_to (v data : Nat) (s : State) : Allowed P (sendEvt n v data s) s := by
  have hp : ∀ s x, PortReport (s.port n) x → P s (.port n x) := fun s x h => hP s _ ⟨rfl, h⟩
  simp only [sendEvt, allowed_whenA, allowed_seqA_cons, allowed_modPort, allowed_seqA_nil, and_true]
  exact ⟨allowed_traisSend_to hP _ _, fun _ => hp _ _ rfl⟩

/-- An event on a port, over the entry of its event table that it may mark. -/
theorem allowed_portEvent_to (v data : Nat) (he : ∀ s x, P s (.reg .trl n (F.TRL_EVT_PEND.nth v).off x)) (s : State) :
    Allowed P (portEvent n v data s) s := by
  have hp : ∀ s x, PortReport (s.port n) x → P s (.port n x) := fun s x h => hP s _ ⟨rfl, h⟩
  simp only [portEvent, allowed_ite, allowed_seqA_cons, allowed_setF, allowed_modPort, allowed_seqA_nil, allowed_nil, and_true,
    implies_true]
  exact fun _ => ⟨fun _ => ⟨he _ _, hp _ _ rfl⟩, fun _ => allowed_sendEvt_to hP _ _ _⟩

end

section
variable {P : State → Eff → Prop} (hP : AllowsSends P)
include hP

theorem allowed_pumpPort (n : Nat) (s : State) : Allowed P (pumpPort n s) s := allowed_pumpPort_to (hP n) s
theorem allowed_traisSend (n : Nat) (m : TMsg) (s : State) : Allowed P (traisSend n m s) s := allowed_traisSend_to (hP n) m s
theorem allowed_sendEvt (n v data : Nat) (s : State) : Allowed P (sendEvt n v data s) s := allowed_sendEvt_to (hP n) v data s

/-- An event to the host, over the entries of the ports' event tables that it may mark. -/
theorem allowed_raiseEvent_of (p v data : Nat) (he : ∀ s n x, n < 4 → P s (.reg .trl n (F.TRL_EVT_PEND.nth v).off x)) (s : State) :
    Allowed P (raiseEvent p v data s) s := by
  rw [raiseEvent, allowed_withA]
  refine allowed_forA _ _ s fun n hn s => ?_
  simp only [State.partPorts, allPorts, List.mem_filter, List.mem_range] at hn
  exact allowed_portEvent_to (hP n) v data (fun s x => he s n x hn.1) s

end

section
variable {P : State → Eff → Prop} (hP : AllowsEvents P)
include hP

/-- An event to the host (R428). -/
theorem allowed_raiseEvent (p v data : Nat) (hv : v < 128) (s : State) : Allowed P (raiseEvent p v data s) s :=
  allowed_raiseEvent_of hP.sends p v data (fun s n _ hn => hP s _ ⟨n, v, hn, hv, rfl⟩ rfl) s

theorem allowed_logPut (r : LogRec) (s : State) : Allowed P (logPut r s) s := by
  have hn : ∀ s (n : Nvm), NvmReport s.nvm n → P s (.nvm n) := fun s n h => hP s _ h rfl
  have hk : ∀ s (k : Keeper), k = { s.keeper with kHold := k.kHold, kDropped := k.kDropped, evPending := k.evPending } → P s (.keeper k) :=
    fun s k h => hP s _ h rfl
  have ho : ∀ s o, P s (.out o) := fun s o => hP s _ trivial rfl
  simp only [logPut, allowed_seqA_cons, allowed_modNvm, allowed_whenA, allowed_seqA_nil, and_true]
  refine ⟨hn _ _ ⟨rfl, id⟩, fun _ => ?_, allowed_raiseEvent hP _ _ _ (by decide) _⟩
  split
  · exact (allowed_emit _ _).2 (ho _ _)
  · exact (allowed_modKeeper _ _).2 (hk _ _ rfl)

/-- A write of NVM words, over the effects of what it writes (R451). -/
theorem allowed_nvmWrite (a : Act) (ha : ∀ s, Allowed P (a s) s) (s : State) : Allowed P (nvmWrite a s) s := by
  have hn : ∀ s (n : Nvm), NvmReport s.nvm n → P s (.nvm n) := fun s n h => hP s _ h rfl
  have hf : ∀ s n, P s (.free n) := fun s n => hP s _ trivial rfl
  simp only [nvmWrite, allowed_seqA_cons, allowed_draw, allowed_seqA_nil, and_true]
  refine ⟨hf _ _, ?_⟩
  split
  · exact ha _
  · split
    · simp only [allowed_seqA_cons, allowed_modNvm, allowed_seqA_nil, and_true]
      exact ⟨hn _ _ ⟨rfl, id⟩, ha _⟩
    · simp only [allowed_whenA, allowed_seqA_cons, allowed_modNvm, allowed_seqA_nil, and_true]
      exact fun _ => ⟨hn _ _ ⟨rfl, fun _ => rfl⟩, allowed_logPut hP _ _⟩

/-- With the Keeper running, or without a die, a record changes no die. -/
theorem allowed_logRec_none (r : LogRec) (s : State) : Allowed P (logRec none r s) s := by
  unfold logRec
  split
  · exact allowed_nvmWrite hP _ (allowed_logPut hP r) s
  · refine (allowed_modKeeper _ _).2 (hP _ _ ?_ rfl)
    split <;> rfl

/-- A record that no die holds (R452). -/
theorem allowed_logEv_none (cls sev code unit part job : Nat) (h : Word32) (detail : List Byte) (s : State) :
    Allowed P (logEv none cls sev code unit part job h detail s) s := allowed_logRec_none hP _ s

end

section
variable {P : State → Eff → Prop} (hP : AllowsReports P)
include hP

theorem allowed_logRec (d : Option Nat) (r : LogRec) (s : State) : Allowed P (logRec d r s) s := by
  have hk : ∀ s (k : Keeper), k = { s.keeper with kHold := k.kHold, kDropped := k.kDropped, evPending := k.evPending } → P s (.keeper k) :=
    fun s k h => hP s _ h
  have hd : ∀ s d (x : Die), x = { s.die d with logHold := x.logHold, logDropped := x.logDropped } → P s (.die d x) :=
    fun s d x h => hP s _ h
  unfold logRec
  split
  · exact allowed_nvmWrite hP.events _ (allowed_logPut hP.events r) s
  · cases d with
    | some d =>
      refine (allowed_modDie _ _ _).2 (hd _ _ _ ?_)
      split <;> rfl
    | none =>
      refine (allowed_modKeeper _ _).2 (hk _ _ ?_)
      split <;> rfl

/-- A record of the event log (R452). -/
theorem allowed_logEv (d : Option Nat) (cls sev code unit part job : Nat) (h : Word32) (detail : List Byte) (s : State) :
    Allowed P (logEv d cls sev code unit part job h detail s) s := allowed_logRec hP _ _ s

end

/-! ## Which footprints leave room for reports -/

@[simp] theorem allowsReports_onlyFields {fs : List StateField}
    (h : [.regs, .nvm, .keeper, .dies, .ports, .free, .out] ⊆ fs) : AllowsReports (onlyFields fs) := fun s e he => by
  cases e <;> simp_all [Report, List.cons_subset]

@[simp] theorem allowsReports_coreRel {R} : AllowsReports (coreRel R) := fun _ e he => by
  cases e with
  | core => exact he.elim
  | lost => exact he.elim
  | _ => trivial

@[simp] theorem allowsReports_cellRel {R} : AllowsReports (cellRel R) := fun _ e he => by
  cases e with
  | cell => exact he.elim
  | _ => trivial

@[simp] theorem allowsReports_convRel {R} : AllowsReports (convRel R) := fun _ e he => by
  cases e with
  | conv => exact he.elim
  | lost => exact he.elim
  | _ => trivial

@[simp] theorem allowsReports_linkRel {R} : AllowsReports (linkRel R) := fun _ e he => by
  cases e with
  | link => exact he.elim
  | lost => exact he.elim
  | _ => trivial

@[simp] theorem allowsReports_treeRel {R} : AllowsReports (treeRel R) := fun _ e he => by
  cases e with
  | treeTab => exact he.elim
  | lost => exact he.elim
  | _ => trivial

@[simp] theorem allowsReports_passageRel {R} : AllowsReports (passageRel R) := fun _ e he => by
  cases e with
  | passage => exact he.elim
  | lost => exact he.elim
  | _ => trivial

@[simp] theorem allowsReports_jobRel {R} : AllowsReports (jobRel R) := fun _ e he => by
  cases e with
  | job => exact he.elim
  | lost => exact he.elim
  | _ => trivial

@[simp] theorem allowsReports_sliceRel {R} : AllowsReports (sliceRel R) := fun _ e he => by
  cases e with
  | slice => exact he.elim
  | lost => exact he.elim
  | _ => trivial

@[simp] theorem allowsReports_bfpRel {R} : AllowsReports (bfpRel R) := fun _ e he => by
  cases e with
  | bfpLink => exact he.elim
  | lost => exact he.elim
  | _ => trivial

@[simp] theorem allowsReports_byteRel {R} : AllowsReports (byteRel R) := fun _ e he => by
  cases e with
  | byte => exact he.elim
  | lost => exact he.elim
  | _ => trivial

@[simp] theorem allowsReports_regIn {p : Nat → Prop} (h : ∀ k, evtKey k → p k) : AllowsReports (regIn p) := fun _ e he => by
  cases e with
  | reg => exact h _ he
  | _ => trivial

/-- Reports touch a die in the records it holds alone. -/
theorem allowsReports_dieRel {R : Nat → Die → Die → Prop}
    (h : ∀ d (x y : Die), y = { x with logHold := y.logHold, logDropped := y.logDropped } → R d x y) : AllowsReports (dieRel R) := fun _ e he => by
  cases e with
  | die => exact h _ _ _ he
  | _ => trivial

/-- Reports touch a port in what it sends alone. -/
theorem allowsReports_portRel {R : Nat → TPort → TPort → Prop} (h : ∀ n x y, PortReport x y → R n x y) : AllowsReports (portRel R) := fun _ e he => by
  cases e with
  | port => exact h _ _ _ he
  | lost => exact he.elim
  | _ => trivial

end Sys2Proof.Machine
end

section
/-!
SUPPORT. Control of a sequencer (R107, R111): branches, WAIT, and a fault with no work item at hand.
-/
namespace Sys2Proof.Machine

/-! ## Data errors -/

theorem coreDie_lt (c : CoreId) : coreDie c < 32 := by
  cases c with
  | tile t => exact t.d.isLt
  | ctx d _ => exact d.isLt

/-- A report of a die's checker stays among the CHK_ registers, the die's held records, and what is sent. -/
theorem onlyFields_chkReport {fs : List StateField} (h : [.regs, .dies, .out] ⊆ fs) (d : Nat) (r : HistRec) (s : State) :
    Allowed (onlyFields fs) (chkReport d r s) s := by
  have hm := fun f hf => h (a := f) hf
  simp only [chkReport, chkLast, allowed_seqA_cons, allowed_setF, allowed_seqA_nil, allowed_iteAct, allowed_emit, allowed_modDie, allowed_bump]
  simp [hm]

theorem onlyFields_dataError {fs : List StateField} (h : [.regs, .dies, .out] ⊆ fs) (c : CoreId) (o : Nat) (s : State) :
    Allowed (onlyFields fs) (dataError c o s) s := by
  have hm := fun f hf => h (a := f) hf
  simp [dataError, hm, onlyFields_chkReport h]

/-- The registers of a data error are those of the checker. -/
theorem regIn_dataError (c : CoreId) (o : Nat) (s : State) :
    Allowed (regIn fun k => ∃ o < 65536, k = regKey .chk (coreDie c) o) (dataError c o s) s := by
  have hk : ∀ o, o < 65536 → ∃ o' < 65536, regKey .chk (coreDie c) o = regKey .chk (coreDie c) o' := fun o h => ⟨o, h, rfl⟩
  have h1 := hk F.CHK_DATA_SRAM.off (by decide)
  have h2 := hk F.CHK_LAST_VALID.off (by decide)
  have h3 := hk F.CHK_HOLD_DROPPED.off (by decide)
  simp only [dataError, chkReport, chkLast, allowed_seqA_cons, allowed_setF, allowed_seqA_nil, allowed_iteAct, allowed_emit,
    allowed_modDie, allowed_bump, regIn, and_true, true_and, implies_true]
  exact ⟨h1, ⟨h2, h2, h2, h2⟩, fun _ _ => h3⟩

/-! ## A fault with no work item (R111) -/

/-- No work item is at hand, queued or in a reserved place. -/
def Core.empty (k : Core) : Prop := k.item = none ∧ k.queue = [] ∧ k.second = none ∧ k.secondQ = []

theorem after_abandonQueue_of_empty {s : State} {c : CoreId} (h : (s.core c).empty) :
    after (abandonQueue c) s = after (modCore c fun k => { k with queue := [], second := none, secondQ := [] }) s := by
  obtain ⟨-, hq, h2, h3⟩ := h
  simp [abandonQueue, after, seqA, forA, hq, h2, h3]

/-- What a fault with no work item leaves: the sequencer in FAULT with its cause, the fault counted, and no other sequencer changed. -/
def StopsAt (x : TileId) (cause : Nat) (s t : State) : Prop :=
  (t.core (.tile x)).st = 3 ∧ (t.core (.tile x)).cause = cause ∧
    t.fld F.TIL_SEQ_FLT_COUNT (tileKey x) = min (s.fld F.TIL_SEQ_FLT_COUNT (tileKey x) + 1) F.TIL_SEQ_FLT_COUNT.top ∧
    CoresBut [.tile x] s t ∧ ∀ y, t.byte y = s.byte y

theorem stopsAt_seqFault {s : State} (hc : s.canon = true) (x : TileId) (cause : Nat) (h : (s.core (.tile x)).empty) :
    StopsAt x cause s (after (seqFault (.tile x) cause) s) := by
  have hitem : (s.core (.tile x)).item = none := h.1
  set s1 := after (bump F.TIL_SEQ_FLT_COUNT (tileKey x) 1) s with hs1
  have hc1 : s1.canon = true := after_canon _ s hc
  set s2 := after (logSeqFault (.tile x) (s.core (.tile x)) cause) s1 with hs2
  have hc2 : s2.canon = true := after_canon _ s1 hc1
  have hrep : ButReports [] s1 s2 := reports_logEv _ _ _ _ _ _ _ _ _ s1 hc1
  have hcore2 : ∀ c, s2.core c = s.core c := fun c => by
    rw [hs2, logSeqFault, core_logEv s1 hc1]
    simp [hs1, bump, setF]
  set s3 := after (modCore (.tile x) fun k => { k with st := 3, cause := cause }) s2 with hs3
  have hc3 : s3.canon = true := after_canon _ s2 hc2
  have hcore3 : s3.core (.tile x) = { s.core (.tile x) with st := 3, cause := cause } := by
    rw [hs3, core_modCore s2 hc2, if_pos rfl, hcore2]
  have hafter : after (seqFault (.tile x) cause) s
      = after (modCore (.tile x) fun k => { k with queue := [], second := none, secondQ := [] }) s3 := by
    rw [← after_abandonQueue_of_empty (by rw [hcore3]; exact h)]
    simp only [after, seqFault, hitem, apAll_seqA_cons, apAll_seqA_nil, hs1, hs2, hs3]
  rw [hafter]
  refine ⟨?_, ?_, ?_, fun c hm => ?_, fun y => ?_⟩
  · rw [core_modCore s3 hc3, if_pos rfl, hcore3]
  · rw [core_modCore s3 hc3, if_pos rfl, hcore3]
  · have h1 : s1.fld F.TIL_SEQ_FLT_COUNT (tileKey x) = min (s.fld F.TIL_SEQ_FLT_COUNT (tileKey x) + 1) F.TIL_SEQ_FLT_COUNT.top :=
      fld_bump s hc F.TIL_SEQ_FLT_COUNT _ 1 (by decide) (by decide)
    have h2 : s2.fld F.TIL_SEQ_FLT_COUNT (tileKey x) = s1.fld F.TIL_SEQ_FLT_COUNT (tileKey x) :=
      fld_of_regsButEvt hrep.2.2.2.2 List.not_mem_nil (not_evtKey_of_off (.inl (by decide)))
    exact h2.trans h1
  · have hne : c ≠ .tile x := by simpa using hm
    rw [core_modCore s3 hc3, if_neg hne, hs3, core_modCore s2 hc2, if_neg hne, hcore2]
  · have h2 : s2.byte y = s1.byte y := by
      rw [hrep.1]
      rfl
    have h1 : s1.byte y = s.byte y := by simp [hs1, bump, setF]
    simp [hs3, modCore, h2, h1]

/-- An uncorrectable word of PROG or PARAM stops an empty sequencer with CAUSE 4 (R105, R325). -/
theorem stopsAt_sramUncorr {s : State} (hc : s.canon = true) (x : TileId) (o : Nat) (ho : o < 0x1100) (h : (s.core (.tile x)).empty) :
    StopsAt x 4 s (after (sramUncorr (.tile x) o) s) := by
  set s1 := after (bump F.TIL_SRAM_ERR_UNCORR (tileKey x) 1) s with hs1
  have hc1 : s1.canon = true := after_canon _ s hc
  set s2 := after (dataError (.tile x) o) s1 with hs2
  have hc2 : s2.canon = true := after_canon _ s1 hc1
  have hof : Allowed (onlyFields [.regs, .dies, .out]) (dataError (.tile x) o s1) s1 := onlyFields_dataError (List.Subset.refl _) _ _ _
  have hcore : ∀ c, s2.core c = s.core c := fun c => (after_read_eq (fun s => s.core c) hof fun _ => rfl).trans (by simp [hs1, bump, setF])
  have hbyte : ∀ y, s2.byte y = s.byte y := fun y => (after_read_eq (fun s => s.byte y) hof fun _ => rfl).trans (by simp [hs1, bump, setF])
  have hfld : s2.fld F.TIL_SEQ_FLT_COUNT (tileKey x) = s.fld F.TIL_SEQ_FLT_COUNT (tileKey x) := by
    rw [hs2, fld_after_of_regIn hc1 (regIn_dataError _ _ _), hs1]
    · exact fld_of_regsBut (after_regsBut (L := [regKey .til (tileKey x) F.TIL_SRAM_ERR_UNCORR.off]) hc (by simp [F.TIL_SRAM_ERR_UNCORR]))
        (by simpa using regKey_ne_of_off (by decide))
    · rintro ⟨o', ho', hk⟩
      have hd := coreDie_lt (.tile x)
      have hx := tileKey_lt x
      simp only [regKey, Blk.code] at hk
      omega
  have hafter : after (sramUncorr (.tile x) o) s = after (seqFault (.tile x) 4) s2 := by
    simp only [after, sramUncorr, apAll_seqA_cons, apAll_seqA_nil, if_pos ho, hs1, hs2]
  rw [hafter]
  obtain ⟨h1, h2, h3, h4, h5⟩ := stopsAt_seqFault hc2 x 4 (by rw [hcore]; exact h)
  exact ⟨h1, h2, by rw [h3, hfld], fun c hm => (h4 c hm).trans (hcore c), fun y => (h5 y).trans (hbyte y)⟩

theorem runAct_onRun {s : State} {c : CoreId} (h : s.runs c = true) (f : Core → Act) :
    runAct (onRun c f) s = .next (after (f (s.core c)) s) := by
  rw [runAct, onRun_eq s c f h]

/-- A step that leaves a sequencer at an instruction index in a state, and nothing else changed. -/
def GoesTo (c : CoreId) (n st : Nat) (s t : State) : Prop :=
  t.core c = { s.core c with pc := n, st := st } ∧ CoresBut [c] s t ∧ t = { s with cores := t.cores }

theorem goesTo_nextPc {s : State} (hc : s.canon = true) {c : CoreId} (h : s.goesOn c = true) :
    GoesTo c ((s.core c).pc + 1) 1 s (after (nextPc c) s) := by
  obtain ⟨hr, hpc⟩ := goesOn_iff.1 h
  obtain ⟨hcore, hbut, ht⟩ := nextPc_frame s hc c hpc
  exact ⟨by rw [hcore, ← (runs_iff.1 hr).1], hbut, ht⟩

theorem goesTo_jumpTo {s : State} (hc : s.canon = true) {c : CoreId} (h : s.runs c = true) {i : Int} (h0 : 0 ≤ i) (h1 : i ≤ 1023) :
    GoesTo c i.toNat 1 s (after (jumpTo c i) s) := by
  rw [jumpTo, if_pos ⟨h0, h1⟩]
  obtain ⟨hcore, hbut, ht⟩ := modCore_frame s hc c fun k => { k with pc := i.toNat }
  exact ⟨by rw [hcore, ← (runs_iff.1 h).1], hbut, ht⟩

/-- WAIT with every event of its mask there goes on; only WORK loads an item. -/
theorem goesTo_execWait {s : State} (hc : s.canon = true) {c : CoreId} (h : s.goesOn c = true) {imm : BitVec 18} (h0 : imm.getLsbD 0 = false)
    (hall : ∀ j, j < 6 → imm.getLsbD j = true → (s.core c).ready j = true) :
    ∃ t, execWait c imm s = .next t ∧ GoesTo c ((s.core c).pc + 1) 1 s t := by
  obtain ⟨hr, hpc⟩ := goesOn_iff.1 h
  obtain ⟨hst, hg⟩ := runs_iff.1 hr
  have hready : ((List.range 6).all fun i => !imm.getLsbD i || (s.core c).ready i) = true := by
    rw [List.all_eq_true]
    intro j hj
    cases hb : imm.getLsbD j with
    | false => rfl
    | true => simp [hall j (List.mem_range.1 hj) hb]
  set s1 := after (modCore c fun k => { k with st := 1 }) s with hs1
  have hc1 : s1.canon = true := after_canon _ s hc
  obtain ⟨hcore, hbut, ht⟩ := modCore_frame s hc c fun k => { k with st := 1 }
  rw [← hs1] at hcore hbut ht
  obtain ⟨hcore', hbut', ht'⟩ := nextPc_frame s1 hc1 c (by rw [hcore]; exact hpc)
  refine ⟨after (nextPc c) s1, ?_, by rw [hcore', hcore], fun c' hm => (hbut' c' hm).trans (hbut c' hm), by rw [ht', ht]⟩
  simp only [execWait, runAct_eq, hst, hg, hready, hs1, ne_eq, not_true_eq_false, false_and, Bool.false_eq_true, or_self, if_false,
    if_true, apAll_seqA_cons, apAll_seqA_nil, after_whenA, h0]

/-- WAIT with an event missing stalls in WAIT. -/
theorem stalls_execWait {s : State} (hc : s.canon = true) {c : CoreId} (h : s.runs c = true) {imm : BitVec 18} {j : Nat} (hj : j < 6)
    (hb : imm.getLsbD j = true) (hn : (s.core c).ready j = false) :
    ∃ t, execWait c imm s = .next t ∧ GoesTo c (s.core c).pc 2 s t := by
  obtain ⟨hst, hg⟩ := runs_iff.1 h
  have hready : ((List.range 6).all fun i => !imm.getLsbD i || (s.core c).ready i) = false := by
    rw [List.all_eq_false]
    exact ⟨j, List.mem_range.2 hj, by simp [hb, hn]⟩
  refine ⟨after (modCore c fun k => { k with st := 2 }) s, ?_, modCore_frame s hc c _⟩
  simp only [execWait, runAct_eq, hst, hg, hready, ne_eq, not_true_eq_false, false_and, Bool.false_eq_true, or_self, if_false]
  rfl

/-- A word that R107 does not list. -/
theorem insnListed_eq_false {w : Word32} (h : w.toNat / 2 ^ 26 ∈ [0x0A, 0x0B, 0x0F, 0x11] ∨ 0x1B ≤ w.toNat / 2 ^ 26 ∨
    (w.toNat / 2 ^ 26 = 0x14 ∧ 5 ≤ w.toNat % 8)) : insnListed w = false := by
  have hop : insnOp w = w.toNat / 2 ^ 26 := by simp [insnOp, Nat.shiftRight_eq_div_pow]
  simp only [insnListed, hop, Bool.and_eq_false_iff, Bool.or_eq_false_iff, decide_eq_false_iff_not, beq_eq_false_iff_ne,
    Bool.not_eq_false', Bool.and_eq_true, beq_iff_eq, decide_eq_true_eq]
  simp only [List.mem_cons, List.not_mem_nil, or_false] at h
  omega

/-- A corrected word counted first does not change how a sequencer stops. -/
theorem StopsAt.of_sramCorr {s t : State} (hc : s.canon = true) {x : TileId} {cause : Nat} (h : StopsAt x cause (after (sramCorr (.tile x)) s) t) :
    StopsAt x cause s t := by
  obtain ⟨h1, h2, h3, h4, h5⟩ := h
  have hf : (after (sramCorr (.tile x)) s).fld F.TIL_SEQ_FLT_COUNT (tileKey x) = s.fld F.TIL_SEQ_FLT_COUNT (tileKey x) :=
    fld_of_regsBut (after_regsBut (L := [regKey .til (tileKey x) F.TIL_SRAM_ERR_CORR.off]) hc (by simp [sramCorr, F.TIL_SRAM_ERR_CORR]))
      (by simpa using regKey_ne_of_off (by decide))
  refine ⟨h1, h2, by rw [h3, hf], fun c hm => (h4 c hm).trans (sramCorr_core s _ c), fun y => (h5 y).trans ?_⟩
  simp [sramCorr, bump, setF]

theorem badAddr_of {k : Core} {b : Nat} {imm : BitVec 18} (h : 0x8000 ≤ (k.sreg b + imm.signExtend 32).toNat ∨
    (k.sreg b + imm.signExtend 32).toNat % 4 ≠ 0) : badAddr (k.addr b imm) = true := by
  simp only [badAddr, Core.addr, Bool.or_eq_true, bne_iff_ne]
  exact h.imp_left fun h => decide_eq_true h

theorem badAddr_eq_false {o : Nat} (h : o < 0x8000) (h4 : o % 4 = 0) : badAddr o = false := by
  simp [badAddr, h, h4]

/-- Writing a register leaves what else the sequencer holds. -/
theorem setSreg_frame (k : Core) (a : Nat) (v : Word32) : k.setSreg a v = { k with sregs := (k.setSreg a v).sregs } := by
  unfold Core.setSreg
  split <;> rfl

/-- At instruction 1,023 an instruction that writes sA goes on beyond the program: CAUSE 7. -/
theorem stopsAt_writeS {s : State} (hc : s.canon = true) (x : TileId) (a : Nat) (v : Word32) (h : (s.core (.tile x)).empty)
    (hpc : (s.core (.tile x)).pc = 1023) : StopsAt x 7 s (after (writeS (.tile x) a v) s) := by
  set s1 := after (modCore (.tile x) fun k => k.setSreg a v) s with hs1
  have hc1 : s1.canon = true := after_canon _ s hc
  have hcore : ∀ c, s1.core c = if c = .tile x then (s.core (.tile x)).setSreg a v else s.core c := fun c => core_modCore s hc _ _ c
  have hk : s1.core (.tile x) = { s.core (.tile x) with sregs := (s1.core (.tile x)).sregs } := by
    rw [hcore, if_pos rfl]
    exact setSreg_frame _ _ _
  have hafter : after (writeS (.tile x) a v) s = after (seqFault (.tile x) 7) s1 := by
    have h7 : (s1.core (.tile x)).pc = 1023 := by rw [hk]; exact hpc
    have hn : after (nextPc (.tile x)) s1 = after (seqFault (.tile x) 7) s1 := by simp only [after, nextPc, h7, if_true]
    rw [writeS, after_seqA_cons, ← hs1, after_seqA_cons, after_seqA_end, hn]
  rw [hafter]
  obtain ⟨h1, h2, h3, h4, h5⟩ := stopsAt_seqFault hc1 x 7 (by rw [hk]; exact h)
  refine ⟨h1, h2, ?_, fun c hm => ?_, fun y => ?_⟩
  · rw [h3]
    simp [hs1, modCore, State.fld]
  · rw [h4 c hm, hcore, if_neg (by simpa using hm)]
  · rw [h5]
    simp [hs1, modCore]

end Sys2Proof.Machine

open Sys2Proof Sys2Proof.Machine

/-- Settles O10: branches move the pc, WAIT its state, and a fault with no item stops. -/
theorem sequencerControl : Obligations.SequencerControl := by
  unfold Obligations.SequencerControl
  refine ⟨fun s c a imm hc hg => ?_, fun s x a b imm hc hr h1 h2 h3 h4 => ?_⟩
  · obtain ⟨hr, hpc⟩ := goesOn_iff.1 hg
    have hrun : ∀ (f : Core → Act), runAct (onRun c f) s = .next (after (f (s.core c)) s) := runAct_onRun hr
    refine ⟨fun h l u => ?_, fun h => ?_, fun h l u => ?_, fun h => ?_, ?_, fun h0 hall => goesTo_execWait hc hg h0 hall,
      fun ⟨j, hj, hb, hn⟩ => stalls_execWait hc hr hj hb hn⟩
    · exact ⟨_, (hrun _).trans (by rw [if_pos (by simpa using h)]), goesTo_jumpTo hc hr l u⟩
    · exact ⟨_, (hrun _).trans (by rw [if_neg (by simpa using h)]), goesTo_nextPc hc hg⟩
    · exact ⟨_, (hrun _).trans (by rw [if_pos (by simpa using h)]), goesTo_jumpTo hc hr l u⟩
    · exact ⟨_, (hrun _).trans (by rw [if_neg (by simpa using h)]), goesTo_nextPc hc hg⟩
    · exact ⟨_, hrun _, goesTo_jumpTo hc hr (by omega) (by omega)⟩
  · have hempty : (s.core (.tile x)).empty := ⟨h1, h2, h3, h4⟩
    have hrun : ∀ (f : Core → Act), runAct (onRun (.tile x) f) s = .next (after (f (s.core (.tile x))) s) := runAct_onRun hr
    have hstop : ∀ cause, StopsAt x cause s (after (seqFault (.tile x) cause) s) := fun cause => stopsAt_seqFault hc x cause hempty
    refine ⟨fun w hw ecc hecc => ?_, fun w hpc => ?_, fun ho ha => ?_, fun ho => ⟨?_, fun ecc => ?_⟩, fun hpc => ?_⟩
    · have hl := insnListed_eq_false hw
      have hop : insnOp w ≠ 0 := fun h0 => by simp [insnListed, h0] at hl
      cases ecc with
      | uncorrectable => exact absurd rfl hecc
      | ok => exact ⟨_, (hrun _).trans (by simp only [if_neg hop, hl, Bool.false_eq_true, if_false]), hstop 1⟩
      | corrected =>
        have hstop1 := stopsAt_seqFault (after_canon (sramCorr (.tile x)) s hc) x 1 (by rw [sramCorr_core]; exact hempty)
        refine ⟨after (seqFault (.tile x) 1) (after (sramCorr (.tile x)) s), (hrun _).trans ?_, StopsAt.of_sramCorr hc hstop1⟩
        simp only [if_neg hop, hl, Bool.false_eq_true, if_false, after_seqA_cons, after_seqA_end]
    · exact ⟨_, hrun _, stopsAt_sramUncorr hc x _ (by omega) hempty⟩
    · have hbad : badAddr ((s.core (.tile x)).addr b.val imm) = false := badAddr_eq_false (Nat.lt_trans ho (by decide)) ha
      have hlt : (s.core (.tile x)).addr b.val imm < 0x1100 := ho
      exact ⟨_, (hrun _).trans (by simp only [hbad, Bool.false_eq_true, if_false, if_pos hlt]), hstop 2⟩
    · exact ⟨_, (hrun _).trans (by simp only [badAddr_of ho, if_true]), hstop 3⟩
    · exact ⟨_, (hrun _).trans (by simp only [badAddr_of ho, if_true]), hstop 3⟩
    · exact ⟨_, hrun _, stopsAt_writeS hc x _ _ hempty hpc⟩
end

section
/-!
SUPPORT. The sum of two ACC56 blocks (R41–R44), and the flags of a re-quantised block (R56).
-/
namespace Sys2Proof.Machine

/-! ## Words of an exact value -/

theorem toNat_accWord (v : Int) : (accWord v).toNat = tc 56 v + mod7 v * 2 ^ 56 := by
  have ht := tc_lt 56 v
  have h7 : mod7 v < 7 := by
    unfold mod7
    omega
  rw [accWord, BitVec.toNat_ofNat, Nat.mod_eq_of_lt]
  omega

theorem accVal_accWord {v : Int} (h : fits56 v = true) : accVal (accWord v) = v := by
  simp only [fits56, Bool.and_eq_true, decide_eq_true_eq] at h
  have hs : sext 56 (tc 56 v + mod7 v * 2 ^ 56) = sext 56 (tc 56 v) := by simp [sext]
  rw [accVal, toNat_accWord, hs, sext_tc (by omega) (by omega)]

theorem accBad_accWord {v : Int} (h : fits56 v = true) : accBad (accWord v) = false := by
  have ht := tc_lt 56 v
  have h7 : mod7 v < 7 := by
    unfold mod7
    omega
  have hr : accRes (accWord v) = mod7 v := by
    simp only [accRes, bitsOf, toNat_accWord, Nat.shiftRight_eq_div_pow]
    omega
  simp [accBad, hr, accVal_accWord h]

/-- A block of exact values that fit carries no residue event. -/
theorem bad_accOf {f : Int} {vs : List Int} (h : ∀ v ∈ vs, fits56 v = true) : AccBlk.bad (accOf f vs) = false := by
  simp only [AccBlk.bad, accOf, List.any_eq_false, List.mem_map]
  rintro w ⟨v, hv, rfl⟩
  simp [accBad_accWord (h v hv)]

theorem accVals_accOf {f : Int} {vs : List Int} (h : ∀ v ∈ vs, fits56 v = true) : accVals (accOf f vs) = vs := by
  simp only [accVals, accOf, List.map_map]
  exact (List.map_congr_left fun v hv => accVal_accWord (h v hv)).trans (List.map_id vs)

/-! ## Sums -/

/-- The aligned sums of two blocks, element by element. -/
def alignedSums (a b : AccBlk) : List Int :=
  (accVals a).zipWith (fun x y => x * 2 ^ (a.f - min a.f b.f).toNat + y * 2 ^ (b.f - min a.f b.f).toNat) (accVals b)

theorem length_alignedSums {a b : AccBlk} (ha : a.w.length = 32) (hb : b.w.length = 32) : (alignedSums a b).length = 32 := by
  simp [alignedSums, accVals, ha, hb]

theorem getD_alignedSums {a b : AccBlk} (ha : a.w.length = 32) (hb : b.w.length = 32) {i : Nat} (hi : i < 32) :
    (alignedSums a b).getD i 0 =
      (accVals a).getD i 0 * 2 ^ (a.f - min a.f b.f).toNat + (accVals b).getD i 0 * 2 ^ (b.f - min a.f b.f).toNat := by
  simp [alignedSums, accVals, List.getD_eq_getElem?_getD, ha, hb, hi]

/-- Values that fit need no rescale. -/
theorem rescaleBits_of_fits {vs : List Int} (h : ∀ v ∈ vs, fits56 v = true) : rescaleBits vs = 0 := by
  have h0 : (vs.all fun v => fits56 (v / 2 ^ 0) && fits56 (-((-v) / 2 ^ 0))) = true := by
    simp only [pow_zero, Int.ediv_one, neg_neg, Bool.and_self, List.all_eq_true]
    exact h
  simp only [rescaleBits, List.range_succ_eq_map, List.find?_cons, h0, Option.getD_some]

theorem accAdd_of_fits {mode : Nat} {a b : AccBlk} {g : Gen} (h : ∀ v ∈ alignedSums a b, fits56 v = true) :
    accAdd mode a b g = (accOf (min a.f b.f) (alignedSums a b), false, g) := if_pos (rescaleBits_of_fits h)

/-- Settles O14: sums that fit need no rescale, and the word of a value that fits holds it. -/
theorem accumulationIsExact : Obligations.AccumulationIsExact := by
  unfold Obligations.AccumulationIsExact
  intro mode a b g ha hb hfit
  have hlen := length_alignedSums ha hb
  have hall : ∀ v ∈ alignedSums a b, fits56 v = true := fun v hv => by
    obtain ⟨i, hi, rfl⟩ := List.mem_iff_getElem.1 hv
    have hi' : i < 32 := hlen ▸ hi
    rw [← List.getD_eq_getElem _ 0 hi, getD_alignedSums ha hb hi']
    exact hfit i hi'
  rw [accAdd_of_fits hall]
  refine ⟨rfl, rfl, rfl, by simpa [accOf] using hlen, bad_accOf hall, fun i hi => ?_⟩
  rw [accVals_accOf hall]
  exact getD_alignedSums ha hb hi

/-! ## Block flags -/

/-- Settles O16: BLK_UNDER needs zero mantissas, with which no element was clamped. -/
theorem blockFlagsExclude : Obligations.BlockFlagsExclude := by
  unfold Obligations.BlockFlagsExclude
  intro fmt outfit mode f vs g
  refine ⟨fun ⟨hu, hs⟩ => ?_, fun h => by simp [rqBlock_of_all_zero _ _ _ _ _ h]⟩
  obtain ⟨hv, hz⟩ := (rqBlock_under_iff _ _ _ _ _).1 hu
  rw [rqBlock_of_mantissas_zero _ _ _ _ _ (by simpa using hv) (by simpa using hz)] at hs
  exact Bool.false_ne_true hs

end Sys2Proof.Machine
end

section
/-!
SUPPORT. The cycle that passes when no command waits (R380, R447), and the state after power-on reset.
-/
namespace Sys2Proof.Machine

/-! ## One MILE cycle -/

theorem after_mileTick (s : State) : after mileTick s = { s with
    mile := s.mile + BitVec.ofNat 64 (mileStep s.milestone s.posNs).1
    milestone := { s.milestone with slew := (mileStep s.milestone s.posNs).2 } } := rfl

/-- A power-on second passes, or does not. -/
theorem after_secondTick_wrap {s : State} (h : s.posNs + 1 = 1000000000) :
    after secondTick s = { s with posNs := 0, nvm := { s.nvm with pos := (s.nvm.pos + 1) % 2 ^ 32 } } := by
  simp only [after, secondTick, if_pos h, apAll_seqA_cons, apAll_seqA_nil]
  rfl

theorem after_secondTick {s : State} (h : s.posNs + 1 ≠ 1000000000) : after secondTick s = { s with posNs := s.posNs + 1 } := by
  simp only [after, secondTick, if_neg h]
  rfl

/-- The credits' growth changes dies alone. -/
theorem after_creditTick (s : State) : after creditTick s = { s with dies := (after creditTick s).dies } := by
  refine after_overlay [.dies] ?_
  exact allowed_forA _ _ s fun d _ s => by simp

theorem after_whenA_creditTick (c : State → Bool) (s : State) :
    after (whenA c creditTick) s = { s with dies := (after (whenA c creditTick) s).dies } := by
  rw [after_whenA]
  split
  · exact after_creditTick s
  · rfl

/-- A cycle on the auxiliary supply: the counter, then the second, then the credits. -/
theorem after_tick {s : State} (h : s.power.vaux = true) :
    after tick s = after (whenA (fun s => s.power.rails && !s.power.gated) creditTick) (after secondTick (after mileTick s)) := by
  simp only [after, tick, h, Bool.true_eq_false, if_false, apAll_seqA_cons, apAll_seqA_nil]

/-- Settles O2: a cycle sets the counter and the second, and lets credits grow. -/
theorem idleStepIsOneCycle : Obligations.IdleStepIsOneCycle := by
  unfold Obligations.IdleStepIsOneCycle
  intro s hp
  have hstep : step s = .next (after tick s) := by simp [step, hp, runAct]
  refine ⟨fun hv => ?_, fun hv => ⟨_, hstep, ?_⟩⟩
  · rw [hstep, after, tick, if_pos hv]
    rfl
  · set s1 := after mileTick s with hs1
    set s2 := after secondTick s1 with hs2
    set t := after (whenA (fun s => s.power.rails && !s.power.gated) creditTick) s2 with ht
    have htick : after tick s = t := after_tick hv
    have hd : t = { s2 with dies := t.dies } := after_whenA_creditTick _ s2
    have h1 : s1 = { s with mile := s1.mile, milestone := s1.milestone } := rfl
    have hmile : s.milestone.slew = 0 → s1.mile = s.mile + 1 := fun h0 => by simp [hs1, after_mileTick, mileStep, h0]
    have h2 : s2 = { s1 with posNs := s2.posNs, nvm := { s1.nvm with pos := s2.nvm.pos } } ∧
        (s.posNs + 1 = 1000000000 → s2.posNs = 0 ∧ s2.nvm.pos = (s.nvm.pos + 1) % 2 ^ 32) ∧
        (s.posNs + 1 ≠ 1000000000 → s2.posNs = s.posNs + 1 ∧ s2.nvm = s.nvm) := by
      by_cases hs : s.posNs + 1 = 1000000000
      · have e : s2 = _ := after_secondTick_wrap (s := s1) hs
        rw [e]
        exact ⟨rfl, fun _ => ⟨rfl, rfl⟩, fun h => absurd hs h⟩
      · have e : s2 = _ := after_secondTick (s := s1) hs
        rw [e]
        exact ⟨rfl, fun h => absurd h hs, fun _ => ⟨rfl, rfl⟩⟩
    obtain ⟨hf, hwrap, hgo⟩ := h2
    have hnvm : t.nvm = s2.nvm := (congrArg State.nvm hd :)
    have hpos : t.posNs = s2.posNs := (congrArg State.posNs hd :)
    rw [htick, hnvm, hpos]
    refine ⟨fun h0 => ?_, hwrap, hgo, fun hr => ?_, (congrArg State.nvm hf :), ?_⟩
    · rw [← hmile h0]
      exact (congrArg State.mile hd :).trans (congrArg State.mile hf :)
    · have hp : s2.power = s.power := (congrArg State.power hf :)
      rw [ht, after_whenA, hp, hr]
      exact (congrArg State.dies hf :)
    · rw [hd, hf, h1]

/-! ## Power-on reset -/

theorem ofCode_code (b : Blk) : Blk.ofCode b.code = some b := by cases b <;> rfl

/-- A register that nothing has written reads its reset value. -/
theorem reg_reset {b : Blk} {i off : Nat} (hi : i < 1048576) (ho : off < 65536) : State.reset.reg b i off = regReset b off := by
  have hb : regKey b i off / 68719476736 = b.code := by
    simp only [regKey]
    omega
  have hk : regKey b i off % 65536 = off := by
    simp only [regKey]
    omega
  change regResetKey (regKey b i off) = regReset b off
  rw [regResetKey, hb, ofCode_code, hk]
  rfl

theorem getD_replicate_zero {n i d : Nat} (h : i < n) : (List.replicate n 0).getD i d = 0 := by
  simp [List.getD_eq_getElem?_getD, h]

/-- Settles O4: by the values of the state after reset. -/
theorem resetState : Obligations.ResetState := by
  unfold Obligations.ResetState
  refine ⟨by decide, fun b i off hi ho => reg_reset hi ho, fun a => rfl, fun d hd => getD_replicate_zero hd,
    fun n hn => getD_replicate_zero hn, fun n hn => getD_replicate_zero hn, fun g hg => ?_, rfl, rfl, rfl, rfl, fun t => ⟨rfl, rfl, ?_⟩,
    fun i => rfl, fun n hn => ?_, rfl, rfl⟩
  · exact getD_replicate_zero hg
  · have hr : State.reset.reg .til (tileKey t) F.TIL_ARR_STS_STATE.off = regReset .til F.TIL_ARR_STS_STATE.off :=
      reg_reset ((tileKey_lt t).trans (by decide)) (by decide)
    change F.TIL_ARR_STS_STATE.of (State.reset.reg .til (tileKey t) F.TIL_ARR_STS_STATE.off) = 0
    rw [hr]
    decide
  · have hr : State.reset.reg .trl n F.TRL_LNK_STS_STATE.off = regReset .trl F.TRL_LNK_STS_STATE.off := reg_reset (by omega) (by decide)
    change F.TRL_LNK_STS_STATE.of (State.reset.reg .trl n F.TRL_LNK_STS_STATE.off) = 0
    rw [hr]
    decide

end Sys2Proof.Machine
end

section
/-!
SUPPORT. Register writes by the access codes (R9), and refused ones (R496).
-/
namespace Sys2Proof.Machine

/-! ## A field written by its access code -/

/-- What a write of v leaves of a word, for one field. -/
def writeCode (v : Word) (a : Word) (f : RegFld) : Word :=
  let m := maskOf f.hi f.lo
  match f.acc with
  | .rw => (a &&& ~~~m) ||| (v &&& m)
  | .w1c => a &&& ~~~(v &&& m)
  | .rsw1c => a &&& ~~~(v &&& m)
  | .w1s => a ||| (v &&& m)
  | _ => a

theorem writeCodes_eq_foldl (r : RegRow) (w v : Word) : writeCodes r w v = r.flds.foldl (writeCode v) w := rfl

/-- What a write of v leaves of a field of a word, as a word whose field it is. -/
def codeWord (acc : Acc) (w v : Word) : Word :=
  match acc with
  | .rw => v
  | .w1c | .rsw1c => w &&& ~~~v
  | .w1s => w ||| v
  | _ => w

theorem getLsbD_writeCode (v a : Word) {f : RegFld} (hl : f.lo ≤ f.hi) (hh : f.hi < 64) {j : Nat} (hj : j < 64) :
    (writeCode v a f).getLsbD j = if f.lo ≤ j ∧ j ≤ f.hi then (codeWord f.acc a v).getLsbD j else a.getLsbD j := by
  obtain ⟨hi, lo, acc, rst⟩ := f
  have hm := getLsbD_maskOf hi lo j hl hh
  rw [BitVec.getLsbD_eq_getElem hj] at hm
  by_cases hin : lo ≤ j ∧ j ≤ hi <;> cases acc <;> simp [writeCode, codeWord, hm, hin, hj]

/-- A row's fields lie in the register and apart. -/
def RegRow.apart (r : RegRow) : Bool :=
  r.flds.all (fun f => decide (f.lo ≤ f.hi) && decide (f.hi < 64)) &&
    decide (r.flds.Pairwise fun f g => f.hi < g.lo ∨ g.hi < f.lo)

/-- In a field, the writes of the other fields leave a register as it was. -/
theorem getLsbD_foldl_writeCode (v : Word) {f : RegFld} {j : Nat} (h1 : f.lo ≤ j) (h2 : j ≤ f.hi) :
    ∀ (l : List RegFld) (w : Word), (∀ g ∈ l, g.lo ≤ g.hi ∧ g.hi < 64) → l.Pairwise (fun f g => f.hi < g.lo ∨ g.hi < f.lo) → f ∈ l →
      (l.foldl (writeCode v) w).getLsbD j = (codeWord f.acc w v).getLsbD j := by
  have skip : ∀ (l : List RegFld) (w : Word), (∀ g ∈ l, g.lo ≤ g.hi ∧ g.hi < 64 ∧ (f.hi < g.lo ∨ g.hi < f.lo)) → j < 64 →
      (l.foldl (writeCode v) w).getLsbD j = w.getLsbD j := by
    intro l
    induction l with
    | nil => exact fun w _ _ => rfl
    | cons g l ih =>
      intro w hl hj
      obtain ⟨hg1, hg2, hg3⟩ := hl g (List.mem_cons_self ..)
      rw [List.foldl_cons, ih _ (fun k hk => hl k (List.mem_cons_of_mem _ hk)) hj, getLsbD_writeCode v w hg1 hg2 hj, if_neg (by omega)]
  have code_congr : ∀ w w' : Word, w.getLsbD j = w'.getLsbD j → (codeWord f.acc w v).getLsbD j = (codeWord f.acc w' v).getLsbD j :=
    fun w w' h => by unfold codeWord; cases f.acc <;> simp [h]
  intro l
  induction l with
  | nil => exact fun w _ _ hf => absurd hf List.not_mem_nil
  | cons g l ih =>
    intro w hl hp hf
    obtain ⟨hg1, hg2⟩ := hl g (List.mem_cons_self ..)
    obtain ⟨hgl, hp'⟩ := List.pairwise_cons.1 hp
    rw [List.foldl_cons]
    obtain rfl | hf' := List.mem_cons.1 hf
    · rw [skip l _ (fun k hk => ⟨(hl k (List.mem_cons_of_mem _ hk)).1, (hl k (List.mem_cons_of_mem _ hk)).2, hgl k hk⟩) (by omega),
        getLsbD_writeCode v w hg1 hg2 (by omega), if_pos ⟨h1, h2⟩]
    · have hfg := hgl f hf'
      have hf64 := hl f hf
      rw [ih _ (fun k hk => hl k (List.mem_cons_of_mem _ hk)) hp' hf']
      refine code_congr _ _ ?_
      rw [getLsbD_writeCode v w hg1 hg2 (by omega), if_neg (by omega)]

/-- A write acts on each field of a row by its access code. -/
theorem bitsOf_writeCodes {r : RegRow} (hr : r.apart = true) {f : RegFld} (hf : f ∈ r.flds) (w v : Word) :
    bitsOf (writeCodes r w v) f.hi f.lo = bitsOf (codeWord f.acc w v) f.hi f.lo := by
  simp only [RegRow.apart, Bool.and_eq_true, List.all_eq_true, decide_eq_true_eq] at hr
  obtain ⟨hin, hap⟩ := hr
  apply Nat.eq_of_testBit_eq
  intro j
  rw [testBit_bitsOf, testBit_bitsOf]
  by_cases hj : j < f.hi + 1 - f.lo
  · rw [writeCodes_eq_foldl, getLsbD_foldl_writeCode v (by omega) (by omega) r.flds w hin hap hf]
  · simp [hj]

/-- Every row of these blocks is well formed. -/
theorem apart_of_rowOf {b : Blk} (hb : b ∈ [Blk.chk, .cal, .prt, .eth]) {off : Nat} {r : RegRow} (h : rowOf b off = some r) :
    r.apart = true := by
  have hmem : r ∈ regRows b := List.mem_of_find?_eq_some h
  have hall : ∀ b ∈ [Blk.chk, .cal, .prt, .eth], ∀ r ∈ regRows b, r.apart = true := by decide +kernel
  exact hall b hb r hmem

/-! ## Addresses -/

theorem dieTarget_off_lt {d o i off : Nat} {b : Blk} (h : dieTarget d o = .reg b i off) : off < 65536 := by
  unfold dieTarget at h
  split at h
  · split at h <;> cases h
    omega
  · split at h
    · dsimp only at h
      split at h <;> cases h
      omega
    · cases h

theorem sysTarget_off_lt {o i off : Nat} {b : Blk} (h : sysTarget o = .reg b i off) : off < 65536 := by
  unfold sysTarget at h
  split_ifs at h <;> cases h
  all_goals omega

/-- An address names a register at an offset below 64 KiB. -/
theorem target_off_lt {a i off : Nat} {b : Blk} (h : target a = .reg b i off) : off < 65536 := by
  unfold target at h
  split_ifs at h
  · dsimp only at h
    split at h <;> cases h
  · exact dieTarget_off_lt h
  · split at h <;> cases h
    omega
  · exact sysTarget_off_lt h

/-! ## What stays quiet -/

/-- Requests and completions that wait are those that waited before. -/
theorem quiet_of_reads {s t : State} (hp : ∀ n, (t.port n).held = (s.port n).held)
    (hd : ∀ d, (t.die d).dma0 = (s.die d).dma0 ∧ (t.die d).dma1 = (s.die d).dma1) : t.quiet = s.quiet := by
  simp [State.quiet, State.dma, hp, hd]

theorem quiet_logEv (s : State) (hc : s.canon = true) (d : Option Nat) (cls sev code unit part job : Nat) (h : Word32) (detail : List Byte) :
    (after (logEv d cls sev code unit part job h detail) s).quiet = s.quiet := by
  refine quiet_of_reads (fun n => ?_) fun d' => ?_
  · exact after_portRel (R := fun _ x y => y.held = x.held) (fun _ _ => rfl) (fun _ _ _ _ h1 h2 => h2.trans h1) hc
      (allowed_logEv (allowsReports_portRel fun _ x y hy => by rw [hy]) _ _ _ _ _ _ _ _ _ s) n
  · exact after_dieRel (R := fun _ x y => y.dma0 = x.dma0 ∧ y.dma1 = x.dma1) (fun _ _ => ⟨rfl, rfl⟩)
      (fun _ _ _ _ h1 h2 => ⟨h2.1.trans h1.1, h2.2.trans h1.2⟩) hc
      (allowed_logEv (allowsReports_dieRel fun _ x y hy => by rw [hy]; exact ⟨rfl, rfl⟩) _ _ _ _ _ _ _ _ _ s) d'

/-! ## A refused access (R496) -/

/-- A refused access shows its requester's partition and the block's type, and is counted. -/
theorem refuse_viol (s : State) (hc : s.canon = true) (src : Src) (w : Bool) (b : Blk) (i off addr : Nat) :
    let t := after (refuse src w b i off addr) s
    t.fld F.SEC_VIOL_COUNT 0 = min (s.fld F.SEC_VIOL_COUNT 0 + 1) F.SEC_VIOL_COUNT.top ∧
      t.fld F.SEC_VIOL_PART 0 = (s.srcPart src).getD 0x3F % 64 ∧ t.fld F.SEC_VIOL_TYPE 0 = b.code % 65536 ∧ t.quiet = s.quiet := by
  set s1 := after (bump F.SEC_VIOL_COUNT 0 1) s with hs1
  set s2 := after (setF F.SEC_VIOL_PART 0 ((s.srcPart src).getD 0x3F)) s1 with hs2
  set s3 := after (setF F.SEC_VIOL_TYPE 0 b.code) s2 with hs3
  have hc1 : s1.canon = true := after_canon _ s hc
  have hc2 : s2.canon = true := after_canon _ s1 hc1
  have hc3 : s3.canon = true := after_canon _ s2 hc2
  obtain ⟨d, cls, sev, code, unit, part, job, h, detail, ht⟩ : ∃ d cls sev code unit part job h detail,
      after (refuse src w b i off addr) s = after (logEv d cls sev code unit part job h detail) s3 := by
    simp only [after, refuse, apAll_seqA_cons, apAll_seqA_nil, hs1, hs2, hs3]
    exact ⟨_, _, _, _, _, _, _, _, _, rfl⟩
  have hlog := reports_logEv d cls sev code unit part job h detail s3 hc3
  have hfld : ∀ f : Fld, f.blk = .sec ∧ f.off = 0x1C0 →
      (after (logEv d cls sev code unit part job h detail) s3).fld f 0 = s3.fld f 0 := fun f hf =>
    fld_of_regsButEvt hlog.2.2.2.2 List.not_mem_nil (not_evtKey_of_off (.inl (by rw [hf.2]; decide)))
  have hq3 : s3.quiet = s.quiet := quiet_of_reads (fun n => by simp [hs1, hs2, hs3, bump, setF]) fun d => by simp [hs1, hs2, hs3, bump, setF]
  rw [ht]
  refine ⟨?_, ?_, ?_, (quiet_logEv s3 hc3 _ _ _ _ _ _ _ _ _).trans hq3⟩
  · rw [hfld _ ⟨rfl, rfl⟩, hs3, fld_setF_bits s2 hc2 _ _ _ _ _ (by decide) (by decide) (by decide), hs2,
      fld_setF_bits s1 hc1 _ _ _ _ _ (by decide) (by decide) (by decide), hs1]
    exact fld_bump s hc F.SEC_VIOL_COUNT 0 1 (by decide) (by decide)
  · rw [hfld _ ⟨rfl, rfl⟩, hs3, fld_setF_bits s2 hc2 _ _ _ _ _ (by decide) (by decide) (by decide), hs2]
    exact fld_setF_same s1 hc1 F.SEC_VIOL_PART 0 _ (by decide) (by decide)
  · rw [hfld _ ⟨rfl, rfl⟩, hs3]
    exact fld_setF_same s2 hc2 F.SEC_VIOL_TYPE 0 _ (by decide) (by decide)

/-! ## The statement -/

/-- The blocks whose plain registers these are: no register of theirs has an effect of its own, but one. -/
theorem hostWrite_of_plain {s : State} {src : Src} {addr i off : Nat} {b : Blk} (v : Word) (h8 : addr % 8 = 0)
    (ht : target addr = .reg b i off) (hb : b ∈ [Blk.chk, .cal, .prt, .eth]) (hn : ¬ (b = .cal ∧ off = 0x110)) :
    hostWrite src addr v s = guardW src b i off (writeReg b i off v) s := by
  obtain ⟨hi, ho⟩ := target_reg ht
  have hown : off ∉ ownWrites b := by
    fin_cases hb <;> simp_all [ownWrites]
  have hns : noStack b i off = false := by
    fin_cases hb <;> rfl
  have hldr : b ≠ .ldr ∧ b ≠ .bfp := by
    fin_cases hb <;> decide
  simp only [hostWrite, ht, resolve_eq_self s src i off hldr.1 hldr.2]
  rw [regWrite_eq src v (by omega) hown hi, hns]
  rfl

end Sys2Proof.Machine

open Sys2Proof Sys2Proof.Machine

/-- Settles O7: a write goes by the fields' access codes, or is refused. -/
theorem registerWrites : Obligations.RegisterWrites := by
  unfold Obligations.RegisterWrites
  refine ⟨fun s src addr v b i off r f hc hq h8 ht hb hn htk hr hf => ?_, fun s n addr v b i off hc hq h8 ht hb hn had => ?_⟩
  · have hk : b.isKeeper = false := by fin_cases hb <;> rfl
    have had : s.admits src true b i off = true := by
      simp only [State.takes, Bool.and_eq_true] at htk
      exact htk.1
    have hw : hostWrite src addr.toNat v s = [.reg b i off (writeCodes r (s.reg b i off) v)] := by
      rw [hostWrite_of_plain v h8 ht hb hn]
      simp [guardW, hk, had, writeReg, hr]
    set t := (Eff.reg b i off (writeCodes r (s.reg b i off) v)).ap s with htt
    have hqt : t.quiet = true := by
      rw [← hq]
      exact quiet_of_reads (fun n => by simp [htt]) fun d => by simp [htt]
    have hreg : t.reg b i off = writeCodes r (s.reg b i off) v := by rw [htt, reg_ap_reg s hc, if_pos rfl]
    refine ⟨t, ?_, ?_, fun k hkey => ?_, rfl⟩
    · have hat : after (hostWrite src addr.toNat v) s = t := by rw [after, hw, apAll_cons, apAll_nil]
      rw [exec_registerWrite_of_aligned s src addr v h8, hat, after_pumpAll_of_quiet t hqt]
    · rw [hreg, bitsOf_writeCodes (apart_of_rowOf hb hr) hf]
      unfold codeWord
      cases f.acc <;> rfl
    · exact SMap.get_set_other _ _ _ _ _ (canon_regs s hc) (by simpa using hkey)
  · have hk : b.isKeeper = false := by fin_cases hb <;> rfl
    have hw : hostWrite (.port n) addr.toNat v s = refuse (.port n) true b i off (regAddr b i off) s := by
      rw [hostWrite_of_plain v h8 ht hb hn]
      simp [guardW, hk, had]
    set t := after (refuse (.port n) true b i off (regAddr b i off)) s with htt
    obtain ⟨h1, h2, h3, hqt⟩ := refuse_viol s hc (.port n) true b i off (regAddr b i off)
    have hrep : ButReports [regKey .sec 0 F.SEC_VIOL_COUNT.off] s t := reports_refuse _ _ _ _ _ _ s hc
    have hsec : b.code < 65536 ∧ b.code ≠ Blk.sec.code ∧ b.code ≠ Blk.trl.code := by fin_cases hb <;> decide
    have hi : i < 32 := by
      have := (target_reg ht).1
      fin_cases hb <;> exact this
    have ho := target_off_lt ht
    refine ⟨t, ?_, h1, h2, h3.trans (Nat.mod_eq_of_lt hsec.1), ?_, hrep⟩
    · have hat : after (hostWrite (.port n) addr.toNat v) s = t := by
        rw [after, hw]
        rfl
      rw [exec_registerWrite_of_aligned s _ addr v h8, hat, after_pumpAll_of_quiet t (hqt.trans hq)]
    · refine hrep.2.2.2.2 _ ?_ ?_
      · intro hmem
        have hkey := List.mem_singleton.1 hmem
        simp only [regKey] at hkey
        omega
      · rintro ⟨m, w, hm, hw', hkey⟩
        simp only [regKey] at hkey
        omega
end

section
/-!
SUPPORT. The footprint of units' accesses to stack memory at the slices (R264–R273, R281, R424), and of what they store there.
-/
namespace Sys2Proof.Machine

/-- The STK_ registers that accesses at the slices write, by their offsets. -/
def sliceOff (o : Nat) : Bool := [0x108, 0x110, 0x128, 0x130, 0x200, 0x208, 0x218, 0x220].contains o

/-- The STK_ registers that accesses at the slices write: those that count words and reads of the stacks are a die's. -/
def sliceReg (i o : Nat) : Prop := sliceOff o = true ∧ (o < 0x130 → i < 32)

/-- What an effect of a unit's access at the slices can be: the slices' lines and requests, the STK_ registers, and reports. The words that
hold the poison mark stay. -/
def Sliced (s : State) (e : Eff) : Prop :=
  match e with
  | .reg b i o _ => evtKey (regKey b i o) ∨ b = .stk ∧ sliceReg i o
  | .die d x => DieSlices (s.die d) x
  | .poison l => ∀ w, w ∈ l ↔ w ∈ s.poison
  | e => Report s e

/-- The footprint P leaves room for accesses at the slices. -/
def AllowsSlices (P : State → Eff → Prop) : Prop := ∀ s e, Sliced s e → P s e

theorem AllowsSlices.reports {P : State → Eff → Prop} (h : AllowsSlices P) : AllowsReports P := fun s e he => by
  refine h s e ?_
  cases e with
  | reg => exact .inl he
  | die d x =>
    change x = _ at he
    change DieSlices _ _
    rw [he]
    rfl
  | poison => exact he.elim
  | _ => exact he

/-- What an access at the slices does to a die: its lines and the requests for them. -/
def DieLines (x y : Die) : Prop :=
  y = { x with cache := y.cache, trackers := y.trackers, lastMiss := y.lastMiss, missQ := y.missQ, pfQ := y.pfQ }

/-- What an effect of an access to words without poison can be: the slices' lines and requests, and the STK_ registers. -/
def LineEff (s : State) (e : Eff) : Prop :=
  match e with
  | .reg b i o _ => b = .stk ∧ sliceReg i o
  | .die d x => DieLines (s.die d) x
  | _ => False

/-! ## Lines in the stacks -/

theorem dieOfStack_lt {a : Nat} (h : a < 0x018000000000) : dieOfStack (a / 2 ^ 37) < 32 := by
  simp only [dieOfStack]
  split <;> omega

theorem lineDie_lt {line : Nat} (h : line < 0x180000000) : lineDie line < 32 := dieOfStack_lt (by omega)

theorem lt_of_mem_linesOf {a n l : Nat} (h : inStacks a n = true) (hl : l ∈ linesOf a n) : l < 0x180000000 := by
  simp only [inStacks, decide_eq_true_eq] at h
  simp only [linesOf] at hl
  split at hl
  · exact absurd hl List.not_mem_nil
  · obtain ⟨i, hi, rfl⟩ := List.mem_map.1 hl
    have := List.mem_range.1 hi
    omega

/-- The footprint P leaves room for accesses to words without poison. -/
def AllowsLines (P : State → Eff → Prop) : Prop := ∀ s e, LineEff s e → P s e

theorem AllowsSlices.lines {P : State → Eff → Prop} (h : AllowsSlices P) : AllowsLines P := fun s e he => by
  refine h s e ?_
  cases e with
  | reg => exact .inr he
  | die d x =>
    change x = _ at he
    change DieSlices _ _
    rw [he]
    rfl
  | _ => exact he.elim

section
variable {P : State → Eff → Prop} (hP : AllowsLines P)
include hP

theorem AllowsLines.stk : (∀ s i v, i < 32 → P s (.reg .stk i 0x108 v)) ∧ (∀ s i v, i < 32 → P s (.reg .stk i 0x110 v)) ∧
    (∀ s i v, i < 32 → P s (.reg .stk i 0x128 v)) ∧ (∀ s i v, P s (.reg .stk i 0x130 v)) ∧ (∀ s i v, P s (.reg .stk i 0x200 v)) ∧
    (∀ s i v, P s (.reg .stk i 0x208 v)) ∧ (∀ s i v, P s (.reg .stk i 0x218 v)) ∧ (∀ s i v, P s (.reg .stk i 0x220 v)) := by
  have h : ∀ o, sliceOff o = true → ∀ s i v, (o < 0x130 → i < 32) → P s (.reg .stk i o v) := fun o ho s i v hi => hP s _ ⟨rfl, ho, hi⟩
  have hd : ∀ o, sliceOff o = true → ∀ s i v, i < 32 → P s (.reg .stk i o v) := fun o ho s i v hi => h o ho s i v fun _ => hi
  have ha : ∀ o, sliceOff o = true → 0x130 ≤ o → ∀ s i v, P s (.reg .stk i o v) := fun o ho hle s i v => h o ho s i v (by omega)
  exact ⟨hd _ rfl, hd _ rfl, hd _ rfl, ha _ rfl (by decide), ha _ rfl (by decide), ha _ rfl (by decide), ha _ rfl (by decide), ha _ rfl (by decide)⟩

/-- A change of a die's lines and requests. -/
theorem allowed_modDie_lines {d : Nat} {f : Die → Die} (h : ∀ x, DieLines x (f x)) (s : State) : Allowed P (modDie d f s) s :=
  (allowed_modDie s d f).2 (hP s _ (h _))

theorem allowed_touchLine (d line : Nat) (f : CLine → CLine) (s : State) : Allowed P (touchLine d line f s) s := by
  refine allowed_modDie_lines hP (fun x => ?_) s
  dsimp only
  split <;> rfl

theorem allowed_allocLine (d : Nat) (c : CLine) (s : State) : Allowed P (allocLine d c s) s := by
  have hs := hP.stk
  have hd : ∀ (key : Nat) (l : List CLine) (s : State), Allowed P (modDie d (fun x => x.putSet key l) s) s :=
    fun key l s => allowed_modDie_lines hP (fun _ => by rfl) s
  simp only [allocLine]
  split
  · exact .nil _
  · split
    · exact hd _ _ s
    · split
      · simp only [allowed_seqA_cons, allowed_whenA, writeBack, allowed_bump, allowed_bumpW, allowed_seqA_nil, hs]
        exact ⟨fun _ => ⟨trivial, trivial, trivial⟩, hd _ _ _, trivial⟩
      · exact .nil _

theorem allowed_prefetch (d line : Nat) (s : State) : Allowed P (prefetch d line s) s := by
  have hs := hP.stk
  simp only [prefetch]
  split
  · exact .nil _
  · split
    · simp only [allowed_seqA_cons, allowed_bump, allowed_seqA_nil, hs]
      exact ⟨trivial, allowed_modDie_lines hP (fun _ => by rfl) _, trivial⟩
    · exact allowed_modDie_lines hP (fun _ => by rfl) s

theorem allowed_ahead (d line : Nat) (up : Bool) (s : State) : Allowed P (ahead d line up s) s :=
  allowed_forA _ _ s fun l _ s => allowed_prefetch hP d l s

theorem allowed_trackHit (d line : Nat) (s : State) : Allowed P (trackHit d line s) s := by
  simp only [trackHit]
  split
  · exact .nil _
  · split
    · exact .nil _
    · exact (allowed_seqA_cons _ _ s).2 ⟨allowed_modDie_lines hP (fun _ => by rfl) s, (allowed_seqA_cons _ _ _).2 ⟨allowed_ahead hP _ _ _ _, .nil _⟩⟩

theorem allowed_trackMiss (d line : Nat) (s : State) : Allowed P (trackMiss d line s) s := by
  simp only [trackMiss]
  split
  · exact .nil _
  · split
    · exact (allowed_seqA_cons _ _ s).2 ⟨allowed_modDie_lines hP (fun _ => by rfl) s, (allowed_seqA_cons _ _ _).2 ⟨allowed_ahead hP _ _ _ _, .nil _⟩⟩
    · exact allowed_modDie_lines hP (fun _ => by rfl) s

end

section
variable {P : State → Eff → Prop} (hP : AllowsSlices P)
include hP

theorem AllowsSlices.out (s : State) (o : Out) : P s (.out o) := hP s _ trivial

theorem allowed_fillWord {a : Nat} (hin : a < 0x018000000000) (s : State) : Allowed P (fillWord a .ok false s) s := by
  have hs := hP.lines.stk
  have hdie := dieOfStack_lt hin
  simp only [fillWord]
  split
  · next h =>
    have ha : a ∈ s.poison := by simpa using h
    simp only [badWord, allowed_seqA_cons, allowed_bump, allowed_setF, allowed_setB, allowed_seqA_nil, poisonWord, allowed_eff, hs, hdie, true_and, and_true]
    refine ⟨hP _ _ fun w => ?_, allowed_logEv hP.reports _ _ _ _ _ _ _ _ _ _⟩
    simp only [bump, setF, setB, after_withA, after_eff, ap_reg_fields, List.mem_append, List.mem_filter, List.mem_singleton, decide_eq_true_eq]
    grind
  · simp

theorem allowed_lineWords {line : Nat} (hin : line < 0x180000000) (s : State) : Allowed P (lineWords line [] s) s :=
  allowed_forA _ _ s fun i hi s => allowed_fillWord hP (by have := List.mem_range.1 hi; omega) s

/-- A unit reads a line at its owner's slice (R264, R269). -/
theorem allowed_sliceRead (bulk : Bool) {line : Nat} (hin : line < 0x180000000) (s : State) : Allowed P (sliceRead bulk line s) s := by
  have hs := hP.lines.stk
  have hdie := lineDie_lt hin
  simp only [sliceRead]
  split <;>
    simp only [allowed_seqA_cons, allowed_whenA, allowed_bump, allowed_bumpW, allowed_seqA_nil, hs, hdie, allowed_touchLine hP.lines, allowed_trackHit hP.lines,
      allowed_trackMiss hP.lines, allowed_lineWords hP hin, allowed_allocLine hP.lines] <;> simp

/-- A unit writes a line at its owner's slice (R269). -/
theorem allowed_sliceWrite (bulk : Bool) {line : Nat} (hin : line < 0x180000000) (n : Nat) (s : State) : Allowed P (sliceWrite bulk line n s) s := by
  have hs := hP.lines.stk
  have hdie := lineDie_lt hin
  simp only [sliceWrite]
  split <;>
    simp only [allowed_seqA_cons, allowed_whenA, allowed_bump, allowed_bumpW, allowed_seqA_nil, allowed_iteAct, hs, hdie, allowed_touchLine hP.lines,
      allowed_trackHit hP.lines, allowed_trackMiss hP.lines, allowed_lineWords hP hin, allowed_allocLine hP.lines] <;> simp

theorem allowed_sliceReads (bulk : Bool) (a n : Nat) (s : State) : Allowed P (sliceReads bulk a n s) s :=
  (allowed_whenA _ _ s).2 fun h => allowed_forA _ _ s fun _ hl s => allowed_sliceRead hP bulk (lt_of_mem_linesOf h hl) s

theorem allowed_sliceWrites (bulk : Bool) (a n : Nat) (s : State) : Allowed P (sliceWrites bulk a n s) s :=
  (allowed_whenA _ _ s).2 fun h => allowed_forA _ _ s fun _ hl s => allowed_sliceWrite hP bulk (lt_of_mem_linesOf h hl) _ s

end

/-! ## Accesses where no word holds the poison mark -/

/-- A line without a word that holds the mark is read without a report. -/
theorem allowed_lineWords_sound {P : State → Eff → Prop} {s : State} (h : s.poison = []) (line : Nat) : Allowed P (lineWords line [] s) s := by
  have hnil : ∀ l : List Nat, forA l (fun i => fillWord (line * 256 + 32 * i) (([] : List Ecc).getD i .ok) false) s = [] := fun l => by
    induction l with
    | nil => rfl
    | cons i l ih =>
      have hi : fillWord (line * 256 + 32 * i) (([] : List Ecc).getD i .ok) false s = [] := by simp [fillWord, h]
      have hs : after (fillWord (line * 256 + 32 * i) (([] : List Ecc).getD i .ok) false) s = s := by rw [after, hi]; rfl
      rw [forA, List.map_cons, seqA, hi, hs]
      exact ih
  rw [lineWords, hnil]
  exact .nil s

/-- What accesses to words without poison leave: all but the slices' lines and their registers. -/
def LinesOnly (s t : State) : Prop :=
  t = { s with regs := t.regs, dies := t.dies } ∧ (∀ d, DieLines (s.die d) (t.die d)) ∧
    ∀ k, (∀ i o, sliceReg i o → k ≠ regKey .stk i o) → SMap.get regResetKey t.regs k = SMap.get regResetKey s.regs k

theorem DieLines.refl (x : Die) : DieLines x x := rfl

theorem DieLines.trans {x y z : Die} (h1 : DieLines x y) (h2 : DieLines y z) : DieLines x z := by
  rw [DieLines] at *
  rw [h2, h1]

theorem composes_lines : Composes LinesOnly where
  refl _ := ⟨rfl, fun _ => DieLines.refl _, fun _ _ => rfl⟩
  trans a b c h1 h2 := by
    obtain ⟨h11, h12, h13⟩ := h1
    obtain ⟨h21, h22, h23⟩ := h2
    exact ⟨by rw [h21, h11], fun d => (h12 d).trans (h22 d), fun k hk => (h23 k hk).trans (h13 k hk)⟩

theorem linesOnly_ap {s : State} {e : Eff} (hc : s.canon = true) (h : LineEff s e) : LinesOnly s (e.ap s) := by
  cases e with
  | reg b i o v =>
    obtain ⟨rfl, ho⟩ := h
    exact ⟨rfl, fun _ => DieLines.refl _, fun k hk => SMap.get_set_other _ _ _ _ _ (canon_regs s hc) (hk i o ho)⟩
  | die d x =>
    refine ⟨rfl, fun d' => ?_, fun _ _ => rfl⟩
    rw [die_ap_die s hc]
    split
    · next hd => exact hd ▸ h
    · exact DieLines.refl _
  | _ => exact h.elim

theorem after_linesOnly {a : Act} {s : State} (hc : s.canon = true) (h : Allowed LineEff (a s) s) : LinesOnly s (after a s) :=
  h.rel composes_lines (fun _ _ hc he => linesOnly_ap hc he) hc

theorem poison_after_counts {s : State} (hp : s.poison = []) (f g : Fld) (i j n m : Nat) :
    (after (bumpW g j m) (after (bump f i n) s)).poison = [] := by
  rw [after_read_eq (fs := [.regs]) State.poison (by simp) fun _ => rfl, after_read_eq (fs := [.regs]) State.poison (by simp) fun _ => rfl, hp]

theorem allowed_sliceRead_sound {s : State} (hp : s.poison = []) (bulk : Bool) {line : Nat} (hin : line < 0x180000000) :
    Allowed LineEff (sliceRead bulk line s) s := by
  have hP : AllowsLines LineEff := fun _ _ h => h
  have hs := hP.stk
  have hdie := lineDie_lt hin
  simp only [sliceRead]
  split
  · simp only [allowed_seqA_cons, allowed_whenA, allowed_bump, allowed_seqA_nil, hs, allowed_touchLine hP, allowed_trackHit hP]
    simp
  · simp only [allowed_seqA_cons, allowed_whenA, allowed_bump, allowed_bumpW, allowed_seqA_nil, hs, hdie, allowed_allocLine hP, allowed_trackHit hP,
      allowed_trackMiss hP]
    exact ⟨trivial, trivial, allowed_lineWords_sound (poison_after_counts hp ..) line, by simp, trivial⟩

theorem allowed_sliceWrite_sound {s : State} (hp : s.poison = []) (bulk : Bool) {line : Nat} (hin : line < 0x180000000) (n : Nat) :
    Allowed LineEff (sliceWrite bulk line n s) s := by
  have hP : AllowsLines LineEff := fun _ _ h => h
  have hs := hP.stk
  have hdie := lineDie_lt hin
  simp only [sliceWrite]
  split
  · simp only [allowed_seqA_cons, allowed_whenA, allowed_bump, allowed_bumpW, allowed_iteAct, allowed_seqA_nil, hs, allowed_touchLine hP, allowed_trackHit hP]
    simp
  · simp only [allowed_seqA_cons, allowed_whenA, allowed_bump, allowed_bumpW, allowed_iteAct, allowed_seqA_nil, hs, hdie, allowed_allocLine hP, allowed_trackHit hP,
      allowed_trackMiss hP]
    exact ⟨trivial, ⟨fun _ => trivial, fun _ => ⟨fun _ => ⟨trivial, allowed_lineWords_sound (poison_after_counts hp ..) line, trivial⟩, by simp⟩⟩, trivial⟩

theorem linesOnly_forA {α : Type} {f : α → Act} :
    ∀ {l : List α}, (∀ x ∈ l, ∀ s : State, s.poison = [] → Allowed LineEff (f x s) s) →
      ∀ {s : State}, s.canon = true → s.poison = [] → LinesOnly s (after (forA l f) s)
  | [], _, s, _, _ => composes_lines.refl s
  | a :: l, hf, s, hc, hp => by
    have ha := after_linesOnly hc (hf a List.mem_cons_self s hp)
    rw [after_forA_cons]
    refine composes_lines.trans _ _ _ ha (linesOnly_forA (fun x hx => hf x (List.mem_cons_of_mem _ hx)) (after_canon _ s hc) ?_)
    rw [ha.1]
    exact hp

theorem linesOnly_sliceReads {s : State} (hc : s.canon = true) (hp : s.poison = []) (bulk : Bool) (a n : Nat) :
    LinesOnly s (after (sliceReads bulk a n) s) := by
  rw [sliceReads, after_whenA]
  split
  · next hin => exact linesOnly_forA (fun _ hl _ h => allowed_sliceRead_sound h bulk (lt_of_mem_linesOf hin hl)) hc hp
  · exact composes_lines.refl s

theorem linesOnly_sliceWrites {s : State} (hc : s.canon = true) (hp : s.poison = []) (bulk : Bool) (a n : Nat) :
    LinesOnly s (after (sliceWrites bulk a n) s) := by
  rw [sliceWrites, after_whenA]
  split
  · next hin => exact linesOnly_forA (fun _ hl _ h => allowed_sliceWrite_sound h bulk (lt_of_mem_linesOf hin hl) _) hc hp
  · exact composes_lines.refl s

end Sys2Proof.Machine
end

section
/-!
SUPPORT. The footprint of what is stored in stack memory through the slices and the snoops that go before it (R424), and of the end of a
passage (R212, R223, R231).
-/
namespace Sys2Proof.Machine

/-! ## Stores -/

/-- What snoops and messages to the host change of a port. -/
def PortSnoop (x y : TPort) : Prop :=
  y = { x with txq := y.txq, credits := y.credits, txSeq := y.txSeq, kept := y.kept, holdoff := y.holdoff, evData := y.evData
               snoops := y.snoops, snpTag := y.snpTag }

/-- What an effect of a unit's store can be: that of an access at the slices, bytes, poison, snoops and the filter's entries. -/
def Stored (s : State) (e : Eff) : Prop :=
  match e with
  | .reg b i o _ => evtKey (regKey b i o) ∨ (b = .stk ∧ sliceReg i o) ∨ (b = .trl ∧ o = F.TRL_SNP_SENT.off)
  | .die d x => DieSlices (s.die d) x
  | .port n x => PortSnoop (s.port n) x
  | .poison _ | .byte _ _ | .filter _ _ => True
  | e => Report s e

/-- What an effect of a snoop can be. -/
def Snooped (s : State) (e : Eff) : Prop :=
  match e with
  | .reg b _ o _ => b = .trl ∧ o = F.TRL_SNP_SENT.off
  | .port n x => PortSnoop (s.port n) x
  | .filter _ _ | .out _ => True
  | _ => False

/-- The footprint P leaves room for snoops. -/
def AllowsSnoops (P : State → Eff → Prop) : Prop := ∀ s e, Snooped s e → P s e

theorem AllowsSnoops.sends {P : State → Eff → Prop} (h : AllowsSnoops P) : AllowsSends P := fun n s e he => by
  cases e with
  | port k x =>
    obtain ⟨rfl, he⟩ := he
    refine h s _ ?_
    change x = _ at he
    change x = _
    rw [he]
  | out => exact h s _ he
  | _ => exact he.elim

/-- The footprint P leaves room for stores. -/
def AllowsStores (P : State → Eff → Prop) : Prop := ∀ s e, Stored s e → P s e

section
variable {P : State → Eff → Prop}

theorem AllowsStores.slices (h : AllowsStores P) : AllowsSlices P := fun s e he => by
  refine h s e ?_
  cases e with
  | reg => exact he.imp_right .inl
  | port n x =>
    change x = _ at he
    change x = _
    rw [he]
  | poison => trivial
  | byte | filter => exact he.elim
  | _ => exact he

theorem AllowsStores.snoops (h : AllowsStores P) : AllowsSnoops P := fun s e he => by
  cases e with
  | reg => exact h s _ (.inr (.inr he))
  | port | filter | out => exact h s _ he
  | _ => exact he.elim

end

section
variable {P : State → Eff → Prop} (hP : AllowsSnoops P)
include hP

theorem allowed_sendSnoop (n line : Nat) (inv : Bool) (s : State) : Allowed P (sendSnoop n line inv s) s := by
  simp only [sendSnoop, allowed_seqA_cons, allowed_modPort, allowed_bump, allowed_seqA_nil, and_true]
  exact ⟨hP _ _ (by exact rfl), hP _ _ ⟨rfl, rfl⟩, allowed_traisSend hP.sends _ _ _⟩

theorem allowed_recallE (l : List (Nat × SfEnt)) (s : State) : Allowed P (recallE l s) s :=
  allowed_forA _ _ s fun _ _ s => allowed_forA _ _ s fun _ _ s => (allowed_whenA _ _ s).2 fun _ => allowed_sendSnoop hP _ _ _ s

theorem allowed_invalidateS (l : List (Nat × SfEnt)) (s : State) : Allowed P (invalidateS l s) s :=
  allowed_forA _ _ s fun _ _ s => (allowed_seqA_cons _ _ s).2
    ⟨allowed_forA _ _ s fun _ _ s => allowed_sendSnoop hP _ _ _ s, (allowed_seqA_cons _ _ _).2 ⟨(allowed_modFilter _ _ _).2 (hP _ _ trivial), .nil _⟩⟩

theorem allowed_putStack (hmark : ∀ s l, P s (.poison l)) {a : Nat} {bs : List Byte} (hbyte : ∀ s x v, a ≤ x → x < a + bs.length → P s (.byte x v))
    (s : State) : Allowed P (putStack a bs s) s := by
  simp only [putStack, allowed_seqA_cons, allowed_whenA, allowed_eff, allowed_seqA_nil, and_true]
  exact ⟨allowed_invalidateS hP _ s, allowed_putBytes _ _ _ fun _ _ _ h1 h2 => hbyte _ _ _ h1 h2, fun _ => hmark _ _⟩

end

section
variable {P : State → Eff → Prop} (hP : AllowsStores P)
include hP

theorem allowed_storeBytes (bulk : Bool) (a : Nat) (bs : List Byte) (s : State) : Allowed P (storeBytes bulk a bs s) s :=
  (allowed_seqA_cons _ _ s).2 ⟨allowed_sliceWrites hP.slices bulk a _ s, (allowed_seqA_cons _ _ _).2
    ⟨allowed_putStack hP.snoops (fun _ _ => hP _ _ trivial) (fun _ _ _ _ _ => hP _ _ trivial) _, .nil _⟩⟩

end

/-! ## Passages that end -/

/-- What the end of a passage changes of a die: what its scheduler holds of the passage, its completions, and what its slices hold. -/
def DieEnds (x y : Die) : Prop :=
  DieSlices { x with sb := y.sb, batches := y.batches, dispBuf := y.dispBuf, routers := y.routers, expCnt := y.expCnt, compQ := y.compQ } y

/-- What an effect of the end of a passage can be, beside the change of the passage itself: input that waits at tiles, what schedulers hold
of it, its completion, and the end of a swap. -/
def Ends (s : State) (e : Eff) : Prop :=
  match e with
  | .reg b i o _ => evtKey (regKey b i o) ∨ b = .stk ∨ b = .trl ∨ (b = .sch ∧ i < 32 ∧ o = F.SCH_BATCH_CNT_COUNT.off) ∨
      (b = .pas ∧ o = F.PAS_CRING_TAIL_TAIL.off) ∨ b = .ldr
  | .core c x => x = { s.core c with ins := x.ins }
  | .die d x => DieEnds (s.die d) x
  | .passage i x => x = { s.passage i with finalAt := x.finalAt, outAt := x.outAt }
  | .job p x => x = { s.job p with swap := x.swap, epoch := x.epoch, shadows := x.shadows, shards := x.shards }
  | .nvm n => n.sansLog = { s.nvm.sansLog with retain := n.retain } ∧ (s.nvm.worn = true → n.worn = true)
  | .keeper k => k = { s.keeper with kHold := k.kHold, kDropped := k.kDropped, evPending := k.evPending, retDue := k.retDue }
  | e => Stored s e

/-- What of a die the schedulers' items of a passage are: all but its completions. -/
def DieDrops (x y : Die) : Prop := DieSlices { x with sb := y.sb, batches := y.batches, dispBuf := y.dispBuf, routers := y.routers, expCnt := y.expCnt } y

/-- Those effects of the end of a passage that write no completion. -/
def Drops (s : State) (e : Eff) : Prop :=
  match e with
  | .reg b i o _ => evtKey (regKey b i o) ∨ b = .stk ∨ b = .trl ∨ (b = .sch ∧ i < 32 ∧ o = F.SCH_BATCH_CNT_COUNT.off) ∨ b = .ldr
  | .core c x => x = { s.core c with ins := x.ins }
  | .die d x => DieDrops (s.die d) x
  | .passage _ _ => False
  | .job p x => x = { s.job p with swap := x.swap, epoch := x.epoch, shadows := x.shadows, shards := x.shards }
  | .nvm n => n.sansLog = { s.nvm.sansLog with retain := n.retain } ∧ (s.nvm.worn = true → n.worn = true)
  | .keeper k => k = { s.keeper with kHold := k.kHold, kDropped := k.kDropped, evPending := k.evPending, retDue := k.retDue }
  | e => Stored s e

/-- The footprint P leaves room for them. -/
def AllowsDrops (P : State → Eff → Prop) : Prop := ∀ s e, Drops s e → P s e

/-- The footprint P leaves room for the end of a passage. -/
def AllowsEnds (P : State → Eff → Prop) : Prop := ∀ s e, Ends s e → P s e

section
variable {P : State → Eff → Prop}

theorem AllowsEnds.drops (h : AllowsEnds P) : AllowsDrops P := fun s e he => by
  refine h s e ?_
  cases e with
  | reg => exact he.imp_right fun h => h.imp_right fun h => h.imp_right fun h => h.imp_right .inr
  | passage => exact he.elim
  | die d x =>
    change x = _ at he
    change x = _
    rw [he]
  | _ => exact he

theorem AllowsDrops.stores (h : AllowsDrops P) : AllowsStores P := fun s e he => by
  refine h s e ?_
  cases e with
  | reg => exact he.imp_right fun h => h.imp And.left fun h => .inl h.1
  | core | passage | job => exact he.elim
  | die d x =>
    change x = _ at he
    change x = _
    rw [he]
  | nvm n =>
    obtain ⟨hn, hw⟩ := he
    refine ⟨?_, hw⟩
    change n.sansLog = { s.nvm.sansLog with retain := n.sansLog.retain }
    rw [hn]
  | keeper k =>
    change k = _ at he
    change k = _
    rw [he]
  | _ => exact he

theorem AllowsEnds.stores (h : AllowsEnds P) : AllowsStores P := h.drops.stores

section
variable (hP : AllowsDrops P)
include hP

theorem AllowsDrops.dropInputs (i : Nat) (s : State) : Allowed P (dropInputs i s) s := by
  refine allowed_forA _ _ s fun k _ s => (allowed_forOpt _ _ s).2 fun t _ => (allowed_modCore _ _ _).2 (hP _ _ ?_)
  exact rfl

theorem AllowsDrops.decrement (d : Nat) (r : RouterRep) (q : Sel) (s : State) : Allowed P (decrement d r q s) s :=
  allowed_forA _ _ s fun _ _ _ => (allowed_emit _ _).2 (hP.stores.slices.out _ _)

theorem AllowsDrops.dropItems (i : Nat) (s : State) : Allowed P (dropItems i s) s := by
  refine (allowed_seqA_cons _ _ s).2 ⟨hP.dropInputs i s, (allowed_seqA_cons _ _ _).2 ⟨?_, .nil _⟩⟩
  refine allowed_forA _ _ _ fun d hd s => (allowed_whenA _ _ s).2 fun _ => (allowed_withA _ _ s).2 ?_
  simp only [allowed_seqA_cons, allowed_bumpW, allowed_modDie, allowed_seqA_nil, and_true]
  refine ⟨allowed_forA _ _ s fun r _ s => allowed_forA _ _ s fun q _ s => hP.decrement d r q s, hP _ _ ?_, hP _ _ ?_⟩
  · exact .inr (.inr (.inr (.inl ⟨rfl, by simpa [allDies] using hd, rfl⟩)))
  · exact rfl

theorem AllowsDrops.savePt (i : Nat) (s : State) : Allowed P (savePt i s) s := by
  simp only [Machine.savePt]
  split
  · exact allowed_storeBytes hP.stores _ _ _ s
  · exact .nil _

theorem AllowsDrops.writeRetain (p : Nat) (s : State) : Allowed P (writeRetain p s) s := by
  simp only [Machine.writeRetain]
  split
  · exact allowed_nvmWrite hP.stores.slices.reports.events _ (fun s => (allowed_modNvm _ _).2 (hP _ _ ⟨by exact rfl, fun h => h⟩)) s
  · exact (allowed_modKeeper _ _).2 (hP _ _ (by exact rfl))

theorem AllowsDrops.ldr (s : State) (i o : Nat) (v : Word) : P s (.reg .ldr i o v) := hP _ _ (.inr (.inr (.inr (.inr rfl))))

theorem AllowsDrops.swapDone (p : Nat) (s : State) : Allowed P (swapDone p s) s := by
  have hl := hP.ldr
  simp only [Machine.swapDone]
  split
  · exact .nil _
  · split
    · simp only [allowed_seqA_cons, allowed_modJob, swapState, allowed_setF, allowed_seqA_nil, and_true, hl, true_and]
      exact ⟨hP _ _ (by exact rfl), allowed_raiseEvent hP.stores.slices.reports.events _ _ _ (by decide) _, hP.writeRetain p _⟩
    · exact .nil _

end

variable (hP : AllowsEnds P)
include hP

theorem allowed_dropItems (i : Nat) (s : State) : Allowed P (dropItems i s) s := hP.drops.dropItems i s

theorem allowed_savePt (i : Nat) (s : State) : Allowed P (savePt i s) s := hP.drops.savePt i s

theorem ends_cringTail (s : State) (i : Nat) (v : Word) : P s (.reg .pas i F.PAS_CRING_TAIL_TAIL.off v) :=
  hP _ _ (.inr (.inr (.inr (.inr (.inl ⟨rfl, rfl⟩)))))

/-- A note on a passage of where its completion entry stands. -/
theorem ends_passage {s : State} {i : Nat} {x : Passage} (h : x = { s.passage i with finalAt := x.finalAt, outAt := x.outAt }) :
    P s (.passage i x) := hP _ _ h

theorem ends_die {s : State} {d : Nat} {x : Die} (h : DieEnds (s.die d) x) : P s (.die d x) := hP _ _ h

end

/-- The footprint P leaves room for completions (R219–R221). -/
structure AllowsComps (P : State → Eff → Prop) : Prop where
  stores : AllowsStores P
  queue : ∀ s d l, P s (.die d { s.die d with compQ := l })
  tail : ∀ s i v, P s (.reg .pas i F.PAS_CRING_TAIL_TAIL.off v)
  notes : ∀ s i x, x = { s.passage i with finalAt := x.finalAt, outAt := x.outAt } → P s (.passage i x)
  notice : ∀ s n o v, P s (.reg .trl n o v)

theorem AllowsEnds.comps {P : State → Eff → Prop} (hP : AllowsEnds P) : AllowsComps P where
  stores := hP.stores
  queue _ _ _ := ends_die hP (by rfl)
  tail := ends_cringTail hP
  notes _ _ _ h := ends_passage hP h
  notice _ _ _ _ := hP _ _ (.inr (.inr (.inl rfl)))

section
variable {P : State → Eff → Prop} (hC : AllowsComps P)
include hC

theorem AllowsComps.writeComp (d : Nat) (c : QComp) (s : State) : Allowed P (writeComp d c s) s := by
  simp only [Machine.writeComp, noteComp, allowed_seqA_cons, allowed_setF, allowed_whenA, allowed_modPassage, allowed_seqA_nil, and_true]
  refine ⟨allowed_storeBytes hC.stores _ _ _ s, hC.tail _ _ _, fun _ => hC.notes _ _ _ ?_, fun _ => ?_⟩
  · rfl
  · exact allowed_raiseEvent_of hC.stores.slices.reports.events.sends _ _ _ (fun _ _ _ _ => hC.notice ..) _

theorem AllowsComps.drainList (d : Nat) : ∀ (l : List QComp) (s : State), Allowed P (drainList d l s) s
  | [], s => (allowed_setF s _ _ _).2 (hC.tail _ _ _)
  | c :: r, s => by
    have ih := AllowsComps.drainList d r
    simp only [Machine.drainList, allowed_ite, allowed_nil, implies_true, true_and, allowed_seqA_cons, allowed_modDie, allowed_seqA_nil, and_true]
    exact fun _ => ⟨fun _ => allowed_recallE hC.stores.snoops _ s, fun _ => ⟨hC.queue .., hC.writeComp d c _, ih _⟩⟩

theorem AllowsComps.complete (d : Nat) (c : QComp) (s : State) : Allowed P (complete d c s) s := by
  simp only [Machine.complete, drainComp, allowed_seqA_cons, allowed_modDie, allowed_setF, allowed_withA, allowed_seqA_nil, and_true]
  exact ⟨hC.queue .., hC.tail _ _ _, hC.drainList d _ _⟩

end

section
variable {P : State → Eff → Prop} (hP : AllowsEnds P)
include hP

theorem allowed_complete (d : Nat) (c : QComp) (s : State) : Allowed P (complete d c s) s := hP.comps.complete d c s

theorem allowed_swapDone (p : Nat) (s : State) : Allowed P (swapDone p s) s := hP.drops.swapDone p s

theorem allowed_guestLeaves (i : Nat) (hi : ∀ s x, P s (.passage i x)) (s : State) : Allowed P (guestLeaves i s) s := by
  simp only [guestLeaves]
  split
  · simp only [allowed_seqA_cons, allowed_emit, allowed_modPassage, allowed_seqA_nil, and_true]
    exact ⟨hP.stores.slices.out _ _, hi _ _⟩
  · exact .nil _

/-- The end of a passage, over the changes of the passage itself (R212, R231). -/
theorem allowed_endPassage (i status : Nat) (hi : ∀ s x, P s (.passage i x)) (s : State) : Allowed P (endPassage i status s) s := by
  simp only [endPassage]
  split
  · simp only [allowed_seqA_cons, allowed_emit, allowed_seqA_nil, and_true]
    exact ⟨allowed_dropItems hP i s, hP.stores.slices.out _ _, allowed_guestLeaves hP i hi _⟩
  · split
    · simp only [allowed_seqA_cons, allowed_modPassage, allowed_withA, allowed_seqA_nil, and_true]
      exact ⟨allowed_dropItems hP i s, hi _ _, allowed_savePt hP i _, allowed_complete hP _ _ _, allowed_swapDone hP _ _⟩
    · exact .nil _

theorem allowed_endHandle (d : Nat) (h : Word32) (status : Nat) (hi : ∀ s x, P s (.passage (idxOf h) x)) (s : State) :
    Allowed P (endHandle d h status s) s := by
  have hp : ∀ i, s.byHandle h = some i → i = idxOf h := fun i hb => by
    simp only [State.byHandle] at hb
    split at hb
    · exact (Option.some.inj hb).symm
    · cases hb
  simp only [endHandle]
  split
  · next i hb =>
    obtain rfl := hp i hb
    exact allowed_endPassage hP _ _ hi s
  · exact (allowed_emit _ _).2 (hP.stores.slices.out _ _)

end

/-! ## Which footprints leave room for the end of a passage -/

@[simp] theorem allowsEnds_cellRel {R} : AllowsEnds (cellRel R) := fun _ e he => by
  cases e with
  | cell => exact he.elim
  | _ => trivial

@[simp] theorem allowsEnds_convRel {R} : AllowsEnds (convRel R) := fun _ e he => by
  cases e with
  | conv | lost => exact he.elim
  | _ => trivial

theorem allowsEnds_coreRel {R : CoreId → Core → Core → Prop} (h : ∀ c (x y : Core), y = { x with ins := y.ins } → R c x y) :
    AllowsEnds (coreRel R) := fun _ e he => by
  cases e with
  | core => exact h _ _ _ he
  | lost => exact he.elim
  | _ => trivial

theorem allowsEnds_dieRel {R : Nat → Die → Die → Prop} (h : ∀ d x y, DieEnds x y → R d x y) : AllowsEnds (dieRel R) := fun _ e he => by
  cases e with
  | die => exact h _ _ _ he
  | _ => trivial

/-- What a note of where a completion entry stands leaves of a passage. -/
def PassageNoted (x y : Passage) : Prop := y = { x with finalAt := y.finalAt, outAt := y.outAt }

theorem PassageNoted.trans {x y z : Passage} (h1 : PassageNoted x y) (h2 : PassageNoted y z) : PassageNoted x z := by
  rw [PassageNoted] at *
  rw [h2, h1]

theorem allowsEnds_passageRel {R : Nat → Passage → Passage → Prop} (h : ∀ i x y, PassageNoted x y → R i x y) :
    AllowsEnds (passageRel R) := fun _ e he => by
  cases e with
  | passage => exact h _ _ _ he
  | lost => exact he.elim
  | _ => trivial

/-- The keys of the registers that the end of a passage may change. -/
def EndKey (k : Nat) : Prop :=
  0x14 * 2 ^ 36 ≤ k ∨ k % 65536 = F.SCH_BATCH_CNT_COUNT.off ∨ k % 65536 = F.PAS_CRING_TAIL_TAIL.off

theorem allowsEnds_regIn {p : Nat → Prop} (h : ∀ k, EndKey k → p k) : AllowsEnds (regIn p) := fun _ e he => by
  have high : ∀ b i o, 0x14 ≤ Blk.code b → 0x14 * 2 ^ 36 ≤ regKey b i o := fun b i o hb => by
    unfold regKey
    omega
  cases e with
  | reg b i o v =>
    refine h _ ?_
    rcases he with ⟨n, w, -, -, hk⟩ | rfl | rfl | ⟨rfl, -, rfl⟩ | ⟨rfl, rfl⟩ | rfl
    · exact .inl (by rw [hk]; exact high _ _ _ (by decide))
    · exact .inl (high _ _ _ (by decide))
    · exact .inl (high _ _ _ (by decide))
    · exact .inr (.inl (by simp only [regKey]; omega))
    · exact .inr (.inr (by simp only [regKey]; omega))
    · exact .inl (high _ _ _ (by decide))
  | _ => trivial

/-! ## The passage that ends -/

section
variable {s : State} (hc : s.canon = true)
include hc

/-- What ends leaves of a passage, but notes of its completions. -/
theorem passageNoted_of_ends {a : Act} (h : ∀ {P : State → Eff → Prop}, AllowsEnds P → Allowed P (a s) s) (i : Nat) :
    PassageNoted (s.passage i) ((after a s).passage i) :=
  after_passageRel (R := fun _ => PassageNoted) (fun _ _ => rfl) (fun _ _ _ _ => PassageNoted.trans) hc
    (h (allowsEnds_passageRel fun _ _ _ => id)) i

/-- What the end of a live passage that is homed here makes of it (R212). -/
theorem passage_endPassage {i status : Nat} (ho : (s.passage i).open_ = true) (hg : (s.passage i).guest = false) :
    PassageNoted { s.passage i with st := 6, status := status, hold := 0, inflight := false, waiting := none } ((after (endPassage i status) s).passage i) := by
  set s1 := after (dropItems i) s with hs1
  set s2 := after (modPassage i fun p => { p with st := 6, status := status, hold := 0, inflight := false, waiting := none }) s1 with hs2
  set s3 := after (savePt i) s2 with hs3
  set s4 := after (complete (s3.passage i).cring (compOf i (s3.passage i) 4 0 0)) s3 with hs4
  have hc1 : s1.canon = true := after_canon _ s hc
  have hc2 : s2.canon = true := after_canon _ s1 hc1
  have hc3 : s3.canon = true := after_canon _ s2 hc2
  have hc4 : s4.canon = true := after_canon _ s3 hc3
  have hafter : after (endPassage i status) s = after (swapDone (s3.passage i).part) s4 := by
    rw [after_congr (a := endPassage i status) (b := seqA _) (by simp only [endPassage, hg, ho, Bool.false_eq_true, if_false, if_true]; rfl)]
    simp only [after_seqA_cons, after_withA, after_seqA_end, hs1, hs2, hs3, hs4]
  have h1 := passageNoted_of_ends hc (a := dropItems i) (fun hP => allowed_dropItems hP i s) i
  have h2 : s2.passage i = { s1.passage i with st := 6, status := status, hold := 0, inflight := false, waiting := none } := by
    simp only [hs2, modPassage, after_eff, passage_ap_passage s1 hc1, if_true]
  have h3 := passageNoted_of_ends hc2 (a := savePt i) (fun hP => allowed_savePt hP i s2) i
  have h4 := passageNoted_of_ends hc3 (a := complete (s3.passage i).cring (compOf i (s3.passage i) 4 0 0))
    (fun hP => allowed_complete hP _ _ s3) i
  have h5 := passageNoted_of_ends hc4 (a := swapDone (s3.passage i).part) (fun hP => allowed_swapDone hP _ s4) i
  have hall := (h3.trans h4).trans h5
  rw [← hs1] at h1
  rw [hafter, PassageNoted, hall, h2, h1]

/-- It ends FAULTED with the status. -/
theorem faulted_endPassage {i status : Nat} (ho : (s.passage i).open_ = true) (hg : (s.passage i).guest = false) :
    (after (endPassage i status) s).faulted i status := by
  rw [State.faulted, passage_endPassage hc ho hg]
  exact ⟨rfl, rfl⟩

theorem faulted_endHandle {d i status : Nat} {h : Word32} (hb : s.byHandle h = some i) (hg : (s.passage i).guest = false) :
    (after (endHandle d h status) s).faulted i status := by
  have ho : (s.passage i).open_ = true := by
    simp only [State.byHandle] at hb
    split at hb
    · next hcond =>
      obtain rfl := Option.some.inj hb
      exact hcond.1
    · cases hb
  have hafter : after (endHandle d h status) s = after (endPassage i status) s := by simp only [after, endHandle, hb]
  rw [hafter]
  exact faulted_endPassage hc ho hg

end

end Sys2Proof.Machine
end

section
/-!
SUPPORT. Passages that end one after another (R212).
-/
namespace Sys2Proof.Machine

section
variable {s : State} (hc : s.canon = true)
include hc

/-- The end of a passage leaves every other as it was, but notes of its completions. -/
theorem passageNoted_endPassage (i status : Nat) {j : Nat} (hj : j ≠ i) :
    PassageNoted (s.passage j) ((after (endPassage i status) s).passage j) := by
  have h := after_passageRel (R := fun k x y => k = i ∨ PassageNoted x y) (fun _ _ => .inr rfl)
    (fun _ _ _ _ h1 h2 => h1.elim .inl fun h1 => h2.imp_right h1.trans) hc
    (allowed_endPassage (allowsEnds_passageRel fun _ _ _ => .inr) i status (fun _ _ => .inl rfl) s) j
  exact h.resolve_left hj

/-- One that has ended FAULTED stays so. -/
theorem faulted_endPassage_stays {i j status st : Nat} (hf : s.faulted j st) (hg : (s.passage j).guest = false) :
    (after (endPassage i status) s).faulted j st ∧ ((after (endPassage i status) s).passage j).guest = false := by
  by_cases hj : j = i
  · have hno : after (endPassage i status) s = s := by
      have ho : (s.passage i).open_ = false := by
        rw [← hj, Passage.open_, hf.1]
        rfl
      rw [after_congr (b := skip), after_skipped]
      simp only [endPassage, ← hj, hg, Bool.false_eq_true, if_false]
      rw [hj, ho, if_neg (by decide)]
      rfl
    rw [hno]
    exact ⟨hf, hg⟩
  · have hn := passageNoted_endPassage hc i status hj
    obtain ⟨h1, h2⟩ := hf
    refine ⟨⟨?_, ?_⟩, ?_⟩ <;> rw [hn] <;> assumption

end

/-- Each of a list of live passages that are homed here ends FAULTED. -/
theorem faulted_endPassages {status i : Nat} : ∀ {l : List Nat} {s : State}, s.canon = true →
    (i ∈ l ∧ (s.passage i).open_ = true ∨ s.faulted i status) → (s.passage i).guest = false →
    (after (forA l fun i => endPassage i status) s).faulted i status
  | [], _, _, h, _ => h.elim (fun h => nomatch h.1) id
  | a :: l, s, hc, h, hg => by
    have hcu := after_canon (endPassage a status) s hc
    rw [after_forA_cons]
    obtain ⟨hm, ho⟩ | hf := h
    · by_cases ha : i = a
      · refine faulted_endPassages hcu (.inr (ha ▸ faulted_endPassage hc (ha ▸ ho) (ha ▸ hg))) ?_
        rw [← ha, passage_endPassage hc ho hg]
        exact hg
      · have hn := passageNoted_endPassage hc a status ha
        refine faulted_endPassages hcu (.inl ⟨(List.mem_cons.1 hm).resolve_left ha, ?_⟩) ?_
        · rw [hn]
          exact ho
        · rw [hn]
          exact hg
    · obtain ⟨h1, h2⟩ := faulted_endPassage_stays hc (i := a) (status := status) hf hg
      exact faulted_endPassages hcu (.inr h1) h2

/-- What the ends of passages leave of all else. -/
theorem allowed_endPassages {P : State → Eff → Prop} (hP : AllowsEnds P) (hi : ∀ s i x, P s (.passage i x)) (status : Nat) (l : List Nat) (s : State) :
    Allowed P (forA l (fun i => endPassage i status) s) s :=
  allowed_forA _ _ s fun i _ s => allowed_endPassage hP i status (fun s x => hi s i x) s

/-- The fields of the state that the end of a passage may change. -/
theorem allowsEnds_onlyFields {fs : List StateField}
    (h : [.regs, .mem, .poison, .cores, .dies, .passages, .jobs, .ports, .snoopF, .nvm, .keeper, .free, .out] ⊆ fs) : AllowsEnds (onlyFields fs) :=
  fun s e he => by
  cases e <;> simp_all [Ends, Stored, Report, List.cons_subset]

end Sys2Proof.Machine
end

section
/-!
SUPPORT. LD and ST of a sequencer, and what a core's checks find while an instruction runs (R105, R107, R113, R325).
-/
namespace Sys2Proof.Machine

/-! ## Bytes put -/

theorem onlyFields_putBytes {fs : List StateField} (h : .mem ∈ fs) (a : Nat) (bs : List Byte) (s : State) :
    Allowed (onlyFields fs) (putBytes a bs s) s := allowed_putBytes s a bs fun _ _ _ _ _ => by simpa using h

theorem byte_putBytes {s : State} (hc : s.canon = true) (a : Nat) (bs : List Byte) (x : Nat) :
    (after (putBytes a bs) s).byte x = if a ≤ x ∧ x < a + bs.length then bs.getD (x - a) 0 else s.byte x := by
  have key : ∀ (l : List Byte) (n : Nat) (s : State), s.canon = true →
      (apAll ((l.zipIdx n).map fun p => Eff.byte p.2 p.1) s).byte x = if n ≤ x ∧ x < n + l.length then l.getD (x - n) 0 else s.byte x := by
    intro l
    induction l with
    | nil =>
      intro n s _
      simp
    | cons b l ih =>
      intro n s hc
      have hstep : apAll (((b :: l).zipIdx n).map fun p => Eff.byte p.2 p.1) s
          = apAll ((l.zipIdx (n + 1)).map fun p => Eff.byte p.2 p.1) ((Eff.byte n b).ap s) := rfl
      rw [hstep, ih (n + 1) _ (ap_canon _ _ hc), byte_ap_byte s hc]
      by_cases hx : x = n
      · subst hx
        simp
      · simp only [hx, if_false, List.length_cons]
        by_cases hr : n + 1 ≤ x ∧ x < n + 1 + l.length
        · obtain ⟨k, hk⟩ : ∃ k, x - n = k + 1 := ⟨x - n - 1, by omega⟩
          rw [if_pos hr, if_pos (by omega), hk, List.getD_cons_succ, show x - (n + 1) = k by omega]
        · rw [if_neg hr, if_neg (by omega)]
  exact key bs a s hc

theorem bytes_putBytes {s : State} (hc : s.canon = true) (a : Nat) (bs : List Byte) : (after (putBytes a bs) s).bytes a bs.length = bs := by
  refine List.ext_getElem (by simp [State.bytes]) fun i h1 h2 => ?_
  simp [State.bytes, byte_putBytes hc, h2]

theorem bytesBut_putBytes {s : State} (hc : s.canon = true) (a : Nat) (bs : List Byte) : BytesBut a bs.length s (after (putBytes a bs) s) := by
  intro x hx
  rw [byte_putBytes hc, if_neg (by omega)]

theorem putBytes_frame (a : Nat) (bs : List Byte) (s : State) :
    after (putBytes a bs) s = { s with mem := (after (putBytes a bs) s).mem } := by
  have h := after_overlay [.mem] (onlyFields_putBytes (List.mem_singleton.2 rfl) a bs s)
  exact h

/-! ## LD and ST (R107) -/

/-- The word an LD reads. -/
theorem sramWord_eq (s : State) (c : CoreId) (o : Nat) :
    s.sramWord c o = BitVec.ofNat 32 (leNat ((List.range 4).map fun j => s.byte (coreBase c + o + j))) := rfl

/-- A corrected word is counted in its tile's register alone. -/
theorem sramCorr_counts {s : State} (hc : s.canon = true) (x : TileId) :
    (after (sramCorr (.tile x)) s).fld F.TIL_SRAM_ERR_CORR (tileKey x)
        = min (s.fld F.TIL_SRAM_ERR_CORR (tileKey x) + 1) F.TIL_SRAM_ERR_CORR.top ∧
      RegsBut [regKey .til (tileKey x) F.TIL_SRAM_ERR_CORR.off] s (after (sramCorr (.tile x)) s) :=
  ⟨fld_bump s hc _ _ _ (by decide) (by decide), after_regsBut hc (by simp [sramCorr, F.TIL_SRAM_ERR_CORR])⟩

/-- LD of an aligned word that can be read writes it to sA. -/
theorem execLd_reads {s : State} {c : CoreId} (hg : s.goesOn c = true) (a b : Fin 16) (imm : BitVec 18)
    (hb : badAddr ((s.core c).addr b.val imm) = false) :
    ∃ v, v = s.sramWord c ((s.core c).addr b.val imm) ∧ execLd c a b imm .ok s = .next (after (writeS c a.val v) s) ∧
      execLd c a b imm .corrected s = .next (after (writeS c a.val v) (after (sramCorr c) s)) := by
  obtain ⟨hr, -⟩ := goesOn_iff.1 hg
  have hw : (after (sramCorr c) s).sramWord c ((s.core c).addr b.val imm) = s.sramWord c ((s.core c).addr b.val imm) := by
    cases c <;> simp [sramCorr, bump, setF, State.sramWord, State.num, State.bytes]
  refine ⟨_, rfl, ?_, ?_⟩
  · refine (runAct_onRun hr _).trans ?_
    simp only [hb, Bool.false_eq_true, if_false, after_withA]
  · refine (runAct_onRun hr _).trans ?_
    simp only [hb, Bool.false_eq_true, if_false, after_seqA_cons, after_withA, after_seqA_end, hw]

/-! ## What the checks find (R105, R113) -/

/-- An instruction that runs under a core's checks: the offsets it reads, what a residue event does, and what it does otherwise, each as the
sequencer at hand has them. -/
def Checked (c : CoreId) (rd : Core → Nat → Bool) (res : Act) (i : CoreErr → Instr) : Prop :=
  ∃ act : Core → Act, ∀ e s, exec (i e) s = runAct (onRun c fun k => coreRead c e (rd k) res (act k)) s

section
variable {c : CoreId} {rd : Core → Nat → Bool} {res : Act} {i : CoreErr → Instr}

/-- A corrected word is counted, and the instruction goes on as without it. -/
theorem Checked.exec_corrected (h : Checked c rd res i) {s : State} (hr : s.runs c = true) :
    exec (i .corrected) s = exec (i .ok) (after (sramCorr c) s) := by
  obtain ⟨act, hact⟩ := h
  have hr' : (after (sramCorr c) s).runs c = true := by
    rw [runs_iff, sramCorr_core, sramCorr_frame]
    exact runs_iff.1 hr
  rw [hact, hact, runAct_onRun hr, runAct_onRun hr', sramCorr_core]
  simp only [coreRead, after_seqA_cons, after_seqA_end]

/-- An uncorrectable word that the instruction does not read leaves it as it is. -/
theorem Checked.exec_unread (h : Checked c rd res i) {s : State} (hr : s.runs c = true) {q : Fin 32768} (hq : rd (s.core c) q.val = false) :
    exec (i (.uncorrectable q)) s = exec (i .ok) s := by
  obtain ⟨act, hact⟩ := h
  rw [hact, hact, runAct_onRun hr, runAct_onRun hr]
  simp only [coreRead, hq, Bool.false_eq_true, if_false]

theorem Checked.exec_read (h : Checked c rd res i) {s : State} (hr : s.runs c = true) {q : Fin 32768} (hq : rd (s.core c) q.val = true) :
    exec (i (.uncorrectable q)) s = .next (after (sramUncorr c q.val) s) := by
  obtain ⟨act, hact⟩ := h
  rw [hact, runAct_onRun hr]
  simp only [coreRead, hq, if_true]

theorem Checked.exec_residue (h : Checked c rd res i) {s : State} (hr : s.runs c = true) :
    exec (i .residue) s = .next (after res s) := by
  obtain ⟨act, hact⟩ := h
  rw [hact, runAct_onRun hr]
  rfl

end

/-- ACC, RQ and PSUM: a residue event of the core's digital path. -/
def accInstrs (c : CoreId) (b o : Fin 2) (r : Fin 16) : List (CoreErr → Instr) :=
  [fun e => .accClearAddMvm ⟨c, e⟩ b, fun e => .accAddMvm ⟨c, e⟩ b, fun e => .accAddOpass ⟨c, e⟩ b, fun e => .accAddPsum ⟨c, e⟩ b,
    fun e => .accAddSpill ⟨c, e⟩ b, fun e => .rq ⟨c, e⟩ b o, fun e => .psum ⟨c, e⟩ b r]

/-- MVM, OPASS and SPILL: they read the drive buffer that sA names. -/
def driveInstrs (c : CoreId) (a : Fin 16) : List (CoreErr → Instr) :=
  [fun e => .mvm ⟨c, e⟩ a, fun e => .opass ⟨c, e⟩ a, fun e => .spill ⟨c, e⟩ a]

theorem checked_accInstrs (c : CoreId) (b o : Fin 2) (r : Fin 16) : ∀ i ∈ accInstrs c b o r, ∃ lo hi, hi ≤ 0x3900 ∧
    Checked c (fun _ q => decide (lo ≤ q) && decide (q < hi)) (residueEvent c (unitDigital c) false) i := by
  simp only [accInstrs, List.forall_mem_cons, List.not_mem_nil, false_imp_iff, implies_true, and_true]
  refine ⟨⟨0x1100, 0x1500, by decide, _, fun _ _ => rfl⟩, ⟨0x1100, 0x1500, by decide, _, fun _ _ => rfl⟩,
    ⟨0x1100, 0x1500, by decide, _, fun _ _ => rfl⟩, ⟨0, 0, by decide, _, fun _ _ => rfl⟩, ⟨0x2800, 0x3900, by decide, _, fun _ _ => rfl⟩,
    ⟨0x1020, 0x1040, by decide, _, fun _ _ => rfl⟩, ⟨0x1040 + 4 * r.val, 0x1044 + 4 * r.val, by omega, _, fun _ _ => rfl⟩⟩

theorem checked_driveInstrs (c : CoreId) (a : Fin 16) : ∀ i ∈ driveInstrs c a,
    Checked c (fun k => inDrive ((k.sreg a.val).toNat % 2)) skip i := by
  simp only [driveInstrs, List.forall_mem_cons, List.not_mem_nil, false_imp_iff, implies_true, and_true]
  exact ⟨⟨_, fun _ _ => rfl⟩, ⟨_, fun _ _ => rfl⟩, ⟨_, fun _ _ => rfl⟩⟩

theorem checked_send (c : CoreId) (o : Fin 2) (r : Fin 16) : Checked c (fun _ => inSend o.val r.val) skip fun e => .send ⟨c, e⟩ o r :=
  ⟨_, fun _ _ => rfl⟩

end Sys2Proof.Machine
end

section
/-!
SUPPORT. A tile's work item that ends or restarts for what a check found (R105, R320, R325).
-/
namespace Sys2Proof.Machine

/-! ## A work item fails at a tile -/

/-- At a tile the failure of a work item is the end of its passage, and the item leaves the scoreboard. -/
theorem after_failItem_tile (x : TileId) (w : WorkItem) (status : Nat) (s : State) :
    after (failItem (.tile x) w status) s = after (modDie (s.sbDie w) fun x => { x with sb := x.sb.filter fun y => !y.is (idxOf w.handle) w.stage w.rep })
      (after (endHandle (coreDie (.tile x)) w.handle status) s) := by
  rw [after_congr (a := failItem (.tile x) w status) (b := seqA _) (by simp only [failItem]; rfl)]
  simp only [after_seqA_cons, after_seqA_end, freeCtx, after_skipped]

theorem allowed_failItem_tile {P : State → Eff → Prop} (hP : AllowsEnds P) (x : TileId) (w : WorkItem) (status : Nat)
    (hi : ∀ s y, P s (.passage (idxOf w.handle) y)) (s : State) : Allowed P (failItem (.tile x) w status s) s := by
  simp only [failItem, allowed_seqA_cons, allowed_modDie, allowed_seqA_nil, freeCtx, allowed_skip, and_true]
  exact ⟨allowed_endHandle hP _ _ _ hi s, ends_die hP (by exact rfl)⟩

theorem faulted_failItem_tile {s : State} (hc : s.canon = true) (x : TileId) {w : WorkItem} {i : Nat} (status : Nat)
    (hb : s.byHandle w.handle = some i) (hg : (s.passage i).guest = false) : (after (failItem (.tile x) w status) s).faulted i status := by
  rw [after_failItem_tile]
  have h := faulted_endHandle hc (d := coreDie (.tile x)) (status := status) hb hg
  unfold State.faulted at h ⊢
  simpa [modDie] using h

/-- Beside the input that waits at tiles, the failure of a tile's item leaves every sequencer as it was. -/
theorem core_failItem_tile {s : State} (hc : s.canon = true) (x : TileId) (w : WorkItem) (status : Nat) (c : CoreId) :
    (after (failItem (.tile x) w status) s).core c = { s.core c with ins := ((after (failItem (.tile x) w status) s).core c).ins } :=
  after_coreRel (R := fun _ x y => y = { x with ins := y.ins }) (fun _ _ => rfl) (fun _ _ _ _ h1 h2 => by rw [h2, h1]) hc
    (allowed_failItem_tile (allowsEnds_coreRel fun _ _ _ h => h) x w status (fun _ _ => trivial) s) c

/-- No register of a tile changes as its item fails. -/
theorem fld_failItem_tile {s : State} (hc : s.canon = true) (x : TileId) (w : WorkItem) (status : Nat) {f : Fld} {i : Nat}
    (hf : ¬ EndKey (regKey f.blk i f.off)) : (after (failItem (.tile x) w status) s).fld f i = s.fld f i :=
  fld_after_of_regIn hc (allowed_failItem_tile (allowsEnds_regIn fun _ => id) x w status (fun _ _ => trivial) s) hf

theorem not_endKey_til {x : TileId} {o : Nat} (h : o < 65536) (h1 : o ≠ F.SCH_BATCH_CNT_COUNT.off) (h2 : o ≠ F.PAS_CRING_TAIL_TAIL.off) :
    ¬ EndKey (regKey .til (tileKey x) o) := by
  have hx := tileKey_lt x
  simp only [EndKey, regKey, Blk.code] at *
  omega

/-! ## An uncorrectable word of the drive buffer (R105, R325) -/

/-- An uncorrectable word above GAIN that an item at a tile reads restarts the sequencer and ends the item's passage with CHECKER. -/
theorem sramUncorr_ends {s : State} (hc : s.canon = true) (x : TileId) {w : WorkItem} {i o : Nat} (ho : 0x1500 ≤ o)
    (hw : (s.core (.tile x)).item = some w) (hb : s.byHandle w.handle = some i) (hg : (s.passage i).guest = false) :
    let t := after (sramUncorr (.tile x) o) s
    t.faulted i 9 ∧ t.core (.tile x) = { (s.core (.tile x)).restart with ins := (t.core (.tile x)).ins } ∧ CoresButIns [.tile x] s t ∧
      t.fld F.TIL_SRAM_ERR_UNCORR (tileKey x) = min (s.fld F.TIL_SRAM_ERR_UNCORR (tileKey x) + 1) F.TIL_SRAM_ERR_UNCORR.top := by
  intro t
  set s1 := after (bump F.TIL_SRAM_ERR_UNCORR (tileKey x) 1) s with hs1
  set s2 := after (dataError (.tile x) o) s1 with hs2
  set s3 := after (modCore (.tile x) fun k => k.restart) s2 with hs3
  have hc1 : s1.canon = true := after_canon _ s hc
  have hc2 : s2.canon = true := after_canon _ s1 hc1
  have hc3 : s3.canon = true := after_canon _ s2 hc2
  have ht : t = after (failItem (.tile x) w 9) s3 := by
    have h1 : ¬ o < 0x1100 := by omega
    have h2 : ¬ (0x1100 ≤ o ∧ o < 0x1500 ∧ (s.core (.tile x)).gainErr = false) := by omega
    rw [show t = after (seqA _) s from after_congr (by simp only [sramUncorr, hw, h1, h2, if_false]; rfl)]
    simp only [after_seqA_cons, after_seqA_end, hs1, hs2, hs3]
  have hof : Allowed (onlyFields [.regs, .dies, .out]) (dataError (.tile x) o s1) s1 := onlyFields_dataError (List.Subset.refl _) _ _ _
  have hcore2 : ∀ c, s2.core c = s.core c := fun c => (after_read_eq (fun s => s.core c) hof fun _ => rfl).trans (by simp [hs1, bump, setF])
  have hpas : ∀ i, s3.passage i = s.passage i := fun i => by
    have h2 : s2.passage i = s1.passage i := after_read_eq (fun s => s.passage i) hof fun _ => rfl
    simp [hs3, modCore, h2, hs1, bump, setF]
  have hcore3 : ∀ c, s3.core c = if c = .tile x then (s.core (.tile x)).restart else s.core c := fun c => by
    rw [hs3, core_modCore s2 hc2, hcore2, hcore2]
  have hins := core_failItem_tile hc3 x w 9
  rw [← ht] at hins
  refine ⟨?_, ?_, fun c hm => ?_, ?_⟩
  · rw [ht]
    refine faulted_failItem_tile hc3 x 9 ?_ (by rw [hpas]; exact hg)
    simpa only [State.byHandle, hpas] using hb
  · rw [hins, hcore3, if_pos rfl]
  · rw [hins, hcore3, if_neg (by simpa using hm)]
  · have h3 : s3.fld F.TIL_SRAM_ERR_UNCORR (tileKey x) = s2.fld F.TIL_SRAM_ERR_UNCORR (tileKey x) := by simp [hs3, modCore, State.fld]
    have h2 : s2.fld F.TIL_SRAM_ERR_UNCORR (tileKey x) = s1.fld F.TIL_SRAM_ERR_UNCORR (tileKey x) := by
      refine fld_after_of_regIn hc1 (regIn_dataError _ _ _) ?_
      rintro ⟨o', ho', hk⟩
      have hd := coreDie_lt (.tile x)
      have hx := tileKey_lt x
      simp only [regKey, Blk.code] at hk
      omega
    have hk : ¬ EndKey (regKey .til (tileKey x) 0x300) := not_endKey_til (by norm_num) (by norm_num) (by norm_num)
    rw [ht, fld_failItem_tile hc3 x w 9 (f := F.TIL_SRAM_ERR_UNCORR) (i := tileKey x) hk, h3, h2]
    exact fld_bump s hc _ _ 1 (by decide) (by decide)

/-! ## A first residue event (R113, R320) -/

/-- What a restart with RETRY leaves: the item at instruction 0 with the milestone read afresh, and no other sequencer changed. -/
def RestartsItem (c : CoreId) (w : WorkItem) (s t : State) : Prop :=
  (t.core c).pc = 0 ∧ (t.core c).st = 1 ∧ (t.core c).mvm = none ∧
    (∃ w', (t.core c).item = some w' ∧ w' = { w with retry := true, mile := s.mile, spills := w'.spills }) ∧ CoresBut [c] s t

/-- A work item as a core loads it: its SPILLS bit is what its drive buffer's lists say (R108). -/
def State.loadedItem (s : State) (c : CoreId) (w : WorkItem) : WorkItem :=
  { w with spills := !((s.driveLists c w.buf w.seg2).1.2.2 ++ (s.driveLists c w.buf w.seg2).2.2.2).isEmpty }

theorem loadedItem_eq (s : State) (c : CoreId) (w : WorkItem) : s.loadedItem c w = { w with spills := (s.loadedItem c w).spills } := by
  simp only [State.loadedItem]

/-- A sequencer with a loaded item at hand (R108). -/
def Core.load (c : CoreId) (w : WorkItem) (k : Core) : Core :=
  { k with item := some w, req := 0, ev := 0, gen := seedFor c w, drawn := 0, psumAdded := 0 }

theorem after_loadItem (c : CoreId) (w : WorkItem) (s : State) : after (loadItem c w) s
    = after (modCore c (Core.load c (s.loadedItem c w))) (after (putBytes (coreBase c + 0x1000) (encDesc (s.loadedItem c w))) s) := by
  rw [after_congr (a := loadItem c w) (b := seqA [putBytes (coreBase c + 0x1000) (encDesc (s.loadedItem c w)),
    modCore c (Core.load c (s.loadedItem c w))]) rfl]
  simp only [after_seqA_cons, after_seqA_end]

/-- Loading an item changes its sequencer and PARAM alone. -/
theorem core_loadItem {s : State} (hc : s.canon = true) (c : CoreId) (w : WorkItem) (c' : CoreId) : (after (loadItem c w) s).core c'
    = if c' = c then Core.load c (s.loadedItem c w) (s.core c) else s.core c' := by
  have hput : ∀ c', (after (putBytes (coreBase c + 0x1000) (encDesc (s.loadedItem c w))) s).core c' = s.core c' := fun c' =>
    after_read_eq (fun s => s.core c') (onlyFields_putBytes (List.mem_singleton.2 rfl) _ _ _) fun _ => rfl
  rw [after_loadItem, core_modCore _ (after_canon _ s hc), hput, hput]

/-- A sequencer that starts its item again: what it knows of spills, of GAIN and of partial sums is that of `k` (R126, R320, R553). -/
def Core.againFrom (k j : Core) : Core :=
  { j.restart with spilled := k.spilled && !k.spillBad, gainErr := k.gainErr, spillReq := if k.spillBad then [] else k.spillReq
                   psums := k.psums }

theorem after_restartItem {s : State} {c : CoreId} {w : WorkItem} (hw : (s.core c).item = some w) :
    after (restartItem c true) s
      = after (loadItem c { w with mile := s.mile, retry := true }) (after (modCore c (Core.againFrom (s.core c))) s) := by
  rw [after_congr (a := restartItem c true) (b := seqA _) (by simp only [restartItem, hw]; rfl)]
  simp only [after_seqA_cons, after_seqA_end, Bool.or_true]
  rfl

theorem restartsItem_restartItem {s : State} (hc : s.canon = true) {c : CoreId} {w : WorkItem} (hw : (s.core c).item = some w) :
    RestartsItem c w s (after (restartItem c true) s) := by
  set s1 := after (modCore c (Core.againFrom (s.core c))) s with hs1
  have hc1 : s1.canon = true := after_canon _ s hc
  obtain ⟨hcore, hbut, -⟩ := modCore_frame s hc c (Core.againFrom (s.core c))
  rw [← hs1] at hcore hbut
  have hat := core_loadItem hc1 c { w with mile := s.mile, retry := true }
  rw [after_restartItem hw]
  refine ⟨?_, ?_, ?_, ⟨s1.loadedItem c { w with mile := s.mile, retry := true }, ?_, loadedItem_eq _ _ _⟩, fun c' hm => ?_⟩
  · rw [hat, if_pos rfl, hcore]
    rfl
  · rw [hat, if_pos rfl, hcore]
    rfl
  · rw [hat, if_pos rfl, hcore]
    rfl
  · rw [hat, if_pos rfl]
    rfl
  · rw [hat, if_neg (by simpa using hm), hbut c' hm]

theorem onlyFields_restartItem (c : CoreId) (retry : Bool) (s : State) :
    Allowed (onlyFields [.cores, .mem]) (restartItem c retry s) s := by
  simp only [restartItem]
  split
  · exact .nil _
  · simp only [allowed_seqA_cons, allowed_modCore, allowed_seqA_nil, loadItem, and_true]
    exact ⟨by simp, onlyFields_putBytes (by simp) _ _ _, by simp⟩

theorem onlyFields_softEvent (c : CoreId) (residue : Bool) (s : State) :
    Allowed (onlyFields [.regs, .nvm, .dies]) (softEvent c residue s) s := by
  cases c <;> simp [softEvent]

/-- A count leaves the fields of other registers, and the other bits of its own. -/
theorem fld_bump_reg {s : State} (hc : s.canon = true) (f g : Fld) (i j n : Nat) (hk : regKey g.blk j g.off ≠ regKey f.blk i f.off) :
    (after (bump f i n) s).fld g j = s.fld g j := by
  simp only [bump, after_withA]
  exact fld_setF_reg s hc f g i j _ hk

theorem fld_bump_bits {s : State} (hc : s.canon = true) (f g : Fld) (i j n : Nat) (hl : f.lo ≤ f.hi) (hh : f.hi < 64)
    (hd : g.hi < f.lo ∨ f.hi < g.lo) : (after (bump f i n) s).fld g j = s.fld g j := by
  simp only [bump, after_withA]
  exact fld_setF_bits s hc f g i j _ hl hh hd

/-- A residue event at a tile is counted in TIL_CHK_SOFT (R330). -/
theorem fld_softEvent {s : State} (hc : s.canon = true) (x : TileId) :
    (after (softEvent (.tile x) true) s).fld F.TIL_CHK_SOFT (tileKey x) = min (s.fld F.TIL_CHK_SOFT (tileKey x) + 1) F.TIL_CHK_SOFT.top := by
  set s1 := after (bump F.CHK_SOFT_RES (coreDie (.tile x)) 1) s with hs1
  set s2 := after (bump F.TIL_CHK_SOFT (tileKey x) 1) s1 with hs2
  set s3 := after (bump F.TIL_CHK_RES (tileKey x) 1) s2 with hs3
  have hc1 : s1.canon = true := after_canon _ s hc
  have hc2 : s2.canon = true := after_canon _ s1 hc1
  have ht : (after (softEvent (.tile x) true) s).fld F.TIL_CHK_SOFT (tileKey x) = s3.fld F.TIL_CHK_SOFT (tileKey x) := by
    rw [after_congr (a := softEvent (.tile x) true) (b := seqA _) (by simp only [softEvent, if_true]; rfl)]
    simp [hs3, hs2, hs1, State.fld, modTsum, modDie]
  have h3 : s3.fld F.TIL_CHK_SOFT (tileKey x) = s2.fld F.TIL_CHK_SOFT (tileKey x) :=
    fld_bump_bits hc2 F.TIL_CHK_RES F.TIL_CHK_SOFT _ _ 1 (by decide) (by decide) (by decide)
  have h1 : s1.fld F.TIL_CHK_SOFT (tileKey x) = s.fld F.TIL_CHK_SOFT (tileKey x) :=
    fld_bump_reg hc F.CHK_SOFT_RES F.TIL_CHK_SOFT _ _ 1 (regKey_ne_of_off (by decide))
  rw [ht, h3, ← h1]
  exact fld_bump s1 hc1 _ _ 1 (by decide) (by decide)

/-- A first residue event restarts the item with RETRY, and is counted (R113, R320). -/
theorem restartsItem_residueEvent {s : State} (hc : s.canon = true) (x : TileId) (unit : Nat) (spill : Bool) {w : WorkItem}
    (hw : (s.core (.tile x)).item = some w) (hretry : w.retry = false) :
    RestartsItem (.tile x) w s (after (residueEvent (.tile x) unit spill) s) ∧
      (after (residueEvent (.tile x) unit spill) s).fld F.TIL_CHK_SOFT (tileKey x)
        = min (s.fld F.TIL_CHK_SOFT (tileKey x) + 1) F.TIL_CHK_SOFT.top := by
  set s1 := after (modCore (.tile x) fun k => { k with spillBad := k.spillBad || spill }) s with hs1
  set s2 := after (softEvent (.tile x) true) s1 with hs2
  have hc1 : s1.canon = true := after_canon _ s hc
  have hc2 : s2.canon = true := after_canon _ s1 hc1
  obtain ⟨hcore, hbut, -⟩ := modCore_frame s hc (.tile x) fun k => { k with spillBad := k.spillBad || spill }
  rw [← hs1] at hcore hbut
  have hw1 : (s1.core (.tile x)).item = some w := by rw [hcore, ← hw]
  have hsoft := onlyFields_softEvent (.tile x) true s1
  have hcore2 : ∀ c, s2.core c = s1.core c := fun c => after_read_eq (fun s => s.core c) hsoft fun _ => rfl
  have hmile : s2.mile = s.mile := (after_read_eq State.mile hsoft fun _ => rfl).trans (by simp [hs1, modCore])
  have ht : after (residueEvent (.tile x) unit spill) s = after (restartItem (.tile x) true) s2 := by
    rw [after_congr (a := residueEvent (.tile x) unit spill) (b := seqA _) (by simp only [residueEvent]; rfl)]
    simp only [after_seqA_cons, after_seqA_end, ← hs1]
    rw [after_congr (a := checkFail (.tile x) _) (b := seqA [softEvent (.tile x) true, restartItem (.tile x) true])
      (by simp only [checkFail, hw1, hretry, if_true])]
    simp only [after_seqA_cons, after_seqA_end, hs2]
  obtain ⟨hpc, hst, hmvm, hitem, hrest⟩ := restartsItem_restartItem hc2 (c := .tile x) (w := w) (by rw [hcore2]; exact hw1)
  rw [ht]
  refine ⟨⟨hpc, hst, hmvm, by rw [← hmile]; exact hitem, fun c hm => (hrest c hm).trans ((hcore2 c).trans (hbut c hm))⟩, ?_⟩
  have h3 : (after (restartItem (.tile x) true) s2).fld F.TIL_CHK_SOFT (tileKey x) = s2.fld F.TIL_CHK_SOFT (tileKey x) :=
    after_read_eq (fun s => s.fld F.TIL_CHK_SOFT (tileKey x)) (onlyFields_restartItem _ _ _) fun _ => rfl
  rw [h3, hs2, fld_softEvent hc1]
  simp [hs1, modCore, State.fld]

end Sys2Proof.Machine

open Sys2Proof Sys2Proof.Machine

/-- Settles O9: LD and ST are one write and the next instruction; the checks are those of `Checked`. -/
theorem sequencerLoadStore : Obligations.SequencerLoadStore := by
  unfold Obligations.SequencerLoadStore
  refine ⟨fun s c a b imm hc hg => ?_, fun s c a r b o hc hr => ?_⟩
  · intro k o ho h4
    obtain ⟨hr, hpc⟩ := goesOn_iff.1 hg
    have hbad : badAddr (k.addr b.val imm) = false := badAddr_eq_false ho h4
    obtain ⟨v, hv, hok, hcorr⟩ := execLd_reads hg a b imm hbad
    replace hv : v = BitVec.ofNat 32 (leNat ((List.range 4).map fun j => s.byte (coreBase c + o + j))) := hv
    refine ⟨fun ecc hecc => ?_, fun h11 => ?_⟩
    · cases ecc with
      | uncorrectable => exact absurd rfl hecc
      | ok =>
        obtain ⟨hw, ht⟩ := writeS_ok s hc c a.val v hpc
        exact ⟨_, hok, hv ▸ hw, fun _ => ht, fun _ _ h => by simp at h, by rw [ht]⟩
      | corrected =>
        obtain ⟨hw, ht⟩ := writeS_ok _ (after_canon (sramCorr c) s hc) c a.val v (by rw [sramCorr_core]; exact hpc)
        obtain ⟨hs, hcr, hbut⟩ := hw
        rw [sramCorr_core] at hcr
        refine ⟨_, hcorr, ⟨fun n hn => ?_, hcr, fun c' hm => (hbut c' hm).trans (sramCorr_core s c c')⟩, fun h => by simp at h,
          fun x hx _ => ?_, by rw [ht, sramCorr_frame]⟩
        · rw [hs n hn, hv, sramCorr_core]
        · subst hx
          obtain ⟨hcnt, hregs⟩ := sramCorr_counts hc x
          rw [ht]
          exact ⟨hcnt, hregs⟩
    · have h11' : ¬ k.addr b.val imm < 0x1100 := not_lt.2 h11
      set s1 := after (putBytes (coreBase c + o) (leBytes 4 (k.sreg a.val).toNat)) s with hs1
      have hc1 : s1.canon = true := after_canon _ s hc
      have hfr : s1 = { s with mem := s1.mem } := putBytes_frame _ _ s
      have hcore : ∀ c, s1.core c = s.core c := fun c =>
        after_read_eq (fun s => s.core c) (onlyFields_putBytes (List.mem_singleton.2 rfl) _ _ _) fun _ => rfl
      obtain ⟨hcr, hbut, ht⟩ := nextPc_frame s1 hc1 c (by rw [hcore]; exact hpc)
      refine ⟨after (nextPc c) s1, ?_, ?_, fun c' hm => (hbut c' hm).trans (hcore c'), ?_, ?_, ?_⟩
      · refine (runAct_onRun hr _).trans ?_
        have hb' : badAddr ((s.core c).addr b.val imm) = false := hbad
        have h' : ¬ (s.core c).addr b.val imm < 0x1100 := h11'
        simp only [hb', Bool.false_eq_true, if_false, if_neg h', after_seqA_cons, after_seqA_end]
        rfl
      · rw [hcr, hcore]
      · have hb := bytes_putBytes hc (coreBase c + o) (leBytes 4 (k.sreg a.val).toNat)
        rw [ht]
        exact (congrArg _ (length_leBytes 4 (k.sreg a.val).toNat).symm).trans hb
      · have hb := bytesBut_putBytes hc (coreBase c + o) (leBytes 4 (k.sreg a.val).toNat)
        rw [length_leBytes] at hb
        rw [ht]
        exact hb
      · rw [ht, hfr]
  · intro acc drv
    have hacc : ∀ i ∈ acc, _ := checked_accInstrs c b o r
    have hdrv : ∀ i ∈ drv, _ := checked_driveInstrs c a
    have hsend := checked_send c o r
    refine ⟨⟨after (sramCorr c) s, fun x hx => ?_, fun ⟨d, k, hk⟩ => ?_, sramCorr_frame s c, fun i hi => ?_⟩, fun q hq i hi => ?_,
      fun x w j hx hw => ⟨fun q hb hg hin f hf => ?_, fun hret f hf => ?_⟩⟩
    · subst hx
      exact sramCorr_counts hc x
    · subst hk
      rfl
    · rw [List.cons_append, List.mem_cons, List.mem_append] at hi
      obtain rfl | hi | hi := hi
      · exact hsend.exec_corrected hr
      · obtain ⟨lo, hi', -, h⟩ := hacc i hi
        exact h.exec_corrected hr
      · exact (hdrv i hi).exec_corrected hr
    · rw [List.cons_append, List.mem_cons, List.mem_append] at hi
      obtain rfl | hi | hi := hi
      · refine hsend.exec_unread hr ?_
        have := o.isLt
        have := r.isLt
        simp only [inSend, Bool.or_eq_false_iff, Bool.and_eq_false_iff, decide_eq_false_iff_not]
        unfold outOff
        omega
      · obtain ⟨lo, hi', hle, h⟩ := hacc i hi
        refine h.exec_unread hr ?_
        simp only [Bool.and_eq_false_iff, decide_eq_false_iff_not]
        omega
      · refine (hdrv i hi).exec_unread hr ?_
        simp only [inDrive, Bool.and_eq_false_iff, decide_eq_false_iff_not]
        unfold driveOff
        omega
    · subst hx
      refine ⟨_, (hdrv f hf).exec_read hr hin, ?_⟩
      refine sramUncorr_ends hc x ?_ hw hb hg
      simp only [inDrive, Bool.and_eq_true, decide_eq_true_eq] at hin
      unfold driveOff at hin
      omega
    · subst hx
      obtain ⟨lo, hi', -, h⟩ := hacc f hf
      obtain ⟨⟨hpc, hst, -, hitem, hbut⟩, hcnt⟩ := restartsItem_residueEvent hc x (unitDigital (.tile x)) false hw hret
      exact ⟨_, h.exec_residue hr, hpc, hst, hitem, hbut, hcnt⟩
end

section
/-!
SUPPORT. The end of a work item on a die that no partition owns.
-/
namespace Sys2Proof.Machine

open Tests in
/-- The test state of a tile with its item at hand, with die 0 in no partition (0x3F, R495) and a change of routes that waits under that
number. -/
def unowned : State := after (seqA [modNvm fun n => { n with ptab := { n.ptab with die := [0x3F] } },
  modJob 0x3F fun j => { j with switches := [⟨0, 0, [], []⟩] }]) busy

end Sys2Proof.Machine

open Sys2Proof Sys2Proof.Machine

/-- Refutes O11: `State.steady` covers partitions 0–15, and the end of an item on a die of no partition makes the changes of routes that wait
under 0x3F, so DONE changes a job. -/
theorem not_workItems : ¬ Obligations.WorkItems := by
  unfold Obligations.WorkItems
  intro h
  obtain ⟨hc, hb, hs, hg, hi, hr⟩ : unowned.canon = true ∧ unowned.byHandle Tests.wi.handle = some 5 ∧ unowned.steady = true ∧
      (unowned.passage 5).guest = false ∧ (unowned.core Tests.c0).item = some Tests.wi ∧ unowned.goesOn Tests.c0 = true := by decide +kernel
  obtain ⟨⟨t, ht, -, -, -, -, hjobs⟩, -⟩ := ((h.2 unowned Tests.wi 5 hc hb hs).2 hg).1 Tests.t0 hi hr
  have hrun : (match exec (.done Tests.c0) unowned with
    | .next t => (t.job 0x3F).switches.isEmpty
    | _ => false) = true := by decide +kernel
  have hbefore : (unowned.job 0x3F).switches.isEmpty = false := by decide +kernel
  rw [show exec (.done Tests.c0) unowned = .next t from ht] at hrun
  have hsame : t.jobs = unowned.jobs := (congrArg State.jobs hjobs :)
  have hafter : (t.job 0x3F).switches.isEmpty = true := hrun
  rw [State.job, hsame] at hafter
  exact Bool.false_ne_true (hbefore.symm.trans hafter)
end

section
/-!
SUPPORT. Instructions that change their sequencer and go on (R107), and MVM (R80–R82, R85).
-/
namespace Sys2Proof.Machine

/-! ## An instruction that goes on -/

section
variable {fs : List StateField} {s : State} {c : CoreId} {f : Core → Core} {A B : Act}

/-- What an action leaves of the sequencers. -/
theorem core_after_of_onlyFields (hfs : StateField.cores ∉ fs) (h : Allowed (onlyFields fs) (A s) s) (c : CoreId) :
    (after A s).core c = s.core c :=
  after_read_eq (fun s => s.core c) h fun t => by simp [State.overlay, hfs, State.core]

/-- The footprint over whole fields widens. -/
theorem onlyFields_mono {fs gs : List StateField} (h : fs ⊆ gs) {l : List Eff} (ha : Allowed (onlyFields fs) l s) : Allowed (onlyFields gs) l s :=
  ha.mono fun _ _ he f hf => h (he f hf)

/-- An instruction that changes its sequencer, and no other, between what it does elsewhere, and goes on. -/
theorem after_goesOn (hfs : StateField.cores ∉ fs) (hA : Allowed (onlyFields fs) (A s) s) (hB : ∀ s, Allowed (onlyFields fs) (B s) s)
    (hc : s.canon = true) (hp : (f (s.core c)).pc = (s.core c).pc) (hpc : (s.core c).pc < 1023) :
    let u := after B (after (modCore c f) (after A s))
    let t := after (seqA [A, modCore c f, B, nextPc c]) s
    t.core c = { f (s.core c) with pc := (s.core c).pc + 1 } ∧ CoresBut [c] s t ∧ t = { u with cores := t.cores } ∧
      t = State.overlay (.cores :: fs) s t := by
  intro u t
  set s1 := after A s with hs1
  set s2 := after (modCore c f) s1 with hs2
  have hc1 : s1.canon = true := after_canon A s hc
  have hc2 : s2.canon = true := after_canon _ s1 hc1
  have hcu : u.canon = true := after_canon _ s2 hc2
  have h1 : ∀ c, s1.core c = s.core c := core_after_of_onlyFields hfs hA
  have h3 : ∀ c, u.core c = s2.core c := core_after_of_onlyFields hfs (hB s2)
  have hcore : u.core c = f (s.core c) := by rw [h3, hs2, core_modCore s1 hc1, if_pos rfl, h1]
  have ht : t = after (nextPc c) u := by simp only [t, u, after_seqA_cons, after_seqA_end]
  obtain ⟨hcr, hbut, hfr⟩ := nextPc_frame u hcu c (by rw [hcore, hp]; exact hpc)
  rw [← ht] at hcr hbut hfr
  have hov : u = State.overlay (.cores :: fs) s u := by
    refine overlay_trans _ (overlay_trans _ (b := s1) (after_overlay _ (onlyFields_mono (by simp) hA)) (c := s2) ?_)
      (after_overlay _ (onlyFields_mono (by simp) (hB s2)))
    exact after_overlay _ (by simp)
  refine ⟨by rw [hcr, hcore, hp], fun c' hm => ?_, hfr, ?_⟩
  · rw [hbut c' hm, h3, hs2, core_modCore s1 hc1, if_neg (by simpa using hm), h1]
  · refine overlay_trans _ hov ?_
    rw [ht]
    refine after_overlay _ ?_
    rw [nextPc, if_neg (by rw [hcore, hp]; omega)]
    simp

end

/-! ## MVM is issued -/

/-- A sequencer with an MVM outstanding (R80). -/
def Core.issueMvm (m : MvmOp) (k : Core) : Core := { (k.ask 1) with mvm := some m, mvmRes := none, passFirst := k.opass.isSome }

/-- What an MVM costs: at a tile its counts and its charge, or the count of one that is not issued; in a context its place in the queue
(R82, R85, R276). -/
def mvmCost (c : CoreId) (m : MvmOp) : Act :=
  match c with
  | .ctx d k => tierWant d k
  | .tile t => if m.skipped then bump F.TIL_ARR_SKIP_MVM (tileKey t) 1
    else seqA [whenA (fun s => (s.conv t).track != (s.conv t).next) (modConv t fun c => { c with track := c.next }),
      bumpW F.TIL_ARR_MVM_COUNT (tileKey t) 1,
      bump F.TIL_ARR_SKIP_GROUP (tileKey t) (groupsIdle m.drives), chargeDie t.d.val m.pconv m.nrow]

/-- The operation that MVM on the drive buffer of sA is. -/
def State.mvmOp (s : State) (c : CoreId) (a : Fin 16) : MvmOp :=
  alignMvm (((s.core c).sreg a.val).toNat % 2) (s.inputs c (s.core c).work (((s.core c).sreg a.val).toNat % 2)).1 (s.core c).work.rcp.alignExt
    (s.inputs c (s.core c).work (((s.core c).sreg a.val).toNat % 2)).2.1

theorem exec_mvm_of_outstanding {s : State} {c : CoreId} (hr : s.runs c = true) (a : Fin 16) (h : (s.core c).mvm.isSome = true) :
    exec (.mvm ⟨c, .ok⟩ a) s = .next s := by
  refine (runAct_onRun hr _).trans (congrArg _ ?_)
  refine (after_congr ?_).trans (after_skipped s)
  simp only [coreRead, h, true_or, if_true]
  rfl

theorem exec_mvm_of_issued {s : State} {c : CoreId} (hr : s.runs c = true) (a : Fin 16) (h : (s.core c).mvm = none) (hm : s.mayIssue c = true) :
    exec (.mvm ⟨c, .ok⟩ a) s
      = .next (after (seqA [countRsvd (coreDie c) (s.inputs c (s.core c).work (((s.core c).sreg a.val).toNat % 2)).2.2,
          modCore c (Core.issueMvm (s.mvmOp c a)), mvmCost c (s.mvmOp c a), nextPc c]) s) := by
  refine (runAct_onRun hr _).trans (congrArg _ (after_congr ?_))
  simp only [coreRead, h, hm, Option.isSome_none, Bool.false_eq_true, Bool.true_eq_false, and_false, or_false, if_false]
  rfl

theorem onlyFields_countRsvd (d n : Nat) (s : State) : Allowed (onlyFields [.regs]) (countRsvd d n s) s := by simp [countRsvd]

theorem onlyFields_mvmCost (c : CoreId) (m : MvmOp) (s : State) : Allowed (onlyFields [.regs, .dies, .convs]) (mvmCost c m s) s := by
  cases c with
  | ctx d k => simp [mvmCost, tierWant]
  | tile t =>
    simp only [mvmCost]
    split <;> simp [chargeDie]

theorem diesBut_mvmCost {s : State} (hc : s.canon = true) (c : CoreId) (m : MvmOp) : DiesBut [coreDie c] s (after (mvmCost c m) s) := by
  refine after_diesBut hc ?_
  cases c with
  | ctx d k => simp [mvmCost, tierWant, coreDie]
  | tile t =>
    simp only [mvmCost]
    split <;> simp [chargeDie, coreDie]

/-- A counter that wraps reads one more, modulo its width. -/
theorem fld_bumpW {s : State} (hc : s.canon = true) (f : Fld) (i n : Nat) (hl : f.lo ≤ f.hi) (hh : f.hi < 64) :
    (after (bumpW f i n) s).fld f i = (s.fld f i + n) % 2 ^ (f.hi + 1 - f.lo) := by
  simp only [bumpW, after_withA]
  exact fld_setF_same s hc f i _ hl hh

/-- The charge of an issue depends on the sensors alone. -/
theorem charge_congr {s t : State} (h : t.sensors = s.sensors) (d p n : Nat) : t.charge d p n = s.charge d p n := by
  have hs : t.sensor = s.sensor := funext fun k => by simp only [State.sensor, h]
  have ht : t.temp = s.temp := by
    funext u k
    unfold State.temp
    rw [hs]
  simp only [State.charge, ht]

/-- What a charged issue at a tile does before its charge: the trim values of a track update, and its counts. -/
def mvmCounts (x : TileId) (m : MvmOp) : Act := seqA [
  whenA (fun s => (s.conv x).track != (s.conv x).next) (modConv x fun c => { c with track := c.next }),
  bumpW F.TIL_ARR_MVM_COUNT (tileKey x) 1, bump F.TIL_ARR_SKIP_GROUP (tileKey x) (groupsIdle m.drives)]

theorem after_mvmCost_of_issued (x : TileId) {m : MvmOp} (hm : m.skipped = false) (s : State) :
    after (mvmCost (.tile x) m) s = after (chargeDie x.d.val m.pconv m.nrow) (after (mvmCounts x m) s) := by
  simp only [mvmCost, mvmCounts, hm, Bool.false_eq_true, if_false, after_seqA_cons, after_seqA_end]

theorem onlyFields_mvmCounts (x : TileId) (m : MvmOp) (s : State) : Allowed (onlyFields [.regs, .convs]) (mvmCounts x m s) s := by
  simp [mvmCounts]

theorem fld_mvmCounts {s : State} (hc : s.canon = true) (x : TileId) (m : MvmOp) :
    (after (mvmCounts x m) s).fld F.TIL_ARR_MVM_COUNT (tileKey x) = (s.fld F.TIL_ARR_MVM_COUNT (tileKey x) + 1) % 2 ^ 48 := by
  obtain ⟨s1, hs1⟩ : ∃ s1, s1 = after (whenA (fun s => (s.conv x).track != (s.conv x).next) (modConv x fun c => { c with track := c.next })) s :=
    ⟨_, rfl⟩
  have hc1 : s1.canon = true := hs1 ▸ after_canon _ s hc
  have h1 : s1.fld F.TIL_ARR_MVM_COUNT (tileKey x) = s.fld F.TIL_ARR_MVM_COUNT (tileKey x) := by
    rw [hs1]
    exact after_read_eq (fun s => s.fld F.TIL_ARR_MVM_COUNT (tileKey x)) (fs := [.convs]) (by simp) fun _ => rfl
  have h2 : (after (bumpW F.TIL_ARR_MVM_COUNT (tileKey x) 1) s1).fld F.TIL_ARR_MVM_COUNT (tileKey x)
      = (s1.fld F.TIL_ARR_MVM_COUNT (tileKey x) + 1) % 2 ^ 48 := fld_bumpW hc1 _ _ 1 (by decide) (by decide)
  have hc2 := after_canon (bumpW F.TIL_ARR_MVM_COUNT (tileKey x) 1) s1 hc1
  have h3 := fld_bump_reg hc2 F.TIL_ARR_SKIP_GROUP F.TIL_ARR_MVM_COUNT (tileKey x) (tileKey x) (groupsIdle m.drives)
    (regKey_ne_of_off (by decide))
  simp only [mvmCounts, after_seqA_cons, after_seqA_end, ← hs1]
  rw [h3, h2, h1]

theorem conv_mvmCounts {s : State} (hc : s.canon = true) (x : TileId) (m : MvmOp) :
    ((after (mvmCounts x m) s).conv x).track = (s.conv x).next := by
  simp only [mvmCounts, after_seqA_cons, after_seqA_end, after_whenA, bump, bumpW, setF, after_withA, after_eff, ap_reg_reads]
  split
  · simp [modConv, conv_ap_conv s hc]
  · next hne => simpa using hne

/-- An issued MVM at a tile: counted, charged, and the trim values of a track update taken. -/
theorem mvmCost_of_issued {s : State} (hc : s.canon = true) (x : TileId) {m : MvmOp} (hm : m.skipped = false) :
    (after (mvmCost (.tile x) m) s).fld F.TIL_ARR_MVM_COUNT (tileKey x) = (s.fld F.TIL_ARR_MVM_COUNT (tileKey x) + 1) % 2 ^ 48 ∧
      ((after (mvmCost (.tile x) m) s).die x.d.val).credit = (s.die x.d.val).credit - s.charge x.d.val m.pconv m.nrow ∧
      ((after (mvmCost (.tile x) m) s).conv x).track = (s.conv x).next := by
  rw [after_mvmCost_of_issued x hm]
  obtain ⟨u, hu⟩ : ∃ u, u = after (mvmCounts x m) s := ⟨_, rfl⟩
  have hcu : u.canon = true := hu ▸ after_canon _ s hc
  have hdie : u.die x.d.val = s.die x.d.val := hu ▸ after_read_eq (fun s => s.die x.d.val) (onlyFields_mvmCounts x m s) fun _ => rfl
  have hsens : u.sensors = s.sensors := hu ▸ after_read_eq (fun s => s.sensors) (onlyFields_mvmCounts x m s) fun _ => rfl
  have hfld := fld_mvmCounts hc x m
  have hconv := conv_mvmCounts hc x m
  rw [← hu] at hfld hconv ⊢
  refine ⟨hfld, ?_, hconv⟩
  simp only [chargeDie, modDie, after, eff, apAll_cons, apAll_nil, die_ap_die u hcu, if_true, Die.spend, hdie, charge_congr hsens]

/-- Reserved codes are counted in a register of the die's scheduler, and nothing else changes. -/
theorem fld_countRsvd {s : State} (hc : s.canon = true) (d n : Nat) {f : Fld} (i : Nat) (h : f.off % 65536 ≠ 0x820) :
    (after (countRsvd d n) s).fld f i = s.fld f i := by
  rw [countRsvd, after_whenA]
  split
  · exact fld_bump_reg hc F.SCH_FMT_CNT_RSVD_CODE f _ _ _ (regKey_ne_of_off h)
  · rfl

/-- What an issue of MVM at a tile is built on reads as before: what is counted first, and the sequencer's own change. -/
theorem mvm_issue_reads {s : State} (hc : s.canon = true) (c : CoreId) (n : Nat) (f : Core → Core) :
    let u := after (modCore c f) (after (countRsvd (coreDie c) n) s)
    u.dies = s.dies ∧ u.convs = s.convs ∧ u.sensors = s.sensors ∧
      ∀ (g : Fld) (i : Nat), g.off % 65536 ≠ 0x820 → u.fld g i = s.fld g i := by
  intro u
  have h := onlyFields_countRsvd (coreDie c) n s
  refine ⟨after_read_eq State.dies h fun _ => rfl, after_read_eq State.convs h fun _ => rfl, after_read_eq State.sensors h fun _ => rfl,
    fun g i hg => ?_⟩
  exact fld_countRsvd hc _ n i hg

/-! ## MVM is complete -/

/-- A sequencer whose MVM, or pass, is over with a result (R80, R113). -/
def Core.keepRes (opass : Bool) (r : ArrRes) (k : Core) : Core :=
  if opass then { (k.hit 2) with opass := none, opRes := some r } else { (k.hit 1) with mvm := none, mvmRes := some r }

/-- The halves of an operation's checksum agree at a tile (R318). -/
def State.halvesAgree (s : State) (x : TileId) (opass : Bool) (m : MvmOp) : Prop :=
  ∀ h, h < 2 → halfBad s.free (s.core (.tile x)).work.rng (s.cell x)
    (chkTol (s.chkK x.d.val) (s.core (.tile x)).work.rng (s.temp x.d.val (nearSns x)) (opSP m opass)) m h = false

/-- An operation whose halves agree gives the columns of the codes drawn now. -/
theorem convDone_of_halvesAgree {s : State} (hc : s.canon = true) (x : TileId) (opass : Bool) (m : MvmOp) (h : s.halvesAgree x opass m) :
    let t := after (convDone x opass m) s
    t.core (.tile x) = (s.core (.tile x)).keepRes opass
        ⟨arrayOut s.free (s.core (.tile x)).work.rng (s.cell x) m, scaleOf (s.core (.tile x)).work m⟩ ∧ CoresBut [.tile x] s t ∧
      RegsBut [regKey .til (tileKey x) F.TIL_ARR_ADCSAT_COUNT.off] s t ∧ t = { s with cores := t.cores, regs := t.regs, free := s.free + 1 } := by
  intro t
  have h0 := h 0 (by decide)
  have h1 := h 1 (by decide)
  obtain ⟨u, hu⟩ : ∃ u, u = after (seqA [draw, whenA (fun _ => railed s.free (s.core (.tile x)).work.rng (s.cell x) m 0 ||
      railed s.free (s.core (.tile x)).work.rng (s.cell x) m 1) (bump F.TIL_ARR_ADCSAT_COUNT (tileKey x) 1)]) s := ⟨_, rfl⟩
  obtain ⟨v, hv⟩ : ∃ v, v = after (modCore (.tile x) fun k => if opass then { k with opass := none } else { k with mvm := none }) u := ⟨_, rfl⟩
  have hcu : u.canon = true := hu ▸ after_canon _ s hc
  have hcv : v.canon = true := hv ▸ after_canon _ u hcu
  have ht : t = after (modCore (.tile x) fun k =>
      if opass then { (k.hit 2) with opRes := some ⟨arrayOut s.free (s.core (.tile x)).work.rng (s.cell x) m, scaleOf (s.core (.tile x)).work m⟩ }
      else { (k.hit 1) with mvmRes := some ⟨arrayOut s.free (s.core (.tile x)).work.rng (s.cell x) m, scaleOf (s.core (.tile x)).work m⟩ }) v := by
    rw [show t = after (seqA _) s from after_congr (by simp only [convDone, h0, h1, Bool.or_false, Bool.false_eq_true, if_false]; rfl)]
    simp only [after_seqA_cons, after_seqA_end, hu, hv]
  have hcore : ∀ c, u.core c = s.core c := fun c => hu ▸ core_after_of_onlyFields (fs := [.regs, .free]) (by decide) (by simp) c
  obtain ⟨hcr1, hbut1, hfr1⟩ := modCore_frame u hcu (.tile x) fun k => if opass then { k with opass := none } else { k with mvm := none }
  obtain ⟨hcr2, hbut2, hfr2⟩ := modCore_frame v hcv (.tile x) fun k =>
      if opass then { (k.hit 2) with opRes := some ⟨arrayOut s.free (s.core (.tile x)).work.rng (s.cell x) m, scaleOf (s.core (.tile x)).work m⟩ }
      else { (k.hit 1) with mvmRes := some ⟨arrayOut s.free (s.core (.tile x)).work.rng (s.cell x) m, scaleOf (s.core (.tile x)).work m⟩ }
  rw [← hv] at hcr1 hbut1 hfr1
  rw [← ht] at hcr2 hbut2 hfr2
  have hregs : RegsBut [regKey .til (tileKey x) F.TIL_ARR_ADCSAT_COUNT.off] s u := hu ▸ after_regsBut hc (by simp [F.TIL_ARR_ADCSAT_COUNT])
  have hufr : u = { s with regs := u.regs, free := s.free + 1 } := by
    have hov := after_overlay [.regs] (a := whenA (fun _ => railed s.free (s.core (.tile x)).work.rng (s.cell x) m 0 ||
      railed s.free (s.core (.tile x)).work.rng (s.cell x) m 1) (bump F.TIL_ARR_ADCSAT_COUNT (tileKey x) 1)) (s := after draw s) (by simp)
    rw [after_seqA_cons, after_seqA_cons, after_seqA_end] at hu
    rw [← hu] at hov
    exact hov
  refine ⟨?_, fun c hm => (hbut2 c hm).trans ((hbut1 c hm).trans (hcore c)), fun k hk => ?_, ?_⟩
  · rw [hcr2, hcr1, hcore]
    cases opass <;> rfl
  · rw [hfr2, hfr1]
    exact hregs k hk
  · rw [hfr2, hfr1, hufr]

theorem exec_mvmComplete_of_skipped {s : State} {x : TileId} {m : MvmOp} (hm : (s.core (.tile x)).mvm = some m) (hs : m.skipped = true)
    (err : CoreErr) : exec (.mvmComplete ⟨.tile x, err⟩) s = .next (after (modCore (.tile x) fun k =>
      { (k.hit 1) with mvm := none, mvmRes := some ⟨List.replicate 512 0, scaleOf k.work m⟩ }) s) := by
  refine congrArg _ (after_congr ?_)
  simp only [hm, hs, if_true]

theorem exec_mvmComplete_of_residue {s : State} {x : TileId} {m : MvmOp} (hm : (s.core (.tile x)).mvm = some m) (hs : m.skipped = false)
    (hn : (s.core (.tile x)).mvmNext = true) : exec (.mvmComplete ⟨.tile x, .residue⟩) s = .next (after (seqA
      [modCore (.tile x) fun k => { k with mvm := none }, residueEvent (.tile x) (unitDigital (.tile x)) false]) s) := by
  refine congrArg _ (after_congr ?_)
  simp only [hm, hs, hn, Bool.false_eq_true, Bool.true_eq_false, if_false, if_true]

theorem exec_mvmComplete_of_issued {s : State} {x : TileId} {m : MvmOp} (hm : (s.core (.tile x)).mvm = some m) (hs : m.skipped = false)
    (hn : (s.core (.tile x)).mvmNext = true) {err : CoreErr} (he : err ≠ .residue) :
    exec (.mvmComplete ⟨.tile x, err⟩) s = .next (after (convDone x false m) s) := by
  refine congrArg _ (after_congr ?_)
  simp only [hm, hs, hn, he, Bool.false_eq_true, Bool.true_eq_false, if_false]

end Sys2Proof.Machine

open Sys2Proof Sys2Proof.Machine

/-- Settles O12: an issued MVM changes its sequencer, what it costs and the pc; one that completes keeps what its array gives. -/
theorem matrixProducts : Obligations.MatrixProducts := by
  unfold Obligations.MatrixProducts
  refine ⟨fun s c a hc hg => ?_, fun s x m hc => ?_⟩
  · intro k buf inp m
    obtain ⟨hr, hpc⟩ := goesOn_iff.1 hg
    refine ⟨exec_mvm_of_outstanding hr a, fun hm hmay => ?_⟩
    obtain ⟨u, hu⟩ : ∃ u, u = after (modCore c (Core.issueMvm m)) (after (countRsvd (coreDie c) inp.2.2) s) := ⟨_, rfl⟩
    have hcu : u.canon = true := hu ▸ after_canon _ _ (after_canon _ s hc)
    obtain ⟨hdies, hconvs, hsens, hfld⟩ := mvm_issue_reads hc c inp.2.2 (Core.issueMvm m)
    rw [← hu] at hdies hconvs hsens hfld
    obtain ⟨hcr, hbut, hfr, hov⟩ := after_goesOn (c := c) (f := Core.issueMvm m) (fs := [.regs, .dies, .convs]) (by decide)
      (onlyFields_mono (by simp) (onlyFields_countRsvd (coreDie c) inp.2.2 s)) (onlyFields_mvmCost c m) hc rfl hpc
    obtain ⟨t, ht⟩ : ∃ t, t = after (seqA [countRsvd (coreDie c) inp.2.2, modCore c (Core.issueMvm m), mvmCost c m, nextPc c]) s := ⟨_, rfl⟩
    rw [← hu, ← ht] at hfr
    rw [← ht] at hcr hbut hov
    have hdie : ∀ d, u.die d = s.die d := fun d => by simp only [State.die, hdies]
    refine ⟨t, (exec_mvm_of_issued hr a hm hmay).trans (congrArg _ ht.symm), hcr, hbut, fun y hy hs => ?_, fun y hy hs => ?_, ?_, hov⟩
    · subst hy
      obtain ⟨h1, h2, h3⟩ := mvmCost_of_issued hcu y hs
      rw [hfr]
      refine ⟨h1.trans (by rw [hfld _ _ (by decide)]), h2.trans (by rw [hdie, charge_congr hsens]), h3.trans ?_⟩
      simp only [State.conv, hconvs]
    · subst hy
      have hcost : after (mvmCost (.tile y) m) u = after (bump F.TIL_ARR_SKIP_MVM (tileKey y) 1) u := by simp only [mvmCost, hs, if_true]
      have h1 : (after (bump F.TIL_ARR_SKIP_MVM (tileKey y) 1) u).fld F.TIL_ARR_SKIP_MVM (tileKey y)
          = min (u.fld F.TIL_ARR_SKIP_MVM (tileKey y) + 1) F.TIL_ARR_SKIP_MVM.top := fld_bump u hcu _ _ 1 (by decide) (by decide)
      rw [hfld _ _ (by decide)] at h1
      rw [hfr, hcost]
      exact ⟨h1, hdies, hconvs⟩
    · intro d hd
      rw [hfr]
      exact (diesBut_mvmCost hcu c m d hd).trans (hdie d)
  · intro c k f tol hm
    refine ⟨fun hs err => ?_, fun hs hn w hw hret => ?_, fun hs hn err herr => ?_⟩
    · obtain ⟨hcr, hbut, hfr⟩ := modCore_frame s hc (.tile x) fun k =>
        { (k.hit 1) with mvm := none, mvmRes := some ⟨List.replicate 512 0, scaleOf k.work m⟩ }
      exact ⟨_, exec_mvmComplete_of_skipped hm hs err, hcr, hbut, hfr⟩
    · obtain ⟨u, hu⟩ : ∃ u, u = after (modCore (.tile x) fun k => { k with mvm := none }) s := ⟨_, rfl⟩
      have hcu : u.canon = true := hu ▸ after_canon _ s hc
      obtain ⟨hcr, hbut, -⟩ := modCore_frame s hc (.tile x) fun k => { k with mvm := none }
      rw [← hu] at hcr hbut
      obtain ⟨⟨hpc, -, hmvm, ⟨w', hw', hww⟩, hrest⟩, -⟩ := restartsItem_residueEvent hcu x (unitDigital (.tile x)) false (w := w)
        (by rw [hcr, ← hw]) hret
      refine ⟨_, (exec_mvmComplete_of_residue hm hs hn).trans (by rw [after_seqA_cons, after_seqA_cons, after_seqA_end, ← hu]), hpc, hmvm, ?_,
        fun c hm => (hrest c hm).trans (hbut c hm)⟩
      rw [hw', hww]
      rfl
    · refine ⟨_, exec_mvmComplete_of_issued hm hs hn herr, fun hagree => ?_⟩
      obtain ⟨hcr, hbut, hregs, hfr⟩ := convDone_of_halvesAgree hc x false m hagree
      exact ⟨hcr, hbut, hregs, hfr⟩
end

section
/-!
SUPPORT. The outlier pass (R118–R120), and what a tier engine reads of sound memory (R263, R268).
-/
namespace Sys2Proof.Machine

/-! ## Reads of sound memory -/

section
variable {P : State → Eff → Prop} {Inv : State → Prop}

/-- What allowed effects keep holds after them. -/
theorem Allowed.inv (hi : ∀ s e, P s e → Inv s → Inv (e.ap s)) {l : List Eff} {s : State} (h : Allowed P l s) (hs : Inv s) :
    Inv (apAll l s) := by
  induction h with
  | nil s => exact hs
  | cons he _ ih => exact ih (hi _ _ he hs)

/-- Each action of a list is allowed where what allowed effects keep holds. -/
theorem allowed_seqA_of_inv (hi : ∀ s e, P s e → Inv s → Inv (e.ap s)) : ∀ (l : List Act) (s : State),
    (∀ a ∈ l, ∀ s, Inv s → Allowed P (a s) s) → Inv s → Allowed P (seqA l s) s
  | [], s, _, _ => .nil s
  | a :: r, s, h, hs => by
    have ha := h a (List.mem_cons_self ..) s hs
    exact (allowed_seqA_cons a r s).2 ⟨ha, allowed_seqA_of_inv hi r _ (fun b hb => h b (List.mem_cons_of_mem _ hb)) (ha.inv hi hs)⟩

theorem allowed_forA_of_inv (hi : ∀ s e, P s e → Inv s → Inv (e.ap s)) {α : Type} (l : List α) (f : α → Act) (s : State)
    (h : ∀ x ∈ l, ∀ s, Inv s → Allowed P (f x s) s) (hs : Inv s) : Allowed P (forA l f s) s := by
  refine allowed_seqA_of_inv hi _ s (fun a ha => ?_) hs
  obtain ⟨x, hx, rfl⟩ := List.mem_map.1 ha
  exact h x hx

end

/-- What an effect of a read of sound memory can be: a slice's lines, its counts, and what is sent. -/
def LineRead (s : State) (e : Eff) : Prop :=
  match e with
  | .reg b _ o _ => b = .stk ∧ o < 0x400
  | .die d x => x = { s.die d with cache := x.cache }
  | .out _ => True
  | _ => False

theorem lineRead_poison (s : State) (e : Eff) (h : LineRead s e) (hp : s.poison = []) : (e.ap s).poison = [] := by
  cases e with
  | reg | die | out => exact hp
  | _ => exact h.elim

theorem lineRead_engineLine (line : Nat) (s : State) (hp : s.poison = []) : Allowed LineRead (engineLine line s) s := by
  have hstk : ∀ s i o v, o < 0x400 → LineRead s (.reg .stk i o v) := fun _ _ _ _ ho => ⟨rfl, ho⟩
  have hcache : ∀ d key l s, Allowed LineRead (modDie d (fun x => x.putSet key l) s) s := fun d key l s =>
    (allowed_modDie s d _).2 (by exact rfl)
  have htouch : ∀ d s, Allowed LineRead (touchLine d line id s) s := fun d s => by
    refine (allowed_modDie s d _).2 ?_
    change _ = _
    dsimp only
    split <;> rfl
  have hwords : ∀ s : State, s.poison = [] → Allowed LineRead (lineWords line [] s) s := fun s hp =>
    allowed_forA_of_inv (Inv := fun s => s.poison = []) lineRead_poison _ _ s (fun i _ s hp => by simp [fillWord, hp]) hp
  have halloc : ∀ d c s, Allowed LineRead (allocLine d c s) s := fun d c s => by
    simp only [allocLine, writeBack]
    split
    · exact .nil _
    · split
      · exact hcache _ _ _ _
      · split
        · simp only [allowed_seqA_cons, allowed_whenA, allowed_bump, allowed_bumpW, allowed_seqA_nil]
          exact ⟨fun _ => ⟨hstk _ _ _ _ (by decide), hstk _ _ _ _ (by decide), trivial⟩, hcache _ _ _ _, trivial⟩
        · exact .nil _
  simp only [engineLine]
  split
  · simp only [allowed_seqA_cons, allowed_bump, allowed_seqA_nil, htouch, and_true]
    exact hstk _ _ _ _ (by decide)
  · simp only [allowed_seqA_cons, allowed_bump, allowed_bumpW, allowed_seqA_nil, halloc, and_true]
    exact ⟨hstk _ _ _ _ (by decide), hstk _ _ _ _ (by decide), hwords _ hp⟩

theorem lineRead_engineRead (e a n : Nat) (s : State) (hp : s.poison = []) : Allowed LineRead (engineRead e a n s) s := by
  simp only [engineRead, allowed_seqA_cons, allowed_seqA_nil, and_true]
  have hout : Allowed LineRead (forA (List.range 8) (fun k =>
      whenA (fun _ => (linesOf a n).countP (fun l => setKey l % 16 / 2 == k) != 0)
        (emit (.tierRead e k ((linesOf a n).countP fun l => setKey l % 16 / 2 == k)))) s) s :=
    allowed_forA _ _ s fun k _ s => (allowed_whenA _ _ s).2 fun _ => (allowed_emit s _).2 trivial
  exact ⟨hout, allowed_forA_of_inv (Inv := fun s => s.poison = []) lineRead_poison _ _ _ (fun l _ s hp => lineRead_engineLine l s hp)
    (hout.inv (Inv := fun s => s.poison = []) lineRead_poison hp)⟩

theorem lineRead_pairRead (c : CoreId) (d buf a : Nat) (ps : List (Nat × Pair)) (s : State) (hp : s.poison = []) :
    Allowed LineRead (pairRead c d buf a ps s) s := by
  simp only [pairRead]
  split
  · exact .nil _
  · exact allowed_forA_of_inv (Inv := fun s => s.poison = []) lineRead_poison _ _ s (fun p _ s hp => lineRead_engineRead _ _ _ s hp) hp

/-- What a read of sound memory leaves. -/
theorem after_lineRead {s : State} (hc : s.canon = true) {a : Act} (h : Allowed LineRead (a s) s) :
    (∀ c, (after a s).core c = s.core c) ∧ DiesButCache s (after a s) ∧
      after a s = { s with regs := (after a s).regs, dies := (after a s).dies, out := (after a s).out } := by
  have hof : Allowed (onlyFields [.regs, .dies, .out]) (a s) s := h.mono fun s e he => by
    cases e with
    | reg | die | out => simp
    | _ => exact he.elim
  refine ⟨core_after_of_onlyFields (by decide) hof, fun d => ?_, after_overlay _ hof⟩
  refine after_dieRel (R := fun _ x y => y = { x with cache := y.cache }) (fun _ _ => rfl) (fun _ _ _ _ h1 h2 => by rw [h2, h1]) hc
    (h.mono fun s e he => ?_) d
  cases e with
  | die => exact he
  | reg | out => trivial
  | _ => exact he.elim

/-! ## OPASS is issued -/

/-- The outlier pass of drives at a scale (R118). -/
def passOp (buf : Nat) (p : List Int × Int) : MvmOp :=
  ⟨buf, 8, 0, p.2, p.1, ((List.range 8).map (rowsIn false 8 p.1)).countP (· != 0), ((List.range 8).map (rowsIn false 8 p.1)).sum, false, false, true⟩

/-- A sequencer with a pass outstanding. -/
def Core.issuePass (m : MvmOp) (k : Core) : Core := { (k.ask 2) with opass := some m, opRes := none, passFirst := false }

/-- What a pass costs at a tile: its count and its charge. -/
def passCost (c : CoreId) (m : MvmOp) : Act :=
  match c with
  | .ctx _ _ => skip
  | .tile t => seqA [bump F.TIL_OUT_PASS_COUNT (tileKey t) 1, chargeDie t.d.val m.pconv m.nrow]

section
variable {s : State} {c : CoreId} (hr : s.runs c = true) (a : Fin 16) (hn : (s.core c).opass = none)
include hr hn

theorem exec_opass_of_no_pairs
    (hp : passDrives (s.driveLists c (((s.core c).sreg a.val).toNat % 2) (s.core c).work.seg2).1.2.1
      (s.driveLists c (((s.core c).sreg a.val).toNat % 2) (s.core c).work.seg2).2.2.1 = none) :
    exec (.opass ⟨c, .ok⟩ a) s = .next (after (seqA [modCore c fun k => { ((k.ask 2).hit 2) with opRes := none }, nextPc c]) s) := by
  refine (runAct_onRun hr _).trans (congrArg _ (after_congr ?_))
  simp only [coreRead, hn, hp, Option.isSome_none, Bool.false_eq_true, if_false]

theorem exec_opass_of_pairs {p : List Int × Int}
    (hp : passDrives (s.driveLists c (((s.core c).sreg a.val).toNat % 2) (s.core c).work.seg2).1.2.1
      (s.driveLists c (((s.core c).sreg a.val).toNat % 2) (s.core c).work.seg2).2.2.1 = some p)
    (hm : s.mayIssue c = true ∨ s.passDue c = true) :
    exec (.opass ⟨c, .ok⟩ a) s = .next (after (seqA [skip, modCore c (Core.issuePass (passOp (((s.core c).sreg a.val).toNat % 2) p)),
      passCost c (passOp (((s.core c).sreg a.val).toNat % 2) p), nextPc c]) s) := by
  have hm' : ¬ (s.mayIssue c = false ∧ s.passDue c = false) := by
    rintro ⟨h1, h2⟩
    simp [h1, h2] at hm
  refine (runAct_onRun hr _).trans (congrArg _ ?_)
  rw [after_seqA_cons, after_skipped]
  refine after_congr ?_
  simp only [coreRead, hn, hp, hm', Option.isSome_none, Bool.false_eq_true, if_false]
  rfl

end

theorem onlyFields_passCost (c : CoreId) (m : MvmOp) (s : State) : Allowed (onlyFields [.regs, .dies]) (passCost c m s) s := by
  cases c <;> simp [passCost, chargeDie]

theorem passCost_of_tile {s : State} (hc : s.canon = true) (x : TileId) (m : MvmOp) :
    (after (passCost (.tile x) m) s).fld F.TIL_OUT_PASS_COUNT (tileKey x)
        = min (s.fld F.TIL_OUT_PASS_COUNT (tileKey x) + 1) F.TIL_OUT_PASS_COUNT.top ∧
      ((after (passCost (.tile x) m) s).die x.d.val).credit = (s.die x.d.val).credit - s.charge x.d.val m.pconv m.nrow := by
  obtain ⟨u, hu⟩ : ∃ u, u = after (bump F.TIL_OUT_PASS_COUNT (tileKey x) 1) s := ⟨_, rfl⟩
  have hcu : u.canon = true := hu ▸ after_canon _ s hc
  have hof : Allowed (onlyFields [.regs]) (bump F.TIL_OUT_PASS_COUNT (tileKey x) 1 s) s := by simp
  have hdie : u.die x.d.val = s.die x.d.val := hu ▸ after_read_eq (fun s => s.die x.d.val) hof fun _ => rfl
  have hsens : u.sensors = s.sensors := hu ▸ after_read_eq (fun s => s.sensors) hof fun _ => rfl
  have hfld : u.fld F.TIL_OUT_PASS_COUNT (tileKey x) = min (s.fld F.TIL_OUT_PASS_COUNT (tileKey x) + 1) F.TIL_OUT_PASS_COUNT.top :=
    hu ▸ fld_bump s hc _ _ 1 (by decide) (by decide)
  have ht : after (passCost (.tile x) m) s = after (chargeDie x.d.val m.pconv m.nrow) u := by
    simp only [passCost, after_seqA_cons, after_seqA_end, hu]
  rw [ht]
  refine ⟨hfld, ?_⟩
  simp only [chargeDie, modDie, after, eff, apAll_cons, apAll_nil, die_ap_die u hcu, if_true, Die.spend, hdie, charge_congr hsens]

/-! ## A pass is over -/

theorem exec_opassComplete_of_tile {s : State} {x : TileId} {m : MvmOp} (hm : (s.core (.tile x)).opass = some m)
    (hn : (s.core (.tile x)).passNext = true) {err : CoreErr} (he : err ≠ .residue) :
    exec (.opassComplete ⟨.tile x, err⟩) s = .next (after (convDone x true m) s) := by
  refine congrArg _ (after_congr ?_)
  simp only [hm, hn, he, Bool.true_eq_false, if_false]

theorem exec_opassComplete_of_ctx {s : State} {d : Fin 32} {k : Fin 16} {m : MvmOp} (hm : (s.core (.ctx d k)).opass = some m)
    (hn : (s.core (.ctx d k)).passNext = true) {err : CoreErr} (he : err ≠ .residue) {r : Nat}
    (hrec : s.recordOf (s.core (.ctx d k)).work = some r) (hp : s.poison = []) :
    exec (.opassComplete ⟨.ctx d k, err⟩) s = .next (after (seqA [
      pairRead (.ctx d k) d.val m.buf r (s.normalPairs (.ctx d k) m.buf (s.core (.ctx d k)).work.seg2),
      modCore (.ctx d k) fun x => { (x.hit 2) with opass := none, opRes := some (s.exactPairs r (s.core (.ctx d k)).work.wx
        (s.normalPairs (.ctx d k) m.buf (s.core (.ctx d k)).work.seg2)) }]) s) := by
  have hbad : ∀ ps, s.pairsBad r ps = false := fun ps => by simp [State.pairsBad, State.poisoned, hp]
  refine congrArg _ (after_congr ?_)
  simp only [hm, hn, he, hrec, hbad, Bool.true_eq_false, Bool.false_eq_true, if_false]

end Sys2Proof.Machine

open Sys2Proof Sys2Proof.Machine

/-- Settles O13: a pass is issued or is done at once, and its end keeps what the array, or the record, gives. -/
theorem outlierPasses : Obligations.OutlierPasses := by
  unfold Obligations.OutlierPasses
  refine ⟨fun s c a hc hg => ?_, fun s c hc => ?_⟩
  · intro k buf l
    obtain ⟨hr, hpc⟩ := goesOn_iff.1 hg
    refine ⟨fun hn hp => ?_, fun dr ep hn hp hm => ?_⟩
    · obtain ⟨hcr, hbut, -, hov⟩ := after_goesOn (c := c) (f := fun k => { ((k.ask 2).hit 2) with opRes := none }) (A := skip) (B := skip)
        (fs := []) (by decide) (allowed_skip s) allowed_skip hc rfl hpc
      refine ⟨_, (exec_opass_of_no_pairs hr a hn hp).trans (congrArg _ ?_), hcr, hbut, hov⟩
      simp only [after_seqA_cons, after_skipped]
    · obtain ⟨hcr, hbut, hfr, hov⟩ := after_goesOn (c := c) (f := Core.issuePass (passOp buf (dr, ep))) (A := skip)
        (B := passCost c (passOp buf (dr, ep))) (fs := [.regs, .dies]) (by decide) (allowed_skip s) (onlyFields_passCost c _) hc rfl hpc
      refine ⟨_, passOp buf (dr, ep), exec_opass_of_pairs hr a hn hp hm, rfl, rfl, rfl, rfl, hcr, hbut, fun y hy => ?_, hov⟩
      subst hy
      obtain ⟨h1, h2⟩ := passCost_of_tile (after_canon (modCore (.tile y) (Core.issuePass (passOp buf (dr, ep)))) s hc) y (passOp buf (dr, ep))
      rw [hfr]
      exact ⟨h1, h2⟩
  · intro k
    refine ⟨fun m d j r err hcc hm hn he hrec hp => ?_, fun m x err hcc hm hn he => ?_⟩
    · subst hcc
      obtain ⟨u, hu⟩ : ∃ u, u = after (pairRead (.ctx d j) d.val m.buf r (s.normalPairs (.ctx d j) m.buf k.work.seg2)) s := ⟨_, rfl⟩
      have hcu : u.canon = true := hu ▸ after_canon _ s hc
      obtain ⟨hcore, hdies, hfr⟩ := after_lineRead hc (lineRead_pairRead (.ctx d j) d.val m.buf r (s.normalPairs (.ctx d j) m.buf k.work.seg2) s hp)
      rw [← hu] at hcore hdies hfr
      obtain ⟨hcr, hbut, hfr2⟩ := modCore_frame u hcu (.ctx d j) fun x => { (x.hit 2) with opass := none, opRes := some (s.exactPairs r k.work.wx
        (s.normalPairs (.ctx d j) m.buf k.work.seg2)) }
      refine ⟨_, (exec_opassComplete_of_ctx hm hn he hrec hp).trans (by rw [after_seqA_cons, after_seqA_cons, after_seqA_end, ← hu]), ?_,
        fun c hm => (hbut c hm).trans (hcore c), fun hb => ?_, fun e => ?_, ?_⟩
      · rw [hcr, hcore]
      · have hus : u = s := by
          rw [hu]
          refine (after_congr (b := skip) ?_).trans (after_skipped s)
          have hb' : (s.core (.ctx d j)).readBuf = some m.buf := hb
          simp only [pairRead, hb', if_true]
          rfl
        rw [hfr2, hus]
      · rw [hfr2]
        exact hdies e
      · rw [hfr2, hfr]
    · subst hcc
      refine ⟨_, exec_opassComplete_of_tile hm hn he, fun hagree => ?_⟩
      obtain ⟨hcr, hbut, -, hfr⟩ := convDone_of_halvesAgree hc x true m hagree
      exact ⟨hcr, hbut, hfr⟩
end

section
/-!
SUPPORT. Accumulation into a bank (R44, R114).
-/
namespace Sys2Proof.Machine

/-- Changes that agree on what a sequencer is are one change. -/
theorem modCore_congr {s : State} {c : CoreId} {f g : Core → Core} (h : f (s.core c) = g (s.core c)) : modCore c f s = modCore c g s := by
  simp only [modCore, eff, h]

/-- A sequencer with the sum of a bank and blocks in the bank, and its generator after the draws taken (R44). -/
def Core.addBank (b : Nat) (v : List AccBlk) (k : Core) : Core :=
  (k.setBank b (accAddAll k.work.rcp.accRnd (k.bank b) v k.rng).1).setRng (accAddAll k.work.rcp.accRnd (k.bank b) v k.rng).2.2

/-- What an accumulation leaves as it was: all but its sequencer and the count of rescales. -/
def OnlyAccumulates (c : CoreId) (s t : State) : Prop :=
  CoresBut [c] s t ∧ RegsBut [regKey .sch (coreDie c) F.SCH_FMT_CNT_RESCALE.off] s t ∧ t = { s with cores := t.cores, regs := t.regs }

theorem OnlyAccumulates.trans {c : CoreId} {s t u : State} (h1 : OnlyAccumulates c s t) (h2 : OnlyAccumulates c t u) : OnlyAccumulates c s u := by
  obtain ⟨hb1, hr1, hf1⟩ := h1
  obtain ⟨hb2, hr2, hf2⟩ := h2
  exact ⟨fun x hm => (hb2 x hm).trans (hb1 x hm), fun k hk => (hr2 k hk).trans (hr1 k hk), by rw [hf2, hf1]⟩

/-- A change of the sequencer alone. -/
theorem onlyAccumulates_of_cores {c : CoreId} {s t : State} (hb : CoresBut [c] s t) (hf : t = { s with cores := t.cores }) :
    OnlyAccumulates c s t :=
  ⟨hb, fun k _ => by rw [hf], by rw [hf]⟩

theorem accInto_frame {s : State} (hc : s.canon = true) (c : CoreId) (b : Nat) (v : List AccBlk) :
    (after (accInto c b v) s).core c = (s.core c).addBank b v ∧ OnlyAccumulates c s (after (accInto c b v) s) := by
  obtain ⟨u, hu⟩ : ∃ u, u = after (modCore c (Core.addBank b v)) s := ⟨_, rfl⟩
  have hcu : u.canon = true := hu ▸ after_canon _ s hc
  obtain ⟨hcr, hbut, hfr⟩ := modCore_frame s hc c (Core.addBank b v)
  rw [← hu] at hcr hbut hfr
  obtain ⟨r, hr⟩ : ∃ r, r = (accAddAll (s.core c).work.rcp.accRnd ((s.core c).bank b) v (s.core c).rng).2.1 := ⟨_, rfl⟩
  have ht : after (accInto c b v) s = after (whenA (fun _ => r != 0) (bump F.SCH_FMT_CNT_RESCALE (coreDie c) r)) u := by
    rw [after_congr (a := accInto c b v) (b := seqA _) (by simp only [accInto]; rfl)]
    simp only [after_seqA_cons, after_seqA_end, hu, hr]
    rfl
  have hof : Allowed (onlyFields [.regs]) (whenA (fun _ => r != 0) (bump F.SCH_FMT_CNT_RESCALE (coreDie c) r) u) u := by simp
  have hcore : ∀ x, (after (accInto c b v) s).core x = u.core x := fun x => ht ▸ core_after_of_onlyFields (by decide) hof x
  have hov := after_overlay _ hof
  rw [← ht] at hov
  refine ⟨(hcore c).trans hcr, fun x hm => (hcore x).trans (hbut x hm), fun k hk => ?_, ?_⟩
  · have h := after_regsBut (L := [regKey .sch (coreDie c) F.SCH_FMT_CNT_RESCALE.off]) hcu
      (a := whenA (fun _ => r != 0) (bump F.SCH_FMT_CNT_RESCALE (coreDie c) r)) (by simp [F.SCH_FMT_CNT_RESCALE]) k hk
    rw [ht, h, hfr]
  · rw [hov, hfr]
    rfl

/-- What a sequencer holds after an accumulation that goes on: the sum in the bank, the other bank as it was, and the next instruction. -/
def Accumulated (c : CoreId) (b : Nat) (sum : List AccBlk) (s t : State) : Prop :=
  (t.core c).bank b = sum ∧ (t.core c).bank (1 - b) = (s.core c).bank (1 - b) ∧ (t.core c).pc = (s.core c).pc + 1 ∧ (t.core c).st = 1 ∧
    OnlyAccumulates c s t

theorem bank_setBank (k : Core) (b : Nat) (v : List AccBlk) : (k.setBank b v).bank b = v := by
  unfold Core.setBank Core.bank
  split <;> rfl

theorem bank_setBank_other (k : Core) {b : Nat} (hb : b < 2) (v : List AccBlk) : (k.setBank b v).bank (1 - b) = k.bank (1 - b) := by
  unfold Core.setBank Core.bank
  obtain rfl | rfl : b = 0 ∨ b = 1 := by omega
  · rfl
  · rfl

theorem setBank_pc (k : Core) (b : Nat) (v : List AccBlk) : (k.setBank b v).pc = k.pc := by
  unfold Core.setBank
  split <;> rfl

theorem setBank_st (k : Core) (b : Nat) (v : List AccBlk) : (k.setBank b v).st = k.st := by
  unfold Core.setBank
  split <;> rfl

theorem psumsOf_addBank (k : Core) (b : Nat) (v : List AccBlk) : (k.addBank b v).psumsOf = k.psumsOf := by
  simp only [Core.addBank, Core.setBank]
  split <;> rfl

theorem bank_setRng (k : Core) (g : Gen) (b : Nat) : (k.setRng g).bank b = k.bank b := rfl

/-- The next instruction after a change that leaves the sum in the bank. -/
theorem accumulated_nextPc {s u : State} {c : CoreId} {b : Nat} {sum : List AccBlk} (hcu : u.canon = true)
    (hb : (u.core c).bank b = sum) (ho : (u.core c).bank (1 - b) = (s.core c).bank (1 - b)) (hp : (u.core c).pc = (s.core c).pc)
    (hst : (u.core c).st = 1) (hpc : (s.core c).pc < 1023) (hf : OnlyAccumulates c s u) : Accumulated c b sum s (after (nextPc c) u) := by
  obtain ⟨hcr, hbut, hfr⟩ := nextPc_frame u hcu c (by rw [hp]; exact hpc)
  refine ⟨by rw [hcr, ← hb]; rfl, by rw [hcr, ← ho]; rfl, by rw [hcr, hp], by rw [hcr, ← hst],
    hf.trans (onlyAccumulates_of_cores hbut hfr)⟩

section
variable {s : State} (hc : s.canon = true) {c : CoreId} (hg : s.goesOn c = true) {b : Nat} (hb : b < 2)
include hc hg hb

/-- Blocks added to a bank by R44, and the next instruction. -/
theorem accumulated_accInto (v : List AccBlk) :
    Accumulated c b (accAddAll (s.core c).work.rcp.accRnd ((s.core c).bank b) v (s.core c).rng).1 s
      (after (seqA [accInto c b v, nextPc c]) s) := by
  obtain ⟨hr, hpc⟩ := goesOn_iff.1 hg
  obtain ⟨hcr, hf⟩ := accInto_frame hc c b v
  simp only [after_seqA_cons, after_seqA_end]
  refine accumulated_nextPc (after_canon _ s hc) ?_ ?_ ?_ ?_ hpc hf
  · rw [hcr, Core.addBank, bank_setRng, bank_setBank]
  · rw [hcr, Core.addBank, bank_setRng, bank_setBank_other _ hb]
  · rw [hcr]
    exact setBank_pc _ _ _
  · rw [hcr, ← (runs_iff.1 hr).1]
    exact setBank_st _ _ _

/-- A bank cleared and given blocks (ACC 0). -/
theorem accumulated_setBank (v : List AccBlk) : Accumulated c b v s (after (seqA [modCore c fun k => k.setBank b v, nextPc c]) s) := by
  obtain ⟨hr, hpc⟩ := goesOn_iff.1 hg
  obtain ⟨hcr, hbut, hfr⟩ := modCore_frame s hc c fun k => k.setBank b v
  simp only [after_seqA_cons, after_seqA_end]
  refine accumulated_nextPc (after_canon _ s hc) ?_ ?_ ?_ ?_ hpc (onlyAccumulates_of_cores hbut hfr)
  · rw [hcr, bank_setBank]
  · rw [hcr, bank_setBank_other _ hb]
  · rw [hcr, setBank_pc]
  · rw [hcr, setBank_st, (runs_iff.1 hr).1]

/-- One partial sum added (ACC 3). -/
theorem accumulated_psum (p : List AccBlk) :
    let t := after (seqA [accAllInto c b [p], modCore c fun k => { k with psumAdded := k.psumsOf.length }, nextPc c]) s
    Accumulated c b (accAddAll (s.core c).work.rcp.accRnd ((s.core c).bank b) p (s.core c).rng).1 s t ∧
      (t.core c).psumAdded = (s.core c).psumsOf.length := by
  intro t
  obtain ⟨hr, hpc⟩ := goesOn_iff.1 hg
  obtain ⟨hcr, hf⟩ := accInto_frame hc c b p
  obtain ⟨u, hu⟩ : ∃ u, u = after (accInto c b p) s := ⟨_, rfl⟩
  have hcu : u.canon = true := hu ▸ after_canon _ s hc
  obtain ⟨hcr2, hbut2, hfr2⟩ := modCore_frame u hcu c fun k => { k with psumAdded := k.psumsOf.length }
  rw [← hu] at hcr hf
  have ht : t = after (nextPc c) (after (modCore c fun k => { k with psumAdded := k.psumsOf.length }) u) := by
    simp only [t, after_seqA_cons, after_seqA_end, accAllInto, after_forA_cons, after_forA_nil, hu]
  have hpc2 : ((after (modCore c fun k => { k with psumAdded := k.psumsOf.length }) u).core c).pc = (s.core c).pc := by
    rw [hcr2, hcr]
    exact setBank_pc _ _ _
  rw [ht]
  refine ⟨accumulated_nextPc (after_canon _ u hcu) ?_ ?_ hpc2 ?_ hpc (hf.trans (onlyAccumulates_of_cores hbut2 hfr2)), ?_⟩
  · rw [hcr2, hcr]
    exact bank_setBank _ _ _
  · rw [hcr2, hcr]
    exact bank_setBank_other _ hb _
  · rw [hcr2, hcr, ← (runs_iff.1 hr).1]
    exact setBank_st _ _ _
  · obtain ⟨hcr3, -, -⟩ := nextPc_frame _ (after_canon (modCore c fun k => { k with psumAdded := k.psumsOf.length }) u hcu) c (by rw [hpc2]; exact hpc)
    rw [hcr3, hcr2, hcr]
    exact congrArg List.length (psumsOf_addBank _ _ _)

end

/-- A partial sum that no tier engine takes joins those of its sequencer; one of no expert, or at a tile bound to no stage, does no more. -/
theorem exec_partialSumArrival {s : State} {c : CoreId} {h : Word32} {expert : Bool} {blks : List AccBlk} (hs : s.standIn c h = false)
    (he : expert = false ∨ (s.core c).bound = none ∧ ∃ x, c = .tile x) : exec (.partialSumArrival c h expert blks) s
      = .next (after (modCore c fun k => { k with psums := k.psums ++ [(h, blks)] }) s) := by
  refine congrArg _ ((after_congr (b := seqA [modCore c fun k => { k with psums := k.psums ++ [(h, blks)] }, skip]) ?_).trans ?_)
  · simp only [hs, Bool.false_eq_true, if_false, seqA]
    obtain rfl | ⟨hb, x, rfl⟩ := he
    · simp [whenA, skip]
    · simp [whenA, skip, hb]
  · simp only [after_seqA_cons, after_seqA_end, after_skipped]

/-! ## What each ACC does -/

section
variable {s : State} {c : CoreId} (hr : s.runs c = true) (b : Fin 2)
include hr

theorem exec_accClearAddMvm {r : ArrRes} (h : (s.core c).mvmRes = some r) : exec (.accClearAddMvm ⟨c, .ok⟩ b) s
    = .next (after (seqA [modCore c fun k => k.setBank b.val (s.products c r), nextPc c]) s) := by
  have hsame : after (modCore c fun k => k.setBank b.val (k.mvmRes.elim zeroBank fun r => s.products c r)) s
      = after (modCore c fun k => k.setBank b.val (s.products c r)) s :=
    after_congr (modCore_congr (congrArg (fun o => (s.core c).setBank b.val (o.elim zeroBank fun r => s.products c r)) h))
  refine (runAct_onRun hr _).trans (congrArg _ ((after_congr (b := seqA [modCore c fun k =>
    k.setBank b.val (k.mvmRes.elim zeroBank fun r => s.products c r), nextPc c]) (by simp only [accRead, coreRead])).trans ?_))
  simp only [after_seqA_cons, hsame]

theorem exec_accAddMvm {r : ArrRes} (h : (s.core c).mvmRes = some r) : exec (.accAddMvm ⟨c, .ok⟩ b) s
    = .next (after (seqA [accInto c b.val (s.products c r), nextPc c]) s) := by
  refine (runAct_onRun hr _).trans (congrArg _ (after_congr ?_))
  simp only [accRead, coreRead, h]

theorem exec_accAddOpass {r : ArrRes} (h : (s.core c).opRes = some r) : exec (.accAddOpass ⟨c, .ok⟩ b) s
    = .next (after (seqA [accInto c b.val (s.products c r), nextPc c]) s) := by
  refine (runAct_onRun hr _).trans (congrArg _ (after_congr ?_))
  simp only [accRead, coreRead, h]

theorem exec_accAddPsum {p : List AccBlk} (h : (s.core c).psumsOf.drop (s.core c).psumAdded = [p]) (hbad : p.any AccBlk.bad = false) :
    exec (.accAddPsum ⟨c, .ok⟩ b) s
      = .next (after (seqA [accAllInto c b.val [p], modCore c fun k => { k with psumAdded := k.psumsOf.length }, nextPc c]) s) := by
  have hany : ([p].any fun p => p.any AccBlk.bad) = false := by simpa using hbad
  refine (runAct_onRun hr _).trans (congrArg _ (after_congr ?_))
  simp only [accRead, coreRead, h, hany, Bool.false_eq_true, if_false]

theorem exec_accAddSpill (h : (s.core c).spilled = true) (hbad : (s.spillBlks c).any AccBlk.bad = false) :
    exec (.accAddSpill ⟨c, .ok⟩ b) s = .next (after (seqA [accInto c b.val (s.spillBlks c), nextPc c]) s) := by
  refine (runAct_onRun hr _).trans (congrArg _ (after_congr ?_))
  simp only [accRead, coreRead, h, hbad, Bool.true_eq_false, Bool.false_eq_true, if_false]

end

end Sys2Proof.Machine

open Sys2Proof Sys2Proof.Machine

/-- Settles O15: every mode but ACC 0 is one addition by R44; an arrival joins the partial sums. -/
theorem accumulation : Obligations.Accumulation := by
  unfold Obligations.Accumulation
  refine ⟨fun s c bank hc hg => ?_, fun s c h expert blks hc hs he => ?_⟩
  · intro k kept sum
    obtain ⟨hr, hpc⟩ := goesOn_iff.1 hg
    have hkept : ∀ {v t}, Accumulated c bank.val v s t → (t.core c).bank bank.val = v ∧ kept t := fun ⟨h1, h2, h3, h4, h5, h6, h7⟩ =>
      ⟨h1, h2, h3, h4, h5, h6, h7⟩
    refine ⟨fun r hm => ⟨_, exec_accClearAddMvm hr bank hm, hkept (accumulated_setBank hc hg bank.isLt (s.products c r))⟩,
      fun r hm => ⟨_, exec_accAddMvm hr bank hm, hkept (accumulated_accInto hc hg bank.isLt (s.products c r))⟩,
      fun r hm => ⟨_, exec_accAddOpass hr bank hm, hkept (accumulated_accInto hc hg bank.isLt (s.products c r))⟩,
      fun p hp hbad => ?_,
      fun hsp hbad => ⟨_, exec_accAddSpill hr bank hsp hbad, hkept (accumulated_accInto hc hg bank.isLt (s.spillBlks c))⟩⟩
    obtain ⟨ha, hn⟩ := accumulated_psum hc hg bank.isLt p
    obtain ⟨h1, h2⟩ := hkept ha
    exact ⟨_, exec_accAddPsum hr bank hp hbad, h1, hn, h2⟩
  · obtain ⟨hcr, hbut, hfr⟩ := modCore_frame s hc c fun k => { k with psums := k.psums ++ [(h, blks)] }
    exact ⟨_, exec_partialSumArrival hs he, hcr, hbut, hfr⟩
end

section
/-!
SUPPORT. Re-quantisation into an output buffer, injections, and spills (R46, R104, R107, R123–R126, R276).
-/
namespace Sys2Proof.Machine

/-! ## RQ -/

theorem onlyFields_reports {fs : List StateField} (h : [.regs, .nvm, .keeper, .dies, .ports, .free, .out] ⊆ fs) :
    AllowsReports (onlyFields fs) := allowsReports_onlyFields h

/-- Counting block flags changes scheduler state, the passage, and reports. -/
theorem onlyFields_countFlags (d : Nat) (w : WorkItem) (under sat : Nat) (s : State) :
    Allowed (onlyFields [.regs, .nvm, .keeper, .dies, .ports, .free, .out, .passages]) (countFlags d w under sat s) s := by
  have hrep : AllowsReports (onlyFields [.regs, .nvm, .keeper, .dies, .ports, .free, .out, .passages]) :=
    allowsReports_onlyFields (by simp)
  have hlog := fun a b c e f g h i j s => allowed_logEv hrep a b c e f g h i j s
  have hstage : ∀ sat thr s, Allowed (onlyFields [.regs, .nvm, .keeper, .dies, .ports, .free, .out, .passages])
      (stageFlagEvent d w sat thr s) s := fun sat thr s => by
    simp only [stageFlagEvent, allowed_ite, allowed_nil, implies_true, and_true, allowed_seqA_cons, allowed_modDie, allowed_setF, hlog,
      allowed_seqA_nil]
    simp
  have hpas : ∀ i sat thr s, Allowed (onlyFields [.regs, .nvm, .keeper, .dies, .ports, .free, .out, .passages])
      (passageFlagEvent d i w sat thr s) s := fun i sat thr s => by
    simp only [passageFlagEvent, allowed_ite, allowed_nil, implies_true, and_true, allowed_seqA_cons, allowed_modPassage, hlog,
      allowed_seqA_nil]
    simp
  have hroll : ∀ s, Allowed (onlyFields [.regs, .nvm, .keeper, .dies, .ports, .free, .out, .passages]) (flagRoll d s) s := fun s => by
    simp [flagRoll]
  simp only [countFlags]
  split
  · exact allowed_skip s
  · simp [hstage, hpas, hroll]

/-- What RQ counts at a tile: the segment with its pairs (R117). -/
def rqTile (c : CoreId) (x : Seg) : Act :=
  match c with
  | .ctx _ _ => skip
  | .tile t => seqA [whenA (fun _ => x.normal.length + x.spill.length != 0) (seqA [bump F.TIL_OUT_CNT_SEG (tileKey t) 1,
        bump F.TIL_OUT_CNT_PAIRS (tileKey t) (x.normal.length + x.spill.length)]),
      whenA (fun _ => x.clipped != 0) (seqA [bump F.TIL_OUT_OVF_SEG (tileKey t) 1, bump F.TIL_OUT_OVF_PAIRS (tileKey t) x.clipped]),
      whenA (fun _ => x.esc) (bump F.TIL_OUT_ESC_SEG (tileKey t) 1)]

/-- What RQ counts: the block flags, and at a tile the segment (R57, R117). -/
def rqCounts (c : CoreId) (w : WorkItem) (x : Seg) : Act :=
  seqA [countFlags (coreDie c) w (x.blks.countP RqBlk.under) (x.blks.countP RqBlk.sat), rqTile c x]

theorem onlyFields_rqCounts (c : CoreId) (w : WorkItem) (x : Seg) (s : State) :
    Allowed (onlyFields [.regs, .nvm, .keeper, .dies, .ports, .free, .out, .passages]) (rqCounts c w x s) s := by
  simp only [rqCounts, allowed_seqA_cons, allowed_seqA_nil, and_true]
  refine ⟨onlyFields_countFlags _ _ _ _ s, ?_⟩
  cases c <;> simp [rqTile]

/-- The segment that RQ makes of a bank. -/
def State.rqSeg (s : State) (c : CoreId) (bank : Fin 2) : Seg :=
  requant (s.core c).work ((s.core c).work.rcp.expMode == 1 && (s.core c).work.rcp.outFmt == 2 && decide (0 < (s.core c).work.rcp.outMax) &&
    s.outfitOk (s.core c).work.part (s.core c).work.stage) ((s.core c).bank bank.val) (s.core c).rng

theorem exec_rq {s : State} {c : CoreId} (hr : s.runs c = true) (bank outb : Fin 2) (hb : ((s.core c).bank bank.val).any AccBlk.bad = false) :
    exec (.rq ⟨c, .ok⟩ bank outb) s = .next (after (seqA [putBytes (coreBase c + outOff outb.val) (encOut (s.rqSeg c bank)),
      modCore c (fun k => k.setRng (s.rqSeg c bank).rng), rqCounts c (s.core c).work (s.rqSeg c bank), nextPc c]) s) := by
  refine (runAct_onRun hr _).trans (congrArg _ ?_)
  refine (after_congr (b := seqA [putBytes (coreBase c + outOff outb.val) (encOut (s.rqSeg c bank)),
      modCore c (fun k => k.setRng (s.rqSeg c bank).rng),
      countFlags (coreDie c) (s.core c).work ((s.rqSeg c bank).blks.countP RqBlk.under) ((s.rqSeg c bank).blks.countP RqBlk.sat),
      rqTile c (s.rqSeg c bank), nextPc c]) ?_).trans ?_
  · simp only [accRead, coreRead, hb, Bool.false_eq_true, if_false]
    rfl
  · simp only [rqCounts, after_seqA_cons, after_seqA_end]

/-! ## SEND and PSUM -/

theorem exec_send {s : State} {c : CoreId} (hr : s.runs c = true) (outb : Fin 2) (route : Fin 16)
    (h : rformOk (s.routeWord c route.val) = true) : exec (.send ⟨c, .ok⟩ outb route) s
      = .next (after (seqA [skip, modCore c (fun k => { k with inj := k.inj ++ [⟨false, outb.val, s.routeWord c route.val, k.work.job,
          k.work.destRep, [], s.outUnit c k.work.rcp.outFmt outb.val⟩] }), skip, nextPc c]) s) := by
  refine (runAct_onRun hr _).trans (congrArg _ ((after_congr (b := seqA [modCore c (fun k => { k with inj := k.inj ++
    [⟨false, outb.val, s.routeWord c route.val, k.work.job, k.work.destRep, [],
      s.outUnit c k.work.rcp.outFmt outb.val⟩] }), nextPc c]) ?_).trans ?_))
  · simp only [coreRead, h, Bool.true_eq_false, if_false]
  · simp only [after_seqA_cons, after_skipped]

theorem exec_psum {s : State} {c : CoreId} (hr : s.runs c = true) (bank : Fin 2) (route : Fin 16)
    (h : rformOk (s.routeWord c route.val) = true) (hg : (s.core c).work.gate = none) : exec (.psum ⟨c, .ok⟩ bank route) s
      = .next (after (seqA [skip, modCore c (fun k => { (k.setRng (s.core c).rng) with inj := k.inj ++ [⟨true, bank.val, s.routeWord c route.val,
          (s.core c).work.job, (s.core c).work.destRep, (s.core c).bank bank.val, []⟩] }), skip, nextPc c]) s) := by
  refine (runAct_onRun hr _).trans (congrArg _ ((after_congr (b := seqA [modCore c (fun k => { (k.setRng (s.core c).rng) with inj := k.inj ++
    [⟨true, bank.val, s.routeWord c route.val, (s.core c).work.job, (s.core c).work.destRep, (s.core c).bank bank.val, []⟩] }), skip, nextPc c])
    ?_).trans ?_))
  · simp only [accRead, coreRead, h, hg, Bool.true_eq_false, if_false, bne_self_eq_false]
    rfl
  · simp only [after_seqA_cons, after_skipped]

/-! ## Injections leave -/

section
variable {s : State} {c : CoreId} {x : Inj} {r : List Inj} (h : (s.core c).inj = x :: r)
include h

/-- The oldest injection leaves as a packet. -/
theorem exec_injectionComplete_of_packet
    (hp : (∃ t, c = .tile t) ∨ x.psum = false ∨ ∀ d, s.ownerCtx d (s.core c).work = none) : exec (.injectionComplete c) s
      = .next (after (seqA [modCore c fun k => { k with inj := k.inj.tail },
          emit (.inject c x.route x.bytes x.blks x.destRep (s.injectPkt c x))]) s) := by
  refine congrArg _ (after_congr ?_)
  simp only [h]
  cases c with
  | tile t => simp only
  | ctx d k =>
    obtain ⟨t, ht⟩ | hp | hp := hp
    · cases ht
    · simp only [hp]
    · cases hx : x.psum with
      | false => simp only
      | true => simp only [hp]

/-- Partial sums for an owner on the same tier engine are added there (R276). -/
theorem exec_injectionComplete_of_owner {d : Fin 32} {e k : Fin 16} (hc : c = .ctx d e) (hp : x.psum = true)
    (ho : s.ownerCtx d (s.core c).work = some k) : exec (.injectionComplete c) s
      = .next (after (seqA [modCore c fun k => { k with inj := k.inj.tail },
          modCore (.ctx d k) fun y => { y with psums := y.psums ++ [((s.core c).work.handle, x.blks)] }]) s) := by
  subst hc
  refine congrArg _ (after_congr ?_)
  simp only [h, hp, ho]

end

/-! ## Spills -/

/-- A spill result written into a core's SPILL region, its event raised. -/
def spillResult (s : State) (d : Nat) (w : WorkItem) (a : Nat) (ps : List (Nat × Pair)) : List Byte := (s.spillSum d w a ps).1.flatMap encAcc

theorem spillInto_frame {s : State} (hc : s.canon = true) (c : CoreId) (d : Nat) (w : WorkItem) (a : Nat) (ps : List (Nat × Pair)) :
    let t := after (spillInto c d w a ps) s
    t.core c = { ((s.core c).hit 4) with spilled := true, spillBad := false } ∧ CoresBut [c] s t ∧
      t.bytes (coreBase c + 0x2800) (spillResult s d w a ps).length = spillResult s d w a ps ∧
      t = { s with cores := t.cores, mem := t.mem, regs := t.regs } := by
  intro t
  obtain ⟨u, hu⟩ : ∃ u, u = after (putBytes (coreBase c + 0x2800) (spillResult s d w a ps)) s := ⟨_, rfl⟩
  obtain ⟨v, hv⟩ : ∃ v, v = after (whenA (fun _ => (s.spillSum d w a ps).2.1 != 0) (bump F.SCH_FMT_CNT_RESCALE d (s.spillSum d w a ps).2.1)) u :=
    ⟨_, rfl⟩
  have hcu : u.canon = true := hu ▸ after_canon _ s hc
  have hcv : v.canon = true := hv ▸ after_canon _ u hcu
  have ht : t = after (modCore c fun k => { (k.hit 4) with spilled := true, spillBad := false }) v := by
    rw [show t = after (seqA _) s from after_congr (by simp only [spillInto]; rfl)]
    simp only [after_seqA_cons, after_seqA_end, hv, hu, spillResult]
  have hmem := onlyFields_putBytes (fs := [.mem]) (List.mem_singleton.2 rfl) (coreBase c + 0x2800) (spillResult s d w a ps) s
  have hreg : Allowed (onlyFields [.regs]) (whenA (fun _ => (s.spillSum d w a ps).2.1 != 0)
      (bump F.SCH_FMT_CNT_RESCALE d (s.spillSum d w a ps).2.1) u) u := by simp
  have hcore : ∀ x, v.core x = s.core x := fun x => by
    rw [hv, core_after_of_onlyFields (by decide) hreg, hu, core_after_of_onlyFields (by decide) hmem]
  have hov1 := after_overlay _ hmem
  have hov2 := after_overlay _ hreg
  rw [← hu] at hov1
  rw [← hv] at hov2
  obtain ⟨hcr, hbut, hfr⟩ := modCore_frame v hcv c fun k => { (k.hit 4) with spilled := true, spillBad := false }
  rw [← ht] at hcr hbut hfr
  have hbytes : u.bytes (coreBase c + 0x2800) (spillResult s d w a ps).length = spillResult s d w a ps := hu ▸ bytes_putBytes hc _ _
  refine ⟨by rw [hcr, hcore], fun x hm => (hbut x hm).trans (hcore x), ?_, ?_⟩
  · rw [hfr, hov2]
    exact hbytes
  · rw [hfr, hov2, hov1]
    rfl

end Sys2Proof.Machine
end

section
/-!
SUPPORT. SPILL (R123, R125, R126, R276).
-/
namespace Sys2Proof.Machine

/-- The drive buffer that SPILL on sA names, and its pairs. -/
def State.spillBuf (s : State) (c : CoreId) (a : Fin 16) : Nat := ((s.core c).sreg a.val).toNat % 2
def State.spillOf (s : State) (c : CoreId) (a : Fin 16) : List (Nat × Pair) := s.spillPairs c (s.spillBuf c a) (s.core c).work.seg2

/-- A sequencer that has asked for a spill of a buffer. -/
def Core.askSpill (b : Nat) (k : Core) : Core := { (k.ask 4) with spillReq := k.spillReq ++ [b] }

section
variable {s : State} {c : CoreId} (hr : s.runs c = true) (a : Fin 16)
include hr

/-- Without pairs, or with a good result, the event occurs at once. -/
theorem exec_spill_of_done (h : s.spillOf c a = [] ∨ (s.core c).spilled = true) : exec (.spill ⟨c, .ok⟩ a) s
    = .next (after (seqA [skip, modCore c fun k => (k.ask 4).hit 4, skip, nextPc c]) s) := by
  have h' : (s.spillPairs c (((s.core c).sreg a.val).toNat % 2) (s.core c).work.seg2).isEmpty = true ∨ (s.core c).spilled = true :=
    h.imp_left fun h => List.isEmpty_iff.2 h
  refine (runAct_onRun hr _).trans (congrArg _ ((after_congr (b := seqA [modCore c fun k => (k.ask 4).hit 4, nextPc c]) ?_).trans ?_))
  · simp only [coreRead, h', if_true]
  · simp only [after_seqA_cons, after_skipped]

variable (hps : s.spillOf c a ≠ []) (hsp : (s.core c).spilled = false)
include hps hsp

omit hr in
theorem spill_not_done : ¬ ((s.spillPairs c (((s.core c).sreg a.val).toNat % 2) (s.core c).work.seg2).isEmpty = true ∨
    (s.core c).spilled = true) := by
  rintro (h | h)
  · exact hps (List.isEmpty_iff.1 h)
  · simp [hsp] at h

/-- A buffer asked for is not asked for twice. -/
theorem exec_spill_of_asked (hreq : (s.core c).spillReq.contains (s.spillBuf c a) = true) : exec (.spill ⟨c, .ok⟩ a) s
    = .next (after (seqA [skip, modCore c fun k => if s.spillWaits c (s.core c).work.handle (s.spillBuf c a) then k.ask 4 else (k.ask 4).hit 4,
        skip, nextPc c]) s) := by
  have hno := spill_not_done a hps hsp
  have hreq' : (s.core c).spillReq.contains (((s.core c).sreg a.val).toNat % 2) = true := hreq
  refine (runAct_onRun hr _).trans (congrArg _ ((after_congr (b := seqA [modCore c fun k =>
    if s.spillWaits c (s.core c).work.handle (s.spillBuf c a) then k.ask 4 else (k.ask 4).hit 4, nextPc c]) ?_).trans ?_))
  · simp only [coreRead, hno, hreq', if_false, if_true]
    rfl
  · simp only [after_seqA_cons, after_skipped]

end

section
variable {s : State} {x : TileId} (hr : s.runs (.tile x) = true) (a : Fin 16) (hps : s.spillOf (.tile x) a ≠ [])
  (hsp : (s.core (.tile x)).spilled = false) (hreq : (s.core (.tile x)).spillReq.contains (s.spillBuf (.tile x) a) = false)
include hr hps hsp hreq

/-- At a tile the request joins the queue of the engine that serves the die (R123). -/
theorem exec_spill_of_engine {e : Nat} (he : s.engineFor x.d.val = some e) (hq : (s.die e).spillQ.length < 16) :
    exec (.spill ⟨.tile x, .ok⟩ a) s = .next (after (seqA [skip, modCore (.tile x) (Core.askSpill (s.spillBuf (.tile x) a)),
      seqA [bump F.TIL_OUT_SPILL_REQ (tileKey x) 1,
        modDie e fun y => { y with spillQ := y.spillQ ++ [⟨.tile x, (s.core (.tile x)).work.handle, s.spillBuf (.tile x) a⟩] }],
      nextPc (.tile x)]) s) := by
  have hno := spill_not_done a hps hsp
  have hreq' : ¬ (s.core (.tile x)).spillReq.contains (((s.core (.tile x)).sreg a.val).toNat % 2) = true := by
    rw [Bool.not_eq_true]
    exact hreq
  have hq' : ¬ 16 ≤ (s.die e).spillQ.length := by omega
  refine (runAct_onRun hr _).trans (congrArg _ ((after_congr (b := seqA [modCore (.tile x) (Core.askSpill (s.spillBuf (.tile x) a)),
    bump F.TIL_OUT_SPILL_REQ (tileKey x) 1,
    modDie e fun y => { y with spillQ := y.spillQ ++ [⟨.tile x, (s.core (.tile x)).work.handle, s.spillBuf (.tile x) a⟩] },
    nextPc (.tile x)]) ?_).trans ?_))
  · simp only [coreRead, hno, hreq', he, hq', if_false]
    rfl
  · simp only [after_seqA_cons, after_seqA_end, after_skipped]

/-- With the queue full, or no engine, a tile falls back (R125). -/
theorem exec_spill_of_no_engine (he : s.engineFor x.d.val = none ∨ ∃ e, s.engineFor x.d.val = some e ∧ 16 ≤ (s.die e).spillQ.length) :
    exec (.spill ⟨.tile x, .ok⟩ a) s = .next (after (seqA [modCore (.tile x) (Core.askSpill (s.spillBuf (.tile x) a)),
      bump F.TIL_OUT_SPILL_REQ (tileKey x) 1, bump F.TIL_OUT_SPILL_FALLBACK (tileKey x) (s.spillOf (.tile x) a).length,
      modCore (.tile x) fun k => { (k.hit 4) with spilled := false }, nextPc (.tile x)]) s) := by
  have hno := spill_not_done a hps hsp
  have hreq' : ¬ (s.core (.tile x)).spillReq.contains (((s.core (.tile x)).sreg a.val).toNat % 2) = true := by
    rw [Bool.not_eq_true]
    exact hreq
  refine (runAct_onRun hr _).trans (congrArg _ ((after_congr (b := seqA [modCore (.tile x) (Core.askSpill (s.spillBuf (.tile x) a)),
    bump F.TIL_OUT_SPILL_REQ (tileKey x) 1, spillFallback (.tile x) (s.spillOf (.tile x) a).length, nextPc (.tile x)]) ?_).trans ?_))
  · obtain he | ⟨e, he, hq⟩ := he
    · simp only [coreRead, hno, hreq', he, if_false]
      rfl
    · simp only [coreRead, hno, hreq', he, hq, if_false, if_true]
      rfl
  · simp only [spillFallback, after_seqA_cons, after_seqA_end]

end

/-- In a context the pairs are added exactly at once (R276). -/
theorem exec_spill_of_ctx {s : State} {d : Fin 32} {k : Fin 16} (hr : s.runs (.ctx d k) = true) (a : Fin 16)
    (hps : s.spillOf (.ctx d k) a ≠ []) (hsp : (s.core (.ctx d k)).spilled = false)
    (hreq : (s.core (.ctx d k)).spillReq.contains (s.spillBuf (.ctx d k) a) = false) {r : Nat}
    (hrec : s.recordOf (s.core (.ctx d k)).work = some r) (hp : s.poison = []) :
    exec (.spill ⟨.ctx d k, .ok⟩ a) s = .next (after (seqA [modCore (.ctx d k) (Core.askSpill (s.spillBuf (.ctx d k) a)),
      pairRead (.ctx d k) d.val (s.spillBuf (.ctx d k) a) r (s.spillOf (.ctx d k) a),
      spillInto (.ctx d k) d.val (s.core (.ctx d k)).work r (s.spillOf (.ctx d k) a), nextPc (.ctx d k)]) s) := by
  have hno := spill_not_done a hps hsp
  have hreq' : ¬ (s.core (.ctx d k)).spillReq.contains (((s.core (.ctx d k)).sreg a.val).toNat % 2) = true := by
    rw [Bool.not_eq_true]
    exact hreq
  have hbad : ∀ ps, s.pairsBad r ps = false := fun ps => by simp [State.pairsBad, State.poisoned, hp]
  refine (runAct_onRun hr _).trans (congrArg _ ((after_congr (b := seqA [modCore (.ctx d k) (Core.askSpill (s.spillBuf (.ctx d k) a)),
    pairRead (.ctx d k) d.val (s.spillBuf (.ctx d k) a) r (s.spillOf (.ctx d k) a),
    seqA [spillInto (.ctx d k) d.val (s.core (.ctx d k)).work r (s.spillOf (.ctx d k) a), nextPc (.ctx d k)]]) ?_).trans ?_))
  · simp only [coreRead, hno, hreq', hrec, hbad, Bool.false_eq_true, if_false]
    rfl
  · simp only [after_seqA_cons, after_seqA_end]

/-- The result of a spill depends on memory alone. -/
theorem spillSum_congr {s t : State} (h : t.mem = s.mem) (d : Nat) (w : WorkItem) (a : Nat) (ps : List (Nat × Pair)) :
    t.spillSum d w a ps = s.spillSum d w a ps := by
  have hb : t.byte = s.byte := funext fun y => by simp only [State.byte, h]
  have hpp : t.pairProducts a = s.pairProducts a := funext fun p => by simp only [State.pairProducts, State.num, State.bytes, State.w4At, hb]
  simp only [State.spillSum, hpp]

theorem ev_hit (k : Core) : (k.hit 4).ev = k.ev ||| 16#6 := rfl

theorem or_of_and_not (x : BitVec 6) : (x &&& ~~~(1#6 <<< 4)) ||| 16#6 = x ||| 16#6 := by
  revert x
  decide

/-! ## The spill in service ends -/

/-- The spill in service on a die ends for the item that asked for it: its rows are read, and its products written. -/
theorem exec_spillDone_of_item {s : State} {d : Fin 32} {q : SpillReq} {l : List SpillReq} (hq : (s.die d.val).spillQ = q :: l) {w : WorkItem}
    (hw : (s.core q.core).item = some w) (hh : w.handle = q.handle) {a : Nat} (hrec : s.recordOf w = some a) (hp : s.poison = []) :
    exec (.spillDone d .ok) s = .next (after (seqA [modDie d.val fun x => { x with spillQ := x.spillQ.tail },
      seqA [forA (s.spillPairs q.core q.buf w.seg2) (fun p => engineRead d.val (a + p.1 * 256) 256), engineRead d.val (a + 0x40000) 1056],
      spillInto q.core d.val w a (s.spillPairs q.core q.buf w.seg2), bump F.STK_TIER_ITEM_SPILLS d.val 1]) s) := by
  have hwork : (s.core q.core).work = w := by simp [Core.work, hw]
  have hsome : ((s.core q.core).item.isNone || w.handle != q.handle) = false := by simp [hw, hh]
  have hpo : ∀ a n, s.poisoned a n = false := fun a n => by simp [State.poisoned, hp]
  have hany : ((Ecc.ok == Ecc.uncorrectable) || (s.spillPairs q.core q.buf w.seg2).any (fun p => s.poisoned (a + p.1 * 256) 256) ||
      s.poisoned (a + 0x40000) 1056) = false := by
    have hecc : (Ecc.ok == Ecc.uncorrectable) = false := rfl
    simp [hpo, hecc]
  have hread : ∀ n s, eccRead n 256 .ok s = skip s := fun n s => by simp [eccRead, skip]
  simp only [exec, execSpillDone, runAct_eq, hq, hwork, hsome, hrec, hany, Bool.false_eq_true, if_false, apAll_seqA_cons, apAll_seqA_nil,
    after_seqA_cons, after_seqA_end, after_congr (hread _ _), after_skipped]

theorem lineRead_spillReads (d a : Nat) (ps : List (Nat × Pair)) (s : State) (hp : s.poison = []) : Allowed LineRead
    (seqA [forA ps (fun p => engineRead d (a + p.1 * 256) 256), engineRead d (a + 0x40000) 1056] s) s := by
  refine allowed_seqA_of_inv (Inv := fun s => s.poison = []) lineRead_poison _ s (fun b hb s hp => ?_) hp
  simp only [List.mem_cons, List.not_mem_nil, or_false] at hb
  obtain rfl | rfl := hb
  · exact allowed_forA_of_inv (Inv := fun s => s.poison = []) lineRead_poison _ _ s (fun p _ s hp => lineRead_engineRead _ _ _ s hp) hp
  · exact lineRead_engineRead _ _ _ s hp

end Sys2Proof.Machine
end

open Sys2Proof Sys2Proof.Machine

section
namespace Sys2Proof.Machine

/-- A result written into the SPILL region after reads of sound memory. -/
theorem spillInto_after_reads {s u : State} (hcu : u.canon = true) (hf : u = { s with cores := u.cores, regs := u.regs, dies := u.dies, out := u.out })
    (c : CoreId) (d : Nat) (w : WorkItem) (a : Nat) (ps : List (Nat × Pair)) :
    let t := after (spillInto c d w a ps) u
    t.core c = { ((u.core c).hit 4) with spilled := true, spillBad := false } ∧ CoresBut [c] u t ∧
      t.bytes (coreBase c + 0x2800) (spillResult s d w a ps).length = spillResult s d w a ps ∧ t.dies = u.dies ∧
      t = { s with cores := t.cores, regs := t.regs, dies := t.dies, mem := t.mem, out := t.out } := by
  intro t
  obtain ⟨hcr, hbut, hby, hfr⟩ := spillInto_frame hcu c d w a ps
  have hmem : u.mem = s.mem := by rw [hf]
  have hres : spillResult u d w a ps = spillResult s d w a ps := by simp only [spillResult, spillSum_congr hmem]
  rw [hres] at hby
  refine ⟨hcr, hbut, hby, by rw [show t = _ from hfr], ?_⟩
  rw [show t = _ from hfr, hf]

/-- SPILL in a context leaves the result in its SPILL region, and goes on. -/
theorem spill_in_ctx {s : State} (hc : s.canon = true) {d : Fin 32} {j : Fin 16} (hg : s.goesOn (.ctx d j) = true) (a : Fin 16) {r : Nat}
    (hps : s.spillOf (.ctx d j) a ≠ []) (hsp : (s.core (.ctx d j)).spilled = false)
    (hreq : (s.core (.ctx d j)).spillReq.contains (s.spillBuf (.ctx d j) a) = false)
    (hrec : s.recordOf (s.core (.ctx d j)).work = some r) (hp : s.poison = []) :
    ∃ t, exec (.spill ⟨.ctx d j, .ok⟩ a) s = .next t ∧ (t.core (.ctx d j)).spilled = true ∧
      (t.core (.ctx d j)).ev = (s.core (.ctx d j)).ev ||| 16#6 ∧ (t.core (.ctx d j)).pc = (s.core (.ctx d j)).pc + 1 ∧
      t.bytes (coreBase (.ctx d j) + 0x2800) (spillResult s d.val (s.core (.ctx d j)).work r (s.spillOf (.ctx d j) a)).length
        = spillResult s d.val (s.core (.ctx d j)).work r (s.spillOf (.ctx d j) a) ∧
      CoresBut [.ctx d j] s t ∧ DiesButCache s t ∧ t = { s with cores := t.cores, regs := t.regs, dies := t.dies, mem := t.mem, out := t.out } := by
  obtain ⟨hr, hpc⟩ := goesOn_iff.1 hg
  obtain ⟨u, hu⟩ : ∃ u, u = after (modCore (.ctx d j) (Core.askSpill (s.spillBuf (.ctx d j) a))) s := ⟨_, rfl⟩
  obtain ⟨v, hv⟩ : ∃ v, v = after (pairRead (.ctx d j) d.val (s.spillBuf (.ctx d j) a) r (s.spillOf (.ctx d j) a)) u := ⟨_, rfl⟩
  obtain ⟨y, hy⟩ : ∃ y, y = after (spillInto (.ctx d j) d.val (s.core (.ctx d j)).work r (s.spillOf (.ctx d j) a)) v := ⟨_, rfl⟩
  have hcu : u.canon = true := hu ▸ after_canon _ s hc
  have hcv : v.canon = true := hv ▸ after_canon _ u hcu
  have hcy : y.canon = true := hy ▸ after_canon _ v hcv
  obtain ⟨hcr1, hbut1, hfr1⟩ := modCore_frame s hc (.ctx d j) (Core.askSpill (s.spillBuf (.ctx d j) a))
  rw [← hu] at hcr1 hbut1 hfr1
  obtain ⟨hcore2, hdies2, hfr2⟩ := after_lineRead hcu (lineRead_pairRead (.ctx d j) d.val (s.spillBuf (.ctx d j) a) r (s.spillOf (.ctx d j) a) u
    (by rw [hfr1]; exact hp))
  rw [← hv] at hcore2 hdies2 hfr2
  have hfv : v = { s with cores := v.cores, regs := v.regs, dies := v.dies, out := v.out } := by rw [hfr2, hfr1]
  obtain ⟨hcr3, hbut3, hby3, hd3, hfr3⟩ := spillInto_after_reads hcv hfv (.ctx d j) d.val (s.core (.ctx d j)).work r (s.spillOf (.ctx d j) a)
  rw [← hy] at hcr3 hbut3 hby3 hd3 hfr3
  have hcrv : v.core (.ctx d j) = Core.askSpill (s.spillBuf (.ctx d j) a) (s.core (.ctx d j)) := (hcore2 _).trans hcr1
  obtain ⟨hcr4, hbut4, hfr4⟩ := nextPc_frame y hcy (.ctx d j) (by rw [hcr3, hcrv]; exact hpc)
  refine ⟨after (nextPc (.ctx d j)) y, ?_, ?_, ?_, ?_, ?_, fun c hm => ?_, fun e => ?_, ?_⟩
  · rw [exec_spill_of_ctx hr a hps hsp hreq hrec hp]
    simp only [after_seqA_cons, after_seqA_end, ← hu, ← hv, ← hy]
  · rw [hcr4, hcr3]
  · rw [hcr4, hcr3, hcrv]
    exact or_of_and_not _
  · rw [hcr4, hcr3, hcrv]
    rfl
  · rw [hfr4]
    exact hby3
  · rw [hbut4 c hm, hbut3 c hm, hcore2, hbut1 c hm]
  · have h1 : (after (nextPc (.ctx d j)) y).die e = v.die e := by
      rw [hfr4]
      exact congrArg (SMap.get (fun _ => Die.zero) · e) hd3
    have h2 : u.die e = s.die e := by rw [hfr1]; rfl
    rw [h1, hdies2 e, h2]
  · rw [hfr4, hfr3]

/-- The end of a spill for a tile's item at hand. -/
theorem spillDone_for_item {s : State} (hc : s.canon = true) {d : Fin 32} {c : CoreId} {q : List SpillReq} {w : WorkItem} {r b : Nat}
    (hq : (s.die d.val).spillQ = ⟨c, w.handle, b⟩ :: q) (hw : (s.core c).item = some w) (hrec : s.recordOf w = some r) (hp : s.poison = []) :
    ∃ t, exec (.spillDone d .ok) s = .next t ∧ (t.die d.val).spillQ = q ∧ (t.core c).spilled = true ∧ (t.core c).ev = (s.core c).ev ||| 16#6 ∧
      t.bytes (coreBase c + 0x2800) (spillResult s d.val w r (s.spillPairs c b w.seg2)).length = spillResult s d.val w r (s.spillPairs c b w.seg2) ∧
      CoresBut [c] s t ∧ (∀ e, e ≠ d.val → t.die e = { s.die e with cache := (t.die e).cache }) ∧
      t = { s with cores := t.cores, regs := t.regs, dies := t.dies, mem := t.mem, out := t.out } := by
  obtain ⟨u, hu⟩ : ∃ u, u = after (modDie d.val fun x => { x with spillQ := x.spillQ.tail }) s := ⟨_, rfl⟩
  obtain ⟨v, hv⟩ : ∃ v, v = after (seqA [forA (s.spillPairs c b w.seg2) (fun p => engineRead d.val (r + p.1 * 256) 256),
    engineRead d.val (r + 0x40000) 1056]) u := ⟨_, rfl⟩
  obtain ⟨y, hy⟩ : ∃ y, y = after (spillInto c d.val w r (s.spillPairs c b w.seg2)) v := ⟨_, rfl⟩
  have hcu : u.canon = true := hu ▸ after_canon _ s hc
  have hcv : v.canon = true := hv ▸ after_canon _ u hcu
  have hfr1 : u = { s with dies := u.dies } := by
    have h := after_overlay [.dies] (a := modDie d.val fun x => { x with spillQ := x.spillQ.tail }) (s := s) (by simp)
    rw [← hu] at h
    exact h
  have hdie1 : ∀ e, u.die e = if e = d.val then { s.die e with spillQ := q } else s.die e := fun e => by
    rw [hu]
    simp only [modDie, after_eff, die_ap_die s hc]
    split
    · next h =>
      subst h
      rw [hq]
      rfl
    · rfl
  obtain ⟨hcore2, hdies2, hfr2⟩ := after_lineRead hcu (lineRead_spillReads d.val r (s.spillPairs c b w.seg2) u (by rw [hfr1]; exact hp))
  rw [← hv] at hcore2 hdies2 hfr2
  have hfv : v = { s with cores := v.cores, regs := v.regs, dies := v.dies, out := v.out } := by rw [hfr2, hfr1]
  obtain ⟨hcr3, hbut3, hby3, hd3, hfr3⟩ := spillInto_after_reads hcv hfv c d.val w r (s.spillPairs c b w.seg2)
  rw [← hy] at hcr3 hbut3 hby3 hd3 hfr3
  have hcrv : ∀ c, v.core c = s.core c := fun c => (hcore2 c).trans (by rw [hfr1]; rfl)
  have hov := after_overlay [.regs] (a := bump F.STK_TIER_ITEM_SPILLS d.val 1) (s := y) (by simp)
  have hfr4 : after (bump F.STK_TIER_ITEM_SPILLS d.val 1) y = { y with regs := (after (bump F.STK_TIER_ITEM_SPILLS d.val 1) y).regs } := hov
  have hcr4 : ∀ c, (after (bump F.STK_TIER_ITEM_SPILLS d.val 1) y).core c = y.core c := core_after_of_onlyFields (fs := [.regs]) (by decide) (by simp)
  have hdie4 : ∀ e, (after (bump F.STK_TIER_ITEM_SPILLS d.val 1) y).die e = { u.die e with cache := (v.die e).cache } := fun e => by
    rw [hfr4, ← hdies2 e]
    exact congrArg (SMap.get (fun _ => Die.zero) · e) hd3
  refine ⟨after (bump F.STK_TIER_ITEM_SPILLS d.val 1) y, ?_, ?_, ?_, ?_, ?_, fun e hm => ?_, fun e hne => ?_, ?_⟩
  · rw [exec_spillDone_of_item hq hw rfl hrec hp]
    rw [after_seqA_cons, ← hu, after_seqA_cons, ← hv, after_seqA_cons, ← hy, after_seqA_cons, after_seqA_end]
  · rw [hdie4, hdie1, if_pos rfl]
  · rw [hcr4, hcr3]
  · rw [hcr4, hcr3, hcrv]
    rfl
  · rw [hfr4]
    exact hby3
  · rw [hcr4, hbut3 e hm, hcrv]
  · rw [hdie4, hdie1, if_neg hne]
  · rw [hfr4, hfr3]

/-- RQ writes its segment into the output buffer and goes on. -/
theorem rq_writes {s : State} (hc : s.canon = true) {c : CoreId} (hg : s.goesOn c = true) (bank outb : Fin 2)
    (hb : ((s.core c).bank bank.val).any AccBlk.bad = false) :
    ∃ t, exec (.rq ⟨c, .ok⟩ bank outb) s = .next t ∧
      t.bytes (coreBase c + outOff outb.val) (encOut (s.rqSeg c bank)).length = encOut (s.rqSeg c bank) ∧
      BytesBut (coreBase c + outOff outb.val) (encOut (s.rqSeg c bank)).length s t ∧
      t.core c = { s.core c with gen := (s.rqSeg c bank).rng.st, drawn := (s.rqSeg c bank).rng.n, pc := (s.core c).pc + 1 } ∧ CoresBut [c] s t := by
  obtain ⟨hr, hpc⟩ := goesOn_iff.1 hg
  obtain ⟨bs, hbs⟩ : ∃ bs, bs = encOut (s.rqSeg c bank) := ⟨_, rfl⟩
  obtain ⟨off, hoff⟩ : ∃ off, off = coreBase c + outOff outb.val := ⟨_, rfl⟩
  rw [exec_rq hr bank outb hb, ← hbs, ← hoff]
  obtain ⟨hcr, hbut, hfr, -⟩ := after_goesOn (c := c) (f := fun k => k.setRng (s.rqSeg c bank).rng) (A := putBytes off bs)
    (B := rqCounts c (s.core c).work (s.rqSeg c bank)) (fs := [.mem, .regs, .nvm, .keeper, .dies, .ports, .free, .out, .passages]) (by decide)
    (onlyFields_mono (by simp) (onlyFields_putBytes (fs := [.mem]) (by simp) off bs s))
    (fun s' => onlyFields_mono (by simp) (onlyFields_rqCounts c (s.core c).work (s.rqSeg c bank) s')) hc rfl hpc
  obtain ⟨t, ht⟩ : ∃ t, t = after (seqA [putBytes off bs, modCore c fun k => k.setRng (s.rqSeg c bank).rng,
    rqCounts c (s.core c).work (s.rqSeg c bank), nextPc c]) s := ⟨_, rfl⟩
  rw [← ht] at hcr hbut hfr ⊢
  have hmem : t.mem = (after (putBytes off bs) s).mem := by
    rw [hfr]
    exact after_read_eq State.mem (onlyFields_rqCounts c _ _ _) fun _ => rfl
  have hbyte : ∀ x, t.byte x = (after (putBytes off bs) s).byte x := fun x => by simp only [State.byte, hmem]
  refine ⟨t, rfl, ?_, fun x hx => (hbyte x).trans (bytesBut_putBytes hc off bs x hx), hcr, hbut⟩
  simp only [State.bytes, hbyte]
  exact bytes_putBytes hc off bs

/-- An instruction that changes its sequencer alone and goes on. -/
theorem after_goesOn_alone {s : State} (hc : s.canon = true) {c : CoreId} (hpc : (s.core c).pc < 1023) {f : Core → Core}
    (hp : (f (s.core c)).pc = (s.core c).pc) :
    let t := after (seqA [skip, modCore c f, skip, nextPc c]) s
    t.core c = { f (s.core c) with pc := (s.core c).pc + 1 } ∧ CoresBut [c] s t ∧ t = { s with cores := t.cores } := by
  obtain ⟨hcr, hbut, -, hov⟩ := after_goesOn (c := c) (A := skip) (B := skip) (fs := []) (f := f) (by decide) (allowed_skip s) allowed_skip hc hp hpc
  exact ⟨hcr, hbut, hov⟩

/-- Partial sums for an owner on the same engine leave the injections and join the owner's. -/
theorem injection_joins_owner {s : State} (hc : s.canon = true) {d : Fin 32} {e e' : Fin 16} {j : Inj} {r : List Inj}
    (hj : (s.core (.ctx d e)).inj = j :: r) (hps : j.psum = true) (ho : s.ownerCtx d (s.core (.ctx d e)).work = some e') :
    ∃ t, exec (.injectionComplete (.ctx d e)) s = .next t ∧ (t.core (.ctx d e)).inj = r ∧
      (t.core (.ctx d e')).psums = (s.core (.ctx d e')).psums ++ [((s.core (.ctx d e)).work.handle, j.blks)] ∧
      CoresBut [.ctx d e, .ctx d e'] s t ∧ t = { s with cores := t.cores } := by
  obtain ⟨u, hu⟩ : ∃ u, u = after (modCore (.ctx d e) fun k => { k with inj := k.inj.tail }) s := ⟨_, rfl⟩
  have hcu : u.canon = true := hu ▸ after_canon _ s hc
  obtain ⟨hcr1, hbut1, hfr1⟩ := modCore_frame s hc (.ctx d e) fun k => { k with inj := k.inj.tail }
  rw [← hu] at hcr1 hbut1 hfr1
  have hat := core_modCore u hcu (.ctx d e') fun y => { y with psums := y.psums ++ [((s.core (.ctx d e)).work.handle, j.blks)] }
  have hfr2 := (modCore_frame u hcu (.ctx d e') fun y => { y with psums := y.psums ++ [((s.core (.ctx d e)).work.handle, j.blks)] }).2.2
  obtain ⟨t, ht⟩ : ∃ t, t = after (modCore (.ctx d e') fun y => { y with psums := y.psums ++ [((s.core (.ctx d e)).work.handle, j.blks)] }) u :=
    ⟨_, rfl⟩
  rw [← ht] at hat hfr2
  have hr : (u.core (.ctx d e)).inj = r := by rw [hcr1, hj]; rfl
  have hpu : (u.core (.ctx d e')).psums = (s.core (.ctx d e')).psums := by
    by_cases h : e' = e
    · rw [h, hcr1]
    · rw [hbut1 _ (by simpa using h)]
  refine ⟨t, (exec_injectionComplete_of_owner hj rfl hps ho).trans (by rw [after_seqA_cons, after_seqA_cons, after_seqA_end, ← hu, ← ht]),
    ?_, ?_, fun c' hm => ?_, ?_⟩
  · rw [hat]
    split
    · next h => rw [← h]; exact hr
    · exact hr
  · rw [hat, if_pos rfl, ← hpu]
  · simp only [List.mem_cons, List.not_mem_nil, or_false, not_or] at hm
    rw [hat, if_neg hm.2, hbut1 _ (by simpa using hm.1)]
  · rw [hfr2, hfr1]

/-- An injection leaves as a packet. -/
theorem injection_leaves {s : State} (hc : s.canon = true) {c : CoreId} {j : Inj} {r : List Inj} (hj : (s.core c).inj = j :: r)
    (hp : (∃ t, c = .tile t) ∨ j.psum = false ∨ ∀ d, s.ownerCtx d (s.core c).work = none) :
    ∃ t, exec (.injectionComplete c) s = .next t ∧ t.core c = { s.core c with inj := r } ∧ CoresBut [c] s t ∧
      t.out = s.out ++ [.inject c j.route j.bytes j.blks j.destRep (s.injectPkt c j)] ∧ t = { s with cores := t.cores, out := t.out } := by
  obtain ⟨u, hu⟩ : ∃ u, u = after (modCore c fun k => { k with inj := k.inj.tail }) s := ⟨_, rfl⟩
  obtain ⟨hcr1, hbut1, hfr1⟩ := modCore_frame s hc c fun k => { k with inj := k.inj.tail }
  rw [← hu] at hcr1 hbut1 hfr1
  refine ⟨(Eff.out (.inject c j.route j.bytes j.blks j.destRep (s.injectPkt c j))).ap u, ?_, ?_, fun c' hm => hbut1 c' hm, ?_, ?_⟩
  · rw [exec_injectionComplete_of_packet hj hp, after_seqA_cons, after_seqA_cons, after_seqA_end, ← hu]
    rfl
  · rw [show ((Eff.out (.inject c j.route j.bytes j.blks j.destRep (s.injectPkt c j))).ap u).core c = u.core c from rfl, hcr1, hj]
    rfl
  · rw [ap_out_set, hfr1]
  · rw [hfr1]
    rfl

/-- A request joins the queue of the engine that serves a tile's die. -/
theorem spill_queued {s : State} (hc : s.canon = true) {x : TileId} (hg : s.goesOn (.tile x) = true) (a : Fin 16) (hps : s.spillOf (.tile x) a ≠ [])
    (hsp : (s.core (.tile x)).spilled = false) (hreq : (s.core (.tile x)).spillReq.contains (s.spillBuf (.tile x) a) = false) {e : Nat}
    (he : s.engineFor x.d.val = some e) (hq : (s.die e).spillQ.length < 16) :
    ∃ t, exec (.spill ⟨.tile x, .ok⟩ a) s = .next t ∧
      (t.die e).spillQ = (s.die e).spillQ ++ [⟨.tile x, (s.core (.tile x)).work.handle, s.spillBuf (.tile x) a⟩] ∧
      t.core (.tile x) = { Core.askSpill (s.spillBuf (.tile x) a) (s.core (.tile x)) with pc := (s.core (.tile x)).pc + 1 } ∧
      t.fld F.TIL_OUT_SPILL_REQ (tileKey x) = min (s.fld F.TIL_OUT_SPILL_REQ (tileKey x) + 1) F.TIL_OUT_SPILL_REQ.top ∧
      CoresBut [.tile x] s t ∧ DiesBut [e] s t ∧ t = { s with cores := t.cores, regs := t.regs, dies := t.dies } := by
  obtain ⟨hr, hpc⟩ := goesOn_iff.1 hg
  obtain ⟨q, hqq⟩ : ∃ q : SpillReq, q = ⟨.tile x, (s.core (.tile x)).work.handle, s.spillBuf (.tile x) a⟩ := ⟨_, rfl⟩
  obtain ⟨hcr, hbut, hfr, hov⟩ := after_goesOn (c := .tile x) (A := skip) (fs := [.regs, .dies]) (f := Core.askSpill (s.spillBuf (.tile x) a))
    (B := seqA [bump F.TIL_OUT_SPILL_REQ (tileKey x) 1, modDie e fun y => { y with spillQ := y.spillQ ++ [q] }])
    (by decide) (allowed_skip s) (fun s => by simp) hc rfl hpc
  rw [exec_spill_of_engine hr a hps hsp hreq he hq, ← hqq]
  obtain ⟨t, ht⟩ : ∃ t, t = after (seqA [skip, modCore (.tile x) (Core.askSpill (s.spillBuf (.tile x) a)),
    seqA [bump F.TIL_OUT_SPILL_REQ (tileKey x) 1, modDie e fun y => { y with spillQ := y.spillQ ++ [q] }], nextPc (.tile x)]) s := ⟨_, rfl⟩
  obtain ⟨u, hu⟩ : ∃ u, u = after (modCore (.tile x) (Core.askSpill (s.spillBuf (.tile x) a))) s := ⟨_, rfl⟩
  obtain ⟨v, hv⟩ : ∃ v, v = after (bump F.TIL_OUT_SPILL_REQ (tileKey x) 1) u := ⟨_, rfl⟩
  have hcu : u.canon = true := hu ▸ after_canon _ s hc
  have hcv : v.canon = true := hv ▸ after_canon _ u hcu
  rw [← ht, after_skipped, ← hu, after_seqA_cons, ← hv, after_seqA_cons, after_seqA_end] at hfr
  rw [← ht] at hcr hbut hov ⊢
  have hdv : ∀ d, v.die d = s.die d := fun d => by
    have h1 : v.die d = u.die d := hv ▸ after_read_eq (fun s => s.die d) (fs := [.regs]) (by simp) fun _ => rfl
    have h2 : u.die d = s.die d := hu ▸ after_read_eq (fun s => s.die d) (fs := [.cores]) (by simp) fun _ => rfl
    exact h1.trans h2
  have hdie : ∀ d, t.die d = if d = e then { s.die e with spillQ := (s.die e).spillQ ++ [q] } else s.die d := fun d => by
    rw [hfr, ← hdv d, ← hdv e]
    exact die_ap_die v hcv e _ d
  have hfv : v.fld F.TIL_OUT_SPILL_REQ (tileKey x) = min (u.fld F.TIL_OUT_SPILL_REQ (tileKey x) + 1) F.TIL_OUT_SPILL_REQ.top :=
    hv ▸ fld_bump u hcu _ _ 1 (by decide) (by decide)
  have hfu : u.fld F.TIL_OUT_SPILL_REQ (tileKey x) = s.fld F.TIL_OUT_SPILL_REQ (tileKey x) :=
    hu ▸ after_read_eq (fun s => s.fld F.TIL_OUT_SPILL_REQ (tileKey x)) (fs := [.cores]) (by simp) fun _ => rfl
  have hft : t.fld F.TIL_OUT_SPILL_REQ (tileKey x) = v.fld F.TIL_OUT_SPILL_REQ (tileKey x) := by rw [hfr]; rfl
  refine ⟨t, rfl, by rw [hdie, if_pos rfl], hcr, by rw [hft, hfv, hfu], hbut, fun d hd => ?_, hov⟩
  rw [hdie, if_neg (by simpa using hd)]

/-- Without an engine's queue a tile falls back: the pairs are counted, and the event occurs. -/
theorem spill_falls_back {s : State} (hc : s.canon = true) {x : TileId} (hg : s.goesOn (.tile x) = true) (a : Fin 16)
    (hps : s.spillOf (.tile x) a ≠ []) (hsp : (s.core (.tile x)).spilled = false)
    (hreq : (s.core (.tile x)).spillReq.contains (s.spillBuf (.tile x) a) = false)
    (he : s.engineFor x.d.val = none ∨ ∃ e, s.engineFor x.d.val = some e ∧ 16 ≤ (s.die e).spillQ.length) :
    ∃ t, exec (.spill ⟨.tile x, .ok⟩ a) s = .next t ∧
      t.core (.tile x) = { ((Core.askSpill (s.spillBuf (.tile x) a) (s.core (.tile x))).hit 4) with
        spilled := false, pc := (s.core (.tile x)).pc + 1 } ∧
      t.fld F.TIL_OUT_SPILL_FALLBACK (tileKey x)
        = min (s.fld F.TIL_OUT_SPILL_FALLBACK (tileKey x) + (s.spillOf (.tile x) a).length) F.TIL_OUT_SPILL_FALLBACK.top ∧
      t.dies = s.dies ∧ CoresBut [.tile x] s t ∧ t = { s with cores := t.cores, regs := t.regs } := by
  obtain ⟨hr, hpc⟩ := goesOn_iff.1 hg
  obtain ⟨n, hn⟩ : ∃ n, n = (s.spillOf (.tile x) a).length := ⟨_, rfl⟩
  obtain ⟨u, hu⟩ : ∃ u, u = after (modCore (.tile x) (Core.askSpill (s.spillBuf (.tile x) a))) s := ⟨_, rfl⟩
  obtain ⟨v, hv⟩ : ∃ v, v = after (bump F.TIL_OUT_SPILL_REQ (tileKey x) 1) u := ⟨_, rfl⟩
  obtain ⟨y, hy⟩ : ∃ y, y = after (bump F.TIL_OUT_SPILL_FALLBACK (tileKey x) n) v := ⟨_, rfl⟩
  have hcu : u.canon = true := hu ▸ after_canon _ s hc
  have hcv : v.canon = true := hv ▸ after_canon _ u hcu
  have hcy : y.canon = true := hy ▸ after_canon _ v hcv
  obtain ⟨hcr1, hbut1, hfr1⟩ := modCore_frame s hc (.tile x) (Core.askSpill (s.spillBuf (.tile x) a))
  rw [← hu] at hcr1 hbut1 hfr1
  have hregs : y = { u with regs := y.regs } := by
    have h1 := after_overlay [.regs] (a := bump F.TIL_OUT_SPILL_REQ (tileKey x) 1) (s := u) (by simp)
    have h2 := after_overlay [.regs] (a := bump F.TIL_OUT_SPILL_FALLBACK (tileKey x) n) (s := v) (by simp)
    rw [← hv] at h1
    rw [← hy] at h2
    exact overlay_trans _ h1 h2
  have hcore : ∀ c, y.core c = u.core c := fun c => by rw [hregs]; rfl
  obtain ⟨hcr, hbut, hfr⟩ := after_goesOn_alone hcy (c := .tile x) (f := fun k => { (k.hit 4) with spilled := false })
    (by rw [hcore, hcr1]; exact hpc) rfl
  obtain ⟨t, ht⟩ : ∃ t, t = after (seqA [skip, modCore (.tile x) fun k => { (k.hit 4) with spilled := false }, skip, nextPc (.tile x)]) y := ⟨_, rfl⟩
  rw [← ht] at hcr hbut hfr
  refine ⟨t, ?_, ?_, ?_, ?_, fun c hm => ?_, ?_⟩
  · rw [exec_spill_of_no_engine hr a hps hsp hreq he, ht, ← hn]
    simp only [after_seqA_cons, after_seqA_end, after_skipped, ← hu, ← hv, ← hy]
  · rw [hcr, hcore, hcr1]
    rfl
  · have h1 : y.fld F.TIL_OUT_SPILL_FALLBACK (tileKey x)
        = min (v.fld F.TIL_OUT_SPILL_FALLBACK (tileKey x) + n) F.TIL_OUT_SPILL_FALLBACK.top :=
      hy ▸ fld_bump v hcv _ _ n (by decide) (by decide)
    have h2 : v.fld F.TIL_OUT_SPILL_FALLBACK (tileKey x) = u.fld F.TIL_OUT_SPILL_FALLBACK (tileKey x) :=
      hv ▸ fld_bump_bits hcu F.TIL_OUT_SPILL_REQ F.TIL_OUT_SPILL_FALLBACK _ _ 1 (by decide) (by decide) (by decide)
    have h3 : u.fld F.TIL_OUT_SPILL_FALLBACK (tileKey x) = s.fld F.TIL_OUT_SPILL_FALLBACK (tileKey x) :=
      hu ▸ after_read_eq (fun s => s.fld F.TIL_OUT_SPILL_FALLBACK (tileKey x)) (fs := [.cores]) (by simp) fun _ => rfl
    have h4 : t.fld F.TIL_OUT_SPILL_FALLBACK (tileKey x) = y.fld F.TIL_OUT_SPILL_FALLBACK (tileKey x) := by rw [hfr]; rfl
    rw [h4, h1, h2, h3, hn]
  · rw [hfr, hregs, hfr1]
  · rw [hbut c hm, hcore, hbut1 c hm]
  · rw [hfr, hregs, hfr1]

end Sys2Proof.Machine
end

open Sys2Proof Sys2Proof.Machine

/-- Settles O18: each instruction changes its sequencer once, between what it writes and counts elsewhere. -/
theorem outputAndSpills : Obligations.OutputAndSpills := by
  unfold Obligations.OutputAndSpills
  refine ⟨fun s c bank outb route hc => ?_, fun s x a hc => ?_⟩
  · intro k w outfit x off
    refine ⟨fun hg hb => rq_writes hc hg bank outb hb, fun hg hf => ?_, fun hg hf hgate => ?_,
      fun j r d e e' hcc hj hps ho => ?_, fun j r hj hp => injection_leaves hc hj hp⟩
    · obtain ⟨hr, hpc⟩ := goesOn_iff.1 hg
      exact ⟨_, exec_send hr outb route hf, after_goesOn_alone hc hpc rfl⟩
    · obtain ⟨hr, hpc⟩ := goesOn_iff.1 hg
      exact ⟨_, exec_psum hr bank route hf hgate, after_goesOn_alone hc hpc rfl⟩
    · subst hcc
      exact injection_joins_owner hc hj hps ho
  · intro c k ps
    refine ⟨fun hg hd => ?_, fun hg hps hsp hreq => ?_, fun e hg hps hsp hreq he hq => spill_queued hc hg a hps hsp hreq he hq,
      fun hg hps hsp hreq he => spill_falls_back hc hg a hps hsp hreq he,
      fun d q w r b hq hw hrec hp => spillDone_for_item hc hq hw hrec hp, fun d j r => ?_⟩
    · obtain ⟨hr, hpc⟩ := goesOn_iff.1 hg
      exact ⟨_, exec_spill_of_done hr a hd, after_goesOn_alone hc hpc rfl⟩
    · obtain ⟨hr, hpc⟩ := goesOn_iff.1 hg
      obtain ⟨hcr, hbut, hfr⟩ := after_goesOn_alone hc hpc
        (f := fun k => if s.spillWaits c (s.core c).work.handle (s.spillBuf c a) then k.ask 4 else (k.ask 4).hit 4) (by split <;> rfl)
      refine ⟨_, exec_spill_of_asked hr a hps hsp hreq, by rw [hcr], ?_, hbut, hfr⟩
      rw [hcr]
      dsimp only
      split <;> rfl
    · intro e w b qs hg hps hsp hreq hrec hp
      exact spill_in_ctx hc hg a hps hsp hreq hrec hp

section
/-!
SUPPORT. What a unit's reads of stack memory leave (R269–R271, R281), read off their footprint.
-/
namespace Sys2Proof.Machine

/-- What an effect of a unit's access at the slices can be, beside changes of the registers under the listed keys. -/
def SlicedBut (L : List Nat) (s : State) (e : Eff) : Prop :=
  match e with
  | .reg b i o _ => regKey b i o ∈ L ∨ evtKey (regKey b i o) ∨ b = .stk ∧ sliceReg i o
  | e => Sliced s e

theorem allowsSlices_slicedBut (L : List Nat) : AllowsSlices (SlicedBut L) := fun s e he => by
  cases e with
  | reg => exact .inr he
  | _ => exact he

theorem DieSlices.refl (x : Die) : DieSlices x x := rfl

theorem DieSlices.trans {x y z : Die} (h1 : DieSlices x y) (h2 : DieSlices y z) : DieSlices x z := by
  rw [DieSlices] at *
  rw [h2, h1]

theorem dieSlices_of_logs {x y : Die} (h : y = { x with logHold := y.logHold, logDropped := y.logDropped }) : DieSlices x y := by
  rw [DieSlices]
  rw [h]

theorem composes_slices (L : List Nat) : Composes (ButSlices L) where
  refl s := ⟨rfl, fun _ => Iff.rfl, rfl, rfl, fun _ => DieSlices.refl _, fun _ _ _ _ => rfl⟩
  trans a b c h1 h2 := by
    obtain ⟨h11, h12, h13, h14, h15, h16⟩ := h1
    obtain ⟨h21, h22, h23, h24, h25, h26⟩ := h2
    refine ⟨?_, fun w => (h22 w).trans (h12 w), h23.trans h13, ?_, fun d => (h15 d).trans (h25 d), fun k hk he hs => ?_⟩
    · rw [h21, h11]
    · rw [h24, h14]
    · rw [h26 k hk he hs, h16 k hk he hs]

theorem butSlices_ap {L : List Nat} {s : State} {e : Eff} (hc : s.canon = true) (h : SlicedBut L s e) : ButSlices L s (e.ap s) := by
  cases e with
  | reg b i o v =>
    refine ⟨rfl, fun _ => Iff.rfl, rfl, rfl, fun _ => DieSlices.refl _, fun k hk he hs => ?_⟩
    refine SMap.get_set_other _ _ _ _ _ (canon_regs s hc) fun hkey => ?_
    subst hkey
    obtain h | h | h := h
    · exact hk h
    · exact he h
    · exact hs ⟨i, o, by rw [h.1]⟩
  | nvm n => exact ⟨rfl, fun _ => Iff.rfl, h.1, rfl, fun _ => DieSlices.refl _, fun _ _ _ _ => rfl⟩
  | keeper k => exact ⟨rfl, fun _ => Iff.rfl, rfl, h, fun _ => DieSlices.refl _, fun _ _ _ _ => rfl⟩
  | die d x =>
    refine ⟨rfl, fun _ => Iff.rfl, rfl, rfl, fun d' => ?_, fun _ _ _ _ => rfl⟩
    rw [die_ap_die s hc]
    split
    · next hd => exact hd ▸ h
    · exact DieSlices.refl _
  | port => exact ⟨rfl, fun _ => Iff.rfl, rfl, rfl, fun _ => DieSlices.refl _, fun _ _ _ _ => rfl⟩
  | poison l => exact ⟨rfl, h, rfl, rfl, fun _ => DieSlices.refl _, fun _ _ _ _ => rfl⟩
  | free | out => exact ⟨rfl, fun _ => Iff.rfl, rfl, rfl, fun _ => DieSlices.refl _, fun _ _ _ _ => rfl⟩
  | _ => exact h.elim

/-- An action that is all accesses at the slices leaves what they leave. -/
theorem after_butSlices {L : List Nat} {a : Act} {s : State} (hc : s.canon = true) (h : Allowed (SlicedBut L) (a s) s) :
    ButSlices L s (after a s) := h.rel (composes_slices L) (fun _ _ hc he => butSlices_ap hc he) hc

theorem ButSlices.mono {L M : List Nat} (h : L ⊆ M) {s t : State} (hb : ButSlices L s t) : ButSlices M s t := by
  obtain ⟨h1, h2, h3, h4, h5, h6⟩ := hb
  exact ⟨h1, h2, h3, h4, h5, fun k hk => h6 k fun hl => hk (h hl)⟩

/-- Registers whose block's code is below that of STK are no register of a slice, nor of an event table. -/
theorem not_slice_key {b : Blk} {i o : Nat} (hb : b.code < 0x16) (hi : i < 1048576) (ho : o < 65536) :
    ¬ evtKey (regKey b i o) ∧ ¬ stkKey (regKey b i o) := by
  constructor
  · rintro ⟨n, v, hn, hv, hk⟩
    simp only [regKey, Blk.code] at *
    omega
  · rintro ⟨d, off, hk⟩
    simp only [regKey, Blk.code] at *
    omega

section
variable {L : List Nat} {s t : State} (h : ButSlices L s t)
include h

theorem ButSlices.fld {f : Fld} {i : Nat} (hk : regKey f.blk i f.off ∉ L) (hb : f.blk.code < 0x16) (hi : i < 1048576) (ho : f.off < 65536) :
    t.fld f i = s.fld f i := by
  obtain ⟨-, -, -, -, -, h6⟩ := h
  obtain ⟨he, hs⟩ := not_slice_key hb hi ho
  simp only [State.fld, State.reg, h6 _ hk he hs]

theorem ButSlices.frame : t = State.overlay [.regs, .poison, .nvm, .keeper, .dies, .ports, .free, .out] s t := h.1

theorem ButSlices.mem_eq : t.mem = s.mem := by rw [h.frame]; rfl

theorem ButSlices.byte_eq (a : Nat) : t.byte a = s.byte a := by simp only [State.byte, h.mem_eq]

theorem ButSlices.bytes_eq (a n : Nat) : t.bytes a n = s.bytes a n := by simp only [State.bytes, h.byte_eq]

theorem ButSlices.job_eq (p : Nat) : t.job p = s.job p := by rw [h.frame]; rfl

theorem ButSlices.die_eq (d : Nat) : DieSlices (s.die d) (t.die d) := h.2.2.2.2.1 d

theorem ButSlices.poisoned_eq (a n : Nat) : t.poisoned a n = s.poisoned a n := by
  obtain ⟨-, h2, -⟩ := h
  rw [Bool.eq_iff_iff]
  simp only [State.poisoned, List.any_eq_true, h2]

theorem ButSlices.ptab_eq : t.nvm.ptab = s.nvm.ptab := by
  obtain ⟨-, -, h3, -⟩ := h
  exact (congrArg Nvm.ptab h3 :)

theorem ButSlices.part_eq (d : Nat) : t.part d = s.part d := by simp only [State.part, h.ptab_eq]

theorem ButSlices.partDies_eq (p : Nat) : t.partDies p = s.partDies p := by simp only [State.partDies, h.part_eq]

theorem ButSlices.granPart_eq (g : Nat) : t.granPart g = s.granPart g := by
  have hp : t.power = s.power := by rw [h.frame]; rfl
  simp only [State.granPart, h.ptab_eq, hp]

theorem ButSlices.owns_eq (p a n : Nat) : t.owns p a n = s.owns p a n := by simp only [State.owns, h.granPart_eq]

theorem ButSlices.count_eq (a x : Nat) : t.count a x = s.count a x := by
  have hnum : t.num = s.num := funext fun a => funext fun n => by simp only [State.num, h.bytes_eq]
  have hbytes : t.bytes = s.bytes := funext fun a => funext fun n => h.bytes_eq a n
  have hsect : t.sect = s.sect := funext fun a => funext fun i => by simp only [State.sect, hbytes]
  have hs : t.sectOf a x = s.sectOf a x := by simp only [State.sectOf, State.dir, hnum, hsect]
  simp only [State.count, hs]

end

/-- Where no host line has to be given up first, a unit reads and goes on. -/
theorem after_unitRead {s : State} {bulk : Bool} {a n : Nat} {act : Act} (h : (s.heldE a n).isEmpty = true) :
    after (unitRead bulk a n act) s = after act (after (sliceReads bulk a n) s) := by
  rw [after_congr (a := unitRead bulk a n act) (b := seqA [sliceReads bulk a n, act]) (by simp only [unitRead, h, if_true])]
  simp only [after_seqA_cons, after_seqA_end]

theorem butSlices_sliceReads {s : State} (hc : s.canon = true) (bulk : Bool) (a n : Nat) : ButSlices [] s (after (sliceReads bulk a n) s) :=
  after_butSlices hc (allowed_sliceReads (allowsSlices_slicedBut []) bulk a n s)

/-- A register write that is admitted acts (R23, R496). -/
theorem guardW_of_takes {s : State} {src : Src} {b : Blk} {i off : Nat} (h : s.takes src b i off = true) (act : Act) :
    guardW src b i off act s = act s := by
  simp only [State.takes, Bool.and_eq_true, Bool.or_eq_true, Bool.not_eq_true'] at h
  obtain ⟨ha, hk⟩ := h
  have hk' : (b.isKeeper && !s.keeperUp) = false := by
    obtain hk | hk := hk <;> simp [hk]
  simp only [guardW, hk', ha, Bool.false_eq_true, if_false, if_true]

end Sys2Proof.Machine
end

section
/-!
SUPPORT. Recipe updates, window boundaries and the CLR registers (R58, R61–R64, R102, R127, R256, R285, R313).
-/
namespace Sys2Proof.Machine

/-! ## CLR registers -/

theorem reg_of_regs_eq {s t : State} (h : t.regs = s.regs) (b : Blk) (i o : Nat) : t.reg b i o = s.reg b i o := by simp only [State.reg, h]

/-- Registers set to zero read zero, and no other changes. -/
theorem after_clearRegs {s : State} (hc : s.canon = true) (b : Blk) (i : Nat) (l : List Nat) :
    (∀ o ∈ l, (after (forA l fun o => setReg b i o 0) s).reg b i o = 0) ∧
      RegsBut (l.map (regKey b i)) s (after (forA l fun o => setReg b i o 0) s) ∧
      after (forA l fun o => setReg b i o 0) s = { s with regs := (after (forA l fun o => setReg b i o 0) s).regs } := by
  refine ⟨?_, ?_, ?_⟩
  · induction l generalizing s with
    | nil => simp
    | cons a l ih =>
      intro o ho
      have hc1 := after_canon (setReg b i a 0) s hc
      rw [after_forA_cons]
      by_cases hm : o ∈ l
      · exact ih hc1 o hm
      · obtain rfl : o = a := (List.mem_cons.1 ho).resolve_right hm
        have hkeep : ∀ (l : List Nat) (s : State), s.canon = true → s.reg b i o = 0 → (after (forA l fun o => setReg b i o 0) s).reg b i o = 0 := by
          intro l
          induction l with
          | nil => exact fun s _ h => h
          | cons a l ih =>
            intro s hc h
            rw [after_forA_cons]
            refine ih _ (after_canon _ s hc) ?_
            rw [reg_setReg s hc]
            split
            · rfl
            · exact h
        refine hkeep l _ hc1 ?_
        rw [reg_setReg s hc, if_pos rfl]
  · refine after_regsBut hc (allowed_seqA _ s fun a ha s => ?_)
    obtain ⟨o, ho, rfl⟩ := List.mem_map.1 ha
    rw [allowed_setReg]
    exact List.mem_map_of_mem ho
  · have h := after_overlay [.regs] (a := forA l fun o => setReg b i o 0) (s := s) (allowed_forA _ _ s fun _ _ s => by simp)
    exact h

/-- A CLR register that is written 1 clears its counts. -/
theorem after_clr {s : State} {src : Src} {b : Blk} {i off : Nat} (h : s.takes src b i off = true) {v : Word} (hv : bitsOf v 0 0 = 1) (act : Act) :
    after (guardW src b i off (whenA (fun _ => bitsOf v 0 0 == 1) act)) s = after act s := by
  rw [after_congr (guardW_of_takes h _), after_whenA, hv]
  rfl

/-! ## Window boundaries (R58) -/

theorem exec_flagWindowEnd_of_over {s : State} {d : Fin 32} (h : s.flagOver d.val = true) : exec (.flagWindowEnd d) s
    = .next (after (modDie d.val fun x => { x with flagCnt := [], flagFired := [], flagAt := s.mile }) s) := by
  refine congrArg _ (after_congr (a := flagRoll d.val) ?_)
  simp only [flagRoll, whenA, h, if_true]

theorem exec_flagWindowEnd_of_not_over {s : State} {d : Fin 32} (h : s.flagOver d.val = false) : exec (.flagWindowEnd d) s = .next s := by
  refine congrArg _ ((after_congr (a := flagRoll d.val) (b := skip) ?_).trans (after_skipped s))
  simp only [flagRoll, whenA, h, Bool.false_eq_true, if_false, skip]

/-! ## A version comes into force (R61, R62) -/

/-- A die whose waiting version of a recipe is in force. -/
def Die.applyRecipe (i : Nat) (r : Recipe) (x : Die) : Die :=
  { x with recipes := SMap.set (fun _ => Recipe.zero) x.recipes i r, pendRcp := SMap.set noPend x.pendRcp i (noPend 0) }

theorem die_modDie {s : State} (hc : s.canon = true) (d : Nat) (f : Die → Die) (e : Nat) :
    (after (modDie d f) s).die e = if e = d then f (s.die d) else s.die e := by
  simp only [modDie, after_eff, die_ap_die s hc]

theorem modDie_frame {s : State} (d : Nat) (f : Die → Die) : after (modDie d f) s = { s with dies := (after (modDie d f) s).dies } :=
  after_overlay [.dies] (a := modDie d f) (s := s) (by simp)

/-- A command that has ended shows CODE and VERSION, and BUSY no longer. -/
def rcpDone (c : Nat) (r : Recipe) : Act :=
  seqA [setF F.SCH_RCP_STS_BUSY c 0, setF F.SCH_RCP_STS_CODE c 0, setF F.SCH_RCP_STS_VERSION c r.version]

theorem rcpDone_shows {s : State} (hc : s.canon = true) (c : Nat) (r : Recipe) :
    (after (rcpDone c r) s).flag F.SCH_RCP_STS_BUSY c = false ∧ (after (rcpDone c r) s).fld F.SCH_RCP_STS_CODE c = 0 ∧
      (after (rcpDone c r) s).fld F.SCH_RCP_STS_VERSION c = r.version % 2 ^ 16 := by
  obtain ⟨u, hu⟩ : ∃ u, u = after (setF F.SCH_RCP_STS_BUSY c 0) s := ⟨_, rfl⟩
  obtain ⟨v, hv⟩ : ∃ v, v = after (setF F.SCH_RCP_STS_CODE c 0) u := ⟨_, rfl⟩
  have hcu : u.canon = true := hu ▸ after_canon _ s hc
  have hcv : v.canon = true := hv ▸ after_canon _ u hcu
  have ht : after (rcpDone c r) s = after (setF F.SCH_RCP_STS_VERSION c r.version) v := by
    simp only [rcpDone, after_seqA_cons, after_seqA_end, hu, hv]
  rw [ht]
  have hb1 : u.fld F.SCH_RCP_STS_BUSY c = 0 := hu ▸ fld_setF_same s hc F.SCH_RCP_STS_BUSY c 0 (by decide) (by decide)
  have hb2 : v.fld F.SCH_RCP_STS_BUSY c = u.fld F.SCH_RCP_STS_BUSY c :=
    hv ▸ fld_setF_bits u hcu F.SCH_RCP_STS_CODE F.SCH_RCP_STS_BUSY c c 0 (by decide) (by decide) (by decide)
  have hb3 := fld_setF_bits v hcv F.SCH_RCP_STS_VERSION F.SCH_RCP_STS_BUSY c c r.version (by decide) (by decide) (by decide)
  have hc2 : v.fld F.SCH_RCP_STS_CODE c = 0 := hv ▸ fld_setF_same u hcu F.SCH_RCP_STS_CODE c 0 (by decide) (by decide)
  have hc3 := fld_setF_bits v hcv F.SCH_RCP_STS_VERSION F.SCH_RCP_STS_CODE c c r.version (by decide) (by decide) (by decide)
  refine ⟨?_, hc3.trans hc2, fld_setF_same v hcv F.SCH_RCP_STS_VERSION c r.version (by decide) (by decide)⟩
  simp only [State.flag]
  rw [hb3, hb2, hb1]
  rfl

theorem exec_recipeApply {s : State} {d : Fin 32} {i : Fin 4096} {r : Recipe} {c : Nat} (hp : s.pendOf d.val i.val = (r, c)) (hlt : c < 32)
    (hm : s.midBatch d.val i.val = false) : exec (.recipeApply d i) s = .next (after (seqA [modDie d.val (Die.applyRecipe i.val r),
      whenA (fun s => (s.partDies (s.part d.val)).all fun e => 32 ≤ (s.pendOf e i.val).2) (rcpDone c r)]) s) := by
  have h : ¬ (32 ≤ c ∨ s.midBatch d.val i.val = true) := by
    rw [hm]
    simp only [Bool.false_eq_true, or_false]
    omega
  refine congrArg _ (after_congr ?_)
  simp only [hp, h, if_false]
  rfl

end Sys2Proof.Machine
end

section
/-!
SUPPORT. A recipe update and its checks (R61–R63).
-/
namespace Sys2Proof.Machine

/-! ## One change on several dies -/

theorem die_forA_modDie {g : Die → Die} : ∀ {l : List Nat} {s : State}, s.canon = true → l.Nodup → ∀ e,
    (after (forA l fun e => modDie e g) s).die e = if e ∈ l then g (s.die e) else s.die e
  | [], s, _, _, e => by simp
  | a :: l, s, hc, hn, e => by
    obtain ⟨ha, hl⟩ := List.nodup_cons.1 hn
    rw [after_forA_cons, die_forA_modDie (after_canon _ s hc) hl, die_modDie hc]
    by_cases he : e = a
    · subst he
      simp [ha]
    · simp [he]

theorem forA_modDie_frame {g : Die → Die} (l : List Nat) (s : State) :
    after (forA l fun e => modDie e g) s = { s with dies := (after (forA l fun e => modDie e g) s).dies } :=
  after_overlay [.dies] (a := forA l fun e => modDie e g) (s := s) (allowed_forA _ _ s fun _ _ s => by simp)

theorem partDies_nodup (s : State) (p : Nat) : (s.partDies p).Nodup := List.Nodup.filter _ List.nodup_range

theorem mem_partDies {s : State} {p e : Nat} : e ∈ s.partDies p ↔ e < 32 ∧ s.part e = p := by
  simp [State.partDies, allDies]

/-! ## The checks read what an access at the slices leaves -/

section
variable {L : List Nat} {s t : State} (h : ButSlices L s t) {d : Nat} (hd : d < 32) (hL : ∀ d < 32, regKey .bil d F.BIL_IMG_STS_STATE.off ∉ L)
include h hd hL

theorem ButSlices.rcpPlace_eq (i a : Nat) : t.rcpPlace d i a = s.rcpPlace d i a := by
  have hf : t.fld F.BIL_IMG_STS_STATE d = s.fld F.BIL_IMG_STS_STATE d := h.fld (hL d hd) (by decide) (by omega) (by decide)
  simp only [State.rcpPlace, h.part_eq, h.job_eq, h.count_eq, h.owns_eq, hf]

omit hd hL in
theorem ButSlices.rcp_eq (d i : Nat) : t.rcp d i = s.rcp d i := by
  have hr : (t.die d).recipes = (s.die d).recipes := by rw [h.die_eq d]
  simp only [State.rcp, hr]

theorem ButSlices.rcpCheck_eq (i a : Nat) : t.rcpCheck d i a = s.rcpCheck d i a := by
  simp only [State.rcpCheck, h.rcpPlace_eq hd hL, h.bytes_eq, h.poisoned_eq, h.rcp_eq]

end

/-! ## An update begins, or ends with its CODE -/

/-- What an update that fails a check shows. -/
def rcpRefused (d i code ver : Nat) : Act :=
  seqA [setF F.SCH_RCP_STS_INDEX d i, setF F.SCH_RCP_STS_CODE d code, setF F.SCH_RCP_STS_VERSION d ver]

theorem rcpRefused_shows {s : State} (hc : s.canon = true) (d i code ver : Nat) :
    (after (rcpRefused d i code ver) s).fld F.SCH_RCP_STS_CODE d = code % 2 ^ 4 ∧
      (after (rcpRefused d i code ver) s).fld F.SCH_RCP_STS_VERSION d = ver % 2 ^ 16 := by
  obtain ⟨u, hu⟩ : ∃ u, u = after (setF F.SCH_RCP_STS_INDEX d i) s := ⟨_, rfl⟩
  obtain ⟨v, hv⟩ : ∃ v, v = after (setF F.SCH_RCP_STS_CODE d code) u := ⟨_, rfl⟩
  have hcu : u.canon = true := hu ▸ after_canon _ s hc
  have hcv : v.canon = true := hv ▸ after_canon _ u hcu
  have ht : after (rcpRefused d i code ver) s = after (setF F.SCH_RCP_STS_VERSION d ver) v := by
    simp only [rcpRefused, after_seqA_cons, after_seqA_end, hu, hv]
  have h1 : v.fld F.SCH_RCP_STS_CODE d = code % 2 ^ 4 := hv ▸ fld_setF_same u hcu F.SCH_RCP_STS_CODE d code (by decide) (by decide)
  have h2 := fld_setF_bits v hcv F.SCH_RCP_STS_VERSION F.SCH_RCP_STS_CODE d d ver (by decide) (by decide) (by decide)
  rw [ht]
  exact ⟨h2.trans h1, fld_setF_same v hcv F.SCH_RCP_STS_VERSION d ver (by decide) (by decide)⟩

/-- An update that begins shows INDEX and BUSY. -/
def rcpBegun (d i : Nat) : Act := seqA [setF F.SCH_RCP_STS_INDEX d i, setF F.SCH_RCP_STS_BUSY d 1]

theorem rcpBegun_shows {s : State} (hc : s.canon = true) (d i : Nat) :
    (after (rcpBegun d i) s).flag F.SCH_RCP_STS_BUSY d = true ∧ (after (rcpBegun d i) s).fld F.SCH_RCP_STS_INDEX d = i % 2 ^ 16 := by
  obtain ⟨u, hu⟩ : ∃ u, u = after (setF F.SCH_RCP_STS_INDEX d i) s := ⟨_, rfl⟩
  have hcu : u.canon = true := hu ▸ after_canon _ s hc
  have ht : after (rcpBegun d i) s = after (setF F.SCH_RCP_STS_BUSY d 1) u := by
    simp only [rcpBegun, after_seqA_cons, after_seqA_end, hu]
  have h1 : u.fld F.SCH_RCP_STS_INDEX d = i % 2 ^ 16 := hu ▸ fld_setF_same s hc F.SCH_RCP_STS_INDEX d i (by decide) (by decide)
  have h2 := fld_setF_bits u hcu F.SCH_RCP_STS_BUSY F.SCH_RCP_STS_INDEX d d 1 (by decide) (by decide) (by decide)
  have h3 := fld_setF_same u hcu F.SCH_RCP_STS_BUSY d 1 (by decide) (by decide)
  rw [ht]
  refine ⟨?_, h2.trans h1⟩
  simp only [State.flag]
  rw [h3]
  rfl

theorem after_recipeStart_of_refused {s : State} {d i a : Nat} (h : s.rcpCheck d i a ≠ 0) :
    after (recipeStart d i a) s = after (rcpRefused d i (s.rcpCheck d i a) (s.rcp d i).version) s := by
  refine after_congr ?_
  simp only [recipeStart, h, if_false]
  rfl

/-- A die on which a version of a recipe waits. -/
def Die.waitRecipe (i : Nat) (r : Recipe) (c : Nat) (x : Die) : Die := { x with pendRcp := SMap.set noPend x.pendRcp i (r, c) }

theorem after_recipeStart_of_ok {s : State} {d i a : Nat} (h : s.rcpCheck d i a = 0) : after (recipeStart d i a) s
    = after (forA (s.partDies (s.part d)) fun e => modDie e (Die.waitRecipe i (decRecipe (s.bytes a 64)) d)) (after (rcpBegun d i) s) := by
  refine (after_congr (b := seqA [setF F.SCH_RCP_STS_INDEX d i, setF F.SCH_RCP_STS_BUSY d 1,
    onDies (s.part d) fun e => modDie e (Die.waitRecipe i (decRecipe (s.bytes a 64)) d)]) ?_).trans ?_
  · simp only [recipeStart, h, if_true]
    rfl
  · have hp : ∀ p, (after (rcpBegun d i) s).partDies p = s.partDies p := fun p =>
      after_read_eq (fun s => s.partDies p) (fs := [.regs]) (by simp [rcpBegun]) fun _ => rfl
    have hb : after (rcpBegun d i) s = after (setF F.SCH_RCP_STS_BUSY d 1) (after (setF F.SCH_RCP_STS_INDEX d i) s) := by
      simp only [rcpBegun, after_seqA_cons, after_seqA_end]
    rw [hb] at hp
    simp only [onDies, after_seqA_cons, after_seqA_end, after_withA, hb, hp]

section
variable {s : State} {src : Src} {d : Fin 32} {v : Word} (ht : s.takes src .sch d.val 0x830 = true) (hv : bitsOf v 0 0 = 1)
  (hb : ∀ e, e < 32 → s.part e = s.part d.val → s.flag F.SCH_RCP_STS_BUSY e = false)
include ht hv hb

/-- A command that GO starts while none runs stores its fields; the entry is read where index and address pass. -/
theorem exec_recipeUpdate : exec (.recipeUpdate src d v) s = .next (after
    (if s.rcpPlace d.val (bitsOf v 63 48) (bitsOf v 47 6 * 64) ≠ 0 then recipeStart d.val (bitsOf v 63 48) (bitsOf v 47 6 * 64)
      else unitRead false (bitsOf v 47 6 * 64) 64 (recipeStart d.val (bitsOf v 63 48) (bitsOf v 47 6 * 64)))
    (after (storeRW .sch d.val 0x830 v) s)) := by
  have hany : ((s.partDies (s.part d.val)).any fun e => s.flag F.SCH_RCP_STS_BUSY e) = false := by
    rw [List.any_eq_false]
    intro e he
    obtain ⟨h1, h2⟩ := mem_partDies.1 he
    simp [hb e h1 h2]
  have hgo : ¬ bitsOf v 0 0 = 0 := by omega
  have hguard : hostRecipeUpdate src d v s = seqA [storeRW .sch d.val 0x830 v,
      if s.rcpPlace d.val (bitsOf v 63 48) (bitsOf v 47 6 * 64) ≠ 0 then recipeStart d.val (bitsOf v 63 48) (bitsOf v 47 6 * 64)
      else unitRead false (bitsOf v 47 6 * 64) 64 (recipeStart d.val (bitsOf v 63 48) (bitsOf v 47 6 * 64))] s := by
    simp only [hostRecipeUpdate, guardW_of_takes ht, hgo, hany, Bool.false_eq_true, if_false]
  refine congrArg _ ((after_congr (a := hostRecipeUpdate src d v) hguard).trans ?_)
  simp only [after_seqA_cons, after_seqA_end]

end

/-- The fields of a command register change that register alone. -/
theorem allowed_storeRW {P : State → Eff → Prop} (b : Blk) (i off : Nat) (v : Word) (s : State) (h : ∀ s x, P s (.reg b i off x)) :
    Allowed P (storeRW b i off v s) s := by
  simp [storeRW, h]

theorem bitsOf_lt (w : Word) (hi lo : Nat) : bitsOf w hi lo < 2 ^ (hi + 1 - lo) := Nat.mod_lt _ (Nat.two_pow_pos _)

/-- The waiting version of a recipe is in force on a die; the last die ends the command. -/
theorem recipeApply_applies {s : State} (hc : s.canon = true) {d : Fin 32} {i : Fin 4096} {r : Recipe} {c : Nat}
    (hp : s.pendOf d.val i.val = (r, c)) (hlt : c < 32) (hm : s.midBatch d.val i.val = false) :
    ∃ t, exec (.recipeApply d i) s = .next t ∧ t.rcp d.val i.val = r ∧ t.pendOf d.val i.val = noPend 0 ∧
      ((∀ e, e < 32 → e ≠ d.val → s.part e = s.part d.val → 32 ≤ (s.pendOf e i.val).2) →
        t.flag F.SCH_RCP_STS_BUSY c = false ∧ t.fld F.SCH_RCP_STS_CODE c = 0 ∧ t.fld F.SCH_RCP_STS_VERSION c = r.version % 2 ^ 16) ∧
      DiesBut [d.val] s t ∧ RegsBut [regKey .sch c F.SCH_RCP_STS_BUSY.off] s t ∧ t = { s with regs := t.regs, dies := t.dies } := by
  obtain ⟨u, hu⟩ : ∃ u, u = after (modDie d.val (Die.applyRecipe i.val r)) s := ⟨_, rfl⟩
  obtain ⟨t, ht⟩ : ∃ t, t = after (whenA (fun s => (s.partDies (s.part d.val)).all fun e => 32 ≤ (s.pendOf e i.val).2) (rcpDone c r)) u := ⟨_, rfl⟩
  have hcu : u.canon = true := hu ▸ after_canon _ s hc
  have hdie : ∀ e, u.die e = if e = d.val then (s.die d.val).applyRecipe i.val r else s.die e := hu ▸ die_modDie hc _ _
  have hfr : u = { s with dies := u.dies } := hu ▸ modDie_frame _ _
  have hof : Allowed (onlyFields [.regs])
      (whenA (fun s => (s.partDies (s.part d.val)).all fun e => 32 ≤ (s.pendOf e i.val).2) (rcpDone c r) u) u := by simp [rcpDone]
  have hov := after_overlay _ hof
  have hregs := after_regsBut (L := [regKey .sch c F.SCH_RCP_STS_BUSY.off]) hcu
    (a := whenA (fun s => (s.partDies (s.part d.val)).all fun e => 32 ≤ (s.pendOf e i.val).2) (rcpDone c r)) (by simp [rcpDone])
  rw [← ht] at hov hregs
  have hd : ∀ e, t.die e = u.die e := fun e => by rw [hov]; rfl
  have hpart : ∀ e, u.part e = s.part e := fun e => by rw [hfr]; rfl
  have hpend : ∀ e, (u.pendOf e i.val) = if e = d.val then noPend 0 else s.pendOf e i.val := fun e => by
    rw [State.pendOf, hdie]
    split
    · exact SMap.get_set_self _ _ _ _
    · rfl
  refine ⟨t, ?_, ?_, ?_, fun hlast => ?_, fun e he => ?_, fun k hk => ?_, ?_⟩
  · rw [exec_recipeApply hp hlt hm, after_seqA_cons, after_seqA_cons, after_seqA_end, ← hu, ← ht]
  · rw [State.rcp, hd, hdie, if_pos rfl]
    exact SMap.get_set_self _ _ _ _
  · rw [State.pendOf, hd]
    exact (hpend d.val).trans (if_pos rfl)
  · have hall : ((u.partDies (u.part d.val)).all fun e => 32 ≤ (u.pendOf e i.val).2) = true := by
      rw [List.all_eq_true]
      intro e he
      obtain ⟨h1, h2⟩ := mem_partDies.1 he
      rw [hpart, hpart] at h2
      rw [hpend]
      split
      · rfl
      · next hne => exact decide_eq_true (hlast e h1 hne h2)
    have htt : t = after (rcpDone c r) u := by rw [ht, after_whenA, hall, if_pos rfl]
    rw [htt]
    exact rcpDone_shows hcu c r
  · rw [hd, hdie, if_neg (by simpa using he)]
  · rw [hregs k hk, hfr]
  · rw [hov, hfr]
    rfl

theorem rcpCheck_lt (s : State) (d i a : Nat) : s.rcpCheck d i a < 16 := by
  simp only [State.rcpCheck, State.rcpPlace]
  split_ifs <;> omega

/-- The registers of a recipe command, and what it reads at the slices. -/
def rcpKeys (d : Nat) : List Nat := [regKey .sch d 0x830, regKey .sch d F.SCH_RCP_STS_BUSY.off]

theorem bil_not_mem_rcpKeys {d e : Nat} : regKey .bil e F.BIL_IMG_STS_STATE.off ∉ rcpKeys d := by
  simp only [rcpKeys, List.mem_cons, List.not_mem_nil, or_false, not_or]
  exact ⟨regKey_ne_of_off (by decide), regKey_ne_of_off (by decide)⟩

section
variable {s : State} (hc : s.canon = true) (d : Nat)
include hc

theorem butSlices_storeRW (v : Word) : ButSlices (rcpKeys d) s (after (storeRW .sch d 0x830 v) s) :=
  after_butSlices hc (allowed_storeRW _ _ _ _ _ fun _ _ => .inl (List.mem_cons_self ..))

theorem butSlices_rcpRefused (i code ver : Nat) : ButSlices (rcpKeys d) s (after (rcpRefused d i code ver) s) := by
  have hk : ∀ s x, SlicedBut (rcpKeys d) s (.reg .sch d 0x838 x) := fun _ _ => .inl (List.mem_cons_of_mem _ (List.mem_cons_self ..))
  refine after_butSlices hc ?_
  simp only [rcpRefused, allowed_seqA_cons, allowed_setF, allowed_seqA_nil, and_true]
  exact ⟨hk _ _, hk _ _, hk _ _⟩

theorem butSlices_rcpBegun (i : Nat) : ButSlices (rcpKeys d) s (after (rcpBegun d i) s) := by
  have hk : ∀ s x, SlicedBut (rcpKeys d) s (.reg .sch d 0x838 x) := fun _ _ => .inl (List.mem_cons_of_mem _ (List.mem_cons_self ..))
  refine after_butSlices hc ?_
  simp only [rcpBegun, allowed_seqA_cons, allowed_setF, allowed_seqA_nil, and_true]
  exact ⟨hk _ _, hk _ _⟩

end

section
variable {s : State} (hc : s.canon = true) {src : Src} {d : Fin 32} {v : Word} (ht : s.takes src .sch d.val 0x830 = true)
  (hv : bitsOf v 0 0 = 1) (hb : ∀ e, e < 32 → s.part e = s.part d.val → s.flag F.SCH_RCP_STS_BUSY e = false)
  {i a : Nat} (hi : i = bitsOf v 63 48) (ha : a = bitsOf v 47 6 * 64)
include hc ht hv hb hi ha

/-- Up to its start, an update stores the command's fields and, where index and address pass, reads the entry; the checks come out as before. -/
theorem recipeUpdate_starts (hh : s.rcpPlace d.val i a = 0 → (s.heldE a 64).isEmpty = true) :
    ∃ u, exec (.recipeUpdate src d v) s = .next (after (recipeStart d.val i a) u) ∧ u.canon = true ∧ ButSlices (rcpKeys d.val) s u ∧
      (s.rcpPlace d.val i a ≠ 0 → u = { s with regs := u.regs }) := by
  obtain ⟨s1, hs1⟩ : ∃ s1, s1 = after (storeRW .sch d.val 0x830 v) s := ⟨_, rfl⟩
  have hc1 : s1.canon = true := hs1 ▸ after_canon _ s hc
  have hb1 : ButSlices (rcpKeys d.val) s s1 := hs1 ▸ butSlices_storeRW hc d.val v
  have hf1 : s1 = { s with regs := s1.regs } := by
    have h := after_overlay [.regs] (a := storeRW .sch d.val 0x830 v) (s := s) (by simp [storeRW])
    rw [← hs1] at h
    exact h
  rw [exec_recipeUpdate ht hv hb, ← hs1, ← hi, ← ha]
  by_cases hp : s.rcpPlace d.val i a = 0
  · have hheld : (s1.heldE a 64).isEmpty = true := by
      rw [hf1]
      exact hh hp
    refine ⟨after (sliceReads false a 64) s1, ?_, after_canon _ s1 hc1, (composes_slices _).trans _ _ _ hb1
      ((butSlices_sliceReads hc1 false a 64).mono (List.nil_subset _)), fun h => absurd hp h⟩
    rw [if_neg (not_not.2 hp), after_unitRead hheld]
  · exact ⟨s1, by rw [if_pos hp], hc1, hb1, fun _ => hf1⟩

/-- An update that fails a check. -/
theorem recipeUpdate_refused (hh : s.rcpPlace d.val i a = 0 → (s.heldE a 64).isEmpty = true) (hk : s.rcpCheck d.val i a ≠ 0) :
    ∃ t, exec (.recipeUpdate src d v) s = .next t ∧ t.fld F.SCH_RCP_STS_CODE d.val = s.rcpCheck d.val i a ∧
      t.fld F.SCH_RCP_STS_VERSION d.val = (s.rcp d.val i).version % 2 ^ 16 ∧ ButSlices (rcpKeys d.val) s t ∧
      (s.rcpPlace d.val i a ≠ 0 → t = { s with regs := t.regs }) := by
  obtain ⟨u, hu, hcu, hbu, hfu⟩ := recipeUpdate_starts hc ht hv hb hi ha hh
  have hcheck : u.rcpCheck d.val i a = s.rcpCheck d.val i a := hbu.rcpCheck_eq d.isLt (fun _ _ => bil_not_mem_rcpKeys) i a
  have hrcp : u.rcp d.val i = s.rcp d.val i := hbu.rcp_eq _ _
  obtain ⟨h1, h2⟩ := rcpRefused_shows hcu d.val i (s.rcpCheck d.val i a) (s.rcp d.val i).version
  have hstart : after (recipeStart d.val i a) u = after (rcpRefused d.val i (s.rcpCheck d.val i a) (s.rcp d.val i).version) u := by
    rw [after_recipeStart_of_refused (by rw [hcheck]; exact hk), hcheck, hrcp]
  rw [hu, hstart]
  refine ⟨_, rfl, h1.trans (Nat.mod_eq_of_lt (rcpCheck_lt _ _ _ _)), h2, (composes_slices _).trans _ _ _ hbu (butSlices_rcpRefused hcu _ _ _ _),
    fun hp => ?_⟩
  have hov := after_overlay [.regs] (a := rcpRefused d.val i (s.rcpCheck d.val i a) (s.rcp d.val i).version) (s := u) (by simp [rcpRefused])
  rw [hov, hfu hp]
  rfl

/-- An update that passes its checks waits on every die of the partition. -/
theorem recipeUpdate_waits (hh : s.rcpPlace d.val i a = 0 → (s.heldE a 64).isEmpty = true) (hk : s.rcpCheck d.val i a = 0) :
    ∃ t, exec (.recipeUpdate src d v) s = .next t ∧ t.flag F.SCH_RCP_STS_BUSY d.val = true ∧ t.fld F.SCH_RCP_STS_INDEX d.val = i ∧
      (∀ e, e < 32 → s.part e = s.part d.val → t.pendOf e i = (decRecipe (s.bytes a 64), d.val)) ∧
      (∀ e, (t.die e).recipes = (s.die e).recipes ∧ DieSlices { s.die e with pendRcp := (t.die e).pendRcp } (t.die e)) ∧
      t.mem = s.mem ∧ t.passages = s.passages ∧ t.jobs = s.jobs ∧ t.cores = s.cores := by
  obtain ⟨u, hu, hcu, hbu, -⟩ := recipeUpdate_starts hc ht hv hb hi ha hh
  have hcheck : u.rcpCheck d.val i a = s.rcpCheck d.val i a := hbu.rcpCheck_eq d.isLt (fun _ _ => bil_not_mem_rcpKeys) i a
  obtain ⟨w, hw⟩ : ∃ w, w = after (rcpBegun d.val i) u := ⟨_, rfl⟩
  obtain ⟨f, hf⟩ : ∃ f, f = Die.waitRecipe i (decRecipe (s.bytes a 64)) d.val := ⟨_, rfl⟩
  obtain ⟨l, hl⟩ : ∃ l, l = s.partDies (s.part d.val) := ⟨_, rfl⟩
  obtain ⟨t, htt⟩ : ∃ t, t = after (forA l fun e => modDie e f) w := ⟨_, rfl⟩
  have hcw : w.canon = true := hw ▸ after_canon _ u hcu
  have hbw : ButSlices (rcpKeys d.val) s w := (composes_slices _).trans _ _ _ hbu (hw ▸ butSlices_rcpBegun hcu d.val i)
  have hstart : after (recipeStart d.val i a) u = t := by
    rw [after_recipeStart_of_ok (by rw [hcheck]; exact hk), hbu.partDies_eq, hbu.part_eq, hbu.bytes_eq, ← hf, ← hl, ← hw, htt]
  have hdie : ∀ e, t.die e = if e ∈ l then f (w.die e) else w.die e := htt ▸ die_forA_modDie hcw (hl ▸ partDies_nodup s _)
  have hfr : t = { w with dies := t.dies } := htt ▸ forA_modDie_frame l w
  obtain ⟨h1, h2⟩ := rcpBegun_shows hcu d.val i
  rw [← hw] at h1 h2
  have hfld : ∀ g k, t.fld g k = w.fld g k := fun g k => by rw [hfr]; rfl
  rw [hu, hstart]
  refine ⟨t, rfl, ?_, ?_, fun e he hp => ?_, fun e => ?_, ?_, ?_, ?_, ?_⟩
  · rw [State.flag, hfld]
    exact h1
  · rw [hfld, h2, hi]
    exact Nat.mod_eq_of_lt (bitsOf_lt v 63 48)
  · have hm : e ∈ l := hl ▸ mem_partDies.2 ⟨he, hp⟩
    rw [State.pendOf, hdie, if_pos hm, hf]
    exact SMap.get_set_self _ _ _ _
  · have hds := hbw.die_eq e
    rw [hdie]
    split
    · rw [hf]
      constructor
      · change (w.die e).recipes = _
        rw [hds]
      · change _ = _
        simp only [Die.waitRecipe]
        rw [hds]
    · constructor
      · rw [hds]
      · change _ = _
        rw [hds]
  · rw [hfr]
    exact hbw.mem_eq
  · rw [hfr, hbw.frame]
    rfl
  · rw [hfr, hbw.frame]
    rfl
  · rw [hfr, hbw.frame]
    rfl

end

/-! ## The CLR registers (R64, R102, R127, R256, R285, R313) -/

/-- A CLR command whose write is taken runs its clearing action. -/
theorem runAct_clr {s : State} {src : Src} {b : Blk} {i off : Nat} (h : s.takes src b i off = true) {v : Word} (hv : bitsOf v 0 0 = 1)
    (act : Act) : runAct (guardW src b i off (whenA (fun _ => bitsOf v 0 0 == 1) act)) s = .next (after act s) := by
  exact congrArg Host.Outcome.next (after_clr h hv act)

section
variable {s : State} {src : Src} {v : Word} (hc : s.canon = true)
include hc

theorem fmtCntClear_clears {d : Fin 32} (ht : s.takes src .sch d.val 0x828 = true) (hv : bitsOf v 0 0 = 1) :
    ∃ t, exec (.fmtCntClear src d v) s = .next t ∧ t.fld F.SCH_FMT_CNT_RESCALE d.val = 0 ∧ t.fld F.SCH_FMT_CNT_RSVD_CODE d.val = 0 ∧
      RegsBut [regKey .sch d.val 0x820] s t ∧ t = { s with regs := t.regs } := by
  obtain ⟨h1, h2, h3⟩ := after_clearRegs hc .sch d.val [0x820]
  have hact : after (setReg .sch d.val 0x820 0) s = after (forA [0x820] fun o => setReg .sch d.val o 0) s := by
    rw [after_forA_cons, after_forA_nil]
  refine ⟨_, (runAct_clr ht hv _).trans (congrArg Host.Outcome.next hact), ?_, ?_, h2, h3⟩
  · simp only [State.fld, h1 0x820 (by simp)]
    rfl
  · simp only [State.fld, h1 0x820 (by simp)]
    rfl

theorem arrCntClear_clears {x : TileId} (ht : s.takes src .til (tileKey x) 0x130 = true) (hv : bitsOf v 0 0 = 1) :
    ∃ t, exec (.arrCntClear src x v) s = .next t ∧ (∀ o ∈ [0x110, 0x118, 0x120], t.reg .til (tileKey x) o = 0) ∧
      RegsBut ([0x110, 0x118, 0x120].map (regKey .til (tileKey x))) s t ∧ t = { s with regs := t.regs } := by
  obtain ⟨h1, h2, h3⟩ := after_clearRegs hc .til (tileKey x) [0x110, 0x118, 0x120]
  exact ⟨_, runAct_clr ht hv _, h1, h2, h3⟩

theorem outCntClear_clears {x : TileId} (ht : s.takes src .til (tileKey x) 0x2A8 = true) (hv : bitsOf v 0 0 = 1) :
    ∃ t, exec (.outCntClear src x v) s = .next t ∧
      (∀ o ∈ [0x208, 0x280, 0x288, 0x290, 0x298, 0x2A0], t.reg .til (tileKey x) o = 0) ∧
      RegsBut ([0x208, 0x280, 0x288, 0x290, 0x298, 0x2A0].map (regKey .til (tileKey x))) s t ∧ t = { s with regs := t.regs } := by
  obtain ⟨h1, h2, h3⟩ := after_clearRegs hc .til (tileKey x) [0x280, 0x288, 0x290, 0x298, 0x2A0, 0x208]
  have hperm : [0x280, 0x288, 0x290, 0x298, 0x2A0, 0x208].Perm [0x208, 0x280, 0x288, 0x290, 0x298, 0x2A0] := by decide
  exact ⟨_, runAct_clr ht hv _, fun o ho => h1 o (hperm.mem_iff.2 ho), fun k hk => h2 k fun hm => hk ((hperm.map _).mem_iff.1 hm), h3⟩

theorem expCntClear_clears {d : Fin 32} (ht : s.takes src .sch d.val 0x340 = true) (hv : bitsOf v 0 0 = 1) :
    ∃ t, exec (.expCntClear src d v) s = .next t ∧ t.die d.val = { s.die d.val with expCnt := [], exitCnt := [] } ∧
      t.fld F.SCH_DISP_BUF_WAITS d.val = 0 ∧ DiesBut [d.val] s t ∧ RegsBut [regKey .sch d.val F.SCH_DISP_BUF_WAITS.off] s t ∧
      t = { s with regs := t.regs, dies := t.dies } := by
  obtain ⟨u, hu⟩ : ∃ u, u = after (modDie d.val fun x => { x with expCnt := [], exitCnt := [] }) s := ⟨_, rfl⟩
  have hcu : u.canon = true := hu ▸ after_canon _ s hc
  have hdie := die_modDie hc d.val fun x => { x with expCnt := [], exitCnt := [] }
  have hfr : u = { s with dies := u.dies } := hu ▸ modDie_frame _ _
  have hov := after_overlay [.regs] (a := setF F.SCH_DISP_BUF_WAITS d.val 0) (s := u) (by simp)
  have hregs := after_regsBut (L := [regKey .sch d.val F.SCH_DISP_BUF_WAITS.off]) hcu (a := setF F.SCH_DISP_BUF_WAITS d.val 0)
    (by simp [F.SCH_DISP_BUF_WAITS])
  have hfld := fld_setF_same u hcu F.SCH_DISP_BUF_WAITS d.val 0 (by decide) (by decide)
  obtain ⟨t, htt⟩ : ∃ t, t = after (setF F.SCH_DISP_BUF_WAITS d.val 0) u := ⟨_, rfl⟩
  rw [← hu] at hdie
  rw [← htt] at hov hregs hfld
  have hd : ∀ e, t.die e = u.die e := fun e => by rw [hov]; rfl
  have hact : after (seqA [modDie d.val fun x => { x with expCnt := [], exitCnt := [] }, setF F.SCH_DISP_BUF_WAITS d.val 0]) s = t := by
    rw [after_seqA_cons, after_seqA_cons, after_seqA_end, ← hu, ← htt]
  exact ⟨t, (runAct_clr ht hv _).trans (congrArg Host.Outcome.next hact), by rw [hd, hdie, if_pos rfl], hfld,
    fun e he => by rw [hd, hdie, if_neg (by simpa using he)], fun k hk => by rw [hregs k hk, hfr], by rw [hov, hfr]; rfl⟩

theorem stkCntClear_clears {d : Fin 32} (ht : s.takes src .stk d.val 0x418 = true) (hv : bitsOf v 0 0 = 1) :
    ∃ t, exec (.stkCntClear src d v) s = .next t ∧
      (∀ o ∈ [0x128, 0x130, 0x200, 0x208, 0x218, 0x220, 0x408, 0x410], t.reg .stk d.val o = 0) ∧
      RegsBut ([0x128, 0x130, 0x200, 0x208, 0x218, 0x220, 0x408, 0x410].map (regKey .stk d.val)) s t ∧ t = { s with regs := t.regs } := by
  obtain ⟨h1, h2, h3⟩ := after_clearRegs hc .stk d.val [0x128, 0x130, 0x200, 0x208, 0x218, 0x220, 0x408, 0x410]
  exact ⟨_, runAct_clr ht hv _, h1, h2, h3⟩

theorem ldrCntClear_clears (ht : s.takes src .ldr (s.bank src .ldr) 0x170 = true) (hv : bitsOf v 0 0 = 1) :
    ∃ t, exec (.ldrCntClear src v) s = .next t ∧ (∀ o ∈ [0x158, 0x160], t.reg .ldr (s.bank src .ldr) o = 0) ∧
      RegsBut ([0x158, 0x160].map (regKey .ldr (s.bank src .ldr))) s t ∧ t = { s with regs := t.regs } := by
  obtain ⟨h1, h2, h3⟩ := after_clearRegs hc .ldr (s.bank src .ldr) [0x158, 0x160]
  exact ⟨_, runAct_clr ht hv _, h1, h2, h3⟩

end

end Sys2Proof.Machine

open Sys2Proof Sys2Proof.Machine

/-- Settles O20: an update is its checks and one change on each die; a boundary and the CLR registers each clear what they name. -/
theorem recipesAndCounts : Obligations.RecipesAndCounts := by
  unfold Obligations.RecipesAndCounts
  refine ⟨⟨fun s src d v hc ht hv hb => ?_, fun s d i r c hc hp hlt hm => ?_⟩, fun s hc => ⟨fun d => ?_, fun src v hv => ?_⟩⟩
  · intro i a hh
    exact ⟨fun hk => recipeUpdate_waits hc ht hv hb rfl rfl hh hk, fun hk => recipeUpdate_refused hc ht hv hb rfl rfl hh hk⟩
  · exact recipeApply_applies hc hp hlt hm
  · intro e
    have hover : s.flagOver d.val = true ↔ s.mile.toNat / 2 ^ e ≠ (s.die d.val).flagAt.toNat / 2 ^ e := by
      rw [State.flagOver, bne_iff_ne]
      rfl
    refine ⟨fun h => ?_, fun h => exec_flagWindowEnd_of_not_over (Bool.eq_false_iff.2 fun ho => hover.1 ho h)⟩
    have hd := die_modDie hc d.val fun x => { x with flagCnt := [], flagFired := [], flagAt := s.mile }
    refine ⟨_, exec_flagWindowEnd_of_over (hover.2 h), fun k => ?_, by rw [hd, if_pos rfl], fun x hx => ?_, modDie_frame _ _⟩
    · rw [State.stageFlags, hd, if_pos rfl]
      split <;> rfl
    · rw [hd, if_neg (by simpa using hx)]
  · exact ⟨fun d ht => fmtCntClear_clears hc ht hv, fun x ht => arrCntClear_clears hc ht hv, fun x ht => outCntClear_clears hc ht hv,
      fun d ht => expCntClear_clears hc ht hv, fun d ht => stkCntClear_clears hc ht hv, fun ht => ldrCntClear_clears hc ht hv⟩
end

section
/-!
SUPPORT. What a field reads after a change: of itself, of another field, or of anything but the registers.
-/
namespace Sys2Proof.Machine

section
variable {s : State} (h : s.canon = true)
include h

@[simp] theorem fld_set_same (f : Fld) (i v : Nat) (hf : f.lo ≤ f.hi ∧ f.hi < 64) :
    (after (setF f i v) s).fld f i = v % 2 ^ (f.hi + 1 - f.lo) := fld_setF_same s h f i v hf.1 hf.2

@[simp] theorem fld_set_bits (f g : Fld) (i j v : Nat) (hf : (f.lo ≤ f.hi ∧ f.hi < 64) ∧ (g.hi < f.lo ∨ f.hi < g.lo)) :
    (after (setF f i v) s).fld g j = s.fld g j := fld_setF_bits s h f g i j v hf.1.1 hf.1.2 hf.2

@[simp] theorem fld_set_off (f g : Fld) (i j v : Nat) (ho : g.off % 65536 ≠ f.off % 65536) :
    (after (setF f i v) s).fld g j = s.fld g j := fld_setF_reg s h f g i j v (regKey_ne_of_off ho)

@[simp] theorem fld_setReg_off (b : Blk) (i o : Nat) (v : Word) (g : Fld) (j : Nat) (ho : g.off % 65536 ≠ o % 65536) :
    (after (setReg b i o v) s).fld g j = s.fld g j := by
  simp only [State.fld, reg_setReg s h, if_neg (regKey_ne_of_off ho)]

@[simp] theorem fld_setReg_same (b : Blk) (i o : Nat) (v : Word) (g : Fld) (ho : g.blk = b ∧ g.off = o) :
    (after (setReg b i o v) s).fld g i = g.of v := by
  obtain ⟨rfl, rfl⟩ := ho
  simp only [State.fld, reg_setReg s h, if_true]

@[simp] theorem reg_setReg_same (b : Blk) (i o : Nat) (v : Word) : (after (setReg b i o v) s).reg b i o = v := by
  rw [reg_setReg s h, if_pos rfl]

@[simp] theorem reg_setF_off (f : Fld) (i v : Nat) (b : Blk) (j o : Nat) (ho : o % 65536 ≠ f.off % 65536) :
    (after (setF f i v) s).reg b j o = s.reg b j o := by
  simp only [setF, after_eff, reg_ap_reg s h, if_neg (regKey_ne_of_off ho)]

@[simp] theorem fld_bump_same (f : Fld) (i n : Nat) (hf : f.lo ≤ f.hi ∧ f.hi < 64) :
    (after (bump f i n) s).fld f i = min (s.fld f i + n) f.top := fld_bump s h f i n hf.1 hf.2

@[simp] theorem fld_bump_other (f g : Fld) (i j n : Nat)
    (hf : g.off % 65536 ≠ f.off % 65536 ∨ (f.lo ≤ f.hi ∧ f.hi < 64) ∧ (g.hi < f.lo ∨ f.hi < g.lo)) :
    (after (bump f i n) s).fld g j = s.fld g j := by
  rw [bump, after_withA]
  obtain ho | hb := hf
  · exact fld_set_off h f g i j _ ho
  · exact fld_set_bits h f g i j _ hb

end

/-- The effects that write no register. -/
def Eff.noReg : Eff → Bool
  | .reg .. => false
  | _ => true

theorem fld_ap_noReg {e : Eff} (he : e.noReg = true) (s : State) (g : Fld) (i : Nat) : (e.ap s).fld g i = s.fld g i := by
  cases e <;> first | rfl | cases he

/-! ## What a report leaves -/

theorem allowed_logOpen {P : State → Eff → Prop} (hP : AllowsReports P) (d : Option Nat) (cls unit part job : Nat) (h : Word32) (s : State) :
    Allowed P (logOpen d cls unit part job h s) s := by
  have hf : ∀ s n, P s (.free n) := fun s n => hP s _ trivial
  simp [logOpen, hf, allowed_logEv hP]

theorem fld_after_report {a : Act} {s : State} (hc : s.canon = true) (ha : Allowed Report (a s) s) (g : Fld) (i : Nat)
    (ho : g.off % 65536 < 0x400 ∨ 0x800 ≤ g.off % 65536) : (after a s).fld g i = s.fld g i :=
  fld_after_of_regIn hc (ha.mono (allowsReports_regIn (p := evtKey) fun _ h => h)) (not_evtKey_of_off ho)

@[simp] theorem allowsEvents_onlyFields {fs : List StateField} (h : [.regs, .nvm, .keeper, .ports, .free, .out] ⊆ fs) :
    AllowsEvents (onlyFields fs) := fun s e he hd => by
  cases e <;> simp_all [Report, List.cons_subset, Eff.noDie]

/-- What a report leaves as it was: all fields of the state but seven. -/
theorem report_frame {a : Act} {s : State} (ha : Allowed Report (a s) s) :
    after a s = State.overlay [.regs, .nvm, .keeper, .dies, .ports, .free, .out] s (after a s) :=
  after_overlay _ (ha.mono (allowsReports_onlyFields (List.Subset.refl _)))

end Sys2Proof.Machine
end

section
/-!
SUPPORT. SET and CLEAR of a slice (R373, R374, R379).
-/
namespace Sys2Proof.Machine

/-- A command that GO starts while none runs stores its fields and acts (R23). -/
theorem after_goCmd {s : State} {src : Src} {b : Blk} {i off : Nat} {busy lost : Fld} {v : Word} (act : Act)
    (ht : s.takes src b i off = true) (hv : bitsOf v 0 0 = 1) (hb : s.flag busy i = false) :
    after (goCmd src b i off busy lost v act) s = after act (after (storeRW b i off v) s) := by
  rw [after_congr (b := seqA [storeRW b i off v, act]), after_seqA_cons, after_seqA_cons, after_seqA_nil]
  have hgo : ¬ bitsOf v 0 0 = 0 := by omega
  simp only [goCmd, guardW_of_takes ht, hgo, hb, Bool.false_eq_true, if_false]

theorem storeRW_frame (b : Blk) (i off : Nat) (v : Word) (s : State) :
    after (storeRW b i off v) s = { s with regs := (after (storeRW b i off v) s).regs } :=
  after_overlay [.regs] (a := storeRW b i off v) (s := s) (by simp [storeRW])

theorem storeRW_regsBut {s : State} (hc : s.canon = true) (b : Blk) (i off : Nat) (v : Word) :
    RegsBut [regKey b i off] s (after (storeRW b i off v) s) :=
  after_regsBut hc (allowed_storeRW _ _ _ _ _ fun _ _ => List.mem_cons_self ..)

/-! ## Changes of registers alone, and of fields no slice access writes, beside an access at the slices -/

theorem butSlices_of_regsBut {L : List Nat} {s t : State} (hf : t = { s with regs := t.regs }) (hr : RegsBut L s t) : ButSlices L s t := by
  refine ⟨?_, fun w => ?_, ?_, ?_, fun d => ?_, fun k hk _ _ => hr k hk⟩ <;> rw [hf]
  exact DieSlices.refl _

/-- Fields that an access at the slices does not write can be given other contents before and after it. -/
theorem ButSlices.withSlices {L : List Nat} {s t : State} (h : ButSlices L s t) (x : SMap Slice) (y : List Nat) :
    ButSlices L { s with slices := x, aborted := y } { t with slices := x, aborted := y } := by
  obtain ⟨h1, h2, h3, h4, h5, h6⟩ := h
  exact ⟨(congrArg (fun t : State => { t with slices := x, aborted := y }) h1 :), h2, h3, h4, h5, h6⟩

/-! ## Slice checks -/

section
variable {L : List Nat} {s t : State} (h : ButSlices L s t)
include h

theorem ButSlices.num_eq : t.num = s.num := funext fun a => funext fun n => by simp only [State.num, h.bytes_eq]

theorem ButSlices.sliceAt_eq (a : Nat) : t.sliceAt a = s.sliceAt a := by simp only [State.sliceAt, h.num_eq]

end

/-! ## What an access at the slices leaves of registers that are none of theirs -/

/-- The registers an access at the slices can write. -/
def accessKey (k : Nat) : Prop := evtKey k ∨ ∃ i o, k = regKey .stk i o ∧ sliceReg i o

theorem not_accessKey {b : Blk} {i o : Nat} (ho : sliceOff (o % 65536) = false ∧ (o % 65536 < 0x400 ∨ 0x800 ≤ o % 65536)) :
    ¬ accessKey (regKey b i o) := by
  rintro (⟨n, v, hn, hv, hk⟩ | ⟨j, x, hk, hx, -⟩)
  · simp only [regKey] at hk
    omega
  · have hx' : x < 65536 := by
      simp only [sliceOff, List.contains_eq_mem, List.mem_cons, List.not_mem_nil, or_false, decide_eq_true_eq] at hx
      omega
    have hm : o % 65536 = x := by
      have := congrArg (· % 65536) hk
      simp only [regKey] at this
      omega
    rw [hm, hx] at ho
    exact Bool.noConfusion ho.1

theorem regIn_of_sliced {s : State} {e : Eff} (h : Sliced s e) : regIn accessKey s e := by
  cases e with
  | reg b i o v => exact h.imp_right fun ⟨hb, ho⟩ => ⟨i, o, by rw [hb], ho⟩
  | _ => trivial

theorem fld_sliceReads {s : State} (hc : s.canon = true) (bulk : Bool) (a n : Nat) (g : Fld) (i : Nat)
    (ho : sliceOff (g.off % 65536) = false ∧ (g.off % 65536 < 0x400 ∨ 0x800 ≤ g.off % 65536)) :
    (after (sliceReads bulk a n) s).fld g i = s.fld g i := by
  have h := after_regIn (p := accessKey) (k := regKey g.blk i g.off) hc
    (allowed_sliceReads (P := regIn accessKey) (fun _ _ => regIn_of_sliced) bulk a n s) (not_accessKey ho)
  simp only [State.fld, State.reg, h]

/-! ## SET -/

/-- A slice's checks read nothing that an access at the slices changes. -/
theorem sliceCheck_eq {s t : State} (h : ButSlices [] s t) (hf : ∀ g i, sliceOff (g.off % 65536) = false ∧ (g.off % 65536 < 0x400 ∨ 0x800 ≤ g.off % 65536) →
    t.fld g i = s.fld g i) (p a : Nat) : t.sliceCheck p a = s.sliceCheck p a := by
  have hup : ∀ n, t.linkUp n = s.linkUp n := fun n => by simp only [State.linkUp, hf F.BFP_LNK_STS_STATE n (by decide)]
  have hnc : ∀ n, t.fld F.BFP_LNK_STS_NCOORD n = s.fld F.BFP_LNK_STS_NCOORD n := fun n => hf _ n (by decide)
  have hnf : ∀ n, t.fld F.BFP_LNK_STS_NFEAT n = s.fld F.BFP_LNK_STS_NFEAT n := fun n => hf _ n (by decide)
  have hsl : ∀ q, t.slice q = s.slice q := fun q => by rw [h.frame]; rfl
  simp only [State.sliceCheck, h.sliceAt_eq, h.owns_eq, h.poisoned_eq, h.num_eq, h.bytes_eq, hup, hnc, hnf, hsl]

theorem sliceCheck_lt (s : State) (p a : Nat) : s.sliceCheck p a < 8 := by
  simp only [State.sliceCheck]
  split_ifs <;> omega

theorem leNat_lt : ∀ l : List Byte, leNat l < 2 ^ (8 * l.length)
  | [] => by decide
  | b :: l => by
    have h := leNat_lt l
    have hb := b.isLt
    rw [leNat, List.length_cons, Nat.mul_succ, pow_add]
    omega

theorem num_lt (s : State) (a n : Nat) : s.num a n < 2 ^ (8 * n) := by
  simpa [State.num, State.bytes] using leNat_lt (s.bytes a n)

theorem job_sliceAt_lt (s : State) (a : Nat) : (s.sliceAt a).job < 2 ^ 16 := num_lt s (a + 6) 2

/-- What SET leaves where a check fails. -/
def sliceRefused (p c : Nat) : Act :=
  seqA [modSlice p fun _ => Slice.zero, setF F.BFP_SLICE_STS_STATE p 3, setF F.BFP_SLICE_STS_CODE p c,
    setF F.BFP_SLICE_STS_JOB p 0, setF F.BFP_SLICE_STS_WRAP p 0, setF F.BFP_SLICE_STS_WRAP_OK p 0]

/-- What SET leaves where the checks pass. -/
def sliceTaken (p : Nat) (x : Slice) (wrap : Nat) : Act :=
  seqA [modSlice p fun _ => x, setF F.BFP_SLICE_STS_STATE p 2, setF F.BFP_SLICE_STS_CODE p 0,
    setF F.BFP_SLICE_STS_JOB p x.job, setF F.BFP_SLICE_STS_WRAP p 0, setF F.BFP_SLICE_STS_WRAP_OK p wrap,
    eff fun s => .aborted (s.aborted.filter fun j => j != x.job)]

/-- What a partition's SET and CLEAR change: its slice, its status register, and the list of jobs that stopped. -/
def OnlySlice (p : Nat) (s t : State) : Prop :=
  (∀ q, q ≠ p → t.slice q = s.slice q) ∧ RegsBut [regKey .fab p F.BFP_SLICE_STS_STATE.off] s t ∧ t = { s with regs := t.regs, slices := t.slices, aborted := t.aborted }

theorem sliceRefused_shows {s : State} (hc : s.canon = true) (p c : Nat) :
    (after (sliceRefused p c) s).slice p = Slice.zero ∧ (after (sliceRefused p c) s).fld F.BFP_SLICE_STS_STATE p = 3 ∧
      (after (sliceRefused p c) s).fld F.BFP_SLICE_STS_CODE p = c % 256 ∧ (after (sliceRefused p c) s).aborted = s.aborted ∧
      OnlySlice p s (after (sliceRefused p c) s) := by
  have hs : ∀ q, (after (sliceRefused p c) s).slice q = if q = p then Slice.zero else s.slice q := fun q => by
    simp only [sliceRefused, after_seqA_cons, after_seqA_end, setF, modSlice, after_eff, ap_reg_reads, slice_ap_slice s hc]
  refine ⟨by rw [hs, if_pos rfl], ?_, ?_, ?_, fun q hq => by rw [hs, if_neg hq], ?_, ?_⟩
  · simp (disch := repeat' (first | assumption | apply after_canon | decide)) only [sliceRefused, after_seqA_cons, after_seqA_end,
      fld_set_same, fld_set_bits]
    rfl
  · simp (disch := repeat' (first | assumption | apply after_canon | decide)) only [sliceRefused, after_seqA_cons, after_seqA_end,
      fld_set_same, fld_set_bits]
    rfl
  · simp [sliceRefused, setF, modSlice]
  · exact after_regsBut hc (by simp [sliceRefused])
  · exact after_overlay [.regs, .slices, .aborted] (a := sliceRefused p c) (by simp [sliceRefused])

theorem sliceTaken_shows {s : State} (hc : s.canon = true) (p : Nat) (x : Slice) (wrap : Nat) :
    (after (sliceTaken p x wrap) s).slice p = x ∧ (after (sliceTaken p x wrap) s).fld F.BFP_SLICE_STS_STATE p = 2 ∧
      (after (sliceTaken p x wrap) s).fld F.BFP_SLICE_STS_CODE p = 0 ∧
      (after (sliceTaken p x wrap) s).fld F.BFP_SLICE_STS_JOB p = x.job % 2 ^ 16 ∧
      x.job ∉ (after (sliceTaken p x wrap) s).aborted ∧ OnlySlice p s (after (sliceTaken p x wrap) s) := by
  have hs : ∀ q, (after (sliceTaken p x wrap) s).slice q = if q = p then x else s.slice q := fun q => by
    simp only [sliceTaken, after_seqA_cons, after_seqA_end, setF, modSlice, after_eff, ap_reg_reads, ap_aborted_reads, slice_ap_slice s hc]
  have hf : ∀ g, (after (sliceTaken p x wrap) s).fld g p = (after (seqA [modSlice p fun _ => x, setF F.BFP_SLICE_STS_STATE p 2,
      setF F.BFP_SLICE_STS_CODE p 0, setF F.BFP_SLICE_STS_JOB p x.job, setF F.BFP_SLICE_STS_WRAP p 0,
      setF F.BFP_SLICE_STS_WRAP_OK p wrap]) s).fld g p := fun g => by
    simp only [sliceTaken, after_seqA_cons, after_seqA_end, after_eff]
    exact fld_ap_noReg rfl _ _ _
  refine ⟨by rw [hs, if_pos rfl], ?_, ?_, ?_, ?_, fun q hq => by rw [hs, if_neg hq], ?_, ?_⟩
  · simp (disch := repeat' (first | assumption | apply after_canon | decide)) only [hf, after_seqA_cons, after_seqA_end,
      fld_set_same, fld_set_bits]
    rfl
  · simp (disch := repeat' (first | assumption | apply after_canon | decide)) only [hf, after_seqA_cons, after_seqA_end,
      fld_set_same, fld_set_bits]
    rfl
  · simp (disch := repeat' (first | assumption | apply after_canon | decide)) only [hf, after_seqA_cons, after_seqA_end,
      fld_set_same, fld_set_bits]
  · simp [sliceTaken]
  · exact after_regsBut hc (by simp [sliceTaken])
  · exact after_overlay [.regs, .slices, .aborted] (a := sliceTaken p x wrap) (by simp [sliceTaken])

theorem OnlySlice.butSlices {L : List Nat} {p : Nat} {s w t : State} (ho : OnlySlice p w t) (hb : ButSlices L s w)
    (hk : regKey .fab p F.BFP_SLICE_STS_STATE.off ∈ L) : ButSlices L { s with slices := t.slices, aborted := t.aborted } t := by
  obtain ⟨-, hr, hf⟩ := ho
  refine (composes_slices L).trans _ _ _ (hb.withSlices t.slices t.aborted) (butSlices_of_regsBut hf fun k hm => hr k fun h => hm ?_)
  rw [List.mem_singleton.1 h]
  exact hk

/-- SET judges the descriptor once it has been read. -/
def sliceJudge (p a : Nat) : Act := fun s =>
  if s.sliceCheck p a ≠ 0 then sliceRefused p (s.sliceCheck p a) s else sliceTaken p (s.sliceAt a) (s.wrapBits (s.sliceAt a)) s

theorem after_sliceSet {w : State} {p a : Nat} (ha : w.fld F.BFP_SLICE_ADDR_ADDR p * 64 = a) (hh : (w.heldE a 64).isEmpty = true) :
    after (sliceSet p) w = after (sliceJudge p a) (if w.owns p a 64 = true then after (sliceReads true a 64) w else w) := by
  have h : sliceSet p w = ownedRead p a 64 (sliceJudge p a) w := by
    simp only [sliceSet, ha]
    rfl
  rw [after_congr h, ownedRead, after_iteA]
  split
  · rw [after_unitRead hh]
  · rfl

/-- What SET's reading of the descriptor leaves. -/
theorem descriptorRead {w u : State} (hc : w.canon = true) {p a : Nat} (hu : u = if w.owns p a 64 = true then after (sliceReads true a 64) w else w) :
    u.canon = true ∧ ButSlices [] w u ∧ u.sliceCheck p a = w.sliceCheck p a ∧ u.sliceAt a = w.sliceAt a := by
  by_cases ho : w.owns p a 64 = true
  · obtain rfl : u = after (sliceReads true a 64) w := by rw [hu, if_pos ho]
    have hb := butSlices_sliceReads hc true a 64
    exact ⟨after_canon _ w hc, hb, sliceCheck_eq hb (fun g i h => fld_sliceReads hc true a 64 g i h) p a, hb.sliceAt_eq a⟩
  · obtain rfl : u = w := by rw [hu, if_neg ho]
    exact ⟨hc, (composes_slices []).refl u, rfl, rfl⟩

/-! ## CLEAR -/

/-- What CLEAR leaves where no image of the job is loaded. -/
def sliceWiped (p : Nat) (u : State) : Act :=
  seqA [barAbandon p, modSlice p fun _ => Slice.zero, setReg .fab p 0x8030 (u.reg .fab p 0x8030 &&& 2)]

theorem allowed_onDies {P : State → Eff → Prop} (p : Nat) (f : Nat → Act) (s : State) (h : ∀ d s, Allowed P (f d s) s) :
    Allowed P (onDies p f s) s := (allowed_withA _ _ s).2 (allowed_forA _ _ s fun d _ s => h d s)

/-- The end of a barrier writes its partition's BFP registers, its slice, and its dies (R401). -/
theorem allowed_barEnd {P : State → Eff → Prop} {p : Nat} (hreg : ∀ s o v, P s (.reg .fab p o v)) (hs : ∀ s x, P s (.slice p x))
    (hd : ∀ s d x, P s (.die d x)) (st code : Nat) (late : Bool) (rel : Option Word) (s : State) :
    Allowed P (barEnd p st code late rel s) s := by
  have hdies : ∀ (f : Die → Die) s, Allowed P (onDies p (fun d => modDie d f) s) s := fun f s =>
    allowed_onDies p _ s fun d s => (allowed_modDie s d f).2 (hd _ _ _)
  simp [barEnd, hreg, hs, hdies]

theorem allowed_barAbandon {P : State → Eff → Prop} {p : Nat} (hreg : ∀ s o v, P s (.reg .fab p o v)) (hs : ∀ s x, P s (.slice p x))
    (hd : ∀ s d x, P s (.die d x)) (s : State) : Allowed P (barAbandon p s) s :=
  (allowed_whenA _ _ s).2 fun _ => allowed_barEnd hreg hs hd _ _ _ _ s

theorem bitsOf_and_two (w : Word) (hi : Nat) : bitsOf (w &&& 2) hi 4 = 0 := by
  have h : (w &&& 2).toNat ≤ 2 := by
    rw [BitVec.toNat_and]
    exact Nat.and_le_right
  rw [bitsOf, Nat.shiftRight_eq_div_pow, Nat.div_eq_of_lt (by omega), Nat.zero_mod]

theorem sliceWiped_shows {u : State} (hc : u.canon = true) (p : Nat) :
    (after (sliceWiped p u) u).slice p = Slice.zero ∧ (after (sliceWiped p u) u).fld F.BFP_SLICE_STS_STATE p = 0 ∧
      (∀ q, q ≠ p → (after (sliceWiped p u) u).slice q = u.slice q) ∧
      after (sliceWiped p u) u = { u with regs := (after (sliceWiped p u) u).regs, slices := (after (sliceWiped p u) u).slices
                                          dies := (after (sliceWiped p u) u).dies } := by
  obtain ⟨x, hx⟩ : ∃ x, x = after (barAbandon p) u := ⟨_, rfl⟩
  have hcx : x.canon = true := hx ▸ after_canon _ u hc
  have hbar : ∀ q, q ≠ p → x.slice q = u.slice q := fun q hq => by
    have h := after_sliceRel (R := keepBut [p]) (keepBut_refl [p]) (keepBut_trans [p]) (a := barAbandon p) (s := u) hc
      (allowed_barAbandon (fun _ _ _ => trivial) (fun _ _ => .inl (List.mem_singleton.2 rfl)) (fun _ _ _ => trivial) u) q
    exact hx ▸ h.resolve_left (by simpa using hq)
  have hs : ∀ q, (after (sliceWiped p u) u).slice q = if q = p then Slice.zero else x.slice q := fun q => by
    simp only [sliceWiped, after_seqA_cons, after_seqA_end, setReg, modSlice, after_eff, ap_reg_reads, ← hx, slice_ap_slice x hcx]
  refine ⟨by rw [hs, if_pos rfl], ?_, fun q hq => by rw [hs, if_neg hq, hbar q hq], ?_⟩
  · simp (disch := repeat' (first | assumption | apply after_canon | decide)) only [sliceWiped, after_seqA_cons, after_seqA_end, fld_setReg_same]
    exact bitsOf_and_two _ _
  · refine after_overlay [.regs, .slices, .dies] (a := sliceWiped p u) ?_
    have hb := allowed_barAbandon (P := onlyFields [.regs, .slices, .dies]) (p := p) (fun _ _ _ => by simp) (fun _ _ => by simp) (fun _ _ _ => by simp) u
    simp [sliceWiped, hb]

section
variable {s : State} {src : Src} {v : Word} (hc : s.canon = true) {p : Nat} (hp : p = s.bank src .fab) {u : State}
  (hu : u = after (storeRW .fab p 0x8028 v) s) (ht : s.takes src .fab p 0x8028 = true) (hv : bitsOf v 0 0 = 1)
  (hb : s.flag F.BFP_SLICE_STS_BUSY p = false)
include hc hp hu ht hv hb

omit hc in
theorem exec_sliceSet (hop : bitsOf v 3 1 = 1) : exec (.sliceSet src v) s = .next (after (sliceSet p) u) := by
  subst hp
  have h : hostSliceSet src v s = goCmd src .fab (s.bank src .fab) 0x8028 F.BFP_SLICE_STS_BUSY F.BFP_SLICE_STS_LOST v (sliceSet (s.bank src .fab)) s := by
    simp only [hostSliceSet, sliceCmd, hop, if_true]
  exact congrArg Host.Outcome.next ((after_congr (a := hostSliceSet src v) h).trans ((after_goCmd _ ht hv hb).trans (by rw [hu])))

theorem sliceSet_acts (hop : bitsOf v 3 1 = 1) {a : Nat} (ha : a = u.fld F.BFP_SLICE_ADDR_ADDR p * 64) (hh : (u.heldE a 64).isEmpty = true) :
    ∃ t, exec (.sliceSet src v) s = .next t ∧
      (u.sliceCheck p a ≠ 0 → t.slice p = Slice.zero ∧ t.fld F.BFP_SLICE_STS_STATE p = 3 ∧
        t.fld F.BFP_SLICE_STS_CODE p = u.sliceCheck p a ∧ t.aborted = s.aborted) ∧
      (u.sliceCheck p a = 0 → t.slice p = u.sliceAt a ∧ t.fld F.BFP_SLICE_STS_STATE p = 2 ∧ t.fld F.BFP_SLICE_STS_CODE p = 0 ∧
        t.fld F.BFP_SLICE_STS_JOB p = (u.sliceAt a).job ∧ (u.sliceAt a).job ∉ t.aborted) ∧
      (∀ q, q ≠ p → t.slice q = s.slice q) ∧
      ButSlices [regKey .fab p 0x8028, regKey .fab p F.BFP_SLICE_STS_STATE.off] { s with slices := t.slices, aborted := t.aborted } t := by
  obtain ⟨w, hw⟩ : ∃ w, w = if u.owns p a 64 = true then after (sliceReads true a 64) u else u := ⟨_, rfl⟩
  have hcu : u.canon = true := hu ▸ after_canon _ s hc
  have hfu : u = { s with regs := u.regs } := hu ▸ storeRW_frame _ _ _ _ _
  have hbu : ButSlices [regKey .fab p 0x8028, regKey .fab p F.BFP_SLICE_STS_STATE.off] s u :=
    butSlices_of_regsBut hfu fun k hk => (hu ▸ storeRW_regsBut hc .fab p 0x8028 v : RegsBut _ s u) k fun h => hk (List.mem_cons.2 (.inl (List.mem_singleton.1 h)))
  obtain ⟨hcw, hbw, hcheck, hat⟩ := descriptorRead hcu hw
  have hbsw := (composes_slices _).trans _ _ _ hbu (hbw.mono (List.nil_subset _))
  have hslice : ∀ q, w.slice q = s.slice q := fun q => by rw [hbsw.frame]; rfl
  have habort : w.aborted = s.aborted := by rw [hbsw.frame]; rfl
  have hkey : regKey .fab p F.BFP_SLICE_STS_STATE.off ∈ [regKey .fab p 0x8028, regKey .fab p F.BFP_SLICE_STS_STATE.off] :=
    List.mem_cons_of_mem _ (List.mem_cons_self ..)
  rw [exec_sliceSet hp hu ht hv hb hop, after_sliceSet ha.symm hh, ← hw]
  by_cases hk : u.sliceCheck p a = 0
  · have hjudge : after (sliceJudge p a) w = after (sliceTaken p (u.sliceAt a) (w.wrapBits (u.sliceAt a))) w :=
      after_congr (by simp only [sliceJudge, hcheck, hk, hat, ne_eq, not_true_eq_false, if_false])
    obtain ⟨h1, h2, h3, h4, h5, h6⟩ := sliceTaken_shows hcw p (u.sliceAt a) (w.wrapBits (u.sliceAt a))
    rw [← hjudge] at h1 h2 h3 h4 h5 h6
    exact ⟨_, rfl, fun h => absurd hk h, fun _ => ⟨h1, h2, h3, h4.trans (Nat.mod_eq_of_lt (job_sliceAt_lt u a)), h5⟩,
      fun q hq => (h6.1 q hq).trans (hslice q), h6.butSlices hbsw hkey⟩
  · have hjudge : after (sliceJudge p a) w = after (sliceRefused p (u.sliceCheck p a)) w :=
      after_congr (by simp only [sliceJudge, hcheck, hk, ne_eq, not_false_eq_true, if_true])
    obtain ⟨h1, h2, h3, h4, h5⟩ := sliceRefused_shows hcw p (u.sliceCheck p a)
    rw [← hjudge] at h1 h2 h3 h4 h5
    have hlt := sliceCheck_lt u p a
    exact ⟨_, rfl, fun _ => ⟨h1, h2, h3.trans (Nat.mod_eq_of_lt (by omega)), h4.trans habort⟩, fun h => absurd h hk,
      fun q hq => (h5.1 q hq).trans (hslice q), h5.butSlices hbsw hkey⟩

omit hc in
theorem exec_sliceClear (hop : bitsOf v 3 1 = 2) : exec (.sliceClear src v) s = .next (after (sliceClear p) u) := by
  subst hp
  have h : hostSliceClear src v s = goCmd src .fab (s.bank src .fab) 0x8028 F.BFP_SLICE_STS_BUSY F.BFP_SLICE_STS_LOST v (sliceClear (s.bank src .fab)) s := by
    simp [hostSliceClear, sliceCmd, hop]
  exact congrArg Host.Outcome.next ((after_congr (a := hostSliceClear src v) h).trans ((after_goCmd _ ht hv hb).trans (by rw [hu])))

theorem sliceClear_acts (hop : bitsOf v 3 1 = 2) : ∃ t, exec (.sliceClear src v) s = .next t ∧
    (¬ ((s.job p).live = true ∧ (s.job p).job = (s.slice p).job ∧ (s.slice p).set = true) → t.slice p = Slice.zero ∧
      t.fld F.BFP_SLICE_STS_STATE p = 0) ∧
    ((s.job p).live = true ∧ (s.job p).job = (s.slice p).job ∧ (s.slice p).set = true → t.slice p = s.slice p ∧
      t.fld F.BFP_SLICE_STS_CODE p = 8) ∧
    (∀ q, q ≠ p → t.slice q = s.slice q) ∧ t = { s with regs := t.regs, slices := t.slices, dies := t.dies } := by
  have hcu : u.canon = true := hu ▸ after_canon _ s hc
  have hfu : u = { s with regs := u.regs } := hu ▸ storeRW_frame _ _ _ _ _
  have hslice : ∀ q, u.slice q = s.slice q := fun q => by rw [hfu]; rfl
  have hjob : u.job p = s.job p := by rw [hfu]; rfl
  rw [exec_sliceClear hp hu ht hv hb hop]
  by_cases hl : (s.job p).live = true ∧ (s.job p).job = (s.slice p).job ∧ (s.slice p).set = true
  · have hact : after (sliceClear p) u = after (setF F.BFP_SLICE_STS_CODE p 8) u :=
      after_congr (by simp only [sliceClear, hslice, hjob, hl, and_self, if_true])
    have hf : after (setF F.BFP_SLICE_STS_CODE p 8) u = { u with regs := (after (setF F.BFP_SLICE_STS_CODE p 8) u).regs } :=
      after_overlay [.regs] (a := setF F.BFP_SLICE_STS_CODE p 8) (by simp)
    rw [hact]
    refine ⟨_, rfl, fun h => absurd hl h, fun _ => ⟨?_, fld_set_same hcu _ _ _ (by decide)⟩, fun q _ => ?_, ?_⟩
    · rw [hf]
      exact hslice p
    · rw [hf]
      exact hslice q
    · rw [hf, hfu]
  · have hact : after (sliceClear p) u = after (sliceWiped p u) u :=
      after_congr (by simp only [sliceClear, hslice, hjob, hl, if_false, sliceWiped])
    obtain ⟨h1, h2, h3, h4⟩ := sliceWiped_shows hcu p
    rw [hact]
    exact ⟨_, rfl, fun _ => ⟨h1, h2⟩, fun h => absurd h hl, fun q hq => (h3 q hq).trans (hslice q), by rw [h4, hfu]⟩

end

end Sys2Proof.Machine

open Sys2Proof Sys2Proof.Machine

/-- Settles O42: SET reads the descriptor at the slices and judges it; CLEAR abandons a barrier and clears the slice. -/
theorem slices : Obligations.Slices := by
  unfold Obligations.Slices
  intro s src v hc
  exact fun ht hv hb => ⟨fun hop hh => sliceSet_acts hc rfl rfl ht hv hb hop rfl hh, fun hop => sliceClear_acts hc rfl rfl ht hv hb hop⟩
end

section
/-!
SUPPORT. SYNC exchanges, the loss of a parent and of LOCK, and the service ports (R380–R384).
-/
namespace Sys2Proof.Machine

/-! ## Sorting by a key -/

theorem insKey_perm {α : Type} (key : α → Nat × Nat × Nat × Nat) (x : α) : ∀ r : List α, (insKey key x r).Perm (x :: r)
  | [] => .refl _
  | y :: r => by
    rw [insKey]
    split
    · exact ((insKey_perm key x r).cons y).trans (.swap x y r)
    · exact .refl _

/-- A list sorted by a key has the same members. -/
theorem sortKey_perm {α : Type} (key : α → Nat × Nat × Nat × Nat) (l : List α) : (sortKey key l).Perm l := by
  have h : ∀ (l r : List α), (l.foldl (fun r x => insKey key x r) r).Perm (l ++ r) := by
    intro l
    induction l with
    | nil => exact fun r => .refl _
    | cons x l ih => exact fun r => (ih _).trans (((insKey_perm key x r).append_left l).trans List.perm_middle)
  have hl := h l []
  rwa [List.append_nil] at hl

theorem bestParent_lt {s : State} {l : List Nat} {q : Nat} (h : s.bestParent l = some q) : q < 12 := by
  have hm := (sortKey_perm _ _).mem_iff.1 (List.mem_of_mem_head? (Option.mem_def.2 h))
  exact List.mem_range.1 (List.mem_filter.1 hm).1

/-! ## SYNC (R381) -/

/-- The offset of an exchange with the parent: what it leaves. -/
def syncParent (t1 t2 t3 t4 : Int) (depth : BitVec 8) : Act := fun s =>
  let th := ((t2 - t1) - (t4 - t3)) / 2
  let l := ((s.milestone.thetas ++ [th]).reverse.take 16).reverse
  let f := roundDiv l.sum l.length
  let g := if f.natAbs < 32 then s.milestone.good + 1 else 0
  let step := f / 16
  seqA [draw, modMile fun m => { m with
      thetas := l, good := g, everLocked := m.everLocked || decide (16 ≤ g)
      slew := if m.everLocked then step else min step 0 },
    whenA (fun s => !s.milestone.everLocked && decide (0 < step)) (eff fun s => .mile (s.mile + BitVec.ofInt 64 step)),
    setF F.MSC_STS_DEPTH 0 (min 255 (depth.toNat + 1)), setF F.MSC_STS_OFFSET 0 (tc 16 (clampI f (-32768) 32767)),
    setF F.MSC_STS_RATE 0 (Config.freeNat s.free), setF F.MSC_STS_HOLD 0 0,
    whenA (fun _ => decide (16 ≤ g)) (setF F.MSC_STS_LOCK 0 1)] s

theorem setParent_shows {s : State} (hc : s.canon = true) (q : Nat) : (after (setParent q) s).fld F.MSC_STS_PARENT 0 = q % 16 ∧
    (∀ g : Fld, g.off = 0x110 → g.hi < 52 ∨ 55 < g.lo → (after (setParent q) s).fld g 0 = s.fld g 0) ∧
    after (setParent q) s = { s with regs := (after (setParent q) s).regs } := by
  have h : after (setParent q) s = after (seqA [setF F.MSC_STS_PARENT 0 q,
      whenA (fun _ => s.fld F.MSC_STS_PARENT 0 != q && s.fld F.MSC_STS_PARENT 0 != 15) (bump F.MSC_EVT_REPARENT 0 1)]) s := rfl
  refine ⟨?_, fun g ho hb => ?_, after_overlay [.regs] (a := setParent q) (by simp [setParent])⟩
  · simp only [h, after_seqA_cons, after_seqA_end, after_whenA]
    split <;> simp (disch := repeat' (first | assumption | apply after_canon | decide)) only [fld_set_same, fld_bump_other] <;> rfl
  · have hoff : g.off % 65536 ≠ F.MSC_EVT_REPARENT.off % 65536 := by rw [ho]; decide
    have hbits : (F.MSC_STS_PARENT.lo ≤ F.MSC_STS_PARENT.hi ∧ F.MSC_STS_PARENT.hi < 64) ∧ (g.hi < F.MSC_STS_PARENT.lo ∨ F.MSC_STS_PARENT.hi < g.lo) :=
      ⟨by decide, hb⟩
    have hset := fld_set_bits hc F.MSC_STS_PARENT g 0 0 q hbits
    simp only [h, after_seqA_cons, after_seqA_end, after_whenA]
    split
    · rw [fld_bump_other (after_canon _ s hc) _ _ _ _ _ (.inl hoff), hset]
    · exact hset

theorem syncParent_shows {s : State} (hc : s.canon = true) (t1 t2 t3 t4 : Int) (depth : BitVec 8) {t : State}
    (ht : t = after (syncParent t1 t2 t3 t4 depth) s) :
    t.milestone.thetas = ((s.milestone.thetas ++ [((t2 - t1) - (t4 - t3)) / 2]).reverse.take 16).reverse ∧
      t.milestone.depths = s.milestone.depths ∧ t.fld F.MSC_STS_PARENT 0 = s.fld F.MSC_STS_PARENT 0 ∧
      t.fld F.MSC_STS_DEPTH 0 = min 255 (depth.toNat + 1) ∧ t.fld F.MSC_STS_HOLD 0 = 0 ∧
      (s.milestone.everLocked = true → t.mile = s.mile) ∧
      t = { s with regs := t.regs, milestone := t.milestone, mile := t.mile, free := t.free } := by
  obtain ⟨l, hl⟩ : ∃ l, l = ((s.milestone.thetas ++ [((t2 - t1) - (t4 - t3)) / 2]).reverse.take 16).reverse := ⟨_, rfl⟩
  obtain ⟨f, hf⟩ : ∃ f, f = roundDiv l.sum l.length := ⟨_, rfl⟩
  obtain ⟨g, hg⟩ : ∃ g, g = if f.natAbs < 32 then s.milestone.good + 1 else 0 := ⟨_, rfl⟩
  obtain ⟨k, hk⟩ : ∃ k : Mile → Mile, k = fun m => { m with
      thetas := l, good := g, everLocked := m.everLocked || decide (16 ≤ g), slew := if m.everLocked then f / 16 else min (f / 16) 0 } := ⟨_, rfl⟩
  obtain ⟨x, hx⟩ : ∃ x, x = after (seqA [draw, modMile k,
      whenA (fun s => !s.milestone.everLocked && decide (0 < f / 16)) (eff fun s => .mile (s.mile + BitVec.ofInt 64 (f / 16)))]) s := ⟨_, rfl⟩
  obtain ⟨y, hy⟩ : ∃ y, y = after (seqA [setF F.MSC_STS_DEPTH 0 (min 255 (depth.toNat + 1)),
      setF F.MSC_STS_OFFSET 0 (tc 16 (clampI f (-32768) 32767)), setF F.MSC_STS_RATE 0 (Config.freeNat s.free), setF F.MSC_STS_HOLD 0 0]) x :=
    ⟨_, rfl⟩
  have hacts : t = after (whenA (fun _ => decide (16 ≤ g)) (setF F.MSC_STS_LOCK 0 1)) y := by
    have h : syncParent t1 t2 t3 t4 depth s = seqA [draw, modMile k,
        whenA (fun s => !s.milestone.everLocked && decide (0 < f / 16)) (eff fun s => .mile (s.mile + BitVec.ofInt 64 (f / 16))),
        setF F.MSC_STS_DEPTH 0 (min 255 (depth.toNat + 1)), setF F.MSC_STS_OFFSET 0 (tc 16 (clampI f (-32768) 32767)),
        setF F.MSC_STS_RATE 0 (Config.freeNat s.free), setF F.MSC_STS_HOLD 0 0,
        whenA (fun _ => decide (16 ≤ g)) (setF F.MSC_STS_LOCK 0 1)] s := by
      simp only [syncParent, ← hl, ← hf, ← hg, ← hk]
    rw [ht, after_congr h, hy, hx]
    simp only [after_seqA_cons, after_seqA_end]
  have hcx : x.canon = true := hx ▸ after_canon _ s hc
  have hcy : y.canon = true := hy ▸ after_canon _ x hcx
  obtain ⟨v, hv⟩ : ∃ v, v = after (modMile k) (after draw s) := ⟨_, rfl⟩
  have hxv : x = after (whenA (fun s => !s.milestone.everLocked && decide (0 < f / 16)) (eff fun s => .mile (s.mile + BitVec.ofInt 64 (f / 16)))) v := by
    rw [hx, hv, after_seqA_cons, after_seqA_cons, after_seqA_cons, after_seqA_end]
  have hmv : v.milestone = k s.milestone := by rw [hv]; rfl
  have hmx : x.milestone = k s.milestone := by
    rw [← hmv, hxv]
    exact after_read_eq (fun s => s.milestone) (fs := [.mile]) (by simp) fun _ => rfl
  have hfx : ∀ h j, x.fld h j = s.fld h j := fun h j => hx ▸ after_read_eq (fun s => s.fld h j) (fs := [.mile, .milestone, .free]) (by simp) fun _ => rfl
  have hmile : s.milestone.everLocked = true → x.mile = s.mile := fun he => by
    have hel : (k s.milestone).everLocked = true := by rw [hk]; simp [he]
    rw [hxv, after_whenA, hmv, hel, if_neg (by simp), hv]
    rfl
  have hyov : y = { x with regs := y.regs } := hy ▸ after_overlay [.regs] (a := seqA [setF F.MSC_STS_DEPTH 0 (min 255 (depth.toNat + 1)),
      setF F.MSC_STS_OFFSET 0 (tc 16 (clampI f (-32768) 32767)), setF F.MSC_STS_RATE 0 (Config.freeNat s.free), setF F.MSC_STS_HOLD 0 0]) (by simp)
  have htov : t = { y with regs := t.regs } := hacts ▸ after_overlay [.regs] (a := whenA (fun _ => decide (16 ≤ g)) (setF F.MSC_STS_LOCK 0 1)) (by simp)
  have hxov : x = { s with milestone := x.milestone, mile := x.mile, free := x.free } := hx ▸ after_overlay [.milestone, .mile, .free]
    (a := seqA [draw, modMile k, whenA (fun s => !s.milestone.everLocked && decide (0 < f / 16)) (eff fun s => .mile (s.mile + BitVec.ofInt 64 (f / 16)))]) (by simp)
  have hmt : t.milestone = k s.milestone := by rw [htov, hyov]; exact hmx
  have hlock : ∀ h : Fld, h.hi < 63 → t.fld h 0 = y.fld h 0 := fun h hb => by
    rw [hacts, after_whenA]
    split
    · exact fld_set_bits hcy _ _ _ _ _ ⟨by decide, .inl hb⟩
    · rfl
  refine ⟨by rw [hmt, hk, hl], by rw [hmt, hk], ?_, ?_, ?_, fun he => ?_, ?_⟩
  · rw [hlock _ (by decide), hy, ← hfx]
    simp (disch := repeat' (first | assumption | apply after_canon | decide)) only [after_seqA_cons, after_seqA_end, fld_set_bits]
  · rw [hlock _ (by decide), hy]
    simp (disch := repeat' (first | assumption | apply after_canon | decide)) only [after_seqA_cons, after_seqA_end, fld_set_same, fld_set_bits]
    exact Nat.mod_eq_of_lt (by change _ < 256; omega)
  · rw [hlock _ (by decide), hy]
    simp (disch := repeat' (first | assumption | apply after_canon | decide)) only [after_seqA_cons, after_seqA_end, fld_set_same]
    rfl
  · rw [htov, hyov]
    exact hmile he
  · rw [htov, hyov, hxov]

section
variable {s : State} (hc : s.canon = true) {n : Fin 12} (t1 t2 t3 t4 : Int) {depth : BitVec 8} (hr : s.flag F.MSC_CFG_ROOT 0 = false)
  (hl : s.linkUp n.val = true) {ds : List Nat} (hds : ds = s.milestone.depths.set n.val depth.toNat)
include hc hr hl hds

omit hc in
theorem exec_milestoneSync {q : Nat} (hq : s.bestParent ds = some q) (b : Act) (hb : b = if q ≠ n.val then skip else syncParent t1 t2 t3 t4 depth) :
    exec (.milestoneSync n t1 t2 t3 t4 depth) s = .next (after b (after (setParent q) (after (modMile fun m => { m with depths := ds }) s))) := by
  have hcond : ¬ (s.flag F.MSC_CFG_ROOT 0 = true ∨ s.linkUp n.val = false) := by simp [hr, hl]
  simp only [exec, execMilestoneSync, runAct_eq, hcond, if_false, ← hds, hq, apAll_seqA_cons, apAll_seqA_nil, hb]
  split <;> rfl

/-- An exchange with a neighbour that is not the parent notes its depth; the parent may change. -/
theorem milestoneSync_other {q : Nat} (hq : s.bestParent ds = some q) (hn : q ≠ n.val) : ∃ t, exec (.milestoneSync n t1 t2 t3 t4 depth) s = .next t ∧
    t.milestone = { s.milestone with depths := ds } ∧ t.fld F.MSC_STS_PARENT 0 = q % 16 ∧ t.mile = s.mile ∧
    t = { s with regs := t.regs, milestone := t.milestone } := by
  obtain ⟨u, hu⟩ : ∃ u, u = after (modMile fun m => { m with depths := ds }) s := ⟨_, rfl⟩
  obtain ⟨h1, -, h3⟩ := setParent_shows (hu ▸ after_canon _ s hc : u.canon = true) q
  refine ⟨_, (exec_milestoneSync t1 t2 t3 t4 hr hl hds hq skip (by rw [if_pos hn])).trans (congrArg _ (after_skipped _)), ?_⟩
  rw [← hu]
  refine ⟨?_, h1, ?_, ?_⟩ <;> rw [h3, hu] <;> rfl

/-- An exchange with the parent gives an offset. -/
theorem milestoneSync_parent (hq : s.bestParent ds = some n.val) : ∃ t, exec (.milestoneSync n t1 t2 t3 t4 depth) s = .next t ∧
    t.milestone.thetas = ((s.milestone.thetas ++ [((t2 - t1) - (t4 - t3)) / 2]).reverse.take 16).reverse ∧
    t.milestone.depths = ds ∧ t.fld F.MSC_STS_PARENT 0 = n.val ∧ t.fld F.MSC_STS_DEPTH 0 = min 255 (depth.toNat + 1) ∧
    t.fld F.MSC_STS_HOLD 0 = 0 ∧ (s.milestone.everLocked = true → t.mile = s.mile) ∧
    t = { s with regs := t.regs, milestone := t.milestone, mile := t.mile, free := t.free } := by
  obtain ⟨u, hu⟩ : ∃ u, u = after (modMile fun m => { m with depths := ds }) s := ⟨_, rfl⟩
  obtain ⟨v, hv⟩ : ∃ v, v = after (setParent n.val) u := ⟨_, rfl⟩
  have hcu : u.canon = true := hu ▸ after_canon _ s hc
  obtain ⟨h1, -, h3⟩ := setParent_shows hcu n.val
  rw [← hv] at h1 h3
  obtain ⟨k1, k2, k3, k4, k5, k6, k7⟩ := syncParent_shows (hv ▸ after_canon _ u hcu : v.canon = true) t1 t2 t3 t4 depth rfl
  have hm : v.milestone = { s.milestone with depths := ds } := by rw [h3, hu]; rfl
  have hmile : v.mile = s.mile := by rw [h3, hu]; rfl
  refine ⟨_, (exec_milestoneSync t1 t2 t3 t4 hr hl hds hq (syncParent t1 t2 t3 t4 depth) (by rw [if_neg (by simp)])).trans (by rw [← hu, ← hv]),
    ?_, ?_, ?_, k4, k5, fun he => ?_, ?_⟩
  · rw [k1, hm]
  · rw [k2, hm]
  · rw [k3, h1]
    exact Nat.mod_eq_of_lt (by omega)
  · rw [k6 (by rw [hm]; exact he), hmile]
  · rw [k7, h3, hu]
    rfl

end

/-! ## A parent lost, LOCK lost, a service port (R382–R384) -/

section
variable {s : State} (hc : s.canon = true)
include hc

theorem parentLost_shows (hr : s.flag F.MSC_CFG_ROOT 0 = false) (hp : s.fld F.MSC_STS_PARENT 0 ≠ 15) {ds : List Nat}
    (hds : ds = s.milestone.depths.set (s.fld F.MSC_STS_PARENT 0) 255) : ∃ t, exec .parentLost s = .next t ∧
    t.milestone = { s.milestone with depths := ds, good := 0, lostAt := s.mile } ∧ t.fld F.MSC_STS_HOLD 0 = 1 ∧
    t.fld F.MSC_STS_PARENT 0 = (s.bestParent ds).getD 15 % 16 ∧ t = { s with regs := t.regs, milestone := t.milestone } := by
  obtain ⟨u, hu⟩ : ∃ u, u = after (setF F.MSC_STS_HOLD 0 1) (after (modMile fun m => { m with depths := ds, good := 0, lostAt := s.mile }) s) := ⟨_, rfl⟩
  obtain ⟨b, hb⟩ : ∃ b, b = match s.bestParent ds with | some q => setParent q | none => setF F.MSC_STS_PARENT 0 15 := ⟨_, rfl⟩
  have hcu : u.canon = true := hu ▸ after_canon _ _ (after_canon _ s hc)
  have hexec : exec .parentLost s = .next (after b u) := by
    have hcond : ¬ (s.flag F.MSC_CFG_ROOT 0 = true ∨ s.fld F.MSC_STS_PARENT 0 = 15) := by simp [hr, hp]
    simp only [exec, execParentLost, runAct_eq, hcond, if_false, ← hds, apAll_seqA_cons, apAll_seqA_nil, hu, hb] <;> rfl
  have hhold : u.fld F.MSC_STS_HOLD 0 = 1 := hu ▸ fld_set_same (after_canon _ s hc) F.MSC_STS_HOLD 0 1 (by decide)
  have hov : u = { s with regs := u.regs, milestone := u.milestone } := hu ▸ rfl
  have hm : u.milestone = { s.milestone with depths := ds, good := 0, lostAt := s.mile } := by rw [hu]; rfl
  have hbs : (after b u).fld F.MSC_STS_PARENT 0 = (s.bestParent ds).getD 15 % 16 ∧ (after b u).fld F.MSC_STS_HOLD 0 = u.fld F.MSC_STS_HOLD 0 ∧
      after b u = { u with regs := (after b u).regs } := by
    rw [hb]
    cases s.bestParent ds with
    | some q =>
      obtain ⟨h1, h2, h3⟩ := setParent_shows hcu q
      exact ⟨h1, h2 _ rfl (.inr (by decide)), h3⟩
    | none =>
      exact ⟨fld_set_same hcu _ _ _ (by decide), fld_set_bits hcu _ _ _ _ _ (by decide), rfl⟩
  obtain ⟨h1, h2, h3⟩ := hbs
  refine ⟨_, hexec, ?_, h2.trans hhold, h1, ?_⟩
  · rw [h3]
    exact hm
  · rw [h3, hov]

theorem lockLoss_shows (hh : s.flag F.MSC_STS_HOLD 0 = true) (hp : s.fld F.MSC_STS_PARENT 0 = 15) (hl : s.flag F.MSC_STS_LOCK 0 = true)
    (hm : 10000000 ≤ (s.mile - s.milestone.lostAt).toNat) : ∃ t, exec .lockLoss s = .next t ∧ t.flag F.MSC_STS_LOCK 0 = false ∧
    t.milestone = { s.milestone with good := 0 } ∧
    t.fld F.MSC_EVT_LOCKLOSS 0 = min (s.fld F.MSC_EVT_LOCKLOSS 0 + 1) F.MSC_EVT_LOCKLOSS.top ∧ t.cells = s.cells := by
  obtain ⟨u, hu⟩ : ∃ u, u = after (bump F.MSC_EVT_LOCKLOSS 0 1) (after (modMile fun m => { m with good := 0 }) (after (setF F.MSC_STS_LOCK 0 0) s)) :=
    ⟨_, rfl⟩
  have hcu : u.canon = true := hu ▸ after_canon _ _ (after_canon _ _ (after_canon _ s hc))
  have hexec : exec .lockLoss s = .next (after (logOpen none 5 noUnit 0x3F 0 0) u) := by
    have hcond : s.flag F.MSC_STS_HOLD 0 = true ∧ s.fld F.MSC_STS_PARENT 0 = 15 ∧ s.flag F.MSC_STS_LOCK 0 = true ∧
        10000000 ≤ (s.mile - s.milestone.lostAt).toNat := ⟨hh, hp, hl, hm⟩
    simp only [exec, execLockLoss, runAct_eq, hcond, and_self, if_true, apAll_seqA_cons, apAll_seqA_nil, hu]
  have hlog := allowed_logOpen allowsReports_report none 5 noUnit 0x3F 0 0 u
  have hfr := report_frame hlog
  have hmod : ∀ (x : State) g i, (after (modMile fun m => { m with good := 0 }) x).fld g i = x.fld g i := fun x g i => rfl
  refine ⟨_, hexec, ?_, ?_, ?_, ?_⟩
  · rw [State.flag, fld_after_report hcu hlog _ _ (by decide), hu]
    simp (disch := repeat' (first | assumption | apply after_canon | decide)) only [fld_bump_other, hmod, fld_set_same]
    rfl
  · rw [hfr]
    exact hu ▸ rfl
  · rw [fld_after_report hcu hlog _ _ (by decide), hu]
    simp (disch := repeat' (first | assumption | apply after_canon | decide)) only [fld_bump_same, hmod, fld_set_off]
  · rw [hfr]
    exact hu ▸ rfl

theorem ethLinkChange_shows (n : Fin 16) (up : Bool) (h : s.flag F.ETH_MODE_M800 (n.val / 4 * 4) = false ∨ n.val % 4 = 0) :
    ∃ t, exec (.ethLinkChange n up) s = .next t ∧ t.flag F.ETH_STS_UP n.val = up ∧
      t.fld F.ETH_STS_SPEED n.val = (if up then (if s.flag F.ETH_MODE_M800 (n.val / 4 * 4) then 2 else 1) else 0) ∧
      RegsBut [regKey .eth n.val F.ETH_STS_UP.off] s t ∧ t = { s with regs := t.regs } := by
  obtain ⟨b, hb⟩ : ∃ b, b = seqA [setB F.ETH_STS_UP n.val up,
      setF F.ETH_STS_SPEED n.val (if up then (if s.flag F.ETH_MODE_M800 (n.val / 4 * 4) then 2 else 1) else 0)] := ⟨_, rfl⟩
  have hexec : exec (.ethLinkChange n up) s = .next (after b s) := by
    have hcond : ¬ (s.flag F.ETH_MODE_M800 (n.val / 4 * 4) = true ∧ n.val % 4 ≠ 0) := by
      rintro ⟨h1, h2⟩
      obtain h | h := h
      · rw [h1] at h
        exact Bool.noConfusion h
      · exact h2 h
    simp only [exec, execEthLinkChange, runAct_eq, hcond, if_false, hb]
    rfl
  refine ⟨_, hexec, ?_, ?_, after_regsBut hc (by simp [hb]), after_overlay [.regs] (a := b) (by simp [hb])⟩
  · rw [hb]
    simp (disch := repeat' (first | assumption | apply after_canon | decide)) only [State.flag, setB, after_seqA_cons, after_seqA_end,
      fld_set_same, fld_set_bits]
    cases up <;> rfl
  · rw [hb]
    simp (disch := repeat' (first | assumption | apply after_canon | decide)) only [after_seqA_cons, after_seqA_end, fld_set_same]
    refine Nat.mod_eq_of_lt ?_
    change _ < 4
    split_ifs <;> omega

end

end Sys2Proof.Machine

open Sys2Proof Sys2Proof.Machine

/-- Settles O43: an exchange, a loss and a port's change are each a few fields of one register, and the offsets kept. -/
theorem milestoneAndPorts : Obligations.MilestoneAndPorts := by
  unfold Obligations.MilestoneAndPorts
  intro s hc
  refine ⟨fun n t1 t2 t3 t4 depth hr hl => ⟨fun q hq hn => ?_, fun hq => ?_⟩, fun hr hp => ?_, fun hh hp hl hm => lockLoss_shows hc hh hp hl hm,
    fun n up h => ethLinkChange_shows hc n up h⟩
  · exact milestoneSync_other hc t1 t2 t3 t4 hr hl rfl hq hn
  · exact milestoneSync_parent hc t1 t2 t3 t4 hr hl rfl hq
  · exact parentLost_shows hc hr hp rfl
end

section
/-!
SUPPORT. The power governor, overcurrent and PWRCAP_N (R474–R477).
-/
namespace Sys2Proof.Machine

/-- Registers of different blocks have different keys. -/
theorem regKey_ne_of_blk {b b' : Blk} {i i' o o' : Nat} (hb : b.code ≠ b'.code) (h : i < 1048576 ∧ i' < 1048576 ∧ o < 65536 ∧ o' < 65536) :
    regKey b i o ≠ regKey b' i' o' := fun hk => hb (regKey_inj h.1 h.2.1 h.2.2.1 h.2.2.2 hk).1

/-! ## B′ -/

/-- A state in which B′ and what it is reckoned from read as in another, and so does the power state. -/
structure SameBudget (s t : State) : Prop where
  bPrime : t.power.bPrime = s.power.bPrime
  now : t.budgetNow = s.budgetNow
  budget : t.budget = s.budget
  pstate : t.pstate = s.pstate

theorem SameBudget.trans {s t u : State} (h1 : SameBudget s t) (h2 : SameBudget t u) : SameBudget s u :=
  ⟨h2.1.trans h1.1, h2.2.trans h1.2, h2.3.trans h1.3, h2.4.trans h1.4⟩

theorem sameBudget_of_fld {s t : State}
    (hp : t.power.bPrime = s.power.bPrime ∧ t.power.ramp = s.power.ramp ∧ t.power.rails = s.power.rails)
    (h : ∀ f ∈ [F.PWR_BUDGET_BUDGET, F.PWR_BUDGET_CAP, F.PWR_P1_PIN, F.PWR_P1_OC, F.PWR_STATE_STATE], t.fld f 0 = s.fld f 0) : SameBudget s t := by
  have h1 := h F.PWR_BUDGET_BUDGET (by simp)
  have h2 := h F.PWR_BUDGET_CAP (by simp)
  have h3 := h F.PWR_P1_PIN (by simp)
  have h4 := h F.PWR_P1_OC (by simp)
  have h5 := h F.PWR_STATE_STATE (by simp)
  have hb : t.budget = s.budget := by rw [State.budget, h1, State.budget]
  have hn : t.budgetNoHold = s.budgetNoHold := by
    simp only [State.budgetNoHold, State.flag, h2, h3, hb]
    rfl
  obtain ⟨hp1, hp2, hp3⟩ := hp
  refine ⟨hp1, ?_, hb, by rw [State.pstate, h5, hp3, State.pstate]⟩
  simp only [State.budgetNow, State.flag, hn, h4, hp2]
  rfl

/-- What setting B′ shows. -/
theorem setBudget_shows {s : State} (hc : s.canon = true) {t : State} (ht : t = after setBudget s) :
    t.power = { s.power with bPrime := s.budgetNow } ∧ t.budgetNow = s.budgetNow ∧ t.budget = s.budget ∧
      (s.power.rails = true → s.pstate ≤ 1 → t.pstate = if s.budgetNow < s.budget then 1 else 0) ∧
      (∀ g : Fld, g.off = 0x128 → g.lo ≠ 0 → t.fld g 0 = s.fld g 0) ∧
      RegsBut [regKey .pwr 0 F.PWR_P1_PIN.off, regKey .pwr 0 F.PWR_STATE_STATE.off] s t ∧ t = { s with regs := t.regs, power := t.power } := by
  obtain ⟨b, hb⟩ : ∃ b : Bool, b = (s.fld F.PWR_BUDGET_CAP 0 != 0 && decide (s.fld F.PWR_BUDGET_CAP 0 < s.budget)) := ⟨_, rfl⟩
  obtain ⟨x, hx⟩ : ∃ x, x = after (setB F.PWR_P1_HOST 0 b) (after (modPower fun p => { p with bPrime := s.budgetNow }) s) := ⟨_, rfl⟩
  have hcx : x.canon = true := hx ▸ after_canon _ _ (after_canon _ s hc)
  have htx : t = after (whenA (fun s => decide (s.pstate ≤ 1)) (setB F.PWR_STATE_STATE 0 (decide (s.budgetNow < s.budget)))) x := by
    rw [ht, after_congr (b := seqA _) (by simp only [setBudget]; rfl)]
    simp only [after_seqA_cons, after_seqA_end, ← hb, ← hx]
  have hfx : ∀ g : Fld, g.off % 65536 ≠ 0x128 ∨ g.lo ≠ 0 → x.fld g 0 = s.fld g 0 := fun g hg => by
    have hset := hx ▸ (fld_setF_bits (after (modPower fun p => { p with bPrime := s.budgetNow }) s) (after_canon _ s hc) F.PWR_P1_HOST g 0 0
      (if b then 1 else 0) (by decide) (by decide))
    obtain ho | hl := hg
    · exact hx ▸ fld_set_off (after_canon _ s hc) F.PWR_P1_HOST g 0 0 (if b then 1 else 0) ho
    · exact hset (.inr (Nat.pos_of_ne_zero hl))
  have hpow0 : x.power = { s.power with bPrime := s.budgetNow } := hx ▸ rfl
  have hpx : x.pstate = s.pstate := by
    rw [State.pstate, hfx _ (.inl (by decide)), hpow0, State.pstate]
  have hft : ∀ g : Fld, g.off % 65536 ≠ 0x100 → t.fld g 0 = x.fld g 0 := fun g ho => by
    rw [htx, after_whenA]
    split
    · exact fld_set_off hcx F.PWR_STATE_STATE g 0 0 _ ho
    · rfl
  have hpow : t.power = { s.power with bPrime := s.budgetNow } := by
    rw [htx, after_whenA]
    split <;> exact hx ▸ rfl
  have hf : ∀ f ∈ [F.PWR_BUDGET_BUDGET, F.PWR_BUDGET_CAP, F.PWR_P1_PIN, F.PWR_P1_OC], t.fld f 0 = s.fld f 0 := fun f hm => by
    simp only [List.mem_cons, List.not_mem_nil, or_false] at hm
    obtain rfl | rfl | rfl | rfl := hm
    · rw [hft _ (by decide), hfx _ (.inl (by decide))]
    · rw [hft _ (by decide), hfx _ (.inl (by decide))]
    · rw [hft _ (by decide), hfx _ (.inr (by decide))]
    · rw [hft _ (by decide), hfx _ (.inr (by decide))]
  have hbud : t.budget = s.budget := by rw [State.budget, hf _ (by simp), State.budget]
  have hnow : t.budgetNow = s.budgetNow := by
    have hn : t.budgetNoHold = s.budgetNoHold := by
      simp only [State.budgetNoHold, State.flag, hf F.PWR_BUDGET_CAP (by simp), hf F.PWR_P1_PIN (by simp), hbud]
      rfl
    have hr : t.power.ramp = s.power.ramp := by rw [hpow]
    simp only [State.budgetNow, State.flag, hn, hf F.PWR_P1_OC (by simp), hr]
    rfl
  refine ⟨hpow, hnow, hbud, fun hr hp => ?_, fun g ho hl => ?_, ?_, ?_⟩
  · rw [State.pstate, hpow, if_pos hr, htx, after_whenA, hpx, if_pos (by simpa using hp)]
    have hs := fld_set_same hcx F.PWR_STATE_STATE 0 (if decide (s.budgetNow < s.budget) = true then 1 else 0) (by decide)
    refine hs.trans ?_
    simp only [decide_eq_true_eq]
    split <;> rfl
  · rw [hft _ (by rw [ho]; decide), hfx _ (.inr hl)]
  · rw [ht]
    exact after_regsBut hc (by simp [setBudget])
  · rw [ht]
    exact after_overlay [.regs, .power] (a := setBudget) (by simp [setBudget])

/-! ## The converter's registers and state (R462) -/

section
variable {P : State → Eff → Prop} (hreg : ∀ s o v, o < 0x200 → P s (.reg .mon 0 o v)) (hmon : ∀ s m, P s (.mon m))
include hreg hmon

omit hmon in
theorem allowed_monShow (s : State) : Allowed P (monShow s) s := by simp [monShow, hreg]

theorem allowed_monBegin (s : State) : Allowed P (monBegin s) s := by
  have hshow := allowed_monShow hreg
  simp [monBegin, hmon, hshow]

theorem allowed_monTrigger (s : State) : Allowed P (monTrigger s) s := by
  have hbegin := allowed_monBegin hreg hmon
  simp only [monTrigger]
  split
  · exact .nil _
  · split <;> simp [hmon, hreg, hbegin]

theorem allowed_monInject (cause : Nat) (s : State) : Allowed P (monInject cause s) s :=
  (allowed_whenA _ _ s).2 fun _ => allowed_monTrigger hreg hmon s

end

/-! ## The governor's tick (R474) -/

theorem governDie_shows {s : State} (hc : s.canon = true) (b : Nat) (demand : List Nat) (d : Nat) {t : State}
    (ht : t = after (governDie b demand d) s) :
    t.fld (F.PWR_DIE_ALLOT.nth d) 0 = allot b demand d % (F.PWR_DIE_ALLOT.top + 1) ∧
      t.fld (F.PWR_DIE_EFF.nth d) 0 = allot b demand d * s.fld (F.THM_DIE_FACTOR.nth d) 0 / 256 % (F.PWR_DIE_EFF.top + 1) ∧
      (∀ e, t.die e = if e = d then { s.die d with used := 0 } else s.die e) ∧ RegsBut [regKey .pwr 0 (0x200 + 8 * d)] s t ∧
      t = { s with regs := t.regs, dies := t.dies } := by
  obtain ⟨x, hx⟩ : ∃ x, x = after (setF (F.PWR_DIE_ALLOT.nth d) 0 (allot b demand d)) s := ⟨_, rfl⟩
  obtain ⟨y, hy⟩ : ∃ y, y = after (setF (F.PWR_DIE_EFF.nth d) 0 (allot b demand d * s.fld (F.THM_DIE_FACTOR.nth d) 0 / 256)) x := ⟨_, rfl⟩
  obtain ⟨z, hz⟩ : ∃ z, z = after (setF (F.PWR_DIE_USED.nth d) 0 ((s.die d).used * 256 / (100000 * 4200000)).toNat) y := ⟨_, rfl⟩
  have hcx : x.canon = true := hx ▸ after_canon _ s hc
  have hcy : y.canon = true := hy ▸ after_canon _ x hcx
  have hcz : z.canon = true := hz ▸ after_canon _ y hcy
  have htz : t = after (modDie d fun x => { x with used := 0 }) z := by
    rw [ht, after_congr (b := seqA _) (by simp only [governDie]; rfl)]
    simp only [after_seqA_cons, after_seqA_end, ← hx, ← hy, ← hz]
  have hfz : ∀ g i, t.fld g i = z.fld g i := fun g i => by rw [htz]; rfl
  have hdz : ∀ e, z.die e = s.die e := fun e => by rw [hz, hy, hx]; rfl
  refine ⟨?_, ?_, fun e => ?_, ?_, ?_⟩
  · rw [hfz, hz, fld_set_bits hcy _ _ _ _ _ (by simp [Fld.nth]), hy, fld_set_bits hcx _ _ _ _ _ (by simp [Fld.nth]), hx,
      fld_set_same hc _ _ _ (by simp [Fld.nth])]
    rfl
  · rw [hfz, hz, fld_set_bits hcy _ _ _ _ _ (by simp [Fld.nth]), hy, fld_set_same hcx _ _ _ (by simp [Fld.nth])]
    rfl
  · rw [htz, die_modDie hcz, hdz, hdz]
  · rw [ht]
    refine after_regsBut hc ?_
    simp [governDie, Fld.nth]
  · rw [ht]
    exact after_overlay [.regs, .dies] (a := governDie b demand d) (by simp [governDie])

/-- What the governor gives each die of a list without repetition. -/
theorem governDies_shows (b : Nat) (demand : List Nat) : ∀ {l : List Nat} {s : State}, s.canon = true → l.Nodup → (∀ d ∈ l, d < 32) →
    let t := after (forA l (governDie b demand)) s
    (∀ d ∈ l, t.fld (F.PWR_DIE_ALLOT.nth d) 0 = allot b demand d % (F.PWR_DIE_ALLOT.top + 1) ∧
      t.fld (F.PWR_DIE_EFF.nth d) 0 = allot b demand d * s.fld (F.THM_DIE_FACTOR.nth d) 0 / 256 % (F.PWR_DIE_EFF.top + 1) ∧
      t.die d = { s.die d with used := 0 }) ∧
    (∀ e, e ∉ l → t.die e = s.die e) ∧ RegsBut (l.map fun d => regKey .pwr 0 (0x200 + 8 * d)) s t ∧
    t = { s with regs := t.regs, dies := t.dies }
  | [], s, _, _, _ => by simp [RegsBut]
  | a :: l, s, hc, hn, hl => by
    obtain ⟨ha, hn'⟩ := List.nodup_cons.1 hn
    have ha32 := hl a (List.mem_cons_self ..)
    obtain ⟨u, hu⟩ : ∃ u, u = after (governDie b demand a) s := ⟨_, rfl⟩
    obtain ⟨h1, h2, h3, h4, h5⟩ := governDie_shows hc b demand a hu
    obtain ⟨k1, k2, k3, k4⟩ := governDies_shows b demand (hu ▸ after_canon _ s hc : u.canon = true) hn' fun d hd => hl d (List.mem_cons_of_mem _ hd)
    have hkey : ∀ d, d < 32 → d ≠ a → regKey .pwr 0 (0x200 + 8 * d) ≠ regKey .pwr 0 (0x200 + 8 * a) := fun d _ hne =>
      regKey_ne_of_off (by omega)
    have hout : regKey .pwr 0 (0x200 + 8 * a) ∉ l.map fun d => regKey .pwr 0 (0x200 + 8 * d) := fun hm => by
      obtain ⟨d, hd, he⟩ := List.mem_map.1 hm
      exact hkey d (hl d (List.mem_cons_of_mem _ hd)) (fun h => ha (h ▸ hd)) he
    have hthm : ∀ d, d < 32 → u.fld (F.THM_DIE_FACTOR.nth d) 0 = s.fld (F.THM_DIE_FACTOR.nth d) 0 := fun d hd => fld_of_regsBut h4 (by
      rw [List.mem_singleton]
      exact regKey_ne_of_blk (by simp [Fld.nth, Blk.code]) (by simp [Fld.nth]; omega))
    rw [after_forA_cons, ← hu]
    refine ⟨fun d hd => ?_, fun e he => ?_, fun k hk => ?_, by rw [k4, h5]⟩
    · obtain rfl | hm := List.mem_cons.1 hd
      · have hk : ∀ f : Fld, f.blk = .pwr → f.off = 0x200 → regKey (f.nth d).blk 0 (f.nth d).off ∉ l.map fun d => regKey .pwr 0 (0x200 + 8 * d) :=
          fun f hb ho => by
            simp only [Fld.nth, hb, ho]
            exact hout
        refine ⟨?_, ?_, ?_⟩
        · rw [fld_of_regsBut k3 (hk F.PWR_DIE_ALLOT rfl rfl), h1]
        · rw [fld_of_regsBut k3 (hk F.PWR_DIE_EFF rfl rfl), h2]
        · rw [k2 d ha, h3, if_pos rfl]
      · obtain ⟨q1, q2, q3⟩ := k1 d hm
        refine ⟨q1, ?_, ?_⟩
        · rw [q2, hthm d (hl d hd)]
        · rw [q3, h3, if_neg]
          rintro rfl
          exact ha hm
    · obtain ⟨hea, hel⟩ := not_or.1 fun h => he (List.mem_cons.2 h)
      rw [k2 e hel, h3, if_neg hea]
    · rw [List.map_cons] at hk
      obtain ⟨hka, hkl⟩ := not_or.1 fun h => hk (List.mem_cons.2 h)
      rw [k3 k hkl, h4 k (by rwa [List.mem_singleton])]

/-- What a command shows of B′: the part is in P1 exactly while B′ is below B. -/
def ShowsBudget (s t : State) : Prop :=
  t.power.bPrime = t.budgetNow ∧ (s.power.rails = true → s.pstate ≤ 1 → t.pstate = if t.power.bPrime < t.budget then 1 else 0)

theorem showsBudget_setBudget {s u t : State} (hc : u.canon = true) (ht : t = after setBudget u) (hr : u.power.rails = s.power.rails)
    (hp : u.pstate = s.pstate) : ShowsBudget s t := by
  obtain ⟨h1, h2, h3, h4, -⟩ := setBudget_shows hc ht
  have hb : t.power.bPrime = u.budgetNow := by rw [h1]
  refine ⟨by rw [hb, h2], fun h1 h2 => ?_⟩
  rw [h4 (hr.trans h1) (by rwa [hp]), hb, h3]

theorem ShowsBudget.same {s t u : State} (h : ShowsBudget s t) (hs : SameBudget t u) : ShowsBudget s u := by
  obtain ⟨h1, h2⟩ := h
  exact ⟨by rw [hs.bPrime, hs.now, h1], fun hr hp => by rw [hs.pstate, hs.bPrime, hs.budget, h2 hr hp]⟩

theorem pstate_of_fld {s t : State} (hr : t.power.rails = s.power.rails) (hf : t.fld F.PWR_STATE_STATE 0 = s.fld F.PWR_STATE_STATE 0) :
    t.pstate = s.pstate := by rw [State.pstate, hr, hf, State.pstate]

section
variable {s : State} (hc : s.canon = true)
include hc

theorem pwrcapChange_shows (low : Bool) (hv : s.power.vaux = true) : ∃ t, exec (.pwrcapChange low) s = .next t ∧ ShowsBudget s t ∧
    t.flag F.PWR_P1_PIN 0 = low ∧ RegsBut [regKey .pwr 0 F.PWR_P1_PIN.off, regKey .pwr 0 F.PWR_STATE_STATE.off] s t ∧
    t = { s with regs := t.regs, power := t.power } := by
  obtain ⟨u, hu⟩ : ∃ u, u = after (setB F.PWR_P1_PIN 0 low) s := ⟨_, rfl⟩
  obtain ⟨t, ht⟩ : ∃ t, t = after setBudget u := ⟨_, rfl⟩
  have hcu : u.canon = true := hu ▸ after_canon _ s hc
  have hexec : exec (.pwrcapChange low) s = .next t := by
    refine congrArg Host.Outcome.next (?_ : after (whenA (fun s => s.power.vaux) (seqA [setB F.PWR_P1_PIN 0 low, setBudget])) s = t)
    rw [after_whenA, if_pos hv, after_seqA_cons, after_seqA_cons, after_seqA_end, ← hu, ht]
  have hru : RegsBut [regKey .pwr 0 F.PWR_P1_PIN.off, regKey .pwr 0 F.PWR_STATE_STATE.off] s u := hu ▸ after_regsBut hc (by simp)
  have hst : u.fld F.PWR_STATE_STATE 0 = s.fld F.PWR_STATE_STATE 0 := hu ▸ fld_set_off hc F.PWR_P1_PIN _ _ _ _ (by decide)
  have hpin : u.flag F.PWR_P1_PIN 0 = low := by
    rw [State.flag, hu, setB, fld_set_same hc _ _ _ (by decide)]
    cases low <;> rfl
  obtain ⟨-, -, -, -, h5, h6, h7⟩ := setBudget_shows hcu ht
  refine ⟨t, hexec, showsBudget_setBudget hcu ht (hu ▸ rfl) (pstate_of_fld (hu ▸ rfl) hst), ?_, fun k hk => (h6 k hk).trans (hru k hk), ?_⟩
  · rw [State.flag, h5 _ rfl (by decide)]
    exact hpin
  · rw [h7, hu]
    rfl

theorem overcurrentHoldEnd_shows (ho : s.flag F.PWR_P1_OC 0 = true) (hm : 1000 * s.fld F.PWR_OC_HOLD 0 ≤ (s.mile - s.power.ocAt).toNat) :
    ∃ t, exec .overcurrentHoldEnd s = .next t ∧ ShowsBudget s t ∧ t.flag F.PWR_P1_OC 0 = false ∧ t.power.ramp = 100 ∧
      t = { s with regs := t.regs, power := t.power } := by
  obtain ⟨u, hu⟩ : ∃ u, u = after (modPower fun p => { p with ramp := 100 }) (after (setF F.PWR_P1_OC 0 0) s) := ⟨_, rfl⟩
  obtain ⟨t, ht⟩ : ∃ t, t = after setBudget u := ⟨_, rfl⟩
  have hcu : u.canon = true := hu ▸ after_canon _ _ (after_canon _ s hc)
  have hexec : exec .overcurrentHoldEnd s = .next t := by
    refine congrArg Host.Outcome.next (?_ : after (whenA (fun s => s.flag F.PWR_P1_OC 0 && decide (1000 * s.fld F.PWR_OC_HOLD 0 ≤
      (s.mile - s.power.ocAt).toNat)) (seqA [setF F.PWR_P1_OC 0 0, modPower fun p => { p with ramp := 100 }, setBudget])) s = t)
    rw [after_whenA, if_pos (by rw [ho, decide_eq_true hm]; rfl), after_seqA_cons, after_seqA_cons, after_seqA_cons, after_seqA_end, ← hu, ht]
  have hst : u.fld F.PWR_STATE_STATE 0 = s.fld F.PWR_STATE_STATE 0 := hu ▸ fld_set_off hc F.PWR_P1_OC _ _ _ _ (by decide)
  have hoc : u.fld F.PWR_P1_OC 0 = 0 := hu ▸ fld_set_same hc F.PWR_P1_OC 0 0 (by decide)
  obtain ⟨h1, -, -, -, h5, -, h7⟩ := setBudget_shows hcu ht
  refine ⟨t, hexec, showsBudget_setBudget hcu ht (hu ▸ rfl) (pstate_of_fld (hu ▸ rfl) hst), ?_, by rw [h1, hu]; rfl, by rw [h7, hu]; rfl⟩
  rw [State.flag, h5 _ rfl (by decide), hoc]
  rfl

omit hc in
theorem after_governDies (demand : List Nat) (v : State) :
    after (fun s => forA allDies (governDie s.power.bPrime demand) s) v = after (forA allDies (governDie v.power.bPrime demand)) v :=
  after_congr rfl

omit hc in
theorem exec_governorTick {demand : List Nat} (hr : s.power.rails = true) {a : Act}
    (ha : a = whenA (fun s => s.pstate == 1) (seqA [modPower fun p => { p with p1Ticks := p.p1Ticks + 1 },
      whenA (fun s => decide (100 ≤ s.power.p1Ticks)) (seqA [modPower fun p => { p with p1Ticks := 0 }, bump F.PWR_P1_TIME 0 1])])) :
    exec (.governorTick demand) s = .next (after (seqA [modPower fun p => { p with ramp := p.ramp - 1 }, setBudget,
      fun s => forA allDies (governDie s.power.bPrime demand) s, a]) s) := by
  subst ha
  refine congrArg Host.Outcome.next (after_congr (a := fun s => if s.power.rails = false then [] else
    seqA [modPower fun p => { p with ramp := p.ramp - 1 }, setBudget, fun s => forA allDies (governDie s.power.bPrime demand) s, _] s) ?_)
  simp only [hr, Bool.true_eq_false, if_false]

theorem governorTick_shows (demand : List Nat) (hr : s.power.rails = true) : ∃ t, exec (.governorTick demand) s = .next t ∧ ShowsBudget s t ∧
    t.power.ramp = s.power.ramp - 1 ∧
    (∀ d, d < 32 → t.fld (F.PWR_DIE_ALLOT.nth d) 0 = allot t.power.bPrime demand d % (F.PWR_DIE_ALLOT.top + 1) ∧
      t.fld (F.PWR_DIE_EFF.nth d) 0 =
        allot t.power.bPrime demand d * s.fld (F.THM_DIE_FACTOR.nth d) 0 / 256 % (F.PWR_DIE_EFF.top + 1) ∧
      t.die d = { s.die d with used := 0 }) ∧ t = { s with regs := t.regs, power := t.power, dies := t.dies } := by
  obtain ⟨u, hu⟩ : ∃ u, u = after (modPower fun p => { p with ramp := p.ramp - 1 }) s := ⟨_, rfl⟩
  obtain ⟨v, hv⟩ : ∃ v, v = after setBudget u := ⟨_, rfl⟩
  obtain ⟨w, hw⟩ : ∃ w, w = after (forA allDies (governDie v.power.bPrime demand)) v := ⟨_, rfl⟩
  obtain ⟨a, ha⟩ : ∃ a, a = whenA (fun s => s.pstate == 1) (seqA [modPower fun p => { p with p1Ticks := p.p1Ticks + 1 },
      whenA (fun s => decide (100 ≤ s.power.p1Ticks)) (seqA [modPower fun p => { p with p1Ticks := 0 }, bump F.PWR_P1_TIME 0 1])]) := ⟨_, rfl⟩
  obtain ⟨t, ht⟩ : ∃ t, t = after a w := ⟨_, rfl⟩
  have hcu : u.canon = true := hu ▸ after_canon _ s hc
  have hcv : v.canon = true := hv ▸ after_canon _ u hcu
  have hcw : w.canon = true := hw ▸ after_canon _ v hcv
  have hexec : exec (.governorTick demand) s = .next t := by
    rw [exec_governorTick hr ha, after_seqA_cons, after_seqA_cons, after_seqA_cons, after_seqA_cons, after_seqA_end, ← hu, ← hv,
      after_governDies, ← hw, ht]
  have hufld : ∀ g i, u.fld g i = s.fld g i := fun g i => hu ▸ rfl
  obtain ⟨h1, h2, h3, h4, h5, h6, h7⟩ := setBudget_shows hcu hv
  obtain ⟨k1, k2, k3, k4⟩ := governDies_shows v.power.bPrime demand hcv List.nodup_range fun d hd => List.mem_range.1 hd
  rw [show List.range 32 = allDies from rfl, ← hw] at k1 k2 k3 k4
  have hsvw : SameBudget v w := by
    refine sameBudget_of_fld (by rw [k4]; exact ⟨rfl, rfl, rfl⟩) fun f hf => fld_of_regsBut k3 fun hm => ?_
    obtain ⟨d, hd, he⟩ := List.mem_map.1 hm
    have hd' := List.mem_range.1 hd
    have hoff : f.off < 0x200 := by
      simp only [List.mem_cons, List.not_mem_nil, or_false] at hf
      obtain rfl | rfl | rfl | rfl | rfl := hf <;> decide
    exact regKey_ne_of_off (by omega) he
  have hfa : ∀ g : Fld, g.off % 65536 ≠ 0x128 ∨ g.hi < 32 → t.fld g 0 = w.fld g 0 := fun g hg => by
    have hp : ∀ (f : Power → Power) x, (after (modPower f) x).fld g 0 = x.fld g 0 := fun _ _ => rfl
    have hb : ∀ x, x.canon = true → (after (bump F.PWR_P1_TIME 0 1) x).fld g 0 = x.fld g 0 := fun x hx =>
      fld_bump_other hx F.PWR_P1_TIME g 0 0 1 (hg.imp_right fun h => ⟨by decide, .inl h⟩)
    rw [ht, ha, after_whenA]
    split
    · rw [after_seqA_cons, after_seqA_cons, after_seqA_end, after_whenA]
      split
      · rw [after_seqA_cons, after_seqA_cons, after_seqA_end, hb _ (after_canon _ _ (after_canon _ w hcw)), hp, hp]
      · exact hp _ _
    · rfl
  have hpow : t.power = { w.power with p1Ticks := t.power.p1Ticks } := by
    rw [ht, ha, after_whenA]
    split
    · rw [after_seqA_cons, after_seqA_cons, after_seqA_end, after_whenA]
      split
      · rw [after_seqA_cons, after_seqA_cons, after_seqA_end]
        rfl
      · rfl
    · rfl
  have hov : t = { w with regs := t.regs, power := t.power } := ht ▸ after_overlay [.regs, .power] (a := a) (by simp [ha])
  have hswt : SameBudget w t := by
    refine sameBudget_of_fld (by rw [hpow]; exact ⟨rfl, rfl, rfl⟩) fun f hf => hfa f ?_
    simp only [List.mem_cons, List.not_mem_nil, or_false] at hf
    obtain rfl | rfl | rfl | rfl | rfl := hf <;> decide
  have hbp : t.power.bPrime = v.power.bPrime := (hsvw.trans hswt).bPrime
  have hshow : ShowsBudget s v := showsBudget_setBudget hcu hv (hu ▸ rfl) (pstate_of_fld (hu ▸ rfl) (hufld _ _))
  have hthm : ∀ d, d < 32 → v.fld (F.THM_DIE_FACTOR.nth d) 0 = s.fld (F.THM_DIE_FACTOR.nth d) 0 := fun d hd => by
    rw [← hufld, fld_of_regsBut h6]
    simp only [List.mem_cons, List.not_mem_nil, or_false, not_or, Fld.nth]
    exact ⟨regKey_ne_of_off (by simp; omega), regKey_ne_of_off (by simp; omega)⟩
  refine ⟨t, hexec, hshow.same (hsvw.trans hswt), ?_, fun d hd => ?_, ?_⟩
  · rw [hpow, k4, h7]
    simp only [h1]
    rw [hu]
    rfl
  · obtain ⟨q1, q2, q3⟩ := k1 d (List.mem_range.2 hd)
    have hoff : (0x200 + 8 * d) % 65536 ≠ 0x128 := by omega
    refine ⟨?_, ?_, ?_⟩
    · rw [hfa _ (.inl hoff), q1, hbp]
    · rw [hfa _ (.inl hoff), q2, hbp, hthm d hd]
    · rw [hov]
      refine q3.trans ?_
      rw [h7, hu]
      rfl
  · rw [hov, k4, h7, hu]
    rfl

omit hc in
theorem exec_overcurrentTrip {current : BitVec 16} (hr : s.power.rails = true) (hl : s.fld F.PWR_OC_LIMIT 0 < current.toNat) :
    exec (.overcurrentTrip current) s = .next (after (seqA [forA allDies fun d => modDie d fun x => { x with credit := 0 }, setF F.PWR_P1_OC 0 1,
      modPower fun p => { p with ramp := 0, ocAt := s.mile }, setBudget, bump F.PWR_OC_TRIPS 0 1,
      logEv none 2 2 1 noUnit 0x3F 0 0 (leBytes 2 current.toNat), monInject 1]) s) := by
  refine congrArg Host.Outcome.next (after_congr (a := fun s => if s.power.rails = false ∨ current.toNat ≤ s.fld F.PWR_OC_LIMIT 0 then []
    else seqA [forA allDies fun d => modDie d fun x => { x with credit := 0 }, setF F.PWR_P1_OC 0 1,
      modPower fun p => { p with ramp := 0, ocAt := s.mile }, setBudget, bump F.PWR_OC_TRIPS 0 1,
      logEv none 2 2 1 noUnit 0x3F 0 0 (leBytes 2 current.toNat), monInject 1] s) ?_)
  simp only [hr, Bool.true_eq_false, Nat.not_le.2 hl, or_self, if_false]

omit hc in
/-- A field of the power block is no register of the converter. -/
theorem fld_monInject (hc : s.canon = true) (cause : Nat) (g : Fld) (hb : g.blk = .pwr) (ho : g.off < 65536) :
    (after (monInject cause) s).fld g 0 = s.fld g 0 := by
  refine fld_after_of_regIn hc (p := fun k => ∃ o < 0x200, k = regKey .mon 0 o) (allowed_monInject (fun _ o _ h => ⟨o, h, rfl⟩) (fun _ _ => trivial) cause s) ?_
  rintro ⟨o, ho', hk⟩
  rw [hb] at hk
  exact regKey_ne_of_blk (by decide) (by omega) hk

theorem overcurrentTrip_shows (current : BitVec 16) (hr : s.power.rails = true) (hl : s.fld F.PWR_OC_LIMIT 0 < current.toNat) :
    ∃ t, exec (.overcurrentTrip current) s = .next t ∧ ShowsBudget s t ∧ t.flag F.PWR_P1_OC 0 = true ∧ t.power.bPrime = s.budgetNoHold / 2 ∧
      t.power.ocAt = s.mile ∧ t.fld F.PWR_OC_TRIPS 0 = min (s.fld F.PWR_OC_TRIPS 0 + 1) F.PWR_OC_TRIPS.top ∧
      (∀ d, d < 32 → t.die d = { s.die d with credit := 0 }) ∧
      t = { s with regs := t.regs, power := t.power, dies := t.dies, nvm := t.nvm, keeper := t.keeper, mon := t.mon, ports := t.ports,
                   free := t.free, out := t.out } := by
  obtain ⟨s1, hs1⟩ : ∃ x, x = after (forA allDies fun d => modDie d fun x => { x with credit := 0 }) s := ⟨_, rfl⟩
  obtain ⟨s2, hs2⟩ : ∃ x, x = after (setF F.PWR_P1_OC 0 1) s1 := ⟨_, rfl⟩
  obtain ⟨u, hu⟩ : ∃ u, u = after (modPower fun p => { p with ramp := 0, ocAt := s.mile }) s2 := ⟨_, rfl⟩
  obtain ⟨v, hv⟩ : ∃ v, v = after setBudget u := ⟨_, rfl⟩
  obtain ⟨w, hw⟩ : ∃ w, w = after (bump F.PWR_OC_TRIPS 0 1) v := ⟨_, rfl⟩
  obtain ⟨x, hx⟩ : ∃ x, x = after (logEv none 2 2 1 noUnit 0x3F 0 0 (leBytes 2 current.toNat)) w := ⟨_, rfl⟩
  obtain ⟨t, ht⟩ : ∃ t, t = after (monInject 1) x := ⟨_, rfl⟩
  have hc1 : s1.canon = true := hs1 ▸ after_canon _ s hc
  have hc2 : s2.canon = true := hs2 ▸ after_canon _ s1 hc1
  have hcu : u.canon = true := hu ▸ after_canon _ s2 hc2
  have hcv : v.canon = true := hv ▸ after_canon _ u hcu
  have hcw : w.canon = true := hw ▸ after_canon _ v hcv
  have hcx : x.canon = true := hx ▸ after_canon _ w hcw
  have hexec : exec (.overcurrentTrip current) s = .next t := by
    rw [exec_overcurrentTrip hr hl, after_seqA_cons, after_seqA_cons, after_seqA_cons, after_seqA_cons, after_seqA_cons, after_seqA_cons,
      after_seqA_cons, after_seqA_end, ← hs1, ← hs2, ← hu, ← hv, ← hw, ← hx, ht]
  have h1 : s1 = { s with dies := s1.dies } := hs1 ▸ forA_modDie_frame _ s
  have hfu : ∀ g : Fld, g.off % 65536 ≠ 0x128 ∨ g.hi < F.PWR_P1_OC.lo ∨ F.PWR_P1_OC.hi < g.lo → u.fld g 0 = s.fld g 0 := fun g hg => by
    have h21 : s2.fld g 0 = s1.fld g 0 := by
      rw [hs2]
      exact hg.elim (fun ho => fld_set_off hc1 F.PWR_P1_OC g 0 0 1 ho) fun hb => fld_set_bits hc1 _ _ _ _ _ ⟨by decide, hb⟩
    have hus : u.fld g 0 = s2.fld g 0 := by rw [hu]; rfl
    rw [hus, h21, h1]
    rfl
  have hocu : u.flag F.PWR_P1_OC 0 = true := by
    have hus : u.fld F.PWR_P1_OC 0 = s2.fld F.PWR_P1_OC 0 := by rw [hu]; rfl
    rw [State.flag, hus, hs2, fld_set_same hc1 _ _ _ (by decide)]
    rfl
  have hpu : u.power = { s.power with ramp := 0, ocAt := s.mile } := by
    rw [hu, hs2, h1]
    rfl
  have hnu : u.budgetNow = s.budgetNoHold / 2 := by
    have hb : u.budget = s.budget := by rw [State.budget, hfu _ (.inl (by decide)), State.budget]
    have hn : u.budgetNoHold = s.budgetNoHold := by
      simp only [State.budgetNoHold, State.flag, hfu F.PWR_BUDGET_CAP (.inl (by decide)), hfu F.PWR_P1_PIN (.inr (by decide)), hb]
      rfl
    simp only [State.budgetNow, hocu, if_true, hn]
  obtain ⟨q1, -, -, -, q5, q6, q7⟩ := setBudget_shows hcu hv
  have hlog : Allowed Report (logEv none 2 2 1 noUnit 0x3F 0 0 (leBytes 2 current.toNat) w) w :=
    allowed_logEv (fun _ _ h => h) ..
  have htail : ∀ g : Fld, g.blk = .pwr → g.off < 0x400 → t.fld g 0 = w.fld g 0 := fun g hb ho => by
    rw [ht, fld_monInject hcx 1 g hb (by omega), hx, fld_after_report hcw hlog g 0 (.inl (by omega))]
  have hwv : ∀ g : Fld, g.off % 65536 ≠ F.PWR_OC_TRIPS.off → w.fld g 0 = v.fld g 0 := fun g ho => by
    rw [hw, fld_bump_other hcv _ _ _ _ _ (.inl ho)]
  have hov : t = { w with regs := t.regs, nvm := t.nvm, keeper := t.keeper, mon := t.mon, dies := t.dies, ports := t.ports, free := t.free, out := t.out } := by
    have htx : t = { x with regs := t.regs, mon := t.mon } :=
      ht ▸ after_overlay [.regs, .mon] (a := monInject 1) (allowed_monInject (by simp) (by simp) 1 x)
    rw [htx, hx, report_frame hlog]
    rfl
  have hdies : ∀ e, t.die e = w.die e := fun e => by
    have htx : t.die e = x.die e :=
      ht ▸ after_read_eq (a := monInject 1) (State.die · e) (allowed_monInject (P := onlyFields [.regs, .mon]) (by simp) (by simp) 1 x) fun _ => rfl
    have hxw : x.die e = w.die e :=
      hx ▸ after_read_eq (fs := [.regs, .nvm, .keeper, .ports, .free, .out]) (State.die · e) (allowed_logEv_none (allowsEvents_onlyFields (List.Subset.refl _)) ..) fun _ => rfl
    rw [htx, hxw]
  have hwov : w = { v with regs := w.regs } := hw ▸ after_overlay [.regs] (a := bump F.PWR_OC_TRIPS 0 1) (by simp)
  have hpow : t.power = v.power := by rw [hov, hwov]
  have hsame : SameBudget v t := by
    refine sameBudget_of_fld (by rw [hpow]; exact ⟨rfl, rfl, rfl⟩) fun g hg => ?_
    simp only [List.mem_cons, List.not_mem_nil, or_false] at hg
    obtain rfl | rfl | rfl | rfl | rfl := hg <;> rw [htail _ rfl (by decide), hwv _ (by decide)]
  have hshow : ShowsBudget s v := showsBudget_setBudget hcu hv (by rw [hpu]) (pstate_of_fld (by rw [hpu]) (hfu _ (.inl (by decide))))
  refine ⟨t, hexec, hshow.same hsame, ?_, ?_, ?_, ?_, fun d hd => ?_, ?_⟩
  · rw [State.flag, htail _ rfl (by decide), hwv _ (by decide), q5 _ rfl (by decide)]
    exact hocu
  · rw [hpow, q1, hnu]
  · rw [hpow, q1, hpu]
  · rw [htail _ rfl (by decide), hw, fld_bump_same hcv _ _ _ (by decide), fld_of_regsBut q6 (by decide), hfu _ (.inl (by decide))]
  · have hwu : w.die d = s1.die d := by
      rw [hwov, q7, hu, hs2]
      rfl
    rw [hdies, hwu, hs1, die_forA_modDie hc (show allDies.Nodup from List.nodup_range), if_pos (show d ∈ allDies from List.mem_range.2 hd)]
  · rw [hov, hwov, q7, hu, hs2, h1]
    rfl

end

/-- Settles O54: each of the four commands sets B′ and shows P1 by it; what follows it leaves what it is reckoned from. -/
theorem powerGovernor : Obligations.PowerGovernor := by
  intro s hc
  exact ⟨fun demand hr => governorTick_shows hc demand hr, fun current hr hl => overcurrentTrip_shows hc current hr hl,
    fun ho hm => overcurrentHoldEnd_shows hc ho hm, fun low hv => pwrcapChange_shows hc low hv⟩

end Sys2Proof.Machine
end

section
/-!
SUPPORT. The monitor converter (R459–R463, R467).
-/
namespace Sys2Proof.Machine

/-! ## Where the converter is -/

/-- The registers that show and command the converter. -/
def monSts : List Nat := [regKey .mon 0 0x100, regKey .mon 0 0x110]

theorem not_monSts {o : Nat} (h : 0x110 < o) : regKey .mon 0 o ∉ monSts := by
  simp [monSts, regKey]
  omega

/-- The conversion that begins: of the channel at hand, or none for a table entry with a reserved channel. -/
def MonNext (t : State) : Prop := t.mon.phase = if t.monTable = true ∧ t.mon.inj = none ∧ 24 ≤ t.monCh then 3 else 2

/-- The lists, the mode and the place in them read alike. -/
theorem monAt_of {s t : State} (hr : RegsBut monSts s t) (hi : t.mon.inj = s.mon.inj) (hp : t.mon.pos = s.mon.pos) :
    t.monTable = s.monTable ∧ t.monCh = s.monCh := by
  have hreg : ∀ o, 0x110 < o → t.reg .mon 0 o = s.reg .mon 0 o := fun o ho => hr _ (not_monSts ho)
  have htab : t.monTable = s.monTable := by
    rw [State.monTable, fld_of_regsBut hr (by decide), State.monTable]
  refine ⟨htab, ?_⟩
  simp only [State.monCh, hi, hp, htab, hreg 0x310 (by decide), hreg (0x200 + 8 * s.mon.pos) (by omega),
    hreg (0x300 + 8 * (s.mon.pos / 8)) (by omega)]

theorem ctl_mem_monSts : regKey .mon 0 0x100 ∈ monSts := by simp [monSts]
theorem sts_mem_monSts : regKey .mon 0 0x110 ∈ monSts := by simp [monSts]

theorem regIn_monSts_show (s : State) : Allowed (regIn (· ∈ monSts)) (monShow s) s := by simp [monShow, sts_mem_monSts]

theorem regIn_monSts_begin (s : State) : Allowed (regIn (· ∈ monSts)) (monBegin s) s := by
  have h := regIn_monSts_show
  simp [monBegin, h]

theorem regIn_monSts_trigger (s : State) : Allowed (regIn (· ∈ monSts)) (monTrigger s) s := by
  have hb := regIn_monSts_begin
  simp only [monTrigger]
  split
  · exact .nil _
  · split <;> simp [hb, sts_mem_monSts]

theorem regIn_monSts_start (v : Word) (s : State) : Allowed (regIn (· ∈ monSts)) (monStart v s) s := by
  have hsh := regIn_monSts_show
  simp only [monStart]
  split
  · simp [hsh, ctl_mem_monSts]
  · split <;> simp [hsh, ctl_mem_monSts]

section
variable {s : State} (hc : s.canon = true)
include hc

theorem monShow_shows {t : State} (ht : t = after monShow s) :
    t.flag F.MON_STS_START 0 = (s.mon.phase == 1) ∧ t.fld F.MON_STS_ABORTS 0 = s.fld F.MON_STS_ABORTS 0 ∧ t = { s with regs := t.regs } ∧
      RegsBut monSts s t := by
  have hseq : t = after (setF F.MON_STS_POSN 0 (s.mon.inj.getD s.mon.pos)) (after (setB F.MON_STS_START 0 (s.mon.phase == 1))
      (after (setB F.MON_STS_PD 0 s.mon.pd) (after (setB F.MON_STS_INJ 0 s.mon.inj.isSome) (after (setF F.MON_STS_CH 0 s.monCh) s)))) := by
    rw [ht, after_congr (b := seqA _) (by simp only [monShow]; rfl)]
    simp only [after_seqA_cons, after_seqA_end]
  refine ⟨?_, ?_, ht ▸ after_overlay [.regs] (a := monShow) (by simp [monShow]), ht ▸ after_regsBut hc (regIn_monSts_show s)⟩
  · rw [State.flag, hseq]
    simp (disch := repeat' (first | assumption | apply after_canon | decide)) only [setB, fld_set_same, fld_set_bits]
    cases s.mon.phase == 1 <;> rfl
  · rw [hseq]
    simp (disch := repeat' (first | assumption | apply after_canon | decide)) only [setB, fld_set_bits]

theorem monBegin_shows {t : State} (ht : t = after monBegin s) :
    MonNext t ∧ t.mon = { s.mon with phase := t.mon.phase, pd := t.mon.pd } ∧ t.flag F.MON_STS_START 0 = false ∧
      t.fld F.MON_STS_ABORTS 0 = s.fld F.MON_STS_ABORTS 0 ∧ t = { s with regs := t.regs, mon := t.mon } ∧ RegsBut monSts s t := by
  obtain ⟨b, hb⟩ : ∃ b : Bool, b = (s.monTable && s.mon.inj.isNone && decide (24 ≤ s.monCh)) := ⟨_, rfl⟩
  obtain ⟨u, hu⟩ : ∃ u, u = after (modMon fun m => { m with phase := if b then 3 else 2, pd := b && decide (10 ≤ F.MON_TBL_DELAY.of
    (s.reg .mon 0 (0x200 + 8 * s.mon.pos))) }) s := ⟨_, rfl⟩
  have hcu : u.canon = true := hu ▸ after_canon _ s hc
  have htu : t = after monShow u := by
    rw [ht, after_congr (b := seqA _) (by simp only [monBegin]; rfl)]
    simp only [after_seqA_cons, after_seqA_end, ← hb, ← hu]
  obtain ⟨h1, h2, h3, -⟩ := monShow_shows hcu htu
  have hregs : RegsBut monSts s t := ht ▸ after_regsBut hc (regIn_monSts_begin s)
  have hmon : t.mon = { s.mon with phase := if b then 3 else 2, pd := t.mon.pd } := by
    rw [h3, hu]
    rfl
  have hphase : t.mon.phase = if b then 3 else 2 := by rw [hmon]
  obtain ⟨htab, hch⟩ := monAt_of hregs (by rw [hmon]) (by rw [hmon])
  refine ⟨?_, by rw [hphase]; exact hmon, ?_, ?_, ?_, hregs⟩
  · have hinj : t.mon.inj = s.mon.inj := by rw [hmon]
    rw [MonNext, hphase, htab, hch, hinj, hb]
    simp only [Bool.and_eq_true, decide_eq_true_eq, Option.isNone_iff_eq_none, and_assoc]
  · rw [h1, hu]
    change ((if b then 3 else 2) == 1) = false
    cases b <;> rfl
  · rw [h2, hu]
    rfl
  · rw [h3, hu]
    rfl

/-- What a trigger begins at once. -/
theorem monTrigger_shows (h : s.monTable = false ∧ s.monInj ≠ 0 ∧ 2 ≤ s.mon.phase ∧ s.mon.inj = none) {t : State} (ht : t = after monTrigger s) :
    t.mon.inj = some 0 ∧ MonNext t ∧ t.fld F.MON_STS_ABORTS 0 = min (s.fld F.MON_STS_ABORTS 0 + 1) F.MON_STS_ABORTS.top ∧ RegsBut monSts s t ∧
      t = { s with regs := t.regs, mon := t.mon } := by
  obtain ⟨htab, hlist, hphase, hinj⟩ := h
  obtain ⟨u, hu⟩ : ∃ u, u = after (modMon fun m => { m with inj := some 0 }) (after (bump F.MON_STS_ABORTS 0 1) s) := ⟨_, rfl⟩
  have hcu : u.canon = true := hu ▸ after_canon _ _ (after_canon _ s hc)
  have htu : t = after monBegin u := by
    rw [ht, after_congr (b := seqA [bump F.MON_STS_ABORTS 0 1, modMon fun m => { m with inj := some 0 }, monBegin]) ?_]
    · simp only [after_seqA_cons, after_seqA_end, ← hu]
    · simp only [monTrigger, htab, hlist, hinj, Bool.false_eq_true, show s.mon.phase ≠ 0 by omega, show s.mon.phase ≠ 1 by omega,
        Option.isSome_none, or_self, if_false]
  obtain ⟨h1, h2, -, h4, h5, -⟩ := monBegin_shows hcu htu
  have hf : u.fld F.MON_STS_ABORTS 0 = min (s.fld F.MON_STS_ABORTS 0 + 1) F.MON_STS_ABORTS.top :=
    hu ▸ fld_bump_same hc F.MON_STS_ABORTS 0 1 (by decide)
  refine ⟨?_, h1, h4.trans hf, ht ▸ after_regsBut hc (regIn_monSts_trigger s), ?_⟩
  · rw [h2, hu]
    rfl
  · rw [h5, hu]
    rfl

omit hc in
theorem after_monCtl {src : Src} {v : Word} (htk : s.takes src .mon 0 0x100 = true) :
    after (monCtl src v) s = after (whenA (fun _ => F.MON_CTL_INJ_SW.of v == 1) monTrigger) (after (monStart v) s) := by
  rw [after_congr (b := seqA [monStart v, whenA (fun _ => F.MON_CTL_INJ_SW.of v == 1) monTrigger])
    (by simp only [monCtl, guardW_of_takes htk]), after_seqA_cons, after_seqA_cons, after_seqA_end]

/-- What a write of EN starts or stops. -/
theorem monStart_shows {v : Word} {t : State} (ht : t = after (monStart v) s) :
    t.fld F.MON_CTL_EN 0 = F.MON_CTL_EN.of v ∧
      t.mon = (if F.MON_CTL_EN.of v = s.fld F.MON_CTL_EN 0 then s.mon else { Mon.zero with fifo := s.mon.fifo, phase := F.MON_CTL_EN.of v }) ∧
      (F.MON_CTL_EN.of v = s.fld F.MON_CTL_EN 0 → t.fld F.MON_STS_ABORTS 0 = s.fld F.MON_STS_ABORTS 0) ∧
      RegsBut monSts s t ∧ t = { s with regs := t.regs, mon := t.mon } := by
  obtain ⟨on, hon⟩ : ∃ on, on = F.MON_CTL_EN.of v := ⟨_, rfl⟩
  obtain ⟨was, hwas⟩ : ∃ was, was = s.fld F.MON_CTL_EN 0 := ⟨_, rfl⟩
  have hon2 : on < 2 := hon ▸ bitsOf_lt _ _ _
  have hwas2 : was < 2 := hwas ▸ bitsOf_lt _ _ _
  obtain ⟨u, hu⟩ : ∃ u, u = after (setB F.MON_CTL_EN 0 (on == 1)) s := ⟨_, rfl⟩
  have hcu : u.canon = true := hu ▸ after_canon _ s hc
  have hseq : t = after (if on == 1 && !(was == 1) then seqA [modMon fun m => { Mon.zero with fifo := m.fifo, phase := 1 }, monShow]
      else if was == 1 && !(on == 1) then seqA [modMon fun m => { Mon.zero with fifo := m.fifo }, monShow] else skip) u := by
    rw [ht, after_congr (b := seqA _) (by simp only [monStart]; rfl)]
    simp only [after_seqA_cons, after_seqA_end, ← hon, State.flag, ← hwas, ← hu]
  have hen : u.fld F.MON_CTL_EN 0 = on := by
    rw [hu, setB, fld_set_same hc _ _ _ (by decide)]
    obtain rfl | rfl : on = 0 ∨ on = 1 := by omega
    all_goals rfl
  have huov : u = { s with regs := u.regs } := hu ▸ after_overlay [.regs] (a := setB F.MON_CTL_EN 0 (on == 1)) (by simp)
  have hregs : RegsBut monSts s t := ht ▸ after_regsBut hc (regIn_monSts_start v s)
  have hshow : ∀ m : Mon → Mon, t = after (seqA [modMon m, monShow]) u →
      t.fld F.MON_CTL_EN 0 = on ∧ t.mon = m s.mon ∧ t = { s with regs := t.regs, mon := t.mon } := fun m h => by
    obtain ⟨w, hw⟩ : ∃ w, w = after (modMon m) u := ⟨_, rfl⟩
    rw [after_seqA_cons, after_seqA_cons, after_seqA_end, ← hw] at h
    have hcw : w.canon = true := hw ▸ after_canon _ u hcu
    obtain ⟨-, -, h3, -⟩ := monShow_shows hcw h
    refine ⟨?_, ?_, ?_⟩
    · rw [h, fld_after_of_regIn hcw (p := fun k => k = regKey .mon 0 0x110) (by simp [monShow]) (by decide), hw]
      exact hen
    · rw [h3, hw, huov]
      rfl
    · rw [h3, hw, huov]
      rfl
  have huov' : u = { s with regs := u.regs, mon := u.mon } := by
    rw [huov]
  have hsame : u.mon = s.mon ∧ u.fld F.MON_STS_ABORTS 0 = s.fld F.MON_STS_ABORTS 0 :=
    ⟨by rw [huov], hu ▸ fld_set_off hc F.MON_CTL_EN F.MON_STS_ABORTS 0 0 _ (by decide)⟩
  rw [← hon, ← hwas]
  obtain rfl | rfl : on = 0 ∨ on = 1 := by omega
  all_goals obtain rfl | rfl : was = 0 ∨ was = 1 := by omega
  · have htu : t = u := hseq.trans (after_skipped u)
    exact ⟨htu ▸ hen, htu ▸ hsame.1, fun _ => htu ▸ hsame.2, hregs, htu ▸ huov'⟩
  · obtain ⟨h1, h2, h3⟩ := hshow _ hseq
    exact ⟨h1, h2, fun h => absurd h (by decide), hregs, h3⟩
  · obtain ⟨h1, h2, h3⟩ := hshow _ hseq
    exact ⟨h1, h2, fun h => absurd h (by decide), hregs, h3⟩
  · have htu : t = u := hseq.trans (after_skipped u)
    exact ⟨htu ▸ hen, htu ▸ hsame.1, fun _ => htu ▸ hsame.2, hregs, htu ▸ huov'⟩

theorem monEnable_shows {src : Src} {v : Word} (htk : s.takes src .mon 0 0x100 = true) (hv : F.MON_CTL_INJ_SW.of v = 0) :
    ∃ t, exec (.monEnable src v) s = .next t ∧ t.fld F.MON_CTL_EN 0 = F.MON_CTL_EN.of v ∧
      t.mon = (if F.MON_CTL_EN.of v = s.fld F.MON_CTL_EN 0 then s.mon else { Mon.zero with fifo := s.mon.fifo, phase := F.MON_CTL_EN.of v }) ∧
      RegsBut monSts s t ∧ t = { s with regs := t.regs, mon := t.mon } := by
  obtain ⟨t, ht⟩ : ∃ t, t = after (monStart v) s := ⟨_, rfl⟩
  obtain ⟨h1, h2, -, h4, h5⟩ := monStart_shows hc ht
  have hexec : exec (.monEnable src v) s = .next t := by
    refine congrArg Host.Outcome.next (?_ : after (monCtl src v) s = t)
    rw [after_monCtl htk, after_whenA, hv, if_neg (by decide), ht]
  exact ⟨t, hexec, h1, h2, h4, h5⟩

/-- A converter that converts its regular list and may be interrupted for the injected one (R462). -/
def State.monReady (s : State) : Prop := s.monTable = false ∧ s.monInj ≠ 0 ∧ 2 ≤ s.mon.phase ∧ s.mon.inj = none

/-- From s to t, a trigger has begun the injected list. -/
def MonBegun (s t : State) : Prop :=
  t.mon.inj = some 0 ∧ MonNext t ∧ t.fld F.MON_STS_ABORTS 0 = min (s.fld F.MON_STS_ABORTS 0 + 1) F.MON_STS_ABORTS.top ∧ RegsBut monSts s t ∧
    t = { s with regs := t.regs, mon := t.mon }

theorem injSw_shows {src : Src} {v : Word} (htk : s.takes src .mon 0 0x100 = true) (hv : F.MON_CTL_INJ_SW.of v = 1)
    (hen : F.MON_CTL_EN.of v = s.fld F.MON_CTL_EN 0) (hr : s.monReady) : ∃ t, exec (.injSw src v) s = .next t ∧ MonBegun s t := by
  obtain ⟨u, hu⟩ : ∃ t, t = after (monStart v) s := ⟨_, rfl⟩
  obtain ⟨t, ht⟩ : ∃ t, t = after monTrigger u := ⟨_, rfl⟩
  obtain ⟨-, h2, h3, h4, h5⟩ := monStart_shows hc hu
  rw [if_pos hen] at h2
  obtain ⟨htab, hlist, hphase, hinj⟩ := hr
  obtain ⟨k1, -⟩ := monAt_of h4 (by rw [h2]) (by rw [h2])
  have hlen : u.monInj = s.monInj := by rw [State.monInj, fld_of_regsBut h4 (by decide), State.monInj]
  obtain ⟨q1, q2, q3, q4, q5⟩ := monTrigger_shows (hu ▸ after_canon _ s hc : u.canon = true)
    ⟨k1.trans htab, by rwa [hlen], by rwa [h2], by rwa [h2]⟩ ht
  have hexec : exec (.injSw src v) s = .next t := by
    refine congrArg Host.Outcome.next (?_ : after (monCtl src v) s = t)
    rw [after_monCtl htk, after_whenA, hv, if_pos (by decide), ← hu, ht]
  exact ⟨t, hexec, q1, q2, by rw [q3, h3 hen], fun k hk => (q4 k hk).trans (h4 k hk), by rw [q5, h5]⟩

theorem monInjectedTrigger_shows (cause : Fin 3) (h0 : cause = 0 → s.flag F.MON_INJ_THERMAL 0 = true)
    (h1 : cause = 1 → s.flag F.MON_INJ_OVERCUR 0 = true) (hr : s.monReady) : ∃ t, exec (.monInjectedTrigger cause) s = .next t ∧ MonBegun s t := by
  obtain ⟨t, ht⟩ : ∃ t, t = after monTrigger s := ⟨_, rfl⟩
  have hon : (if cause.val = 0 then s.flag F.MON_INJ_THERMAL 0 else if cause.val = 1 then s.flag F.MON_INJ_OVERCUR 0 else true) = true := by
    split
    · exact h0 (Fin.ext ‹_›)
    · split
      · exact h1 (Fin.ext ‹_›)
      · rfl
  have hexec : exec (.monInjectedTrigger cause) s = .next t := by
    refine congrArg Host.Outcome.next (?_ : after (monInject cause.val) s = t)
    rw [monInject, after_whenA, if_pos hon, ht]
  exact ⟨t, hexec, monTrigger_shows hc hr ht⟩

theorem monStartupDone_shows (hp : s.mon.phase = 1) : ∃ t, exec .monStartupDone s = .next t ∧ MonNext t ∧ t.mon.pos = s.mon.pos ∧
    t.mon.fifo = s.mon.fifo ∧ t.flag F.MON_STS_START 0 = false ∧ RegsBut monSts s t ∧ t = { s with regs := t.regs, mon := t.mon } := by
  obtain ⟨u, hu⟩ : ∃ u, u = after (modMon fun m => if m.pend then { m with inj := some 0, pend := false } else m) s := ⟨_, rfl⟩
  obtain ⟨t, ht⟩ : ∃ t, t = after monBegin u := ⟨_, rfl⟩
  have hexec : exec .monStartupDone s = .next t := by
    refine congrArg Host.Outcome.next (?_ : after (whenA (fun s => s.mon.phase == 1) (seqA [
      modMon fun m => if m.pend then { m with inj := some 0, pend := false } else m, monBegin])) s = t)
    rw [after_whenA, if_pos (by simp [hp]), after_seqA_cons, after_seqA_cons, after_seqA_end, ← hu, ht]
  have hmu : u.mon.pos = s.mon.pos ∧ u.mon.fifo = s.mon.fifo := by
    rw [show u.mon = if s.mon.pend then { s.mon with inj := some 0, pend := false } else s.mon by rw [hu]; rfl]
    split <;> exact ⟨rfl, rfl⟩
  obtain ⟨h1, h2, h3, -, h5, h6⟩ := monBegin_shows (hu ▸ after_canon _ s hc : u.canon = true) ht
  have hregs : u.regs = s.regs := hu ▸ rfl
  refine ⟨t, hexec, h1, by rw [h2]; exact hmu.1, by rw [h2]; exact hmu.2, h3, fun k hk => (h6 k hk).trans (by rw [hregs]), ?_⟩
  rw [h5, hu]
  rfl

theorem monDelayExpiry_shows (hp : s.mon.phase = 3) : ∃ t, exec .monDelayExpiry s = .next t ∧ t.mon.pos = (s.mon.pos + 1) % s.monTbl ∧
    t.mon.rep = 0 ∧ (if s.mon.pd = true then t.mon.phase = 1 else MonNext t) ∧ t.mon.fifo = s.mon.fifo ∧ RegsBut monSts s t ∧
    t = { s with regs := t.regs, mon := t.mon } := by
  obtain ⟨u, hu⟩ : ∃ u, u = after (modMon fun m => { m with rep := 0, pos := (m.pos + 1) % s.monTbl }) s := ⟨_, rfl⟩
  obtain ⟨t, ht⟩ : ∃ t, t = after (if s.mon.pd then seqA [modMon fun m => { m with phase := 1, pd := false }, monShow] else monBegin) u := ⟨_, rfl⟩
  have hexec : exec .monDelayExpiry s = .next t := by
    refine congrArg Host.Outcome.next (?_ : after (fun s => if s.mon.phase ≠ 3 then []
      else seqA [modMon fun m => { m with rep := 0, pos := (m.pos + 1) % s.monTbl },
        if s.mon.pd then seqA [modMon fun m => { m with phase := 1, pd := false }, monShow] else monBegin] s) s = t)
    rw [after_congr (b := seqA [_, _]) (by simp only [hp, ne_eq, not_true_eq_false, if_false]; rfl), after_seqA_cons, after_seqA_cons,
      after_seqA_end, ← hu, ht]
  have hcu : u.canon = true := hu ▸ after_canon _ s hc
  have hmu : u.mon = { s.mon with rep := 0, pos := (s.mon.pos + 1) % s.monTbl } := hu ▸ rfl
  have hru : u.regs = s.regs := hu ▸ rfl
  cases hpd : s.mon.pd
  · rw [hpd] at ht
    obtain ⟨h1, h2, -, -, h5, h6⟩ := monBegin_shows hcu ht
    refine ⟨t, hexec, by rw [h2, hmu], by rw [h2, hmu], h1, by rw [h2, hmu], fun k hk => (h6 k hk).trans (by rw [hru]), ?_⟩
    rw [h5, hu]
    rfl
  · obtain ⟨w, hw⟩ : ∃ w, w = after (modMon fun m => { m with phase := 1, pd := false }) u := ⟨_, rfl⟩
    rw [hpd, if_pos rfl, after_seqA_cons, after_seqA_cons, after_seqA_end, ← hw] at ht
    obtain ⟨-, -, h3, h4⟩ := monShow_shows (hw ▸ after_canon _ u hcu : w.canon = true) ht
    have hmt : t.mon = { u.mon with phase := 1, pd := false } := by
      rw [h3, hw]
      rfl
    have hrw : w.regs = s.regs := hw ▸ hru
    refine ⟨t, hexec, by rw [hmt, hmu], by rw [hmt, hmu], by rw [hmt]; rfl, by rw [hmt, hmu], fun k hk => (h4 k hk).trans (by rw [hrw]), ?_⟩
    rw [h3, hw, hu]
    rfl

theorem monFifoRead_shows (src : Src) (hk : s.keeperUp = true) : ∃ t, exec (.monFifoRead src) s = .next t ∧
    t.mon = { s.mon with fifo := s.mon.fifo.tail } ∧ t.out = s.out ++ [.monFifo ((s.mon.fifo.head?).getD 0)] ∧
    t.fld F.MON_FIFO_STS_LEVEL 0 = s.mon.fifo.tail.length % (F.MON_FIFO_STS_LEVEL.top + 1) ∧
    RegsBut [regKey .mon 0 F.MON_FIFO_STS_LEVEL.off] s t ∧ t = { s with regs := t.regs, mon := t.mon, out := t.out } := by
  obtain ⟨u, hu⟩ : ∃ u, u = after (modMon fun m => { m with fifo := m.fifo.tail }) (after (emit (.monFifo ((s.mon.fifo.head?).getD 0))) s) := ⟨_, rfl⟩
  obtain ⟨t, ht⟩ : ∃ t, t = after (setF F.MON_FIFO_STS_LEVEL 0 s.mon.fifo.tail.length) u := ⟨_, rfl⟩
  have hcu : u.canon = true := hu ▸ after_canon _ _ (after_canon _ s hc)
  have hlen : u.mon.fifo.length = s.mon.fifo.tail.length := hu ▸ rfl
  have hexec : exec (.monFifoRead src) s = .next t := by
    refine congrArg Host.Outcome.next (after_congr (b := seqA [emit (.monFifo ((s.mon.fifo.head?).getD 0)), monPop])
      (a := fun s => if s.keeperUp then seqA [emit (.monFifo ((s.mon.fifo.head?).getD 0)), monPop] s else emit (.monFifo 0) s) ?_ |>.trans ?_)
    · simp only [hk, if_true]
    · rw [after_seqA_cons, after_seqA_cons, after_seqA_end, monPop, after_seqA_cons, after_seqA_cons, after_seqA_end, ← hu, after_withA, hlen, ht]
  have hov : t = { u with regs := t.regs } := ht ▸ after_overlay [.regs] (a := setF F.MON_FIFO_STS_LEVEL 0 s.mon.fifo.tail.length) (by simp)
  refine ⟨t, hexec, ?_, ?_, ?_, fun k hk => ?_, ?_⟩
  · rw [hov, hu]
    rfl
  · rw [hov, hu]
    rfl
  · rw [ht, fld_set_same hcu _ _ _ (by decide)]
    rfl
  · have hru : u.regs = s.regs := hu ▸ rfl
    rw [ht, after_regsBut (L := [regKey .mon 0 F.MON_FIFO_STS_LEVEL.off]) hcu (by simp) k hk, hru]
  · rw [hov, hu]
    rfl

/-! ## A conversion's end -/

omit hc in
/-- What follows a conversion: the place in the lists moves, and the next conversion begins or a delay is shown. -/
theorem monNext_eq (s : State) : ∃ m act, monNext s = seqA [modMon m, act] s ∧ (act = monBegin ∨ act = monShow) ∧
    (m s.mon).fifo = s.mon.fifo ∧ (s.monTable = false → s.mon.inj = none → (m s.mon).pos = (s.mon.pos + 1) % s.monReg) := by
  simp only [monNext]
  split
  · rename_i i hi
    have hno : s.monTable = false → s.mon.inj = none → ∀ p : Nat, p = (s.mon.pos + 1) % s.monReg := fun _ h => nomatch hi.symm.trans h
    split
    · exact ⟨fun m => { m with inj := some (i + 1) }, _, rfl, .inl rfl, rfl, fun h1 h2 => hno h1 h2 _⟩
    · exact ⟨fun m => { m with inj := if m.pend then some 0 else none, pend := false }, _, rfl, .inl rfl, rfl, fun h1 h2 => hno h1 h2 _⟩
  · split
    · rename_i htab
      have hno : s.monTable = false → s.mon.inj = none → ∀ p : Nat, p = (s.mon.pos + 1) % s.monReg := fun h _ => absurd htab (by simp [h])
      split
      · exact ⟨fun m => { m with rep := m.rep + 1 }, _, rfl, .inl rfl, rfl, fun h1 h2 => hno h1 h2 _⟩
      · split
        · exact ⟨fun m => { m with rep := 0, pos := (m.pos + 1) % s.monTbl }, _, rfl, .inl rfl, rfl, fun h1 h2 => hno h1 h2 _⟩
        · exact ⟨fun m => { m with rep := 0, phase := 3, pd := decide (10 ≤ F.MON_TBL_DELAY.of (s.reg .mon 0 (0x200 + 8 * s.mon.pos))) }, _,
            rfl, .inr rfl, rfl, fun h1 h2 => hno h1 h2 _⟩
    · exact ⟨fun m => { m with pos := (m.pos + 1) % s.monReg }, _, rfl, .inl rfl, rfl, fun _ _ => rfl⟩

theorem monNext_shows {t : State} (ht : t = after monNext s) : t.mon.fifo = s.mon.fifo ∧ RegsBut monSts s t ∧
    t = { s with regs := t.regs, mon := t.mon } ∧
    (s.monTable = false → s.mon.inj = none → t.mon.pos = (s.mon.pos + 1) % s.monReg) := by
  obtain ⟨m, act, heq, hact, hfifo, hpos⟩ := monNext_eq s
  obtain ⟨u, hu⟩ : ∃ u, u = after (modMon m) s := ⟨_, rfl⟩
  have hcu : u.canon = true := hu ▸ after_canon _ s hc
  have hmu : u.mon = m s.mon := hu ▸ rfl
  have hru : u.regs = s.regs := hu ▸ rfl
  rw [after_congr heq, after_seqA_cons, after_seqA_cons, after_seqA_end, ← hu] at ht
  obtain ⟨hreg, hov, hmf, hmp⟩ : RegsBut monSts u t ∧ t = { u with regs := t.regs, mon := t.mon } ∧ t.mon.fifo = u.mon.fifo ∧ t.mon.pos = u.mon.pos := by
    obtain rfl | rfl := hact
    · obtain ⟨-, h2, -, -, h5, h6⟩ := monBegin_shows hcu ht
      exact ⟨h6, h5, by rw [h2], by rw [h2]⟩
    · obtain ⟨-, -, h3, h4⟩ := monShow_shows hcu ht
      have hm : t.mon = u.mon := by rw [h3]
      refine ⟨h4, ?_, by rw [hm], by rw [hm]⟩
      rw [hm]
      exact h3
  refine ⟨by rw [hmf, hmu, hfifo], fun k hk => (hreg k hk).trans (by rw [hru]), ?_, fun h1 h2 => by rw [hmp, hmu, hpos h1 h2]⟩
  rw [hov, hu]
  rfl

end

/-- The keys that looking at a result may write: the comparators' hits and, where a record of it is logged, event entries. -/
def monHit (k : Nat) : Prop := k = regKey .mon 0 0x640 ∨ evtKey k

theorem allowed_monCompare {P : State → Eff → Prop} (hP : AllowsEvents P) (hhit : ∀ s v, P s (.reg .mon 0 0x640 v)) (ch : Nat) (r : Int) (k : Nat)
    (s : State) : Allowed P (monCompare ch r k s) s := by
  have hf : ∀ s n, P s (.free n) := fun s n => hP s _ trivial rfl
  have hl := allowed_logEv_none hP
  simp only [monCompare]
  split
  · simp [hhit, hf, hl, logOpen]
  · exact .nil _

section
variable {s : State} (hc : s.canon = true)
include hc

theorem monCompares_show (ch : Nat) (r : Int) {t : State} (ht : t = after (forA (List.range 8) (monCompare ch r)) s) :
    t.mon = s.mon ∧ (∀ o, o < 65536 → o ≠ 0x640 → t.reg .mon 0 o = s.reg .mon 0 o) ∧
      t = { s with regs := t.regs, nvm := t.nvm, keeper := t.keeper, ports := t.ports, free := t.free, out := t.out } := by
  have hov := ht ▸ after_overlay [.regs, .nvm, .keeper, .ports, .free, .out] (a := forA (List.range 8) (monCompare ch r)) (s := s)
    (allowed_forA _ _ s fun k _ s => allowed_monCompare (allowsEvents_onlyFields (List.Subset.refl _)) (by simp) ch r k s)
  refine ⟨by rw [hov]; rfl, fun o ho hne => ?_, hov⟩
  have hreg := after_regIn (p := monHit) hc (allowed_forA (List.range 8) (monCompare ch r) s fun k _ s =>
    allowed_monCompare (AllowsReports.events (allowsReports_regIn fun _ h => .inr h)) (fun _ _ => .inl rfl) ch r k s) (k := regKey .mon 0 o) (by
      rintro (hk | ⟨n, v, hn, hv, hk⟩)
      · exact regKey_ne_of_off (by omega) hk
      · exact regKey_ne_of_blk (by decide) (by omega) hk)
  rw [← ht] at hreg
  exact hreg

/-- The word of the FIFO for a result. -/
def monWord (inj sat : Bool) (ch n x : Nat) : Word :=
  BitVec.ofNat 64 (2 ^ 63 + (if inj then 2 ^ 62 else 0) + (if sat then 2 ^ 61 else 0) + ch * 2 ^ 48 + n * 2 ^ 24 + x)

omit hc in
theorem monWord_of {inj sat : Bool} {ch n x : Nat} (hch : ch < 24) (hn : n < 2 ^ 24) (hx : x < 2 ^ 24) :
    F.MON_FIFO_RESULT.of (monWord inj sat ch n x) = x ∧ F.MON_FIFO_CH.of (monWord inj sat ch n x) = ch := by
  have hle : ∀ (b : Bool) (v : Nat), (if b then v else 0) = b.toNat * v := fun b v => by cases b <;> simp
  have hi := Bool.toNat_le inj
  have hs := Bool.toNat_le sat
  simp only [monWord, Fld.of, bitsOf, hle, BitVec.toNat_ofNat, Nat.shiftRight_eq_div_pow]
  omega

/-- The word of MON_RES for a result. -/
def monRes (sat : Bool) (n x : Nat) : Word := BitVec.ofNat 64 (2 ^ 63 + (if sat then 2 ^ 62 else 0) + n * 2 ^ 32 + x)

omit hc in
theorem monRes_of {sat : Bool} {n x : Nat} (hn : n < 2 ^ 24) (hx : x < 2 ^ 24) :
    F.MON_RES_VALID.of (monRes sat n x) = 1 ∧ F.MON_RES_RESULT.of (monRes sat n x) = x ∧ F.MON_RES_COUNT.of (monRes sat n x) = n := by
  have hle : ∀ (b : Bool) (v : Nat), (if b then v else 0) = b.toNat * v := fun b v => by cases b <;> simp
  have hs := Bool.toNat_le sat
  simp only [monRes, Fld.of, bitsOf, hle, BitVec.toNat_ofNat, Nat.shiftRight_eq_div_pow]
  omega

/-- A result in nanovolts, scaled and clamped to 24 bits (R460). -/
def monScaled (x : Int) : Int := clampI (roundDiv (x * 2 ^ 23) 1250000000) (-(2 ^ 23)) (2 ^ 23 - 1)

theorem monStore_shows {ch : Nat} (hch : ch < 24) (x : Int) {t : State} (ht : t = after (monStore ch x) s) :
    (t.fld (F.MON_RES_VALID.nth ch) 0 = 1 ∧ t.fld (F.MON_RES_RESULT.nth ch) 0 = tc 24 (monScaled x) ∧
      t.fld (F.MON_RES_COUNT.nth ch) 0 = (s.fld (F.MON_RES_COUNT.nth ch) 0 + 1) % 2 ^ 24) ∧
    (s.mon.fifo.length < 64 → ∃ w, t.mon.fifo = s.mon.fifo ++ [w] ∧ F.MON_FIFO_RESULT.of w = tc 24 (monScaled x) ∧ F.MON_FIFO_CH.of w = ch) ∧
    (64 ≤ s.mon.fifo.length → t.mon.fifo = s.mon.fifo ∧
      t.fld F.MON_FIFO_STS_DROPPED 0 = min (s.fld F.MON_FIFO_STS_DROPPED 0 + 1) F.MON_FIFO_STS_DROPPED.top) ∧
    t.mon = { s.mon with fifo := t.mon.fifo } ∧ (∀ o < 0x400, t.reg .mon 0 o = s.reg .mon 0 o) ∧
    t = { s with regs := t.regs, mon := t.mon, nvm := t.nvm, keeper := t.keeper, ports := t.ports, free := t.free, out := t.out } := by
  obtain ⟨n, hn⟩ : ∃ n, n = (bitsOf (s.reg .mon 0 (0x400 + 8 * ch)) 55 32 + 1) % 2 ^ 24 := ⟨_, rfl⟩
  obtain ⟨y, hy⟩ : ∃ y, y = tc 24 (monScaled x) := ⟨_, rfl⟩
  have hn24 : n < 2 ^ 24 := hn ▸ Nat.mod_lt _ (by decide)
  have hy24 : y < 2 ^ 24 := hy ▸ tc_lt 24 _
  obtain ⟨sat, hsat⟩ : ∃ b, b = (monResult x).2 := ⟨_, rfl⟩
  obtain ⟨w, hw⟩ : ∃ w, w = monWord s.mon.inj.isSome sat ch n y := ⟨_, rfl⟩
  obtain ⟨u, hu⟩ : ∃ u, u = after (setReg .mon 0 (0x400 + 8 * ch) (monRes sat n y)) s := ⟨_, rfl⟩
  obtain ⟨v, hv⟩ : ∃ v, v = after (if s.mon.fifo.length < 64 then
      seqA [modMon fun m => { m with fifo := m.fifo ++ [w] }, setF F.MON_FIFO_STS_LEVEL 0 (s.mon.fifo.length + 1)]
    else bump F.MON_FIFO_STS_DROPPED 0 1) u := ⟨_, rfl⟩
  have hcu : u.canon = true := hu ▸ after_canon _ s hc
  have hcv : v.canon = true := hv ▸ after_canon _ u hcu
  have htv : t = after (forA (List.range 8) (monCompare ch (monScaled x))) v := by
    rw [ht, after_congr (b := seqA [setReg .mon 0 (0x400 + 8 * ch) (monRes sat n y),
      if s.mon.fifo.length < 64 then
        seqA [modMon fun m => { m with fifo := m.fifo ++ [w] }, setF F.MON_FIFO_STS_LEVEL 0 (s.mon.fifo.length + 1)]
      else bump F.MON_FIFO_STS_DROPPED 0 1, forA (List.range 8) (monCompare ch (monScaled x))])
      (by simp only [monStore, hw, hn, hy, hsat]; rfl)]
    simp only [after_seqA_cons, after_seqA_end, ← hu, ← hv]
  obtain ⟨hmon, hreg, hov⟩ := monCompares_show hcv ch (monScaled x) htv
  have huov : u = { s with regs := u.regs } := hu ▸ after_overlay [.regs] (a := setReg .mon 0 (0x400 + 8 * ch) (monRes sat n y)) (by simp)
  have hru : ∀ o, o < 65536 → u.reg .mon 0 o = if o = 0x400 + 8 * ch then monRes sat n y else s.reg .mon 0 o := fun o ho => by
    split
    · rename_i h
      rw [h, hu, reg_setReg_same hc]
    · rename_i h
      rw [hu, reg_setReg s hc, if_neg (regKey_ne_of_off (by omega))]
  have hvov : v = { u with regs := v.regs, mon := v.mon } := hv ▸ after_overlay [.regs, .mon] (a := if s.mon.fifo.length < 64 then
      seqA [modMon fun m => { m with fifo := m.fifo ++ [w] }, setF F.MON_FIFO_STS_LEVEL 0 (s.mon.fifo.length + 1)]
    else bump F.MON_FIFO_STS_DROPPED 0 1) (by split <;> simp)
  have hrv : ∀ o, o < 65536 → o ≠ 0x508 → v.reg .mon 0 o = u.reg .mon 0 o := fun o ho hne => by
    refine hv ▸ after_regsBut (L := [regKey .mon 0 0x508]) hcu (by split <;> simp) (regKey .mon 0 o) ?_
    rw [List.mem_singleton]
    exact regKey_ne_of_off (by omega)
  have hrt : ∀ o, o < 65536 → o ≠ 0x508 → o ≠ 0x640 → t.reg .mon 0 o = if o = 0x400 + 8 * ch then monRes sat n y else s.reg .mon 0 o :=
    fun o ho h1 h2 => by rw [hreg o ho h2, hrv o ho h1, hru o ho]
  have hmu : u.mon = s.mon := by rw [huov]
  have hmv : v.mon = { s.mon with fifo := if s.mon.fifo.length < 64 then s.mon.fifo ++ [w] else s.mon.fifo } := by
    rw [hv]
    split
    · rw [after_seqA_cons, after_seqA_cons, after_seqA_end, hu]
      rfl
    · rw [hu]
      rfl
  refine ⟨?_, fun h => ?_, fun h => ?_, ?_, fun o ho => ?_, ?_⟩
  · have hres := hrt (0x400 + 8 * ch) (by omega) (by omega) (by omega)
    rw [if_pos rfl] at hres
    obtain ⟨h1, h2, h3⟩ := monRes_of (sat := sat) hn24 hy24
    simp only [State.fld, Fld.nth, hres]
    exact ⟨h1, h2.trans hy, h3.trans hn⟩
  · obtain ⟨h1, h2⟩ := monWord_of (inj := s.mon.inj.isSome) (sat := sat) hch hn24 hy24
    refine ⟨w, ?_, ?_, ?_⟩
    · rw [hmon, hmv, if_pos h]
    · rw [hw, h1, hy]
    · rw [hw, h2]
  · refine ⟨by rw [hmon, hmv, if_neg (Nat.not_lt.2 h)], ?_⟩
    have hd : t.fld F.MON_FIFO_STS_DROPPED 0 = v.fld F.MON_FIFO_STS_DROPPED 0 := by
      simp only [State.fld, hreg 0x508 (by decide) (by decide)]
    have hdu : u.fld F.MON_FIFO_STS_DROPPED 0 = s.fld F.MON_FIFO_STS_DROPPED 0 := by
      simp only [State.fld, hru 0x508 (by decide), if_neg (show ¬ 0x508 = 0x400 + 8 * ch by omega)]
    rw [hd, hv, if_neg (Nat.not_lt.2 h), fld_bump_same hcu _ _ _ (by decide), hdu]
  · rw [hmon, hmv]
  · rw [hrt o (by omega) (by omega) (by omega), if_neg (by omega)]
  · rw [hov, hvov, huov]

/-- R460–R463: a conversion of a channel that exists. -/
theorem monConversionDone_shows (x : Int) (hp : s.mon.phase = 2) (hch : s.monCh < 24) : ∃ t, exec (.monConversionDone x) s = .next t ∧
    t.fld (F.MON_RES_VALID.nth s.monCh) 0 = 1 ∧ t.fld (F.MON_RES_RESULT.nth s.monCh) 0 = tc 24 (monScaled x) ∧
    t.fld (F.MON_RES_COUNT.nth s.monCh) 0 = (s.fld (F.MON_RES_COUNT.nth s.monCh) 0 + 1) % 2 ^ 24 ∧
    (s.mon.fifo.length < 64 → ∃ w, t.mon.fifo = s.mon.fifo ++ [w] ∧ F.MON_FIFO_RESULT.of w = tc 24 (monScaled x) ∧ F.MON_FIFO_CH.of w = s.monCh) ∧
    (64 ≤ s.mon.fifo.length → t.mon.fifo = s.mon.fifo ∧
      t.fld F.MON_FIFO_STS_DROPPED 0 = min (s.fld F.MON_FIFO_STS_DROPPED 0 + 1) F.MON_FIFO_STS_DROPPED.top) ∧
    ((2 ≤ s.mon.phase ∧ s.monTable = false ∧ s.mon.inj = none) → t.mon.pos = (s.mon.pos + 1) % s.monReg) ∧
    t = { s with regs := t.regs, mon := t.mon, nvm := t.nvm, keeper := t.keeper, ports := t.ports, free := t.free, out := t.out } := by
  obtain ⟨u, hu⟩ : ∃ u, u = after (monStore s.monCh x) s := ⟨_, rfl⟩
  obtain ⟨t, ht⟩ : ∃ t, t = after monNext u := ⟨_, rfl⟩
  have hexec : exec (.monConversionDone x) s = .next t := by
    refine congrArg Host.Outcome.next (?_ : after (fun s => if s.mon.phase ≠ 2 then []
      else seqA [whenA (fun s => decide (s.monCh < 24)) (monStore s.monCh x), monNext] s) s = t)
    rw [after_congr (b := seqA [_, _]) (by simp only [hp, ne_eq, not_true_eq_false, if_false]; rfl), after_seqA_cons, after_seqA_cons,
      after_seqA_end, after_whenA, if_pos (by simpa using hch), ← hu, ht]
  obtain ⟨⟨h1, h2, h3⟩, h4, h5, h6, h7, h8⟩ := monStore_shows hc hch x hu
  obtain ⟨k1, k2, k3, k4⟩ := monNext_shows (hu ▸ after_canon _ s hc : u.canon = true) ht
  have hf : ∀ f : Fld, f.blk = .mon → 0x110 < f.off → t.fld f 0 = u.fld f 0 := fun f hb ho =>
    fld_of_regsBut k2 (by rw [hb]; exact not_monSts ho)
  have hinj : u.mon.inj = s.mon.inj := by rw [h6]
  have hpos : u.mon.pos = s.mon.pos := by rw [h6]
  have htab : u.monTable = s.monTable := by
    simp only [State.monTable, State.fld, h7 0x108 (by decide)]
  have hlen : u.monReg = s.monReg := by
    simp only [State.monReg, State.fld, h7 0x118 (by decide)]
  refine ⟨t, hexec, ?_, ?_, ?_, fun h => ?_, fun h => ?_, fun ⟨_, q1, q2⟩ => ?_, ?_⟩
  · rw [hf _ rfl (by simp [Fld.nth]; omega), h1]
  · rw [hf _ rfl (by simp [Fld.nth]; omega), h2]
  · rw [hf _ rfl (by simp [Fld.nth]; omega), h3]
  · rw [k1]
    exact h4 h
  · rw [k1, hf _ rfl (by decide)]
    exact h5 h
  · rw [k4 (htab.trans q1) (hinj.trans q2), hpos, hlen]
  · rw [k3, h8]

end

/-- Settles O53. -/
theorem monitoring : Obligations.Monitoring := by
  intro s hc
  exact ⟨fun src v htk => ⟨fun hv => monEnable_shows hc htk hv, fun hv hen hr => injSw_shows hc htk hv hen hr⟩,
    fun cause h0 h1 hr => monInjectedTrigger_shows hc cause h0 h1 hr, fun hp => monStartupDone_shows hc hp,
    fun hp => monDelayExpiry_shows hc hp, fun x hp hch => monConversionDone_shows hc x hp hch, fun src hk => monFifoRead_shows hc src hk⟩

end Sys2Proof.Machine
end

section
/-!
SUPPORT. The rails going off (R481, R484): what is lost, what shows, and what stays.
-/
namespace Sys2Proof.Machine

/-- The keys that the rails going off may write: of the ports, the links, the debug state and the power state. -/
def railsKey (k : Nat) : Prop :=
  evtKey k ∨ ∃ b ∈ [Blk.trl, .bfp, .sec, .pwr], ∃ i < 12, ∃ o < 65536, k = regKey b i o

theorem railsKey_of {b : Blk} {i o : Nat} (h : b ∈ [Blk.trl, .bfp, .sec, .pwr] ∧ i < 12 ∧ o < 65536) : railsKey (regKey b i o) :=
  .inr ⟨b, h.1, i, h.2.1, o, h.2.2, rfl⟩

theorem not_railsKey {b : Blk} {i o : Nat} (hb : b ∉ [Blk.trl, .bfp, .sec, .pwr]) (h : i < 1048576 ∧ o < 65536) : ¬ railsKey (regKey b i o) := by
  have hcode : ∀ b' ∈ [Blk.trl, .bfp, .sec, .pwr], b.code ≠ b'.code := by
    revert hb
    cases b <;> decide
  rintro (⟨n, v, hn, hv, hk⟩ | ⟨b', hb', i', hi', o', ho', hk⟩)
  · exact regKey_ne_of_blk (hcode .trl (by simp)) (by omega) hk
  · exact regKey_ne_of_blk (hcode b' hb') (by omega) hk

/-! ## What debug and a port that holds nothing show -/

theorem debugEnd_frame (s : State) :
    after debugEnd s = { s with regs := (after debugEnd s).regs, sec := { s.sec with tokenEnds := 0 } } := by
  have hov := after_overlay [.regs, .sec] (a := debugEnd) (s := s) (by simp [debugEnd])
  have hsec : (after debugEnd s).sec = { s.sec with tokenEnds := 0 } := by
    simp only [debugEnd, after_seqA_cons, after_seqA_end]
    rfl
  rw [hov, ← hsec]
  rfl

/-- Ports that hold nothing, and DMA channels without a descriptor at hand. -/
structure PortsEmpty (s : State) : Prop where
  ports : s.ports = []
  dma : ∀ d, d < 32 → ∀ c, (s.dma d c).cur = none

/-- What the registers of a port that goes off show. -/
def portRegs (n st cause : Nat) : Act :=
  seqA [whenA (fun s => s.fld F.TRL_LNK_STS_STATE n == 2) (bump F.TRL_LNK_STS_DOWNS n 1),
    setF F.TRL_LNK_STS_STATE n st, setF F.TRL_LNK_STS_CAUSE n cause, setF F.TRL_LNK_STS_LANES n 0, setF F.TRL_LNK_STS_REV n 0]

/-- What a port that goes off shows, before it loses what it holds: debug that was open to it ends. -/
def portShow (n st cause : Nat) : Act :=
  seqA [portRegs n st cause, whenA (fun s => s.debug == 1 && s.fld F.SEC_STS_DBG_PORT 0 == n) debugEnd]

theorem portOff_eq {s : State} (h : PortsEmpty s) (n st cause : Nat) : after (portOff n st cause) s = after (portShow n st cause) s := by
  have hport : s.port n = TPort.zero := by
    rw [State.port, h.ports]
    rfl
  have hchans : ((allDies.flatMap fun d => [(d, 0), (d, 1)]).filter fun x =>
      let y := s.dma x.1 x.2
      F.DMA_CH_CFG_PORT.of y.curCfg == n && y.cur.any fun b => (descSide b 0).space == 1 || (descSide b 1).space == 1) = [] := by
    rw [List.filter_eq_nil_iff]
    intro x hx
    obtain ⟨d, hd, hm⟩ := List.mem_flatMap.1 hx
    have hx1 : x.1 = d := by
      simp only [List.mem_cons, List.not_mem_nil, or_false] at hm
      obtain rfl | rfl := hm <;> rfl
    simp only [hx1, h.dma d (List.mem_range.1 hd), Option.any_none, Bool.and_false, Bool.false_eq_true, not_false_eq_true]
  obtain ⟨f, hf, heq⟩ : ∃ f : TPort → TPort, f TPort.zero = TPort.zero ∧ portOff n st cause s =
      seqA [whenA (fun s => s.fld F.TRL_LNK_STS_STATE n == 2) (bump F.TRL_LNK_STS_DOWNS n 1),
        setF F.TRL_LNK_STS_STATE n st, setF F.TRL_LNK_STS_CAUSE n cause, setF F.TRL_LNK_STS_LANES n 0, setF F.TRL_LNK_STS_REV n 0,
        skip, skip, whenA (fun s => s.debug == 1 && s.fld F.SEC_STS_DBG_PORT 0 == n) debugEnd, modPort n f, skip] s := by
    refine ⟨fun p => { TPort.zero with dropWb := p.dropWb, holdoff := p.holdoff, evData := p.evData, snpTag := p.snpTag, rdTag := p.rdTag,
                                       held := p.held.filter HostReq.isRemap }, rfl, ?_⟩
    simp only [portOff, hport, hchans]
    rfl
  have hshow : (after (portShow n st cause) s).ports = [] := by
    rw [after_read_eq (fs := [.regs, .sec]) (a := portShow n st cause) State.ports (by simp [portShow, portRegs, debugEnd]) fun _ => rfl, h.ports]
  have hset : ∀ x : State, x.ports = [] → after (modPort n f) x = x := fun x hx => by
    have hz : x.port n = TPort.zero := by
      rw [State.port, hx]
      rfl
    have hap : after (modPort n f) x = { x with ports := SMap.set (fun _ => TPort.zero) x.ports n (f (x.port n)) } := rfl
    have hx' : { x with ports := [] } = x := by
      rw [← hx]
    rw [hap, hz, hf, hx, SMap.set, if_pos rfl, hx']
  rw [after_congr heq]
  rw [portShow, portRegs] at hshow ⊢
  simp only [after_seqA_cons, after_seqA_end, after_skipped] at hshow ⊢
  exact hset _ hshow

theorem portShow_frame (n st cause : Nat) (s : State) :
    after (portShow n st cause) s = State.overlay [.regs, .sec] s (after (portShow n st cause) s) :=
  after_overlay [.regs, .sec] (by simp [portShow, portRegs, debugEnd])

theorem portRegs_frame (n st cause : Nat) (s : State) :
    after (portRegs n st cause) s = { s with regs := (after (portRegs n st cause) s).regs } :=
  after_overlay [.regs] (a := portRegs n st cause) (s := s) (by simp [portRegs])

theorem portShow_sec (n st cause : Nat) (s : State) :
    (after (portShow n st cause) s).sec = s.sec ∨ (after (portShow n st cause) s).sec = { s.sec with tokenEnds := 0 } := by
  have hregs := portRegs_frame n st cause s
  simp only [portShow, after_seqA_cons, after_seqA_end, after_whenA]
  split
  · refine .inr ?_
    rw [debugEnd_frame, hregs]
  · refine .inl ?_
    rw [hregs]

/-- The states on the way of the rails off: of ports that hold nothing, in which all but registers and the token's end is as in s. -/
structure Unported (s t : State) : Prop where
  frame : t = { s with regs := t.regs, sec := t.sec }
  sec : t.sec = s.sec ∨ t.sec = { s.sec with tokenEnds := 0 }
  regs : ∀ k, ¬ railsKey k → SMap.get regResetKey t.regs k = SMap.get regResetKey s.regs k

theorem Unported.refl (s : State) : Unported s s := ⟨rfl, .inl rfl, fun _ _ => rfl⟩

theorem Unported.trans {s t u : State} (h1 : Unported s t) (h2 : Unported t u) : Unported s u where
  frame := by rw [h2.frame, h1.frame]
  sec := by
    obtain h | h := h1.sec <;> obtain h' | h' := h2.sec
    · exact .inl (h'.trans h)
    · exact .inr (by rw [h', h])
    · exact .inr (by rw [h', h])
    · exact .inr (by rw [h', h])
  regs := fun k hk => (h2.regs k hk).trans (h1.regs k hk)

theorem Unported.empty {s t : State} (h : Unported s t) (he : PortsEmpty s) : PortsEmpty t where
  ports := by rw [h.frame]; exact he.ports
  dma := fun d hd c => by rw [h.frame]; exact he.dma d hd c

theorem unported_portOff {s : State} (hc : s.canon = true) (he : PortsEmpty s) {n : Nat} (hn : n < 12) (st cause : Nat) :
    Unported s (after (portOff n st cause) s) := by
  rw [portOff_eq he]
  refine ⟨portShow_frame n st cause s, portShow_sec n st cause s, fun k hk => after_regIn hc ?_ hk⟩
  have hk : ∀ b o, b ∈ [Blk.trl, .bfp, .sec, .pwr] → o < 65536 → railsKey (regKey b n o) := fun b o hb ho => railsKey_of ⟨hb, hn, ho⟩
  have hz : ∀ b o, b ∈ [Blk.trl, .bfp, .sec, .pwr] → o < 65536 → railsKey (regKey b 0 o) := fun b o hb ho => railsKey_of ⟨hb, by decide, ho⟩
  simp [portShow, portRegs, debugEnd, hk, hz]

theorem fld_portOff {s : State} (hc : s.canon = true) (he : PortsEmpty s) {n : Nat} (hn : n < 12) (st cause : Nat) :
    (after (portOff n st cause) s).fld F.TRL_LNK_STS_STATE n = st % (F.TRL_LNK_STS_STATE.top + 1) := by
  have hcr : (after (portRegs n st cause) s).canon = true := after_canon _ s hc
  have hdbg : ∀ x : State, x.canon = true → (after debugEnd x).fld F.TRL_LNK_STS_STATE n = x.fld F.TRL_LNK_STS_STATE n := fun x hx =>
    fld_after_of_regIn hx (p := fun k => ∃ o < 65536, k = regKey .sec 0 o) (by
      have hk : ∀ o, o < 65536 → ∃ o' < 65536, regKey .sec 0 o = regKey .sec 0 o' := fun o ho => ⟨o, ho, rfl⟩
      simp [debugEnd, hk]) (by
      rintro ⟨o, ho, hk⟩
      exact regKey_ne_of_blk (by decide) (by simp; omega) hk)
  have hport : (after (portRegs n st cause) s).fld F.TRL_LNK_STS_STATE n = st % (F.TRL_LNK_STS_STATE.top + 1) := by
    simp (disch := repeat' (first | assumption | apply after_canon | decide)) only [portRegs, after_seqA_cons, after_seqA_end, fld_set_bits, fld_set_same]
    rfl
  rw [portOff_eq he, portShow, after_seqA_cons, after_seqA_cons, after_seqA_end, after_whenA]
  split
  · rw [hdbg _ hcr, hport]
  · exact hport

theorem fld_portOff_other {s : State} (hc : s.canon = true) (he : PortsEmpty s) {n m : Nat} (hn : n < 12) (hm : m < 12) (hne : m ≠ n) (st cause : Nat) :
    (after (portOff n st cause) s).fld F.TRL_LNK_STS_STATE m = s.fld F.TRL_LNK_STS_STATE m := by
  rw [portOff_eq he]
  refine fld_after_of_regIn hc (p := fun k => ∃ o < 65536, k = regKey .trl n o ∨ k = regKey .sec 0 o) ?_ ?_
  · have h1 : ∀ o, o < 65536 → ∃ o' < 65536, regKey .trl n o = regKey .trl n o' ∨ regKey .trl n o = regKey .sec 0 o' := fun o ho => ⟨o, ho, .inl rfl⟩
    have h2 : ∀ o, o < 65536 → ∃ o' < 65536, regKey .sec 0 o = regKey .trl n o' ∨ regKey .sec 0 o = regKey .sec 0 o' := fun o ho => ⟨o, ho, .inr rfl⟩
    simp [portShow, portRegs, debugEnd, h1, h2]
  · rintro ⟨o, ho, hk | hk⟩
    · exact hne (regKey_inj (by omega) (by omega) (by simp) ho hk).2.1
    · exact regKey_ne_of_blk (by decide) (by simp; omega) hk

/-- All ports of a list go off. -/
theorem portsOff_show : ∀ {l : List Nat} {s : State}, s.canon = true → PortsEmpty s → (∀ n ∈ l, n < 12) → l.Nodup →
    let t := after (forA l fun n => portOff n 0 0) s
    Unported s t ∧ (∀ m, m < 12 → m ∉ l → t.fld F.TRL_LNK_STS_STATE m = s.fld F.TRL_LNK_STS_STATE m) ∧ (∀ n ∈ l, t.fld F.TRL_LNK_STS_STATE n = 0)
  | [], s, _, _, _, _ => ⟨Unported.refl s, fun _ _ _ => rfl, by simp⟩
  | a :: l, s, hc, he, hl, hn => by
    obtain ⟨ha, hn'⟩ := List.nodup_cons.1 hn
    have ha12 := hl a (List.mem_cons_self ..)
    obtain ⟨u, hu⟩ : ∃ u, u = after (portOff a 0 0) s := ⟨_, rfl⟩
    have hcu : u.canon = true := hu ▸ after_canon _ s hc
    have h1 : Unported s u := hu ▸ unported_portOff hc he ha12 0 0
    obtain ⟨h2, h3, h4⟩ := portsOff_show hcu (h1.empty he) (fun n hn => hl n (List.mem_cons_of_mem _ hn)) hn'
    rw [after_forA_cons, ← hu]
    refine ⟨h1.trans h2, fun m hm hnot => ?_, fun n hm => ?_⟩
    · obtain ⟨hna, hnl⟩ := not_or.1 fun h => hnot (List.mem_cons.2 h)
      rw [h3 m hm hnl, hu, fld_portOff_other hc he ha12 hm hna]
    · obtain rfl | hm := List.mem_cons.1 hm
      · rw [h3 n ha12 ha, hu, fld_portOff hc he ha12]
        rfl
      · exact h4 n hm

/-! ## Links -/

/-- What a fabric link that goes off shows. -/
def linkRegs (n : Nat) : Act :=
  seqA [setF F.BFP_LNK_STS_STATE n 0, setF F.BFP_LNK_STS_CAUSE n 0, setF F.BFP_LNK_STS_QUADS n 0]

theorem linkRegs_frame (n : Nat) (s : State) : after (linkRegs n) s = { s with regs := (after (linkRegs n) s).regs } :=
  after_overlay [.regs] (a := linkRegs n) (s := s) (by simp [linkRegs])

theorem linkRegs_regsBut {s : State} (hc : s.canon = true) (n : Nat) : RegsBut [regKey .bfp n 0x100] s (after (linkRegs n) s) :=
  after_regsBut hc (by simp [linkRegs])

theorem linksOff_show : ∀ {l : List Nat} {s : State}, s.canon = true → (∀ n ∈ l, n < 12) → l.Nodup →
    let t := after (forA l linkRegs) s
    t = { s with regs := t.regs } ∧ RegsBut (l.map fun n => regKey .bfp n 0x100) s t ∧ (∀ n ∈ l, t.fld F.BFP_LNK_STS_STATE n = 0)
  | [], s, _, _, _ => ⟨rfl, fun _ _ => rfl, by simp⟩
  | a :: l, s, hc, hl, hn => by
    obtain ⟨ha, hn'⟩ := List.nodup_cons.1 hn
    have ha12 := hl a (List.mem_cons_self ..)
    obtain ⟨u, hu⟩ : ∃ u, u = after (linkRegs a) s := ⟨_, rfl⟩
    have hcu : u.canon = true := hu ▸ after_canon _ s hc
    obtain ⟨h2, h3, h4⟩ := linksOff_show hcu (fun n hn => hl n (List.mem_cons_of_mem _ hn)) hn'
    have h1 := linkRegs_frame a s
    have hr := linkRegs_regsBut hc a
    rw [← hu] at h1 hr
    rw [after_forA_cons, ← hu]
    refine ⟨by rw [h2, h1], fun k hk => ?_, fun n hm => ?_⟩
    · rw [List.map_cons] at hk
      obtain ⟨hka, hkl⟩ := not_or.1 fun h => hk (List.mem_cons.2 h)
      rw [h3 k hkl, hr k (by rwa [List.mem_singleton])]
    · obtain rfl | hm := List.mem_cons.1 hm
      · have hout : regKey .bfp n 0x100 ∉ l.map fun n => regKey .bfp n 0x100 := fun hm => by
          obtain ⟨d, hd, he⟩ := List.mem_map.1 hm
          have hdn : d = n := by
            simp only [regKey] at he
            omega
          exact ha (hdn ▸ hd)
        rw [fld_of_regsBut (f := F.BFP_LNK_STS_STATE) h3 hout, hu]
        simp (disch := repeat' (first | assumption | apply after_canon | decide)) only [linkRegs, after_seqA_cons, after_seqA_end, fld_set_bits, fld_set_same]
        rfl
      · exact h4 n hm

/-! ## Rewrites cut short -/

/-- What a rewrite that is cut short leaves: one more in its tile's summary, and in the unit history where it is the 90,000th. -/
def Rewritten (s : State) (e : Eff) : Prop :=
  match e with
  | .nvm n => n.sansLog = { s.nvm.sansLog with tsum := n.tsum, uhist := n.uhist } ∧ (s.nvm.worn = true → n.worn = true)
  | e => Report s e

theorem allowsReports_rewritten : AllowsReports Rewritten := fun s e he => by
  cases e with
  | nvm n =>
    obtain ⟨hn, hw⟩ := he
    have h1 : n.tsum = s.nvm.tsum := by have h := congrArg Nvm.tsum hn; exact h
    have h2 : n.uhist = s.nvm.uhist := by have h := congrArg Nvm.uhist hn; exact h
    refine ⟨?_, hw⟩
    rw [hn, h1, h2]
    rfl
  | _ => exact he

theorem allowed_histRing (r : HistRec) (s : State) : Allowed Rewritten (histRing r s) s := by
  have hR := allowsReports_rewritten
  simp only [histRing, allowed_seqA_cons, allowed_seqA_nil, and_true]
  exact ⟨allowed_nvmWrite hR.events _ (fun s => (allowed_modNvm _ _).2 ⟨by exact rfl, fun h => h⟩) s, allowed_logEv hR ..⟩

theorem allowed_cutProg (d : Nat) (s : State) : Allowed Rewritten (cutProg d s) s := by
  refine allowed_forA _ _ s fun q _ s => ?_
  simp only [countRewrite, allowed_seqA_cons, allowed_modTsum, allowed_seqA_nil, and_true, allowed_whenA]
  exact ⟨⟨rfl, id⟩, fun _ => allowed_histRing _ _⟩

/-- Non-volatile memory but for its log, the tiles' summaries and the unit history. -/
def Nvm.sansTiles (n : Nvm) : Nvm := { n.sansLog with tsum := [], uhist := [] }

theorem sansTiles_eq_iff {n n' : Nvm} : n'.sansTiles = n.sansTiles ↔ n'.sansLog = { n.sansLog with tsum := n'.tsum, uhist := n'.uhist } := by
  simp [Nvm.sansTiles, Nvm.sansLog]

/-- What rewrites cut short leave. -/
theorem cutProgs_frame {s : State} (hc : s.canon = true) (l : List Nat) :
    let t := after (forA l cutProg) s
    t = { s with regs := t.regs, nvm := t.nvm, keeper := t.keeper, dies := t.dies, ports := t.ports, free := t.free, out := t.out } ∧
      t.nvm.sansLog = { s.nvm.sansLog with tsum := t.nvm.tsum, uhist := t.nvm.uhist } ∧
      ∀ k, ¬ railsKey k → SMap.get regResetKey t.regs k = SMap.get regResetKey s.regs k := by
  have hall : Allowed Rewritten (forA l cutProg s) s := allowed_forA _ _ s fun d _ s => allowed_cutProg d s
  refine ⟨after_overlay [.regs, .nvm, .keeper, .dies, .ports, .free, .out] (a := forA l cutProg) (hall.mono fun s e he => ?_), ?_,
    fun k hk => after_regIn hc (p := railsKey) (hall.mono fun s e he => ?_) hk⟩
  · cases e with
    | nvm => simp
    | _ => exact allowsReports_onlyFields (List.Subset.refl _) s _ he
  · refine sansTiles_eq_iff.1 (Allowed.rel (R := fun s t => t.nvm.sansTiles = s.nvm.sansTiles)
      ⟨fun _ => rfl, fun _ _ _ h1 h2 => h2.trans h1⟩ (fun s e _ he => ?_) hc hall)
    cases e with
    | nvm n => exact sansTiles_eq_iff.2 he.1
    | _ => rfl
  · cases e with
    | reg => exact .inl he
    | _ => trivial

/-- With no array being programmed, nothing is cut short. -/
theorem cutProgs_idle {s : State} {l : List Nat} (h : ∀ d ∈ l, (s.die d).progNow = []) : after (forA l cutProg) s = s :=
  after_forA_of_forall_eq s _ l fun d hd => by
    rw [after_congr (b := skip) (by rw [cutProg, h d hd]; rfl), after_skipped]

/-! ## The rails -/

/-- What a die keeps with the rails off. -/
def Die.unpowered (x : Die) : Die :=
  { Die.zero with forbid := x.forbid, unusable := x.unusable, tierFaulty := x.tierFaulty, badWays := x.badWays }

/-- From s to t the rails have gone off with a code. -/
structure RailsOff (code : Nat) (s t : State) : Prop where
  power : t.power = { s.power with rails := false, gated := true, parked := false, ramp := 0, drainFor := 0, wake := false }
  passages : t.passages = []
  mem : t.mem = []
  cells : t.cells = s.cells
  jobs : t.jobs = []
  ports : ∀ n, n < 4 → t.fld F.TRL_LNK_STS_STATE n = 0
  links : ∀ n, n < 12 → t.fld F.BFP_LNK_STS_STATE n = 0
  nvm : t.nvm.sansLog = { s.nvm.sansLog with tsum := t.nvm.tsum, uhist := t.nvm.uhist }
  idle : (∀ d, d < 32 → (s.die d).progNow = []) → t.nvm = s.nvm
  code : t.fld F.PWR_STATE_CODE 0 = code % (F.PWR_STATE_CODE.top + 1)
  busy : t.fld F.PWR_STATE_BUSY 0 = 0
  mon : t.mon = s.mon
  sensors : t.sensors = s.sensors
  regs : ∀ b i o, b ∉ [Blk.trl, .bfp, .sec, .pwr] → i < 1048576 → o < 65536 → t.reg b i o = s.reg b i o

theorem RailsOff.pstate {code : Nat} {s t : State} (h : RailsOff code s t) : t.pstate = 3 := by
  rw [State.pstate, h.power]
  rfl

theorem RailsOff.fld {code : Nat} {s t : State} (h : RailsOff code s t) (f : Fld) (i : Nat) (hb : f.blk ∉ [Blk.trl, .bfp, .sec, .pwr])
    (ho : i < 1048576 ∧ f.off < 65536) : t.fld f i = s.fld f i := by
  rw [State.fld, h.regs f.blk i f.off hb ho.1 ho.2, State.fld]

theorem railsOff_shows {s : State} (hc : s.canon = true) (code : Nat) : RailsOff code s (after (railsOff code) s) := by
  obtain ⟨s1, h1⟩ : ∃ x, x = after (forA allDies cutProg) s := ⟨_, rfl⟩
  obtain ⟨s2, h2⟩ : ∃ x, x = after (eff fun _ => .lost false) s1 := ⟨_, rfl⟩
  obtain ⟨s3, h3⟩ : ∃ x, x = after (forA allDies fun d => modDie d Die.unpowered) s2 := ⟨_, rfl⟩
  obtain ⟨s4, h4⟩ : ∃ x, x = after (forA allPorts fun n => portOff n 0 0) s3 := ⟨_, rfl⟩
  obtain ⟨s5, h5⟩ : ∃ x, x = after (forA (List.range 12) linkRegs) s4 := ⟨_, rfl⟩
  obtain ⟨s6, h6⟩ : ∃ x, x = after debugEnd s5 := ⟨_, rfl⟩
  obtain ⟨s7, h7⟩ : ∃ x, x = after (modPower fun p => { p with rails := false, gated := true, parked := false, ramp := 0, drainFor := 0, wake := false }) s6 := ⟨_, rfl⟩
  obtain ⟨t, ht⟩ : ∃ x, x = after (setF F.PWR_STATE_BUSY 0 0) (after (setF F.PWR_STATE_CODE 0 code) (after (setF F.PWR_STATE_TARGET 0 3)
    (after (setF F.PWR_STATE_STATE 0 3) s7))) := ⟨_, rfl⟩
  have heq : after (railsOff code) s = t := by
    rw [railsOff]
    simp only [after_seqA_cons, after_seqA_end]
    rw [← h1, ← h2]
    rw [show (forA allDies fun d => modDie d fun x => { Die.zero with forbid := x.forbid, unusable := x.unusable, tierFaulty := x.tierFaulty, badWays := x.badWays })
      = forA allDies fun d => modDie d Die.unpowered from rfl, ← h3, ← h4,
      show (forA (List.range 12) fun n => seqA [setF F.BFP_LNK_STS_STATE n 0, setF F.BFP_LNK_STS_CAUSE n 0, setF F.BFP_LNK_STS_QUADS n 0])
      = forA (List.range 12) linkRegs from rfl, ← h5, ← h6, ← h7, ht]
  rw [heq]
  have hc1 : s1.canon = true := h1 ▸ after_canon _ s hc
  have hc2 : s2.canon = true := h2 ▸ after_canon _ s1 hc1
  have hc3 : s3.canon = true := h3 ▸ after_canon _ s2 hc2
  have hc4 : s4.canon = true := h4 ▸ after_canon _ s3 hc3
  have hc5 : s5.canon = true := h5 ▸ after_canon _ s4 hc4
  have hc6 : s6.canon = true := h6 ▸ after_canon _ s5 hc5
  have hc7 : s7.canon = true := h7 ▸ after_canon _ s6 hc6
  obtain ⟨hf1, hn1, hr1⟩ := cutProgs_frame hc allDies
  rw [← h1] at hf1 hn1 hr1
  have hf2 : s2 = Eff.ap (.lost false) s1 := h2
  have hf3 : s3 = { s2 with dies := s3.dies } := h3 ▸ forA_modDie_frame _ s2
  have he3 : PortsEmpty s3 := by
    refine ⟨by rw [hf3, hf2]; rfl, fun d hd c => ?_⟩
    have hdie : s3.die d = (s2.die d).unpowered := by
      rw [h3, die_forA_modDie hc2 (show allDies.Nodup from List.nodup_range), if_pos (show d ∈ allDies from List.mem_range.2 hd)]
    rw [State.dma, hdie]
    split <;> rfl
  obtain ⟨⟨hf4, -, hr4⟩, -, hp4⟩ := portsOff_show hc3 he3 (l := allPorts) (fun n hn => by have := List.mem_range.1 hn; omega) List.nodup_range
  rw [← h4] at hf4 hr4 hp4
  obtain ⟨hf5, hr5, hl5⟩ := linksOff_show hc4 (l := List.range 12) (fun n hn => List.mem_range.1 hn) List.nodup_range
  rw [← h5] at hf5 hr5 hl5
  have hf6 : s6 = { s5 with regs := s6.regs, sec := { s5.sec with tokenEnds := 0 } } := by
    have h := debugEnd_frame s5
    rwa [← h6] at h
  have hr6 : RegsBut [regKey .sec 0 0x100, regKey .sec 0 0x188] s5 s6 := h6 ▸ after_regsBut hc5 (by simp [debugEnd])
  have hf7 : s7 = { s6 with power := s7.power } := h7 ▸ rfl
  have hp7 : s7.power = { s6.power with rails := false, gated := true, parked := false, ramp := 0, drainFor := 0, wake := false } := h7 ▸ rfl
  have hft : t = { s7 with regs := t.regs } := by
    have h := after_overlay [.regs] (a := seqA [setF F.PWR_STATE_STATE 0 3, setF F.PWR_STATE_TARGET 0 3, setF F.PWR_STATE_CODE 0 code,
      setF F.PWR_STATE_BUSY 0 0]) (s := s7) (by simp)
    simp only [after_seqA_cons, after_seqA_end, ← ht] at h
    exact h
  have hrt : RegsBut [regKey .pwr 0 0x100] s7 t := by
    have h := after_regsBut (L := [regKey .pwr 0 0x100]) (a := seqA [setF F.PWR_STATE_STATE 0 3, setF F.PWR_STATE_TARGET 0 3, setF F.PWR_STATE_CODE 0 code,
      setF F.PWR_STATE_BUSY 0 0]) hc7 (by simp)
    simp only [after_seqA_cons, after_seqA_end, ← ht] at h
    exact h
  have hr27 : s7.regs = s6.regs := by rw [hf7]
  have hr23 : s3.regs = s1.regs := by rw [hf3, hf2]; rfl
  -- the fields of ports and links, once they show the rails off
  have h67 : ∀ k, k ∉ [regKey .sec 0 0x100, regKey .sec 0 0x188, regKey .pwr 0 0x100] →
      SMap.get regResetKey t.regs k = SMap.get regResetKey s5.regs k := fun k hk => by
    simp only [List.mem_cons, List.not_mem_nil, or_false, not_or] at hk
    obtain ⟨hk1, hk2, hk3⟩ := hk
    rw [hrt k (by simpa using hk3), hr27, hr6 k (by simp [hk1, hk2])]
  have hkeep : ∀ k, ¬ railsKey k → SMap.get regResetKey t.regs k = SMap.get regResetKey s.regs k := fun k hk => by
    have hlinks : k ∉ (List.range 12).map fun n => regKey .bfp n 0x100 := fun hm => by
      obtain ⟨n, hn, rfl⟩ := List.mem_map.1 hm
      exact hk (railsKey_of ⟨by simp, List.mem_range.1 hn, by decide⟩)
    rw [h67 k, hr5 k hlinks, hr4 k hk, hr23, hr1 k hk]
    simp only [List.mem_cons, List.not_mem_nil, or_false, not_or]
    refine ⟨?_, ?_, ?_⟩ <;> rintro rfl <;> exact hk (railsKey_of ⟨by simp, by decide, by decide⟩)
  have hfld5 : ∀ f : Fld, ∀ i, f.blk ∈ [Blk.trl, .bfp] → i < 12 → f.off < 65536 → t.fld f i = s5.fld f i := fun f i hb hi ho => by
    have hcode : f.blk.code ≠ Blk.sec.code ∧ f.blk.code ≠ Blk.pwr.code := by
      revert hb
      cases f.blk <;> decide
    have hk := h67 (regKey f.blk i f.off) (by
      simp only [List.mem_cons, List.not_mem_nil, or_false, not_or]
      exact ⟨regKey_ne_of_blk hcode.1 (by omega), regKey_ne_of_blk hcode.1 (by omega), regKey_ne_of_blk hcode.2 (by omega)⟩)
    simp only [State.fld, State.reg, hk]
  have hpow : s6.power = s.power := by rw [hf6, hf5, hf4, hf3, hf2, hf1]; rfl
  have hnvm : t.nvm = s1.nvm := by rw [hft, hf7, hf6, hf5, hf4, hf3, hf2]; rfl
  refine { power := ?_, passages := ?_, mem := ?_, cells := ?_, jobs := ?_, ports := fun n hn => ?_, links := fun n hn => ?_, nvm := ?_, idle := fun h => ?_,
           code := ?_, busy := ?_, mon := ?_, sensors := ?_, regs := fun b i o hb hi ho => hkeep _ (not_railsKey hb ⟨hi, ho⟩) }
  · rw [hft, hp7, hpow]
  · rw [hft, hf7, hf6, hf5, hf4, hf3, hf2]; rfl
  · rw [hft, hf7, hf6, hf5, hf4, hf3, hf2]; rfl
  · rw [hft, hf7, hf6, hf5, hf4, hf3, hf2, hf1]; rfl
  · rw [hft, hf7, hf6, hf5, hf4, hf3, hf2]; rfl
  · have hlinks : regKey .trl n 0x100 ∉ (List.range 12).map fun n => regKey .bfp n 0x100 := fun hm => by
      obtain ⟨m, hm, hk⟩ := List.mem_map.1 hm
      exact regKey_ne_of_blk (by decide) (by have := List.mem_range.1 hm; omega) hk
    rw [hfld5 F.TRL_LNK_STS_STATE n (by simp) (by omega) (by decide), fld_of_regsBut (f := F.TRL_LNK_STS_STATE) hr5 hlinks,
      hp4 n (List.mem_range.2 hn)]
  · rw [hfld5 F.BFP_LNK_STS_STATE n (by simp) hn (by decide), hl5 n (List.mem_range.2 hn)]
  · rw [hnvm, hn1]
  · rw [hnvm, h1, cutProgs_idle (l := allDies) fun d hd => h d (List.mem_range.1 hd)]
  · rw [ht]
    simp (disch := repeat' (first | assumption | apply after_canon | decide)) only [fld_set_bits, fld_set_same]
    rfl
  · rw [ht]
    simp (disch := repeat' (first | assumption | apply after_canon | decide)) only [fld_set_same]
    rfl
  · rw [hft, hf7, hf6, hf5, hf4, hf3, hf2, hf1]; rfl
  · rw [hft, hf7, hf6, hf5, hf4, hf3, hf2, hf1]; rfl

end Sys2Proof.Machine
end

section
/-!
SUPPORT. Requests for power states (R482, R483).
-/
namespace Sys2Proof.Machine

section
variable {s : State} (hc : s.canon = true)
include hc

/-- A request that the source may make, while none is at hand. -/
def State.asksPower (s : State) (src : Src) (v : Word) : Prop :=
  s.takes src .pwr 0 0x108 = true ∧ F.PWR_CMD_GO.of v = 1 ∧ s.flag F.PWR_STATE_BUSY 0 = false

/-- The command and state registers. -/
def pwrRegs : List Nat := [regKey .pwr 0 0x108, regKey .pwr 0 F.PWR_STATE_STATE.off]

/-- What a request does once it is stored and its target shows. -/
def powerAct (req st : Nat) (v : Word) (s : State) : Act :=
  if req = st ∨ (req = 0 ∧ st = 1) then powerDone 0
    else if req = 0 then
      (if st = 2 then seqA [modPower fun p => { p with gated := false }, setF F.PWR_STATE_STATE 0 0, setBudget, powerDone 0, resumeSteps] else skip)
    else if req = 2 then
      (if st ≤ 1 then seqA [modPower fun p => { p with drainFor := 1, due := s.mile + BitVec.ofNat 64 (1000000 * max 1 (F.PWR_CMD_DRAIN.of v)) }, setF F.PWR_STATE_BUSY 0 1] else skip)
    else if allDies.all fun d => s.fld F.BIL_IMG_STS_STATE d == 0 then railsOff 0
    else powerDone 3

omit hc in
theorem after_powerCmd {src : Src} {v : Word} (ha : s.asksPower src v) (hr : F.PWR_CMD_REQ.of v = 0 ∨ F.PWR_CMD_REQ.of v = 2 ∨ F.PWR_CMD_REQ.of v = 3) :
    after (powerCmd src v) s = after (powerAct (F.PWR_CMD_REQ.of v) s.pstate v s)
      (after (setF F.PWR_STATE_TARGET 0 (F.PWR_CMD_REQ.of v)) (after (storeRW .pwr 0 0x108 v) s)) := by
  obtain ⟨htk, hgo, hbusy⟩ := ha
  rw [after_congr (b := seqA [storeRW .pwr 0 0x108 v, setF F.PWR_STATE_TARGET 0 (F.PWR_CMD_REQ.of v), powerAct (F.PWR_CMD_REQ.of v) s.pstate v s]),
    after_seqA_cons, after_seqA_cons, after_seqA_cons, after_seqA_end]
  have hgo0 : F.PWR_CMD_GO.of v ≠ 0 := by omega
  have hreq : ¬ (F.PWR_CMD_REQ.of v ≠ 0 ∧ F.PWR_CMD_REQ.of v ≠ 2 ∧ F.PWR_CMD_REQ.of v ≠ 3) := by omega
  simp only [powerCmd, guardW_of_takes htk, hgo0, hbusy, hreq, Bool.false_eq_true, if_false]
  rfl

/-- The request as stored, with its target. -/
theorem asked_shows (v : Word) (req : Nat) {u : State} (hu : u = after (setF F.PWR_STATE_TARGET 0 req) (after (storeRW .pwr 0 0x108 v) s)) :
    u = { s with regs := u.regs } ∧ RegsBut pwrRegs s u ∧ u.fld F.PWR_STATE_TARGET 0 = req % (F.PWR_STATE_TARGET.top + 1) ∧
      (∀ f : Fld, f.blk = .pwr → f.off ≠ 0x108 → f.off < 65536 → f.hi < F.PWR_STATE_TARGET.lo ∨ F.PWR_STATE_TARGET.hi < f.lo → u.fld f 0 = s.fld f 0) := by
  obtain ⟨x, hx⟩ : ∃ x, x = after (storeRW .pwr 0 0x108 v) s := ⟨_, rfl⟩
  have hcx : x.canon = true := hx ▸ after_canon _ s hc
  have hfx := storeRW_frame .pwr 0 0x108 v s
  have hrx := storeRW_regsBut hc .pwr 0 0x108 v
  rw [← hx] at hfx hrx hu
  have hfu : u = { x with regs := u.regs } := hu ▸ after_overlay [.regs] (a := setF F.PWR_STATE_TARGET 0 req) (by simp)
  have hru : RegsBut [regKey .pwr 0 0x100] x u := hu ▸ after_regsBut hcx (by simp)
  refine ⟨by rw [hfu, hfx], fun k hk => ?_, ?_, fun f hb ho hlt hbits => ?_⟩
  · simp only [pwrRegs, List.mem_cons, List.not_mem_nil, or_false, not_or] at hk
    obtain ⟨hk1, hk2⟩ := hk
    rw [hru k (by simpa using hk2), hrx k (by simpa using hk1)]
  · rw [hu, fld_set_same hcx _ _ _ (by decide)]
    rfl
  · have hxs : x.fld f 0 = s.fld f 0 := fld_of_regsBut hrx (by
      rw [List.mem_singleton]
      exact regKey_ne_of_off (by omega))
    rw [hu, ← hxs]
    exact fld_set_bits hcx F.PWR_STATE_TARGET f 0 0 req ⟨by decide, hbits⟩

theorem powerReqP0_shows {src : Src} {v : Word} (ha : s.asksPower src v) (hr : F.PWR_CMD_REQ.of v = 0) (hp : s.pstate = 2) :
    ∃ t, exec (.powerReqP0 src v) s = .next (after resumeSteps t) ∧ t.power.gated = false ∧ t.pstate ≤ 1 ∧ t.fld F.PWR_STATE_CODE 0 = 0 ∧
      RegsBut (regKey .pwr 0 F.PWR_P1_HOST.off :: pwrRegs) s t ∧ t = { s with regs := t.regs, power := t.power } := by
  obtain ⟨u, hu⟩ : ∃ u, u = after (setF F.PWR_STATE_TARGET 0 0) (after (storeRW .pwr 0 0x108 v) s) := ⟨_, rfl⟩
  obtain ⟨w, hw⟩ : ∃ w, w = after (setF F.PWR_STATE_STATE 0 0) (after (modPower fun p => { p with gated := false }) u) := ⟨_, rfl⟩
  obtain ⟨x, hx⟩ : ∃ x, x = after setBudget w := ⟨_, rfl⟩
  obtain ⟨t, ht⟩ : ∃ t, t = after (setF F.PWR_STATE_CODE 0 0) x := ⟨_, rfl⟩
  have hcu : u.canon = true := hu ▸ after_canon _ _ (after_canon _ s hc)
  have hcw : w.canon = true := hw ▸ after_canon _ _ (after_canon _ u hcu)
  have hcx : x.canon = true := hx ▸ after_canon _ w hcw
  have hexec : exec (.powerReqP0 src v) s = .next (after resumeSteps t) := by
    refine congrArg Host.Outcome.next (?_ : after (powerCmd src v) s = _)
    have hne : ¬ ((0 : Nat) = 2 ∨ (0 : Nat) = 0 ∧ (2 : Nat) = 1) := by decide
    rw [after_powerCmd ha (.inl hr), hr, hp, powerAct, if_neg hne, if_pos rfl, if_pos rfl, ← hu, powerDone]
    simp only [after_seqA_cons, after_seqA_end, ← hw, ← hx, ← ht]
  obtain ⟨hfu, hru, -, hkeep⟩ := asked_shows hc v 0 hu
  have hfw : w = { u with regs := w.regs, power := { u.power with gated := false } } := by
    have h := after_overlay [.regs] (a := setF F.PWR_STATE_STATE 0 0) (s := after (modPower fun p => { p with gated := false }) u) (by simp)
    rw [← hw] at h
    rw [h]
    rfl
  have hrw : RegsBut [regKey .pwr 0 0x100] u w := fun k hk => by
    have h := after_regsBut (L := [regKey .pwr 0 0x100]) (a := setF F.PWR_STATE_STATE 0 0) (after_canon (modPower fun p => { p with gated := false }) u hcu)
      (by simp) k hk
    rw [← hw] at h
    exact h
  have hrails : s.power.rails = true := by
    by_contra hno
    rw [State.pstate, if_neg hno] at hp
    omega
  have hpw : w.pstate = 0 := by
    have hrw : w.power.rails = true := by rw [hfw, hfu]; exact hrails
    rw [State.pstate, if_pos hrw, hw, fld_set_same (after_canon _ u hcu) _ _ _ (by decide)]
    rfl
  obtain ⟨k1, -, -, k4, -, k6, k7⟩ := setBudget_shows hcw hx
  have hrx : w.power.rails = true := by rw [hfw, hfu]; exact hrails
  have hft : t = { x with regs := t.regs } := ht ▸ after_overlay [.regs] (a := setF F.PWR_STATE_CODE 0 0) (by simp)
  have hrt : RegsBut [regKey .pwr 0 0x100] x t := ht ▸ after_regsBut hcx (by simp)
  refine ⟨t, hexec, ?_, ?_, ?_, fun k hk => ?_, ?_⟩
  · rw [hft, k1, hfw]
  · have hpx : x.pstate ≤ 1 := by
      rw [k4 hrx (by omega)]
      split <;> omega
    have hst : t.pstate = x.pstate := pstate_of_fld (by rw [hft]) (by
      rw [ht]
      exact fld_set_bits hcx F.PWR_STATE_CODE F.PWR_STATE_STATE 0 0 0 (by decide))
    rw [hst]
    exact hpx
  · rw [ht, fld_set_same hcx _ _ _ (by decide)]
    rfl
  · simp only [pwrRegs, List.mem_cons, List.not_mem_nil, or_false, not_or] at hk
    obtain ⟨hk1, hk2, hk3⟩ := hk
    rw [hrt k (by simpa using hk3), k6 k (by simp [hk3]; exact hk1), hrw k (by simpa using hk3), hru k (by simp [pwrRegs, hk2]; exact hk3)]
  · rw [hft, k7, hfw, hfu]

theorem powerReqP2_shows {src : Src} {v : Word} (ha : s.asksPower src v) (hr : F.PWR_CMD_REQ.of v = 2) (hp : s.pstate ≤ 1) :
    ∃ t, exec (.powerReqP2 src v) s = .next t ∧
      t.power = { s.power with drainFor := 1, due := s.mile + BitVec.ofNat 64 (1000000 * max 1 (F.PWR_CMD_DRAIN.of v)) } ∧
      t.flag F.PWR_STATE_BUSY 0 = true ∧ t.fld F.PWR_STATE_TARGET 0 = 2 ∧ RegsBut pwrRegs s t ∧ t = { s with regs := t.regs, power := t.power } := by
  obtain ⟨u, hu⟩ : ∃ u, u = after (setF F.PWR_STATE_TARGET 0 2) (after (storeRW .pwr 0 0x108 v) s) := ⟨_, rfl⟩
  obtain ⟨w, hw⟩ : ∃ w, w = after (modPower fun p => { p with drainFor := 1, due := s.mile + BitVec.ofNat 64 (1000000 * max 1 (F.PWR_CMD_DRAIN.of v)) }) u := ⟨_, rfl⟩
  obtain ⟨t, ht⟩ : ∃ t, t = after (setF F.PWR_STATE_BUSY 0 1) w := ⟨_, rfl⟩
  have hcu : u.canon = true := hu ▸ after_canon _ _ (after_canon _ s hc)
  have hcw : w.canon = true := hw ▸ after_canon _ u hcu
  have hexec : exec (.powerReqP2 src v) s = .next t := by
    refine congrArg Host.Outcome.next (?_ : after (powerCmd src v) s = _)
    have hne : ¬ ((2 : Nat) = s.pstate ∨ (2 : Nat) = 0 ∧ s.pstate = 1) := by omega
    rw [after_powerCmd ha (.inr (.inl hr)), hr, powerAct, if_neg hne, if_neg (by decide), if_pos rfl, if_pos hp, ← hu]
    simp only [after_seqA_cons, after_seqA_end, ← hw, ← ht]
  obtain ⟨hfu, hru, htgt, hkeep⟩ := asked_shows hc v 2 hu
  have hfw : w = { u with power := w.power } := hw ▸ rfl
  have hpw : w.power = { u.power with drainFor := 1, due := s.mile + BitVec.ofNat 64 (1000000 * max 1 (F.PWR_CMD_DRAIN.of v)) } := hw ▸ rfl
  have hft : t = { w with regs := t.regs } := ht ▸ after_overlay [.regs] (a := setF F.PWR_STATE_BUSY 0 1) (by simp)
  have hrt : RegsBut [regKey .pwr 0 0x100] w t := ht ▸ after_regsBut hcw (by simp)
  have hrwu : w.regs = u.regs := by rw [hfw]
  refine ⟨t, hexec, ?_, ?_, ?_, fun k hk => ?_, ?_⟩
  · rw [hft, hpw, hfu]
  · rw [State.flag, ht, fld_set_same hcw _ _ _ (by decide)]
    rfl
  · rw [ht, fld_set_bits hcw F.PWR_STATE_BUSY F.PWR_STATE_TARGET 0 0 1 (by decide)]
    have hwu : w.fld F.PWR_STATE_TARGET 0 = u.fld F.PWR_STATE_TARGET 0 := by rw [hw]; rfl
    rw [hwu, htgt]
    rfl
  · simp only [pwrRegs, List.mem_cons, List.not_mem_nil, or_false, not_or] at hk
    obtain ⟨hk2, hk3⟩ := hk
    rw [hrt k (by simpa using hk3), hrwu, hru k (by simp [pwrRegs, hk2]; exact hk3)]
  · rw [hft, hfw, hfu]

theorem powerReqP3_shows {src : Src} {v : Word} (ha : s.asksPower src v) (hr : F.PWR_CMD_REQ.of v = 3) (hp : s.pstate ≠ 3) :
    ((∀ d, d < 32 → s.fld F.BIL_IMG_STS_STATE d = 0) → ∃ t, exec (.powerReqP3 src v) s = .next t ∧ t.power.rails = false ∧ t.pstate = 3 ∧
      t.fld F.PWR_STATE_CODE 0 = 0 ∧ t.cells = s.cells ∧ ((∀ d, d < 32 → (s.die d).progNow = []) → t.nvm = s.nvm)) ∧
    (∀ d, d < 32 → s.fld F.BIL_IMG_STS_STATE d ≠ 0 → ∃ t, exec (.powerReqP3 src v) s = .next t ∧ t.fld F.PWR_STATE_CODE 0 = 3 ∧
      t.pstate = s.pstate ∧ RegsBut pwrRegs s t ∧ t = { s with regs := t.regs }) := by
  obtain ⟨u, hu⟩ : ∃ u, u = after (setF F.PWR_STATE_TARGET 0 3) (after (storeRW .pwr 0 0x108 v) s) := ⟨_, rfl⟩
  have hcu : u.canon = true := hu ▸ after_canon _ _ (after_canon _ s hc)
  have hne : ¬ ((3 : Nat) = s.pstate ∨ (3 : Nat) = 0 ∧ s.pstate = 1) := by omega
  have hexec : ∀ a, (a = if allDies.all fun d => s.fld F.BIL_IMG_STS_STATE d == 0 then railsOff 0 else powerDone 3) →
      exec (.powerReqP3 src v) s = .next (after a u) := fun a hact => by
    refine congrArg Host.Outcome.next (?_ : after (powerCmd src v) s = _)
    rw [after_powerCmd ha (.inr (.inr hr)), hr, powerAct, if_neg hne, if_neg (by decide), if_neg (by decide), ← hu, hact]
  obtain ⟨hfu, hru, -, hkeep⟩ := asked_shows hc v 3 hu
  refine ⟨fun hall => ?_, fun d hd hbusy => ?_⟩
  · have hoff := railsOff_shows hcu 0
    have hcells : u.cells = s.cells := by rw [hfu]
    have hnvm : u.nvm = s.nvm := by rw [hfu]
    have hdie : ∀ d, u.die d = s.die d := fun d => by rw [hfu]; rfl
    refine ⟨_, hexec (railsOff 0) ?_, by rw [hoff.power], hoff.pstate, hoff.code, hoff.cells.trans hcells, fun h =>
      (hoff.idle fun d hd => by rw [hdie, h d hd]).trans hnvm⟩
    rw [if_pos]
    simp only [List.all_eq_true, beq_iff_eq]
    exact fun d hd => hall d (List.mem_range.1 hd)
  · obtain ⟨t, ht⟩ : ∃ t, t = after (powerDone 3) u := ⟨_, rfl⟩
    have hft : t = { u with regs := t.regs } := ht ▸ after_overlay [.regs] (a := powerDone 3) (by simp [powerDone])
    have hrt : RegsBut [regKey .pwr 0 0x100] u t := ht ▸ after_regsBut hcu (by simp [powerDone])
    refine ⟨t, ht ▸ hexec (powerDone 3) ?_, ?_, ?_, fun k hk => ?_, by rw [hft, hfu]⟩
    · rw [if_neg]
      simp only [List.all_eq_true, beq_iff_eq]
      exact fun h => hbusy (h d (List.mem_range.2 hd))
    · rw [ht, powerDone, fld_set_same hcu _ _ _ (by decide)]
      rfl
    · refine pstate_of_fld (by rw [hft, hfu]) ?_
      rw [ht, powerDone, fld_set_bits hcu F.PWR_STATE_CODE F.PWR_STATE_STATE 0 0 3 (by decide), hkeep _ rfl (by decide) (by decide) (by decide)]
    · simp only [pwrRegs, List.mem_cons, List.not_mem_nil, or_false, not_or] at hk
      obtain ⟨hk2, hk3⟩ := hk
      rw [hrt k (by simpa using hk3), hru k (by simp [pwrRegs, hk2]; exact hk3)]

end

/-! ## The end of a P2 entry's drain -/

/-- What the settling of P2 may change: registers, what dies hold, and the power state. -/
theorem settles_flushDie (d : Nat) (p : Nat → Bool) (s : State) : Allowed (onlyFields [.regs, .dies]) (flushDie d p s) s := by
  simp only [flushDie, allowed_seqA_cons, allowed_seqA_nil, and_true]
  exact ⟨allowed_forA _ _ s fun _ _ s => by simp [writeBack], allowed_forA _ _ _ fun _ _ s => by simp⟩

theorem settles_calAbandon (c : CalAtt) (s : State) : Allowed (onlyFields [.regs, .dies]) (calAbandon c s) s := by
  have hl : ∀ t s, Allowed (onlyFields [.regs, .dies]) (leaveCal t s) s := fun t s => by simp [leaveCal]
  have hd : ∀ t k s, Allowed (onlyFields [.regs, .dies]) (dueAgain t k s) s := fun t k s => by simp [dueAgain]
  simp [calAbandon, hl, hd]

/-- What settles before the clocks are gated: the caches are flushed and calibration is abandoned. -/
def settleDies : Act :=
  seqA [forA allDies fun d => flushDie d fun _ => true, forA allDies fun d => withA (fun s => (s.die d).calNow) fun l => forA l calAbandon]

theorem settleDies_frame (s : State) : after settleDies s = { s with regs := (after settleDies s).regs, dies := (after settleDies s).dies } := by
  refine after_overlay [.regs, .dies] (a := settleDies) (s := s) ?_
  simp only [settleDies, allowed_seqA_cons, allowed_seqA_nil, and_true]
  exact ⟨allowed_forA _ _ s fun d _ s => settles_flushDie d _ s, allowed_forA _ _ _ fun d _ s => (allowed_withA _ _ s).2
    (allowed_forA _ _ s fun c _ s => settles_calAbandon c s)⟩

section
variable {s : State} (hc : s.canon = true)
include hc

theorem p2DrainEnd_settles (hd : s.power.drainFor = 1) (hf : s.inFlight = false)
    (hdma : ∀ d, d < 32 → (s.dma d 0).cur = none ∧ (s.dma d 1).cur = none) (hr : s.power.rails = true) :
    ∃ t, exec (.p2DrainEnd true) s = .next t ∧ t.pstate = 2 ∧ t.power = { s.power with drainFor := 0, gated := true } ∧
      t.flag F.PWR_STATE_BUSY 0 = false ∧ t.mem = s.mem ∧ t.cells = s.cells ∧ t.passages = s.passages := by
  obtain ⟨u, hu⟩ : ∃ u, u = after (modPower fun p => { p with drainFor := 3 }) s := ⟨_, rfl⟩
  obtain ⟨w, hw⟩ : ∃ w, w = after settleDies u := ⟨_, rfl⟩
  obtain ⟨x, hx⟩ : ∃ x, x = after (modPower fun p => { p with drainFor := 0, gated := true }) w := ⟨_, rfl⟩
  obtain ⟨t, ht⟩ : ∃ t, t = after (setF F.PWR_STATE_BUSY 0 0) (after (setF F.PWR_STATE_CODE 0 0) (after (setF F.PWR_STATE_STATE 0 2) x)) := ⟨_, rfl⟩
  have hcu : u.canon = true := hu ▸ after_canon _ s hc
  have hcw : w.canon = true := hw ▸ after_canon _ u hcu
  have hcx : x.canon = true := hx ▸ after_canon _ w hcw
  have hcond : (u.power.drainFor == 3 && allDies.all fun d => (u.dma d 0).cur.isNone && (u.dma d 1).cur.isNone) = true := by
    have h3 : u.power.drainFor = 3 := hu ▸ rfl
    have hdu : ∀ d c, u.dma d c = s.dma d c := fun d c => hu ▸ rfl
    simp only [h3, hdu, beq_self_eq_true, Bool.true_and, List.all_eq_true, Bool.and_eq_true, Option.isNone_iff_eq_none]
    exact fun d hm => hdma d (List.mem_range.1 hm)
  have hexec : exec (.p2DrainEnd true) s = .next t := by
    refine congrArg Host.Outcome.next ((after_congr (a := fun s => if s.power.drainFor ≠ 1 then []
      else if true = true ∧ s.inFlight = false then seqA [modPower fun p => { p with drainFor := 3 }, p2Settle] s
      else if s.mile < s.power.due then []
      else seqA [modPower fun p => { p with drainFor := 0 }, setF F.PWR_STATE_BUSY 0 0, powerDone 2, resumeSteps] s)
      (b := seqA [modPower fun p => { p with drainFor := 3 }, p2Settle]) ?_).trans ?_)
    · simp only [hd, hf, ne_eq, not_true_eq_false, and_self, if_false, if_true]
    · rw [after_seqA_cons, after_seqA_cons, after_seqA_end, ← hu, p2Settle, after_whenA, if_pos hcond]
      have hsettle : w = after (forA allDies fun d => withA (fun s => (s.die d).calNow) fun l => forA l calAbandon)
          (after (forA allDies fun d => flushDie d fun _ => true) u) := by
        rw [hw, settleDies]
        simp only [after_seqA_cons, after_seqA_end]
      simp only [after_seqA_cons, after_seqA_end, ← hsettle, ← hx, ← ht]
  have hfw := settleDies_frame u
  rw [← hw] at hfw
  have hft : t = { x with regs := t.regs } := by
    have h := after_overlay [.regs] (a := seqA [setF F.PWR_STATE_STATE 0 2, setF F.PWR_STATE_CODE 0 0, setF F.PWR_STATE_BUSY 0 0]) (s := x) (by simp)
    simp only [after_seqA_cons, after_seqA_end, ← ht] at h
    exact h
  have hpx : x.power = { s.power with drainFor := 0, gated := true } := by
    rw [show x.power = { w.power with drainFor := 0, gated := true } from hx ▸ rfl, hfw, hu]
    rfl
  have hpt : t.power = { s.power with drainFor := 0, gated := true } := by rw [hft, hpx]
  have hxw : x = { w with power := x.power } := hx ▸ rfl
  refine ⟨t, hexec, ?_, hpt, ?_, by rw [hft, hxw, hfw, hu]; rfl, by rw [hft, hxw, hfw, hu]; rfl, by rw [hft, hxw, hfw, hu]; rfl⟩
  · have hrt : t.power.rails = true := by rw [hpt]; exact hr
    rw [State.pstate, if_pos hrt, ht]
    simp (disch := repeat' (first | assumption | apply after_canon | decide)) only [fld_set_bits, fld_set_same]
    rfl
  · rw [State.flag, ht]
    simp (disch := repeat' (first | assumption | apply after_canon | decide)) only [fld_set_same]
    rfl

theorem p2DrainEnd_givesUp {drained : Bool} (hd : s.power.drainFor = 1) (h : drained = false ∨ s.inFlight = true) (hm : s.power.due ≤ s.mile) :
    ∃ t, exec (.p2DrainEnd drained) s = .next (after resumeSteps t) ∧ t.fld F.PWR_STATE_CODE 0 = 2 ∧ t.flag F.PWR_STATE_BUSY 0 = false ∧
      t.power = { s.power with drainFor := 0 } ∧ RegsBut pwrRegs s t ∧ t = { s with regs := t.regs, power := t.power } := by
  obtain ⟨u, hu⟩ : ∃ u, u = after (modPower fun p => { p with drainFor := 0 }) s := ⟨_, rfl⟩
  obtain ⟨t, ht⟩ : ∃ t, t = after (setF F.PWR_STATE_CODE 0 2) (after (setF F.PWR_STATE_BUSY 0 0) u) := ⟨_, rfl⟩
  have hcu : u.canon = true := hu ▸ after_canon _ s hc
  have hexec : exec (.p2DrainEnd drained) s = .next (after resumeSteps t) := by
    refine congrArg Host.Outcome.next ((after_congr (a := fun s => if s.power.drainFor ≠ 1 then []
      else if drained = true ∧ s.inFlight = false then seqA [modPower fun p => { p with drainFor := 3 }, p2Settle] s
      else if s.mile < s.power.due then []
      else seqA [modPower fun p => { p with drainFor := 0 }, setF F.PWR_STATE_BUSY 0 0, powerDone 2, resumeSteps] s)
      (b := seqA [modPower fun p => { p with drainFor := 0 }, setF F.PWR_STATE_BUSY 0 0, powerDone 2, resumeSteps]) ?_).trans ?_)
    · have hno : ¬ (drained = true ∧ s.inFlight = false) := by
        obtain rfl | h := h <;> simp_all
      have hlt : ¬ s.mile < s.power.due := BitVec.not_lt.2 hm
      simp only [hd, hno, hlt, ne_eq, not_true_eq_false, if_false]
    · simp only [after_seqA_cons, after_seqA_end, powerDone, ← hu, ← ht]
  have hft : t = { u with regs := t.regs } := by
    have h := after_overlay [.regs] (a := seqA [setF F.PWR_STATE_BUSY 0 0, setF F.PWR_STATE_CODE 0 2]) (s := u) (by simp)
    simp only [after_seqA_cons, after_seqA_end, ← ht] at h
    exact h
  have hrt : RegsBut [regKey .pwr 0 0x100] u t := by
    have h := after_regsBut (L := [regKey .pwr 0 0x100]) (a := seqA [setF F.PWR_STATE_BUSY 0 0, setF F.PWR_STATE_CODE 0 2]) hcu (by simp)
    simp only [after_seqA_cons, after_seqA_end, ← ht] at h
    exact h
  have hru : u.regs = s.regs := hu ▸ rfl
  refine ⟨t, hexec, ?_, ?_, ?_, fun k hk => ?_, ?_⟩
  · rw [ht]
    simp (disch := repeat' (first | assumption | apply after_canon | decide)) only [fld_set_same]
    rfl
  · rw [State.flag, ht]
    simp (disch := repeat' (first | assumption | apply after_canon | decide)) only [fld_set_bits, fld_set_same]
    rfl
  · rw [hft, hu]
    rfl
  · simp only [pwrRegs, List.mem_cons, List.not_mem_nil, or_false, not_or] at hk
    rw [hrt k (by simpa using hk.2), hru]
  · rw [hft, hu]
    rfl

theorem wakePin_shows (hp : s.pstate = 3) (hv : s.power.vaux = true) (hw : s.power.wake = false) : ∃ t, exec .wakePin s = .next t ∧
    t.power = { s.power with wake := s.mayWake } ∧ t.fld F.PWR_STATE_CODE 0 = (if s.mayWake then 0 else 4) ∧
    (s.mayWake = true → t.flag F.PWR_STATE_BUSY 0 = true ∧ t.fld F.PWR_STATE_TARGET 0 = 0) ∧ RegsBut pwrRegs s t ∧
    t = { s with regs := t.regs, power := t.power } := by
  obtain ⟨t, ht⟩ : ∃ t, t = after wake s := ⟨_, rfl⟩
  have hexec : exec .wakePin s = .next t := by
    refine congrArg Host.Outcome.next (?_ : after (whenA (fun s => s.pstate == 3 && s.power.vaux && !s.power.wake) Machine.wake) s = t)
    rw [after_whenA, if_pos (by simp [hp, hv, hw]), ht]
  have hov : t = { s with regs := t.regs, power := t.power } := ht ▸ after_overlay [.regs, .power] (a := Machine.wake) (by simp [Machine.wake])
  have hregs : RegsBut pwrRegs s t := ht ▸ after_regsBut hc (by simp [Machine.wake, pwrRegs])
  rw [Machine.wake, after_iteA] at ht
  cases hm : s.mayWake
  · rw [hm, if_neg (by decide)] at ht
    refine ⟨t, hexec, ?_, ?_, fun h => absurd h (by decide), hregs, hov⟩
    · rw [ht, ← hw]
      rfl
    · rw [ht, fld_set_same hc _ _ _ (by decide)]
      rfl
  · obtain ⟨u, hu⟩ : ∃ u, u = after (modPower fun p => { p with wake := true }) s := ⟨_, rfl⟩
    have hcu : u.canon = true := hu ▸ after_canon _ s hc
    rw [hm, if_pos rfl] at ht
    simp only [after_seqA_cons, after_seqA_end, ← hu] at ht
    refine ⟨t, hexec, ?_, ?_, fun _ => ⟨?_, ?_⟩, hregs, hov⟩
    · rw [ht, hu]
      rfl
    all_goals
      simp only [State.flag, ht]
      simp (disch := repeat' (first | assumption | apply after_canon | decide)) only [fld_set_bits, fld_set_same]
      rfl

end

end Sys2Proof.Machine

open Sys2Proof Sys2Proof.Machine

/-- Settles O56. -/
theorem powerStates : Obligations.PowerStates := by
  intro s src v hc
  refine ⟨fun ha hr hp => powerReqP0_shows hc ha hr hp, fun ha hr hp => powerReqP2_shows hc ha hr hp, fun ha hr hp => powerReqP3_shows hc ha hr hp,
    fun drained hd => ⟨fun h hf hdma hr => ?_, fun h hm => p2DrainEnd_givesUp hc hd h hm⟩, fun hp hv hw => wakePin_shows hc hp hv hw⟩
  subst h
  exact p2DrainEnd_settles hc hd hf hdma hr

end

section
/-!
SUPPORT. The orderly stop, the cut, and the loss of supplies (R478–R481, R541, R543).
-/
namespace Sys2Proof.Machine

/-! ## Parked arrays -/

theorem arrState_set {s : State} (hc : s.canon = true) (t x : TileId) (v : Nat) :
    (after (setF F.TIL_ARR_STS_STATE (tileKey t) v) s).arrState x = if x = t then v % 8 else s.arrState x := by
  split
  · rename_i h
    rw [h, State.arrState, fld_set_same hc _ _ _ (by decide)]
    rfl
  · rename_i h
    refine fld_setF_reg s hc _ _ _ _ _ fun hk => h (tileKey_inj ?_)
    have h1 := tileKey_lt t
    have h2 := tileKey_lt x
    simp only [regKey] at hk
    omega

/-- A tile of a chosen kind is parked. -/
def parkIf (p : TileId → Bool) (t : TileId) : Act := if p t then parkTile t else skip

theorem parkIf_frame (p : TileId → Bool) (t : TileId) (s : State) : after (parkIf p t) s = { s with regs := (after (parkIf p t) s).regs } :=
  after_overlay [.regs] (a := parkIf p t) (s := s) (by unfold parkIf; split <;> simp [parkTile])

theorem arrState_parkIf {s : State} (hc : s.canon = true) (p : TileId → Bool) (t x : TileId) :
    (after (parkIf p t) s).arrState x = if x = t ∧ p x = true ∧ s.arrState x ≠ 4 then 5 else s.arrState x := by
  unfold parkIf
  by_cases hp : p t = true
  · rw [if_pos hp, parkTile, after_whenA]
    by_cases h4 : s.arrState t = 4
    · rw [if_neg (by simp [h4]), if_neg]
      rintro ⟨rfl, -, h⟩
      exact h h4
    · rw [if_pos (by simp [h4]), arrState_set hc]
      by_cases hx : x = t
      · subst hx
        rw [if_pos rfl, if_pos ⟨rfl, hp, h4⟩]
      · rw [if_neg hx, if_neg fun h => hx h.1]
  · rw [if_neg hp, after_skipped, if_neg]
    rintro ⟨rfl, h, -⟩
    exact hp h

theorem parkIfs_show (p : TileId → Bool) : ∀ {l : List TileId} {s : State}, s.canon = true →
    let t := after (forA l (parkIf p)) s
    t = { s with regs := t.regs } ∧ (∀ x, t.arrState x = if x ∈ l ∧ p x = true ∧ s.arrState x ≠ 4 then 5 else s.arrState x)
  | [], s, _ => ⟨rfl, by simp⟩
  | a :: l, s, hc => by
    obtain ⟨u, hu⟩ : ∃ u, u = after (parkIf p a) s := ⟨_, rfl⟩
    obtain ⟨h1, h2⟩ := parkIfs_show p (l := l) (hu ▸ after_canon _ s hc : u.canon = true)
    have hf := parkIf_frame p a s
    rw [← hu] at hf
    rw [after_forA_cons, ← hu]
    refine ⟨by rw [h1, hf], fun x => ?_⟩
    have ha : u.arrState x = _ := hu ▸ arrState_parkIf hc p a x
    by_cases hx : x = a ∧ p x = true ∧ s.arrState x ≠ 4
    · rw [if_pos hx] at ha
      rw [h2 x, ha, ite_self, if_pos ⟨hx.1 ▸ List.mem_cons_self .., hx.2⟩]
    · rw [if_neg hx] at ha
      rw [h2 x, ha]
      refine if_congr ⟨fun h => ⟨List.mem_cons_of_mem _ h.1, h.2⟩, fun h => ⟨?_, h.2⟩⟩ rfl rfl
      exact (List.mem_cons.1 h.1).resolve_left fun he => hx ⟨he, h.2⟩

/-- Every tile of a die is in its list. -/
theorem mem_dieTiles (x : TileId) : x ∈ dieTiles (fin32 x.d.val) := by
  have hd : fin32 x.d.val = x.d := Fin.ext (Nat.mod_eq_of_lt x.d.isLt)
  rw [hd, dieTiles, List.mem_flatMap]
  exact ⟨x.y, List.mem_finRange _, List.mem_map.2 ⟨x.x, List.mem_finRange _, rfl⟩⟩

theorem d_of_mem_dieTiles {d : Nat} (hd : d < 32) {x : TileId} (h : x ∈ dieTiles (fin32 d)) : x.d.val = d := by
  obtain ⟨y, -, hm⟩ := List.mem_flatMap.1 h
  obtain ⟨z, -, rfl⟩ := List.mem_map.1 hm
  exact Nat.mod_eq_of_lt hd

/-- With nothing but registers changed, an array is busy as before. -/
theorem parkFree_eq : ∀ {l : List TileId} {s : State} {p : TileId → Bool}, (∀ x, p x = !s.arrBusy x) →
    after (forA l fun t => whenA (fun s => !s.arrBusy t) (parkTile t)) s = after (forA l (parkIf p)) s
  | [], _, _, _ => rfl
  | a :: l, s, p, hp => by
    have hstep : after (whenA (fun s => !s.arrBusy a) (parkTile a)) s = after (parkIf p a) s := by
      rw [after_whenA, parkIf, hp a]
      split <;> rfl
    rw [after_forA_cons, after_forA_cons, hstep]
    refine parkFree_eq fun x => ?_
    rw [hp x, parkIf_frame]
    rfl

theorem parkAll_eq : ∀ {l : List TileId} {s : State}, after (forA l parkTile) s = after (forA l (parkIf fun _ => true)) s
  | [], _ => rfl
  | a :: l, s => by
    have hstep : after (parkTile a) s = after (parkIf (fun _ => true) a) s := rfl
    rw [after_forA_cons, after_forA_cons, hstep, parkAll_eq]

/-- What is left of die d when its arrays park. -/
def Die.parks (x : Die) : Die := { x with calNow := [], progNow := [], progHeld := [], parked := true }

/-- What the parking of die d leaves: the arrays of the die that nothing runs on are parked, but a retired one. -/
theorem parkDie_shows {s : State} (hc : s.canon = true) {d : Nat} (hd : d < 32) {t : State} (ht : t = after (parkDie d) s) :
    (∀ x, t.arrState x = if x.d.val = d ∧ s.arrBusy x = false ∧ s.arrState x ≠ 4 then 5 else s.arrState x) ∧ (t.die d).parked = true ∧
      t = { s with regs := t.regs, nvm := t.nvm, keeper := t.keeper, dies := t.dies, ports := t.ports, free := t.free, out := t.out } := by
  obtain ⟨u, hu⟩ : ∃ u, u = after (cutProg d) s := ⟨_, rfl⟩
  obtain ⟨w, hw⟩ : ∃ w, w = after (forA (dieTiles (fin32 d)) (parkIf fun x => !s.arrBusy x)) u := ⟨_, rfl⟩
  have hcu : u.canon = true := hu ▸ after_canon _ s hc
  have hcw : w.canon = true := hw ▸ after_canon _ u hcu
  have hall := allowed_cutProg d s
  have hfu : u = { s with regs := u.regs, nvm := u.nvm, keeper := u.keeper, dies := u.dies, ports := u.ports, free := u.free, out := u.out } := by
    rw [hu]
    refine after_overlay [.regs, .nvm, .keeper, .dies, .ports, .free, .out] (a := cutProg d) (hall.mono fun s e he => ?_)
    cases e with
    | nvm => simp
    | _ => exact allowsReports_onlyFields (List.Subset.refl _) s _ he
  have hau : ∀ x, u.arrState x = s.arrState x := fun x => by
    rw [hu]
    refine fld_after_of_regIn hc (p := evtKey) (hall.mono fun s e he => ?_) (not_evtKey_of_off (by decide))
    cases e with
    | reg => exact he
    | _ => trivial
  have hbusy : ∀ x, (fun x => !s.arrBusy x) x = !u.arrBusy x := fun x => by
    have h : u.arrBusy x = s.arrBusy x := by
      rw [hfu]
      rfl
    rw [h]
  have htw : t = after (modDie d Die.parks) w := by
    rw [ht, parkDie]
    simp only [after_seqA_cons, after_seqA_end, ← hu]
    rw [parkFree_eq hbusy, ← hw]
    rfl
  obtain ⟨h1, h2⟩ := parkIfs_show (fun x => !s.arrBusy x) (l := dieTiles (fin32 d)) hcu
  rw [← hw] at h1 h2
  have hft : t = { w with dies := t.dies } := htw ▸ modDie_frame d Die.parks
  refine ⟨fun x => ?_, ?_, by rw [hft, h1, hfu]⟩
  · have htx : t.arrState x = w.arrState x := by
      rw [hft]
      rfl
    rw [htx, h2 x, hau x]
    refine if_congr ⟨fun h => ⟨d_of_mem_dieTiles hd h.1, by simpa using h.2.1, h.2.2⟩, fun h => ⟨h.1 ▸ mem_dieTiles x, by simpa using h.2.1, h.2.2⟩⟩ rfl rfl
  · rw [htw, die_modDie hcw, if_pos rfl]
    rfl

/-- From s to t arrays may have parked, but a retired one, and the arrays of the dies of a list have; cells and passages are as they were. -/
structure Parks (l : List Nat) (s t : State) : Prop where
  tiles : ∀ x, t.arrState x = s.arrState x ∨ (s.arrState x ≠ 4 ∧ t.arrState x = 5)
  all : ∀ x, x.d.val ∈ l → s.arrState x ≠ 4 → t.arrState x = 5
  cells : t.cells = s.cells
  passages : t.passages = s.passages
  power : t.power = s.power

theorem Parks.trans {l l' : List Nat} {s t u : State} (h1 : Parks l s t) (h2 : Parks l' t u) : Parks (l ++ l') s u where
  tiles := fun x => by
    obtain h | ⟨h, h'⟩ := h1.tiles x <;> obtain k | ⟨k, k'⟩ := h2.tiles x
    · exact .inl (k.trans h)
    · exact .inr ⟨h ▸ k, k'⟩
    · exact .inr ⟨h, k.trans h'⟩
    · exact .inr ⟨h, k'⟩
  all := fun x hx h4 => by
    obtain h | ⟨-, h'⟩ := h1.tiles x <;> obtain k | ⟨-, k'⟩ := h2.tiles x
    · obtain hm | hm := List.mem_append.1 hx
      · rw [k, h1.all x hm h4]
      · exact h2.all x hm (h ▸ h4)
    · exact k'
    · rw [k, h']
    · exact k'
  cells := h2.cells.trans h1.cells
  passages := h2.passages.trans h1.passages
  power := h2.power.trans h1.power

theorem Parks.refl (s : State) : Parks [] s s := ⟨fun _ => .inl rfl, by simp, rfl, rfl, rfl⟩

/-- Each of a list of dies parks what it parks. -/
theorem parks_forA {f : Nat → Act} {g : Nat → List Nat} (h : ∀ d s, d < 32 → s.canon = true → Parks (g d) s (after (f d) s)) :
    ∀ {l : List Nat} {s : State}, s.canon = true → (∀ d ∈ l, d < 32) → Parks (l.flatMap g) s (after (forA l f) s)
  | [], s, _, _ => Parks.refl s
  | a :: l, s, hc, hl => by
    rw [after_forA_cons]
    exact (h a s (hl a (List.mem_cons_self ..)) hc).trans (parks_forA h (after_canon _ s hc) fun d hd => hl d (List.mem_cons_of_mem _ hd))

theorem parks_parkDie {d : Nat} {s : State} (hd : d < 32) (hc : s.canon = true) : Parks [] s (after (parkDie d) s) := by
  obtain ⟨h1, -, h3⟩ := parkDie_shows hc hd rfl
  refine ⟨fun x => ?_, by simp, by rw [h3], by rw [h3], by rw [h3]⟩
  rw [h1 x]
  split
  · rename_i h
    exact .inr ⟨h.2.2, rfl⟩
  · exact .inl rfl

theorem parks_tiles {d : Nat} {s : State} (hc : s.canon = true) : Parks [d] s (after (forA (dieTiles (fin32 d)) parkTile) s) := by
  obtain ⟨h1, h2⟩ := parkIfs_show (fun _ => true) (l := dieTiles (fin32 d)) hc
  rw [parkAll_eq]
  refine ⟨fun x => ?_, fun x hx h4 => ?_, by rw [h1], by rw [h1], by rw [h1]⟩
  · rw [h2 x]
    split
    · rename_i h
      exact .inr ⟨h.2.2, rfl⟩
    · exact .inl rfl
  · rw [List.mem_singleton] at hx
    rw [h2 x, if_pos ⟨hx ▸ mem_dieTiles x, rfl, h4⟩]

/-! ## The drain's end -/

theorem not_endKey_arrState (x : TileId) : ¬ EndKey (regKey .til (tileKey x) F.TIL_ARR_STS_STATE.off) := by
  have h := tileKey_lt x
  rintro (h1 | h1 | h1) <;> simp only [regKey, Blk.code] at h1 <;> omega

section
variable {s : State} (hc : s.canon = true)
include hc

theorem stopDrainEnd_shows (hd : s.power.drainFor = 2) (hp : s.power.parked = false) (hf : s.inFlight = false ∨ s.power.due ≤ s.mile) :
    ∃ t, exec .stopDrainEnd s = .next t ∧ t.power.parked = true ∧ t.power.gated = true ∧
      (∀ i ∈ s.live, (s.passage i).open_ = true → (s.passage i).guest = false → t.faulted i 0x0B) ∧
      (∀ x : TileId, t.arrState x = 5 ∨ (s.arrState x = 4 ∧ t.arrState x = 4)) ∧ t.cells = s.cells := by
  obtain ⟨u, hu⟩ : ∃ u, u = after (forA s.live fun i => endPassage i 0x0B) s := ⟨_, rfl⟩
  obtain ⟨v, hv⟩ : ∃ v, v = after (forA allDies parkDie) u := ⟨_, rfl⟩
  obtain ⟨w, hw⟩ : ∃ w, w = after (forA allDies fun d => forA (dieTiles (fin32 d)) parkTile) v := ⟨_, rfl⟩
  obtain ⟨t, ht⟩ : ∃ t, t = after (modPower fun p => { p with parked := true, gated := true }) w := ⟨_, rfl⟩
  have hcu : u.canon = true := hu ▸ after_canon _ s hc
  have hcv : v.canon = true := hv ▸ after_canon _ u hcu
  have hexec : exec .stopDrainEnd s = .next t := by
    refine congrArg Host.Outcome.next ((after_congr (a := fun s =>
      if s.power.drainFor ≠ 2 ∨ s.power.parked = true ∨ (s.inFlight = true ∧ s.mile < s.power.due) then []
      else seqA [forA s.live fun i => endPassage i 0x0B, forA allDies parkDie, forA allDies (fun d => forA (dieTiles (fin32 d)) parkTile),
        modPower fun p => { p with parked := true, gated := true }] s)
      (b := seqA [forA s.live fun i => endPassage i 0x0B, forA allDies parkDie, forA allDies (fun d => forA (dieTiles (fin32 d)) parkTile),
        modPower fun p => { p with parked := true, gated := true }]) ?_).trans ?_)
    · have hno : ¬ (s.inFlight = true ∧ s.mile < s.power.due) := by
        obtain h | h := hf
        · simp [h]
        · exact fun hx => BitVec.not_lt.2 h hx.2
      simp only [hd, hp, hno, ne_eq, not_true_eq_false, Bool.false_eq_true, or_self, if_false]
    · simp only [after_seqA_cons, after_seqA_end, ← hu, ← hv, ← hw, ← ht]
  have h1 := parks_forA (f := parkDie) (g := fun _ => []) (fun d s hd hc => parks_parkDie hd hc) hcu (l := allDies) fun d hd => List.mem_range.1 hd
  have h2 := parks_forA (f := fun d => forA (dieTiles (fin32 d)) parkTile) (g := fun d => [d]) (fun d s _ hc => parks_tiles hc) hcv (l := allDies)
    fun d hd => List.mem_range.1 hd
  rw [← hv] at h1
  rw [← hw] at h2
  have hpark := h1.trans h2
  have hft : t = { w with power := t.power } := ht ▸ rfl
  have hpass : t.passages = u.passages := by rw [hft]; exact hpark.passages
  have harr : ∀ x, u.arrState x = s.arrState x := fun x => by
    rw [hu]
    exact fld_after_of_regIn hc (allowed_endPassages (allowsEnds_regIn fun _ h => h) (by simp) 0x0B s.live s) (not_endKey_arrState x)
  refine ⟨t, hexec, by rw [ht]; rfl, by rw [ht]; rfl, fun i hi ho hg => ?_, fun x => ?_, ?_⟩
  · have h := faulted_endPassages (status := 0x0B) hc (.inl ⟨hi, ho⟩) hg
    rw [← hu] at h
    have hpi : t.passage i = u.passage i := by simp only [State.passage, hpass]
    rw [State.faulted, hpi]
    exact h
  · have htw : t.arrState x = w.arrState x := by
      rw [hft]
      rfl
    rw [htw]
    by_cases h4 : s.arrState x = 4
    · obtain h | ⟨h, -⟩ := hpark.tiles x
      · exact .inr ⟨h4, by rw [h, harr, h4]⟩
      · exact absurd (by rw [harr, h4]) h
    · refine .inl (hpark.all x ?_ (by rwa [harr]))
      simp [allDies]
  · have hcells : u.cells = s.cells :=
      hu ▸ after_read_eq State.cells (allowed_endPassages (allowsEnds_onlyFields (List.Subset.refl _)) (by simp) 0x0B s.live s) fun _ => rfl
    rw [hft]
    exact hpark.cells.trans hcells

end

/-! ## The rails off -/

/-- From s to t the rails have gone off: the part is in P3, links and ports are down, passages and stack memory are gone, and every array keeps
its cells. -/
def Off (s t : State) : Prop :=
  t.power.rails = false ∧ t.pstate = 3 ∧ t.passages = [] ∧ t.mem = [] ∧ t.cells = s.cells ∧
    (∀ n, n < 4 → t.fld F.TRL_LNK_STS_STATE n = 0) ∧ (∀ n, n < 12 → t.fld F.BFP_LNK_STS_STATE n = 0) ∧
    t.nvm.sansLog = { s.nvm.sansLog with tsum := t.nvm.tsum, uhist := t.nvm.uhist } ∧
    ((∀ d, d < 32 → (s.die d).progNow = []) → t.nvm.sansLog = s.nvm.sansLog)

/-- What follows the rails going off: it leaves the rails, what is lost, the links and ports, and of non-volatile memory all but the log. -/
def AfterOff (s : State) (e : Eff) : Prop :=
  match e with
  | .power p => p.rails = s.power.rails
  | .reg b i o _ => evtKey (regKey b i o) ∨ ((b = .kpr ∨ b = .thm ∨ b = .sec) ∧ i < 1048576 ∧ o < 65536)
  | .sensor .. | .mon _ | .sec _ | .keeper _ => True
  | e => Report s e

theorem allowsReports_afterOff : AllowsEvents AfterOff := fun s e he _ => by
  cases e with
  | reg => exact .inl he
  | keeper => trivial
  | power | sensor | mon | sec => exact he.elim
  | _ => exact he

theorem off_of_railsOff {code : Nat} {s w : State} (hc : w.canon = true) (h : RailsOff code s w) {a : Act} (ha : Allowed AfterOff (a w) w) :
    Off s (after a w) := by
  have hov := after_overlay [.regs, .nvm, .keeper, .dies, .ports, .sensors, .mon, .power, .sec, .free, .out] (a := a) (s := w) (ha.mono fun s e he => by
    cases e <;> simp_all [AfterOff, Report])
  have hrails : (after a w).power.rails = false := by
    have hr := Allowed.rel (R := fun s t => t.power.rails = s.power.rails) ⟨fun _ => rfl, fun _ _ _ h1 h2 => h2.trans h1⟩ (fun s e _ he => by
      cases e with
      | power => exact he
      | _ => rfl) hc ha
    refine (show (after a w).power.rails = w.power.rails from hr).trans ?_
    rw [h.power]
  have hnvm : (after a w).nvm.sansLog = w.nvm.sansLog :=
    Allowed.rel (R := fun s t => t.nvm.sansLog = s.nvm.sansLog) ⟨fun _ => rfl, fun _ _ _ h1 h2 => h2.trans h1⟩ (fun s e _ he => by
      cases e with
      | nvm => exact he.1
      | _ => rfl) hc ha
  have hfld : ∀ f : Fld, ∀ i, f.blk ∈ [Blk.trl, .bfp] → f.off = 0x100 → i < 12 → (after a w).fld f i = w.fld f i := fun f i hb ho hi => by
    refine fld_after_of_regIn hc (p := fun k => evtKey k ∨ ∃ b i o, (b = .kpr ∨ b = .thm ∨ b = .sec) ∧ i < 1048576 ∧ o < 65536 ∧ k = regKey b i o)
      (ha.mono fun s e he => ?_) ?_
    · cases e with
      | reg b i o v => exact he.imp_right fun h => ⟨b, i, o, h.1, h.2.1, h.2.2, rfl⟩
      | _ => trivial
    · rw [ho]
      rintro (he | ⟨b, j, o, hb', hj, ho', hk⟩)
      · exact not_evtKey_of_off (.inl (by decide)) he
      · refine regKey_ne_of_blk ?_ (by omega) hk
        simp only [List.mem_cons, List.not_mem_nil, or_false] at hb
        obtain hb | hb := hb <;> obtain rfl | rfl | rfl := hb' <;> rw [hb] <;> decide
  have htsum : (after a w).nvm.tsum = w.nvm.tsum ∧ (after a w).nvm.uhist = w.nvm.uhist := by
    constructor
    · have h := congrArg Nvm.tsum hnvm
      exact h
    · have h := congrArg Nvm.uhist hnvm
      exact h
  refine ⟨hrails, ?_, ?_, ?_, ?_, fun n hn => ?_, fun n hn => ?_, ?_, fun hidle => ?_⟩
  · rw [State.pstate, hrails]
    rfl
  · rw [hov]
    exact h.passages
  · rw [hov]
    exact h.mem
  · rw [hov]
    exact h.cells
  · rw [hfld _ n (by simp) rfl (by omega), h.ports n hn]
  · rw [hfld _ n (by simp) rfl hn, h.links n hn]
  · rw [hnvm, htsum.1, htsum.2, h.nvm]
  · rw [hnvm, h.idle hidle]

/-! ### What follows -/

theorem afterOff_stopSeen (s : State) : Allowed AfterOff (stopSeen s) s := by simp [stopSeen, AfterOff]

theorem afterOff_haltBringup (s : State) : Allowed AfterOff (haltBringup s) s := by simp [haltBringup, AfterOff]

section
variable {s : State} (hc : s.canon = true)
include hc

theorem fld_haltBringup (f : Fld) (hf : f.off % 65536 ≠ 0x408) : (after haltBringup s).fld f 0 = s.fld f 0 := by
  rw [haltBringup, after_whenA]
  split
  · exact fld_set_off hc F.KPR_BOOT_STAGE f 0 0 5 hf
  · rfl

theorem stopRailsOff_shows (hp : s.power.parked = true) (hk : s.keeperUp = true) : ∃ t, exec .stopRailsOff s = .next t ∧ Off s t ∧
    t.flag F.THM_STS_STOP 0 = true ∧ t.fld F.THM_CNT_STOPS 0 = min (s.fld F.THM_CNT_STOPS 0 + 1) F.THM_CNT_STOPS.top := by
  obtain ⟨w, hw⟩ : ∃ w, w = after (railsOff 0) s := ⟨_, rfl⟩
  obtain ⟨x, hx⟩ : ∃ x, x = after stopSeen w := ⟨_, rfl⟩
  obtain ⟨t, ht⟩ : ∃ t, t = after haltBringup x := ⟨_, rfl⟩
  have hcw : w.canon = true := hw ▸ after_canon _ s hc
  have hcx : x.canon = true := hx ▸ after_canon _ w hcw
  have hoff := railsOff_shows hc 0
  rw [← hw] at hoff
  have hexec : exec .stopRailsOff s = .next t := by
    refine congrArg Host.Outcome.next ((after_congr (a := fun s => if s.power.parked = false ∨ s.keeperUp = false then []
      else seqA [railsOff 0, stopSeen, haltBringup] s) (b := seqA [railsOff 0, stopSeen, haltBringup]) ?_).trans ?_)
    · simp only [hp, hk, Bool.true_eq_false, or_self, if_false]
    · simp only [after_seqA_cons, after_seqA_end, ← hw, ← hx, ← ht]
  refine ⟨t, hexec, ?_, ?_, ?_⟩
  · have htw : t = after (seqA [stopSeen, haltBringup]) w := by
      rw [after_seqA_cons, after_seqA_cons, after_seqA_end, ← hx, ht]
    rw [htw]
    exact off_of_railsOff hcw hoff (by simp [afterOff_stopSeen, afterOff_haltBringup])
  · rw [State.flag, ht, fld_haltBringup hcx _ (by decide), hx]
    simp (disch := repeat' (first | assumption | apply after_canon | decide)) only [stopSeen, after_seqA_cons, after_seqA_end, fld_bump_other, fld_set_same]
    rfl
  · rw [ht, fld_haltBringup hcx _ (by decide), hx]
    simp (disch := repeat' (first | assumption | apply after_canon | decide)) only [stopSeen, after_seqA_cons, after_seqA_end, fld_bump_same, fld_set_off]
    rw [hoff.fld F.THM_CNT_STOPS 0 (by decide) (by decide)]

omit hc in
/-- What was sent stays sent. -/
theorem mem_out_after {o : Out} (a : Act) (h : o ∈ s.out) : o ∈ (after a s).out := (apAll_out (a s) s).subset h

omit hc in
theorem Off.of_same {s0 t : State} (h : Off s0 t) (hcells : s0.cells = s.cells) (hnvm : s0.nvm = s.nvm) (hdies : s0.dies = s.dies) : Off s t := by
  obtain ⟨h1, h2, h3, h4, h5, h6, h7, h8, h9⟩ := h
  have hdie : ∀ d, s0.die d = s.die d := fun d => by simp only [State.die, hdies]
  refine ⟨h1, h2, h3, h4, h5.trans hcells, h6, h7, by rw [h8, hnvm], fun hi => (h9 fun d hd => by rw [hdie, hi d hd]).trans (by rw [hnvm])⟩

/-- What a cut shows, once the rails are off. -/
def cutShown (u j : Nat) : Act :=
  seqA [haltBringup, modPower fun p => { p with thermtrip := true }, emit (.thermtrip true), setF F.THM_STS_CUT 0 1, bump F.THM_CNT_CUTS 0 1,
    setF F.THM_STS_SRC_UNIT 0 u, setF F.THM_STS_SRC_SNS 0 j]

theorem cutShown_shows (u j : Nat) {t : State} (ht : t = after (cutShown u j) s) : t.power = { s.power with thermtrip := true } ∧
    .thermtrip true ∈ t.out ∧ t.flag F.THM_STS_CUT 0 = true ∧ t.fld F.THM_CNT_CUTS 0 = min (s.fld F.THM_CNT_CUTS 0 + 1) F.THM_CNT_CUTS.top := by
  obtain ⟨x, hx⟩ : ∃ x, x = after haltBringup s := ⟨_, rfl⟩
  obtain ⟨y, hy⟩ : ∃ y, y = after (emit (.thermtrip true)) (after (modPower fun p => { p with thermtrip := true }) x) := ⟨_, rfl⟩
  have hcx : x.canon = true := hx ▸ after_canon _ s hc
  have hcy : y.canon = true := hy ▸ after_canon _ _ (after_canon _ x hcx)
  have hseq : t = after (seqA [setF F.THM_STS_CUT 0 1, bump F.THM_CNT_CUTS 0 1, setF F.THM_STS_SRC_UNIT 0 u, setF F.THM_STS_SRC_SNS 0 j]) y := by
    rw [ht, cutShown]
    simp only [after_seqA_cons, after_seqA_end, ← hx, ← hy]
  have hft : t = { y with regs := t.regs } := hseq ▸ after_overlay [.regs] (a := seqA _) (by simp)
  have hpx : x.power = s.power := hx ▸ after_read_eq (fs := [.regs]) State.power (by simp [haltBringup]) fun _ => rfl
  have hyf : ∀ f : Fld, y.fld f 0 = x.fld f 0 := fun f => by rw [hy]; rfl
  refine ⟨?_, ?_, ?_, ?_⟩
  · rw [hft, ← hpx, hy]
    rfl
  · rw [hft, hy]
    exact List.mem_append_right _ (List.mem_singleton_self _)
  · rw [State.flag, hseq]
    simp (disch := repeat' (first | assumption | apply after_canon | decide)) only [after_seqA_cons, after_seqA_end, fld_set_bits, fld_bump_other, fld_set_same]
    rfl
  · rw [hseq]
    simp (disch := repeat' (first | assumption | apply after_canon | decide)) only [after_seqA_cons, after_seqA_end, fld_set_off, fld_bump_same]
    rw [hyf, hx, fld_haltBringup hc _ (by decide)]

theorem hardwareCut_shows (unit : Fin 49) (sns : Fin 16) (hv : s.power.vaux = true) (he : snsExists unit.val sns.val = true) :
    ∃ t, exec (.hardwareCut unit sns) s = .next t ∧ Off s t ∧ t.power.thermtrip = true ∧ .thermtrip true ∈ t.out ∧
      t.flag F.THM_STS_CUT 0 = true ∧ t.fld F.THM_CNT_CUTS 0 = min (s.fld F.THM_CNT_CUTS 0 + 1) F.THM_CNT_CUTS.top := by
  obtain ⟨lg, hlg⟩ : ∃ a, a = logEv none 1 4 3 noUnit 0x3F 0 0 (snsDetail unit.val sns.val (s.sensor (snsKey unit.val sns.val)).t) := ⟨_, rfl⟩
  obtain ⟨r, hr⟩ : ∃ r, r = after (whenA (fun s => s.power.drainFor == 2) stopSeen) s := ⟨_, rfl⟩
  obtain ⟨w, hw⟩ : ∃ w, w = after (railsOff 0) r := ⟨_, rfl⟩
  obtain ⟨x, hx⟩ : ∃ x, x = after (cutShown unit.val sns.val) w := ⟨_, rfl⟩
  obtain ⟨t, ht⟩ : ∃ t, t = after lg x := ⟨_, rfl⟩
  have hcr : r.canon = true := hr ▸ after_canon _ s hc
  have hcw : w.canon = true := hw ▸ after_canon _ r hcr
  have hcx : x.canon = true := hx ▸ after_canon _ w hcw
  have hexec : exec (.hardwareCut unit sns) s = .next t := by
    refine congrArg Host.Outcome.next ((after_congr (a := fun s =>
      if s.power.vaux = false ∨ snsExists unit.val sns.val = false then []
      else seqA [whenA (fun s => s.power.drainFor == 2) stopSeen, railsOff 0, haltBringup,
        modPower fun p => { p with thermtrip := true }, emit (.thermtrip true),
        setF F.THM_STS_CUT 0 1, bump F.THM_CNT_CUTS 0 1, setF F.THM_STS_SRC_UNIT 0 unit.val, setF F.THM_STS_SRC_SNS 0 sns.val,
        logEv none 1 4 3 noUnit 0x3F 0 0 (snsDetail unit.val sns.val (s.sensor (snsKey unit.val sns.val)).t)] s)
      (b := seqA [whenA (fun s => s.power.drainFor == 2) stopSeen, railsOff 0, haltBringup,
        modPower fun p => { p with thermtrip := true }, emit (.thermtrip true),
        setF F.THM_STS_CUT 0 1, bump F.THM_CNT_CUTS 0 1, setF F.THM_STS_SRC_UNIT 0 unit.val, setF F.THM_STS_SRC_SNS 0 sns.val, lg]) ?_).trans ?_)
    · simp only [hv, he, Bool.true_eq_false, or_self, if_false, hlg]
    · rw [cutShown] at hx
      simp only [after_seqA_cons, after_seqA_end, ← hr, ← hw] at hx ⊢
      rw [← hx, ← ht]
  have hoff := railsOff_shows hcr 0
  rw [← hw] at hoff
  obtain ⟨h1, h2, h3, h4⟩ := cutShown_shows hcw _ _ hx
  have hlog : Allowed Report (lg x) x := hlg ▸ allowed_logEv (fun _ _ h => h) ..
  have hfr : r = { s with regs := r.regs } := hr ▸ after_overlay [.regs] (a := whenA (fun s => s.power.drainFor == 2) stopSeen) (by simp [stopSeen])
  have hcuts : r.fld F.THM_CNT_CUTS 0 = s.fld F.THM_CNT_CUTS 0 := by
    rw [hr, after_whenA]
    split
    · simp (disch := repeat' (first | assumption | apply after_canon | decide)) only [stopSeen, after_seqA_cons, after_seqA_end, fld_set_off, fld_bump_other]
    · rfl
  have htf : ∀ f : Fld, f.off < 0x400 → t.fld f 0 = x.fld f 0 := fun f ho => ht ▸ fld_after_report hcx hlog f 0 (.inl (by omega))
  refine ⟨t, hexec, ?_, ?_, ?_, ?_, ?_⟩
  · have htw : t = after (seqA [cutShown unit.val sns.val, lg]) w := by
      rw [after_seqA_cons, after_seqA_cons, after_seqA_end, ← hx, ht]
    rw [htw]
    have hrep : ∀ s, Allowed AfterOff (lg s) s := fun s => hlg ▸ allowed_logEv_none allowsReports_afterOff ..
    have hemit : ∀ s o, AfterOff s (.out o) := fun _ _ => trivial
    exact (off_of_railsOff hcw hoff (by simp [cutShown, afterOff_haltBringup, hrep, AfterOff, Report])).of_same (by rw [hfr]) (by rw [hfr]) (by rw [hfr])
  · have hp : t.power = x.power := by
      rw [ht, report_frame hlog]
      rfl
    rw [hp, h1]
  · rw [ht]
    exact mem_out_after _ h2
  · rw [State.flag, htf _ (by decide)]
    exact h3
  · rw [htf _ (by decide), h4, hoff.fld F.THM_CNT_CUTS 0 (by decide) (by decide), hcuts]

theorem refclkLoss_shows (hr : s.power.rails = true) : ∃ t, exec .refclkLoss s = .next t ∧ Off s t ∧ t.power.thermtrip = s.power.thermtrip := by
  obtain ⟨lg, hlg⟩ : ∃ a, a = logEv none 2 3 3 noUnit 0x3F 0 0 (leBytes 1 s.pstate) := ⟨_, rfl⟩
  obtain ⟨w, hw⟩ : ∃ w, w = after (railsOff 0) s := ⟨_, rfl⟩
  have hcw : w.canon = true := hw ▸ after_canon _ s hc
  have hexec : exec .refclkLoss s = .next (after (seqA [haltBringup, lg]) w) := by
    refine congrArg Host.Outcome.next ((after_congr (a := fun s => if s.power.rails = false then []
      else seqA [railsOff 0, haltBringup, logEv none 2 3 3 noUnit 0x3F 0 0 (leBytes 1 s.pstate)] s) (b := seqA [railsOff 0, haltBringup, lg]) ?_).trans ?_)
    · simp only [hr, Bool.true_eq_false, if_false, hlg]
    · simp only [after_seqA_cons, after_seqA_end, ← hw]
  have hoff := railsOff_shows hc 0
  rw [← hw] at hoff
  have hrep : ∀ {P : State → Eff → Prop}, AllowsEvents P → ∀ s, Allowed P (lg s) s := fun hP s => hlg ▸ allowed_logEv_none hP ..
  refine ⟨_, hexec, off_of_railsOff hcw hoff (by simp [afterOff_haltBringup, hrep allowsReports_afterOff]), ?_⟩
  have hp : (after (seqA [haltBringup, lg]) w).power = w.power :=
    after_read_eq (fs := [.regs, .nvm, .keeper, .ports, .free, .out]) State.power
      (by simp [haltBringup, hrep (allowsEvents_onlyFields (List.Subset.refl _))]) fun _ => rfl
  rw [hp, hoff.power]

theorem undervoltage_shows (v : BitVec 16) (hr : s.power.rails = true) : ∃ t, exec (.undervoltage v) s = .next t ∧ Off s t ∧
    t.fld F.PWR_STATE_CODE 0 = 6 ∧ t.power.thermtrip = s.power.thermtrip := by
  obtain ⟨a, ha⟩ : ∃ a : Act, a = whenA (fun _ => s.fld F.KPR_BOOT_STAGE 0 == 2 || s.fld F.KPR_BOOT_STAGE 0 == 3)
    (seqA [setF F.KPR_BOOT_STAGE 0 1, setF F.KPR_BOOT_CODE 0 5, modPower fun p => { p with wake := s.power.wake }]) := ⟨_, rfl⟩
  obtain ⟨lg, hlg⟩ : ∃ a, a = logEv none 2 3 2 noUnit 0x3F 0 0 (leBytes 2 v.toNat) := ⟨_, rfl⟩
  obtain ⟨w, hw⟩ : ∃ w, w = after (railsOff 6) s := ⟨_, rfl⟩
  obtain ⟨x, hx⟩ : ∃ x, x = after a w := ⟨_, rfl⟩
  have hcw : w.canon = true := hw ▸ after_canon _ s hc
  have hcx : x.canon = true := hx ▸ after_canon _ w hcw
  have hexec : exec (.undervoltage v) s = .next (after (seqA [a, lg]) w) := by
    refine congrArg Host.Outcome.next ((after_congr (a := fun s => if s.power.rails = false then [] else
      seqA [railsOff 6, whenA (fun _ => s.fld F.KPR_BOOT_STAGE 0 == 2 || s.fld F.KPR_BOOT_STAGE 0 == 3)
        (seqA [setF F.KPR_BOOT_STAGE 0 1, setF F.KPR_BOOT_CODE 0 5, modPower fun p => { p with wake := s.power.wake }]),
        logEv none 2 3 2 noUnit 0x3F 0 0 (leBytes 2 v.toNat)] s) (b := seqA [railsOff 6, a, lg]) ?_).trans ?_)
    · simp only [hr, Bool.true_eq_false, if_false, hlg, ha]
    · simp only [after_seqA_cons, after_seqA_end, ← hw]
  have hoff := railsOff_shows hc 6
  rw [← hw] at hoff
  have hrep : ∀ {P : State → Eff → Prop}, AllowsEvents P → ∀ s, Allowed P (lg s) s := fun hP s => hlg ▸ allowed_logEv_none hP ..
  have hlog : Allowed Report (lg x) x := hrep (fun s e h _ => h) x
  have hseq : after (seqA [a, lg]) w = after lg x := by rw [after_seqA_cons, after_seqA_cons, after_seqA_end, ← hx]
  have hcode : x.fld F.PWR_STATE_CODE 0 = w.fld F.PWR_STATE_CODE 0 := by
    rw [hx, ha, after_whenA]
    split
    · have hp : ∀ (f : Power → Power) y, (after (modPower f) y).fld F.PWR_STATE_CODE 0 = y.fld F.PWR_STATE_CODE 0 := fun _ _ => rfl
      simp (disch := repeat' (first | assumption | apply after_canon | decide)) only [after_seqA_cons, after_seqA_end, hp, fld_set_off]
    · rfl
  have hpx : x.power.thermtrip = w.power.thermtrip := by
    rw [hx, ha, after_whenA]
    split <;> rfl
  refine ⟨_, hexec, ?_, ?_, ?_⟩
  · refine off_of_railsOff hcw hoff ?_
    have hap : ∀ s, Allowed AfterOff (a s) s := fun y => by
      rw [ha]
      simp only [allowed_whenA, allowed_seqA_cons, allowed_setF, allowed_modPower, allowed_seqA_nil, and_true]
      exact fun _ => ⟨.inr ⟨.inl rfl, by decide, by decide⟩, .inr ⟨.inl rfl, by decide, by decide⟩, rfl⟩
    simp [hap, hrep allowsReports_afterOff]
  · rw [hseq, fld_after_report hcx hlog _ 0 (.inl (by decide)), hcode, hoff.code]
    rfl
  · have hp : (after lg x).power = x.power := by
      rw [report_frame hlog]
      rfl
    rw [hseq, hp, hpx, hoff.power]

/-- What the Keeper, the converter and the listed sensors lose with the auxiliary supply. -/
def vauxLost (l : List Nat) : Act :=
  seqA [whenA (fun s => s.power.thermtrip) (emit (.thermtrip false)),
    forA l fun k => modSensor k fun x => { Sensor.zero with faulty := x.faulty },
    modKeeper fun _ => Keeper.zero, modMon fun _ => Mon.zero, modSec fun x => { Sec.zero with nonceNo := x.nonceNo + 1 }]

/-- What shows of it. -/
def vauxShown : Act :=
  seqA [modPower fun _ => { Power.zero with vaux := false }, setF F.KPR_STS_STATE 0 0, setF F.KPR_BOOT_STAGE 0 0, setF F.SEC_STS_BOOT_DONE 0 0]

omit hc in
theorem vauxLost_fields (l : List Nat) (s : State) : Allowed (onlyFields [.sensors, .keeper, .mon, .sec, .out]) (vauxLost l s) s := by
  simp only [vauxLost, allowed_seqA_cons, allowed_seqA_nil, and_true]
  exact ⟨by simp, allowed_forA _ _ _ fun _ _ _ => by simp, by simp, by simp, by simp⟩

omit hc in
theorem afterOff_vauxLost (l : List Nat) (s : State) : Allowed AfterOff (vauxLost l s) s := by
  simp only [vauxLost, allowed_seqA_cons, allowed_seqA_nil, and_true, allowed_whenA, allowed_emit, allowed_modKeeper, allowed_modMon, allowed_modSec]
  exact ⟨fun _ => trivial, allowed_forA _ _ _ fun _ _ _ => (allowed_modSensor _ _ _).2 trivial, trivial, trivial, trivial⟩

theorem vauxRemoval_shows : ∃ t, exec .vauxRemoval s = .next t ∧ Off s t ∧ t.power.vaux = false ∧ t.keeperUp = false ∧ t.keeper = Keeper.zero ∧
    t.mon = Mon.zero ∧ ((∀ d, d < 32 → (s.die d).progNow = []) → t.nvm = s.nvm) := by
  obtain ⟨w, hw⟩ : ∃ w, w = after (railsOff 0) s := ⟨_, rfl⟩
  obtain ⟨x, hx⟩ : ∃ x, x = after (vauxLost (SMap.keys s.sensors)) w := ⟨_, rfl⟩
  obtain ⟨t, ht⟩ : ∃ t, t = after vauxShown x := ⟨_, rfl⟩
  have hcw : w.canon = true := hw ▸ after_canon _ s hc
  have hcx : x.canon = true := hx ▸ after_canon _ w hcw
  have hoff := railsOff_shows hc 0
  rw [← hw] at hoff
  have hexec : exec .vauxRemoval s = .next t := by
    refine congrArg Host.Outcome.next ((after_congr (a := fun s => seqA [railsOff 0, whenA (fun s => s.power.thermtrip) (emit (.thermtrip false)),
      forA (SMap.keys s.sensors) fun k => modSensor k fun x => { Sensor.zero with faulty := x.faulty },
      modKeeper fun _ => Keeper.zero, modMon fun _ => Mon.zero, modSec fun x => { Sec.zero with nonceNo := x.nonceNo + 1 },
      modPower fun _ => { Power.zero with vaux := false }, setF F.KPR_STS_STATE 0 0, setF F.KPR_BOOT_STAGE 0 0,
      setF F.SEC_STS_BOOT_DONE 0 0] s) (b := seqA _) rfl).trans ?_)
    rw [vauxLost] at hx
    rw [vauxShown] at ht
    simp only [after_seqA_cons, after_seqA_end, ← hw] at hx ht ⊢
    rw [← hx, ← ht]
  have hfx : x = { w with sensors := x.sensors, keeper := x.keeper, mon := x.mon, sec := x.sec, out := x.out } :=
    hx ▸ after_overlay [.sensors, .keeper, .mon, .sec, .out] (vauxLost_fields _ w)
  have hrx : x.power.rails = false := by rw [hfx, hoff.power]
  have hpt : t.power = { Power.zero with vaux := false } := by
    rw [ht, vauxShown]
    simp only [after_seqA_cons, after_seqA_end]
    rfl
  have hft : t = { x with regs := t.regs, power := t.power } := ht ▸ after_overlay [.regs, .power] (a := vauxShown) (by simp [vauxShown])
  have hkx : x.keeper = Keeper.zero ∧ x.mon = Mon.zero := by
    rw [hx, vauxLost]
    simp only [after_seqA_cons, after_seqA_end]
    exact ⟨rfl, rfl⟩
  have hkt : t.keeper = Keeper.zero := by rw [hft, hkx.1]
  refine ⟨t, hexec, ?_, by rw [hpt], ?_, hkt, by rw [hft, hkx.2], fun h => ?_⟩
  · have htw : t = after (seqA [vauxLost (SMap.keys s.sensors), vauxShown]) w := by
      rw [after_seqA_cons, after_seqA_cons, after_seqA_end, ← hx, ht]
    rw [htw]
    refine off_of_railsOff hcw hoff ?_
    simp only [allowed_seqA_cons, allowed_seqA_nil, and_true, ← hx]
    refine ⟨afterOff_vauxLost _ w, ?_⟩
    simp only [vauxShown, allowed_seqA_cons, allowed_setF, allowed_modPower, allowed_seqA_nil, and_true]
    exact ⟨hrx.symm, .inr ⟨.inl rfl, by decide, by decide⟩, .inr ⟨.inl rfl, by decide, by decide⟩, .inr ⟨.inr (.inr rfl), by decide, by decide⟩⟩
  · have hst : t.fld F.KPR_STS_STATE 0 = 0 := by
      obtain ⟨y, hy⟩ : ∃ y, y = after (modPower fun _ => { Power.zero with vaux := false }) x := ⟨_, rfl⟩
      have hcy : y.canon = true := hy ▸ after_canon _ x hcx
      rw [ht, vauxShown]
      simp only [after_seqA_cons, after_seqA_end, ← hy]
      rw [fld_setF_reg _ (after_canon _ _ (after_canon _ y hcy)) F.SEC_STS_BOOT_DONE F.KPR_STS_STATE 0 0 0
        (regKey_ne_of_blk (by decide) (by decide)), fld_set_off (after_canon _ y hcy) _ _ _ _ _ (by decide), fld_set_same hcy _ _ _ (by decide)]
      rfl
    rw [State.keeperUp, hst]
    rfl
  · rw [hft, hfx]
    exact hoff.idle h

/-! ## A stop comparator -/

omit hc in
/-- The dirty lines of a die that are written back change its cache. -/
theorem allowed_cleanDie {P : State → Eff → Prop} (hreg : ∀ s i o v, P s (.reg .stk i o v))
    (hdie : ∀ s d c, P s (.die d { s.die d with cache := c })) (d : Nat) (s : State) : Allowed P (cleanDie d s) s := by
  refine allowed_forA _ _ s fun c _ s => ?_
  simp only [allowed_seqA_cons, allowed_seqA_nil, and_true, writeBack, allowed_bump, allowed_bumpW, allowed_modDie]
  exact ⟨⟨hreg _ _ _ _, hreg _ _ _ _⟩, hdie _ _ _⟩

/-- What the first trip of a stop comparator does beside the parking of its die. -/
def stopBegins (u j : Nat) (due : Word) (lg : Act) : Act :=
  seqA [modPower fun p => { p with drainFor := 2, due := due }, setF F.PWR_STATE_BUSY 0 1, setF F.PWR_STATE_TARGET 0 3,
    setF F.THM_STS_SRC_UNIT 0 u, setF F.THM_STS_SRC_SNS 0 j, lg, withA State.fabricJobs fun l => forA l abortOut, forA allDies cleanDie]

omit hc in
theorem abortOut_aborted (j : Nat) (s : State) : (∀ k ∈ s.aborted, k ∈ (after (abortOut j) s).aborted) ∧ j ∈ (after (abortOut j) s).aborted := by
  by_cases hj : s.aborted.contains j = true
  · have hno : after (abortOut j) s = s := by
      rw [after_congr (b := skip) (by simp only [abortOut, hj, if_true]; rfl), after_skipped]
    rw [hno]
    exact ⟨fun _ h => h, by simpa using hj⟩
  · have hab : (after (abortOut j) s).aborted = s.aborted ++ [j] := by
      rw [after_congr (b := seqA [eff fun s => .aborted (s.aborted ++ [j]), forA (s.abortLinks j) fun n => emit (.abort n (abortMsg s j 4 0 s.coord))])
        (by simp only [abortOut, hj, Bool.false_eq_true, if_false])]
      rw [after_seqA_cons, after_seqA_cons, after_seqA_end,
        after_read_eq (fs := [.out]) (a := forA (s.abortLinks j) fun n => emit (.abort n (abortMsg s j 4 0 s.coord))) State.aborted
          (allowed_forA _ _ _ fun _ _ _ => by simp) fun _ => rfl]
      rfl
    rw [hab]
    exact ⟨fun _ h => List.mem_append_left _ h, List.mem_append_right _ (List.mem_singleton_self j)⟩

omit hc in
theorem abortOuts_aborted : ∀ {l : List Nat} {s : State}, (∀ k ∈ s.aborted, k ∈ (after (forA l abortOut) s).aborted) ∧
    ∀ j ∈ l, j ∈ (after (forA l abortOut) s).aborted
  | [], _ => ⟨fun _ h => h, by simp⟩
  | a :: l, s => by
    obtain ⟨h1, h2⟩ := abortOut_aborted a s
    obtain ⟨h3, h4⟩ := abortOuts_aborted (l := l) (s := after (abortOut a) s)
    rw [after_forA_cons]
    refine ⟨fun k hk => h3 k (h1 k hk), fun j hj => ?_⟩
    obtain rfl | hj := List.mem_cons.1 hj
    · exact h3 j h2
    · exact h4 j hj

omit hc in
theorem allowed_abortOut {P : State → Eff → Prop} (hab : ∀ s l, P s (.aborted l)) (hout : ∀ s o, P s (.out o)) (j : Nat) (s : State) :
    Allowed P (abortOut j s) s := by
  simp only [abortOut]
  split
  · exact .nil _
  · simp only [allowed_seqA_cons, allowed_eff, allowed_seqA_nil, and_true]
    exact ⟨hab _ _, allowed_forA _ _ _ fun _ _ _ => (allowed_emit _ _).2 (hout _ _)⟩

theorem stopBegins_shows (u j : Nat) (hu : u < 256) (hj : j < 16) (due : Word) {lg : Act} (hlg : ∀ s, Allowed Report (lg s) s)
    (hev : ∀ {P : State → Eff → Prop}, AllowsEvents P → ∀ s, Allowed P (lg s) s) {t : State}
    (ht : t = after (stopBegins u j due lg) s) :
    t.power = { s.power with drainFor := 2, due := due } ∧ (∀ k ∈ s.fabricJobs, k ∈ t.aborted) ∧ t.flag F.PWR_STATE_BUSY 0 = true ∧
      t.fld F.THM_STS_SRC_UNIT 0 = u ∧ t.fld F.THM_STS_SRC_SNS 0 = j ∧ (∀ x, t.arrState x = s.arrState x) ∧
      (∀ d, (t.die d).parked = (s.die d).parked) ∧ t.mem = s.mem ∧ t.cells = s.cells ∧ t.passages = s.passages := by
  obtain ⟨p, hp⟩ : ∃ p, p = after (modPower fun p => { p with drainFor := 2, due := due }) s := ⟨_, rfl⟩
  obtain ⟨r, hr⟩ : ∃ r, r = after (seqA [setF F.PWR_STATE_BUSY 0 1, setF F.PWR_STATE_TARGET 0 3, setF F.THM_STS_SRC_UNIT 0 u,
    setF F.THM_STS_SRC_SNS 0 j]) p := ⟨_, rfl⟩
  obtain ⟨x, hx⟩ : ∃ x, x = after lg r := ⟨_, rfl⟩
  obtain ⟨y, hy⟩ : ∃ y, y = after (forA x.fabricJobs abortOut) x := ⟨_, rfl⟩
  have hcp : p.canon = true := hp ▸ after_canon _ s hc
  have hcr : r.canon = true := hr ▸ after_canon _ p hcp
  have hcx : x.canon = true := hx ▸ after_canon _ r hcr
  have hcy : y.canon = true := hy ▸ after_canon _ x hcx
  have hty : t = after (forA allDies cleanDie) y := by
    rw [ht, stopBegins]
    simp only [after_seqA_cons, after_seqA_end, after_withA] at hr ⊢
    rw [← hp, ← hr, ← hx, ← hy]
  have hax : ∀ {P : State → Eff → Prop}, (∀ s l, P s (.aborted l)) → (∀ s o, P s (.out o)) → Allowed P (forA x.fabricJobs abortOut x) x :=
    fun hab hout => allowed_forA _ _ x fun j _ s => allowed_abortOut hab hout j s
  have hay : ∀ {P : State → Eff → Prop}, (∀ s i o v, P s (.reg .stk i o v)) → (∀ s d c, P s (.die d { s.die d with cache := c })) →
      Allowed P (forA allDies cleanDie y) y := fun hreg hdie => allowed_forA _ _ y fun d _ s => allowed_cleanDie hreg hdie d s
  have hfp : p = { s with power := { s.power with drainFor := 2, due := due } } := hp ▸ rfl
  have hfr : r = { p with regs := r.regs } := hr ▸ after_overlay [.regs] (a := seqA _) (by simp)
  have hfx : x = { r with regs := x.regs, nvm := x.nvm, keeper := x.keeper, ports := x.ports, free := x.free, out := x.out } :=
    hx ▸ after_overlay [.regs, .nvm, .keeper, .ports, .free, .out] (hev (allowsEvents_onlyFields (List.Subset.refl _)) r)
  have hfy : y = { x with aborted := y.aborted, out := y.out } := hy ▸ after_overlay [.aborted, .out] (a := forA x.fabricJobs abortOut) (hax (by simp) (by simp))
  have hft : t = { y with regs := t.regs, dies := t.dies } := hty ▸ after_overlay [.regs, .dies] (a := forA allDies cleanDie) (hay (by simp) (by simp))
  have hfld : ∀ f : Fld, ∀ i, f.blk.code < 0x16 → f.off < 0x400 → i < 1048576 → t.fld f i = r.fld f i := fun f i hb ho hi => by
    have h1 : t.fld f i = y.fld f i := by
      rw [hty]
      refine fld_after_of_regIn hcy (p := fun k => ∃ i o, k = regKey .stk i o) (hay (fun _ i o _ => ⟨i, o, rfl⟩) (by simp)) ?_
      rintro ⟨i', o, hk⟩
      have hst : Blk.stk.code = 0x16 := rfl
      simp only [regKey] at hk
      omega
    have h2 : y.fld f i = x.fld f i := by rw [hfy]; rfl
    rw [h1, h2, hx, fld_after_report hcr (hlg r) f i (.inl (by omega))]
  refine ⟨by rw [hft, hfy, hfx, hfr, hfp], fun k hk => ?_, ?_, ?_, ?_, fun x' => ?_, fun d => ?_, by rw [hft, hfy, hfx, hfr, hfp],
    by rw [hft, hfy, hfx, hfr, hfp], by rw [hft, hfy, hfx, hfr, hfp]⟩
  · have hjobs : x.fabricJobs = s.fabricJobs := by rw [hfx, hfr, hfp]; rfl
    have h := (abortOuts_aborted (l := x.fabricJobs) (s := x)).2 k (hjobs ▸ hk)
    rw [← hy] at h
    rw [hft]
    exact h
  · rw [State.flag, hfld _ 0 (by decide) (by decide) (by decide), hr]
    simp (disch := repeat' (first | assumption | apply after_canon | decide)) only [after_seqA_cons, after_seqA_end, fld_set_off, fld_set_bits, fld_set_same]
    rfl
  · rw [hfld _ 0 (by decide) (by decide) (by decide), hr]
    simp (disch := repeat' (first | assumption | apply after_canon | decide)) only [after_seqA_cons, after_seqA_end, fld_set_bits, fld_set_same]
    exact Nat.mod_eq_of_lt hu
  · rw [hfld _ 0 (by decide) (by decide) (by decide), hr]
    simp (disch := repeat' (first | assumption | apply after_canon | decide)) only [after_seqA_cons, after_seqA_end, fld_set_same]
    exact Nat.mod_eq_of_lt hj
  · have htk := tileKey_lt x'
    have hpr : r.arrState x' = p.arrState x' := by
      rw [State.arrState, hr]
      refine fld_after_of_regIn hcp (p := fun k => k ∈ [regKey .pwr 0 0x100, regKey .thm 0 0x108]) (by simp) ?_
      simp only [List.mem_cons, List.not_mem_nil, or_false, not_or]
      exact ⟨regKey_ne_of_blk (by decide) (by simp; omega), regKey_ne_of_blk (by decide) (by simp; omega)⟩
    have hps : p.arrState x' = s.arrState x' := by rw [hfp]; rfl
    rw [State.arrState, hfld _ _ (by decide) (by decide) (by omega), ← hps, ← hpr, State.arrState]
  · have h1 : (t.die d).parked = (y.die d).parked := by
      rw [hty]
      exact after_dieRel (R := fun _ x y => y.parked = x.parked) (fun _ _ => rfl) (fun _ _ _ _ h1 h2 => h2.trans h1) hcy
        (hay (by simp) (by simp)) d
    have h2 : y.die d = s.die d := by rw [hfy, hfx, hfr, hfp]; rfl
    rw [h1, h2]

theorem thermalStop_shows (unit : Fin 49) (sns : Fin 16) (hr : s.power.rails = true) (he : snsExists unit.val sns.val = true) :
    ∃ t, exec (.thermalStop unit sns) s = .next t ∧ (∀ d, snsDie unit.val = some d → ∀ x : TileId, x.d.val = d →
        if s.arrBusy x = true then (t.die d).parked = true else t.arrState x = 5 ∨ (s.arrState x = 4 ∧ t.arrState x = 4)) ∧
      t.power.drainFor = 2 ∧ t.mem = s.mem ∧ t.cells = s.cells ∧ t.passages = s.passages ∧
      (s.power.drainFor ≠ 2 → t.power.due = s.mile + 20000000 ∧ (∀ j ∈ s.fabricJobs, j ∈ t.aborted) ∧ t.flag F.PWR_STATE_BUSY 0 = true ∧
        t.fld F.THM_STS_SRC_UNIT 0 = unit.val ∧ t.fld F.THM_STS_SRC_SNS 0 = sns.val) := by
  obtain ⟨lg, hlg⟩ : ∃ a, a = logEv none 1 4 2 noUnit 0x3F 0 0 (snsDetail unit.val sns.val (s.sensor (snsKey unit.val sns.val)).t) := ⟨_, rfl⟩
  obtain ⟨v, hv⟩ : ∃ v, v = after (forOpt (snsDie unit.val) parkDie) s := ⟨_, rfl⟩
  obtain ⟨t, ht⟩ : ∃ t, t = after (whenA (fun s => s.power.drainFor != 2) (stopBegins unit.val sns.val (s.mile + 20000000) lg)) v := ⟨_, rfl⟩
  have hcv : v.canon = true := hv ▸ after_canon _ s hc
  have hexec : exec (.thermalStop unit sns) s = .next t := by
    refine congrArg Host.Outcome.next ((after_congr (a := fun s => if s.power.rails = false ∨ snsExists unit.val sns.val = false then []
      else seqA [forOpt (snsDie unit.val) parkDie,
        whenA (fun s => s.power.drainFor != 2) (stopBegins unit.val sns.val (s.mile + 20000000)
          (logEv none 1 4 2 noUnit 0x3F 0 0 (snsDetail unit.val sns.val (s.sensor (snsKey unit.val sns.val)).t)))] s)
      (b := seqA [forOpt (snsDie unit.val) parkDie,
        whenA (fun s => s.power.drainFor != 2) (stopBegins unit.val sns.val (s.mile + 20000000) lg)]) ?_).trans ?_)
    · simp only [hr, he, Bool.true_eq_false, or_self, if_false, hlg]
    · simp only [after_seqA_cons, after_seqA_end, ← hv, ← ht]
  have hdie : ∀ d, snsDie unit.val = some d → d < 32 := fun d hd => by
    simp only [snsDie, dieOfStack] at hd
    split at hd
    · injection hd with hd
      omega
    split at hd
    · injection hd with hd
      split at hd <;> omega
    · exact nomatch hd
  have hfv : v = { s with regs := v.regs, nvm := v.nvm, keeper := v.keeper, dies := v.dies, ports := v.ports, free := v.free, out := v.out } := by
    cases hd : snsDie unit.val with
    | none => rw [hv, hd, forOpt, after_skipped]
    | some d =>
      rw [hd] at hv
      exact (parkDie_shows hc (hdie d hd) hv).2.2
  have hparked : ∀ d, snsDie unit.val = some d → ∀ x : TileId, x.d.val = d →
      if s.arrBusy x = true then (v.die d).parked = true else v.arrState x = 5 ∨ (s.arrState x = 4 ∧ v.arrState x = 4) := fun d hd x hx => by
    rw [hd] at hv
    obtain ⟨harr, hpk, -⟩ := parkDie_shows hc (hdie d hd) hv
    by_cases hb : s.arrBusy x = true
    · rw [if_pos hb]
      exact hpk
    · rw [if_neg hb, harr x]
      by_cases h4 : s.arrState x = 4
      · exact .inr ⟨h4, by rw [if_neg fun h => h.2.2 h4, h4]⟩
      · exact .inl (if_pos ⟨hx, by simpa using hb, h4⟩)
  by_cases h2 : s.power.drainFor = 2
  · have htv : t = v := by
      rw [ht, after_congr (b := skip) (by
        have hne : (v.power.drainFor != 2) = false := by rw [hfv, bne_eq_false_iff_eq]; exact h2
        simp only [whenA, hne, Bool.false_eq_true, if_false]
        rfl), after_skipped]
    rw [htv] at hexec
    exact ⟨v, hexec, hparked, by rw [hfv, h2], by rw [hfv], by rw [hfv], by rw [hfv], fun h => absurd h2 h⟩
  · have htv : t = after (stopBegins unit.val sns.val (s.mile + 20000000) lg) v := by
      have hne : (v.power.drainFor != 2) = true := by rw [hfv]; simpa using h2
      rw [ht, after_congr (b := stopBegins unit.val sns.val (s.mile + 20000000) lg) (by simp only [whenA, hne, if_true])]
    obtain ⟨hpw, hab, hbusy, hsrc, hsns, harr, hpk, hmem, hcells, hpass⟩ := stopBegins_shows hcv unit.val sns.val (by omega) sns.isLt
      (s.mile + 20000000) (fun s => hlg ▸ allowed_logEv (fun _ _ h => h) none 1 4 2 noUnit 0x3F 0 0 _ s)
      (fun hP s => hlg ▸ allowed_logEv_none hP 1 4 2 noUnit 0x3F 0 0 _ s) htv
    have hfj : s.fabricJobs = v.fabricJobs := by rw [hfv]; rfl
    refine ⟨t, hexec, fun d hd x hx => ?_, by rw [hpw], by rw [hmem, hfv], by rw [hcells, hfv], by rw [hpass, hfv],
      fun _ => ⟨by rw [hpw], fun j hj => hab j (hfj ▸ hj), hbusy, hsrc, hsns⟩⟩
    rw [hpk d, harr x]
    exact hparked d hd x hx

end

end Sys2Proof.Machine

open Sys2Proof Sys2Proof.Machine

/-- Settles O55: a stop parks its die and begins the drain; the drain's end ends every passage and parks every array; the five ways
the rails go off all leave what `railsOff` leaves. -/
theorem stopsAndLosses : Obligations.StopsAndLosses := by
  unfold Obligations.StopsAndLosses
  intro s hc
  exact ⟨fun unit sns hr he => thermalStop_shows hc unit sns hr he, fun hd hp hf => stopDrainEnd_shows hc hd hp hf,
    fun hp hk => stopRailsOff_shows hc hp hk, fun unit sns hv he => hardwareCut_shows hc unit sns hv he,
    fun v hr => undervoltage_shows hc v hr, fun hr => refclkLoss_shows hc hr, vauxRemoval_shows hc⟩
end

section
/-!
SUPPORT. Sensor samples and the noise model's refresh (R97, R341, R469–R473).
-/
namespace Sys2Proof.Machine

/-! ## A sample of a sensor -/

/-- Effects that leave every sensor as it was but for the two marks of sensor k. -/
def SensorMarks (k : Nat) (s : State) (e : Eff) : Prop :=
  match e with
  | .sensor k' v => k' = k ∧ v = { s.sensor k with faulty := v.faulty, fast := v.fast }
  | .lost _ => False
  | _ => True

theorem after_sensorMarks {k : Nat} {a : Act} {s : State} (hc : s.canon = true) (h : Allowed (SensorMarks k) (a s) s) :
    (after a s).sensor k = { s.sensor k with faulty := ((after a s).sensor k).faulty, fast := ((after a s).sensor k).fast } ∧
      ∀ k', k' ≠ k → (after a s).sensor k' = s.sensor k' := by
  refine Allowed.rel (R := fun s t => t.sensor k = { s.sensor k with faulty := (t.sensor k).faulty, fast := (t.sensor k).fast } ∧
    ∀ k', k' ≠ k → t.sensor k' = s.sensor k') ⟨fun _ => ⟨rfl, fun _ _ => rfl⟩, fun s t u h1 h2 => ⟨?_, fun k' hk => (h2.2 k' hk).trans (h1.2 k' hk)⟩⟩
    (fun s e hc he => ?_) hc h
  · rw [h2.1, h1.1]
  · cases e
    case sensor k' v =>
      obtain ⟨rfl, hv⟩ := he
      refine ⟨?_, fun k hk => ?_⟩
      · rw [sensor_ap_sensor s hc, if_pos rfl]
        exact hv
      · rw [sensor_ap_sensor s hc, if_neg hk]
    case lost => exact he.elim
    all_goals exact ⟨rfl, fun _ _ => rfl⟩

theorem allowsEvents_sensorMarks {k : Nat} : AllowsEvents (SensorMarks k) := fun _ e he _ => by
  cases e with
  | sensor | lost => exact he.elim
  | _ => trivial

theorem allowed_markFaulty {P : State → Eff → Prop} (hP : AllowsEvents P) {u n : Nat}
    (hm : ∀ s, P s (.sensor (snsKey u n) { s.sensor (snsKey u n) with faulty := true })) (s : State) : Allowed P (markFaulty u n s) s := by
  simp only [markFaulty]
  split
  · exact .nil _
  · simp [hm, allowed_logEv_none hP]

theorem allowed_nearRange {P : State → Eff → Prop} (hreg : ∀ s o v, o < 0x200 → P s (.reg .mon 0 o v)) (hnear : ∀ s v, P s (.reg .thm 0 0x120 v))
    (hmon : ∀ s m, P s (.mon m))
    {u n : Nat} (hm : ∀ s b, P s (.sensor (snsKey u n) { s.sensor (snsKey u n) with fast := b })) (s : State) : Allowed P (nearRange u n s) s := by
  simp only [nearRange]
  split
  · simp only [allowed_seqA_cons, allowed_modSensor, allowed_bump, allowed_seqA_nil, and_true]
    exact ⟨hm _ _, hnear _ _, allowed_monInject hreg hmon 0 _⟩
  · split
    · exact (allowed_modSensor _ _ _).2 (hm _ _)
    · exact .nil _

/-- Every write of the throttle of a die is of a register beyond the configuration. -/
theorem allowed_setThrottle {P : State → Eff → Prop} (hreg : ∀ s i o v, P s (.reg .thm i o v)) (d : Nat) (s : State) : Allowed P (setThrottle d s) s := by
  simp [setThrottle, hreg, Fld.nth]

/-- The registers that an event and the watch on the near range may write. -/
def nearKey (k : Nat) : Prop := evtKey k ∨ (∃ o < 0x200, k = regKey .mon 0 o) ∨ k = regKey .thm 0 0x120

theorem fld_setThrottle {s : State} (hc : s.canon = true) {d : Nat} (hd : d < 32) :
    (after (setThrottle d) s).fld (F.THM_DIE_FACTOR.nth d) 0 = throttle (max 70 (min 95 (s.fld F.THM_CFG_THROT 0)))
      (max 1 (s.fld F.THM_CFG_K 0)) (max 1 (s.fld F.THM_CFG_FLOOR 0)) (s.dieTemp d) % 2 ^ 9 := by
  obtain ⟨v, hv⟩ : ∃ v, v = throttle (max 70 (min 95 (s.fld F.THM_CFG_THROT 0))) (max 1 (s.fld F.THM_CFG_K 0))
    (max 1 (s.fld F.THM_CFG_FLOOR 0)) (s.dieTemp d) := ⟨_, rfl⟩
  obtain ⟨w, hw⟩ : ∃ w, w = after (setF (F.THM_DIE_FACTOR.nth d) 0 v) s := ⟨_, rfl⟩
  have hcw : w.canon = true := hw ▸ after_canon _ s hc
  have hx : after (setThrottle d) s = after (seqA [setF (F.THM_DIE_TMAX.nth d) 0 (tc 16 (s.dieTemp d)), setF (F.THM_DIE_SNS.nth d) 0 (s.hottest d).2,
      withA (fun s => (List.range 32).countP fun k => s.fld (F.THM_DIE_FACTOR.nth k) 0 != 256) (setF F.THM_STS_NTHROT 0)]) w := by
    refine (after_congr (b := seqA [setF (F.THM_DIE_FACTOR.nth d) 0 v, setF (F.THM_DIE_TMAX.nth d) 0 (tc 16 (s.dieTemp d)),
      setF (F.THM_DIE_SNS.nth d) 0 (s.hottest d).2, withA (fun s => (List.range 32).countP fun k => s.fld (F.THM_DIE_FACTOR.nth k) 0 != 256)
        (setF F.THM_STS_NTHROT 0)]) (by rw [setThrottle, hv])).trans ?_
    rw [after_seqA_cons, ← hw]
  have hoff : (F.THM_DIE_FACTOR.nth d).off % 65536 ≠ F.THM_STS_NTHROT.off % 65536 := by
    simp only [Fld.nth]
    omega
  rw [hx]
  simp only [after_seqA_cons, after_seqA_end, after_withA]
  rw [fld_set_off (after_canon _ _ (after_canon _ w hcw)) _ _ _ _ _ hoff, fld_set_bits (after_canon _ w hcw) _ _ _ _ _ (by simp [Fld.nth]),
    fld_set_bits hcw _ _ _ _ _ (by simp [Fld.nth]), hw, fld_set_same hc _ _ _ (by simp [Fld.nth]), hv]
  rfl

theorem snsDie_lt {u d : Nat} (h : snsDie u = some d) : d < 32 := by
  simp only [snsDie, dieOfStack] at h
  split at h
  · injection h with h
    omega
  split at h
  · injection h with h
    split at h <;> omega
  · exact nomatch h

section
variable {s : State} (hc : s.canon = true) {u n : Nat}
include hc

/-- What a sample does, whatever is kept of it: `mid` notes what else the reading says. -/
theorem sample_shows {f : Sensor → Sensor} {mid : Act} (hmid : ∀ {P : State → Eff → Prop}, AllowsEvents P →
      (∀ s, P s (.sensor (snsKey u n) { s.sensor (snsKey u n) with faulty := true })) → (∀ s y, P s (.keeper y)) → ∀ s, Allowed P (mid s) s)
    {t : State} (ht : t = after (seqA [modSensor (snsKey u n) f, mid, nearRange u n, forOpt (snsDie u) setThrottle]) s) :
    t.sensor (snsKey u n) = { f (s.sensor (snsKey u n)) with faulty := (t.sensor (snsKey u n)).faulty, fast := (t.sensor (snsKey u n)).fast } ∧
      (∀ k', k' ≠ snsKey u n → t.sensor k' = s.sensor k') ∧
      (∀ d, snsDie u = some d → t.fld (F.THM_DIE_FACTOR.nth d) 0 = throttle (max 70 (min 95 (s.fld F.THM_CFG_THROT 0)))
        (max 1 (s.fld F.THM_CFG_K 0)) (max 1 (s.fld F.THM_CFG_FLOOR 0)) (t.dieTemp d) % 2 ^ 9) ∧ t.cells = s.cells ∧ t.jobs = s.jobs := by
  obtain ⟨v, hv⟩ : ∃ v, v = after (modSensor (snsKey u n) f) s := ⟨_, rfl⟩
  obtain ⟨w, hw⟩ : ∃ w, w = after (seqA [mid, nearRange u n]) v := ⟨_, rfl⟩
  have hcv : v.canon = true := hv ▸ after_canon _ s hc
  have hcw : w.canon = true := hw ▸ after_canon _ v hcv
  have htw : t = after (forOpt (snsDie u) setThrottle) w := by
    rw [ht]
    simp only [after_seqA_cons, after_seqA_end] at hw ⊢
    rw [hw, hv]
  have hall : ∀ {P : State → Eff → Prop}, AllowsEvents P → (∀ s y, P s (.keeper y)) → (∀ s m, P s (.mon m)) →
      (∀ s, P s (.sensor (snsKey u n) { s.sensor (snsKey u n) with faulty := true })) →
      (∀ s b, P s (.sensor (snsKey u n) { s.sensor (snsKey u n) with fast := b })) →
      (∀ s o v, o < 0x200 → P s (.reg .mon 0 o v)) → (∀ s v, P s (.reg .thm 0 0x120 v)) → Allowed P (seqA [mid, nearRange u n] v) v :=
    fun hP hk hm h1 h2 h3 h4 => by
      simp only [allowed_seqA_cons, allowed_seqA_nil, and_true]
      exact ⟨hmid hP h1 hk v, allowed_nearRange h3 h4 hm h2 _⟩
  have hvs : ∀ k, v.sensor k = if k = snsKey u n then f (s.sensor (snsKey u n)) else s.sensor k := fun k => hv ▸ sensor_ap_sensor s hc _ _ k
  obtain ⟨hmark, hother⟩ := after_sensorMarks hcv (hall (P := SensorMarks (snsKey u n)) allowsEvents_sensorMarks (by simp [SensorMarks]) (by simp [SensorMarks])
    (by simp [SensorMarks]) (by simp [SensorMarks]) (by simp [SensorMarks]) (by simp [SensorMarks]))
  rw [← hw, hvs, if_pos rfl] at hmark
  have hreg : ∀ f : Fld, f.blk = .thm → f.off = 0x100 → w.fld f 0 = s.fld f 0 := fun f hb ho => by
    have hwv : w.fld f 0 = v.fld f 0 := by
      rw [hw]
      refine fld_after_of_regIn hcv (p := nearKey) (hall (allowsReports_regIn fun _ h => .inl h).events (by simp) (by simp) (by simp) (by simp)
        (fun _ o _ h => .inr (.inl ⟨o, h, rfl⟩)) fun _ _ => .inr (.inr rfl)) ?_
      rintro (h | ⟨o, h, hk⟩ | hk)
      · exact not_evtKey_of_off (b := f.blk) (i := 0) (o := f.off) (by omega) h
      · rw [hb, ho] at hk
        exact regKey_ne_of_blk (by decide) (by omega) hk
      · rw [hb, ho] at hk
        exact absurd hk (by decide)
    rw [hwv, hv]
    rfl
  have hft : t = { w with regs := t.regs } := htw ▸ after_overlay [.regs] (a := forOpt (snsDie u) setThrottle) (by
    cases snsDie u with
    | none => exact .nil _
    | some d => exact allowed_setThrottle (by simp) d w)
  have hfw : w = { v with regs := w.regs, nvm := w.nvm, keeper := w.keeper, ports := w.ports, free := w.free, out := w.out, mon := w.mon, sensors := w.sensors } :=
    hw ▸ after_overlay [.regs, .nvm, .keeper, .ports, .free, .out, .mon, .sensors] (a := seqA _)
      (hall (allowsEvents_onlyFields (by simp)) (by simp) (by simp) (by simp) (by simp) (by simp) (by simp))
  have hts : ∀ k, t.sensor k = w.sensor k := fun k => by rw [hft]; rfl
  have hfv : v = { s with sensors := v.sensors } := hv ▸ rfl
  refine ⟨by rw [hts]; exact hmark, fun k hk => by rw [hts, hw, hother k hk, hvs, if_neg hk], fun d hd => ?_, by rw [hft, hfw, hfv], by rw [hft, hfw, hfv]⟩
  have htemp : t.dieTemp d = w.dieTemp d := by rw [hft]; rfl
  rw [hd] at htw
  rw [htemp, htw, forOpt, fld_setThrottle hcw (snsDie_lt hd), hreg _ rfl rfl, hreg _ rfl rfl, hreg _ rfl rfl]

theorem sensorSample_read (un : Fin 49) (sn : Fin 16) (hk : s.keeperUp = true) (he : snsExists un.val sn.val = true) (v : Int) :
    ∃ t, exec (.sensorSample un sn (some v)) s = .next t ∧
      t.sensor (snsKey un.val sn.val) = { s.sensor (snsKey un.val sn.val) with
        t := v, miss := 0, seen := true, faulty := (t.sensor (snsKey un.val sn.val)).faulty, fast := (t.sensor (snsKey un.val sn.val)).fast } ∧
      (∀ k', k' ≠ snsKey un.val sn.val → t.sensor k' = s.sensor k') ∧
      (∀ d, snsDie un.val = some d → t.fld (F.THM_DIE_FACTOR.nth d) 0 = throttle (max 70 (min 95 (s.fld F.THM_CFG_THROT 0)))
        (max 1 (s.fld F.THM_CFG_K 0)) (max 1 (s.fld F.THM_CFG_FLOOR 0)) (t.dieTemp d) % 2 ^ 9) ∧ t.cells = s.cells ∧ t.jobs = s.jobs := by
  obtain ⟨mid, hmid⟩ : ∃ mid, mid = seqA [whenA (fun _ => decide (un.val < 32)) (modKeeper fun y => { y with
      tHours := SMap.set (fun _ => []) y.tHours un.val (addSample (s.nvm.pos / 3600) v (SMap.get (fun _ => []) y.tHours un.val)) }),
    whenA (fun s => s.snsOdd un.val sn.val v) (markFaulty un.val sn.val)] := ⟨_, rfl⟩
  refine ⟨_, ?_, sample_shows hc (mid := mid) (f := fun x => { x with t := v, miss := 0, seen := true }) (fun hP h1 h2 s => ?_) rfl⟩
  · refine congrArg Host.Outcome.next ((after_congr (a := fun s => if s.keeperUp = false ∨ snsExists un.val sn.val = false then [] else seqA _ s)
      (b := seqA _) (by
        simp only [hk, he, Bool.true_eq_false, or_self, if_false]
        rfl)).trans ?_)
    rw [hmid]
    simp only [after_seqA_cons, after_seqA_end]
  · simp [hmid, h2, allowed_markFaulty hP h1]

theorem sensorSample_missed (un : Fin 49) (sn : Fin 16) (hk : s.keeperUp = true) (he : snsExists un.val sn.val = true) :
    ∃ t, exec (.sensorSample un sn none) s = .next t ∧
      t.sensor (snsKey un.val sn.val) = { s.sensor (snsKey un.val sn.val) with
        miss := (s.sensor (snsKey un.val sn.val)).miss + 1, faulty := (t.sensor (snsKey un.val sn.val)).faulty, fast := (t.sensor (snsKey un.val sn.val)).fast } ∧
      (∀ k', k' ≠ snsKey un.val sn.val → t.sensor k' = s.sensor k') ∧ t.cells = s.cells ∧ t.jobs = s.jobs := by
  obtain ⟨mid, hmid⟩ : ∃ mid, mid = whenA (fun s => decide (3 ≤ (s.sensor (snsKey un.val sn.val)).miss)) (markFaulty un.val sn.val) := ⟨_, rfl⟩
  obtain ⟨t, ht⟩ : ∃ t, t = after (seqA [modSensor (snsKey un.val sn.val) (fun x => { x with miss := x.miss + 1 }), mid, nearRange un.val sn.val,
    forOpt (snsDie un.val) setThrottle]) s := ⟨_, rfl⟩
  obtain ⟨h1, h2, -, h4, h5⟩ := sample_shows hc (fun hP h1 _ s => by simp [hmid, allowed_markFaulty hP h1]) ht
  refine ⟨t, ?_, h1, h2, h4, h5⟩
  refine congrArg Host.Outcome.next ((after_congr (a := fun s => if s.keeperUp = false ∨ snsExists un.val sn.val = false then [] else seqA _ s)
    (b := seqA _) (by
        simp only [hk, he, Bool.true_eq_false, or_self, if_false]
        rfl)).trans ?_)
  rw [ht, hmid]
  simp only [after_seqA_cons, after_seqA_end]

/-! ## The delivery of samples to a die -/

/-- The tracking factor that a sample gives a tile's array. -/
def trackSample (s : State) (x : TileId) : Conv :=
  let v := trackOf (s.tileTemp x - (s.calRec x).tcal)
  { s.conv x with next := v, track := if s.arrBusy x then (s.conv x).track else v }

omit hc in
theorem allowed_calAsk {P : State → Eff → Prop} (hreg : ∀ s b d o v, P s (.reg b d o v)) {t : TileId}
    (hdie : ∀ s due now ord, P s (.die t.d.val { s.die t.d.val with calDue := due, calNow := now, sbOrd := ord })) (cls : Nat) (delta : Int) (s : State) :
    Allowed P (calAsk t cls delta s) s := by
  simp only [calAsk]
  split
  · exact .nil _
  · split <;> simp [hreg, hdie]

omit hc in
/-- What the sample of a tile changes: its converter, and what its die has due. -/
theorem allowed_sampleTile {P : State → Eff → Prop} (hreg : ∀ s b d o v, P s (.reg b d o v)) {t : TileId}
    (hdie : ∀ s due now ord, P s (.die t.d.val { s.die t.d.val with calDue := due, calNow := now, sbOrd := ord }))
    (hconv : ∀ s c, P s (.conv t c)) (s : State) : Allowed P (sampleTile t s) s := by
  simp only [sampleTile, allowed_seqA_cons, allowed_modConv, allowed_modDie, allowed_whenA, allowed_seqA_nil, and_true]
  exact ⟨hconv _ _, hdie _ _ _ _, fun _ => allowed_calAsk hreg hdie _ _ _⟩

omit hc in
/-- A converter's change, with nothing but registers and dies changed after it. -/
theorem conv_after_modConv {s : State} (hc : s.canon = true) {a : TileId} {f : Conv → Conv} {r : List Act} (hr : ∀ s, Allowed (onlyFields [.regs, .dies]) (seqA r s) s) (x : TileId) :
    (after (seqA (modConv a f :: r)) s).conv x = if x = a then f (s.conv a) else s.conv x := by
  rw [after_seqA_cons, after_read_eq (State.conv · x) (hr _) fun _ => rfl]
  exact conv_ap_conv s hc _ _ x

omit hc in
theorem sampleTiles_show : ∀ {l : List TileId} {s : State} (_ : s.canon = true) {t : State} (_ : t = after (forA l sampleTile) s),
    (∀ x, t.conv x = if x ∈ l then trackSample s x else s.conv x) ∧ (∀ d, (t.die d).calOwed = (s.die d).calOwed) ∧
      (∀ d, (∀ x ∈ l, x.d.val ≠ d) → t.die d = s.die d) ∧ t = { s with regs := t.regs, dies := t.dies, convs := t.convs }
  | [], s, _, t, ht => by
    subst ht
    exact ⟨fun x => (if_neg (by simp)).symm, fun _ => rfl, fun _ _ => rfl, rfl⟩
  | a :: l, s, hc, t, ht => by
    obtain ⟨u, hu⟩ : ∃ u, u = after (sampleTile a) s := ⟨_, rfl⟩
    have hcu : u.canon = true := hu ▸ after_canon _ s hc
    rw [after_forA_cons, ← hu] at ht
    obtain ⟨hconv, howed, hdies, hov⟩ := sampleTiles_show hcu ht
    have hfu : u = { s with regs := u.regs, dies := u.dies, convs := u.convs } :=
      hu ▸ after_overlay [.regs, .dies, .convs] (a := sampleTile a) (allowed_sampleTile (by simp) (by simp) (by simp) s)
    have hou : ∀ d, (u.die d).calOwed = (s.die d).calOwed := fun d => hu ▸ after_dieRel (R := fun _ x y => y.calOwed = x.calOwed)
      (fun _ _ => rfl) (fun _ _ _ _ h1 h2 => h2.trans h1) hc (allowed_sampleTile (by simp) (by simp) (by simp) s) d
    have huc : ∀ x, u.conv x = if x = a then trackSample s a else s.conv x := fun x =>
      (congrArg (State.conv · x) (hu.trans (after_congr (a := sampleTile a) (b := seqA (_ :: _)) rfl))).trans
        (conv_after_modConv hc (fun s => by
          simp only [allowed_seqA_cons, allowed_modDie, allowed_whenA, allowed_seqA_nil, and_true]
          exact ⟨by simp, fun _ => allowed_calAsk (by simp) (by simp) _ _ _⟩) x)
    have hread : ∀ x, u.calRec x = s.calRec x ∧ u.tileTemp x = s.tileTemp x ∧ u.arrBusy x = s.arrBusy x := fun x => by
      refine ⟨?_, ?_⟩
      · rw [State.calRec, hou, hfu]
        rfl
      · rw [hfu]
        exact ⟨rfl, rfl⟩
    have hsame : ∀ x, trackSample u x = trackSample s x := fun x => by
      obtain ⟨hcr, htt, hbz⟩ := hread x
      rw [trackSample, hcr, htt, hbz, huc]
      by_cases hx : x = a
      · rw [if_pos hx, hx]
        simp only [trackSample]
        split <;> rfl
      · rw [if_neg hx, trackSample]
    refine ⟨fun x => ?_, fun d => (howed d).trans (hou d), fun d hd => ?_, by rw [hov, hfu]⟩
    · rw [hconv, hsame, huc]
      by_cases hx : x = a
      · subst hx
        rw [if_pos rfl, if_pos (List.mem_cons_self ..), ite_self]
      · rw [if_neg hx]
        exact if_congr ⟨List.mem_cons_of_mem _, fun h => (List.mem_cons.1 h).resolve_left hx⟩ rfl rfl
    · rw [hdies d fun x hx => hd x (List.mem_cons_of_mem _ hx), hu]
      exact after_diesBut hc (L := [a.d.val]) (allowed_sampleTile (by simp) (by simp) (by simp) s) d (by simpa using (hd a (List.mem_cons_self ..)).symm)

theorem sampleDelivery_shows (hk : s.keeperUp = true) (d : Fin 32) : ∃ t, exec (.sampleDelivery d) s = .next t ∧
    (∀ x : TileId, x.d = d → (s.core (.tile x)).bound ≠ none → t.conv x = trackSample s x) ∧
    (∀ x : TileId, x.d ≠ d ∨ (s.core (.tile x)).bound = none → t.conv x = s.conv x) ∧
    DiesBut [d.val] s t ∧ t = { s with regs := t.regs, dies := t.dies, convs := t.convs } := by
  obtain ⟨t, ht⟩ : ∃ t, t = after (forA (s.boundTiles d.val) sampleTile) s := ⟨_, rfl⟩
  obtain ⟨hconv, -, hdies, hov⟩ := sampleTiles_show hc ht
  have hmem : ∀ x, x ∈ s.boundTiles d.val ↔ x.d = d ∧ (s.core (.tile x)).bound ≠ none := fun x => by
    rw [State.boundTiles, List.mem_filter, Option.isSome_iff_ne_none]
    exact and_congr_left' ⟨fun h => Fin.ext (d_of_mem_dieTiles d.isLt h), fun h => h ▸ mem_dieTiles x⟩
  refine ⟨t, ?_, fun x hx hb => ?_, fun x hx => ?_, fun e he => hdies e fun x hx hd => ?_, hov⟩
  · refine congrArg Host.Outcome.next ((after_congr (a := fun s => if s.keeperUp = false then [] else forA (s.boundTiles d.val) sampleTile s) ?_).trans ht.symm)
    simp only [hk, Bool.true_eq_false, if_false]
  · rw [hconv, if_pos ((hmem x).2 ⟨hx, hb⟩)]
  · rw [hconv, if_neg fun h => ?_]
    obtain ⟨h1, h2⟩ := (hmem x).1 h
    exact hx.elim (absurd h1) fun hn => h2 hn
  · refine he (List.mem_singleton.2 ?_)
    rw [← hd, ((hmem x).1 hx).1]

/-! ## The noise model's refresh -/

omit hc in
theorem after_draws {α : Type} (l : List α) (s : State) : after (forA l fun _ => draw) s = { s with free := s.free + l.length } := by
  induction l generalizing s with
  | nil => rfl
  | cons a l ih =>
    rw [after_forA_cons, ih, List.length_cons, ← Nat.add_assoc, Nat.add_right_comm]
    rfl

omit hc in
theorem noiseModelRefresh_shows (hk : s.keeperUp = true) : ∃ t, exec .noiseModelRefresh s = .next t ∧
    t.nvm.noiseSeq = (s.nvm.noiseSeq + 1) % 2 ^ 32 ∧ t.nvm.noisePoh = s.nvm.pos / 3600 ∧
    t.nvm = { s.nvm with noise := t.nvm.noise, noiseSeq := t.nvm.noiseSeq, noisePoh := t.nvm.noisePoh } ∧ t.free = s.free + 64 ∧
    t = { s with nvm := t.nvm, free := t.free } := by
  obtain ⟨b, hb⟩ : ∃ b, b = (allDies.flatMap s.noiseDie) ++ allDies.flatMap fun d => (dieTiles (fin32 d)).flatMap s.noiseArr := ⟨_, rfl⟩
  obtain ⟨t, ht⟩ : ∃ t, t = after (modNvm fun n => { n with noise := b, noiseSeq := (n.noiseSeq + 1) % 2 ^ 32, noisePoh := n.pos / 3600 })
    { s with free := s.free + 64 } := ⟨_, rfl⟩
  refine ⟨t, ?_, by rw [ht]; rfl, by rw [ht]; rfl, by rw [ht]; rfl, by rw [ht]; rfl, by rw [ht]; rfl⟩
  refine congrArg Host.Outcome.next ((after_congr (a := whenA (fun s => s.keeperUp) noiseRefresh)
    (b := seqA [forA (List.range 64) fun _ => draw, modNvm fun n => { n with noise := b, noiseSeq := (n.noiseSeq + 1) % 2 ^ 32, noisePoh := n.pos / 3600 }]) ?_).trans ?_)
  · rw [whenA, if_pos hk, noiseRefresh, hb]
  · rw [after_seqA_cons, after_seqA_cons, after_seqA_end, after_draws, List.length_range, ht]

end

end Sys2Proof.Machine

open Sys2Proof Sys2Proof.Machine

/-- Settles O39: the sample keeps its sensor but for two marks, and the die it bears on is throttled by what it then reads. -/
theorem sensorsAndNoise : Obligations.SensorsAndNoise := by
  unfold Obligations.SensorsAndNoise
  intro s hc hk
  exact ⟨fun u n he => ⟨sensorSample_read hc u n hk he, sensorSample_missed hc u n hk he⟩, sampleDelivery_shows hc hk, noiseModelRefresh_shows hk⟩
end

section
/-!
SUPPORT. Staging records (R497, R498).
-/
namespace Sys2Proof.Machine

/-! ## What an access to words without poison leaves to read -/

section
variable {s w : State} (h : LinesOnly s w)
include h

theorem LinesOnly.frame : w = { s with regs := w.regs, dies := w.dies } := h.1

theorem LinesOnly.die_eq (d : Nat) : DieSlices (s.die d) (w.die d) := by
  have hd := h.2.1 d
  rw [DieLines] at hd
  rw [DieSlices]
  rw [hd]

theorem LinesOnly.butSlices : ButSlices [] s w := by
  refine ⟨?_, fun x => ?_, ?_, ?_, h.die_eq, fun k _ _ hk => h.2.2 k fun i o _ hki => hk ⟨i, o, hki⟩⟩ <;> rw [h.frame]

theorem LinesOnly.fld_eq {f : Fld} {i : Nat} (hb : f.blk.code < 0x16) (hi : i < 1048576) (ho : f.off < 65536) : w.fld f i = s.fld f i :=
  h.butSlices.fld (by simp) hb hi ho

theorem LinesOnly.stageCheck_eq (p a kind : Nat) (r : StageRec) (signed : Bool) : w.stageCheck p a kind r signed = s.stageCheck p a kind r signed := by
  have hsec : w.secState = s.secState := h.fld_eq (by decide) (by decide) (by decide)
  have himg : w.imagesEmpty = s.imagesEmpty := by
    rw [State.imagesEmpty, State.imagesEmpty, Bool.eq_iff_iff]
    simp only [List.all_eq_true, allDies, List.mem_range]
    refine forall₂_congr fun d hd => ?_
    rw [h.fld_eq (by decide) (by omega) (by decide)]
  have hrest : w.seqOk r = s.seqOk r ∧ w.stageSigned r signed = s.stageSigned r signed := by
    rw [h.frame]
    exact ⟨rfl, rfl⟩
  simp only [State.stageCheck, h.butSlices.owns_eq, hsec, himg, hrest.1, hrest.2]

end

/-! ## A command of the staging register -/

/-- What is done with the record once it has been read. -/
def staged (c : Nat) (r : StageRec) : Act := fun s =>
  if c ≠ 0 then setF F.SEC_STAGE_STS_CODE 0 c s
  else seqA [nvmWrite (stageEffect r), setF F.SEC_STAGE_STS_CODE 0 (if Config.nvmFails s.free ≤ s.nvm.spare then 0 else 10)] s

theorem stageCheck_lt (s : State) (p a kind : Nat) (r : StageRec) (signed : Bool) : s.stageCheck p a kind r signed < 256 := by
  simp only [State.stageCheck]
  repeat' split
  all_goals decide

/-- What a staging command ends with. -/
def StageEnds (i : Instr) (kind c : Nat) (s : State) (took : State → Prop) : Prop :=
  ∃ t, exec i s = .next t ∧ (c ≠ 0 → t.fld F.SEC_STAGE_STS_CODE 0 = c ∧ ButSlices [regKey .sec 0 0x1B8] s t) ∧
    (c = 0 → Config.nvmFails s.free = 0 → t.fld F.SEC_STAGE_STS_CODE 0 = 0 ∧ took t ∧
      (∀ d, DieSlices (s.die d) (t.die d)) ∧ (kind ≠ 4 → t.keeper = s.keeper ∧ t.ports = s.ports ∧ t.out = s.out) ∧
      t = { s with regs := t.regs, nvm := t.nvm, cells := t.cells, sec := t.sec, free := t.free, dies := t.dies, keeper := t.keeper,
                   ports := t.ports, out := t.out })

section
variable {s : State} (hc : s.canon = true) {src : Src} {v : Word} {kind p a c : Nat} {signed : Bool} {r : StageRec}
  (ht : s.takes src .sec 0 0x1B0 = true) (hgo : F.SEC_STAGE_CMD_GO.of v = 1) (hkind : kind = F.SEC_STAGE_CMD_KIND.of v)
  (hpart : p = (s.srcPart src).getD s.mgmt) (ha : a = s.fld F.SEC_STAGE_ADDR_ADDR 0 * 64)
  (hsig : signed = (kind == 4 || (decide (kind ≤ 2) && s.secState == 2))) (hr : r = s.stageRec a signed)
  (hck : c = s.stageCheck p a kind r signed) (hheld : s.heldE a r.len = []) (hpoison : s.poison = [])
include hc ht hgo hkind hpart ha hsig hr hck hheld hpoison

/-- The record is read at the slices where the partition owns it, and what is decided is what the state before says. -/
theorem stageCmd_acts : ∃ w, LinesOnly s w ∧ w.canon = true ∧ after (stageCmd src v) s = after (staged c r) w := by
  obtain ⟨act, hact⟩ : ∃ act : Act, act = fun s => staged (s.stageCheck p a kind r signed) r s := ⟨_, rfl⟩
  have hcmd : after (stageCmd src v) s = after (ownedRead p a r.len act) s := by
    refine after_congr ?_
    rw [stageCmd, guardW_of_takes ht]
    have hne : ¬ F.SEC_STAGE_CMD_GO.of v = 0 := by omega
    simp only [hne, if_false, ← hkind, ← hpart, ← ha, ← hsig, ← hr, hact]
    rfl
  have hthen : ∀ w, LinesOnly s w → after act w = after (staged c r) w := fun w hw => by
    rw [hact, hck, ← hw.stageCheck_eq]
    rfl
  by_cases ho : s.owns p a r.len = true
  · have hlines := linesOnly_sliceReads hc hpoison true a r.len
    refine ⟨_, hlines, after_canon _ s hc, ?_⟩
    rw [hcmd, ← hthen _ hlines, ← after_unitRead (by rw [hheld]; rfl), ownedRead]
    exact after_congr (by simp only [iteA, ho, if_true])
  · have hself := composes_lines.refl s
    refine ⟨s, hself, hc, ?_⟩
    rw [hcmd, ← hthen s hself, ownedRead]
    exact after_congr (by simp only [iteA, ho, Bool.false_eq_true, if_false])

/-- A record that fails a check leaves the code. -/
theorem stageCmd_refused (hne : c ≠ 0) {t : State} (htt : t = after (stageCmd src v) s) :
    t.fld F.SEC_STAGE_STS_CODE 0 = c ∧ ButSlices [regKey .sec 0 0x1B8] s t := by
  obtain ⟨w, hw, hcw, hcmd⟩ := stageCmd_acts hc ht hgo hkind hpart ha hsig hr hck hheld hpoison
  have htw : t = after (setF F.SEC_STAGE_STS_CODE 0 c) w := by
    rw [htt, hcmd]
    exact after_congr (by simp only [staged, hne, ne_eq, not_false_eq_true, if_true])
  refine ⟨?_, (composes_slices _).trans _ _ _ (hw.butSlices.mono (by simp)) ?_⟩
  · rw [htw, fld_set_same hcw _ _ _ (by decide)]
    exact Nat.mod_eq_of_lt (hck ▸ stageCheck_lt s p a kind r signed)
  · rw [htw]
    exact butSlices_of_regsBut (after_overlay [.regs] (a := setF F.SEC_STAGE_STS_CODE 0 c) (by simp))
      (after_regsBut hcw (a := setF F.SEC_STAGE_STS_CODE 0 c) (by simp))

/-- A sound record takes its effect where NVM takes the write. -/
theorem stageCmd_takes (h0 : c = 0) (hnvm : Config.nvmFails s.free = 0) : ∃ w, LinesOnly s w ∧ w.canon = true ∧
    after (stageCmd src v) s = after (setF F.SEC_STAGE_STS_CODE 0 0) (after (stageEffect r) (after draw w)) := by
  obtain ⟨w, hw, hcw, hcmd⟩ := stageCmd_acts hc ht hgo hkind hpart ha hsig hr hck hheld hpoison
  refine ⟨w, hw, hcw, ?_⟩
  have hfree : Config.nvmFails w.free = 0 := by rw [hw.frame]; exact hnvm
  rw [hcmd, after_congr (a := staged c r) (b := seqA [nvmWrite (stageEffect r), setF F.SEC_STAGE_STS_CODE 0 0])
    (by simp only [staged, h0, hfree, ne_eq, not_true_eq_false, if_false, Nat.zero_le, if_true]),
    after_seqA_cons, after_seqA_cons, after_seqA_end,
    after_congr (a := nvmWrite (stageEffect r)) (b := seqA [draw, stageEffect r]) (by simp only [nvmWrite, hfree, if_true]),
    after_seqA_cons, after_seqA_cons, after_seqA_end]

/-- A record whose effect is all in NVM. -/
theorem stageEnds_of_nvm {i : Instr} (hi : exec i s = .next (after (stageCmd src v) s)) {f : Nvm → Nvm}
    (hf : c = 0 → stageEffect r = modNvm f) : StageEnds i kind c s fun t => t.nvm = f s.nvm ∧ t.cells = s.cells := by
  obtain ⟨t, htt⟩ : ∃ t, t = after (stageCmd src v) s := ⟨_, rfl⟩
  refine ⟨t, hi.trans (by rw [htt]), fun hne => stageCmd_refused hc ht hgo hkind hpart ha hsig hr hck hheld hpoison hne htt, fun h0 hnvm => ?_⟩
  obtain ⟨w, hw, hcw, hcmd⟩ := stageCmd_takes hc ht hgo hkind hpart ha hsig hr hck hheld hpoison h0 hnvm
  obtain ⟨u, hu⟩ : ∃ u, u = after (modNvm f) (after draw w) := ⟨_, rfl⟩
  have hcu : u.canon = true := hu ▸ after_canon _ _ (after_canon _ w hcw)
  rw [hcmd, hf h0, ← hu] at htt
  have hft : t = { u with regs := t.regs } := htt ▸ after_overlay [.regs] (a := setF F.SEC_STAGE_STS_CODE 0 0) (by simp)
  have hfu : u = { w with nvm := f w.nvm, free := w.free + 1 } := hu ▸ rfl
  refine ⟨by rw [htt, fld_set_same hcu _ _ _ (by decide)]; rfl, ⟨?_, ?_⟩, fun d => ?_, fun _ => ⟨?_, ?_, ?_⟩, ?_⟩
  case refine_3 =>
    have hd : t.die d = w.die d := by rw [hft, hfu]; rfl
    rw [hd]
    exact hw.die_eq d
  all_goals rw [hft, hfu, hw.frame]

end

/-- The kind of a record that passes the checks is that of its command. -/
theorem kind_of_stageCheck {s : State} {p a kind : Nat} {r : StageRec} {signed : Bool} (h0 : s.stageCheck p a kind r signed = 0) : r.kind = kind := by
  rw [State.stageCheck] at h0
  by_contra hne
  split at h0
  · exact absurd h0 (by decide)
  · rw [if_pos (.inr (.inl hne))] at h0
    exact absurd h0 (by decide)

theorem stageEffect_ptab {r : StageRec} (h : r.kind = 1) : stageEffect r = modNvm fun n => { n with ptabStaged := some r.body } := by
  simp only [stageEffect, h]

theorem stageEffect_cfg {r : StageRec} (h : r.kind = 2) :
    stageEffect r = modNvm fun n => { n with cfgStaged := some (leAt r.body 0 4, cfgEntries r.body) } := by
  simp only [stageEffect, h]

theorem stageEffect_provision {r : StageRec} (h : r.kind = 5) : stageEffect r = modNvm fun n => { n with cert := r.body, secState := 1 } := by
  simp only [stageEffect, h]

/-! ## What DEPLOY and DECOMMISSION show (R498) -/

/-- The security state and the owner, once debug has ended. -/
theorem secShown {y : State} (hc : y.canon = true) {st ow : Nat} (hst : st < 8) {t : State}
    (ht : t = after (setF F.SEC_STAGE_STS_CODE 0 0) (after debugEnd (after (setF F.SEC_STS_OWNER 0 ow) (after (setF F.SEC_STS_STATE 0 st) y)))) :
    t.secState = st ∧ t.debug = 0 ∧ t.fld F.SEC_STAGE_STS_CODE 0 = 0 ∧ t = { y with regs := t.regs, sec := t.sec } := by
  have hft : t = { y with regs := t.regs, sec := t.sec } := by
    have hall : t = after (seqA [setF F.SEC_STS_STATE 0 st, setF F.SEC_STS_OWNER 0 ow, debugEnd, setF F.SEC_STAGE_STS_CODE 0 0]) y := by
      rw [ht]
      simp only [after_seqA_cons, after_seqA_end]
    exact hall ▸ after_overlay [.regs, .sec] (a := seqA _) (by simp [debugEnd])
  have hsec : ∀ (f : Sec → Sec) (z : State) (g : Fld), (after (modSec f) z).fld g 0 = z.fld g 0 := fun _ _ _ => rfl
  refine ⟨?_, ?_, ?_, hft⟩
  · rw [State.secState, ht, debugEnd]
    simp (disch := repeat' (first | assumption | apply after_canon | decide)) only [after_seqA_cons, after_seqA_end, hsec, fld_set_off, fld_set_bits, fld_set_same]
    exact Nat.mod_eq_of_lt hst
  · rw [State.debug, ht, debugEnd]
    simp (disch := repeat' (first | assumption | apply after_canon | decide)) only [after_seqA_cons, after_seqA_end, hsec, fld_set_off, fld_set_bits, fld_set_same]
    rfl
  · rw [ht, fld_set_same (after_canon _ _ (after_canon _ _ (after_canon _ y hc))) _ _ _ (by decide)]
    rfl

/-! ## Every usable array is wiped (R498) -/

/-- What a wiped array's rewrite may leave beside its cells. -/
def Wiped (s : State) (e : Eff) : Prop :=
  match e with
  | .cell .. => True
  | e => Rewritten s e

theorem allowed_countRewrite (x : TileId) (s : State) : Allowed Rewritten (countRewrite x s) s := by
  simp only [countRewrite, allowed_seqA_cons, allowed_modTsum, allowed_seqA_nil, and_true, allowed_whenA]
  exact ⟨⟨rfl, id⟩, fun _ => allowed_histRing _ _⟩

theorem allowed_wipeTile (x : TileId) (s : State) : Allowed Wiped (wipeTile x s) s := by
  simp only [wipeTile, allowed_seqA_cons, allowed_modCell, allowed_seqA_nil, and_true]
  exact ⟨trivial, (allowed_countRewrite x _).mono fun s e he => by cases e <;> first | exact trivial | exact he⟩

theorem wipeTiles_show : ∀ {l : List TileId} {s : State}, s.canon = true → ∀ x,
    (after (forA l wipeTile) s).cell x = if x ∈ l then Cells.erased else s.cell x
  | [], s, _, x => (if_neg (by simp)).symm
  | a :: l, s, hc, x => by
    have hstep : (after (wipeTile a) s).cell x = if x = a then Cells.erased else s.cell x := by
      rw [wipeTile, after_seqA_cons, after_seqA_cons, after_seqA_end,
        after_read_eq (fs := [.regs, .nvm, .keeper, .dies, .ports, .free, .out]) (State.cell · x)
          ((allowed_countRewrite a _).mono fun s e he => ?_) fun _ => rfl]
      · exact cell_ap_cell s hc _ _ x
      · cases e with
        | nvm => simp
        | _ => exact allowsReports_onlyFields (List.Subset.refl _) s _ he
    rw [after_forA_cons, wipeTiles_show (after_canon _ s hc), hstep]
    by_cases hx : x = a
    · rw [if_pos hx, ite_self, if_pos (hx ▸ List.mem_cons_self ..)]
    · rw [if_neg hx]
      exact if_congr ⟨List.mem_cons_of_mem _, fun h => (List.mem_cons.1 h).resolve_left hx⟩ rfl rfl

/-- What wiping arrays leaves: their dies but for held log records, and all but what a rewrite counts and reports. -/
theorem wipeTiles_frame {s : State} (hc : s.canon = true) (l : List TileId) {t : State} (ht : t = after (forA l wipeTile) s) :
    (∀ d, DieSlices (s.die d) (t.die d)) ∧ t = { s with
      regs := t.regs, nvm := t.nvm, cells := t.cells, keeper := t.keeper,
      dies := t.dies, ports := t.ports, free := t.free, out := t.out } := by
  have hall : Allowed Wiped (forA l wipeTile s) s := allowed_forA _ _ s fun x _ s => allowed_wipeTile x s
  refine ⟨fun d => ht ▸ after_dieRel (R := fun _ => DieSlices) (fun _ => DieSlices.refl) (fun _ _ _ _ => DieSlices.trans) hc
    (hall.mono fun s e he => ?_) d, ht ▸ after_overlay [.regs, .nvm, .cells, .keeper, .dies, .ports, .free, .out] (a := forA l wipeTile)
      (hall.mono fun s e he => ?_)⟩
  · cases e with
    | die => exact dieSlices_of_logs he
    | _ => trivial
  · cases e with
    | nvm | cell => simp
    | _ => exact allowsReports_onlyFields (by simp) s _ he

/-- What DECOMMISSION writes over non-volatile memory. -/
def Nvm.forgets (n : Nvm) : Nvm := { n with
  tsum := (SMap.keys n.tsum).foldl (fun m k => SMap.set (fun _ => TileSum.zero) m k
    { SMap.get (fun _ => TileSum.zero) n.tsum k with tagStage := 0, tagEpoch := 0, tagArr := 0, valid := false }) n.tsum
  retain := [], cfgStaged := none, ownerKey := [], ptabStaged := some Ptab.default.bytes, secState := 1 }

section
variable {s : State} (hc : s.canon = true) {src : Src} {v : Word} {kind p a c : Nat} {signed : Bool} {r : StageRec}
  (ht : s.takes src .sec 0 0x1B0 = true) (hgo : F.SEC_STAGE_CMD_GO.of v = 1) (hkind : kind = F.SEC_STAGE_CMD_KIND.of v)
  (hpart : p = (s.srcPart src).getD s.mgmt) (ha : a = s.fld F.SEC_STAGE_ADDR_ADDR 0 * 64)
  (hsig : signed = (kind == 4 || (decide (kind ≤ 2) && s.secState == 2))) (hr : r = s.stageRec a signed)
  (hck : c = s.stageCheck p a kind r signed) (hheld : s.heldE a r.len = []) (hpoison : s.poison = [])
include hc ht hgo hkind hpart ha hsig hr hck hheld hpoison

theorem stageEnds_of_deploy {i : Instr} (hi : exec i s = .next (after (stageCmd src v) s)) (hk : c = 0 → r.kind = 3) :
    StageEnds i kind c s fun t => t.nvm = { s.nvm with ownerKey := r.body, secState := 2 } ∧ t.secState = 2 ∧ t.debug = 0 ∧ t.cells = s.cells := by
  obtain ⟨t, htt⟩ : ∃ t, t = after (stageCmd src v) s := ⟨_, rfl⟩
  refine ⟨t, hi.trans (by rw [htt]), fun hne => stageCmd_refused hc ht hgo hkind hpart ha hsig hr hck hheld hpoison hne htt, fun h0 hnvm => ?_⟩
  obtain ⟨w, hw, hcw, hcmd⟩ := stageCmd_takes hc ht hgo hkind hpart ha hsig hr hck hheld hpoison h0 hnvm
  obtain ⟨u, hu⟩ : ∃ u, u = after (modNvm fun n => { n with ownerKey := r.body, secState := 2 }) (after draw w) := ⟨_, rfl⟩
  have hcu : u.canon = true := hu ▸ after_canon _ _ (after_canon _ w hcw)
  rw [hcmd, after_congr (a := stageEffect r) (b := seqA [modNvm fun n => { n with ownerKey := r.body, secState := 2 }, setF F.SEC_STS_STATE 0 2,
    setF F.SEC_STS_OWNER 0 1, debugEnd]) (by simp only [stageEffect, hk h0])] at htt
  simp only [after_seqA_cons, after_seqA_end, ← hu] at htt
  obtain ⟨hst, hdbg, hcode, hft⟩ := secShown hcu (by decide) htt
  have hfu : u = { w with nvm := { w.nvm with ownerKey := r.body, secState := 2 }, free := w.free + 1 } := hu ▸ rfl
  refine ⟨hcode, ⟨?_, hst, hdbg, ?_⟩, fun d => ?_, fun _ => ⟨?_, ?_, ?_⟩, ?_⟩
  case refine_3 =>
    have hd : t.die d = w.die d := by rw [hft, hfu]; rfl
    rw [hd]
    exact hw.die_eq d
  all_goals rw [hft, hfu, hw.frame]

theorem stageEnds_of_decommission {i : Instr} (hi : exec i s = .next (after (stageCmd src v) s)) (h4 : kind = 4) (hk : c = 0 → r.kind = 4) :
    StageEnds i kind c s fun t => (∀ x : TileId, s.usable x = true → t.cell x = Cells.erased) ∧
      (∀ x : TileId, s.usable x = false → t.cell x = s.cell x) ∧ t.nvm.ownerKey = [] ∧ t.nvm.retain = [] ∧ t.nvm.secState = 1 ∧
      t.secState = 1 ∧ t.debug = 0 := by
  obtain ⟨t, htt⟩ : ∃ t, t = after (stageCmd src v) s := ⟨_, rfl⟩
  refine ⟨t, hi.trans (by rw [htt]), fun hne => stageCmd_refused hc ht hgo hkind hpart ha hsig hr hck hheld hpoison hne htt, fun h0 hnvm => ?_⟩
  obtain ⟨w, hw, hcw, hcmd⟩ := stageCmd_takes hc ht hgo hkind hpart ha hsig hr hck hheld hpoison h0 hnvm
  obtain ⟨y, hy⟩ : ∃ y, y = after draw w := ⟨_, rfl⟩
  obtain ⟨ts, hts⟩ : ∃ ts, ts = allDies.flatMap fun d => (dieTiles (fin32 d)).filter y.usable := ⟨_, rfl⟩
  obtain ⟨z, hz⟩ : ∃ z, z = after (forA ts wipeTile) y := ⟨_, rfl⟩
  obtain ⟨u, hu⟩ : ∃ u, u = after (modNvm Nvm.forgets) z := ⟨_, rfl⟩
  have hcy : y.canon = true := hy ▸ after_canon _ w hcw
  have hcz : z.canon = true := hz ▸ after_canon _ y hcy
  have hcu : u.canon = true := hu ▸ after_canon _ z hcz
  have heff : stageEffect r = decommission := by simp only [stageEffect, hk h0]
  rw [hcmd, ← hy, heff, after_congr (a := decommission) (b := seqA [forA ts wipeTile, modNvm Nvm.forgets, setF F.SEC_STS_STATE 0 1, setF F.SEC_STS_OWNER 0 0,
    debugEnd]) (hts ▸ rfl)] at htt
  simp only [after_seqA_cons, after_seqA_end, ← hz, ← hu] at htt
  obtain ⟨hst, hdbg, hcode, hft⟩ := secShown hcu (by decide) htt
  obtain ⟨hdies, hfz⟩ := wipeTiles_frame hcy ts hz
  have hfu : u = { z with nvm := z.nvm.forgets } := hu ▸ rfl
  have hfy : y = { w with free := w.free + 1 } := hy ▸ rfl
  have husable : ∀ x, y.usable x = s.usable x := fun x => by
    have hd : (y.die x.d.val).unusable = (s.die x.d.val).unusable := by
      have h1 : y.die x.d.val = w.die x.d.val := by rw [hfy]; rfl
      rw [h1, hw.die_eq x.d.val]
    have hn : y.tsum x = s.tsum x := by rw [hfy, hw.frame]; rfl
    rw [State.usable, State.usable, hd, hn]
  have hmem : ∀ x, x ∈ ts ↔ s.usable x = true := fun x => by
    rw [hts, List.mem_flatMap, ← husable]
    refine ⟨?_, fun h => ⟨x.d.val, List.mem_range.2 x.d.isLt, List.mem_filter.2 ⟨mem_dieTiles x, h⟩⟩⟩
    rintro ⟨d, -, hm⟩
    exact (List.mem_filter.1 hm).2
  have hcell : ∀ x, t.cell x = if s.usable x = true then Cells.erased else s.cell x := fun x => by
    have h1 : t.cell x = z.cell x := by rw [hft, hfu]; rfl
    have h2 : y.cell x = s.cell x := by rw [hfy, hw.frame]; rfl
    rw [h1, hz, wipeTiles_show hcy, h2]
    exact if_congr (hmem x) rfl rfl
  refine ⟨hcode, ⟨fun x hx => by rw [hcell, if_pos hx], fun x hx => by rw [hcell, hx]; rfl, ?_, ?_, ?_, hst, hdbg⟩, fun d => ?_, fun hne => absurd h4 hne, ?_⟩
  · rw [hft, hfu]; rfl
  · rw [hft, hfu]; rfl
  · rw [hft, hfu]; rfl
  · have h1 : t.die d = z.die d := by rw [hft, hfu]; rfl
    have h2 : y.die d = w.die d := by rw [hfy]; rfl
    rw [h1]
    exact (hw.die_eq d).trans (h2 ▸ hdies d)
  · rw [hft, hfu, hfz, hfy, hw.frame]

end

end Sys2Proof.Machine

open Sys2Proof Sys2Proof.Machine

/-- Settles O57: all five commands read the record and check it; each sound one has its own effect. -/
theorem stagingRecords : Obligations.StagingRecords := by
  unfold Obligations.StagingRecords
  intro s src v hc ht hgo kind p a signed r c ends hheld hpoison
  have hkind : c = 0 → r.kind = kind := kind_of_stageCheck
  refine ⟨fun hk => ?_, fun hk => ?_, fun hk => ?_, fun hk => ?_, fun hk => ?_⟩
  · exact stageEnds_of_nvm hc ht hgo rfl rfl rfl rfl rfl rfl hheld hpoison rfl fun h0 => stageEffect_ptab ((hkind h0).trans hk)
  · exact stageEnds_of_nvm hc ht hgo rfl rfl rfl rfl rfl rfl hheld hpoison rfl fun h0 => stageEffect_cfg ((hkind h0).trans hk)
  · exact stageEnds_of_deploy hc ht hgo rfl rfl rfl rfl rfl rfl hheld hpoison rfl fun h0 => (hkind h0).trans hk
  · exact stageEnds_of_decommission hc ht hgo rfl rfl rfl rfl rfl rfl hheld hpoison rfl hk fun h0 => (hkind h0).trans hk
  · exact stageEnds_of_nvm hc ht hgo rfl rfl rfl rfl rfl rfl hheld hpoison rfl fun h0 => stageEffect_provision ((hkind h0).trans hk)
end

section
/-!
SUPPORT. Attestation, debug tokens and the test access port (R499–R504).
-/
namespace Sys2Proof.Machine

/-! ## Which footprints leave room for lines and snoops -/

theorem allowsLines_onlyFields {fs : List StateField} (h : [.regs, .dies] ⊆ fs) : AllowsLines (onlyFields fs) := fun s e he => by
  cases e <;> simp_all [LineEff, List.cons_subset]

theorem allowsSnoops_onlyFields {fs : List StateField} (h : [.regs, .ports, .snoopF, .out] ⊆ fs) : AllowsSnoops (onlyFields fs) := fun s e he => by
  cases e <;> simp_all [Snooped, List.cons_subset]

theorem allowsLines_byteRel {R : Nat → Byte → Byte → Prop} : AllowsLines (byteRel R) := fun s e he => by
  cases e with
  | byte | lost => exact he.elim
  | _ => trivial

theorem allowsSnoops_byteRel {R : Nat → Byte → Byte → Prop} : AllowsSnoops (byteRel R) := fun s e he => by
  cases e with
  | byte | lost => exact he.elim
  | _ => trivial

theorem allowsSnoops_dieRel {R : Nat → Die → Die → Prop} : AllowsSnoops (dieRel R) := fun s e he => by
  cases e with
  | die => exact he.elim
  | _ => trivial

/-! ## A bulk store -/

section
variable {P : State → Eff → Prop} (hL : AllowsLines P) (hS : AllowsSnoops P)

include hL in
/-- A bulk write reads no line, and so finds no mark. -/
theorem allowed_sliceWrites_bulk (a n : Nat) (s : State) : Allowed P (sliceWrites true a n s) s := by
  have hs := hL.stk
  refine (allowed_whenA _ _ s).2 fun _ => allowed_forA _ _ s fun l _ s => ?_
  simp only [sliceWrite]
  split <;> simp [hs, allowed_touchLine hL]

include hL hS in
theorem allowed_storeBytes_bulk (hmark : ∀ s l, P s (.poison l)) {a : Nat} {bs : List Byte}
    (hbyte : ∀ s x v, a ≤ x → x < a + bs.length → P s (.byte x v)) (s : State) : Allowed P (storeBytes true a bs s) s :=
  (allowed_seqA_cons _ _ s).2 ⟨allowed_sliceWrites_bulk hL a _ s, (allowed_seqA_cons _ _ _).2 ⟨allowed_putStack hS hmark hbyte _, .nil _⟩⟩

end

theorem length_padTo (n : Nat) (bs : List Byte) : (padTo n bs).length = n := by
  simp [padTo]
  omega

theorem bytes_congr {s t : State} (h : t.mem = s.mem) (a n : Nat) : t.bytes a n = s.bytes a n := by simp only [State.bytes, State.byte, h]

/-- What is put in stack memory reads back. -/
theorem bytes_putStack {s : State} (hc : s.canon = true) (a : Nat) (bs : List Byte) : (after (putStack a bs) s).bytes a bs.length = bs := by
  obtain ⟨x, hx⟩ : ∃ x, x = after (invalidateS (s.heldS a bs.length)) s := ⟨_, rfl⟩
  obtain ⟨m, hm⟩ : ∃ m : Act, m = whenA (fun s => !s.poison.isEmpty) (eff fun s => .poison (s.poison.filter fun w =>
    !(decide (a ≤ w) && decide (w + 32 ≤ a + bs.length)))) := ⟨_, rfl⟩
  have hput : after (putStack a bs) s = after m (after (putBytes a bs) x) := by
    rw [after_congr (a := putStack a bs) (b := seqA [invalidateS (s.heldS a bs.length), putBytes a bs, m]) (hm ▸ rfl)]
    simp only [after_seqA_cons, after_seqA_end, hx]
  rw [hput, bytes_congr (s := after (putBytes a bs) x), bytes_putBytes (hx ▸ after_canon _ s hc)]
  exact after_read_eq (fs := [.poison]) State.mem (by simp [hm]) fun _ => rfl

/-- What is stored reads back. -/
theorem bytes_storeBytes {s : State} (hc : s.canon = true) (bulk : Bool) (a : Nat) (bs : List Byte) :
    (after (storeBytes bulk a bs) s).bytes a bs.length = bs := by
  rw [storeBytes, after_seqA_cons, after_seqA_cons, after_seqA_end]
  exact bytes_putStack (after_canon _ s hc) a bs

theorem dieSlices_of_lines {x y : Die} (h : DieLines x y) : DieSlices x y := by
  rw [DieLines] at h
  rw [DieSlices]
  rw [h]

/-! ## Attestation (R499) -/

/-- Effects that write of the registers the counts of snoops and of the slices alone. -/
def snoopKey (k : Nat) : Prop := (∃ n, k = regKey .trl n 0x120) ∨ ∃ i o, sliceReg i o ∧ k = regKey .stk i o

theorem not_snoopKey {b : Blk} {i o : Nat} (hb : b.code < 0x16) (hi : i < 1048576) (ho : o < 65536) : ¬ snoopKey (regKey b i o) := by
  have h1 : Blk.trl.code = 0x20 := rfl
  have h2 : Blk.stk.code = 0x16 := rfl
  rintro (⟨n, hk⟩ | ⟨i', o', -, hk⟩) <;> simp only [regKey] at hk <;> omega

/-- Registers that no snoop counts in read alike in the report. -/
theorem attReport_of_snoops {s u : State} (hf : u = { s with regs := u.regs, ports := u.ports, snoopF := u.snoopF, out := u.out })
    (hr : ∀ k, (∀ n, k ≠ regKey .trl n 0x120) → SMap.get regResetKey u.regs k = SMap.get regResetKey s.regs k) (p : Nat) (nonce : List Byte) :
    u.attReport p nonce = s.attReport p nonce := by
  have hfld : ∀ f : Fld, ∀ i, f.off % 65536 ≠ 0x120 → u.fld f i = s.fld f i := fun f i ho => by
    simp only [State.fld, State.reg]
    rw [hr _ fun n => regKey_ne_of_off ho]
  have hbil : ∀ k < 4, u.reg .bil ((s.partDies p).headD 0) (0x120 + 8 * k) = s.reg .bil ((s.partDies p).headD 0) (0x120 + 8 * k) := fun k hk4 => by
    rw [State.reg, hr]
    · rfl
    · have hd : (s.partDies p).headD 0 < 1048576 := by
        cases hl : s.partDies p with
        | nil => decide
        | cons d l =>
          have := (mem_partDies.1 (hl ▸ List.mem_cons_self ..)).1
          simp only [List.headD_cons]
          omega
      have h1 : Blk.trl.code = 0x20 := rfl
      have h2 : Blk.bil.code = 0x10 := rfl
      intro n hk
      simp only [regKey] at hk
      omega
  have hpd : u.partDies p = s.partDies p ∧ u.nvm = s.nvm ∧ u.sec = s.sec ∧ u.mile = s.mile ∧ u.job p = s.job p := by
    rw [hf]
    exact ⟨rfl, rfl, rfl, rfl, rfl⟩
  obtain ⟨h1, h2, h3, h4, h5⟩ := hpd
  have hst : u.secState = s.secState ∧ u.debug = s.debug := ⟨hfld _ _ (by decide), hfld _ _ (by decide)⟩
  have hhead : u.reportHead p nonce = s.reportHead p nonce := by
    have hlist : ((List.range 4).flatMap fun k => leBytes 8 (u.reg .bil ((s.partDies p).headD 0) (0x120 + 8 * k)).toNat) =
        (List.range 4).flatMap fun k => leBytes 8 (s.reg .bil ((s.partDies p).headD 0) (0x120 + 8 * k)).toNat :=
      List.flatMap_congr fun k hk => by rw [hbil k (List.mem_range.1 hk)]
    unfold State.reportHead
    rw [h1, h2, h3, h4, h5, hst.1, hst.2, hfld F.SEC_STS_SCOPE 0 (by decide), hfld F.KPR_STS_FW_MAJ 0 (by decide),
      hfld F.KPR_STS_FW_MIN 0 (by decide), hfld F.LDR_SWAP_STS_ADM_EPOCH p (by decide)]
    dsimp only
    rw [hlist, hfld F.BIL_IMG_STS_STATE _ (by decide)]
  rw [State.attReport, hhead, State.attReport]

section
variable {s : State} (hc : s.canon = true) {v : Word}
include hc

theorem attest_shows {src : Src} (ht : s.takes src .sec 0 0x198 = true) (hgo : F.SEC_ATT_CMD_GO.of v = 1) {a p : Nat}
    (ha : a = s.fld F.SEC_ATT_ADDR_ADDR 0 * 64) (hp : p = (s.srcPart src).getD 0x3F) (hne : p ≠ 0x3F) (ho : s.owns p a 4896 = true)
    (hid : s.flag F.SEC_STS_ID_FAIL 0 = false) (hsec : s.secState ≠ 3) (hheld : s.heldE a 4896 = []) :
    ∃ t, exec (.attest src v) s = .next t ∧ t.bytes a 4896 = s.attReport p (s.bytes (a + 0x40) 32) ∧
      t.fld F.SEC_ATT_STS_CODE 0 = 0 ∧ BytesBut a 4896 s t ∧ (∀ d, DieSlices (s.die d) (t.die d)) ∧
      t = { s with dies := t.dies, mem := t.mem, poison := t.poison, snoopF := t.snoopF, regs := t.regs, ports := t.ports, out := t.out } := by
  obtain ⟨u, hu⟩ : ∃ u, u = after (invalidateS (s.heldS a 4896)) s := ⟨_, rfl⟩
  obtain ⟨b, hb⟩ : ∃ b, b = s.attReport p (s.bytes (a + 0x40) 32) := ⟨_, rfl⟩
  obtain ⟨w, hw⟩ : ∃ w, w = after (storeBytes true a b) u := ⟨_, rfl⟩
  obtain ⟨t, htt⟩ : ∃ t, t = after (setF F.SEC_ATT_STS_CODE 0 0) w := ⟨_, rfl⟩
  have hcu : u.canon = true := hu ▸ after_canon _ s hc
  have hcw : w.canon = true := hw ▸ after_canon _ u hcu
  have hlen : b.length = 4896 := by rw [hb, State.attReport, length_padTo]
  have hinv : ∀ {P : State → Eff → Prop}, AllowsSnoops P → Allowed P (invalidateS (s.heldS a 4896) s) s := fun hP => allowed_invalidateS hP _ s
  have hfu : u = { s with regs := u.regs, ports := u.ports, snoopF := u.snoopF, out := u.out } :=
    hu ▸ after_overlay [.regs, .ports, .snoopF, .out] (a := invalidateS (s.heldS a 4896)) (hinv (allowsSnoops_onlyFields (by simp)))
  have hbu : u.attReport p (u.bytes (a + 0x40) 32) = b := by
    rw [attReport_of_snoops hfu fun k hk => ?_, hb, bytes_congr (s := s) (by rw [hfu])]
    rw [hu]
    refine after_regIn hc (p := fun k => ∃ n, k = regKey .trl n 0x120) (hinv fun s e he => ?_) fun ⟨n, hn⟩ => hk n hn
    cases e with
    | reg b i o v =>
      obtain ⟨rfl, rfl⟩ := he
      exact ⟨i, rfl⟩
    | _ => trivial
  have hexec : exec (.attest src v) s = .next t := by
    obtain ⟨act, hact⟩ : ∃ act : Act, act = fun s => seqA [storeBytes true a (s.attReport p (s.bytes (a + 0x40) 32)), setF F.SEC_ATT_STS_CODE 0 0] s := ⟨_, rfl⟩
    refine congrArg Host.Outcome.next ((after_congr (a := hostAttest src v) (b := unitWrite a 4896 act) ?_).trans ?_)
    · have hcond : ¬ F.SEC_ATT_CMD_GO.of v = 0 ∧ ¬ (p = 0x3F ∨ s.owns p a 4896 = false) ∧ ¬ (s.flag F.SEC_STS_ID_FAIL 0 = true ∨ s.secState = 3) := by
        refine ⟨by omega, by simp [hne, ho], by simp [hid, hsec]⟩
      rw [hostAttest, guardW_of_takes ht]
      simp only [hcond.1, hcond.2.1, hcond.2.2, if_false, ← ha, ← hp, hact]
    · rw [after_congr (a := unitWrite a 4896 act) (b := seqA [invalidateS (s.heldS a 4896), act]) (by simp only [unitWrite, hheld, List.isEmpty_nil, if_true]),
        after_seqA_cons, after_seqA_cons, after_seqA_end, ← hu,
        after_congr (a := act) (b := seqA [storeBytes true a b, setF F.SEC_ATT_STS_CODE 0 0]) (by simp only [hact, hbu]),
        after_seqA_cons, after_seqA_cons, after_seqA_end, ← hw, htt]
  have hstore : ∀ {P : State → Eff → Prop}, AllowsLines P → AllowsSnoops P → (∀ s l, P s (.poison l)) →
      (∀ s x v, a ≤ x → x < a + 4896 → P s (.byte x v)) → Allowed P (storeBytes true a b u) u :=
    fun h1 h2 h3 h4 => allowed_storeBytes_bulk h1 h2 h3 (fun s x v hx hy => h4 s x v hx (hlen ▸ hy)) u
  have hft : t = { w with regs := t.regs } := htt ▸ after_overlay [.regs] (a := setF F.SEC_ATT_STS_CODE 0 0) (by simp)
  have hfw : w = { u with dies := w.dies, mem := w.mem, poison := w.poison, snoopF := w.snoopF, regs := w.regs, ports := w.ports, out := w.out } :=
    hw ▸ after_overlay [.dies, .mem, .poison, .snoopF, .regs, .ports, .out] (a := storeBytes true a b)
      (hstore (allowsLines_onlyFields (by simp)) (allowsSnoops_onlyFields (by simp)) (by simp) (by simp))
  refine ⟨t, hexec, ?_, ?_, ?_, fun d => ?_, by rw [hft, hfw, hfu]⟩
  · have hread := bytes_storeBytes hcu true a b
    rw [hlen, ← hw] at hread
    rw [← hb, bytes_congr (s := w) (by rw [hft]), hread]
  · rw [htt, fld_set_same hcw _ _ _ (by decide)]
    rfl
  · have hbut : BytesBut a 4896 u w := hw ▸ after_bytesBut hcu (hstore allowsLines_byteRel allowsSnoops_byteRel (by simp) fun _ _ _ h1 h2 => .inl ⟨h1, h2⟩)
    intro x hx
    have h1 : t.byte x = w.byte x := by rw [hft]; rfl
    have h2 : u.byte x = s.byte x := by rw [hfu]; rfl
    rw [h1, hbut x hx, h2]
  · have h1 : t.die d = w.die d := by rw [hft]; rfl
    have h2 : u.die d = s.die d := by rw [hfu]; rfl
    rw [h1, ← h2, hw]
    refine after_dieRel (R := fun _ => DieSlices) (fun _ => DieSlices.refl) (fun _ _ _ _ => DieSlices.trans) hcu
      (hstore (fun s e he => ?_) allowsSnoops_dieRel (by simp) (by simp)) d
    cases e with
    | die => exact dieSlices_of_lines he
    | _ => trivial

end

/-! ## Debug tokens (R500–R503) -/

/-- A number within a run of bytes is read where it stands. -/
theorem leAt_bytes {s : State} {a n o m : Nat} (h : o + m ≤ n) : leAt (s.bytes a n) o m = s.num (a + o) m := by
  have hs : Machine.slice (s.bytes a n) o m = s.bytes (a + o) m := by
    refine List.map_congr_left fun i hi => ?_
    have hlt : o + i < n := by
      have := List.mem_range.1 hi
      omega
    simp [State.bytes, List.getElem?_range hlt, Nat.add_assoc]
  rw [leAt, hs, State.num]

theorem tokenCheck_lt (s : State) (p a : Nat) : s.tokenCheck p a < 8 := by
  simp only [State.tokenCheck]
  repeat' split
  all_goals decide

/-- A token that passes has a scope of 1 to 3. -/
theorem scope_le_of_tokenCheck {s : State} {p a : Nat} (h : s.tokenCheck p a = 0) : s.num (a + 6) 1 ≤ 3 := by
  rw [← leAt_bytes (n := 0x80) (by decide)]
  simp only [State.tokenCheck] at h
  by_contra hn
  split at h
  · exact absurd h (by decide)
  split at h
  · exact absurd h (by decide)
  · rw [if_pos (by omega)] at h
    exact absurd h (by decide)

theorem LinesOnly.tokenCheck_eq {s w : State} (h : LinesOnly s w) (p a : Nat) : w.tokenCheck p a = s.tokenCheck p a := by
  have hb := h.butSlices
  have hbytes : ∀ x n, w.bytes x n = s.bytes x n := hb.bytes_eq
  have hnum : ∀ x n, w.num x n = s.num x n := fun x n => by rw [State.num, hbytes, State.num]
  have hst : w.secState = s.secState ∧ w.debug = s.debug ∧ w.flag F.SEC_STS_ID_FAIL 0 = s.flag F.SEC_STS_ID_FAIL 0 := by
    refine ⟨h.fld_eq (by decide) (by decide) (by decide), h.fld_eq (by decide) (by decide) (by decide), ?_⟩
    rw [State.flag, h.fld_eq (by decide) (by decide) (by decide), State.flag]
  have hrest : w.nvm = s.nvm ∧ w.sec = s.sec ∧ w.dbgNonce = s.dbgNonce := by
    rw [h.frame]
    exact ⟨rfl, rfl, rfl⟩
  simp only [State.tokenCheck, hbytes, hnum, hb.owns_eq, hst.1, hst.2.1, hst.2.2, hrest.1, hrest.2.1, hrest.2.2]

/-- What a token that passes sets. -/
def tokenTaken (sc n part life : Nat) (ends : Nat) : Act :=
  seqA [setF F.SEC_STS_DEBUG 0 1, setF F.SEC_STS_SCOPE 0 sc, setF F.SEC_STS_DBG_PORT 0 n, setF F.SEC_STS_DBG_PART 0 part, setF F.SEC_DBG_STS_LEFT 0 life,
    modSec fun x => { x with tokenEnds := ends }]

/-- What is answered to a token, once it has been read. -/
def tokenAnswered (c : Nat) (a n : Nat) : Act := fun s =>
  seqA [setF F.SEC_DBG_STS_CODE 0 c, newNonce, whenA (fun _ => c == 0) (tokenTaken (s.num (a + 6) 1) n
    (if s.num (a + 6) 1 = 3 then s.num (a + 7) 1 % 64 else 0) (s.num (a + 8) 4) (s.nvm.pos + s.num (a + 8) 4))] s

theorem presentToken_eq {s : State} {n a : Nat} (ha : a = s.fld F.SEC_DBG_ADDR_ADDR 0 * 64) {act : Act}
    (hact : act = fun w => tokenAnswered (w.tokenCheck (s.portPart n) a) a n w) :
    presentToken n s = ownedRead (s.portPart n) a (0x82 + s.num (a + 0x80) 2) act s := by
  subst hact ha
  unfold presentToken tokenAnswered tokenTaken
  rfl

/-- The registers of debug. -/
def dbgKeys : List Nat := [regKey .sec 0 0x100, regKey .sec 0 0x188]

theorem tokenAnswered_shows {w : State} (hc : w.canon = true) {c a n : Nat} (hlt : c < 8) (hn : n < 4) (hsc : c = 0 → w.num (a + 6) 1 ≤ 3)
    {t : State} (ht : t = after (tokenAnswered c a n) w) :
    t.fld F.SEC_DBG_STS_CODE 0 = c ∧ t.sec.nonceNo = w.sec.nonceNo + 1 ∧
      (c = 0 → t.debug = 1 ∧ t.fld F.SEC_STS_SCOPE 0 = w.num (a + 6) 1 ∧ t.fld F.SEC_STS_DBG_PORT 0 = n ∧
        t.sec.tokenEnds = w.nvm.pos + w.num (a + 8) 4) ∧ (c ≠ 0 → t.debug = w.debug) ∧
      t = { w with regs := t.regs, sec := t.sec } ∧ RegsBut dbgKeys w t := by
  obtain ⟨x, hx⟩ : ∃ x, x = after newNonce (after (setF F.SEC_DBG_STS_CODE 0 c) w) := ⟨_, rfl⟩
  have hcx : x.canon = true := hx ▸ after_canon _ _ (after_canon _ w hc)
  have hsec : ∀ (f : Sec → Sec) (z : State) (g : Fld), (after (modSec f) z).fld g 0 = z.fld g 0 := fun _ _ _ => rfl
  have hall : ∀ {P : State → Eff → Prop}, (∀ s o v, o = 0x100 ∨ o = 0x188 → P s (.reg .sec 0 o v)) → (∀ s x, P s (.sec x)) →
      Allowed P (tokenAnswered c a n w) w := fun hr hs => by
    simp [tokenAnswered, tokenTaken, newNonce, hr, hs]
  have hft : t = { w with regs := t.regs, sec := t.sec } := ht ▸ after_overlay [.regs, .sec] (a := tokenAnswered c a n) (hall (by simp) (by simp))
  have hrb : RegsBut dbgKeys w t := ht ▸ after_regsBut hc (a := tokenAnswered c a n) (hall (fun _ o _ h => by
    obtain rfl | rfl := h
    · exact List.mem_cons_self ..
    · exact List.mem_cons_of_mem _ (List.mem_cons_self ..)) (by simp))
  obtain ⟨taken, htaken⟩ : ∃ b, b = tokenTaken (w.num (a + 6) 1) n (if w.num (a + 6) 1 = 3 then w.num (a + 7) 1 % 64 else 0) (w.num (a + 8) 4)
    (w.nvm.pos + w.num (a + 8) 4) := ⟨_, rfl⟩
  have htx : t = if c = 0 then after taken x else x := by
    rw [ht, after_congr (a := tokenAnswered c a n) (b := seqA [setF F.SEC_DBG_STS_CODE 0 c, newNonce, whenA (fun _ => c == 0) taken]) (htaken ▸ rfl)]
    simp only [after_seqA_cons, after_seqA_end, after_whenA, ← hx, beq_iff_eq]
  have hcode : x.fld F.SEC_DBG_STS_CODE 0 = c := by
    rw [hx, newNonce, hsec, fld_set_same hc _ _ _ (by decide)]
    exact Nat.mod_eq_of_lt (Nat.lt_of_lt_of_le hlt (by decide))
  have hxd : x.debug = w.debug ∧ x.sec.nonceNo = w.sec.nonceNo + 1 := by
    rw [hx]
    refine ⟨?_, rfl⟩
    rw [State.debug, newNonce, hsec, fld_set_off hc _ _ _ _ _ (by decide), State.debug]
  by_cases h0 : c = 0
  · rw [if_pos h0, htaken, tokenTaken] at htx
    simp only [after_seqA_cons, after_seqA_end] at htx
    refine ⟨?_, ?_, fun _ => ⟨?_, ?_, ?_, ?_⟩, fun h => absurd h0 h, hft, hrb⟩
    · rw [htx]
      simp (disch := repeat' (first | assumption | apply after_canon | decide)) only [hsec, fld_set_off, fld_set_bits, hcode]
    · rw [htx]
      exact hxd.2
    · rw [State.debug, htx]
      simp (disch := repeat' (first | assumption | apply after_canon | decide)) only [hsec, fld_set_off, fld_set_bits, fld_set_same]
      rfl
    · rw [htx]
      simp (disch := repeat' (first | assumption | apply after_canon | decide)) only [hsec, fld_set_off, fld_set_bits, fld_set_same]
      exact Nat.mod_eq_of_lt (Nat.lt_succ_of_le (hsc h0))
    · rw [htx]
      simp (disch := repeat' (first | assumption | apply after_canon | decide)) only [hsec, fld_set_off, fld_set_bits, fld_set_same]
      exact Nat.mod_eq_of_lt hn
    · rw [htx]
      rfl
  · rw [if_neg h0] at htx
    rw [htx] at hft hrb ⊢
    exact ⟨hcode, hxd.2, fun h => absurd h h0, fun _ => hxd.1, hft, hrb⟩

section
variable {s : State} (hc : s.canon = true) {src : Src} {v : Word} (ht : s.takes src .sec 0 0x180 = true) (hgo : F.SEC_DBG_CMD_GO.of v = 1)
include hc ht hgo

theorem present_shows {n : Fin 4} (hop : F.SEC_DBG_CMD_OP.of v = 1) (hsrc : src = .port n) {a c : Nat} (ha : a = s.fld F.SEC_DBG_ADDR_ADDR 0 * 64)
    (hck : c = s.tokenCheck (s.portPart n.val) a) (hheld : s.heldE a (0x82 + s.num (a + 0x80) 2) = []) (hpoison : s.poison = []) :
    ∃ t, exec (.present src v) s = .next t ∧ t.fld F.SEC_DBG_STS_CODE 0 = c ∧ t.sec.nonceNo = s.sec.nonceNo + 1 ∧
      (c = 0 → t.debug = 1 ∧ t.fld F.SEC_STS_SCOPE 0 = s.num (a + 6) 1 ∧ t.fld F.SEC_STS_DBG_PORT 0 = n.val ∧
        t.sec.tokenEnds = s.nvm.pos + s.num (a + 8) 4) ∧ (c ≠ 0 → t.debug = s.debug) ∧
      ButSlices [regKey .sec 0 0x100, regKey .sec 0 0x188] s { t with sec := s.sec } := by
  obtain ⟨act, hact⟩ : ∃ act : Act, act = fun w => tokenAnswered (w.tokenCheck (s.portPart n.val) a) a n.val w := ⟨_, rfl⟩
  obtain ⟨w, hw⟩ : ∃ w, w = if s.owns (s.portPart n.val) a (0x82 + s.num (a + 0x80) 2) = true then
    after (sliceReads true a (0x82 + s.num (a + 0x80) 2)) s else s := ⟨_, rfl⟩
  obtain ⟨t, htt⟩ : ∃ t, t = after (tokenAnswered c a n.val) w := ⟨_, rfl⟩
  have hlines : LinesOnly s w := by
    rw [hw]
    split
    · exact linesOnly_sliceReads hc hpoison ..
    · exact composes_lines.refl s
  have hcw : w.canon = true := by
    rw [hw]
    split
    · exact after_canon _ s hc
    · exact hc
  have hhere : after act w = t := by
    rw [htt, hck, ← hlines.tokenCheck_eq]
    exact after_congr (hact ▸ rfl)
  have hexec : exec (.present src v) s = .next t := by
    refine congrArg Host.Outcome.next ((after_congr (a := dbgCmd src v) (b := ownedRead (s.portPart n.val) a (0x82 + s.num (a + 0x80) 2) act) ?_).trans ?_)
    · have hne : ¬ F.SEC_DBG_CMD_GO.of v = 0 := by omega
      rw [dbgCmd, guardW_of_takes ht]
      simp only [hne, if_false, hop, hsrc]
      exact presentToken_eq ha hact
    · rw [← hhere, hw, ownedRead]
      by_cases ho : s.owns (s.portPart n.val) a (0x82 + s.num (a + 0x80) 2) = true
      · rw [if_pos ho, ← after_unitRead (by rw [hheld]; rfl)]
        exact after_congr (by simp only [iteA, ho, if_true])
      · rw [if_neg ho]
        exact after_congr (by simp only [iteA, ho, Bool.false_eq_true, if_false])
  have hnum : ∀ x m, w.num x m = s.num x m := fun x m => by rw [State.num, hlines.butSlices.bytes_eq, State.num]
  obtain ⟨h1, h2, h3, h4, h5, h6⟩ := tokenAnswered_shows hcw (n := n.val) (by rw [hck]; exact tokenCheck_lt ..) n.isLt
    (fun h0 => by rw [hnum]; exact scope_le_of_tokenCheck (hck ▸ h0)) htt
  have hsec : w.sec = s.sec ∧ w.nvm = s.nvm ∧ w.debug = s.debug :=
    ⟨by rw [hlines.frame], by rw [hlines.frame], hlines.fld_eq (by decide) (by decide) (by decide)⟩
  rw [hsec.1] at h2
  rw [hnum, hnum, hsec.2.1] at h3
  rw [hsec.2.2] at h4
  refine ⟨t, hexec, h1, h2, h3, h4, (composes_slices _).trans _ _ _ (hlines.butSlices.mono (by simp)) (butSlices_of_regsBut ?_ h6)⟩
  have hframe : { t with sec := s.sec } = { w with regs := t.regs } := by
    rw [h5, ← hsec.1]
  rw [hframe]

theorem revoke_shows (hop : F.SEC_DBG_CMD_OP.of v = 2) : ∃ t, exec (.revoke src v) s = .next t ∧ t.debug = 0 ∧ t.fld F.SEC_STS_SCOPE 0 = 0 ∧
    t.fld F.SEC_DBG_STS_CODE 0 = 0 ∧ t = { s with regs := t.regs, sec := t.sec } ∧ RegsBut [regKey .sec 0 0x100, regKey .sec 0 0x188] s t := by
  obtain ⟨t, htt⟩ : ∃ t, t = after (seqA [debugEnd, setF F.SEC_DBG_STS_CODE 0 0]) s := ⟨_, rfl⟩
  have hsec : ∀ (f : Sec → Sec) (z : State) (g : Fld), (after (modSec f) z).fld g 0 = z.fld g 0 := fun _ _ _ => rfl
  refine ⟨t, ?_, ?_, ?_, ?_, htt ▸ after_overlay [.regs, .sec] (a := seqA _) (by simp [debugEnd]),
    htt ▸ after_regsBut hc (a := seqA _) (by simp [debugEnd])⟩
  · refine congrArg Host.Outcome.next ((after_congr (a := dbgCmd src v) ?_).trans htt.symm)
    have hne : ¬ F.SEC_DBG_CMD_GO.of v = 0 := by omega
    rw [dbgCmd, guardW_of_takes ht]
    simp only [hne, if_false, hop]
  · rw [State.debug, htt, debugEnd]
    simp (disch := repeat' (first | assumption | apply after_canon | decide)) only [after_seqA_cons, after_seqA_end, hsec, fld_set_off, fld_set_bits, fld_set_same]
    rfl
  · rw [htt, debugEnd]
    simp (disch := repeat' (first | assumption | apply after_canon | decide)) only [after_seqA_cons, after_seqA_end, hsec, fld_set_off, fld_set_bits, fld_set_same]
    rfl
  · rw [htt, after_seqA_cons, after_seqA_cons, after_seqA_end, fld_set_same (after_canon _ s hc) _ _ _ (by decide)]
    rfl

theorem newNonce_shows (hop : F.SEC_DBG_CMD_OP.of v = 3) : ∃ t, exec (.newNonce src v) s = .next t ∧
    t.sec = { s.sec with nonceNo := s.sec.nonceNo + 1 } ∧ t.fld F.SEC_DBG_STS_CODE 0 = 0 ∧ t.debug = s.debug ∧
    t = { s with regs := t.regs, sec := t.sec } ∧ RegsBut [regKey .sec 0 0x100, regKey .sec 0 0x188] s t := by
  obtain ⟨t, htt⟩ : ∃ t, t = after (seqA [newNonce, setF F.SEC_DBG_STS_CODE 0 0]) s := ⟨_, rfl⟩
  have hfr : t = { s with regs := t.regs, sec := t.sec } := htt ▸ after_overlay [.regs, .sec] (a := seqA _) (by simp [newNonce])
  have hrb : RegsBut [regKey .sec 0 0x100, regKey .sec 0 0x188] s t := htt ▸ after_regsBut hc (a := seqA _) (by simp [newNonce])
  rw [after_seqA_cons, after_seqA_cons, after_seqA_end] at htt
  refine ⟨t, ?_, by rw [htt]; rfl, ?_, ?_, hfr, hrb⟩
  · refine congrArg Host.Outcome.next ((after_congr (a := dbgCmd src v) (b := seqA [newNonce, setF F.SEC_DBG_STS_CODE 0 0]) ?_).trans ?_)
    · have hne : ¬ F.SEC_DBG_CMD_GO.of v = 0 := by omega
      rw [dbgCmd, guardW_of_takes ht]
      simp only [hne, if_false, hop]
    · rw [after_seqA_cons, after_seqA_cons, after_seqA_end, htt]
  · rw [htt, fld_set_same (after_canon _ s hc) _ _ _ (by decide)]
    rfl
  · rw [State.debug, htt, fld_set_off (after_canon _ s hc) _ _ _ _ _ (by decide)]
    rfl

theorem debugOpen_shows (hop : F.SEC_DBG_CMD_OP.of v = 4) : ∃ t, exec (.debugOpen src v) s = .next t ∧
    (t = { s with regs := t.regs, sec := t.sec } ∧ RegsBut [regKey .sec 0 0x100, regKey .sec 0 0x188] s t) ∧
    (if s.srcPart src = some s.mgmt ∧ s.secState = 0 then t.debug = 2 ∧ t.fld F.SEC_DBG_STS_CODE 0 = 0
     else t.debug = s.debug ∧ t.fld F.SEC_DBG_STS_CODE 0 = 3) := by
  have hne : ¬ F.SEC_DBG_CMD_GO.of v = 0 := by omega
  by_cases hm : s.srcPart src = some s.mgmt ∧ s.secState = 0
  · obtain ⟨t, htt⟩ : ∃ t, t = after (seqA [debugEnd, setF F.SEC_STS_DEBUG 0 2, setF F.SEC_DBG_STS_CODE 0 0]) s := ⟨_, rfl⟩
    refine ⟨t, ?_, ⟨htt ▸ after_overlay [.regs, .sec] (a := seqA _) (by simp [debugEnd]), htt ▸ after_regsBut hc (a := seqA _) (by simp [debugEnd])⟩, ?_⟩
    · refine congrArg Host.Outcome.next ((after_congr (a := dbgCmd src v) ?_).trans htt.symm)
      rw [dbgCmd, guardW_of_takes ht]
      simp only [hne, if_false, hop, hm, and_self, if_true]
    · rw [if_pos hm, State.debug, htt]
      simp only [after_seqA_cons, after_seqA_end]
      rw [fld_set_off (after_canon _ _ (after_canon _ s hc)) _ _ _ _ _ (by decide), fld_set_same (after_canon _ s hc) _ _ _ (by decide),
        fld_set_same (after_canon _ _ (after_canon _ s hc)) _ _ _ (by decide)]
      exact ⟨rfl, rfl⟩
  · obtain ⟨t, htt⟩ : ∃ t, t = after (setF F.SEC_DBG_STS_CODE 0 3) s := ⟨_, rfl⟩
    refine ⟨t, ?_, ⟨htt ▸ after_overlay [.regs, .sec] (a := setF _ _ _) (by simp), htt ▸ after_regsBut hc (a := setF _ _ _) (by simp)⟩, ?_⟩
    · refine congrArg Host.Outcome.next ((after_congr (a := dbgCmd src v) ?_).trans htt.symm)
      rw [dbgCmd, guardW_of_takes ht]
      simp only [hne, if_false, hop, hm]
    · rw [if_neg hm, State.debug, htt, fld_set_off hc _ _ _ _ _ (by decide), fld_set_same hc _ _ _ (by decide)]
      exact ⟨rfl, rfl⟩

end

/-! ## Expiry, and the test access port (R503, R504) -/

section
variable {s : State} (hc : s.canon = true)

include hc in
theorem tokenExpiry_shows (hd : s.debug = 1) (he : s.sec.tokenEnds ≤ s.nvm.pos) : ∃ t, exec .tokenExpiry s = .next t ∧ t.debug = 0 ∧
    t.fld F.SEC_DBG_STS_LEFT 0 = 0 ∧ RegsBut [regKey .sec 0 0x100, regKey .sec 0 0x188] s t ∧ t = { s with regs := t.regs, sec := t.sec } := by
  obtain ⟨t, htt⟩ : ∃ t, t = after debugEnd s := ⟨_, rfl⟩
  have hsec : ∀ (f : Sec → Sec) (z : State) (g : Fld), (after (modSec f) z).fld g 0 = z.fld g 0 := fun _ _ _ => rfl
  refine ⟨t, ?_, ?_, ?_, htt ▸ after_regsBut hc (a := debugEnd) (by simp [debugEnd]), htt ▸ after_overlay [.regs, .sec] (a := debugEnd) (by simp [debugEnd])⟩
  · refine congrArg Host.Outcome.next ((after_congr (a := whenA (fun s => s.debug == 1 && decide (s.sec.tokenEnds ≤ s.nvm.pos)) debugEnd) ?_).trans htt.symm)
    simp only [whenA, hd, he, beq_self_eq_true, decide_true, Bool.and_self, if_true]
  · rw [State.debug, htt, debugEnd]
    simp (disch := repeat' (first | assumption | apply after_canon | decide)) only [after_seqA_cons, after_seqA_end, hsec, fld_set_off, fld_set_bits, fld_set_same]
    rfl
  · rw [htt, debugEnd]
    simp (disch := repeat' (first | assumption | apply after_canon | decide)) only [after_seqA_cons, after_seqA_end, hsec, fld_set_same]
    rfl

theorem tapInstruction_shows (k : Fin 9) (hv : s.power.vaux = true) : ∃ t, exec (.tapInstruction k) s = .next t ∧
    t.out = s.out ++ [.tap k.val (s.tapOk k.val)] ∧
    t.sec = { s.sec with tap := if s.tapOk k.val = true ∧ 3 ≤ k.val ∧ k.val ≤ 5 then k.val else 0 } ∧
    t.keeper.haltedByTap = (s.keeper.haltedByTap || (s.tapOk k.val && k.val == 6)) ∧
    t.keeper = { s.keeper with haltedByTap := t.keeper.haltedByTap } ∧ t = { s with sec := t.sec, keeper := t.keeper, out := t.out } := by
  obtain ⟨ok, hok⟩ : ∃ ok, ok = s.tapOk k.val := ⟨_, rfl⟩
  obtain ⟨u, hu⟩ : ∃ u, u = after (modSec fun x => { x with tap := if ok = true ∧ 3 ≤ k.val ∧ k.val ≤ 5 then k.val else 0 }) s := ⟨_, rfl⟩
  have hexec : exec (.tapInstruction k) s = .next (after (emit (.tap k.val ok)) (after (whenA (fun _ => ok && k.val == 6)
      (modKeeper fun x => { x with haltedByTap := true })) u)) := by
    refine congrArg Host.Outcome.next ((after_congr (b := seqA [modSec fun x => { x with tap := if ok = true ∧ 3 ≤ k.val ∧ k.val ≤ 5 then k.val else 0 },
      whenA (fun _ => ok && k.val == 6) (modKeeper fun x => { x with haltedByTap := true }), emit (.tap k.val ok)]) ?_).trans ?_)
    · simp only [hv, Bool.true_eq_false, if_false, hok]
    · simp only [after_seqA_cons, after_seqA_end, hu]
  refine ⟨_, hexec, ?_⟩
  rw [hok] at hu ⊢
  rw [after_whenA, hu]
  by_cases h6 : (s.tapOk k.val && k.val == 6) = true
  · rw [if_pos h6, h6]
    exact ⟨rfl, rfl, (Bool.or_true _).symm, rfl, rfl⟩
  · rw [if_neg h6, Bool.eq_false_iff.2 h6]
    exact ⟨rfl, rfl, (Bool.or_false _).symm, rfl, rfl⟩

end

end Sys2Proof.Machine

open Sys2Proof Sys2Proof.Machine

/-- Settles O58: attestation stores the report; a token's checks read what the slices leave; each other command is its own few writes. -/
theorem attestationAndDebug : Obligations.AttestationAndDebug := by
  unfold Obligations.AttestationAndDebug
  intro s v hc
  refine ⟨fun src ht hgo hne ho hid hsec hheld => attest_shows hc ht hgo rfl rfl hne ho hid hsec hheld, fun src ht hgo => ?_,
    fun hd he => tokenExpiry_shows hc hd he, fun k hv => tapInstruction_shows k hv⟩
  exact ⟨fun n hop hsrc hheld hpoison => present_shows hc ht hgo hop hsrc rfl rfl hheld hpoison, fun hop => revoke_shows hc ht hgo hop,
    fun hop => newNonce_shows hc ht hgo hop, fun hop => debugOpen_shows hc ht hgo hop⟩
end

section
/-!
SUPPORT. Firmware update: pieces, activation, confirmation and recovery (R511–R517, R519).
-/
namespace Sys2Proof.Machine

/-! ## A piece of the manifest (R511, R512) -/

section
variable {s : State} (hc : s.canon = true) {trais : Bool} {off : Nat} {bs : List Byte}
  (hsrc : s.updFixed = false ∨ s.nvm.upd.trais = trais) (hne : bs ≠ []) (hend : off + bs.length ≤ 8192)
  (hpart : State.gathered1 { s with keeper := { s.keeper with gather := s.keeper.gather ++ [(off, bs)] } } 0 8192 = none)
include hc hsrc hne hend hpart

/-- A piece that leaves the manifest incomplete is gathered, and no block has bytes in it. -/
theorem takePiece_gathers {t : State} (ht : t = after (takePiece trais off bs) s) :
    t.keeper = { s.keeper with gather := s.keeper.gather ++ [(off, bs)] } ∧ t.fld F.UPD_STS_CODE 0 = 0 ∧
      t.nvm = { s.nvm with upd := { s.nvm.upd with trais := trais, fixed := true } } ∧ RegsBut [regKey .upd 0 0x100] s t ∧
      t = { s with regs := t.regs, keeper := t.keeper, nvm := t.nvm } := by
  obtain ⟨u, hu⟩ : ∃ u, u = after (whenA (fun s => !s.updFixed) (modNvm fun n => { n with upd := { n.upd with trais := trais, fixed := true } })) s := ⟨_, rfl⟩
  obtain ⟨w, hw⟩ : ∃ w, w = after (modKeeper fun k => { k with gather := k.gather ++ [(off, bs)] }) u := ⟨_, rfl⟩
  have hlen : 0 < bs.length := List.length_pos_of_ne_nil hne
  have hcond : ¬ (s.updFixed = true ∧ s.nvm.upd.trais ≠ trais) := fun h => by
    obtain h1 | h1 := hsrc
    · rw [h1] at h
      exact absurd h.1 (by decide)
    · exact h.2 h1
  have hhead : bs.take (8192 - off) = bs := List.take_of_length_le (by omega)
  have hblocks : ∀ b (x : State), after (if max off (8192 + b * 65536) < min (off + bs.length) (8192 + (b + 1) * 65536) then
      blockBytes b (max off (8192 + b * 65536)) ((bs.drop (max off (8192 + b * 65536) - off)).take
        (min (off + bs.length) (8192 + (b + 1) * 65536) - max off (8192 + b * 65536))) else skip) x = x := fun b x => by
    rw [if_neg (by omega), after_skipped]
  have hnvm : u.nvm = { s.nvm with upd := { s.nvm.upd with trais := trais, fixed := true } } ∧ u = { s with nvm := u.nvm } := by
    by_cases hf : s.updFixed = true
    · have hus : u = s := by rw [hu, after_whenA, hf]; rfl
      have hsame : { s.nvm.upd with trais := trais, fixed := true } = s.nvm.upd := by
        have h1 : s.nvm.upd.fixed = true := by
          rw [State.updFixed, Bool.and_eq_true] at hf
          exact hf.1
        have h2 : s.nvm.upd.trais = trais := hsrc.resolve_left (by simp [hf])
        rw [← h1, ← h2]
      exact ⟨by rw [hus, hsame], by rw [hus]⟩
    · have huv : u = { s with nvm := { s.nvm with upd := { s.nvm.upd with trais := trais, fixed := true } } } := by
        rw [hu, after_whenA, if_pos (by simp [hf])]
        rfl
      exact ⟨by rw [huv], by rw [huv]⟩
  have hcw : w.canon = true := hw ▸ after_canon _ u (hu ▸ after_canon _ s hc)
  have hwk : w.keeper = { s.keeper with gather := s.keeper.gather ++ [(off, bs)] } ∧ w = { s with nvm := u.nvm, keeper := w.keeper } := by
    rw [hw, hnvm.2]
    exact ⟨rfl, rfl⟩
  have htw : t = after (setF F.UPD_STS_CODE 0 0) w := by
    have hgath : (after (setF F.UPD_STS_CODE 0 0) w).gathered1 0 8192 = none := by
      rw [← hpart]
      have hk : (after (setF F.UPD_STS_CODE 0 0) w).keeper = { s.keeper with gather := s.keeper.gather ++ [(off, bs)] } := hwk.1
      simp only [State.gathered1, hk]
    rw [ht, after_congr (a := takePiece trais off bs) (b := seqA [whenA (fun s => !s.updFixed) (modNvm fun n => { n with
        upd := { n.upd with trais := trais, fixed := true } }), whenA (fun _ => decide (off < 8192)) (seqA [modKeeper fun k => { k with
        gather := k.gather ++ [(off, bs.take (8192 - off))] }, updCode 0, withA (fun s => s.gathered1 0 8192) fun x => forOpt x (takeManifest trais)]), _])
      (by rw [takePiece, if_neg hcond])]
    have hmid : after (whenA (fun _ => decide (off < 8192)) (seqA [modKeeper fun k => { k with gather := k.gather ++ [(off, bs.take (8192 - off))] },
        updCode 0, withA (fun s => s.gathered1 0 8192) fun x => forOpt x (takeManifest trais)])) u = after (setF F.UPD_STS_CODE 0 0) w := by
      rw [after_whenA, if_pos (decide_eq_true (by omega)), hhead, after_seqA_cons, after_seqA_cons, after_seqA_cons, after_seqA_end, ← hw, updCode,
        after_withA, hgath, forOpt, after_skipped]
    rw [after_seqA_cons, after_seqA_cons, after_seqA_cons, after_seqA_end, ← hu, hmid]
    exact after_forA_of_forall_eq _ _ _ fun b _ => hblocks b _
  have hft : t = { w with regs := t.regs } := htw ▸ after_overlay [.regs] (a := setF F.UPD_STS_CODE 0 0) (by simp)
  refine ⟨by rw [hft]; exact hwk.1, by rw [htw, fld_set_same hcw _ _ _ (by decide)]; rfl, ?_, ?_, ?_⟩
  · rw [hft, hwk.2]
    exact hnvm.1
  · have hrw : w.regs = s.regs := by rw [hwk.2]
    have hb : RegsBut [regKey .upd 0 0x100] w t := htw ▸ after_regsBut hcw (a := setF F.UPD_STS_CODE 0 0) (by simp)
    intro k hk
    rw [hb k hk, hrw]
  · rw [hft, hwk.2]

end

/-! ## The commands over Trais and PLDM (R514–R517, R519) -/

/-- A write of NVM that fails in no word. -/
theorem after_nvmWrite_ok {s : State} (h : Config.nvmFails s.free = 0) {act : Act} : after (nvmWrite act) s = after act (after draw s) := by
  rw [after_congr (a := nvmWrite act) (b := seqA [draw, act]) (by simp only [nvmWrite, h, if_true]), after_seqA_cons, after_seqA_cons, after_seqA_end]

/-- What an operation of UPD_CMD does in a state. -/
def updDoes (s : State) : Nat → Act
  | 1 => takePiece true (s.fld F.UPD_ARG_OFFSET 0) (s.updBuf (max 1 (min 4096 (s.fld F.UPD_ARG_LEN 0))))
  | 2 => activate
  | 3 => cancelTransfer
  | 4 => confirmRun
  | 5 => nvmWrite (modNvm fun n => { n with recover := true })
  | _ => skip

theorem after_updCmd {s : State} {src : Src} {v : Word} {op : Nat} (ht : s.takes src .upd 0 0x130 = true) (hgo : F.UPD_CMD_GO.of v = 1)
    (hop : F.UPD_CMD_OP.of v = op) (h1 : 1 ≤ op ∧ op ≤ 5 := by decide) : after (updCmd src v) s = after (updDoes s op) s := by
  have hne : ¬ F.UPD_CMD_GO.of v = 0 := by omega
  refine after_congr ?_
  rw [updCmd, guardW_of_takes ht]
  simp only [hne, if_false, hop]
  clear hop
  obtain ⟨h1, h5⟩ := h1
  interval_cases op <;> rfl

/-- What the bytes of one piece leave. -/
def PieceTook (s t : State) (trais : Bool) (off : Nat) (bs : List Byte) : Prop :=
  t.keeper = { s.keeper with gather := s.keeper.gather ++ [(off, bs)] } ∧ t.fld F.UPD_STS_CODE 0 = 0 ∧
    t.nvm = { s.nvm with upd := { s.nvm.upd with trais := trais, fixed := true } } ∧ RegsBut [regKey .upd 0 0x100] s t ∧
    t = { s with regs := t.regs, keeper := t.keeper, nvm := t.nvm, out := t.out }

theorem allowed_pldmAsk {P : State → Eff → Prop} (hout : ∀ s o, P s (.out o)) (s : State) : Allowed P (pldmAsk s) s := by
  simp only [pldmAsk]
  split
  · exact (allowed_emit _ _).2 (hout _ _)
  · split
    · simp [hout]
    · exact .nil _

/-- What an action leaves that only sends. -/
theorem after_sends {a : Act} {s : State} (h : Allowed (onlyFields [.out]) (a s) s) : after a s = { s with out := (after a s).out } :=
  after_overlay [.out] h

section
variable {s : State} (hc : s.canon = true)
include hc

theorem updCode_shows (c : Nat) (h : c < 256) {t : State} (ht : t = after (updCode c) s) :
    t.fld F.UPD_STS_CODE 0 = c ∧ RegsBut [regKey .upd 0 0x100] s t ∧ t = { s with regs := t.regs } := by
  refine ⟨?_, ht ▸ after_regsBut hc (a := updCode c) (by simp [updCode]), ht ▸ after_overlay [.regs] (a := updCode c) (by simp [updCode])⟩
  rw [ht, updCode, fld_set_same hc _ _ _ (by decide)]
  exact Nat.mod_eq_of_lt h

theorem piece_refused {src : Src} {v : Word} (ht : s.takes src .upd 0 0x130 = true) (hgo : F.UPD_CMD_GO.of v = 1) (hop : F.UPD_CMD_OP.of v = 1)
    (hf : s.updFixed = true) (hu : s.nvm.upd.trais = false) : ∃ t, exec (.piece src v) s = .next t ∧ t.fld F.UPD_STS_CODE 0 = 7 ∧
      RegsBut [regKey .upd 0 0x100] s t ∧ t = { s with regs := t.regs } := by
  obtain ⟨t, htt⟩ : ∃ t, t = after (updCode 7) s := ⟨_, rfl⟩
  refine ⟨t, congrArg Host.Outcome.next ((after_updCmd ht hgo hop).trans ?_), updCode_shows hc 7 (by decide) htt⟩
  rw [htt]
  exact after_congr (by simp only [updDoes, takePiece, hf, hu, ne_eq, Bool.false_eq_true, not_false_eq_true, and_self, if_true])

theorem piece_takes {src : Src} {v : Word} (ht : s.takes src .upd 0 0x130 = true) (hgo : F.UPD_CMD_GO.of v = 1) (hop : F.UPD_CMD_OP.of v = 1)
    {off : Nat} {bs : List Byte} (hoff : off = s.fld F.UPD_ARG_OFFSET 0) (hbs : bs = s.updBuf (max 1 (min 4096 (s.fld F.UPD_ARG_LEN 0))))
    (hsrc : s.updFixed = false ∨ s.nvm.upd.trais = true) (hne : bs ≠ []) (hend : off + bs.length ≤ 8192)
    (hpart : State.gathered1 { s with keeper := { s.keeper with gather := s.keeper.gather ++ [(off, bs)] } } 0 8192 = none) :
    ∃ t, exec (.piece src v) s = .next t ∧ PieceTook s t true off bs := by
  obtain ⟨t, htt⟩ : ∃ t, t = after (takePiece true off bs) s := ⟨_, rfl⟩
  obtain ⟨h1, h2, h3, h4, h5⟩ := takePiece_gathers hc hsrc hne hend hpart htt
  refine ⟨t, congrArg Host.Outcome.next ((after_updCmd ht hgo hop).trans ?_), h1, h2, h3, h4, ?_⟩
  · rw [htt, hoff, hbs]
    rfl
  · rw [h5]

theorem pldmFirmwareData_takes {off : Word32} {bs : List Byte} (hm : s.mctpUp = true) (hsrc : s.updFixed = false ∨ s.nvm.upd.trais = false)
    (hne : bs ≠ []) (hend : off.toNat + bs.length ≤ 8192)
    (hpart : State.gathered1 { s with keeper := { s.keeper with gather := s.keeper.gather ++ [(off.toNat, bs)] } } 0 8192 = none) :
    ∃ t, exec (.pldmFirmwareData off bs) s = .next t ∧ PieceTook s t false off.toNat bs := by
  obtain ⟨w, hw⟩ : ∃ w, w = after (takePiece false off.toNat bs) s := ⟨_, rfl⟩
  obtain ⟨t, htt⟩ : ∃ t, t = after pldmAsk w := ⟨_, rfl⟩
  obtain ⟨h1, h2, h3, h4, h5⟩ := takePiece_gathers hc hsrc hne hend hpart hw
  have hft : t = { w with out := t.out } := htt ▸ after_sends (allowed_pldmAsk (by simp) w)
  have hregs : t.regs = w.regs := by rw [hft]
  refine ⟨t, congrArg Host.Outcome.next ?_, by rw [hft]; exact h1, by rw [hft]; exact h2, by rw [hft]; exact h3, fun k hk => ?_, by rw [hft, h5]⟩
  · have hcond : (s.mctpUp && !bs.isEmpty) = true := by
      rw [hm, Bool.true_and, Bool.not_eq_true', List.isEmpty_eq_false_iff]
      exact hne
    rw [after_whenA, if_pos hcond, after_seqA_cons, after_seqA_cons, after_seqA_end, ← hw, htt]
  · rw [hregs, h4 k hk]

theorem pldmRequestUpdate_shows (hm : s.mctpUp = true) (hsrc : s.updFixed = false ∨ s.nvm.upd.trais = false) :
    ∃ t, exec .pldmRequestUpdate s = .next t ∧ .pldm 5 0x10 0 [] ∈ t.out ∧
      (s.nvm.upd.st = 1 → t.fld F.UPD_CNT_RESUMES 0 = min (s.fld F.UPD_CNT_RESUMES 0 + 1) F.UPD_CNT_RESUMES.top) ∧
      RegsBut [regKey .upd 0 F.UPD_CNT_RESUMES.off] s t ∧ t = { s with regs := t.regs, out := t.out } := by
  obtain ⟨u, hu⟩ : ∃ u, u = after (emit (.pldm 5 0x10 0 [])) s := ⟨_, rfl⟩
  obtain ⟨w, hw⟩ : ∃ w, w = after (whenA (fun s => s.nvm.upd.st == 1) (bump F.UPD_CNT_RESUMES 0 1)) u := ⟨_, rfl⟩
  obtain ⟨t, htt⟩ : ∃ t, t = after pldmAsk w := ⟨_, rfl⟩
  have hcu : u.canon = true := hu ▸ after_canon _ s hc
  have hfu : u = { s with out := s.out ++ [.pldm 5 0x10 0 []] } := hu ▸ rfl
  have hfw : w = { u with regs := w.regs } := hw ▸ after_overlay [.regs] (a := whenA _ _) (by simp)
  have hft : t = { w with out := t.out } := htt ▸ after_sends (allowed_pldmAsk (by simp) w)
  have hregs : t.regs = w.regs := by rw [hft]
  have hbut : RegsBut [regKey .upd 0 F.UPD_CNT_RESUMES.off] u w := hw ▸ after_regsBut hcu (a := whenA _ _) (by simp)
  refine ⟨t, congrArg Host.Outcome.next ?_, ?_, fun h1 => ?_, fun k hk => ?_, by rw [hft, hfw, hfu]⟩
  · have hcond : ¬ (s.updFixed = true ∧ s.nvm.upd.trais = true) := fun h => by
      obtain h1 | h1 := hsrc
      · rw [h1] at h
        exact absurd h.1 (by decide)
      · rw [h1] at h
        exact absurd h.2 (by decide)
    rw [after_whenA, if_pos hm,
      after_congr (b := seqA [emit (.pldm 5 0x10 0 []), whenA (fun s => s.nvm.upd.st == 1) (bump F.UPD_CNT_RESUMES 0 1), pldmAsk]) (if_neg hcond)]
    simp only [after_seqA_cons, after_seqA_end]
    rw [← hu, ← hw, htt]
  · have hmem : Out.pldm 5 0x10 0 [] ∈ w.out := by
      rw [hfw, hfu]
      exact List.mem_append_right _ (List.mem_singleton_self _)
    exact htt ▸ mem_out_after _ hmem
  · have hst : (u.nvm.upd.st == 1) = true := by rw [hfu]; simpa using h1
    have hf : t.fld F.UPD_CNT_RESUMES 0 = w.fld F.UPD_CNT_RESUMES 0 := by rw [hft]; rfl
    rw [hf, hw, after_whenA, if_pos hst, fld_bump_same hcu _ _ _ (by decide), hu]
    rfl
  · rw [hregs, hbut k hk, hfu]

/-- What the end of a transfer leaves. -/
def Cancelled (s t : State) : Prop :=
  t.keeper = { s.keeper with gather := [] } ∧ t.fld F.UPD_STS_CODE 0 = 0 ∧
    t.nvm = { s.nvm with upd := (if s.nvm.upd.st = 1 ∨ s.nvm.upd.st = 2 then { Update.zero with since := s.nvm.upd.since } else s.nvm.upd) } ∧
    RegsBut [regKey .upd 0 0x100] s t ∧ t = { s with regs := t.regs, keeper := t.keeper, nvm := t.nvm, out := t.out }

theorem cancelTransfer_cancels (h3 : s.nvm.upd.st ≠ 3) {t : State} (ht : t = after cancelTransfer s) : Cancelled s t ∧ t.out = s.out := by
  obtain ⟨u, hu⟩ : ∃ u, u = after (modKeeper fun k => { k with gather := [] }) s := ⟨_, rfl⟩
  obtain ⟨w, hw⟩ : ∃ w, w = after (whenA (fun s => s.nvm.upd.st == 1 || s.nvm.upd.st == 2)
    (modNvm fun n => { n with upd := { Update.zero with since := n.upd.since } })) u := ⟨_, rfl⟩
  have hcw : w.canon = true := hw ▸ after_canon _ u (hu ▸ after_canon _ s hc)
  have htw : t = after (updCode 0) w := by
    rw [ht, after_congr (a := cancelTransfer) (b := seqA [modKeeper fun k => { k with gather := [] }, whenA (fun s => s.nvm.upd.st == 1 || s.nvm.upd.st == 2)
      (modNvm fun n => { n with upd := { Update.zero with since := n.upd.since } }), updCode 0]) (by rw [cancelTransfer, if_neg h3])]
    simp only [after_seqA_cons, after_seqA_end, ← hu, ← hw]
  have hfu : u = { s with keeper := { s.keeper with gather := [] } } := hu ▸ rfl
  have hwn : w.nvm = { s.nvm with upd := (if s.nvm.upd.st = 1 ∨ s.nvm.upd.st = 2 then { Update.zero with since := s.nvm.upd.since } else s.nvm.upd) } := by
    have hun : u.nvm = s.nvm := by rw [hfu]
    rw [hw, after_whenA, hun]
    by_cases hst : s.nvm.upd.st = 1 ∨ s.nvm.upd.st = 2
    · rw [if_pos (by simpa using hst), if_pos hst, ← hun]
      rfl
    · rw [if_neg (by simpa using hst), if_neg hst, ← hun]
  have hfw : w = { u with nvm := w.nvm } := hw ▸ after_overlay [.nvm] (a := whenA _ _) (by simp)
  obtain ⟨hcode, hrb, hft⟩ := updCode_shows hcw 0 (by decide) htw
  have hwr : w.regs = s.regs := by rw [hfw, hfu]
  exact ⟨⟨by rw [hft, hfw, hfu], hcode, by rw [hft]; exact hwn, fun k hk => by rw [hrb k hk, hwr], by rw [hft, hfw, hfu]⟩, by rw [hft, hfw, hfu]⟩

theorem cancelUpdate_cancels {src : Src} {v : Word} (ht : s.takes src .upd 0 0x130 = true) (hgo : F.UPD_CMD_GO.of v = 1)
    (hop : F.UPD_CMD_OP.of v = 3) (h3 : s.nvm.upd.st ≠ 3) : ∃ t, exec (.cancelUpdate src v) s = .next t ∧ Cancelled s t :=
  ⟨_, congrArg Host.Outcome.next (after_updCmd ht hgo hop), (cancelTransfer_cancels hc h3 rfl).1⟩

theorem pldmCancelUpdate_cancels (hm : s.mctpUp = true) (h3 : s.nvm.upd.st ≠ 3) : ∃ t, exec .pldmCancelUpdate s = .next t ∧ Cancelled s t := by
  obtain ⟨w, hw⟩ : ∃ w, w = after cancelTransfer s := ⟨_, rfl⟩
  obtain ⟨⟨h1, h2, h3, h4, h5⟩, -⟩ := cancelTransfer_cancels hc h3 hw
  have hft : after (emit (.pldm 5 0x1D 0 [])) w = { w with out := w.out ++ [.pldm 5 0x1D 0 []] } := rfl
  refine ⟨after (emit (.pldm 5 0x1D 0 [])) w, congrArg Host.Outcome.next ?_, ?_⟩
  · rw [after_whenA, if_pos hm, after_seqA_cons, after_seqA_cons, after_seqA_end, ← hw]
  · rw [hft]
    exact ⟨h1, h2, h3, h4, by rw [h5]⟩

/-- What a confirmation leaves, where NVM takes the write. -/
def Confirmed (s t : State) : Prop := Config.nvmFails s.free = 0 → t.nvm = { s.nvm with
    arb := max s.nvm.arb (manSvn (s.slot (s.fld F.KPR_STS_SLOT 0)).manifest), upd := { s.nvm.upd with st := 0 } } ∧
  t = { s with regs := t.regs, nvm := t.nvm, free := t.free }

omit hc in
theorem confirmRun_confirms (h4 : s.nvm.upd.st = 4) : Confirmed s (after confirmRun s) := fun hn => by
  obtain ⟨v, hv⟩ : ∃ v, v = manSvn (s.slot (s.fld F.KPR_STS_SLOT 0)).manifest := ⟨_, rfl⟩
  obtain ⟨act, hact⟩ : ∃ act : Act, act = modNvm fun n => { n with arb := max n.arb v, upd := { n.upd with st := 0 } } := ⟨_, rfl⟩
  obtain ⟨w, hw⟩ : ∃ w, w = after act (after draw s) := ⟨_, rfl⟩
  have hrun : after confirmRun s = after (updCode (if Config.nvmFails s.free ≤ s.nvm.spare then 0 else 10)) w := by
    rw [confirmRun, after_whenA, if_pos (by simpa using h4),
      after_congr (b := seqA [nvmWrite act, updCode (if Config.nvmFails s.free ≤ s.nvm.spare then 0 else 10)]) (by rw [hact, hv]),
      after_seqA_cons, after_seqA_cons, after_seqA_end, after_nvmWrite_ok hn, ← hw]
  have hft : after confirmRun s = { w with regs := (after confirmRun s).regs } := by
    rw [hrun]
    exact after_overlay [.regs] (a := updCode _) (by simp [updCode])
  have hfw : w = { s with nvm := { s.nvm with arb := max s.nvm.arb v, upd := { s.nvm.upd with st := 0 } }, free := s.free + 1 } := by
    rw [hw, hact]
    rfl
  rw [← hv]
  exact ⟨by rw [hft, hfw], by rw [hft, hfw]⟩

omit hc in
theorem confirm_confirms {src : Src} {v : Word} (ht : s.takes src .upd 0 0x130 = true) (hgo : F.UPD_CMD_GO.of v = 1)
    (hop : F.UPD_CMD_OP.of v = 4) (h4 : s.nvm.upd.st = 4) : ∃ t, exec (.confirm src v) s = .next t ∧ Confirmed s t :=
  ⟨_, congrArg Host.Outcome.next (after_updCmd ht hgo hop), confirmRun_confirms h4⟩

omit hc in
theorem confirmExpiry_confirms (hk : s.keeperUp = true) (hs : s.fld F.UPD_CFG_CONFIRM_S 0 ≠ 0)
    (hd : s.nvm.upd.since + s.fld F.UPD_CFG_CONFIRM_S 0 ≤ s.nvm.pos) (h4 : s.nvm.upd.st = 4) : ∃ t, exec .confirmExpiry s = .next t ∧ Confirmed s t := by
  refine ⟨_, congrArg Host.Outcome.next ?_, confirmRun_confirms h4⟩
  rw [after_whenA, if_pos (by simp [hk, hs, hd])]

omit hc in
theorem recover_shows {src : Src} {v : Word} (ht : s.takes src .upd 0 0x130 = true) (hgo : F.UPD_CMD_GO.of v = 1)
    (hop : F.UPD_CMD_OP.of v = 5) : ∃ t, exec (.recover src v) s = .next t ∧ t.cells = s.cells ∧
      (Config.nvmFails s.free = 0 → t.nvm = { s.nvm with recover := true } ∧ t = { s with nvm := t.nvm, free := t.free }) := by
  obtain ⟨t, htt⟩ : ∃ t, t = after (nvmWrite (modNvm fun n => { n with recover := true })) s := ⟨_, rfl⟩
  refine ⟨t, congrArg Host.Outcome.next ((after_updCmd ht hgo hop).trans htt.symm), ?_, fun hn => ?_⟩
  · rw [htt]
    exact after_read_eq (fs := [.regs, .nvm, .keeper, .ports, .free, .out]) State.cells
      (allowed_nvmWrite (allowsEvents_onlyFields (List.Subset.refl _)) _ (by simp) s) fun _ => rfl
  · have htn : t = { s with nvm := { s.nvm with recover := true }, free := s.free + 1 } := by
      rw [htt, after_nvmWrite_ok hn]
      rfl
    exact ⟨by rw [htn], by rw [htn]⟩

end

/-! ## Activation and the boot into a slot (R515–R517) -/

section
variable {P : State → Eff → Prop} (hP : AllowsReports P) (hreg : ∀ s b i o v, P s (.reg b i o v)) (hnvm : ∀ s n, P s (.nvm n))
  (hsec : ∀ s x, P s (.sec x))
include hP hreg

theorem allowed_cfgApply (e : Nat × Word) (s : State) : Allowed P (cfgApply e s) s := by
  have hbad : ∀ s, Allowed P (logOpen none 8 noUnit 0x3F 0 0 s) s := allowed_logOpen hP none 8 noUnit 0x3F 0 0
  simp only [cfgApply]
  split
  · split
    · split
      · exact (allowed_setReg ..).2 (hreg ..)
      · exact hbad s
    · exact hbad s
  · exact hbad s

theorem allowed_bootBw (s : State) : Allowed P (bootBw s) s := by
  simp only [bootBw, allowed_seqA_cons, allowed_setF, allowed_seqA_nil, allowed_whenA, allowed_forOpt, and_true]
  refine ⟨hreg .., hreg .., hreg .., allowed_forA _ _ _ fun x _ s => (allowed_setF ..).2 (hreg ..), allowed_forA _ _ _ fun x _ s => (allowed_setF ..).2 (hreg ..),
    fun c _ => allowed_forA _ _ _ fun e _ s => allowed_cfgApply hP hreg e s,
    allowed_forA _ _ _ fun x _ s => (allowed_whenA _ _ s).2 fun _ => (allowed_setF ..).2 (hreg ..), fun _ => hreg ..⟩

include hnvm in
theorem allowed_applyPtab (s : State) : Allowed P (applyPtab s) s := by
  simp only [applyPtab]
  split
  · exact .nil _
  · split <;> simp [hreg, hnvm, allowed_logOpen hP]

include hnvm hsec in
theorem allowed_bootSlot (hmon : ∀ s m, P s (.mon m)) (k : Nat) (s : State) : Allowed P (bootSlot k s) s := by
  have hfree : ∀ s n, P s (.free n) := fun s n => hP s _ trivial
  have hdraws : ∀ s, Allowed P (forA (List.range 64) (fun _ => draw) s) s := fun s => allowed_forA _ _ s fun _ _ s => (allowed_draw (s := s)).2 (hfree _ _)
  simp [bootSlot, hreg, hnvm, hsec, hmon, firmwareRuns, slotsJudged, extend, retainScan, noiseRefresh, monShow, updState, hdraws,
    allowed_logOpen hP, allowed_applyPtab hP hreg hnvm, allowed_bootBw hP hreg]

include hnvm hsec in
theorem allowed_activate (hmon : ∀ s m, P s (.mon m)) (hkeeper : ∀ s k, P s (.keeper k)) (s : State) : Allowed P (activate s) s := by
  have hnw : ∀ a : Act, (∀ s, Allowed P (a s) s) → ∀ s, Allowed P (nvmWrite a s) s := fun a ha s => allowed_nvmWrite hP.events a ha s
  have hboot := allowed_bootSlot hP hreg hnvm hsec hmon
  simp only [activate]
  split
  · simp [updCode, hreg]
  · split
    · simp [updCode, hreg]
    · split
      · simp [updCode, hreg, hnvm]
      · split
        · simp only [allowed_seqA_cons, allowed_seqA_nil, and_true]
          exact ⟨hnw _ allowed_skip s, (allowed_setF ..).2 (hreg ..)⟩
        · simp only [allowed_seqA_cons, allowed_seqA_nil, and_true, allowed_bump]
          refine ⟨hnw _ (fun s => by simp [modSlot, hnvm]) s, hreg .., (allowed_setF ..).2 (hreg ..), ?_⟩
          split
          · split
            · simp [romWaits, slotsJudged, hreg]
            · exact hboot _ _
          · simp [keeperDown, debugEnd, hreg, hkeeper, hsec]

end

section
variable {s : State} (hc : s.canon = true)
include hc

/-- What an activation leaves. -/
def Activated (s t : State) : Prop :=
  t.cells = s.cells ∧ t.mem = s.mem ∧ (s.nvm.upd.st ≠ 2 → t.fld F.UPD_STS_CODE 0 = 9 ∧ t.nvm = s.nvm) ∧
    (s.nvm.upd.st = 2 → manSigned s.nvm.upd.manifest = true → s.badBlock = none → s.secState ≠ 3 → s.flag F.SEC_STS_BOOT_DONE 0 = true →
      Config.nvmFails s.free = 0 → t.keeperUp = false ∧ t.nvm.upd.st = 3 ∧
      t.nvm.next = s.updTarget ∧ (t.slot s.updTarget).manifest = s.nvm.upd.manifest ∧ t.fld F.KPR_STS_SLOT 0 = s.updTarget)

theorem activate_shows {t : State} (ht : t = after activate s) : Activated s t := by
  have hkeep : t.cells = s.cells ∧ t.mem = s.mem := by
    have hov := after_overlay [.regs, .nvm, .keeper, .dies, .ports, .free, .out, .sec, .mon] (a := activate) (s := s)
      (allowed_activate (allowsReports_onlyFields (by simp)) (by simp) (by simp) (by simp) (by simp) (by simp) s)
    rw [← ht] at hov
    rw [hov]
    exact ⟨rfl, rfl⟩
  refine ⟨hkeep.1, hkeep.2, fun h2 => ?_, fun h2 hsig hbad hst hdone hn => ?_⟩
  · have htu : t = after (updCode 9) s := ht.trans (after_congr (by simp only [activate, h2, ne_eq, not_false_eq_true, if_true]))
    obtain ⟨h1, -, h3⟩ := updCode_shows hc 9 (by decide) htu
    exact ⟨h1, by rw [h3]⟩
  · obtain ⟨k, hk⟩ : ∃ k, k = s.updTarget := ⟨_, rfl⟩
    obtain ⟨act, hact⟩ : ∃ act : Act, act = seqA [modSlot k fun x => { x with manifest := s.nvm.upd.manifest },
      modNvm fun n => { n with next := k, upd := ⟨[], [], 3, false, false, n.pos⟩ }] := ⟨_, rfl⟩
    obtain ⟨y, hy⟩ : ∃ y, y = after act (after draw s) := ⟨_, rfl⟩
    obtain ⟨w, hw⟩ : ∃ w, w = after (updCode 0) (after (bump F.UPD_CNT_ACTIVATIONS 0 1) y) := ⟨_, rfl⟩
    have hcy : y.canon = true := hy ▸ after_canon _ _ (after_canon _ s hc)
    have hcw : w.canon = true := hw ▸ after_canon _ _ (after_canon _ y hcy)
    have hyr : y.regs = s.regs := by
      rw [hy, hact]
      exact after_read_eq (fs := [.nvm]) State.regs (by simp [modSlot]) fun _ => rfl
    have hfw : w = { y with regs := w.regs } := by
      have hseq : w = after (seqA [bump F.UPD_CNT_ACTIVATIONS 0 1, updCode 0]) y := by rw [hw, after_seqA_cons, after_seqA_cons, after_seqA_end]
      exact hseq ▸ after_overlay [.regs] (a := seqA _) (by simp [updCode])
    have hsec : ∀ g : Fld, g.blk = .sec → g.off < 65536 → w.fld g 0 = s.fld g 0 := fun g hg ho => by
      have hseq : w = after (seqA [bump F.UPD_CNT_ACTIVATIONS 0 1, updCode 0]) y := by rw [hw, after_seqA_cons, after_seqA_cons, after_seqA_end]
      have hwy : w.fld g 0 = y.fld g 0 := by
        rw [hseq]
        refine fld_after_of_regIn hcy (p := fun k => ∃ o < 65536, k = regKey .upd 0 o) ?_ ?_
        · simp only [allowed_seqA_cons, allowed_bump, updCode, allowed_setF, allowed_seqA_nil, and_true]
          exact ⟨⟨_, by decide, rfl⟩, ⟨_, by decide, rfl⟩⟩
        · rintro ⟨o, ho', hk⟩
          rw [hg] at hk
          exact regKey_ne_of_blk (by decide) (by omega) hk
      rw [hwy]
      simp only [State.fld, State.reg, hyr]
    have hcond : ¬ (w.secState = 3 ∨ w.flag F.SEC_STS_BOOT_DONE 0 = false) := by
      rw [State.secState, State.flag, hsec _ rfl (by decide), hsec _ rfl (by decide)]
      rintro (h | h)
      · exact hst h
      · rw [← State.flag, hdone] at h
        exact absurd h (by decide)
    have htw : t = after keeperDown (after (setF F.KPR_STS_SLOT 0 k) w) := by
      rw [ht, after_congr (a := activate) (b := seqA [nvmWrite act, bump F.UPD_CNT_ACTIVATIONS 0 1, updCode 0, fun s =>
        if s.secState = 3 ∨ s.flag F.SEC_STS_BOOT_DONE 0 = false then (if s.power.recovLow then romWaits true s else bootSlot k s)
        else seqA [setF F.KPR_STS_SLOT 0 k, keeperDown] s]) ?_]
      · simp only [after_seqA_cons, after_seqA_end]
        rw [after_nvmWrite_ok hn, ← hy, ← hw, after_congr (b := seqA [setF F.KPR_STS_SLOT 0 k, keeperDown]) ?_]
        · simp only [after_seqA_cons, after_seqA_end]
        · exact if_neg hcond
      · have hspare : ¬ s.nvm.spare < Config.nvmFails s.free := by omega
        simp only [activate, h2, hsig, hbad, hspare, ne_eq, not_true_eq_false, if_false, Bool.true_eq_false, ← hk, hact]
    have hk2 : k < 2 := by
      rw [hk, State.updTarget]
      dsimp only
      split
      · split
        · decide
        · split <;> omega
      · omega
    have htn : t.nvm = y.nvm := by
      have h1 : t.nvm = w.nvm := by
        have hseq : t = after (seqA [setF F.KPR_STS_SLOT 0 k, keeperDown]) w := by rw [htw, after_seqA_cons, after_seqA_cons, after_seqA_end]
        exact hseq ▸ after_read_eq (fs := [.regs, .keeper, .sec]) (a := seqA _) State.nvm (by simp [keeperDown, debugEnd]) fun _ => rfl
      rw [h1, hfw]
    have hdown : ∀ g : Fld, g.blk = .kpr → g.off < 65536 → t.fld g 0 = (after (setF F.KPR_STS_STATE 0 0) (after (setF F.KPR_STS_SLOT 0 k) w)).fld g 0 := fun g hg ho => by
      obtain ⟨z, hz⟩ : ∃ z, z = after (setF F.KPR_STS_STATE 0 0) (after (setF F.KPR_STS_SLOT 0 k) w) := ⟨_, rfl⟩
      have hcz : z.canon = true := hz ▸ after_canon _ _ (after_canon _ w hcw)
      have htz : t = after debugEnd (after (modKeeper fun k => { k with staged := [], stagedObj := 0, snaps := [], gather := [], haltedByTap := false }) z) := by
        rw [htw, keeperDown, hz]
        simp only [after_seqA_cons, after_seqA_end]
      rw [htz, ← hz, fld_after_of_regIn (after_canon _ z hcz) (p := fun k => k ∈ [regKey .sec 0 0x100, regKey .sec 0 0x188]) (by simp [debugEnd])]
      · rfl
      · rw [hg]
        simp only [List.mem_cons, List.not_mem_nil, or_false, not_or]
        exact ⟨regKey_ne_of_blk (by decide) (by omega), regKey_ne_of_blk (by decide) (by omega)⟩
    have hyn : y.nvm.upd.st = 3 ∧ y.nvm.next = k ∧ (y.slot k).manifest = s.nvm.upd.manifest := by
      rw [hy, hact, after_seqA_cons, after_seqA_cons, after_seqA_end]
      refine ⟨rfl, rfl, ?_⟩
      by_cases h0 : k = 0
      · subst h0
        rfl
      · simp only [State.slot, h0, if_false, modSlot]
        rfl
    obtain ⟨hy1, hy2, hy3⟩ := hyn
    rw [← hk]
    refine ⟨?_, by rw [htn, hy1], by rw [htn, hy2], ?_, ?_⟩
    · rw [State.keeperUp, hdown _ rfl (by decide), fld_set_same (after_canon _ w hcw) _ _ _ (by decide)]
      rfl
    · rw [State.slot, htn]
      exact hy3
    · rw [hdown _ rfl (by decide), fld_set_bits (after_canon _ w hcw) _ _ _ _ _ (by decide), fld_set_same hcw _ _ _ (by decide)]
      exact Nat.mod_eq_of_lt hk2

theorem activate_activates {src : Src} {v : Word} (ht : s.takes src .upd 0 0x130 = true) (hgo : F.UPD_CMD_GO.of v = 1)
    (hop : F.UPD_CMD_OP.of v = 2) : ∃ t, exec (.activate src v) s = .next t ∧ Activated s t :=
  ⟨_, congrArg Host.Outcome.next (after_updCmd ht hgo hop), activate_shows hc rfl⟩

theorem pldmActivateFirmware_activates (hm : s.mctpUp = true) : ∃ t, exec .pldmActivateFirmware s = .next t ∧ Activated s t := by
  obtain ⟨o, ho⟩ : ∃ o, o = if s.nvm.upd.st = 2 then emit (.pldm 5 0x1A 0 (leBytes 2 2)) else emit (.pldm 5 0x1A 0x82 []) := ⟨_, rfl⟩
  obtain ⟨u, hu⟩ : ∃ u, u = after o s := ⟨_, rfl⟩
  have hcu : u.canon = true := hu ▸ after_canon _ s hc
  have hfu : u = { s with out := u.out } := hu ▸ after_overlay [.out] (a := o) (by
    rw [ho]
    split <;> simp)
  obtain ⟨h1, h2, h3, h4⟩ := activate_shows hcu rfl
  refine ⟨after activate u, congrArg Host.Outcome.next ?_, ?_⟩
  · rw [after_whenA, if_pos hm, after_congr (b := seqA [o, activate]) (by rw [ho]), after_seqA_cons, after_seqA_cons, after_seqA_end, ← hu]
  · rw [hfu] at h1 h2 h3 h4
    rw [hfu]
    exact ⟨h1, h2, h3, h4⟩

end

end Sys2Proof.Machine

open Sys2Proof Sys2Proof.Machine

/-- Settles O59: a piece is gathered where the source may send it, and each command is what it writes. -/
theorem firmwareUpdate : Obligations.FirmwareUpdate := by
  unfold Obligations.FirmwareUpdate
  intro s src v hc
  refine ⟨fun hcmd => ?_, fun off data hm hsrc hroom => ?_, fun hm hsrc => pldmRequestUpdate_shows hc hm hsrc, fun h3 => ⟨fun hcmd => ?_, fun hm => ?_⟩,
    fun hcmd => ?_, fun hm => pldmActivateFirmware_activates hc hm, fun h4 => ⟨fun hcmd => ?_, fun hk hs hd => confirmExpiry_confirms hk hs hd h4⟩,
    fun hcmd => ?_⟩
  · obtain ⟨ht, hgo, hop⟩ := hcmd
    exact ⟨fun hf hu => piece_refused hc ht hgo hop hf hu, fun hsrc hroom => piece_takes hc ht hgo hop rfl rfl hsrc hroom.1 hroom.2.1 hroom.2.2⟩
  · exact pldmFirmwareData_takes hc hm hsrc hroom.1 hroom.2.1 hroom.2.2
  · obtain ⟨ht, hgo, hop⟩ := hcmd
    exact cancelUpdate_cancels hc ht hgo hop h3
  · exact pldmCancelUpdate_cancels hc hm h3
  · obtain ⟨ht, hgo, hop⟩ := hcmd
    exact activate_activates hc ht hgo hop
  · obtain ⟨ht, hgo, hop⟩ := hcmd
    exact confirm_confirms ht hgo hop h4
  · obtain ⟨ht, hgo, hop⟩ := hcmd
    exact recover_shows ht hgo hop
end

section
/-!
SUPPORT. The mailbox, and what the board sets and reads (R455–R458, R468).
-/
namespace Sys2Proof.Machine

/-! ## Bytes in words -/

theorem leBytes_leNat (l : List Byte) : leBytes l.length (leNat l) = l := by
  induction l with
  | nil => rfl
  | cons b l ih =>
    have hb : BitVec.ofNat 8 (leNat (b :: l)) = b := by
      refine BitVec.eq_of_toNat_eq ?_
      have hlt := b.isLt
      simp only [leNat, BitVec.toNat_ofNat]
      omega
    have hr : leNat (b :: l) / 256 = leNat l := by
      have hlt := b.isLt
      simp only [leNat]
      omega
    rw [List.length_cons, leBytes_succ, hb, hr, ih]

/-- What the words of a buffer hold once bytes are placed over them: word by word, the bytes and the rest of the old ones. -/
def overWords (b : List Byte) (old : Nat → List Byte) (i : Nat) : List Byte :=
  (b.drop (8 * i)).take 8 ++ (old i).drop ((b.drop (8 * i)).take 8).length

theorem take_overWords (n : Nat) : ∀ (b : List Byte) (old : Nat → List Byte), (∀ i, (old i).length = 8) → (b.length + 7) / 8 = n →
    ((List.range n).flatMap (overWords b old)).take b.length = b := by
  induction n with
  | zero =>
    intro b old ho h
    have hb : b = [] := List.length_eq_zero_iff.1 (by omega)
    rw [hb]
    rfl
  | succ n ih =>
    intro b old ho h
    have hfirst : overWords b old 0 = b.take 8 ++ (old 0).drop (b.take 8).length := rfl
    have hrest : ∀ i, overWords b old (i + 1) = overWords (b.drop 8) (fun i => old (i + 1)) i := fun i => by
      rw [overWords, overWords, List.drop_drop, show 8 * (i + 1) = 8 + 8 * i by omega]
    rw [List.range_succ_eq_map, List.flatMap_cons, List.flatMap_map, hfirst]
    simp only [Nat.succ_eq_add_one, hrest]
    by_cases h8 : b.length ≤ 8
    · have hn : n = 0 := by omega
      subst hn
      rw [List.take_of_length_le h8]
      simp
    · have hlen : (b.take 8).length = 8 := by simp; omega
      have hnone : (old 0).drop (b.take 8).length = [] := List.drop_eq_nil_of_le (by rw [hlen, ho])
      have hdrop : (b.drop 8).length = b.length - 8 := List.length_drop
      have htail := ih (b.drop 8) (fun i => old (i + 1)) (fun i => ho (i + 1)) (by omega)
      rw [hnone, List.append_nil, List.take_append, hlen, List.take_take, min_eq_right (by omega), ← hdrop, htail]
      exact List.take_append_drop 8 b

/-! ## The mailbox's buffer -/

/-- The word that bytes placed in the buffer leave at place i, over what it held. -/
def bufWord (b : List Byte) (s : State) (i : Nat) : Word :=
  BitVec.ofNat 64 (leNat (overWords b (fun i => leBytes 8 (s.reg .kpr 0 (0x1000 + 8 * i)).toNat) i))

/-- One word of the buffer is written. -/
def putWord (b : List Byte) (i : Nat) : Act := fun s => setReg .kpr 0 (0x1000 + 8 * i) (bufWord b s i) s

theorem putBuf_eq (b : List Byte) : putBuf b = forA (List.range ((b.length + 7) / 8)) (putWord b) := rfl

theorem reg_putWord {s : State} (hc : s.canon = true) (b : List Byte) (a i : Nat) :
    (after (putWord b a) s).reg .kpr 0 (0x1000 + 8 * i) = if i = a then bufWord b s a else s.reg .kpr 0 (0x1000 + 8 * i) := by
  have hreg := reg_setReg s hc .kpr 0 (0x1000 + 8 * a) (bufWord b s a) .kpr 0 (0x1000 + 8 * i)
  rw [show after (putWord b a) s = after (setReg .kpr 0 (0x1000 + 8 * a) (bufWord b s a)) s from rfl, hreg]
  refine if_congr ⟨fun h => ?_, fun h => by rw [h]⟩ rfl rfl
  simp only [regKey] at h
  omega

theorem putWords_show (b : List Byte) : ∀ {l : List Nat} {s : State}, s.canon = true → l.Nodup → (∀ i ∈ l, i < 512) → ∀ i < 512,
    (after (forA l (putWord b)) s).reg .kpr 0 (0x1000 + 8 * i) = if i ∈ l then bufWord b s i else s.reg .kpr 0 (0x1000 + 8 * i)
  | [], s, _, _, _, i, _ => (if_neg (by simp)).symm
  | a :: l, s, hc, hn, hl, i, hi => by
    obtain ⟨u, hu⟩ : ∃ u, u = after (putWord b a) s := ⟨_, rfl⟩
    have hreg : ∀ i < 512, u.reg .kpr 0 (0x1000 + 8 * i) = if i = a then bufWord b s a else s.reg .kpr 0 (0x1000 + 8 * i) :=
      fun i _ => hu ▸ reg_putWord hc b a i
    have hword : i ≠ a → bufWord b u i = bufWord b s i := fun hne => by
      rw [bufWord, bufWord, overWords, overWords, hreg i hi, if_neg hne]
    rw [after_forA_cons, ← hu, putWords_show b (hu ▸ after_canon _ s hc) (List.nodup_cons.1 hn).2 (fun j hj => hl j (List.mem_cons_of_mem _ hj)) i hi, hreg i hi]
    by_cases hia : i = a
    · subst hia
      rw [if_neg (List.nodup_cons.1 hn).1, if_pos rfl, if_pos (List.mem_cons_self ..)]
    · rw [hword hia, if_neg hia]
      exact if_congr ⟨List.mem_cons_of_mem _, fun h => (List.mem_cons.1 h).resolve_left hia⟩ rfl rfl

/-- Bytes placed in the buffer read back. -/
theorem mbxBuf_putBuf {s : State} (hc : s.canon = true) (b : List Byte) (hb : b.length ≤ 4096) : (after (putBuf b) s).mbxBuf b.length = b := by
  have hwords : ∀ i ∈ List.range ((b.length + 7) / 8), leBytes 8 ((after (putBuf b) s).reg .kpr 0 (0x1000 + 8 * i)).toNat =
      overWords b (fun i => leBytes 8 (s.reg .kpr 0 (0x1000 + 8 * i)).toNat) i := fun i hi => by
    have hi' := List.mem_range.1 hi
    have hlen : (overWords b (fun i => leBytes 8 (s.reg .kpr 0 (0x1000 + 8 * i)).toNat) i).length = 8 := by
      simp only [overWords, List.length_append, List.length_take, List.length_drop, length_leBytes]
      omega
    have hnum := leBytes_leNat (overWords b (fun i => leBytes 8 (s.reg .kpr 0 (0x1000 + 8 * i)).toNat) i)
    rw [hlen] at hnum
    rw [putBuf_eq, putWords_show b hc List.nodup_range (fun j hj => by
      have := List.mem_range.1 hj
      omega) i (by omega), if_pos hi, bufWord]
    refine Eq.trans ?_ hnum
    rw [BitVec.toNat_ofNat, Nat.mod_eq_of_lt]
    have hlt := leNat_lt (overWords b (fun i => leBytes 8 (s.reg .kpr 0 (0x1000 + 8 * i)).toNat) i)
    rw [hlen] at hlt
    exact hlt
  rw [State.mbxBuf, List.flatMap_congr hwords]
  exact take_overWords _ b _ (fun i => length_leBytes 8 _) rfl

/-! ## What an OP leaves (R456) -/

/-- What an OP's answer is put in: the buffer, the status, and the event that tells of it. -/
def mbxAnswer (x : MbxRes) (seq p : Nat) : Act :=
  seqA [putBuf x.data, setF F.KPR_MBX_STS_SEQ 0 seq, setF F.KPR_MBX_STS_LEN 0 x.len, setF F.KPR_MBX_STS_CODE 0 x.code, raiseEvent p 96 seq]

/-- The registers that an answer may write. -/
def mbxKey (k : Nat) : Prop := evtKey k ∨ ∃ o < 65536, k = regKey .kpr 0 o

theorem allowed_mbxAnswer {P : State → Eff → Prop} (hP : AllowsSends P) (hkpr : ∀ s o v, o < 65536 → P s (.reg .kpr 0 o v))
    (hevt : ∀ s n v, n < 4 → P s (.reg .trl n (F.TRL_EVT_PEND.nth 96).off v)) {x : MbxRes} (hx : x.data.length ≤ 4096) (seq p : Nat) (s : State) :
    Allowed P (mbxAnswer x seq p s) s := by
  have hbuf : ∀ s, Allowed P (putBuf x.data s) s := fun s => allowed_forA _ _ s fun i hi s => by
    have := List.mem_range.1 hi
    exact (allowed_setReg ..).2 (hkpr _ _ _ (by omega))
  simp only [mbxAnswer, allowed_seqA_cons, allowed_setF, allowed_seqA_nil, and_true]
  exact ⟨hbuf s, hkpr _ _ _ (by decide), hkpr _ _ _ (by decide), hkpr _ _ _ (by decide), allowed_raiseEvent_of hP _ _ _ hevt _⟩

section
variable {s : State} (hc : s.canon = true)
include hc

theorem mbxAnswer_shows {x : MbxRes} (hx : x.data.length ≤ 4096) {seq p : Nat} {t : State} (ht : t = after (mbxAnswer x seq p) s) :
    t.fld F.KPR_MBX_STS_CODE 0 = x.code % 256 ∧ t.fld F.KPR_MBX_STS_SEQ 0 = seq % (F.KPR_MBX_STS_SEQ.top + 1) ∧
      t.fld F.KPR_MBX_STS_LEN 0 = x.len % (F.KPR_MBX_STS_LEN.top + 1) ∧ t.mbxBuf x.data.length = x.data ∧
      (∀ f : Fld, f.blk = .pwr → f.off < 65536 → t.fld f 0 = s.fld f 0) ∧ t = { s with regs := t.regs, ports := t.ports, out := t.out } := by
  obtain ⟨u, hu⟩ : ∃ u, u = after (putBuf x.data) s := ⟨_, rfl⟩
  obtain ⟨w, hw⟩ : ∃ w, w = after (seqA [setF F.KPR_MBX_STS_SEQ 0 seq, setF F.KPR_MBX_STS_LEN 0 x.len, setF F.KPR_MBX_STS_CODE 0 x.code]) u := ⟨_, rfl⟩
  have hcu : u.canon = true := hu ▸ after_canon _ s hc
  have hcw : w.canon = true := hw ▸ after_canon _ u hcu
  have htw : t = after (raiseEvent p 96 seq) w := by
    rw [ht, mbxAnswer, hw, hu]
    simp only [after_seqA_cons, after_seqA_end]
  have hrest : ∀ k, ¬ evtKey k → SMap.get regResetKey t.regs k = SMap.get regResetKey w.regs k := fun k hk => by
    rw [htw]
    exact after_regIn hcw (allowed_raiseEvent (allowsReports_regIn fun _ h => h).events p 96 seq (by decide) w) hk
  have hfld : ∀ f : Fld, f.off % 65536 < 0x400 → ∀ i, t.fld f i = w.fld f i := fun f ho i => by
    simp only [State.fld, State.reg]
    rw [hrest _ (not_evtKey_of_off (.inl ho))]
  have hbuf : ∀ i < 512, t.reg .kpr 0 (0x1000 + 8 * i) = u.reg .kpr 0 (0x1000 + 8 * i) := fun i hi => by
    have h1 : t.reg .kpr 0 (0x1000 + 8 * i) = w.reg .kpr 0 (0x1000 + 8 * i) := by
      rw [State.reg, hrest _ (not_evtKey_of_off (.inr (by omega)))]
      rfl
    have ho : (0x1000 + 8 * i) % 65536 ≠ 0x210 := by omega
    rw [h1, hw]
    simp only [after_seqA_cons, after_seqA_end]
    rw [reg_setF_off (after_canon _ _ (after_canon _ u hcu)) _ _ _ _ _ _ ho, reg_setF_off (after_canon _ u hcu) _ _ _ _ _ _ ho, reg_setF_off hcu _ _ _ _ _ _ ho]
  refine ⟨?_, ?_, ?_, ?_, fun f hf ho => ?_, ?_⟩
  · rw [hfld _ (by decide), hw]
    simp (disch := repeat' (first | assumption | apply after_canon | decide)) only [after_seqA_cons, after_seqA_end, fld_set_same]
    rfl
  · rw [hfld _ (by decide), hw]
    simp (disch := repeat' (first | assumption | apply after_canon | decide)) only [after_seqA_cons, after_seqA_end, fld_set_bits, fld_set_same]
    rfl
  · rw [hfld _ (by decide), hw]
    simp (disch := repeat' (first | assumption | apply after_canon | decide)) only [after_seqA_cons, after_seqA_end, fld_set_bits, fld_set_same]
    rfl
  · have hread := mbxBuf_putBuf hc x.data hx
    rw [← hu] at hread
    refine Eq.trans ?_ hread
    rw [State.mbxBuf, State.mbxBuf, List.flatMap_congr fun i hi => ?_]
    have := List.mem_range.1 hi
    rw [hbuf i (by omega)]
  · rw [ht]
    refine fld_after_of_regIn hc (p := mbxKey) (allowed_mbxAnswer (allowsReports_regIn fun _ h => .inl h).events.sends (fun _ o _ h => .inr ⟨o, h, rfl⟩)
      (fun _ n _ hn => .inl ⟨n, 96, hn, by decide, rfl⟩) hx seq p s) ?_
    rintro (⟨n, v, hn, hv, hk⟩ | ⟨o, ho', hk⟩)
    · rw [hf] at hk
      exact regKey_ne_of_blk (by decide) (by omega) hk
    · rw [hf] at hk
      exact regKey_ne_of_blk (by decide) (by omega) hk
  · exact ht ▸ after_overlay [.regs, .ports, .out] (a := mbxAnswer x seq p) (allowed_mbxAnswer (fun n s e he => by cases e <;> simp_all [SendTo])
      (by simp) (by simp) hx seq p s)

end

/-! ## What the command's own register leaves to read -/

/-- What a write of KPR_MBX_CMD leaves: every register but that one. -/
structure MbxWritten (s u : State) : Prop where
  canon : u.canon = true
  frame : u = { s with regs := u.regs }
  regs : RegsBut [regKey .kpr 0 0x200] s u

theorem mbxWritten {s : State} (hc : s.canon = true) (v : Word) : MbxWritten s (after (storeRW .kpr 0 0x200 v) s) :=
  ⟨after_canon _ s hc, storeRW_frame .kpr 0 0x200 v s, storeRW_regsBut hc .kpr 0 0x200 v⟩

section
variable {s u : State} (h : MbxWritten s u)
include h

theorem MbxWritten.fld_eq {f : Fld} {i : Nat} (hk : regKey f.blk i f.off ≠ regKey .kpr 0 0x200) : u.fld f i = s.fld f i :=
  fld_of_regsBut h.regs (by simpa using hk)

theorem MbxWritten.mbxBuf_eq (n : Nat) : u.mbxBuf n = s.mbxBuf n := by
  rw [State.mbxBuf, State.mbxBuf, List.flatMap_congr fun i hi => ?_]
  have := List.mem_range.1 hi
  rw [State.reg, h.regs _ (by
    simp only [List.mem_singleton, regKey]
    omega), ← State.reg]

theorem MbxWritten.unredacted_eq (r : Option Src) : u.unredacted r = s.unredacted r := by
  have hd : u.debug = s.debug := h.fld_eq (by decide)
  have hp : u.fld F.SEC_STS_DBG_PORT 0 = s.fld F.SEC_STS_DBG_PORT 0 := h.fld_eq (by decide)
  have hs : u.fld F.SEC_STS_SCOPE 0 = s.fld F.SEC_STS_SCOPE 0 := h.fld_eq (by decide)
  cases r with
  | none => rfl
  | some r => cases r with
    | keeper => rfl
    | port n => simp only [State.unredacted, hd, hp, hs]

theorem MbxWritten.object_eq (r : Option Src) (obj : Nat) : u.object r obj = s.object r obj := by
  have hrest : u.nvm = s.nvm ∧ u.noiseFile = s.noiseFile ∧ u.tsum = s.tsum ∧ u.calr = s.calr ∧ u.histPart = s.histPart ∧ u.reqPart r = s.reqPart r := by
    rw [h.frame]
    exact ⟨rfl, rfl, rfl, rfl, rfl, rfl⟩
  obtain ⟨h1, h2, h3, h4, h5, h6⟩ := hrest
  have hh : u.encHistFor r = s.encHistFor r := funext fun x => by simp only [State.encHistFor, h.unredacted_eq, h5, h6]
  have hl : u.encLogFor r = s.encLogFor r := funext fun x => by simp only [State.encLogFor, h.unredacted_eq, h6]
  simp only [State.object, h1, h2, h3, h4, hh, hl]

end

/-! ## The OPs -/

/-- The Keeper with a snapshot of an object for a requester, in place of its last. -/
def Keeper.withSnap (k : Keeper) (r obj pos : Nat) (b : List Byte) : Keeper :=
  { k with snaps := (k.snaps.filter fun x => !(x.1 == r && x.2.1 == obj)) ++ [(r, obj, pos, b)] }

/-- The Keeper with a piece of an object staged. -/
def Keeper.withPiece (k : Keeper) (obj off : Nat) (b : List Byte) : Keeper :=
  { k with staged := (if k.stagedObj = obj then k.staged else []) ++ [(off, b)], stagedObj := obj }

section
variable {s : State} (hc : s.canon = true) {src : Src} {v : Word} (ht : s.takes src .kpr 0 0x200 = true) (hgo : bitsOf v 0 0 = 1)
  (hb : s.flag F.KPR_MBX_STS_BUSY 0 = false) {u : State} (hu : u = after (storeRW .kpr 0 0x200 v) s) {obj off len : Nat}
  (hobj : obj = u.fld F.KPR_MBX_CMD_OBJ 0) (hoff : off = s.fld F.KPR_MBX_ARG_OFFSET 0) (hlen : len = s.fld F.KPR_MBX_ARG_LEN 0)
include hc ht hgo hb hu hobj hoff hlen

/-- What an OP ends with. -/
def MbxEnds (s u t : State) (code : Nat) : Prop := t.fld F.KPR_MBX_STS_CODE 0 = code ∧
  t.fld F.KPR_MBX_STS_SEQ 0 = u.fld F.KPR_MBX_CMD_SEQ 0 % (F.KPR_MBX_STS_SEQ.top + 1) ∧
  t = { s with regs := t.regs, keeper := t.keeper, nvm := t.nvm, sec := t.sec, ports := t.ports, power := t.power, free := t.free,
               out := t.out }

theorem after_mbxCmd {op : Nat} (hop : u.fld F.KPR_MBX_CMD_OP 0 = op) {x : MbxRes × Act} (hx : x = u.mbxOp (some src) op obj off len (u.mbxBuf len)) :
    after (mbxCmd src v) s = after (mbxAnswer x.1 (u.fld F.KPR_MBX_CMD_SEQ 0) u.mgmt) (after x.2 u) := by
  have hw : MbxWritten s u := hu ▸ mbxWritten hc v
  have hl : u.fld F.KPR_MBX_ARG_LEN 0 = len := (hw.fld_eq (by decide)).trans hlen.symm
  have ho : u.fld F.KPR_MBX_ARG_OFFSET 0 = off := (hw.fld_eq (by decide)).trans hoff.symm
  rw [mbxCmd, after_goCmd _ ht hgo hb, ← hu, after_congr (b := seqA [x.2, putBuf x.1.data, setF F.KPR_MBX_STS_SEQ 0 (u.fld F.KPR_MBX_CMD_SEQ 0),
    setF F.KPR_MBX_STS_LEN 0 x.1.len, setF F.KPR_MBX_STS_CODE 0 x.1.code, raiseEvent u.mgmt 96 (u.fld F.KPR_MBX_CMD_SEQ 0)])
    (by simp only [hl, ho, hop, ← hobj, hx])]
  simp only [mbxAnswer, after_seqA_cons, after_seqA_end]

/-- An OP whose effect changes no register: what it answers and what it keeps. -/
theorem mbx_ends {i : Instr} (hi : exec i s = .next (after (mbxCmd src v) s)) {op : Nat} (hop : u.fld F.KPR_MBX_CMD_OP 0 = op) {x : MbxRes × Act}
    (hx : x = u.mbxOp (some src) op obj off len (u.mbxBuf len)) (hdata : x.1.data.length ≤ 4096) (hcode : x.1.code < 256)
    (hact : Allowed (onlyFields [.regs, .keeper, .nvm, .sec, .power, .free, .ports, .out]) (x.2 u) u) :
    ∃ t, exec i s = .next t ∧ MbxEnds s u t x.1.code ∧ t.fld F.KPR_MBX_STS_LEN 0 = x.1.len % (F.KPR_MBX_STS_LEN.top + 1) ∧
      t.mbxBuf x.1.data.length = x.1.data ∧ (∀ f : Fld, f.blk = .pwr → f.off < 65536 → t.fld f 0 = (after x.2 u).fld f 0) ∧
      t = { after x.2 u with regs := t.regs, ports := t.ports, out := t.out } := by
  obtain ⟨w, hw⟩ : ∃ w, w = after x.2 u := ⟨_, rfl⟩
  obtain ⟨t, htt⟩ : ∃ t, t = after (mbxAnswer x.1 (u.fld F.KPR_MBX_CMD_SEQ 0) u.mgmt) w := ⟨_, rfl⟩
  have hmw : MbxWritten s u := hu ▸ mbxWritten hc v
  have hcw : w.canon = true := hw ▸ after_canon _ u hmw.canon
  obtain ⟨h1, h2, h3, h4, h5, h6⟩ := mbxAnswer_shows hcw hdata htt
  have hfw : w = { u with regs := w.regs, keeper := w.keeper, nvm := w.nvm, sec := w.sec, power := w.power, free := w.free, ports := w.ports, out := w.out } :=
    hw ▸ after_overlay [.regs, .keeper, .nvm, .sec, .power, .free, .ports, .out] hact
  refine ⟨t, hi.trans (by rw [after_mbxCmd hc ht hgo hb hu hobj hoff hlen hop hx, htt, hw]), ⟨h1.trans (Nat.mod_eq_of_lt hcode), h2, ?_⟩, h3, h4, hw ▸ h5, hw ▸ h6⟩
  rw [h6, hfw, hmw.frame]

theorem mbxRead_reads (hop : u.fld F.KPR_MBX_CMD_OP 0 = 1) {b : List Byte} (ho : s.object (some src) obj = some b) (h0 : off = 0) (h1 : 1 ≤ len)
    (h4 : len ≤ 4096) (hlb : len ≤ b.length) : ∃ t, exec (.mbxRead src v) s = .next t ∧ MbxEnds s u t 0 ∧ t.mbxBuf len = Machine.slice b 0 len ∧
      (s.reqNo (some src), obj, s.nvm.pos, b) ∈ t.keeper.snaps ∧ t.nvm = s.nvm := by
  have hmw : MbxWritten s u := hu ▸ mbxWritten hc v
  obtain ⟨k, hk⟩ : ∃ k, k = u.keeper.withSnap (u.reqNo (some src)) obj u.nvm.pos b := ⟨_, rfl⟩
  have hx : ((⟨0, len, Machine.slice b 0 len⟩, modKeeper fun _ => k) : MbxRes × Act) = u.mbxOp (some src) 1 obj off len (u.mbxBuf len) := by
    have hn : ¬ (len = 0 ∨ 4096 < len ∨ b.length < 0 + len) := by omega
    have hro : u.mbxRead (some src) obj off len = (⟨0, len, Machine.slice b 0 len⟩, k) := by
      simp only [State.mbxRead, hmw.object_eq, ho, h0, if_true, hn, if_false, hk, Keeper.withSnap]
    rw [State.mbxOp, hro]
  have hsl : (Machine.slice b 0 len).length = len := by simp [Machine.slice]
  obtain ⟨t, he, hends, -, hbuf, -, hfr⟩ := mbx_ends hc ht hgo hb hu hobj hoff hlen (i := .mbxRead src v) rfl hop hx (by rw [hsl]; exact h4) (by simp)
    (by simp)
  rw [hsl] at hbuf
  have hrest : u.nvm = s.nvm ∧ u.reqNo (some src) = s.reqNo (some src) := by
    rw [hmw.frame]
    exact ⟨rfl, rfl⟩
  refine ⟨t, he, hends, hbuf, ?_, ?_⟩
  · have htk : t.keeper = k := by rw [hfr]; rfl
    rw [htk, hk, ← hrest.1, ← hrest.2, Keeper.withSnap]
    exact List.mem_append_right _ (List.mem_singleton_self _)
  · rw [← hrest.1, hfr]
    rfl

theorem mbxWrite_stages (hop : u.fld F.KPR_MBX_CMD_OP 0 = 2) (ho : obj = 0x33) (h1 : 1 ≤ len) (h4 : len ≤ 4096) (hend : off + len ≤ 2 ^ 20) :
    ∃ t, exec (.mbxWrite src v) s = .next t ∧ MbxEnds s u t 0 ∧ t.nvm = s.nvm ∧
      t.keeper = { s.keeper with stagedObj := 0x33, staged := t.keeper.staged } ∧
      t.keeper.staged = (if s.keeper.stagedObj = 0x33 then s.keeper.staged else []) ++ [(off, padTo len (s.mbxBuf len))] := by
  have hmw : MbxWritten s u := hu ▸ mbxWritten hc v
  have hk : u.keeper = s.keeper ∧ u.nvm = s.nvm := by
    rw [hmw.frame]
    exact ⟨rfl, rfl⟩
  obtain ⟨k, hkk⟩ : ∃ k, k = s.keeper.withPiece 0x33 off (padTo len (s.mbxBuf len)) := ⟨_, rfl⟩
  have hx : ((⟨0, len, []⟩, modKeeper fun _ => k) : MbxRes × Act) = u.mbxOp (some src) 2 obj off len (u.mbxBuf len) := by
    have hw : u.mbxWrite obj off len (u.mbxBuf len) = (⟨0, len, []⟩, k) := by
      have hn : ¬ (len = 0 ∨ 4096 < len ∨ 2 ^ 20 < off + len) := by omega
      subst ho
      simp only [State.mbxWrite, hmw.mbxBuf_eq, hk.1, hkk, Keeper.withPiece, if_true, hn, if_false]
      rfl
    rw [State.mbxOp, hw]
  obtain ⟨t, he, hends, -, -, -, hfr⟩ := mbx_ends hc ht hgo hb hu hobj hoff hlen (i := .mbxWrite src v) rfl hop hx (by simp) (by simp) (by simp)
  have htk : t.keeper = k := by rw [hfr]; rfl
  exact ⟨t, he, hends, by rw [← hk.2, hfr]; rfl, by rw [htk, hkk]; rfl, by rw [htk, hkk]; rfl⟩

theorem mbxCommit_nothing (hop : u.fld F.KPR_MBX_CMD_OP 0 = 3) (hne : s.keeper.stagedObj ≠ obj) (ho : obj = 0x33) :
    ∃ t, exec (.mbxCommit src v) s = .next t ∧ MbxEnds s u t 5 ∧ t.nvm = s.nvm ∧ t.keeper = s.keeper := by
  have hmw : MbxWritten s u := hu ▸ mbxWritten hc v
  have hk : u.keeper = s.keeper ∧ u.nvm = s.nvm := by
    rw [hmw.frame]
    exact ⟨rfl, rfl⟩
  have hx : ((⟨5, 0, []⟩, skip) : MbxRes × Act) = u.mbxOp (some src) 3 obj off len (u.mbxBuf len) := by
    have hm : u.mbxCommit obj = (5, skip) := by
      subst ho
      simp only [State.mbxCommit]
      rw [if_neg (by decide), if_neg (by simp), if_pos (by rw [hk.1]; exact hne)]
    rw [State.mbxOp, hm]
  obtain ⟨t, he, hends, -, -, -, hfr⟩ := mbx_ends hc ht hgo hb hu hobj hoff hlen (i := .mbxCommit src v) rfl hop hx (by simp) (by simp) (by simp)
  rw [after_skipped] at hfr
  exact ⟨t, he, hends, by rw [hfr, hk.2], by rw [hfr, hk.1]⟩

theorem mbxCommit_installs (hop : u.fld F.KPR_MBX_CMD_OP 0 = 3) {b : List Byte} (hso : s.keeper.stagedObj = obj) (ho : obj = 0x32)
    (hsec : s.secState < 2) (has : assemble s.keeper.staged (stagedLen s.keeper.staged) = some b) :
    ∃ t, exec (.mbxCommit src v) s = .next t ∧ t.keeper.staged = [] ∧ (Config.nvmFails s.free = 0 → MbxEnds s u t 0 ∧ t.nvm.hostNqn = b) := by
  have hmw : MbxWritten s u := hu ▸ mbxWritten hc v
  have hk : u.keeper = s.keeper ∧ u.nvm = s.nvm ∧ u.free = s.free := by
    rw [hmw.frame]
    exact ⟨rfl, rfl, rfl⟩
  have hus : u.secState = s.secState := hmw.fld_eq (by decide)
  obtain ⟨act, hact⟩ : ∃ act : Act, act = modNvm fun n => { n with hostNqn := b } := ⟨_, rfl⟩
  obtain ⟨c, hcc⟩ : ∃ c, c = if Config.nvmFails s.free ≤ s.nvm.spare then 0 else 6 := ⟨_, rfl⟩
  have hx : ((⟨c, 0, []⟩, seqA [modKeeper fun k => { k with staged := [], stagedObj := 0 }, nvmWrite act]) : MbxRes × Act) =
      u.mbxOp (some src) 3 obj off len (u.mbxBuf len) := by
    have hm : u.mbxCommit obj = (c, seqA [modKeeper fun k => { k with staged := [], stagedObj := 0 }, nvmWrite act]) := by
      have hn : ¬ 2 ≤ s.secState := by omega
      subst ho
      simp only [State.mbxCommit]
      rw [if_neg (by decide), if_neg (by simp [hus, hn]), if_neg (by rw [hk.1]; exact fun h => h hso), hk.1, has, hk.2.1, hk.2.2, hcc, hact]
      dsimp only
      rw [if_pos trivial]
      split <;> rfl
    rw [State.mbxOp, hm]
  have hev : ∀ {P : State → Eff → Prop}, AllowsEvents P → (∀ s n, P s (.nvm n)) → ∀ s, Allowed P (nvmWrite act s) s :=
    fun hP hn s => allowed_nvmWrite hP act (fun s => by simp [hact, hn]) s
  obtain ⟨t, he, hends, -, -, -, hfr⟩ := mbx_ends hc ht hgo hb hu hobj hoff hlen (i := .mbxCommit src v) rfl hop hx (by simp)
    (by dsimp only; rw [hcc]; split <;> simp) (by
      simp only [allowed_seqA_cons, allowed_modKeeper, allowed_seqA_nil, and_true]
      exact ⟨by simp, hev (allowsEvents_onlyFields (by simp)) (by simp) _⟩)
  rw [after_seqA_cons, after_seqA_cons, after_seqA_end] at hfr
  obtain ⟨y, hy⟩ : ∃ y, y = after (modKeeper fun k => { k with staged := [], stagedObj := 0 }) u := ⟨_, rfl⟩
  have hcy : y.canon = true := hy ▸ after_canon _ u hmw.canon
  have hyf : y.free = s.free ∧ y.keeper.staged = [] := by
    rw [hy]
    exact ⟨hk.2.2, rfl⟩
  rw [← hy] at hfr
  refine ⟨t, he, ?_, fun hn => ⟨?_, ?_⟩⟩
  · have hst : (after (nvmWrite act) y).keeper.staged = y.keeper.staged :=
      Allowed.rel (R := fun s t => t.keeper.staged = s.keeper.staged) ⟨fun _ => rfl, fun _ _ _ h1 h2 => h2.trans h1⟩ (fun s e _ he => he) hcy
        (hev (P := fun s e => (e.ap s).keeper.staged = s.keeper.staged) (fun s e he _ => by
          cases e with
          | keeper k =>
            change k = _ at he
            change k.staged = _
            rw [he]
          | lost => exact he.elim
          | _ => rfl) (fun _ _ => rfl) y)
    have htk : t.keeper = (after (nvmWrite act) y).keeper := by rw [hfr]
    rw [htk, hst, hyf.2]
  · rw [hcc, hn, if_pos (Nat.zero_le _)] at hends
    exact hends
  · have htn : t.nvm = (after (nvmWrite act) y).nvm := by rw [hfr]
    rw [htn, after_nvmWrite_ok (by rw [hyf.1]; exact hn), hact]
    rfl

theorem mbxInfo_tells (hop : u.fld F.KPR_MBX_CMD_OP 0 = 4) {b : List Byte} (ho : s.object (some src) obj = some b) :
    ∃ t, exec (.mbxInfo src v) s = .next t ∧ MbxEnds s u t 0 ∧
      t.fld F.KPR_MBX_STS_LEN 0 = (b.length + 1023) / 1024 % (F.KPR_MBX_STS_LEN.top + 1) ∧ t.nvm = s.nvm ∧ t.keeper = s.keeper := by
  have hmw : MbxWritten s u := hu ▸ mbxWritten hc v
  have hk : u.keeper = s.keeper ∧ u.nvm = s.nvm := by
    rw [hmw.frame]
    exact ⟨rfl, rfl⟩
  have hx : ((⟨0, (b.length + 1023) / 1024, []⟩, skip) : MbxRes × Act) = u.mbxOp (some src) 4 obj off len (u.mbxBuf len) := by
    rw [State.mbxOp, hmw.object_eq, ho]
  obtain ⟨t, he, hends, hln, -, -, hfr⟩ := mbx_ends hc ht hgo hb hu hobj hoff hlen (i := .mbxInfo src v) rfl hop hx (by simp) (by simp) (by simp)
  rw [after_skipped] at hfr
  exact ⟨t, he, hends, hln, by rw [hfr, hk.2], by rw [hfr, hk.1]⟩

theorem mbxWake_wakes (hop : u.fld F.KPR_MBX_CMD_OP 0 = 5) (hp : s.pstate = 3) (hm : s.mayWake = true) :
    ∃ t, exec (.mbxWake src v) s = .next t ∧ MbxEnds s u t 0 ∧ t.power = { s.power with wake := true } ∧ t.flag F.PWR_STATE_BUSY 0 = true ∧
      t.fld F.PWR_STATE_TARGET 0 = 0 ∧ t.nvm = s.nvm := by
  have hmw : MbxWritten s u := hu ▸ mbxWritten hc v
  have hk : u.power = s.power ∧ u.nvm = s.nvm ∧ u.temp = s.temp := by
    rw [hmw.frame]
    exact ⟨rfl, rfl, rfl⟩
  have hup : u.pstate = 3 := by
    rw [State.pstate, hk.1, hmw.fld_eq (by decide), ← State.pstate, hp]
  have hum : u.mayWake = true := by
    have h1 : u.fld F.THM_STS_CUT 0 = s.fld F.THM_STS_CUT 0 := hmw.fld_eq (by decide)
    have h2 : u.fld F.THM_STS_STOP 0 = s.fld F.THM_STS_STOP 0 := hmw.fld_eq (by decide)
    have h3 : u.fld F.THM_CFG_RESUME 0 = s.fld F.THM_CFG_RESUME 0 := hmw.fld_eq (by decide)
    simpa only [State.mayWake, State.flag, h1, h2, h3, hk.2.2] using hm
  have hx : ((⟨0, 0, []⟩, wake) : MbxRes × Act) = u.mbxOp (some src) 5 obj off len (u.mbxBuf len) := by
    simp only [State.mbxOp, hup, hum, ne_eq, not_true_eq_false, if_false, if_true]
  have hw : after wake u = after (seqA [modPower fun p => { p with wake := true }, setF F.PWR_STATE_CODE 0 0, setF F.PWR_STATE_TARGET 0 0,
      setF F.PWR_STATE_BUSY 0 1]) u := after_congr (by simp only [wake, iteA, hum, if_true])
  obtain ⟨y, hy⟩ : ∃ y, y = after (modPower fun p => { p with wake := true }) u := ⟨_, rfl⟩
  have hcy : y.canon = true := hy ▸ after_canon _ u hmw.canon
  rw [after_seqA_cons, ← hy] at hw
  obtain ⟨t, he, hends, -, -, hpwr, hfr⟩ := mbx_ends hc ht hgo hb hu hobj hoff hlen (i := .mbxWake src v) rfl hop hx (by simp) (by simp)
    (by simp [wake])
  have hyr : after (seqA [setF F.PWR_STATE_CODE 0 0, setF F.PWR_STATE_TARGET 0 0, setF F.PWR_STATE_BUSY 0 1]) y =
      { y with regs := (after (seqA [setF F.PWR_STATE_CODE 0 0, setF F.PWR_STATE_TARGET 0 0, setF F.PWR_STATE_BUSY 0 1]) y).regs } :=
    after_overlay [.regs] (by simp)
  have hb1 := hpwr F.PWR_STATE_BUSY rfl (by decide)
  have ht1 := hpwr F.PWR_STATE_TARGET rfl (by decide)
  rw [hw] at hb1 ht1 hfr
  refine ⟨t, he, hends, ?_, ?_, ?_, ?_⟩
  · rw [hfr, hyr, hy, ← hk.1]
    rfl
  · rw [State.flag, hb1, after_seqA_cons, after_seqA_cons, after_seqA_cons, after_seqA_end,
      fld_setF_same _ (after_canon _ _ (after_canon _ _ hcy)) F.PWR_STATE_BUSY 0 1 (by decide) (by decide)]
    rfl
  · have hc2 : (after (setF F.PWR_STATE_CODE 0 0) y).canon = true := after_canon _ _ hcy
    rw [ht1, after_seqA_cons, after_seqA_cons, after_seqA_cons, after_seqA_end,
      fld_set_bits (after_canon _ _ hc2) F.PWR_STATE_BUSY F.PWR_STATE_TARGET 0 0 1 (by decide),
      fld_setF_same _ hc2 F.PWR_STATE_TARGET 0 0 (by decide) (by decide)]
    rfl
  · rw [hfr, hyr, hy, ← hk.2.1]
    rfl

end

/-! ## What the board sets and reads (R458) -/

section
variable {s : State} (hc : s.canon = true)
include hc

/-- A field set for the board, and an answer to it. -/
theorem set_and_emit (f : Fld) {v : Nat} (hv : v < 2 ^ (f.hi + 1 - f.lo)) (hf : f.lo ≤ f.hi ∧ f.hi < 64) (o : Out) {t : State}
    (ht : t = after (seqA [setF f 0 v, emit o]) s) : t.fld f 0 = v ∧ t.out = s.out ++ [o] ∧ RegsBut [regKey f.blk 0 f.off] s t ∧
      t = { s with regs := t.regs, out := t.out } := by
  have hfr : t = { s with regs := t.regs, out := t.out } := ht ▸ after_overlay [.regs, .out] (by simp)
  refine ⟨?_, ?_, ht ▸ after_regsBut hc (by simp), hfr⟩
  · have h : t.fld f 0 = (after (setF f 0 v) s).fld f 0 := by
      rw [ht, after_seqA_cons, after_seqA_cons, after_seqA_end]
      rfl
    rw [h, fld_setF_same s hc f 0 v hf.1 hf.2, Nat.mod_eq_of_lt hv]
  · rw [ht, after_seqA_cons, after_seqA_cons, after_seqA_end]
    rfl

theorem mctpEid_shows (e : Byte) (data : List Byte) (hup : s.mctpUp = true) (h8 : 8 ≤ e.toNat) (hff : e.toNat ≠ 255) (he : data.getD 1 0 = e) :
    ∃ t, exec (.mctpControl 1 data) s = .next t ∧ t.fld F.KPR_I3C_EID 0 = e.toNat ∧ t.out = s.out ++ [.mctp 1 0 [0, e, 0]] ∧
      RegsBut [regKey .kpr 0 F.KPR_I3C_EID.off] s t ∧ t = { s with regs := t.regs, out := t.out } := by
  obtain ⟨t, ht⟩ : ∃ t, t = after (seqA [setF F.KPR_I3C_EID 0 e.toNat, emit (.mctp 1 0 [0, e, 0])]) s := ⟨_, rfl⟩
  have hx : exec (.mctpControl 1 data) s = .next t := by
    refine congrArg Host.Outcome.next ((after_congr ?_).trans ht.symm)
    have he' : data[1]?.getD 0#8 = e := by simpa using he
    simp [whenA, hup, he', h8, hff, leBytes]
  exact ⟨t, hx, set_and_emit hc F.KPR_I3C_EID e.isLt (by decide) _ ht⟩

theorem i3cAddress_shows (data : List Byte) (hv : s.power.vaux = true) : ∃ t, exec (.i3cCcc 0x87 data) s = .next t ∧
    t.fld F.KPR_I3C_DYN 0 = (data.getD 0 0).toNat / 2 ∧ t.out = s.out ++ [.i3c true []] ∧
      RegsBut [regKey .kpr 0 F.KPR_I3C_DYN.off] s t ∧ t = { s with regs := t.regs, out := t.out } := by
  obtain ⟨t, ht⟩ : ∃ t, t = after (seqA [setF F.KPR_I3C_DYN 0 ((data.getD 0 0).toNat / 2), emit (.i3c true [])]) s := ⟨_, rfl⟩
  have hx : exec (.i3cCcc 0x87 data) s = .next t := by
    refine congrArg Host.Outcome.next ((after_congr ?_).trans ht.symm)
    simp [whenA, hv]
  exact ⟨t, hx, set_and_emit hc F.KPR_I3C_DYN (lt_of_le_of_lt (Nat.div_le_self _ 2) (data.getD 0 0).isLt) (by decide) _ ht⟩

omit hc in
theorem pldmTerminus_set (tid : Byte) (data : List Byte) (hup : s.mctpUp = true) (h0 : tid ≠ 0) (hff : tid ≠ 255) :
    ∃ t, exec (.pldmBase 1 (tid :: data)) s = .next t ∧ t.keeper = { s.keeper with tid := tid.toNat } ∧
      t = { s with keeper := t.keeper, out := t.out } := by
  have h0' : tid.toNat ≠ 0 := fun h => h0 (BitVec.eq_of_toNat_eq h)
  have hff' : tid.toNat ≠ 255 := fun h => hff (BitVec.eq_of_toNat_eq h)
  have hx : exec (.pldmBase 1 (tid :: data)) s =
      .next (after (seqA [modKeeper fun k => { k with tid := tid.toNat }, emit (.pldm 0 1 0 [])]) s) := by
    refine congrArg Host.Outcome.next (after_congr ?_)
    simp [whenA, hup, h0', hff']
  exact ⟨_, hx, rfl, rfl⟩

omit hc in
theorem pldmReceiver_set (data : List Byte) (hv : s.power.vaux = true) (hk : s.keeperUp = true) :
    ∃ t, exec (.pldmPlatform 0x04 data) s = .next t ∧ t.keeper = { s.keeper with evReceiver := (data.getD 2 0).toNat } ∧
      t = { s with keeper := t.keeper, out := t.out } := by
  have hx : exec (.pldmPlatform 0x04 data) s =
      .next (after (seqA [modKeeper fun k => { k with evReceiver := (data.getD 2 0).toNat }, emit (.pldm 2 0x04 0 [])]) s) := by
    refine congrArg Host.Outcome.next (after_congr ?_)
    simp [whenA, hv, hk]
  exact ⟨_, hx, rfl, rfl⟩

omit hc in
theorem pldmObject_reads (obj : BitVec 16) (len : BitVec 13) (data : List Byte) {b : List Byte} (hv : s.power.vaux = true) (hk : s.keeperUp = true)
    (ho : s.object none obj.toNat = some b) (h1 : 1 ≤ len.toNat) (h4 : len.toNat ≤ 1024) (hlb : len.toNat ≤ b.length) :
    ∃ t, exec (.pldmOem 1 obj 0 len data) s = .next t ∧ t.out = s.out ++ [.pldm 63 1 0 (Machine.slice b 0 len.toNat)] ∧
      t.keeper = { s.keeper with snaps := t.keeper.snaps } ∧ t = { s with keeper := t.keeper, out := t.out } := by
  obtain ⟨k, hkk⟩ : ∃ k, k = s.keeper.withSnap (s.reqNo none) obj.toNat s.nvm.pos b := ⟨_, rfl⟩
  have hop : s.mbxOp none 1 obj.toNat 0 len.toNat data = (⟨0, len.toNat, Machine.slice b 0 len.toNat⟩, modKeeper fun _ => k) := by
    have hn : ¬ (len.toNat = 0 ∨ 4096 < len.toNat ∨ b.length < 0 + len.toNat) := by omega
    simp only [State.mbxOp, State.mbxRead, ho, if_true, hn, if_false, hkk, Keeper.withSnap]
  have hx : exec (.pldmOem 1 obj 0 len data) s =
      .next (after (seqA [modKeeper fun _ => k, emit (.pldm 63 1 0 (Machine.slice b 0 len.toNat))]) s) := by
    have h2 : ¬ 1024 < len.toNat := by omega
    refine congrArg Host.Outcome.next (after_congr ?_)
    simp [whenA, hv, hk, h2, hop]
  exact ⟨_, hx, rfl, by rw [hkk]; rfl, rfl⟩

end

end Sys2Proof.Machine

open Sys2Proof Sys2Proof.Machine

/-- Settles O52: each OP of the mailbox is its effect on the state that the command's own write leaves, then the answer to the requester;
the board's commands are their own effects and an answer. -/
theorem mailboxAndBoard : Obligations.MailboxAndBoard := by
  refine ⟨fun s src v hc ht hgo hb => ?_, fun s hc => ⟨fun e data hup h8 hff he => mctpEid_shows hc e data hup h8 hff he, fun data hv => i3cAddress_shows hc data hv,
    fun tid data hup h0 hff => pldmTerminus_set tid data hup h0 hff, fun data hv hk => pldmReceiver_set data hv hk,
    fun obj len data b hv hk ho h1 h4 hlb => pldmObject_reads obj len data hv hk ho h1 h4 hlb⟩⟩
  refine ⟨fun hop b ho h0 h1 h4 hlb => mbxRead_reads hc ht hgo hb rfl rfl rfl rfl hop ho h0 h1 h4 hlb,
    fun hop ho h1 h4 hend => mbxWrite_stages hc ht hgo hb rfl rfl rfl rfl hop ho h1 h4 hend,
    fun hop => ⟨fun hne ho => mbxCommit_nothing hc ht hgo hb rfl rfl rfl rfl hop hne ho,
      fun b hso ho hsec has => mbxCommit_installs hc ht hgo hb rfl rfl rfl rfl hop hso ho hsec has⟩,
    fun hop b ho => mbxInfo_tells hc ht hgo hb rfl rfl rfl rfl hop ho,
    fun hop hp hm => mbxWake_wakes hc ht hgo hb rfl rfl rfl rfl hop hp hm⟩

end

section
/-!
SUPPORT. Messages and events to the host on a Trais port (R416, R420, R428).
-/
namespace Sys2Proof.Machine

/-! ## A message on a port -/

/-- A port once it has sent a message with nothing waiting before it. -/
def TPort.put (p : TPort) (m : TMsg) : TPort :=
  { p with
    credits := if m.cls = 1 then p.credits else SMap.set noCr p.credits m.cls (SMap.get noCr p.credits m.cls - m.units)
    txSeq := (p.txSeq + 1) % 4096
    kept := (p.kept ++ [traisData p.txSeq p.rxSeq m]).drop (p.kept.length - 1023) }

theorem allowsSends_onlyFields {fs : List StateField} (h : [.ports, .out] ⊆ fs) : AllowsSends (onlyFields fs) := fun _ _ e he => by
  have hp : StateField.ports ∈ fs := h (by simp)
  have ho : StateField.out ∈ fs := h (by simp)
  cases e with
  | port => simpa using hp
  | out => simpa using ho
  | _ => exact he.elim

theorem allowsSends_regIn {p : Nat → Prop} : AllowsSends (regIn p) := fun _ _ e he => by
  cases e with
  | port | out => trivial
  | _ => exact he.elim

/-- What is sent on port n changes no other port. -/
theorem sendTo_portsBut {n : Nat} (s : State) (e : Eff) (he : SendTo n s e) : portRel (keepBut [n]) s e := by
  cases e with
  | port k x => exact .inl (List.mem_singleton.2 he.1)
  | out => trivial
  | _ => exact he.elim

/-- An action sends on port n alone. -/
def SendsOn (n : Nat) (a : Act) : Prop := ∀ {P : State → Eff → Prop}, (∀ s e, SendTo n s e → P s e) → ∀ s, Allowed P (a s) s

section
variable {s : State} (hc : s.canon = true)

theorem sendsOn_frame {n : Nat} {a : Act} (h : SendsOn n a) : after a s = { s with ports := (after a s).ports, out := (after a s).out } :=
  after_overlay [.ports, .out] (h (allowsSends_onlyFields (by simp) n) s)

include hc

theorem port_modPort (n : Nat) (f : TPort → TPort) (k : Nat) : (after (modPort n f) s).port k = if k = n then f (s.port n) else s.port k := by
  rw [modPort, after_eff, port_ap_port s hc]

theorem pumpMsgs_single {n : Nat} {m : TMsg} (hq : (s.port n).txq = []) (hcr : m.cls = 1 ∨ m.units ≤ SMap.get noCr (s.port n).credits m.cls) {t : State}
    (ht : t = after (pumpMsgs n [m]) s) : t.port n = (s.port n).put m ∧ t.out = s.out ++ [.traisFlits n [traisData (s.port n).txSeq (s.port n).rxSeq m]] := by
  have hgo : ¬ (m.cls ≠ 1 ∧ (SMap.get noCr (s.port n).credits m.cls < m.units ∨ (s.port n).txq.any (fun x => x.cls == m.cls) = true)) := by
    rw [hq, List.any_nil]
    rintro ⟨h1, h2 | h2⟩
    · exact hcr.elim h1 fun h => absurd h2 (Nat.not_lt.2 h)
    · cases h2
  have hact : after (pumpMsgs n [m]) s = after (seqA [modPort n (·.put m), emit (.traisFlits n [traisData (s.port n).txSeq (s.port n).rxSeq m])]) s := by
    refine after_congr ?_
    rw [pumpMsgs]
    dsimp only
    rw [if_neg hgo]
    rfl
  rw [hact, after_seqA_cons, after_seqA_cons, after_seqA_end] at ht
  have hp : t.port n = (after (modPort n (·.put m)) s).port n := by
    rw [ht]
    rfl
  exact ⟨hp.trans ((port_modPort hc n _ n).trans (if_pos rfl)), by rw [ht]; rfl⟩

/-- A message that the port has the credits for, with nothing waiting, goes out at once. -/
theorem traisSend_sends {n : Nat} {m : TMsg} (hup : s.fld F.TRL_LNK_STS_STATE n = 2) (hq : (s.port n).txq = [])
    (hcr : m.cls = 1 ∨ m.units ≤ SMap.get noCr (s.port n).credits m.cls) {t : State} (ht : t = after (traisSend n m) s) :
    t.port n = (s.port n).put m ∧ t.out = s.out ++ [.traisFlits n [traisData (s.port n).txSeq (s.port n).rxSeq m]] := by
  obtain ⟨u, hu⟩ : ∃ u, u = after (modPort n fun p => { p with txq := p.txq ++ [m] }) s := ⟨_, rfl⟩
  obtain ⟨w, hw⟩ : ∃ w, w = after (modPort n fun p => { p with txq := [] }) u := ⟨_, rfl⟩
  have hcu : u.canon = true := hu ▸ after_canon _ s hc
  have hcw : w.canon = true := hw ▸ after_canon _ u hcu
  have hpu : u.port n = { s.port n with txq := [m] } := by
    rw [hu, port_modPort hc, if_pos rfl, hq]
    rfl
  have hpw : w.port n = { s.port n with txq := [] } := by
    rw [hw, port_modPort hcu, if_pos rfl, hpu]
  have ht' : t = after (pumpMsgs n [m]) w := by
    rw [ht, traisSend, after_whenA, if_pos (by simpa using hup), after_seqA_cons, after_seqA_cons, after_seqA_end, ← hu,
      after_congr (a := pumpPort n) (b := seqA [modPort n fun p => { p with txq := [] }, pumpMsgs n [m]]) (by rw [pumpPort, hpu]),
      after_seqA_cons, after_seqA_cons, after_seqA_end, ← hw]
  obtain ⟨h1, h2⟩ := pumpMsgs_single hcw (by rw [hpw]) (by rw [hpw]; exact hcr) ht'
  have hsame : ({ s.port n with txq := [] } : TPort) = s.port n := by rw [← hq]
  rw [hpw, hsame] at h1 h2
  exact ⟨h1, h2.trans (by rw [hw, hu]; rfl)⟩

/-! ## An event on a port -/

/-- A port with a vector's holdoff begun anew. -/
def TPort.hold (p : TPort) (vec : Nat) (mile : Word) : TPort :=
  { p with holdoff := p.holdoff.filter (fun x => x.1 != vec) ++ [(vec, mile)] }

/-- A port with the latest data of a pending event. -/
def TPort.pend (p : TPort) (v data : Nat) : TPort := { p with evData := SMap.set (fun _ => 0) p.evData v data }

omit hc in
theorem after_sendEvt {n v data : Nat} {u : State} (hu : u = after (traisSend n (.evt (F.TRL_EVT_VECTOR.of (s.evt n v)) (data % 2 ^ 32))) s) :
    after (sendEvt n v data) s = if s.fld F.TRL_CFG_HOLDOFF n = 0 then u
      else after (modPort n (·.hold (F.TRL_EVT_VECTOR.of (s.evt n v)) u.mile)) u := by
  have hfu : u = { s with ports := u.ports, out := u.out } := hu ▸ sendsOn_frame (n := n) (fun hP s => allowed_traisSend_to hP _ s)
  have hh : u.fld F.TRL_CFG_HOLDOFF n = s.fld F.TRL_CFG_HOLDOFF n := by
    rw [hfu]
    rfl
  rw [after_congr (a := sendEvt n v data) (b := seqA [traisSend n (.evt (F.TRL_EVT_VECTOR.of (s.evt n v)) (data % 2 ^ 32)),
      whenA (fun s => s.fld F.TRL_CFG_HOLDOFF n != 0) (fun s' => modPort n (·.hold (F.TRL_EVT_VECTOR.of (s.evt n v)) s'.mile) s')]) rfl,
    after_seqA_cons, after_seqA_cons, after_seqA_end, ← hu, after_whenA, hh]
  by_cases h : s.fld F.TRL_CFG_HOLDOFF n = 0
  · rw [if_pos h, if_neg (by simpa using h)]
  · rw [if_neg h, if_pos (by simpa using h)]
    rfl

theorem sendEvt_holds {n v data : Nat} (hh : s.fld F.TRL_CFG_HOLDOFF n ≠ 0) {t : State} (ht : t = after (sendEvt n v data) s) :
    (t.port n).inHoldoff (F.TRL_EVT_VECTOR.of (s.evt n v)) = true := by
  obtain ⟨u, hu⟩ : ∃ u, u = after (traisSend n (.evt (F.TRL_EVT_VECTOR.of (s.evt n v)) (data % 2 ^ 32))) s := ⟨_, rfl⟩
  have hcu : u.canon = true := hu ▸ after_canon _ s hc
  rw [ht, after_sendEvt hu, if_neg hh, port_modPort hcu, if_pos rfl, TPort.inHoldoff, TPort.hold, List.any_append]
  simp

theorem sendEvt_sends {n v data : Nat} (hup : s.fld F.TRL_LNK_STS_STATE n = 2) (hq : (s.port n).txq = []) (hcr : 1 ≤ SMap.get noCr (s.port n).credits 0)
    {t : State} (ht : t = after (sendEvt n v data) s) : t.out = s.out ++
      [.traisFlits n [traisData (s.port n).txSeq (s.port n).rxSeq (.evt (F.TRL_EVT_VECTOR.of (s.evt n v)) (data % 2 ^ 32))]] := by
  have h := (traisSend_sends hc (m := .evt (F.TRL_EVT_VECTOR.of (s.evt n v)) (data % 2 ^ 32)) hup hq (.inr hcr) rfl).2
  rw [ht, after_sendEvt rfl, ← h]
  split <;> rfl

end

/-- What an event of source v does on port n of state s, whose entry is enabled. -/
def EventAt (n v data : Nat) (s t : State) : Prop :=
  F.TRL_EVT_EN.of (s.evt n v) = 1 →
    let vec := F.TRL_EVT_VECTOR.of (s.evt n v)
    let held := F.TRL_EVT_MASK.of (s.evt n v) = 1 ∨ (s.port n).inHoldoff vec = true ∨ s.fld F.TRL_LNK_STS_STATE n ≠ 2
    (held → t.fld (F.TRL_EVT_PEND.nth v) n = 1 ∧ SMap.get (fun _ => 0) (t.port n).evData v = data) ∧
      (¬held → ((s.port n).txq = [] ∧ 1 ≤ SMap.get noCr (s.port n).credits 0 →
          .traisFlits n [traisData (s.port n).txSeq (s.port n).rxSeq (.evt vec data)] ∈ t.out) ∧
        (s.fld F.TRL_CFG_HOLDOFF n ≠ 0 → (t.port n).inHoldoff vec = true))

/-- Two states show the same of port n, and the second has sent what the first has. -/
structure SameAt (n : Nat) (s t : State) : Prop where
  port : t.port n = s.port n
  reg : ∀ o < 65536, t.reg .trl n o = s.reg .trl n o
  out : ∀ o ∈ s.out, o ∈ t.out

theorem SameAt.trans {n : Nat} {a b c : State} (h1 : SameAt n a b) (h2 : SameAt n b c) : SameAt n a c :=
  ⟨h2.port.trans h1.port, fun o ho => (h2.reg o ho).trans (h1.reg o ho), fun o ho => h2.out o (h1.out o ho)⟩

theorem SameAt.evt {n v : Nat} {s t : State} (h : SameAt n s t) (hv : v < 128) : t.evt n v = s.evt n v := h.reg _ (by omega)

theorem SameAt.fld {n : Nat} {s t : State} (h : SameAt n s t) {f : Fld} (hf : f.blk = .trl) (ho : f.off < 65536) : t.fld f n = s.fld f n := by
  rw [State.fld, hf, h.reg _ ho, State.fld, hf]

theorem EventAt.before {n v data : Nat} {s0 s t : State} (h : EventAt n v data s t) (h0 : SameAt n s0 s) (hv : v < 128) : EventAt n v data s0 t := by
  have h1 := h0.fld (f := F.TRL_LNK_STS_STATE) rfl (by decide)
  have h2 := h0.fld (f := F.TRL_CFG_HOLDOFF) rfl (by decide)
  simpa only [EventAt, h0.evt hv, h0.port, h1, h2] using h

theorem EventAt.after {n v data : Nat} {s t t1 : State} (h : EventAt n v data s t) (h1 : SameAt n t t1) (hv : v < 128) : EventAt n v data s t1 := by
  have hp := h1.fld (f := F.TRL_EVT_PEND.nth v) rfl (by simp [Fld.nth]; omega)
  intro hen
  obtain ⟨hheld, hfree⟩ := h hen
  refine ⟨fun hh => ?_, fun hh => ?_⟩
  · rw [hp, h1.port]
    exact hheld hh
  · rw [h1.port]
    exact ⟨fun hr => h1.out _ ((hfree hh).1 hr), (hfree hh).2⟩

section
variable {s : State} (hc : s.canon = true)
include hc

theorem portEvent_eventAt {n v data : Nat} (hd : data < 2 ^ 32) : EventAt n v data s (after (portEvent n v data) s) := by
  intro hen
  refine ⟨fun hh => ?_, fun hh => ?_⟩
  · obtain ⟨u, hu⟩ : ∃ u, u = after (setF (F.TRL_EVT_PEND.nth v) n 1) s := ⟨_, rfl⟩
    have hcu : u.canon = true := hu ▸ after_canon _ s hc
    rw [after_congr (a := portEvent n v data) (b := seqA [setF (F.TRL_EVT_PEND.nth v) n 1, modPort n (·.pend v data)])
      ((if_pos hen).trans (if_pos hh)), after_seqA_cons, after_seqA_cons, after_seqA_end, ← hu]
    constructor
    · have h := fld_setF_same s hc (F.TRL_EVT_PEND.nth v) n 1 (by simp [Fld.nth]) (by simp [Fld.nth])
      rw [← hu] at h
      exact h
    · rw [port_modPort hcu, if_pos rfl, TPort.pend]
      exact SMap.get_set_self _ _ _ _
  · rw [after_congr (a := portEvent n v data) (b := sendEvt n v data) ((if_pos hen).trans (if_neg hh))]
    have hup : s.fld F.TRL_LNK_STS_STATE n = 2 := by
      by_contra h
      exact hh (.inr (.inr h))
    refine ⟨fun hr => ?_, fun hz => sendEvt_holds hc hz rfl⟩
    rw [sendEvt_sends hc hup hr.1 hr.2 rfl, Nat.mod_eq_of_lt hd]
    exact List.mem_append_right _ (List.mem_singleton_self _)

/-- What an event on a port may change. -/
theorem portEvent_frame (n v data : Nat) : PortsBut [n] s (after (portEvent n v data) s) ∧
    RegsBut [regKey .trl n (0x400 + 8 * v)] s (after (portEvent n v data) s) ∧
    after (portEvent n v data) s = { s with
      regs := (after (portEvent n v data) s).regs, ports := (after (portEvent n v data) s).ports, out := (after (portEvent n v data) s).out } :=
  ⟨after_portsBut hc (allowed_portEvent_to sendTo_portsBut v data (fun _ _ => trivial) s),
    after_regsBut hc (allowed_portEvent_to (allowsSends_regIn n) v data (fun _ _ => List.mem_singleton_self _) s),
    after_overlay [.regs, .ports, .out] (allowed_portEvent_to (allowsSends_onlyFields (by simp) n) v data (fun _ _ => by simp) s)⟩

theorem portEvent_sameAt {n k v data : Nat} (hv : v < 128) (hn : n < 4) (hk : k < 4) (hne : k ≠ n) : SameAt k s (after (portEvent n v data) s) := by
  obtain ⟨hp, hr, -⟩ := portEvent_frame hc n v data
  refine ⟨hp k (by simpa using hne), fun o ho => hr _ fun hm => hne ?_, fun o => mem_out_after _⟩
  exact (regKey_inj (by omega) (by omega) ho (by omega) (List.mem_singleton.1 hm)).2.1

omit hc in
theorem eventAt_forA {n v data : Nat} (hd : data < 2 ^ 32) (hv : v < 128) (hn : n < 4) : ∀ (l : List Nat) {s : State}, s.canon = true → l.Nodup →
    (∀ k ∈ l, k < 4) → (n ∈ l → EventAt n v data s (after (forA l fun k => portEvent k v data) s)) ∧
      (n ∉ l → SameAt n s (after (forA l fun k => portEvent k v data) s))
  | [], s, hc, _, _ => ⟨fun h => absurd h List.not_mem_nil, fun _ => ⟨rfl, fun _ _ => rfl, fun _ h => h⟩⟩
  | k :: l, s, hc, hnd, hl => by
    obtain ⟨u, hu⟩ : ∃ u, u = after (portEvent k v data) s := ⟨_, rfl⟩
    have hcu : u.canon = true := hu ▸ after_canon _ s hc
    obtain ⟨hkl, hnd'⟩ := List.nodup_cons.1 hnd
    obtain ⟨hin, hout⟩ := eventAt_forA hd hv hn l hcu hnd' fun k hk => hl k (List.mem_cons_of_mem _ hk)
    have hoff : n ≠ k → SameAt n s u := fun h => hu ▸ portEvent_sameAt hc hv (hl k List.mem_cons_self) hn h
    rw [after_forA_cons, ← hu]
    constructor
    · intro hm
      by_cases h : n = k
      · subst h
        have he : EventAt n v data s u := hu ▸ portEvent_eventAt hc hd
        exact he.after (hout hkl) hv
      · exact (hin ((List.mem_cons.1 hm).resolve_left h)).before (hoff h) hv
    · intro hm
      rw [List.mem_cons, not_or] at hm
      exact (hoff hm.1).trans (hout hm.2)

omit hc in
theorem mem_partPorts {n q : Nat} : n ∈ s.partPorts q ↔ n < 4 ∧ s.portPart n = q := by
  simp [State.partPorts, allPorts]

omit hc in
theorem after_forA_append {α : Type} (f : α → Act) (m : List α) : ∀ (l : List α) (s : State),
    after (forA (l ++ m) f) s = after (forA m f) (after (forA l f) s)
  | [], _ => rfl
  | x :: l, s => by rw [List.cons_append, after_forA_cons, after_forA_cons, after_forA_append f m l]

omit hc in
theorem nodup_evtParts (s : State) (v data : Nat) : (s.evtParts v data).Nodup := by
  unfold State.evtParts
  split_ifs <;> first | exact List.nodup_singleton _ | exact List.nodup_nil | exact List.Nodup.filter _ List.nodup_range

omit hc in
/-- An event of the partitions of a list is one on each of their ports in turn. -/
theorem after_raiseEvents (v data : Nat) : ∀ (l : List Nat) {s : State}, s.canon = true →
    after (forA l fun p => raiseEvent p v data) s = after (forA (l.flatMap s.partPorts) fun n => portEvent n v data) s
  | [], _, _ => rfl
  | p :: l, s, hc => by
    obtain ⟨u, hu⟩ : ∃ u, u = after (raiseEvent p v data) s := ⟨_, rfl⟩
    have hcu : u.canon = true := hu ▸ after_canon _ s hc
    have hpp : u.partPorts = s.partPorts := by
      have hf : u = { s with regs := u.regs, ports := u.ports, out := u.out } :=
        hu ▸ after_overlay [.regs, .ports, .out] (allowed_raiseEvent_of (allowsSends_onlyFields (by simp)) p v data (by simp) s)
      rw [hf]
      rfl
    rw [after_forA_cons, ← hu, after_raiseEvents v data l hcu, hpp, List.flatMap_cons, after_forA_append, hu, raiseEvent, after_withA]

theorem eventRaise_shows (v : Fin 128) (data : Word32) : ∃ t, exec (.eventRaise v data) s = .next t ∧
    (RegsButEvt [] s t ∧ t = { s with regs := t.regs, ports := t.ports, out := t.out }) ∧
    (∀ q n, q ∈ s.evtParts v.val data.toNat → n ∈ s.partPorts q → EventAt n v.val data.toNat s t) ∧
    (∀ n, (∀ q ∈ s.evtParts v.val data.toNat, n ∉ s.partPorts q) → t.port n = s.port n) := by
  obtain ⟨l, hl⟩ : ∃ l, l = (s.evtParts v.val data.toNat).flatMap s.partPorts := ⟨_, rfl⟩
  obtain ⟨t, ht⟩ : ∃ t, t = after (forA l fun n => portEvent n v.val data.toNat) s := ⟨_, rfl⟩
  have hx : exec (.eventRaise v data) s = .next t := by
    refine congrArg Host.Outcome.next ?_
    rw [after_withA, after_raiseEvents _ _ _ hc, ht, hl]
  have hmem : ∀ n, n ∈ l ↔ ∃ q ∈ s.evtParts v.val data.toNat, n ∈ s.partPorts q := fun n => by rw [hl, List.mem_flatMap]
  have h4 : ∀ n ∈ l, n < 4 := fun n hn => by
    obtain ⟨q, -, hq⟩ := (hmem n).1 hn
    exact (mem_partPorts.1 hq).1
  have hnd : l.Nodup := by
    rw [hl, List.nodup_flatMap]
    refine ⟨fun q _ => List.Nodup.filter _ List.nodup_range, (nodup_evtParts s _ _).imp fun hne => ?_⟩
    intro n h1 h2
    exact hne ((mem_partPorts.1 h1).2.symm.trans (mem_partPorts.1 h2).2)
  have hsnd : ∀ {P : State → Eff → Prop}, AllowsSends P → (∀ s n x, n < 4 → P s (.reg .trl n (F.TRL_EVT_PEND.nth v.val).off x)) →
      Allowed P (forA l (fun n => portEvent n v.val data.toNat) s) s := fun hP he =>
    allowed_forA _ _ s fun n hn s => allowed_portEvent_to (hP n) _ _ (fun s x => he s n x (h4 n hn)) s
  refine ⟨t, hx, ⟨fun k _ hk => ?_, ?_⟩, fun q n hq hn => ?_, fun n hn => ?_⟩
  · exact ht ▸ after_regIn hc (p := evtKey) (hsnd allowsSends_regIn (fun s n x hn => ⟨n, v, hn, v.isLt, rfl⟩)) hk
  · exact ht ▸ after_overlay [.regs, .ports, .out] (hsnd (allowsSends_onlyFields (by simp)) (by simp))
  · exact ht ▸ (eventAt_forA data.isLt v.isLt (mem_partPorts.1 hn).1 l hc hnd h4).1 ((hmem n).2 ⟨q, hq, hn⟩)
  · have hp : PortsBut l s t := ht ▸ after_portsBut hc (allowed_forA _ _ s fun k hk s => allowed_portEvent_to (fun s e he => by
      cases e with
      | port j x => exact .inl (he.1 ▸ hk)
      | out => trivial
      | _ => exact he.elim) _ _ (fun _ _ => trivial) s)
    refine hp n fun hm => ?_
    obtain ⟨q, hq, hn'⟩ := (hmem n).1 hm
    exact hn q hq hn'

omit hc in
/-- The sending of a pending event, over the entry of the event table that it clears. -/
theorem allowed_pendOut_to {P : State → Eff → Prop} {n : Nat} (hP : ∀ s e, SendTo n s e → P s e) (v : Nat)
    (he : ∀ s x, P s (.reg .trl n (F.TRL_EVT_PEND.nth v).off x)) (s : State) : Allowed P (pendOut n v s) s := by
  rw [pendOut, allowed_ite]
  refine ⟨fun _ => ?_, fun _ => .nil _⟩
  rw [allowed_seqA_cons, allowed_seqA_cons, allowed_setF]
  exact ⟨he _ _, allowed_sendEvt_to hP _ _ _, .nil _⟩

/-- What the sending of a pending event may change. -/
theorem pendOut_frame (n v : Nat) : PortsBut [n] s (after (pendOut n v) s) ∧
    RegsBut [regKey .trl n (0x400 + 8 * v)] s (after (pendOut n v) s) ∧
    after (pendOut n v) s = { s with
      regs := (after (pendOut n v) s).regs, ports := (after (pendOut n v) s).ports, out := (after (pendOut n v) s).out } :=
  ⟨after_portsBut hc (allowed_pendOut_to sendTo_portsBut v (fun _ _ => trivial) s),
    after_regsBut hc (allowed_pendOut_to (allowsSends_regIn n) v (fun _ _ => List.mem_singleton_self _) s),
    after_overlay [.regs, .ports, .out] (allowed_pendOut_to (allowsSends_onlyFields (by simp) n) v (fun _ _ => by simp) s)⟩

omit hc in
/-- The sending of an event changes no register. -/
theorem sendEvt_regs (n v data : Nat) : (after (sendEvt n v data) s).regs = s.regs := by
  rw [sendsOn_frame (n := n) (fun hP s => allowed_sendEvt_to hP v data s)]

/-- The sending of a pending event clears PEND and no other field of the entry. -/
theorem pendOut_fld (n v : Nat) (g : Fld) (hg : g.hi < 61 ∨ 61 < g.lo) : (after (pendOut n v) s).fld (g.nth v) n = s.fld (g.nth v) n := by
  by_cases h : F.TRL_EVT_EN.of (s.evt n v) = 1 ∧ F.TRL_EVT_PEND.of (s.evt n v) = 1 ∧ F.TRL_EVT_MASK.of (s.evt n v) = 0 ∧
    s.fld F.TRL_LNK_STS_STATE n = 2 ∧ (s.port n).inHoldoff (F.TRL_EVT_VECTOR.of (s.evt n v)) = false
  · rw [after_congr (a := pendOut n v) (if_pos h), after_seqA_cons, after_seqA_cons, after_seqA_end, State.fld, State.reg, sendEvt_regs]
    exact fld_setF_bits s hc (F.TRL_EVT_PEND.nth v) (g.nth v) n n 0 (by simp [Fld.nth]) (by simp [Fld.nth]) (by simpa [Fld.nth] using hg)
  · rw [after_congr (a := pendOut n v) (b := skip) (if_neg h), after_skipped]

theorem pendOut_sends {n v : Nat} (hv : v < 128) (hq : (s.port n).txq = []) (hcr : 1 ≤ SMap.get noCr (s.port n).credits 0)
    (hup : s.fld F.TRL_LNK_STS_STATE n = 2) (hen : F.TRL_EVT_EN.of (s.evt n v) = 1)
    (hmask : F.TRL_EVT_MASK.of (s.evt n v) = 0) (hpend : F.TRL_EVT_PEND.of (s.evt n v) = 1)
    (hold : (s.port n).inHoldoff (F.TRL_EVT_VECTOR.of (s.evt n v)) = false) {t : State} (ht : t = after (pendOut n v) s) :
    t.fld (F.TRL_EVT_PEND.nth v) n = 0 ∧ t.out = s.out ++ [.traisFlits n [traisData (s.port n).txSeq (s.port n).rxSeq
        (.evt (F.TRL_EVT_VECTOR.of (s.evt n v)) (SMap.get (fun _ => 0) (s.port n).evData v % 2 ^ 32))]] := by
  obtain ⟨u, hu⟩ : ∃ u, u = after (setF (F.TRL_EVT_PEND.nth v) n 0) s := ⟨_, rfl⟩
  have hcu : u.canon = true := hu ▸ after_canon _ s hc
  have hfu : u = { s with regs := u.regs } := hu ▸ after_overlay [.regs] (by simp)
  have hpu : u.port n = s.port n := by
    rw [hfu]
    rfl
  have hst : u.fld F.TRL_LNK_STS_STATE n = 2 := by
    have hoff : F.TRL_LNK_STS_STATE.off % 65536 ≠ (F.TRL_EVT_PEND.nth v).off % 65536 := by
      simp only [Fld.nth]
      omega
    rw [hu, fld_set_off hc _ _ _ _ _ hoff, hup]
  have hvec : F.TRL_EVT_VECTOR.of (u.evt n v) = F.TRL_EVT_VECTOR.of (s.evt n v) :=
    hu ▸ fld_setF_bits s hc (F.TRL_EVT_PEND.nth v) (F.TRL_EVT_VECTOR.nth v) n n 0 (by simp [Fld.nth]) (by simp [Fld.nth]) (by simp [Fld.nth])
  rw [after_congr (a := pendOut n v) (if_pos ⟨hen, hpend, hmask, hup, hold⟩), after_seqA_cons, after_seqA_cons, after_seqA_end, ← hu] at ht
  constructor
  · rw [ht, State.fld, State.reg, sendEvt_regs, hu]
    exact fld_setF_same s hc (F.TRL_EVT_PEND.nth v) n 0 (by simp [Fld.nth]) (by simp [Fld.nth])
  · rw [sendEvt_sends hcu hst (by rw [hpu]; exact hq) (by rw [hpu]; exact hcr) ht, hpu, hvec, hfu]

theorem eventHoldoffExpiry_shows (n : Fin 4) (v : Fin 128) (hq : (s.port n.val).txq = []) (hcr : 1 ≤ SMap.get noCr (s.port n.val).credits 0)
    (hup : s.fld F.TRL_LNK_STS_STATE n.val = 2) (hen : F.TRL_EVT_EN.of (s.evt n.val v.val) = 1)
    (hmask : F.TRL_EVT_MASK.of (s.evt n.val v.val) = 0) (hpend : F.TRL_EVT_PEND.of (s.evt n.val v.val) = 1)
    (hold : ∀ x ∈ (s.port n.val).holdoff, x.1 = F.TRL_EVT_VECTOR.of (s.evt n.val v.val) →
      1000 * s.fld F.TRL_CFG_HOLDOFF n.val ≤ (s.mile - x.2).toNat) :
    ∃ t, exec (.eventHoldoffExpiry n v) s = .next t ∧ t.fld (F.TRL_EVT_PEND.nth v.val) n.val = 0 ∧
      t.out = s.out ++ [.traisFlits n.val [traisData (s.port n.val).txSeq (s.port n.val).rxSeq
        (.evt (F.TRL_EVT_VECTOR.of (s.evt n.val v.val)) (SMap.get (fun _ => 0) (s.port n.val).evData v.val % 2 ^ 32))]] ∧ PortsBut [n.val] s t ∧
      RegsButEvt [] s t ∧ t = { s with regs := t.regs, ports := t.ports, out := t.out } := by
  obtain ⟨f, hf⟩ : ∃ f, f = fun p : TPort => { p with holdoff := p.holdoff.filter fun x => !(x.1 == F.TRL_EVT_VECTOR.of (s.evt n.val v.val) &&
      decide (1000 * s.fld F.TRL_CFG_HOLDOFF n.val ≤ (s.mile - x.2).toNat)) } := ⟨_, rfl⟩
  obtain ⟨u, hu⟩ : ∃ u, u = after (modPort n.val f) s := ⟨_, rfl⟩
  obtain ⟨t, ht⟩ : ∃ t, t = after (pendOut n.val v.val) u := ⟨_, rfl⟩
  have hcu : u.canon = true := hu ▸ after_canon _ s hc
  have hpu : u.port n.val = f (s.port n.val) := by rw [hu, port_modPort hc, if_pos rfl]
  have hfu : u = { s with ports := u.ports } := hu ▸ after_overlay [.ports] (by simp)
  have hfld : ∀ g i, u.fld g i = s.fld g i := fun g i => by
    rw [hfu]
    rfl
  have hev : u.evt n.val v.val = s.evt n.val v.val := by
    rw [hfu]
    rfl
  have hnone : (u.port n.val).inHoldoff (F.TRL_EVT_VECTOR.of (s.evt n.val v.val)) = false := by
    rw [hpu, hf, TPort.inHoldoff, List.any_eq_false]
    intro x hx
    obtain ⟨hm, hx⟩ := List.mem_filter.1 hx
    intro he
    have he' := beq_iff_eq.1 he
    rw [he', decide_eq_true (hold x hm he')] at hx
    simp at hx
  obtain ⟨h1, h2⟩ := pendOut_sends hcu v.isLt (by rw [hpu, hf]; exact hq) (by rw [hpu, hf]; exact hcr) (by rw [hfld]; exact hup) (by rw [hev]; exact hen)
    (by rw [hev]; exact hmask) (by rw [hev]; exact hpend) (by rw [hev]; exact hnone) ht
  obtain ⟨h3, h4, h5⟩ := pendOut_frame hcu n.val v.val
  rw [← ht] at h3 h4 h5
  rw [hpu, hf, hev] at h2
  refine ⟨t, congrArg Host.Outcome.next ?_, h1, h2.trans (by rw [hfu]), fun k hk => ?_, fun k _ hk => ?_, ?_⟩
  · rw [after_seqA_cons, after_seqA_cons, after_seqA_end, ht, hu, hf]
    rfl
  · rw [h3 k hk, hu, port_modPort hc, if_neg (by simpa using hk)]
  · rw [h4 k fun hm => hk ⟨n.val, v.val, n.isLt, v.isLt, List.mem_singleton.1 hm⟩, hfu]
  · rw [h5, hfu]

omit hc in
theorem rowOf_evt (v : Fin 128) : ∃ r ∈ rowOf .trl (0x400 + 8 * v.val), r.flds = [⟨63, 63, .rw, 0⟩, ⟨62, 62, .rw, 0⟩, ⟨61, 61, .w1c, 0⟩, ⟨31, 0, .rw, 0⟩] := by
  revert v
  decide

theorem eventTableWrite_shows (src : Src) (n : Fin 4) (v : Fin 128) (w : Word) (ht : s.takes src .trl n.val (0x400 + 8 * v.val) = true) :
    ∃ t, exec (.eventTableWrite src n v w) s = .next t ∧ t.fld (F.TRL_EVT_EN.nth v.val) n.val = F.TRL_EVT_EN.of w ∧
      t.fld (F.TRL_EVT_MASK.nth v.val) n.val = F.TRL_EVT_MASK.of w ∧ t.fld (F.TRL_EVT_VECTOR.nth v.val) n.val = F.TRL_EVT_VECTOR.of w ∧
      RegsBut [regKey .trl n.val (0x400 + 8 * v.val)] s t ∧ PortsBut [n.val] s t ∧ t = { s with regs := t.regs, ports := t.ports, out := t.out } := by
  obtain ⟨r, hr, hflds⟩ := rowOf_evt v
  have hap : r.apart = true := by
    rw [RegRow.apart, hflds]
    decide
  obtain ⟨u, hu⟩ : ∃ u, u = after (writeReg .trl n.val (0x400 + 8 * v.val) w) s := ⟨_, rfl⟩
  obtain ⟨t, htt⟩ : ∃ t, t = after (pendOut n.val v.val) u := ⟨_, rfl⟩
  have hcu : u.canon = true := hu ▸ after_canon _ s hc
  have hru : RegsBut [regKey .trl n.val (0x400 + 8 * v.val)] s u := hu ▸ after_regsBut hc (by simp)
  have hfu : u = { s with regs := u.regs } := hu ▸ after_overlay [.regs] (by simp)
  have hwr : u.reg .trl n.val (0x400 + 8 * v.val) = writeCodes r (s.reg .trl n.val (0x400 + 8 * v.val)) w := by
    have hact : writeReg .trl n.val (0x400 + 8 * v.val) w s = [.reg .trl n.val (0x400 + 8 * v.val) (writeCodes r (s.reg .trl n.val (0x400 + 8 * v.val)) w)] := by
      rw [writeReg, Option.mem_def.1 hr]
    rw [hu, after, hact]
    exact (reg_ap_reg s hc _ _ _ _ _ _ _).trans (if_pos rfl)
  have hrw : ∀ hi lo, (⟨hi, lo, .rw, 0⟩ : RegFld) ∈ r.flds → (hi < 61 ∨ 61 < lo) →
      t.fld ((⟨.trl, 0x400, hi, lo⟩ : Fld).nth v.val) n.val = bitsOf w hi lo := fun hi lo hm hb => by
    rw [htt, pendOut_fld hcu n.val v.val ⟨.trl, 0x400, hi, lo⟩ hb]
    change bitsOf (u.reg .trl n.val (0x400 + 8 * v.val)) hi lo = _
    rw [hwr, bitsOf_writeCodes hap hm]
    rfl
  obtain ⟨h3, h4, h5⟩ := pendOut_frame hcu n.val v.val
  rw [← htt] at h3 h4 h5
  refine ⟨t, congrArg Host.Outcome.next ?_, hrw 63 63 (by simp [hflds]) (by decide), hrw 62 62 (by simp [hflds]) (by decide),
    hrw 31 0 (by simp [hflds]) (by decide), fun k hk => (h4 k hk).trans (hru k hk), fun k hk => ?_, ?_⟩
  · rw [hostEventTableWrite, after_congr (guardW_of_takes ht _), after_seqA_cons, after_seqA_cons, after_seqA_end, htt, hu]
  · rw [h3 k hk, hfu]
    rfl
  · rw [h5, hfu]

end

end Sys2Proof.Machine

open Sys2Proof Sys2Proof.Machine

/-- Settles O48: an event is one on each port of its partitions in turn, and what one port does no other sees. -/
theorem hostEvents : Obligations.HostEvents := fun s hc => by
  refine ⟨fun v data => ?_, fun n v hr hup hen hmask hpend hold => eventHoldoffExpiry_shows hc n v hr.1 hr.2 hup hen hmask hpend hold,
    fun src n v w ht => eventTableWrite_shows hc src n v w ht⟩
  obtain ⟨t, he, hf, hat, hoff⟩ := eventRaise_shows hc v data
  exact ⟨t, he, hf, fun q n hq hn hen => hat q n hq hn hen, hoff⟩

end

section
/-!
SUPPORT. A Trais port: how it goes off, trains, and takes a flit (R415–R417, R429).
-/
namespace Sys2Proof.Machine

/-! ## A port goes off -/

/-- A port that has gone off. -/
def TPort.off (p : TPort) : TPort :=
  { TPort.zero with
    dropWb := p.dropWb, holdoff := p.holdoff, evData := p.evData, snpTag := p.snpTag, rdTag := p.rdTag, held := p.held.filter HostReq.isRemap }

/-- The events queued on a port, each with its source and data. -/
def State.queued (s : State) (n : Nat) : List (Nat × Nat) :=
  (s.port n).txq.flatMap fun m => match m with
    | .evt v x => ((List.range 128).filter fun e => F.TRL_EVT_EN.of (s.evt n e) == 1 && F.TRL_EVT_VECTOR.of (s.evt n e) == v).map fun e => (e, x)
    | _ => []

theorem mem_queued {s : State} {n : Nat} {e : Nat × Nat} (h : e ∈ s.queued n) : e.1 < 128 := by
  obtain ⟨m, -, hm⟩ := List.mem_flatMap.1 h
  cases m with
  | evt v x =>
    obtain ⟨k, hk, rfl⟩ := List.mem_map.1 hm
    exact List.mem_range.1 (List.mem_filter.1 hk).1
  | _ => exact absurd hm List.not_mem_nil

/-- What becomes of the events and snoops of a port that goes off, and of debug that is open to it. -/
def portRest (n : Nat) (evs : List (Nat × Nat)) (sn : List Snoop) : Act :=
  seqA [forA evs fun e => seqA [setF (F.TRL_EVT_PEND.nth e.1) n 1, modPort n (·.pend e.1 e.2)], forA sn (snoopLost n),
    whenA (fun s => s.debug == 1 && s.fld F.SEC_STS_DBG_PORT 0 == n) debugEnd]

/-- A port without a descriptor at hand goes off: what its registers show, what becomes of its events and snoops, and then it holds nothing. -/
theorem after_portOff_idle {s : State} (hcur : ∀ d c, (s.dma d c).cur = none) (n st cause : Nat) :
    after (portOff n st cause) s = after (modPort n TPort.off) (after (portRest n (s.queued n) (s.port n).snoops) (after (portRegs n st cause) s)) := by
  have h : portOff n st cause s = seqA [whenA (fun s => s.fld F.TRL_LNK_STS_STATE n == 2) (bump F.TRL_LNK_STS_DOWNS n 1),
      setF F.TRL_LNK_STS_STATE n st, setF F.TRL_LNK_STS_CAUSE n cause, setF F.TRL_LNK_STS_LANES n 0, setF F.TRL_LNK_STS_REV n 0,
      forA (s.queued n) (fun e => seqA [setF (F.TRL_EVT_PEND.nth e.1) n 1, modPort n (·.pend e.1 e.2)]),
      forA (s.port n).snoops (snoopLost n), whenA (fun s => s.debug == 1 && s.fld F.SEC_STS_DBG_PORT 0 == n) debugEnd, modPort n TPort.off, skip] s := by
    simp only [portOff, hcur, Option.any_none, Bool.and_false, List.filter_false]
    rfl
  rw [after_congr h, portRest, portRegs]
  simp only [after_seqA_cons, after_seqA_end, after_skipped]

theorem allowed_snoopLost {P : State → Eff → Prop} (hP : AllowsReports P) {n : Nat} (hport : ∀ s x, x.held = (s.port n).held → P s (.port n x))
    (hfil : ∀ s d x, P s (.filter d x)) (hreg : ∀ s x, P s (.reg .trl n F.TRL_SNP_TMO.off x)) (x : Snoop) (s : State) :
    Allowed P (snoopLost n x s) s := by
  simp only [snoopLost, modEntry, allowed_seqA_cons, allowed_modPort, allowed_modFilter, allowed_bump, allowed_seqA_nil, and_true]
  exact ⟨hport _ _ rfl, hfil _ _ _, hreg _ _, allowed_logOpen hP _ _ _ _ _ _ _⟩

theorem allowed_portRest {P : State → Eff → Prop} (hP : AllowsReports P) {n : Nat} (hn : n < 4) (hport : ∀ s x, x.held = (s.port n).held → P s (.port n x))
    (hfil : ∀ s d x, P s (.filter d x)) (hreg : ∀ s x, P s (.reg .trl n F.TRL_SNP_TMO.off x)) (hsec : ∀ s o x, o < 65536 → P s (.reg .sec 0 o x))
    (hsecs : ∀ s x, P s (.sec x)) {evs : List (Nat × Nat)} (hevs : ∀ e ∈ evs, e.1 < 128) (sn : List Snoop) (s : State) :
    Allowed P (portRest n evs sn s) s := by
  simp only [portRest, allowed_seqA_cons, allowed_whenA, debugEnd, allowed_setF, allowed_modSec, allowed_seqA_nil, and_true]
  refine ⟨allowed_forA _ _ _ fun e he s => ?_, allowed_forA _ _ _ fun x _ s => allowed_snoopLost hP hport hfil hreg x s,
    fun _ => ⟨hsec _ _ _ (by decide), hsec _ _ _ (by decide), hsec _ _ _ (by decide), hsec _ _ _ (by decide), hsec _ _ _ (by decide), hsecs _ _⟩⟩
  simp only [allowed_seqA_cons, allowed_setF, allowed_modPort, allowed_seqA_nil, and_true]
  exact ⟨hP _ _ ⟨n, e.1, hn, hevs e he, rfl⟩, hport _ _ rfl⟩

/-- What the registers of a port that goes off show. -/
theorem portRegs_show {s : State} (hc : s.canon = true) {n st cause : Nat} (hup : s.fld F.TRL_LNK_STS_STATE n = 2) (hst : st < 4) (hcause : cause < 16)
    {t : State} (ht : t = after (portRegs n st cause) s) : t.fld F.TRL_LNK_STS_STATE n = st ∧ t.fld F.TRL_LNK_STS_CAUSE n = cause ∧
      t.fld F.TRL_LNK_STS_LANES n = 0 ∧
      t.fld F.TRL_LNK_STS_DOWNS n = min (s.fld F.TRL_LNK_STS_DOWNS n + 1) F.TRL_LNK_STS_DOWNS.top := by
  obtain ⟨a, ha⟩ : ∃ a, a = after (bump F.TRL_LNK_STS_DOWNS n 1) s := ⟨_, rfl⟩
  obtain ⟨b, hb⟩ : ∃ b, b = after (setF F.TRL_LNK_STS_STATE n st) a := ⟨_, rfl⟩
  obtain ⟨c, hcc⟩ : ∃ c, c = after (setF F.TRL_LNK_STS_CAUSE n cause) b := ⟨_, rfl⟩
  obtain ⟨d, hd⟩ : ∃ d, d = after (setF F.TRL_LNK_STS_LANES n 0) c := ⟨_, rfl⟩
  have ca : a.canon = true := ha ▸ after_canon _ s hc
  have cb : b.canon = true := hb ▸ after_canon _ a ca
  have cc : c.canon = true := hcc ▸ after_canon _ b cb
  have cd : d.canon = true := hd ▸ after_canon _ c cc
  rw [portRegs, after_seqA_cons, after_whenA, if_pos (by simpa using hup), ← ha, after_seqA_cons, ← hb, after_seqA_cons, ← hcc, after_seqA_cons, ← hd,
    after_seqA_cons, after_seqA_end] at ht
  refine ⟨?_, ?_, ?_, ?_⟩
  · rw [ht, fld_set_bits cd _ _ _ _ _ (by decide), hd, fld_set_bits cc _ _ _ _ _ (by decide), hcc, fld_set_bits cb _ _ _ _ _ (by decide), hb,
      fld_set_same ca _ _ _ (by decide)]
    exact Nat.mod_eq_of_lt (lt_trans hst (by decide))
  · rw [ht, fld_set_bits cd _ _ _ _ _ (by decide), hd, fld_set_bits cc _ _ _ _ _ (by decide), hcc, fld_set_same cb _ _ _ (by decide)]
    exact Nat.mod_eq_of_lt hcause
  · rw [ht, fld_set_bits cd _ _ _ _ _ (by decide), hd, fld_set_same cc _ _ _ (by decide), Nat.zero_mod]
  · rw [ht, fld_set_bits cd _ _ _ _ _ (by decide), hd, fld_set_bits cc _ _ _ _ _ (by decide), hcc, fld_set_bits cb _ _ _ _ _ (by decide), hb,
      fld_set_bits ca _ _ _ _ _ (by decide), ha, fld_bump_same hc _ _ _ (by decide)]

/-- The registers that a port's events, snoops and debug may change as it goes off. -/
def portRestKey (n k : Nat) : Prop := evtKey k ∨ k = regKey .trl n F.TRL_SNP_TMO.off ∨ ∃ o < 65536, k = regKey .sec 0 o

theorem not_portRestKey {n : Nat} (hn : n < 4) : ¬ portRestKey n (regKey .trl n 0x100) := by
  rintro (h | h | ⟨o, ho, h⟩)
  · exact not_evtKey_of_off (by decide) h
  · exact regKey_ne_of_off (by decide) h
  · exact regKey_ne_of_blk (by decide) ⟨by omega, by decide, by decide, ho⟩ h

section
variable {s : State} (hc : s.canon = true)
include hc

theorem traisPortDown_shows (n : Fin 4) (replay : Bool) (hup : s.fld F.TRL_LNK_STS_STATE n.val = 2) (hq : s.quiet = true)
    (hcur : ∀ d c, (s.dma d c).cur = none) :
    ∃ t, exec (.traisPortDown n replay) s = .next t ∧ t.fld F.TRL_LNK_STS_STATE n.val = 1 ∧
      t.fld F.TRL_LNK_STS_CAUSE n.val = (if replay then 3 else 2) ∧ t.fld F.TRL_LNK_STS_LANES n.val = 0 ∧
      t.fld F.TRL_LNK_STS_DOWNS n.val = min (s.fld F.TRL_LNK_STS_DOWNS n.val + 1) F.TRL_LNK_STS_DOWNS.top ∧
      (t.port n.val).txq = [] ∧ (t.port n.val).kept = [] ∧ (t.port n.val).hlc = [] ∧ (t.port n.val).reads = [] ∧
      (t.port n.val).snoops = [] ∧
      t = { s with
        regs := t.regs, ports := t.ports, snoopF := t.snoopF, sec := t.sec, nvm := t.nvm, keeper := t.keeper, dies := t.dies, free := t.free, out := t.out } := by
  obtain ⟨cause, hca⟩ : ∃ c, c = if replay then 3 else 2 := ⟨_, rfl⟩
  obtain ⟨u, hu⟩ : ∃ u, u = after (portRegs n.val 1 cause) s := ⟨_, rfl⟩
  obtain ⟨w, hw⟩ : ∃ w, w = after (portRest n.val (s.queued n.val) (s.port n.val).snoops) u := ⟨_, rfl⟩
  obtain ⟨t, ht⟩ : ∃ t, t = after (modPort n.val TPort.off) w := ⟨_, rfl⟩
  have hcu : u.canon = true := hu ▸ after_canon _ s hc
  have hcw : w.canon = true := hw ▸ after_canon _ u hcu
  have hfu : u = { s with regs := u.regs } := hu ▸ portRegs_frame n.val 1 cause s
  obtain ⟨h1, h2, h3, h4⟩ := portRegs_show hc hup (by decide) (show cause < 16 by rw [hca]; split <;> decide) hu
  have hall : ∀ {P : State → Eff → Prop}, AllowsReports P → (∀ s x, x.held = (s.port n.val).held → P s (.port n.val x)) → (∀ s d x, P s (.filter d x)) →
      (∀ s x, P s (.reg .trl n.val F.TRL_SNP_TMO.off x)) → (∀ s o x, o < 65536 → P s (.reg .sec 0 o x)) → (∀ s x, P s (.sec x)) →
      Allowed P (portRest n.val (s.queued n.val) (s.port n.val).snoops u) u := fun hP h1 h2 h3 h4 h5 =>
    allowed_portRest hP n.isLt h1 h2 h3 h4 h5 (fun _ => mem_queued) _ u
  have hfw : w = { u with regs := w.regs, ports := w.ports, snoopF := w.snoopF, sec := w.sec, nvm := w.nvm, keeper := w.keeper, dies := w.dies, free := w.free, out := w.out } :=
    hw ▸ after_overlay [.regs, .ports, .snoopF, .sec, .nvm, .keeper, .dies, .free, .out] (hall (allowsReports_onlyFields (by simp)) (by simp) (by simp) (by simp) (by simp) (by simp))
  have hft : t = { w with ports := t.ports } := ht ▸ after_overlay [.ports] (by simp)
  have hfld : ∀ f : Fld, f.blk = .trl → f.off = 0x100 → t.fld f n.val = u.fld f n.val := fun f hb ho => by
    have htw : t.fld f n.val = w.fld f n.val := by
      rw [hft]
      rfl
    rw [htw, hw]
    refine fld_after_of_regIn hcu (p := portRestKey n.val) (hall (allowsReports_regIn fun _ h => .inl h) (fun _ _ _ => trivial) (fun _ _ _ => trivial)
      (fun _ _ => .inr (.inl rfl)) (fun _ o _ ho => .inr (.inr ⟨o, ho, rfl⟩)) (fun _ _ => trivial)) ?_
    rw [hb, ho]
    exact not_portRestKey n.isLt
  have hport : t.port n.val = (w.port n.val).off := by rw [ht, port_modPort hcw, if_pos rfl]
  have hquiet : t.quiet = true := by
    simp only [State.quiet, allPorts, Bool.and_eq_true, List.all_eq_true, List.mem_range, List.isEmpty_iff, Option.isNone_iff_eq_none] at hq ⊢
    obtain ⟨hheld, hend⟩ := hq
    refine ⟨fun k hk => ?_, fun d hd => ?_⟩
    · have hwk : (w.port k).held = [] := by
        have hrel := after_portRel (R := fun _ x y => y.held = x.held) (fun _ _ => rfl) (fun _ _ _ _ h1 h2 => h2.trans h1) hcu
          (hall (allowsReports_portRel fun _ x y h => by rw [h]) (fun _ _ h => h) (fun _ _ _ => trivial) (fun _ _ => trivial) (fun _ _ _ _ => trivial)
            (fun _ _ => trivial)) k
        rw [hw, hrel, hfu]
        exact hheld k hk
      rw [ht, port_modPort hcw]
      split
      · next h => rw [TPort.off, ← h, hwk, List.filter_nil]
      · exact hwk
    · have hrel := after_dieRel (R := fun _ x y => y.dma0 = x.dma0 ∧ y.dma1 = x.dma1) (fun _ _ => ⟨rfl, rfl⟩)
        (fun _ _ _ _ h1 h2 => ⟨h2.1.trans h1.1, h2.2.trans h1.2⟩) hcu
        (hall (allowsReports_dieRel fun _ x y h => by rw [h]; exact ⟨rfl, rfl⟩) (fun _ _ _ => trivial) (fun _ _ _ => trivial) (fun _ _ => trivial) (fun _ _ _ _ => trivial)
          (fun _ _ => trivial)) d
      have hdie : (t.die d).dma0 = (s.die d).dma0 ∧ (t.die d).dma1 = (s.die d).dma1 := by
        have htd : t.die d = w.die d := by
          rw [hft]
          rfl
        have hud : u.die d = s.die d := by
          rw [hfu]
          rfl
        rw [htd, hw, hrel.1, hrel.2, hud]
        exact ⟨rfl, rfl⟩
      simpa only [State.dma, hdie.1, hdie.2] using hend d hd
  refine ⟨t, congrArg Host.Outcome.next ?_, (hfld _ rfl rfl).trans h1, (hfld _ rfl rfl).trans (h2.trans hca), (hfld _ rfl rfl).trans h3, (hfld _ rfl rfl).trans h4,
    ?_⟩
  · rw [portDown, after_whenA, if_pos (by simpa using hup), after_seqA_cons, after_seqA_cons, after_seqA_end, ← hca, after_portOff_idle hcur, ← hu, ← hw, ← ht,
      after_pumpAll_of_quiet t hquiet]
  · rw [hport]
    refine ⟨rfl, rfl, rfl, rfl, rfl, ?_⟩
    rw [hft, hfw, hfu]

/-! ## A port trains -/

theorem traisTrain_noSignal (n : Fin 4) (i : TrainInfo) (hr : s.power.rails = true) (hdn : s.fld F.TRL_LNK_STS_STATE n.val ≠ 2) (hs : i.signal = false) :
    ∃ t, exec (.traisTrain n i) s = .next t ∧ t.fld F.TRL_LNK_STS_STATE n.val = 0 ∧
      t.fld F.TRL_LNK_STS_CAUSE n.val = 1 ∧ RegsBut [regKey .trl n.val F.TRL_LNK_STS_STATE.off] s t ∧ t = { s with regs := t.regs } := by
  obtain ⟨u, hu⟩ : ∃ u, u = after (setF F.TRL_LNK_STS_STATE n.val 0) s := ⟨_, rfl⟩
  obtain ⟨t, ht⟩ : ∃ t, t = after (setF F.TRL_LNK_STS_CAUSE n.val 1) u := ⟨_, rfl⟩
  have hcu : u.canon = true := hu ▸ after_canon _ s hc
  have hact : t = after (seqA [setF F.TRL_LNK_STS_STATE n.val 0, setF F.TRL_LNK_STS_CAUSE n.val 1]) s := by
    rw [after_seqA_cons, after_seqA_cons, after_seqA_end, ← hu, ht]
  refine ⟨t, congrArg Host.Outcome.next ?_, ?_, ?_, hact ▸ after_regsBut hc (by simp), hact ▸ after_overlay [.regs] (by simp)⟩
  · rw [hact]
    exact after_congr ((if_neg (by simp [hr, hdn])).trans (if_pos hs))
  · rw [ht, fld_set_bits hcu _ _ _ _ _ (by decide), hu, fld_set_same hc _ _ _ (by decide), Nat.zero_mod]
  · rw [ht, fld_set_same hcu _ _ _ (by decide)]
    rfl

/-- What the registers of a port that comes UP show. -/
def portUp (n lanes : Nat) : Act :=
  seqA [setF F.TRL_LNK_STS_STATE n 2, setF F.TRL_LNK_STS_CAUSE n 0, setF F.TRL_LNK_STS_REV n 1, setF F.TRL_LNK_STS_LANES n lanes]

theorem portUp_shows {n lanes : Nat} (hl : lanes < 16) {t : State} (ht : t = after (portUp n lanes) s) : t.fld F.TRL_LNK_STS_STATE n = 2 ∧
    t.fld F.TRL_LNK_STS_CAUSE n = 0 ∧ t.fld F.TRL_LNK_STS_REV n = 1 ∧ t.fld F.TRL_LNK_STS_LANES n = lanes := by
  obtain ⟨a, ha⟩ : ∃ a, a = after (setF F.TRL_LNK_STS_STATE n 2) s := ⟨_, rfl⟩
  obtain ⟨b, hb⟩ : ∃ b, b = after (setF F.TRL_LNK_STS_CAUSE n 0) a := ⟨_, rfl⟩
  obtain ⟨c, hcc⟩ : ∃ c, c = after (setF F.TRL_LNK_STS_REV n 1) b := ⟨_, rfl⟩
  have ca : a.canon = true := ha ▸ after_canon _ s hc
  have cb : b.canon = true := hb ▸ after_canon _ a ca
  have cc : c.canon = true := hcc ▸ after_canon _ b cb
  rw [portUp, after_seqA_cons, ← ha, after_seqA_cons, ← hb, after_seqA_cons, ← hcc, after_seqA_cons, after_seqA_end] at ht
  refine ⟨?_, ?_, ?_, ?_⟩
  · rw [ht, fld_set_bits cc _ _ _ _ _ (by decide), hcc, fld_set_bits cb _ _ _ _ _ (by decide), hb, fld_set_bits ca _ _ _ _ _ (by decide), ha,
      fld_set_same hc _ _ _ (by decide)]
    rfl
  · rw [ht, fld_set_bits cc _ _ _ _ _ (by decide), hcc, fld_set_bits cb _ _ _ _ _ (by decide), hb, fld_set_same ca _ _ _ (by decide), Nat.zero_mod]
  · rw [ht, fld_set_bits cc _ _ _ _ _ (by decide), hcc, fld_set_same cb _ _ _ (by decide)]
    rfl
  · rw [ht, fld_set_same cc _ _ _ (by decide)]
    exact Nat.mod_eq_of_lt hl

/-- A port once it has sent CREDIT_INIT. -/
def TPort.init (p : TPort) : TPort :=
  { p with
    txSeq := (p.txSeq + 1) % 4096
    kept := (p.kept ++ [traisCredit p.txSeq p.rxSeq]).drop (p.kept.length - 1023) }

theorem traisTrain_comesUp (n : Fin 4) (i : TrainInfo) (hr : s.power.rails = true) (hdn : s.fld F.TRL_LNK_STS_STATE n.val ≠ 2) (hs : i.signal = true)
    (hlk : i.lock = true) (hl : i.lanes ≠ 0) (hmax : i.revMax ≠ 0) (hmin : i.revMin.toNat ≤ 1) :
    ∃ t, exec (.traisTrain n i) s = .next t ∧ t.fld F.TRL_LNK_STS_STATE n.val = 2 ∧ t.fld F.TRL_LNK_STS_CAUSE n.val = 0 ∧
      t.fld F.TRL_LNK_STS_REV n.val = 1 ∧ t.fld F.TRL_LNK_STS_LANES n.val = i.lanes.toNat ∧
      .traisFlits n.val [traisCredit (s.port n.val).txSeq (s.port n.val).rxSeq] ∈ t.out ∧
      PortsBut [n.val] s t ∧ RegsButEvt [regKey .trl n.val F.TRL_LNK_STS_STATE.off] s t ∧ t = { s with regs := t.regs, ports := t.ports, out := t.out } := by
  obtain ⟨u, hu⟩ : ∃ u, u = after (portUp n.val i.lanes.toNat) s := ⟨_, rfl⟩
  obtain ⟨v, hv⟩ : ∃ v, v = after (seqA [modPort n.val TPort.init, emit (.traisFlits n.val [traisCredit (s.port n.val).txSeq (s.port n.val).rxSeq])]) u := ⟨_, rfl⟩
  obtain ⟨t, ht⟩ : ∃ t, t = after (forA (List.range 128) fun v => pendOut n.val v) v := ⟨_, rfl⟩
  have hcu : u.canon = true := hu ▸ after_canon _ s hc
  have hcv : v.canon = true := hv ▸ after_canon _ u hcu
  obtain ⟨h1, h2, h3, h4⟩ := portUp_shows hc i.lanes.isLt hu
  have hact : after (seqA [portUp n.val i.lanes.toNat, modPort n.val TPort.init,
      emit (.traisFlits n.val [traisCredit (s.port n.val).txSeq (s.port n.val).rxSeq]), forA (List.range 128) fun v => pendOut n.val v]) s = t := by
    rw [ht, hv, hu]
    simp only [after_seqA_cons, after_seqA_end]
  have hall : ∀ {P : State → Eff → Prop}, (∀ s e, SendTo n.val s e → P s e) → (∀ s v x, v < 128 → P s (.reg .trl n.val (F.TRL_EVT_PEND.nth v).off x)) →
      ∀ s, Allowed P (forA (List.range 128) (fun v => pendOut n.val v) s) s := fun hP he s =>
    allowed_forA _ _ s fun v hv s => allowed_pendOut_to hP v (fun s x => he s v x (List.mem_range.1 hv)) s
  have hvu : v.regs = u.regs := by
    have h : v = { u with ports := v.ports, out := v.out } := hv ▸ after_overlay [.ports, .out] (by simp)
    rw [h]
  have hfld : ∀ f : Fld, f.blk = .trl → f.off = 0x100 → t.fld f n.val = u.fld f n.val := fun f hb ho => by
    have hvf : v.fld f n.val = u.fld f n.val := by rw [State.fld, State.reg, hvu, State.fld, State.reg]
    rw [← hvf, ht]
    refine fld_after_of_regIn hcv (p := evtKey) (hall (allowsSends_regIn (p := evtKey) n.val) (fun _ v _ hv => (⟨n.val, v, n.isLt, hv, rfl⟩ : evtKey _)) v) ?_
    rw [hb, ho]
    exact not_evtKey_of_off (by decide)
  refine ⟨t, congrArg Host.Outcome.next ?_, (hfld _ rfl rfl).trans h1, (hfld _ rfl rfl).trans h2, (hfld _ rfl rfl).trans h3, (hfld _ rfl rfl).trans h4, ?_, ?_,
    fun k hk he => ?_, ?_⟩
  · rw [← hact]
    have hdn' : ¬ (s.power.rails = false ∨ s.fld F.TRL_LNK_STS_STATE n.val = 2) := by simp [hr, hdn]
    have hns : ¬ i.signal = false := by simp [hs]
    have hnl : ¬ (i.lock = false ∨ i.lanes = 0) := not_or.2 ⟨by simp [hlk], hl⟩
    have hnr : ¬ (i.revMax = 0 ∨ 1 < i.revMin.toNat) := by
      rintro (h | h)
      · exact hmax h
      · omega
    refine (after_congr (b := seqA [setF F.TRL_LNK_STS_STATE n.val 2, setF F.TRL_LNK_STS_CAUSE n.val 0, setF F.TRL_LNK_STS_REV n.val 1,
      setF F.TRL_LNK_STS_LANES n.val i.lanes.toNat, modPort n.val TPort.init,
      emit (.traisFlits n.val [traisCredit (s.port n.val).txSeq (s.port n.val).rxSeq]), forA (List.range 128) fun v => pendOut n.val v])
      ((if_neg hdn').trans ((if_neg hns).trans ((if_neg hnl).trans (if_neg hnr))))).trans ?_
    rw [portUp]
    simp only [after_seqA_cons, after_seqA_end]
  · rw [ht]
    refine mem_out_after _ ?_
    rw [hv, after_seqA_cons, after_seqA_cons, after_seqA_end]
    exact List.mem_append_right _ (List.mem_singleton_self _)
  · refine hact ▸ after_portsBut hc ?_
    simp only [portUp, allowed_seqA_cons, allowed_setF, allowed_modPort, allowed_emit, allowed_seqA_nil, and_true]
    exact ⟨⟨trivial, trivial, trivial, trivial⟩, .inl (List.mem_singleton_self _), trivial, hall sendTo_portsBut (fun _ _ _ _ => trivial) _⟩
  · have hru : RegsBut [regKey .trl n.val 0x100] s u := hu ▸ after_regsBut hc (by simp [portUp])
    rw [ht, after_regIn hcv (p := evtKey) (hall (allowsSends_regIn (p := evtKey) n.val) (fun _ v _ hv => (⟨n.val, v, n.isLt, hv, rfl⟩ : evtKey _)) v) he, hvu, hru k hk]
  · refine hact ▸ after_overlay [.regs, .ports, .out] ?_
    simp only [portUp, allowed_seqA_cons, allowed_setF, allowed_modPort, allowed_emit, allowed_seqA_nil, and_true]
    exact ⟨by simp, by simp, by simp, hall (allowsSends_onlyFields (by simp) n.val) (fun _ _ _ _ => by simp) _⟩

/-! ## A flit -/

omit hc in
/-- What a flit says of the other direction, before the sixteenth replay of one flit. -/
theorem allowed_flitBack {P : State → Eff → Prop} {n : Nat} (hP : ∀ s e, SendTo n s e → P s e)
    (hport : ∀ s (x : TPort), x = { s.port n with kept := x.kept, txNaks := x.txNaks, credits := x.credits } → P s (.port n x))
    (hreg : ∀ s x, P s (.reg .trl n F.TRL_REPLAY_COUNT.off x)) (f : TraisFlit) {s : State} (hnak : (s.port n).txNaks < 15) :
    Allowed P (flitBack n f s) s := by
  have h16 : ∀ {a b : Prop} [Decidable a] [Decidable b], ¬ 16 ≤ (if a then (if b then (s.port n).txNaks + 1 else 1) else if b then (s.port n).txNaks else 0) := by
    intro a b _ _
    split_ifs <;> omega
  have ho : ∀ s o, P s (.out o) := fun s o => hP s _ trivial
  simp only [flitBack, if_neg h16, allowed_seqA_cons, allowed_modPort, allowed_whenA, allowed_bump, allowed_emit, allowed_seqA_nil, and_true]
  exact ⟨hport _ _ rfl, fun _ => ⟨hreg _ _, ho _ _⟩, allowed_pumpPort_to hP _⟩

theorem traisFlit_taken (n : Fin 4) (f : TraisFlit) (hup : s.fld F.TRL_LNK_STS_STATE n.val = 2) (hty : f.ftype = 1) (hun : f.uncorr = false)
    (hcrc : f.crc = traisSum f) (hseq : f.seq.toNat = ((s.port n.val).rxSeq + 1) % 4096) (hnak : (s.port n.val).txNaks < 15) :
    ∃ t, exec (.traisFlitReceive n f) s = .next t ∧
      (t.port n.val).rxSeq = f.seq.toNat ∧ (t.port n.val).nakked = false ∧ (t.port n.val).naks = 0 ∧
      .traisFlits n.val [traisIdle f.seq.toNat false] ∈ t.out ∧ PortsBut [n.val] s t ∧
      RegsBut [regKey .trl n.val F.TRL_ERR_CRC.off, regKey .trl n.val F.TRL_REPLAY_COUNT.off] s t ∧
      t = { s with regs := t.regs, ports := t.ports, out := t.out } := by
  obtain ⟨u, hu⟩ : ∃ u, u = after (bump F.TRL_ERR_CORR n.val f.corr) s := ⟨_, rfl⟩
  obtain ⟨v, hv⟩ : ∃ v, v = after (modPort n.val fun p => { p with rxSeq := f.seq.toNat, nakked := false, naks := 0 }) u := ⟨_, rfl⟩
  obtain ⟨w, hw⟩ : ∃ w, w = after (flitBack n.val f) v := ⟨_, rfl⟩
  obtain ⟨t, ht⟩ : ∃ t, t = after (seqA [whenA (fun _ => f.ftype == 1) (bump F.TRL_ERR_PROTO n.val (badMsgs f.nmsg.toNat f.data)),
    emit (.traisFlits n.val [traisIdle f.seq.toNat false])]) w := ⟨_, rfl⟩
  have hcu : u.canon = true := hu ▸ after_canon _ s hc
  have hcv : v.canon = true := hv ▸ after_canon _ u hcu
  have hpv : v.port n.val = { u.port n.val with rxSeq := f.seq.toNat, nakked := false, naks := 0 } := by rw [hv, port_modPort hcu, if_pos rfl]
  have hpu : u.port n.val = s.port n.val := by
    have h : u = { s with regs := u.regs } := hu ▸ after_overlay [.regs] (by simp)
    rw [h]
    rfl
  have hnv : (v.port n.val).txNaks < 15 := by
    rw [hpv, hpu]
    exact hnak
  have hact : after (seqA [bump F.TRL_ERR_CORR n.val f.corr, modPort n.val (fun p => { p with rxSeq := f.seq.toNat, nakked := false, naks := 0 }),
      flitBack n.val f, whenA (fun _ => f.ftype == 1) (bump F.TRL_ERR_PROTO n.val (badMsgs f.nmsg.toNat f.data)),
      emit (.traisFlits n.val [traisIdle f.seq.toNat false])]) s = t := by
    rw [ht, hw, hv, hu]
    simp only [after_seqA_cons, after_seqA_end]
  have hsame : (t.port n.val).rxSeq = (v.port n.val).rxSeq ∧ (t.port n.val).nakked = (v.port n.val).nakked ∧ (t.port n.val).naks = (v.port n.val).naks := by
    have htw : t.port n.val = w.port n.val := by
      have h : t = { w with regs := t.regs, out := t.out } := ht ▸ after_overlay [.regs, .out] (by simp)
      rw [h]
      rfl
    rw [htw, hw]
    exact after_portRel (R := fun _ x y => y.rxSeq = x.rxSeq ∧ y.nakked = x.nakked ∧ y.naks = x.naks) (fun _ _ => ⟨rfl, rfl, rfl⟩)
      (fun _ _ _ _ h1 h2 => ⟨h2.1.trans h1.1, h2.2.1.trans h1.2.1, h2.2.2.trans h1.2.2⟩) hcv
      (allowed_flitBack (fun s e he => by
        cases e with
        | port k x =>
          obtain ⟨rfl, hx⟩ := he
          change x.rxSeq = _ ∧ x.nakked = _ ∧ x.naks = _
          rw [hx]
          exact ⟨rfl, rfl, rfl⟩
        | out => trivial
        | _ => exact he.elim) (fun s x hx => by
          change x.rxSeq = _ ∧ x.nakked = _ ∧ x.naks = _
          rw [hx]
          exact ⟨rfl, rfl, rfl⟩) (fun _ _ => trivial) f hnv) n.val
  refine ⟨t, congrArg Host.Outcome.next ?_, ?_, ?_, ?_, ?_, hact ▸ after_portsBut hc ?_, hact ▸ after_regsBut hc ?_, hact ▸ after_overlay [.regs, .ports, .out] ?_⟩
  · rw [← hact]
    have hup' : ¬ s.fld F.TRL_LNK_STS_STATE n.val ≠ 2 := by simpa using hup
    have hbad : ¬ (f.uncorr = true ∨ f.crc ≠ traisSum f) := by simp [hun, hcrc]
    have hnum : ¬ ¬ (f.ftype = 1 ∨ (f.ftype = 2 ∧ f.lsub = 2)) := by simp [hty]
    refine (after_congr (if_neg hup')).trans ?_
    simp only [after_seqA_cons, after_seqA_end, if_neg hbad, if_neg hnum, if_pos hseq]
  · exact hsame.1.trans (by rw [hpv])
  · exact hsame.2.1.trans (by rw [hpv])
  · exact hsame.2.2.trans (by rw [hpv])
  · rw [ht, after_seqA_cons, after_seqA_cons, after_seqA_end]
    exact List.mem_append_right _ (List.mem_singleton_self _)
  · simp only [allowed_seqA_cons, allowed_whenA, allowed_bump, allowed_modPort, allowed_emit, allowed_seqA_nil, and_true]
    exact ⟨trivial, .inl (List.mem_singleton_self _), allowed_flitBack sendTo_portsBut (fun _ _ _ => .inl (List.mem_singleton_self _)) (fun _ _ => trivial) f
      (by rw [← hu, ← hv]; exact hnv), fun _ => trivial, trivial⟩
  · simp only [allowed_seqA_cons, allowed_whenA, allowed_bump, allowed_modPort, allowed_emit, allowed_seqA_nil, and_true]
    exact ⟨List.mem_cons_self, trivial, allowed_flitBack (allowsSends_regIn n.val) (fun _ _ _ => trivial)
      (fun _ _ => List.mem_cons_of_mem _ (List.mem_singleton_self _)) f (by rw [← hu, ← hv]; exact hnv), fun _ => List.mem_cons_self, trivial⟩
  · simp only [allowed_seqA_cons, allowed_whenA, allowed_bump, allowed_modPort, allowed_emit, allowed_seqA_nil, and_true]
    exact ⟨by simp, by simp, allowed_flitBack (allowsSends_onlyFields (by simp) n.val) (by simp) (by simp) f (by rw [← hu, ← hv]; exact hnv), by simp, by simp⟩

theorem traisFlit_damaged (n : Fin 4) (f : TraisFlit) (hup : s.fld F.TRL_LNK_STS_STATE n.val = 2) (hun : f.uncorr = false)
    (hcrc : f.crc ≠ traisSum f) (hnak : (s.port n.val).naks < 15) : ∃ t, exec (.traisFlitReceive n f) s = .next t ∧
      t.port n.val = { s.port n.val with nakked := true, naks := (s.port n.val).naks + 1 } ∧
      t.out = s.out ++ [.traisFlits n.val [traisIdle (s.port n.val).rxSeq true]] ∧
      t.fld F.TRL_ERR_CRC n.val = min (s.fld F.TRL_ERR_CRC n.val + 1) F.TRL_ERR_CRC.top ∧ PortsBut [n.val] s t ∧
      RegsBut [regKey .trl n.val F.TRL_ERR_CRC.off] s t ∧ t = { s with regs := t.regs, ports := t.ports, out := t.out } := by
  obtain ⟨u, hu⟩ : ∃ u, u = after (bump F.TRL_ERR_CORR n.val f.corr) s := ⟨_, rfl⟩
  obtain ⟨v, hv⟩ : ∃ v, v = after (bump F.TRL_ERR_CRC n.val 1) u := ⟨_, rfl⟩
  obtain ⟨w, hw⟩ : ∃ w, w = after (modPort n.val fun p => { p with nakked := true, naks := (s.port n.val).naks + 1 }) v := ⟨_, rfl⟩
  obtain ⟨t, ht⟩ : ∃ t, t = after (emit (.traisFlits n.val [traisIdle (s.port n.val).rxSeq true])) w := ⟨_, rfl⟩
  have hcu : u.canon = true := hu ▸ after_canon _ s hc
  have hcv : v.canon = true := hv ▸ after_canon _ u hcu
  have hact : after (seqA [bump F.TRL_ERR_CORR n.val f.corr, bump F.TRL_ERR_CRC n.val 1,
      modPort n.val (fun p => { p with nakked := true, naks := (s.port n.val).naks + 1 }), emit (.traisFlits n.val [traisIdle (s.port n.val).rxSeq true])]) s = t := by
    rw [ht, hw, hv, hu]
    simp only [after_seqA_cons, after_seqA_end]
  have hfv : v = { s with regs := v.regs } := by
    have h : after (seqA [bump F.TRL_ERR_CORR n.val f.corr, bump F.TRL_ERR_CRC n.val 1]) s = v := by
      rw [after_seqA_cons, after_seqA_cons, after_seqA_end, ← hu, hv]
    exact h ▸ after_overlay [.regs] (by simp)
  have hpv : v.port n.val = s.port n.val := by
    rw [hfv]
    rfl
  refine ⟨t, congrArg Host.Outcome.next ?_, ?_, ?_, ?_, hact ▸ after_portsBut hc ?_, hact ▸ after_regsBut hc ?_, hact ▸ after_overlay [.regs, .ports, .out] ?_⟩
  · rw [← hact]
    have hup' : ¬ s.fld F.TRL_LNK_STS_STATE n.val ≠ 2 := by simpa using hup
    have hbad : f.uncorr = true ∨ f.crc ≠ traisSum f := .inr hcrc
    have hnak' : ¬ 15 ≤ (v.port n.val).naks := by
      rw [hpv]
      omega
    have hask : askReplay n.val v = seqA [modPort n.val fun p => { p with nakked := true, naks := (s.port n.val).naks + 1 },
        emit (.traisFlits n.val [traisIdle (s.port n.val).rxSeq true])] v := by
      rw [← hpv]
      exact if_neg hnak'
    refine (after_congr (if_neg hup')).trans ?_
    simp only [after_seqA_cons, after_seqA_end, if_pos hbad, after_whenA]
    simp only [hun, Bool.not_false, if_true, Bool.false_eq_true, if_false, ← hu, ← hv]
    rw [after_congr hask]
    simp only [after_seqA_cons, after_seqA_end]
  · have hp : t.port n.val = w.port n.val := by
      rw [ht]
      rfl
    rw [hp, hw, port_modPort hcv, if_pos rfl, hpv]
  · rw [ht]
    change w.out ++ _ = _
    rw [hw]
    change v.out ++ _ = _
    rw [hfv]
  · have hf : t.fld F.TRL_ERR_CRC n.val = v.fld F.TRL_ERR_CRC n.val := by
      rw [ht, hw]
      rfl
    rw [hf, hv, fld_bump_same hcu _ _ _ (by decide), hu, fld_bump_other hc _ _ _ _ _ (.inr (by decide))]
  · simp only [allowed_seqA_cons, allowed_bump, allowed_modPort, allowed_emit, allowed_seqA_nil, and_true]
    exact ⟨trivial, trivial, .inl (List.mem_singleton_self _), trivial⟩
  · simp
  · simp

end

end Sys2Proof.Machine

open Sys2Proof Sys2Proof.Machine

/-- Settles O45: what a port's registers show is set before its events and messages follow, which touch no link register. -/
theorem traisPorts : Obligations.TraisPorts := fun _ n hc =>
  ⟨fun i hr hdn => ⟨fun hs hlk hl hmax hmin => traisTrain_comesUp hc n i hr hdn hs hlk hl hmax hmin, fun hs => traisTrain_noSignal hc n i hr hdn hs⟩,
    fun f hup hty hun => ⟨fun hcrc hseq hnak => traisFlit_taken hc n f hup hty hun hcrc hseq hnak, fun hcrc hnak => traisFlit_damaged hc n f hup hun hcrc hnak⟩,
    fun replay hup hq hcur => traisPortDown_shows hc n replay hup hq hcur⟩

end

section
/-!
SUPPORT. The registers and the state of a DMA channel, and what the completion of a descriptor leaves (R433, R437, R438, R441).
-/
namespace Sys2Proof.Machine

/-! ## A channel's registers -/

section
variable {s : State} (hc : s.canon = true)
include hc

theorem fld_chan_same (f : Fld) (c i v : Nat) (hf : f.lo ≤ f.hi ∧ f.hi < 64) :
    (after (setF (f.chan c) i v) s).fld (f.chan c) i = v % 2 ^ (f.hi + 1 - f.lo) := fld_set_same hc (f.chan c) i v hf

theorem fld_chan_bits (f g : Fld) (c i v : Nat) (hf : (f.lo ≤ f.hi ∧ f.hi < 64) ∧ (g.hi < f.lo ∨ f.hi < g.lo)) :
    (after (setF (f.chan c) i v) s).fld (g.chan c) i = s.fld (g.chan c) i := fld_set_bits hc (f.chan c) (g.chan c) i i v hf

theorem fld_chan_off (f g : Fld) {c : Nat} (i v : Nat) (ho : g.off ≠ f.off ∧ g.off < 0x180 ∧ f.off < 0x180) :
    (after (setF (f.chan c) i v) s).fld (g.chan c) i = s.fld (g.chan c) i :=
  fld_set_off hc (f.chan c) (g.chan c) i i v (by simp only [Fld.chan]; omega)

theorem fld_chan_bump (f : Fld) (c i n : Nat) (hf : f.lo ≤ f.hi ∧ f.hi < 64) :
    (after (bump (f.chan c) i n) s).fld (f.chan c) i = min (s.fld (f.chan c) i + n) f.top := fld_bump_same hc (f.chan c) i n hf

theorem fld_chan_bump_other (f g : Fld) {c : Nat} (i n : Nat)
    (hf : g.off ≠ f.off ∧ g.off < 0x180 ∧ f.off < 0x180 ∨ (f.lo ≤ f.hi ∧ f.hi < 64) ∧ (g.hi < f.lo ∨ f.hi < g.lo)) :
    (after (bump (f.chan c) i n) s).fld (g.chan c) i = s.fld (g.chan c) i :=
  fld_bump_other hc (f.chan c) (g.chan c) i i n (hf.imp (fun h => by simp only [Fld.chan]; omega) id)

end

/-- The offsets of the channels' registers but the command and the count of bytes, which nothing else reads. -/
def chanOff (o : Nat) : Prop := o % 128 < 0x30 ∨ o % 128 = 0x40

/-- A register key of none of die d's channels. -/
def offChan (d k : Nat) : Prop := ∀ o, 0x100 ≤ o → o < 0x200 → chanOff o → k ≠ regKey .dma d o

/-- The registers of die d's channels are in t as in s. -/
def ChanKept (d : Nat) (s t : State) : Prop := ∀ o, 0x100 ≤ o → o < 0x200 → chanOff o → t.reg .dma d o = s.reg .dma d o

theorem ChanKept.trans {d : Nat} {a b c : State} (h1 : ChanKept d a b) (h2 : ChanKept d b c) : ChanKept d a c := fun o ha hb hn =>
  (h2 o ha hb hn).trans (h1 o ha hb hn)

theorem ChanKept.fld {d : Nat} {s t : State} (h : ChanKept d s t) {f : Fld} {c : Nat} (hc2 : c < 2)
    (hf : f.blk = .dma ∧ 0x100 ≤ f.off ∧ f.off < 0x180 ∧ (f.off % 128 < 0x30 ∨ f.off % 128 = 0x40)) : t.fld (f.chan c) d = s.fld (f.chan c) d := by
  obtain ⟨hb, h1, h2, h3⟩ := hf
  simp only [State.fld, Fld.chan, hb]
  rw [h _ (by omega) (by omega) (by unfold chanOff; omega)]

theorem ChanKept.dmaReg {d : Nat} {s t : State} (h : ChanKept d s t) {c off : Nat} (hc2 : c < 2) (ho : off < 0x30) :
    t.dmaReg d c off = s.dmaReg d c off := h _ (by omega) (by omega) (by unfold chanOff; omega)

theorem ChanKept.descAddr {d : Nat} {s t : State} (h : ChanKept d s t) {c : Nat} (hc2 : c < 2) (n : Nat) : t.descAddr d c n = s.descAddr d c n := by
  simp only [State.descAddr, h.dmaReg hc2 (show 0 < 0x30 by decide)]

theorem ChanKept.dmaHead {d : Nat} {s t : State} (h : ChanKept d s t) {c : Nat} (hc2 : c < 2) : t.dmaHead d c = s.dmaHead d c :=
  h.fld (f := F.DMA_CH_HEAD_HEAD) hc2 (by decide)

theorem offChan_of_off {d : Nat} {b : Blk} {i o : Nat} (ho : o < 65536) (h : o < 0x100 ∨ 0x200 ≤ o) : offChan d (regKey b i o) := fun o' h1 h2 _ =>
  regKey_ne_of_off (by omega)

theorem offChan_evt {d k : Nat} (h : evtKey k) : offChan d k := fun o h1 h2 _ he =>
  not_evtKey_of_off (b := .dma) (i := d) (by omega) (he ▸ h)

theorem offChan_stk {d : Nat} (hd : d < 32) {i o : Nat} (h : sliceReg i o) : offChan d (regKey .stk i o) := fun o' h1 h2 h3 he => by
  obtain ⟨ho, hi⟩ := h
  have hk : o < 65536 := by
    simp only [sliceOff, List.contains_eq_mem, List.mem_cons, List.not_mem_nil, or_false, decide_eq_true_eq] at ho
    omega
  have hs : Blk.stk.code = 0x16 := rfl
  have hd' : Blk.dma.code = 0x17 := rfl
  simp only [sliceOff, List.contains_eq_mem, List.mem_cons, List.not_mem_nil, or_false, decide_eq_true_eq] at ho
  simp only [regKey, hs, hd'] at he
  unfold chanOff at h3
  omega

theorem offChan_trl {d : Nat} (hd : d < 32) (n : Nat) {o : Nat} (ho : o < 65536) : offChan d (regKey .trl n o) := fun o' h1 h2 h3 he => by
  have hs : Blk.trl.code = 0x20 := rfl
  have hd' : Blk.dma.code = 0x17 := rfl
  simp only [regKey, hs, hd'] at he
  omega

section
variable {d : Nat} (hd : d < 32)
include hd

theorem allowsLines_offChan : AllowsLines (regIn (offChan d)) := fun s e he => by
  cases e with
  | reg b i o v =>
    obtain ⟨rfl, h⟩ := he
    exact offChan_stk hd h
  | die => trivial
  | _ => exact he.elim

theorem allowsSnoops_offChan : AllowsSnoops (regIn (offChan d)) := fun s e he => by
  cases e with
  | reg b i o v =>
    obtain ⟨rfl, rfl⟩ := he
    exact offChan_trl hd i (by decide)
  | port | filter | out => trivial
  | _ => exact he.elim

omit hd in
theorem chanKept_after {a : Act} {s : State} (hc : s.canon = true) (h : Allowed (regIn (offChan d)) (a s) s) : ChanKept d s (after a s) :=
  fun o h1 h2 h3 => after_regIn hc h fun hn => hn o h1 h2 h3 rfl

end

/-! ## What DMA may change -/

/-- What work of a DMA channel of die d may change. -/
structure DmaOnly (d : Nat) (s t : State) : Prop where
  frame : t = { s with mem := t.mem, poison := t.poison, snoopF := t.snoopF, regs := t.regs, ports := t.ports, dies := t.dies, out := t.out }
  dies : ∀ e, e ≠ d → DieSlices (s.die e) (t.die e)

theorem DmaOnly.trans {d : Nat} {a b c : State} (h1 : DmaOnly d a b) (h2 : DmaOnly d b c) : DmaOnly d a c :=
  ⟨by rw [h2.frame, h1.frame], fun e he => (h1.dies e he).trans (h2.dies e he)⟩

theorem DmaOnly.of_frame {d : Nat} {s t : State}
    (h : t = { s with mem := t.mem, poison := t.poison, snoopF := t.snoopF, regs := t.regs, ports := t.ports, out := t.out }) : DmaOnly d s t :=
  ⟨by rw [h], fun e _ => by
    rw [h]
    exact DieSlices.refl _⟩

theorem DmaOnly.power_eq {d : Nat} {s t : State} (h : DmaOnly d s t) : t.power = s.power := by rw [h.frame]

/-- A step that leaves the registers of the channels, the channels and memory as they are. -/
structure DmaIdle (d : Nat) (s t : State) : Prop where
  only : DmaOnly d s t
  kept : ChanKept d s t
  dma : ∀ c, t.dma d c = s.dma d c

theorem DmaIdle.trans {d : Nat} {a b c : State} (h1 : DmaIdle d a b) (h2 : DmaIdle d b c) : DmaIdle d a c :=
  ⟨h1.only.trans h2.only, h1.kept.trans h2.kept, fun k => (h2.dma k).trans (h1.dma k)⟩

theorem dma_of_die {d : Nat} {s t : State} (h : (t.die d).dma0 = (s.die d).dma0 ∧ (t.die d).dma1 = (s.die d).dma1) (c : Nat) : t.dma d c = s.dma d c := by
  simp only [State.dma, h.1, h.2]

theorem DieLines.dma {x y : Die} (h : DieLines x y) : y.dma0 = x.dma0 ∧ y.dma1 = x.dma1 := by
  rw [DieLines] at h
  rw [h]
  exact ⟨rfl, rfl⟩

section
variable {s : State} (hc : s.canon = true)
include hc

theorem dma_modDma (d c : Nat) (f : DmaCh → DmaCh) : (after (modDma d c f) s).dma d c = f (s.dma d c) := by
  have h : (after (modDma d c f) s).die d = if c = 0 then { s.die d with dma0 := f (s.die d).dma0 } else { s.die d with dma1 := f (s.die d).dma1 } := by
    rw [modDma, modDie, after_eff, die_ap_die s hc, if_pos rfl]
  simp only [State.dma, h]
  split <;> rfl

omit hc in
theorem modDma_frame (d c : Nat) (f : DmaCh → DmaCh) : after (modDma d c f) s = { s with dies := (after (modDma d c f) s).dies } :=
  after_overlay [.dies] (by simp [modDma])

theorem diesBut_modDma (d c : Nat) (f : DmaCh → DmaCh) : DiesBut [d] s (after (modDma d c f) s) :=
  after_diesBut hc (by simp [modDma, keepBut])

theorem dmaOnly_modDma (d c : Nat) (f : DmaCh → DmaCh) : DmaOnly d s (after (modDma d c f) s) :=
  ⟨by
    rw [modDma_frame], fun e he => by
    rw [diesBut_modDma hc d c f e (by simpa using he)]
    exact DieSlices.refl _⟩

end

/-! ## The completion of a descriptor -/

section
variable {s : State} (hc : s.canon = true) {d : Nat} (hd : d < 32)
include hc hd

/-- What DMA stores in stack memory: the bytes, and nothing of a channel. -/
theorem storeBytes_idle (a : Nat) (bs : List Byte) {t : State} (ht : t = after (storeBytes true a bs) s) :
    t.bytes a bs.length = bs ∧ BytesBut a bs.length s t ∧ DmaIdle d s t := by
  have hlines : ∀ e, DieLines (s.die e) (t.die e) := ht ▸ after_dieRel (R := fun _ => DieLines) (fun _ => DieLines.refl) (fun _ _ _ _ => DieLines.trans) hc
    (allowed_storeBytes_bulk (fun s e he => by
      cases e with
      | die d x => exact he
      | reg => trivial
      | _ => exact he.elim) allowsSnoops_dieRel (fun _ _ => trivial) (fun _ _ _ _ _ => trivial) s)
  refine ⟨ht ▸ bytes_storeBytes hc true a bs, ht ▸ after_bytesBut hc (allowed_storeBytes_bulk allowsLines_byteRel allowsSnoops_byteRel (fun _ _ => trivial)
    (fun _ x _ h1 h2 => .inl ⟨h1, h2⟩) s), ⟨?_, fun e _ => dieSlices_of_lines (hlines e)⟩, ?_, dma_of_die (hlines d).dma⟩
  · exact ht ▸ after_overlay [.mem, .poison, .snoopF, .regs, .ports, .dies, .out] (allowed_storeBytes_bulk (allowsLines_onlyFields (by simp))
      (allowsSnoops_onlyFields (by simp)) (by simp) (by simp) s)
  · exact ht ▸ chanKept_after hc (allowed_storeBytes_bulk (allowsLines_offChan hd) (allowsSnoops_offChan hd) (fun _ _ => trivial) (fun _ _ _ _ _ => trivial) s)

omit hd in
/-- A step that writes but registers and what is sent, and of the registers none of the channels. -/
theorem DmaIdle.of_regs {a : Act} {t : State} (ht : t = after a s) (hf : t = { s with regs := t.regs, ports := t.ports, out := t.out })
    (h : Allowed (regIn (offChan d)) (a s) s) : DmaIdle d s t := by
  refine ⟨.of_frame (by rw [hf]), ht ▸ chanKept_after hc h, fun c => ?_⟩
  rw [hf]
  rfl

omit hd in
theorem raiseEvent_idle (p v data : Nat) (hv : v < 128) {t : State} (ht : t = after (raiseEvent p v data) s) : DmaIdle d s t := by
  have hall : ∀ {P : State → Eff → Prop}, AllowsSends P → (∀ s n x, n < 4 → P s (.reg .trl n (F.TRL_EVT_PEND.nth v).off x)) →
      Allowed P (raiseEvent p v data s) s := fun hP he => allowed_raiseEvent_of hP p v data he s
  refine .of_regs hc ht (ht ▸ after_overlay [.regs, .ports, .out] (hall (allowsSends_onlyFields (by simp)) (by simp))) (hall allowsSends_regIn ?_)
  exact fun _ n _ hn => offChan_evt ⟨n, v, hn, hv, rfl⟩

omit hd in
theorem dropReads_idle (c : Nat) {t : State} (ht : t = after (dropReads d c) s) : DmaIdle d s t := by
  have hall : ∀ {P : State → Eff → Prop}, (∀ s n x, P s (.port n x)) → Allowed P (dropReads d c s) s := fun hP =>
    allowed_forA _ _ s fun n _ s => (allowed_modPort s n _).2 (hP _ _ _)
  have hf : t = { s with ports := t.ports } := ht ▸ after_overlay [.ports] (hall (by simp))
  refine ⟨.of_frame (by rw [hf]), ht ▸ chanKept_after hc (hall fun _ _ _ => trivial), fun c => ?_⟩
  rw [hf]
  rfl

end

/-- What a completion's registers show before the channel goes on. -/
def dmaMarks (d c h status user : Nat) : Act :=
  seqA [setF (F.DMA_CH_HEAD_HEAD.chan c) d ((h + 1) % 2 ^ 17), bump (F.DMA_CH_DESC_DONE.chan c) d 1,
    whenA (fun _ => status != 0) (seqA [setF (F.DMA_CH_ERR_IDX.chan c) d h, setF (F.DMA_CH_ERR_USER.chan c) d user,
      setF (F.DMA_CH_STS_LAST_ERR.chan c) d status, bump (F.DMA_CH_DESC_ERRORS.chan c) d 1])]

/-- The channel goes on, or halts. -/
def dmaGoOn (d c status : Nat) (cfg : Word) : Act :=
  seqA [dmaNext d c, whenA (fun s => status != 0 && F.DMA_CH_CFG_HALT_ERR.of cfg == 1 && s.fld (F.DMA_CH_STS_STATE.chan c) d != 0)
    (setF (F.DMA_CH_STS_STATE.chan c) d 3)]

section
variable {s : State} (hc : s.canon = true) {d c : Nat}
include hc

theorem dmaMarks_show {h status user : Nat} {t : State} (ht : t = after (dmaMarks d c h status user) s) :
    t.dmaHead d c = (h + 1) % 2 ^ 17 ∧
      t.fld (F.DMA_CH_DESC_DONE.chan c) d = min (s.fld (F.DMA_CH_DESC_DONE.chan c) d + 1) F.DMA_CH_DESC_DONE.top ∧
      t.fld (F.DMA_CH_STS_STATE.chan c) d = s.fld (F.DMA_CH_STS_STATE.chan c) d ∧
      (status ≠ 0 → t.fld (F.DMA_CH_STS_LAST_ERR.chan c) d = status % 256 ∧ t.fld (F.DMA_CH_ERR_IDX.chan c) d = h % 2 ^ 17) ∧
      t.dmaReg d c 0 = s.dmaReg d c 0 ∧ t = { s with regs := t.regs } := by
  obtain ⟨a, ha⟩ : ∃ a, a = after (setF (F.DMA_CH_HEAD_HEAD.chan c) d ((h + 1) % 2 ^ 17)) s := ⟨_, rfl⟩
  obtain ⟨b, hb⟩ : ∃ b, b = after (bump (F.DMA_CH_DESC_DONE.chan c) d 1) a := ⟨_, rfl⟩
  have ca : a.canon = true := ha ▸ after_canon _ s hc
  have cb : b.canon = true := hb ▸ after_canon _ a ca
  have hhead : b.dmaHead d c = (h + 1) % 2 ^ 17 := by
    unfold State.dmaHead
    rw [hb, fld_chan_bump_other ca _ _ _ _ (.inl (by decide)), ha, fld_chan_same hc _ _ _ _ (by decide),
      show F.DMA_CH_HEAD_HEAD.hi + 1 - F.DMA_CH_HEAD_HEAD.lo = 17 from rfl, Nat.mod_mod]
  have hdone : b.fld (F.DMA_CH_DESC_DONE.chan c) d = min (s.fld (F.DMA_CH_DESC_DONE.chan c) d + 1) F.DMA_CH_DESC_DONE.top := by
    rw [hb, fld_chan_bump ca _ _ _ _ (by decide), ha, fld_chan_off hc _ _ _ _ (by decide)]
  have hst : b.fld (F.DMA_CH_STS_STATE.chan c) d = s.fld (F.DMA_CH_STS_STATE.chan c) d := by
    rw [hb, fld_chan_bump_other ca _ _ _ _ (.inl (by decide)), ha, fld_chan_off hc _ _ _ _ (by decide)]
  have hregs : RegsBut [regKey .dma d (0x110 + 128 * c), regKey .dma d (0x140 + 128 * c), regKey .dma d (0x128 + 128 * c), regKey .dma d (0x120 + 128 * c)] s t := by
    refine ht ▸ after_regsBut hc ?_
    simp only [dmaMarks, allowed_seqA_cons, allowed_setF, allowed_bump, allowed_whenA, allowed_seqA_nil, and_true]
    simp [Fld.chan]
  have hring : t.dmaReg d c 0 = s.dmaReg d c 0 := by
    simp only [State.dmaReg, State.reg]
    refine hregs _ ?_
    simp only [List.mem_cons, List.not_mem_nil, or_false, not_or]
    exact ⟨regKey_ne_of_off (by omega), regKey_ne_of_off (by omega), regKey_ne_of_off (by omega), regKey_ne_of_off (by omega)⟩
  have hframe : t = { s with regs := t.regs } := ht ▸ after_overlay [.regs] (by
    simp only [dmaMarks, allowed_seqA_cons, allowed_setF, allowed_bump, allowed_whenA, allowed_seqA_nil, and_true]
    simp)
  rw [dmaMarks, after_seqA_cons, ← ha, after_seqA_cons, ← hb, after_seqA_cons, after_seqA_end, after_whenA] at ht
  by_cases h0 : status = 0
  · rw [if_neg (by simp [h0])] at ht
    rw [ht] at hring hframe ⊢
    exact ⟨hhead, hdone, hst, fun h => absurd h0 h, hring, hframe⟩
  · obtain ⟨x, hx⟩ : ∃ x, x = after (setF (F.DMA_CH_ERR_IDX.chan c) d h) b := ⟨_, rfl⟩
    obtain ⟨y, hy⟩ : ∃ y, y = after (setF (F.DMA_CH_ERR_USER.chan c) d user) x := ⟨_, rfl⟩
    obtain ⟨z, hz⟩ : ∃ z, z = after (setF (F.DMA_CH_STS_LAST_ERR.chan c) d status) y := ⟨_, rfl⟩
    have cx : x.canon = true := hx ▸ after_canon _ b cb
    have cy : y.canon = true := hy ▸ after_canon _ x cx
    have cz : z.canon = true := hz ▸ after_canon _ y cy
    rw [if_pos (by simp [h0]), after_seqA_cons, ← hx, after_seqA_cons, ← hy, after_seqA_cons, ← hz, after_seqA_cons, after_seqA_end] at ht
    refine ⟨?_, ?_, ?_, fun _ => ⟨?_, ?_⟩, hring, hframe⟩
    · rw [State.dmaHead, ht, fld_chan_bump_other cz _ _ _ _ (.inl (by decide)), hz, fld_chan_off cy _ _ _ _ (by decide), hy,
        fld_chan_off cx _ _ _ _ (by decide), hx, fld_chan_off cb _ _ _ _ (by decide)]
      exact hhead
    · rw [ht, fld_chan_bump_other cz _ _ _ _ (.inr (by decide)), hz, fld_chan_off cy _ _ _ _ (by decide), hy,
        fld_chan_off cx _ _ _ _ (by decide), hx, fld_chan_off cb _ _ _ _ (by decide)]
      exact hdone
    · rw [ht, fld_chan_bump_other cz _ _ _ _ (.inl (by decide)), hz, fld_chan_bits cy _ _ _ _ _ (by decide), hy,
        fld_chan_off cx _ _ _ _ (by decide), hx, fld_chan_off cb _ _ _ _ (by decide)]
      exact hst
    · rw [ht, fld_chan_bump_other cz _ _ _ _ (.inl (by decide)), hz, fld_chan_same cy _ _ _ _ (by decide),
        show F.DMA_CH_STS_LAST_ERR.hi + 1 - F.DMA_CH_STS_LAST_ERR.lo = 8 from rfl, show 2 ^ 8 = 256 from rfl]
    · rw [ht, fld_chan_bump_other cz _ _ _ _ (.inl (by decide)), hz, fld_chan_off cy _ _ _ _ (by decide), hy,
        fld_chan_bits cx _ _ _ _ _ (by decide), hx, fld_chan_same cb _ _ _ _ (by decide),
        show F.DMA_CH_ERR_IDX.hi + 1 - F.DMA_CH_ERR_IDX.lo = 17 from rfl]

theorem dmaGoOn_shows {status : Nat} {cfg : Word} {t : State} (ht : t = after (dmaGoOn d c status cfg) s) :
    t.fld (F.DMA_CH_STS_STATE.chan c) d = (if s.fld (F.DMA_CH_STS_STATE.chan c) d = 0 then 0
      else if status ≠ 0 ∧ F.DMA_CH_CFG_HALT_ERR.of cfg = 1 then 3 else if s.dmaHead d c = (s.dma d c).tail then 1 else 2) ∧
      t.fld (F.DMA_CH_STS_LAST_ERR.chan c) d = s.fld (F.DMA_CH_STS_LAST_ERR.chan c) d ∧
      RegsBut [regKey .dma d (0x120 + 128 * c)] s t ∧ t = { s with regs := t.regs } := by
  obtain ⟨st, hst⟩ : ∃ st, st = s.fld (F.DMA_CH_STS_STATE.chan c) d := ⟨_, rfl⟩
  obtain ⟨go, hgo⟩ : ∃ go : Nat, go = if s.dmaHead d c = (s.dma d c).tail then 1 else 2 := ⟨_, rfl⟩
  obtain ⟨u, hu⟩ : ∃ u, u = after (setF (F.DMA_CH_STS_BUSY.chan c) d 0) s := ⟨_, rfl⟩
  obtain ⟨w, hw⟩ : ∃ w, w = after (if st = 0 then skip else setF (F.DMA_CH_STS_STATE.chan c) d go) u := ⟨_, rfl⟩
  have cu : u.canon = true := hu ▸ after_canon _ s hc
  have cw : w.canon = true := hw ▸ after_canon _ u cu
  have hnext : after (dmaNext d c) s = w := by
    rw [hw, hu, hst, hgo]
    refine (after_congr (b := seqA _) rfl).trans ?_
    rw [after_seqA_cons, after_seqA_cons, after_seqA_end]
  have hws : w.fld (F.DMA_CH_STS_STATE.chan c) d = if st = 0 then 0 else go := by
    rw [hw]
    split
    · next h => rw [after_skipped, hu, fld_chan_bits hc _ _ _ _ _ (by decide), ← hst, h]
    · rw [fld_chan_same cu _ _ _ _ (by decide), hgo]
      split <;> rfl
  have hwl : w.fld (F.DMA_CH_STS_LAST_ERR.chan c) d = s.fld (F.DMA_CH_STS_LAST_ERR.chan c) d := by
    rw [hw]
    split
    · rw [after_skipped, hu, fld_chan_bits hc _ _ _ _ _ (by decide)]
    · rw [fld_chan_bits cu _ _ _ _ _ (by decide), hu, fld_chan_bits hc _ _ _ _ _ (by decide)]
  have hall : ∀ {P : State → Eff → Prop}, (∀ s x, P s (.reg .dma d (0x120 + 128 * c) x)) → Allowed P (dmaGoOn d c status cfg s) s := fun hP => by
    simp only [dmaGoOn, dmaNext, allowed_seqA_cons, allowed_setF, allowed_whenA, allowed_iteAct, allowed_skip, allowed_seqA_nil, and_true]
    exact ⟨⟨hP _ _, fun _ => trivial, fun _ => hP _ _⟩, fun _ => hP _ _⟩
  have hregs : RegsBut [regKey .dma d (0x120 + 128 * c)] s t := ht ▸ after_regsBut hc (hall fun _ _ => List.mem_singleton_self _)
  have hframe : t = { s with regs := t.regs } := ht ▸ after_overlay [.regs] (hall (by simp))
  rw [dmaGoOn, after_seqA_cons, hnext, after_seqA_cons, after_seqA_end, after_whenA, hws] at ht
  by_cases h0 : st = 0
  · rw [if_neg (by simp [h0])] at ht
    rw [ht] at hregs hframe ⊢
    rw [← hst, if_pos h0]
    exact ⟨hws.trans (if_pos h0), hwl, hregs, hframe⟩
  · have hgo0 : go ≠ 0 := by
      rw [hgo]
      split <;> decide
    rw [if_neg h0] at hws ht
    rw [← hst, if_neg h0, ← hgo]
    by_cases hh : status ≠ 0 ∧ F.DMA_CH_CFG_HALT_ERR.of cfg = 1
    · rw [if_pos (by simp [hh.1, hh.2, hgo0])] at ht
      rw [if_pos hh]
      refine ⟨?_, ?_, hregs, hframe⟩
      · rw [ht, fld_chan_same cw _ _ _ _ (by decide)]
        rfl
      · rw [ht, fld_chan_bits cw _ _ _ _ _ (by decide), hwl]
    · rw [if_neg (by simpa [hgo0] using hh)] at ht
      rw [if_neg hh]
      rw [ht] at hregs hframe ⊢
      exact ⟨hws, hwl, hregs, hframe⟩

end

/-- The parts of a completion. -/
theorem after_dmaWrite (s : State) (d c : Nat) (b : List Byte) (cfg : Word) (status : Nat) :
    after (dmaWrite d c b cfg status) s = after p2Settle (after (dmaGoOn d c status cfg) (after (dropReads d c)
      (after (modDma d c fun x => { DmaCh.zero with tail := x.tail }) (after (whenA (fun _ => status != 0 || descEvt b)
        (raiseEvent (s.part d) (32 + 2 * d + c) ((s.dmaHead d c + 1) % 2 ^ 17 + status * 2 ^ 17)))
        (after (dmaMarks d c (s.dmaHead d c) status (leAt b 0x18 4))
          (after (storeBytes true (s.descAddr d c (s.dmaHead d c) + 0x1E) [BitVec.ofNat 8 status, 0]) s)))))) := by
  rw [dmaMarks, dmaGoOn]
  simp only [after_seqA_cons, after_seqA_end]
  refine Eq.trans (after_congr (b := seqA _) rfl) ?_
  simp only [after_seqA_cons, after_seqA_end]

theorem after_p2Settle {s : State} (h : s.power.drainFor ≠ 3) : after p2Settle s = s := by
  rw [p2Settle, after_whenA, if_neg]
  simp [h]

/-- What the completion of the descriptor at HEAD leaves. -/
structure DmaWritten (d c : Nat) (cfg : Word) (code : Nat) (s t : State) : Prop where
  bytes : t.bytes (s.descAddr d c (s.dmaHead d c) + 0x1E) 2 = [BitVec.ofNat 8 code, 0]
  but : BytesBut (s.descAddr d c (s.dmaHead d c) + 0x1E) 2 s t
  head : t.dmaHead d c = (s.dmaHead d c + 1) % 2 ^ 17
  chan : t.dma d c = { DmaCh.zero with tail := (s.dma d c).tail }
  done : t.fld (F.DMA_CH_DESC_DONE.chan c) d = min (s.fld (F.DMA_CH_DESC_DONE.chan c) d + 1) F.DMA_CH_DESC_DONE.top
  state : t.fld (F.DMA_CH_STS_STATE.chan c) d = if s.fld (F.DMA_CH_STS_STATE.chan c) d = 0 then 0
    else if code ≠ 0 ∧ F.DMA_CH_CFG_HALT_ERR.of cfg = 1 then 3 else if (s.dmaHead d c + 1) % 2 ^ 17 = (s.dma d c).tail then 1 else 2
  err : code ≠ 0 → t.fld (F.DMA_CH_STS_LAST_ERR.chan c) d = code % 256 ∧ t.fld (F.DMA_CH_ERR_IDX.chan c) d = s.dmaHead d c
  ring : t.dmaReg d c 0 = s.dmaReg d c 0
  only : DmaOnly d s t

theorem dmaHead_lt (s : State) (d c : Nat) : s.dmaHead d c < 2 ^ 17 := by
  have h := bitsOf_lt (s.reg .dma d (F.DMA_CH_HEAD_HEAD.chan c).off) 16 0
  exact h

theorem dmaWrite_written {s : State} (hc : s.canon = true) {d c : Nat} (hd : d < 32) (hc2 : c < 2) (hdr : s.power.drainFor ≠ 3) (b : List Byte) (cfg : Word)
    (code : Nat) {t : State} (ht : t = after (dmaWrite d c b cfg code) s) : DmaWritten d c cfg code s t := by
  obtain ⟨h, hh⟩ : ∃ h, h = s.dmaHead d c := ⟨_, rfl⟩
  obtain ⟨s1, e1⟩ : ∃ s1, s1 = after (storeBytes true (s.descAddr d c h + 0x1E) [BitVec.ofNat 8 code, 0]) s := ⟨_, rfl⟩
  obtain ⟨s2, e2⟩ : ∃ s2, s2 = after (dmaMarks d c h code (leAt b 0x18 4)) s1 := ⟨_, rfl⟩
  obtain ⟨s3, e3⟩ : ∃ s3, s3 = after (whenA (fun _ => code != 0 || descEvt b) (raiseEvent (s.part d) (32 + 2 * d + c) ((h + 1) % 2 ^ 17 + code * 2 ^ 17))) s2 :=
    ⟨_, rfl⟩
  obtain ⟨s4, e4⟩ : ∃ s4, s4 = after (modDma d c fun x => { DmaCh.zero with tail := x.tail }) s3 := ⟨_, rfl⟩
  obtain ⟨s5, e5⟩ : ∃ s5, s5 = after (dropReads d c) s4 := ⟨_, rfl⟩
  obtain ⟨s6, e6⟩ : ∃ s6, s6 = after (dmaGoOn d c code cfg) s5 := ⟨_, rfl⟩
  have c1 : s1.canon = true := e1 ▸ after_canon _ s hc
  have c2 : s2.canon = true := e2 ▸ after_canon _ s1 c1
  have c3 : s3.canon = true := e3 ▸ after_canon _ s2 c2
  have c4 : s4.canon = true := e4 ▸ after_canon _ s3 c3
  have c5 : s5.canon = true := e5 ▸ after_canon _ s4 c4
  obtain ⟨hb, hbut, hi1⟩ := storeBytes_idle hc hd _ _ e1
  obtain ⟨m1, m2, m3, m4, m5, m6⟩ := dmaMarks_show c1 e2
  have hi3 : DmaIdle d s2 s3 := by
    rw [after_whenA] at e3
    split at e3
    · exact raiseEvent_idle c2 _ _ _ (by omega) e3
    · rw [e3]
      exact ⟨.of_frame rfl, fun _ _ _ _ => rfl, fun _ => rfl⟩
  have hd4 : s4.dma d c = { DmaCh.zero with tail := (s3.dma d c).tail } := e4 ▸ dma_modDma c3 d c _
  have hf4 : s4 = { s3 with dies := s4.dies } := e4 ▸ modDma_frame d c _
  have ho4 : DmaOnly d s3 s4 := e4 ▸ dmaOnly_modDma c3 d c _
  have hi5 : DmaIdle d s4 s5 := dropReads_idle c4 c e5
  obtain ⟨g1, g2, g3, g4⟩ := dmaGoOn_shows c5 e6
  have hk4 : ChanKept d s3 s4 := fun _ _ _ _ => by
    rw [hf4]
    rfl
  have hk : ChanKept d s2 s5 := (hi3.kept.trans hk4).trans hi5.kept
  have ho2 : DmaOnly d s1 s2 := .of_frame (by rw [m6])
  have ho6 : DmaOnly d s5 s6 := .of_frame (by rw [g4])
  have honly : DmaOnly d s s6 := ((((hi1.only.trans ho2).trans hi3.only).trans ho4).trans hi5.only).trans ho6
  have hdma6 : s6.dma d c = { DmaCh.zero with tail := (s.dma d c).tail } := by
    have h1 : s6.dma d c = s5.dma d c := by
      rw [g4]
      rfl
    have h2 : s2.dma d c = s1.dma d c := by
      rw [m6]
      rfl
    rw [h1, hi5.dma, hd4, hi3.dma, h2, hi1.dma]
  have hmem : s6.mem = s1.mem := by
    have h3 : s3.mem = s2.mem := e3 ▸ after_read_eq (fs := [.regs, .ports, .out]) State.mem ((allowed_whenA _ _ _).2 fun _ =>
      allowed_raiseEvent_of (allowsSends_onlyFields (by simp)) _ _ _ (by simp) _) fun _ => rfl
    have h5 : s5.mem = s4.mem := e5 ▸ after_read_eq (fs := [.ports]) State.mem (allowed_forA _ _ _ fun _ _ _ => by simp) fun _ => rfl
    rw [g4]
    change s5.mem = _
    rw [h5, hf4]
    change s3.mem = _
    rw [h3, m6]
  have hbytes : ∀ z, s6.byte z = s1.byte z := fun z => by simp only [State.byte, hmem]
  have hhead : s6.dmaHead d c = (h + 1) % 2 ^ 17 := by
    have h6 : s6.dmaHead d c = s5.dmaHead d c := fld_of_regsBut g3 (by
      rw [List.mem_singleton]
      exact regKey_ne_of_off (by simp only [Fld.chan]; omega))
    rw [h6, hk.dmaHead hc2, m1]
  have hst5 : s5.fld (F.DMA_CH_STS_STATE.chan c) d = s.fld (F.DMA_CH_STS_STATE.chan c) d := by
    rw [hk.fld hc2 (by decide), m3, hi1.kept.fld hc2 (by decide)]
  have hmarks : ∀ f : Fld, f.blk = .dma ∧ 0x100 ≤ f.off ∧ f.off < 0x180 ∧ (f.off % 128 < 0x30 ∨ f.off % 128 = 0x40) → f.off ≠ 0x120 → s6.fld (f.chan c) d = s2.fld (f.chan c) d := fun f hf hn => by
    rw [← hk.fld hc2 hf]
    refine fld_of_regsBut g3 ?_
    rw [List.mem_singleton]
    exact regKey_ne_of_off (by simp only [Fld.chan]; omega)
  have hwr : after (dmaWrite d c b cfg code) s = s6 := by
    have h6 : after p2Settle s6 = s6 := after_p2Settle (by rw [honly.power_eq]; exact hdr)
    rw [after_dmaWrite, ← hh, ← e1, ← e2, ← e3, ← e4, ← e5, ← e6, h6]
  rw [ht, hwr]
  refine ⟨?_, ?_, ?_, hdma6, ?_, ?_, fun h0 => ⟨?_, ?_⟩, ?_, honly⟩
  · rw [bytes_congr hmem, ← hh]
    exact hb
  · intro z hz
    rw [hbytes, hbut z (by rw [hh]; exact hz)]
  · rw [hhead, hh]
  · rw [hmarks _ (by decide) (by decide), m2, hi1.kept.fld hc2 (by decide)]
  · have hd5 : (s5.dma d c).tail = (s.dma d c).tail := by
      have h1 : s6.dma d c = s5.dma d c := by
        rw [g4]
        rfl
      rw [← h1, hdma6]
    rw [g1, hst5, hk.dmaHead hc2, m1, hh, hd5]
  · rw [g2, hk.fld hc2 (by decide), (m4 h0).1]
  · rw [hmarks _ (by decide) (by decide), (m4 h0).2, hh, Nat.mod_eq_of_lt (dmaHead_lt s d c)]
  · have h6 : s6.dmaReg d c 0 = s5.dmaReg d c 0 := by
      simp only [State.dmaReg, State.reg]
      refine g3 _ ?_
      rw [List.mem_singleton]
      exact regKey_ne_of_off (by omega)
    rw [h6, hk.dmaReg hc2 (by decide), m5, hi1.kept.dmaReg hc2 (by decide)]

end Sys2Proof.Machine
end

section
/-!
SUPPORT. The DMA channels under their rings, doorbells and commands (R432, R433, R437, R442).
-/
namespace Sys2Proof.Machine

section
variable {s : State} (hc : s.canon = true)
include hc

/-! ## Rings -/

omit hc in
theorem rowOf_ring {c : Nat} (hc2 : c < 2) : ∃ r ∈ rowOf .dma (0x100 + 128 * c), r.flds = [⟨63, 63, .rw, 0⟩, ⟨47, 6, .rw, 0⟩, ⟨5, 0, .rw, 4⟩] := by
  have h : ∀ c < 2, ∃ r ∈ rowOf .dma (0x100 + 128 * c), r.flds = [⟨63, 63, .rw, 0⟩, ⟨47, 6, .rw, 0⟩, ⟨5, 0, .rw, 4⟩] := by decide
  exact h c hc2

theorem ringWrite_shows {d c : Nat} (hc2 : c < 2) (v : Word) {t : State} (ht : t = after (writeReg .dma d (0x100 + 128 * c) v) s) :
    F.DMA_CH_RING_EN.of (t.dmaReg d c 0) = F.DMA_CH_RING_EN.of v ∧ F.DMA_CH_RING_ADDR.of (t.dmaReg d c 0) = F.DMA_CH_RING_ADDR.of v ∧
      F.DMA_CH_RING_LOG2.of (t.dmaReg d c 0) = F.DMA_CH_RING_LOG2.of v := by
  obtain ⟨r, hr, hflds⟩ := rowOf_ring hc2
  have hap : r.apart = true := by
    rw [RegRow.apart, hflds]
    decide
  have hwr : t.dmaReg d c 0 = writeCodes r (s.dmaReg d c 0) v := by
    have hact : writeReg .dma d (0x100 + 128 * c) v s = [.reg .dma d (0x100 + 128 * c) (writeCodes r (s.reg .dma d (0x100 + 128 * c)) v)] := by
      rw [writeReg, Option.mem_def.1 hr]
    rw [ht, after, hact]
    exact (reg_ap_reg s hc _ _ _ _ _ _ _).trans (if_pos rfl)
  have hrw : ∀ hi lo x, (⟨hi, lo, .rw, x⟩ : RegFld) ∈ r.flds → bitsOf (t.dmaReg d c 0) hi lo = bitsOf v hi lo := fun hi lo x hm => by
    rw [hwr, bitsOf_writeCodes hap hm]
    rfl
  exact ⟨hrw 63 63 0 (by simp [hflds]), hrw 47 6 0 (by simp [hflds]), hrw 5 0 4 (by simp [hflds])⟩

theorem dmaRingWrite_taken (src : Src) (d : Fin 32) (c : Fin 2) (v : Word) (ht : s.takes src .dma d.val (0x100 + 128 * c.val) = true)
    (hok : F.DMA_CH_RING_EN.of v = 0 ∨ s.owns (s.part d.val) (F.DMA_CH_RING_ADDR.of v * 64) (2 ^ dmaLog2 v * 32) = true) :
    ∃ t, exec (.dmaRingWrite src d c v) s = .next t ∧ F.DMA_CH_RING_EN.of (t.dmaReg d.val c.val 0) = F.DMA_CH_RING_EN.of v ∧
      F.DMA_CH_RING_ADDR.of (t.dmaReg d.val c.val 0) = F.DMA_CH_RING_ADDR.of v ∧
      F.DMA_CH_RING_LOG2.of (t.dmaReg d.val c.val 0) = F.DMA_CH_RING_LOG2.of v ∧
      t.fld (F.DMA_CH_STS_STATE.chan c.val) d.val = (if F.DMA_CH_RING_EN.of v = 0 then 0
        else if F.DMA_CH_RING_EN.of (s.dmaReg d.val c.val 0) = 0 then 1 else s.fld (F.DMA_CH_STS_STATE.chan c.val) d.val) ∧
      RegsBut [regKey .dma d.val (0x100 + 128 * c.val), regKey .dma d.val (0x100 + 128 * c.val + 0x20)] s t ∧ t = { s with regs := t.regs } := by
  obtain ⟨d, hd⟩ := d
  obtain ⟨c, hc2⟩ := c
  dsimp only at *
  obtain ⟨u, hu⟩ : ∃ u, u = after (writeReg .dma d (0x100 + 128 * c) v) s := ⟨_, rfl⟩
  have cu : u.canon = true := hu ▸ after_canon _ s hc
  obtain ⟨h1, h2, h3⟩ := ringWrite_shows hc hc2 v hu
  have hst : u.fld (F.DMA_CH_STS_STATE.chan c) d = s.fld (F.DMA_CH_STS_STATE.chan c) d := by
    have hr : RegsBut [regKey .dma d (0x100 + 128 * c)] s u := hu ▸ after_regsBut hc (by simp)
    refine fld_of_regsBut hr ?_
    rw [List.mem_singleton]
    exact regKey_ne_of_off (by simp only [Fld.chan]; omega)
  obtain ⟨tl, htl⟩ : ∃ tl : Act, tl = if F.DMA_CH_RING_EN.of v = 0 then setF (F.DMA_CH_STS_STATE.chan c) d 0
    else if F.DMA_CH_RING_EN.of (s.dmaReg d c 0) = 0 then setF (F.DMA_CH_STS_STATE.chan c) d 1 else skip := ⟨_, rfl⟩
  obtain ⟨t, htt⟩ : ∃ t, t = after tl u := ⟨_, rfl⟩
  have hall : ∀ {P : State → Eff → Prop}, (∀ s x, P s (.reg .dma d (0x120 + 128 * c) x)) → Allowed P (tl u) u := fun hP => by
    rw [htl]
    split_ifs
    · exact (allowed_setF _ _ _ _).2 (hP _ _)
    · exact (allowed_setF _ _ _ _).2 (hP _ _)
    · exact .nil _
  have hring : t.dmaReg d c 0 = u.dmaReg d c 0 := by
    have hr : RegsBut [regKey .dma d (0x120 + 128 * c)] u t := htt ▸ after_regsBut cu (hall fun _ _ => List.mem_singleton_self _)
    simp only [State.dmaReg, State.reg]
    refine hr _ ?_
    rw [List.mem_singleton]
    exact regKey_ne_of_off (by omega)
  have hact : after (seqA [writeReg .dma d (0x100 + 128 * c) v, tl]) s = t := by rw [after_seqA_cons, after_seqA_cons, after_seqA_end, ← hu, htt]
  refine ⟨t, congrArg Host.Outcome.next ?_, by rw [hring, h1], by rw [hring, h2], by rw [hring, h3], ?_, hact ▸ after_regsBut hc ?_, hact ▸ after_overlay [.regs] ?_⟩
  · have hgo : ¬ ((F.DMA_CH_RING_EN.of v == 1) = true ∧ s.owns (s.part d) (F.DMA_CH_RING_ADDR.of v * 64) (2 ^ dmaLog2 v * 32) = false) := by
      rintro ⟨ha, hb⟩
      obtain h | h := hok
      · rw [h] at ha
        cases ha
      · rw [h] at hb
        cases hb
    rw [hostDmaRingWrite, after_congr (guardW_of_takes ht _), after_congr (if_neg hgo), after_seqA_cons, after_seqA_cons, after_seqA_end]
    change after (if (F.DMA_CH_RING_EN.of v == 1) = false then _ else _) (after (writeReg .dma d (0x100 + 128 * c) v) s) = t
    rw [← hu, htt, htl]
    have hen : F.DMA_CH_RING_EN.of v < 2 := bitsOf_lt v 63 63
    by_cases h0 : F.DMA_CH_RING_EN.of v = 0
    · rw [if_pos (by simp [h0]), if_pos h0]
    · have h1 : F.DMA_CH_RING_EN.of v = 1 := by omega
      rw [if_neg (by simp [h1]), if_neg h0, after_whenA]
      change (if (F.DMA_CH_RING_EN.of (s.dmaReg d c 0) == 0) = true then _ else _) = _
      by_cases hw : F.DMA_CH_RING_EN.of (s.dmaReg d c 0) = 0
      · rw [if_pos (by simp [hw]), if_pos hw]
      · rw [if_neg (by simp [hw]), if_neg hw, after_skipped]
  · rw [htt, htl]
    split_ifs
    · rw [fld_chan_same cu _ _ _ _ (by decide)]
      rfl
    · rw [fld_chan_same cu _ _ _ _ (by decide)]
      rfl
    · rw [after_skipped, hst]
  · simp only [allowed_seqA_cons, allowed_writeReg, allowed_seqA_nil, and_true]
    have hk : ∀ x, (0x120 + 128 * c) = x → regKey Blk.dma d (0x120 + 128 * c) ∈ [regKey .dma d (0x100 + 128 * c), regKey .dma d (0x100 + 128 * c + 0x20)] := fun _ _ => by
      rw [show 0x120 + 128 * c = 0x100 + 128 * c + 0x20 by omega]
      exact List.mem_cons_of_mem _ (List.mem_singleton_self _)
    exact ⟨fun _ _ => List.mem_cons_self, hu ▸ hall fun _ _ => hk _ rfl⟩
  · simp only [allowed_seqA_cons, allowed_writeReg, allowed_seqA_nil, and_true]
    exact ⟨by simp, hu ▸ hall (by simp)⟩

omit hc in
theorem dmaRingWrite_discarded (src : Src) (d : Fin 32) (c : Fin 2) (v : Word) (ht : s.takes src .dma d.val (0x100 + 128 * c.val) = true)
    (hen : F.DMA_CH_RING_EN.of v = 1) (hown : s.owns (s.part d.val) (F.DMA_CH_RING_ADDR.of v * 64) (2 ^ dmaLog2 v * 32) = false) :
    exec (.dmaRingWrite src d c v) s = .next s := by
  refine congrArg Host.Outcome.next ?_
  rw [hostDmaRingWrite, after_congr (guardW_of_takes ht _), after_congr (b := skip) (if_pos ⟨by rw [hen]; rfl, hown⟩), after_skipped]

/-! ## Doorbells and RESUME -/

theorem dmaDoorbell_shows (src : Src) (d : Fin 32) (c : Fin 2) (v : Word) (ht : s.takes src .dma d.val (0x100 + 128 * c.val + 8) = true) :
    ∃ t, exec (.dmaDoorbell src d c v) s = .next t ∧ t.dma d.val c.val = { s.dma d.val c.val with tail := F.DMA_CH_TAIL_TAIL.of v } ∧
      t.fld (F.DMA_CH_STS_STATE.chan c.val) d.val = (if s.fld (F.DMA_CH_STS_STATE.chan c.val) d.val = 1 ∧ s.dmaHead d.val c.val ≠ F.DMA_CH_TAIL_TAIL.of v then 2
        else s.fld (F.DMA_CH_STS_STATE.chan c.val) d.val) ∧ DiesBut [d.val] s t ∧ RegsBut [regKey .dma d.val (0x100 + 128 * c.val + 0x20)] s t ∧
      t = { s with dies := t.dies, regs := t.regs } := by
  obtain ⟨d, hd⟩ := d
  obtain ⟨c, hc2⟩ := c
  dsimp only at *
  obtain ⟨u, hu⟩ : ∃ u, u = after (modDma d c fun x => { x with tail := F.DMA_CH_TAIL_TAIL.of v }) s := ⟨_, rfl⟩
  obtain ⟨t, htt⟩ : ∃ t, t = after (whenA (fun s => s.fld (F.DMA_CH_STS_STATE.chan c) d == 1 && s.dmaHead d c != (s.dma d c).tail)
    (setF (F.DMA_CH_STS_STATE.chan c) d 2)) u := ⟨_, rfl⟩
  have cu : u.canon = true := hu ▸ after_canon _ s hc
  have hfu : u = { s with dies := u.dies } := hu ▸ modDma_frame d c _
  have hdu : u.dma d c = { s.dma d c with tail := F.DMA_CH_TAIL_TAIL.of v } := hu ▸ dma_modDma hc d c _
  have hft : t = { u with regs := t.regs } := htt ▸ after_overlay [.regs] (by simp)
  have hfld : ∀ g i, u.fld g i = s.fld g i := fun g i => by
    rw [hfu]
    rfl
  have hkey : 0x120 + 128 * c = 0x100 + 128 * c + 0x20 := by omega
  refine ⟨t, congrArg Host.Outcome.next ?_, ?_, ?_, ?_, ?_, by rw [hft, hfu]⟩
  · rw [hostDmaDoorbell, after_congr (guardW_of_takes (show s.takes src .dma d (0x108 + 128 * c) = true by
      rw [show 0x108 + 128 * c = 0x100 + 128 * c + 8 by omega]; exact ht) _), after_seqA_cons, after_seqA_cons, after_seqA_end, ← hu, htt]
  · rw [hft]
    exact hdu
  · rw [htt, after_whenA, hdu, State.dmaHead, hfld, hfld, ← State.dmaHead]
    by_cases h : s.fld (F.DMA_CH_STS_STATE.chan c) d = 1 ∧ s.dmaHead d c ≠ F.DMA_CH_TAIL_TAIL.of v
    · rw [if_pos (by simpa using h), if_pos h, fld_chan_same cu _ _ _ _ (by decide)]
      rfl
    · rw [if_neg (by simpa using h), if_neg h, hfld]
  · intro e he
    have h1 : t.die e = u.die e := by
      rw [hft]
      rfl
    rw [h1, hu]
    exact diesBut_modDma hc d c _ e he
  · intro k hk
    have h1 := after_regsBut (L := [regKey .dma d (0x100 + 128 * c + 0x20)]) (s := u) cu (a := whenA (fun s => s.fld (F.DMA_CH_STS_STATE.chan c) d == 1 &&
      s.dmaHead d c != (s.dma d c).tail) (setF (F.DMA_CH_STS_STATE.chan c) d 2)) (by simp [Fld.chan, hkey]) k hk
    rw [← htt] at h1
    rw [h1, hfu]

theorem dmaResume_shows (src : Src) (d : Fin 32) (c : Fin 2) (v : Word) (ht : s.takes src .dma d.val (0x100 + 128 * c.val + 0x30) = true)
    (hop : F.DMA_CH_CMD_OP.of v = 1) (hst : s.fld (F.DMA_CH_STS_STATE.chan c.val) d.val = 3) :
    ∃ t, exec (.dmaResume src d c v) s = .next t ∧
      t.fld (F.DMA_CH_STS_STATE.chan c.val) d.val = (if s.dmaHead d.val c.val = (s.dma d.val c.val).tail then 1 else 2) ∧
      RegsBut [regKey .dma d.val (0x100 + 128 * c.val + 0x20)] s t ∧ t = { s with regs := t.regs } := by
  obtain ⟨d, hd⟩ := d
  obtain ⟨c, hc2⟩ := c
  dsimp only at *
  obtain ⟨go, hgo⟩ : ∃ go : Nat, go = if s.dmaHead d c = (s.dma d c).tail then 1 else 2 := ⟨_, rfl⟩
  have hkey : 0x120 + 128 * c = 0x100 + 128 * c + 0x20 := by omega
  refine ⟨after (setF (F.DMA_CH_STS_STATE.chan c) d go) s, congrArg Host.Outcome.next ?_, ?_, after_regsBut hc (by simp [Fld.chan, hkey]), after_overlay [.regs] (by simp)⟩
  · rw [hostDmaResume, dmaCmd, after_congr (guardW_of_takes (show s.takes src .dma d (0x130 + 128 * c) = true by
      rw [show 0x130 + 128 * c = 0x100 + 128 * c + 0x30 by omega]; exact ht) _), hgo]
    exact after_congr (if_pos ⟨hop, hst⟩)
  · rw [fld_chan_same hc _ _ _ _ (by decide), ← hgo]
    have h2 : go < 4 := by
      rw [hgo]
      split <;> decide
    exact Nat.mod_eq_of_lt h2

end

/-! ## ABORT -/

theorem allowed_hostStore {P : State → Eff → Prop} (hS : AllowsSends P) (hlc : ∀ s n l, P s (.port n { s.port n with hlc := l })) (n a : Nat)
    (bs : List Byte) (s : State) : Allowed P (hostStore n a bs s) s := by
  simp only [hostStore, allowed_seqA_cons, allowed_modPort, allowed_seqA_nil, and_true]
  exact ⟨allowed_forA _ _ s fun x _ s => allowed_traisSend hS _ _ s, hlc _ _ _⟩

/-- A move, over what it may write. -/
theorem allowed_dmaMove {P : State → Eff → Prop} (hL : AllowsLines P) (hS : AllowsSnoops P) (hmark : ∀ s l, P s (.poison l))
    (hbyte : ∀ s x v, P s (.byte x v)) (hlc : ∀ s n l, P s (.port n { s.port n with hlc := l })) (hfree : ∀ s n, P s (.free n)) {d c : Nat}
    (hreg : ∀ s x, P s (.reg .dma d (0x138 + 128 * c) x)) (b : List Byte) (port : Nat) (host : List Byte) (n : Nat) (s : State) :
    Allowed P (dmaMove d c b port host n s) s := by
  simp only [dmaMove, allowed_seqA_cons, allowed_whenA, allowed_draw, allowed_iteAct, allowed_bumpW, allowed_seqA_nil, and_true]
  have hput : ∀ a bs s, Allowed P (putStack a bs s) s := fun a bs s => allowed_putStack hS hmark (fun _ _ _ _ _ => hbyte _ _ _) s
  have hst : ∀ a bs s, Allowed P (hostStore port a bs s) s := fun a bs s => allowed_hostStore hS.sends hlc port a bs s
  exact ⟨fun _ => hfree _ _, ⟨fun _ => ⟨fun _ => hst _ _ _, fun _ => allowed_forA _ _ _ fun _ _ s => hst _ _ s⟩,
    fun _ => ⟨fun _ => allowed_sliceWrites_bulk hL _ _ _, fun _ => hput _ _ _, fun _ => allowed_forA _ _ _ fun _ _ s => hput _ _ s⟩⟩, hreg _ _⟩

/-- A free part of a move, over what it may write. -/
theorem allowed_dmaPartial {P : State → Eff → Prop} (hL : AllowsLines P) (hS : AllowsSnoops P) (hmark : ∀ s l, P s (.poison l))
    (hbyte : ∀ s x v, P s (.byte x v)) (hlc : ∀ s n l, P s (.port n { s.port n with hlc := l })) (hfree : ∀ s n, P s (.free n)) {d c : Nat}
    (hreg : ∀ s x, P s (.reg .dma d (0x138 + 128 * c) x)) (b : List Byte) (port : Nat) (s : State) : Allowed P (dmaPartial d c b port s) s := by
  simp only [dmaPartial, allowed_seqA_cons, allowed_draw, allowed_seqA_nil, and_true]
  exact ⟨hfree _ _, allowed_dmaMove hL hS hmark (fun _ _ _ => hbyte _ _ _) hlc hfree hreg _ _ _ _ _⟩

/-- ABORT ends the descriptor at HEAD. -/
def abortNext (d c : Nat) : Act := fun s => dmaWrite d c (s.bytes (s.descAddr d c (s.dmaHead d c)) 32) 0 7 s

theorem after_abortNext (s : State) (d c : Nat) :
    after (abortNext d c) s = after (dmaWrite d c (s.bytes (s.descAddr d c (s.dmaHead d c)) 32) 0 7) s := after_congr rfl

theorem descAddr_congr {s t : State} {d c : Nat} (h : t.dmaReg d c 0 = s.dmaReg d c 0) (n : Nat) : t.descAddr d c n = s.descAddr d c n := by
  simp only [State.descAddr, h]

theorem dmaLog2_le (w : Word) : dmaLog2 w ≤ 17 := by
  simp only [dmaLog2]
  omega

/-- A count wraps at 2^17, of which the ring's size is a divisor. -/
theorem descAddr_mod (s : State) (d c a i : Nat) : s.descAddr d c (a % 2 ^ 17 + i) = s.descAddr d c (a + i) := by
  have hdvd : 2 ^ dmaLog2 (s.dmaReg d c 0) ∣ 2 ^ 17 := pow_dvd_pow 2 (dmaLog2_le _)
  simp only [State.descAddr]
  rw [Nat.add_mod, Nat.mod_mod_of_dvd _ hdvd, ← Nat.add_mod]

/-- Descriptors of different places of a ring lie apart. -/
theorem descAddr_apart (s : State) (d c h : Nat) {i j : Nat} (hij : i < j) (hj : j < i + 2 ^ dmaLog2 (s.dmaReg d c 0)) :
    s.descAddr d c (h + i) + 32 ≤ s.descAddr d c (h + j) ∨ s.descAddr d c (h + j) + 32 ≤ s.descAddr d c (h + i) := by
  obtain ⟨m, hm⟩ : ∃ m, m = 2 ^ dmaLog2 (s.dmaReg d c 0) := ⟨_, rfl⟩
  have hne : (h + i) % m ≠ (h + j) % m := fun he => by
    have hd : m ∣ (h + j) - (h + i) := (Nat.modEq_iff_dvd' (by omega)).1 he
    have hle := Nat.le_of_dvd (by omega) hd
    omega
  simp only [State.descAddr, ← hm]
  omega

theorem bytes_ext {s t : State} {a n : Nat} (h : ∀ z, a ≤ z → z < a + n → t.byte z = s.byte z) : t.bytes a n = s.bytes a n := by
  simp only [State.bytes]
  exact List.map_congr_left fun i hi => h _ (by omega) (by have := List.mem_range.1 hi; omega)

/-- The descriptors of a channel that an ABORT ends, one after another. -/
theorem abortLoop_shows {d c : Nat} (hd : d < 32) (hc2 : c < 2) : ∀ (l : List Nat) {s t : State}, s.canon = true → s.power.drainFor ≠ 3 →
    l.length ≤ 2 ^ dmaLog2 (s.dmaReg d c 0) → t = after (forA l fun _ => abortNext d c) s →
    t.dmaHead d c = (s.dmaHead d c + l.length) % 2 ^ 17 ∧ (t.dma d c).tail = (s.dma d c).tail ∧ DmaOnly d s t ∧
      (∀ i < l.length, t.bytes (s.descAddr d c (s.dmaHead d c + i) + 0x1E) 2 = [7, 0]) ∧
      ∀ z, (∀ i < l.length, z < s.descAddr d c (s.dmaHead d c + i) + 0x1E ∨ s.descAddr d c (s.dmaHead d c + i) + 0x20 ≤ z) → t.byte z = s.byte z := by
  intro l
  induction l with
  | nil =>
    intro s t _ _ _ ht
    rw [ht, after_forA_nil]
    exact ⟨(Nat.mod_eq_of_lt (dmaHead_lt s d c)).symm, rfl, .of_frame rfl, fun i hi => absurd hi (Nat.not_lt_zero i), fun _ _ => rfl⟩
  | cons x l ih =>
    intro s t hc hdr hlen ht
    obtain ⟨u, hu⟩ : ∃ u, u = after (dmaWrite d c (s.bytes (s.descAddr d c (s.dmaHead d c)) 32) 0 7) s := ⟨_, rfl⟩
    have hw : DmaWritten d c 0 7 s u := dmaWrite_written hc hd hc2 hdr _ 0 7 hu
    have ht' : t = after (forA l fun _ => abortNext d c) u := by
      rw [ht, after_forA_cons, hu, after_abortNext]
    rw [List.length_cons] at hlen
    obtain ⟨h1, h2, h3, h4, h5⟩ := ih (hu ▸ after_canon _ s hc) (by rw [hw.only.power_eq]; exact hdr) (by rw [hw.ring]; omega) ht'
    have haddr : ∀ i, u.descAddr d c (u.dmaHead d c + i) = s.descAddr d c (s.dmaHead d c + (i + 1)) := fun i => by
      rw [descAddr_congr hw.ring, hw.head, descAddr_mod s d c (s.dmaHead d c + 1) i, Nat.add_assoc, Nat.add_comm 1]
    have hfar : ∀ i < l.length, ∀ z, s.descAddr d c (s.dmaHead d c) + 0x1E ≤ z → z < s.descAddr d c (s.dmaHead d c) + 0x20 →
        z < s.descAddr d c (s.dmaHead d c + (i + 1)) + 0x1E ∨ s.descAddr d c (s.dmaHead d c + (i + 1)) + 0x20 ≤ z := fun i hi z hz1 hz2 => by
      have h := descAddr_apart s d c (s.dmaHead d c) (i := 0) (j := i + 1) (by omega) (by omega)
      simp only [Nat.add_zero] at h
      omega
    refine ⟨?_, ?_, hw.only.trans h3, fun i hi => ?_, fun z hz => ?_⟩
    · rw [h1, hw.head, List.length_cons, Nat.mod_add_mod, Nat.add_assoc, Nat.add_comm 1]
    · rw [h2, hw.chan]
    · cases i with
      | zero =>
        rw [Nat.add_zero, bytes_ext (s := u) fun z hz1 hz2 => h5 z fun i hi => ?_]
        · exact hw.bytes
        · rw [haddr]
          exact hfar i hi z hz1 (by omega)
      | succ i =>
        rw [← haddr]
        exact h4 i (by rw [List.length_cons] at hi; omega)
    · rw [h5 z fun i hi => ?_, hw.but z ?_]
      · have h0 := hz 0 (by rw [List.length_cons]; omega)
        rw [Nat.add_zero] at h0
        omega
      · rw [haddr]
        exact hz (i + 1) (by rw [List.length_cons]; omega)

section
variable {s : State} (hc : s.canon = true)
include hc

omit hc in
/-- ABORT, no copy of a descriptor being exclusive at the host. -/
theorem after_dmaCmd_abort {src : Src} {d c : Nat} {v : Word} (ht : s.takes src .dma d (0x130 + 128 * c) = true) (hop : F.DMA_CH_CMD_OP.of v = 2)
    (hst : s.fld (F.DMA_CH_STS_STATE.chan c) d = 2 ∨ s.fld (F.DMA_CH_STS_STATE.chan c) d = 3) {addrs : List Nat}
    (haddrs : addrs = (List.range (min (((s.dma d c).tail + 2 ^ 17 - s.dmaHead d c) % 2 ^ 17) (2 ^ dmaLog2 (s.dmaReg d c 0)))).map fun i =>
      s.descAddr d c (s.dmaHead d c + i)) (hheld : addrs.flatMap (fun a => s.heldE a 32) = []) :
    after (dmaCmd src d c v) s = after (seqA [whenA (fun s => (s.dma d c).cur.isSome && (s.dma d c).ending.isNone)
        (fun s => forOpt (s.dma d c).cur (fun b => dmaPartial d c b (F.DMA_CH_CFG_PORT.of (s.dma d c).curCfg)) s),
      forA (List.range (addrs.takeWhile fun a => nbit (s.byte (a + 0x1F)).toNat 0).length) fun _ => abortNext d c,
      modDma d c fun x => { DmaCh.zero with tail := x.tail }, dropReads d c, setF (F.DMA_CH_STS_BUSY.chan c) d 0,
      setF (F.DMA_CH_STS_STATE.chan c) d 1, p2Settle]) s := by
  rw [dmaCmd, after_congr (guardW_of_takes ht _)]
  refine after_congr ?_
  dsimp only
  rw [if_neg (by rw [hop]; simp), if_pos ⟨hop, hst⟩, ← haddrs, hheld, if_neg (by decide)]
  rfl

theorem dmaAbort_shows (src : Src) (d : Fin 32) (c : Fin 2) (v : Word) (hdr : s.power.drainFor ≠ 3)
    (ht : s.takes src .dma d.val (0x100 + 128 * c.val + 0x30) = true) (hop : F.DMA_CH_CMD_OP.of v = 2)
    (hst : s.fld (F.DMA_CH_STS_STATE.chan c.val) d.val = 2 ∨ s.fld (F.DMA_CH_STS_STATE.chan c.val) d.val = 3) {cnt n : Nat}
    (hcnt : cnt = min (((s.dma d.val c.val).tail + 2 ^ 17 - s.dmaHead d.val c.val) % 2 ^ 17) (2 ^ dmaLog2 (s.dmaReg d.val c.val 0)))
    (hn : n = ((List.range cnt).takeWhile fun i => nbit (s.byte (s.descAddr d.val c.val (s.dmaHead d.val c.val + i) + 0x1F)).toNat 0).length)
    (hheld : ∀ i, i < cnt → s.heldE (s.descAddr d.val c.val (s.dmaHead d.val c.val + i)) 32 = []) :
    ∃ t, exec (.dmaAbort src d c v) s = .next t ∧ t.fld (F.DMA_CH_STS_STATE.chan c.val) d.val = 1 ∧
      t.fld (F.DMA_CH_STS_BUSY.chan c.val) d.val = 0 ∧ t.dma d.val c.val = { DmaCh.zero with tail := (s.dma d.val c.val).tail } ∧
      t.dmaHead d.val c.val = (s.dmaHead d.val c.val + n) % 2 ^ 17 ∧
      (∀ i, i < n → t.bytes (s.descAddr d.val c.val (s.dmaHead d.val c.val + i) + 0x1E) 2 = [7, 0]) ∧
      t = { s with
        mem := t.mem, poison := t.poison, snoopF := t.snoopF, regs := t.regs, ports := t.ports, dies := t.dies, free := t.free, out := t.out } := by
  obtain ⟨d, hd⟩ := d
  obtain ⟨c, hc2⟩ := c
  dsimp only at *
  obtain ⟨u, hu⟩ : ∃ u, u = after (whenA (fun s => (s.dma d c).cur.isSome && (s.dma d c).ending.isNone)
    (fun s => forOpt (s.dma d c).cur (fun b => dmaPartial d c b (F.DMA_CH_CFG_PORT.of (s.dma d c).curCfg)) s)) s := ⟨_, rfl⟩
  obtain ⟨w, hw⟩ : ∃ w, w = after (forA (List.range n) fun _ => abortNext d c) u := ⟨_, rfl⟩
  obtain ⟨x, hx⟩ : ∃ x, x = after (modDma d c fun x => { DmaCh.zero with tail := x.tail }) w := ⟨_, rfl⟩
  obtain ⟨y, hy⟩ : ∃ y, y = after (dropReads d c) x := ⟨_, rfl⟩
  obtain ⟨z, hz⟩ : ∃ z, z = after (setF (F.DMA_CH_STS_BUSY.chan c) d 0) y := ⟨_, rfl⟩
  obtain ⟨t, htt⟩ : ∃ t, t = after (setF (F.DMA_CH_STS_STATE.chan c) d 1) z := ⟨_, rfl⟩
  have cu : u.canon = true := hu ▸ after_canon _ s hc
  have cw : w.canon = true := hw ▸ after_canon _ u cu
  have cx : x.canon = true := hx ▸ after_canon _ w cw
  have cy : y.canon = true := hy ▸ after_canon _ x cx
  have cz : z.canon = true := hz ▸ after_canon _ y cy
  have hall : ∀ {P : State → Eff → Prop}, AllowsLines P → AllowsSnoops P → (∀ s l, P s (.poison l)) → (∀ s x v, P s (.byte x v)) →
      (∀ s n l, P s (.port n { s.port n with hlc := l })) → (∀ s n, P s (.free n)) → (∀ s x, P s (.reg .dma d (0x138 + 128 * c) x)) →
      Allowed P (whenA (fun s => (s.dma d c).cur.isSome && (s.dma d c).ending.isNone)
        (fun s => forOpt (s.dma d c).cur (fun b => dmaPartial d c b (F.DMA_CH_CFG_PORT.of (s.dma d c).curCfg)) s) s) s :=
    fun hL hS hm hb hl hf hr => (allowed_whenA _ _ s).2 fun _ => (allowed_forOpt _ _ s).2 fun b _ => allowed_dmaPartial hL hS hm hb hl hf hr b _ s
  have hfu : u = { s with mem := u.mem, poison := u.poison, snoopF := u.snoopF, regs := u.regs, ports := u.ports, dies := u.dies, free := u.free, out := u.out } :=
    hu ▸ after_overlay [.mem, .poison, .snoopF, .regs, .ports, .dies, .free, .out] (hall (allowsLines_onlyFields (by simp)) (allowsSnoops_onlyFields (by simp))
      (by simp) (by simp) (by simp) (by simp) (by simp))
  have hku : ChanKept d s u := hu ▸ chanKept_after hc (hall (allowsLines_offChan hd) (allowsSnoops_offChan hd) (fun _ _ => trivial) (fun _ _ _ => trivial)
    (fun _ _ _ => trivial) (fun _ _ => trivial) fun _ _ o h1 h2 h3 he => by
      have := (regKey_inj (by omega) (by omega) (by omega) (by omega) he).2.2
      unfold chanOff at h3
      omega)
  have hdu : u.dma d c = s.dma d c := dma_of_die (hu ▸ after_dieRel (R := fun _ x y => y.dma0 = x.dma0 ∧ y.dma1 = x.dma1) (fun _ _ => ⟨rfl, rfl⟩)
    (fun _ _ _ _ h1 h2 => ⟨h2.1.trans h1.1, h2.2.trans h1.2⟩) hc (hall (fun s e he => by
      cases e with
      | die k x => exact DieLines.dma he
      | reg => trivial
      | _ => exact he.elim) allowsSnoops_dieRel (fun _ _ => trivial) (fun _ _ _ => trivial) (fun _ _ _ => trivial) (fun _ _ => trivial) fun _ _ => trivial) d) c
  have hpu : u.power = s.power := by rw [hfu]
  have hcntn : n ≤ cnt := by
    rw [hn]
    exact (List.takeWhile_prefix _).length_le.trans_eq List.length_range
  obtain ⟨l1, l2, l3, l4, -⟩ := abortLoop_shows hd hc2 (List.range n) cu (by rw [hpu]; exact hdr)
    (by rw [List.length_range, hku.dmaReg hc2 (by decide)]; omega) hw
  rw [List.length_range] at l1 l4
  have hidle := dropReads_idle cx c hy
  have hdx : x.dma d c = { DmaCh.zero with tail := (w.dma d c).tail } := hx ▸ dma_modDma cw d c _
  have hfx : x = { w with dies := x.dies } := hx ▸ modDma_frame d c _
  have hrt : RegsBut [regKey .dma d (0x120 + 128 * c)] y t := by
    have h : after (seqA [setF (F.DMA_CH_STS_BUSY.chan c) d 0, setF (F.DMA_CH_STS_STATE.chan c) d 1]) y = t := by
      rw [after_seqA_cons, after_seqA_cons, after_seqA_end, ← hz, htt]
    exact h ▸ after_regsBut cy (by simp [Fld.chan])
  have hft : t = { y with regs := t.regs } := by
    have h : after (seqA [setF (F.DMA_CH_STS_BUSY.chan c) d 0, setF (F.DMA_CH_STS_STATE.chan c) d 1]) y = t := by
      rw [after_seqA_cons, after_seqA_cons, after_seqA_end, ← hz, htt]
    exact h ▸ after_overlay [.regs] (by simp)
  have honly : DmaOnly d u t := (l3.trans (hx ▸ dmaOnly_modDma cw d c _)).trans (hidle.only.trans (.of_frame (by rw [hft])))
  have hwt : t.dmaHead d c = w.dmaHead d c := by
    have h1 : t.dmaHead d c = y.dmaHead d c := fld_of_regsBut hrt (by
      rw [List.mem_singleton]
      exact regKey_ne_of_off (by simp only [Fld.chan]; omega))
    have h2 : x.dmaHead d c = w.dmaHead d c := by
      rw [hfx]
      rfl
    rw [h1, hidle.kept.dmaHead hc2, h2]
  have hdt : t.dma d c = x.dma d c := by
    have h1 : t.dma d c = y.dma d c := by
      rw [hft]
      rfl
    rw [h1, hidle.dma]
  have hmem : t.mem = w.mem := by
    have h5 : y.mem = x.mem := hy ▸ after_read_eq (fs := [.ports]) State.mem (allowed_forA _ _ _ fun _ _ _ => by simp) fun _ => rfl
    rw [hft]
    change y.mem = _
    rw [h5, hfx]
  refine ⟨t, congrArg Host.Outcome.next ?_, ?_, ?_, ?_, ?_, fun i hi => ?_, ?_⟩
  · have hnil : (((List.range cnt).map fun i => s.descAddr d c (s.dmaHead d c + i)).flatMap fun a => s.heldE a 32) = [] := by
      rw [List.flatMap_eq_nil_iff]
      intro a ha
      obtain ⟨i, hi, rfl⟩ := List.mem_map.1 ha
      exact hheld i (List.mem_range.1 hi)
    have hlen : (((List.range cnt).map fun i => s.descAddr d c (s.dmaHead d c + i)).takeWhile fun a => nbit (s.byte (a + 0x1F)).toNat 0).length = n := by
      rw [hn, List.takeWhile_map, List.length_map]
      rfl
    change after (dmaCmd src d c v) s = t
    rw [after_dmaCmd_abort (show s.takes src .dma d (0x130 + 128 * c) = true by
      rw [show 0x130 + 128 * c = 0x100 + 128 * c + 0x30 by omega]; exact ht) hop hst (by rw [hcnt]) hnil, hlen]
    simp only [after_seqA_cons, after_seqA_end]
    rw [← hu, ← hw, ← hx, ← hy, ← hz, ← htt]
    exact after_p2Settle (by rw [honly.power_eq, hpu]; exact hdr)
  · rw [htt, fld_chan_same cz _ _ _ _ (by decide)]
    rfl
  · rw [htt, fld_chan_bits cz _ _ _ _ _ (by decide), hz, fld_chan_same cy _ _ _ _ (by decide), Nat.zero_mod]
  · rw [hdt, hdx, l2, hdu]
  · rw [hwt, l1, hku.dmaHead hc2]
  · rw [bytes_congr hmem, ← hku.descAddr hc2, ← hku.dmaHead hc2]
    exact l4 i hi
  · rw [honly.frame, hfu]

end

end Sys2Proof.Machine

open Sys2Proof Sys2Proof.Machine

/-- Settles O49: each command is its effect on the channel's registers; ABORT is one completion after another, at HEAD. -/
theorem dmaControl : Obligations.DmaControl := fun _ src d c v hc hdr =>
  ⟨fun ht => ⟨fun hok => dmaRingWrite_taken hc src d c v ht hok, fun hen hown => dmaRingWrite_discarded src d c v ht hen hown⟩,
    fun ht => dmaDoorbell_shows hc src d c v ht, fun ht hop hst => dmaResume_shows hc src d c v ht hop hst,
    fun ht hop hst hheld => dmaAbort_shows hc src d c v hdr ht hop hst rfl rfl hheld⟩

end

section
/-!
SUPPORT. What the snoop filters hold of a range when copies are invalidated: never more (R424).
-/
namespace Sys2Proof.Machine

/-- What an effect that adds nothing to a snoop filter can be: a filter that loses the entries of some lines, and no change of a window. -/
def Cut (s : State) (e : Eff) : Prop :=
  match e with
  | .filter d x => ∃ q : Nat → Bool, x = (s.filter d).filter fun y => q y.line
  | .win .. | .lost _ => False
  | _ => True

/-- What the filters say of a line in t they say of it in s. -/
def FilterLess (s t : State) : Prop := t.wins = s.wins ∧ ∀ line p, t.sfEntry line = some p → s.sfEntry line = some p

theorem owner_congr {s t : State} (h : t.wins = s.wins) (a : Nat) : t.owner a = s.owner a := by
  have hw : t.win = s.win := funext fun i => by simp only [State.win, h]
  simp only [State.owner, hw]

theorem sfEntry_congr {s t : State} (hw : t.wins = s.wins) (hf : t.snoopF = s.snoopF) (line : Nat) : t.sfEntry line = s.sfEntry line := by
  simp only [State.sfEntry, owner_congr hw, State.filter, hf]

theorem FilterLess.of_eq {s t : State} (hw : t.wins = s.wins) (hf : t.snoopF = s.snoopF) : FilterLess s t :=
  ⟨hw, fun line _ h => sfEntry_congr hw hf line ▸ h⟩

theorem composes_filterLess : Composes FilterLess where
  refl _ := .of_eq rfl rfl
  trans _ _ _ h1 h2 := ⟨h2.1.trans h1.1, fun line p h => h1.2 line p (h2.2 line p h)⟩

theorem find?_filter_line (l : List SfEnt) (q : Nat → Bool) (line : Nat) :
    (l.filter fun y => q y.line).find? (fun e => e.line == line) = if q line = true then l.find? (fun e => e.line == line) else none := by
  rw [List.find?_filter]
  split
  · next h =>
    refine congrArg (l.find? ·) (funext fun e => ?_)
    by_cases he : e.line = line
    · simp [he, h]
    · simp [he]
  · next h =>
    rw [List.find?_eq_none]
    rintro e - he
    simp only [decide_eq_true_eq, beq_iff_eq] at he
    obtain ⟨hq, hl⟩ := he
    exact h (hl ▸ hq)

theorem filterLess_ap {s : State} {e : Eff} (hc : s.canon = true) (h : Cut s e) : FilterLess s (e.ap s) := by
  cases e with
  | filter d x =>
    obtain ⟨q, rfl⟩ := h
    refine ⟨rfl, fun line p hp => ?_⟩
    have ho : ∀ a, ((Eff.filter d ((s.filter d).filter fun y => q y.line)).ap s).owner a = s.owner a := fun a => owner_congr rfl a
    simp only [State.sfEntry, ho, filter_ap_filter s hc] at hp ⊢
    split at hp
    · next hd =>
      rw [find?_filter_line] at hp
      split at hp
      · rw [hd] at hp ⊢
        exact hp
      · exact absurd hp (by simp)
    · exact hp
  | win | lost => exact h.elim
  | _ => exact .of_eq rfl rfl

theorem after_filterLess {a : Act} {s : State} (hc : s.canon = true) (h : Allowed Cut (a s) s) : FilterLess s (after a s) :=
  h.rel composes_filterLess (fun _ _ hc he => filterLess_ap hc he) hc

section
variable {s t : State} (h : FilterLess s t)
include h

theorem FilterLess.heldE {a n : Nat} (hs : s.heldE a n = []) : t.heldE a n = [] := by
  rw [State.heldE, List.filterMap_eq_nil_iff] at hs ⊢
  intro l hl
  have hsl := hs l hl
  cases ht : t.sfEntry l with
  | none => rfl
  | some p =>
    rw [h.2 l p ht] at hsl
    exact hsl

end

/-- A range within another one touches no other host lines. -/
theorem heldE_within {s : State} {a n b m : Nat} (h1 : a ≤ b) (h2 : b + m ≤ a + n) (hs : s.heldE a n = []) : s.heldE b m = [] := by
  rw [State.heldE, List.filterMap_eq_nil_iff] at hs ⊢
  intro l hl
  refine hs l ?_
  obtain ⟨i, hi, rfl⟩ := List.mem_map.1 hl
  have hi' := List.mem_range.1 hi
  refine List.mem_map.2 ⟨b / 64 + i - a / 64, List.mem_range.2 ?_, ?_⟩ <;> omega

/-! ## Invalidations and stores -/

theorem allowed_cut_invalidateS (l : List (Nat × SfEnt)) (s : State) : Allowed Cut (invalidateS l s) s := by
  refine allowed_forA _ _ s fun p _ s => (allowed_seqA_cons _ _ s).2 ⟨allowed_forA _ _ s fun n _ s => ?_, (allowed_seqA_cons _ _ _).2
    ⟨(allowed_modFilter _ _ _).2 ⟨fun line => line != p.2.line, rfl⟩, .nil _⟩⟩
  simp only [sendSnoop, allowed_seqA_cons, allowed_modPort, allowed_bump, allowed_seqA_nil, and_true]
  exact ⟨trivial, trivial, allowed_traisSend (fun n s e he => by
    cases e with
    | port | out => trivial
    | _ => exact he.elim) _ _ _⟩

theorem allowed_cut_putStack (a : Nat) (bs : List Byte) (s : State) : Allowed Cut (putStack a bs s) s := by
  simp only [putStack, allowed_seqA_cons, allowed_whenA, allowed_eff, allowed_seqA_nil, and_true]
  exact ⟨allowed_cut_invalidateS _ s, allowed_putBytes _ _ _ fun _ _ _ _ _ => trivial, fun _ => trivial⟩

theorem allowsLines_cut : AllowsLines Cut := fun s e he => by
  cases e with
  | reg | die => trivial
  | _ => exact he.elim

end Sys2Proof.Machine
end

section
/-!
SUPPORT. A descriptor's check, its move, and its end (R434–R441, R443).
-/
namespace Sys2Proof.Machine

/-! ## The end of a descriptor -/

/-- What the completion of the descriptor at HEAD of s leaves in t. -/
def DmaEnded (d c : Nat) (cfg : Word) (code : Nat) (s t : State) : Prop :=
  t.bytes (s.descAddr d c (s.dmaHead d c) + 0x1E) 2 = [BitVec.ofNat 8 code, 0] ∧
    t.dmaHead d c = (s.dmaHead d c + 1) % 2 ^ 17 ∧ t.dma d c = { DmaCh.zero with tail := (s.dma d c).tail } ∧
    t.fld (F.DMA_CH_DESC_DONE.chan c) d = min (s.fld (F.DMA_CH_DESC_DONE.chan c) d + 1) F.DMA_CH_DESC_DONE.top ∧
    t.fld (F.DMA_CH_STS_STATE.chan c) d = (if code ≠ 0 ∧ F.DMA_CH_CFG_HALT_ERR.of cfg = 1 then 3
      else if (s.dmaHead d c + 1) % 2 ^ 17 = (s.dma d c).tail then 1 else 2) ∧
    (code ≠ 0 → t.fld (F.DMA_CH_STS_LAST_ERR.chan c) d = code % 256 ∧ t.fld (F.DMA_CH_ERR_IDX.chan c) d = s.dmaHead d c)

/-- What a completion goes by is in w as in s. -/
structure SameEnd (d c : Nat) (s w : State) : Prop where
  head : w.dmaHead d c = s.dmaHead d c
  addr : ∀ n, w.descAddr d c n = s.descAddr d c n
  tail : (w.dma d c).tail = (s.dma d c).tail
  done : w.fld (F.DMA_CH_DESC_DONE.chan c) d = s.fld (F.DMA_CH_DESC_DONE.chan c) d
  state : w.fld (F.DMA_CH_STS_STATE.chan c) d = s.fld (F.DMA_CH_STS_STATE.chan c) d

section
variable {d c : Nat}

theorem SameEnd.trans {r s w : State} (h1 : SameEnd d c r s) (h2 : SameEnd d c s w) : SameEnd d c r w :=
  ⟨h2.head.trans h1.head, fun n => (h2.addr n).trans (h1.addr n), h2.tail.trans h1.tail, h2.done.trans h1.done, h2.state.trans h1.state⟩

theorem ChanKept.sameEnd {s w : State} (hk : ChanKept d s w) (hc2 : c < 2) (htail : (w.dma d c).tail = (s.dma d c).tail) : SameEnd d c s w :=
  ⟨hk.dmaHead hc2, hk.descAddr hc2, htail, hk.fld hc2 (by decide), hk.fld hc2 (by decide)⟩

theorem SameEnd.ended {cfg : Word} {code : Nat} {s w t : State} (h : SameEnd d c s w) (he : DmaEnded d c cfg code w t) : DmaEnded d c cfg code s t := by
  obtain ⟨h1, h2, h3, h4, -⟩ := h
  simp only [DmaEnded, h1, h2, h3, h4] at he
  exact he

theorem DmaWritten.ended {cfg : Word} {code : Nat} {w t : State} (h : DmaWritten d c cfg code w t) (hst : w.fld (F.DMA_CH_STS_STATE.chan c) d = 2) :
    DmaEnded d c cfg code w t := by
  obtain ⟨hb, -, hh, hch, hdn, hs, he, -, -⟩ := h
  rw [hst, if_neg (by decide)] at hs
  exact ⟨hb, hh, hch, hdn, hs, he⟩

/-- A descriptor in progress ends with a STATUS: its completion is written where no host copy of its line is exclusive. -/
theorem dmaEnd_shows (hd : d < 32) (hc2 : c < 2) {w t : State} (hc : w.canon = true) (hdr : w.power.drainFor ≠ 3)
    (hst : w.fld (F.DMA_CH_STS_STATE.chan c) d = 2) {b : List Byte} (hcur : (w.dma d c).cur = some b)
    (hheld : w.heldE (w.descAddr d c (w.dmaHead d c) + 0x1E) 2 = []) {code : Nat} (ht : t = after (dmaEnd d c code) w) :
    DmaEnded d c (w.dma d c).curCfg code w t ∧ BytesBut (w.descAddr d c (w.dmaHead d c) + 0x1E) 2 w t ∧ DmaOnly d w t := by
  obtain ⟨x, hx⟩ : ∃ x, x = after (modDma d c fun x => { x with ending := some code, flushing := false }) w := ⟨_, rfl⟩
  have cx : x.canon = true := hx ▸ after_canon _ w hc
  have hfx : x = { w with dies := x.dies } := hx ▸ modDma_frame d c _
  have hdx : x.dma d c = { w.dma d c with ending := some code, flushing := false } := hx ▸ dma_modDma hc d c _
  have hkx : ChanKept d w x := fun _ _ _ _ => by
    rw [hfx]
    rfl
  have hsame : SameEnd d c w x := hkx.sameEnd hc2 (by rw [hdx])
  have hheldx : (x.heldE (x.descAddr d c (x.dmaHead d c) + 0x1E) 2).isEmpty = true := by
    rw [hsame.head, hsame.addr, FilterLess.heldE (.of_eq (by rw [hfx]) (by rw [hfx])) hheld]
    rfl
  have hw : DmaWritten d c (w.dma d c).curCfg code x t := by
    refine dmaWrite_written cx hd hc2 (by rw [hfx]; exact hdr) b _ code ?_
    rw [ht, dmaEnd, after_seqA_cons, ← hx, after_seqA_cons, after_seqA_end]
    refine after_congr ?_
    simp only [dmaTry, hdx, hcur, hheldx, if_true]
  have hbut := hw.but
  rw [hsame.head, hsame.addr] at hbut
  refine ⟨hsame.ended (hw.ended (hsame.state.trans hst)), fun z hz => (hbut z hz).trans ?_, (hx ▸ dmaOnly_modDma hc d c _).trans hw.only⟩
  rw [hfx]
  rfl

end

/-! ## Asking for the host's lines -/

/-- A channel's count of lines got is all that may differ. -/
def DmaAsks (x y : Die) : Prop :=
  y = { x with dma0 := { x.dma0 with got := y.dma0.got }, dma1 := { x.dma1 with got := y.dma1.got } }

theorem allowed_hostAsk {P : State → Eff → Prop} (hS : AllowsSends P)
    (hread : ∀ s n l g, P s (.port n { s.port n with reads := l, rdTag := g })) (n ch line : Nat) (flush : Bool) (addr len : Nat) (s : State) :
    Allowed P (hostAsk n ch line flush addr len s) s := by
  simp only [hostAsk, allowed_seqA_cons, allowed_modPort, allowed_seqA_nil, and_true]
  exact ⟨hread _ _ _ _, allowed_traisSend hS _ _ _⟩

/-- What asking for the source's lines may write. -/
theorem allowed_dmaAsk {P : State → Eff → Prop} (hS : AllowsSends P) (hread : ∀ s n l g, P s (.port n { s.port n with reads := l, rdTag := g }))
    (hkeep : ∀ s n line bs, P s (.port n ((s.port n).keepLine line bs)))
    (hreg : ∀ s n o x, o = F.TRL_HLC_HIT.off ∨ o = F.TRL_HLC_MISS.off → P s (.reg .trl n o x)) {d : Nat} (c : Nat)
    (hdie : ∀ s x, DmaAsks (s.die d) x → P s (.die d x)) : ∀ (n : Nat) (s : State), Allowed P (dmaAsk d c n s) s
  | 0, s => allowed_skip s
  | n + 1, s => by
    have ih := allowed_dmaAsk hS hread hkeep hreg c hdie n
    rw [dmaAsk]
    dsimp only
    split
    · exact .nil s
    · split
      · exact .nil s
      · split
        · simp only [allowed_seqA_cons, allowed_bump, allowed_modPort, modDma, allowed_modDie, allowed_seqA_nil, and_true]
          refine ⟨hreg _ _ _ _ (.inl rfl), hkeep _ _ _ _, hdie _ _ ?_, ih _⟩
          split <;> rfl
        · simp only [allowed_seqA_cons, allowed_bump, allowed_seqA_nil, and_true]
          exact ⟨hreg _ _ _ _ (.inr rfl), allowed_hostAsk hS hread _ _ _ _ _ _ _⟩

/-- What asking for lines leaves: of the channels all but their counts of lines, memory, and every other die. -/
theorem dmaAsk_shows {s : State} (hc : s.canon = true) {d c : Nat} (hd : d < 32) (n : Nat) {t : State} (ht : t = after (dmaAsk d c n) s) :
    t = { s with regs := t.regs, ports := t.ports, dies := t.dies, out := t.out } ∧ DiesBut [d] s t ∧ DmaAsks (s.die d) (t.die d) ∧ ChanKept d s t := by
  have hall : ∀ {P : State → Eff → Prop}, AllowsSends P → (∀ s n x, P s (.port n x)) → (∀ s n o x, o < 65536 → P s (.reg .trl n o x)) →
      (∀ s x, DmaAsks (s.die d) x → P s (.die d x)) → Allowed P (dmaAsk d c n s) s := fun hS hp hr hdie =>
    allowed_dmaAsk hS (fun _ _ _ _ => hp _ _ _) (fun _ _ _ _ => hp _ _ _) (fun _ _ o _ ho => hr _ _ _ _ (by
      obtain rfl | rfl := ho <;> decide)) c hdie n s
  have hsend : ∀ {P : State → Eff → Prop}, (∀ s n x, P s (.port n x)) → (∀ s o, P s (.out o)) → AllowsSends P := fun hp ho n s e he => by
    cases e with
    | port => exact hp _ _ _
    | out => exact ho _ _
    | _ => exact he.elim
  refine ⟨ht ▸ after_overlay [.regs, .ports, .dies, .out] (hall (allowsSends_onlyFields (by simp)) (by simp) (by simp) (by simp)),
    ht ▸ after_diesBut hc (hall (hsend (fun _ _ _ => trivial) fun _ _ => trivial) (fun _ _ _ => trivial) (fun _ _ _ _ _ => trivial)
      fun _ _ _ => .inl (List.mem_singleton_self _)),
    ht ▸ after_dieRel (R := fun _ => DmaAsks) (fun _ _ => rfl) (fun _ x y z h1 h2 => ?_) hc (hall (hsend (fun _ _ _ => trivial) fun _ _ => trivial)
      (fun _ _ _ => trivial) (fun _ _ _ _ _ => trivial) fun _ _ h => h) d,
    ht ▸ chanKept_after hc (hall allowsSends_regIn (fun _ _ _ => trivial) (fun _ n o _ ho => offChan_trl hd n ho) fun _ _ _ => trivial)⟩
  rw [DmaAsks] at *
  rw [h2, h1]

theorem DmaAsks.dma {d : Nat} {s t : State} (h : DmaAsks (s.die d) (t.die d)) (c : Nat) : t.dma d c = { s.dma d c with got := (t.dma d c).got } := by
  rw [DmaAsks] at h
  simp only [State.dma]
  split
  · exact congrArg Die.dma0 h
  · exact congrArg Die.dma1 h

theorem dmaOnly_dmaAsk {s : State} (hc : s.canon = true) {d c : Nat} (hd : d < 32) (n : Nat) {t : State} (ht : t = after (dmaAsk d c n) s) : DmaOnly d s t := by
  obtain ⟨hf, hdies, -, -⟩ := dmaAsk_shows hc hd n ht
  refine ⟨by rw [hf], fun e he => ?_⟩
  rw [hdies e (by simpa using he)]
  exact DieSlices.refl _

/-! ## A descriptor is taken -/

/-- A channel that has taken descriptor b. -/
def DmaCh.took (x : DmaCh) (b : List Byte) (cfg : Word) (now : BitVec 64) : DmaCh :=
  { x with
    cur := some b, curCfg := cfg, bursts := 1, issued := now, got := 0, flushing := false }

/-- What becomes of a descriptor taken: its completion where a check failed, its source's lines otherwise. -/
def dmaStart (d c code : Nat) : Act := if code ≠ 0 then dmaEnd d c code else dmaAsk d c (2 ^ 26 + 2)

theorem dmaCheck_eq {s r : State} (h : ButSlices [] s r) (hf : ∀ g i, sliceOff (g.off % 65536) = false ∧ (g.off % 65536 < 0x400 ∨ 0x800 ≤ g.off % 65536) →
    r.fld g i = s.fld g i) (d : Nat) (b : List Byte) (cfg : Word) (bad : Bool) : r.dmaCheck d b cfg bad = s.dmaCheck d b cfg bad := by
  have hport : ∀ n, r.portPart n = s.portPart n := fun n => by simp only [State.portPart, h.ptab_eq]
  have hdebug : r.debug = s.debug := hf F.SEC_STS_DEBUG 0 (by decide)
  have hreach : ∀ p, r.reaches p none = s.reaches p none := fun p => funext fun q => by
    simp only [State.reaches, hport, hdebug, hf F.SEC_STS_SCOPE 0 (by decide), hf F.SEC_STS_DBG_PART 0 (by decide), hf F.SEC_STS_DBG_PORT 0 (by decide)]
  have hgran : ∀ ok a n, r.inGranules ok a n = s.inGranules ok a n := fun ok a n => by simp only [State.inGranules, h.granPart_eq]
  have hrange : ∀ p x n, r.dmaRange p x n = s.dmaRange p x n := fun p x n => by
    simp only [State.dmaRange, hreach, hgran, h.part_eq]
  simp only [State.dmaCheck, h.part_eq, hrange, hport, hf F.TRL_LNK_STS_STATE _ (by decide)]

section
variable {s : State} (hc : s.canon = true) {d : Fin 32} {c : Fin 2} (hst : s.fld (F.DMA_CH_STS_STATE.chan c.val) d.val = 2)
include hc hst

theorem dmaDescriptor_acts (hcur : (s.dma d.val c.val).cur = none) (hps : s.pstate ≤ 1) (hdr : s.power.drainFor ≠ 3)
    (htail : s.dmaHead d.val c.val ≠ (s.dma d.val c.val).tail) {a : Nat} (ha : a = s.descAddr d.val c.val (s.dmaHead d.val c.val)) (hheld : s.heldE a 32 = [])
    {r : State} (hr : r = after (sliceReads true a 32) s) {b : List Byte} (hb : b = s.bytes a 32) {cfg : Word} (hcfg : cfg = s.dmaReg d.val c.val 0x18) :
    exec (.dmaDescriptor d c) s = .next (after (if nbit (leAt b 0x1F 1) 0 = false then setF (F.DMA_CH_STS_STATE.chan c.val) d.val 1
      else seqA [modDma d.val c.val fun _ => (s.dma d.val c.val).took b cfg r.mile, setF (F.DMA_CH_STS_BUSY.chan c.val) d.val 1,
        dmaStart d.val c.val (s.dmaCheck d.val b cfg (s.poisoned a 32))]) r) := by
  have hsl : ButSlices [] s r := hr ▸ butSlices_sliceReads hc true a 32
  have hfld : ∀ g i, sliceOff (g.off % 65536) = false ∧ (g.off % 65536 < 0x400 ∨ 0x800 ≤ g.off % 65536) → r.fld g i = s.fld g i := fun g i ho =>
    hr ▸ fld_sliceReads hc true a 32 g i ho
  have hk : ChanKept d.val s r := hr ▸ chanKept_after hc (allowed_sliceReads (P := regIn (offChan d.val)) (fun s e he => by
    cases e with
    | reg b i o v =>
      obtain he | ⟨rfl, h⟩ := he
      · exact offChan_evt he
      · exact offChan_stk d.isLt h
    | _ => trivial) true a 32 s)
  have hgo : ¬ (s.fld (F.DMA_CH_STS_STATE.chan c.val) d.val ≠ 2 ∨ (s.dma d.val c.val).cur.isSome = true ∨ 1 < s.pstate ∨ s.power.drainFor = 3) := by
    rw [hst, hcur]
    simp only [Option.isSome_none, Bool.false_eq_true, false_or, not_or]
    omega
  refine congrArg Host.Outcome.next ?_
  refine (after_congr ((if_neg hgo).trans (if_neg htail))).trans ?_
  rw [← ha, after_unitRead (by rw [hheld]; rfl), ← hr]
  refine after_congr ?_
  dsimp only
  rw [hsl.bytes_eq, ← hb, hk.dmaReg c.isLt (by decide), ← hcfg, hsl.poisoned_eq, dmaCheck_eq hsl hfld]
  split <;> rfl

omit hc hst in
/-- A read of marked words beside, work of a channel changes what it may change. -/
theorem DmaOnly.read {d : Nat} {r t : State} (h1 : ButSlices [] s r) (h2 : DmaOnly d r t) :
    DmaOnly d s { t with
      poison := s.poison, nvm := s.nvm, keeper := s.keeper, free := s.free } := by
  refine ⟨?_, fun e he => (h1.die_eq e).trans (h2.dies e he)⟩
  obtain ⟨hf, -⟩ := h2
  rw [hf, h1.frame]
  rfl

omit hc hst in
theorem DmaOnly.of_lines {d : Nat} {r : State} (h : LinesOnly s r) : DmaOnly d s r := by
  obtain ⟨h1, h2, -⟩ := h
  exact ⟨by rw [h1], fun e _ => dieSlices_of_lines (h2 e)⟩

omit hc hst in
/-- What a descriptor taken shows before its check counts. -/
theorem dmaTook_shows {x : DmaCh} (hx : x.tail = (s.dma d.val c.val).tail) {r : State} (hcr : r.canon = true) (hk : ChanKept d.val s r) {w : State}
    (hw : w = after (seqA [modDma d.val c.val fun _ => x, setF (F.DMA_CH_STS_BUSY.chan c.val) d.val 1]) r) :
    w.dma d.val c.val = x ∧ w.fld (F.DMA_CH_STS_BUSY.chan c.val) d.val = 1 ∧ SameEnd d.val c.val s w ∧
      w = { r with dies := w.dies, regs := w.regs } ∧ DmaOnly d.val r w ∧ w.canon = true := by
  obtain ⟨u, hu⟩ : ∃ u, u = after (modDma d.val c.val fun _ => x) r := ⟨_, rfl⟩
  have cu : u.canon = true := hu ▸ after_canon _ r hcr
  have hfu : u = { r with dies := u.dies } := hu ▸ modDma_frame _ _ _
  have hdu : u.dma d.val c.val = x := hu ▸ dma_modDma hcr _ _ _
  have hku : ChanKept d.val s u := hk.trans fun _ _ _ _ => by
    rw [hfu]
    rfl
  have hwu : w = after (setF (F.DMA_CH_STS_BUSY.chan c.val) d.val 1) u := by rw [hw, after_seqA_cons, ← hu, after_seqA_cons, after_seqA_end]
  have hfw : w = { u with regs := w.regs } := hwu ▸ after_overlay [.regs] (by simp)
  have hdw : w.dma d.val c.val = x := by
    refine Eq.trans ?_ hdu
    rw [hfw]
    rfl
  have hring : w.dmaReg d.val c.val 0 = u.dmaReg d.val c.val 0 := by
    have hr : RegsBut [regKey .dma d.val (0x120 + 128 * c.val)] u w := hwu ▸ after_regsBut cu (by simp [Fld.chan])
    simp only [State.dmaReg, State.reg]
    refine hr _ ?_
    rw [List.mem_singleton]
    exact regKey_ne_of_off (by omega)
  have hsame : SameEnd d.val c.val u w := ⟨hwu ▸ fld_chan_off cu _ _ _ _ (by decide), fun n => by simp only [State.descAddr, hring], by rw [hdw, hdu],
    hwu ▸ fld_chan_off cu _ _ _ _ (by decide), hwu ▸ fld_chan_bits cu _ _ _ _ _ (by decide)⟩
  refine ⟨hdw, ?_, (hku.sameEnd c.isLt (by rw [hdu, hx])).trans hsame, by rw [hfw, hfu],
    (hu ▸ dmaOnly_modDma hcr _ _ _ : DmaOnly d.val r u).trans (.of_frame (by rw [hfw])), hwu ▸ after_canon _ u cu⟩
  rw [hwu, fld_chan_same cu _ _ _ _ (by decide)]
  rfl

theorem dmaDescriptor_shows (hcur : (s.dma d.val c.val).cur = none) (hps : s.pstate ≤ 1) (hdr : s.power.drainFor ≠ 3)
    (htail : s.dmaHead d.val c.val ≠ (s.dma d.val c.val).tail) {a : Nat} (ha : a = s.descAddr d.val c.val (s.dmaHead d.val c.val)) (hheld : s.heldE a 32 = [])
    {b : List Byte} (hb : b = s.bytes a 32) {cfg : Word} (hcfg : cfg = s.dmaReg d.val c.val 0x18) {code : Nat}
    (hcode : code = s.dmaCheck d.val b cfg (s.poisoned a 32)) :
    (nbit (leAt b 0x1F 1) 0 = false → ∃ t, exec (.dmaDescriptor d c) s = .next t ∧ t.fld (F.DMA_CH_STS_STATE.chan c.val) d.val = 1 ∧
      ButSlices [regKey .dma d.val (0x120 + 128 * c.val)] s t) ∧
    (nbit (leAt b 0x1F 1) 0 = true → code ≠ 0 → ∃ t, exec (.dmaDescriptor d c) s = .next t ∧ DmaEnded d.val c.val cfg code s t ∧
      BytesBut (a + 0x1E) 2 s t ∧ DmaOnly d.val s { t with
        poison := s.poison, nvm := s.nvm, keeper := s.keeper, free := s.free } ∧ (s.poison = [] → DmaOnly d.val s t)) ∧
    (nbit (leAt b 0x1F 1) 0 = true → code = 0 → ∃ t, exec (.dmaDescriptor d c) s = .next t ∧ (t.dma d.val c.val).cur = some b ∧
      t.fld (F.DMA_CH_STS_BUSY.chan c.val) d.val = 1 ∧ t.fld (F.DMA_CH_STS_STATE.chan c.val) d.val = 2 ∧ t.mem = s.mem ∧ t.snoopF = s.snoopF ∧
      DmaOnly d.val s { t with
        poison := s.poison, nvm := s.nvm, keeper := s.keeper, free := s.free } ∧ (s.poison = [] → DmaOnly d.val s t)) := by
  obtain ⟨r, hr⟩ : ∃ r, r = after (sliceReads true a 32) s := ⟨_, rfl⟩
  have hact := dmaDescriptor_acts hc hst hcur hps hdr htail ha hheld hr hb hcfg
  have hcr : r.canon = true := hr ▸ after_canon _ s hc
  have hsl : ButSlices [] s r := hr ▸ butSlices_sliceReads hc true a 32
  have hlines : s.poison = [] → DmaOnly d.val s r := fun hp => .of_lines (hr ▸ linesOnly_sliceReads hc hp true a 32)
  have hk : ChanKept d.val s r := hr ▸ chanKept_after hc (allowed_sliceReads (P := regIn (offChan d.val)) (fun s e he => by
    cases e with
    | reg b i o v =>
      obtain he | ⟨rfl, h⟩ := he
      · exact offChan_evt he
      · exact offChan_stk d.isLt h
    | _ => trivial) true a 32 s)
  refine ⟨fun h0 => ?_, fun h1 hne => ?_, fun h1 h0 => ?_⟩
  · rw [if_pos h0] at hact
    refine ⟨_, hact, ?_, ?_⟩
    · rw [fld_chan_same hcr _ _ _ _ (by decide)]
      rfl
    · refine (composes_slices _).trans _ _ _ (hsl.mono (List.nil_subset _)) (butSlices_of_regsBut (after_overlay [.regs] (by simp)) (after_regsBut hcr ?_))
      simp [Fld.chan]
  all_goals
    obtain ⟨w, hw⟩ : ∃ w, w = after (seqA [modDma d.val c.val fun _ => (s.dma d.val c.val).took b cfg r.mile, setF (F.DMA_CH_STS_BUSY.chan c.val) d.val 1]) r :=
      ⟨_, rfl⟩
    obtain ⟨t, ht⟩ : ∃ t, t = after (dmaStart d.val c.val code) w := ⟨_, rfl⟩
    obtain ⟨hdw, hbusy, hsame, hfw, how, cw⟩ := dmaTook_shows (show ((s.dma d.val c.val).took b cfg r.mile).tail = _ from rfl) hcr hk hw
    rw [if_neg (by simp [h1]), ← hcode] at hact
    have hex : exec (.dmaDescriptor d c) s = .next t := by
      rw [hact, ht, hw]
      simp only [after_seqA_cons, after_seqA_end]
    have hfl : FilterLess s w := .of_eq (by rw [hfw, hsl.frame]; rfl) (by rw [hfw, hsl.frame]; rfl)
    have hbw : ∀ z, w.byte z = s.byte z := fun z => by
      rw [← hsl.byte_eq z, hfw]
      rfl
  · obtain ⟨e1, e2, e3⟩ := dmaEnd_shows (t := t) (code := code) d.isLt c.isLt cw (by rw [hfw, hsl.frame]; exact hdr) (hsame.state.trans hst) (b := b) (by rw [hdw]; rfl)
      (by
        rw [hsame.head, hsame.addr, ← ha]
        exact hfl.heldE (heldE_within (by omega) (by omega) hheld)) (by rw [ht, dmaStart, if_pos hne])
    rw [hsame.head, hsame.addr, ← ha] at e2
    rw [hdw] at e1
    exact ⟨t, hex, hsame.ended e1, fun z hz => (e2 z hz).trans (hbw z), .read hsl (how.trans e3), fun hp => (hlines hp).trans (how.trans e3)⟩
  · have ht' : t = after (dmaAsk d.val c.val (2 ^ 26 + 2)) w := by
      rw [ht, dmaStart, h0]
      rfl
    obtain ⟨a1, a2, a3, a4⟩ := dmaAsk_shows cw d.isLt _ ht'
    have hot := dmaOnly_dmaAsk cw d.isLt _ ht'
    refine ⟨t, hex, ?_, (a4.fld c.isLt (by decide)).trans hbusy, (a4.fld c.isLt (by decide)).trans (hsame.state.trans hst), ?_, ?_, .read hsl (how.trans hot),
      fun hp => (hlines hp).trans (how.trans hot)⟩
    · rw [a3.dma, hdw]
      rfl
    · rw [a1, hfw]
      exact hsl.mem_eq
    · rw [a1, hfw, hsl.frame]
      rfl

end

/-! ## The move -/

/-- A step of a unit's accesses before a move: nothing of the channels, of memory or of the poison, and no copy more at the host. -/
structure DmaReady (d : Nat) (s t : State) : Prop where
  idle : DmaIdle d s t
  mem : t.mem = s.mem
  poison : t.poison = s.poison
  less : FilterLess s t

theorem DmaReady.trans {d : Nat} {a b c : State} (h1 : DmaReady d a b) (h2 : DmaReady d b c) : DmaReady d a c :=
  ⟨h1.idle.trans h2.idle, h2.mem.trans h1.mem, h2.poison.trans h1.poison, composes_filterLess.trans _ _ _ h1.less h2.less⟩

theorem DmaReady.refl (d : Nat) (s : State) : DmaReady d s s := ⟨⟨.of_frame rfl, fun _ _ _ _ => rfl, fun _ => rfl⟩, rfl, rfl, composes_filterLess.refl s⟩

section
variable {s : State} (hc : s.canon = true) {d : Nat} (hd : d < 32)
include hc hd

omit hc hd in
theorem dmaReady_of_lines {t : State} (h : LinesOnly s t) (hk : ChanKept d s t) : DmaReady d s t := by
  obtain ⟨h1, h2, -⟩ := id h
  exact ⟨⟨.of_lines h, hk, dma_of_die (h2 d).dma⟩, by rw [h1], by rw [h1], .of_eq (by rw [h1]) (by rw [h1])⟩

theorem dmaReady_sliceReads (hp : s.poison = []) (a n : Nat) : DmaReady d s (after (sliceReads true a n) s) :=
  dmaReady_of_lines (linesOnly_sliceReads hc hp true a n) (chanKept_after hc (allowed_sliceReads (P := regIn (offChan d)) (fun s e he => by
    cases e with
    | reg b i o v =>
      obtain he | ⟨rfl, h⟩ := he
      · exact offChan_evt he
      · exact offChan_stk hd h
    | _ => trivial) true a n s))

theorem dmaReady_sliceWrites (hp : s.poison = []) (a n : Nat) : DmaReady d s (after (sliceWrites true a n) s) :=
  dmaReady_of_lines (linesOnly_sliceWrites hc hp true a n) (chanKept_after hc (allowed_sliceWrites_bulk (allowsLines_offChan hd) a n s))

theorem dmaReady_invalidateS (l : List (Nat × SfEnt)) : DmaReady d s (after (invalidateS l) s) := by
  have hf : after (invalidateS l) s = { s with
      regs := (after (invalidateS l) s).regs, ports := (after (invalidateS l) s).ports, snoopF := (after (invalidateS l) s).snoopF
      out := (after (invalidateS l) s).out } :=
    after_overlay [.regs, .ports, .snoopF, .out] (allowed_invalidateS (allowsSnoops_onlyFields (by simp)) l s)
  exact ⟨⟨.of_frame (by rw [hf]), chanKept_after hc (allowed_invalidateS (allowsSnoops_offChan hd) l s), fun c => by rw [hf]; rfl⟩, by rw [hf], by rw [hf],
    after_filterLess hc (allowed_cut_invalidateS l s)⟩

end

/-- A move from stack memory without poison to stack memory: the source's bytes are put at the destination, and counted. -/
theorem after_dmaMove_device {s : State} {b : List Byte} (hp : s.poison = []) (hx : (descSide b 0).space = 0 ∧ (descSide b 0).fixed = false)
    (hy : (descSide b 1).space = 0 ∧ (descSide b 1).fixed = false) (d c port : Nat) (host : List Byte) (n : Nat) :
    after (dmaMove d c b port host n) s = after (bumpW (F.DMA_CH_BYTES_BYTES.chan c) d n) (after (putStack (descSide b 1).addr (s.bytes (descSide b 0).addr n))
      (after (whenA (fun _ => !(List.range n).isEmpty && !(descSide b 1).sram) (sliceWrites true (descSide b 1).addr n)) s)) := by
  obtain ⟨hxs, hxf⟩ := hx
  obtain ⟨hys, hyf⟩ := hy
  have hat : ∀ j, (descSide b 0).at_ j = (descSide b 0).addr + j := fun j => by simp [DmaSide.at_, hxf]
  have hbyte : ∀ j, s.dmaByte b port host j = s.byte ((descSide b 0).addr + j) := fun j => by simp [State.dmaByte, hxs, hat]
  have hspan : (descSide b 1).span n = n := by simp [DmaSide.span, hyf]
  have hsnd : ((List.range n).map fun j => ((descSide b 1).at_ j, s.dmaByte b port host j)).map Prod.snd = s.bytes (descSide b 0).addr n := by
    simp only [List.map_map, State.bytes]
    exact List.map_congr_left fun j _ => hbyte j
  have hall : ((List.range n).all fun _ => true) = true := by simp
  refine (after_congr (b := seqA [skip, seqA [whenA (fun _ => !(List.range n).isEmpty && !(descSide b 1).sram) (sliceWrites true (descSide b 1).addr n),
    putStack (descSide b 1).addr (s.bytes (descSide b 0).addr n)], bumpW (F.DMA_CH_BYTES_BYTES.chan c) d n]) ?_).trans ?_
  · simp only [dmaMove, hp, hxs, hys, hyf, hspan, List.isEmpty_nil, Bool.not_true, Bool.and_false, Bool.false_and, Bool.not_false, List.filter_true, Bool.and_true,
      hall, zero_ne_one, if_false, if_true, hsnd, List.length_map, List.length_range, List.isEmpty_map]
    rfl
  · simp only [after_seqA_cons, after_seqA_end, after_skipped]

/-- A move from stack memory to the host, over what it may write. -/
theorem allowed_dmaMove_host {P : State → Eff → Prop} (hS : AllowsSends P) (hlc : ∀ s n l, P s (.port n { s.port n with hlc := l })) {d c : Nat}
    (hreg : ∀ s x, P s (.reg .dma d (0x138 + 128 * c) x)) {b : List Byte} (hx : (descSide b 0).space = 0) (hy : (descSide b 1).space = 1) (port : Nat)
    (host : List Byte) (n : Nat) (s : State) : Allowed P (dmaMove d c b port host n s) s := by
  have hst : ∀ a bs s, Allowed P (hostStore port a bs s) s := fun a bs s => allowed_hostStore hS hlc port a bs s
  simp only [dmaMove, allowed_seqA_cons, allowed_whenA, allowed_iteAct, allowed_bumpW, allowed_seqA_nil, and_true]
  exact ⟨fun h => absurd h (by simp [hx]), ⟨fun _ => ⟨fun _ => hst _ _ _, fun _ => allowed_forA _ _ _ fun _ _ s => hst _ _ s⟩, fun h => absurd hy h⟩, hreg _ _⟩

/-- The host is asked for a read. -/
theorem hostAsk_reads {s : State} (hc : s.canon = true) (n ch line : Nat) (flush : Bool) (addr len : Nat) {t : State}
    (ht : t = after (hostAsk n ch line flush addr len) s) : (∃ r ∈ (t.port n).reads, r.flush = flush ∧ r.ch = ch) ∧
      t = { s with ports := t.ports, out := t.out } := by
  obtain ⟨u, hu⟩ : ∃ u, u = after (modPort n fun p => { p with reads := p.reads ++ [⟨(s.port n).rdTag, ch, line, flush⟩], rdTag := ((s.port n).rdTag + 1) % 65536 }) s :=
    ⟨_, rfl⟩
  have hcu : u.canon = true := hu ▸ after_canon _ s hc
  have hpu : (u.port n).reads = (s.port n).reads ++ [⟨(s.port n).rdTag, ch, line, flush⟩] := by
    rw [hu, modPort, after_eff, port_ap_port s hc, if_pos rfl]
  have htu : t = after (traisSend n (.rd (s.port n).rdTag addr len (!flush))) u := by
    rw [ht, after_congr (a := hostAsk n ch line flush addr len) (b := seqA [modPort n fun p => { p with
      reads := p.reads ++ [⟨(s.port n).rdTag, ch, line, flush⟩], rdTag := ((s.port n).rdTag + 1) % 65536 },
      traisSend n (.rd (s.port n).rdTag addr len (!flush))]) rfl, after_seqA_cons, after_seqA_cons, after_seqA_end, ← hu]
  have hreads : (t.port n).reads = (u.port n).reads := htu ▸ after_portRel (R := fun _ x y => y.reads = x.reads) (fun _ _ => rfl)
    (fun _ _ _ _ h1 h2 => h2.trans h1) hcu (allowed_traisSend (fun n s e he => by
      cases e with
      | port k x =>
        obtain ⟨rfl, he⟩ := he
        exact (congrArg TPort.reads he : _)
      | out => trivial
      | _ => exact he.elim) n _ u) n
  refine ⟨⟨⟨(s.port n).rdTag, ch, line, flush⟩, ?_, rfl, rfl⟩, ?_⟩
  · rw [hreads, hpu]
    exact List.mem_append_right _ (List.mem_singleton_self _)
  · exact ht ▸ after_overlay [.ports, .out] (allowed_hostAsk (allowsSends_onlyFields (by simp)) (by simp) n ch line flush addr len s)

/-- The move of a whole descriptor and what follows it: the flush of a host destination, or the end. -/
def moveWhole (d c : Nat) (b : List Byte) (port : Nat) (host : List Byte) : Act :=
  seqA [dmaMove d c b port host (descLen b), if (descSide b 1).space = 1 then
      seqA [modDma d c fun x => { x with flushing := true },
        hostAsk port (2 * d + c) 0 true (((descSide b 1).addr + (descSide b 1).span (descLen b) - 1) / 128 * 128) 128]
    else dmaEnd d c 0]

section
variable {s : State} (hc : s.canon = true) {d c : Nat} (hd : d < 32) {b : List Byte}
include hc hd

theorem moveRead_ready (hp : s.poison = []) {x : DmaSide} {n : Nat} (hheld : s.heldE x.addr (x.span n) = []) (w : Act) :
    ∃ r, r.canon = true ∧ DmaReady d s r ∧ r.snoopF = s.snoopF ∧ after (if x.space = 0 ∧ x.sram = false then unitRead true x.addr (x.span n) w else w) s = after w r := by
  split
  · exact ⟨_, after_canon _ s hc, dmaReady_sliceReads hc hd hp _ _, by rw [(linesOnly_sliceReads hc hp true x.addr (x.span n)).1], after_unitRead (by rw [hheld]; rfl)⟩
  · exact ⟨s, hc, .refl d s, rfl, rfl⟩

theorem moveWrite_ready {y : DmaSide} {n : Nat} (hheld : y.space = 0 → s.heldE y.addr (y.span n) = []) (w : Act) :
    ∃ v, v.canon = true ∧ DmaReady d s v ∧ (y.space ≠ 0 → v = s) ∧ after (if y.space = 0 ∧ y.sram = false then unitWrite y.addr (y.span n) w else w) s = after w v := by
  split
  · next h =>
    refine ⟨_, after_canon _ s hc, dmaReady_invalidateS hc hd (s.heldS y.addr (y.span n)), fun h0 => absurd h.1 h0, ?_⟩
    rw [after_congr (b := seqA [invalidateS (s.heldS y.addr (y.span n)), w]) (if_pos (by rw [hheld h.1]; rfl)), after_seqA_cons, after_seqA_cons, after_seqA_end]
  · exact ⟨s, hc, .refl d s, fun _ => rfl, rfl⟩

end

section
variable {s : State} (hc : s.canon = true) {d : Fin 32} {c : Fin 2} {b : List Byte} (hcur : (s.dma d.val c.val).cur = some b)
  (hend : (s.dma d.val c.val).ending = none)
include hc hcur hend

/-- The move of a descriptor ends, where no host copy of its source or destination is exclusive: the accesses at the slices go before. -/
theorem transferDone_acts {status : BitVec 8} (h5 : status ≠ 5) (h6 : status ≠ 6) (moved : Nat) (host : List Byte)
    (hfl : (s.dma d.val c.val).flushing = false) (hmode : F.DMA_CH_CFG_MODE.of (s.dma d.val c.val).curCfg = 0)
    (hx : (descSide b 0).space = 0 ∧ (descSide b 0).fixed = false) (hp : s.poison = []) (hheld : s.heldE (descSide b 0).addr (descLen b) = [])
    (hheldy : (descSide b 1).space = 0 → s.heldE (descSide b 1).addr ((descSide b 1).span (descLen b)) = []) :
    ∃ v, v.canon = true ∧ DmaReady d.val s v ∧ ((descSide b 1).space ≠ 0 → v.snoopF = s.snoopF) ∧ exec (.dmaTransferDone d c status moved host) s =
      .next (after (moveWhole d.val c.val b (F.DMA_CH_CFG_PORT.of (s.dma d.val c.val).curCfg) host) v) := by
  obtain ⟨hxs, hxf⟩ := hx
  have hspan : (descSide b 0).span (descLen b) = descLen b := by simp [DmaSide.span, hxf]
  have hbegun : (s.dma d.val c.val).begun b = descLen b := by rw [DmaCh.begun, if_pos hmode]
  have hlines : ((s.dma d.val c.val).srcLines b).2 = 0 := by
    rw [DmaCh.srcLines, if_pos (.inl (by rw [hxs]; decide))]
  obtain ⟨r, hcr, hr, hrf, hre⟩ := moveRead_ready hc d.isLt hp (x := descSide b 0) (n := descLen b) (by rw [hspan]; exact hheld)
    (if (descSide b 1).space = 0 ∧ (descSide b 1).sram = false then unitWrite (descSide b 1).addr ((descSide b 1).span (descLen b))
      (moveWhole d.val c.val b (F.DMA_CH_CFG_PORT.of (s.dma d.val c.val).curCfg) host) else moveWhole d.val c.val b (F.DMA_CH_CFG_PORT.of (s.dma d.val c.val).curCfg) host)
  obtain ⟨v, hcv, hv, hvs, hve⟩ := moveWrite_ready hcr d.isLt (y := descSide b 1) (n := descLen b) (fun h => hr.less.heldE (hheldy h))
    (moveWhole d.val c.val b (F.DMA_CH_CFG_PORT.of (s.dma d.val c.val).curCfg) host)
  refine ⟨v, hcv, hr.trans hv, fun h => by rw [hvs h, hrf], congrArg Host.Outcome.next ?_⟩
  refine Eq.trans (after_congr ?_) (hre.trans hve)
  dsimp only
  rw [hcur]
  dsimp only
  rw [hend, hbegun, hlines, hfl, hp]
  rw [if_neg (by simp), if_neg (by simp)]
  simp only [h5, h6, List.isEmpty_nil, Bool.not_true, Bool.and_false, Bool.false_and, or_self, Bool.false_eq_true, if_false, eq_self, true_and, moveWhole]

theorem transferDone_device {status : BitVec 8} (h5 : status ≠ 5) (h6 : status ≠ 6) (moved : Nat) (host : List Byte)
    (hst : s.fld (F.DMA_CH_STS_STATE.chan c.val) d.val = 2) (hdr : s.power.drainFor ≠ 3)
    (hfl : (s.dma d.val c.val).flushing = false) (hmode : F.DMA_CH_CFG_MODE.of (s.dma d.val c.val).curCfg = 0)
    (hx : (descSide b 0).space = 0 ∧ (descSide b 0).fixed = false) (hp : s.poison = []) (hheld : s.heldE (descSide b 0).addr (descLen b) = [])
    (hy : (descSide b 1).space = 0 ∧ (descSide b 1).fixed = false) (hheldy : s.heldE (descSide b 1).addr (descLen b) = [])
    {a : Nat} (ha : a = s.descAddr d.val c.val (s.dmaHead d.val c.val)) (hhelda : s.heldE (a + 0x1E) 2 = [])
    (hapart : (descSide b 1).addr + descLen b ≤ a + 0x1E ∨ a + 0x20 ≤ (descSide b 1).addr) :
    ∃ t, exec (.dmaTransferDone d c status moved host) s = .next t ∧ t.bytes (descSide b 1).addr (descLen b) = s.bytes (descSide b 0).addr (descLen b) ∧
      DmaEnded d.val c.val (s.dma d.val c.val).curCfg 0 s t ∧ DmaOnly d.val s t ∧
      ∀ z, (z < (descSide b 1).addr ∨ (descSide b 1).addr + descLen b ≤ z) → (z < a + 0x1E ∨ a + 0x20 ≤ z) → t.byte z = s.byte z := by
  have hspan : (descSide b 1).span (descLen b) = descLen b := by simp [DmaSide.span, hy.2]
  obtain ⟨v, cv, hv, -, hex⟩ := transferDone_acts hc hcur hend h5 h6 moved host hfl hmode hx hp hheld fun _ => by rw [hspan]; exact hheldy
  obtain ⟨y, hye⟩ : ∃ y, y = (descSide b 1).addr := ⟨_, rfl⟩
  obtain ⟨n, hn⟩ : ∃ n, n = descLen b := ⟨_, rfl⟩
  obtain ⟨bs, hbs⟩ : ∃ bs, bs = v.bytes (descSide b 0).addr n := ⟨_, rfl⟩
  obtain ⟨x1, e1⟩ : ∃ x, x = after (whenA (fun _ => !(List.range n).isEmpty && !(descSide b 1).sram) (sliceWrites true y n)) v := ⟨_, rfl⟩
  obtain ⟨x2, e2⟩ : ∃ x, x = after (putStack y bs) x1 := ⟨_, rfl⟩
  obtain ⟨x3, e3⟩ : ∃ x, x = after (bumpW (F.DMA_CH_BYTES_BYTES.chan c.val) d.val n) x2 := ⟨_, rfl⟩
  obtain ⟨t, ht⟩ : ∃ t, t = after (dmaEnd d.val c.val 0) x3 := ⟨_, rfl⟩
  have hlen : bs.length = n := by simp [hbs, State.bytes]
  have hr1 : DmaReady d.val v x1 := by
    rw [e1, after_whenA]
    split
    · exact dmaReady_sliceWrites cv d.isLt (hv.poison.trans hp) _ _
    · exact .refl _ _
  have c1 : x1.canon = true := e1 ▸ after_canon _ v cv
  have c2 : x2.canon = true := e2 ▸ after_canon _ x1 c1
  have c3 : x3.canon = true := e3 ▸ after_canon _ x2 c2
  have hb2 : x2.bytes y n = bs := by
    rw [e2, ← hlen]
    exact bytes_putStack c1 y bs
  have hput : ∀ {P : State → Eff → Prop}, AllowsSnoops P → (∀ s l, P s (.poison l)) → (∀ s x v, y ≤ x → x < y + bs.length → P s (.byte x v)) →
      Allowed P (putStack y bs x1) x1 := fun hS hm hb => allowed_putStack hS hm hb x1
  have hbut2 : BytesBut y n x1 x2 := hlen ▸ e2 ▸ after_bytesBut c1 (hput allowsSnoops_byteRel (fun _ _ => trivial) fun _ x _ h1 h2 => .inl ⟨h1, h2⟩)
  have hf2 : x2 = { x1 with mem := x2.mem, poison := x2.poison, snoopF := x2.snoopF, regs := x2.regs, ports := x2.ports, out := x2.out } :=
    e2 ▸ after_overlay [.mem, .poison, .snoopF, .regs, .ports, .out] (hput (allowsSnoops_onlyFields (by simp)) (by simp) (by simp))
  have hk2 : ChanKept d.val x1 x2 := e2 ▸ chanKept_after c1 (hput (allowsSnoops_offChan d.isLt) (fun _ _ => trivial) fun _ _ _ _ _ => trivial)
  have hless2 : FilterLess x1 x2 := e2 ▸ after_filterLess c1 (allowed_cut_putStack _ _ _)
  have hf3 : x3 = { x2 with regs := x3.regs } := e3 ▸ after_overlay [.regs] (by simp)
  have hk3 : ChanKept d.val x2 x3 := e3 ▸ chanKept_after c2 (by
    rw [allowed_bumpW]
    intro o _ _ h3 he
    have := (regKey_inj (by omega) (by omega) (by simp only [Fld.chan]; omega) (by omega) he).2.2
    simp only [Fld.chan] at this
    unfold chanOff at h3
    omega)
  have hi3 : DmaIdle d.val v x3 := hr1.idle.trans ⟨(DmaOnly.of_frame hf2).trans (.of_frame (by rw [hf3])), hk2.trans hk3, fun k => by
    rw [hf3]
    exact (congrArg (fun s : State => s.dma d.val k) hf2 : _)⟩
  have hall := hv.idle.trans hi3
  have hsame : SameEnd d.val c.val s x3 := hall.kept.sameEnd c.isLt (by rw [hall.dma])
  have hless : FilterLess s x3 := composes_filterLess.trans _ _ _ (hv.trans hr1).less (composes_filterLess.trans _ _ _ hless2 (.of_eq (by rw [hf3]) (by rw [hf3])))
  obtain ⟨d1, d2, d3⟩ := dmaEnd_shows d.isLt c.isLt c3 (by rw [hall.only.power_eq]; exact hdr) (hsame.state.trans hst) (b := b) (by rw [hall.dma, hcur])
    (by rw [hsame.head, hsame.addr, ← ha]; exact hless.heldE hhelda) ht
  rw [hsame.head, hsame.addr, ← ha] at d2
  rw [hall.dma] at d1
  have hb3 : ∀ z, x3.byte z = x2.byte z := fun z => by
    rw [hf3]
    rfl
  have hb1 : ∀ z, x1.byte z = s.byte z := fun z => by simp only [State.byte, hr1.mem, hv.mem]
  refine ⟨t, ?_, ?_, hsame.ended d1, hall.only.trans d3, fun z hz1 hz2 => ?_⟩
  · rw [hex]
    refine congrArg Host.Outcome.next ?_
    rw [moveWhole, after_seqA_cons, after_dmaMove_device (hv.poison.trans hp) hx hy, after_seqA_cons, after_seqA_end, ← hn, ← hye, ← hbs, ← e1, ← e2, ← e3,
      if_neg (by rw [hy.1]; decide), ← ht]
  · rw [← hn, ← hye, bytes_ext (s := x2) fun z hz1 hz2 => ?_, hb2, hbs, bytes_congr hv.mem]
    rw [d2 z (by rw [← hn, ← hye] at hapart; omega), hb3]
  · rw [← hn, ← hye] at hz1
    rw [d2 z hz2, hb3, hbut2 z hz1, hb1]

theorem transferDone_host {status : BitVec 8} (h5 : status ≠ 5) (h6 : status ≠ 6) (moved : Nat) (host : List Byte)
    (hfl : (s.dma d.val c.val).flushing = false) (hmode : F.DMA_CH_CFG_MODE.of (s.dma d.val c.val).curCfg = 0)
    (hx : (descSide b 0).space = 0 ∧ (descSide b 0).fixed = false) (hp : s.poison = []) (hheld : s.heldE (descSide b 0).addr (descLen b) = [])
    (hy : (descSide b 1).space = 1) {port : Nat} (hport : port = F.DMA_CH_CFG_PORT.of (s.dma d.val c.val).curCfg) :
    ∃ t, exec (.dmaTransferDone d c status moved host) s = .next t ∧ (t.dma d.val c.val).flushing = true ∧
      (∃ r ∈ (t.port port).reads, r.flush = true ∧ r.ch = 2 * d.val + c.val) ∧ DmaOnly d.val s t ∧ t.mem = s.mem ∧ t.snoopF = s.snoopF := by
  obtain ⟨v, cv, hv, hvf, hex⟩ := transferDone_acts hc hcur hend h5 h6 moved host hfl hmode hx hp hheld fun h => absurd (hy.symm.trans h) (by decide)
  obtain ⟨x1, e1⟩ : ∃ x, x = after (dmaMove d.val c.val b port host (descLen b)) v := ⟨_, rfl⟩
  obtain ⟨x2, e2⟩ : ∃ x, x = after (modDma d.val c.val fun x => { x with flushing := true }) x1 := ⟨_, rfl⟩
  obtain ⟨t, ht⟩ : ∃ t, t = after (hostAsk port (2 * d.val + c.val) 0 true (((descSide b 1).addr + (descSide b 1).span (descLen b) - 1) / 128 * 128) 128) x2 :=
    ⟨_, rfl⟩
  have c1 : x1.canon = true := e1 ▸ after_canon _ v cv
  have c2 : x2.canon = true := e2 ▸ after_canon _ x1 c1
  have hf1 : x1 = { v with regs := x1.regs, ports := x1.ports, out := x1.out } := e1 ▸ after_overlay [.regs, .ports, .out]
    (allowed_dmaMove_host (allowsSends_onlyFields (by simp)) (by simp) (by simp) hx.1 hy port host _ v)
  have hf2 : x2 = { x1 with dies := x2.dies } := e2 ▸ modDma_frame _ _ _
  have ho2 : DmaOnly d.val x1 x2 := e2 ▸ dmaOnly_modDma c1 _ _ _
  obtain ⟨hr, hft⟩ := hostAsk_reads c2 port _ 0 true _ 128 ht
  refine ⟨t, ?_, ?_, hr, ?_, ?_, ?_⟩
  · rw [hex]
    refine congrArg Host.Outcome.next ?_
    rw [moveWhole, after_seqA_cons, ← hport, ← e1, if_pos hy, after_seqA_cons, after_seqA_end, after_seqA_cons, ← e2, after_seqA_cons, after_seqA_end, ← ht]
  · have h : t.dma d.val c.val = x2.dma d.val c.val := by
      rw [hft]
      rfl
    rw [h, e2, dma_modDma c1]
  · exact ((hv.idle.only.trans (.of_frame (by rw [hf1]))).trans ho2).trans (.of_frame (by rw [hft]))
  · rw [hft, hf2, hf1]
    exact hv.mem
  · rw [hft, hf2, hf1]
    exact hvf (by rw [hy]; decide)

end

/-! ## Completions of the host's, and bursts -/

section
variable {s : State} (hc : s.canon = true) {d : Fin 32} {c : Fin 2} {b : List Byte} (hcur : (s.dma d.val c.val).cur = some b)
include hc hcur

theorem traisCpl_ends (hst : s.fld (F.DMA_CH_STS_STATE.chan c.val) d.val = 2) (hdr : s.power.drainFor ≠ 3) (n : Fin 4) (tag : BitVec 16) (data : List Byte)
    (r : HostRead) (hr : (s.port n.val).reads.find? (fun z => z.tag == tag.toNat) = some r) (hfl : r.flush = true) (hch : r.ch = 2 * d.val + c.val)
    {a : Nat} (ha : a = s.descAddr d.val c.val (s.dmaHead d.val c.val)) (hheld : s.heldE (a + 0x1E) 2 = []) :
    ∃ t, exec (.traisCpl n tag 0 data) s = .next t ∧ DmaEnded d.val c.val (s.dma d.val c.val).curCfg 0 s t ∧ DmaOnly d.val s t ∧ BytesBut (a + 0x1E) 2 s t := by
  obtain ⟨u, hu⟩ : ∃ u, u = after (modPort n.val fun p => { p with reads := p.reads.filter fun y => y.tag != r.tag }) s := ⟨_, rfl⟩
  obtain ⟨t, ht⟩ : ∃ t, t = after (dmaEnd d.val c.val 0) u := ⟨_, rfl⟩
  have cu : u.canon = true := hu ▸ after_canon _ s hc
  have hfu : u = { s with ports := u.ports } := hu ▸ after_overlay [.ports] (by simp)
  have hd : ∀ k, u.dma d.val k = s.dma d.val k := fun k => by
    rw [hfu]
    rfl
  have hku : ChanKept d.val s u := fun _ _ _ _ => by
    rw [hfu]
    rfl
  have hsame := hku.sameEnd c.isLt (by rw [hd])
  obtain ⟨e1, e2, e3⟩ := dmaEnd_shows d.isLt c.isLt cu (by rw [hfu]; exact hdr) (hsame.state.trans hst) (b := b) (by rw [hd, hcur])
    (by rw [hsame.head, hsame.addr, ← ha]; exact FilterLess.heldE (.of_eq (by rw [hfu]) (by rw [hfu])) hheld) ht
  rw [hsame.head, hsame.addr, ← ha] at e2
  rw [hd] at e1
  refine ⟨t, congrArg Host.Outcome.next ?_, hsame.ended e1, (DmaOnly.of_frame (by rw [hfu])).trans e3, fun z hz => (e2 z hz).trans ?_⟩
  · have h1 : r.ch / 2 = d.val := by omega
    have h2 : r.ch % 2 = c.val := by omega
    have h3 : r.ch ≠ 64 := by omega
    refine (after_congr (b := seqA [modPort n.val fun p => { p with reads := p.reads.filter fun y => y.tag != r.tag }, dmaEnd d.val c.val 0]) ?_).trans ?_
    · dsimp only
      rw [hr]
      dsimp only
      rw [h1, h2, if_neg h3, if_neg (by decide), if_pos hfl]
    · rw [after_seqA_cons, ← hu, after_seqA_cons, after_seqA_end, ← ht]
  · rw [hfu]
    rfl

theorem burstGap_begins (hend : (s.dma d.val c.val).ending = none) (hmode : F.DMA_CH_CFG_MODE.of (s.dma d.val c.val).curCfg = 1)
    (hmore : (s.dma d.val c.val).begun b < descLen b)
    (hgap : dmaGap (s.dma d.val c.val).curCfg ((descSide b 0).space == 1 || (descSide b 1).space == 1)
      (max 1 (s.lanes (F.DMA_CH_CFG_PORT.of (s.dma d.val c.val).curCfg))) ≤ 2 * (s.mile - (s.dma d.val c.val).issued).toNat) :
    ∃ t, exec (.dmaBurstGap d c) s = .next t ∧ (t.dma d.val c.val).bursts = (s.dma d.val c.val).bursts + 1 ∧ (t.dma d.val c.val).issued = s.mile ∧
      (t.dma d.val c.val).cur = some b ∧ DiesBut [d.val] s t ∧ t = { s with regs := t.regs, ports := t.ports, dies := t.dies, out := t.out } := by
  obtain ⟨u, hu⟩ : ∃ u, u = after (modDma d.val c.val fun x => { x with bursts := x.bursts + 1, issued := s.mile }) s := ⟨_, rfl⟩
  obtain ⟨t, ht⟩ : ∃ t, t = after (dmaAsk d.val c.val (2 ^ 26 + 2)) u := ⟨_, rfl⟩
  have cu : u.canon = true := hu ▸ after_canon _ s hc
  have hfu : u = { s with dies := u.dies } := hu ▸ modDma_frame _ _ _
  have hdu : u.dma d.val c.val = { s.dma d.val c.val with bursts := (s.dma d.val c.val).bursts + 1, issued := s.mile } := hu ▸ dma_modDma hc _ _ _
  have hbu : DiesBut [d.val] s u := hu ▸ diesBut_modDma hc _ _ _
  obtain ⟨a1, a2, a3, -⟩ := dmaAsk_shows cu d.isLt _ ht
  have hdt := a3.dma c.val
  rw [hdu] at hdt
  refine ⟨t, congrArg Host.Outcome.next ?_, by rw [hdt], by rw [hdt], by rw [hdt]; exact hcur, fun e he => (a2 e he).trans (hbu e he), by rw [a1, hfu]⟩
  refine (after_congr (b := seqA [modDma d.val c.val fun x => { x with bursts := x.bursts + 1, issued := s.mile }, dmaAsk d.val c.val (2 ^ 26 + 2)]) ?_).trans ?_
  · dsimp only
    rw [hcur]
    dsimp only
    rw [if_neg]
    rw [hmode, hend]
    simp only [Option.isSome_none, Bool.false_eq_true, one_ne_zero, false_or, not_or, not_le, not_lt]
    exact ⟨hmore, hgap⟩
  · rw [after_seqA_cons, ← hu, after_seqA_cons, after_seqA_end, ← ht]

end

end Sys2Proof.Machine

open Sys2Proof Sys2Proof.Machine

/-- Settles O50: each of a descriptor's events is accesses that leave its channel alone, what the event does, and the one completion. -/
theorem dmaMoves : Obligations.DmaMoves := by
  intro s d c hc hdr
  dsimp only
  intro hst
  have honly : ∀ {t : State}, DmaOnly d.val s t →
      t = { s with mem := t.mem, poison := t.poison, snoopF := t.snoopF, regs := t.regs, ports := t.ports, dies := t.dies, out := t.out } ∧
        ∀ e, e ≠ d.val → DieSlices (s.die e) (t.die e) := fun h => ⟨h.frame, h.dies⟩
  refine ⟨fun hcur hps htail hheld => ?_, fun b hcur hend => ⟨fun status moved host h5 h6 hfl hmode hxs hxf hp hheld => ⟨fun hys hyf hheldy hhelda hap => ?_, fun hys => ?_⟩,
    fun n tag data r hr hfl hch hheld => ?_, fun hmode hmore hgap => burstGap_begins hc hcur hend hmode hmore hgap⟩⟩
  · obtain ⟨h1, h2, h3⟩ := dmaDescriptor_shows hc hst hcur hps hdr htail rfl hheld rfl rfl rfl
    refine ⟨h1, fun ho hcode => ?_, fun ho hcode => ?_⟩
    · obtain ⟨t, e1, e2, e3, e4, e5⟩ := h2 ho hcode
      exact ⟨t, e1, e2, e3, honly e4, fun hp => honly (e5 hp)⟩
    · obtain ⟨t, e1, e2, e3, e4, e5, e6, e7, e8⟩ := h3 ho hcode
      exact ⟨t, e1, e2, e3, e4, e5, e6, honly e7, fun hp => honly (e8 hp)⟩
  · obtain ⟨t, e1, e2, e3, e4, e5⟩ := transferDone_device hc hcur hend h5 h6 moved host hst hdr hfl hmode ⟨hxs, hxf⟩ hp hheld ⟨hys, hyf⟩ hheldy rfl hhelda hap
    exact ⟨t, e1, e2, e3, honly e4, e5⟩
  · obtain ⟨t, e1, e2, e3, e4, e5⟩ := transferDone_host hc hcur hend h5 h6 moved host hfl hmode ⟨hxs, hxf⟩ hp hheld hys rfl
    exact ⟨t, e1, e2, e3, honly e4, e5⟩
  · obtain ⟨t, e1, e2, e3, e4⟩ := traisCpl_ends hc hcur hst hdr n tag data r hr hfl hch rfl hheld
    exact ⟨t, e1, e2, honly e3, e4⟩

end

section
/-!
SUPPORT. A completion that no channel waits for any more.
-/
namespace Sys2Proof.Machine

/-- The test state brought up, with a read of a line still out on port 0 whose descriptor has ended: the channel is marked as gone (64). -/
def readDropped : State := after (modPort 0 fun p => { p with reads := [⟨2, 64, 64, false⟩] }) Tests.up

end Sys2Proof.Machine

open Sys2Proof Sys2Proof.Machine

/-- Refutes O47: a read whose descriptor has ended counts for no channel, so the line that its completion brings enters no cache. -/
theorem not_snoops : ¬ Obligations.Snoops := by
  unfold Obligations.Snoops
  intro h
  obtain ⟨hc, hr, hcur⟩ : readDropped.canon = true ∧
      (readDropped.port 0).reads.find? (fun y => y.tag == (2 : BitVec 16).toNat) = some ⟨2, 64, 64, false⟩ ∧ (readDropped.dma 32 0).cur = none := by
    decide +kernel
  obtain ⟨t, ht, hline, -⟩ := (h readDropped 0 hc).2.2 2 [] ⟨2, 64, 64, false⟩ hr rfl fun b hb => absurd (hcur.symm.trans hb) (by simp)
  have hrun : (match exec (.traisCpl 0 2 0 []) readDropped with
    | .next t => ((t.port 0).line 64).isNone
    | _ => false) = true := by decide +kernel
  rw [ht] at hrun
  change ((t.port 0).line 64).isNone = true at hrun
  rw [show (t.port 0).line 64 = some (padTo 64 []) from hline] at hrun
  exact Bool.false_ne_true hrun
end

section
/-!
SUPPORT. An array whose programming ended while the Keeper was down.
-/
namespace Sys2Proof.Machine

/-- What the Keeper's return does before calibration triggers are evaluated again. -/
def keeperDelivers (s : State) : Act :=
  seqA [firmwareRuns, slotsJudged, modKeeper fun k => { k with kHold := [], kDropped := 0 }, deliverLog s.keeper.kHold s.keeper.kDropped noUnit,
    forA allDies deliverDie, forA allDies progResume, modKeeper fun k => { k with retDue := [] },
    forA s.keeper.retDue fun p => whenA (fun s => s.imgSt p == 4) (writeRetain p)]

/-- Calibration triggers, and the confirmation of an activation, change no cells. -/
theorem keeperReturn_cells {s t : State} (h0 : ¬ (s.fld F.KPR_STS_STATE 0 ≠ 0 ∨ s.flag F.SEC_STS_BOOT_DONE 0 = false ∨ s.power.vaux = false))
    (ht : exec .keeperReturn s = .next t) : t.cells = (after (keeperDelivers s) s).cells := by
  obtain ⟨tail, htail⟩ : ∃ tail : Act, tail = seqA [withA (fun s => allDies.flatMap fun d => s.boundTiles d) fun l => forA l recheckTile,
    whenA (fun s => s.nvm.upd.st == 3) (seqA [updState 4, modNvm fun n => { n with upd := { n.upd with since := n.pos } }, logOpen none 9 noUnit 0x3F 0 0])] :=
    ⟨_, rfl⟩
  have hall : ∀ u, Allowed (onlyFields [.regs, .dies, .convs, .nvm, .keeper, .ports, .out, .free]) (tail u) u := fun u => by
    simp only [htail, allowed_seqA_cons, allowed_withA, allowed_whenA, allowed_modNvm, updState, allowed_seqA_nil, and_true]
    refine ⟨allowed_forA _ _ _ fun x _ s => ?_, fun _ => ⟨by simp, by simp, allowed_logOpen (allowsReports_onlyFields (by simp)) _ _ _ _ _ _ _⟩⟩
    simp only [recheckTile, allowed_seqA_cons, allowed_whenA, allowed_seqA_nil, and_true]
    exact ⟨allowed_sampleTile (by simp) (by simp) (by simp) _, fun _ => allowed_calAsk (by simp) (by simp) _ _ _⟩
  have hrun : t = after tail (after (keeperDelivers s) s) := by
    refine (Host.Outcome.next.inj ht).symm.trans ((after_congr (if_neg h0)).trans ?_)
    rw [htail, keeperDelivers]
    simp only [after_seqA_cons, after_seqA_end]
  rw [hrun]
  exact after_read_eq State.cells (hall _) fun _ => rfl

open Tests in
/-- The test state with tile t0 being programmed, its record's weight exponent 1, the end of its programming held on the die, and the
Keeper down. -/
def heldEnd : State := after (seqA [setF F.KPR_STS_STATE 0 0, putBytes 0x140400 [1], modDie 0 fun x => { x with progHeld := [(tileKey t0, 0, 0)] }]) prog1

end Sys2Proof.Machine

open Sys2Proof Sys2Proof.Machine

/-- Refutes O51: what waited at the end of programming goes on at the Keeper's return, so cells change though no die's checker holds anything. -/
theorem not_keeperAndLog : ¬ Obligations.KeeperAndLog := by
  unfold Obligations.KeeperAndLog
  intro h
  obtain ⟨hc, hv, hst, hboot, htap⟩ : heldEnd.canon = true ∧ heldEnd.power.vaux = true ∧ heldEnd.fld F.KPR_STS_STATE 0 = 0 ∧
      heldEnd.flag F.SEC_STS_BOOT_DONE 0 = true ∧ heldEnd.keeper.haltedByTap = false := by decide +kernel
  have hheld : ∀ d < 32, (heldEnd.die d).chkHold = [] ∧ (heldEnd.die d).chkDropped = 0 ∧ (heldEnd.die d).marchHeld = [] ∧ (heldEnd.die d).softUp = [] := by
    decide +kernel
  obtain ⟨t, ht, -, -, -, -, -, hcells⟩ := (h.1 heldEnd hc hv).2 hst hboot htap
  have hsame : (after (keeperDelivers heldEnd) heldEnd).cells = heldEnd.cells :=
    (keeperReturn_cells (by rw [hst, hboot, hv]; decide) ht).symm.trans (hcells hheld).1
  have hrun : ((after (keeperDelivers heldEnd) heldEnd).cell Tests.t0).wx = 1 := by decide +kernel
  rw [State.cell, hsame] at hrun
  exact absurd hrun (by decide +kernel)
end

section
/-!
SUPPORT. Arrival reports and expert counts on a scoreboard (R206, R225, R247).
-/
namespace Sys2Proof.Machine

/-! ## An item of a scoreboard -/

@[simp] theorem settle_is (comb : Bool) (m : Word) (o i stage rep : Nat) (x : SbItem) : (x.settle comb m o).is i stage rep = x.is i stage rep := by
  unfold SbItem.settle
  split <;> rfl

@[simp] theorem settle_got (comb : Bool) (m : Word) (o : Nat) (x : SbItem) : (x.settle comb m o).got = x.got := by
  unfold SbItem.settle
  split <;> rfl

@[simp] theorem settle_need (comb : Bool) (m : Word) (o : Nat) (x : SbItem) : (x.settle comb m o).need = x.need := by
  unfold SbItem.settle
  split <;> rfl

@[simp] theorem settle_gate (comb : Bool) (m : Word) (o : Nat) (x : SbItem) : (x.settle comb m o).gate = x.gate := by
  unfold SbItem.settle
  split <;> rfl

@[simp] theorem settle_exp (comb : Bool) (m : Word) (o : Nat) (x : SbItem) : (x.settle comb m o).exp = x.exp := by
  unfold SbItem.settle
  split <;> rfl

/-- Where a stage combines no contributions, its item is ready once its segments have arrived. -/
theorem settle_ready (m : Word) (o : Nat) (x : SbItem) : (x.settle false m o).ready = (x.ready || decide (x.need ≤ x.got)) := by
  unfold SbItem.settle
  split
  · next h =>
    have h2 : x.need ≤ x.got := by simpa using (Bool.and_eq_true_iff.1 (Bool.and_eq_true_iff.1 h).1).2
    simp [h2]
  · next h =>
    cases hr : x.ready
    · have h2 : ¬ x.need ≤ x.got := fun h2 => h (by simp [hr, h2])
      simp [h2]
    · rfl

/-- A die's scoreboard with the item of a passage step changed by g, made where it is not there. -/
def Die.touch (i stage rep : Nat) (fresh : SbItem) (g : SbItem → SbItem) (x : Die) : Die :=
  { x with
    sb := if x.sb.any (SbItem.is i stage rep) then x.sb.map (fun y => if y.is i stage rep then g y else y) else x.sb ++ [g fresh]
    sbOrd := x.sbOrd + 1 }

theorem touch_die (i stage rep : Nat) (fresh : SbItem) (g : SbItem → SbItem) (x : Die) :
    x.touch i stage rep fresh g = { x with sb := (x.touch i stage rep fresh g).sb, sbOrd := x.sbOrd + 1 } := rfl

theorem touch_made {i stage rep : Nat} {x : Die} (h : x.sb.any (SbItem.is i stage rep) = false) (fresh : SbItem) (g : SbItem → SbItem) :
    (x.touch i stage rep fresh g).sb = x.sb ++ [g fresh] := by
  simp [Die.touch, h]

theorem touch_here {i stage rep : Nat} {x : Die} (fresh : SbItem) (g : SbItem → SbItem) {y : SbItem} (hy : y ∈ x.sb) (hi : y.is i stage rep = true) :
    g y ∈ (x.touch i stage rep fresh g).sb := by
  have hany : x.sb.any (SbItem.is i stage rep) = true := List.any_eq_true.2 ⟨y, hy, hi⟩
  simp only [Die.touch, hany, if_true]
  exact List.mem_map.2 ⟨y, hy, if_pos hi⟩

theorem touch_rest {i stage rep : Nat} {x : Die} (fresh : SbItem) (g : SbItem → SbItem) {y : SbItem} (hy : y ∈ x.sb) (hi : y.is i stage rep = false) :
    y ∈ (x.touch i stage rep fresh g).sb := by
  simp only [Die.touch]
  split
  · exact List.mem_map.2 ⟨y, hy, if_neg (by simp [hi])⟩
  · exact List.mem_append_left _ hy

/-- Whatever was there, an item of the step is there then, as g leaves one. -/
theorem touch_some (i stage rep : Nat) (fresh : SbItem) (g : SbItem → SbItem) (x : Die) : ∃ y, g y ∈ (x.touch i stage rep fresh g).sb ∧
    (y = fresh ∨ y ∈ x.sb ∧ y.is i stage rep = true) := by
  by_cases h : x.sb.any (SbItem.is i stage rep) = true
  · obtain ⟨y, hy, hi⟩ := List.any_eq_true.1 h
    exact ⟨y, touch_here fresh g hy hi, .inr ⟨hy, hi⟩⟩
  · refine ⟨fresh, ?_, .inl rfl⟩
    rw [touch_made (by simpa using h)]
    exact List.mem_append_right _ (List.mem_singleton_self _)

/-- What a report changes beside the item. -/
def OnlySb (d : Nat) (s u t : State) : Prop :=
  t.die d = { s.die d with sb := (t.die d).sb, sbOrd := (s.die d).sbOrd + 1 } ∧ DiesBut [d] s t ∧ CoresButIns [] s t ∧
    t = { u with dies := t.dies, cores := t.cores }

section
variable {s : State} (hc : s.canon = true) {d i stage rep : Nat}
include hc

theorem touchItem_shows (f : SbItem → SbItem) {st : Stage} (hst : s.stage (s.part d) stage = some st) {t : State} (ht : t = after (touchItem d i stage rep f) s) :
    (∃ step, t.die d = (s.die d).touch i stage rep (SbItem.fresh i stage rep st.nIn step)
      fun y => (f y).settle (s.combines (s.part d) stage) s.mile (s.die d).sbOrd) ∧ DiesBut [d] s t ∧ t = { s with dies := t.dies } := by
  refine ⟨⟨((s.passage i).inHead + 65535) % 65536, ?_⟩, ht ▸ after_diesBut hc (by simp [touchItem, keepBut]), ht ▸ after_overlay [.dies] (by simp [touchItem])⟩
  have hact : after (touchItem d i stage rep f) s = after (modDie d fun x => x.touch i stage rep (SbItem.fresh i stage rep st.nIn (((s.passage i).inHead + 65535) % 65536))
      fun y => (f y).settle (s.combines (s.part d) stage) s.mile x.sbOrd) s := after_congr (by
    simp only [touchItem, hst]
    rfl)
  rw [ht, hact, modDie, after_eff, die_ap_die s hc, if_pos rfl]

/-- The tiles of a segment that has come know its passage, and nothing else changes. -/
theorem claimInput_ins (i : Nat) (st : Stage) (r : Replica) (k : Nat) {t : State} (ht : t = after (claimInput i st r k) s) :
    CoresButIns [] s t ∧ t = { s with cores := t.cores } := by
  have hall : ∀ {P : State → Eff → Prop}, (∀ s c x, x = { s.core c with ins := x.ins } → P s (.core c x)) → Allowed P (claimInput i st r k s) s := fun hP =>
    allowed_forA _ _ s fun x _ s => (allowed_modCore s _ _).2 (hP _ _ _ (by split <;> rfl))
  refine ⟨fun c _ => ?_, ht ▸ after_overlay [.cores] (hall (by simp))⟩
  exact ht ▸ after_coreRel (R := fun _ x y => y = { x with ins := y.ins }) (fun _ _ => rfl) (fun _ _ _ _ h1 h2 => by rw [h2, h1]) hc (hall fun _ _ _ h => h) c

/-- A segment that has come: its item, and what tiles know of their input. -/
theorem come_shows (f : SbItem → SbItem) (k : Nat) {st : Stage} (hst : s.stage (s.part d) stage = some st) {o : Option Replica} {t : State}
    (ht : t = after (seqA [touchItem d i stage rep f, forOpt (some st) fun st => forOpt o fun r => claimInput i st r k]) s) :
    (∃ step, t.die d = (s.die d).touch i stage rep (SbItem.fresh i stage rep st.nIn step)
      fun y => (f y).settle (s.combines (s.part d) stage) s.mile (s.die d).sbOrd) ∧ OnlySb d s s t := by
  obtain ⟨u, hu⟩ : ∃ u, u = after (touchItem d i stage rep f) s := ⟨_, rfl⟩
  have hcu : u.canon = true := hu ▸ after_canon _ s hc
  obtain ⟨⟨step, hd⟩, hdies, hf⟩ := touchItem_shows hc f hst hu
  have htu : t = after (forOpt o fun r => claimInput i st r k) u := by
    rw [ht, after_seqA_cons, ← hu, after_seqA_cons, after_seqA_end, after_forOpt_some]
  have hins : CoresButIns [] u t ∧ t = { u with cores := t.cores } := by
    cases o with
    | none =>
      rw [htu, after_forOpt_none]
      exact ⟨fun _ _ => rfl, rfl⟩
    | some r => exact claimInput_ins hcu i st r k htu
  obtain ⟨hins, hft⟩ := hins
  have hdt : ∀ e, t.die e = u.die e := fun e => by
    rw [hft]
    rfl
  refine ⟨⟨step, (hdt d).trans hd⟩, ?_, fun e he => (hdt e).trans (hdies e he), fun c hcm => ?_, by rw [hft, hf]⟩
  · rw [hdt, hd, touch_die]
  · rw [hins c hcm, hf]
    rfl

end

section
variable {s : State} (hc : s.canon = true) {d : Fin 32} {i : Fin 1048576} {stage : BitVec 16} {st : Stage} (hst : s.stage (s.part d.val) stage.toNat = some st)
include hc hst

theorem arrivalReport_adds (rep : BitVec 8) (seg : BitVec 16) (carried : Option Carried) (htr : s.tracks d.val stage.toNat rep.toNat = true)
    (ho : (s.passage i.val).open_ = true) : ∃ t, exec (.arrivalReport d i stage ⟨rep, seg, carried⟩) s = .next t ∧ OnlySb d.val s s t ∧
      ((s.die d.val).sb.any (SbItem.is i.val stage.toNat rep.toNat) = false → ∃ y, (t.die d.val).sb = (s.die d.val).sb ++ [y] ∧
        y.is i.val stage.toNat rep.toNat = true ∧ y.got = 1 ∧ y.need = st.nIn ∧ y.gate = (carried.bind fun c => c.gate.map Fin.val) ∧
        (s.combines (s.part d.val) stage.toNat = false → y.ready = decide (st.nIn ≤ 1))) ∧
      (∀ x ∈ (s.die d.val).sb, x.is i.val stage.toNat rep.toNat = true → ∃ y ∈ (t.die d.val).sb, y.is i.val stage.toNat rep.toNat = true ∧
        y.got = x.got + 1 ∧ (s.combines (s.part d.val) stage.toNat = false → y.ready = (x.ready || decide (x.need ≤ x.got + 1)))) ∧
      (∀ x ∈ (s.die d.val).sb, x.is i.val stage.toNat rep.toNat = false → x ∈ (t.die d.val).sb) := by
  obtain ⟨f, hf⟩ : ∃ f : SbItem → SbItem, f = fun x => { x with got := x.got + 1, gate := (carried.bind fun c => c.gate.map Fin.val).or x.gate } := ⟨_, rfl⟩
  obtain ⟨t, ht⟩ : ∃ t, t = after (seqA [touchItem d.val i.val stage.toNat rep.toNat f, forOpt (some st) fun st => forOpt (s.repOf (s.part d.val) stage.toNat rep.toNat)
    fun r => claimInput i.val st r seg.toNat]) s := ⟨_, rfl⟩
  obtain ⟨⟨step, hd⟩, honly⟩ := come_shows hc f seg.toNat hst ht
  have hfi : ∀ x, (f x).is i.val stage.toNat rep.toNat = x.is i.val stage.toNat rep.toNat := fun x => by
    rw [hf]
    rfl
  refine ⟨t, congrArg Host.Outcome.next ?_, honly, fun hn => ?_, fun x hx hi => ?_, fun x hx hi => ?_⟩
  · rw [ht, hf]
    refine after_congr ?_
    dsimp only
    rw [if_neg (by rw [hst, htr]; simp), if_pos ho, hst]
  · rw [hd, touch_made hn]
    refine ⟨_, rfl, ?_, ?_, ?_, ?_, fun hcomb => ?_⟩
    · rw [settle_is, hfi]
      simp [SbItem.is, SbItem.fresh]
    · rw [settle_got, hf]
      rfl
    · rw [settle_need, hf]
      rfl
    · rw [settle_gate, hf]
      exact Option.or_none
    · rw [hcomb, settle_ready, hf]
      exact Bool.false_or _
  · refine ⟨_, hd ▸ touch_here _ _ hx hi, ?_, ?_, fun hcomb => ?_⟩
    · rw [settle_is, hfi, hi]
    · rw [settle_got, hf]
    · rw [hcomb, settle_ready, hf]
  · rw [hd]
    exact touch_rest _ _ hx hi

theorem arrivalReport_guest (rep : BitVec 8) (seg : BitVec 16) (c : Carried) (htr : s.tracks d.val stage.toNat rep.toNat = true)
    (h0 : (s.passage i.val).st = 0) (hparts : 1 < s.nParts (s.part d.val)) (hidx : c.handle.toNat % 1048576 = i.val) :
    ∃ t, exec (.arrivalReport d i stage ⟨rep, seg, some c⟩) s = .next t ∧
      t.passage i.val = guestOf (s.part d.val) (s.job (s.part d.val)).job c ∧ PassagesBut [i.val] s t ∧
      OnlySb d.val s { s with passages := t.passages } t ∧ ∃ y ∈ (t.die d.val).sb, y.is i.val stage.toNat rep.toNat = true := by
  obtain ⟨f, hf⟩ : ∃ f : SbItem → SbItem, f = fun x => { x with got := x.got + 1, gate := (c.gate.map Fin.val).or x.gate } := ⟨_, rfl⟩
  obtain ⟨u, hu⟩ : ∃ u, u = after (modPassage i.val fun _ => guestOf (s.part d.val) (s.job (s.part d.val)).job c) s := ⟨_, rfl⟩
  have hcu : u.canon = true := hu ▸ after_canon _ s hc
  have hfu : u = { s with passages := u.passages } := hu ▸ after_overlay [.passages] (by simp)
  have hstu : u.stage (u.part d.val) stage.toNat = some st := by
    rw [hfu]
    exact hst
  obtain ⟨t, ht⟩ : ∃ t, t = after (seqA [touchItem d.val i.val stage.toNat rep.toNat f, forOpt (some st) fun st => forOpt (s.repOf (s.part d.val) stage.toNat rep.toNat)
    fun r => claimInput i.val st r seg.toNat]) u := ⟨_, rfl⟩
  obtain ⟨⟨step, hd⟩, h1, h2, h3, h4⟩ := come_shows hcu f seg.toNat hstu ht
  have hpt : t.passages = u.passages := by rw [h4]
  have hdu : ∀ e, u.die e = s.die e := fun e => by
    rw [hfu]
    rfl
  have hcoreu : ∀ e, u.core e = s.core e := fun e => by
    rw [hfu]
    rfl
  refine ⟨t, congrArg Host.Outcome.next ?_, ?_, fun j hj => ?_, ⟨?_, fun e he => (h2 e he).trans (hdu e), fun e he => ?_, ?_⟩, ?_⟩
  · rw [ht, hu, hf]
    refine (after_congr (b := seqA [modPassage i.val fun _ => guestOf (s.part d.val) (s.job (s.part d.val)).job c, seqA [touchItem d.val i.val stage.toNat rep.toNat
      fun x => { x with got := x.got + 1, gate := (c.gate.map Fin.val).or x.gate }, forOpt (some st) fun st => forOpt (s.repOf (s.part d.val) stage.toNat rep.toNat)
        fun r => claimInput i.val st r seg.toNat]]) ?_).trans ?_
    · dsimp only
      rw [if_neg (by rw [hst, htr]; simp), if_neg (by simp [Passage.open_, h0]), if_pos ⟨h0, hparts, hidx⟩, hst]
      rfl
    · rw [after_seqA_cons, after_seqA_cons, after_seqA_end]
  · rw [State.passage, hpt, ← State.passage, hu, modPassage, after_eff, passage_ap_passage s hc, if_pos rfl]
  · rw [State.passage, hpt, ← State.passage, hu, modPassage, after_eff, passage_ap_passage s hc, if_neg (by simpa using hj)]
  · rw [h1, hdu]
  · rw [h3 e he, hcoreu]
  · rw [h4, hfu]
  · obtain ⟨y, hy, hyi⟩ := touch_some i.val stage.toNat rep.toNat (SbItem.fresh i.val stage.toNat rep.toNat st.nIn step) _ (u.die d.val)
    rw [← hd] at hy
    refine ⟨_, hy, ?_⟩
    rw [settle_is, hf]
    obtain rfl | ⟨-, hyi⟩ := hyi
    · simp [SbItem.is, SbItem.fresh]
    · exact hyi

omit hc hst in
theorem arrivalReport_elsewhere (rep : BitVec 8) (seg : BitVec 16) (carried : Option Carried) (htr : s.tracks d.val stage.toNat rep.toNat = false) :
    exec (.arrivalReport d i stage ⟨rep, seg, carried⟩) s = .next s := by
  refine congrArg Host.Outcome.next ?_
  exact (after_congr (b := skip) (if_pos (.inr htr))).trans (after_skipped s)

theorem expertCount_shows (ho : (s.passage i.val).open_ = true) (n : Fin 17) {rep : Nat} (hrep : rep = s.combineRep d.val i.val stage.toNat) :
    (∃ t, exec (.expertCount d i stage false n) s = .next t ∧ OnlySb d.val s s t ∧
      ∃ y ∈ (t.die d.val).sb, y.is i.val stage.toNat rep = true ∧ y.exp = some n.val) ∧
    (∃ t, exec (.expertCount d i stage true n) s = .next t ∧ OnlySb d.val s s t ∧
      ∀ x ∈ (s.die d.val).sb, x.is i.val stage.toNat rep = true → ∃ y ∈ (t.die d.val).sb, y.is i.val stage.toNat rep = true ∧
        y.exp = x.exp.map fun k => k - 1) := by
  have hrun : ∀ (dec : Bool) (t : State), t = after (touchItem d.val i.val stage.toNat rep fun x => { x with exp := if dec then x.exp.map (fun k => k - 1) else some n.val }) s →
      exec (.expertCount d i stage dec n) s = .next t := fun dec t ht => by
    refine congrArg Host.Outcome.next ?_
    rw [ht, hrep]
    exact after_congr (if_pos ⟨ho, by rw [hst]; rfl⟩)
  have honly : ∀ {f : SbItem → SbItem} {t : State}, t = after (touchItem d.val i.val stage.toNat rep f) s → OnlySb d.val s s t := fun ht => by
    obtain ⟨⟨step, h1⟩, h2, h3⟩ := touchItem_shows hc _ hst ht
    refine ⟨?_, h2, fun e _ => ?_, ?_⟩
    · rw [h1, touch_die]
    · rw [h3]
      rfl
    · rw [h3]
  refine ⟨⟨_, hrun false _ rfl, honly rfl, ?_⟩, ⟨_, hrun true _ rfl, honly rfl, fun x hx hi => ?_⟩⟩
  · obtain ⟨⟨step, h1⟩, -, -⟩ := touchItem_shows hc (i := i.val) (rep := rep) (fun x => { x with exp := some n.val }) hst rfl
    obtain ⟨y, hy, hyi⟩ := touch_some i.val stage.toNat rep (SbItem.fresh i.val stage.toNat rep st.nIn step) _ (s.die d.val)
    rw [← h1] at hy
    refine ⟨_, hy, ?_, by rw [settle_exp]⟩
    rw [settle_is]
    obtain rfl | ⟨-, hyi⟩ := hyi
    · simp [SbItem.is, SbItem.fresh]
    · exact hyi
  · obtain ⟨⟨step, h1⟩, -, -⟩ := touchItem_shows hc (i := i.val) (rep := rep) (fun x => { x with exp := x.exp.map (fun k => k - 1) }) hst rfl
    refine ⟨_, h1 ▸ touch_here _ _ hx hi, ?_, by rw [settle_exp]⟩
    rw [settle_is]
    exact hi

end

end Sys2Proof.Machine

open Sys2Proof Sys2Proof.Machine

/-- Settles O27: every report is one change of the scoreboard's item, made where it is not there. -/
theorem scoreboardReports : Obligations.ScoreboardReports := fun _ _ _ _ _ hc hst =>
  ⟨fun rep seg carried htr ho => arrivalReport_adds hc hst rep seg carried htr ho,
    fun rep seg c htr h0 hparts hidx => arrivalReport_guest hc hst rep seg c htr h0 hparts hidx,
    fun rep seg carried htr => arrivalReport_elsewhere rep seg carried htr, fun ho n => expertCount_shows hc hst ho n rfl⟩

end

section
/-!
SUPPORT. A dispatched item whose input is written outside the drive buffers.
-/
namespace Sys2Proof.Machine

open Tests in
/-- The test state of a batch at a replica of one tile, whose input is noted as half 100: 528 bytes for each half place it beyond the tile's
drive buffers. -/
def inputBeyond : State := after (modCore c0 fun k => { k with ins := [⟨100, some 5, none, [1], []⟩] }) (batched (stg 0))

end Sys2Proof.Machine

open Sys2Proof Sys2Proof.Machine

/-- Refutes O28: an input's segment is written at 528 bytes for each half, whatever its half, so that of half 100 changes a byte far
beyond the tile's two drive buffers. -/
theorem not_batchesAndDispatch : ¬ Obligations.BatchesAndDispatch := by
  unfold Obligations.BatchesAndDispatch
  intro h
  obtain ⟨hc, hn, hst, hsb, hopen, hsw, hp2⟩ : inputBeyond.canon = true ∧
      inputBeyond.nextItem 0 0 0 = some (⟨0, 0, 0, 0, Recipe.zero, [5], 0, 1, true, none⟩, 5) ∧
      inputBeyond.stage (inputBeyond.part 0) 0 = some (Tests.stg 0) ∧
      (inputBeyond.die 0).sb.find? (SbItem.is 5 0 0) = some (Tests.item 1) ∧ (inputBeyond.passage 5).open_ = true ∧
      (inputBeyond.job (inputBeyond.part 0)).switches.filter (fun y => y.stage == 0 && y.rep == 0) = [] ∧
      (inputBeyond.passage 5).st ≠ 2 := by decide +kernel
  obtain ⟨hrep, hcopy, harr, hq, hcore⟩ : inputBeyond.repOf (inputBeyond.part 0) 0 0 = some (Tests.rep0 [Tests.t0]) ∧
      inputBeyond.copyOf (inputBeyond.part 0) 0 0 (inputBeyond.passage 5).epoch = none ∧
      (∀ t ∈ (Tests.rep0 [Tests.t0]).tiles, inputBeyond.arrState t ≠ 2 ∧ inputBeyond.arrState t ≠ 3) ∧
      inputBeyond.queuesOpen (Tests.rep0 [Tests.t0]) = true ∧
      (∀ t ∈ (Tests.rep0 [Tests.t0]).tiles, (inputBeyond.core (.tile t)).st ≠ 3) := by decide +kernel
  obtain ⟨t, ht, -, hbytes, -⟩ := (h.2 inputBeyond 0 0 0 _ 5 _ _ hc hn hst hsb hopen hsw (.inl hp2)).1
    (Tests.rep0 [Tests.t0]) (by decide) hrep hcopy rfl harr (by simp [Tests.stg]) hq hcore (by decide)
  have hrun : (match exec (.workDispatch 0 0 0) inputBeyond with
    | .next t => t.byte (sramBase Tests.t0 + 0x1600 + 52800)
    | _ => 0) = 1 := by decide +kernel
  have hbefore : inputBeyond.byte (sramBase Tests.t0 + 0x1600 + 52800) = 0 := by decide +kernel
  rw [ht] at hrun
  have hafter : t.byte (sramBase Tests.t0 + 0x1600 + 52800) = 1 := hrun
  rw [hbytes _ fun y hy => .inr ?_, hbefore] at hafter
  · exact absurd hafter (by decide)
  · obtain rfl : y = Tests.t0 := by simpa [Tests.rep0] using hy
    show sramBase Tests.t0 + 0x2200 ≤ _
    omega
end

section
/-!
SUPPORT. A wave announced clear, with passages whose entries are written through a full stream cache.
-/
namespace Sys2Proof.Machine

/-- Twelve lines of a cache set that are no lines of the stacks: one written back counts where the swap status of partition 0 stands. -/
def strayLines : List CLine := List.replicate 12 ⟨(15 * 2 ^ 20 - 19) * 2 ^ 29, true, false, false⟩

open Tests in
/-- The test state of a swap at its waves, with CODE and bits 15:12 of its status set, and seven passages held for a curfew that no longer
stands, each with an entry in the stack that fails its CRC-16. The lines of their entries and of their completions find sets full of stray lines. (Each
passage has a home and a completion ring of its own, at lower addresses the later it ends, so that a read of its entry passes few bytes already written.) -/
def manyHeld : State := swapping 3 1 { swap0 with nWave := 0, waves := [] } ([setF F.KPR_STS_STATE 0 0, setReg .ldr 0 0x130 0xFF300,
    setF F.STK_PF_CTL_EN (dieOfStack 0) 0, modDie (dieOfStack 0) fun x => { x with
      cache := (List.range 7).map (fun k => (16 * k + 23, strayLines)) ++ (List.range 8).map fun k => (k + 256, strayLines) }] ++
  (List.range 7).flatMap fun k => [setF F.PAS_PT_BASE_VALID k 1, setF F.PAS_PT_BASE_ADDR k (7 - k),
    setReg .pas k 0x128 (BitVec.ofNat 64 (2 ^ 63 + 0x10000 + 256 * (7 - k) + 4)), modPassage (2 * k) fun p => { p with
      home := k, cring := k, handle := BitVec.ofNat 32 (0x00100000 + 2 * k), st := 2, heldFrom := 3, hold := 1 }])

/-- LOW_WAVE after a step, of partition 0. -/
def lowWaveAfter (o : Host.Outcome State Fault Refusal) : Nat :=
  match o with
  | .next t => t.fld F.LDR_SWAP_STS_LOW_WAVE 0
  | _ => 0

set_option maxRecDepth 20000 in
theorem lowWaveAfter_manyHeld : lowWaveAfter (exec (.waveClear 0 0) manyHeld) = 1 := by decide +kernel

end Sys2Proof.Machine

open Sys2Proof Sys2Proof.Machine

/-- Refutes O35: a line that leaves a stream cache dirty counts 256 bytes for the die its number gives, and the count of a die beyond the part's
is another unit's register: fourteen of them carry into LOW_WAVE. -/
theorem not_swaps : ¬ Obligations.Swaps := by
  unfold Obligations.Swaps
  intro h
  obtain ⟨hc, hw, hst⟩ : manyHeld.canon = true ∧
      (manyHeld.job 0).swap = some { Tests.swap0 with nWave := 0, waves := [] } ∧ manyHeld.fld F.LDR_SWAP_STS_STATE 0 = 3 := by decide +kernel
  obtain ⟨t, ht, hlow, -⟩ := (h.2 manyHeld 0 _ hc hw hst).2 0
  have hrun := lowWaveAfter_manyHeld
  rw [ht] at hrun
  have hzero : t.fld F.LDR_SWAP_STS_LOW_WAVE 0 = 0 := hlow
  exact absurd (hrun.symm.trans hzero) (by decide)
end

section
/-!
SUPPORT. A window given up whose lines stand in a slice out of their order.
-/
namespace Sys2Proof.Machine

/-- A line of a slice, clean. -/
def cleanLine (line : Nat) : CLine := ⟨line, false, false, false⟩

/-- The test state with the first 4 KiB a window of die 1, whose slice lists sets 9, 3 and 9 again: set 3 shows only when the first 9 is gone. -/
def hiddenLine : State := after (seqA [eff fun _ => .win 0 ⟨true, 0, 0, 1⟩,
  modDie 1 fun x => { x with cache := [(9, [cleanLine 9]), (3, [cleanLine 3]), (9, [cleanLine 9])] }]) Tests.up

end Sys2Proof.Machine

open Sys2Proof Sys2Proof.Machine

/-- Refutes O31: a canonical state may list the sets of a slice out of order, `State.canon` holding no map inside a die, and the flush that a
change of a window makes then leaves a line in sight. -/
theorem not_stackRequests : ¬ Obligations.StackRequests := by
  unfold Obligations.StackRequests
  intro h
  have hc : hiddenLine.canon = true := by decide +kernel
  obtain ⟨-, -, -, -, hwin, -⟩ := h.2 hiddenLine 0 hc
  obtain ⟨t, ht, -, -, hgone, -⟩ := (hwin 0 0 0).1
  have hrun : (match exec (.windowOwnerChange 0 0 0 none) hiddenLine with
    | .next t => (t.hit 1 3).isSome
    | _ => false) = true := by decide +kernel
  rw [ht] at hrun
  have hsome : (t.hit 1 3).isSome = true := hrun
  rw [(hgone 1 3 (by decide) (.inl (by decide +kernel))).1] at hsome
  exact Bool.false_ne_true hsome
end

section
/-!
SUPPORT. A tile left for two logical arrays at once.
-/
namespace Sys2Proof.Machine

/-- The test state of a rebind while the Keeper is down, with another of the same tile to the same spare, for a stage 1. -/
def rebindTwice : State := after (seqA [setF F.KPR_STS_STATE 0 0,
  modJob 0 fun j => { j with rebinds := j.rebinds ++ [{ Tests.rebind1 with stage := 1 }] }]) Tests.rebinding

end Sys2Proof.Machine

open Sys2Proof Sys2Proof.Machine

/-- Refutes O24: a rebind is found ready by the tile it leaves, so another of the same tile is ended with it, and its items are queued at the
spare too. -/
theorem not_binding : ¬ Obligations.Binding := by
  unfold Obligations.Binding
  intro h
  obtain ⟨hc, hof, harr, hidle, hone, hready⟩ : rebindTwice.canon = true ∧ rebindTwice.rebindOf Tests.spare1 = some (0, Tests.rebind1) ∧
      rebindTwice.arrState Tests.spare1 = 1 ∧
      (((rebindTwice.die 0).progQ.any (fun q => q.tile == Tests.spare1) = false ∧ (rebindTwice.die 0).progNow.any (fun q => q.tile == Tests.spare1) = false) ∧
        (rebindTwice.die 0).calDue.any (fun q => q.tile == Tests.spare1) = false ∧ (rebindTwice.die 0).calNow.any (fun q => q.tile == Tests.spare1) = false) ∧
      ((rebindTwice.job 0).rebinds.filter fun y => y.stage == 0 && y.rep == 0) = [Tests.rebind1] ∧
      (∀ y ∈ (rebindTwice.job 0).rebinds, y.ready = true → y.old = Tests.t0) := by decide +kernel
  have hwait : (after (respare 0 0 0) (after (modJob 0 fun j =>
      { j with rebinds := j.rebinds.map fun y => if y.old == Tests.t0 then { y with ready := true } else y }) rebindTwice)).routesWait 0 = false := by
    decide +kernel
  obtain ⟨t, ht, -, -, hq, -⟩ := (h.2.2 rebindTwice Tests.spare1 0 Tests.rebind1 hc hof harr hidle.1.1 hidle.1.2 hidle.2.1 hidle.2.2 rfl (by decide)
    hone hready).2 hwait
  have hrun : (match exec (.rebindSpareReady Tests.spare1) rebindTwice with
    | .next t => (t.core (.tile Tests.spare1)).queue.length
    | _ => 0) = 2 := by decide +kernel
  have hnone : (rebindTwice.core (.tile Tests.spare1)).queue.length = 0 := by decide +kernel
  rw [ht] at hrun
  have htwo : (t.core (.tile Tests.spare1)).queue.length = 2 := hrun
  have hlen := congrArg List.length hq
  simp [htwo, hnone, Tests.rebind1] at hlen
end

section
/-!
SUPPORT. An OPEN entry read through a full set of the stream cache.
-/
namespace Sys2Proof.Machine

/-- The test state with an OPEN to take, where the line of its entry finds a set full of stray lines, and the fields below the epoch in the swap
status of partition 0 are all ones. -/
def opensEpoch : State := after (seqA [setReg .ldr 0 0x130 0xFFFFFFFF, modDie 1 fun x => { x with cache := [(136, strayLines)] }]) Tests.opens0

/-- The epoch of passage 7 after a step. -/
def epochAfter (o : Host.Outcome State Fault Refusal) : Nat :=
  match o with
  | .next t => (t.passage 7).epoch
  | _ => 0

theorem epochAfter_opensEpoch : epochAfter (exec (.openEntry 0) opensEpoch) = 1 := by decide +kernel

end Sys2Proof.Machine

open Sys2Proof Sys2Proof.Machine

/-- Refutes O25: the read of an OPEN entry may write a line back before the epoch of admission is read, and a stray line counts its bytes in the
register that holds the epoch. -/
theorem not_entriesAreTaken : ¬ Obligations.EntriesAreTaken := by
  unfold Obligations.EntriesAreTaken
  intro h
  obtain ⟨hc, hmay, hheld, hlast⟩ : opensEpoch.canon = true ∧ opensEpoch.mayAdmit 0 = true ∧
      (opensEpoch.heldE (opensEpoch.aringEntry 0) 64).isEmpty = true ∧ (opensEpoch.cachedOn 0).length < 2048 := by decide +kernel
  obtain ⟨hown, hcrc, hop, hcheck, hpoison⟩ : leAt (opensEpoch.bytes (opensEpoch.aringEntry 0) 64) 63 1 % 2 = 1 ∧
      crc16Ok (opensEpoch.bytes (opensEpoch.aringEntry 0) 64) 0x3C = true ∧ leAt (opensEpoch.bytes (opensEpoch.aringEntry 0) 64) 0 1 = 1 ∧
      openCheck opensEpoch 0 (opensEpoch.bytes (opensEpoch.aringEntry 0) 64) = 0 ∧
      opensEpoch.poisoned (opensEpoch.aringEntry 0) 64 = false := by decide +kernel
  have hopen := (h opensEpoch 0 hc).1
  dsimp only [Fin.val_zero] at hopen
  obtain ⟨t, ⟨ht, -⟩, hopened, -⟩ := (hopen hmay hheld hown).2.1 hcrc hpoison hop hcheck hlast
  obtain ⟨hidx, hepoch⟩ : leAt (opensEpoch.bytes (opensEpoch.aringEntry 0) 64) 4 4 % 1048576 = 7 ∧
      (openPassage opensEpoch 0 (opensEpoch.bytes (opensEpoch.aringEntry 0) 64)).epoch = 0 := by decide +kernel
  have hone : (t.passage 7).epoch = 1 := (congrArg epochAfter ht).symm.trans epochAfter_opensEpoch
  have hsame := congrArg Passage.epoch hopened
  rw [hidx, hone, hepoch] at hsame
  exact absurd hsame (by decide)
end

section
/-!
SUPPORT. Step barriers (R401).
-/
namespace Sys2Proof.Machine

section
variable {s : State} (hc : s.canon = true)
include hc

/-- A plain field reads what a write of its register gives it (R9). -/
theorem fld_storeRW {f : Fld} {i : Nat} {v : Word} (x : Nat) (h : ∃ r ∈ rowOf f.blk f.off, r.apart = true ∧ (⟨f.hi, f.lo, .rw, x⟩ : RegFld) ∈ r.flds) :
    (after (storeRW f.blk i f.off v) s).fld f i = f.of v := by
  obtain ⟨r, hr, hap, hm⟩ := h
  have hact : storeRW f.blk i f.off v s = [.reg f.blk i f.off (writeCodes r (s.reg f.blk i f.off) v)] := by
    rw [storeRW, writeReg, Option.mem_def.1 hr]
  have hreg : (after (storeRW f.blk i f.off v) s).reg f.blk i f.off = writeCodes r (s.reg f.blk i f.off) v := by
    rw [after, hact]
    exact (reg_ap_reg s hc _ _ _ _ _ _ _).trans (if_pos rfl)
  rw [State.fld, hreg, Fld.of, bitsOf_writeCodes hap hm]
  rfl

/-- The dies of a partition change alike. -/
theorem onDies_shows (p : Nat) (g : Die → Die) {t : State} (ht : t = after (onDies p fun d => modDie d g) s) :
    (∀ d ∈ s.partDies p, t.die d = g (s.die d)) ∧ t = { s with dies := t.dies } := by
  have ht' : t = after (forA (s.partDies p) fun d => modDie d g) s := by rw [ht, onDies, after_withA]
  refine ⟨fun d hd => ?_, ht' ▸ forA_modDie_frame _ _⟩
  rw [ht', die_forA_modDie hc (partDies_nodup s p), if_pos hd]

/-- What the registers and the slice of a partition show at the end of its barrier. -/
def barShown (p st code : Nat) (late : Bool) (rel : Option Word) : Act :=
  seqA [setF F.BFP_BAR_STS_STATE p st, setF F.BFP_BAR_STS_CODE p code, setB F.BFP_BAR_STS_LATE p late, setF F.BFP_BAR_STS_BUSY p 0,
    forOpt rel (setReg .fab p 0x8060)]

theorem barShown_shows {p st code : Nat} (hst : st < 16) (hcode : code < 16) (late : Bool) (rel : Option Word) {t : State}
    (ht : t = after (barShown p st code late rel) s) : t.fld F.BFP_BAR_STS_STATE p = st ∧ t.fld F.BFP_BAR_STS_CODE p = code ∧
      t.flag F.BFP_BAR_STS_LATE p = late ∧ t.fld F.BFP_BAR_STS_BUSY p = 0 ∧ (∀ m, rel = some m → t.reg .fab p 0x8060 = m) ∧
      t = { s with regs := t.regs } := by
  have hf : t = { s with regs := t.regs } := ht ▸ after_overlay [.regs] (a := barShown p st code late rel) (by simp [barShown])
  subst ht
  cases rel with
  | none =>
    refine ⟨?_, ?_, ?_, ?_, (fun _ h => nomatch h), hf⟩ <;>
    simp (disch := repeat' (first | assumption | apply after_canon | decide)) only [barShown, State.flag, forOpt, setB, after_seqA_cons,
      after_seqA_end, after_skip, fld_set_bits, fld_set_same]
    · exact Nat.mod_eq_of_lt hst
    · exact Nat.mod_eq_of_lt hcode
    · cases late <;> rfl
    · rfl
  | some m =>
    refine ⟨?_, ?_, ?_, ?_, fun _ h => ?_, hf⟩
    on_goal 5 => cases h
    all_goals
      simp (disch := repeat' (first | assumption | apply after_canon | decide)) only [barShown, State.flag, forOpt, setB, after_seqA_cons,
        after_seqA_end, fld_setReg_off, reg_setReg_same, fld_set_bits, fld_set_same]
    · exact Nat.mod_eq_of_lt hst
    · exact Nat.mod_eq_of_lt hcode
    · cases late <;> rfl
    · rfl

/-- From s to t the barrier of a partition has ended. -/
def BarEnded (p st code : Nat) (late : Bool) (s t : State) : Prop :=
  t.fld F.BFP_BAR_STS_STATE p = st ∧ t.fld F.BFP_BAR_STS_CODE p = code ∧
    t.flag F.BFP_BAR_STS_LATE p = late ∧ t.fld F.BFP_BAR_STS_BUSY p = 0 ∧ (t.slice p).barRel = none ∧
    (∀ d ∈ s.partDies p, t.die d = { s.die d with holdAdm := false }) ∧ t = { s with regs := t.regs, slices := t.slices, dies := t.dies }

theorem barEnd_shows {p st code : Nat} (hst : st < 16) (hcode : code < 16) (late : Bool) (rel : Option Word) {t : State}
    (ht : t = after (barEnd p st code late rel) s) : BarEnded p st code late s t ∧ ∀ m, rel = some m → t.reg .fab p 0x8060 = m := by
  obtain ⟨x, hx⟩ : ∃ x, x = after (barShown p st code late rel) s := ⟨_, rfl⟩
  obtain ⟨y, hy⟩ : ∃ y, y = after (modSlice p fun x => { x with barRel := none }) x := ⟨_, rfl⟩
  have hcx : x.canon = true := hx ▸ after_canon _ s hc
  have hcy : y.canon = true := hy ▸ after_canon _ x hcx
  obtain ⟨h1, h2, h3, h4, h5, hfx⟩ := barShown_shows hc hst hcode late rel hx
  have hfy : y = { x with slices := y.slices } := hy ▸ rfl
  have hty : t = after (onDies p fun d => modDie d fun x => { x with holdAdm := false }) y := by
    rw [ht, barEnd]
    simp only [barShown, after_seqA_cons, after_seqA_end] at hx ⊢
    rw [← hx, ← hy]
  obtain ⟨h6, hft⟩ := onDies_shows hcy p _ hty
  have hr : ∀ b i o, t.reg b i o = x.reg b i o := fun b i o => by rw [hft, hfy]; rfl
  have hg : ∀ f i, t.fld f i = x.fld f i := fun f i => congrArg f.of (hr ..)
  have hdie : ∀ d, y.die d = s.die d := fun d => by rw [hfy, hfx]; rfl
  have hpart : y.partDies p = s.partDies p := by rw [hfy, hfx]; rfl
  refine ⟨⟨(hg ..).trans h1, (hg ..).trans h2, (by rw [State.flag, hg]; exact h3), (hg ..).trans h4, ?_, fun d hd => ?_, by rw [hft, hfy, hfx]⟩,
    fun m hm => (hr ..).trans (h5 m hm)⟩
  · have hs : t.slice p = y.slice p := by rw [hft]; rfl
    rw [hs, hy, modSlice, after_eff, slice_ap_slice x hcx, if_pos rfl]
  · rw [h6 d (hpart ▸ hd), hdie]

end

/-! ## What begins one -/

theorem after_seqA_four (a b c d : Act) (s : State) :
    after (seqA [a, b, c, d]) s = after d (after c (after b (after a s))) := by simp only [after_seqA_cons, after_seqA_end]

/-- What a barrier command shows (R401). -/
def barAsked (p num st code : Nat) (busy : Bool) : Act := seqA [setF F.BFP_BAR_STS_NUM p num, setF F.BFP_BAR_STS_CODE p code,
  setF F.BFP_BAR_STS_STATE p st, setF F.BFP_BAR_STS_LATE p 0, setB F.BFP_BAR_STS_BUSY p busy]

theorem barAsked_shows {s : State} (hc : s.canon = true) {p num st code : Nat} (hst : st < 16) (hcode : code < 16) (hnum : num < 65536) (busy : Bool)
    {t : State} (ht : t = after (barAsked p num st code busy) s) : t.fld F.BFP_BAR_STS_STATE p = st ∧ t.fld F.BFP_BAR_STS_CODE p = code ∧
      t.flag F.BFP_BAR_STS_BUSY p = busy ∧ t.fld F.BFP_BAR_STS_NUM p = num ∧ RegsBut [regKey .fab p F.BFP_BAR_STS_STATE.off] s t ∧
      t = { s with regs := t.regs } := by
  have hf : t = { s with regs := t.regs } := ht ▸ after_overlay [.regs] (a := barAsked p num st code busy) (by simp [barAsked])
  have hr : RegsBut [regKey .fab p F.BFP_BAR_STS_STATE.off] s t := ht ▸ after_regsBut hc (by simp [barAsked])
  subst ht
  refine ⟨?_, ?_, ?_, ?_, hr, hf⟩ <;>
    simp (disch := repeat' (first | assumption | apply after_canon | decide)) only [barAsked, State.flag, setB, after_seqA_cons,
      after_seqA_end, fld_set_bits, fld_set_same]
  · exact Nat.mod_eq_of_lt hst
  · exact Nat.mod_eq_of_lt hcode
  · cases busy <;> rfl
  · exact Nat.mod_eq_of_lt hnum

/-- What a barrier command does once its fields are stored (R401 step 1). -/
def barBegin (p : Nat) : Act := fun s =>
  let x := s.slice p
  let num := s.fld F.BFP_BAR_CMD_NUM p
  if x.set = false then barAsked p num 3 4 false s
  else seqA [barAsked p num 1 0 true, modSlice p fun y => { y with barRel := none },
    whenA (fun s => s.flag F.BFP_BAR_CMD_HOLD p) (onDies p fun d => modDie d fun x => { x with holdAdm := true }),
    emit (.arrive (fabMsg 0x42 (s.fld F.MSC_STS_LOCK 0) x.job s.coord s.mile num))] s

section
variable {s : State} (hc : s.canon = true) {src : Src} {v : Word} {p : Nat} (hp : p = s.bank src .fab)
  (ht : s.takes src .fab p 0x8050 = true) (hv : bitsOf v 0 0 = 1) (hb : s.flag F.BFP_BAR_STS_BUSY p = false)
include hc hp ht hv hb

omit hc in
theorem exec_barrierGo : exec (.barrierGo src v) s = .next (after (barBegin p) (after (storeRW .fab p 0x8050 v) s)) := by
  subst hp
  have h : hostBarrierGo src v s =
    goCmd src .fab (s.bank src .fab) 0x8050 F.BFP_BAR_STS_BUSY F.BFP_BAR_STS_LOST v (barBegin (s.bank src .fab)) s := rfl
  exact congrArg Host.Outcome.next ((after_congr (a := hostBarrierGo src v) h).trans (after_goCmd _ ht hv hb))

theorem barrierGo_sliceless (hs : (s.slice p).set = false) : ∃ t, exec (.barrierGo src v) s = .next t ∧ t.fld F.BFP_BAR_STS_STATE p = 3 ∧
    t.fld F.BFP_BAR_STS_CODE p = 4 ∧ RegsBut [regKey .fab p 0x8050, regKey .fab p F.BFP_BAR_STS_STATE.off] s t ∧
    t = { s with regs := t.regs } := by
  obtain ⟨u, hu⟩ : ∃ u, u = after (storeRW .fab p 0x8050 v) s := ⟨_, rfl⟩
  have hcu : u.canon = true := hu ▸ after_canon _ s hc
  have hfu : u = { s with regs := u.regs } := hu ▸ storeRW_frame _ _ _ _ _
  have hru : RegsBut _ s u := hu ▸ storeRW_regsBut hc .fab p 0x8050 v
  obtain ⟨t, ht'⟩ : ∃ t, t = after (barAsked p (u.fld F.BFP_BAR_CMD_NUM p) 3 4 false) u := ⟨_, rfl⟩
  obtain ⟨h1, h2, -, -, h5, h6⟩ := barAsked_shows hcu (by decide) (by decide) (bitsOf_lt ..) false ht'
  have hset : (u.slice p).set = false := by rw [hfu]; exact hs
  refine ⟨t, ?_, h1, h2, fun k hk => ?_, by rw [h6, hfu]⟩
  · rw [exec_barrierGo hp ht hv hb, ← hu, ht']
    exact congrArg Host.Outcome.next (after_congr (by simp only [barBegin, hset, if_true]))
  · simp only [List.mem_cons, List.not_mem_nil, or_false, not_or] at hk
    rw [h5 k (by simpa using hk.2), hru k (by simpa using hk.1)]

theorem barrierGo_starts (hs : (s.slice p).set = true) : ∃ t, exec (.barrierGo src v) s = .next t ∧ t.fld F.BFP_BAR_STS_STATE p = 1 ∧
    t.flag F.BFP_BAR_STS_BUSY p = true ∧ t.fld F.BFP_BAR_STS_NUM p = F.BFP_BAR_CMD_NUM.of v ∧
    t.out = s.out ++ [.arrive (fabMsg 0x42 (s.fld F.MSC_STS_LOCK 0) (s.slice p).job s.coord s.mile (F.BFP_BAR_CMD_NUM.of v))] ∧
    (F.BFP_BAR_CMD_HOLD.of v = 1 → ∀ d ∈ s.partDies p, (t.die d).holdAdm = true) ∧
    t = { s with regs := t.regs, slices := t.slices, dies := t.dies, out := t.out } := by
  obtain ⟨u, hu⟩ : ∃ u, u = after (storeRW .fab p 0x8050 v) s := ⟨_, rfl⟩
  have hcu : u.canon = true := hu ▸ after_canon _ s hc
  have hfu : u = { s with regs := u.regs } := hu ▸ storeRW_frame _ _ _ _ _
  have hru : RegsBut _ s u := hu ▸ storeRW_regsBut hc .fab p 0x8050 v
  have hnum : u.fld F.BFP_BAR_CMD_NUM p = F.BFP_BAR_CMD_NUM.of v := hu ▸ fld_storeRW hc (f := F.BFP_BAR_CMD_NUM) 0 (by decide)
  have hhold : u.fld F.BFP_BAR_CMD_HOLD p = F.BFP_BAR_CMD_HOLD.of v := hu ▸ fld_storeRW hc (f := F.BFP_BAR_CMD_HOLD) 0 (by decide)
  obtain ⟨x, hx⟩ : ∃ x, x = after (barAsked p (u.fld F.BFP_BAR_CMD_NUM p) 1 0 true) u := ⟨_, rfl⟩
  obtain ⟨h1, -, h3, h4, hrx, hfx⟩ := barAsked_shows hcu (by decide) (by decide) (bitsOf_lt ..) true hx
  obtain ⟨y, hy⟩ : ∃ y, y = after (modSlice p fun y => { y with barRel := none }) x := ⟨_, rfl⟩
  have hcx : x.canon = true := hx ▸ after_canon _ u hcu
  have hcy : y.canon = true := hy ▸ after_canon _ x hcx
  have hfy : y = { x with slices := y.slices } := hy ▸ rfl
  obtain ⟨z, hz⟩ : ∃ z, z = after (whenA (fun s => s.flag F.BFP_BAR_CMD_HOLD p) (onDies p fun d => modDie d fun x => { x with holdAdm := true })) y :=
    ⟨_, rfl⟩
  have hfz : z = { y with dies := z.dies } := by
    rw [hz, after_whenA]
    split
    · exact (onDies_shows hcy p _ rfl).2
    · rfl
  have hset : (u.slice p).set = true := by rw [hfu]; exact hs
  have hlock : u.fld F.MSC_STS_LOCK 0 = s.fld F.MSC_STS_LOCK 0 := fld_of_regsBut hru (by
    rw [List.mem_singleton]
    exact regKey_ne_of_off (by decide))
  have hcoord : u.coord = s.coord := fld_of_regsBut hru (by
    rw [List.mem_singleton]
    exact regKey_ne_of_off (by decide))
  have hjob : (u.slice p).job = (s.slice p).job := by rw [hfu]; rfl
  have hmile : u.mile = s.mile := by rw [hfu]
  have hg : ∀ f i, z.fld f i = x.fld f i := fun f i => by rw [hfz, hfy]; rfl
  have hflag : z.flag F.BFP_BAR_STS_BUSY p = x.flag F.BFP_BAR_STS_BUSY p := by rw [State.flag, hg]; rfl
  refine ⟨after (emit (.arrive (fabMsg 0x42 (u.fld F.MSC_STS_LOCK 0) (u.slice p).job u.coord u.mile (u.fld F.BFP_BAR_CMD_NUM p)))) z, ?_,
    (hg ..).trans h1, hflag.trans h3, (hg ..).trans (h4.trans hnum), ?_, fun h d hd => ?_, ?_⟩
  · rw [exec_barrierGo hp ht hv hb, ← hu, hz, hy, hx]
    refine congrArg Host.Outcome.next ((after_congr (a := barBegin p) ?_).trans (after_seqA_four _ _ _ _ u))
    simp only [barBegin, hset, Bool.true_eq_false, if_false]
  · rw [hlock, hjob, hcoord, hmile, hnum]
    change z.out ++ _ = _
    rw [hfz, hfy, hfx, hfu]
  · have hw : (y.flag F.BFP_BAR_CMD_HOLD p) = true := by
      have hy0 : y.fld F.BFP_BAR_CMD_HOLD p = u.fld F.BFP_BAR_CMD_HOLD p := by
        rw [hfy]
        exact fld_of_regsBut hrx (by
          rw [List.mem_singleton]
          exact regKey_ne_of_off (by decide))
      rw [State.flag, hy0, hhold, h]
      rfl
    have hpd : y.partDies p = s.partDies p := by rw [hfy, hfx, hfu]; rfl
    rw [after_whenA, if_pos hw] at hz
    have hd' := (onDies_shows hcy p _ hz).1 d (hpd ▸ hd)
    change (z.die d).holdAdm = true
    rw [hd']
  · change { z with out := _ } = _
    rw [hfz, hfy, hfx, hfu]
    rfl

end

end Sys2Proof.Machine
end

section
/-!
SUPPORT. ARRIVE and RELEASE of a step barrier (R401), and a collective's contributions and packets (R391–R395).
-/
namespace Sys2Proof.Machine

/-! ## ARRIVE and RELEASE -/

/-- From s to t one slice has changed. -/
def SliceIs (p : Nat) (x : Slice) (s t : State) : Prop :=
  t.slice p = x ∧ (∀ q, q ≠ p → t.slice q = s.slice q) ∧ t = { s with slices := t.slices, out := t.out }

theorem sliceIs_modSlice {s : State} (hc : s.canon = true) (p : Nat) (f : Slice → Slice) :
    SliceIs p (f (s.slice p)) s (after (modSlice p f) s) := by
  refine ⟨?_, fun q hq => ?_, rfl⟩
  · rw [modSlice, after_eff, slice_ap_slice s hc, if_pos rfl]
  · rw [modSlice, after_eff, slice_ap_slice s hc, if_neg hq]

/-- What a coordinator holds of the ARRIVEs once one more has come. -/
def Slice.arrived (x : Slice) (o : BitVec 18) (m : Word) (lock : Bool) (now : Word) : Slice :=
  { x with
    barArrived := x.barArrived ++ [o]
    barLock := x.barLock && lock
    barFirst := if x.barArrived.isEmpty then now else x.barFirst
    barLatest := if x.barArrived.isEmpty ∨ x.barLatest < m then m else x.barLatest }

/-- What it holds once it has released. -/
def Slice.released (x : Slice) : Slice := { x with barArrived := [], barLatest := 0, barFirst := 0, barLock := true }

theorem released_shows {s : State} (hc : s.canon = true) (p : Nat) (msg : List Byte) :
    SliceIs p (s.slice p).released s (after (seqA [modSlice p Slice.released, emit (.release msg)]) s) ∧
      (after (seqA [modSlice p Slice.released, emit (.release msg)]) s).out = s.out ++ [.release msg] := by
  obtain ⟨h1, h2, h3⟩ := sliceIs_modSlice hc p Slice.released
  rw [after_seqA_cons, after_seqA_cons, after_seqA_end]
  exact ⟨⟨h1, h2, rfl⟩, rfl⟩

section
variable {s : State} (hc : s.canon = true) {job : BitVec 16} {p : Nat} (hp : s.slicePart job.toNat = some p)
include hc hp

theorem arrive_waits {o : BitVec 18} {m : Word} {lock : Bool} {num : BitVec 16} (hl : (s.slice p).leads = true)
    (ho : (s.slice p).barArrived.contains o = false) (hn : (s.slice p).barArrived.length + 1 < (s.slice p).parts) :
    ∃ t, exec (.arrive job o m lock num) s = .next t ∧ SliceIs p ((s.slice p).arrived o m lock s.mile) s t ∧ t.out = s.out := by
  refine ⟨_, ?_, sliceIs_modSlice hc p fun x => x.arrived o m lock s.mile, rfl⟩
  refine congrArg Host.Outcome.next (after_congr ?_)
  simp only [hp, hl, ho, Bool.true_eq_false, Bool.false_eq_true, or_self, if_false, List.length_append, List.length_singleton, hn, if_true]
  rfl

theorem arrive_releases {o : BitVec 18} {m : Word} {lock : Bool} {num : BitVec 16} (hl : (s.slice p).leads = true)
    (ho : (s.slice p).barArrived.contains o = false) (hn : (s.slice p).parts ≤ (s.slice p).barArrived.length + 1) :
    let y := (s.slice p).arrived o m lock s.mile
    ∃ t, exec (.arrive job o m lock num) s = .next t ∧ SliceIs p (s.slice p).released s t ∧
      t.out = s.out ++ [.release (fabMsg 0x43 (if y.barLock then 0 else 3) (s.slice p).job s.coord
        (y.barLatest + BitVec.ofNat 64 (1000 * max 1 (s.fld F.BFP_BAR_CMD_LEAD p))) num.toNat)] := by
  obtain ⟨h1, h2⟩ := released_shows hc p (fabMsg 0x43 (if ((s.slice p).arrived o m lock s.mile).barLock then 0 else 3) (s.slice p).job s.coord
    (((s.slice p).arrived o m lock s.mile).barLatest + BitVec.ofNat 64 (1000 * max 1 (s.fld F.BFP_BAR_CMD_LEAD p))) num.toNat)
  refine ⟨_, congrArg Host.Outcome.next (after_congr ?_), h1, h2⟩
  simp only [hp, hl, ho, Bool.true_eq_false, Bool.false_eq_true, or_self, if_false, List.length_append, List.length_singleton, Nat.not_lt.2 hn]
  rfl

theorem release_code {m : Word} {code : BitVec 4} {num : BitVec 16} (hs : s.fld F.BFP_BAR_STS_STATE p = 1) (h0 : code ≠ 0) :
    ∃ t, exec (.release job m code num) s = .next t ∧ BarEnded p 3 code.toNat false s t := by
  refine ⟨_, congrArg Host.Outcome.next (after_congr (b := barEnd p 3 code.toNat false none) ?_), (barEnd_shows hc (by decide) code.isLt false none rfl).1⟩
  simp only [hp, hs, h0, ne_eq, not_true_eq_false, not_false_eq_true, if_false, if_true]

theorem release_late {m : Word} {num : BitVec 16} (hs : s.fld F.BFP_BAR_STS_STATE p = 1) (hm : m < s.mile) :
    ∃ t, exec (.release job m 0 num) s = .next t ∧ BarEnded p 2 0 true s t ∧ t.reg .fab p 0x8060 = m := by
  obtain ⟨h1, h2⟩ := barEnd_shows hc (p := p) (st := 2) (code := 0) (by decide) (by decide) true (some m) rfl
  refine ⟨_, congrArg Host.Outcome.next (after_congr ?_), h1, h2 m rfl⟩
  simp only [hp, hs, hm, ne_eq, not_true_eq_false, if_false, if_true]

theorem release_waits {m : Word} {num : BitVec 16} (hs : s.fld F.BFP_BAR_STS_STATE p = 1) (hm : s.mile ≤ m) :
    ∃ t, exec (.release job m 0 num) s = .next t ∧ SliceIs p { s.slice p with barRel := some m } s t ∧ t.out = s.out := by
  refine ⟨_, congrArg Host.Outcome.next (after_congr (b := modSlice p fun x => { x with barRel := some m }) ?_), sliceIs_modSlice hc p _, rfl⟩
  have hlt : ¬ m < s.mile := BitVec.not_lt.2 hm
  simp only [hp, hs, hlt, ne_eq, not_true_eq_false, if_false]

end

section
variable {s : State} (hc : s.canon = true) (part : Fin 16)
include hc

theorem barrierReleaseTime_ends {m : Word} (hr : (s.slice part.val).barRel = some m) (hm : m ≤ s.mile)
    (hs : s.fld F.BFP_BAR_STS_STATE part.val = 1) :
    ∃ t, exec (.barrierReleaseTime part) s = .next t ∧ BarEnded part.val 2 0 false s t ∧ t.reg .fab part.val 0x8060 = m := by
  obtain ⟨h1, h2⟩ := barEnd_shows hc (p := part.val) (st := 2) (code := 0) (by decide) (by decide) false (some m) rfl
  refine ⟨_, congrArg Host.Outcome.next (after_congr ?_), h1, h2 m rfl⟩
  simp only [hr, hm, hs, and_self, if_true]

theorem barrierTimeout_releases (hl : (s.slice part.val).leads = true) (ha : (s.slice part.val).barArrived ≠ [])
    (hm : 1000000000 ≤ (s.mile - (s.slice part.val).barFirst).toNat) : ∃ t, exec (.barrierTimeout part) s = .next t ∧
      SliceIs part.val (s.slice part.val).released s t ∧
      t.out = s.out ++ [.release (fabMsg 0x43 2 (s.slice part.val).job s.coord (s.slice part.val).barLatest (s.fld F.BFP_BAR_CMD_NUM part.val))] := by
  obtain ⟨h1, h2⟩ := released_shows hc part.val (fabMsg 0x43 2 (s.slice part.val).job s.coord (s.slice part.val).barLatest (s.fld F.BFP_BAR_CMD_NUM part.val))
  refine ⟨_, congrArg Host.Outcome.next (after_congr ?_), h1, h2⟩
  have he : (s.slice part.val).barArrived.isEmpty = false := by simpa using ha
  simp only [hl, he, Nat.not_lt.2 hm, Bool.true_eq_false, Bool.false_eq_true, or_self, if_false]
  rfl

end

/-! ## What an instance takes -/

/-- From s to t an instance has become another, and its collective's die has counted. -/
structure CollTaken (is : Coll → Bool) (y : Coll) (e rescales rsvd : Nat) (s t : State) : Prop where
  now : t.colls.find? is = some y
  rescaled : t.fld F.SCH_FMT_CNT_RESCALE e = min (s.fld F.SCH_FMT_CNT_RESCALE e + rescales) F.SCH_FMT_CNT_RESCALE.top
  reserved : t.fld F.SCH_FMT_CNT_RSVD_CODE e = min (s.fld F.SCH_FMT_CNT_RSVD_CODE e + rsvd) F.SCH_FMT_CNT_RSVD_CODE.top
  regs : RegsBut [regKey .sch e F.SCH_FMT_CNT_RESCALE.off, regKey .sch e F.SCH_FMT_CNT_RSVD_CODE.off] s t
  others : ∀ z ∈ s.colls, is z = false → z ∈ t.colls
  frame : t = { s with colls := t.colls, regs := t.regs }

section
variable {s : State} (hc : s.canon = true)
include hc

theorem collCount_counts (c : CollInfo) (wide : List (List Byte)) (r : Nat) {t : State} (ht : t = after (collCount c wide r) s) :
    t.fld F.SCH_FMT_CNT_RESCALE (s.collDie c) = min (s.fld F.SCH_FMT_CNT_RESCALE (s.collDie c) + r) F.SCH_FMT_CNT_RESCALE.top ∧
      t.fld F.SCH_FMT_CNT_RSVD_CODE (s.collDie c) =
        min (s.fld F.SCH_FMT_CNT_RSVD_CODE (s.collDie c) + (wide.map fun b => (blkOf b).2).sum) F.SCH_FMT_CNT_RSVD_CODE.top ∧
      RegsBut [regKey .sch (s.collDie c) F.SCH_FMT_CNT_RESCALE.off, regKey .sch (s.collDie c) F.SCH_FMT_CNT_RSVD_CODE.off] s t ∧
      t = { s with regs := t.regs } := by
  have hr : RegsBut [regKey .sch (s.collDie c) F.SCH_FMT_CNT_RESCALE.off, regKey .sch (s.collDie c) F.SCH_FMT_CNT_RSVD_CODE.off] s t :=
    ht ▸ after_regsBut hc (by simp [collCount, countRsvd])
  obtain ⟨d, hd⟩ : ∃ d, d = s.collDie c := ⟨_, rfl⟩
  obtain ⟨n, hn⟩ : ∃ n, n = (wide.map fun b => (blkOf b).2).sum := ⟨_, rfl⟩
  obtain ⟨u, hu⟩ : ∃ u, u = after (countRsvd d n) s := ⟨_, rfl⟩
  have htu : t = after (whenA (fun _ => r != 0) (bump F.SCH_FMT_CNT_RESCALE d r)) u := by
    rw [ht, after_congr (a := collCount c wide r) (b := seqA [countRsvd d n, whenA (fun _ => r != 0) (bump F.SCH_FMT_CNT_RESCALE d r)])
      (by rw [collCount, hd, hn]), after_seqA_cons, after_seqA_cons, after_seqA_end, ← hu]
  have hcu : u.canon = true := hu ▸ after_canon _ s hc
  have h1 : u.fld F.SCH_FMT_CNT_RSVD_CODE d = min (s.fld F.SCH_FMT_CNT_RSVD_CODE d + n) F.SCH_FMT_CNT_RSVD_CODE.top ∧
      u.fld F.SCH_FMT_CNT_RESCALE d = s.fld F.SCH_FMT_CNT_RESCALE d ∧ u = { s with regs := u.regs } := by
    have hlt := Nat.le_of_lt_succ (bitsOf_lt (s.reg .sch d 0x820) 31 0)
    rw [hu, countRsvd, after_whenA]
    split
    · exact ⟨fld_bump_same hc _ _ _ (by decide), fld_bump_other hc _ _ _ _ _ (by decide), after_overlay [.regs] (a := bump F.SCH_FMT_CNT_RSVD_CODE d n) (by simp)⟩
    · next h =>
      have h0 : n = 0 := by simpa using h
      rw [h0, Nat.add_zero]
      exact ⟨(Nat.min_eq_left hlt).symm, rfl, rfl⟩
  obtain ⟨h1, h2, h3⟩ := h1
  have h4 : t.fld F.SCH_FMT_CNT_RSVD_CODE d = u.fld F.SCH_FMT_CNT_RSVD_CODE d ∧
      t.fld F.SCH_FMT_CNT_RESCALE d = min (u.fld F.SCH_FMT_CNT_RESCALE d + r) F.SCH_FMT_CNT_RESCALE.top ∧ t = { u with regs := t.regs } := by
    have hlt := Nat.le_of_lt_succ (bitsOf_lt (u.reg .sch d 0x820) 63 32)
    rw [htu, after_whenA]
    split
    · exact ⟨fld_bump_other hcu _ _ _ _ _ (by decide), fld_bump_same hcu _ _ _ (by decide), after_overlay [.regs] (a := bump F.SCH_FMT_CNT_RESCALE d r) (by simp)⟩
    · next h =>
      have h0 : r = 0 := by simpa using h
      rw [h0, Nat.add_zero]
      exact ⟨rfl, (Nat.min_eq_left hlt).symm, rfl⟩
  obtain ⟨h4, h5, h6⟩ := h4
  rw [← hd] at hr
  rw [← hd, ← hn]
  exact ⟨by rw [h5, h2], by rw [h4, h1], hr, by rw [h6, h3]⟩

/-- What a collective takes: counts, where it counts, and then a change of the instance that keeps its key. -/
theorem collTake_shows {k j : Nat} {h : Word32} {st : Nat} {x : Coll} (hx : s.colls.find? (Coll.is k j h st) = some x) (c : CollInfo) (q : Bool)
    (wide : List (List Byte)) (r : Nat) {f : Coll → Coll} (hf : ∀ y, Coll.is k j h st (f y) = Coll.is k j h st y) {t : State}
    (ht : t = after (modColl x f) (after (whenA (fun _ => q) (collCount c wide r)) s)) :
    CollTaken (Coll.is k j h st) (f x) (s.collDie c) (if q then r else 0) (if q then (wide.map fun b => (blkOf b).2).sum else 0) s t := by
  obtain ⟨u, hu⟩ : ∃ u, u = after (whenA (fun _ => q) (collCount c wide r)) s := ⟨_, rfl⟩
  rw [← hu] at ht
  have hcnt : u.fld F.SCH_FMT_CNT_RESCALE (s.collDie c) = min (s.fld F.SCH_FMT_CNT_RESCALE (s.collDie c) + if q then r else 0) F.SCH_FMT_CNT_RESCALE.top ∧
      u.fld F.SCH_FMT_CNT_RSVD_CODE (s.collDie c) = min (s.fld F.SCH_FMT_CNT_RSVD_CODE (s.collDie c) +
        if q then (wide.map fun b => (blkOf b).2).sum else 0) F.SCH_FMT_CNT_RSVD_CODE.top ∧
      RegsBut [regKey .sch (s.collDie c) F.SCH_FMT_CNT_RESCALE.off, regKey .sch (s.collDie c) F.SCH_FMT_CNT_RSVD_CODE.off] s u ∧
      u = { s with regs := u.regs } := by
    rw [after_whenA] at hu
    cases q with
    | false =>
      have h1 := Nat.le_of_lt_succ (bitsOf_lt (s.reg .sch (s.collDie c) 0x820) 63 32)
      have h2 := Nat.le_of_lt_succ (bitsOf_lt (s.reg .sch (s.collDie c) 0x820) 31 0)
      rw [hu]
      exact ⟨(Nat.min_eq_left h1).symm, (Nat.min_eq_left h2).symm, fun _ _ => rfl, rfl⟩
    | true => exact collCount_counts hc c wide r hu
  obtain ⟨h1, h2, hr, h3⟩ := hcnt
  have hcolls : u.colls = s.colls := by rw [h3]
  have hkey : ∀ y : Coll, y.is x.coll x.job x.handle x.step = Coll.is k j h st y := by
    have hk := List.find?_some hx
    simp only [Coll.is, Bool.and_eq_true, beq_iff_eq] at hk
    obtain ⟨⟨⟨hk1, hk2⟩, hk3⟩, hk4⟩ := hk
    intro y
    rw [hk1, hk2, hk3, hk4]
  have hmap : t.colls = s.colls.map fun y => if Coll.is k j h st y then f y else y := by
    rw [ht, modColl, after_eff, ← hcolls]
    exact List.map_congr_left fun y _ => by rw [hkey]
  have hft : t = { u with colls := t.colls } := ht ▸ rfl
  have hg : ∀ g i, t.fld g i = u.fld g i := fun g i => by rw [hft]; rfl
  have hkeep : (fun y => Coll.is k j h st (if Coll.is k j h st y then f y else y)) = Coll.is k j h st := funext fun y => by
    split
    · exact hf y
    · rfl
  refine ⟨?_, (hg ..).trans h1, (hg ..).trans h2, fun k hk => ?_, fun z hz hk => ?_, by rw [hft, h3]⟩
  · rw [hmap, List.find?_map]
    change (Option.map _ (s.colls.find? fun y => Coll.is k j h st (if Coll.is k j h st y then f y else y))) = _
    rw [hkeep, hx, Option.map_some, if_pos (List.find?_some hx)]
  · rw [hft]
    exact hr k hk
  · rw [hmap]
    exact List.mem_map.2 ⟨z, hz, by rw [hk]; rfl⟩

end

section
variable {s : State} (hc : s.canon = true) {coll job step : BitVec 16} {h : Word32} {x : Coll}
  (hx : s.colls.find? (Coll.is coll.toNat job.toNat h step.toNat) = some x) {c : CollInfo}
  (hi : s.collInfo job.toNat coll.toNat = some c) (hs : (s.job c.part).stopped = false)
include hc hx hi hs

omit hc hi hs in
theorem collAny : s.colls.any (Coll.is coll.toNat job.toNat h step.toNat) = true :=
  List.any_eq_true.2 ⟨x, List.mem_of_find?_eq_some hx, List.find?_some hx⟩

/-- An instance once one more segment of a local source has joined it. -/
def Coll.joined (x : Coll) (c : CollInfo) (base piece : Nat) (acc : List AccBlk) (blk : List (List Byte)) (g : Gen) : Coll :=
  let z := { x with got := x.got + 1 }
  if c.kind = 0 then z.addAt c piece acc g else { z with fin := putBlks z.fin (base + piece) blk }

omit hc hx hi hs in
theorem joined_is (c : CollInfo) (base piece : Nat) (acc : List AccBlk) (blk : List (List Byte)) (g : Gen) (k j : Nat) (h : Word32) (st : Nat) (y : Coll) :
    Coll.is k j h st (y.joined c base piece acc blk g) = Coll.is k j h st y := by
  unfold Coll.joined
  dsimp only
  split <;> rfl

/-- What an engine that is open does with a segment of a local source (R393). -/
def collJoin (c : CollInfo) (k j : Nat) (h : Word32) (st : Nat) (piece : BitVec 16) (acc : List AccBlk) (blk : List (List Byte)) : Act := fun s =>
  match s.colls.find? (Coll.is k j h st) with
  | none => []
  | some x =>
    let base := if c.kind = 1 then (c.ranks.idxOf (s.rank c.part)) * c.d else 0
    let g := collGen h st k 0 0 0 0 piece.toNat
    seqA [whenA (fun _ => c.kind == 0) (collCount c [] (x.addCost c piece.toNat acc g)), modColl x fun z => z.joined c base piece.toNat acc blk g,
      whenA (fun _ => x.got + 1 == s.collWant c) (collBegin c x)] s

theorem contribution_joins (piece : BitVec 16) (acc : List AccBlk) (blk : List (List Byte)) (hn : x.got + 1 ≠ s.collWant c) :
    let g := collGen h step.toNat coll.toNat 0 0 0 0 piece.toNat
    ∃ t, exec (.collectiveContribution coll job h step piece acc blk) s = .next t ∧
      CollTaken (Coll.is coll.toNat job.toNat h step.toNat)
        (x.joined c (if c.kind = 1 then c.ranks.idxOf (s.rank c.part) * c.d else 0) piece.toNat acc blk g) (s.collDie c)
        (if c.kind = 0 then x.addCost c piece.toNat acc g else 0) 0 s t := by
  intro g
  have hany := collAny hx
  obtain ⟨f, hfd⟩ : ∃ f : Coll → Coll, f = fun y => y.joined c (if c.kind = 1 then c.ranks.idxOf (s.rank c.part) * c.d else 0) piece.toNat acc blk g := ⟨_, rfl⟩
  obtain ⟨t, ht⟩ : ∃ t, t = after (modColl x f) (after (whenA (fun _ => c.kind == 0) (collCount c [] (x.addCost c piece.toNat acc g))) s) := ⟨_, rfl⟩
  have hshow := collTake_shows hc hx c (c.kind == 0) [] (x.addCost c piece.toNat acc g) (f := f) (fun y => by rw [hfd]; exact joined_is ..) ht
  refine ⟨t, ?_, by simpa [hfd] using hshow⟩
  have hopen : collOpen c coll.toNat job.toNat h step.toNat s = [] := by simp only [collOpen, hany, if_true]
  have hroom : s.collRoom c coll.toNat job.toNat h step.toNat = true := by rw [State.collRoom, hany, Bool.true_or]
  refine congrArg Host.Outcome.next ((after_congr (b := seqA [collOpen c coll.toNat job.toNat h step.toNat,
    collJoin c coll.toNat job.toNat h step.toNat piece acc blk]) ?_).trans ?_)
  · simp only [hi, hs, hroom, Bool.false_eq_true, Bool.true_eq_false, or_self, if_false]
    rfl
  · rw [after_seqA_cons, after_congr (b := skip) hopen, after_skipped, after_seqA_cons, after_seqA_end]
    refine (after_congr (b := seqA [whenA (fun _ => c.kind == 0) (collCount c [] (x.addCost c piece.toNat acc g)), modColl x f, whenA (fun _ => x.got + 1 == s.collWant c) (collBegin c x)]) ?_).trans ?_
    · simp only [collJoin, hx, hfd, g]
    · have hne : (x.got + 1 == s.collWant c) = false := by simpa using hn
      rw [ht]
      simp only [after_seqA_cons, after_seqA_end, after_whenA, hne, Bool.false_eq_true, if_false]

/-- What an engine that is open does with a packet (R395, R398). -/
def collHear (c : CollInfo) (k j : Nat) (h : Word32) (st : Nat) (round : Fin 64) (dim : Fin 3) (neg gather : Bool) (piece : BitVec 16)
    (blks : List (List Byte)) : Act := fun s =>
  match s.colls.find? (Coll.is k j h st) with
  | none => []
  | some x =>
    let early := c.kind == 0 && !gather && dim.val == x.dim && !s.collOwn c x
    let g := collGen h st k 0 dim.val 0 round.val piece.toNat
    seqA [whenA (fun _ => early) (collCount c blks (x.addCost c piece.toNat (blks.map widen) g)), modColl x fun z =>
        let z := if early then z.addAt c piece.toNat (blks.map widen) g else z
        { z with wait := z.wait ++ [⟨round.val, if c.kind = 2 then 0 else dim.val, neg, gather, piece.toNat, blks, early⟩] },
      collSteps c x 4] s

/-- An instance once a message waits, added at once where it comes early. -/
def Coll.heard (x : Coll) (c : CollInfo) (m : CollMsg) (g : Gen) : Coll :=
  let z := if m.added then x.addAt c m.piece (m.blks.map widen) g else x
  { z with wait := z.wait ++ [m] }

omit hc hx hi hs in
theorem heard_is (c : CollInfo) (m : CollMsg) (g : Gen) (k j : Nat) (h : Word32) (st : Nat) (y : Coll) :
    Coll.is k j h st (y.heard c m g) = Coll.is k j h st y := by
  unfold Coll.heard
  dsimp only
  split <;> rfl

omit hc hx hi hs in
theorem heard_got (c : CollInfo) (m : CollMsg) (g : Gen) (y : Coll) : (y.heard c m g).got = y.got := by
  unfold Coll.heard
  dsimp only
  split <;> rfl

theorem packet_waits (round : Fin 64) (dim : Fin 3) (neg gather : Bool) (piece : BitVec 16) (fmt : BitVec 4) (blks : List (List Byte))
    (ho : s.collOwn c x = false) :
    let early := c.kind == 0 && !gather && dim.val == x.dim
    let g := collGen h step.toNat coll.toNat 0 dim.val 0 round.val piece.toNat
    ∃ t, exec (.collectivePacket coll job h step round dim neg gather piece fmt blks) s = .next t ∧
      CollTaken (Coll.is coll.toNat job.toNat h step.toNat)
        (x.heard c ⟨round.val, if c.kind = 2 then 0 else dim.val, neg, gather, piece.toNat, blks, early⟩ g) (s.collDie c)
        (if early then x.addCost c piece.toNat (blks.map widen) g else 0) (if early then (blks.map fun b => (blkOf b).2).sum else 0) s t := by
  intro early g
  have hany := collAny hx
  obtain ⟨f, hfd⟩ : ∃ f : Coll → Coll, f = fun y => y.heard c ⟨round.val, if c.kind = 2 then 0 else dim.val, neg, gather, piece.toNat, blks, early⟩ g :=
    ⟨_, rfl⟩
  have hkeep : ∀ y, Coll.is coll.toNat job.toNat h step.toNat (f y) = Coll.is coll.toNat job.toNat h step.toNat y := fun y => by
    rw [hfd]
    exact heard_is ..
  obtain ⟨t, ht⟩ : ∃ t, t = after (modColl x f) (after (whenA (fun _ => early) (collCount c blks (x.addCost c piece.toNat (blks.map widen) g))) s) := ⟨_, rfl⟩
  have hshow := collTake_shows hc hx c early blks (x.addCost c piece.toNat (blks.map widen) g) hkeep ht
  refine ⟨t, ?_, by rw [hfd] at hshow; exact hshow⟩
  have hopen : collOpen c coll.toNat job.toNat h step.toNat s = [] := by simp only [collOpen, hany, if_true]
  have hroom : s.collRoom c coll.toNat job.toNat h step.toNat = true := by rw [State.collRoom, hany, Bool.true_or]
  have hnow : t.collNow x = some (f x) := by
    have hk := List.find?_some hx
    simp only [Coll.is, Bool.and_eq_true, beq_iff_eq] at hk
    obtain ⟨⟨⟨hk1, hk2⟩, hk3⟩, hk4⟩ := hk
    have hn := hshow.now
    rw [State.collNow, hk1, hk2, hk3, hk4]
    exact hn
  have hsteps : collSteps c x 4 t = [] := by
    have hown : t.collOwn c (f x) = false := by
      have hw : t.collWant c = s.collWant c := by rw [hshow.frame]; rfl
      have hgot : (f x).got = x.got := by rw [hfd]; exact heard_got ..
      rw [State.collOwn, hw, hgot]
      exact ho
    simp only [collSteps, hnow, hown, if_true]
  refine congrArg Host.Outcome.next ((after_congr (b := seqA [collOpen c coll.toNat job.toNat h step.toNat,
    collHear c coll.toNat job.toNat h step.toNat round dim neg gather piece blks]) ?_).trans ?_)
  · simp only [hi, hs, hroom, Bool.false_eq_true, Bool.true_eq_false, or_self, if_false]
    rfl
  · rw [after_seqA_cons, after_congr (b := skip) hopen, after_skipped, after_seqA_cons, after_seqA_end]
    refine (after_congr (b := seqA [whenA (fun _ => early) (collCount c blks (x.addCost c piece.toNat (blks.map widen) g)), modColl x f, collSteps c x 4]) ?_).trans ?_
    · simp only [collHear, hx, ho, Bool.not_false, Bool.and_true, hfd, Coll.heard, g, early]
    · rw [after_seqA_cons, after_seqA_cons, ← ht, after_seqA_cons, after_seqA_end, after_congr (b := skip) hsteps, after_skipped]

end

end Sys2Proof.Machine
end

section
/-!
SUPPORT. What the upkeep of arrays, a swap that ends and a job that stops can change (R304, R406).
-/
namespace Sys2Proof.Machine

/-- What an effect of the upkeep of arrays can be: registers, sequencers, dies, ports, NVM, the Keeper's notes, and of a job all but
its standing. -/
def Works (s : State) (e : Eff) : Prop :=
  match e with
  | .reg .. | .core .. | .die .. | .nvm _ | .keeper _ | .port .. | .free _ | .out _ => True
  | .job p x => x.live = (s.job p).live ∧ x.job = (s.job p).job ∧ x.stopped = (s.job p).stopped ∧ x.op = (s.job p).op
  | _ => False

/-- The footprint P leaves room for the upkeep of arrays. -/
def AllowsWorks (P : State → Eff → Prop) : Prop := ∀ s e, Works s e → P s e

section
variable {P : State → Eff → Prop} (hP : AllowsWorks P)
include hP

theorem AllowsWorks.reports : AllowsReports P := fun s e he => hP s e (by cases e <;> trivial)

theorem AllowsWorks.rewritten : ∀ s e, Rewritten s e → P s e := fun s e he => hP s e (by cases e <;> trivial)

theorem works_reg (s : State) (b : Blk) (i o : Nat) (v : Word) : P s (.reg b i o v) := hP _ _ trivial

theorem works_core (s : State) (c : CoreId) (x : Core) : P s (.core c x) := hP _ _ trivial

theorem works_die (s : State) (d : Nat) (x : Die) : P s (.die d x) := hP _ _ trivial

theorem allowed_dropTile (t : TileId) (s : State) : Allowed P (dropTile t s) s := by
  simp only [dropTile, allowed_seqA_cons, allowed_whenA, allowed_modDie, allowed_seqA_nil, and_true]
  exact ⟨fun _ => (allowed_countRewrite t s).mono hP.rewritten, works_die hP ..⟩

theorem allowed_freeTile (t : TileId) (st : Nat) (s : State) : Allowed P (freeTile t st s) s := by
  simp only [freeTile, allowed_seqA_cons, allowed_whenA, allowed_modCore, allowed_setF, allowed_seqA_nil, and_true]
  exact ⟨works_core hP .., fun _ => works_reg hP ..⟩

theorem allowed_swapState (p st : Nat) (s : State) : Allowed P (swapState p st s) s := by
  simp only [swapState, allowed_seqA_cons, allowed_setF, allowed_seqA_nil, and_true]
  exact ⟨hP _ _ trivial, allowed_raiseEvent hP.reports.events _ _ _ (by decide) _⟩

theorem allowed_swapEnd (p st code : Nat) (s : State) : Allowed P (swapEnd p st code s) s := by
  rw [swapEnd]
  split
  · exact .nil _
  · simp only [allowed_seqA_cons, allowed_setF, allowed_modJob, allowed_seqA_nil, and_true]
    refine ⟨allowed_forA _ _ _ fun t _ s => ?_, hP _ _ ⟨rfl, rfl, rfl, rfl⟩, allowed_swapState hP .., works_reg hP .., works_reg hP ..,
      works_reg hP .., works_reg hP ..⟩
    rw [allowed_seqA_cons, allowed_seqA_cons]
    exact ⟨allowed_dropTile hP .., allowed_freeTile hP .., .nil _⟩

end

theorem allowsWorks_onlyFields {fs : List StateField} (h : [.regs, .cores, .dies, .jobs, .ports, .nvm, .keeper, .free, .out] ⊆ fs) :
    AllowsWorks (onlyFields fs) := fun s e he => by
  cases e <;> simp_all [Works, List.cons_subset]

theorem allowsWorks_stopped : AllowsWorks (jobRel fun _ x y => y.stopped = x.stopped) := fun s e he => by
  cases e with
  | job p x => exact he.2.2.1
  | lost => exact he.elim
  | _ => trivial

theorem allowsEnds_stopped : AllowsEnds (jobRel fun _ x y => y.stopped = x.stopped) := fun s e he => by
  cases e with
  | job p x =>
    change x = { s.job p with swap := x.swap, epoch := x.epoch, shadows := x.shadows, shards := x.shards } at he
    exact (congrArg Job.stopped he :)
  | lost => exact he.elim
  | _ => trivial

/-! ## A job that stops -/

/-- The partition's job is stopped before its passages end (R406 steps 2–3). -/
def jobHalts (p job cause link origin : Nat) : Act :=
  seqA [setF F.BFP_COLL_STS_OPEN p 0,
    eff fun s => .fabTrees (s.fabTrees.filter fun f => f.job != job),
    setReg .fab p 0x8068 (BitVec.ofNat 64 (2 ^ 63 + cause % 16 * 2 ^ 52 + link % 16 * 2 ^ 48 + job % 2 ^ 16 * 2 ^ 32 + origin % 2 ^ 18)), raiseEvent p 100 job,
    bump F.BFP_COLL_STS_ABORTS p 1, whenA (fun s => (s.job p).swap.isSome) (swapEnd p 5 1)]

theorem allowed_jobHalts {P : State → Eff → Prop} (hP : AllowsWorks P) (hf : ∀ s l, P s (.fabTrees l)) (p job cause link origin : Nat) (s : State) :
    Allowed P (jobHalts p job cause link origin s) s := by
  simp only [jobHalts, allowed_seqA_cons, allowed_setF, allowed_eff, allowed_setReg, allowed_bump, allowed_whenA, allowed_seqA_nil, and_true]
  exact ⟨hP _ _ trivial, hf _ _, hP _ _ trivial, allowed_raiseEvent hP.reports.events _ _ _ (by decide) _, hP _ _ trivial,
    fun _ => allowed_swapEnd hP ..⟩

section
variable {s : State} (hc : s.canon = true)
include hc

theorem stopPart_shows (p job cause link origin status : Nat) {t : State} (ht : t = after (stopPart p job cause link origin status) s) :
    (t.job p).stopped = true ∧ (∀ i ∈ s.partLive p, t.faulted i status) ∧ (∀ y ∈ t.colls, y.job ≠ job) ∧ t.cells = s.cells ∧
      t.aborted = s.aborted := by
  obtain ⟨u, hu⟩ : ∃ u, u = after (modJob p fun j => { j with stopped := true }) s := ⟨_, rfl⟩
  obtain ⟨v, hv⟩ : ∃ v, v = after (eff fun s => .colls (s.colls.filter fun c => c.job != job)) u := ⟨_, rfl⟩
  obtain ⟨w, hw⟩ : ∃ w, w = after (jobHalts p job cause link origin) v := ⟨_, rfl⟩
  obtain ⟨x, hx⟩ : ∃ x, x = after (forA (w.partLive p) fun i => endPassage i status) w := ⟨_, rfl⟩
  have htx : t = after (logOpen none 5 noUnit p job 0) x := by
    rw [ht, stopPart, hx, hw, jobHalts]
    simp only [after_seqA_cons, after_seqA_end, after_withA, hv, hu]
  have hcu : u.canon = true := hu ▸ after_canon _ s hc
  have hcv : v.canon = true := hv ▸ after_canon _ u hcu
  have hcw : w.canon = true := hw ▸ after_canon _ v hcv
  have hcx : x.canon = true := hx ▸ after_canon _ w hcw
  have hfu : u = { s with jobs := u.jobs } := hu ▸ rfl
  have hfv : v = { u with colls := u.colls.filter fun c => c.job != job } := hv ▸ rfl
  have hfw : w = State.overlay [.regs, .cores, .dies, .jobs, .ports, .nvm, .keeper, .free, .out, .fabTrees] v w := hw ▸ after_overlay _
    (allowed_jobHalts (allowsWorks_onlyFields (by decide)) (by simp) p job cause link origin v)
  have hfx : x = State.overlay [.regs, .mem, .poison, .cores, .dies, .passages, .jobs, .ports, .snoopF, .nvm, .keeper, .free, .out] w x :=
    hx ▸ after_overlay _ (allowed_endPassages (allowsEnds_onlyFields (List.Subset.refl _)) (by simp) status _ w)
  have hft : t = State.overlay [.regs, .dies, .ports, .nvm, .keeper, .free, .out] x t := htx ▸ after_overlay _
    (allowed_logOpen (allowsReports_onlyFields (by decide)) ..)
  have hst : ∀ {y z : State} {a : Act}, y.canon = true → z = after a y → Allowed (jobRel fun _ x y => y.stopped = x.stopped) (a y) y →
      (z.job p).stopped = (y.job p).stopped := fun hy hz ha => hz ▸ after_jobRel (R := fun _ x y => y.stopped = x.stopped) (fun _ _ => rfl) (fun _ _ _ _ h1 h2 => h2.trans h1) hy ha p
  refine ⟨?_, fun i hi => ?_, fun y hy => ?_, by rw [hft, hfx, hfw, hfv, hfu]; rfl, by rw [hft, hfx, hfw, hfv, hfu]; rfl⟩
  · have h1 : (u.job p).stopped = true := by
      rw [hu, modJob, after_eff, job_ap_job s hc, if_pos rfl]
    have h2 : v.job p = u.job p := by rw [hfv]; rfl
    rw [hst hcx htx (allowed_logOpen allowsWorks_stopped.reports ..), hst hcw hx (allowed_endPassages allowsEnds_stopped (fun _ _ _ => trivial) ..),
      hst hcv hw (allowed_jobHalts allowsWorks_stopped (fun _ _ => trivial) ..), h2, h1]
  · have hpas : ∀ i, w.passage i = s.passage i := fun i => by rw [hfw, hfv, hfu]; rfl
    have hlive : w.partLive p = s.partLive p := by
      have hl : w.live = s.live := by rw [hfw, hfv, hfu]; rfl
      simp only [State.partLive, hl, hpas]
    have hm := List.mem_filter.1 hi
    simp only [Bool.and_eq_true, Bool.not_eq_true'] at hm
    obtain ⟨-, ⟨ho, -⟩, hg⟩ := hm
    have hfault : x.faulted i status := hx ▸ faulted_endPassages hcw (.inl ⟨hlive ▸ hi, by rw [hpas]; exact ho⟩) (by rw [hpas]; exact hg)
    have hpt : t.passage i = x.passage i := by rw [hft]; rfl
    rw [State.faulted, hpt]
    exact hfault
  · have hcolls : t.colls = u.colls.filter fun c => c.job != job := by rw [hft, hfx, hfw, hfv]; rfl
    have h := (List.mem_filter.1 (hcolls ▸ hy)).2
    simpa using h

theorem jobStop_shows {job p : Nat} (cause first link origin : Nat) (hn : job ∉ s.aborted) (hp : s.slicePart job = some p) {t : State}
    (ht : t = after (jobStop job cause first link origin) s) : job ∈ t.aborted ∧ (t.job p).stopped = true ∧
      (∀ i ∈ s.partLive p, t.faulted i (if first = 3 then 2 else 10)) ∧ (∀ y ∈ t.colls, y.job ≠ job) ∧ t.cells = s.cells := by
  obtain ⟨u, hu⟩ : ∃ u, u = after (seqA [eff fun s => .aborted (s.aborted ++ [job]),
    forA (s.abortLinks job) fun n => emit (.abort n (abortMsg s job first link origin))]) s := ⟨_, rfl⟩
  have hcu : u.canon = true := hu ▸ after_canon _ s hc
  have hemit : ∀ {P : State → Eff → Prop}, (∀ s o, P s (.out o)) → ∀ x : State,
      Allowed P (forA (s.abortLinks job) (fun n => emit (.abort n (abortMsg s job first link origin))) x) x := fun h x =>
    allowed_forA _ _ x fun _ _ x => (allowed_emit _ _).2 (h x _)
  have hfu : u = { s with aborted := u.aborted, out := u.out } := hu ▸ after_overlay [.aborted, .out] (a := seqA _) (by
    simp only [allowed_seqA_cons, allowed_eff, allowed_seqA_nil, and_true]
    exact ⟨by simp, hemit (by simp) _⟩)
  have hab : u.aborted = s.aborted ++ [job] := by
    rw [hu, after_seqA_cons, after_seqA_cons, after_seqA_end]
    have h := after_overlay [.out] (a := forA (s.abortLinks job) fun n => emit (.abort n (abortMsg s job first link origin)))
      (s := after (eff fun s => .aborted (s.aborted ++ [job])) s) (hemit (by simp) _)
    rw [h]
    rfl
  have hpu : u.slicePart job = some p := by rw [hfu]; exact hp
  have htu : t = after (stopPart p job cause link origin (if first = 3 then 2 else 10)) u := by
    have hnc : s.aborted.contains job = false := by simpa using hn
    rw [ht, after_congr (a := jobStop job cause first link origin) (b := seqA [eff fun s => .aborted (s.aborted ++ [job]),
      forA (s.abortLinks job) fun n => emit (.abort n (abortMsg s job first link origin)),
      forOpt (s.slicePart job) fun p => stopPart p job cause link origin (if first = 3 then 2 else 10)])
      (by simp only [jobStop, hnc, Bool.false_eq_true, if_false])]
    simp only [after_seqA_cons, after_seqA_end, hp, forOpt] at hu ⊢
    rw [← hu]
  obtain ⟨h1, h2, h3, h4, h5⟩ := stopPart_shows hcu p job cause link origin _ htu
  have hlive : u.partLive p = s.partLive p := by rw [hfu]; rfl
  refine ⟨by rw [h5, hab]; exact List.mem_append_right _ (List.mem_singleton.2 rfl), h1, fun i hi => h2 i (hlive ▸ hi), h3, ?_⟩
  rw [h4, hfu]

end

end Sys2Proof.Machine
end

section
/-!
SUPPORT. The collectives' and barriers' obligation, clause by clause (R391–R401).
-/
namespace Sys2Proof.Machine

theorem collectiveTimeout_stops {s : State} (hc : s.canon = true) {coll job step : BitVec 16} {h : Word32} {x : Coll}
    (hx : s.colls.find? (Coll.is coll.toNat job.toNat h step.toNat) = some x) {p q : Nat} (hp : s.jobPart job.toNat = some p)
    (hm : 1000 * max 1 (s.fld F.BFP_COLL_TMO p) ≤ (s.mile - x.opened).toNat) (hn : job.toNat ∉ s.aborted) (hq : s.slicePart job.toNat = some q) :
    ∃ t, exec (.collectiveTimeout coll job h step) s = .next t ∧ job.toNat ∈ t.aborted ∧
      (t.job q).stopped = true ∧ (∀ i ∈ s.partLive q, t.faulted i 10) ∧ (∀ y ∈ t.colls, y.job ≠ job.toNat) ∧ t.cells = s.cells := by
  refine ⟨_, congrArg Host.Outcome.next (after_congr (b := jobStop job.toNat 2 2 0 s.coord) ?_), jobStop_shows hc 2 2 0 s.coord hn hq rfl⟩
  simp only [hx, hp, Nat.not_lt.2 hm, if_false]

end Sys2Proof.Machine
end

open Sys2Proof Sys2Proof.Machine

/-- Settles O44: an instance is one entry of the engine's list, changed in place; a barrier is a partition's registers, slice and dies. -/
theorem collectivesAndBarriers : Obligations.CollectivesAndBarriers := by
  unfold Obligations.CollectivesAndBarriers
  refine ⟨fun s coll job h step x hc hx => ⟨fun c hi hs => ⟨fun piece acc blk hn => ?_, fun round dim neg gather piece fmt blks ho => ?_⟩,
    fun p q hp hm hn hq => collectiveTimeout_stops hc hx hp hm hn hq⟩,
    fun s hc => ⟨fun src v ht hv hb => ⟨fun hs => barrierGo_starts hc rfl ht hv hb hs, fun hs => barrierGo_sliceless hc rfl ht hv hb hs⟩,
      fun job p hp => ⟨fun o m lock num hl ho => ⟨fun hn => ?_, fun hn => ?_⟩, fun m code num hs => ⟨fun h0 => release_code hc hp hs h0, fun h0 hm => ?_, fun h0 hm => ?_⟩⟩,
      fun part => ⟨fun m hr hm hs => ?_, fun hl ha hm => ?_⟩⟩⟩
  · obtain ⟨t, he, h1, h2, h3, hr, h4, h5⟩ := contribution_joins hc hx hi hs piece acc blk hn
    exact ⟨t, he, h1, ⟨h2, h3, hr⟩, h4, h5⟩
  · obtain ⟨t, he, h1, h2, h3, hr, h4, h5⟩ := packet_waits hc hx hi hs round dim neg gather piece fmt blks ho
    refine ⟨t, he, h1.trans (congrArg some ?_), ⟨h2, h3, hr⟩, h4, h5⟩
    unfold Coll.heard
    dsimp only
    split <;> rfl
  · obtain ⟨t, he, ⟨h1, h2, h3⟩, hout⟩ := arrive_waits hc hp (m := m) (lock := lock) (num := num) hl ho hn
    exact ⟨t, he, h1, h2, by rw [h3, hout]⟩
  · obtain ⟨t, he, ⟨h1, h2, h3⟩, hout⟩ := arrive_releases hc hp (m := m) (lock := lock) (num := num) hl ho hn
    exact ⟨t, he, h1, hout, h2, h3⟩
  · subst h0
    obtain ⟨t, he, h1, h2⟩ := release_late hc hp (num := num) hs hm
    exact ⟨t, he, h1, h2⟩
  · subst h0
    obtain ⟨t, he, ⟨h1, h2, h3⟩, hout⟩ := release_waits hc hp (num := num) hs hm
    exact ⟨t, he, h1, h2, by rw [h3, hout]⟩
  · obtain ⟨t, he, h1, h2⟩ := barrierReleaseTime_ends hc part hr hm hs
    exact ⟨t, he, h1, h2⟩
  · obtain ⟨t, he, ⟨h1, h2, h3⟩, hout⟩ := barrierTimeout_releases hc part hl ha hm
    exact ⟨t, he, h1, hout, h2, h3⟩

section
/-!
SUPPORT. A passage whose completion ring is no die's: the notice of its completion is pending in whatever register stands where the event entry of that
ring's number would stand.
-/
namespace Sys2Proof.Machine

/-- The completion ring whose event entry at Trais port 0 would be the job stop register of partition 0. -/
def ringAtStop : Nat := 0xE0 * 2 ^ 33 + 0xF8D

/-- The test slice with a passage that completes on that ring, which notifies, and Trais port 0 with the partition of dies there are not. -/
def stopsNoticed : State := after (seqA [modPassage 5 fun p => { p with handle := 0x00100005, st := 3, cring := ringAtStop },
  setF F.PAS_CRING_BASE_EN ringAtStop 1, setF F.PAS_CRING_BASE_LOG2 ringAtStop 4, setF F.PAS_CRING_TAIL_EVT_EN ringAtStop 1,
  setF F.KPR_STS_STATE 0 0, setF F.TRL_LNK_STS_STATE 0 0, modNvm fun n => { n with ptab := { n.ptab with trais := [63, 0, 0, 0] } }]) (Tests.sliced [])

/-- The job stop register of partition 0 after a step. -/
def stopAfter (o : Host.Outcome State Fault Refusal) : Word :=
  match o with
  | .next t => t.reg .fab 0 0x8068
  | _ => 0

theorem stopAfter_stopsNoticed : stopAfter (exec (.abort 0 7 1 0 0) stopsNoticed) = 0xA050000700000000 := by decide +kernel

end Sys2Proof.Machine
end

open Sys2Proof Sys2Proof.Machine

/-- Refutes O40: the stop register has bit 63 set, so it reads as an enabled event entry, and the completion of a passage that the stop ends can mark
an event pending in it. -/
theorem not_fabricLinks : ¬ Obligations.FabricLinks := by
  unfold Obligations.FabricLinks
  intro h
  obtain ⟨hc, hslice⟩ : stopsNoticed.canon = true ∧ stopsNoticed.slicePart 7 = some 0 := by decide +kernel
  have habort : 7 ∉ stopsNoticed.aborted := by decide +kernel
  obtain ⟨t, ht, -, -, hreg⟩ := (h.2 stopsNoticed 0 hc).2.2.1 7 1 0 0 0 habort hslice
  exact absurd ((congrArg stopAfter ht).symm.trans stopAfter_stopsNoticed |>.symm.trans hreg) (by decide)

section
/-!
SUPPORT. The end of a step and the steps that start (R209, R213, R215), the stop of admission and its lift (R229), and deadlines (R230).
-/
namespace Sys2Proof.Machine

/-! ## What a step that starts or ends can change -/

/-- The footprint P leaves room for steps that start: beside the end of a passage, the counts of the passage cache, and a scheduler's items. -/
structure AllowsStarts (P : State → Eff → Prop) : Prop where
  ends : AllowsEnds P
  count : ∀ s i o v, o = F.PAS_CACHE_CNT_HIT.off → P s (.reg .pas i o v)
  items : ∀ s d l n, P s (.die d { s.die d with sb := l, sbOrd := n })

/-- Of a passage no more has changed than its state, its step in flight and what is noted of its results. -/
def StepKept (x y : Passage) : Prop :=
  y = { x with st := y.st, status := y.status, hold := y.hold, heldFrom := y.heldFrom, inflight := y.inflight, waiting := y.waiting, inHead := y.inHead, exitAt := y.exitAt, finalAt := y.finalAt, outAt := y.outAt }

theorem StepKept.place {x y : Passage} (h : StepKept x y) : y.cached = x.cached ∧ y.part = x.part ∧ y.guest = x.guest := by
  rw [StepKept] at h
  rw [h]
  exact ⟨rfl, rfl, rfl⟩

section
variable {P : State → Eff → Prop}

/-- The end of a passage that is homed here, over what it makes of the passage. -/
theorem allowed_endPassage_homed (hP : AllowsEnds P) {i : Nat} (status : Nat) {s : State} (hg : (s.passage i).guest = false)
    (hi : ∀ s, P s (.passage i { s.passage i with st := 6, status := status, hold := 0, inflight := false, waiting := none })) :
    Allowed P (endPassage i status s) s := by
  simp only [endPassage, hg, Bool.false_eq_true, if_false]
  split
  · simp only [allowed_seqA_cons, allowed_modPassage, allowed_withA, allowed_seqA_nil, and_true]
    exact ⟨allowed_dropItems hP i s, hi _, allowed_savePt hP i _, allowed_complete hP _ _ _, allowed_swapDone hP _ _⟩
  · exact .nil _

/-- A cached entry changes in place. -/
theorem changeEntry_cached {i : Nat} {s : State} (h : (s.passage i).cached = true) (f : Passage → Passage) :
    changeEntry i f s = modPassage i f s := by
  simp only [changeEntry, h, true_or, if_true]

/-- What a passage is held as. -/
def Passage.held (reason : Nat) (p : Passage) : Passage :=
  if p.st = 1 ∨ p.st = 3 ∨ p.st = 4 then { p with heldFrom := p.st, st := 2, hold := reason }
  else if p.st = 2 then { p with hold := reason } else p

theorem holdP_cached {i : Nat} {s : State} (h : (s.passage i).cached = true) (reason : Nat) :
    holdP i reason s = modPassage i (Passage.held reason) s := changeEntry_cached h _

theorem stepKept_held (reason : Nat) (p : Passage) : StepKept p (p.held reason) := by
  unfold Passage.held
  split
  · exact rfl
  · split <;> exact rfl

/-- The start of a cached passage's step. Where no admission stop stands it leaves the passage not on hold, or as it was. -/
theorem allowed_startStep (hP : AllowsStarts P) {i : Nat} {s : State} (hc : (s.passage i).cached = true) (hg : (s.passage i).guest = false)
    (hi : ∀ s x, StepKept (s.passage i) x → x.hold = 0 → P s (.passage i x))
    (hstop : s.admStopped (s.passage i).part = true → P s (.passage i ((s.passage i).held 5))) : Allowed P (startStep i s) s := by
  simp only [startStep]
  split
  · exact .nil _
  · split
    · next h =>
      rw [holdP_cached hc]
      exact (allowed_modPassage _ _ _).2 (hstop h)
    · simp only [allowed_seqA_cons, allowed_bump, allowed_seqA_nil, and_true]
      refine ⟨hP.count _ _ _ _ rfl, ?_⟩
      simp only [beginStep]
      split
      · exact allowed_endPassage_homed hP.ends _ hg fun s => hi s _ rfl rfl
      · simp only [allowed_seqA_cons, allowed_modPassage, allowed_seqA_nil, and_true]
        refine ⟨hi _ _ rfl rfl, allowed_forA _ _ _ fun x _ s => ?_⟩
        exact (allowed_modDie _ _ _).2 (hP.items ..)

end

/-! ## Which footprints leave room for that -/

theorem allowsStarts_onlyFields {fs : List StateField}
    (h : [.regs, .mem, .poison, .cores, .dies, .passages, .jobs, .ports, .snoopF, .nvm, .keeper, .free, .out] ⊆ fs) : AllowsStarts (onlyFields fs) where
  ends := allowsEnds_onlyFields h
  count _ _ _ _ _ := by
    have hr : StateField.regs ∈ fs := h (by simp)
    simpa using hr
  items _ _ _ _ := by
    have hd : StateField.dies ∈ fs := h (by simp)
    simpa using hd

theorem allowsStarts_coreRel : AllowsStarts (coreRel fun _ x y => y = { x with ins := y.ins }) where
  ends := allowsEnds_coreRel fun _ _ _ h => h
  count _ _ _ _ _ := trivial
  items _ _ _ _ := trivial

theorem allowsStarts_passageRel {R : Nat → Passage → Passage → Prop} (h : ∀ i x y, PassageNoted x y → R i x y) : AllowsStarts (passageRel R) where
  ends := allowsEnds_passageRel h
  count _ _ _ _ _ := trivial
  items _ _ _ _ := trivial

/-- The registers a step's start may change, and those its end may. -/
def StartKey (k : Nat) : Prop := EndKey k ∨ 0x12 * 2 ^ 36 ≤ k

theorem allowsStarts_startKey : AllowsStarts (regIn StartKey) where
  ends := allowsEnds_regIn fun _ h => .inl h
  count _ i o _ _ := .inr (by
    have : Blk.pas.code = 0x12 := rfl
    simp only [regKey]
    omega)
  items _ _ _ _ := trivial

/-- Changes that leave the partition table. -/
def PtabKept (s : State) (e : Eff) : Prop :=
  match e with
  | .nvm n => n.ptab = s.nvm.ptab
  | .lost _ => False
  | _ => True

theorem ptab_after {a : Act} {s : State} (hc : s.canon = true) (h : Allowed PtabKept (a s) s) : (after a s).nvm.ptab = s.nvm.ptab :=
  Allowed.rel (R := fun s t => t.nvm.ptab = s.nvm.ptab) ⟨fun _ => rfl, fun _ _ _ h1 h2 => h2.trans h1⟩
    (fun s e _ he => by
      cases e with
      | nvm => exact he
      | lost => exact he.elim
      | _ => rfl) hc h

theorem allowsStarts_ptabKept : AllowsStarts PtabKept where
  ends := fun s e he => by
    cases e with
    | nvm n =>
      have h := congrArg Nvm.ptab he.1
      exact h
    | lost => exact he.elim
    | _ => trivial
  count _ _ _ _ _ := trivial
  items _ _ _ _ := trivial

/-! ## Deadlines -/

section
variable {s : State} (hc : s.canon = true)
include hc

theorem modPassage_shows (i : Nat) (f : Passage → Passage) : (after (modPassage i f) s).passage i = f (s.passage i) ∧
    PassagesBut [i] s (after (modPassage i f) s) := by
  refine ⟨?_, fun j hj => ?_⟩
  · rw [modPassage, after_eff, passage_ap_passage s hc, if_pos rfl]
  · rw [modPassage, after_eff, passage_ap_passage s hc, if_neg (by simpa using hj)]

/-- The fields below the sequencers' that the end of a passage leaves are those without a key of its registers. -/
theorem fld_endPassage (f : Fld) {i : Nat} (status j : Nat) (hk : ¬ EndKey (regKey f.blk j f.off)) :
    (after (endPassage i status) s).fld f j = s.fld f j :=
  fld_after_of_regIn hc (allowed_endPassage (allowsEnds_regIn fun _ h => h) i status (fun _ _ => trivial) s) hk

theorem deadlinePass_counts (d : Fin 32) (i : Fin 1048576) (ho : (s.passage i.val).open_ = true) (hg : (s.passage i.val).guest = false)
    (hh : (s.passage i.val).home = d.val) (hd : (s.passage i.val).deadline ≠ 0) (hm : (s.passage i.val).deadline < s.mile)
    (hn : (s.passage i.val).missed = false) :
    ∃ t, exec (.deadlinePass d i) s = .next t ∧
      t.fld F.SCH_DL_MISS_COUNT d.val = min (s.fld F.SCH_DL_MISS_COUNT d.val + 1) F.SCH_DL_MISS_COUNT.top ∧
      ((s.passage i.val).dlFault = true → t.faulted i.val 7 ∧ t.cells = s.cells) ∧
      ((s.passage i.val).dlFault = false → t.passage i.val = { s.passage i.val with missed := true } ∧ PassagesBut [i.val] s t ∧
        RegsBut [regKey .sch d.val F.SCH_DL_MISS_COUNT.off] s t ∧ t = { s with regs := t.regs, passages := t.passages }) := by
  obtain ⟨u, hu⟩ : ∃ u, u = after (bump F.SCH_DL_MISS_COUNT d.val 1) s := ⟨_, rfl⟩
  obtain ⟨w, hw⟩ : ∃ w, w = after (modPassage i.val fun p => { p with missed := true }) u := ⟨_, rfl⟩
  obtain ⟨t, ht⟩ : ∃ t, t = after (whenA (fun _ => (s.passage i.val).dlFault) (endPassage i.val 7)) w := ⟨_, rfl⟩
  have hcu : u.canon = true := hu ▸ after_canon _ s hc
  have hcw : w.canon = true := hw ▸ after_canon _ u hcu
  have hfu : u = { s with regs := u.regs } := hu ▸ after_overlay [.regs] (a := bump F.SCH_DL_MISS_COUNT d.val 1) (by simp)
  have hru : RegsBut [regKey .sch d.val F.SCH_DL_MISS_COUNT.off] s u := hu ▸ after_regsBut hc (by simp)
  have hcnt : u.fld F.SCH_DL_MISS_COUNT d.val = min (s.fld F.SCH_DL_MISS_COUNT d.val + 1) F.SCH_DL_MISS_COUNT.top :=
    hu ▸ fld_bump_same hc _ _ _ (by decide)
  have hfw : w = { u with passages := w.passages } := hw ▸ rfl
  obtain ⟨hpw, hbw⟩ := modPassage_shows hcu i.val fun p => { p with missed := true }
  rw [← hw] at hpw hbw
  have hpu : ∀ j, u.passage j = s.passage j := fun j => by rw [hfu]; rfl
  have hwf : w.fld F.SCH_DL_MISS_COUNT d.val = u.fld F.SCH_DL_MISS_COUNT d.val := by rw [hfw]; rfl
  refine ⟨t, ?_, ?_, fun hf => ?_, fun hf => ?_⟩
  · refine congrArg Host.Outcome.next ((after_congr (b := seqA [bump F.SCH_DL_MISS_COUNT d.val 1, modPassage i.val fun p => { p with missed := true },
      whenA (fun _ => (s.passage i.val).dlFault) (endPassage i.val 7)]) ?_).trans ?_)
    · simp only [ho, hh, hd, hm, hn, ne_eq, not_false_eq_true, and_self, if_true]
    · simp only [after_seqA_cons, after_seqA_end, ht, hw, hu]
  · rw [ht, after_whenA]
    split
    · rw [fld_endPassage hcw, hwf, hcnt]
      have hlt := d.isLt
      have hs : Blk.sch.code = 0x11 := rfl
      simp only [EndKey, regKey, not_or]
      omega
    · rw [hwf, hcnt]
  · rw [after_whenA, hf, if_pos rfl] at ht
    rw [ht]
    refine ⟨faulted_endPassage hcw (by rw [hpw, hpu]; exact ho) (by rw [hpw, hpu]; exact hg), ?_⟩
    have hft := after_overlay _ (a := endPassage i.val 7) (s := w)
      (allowed_endPassage (allowsEnds_onlyFields (List.Subset.refl _)) i.val 7 (by simp) w)
    rw [hft, hfw, hfu]
    rfl
  · rw [after_whenA, hf, if_neg (by decide)] at ht
    subst ht
    refine ⟨by rw [hpw, hpu], fun j hj => by rw [hbw j hj, hpu], fun k hk => ?_, by rw [hfw, hfu]⟩
    rw [hfw]
    exact hru k hk

end

/-! ## The stop of admission -/

/-- Passage i as a stop of admission finds it and leaves it: cached, homed here, and held for the stop or in a state that can be. -/
def Stops (i : Nat) (held : Bool) (s : State) : Prop :=
  (s.passage i).cached = true ∧ (s.passage i).guest = false ∧
    if held then (s.passage i).st = 2 ∧ (s.passage i).hold = 5 else (s.passage i).st ≤ 4 ∧ (s.passage i).open_ = true

theorem stops_noted {i : Nat} {b : Bool} {s t : State} (h : Stops i b s) (hn : PassageNoted (s.passage i) (t.passage i)) : Stops i b t := by
  rw [PassageNoted] at hn
  rw [Stops, hn]
  exact h

theorem held_five {p : Passage} (h : p.st = 2 ∧ p.hold = 5 ∨ p.st ≤ 4 ∧ p.open_ = true) : (p.held 5).st = 2 ∧ (p.held 5).hold = 5 := by
  have hst : p.st = 1 ∨ p.st = 3 ∨ p.st = 4 ∨ p.st = 2 := by
    obtain ⟨h, -⟩ | ⟨h, ho⟩ := h
    · exact .inr (.inr (.inr h))
    · have h0 : p.st ≠ 0 := fun h0 => by simp [Passage.open_, h0] at ho
      omega
  unfold Passage.held
  split
  · exact ⟨rfl, rfl⟩
  · have h2 : p.st = 2 := by omega
    rw [if_pos h2]
    exact ⟨h2, rfl⟩

section
variable {P : State → Eff → Prop} (hP : AllowsEnds P)
include hP

theorem allowed_ptCrcFault (d i h : Nat) (hi : ∀ s x, P s (.passage i x)) (s : State) : Allowed P (ptCrcFault d i h s) s := by
  simp only [ptCrcFault, allowed_seqA_cons, allowed_seqA_nil, and_true]
  exact ⟨allowed_endPassage hP i 8 hi s, allowed_logEv hP.stores.slices.reports ..⟩

theorem allowed_changeEntry (i : Nat) (f : Passage → Passage) (hi : ∀ s x, P s (.passage i x)) (s : State) : Allowed P (changeEntry i f s) s := by
  simp only [changeEntry]
  split
  · exact (allowed_modPassage _ _ _).2 (hi _ _)
  · split
    · simp only [allowed_seqA_cons, allowed_modPassage, allowed_seqA_nil, and_true]
      exact ⟨hi _ _, allowed_savePt hP i _⟩
    · exact allowed_ptCrcFault hP _ i _ hi s

end

section
variable {s : State} (hc : s.canon = true)
include hc

/-- A hold of one passage leaves the others but for notes. -/
theorem passageNoted_holdP (j reason : Nat) {i : Nat} (hj : i ≠ j) : PassageNoted (s.passage i) ((after (holdP j reason) s).passage i) := by
  have h := after_passageRel (R := fun k x y => k = j ∨ PassageNoted x y) (fun _ _ => .inr rfl)
    (fun _ _ _ _ h1 h2 => h1.elim .inl fun h1 => h2.imp_right h1.trans) (a := holdP j reason) hc
    (allowed_changeEntry (allowsEnds_passageRel fun _ _ _ => .inr) j _ (fun _ _ => .inl rfl) s) i
  exact h.resolve_left hj

theorem stops_holdP {i : Nat} {b : Bool} (h : Stops i b s) : Stops i true (after (holdP i 5) s) := by
  obtain ⟨hca, hg, hs⟩ := h
  have hp : (after (holdP i 5) s).passage i = (s.passage i).held 5 := by
    rw [after_congr (holdP_cached hca 5)]
    exact (modPassage_shows hc i _).1
  obtain ⟨h3, -, h5⟩ := (stepKept_held 5 (s.passage i)).place
  rw [Stops, hp]
  refine ⟨h3.trans hca, h5.trans hg, ?_⟩
  rw [if_pos rfl]
  refine held_five ?_
  cases b with
  | true => exact .inl hs
  | false => exact .inr hs

end

theorem stops_holdPs {i : Nat} : ∀ {l : List Nat} {s : State}, s.canon = true → (Stops i true s ∨ i ∈ l ∧ Stops i false s) →
    Stops i true (after (forA l fun j => holdP j 5) s)
  | [], _, _, h => h.elim id fun h => nomatch h.1
  | a :: l, s, hc, h => by
    rw [after_forA_cons]
    refine stops_holdPs (after_canon _ s hc) ?_
    by_cases ha : i = a
    · subst ha
      exact .inl (h.elim (stops_holdP hc) fun h => stops_holdP hc h.2)
    · have hn := passageNoted_holdP hc a 5 ha
      exact h.imp (stops_noted · hn) fun h => ⟨(List.mem_cons.1 h.1).resolve_left ha, stops_noted h.2 hn⟩

theorem not_endKey_admStop {d : Nat} (hd : d < 32) : ¬ EndKey (regKey .sch d 0x110) := by
  have hs : Blk.sch.code = 0x11 := rfl
  simp only [EndKey, regKey, not_or]
  omega

theorem admissionStop_holds {s : State} (hc : s.canon = true) (d : Fin 32) (ho : 49152 ≤ s.occ d.val) :
    ∃ t, exec (.admissionStop d) s = .next t ∧ t.flag F.SCH_SB_STS_ADM_STOP d.val = true ∧
      (∀ i ∈ s.pendingPas (s.part d.val), (s.passage i).cached = true → (s.passage i).st ≤ 4 →
        (t.passage i).st = 2 ∧ (t.passage i).hold = 5) ∧ t.cells = s.cells := by
  obtain ⟨u, hu⟩ : ∃ u, u = after (seqA [setF F.SCH_SB_STS_ADM_STOP d.val 1, emit (.ctl "ADM_STOP" d.val (s.part d.val) 1 0)]) s := ⟨_, rfl⟩
  obtain ⟨t, ht⟩ : ∃ t, t = after (forA (s.pendingPas (s.part d.val)) fun i => holdP i 5) u := ⟨_, rfl⟩
  have hcu : u.canon = true := hu ▸ after_canon _ s hc
  have hfu : u = { s with regs := u.regs, out := u.out } := hu ▸ after_overlay [.regs, .out] (a := seqA _) (by simp)
  have hall : ∀ {P : State → Eff → Prop}, AllowsEnds P → (∀ s i x, P s (.passage i x)) → Allowed P (forA (s.pendingPas (s.part d.val)) (fun i => holdP i 5) u) u :=
    fun hP hi => allowed_forA _ _ u fun i _ s => allowed_changeEntry hP i _ (fun s x => hi s i x) s
  have hft : t = State.overlay [.regs, .mem, .poison, .cores, .dies, .passages, .jobs, .ports, .snoopF, .nvm, .keeper, .free, .out] u t :=
    ht ▸ after_overlay _ (hall (allowsEnds_onlyFields (List.Subset.refl _)) (by simp))
  refine ⟨t, ?_, ?_, fun i hi hca hst => ?_, by rw [hft, hfu]; rfl⟩
  · refine congrArg Host.Outcome.next ((after_congr (b := seqA [setF F.SCH_SB_STS_ADM_STOP d.val 1, emit (.ctl "ADM_STOP" d.val (s.part d.val) 1 0),
      forA (s.pendingPas (s.part d.val)) fun i => holdP i 5]) ?_).trans ?_)
    · simp only [Nat.not_lt.2 ho, if_false]
    · simp only [after_seqA_cons, after_seqA_end] at hu ⊢
      rw [ht, hu]
  · have h1 : t.fld F.SCH_SB_STS_ADM_STOP d.val = u.fld F.SCH_SB_STS_ADM_STOP d.val := by
      rw [ht]
      exact fld_after_of_regIn hcu (hall (allowsEnds_regIn fun _ h => h) (fun _ _ _ => trivial)) (not_endKey_admStop d.isLt)
    have h2 : u.fld F.SCH_SB_STS_ADM_STOP d.val = 1 := by
      rw [hu, after_seqA_cons, after_seqA_cons, after_seqA_end]
      exact fld_set_same hc F.SCH_SB_STS_ADM_STOP d.val 1 (by decide)
    rw [State.flag, h1, h2]
    rfl
  · have hl := (List.mem_filter.1 (List.mem_filter.1 hi).1).2
    simp only [Bool.and_eq_true, Bool.not_eq_true'] at hl
    obtain ⟨⟨hop, -⟩, hg⟩ := hl
    have hpu : u.passage i = s.passage i := by rw [hfu]; rfl
    have hs0 : Stops i false u := by
      rw [Stops, hpu]
      exact ⟨hca, hg, hst, hop⟩
    have h := stops_holdPs hcu (l := s.pendingPas (s.part d.val)) (.inr ⟨hi, hs0⟩)
    rw [← ht] at h
    exact h.2.2

/-! ## The lift of a stop -/

/-- What a lift does with one passage. -/
def liftOne (i : Nat) : Act := seqA [unholdP i 5, startStep i]

/-- What the lift makes of a passage held for the stop before its step starts. -/
def Passage.unheld (p : Passage) : Passage := if p.st = 2 ∧ p.hold = 5 then { p with st := p.heldFrom, hold := 0 } else p

theorem stepKept_unheld (p : Passage) : StepKept p p.unheld := by
  unfold Passage.unheld
  split <;> exact rfl

theorem StepKept.trans {x y z : Passage} (h1 : StepKept x y) (h2 : StepKept y z) : StepKept x z := by
  rw [StepKept] at *
  rw [h2, h1]

/-- From x to y a passage has been noted, or its step has started: it is held as it was, or no longer. -/
def Lifted (x y : Passage) : Prop := StepKept x y ∧ (y.st = x.st ∧ y.hold = x.hold ∨ y.hold = 0)

theorem Lifted.trans {x y z : Passage} (h1 : Lifted x y) (h2 : Lifted y z) : Lifted x z := by
  obtain ⟨k1, h1⟩ := h1
  obtain ⟨k2, ⟨hs, hh⟩ | h2⟩ := h2
  · refine ⟨k1.trans k2, ?_⟩
    rw [hs, hh]
    exact h1
  · exact ⟨k1.trans k2, .inr h2⟩

theorem lifted_noted {x y : Passage} (h : PassageNoted x y) : Lifted x y := by
  rw [PassageNoted] at h
  rw [h]
  exact ⟨rfl, .inl ⟨rfl, rfl⟩⟩

theorem lifted_unheld (p : Passage) : Lifted p p.unheld := by
  refine ⟨stepKept_unheld p, ?_⟩
  unfold Passage.unheld
  split
  · exact .inr rfl
  · exact .inl ⟨rfl, rfl⟩

theorem unheld_hold {p : Passage} (h : p.st = 2 ∧ p.hold = 5 ∨ p.hold = 0) : p.unheld.hold = 0 := by
  unfold Passage.unheld
  split
  · rfl
  · next hn => exact h.resolve_left hn

theorem not_startKey_admStop {d : Nat} (hd : d < 32) : ¬ StartKey (regKey .sch d 0x110) := by
  have h := not_endKey_admStop hd
  have hs : Blk.sch.code = 0x11 := rfl
  simp only [StartKey, not_or]
  refine ⟨h, ?_⟩
  simp only [regKey]
  omega

/-- The partition table and the stops of admission are kept. -/
def StopsKept (s t : State) : Prop := t.nvm.ptab = s.nvm.ptab ∧ ∀ d < 32, t.fld F.SCH_SB_STS_ADM_STOP d = s.fld F.SCH_SB_STS_ADM_STOP d

theorem StopsKept.trans {s t u : State} (h1 : StopsKept s t) (h2 : StopsKept t u) : StopsKept s u :=
  ⟨h2.1.trans h1.1, fun d hd => (h2.2 d hd).trans (h1.2 d hd)⟩

theorem StopsKept.partDies {s t : State} (h : StopsKept s t) (p : Nat) : t.partDies p = s.partDies p := by
  simp only [State.partDies, State.part, h.1]

theorem StopsKept.admStopped {s t : State} (h : StopsKept s t) (p : Nat) : t.admStopped p = s.admStopped p := by
  rw [Bool.eq_iff_iff, State.admStopped, State.admStopped, h.partDies, List.any_eq_true, List.any_eq_true]
  refine exists_congr fun d => and_congr_right fun hm => ?_
  rw [State.flag, State.flag, h.2 d (mem_partDies.1 hm).1]

section
variable {s : State} (hc : s.canon = true) {i : Nat} (hca : (s.passage i).cached = true) (hg : (s.passage i).guest = false)
  (hstop : s.admStopped (s.passage i).part = false)
include hc hca hg hstop

theorem startStep_lifts : (∀ j, Lifted (s.passage j) ((after (startStep i) s).passage j)) ∧
    StopsKept s (after (startStep i) s) ∧ (after (startStep i) s).cells = s.cells := by
  have hall : ∀ {P : State → Eff → Prop}, AllowsStarts P → (∀ s x, StepKept (s.passage i) x → x.hold = 0 → P s (.passage i x)) →
      Allowed P (startStep i s) s := fun hP hi => allowed_startStep hP hca hg hi fun h => absurd (hstop.symm.trans h) (by decide)
  refine ⟨?_, ⟨?_, fun d hd => ?_⟩, ?_⟩
  · exact after_passageRel (R := fun _ => Lifted) (fun _ _ => lifted_noted rfl) (fun _ _ _ _ => Lifted.trans) hc
      (hall (allowsStarts_passageRel fun _ _ _ => lifted_noted) fun _ _ h h0 => ⟨h, .inr h0⟩)
  · exact ptab_after hc (hall allowsStarts_ptabKept fun _ _ _ _ => trivial)
  · exact fld_after_of_regIn hc (hall allowsStarts_startKey fun _ _ _ _ => trivial) (not_startKey_admStop hd)
  · have hf := after_overlay _ (a := startStep i) (s := s) (hall (allowsStarts_onlyFields (List.Subset.refl _)) (by simp))
    rw [hf]
    rfl

theorem liftOne_lifts : (∀ j, Lifted (s.passage j) ((after (liftOne i) s).passage j)) ∧
    ((s.passage i).st = 2 ∧ (s.passage i).hold = 5 ∨ (s.passage i).hold = 0 → ((after (liftOne i) s).passage i).hold = 0) ∧
    StopsKept s (after (liftOne i) s) ∧ (after (liftOne i) s).cells = s.cells := by
  obtain ⟨u, hu⟩ : ∃ u, u = after (modPassage i Passage.unheld) s := ⟨_, rfl⟩
  have hcu : u.canon = true := hu ▸ after_canon _ s hc
  obtain ⟨hi, hb⟩ := modPassage_shows hc i Passage.unheld
  rw [← hu] at hi hb
  have hrun : after (liftOne i) s = after (startStep i) u := by
    have hun : after (unholdP i 5) s = u := hu ▸ after_congr (changeEntry_cached hca _)
    rw [liftOne, after_seqA_cons, hun, after_seqA_cons, after_seqA_end]
  have hadm : StopsKept s u := hu ▸ ⟨rfl, fun _ _ => rfl⟩
  have hcells : u.cells = s.cells := hu ▸ rfl
  obtain ⟨k3, k4, k5⟩ := (stepKept_unheld (s.passage i)).place
  obtain ⟨hl, hst, hce⟩ := startStep_lifts hcu (i := i) (by rw [hi, k3, hca]) (by rw [hi, k5, hg]) (by rw [hadm.admStopped, hi, k4, hstop])
  rw [hrun]
  refine ⟨fun j => ?_, fun h => ?_, hadm.trans hst, hce.trans hcells⟩
  · refine Lifted.trans ?_ (hl j)
    by_cases hj : j = i
    · subst hj
      rw [hi]
      exact lifted_unheld _
    · rw [hb j (by simpa using hj)]
      exact lifted_noted rfl
  · have h0 : (u.passage i).hold = 0 := hi ▸ unheld_hold h
    obtain ⟨-, ⟨-, hh⟩ | hh⟩ := hl i
    · exact hh.trans h0
    · exact hh

end

/-- The passages of a list are lifted one after another. -/
theorem lift_all {p : Nat} : ∀ {l : List Nat} {s : State}, s.canon = true → s.admStopped p = false →
    (∀ i ∈ l, (s.passage i).cached = true ∧ (s.passage i).guest = false ∧ (s.passage i).part = p) →
    (∀ j, Lifted (s.passage j) ((after (forA l liftOne) s).passage j)) ∧
    (∀ i ∈ l, (s.passage i).st = 2 → (s.passage i).hold = 5 → ((after (forA l liftOne) s).passage i).hold = 0) ∧
    StopsKept s (after (forA l liftOne) s) ∧ (after (forA l liftOne) s).cells = s.cells
  | [], s, _, _, _ => ⟨fun _ => lifted_noted rfl, by simp, ⟨rfl, fun _ _ => rfl⟩, rfl⟩
  | a :: l, s, hc, hs, hl => by
    obtain ⟨hca, hg, hp⟩ := hl a (.head l)
    obtain ⟨h1, h2, h3, h4⟩ := liftOne_lifts hc hca hg (hp.symm ▸ hs)
    obtain ⟨g1, g2, g3, g4⟩ := lift_all (p := p) (l := l) (after_canon (liftOne a) s hc) ((h3.admStopped p).trans hs) fun i hi => by
      obtain ⟨x1, x2, x3⟩ := hl i (.tail a hi)
      obtain ⟨k3, k4, k5⟩ := (h1 i).1.place
      exact ⟨k3.trans x1, k5.trans x2, k4.trans x3⟩
    rw [after_forA_cons]
    refine ⟨fun j => (h1 j).trans (g1 j), fun i hi hst hh => ?_, h3.trans g3, g4.trans h4⟩
    obtain ⟨-, hg1⟩ := g1 i
    by_cases ha : i = a
    · subst ha
      have h0 := h2 (.inl ⟨hst, hh⟩)
      exact hg1.elim (fun hg1 => hg1.2.trans h0) id
    · obtain ⟨-, ⟨hs1, hh1⟩ | h0⟩ := h1 i
      · exact g2 i ((List.mem_cons.1 hi).resolve_left ha) (hs1.trans hst) (hh1.trans hh)
      · exact hg1.elim (fun hg1 => hg1.2.trans h0) id

/-- The flag of a die among those it is cleared on reads 0. -/
theorem admStop_cleared : ∀ {l : List Nat} {s : State}, s.canon = true → (∀ d ∈ l, d < 32) → ∀ d < 32,
    (d ∈ l ∨ s.fld F.SCH_SB_STS_ADM_STOP d = 0) → (after (forA l fun e => setF F.SCH_SB_STS_ADM_STOP e 0) s).fld F.SCH_SB_STS_ADM_STOP d = 0
  | [], _, _, _, _, _, h => h.elim (fun h => nomatch h) id
  | a :: l, s, hc, hl, d, hd, h => by
    rw [after_forA_cons]
    refine admStop_cleared (after_canon _ s hc) (fun e he => hl e (.tail a he)) d hd ?_
    by_cases ha : d = a
    · subst ha
      exact .inr (fld_set_same hc F.SCH_SB_STS_ADM_STOP d 0 (by decide))
    · have hk : regKey .sch d F.SCH_SB_STS_ADM_STOP.off ≠ regKey .sch a F.SCH_SB_STS_ADM_STOP.off := by
        simp only [regKey]
        omega
      rw [fld_setF_reg s hc F.SCH_SB_STS_ADM_STOP F.SCH_SB_STS_ADM_STOP a d 0 hk]
      exact h.imp_left fun h => (List.mem_cons.1 h).resolve_left ha

theorem admissionStopLift_frees {s : State} (hc : s.canon = true) (part : Fin 16) (hs : s.admStopped part.val = true)
    (ho : ∀ d ∈ s.partDies part.val, s.occ d < 32768) (hca : ∀ i ∈ s.partLive part.val, (s.passage i).cached = true) :
    ∃ t, exec (.admissionStopLift part) s = .next t ∧ (∀ d ∈ s.partDies part.val, t.flag F.SCH_SB_STS_ADM_STOP d = false) ∧
      (∀ i ∈ s.partLive part.val, (s.passage i).st = 2 → (s.passage i).hold = 5 → (t.passage i).hold = 0) ∧ t.cells = s.cells := by
  obtain ⟨u, hu⟩ : ∃ u, u = after (seqA [forA (s.partDies part.val) fun d => setF F.SCH_SB_STS_ADM_STOP d 0, emit (.ctl "ADM_STOP" 0 part.val 0 0)]) s := ⟨_, rfl⟩
  obtain ⟨l, hl⟩ : ∃ l, l = (s.partLive part.val).filter fun i => (s.passage i).hold == 5 := ⟨_, rfl⟩
  obtain ⟨t, ht⟩ : ∃ t, t = after (forA l liftOne) u := ⟨_, rfl⟩
  have hcu : u.canon = true := hu ▸ after_canon _ s hc
  have hfu : u = { s with regs := u.regs, out := u.out } := by
    refine hu ▸ after_overlay [.regs, .out] (a := seqA _) ?_
    simp only [allowed_seqA_cons, allowed_emit, allowed_seqA_nil, and_true]
    exact ⟨allowed_forA _ _ s fun _ _ _ => (allowed_setF ..).2 (by simp), by simp⟩
  have hclear : ∀ d ∈ s.partDies part.val, u.fld F.SCH_SB_STS_ADM_STOP d = 0 := fun d hd => by
    rw [hu, after_seqA_cons, after_seqA_cons, after_seqA_end]
    exact admStop_cleared hc (fun e he => (mem_partDies.1 he).1) d (mem_partDies.1 hd).1 (.inl hd)
  have hdies : u.partDies part.val = s.partDies part.val := by rw [hfu]; rfl
  have hpas : ∀ i, u.passage i = s.passage i := fun i => by rw [hfu]; rfl
  have hus : u.admStopped part.val = false := by
    rw [State.admStopped, hdies, List.any_eq_false]
    intro d hd
    rw [State.flag, hclear d hd]
    decide
  obtain ⟨-, hfree, hkept, hcells⟩ := lift_all (p := part.val) (l := l) hcu hus fun i hi => by
    have hm := (List.mem_filter.1 (hl ▸ hi)).1
    have hp := (List.mem_filter.1 hm).2
    simp only [Bool.and_eq_true, beq_iff_eq, Bool.not_eq_true'] at hp
    rw [hpas]
    exact ⟨hca i hm, hp.2, hp.1.2⟩
  rw [← ht] at hfree hkept hcells
  refine ⟨t, ?_, fun d hd => ?_, fun i hi h2 h5 => hfree i ?_ (by rw [hpas, h2]) (by rw [hpas, h5]), by rw [hcells, hfu]⟩
  · refine congrArg Host.Outcome.next ((after_congr (b := seqA [forA (s.partDies part.val) fun d => setF F.SCH_SB_STS_ADM_STOP d 0,
      emit (.ctl "ADM_STOP" 0 part.val 0 0), forA l liftOne]) ?_).trans ?_)
    · have hany : (s.partDies part.val).any (fun d => 32768 ≤ s.occ d) = false := List.any_eq_false.2 fun d hd => by
        have := ho d hd
        simp only [decide_eq_true_eq]
        omega
      simp only [hs, hany, Bool.true_eq_false, Bool.false_eq_true, or_self, if_false, hl]
      rfl
    · simp only [after_seqA_cons, after_seqA_end] at hu ⊢
      rw [ht, hu]
  · rw [State.flag, hkept.2 d (mem_partDies.1 hd).1, hclear d hd]
    rfl
  · rw [hl]
    exact List.mem_filter.2 ⟨hi, by simp [h5]⟩

/-! ## The end of a step -/

/-- The cells, and the sequencers but for the inputs that wait for them, are kept. -/
def InsKept (s t : State) : Prop := t.cells = s.cells ∧ CoresButIns [] s t

theorem InsKept.trans {s t u : State} (h1 : InsKept s t) (h2 : InsKept t u) : InsKept s u :=
  ⟨h2.1.trans h1.1, fun c hm => by rw [h2.2 c hm, h1.2 c hm]⟩

theorem insKept_after {a : Act} {s : State} (hc : s.canon = true)
    (h : ∀ {P : State → Eff → Prop}, AllowsStarts P → (∀ s i x, P s (.passage i x)) → Allowed P (a s) s) : InsKept s (after a s) := by
  refine ⟨?_, fun c _ => ?_⟩
  · have hf := after_overlay _ (a := a) (s := s) (h (allowsStarts_onlyFields (List.Subset.refl _)) (by simp))
    rw [hf]
    rfl
  · exact after_coreRel (R := fun _ x y => y = { x with ins := y.ins }) (fun _ _ => rfl) (fun _ _ _ _ h1 h2 => by rw [h2, h1]) hc
      (h allowsStarts_coreRel fun _ _ _ => trivial) c

/-- A passage whose step has ended. -/
def Passage.stepped (p : Passage) : Passage := { p with
  outNext := (p.outNext + 1) % 65536, steps := (p.steps + 1) % 2 ^ 32, inflight := false, waiting := none
  hold := 0, st := if p.pendingIn = 0 then 4 else 3 }

/-- The result is stored and nothing of passage i is on a scoreboard. -/
def stepResult (i a : Nat) (bs : List Byte) : Act := seqA [storeBytes false a bs, clearItems i]

/-- What follows the end of a passage's step: the passage is DONE, or its next step starts. -/
def stepGoesOn (i slot n : Nat) (p : Passage) : Act :=
  if !p.stream || (p.closed && p.pendingIn == 0) then donePassage i 2 slot n
  else seqA [withA (fun s => s.passage i) fun q => complete q.cring (compOf i q 1 slot n), modPassage i fun p => { p with exitAt := 0xFFFF }, startStep i]

section
variable {P : State → Eff → Prop}

theorem allowed_clearItems (hP : AllowsDrops P) (i : Nat) (s : State) : Allowed P (clearItems i s) s := by
  rw [clearItems, allowed_seqA_cons, allowed_seqA_cons]
  refine ⟨hP.dropInputs i s, allowed_forA _ _ _ fun d _ s => (allowed_whenA _ _ s).2 fun _ => (allowed_modDie _ _ _).2 (hP _ _ ?_), .nil _⟩
  exact rfl

theorem allowed_stepResult (hP : AllowsEnds P) (i a : Nat) (bs : List Byte) (s : State) : Allowed P (stepResult i a bs s) s := by
  rw [stepResult, allowed_seqA_cons, allowed_seqA_cons]
  exact ⟨allowed_storeBytes hP.stores false a bs s, allowed_clearItems hP.drops i _, .nil _⟩

theorem allowed_donePassage (hP : AllowsEnds P) {i : Nat} (kind slot n : Nat)
    (hi : ∀ s, P s (.passage i { s.passage i with st := 5, status := 0, hold := 0, inflight := false })) (s : State) :
    Allowed P (donePassage i kind slot n s) s := by
  simp only [donePassage, allowed_seqA_cons, allowed_modPassage, allowed_withA, allowed_seqA_nil, and_true]
  exact ⟨hi s, allowed_savePt hP i _, allowed_complete hP _ _ _, allowed_swapDone hP _ _⟩

end

/-- A die's scoreboard and dispatch buffer without passage i's. -/
def Die.lessItems (i : Nat) (x : Die) : Die := { x with sb := x.sb.filter (fun y => y.idx != i), dispBuf := x.dispBuf.filter fun y => y.idx != i }

/-- What the items of passage i are cleared from of one die, where it has any. -/
def clearDie (i d : Nat) : Act := whenA (fun s => (s.die d).sb.any (fun x => x.idx == i) || (s.die d).dispBuf.any fun x => x.idx == i) (modDie d (Die.lessItems i))

theorem clearDie_clears {s : State} (hc : s.canon = true) (i d : Nat) : ∀ x ∈ ((after (clearDie i d) s).die d).sb, x.idx ≠ i := by
  intro x hx
  rw [clearDie, after_whenA] at hx
  split at hx
  · rw [die_modDie hc, if_pos rfl] at hx
    simpa using (List.mem_filter.1 hx).2
  · next hn =>
    simp only [Bool.or_eq_true, List.any_eq_true, beq_iff_eq, not_or, not_exists, not_and] at hn
    exact hn.1 x hx

theorem clearDie_other {s : State} (hc : s.canon = true) (i : Nat) {d e : Nat} (he : e ≠ d) : (after (clearDie i d) s).die e = s.die e := by
  rw [clearDie, after_whenA]
  split
  · rw [die_modDie hc, if_neg he]
  · rfl

theorem clearDies_clear (i : Nat) {e : Nat} : ∀ {l : List Nat} {s : State}, s.canon = true → (e ∈ l ∨ ∀ x ∈ (s.die e).sb, x.idx ≠ i) →
    ∀ x ∈ ((after (forA l (clearDie i)) s).die e).sb, x.idx ≠ i
  | [], _, _, h => h.elim (fun h => nomatch h) id
  | a :: l, s, hc, h => by
    rw [after_forA_cons]
    refine clearDies_clear i (after_canon _ s hc) ?_
    by_cases ha : e = a
    · subst ha
      exact .inr (clearDie_clears hc i e)
    · rw [clearDie_other hc i ha]
      exact h.imp_left fun h => (List.mem_cons.1 h).resolve_left ha

theorem clearItems_clears {s : State} (hc : s.canon = true) (i : Nat) {e : Nat} (he : e < 32) :
    ∀ x ∈ ((after (clearItems i) s).die e).sb, x.idx ≠ i := by
  have h : after (clearItems i) s = after (forA allDies (clearDie i)) (after (dropInputs i) s) := by
    rw [clearItems, after_seqA_cons, after_seqA_cons, after_seqA_end]
    exact rfl
  rw [h]
  exact clearDies_clear i (after_canon _ s hc) (.inl (by simpa [allDies] using he))

theorem allowsComps_dieRel {R : Nat → Die → Die → Prop} (h : ∀ d x y, DieSlices { x with compQ := y.compQ } y → R d x y) : AllowsComps (dieRel R) where
  stores := fun s e he => by
    cases e with
    | die d x =>
      refine h d _ _ ?_
      change x = _ at he
      change x = _
      rw [he]
    | _ => trivial
  queue _ _ _ := h _ _ _ rfl
  tail _ _ _ := trivial
  notes _ _ _ _ := trivial
  notice _ _ _ _ := trivial

theorem allowed_swapDone_dieRel (R : Nat → Die → Die → Prop) (p : Nat) (s : State) : Allowed (dieRel R) (swapDone p s) s := by
  have hE : AllowsEvents (dieRel R) := fun _ e _ hn => by
    cases e with
    | die => cases hn
    | _ => trivial
  simp only [swapDone]
  split
  · exact .nil _
  · split
    · simp only [allowed_seqA_cons, allowed_modJob, swapState, allowed_setF, allowed_seqA_nil, and_true]
      refine ⟨trivial, ⟨trivial, allowed_raiseEvent hE _ _ _ (by decide) _⟩, trivial, trivial, trivial, trivial, ?_⟩
      simp only [writeRetain]
      split
      · exact allowed_nvmWrite hE _ (fun s => (allowed_modNvm _ _).2 trivial) _
      · exact (allowed_modKeeper _ _).2 trivial
    · exact .nil _

section
variable {s : State} (hc : s.canon = true) {i : Nat}
include hc

theorem stepResult_shows (a : Nat) (bs : List Byte) : (∀ j, PassageNoted (s.passage j) ((after (stepResult i a bs) s).passage j)) ∧
    InsKept s (after (stepResult i a bs) s) ∧ ∀ e < 32, ∀ x ∈ ((after (stepResult i a bs) s).die e).sb, x.idx ≠ i := by
  refine ⟨?_, insKept_after hc fun hP _ => allowed_stepResult hP.ends i a bs s, fun e he => ?_⟩
  · exact after_passageRel (R := fun _ => PassageNoted) (fun _ _ => rfl) (fun _ _ _ _ => PassageNoted.trans) hc
      (allowed_stepResult (allowsEnds_passageRel fun _ _ _ => id) i a bs s)
  · rw [stepResult, after_seqA_cons, after_seqA_cons, after_seqA_end]
    exact clearItems_clears (after_canon _ s hc) i he

/-- A completion is noted in its passage, and nothing on a scoreboard changes. -/
theorem completion_shows {a : Act} (hnote : ∀ {P : State → Eff → Prop}, AllowsEnds P → Allowed P (a s) s) 
    (hsb : ∀ {R : Nat → Die → Die → Prop}, (∀ d x y, DieSlices { x with compQ := y.compQ } y → R d x y) → Allowed (dieRel R) (a s) s) :
    (∀ j, PassageNoted (s.passage j) ((after a s).passage j)) ∧ ∀ e, ((after a s).die e).sb = (s.die e).sb := by
  refine ⟨?_, fun e => ?_⟩
  · exact after_passageRel (R := fun _ => PassageNoted) (fun _ _ => rfl) (fun _ _ _ _ => PassageNoted.trans) hc
      (hnote (allowsEnds_passageRel fun _ _ _ => id))
  · refine after_dieRel (R := fun _ x y => y.sb = x.sb) (fun _ _ => rfl) (fun _ _ _ _ h1 h2 => h2.trans h1) hc (hsb fun d x y h => ?_) e
    rw [DieSlices] at h
    rw [h]

theorem donePassage_shows (kind slot n : Nat) : PassageNoted { s.passage i with st := 5, status := 0, hold := 0, inflight := false } ((after (donePassage i kind slot n) s).passage i) ∧
    InsKept s (after (donePassage i kind slot n) s) ∧ ∀ e, ((after (donePassage i kind slot n) s).die e).sb = (s.die e).sb := by
  obtain ⟨u, hu⟩ : ∃ u, u = after (modPassage i fun p => { p with st := 5, status := 0, hold := 0, inflight := false }) s := ⟨_, rfl⟩
  have hcu : u.canon = true := hu ▸ after_canon _ s hc
  have hi := (modPassage_shows hc i fun p => { p with st := 5, status := 0, hold := 0, inflight := false }).1
  rw [← hu] at hi
  have hrun : after (donePassage i kind slot n) s =
      after (seqA [savePt i, withA (fun s => s.passage i) fun p => seqA [complete p.cring (compOf i p kind slot n), swapDone p.part]]) u := by
    rw [donePassage, after_seqA_cons, ← hu]
  obtain ⟨hnote, hsb⟩ := completion_shows hcu (a := seqA [savePt i, withA (fun s => s.passage i) fun p => seqA [complete p.cring (compOf i p kind slot n), swapDone p.part]])
    (fun hP => by
      simp only [allowed_seqA_cons, allowed_withA, allowed_seqA_nil, and_true]
      exact ⟨allowed_savePt hP i _, allowed_complete hP _ _ _, allowed_swapDone hP _ _⟩)
    (fun hR => by
      simp only [allowed_seqA_cons, allowed_withA, allowed_seqA_nil, and_true]
      have hC := allowsComps_dieRel hR
      refine ⟨?_, hC.complete _ _ _, allowed_swapDone_dieRel _ _ _⟩
      simp only [savePt]
      split
      · exact allowed_storeBytes hC.stores false _ _ u
      · exact .nil _)
  refine ⟨?_, insKept_after hc fun hP hi => allowed_donePassage hP.ends kind slot n (fun s => hi s _ _) s, fun e => ?_⟩
  · rw [hrun, ← hi]
    exact hnote i
  · rw [hrun, hsb, hu]
    rfl

theorem stream_shows (slot n : Nat) (hca : (s.passage i).cached = true) (hg : (s.passage i).guest = false) :
    let t := after (seqA [withA (fun s => s.passage i) fun q => complete q.cring (compOf i q 1 slot n), modPassage i fun p => { p with exitAt := 0xFFFF }, startStep i]) s
    (t.passage i).outNext = (s.passage i).outNext ∧ (t.passage i).steps = (s.passage i).steps ∧ InsKept s t := by
  obtain ⟨u, hu⟩ : ∃ u, u = after (withA (fun s => s.passage i) fun q => complete q.cring (compOf i q 1 slot n)) s := ⟨_, rfl⟩
  obtain ⟨w, hw⟩ : ∃ w, w = after (modPassage i fun p => { p with exitAt := 0xFFFF }) u := ⟨_, rfl⟩
  have hcu : u.canon = true := hu ▸ after_canon _ s hc
  have hcw : w.canon = true := hw ▸ after_canon _ u hcu
  have hnote : PassageNoted (s.passage i) (u.passage i) := hu ▸ (completion_shows hc (a := withA (fun s => s.passage i) fun q => complete q.cring (compOf i q 1 slot n))
    (fun hP => (allowed_withA _ _ s).2 (allowed_complete hP _ _ _)) (fun hR => (allowed_withA _ _ s).2 ((allowsComps_dieRel hR).complete _ _ _))).1 i
  have hwi := (modPassage_shows hcu i fun p => { p with exitAt := 0xFFFF }).1
  rw [← hw] at hwi
  have hsw : StepKept (s.passage i) (w.passage i) := by
    rw [hwi, hnote]
    exact rfl
  obtain ⟨k3, -, k5⟩ := hsw.place
  have hall : ∀ {P : State → Eff → Prop}, AllowsStarts P → (∀ s x, StepKept (s.passage i) x → P s (.passage i x)) → P w (.passage i ((w.passage i).held 5)) →
      Allowed P (startStep i w) w := fun hP hi hh => allowed_startStep hP (k3.trans hca) (k5.trans hg) (fun s x h _ => hi s x h) fun _ => hh
  have hstep : StepKept (w.passage i) ((after (startStep i) w).passage i) :=
    after_passageRel (R := fun j x y => j = i → StepKept x y) (fun _ _ _ => rfl) (fun _ _ _ _ h1 h2 h => (h1 h).trans (h2 h)) hcw
      (hall (allowsStarts_passageRel fun _ _ _ h _ => (lifted_noted h).1) (fun _ _ h _ => h) fun _ => stepKept_held 5 _) i rfl
  have hsu : InsKept s u := hu ▸ insKept_after hc fun hP _ => (allowed_withA _ _ s).2 (allowed_complete hP.ends _ _ _)
  have huw : InsKept u w := hw ▸ insKept_after hcu fun _ hi => (allowed_modPassage _ _ _).2 (hi _ _ _)
  have hwt : InsKept w (after (startStep i) w) := insKept_after hcw fun hP hi => hall hP (fun s x _ => hi s i x) (hi _ _ _)
  have hst := hsw.trans hstep
  rw [StepKept] at hst
  simp only [after_seqA_cons, after_seqA_end]
  rw [← hu, ← hw]
  exact ⟨by rw [hst], by rw [hst], hsu.trans (huw.trans hwt)⟩

theorem stepGoesOn_shows (slot n : Nat) (hca : (s.passage i).cached = true) (hg : (s.passage i).guest = false) (p : Passage) :
    let t := after (stepGoesOn i slot n p) s
    (t.passage i).outNext = (s.passage i).outNext ∧ (t.passage i).steps = (s.passage i).steps ∧ InsKept s t ∧
      (p.stream = false → (t.passage i).st = 5 ∧ (t.passage i).inflight = false ∧ ∀ e, (t.die e).sb = (s.die e).sb) := by
  unfold stepGoesOn
  split
  · obtain ⟨hn, hk, hsb⟩ := donePassage_shows hc (i := i) 2 slot n
    rw [PassageNoted] at hn
    refine ⟨by rw [hn], by rw [hn], hk, fun _ => ⟨by rw [hn], by rw [hn], hsb⟩⟩
  · next hstream =>
    obtain ⟨h1, h2, hk⟩ := stream_shows hc slot n hca hg
    refine ⟨h1, h2, hk, fun h => ?_⟩
    rw [h] at hstream
    exact absurd rfl hstream

theorem stepComplete_ends (d : Fin 32) (j : Fin 1048576) (res : List Byte) (ho : (s.passage j.val).open_ = true) (hg : (s.passage j.val).guest = false)
    (hh : (s.passage j.val).home = d.val) (hf : (s.passage j.val).inflight = true) (hca : (s.passage j.val).cached = true)
    (hw : (s.passage j.val).waiting = none) (hq : (s.die (s.passage j.val).cring).compQ.length < 256) (hfree : s.slotFree j.val = true)
    (hheld : (s.heldE (ringAddr (s.passage j.val).outRing + (s.passage j.val).outNext % 2 ^ ringLog2 (s.passage j.val).outRing * s.outSlot (s.passage j.val).part)
      (s.outSlot (s.passage j.val).part)).isEmpty = true) :
    ∃ t, exec (.stepComplete d j res) s = .next t ∧ (t.passage j.val).outNext = ((s.passage j.val).outNext + 1) % 65536 ∧
      (t.passage j.val).steps = ((s.passage j.val).steps + 1) % 2 ^ 32 ∧ t.cells = s.cells ∧ CoresButIns [] s t ∧
      ((s.passage j.val).stream = false → (t.passage j.val).st = 5 ∧ (t.passage j.val).inflight = false ∧
        ∀ e, e < 32 → ∀ x ∈ (t.die e).sb, x.idx ≠ j.val) := by
  obtain ⟨n, hn⟩ : ∃ n, n = s.outSlot (s.passage j.val).part := ⟨_, rfl⟩
  obtain ⟨slot, hs⟩ : ∃ slot, slot = (s.passage j.val).outNext % 2 ^ ringLog2 (s.passage j.val).outRing := ⟨_, rfl⟩
  obtain ⟨u, hu⟩ : ∃ u, u = after (stepResult j.val (ringAddr (s.passage j.val).outRing + slot * n) (padTo n res)) s := ⟨_, rfl⟩
  obtain ⟨w, hw'⟩ : ∃ w, w = after (modPassage j.val Passage.stepped) u := ⟨_, rfl⟩
  obtain ⟨t, ht⟩ : ∃ t, t = after (stepGoesOn j.val slot (s.passage j.val).outNext (s.passage j.val)) w := ⟨_, rfl⟩
  have hcu : u.canon = true := hu ▸ after_canon _ s hc
  have hcw : w.canon = true := hw' ▸ after_canon _ u hcu
  obtain ⟨hpu, hku, hsu⟩ := stepResult_shows hc (i := j.val) (ringAddr (s.passage j.val).outRing + slot * n) (padTo n res)
  rw [← hu] at hpu hku hsu
  have hpw := (modPassage_shows hcu j.val Passage.stepped).1
  have hkw : InsKept u w := hw' ▸ insKept_after hcu fun _ hi => (allowed_modPassage _ _ _).2 (hi _ _ _)
  have hdw : ∀ e, w.die e = u.die e := hw' ▸ fun _ => rfl
  rw [← hw'] at hpw
  have hpj := hpu j.val
  rw [PassageNoted] at hpj
  have hcaw : (w.passage j.val).cached = true := by
    rw [hpw, hpj]
    exact hca
  have hgw : (w.passage j.val).guest = false := by
    rw [hpw, hpj]
    exact hg
  obtain ⟨h1, h2, hkt, hdone⟩ := stepGoesOn_shows hcw (i := j.val) slot (s.passage j.val).outNext hcaw hgw (s.passage j.val)
  rw [← ht] at h1 h2 hkt hdone
  have hk := hku.trans (hkw.trans hkt)
  refine ⟨t, ?_, ?_, ?_, hk.1, hk.2, fun hstr => ?_⟩
  · refine congrArg Host.Outcome.next ((after_congr (b := seqA [storeBytes false (ringAddr (s.passage j.val).outRing + slot * n) (padTo n res), clearItems j.val,
      modPassage j.val Passage.stepped, stepGoesOn j.val slot (s.passage j.val).outNext (s.passage j.val)]) ?_).trans ?_)
    · simp only [ho, hh, hf, hq, and_self, if_true, hw, Option.getD_none, finishStep, hfree, hheld, Bool.true_eq_false, if_false, hn, hs]
      rfl
    · simp only [stepResult, after_seqA_cons, after_seqA_end] at hu ⊢
      rw [ht, hw', hu]
  · rw [h1, hpw, hpj]
    rfl
  · rw [h2, hpw, hpj]
    rfl
  · obtain ⟨h5, hin, hsb⟩ := hdone hstr
    refine ⟨h5, hin, fun e he => ?_⟩
    rw [hsb, hdw]
    exact hsu e he

theorem stepComplete_waits (d : Fin 32) (j : Fin 1048576) (res : List Byte) (ho : (s.passage j.val).open_ = true)
    (hh : (s.passage j.val).home = d.val) (hf : (s.passage j.val).inflight = true)
    (hw : (s.passage j.val).waiting = none) (hq : (s.die (s.passage j.val).cring).compQ.length < 256) (hfree : s.slotFree j.val = false) :
    ∃ t, exec (.stepComplete d j res) s = .next t ∧ t.passage j.val = { s.passage j.val with waiting := some res } ∧
      PassagesBut [j.val] s t ∧ t = { s with passages := t.passages } := by
  obtain ⟨hi, hb⟩ := modPassage_shows hc j.val fun p => { p with waiting := some res }
  refine ⟨_, congrArg Host.Outcome.next (after_congr (b := modPassage j.val fun p => { p with waiting := some res }) ?_), hi, hb, rfl⟩
  simp only [ho, hh, hf, hq, and_self, if_true, hw, Option.getD_none, finishStep, hfree]

end

end Sys2Proof.Machine
end

open Sys2Proof Sys2Proof.Machine

/-- Settles O29, over the footprint of a step that ends or starts. -/
theorem stepsAndStops : Obligations.StepsAndStops := by
  unfold Obligations.StepsAndStops
  intro s hc
  refine ⟨fun d i res => ?_, admissionStop_holds hc, admissionStopLift_frees hc, deadlinePass_counts hc⟩
  intro p n ho hg hh hf hca hw hq
  exact ⟨stepComplete_ends hc d i res ho hg hh hf hca hw hq, stepComplete_waits hc d i res ho hh hf hw hq⟩

section
/-!
SUPPORT. A tier engine context starts (R276), and the columns its datapath gives it (R275–R277).
-/
namespace Sys2Proof.Machine

/-! ## A context starts -/

/-- What a context's start writes of its SRAM. -/
def ctxImage (c : CoreId) (p : Nat) (w : WorkItem) (st : Stage) (rcd : Nat) (input : List Byte) : Act := fun s =>
  let j := s.job p
  let e := s.progEntry j.addr st.prog
  seqA [putBytes (coreBase c) (padTo 4096 (s.bytes (s.progSect j.addr + s.num e 4) (4 * s.num (e + 4) 2))),
    putBytes (coreBase c + 0x1000) (List.replicate 64 0 ++ j.plan.routeBytes s j.addr j.stages j.fams w.stage w.rep w.arr ++
      s.bytes (e + 0x10) 64 ++ List.replicate 64 0),
    putBytes (coreBase c + 0x1100) (s.bytes (rcd + 0x40000) 1024), putBytes (coreBase c + 0x1600) (padTo 1536 input)] s

theorem length_routeBytes (q : BindPlan) (s : State) (a : Nat) (stages : List Stage) (fs : List TreeFam) (stage rep arr : Nat) :
    (q.routeBytes s a stages fs stage rep arr).length ≤ 64 := by
  unfold BindPlan.routeBytes
  split
  · exact Nat.zero_le _
  · exact (length_padTo ..).le

theorem length_bytes (s : State) (a n : Nat) : (s.bytes a n).length = n := by simp [State.bytes]

theorem allowed_ctxImage {P : State → Eff → Prop} {c : CoreId} (hb : ∀ s x v, coreBase c ≤ x → x < coreBase c + 0x8000 → P s (.byte x v))
    (p : Nat) (w : WorkItem) (st : Stage) (rcd : Nat) (input : List Byte) (s : State) : Allowed P (ctxImage c p w st rcd input s) s := by
  have hput : ∀ (k : Nat) (bs : List Byte) s, k + bs.length ≤ 0x8000 → Allowed P (putBytes (coreBase c + k) bs s) s := fun k bs s hk =>
    allowed_putBytes s _ _ fun s v x h1 h2 => hb s x v (by omega) (by omega)
  have hr := length_routeBytes (s.job p).plan s (s.job p).addr (s.job p).stages (s.job p).fams w.stage w.rep w.arr
  simp only [ctxImage, allowed_seqA_cons, allowed_seqA_nil, and_true]
  refine ⟨hput 0 _ s ?_, hput _ _ _ ?_, hput _ _ _ ?_, hput _ _ _ ?_⟩
  · rw [length_padTo]
    decide
  · simp only [List.length_append, List.length_replicate, length_bytes]
    omega
  · rw [length_bytes]
    decide
  · rw [length_padTo]
    decide

section
variable {s : State} (hc : s.canon = true)
include hc

theorem startCtx_shows (d : Fin 32) (k : Fin 16) (prio p : Nat) (w : WorkItem) (st : Stage) (rcd : Nat) (input : List Byte) (x : Option TileId) :
    let t := after (startCtx (d, k) prio p w st rcd input x) s
    t.core (.ctx d k) = { Core.zero with
      st := 1, bound := some (w.stage, w.rep, w.arr), queue := [w]
      psums := (x.elim [] fun x => (s.core (.tile x)).psums.filter fun y => y.1 == w.handle) ++ (s.core (.ctx d k)).psums } ∧
    t.tierJob d.val k.val = some ⟨prio, w.stage, w.arr, w, false, 0, 0⟩ ∧ CoresBut (.ctx d k :: x.toList.map .tile) s t ∧ DiesBut [d.val] s t ∧
    BytesBut (coreBase (.ctx d k)) 0x8000 s t ∧ t = { s with mem := t.mem, cores := t.cores, dies := t.dies } := by
  have hall : ∀ {P : State → Eff → Prop}, (∀ s x v, coreBase (.ctx d k) ≤ x → x < coreBase (.ctx d k) + 0x8000 → P s (.byte x v)) →
      (∀ s c y, c = .ctx d k ∨ (∃ t, x = some t ∧ c = .tile t) → P s (.core c y)) → (∀ s y, P s (.die d.val y)) →
      Allowed P (startCtx (d, k) prio p w st rcd input x s) s := fun hb hcore hd => by
    have hi := allowed_ctxImage hb p w st rcd input s
    simp only [ctxImage, allowed_seqA_cons, allowed_seqA_nil, and_true] at hi
    obtain ⟨h1, h2, h3, h4⟩ := hi
    simp only [startCtx, allowed_seqA_cons, allowed_modCore, allowed_modDie, allowed_seqA_nil, and_true, allowed_forOpt]
    exact ⟨h1, h2, h3, h4, hcore _ _ _ (.inl rfl), fun t ht => hcore _ _ _ (.inr ⟨t, ht, rfl⟩), hd _ _⟩
  obtain ⟨u, hu⟩ : ∃ u, u = after (ctxImage (.ctx d k) p w st rcd input) s := ⟨_, rfl⟩
  have hcu : u.canon = true := hu ▸ after_canon _ s hc
  have hfu : u = { s with mem := u.mem } := hu ▸ after_overlay [.mem] (allowed_ctxImage (by simp) p w st rcd input s)
  obtain ⟨v, hv⟩ : ∃ v, v = after (modCore (.ctx d k) fun _ => { Core.zero with
      st := 1, bound := some (w.stage, w.rep, w.arr), queue := [w]
      psums := (x.elim [] fun x => (s.core (.tile x)).psums.filter fun y => y.1 == w.handle) ++ (s.core (.ctx d k)).psums }) u := ⟨_, rfl⟩
  obtain ⟨y, hy⟩ : ∃ y, y = after (forOpt x fun t => modCore (.tile t) fun k => { k with psums := k.psums.filter fun x => x.1 != w.handle }) v := ⟨_, rfl⟩
  have hcv : v.canon = true := hv ▸ after_canon _ u hcu
  have hcy : y.canon = true := hy ▸ after_canon _ v hcv
  have hrun : after (startCtx (d, k) prio p w st rcd input x) s = after (modDie d.val fun x => { x with
      tier := SMap.set (fun _ => none) x.tier k.val (some ⟨prio, w.stage, w.arr, w, false, 0, 0⟩) }) y := by
    have hu' : u = after (seqA [_, _, _, _]) s := hu.trans (after_congr rfl)
    rw [after_congr (a := startCtx (d, k) prio p w st rcd input x) (b := seqA [_, _, _, _, _, _, _]) rfl]
    simp only [after_seqA_cons, after_seqA_end] at hu' ⊢
    rw [← hu', ← hv, ← hy]
  have hctx : y.core (.ctx d k) = v.core (.ctx d k) := by
    rw [hy]
    cases x with
    | none => rfl
    | some t =>
      rw [after_forOpt_some, core_modCore v hcv, if_neg (by simp)]
  refine ⟨?_, ?_, ?_, ?_, ?_, ?_⟩
  · rw [hrun]
    change y.core (.ctx d k) = _
    rw [hctx, hv, core_modCore u hcu, if_pos rfl]
  · rw [hrun, State.tierJob, die_modDie hcy, if_pos rfl]
    exact SMap.get_set_self ..
  · refine after_coresBut hc (hall (by simp) (fun s c y hm => .inl ?_) (by simp))
    obtain rfl | ⟨t, rfl, rfl⟩ := hm <;> simp
  · exact after_diesBut hc (hall (by simp) (by simp) fun _ _ => .inl (by simp))
  · exact after_bytesBut hc (hall (fun _ _ _ h1 h2 => .inl ⟨h1, h2⟩) (by simp) (by simp))
  · exact after_overlay [.mem, .cores, .dies] (hall (by simp) (by simp) (by simp))

end

/-! ## The datapath's columns -/

/-- What an effect of a read of an array's sound record can be. -/
def RecordRead (s : State) (e : Eff) : Prop :=
  match e with
  | .free _ => True
  | e => LineRead s e

theorem recordRead_eccRead {a n : Nat} {e : Ecc} (he : e ≠ .uncorrectable) {s : State} (hp : s.poison = []) : Allowed RecordRead (eccRead a n e s) s := by
  simp only [eccRead]
  split
  · exact .nil _
  · simp only [allowed_seqA_cons, allowed_seqA_nil, and_true]
    refine ⟨(allowed_draw s).2 trivial, ?_⟩
    have hp' : (after draw s).poison = [] := hp
    simp only [fillWord, he, hp', List.contains_nil, Bool.false_eq_true, or_self, if_false]
    split
    · exact (allowed_bump ..).2 ⟨rfl, by decide⟩
    · exact .nil _

/-- The read of an array's record, of what the stack corrects at most. -/
def recordRead (d a : Nat) (e : Ecc) : Act := seqA [engineRead d a 263232, eccRead a 0x40408 e]

theorem recordRead_recordRead (d a : Nat) {e : Ecc} (he : e ≠ .uncorrectable) {s : State} (hp : s.poison = []) :
    Allowed RecordRead (recordRead d a e s) s := by
  have hread := lineRead_engineRead d a 263232 s hp
  have hp' : (after (engineRead d a 263232) s).poison = [] := hread.inv (Inv := fun s => s.poison = []) lineRead_poison hp
  simp only [recordRead, allowed_seqA_cons, allowed_seqA_nil, and_true]
  refine ⟨hread.mono fun s e h => ?_, recordRead_eccRead he hp'⟩
  cases e with
  | free => trivial
  | _ => exact h

theorem after_recordRead {s : State} (hc : s.canon = true) (hp : s.poison = []) (d a : Nat) {e : Ecc} (he : e ≠ .uncorrectable) {t : State}
    (ht : t = after (recordRead d a e) s) : (∀ c, t.core c = s.core c) ∧ DiesButCache s t ∧
      (∀ e, t.fld F.STK_TIER_WGT_COUNT e = s.fld F.STK_TIER_WGT_COUNT e) ∧
      t = { s with regs := t.regs, dies := t.dies, free := t.free, out := t.out } := by
  have hall := recordRead_recordRead d a he hp
  have hof : Allowed (onlyFields [.regs, .dies, .free, .out]) (recordRead d a e s) s := hall.mono fun s e he => by
    cases e with
    | reg | die | out | free => simp
    | _ => exact he.elim
  subst ht
  refine ⟨core_after_of_onlyFields (by decide) hof, fun d => ?_, fun x => ?_, after_overlay _ hof⟩
  · refine after_dieRel (R := fun _ x y => y = { x with cache := y.cache }) (fun _ _ => rfl) (fun _ _ _ _ h1 h2 => by rw [h2, h1]) hc
      (hall.mono fun s e he => ?_) d
    cases e with
    | die => exact he
    | reg | out | free => trivial
    | _ => exact he.elim
  · refine fld_after_of_regIn (p := fun k => k % 65536 < 0x400) hc (hall.mono fun s e he => ?_) ?_
    · cases e with
      | reg b i o v =>
        obtain ⟨-, ho⟩ := he
        change regKey b i o % 65536 < 0x400
        simp only [regKey]
        omega
      | die | out | free => trivial
      | _ => exact he.elim
    · simp only [regKey]
      omega

section
variable {s : State} (hc : s.canon = true) (hp : s.poison = [])
include hc hp

theorem tierArrayDone_gives (d : Fin 32) (e : Ecc) (res : Option (Fin 16)) (key : Nat × Nat × Nat) (k : Fin 16) (j : TierJob) (a : Nat) (m : MvmOp)
    (he : e ≠ .uncorrectable) (hres : res ≠ some k) (htk : s.tierTaken d.val = some key)
    (hmine : ((s.waitingCtx d.val).filter fun (x : Nat × TierJob) => x.2.key == key) = [(k.val, j)])
    (hrec : s.recordOf j.item = some a) (hm : (s.core (.ctx d k)).mvm = some m) :
    ∃ t, exec (.tierArrayDone d ⟨e, res⟩) s = .next t ∧
      t.core (.ctx d k) = { (s.core (.ctx d k)).hit 1 with
        mvm := none, mvmRes := some ⟨s.exactCols a m.drives, scaleOf (s.core (.ctx d k)).work m⟩, readBuf := some m.buf } ∧
      t.tierJob d.val k.val = some { j with want := false } ∧ CoresBut [.ctx d k] s t ∧
      (∀ x, x ≠ d.val → DieSlices (s.die x) (t.die x)) ∧
      t.fld F.STK_TIER_WGT_COUNT d.val = (s.fld F.STK_TIER_WGT_COUNT d.val + 2 ^ 19) % (F.STK_TIER_WGT_COUNT.top + 1) ∧
      t = { s with regs := t.regs, cores := t.cores, dies := t.dies, free := t.free, out := t.out } := by
  obtain ⟨u, hu⟩ : ∃ u, u = after (bumpW F.STK_TIER_WGT_COUNT d.val (2 ^ 19)) s := ⟨_, rfl⟩
  obtain ⟨w, hw⟩ : ∃ w, w = after (recordRead d.val a e) u := ⟨_, rfl⟩
  obtain ⟨nx, hnx⟩ : ∃ nx, nx = (((s.waitingCtx d.val).filter fun (x : Nat × TierJob) => !([(k.val, j)] : List (Nat × TierJob)).any fun (y : Nat × TierJob) => y.1 == x.1).head?.map fun y => y.2.key) := ⟨_, rfl⟩
  obtain ⟨g, hg⟩ : ∃ g : Die → Die, g = fun y => { y with tier := SMap.set (fun _ => none) y.tier k.val (some { j with want := false }) } := ⟨_, rfl⟩
  obtain ⟨f, hf⟩ : ∃ f : Core → Core, f = fun x => { (x.hit 1) with
    mvm := none, mvmRes := some ⟨s.exactCols a m.drives, scaleOf x.work m⟩, readBuf := some m.buf } := ⟨_, rfl⟩
  obtain ⟨t, ht⟩ : ∃ t, t = after (seqA [modDie d.val g, modCore (.ctx d k) f, modDie d.val fun x => { x with tierNow := nx }]) w := ⟨_, rfl⟩
  have hcu : u.canon = true := hu ▸ after_canon _ s hc
  have hcw : w.canon = true := hw ▸ after_canon _ u hcu
  have hfu : u = { s with regs := u.regs } := hu ▸ after_overlay [.regs] (a := bumpW F.STK_TIER_WGT_COUNT d.val (2 ^ 19)) (by simp)
  have hpu : u.poison = [] := by rw [hfu]; exact hp
  obtain ⟨hcore, hdie, hwgt, hfw⟩ := after_recordRead hcu hpu d.val a he hw
  have hfw' : w = { s with regs := w.regs, dies := w.dies, free := w.free, out := w.out } := hfw.trans (by rw [hfu])
  have hcorew : ∀ c, w.core c = s.core c := fun c => (hcore c).trans (by rw [hfu]; rfl)
  have hdiew : ∀ x, w.die x = { s.die x with cache := (w.die x).cache } := fun x => (hdie x).trans (by rw [hfu]; rfl)
  have hctx : after (ctxDone d false false (k.val, j)) w = after (seqA [modDie d.val g, modCore (.ctx d k) f]) w := by
    have hk : (⟨k.val % 16, Nat.mod_lt _ (by decide)⟩ : Fin 16) = k := Fin.ext (Nat.mod_eq_of_lt k.isLt)
    have hrw : w.recordOf j.item = some a := (by rw [hfw']; rfl : w.recordOf j.item = s.recordOf j.item).trans hrec
    have hpw : w.poisoned a 263232 = false := by
      rw [hfw']
      simp only [State.poisoned, hp, List.any_nil]
    have hex : ∀ dr, w.exactCols a dr = s.exactCols a dr := fun dr => by rw [hfw']; rfl
    refine after_congr ?_
    simp only [ctxDone, hk, hrw, hcorew, hm, hpw, Bool.or_self, Bool.false_eq_true, if_false, hex, hg, hf]
  have hnear : TierJob.near j j = true := by simp [TierJob.near]
  have hany : res.any (fun y => y.val == k.val) = false := by
    cases res with
    | none => rfl
    | some y =>
      have hy : y ≠ k := fun h => hres (congrArg some h)
      simpa [Fin.ext_iff] using hy
  have hrun : exec (.tierArrayDone d ⟨e, res⟩) s = .next t := by
    refine congrArg Host.Outcome.next ((after_congr (b := seqA [bumpW F.STK_TIER_WGT_COUNT d.val (2 ^ 19), recordRead d.val a e,
      forA [(k.val, j)] fun x => ctxDone d false (res.any fun y => y.val == x.1) x, modDie d.val fun x => { x with tierNow := nx }]) ?_).trans ?_)
    · simp only [htk, hmine, List.filter_cons, List.filter_nil, List.head?_cons, Option.any_some, hnear, if_true, List.findSome?_cons, hrec, forOpt,
        decide_eq_false he, hnx]
      rfl
    · simp only [after_seqA_cons, after_seqA_end, after_forA_cons, after_forA_nil, hany]
      rw [← hu, ← hw, hctx, ht]
      simp only [after_seqA_cons, after_seqA_end]
  obtain ⟨v, hv⟩ : ∃ v, v = after (modDie d.val g) w := ⟨_, rfl⟩
  obtain ⟨z, hz⟩ : ∃ z, z = after (modCore (.ctx d k) f) v := ⟨_, rfl⟩
  have hcv : v.canon = true := hv ▸ after_canon _ w hcw
  have hcz : z.canon = true := hz ▸ after_canon _ v hcv
  have htz : t = after (modDie d.val fun x => { x with tierNow := nx }) z := by
    rw [ht]
    simp only [after_seqA_cons, after_seqA_end]
    rw [← hv, ← hz]
  have hct : ∀ c, t.core c = if c = .ctx d k then f (s.core (.ctx d k)) else s.core c := fun c => by
    rw [htz]
    change z.core c = _
    rw [hz, core_modCore v hcv, hv]
    change (if c = .ctx d k then f (w.core _) else w.core c) = _
    rw [hcorew, hcorew]
  have hdt : ∀ x, t.die x = if x = d.val then { g (w.die d.val) with tierNow := nx } else w.die x := fun x => by
    rw [htz, die_modDie hcz, hz]
    change (if x = d.val then { v.die d.val with tierNow := nx } else v.die x) = _
    rw [hv, die_modDie hcw, die_modDie hcw, if_pos rfl]
    split
    · rfl
    · rfl
  refine ⟨t, hrun, ?_, ?_, fun c hm => ?_, fun x hx => ?_, ?_, ?_⟩
  · rw [hct, if_pos rfl, hf]
  · rw [State.tierJob, hdt, if_pos rfl, hg]
    exact SMap.get_set_self ..
  · rw [hct, if_neg (by simpa using hm)]
  · rw [hdt, if_neg hx, hdiew x]
    rfl
  · have h1 : t.fld F.STK_TIER_WGT_COUNT d.val = w.fld F.STK_TIER_WGT_COUNT d.val := by rw [ht]; rfl
    rw [h1, hwgt, hu, bumpW, after_withA, fld_set_same hc _ _ _ (by decide)]
    rfl
  · rw [htz, hz, hv, modDie, modCore, modDie]
    conv_rhs => rw [hfw']
    conv_lhs => rw [hfw']
    rfl

end

end Sys2Proof.Machine
end

open Sys2Proof Sys2Proof.Machine

/-- Settles O32, over what a context's start writes and what a read of a sound record leaves. -/
theorem tierEngine : Obligations.TierEngine := by
  unfold Obligations.TierEngine
  intro s d hc
  refine ⟨fun k prio stage arr i segs st => ?_, fun e res key k j a m he hres hp htk hmine hrec hm =>
    tierArrayDone_gives hc hp d e res key k j a m he hres htk hmine hrec hm⟩
  intro p hst hg hfree hfaulty ho harr starts
  have hopen : ¬ (s.power.gated = true ∨ (s.tierJob d.val k.val).isSome = true ∨ (s.die d.val).tierFaulty = true ∨
      (s.passage i.val).open_ = false ∨ st.nArr ≤ arr.toNat) := by
    simp only [hg, hfree, hfaulty, ho, Option.isSome_none, Bool.false_eq_true, Bool.true_eq_false, false_or]
    omega
  refine ⟨fun x sh hprio hx hsh => ?_, fun x h rcd hprio hop hrec => ?_⟩
  · have h2 : ¬ prio.val = 2 := by omega
    refine ⟨_, congrArg Host.Outcome.next (after_congr (b := startCtx (d, k) prio.val p (s.tierItem d.val p i.val stage.toNat x.rep arr.toNat st x
      (sh.base + arr.toNat * 263232)) st (sh.base + arr.toNat * 263232)
      (driveImage (s.tierItem d.val p i.val stage.toNat x.rep arr.toNat st x (sh.base + arr.toNat * 263232)).rcp.inFmt segs)
      (if prio.val = 3 then (s.repOf p stage.toNat x.rep).bind fun r => r.tiles[arr.toNat]? else none)) ?_), startCtx_shows hc ..⟩
    simp only [p] at hst hx hsh ⊢
    simp only [hst, hopen, h2, hprio, hx, hsh, if_false, if_true]
  · refine ⟨_, congrArg Host.Outcome.next (after_congr (b := startCtx (d, k) 2 p { h.item with mile := s.mile, retry := false, buf := 0 } st rcd h.input
      (some x)) ?_), ?_⟩
    · simp only [p] at hst hop ⊢
      simp only [hst, hopen, hprio, hop, hrec, if_false, if_true]
    · rw [hprio]
      exact startCtx_shows hc ..

section
/-!
SUPPORT. What the host asks of a port (R418–R424): a request with nothing in its way is served at once, one that needs snoops waits.
-/
namespace Sys2Proof.Machine

/-! ## Maps with equal contents -/

section
variable {β : Type} [DecidableEq β] (d : Nat → β)

/-- Canonical maps that read alike are equal. -/
theorem SMap.eq_of_get : ∀ (m n : SMap β) (lo : Nat), SMap.wfFrom d lo m = true → SMap.wfFrom d lo n = true →
    (∀ k, SMap.get d m k = SMap.get d n k) → m = n
  | [], [], _, _, _, _ => rfl
  | [], (k, v) :: r, _, _, hn, h => by
    simp only [SMap.wfFrom, Bool.and_eq_true, decide_eq_true_eq] at hn
    have hk := h k
    rw [SMap.get, SMap.get, if_pos rfl] at hk
    exact absurd hk.symm hn.1.2
  | (k, v) :: r, [], _, hm, _, h => by
    simp only [SMap.wfFrom, Bool.and_eq_true, decide_eq_true_eq] at hm
    have hk := h k
    rw [SMap.get, SMap.get, if_pos rfl] at hk
    exact absurd hk hm.1.2
  | (k, v) :: r, (j, w) :: q, _, hm, hn, h => by
    simp only [SMap.wfFrom, Bool.and_eq_true, decide_eq_true_eq] at hm hn
    obtain ⟨⟨-, hv⟩, hr⟩ := hm
    obtain ⟨⟨-, hw⟩, hq⟩ := hn
    have hkj : k = j := by
      obtain hlt | rfl | hlt := Nat.lt_trichotomy k j
      · have hk := h k
        rw [SMap.get, SMap.get, if_pos rfl, if_neg hlt.ne, if_pos hlt] at hk
        exact absurd hk hv
      · rfl
      · have hj := h j
        rw [SMap.get, SMap.get, if_pos rfl, if_neg hlt.ne, if_pos hlt] at hj
        exact absurd hj.symm hw
    subst hkj
    have hk := h k
    rw [SMap.get, SMap.get, if_pos rfl, if_pos rfl] at hk
    subst hk
    refine congrArg _ (SMap.eq_of_get r q (k + 1) hr hq fun x => ?_)
    by_cases hx : x < k + 1
    · rw [SMap.get_below d r (k + 1) x hr hx, SMap.get_below d q (k + 1) x hq hx]
    · have hx' := h x
      rw [SMap.get, SMap.get, if_neg (by omega), if_neg (by omega), if_neg (by omega), if_neg (by omega)] at hx'
      exact hx'

end

/-! ## Requests at a port -/

section
variable {s : State} (hc : s.canon = true)
include hc

/-- A change of a port that is taken back leaves the state as it was. -/
theorem after_modPort_back (n : Nat) (f g : TPort → TPort) (h : g (f (s.port n)) = s.port n) : after (modPort n g) (after (modPort n f) s) = s := by
  have hcu := after_canon (modPort n f) s hc
  have hcv := after_canon (modPort n g) _ hcu
  have hports : (after (modPort n g) (after (modPort n f) s)).ports = s.ports := by
    refine SMap.eq_of_get (fun _ => TPort.zero) _ _ 0 (canon_ports _ hcv) (canon_ports s hc) fun k => ?_
    have hk := port_modPort hcu n g k
    rw [port_modPort hc, port_modPort hc, if_pos rfl, h] at hk
    change (after (modPort n g) (after (modPort n f) s)).port k = s.port k
    rw [hk]
    split
    · next hkn => rw [hkn]
    · rfl
  have hf : after (modPort n g) (after (modPort n f) s) = { s with ports := (after (modPort n g) (after (modPort n f) s)).ports } := rfl
  rw [hf, hports]

end

/-- A request joins those that wait at its port, and what waits is tried. -/
def queueReq (n : Fin 4) (r : HostReq) : Act := seqA [modPort n.val fun p => { p with held := p.held ++ [r] }, pumpAll]

/-- What a request waits for is asked of the host. -/
def askSnoops (l : List (Nat × Nat × Bool)) : Act := forA l fun x => whenA (fun s => !s.snooping x.1 x.2.1) (sendSnoop x.1 x.2.1 x.2.2)

/-- The requests at one port are tried. -/
def pumpOne (n : Fin 4) : Act := fun s => pumpHeld n (2 * (s.port n.val).held.length + 1) s

theorem State.quiet_iff {s : State} : s.quiet = true ↔ (∀ n < 4, (s.port n).held = []) ∧ ∀ d < 32, (s.dma d 0).ending = none ∧ (s.dma d 1).ending = none := by
  simp [State.quiet, allPorts, allDies]

/-- Only port n is pumped where no other holds a request, before or after. -/
theorem after_pumpOnes {s t : State} (n : Fin 4) (hs : ∀ m : Fin 4, m ≠ n → (s.port m.val).held = []) (hn : after (pumpOne n) s = t)
    (ht : ∀ m : Fin 4, m ≠ n → (t.port m.val).held = []) : after (forA (List.finRange 4) pumpOne) s = t := by
  obtain ⟨l, r, hl⟩ := List.append_of_mem (List.mem_finRange n)
  have hnd : (l ++ n :: r).Nodup := hl ▸ List.nodup_finRange 4
  have hnl : n ∉ l := fun h => (List.nodup_append.1 hnd).2.2 n h n (List.mem_cons_self ..) rfl
  have hnr : n ∉ r := (List.nodup_cons.1 (List.nodup_append.1 hnd).2.1).1
  have hfirst : after (forA l pumpOne) s = s :=
    after_forA_of_forall_eq s pumpOne l fun m hm => after_pumpHeld_of_held_eq_nil s m _ (hs m fun h => hnl (h ▸ hm))
  rw [hl, after_forA_append, hfirst, after_forA_cons, hn]
  exact after_forA_of_forall_eq t _ r fun m hm => after_pumpHeld_of_held_eq_nil t m _ (ht m fun h => hnr (h ▸ hm))

theorem after_dmaRetry_of_quiet {s : State} (h : ∀ d < 32, (s.dma d 0).ending = none ∧ (s.dma d 1).ending = none) : after dmaRetry s = s :=
  after_forA_of_forall_eq s _ _ fun d hd => by
    obtain ⟨h0, h1⟩ := h d (by simpa [allDies] using hd)
    rw [after_seqA_cons, after_dmaTry_of_ending_eq_none s d 0 h0, after_seqA_cons, after_dmaTry_of_ending_eq_none s d 1 h1, after_seqA_nil]

theorem allowed_askSnoops {P : State → Eff → Prop} (hP : AllowsSnoops P) (l : List (Nat × Nat × Bool)) (s : State) : Allowed P (askSnoops l s) s :=
  allowed_forA _ _ s fun _ _ s => (allowed_whenA _ _ s).2 fun _ => allowed_sendSnoop hP _ _ _ s

/-- What snoops leave of a port. -/
theorem portSnoop_after {a : Act} {s : State} (hc : s.canon = true) (h : ∀ {P : State → Eff → Prop}, AllowsSnoops P → Allowed P (a s) s) (n : Nat) :
    PortSnoop (s.port n) ((after a s).port n) := by
  refine after_portRel (R := fun _ => PortSnoop) (fun _ _ => rfl) (fun _ x y z h1 h2 => ?_) hc (h fun s e he => ?_) n
  · change z = _
    rw [PortSnoop] at h1 h2
    rw [h2, h1]
  · cases e with
    | port => exact he
    | reg | filter | out => trivial
    | _ => exact he.elim

/-- What a request needs of the host does not depend on what waits at its port. -/
theorem reqSnoops_queued (s : State) (n : Fin 4) (r : HostReq) : (after (modPort n.val fun p => { p with held := p.held ++ [r] }) s).reqSnoops n.val r = s.reqSnoops n.val r := by
  cases r <;> rfl

section
variable {s : State} (hc : s.canon = true) (hq : s.quiet = true) (n : Fin 4) (r : HostReq)
include hc hq

theorem queueReq_serves (hl : s.reqSnoops n.val r = []) {t : State} (ht : t = after (serveReq n r) s) (hqt : t.quiet = true) :
    after (queueReq n r) s = t := by
  obtain ⟨u, hu⟩ : ∃ u, u = after (modPort n.val fun p => { p with held := p.held ++ [r] }) s := ⟨_, rfl⟩
  obtain ⟨hheld, hend⟩ := State.quiet_iff.1 hq
  obtain ⟨hheldt, hendt⟩ := State.quiet_iff.1 hqt
  have hport : ∀ m, u.port m = if m = n.val then { s.port n.val with held := [r] } else s.port m := fun m => by
    rw [hu, port_modPort hc, hheld n.val n.isLt]
    rfl
  have hback : after (modPort n.val fun p => { p with held := p.held.tail }) u = s := by
    rw [hu]
    refine after_modPort_back hc n.val _ _ ?_
    simp only [hheld n.val n.isLt, List.nil_append, List.tail_cons]
    rw [← hheld n.val n.isLt]
  have hlu : u.reqSnoops n.val r = [] := hu ▸ (reqSnoops_queued s n r).trans hl
  have hone : after (pumpOne n) u = t := by
    have hp := hport n.val
    rw [if_pos rfl] at hp
    rw [after_congr (a := pumpOne n) (b := seqA [modPort n.val fun p => { p with held := p.held.tail }, serveReq n r, pumpHeld n 2]) (by
      simp only [pumpOne, pumpHeld, hp, List.length_cons, List.length_nil, hlu, List.isEmpty_nil, if_true])]
    rw [after_seqA_cons, after_seqA_cons, after_seqA_cons, after_seqA_end, hback, ← ht]
    exact after_pumpHeld_of_held_eq_nil t n _ (hheldt n.val n.isLt)
  have hpump : after pumpAll u = t := by
    rw [pumpAll, after_seqA_cons, after_seqA_cons, after_seqA_end]
    have hall := after_pumpOnes n (s := u) (fun m hm => by rw [hport, if_neg fun h => hm (Fin.ext h)]; exact hheld m.val m.isLt) hone
      fun m _ => hheldt m.val m.isLt
    exact (congrArg (after dmaRetry) hall).trans (after_dmaRetry_of_quiet hendt)
  rw [queueReq, after_seqA_cons, after_seqA_cons, after_seqA_end, ← hu, hpump]

theorem queueReq_waits (hl : s.reqSnoops n.val r ≠ []) : after (queueReq n r) s =
    after (askSnoops (s.reqSnoops n.val r)) (after (modPort n.val fun p => { p with held := p.held ++ [r] }) s) := by
  obtain ⟨u, hu⟩ : ∃ u, u = after (modPort n.val fun p => { p with held := p.held ++ [r] }) s := ⟨_, rfl⟩
  obtain ⟨t, ht⟩ : ∃ t, t = after (askSnoops (s.reqSnoops n.val r)) u := ⟨_, rfl⟩
  have hcu : u.canon = true := hu ▸ after_canon _ s hc
  obtain ⟨hheld, hend⟩ := State.quiet_iff.1 hq
  have hport : ∀ m, u.port m = if m = n.val then { s.port n.val with held := [r] } else s.port m := fun m => by
    rw [hu, port_modPort hc, hheld n.val n.isLt]
    rfl
  have hone : after (pumpOne n) u = t := by
    have hp := hport n.val
    rw [if_pos rfl] at hp
    have hlu : u.reqSnoops n.val r = s.reqSnoops n.val r := hu ▸ reqSnoops_queued s n r
    have hne : (s.reqSnoops n.val r).isEmpty = false := by simpa using hl
    rw [ht]
    refine after_congr ?_
    simp only [pumpOne, pumpHeld, hp, hlu, hne, Bool.false_eq_true, if_false]
    rfl
  have hpt : ∀ m, (t.port m).held = (u.port m).held := fun m => by
    have h := portSnoop_after hcu (fun hP => allowed_askSnoops hP (s.reqSnoops n.val r) u) m
    rw [PortSnoop, ← ht] at h
    rw [h]
  have hft : t = { u with regs := t.regs, ports := t.ports, snoopF := t.snoopF, out := t.out } :=
    ht ▸ after_overlay [.regs, .ports, .snoopF, .out] (allowed_askSnoops (allowsSnoops_onlyFields (by simp)) _ u)
  have hother : ∀ m : Fin 4, m ≠ n → (u.port m.val).held = [] := fun m hm => by
    rw [hport, if_neg fun h => hm (Fin.ext h)]
    exact hheld m.val m.isLt
  have hall := after_pumpOnes n hother hone fun m hm => (hpt m.val).trans (hother m hm)
  have hpump : after pumpAll u = t := by
    rw [pumpAll, after_seqA_cons, after_seqA_cons, after_seqA_end]
    refine (congrArg (after dmaRetry) hall).trans (after_dmaRetry_of_quiet fun d hd => ?_)
    have hd' : t.dma d 0 = s.dma d 0 ∧ t.dma d 1 = s.dma d 1 := by
      rw [hft, hu]
      exact ⟨rfl, rfl⟩
    rw [hd'.1, hd'.2]
    exact hend d hd
  rw [queueReq, after_seqA_cons, after_seqA_cons, after_seqA_end, ← hu, hpump, ht]

end

end Sys2Proof.Machine
end

section
/-!
SUPPORT. Reads, lines and writes of the host that are served at once (R418–R424).
-/
namespace Sys2Proof.Machine

/-! ## Answers -/

section
variable {s : State} (hc : s.canon = true)
include hc

/-- An answer to the host goes out at once where nothing waits before it; it takes no credit. -/
theorem answer_sends {n : Nat} {tag st : Nat} {bs : List Byte} (hup : s.fld F.TRL_LNK_STS_STATE n = 2) (hq : (s.port n).txq = []) {t : State}
    (ht : t = after (traisSend n (.cpl tag st bs)) s) :
    t.out = s.out ++ [.traisFlits n [traisData (s.port n).txSeq (s.port n).rxSeq (.cpl tag st bs)]] ∧ PortsBut [n] s t ∧
      (∀ m, (t.port m).held = (s.port m).held) ∧ t = { s with ports := t.ports, out := t.out } := by
  obtain ⟨hp, ho⟩ := traisSend_sends hc hup hq (.inl rfl) ht
  have hb : PortsBut [n] s t := ht ▸ after_portsBut hc (allowed_traisSend_to sendTo_portsBut _ s)
  refine ⟨ho, hb, fun m => ?_, ht ▸ sendsOn_frame fun hP s => allowed_traisSend_to hP _ s⟩
  by_cases hm : m = n
  · rw [hm, hp]
    rfl
  · rw [hb m (by simpa using hm)]

omit hc in
theorem quiet_of_same {t : State} (hq : s.quiet = true) (hh : ∀ m, (t.port m).held = (s.port m).held) (hd : ∀ d c, t.dma d c = s.dma d c) :
    t.quiet = true := by
  rw [State.quiet_iff] at hq ⊢
  obtain ⟨h1, h2⟩ := hq
  refine ⟨fun n hn => (hh n).trans (h1 n hn), fun d hd' => ?_⟩
  rw [hd, hd]
  exact h2 d hd'

end

theorem dma_of_lines {s t : State} (h : ∀ d, DieLines (s.die d) (t.die d)) (d c : Nat) : t.dma d c = s.dma d c := by
  obtain ⟨h0, h1⟩ := (h d).dma
  simp only [State.dma, h0, h1]

section
variable {s : State} (hc : s.canon = true) (hp : s.poison = [])
include hc hp

theorem sound_read (a n : Nat) : LinesOnly s (after (sliceReads true a n) s) ∧
    ∀ m, (after (sliceReads true a n) s).fld F.TRL_LNK_STS_STATE m = s.fld F.TRL_LNK_STS_STATE m :=
  ⟨linesOnly_sliceReads hc hp true a n, fun m => fld_sliceReads hc true a n F.TRL_LNK_STS_STATE m (by decide)⟩

omit hc in
/-- The answer with a sound range's bytes, after what goes before it. -/
theorem after_cplMem (n tag a len : Nat) (k : Act) : after (cplMem n tag a len k) s =
    after (traisSend n (.cpl tag 0 (s.bytes a len))) (after k (after (sliceReads true a len) s)) := by
  have hpo : s.poisoned a len = false := by simp only [State.poisoned, hp, List.any_nil]
  rw [after_congr (a := cplMem n tag a len k) (b := seqA [sliceReads true a len, seqA [k, traisSend n (.cpl tag 0 (s.bytes a len))]])
    (by simp only [cplMem, hpo, Bool.false_eq_true, if_false])]
  simp only [after_seqA_cons, after_seqA_end]

end

section
variable {s : State} (hc : s.canon = true) (hq : s.quiet = true) (n : Fin 4) (hup : s.fld F.TRL_LNK_STS_STATE n.val = 2)
include hc hq hup

omit hc hq in
theorem after_takeReq (r : HostReq) : after (takeReq n r) s = after (queueReq n r) s := by
  rw [takeReq, after_whenA, if_pos (by simpa using hup)]
  rfl

theorem traisRd_answers (sp : Space) (off : Word) (len : Nat) (tag : BitVec 16) (a : Nat) (ha : s.reqAddr n.val sp off.toNat len = some a)
    (htx : (s.port n.val).txq = []) (hheld : s.heldE a len = []) (hp : s.poison = []) : ∃ t, exec (.traisRd n sp off len tag) s = .next t ∧
      t.out = s.out ++ [.traisFlits n.val [traisData (s.port n.val).txSeq (s.port n.val).rxSeq (.cpl tag.toNat 0 (s.bytes a len))]] ∧
      PortsBut [n.val] s t ∧ ButSlices [] s t := by
  obtain ⟨v, hv⟩ : ∃ v, v = after (sliceReads true a len) s := ⟨_, rfl⟩
  obtain ⟨t, ht⟩ : ∃ t, t = after (traisSend n.val (.cpl tag.toNat 0 (s.bytes a len))) v := ⟨_, rfl⟩
  have hcv : v.canon = true := hv ▸ after_canon _ s hc
  obtain ⟨hlines, hfld⟩ := sound_read hc hp a len
  rw [← hv] at hlines hfld
  have hpv : ∀ m, v.port m = s.port m := fun m => by rw [hlines.1]; rfl
  obtain ⟨hout, hb, hh, hf⟩ := answer_sends hcv ((hfld _).trans hup) (by rw [hpv, htx]) ht
  have hserve : t = after (serveReq n (.rd sp off.toNat len tag.toNat)) s := by
    have hcpl : after (serveReq n (.rd sp off.toNat len tag.toNat)) s = after (cplMem n.val tag.toNat a len skip) s := by
      refine after_congr ?_
      cases sp with
      | reg | tile | host => simp [State.reqAddr] at ha
      | ring | stack => simp only [serveReq, ha]
    rw [hcpl, after_cplMem hp, ht, hv]
    rfl
  have hdt : ∀ d, t.die d = v.die d := fun d => by rw [hf]; rfl
  have hqt : t.quiet = true := quiet_of_same hq (fun m => by rw [hh, hpv]) fun d c => by
    rw [← dma_of_lines hlines.2.1]
    simp only [State.dma, hdt]
  have hsn : s.reqSnoops n.val (.rd sp off.toNat len tag.toNat) = [] := by simp only [State.reqSnoops, ha, Option.elim_some, hheld, List.flatMap_nil]
  have hov : v.out = s.out := by rw [hlines.1]
  refine ⟨t, congrArg Host.Outcome.next ((after_takeReq n hup _).trans (queueReq_serves hc hq n _ hsn hserve hqt)), ?_, fun m hm => (hb m hm).trans (hpv m), ?_⟩
  · rw [hout, hov, hpv]
  · refine (composes_slices []).trans _ _ _ hlines.butSlices ⟨?_, fun w => ?_, ?_, ?_, fun d => ?_, fun k _ _ _ => ?_⟩
    · rw [hf]
    · rw [hf]
    · rw [hf]
    · rw [hf]
    · rw [hdt]
      exact DieSlices.refl _
    · rw [hf]

omit hq hup in
/-- A copy is granted: the filter's entry of the line is this one. -/
theorem grant_shows (line : Nat) (excl : Bool) {t : State} (ht : t = after (grant n.val line excl) s) :
    (∃ e, t.sfEntry line = some (s.owner (line * 64), e) ∧ n.val ∈ e.ports ∧ e.excl = excl ∧ (excl = true → e.ports = [n.val])) ∧
    t.port n.val = { s.port n.val with dropWb := (s.port n.val).dropWb.filter fun l => l != line } ∧ PortsBut [n.val] s t ∧
    t = { s with snoopF := t.snoopF, ports := t.ports } := by
  obtain ⟨ps, hps⟩ : ∃ ps, ps = (if excl then [n.val] else if (((s.sfEntry line).map fun x => x.2.ports).getD []).contains n.val then
      ((s.sfEntry line).map fun x => x.2.ports).getD [] else ((s.sfEntry line).map fun x => x.2.ports).getD [] ++ [n.val]) := ⟨_, rfl⟩
  obtain ⟨u, hu⟩ : ∃ u, u = after (modFilter (s.owner (line * 64)) fun f => f.filter (fun e => e.line != line) ++ [⟨line, excl, ps⟩]) s := ⟨_, rfl⟩
  have hcu : u.canon = true := hu ▸ after_canon _ s hc
  have htu : t = after (modPort n.val fun p => { p with dropWb := p.dropWb.filter fun l => l != line }) u := by
    rw [ht, after_congr (a := grant n.val line excl) (b := seqA [_, _]) rfl, after_seqA_cons, after_seqA_cons, after_seqA_end, hu, hps]
  have hpu : ∀ m, u.port m = s.port m := fun m => by rw [hu]; rfl
  have hfilter : t.filter (s.owner (line * 64)) = (s.filter (s.owner (line * 64))).filter (fun e => e.line != line) ++ [⟨line, excl, ps⟩] := by
    have h : t.filter (s.owner (line * 64)) = u.filter (s.owner (line * 64)) := by rw [htu]; rfl
    rw [h, hu]
    exact SMap.get_set_self ..
  have hwin : t.wins = s.wins := by rw [htu, hu]; rfl
  refine ⟨⟨⟨line, excl, ps⟩, ?_, ?_, rfl, fun h => ?_⟩, ?_, fun m hm => ?_, ?_⟩
  · have hnone : ((s.filter (s.owner (line * 64))).filter fun e => e.line != line).find? (fun e => e.line == line) = none := by
      refine List.find?_eq_none.2 fun e he => ?_
      simpa using (List.mem_filter.1 he).2
    simp only [State.sfEntry, owner_congr hwin, hfilter, List.find?_append, hnone, Option.none_or, List.find?_cons, beq_self_eq_true, Option.map_some]
  · rw [hps]
    split
    · simp
    · split
      · next h => simpa using h
      · simp
  · rw [hps, if_pos h]
  · rw [htu, port_modPort hcu, if_pos rfl, hpu]
  · rw [htu, port_modPort hcu, if_neg (by simpa using hm), hpu]
  · rw [htu, hu]
    rfl

/-- The request for a line's copy. -/
def lineReq (excl : Bool) (off : Word) (tag : BitVec 16) : HostReq := if excl then .rdE off.toNat tag.toNat else .rdS off.toNat tag.toNat

omit hc hq in
theorem exec_lineReq (off : Word) (tag : BitVec 16) (excl : Bool) :
    exec (if excl then Instr.traisRdE n off tag else Instr.traisRdS n off tag) s = .next (after (queueReq n (lineReq excl off tag)) s) := by
  cases excl with
  | true => exact congrArg Host.Outcome.next (after_takeReq n hup _)
  | false => exact congrArg Host.Outcome.next (after_takeReq n hup _)

omit hc hq hup in
theorem reqSnoops_lineReq {off : Word} {a : Nat} (ha : s.reqAddr n.val .ring off.toNat 64 = some a) (tag : BitVec 16) (excl : Bool) :
    s.reqSnoops n.val (lineReq excl off tag) = s.lineSnoops n.val (a / 64) excl := by
  cases excl <;> simp only [lineReq, State.reqSnoops, ha, Option.elim_some, Bool.false_eq_true, if_true, if_false]

omit hc hq hup in
theorem serveReq_lineReq {off : Word} {a : Nat} (ha : s.reqAddr n.val .ring off.toNat 64 = some a) (tag : BitVec 16) (excl : Bool) :
    serveReq n (lineReq excl off tag) s = cplMem n.val tag.toNat (a / 64 * 64) 64 (grant n.val (a / 64) excl) s := by
  cases excl <;> simp only [lineReq, serveReq, ha, Bool.false_eq_true, if_true, if_false]

theorem line_granted (off : Word) (tag : BitVec 16) (excl : Bool) (a : Nat) (ha : s.reqAddr n.val .ring off.toNat 64 = some a)
    (hl : s.lineSnoops n.val (a / 64) excl = []) (htx : (s.port n.val).txq = []) (hp : s.poison = []) :
    ∃ t, exec (if excl then Instr.traisRdE n off tag else Instr.traisRdS n off tag) s = .next t ∧
      t.out = s.out ++ [.traisFlits n.val [traisData (s.port n.val).txSeq (s.port n.val).rxSeq (.cpl tag.toNat 0 (s.bytes (a / 64 * 64) 64))]] ∧
      (∃ e, t.sfEntry (a / 64) = some (s.owner (a / 64 * 64), e) ∧ n.val ∈ e.ports ∧ e.excl = excl ∧ (excl = true → e.ports = [n.val])) ∧
      PortsBut [n.val] s t ∧ ButSlices [] { s with snoopF := t.snoopF } t := by
  obtain ⟨v, hv⟩ : ∃ v, v = after (sliceReads true (a / 64 * 64) 64) s := ⟨_, rfl⟩
  obtain ⟨w, hw⟩ : ∃ w, w = after (grant n.val (a / 64) excl) v := ⟨_, rfl⟩
  obtain ⟨t, ht⟩ : ∃ t, t = after (traisSend n.val (.cpl tag.toNat 0 (s.bytes (a / 64 * 64) 64))) w := ⟨_, rfl⟩
  have hcv : v.canon = true := hv ▸ after_canon _ s hc
  have hcw : w.canon = true := hw ▸ after_canon _ v hcv
  obtain ⟨hlines, hfld⟩ := sound_read hc hp (a / 64 * 64) 64
  rw [← hv] at hlines hfld
  have hpv : ∀ m, v.port m = s.port m := fun m => by rw [hlines.1]; rfl
  obtain ⟨⟨e, he, hmem, hex, hone⟩, hpw, hbw, hfw⟩ := grant_shows hcv n (a / 64) excl hw
  have hupw : w.fld F.TRL_LNK_STS_STATE n.val = 2 := by
    rw [hfw]
    exact (hfld _).trans hup
  obtain ⟨hout, hb, hh, hf⟩ := answer_sends hcw hupw (by rw [hpw, hpv, htx]) ht
  have hheld : ∀ m, (w.port m).held = (v.port m).held := fun m => by
    by_cases hm : m = n.val
    · rw [hm, hpw]
    · rw [hbw m (by simpa using hm)]
  have hdt : ∀ d, t.die d = v.die d := fun d => by rw [hf, hfw]; rfl
  have hqt : t.quiet = true := quiet_of_same hq (fun m => by rw [hh, hheld, hpv]) fun d c => by
    rw [← dma_of_lines hlines.2.1]
    simp only [State.dma, hdt]
  have hserve : t = after (serveReq n (lineReq excl off tag)) s := by
    rw [after_congr (serveReq_lineReq n ha tag excl), after_cplMem hp, ← hv, ← hw, ht]
  have hout' : w.out = s.out := by rw [hfw, hlines.1]
  have hseq : (w.port n.val).txSeq = (s.port n.val).txSeq ∧ (w.port n.val).rxSeq = (s.port n.val).rxSeq := by
    rw [hpw, hpv]
    exact ⟨rfl, rfl⟩
  have hsf : t.sfEntry (a / 64) = w.sfEntry (a / 64) := sfEntry_congr (by rw [hf]) (by rw [hf]) _
  have hown : v.owner (a / 64 * 64) = s.owner (a / 64 * 64) := owner_congr (by rw [hlines.1]) _
  refine ⟨t, (exec_lineReq n hup off tag excl).trans (congrArg _ (queueReq_serves hc hq n _ ((reqSnoops_lineReq n ha tag excl).trans hl) hserve hqt)), ?_,
    ⟨e, ?_, hmem, hex, hone⟩, fun m hm => ?_, ?_⟩
  · rw [hout, hout', hseq.1, hseq.2]
  · rw [hsf, he, hown]
  · rw [hb m hm, hbw m hm, hpv]
  · obtain ⟨h1, h2, h3, h4, h5, h6⟩ := hlines.butSlices
    refine ⟨?_, fun x => ?_, ?_, ?_, fun d => ?_, fun k hk1 hk2 hk3 => ?_⟩
    · rw [hf, hfw, h1]
    · rw [hf, hfw]
      exact h2 x
    · rw [hf, hfw]
      exact h3
    · rw [hf, hfw]
      exact h4
    · rw [hdt]
      exact h5 d
    · rw [hf, hfw]
      exact h6 k hk1 hk2 hk3

end

end Sys2Proof.Machine
end

section
/-!
SUPPORT. Requests that wait for snoops, and what the host writes (R419, R423, R424).
-/
namespace Sys2Proof.Machine

/-! ## Snoops -/

/-- A snoop on one port is counted there, and is a message on it. -/
theorem allowed_sendSnoop_to {P : State → Eff → Prop} {n : Nat} (hreg : ∀ s v, P s (.reg .trl n F.TRL_SNP_SENT.off v))
    (hport : ∀ s x, PortSnoop (s.port n) x → P s (.port n x)) (hout : ∀ s x, P s (.out x)) (line : Nat) (inv : Bool) (s : State) :
    Allowed P (sendSnoop n line inv s) s := by
  simp only [sendSnoop, allowed_seqA_cons, allowed_modPort, allowed_bump, allowed_seqA_nil, and_true]
  refine ⟨hport _ _ (by exact rfl), hreg .., allowed_traisSend_to (fun s e he => ?_) _ _⟩
  cases e with
  | port k x =>
    obtain ⟨rfl, hx⟩ := he
    refine hport _ _ ?_
    rw [PortReport] at hx
    rw [PortSnoop]
    rw [hx]
  | out => exact hout _ _
  | _ => exact he.elim

section
variable {s : State} (hc : s.canon = true)
include hc

theorem snooping_sendSnoop (n line : Nat) (inv : Bool) {m k : Nat} (h : m = n ∧ k = line ∨ s.snooping m k = true) :
    (after (sendSnoop n line inv) s).snooping m k = true := by
  obtain ⟨u, hu⟩ : ∃ u, u = after (modPort n fun p => { p with snoops := p.snoops ++ [⟨(s.port n).snpTag, line, inv, s.mile⟩], snpTag := ((s.port n).snpTag + 1) % 65536 }) s := ⟨_, rfl⟩
  have hcu : u.canon = true := hu ▸ after_canon _ s hc
  have hrun : after (sendSnoop n line inv) s = after (seqA [bump F.TRL_SNP_SENT n 1, traisSend n (.snp (s.port n).snpTag (s.ringOff n line) inv)]) u := by
    rw [after_congr (a := sendSnoop n line inv) (b := seqA [modPort n fun p => { p with snoops := p.snoops ++ [⟨p.snpTag, line, inv, s.mile⟩], snpTag := (p.snpTag + 1) % 65536 },
      bump F.TRL_SNP_SENT n 1, traisSend n (.snp (s.port n).snpTag (s.ringOff n line) inv)]) rfl, after_seqA_cons, hu]
    rfl
  have hsame : ((after (sendSnoop n line inv) s).port m).snoops = (u.port m).snoops := by
    rw [hrun]
    refine after_portRel (R := fun _ x y => y.snoops = x.snoops) (fun _ _ => rfl) (fun _ _ _ _ h1 h2 => h2.trans h1) hcu ?_ m
    simp only [allowed_seqA_cons, allowed_bump, allowed_seqA_nil, and_true]
    refine ⟨trivial, allowed_traisSend_to (fun s e he => ?_) _ _⟩
    cases e with
    | port k x =>
      obtain ⟨rfl, hx⟩ := he
      rw [PortReport] at hx
      change x.snoops = _
      rw [hx]
    | out => trivial
    | _ => exact he.elim
  rw [State.snooping, hsame, hu, port_modPort hc]
  obtain ⟨rfl, rfl⟩ | h := h
  · rw [if_pos rfl]
    simp
  · rw [State.snooping] at h
    split
    · next hm =>
      rw [hm] at h
      rw [List.any_append, h, Bool.true_or]
    · exact h

end

theorem snooping_askSnoops : ∀ {l : List (Nat × Nat × Bool)} {s : State}, s.canon = true → ∀ {m k : Nat},
    ((∃ x ∈ l, m = x.1 ∧ k = x.2.1) ∨ s.snooping m k = true) → (after (askSnoops l) s).snooping m k = true
  | [], _, _, _, _, h => h.elim (fun ⟨_, h, _⟩ => nomatch h) id
  | x :: l, s, hc, m, k, h => by
    rw [askSnoops, after_forA_cons]
    refine snooping_askSnoops (l := l) (after_canon _ s hc) ?_
    have hkeep : s.snooping m k = true → (after (whenA (fun s => !s.snooping x.1 x.2.1) (sendSnoop x.1 x.2.1 x.2.2)) s).snooping m k = true := fun h => by
      rw [after_whenA]
      split
      · exact snooping_sendSnoop hc _ _ _ (.inr h)
      · exact h
    obtain ⟨y, hy, rfl, rfl⟩ | h := h
    · obtain rfl | hy := List.mem_cons.1 hy
      · refine .inr ?_
        by_cases hs : s.snooping y.1 y.2.1 = true
        · exact hkeep hs
        · rw [after_whenA, if_pos (by simpa using hs)]
          exact snooping_sendSnoop hc _ _ _ (.inl ⟨rfl, rfl⟩)
      · exact .inl ⟨y, hy, rfl, rfl⟩
    · exact .inr (hkeep h)

theorem allowed_askSnoops_to {P : State → Eff → Prop} {l : List (Nat × Nat × Bool)} (hreg : ∀ x ∈ l, ∀ s v, P s (.reg .trl x.1 F.TRL_SNP_SENT.off v))
    (hport : ∀ s n x, PortSnoop (s.port n) x → P s (.port n x)) (hout : ∀ s x, P s (.out x)) (s : State) : Allowed P (askSnoops l s) s :=
  allowed_forA _ _ s fun x hx s => (allowed_whenA _ _ s).2 fun _ => allowed_sendSnoop_to (hreg x hx) (fun s y => hport s _ y) hout _ _ s

section
variable {s : State} (hc : s.canon = true) (hq : s.quiet = true) (n : Fin 4) (hup : s.fld F.TRL_LNK_STS_STATE n.val = 2)
include hc hq hup

theorem line_waits (off : Word) (tag : BitVec 16) (excl : Bool) (a : Nat) (ha : s.reqAddr n.val .ring off.toNat 64 = some a)
    (hl : s.lineSnoops n.val (a / 64) excl ≠ []) :
    ∃ t, exec (if excl then Instr.traisRdE n off tag else Instr.traisRdS n off tag) s = .next t ∧
      (∀ x ∈ s.lineSnoops n.val (a / 64) excl, t.snooping x.1 x.2.1 = true) ∧
      (t.port n.val).held = [if excl then .rdE off.toNat tag.toNat else .rdS off.toNat tag.toNat] ∧
      RegsBut (((s.lineSnoops n.val (a / 64) excl).map Prod.fst).map fun m => regKey .trl m F.TRL_SNP_SENT.off) s t ∧
      t = { s with regs := t.regs, ports := t.ports, out := t.out } := by
  obtain ⟨l, hls⟩ : ∃ l, l = s.lineSnoops n.val (a / 64) excl := ⟨_, rfl⟩
  obtain ⟨u, hu⟩ : ∃ u, u = after (modPort n.val fun p => { p with held := p.held ++ [lineReq excl off tag] }) s := ⟨_, rfl⟩
  obtain ⟨t, ht⟩ : ∃ t, t = after (askSnoops l) u := ⟨_, rfl⟩
  have hcu : u.canon = true := hu ▸ after_canon _ s hc
  have hreq := reqSnoops_lineReq n ha tag excl
  have hfu : u = { s with ports := u.ports } := hu ▸ rfl
  have hft : t = { u with regs := t.regs, ports := t.ports, out := t.out } :=
    ht ▸ after_overlay [.regs, .ports, .out] (allowed_askSnoops_to (by simp) (by simp) (by simp) u)
  rw [← hls] at hl hreq ⊢
  refine ⟨t, (exec_lineReq n hup off tag excl).trans (congrArg _ ?_), fun x hx => ht ▸ snooping_askSnoops hcu (.inl ⟨x, hx, rfl, rfl⟩), ?_, fun k hk => ?_, ?_⟩
  · rw [queueReq_waits hc hq n _ (hreq ▸ hl), hreq, ht, hu]
  · have h := portSnoop_after hcu (fun hP => allowed_askSnoops hP l u) n.val
    rw [PortSnoop, ← ht] at h
    rw [h, hu, port_modPort hc, if_pos rfl]
    dsimp only
    rw [(State.quiet_iff.1 hq).1 n.val n.isLt]
    rfl
  · have h : SMap.get regResetKey t.regs k = SMap.get regResetKey u.regs k := ht ▸ after_regIn hcu
      (p := fun k => k ∈ (l.map Prod.fst).map fun m => regKey .trl m F.TRL_SNP_SENT.off)
      (allowed_askSnoops_to (P := regIn fun k => k ∈ (l.map Prod.fst).map fun m => regKey .trl m F.TRL_SNP_SENT.off) (fun x hx s v => List.mem_map.2 ⟨x.1, List.mem_map.2 ⟨x, hx, rfl⟩, rfl⟩) (fun _ _ _ _ => trivial) (fun _ _ => trivial) u) hk
    rw [h, hfu]
  · rw [hft, hfu]

end

end Sys2Proof.Machine
end

section
/-!
SUPPORT. What the host writes: bytes, a line written back, a slot of its ring window (R419, R421–R424).
-/
namespace Sys2Proof.Machine

/-! ## A store of the host -/

theorem allowed_invalidateS_to {P : State → Eff → Prop} {l : List (Nat × SfEnt)}
    (hreg : ∀ n ∈ l.flatMap (fun x => x.2.ports), ∀ s v, P s (.reg .trl n F.TRL_SNP_SENT.off v))
    (hport : ∀ s n x, PortSnoop (s.port n) x → P s (.port n x)) (hout : ∀ s x, P s (.out x)) (hfilter : ∀ s d l, P s (.filter d l)) (s : State) :
    Allowed P (invalidateS l s) s :=
  allowed_forA _ _ s fun x hx s => (allowed_seqA_cons _ _ s).2
    ⟨allowed_forA _ _ s fun n hn s => allowed_sendSnoop_to (hreg n (List.mem_flatMap.2 ⟨x, hx, hn⟩)) (fun s y => hport s n y) hout _ _ s,
      (allowed_seqA_cons _ _ _).2 ⟨(allowed_modFilter _ _ _).2 (hfilter _ _ _), .nil _⟩⟩

theorem heldS_congr {s t : State} (hw : t.wins = s.wins) (hf : t.snoopF = s.snoopF) (a n : Nat) : t.heldS a n = s.heldS a n := by
  simp only [State.heldS, sfEntry_congr hw hf]

section
variable {s : State} (hc : s.canon = true)
include hc

/-- What a bulk store of the host leaves. -/
theorem storeBytes_shows (a : Nat) (bs : List Byte) {t : State} (ht : t = after (storeBytes true a bs) s) :
    t.bytes a bs.length = bs ∧ BytesBut a bs.length s t ∧ (∀ d, DieLines (s.die d) (t.die d)) ∧ (∀ m, PortSnoop (s.port m) (t.port m)) ∧
      (∀ k, k ∉ ((s.heldS a bs.length).flatMap fun x => x.2.ports).map (fun m => regKey .trl m F.TRL_SNP_SENT.off) → ¬ stkKey k →
        SMap.get regResetKey t.regs k = SMap.get regResetKey s.regs k) ∧
      t = { s with mem := t.mem, poison := t.poison, snoopF := t.snoopF, regs := t.regs, ports := t.ports, dies := t.dies, out := t.out } := by
  refine ⟨ht ▸ bytes_storeBytes hc true a bs, ht ▸ after_bytesBut hc (allowed_storeBytes_bulk allowsLines_byteRel allowsSnoops_byteRel (by simp)
    (fun _ _ _ h1 h2 => .inl ⟨h1, h2⟩) s), fun d => ?_, fun m => ?_, fun k hk1 hk2 => ?_, ?_⟩
  · rw [ht]
    refine after_dieRel (R := fun _ => DieLines) (fun _ => DieLines.refl) (fun _ _ _ _ => DieLines.trans) hc
      (allowed_storeBytes_bulk (fun s e he => ?_) allowsSnoops_dieRel (by simp) (by simp) s) d
    cases e with
    | die => exact he
    | reg => trivial
    | _ => exact he.elim
  · rw [ht]
    refine after_portRel (R := fun _ => PortSnoop) (fun _ _ => rfl) (fun _ x y z h1 h2 => ?_) hc
      (allowed_storeBytes_bulk (fun s e he => ?_) (fun s e he => ?_) (by simp) (by simp) s) m
    · change z = _
      rw [PortSnoop] at h1 h2
      rw [h2, h1]
    · cases e with
      | die | reg => trivial
      | _ => exact he.elim
    · cases e with
      | port => exact he
      | reg | filter | out => trivial
      | _ => exact he.elim
  · obtain ⟨u, hu⟩ : ∃ u, u = after (sliceWrites true a bs.length) s := ⟨_, rfl⟩
    have hcu : u.canon = true := hu ▸ after_canon _ s hc
    have hfu : u = { s with regs := u.regs, dies := u.dies } :=
      hu ▸ after_overlay [.regs, .dies] (allowed_sliceWrites_bulk (allowsLines_onlyFields (by simp)) a bs.length s)
    have hru : SMap.get regResetKey u.regs k = SMap.get regResetKey s.regs k :=
      hu ▸ after_regIn hc (p := stkKey) (allowed_sliceWrites_bulk (fun s e he => by
        cases e with
        | reg b i o v =>
          obtain ⟨rfl, -⟩ := he
          exact ⟨i, o, rfl⟩
        | die => trivial
        | _ => exact he.elim) a bs.length s) hk2
    have htu : t = after (putStack a bs) u := by rw [ht, storeBytes, after_seqA_cons, after_seqA_cons, after_seqA_end, hu]
    have hheld : u.heldS a bs.length = s.heldS a bs.length := heldS_congr (by rw [hfu]) (by rw [hfu]) _ _
    rw [htu, ← hru]
    refine after_regIn hcu (p := fun k => k ∈ ((s.heldS a bs.length).flatMap fun x => x.2.ports).map fun m => regKey .trl m F.TRL_SNP_SENT.off) ?_ hk1
    simp only [putStack, allowed_seqA_cons, allowed_whenA, allowed_eff, allowed_seqA_nil, and_true, hheld]
    exact ⟨allowed_invalidateS_to (P := regIn fun k => k ∈ ((s.heldS a bs.length).flatMap fun x => x.2.ports).map fun m => regKey .trl m F.TRL_SNP_SENT.off) (fun n hn _ _ => List.mem_map.2 ⟨n, hn, rfl⟩) (fun _ _ _ _ => trivial) (fun _ _ => trivial) (fun _ _ _ => trivial) u,
      allowed_putBytes _ _ _ fun _ _ _ _ _ => trivial, fun _ => trivial⟩
  · exact ht ▸ after_overlay [.mem, .poison, .snoopF, .regs, .ports, .dies, .out]
      (allowed_storeBytes_bulk (allowsLines_onlyFields (by simp)) (allowsSnoops_onlyFields (by simp)) (by simp) (by simp) s)

end

section
variable {s : State} (hc : s.canon = true) (hq : s.quiet = true) (n : Fin 4) (hup : s.fld F.TRL_LNK_STS_STATE n.val = 2)
include hc hq

include hup in
theorem traisWr_stores (sp : Space) (off : Word) (data : List Byte) (a : Nat) (ha : s.reqAddr n.val sp off.toNat data.length = some a)
    (hheld : s.heldE a data.length = []) : ∃ t, exec (.traisWr n sp off data) s = .next t ∧ t.bytes a data.length = data ∧
      BytesBut a data.length s t ∧ (∀ d, DieSlices (s.die d) (t.die d)) ∧
      (∀ k, k ∉ ((s.heldS a data.length).flatMap fun x => x.2.ports).map (fun m => regKey .trl m F.TRL_SNP_SENT.off) → ¬ stkKey k →
        SMap.get regResetKey t.regs k = SMap.get regResetKey s.regs k) ∧
      t = { s with mem := t.mem, poison := t.poison, snoopF := t.snoopF, regs := t.regs, ports := t.ports, dies := t.dies, out := t.out } := by
  obtain ⟨t, ht⟩ : ∃ t, t = after (storeBytes true a data) s := ⟨_, rfl⟩
  obtain ⟨hread, hbut, hdie, hport, hreg, hf⟩ := storeBytes_shows hc a data ht
  have hserve : t = after (serveReq n (.wr sp off.toNat data)) s := by
    rw [ht]
    refine (after_congr ?_).symm
    cases sp with
    | reg | tile | host => simp [State.reqAddr] at ha
    | ring | stack => simp only [serveReq, ha]
  have hqt : t.quiet = true := quiet_of_same hq (fun m => by
    have h := hport m
    rw [PortSnoop] at h
    rw [h]) fun d c => dma_of_lines hdie d c
  have hsn : s.reqSnoops n.val (.wr sp off.toNat data) = [] := by simp only [State.reqSnoops, ha, Option.elim_some, hheld, List.flatMap_nil]
  exact ⟨t, congrArg Host.Outcome.next ((after_takeReq n hup _).trans (queueReq_serves hc hq n _ hsn hserve hqt)), hread, hbut,
    fun d => dieSlices_of_lines (hdie d), hreg, hf⟩

/-! ## Write-backs -/

omit hq in
/-- A line's bytes are stored; the line becomes dirty in its slice. -/
theorem storeLine_shows (line : Nat) (data : List Byte) {t : State} (ht : t = after (storeLine line data) s) :
    t.bytes (line * 64) 64 = padTo 64 data ∧ BytesBut (line * 64) 64 s t ∧ (∀ d, DieLines (s.die d) (t.die d)) ∧
      t = { s with mem := t.mem, poison := t.poison, dies := t.dies, regs := t.regs } := by
  obtain ⟨k, hk⟩ : ∃ k : Act, k = match s.hit (s.owner (line * 64)) (line * 64 / 256) with
    | some _ => touchLine (s.owner (line * 64)) (line * 64 / 256) fun c => { c with dirty := true }
    | none => allocLine (s.owner (line * 64)) ⟨line * 64 / 256, true, false, false⟩ := ⟨_, rfl⟩
  obtain ⟨u, hu⟩ : ∃ u, u = after (putBytes (line * 64) (padTo 64 data)) s := ⟨_, rfl⟩
  obtain ⟨v, hv⟩ : ∃ v, v = after (eff fun s => .poison (s.poison.filter fun w => !(decide (line * 64 ≤ w) && decide (w + 32 ≤ line * 64 + 64)))) u := ⟨_, rfl⟩
  have htv : t = after k v := by
    rw [ht, after_congr (a := storeLine line data) (b := seqA [putBytes (line * 64) (padTo 64 data),
      eff fun s => .poison (s.poison.filter fun w => !(decide (line * 64 ≤ w) && decide (w + 32 ≤ line * 64 + 64))), k]) (hk ▸ rfl), after_seqA_cons, after_seqA_cons, after_seqA_cons,
      after_seqA_end, hv, hu]
  have hlines : ∀ {P : State → Eff → Prop}, AllowsLines P → Allowed P (k v) v := fun hP => by
    rw [hk]
    split
    · exact allowed_touchLine hP _ _ _ v
    · exact allowed_allocLine hP _ _ v
  have hcu : u.canon = true := hu ▸ after_canon _ s hc
  have hcv : v.canon = true := hv ▸ after_canon _ u hcu
  have hfu : u = { s with mem := u.mem } := hu ▸ after_overlay [.mem] (onlyFields_putBytes (by simp) _ _ s)
  have hfv : v = { u with poison := v.poison } := hv ▸ rfl
  have hft : t = { v with regs := t.regs, dies := t.dies } := htv ▸ after_overlay [.regs, .dies] (hlines (allowsLines_onlyFields (by simp)))
  have hlen : (padTo 64 data).length = 64 := length_padTo 64 data
  have hmem : t.mem = u.mem := by rw [hft, hfv]
  refine ⟨?_, fun x hx => ?_, fun d => ?_, by rw [hft, hfv, hfu]⟩
  · have h := bytes_putBytes hc (line * 64) (padTo 64 data)
    rw [hlen, ← hu] at h
    rw [bytes_congr hmem, h]
  · have h := byte_putBytes hc (line * 64) (padTo 64 data) x
    rw [← hu, hlen, if_neg (by omega)] at h
    rw [← h]
    simp only [State.byte, hmem]
  · have hd : v.die d = s.die d := by rw [hfv, hfu]; rfl
    rw [← hd, htv]
    refine after_dieRel (R := fun _ => DieLines) (fun _ => DieLines.refl) (fun _ _ _ _ => DieLines.trans) hcv (hlines fun s e he => ?_) d
    cases e with
    | die => exact he
    | reg => trivial
    | _ => exact he.elim

omit hc hq in
/-- A copy given back is no longer in the filter's entry of its line. -/
theorem modEntry_leaves (line n : Nat) {t : State} (ht : t = after (modEntry line fun e => { e with ports := e.ports.filter fun m => m != n }) s) :
    (∀ x, t.sfEntry line = some x → n ∉ x.2.ports) ∧ t = { s with snoopF := t.snoopF } := by
  have hf : t = { s with snoopF := t.snoopF } := ht ▸ rfl
  have hfilter : t.filter (s.owner (line * 64)) = ((s.filter (s.owner (line * 64))).map fun e =>
      if e.line = line then { e with ports := e.ports.filter fun m => m != n } else e).filter fun e => !e.ports.isEmpty :=
    ht ▸ SMap.get_set_self ..
  refine ⟨fun x hx => ?_, hf⟩
  rw [State.sfEntry, owner_congr (s := s) (by rw [hf]), hfilter] at hx
  obtain ⟨e, he, rfl⟩ := Option.map_eq_some_iff.1 hx
  have hmem := List.mem_of_find?_eq_some he
  have hl := List.find?_some he
  obtain ⟨y, -, rfl⟩ := List.mem_map.1 (List.mem_filter.1 hmem).1
  split
  · simp
  · next h =>
    rw [if_neg h] at hl
    exact absurd (by simpa using hl) h

include hup

theorem traisWb_stores (off : Word) (data : List Byte) (a : Nat) (ha : s.reqAddr n.val .ring off.toNat 64 = some a)
    (hd : a / 64 ∉ (s.port n.val).dropWb) : ∃ t, exec (.traisWb n off data) s = .next t ∧ t.bytes (a / 64 * 64) 64 = padTo 64 data ∧
      (∀ x, t.sfEntry (a / 64) = some x → n.val ∉ x.2.ports) ∧ BytesBut (a / 64 * 64) 64 s t ∧
      t = { s with mem := t.mem, poison := t.poison, dies := t.dies, regs := t.regs, snoopF := t.snoopF } := by
  obtain ⟨u, hu⟩ : ∃ u, u = after (storeLine (a / 64) data) s := ⟨_, rfl⟩
  obtain ⟨t, ht⟩ : ∃ t, t = after (modEntry (a / 64) fun e => { e with ports := e.ports.filter fun m => m != n.val }) u := ⟨_, rfl⟩
  obtain ⟨hread, hbut, hdie, hfu⟩ := storeLine_shows hc (a / 64) data hu
  obtain ⟨hno, hft⟩ := modEntry_leaves (a / 64) n.val ht
  have hdt : ∀ d, DieLines (s.die d) (t.die d) := fun d => by
    have h : t.die d = u.die d := by rw [hft]; rfl
    exact h ▸ hdie d
  have hqt : t.quiet = true := quiet_of_same hq (fun m => by rw [hft, hfu]; rfl) (dma_of_lines hdt)
  have hmem : t.mem = u.mem := by rw [hft]
  refine ⟨t, congrArg Host.Outcome.next ((after_congr (b := seqA [storeLine (a / 64) data,
    modEntry (a / 64) fun e => { e with ports := e.ports.filter fun m => m != n.val }, pumpAll]) ?_).trans ?_), ?_, hno, fun x hx => ?_, by rw [hft, hfu]⟩
  · have hd' : (s.port n.val).dropWb.contains (a / 64) = false := by simpa using hd
    simp only [hup, ha, hd', ne_eq, not_true, Bool.false_eq_true, if_false]
  · rw [after_seqA_cons, after_seqA_cons, after_seqA_cons, after_seqA_end, ← hu, ← ht]
    exact after_pumpAll_of_quiet t hqt
  · rw [bytes_congr hmem, hread]
  · rw [← hbut x hx]
    simp only [State.byte, hmem]

omit hq in
theorem traisWb_discards (off : Word) (data : List Byte) (a : Nat) (ha : s.reqAddr n.val .ring off.toNat 64 = some a)
    (hd : a / 64 ∈ (s.port n.val).dropWb) : ∃ t, exec (.traisWb n off data) s = .next t ∧
      t.port n.val = { s.port n.val with dropWb := (s.port n.val).dropWb.filter fun x => x != a / 64 } ∧ PortsBut [n.val] s t ∧
      t = { s with ports := t.ports } := by
  refine ⟨after (modPort n.val fun p => { p with dropWb := p.dropWb.filter fun l => l != a / 64 }) s, congrArg Host.Outcome.next (after_congr ?_),
    ?_, fun m hm => ?_, rfl⟩
  · have hd' : (s.port n.val).dropWb.contains (a / 64) = true := by simpa using hd
    simp only [hup, ha, hd', ne_eq, not_true, if_false, if_true]
  · rw [port_modPort hc, if_pos rfl]
  · rw [port_modPort hc, if_neg (by simpa using hm)]

end

/-! ## Ring window slots -/

theorem rowOf_rwin (k : Fin 16) : ∃ r ∈ rowOf .trl (0x200 + 8 * k.val), (⟨63, 63, .rw, 0⟩ : RegFld) ∈ r.flds ∧ (⟨10, 0, .rw, 0⟩ : RegFld) ∈ r.flds ∧
    r.apart = true := by
  revert k
  decide

theorem ringWindowRemap_shows {s : State} (hc : s.canon = true) (hq : s.quiet = true) (src : Src) (n : Fin 4) (k : Fin 16) (v : Word)
    (ht : s.takes src .trl n.val (0x200 + 8 * k.val) = true)
    (hg : F.TRL_RWIN_VALID.of v = 0 ∨ s.granPart (F.TRL_RWIN_GRANULE.of v) = s.portPart n.val) (hl : s.reqSnoops n.val (.remap k.val v) = []) :
    ∃ t, exec (.ringWindowRemap src n k v) s = .next t ∧ t.fld (F.TRL_RWIN_VALID.nth k.val) n.val = F.TRL_RWIN_VALID.of v ∧
      t.fld (F.TRL_RWIN_GRANULE.nth k.val) n.val = F.TRL_RWIN_GRANULE.of v ∧ RegsBut [regKey .trl n.val (0x200 + 8 * k.val)] s t ∧
      PortsBut [] s t ∧ t = { s with regs := t.regs, ports := t.ports } := by
  obtain ⟨r, hr, hvalid, hgran, hap⟩ := rowOf_rwin k
  obtain ⟨t, htt⟩ : ∃ t, t = after (writeReg .trl n.val (0x200 + 8 * k.val) v) s := ⟨_, rfl⟩
  have hf : t = { s with regs := t.regs } := htt ▸ after_overlay [.regs] (by simp)
  have hwr : t.reg .trl n.val (0x200 + 8 * k.val) = writeCodes r (s.reg .trl n.val (0x200 + 8 * k.val)) v := by
    have hact : writeReg .trl n.val (0x200 + 8 * k.val) v s = [.reg .trl n.val (0x200 + 8 * k.val) (writeCodes r (s.reg .trl n.val (0x200 + 8 * k.val)) v)] := by
      rw [writeReg, Option.mem_def.1 hr]
    rw [htt, after, hact]
    exact (reg_ap_reg s hc _ _ _ _ _ _ _).trans (if_pos rfl)
  have hrw : ∀ hi lo, (⟨hi, lo, .rw, 0⟩ : RegFld) ∈ r.flds → t.fld ((⟨.trl, 0x200, hi, lo⟩ : Fld).nth k.val) n.val = bitsOf v hi lo := fun hi lo hm => by
    change bitsOf (t.reg .trl n.val (0x200 + 8 * k.val)) hi lo = _
    rw [hwr, bitsOf_writeCodes hap hm]
    rfl
  have hqt : t.quiet = true := quiet_of_same hq (fun m => by rw [hf]; rfl) fun d c => by rw [hf]; rfl
  refine ⟨t, congrArg Host.Outcome.next ?_, hrw 63 63 hvalid, hrw 10 0 hgran, htt ▸ after_regsBut hc (by simp), fun m _ => by rw [hf]; rfl, by rw [hf]⟩
  have hguard : hostRingWindowRemap src n k v s = modPort n.val (fun p => { p with held := p.held ++ [.remap k.val v] }) s := by
    have hcond : ¬ (F.TRL_RWIN_VALID.of v = 1 ∧ s.granPart (F.TRL_RWIN_GRANULE.of v) ≠ s.portPart n.val) := by omega
    rw [hostRingWindowRemap, hostRemap, guardW_of_takes ht, if_neg hcond]
  rw [after_seqA_cons, after_congr hguard, ← after_seqA_cons]
  exact queueReq_serves hc hq n _ hl htt hqt

end Sys2Proof.Machine

open Sys2Proof Sys2Proof.Machine

/-- Settles O46: a request with nothing in its way is served as it comes, and leaves its port as it found it. -/
theorem hostRequests : Obligations.HostRequests := fun _ n hc hq hup =>
  ⟨fun sp off len tag a ha htx hheld hp => traisRd_answers hc hq n hup sp off len tag a ha htx hheld hp,
    fun sp off data a ha hheld => traisWr_stores hc hq n hup sp off data a ha hheld,
    fun off tag excl a ha => ⟨fun hl htx hp => line_granted hc hq n hup off tag excl a ha hl htx hp,
      fun hl => line_waits hc hq n hup off tag excl a ha hl⟩,
    fun off data a ha => ⟨traisWb_stores hc hq n hup off data a ha, traisWb_discards hc n hup off data a ha⟩,
    fun src k v ht hg hl => ringWindowRemap_shows hc hq src n k v ht hg hl⟩

end

section
/-!
SUPPORT. Shards of an image: tries, peers, and what of the state a shard's progress moves (R287–R292).
-/
namespace Sys2Proof.Machine

/-! ## The footprint -/

/-- What an effect of a shard's progress can be: a store in stack memory, and the entry of the partition's job. -/
def Sharded (p : Nat) (s : State) (e : Eff) : Prop :=
  match e with
  | .job q _ => q = p
  | e => Stored s e

/-- The footprint P leaves room for the progress of a shard of partition p. -/
def AllowsShards (p : Nat) (P : State → Eff → Prop) : Prop := ∀ s e, Sharded p s e → P s e

/-- What a shard's progress may change. -/
def ShardOnly (p : Nat) (s t : State) : Prop :=
  t = { s with regs := t.regs, jobs := t.jobs, mem := t.mem, poison := t.poison, ports := t.ports, nvm := t.nvm, keeper := t.keeper, free := t.free
               snoopF := t.snoopF, dies := t.dies, out := t.out } ∧
    JobsBut [p] s t ∧ ∀ d, DieSlices (s.die d) (t.die d)

/-- The registers that a store in stack memory counts in. -/
def shardKey (k : Nat) : Prop := evtKey k ∨ (∃ i o, sliceReg i o ∧ k = regKey .stk i o) ∨ ∃ n, k = regKey .trl n 0x120

/-- A store in stack memory leaves the registers of the loader at other offsets as they are. -/
theorem not_shardKey_ldr {i o : Nat} (ho : o < 65536) (h : o ∉ [0x120, 0x130, 0x200, 0x208, 0x218, 0x220]) : ¬ shardKey (regKey .ldr i o) := by
  have h1 : Blk.trl.code = 0x20 := rfl
  have h2 : Blk.stk.code = 0x16 := rfl
  have h3 : Blk.ldr.code = 0x25 := rfl
  simp only [List.mem_cons, List.not_mem_nil, or_false, not_or] at h
  rintro (⟨n, v, hn, hv, he⟩ | ⟨i', o', ⟨ho', hi'⟩, he⟩ | ⟨n, he⟩)
  · simp only [regKey] at he
    omega
  · simp only [sliceOff, List.contains_eq_mem, List.mem_cons, List.not_mem_nil, or_false, decide_eq_true_eq] at ho'
    simp only [regKey] at he
    omega
  · simp only [regKey] at he
    omega

/-- A store in stack memory leaves the registers of the billeter as they are. -/
theorem not_shardKey_bil {i o : Nat} (hi : i < 1048576) (ho : o < 65536) : ¬ shardKey (regKey .bil i o) := by
  have h1 : Blk.trl.code = 0x20 := rfl
  have h2 : Blk.stk.code = 0x16 := rfl
  have h3 : Blk.bil.code = 0x10 := rfl
  rintro (⟨n, v, hn, hv, he⟩ | ⟨i', o', -, he⟩ | ⟨n, he⟩) <;> simp only [regKey] at he <;> omega

section
variable {p : Nat} {P : State → Eff → Prop}

theorem AllowsShards.stores (h : AllowsShards p P) : AllowsStores P := fun s e he => by
  cases e with
  | job => exact he.elim
  | _ => exact h s _ he

theorem allowsShards_onlyFields {fs : List StateField} (h : [.regs, .jobs, .mem, .poison, .ports, .nvm, .keeper, .free, .snoopF, .dies, .out] ⊆ fs) :
    AllowsShards p (onlyFields fs) := fun s e he => by
  cases e <;> simp_all [Sharded, Stored, Report, List.cons_subset]

theorem allowsShards_jobs : AllowsShards p (jobRel (keepBut [p])) := fun s e he => by
  cases e with
  | job q x => exact .inl (List.mem_singleton.2 he)
  | lost => exact he.elim
  | _ => trivial

theorem allowsShards_dies : AllowsShards p (dieRel fun _ => DieSlices) := fun s e he => by
  cases e with
  | die => exact he
  | lost => exact he.elim
  | _ => trivial

theorem shardOnly_after {a : Act} {s : State} (hc : s.canon = true) (h : ∀ {P : State → Eff → Prop}, AllowsShards p P → Allowed P (a s) s) :
    ShardOnly p s (after a s) :=
  ⟨after_overlay [.regs, .jobs, .mem, .poison, .ports, .nvm, .keeper, .free, .snoopF, .dies, .out] (h (allowsShards_onlyFields (List.Subset.refl _))),
    after_jobsBut hc (h allowsShards_jobs),
    after_dieRel (R := fun _ => DieSlices) (fun _ => DieSlices.refl) (fun _ _ _ _ => DieSlices.trans) hc (h allowsShards_dies)⟩

theorem allowsShards_regs : AllowsShards p (regIn shardKey) := fun s e he => by
  cases e with
  | reg b i o v =>
    obtain he | ⟨rfl, he⟩ | ⟨rfl, rfl⟩ := he
    · exact .inl he
    · exact .inr (.inl ⟨i, o, he, rfl⟩)
    · exact .inr (.inr ⟨i, rfl⟩)
  | lost => exact he.elim
  | _ => trivial

variable (hP : AllowsShards p P)
include hP

theorem allowed_writeSstat (k : Nat) (s : State) : Allowed P (writeSstat p k s) s := by
  rw [writeSstat]
  split
  · dsimp only
    split
    · exact allowed_storeBytes hP.stores ..
    · exact .nil s
  · exact .nil s

theorem allowed_modShard (k : Nat) (f : Shard → Shard) (s : State) : Allowed P (modShard p k f s) s := by
  simp only [modShard, allowed_seqA_cons, allowed_modJob, allowed_seqA_nil, and_true]
  exact ⟨hP _ _ rfl, allowed_writeSstat hP ..⟩

end

/-! ## The manifest in use -/

/-- A shard of a list changes, and is dated. -/
def changeShard (k : Nat) (f : Shard → Shard) (m : Word) (l : List Shard) : List Shard :=
  l.zipIdx.map fun x => if x.2 = k then { (f x.1) with mile := m } else x.1

theorem getElem?_changeShard {k : Nat} {f : Shard → Shard} {m : Word} {l : List Shard} {h : Shard} (hk : l[k]? = some h) :
    (changeShard k f m l)[k]? = some { (f h) with mile := m } := by
  simp [changeShard, hk]

/-- A job with one of its shards changed. -/
def Job.withShard (j : Job) (k : Nat) (f : Shard → Shard) (m : Word) : Job := match j.swap with
  | some w => { j with swap := some { w with newShards := changeShard k f m w.newShards } }
  | none => { j with shards := changeShard k f m j.shards }

theorem Job.inUse_withShard (j : Job) (k : Nat) (f : Shard → Shard) (m : Word) : (j.withShard k f m).inUse = changeShard k f m j.inUse := by
  obtain hw | ⟨w, hw⟩ := Option.eq_none_or_eq_some j.swap <;> simp [Job.withShard, Job.inUse, hw]

theorem Job.withShard_of_noSwap {j : Job} (h : j.swap = none) (k : Nat) (f : Shard → Shard) (m : Word) :
    j.withShard k f m = { j with shards := changeShard k f m j.shards } := by
  simp [Job.withShard, h]

theorem allowsStores_jobs {R : Nat → Job → Job → Prop} : AllowsStores (jobRel R) := fun s e he => by
  cases e with
  | job | lost => exact he.elim
  | _ => trivial

section
variable {s : State} (hc : s.canon = true)
include hc

/-- The job after one of its shards changed. -/
theorem job_modShard (p k : Nat) (f : Shard → Shard) : (after (modShard p k f) s).job p = (s.job p).withShard k f s.mile := by
  obtain ⟨u, hu⟩ : ∃ u, u = after (modJob p fun j => j.withShard k f s.mile) s := ⟨_, rfl⟩
  have hcu : u.canon = true := hu ▸ after_canon _ s hc
  have hrun : after (modShard p k f) s = after (writeSstat p k) u := by
    rw [after_congr (a := modShard p k f) (b := seqA [modJob p fun j => j.withShard k f s.mile, writeSstat p k]) rfl, after_seqA_cons, after_seqA_cons,
      after_seqA_end, hu]
  have hjob : u.job p = (s.job p).withShard k f s.mile := by
    rw [hu, modJob, after_eff, job_ap_job s hc, if_pos rfl]
  rw [hrun, ← hjob]
  refine after_jobRel (R := fun _ x y => y = x) (fun _ _ => rfl) (fun _ _ _ _ h1 h2 => h2.trans h1) hcu ?_ p
  rw [writeSstat]
  split
  · dsimp only
    split
    · exact allowed_storeBytes allowsStores_jobs ..
    · exact .nil u
  · exact .nil u

theorem inUse_modShard {p k : Nat} {h : Shard} (hk : (s.job p).inUse[k]? = some h) (f : Shard → Shard) :
    ((after (modShard p k f) s).job p).inUse[k]? = some { (f h) with mile := s.mile } := by
  rw [job_modShard hc, Job.inUse_withShard]
  exact getElem?_changeShard hk

/-! ## Tries -/

omit hc in
theorem tryAgain_of_tries {p k cause nvme : Nat} {ask : Act} {h : Shard} (hk : (s.job p).inUse[k]? = some h) (hst : h.st = 1 ∨ h.st = 2) (ht : h.tries < 3) :
    tryAgain p k cause nvme ask s = seqA [bump F.LDR_ERR_TRIES p 1, modShard p k fun x => { x with
      st := 2, source := if cause = 5 ∧ x.source = 2 then 2 else 1, tries := min 3 (x.tries + 1), cause := cause
      nvme := if nvme = 0 then x.nvme else nvme }, ask] s := by
  have h1 : ¬ (h.st ≠ 2 ∧ h.st ≠ 1) := by omega
  have h2 : ¬ 3 ≤ h.tries := by omega
  simp only [tryAgain, hk, h1, h2, if_false]

/-- One more try from storage. -/
theorem tryAgain_tries {p k cause nvme : Nat} {ask : Act} (hask : ∀ {P : State → Eff → Prop}, (∀ s o, P s (.out o)) → ∀ x, Allowed P (ask x) x) {h : Shard}
    (hk : (s.job p).inUse[k]? = some h) (hst : h.st = 1 ∨ h.st = 2) (ht : h.tries < 3) (hcause : cause ≠ 5) {t : State}
    (htt : t = after (tryAgain p k cause nvme ask) s) :
    (t.job p).inUse[k]? = some { h with st := 2, source := 1, tries := h.tries + 1, cause := cause, nvme := if nvme = 0 then h.nvme else nvme, mile := s.mile } ∧
      t.fld F.LDR_ERR_TRIES p = min (s.fld F.LDR_ERR_TRIES p + 1) F.LDR_ERR_TRIES.top ∧ ShardOnly p s t := by
  obtain ⟨f, hf⟩ : ∃ f : Shard → Shard, f = fun x => { x with
      st := 2, source := if cause = 5 ∧ x.source = 2 then 2 else 1, tries := min 3 (x.tries + 1), cause := cause
      nvme := if nvme = 0 then x.nvme else nvme } := ⟨_, rfl⟩
  obtain ⟨u, hu⟩ : ∃ u, u = after (bump F.LDR_ERR_TRIES p 1) s := ⟨_, rfl⟩
  obtain ⟨v, hv⟩ : ∃ v, v = after (modShard p k f) u := ⟨_, rfl⟩
  have htv : t = after ask v := by
    rw [htt, after_congr (tryAgain_of_tries hk hst ht), after_seqA_cons, after_seqA_cons, after_seqA_cons, after_seqA_end, ← hf, ← hu, ← hv]
  have hcu : u.canon = true := hu ▸ after_canon _ s hc
  have hcv : v.canon = true := hv ▸ after_canon _ u hcu
  have hfu : u = { s with regs := u.regs } := hu ▸ after_overlay [.regs] (by simp)
  have hft : t = { v with out := t.out } := htv ▸ after_overlay [.out] (hask (by simp) v)
  have hku : (u.job p).inUse[k]? = some h := by rw [hfu]; exact hk
  have hjob : t.job p = v.job p := by rw [hft]; rfl
  obtain ⟨h1, h2, h3⟩ := shardOnly_after (a := modShard p k f) hcu fun hP => allowed_modShard hP k f u
  rw [← hv] at h1 h2 h3
  have hdu : ∀ d, u.die d = s.die d := fun d => by rw [hfu]; rfl
  have hju : ∀ q, u.job q = s.job q := fun q => by rw [hfu]; rfl
  refine ⟨?_, ?_, ?_, fun q hq => ?_, fun d => ?_⟩
  · rw [hjob, hv, inUse_modShard hcu hku f, hf]
    have hmin : min 3 (h.tries + 1) = h.tries + 1 := by omega
    have hm : u.mile = s.mile := by rw [hfu]
    simp only [hcause, false_and, if_false, hmin, hm]
  · have hreg : t.fld F.LDR_ERR_TRIES p = v.fld F.LDR_ERR_TRIES p := by rw [hft]; rfl
    rw [hreg, hv, fld_after_of_regIn hcu (allowed_modShard allowsShards_regs k f u), hu, fld_bump_same hc _ _ _ (by decide)]
    exact not_shardKey_ldr (by decide) (by decide)
  · rw [hft, h1, hfu]
  · have h : t.job q = v.job q := by rw [hft]; rfl
    rw [h, h2 q hq, hju]
  · have h : t.die d = v.die d := by rw [hft]; rfl
    rw [h, ← hdu]
    exact h3 d

/-- After three tries the shard is asked of a peer. -/
theorem tryAgain_asks {p k cause nvme r : Nat} {ask : Act} {h : Shard} (hk : (s.job p).inUse[k]? = some h) (hst : h.st = 1 ∨ h.st = 2) (ht : 3 ≤ h.tries)
    (hr : ((s.job p).holderRanks h.stage).find? (fun r => r != s.rank p) = some r) {t : State} (htt : t = after (tryAgain p k cause nvme ask) s) :
    (t.job p).inUse[k]? = some { h with source := 3, peer := r, cause := cause, mile := s.mile } ∧ .peerFetch p k ∈ t.out ∧ ShardOnly p s t := by
  obtain ⟨f, hf⟩ : ∃ f : Shard → Shard, f = fun x => { x with source := 3, peer := r, cause := cause } := ⟨_, rfl⟩
  obtain ⟨v, hv⟩ : ∃ v, v = after (modShard p k f) s := ⟨_, rfl⟩
  have htv : t = after (emit (.peerFetch p k)) v := by
    have h1 : ¬ (h.st ≠ 2 ∧ h.st ≠ 1) := by omega
    rw [htt, after_congr (a := tryAgain p k cause nvme ask) (b := seqA [modShard p k f, emit (.peerFetch p k)]) (by
      simp only [tryAgain, askPeer, hk, h1, ht, hr, if_false, if_true, hf]), after_seqA_cons, after_seqA_cons, after_seqA_end, ← hv]
  have hft : t = { v with out := v.out ++ [.peerFetch p k] } := htv ▸ rfl
  have hjob : t.job p = v.job p := by rw [hft]; rfl
  obtain ⟨h1, h2, h3⟩ := shardOnly_after (a := modShard p k f) hc fun hP => allowed_modShard hP k f s
  rw [← hv] at h1 h2 h3
  refine ⟨?_, ?_, by rw [hft, h1], fun q hq => ?_, fun d => ?_⟩
  · rw [hjob, hv, inUse_modShard hc hk f, hf]
  · rw [hft]
    exact List.mem_append_right _ (List.mem_singleton.2 rfl)
  · have h : t.job q = v.job q := by rw [hft]; rfl
    rw [h, h2 q hq]
  · have h : t.die d = v.die d := by rw [hft]; rfl
    rw [h]
    exact h3 d

/-! ## Reads of storage that fail -/

omit hc in
theorem allowed_askMissing {P : State → Eff → Prop} (ho : ∀ s o, P s (.out o)) (p k : Nat) (s : State) : Allowed P (askMissing p k s) s := by
  rw [askMissing]
  split
  · exact .nil s
  · exact allowed_forA _ _ s fun _ _ s => (allowed_emit _ _).2 (ho s _)

end

section
variable {s : State} {part : Fin 16} {k : BitVec 24} {h : Shard} (hk : (s.job part.val).inUse[k.toNat]? = some h)
include hk

/-- The three ways a read of storage fails all ask for a further try. -/
theorem failedRead_tries {c : Instr} {cause nv off : Nat} {status : BitVec 11} {data : List Byte} (hst : h.st = 2) (hsrc : h.source = 1) (hoff : off < h.bytes)
    (hstat : status ≠ 0)
    (hc : (c, cause, nv) ∈ [(Instr.nvmeCompletion part k off status data, 1, status.toNat), (.nvmeTimeout part k, 2, h.nvme), (.rdmaConnectionLost part k, 3, h.nvme)])
    (htmo : cause = 2 → 1000000 * max 1 (s.fld F.LDR_CFG_TMO part.val) ≤ (s.mile - h.mile).toNat) :
    cause ≠ 5 ∧ ∃ (nvme : Nat) (ask : Act), exec c s = .next (after (tryAgain part.val k.toNat cause nvme ask) s) ∧ (if nvme = 0 then h.nvme else nvme) = nv ∧
      ∀ {P : State → Eff → Prop}, (∀ s o, P s (.out o)) → ∀ x, Allowed P (ask x) x := by
  have hask : ∀ {P : State → Eff → Prop}, (∀ s o, P s (.out o)) → ∀ x, Allowed P (askMissing part.val k.toNat x) x := fun ho x => allowed_askMissing ho _ _ x
  simp only [List.mem_cons, Prod.mk.injEq, List.not_mem_nil, or_false] at hc
  obtain ⟨rfl, rfl, rfl⟩ | ⟨rfl, rfl, rfl⟩ | ⟨rfl, rfl, rfl⟩ := hc
  · refine ⟨by decide, status.toNat, emit (fetchOut part.val k.toNat h off (readLen h off)), congrArg Host.Outcome.next (after_congr ?_), ?_,
      fun ho x => (allowed_emit _ _).2 (ho x _)⟩
    · have h1 : ¬ (h.st ≠ 2 ∨ (h.source ≠ 1 ∧ (h.source ≠ 2 ∨ h.cause ≠ 5)) ∨ h.bytes ≤ off) := by omega
      simp only [hk, h1, hstat, if_false, ne_eq, not_false_eq_true, if_true]
    · have h0 : status.toNat ≠ 0 := fun h0 => hstat (BitVec.eq_of_toNat_eq h0)
      rw [if_neg h0]
  · refine ⟨by decide, 0, askMissing part.val k.toNat, congrArg Host.Outcome.next (after_congr ?_), rfl, hask⟩
    simp only [hk, Option.any_some, hst, hsrc, htmo rfl, beq_self_eq_true, decide_true, Bool.and_self, if_true]
  · refine ⟨by decide, 0, askMissing part.val k.toNat, congrArg Host.Outcome.next (after_congr ?_), rfl, hask⟩
    simp only [hk, Option.any_some, hst, hsrc, beq_self_eq_true, Bool.and_self, if_true]

/-- Before the time is up, a time-out is none. -/
theorem nvmeTimeout_early (hm : (s.mile - h.mile).toNat < 1000000 * max 1 (s.fld F.LDR_CFG_TMO part.val)) : exec (.nvmeTimeout part k) s = .next s := by
  refine congrArg Host.Outcome.next ((after_congr (b := skip) ?_).trans (after_skipped s))
  have hn : ¬ 1000000 * max 1 (s.fld F.LDR_CFG_TMO part.val) ≤ (s.mile - h.mile).toNat := by omega
  simp only [hk, Option.any_some, hn, decide_false, Bool.and_false, Bool.false_eq_true, if_false]
  rfl

end

end Sys2Proof.Machine
end

section
/-!
SUPPORT. Data of a shard that lands in its stage's shadow (R288, R291).
-/
namespace Sys2Proof.Machine

theorem composes_shardOnly (p : Nat) : Composes (ShardOnly p) where
  refl s := ⟨rfl, fun _ _ => rfl, fun _ => DieSlices.refl _⟩
  trans a b c h1 h2 := by
    obtain ⟨e1, j1, d1⟩ := h1
    obtain ⟨e2, j2, d2⟩ := h2
    refine ⟨?_, fun q hq => (j2 q hq).trans (j1 q hq), fun d => (d1 d).trans (d2 d)⟩
    rw [e2, e1]

/-- Only registers and what is sent change. -/
theorem shardOnly_of_regs (p : Nat) {s t : State} (h : t = { s with regs := t.regs, out := t.out }) : ShardOnly p s t := by
  refine ⟨by rw [h], fun q _ => by rw [h]; rfl, fun d => ?_⟩
  have hd : t.die d = s.die d := by rw [h]; rfl
  rw [hd]
  exact DieSlices.refl _

/-! ## Stack memory without poison -/

section
variable {s : State} (hp : s.poison = [])
include hp

/-- What is put in stack memory without poison leaves it without. -/
theorem poison_storeBytes (a : Nat) (bs : List Byte) : (after (storeBytes true a bs) s).poison = [] := by
  obtain ⟨u, hu⟩ : ∃ u, u = after (sliceWrites true a bs.length) s := ⟨_, rfl⟩
  obtain ⟨v, hv⟩ : ∃ v, v = after (invalidateS (u.heldS a bs.length)) u := ⟨_, rfl⟩
  obtain ⟨w, hw⟩ : ∃ w, w = after (putBytes a bs) v := ⟨_, rfl⟩
  have hpu : u.poison = [] := by
    rw [hu, after_overlay [.regs, .dies] (allowed_sliceWrites_bulk (allowsLines_onlyFields (by simp)) a bs.length s)]
    exact hp
  have hpv : v.poison = [] := by
    rw [hv, after_overlay [.regs, .ports, .snoopF, .out] (allowed_invalidateS (allowsSnoops_onlyFields (by simp)) _ u)]
    exact hpu
  have hpw : w.poison = [] := by
    rw [hw, after_overlay [.mem] (onlyFields_putBytes (by simp) a bs v)]
    exact hpv
  have hrun : after (storeBytes true a bs) s = after (whenA (fun s => !s.poison.isEmpty) (eff fun s => .poison (s.poison.filter fun w =>
      !(decide (a ≤ w) && decide (w + 32 ≤ a + bs.length))))) w := by
    rw [storeBytes, after_seqA_cons, after_seqA_cons, after_seqA_end, ← hu,
      after_congr (a := putStack a bs) (b := seqA [invalidateS (u.heldS a bs.length), putBytes a bs, _]) rfl, after_seqA_cons, after_seqA_cons,
      after_seqA_cons, after_seqA_end, ← hv, ← hw]
  rw [hrun, after_whenA, hpw]
  exact hpw

omit hp in
/-- Actions that send, as long as stack memory is without poison, send in turn. -/
theorem forA_emits {c : Nat → Act} {f : Nat → State → Out} (hcf : ∀ r s, s.poison = [] → c r s = emit (f r s) s) :
    ∀ (l : List Nat) (s : State), s.poison = [] → ∃ o, after (forA l c) s = { s with out := o }
  | [], s, _ => ⟨s.out, rfl⟩
  | r :: l, s, hs => by
    obtain ⟨o, ho⟩ := forA_emits hcf l { s with out := s.out ++ [f r s] } hs
    have hr : after (c r) s = { s with out := s.out ++ [f r s] } := (after_congr (hcf r s hs)).trans rfl
    exact ⟨o, by rw [after_forA_cons, hr, ho]⟩

/-- Whole records of sound memory go on to the next member as they are. -/
theorem passOn_sends (p k : Nat) (old : List Nat) : ∃ o, after (passOn p k old) s = { s with out := o } := by
  cases hk : (s.job p).inUse[k]? with
  | none => exact ⟨s.out, (after_congr (b := skip) (by simp only [passOn, hk]; rfl)).trans (after_skipped s)⟩
  | some h =>
    cases hn : (s.chain p h).2 with
    | none => exact ⟨s.out, (after_congr (b := skip) (by simp only [passOn, hk, hn]; rfl)).trans (after_skipped s)⟩
    | some m =>
      cases ha : s.landAt p h with
      | none => exact ⟨s.out, (after_congr (b := skip) (by simp only [passOn, hk, hn, ha]; rfl)).trans (after_skipped s)⟩
      | some a =>
        obtain ⟨c, hcd⟩ : ∃ c : Nat → Act, c = fun r s => if s.poisoned (a + r * recBytes) recBytes then
            seqA [modShard p k fun x => { x with landed := cutRange x.landed (r * recBytes) recBytes },
              tryAgain p k 5 0 (emit (fetchOut p k h (r * recBytes) recBytes))] s
            else emit (.forward p k r (s.bytes (a + r * recBytes) recBytes)) s := ⟨_, rfl⟩
        obtain ⟨o, ho⟩ := forA_emits (c := c) (f := fun r s => .forward p k r (s.bytes (a + r * recBytes) recBytes)) (fun r s hs => by
          have hpo : s.poisoned (a + r * recBytes) recBytes = false := by simp only [State.poisoned, hs, List.any_nil]
          simp only [hcd, hpo, Bool.false_eq_true, if_false]) (h.whole.filter fun r => !old.contains r) s hp
        exact ⟨o, (after_congr (by simp only [passOn, hk, hn, ha, hcd])).trans ho⟩

end

/-! ## Data that lands -/

section
variable {s : State} (hc : s.canon = true)
include hc

omit hc in
/-- Without status records, a shard's change is that of the job alone. -/
theorem modShard_plain {p : Nat} (he : s.flag F.LDR_SSTAT_EN p = false) (k : Nat) (f : Shard → Shard) :
    after (modShard p k f) s = after (modJob p fun j => j.withShard k f s.mile) s := by
  obtain ⟨u, hu⟩ : ∃ u, u = after (modJob p fun j => j.withShard k f s.mile) s := ⟨_, rfl⟩
  have heu : u.flag F.LDR_SSTAT_EN p = false := by rw [hu]; exact he
  have hskip : writeSstat p k u = [] := by
    rw [writeSstat]
    split
    · simp only [heu, Bool.false_and, Bool.false_eq_true, if_false]
    · rfl
  rw [after_congr (a := modShard p k f) (b := seqA [modJob p fun j => j.withShard k f s.mile, writeSstat p k]) rfl, after_seqA_cons, after_seqA_cons,
    after_seqA_end, ← hu, after_congr (b := skip) hskip, after_skipped]

/-- A shard that is there whole has LANDED; the part may then say so, and go on to program. -/
theorem landedWhole_shows {p k : Nat} {h : Shard} (hk : (s.job p).inUse[k]? = some h) (hsw : (s.job p).swap = none) (hst : h.st = 2)
    (he : s.flag F.LDR_SSTAT_EN p = false) (hm : h.mile = s.mile) {t : State} (ht : t = after (landedWhole p k) s) :
    (t.job p).inUse[k]? = some { h with st := if h.has 0 h.bytes then 3 else 2 } ∧ ShardOnly p s t ∧ t.mem = s.mem := by
  cases hw : h.has 0 h.bytes with
  | false =>
    have hskip : t = s := by
      rw [ht, after_congr (b := skip) (by simp only [landedWhole, hk, hw, true_or, if_true]; rfl), after_skipped]
    rw [hskip]
    refine ⟨?_, (composes_shardOnly p).refl s, rfl⟩
    rw [hk, if_neg (by decide), ← hst]
  | true =>
    obtain ⟨f, hf⟩ : ∃ f : Shard → Shard, f = fun x => { x with st := 3 } := ⟨_, rfl⟩
    obtain ⟨u, hu⟩ : ∃ u, u = after (modShard p k f) s := ⟨_, rfl⟩
    have hcond : ¬ (h.has 0 h.bytes = false ∨ h.st = 3) := by
      rw [hw, hst]
      decide
    obtain ⟨g, hg⟩ : ∃ g : Act, g = seqA [whenA (fun _ => h.source == 3) (bump F.LDR_ERR_PEER p 1), allLanded p,
      whenA (fun s => (s.job p).inUse.all Shard.here) (placeCopies p)] := ⟨_, rfl⟩
    have htu : t = after g u := by
      rw [ht, after_congr (a := landedWhole p k) (b := seqA [modShard p k f, whenA (fun _ => h.source == 3) (bump F.LDR_ERR_PEER p 1), allLanded p,
        whenA (fun s => (s.job p).inUse.all Shard.here) (placeCopies p)]) (by simp only [landedWhole, hk, hcond, if_false, hf]), after_seqA_cons, ← hu, hg]
    have hju : u.job p = (s.job p).withShard k f s.mile := hu ▸ job_modShard hc p k f
    have hswu : (u.job p).swap = none := by rw [hju, Job.withShard_of_noSwap hsw, hsw]
    have hfu : u = { s with jobs := u.jobs } := by
      rw [hu, modShard_plain he]
      rfl
    obtain ⟨v, hv⟩ : ∃ v, v = after (seqA [whenA (fun _ => h.source == 3) (bump F.LDR_ERR_PEER p 1), allLanded p]) u := ⟨_, rfl⟩
    have hfv : v = { u with regs := v.regs, out := v.out } := hv ▸ after_overlay [.regs, .out] (by
      simp only [allLanded, phaseOn, allowed_seqA_cons, allowed_whenA, allowed_bump, allowed_emit, allowed_withA, allowed_setF, allowed_seqA_nil]
      simp)
    have htv : t = v := by
      have hplace : placeCopies p v = [] := by
        have hswv : (v.job p).swap = none := by rw [hfv]; exact hswu
        simp only [placeCopies, hswv]
      rw [htu, hg, after_seqA_cons, after_seqA_cons, after_seqA_cons, after_seqA_end]
      rw [after_seqA_cons, after_seqA_cons, after_seqA_end] at hv
      rw [← hv, after_whenA, after_congr (b := skip) hplace, after_skipped, ite_self]
    have hjt : t.job p = u.job p := by rw [htv, hfv]; rfl
    refine ⟨?_, (composes_shardOnly p).trans _ _ _ (hu ▸ shardOnly_after hc fun hP => allowed_modShard hP k f s) (shardOnly_of_regs p (htv ▸ hfv)), ?_⟩
    · rw [hjt, hu, inUse_modShard hc hk f, hf, if_pos rfl, ← hm]
    · rw [htv, hfv, hfu]

/-- Data that lands: it is stored, noted in the shard's landed ranges, and the shard has LANDED once it is whole. -/
theorem landData_lands {p k off : Nat} {data : List Byte} {h : Shard} {a : Nat} (hk : (s.job p).inUse[k]? = some h) (hsw : (s.job p).swap = none)
    (ha : s.landAt p h = some a) (hp : s.poison = []) (he : s.flag F.LDR_SSTAT_EN p = false) (hlen : off + data.length ≤ h.bytes)
    (hheld : (s.heldE (a + off) data.length).isEmpty = true) {t : State} (ht : t = after (landData p k off data) s) :
    t.bytes (a + off) data.length = data ∧ BytesBut (a + off) data.length s t ∧
      (t.job p).inUse[k]? = some { h with
        landed := addRange h.landed off data.length, mile := s.mile, st := if ({ h with landed := addRange h.landed off data.length } : Shard).has 0 h.bytes then 3 else 2 } ∧
      ShardOnly p s t := by
  obtain ⟨f, hf⟩ : ∃ f : Shard → Shard, f = fun x => { x with st := 2, landed := addRange x.landed off data.length } := ⟨_, rfl⟩
  obtain ⟨u1, hu1⟩ : ∃ u, u = after (invalidateS (s.heldS (a + off) data.length)) s := ⟨_, rfl⟩
  obtain ⟨u2, hu2⟩ : ∃ u, u = after (storeBytes true (a + off) data) u1 := ⟨_, rfl⟩
  obtain ⟨u3, hu3⟩ : ∃ u, u = after (modShard p k f) u2 := ⟨_, rfl⟩
  obtain ⟨u4, hu4⟩ : ∃ u, u = after (passOn p k h.whole) u3 := ⟨_, rfl⟩
  have htake : data.take (h.bytes - off) = data := List.take_of_length_le (by omega)
  have htu : t = after (landedWhole p k) u4 := by
    rw [ht, after_congr (a := landData p k off data) (b := seqA [invalidateS (s.heldS (a + off) data.length), seqA [storeBytes true (a + off) data,
      modShard p k f, passOn p k h.whole, landedWhole p k]]) (by
        simp only [landData, hk, ha, htake, unitWrite, hheld, if_true, hf])]
    simp only [after_seqA_cons, after_seqA_end, ← hu1, ← hu2, ← hu3, ← hu4]
  have hc1 : u1.canon = true := hu1 ▸ after_canon _ s hc
  have hc2 : u2.canon = true := hu2 ▸ after_canon _ u1 hc1
  have hc3 : u3.canon = true := hu3 ▸ after_canon _ u2 hc2
  have hc4 : u4.canon = true := hu4 ▸ after_canon _ u3 hc3
  have hinv : ∀ {P : State → Eff → Prop}, AllowsStores P → Allowed P (invalidateS (s.heldS (a + off) data.length) s) s :=
    fun hP => allowed_invalidateS hP.snoops _ s
  have hst : ∀ {P : State → Eff → Prop}, AllowsStores P → Allowed P (storeBytes true (a + off) data u1) u1 := fun hP => allowed_storeBytes hP ..
  have hf1 : u1 = { s with regs := u1.regs, ports := u1.ports, snoopF := u1.snoopF, out := u1.out } :=
    hu1 ▸ after_overlay [.regs, .ports, .snoopF, .out] (allowed_invalidateS (allowsSnoops_onlyFields (by simp)) _ s)
  obtain ⟨hread, hbut, -, -, -, hf2⟩ := storeBytes_shows hc1 (a + off) data hu2
  have hp2 : u2.poison = [] := hu2 ▸ poison_storeBytes (by rw [hf1]; exact hp) _ _
  have hj2 : u2.job p = s.job p := by rw [hf2, hf1]; rfl
  have hm2 : u2.mile = s.mile := by rw [hf2, hf1]
  have hk2 : (u2.job p).inUse[k]? = some h := hj2 ▸ hk
  have hsstat : ¬ shardKey (regKey .ldr p 0x110) := not_shardKey_ldr (by decide) (by decide)
  have he2 : u2.flag F.LDR_SSTAT_EN p = false := by
    have h1 : u1.fld F.LDR_SSTAT_EN p = s.fld F.LDR_SSTAT_EN p := hu1 ▸ fld_after_of_regIn hc (hinv (allowsShards_regs (p := p)).stores) hsstat
    have h2 : u2.fld F.LDR_SSTAT_EN p = u1.fld F.LDR_SSTAT_EN p := hu2 ▸ fld_after_of_regIn hc1 (hst (allowsShards_regs (p := p)).stores) hsstat
    rw [State.flag, h2, h1]
    exact he
  have hf3 : u3 = { u2 with jobs := u3.jobs } := by
    rw [hu3, modShard_plain he2]
    rfl
  have hk3 : (u3.job p).inUse[k]? = some { (f h) with mile := s.mile } := by rw [hu3, inUse_modShard hc2 hk2 f, hm2]
  obtain ⟨o, ho⟩ := passOn_sends (s := u3) (by rw [hf3]; exact hp2) p k h.whole
  rw [← hu4] at ho
  have hj4 : u4.job p = u3.job p := by rw [ho]; rfl
  have hsw4 : (u4.job p).swap = none := by
    rw [hj4, hu3, job_modShard hc2, hj2, Job.withShard_of_noSwap hsw, hsw]
  have he4 : u4.flag F.LDR_SSTAT_EN p = false := by
    rw [ho, hf3]
    exact he2
  have hm4 : u4.mile = s.mile := by rw [ho, hf3]; exact hm2
  obtain ⟨hin, honly, hmem⟩ := landedWhole_shows hc4 (hj4 ▸ hk3) hsw4 (by rw [hf]) he4 hm4.symm htu
  have hmem2 : t.mem = u2.mem := by rw [hmem, ho, hf3]
  refine ⟨?_, fun x hx => ?_, ?_, ?_⟩
  · rw [bytes_congr hmem2, hread]
  · have hb : t.byte x = u2.byte x := by simp only [State.byte, hmem2]
    have hb1 : u1.byte x = s.byte x := by rw [hf1]; rfl
    rw [hb, hbut x hx, hb1]
  · rw [hin, hf]
    rfl
  · have h12 : ShardOnly p s u2 := (composes_shardOnly p).trans _ _ _ (hu1 ▸ shardOnly_after hc fun hP => hinv hP.stores)
      (hu2 ▸ shardOnly_after hc1 fun hP => hst hP.stores)
    have h23 : ShardOnly p u2 u3 := hu3 ▸ shardOnly_after hc2 fun hP => allowed_modShard hP k f u2
    have h34 : ShardOnly p u3 u4 := shardOnly_of_regs p (by rw [ho])
    exact (composes_shardOnly p).trans _ _ _ h12 ((composes_shardOnly p).trans _ _ _ h23 ((composes_shardOnly p).trans _ _ _ h34 honly))

/-! ## Data from storage and from other parts -/

variable {part : Fin 16} {k : BitVec 24} {h : Shard} (hk : (s.job part.val).inUse[k.toNat]? = some h) {a : Nat}
  (hsw : (s.job part.val).swap = none) (ha : s.landAt part.val h = some a) (hp : s.poison = []) (he : s.flag F.LDR_SSTAT_EN part.val = false)
include hk hsw ha hp he

theorem nvmeCompletion_lands {off : Nat} {data : List Byte} (hst : h.st = 2) (hsrc : h.source = 1) (hoff : off < h.bytes) (hlen : data.length = readLen h off)
    (hheld : (s.heldE (a + off) data.length).isEmpty = true) : ∃ t, exec (.nvmeCompletion part k off 0 data) s = .next t ∧
      t.bytes (a + off) data.length = data ∧ BytesBut (a + off) data.length s t ∧
      (t.job part.val).inUse[k.toNat]? = some { h with
        landed := addRange h.landed off data.length, mile := s.mile, st := if ({ h with landed := addRange h.landed off data.length } : Shard).has 0 h.bytes then 3 else 2 } ∧ ShardOnly part.val s t := by
  obtain ⟨u, hu⟩ : ∃ u, u = after (bumpW F.LDR_FETCH_BYTES part.val data.length) s := ⟨_, rfl⟩
  obtain ⟨t, ht⟩ : ∃ t, t = after (landData part.val k.toNat off data) u := ⟨_, rfl⟩
  have hcu : u.canon = true := hu ▸ after_canon _ s hc
  have hfu : u = { s with regs := u.regs } := hu ▸ after_overlay [.regs] (by simp)
  have heu : u.flag F.LDR_SSTAT_EN part.val = false := by
    rw [State.flag, hu, bumpW, after_withA, fld_set_off hc _ _ _ _ _ (by decide)]
    exact he
  obtain ⟨h1, h2, h3, h4⟩ := landData_lands hcu (h := h) (a := a) (by rw [hfu]; exact hk) (by rw [hfu]; exact hsw) (by rw [hfu]; exact ha) (by rw [hfu]; exact hp) heu
    (by rw [hlen, readLen]; omega) (by rw [hfu]; exact hheld) ht
  refine ⟨t, congrArg Host.Outcome.next ((after_congr (b := seqA [bumpW F.LDR_FETCH_BYTES part.val data.length, landData part.val k.toNat off data,
    whenA (fun _ => decide (data.length < readLen h off))
      (tryAgain part.val k.toNat 4 0 (emit (fetchOut part.val k.toNat h (off + data.length) (readLen h off - data.length))))]) ?_).trans ?_), h1, fun x hx => ?_, ?_,
    (composes_shardOnly _).trans _ _ _ (shardOnly_of_regs _ (by rw [hfu])) h4⟩
  · have hcond : ¬ (h.st ≠ 2 ∨ (h.source ≠ 1 ∧ (h.source ≠ 2 ∨ h.cause ≠ 5)) ∨ h.bytes ≤ off) := by omega
    simp only [hk, hcond, if_false, ne_eq, not_true]
  · have hfull : ¬ data.length < readLen h off := by omega
    rw [after_seqA_cons, after_seqA_cons, after_seqA_cons, after_seqA_end, ← hu, ← ht, after_whenA, if_neg (by simpa using hfull)]
  · rw [h2 x hx, hfu]
    rfl
  · rw [h3, hfu]

theorem forwardedRecord_lands {r : BitVec 24} {peer : BitVec 16} {data : List Byte} (hst : h.st = 1 ∨ h.st = 2) (hsrc : h.source = 2 ∨ h.source = 3)
    (hr : r.toNat < h.n) (hlen : data.length = recBytes) (hbytes : h.bytes = h.n * recBytes)
    (hheld : (s.heldE (a + r.toNat * recBytes) data.length).isEmpty = true) : ∃ t, exec (.forwardedRecord part k r peer data) s = .next t ∧
      t.bytes (a + r.toNat * recBytes) data.length = data ∧ BytesBut (a + r.toNat * recBytes) data.length s t ∧
      (t.job part.val).inUse[k.toNat]? = some { h with
        peer := peer.toNat, landed := addRange h.landed (r.toNat * recBytes) data.length, mile := s.mile, st := if ({ h with landed := addRange h.landed (r.toNat * recBytes) data.length } : Shard).has 0 h.bytes then 3 else 2 } ∧ ShardOnly part.val s t := by
  obtain ⟨f, hf⟩ : ∃ f : Shard → Shard, f = fun x => { x with peer := peer.toNat } := ⟨_, rfl⟩
  obtain ⟨u, hu⟩ : ∃ u, u = after (bumpW F.LDR_FWD_BYTES part.val data.length) s := ⟨_, rfl⟩
  obtain ⟨v, hv⟩ : ∃ v, v = after (modShard part.val k.toNat f) u := ⟨_, rfl⟩
  obtain ⟨t, ht⟩ : ∃ t, t = after (landData part.val k.toNat (r.toNat * recBytes) data) v := ⟨_, rfl⟩
  have hcu : u.canon = true := hu ▸ after_canon _ s hc
  have hcv : v.canon = true := hv ▸ after_canon _ u hcu
  have hfu : u = { s with regs := u.regs } := hu ▸ after_overlay [.regs] (by simp)
  have heu : u.flag F.LDR_SSTAT_EN part.val = false := by
    rw [State.flag, hu, bumpW, after_withA, fld_set_off hc _ _ _ _ _ (by decide)]
    exact he
  have hfv : v = { u with jobs := v.jobs } := by
    rw [hv, modShard_plain heu]
    rfl
  have hju : u.job part.val = s.job part.val := by rw [hfu]; rfl
  have hjv : v.job part.val = { s.job part.val with shards := changeShard k.toNat f u.mile (s.job part.val).shards } := by
    rw [hv, job_modShard hcu, hju, Job.withShard_of_noSwap hsw]
  have hkv : (v.job part.val).inUse[k.toNat]? = some { (f h) with mile := u.mile } := by
    rw [hv]
    exact inUse_modShard hcu (hju ▸ hk) f
  have hswv : (v.job part.val).swap = none := by rw [hjv, hsw]
  have hav : v.landAt part.val { (f h) with mile := u.mile } = some a := by
    have hshadow : (v.job part.val).shadows = (s.job part.val).shadows := by rw [hjv]
    have hep : (v.job part.val).inEpoch = (s.job part.val).inEpoch := by rw [hjv, Job.inEpoch, Job.inEpoch, hsw]
    rw [← ha, hf]
    simp only [State.landAt, hshadow, hep, hswv, hsw]
  have hin : r.toNat * recBytes + data.length ≤ h.bytes := by
    rw [hlen, hbytes]
    calc r.toNat * recBytes + recBytes = (r.toNat + 1) * recBytes := by ring
      _ ≤ h.n * recBytes := Nat.mul_le_mul_right _ hr
  obtain ⟨h1, h2, h3, h4⟩ := landData_lands hcv hkv hswv hav (by rw [hfv, hfu]; exact hp) (by rw [hfv]; exact heu) (by rw [hf]; exact hin)
    (by rw [hfv, hfu]; exact hheld) ht
  refine ⟨t, congrArg Host.Outcome.next ((after_congr (b := seqA [bumpW F.LDR_FWD_BYTES part.val data.length, modShard part.val k.toNat f,
    landData part.val k.toNat (r.toNat * recBytes) data]) ?_).trans ?_), h1, fun x hx => ?_, ?_,
    (composes_shardOnly _).trans _ _ _ (shardOnly_of_regs _ (by rw [hfu]))
      ((composes_shardOnly _).trans _ _ _ (hv ▸ shardOnly_after hcu fun hP => allowed_modShard hP _ f u) h4)⟩
  · have hcond : ¬ (3 ≤ h.st ∨ h.st = 0 ∨ h.n ≤ r.toNat ∨ h.source < 2 ∨ data.length ≠ recBytes) := by omega
    simp only [hk, hcond, if_false, hf]
  · rw [after_seqA_cons, after_seqA_cons, after_seqA_cons, after_seqA_end, ← hu, ← hv, ← ht]
  · rw [h2 x hx, hfv, hfu]
    rfl
  · rw [h3, hf, hfv, hfu]
    rfl

end

end Sys2Proof.Machine
end

section
/-!
SUPPORT. What the release of a partition's image and the end of a load change (R169).
-/
namespace Sys2Proof.Machine

/-- No register of another block is one of the billeter's. -/
theorem ne_bindKey {b : Blk} {i o d : Nat} (hb : 0x11 ≤ b.code) (hd : d < 32) : regKey b i o ≠ regKey .bil d 0x200 := fun h => by
  have h1 : Blk.bil.code = 0x10 := rfl
  simp only [regKey] at h
  omega

/-- The registers that the release of partition p writes. -/
def releaseKey (p k : Nat) : Prop := evtKey k ∨ (∃ i o, sliceReg i o ∧ k = regKey .stk i o) ∨ (∃ t, k = regKey .til (tileKey t) 0x108) ∨
  (∃ d < 32, k = regKey .cal d 0x130 ∨ k = regKey .sch d 0x338 ∨ k = regKey .sch d 0x838 ∨ k = regKey .bil d 0x200) ∨ k = regKey .ldr p 0x118

/-- What an effect of the release of partition p can be: registers, what its dies and sequencers hold, trees, windows, the job, and the
rewrites it cuts short. -/
def Released (p : Nat) (s : State) (e : Eff) : Prop :=
  match e with
  | .reg b i o v => releaseKey p (regKey b i o) ∧
      ∀ d < 32, regKey b i o = regKey .bil d 0x200 → ∀ hi lo, 2 ≤ lo → bitsOf v hi lo = bitsOf (s.reg b i o) hi lo
  | .core .. | .die .. | .treeTab .. | .oldTrees _ | .win .. | .filter .. | .fabTrees _ | .colls _ => True
  | .job q _ => q = p
  | e => Rewritten s e

/-- The footprint P leaves room for the release of partition p. -/
def AllowsRelease (p : Nat) (P : State → Eff → Prop) : Prop := ∀ s e, Released p s e → P s e

section
variable {p : Nat} {P : State → Eff → Prop} (hP : AllowsRelease p P)
include hP

theorem AllowsRelease.reg {s : State} {b : Blk} {i o : Nat} {v : Word} (hb : 0x11 ≤ b.code) (h : releaseKey p (regKey b i o)) : P s (.reg b i o v) :=
  hP _ _ ⟨h, fun _ hd hk => absurd hk (ne_bindKey hb hd)⟩

theorem AllowsRelease.rewritten : ∀ s e, Rewritten s e → P s e := fun s e he => by
  refine hP s e ?_
  cases e with
  | reg =>
    refine ⟨.inl he, fun d hd hk => ?_⟩
    obtain ⟨n, v, -, -, h⟩ := he
    exact absurd (h.symm.trans hk) (ne_bindKey (by decide) hd)
  | core | treeTab | oldTrees | win | filter | fabTrees | colls | job => exact he.elim
  | die => trivial
  | _ => exact he

theorem allowed_flushDie_release {d : Nat} (hd : d < 32) (f : Nat → Bool) (s : State) : Allowed P (flushDie d f s) s := by
  simp only [flushDie, allowed_seqA_cons, allowed_seqA_nil, and_true]
  refine ⟨allowed_forA _ _ s fun c _ s => ?_, allowed_forA _ _ _ fun k _ s => (allowed_modDie _ _ _).2 (hP _ _ trivial)⟩
  simp only [writeBack, allowed_seqA_cons, allowed_bump, allowed_bumpW, allowed_seqA_nil, and_true]
  exact ⟨hP.reg (by decide) (.inr (.inl ⟨_, _, ⟨rfl, fun _ => hd⟩, rfl⟩)), hP.reg (by decide) (.inr (.inl ⟨_, _, ⟨rfl, fun h => absurd h (by decide)⟩, rfl⟩))⟩

theorem allowed_windowChange_release (i : Nat) (w : Win) (s : State) : Allowed P (windowChange i w s) s := by
  have hlt : ∀ d ∈ allDies, d < 32 := fun d hd => by simpa [allDies] using hd
  simp only [windowChange, allowed_seqA_cons, allowed_eff, allowed_seqA_nil, and_true]
  refine ⟨allowed_forA _ _ s fun d hd s => allowed_flushDie_release hP (hlt d hd) _ s, allowed_forA _ _ _ fun d _ s => (allowed_whenA _ _ s).2 fun _ =>
    (allowed_modFilter _ _ _).2 (hP _ _ trivial), allowed_forA _ _ _ fun d _ s => (allowed_whenA _ _ s).2 fun _ => (allowed_modDie _ _ _).2 (hP _ _ trivial),
    hP _ _ trivial, allowed_forA _ _ _ fun q _ s => (allowed_modDie _ _ _).2 (hP _ _ trivial),
    allowed_forA _ _ _ fun e _ s => (allowed_modFilter _ _ _).2 (hP _ _ trivial)⟩

theorem allowed_freeTile_release (t : TileId) (s : State) : Allowed P (freeTile t 0 s) s := by
  simp only [freeTile, allowed_seqA_cons, allowed_whenA, allowed_modCore, allowed_setF, allowed_seqA_nil, and_true]
  exact ⟨hP _ _ trivial, fun _ => hP.reg (by decide) (.inr (.inr (.inl ⟨t, rfl⟩)))⟩

theorem allowed_setFP_release {f : Fld} (hf : f.blk = .bil ∧ f.off = 0x200 ∧ f.lo ≤ f.hi ∧ f.hi < 2) (q v : Nat) (s : State) : Allowed P (setFP f q v s) s := by
  simp only [setFP, onDies, allowed_withA]
  refine allowed_forA _ _ _ fun d hd s => (allowed_setF _ _ _ _).2 ?_
  obtain ⟨b, o, hi, lo⟩ := f
  obtain ⟨rfl, rfl, hlo, hhi⟩ := hf
  exact hP _ _ ⟨.inr (.inr (.inr (.inl ⟨d, (mem_partDies.1 hd).1, .inr (.inr (.inr rfl))⟩))), fun _ _ _ hi lo h2 =>
    bitsOf_putBits_other _ _ _ _ _ _ hlo (by dsimp only at hhi ⊢; omega) (.inr (by dsimp only at hhi ⊢; omega))⟩

theorem allowed_release (s : State) : Allowed P (release p s) s := by
  have hdie : ∀ d < 32, ∀ s b o v, (b = .cal ∧ o = 0x130 ∨ b = .sch ∧ o = 0x338 ∨ b = .sch ∧ o = 0x838) → P s (.reg b d o v) := fun d hd s b o v h =>
    hP.reg (by obtain ⟨rfl, -⟩ | ⟨rfl, -⟩ | ⟨rfl, -⟩ := h <;> decide) (.inr (.inr (.inr (.inl ⟨d, hd, by
      obtain ⟨rfl, rfl⟩ | ⟨rfl, rfl⟩ | ⟨rfl, rfl⟩ := h
      · exact .inl rfl
      · exact .inr (.inl rfl)
      · exact .inr (.inr (.inl rfl))⟩))))
  have hldr : ∀ s v, P s (.reg .ldr p 0x118 v) := fun s v => hP.reg (by decide) (.inr (.inr (.inr (.inr rfl))))
  have hfree : ∀ (l : List TileId) (s : State), Allowed P (forA l (fun t => freeTile t 0) s) s :=
    fun l s => allowed_forA _ _ s fun t _ s => allowed_freeTile_release hP t s
  simp only [release, allowed_seqA_cons, allowed_eff, allowed_setF, allowed_modJob, allowed_seqA_nil, and_true]
  refine ⟨hfree _ s, hfree _ _, allowed_forA _ _ _ fun d hd s => ?_,
    allowed_forA _ _ _ fun d _ s => allowed_forA _ _ s fun k _ s => (allowed_modCore _ _ _).2 (hP _ _ trivial),
    allowed_forA _ _ _ fun k _ s => (allowed_whenA _ _ s).2 fun _ => (allowed_eff _ s).2 (hP _ _ trivial), hP _ _ trivial,
    allowed_forA _ _ _ fun i _ s => allowed_windowChange_release hP i _ s, hP _ _ trivial, hP _ _ trivial,
    allowed_setFP_release hP (by decide) .., allowed_setFP_release hP (by decide) .., hldr .., hldr .., hP _ _ rfl⟩
  have hd32 := (mem_partDies.1 hd).1
  simp only [allowed_seqA_cons, allowed_bump, allowed_modDie, allowed_setF, allowed_whenA, allowed_seqA_nil, and_true]
  exact ⟨(allowed_cutProg d s).mono hP.rewritten, hdie d hd32 _ _ _ _ (.inl ⟨rfl, rfl⟩), hP _ _ trivial, hdie d hd32 _ _ _ _ (.inr (.inl ⟨rfl, rfl⟩)),
    fun _ => ⟨hdie d hd32 _ _ _ _ (.inr (.inr ⟨rfl, rfl⟩)), hdie d hd32 _ _ _ _ (.inr (.inr ⟨rfl, rfl⟩))⟩⟩

end

theorem allowsRelease_onlyFields {p : Nat} {fs : List StateField}
    (h : [.regs, .cores, .dies, .trees, .oldTrees, .wins, .snoopF, .fabTrees, .colls, .jobs, .nvm, .keeper, .ports, .free, .out] ⊆ fs) :
    AllowsRelease p (onlyFields fs) := fun s e he => by
  cases e <;> simp_all [Released, Rewritten, Report, List.cons_subset]

/-- The release of a partition leaves the billeter's registers but BIL_BIND_STS, and the passages'. -/
theorem not_releaseKey {p : Nat} {b : Blk} {i o : Nat} (hb : b = .bil ∧ o ≠ 0x200 ∨ b = .pas) (hi : i < 1048576) (ho : o < 65536) :
    ¬ releaseKey p (regKey b i o) := by
  have hlt : ∀ {c : Blk} {j q : Nat}, b.code < c.code → regKey b i o ≠ regKey c j q := fun h he => by
    simp only [regKey] at he
    omega
  have hne : ∀ {c : Blk} {j q : Nat}, b.code ≠ c.code ∨ o ≠ q → j < 1048576 → q < 65536 → regKey b i o ≠ regKey c j q := fun h hj hq he => by
    obtain ⟨h1, -, h3⟩ := regKey_inj hi hj ho hq he
    exact h.elim (fun h => h h1) fun h => h h3
  have hcode : b.code < Blk.til.code ∧ b.code ≠ Blk.sch.code ∧ (b.code ≠ Blk.bil.code ∨ o ≠ 0x200) := by
    obtain ⟨rfl, h⟩ | rfl := hb
    · exact ⟨by decide, by decide, .inr h⟩
    · exact ⟨by decide, by decide, .inl (by decide)⟩
  obtain ⟨h1, h2, h3⟩ := hcode
  rintro (⟨n, v, -, -, he⟩ | ⟨j, q, -, he⟩ | ⟨t, he⟩ | ⟨d, hd, he | he | he | he⟩ | he)
  · exact hlt (lt_of_lt_of_le h1 (by decide)) he
  · exact hlt (lt_of_lt_of_le h1 (by decide)) he
  · exact hlt (lt_of_lt_of_le h1 (by decide)) he
  · exact hlt (lt_of_lt_of_le h1 (by decide)) he
  · exact hne (.inl h2) (by omega) (by decide) he
  · exact hne (.inl h2) (by omega) (by decide) he
  · exact hne h3 (by omega) (by decide) he
  · exact hlt (lt_of_lt_of_le h1 (by decide)) he

/-- The release of a partition leaves LDR_ERR. -/
theorem not_releaseKey_err {p i : Nat} : ¬ releaseKey p (regKey .ldr i 0x168) := by
  have h1 : Blk.ldr.code = 0x25 := rfl
  have h2 : Blk.til.code = 0x13 := rfl
  have h3 : Blk.cal.code = 0x14 := rfl
  have h4 : Blk.sch.code = 0x11 := rfl
  have h5 : Blk.bil.code = 0x10 := rfl
  rintro (he | ⟨j, q, ⟨hq, -⟩, he⟩ | ⟨t, he⟩ | ⟨d, hd, he | he | he | he⟩ | he)
  · exact not_evtKey_of_off (by decide) he
  · simp only [sliceOff, List.contains_eq_mem, List.mem_cons, List.not_mem_nil, or_false, decide_eq_true_eq] at hq
    simp only [regKey] at he
    omega
  · exact regKey_ne_of_off (by decide) he
  · exact regKey_ne_of_off (by decide) he
  · exact regKey_ne_of_off (by decide) he
  · exact regKey_ne_of_off (by decide) he
  · exact regKey_ne_of_off (by decide) he
  · exact regKey_ne_of_off (by decide) he

theorem after_seqA_concat (a : Act) : ∀ (l : List Act) (s : State), after (seqA (l ++ [a])) s = after a (after (seqA l) s)
  | [], s => by rw [List.nil_append, after_seqA_cons, after_seqA_end, after_seqA_end]
  | x :: l, s => by rw [List.cons_append, after_seqA_cons, after_seqA_concat a l, after_seqA_cons]

theorem allowsRelease_regs {p : Nat} : AllowsRelease p (regIn (releaseKey p)) := fun s e he => by
  cases e with
  | reg => exact he.1
  | lost => exact he.elim
  | _ => trivial

section
variable {s : State} (hc : s.canon = true) (p : Nat) {t : State} (ht : t = after (release p) s)
include hc ht

omit hc in
theorem release_frame : t = { s with
    regs := t.regs, cores := t.cores, dies := t.dies, trees := t.trees, oldTrees := t.oldTrees, wins := t.wins, snoopF := t.snoopF, fabTrees := t.fabTrees
    colls := t.colls, jobs := t.jobs, nvm := t.nvm, keeper := t.keeper, ports := t.ports, free := t.free, out := t.out } :=
  ht ▸ after_overlay [.regs, .cores, .dies, .trees, .oldTrees, .wins, .snoopF, .fabTrees, .colls, .jobs, .nvm, .keeper, .ports, .free, .out]
    (allowed_release (allowsRelease_onlyFields (List.Subset.refl _)) s)

theorem fld_release {f : Fld} {i : Nat} (hk : ¬ releaseKey p (regKey f.blk i f.off)) : t.fld f i = s.fld f i :=
  ht ▸ fld_after_of_regIn hc (allowed_release allowsRelease_regs s) hk

theorem jobsBut_release : JobsBut [p] s t := ht ▸ after_jobsBut hc (allowed_release (p := p) (fun s e he => by
  cases e with
  | job q x => exact .inl (List.mem_singleton.2 he)
  | lost => exact he.elim
  | _ => trivial) s)

theorem job_release : t.job p = Job.zero := by
  obtain ⟨l, hl⟩ : ∃ l, release p s = seqA (l ++ [modJob p fun _ => Job.zero]) s := ⟨[_, _, _, _, _, _, _, _, _, _, _, _, _], rfl⟩
  rw [ht, after_congr hl, after_seqA_concat, modJob, after_eff, job_ap_job _ (after_canon _ s hc), if_pos rfl]

end

end Sys2Proof.Machine
end

section
/-!
SUPPORT. What BIL_IMG_STS shows on every die of a partition, and how a load or check ends (R167, R170, R291).
-/
namespace Sys2Proof.Machine

/-! ## Actions on one die after the other -/

/-- What an action on each of a list establishes, and those on the others keep, holds of every one at the end. -/
theorem forA_each {α : Type} {g : α → Act} {Q : α → State → Prop} : ∀ {l : List α} {s : State}, s.canon = true →
    (∀ d ∈ l, ∀ s : State, s.canon = true → Q d (after (g d) s)) →
    (∀ e ∈ l, ∀ d ∈ l, d ≠ e → ∀ s : State, s.canon = true → Q d s → Q d (after (g e) s)) → ∀ d ∈ l, Q d (after (forA l g) s) := by
  suffices h : ∀ (l L : List α) (s : State), (∀ d ∈ l, d ∈ L) → s.canon = true → (∀ d ∈ L, ∀ s : State, s.canon = true → Q d (after (g d) s)) →
      (∀ e ∈ L, ∀ d ∈ L, d ≠ e → ∀ s : State, s.canon = true → Q d s → Q d (after (g e) s)) → ∀ d ∈ L, d ∈ l ∨ Q d s → Q d (after (forA l g) s) from
    fun {l s} hc hset hkeep d hd => h l l s (fun _ h => h) hc hset hkeep d hd (.inl hd)
  intro l
  induction l with
  | nil => exact fun _ _ _ _ _ _ d _ h => h.resolve_left List.not_mem_nil
  | cons e l ih =>
    intro L s hl hc hset hkeep d hd h
    have he := hl e (List.mem_cons_self ..)
    rw [after_forA_cons]
    refine ih L _ (fun x hx => hl x (List.mem_cons_of_mem _ hx)) (after_canon _ s hc) hset hkeep d hd ?_
    by_cases hde : d = e
    · exact .inr (hde ▸ hset e he s hc)
    · exact h.imp (fun h => (List.mem_cons.1 h).resolve_left hde) fun h => hkeep e he d hd hde s hc h

/-! ## BIL_IMG_STS -/

/-- One die shows the state of its partition's image. -/
def imgShown (st code : Nat) (busy : Bool) (d : Nat) : Act :=
  seqA [setF F.BIL_IMG_STS_STATE d st, setF F.BIL_IMG_STS_CODE d code, setB F.BIL_IMG_STS_BUSY d busy, dieEvent d]

/-- The state of an image, its code and BUSY, as a die shows them. -/
def ShowsImg (st code : Nat) (busy : Bool) (d : Nat) (t : State) : Prop :=
  t.fld F.BIL_IMG_STS_STATE d = st ∧ t.fld F.BIL_IMG_STS_CODE d = code ∧ t.flag F.BIL_IMG_STS_BUSY d = busy

theorem ShowsImg.congr {st code : Nat} {busy : Bool} {d : Nat} {s t : State} (h : ShowsImg st code busy d s)
    (hr : SMap.get regResetKey t.regs (regKey .bil d 0x118) = SMap.get regResetKey s.regs (regKey .bil d 0x118)) : ShowsImg st code busy d t := by
  have hf : ∀ f : Fld, f.blk = .bil → f.off = 0x118 → t.fld f d = s.fld f d := fun f hb ho => by
    simp only [State.fld, State.reg, hb, ho, hr]
  obtain ⟨h1, h2, h3⟩ := h
  refine ⟨(hf _ rfl rfl).trans h1, (hf _ rfl rfl).trans h2, ?_⟩
  rw [State.flag, hf _ rfl rfl]
  exact h3

theorem allowed_dieEvent {P : State → Eff → Prop} (hP : AllowsEvents P) (d : Nat) (s : State) : Allowed P (dieEvent d s) s := by
  simp only [dieEvent, allowed_withA]
  exact allowed_raiseEvent hP _ _ _ (by decide) s

theorem allowed_imgShown {P : State → Eff → Prop} (hP : AllowsEvents P) {d : Nat} (hreg : ∀ s v, P s (.reg .bil d 0x118 v)) (st code : Nat) (busy : Bool) (s : State) :
    Allowed P (imgShown st code busy d s) s := by
  simp only [imgShown, allowed_seqA_cons, allowed_setF, allowed_setB, allowed_seqA_nil, and_true]
  exact ⟨hreg .., hreg .., hreg .., allowed_dieEvent hP d _⟩

theorem allowed_imgState {P : State → Eff → Prop} (hP : AllowsEvents P) {p : Nat} {s : State} (hreg : ∀ d ∈ s.partDies p, ∀ s v, P s (.reg .bil d 0x118 v)) (st code : Nat) (busy : Bool) :
    Allowed P (imgState p st code busy s) s := by
  simp only [imgState, onDies, allowed_withA]
  exact allowed_forA _ _ _ fun d hd s => allowed_imgShown hP (hreg d hd) st code busy s

/-- No event entry is a register of the billeter. -/
theorem not_evtKey_bil {i o : Nat} (hi : i < 1048576) (ho : o < 65536) : ¬ evtKey (regKey .bil i o) := fun h => not_shardKey_bil hi ho (.inl h)

section
variable {s : State} (hc : s.canon = true)
include hc

theorem imgShown_shows {st code : Nat} (hst : st < 16) (busy : Bool) {d : Nat} (hd : d < 32) :
    ShowsImg st (code % 256) busy d (after (imgShown st code busy d) s) := by
  obtain ⟨u, hu⟩ : ∃ u, u = after (seqA [setF F.BIL_IMG_STS_STATE d st, setF F.BIL_IMG_STS_CODE d code, setB F.BIL_IMG_STS_BUSY d busy]) s := ⟨_, rfl⟩
  have hcu : u.canon = true := hu ▸ after_canon _ s hc
  have hrun : after (imgShown st code busy d) s = after (dieEvent d) u := by
    rw [hu, imgShown]
    simp only [after_seqA_cons, after_seqA_end]
  have hshow : ShowsImg st (code % 256) busy d u := by
    refine ⟨?_, ?_, ?_⟩ <;> rw [hu] <;>
    simp (disch := repeat' (first | assumption | apply after_canon | decide)) only [State.flag, setB, after_seqA_cons, after_seqA_end, fld_set_bits, fld_set_same]
    · exact Nat.mod_eq_of_lt hst
    · rfl
    · cases busy <;> rfl
  rw [hrun]
  refine hshow.congr (after_regIn hcu (p := evtKey) (allowed_dieEvent (fun s e he _ => ?_) d u) (not_evtKey_bil (by omega) (by decide)))
  cases e with
  | reg => exact he
  | lost => exact he.elim
  | _ => trivial

/-- The state of an image is shown on every die of its partition. -/
theorem imgState_shows {p st code : Nat} (hst : st < 16) (busy : Bool) {t : State} (ht : t = after (imgState p st code busy) s) :
    ∀ d ∈ s.partDies p, ShowsImg st (code % 256) busy d t := by
  have ht' : t = after (forA (s.partDies p) (imgShown st code busy)) s := by
    rw [ht, imgState, onDies, after_withA]
    rfl
  rw [ht']
  refine forA_each hc (fun d hd s hc => imgShown_shows hc hst busy (mem_partDies.1 hd).1) fun e he d hd hne s hc h => ?_
  obtain ⟨hd32, -⟩ := mem_partDies.1 hd
  obtain ⟨he32, -⟩ := mem_partDies.1 he
  refine h.congr (after_regIn hc (p := fun k => evtKey k ∨ k = regKey .bil e 0x118)
    (allowed_imgShown (fun s x hx _ => ?_) (fun _ _ => .inr rfl) st code busy s) ?_)
  · cases x with
    | reg => exact .inl hx
    | lost => exact hx.elim
    | _ => trivial
  · rintro (h | h)
    · exact not_evtKey_bil (by omega) (by decide) h
    · exact hne (regKey_inj (by omega) (by omega) (by decide) (by decide) h).2.1

end

/-! ## The end of a load or check -/

theorem allowed_imgFailAt {P : State → Eff → Prop} {p : Nat} {s : State} (hreg : ∀ d ∈ s.partDies p, ∀ s v, P s (.reg .bil d F.BIL_IMG_STS_FAIL_SECT.off v)) (sect idx : Nat) (tgt : Bool) :
    Allowed P (imgFailAt p sect idx tgt s) s := by
  simp only [imgFailAt, onDies, allowed_withA]
  refine allowed_forA _ _ _ fun d hd s => ?_
  simp only [allowed_seqA_cons, allowed_setF, allowed_setB, allowed_seqA_nil, and_true]
  exact ⟨hreg d hd .., hreg d hd .., hreg d hd ..⟩

section
variable {s : State} (hc : s.canon = true)
include hc

omit hc in
theorem partDies_congr {t : State} (h : t.nvm.ptab = s.nvm.ptab) (p : Nat) : t.partDies p = s.partDies p := by
  simp only [State.partDies, State.part, h]

theorem ptab_release (p : Nat) : (after (release p) s).nvm.ptab = s.nvm.ptab := by
  refine ptab_after hc (allowed_release (p := p) (fun s e he => ?_) s)
  cases e with
  | nvm n =>
    have h := congrArg Nvm.ptab he.1
    exact h
  | lost => exact he.elim
  | _ => trivial

/-- The end of a load or check: the partition is released, and every die of it shows how it ended. -/
theorem imgEnd_shows {p st code : Nat} (hst : st < 16) (f : Option ImgFail) {t : State} (ht : t = after (imgEnd p st code f) s) :
    (∀ d ∈ s.partDies p, ShowsImg st (code % 256) false d t) ∧ t.job p = Job.zero ∧ JobsBut [p] s t ∧ t.cells = s.cells ∧ t.passages = s.passages ∧
      t.fld F.LDR_ERR_FAILED p = s.fld F.LDR_ERR_FAILED p := by
  obtain ⟨u, hu⟩ : ∃ u, u = after (release p) s := ⟨_, rfl⟩
  obtain ⟨v, hv⟩ : ∃ v, v = after (imgFailAt p (f.elim 0 ImgFail.sect) (f.elim 0 ImgFail.idx) (f.any ImgFail.tgt)) u := ⟨_, rfl⟩
  have htv : t = after (imgState p st code false) v := by
    rw [ht, imgEnd, after_seqA_cons, after_seqA_cons, after_seqA_cons, after_seqA_end, ← hu, ← hv]
  have hcu : u.canon = true := hu ▸ after_canon _ s hc
  have hcv : v.canon = true := hv ▸ after_canon _ u hcu
  have hfu := release_frame p hu
  have hfv : v = { u with regs := v.regs } := hv ▸ after_overlay [.regs] (allowed_imgFailAt (by simp) ..)
  have hft : t = { v with regs := t.regs, nvm := t.nvm, keeper := t.keeper, ports := t.ports, free := t.free, out := t.out } := htv ▸
    after_overlay [.regs, .nvm, .keeper, .ports, .free, .out] (allowed_imgState (allowsEvents_onlyFields (List.Subset.refl _)) (by simp) ..)
  have hpd : v.partDies p = s.partDies p := partDies_congr (by rw [hfv]; exact hu ▸ ptab_release hc p) p
  have hjt : ∀ q, t.job q = u.job q := fun q => by rw [hft, hfv]; rfl
  refine ⟨hpd ▸ imgState_shows hcv hst false htv, (hjt p).trans (job_release hc p hu), fun q hq => (hjt q).trans (jobsBut_release hc p hu q hq), ?_, ?_, ?_⟩
  · rw [hft, hfv, hfu]
  · rw [hft, hfv, hfu]
  · have h1 : t.fld F.LDR_ERR_FAILED p = v.fld F.LDR_ERR_FAILED p := by
      rw [htv]
      refine fld_after_of_regIn hcv (p := fun k => evtKey k ∨ ∃ d, k = regKey .bil d 0x118) (allowed_imgState (fun s x hx _ => ?_) (fun d _ _ _ => .inr ⟨d, rfl⟩) ..) ?_
      · cases x with
        | reg => exact .inl hx
        | lost => exact hx.elim
        | _ => trivial
      · rintro (h | ⟨d, h⟩)
        · exact not_evtKey_of_off (by decide) h
        · exact regKey_ne_of_off (by decide) h
    have h2 : v.fld F.LDR_ERR_FAILED p = u.fld F.LDR_ERR_FAILED p := by
      rw [hv]
      refine fld_after_of_regIn hcu (p := fun k => ∃ d, k = regKey .bil d F.BIL_IMG_STS_FAIL_SECT.off) (allowed_imgFailAt (fun d _ _ _ => ⟨d, rfl⟩) ..) ?_
      rintro ⟨d, h⟩
      exact regKey_ne_of_off (by decide) h
    rw [h1, h2, fld_release hc p hu (f := F.LDR_ERR_FAILED) not_releaseKey_err]

end

end Sys2Proof.Machine
end

section
/-!
SUPPORT. Members and peers that fail, and LDR_SSTAT (R291, R292).
-/
namespace Sys2Proof.Machine

section
variable {s : State} (hc : s.canon = true) {part : Fin 16} {k : BitVec 24} {h : Shard} (hk : (s.job part.val).inUse[k.toNat]? = some h)
include hk

/-- A member before that is silent for too long asks for a further try. -/
theorem exec_upstreamTimeout (hst : h.st = 1 ∨ h.st = 2) (htmo : 1000000 * max 1 (s.fld F.LDR_CFG_TMO part.val) ≤ (s.mile - h.mile).toNat) (hsrc : h.source = 2) :
    exec (.upstreamTimeout part k) s = .next (after (tryAgain part.val k.toNat 6 0 (askMissing part.val k.toNat)) s) := by
  refine congrArg Host.Outcome.next (after_congr ?_)
  have hcond : ¬ (3 ≤ h.st ∨ h.st = 0 ∨ (s.mile - h.mile).toNat < 1000000 * max 1 (s.fld F.LDR_CFG_TMO part.val)) := by omega
  simp only [hk, hcond, hsrc, if_false, if_true]

include hc

/-- A peer that fails leaves the shard FAILED, and with it the load. -/
theorem peer_fails (hst : h.st = 1 ∨ h.st = 2) (htmo : 1000000 * max 1 (s.fld F.LDR_CFG_TMO part.val) ≤ (s.mile - h.mile).toNat) (hsrc : h.source = 3)
    (hsw : (s.job part.val).swap = none) (himg : s.imgSt part.val = 3) : ∃ t, exec (.upstreamTimeout part k) s = .next t ∧
      t.fld F.LDR_ERR_FAILED part.val = min (s.fld F.LDR_ERR_FAILED part.val + 1) F.LDR_ERR_FAILED.top ∧
      (∀ d ∈ s.partDies part.val, t.fld F.BIL_IMG_STS_STATE d = 6 ∧ t.fld F.BIL_IMG_STS_CODE d = 16) ∧ t.cells = s.cells := by
  obtain ⟨f, hf⟩ : ∃ f : Shard → Shard, f = fun x => { x with st := 6, cause := 6 } := ⟨_, rfl⟩
  obtain ⟨u, hu⟩ : ∃ u, u = after (modShard part.val k.toNat f) s := ⟨_, rfl⟩
  obtain ⟨v, hv⟩ : ∃ v, v = after (bump F.LDR_ERR_FAILED part.val 1) u := ⟨_, rfl⟩
  obtain ⟨w, hw⟩ : ∃ w, w = after (seqA [emit (.slice part.val "SHARD_FAILED" k.toNat 0), emit (.slice part.val "FAILED" 16 0)]) v := ⟨_, rfl⟩
  obtain ⟨x, hx⟩ : ∃ x, x = after (imgEnd part.val 6 16 none) w := ⟨_, rfl⟩
  obtain ⟨t, ht⟩ : ∃ t, t = after (setF F.LDR_STS_PHASE part.val 5) x := ⟨_, rfl⟩
  have hcu : u.canon = true := hu ▸ after_canon _ s hc
  have hcv : v.canon = true := hv ▸ after_canon _ u hcu
  have hcw : w.canon = true := hw ▸ after_canon _ v hcv
  have hcx : x.canon = true := hx ▸ after_canon _ w hcw
  obtain ⟨hfu, hju, -⟩ := shardOnly_after (a := modShard part.val k.toNat f) hc fun hP => allowed_modShard hP _ f s
  rw [← hu] at hfu hju
  have hfv : v = { u with regs := v.regs } := hv ▸ after_overlay [.regs] (by simp)
  have hfw : w = { v with out := w.out } := hw ▸ after_overlay [.out] (by simp)
  have hft : t = { x with regs := t.regs } := ht ▸ after_overlay [.regs] (by simp)
  have hptab : u.nvm.ptab = s.nvm.ptab := by
    rw [hu]
    refine ptab_after hc (allowed_modShard (p := part.val) (fun s e he => ?_) _ f s)
    cases e with
    | nvm n =>
      have h := congrArg Nvm.ptab he.1
      exact h
    | lost => exact he.elim
    | _ => trivial
  have hpd : ∀ {y : State}, y.nvm.ptab = u.nvm.ptab → y.partDies part.val = s.partDies part.val := fun h => partDies_congr (h.trans hptab) _
  have hfldu : ∀ {g : Fld} {i : Nat}, ¬ shardKey (regKey g.blk i g.off) → u.fld g i = s.fld g i := fun hg =>
    hu ▸ fld_after_of_regIn hc (allowed_modShard (p := part.val) allowsShards_regs _ f s) hg
  have hpdw : w.partDies part.val = s.partDies part.val := hpd (by rw [hfw, hfv])
  obtain ⟨hshow, -, -, hcells, -, herr⟩ := imgEnd_shows hcw (by decide) none hx
  refine ⟨t, congrArg Host.Outcome.next ((after_congr (b := seqA [modShard part.val k.toNat f, bump F.LDR_ERR_FAILED part.val 1,
    emit (.slice part.val "SHARD_FAILED" k.toNat 0), loadFailed part.val 16]) ?_).trans ?_), ?_, fun d hd => ?_, ?_⟩
  · have hcond : ¬ (3 ≤ h.st ∨ h.st = 0 ∨ (s.mile - h.mile).toNat < 1000000 * max 1 (s.fld F.LDR_CFG_TMO part.val)) := by omega
    simp only [hk, hcond, hsrc, shardFailed, hsw, himg, hf, Option.isSome_none, Bool.false_eq_true, if_false, if_true, Nat.reduceEqDiff]
  · rw [loadFailed]
    simp only [after_seqA_cons, after_seqA_end] at hw ⊢
    rw [← hu, ← hv, ← hw, ← hx, ← ht]
  · have h1 : t.fld F.LDR_ERR_FAILED part.val = x.fld F.LDR_ERR_FAILED part.val := by rw [ht, fld_set_off hcx _ _ _ _ _ (by decide)]
    have h2 : w.fld F.LDR_ERR_FAILED part.val = v.fld F.LDR_ERR_FAILED part.val := by rw [hfw]; rfl
    rw [h1, herr, h2, hv, fld_bump_same hcu _ _ _ (by decide), hfldu (g := F.LDR_ERR_FAILED) (not_shardKey_ldr (by decide) (by decide))]
  · obtain ⟨h1, h2, -⟩ := hshow d (hpdw ▸ hd)
    have hother : ∀ g : Fld, g.blk = .bil → g.off = 0x118 → t.fld g d = x.fld g d := fun g hb ho => by
      have hd32 := (mem_partDies.1 hd).1
      have hp16 := part.isLt
      have hne : regKey g.blk d g.off ≠ regKey .ldr part.val 0x118 := by
        rw [hb, ho]
        exact regKey_ne_of_blk (by decide) (by omega)
      rw [ht]
      exact fld_setF_reg x hcx F.LDR_STS_PHASE g part.val d 5 hne
    exact ⟨(hother _ rfl rfl).trans h1, (hother _ rfl rfl).trans h2⟩
  · have hct : t.cells = x.cells := by rw [hft]
    have hcs : w.cells = s.cells := by rw [hfw, hfv, hfu]
    exact (hct.trans hcells).trans hcs

end

/-! ## LDR_SSTAT -/

theorem sstatWrite_shows {s : State} (hc : s.canon = true) {src : Src} {v : Word} {p : Nat} (hp : s.bank src .ldr = p) (ht : s.takes src .ldr p 0x110 = true) :
    ∃ t, exec (.sstatWrite src v) s = .next t ∧
      (bitsOf v 63 63 = 0 ∨ s.owns p (bitsOf v 47 6 * 64) (16 * max 1 (s.job p).inUse.length) = true →
        t.fld F.LDR_SSTAT_EN p = bitsOf v 63 63 ∧ t.fld F.LDR_SSTAT_ADDR p = bitsOf v 47 6) ∧
      (¬ (bitsOf v 63 63 = 0 ∨ s.owns p (bitsOf v 47 6 * 64) (16 * max 1 (s.job p).inUse.length) = true) → t = s) ∧
      RegsBut [regKey .ldr p 0x110] s t ∧ t = { s with regs := t.regs } := by
  have hbit : bitsOf v 63 63 = 0 ∨ bitsOf v 63 63 = 1 := by
    have : bitsOf v 63 63 < 2 := bitsOf_lt ..
    omega
  have hact : hostSstatWrite src v s = (if bitsOf v 63 63 = 1 ∧ s.owns p (bitsOf v 47 6 * 64) (16 * max 1 (s.job p).inUse.length) = false then []
      else writeReg .ldr p 0x110 v s) := by
    simp only [hostSstatWrite, hp, guardW_of_takes ht]
  by_cases hcond : bitsOf v 63 63 = 1 ∧ s.owns p (bitsOf v 47 6 * 64) (16 * max 1 (s.job p).inUse.length) = false
  · refine ⟨s, congrArg Host.Outcome.next ((after_congr (b := skip) ?_).trans (after_skipped s)), fun h => ?_, fun _ => rfl, fun _ _ => rfl, rfl⟩
    · rw [hact, if_pos hcond]
      rfl
    · obtain ⟨h1, h2⟩ := hcond
      rw [h1, h2] at h
      exact absurd h (by decide)
  · obtain ⟨t, htt⟩ : ∃ t, t = after (writeReg .ldr p 0x110 v) s := ⟨_, rfl⟩
    refine ⟨t, congrArg Host.Outcome.next ((after_congr (b := writeReg .ldr p 0x110 v) ?_).trans htt.symm), fun _ => ⟨?_, ?_⟩, fun h => ?_,
      htt ▸ after_regsBut hc (by simp), htt ▸ after_overlay [.regs] (by simp)⟩
    · rw [hact, if_neg hcond]
    · exact htt ▸ fld_storeRW hc (f := F.LDR_SSTAT_EN) 0 (by decide)
    · exact htt ▸ fld_storeRW hc (f := F.LDR_SSTAT_ADDR) 0 (by decide)
    · refine absurd (hbit.imp_right fun h1 => ?_) h
      exact Bool.eq_true_of_not_eq_false fun h0 => hcond ⟨h1, h0⟩

end Sys2Proof.Machine

open Sys2Proof Sys2Proof.Machine

/-- Settles O33: a shard's record in the job follows its tries, its landed ranges and its peers, and a status record is a store in the stack. -/
theorem shardTraffic : Obligations.ShardTraffic := by
  refine ⟨fun s part k h hc hk => ⟨fun c cause nv off status data hst hsrc hoff hstat hcm htmo => ?_, fun hm => nvmeTimeout_early hk hm,
    fun a hsw ha hp he => ⟨fun off data hst hsrc hoff hlen hheld => nvmeCompletion_lands hc hk hsw ha hp he hst hsrc hoff hlen hheld,
      fun r peer data hst hsrc hr hlen hbytes hheld => forwardedRecord_lands hc hk hsw ha hp he hst hsrc hr hlen hbytes hheld⟩,
    fun hst htmo => ⟨fun hsrc ht => ?_, fun r hsrc ht hr => ?_, fun hsrc hsw himg => peer_fails hc hk hst htmo hsrc hsw himg⟩⟩,
    fun s src v hc => fun ht => sstatWrite_shows hc rfl ht⟩
  · obtain ⟨h5, nvme, ask, he, hn, hask⟩ := failedRead_tries hk hst hsrc hoff hstat hcm htmo
    refine ⟨fun ht => ⟨_, he, ?_⟩, fun r ht hr => ⟨_, he, tryAgain_asks hc hk (.inr hst) ht hr rfl⟩⟩
    obtain ⟨h1, h2, h3⟩ := tryAgain_tries hc hask hk (.inr hst) ht h5 (nvme := nvme) rfl
    rw [hn] at h1
    refine ⟨h1.trans ?_, h2, h3⟩
    rw [← hst, ← hsrc]
  · obtain ⟨h1, -, h3⟩ := tryAgain_tries hc (ask := askMissing part.val k.toNat) (fun ho x => allowed_askMissing ho _ _ x) hk hst ht (cause := 6) (nvme := 0) (by decide) rfl
    exact ⟨_, exec_upstreamTimeout hk hst htmo hsrc, h1, h3⟩
  · obtain ⟨h1, -, h3⟩ := tryAgain_asks hc (ask := askMissing part.val k.toNat) (cause := 6) (nvme := 0) hk hst ht hr rfl
    exact ⟨_, exec_upstreamTimeout hk hst htmo hsrc, h1, h3⟩

end

section
/-!
SUPPORT. LOAD, CHECK and UNLOAD of an image (R167, R169, R170).
-/
namespace Sys2Proof.Machine

/-! ## Accesses at the slices leave an image as it reads -/

section
variable {L : List Nat} {s t : State} (h : ButSlices L s t)
include h

theorem ButSlices.imgHeader_eq (p a len : Nat) : t.imgHeader p a len = s.imgHeader p a len := by
  simp only [State.imgHeader, h.num_eq, h.owns_eq, h.poisoned_eq, h.bytes_eq]

/-- A change of the jobs on both sides. -/
theorem ButSlices.withJobs (j : SMap Job) : ButSlices L { s with jobs := j } { t with jobs := j } := by
  obtain ⟨h1, h2, h3, h4, h5, h6⟩ := h
  exact ⟨by rw [h1], h2, h3, h4, h5, h6⟩

end

/-! ## What the dies show -/

/-- The registers of the dies of a partition that show its image's state. -/
def imgKeys (s : State) (p : Nat) : List Nat := (s.partDies p).map fun e => regKey .bil e F.BIL_IMG_STS_STATE.off

section
variable {s : State} (hc : s.canon = true)
include hc

/-- The state of an image and where a check failed, as every die of the partition shows them. -/
theorem imgShow_shows {p st code : Nat} (hst : st < 16) (busy : Bool) (sect idx : Nat) (tgt : Bool) {t : State}
    (ht : t = after (seqA [imgFailAt p sect idx tgt, imgState p st code busy]) s) :
    (∀ e ∈ s.partDies p, ShowsImg st (code % 256) busy e t) ∧ ButSlices (imgKeys s p) s t := by
  obtain ⟨u, hu⟩ : ∃ u, u = after (imgFailAt p sect idx tgt) s := ⟨_, rfl⟩
  have htu : t = after (imgState p st code busy) u := by rw [ht, after_seqA_cons, after_seqA_cons, after_seqA_end, ← hu]
  have hcu : u.canon = true := hu ▸ after_canon _ s hc
  have hkey : ∀ d ∈ s.partDies p, ∀ (s : State) v, SlicedBut (imgKeys s p) s (.reg .bil d F.BIL_IMG_STS_STATE.off v) ∨ True := fun _ _ _ _ => .inr trivial
  have hmem : ∀ {d : Nat}, d ∈ s.partDies p → regKey .bil d 0x118 ∈ imgKeys s p := fun hd => List.mem_map.2 ⟨_, hd, rfl⟩
  have hbu : ButSlices (imgKeys s p) s u := hu ▸ after_butSlices hc (allowed_imgFailAt (fun d hd _ _ => .inl (hmem hd)) sect idx tgt)
  have hpd : u.partDies p = s.partDies p := hbu.partDies_eq p
  exact ⟨hpd ▸ imgState_shows hcu hst busy htu, (composes_slices _).trans _ _ _ hbu (htu ▸ after_butSlices hcu
    (allowed_imgState (allowsSlices_slicedBut _).reports.events (fun d hd _ _ => .inl (hmem (hpd ▸ hd))) st code busy))⟩

/-- A read that must lie in the partition's regions, of bytes no host holds exclusively. -/
theorem ownedRead_reads {p a n : Nat} (hh : (s.heldE a n).isEmpty = true) (act : Act) :
    ∃ w, w.canon = true ∧ ButSlices [] s w ∧ after (ownedRead p a n act) s = after act w := by
  by_cases ho : s.owns p a n = true
  · exact ⟨after (sliceReads true a n) s, after_canon _ s hc, butSlices_sliceReads hc true a n, by
      rw [ownedRead, after_iteA, if_pos ho, after_unitRead hh]⟩
  · exact ⟨s, hc, (composes_slices []).refl s, by rw [ownedRead, after_iteA, if_neg ho]⟩

end

/-! ## LOAD and CHECK -/

section
variable {s : State} (hc : s.canon = true) {src : Src} {d : Fin 32} {v : Word} (ht : s.takes src .bil d.val 0x110 = true) (hgo : bitsOf v 0 0 = 1)
  (hp : s.part d.val < 16) (hb : s.flag F.BIL_IMG_STS_BUSY d.val = false)

include ht in
/-- A write of Keeper firmware starts nothing. -/
theorem imgCmd_of_keeper (hk : src = .keeper) : after (imgCmd src d.val v) s = after (storeRW .bil d.val 0x110 v) s := by
  refine after_congr ?_
  rw [imgCmd, guardW_of_takes ht]
  simp only [hk, or_true, if_true]

include ht hgo hp hb in
theorem imgCmd_starts (hk : src ≠ .keeper) (hop : bitsOf v 3 1 = 1 ∨ bitsOf v 3 1 = 3) (hst : s.fld F.BIL_IMG_STS_STATE d.val = 0 ∨ s.fld F.BIL_IMG_STS_STATE d.val = 6) :
    after (imgCmd src d.val v) s = after (imgStart (s.part d.val) d.val (bitsOf v 3 1)) (after (storeRW .bil d.val 0x110 v) s) := by
  rw [after_congr (a := imgCmd src d.val v) (b := seqA [storeRW .bil d.val 0x110 v, imgStart (s.part d.val) d.val (bitsOf v 3 1)]),
    after_seqA_cons, after_seqA_cons, after_seqA_end]
  rw [imgCmd, guardW_of_takes ht]
  have h1 : ¬ (bitsOf v 0 0 = 0 ∨ src = .keeper) := by simp [hgo, hk]
  have h2 : ¬ 16 ≤ s.part d.val := by omega
  simp only [h1, hb, Bool.false_eq_true, false_and, if_false, h2, hop, if_true, hst]

include hc hgo hp hb ht

/-- LOAD or CHECK goes on as the header's checks say. -/
theorem imgCmd_shows (hk : src ≠ .keeper) (hop : bitsOf v 3 1 = 1 ∨ bitsOf v 3 1 = 3)
    (hst : s.fld F.BIL_IMG_STS_STATE d.val = 0 ∨ s.fld F.BIL_IMG_STS_STATE d.val = 6) {u : State} (hu : u = after (storeRW .bil d.val 0x110 v) s)
    {a len : Nat} (ha : a = u.fld F.BIL_IMG_ADDR_ADDR d.val * 64) (hlen : len = u.fld F.BIL_IMG_LEN_LEN d.val)
    (hh : (s.heldE a 640).isEmpty = true) {t : State} (htt : t = after (imgCmd src d.val v) s) :
    (u.imgHeader (s.part d.val) a len = none →
      t.job (s.part d.val) = { Job.zero with live := bitsOf v 3 1 == 1, op := bitsOf v 3 1, addr := a, len := len, job := F.BIL_IMG_CMD_JOB.of v } ∧
      (∀ e ∈ s.partDies (s.part d.val), ShowsImg 1 0 true e t) ∧ JobsBut [s.part d.val] s t ∧
      ButSlices (regKey .bil d.val 0x110 :: imgKeys s (s.part d.val)) { s with jobs := t.jobs } t) ∧
    (∀ f, u.imgHeader (s.part d.val) a len = some f →
      (∀ e ∈ s.partDies (s.part d.val), ShowsImg 6 (f.code % 256) false e t) ∧ ButSlices (regKey .bil d.val 0x110 :: imgKeys s (s.part d.val)) s t) := by
  obtain ⟨p, hpp⟩ : ∃ p, p = s.part d.val := ⟨_, rfl⟩
  obtain ⟨op, hopp⟩ : ∃ op, op = bitsOf v 3 1 := ⟨_, rfl⟩
  rw [← hpp, ← hopp]
  have hcu : u.canon = true := hu ▸ after_canon _ s hc
  have hfu : u = { s with regs := u.regs } := hu ▸ after_overlay [.regs] (a := storeRW .bil d.val 0x110 v) (by simp [storeRW])
  have hbu : ButSlices (regKey .bil d.val 0x110 :: imgKeys s p) s u := hu ▸ after_butSlices hc (by
    simp only [storeRW, allowed_writeReg]
    exact fun _ _ => .inl (List.mem_cons_self ..))
  obtain ⟨act, hact⟩ : ∃ act : Act, act = fun s => match s.imgHeader p a len with
    | some f => seqA [imgFailAt p f.sect f.idx f.tgt, imgState p 6 f.code false] s
    | none => seqA [modJob p fun _ => { Job.zero with
          live := op == 1, op := op, addr := a, len := len, job := s.fld F.BIL_IMG_CMD_JOB d },
        imgFailAt p 0 0 false, imgState p 1 0 true] s := ⟨_, rfl⟩
  obtain ⟨w, hcw, hbw, hrun⟩ := ownedRead_reads hcu (p := p) (a := a) (n := 640) (by rw [hfu]; exact hh) act
  have htw : t = after act w := by
    rw [htt, imgCmd_starts ht hgo hp hb hk hop hst, ← hu, ← hpp, ← hopp, ← hrun]
    subst ha hlen hact
    exact after_congr rfl
  have hsw : ButSlices (regKey .bil d.val 0x110 :: imgKeys s p) s w := (composes_slices _).trans _ _ _ hbu (hbw.mono (List.nil_subset _))
  have hpd : w.partDies p = s.partDies p := hsw.partDies_eq p
  have hkeys : imgKeys w p = imgKeys s p := by rw [imgKeys, hpd, imgKeys]
  have hhead : w.imgHeader p a len = u.imgHeader p a len := hbw.imgHeader_eq p a len
  refine ⟨fun hn => ?_, fun f hf => ?_⟩
  · obtain ⟨x, hx⟩ : ∃ x, x = after (modJob p fun _ => { Job.zero with
          live := op == 1, op := op, addr := a, len := len, job := w.fld F.BIL_IMG_CMD_JOB d.val }) w := ⟨_, rfl⟩
    have hcx : x.canon = true := hx ▸ after_canon _ w hcw
    have htx : t = after (seqA [imgFailAt p 0 0 false, imgState p 1 0 true]) x := by
      rw [htw, after_congr (a := act) (b := seqA [modJob p fun _ => { Job.zero with
          live := op == 1, op := op, addr := a, len := len, job := w.fld F.BIL_IMG_CMD_JOB d.val }, imgFailAt p 0 0 false, imgState p 1 0 true])
        (by simp only [hact, hhead, hn]), after_seqA_cons, ← hx]
    have hpx : x.partDies p = s.partDies p := hpd ▸ partDies_congr (by rw [hx]; rfl) p
    have hkx : imgKeys x p = imgKeys s p := by rw [imgKeys, hpx, imgKeys]
    have hjx : ∀ q, x.job q = if q = p then { Job.zero with
        live := op == 1, op := op, addr := a, len := len, job := w.fld F.BIL_IMG_CMD_JOB d.val } else w.job q := fun q => by
      rw [hx, modJob, after_eff, job_ap_job w hcw]
    obtain ⟨hshow, hbx⟩ := imgShow_shows hcx (by decide) true 0 0 false htx
    have hjt : ∀ q, t.job q = x.job q := fun q => hbx.job_eq q
    have hjob : w.fld F.BIL_IMG_CMD_JOB d.val = F.BIL_IMG_CMD_JOB.of v := by
      rw [hbw.fld List.not_mem_nil (by decide) (by omega) (by decide), hu]
      exact fld_storeRW hc (f := F.BIL_IMG_CMD_JOB) 0 (by decide)
    refine ⟨?_, hpx ▸ hshow, fun q hq => ?_, ?_⟩
    · rw [hjt, hjx, if_pos rfl, hjob]
    · rw [hjt, hjx, if_neg (by simpa using hq)]
      exact hsw.job_eq q
    · have hjobs : t.jobs = x.jobs := by rw [hbx.frame]; rfl
      have hxw : x = { w with jobs := x.jobs } := hx ▸ rfl
      rw [hjobs]
      have h := hsw.withJobs x.jobs
      rw [← hxw] at h
      exact (composes_slices _).trans _ _ _ h (hbx.mono (hkx ▸ List.subset_cons_self ..))
  · have htx : t = after (seqA [imgFailAt p f.sect f.idx f.tgt, imgState p 6 f.code false]) w := by
      rw [htw]
      exact after_congr (by simp only [hact, hhead, hf])
    obtain ⟨hshow, hbx⟩ := imgShow_shows hcw (by decide) false f.sect f.idx f.tgt htx
    exact ⟨hpd ▸ hshow, (composes_slices _).trans _ _ _ hsw (hbx.mono (hkeys ▸ List.subset_cons_self ..))⟩

end

end Sys2Proof.Machine
end

section
/-!
SUPPORT. UNLOAD of an image: the start of its drain, and its end (R169).
-/
namespace Sys2Proof.Machine

/-! ## A field that actions keep -/

/-- The effects that keep field f of instance i. -/
def KeepsFld (f : Fld) (i : Nat) (s : State) (e : Eff) : Prop :=
  match e with
  | .reg b j o v => regKey f.blk i f.off = regKey b j o → bitsOf v f.hi f.lo = s.fld f i
  | .lost _ => False
  | _ => True

section
variable {f : Fld} {i : Nat}

theorem keepsFld_of_key {b : Blk} {j o : Nat} (h : regKey f.blk i f.off ≠ regKey b j o) (s : State) (v : Word) : KeepsFld f i s (.reg b j o v) :=
  fun he => absurd he h

/-- A write of other bits keeps a field. -/
theorem keepsFld_of_bits {g : Fld} {j : Nat} (hg : g.lo ≤ g.hi ∧ g.hi < 64) (hd : f.hi < g.lo ∨ g.hi < f.lo) (s : State) (v : Nat) :
    KeepsFld f i s (.reg g.blk j g.off (putBits (s.reg g.blk j g.off) g.hi g.lo v)) := fun he => by
  have hreg : s.reg g.blk j g.off = s.reg f.blk i f.off := by simp only [State.reg, he]
  rw [bitsOf_putBits_other _ _ _ _ _ _ hg.1 hg.2 hd, hreg]
  rfl

theorem fld_of_keepsFld {a : Act} {s : State} (hc : s.canon = true) (h : Allowed (KeepsFld f i) (a s) s) : (after a s).fld f i = s.fld f i := by
  refine Allowed.rel (R := fun s t => t.fld f i = s.fld f i) ⟨fun _ => rfl, fun _ _ _ h1 h2 => h2.trans h1⟩ (fun s e hc he => ?_) hc h
  cases e with
  | reg b j o v =>
    rw [State.fld, reg_ap_reg s hc]
    split
    · next hk => exact he hk
    · rfl
  | lost => exact he.elim
  | _ => rfl

theorem allowsEvents_keepsFld (h : ¬ evtKey (regKey f.blk i f.off)) : AllowsEvents (KeepsFld f i) := fun s e he _ => by
  cases e with
  | reg b j o v =>
    intro hk
    rw [hk] at h
    exact (h he).elim
  | lost => exact he.elim
  | _ => trivial

end

/-! ## Passages that an unload ends -/

/-- Passages that are not among those that end keep all but notes of their completions. -/
theorem passageNoted_endPassages {s : State} (hc : s.canon = true) (status : Nat) {l : List Nat} {i : Nat} (hi : i ∉ l) :
    PassageNoted (s.passage i) ((after (forA l fun i => endPassage i status) s).passage i) := by
  refine (after_passageRel (R := fun k x y => k ∈ l ∨ PassageNoted x y) (fun _ _ => .inr rfl) (fun k x y z h1 h2 => ?_) hc
    (allowed_forA _ _ s fun k hk s => allowed_endPassage (allowsEnds_passageRel fun _ _ _ h => .inr h) k status (fun _ _ => .inl hk) s) i).resolve_left hi
  obtain h1 | h1 := h1
  · exact .inl h1
  · exact h2.imp_right fun h2 => h1.trans h2

/-- The end of passages leaves the billeter's registers, which come before all that it writes. -/
theorem allowsEnds_bil : AllowsEnds (regIn fun k => 0x11 * 2 ^ 36 ≤ k) := fun _ e he => by
  have high : ∀ b i o, 0x11 ≤ Blk.code b → 0x11 * 2 ^ 36 ≤ regKey b i o := fun b i o hb => by
    unfold regKey
    omega
  cases e with
  | reg b i o v =>
    obtain ⟨n, w, -, -, hk⟩ | rfl | rfl | ⟨rfl, -⟩ | ⟨rfl, -⟩ | rfl := he
    · have hh : 0x11 * 2 ^ 36 ≤ regKey b i o := by
        rw [hk]
        exact high _ _ _ (by decide)
      exact hh
    all_goals exact high _ _ _ (by decide)
  | lost => exact he.elim
  | _ => trivial

theorem fld_endPassages_bil {s : State} (hc : s.canon = true) (status : Nat) (l : List Nat) {f : Fld} {i : Nat} (hb : f.blk = .bil) (hi : i < 1048576) (ho : f.off < 65536) :
    (after (forA l fun i => endPassage i status) s).fld f i = s.fld f i := by
  refine fld_after_of_regIn hc (allowed_endPassages allowsEnds_bil (fun _ _ _ => trivial) status l s) ?_
  have h1 : Blk.bil.code = 0x10 := rfl
  rw [hb]
  simp only [regKey]
  omega

/-! ## The start of an unload -/

section
variable {s : State} (hc : s.canon = true)
include hc

omit hc in
theorem allowed_abandonSwap {P : State → Eff → Prop} (hP : AllowsEvents P) {p : Nat} (hreg : ∀ s v, P s (.reg .ldr p F.LDR_SWAP_STS_STATE.off v)) (s : State) :
    Allowed P (abandonSwap p s) s := by
  simp only [abandonSwap, swapState, allowed_whenA, allowed_seqA_cons, allowed_setF, allowed_seqA_nil, and_true]
  exact fun _ => ⟨⟨hreg .., allowed_raiseEvent hP _ _ _ (by decide) _⟩, hreg .., hreg ..⟩

theorem unloadStart_shows {p ms : Nat} {t : State} (ht : t = after (unloadStart p ms) s) : (t.job p).op = 2 ∧ (t.job p).stopped = true ∧
    (t.job p).due = s.mile + BitVec.ofNat 64 (1000000 * ms) ∧
    (∀ e ∈ s.partDies p, t.fld F.BIL_IMG_STS_STATE e = 5 ∧ t.flag F.BIL_IMG_STS_BUSY e = true) ∧
    (∀ i ∈ s.partLive p, (s.passage i).st = 1 ∨ (s.passage i).st = 2 → t.faulted i 5) ∧
    (∀ i, i ∉ (s.partLive p).filter (fun i => (s.passage i).st == 1 || (s.passage i).st == 2) → (t.passage i).st = (s.passage i).st) ∧
    t.cells = s.cells ∧ t.trees = s.trees ∧ t.wins = s.wins ∧ t.bfp = s.bfp := by
  obtain ⟨l, hl⟩ : ∃ l, l = (s.partLive p).filter fun i => (s.passage i).st == 1 || (s.passage i).st == 2 := ⟨_, rfl⟩
  obtain ⟨f, hf⟩ : ∃ f : Job → Job, f = fun j => { j with op := 2, stopped := true, due := s.mile + BitVec.ofNat 64 (1000000 * ms) } := ⟨_, rfl⟩
  obtain ⟨u, hu⟩ : ∃ u, u = after (seqA [modJob p f, abandonSwap p]) s := ⟨_, rfl⟩
  obtain ⟨v, hv⟩ : ∃ v, v = after (imgState p 5 0 true) u := ⟨_, rfl⟩
  obtain ⟨w, hw⟩ : ∃ w, w = after (seqA [imgFailAt p 0 0 false, emit (.slice p "UNLOAD" 0 0)]) v := ⟨_, rfl⟩
  have htw : t = after (forA l fun i => endPassage i 5) w := by
    rw [ht, after_congr (a := unloadStart p ms) (b := seqA [modJob p f, abandonSwap p, imgState p 5 0 true, imgFailAt p 0 0 false, emit (.slice p "UNLOAD" 0 0),
      forA l fun i => endPassage i 5]) (by rw [unloadStart, hl, hf])]
    simp only [after_seqA_cons, after_seqA_end] at hu hw ⊢
    rw [← hu, ← hv, ← hw]
  have hcu : u.canon = true := hu ▸ after_canon _ s hc
  have hcv : v.canon = true := hv ▸ after_canon _ u hcu
  have hcw : w.canon = true := hw ▸ after_canon _ v hcv
  have hfu : u = State.overlay [.regs, .jobs, .nvm, .keeper, .ports, .free, .out] s u := hu ▸ after_overlay _ (a := seqA _) (by
    simp only [allowed_seqA_cons, allowed_modJob, allowed_seqA_nil, and_true]
    exact ⟨by simp, allowed_abandonSwap (allowsEvents_onlyFields (by simp)) (by simp) _⟩)
  have hfv : v = State.overlay [.regs, .nvm, .keeper, .ports, .free, .out] u v := hv ▸
    after_overlay _ (allowed_imgState (allowsEvents_onlyFields (by simp)) (by simp) ..)
  have hfw : w = State.overlay [.regs, .out] v w := hw ▸ after_overlay _ (a := seqA _) (by
    simp only [allowed_seqA_cons, allowed_emit, allowed_seqA_nil, and_true]
    exact ⟨allowed_imgFailAt (by simp) .., by simp⟩)
  have hft : t = State.overlay [.regs, .mem, .poison, .cores, .dies, .passages, .jobs, .ports, .snoopF, .nvm, .keeper, .free, .out] w t := htw ▸
    after_overlay _ (allowed_endPassages (allowsEnds_onlyFields (List.Subset.refl _)) (by simp) 5 l w)
  have hju : u.job p = f (s.job p) := by
    rw [hu, after_seqA_cons, after_seqA_cons, after_seqA_end]
    have hjob : (after (modJob p f) s).job p = f (s.job p) := by rw [modJob, after_eff, job_ap_job s hc, if_pos rfl]
    rw [← hjob]
    exact after_jobRel (R := fun _ x y => y = x) (fun _ _ => rfl) (fun _ _ _ _ h1 h2 => h2.trans h1) (after_canon _ s hc)
      (allowed_abandonSwap (fun s e he _ => by
        cases e with
        | job | lost => exact he.elim
        | _ => trivial) (fun _ _ => trivial) _) p
  have hjw : w.job p = f (s.job p) := by
    rw [hfw, hfv]
    exact hju
  have hjt : (t.job p).op = (w.job p).op ∧ (t.job p).stopped = (w.job p).stopped ∧ (t.job p).due = (w.job p).due := by
    rw [htw]
    refine after_jobRel (R := fun _ x y => y.op = x.op ∧ y.stopped = x.stopped ∧ y.due = x.due) (fun _ _ => ⟨rfl, rfl, rfl⟩)
      (fun _ _ _ _ h1 h2 => ⟨h2.1.trans h1.1, h2.2.1.trans h1.2.1, h2.2.2.trans h1.2.2⟩) hcw (allowed_endPassages (fun s e he => ?_) (fun _ _ _ => trivial) 5 l w) p
    cases e with
    | job q x =>
      change x = { s.job q with swap := x.swap, epoch := x.epoch, shadows := x.shadows, shards := x.shards } at he
      have h1 := congrArg Job.op he
      have h2 := congrArg Job.stopped he
      have h3 := congrArg Job.due he
      exact ⟨h1, h2, h3⟩
    | lost => exact he.elim
    | _ => trivial
  have hptab : u.nvm.ptab = s.nvm.ptab := by
    rw [hu]
    refine ptab_after hc (a := seqA _) ?_
    simp only [allowed_seqA_cons, allowed_modJob, allowed_seqA_nil, and_true]
    refine ⟨trivial, allowed_abandonSwap (fun s e he _ => ?_) (fun _ _ => trivial) _⟩
    cases e with
    | nvm n =>
      have h := congrArg Nvm.ptab he.1
      exact h
    | lost => exact he.elim
    | _ => trivial
  have hpas : ∀ i, w.passage i = s.passage i := fun i => by rw [hfw, hfv, hfu]; rfl
  obtain ⟨h1, h2, h3⟩ := hjt
  rw [hjw, hf] at h1 h2 h3
  refine ⟨h1, h2, h3, fun e he => ?_, fun i hi hst => ?_, fun i hi => ?_, by rw [hft, hfw, hfv, hfu]; rfl, by rw [hft, hfw, hfv, hfu]; rfl,
    by rw [hft, hfw, hfv, hfu]; rfl, by rw [hft, hfw, hfv, hfu]; rfl⟩
  · obtain ⟨he32, -⟩ := mem_partDies.1 he
    have hpd : u.partDies p = s.partDies p := partDies_congr hptab p
    obtain ⟨hs1, -, hs3⟩ := imgState_shows hcu (by decide) true hv e (hpd ▸ he)
    have hkeep : ∀ f : Fld, f.blk = .bil → f.off = 0x118 → f.hi < 8 → t.fld f e = v.fld f e := fun f hb ho hf8 => by
      have h1 : t.fld f e = w.fld f e := by
        rw [htw]
        exact fld_endPassages_bil hcw 5 l hb (by omega) (by rw [ho]; decide)
      have h2 : w.fld f e = v.fld f e := by
        rw [hw]
        refine fld_of_keepsFld hcv (a := seqA _) ?_
        simp only [allowed_seqA_cons, allowed_emit, allowed_seqA_nil, and_true, imgFailAt, onDies, allowed_withA]
        refine ⟨allowed_forA _ _ _ fun d _ s => ?_, trivial⟩
        simp only [allowed_seqA_cons, allowed_setF, allowed_setB, allowed_seqA_nil, and_true]
        exact ⟨keepsFld_of_bits (f := f) (g := F.BIL_IMG_STS_FAIL_SECT) (by decide) (.inl (lt_of_lt_of_le hf8 (by decide))) _ _,
          keepsFld_of_bits (f := f) (g := F.BIL_IMG_STS_FAIL_IDX) (by decide) (.inl (lt_of_lt_of_le hf8 (by decide))) _ _,
          keepsFld_of_bits (f := f) (g := F.BIL_IMG_STS_FAIL_TGT) (by decide) (.inl (lt_of_lt_of_le hf8 (by decide))) _ _⟩
      rw [h1, h2]
    refine ⟨(hkeep _ rfl rfl (by decide)).trans hs1, ?_⟩
    rw [State.flag, hkeep _ rfl rfl (by decide)]
    exact hs3
  · have hm : i ∈ l := hl ▸ List.mem_filter.2 ⟨hi, by simpa using hst⟩
    have hlive := (List.mem_filter.1 hi).2
    simp only [Bool.and_eq_true, Bool.not_eq_true'] at hlive
    obtain ⟨⟨ho, -⟩, hg⟩ := hlive
    exact htw ▸ faulted_endPassages hcw (.inl ⟨hm, by rw [hpas]; exact ho⟩) (by rw [hpas]; exact hg)
  · have h := passageNoted_endPassages hcw 5 (l := l) (i := i) (hl ▸ hi)
    rw [← htw, hpas, PassageNoted] at h
    rw [h]

end

end Sys2Proof.Machine
end

section
/-!
SUPPORT. The end of an image's checks, its drain, its load and its bind (R167–R170, R194).
-/
namespace Sys2Proof.Machine

/-! ## The image reads the same after accesses at the slices -/

section
variable {L : List Nat} {s t : State} (h : ButSlices L s t)
include h

theorem ButSlices.imgBody_eq (a len : Nat) : t.imgBody a len = s.imgBody a len := by
  have hdir : t.dir a = s.dir a := by rw [h.frame]; rfl
  have hcount : ∀ x, countOk t a x = countOk s a x := fun x => by rw [h.frame]; rfl
  have hslen : ∀ x, slenOk t a x = slenOk s a x := fun x => by rw [h.frame]; rfl
  have h11 : check11 t a = check11 s a := funext fun x => by rw [h.frame]; rfl
  have h12 : check12 t a = check12 s a := funext fun x => by rw [h.frame]; rfl
  have h13 : check13 t a = check13 s a := funext fun x => by rw [h.frame]; rfl
  simp only [State.imgBody, hdir, hcount, hslen, h11, h12, h13, h.poisoned_eq, h.num_eq, h.bytes_eq]

theorem ButSlices.stages_eq (a : Nat) : t.stages a = s.stages a := by rw [h.frame]; rfl

theorem ButSlices.manSect_eq (a : Nat) : t.manSect a = s.manSect a := by rw [h.frame]; rfl

theorem ButSlices.costIn_eq (hk : ∀ d < 32, regKey .bil d 0x220 ∉ L ∧ regKey .bil d 0x218 ∉ L) (p : Nat) : t.costIn p = s.costIn p := by
  have hd : (s.partDies p).headD 0 < 32 := by
    cases hl : s.partDies p with
    | nil => decide
    | cons d l => exact (mem_partDies.1 (hl ▸ List.mem_cons_self ..)).1
  have hreg : ∀ o, o < 65536 → regKey .bil ((s.partDies p).headD 0) o ∉ L → t.reg .bil ((s.partDies p).headD 0) o = s.reg .bil ((s.partDies p).headD 0) o := fun o ho hl => by
    obtain ⟨-, -, -, -, -, h6⟩ := h
    obtain ⟨he, hs⟩ := not_slice_key (b := .bil) (i := (s.partDies p).headD 0) (o := o) (by decide) (by omega) ho
    simp only [State.reg, h6 _ hl he hs]
  have hsens : t.sensors = s.sensors := by rw [h.frame]; rfl
  obtain ⟨-, -, h3, -⟩ := h
  have h1 := congrArg Nvm.tsum h3
  have h2 := congrArg Nvm.calr h3
  have h4 := congrArg Nvm.pos h3
  change t.nvm.tsum = s.nvm.tsum at h1
  change t.nvm.calr = s.nvm.calr at h2
  change t.nvm.pos = s.nvm.pos at h4
  have hpd : t.partDies p = s.partDies p := by
    have hptab := congrArg Nvm.ptab h3
    exact partDies_congr hptab p
  obtain ⟨hk1, hk2⟩ := hk _ hd
  simp only [State.costIn, hpd, hreg 0x220 (by decide) hk1, hreg 0x218 (by decide) hk2, hsens, h1, h2, h4]

end

/-! ## The image's identity -/

section
variable {s : State} (hc : s.canon = true)
include hc

/-- BIL_IMG_ID0–3 of every die of a partition show the image's identity. -/
theorem imgId_shows (p : Nat) (id : List Byte) {t : State} (ht : t = after (imgId p id) s) :
    (∀ e ∈ s.partDies p, ∀ k < 4, t.reg .bil e (0x120 + 8 * k) = BitVec.ofNat 64 (leAt id (8 * k) 8)) ∧
      RegsBut ((s.partDies p).flatMap fun e => [0x120, 0x128, 0x130, 0x138].map (regKey .bil e)) s t ∧ t = { s with regs := t.regs } := by
  have ht' : t = after (forA (s.partDies p) fun d => forA (List.range 4) fun k => setReg .bil d (0x120 + 8 * k) (BitVec.ofNat 64 (leAt id (8 * k) 8))) s := by
    rw [ht, imgId, onDies, after_withA]
  have hall : ∀ {P : State → Eff → Prop}, (∀ e ∈ s.partDies p, ∀ k < 4, ∀ s v, P s (.reg .bil e (0x120 + 8 * k) v)) →
      Allowed P (forA (s.partDies p) (fun d => forA (List.range 4) fun k => setReg .bil d (0x120 + 8 * k) (BitVec.ofNat 64 (leAt id (8 * k) 8))) s) s :=
    fun h => allowed_forA _ _ s fun d hd s => allowed_forA _ _ s fun k hk s => (allowed_setReg _ _ _ _ _).2 (h d hd k (List.mem_range.1 hk) _ _)
  refine ⟨fun e he k hk => ?_, ?_, ht' ▸ after_overlay [.regs] (hall (by simp))⟩
  · rw [ht']
    refine forA_each (Q := fun e t => ∀ k < 4, t.reg .bil e (0x120 + 8 * k) = BitVec.ofNat 64 (leAt id (8 * k) 8)) hc (fun d hd s hc k hk => ?_) (fun e he d hd hne s hc h k hk => ?_) e he k hk
    · refine forA_each (Q := fun k t => t.reg .bil d (0x120 + 8 * k) = BitVec.ofNat 64 (leAt id (8 * k) 8)) hc (fun k _ s hc => ?_) (fun j hj k hk hne s hc h => ?_) k (List.mem_range.2 hk)
      · rw [reg_setReg s hc, if_pos rfl]
      · have hne' : regKey .bil d (0x120 + 8 * k) ≠ regKey .bil d (0x120 + 8 * j) := by
          simp only [regKey]
          omega
        rw [reg_setReg s hc, if_neg hne', h]
    · rw [← h k hk]
      obtain ⟨hd32, -⟩ := mem_partDies.1 hd
      obtain ⟨he32, -⟩ := mem_partDies.1 he
      have hkeep := after_regIn hc (p := fun k => ∃ o, o < 65536 ∧ k = regKey .bil e o)
        (a := forA (List.range 4) fun k => setReg .bil e (0x120 + 8 * k) (BitVec.ofNat 64 (leAt id (8 * k) 8))) (k := regKey .bil d (0x120 + 8 * k))
        (allowed_forA _ _ s fun k hk s => (allowed_setReg _ _ _ _ _).2 ⟨_, by have := List.mem_range.1 hk; omega, rfl⟩) (by
          rintro ⟨o, ho, hk'⟩
          exact hne (regKey_inj (by omega) (by omega) (by omega) ho hk').2.1)
      exact hkeep
  · rw [ht']
    refine after_regsBut hc (hall fun e he k hk s v => List.mem_flatMap.2 ⟨e, he, List.mem_map.2 ⟨0x120 + 8 * k, ?_, rfl⟩⟩)
    obtain rfl | rfl | rfl | rfl : k = 0 ∨ k = 1 ∨ k = 2 ∨ k = 3 := by omega
    all_goals decide

end

/-! ## The end of the checks -/

/-- A job whose image has passed its checks, as it goes on to BINDING. -/
def State.checkedJob (s : State) (p a : Nat) (j : Job) : Job := { j with
  bindIn := some (s.costIn p), due := s.mile + 1000000000, hdrCrc := s.num (a + 0x7C) 4, epoch := s.num (s.manSect a + 8) 2, stages := s.stages a }

/-- What the end of the checks does (R167 step 2). -/
def bodyChecked (p : Nat) (j : Job) : Act := fun s =>
  match s.imgBody j.addr j.len with
  | some f => imgEnd p 6 f.code (some f) s
  | none =>
    if j.op = 3 then imgEnd p 0 0 none s
    else seqA [modJob p fun x => { x with
        bindIn := some (s.costIn p), due := s.mile + 1000000000, hdrCrc := s.num (j.addr + 0x7C) 4, epoch := s.num (s.manSect j.addr + 8) 2, stages := s.stages j.addr },
      imgId p (s.bytes (j.addr + 0x18) 32), imgState p 2 0 true] s

section
variable {s : State} (hc : s.canon = true) {part : Fin 16} {j : Job} (hj : j = s.job part.val) (hst : s.imgSt part.val = 1) (hop : j.op = 1 ∨ j.op = 3)
  (hh : (s.heldE j.addr j.len).isEmpty = true)
include hc hj hst hop hh

/-- The checks read the image. -/
theorem imageChecksDone_reads : ∃ w, w.canon = true ∧ ButSlices [] s w ∧ exec (.imageChecksDone part) s = .next (after (bodyChecked part.val j) w) := by
  refine ⟨after (sliceReads true j.addr j.len) s, after_canon _ s hc, butSlices_sliceReads hc true j.addr j.len, congrArg Host.Outcome.next ?_⟩
  have hcond : ¬ (s.imgSt part.val ≠ 1 ∨ j.op = 0) := by omega
  rw [← after_unitRead hh]
  subst hj
  refine after_congr ?_
  simp only [hcond, if_false]
  exact rfl

/-- A failed check ends the load or check FAILED; a CHECK that passes ends it EMPTY. -/
theorem imageChecksDone_ends {st code : Nat} {f : Option ImgFail} (hlt : st < 16)
    (hbody : s.imgBody j.addr j.len = f) (hend : (∃ g, f = some g ∧ st = 6 ∧ code = g.code) ∨ f = none ∧ j.op = 3 ∧ st = 0 ∧ code = 0) :
    ∃ t, exec (.imageChecksDone part) s = .next t ∧ (∀ e ∈ s.partDies part.val, ShowsImg st (code % 256) false e t) ∧ t.job part.val = Job.zero ∧ t.cells = s.cells := by
  obtain ⟨w, hcw, hbw, hrun⟩ := imageChecksDone_reads hc hj hst hop hh
  obtain ⟨t, ht⟩ : ∃ t, t = after (imgEnd part.val st code f) w := ⟨_, rfl⟩
  have hcells : w.cells = s.cells := by rw [hbw.frame]; rfl
  have hact : bodyChecked part.val j w = imgEnd part.val st code f w := by
    obtain ⟨g, rfl, rfl, rfl⟩ | ⟨rfl, h3, rfl, rfl⟩ := hend
    · simp only [bodyChecked, hbw.imgBody_eq, hbody]
    · simp only [bodyChecked, hbw.imgBody_eq, hbody, h3, if_true]
  obtain ⟨h1, h2, -, h3, -⟩ := imgEnd_shows hcw hlt f ht
  exact ⟨t, by rw [hrun, after_congr hact, ht], hbw.partDies_eq _ ▸ h1, h2, h3.trans hcells⟩

/-- A LOAD whose image passes goes on to BINDING. -/
theorem imageChecksDone_binds (hbody : s.imgBody j.addr j.len = none) (h1 : j.op = 1) :
    ∃ t, exec (.imageChecksDone part) s = .next t ∧ (∀ e ∈ s.partDies part.val, ShowsImg 2 0 true e t) ∧ t.job part.val = s.checkedJob part.val j.addr j ∧
      (∀ e ∈ s.partDies part.val, ∀ k, k < 4 → t.reg .bil e (0x120 + 8 * k) = BitVec.ofNat 64 (s.num (j.addr + 0x18 + 8 * k) 8)) ∧ JobsBut [part.val] s t ∧
      ButSlices ((s.partDies part.val).flatMap fun e => [0x118, 0x120, 0x128, 0x130, 0x138].map (regKey .bil e)) { s with jobs := t.jobs } t := by
  obtain ⟨w, hcw, hbw, hrun⟩ := imageChecksDone_reads hc hj hst hop hh
  obtain ⟨L, hL⟩ : ∃ L, L = (s.partDies part.val).flatMap fun e => [0x118, 0x120, 0x128, 0x130, 0x138].map (regKey .bil e) := ⟨_, rfl⟩
  obtain ⟨u, hu⟩ : ∃ u, u = after (modJob part.val fun x => w.checkedJob part.val j.addr x) w := ⟨_, rfl⟩
  obtain ⟨v, hv⟩ : ∃ v, v = after (imgId part.val (w.bytes (j.addr + 0x18) 32)) u := ⟨_, rfl⟩
  obtain ⟨t, ht⟩ : ∃ t, t = after (imgState part.val 2 0 true) v := ⟨_, rfl⟩
  have hcu : u.canon = true := hu ▸ after_canon _ w hcw
  have hcv : v.canon = true := hv ▸ after_canon _ u hcu
  have hjw : w.job part.val = j := hj ▸ hbw.job_eq _
  have hchecked : w.checkedJob part.val j.addr j = s.checkedJob part.val j.addr j := by
    have hmile : w.mile = s.mile := by rw [hbw.frame]; rfl
    simp only [State.checkedJob, hbw.costIn_eq (fun _ _ => ⟨List.not_mem_nil, List.not_mem_nil⟩) part.val, hmile, hbw.num_eq, hbw.manSect_eq, hbw.stages_eq]
  have hju : ∀ q, u.job q = if q = part.val then s.checkedJob part.val j.addr j else w.job q := fun q => by
    rw [hu, modJob, after_eff, job_ap_job w hcw, hjw, hchecked]
  have hfu : u = { w with jobs := u.jobs } := hu ▸ rfl
  have hpu : u.partDies part.val = s.partDies part.val := hbw.partDies_eq part.val ▸ partDies_congr (by rw [hfu]) _
  obtain ⟨hid, hregs, hfv⟩ := imgId_shows hcu _ _ hv
  have hpv : v.partDies part.val = s.partDies part.val := hpu ▸ partDies_congr (by rw [hfv]) _
  have hlow : ∀ e ∈ s.partDies part.val, ∀ o ∈ [0x118, 0x120, 0x128, 0x130, 0x138], regKey .bil e o ∈ L := fun e he o ho =>
    hL ▸ List.mem_flatMap.2 ⟨e, he, List.mem_map.2 ⟨o, ho, rfl⟩⟩
  have hbv : ButSlices L u v := by
    refine ⟨by rw [hfv], fun x => by rw [hfv], by rw [hfv], by rw [hfv], fun d => ?_, fun k hk _ _ => hregs k fun hm => hk ?_⟩
    · have h : v.die d = u.die d := by rw [hfv]; rfl
      rw [h]
      exact DieSlices.refl _
    · obtain ⟨e, he, hm⟩ := List.mem_flatMap.1 hm
      obtain ⟨o, ho, rfl⟩ := List.mem_map.1 hm
      exact hlow e (hpu ▸ he) o (List.mem_cons_of_mem _ ho)
  have hbt : ButSlices L v t := ht ▸ after_butSlices hcv (allowed_imgState (allowsSlices_slicedBut _).reports.events
    (fun d hd _ _ => .inl (hlow d (hpv ▸ hd) _ (List.mem_cons_self ..))) 2 0 true)
  have hut := (composes_slices L).trans _ _ _ hbv hbt
  have hjt : ∀ q, t.job q = u.job q := fun q => hut.job_eq q
  have hjobs : t.jobs = u.jobs := by rw [hut.frame]; rfl
  refine ⟨t, ?_, hpv ▸ imgState_shows hcv (by decide) true ht, ?_, fun e he k hk => ?_, fun q hq => ?_, ?_⟩
  · have hn3 : ¬ j.op = 3 := by omega
    rw [hrun, after_congr (a := bodyChecked part.val j) (b := seqA [modJob part.val fun x => { x with
        bindIn := some (w.costIn part.val), due := w.mile + 1000000000, hdrCrc := w.num (j.addr + 0x7C) 4, epoch := w.num (w.manSect j.addr + 8) 2, stages := w.stages j.addr },
      imgId part.val (w.bytes (j.addr + 0x18) 32), imgState part.val 2 0 true]) (by simp only [bodyChecked, hbw.imgBody_eq, hbody, hn3, if_false]),
      after_seqA_cons, after_seqA_cons, after_seqA_cons, after_seqA_end]
    subst ht hv hu
    exact rfl
  · rw [hjt, hju, if_pos rfl]
  · have h1 : t.reg .bil e (0x120 + 8 * k) = v.reg .bil e (0x120 + 8 * k) := by
      obtain ⟨he32, -⟩ := mem_partDies.1 he
      have hkeep := after_regIn hcv (p := fun x => evtKey x ∨ ∃ d < 32, x = regKey .bil d 0x118) (k := regKey .bil e (0x120 + 8 * k))
        (allowed_imgState (p := part.val) (fun s x hx _ => by
          cases x with
          | reg => exact .inl hx
          | lost => exact hx.elim
          | _ => trivial) (fun d hd _ _ => .inr ⟨d, (mem_partDies.1 hd).1, rfl⟩) 2 0 true) (by
            rintro (h | ⟨d, hd, h⟩)
            · exact not_evtKey_bil (by omega) (by omega) h
            · have := (regKey_inj (by omega) (by omega) (by omega) (by decide) h).2.2
              omega)
      rw [← ht] at hkeep
      exact hkeep
    have hle : leAt (w.bytes (j.addr + 0x18) 32) (8 * k) 8 = s.num (j.addr + 0x18 + 8 * k) 8 := by
      rw [leAt_bytes (by omega), hbw.num_eq]
    rw [h1, hid e (hpu ▸ he) k hk, hle]
  · rw [hjt, hju, if_neg (by simpa using hq)]
    exact hbw.job_eq q
  · have h := (hbw.mono (List.nil_subset L)).withJobs u.jobs
    rw [← hfu] at h
    rw [hjobs, ← hL]
    exact (composes_slices L).trans _ _ _ h hut

end

end Sys2Proof.Machine
end

section
/-!
SUPPORT. The end of an unload's drain, a load that is READY, and a slice peer that does not answer (R167, R169, R194).
-/
namespace Sys2Proof.Machine

section
variable {s : State} (hc : s.canon = true) {part : Fin 16}
include hc

/-! ## The end of a drain -/

theorem unloadDrain_ends (hst : s.imgSt part.val = 5) (hdue : s.busySteps part.val = false ∨ (s.job part.val).due ≤ s.mile) :
    ∃ t, exec (.unloadDrainExpiry part) s = .next t ∧ (∀ e ∈ s.partDies part.val, ShowsImg 0 0 false e t) ∧ t.job part.val = Job.zero ∧
      (∀ i ∈ s.partLive part.val, t.faulted i 5) ∧ t.cells = s.cells := by
  obtain ⟨u, hu⟩ : ∃ u, u = after (forA (s.partLive part.val) fun i => endPassage i 5) s := ⟨_, rfl⟩
  obtain ⟨v, hv⟩ : ∃ v, v = after (release part.val) u := ⟨_, rfl⟩
  obtain ⟨w, hw⟩ : ∃ w, w = after (imgId part.val []) v := ⟨_, rfl⟩
  obtain ⟨t, ht⟩ : ∃ t, t = after (imgState part.val 0 0 false) w := ⟨_, rfl⟩
  have hcu : u.canon = true := hu ▸ after_canon _ s hc
  have hcv : v.canon = true := hv ▸ after_canon _ u hcu
  have hcw : w.canon = true := hw ▸ after_canon _ v hcv
  have hfu : u = State.overlay [.regs, .mem, .poison, .cores, .dies, .passages, .jobs, .ports, .snoopF, .nvm, .keeper, .free, .out] s u := hu ▸
    after_overlay _ (allowed_endPassages (allowsEnds_onlyFields (List.Subset.refl _)) (by simp) 5 _ s)
  have hfv := release_frame part.val hv
  obtain ⟨-, -, hfw⟩ := imgId_shows hcv _ _ hw
  have hft : t = State.overlay [.regs, .nvm, .keeper, .ports, .free, .out] w t := ht ▸
    after_overlay _ (allowed_imgState (allowsEvents_onlyFields (by simp)) (by simp) ..)
  have hptab : w.nvm.ptab = s.nvm.ptab := by
    rw [hfw]
    exact (hv ▸ ptab_release hcu part.val).trans (hu ▸ ptab_after hc (allowed_endPassages allowsStarts_ptabKept.ends (fun _ _ _ => trivial) 5 _ s))
  have hjt : t.job part.val = v.job part.val := by rw [hft, hfw]; rfl
  have hpt : ∀ i, t.passage i = u.passage i := fun i => by rw [hft, hfw, hfv]; rfl
  refine ⟨t, congrArg Host.Outcome.next ((after_congr (b := seqA [forA (s.partLive part.val) fun i => endPassage i 5, release part.val, imgId part.val [],
    imgState part.val 0 0 false]) ?_).trans ?_), ?_, hjt.trans (job_release hcu part.val hv), fun i hi => ?_, ?_⟩
  · have hcond : ¬ (s.imgSt part.val ≠ 5 ∨ (s.busySteps part.val = true ∧ s.mile < (s.job part.val).due)) := by
      rintro (h | ⟨h1, h2⟩)
      · exact h hst
      · obtain h | h := hdue
        · exact absurd (h1.symm.trans h) (by decide)
        · exact absurd h2 (BitVec.not_lt.2 h)
    simp only [hcond, if_false]
  · simp only [after_seqA_cons, after_seqA_end]
    rw [← hu, ← hv, ← hw, ← ht]
  · exact partDies_congr hptab _ ▸ imgState_shows hcw (by decide) false ht
  · rw [State.faulted, hpt]
    have hlive := (List.mem_filter.1 hi).2
    simp only [Bool.and_eq_true, Bool.not_eq_true'] at hlive
    obtain ⟨⟨ho, -⟩, hg⟩ := hlive
    exact hu ▸ faulted_endPassages hc (.inl ⟨hi, ho⟩) hg
  · have h1 : t.cells = v.cells := by rw [hft, hfw]; rfl
    have h2 : v.cells = u.cells := by rw [hfv]
    have h3 : u.cells = s.cells := by rw [hfu]; rfl
    rw [h1, h2, h3]

/-! ## A load that is READY -/

omit hc in
theorem allowed_writeRetain_events {P : State → Eff → Prop} (hP : AllowsEvents P) (hn : ∀ s (n : Nvm), n.ptab = s.nvm.ptab → P s (.nvm n)) (hk : ∀ s k, P s (.keeper k)) (p : Nat) (s : State) :
    Allowed P (writeRetain p s) s := by
  simp only [writeRetain]
  split
  · exact allowed_nvmWrite hP _ (fun s => (allowed_modNvm _ _).2 (hn _ _ rfl)) s
  · exact (allowed_modKeeper _ _).2 (hk _ _)

/-- Events leave the retention records that fall due as they are. -/
theorem retDue_of_events {a : Act} (h : ∀ {P : State → Eff → Prop}, AllowsEvents P → (∀ s d v, P s (.reg .bil d 0x118 v)) → Allowed P (a s) s) :
    (after a s).keeper.retDue = s.keeper.retDue := by
  refine Allowed.rel (R := fun s t => t.keeper.retDue = s.keeper.retDue) (P := fun s e => match e with
    | .keeper k => k.retDue = s.keeper.retDue
    | .lost _ => False
    | _ => True) ⟨fun _ => rfl, fun _ _ _ h1 h2 => h2.trans h1⟩ (fun s e _ he => ?_) hc (h (fun s e he _ => ?_) fun _ _ _ => trivial)
  · cases e with
    | keeper => exact he
    | lost => exact he.elim
    | _ => rfl
  · cases e with
    | keeper k =>
      change k = _ at he
      have h := congrArg Keeper.retDue he
      exact h
    | lost => exact he.elim
    | _ => trivial

theorem loadReady_shows (hst : s.imgSt part.val = 3) (hb : s.loadBusy part.val = false) (hsh : (s.job part.val).shards.all Shard.here = true) :
    ∃ t, exec (.loadReady part) s = .next t ∧ (∀ e ∈ s.partDies part.val, ShowsImg 4 0 false e t) ∧ t.job part.val = { s.job part.val with op := 0, stopped := false } ∧
      t.fld F.LDR_STS_PHASE part.val = 4 ∧ JobsBut [part.val] s t ∧ (s.keeperUp = false → part.val ∈ t.keeper.retDue) ∧
      t = { s with regs := t.regs, jobs := t.jobs, nvm := t.nvm, keeper := t.keeper, ports := t.ports, free := t.free, out := t.out } := by
  obtain ⟨u, hu⟩ : ∃ u, u = after (modJob part.val fun j => { j with op := 0, stopped := false }) s := ⟨_, rfl⟩
  obtain ⟨v, hv⟩ : ∃ v, v = after (writeRetain part.val) u := ⟨_, rfl⟩
  obtain ⟨w, hw⟩ : ∃ w, w = after (seqA [setF F.LDR_STS_PHASE part.val 4, setF F.LDR_STS_BUSY part.val 0]) v := ⟨_, rfl⟩
  obtain ⟨t, ht⟩ : ∃ t, t = after (imgState part.val 4 0 false) w := ⟨_, rfl⟩
  have hcu : u.canon = true := hu ▸ after_canon _ s hc
  have hcv : v.canon = true := hv ▸ after_canon _ u hcu
  have hcw : w.canon = true := hw ▸ after_canon _ v hcv
  have hju : ∀ q, u.job q = if q = part.val then { s.job part.val with op := 0, stopped := false } else s.job q := fun q => by
    rw [hu, modJob, after_eff, job_ap_job s hc]
  have hfu : u = { s with jobs := u.jobs } := hu ▸ rfl
  have hfv : v = State.overlay [.regs, .nvm, .keeper, .ports, .free, .out] u v := hv ▸
    after_overlay _ (allowed_writeRetain_events (allowsEvents_onlyFields (List.Subset.refl _)) (by simp) (by simp) _ u)
  have hfw : w = { v with regs := w.regs } := hw ▸ after_overlay [.regs] (a := seqA _) (by simp)
  have hft : t = State.overlay [.regs, .nvm, .keeper, .ports, .free, .out] w t := ht ▸
    after_overlay _ (allowed_imgState (allowsEvents_onlyFields (List.Subset.refl _)) (by simp) ..)
  have hptab : w.nvm.ptab = s.nvm.ptab := by
    have h1 : v.nvm.ptab = u.nvm.ptab := hv ▸ ptab_after hcu (allowed_writeRetain_events (fun s e he _ => by
      cases e with
      | nvm n =>
        have h := congrArg Nvm.ptab he.1
        exact h
      | lost => exact he.elim
      | _ => trivial) (fun _ _ h => h) (fun _ _ => trivial) _ u)
    rw [hfw]
    exact h1.trans (by rw [hfu])
  have hjt : ∀ q, t.job q = u.job q := fun q => by rw [hft, hfw, hfv]; rfl
  refine ⟨t, congrArg Host.Outcome.next ((after_congr (b := seqA [modJob part.val fun j => { j with op := 0, stopped := false }, writeRetain part.val,
    setF F.LDR_STS_PHASE part.val 4, setF F.LDR_STS_BUSY part.val 0, imgState part.val 4 0 false]) ?_).trans ?_), partDies_congr hptab _ ▸ imgState_shows hcw (by decide) false ht,
    ?_, ?_, fun q hq => ?_, fun hk => ?_, by rw [hft, hfw, hfv, hfu]; rfl⟩
  · simp only [hst, hb, hsh, and_self, if_true]
  · simp only [after_seqA_cons, after_seqA_end] at hw ⊢
    rw [← hu, ← hv, ← hw, ← ht]
  · rw [hjt, hju, if_pos rfl]
  · have h1 : t.fld F.LDR_STS_PHASE part.val = w.fld F.LDR_STS_PHASE part.val := by
      rw [ht]
      refine fld_of_keepsFld hcw (allowed_imgState (allowsEvents_keepsFld (not_evtKey_of_off (by decide))) (fun d hd _ _ => keepsFld_of_key ?_ _ _) 4 0 false)
      have hd32 := (mem_partDies.1 hd).1
      have hp16 := part.isLt
      exact regKey_ne_of_blk (by decide) ⟨by omega, by omega, by decide, by decide⟩
    rw [h1, hw, after_seqA_cons, after_seqA_cons, after_seqA_end, fld_set_bits (after_canon _ v hcv) _ _ _ _ _ (by decide), fld_set_same hcv _ _ _ (by decide)]
    rfl
  · rw [hjt, hju, if_neg (by simpa using hq)]
  · have hku : u.keeperUp = false := by
      rw [hfu]
      exact hk
    have hkv : v.keeper = { u.keeper with retDue := (u.keeper.retDue ++ [part.val]).dedup } := by
      rw [hv, after_congr (a := writeRetain part.val) (b := modKeeper fun k => { k with retDue := (k.retDue ++ [part.val]).dedup }) (by
        simp only [writeRetain, hku, Bool.false_eq_true, if_false])]
      rfl
    have hkt : t.keeper.retDue = w.keeper.retDue := by
      rw [ht]
      exact retDue_of_events hcw fun hP hr => allowed_imgState hP (fun d _ s v => hr s d v) ..
    have hkw : w.keeper = v.keeper := by rw [hfw]
    rw [hkt, hkw, hkv]
    exact List.mem_dedup.2 (List.mem_append_right _ (List.mem_singleton.2 rfl))

end

/-! ## The report of a bind -/

theorem allowed_writeReport {P : State → Eff → Prop} (hP : AllowsStores P) {p : Nat}
    (hreg : ∀ d < 32, ∀ f ∈ [F.BIL_BIND_STS_SEQ, F.BIL_BIND_STS_NOTES, F.BIL_BIND_STS_TRUNC, F.BIL_RPT_LEN_USED], ∀ (s : State) v,
      P s (.reg f.blk d f.off (putBits (s.reg f.blk d f.off) f.hi f.lo v))) (cause : Nat) (s : State) : Allowed P (writeReport p cause s) s := by
  simp only [writeReport, allowed_seqA_cons, allowed_whenA, allowed_seqA_nil, and_true, onDies, allowed_withA]
  refine ⟨fun _ => allowed_storeBytes hP .., allowed_forA _ _ _ fun d hd s => ?_⟩
  have hd32 := (mem_partDies.1 hd).1
  simp only [allowed_seqA_cons, allowed_setF, allowed_setB, allowed_seqA_nil, and_true]
  exact ⟨hreg d hd32 F.BIL_BIND_STS_SEQ (by decide) _ _, hreg d hd32 F.BIL_BIND_STS_NOTES (by decide) _ _, hreg d hd32 F.BIL_BIND_STS_TRUNC (by decide) _ _,
    hreg d hd32 F.BIL_RPT_LEN_USED (by decide) _ _, allowed_dieEvent hP.slices.reports.events d _⟩

/-! ## A slice peer that does not answer -/

theorem allowsStores_keepsFld {f : Fld} {i : Nat} (h : ¬ shardKey (regKey f.blk i f.off)) : AllowsStores (KeepsFld f i) := fun s e he => by
  cases e with
  | reg b j o v =>
    intro hk
    rw [hk] at h
    obtain he | ⟨rfl, he⟩ | ⟨rfl, rfl⟩ := he
    · exact (h (.inl he)).elim
    · exact (h (.inr (.inl ⟨_, _, he, rfl⟩))).elim
    · exact (h (.inr (.inr ⟨_, rfl⟩))).elim
  | lost => exact he.elim
  | _ => trivial

theorem allowsRelease_keepsCause {p d : Nat} (hd : d < 32) : AllowsRelease p (KeepsFld F.BIL_BIND_STS_CAUSE d) := fun s e he => by
  cases e with
  | reg b j o v =>
    intro hk
    obtain ⟨-, h⟩ := he
    have hreg : s.reg b j o = s.reg .bil d 0x200 := by simp only [State.reg, ← hk]
    rw [h d hd hk.symm _ _ (by decide), hreg]
    rfl
  | lost => exact he.elim
  | _ => trivial

section
variable {s : State} (hc : s.canon = true) {part : Fin 16}
include hc

theorem setFP_shows (f : Fld) (hf : f.lo ≤ f.hi ∧ f.hi < 64) (hb : f.off < 65536) (p v : Nat) : ∀ d ∈ s.partDies p,
    (after (setFP f p v) s).fld f d = v % 2 ^ (f.hi + 1 - f.lo) := by
  rw [setFP, onDies, after_withA]
  refine forA_each (Q := fun d t => t.fld f d = v % 2 ^ (f.hi + 1 - f.lo)) hc (fun d _ s hc => fld_set_same hc f d v hf) fun e he d hd hne s hc h => ?_
  have hne' : regKey f.blk d f.off ≠ regKey f.blk e f.off := fun hk => by
    have h1 := (mem_partDies.1 hd).1
    have h2 := (mem_partDies.1 he).1
    exact hne (regKey_inj (by omega) (by omega) hb hb hk).2.1
  rw [fld_setF_reg s hc f f e d v hne', h]

theorem sliceBindTimeout_fails (rank : BitVec 14) (hst : s.imgSt part.val = 2) (hdue : (s.job part.val).due ≤ s.mile) :
    ∃ t, exec (.sliceBindTimeout part rank) s = .next t ∧ (∀ e ∈ s.partDies part.val, ShowsImg 6 15 false e t) ∧ t.job part.val = Job.zero ∧
      (∀ e ∈ s.partDies part.val, t.fld F.BIL_BIND_STS_CAUSE e = 6) ∧ t.cells = s.cells := by
  obtain ⟨l, hl⟩ : ∃ l : List Note, l = [⟨6, 0xFFFF, rank.toNat⟩] := ⟨_, rfl⟩
  obtain ⟨u, hu⟩ : ∃ u, u = after (setFP F.BIL_BIND_STS_CAUSE part.val 6) s := ⟨_, rfl⟩
  obtain ⟨v, hv⟩ : ∃ v, v = after (modJob part.val fun j => { j with reps := [], tier := [], notes := l }) u := ⟨_, rfl⟩
  obtain ⟨w, hw⟩ : ∃ w, w = after (writeReport part.val 6) v := ⟨_, rfl⟩
  obtain ⟨t, ht⟩ : ∃ t, t = after (imgEnd part.val 6 15 none) w := ⟨_, rfl⟩
  have hcu : u.canon = true := hu ▸ after_canon _ s hc
  have hcv : v.canon = true := hv ▸ after_canon _ u hcu
  have hcw : w.canon = true := hw ▸ after_canon _ v hcv
  have hfu : u = { s with regs := u.regs } := hu ▸ after_overlay [.regs] (by
    simp only [setFP, onDies, allowed_withA]
    exact allowed_forA _ _ _ fun _ _ s => by simp)
  have hfv : v = { u with jobs := v.jobs } := hv ▸ rfl
  have hrep : ∀ {P : State → Eff → Prop}, AllowsStores P → (∀ d < 32, ∀ f ∈ [F.BIL_BIND_STS_SEQ, F.BIL_BIND_STS_NOTES, F.BIL_BIND_STS_TRUNC, F.BIL_RPT_LEN_USED],
      ∀ (s : State) v, P s (.reg f.blk d f.off (putBits (s.reg f.blk d f.off) f.hi f.lo v))) → Allowed P (writeReport part.val 6 v) v :=
    fun h1 h2 => allowed_writeReport h1 h2 6 v
  have hcells : w.cells = s.cells := by
    have h : w.cells = v.cells := by
      rw [hw, after_overlay [.regs, .mem, .poison, .cores, .dies, .passages, .jobs, .ports, .snoopF, .nvm, .keeper, .free, .out]
        (hrep (allowsEnds_onlyFields (List.Subset.refl _)).stores (by simp))]
      rfl
    rw [h, hfv, hfu]
  have hptab : w.nvm.ptab = s.nvm.ptab := by
    have h : w.nvm.ptab = v.nvm.ptab := hw ▸ ptab_after hcv (hrep (fun s e he => by
      cases e with
      | nvm n =>
        have h := congrArg Nvm.ptab he.1
        exact h
      | lost => exact he.elim
      | _ => trivial) (fun _ _ _ _ _ _ => trivial))
    rw [h, hfv, hfu]
  have hpd : w.partDies part.val = s.partDies part.val := partDies_congr hptab _
  obtain ⟨h1, h2, -, h3, -⟩ := imgEnd_shows hcw (by decide) none ht
  refine ⟨t, congrArg Host.Outcome.next ((after_congr (b := seqA [setFP F.BIL_BIND_STS_CAUSE part.val 6,
    modJob part.val fun j => { j with reps := [], tier := [], notes := l }, writeReport part.val 6, imgEnd part.val 6 15 none]) ?_).trans ?_), hpd ▸ h1, h2,
    fun e he => ?_, h3.trans hcells⟩
  · simp only [hst, hdue, and_self, if_true, hl]
    exact rfl
  · simp only [after_seqA_cons, after_seqA_end]
    rw [← hu, ← hv, ← hw, ← ht]
  · have he32 := (mem_partDies.1 he).1
    have hkey : ∀ (d : Nat) (s : State) v, KeepsFld F.BIL_BIND_STS_CAUSE e s (.reg .bil d 0x118 v) :=
      fun d s v => keepsFld_of_key (f := F.BIL_BIND_STS_CAUSE) (regKey_ne_of_off (by decide)) s v
    have hbits : ∀ f ∈ [F.BIL_BIND_STS_SEQ, F.BIL_BIND_STS_NOTES, F.BIL_BIND_STS_TRUNC, F.BIL_RPT_LEN_USED], (f.lo ≤ f.hi ∧ f.hi < 64) ∧
        (f.off % 65536 = 0x210 ∨ F.BIL_BIND_STS_CAUSE.hi < f.lo ∨ f.hi < F.BIL_BIND_STS_CAUSE.lo) := by decide
    have hend : t.fld F.BIL_BIND_STS_CAUSE e = w.fld F.BIL_BIND_STS_CAUSE e := by
      rw [ht]
      refine fld_of_keepsFld hcw ?_
      have hevt : AllowsEvents (KeepsFld F.BIL_BIND_STS_CAUSE e) := allowsEvents_keepsFld (not_evtKey_of_off (by decide))
      simp only [imgEnd, allowed_seqA_cons, allowed_seqA_nil, and_true]
      exact ⟨allowed_release (allowsRelease_keepsCause he32) w, allowed_imgFailAt (fun d _ s v => hkey d s v) ..,
        allowed_imgState hevt (fun d _ s v => hkey d s v) ..⟩
    have hrw : w.fld F.BIL_BIND_STS_CAUSE e = v.fld F.BIL_BIND_STS_CAUSE e := by
      rw [hw]
      have hstore : AllowsStores (KeepsFld F.BIL_BIND_STS_CAUSE e) := allowsStores_keepsFld (not_shardKey_bil (i := e) (o := 0x200) (by omega) (by decide))
      refine fld_of_keepsFld hcv (hrep hstore fun d _ f hf s x => ?_)
      obtain ⟨h1, h2 | h2⟩ := hbits f hf
      · exact keepsFld_of_key (regKey_ne_of_off (by rw [h2]; decide)) _ _
      · exact keepsFld_of_bits h1 h2 _ _
    have hvu : v.fld F.BIL_BIND_STS_CAUSE e = u.fld F.BIL_BIND_STS_CAUSE e := by rw [hfv]; rfl
    rw [hend, hrw, hvu, hu]
    exact setFP_shows hc F.BIL_BIND_STS_CAUSE (by decide) (by decide) part.val 6 e he

end

/-! ## UNLOAD of a READY image -/

theorem imgCmd_unloads {s : State} (hc : s.canon = true) {src : Src} {d : Fin 32} {v : Word} (ht : s.takes src .bil d.val 0x110 = true) (hgo : bitsOf v 0 0 = 1)
    (hp : s.part d.val < 16) (hb : s.flag F.BIL_IMG_STS_BUSY d.val = false) (hk : src ≠ .keeper) (hop : bitsOf v 3 1 = 2) (hst : s.fld F.BIL_IMG_STS_STATE d.val = 4) :
    ∃ t, after (imgCmd src d.val v) s = t ∧ (t.job (s.part d.val)).op = 2 ∧ (t.job (s.part d.val)).stopped = true ∧
      (t.job (s.part d.val)).due = s.mile + BitVec.ofNat 64 (1000000 * F.BIL_IMG_CMD_DRAIN.of v) ∧
      (∀ e ∈ s.partDies (s.part d.val), t.fld F.BIL_IMG_STS_STATE e = 5 ∧ t.flag F.BIL_IMG_STS_BUSY e = true) ∧
      (∀ i ∈ s.partLive (s.part d.val), (s.passage i).st = 1 ∨ (s.passage i).st = 2 → t.faulted i 5) ∧
      (∀ i ∈ s.partLive (s.part d.val), ¬ ((s.passage i).st = 1 ∨ (s.passage i).st = 2) → (t.passage i).st = (s.passage i).st) ∧
      t.cells = s.cells ∧ t.trees = s.trees ∧ t.wins = s.wins ∧ t.bfp = s.bfp := by
  obtain ⟨u, hu⟩ : ∃ u, u = after (storeRW .bil d.val 0x110 v) s := ⟨_, rfl⟩
  have hcu : u.canon = true := hu ▸ after_canon _ s hc
  have hfu : u = { s with regs := u.regs } := hu ▸ after_overlay [.regs] (a := storeRW .bil d.val 0x110 v) (by simp [storeRW])
  have hrun : after (imgCmd src d.val v) s = after (unloadStart (s.part d.val) (F.BIL_IMG_CMD_DRAIN.of v)) u := by
    rw [after_congr (a := imgCmd src d.val v) (b := seqA [storeRW .bil d.val 0x110 v, unloadStart (s.part d.val) (F.BIL_IMG_CMD_DRAIN.of v)]),
      after_seqA_cons, after_seqA_cons, after_seqA_end, ← hu]
    rw [imgCmd, guardW_of_takes ht]
    have h1 : ¬ (bitsOf v 0 0 = 0 ∨ src = .keeper) := by simp [hgo, hk]
    have h2 : ¬ 16 ≤ s.part d.val := by omega
    simp only [h1, hb, Bool.false_eq_true, false_and, if_false, h2, hop, if_true, hst, Nat.reduceEqDiff, or_self]
  obtain ⟨h1, h2, h3, h4, h5, h6, h7, h8, h9, h10⟩ := unloadStart_shows hcu (p := s.part d.val) (ms := F.BIL_IMG_CMD_DRAIN.of v) rfl
  have hlive : u.partLive (s.part d.val) = s.partLive (s.part d.val) := by rw [hfu]; rfl
  have hpas : ∀ i, u.passage i = s.passage i := fun i => by rw [hfu]; rfl
  have hpd : u.partDies (s.part d.val) = s.partDies (s.part d.val) := by rw [hfu]; rfl
  have hmile : u.mile = s.mile := by rw [hfu]
  simp only [hlive, hpas, hpd, hmile] at h3 h4 h5 h6
  refine ⟨_, hrun, h1, h2, h3, h4, h5, fun i _ hn => h6 i fun hm => hn ?_, h7.trans (by rw [hfu]), h8.trans (by rw [hfu]), h9.trans (by rw [hfu]), h10.trans (by rw [hfu])⟩
  simpa using (List.mem_filter.1 hm).2

end Sys2Proof.Machine

open Sys2Proof Sys2Proof.Machine

/-- Settles O23: a command on an image moves its job and what its dies show, and what it reads of the image it leaves as it is. -/
theorem images : Obligations.Images := by
  refine ⟨fun s src d v hc ht hgo hp hb => ?_, fun s part hc => fun _ => ?_⟩
  · have hcmd : ∀ i ∈ [Instr.imageLoad src d v, .imageCheck src d v, .imageUnload src d v], exec i s = .next (after (imgCmd src d.val v) s) := fun i hi => by
      simp only [List.mem_cons, List.not_mem_nil, or_false] at hi
      obtain rfl | rfl | rfl := hi <;> rfl
    refine ⟨fun hk i hi => (hcmd i hi).trans (congrArg _ (imgCmd_of_keeper ht hk)), fun hk hop hst hh => ?_, fun hk hop hst hh => ?_, fun hk hop hst => ?_⟩
    · obtain ⟨h1, h2⟩ := imgCmd_shows hc ht hgo hp hb hk (.inl hop) hst rfl rfl rfl hh rfl
      rw [hop] at h1
      exact ⟨fun hn => ⟨_, hcmd _ (by simp), h1 hn⟩, fun f hf => ⟨_, hcmd _ (by simp), h2 f hf⟩⟩
    · obtain ⟨h1, h2⟩ := imgCmd_shows hc ht hgo hp hb hk (.inr hop) hst rfl rfl rfl hh rfl
      rw [hop] at h1
      exact ⟨fun hn => ⟨_, hcmd _ (by simp), h1 hn⟩, fun f hf => ⟨_, hcmd _ (by simp), h2 f hf⟩⟩
    · obtain ⟨t, hrun, h⟩ := imgCmd_unloads hc ht hgo hp hb hk hop hst
      exact ⟨t, (hcmd _ (by simp)).trans (congrArg _ hrun), h⟩
  · exact ⟨fun hst hop hh => ⟨fun hn h3 => imageChecksDone_ends hc rfl hst hop hh (by decide) hn (.inr ⟨rfl, h3, rfl, rfl⟩),
      fun hn h1 => imageChecksDone_binds hc rfl hst hop hh hn h1, fun f hf => imageChecksDone_ends hc rfl hst hop hh (by decide) hf (.inl ⟨f, rfl, rfl, rfl⟩)⟩,
      fun hst hdue => unloadDrain_ends hc hst hdue, fun hst hb hsh => loadReady_shows hc hst hb hsh,
      fun rank hst hdue => sliceBindTimeout_fails hc rank hst hdue⟩

end

section
/-!
SUPPORT. Second opinions on a checker event (R320–R323).
-/
namespace Sys2Proof.Machine

/-! ## The checker's registers while passages end -/

/-- A key that is of no register of a checker but that at offset 0x138. -/
def NotChk (k : Nat) : Prop := ∀ d < 32, ∀ o < 65536, o ≠ 0x138 → k ≠ regKey .chk d o

theorem allowsEnds_notChk : AllowsEnds (regIn NotChk) := fun _ e he => by
  have high : ∀ {b : Blk} {i o : Nat}, 0x16 ≤ b.code → NotChk (regKey b i o) := fun hb d hd o' ho' _ h => by
    have h1 : Blk.chk.code = 0x15 := rfl
    simp only [regKey] at h
    omega
  cases e with
  | reg b i o v =>
    obtain ⟨n, w, -, -, hk⟩ | rfl | rfl | ⟨rfl, hi, rfl⟩ | ⟨rfl, rfl⟩ | rfl := he
    · have hn : NotChk (regKey .trl n (0x400 + 8 * w)) := high (by decide)
      rw [← hk] at hn
      exact hn
    · exact high (by decide)
    · exact high (by decide)
    · intro d hd o' ho' _ h
      exact absurd (regKey_inj (by omega) (by omega) (by decide) ho' h).1 (by decide)
    · intro d hd o' ho' hne h
      refine hne ?_
      have h1 : F.PAS_CRING_TAIL_TAIL.off = 0x138 := rfl
      simp only [regKey] at h
      omega
    · exact high (by decide)
  | lost => exact he.elim
  | _ => trivial

theorem fld_chk_of_notChk {a : Act} {s : State} (hc : s.canon = true) (h : Allowed (regIn NotChk) (a s) s) {f : Fld} (hf : f.blk = .chk ∧ f.off < 65536 ∧ f.off ≠ 0x138)
    {d : Nat} (hd : d < 32) : (after a s).fld f d = s.fld f d := by
  obtain ⟨hb, ho, hne⟩ := hf
  refine fld_after_of_regIn hc h fun hk => hk d hd f.off ho hne ?_
  rw [hb]

/-! ## Items that fail one after another -/

theorem byHandle_iff {s : State} {h : Word32} {i : Nat} : s.byHandle h = some i ↔ i = idxOf h ∧ (s.passage i).open_ = true ∧ (s.passage i).handle = h := by
  simp only [State.byHandle]
  constructor
  · intro hb
    split at hb
    · next hcond =>
      obtain rfl := Option.some.inj hb
      exact ⟨rfl, hcond⟩
    · cases hb
  · rintro ⟨rfl, ho, hh⟩
    exact if_pos ⟨ho, hh⟩

section
variable {s : State} (hc : s.canon = true)
include hc

/-- As some passage ends by its handle, one that is live keeps its place or ends, and one that has ended so stays. -/
theorem endHandle_step {d i st : Nat} {h h' : Word32} (hg : (s.passage i).guest = false) (hs : s.byHandle h = some i ∨ s.faulted i st) :
    ((after (endHandle d h' st) s).passage i).guest = false ∧ (s.faulted i st ∨ h' = h → (after (endHandle d h' st) s).faulted i st) ∧
      ((after (endHandle d h' st) s).byHandle h = some i ∨ (after (endHandle d h' st) s).faulted i st) := by
  have kept : ∀ {t : State}, PassageNoted (s.passage i) (t.passage i) → (h' = h → s.byHandle h ≠ some i) →
      (t.passage i).guest = false ∧ (s.faulted i st ∨ h' = h → t.faulted i st) ∧ (t.byHandle h = some i ∨ t.faulted i st) := fun {t} hn hne => by
    rw [PassageNoted] at hn
    have hf : s.faulted i st → t.faulted i st := fun hf => by
      rw [State.faulted, hn]
      exact hf
    refine ⟨by rw [hn]; exact hg, fun he => he.elim hf fun he => hf (hs.resolve_left (hne he)), hs.imp (fun hb => ?_) hf⟩
    rw [byHandle_iff] at hb ⊢
    rw [hn]
    exact hb
  cases hb' : s.byHandle h' with
  | none =>
    refine kept ?_ fun he hb => ?_
    · have hp : (after (endHandle d h' st) s).passage i = s.passage i := by
        simp only [after, endHandle, hb']
        rfl
      rw [PassageNoted, hp]
    · rw [he, hb] at hb'
      cases hb'
  | some j =>
    have hafter : after (endHandle d h' st) s = after (endPassage j st) s := by simp only [after, endHandle, hb']
    rw [hafter]
    obtain ⟨hj, ho, hh⟩ := byHandle_iff.1 hb'
    by_cases hij : i = j
    · subst hij
      have hp := passage_endPassage hc (status := st) ho hg
      have hf := faulted_endPassage hc (status := st) ho hg
      rw [PassageNoted] at hp
      exact ⟨by rw [hp]; exact hg, fun _ => hf, .inr hf⟩
    · refine kept (passageNoted_endPassage hc j st hij) fun he hb => hij ?_
      rw [(byHandle_iff.1 hb).1, hj, he]

end

/-- As a tile abandons items, one of which is of a live passage, that passage ends. -/
theorem faulted_failItems {i st : Nat} {h : Word32} (x : TileId) (l : List WorkItem) {s : State} (hc : s.canon = true)
    (hg : (s.passage i).guest = false) (hs : s.byHandle h = some i ∨ s.faulted i st)
    (hl : (∃ w ∈ l, w.handle = h) ∨ s.faulted i st) : (after (forA l fun w => failItem (.tile x) w st) s).faulted i st := by
  induction l generalizing s with
  | nil => exact hl.elim (fun ⟨_, hw, _⟩ => absurd hw List.not_mem_nil) id
  | cons w l ih =>
    rw [after_forA_cons, after_failItem_tile]
    obtain ⟨hg1, hend, hs1⟩ := endHandle_step hc (d := coreDie (.tile x)) (h' := w.handle) hg hs
    obtain ⟨u, hu⟩ : ∃ u, u = after (endHandle (coreDie (.tile x)) w.handle st) s := ⟨_, rfl⟩
    rw [← hu] at hg1 hend hs1 ⊢
    have hcu : u.canon = true := hu ▸ after_canon _ _ hc
    refine ih (after_canon _ _ hcu) hg1 hs1 ?_
    obtain ⟨y, hy, hh⟩ | hf := hl
    · obtain rfl | hy := List.mem_cons.1 hy
      · exact .inr (hend (.inr hh))
      · exact .inl ⟨y, hy, hh⟩
    · exact .inr (hend (.inl hf))

/-! ## A tile in FAULT abandons what is queued -/

theorem allowed_abandonQueue_tile {P : State → Eff → Prop} (hP : AllowsEnds P) (x : TileId) (hk : ∀ s k, P s (.core (.tile x) k))
    (hi : ∀ s i y, P s (.passage i y)) (s : State) : Allowed P (abandonQueue (.tile x) s) s := by
  simp only [abandonQueue, allowed_seqA_cons, allowed_modCore, allowed_seqA_nil, and_true]
  exact ⟨hk _ _, allowed_forA _ _ _ fun w _ => allowed_failItem_tile hP x w 1 fun s => hi s _⟩

theorem faulted_abandonQueue {s : State} (hc : s.canon = true) (x : TileId) {i : Nat} {w : WorkItem} (hg : (s.passage i).guest = false)
    (hb : s.byHandle w.handle = some i) (hw : w ∈ (s.core (.tile x)).second.toList ++ (s.core (.tile x)).secondQ) :
    (after (abandonQueue (.tile x)) s).faulted i 1 := by
  rw [after_congr (a := abandonQueue (.tile x)) (b := seqA _) (by simp only [abandonQueue]; rfl)]
  simp only [after_seqA_cons, after_seqA_end]
  refine faulted_failItems x _ (after_canon _ _ hc) (h := w.handle) hg (.inl hb) (.inl ⟨w, List.mem_append_left _ hw, rfl⟩)

theorem second_abandonQueue {s : State} (hc : s.canon = true) (x : TileId) : ((after (abandonQueue (.tile x)) s).core (.tile x)).second = none := by
  rw [after_congr (a := abandonQueue (.tile x)) (b := seqA _) (by simp only [abandonQueue]; rfl)]
  simp only [after_seqA_cons, after_seqA_end]
  obtain ⟨u, hu⟩ : ∃ u, u = after (modCore (.tile x) fun k => { k with queue := [], second := none, secondQ := [] }) s := ⟨_, rfl⟩
  rw [← hu]
  have hcu : u.canon = true := hu ▸ after_canon _ _ hc
  have h2 : (u.core (.tile x)).second = none := by
    rw [hu, core_modCore _ hc, if_pos rfl]
  have h := after_coreRel (R := fun _ x y => y = { x with ins := y.ins }) (fun _ _ => rfl) (fun _ _ _ _ h1 h2 => by rw [h2, h1]) hcu
    (allowed_forA ((s.core (.tile x)).second.toList ++ (s.core (.tile x)).secondQ ++ (s.core (.tile x)).queue) _ _ fun w _ =>
      allowed_failItem_tile (allowsEnds_coreRel fun _ _ _ h => h) x w 1 fun _ _ => trivial) (.tile x)
  rw [h]
  exact h2

/-! ## The item moves to a replica (R108, R321) -/

/-- The phase of one event set in a tile's list. -/
def phased (h : HardEvt) (n : Nat) (l : List HardEvt) : List HardEvt := l.map fun y => if y == h then { y with phase := n } else y

/-- What the move of an item of tile x to tile o leaves, before a tile in FAULT abandons it. -/
structure MovedTo (x : TileId) (h : HardEvt) (r : Replica) (o : TileId) (s u : State) : Prop where
  canon : u.canon = true
  count : u.fld F.CHK_SECOND_REPLICA x.d.val = min (s.fld F.CHK_SECOND_REPLICA x.d.val + 1) F.CHK_SECOND_REPLICA.top
  regs : RegsBut [regKey .chk x.d.val F.CHK_SECOND_REPLICA.off] s u
  cores : CoresBut [.tile x, .tile o] s u
  frame : u = { s with regs := u.regs, cores := u.cores, dies := u.dies }
  hard : o ≠ x → (u.core (.tile x)).hard = phased h 1 (s.core (.tile x)).hard
  item : ∃ w : WorkItem, w.handle = h.item.handle ∧ w.rep = r.rep ∧ w.moved = some x ∧ w.input = some (inHalves h.input) ∧
    w ∈ (u.core (.tile o)).second.toList ++ (u.core (.tile o)).secondQ ∧ ((s.core (.tile o)).second = none → (u.core (.tile o)).second = some w)

/-- An item put in the reserved place of a sequencer, or behind the one that holds it. -/
def Core.reserve (w : WorkItem) (k : Core) : Core := if k.second.isNone then { k with second := some w } else { k with secondQ := k.secondQ ++ [w] }

theorem reserve_holds (w : WorkItem) (k : Core) : w ∈ (k.reserve w).second.toList ++ (k.reserve w).secondQ ∧
    (k.second = none → (k.reserve w).second = some w) ∧ (k.reserve w).hard = k.hard ∧ (k.reserve w).st = k.st := by
  cases hk : k.second with
  | none => simp [Core.reserve, hk]
  | some y => simp [Core.reserve, hk]

theorem moveToRep_shows {s : State} (hc : s.canon = true) (x : TileId) (h : HardEvt) (r : Replica) (o : TileId) :
    ∃ u, MovedTo x h r o s u ∧ after (moveToRep x h r o) s = if (s.core (.tile o)).st = 3 then after (abandonQueue (.tile o)) u else u := by
  obtain ⟨w, hw⟩ : ∃ w, w = { h.item with rep := r.rep, moved := some x, mile := s.mile, retry := false, wx := (s.cell o).wx, input := some (inHalves h.input) } := ⟨_, rfl⟩
  obtain ⟨m, hm⟩ : ∃ m : Act, m = seqA [bump F.CHK_SECOND_REPLICA x.d.val 1, modHard x (phased h 1),
    modDie (s.sbDie h.item) fun y => { y with sb := y.sb.filter fun y => !y.is (idxOf h.item.handle) h.item.stage h.item.rep },
    forOpt ((s.die (s.sbDie h.item)).sb.find? fun y => y.is (idxOf h.item.handle) h.item.stage h.item.rep) fun y =>
      modDie r.anchor.d.val fun x => { x with sb := x.sb ++ [{ y with rep := r.rep }] }] := ⟨_, rfl⟩
  obtain ⟨v, hv⟩ : ∃ v, v = after m s := ⟨_, rfl⟩
  have hcv : v.canon = true := hv ▸ after_canon _ _ hc
  have hcore : ∀ c, v.core c = if c = .tile x then { s.core (.tile x) with hard := phased h 1 (s.core (.tile x)).hard } else s.core c := fun c => by
    have hd : ∀ (t : State), (after (seqA [modDie (s.sbDie h.item) fun y => { y with sb := y.sb.filter fun y => !y.is (idxOf h.item.handle) h.item.stage h.item.rep },
        forOpt ((s.die (s.sbDie h.item)).sb.find? fun y => y.is (idxOf h.item.handle) h.item.stage h.item.rep) fun y =>
          modDie r.anchor.d.val fun x => { x with sb := x.sb ++ [{ y with rep := r.rep }] }]) t).cores = t.cores := fun t =>
      after_read_eq (fs := [.dies]) State.cores (by simp) fun _ => rfl
    have hb : (after (bump F.CHK_SECOND_REPLICA x.d.val 1) s).cores = s.cores := rfl
    simp only [after_seqA_cons, after_seqA_end] at hd
    rw [hv, hm]
    simp only [after_seqA_cons, after_seqA_end, modHard, State.core, hd]
    exact core_modCore _ (after_canon _ _ hc) (.tile x) _ c
  obtain ⟨u, hu⟩ : ∃ u, u = after (modCore (.tile o) fun k => k.reserve w) v := ⟨_, rfl⟩
  have hcoreu : ∀ c, u.core c = if c = .tile o then (v.core (.tile o)).reserve w else v.core c := fun c => hu ▸ core_modCore _ hcv _ _ c
  refine ⟨u, ?_, ?_⟩
  · obtain ⟨hin, hfree, hh, -⟩ := reserve_holds w (v.core (.tile o))
    have hov : (v.core (.tile o)).second = (s.core (.tile o)).second := by
      rw [hcore]
      split <;> simp_all
    exact {
      canon := hu ▸ after_canon _ _ hcv
      count := by
        have hr : u.regs = (after (bump F.CHK_SECOND_REPLICA x.d.val 1) s).regs := by
          rw [hu, hv, hm]
          simp only [after_seqA_cons, after_seqA_end]
          exact (after_read_eq (fs := [.cores]) State.regs (by simp) fun _ => rfl).trans (after_read_eq (fs := [.dies]) State.regs (by simp) fun _ => rfl |>.trans
            ((after_read_eq (fs := [.dies]) State.regs (by simp) fun _ => rfl).trans (after_read_eq (fs := [.cores]) State.regs (by simp [modHard]) fun _ => rfl)))
        exact (congrArg (fun g => bitsOf (SMap.get regResetKey g (regKey .chk x.d.val 0x120)) 31 0) hr).trans (fld_bump s hc _ _ 1 (by decide) (by decide))
      regs := by
        have hua : u = after (seqA [m, modCore (.tile o) fun k => k.reserve w]) s := by rw [after_seqA_cons, after_seqA_cons, after_seqA_end, hu, hv]
        rw [hua, hm]
        exact after_regsBut hc (by simp [modHard])
      cores := fun c hm => by
        rw [hcoreu, if_neg (fun he => hm (by simp [he])), hcore, if_neg (fun he => hm (by simp [he]))]
      frame := by
        have hua : u = after (seqA [m, modCore (.tile o) fun k => k.reserve w]) s := by rw [after_seqA_cons, after_seqA_cons, after_seqA_end, hu, hv]
        rw [hua, hm]
        exact after_overlay [.regs, .cores, .dies] (by simp [modHard])
      hard := fun hox => by
        rw [hcoreu, if_neg (by simpa using Ne.symm hox), hcore, if_pos rfl]
      item := by
        rw [hcoreu, if_pos rfl]
        exact ⟨w, by rw [hw], by rw [hw], by rw [hw], by rw [hw], hin, fun hn => hfree (hov ▸ hn)⟩ }
  · have hst : (u.core (.tile o)).st = (s.core (.tile o)).st := by
      rw [hcoreu, if_pos rfl, (reserve_holds w _).2.2.2, hcore]
      split <;> simp_all
    have hua : after (moveToRep x h r o) s = after (seqA [m, modCore (.tile o) fun k => k.reserve w,
        whenA (fun s => (s.core (.tile o)).st == 3) (abandonQueue (.tile o))]) s := by
      rw [after_congr (a := moveToRep x h r o) (b := seqA _) (by simp only [moveToRep]; rfl), hm, hw]
      simp only [after_seqA_cons, after_seqA_end]
      rfl
    rw [hua]
    simp only [after_seqA_cons, after_seqA_end, after_whenA, ← hv, ← hu, hst, beq_iff_eq]

section
variable {s : State} (hc : s.canon = true)
include hc

/-- A passage that ends because its item is abandoned leaves the array's cells and the checker's counts. -/
theorem abandonQueue_leaves (x : TileId) :
    (after (abandonQueue (.tile x)) s).cells = s.cells ∧
      ∀ (f : Fld) (d : Nat), d < 32 → f.blk = .chk ∧ f.off < 65536 ∧ f.off ≠ 0x138 → (after (abandonQueue (.tile x)) s).fld f d = s.fld f d :=
  ⟨after_read_eq State.cells (allowed_abandonQueue_tile (allowsEnds_onlyFields (List.Subset.refl _)) x (fun _ _ => by simp [onlyFields])
      (fun _ _ _ => by simp [onlyFields]) s) fun _ => rfl,
    fun _ _ hd hf => fld_chk_of_notChk hc (allowed_abandonQueue_tile allowsEnds_notChk x (fun _ _ => trivial) (fun _ _ _ => trivial) s) hf hd⟩

/-- R111: a replica's tile in FAULT abandons the item it is asked for. -/
theorem moveToRep_abandoned {x o : TileId} {h : HardEvt} {r : Replica} {i : Nat} (hst : (s.core (.tile o)).st = 3) (hb : s.byHandle h.item.handle = some i)
    (hg : (s.passage i).guest = false) {t : State} (ht : t = after (moveToRep x h r o) s) :
    t.fld F.CHK_SECOND_REPLICA x.d.val = min (s.fld F.CHK_SECOND_REPLICA x.d.val + 1) F.CHK_SECOND_REPLICA.top ∧
      (t.core (.tile o)).second = none ∧ t.faulted i 1 ∧ t.cells = s.cells := by
  obtain ⟨u, hm, hu⟩ := moveToRep_shows hc x h r o
  rw [if_pos hst] at hu
  rw [hu] at ht
  subst ht
  obtain ⟨hcells, hf⟩ := abandonQueue_leaves hm.canon o
  obtain ⟨w, hw, -, -, -, hin, -⟩ := hm.item
  have hp : u.passage = s.passage := by rw [hm.frame]; rfl
  refine ⟨(hf _ _ x.d.isLt (by decide)).trans hm.count, second_abandonQueue hm.canon o, ?_, hcells.trans (by rw [hm.frame])⟩
  refine faulted_abandonQueue hm.canon o (by rw [hp]; exact hg) ?_ hin
  rw [byHandle_iff] at hb ⊢
  rw [hp, hw]
  exact hb

/-- Counted at the checker, whether or not the tile is in FAULT. -/
theorem moveToRep_counts (x o : TileId) (h : HardEvt) (r : Replica) {t : State} (ht : t = after (moveToRep x h r o) s) :
    t.fld F.CHK_SECOND_REPLICA x.d.val = min (s.fld F.CHK_SECOND_REPLICA x.d.val + 1) F.CHK_SECOND_REPLICA.top ∧
      t.fld F.CHK_HARD_UNRESOLVED x.d.val = s.fld F.CHK_HARD_UNRESOLVED x.d.val ∧ t.cells = s.cells := by
  obtain ⟨u, hm, hu⟩ := moveToRep_shows hc x h r o
  have hun : u.fld F.CHK_HARD_UNRESOLVED x.d.val = s.fld F.CHK_HARD_UNRESOLVED x.d.val :=
    fld_of_regsBut hm.regs (by simp [regKey, Blk.code])
  have hcu : u.cells = s.cells := by rw [hm.frame]
  rw [hu] at ht
  split at ht
  · subst ht
    obtain ⟨hcells, hf⟩ := abandonQueue_leaves hm.canon o
    exact ⟨(hf _ _ x.d.isLt (by decide)).trans hm.count, (hf _ _ x.d.isLt (by decide)).trans hun, hcells.trans hcu⟩
  · subst ht
    exact ⟨hm.count, hun, hcu⟩

/-! ## Its result (R322, R323) -/

/-- A report of a die's checker shows its kind in CHK_LAST, and changes no other count of the checker. -/
theorem chkReport_shows (d : Nat) (r : HistRec) {t : State} (ht : t = after (chkReport d r) s) :
    t.fld F.CHK_LAST_KIND d = r.kind % 256 ∧ RegsBut [regKey .chk d 0x130, regKey .chk d 0x138] s t ∧ DiesBut [d] s t ∧
      t = { s with regs := t.regs, dies := t.dies, out := t.out } := by
  refine ⟨?_, ht ▸ after_regsBut hc ?_, ht ▸ after_diesBut hc ?_, ht ▸ after_overlay [.regs, .dies, .out] (onlyFields_chkReport (List.Subset.refl _) d r s)⟩
  · obtain ⟨u, hu⟩ : ∃ u, u = after (chkLast d r) s := ⟨_, rfl⟩
    have hcu : u.canon = true := hu ▸ after_canon _ _ hc
    have hk : u.fld F.CHK_LAST_KIND d = r.kind % 256 := by
      obtain ⟨v, hv⟩ : ∃ v, v = after (setF F.CHK_LAST_VALID d 1) s := ⟨_, rfl⟩
      have hcv : v.canon = true := hv ▸ after_canon _ _ hc
      obtain ⟨w, hw⟩ : ∃ w, w = after (setF F.CHK_LAST_KIND d r.kind) v := ⟨_, rfl⟩
      have hcw : w.canon = true := hw ▸ after_canon _ _ hcv
      rw [hu, chkLast, after_seqA_cons, ← hv, after_seqA_cons, ← hw, after_seqA_cons, after_seqA_cons, after_seqA_end,
        fld_set_bits (after_canon _ _ hcw) _ _ _ _ _ (by decide), fld_set_bits hcw _ _ _ _ _ (by decide), hw, fld_set_same hcv _ _ _ (by decide)]
      exact rfl
    rw [ht, after_congr (a := chkReport d r) (b := seqA _) (by simp only [chkReport]; rfl), after_seqA_cons, ← hu, after_seqA_cons, after_seqA_end,
      fld_of_regsBut (after_regsBut (L := [regKey .chk d 0x138]) hcu (by simp)) (by simp [regKey]), hk]
  · simp [chkReport, chkLast]
  · simp [chkReport, chkLast]

/-- The counts of a hard event's outcome share a register, and none of them lies in those of a report. -/
theorem opinion_recorded (x : TileId) (h : HardEvt) (f : Fld) (hf : f ∈ [F.CHK_HARD_DIGITAL, F.CHK_HARD_CHECK, F.CHK_HARD_ARRAY, F.CHK_HARD_UNRESOLVED])
    (r : HistRec) {t : State} (ht : t = after (seqA [bump f x.d.val 1, chkReport x.d.val r, modHard x fun l => l.erase h]) s) :
    t.fld f x.d.val = min (s.fld f x.d.val + 1) f.top ∧ (t.core (.tile x)).hard = (s.core (.tile x)).hard.erase h ∧
      t.fld F.CHK_LAST_KIND x.d.val = r.kind % 256 ∧ CoresBut [.tile x] s t ∧ DiesBut [x.d.val] s t ∧
      t = { s with regs := t.regs, cores := t.cores, dies := t.dies, out := t.out } := by
  obtain ⟨u, hu⟩ : ∃ u, u = after (bump f x.d.val 1) s := ⟨_, rfl⟩
  have hcu : u.canon = true := hu ▸ after_canon _ _ hc
  obtain ⟨v, hv⟩ : ∃ v, v = after (chkReport x.d.val r) u := ⟨_, rfl⟩
  have hcv : v.canon = true := hv ▸ after_canon _ _ hcu
  have htv : t = after (modHard x fun l => l.erase h) v := by rw [ht, after_seqA_cons, ← hu, after_seqA_cons, ← hv, after_seqA_cons, after_seqA_end]
  have hb : f.blk = .chk ∧ f.off = 0x118 ∧ f.lo ≤ f.hi ∧ f.hi < 64 := by
    simp only [List.mem_cons, List.not_mem_nil, or_false] at hf
    rcases hf with rfl | rfl | rfl | rfl <;> decide
  obtain ⟨hblk, hoff, hlo, hhi⟩ := hb
  obtain ⟨hkind, hregs, hdies, hframe⟩ := chkReport_shows hcu x.d.val r hv
  have hcore : ∀ c, t.core c = if c = .tile x then { v.core (.tile x) with hard := (v.core (.tile x)).hard.erase h } else v.core c := fun c => by
    rw [htv]
    exact core_modCore _ hcv _ _ c
  have hvs : v.core = s.core := by
    rw [hframe, hu]
    rfl
  have hfld : ∀ g i, t.fld g i = v.fld g i := fun g i => by rw [htv]; rfl
  refine ⟨?_, by rw [hcore, if_pos rfl, hvs], (hfld _ _).trans hkind, fun c hm => by rw [hcore, if_neg (by simpa using hm), hvs], ?_, ?_⟩
  · rw [hfld, fld_of_regsBut hregs (by simp [regKey, hblk, hoff]), hu]
    exact fld_bump s hc f _ 1 hlo hhi
  · intro d hd
    have h1 : t.die d = v.die d := by rw [htv]; rfl
    rw [h1, hdies d hd, hu]
    rfl
  · rw [ht]
    refine after_overlay [.regs, .cores, .dies, .out] ?_
    simp only [allowed_seqA_cons, allowed_bump, modHard, allowed_modCore, allowed_seqA_nil, and_true]
    exact ⟨by simp, onlyFields_chkReport (by simp) _ _ _, by simp⟩

/-- R322: without a sound second result the event is UNRESOLVED and its passage ends FAULTED with CHECKER. -/
theorem unresolved_shows (x : TileId) (h : HardEvt) {i : Nat} (hb : s.byHandle h.item.handle = some i) (hg : (s.passage i).guest = false)
    {t : State} (ht : t = after (unresolved x h) s) :
    t.fld F.CHK_HARD_UNRESOLVED x.d.val = min (s.fld F.CHK_HARD_UNRESOLVED x.d.val + 1) F.CHK_HARD_UNRESOLVED.top ∧
      (t.core (.tile x)).hard = (s.core (.tile x)).hard.erase h ∧ t.faulted i 9 ∧ t.cells = s.cells := by
  obtain ⟨u, hu⟩ : ∃ u, u = after (seqA [bump F.CHK_HARD_UNRESOLVED x.d.val 1,
    chkReport x.d.val (s.histRec (hardUnit x h 0) 4 (hardFlags h) (some h.item) 0), modHard x fun l => l.erase h]) s := ⟨_, rfl⟩
  have hcu : u.canon = true := hu ▸ after_canon _ _ hc
  obtain ⟨hcount, hhard, -, -, -, hframe⟩ := opinion_recorded hc x h _ (by simp) _ hu
  have hp : u.passage = s.passage := by rw [hframe]; rfl
  obtain ⟨v, hv⟩ : ∃ v, v = after (endHandle x.d.val h.item.handle 9) u := ⟨_, rfl⟩
  have htv : t = after (modDie (s.sbDie h.item) fun x => { x with sb := x.sb.filter fun y => !y.is (idxOf h.item.handle) h.item.stage h.item.rep }) v := by
    rw [ht, hv, hu, after_congr (a := unresolved x h) (b := seqA _) (by simp only [unresolved]; rfl)]
    simp only [after_seqA_cons, after_seqA_end]
  have hfault : v.faulted i 9 := by
    rw [hv]
    refine faulted_endHandle hcu ?_ (by rw [hp]; exact hg)
    rw [byHandle_iff] at hb ⊢
    rw [hp]
    exact hb
  have hins := after_coreRel (R := fun _ x y => y = { x with ins := y.ins }) (fun _ _ => rfl) (fun _ _ _ _ h1 h2 => by rw [h2, h1]) hcu
    (allowed_endHandle (allowsEnds_coreRel fun _ _ _ h => h) x.d.val h.item.handle 9 (fun _ _ => trivial) u) (.tile x)
  rw [← hv] at hins
  have hcells : v.cells = u.cells := hv ▸ after_read_eq State.cells
    (allowed_endHandle (allowsEnds_onlyFields (List.Subset.refl _)) x.d.val h.item.handle 9 (fun _ _ => by simp [onlyFields]) u) fun _ => rfl
  have hcnt : v.fld F.CHK_HARD_UNRESOLVED x.d.val = u.fld F.CHK_HARD_UNRESOLVED x.d.val := hv ▸ fld_chk_of_notChk hcu
    (allowed_endHandle allowsEnds_notChk x.d.val h.item.handle 9 (fun _ _ => trivial) u) (by decide) x.d.isLt
  subst htv
  refine ⟨hcnt.trans hcount, ?_, hfault, hcells.trans (by rw [hframe])⟩
  have hc' : (v.core (.tile x)).hard = (u.core (.tile x)).hard := by rw [hins]
  exact hc'.trans hhard

/-- R321: the tier engine is asked. -/
theorem askTier_shows (x : TileId) (h : HardEvt) {e : Nat} (he : s.engineFor x.d.val = some e) (hph : h.phase ≠ 1) {t : State} (ht : t = after (askTier x h) s) :
    t.fld F.CHK_SECOND_TIER x.d.val = min (s.fld F.CHK_SECOND_TIER x.d.val + 1) F.CHK_SECOND_TIER.top ∧
      (t.core (.tile x)).hard = phased h 2 (s.core (.tile x)).hard ∧
      t.out = s.out ++ [.ctl "OPINION" e h.item.part h.item.stage (idxOf h.item.handle)] ∧ CoresBut [.tile x] s t ∧
      RegsBut [regKey .chk x.d.val F.CHK_SECOND_TIER.off] s t ∧ t = { s with regs := t.regs, cores := t.cores, out := t.out } := by
  have hact : askTier x h s = seqA [bump F.CHK_SECOND_TIER x.d.val 1, modHard x (phased h 2),
      emit (.ctl "OPINION" e h.item.part h.item.stage (idxOf h.item.handle))] s := by
    simp only [askTier, he, if_neg hph]
    rfl
  rw [after_congr hact] at ht
  obtain ⟨u, hu⟩ : ∃ u, u = after (bump F.CHK_SECOND_TIER x.d.val 1) s := ⟨_, rfl⟩
  have hcu : u.canon = true := hu ▸ after_canon _ _ hc
  have hte : t = after (emit (.ctl "OPINION" e h.item.part h.item.stage (idxOf h.item.handle))) (after (modHard x (phased h 2)) u) := by
    rw [ht, after_seqA_cons, ← hu, after_seqA_cons, after_seqA_cons, after_seqA_end]
  have hcore : ∀ c, t.core c = if c = .tile x then { u.core (.tile x) with hard := phased h 2 (u.core (.tile x)).hard } else u.core c := fun c => by
    rw [hte]
    exact core_modCore _ hcu (.tile x) (fun k => { k with hard := phased h 2 k.hard }) c
  have hus : u.core = s.core := by rw [hu]; rfl
  refine ⟨?_, by rw [hcore, if_pos rfl, hus], by rw [hte, hu]; rfl, fun c hm => by rw [hcore, if_neg (by simpa using hm), hus],
    ht ▸ after_regsBut hc (by simp [modHard]), ht ▸ after_overlay [.regs, .cores, .out] (by simp [modHard])⟩
  have hf : t.fld F.CHK_SECOND_TIER x.d.val = u.fld F.CHK_SECOND_TIER x.d.val := by rw [hte]; rfl
  rw [hf, hu]
  exact fld_bump s hc _ _ 1 (by decide) (by decide)

end

/-! ## The two commands -/

section
variable {s : State} {x : TileId} {h : HardEvt}

theorem exec_checkerHardReport_replica (hf : (s.core (.tile x)).hard.find? (fun h => h.phase == 0) = some h) (hm : h.item.moved = none) {r : Replica} {o : TileId}
    (ho : s.opinionRep x.d.val h.item = some (r, o)) : exec (.checkerHardReport x) s = .next (after (moveToRep x h r o) s) := by
  change execCheckerHardReport x s = _
  refine congrArg Host.Outcome.next (after_congr (b := moveToRep x h r o) ?_)
  simp only [hf, hm, ho]

theorem exec_checkerHardReport_engine (hf : (s.core (.tile x)).hard.find? (fun h => h.phase == 0) = some h) (hm : h.item.moved = none)
    (ho : s.opinionRep x.d.val h.item = none) : exec (.checkerHardReport x) s = .next (after (askTier x h) s) := by
  change execCheckerHardReport x s = _
  refine congrArg Host.Outcome.next (after_congr (b := askTier x h) ?_)
  simp only [hf, hm, ho]

theorem exec_secondOpinionDone_none (hf : (s.core (.tile x)).hard.find? (fun h => h.phase != 0) = some h) :
    exec (.secondOpinionDone x none) s = .next (after (match if h.phase = 4 then s.opinionRep x.d.val h.item else none with
      | some (r, o) => moveToRep x h r o
      | none => unresolved x h) s) := by
  change execSecondOpinionDone x none s = _
  refine congrArg Host.Outcome.next (after_congr ?_)
  simp only [hf]
  cases (if h.phase = 4 then s.opinionRep x.d.val h.item else none) with
  | none => rfl
  | some y => rfl

/-- The outcome of an event whose second result is o: its count, its kind and the unit it is charged to. -/
def outcome (s : State) (x : TileId) (h : HardEvt) (o : List Int) : Fld × Nat × Nat :=
  if h.residue then (F.CHK_HARD_DIGITAL, 3, h.unit.toNat) else if s.agree x h o then (F.CHK_HARD_CHECK, 2, unitTile 1 x) else (F.CHK_HARD_ARRAY, 1, unitTile 0 x)

theorem exec_secondOpinionDone_some (hf : (s.core (.tile x)).hard.find? (fun h => h.phase != 0) = some h) (o : List Int) :
    exec (.secondOpinionDone x (some o)) s = .next (after (seqA [bump (outcome s x h o).1 x.d.val 1,
      chkReport x.d.val (s.histRec (outcome s x h o).2.2 (outcome s x h o).2.1 (hardFlags h) (some h.item) (if h.residue then 0 else h.delta)),
      modHard x fun l => l.erase h]) s) := by
  change execSecondOpinionDone x (some o) s = _
  refine congrArg Host.Outcome.next (after_congr ?_)
  simp only [hf, outcome]
  split
  · rfl
  · split <;> rfl

end

end Sys2Proof.Machine

open Sys2Proof Sys2Proof.Machine

/-- Settles O36: each outcome of an event is a field update at its checker and its tile; a passage it ends leaves both. -/
theorem secondOpinions : Obligations.SecondOpinions := by
  unfold Obligations.SecondOpinions
  intro s x h hc
  refine ⟨fun hf hm => ⟨fun r o ho hox hst => ?_, fun r o i ho hox hst hb hg => ?_, fun e ho he => ?_⟩, fun hf => ⟨fun o => ?_, fun r o hp ho => ?_, fun i hn hb hg => ?_⟩⟩
  · obtain ⟨u, hu, hafter⟩ := moveToRep_shows hc x h r o
    rw [if_neg hst] at hafter
    refine ⟨u, (exec_checkerHardReport_replica hf hm ho).trans (by rw [hafter]), hu.count, hu.hard hox, fun hn => ?_, hu.cores, hu.regs, hu.frame⟩
    obtain ⟨w, hw, hr, hmv, hi, -, hfree⟩ := hu.item
    exact ⟨w, hfree hn, hw, hr, hmv, hi⟩
  · exact ⟨_, exec_checkerHardReport_replica hf hm ho, moveToRep_abandoned hc hst hb hg rfl⟩
  · have hph : h.phase ≠ 1 := by
      have h0 := List.find?_some hf
      simp only [beq_iff_eq] at h0
      omega
    exact ⟨_, exec_checkerHardReport_engine hf hm ho, askTier_shows hc x h he hph rfl⟩
  · have hmem : (outcome s x h o).1 ∈ [F.CHK_HARD_DIGITAL, F.CHK_HARD_CHECK, F.CHK_HARD_ARRAY, F.CHK_HARD_UNRESOLVED] := by
      simp only [outcome]
      split_ifs <;> simp
    obtain ⟨hcount, hhard, hkind, hcores, hdies, hframe⟩ := opinion_recorded hc x h (outcome s x h o).1 hmem _ rfl
    refine ⟨_, exec_secondOpinionDone_some hf o, ?_, hhard, hkind.trans ?_, hcores, hdies, hframe⟩
    · have hf1 : (outcome s x h o).1 = if h.residue then F.CHK_HARD_DIGITAL else if s.agree x h o then F.CHK_HARD_CHECK else F.CHK_HARD_ARRAY := by
        simp only [outcome]
        split_ifs <;> rfl
      rw [← hf1]
      exact hcount
    · simp only [State.histRec, outcome]
      split_ifs <;> rfl
  · refine ⟨_, exec_secondOpinionDone_none hf, ?_⟩
    rw [if_pos hp, ho]
    exact moveToRep_counts hc x o h r rfl
  · refine ⟨_, exec_secondOpinionDone_none hf, ?_⟩
    have hno : (if h.phase = 4 then s.opinionRep x.d.val h.item else none) = none := by
      split
      · next hp => exact hn.resolve_left (not_not_intro hp)
      · rfl
    rw [hno]
    exact unresolved_shows hc x h hb hg rfl

end

section
/-!
SUPPORT. A packet at a port block of the fabric (R370, R371, R376, R377): the turns of the port blocks while it is the only one routed.
-/
namespace Sys2Proof.Machine

/-! ## Buffers and their front packets -/

theorem routed_of_cur {k : BfpLink} (h : k.cur = []) (b : Nat) : k.routed b = [] := by
  rw [BfpLink.routed, h]
  rfl

theorem settle_of_unrouted {k : BfpLink} {b : Nat} (h : k.routed b = []) : k.settle b = k := by
  rw [BfpLink.settle, h]

theorem routed_singleton {k : BfpLink} {b : Nat} {c : FabCross} (h : k.cur = [(b, [c])]) (b' : Nat) :
    k.routed b' = if b' = b then [c] else [] := by
  rw [BfpLink.routed, h]
  simp only [SMap.get]
  split
  · rfl
  · split <;> rfl

theorem mem_bufs_of_cur {k : BfpLink} {b : Nat} {l : List FabCross} (h : k.cur = [(b, l)]) : b ∈ k.bufs := by
  simp [BfpLink.bufs, h, SMap.keys]

theorem nodup_bufs (k : BfpLink) : k.bufs.Nodup := List.nodup_dedup _

/-- Of a list without repetition, only one element of which gives anything. -/
theorem flatMap_of_only {α β : Type} {f : α → List β} {a : α} : ∀ {l : List α}, l.Nodup → a ∈ l → (∀ x ∈ l, x ≠ a → f x = []) → l.flatMap f = f a
  | x :: l, hn, ha, hf => by
    obtain ⟨hx, hn⟩ := List.nodup_cons.1 hn
    rw [List.flatMap_cons]
    obtain rfl | ha := List.mem_cons.1 ha
    · rw [List.flatMap_eq_nil_iff.2 fun y hy => hf y (List.mem_cons_of_mem _ hy) fun he => hx (he ▸ hy), List.append_nil]
    · rw [hf x (List.mem_cons_self ..) fun he => hx (he ▸ ha), List.nil_append,
        flatMap_of_only hn ha fun y hy => hf y (List.mem_cons_of_mem _ hy)]

theorem mem_fabSides {i : Nat} : i ∈ fabSides ↔ i < 13 := List.mem_range
theorem nodup_fabSides : fabSides.Nodup := List.nodup_range

theorem firstSys_ne_nil {l : List BfpFlit} (h : l ≠ []) : firstSys l ≠ [] := by
  cases l with
  | nil => exact absurd rfl h
  | cons f l =>
    rw [firstSys]
    split <;> simp

/-! ## One packet is routed and nothing else is on its way -/

/-- The packet c at the front of buffer b of link n is the only one routed, and no packet cut off is to be ended. -/
structure OnlyPacket (n b : Nat) (c : FabCross) (s : State) : Prop where
  side : n < 13
  cur : (s.bfpLink n).cur = [(b, [c])]
  others : ∀ i ∈ fabSides, i ≠ n → (s.bfpLink i).cur = []
  ends : ∀ i ∈ fabSides, (s.bfpLink i).ends = []

section
variable {n b : Nat} {c : FabCross} {s : State} (h : OnlyPacket n b c s)
include h

theorem fabOffers_only : s.fabOffers =
    (c.outs.filter fun o => decide (o.taken - c.gone < (firstSys ((s.bfpLink n).inBuf b)).length)).map fun o => ⟨n, b, c, o⟩ := by
  rw [State.fabOffers, flatMap_of_only (a := n) nodup_fabSides (mem_fabSides.2 h.side), flatMap_of_only (a := b) (nodup_bufs _) (mem_bufs_of_cur h.cur)]
  · rw [routed_singleton h.cur, if_pos rfl]
  · intro x _ hx
    rw [routed_singleton h.cur, if_neg hx]
  · intro i hi hn
    refine List.flatMap_eq_nil_iff.2 fun x _ => ?_
    rw [routed_of_cur (h.others i hi hn)]

/-- With nothing to send and nothing for the package, the port blocks settle the packet's buffer, if at all. -/
theorem fabStep_settles (hs : ∀ m < 12, sendFab m s = []) (hp : ∀ o ∈ c.outs, o.link ≠ 12) :
    fabStep s = if (s.bfpLink n).settle b = s.bfpLink n then [] else [.bfpLink n ((s.bfpLink n).settle b)] := by
  have h1 : s.fabOffers.find? (fun x => x.o.link == 12) = none := List.find?_eq_none.2 fun x hx => by
    rw [fabOffers_only h] at hx
    obtain ⟨o, ho, rfl⟩ := List.mem_map.1 hx
    simpa using hp o (List.mem_of_mem_filter ho)
  have h2 : ((List.range 12).map fun n => sendFab n s).find? (fun l => !l.isEmpty) = none := List.find?_eq_none.2 fun l hl => by
    obtain ⟨m, hm, rfl⟩ := List.mem_map.1 hl
    simp [hs m (List.mem_range.1 hm)]
  simp only [fabStep, h1, h2]
  rw [flatMap_of_only (a := n) nodup_fabSides (mem_fabSides.2 h.side), flatMap_of_only (a := b) (nodup_bufs _) (mem_bufs_of_cur h.cur)]
  · split <;> rfl
  · intro x _ hx
    rw [if_pos (settle_of_unrouted (by rw [routed_singleton h.cur, if_neg hx]))]
  · intro i hi hn
    refine List.flatMap_eq_nil_iff.2 fun x _ => ?_
    rw [if_pos (settle_of_unrouted (routed_of_cur (h.others i hi hn) x))]

end

/-! ## The turns of the port blocks -/

theorem after_fabFor_succ (n : Nat) (s : State) : after (fabFor (n + 1)) s = after (fabFor n) (after fabStep s) := by
  have hnil : ∀ t : State, fabStep t = [] → after (fabFor n) t = t := fun t ht => by
    cases n with
    | zero => rfl
    | succ n =>
      rw [after_congr (b := skip), after_skipped]
      simp only [fabFor, ht]
      rfl
  by_cases hl : fabStep s = []
  · have ha : after fabStep s = s := by
      rw [after, hl]
      rfl
    rw [ha, hnil s hl, after_congr (b := skip), after_skipped]
    simp only [fabFor, hl]
    rfl
  · rw [after_congr (b := seqA [fun _ => fabStep s, fabFor n])]
    · rw [after_seqA_cons, after_seqA_cons, after_seqA_end]
      rfl
    · simp only [fabFor, List.isEmpty_iff, if_neg hl]

/-- What every turn keeps, the flow keeps. -/
theorem fabFor_keeps {I : State → Prop} (h : ∀ s, I s → I (after fabStep s)) : ∀ n s, I s → I (after (fabFor n) s)
  | 0, _, hs => hs
  | n + 1, s, hs => by
    rw [after_fabFor_succ]
    exact fabFor_keeps h n _ (h s hs)

/-- The flow of the port blocks is at least one turn, further turns, and the credits owed. -/
theorem after_fabFlow (s : State) : ∃ N, after fabFlow s = after (forA fabSides payFab) (after (fabFor N) (after fabStep s)) := by
  refine ⟨14 * (fabSides.flatMap fun i => (s.bfpLink i).bufs.map fun b => ((s.bfpLink i).inBuf b).length + ((s.bfpLink i).routed b).length).sum +
    ((List.range 12).map fun i => (s.bfpLink i).ends.length).sum, ?_⟩
  rw [after_congr (a := fabFlow) (b := seqA _) (by simp only [fabFlow]; rfl), after_seqA_cons, after_seqA_cons, after_seqA_end, after_fabFor_succ]

/-! ## A link that has nothing to send -/

theorem sendFab_of_no_offer {m : Nat} {s : State} (he : (s.bfpLink m).ends = []) (hl : ∀ x ∈ s.fabOffers, s.mayGoFab m x = false) : sendFab m s = [] := by
  have hf : s.fabOffers.filter (s.mayGoFab m) = [] := List.filter_eq_nil_iff.2 fun x hx => by simp [hl x hx]
  have hp : s.fabPick m = none := by
    simp only [State.fabPick, hf]
    rfl
  simp only [sendFab, he, hp]
  split <;> rfl

/-! ## The packet is routed -/

/-- A packet as it goes on, one hop older. -/
def older (k : SysPacket) : SysPacket := { k with hops := k.hops + 1 }

/-- The head of packet k, at the front of buffer b of link n, is routed by the ways l. -/
def routeFab (n b : Nat) (k : SysPacket) (l : List FabBranch) : Act :=
  modBfp n fun x => { x with cur := SMap.set (fun _ => []) x.cur b [⟨older k, 0, l⟩] }

section
variable {s : State} (hc : s.canon = true)
include hc

theorem bfpLink_modBfp (n : Nat) (f : BfpLink → BfpLink) (i : Nat) : (after (modBfp n f) s).bfpLink i = if i = n then f (s.bfpLink n) else s.bfpLink i :=
  bfpLink_ap_bfpLink s hc n _ i

theorem bfpLink_routeFab {n b : Nat} {k : SysPacket} {l : List FabBranch} (hcur : (s.bfpLink n).cur = []) (i : Nat) :
    (after (routeFab n b k l) s).bfpLink i = if i = n then { s.bfpLink n with cur := [(b, [⟨older k, 0, l⟩])] } else s.bfpLink i := by
  rw [routeFab, bfpLink_modBfp hc]
  split
  · rw [hcur]
    rfl
  · rfl

theorem onlyPacket_routeFab {n b : Nat} {k : SysPacket} {l : List FabBranch} (hq : s.fabQuiet = true) (hn : n < 13) :
    OnlyPacket n b ⟨older k, 0, l⟩ (after (routeFab n b k l) s) := by
  have hall : ∀ i ∈ fabSides, (s.bfpLink i).cur = [] ∧ (s.bfpLink i).ends = [] := fun i hi => by
    have h := List.all_eq_true.1 hq i hi
    simp only [Bool.and_eq_true, List.isEmpty_iff] at h
    exact h.1
  have hb := bfpLink_routeFab hc (b := b) (k := k) (l := l) (hall n (mem_fabSides.2 hn)).1
  refine ⟨hn, by rw [hb, if_pos rfl], fun i hi hin => by rw [hb, if_neg hin]; exact (hall i hi).1, fun i hi => ?_⟩
  rw [hb]
  split
  · exact (hall n (mem_fabSides.2 hn)).2
  · exact (hall i hi).2

end

/-! ## The credits owed -/

theorem payFab_none {n : Nat} {s : State} (h : (s.bfpLink n).owed = []) : payFab n s = [] := by
  simp only [payFab, h]
  rfl

/-! ## A packet without a credit waits (R367) -/

/-- A state in which packet c waits in buffer b of link n for a credit of link m. -/
structure WaitsCredit (n b m : Nat) (c : FabCross) (s t : State) : Prop where
  canon : t.canon = true
  only : OnlyPacket n b c t
  inBuf : (t.bfpLink n).inBuf b = (s.bfpLink n).inBuf b
  credits : (t.bfpLink m).credits = (s.bfpLink m).credits
  owed : ∀ i ∈ fabSides, (t.bfpLink i).owed = []
  frame : t = { s with bfp := t.bfp }

/-- A buffer of whose packet nothing has been taken: settling it leaves what it holds. -/
theorem settle_untaken {k : BfpLink} {b : Nat} {p : SysPacket} {o : FabBranch} (hcur : k.cur = [(b, [⟨p, 0, [o]⟩])]) (ho : o.taken = 0) :
    k.settle b = { k with rxBuf := SMap.set (fun _ => []) k.rxBuf b (k.inBuf b) } := by
  have hr : k.routed b = [⟨p, 0, [o]⟩] := by rw [routed_singleton hcur, if_pos rfl]
  simp only [BfpLink.settle, hr, List.map_cons, List.map_nil, List.foldl_nil, ho, Nat.sub_zero, List.take_zero, List.length_nil,
    List.drop_zero, List.any_nil, Bool.false_eq_true, if_false, Nat.add_zero, List.append_nil, hcur, SMap.set, if_true]
  simp [← hcur]

theorem waitsCredit_turn {n b m : Nat} {p : SysPacket} {o : FabBranch} {s t : State} (hm : o.link = m ∧ m ≠ 12 ∧ o.taken = 0)
    (hcr : SMap.get noCredit (s.bfpLink m).credits (poolKey p.pkt.vc o.clsB (s.entOf m p.job.toNat)) = 0)
    (h : WaitsCredit n b m ⟨p, 0, [o]⟩ s t) : WaitsCredit n b m ⟨p, 0, [o]⟩ s (after fabStep t) := by
  obtain ⟨hl, hne, htk⟩ := hm
  have hent : t.entOf m p.job.toNat = s.entOf m p.job.toNat := by rw [h.frame]; rfl
  have hs : ∀ j < 12, sendFab j t = [] := fun j hj => sendFab_of_no_offer (h.only.ends j (mem_fabSides.2 (by omega))) fun x hx => by
    rw [fabOffers_only h.only] at hx
    obtain ⟨o', ho', rfl⟩ := List.mem_map.1 hx
    obtain rfl : o' = o := by simpa using List.mem_of_mem_filter ho'
    by_cases hj' : m = j
    · subst hj'
      simp only [State.mayGoFab, State.poolKeyOf, State.poolOf, htk, if_true, hent, h.credits, hcr]
      simp
    · simp [State.mayGoFab, hl, hj']
  have hstep := fabStep_settles h.only hs (by simpa [hl] using hne)
  have hset := settle_untaken h.only.cur htk
  obtain ⟨u, hu⟩ : ∃ u, u = after fabStep t := ⟨_, rfl⟩
  rw [← hu]
  have hb : (∀ i, u.bfpLink i = if i = n then { t.bfpLink n with rxBuf := (u.bfpLink n).rxBuf } else t.bfpLink i) ∧
      (u.bfpLink n).inBuf b = (t.bfpLink n).inBuf b := by
    by_cases hk : (t.bfpLink n).settle b = t.bfpLink n
    · rw [if_pos hk] at hstep
      have hut : u = t := by rw [hu, after, hstep]; rfl
      rw [hut]
      refine ⟨fun i => ?_, rfl⟩
      split
      · next hi => rw [hi]
      · rfl
    · rw [if_neg hk] at hstep
      have hut : u = (Eff.bfpLink n ((t.bfpLink n).settle b)).ap t := by rw [hu, after, hstep]; rfl
      have hbl := bfpLink_ap_bfpLink t h.canon n ((t.bfpLink n).settle b)
      rw [← hut, hset] at hbl
      refine ⟨fun i => ?_, ?_⟩
      · rw [hbl i, hbl n, if_pos rfl]
      · rw [hbl n, if_pos rfl]
        exact SMap.get_set_self _ _ _ _
  obtain ⟨hbl, hin⟩ := hb
  have keep : ∀ {β : Type} (f : BfpLink → β), (∀ (k : BfpLink) r, f { k with rxBuf := r } = f k) → ∀ i, f (u.bfpLink i) = f (t.bfpLink i) := fun f hf i => by
    rw [hbl]
    split
    · next hi => rw [hf, hi]
    · rfl
  refine ⟨hu ▸ after_canon _ _ h.canon, ⟨h.only.side, ?_, fun i hi hin => ?_, fun i hi => ?_⟩, hin.trans h.inBuf, ?_, fun i hi => ?_, ?_⟩
  · exact (keep BfpLink.cur (fun _ _ => rfl) n).trans h.only.cur
  · exact (keep BfpLink.cur (fun _ _ => rfl) i).trans (h.only.others i hi hin)
  · exact (keep BfpLink.ends (fun _ _ => rfl) i).trans (h.only.ends i hi)
  · exact (keep BfpLink.credits (fun _ _ => rfl) m).trans h.credits
  · exact (keep BfpLink.owed (fun _ _ => rfl) i).trans (h.owed i hi)
  · have hut : u = { t with bfp := u.bfp } := hu ▸ after_overlay [.bfp] (by
      rw [hstep]
      split <;> simp [onlyFields])
    rw [hut, h.frame]

theorem fabFlow_waits {n b m : Nat} {p : SysPacket} {o : FabBranch} {s : State} (hm : o.link = m ∧ m ≠ 12 ∧ o.taken = 0)
    (hcr : SMap.get noCredit (s.bfpLink m).credits (poolKey p.pkt.vc o.clsB (s.entOf m p.job.toNat)) = 0)
    (h : WaitsCredit n b m ⟨p, 0, [o]⟩ s s) : WaitsCredit n b m ⟨p, 0, [o]⟩ s (after fabFlow s) := by
  obtain ⟨N, hN⟩ := after_fabFlow s
  have hw := fabFor_keeps (I := WaitsCredit n b m ⟨p, 0, [o]⟩ s) (fun t ht => waitsCredit_turn hm hcr ht) N _ (waitsCredit_turn hm hcr h)
  have hpay : after fabFlow s = after (fabFor N) (after fabStep s) := by
    rw [hN]
    refine after_forA_of_forall_eq _ _ _ fun i hi => ?_
    rw [after, payFab_none (hw.owed i hi)]
    rfl
  rw [hpay]
  exact hw

/-! ## A packet without a way is discarded (R371, R377) -/

theorem any_tail_firstSys {l : List BfpFlit} (h : l.any BfpFlit.tail = true) : (firstSys l).any BfpFlit.tail = true := by
  rw [firstSys]
  cases hf : l.findIdx? BfpFlit.tail with
  | none =>
    obtain ⟨f, hm, ht⟩ := List.any_eq_true.1 h
    exact absurd ht (by simp [List.findIdx?_eq_none_iff.1 hf f hm])
  | some i =>
    obtain ⟨hi, ht, -⟩ := List.findIdx?_eq_some_iff_getElem.1 hf
    exact List.any_eq_true.2 ⟨l[i], List.mem_take_iff_getElem.2 ⟨i, by omega, rfl⟩, ht⟩

/-- A buffer whose packet has no branch loses it, and owes its credits. -/
theorem settle_discards {k : BfpLink} {b : Nat} {p : SysPacket} (hcur : k.cur = [(b, [⟨p, 0, []⟩])]) (ht : (k.inBuf b).any BfpFlit.tail = true) :
    k.settle b = { k with rxBuf := SMap.set (fun _ => []) k.rxBuf b ((k.inBuf b).drop (firstSys (k.inBuf b)).length), cur := [], owed := k.owed ++ (firstSys (k.inBuf b)).map flitPool } := by
  have hr : k.routed b = [⟨p, 0, []⟩] := by rw [routed_singleton hcur, if_pos rfl]
  simp only [BfpLink.settle, hr, List.map_nil, List.take_length, any_tail_firstSys ht, if_true, hcur, SMap.set]
  rfl

/-- With no packet routed and none to be ended the port blocks do nothing. -/
theorem fabStep_idle {s : State} (h : ∀ i ∈ fabSides, (s.bfpLink i).cur = [] ∧ (s.bfpLink i).ends = []) : fabStep s = [] := by
  have ho : s.fabOffers = [] := List.flatMap_eq_nil_iff.2 fun i hi => List.flatMap_eq_nil_iff.2 fun b _ => by rw [routed_of_cur (h i hi).1]
  have h2 : ((List.range 12).map fun n => sendFab n s).find? (fun l => !l.isEmpty) = none := List.find?_eq_none.2 fun l hl => by
    obtain ⟨m, hm, rfl⟩ := List.mem_map.1 hl
    rw [sendFab_of_no_offer (h m (mem_fabSides.2 (by have := List.mem_range.1 hm; omega))).2 (by simp [ho])]
    simp
  simp only [fabStep, h2, ho, List.find?_nil]
  rw [List.flatMap_eq_nil_iff.2 fun i hi => List.flatMap_eq_nil_iff.2 fun b _ => if_pos (settle_of_unrouted (routed_of_cur (h i hi).1 b)), List.take_nil]

/-- The credits of a list of pools, up to 255 of one pool together. -/
def payments (l : List Nat) : List (Nat × Nat) := l.dedup.flatMap fun b =>
  (List.range ((l.countP (fun x => x == b) + 254) / 255)).map fun i => (b, min 255 (l.countP (fun x => x == b) - 255 * i))

theorem mem_payments {l : List Nat} {b : Nat} (h : b ∈ l) : ∃ m, 0 < m ∧ (b, m) ∈ payments l := by
  have hpos : 0 < l.countP fun x => x == b := List.countP_pos_iff.2 ⟨b, h, by simp⟩
  refine ⟨min 255 (l.countP fun x => x == b), by omega, List.mem_flatMap.2 ⟨b, List.mem_dedup.2 h, List.mem_map.2 ⟨0, List.mem_range.2 (by omega), ?_⟩⟩⟩
  simp

theorem out_forA_emit {α : Type} (f : α → Out) : ∀ (l : List α) (s : State), (after (forA l fun x => emit (f x)) s).out = s.out ++ l.map f
  | [], s => (List.append_nil _).symm
  | x :: l, s => by
    rw [after_forA_cons, out_forA_emit f l]
    simp [emit]

theorem payFab_owing {i : Nat} {s : State} (h : (s.bfpLink i).owed ≠ []) : payFab i s = seqA [modBfp i fun x => { x with owed := [] },
    whenA (fun s => s.linkUp i) (forA (payments (s.bfpLink i).owed) fun x => emit (.bfpFlits i [idleBfp (s.bfpLink i).rxSeq false x.1 x.2]))] s := by
  simp only [payFab, List.isEmpty_iff, if_neg h]
  rfl

theorem allowed_payFab {P : State → Eff → Prop} {i : Nat} (hb : ∀ s l, P s (.bfpLink i { s.bfpLink i with owed := l })) (ho : ∀ s o, P s (.out o)) (s : State) :
    Allowed P (payFab i s) s := by
  by_cases hk : (s.bfpLink i).owed = []
  · rw [payFab_none hk]
    exact .nil _
  · rw [payFab_owing hk]
    simp only [allowed_seqA_cons, allowed_modBfp, allowed_whenA, allowed_seqA_nil, and_true]
    exact ⟨hb _ _, fun _ => allowed_forA _ _ _ fun _ _ _ => by simp [ho]⟩

/-- R361: what a link that is UP owes goes back in IDLE flits. -/
theorem payFab_pays {s : State} {i : Nat} (hup : s.linkUp i = true) {b : Nat} (hb : b ∈ (s.bfpLink i).owed) :
    ∃ m, 0 < m ∧ .bfpFlits i [idleBfp (s.bfpLink i).rxSeq false b m] ∈ (after (payFab i) s).out := by
  have hup' : (after (modBfp i fun x => { x with owed := [] }) s).linkUp i = true := hup
  obtain ⟨m, hm, hin⟩ := mem_payments hb
  refine ⟨m, hm, ?_⟩
  rw [after_congr (payFab_owing (List.ne_nil_of_mem hb)), after_seqA_cons, after_seqA_cons, after_seqA_end, after_whenA, if_pos hup', out_forA_emit]
  exact List.mem_append_right _ (List.mem_map.2 ⟨_, hin, rfl⟩)

/-- What one link pays leaves every other, and which links are UP. -/
theorem payFab_leaves {s : State} (hc : s.canon = true) {i n : Nat} (hn : n ≠ i) :
    (after (payFab i) s).bfpLink n = s.bfpLink n ∧ (after (payFab i) s).linkUp n = s.linkUp n := by
  refine ⟨?_, after_read_eq (State.linkUp · n) (fs := [.bfp, .out]) (allowed_payFab (fun _ _ => by simp) (fun _ _ => by simp) s) fun _ => rfl⟩
  exact after_bfpRel (R := fun j x y => j ≠ i → y = x) (fun _ _ _ => rfl) (fun _ _ _ _ h1 h2 hj => (h2 hj).trans (h1 hj)) hc
    (allowed_payFab (P := bfpRel fun j x y => j ≠ i → y = x) (fun _ _ hj => absurd rfl hj) (fun _ _ => trivial) s) n hn

theorem forA_payFab_pays {n : Nat} {b : Nat} (l : List Nat) {s : State} (hc : s.canon = true) (hup : s.linkUp n = true) (hn : n ∈ l)
    (hb : b ∈ (s.bfpLink n).owed) : ∃ m, 0 < m ∧ .bfpFlits n [idleBfp (s.bfpLink n).rxSeq false b m] ∈ (after (forA l payFab) s).out := by
  induction l generalizing s with
  | nil => exact absurd hn List.not_mem_nil
  | cons x l ih =>
    rw [after_forA_cons]
    by_cases hx : n = x
    · subst hx
      obtain ⟨m, hm, hin⟩ := payFab_pays hup hb
      exact ⟨m, hm, (apAll_out _ _).subset hin⟩
    · obtain ⟨hk, hu⟩ := payFab_leaves hc hx
      rw [← hk]
      exact ih (after_canon _ _ hc) (hu.trans hup) ((List.mem_cons.1 hn).resolve_left hx) (hk ▸ hb)

section
variable {s : State} (hc : s.canon = true)
include hc

theorem fabFlow_discards {n b : Nat} {p : SysPacket} (ho : OnlyPacket n b ⟨p, 0, []⟩ s) (htail : ((s.bfpLink n).inBuf b).any BfpFlit.tail = true)
    {t : State} (ht : t = after fabFlow s) :
    (t.bfpLink n).inBuf b = ((s.bfpLink n).inBuf b).drop (firstSys ((s.bfpLink n).inBuf b)).length ∧ (t.bfpLink n).routed b = [] ∧
      (s.linkUp n = true → ∀ g ∈ firstSys ((s.bfpLink n).inBuf b), ∃ m, 0 < m ∧ .bfpFlits n [idleBfp (s.bfpLink n).rxSeq false (flitPool g) m] ∈ t.out) ∧
      t = { s with bfp := t.bfp, out := t.out } := by
  have hoff : s.fabOffers = [] := by
    rw [fabOffers_only ho]
    rfl
  have hs : ∀ m < 12, sendFab m s = [] := fun m hm => sendFab_of_no_offer (ho.ends m (mem_fabSides.2 (by omega))) (by simp [hoff])
  have hset := settle_discards ho.cur htail
  have hne : (s.bfpLink n).settle b ≠ s.bfpLink n := fun he => by
    have h := congrArg BfpLink.cur he
    rw [hset, ho.cur] at h
    cases h
  have hstep := fabStep_settles ho hs (by simp)
  rw [if_neg hne] at hstep
  obtain ⟨u, hu⟩ : ∃ u, u = after fabStep s := ⟨_, rfl⟩
  have hcu : u.canon = true := hu ▸ after_canon _ _ hc
  have hus : u = (Eff.bfpLink n ((s.bfpLink n).settle b)).ap s := by rw [hu, after, hstep]; rfl
  have hbl := bfpLink_ap_bfpLink s hc n ((s.bfpLink n).settle b)
  rw [← hus] at hbl
  have hidle : ∀ i ∈ fabSides, (u.bfpLink i).cur = [] ∧ (u.bfpLink i).ends = [] := fun i hi => by
    rw [hbl]
    split
    · rw [hset]
      exact ⟨rfl, ho.ends n (mem_fabSides.2 ho.side)⟩
    · next hin => exact ⟨ho.others i hi hin, ho.ends i hi⟩
  have hfor : ∀ N, after (fabFor N) u = u := fun N => fabFor_keeps (I := fun t => t = u) (fun t hte => by
    rw [hte, after, fabStep_idle hidle]
    rfl) N u rfl
  obtain ⟨N, hN⟩ := after_fabFlow s
  rw [← ht, ← hu, hfor] at hN
  have hrel := after_bfpRel (R := fun _ x y => y = { x with owed := y.owed }) (fun _ _ => rfl) (fun _ _ _ _ h1 h2 => by rw [h2, h1]) hcu
    (a := forA fabSides payFab) (allowed_forA _ _ _ fun i _ => allowed_payFab (fun _ _ => rfl) fun _ _ => trivial)
  rw [← hN] at hrel
  have hn : t.bfpLink n = { (s.bfpLink n).settle b with owed := (t.bfpLink n).owed } := by
    rw [hrel n, hbl n, if_pos rfl]
  refine ⟨?_, ?_, fun hup => ?_, ?_⟩
  · rw [hn, hset]
    exact SMap.get_set_self _ _ _ _
  · rw [hn, hset]
    rfl
  · intro g hg
    have huf : u = { s with bfp := u.bfp } := by rw [hus]; rfl
    have hun : u.bfpLink n = (s.bfpLink n).settle b := by rw [hbl, if_pos rfl]
    have hupu : u.linkUp n = true := by
      rw [huf]
      exact hup
    have hmem : flitPool g ∈ (u.bfpLink n).owed := by
      rw [hun, hset]
      exact List.mem_append_right _ (List.mem_map_of_mem hg)
    obtain ⟨m, hm, hin⟩ := forA_payFab_pays fabSides hcu hupu (mem_fabSides.2 ho.side) hmem
    rw [← hN, hun, hset] at hin
    exact ⟨m, hm, hin⟩
  · have huf : u = { s with bfp := u.bfp } := by rw [hus]; rfl
    have hf := after_overlay [.bfp, .out] (a := forA fabSides payFab) (s := u) (allowed_forA _ _ _ fun i _ => allowed_payFab (fun _ _ => by simp) fun _ _ => by simp)
    rw [← hN, huf] at hf
    exact hf

end

/-! ## A packet goes on (R371) -/

/-- A link that owes no end of a packet, and none of whose packets is for the package. -/
structure FabSide (k : BfpLink) : Prop where
  ends : k.ends = []
  wf : SMap.wf (fun _ => ([] : List FabCross)) k.cur = true
  away : ∀ b, ∀ c ∈ k.routed b, ∀ o ∈ c.outs, o.link ≠ 12

/-- What a turn of the port blocks does to a link: such a link stays one, and what it keeps stays kept. -/
def SideKept (k k' : BfpLink) : Prop := (FabSide k → FabSide k') ∧ k.kept ⊆ k'.kept

theorem SideKept.refl (k : BfpLink) : SideKept k k := ⟨id, List.Subset.refl _⟩
theorem SideKept.trans {k k' k'' : BfpLink} (h : SideKept k k') (h' : SideKept k' k'') : SideKept k k'' := ⟨h'.1 ∘ h.1, fun _ hg => h'.2 (h.2 hg)⟩

/-- The packets of one buffer give way to others with the same ways at most. -/
theorem FabSide.reroute {k k' : BfpLink} (h : FabSide k) {b : Nat} {l : List FabCross} (hends : k'.ends = k.ends) (hcur : k'.cur = SMap.set (fun _ => []) k.cur b l)
    (hl : ∀ c ∈ l, ∀ o ∈ c.outs, o.link ≠ 12) : FabSide k' where
  ends := hends.trans h.ends
  wf := by
    rw [hcur]
    exact SMap.set_wf _ _ _ _ h.wf
  away b' c hm := by
    rw [BfpLink.routed, hcur] at hm
    by_cases hb : b' = b
    · subst hb
      rw [SMap.get_set_self] at hm
      exact hl c hm
    · rw [SMap.get_set_other _ _ _ _ _ h.wf hb] at hm
      exact h.away b' c hm

theorem sideKept_settle (b : Nat) (k : BfpLink) : SideKept k (k.settle b) := by
  cases hr : k.routed b with
  | nil =>
    rw [settle_of_unrouted hr]
    exact .refl k
  | cons c r =>
    have haway : FabSide k → (∀ o ∈ c.outs, o.link ≠ 12) ∧ ∀ c ∈ r, ∀ o ∈ c.outs, o.link ≠ 12 := fun h =>
      ⟨h.away b c (hr ▸ List.mem_cons_self ..), fun c hc => h.away b c (hr ▸ List.mem_cons_of_mem _ hc)⟩
    simp only [BfpLink.settle, hr]
    refine ⟨fun h => h.reroute (b := b) rfl rfl ?_, List.Subset.refl _⟩
    have hleft : ∀ out : List BfpFlit, ∀ c' ∈ (if out.any BfpFlit.tail then r else { c with gone := c.gone + out.length } :: r), ∀ o ∈ c'.outs, o.link ≠ 12 := fun out => by
      obtain ⟨h1, h2⟩ := haway h
      split
      · exact h2
      · exact List.forall_mem_cons.2 ⟨h1, h2⟩
    exact hleft _

theorem sideKept_take (b n ent m : Nat) (k : BfpLink) : SideKept k (k.take b n ent m) := by
  unfold BfpLink.take
  refine SideKept.trans ?_ (sideKept_settle _ _)
  refine ⟨fun h => h.reroute (b := b) rfl rfl ?_, List.Subset.refl _⟩
  cases hr : k.routed b with
  | nil => simp
  | cons c r =>
    refine List.forall_mem_cons.2 ⟨fun o ho => ?_, fun c hc => h.away b c (hr ▸ List.mem_cons_of_mem _ hc)⟩
    obtain ⟨o', ho', rfl⟩ := List.mem_map.1 ho
    have := h.away b c (hr ▸ List.mem_cons_self ..) o' ho'
    split <;> exact this

theorem FabSide.congr {k k' : BfpLink} (h : FabSide k) (hends : k'.ends = k.ends) (hcur : k'.cur = k.cur) : FabSide k' :=
  ⟨hends.trans h.ends, hcur ▸ h.wf, fun b c hc => h.away b c (by rw [BfpLink.routed, ← hcur]; exact hc)⟩

/-- What R368 chooses for a link is an offer that may go there, and of the link only its turns change. -/
theorem fabPick_spec {s : State} {m : Nat} {x : FabOffer} {k : BfpLink} (h : s.fabPick m = some (x, k)) :
    x ∈ s.fabOffers ∧ s.mayGoFab m x = true ∧ ∃ tn vt, k = { s.bfpLink m with turn := tn, vcTurn := vt } := by
  simp only [State.fabPick] at h
  split at h
  · next y hy =>
    obtain ⟨rfl, rfl⟩ : y = x ∧ _ := by simpa using h
    exact ⟨List.mem_of_mem_filter (List.mem_of_find?_eq_some hy), (List.mem_filter.1 (List.mem_of_find?_eq_some hy)).2, _, _, rfl⟩
  · obtain ⟨y, hy, he⟩ := Option.map_eq_some_iff.1 h
    obtain ⟨rfl, rfl⟩ : y = x ∧ _ := by simpa using he
    obtain ⟨hl, hm⟩ := List.mem_filter.1 (List.mem_of_mem_filter (List.mem_of_find?_eq_some hy))
    exact ⟨hl, hm, _, _, rfl⟩

/-- The flit of offer x of a link's turn goes out on link m. -/
def sendOffer (m : Nat) (k : BfpLink) (x : FabOffer) (f : BfpFlit) : Act := fun s =>
  seqA [modBfp m fun _ => { k with lock := SMap.set noUsed k.lock (s.poolKeyOf m x) (if f.tail then 0 else x.src) }, sendBfp m (s.poolKeyOf m x) f,
    modBfp x.i (BfpLink.take x.b m (s.poolOf m x) 1)] s

/-- A link that owes no end of a packet sends nothing, or the next flit of an offer that may go there. -/
theorem sendFab_cases {s : State} {m : Nat} (he : (s.bfpLink m).ends = []) : sendFab m s = [] ∨ ∃ x k f, s.fabPick m = some (x, k) ∧
    (sysFlits x.c.pkt x.o.clsB (s.poolOf m x))[x.o.taken]? = some f ∧ sendFab m s = sendOffer m k x f s := by
  simp only [sendFab, he, List.find?_nil]
  split
  · exact .inl rfl
  · cases hp : s.fabPick m with
    | none => exact .inl rfl
    | some y =>
      obtain ⟨x, k⟩ := y
      cases hf : (sysFlits x.c.pkt x.o.clsB (s.poolOf m x))[x.o.taken]? with
      | none =>
        refine .inl ?_
        simp only [hf]
        rfl
      | some f =>
        refine .inr ⟨x, k, f, rfl, hf, ?_⟩
        simp only [hf]
        rfl

theorem allowed_sendBfp {P : State → Eff → Prop} {m : Nat} (hb : ∀ s k cr sq, P s (.bfpLink m { s.bfpLink m with txSeq := sq, kept := (s.bfpLink m).kept ++ k, credits := cr }))
    (ho : ∀ s o, P s (.out o)) (hr : ∀ s v, P s (.reg .bfp m F.BFP_FLITS_COUNT.off v)) (pool : Nat) (f : BfpFlit) (s : State) :
    Allowed P (sendBfp m pool f s) s := by
  simp only [sendBfp, allowed_seqA_cons, allowed_modBfp, allowed_emit, allowed_bumpW, allowed_seqA_nil, and_true]
  exact ⟨hb _ _ _ _, ho _ _, hr _ _⟩

/-- What a turn of the port blocks does, where no link owes an end and no packet is for the package. -/
structure TurnOf (s t : State) : Prop where
  canon : t.canon = true
  sides : ∀ i, SideKept (s.bfpLink i) (t.bfpLink i)
  frame : t = { s with regs := t.regs, bfp := t.bfp, out := t.out }
  sent : s.out ⊆ t.out

theorem allowed_sendOffer {P : State → Eff → Prop} {m : Nat} {k : BfpLink} {x : FabOffer} {f : BfpFlit} {s : State}
    (hk : ∀ lk, P s (.bfpLink m { k with lock := lk }))
    (hb : ∀ s k cr sq, P s (.bfpLink m { s.bfpLink m with txSeq := sq, kept := (s.bfpLink m).kept ++ k, credits := cr }))
    (ht : ∀ s b ent, P s (.bfpLink x.i ((s.bfpLink x.i).take b m ent 1))) (ho : ∀ s o, P s (.out o)) (hr : ∀ s v, P s (.reg .bfp m F.BFP_FLITS_COUNT.off v)) :
    Allowed P (sendOffer m k x f s) s := by
  simp only [sendOffer, allowed_seqA_cons, allowed_modBfp, allowed_seqA_nil, and_true]
  exact ⟨hk _, allowed_sendBfp hb ho hr _ _ _, ht _ _ _⟩

theorem allowed_take_one {P : State → Eff → Prop} {l : List Eff} {s : State} (h : ∀ e ∈ l, P s e) : Allowed P (l.take 1) s := by
  cases l with
  | nil => exact .nil _
  | cons e l =>
    simp only [List.take_succ_cons, List.take_zero, allowed_cons, allowed_nil, and_true]
    exact h e (List.mem_cons_self ..)

section
variable {s : State} (hc : s.canon = true)
include hc

/-- One turn, where no link owes an end and no packet is for the package. -/
theorem fabStep_turn (h : ∀ i ∈ fabSides, FabSide (s.bfpLink i)) : TurnOf s (after fabStep s) := by
  have h12 : s.fabOffers.find? (fun x => x.o.link == 12) = none := List.find?_eq_none.2 fun x hx => by
    obtain ⟨i, hi, hx⟩ := List.mem_flatMap.1 hx
    obtain ⟨b, -, hx⟩ := List.mem_flatMap.1 hx
    cases hr : (s.bfpLink i).routed b with
    | nil => simp [hr] at hx
    | cons c r =>
      rw [hr] at hx
      obtain ⟨o, ho, rfl⟩ := List.mem_map.1 hx
      simpa using (h i hi).away b c (hr ▸ List.mem_cons_self ..) o (List.mem_of_mem_filter ho)
  have hall : ∀ P : State → Eff → Prop, (∀ m k x f, m < 12 → s.fabPick m = some (x, k) → Allowed P (sendOffer m k x f s) s) →
      (∀ i b, P s (.bfpLink i ((s.bfpLink i).settle b))) → Allowed P (fabStep s) s := fun P hsend hset => by
    simp only [fabStep, h12]
    split
    · next l hl =>
      obtain ⟨m, hm, rfl⟩ := List.mem_map.1 (List.mem_of_find?_eq_some hl)
      have hm := List.mem_range.1 hm
      obtain h0 | ⟨x, k, f, hp, -, hf⟩ := sendFab_cases (h m (mem_fabSides.2 (by omega))).ends
      · rw [h0]
        exact .nil _
      · rw [hf]
        exact hsend m k x f hm hp
    · refine allowed_take_one fun e he => ?_
      obtain ⟨i, -, he⟩ := List.mem_flatMap.1 he
      obtain ⟨b, -, he⟩ := List.mem_flatMap.1 he
      split at he
      · exact absurd he List.not_mem_nil
      · rw [List.mem_singleton.1 he]
        exact hset i b
  refine ⟨after_canon _ _ hc, fun i => ?_, after_overlay [.regs, .bfp, .out] ?_, (apAll_out _ _).subset⟩
  · refine after_bfpRel (R := fun _ => SideKept) (fun _ => .refl) (fun _ _ _ _ => .trans) hc (hall _ (fun m k x f hm hp => ?_) fun i b => sideKept_settle b _) i
    obtain ⟨-, -, tn, vt, rfl⟩ := fabPick_spec hp
    exact allowed_sendOffer (fun _ => ⟨fun h => h.congr rfl rfl, List.Subset.refl _⟩)
      (fun _ _ _ _ => ⟨fun h => h.congr rfl rfl, List.subset_append_left _ _⟩) (fun _ _ _ => sideKept_take _ _ _ _ _) (fun _ _ => trivial) fun _ _ => trivial
  · exact hall _ (fun m k x f _ _ => allowed_sendOffer (fun _ => by simp) (fun _ _ _ _ => by simp) (fun _ _ _ => by simp) (fun _ _ => by simp) fun _ _ => by simp) fun _ _ => by simp

/-- The whole flow, from there on. -/
theorem fabFlow_rest (h : ∀ i ∈ fabSides, FabSide (s.bfpLink i)) (N : Nat) : TurnOf s (after (forA fabSides payFab) (after (fabFor N) s)) := by
  obtain ⟨u, hu⟩ : ∃ u, u = after (fabFor N) s := ⟨_, rfl⟩
  have htu : TurnOf s u := hu ▸ fabFor_keeps (I := TurnOf s) (fun t ht => by
    have hstep := fabStep_turn ht.canon fun i hi => (ht.sides i).1 (h i hi)
    exact ⟨hstep.canon, fun i => (ht.sides i).trans (hstep.sides i), by rw [hstep.frame, ht.frame], fun _ hx => hstep.sent (ht.sent hx)⟩) N s
      ⟨hc, fun _ => .refl _, rfl, List.Subset.refl _⟩
  rw [← hu]
  have hf := after_overlay [.bfp, .out] (a := forA fabSides payFab) (s := u) (allowed_forA _ _ _ fun i _ => allowed_payFab (fun _ _ => by simp) fun _ _ => by simp)
  have hb := after_bfpRel (R := fun _ => SideKept) (fun _ => .refl) (fun _ _ _ _ => .trans) htu.canon (a := forA fabSides payFab)
    (allowed_forA _ _ _ fun i _ => allowed_payFab (fun _ _ => ⟨fun h => h.congr rfl rfl, List.Subset.refl _⟩) fun _ _ => trivial)
  obtain ⟨t, ht⟩ : ∃ t, t = after (forA fabSides payFab) u := ⟨_, rfl⟩
  rw [← ht] at hf hb ⊢
  refine ⟨ht ▸ after_canon _ _ htu.canon, fun i => (htu.sides i).trans (hb i), ?_, fun _ hx => ht ▸ (apAll_out _ _).subset (htu.sent hx)⟩
  have hf' : t = { u with bfp := t.bfp, out := t.out } := hf
  rw [hf', htu.frame]

end

/-! ### The choice among one offer (R368) -/

/-- A turn goes to one that waits, where any does. -/
theorem nextTurn_waits {n v : Nat} {weight : Nat → Nat} {waits : Nat → Bool} (t : Nat × Nat) (hv : v < n) (hw : waits v = true) :
    waits (nextTurn n weight waits t).1 = true := by
  rw [nextTurn]
  split
  · next h => exact h.2
  · have hmem : v ∈ (List.range n).map fun i => (t.1 + 1 + i) % n := by
      refine List.mem_map.2 ⟨(v + n - (t.1 + 1) % n) % n, List.mem_range.2 (Nat.mod_lt _ (by omega)), ?_⟩
      have h1 := Nat.mod_lt (t.1 + 1) (by omega : n > 0)
      have h2 := Nat.div_add_mod (t.1 + 1) n
      have h3 : t.1 + 1 + (v + n - (t.1 + 1) % n) = v + n * ((t.1 + 1) / n + 1) := by
        rw [Nat.mul_add]
        omega
      rw [Nat.add_mod_mod, h3, Nat.add_mul_mod_self_left, Nat.mod_eq_of_lt hv]
    cases hf : ((List.range n).map fun i => (t.1 + 1 + i) % n).find? waits with
    | none => exact absurd hw (by simp [List.find?_eq_none.1 hf v hmem])
    | some y => exact List.find?_some hf

theorem arbEnt_lt {s : State} {m : Nat} {x : FabOffer} : s.arbEnt m x < 16 ∨ s.arbEnt m x = 16 := by
  rw [State.arbEnt]
  cases hf : (s.shares m).find? fun e => e.2.1 == x.c.pkt.job.toNat with
  | none => exact .inr rfl
  | some e =>
    left
    obtain ⟨i, hi, he⟩ := List.mem_filterMap.1 (List.mem_of_find?_eq_some hf)
    simp only at he
    split at he
    · obtain rfl := Option.some.inj he
      exact List.mem_range.1 hi
    · cases he

theorem vcCode_lt (v : Vc) : vcCode v < 5 := by cases v <;> decide

theorem vcTurn_one {s : State} {m e : Nat} {x : FabOffer} (he : e = s.arbEnt m x) (w : Nat → Nat) (t : Nat × Nat) (g : FabOffer → BfpLink) :
    ∃ k, (([x].filter fun x => s.arbEnt m x == e).find? fun y => vcCode y.c.pkt.pkt.vc ==
      (nextTurn 5 w (fun v => ([x].filter fun x => s.arbEnt m x == e).any fun x => vcCode x.c.pkt.pkt.vc == v) t).1).map (fun y => (y, g y)) = some (x, k) := by
  have hf : ([x].filter fun x => s.arbEnt m x == e) = [x] := by simp [he]
  have hw := nextTurn_waits (n := 5) (v := vcCode x.c.pkt.pkt.vc) (weight := w) (waits := fun v => [x].any fun x => vcCode x.c.pkt.pkt.vc == v) t
    (vcCode_lt _) (by simp)
  simp only [List.any_cons, List.any_nil, Bool.or_false] at hw
  refine ⟨g x, ?_⟩
  rw [hf]
  simp only [List.find?_cons, List.any_cons, List.any_nil, Bool.or_false, hw, Option.map_some]

theorem fabPick_one {s : State} {m : Nat} {x : FabOffer} (hl : s.fabOffers.filter (s.mayGoFab m) = [x]) : ∃ k, s.fabPick m = some (x, k) := by
  simp only [State.fabPick, hl]
  split
  · next y hy =>
    obtain rfl := List.mem_singleton.1 (List.mem_of_find?_eq_some hy)
    exact ⟨_, rfl⟩
  · obtain ⟨has, hhas⟩ : ∃ has : Nat → Bool, has = fun e => [x].any fun x => s.arbEnt m x == e := ⟨_, rfl⟩
    have hiff : ∀ e, has e = true ↔ e = s.arbEnt m x := fun e => by
      rw [hhas]
      simp only [List.any_cons, List.any_nil, Bool.or_false, beq_iff_eq]
      exact eq_comm
    have hent : ∀ (w : Nat → Nat) (t : Nat × Nat), (if (List.range 16).any has = true then (nextTurn 16 w has t).1 else 16) = s.arbEnt m x := fun w t => by
      split
      · next hany =>
        obtain ⟨e, he, hh⟩ := List.any_eq_true.1 hany
        exact (hiff _).1 (nextTurn_waits t (List.mem_range.1 he) hh)
      · next hany =>
        obtain hlt | heq := arbEnt_lt (s := s) (m := m) (x := x)
        · exact absurd (List.any_eq_true.2 ⟨_, List.mem_range.2 hlt, (hiff _).2 rfl⟩) hany
        · exact heq.symm
    rw [← hhas]
    by_cases hany : (List.range 16).any has = true
    · simp only [hany, if_true] at hent ⊢
      exact vcTurn_one (hent _ _) _ _ _
    · simp only [hany, if_false, Bool.false_eq_true] at hent ⊢
      exact vcTurn_one (hent id (0, 0)) _ _ _

/-! ### The first flit of the only packet -/

theorem fabSide_only {n b : Nat} {c : FabCross} {s : State} (h : OnlyPacket n b c s) (hc : ∀ o ∈ c.outs, o.link ≠ 12) : ∀ i ∈ fabSides, FabSide (s.bfpLink i) :=
  fun i hi => by
    by_cases hn : i = n
    · subst hn
      refine ⟨h.ends i hi, ?_, fun b' c' hm => ?_⟩
      · rw [h.cur]
        simp [SMap.wf, SMap.wfFrom]
      · rw [routed_singleton h.cur] at hm
        split at hm
        · rw [List.mem_singleton.1 hm]
          exact hc
        · exact absurd hm List.not_mem_nil
    · refine ⟨h.ends i hi, ?_, fun b' c' hm => ?_⟩
      · rw [h.others i hi hn]
        rfl
      · rw [routed_of_cur (h.others i hi hn)] at hm
        exact absurd hm List.not_mem_nil

theorem sysFlits_head (k : SysPacket) (clsB : Bool) (ent : Nat) : ∃ f, (sysFlits k clsB ent)[0]? = some f := by
  have hlen : 0 < (sysBytes k).length := by simp [sysBytes]
  have hl : 0 < (sysFlits k clsB ent).length := by
    simp only [sysFlits, List.length_map, List.length_zipIdx, chunksOf, List.length_range]
    omega
  exact ⟨_, List.getElem?_eq_getElem hl⟩

/-- What a flit sent leaves: it is out, numbered, and kept. -/
theorem sendOffer_sends {s : State} (hc : s.canon = true) {m : Nat} {x : FabOffer} {k : BfpLink} {f : BfpFlit} {tn : Nat × Nat} {vt : SMap (Nat × Nat)}
    (hk : k = { s.bfpLink m with turn := tn, vcTurn := vt }) :
    .bfpFlits m [((s.bfpLink m).put f).2] ∈ (after (sendOffer m k x f) s).out ∧ ((s.bfpLink m).put f).2 ∈ ((after (sendOffer m k x f) s).bfpLink m).kept := by
  obtain ⟨u, hu⟩ : ∃ u, u = after (modBfp m fun _ => { k with lock := SMap.set noUsed k.lock (s.poolKeyOf m x) (if f.tail then 0 else x.src) }) s := ⟨_, rfl⟩
  have hcu : u.canon = true := hu ▸ after_canon _ _ hc
  have hput : ((u.bfpLink m).put f).2 = ((s.bfpLink m).put f).2 := by
    rw [hu, bfpLink_modBfp hc, if_pos rfl, hk]
    rfl
  obtain ⟨v, hv⟩ : ∃ v, v = after (sendBfp m (s.poolKeyOf m x) f) u := ⟨_, rfl⟩
  have hcv : v.canon = true := hv ▸ after_canon _ _ hcu
  have hsend : .bfpFlits m [((u.bfpLink m).put f).2] ∈ v.out ∧ ((u.bfpLink m).put f).2 ∈ (v.bfpLink m).kept := by
    rw [after_congr (a := sendBfp m (s.poolKeyOf m x) f) (b := seqA _) (by simp only [sendBfp]; rfl), after_seqA_cons, after_seqA_cons, after_seqA_cons, after_seqA_end] at hv
    have hb := bfpLink_modBfp hcu m (fun _ => { ((u.bfpLink m).put f).1 with
      credits := SMap.set noCredit ((u.bfpLink m).put f).1.credits (s.poolKeyOf m x) (SMap.get noCredit ((u.bfpLink m).put f).1.credits (s.poolKeyOf m x) - 1) }) m
    rw [if_pos rfl] at hb
    subst hv
    refine ⟨?_, ?_⟩
    · have ho : ∀ w : State, (after (bumpW F.BFP_FLITS_COUNT m 1) w).out = w.out := fun _ => rfl
      rw [ho]
      exact List.mem_append_right _ (List.mem_singleton_self _)
    · have ho : ∀ w : State, (after (bumpW F.BFP_FLITS_COUNT m 1) w).bfpLink m = w.bfpLink m := fun _ => rfl
      have he : ∀ (o : Out) (w : State), (after (emit o) w).bfpLink m = w.bfpLink m := fun _ _ => rfl
      rw [ho, he, hb]
      exact List.mem_append_right _ (List.mem_singleton_self _)
  have hafter : after (sendOffer m k x f) s = after (modBfp x.i (BfpLink.take x.b m (s.poolOf m x) 1)) v := by
    rw [after_congr (a := sendOffer m k x f) (b := seqA _) (by simp only [sendOffer]; rfl), after_seqA_cons, after_seqA_cons, after_seqA_cons, after_seqA_end, ← hu, ← hv]
  rw [hafter, ← hput]
  refine ⟨hsend.1, ?_⟩
  rw [bfpLink_modBfp hcv]
  split
  · next hi => exact (sideKept_take _ _ _ _ _).2 (hi ▸ hsend.2)
  · exact hsend.2

theorem fabFlow_sends {s : State} (hc : s.canon = true) {n b m : Nat} {p : SysPacket} {o : FabBranch} (h : OnlyPacket n b ⟨p, 0, [o]⟩ s)
    (ho : o.link = m ∧ m < 12 ∧ o.taken = 0) (hin : (s.bfpLink n).inBuf b ≠ []) (hup : s.linkUp m = true)
    (hcr : 0 < SMap.get noCredit (s.bfpLink m).credits (poolKey p.pkt.vc o.clsB (s.entOf m p.job.toNat)))
    (hlk : SMap.get noUsed (s.bfpLink m).lock (poolKey p.pkt.vc o.clsB (s.entOf m p.job.toNat)) = 0) (hk : (s.bfpLink m).kept.length < 2048)
    {t : State} (ht : t = after fabFlow s) :
    (∃ f g, (sysFlits p o.clsB (s.entOf m p.job.toNat)).head? = some f ∧ g = ((s.bfpLink m).put f).2 ∧ .bfpFlits m [g] ∈ t.out ∧ g ∈ (t.bfpLink m).kept) ∧
      t = { s with regs := t.regs, bfp := t.bfp, out := t.out } := by
  obtain ⟨hl, hm, htk⟩ := ho
  have hoff : s.fabOffers = [⟨n, b, ⟨p, 0, [o]⟩, o⟩] := by
    have hpos := List.length_pos_iff.2 (firstSys_ne_nil hin)
    rw [fabOffers_only h]
    simp [htk, hpos]
  have hmay : s.mayGoFab m ⟨n, b, ⟨p, 0, [o]⟩, o⟩ = true := by
    simp only [State.mayGoFab, State.poolKeyOf, State.poolOf, htk, if_true, hl, hlk]
    simp [Nat.pos_iff_ne_zero.1 hcr]
  obtain ⟨k, hpick⟩ := fabPick_one (s := s) (m := m) (x := ⟨n, b, ⟨p, 0, [o]⟩, o⟩) (by rw [hoff, List.filter_cons_of_pos hmay, List.filter_nil])
  obtain ⟨-, -, tn, vt, hkk⟩ := fabPick_spec hpick
  obtain ⟨f, hf⟩ := sysFlits_head p o.clsB (s.entOf m p.job.toNat)
  have hsend : sendFab m s = sendOffer m k ⟨n, b, ⟨p, 0, [o]⟩, o⟩ f s := by
    have hpo : s.poolOf m ⟨n, b, ⟨p, 0, [o]⟩, o⟩ = s.entOf m p.job.toNat := if_pos htk
    simp only [sendFab, h.ends m (mem_fabSides.2 (by omega)), List.find?_nil, hpick, hup, hpo, htk, hf]
    rw [if_neg (by simpa using hk)]
    simp only [sendOffer, hpo]
    rfl
  have hstep : fabStep s = sendFab m s := by
    have h12 : s.fabOffers.find? (fun x => x.o.link == 12) = none := by
      rw [hoff]
      simp [hl, show m ≠ 12 by omega]
    have hne : (!(sendFab m s).isEmpty) = true := by
      rw [hsend]
      rfl
    have hmem : sendFab m s ∈ (List.range 12).map fun n => sendFab n s := List.mem_map.2 ⟨m, List.mem_range.2 hm, rfl⟩
    simp only [fabStep, h12]
    cases hfd : ((List.range 12).map fun n => sendFab n s).find? fun l => !l.isEmpty with
    | none => exact absurd hne (List.find?_eq_none.1 hfd _ hmem)
    | some l =>
      obtain ⟨j, hj, rfl⟩ := List.mem_map.1 (List.mem_of_find?_eq_some hfd)
      by_cases hjm : j = m
      · rw [hjm]
      · have h0 : sendFab j s = [] := sendFab_of_no_offer (h.ends j (mem_fabSides.2 (by have := List.mem_range.1 hj; omega))) fun x hx => by
          rw [hoff] at hx
          rw [List.mem_singleton.1 hx]
          simp [State.mayGoFab, hl, Ne.symm hjm]
        have h1 := List.find?_some hfd
        simp [h0] at h1
  obtain ⟨u, hu⟩ : ∃ u, u = after fabStep s := ⟨_, rfl⟩
  have hfirst := sendOffer_sends hc (x := ⟨n, b, ⟨p, 0, [o]⟩, o⟩) (f := f) hkk
  have huo : u = after (sendOffer m k ⟨n, b, ⟨p, 0, [o]⟩, o⟩ f) s := hu ▸ after_congr (hstep.trans hsend)
  rw [← huo] at hfirst
  have hsides := fabSide_only h (by simp [hl]; omega)
  have hturn : TurnOf s u := hu ▸ fabStep_turn hc hsides
  obtain ⟨N, hN⟩ := after_fabFlow s
  have hrest := fabFlow_rest hturn.canon (fun i hi => (hturn.sides i).1 (hsides i hi)) N
  rw [← hu, ← ht] at hN
  rw [← hN] at hrest
  refine ⟨⟨f, _, by rw [List.head?_eq_getElem?, hf], rfl, hrest.sent hfirst.1, (hrest.sides m).2 hfirst.2⟩, ?_⟩
  rw [hrest.frame, hturn.frame]

/-! ## The command -/

/-- The count of a packet that goes no further. -/
def countDrop (n : Nat) (k : SysPacket) : Act :=
  if 64 ≤ k.hops.toNat + 1 then bump F.BFP_DROP_HOPS n 1 else whenA (fun s => (s.fabWays n (older k)).isNone) (bump F.BFP_DROP_NOROUTE n 1)

section
variable {s : State} {n : Fin 12} {k : SysPacket}

theorem exec_bfpPacketArrive_none (h : (s.bfpLink n.val).headOf k = none) : exec (.bfpPacketArrive n k) s = .next s := by
  change execBfpPacketArrive n k s = _
  refine congrArg Host.Outcome.next ((after_congr (b := skip) ?_).trans (after_skipped s))
  simp only [h]
  rfl

theorem exec_bfpPacketArrive {b : Nat} (h : (s.bfpLink n.val).headOf k = some b) :
    exec (.bfpPacketArrive n k) s = .next (after fabFlow (after (routeFab n.val b k (s.fabOuts n.val k)) (after (countDrop n.val k) s))) := by
  change execBfpPacketArrive n k s = _
  refine congrArg Host.Outcome.next ((after_congr (b := seqA [countDrop n.val k, routeFab n.val b k (s.fabOuts n.val k), fabFlow]) ?_).trans ?_)
  · simp only [h]
    rfl
  · rw [after_seqA_cons, after_seqA_cons, after_seqA_cons, after_seqA_end]

theorem headOf_holds {k : SysPacket} {y : BfpLink} {b : Nat} (h : y.headOf k = some b) : y.inBuf b ≠ [] := fun he => by
  have h1 := List.find?_some h
  simp [he] at h1

theorem fabWays_none (hs : s.slicePart k.job.toNat = none) (hsh : ∀ x ∈ s.shares n.val, x.2.1 ≠ k.job.toNat) : s.fabWays n.val (older k) = none := by
  have hf : (s.shares n.val).find? (fun x => x.2.1 == k.job.toNat) = none := List.find?_eq_none.2 fun x hx => by simpa using hsh x hx
  simp only [State.fabWays, older, hs, hf]
  rfl

/-- R371: the one way of a packet of a slice set here that goes on by one of its links. -/
theorem fabOuts_dir {p d : Nat} {x : Nat × Nat} (hh : k.hops.toNat + 1 < 64) (hs : s.slicePart k.job.toNat = some p) (hm : k.mc = false)
    (hd : fabDir (s.slice p).size (s.slice p).wrap (s.slice p).coord (k.dx.val, k.dy.val, k.dz.val) = some d)
    (hx : (s.slice p).dirs[d]? = some x) (h12 : x.1 < 12) (hup : s.linkUp x.1 = true) :
    (s.fabWays n.val (older k)).isNone = false ∧ s.fabOuts n.val k = [⟨x.1, wrapped (s.slice p) (older k) d, s.entOf x.1 k.job.toNat, 0⟩] := by
  have hw : s.fabWays n.val (older k) = some [⟨x.1, wrapped (s.slice p) (older k) d, s.entOf x.1 k.job.toNat, 0⟩] := by
    have hjob : (older k).job = k.job := rfl
    have hmc : (older k).mc = false := hm
    have hdir : fabDir (s.slice p).size (s.slice p).wrap (s.slice p).coord ((older k).dx.val, (older k).dy.val, (older k).dz.val) = some d := hd
    simp only [State.fabWays, hjob, hs, hmc, hdir, hx, Bool.false_eq_true, if_false, Option.filter_some, h12, decide_true, if_true, Option.map_some]
    rfl
  refine ⟨by rw [hw]; rfl, ?_⟩
  rw [State.fabOuts, if_neg (by omega)]
  have hw' : s.fabWays n.val { k with hops := k.hops + 1 } = _ := hw
  rw [hw']
  simp [hup]

theorem fabOuts_dropped (h : 64 ≤ k.hops.toNat + 1 ∨ s.fabWays n.val (older k) = none) : s.fabOuts n.val k = [] := by
  rw [State.fabOuts]
  split
  · rfl
  · next hn =>
    have hw' : s.fabWays n.val { k with hops := k.hops + 1 } = none := h.resolve_left hn
    rw [hw']
    rfl

/-- A packet discarded is counted in its field; its flits go, and their credits go back. -/
theorem bfpPacketArrive_discards (hc : s.canon = true) {b : Nat} (hq : s.fabQuiet = true)
    (htail : ((s.bfpLink n.val).inBuf b).any BfpFlit.tail = true) (hl : s.fabOuts n.val k = []) {f : Fld} (hf : f.lo ≤ f.hi ∧ f.hi < 64 ∧ regKey f.blk n.val f.off ≠ regKey .bfp n.val 0x100)
    {a : Act} (ha : after a s = after (bump f n.val 1) s) {t : State} (ht : t = after fabFlow (after (routeFab n.val b k (s.fabOuts n.val k)) (after a s))) :
    t.fld f n.val = min (s.fld f n.val + 1) f.top ∧
      (t.bfpLink n.val).inBuf b = ((s.bfpLink n.val).inBuf b).drop (firstSys ((s.bfpLink n.val).inBuf b)).length ∧ (t.bfpLink n.val).routed b = [] ∧
      (s.linkUp n.val = true → ∀ g ∈ firstSys ((s.bfpLink n.val).inBuf b), ∃ m, 0 < m ∧
        .bfpFlits n.val [idleBfp (s.bfpLink n.val).rxSeq false (flitPool g) m] ∈ t.out) ∧
      RegsBut [regKey f.blk n.val f.off] s t ∧ t = { s with regs := t.regs, bfp := t.bfp, out := t.out } := by
  rw [ha, hl] at ht
  obtain ⟨v, hv⟩ : ∃ v, v = after (bump f n.val 1) s := ⟨_, rfl⟩
  have hcv : v.canon = true := hv ▸ after_canon _ _ hc
  have hvf : v = { s with regs := v.regs } := hv ▸ after_overlay [.regs] (by simp)
  have hrv : RegsBut [regKey f.blk n.val f.off] s v := hv ▸ after_regsBut hc (by simp)
  have hbv : v.bfpLink = s.bfpLink := by rw [hvf]; rfl
  have hqv : v.fabQuiet = true := by rw [hvf]; exact hq
  have hcur : (v.bfpLink n.val).cur = [] := by
    have h := List.all_eq_true.1 hqv n.val (mem_fabSides.2 (by omega))
    simp only [Bool.and_eq_true, List.isEmpty_iff] at h
    exact h.1.1
  obtain ⟨u, hu⟩ : ∃ u, u = after (routeFab n.val b k []) v := ⟨_, rfl⟩
  have hcu : u.canon = true := hu ▸ after_canon _ _ hcv
  rw [← hv, ← hu] at ht
  have hbu : u.bfpLink n.val = { s.bfpLink n.val with cur := [(b, [⟨older k, 0, []⟩])] } := by
    rw [hu, bfpLink_routeFab hcv hcur, if_pos rfl, hbv]
  have hin : (u.bfpLink n.val).inBuf b = (s.bfpLink n.val).inBuf b := by rw [hbu]; rfl
  have huf : u = { v with bfp := u.bfp } := hu ▸ after_overlay [.bfp] (by simp [routeFab])
  obtain ⟨h1, h2, h3, h4⟩ := fabFlow_discards hcu (hu ▸ onlyPacket_routeFab hcv hqv (by omega)) (hin ▸ htail) ht
  have hregs : t.regs = v.regs := by
    rw [h4, huf]
  have hup : u.linkUp n.val = s.linkUp n.val := by
    have h5 : u.linkUp n.val = v.linkUp n.val := by rw [huf]; rfl
    rw [h5, State.linkUp, State.linkUp, fld_of_regsBut hrv (by simpa using hf.2.2.symm)]
  rw [hin, hup] at h3
  rw [hin] at h1
  have hrx : (u.bfpLink n.val).rxSeq = (s.bfpLink n.val).rxSeq := by rw [hbu]
  refine ⟨?_, h1, h2, fun hs g hg => ?_, fun key hk => by rw [hregs]; exact hrv key hk, by rw [h4, huf, hvf]⟩
  · have hfld : t.fld f n.val = v.fld f n.val := by simp only [State.fld, State.reg, hregs]
    rw [hfld, hv]
    exact fld_bump s hc _ _ 1 hf.1 hf.2.1
  · rw [← hrx]
    exact h3 hs g hg

end

end Sys2Proof.Machine

open Sys2Proof Sys2Proof.Machine

/-- Settles O41: with one packet routed and nothing else on its way, each turn of the port blocks is known. -/
theorem fabricPackets : Obligations.FabricPackets := by
  unfold Obligations.FabricPackets
  intro s n k hc
  refine ⟨exec_bfpPacketArrive_none, fun b hh hq => ⟨fun h64 htail => ?_, fun h64 htail hs hsh => ?_, fun p d x h64 hs hm hd hx h12 hup => ?_⟩⟩
  · exact ⟨_, exec_bfpPacketArrive hh, bfpPacketArrive_discards hc hq htail (fabOuts_dropped (.inl h64)) (f := F.BFP_DROP_HOPS)
      ⟨by decide, by decide, by simp [regKey]⟩ (by rw [countDrop, if_pos h64]) rfl⟩
  · have hw := fabWays_none (n := n) hs hsh
    refine ⟨_, exec_bfpPacketArrive hh, bfpPacketArrive_discards hc hq htail (fabOuts_dropped (.inr hw)) (f := F.BFP_DROP_NOROUTE)
      ⟨by decide, by decide, by simp [regKey]⟩ ?_ rfl⟩
    rw [countDrop, if_neg (by omega), after_whenA, if_pos (by rw [hw]; rfl)]
  · obtain ⟨hsome, houts⟩ := fabOuts_dir (n := n) h64 hs hm hd hx h12 hup
    obtain ⟨u, hu⟩ : ∃ u, u = after (routeFab n.val b k (s.fabOuts n.val k)) s := ⟨_, rfl⟩
    have hexec : exec (.bfpPacketArrive n k) s = .next (after fabFlow u) := by
      rw [exec_bfpPacketArrive hh, countDrop, if_neg (by omega), after_whenA, if_neg (by rw [hsome]; exact Bool.false_ne_true), ← hu]
    rw [houts] at hu
    have hcu : u.canon = true := hu ▸ after_canon _ _ hc
    have hall := List.all_eq_true.1 hq
    simp only [Bool.and_eq_true, List.isEmpty_iff] at hall
    have hbu := bfpLink_routeFab hc (b := b) (k := k) (l := [⟨x.1, wrapped (s.slice p) (older k) d, s.entOf x.1 k.job.toNat, 0⟩])
      (hall n.val (mem_fabSides.2 (by omega))).1.1
    rw [← hu] at hbu
    have honly := onlyPacket_routeFab hc (b := b) (k := k) (l := [⟨x.1, wrapped (s.slice p) (older k) d, s.entOf x.1 k.job.toNat, 0⟩]) hq (n := n.val) (by omega)
    rw [← hu] at honly
    have huf : u = { s with bfp := u.bfp } := hu ▸ after_overlay [.bfp] (by simp [routeFab])
    have hkeep : ∀ {β : Type} (g : BfpLink → β), (∀ (y : BfpLink) c, g { y with cur := c } = g y) → ∀ i, g (u.bfpLink i) = g (s.bfpLink i) := fun g hg i => by
      rw [hbu]
      split
      · next hi => rw [hg, hi]
      · rfl
    have hent : u.entOf x.1 k.job.toNat = s.entOf x.1 k.job.toNat := by rw [huf]; rfl
    have hin := hkeep (·.inBuf b) (fun _ _ => rfl) n.val
    have hcr := hkeep BfpLink.credits (fun _ _ => rfl) x.1
    refine ⟨fun hz => ?_, fun hpos hlk hkl => ?_⟩
    · have hw := fabFlow_waits (b := b) (m := x.1) (p := older k) (o := ⟨x.1, wrapped (s.slice p) (older k) d, s.entOf x.1 k.job.toNat, 0⟩)
        ⟨rfl, by omega, rfl⟩ (by rw [hcr]; exact hent ▸ hz) (s := u)
        ⟨hcu, honly, rfl, rfl, fun i hi => (hkeep BfpLink.owed (fun _ _ => rfl) i).trans (hall i hi).2, rfl⟩
      refine ⟨_, hexec, ?_, hw.inBuf.trans hin, ?_⟩
      · rw [routed_singleton hw.only.cur, if_pos rfl]
        rfl
      · exact hw.frame.trans (by rw [huf])
    · have hlk' := hkeep BfpLink.lock (fun _ _ => rfl) x.1
      have hkl' := hkeep BfpLink.kept (fun _ _ => rfl) x.1
      obtain ⟨⟨f, g, hf, hg, ho, hk⟩, hfr⟩ := fabFlow_sends hcu honly ⟨rfl, h12, rfl⟩ (by rw [hin]; exact headOf_holds hh) (by rw [huf]; exact hup)
        (by rw [hcr]; exact hent ▸ hpos) (by rw [hlk']; exact hent ▸ hlk) (by rw [hkl']; exact hkl) rfl
      refine ⟨_, hexec, ⟨f, g, ?_, ?_, ho, hk⟩, ?_⟩
      · exact hent ▸ hf
      · rw [hg]
        exact hkeep (fun y => (y.put f).2) (fun _ _ => rfl) x.1
      · exact hfr.trans (by rw [huf])

end

section
/-!
SUPPORT. The rings of admission and completion, the passage cache, and a passage that is freed (R207–R222).
-/
namespace Sys2Proof.Machine

/-! ## What steps that start and results that are written can change -/

section
variable {P : State → Eff → Prop} (hP : AllowsStarts P) (hi : ∀ s i x, P s (.passage i x))
include hP hi

theorem allowed_makeRoom (d : Nat) (s : State) : Allowed P (makeRoom d s) s := by
  simp only [makeRoom]
  split
  · exact .nil _
  · split
    · simp only [allowed_seqA_cons, allowed_draw, allowed_modPassage, allowed_seqA_nil, and_true]
      exact ⟨hP.ends _ _ trivial, allowed_savePt hP.ends _ _, hi _ _ _⟩
    · exact .nil _

theorem allowed_cacheIn (d i : Nat) (s : State) : Allowed P (cacheIn d i s) s := by
  simp only [cacheIn, allowed_seqA_cons, allowed_seqA_nil, and_true]
  refine ⟨allowed_makeRoom hP hi d s, ?_⟩
  split
  · split
    · exact (allowed_modPassage _ _ _).2 (hi _ _ _)
    · exact allowed_ptCrcFault hP.ends _ _ _ (fun s => hi s i) _
  · exact .nil _

theorem allowed_beginStep (i : Nat) (s : State) : Allowed P (beginStep i s) s := by
  simp only [beginStep]
  split
  · exact allowed_endPassage hP.ends i _ (fun s => hi s i) s
  · simp only [allowed_seqA_cons, allowed_modPassage, allowed_seqA_nil, and_true]
    exact ⟨hi _ _ _, allowed_forA _ _ _ fun _ _ _ => (allowed_modDie _ _ _).2 (hP.items ..)⟩

theorem allowed_startStep_of (i : Nat) (s : State) : Allowed P (startStep i s) s := by
  have hhold : ∀ r s, Allowed P (holdP i r s) s := fun r s => allowed_changeEntry hP.ends i _ (fun s => hi s i) s
  simp only [startStep]
  split
  · exact .nil _
  · split
    · exact hhold 5 s
    · split
      · simp only [allowed_seqA_cons, allowed_bump, allowed_seqA_nil, and_true]
        exact ⟨hP.count _ _ _ _ rfl, allowed_beginStep hP hi i _⟩
      · simp only [allowed_seqA_cons, allowed_bump, allowed_seqA_nil, and_true]
        refine ⟨hP.count _ _ _ _ rfl, allowed_cacheIn hP hi _ _ _, ?_⟩
        split
        · exact allowed_beginStep hP hi i _
        · split
          · exact hhold 4 _
          · exact .nil _

theorem allowed_finishStep_of (i : Nat) (res : List Byte) (s : State) : Allowed P (finishStep i res s) s := by
  simp only [finishStep]
  split
  · exact (allowed_modPassage _ _ _).2 (hi _ _ _)
  · split
    · simp only [allowed_seqA_cons, allowed_modPassage, allowed_seqA_nil, and_true]
      exact ⟨hi _ _ _, allowed_recallE hP.ends.stores.snoops _ _⟩
    · simp only [allowed_seqA_cons, allowed_modPassage, allowed_seqA_nil, and_true]
      refine ⟨allowed_storeBytes hP.ends.stores _ _ _ s, allowed_clearItems hP.ends.drops i _, hi _ _ _, ?_⟩
      split
      · exact allowed_donePassage hP.ends _ _ _ (fun s => hi s _ _) _
      · simp only [allowed_seqA_cons, allowed_withA, allowed_modPassage, allowed_seqA_nil, and_true]
        exact ⟨allowed_complete hP.ends _ _ _, hi _ _ _, allowed_startStep_of hP hi i _⟩

theorem allowed_resumeRing (d : Nat) (s : State) : Allowed P (resumeRing d s) s := by
  simp only [resumeRing, drainComp, allowed_seqA_cons, allowed_withA, allowed_seqA_nil, and_true]
  exact ⟨hP.ends.comps.drainList d _ s, allowed_forA _ _ _ fun i _ s => allowed_startStep_of hP hi i s⟩

theorem allowed_waitingResults (d : Nat) (s : State) : Allowed P (waitingResults d s) s :=
  allowed_forA _ _ _ fun i _ s => (allowed_whenA _ _ s).2 fun _ => (allowed_withA _ _ s).2 ((allowed_forOpt _ _ s).2 fun res _ => allowed_finishStep_of hP hi i res s)

theorem allowed_headMoved (d h₀ h : Nat) (s : State) : Allowed P (headMoved d h₀ h s) s := by
  simp only [headMoved, allowed_seqA_cons, allowed_seqA_nil, and_true]
  refine ⟨allowed_forA _ _ _ fun i _ s => (allowed_modPassage _ _ _).2 (hi _ _ _), allowed_forA _ _ _ fun i _ s => ?_,
    allowed_resumeRing hP hi d _, allowed_waitingResults hP hi d _⟩
  simp only [freePassage, allowed_seqA_cons, allowed_modPassage, allowed_seqA_nil, and_true]
  exact ⟨hi _ _ _, allowed_savePt hP.ends i _, hi _ _ _⟩

end

/-! ## The registers of the rings meanwhile -/

/-- A key that is of no register of a die's rings but the tail's. -/
def NotRing (k : Nat) : Prop := ∀ d < 32, ∀ o ∈ [0x100, 0x110, 0x128, 0x130], k ≠ regKey .pas d o

theorem allowsStarts_notRing : AllowsStarts (regIn NotRing) := by
  have high : ∀ {b : Blk} {i o : Nat}, 0x13 ≤ b.code → NotRing (regKey b i o) := fun hb d hd o' ho' h => by
    have h1 : Blk.pas.code = 0x12 := rfl
    simp only [List.mem_cons, List.not_mem_nil, or_false] at ho'
    simp only [regKey] at h
    omega
  have off : ∀ {i o : Nat}, o = 0x138 ∨ o = 0x148 → NotRing (regKey .pas i o) := fun ho d hd o' ho' h => by
    simp only [List.mem_cons, List.not_mem_nil, or_false] at ho'
    simp only [regKey] at h
    omega
  refine ⟨fun _ e he => ?_, fun _ _ _ _ ho => off (.inr ho), fun _ _ _ _ => trivial⟩
  cases e with
  | reg b i o v =>
    obtain ⟨n, w, -, -, hk⟩ | rfl | rfl | ⟨rfl, hi, rfl⟩ | ⟨rfl, rfl⟩ | rfl := he
    · have hn : NotRing (regKey .trl n (0x400 + 8 * w)) := high (by decide)
      rw [← hk] at hn
      exact hn
    · exact high (by decide)
    · exact high (by decide)
    · intro d hd o' ho' h
      simp only [List.mem_cons, List.not_mem_nil, or_false] at ho'
      exact absurd (regKey_inj (by omega) (by omega) (by decide) (by omega) h).1 (by decide)
    · exact off (.inl rfl)
    · exact high (by decide)
  | lost => exact he.elim
  | _ => trivial

/-- What steps that start and results that are written leave: the ring registers and the arrays' cells. -/
theorem ring_leaves {a : Act} {s : State} (hc : s.canon = true)
    (h : ∀ {P : State → Eff → Prop}, AllowsStarts P → (∀ s i x, P s (.passage i x)) → Allowed P (a s) s) :
    (∀ d < 32, ∀ o ∈ [0x100, 0x110, 0x128, 0x130], (after a s).reg .pas d o = s.reg .pas d o) ∧ (after a s).cells = s.cells :=
  ⟨fun d hd o ho => after_regIn hc (h allowsStarts_notRing fun _ _ _ => trivial) fun hk => hk d hd o ho rfl,
    after_read_eq State.cells (h (allowsStarts_onlyFields (List.Subset.refl _)) (by simp)) fun _ => rfl⟩

/-! ## The commands at the rings and the table -/

section
variable {s : State} (hc : s.canon = true) {src : Src} {d : Fin 32} {v : Word}
include hc

theorem admissionDoorbell_offers (ht : s.takes src .pas d.val 0x118 = true) : ∃ t, exec (.admissionDoorbell src d v) s = .next t ∧
    t.die d.val = { s.die d.val with atail := bitsOf v 16 0, aStop := false } ∧ DiesBut [d.val] s t ∧ t = { s with dies := t.dies } := by
  refine ⟨_, congrArg Host.Outcome.next (after_congr (guardW_of_takes ht (modDie d.val fun x => { x with atail := bitsOf v 16 0, aStop := false }))), ?_,
    after_diesBut hc (by simp), after_overlay [.dies] (by simp)⟩
  rw [die_modDie hc, if_pos rfl]

/-- The base register of a ring. -/
def ringOff (c : Bool) : Nat := if c then 0x128 else 0x110

omit hc in
theorem ringBaseWrite_discarded {c : Bool} (ht : s.takes src .pas d.val (ringOff c) = true) (hd : ringDiscard s d.val c v = true) :
    exec (.ringBaseWrite src d c v) s = .next s := by
  refine congrArg Host.Outcome.next ((after_congr (b := skip) ((guardW_of_takes ht _).trans ?_)).trans (after_skipped s))
  simp only [hd, if_true]
  rfl

omit hc in
theorem exec_ringBaseWrite {c : Bool} (ht : s.takes src .pas d.val (ringOff c) = true) (hd : ringDiscard s d.val c v = false) :
    exec (.ringBaseWrite src d c v) s = .next (if bitsOf (s.reg .pas d.val (ringOff c)) 63 63 = 0 ∧ bitsOf v 63 63 = 1
      then after (ringEnabled d.val c) (after (storeRW .pas d.val (ringOff c) v) s) else after (storeRW .pas d.val (ringOff c) v) s) := by
  refine congrArg Host.Outcome.next ((after_congr (b := seqA [storeRW .pas d.val (ringOff c) v,
    whenA (fun _ => bitsOf (s.reg .pas d.val (ringOff c)) 63 63 == 0 && bitsOf v 63 63 == 1) (ringEnabled d.val c)]) ((guardW_of_takes ht _).trans ?_)).trans ?_)
  · simp only [hd, Bool.false_eq_true, if_false]
    rfl
  · simp only [after_seqA_cons, after_seqA_end, after_whenA, Bool.and_eq_true, beq_iff_eq]

/-- The three fields of a ring's base register. -/
def ringFlds (c : Bool) : List Fld := [⟨.pas, ringOff c, 63, 63⟩, ⟨.pas, ringOff c, 47, 6⟩, ⟨.pas, ringOff c, 5, 0⟩]

theorem ringBase_stored (c : Bool) : ∀ f ∈ ringFlds c, (after (storeRW .pas d.val (ringOff c) v) s).fld f d.val = f.of v := by
  have hrow : ∀ c, ∃ r ∈ rowOf .pas (ringOff c), r.apart = true ∧ (⟨63, 63, .rw, 0⟩ : RegFld) ∈ r.flds ∧ (⟨47, 6, .rw, 0⟩ : RegFld) ∈ r.flds ∧
      (⟨5, 0, .rw, 6⟩ : RegFld) ∈ r.flds := by decide
  obtain ⟨r, hr, ha, h1, h2, h3⟩ := hrow c
  intro f hf
  simp only [ringFlds, List.mem_cons, List.not_mem_nil, or_false] at hf
  obtain rfl | rfl | rfl := hf
  · exact fld_storeRW hc 0 ⟨r, hr, ha, h1⟩
  · exact fld_storeRW hc 0 ⟨r, hr, ha, h2⟩
  · exact fld_storeRW hc 6 ⟨r, hr, ha, h3⟩

/-- R222: enabling a ring sets its HEAD to 0, and leaves its base. -/
theorem ringEnabled_shows (c : Bool) {t : State} (ht : t = after (ringEnabled d.val c) s) : t.reg .pas d.val (ringOff c) = s.reg .pas d.val (ringOff c) ∧
    t.cells = s.cells ∧ (c = false → t.fld F.PAS_ARING_HEAD_HEAD d.val = 0 ∧ (t.die d.val).atail = 0) ∧ (c = true → t.fld F.PAS_CRING_HEAD_HEAD d.val = 0) := by
  cases c with
  | false =>
    obtain ⟨u, hu⟩ : ∃ u, u = after (setF F.PAS_ARING_HEAD_HEAD d.val 0) s := ⟨_, rfl⟩
    have hcu : u.canon = true := hu ▸ after_canon _ _ hc
    have htu : t = after (modDie d.val fun x => { x with atail := 0, aStop := false }) u := by
      rw [ht, after_congr (a := ringEnabled d.val false) (b := seqA _) (by simp only [ringEnabled, Bool.false_eq_true, if_false]; rfl), after_seqA_cons,
        ← hu, after_seqA_cons, after_seqA_end]
    have hf := modDie_frame (s := u) d.val fun x => { x with atail := 0, aStop := false }
    rw [← htu] at hf
    have hr : t.reg .pas d.val 0x110 = u.reg .pas d.val 0x110 := by rw [hf]; rfl
    have hh : t.fld F.PAS_ARING_HEAD_HEAD d.val = u.fld F.PAS_ARING_HEAD_HEAD d.val := by rw [hf]; rfl
    have hcell : u.cells = s.cells := by rw [hu]; rfl
    refine ⟨hr.trans ?_, (by rw [hf] : t.cells = u.cells).trans hcell, fun _ => ⟨hh.trans ?_, ?_⟩, fun h => absurd h (by decide)⟩
    · rw [hu]
      exact reg_setF_off hc _ _ _ _ _ _ (by decide)
    · rw [hu]
      exact fld_set_same hc _ _ _ (by decide)
    · rw [htu, die_modDie hcu, if_pos rfl]
  | true =>
    obtain ⟨u, hu⟩ : ∃ u, u = after (setF F.PAS_CRING_HEAD_HEAD d.val 0) s := ⟨_, rfl⟩
    have hcu : u.canon = true := hu ▸ after_canon _ _ hc
    obtain ⟨w, hw⟩ : ∃ w, w = after (setF F.PAS_CRING_TAIL_TAIL d.val 0) u := ⟨_, rfl⟩
    have hcw : w.canon = true := hw ▸ after_canon _ _ hcu
    obtain ⟨a, ha⟩ : ∃ a : Act, a = seqA [(fun s => forA (s.live.filter fun i => (s.passage i).cring == d.val && !(s.passage i).outAt.isEmpty) (fun i =>
        modPassage i fun p => { p with outAt := [] }) s), resumeRing d.val, waitingResults d.val] := ⟨_, rfl⟩
    have htw : t = after a w := by
      rw [ht, after_congr (a := ringEnabled d.val true) (b := seqA _) (by simp only [ringEnabled, if_true]; rfl), after_seqA_cons, ← hu, after_seqA_cons, ← hw, ha]
    obtain ⟨hregs, hcells⟩ := ring_leaves hcw (a := a) fun hP hi => by
      rw [ha]
      simp only [allowed_seqA_cons, allowed_seqA_nil, and_true]
      exact ⟨allowed_forA _ _ _ fun i _ s => (allowed_modPassage _ _ _).2 (hi _ _ _), allowed_resumeRing hP hi _ _, allowed_waitingResults hP hi _ _⟩
    rw [← htw] at hregs hcells
    have hwu : w.cells = s.cells := by rw [hw, hu]; rfl
    refine ⟨(hregs _ d.isLt _ (by simp [ringOff])).trans ?_, hcells.trans hwu, fun h => absurd h (by decide), fun _ => ?_⟩
    · rw [hw, reg_setF_off hcu _ _ _ _ _ _ (by decide), hu]
      exact reg_setF_off hc _ _ _ _ _ _ (by decide)
    · have hf : t.fld F.PAS_CRING_HEAD_HEAD d.val = w.fld F.PAS_CRING_HEAD_HEAD d.val := by
        simp only [State.fld, hregs _ d.isLt 0x130 (by simp)]
      rw [hf, hw, fld_set_off hcu _ _ _ _ _ (by decide), hu]
      exact fld_set_same hc _ _ _ (by decide)

theorem ringBaseWrite_stores {c : Bool} (ht : s.takes src .pas d.val (ringOff c) = true) (hd : ringDiscard s d.val c v = false) :
    ∃ t, exec (.ringBaseWrite src d c v) s = .next t ∧
      bitsOf (t.reg .pas d.val (ringOff c)) 63 63 = bitsOf v 63 63 ∧ bitsOf (t.reg .pas d.val (ringOff c)) 47 6 = bitsOf v 47 6 ∧
      bitsOf (t.reg .pas d.val (ringOff c)) 5 0 = bitsOf v 5 0 ∧ t.cells = s.cells ∧
      (bitsOf (s.reg .pas d.val (ringOff c)) 63 63 = 0 → bitsOf v 63 63 = 1 →
        (c = false → t.fld F.PAS_ARING_HEAD_HEAD d.val = 0 ∧ (t.die d.val).atail = 0) ∧ (c = true → t.fld F.PAS_CRING_HEAD_HEAD d.val = 0)) := by
  obtain ⟨u, hu⟩ : ∃ u, u = after (storeRW .pas d.val (ringOff c) v) s := ⟨_, rfl⟩
  have hcu : u.canon = true := hu ▸ after_canon _ _ hc
  have hst := ringBase_stored hc (d := d) (v := v) c
  have hcells : u.cells = s.cells := by rw [hu, storeRW_frame]
  rw [← hu] at hst
  have h1 := hst _ (.head _)
  have h2 := hst _ (.tail _ (.head _))
  have h3 := hst _ (.tail _ (.tail _ (.head _)))
  refine ⟨_, exec_ringBaseWrite ht hd, ?_⟩
  rw [← hu]
  split
  · obtain ⟨hr, hce, hf, htr⟩ := ringEnabled_shows hcu c (d := d) rfl
    rw [hr]
    exact ⟨h1, h2, h3, hce.trans hcells, fun _ _ => ⟨hf, htr⟩⟩
  · next hn => exact ⟨h1, h2, h3, hcells, fun h0 hv => absurd ⟨h0, hv⟩ hn⟩

/-- The base of a Passage Table is shown on every die of the partition (R207). -/
theorem ptBaseWrite_shows (ht : s.takes src .pas d.val 0x100 = true) {lo hi : Nat} (hr : s.range (s.part d.val) = some (lo, hi))
    (hst : s.fld F.BIL_IMG_STS_STATE d.val = 0) (ho : s.owns (s.part d.val) (bitsOf v 47 12 * 4096) ((hi + 1 - lo) * 128) = true) :
    ∃ t, exec (.ptBaseWrite src d v) s = .next t ∧
      (∀ e ∈ s.partDies (s.part d.val), t.fld F.PAS_PT_BASE_ADDR e = bitsOf v 47 12 ∧ t.flag F.PAS_PT_BASE_VALID e = true) ∧
      RegsBut ((s.partDies (s.part d.val)).map fun e => regKey .pas e 0x100) s t ∧ t = { s with regs := t.regs } := by
  obtain ⟨u, hu⟩ : ∃ u, u = after (setFP F.PAS_PT_BASE_ADDR (s.part d.val) (bitsOf v 47 12)) s := ⟨_, rfl⟩
  have hcu : u.canon = true := hu ▸ after_canon _ _ hc
  obtain ⟨t, htt⟩ : ∃ t, t = after (setFP F.PAS_PT_BASE_VALID (s.part d.val) 1) u := ⟨_, rfl⟩
  have hf : ∀ s : State, u = { s with regs := u.regs } → u.partDies (s.part d.val) = s.partDies (s.part d.val) := fun s h => by rw [h]; rfl
  have huf : u = { s with regs := u.regs } := hu ▸ after_overlay [.regs] (by
    simp only [setFP, onDies, allowed_withA]
    exact allowed_forA _ _ _ fun _ _ _ => by simp)
  have hpd : u.partDies (s.part d.val) = s.partDies (s.part d.val) := hf s huf
  have htf : t = { u with regs := t.regs } := htt ▸ after_overlay [.regs] (by
    simp only [setFP, onDies, allowed_withA]
    exact allowed_forA _ _ _ fun _ _ _ => by simp)
  have hru : RegsBut ((s.partDies (s.part d.val)).map fun e => regKey .pas e 0x100) s u := hu ▸ after_regsBut hc (by
    simp only [setFP, onDies, allowed_withA]
    exact allowed_forA _ _ _ fun e he _ => (allowed_setF _ _ _ _).2 (List.mem_map.2 ⟨e, he, rfl⟩))
  have hrt : RegsBut ((s.partDies (s.part d.val)).map fun e => regKey .pas e 0x100) u t := htt ▸ after_regsBut hcu (by
    simp only [setFP, onDies, allowed_withA, hpd]
    exact allowed_forA _ _ _ fun e he _ => (allowed_setF _ _ _ _).2 (List.mem_map.2 ⟨e, he, rfl⟩))
  refine ⟨t, ?_, fun e he => ⟨?_, ?_⟩, fun k hk => (hrt k hk).trans (hru k hk), by rw [htf, huf]⟩
  · refine congrArg Host.Outcome.next ((after_congr (b := seqA [setFP F.PAS_PT_BASE_ADDR (s.part d.val) (bitsOf v 47 12), setFP F.PAS_PT_BASE_VALID (s.part d.val) 1])
      ((guardW_of_takes ht _).trans ?_)).trans ?_)
    · simp only [hr]
      rw [if_neg (by simp [hst, ho])]
    · rw [after_seqA_cons, after_seqA_cons, after_seqA_end, ← hu, ← htt]
  · have hk : t.fld F.PAS_PT_BASE_ADDR e = u.fld F.PAS_PT_BASE_ADDR e := htt ▸ fld_of_keepsFld hcu (by
      simp only [setFP, onDies, allowed_withA]
      exact allowed_forA _ _ _ fun e _ s => (allowed_setF _ _ _ _).2
        (keepsFld_of_bits (f := F.PAS_PT_BASE_ADDR) (g := F.PAS_PT_BASE_VALID) (by decide) (by decide) s 1))
    rw [hk, hu, setFP_shows hc _ (by decide) (by decide) _ _ e he]
    exact Nat.mod_eq_of_lt (bitsOf_lt v 47 12)
  · have hv : t.fld F.PAS_PT_BASE_VALID e = 1 := htt ▸ setFP_shows hcu _ (by decide) (by decide) _ _ e (hpd ▸ he)
    rw [State.flag, hv]
    rfl

/-- R232: PAS_PEEK shows the passage it names where that is homed on the die. -/
theorem peekWrite_shows (ht : s.takes src .pas d.val 0x158 = true) : ∃ t, exec (.peekWrite src d v) s = .next t ∧
    t.fld F.PAS_PEEK_INDEX d.val = bitsOf v 19 0 ∧
    ((s.passage (bitsOf v 19 0)).home = d.val → t.flag F.PAS_PEEK_VALID d.val = true) ∧
    (∀ u : State, u.regs = t.regs → (u.passage (bitsOf v 19 0)).home = d.val → (s.passage (bitsOf v 19 0)).home = d.val →
      u.views .pas d.val 0x158 = [(F.PAS_PEEK_VALID, 1), (F.PAS_PEEK_STATE, (u.passage (bitsOf v 19 0)).st)]) ∧
    ((s.passage (bitsOf v 19 0)).home ≠ d.val → t.flag F.PAS_PEEK_VALID d.val = false) ∧
    RegsBut [regKey .pas d.val 0x158] s t ∧ t = { s with regs := t.regs } := by
  obtain ⟨on, hon⟩ : ∃ on, on = ((s.passage (bitsOf v 19 0)).home == d.val) := ⟨_, rfl⟩
  obtain ⟨u, hu⟩ : ∃ u, u = after (setF F.PAS_PEEK_INDEX d.val (bitsOf v 19 0)) s := ⟨_, rfl⟩
  have hcu : u.canon = true := hu ▸ after_canon _ _ hc
  obtain ⟨t, htt⟩ : ∃ t, t = after (setB F.PAS_PEEK_VALID d.val on) u := ⟨_, rfl⟩
  have hafter : t = after (seqA [setF F.PAS_PEEK_INDEX d.val (bitsOf v 19 0), setB F.PAS_PEEK_VALID d.val on]) s := by
    rw [after_seqA_cons, after_seqA_cons, after_seqA_end, ← hu, ← htt]
  have hidx : t.fld F.PAS_PEEK_INDEX d.val = bitsOf v 19 0 := by
    have hk : t.fld F.PAS_PEEK_INDEX d.val = u.fld F.PAS_PEEK_INDEX d.val := htt ▸ fld_set_bits hcu _ _ _ _ _ (by decide)
    rw [hk, hu, fld_set_same hc _ _ _ (by decide)]
    exact Nat.mod_eq_of_lt (bitsOf_lt v 19 0)
  have hval : t.flag F.PAS_PEEK_VALID d.val = on := by
    have hk : t.fld F.PAS_PEEK_VALID d.val = _ := htt ▸ fld_set_same hcu _ _ _ (by decide)
    rw [State.flag, hk]
    cases on <;> rfl
  refine ⟨t, ?_, hidx, fun hh => hval.trans (by simp [hon, hh]), fun x hx hxh hsh => ?_, fun hh => hval.trans (by simp [hon, hh]),
    hafter ▸ after_regsBut hc (by simp [setB]), hafter ▸ after_overlay [.regs] (by simp [setB])⟩
  · rw [hafter, hon]
    exact congrArg Host.Outcome.next (after_congr (guardW_of_takes ht _))
  · have hi : x.fld F.PAS_PEEK_INDEX d.val = bitsOf v 19 0 := by
      rw [← hidx]
      simp only [State.fld, State.reg, hx]
    have hv : x.flag F.PAS_PEEK_VALID d.val = true := by
      have h1 : x.flag F.PAS_PEEK_VALID d.val = t.flag F.PAS_PEEK_VALID d.val := by simp only [State.flag, State.fld, State.reg, hx]
      rw [h1, hval, hon]
      simp [hsh]
    have hview : x.views .pas d.val 0x158 = (let p := x.passage (x.fld F.PAS_PEEK_INDEX d.val)
        let on := x.flag F.PAS_PEEK_VALID d.val && p.home == d.val
        [(F.PAS_PEEK_VALID, if on then 1 else 0), (F.PAS_PEEK_STATE, if on then p.st else 0)]) := rfl
    rw [hview]
    simp only [hi, hv, hxh, beq_self_eq_true, Bool.and_self, if_true]

end

/-! ## A passage that is freed stays free while rings are served (R212) -/

theorem SMap.get_ne_of_mem_keys {β : Type} [DecidableEq β] {dflt : Nat → β} {m : SMap β} {lo k : Nat} (h : SMap.wfFrom dflt lo m = true)
    (hk : k ∈ SMap.keys m) : SMap.get dflt m k ≠ dflt k := by
  induction m generalizing lo with
  | nil => exact absurd hk List.not_mem_nil
  | cons x m ih =>
    obtain ⟨j, v⟩ := x
    simp only [SMap.wfFrom, Bool.and_eq_true, decide_eq_true_eq] at h
    obtain ⟨⟨-, hv⟩, hm⟩ := h
    simp only [SMap.get]
    split
    · next he => exact he ▸ hv
    · next hne =>
      have hk' : k ∈ SMap.keys m := (List.mem_cons.1 hk).resolve_left hne
      rw [if_neg fun hlt => ih hm hk' (SMap.get_below _ _ _ _ hm (by omega))]
      exact ih hm hk'

/-- Passage i is FREE, and no completion of it waits. -/
structure Freed (i : Nat) (s : State) : Prop where
  canon : s.canon = true
  free : s.passage i = Passage.zero
  comps : ∀ e, ∀ c ∈ (s.die e).compQ, c.idx ≠ i

theorem Freed.not_live {i : Nat} {s : State} (h : Freed i s) : i ∉ s.live := fun hm =>
  SMap.get_ne_of_mem_keys (dflt := fun _ => Passage.zero) (canon_passages s h.canon) hm h.free

/-- An effect that touches neither passage i nor a completion. -/
def OffFreed (i : Nat) (s : State) (e : Eff) : Prop :=
  match e with
  | .die d v => v.compQ = (s.die d).compQ
  | .passage j _ => j ≠ i
  | .lost _ => False
  | _ => True

theorem allowsDrops_offFreed (i : Nat) : AllowsDrops (OffFreed i) := fun s e he => by
  cases e with
  | die d x =>
    change x = _ at he
    change x.compQ = _
    rw [he]
  | passage | lost => exact he.elim
  | _ => trivial

section
variable {i : Nat} {s : State} (h : Freed i s)
include h

theorem Freed.after_of {a : Act} (ha : Allowed (OffFreed i) (a s) s) : Freed i (after a s) := by
  have hr := Allowed.rel (R := fun s t => t.passage i = s.passage i ∧ ∀ e, (t.die e).compQ = (s.die e).compQ)
    ⟨fun _ => ⟨rfl, fun _ => rfl⟩, fun _ _ _ h1 h2 => ⟨h2.1.trans h1.1, fun e => (h2.2 e).trans (h1.2 e)⟩⟩ (fun s e hc he => by
      cases e with
      | die d v =>
        refine ⟨rfl, fun e => ?_⟩
        rw [die_ap_die s hc]
        split
        · next hd => exact hd ▸ he
        · rfl
      | passage j x => exact ⟨by rw [passage_ap_passage s hc, if_neg (Ne.symm he)], fun _ => rfl⟩
      | lost => exact he.elim
      | _ => exact ⟨rfl, fun _ => rfl⟩) h.canon ha
  exact ⟨after_canon _ _ h.canon, hr.1.trans h.free, fun e c hm => h.comps e c (hr.2 e ▸ hm)⟩

theorem Freed.modDie {d : Nat} {f : Die → Die} (hf : ∀ c ∈ (f (s.die d)).compQ, c.idx ≠ i) : Freed i (after (modDie d f) s) := by
  refine ⟨after_canon _ _ h.canon, h.free, fun e c hm => ?_⟩
  rw [die_modDie h.canon] at hm
  split at hm
  · exact hf c hm
  · exact h.comps e c hm

theorem Freed.writeComp (d : Nat) {c : QComp} (hc : c.idx ≠ i) : Freed i (after (writeComp d c) s) := by
  have hD := allowsDrops_offFreed i
  refine h.after_of ?_
  simp only [Machine.writeComp, noteComp, allowed_seqA_cons, allowed_setF, allowed_whenA, allowed_modPassage, allowed_seqA_nil, and_true]
  exact ⟨allowed_storeBytes hD.stores _ _ _ s, trivial, fun _ => hc,
    fun _ => allowed_raiseEvent_of hD.stores.slices.reports.events.sends _ _ _ (fun _ _ _ _ => trivial) _⟩

omit h in
theorem Freed.drainList (d : Nat) (l : List QComp) {s : State} (h : Freed i s) (hl : ∀ c ∈ l, c.idx ≠ i) : Freed i (after (drainList d l) s) := by
  have hD := allowsDrops_offFreed i
  induction l generalizing s with
  | nil => exact h.after_of ((allowed_setF _ _ _ _).2 trivial)
  | cons c r ih =>
    by_cases hroom : s.cringRoom d = true
    · by_cases hheld : (s.heldE (s.cringNext d) 32).isEmpty = true
      · rw [after_congr (a := Machine.drainList d (c :: r)) (b := seqA _) (by simp only [Machine.drainList, hroom, hheld, Bool.not_true, Bool.false_eq_true, if_false]; rfl),
          after_seqA_cons, after_seqA_cons, after_seqA_cons, after_seqA_end]
        refine ih (Freed.writeComp (h.modDie fun c hm => h.comps d c (List.mem_of_mem_tail hm)) d (hl c (List.mem_cons_self ..)))
          fun c hm => hl c (List.mem_cons_of_mem _ hm)
      · rw [after_congr (a := Machine.drainList d (c :: r)) (b := recallE (s.heldE (s.cringNext d) 32)) (by simp [Machine.drainList, hroom, hheld])]
        exact h.after_of (allowed_recallE hD.stores.snoops _ s)
    · rw [after_congr (a := Machine.drainList d (c :: r)) (b := skip) (by simp [Machine.drainList, hroom, skip]), after_skipped]
      exact h

theorem Freed.drainComp (d : Nat) : Freed i (after (drainComp d) s) := by
  rw [Machine.drainComp, after_withA]
  exact Freed.drainList d _ h (h.comps d)

theorem Freed.complete (d : Nat) {c : QComp} (hc : c.idx ≠ i) : Freed i (after (complete d c) s) := by
  rw [Machine.complete, after_seqA_cons, after_seqA_cons, after_seqA_cons, after_seqA_end]
  refine Freed.drainComp (Freed.after_of (h.modDie fun c' hm => ?_) ((allowed_setF _ _ _ _).2 trivial)) d
  obtain hm | hm := List.mem_append.1 hm
  · exact h.comps d c' hm
  · rw [List.mem_singleton.1 hm]
    exact hc

theorem Freed.completeThen {j : Nat} (hj : j ≠ i) (f : Passage → QComp) (hf : ∀ p, (f p).idx = j) :
    Freed i (after (withA (fun s => s.passage j) fun p => seqA [Machine.complete p.cring (f p), swapDone p.part]) s) := by
  rw [after_withA, after_seqA_cons, after_seqA_cons, after_seqA_end]
  exact Freed.after_of (h.complete _ (by rw [hf]; exact hj)) ((allowsDrops_offFreed i).swapDone _ _)

theorem Freed.endPassage {j : Nat} (hj : j ≠ i) (status : Nat) : Freed i (after (endPassage j status) s) := by
  have hD := allowsDrops_offFreed i
  by_cases hg : (s.passage j).guest = true
  · refine h.after_of ?_
    simp only [Machine.endPassage, hg, if_true, allowed_seqA_cons, allowed_emit, allowed_seqA_nil, and_true]
    refine ⟨hD.dropItems j s, trivial, ?_⟩
    simp only [guestLeaves]
    split
    · simp only [allowed_seqA_cons, allowed_emit, allowed_modPassage, allowed_seqA_nil, and_true]
      exact ⟨trivial, hj⟩
    · exact .nil _
  · by_cases ho : (s.passage j).open_ = true
    · rw [after_congr (a := Machine.endPassage j status) (b := seqA _) (by simp only [Machine.endPassage, hg, ho, Bool.false_eq_true, if_false, if_true]; rfl),
        after_seqA_cons, after_seqA_cons, after_seqA_cons, after_seqA_cons, after_seqA_end]
      exact Freed.completeThen (Freed.after_of (Freed.after_of (h.after_of (hD.dropItems j s)) ((allowed_modPassage _ _ _).2 hj)) (hD.savePt j _)) hj _ fun _ => rfl
    · rw [after_congr (a := Machine.endPassage j status) (b := skip) (by simp [Machine.endPassage, hg, ho, skip]), after_skipped]
      exact h

theorem Freed.ptCrcFault {j : Nat} (hj : j ≠ i) (d n : Nat) : Freed i (after (ptCrcFault d j n) s) := by
  rw [after_congr (a := Machine.ptCrcFault d j n) (b := seqA _) (by simp only [Machine.ptCrcFault]; rfl), after_seqA_cons, after_seqA_cons, after_seqA_end]
  exact Freed.after_of (h.endPassage hj 8) (allowed_logEv (allowsDrops_offFreed i).stores.slices.reports ..)

theorem Freed.changeEntry {j : Nat} (hj : j ≠ i) (f : Passage → Passage) : Freed i (after (changeEntry j f) s) := by
  by_cases hc : (s.passage j).cached ∨ (s.passage j).guest
  · rw [after_congr (a := Machine.changeEntry j f) (b := modPassage j f) (by simp only [Machine.changeEntry, if_pos hc])]
    exact h.after_of ((allowed_modPassage _ _ _).2 hj)
  · by_cases hs : (crc16Ok (s.bytes (s.ptAddr (s.passage j).home j) 128) 0x7E && !s.poisoned (s.ptAddr (s.passage j).home j) 128) = true
    · refine h.after_of ?_
      simp only [Machine.changeEntry, if_neg hc, if_pos hs, allowed_seqA_cons, allowed_modPassage, allowed_seqA_nil, and_true]
      exact ⟨hj, (allowsDrops_offFreed i).savePt j _⟩
    · rw [after_congr (a := Machine.changeEntry j f) (b := Machine.ptCrcFault _ j _) (by simp only [Machine.changeEntry, if_neg hc, if_neg hs]; rfl)]
      exact h.ptCrcFault hj _ _

theorem Freed.makeRoom (d : Nat) : Freed i (after (makeRoom d) s) := by
  refine h.after_of ?_
  simp only [Machine.makeRoom]
  split
  · exact .nil _
  · split
    · next j hj =>
      have hlive : j ∈ s.live := List.mem_of_mem_filter (List.mem_of_mem_filter (List.mem_of_getElem? hj))
      simp only [allowed_seqA_cons, allowed_draw, allowed_modPassage, allowed_seqA_nil, and_true]
      exact ⟨trivial, (allowsDrops_offFreed i).savePt j _, fun he => h.not_live (he ▸ hlive)⟩
    · exact .nil _

theorem Freed.cacheIn {j : Nat} (hj : j ≠ i) (d : Nat) : Freed i (after (cacheIn d j) s) := by
  rw [Machine.cacheIn, after_seqA_cons, after_seqA_cons, after_seqA_end]
  obtain ⟨u, hu⟩ : ∃ u, u = after (Machine.makeRoom d) s := ⟨_, rfl⟩
  have hfu : Freed i u := hu ▸ h.makeRoom d
  rw [← hu]
  by_cases hl : (u.cachedOn d).length < 2048
  · by_cases hs : (crc16Ok (u.bytes (u.ptAddr d j) 128) 0x7E && !u.poisoned (u.ptAddr d j) 128) = true
    · rw [after_congr (b := modPassage j _) (by simp only [if_pos hl, if_pos hs]; rfl)]
      exact hfu.after_of ((allowed_modPassage _ _ _).2 hj)
    · rw [after_congr (b := Machine.ptCrcFault d j _) (by simp only [if_pos hl, if_neg hs]; rfl)]
      exact hfu.ptCrcFault hj _ _
  · rw [after_congr (b := skip) (by simp [hl, skip]), after_skipped]
    exact hfu

theorem Freed.beginStep {j : Nat} (hj : j ≠ i) : Freed i (after (beginStep j) s) := by
  obtain ⟨p, hp⟩ : ∃ p, p = s.passage j := ⟨_, rfl⟩
  by_cases hs : s.poisoned (ringAddr p.inRing + p.inHead % 2 ^ ringLog2 p.inRing * s.inSlot p.part) (s.inSlot p.part) = true
  · rw [after_congr (a := Machine.beginStep j) (b := Machine.endPassage j 0x0C) (by subst hp; simp only [Machine.beginStep, if_pos hs])]
    exact h.endPassage hj _
  · subst hp
    refine h.after_of ?_
    simp only [Machine.beginStep, if_neg hs, allowed_seqA_cons, allowed_modPassage, allowed_seqA_nil, and_true]
    exact ⟨hj, allowed_forA _ _ _ fun _ _ _ => (allowed_modDie _ _ _).2 rfl⟩

theorem Freed.startStep {j : Nat} (hj : j ≠ i) : Freed i (after (startStep j) s) := by
  by_cases h1 : (s.passage j).open_ = false ∨ (s.passage j).inflight = true ∨ (s.passage j).pendingIn = 0 ∨ s.compWaits j = true ∨ s.draining = true ∨ s.power.gated = true
  · rw [after_congr (a := Machine.startStep j) (b := skip) (by simp only [Machine.startStep, if_pos h1]; rfl), after_skipped]
    exact h
  · by_cases h2 : s.admStopped (s.passage j).part = true
    · rw [after_congr (a := Machine.startStep j) (b := holdP j 5) (by simp only [Machine.startStep, if_neg h1, if_pos h2])]
      exact h.changeEntry hj _
    · have hb : ∀ f n, Freed i (after (bump f n 1) s) := fun f n => h.after_of ((allowed_bump _ _ _ _).2 trivial)
      by_cases h3 : (s.passage j).cached = true
      · rw [after_congr (a := Machine.startStep j) (b := seqA _) (by simp only [Machine.startStep, if_neg h1, if_neg h2, if_pos h3]; rfl), after_seqA_cons,
          after_seqA_cons, after_seqA_end]
        exact (hb _ _).beginStep hj
      · rw [after_congr (a := Machine.startStep j) (b := seqA _) (by simp only [Machine.startStep, if_neg h1, if_neg h2, if_neg h3]; rfl), after_seqA_cons,
          after_seqA_cons, after_seqA_cons, after_seqA_end]
        obtain ⟨u, hu⟩ : ∃ u, u = after (Machine.cacheIn (s.passage j).home j) (after (bump F.PAS_CACHE_CNT_MISS (s.passage j).home 1) s) := ⟨_, rfl⟩
        have hfu : Freed i u := hu ▸ (hb _ _).cacheIn hj _
        rw [← hu]
        by_cases h4 : (u.passage j).cached = true
        · rw [after_congr (b := Machine.beginStep j) (by simp only [if_pos h4])]
          exact hfu.beginStep hj
        · by_cases h5 : (u.passage j).open_ = true
          · rw [after_congr (b := holdP j 4) (by simp only [if_neg h4, if_pos h5])]
            exact hfu.changeEntry hj _
          · rw [after_congr (b := skip) (by simp only [if_neg h4, if_neg h5]; rfl), after_skipped]
            exact hfu

theorem Freed.donePassage {j : Nat} (hj : j ≠ i) (kind slot n : Nat) : Freed i (after (donePassage j kind slot n) s) := by
  rw [Machine.donePassage, after_seqA_cons, after_seqA_cons, after_seqA_cons, after_seqA_end]
  exact Freed.completeThen (Freed.after_of (h.after_of ((allowed_modPassage _ _ _).2 hj)) ((allowsDrops_offFreed i).savePt j _)) hj _ fun _ => rfl

/-- The end of a step, once its result is stored. -/
theorem Freed.stepEnds {j : Nat} (hj : j ≠ i) (c : Bool) (slot n : Nat) : Freed i (after (if c then Machine.donePassage j 2 slot n
    else seqA [withA (fun s => s.passage j) fun q => Machine.complete q.cring (compOf j q 1 slot n), modPassage j fun p => { p with exitAt := 0xFFFF },
      Machine.startStep j]) s) := by
  split
  · exact h.donePassage hj _ _ _
  · rw [after_seqA_cons, after_withA, after_seqA_cons, after_seqA_cons, after_seqA_end]
    exact Freed.startStep (Freed.after_of (h.complete _ hj) ((allowed_modPassage _ _ _).2 hj)) hj

theorem Freed.finishStep {j : Nat} (hj : j ≠ i) (res : List Byte) : Freed i (after (finishStep j res) s) := by
  have hD := allowsDrops_offFreed i
  obtain ⟨p, hp⟩ : ∃ p, p = s.passage j := ⟨_, rfl⟩
  obtain ⟨a, ha⟩ : ∃ a, a = ringAddr p.outRing + p.outNext % 2 ^ ringLog2 p.outRing * s.outSlot p.part := ⟨_, rfl⟩
  by_cases h1 : s.slotFree j = false
  · rw [after_congr (a := Machine.finishStep j res) (b := modPassage j _) (by simp only [Machine.finishStep, if_pos h1]; rfl)]
    exact h.after_of ((allowed_modPassage _ _ _).2 hj)
  · by_cases h2 : (s.heldE a (s.outSlot p.part)).isEmpty = false
    · refine h.after_of ?_
      subst ha hp
      simp only [Machine.finishStep, if_neg h1, if_pos h2, allowed_seqA_cons, allowed_modPassage, allowed_seqA_nil, and_true]
      exact ⟨hj, allowed_recallE hD.stores.snoops _ _⟩
    · subst ha hp
      rw [after_congr (a := Machine.finishStep j res) (b := seqA _) (by simp only [Machine.finishStep, if_neg h1, if_neg h2]; rfl), after_seqA_cons, after_seqA_cons,
        after_seqA_cons, after_seqA_cons, after_seqA_end]
      exact Freed.stepEnds (Freed.after_of (Freed.after_of (h.after_of (allowed_storeBytes hD.stores _ _ _ _)) (allowed_clearItems hD j _))
        ((allowed_modPassage _ _ _).2 hj)) hj _ _ _

omit h in
theorem Freed.forA_other {g : Nat → Act} (hg : ∀ j, j ≠ i → ∀ s, Freed i s → Freed i (after (g j) s)) : ∀ (l : List Nat), (∀ j ∈ l, j ≠ i) → ∀ s : State, Freed i s →
    Freed i (after (forA l g) s)
  | [], _, _, h => h
  | j :: l, hl, s, h => by
    rw [after_forA_cons]
    exact Freed.forA_other hg l (fun k hk => hl k (List.mem_cons_of_mem _ hk)) _ (hg j (hl j (List.mem_cons_self ..)) s h)

theorem Freed.resumeRing (d : Nat) : Freed i (after (resumeRing d) s) := by
  rw [Machine.resumeRing, after_seqA_cons, after_seqA_cons, after_seqA_end]
  have hu := h.drainComp d
  exact Freed.forA_other (fun j hj s hs => hs.startStep hj) _ (fun j hj he => hu.not_live (by rw [← he]; exact List.mem_of_mem_filter hj)) _ hu

theorem Freed.waitingResults (d : Nat) : Freed i (after (waitingResults d) s) := by
  refine Freed.forA_other (g := fun j => whenA (fun s => decide ((s.die d).compQ.length < 256)) (withA (fun s => (s.passage j).waiting) fun o => forOpt o (Machine.finishStep j)))
    (fun j hj s hs => ?_) _ (fun j hj he => h.not_live (by rw [← he]; exact List.mem_of_mem_filter hj)) s h
  rw [after_whenA]
  split
  · rw [after_withA]
    cases (s.passage j).waiting with
    | none => exact hs
    | some res => exact hs.finishStep hj res
  · exact hs

end

/-! ### It is freed -/

theorem SMap.mem_keys_of_get_ne {β : Type} {dflt : Nat → β} {m : SMap β} {k : Nat} (h : SMap.get dflt m k ≠ dflt k) : k ∈ SMap.keys m := by
  induction m with
  | nil => exact absurd rfl h
  | cons x m ih =>
    obtain ⟨j, v⟩ := x
    simp only [SMap.get] at h
    split at h
    · next he => exact List.mem_cons.2 (.inl he)
    · split at h
      · exact absurd rfl h
      · exact List.mem_cons_of_mem _ (ih h)

theorem allowsDrops_compQ : AllowsDrops (dieRel fun _ x y => y.compQ = x.compQ) := fun s e he => by
  cases e with
  | die d x =>
    change x = _ at he
    change x.compQ = _
    rw [he]
  | lost => exact he.elim
  | _ => trivial

theorem allowsDrops_passageRel (R : Nat → Passage → Passage → Prop) : AllowsDrops (passageRel R) := fun _ e he => by
  cases e with
  | passage | lost => exact he.elim
  | _ => trivial

/-- Freeing passage j empties it, and touches no completion and no other passage. -/
theorem freePassage_frees (j : Nat) {s : State} (hc : s.canon = true) : (after (freePassage j) s).passage j = Passage.zero ∧
    (∀ i, i ≠ j → (after (freePassage j) s).passage i = s.passage i) ∧ ∀ e, ((after (freePassage j) s).die e).compQ = (s.die e).compQ := by
  refine ⟨?_, fun i hi => ?_, fun e => ?_⟩
  · rw [freePassage, after_seqA_cons, after_seqA_cons, after_seqA_cons, after_seqA_end]
    exact (modPassage_shows (after_canon _ _ (after_canon _ _ hc)) j _).1
  · have h := after_passagesBut (L := [j]) hc (a := freePassage j) (by
      simp only [freePassage, allowed_seqA_cons, allowed_modPassage, allowed_seqA_nil, and_true]
      have hk : ∀ x y : Passage, keepBut [j] j x y := fun _ _ => Or.inl (List.mem_singleton.2 rfl)
      exact ⟨hk _ _, (allowsDrops_passageRel (keepBut [j])).savePt j _, hk _ _⟩)
    exact h i (by simpa using hi)
  · refine after_dieRel (R := fun _ x y => y.compQ = x.compQ) (fun _ _ => rfl) (fun _ _ _ _ h1 h2 => h2.trans h1) hc (a := freePassage j) ?_ e
    simp only [freePassage, allowed_seqA_cons, allowed_modPassage, allowed_seqA_nil, and_true]
    exact ⟨trivial, allowsDrops_compQ.savePt j _, trivial⟩

theorem freePassages_free {i : Nat} (l : List Nat) {s : State} (hc : s.canon = true) (hq : ∀ e, ∀ c ∈ (s.die e).compQ, c.idx ≠ i)
    (h : i ∈ l ∨ s.passage i = Passage.zero) : Freed i (after (forA l freePassage) s) := by
  induction l generalizing s with
  | nil => exact ⟨hc, h.resolve_left List.not_mem_nil, hq⟩
  | cons j l ih =>
    rw [after_forA_cons]
    obtain ⟨hz, ho, hk⟩ := freePassage_frees j hc
    refine ih (after_canon _ _ hc) (fun e c hm => hq e c (hk e ▸ hm)) ?_
    by_cases hj : i = j
    · subst hj
      exact .inr hz
    · rw [ho i hj]
      exact h.imp_left fun h => (List.mem_cons.1 h).resolve_left hj

/-- The results of passage i whose entries HEAD has passed are released. -/
def dropPassed (h₀ h i : Nat) : Act := modPassage i fun p => { p with outAt := p.outAt.filter fun x => !passed h₀ h x.2 }

/-- The passages of a ring that have ended and whose final entry HEAD has passed. -/
def State.endedPast (s : State) (d h₀ h : Nat) : List Nat := s.live.filter fun i =>
  ((s.passage i).st == 5 || (s.passage i).st == 6) && (s.passage i).cring == d && (s.passage i).finalAt.any (passed h₀ h)

theorem headMoved_eq (d h₀ h : Nat) : headMoved d h₀ h = seqA [
    withA (fun s => s.live.filter fun i => (s.passage i).cring == d && !(s.passage i).outAt.isEmpty) fun l => forA l (dropPassed h₀ h),
    withA (fun s => s.endedPast d h₀ h) fun l => forA l freePassage, resumeRing d, waitingResults d] := rfl

theorem headMoved_frees {i n d h₀ h : Nat} {s : State} (hc : s.canon = true) (hst : (s.passage i).st = 5 ∨ (s.passage i).st = 6)
    (hcr : (s.passage i).cring = d) (hf : (s.passage i).finalAt = some n) (hp : passed h₀ h n = true) (hq : ∀ e, ∀ c ∈ (s.die e).compQ, c.idx ≠ i) :
    Freed i (after (headMoved d h₀ h) s) := by
  obtain ⟨l, hl⟩ : ∃ l, l = s.live.filter fun i => (s.passage i).cring == d && !(s.passage i).outAt.isEmpty := ⟨_, rfl⟩
  obtain ⟨u, hu⟩ : ∃ u, u = after (forA l (dropPassed h₀ h)) s := ⟨_, rfl⟩
  have hcu : u.canon = true := hu ▸ after_canon _ _ hc
  have hup : u.passage i = { s.passage i with outAt := (u.passage i).outAt } := hu ▸ after_passageRel (R := fun _ x y => y = { x with outAt := y.outAt })
    (fun _ _ => rfl) (fun _ _ _ _ h1 h2 => by rw [h2, h1]) hc (allowed_forA _ _ _ fun j _ s => (allowed_modPassage s j _).2 (by exact rfl)) i
  have huf : u = { s with passages := u.passages } := hu ▸ after_overlay [.passages] (allowed_forA _ _ _ fun j _ s => (allowed_modPassage _ _ _).2 (by simp))
  have hud : u.die = s.die := by rw [huf]; rfl
  have hlive : i ∈ u.live := SMap.mem_keys_of_get_ne (dflt := fun _ => Passage.zero) fun hz => by
    have hz' : (u.passage i).st = 0 := congrArg Passage.st hz
    rw [hup] at hz'
    rcases hst with h5 | h5 <;> exact absurd (h5.symm.trans hz') (by decide)
  have him : i ∈ u.endedPast d h₀ h := by
    refine List.mem_filter.2 ⟨hlive, ?_⟩
    rw [hup]
    simp only [hcr, hf, Option.any_some, hp, beq_self_eq_true, Bool.and_true, Bool.or_eq_true, beq_iff_eq]
    exact hst
  have hfree := freePassages_free _ hcu (hud ▸ hq) (.inl him)
  rw [headMoved_eq, after_seqA_cons, after_withA, after_seqA_cons, after_withA, after_seqA_cons, after_seqA_cons, after_seqA_end, ← hl, ← hu]
  exact (hfree.resumeRing d).waitingResults d

/-- R212: the host has moved HEAD past a passage's final entry. -/
theorem completionHeadWrite_frees {s : State} (hc : s.canon = true) {src : Src} {d : Fin 32} {v : Word} {i n : Nat} (ht : s.takes src .pas d.val 0x130 = true)
    (hst : (s.passage i).st = 5 ∨ (s.passage i).st = 6) (hcr : (s.passage i).cring = d.val) (hf : (s.passage i).finalAt = some n)
    (hp : passed (s.fld F.PAS_CRING_HEAD_HEAD d.val) (bitsOf v 16 0) n = true) (hq : ∀ e, ∀ c ∈ (s.die e).compQ, c.idx ≠ i) :
    ∃ t, exec (.completionHeadWrite src d v) s = .next t ∧ t.fld F.PAS_CRING_HEAD_HEAD d.val = bitsOf v 16 0 ∧ t.passage i = Passage.zero ∧ t.cells = s.cells := by
  obtain ⟨u, hu⟩ : ∃ u, u = after (storeRW .pas d.val 0x130 v) s := ⟨_, rfl⟩
  have hcu : u.canon = true := hu ▸ after_canon _ _ hc
  have huf : u = { s with regs := u.regs } := hu ▸ storeRW_frame _ _ _ _ _
  have hup : u.passage = s.passage := by rw [huf]; rfl
  have hud : u.die = s.die := by rw [huf]; rfl
  have hrow : ∃ r ∈ rowOf .pas 0x130, r.apart = true ∧ (⟨16, 0, .rw, 0⟩ : RegFld) ∈ r.flds := by decide
  have hhead : u.fld F.PAS_CRING_HEAD_HEAD d.val = bitsOf v 16 0 := by
    rw [hu]
    exact fld_storeRW hc (f := F.PAS_CRING_HEAD_HEAD) (i := d.val) (v := v) 0 hrow
  obtain ⟨hregs, hcells⟩ := ring_leaves hcu (a := headMoved d.val (s.fld F.PAS_CRING_HEAD_HEAD d.val) (bitsOf v 16 0)) fun hP hi => allowed_headMoved hP hi _ _ _ u
  have hfree := headMoved_frees hcu (d := d.val) (by rw [hup]; exact hst) (by rw [hup]; exact hcr) (by rw [hup]; exact hf) hp (by rw [hud]; exact hq)
  refine ⟨after (headMoved d.val (s.fld F.PAS_CRING_HEAD_HEAD d.val) (bitsOf v 16 0)) u, ?_, ?_, hfree.free, hcells.trans (by rw [huf])⟩
  · have hact : hostCompletionHeadWrite src d v s = seqA [storeRW .pas d.val 0x130 v, headMoved d.val (s.fld F.PAS_CRING_HEAD_HEAD d.val) (bitsOf v 16 0)] s := by
      rw [hostCompletionHeadWrite, guardW_of_takes ht, storeRW]
    change runAct (hostCompletionHeadWrite src d v) s = _
    refine congrArg Host.Outcome.next ((after_congr hact).trans ?_)
    rw [after_seqA_cons, after_seqA_cons, after_seqA_end, ← hu]
  · exact (congrArg (bitsOf · 16 0) (hregs _ d.isLt 0x130 (by simp))).trans hhead

/-! ## An entry is brought into the cache (R209, R210) -/

/-- The read of a passage's entry, where the table is valid. -/
def entryRead (d a : Nat) (e : Ecc) : Act := whenA (fun s => s.flag F.PAS_PT_BASE_VALID d) (seqA [sliceReads false a 128, eccRead a 128 e])

theorem allowsSlices_onlyFields {fs : List StateField} (h : [.regs, .poison, .nvm, .keeper, .dies, .ports, .free, .out] ⊆ fs) : AllowsSlices (onlyFields fs) :=
  fun s e he => by
  cases e <;> simp_all [Sliced, Report, List.cons_subset]

theorem onlyFields_eccRead {fs : List StateField} (h : [.regs, .poison, .nvm, .keeper, .dies, .ports, .free, .out] ⊆ fs) (a n : Nat) (e : Ecc) (s : State) :
    Allowed (onlyFields fs) (eccRead a n e s) s := by
  have hr : AllowsReports (onlyFields fs) := allowsReports_onlyFields fun f hf => h (by simp_all [List.subset_def]; tauto)
  have hm := fun f hf => h (a := f) hf
  simp only [eccRead]
  split
  · exact .nil _
  · simp only [allowed_seqA_cons, allowed_draw, allowed_seqA_nil, and_true]
    refine ⟨by simp [hm], ?_⟩
    simp only [fillWord]
    split
    · simp only [badWord, poisonWord, allowed_seqA_cons, allowed_bump, allowed_setF, allowed_setB, allowed_eff, allowed_seqA_nil, and_true]
      exact ⟨by simp [hm], by simp [hm], by simp [hm], by simp [hm], by simp [hm], allowed_logEv hr ..⟩
    · split
      · exact (allowed_bump ..).2 (by simp [hm])
      · exact .nil _

section
variable {s : State} (hc : s.canon = true) {d : Fin 32} {i : Fin 1048576}
include hc

omit hc in
theorem entryRead_frame (d a : Nat) (e : Ecc) {u : State} (hu : u = after (entryRead d a e) s) : u.passages = s.passages ∧ u.cells = s.cells := by
  have hf : u = State.overlay [.regs, .poison, .nvm, .keeper, .dies, .ports, .free, .out] s u := hu ▸ after_overlay _ (by
    simp only [entryRead, allowed_whenA, allowed_seqA_cons, allowed_seqA_nil, and_true]
    exact fun _ => ⟨allowed_sliceReads (allowsSlices_onlyFields (List.Subset.refl _)) _ _ _ _, onlyFields_eccRead (List.Subset.refl _) _ _ _ _⟩)
  exact ⟨by rw [hf]; rfl, by rw [hf]; rfl⟩

theorem entryRead_sound (d a : Nat) {u : State} (hu : u = after (entryRead d a .ok) s) : ButSlices [] s u := by
  subst hu
  refine after_butSlices hc ?_
  simp only [entryRead, allowed_whenA, allowed_seqA_cons, allowed_seqA_nil, and_true]
  exact fun _ => ⟨allowed_sliceReads (allowsSlices_slicedBut []) _ _ _ _, by simp [eccRead]⟩

/-- R210: an entry that is not sound ends its passage. -/
theorem ptCrcFault_faults (e n : Nat) (hg : (s.passage i.val).guest = false) (ho : (s.passage i.val).open_ = true) {t : State} (ht : t = after (ptCrcFault e i.val n) s) :
    t.faulted i.val 8 ∧ t.cells = s.cells ∧ (t.passage i.val).cached = (s.passage i.val).cached := by
  obtain ⟨u, hu⟩ : ∃ u, u = after (endPassage i.val 8) s := ⟨_, rfl⟩
  have hp := passage_endPassage hc (status := 8) ho hg
  rw [← hu, PassageNoted] at hp
  obtain ⟨a, ha⟩ : ∃ a : Act, a = logEv (some e) 12 3 2 (unitChannel (s.ptAddr e i.val)) (s.part e) (s.passage i.val).job 0 (leBytes 8 (s.ptAddr e i.val) ++ leBytes 4 n) := ⟨_, rfl⟩
  have hta : t = after a u := by
    rw [ht, after_congr (a := ptCrcFault e i.val n) (b := seqA _) (by simp only [ptCrcFault]; rfl), after_seqA_cons, after_seqA_cons, after_seqA_end, ← hu, ha]
  have hf : t = State.overlay [.regs, .poison, .nvm, .keeper, .dies, .ports, .free, .out] u t := hta ▸ after_overlay _ (by
    rw [ha]
    exact allowed_logEv (allowsSlices_onlyFields (List.Subset.refl _)).reports ..)
  have htp : t.passage = u.passage := by rw [hf]; rfl
  have hcells : u.cells = s.cells := hu ▸ after_read_eq State.cells (allowed_endPassage (allowsEnds_onlyFields (List.Subset.refl _)) i.val 8 (fun _ _ => by simp) s) fun _ => rfl
  have htc : t.cells = u.cells := by rw [hf]; rfl
  rw [State.faulted, htp, hp]
  exact ⟨⟨rfl, rfl⟩, htc.trans hcells, rfl⟩

/-- R209, R213: a passage that was held for its entry goes on, and keeps what the entry says. -/
theorem entryHere_goesOn (hca : (s.passage i.val).cached = true) (hg : (s.passage i.val).guest = false) {t : State}
    (ht : t = after (seqA [unholdP i.val 4, startStep i.val]) s) : StepKept (s.passage i.val) (t.passage i.val) ∧ t.cells = s.cells := by
  obtain ⟨u, hu⟩ : ∃ u, u = after (modPassage i.val fun p => if p.st = 2 ∧ p.hold = 4 then { p with st := p.heldFrom, hold := 0 } else p) s := ⟨_, rfl⟩
  have hcu : u.canon = true := hu ▸ after_canon _ _ hc
  have htu : t = after (startStep i.val) u := by
    rw [ht, after_seqA_cons, after_seqA_cons, after_seqA_end, hu]
    exact congrArg (after (startStep i.val)) (after_congr (changeEntry_cached hca _))
  have hsu : StepKept (s.passage i.val) (u.passage i.val) := by
    rw [hu, (modPassage_shows hc i.val _).1]
    split <;> exact rfl
  obtain ⟨k1, -, k3⟩ := hsu.place
  have hall : ∀ {P : State → Eff → Prop}, AllowsStarts P → (∀ s x, StepKept (s.passage i.val) x → P s (.passage i.val x)) → P u (.passage i.val ((u.passage i.val).held 5)) →
      Allowed P (startStep i.val u) u := fun hP hi hh => allowed_startStep hP (k1.trans hca) (k3.trans hg) (fun s x h _ => hi s x h) fun _ => hh
  have hstep : StepKept (u.passage i.val) (t.passage i.val) := htu ▸ after_passageRel (R := fun j x y => j = i.val → StepKept x y) (fun _ _ _ => rfl)
    (fun _ _ _ _ h1 h2 h => (h1 h).trans (h2 h)) hcu (hall (allowsStarts_passageRel fun _ _ _ h _ => (lifted_noted h).1) (fun _ _ h _ => h) fun _ => stepKept_held 5 _) i.val rfl
  have hcells : t.cells = u.cells := htu ▸ after_read_eq State.cells (hall (allowsStarts_onlyFields (List.Subset.refl _)) (by simp) (by simp)) fun _ => rfl
  exact ⟨hsu.trans hstep, hcells.trans (by rw [hu]; rfl)⟩

omit hc in
/-- With room in the cache an entry comes in as the stack holds it, or its passage ends. -/
theorem cacheIn_eq (d i : Nat) (hroom : (s.cachedOn d).length < 2048) : after (cacheIn d i) s =
    if (crc16Ok (s.bytes (s.ptAddr d i) 128) 0x7E && !s.poisoned (s.ptAddr d i) 128) = true
    then after (modPassage i fun p => { decPt p (s.bytes (s.ptAddr d i) 128) with cached := true }) s
    else after (ptCrcFault d i (leAt (s.bytes (s.ptAddr d i) 128) 0 4)) s := by
  have hm : after (makeRoom d) s = s := by
    rw [after_congr (a := makeRoom d) (b := skip) (by simp only [makeRoom, if_pos hroom]; rfl), after_skipped]
  rw [cacheIn, after_seqA_cons, hm, after_seqA_cons, after_seqA_end]
  split
  · next h => exact after_congr (by simp only [if_pos hroom, if_pos h])
  · next h => exact after_congr (by simp only [if_pos hroom, if_neg h])

omit hc in
theorem ptAddr_eq {u : State} (hb : ButSlices [] s u) (d : Fin 32) (i : Nat) : u.ptAddr d.val i = s.ptAddr d.val i := by
  have hf : u.fld F.PAS_PT_BASE_ADDR d.val = s.fld F.PAS_PT_BASE_ADDR d.val := hb.fld (by simp) (by decide) (by omega) (by decide)
  simp only [State.ptAddr, hf, hb.part_eq, State.range, hb.ptab_eq]

variable (ho : (s.passage i.val).open_ = true) (hh : (s.passage i.val).home = d.val) (hca : (s.passage i.val).cached = false)
include ho hh hca

omit hc in
theorem exec_passageCacheFill_bad : exec (.passageCacheFill d i .uncorrectable) s =
    .next (after (ptCrcFault d.val i.val 0) (after (entryRead d.val (s.ptAddr d.val i.val) .uncorrectable) s)) := by
  refine congrArg Host.Outcome.next ((after_congr (b := seqA [entryRead d.val (s.ptAddr d.val i.val) .uncorrectable, ptCrcFault d.val i.val 0]) ?_).trans ?_)
  · have hn : ¬ ((s.passage i.val).open_ = false ∨ (s.passage i.val).home ≠ d.val ∨ (s.passage i.val).cached = true) := by simp [ho, hh, hca]
    simp only [if_neg hn, if_true]
    exact rfl
  · rw [after_seqA_cons, after_seqA_cons, after_seqA_end]

omit hc in
theorem exec_passageCacheFill_ok : exec (.passageCacheFill d i .ok) s = .next (after (whenA (fun s => (s.passage i.val).cached) (seqA [unholdP i.val 4, startStep i.val]))
    (after (cacheIn d.val i.val) (after (entryRead d.val (s.ptAddr d.val i.val) .ok) s))) := by
  refine congrArg Host.Outcome.next ((after_congr (b := seqA [entryRead d.val (s.ptAddr d.val i.val) .ok, cacheIn d.val i.val,
    whenA (fun s => (s.passage i.val).cached) (seqA [unholdP i.val 4, startStep i.val])]) ?_).trans ?_)
  · have hn : ¬ ((s.passage i.val).open_ = false ∨ (s.passage i.val).home ≠ d.val ∨ (s.passage i.val).cached = true) := by simp [ho, hh, hca]
    simp only [if_neg hn, reduceCtorEq, if_false]
    exact rfl
  · rw [after_seqA_cons, after_seqA_cons, after_seqA_cons, after_seqA_end]

variable (hg : (s.passage i.val).guest = false)
include hg

theorem passageCacheFill_bad : ∃ t, exec (.passageCacheFill d i .uncorrectable) s = .next t ∧ t.faulted i.val 8 ∧ t.cells = s.cells := by
  obtain ⟨u, hu⟩ : ∃ u, u = after (entryRead d.val (s.ptAddr d.val i.val) .uncorrectable) s := ⟨_, rfl⟩
  obtain ⟨hp, hcells⟩ := entryRead_frame d.val (s.ptAddr d.val i.val) .uncorrectable hu
  have hup : u.passage = s.passage := funext fun j => by simp only [State.passage, hp]
  obtain ⟨h1, h2, -⟩ := ptCrcFault_faults (hu ▸ after_canon _ _ hc) d.val 0 (i := i) (by rw [hup]; exact hg) (by rw [hup]; exact ho) rfl
  refine ⟨_, exec_passageCacheFill_bad ho hh hca, ?_⟩
  rw [← hu]
  exact ⟨h1, h2.trans hcells⟩

variable (hroom : (s.cachedOn d.val).length < 2048)
include hroom

theorem passageCacheFill_unsound (hcrc : crc16Ok (s.bytes (s.ptAddr d.val i.val) 128) 0x7E = false) :
    ∃ t, exec (.passageCacheFill d i .ok) s = .next t ∧ t.faulted i.val 8 ∧ t.cells = s.cells := by
  obtain ⟨u, hu⟩ : ∃ u, u = after (entryRead d.val (s.ptAddr d.val i.val) .ok) s := ⟨_, rfl⟩
  obtain ⟨hp, hcells⟩ := entryRead_frame d.val (s.ptAddr d.val i.val) .ok hu
  have hb := entryRead_sound hc d.val (s.ptAddr d.val i.val) hu
  have hup : u.passage = s.passage := funext fun j => by simp only [State.passage, hp]
  have hur : (u.cachedOn d.val).length < 2048 := by
    simpa only [State.cachedOn, State.live, State.passage, hp] using hroom
  have haddr := ptAddr_eq hb d i.val
  obtain ⟨h1, h2, h3⟩ := ptCrcFault_faults (hu ▸ after_canon _ _ hc) d.val (leAt (s.bytes (s.ptAddr d.val i.val) 128) 0 4) (i := i) (by rw [hup]; exact hg) (by rw [hup]; exact ho) rfl
  rw [hup, hca] at h3
  refine ⟨_, exec_passageCacheFill_ok ho hh hca, ?_⟩
  rw [← hu, cacheIn_eq _ _ hur, haddr, hb.bytes_eq, hcrc, Bool.false_and, if_neg Bool.false_ne_true, after_whenA, h3, if_neg Bool.false_ne_true]
  exact ⟨h1, h2.trans hcells⟩

theorem passageCacheFill_sound (hcrc : crc16Ok (s.bytes (s.ptAddr d.val i.val) 128) 0x7E = true) (hpo : s.poisoned (s.ptAddr d.val i.val) 128 = false) :
    ∃ t, exec (.passageCacheFill d i .ok) s = .next t ∧ (t.passage i.val).cached = true ∧
      (t.passage i.val).handle = BitVec.ofNat 32 (leAt (s.bytes (s.ptAddr d.val i.val) 128) 0 4) ∧
      (t.passage i.val).inTail = leAt (s.bytes (s.ptAddr d.val i.val) 128) 34 2 ∧ (t.passage i.val).outNext = leAt (s.bytes (s.ptAddr d.val i.val) 128) 36 2 ∧
      (t.passage i.val).user = BitVec.ofNat 32 (leAt (s.bytes (s.ptAddr d.val i.val) 128) 68 4) ∧ t.cells = s.cells := by
  obtain ⟨u, hu⟩ : ∃ u, u = after (entryRead d.val (s.ptAddr d.val i.val) .ok) s := ⟨_, rfl⟩
  have hcu : u.canon = true := hu ▸ after_canon _ _ hc
  obtain ⟨hp, hcells⟩ := entryRead_frame d.val (s.ptAddr d.val i.val) .ok hu
  have hb := entryRead_sound hc d.val (s.ptAddr d.val i.val) hu
  have hup : u.passage = s.passage := funext fun j => by simp only [State.passage, hp]
  have hur : (u.cachedOn d.val).length < 2048 := by
    simpa only [State.cachedOn, State.live, State.passage, hp] using hroom
  obtain ⟨b, hbb⟩ : ∃ b, b = s.bytes (s.ptAddr d.val i.val) 128 := ⟨_, rfl⟩
  obtain ⟨w, hw⟩ : ∃ w, w = after (modPassage i.val fun p => { decPt p b with cached := true }) u := ⟨_, rfl⟩
  have hcw : w.canon = true := hw ▸ after_canon _ _ hcu
  have hwi : w.passage i.val = { decPt (s.passage i.val) b with cached := true } := by
    rw [hw, (modPassage_shows hcu i.val _).1, hup]
  have hwca : (w.passage i.val).cached = true := by rw [hwi]
  obtain ⟨hk, hce⟩ := entryHere_goesOn hcw (i := i) hwca (by rw [hwi]; exact hg) rfl
  have hexec := exec_passageCacheFill_ok ho hh hca
  rw [← hu, cacheIn_eq _ _ hur, ptAddr_eq hb, hb.bytes_eq, hb.poisoned_eq, hcrc, hpo, if_pos (by decide), ← hbb, ← hw, after_whenA, if_pos hwca] at hexec
  refine ⟨_, hexec, ?_⟩
  rw [StepKept, hwi] at hk
  rw [hk, ← hbb]
  exact ⟨rfl, rfl, rfl, rfl, rfl, hce.trans (by rw [hw]; exact hcells)⟩

end

end Sys2Proof.Machine

open Sys2Proof Sys2Proof.Machine

/-- Settles O26: a freed passage stays free while its ring is served, since no completion of it waits and only live passages are touched. -/
theorem passageRings : Obligations.PassageRings := by
  unfold Obligations.PassageRings
  refine ⟨fun s src d v hc => ⟨admissionDoorbell_offers hc, fun c ht => ⟨ringBaseWrite_discarded ht, ringBaseWrite_stores hc ht⟩,
      fun ht lo hi hr hst ho => ptBaseWrite_shows hc ht hr hst ho, peekWrite_shows hc⟩,
    fun s src d v i n hc ht _ hst hcr _ hf hp hq => completionHeadWrite_frees hc ht hst hcr hf hp hq, fun s d i hc => ?_⟩
  intro p b ho hg hh hca hroom
  exact ⟨passageCacheFill_sound hc ho hh hca hg hroom, passageCacheFill_unsound hc ho hh hca hg hroom, passageCacheFill_bad hc ho hh hca hg⟩

end

section
/-!
SUPPORT. The footprint of an array that leaves its tile: retirement, rebinds and what follows them (R196, R197, R329).
-/
namespace Sys2Proof.Machine

/-- A key that is of no count of test runs (CHK_TP_RUNS). -/
def NotRuns (k : Nat) : Prop := ∀ d < 32, k ≠ regKey .chk d 0x140

theorem notRuns_of_notChk {k : Nat} (h : NotChk k) : NotRuns k := fun d hd => h d hd 0x140 (by decide) (by decide)

theorem notRuns_of_code {b : Blk} (h : 0x15 < b.code) (i o : Nat) : NotRuns (regKey b i o) := fun d hd hk => by
  have h1 : Blk.chk.code = 0x15 := rfl
  simp only [regKey] at hk
  omega

theorem notRuns_of_blk {b : Blk} (h : b.code ≠ Blk.chk.code) {i o : Nat} (hi : i < 1048576) (ho : o < 65536) : NotRuns (regKey b i o) := fun d hd hk =>
  h (regKey_inj hi (by omega) ho (by decide) hk).1

theorem notRuns_chk {i o : Nat} (hi : i < 32) (ho : o < 65536) (hne : o ≠ 0x140) : NotRuns (regKey .chk i o) := fun d hd hk =>
  hne (regKey_inj (by omega) (by omega) ho (by decide) hk).2.2

/-- What an effect of work that leaves its tile can be, but for rewrites that are counted and tiles that lose their tag: no cells, no counts
of test runs, no new test run, no soft count, no record of the unit history, no summary of a tile. -/
def Moves (s : State) (e : Eff) : Prop :=
  match e with
  | .reg b i o _ => NotRuns (regKey b i o)
  | .core c x => (s.core c).testRet = none → x.testRet = none
  | .die d x => (s.die d).softUp = [] → x.softUp = []
  | .nvm n => n.uhist = s.nvm.uhist ∧ n.tsum = s.nvm.tsum ∧ (s.nvm.worn = true → n.worn = true)
  | .cell .. | .lost _ => False
  | _ => True

theorem allowsStarts_moves : AllowsStarts Moves where
  ends := fun s e he => by
    have hr := allowsEnds_notChk s e he
    cases e with
    | reg => exact notRuns_of_notChk hr
    | core c x =>
      change x = _ at he
      rw [he]
      exact id
    | die d x =>
      change x = _ at he
      rw [he]
      exact id
    | nvm n =>
      obtain ⟨hn, hw⟩ := he
      have h1 := congrArg Nvm.uhist hn
      have h2 := congrArg Nvm.tsum hn
      exact ⟨h1, h2, hw⟩
    | cell | lost => exact he.elim
    | _ => trivial
  count := fun s i o v h d hd hk => by
    have h1 : F.PAS_CACHE_CNT_HIT.off = 0x148 := rfl
    simp only [regKey] at hk
    omega
  items _ _ _ _ := id

theorem allowsReports_moves : AllowsReports Moves := allowsStarts_moves.ends.stores.slices.reports

/-! ## The pieces that leave the tiles' summaries -/

theorem moves_setF {f : Fld} {i : Nat} (h : NotRuns (regKey f.blk i f.off)) (v : Nat) (s : State) : Allowed Moves (setF f i v s) s :=
  (allowed_setF _ _ _ _).2 h

theorem moves_setFP (f : Fld) (hf : f.blk.code ≠ Blk.chk.code ∧ f.off < 65536) (p v : Nat) (s : State) : Allowed Moves (setFP f p v s) s := by
  simp only [setFP, onDies, allowed_withA]
  refine allowed_forA _ _ _ fun d hd s => moves_setF ?_ _ _
  exact notRuns_of_blk hf.1 (by have := (mem_partDies.1 hd).1; omega) hf.2

theorem notRuns_tile (t : TileId) : NotRuns (regKey .til (tileKey t) F.TIL_ARR_STS_STATE.off) := notRuns_of_blk (by decide) (by have := tileKey_lt t; omega) (by decide)

theorem moves_arrState (t : TileId) (v : Nat) (s : State) : Allowed Moves (setF F.TIL_ARR_STS_STATE (tileKey t) v s) s :=
  moves_setF (f := F.TIL_ARR_STS_STATE) (i := tileKey t) (notRuns_tile t) v s

theorem moves_freeTile (t : TileId) (st : Nat) (s : State) : Allowed Moves (freeTile t st s) s := by
  simp only [freeTile, allowed_seqA_cons, allowed_whenA, allowed_modCore, allowed_setF, allowed_seqA_nil, and_true]
  exact ⟨fun _ => rfl, fun _ => notRuns_tile t⟩

theorem moves_holdP (i reason : Nat) (s : State) : Allowed Moves (holdP i reason s) s :=
  allowed_changeEntry allowsStarts_moves.ends i _ (fun _ _ => trivial) s

theorem moves_settleHold (i : Nat) (s : State) : Allowed Moves (settleHold i s) s := by
  simp only [settleHold]
  split
  · split
    · split
      · exact .nil _
      · exact allowed_changeEntry allowsStarts_moves.ends i _ (fun _ _ => trivial) s
    · exact allowed_changeEntry allowsStarts_moves.ends i _ (fun _ _ => trivial) s
  · exact .nil _

theorem moves_touchItem (d i stage rep : Nat) (f : SbItem → SbItem) (s : State) : Allowed Moves (touchItem d i stage rep f s) s := by
  simp only [touchItem, allowed_modDie]
  exact id

theorem moves_gateItem (d p e r i q : Nat) (s : State) : Allowed Moves (gateItem d p e r i q s) s := by
  simp only [gateItem]
  split
  · exact moves_touchItem ..
  · exact moves_touchItem ..
  · split
    · exact moves_touchItem ..
    · exact .nil _

theorem moves_sendSegs (d i target rep first : Nat) (gate : Option Nat) (segs : List (List Byte)) (s : State) :
    Allowed Moves (sendSegs d i target rep first gate segs s) s :=
  allowed_forA _ _ s fun _ _ s => (allowed_emit s _).2 trivial

theorem moves_dispatchSel (d stage rep : Nat) (x : Sel) (s : State) : Allowed Moves (dispatchSel d stage rep x s) s := by
  simp only [dispatchSel]
  split
  · exact .nil _
  · split
    · simp only [allowed_seqA_cons, modExp, allowed_modDie, allowed_seqA_nil, and_true]
      exact ⟨id, moves_gateItem .., moves_sendSegs ..⟩
    · split
      · simp only [allowed_seqA_cons, modExp, allowed_modDie, allowed_emit, allowed_seqA_nil, and_true]
        exact ⟨id, moves_gateItem .., trivial, moves_sendSegs ..⟩
      · simp only [allowed_seqA_cons, allowed_modDie, allowed_seqA_nil, and_true]
        exact ⟨id, moves_holdP ..⟩

theorem moves_resumeHeld (p : Nat) (s : State) : Allowed Moves (resumeHeld p s) s := by
  simp only [resumeHeld, allowed_seqA_cons, allowed_seqA_nil, and_true]
  refine ⟨allowed_forA _ _ _ fun d _ s => ?_, allowed_forA _ _ _ fun i _ s => moves_settleHold i s⟩
  simp only [allowed_seqA_cons, allowed_modDie, allowed_withA, allowed_seqA_nil, and_true]
  refine ⟨id, allowed_forA _ _ _ fun r _ s => ?_⟩
  simp only [allowed_seqA_cons, allowed_modDie, allowed_seqA_nil, and_true]
  refine ⟨id, allowed_forA _ _ _ fun w _ s => ?_⟩
  simp only [allowed_seqA_cons, releaseHeld, allowed_modDie, allowed_seqA_nil, and_true]
  refine ⟨moves_dispatchSel .., fun h => ?_⟩
  split <;> exact h

theorem moves_clearTree (tree part : Nat) (s : State) : Allowed Moves (clearTree tree part s) s :=
  allowed_forA _ _ s fun _ _ s => (allowed_eff _ s).2 trivial

theorem moves_doSwitch (x : Switch) (s : State) : Allowed Moves (doSwitch x s) s := by
  simp only [doSwitch, allowed_seqA_cons, allowed_seqA_nil, and_true]
  refine ⟨allowed_forA _ _ _ fun l _ s => allowed_putBytes s _ _ fun _ _ _ _ _ => trivial, allowed_forA _ _ _ fun o _ s => ?_⟩
  simp only [retireTree]
  split
  · exact moves_clearTree ..
  · simp only [allowed_seqA_cons, allowed_eff, allowed_emit, allowed_seqA_nil, and_true]
    exact ⟨trivial, trivial⟩

theorem moves_switchIdle (p : Nat) (s : State) : Allowed Moves (switchIdle p s) s := by
  simp only [switchIdle, runSwitches]
  split
  · exact .nil _
  · simp only [allowed_seqA_cons, allowed_modJob, allowed_seqA_nil, and_true]
    exact ⟨trivial, allowed_forA _ _ _ fun x _ s => moves_doSwitch x s⟩

theorem moves_queueSwitch (p : Nat) (x : Switch) (s : State) : Allowed Moves (queueSwitch p x s) s := by
  simp only [queueSwitch]
  split
  · exact .nil _
  · simp only [allowed_seqA_cons, allowed_modJob, allowed_seqA_nil, and_true]
    exact ⟨trivial, moves_switchIdle p _⟩

theorem moves_retree (p : Nat) (s : State) : Allowed Moves (retree p s) s := by
  simp only [retree, allowed_seqA_cons, allowed_modJob, allowed_withA, allowed_seqA_nil, and_true]
  exact ⟨trivial, allowed_forA _ _ _ fun g _ s => allowed_forA _ _ _ fun o _ s => moves_clearTree _ _ s,
    allowed_forA _ _ _ fun e _ s => (allowed_eff _ s).2 trivial, allowed_forA _ _ _ fun k _ s => moves_queueSwitch _ _ s, moves_switchIdle p _⟩

theorem moves_dropReplica (p stage rep : Nat) (s : State) : Allowed Moves (dropReplica p stage rep s) s := by
  simp only [dropReplica, allowed_seqA_cons, allowed_modJob, onDies, allowed_withA, allowed_seqA_nil, and_true]
  exact ⟨trivial, allowed_forA _ _ _ fun d _ s => (allowed_modDie s _ _).2 id,
    allowed_forA _ _ _ fun r _ s => allowed_forA _ _ _ fun t _ s => (allowed_modCore s _ _).2 id⟩

theorem moves_giveHeld (b : Rebind) (s : State) : Allowed Moves (giveHeld b s) s := by
  simp only [giveHeld, allowed_seqA_cons, allowed_modCore, allowed_seqA_nil, and_true]
  exact ⟨id, id⟩

theorem moves_moveWork (p : Nat) (r : Replica) (s : State) : Allowed Moves (moveWork p r s) s := by
  simp only [moveWork, allowed_seqA_cons, allowed_modDie, allowed_seqA_nil, and_true]
  refine ⟨id, ?_⟩
  generalize (s.freeRep p r.stage (some r.rep)).or _ = o
  cases o with
  | none => exact allowed_forA _ _ _ fun x _ s => (allowed_emit s _).2 trivial
  | some q =>
    simp only [allowed_seqA_cons, allowed_modDie, allowed_seqA_nil, and_true]
    refine ⟨fun h => ?_, allowed_forA _ _ _ fun x _ s => ?_⟩
    · split <;> exact h
    · simp only [allowed_seqA_cons, allowed_modCore, allowed_seqA_nil, and_true]
      exact ⟨moves_giveHeld .., id⟩

theorem moves_bil (d : TileId) (o : Nat) (ho : o < 65536) : NotRuns (regKey .bil d.d.val o) :=
  notRuns_of_blk (by decide) (by have := d.d.isLt; omega) ho

theorem moves_rebindEnd (p : Nat) (l : List (TileId × Option TileId × Nat)) (s : State) : Allowed Moves (rebindEnd p l s) s := by
  simp only [rebindEnd, allowed_seqA_cons, allowed_modJob, allowed_forOpt, allowed_bump, allowed_withA, allowed_seqA_nil, and_true]
  refine ⟨trivial, fun y _ => moves_bil _ _ (by decide), allowed_forA _ _ _ fun y _ s => ?_, moves_setFP _ (by decide) _ _ _, ?_, ?_, ?_⟩
  · simp only [allowed_seqA_cons, allowed_setF, allowed_seqA_nil, and_true]
    exact ⟨moves_bil _ _ (by decide), moves_bil _ _ (by decide), moves_bil _ _ (by decide)⟩
  · refine allowed_writeReport allowsStarts_moves.ends.stores (fun d hd f hf s v => ?_) _ _
    simp only [List.mem_cons, List.not_mem_nil, or_false] at hf
    obtain rfl | rfl | rfl | rfl := hf <;> exact notRuns_of_blk (by decide) (by omega) (by decide)
  · exact allowsStarts_moves.ends.drops.writeRetain p _
  · exact allowed_forA _ _ _ fun y _ s => allowed_logEv allowsReports_moves ..

theorem moves_bindTile (p : Nat) (r : Replica) (t : TileId) (arr : Nat) (s : State) : Allowed Moves (bindTile p r t arr s) s := by
  have hb : ∀ (a : Nat) (bs : List Byte) (s : State), Allowed Moves (putBytes a bs s) s := fun a bs s => allowed_putBytes s a bs fun _ _ _ _ _ => trivial
  have hf : ∀ o < 65536, NotRuns (regKey .til (tileKey t) o) := fun o ho => notRuns_of_blk (by decide) (by have := tileKey_lt t; omega) ho
  simp only [bindTile]
  split
  · exact .nil _
  · simp only [allowed_seqA_cons, allowed_setF, allowed_modCore, allowed_seqA_nil, and_true]
    exact ⟨hb .., hb .., hf _ (by decide), hf _ (by decide), hf _ (by decide), fun _ => rfl⟩

theorem moves_queueProg (q : ProgReq) (s : State) : Allowed Moves (queueProg q s) s := (allowed_modDie s _ _).2 id

theorem moves_setWave (p v st : Nat) (s : State) : Allowed Moves (setWave p v st s) s := by
  simp only [setWave, waveRegs, allowed_seqA_cons, allowed_modJob, allowed_seqA_nil, and_true]
  refine ⟨trivial, ?_⟩
  split
  · exact .nil _
  · simp only [allowed_seqA_cons, allowed_setF, allowed_seqA_nil, and_true]
    exact ⟨notRuns_of_code (by decide) _ _, notRuns_of_code (by decide) _ _, notRuns_of_code (by decide) _ _⟩

theorem moves_mendCopy (p : Nat) (t : TileId) (s : State) : Allowed Moves (mendCopy p t s) s := by
  simp only [mendCopy]
  split
  · exact .nil _
  · split
    · simp only [allowed_seqA_cons, allowed_modJob, allowed_seqA_nil, and_true]
      exact ⟨trivial, moves_setWave .., moves_freeTile .., moves_bindTile .., moves_giveHeld .., moves_queueProg .., moves_retree ..⟩
    · exact moves_setWave ..

theorem moves_chkLast {d : Nat} (hd : d < 32) (r : HistRec) (s : State) : Allowed Moves (chkLast d r s) s := by
  simp only [chkLast, allowed_seqA_cons, allowed_setF, allowed_seqA_nil, and_true]
  exact ⟨notRuns_chk hd (by decide) (by decide), notRuns_chk hd (by decide) (by decide), notRuns_chk hd (by decide) (by decide),
    notRuns_chk hd (by decide) (by decide)⟩

theorem moves_chkReport {d : Nat} (hd : d < 32) (r : HistRec) (s : State) : Allowed Moves (chkReport d r s) s := by
  simp only [chkReport, allowed_seqA_cons, allowed_seqA_nil, and_true]
  refine ⟨moves_chkLast hd r s, ?_⟩
  split
  · exact (allowed_emit _ _).2 trivial
  · split
    · exact (allowed_modDie _ _ _).2 id
    · simp only [allowed_seqA_cons, allowed_modDie, allowed_bump, allowed_seqA_nil, and_true]
      exact ⟨id, notRuns_chk hd (by decide) (by decide)⟩

/-! ## The chain of an array that leaves its tile -/

/-- What follows a tile's retirement in its summary. -/
def leaveRetired (t : TileId) : Act := fun s =>
  let spare := (List.range 16).findSome? fun p => ((s.job p).rebinds.find? fun b => b.spare == t && b.old != t).map fun b => (p, b)
  seqA [whenA (fun s => (s.replicaAt t).isNone || spare.isSome) (setF F.TIL_ARR_STS_STATE (tileKey t) 4),
    match spare with
    | some (p, b) => seqA [dropTile t, freeTile t 4,
        modJob p fun j => { j with notes := j.notes ++ [⟨0x105, 0xFFFF, packTile t⟩] },
        chooseSpare p { b with failed := b.failed + 1 }]
    | none => seqA [startRebind t 4, leaveCopy t 4]] s
/-- The relation R composes, holds over every such effect, over a rewrite that is counted, and over a tile that loses its tag. -/
structure OverMoves (R : State → State → Prop) : Prop where
  composes : Composes R
  moves : ∀ s e, s.canon = true → Moves s e → R s (e.ap s)
  count : ∀ t, Keeps R (countRewrite t)
  untag : ∀ t, Keeps R (modTsum t fun m => { m with valid := false })

section
variable {R : State → State → Prop} (h : OverMoves R)
include h

theorem OverMoves.of_allowed {a : Act} (ha : ∀ s, Allowed Moves (a s) s) : Keeps R a := fun s hc => Allowed.rel h.composes h.moves hc (ha s)

theorem OverMoves.dropTile (t : TileId) : Keeps R (dropTile t) :=
  keeps_seqA_cons h.composes (keeps_whenA h.composes _ (h.count t))
    (keeps_seqA_cons h.composes (h.of_allowed fun s => (allowed_modDie s _ _).2 id) (keeps_seqA_nil h.composes))

theorem OverMoves.freeReplica (p : Nat) (r : Replica) : Keeps R (freeReplica p r) :=
  fun s hc => (keeps_forA h.composes _ _ fun t _ => keeps_seqA_cons h.composes (h.dropTile t)
    (keeps_seqA_cons h.composes (h.of_allowed (moves_freeTile t 0)) (keeps_seqA_nil h.composes)) : Keeps R (forA _ _)) s hc

theorem OverMoves.toTier (p : Nat) (r : Replica) : Keeps R (toTier p r) := fun s hc => by
  simp only [after, Machine.toTier]
  split
  · exact h.composes.refl s
  · refine (keeps_seqA_cons h.composes (h.freeReplica p r) (h.of_allowed fun s => ?_) : Keeps R (seqA _)) s hc
    simp only [allowed_seqA_cons, allowed_modJob, allowed_seqA_nil, and_true]
    exact ⟨trivial, moves_setFP _ (by decide) _ _ _, moves_retree .., allowed_forA _ _ _ fun x _ s => (allowed_emit s _).2 trivial⟩

theorem OverMoves.noSpare (p : Nat) (r : Replica) (t : TileId) : Keeps R (noSpare p r t) := fun s hc => by
  have hend : ∀ l, Keeps R (seqA [rebindEnd p l, resumeHeld p]) := fun l => h.of_allowed fun s => by
    simp only [allowed_seqA_cons, allowed_seqA_nil, and_true]
    exact ⟨moves_rebindEnd .., moves_resumeHeld ..⟩
  simp only [after, Machine.noSpare]
  split
  · exact (keeps_seqA_cons h.composes (h.of_allowed (moves_moveWork p r)) (keeps_seqA_cons h.composes (h.freeReplica p r)
      (keeps_seqA_cons h.composes (h.of_allowed (moves_dropReplica p r.stage r.rep)) (keeps_seqA_cons h.composes (h.of_allowed (moves_retree p)) (hend _)))) :
      Keeps R (seqA _)) s hc
  · exact (keeps_seqA_cons h.composes (h.toTier p r) (hend _) : Keeps R (seqA _)) s hc

theorem OverMoves.chooseSpare (p : Nat) (b : Rebind) : Keeps R (chooseSpare p b) := fun s hc => by
  simp only [after, Machine.chooseSpare]
  split
  · exact h.composes.refl s
  · split
    · exact h.noSpare _ _ _ s hc
    · refine (h.of_allowed fun s => ?_ : Keeps R (seqA _)) s hc
      simp only [modRep, allowed_seqA_cons, allowed_modJob, allowed_seqA_nil, and_true]
      exact ⟨trivial, trivial, moves_bindTile .., moves_queueProg ..⟩

theorem OverMoves.moveArray (p : Nat) (b : Rebind) (st : Nat) : Keeps R (moveArray p b st) := fun s hc => by
  have hleave : ∀ r, Keeps R (leaveTile p r b.old st) := fun r => keeps_read (fun s => seqA [modRep p r.stage r.rep _, Machine.dropTile b.old, Machine.freeTile b.old st,
      modCore (.tile b.old) fun k => { (s.core (.tile b.old)).keepIns k with hard := (s.core (.tile b.old)).hard }, _]) fun s =>
    keeps_seqA_cons h.composes (h.of_allowed fun s => (allowed_modJob s _ _).2 trivial) (keeps_seqA_cons h.composes (h.dropTile _)
      (keeps_seqA_cons h.composes (h.of_allowed (moves_freeTile _ _)) (keeps_seqA_cons h.composes (h.of_allowed fun s => (allowed_modCore s _ _).2 id)
        (keeps_seqA_cons h.composes (h.untag _) (keeps_seqA_nil h.composes)))))
  simp only [after, Machine.moveArray]
  split
  · exact h.composes.refl s
  · refine (keeps_seqA_cons h.composes (hleave _) (keeps_seqA_cons h.composes (h.of_allowed (moves_arrState _ _))
      (keeps_seqA_cons h.composes (h.of_allowed fun s => ?_) (keeps_seqA_cons h.composes (h.chooseSpare p _)
        (keeps_seqA_nil h.composes)))) : Keeps R (seqA _)) s hc
    exact (allowed_modJob s _ _).2 trivial

theorem OverMoves.startRebind (t : TileId) (st : Nat) : Keeps R (startRebind t st) := fun s hc => by
  simp only [after, Machine.startRebind]
  split
  · exact h.composes.refl s
  · next p r arr _ =>
    split
    · exact h.of_allowed (a := modJob p _) (fun s => (allowed_modJob s _ _).2 trivial) s hc
    · refine (keeps_seqA_cons h.composes (h.of_allowed (moves_setFP _ (by decide) _ _)) (keeps_seqA_cons h.composes (h.of_allowed fun s => ?_)
        (keeps_seqA_cons h.composes (h.of_allowed fun s => ?_) (keeps_seqA_cons h.composes (keeps_whenA h.composes _ (h.moveArray _ _ _))
          (keeps_seqA_nil h.composes)))) : Keeps R (seqA _)) s hc
      · exact (allowed_modJob s _ _).2 trivial
      · exact (allowed_modJob s _ _).2 trivial

theorem OverMoves.moveDue (d : Nat) : Keeps R (moveDue d) :=
  keeps_forA h.composes _ _ fun p _ s hc => (keeps_forA h.composes _ _ fun b _ => keeps_forOpt h.composes _ _ fun st =>
    keeps_whenA h.composes _ (h.moveArray p b st) : Keeps R (forA _ _)) s hc

theorem OverMoves.leaveCopy (t : TileId) (st : Nat) : Keeps R (leaveCopy t st) := fun s hc => by
  simp only [after, Machine.leaveCopy]
  split
  · exact h.composes.refl s
  · refine (keeps_seqA_cons h.composes (h.dropTile t) (h.of_allowed fun s => ?_) : Keeps R (seqA _)) s hc
    simp only [allowed_seqA_cons, allowed_modCore, allowed_setF, allowed_seqA_nil, and_true]
    exact ⟨fun _ => rfl, notRuns_tile t, moves_mendCopy ..⟩

/-- What follows of a tile's retirement once its summary shows it. -/
theorem OverMoves.leaveRetired (t : TileId) : Keeps R (leaveRetired t) := fun s hc => by
  refine (keeps_seqA_cons h.composes (keeps_whenA h.composes _ (h.of_allowed (moves_arrState t 4))) (keeps_seqA_cons h.composes ?_
    (keeps_seqA_nil h.composes)) : Keeps R (seqA _)) s hc
  split
  · next p b _ =>
    exact keeps_seqA_cons h.composes (h.dropTile t) (keeps_seqA_cons h.composes (h.of_allowed (moves_freeTile t 4)) (keeps_seqA_cons h.composes
      (h.of_allowed fun s => (allowed_modJob s _ _).2 trivial) (keeps_seqA_cons h.composes (h.chooseSpare p _) (keeps_seqA_nil h.composes))))
  · exact keeps_seqA_cons h.composes (h.startRebind t 4) (keeps_seqA_cons h.composes (h.leaveCopy t 4) (keeps_seqA_nil h.composes))

end

end Sys2Proof.Machine
end

section
/-!
SUPPORT. The Keeper's record of an event against a unit, and the retirement it leads to (R327, R329).
-/
namespace Sys2Proof.Machine

/-! ## Retirements under a relation -/

/-- R0 holds over all that follows a retirement but its records in the unit history; R1 over one such record beside. -/
structure OverRecord (R0 R1 : State → State → Prop) : Prop where
  moves : OverMoves R0
  pre : ∀ a b c, R0 a b → R1 b c → R1 a c
  post : ∀ a b c, R1 a b → R0 b c → R1 a c
  weaken : ∀ a b, R0 a b → R1 a b
  tsum : ∀ t f, (∀ m, (f m).rewrites = m.rewrites) → Keeps R0 (modTsum t f)
  ring : ∀ r, Keeps R1 (histRing r)

/-- A retirement shows in the tile's summary before anything follows. -/
theorem after_retireTile (t : TileId) (cause : Nat) (s : State) : after (retireTile t cause) s =
    after (leaveRetired t) (after (modTsum t fun m => { m with retired := true, valid := false, retCause := cause }) s) := by
  change after (seqA [_, _, _]) s = _
  rw [after_seqA_cons]
  rfl

section
variable {R0 R1 : State → State → Prop} (h : OverRecord R0 R1)
include h

theorem OverRecord.idle : Keeps R1 (fun _ => []) := fun s _ => h.weaken _ _ (h.moves.composes.refl s)

theorem OverRecord.cons {a : Act} {r : List Act} (ha : Keeps R0 a) (hr : Keeps R1 (seqA r)) : Keeps R1 (seqA (a :: r)) := fun s hc => by
  rw [after_seqA_cons]
  exact h.pre _ _ _ (ha s hc) (hr _ (after_canon _ s hc))

theorem OverRecord.last {a : Act} {r : List Act} (ha : Keeps R1 a) (hr : Keeps R0 (seqA r)) : Keeps R1 (seqA (a :: r)) := fun s hc => by
  rw [after_seqA_cons]
  exact h.post _ _ _ (ha s hc) (hr _ (after_canon _ s hc))

theorem OverRecord.single {a : Act} (ha : Keeps R1 a) : Keeps R1 (seqA [a]) := h.last ha (keeps_seqA_nil h.moves.composes)

theorem OverRecord.whenA (c : State → Bool) {a : Act} (ha : Keeps R1 a) : Keeps R1 (whenA c a) := fun s hc => by
  rw [after_whenA]
  split
  · exact ha s hc
  · exact h.idle s hc

theorem OverRecord.retireTile (t : TileId) (cause : Nat) : Keeps R0 (retireTile t cause) := fun s hc => by
  rw [after_retireTile]
  exact h.moves.composes.trans _ _ _ (h.tsum t (fun m => { m with retired := true, valid := false, retCause := cause }) (fun _ => rfl) s hc) (h.moves.leaveRetired t _ (after_canon _ s hc))

theorem OverRecord.retireNow (t : TileId) (cause : Nat) : Keeps R1 (retireNow t cause) := fun s hc => by
  simp only [after, Machine.retireNow]
  split
  · exact h.idle s hc
  · exact (h.cons (h.retireTile t cause) (h.single (h.ring _)) : Keeps R1 (seqA _)) s hc

theorem OverRecord.keeperRetire (t : TileId) (cause : Nat) : Keeps R1 (keeperRetire t cause) := fun s hc => by
  simp only [after, Machine.keeperRetire]
  split
  · split
    · exact h.idle s hc
    · exact h.weaken _ _ (h.moves.of_allowed (a := modKeeper _) (fun s => (allowed_modKeeper s _).2 trivial) s hc)
  · exact h.retireNow t cause s hc

theorem OverRecord.retireDue (t : TileId) : Keeps R1 (retireDue t) := fun s hc => by
  simp only [after, Machine.retireDue]
  split
  · exact h.idle s hc
  · cases s.keeper.retWait.find? fun x => x.1 == t with
    | none => exact h.idle s hc
    | some x =>
      refine (h.cons (h.moves.of_allowed fun s => ?_) (h.single (h.retireNow t x.2)) : Keeps R1 (seqA _)) s hc
      exact (allowed_modKeeper s _).2 trivial

theorem OverRecord.tierFault (d : Nat) : Keeps R1 (tierFault d) := fun s hc => by
  have hd : ∀ (e : Nat) (f : Die → Die), (∀ x, (f x).softUp = x.softUp) → Keeps R0 (modDie e f) := fun e f hf =>
    h.moves.of_allowed fun s => (allowed_modDie s e f).2 fun hs => (hf _).trans hs
  have hmove : ∀ e p, Keeps R0 (seqA [
        fun s => modDie e (fun x => { x with spillQ := x.spillQ ++ (s.die d).spillQ }) s,
        modDie d fun x => { x with spillQ := [] },
        withA (fun s => s.part d) fun p => Machine.whenA (fun _ => decide (p < 16)) (modJob p fun j => { j with
          tier := j.tier.map fun y => if y.2 = d then (y.1, e) else y }),
        forA (List.finRange 16) fun k => freeCtx (.ctx (fin32 d) k), modDie d fun x => { x with tierNow := none },
        emit (.ctl "TIER_MOVED" e p d 0)]) := fun e p => by
    refine keeps_seqA_cons h.moves.composes (fun s hc => hd e (fun x => { x with spillQ := x.spillQ ++ (s.die d).spillQ }) (fun _ => rfl) s hc)
      (keeps_seqA_cons h.moves.composes (hd _ _ fun _ => rfl) (keeps_seqA_cons h.moves.composes (keeps_withA _ _ fun p => keeps_whenA h.moves.composes _
        (h.moves.of_allowed fun s => (allowed_modJob s _ _).2 trivial)) (keeps_seqA_cons h.moves.composes (keeps_forA h.moves.composes _ _ fun k _ => ?_)
          (keeps_seqA_cons h.moves.composes (hd _ _ fun _ => rfl) (keeps_seqA_cons h.moves.composes
            (h.moves.of_allowed fun s => (allowed_emit s _).2 trivial) (keeps_seqA_nil h.moves.composes))))))
    exact keeps_seqA_cons h.moves.composes (h.moves.of_allowed fun s => (allowed_modCore s _ _).2 fun _ => rfl)
      (keeps_seqA_cons h.moves.composes (hd _ _ fun _ => rfl) (keeps_seqA_nil h.moves.composes))
  simp only [after, Machine.tierFault]
  split
  · exact h.idle s hc
  · exact (h.cons (hd d (fun x => { x with tierFaulty := true }) fun _ => rfl) (h.last (h.ring _) (keeps_seqA_cons h.moves.composes (keeps_withA _ _ fun e =>
      keeps_forOpt h.moves.composes _ _ fun e => hmove e (s.part d)) (keeps_seqA_nil h.moves.composes))) : Keeps R1 (seqA _)) s hc

/-- What an event that counts leads to: one retirement, or one mark of a unit. -/
theorem OverRecord.countEvent (r : HistRec) : Keeps R1 (countEvent r) := fun s hc => by
  have hret : ∀ t (f : TileSum → TileSum) (c : State → Bool) n, (∀ m, (f m).rewrites = m.rewrites) → Keeps R1 (seqA [modTsum t f, Machine.whenA c (Machine.keeperRetire t n)]) :=
    fun t f c n hf => h.cons (h.tsum t f hf) (h.single (h.whenA c (h.keeperRetire t n)))
  simp only [after, Machine.countEvent]
  split
  · next k t _ =>
    split
    · exact hret t (fun m => { m with arrT := last3 m.arrT s.nvm.pos }) _ _ (fun _ => rfl) s hc
    · split
      · exact hret t (fun m => { m with chkT := last3 m.chkT s.nvm.pos }) _ _ (fun _ => rfl) s hc
      · split
        · exact hret t (fun m => { m with digT := last3 m.digT s.nvm.pos }) _ _ (fun _ => rfl) s hc
        · split
          · exact h.keeperRetire _ _ s hc
          · exact h.idle s hc
  · split
    · exact h.idle s hc
    · split
      · exact h.tierFault _ s hc
      · split
        · exact h.ring _ s hc
        · exact h.idle s hc

end

end Sys2Proof.Machine
end

section
/-!
SUPPORT. What a retirement leaves: cells, counts of test runs, soft counts, and the records of the unit history (R327, R330).
-/
namespace Sys2Proof.Machine

theorem keeps_countRewrite {R : State → State → Prop} (hR : Composes R) (t : TileId) (hm : ∀ n, Keeps R (modTsum t fun m => { m with rewrites := n }))
    (hr : ∀ r, Keeps R (histRing r)) : Keeps R (countRewrite t) := fun s hc =>
  (keeps_seqA_cons hR (hm ((s.tsum t).rewrites + 1)) (keeps_seqA_cons hR (keeps_whenA hR _ (hr _)) (keeps_seqA_nil hR)) : Keeps R (seqA _)) s hc

/-! ## What stays as it was -/

/-- From s to t no cell and no count of a failed test run has changed, no test run or soft count is new, and what is worn stays so. -/
structure Settled (s t : State) : Prop where
  cells : t.cells = s.cells
  worn : s.nvm.worn = true → t.nvm.worn = true
  soft : ∀ d, (s.die d).softUp = [] → (t.die d).softUp = []
  fails : ∀ d < 32, t.fld F.CHK_TP_FAILS d = s.fld F.CHK_TP_FAILS d
  test : ∀ c, (s.core c).testRet = none → (t.core c).testRet = none

theorem composes_settled : Composes Settled where
  refl _ := ⟨rfl, id, fun _ => id, fun _ _ => rfl, fun _ => id⟩
  trans _ _ _ h1 h2 := ⟨h2.cells.trans h1.cells, fun h => h2.worn (h1.worn h), fun d h => h2.soft d (h1.soft d h),
    fun d hd => (h2.fails d hd).trans (h1.fails d hd), fun c h => h2.test c (h1.test c h)⟩

/-- The effects that settle so: those of work that leaves its tile, and any other change of non-volatile memory that leaves worn what is worn. -/
def Settles (s : State) (e : Eff) : Prop :=
  match e with
  | .nvm n => s.nvm.worn = true → n.worn = true
  | e => Moves s e

theorem settles_of_moves {s : State} {e : Eff} (h : Moves s e) : Settles s e := by
  cases e with
  | nvm => exact h.2.2
  | _ => exact h

theorem settled_ap {s : State} {e : Eff} (hc : s.canon = true) (h : Settles s e) : Settled s (e.ap s) := by
  have h0 := composes_settled.refl s
  cases e with
  | reg b i o v =>
    refine { h0 with fails := fun d hd => ?_ }
    rw [State.fld, reg_ap_reg s hc, if_neg fun hk => h d hd hk.symm]
    rfl
  | core c x =>
    refine { h0 with test := fun c' hc' => ?_ }
    rw [core_ap_core s hc]
    split
    · next he => exact h (he ▸ hc')
    · exact hc'
  | die d x =>
    refine { h0 with soft := fun d' hd' => ?_ }
    rw [die_ap_die s hc]
    split
    · next he => exact h (he ▸ hd')
    · exact hd'
  | nvm n => exact { h0 with worn := h }
  | cell | lost => exact h.elim
  | _ => exact ⟨rfl, id, fun _ => id, fun _ _ => rfl, fun _ => id⟩

theorem keeps_settled {a : Act} (ha : ∀ s, Allowed Settles (a s) s) : Keeps Settled a := fun s hc =>
  Allowed.rel composes_settled (fun _ _ => settled_ap) hc (ha s)

theorem settles_histRing (r : HistRec) (s : State) : Allowed Settles (histRing r s) s := (allowed_histRing r s).mono fun s e he => by
  cases e with
  | nvm n => exact he.2
  | _ => exact settles_of_moves (allowsReports_moves s _ he)

theorem settled_modTsum (t : TileId) (f : TileSum → TileSum) : Keeps Settled (modTsum t f) :=
  keeps_settled fun s => (allowed_modTsum s t f).2 id

theorem settled_ring (r : HistRec) : Keeps Settled (histRing r) := keeps_settled (settles_histRing r)

theorem overRecord_settled : OverRecord Settled Settled where
  moves :=
    { composes := composes_settled
      moves := fun _ _ hc h => settled_ap hc (settles_of_moves h)
      count := fun t => keeps_countRewrite composes_settled t (fun _ => settled_modTsum t _) settled_ring
      untag := fun t => settled_modTsum t _ }
  pre := composes_settled.trans
  post := composes_settled.trans
  weaken _ _ := id
  tsum t f _ := settled_modTsum t f
  ring := settled_ring

theorem settled_keeperRecord (r : HistRec) : Keeps Settled (keeperRecord r) :=
  keeps_seqA_cons composes_settled (settled_ring r) (keeps_seqA_cons composes_settled (overRecord_settled.countEvent r) (keeps_seqA_nil composes_settled))

/-! ## The summaries of tiles -/

/-- Keys above one whose entries go read as before. -/
theorem SMap.get_filter_ne {β : Type} (dflt : Nat → β) {k k' : Nat} (hk : k < k') : ∀ m : SMap β,
    SMap.get dflt (m.filter fun x => x.1 != k) k' = SMap.get dflt m k'
  | [] => rfl
  | (j, w) :: r => by
    have ih := SMap.get_filter_ne dflt hk r
    by_cases hj : j = k
    · rw [List.filter_cons_of_neg (by simp [hj]), ih, hj]
      simp only [SMap.get, if_neg (show ¬ k' = k by omega), if_neg (show ¬ k' < k by omega)]
    · rw [List.filter_cons_of_pos (by simp [hj])]
      simp only [SMap.get, ih]

/-- A key that is not written reads as before, or read as its default: in a map that is in no canonical form, an entry that goes may show
one behind it. -/
theorem SMap.get_set_or {β : Type} [DecidableEq β] (dflt : Nat → β) {k k' : Nat} (hk : k' ≠ k) (v : β) : ∀ m : SMap β,
    SMap.get dflt (SMap.set dflt m k v) k' = SMap.get dflt m k' ∨ SMap.get dflt m k' = dflt k'
  | [] => .inr rfl
  | (j, w) :: r => by
    have ih := SMap.get_set_or dflt hk v r
    simp only [SMap.set]
    split
    · next hj =>
      subst hj
      split
      · by_cases hlt : k' < k
        · exact .inr (by simp [SMap.get, hk, hlt])
        · left
          rw [SMap.get_filter_ne dflt (by omega)]
          simp [SMap.get, hk, hlt]
      · left
        simp [SMap.get, hk]
    · split
      · next hlt =>
        split
        · exact .inl rfl
        · by_cases h' : k' < k
          · exact .inr (by simp [SMap.get, show k' ≠ j by omega, show k' < j by omega])
          · exact .inl (by simp [SMap.get, hk, h'])
      · simp only [SMap.get]
        split
        · exact .inl rfl
        · split
          · exact .inl rfl
          · exact ih

theorem tsum_modTsum_same (t : TileId) (f : TileSum → TileSum) (s : State) : (after (modTsum t f) s).tsum t = f (s.tsum t) :=
  SMap.get_set_self _ _ _ _

theorem tsum_modTsum_other {t y : TileId} (h : y ≠ t) (f : TileSum → TileSum) (s : State) :
    (after (modTsum t f) s).tsum y = s.tsum y ∨ s.tsum y = TileSum.zero :=
  SMap.get_set_or _ (fun hk => h (tileKey_inj hk)) _ _

/-- The tile x is retired under a cause, and stays so. -/
def RetiredFor (x : TileId) (cause : Nat) (s t : State) : Prop :=
  (s.tsum x).retired = true ∧ (s.tsum x).retCause = cause → (t.tsum x).retired = true ∧ (t.tsum x).retCause = cause

theorem composes_retiredFor (x : TileId) (cause : Nat) : Composes (RetiredFor x cause) where
  refl _ := id
  trans _ _ _ h1 h2 := fun h => h2 (h1 h)

theorem retiredFor_modTsum (x : TileId) (cause : Nat) (t : TileId) (f : TileSum → TileSum)
    (hf : ∀ m, (f m).retired = m.retired ∧ (f m).retCause = m.retCause) : Keeps (RetiredFor x cause) (modTsum t f) := fun s _ h => by
  by_cases hx : x = t
  · subst hx
    rw [tsum_modTsum_same, (hf _).1, (hf _).2]
    exact h
  · obtain h1 | h1 := tsum_modTsum_other hx f s
    · rw [h1]
      exact h
    · rw [h1] at h
      exact absurd h.1 (by decide)

/-- The effects that write no summary of a tile. -/
def TsumKept (s : State) (e : Eff) : Prop :=
  match e with
  | .nvm n => n.tsum = s.nvm.tsum
  | .lost _ => False
  | _ => True

theorem retiredFor_ap (x : TileId) (cause : Nat) {s : State} {e : Eff} (h : TsumKept s e) : RetiredFor x cause s (e.ap s) := by
  cases e with
  | nvm n =>
    have ht : (Eff.ap (.nvm n) s).tsum x = s.tsum x := by
      change SMap.get _ n.tsum _ = _
      rw [h]
      rfl
    rw [RetiredFor, ht]
    exact id
  | lost => exact h.elim
  | _ => exact id

theorem tsumKept_histRing (r : HistRec) (s : State) : Allowed TsumKept (histRing r s) s := by
  have hR : AllowsReports TsumKept := fun s e he => by
    cases e with
    | nvm n => have h := congrArg Nvm.tsum he.1; exact h
    | lost => exact he.elim
    | _ => trivial
  simp only [histRing, allowed_seqA_cons, allowed_seqA_nil, and_true]
  exact ⟨allowed_nvmWrite hR.events _ (fun s => (allowed_modNvm s _).2 (by exact rfl)) s, allowed_logEv hR ..⟩

theorem retiredFor_ring (x : TileId) (cause : Nat) (r : HistRec) : Keeps (RetiredFor x cause) (histRing r) := fun s hc =>
  Allowed.rel (composes_retiredFor x cause) (fun _ _ _ => retiredFor_ap x cause) hc (tsumKept_histRing r s)

theorem overMoves_retiredFor (x : TileId) (cause : Nat) : OverMoves (RetiredFor x cause) where
  composes := composes_retiredFor x cause
  moves s e _ h := retiredFor_ap x cause (by
    cases e with
    | nvm => exact h.2.1
    | lost => exact h.elim
    | _ => trivial)
  count t := keeps_countRewrite (composes_retiredFor x cause) t (fun _ => retiredFor_modTsum x cause t _ fun _ => ⟨rfl, rfl⟩) (retiredFor_ring x cause)
  untag t := retiredFor_modTsum x cause t _ fun _ => ⟨rfl, rfl⟩

/-- A tile that is retired now is retired under the cause, whatever follows. -/
theorem retireNow_retires {s : State} (hc : s.canon = true) {x : TileId} (h : (s.tsum x).retired = false) (cause : Nat) :
    ((after (retireNow x cause) s).tsum x).retired = true ∧ ((after (retireNow x cause) s).tsum x).retCause = cause := by
  obtain ⟨u, hu⟩ : ∃ u, u = after (modTsum x fun m => { m with retired := true, valid := false, retCause := cause }) s := ⟨_, rfl⟩
  have hcu : u.canon = true := hu ▸ after_canon _ s hc
  have h1 : (u.tsum x).retired = true ∧ (u.tsum x).retCause = cause := by
    rw [hu, tsum_modTsum_same]
    exact ⟨rfl, rfl⟩
  rw [after_congr (a := retireNow x cause) (b := seqA _) (by simp only [retireNow, h, Bool.false_eq_true, if_false]; rfl), after_seqA_cons, after_seqA_cons,
    after_seqA_end, after_retireTile, ← hu]
  exact retiredFor_ring x cause _ _ (after_canon _ _ hcu) ((overMoves_retiredFor x cause).leaveRetired x u hcu h1)

/-! ## Records of the unit history -/

/-- The tiles that may yet leave a WEAR record (irreducible: no one is to list the 135,168 tiles). -/
@[irreducible] def State.unworn (s : State) : Finset (Fin 32 × Fin 64 × Fin 66) :=
  {c | (s.tsum ⟨c.1, c.2.1, c.2.2⟩).rewrites < 90000}

theorem mem_unworn {s : State} {c : Fin 32 × Fin 64 × Fin 66} : c ∈ s.unworn ↔ (s.tsum ⟨c.1, c.2.1, c.2.2⟩).rewrites < 90000 := by
  unfold State.unworn
  exact Finset.mem_filter_univ c

theorem card_unworn_le (s : State) : s.unworn.card ≤ 135168 := (Finset.card_le_univ _).trans (by rw [Fintype.card_prod, Fintype.card_prod, Fintype.card_fin, Fintype.card_fin, Fintype.card_fin])

theorem unworn_subset {s t : State} (h : ∀ y, (s.tsum y).rewrites ≤ (t.tsum y).rewrites) : t.unworn ⊆ s.unworn := fun c hc => by
  rw [mem_unworn] at *
  exact (h _).trans_lt hc

/-- A change of a tile's summary that does not lower its count of rewrites lowers none. -/
theorem rewrites_modTsum {t : TileId} {f : TileSum → TileSum} {s : State} (hf : (s.tsum t).rewrites ≤ (f (s.tsum t)).rewrites) (y : TileId) :
    (s.tsum y).rewrites ≤ ((after (modTsum t f) s).tsum y).rewrites := by
  by_cases ht : y = t
  · subst ht
    rw [tsum_modTsum_same]
    exact hf
  · obtain h1 | h1 := tsum_modTsum_other ht f s
    · rw [h1]
    · rw [h1]
      exact Nat.zero_le _

/-- The record x stands in the unit history, so near its end that n records less those of tiles to be worn leave it there. -/
def Recorded (x : HistRec) (n : Nat) (s : State) : Prop :=
  ∃ pre post, s.nvm.uhist = pre ++ x :: post ∧ post.length + s.unworn.card ≤ n

/-- From s to t every record keeps its place but for k new ones. -/
def Places (k : Nat) (s t : State) : Prop := ∀ x n, n + k < 262144 → Recorded x n s → Recorded x (n + k) t

theorem places_of_kept {s t : State} (hh : t.nvm.uhist = s.nvm.uhist) (hw : t.unworn ⊆ s.unworn) : Places 0 s t := fun _ _ _ ⟨pre, post, h1, h2⟩ =>
  ⟨pre, post, hh.trans h1, (Nat.add_le_add_left (Finset.card_le_card hw) _).trans h2⟩

theorem composes_places : Composes (Places 0) where
  refl _ := places_of_kept rfl (Finset.Subset.refl _)
  trans _ _ _ h1 h2 := fun x n hn h => h2 x n hn (h1 x n hn h)

/-- The unit history with one more record: full, it loses its oldest. -/
def ringPut (l : List HistRec) (r : HistRec) : List HistRec := (if l.length ≥ 262144 then l.tail else l) ++ [r]

theorem ringPut_keeps {pre post : List HistRec} {x : HistRec} (h : post.length < 262143) (r : HistRec) :
    ∃ pre', ringPut (pre ++ x :: post) r = pre' ++ x :: (post ++ [r]) := by
  rw [ringPut]
  split
  · next hl =>
    cases pre with
    | nil =>
      simp only [List.nil_append, List.length_cons] at hl
      omega
    | cons y pre => exact ⟨pre, by simp⟩
  · exact ⟨pre, by simp⟩

/-- The effects that leave the unit history and the tiles' summaries. -/
def HistKept (s : State) (e : Eff) : Prop :=
  match e with
  | .nvm n => n.uhist = s.nvm.uhist ∧ n.tsum = s.nvm.tsum
  | .lost _ => False
  | _ => True

theorem histKept_ap {s : State} {e : Eff} (h : HistKept s e) : (e.ap s).nvm.uhist = s.nvm.uhist ∧ (e.ap s).nvm.tsum = s.nvm.tsum := by
  cases e with
  | nvm => exact h
  | lost => exact h.elim
  | _ => exact ⟨rfl, rfl⟩

theorem hist_after {a : Act} {s : State} (hc : s.canon = true) (h : Allowed HistKept (a s) s) :
    (after a s).nvm.uhist = s.nvm.uhist ∧ (after a s).nvm.tsum = s.nvm.tsum :=
  Allowed.rel (R := fun s t => t.nvm.uhist = s.nvm.uhist ∧ t.nvm.tsum = s.nvm.tsum)
    ⟨fun _ => ⟨rfl, rfl⟩, fun _ _ _ h1 h2 => ⟨h2.1.trans h1.1, h2.2.trans h1.2⟩⟩ (fun _ _ _ => histKept_ap) hc h

theorem allowsReports_histKept : AllowsReports HistKept := fun s e he => by
  cases e with
  | nvm n =>
    have h1 := congrArg Nvm.uhist he.1
    have h2 := congrArg Nvm.tsum he.1
    exact ⟨h1, h2⟩
  | lost => exact he.elim
  | _ => trivial

theorem unworn_congr {s t : State} (h : t.nvm.tsum = s.nvm.tsum) : t.unworn = s.unworn := by
  ext c
  rw [mem_unworn, mem_unworn, State.tsum, h, State.tsum]

/-- The effects that change of non-volatile memory no more than a report does. -/
def NvmReports (s : State) (e : Eff) : Prop :=
  match e with
  | .nvm n => NvmReport s.nvm n
  | .lost _ => False
  | _ => True

theorem nvm_reports {a : Act} {s : State} (hc : s.canon = true) (h : Allowed NvmReports (a s) s) : NvmReport s.nvm (after a s).nvm :=
  Allowed.rel (R := fun s t => NvmReport s.nvm t.nvm) ⟨fun _ => ⟨rfl, id⟩, fun _ _ _ h1 h2 => ⟨h2.1.trans h1.1, fun h => h2.2 (h1.2 h)⟩⟩
    (fun s e _ he => by
      cases e with
      | nvm => exact he
      | lost => exact he.elim
      | _ => exact ⟨rfl, id⟩) hc h

theorem allowsReports_nvmReports : AllowsReports NvmReports := fun s e he => by
  cases e with
  | nvm => exact he
  | lost => exact he.elim
  | _ => trivial

/-- A write is made where spare words are left; where none are it is lost, and shows as worn. -/
theorem nvmWrite_made (a : Act) {s : State} (hc : s.canon = true) :
    Config.nvmFails s.free ≤ s.nvm.spare ∧ (∃ u, u.canon = true ∧ after (nvmWrite a) s = after a u ∧ u.nvm.sansLog = s.nvm.sansLog) ∨
      s.nvm.spare < Config.nvmFails s.free ∧ (after (nvmWrite a) s).nvm.sansLog = s.nvm.sansLog ∧ (after (nvmWrite a) s).nvm.worn = true := by
  obtain ⟨u, hu⟩ : ∃ u, u = after draw s := ⟨_, rfl⟩
  have hcu : u.canon = true := hu ▸ after_canon _ s hc
  have hnu : u.nvm = s.nvm := by rw [hu]; rfl
  have hrun : ∀ b : Act, nvmWrite a s = seqA [draw, b] s → after (nvmWrite a) s = after b u := fun b hb => by
    rw [after_congr hb, after_seqA_cons, after_seqA_cons, after_seqA_end, hu]
  by_cases h0 : Config.nvmFails s.free = 0
  · exact .inl ⟨by omega, u, hcu, hrun a (by simp only [nvmWrite, h0, if_true]), by rw [hnu]⟩
  · by_cases h1 : Config.nvmFails s.free ≤ s.nvm.spare
    · obtain ⟨v, hv⟩ : ∃ v, v = after (modNvm fun n => { n with spare := n.spare - Config.nvmFails s.free, remap := n.remap + Config.nvmFails s.free }) u := ⟨_, rfl⟩
      refine .inl ⟨h1, v, hv ▸ after_canon _ u hcu, ?_, ?_⟩
      · rw [hrun (seqA [_, a]) (by simp only [nvmWrite, h0, h1, if_false, if_true]; rfl), after_seqA_cons, after_seqA_cons, after_seqA_end, ← hv]
      · rw [hv, ← hnu]
        rfl
    · have h2 : after (nvmWrite a) s = after (whenA (fun s => !s.nvm.worn) _) u := hrun _ (by simp only [nvmWrite, h0, h1, if_false]; rfl)
      refine .inr ⟨by omega, ?_⟩
      rw [h2, after_whenA]
      split
      · rw [after_seqA_cons, after_seqA_cons, after_seqA_end]
        obtain ⟨v, hv⟩ : ∃ v, v = after (modNvm fun n => { n with worn := true }) u := ⟨_, rfl⟩
        have hcv : v.canon = true := hv ▸ after_canon _ u hcu
        rw [← hv]
        obtain ⟨h3, h4⟩ := nvm_reports hcv (allowed_logPut allowsReports_nvmReports.events _ v)
        refine ⟨h3.trans ?_, h4 (by rw [hv]; rfl)⟩
        rw [hv, ← hnu]
        rfl
      · next hw =>
        refine ⟨by rw [hnu], ?_⟩
        simpa using hw

/-- What a record leaves: it stands last, if the write is not lost. -/
theorem histRing_shows (r : HistRec) {s t : State} (hc : s.canon = true) (ht : t = after (histRing r) s) : t.nvm.tsum = s.nvm.tsum ∧
    (Config.nvmFails s.free ≤ s.nvm.spare ∧ t.nvm.uhist = ringPut s.nvm.uhist { r with pos := s.nvm.pos } ∨
      s.nvm.spare < Config.nvmFails s.free ∧ t.nvm.uhist = s.nvm.uhist ∧ t.nvm.worn = true) := by
  obtain ⟨u, hu⟩ : ∃ u, u = after (nvmWrite (modNvm fun n => { n with uhist := ringPut n.uhist { r with pos := s.nvm.pos } })) s := ⟨_, rfl⟩
  have hcu : u.canon = true := hu ▸ after_canon _ s hc
  obtain ⟨h1, h2⟩ : NvmReport u.nvm t.nvm := by
    rw [ht]
    change NvmReport u.nvm (after (seqA [nvmWrite (modNvm fun n => { n with uhist := ringPut n.uhist { r with pos := s.nvm.pos } }), logEv _ _ _ _ _ _ _ _ _]) s).nvm
    rw [after_seqA_cons, after_seqA_cons, after_seqA_end, ← hu]
    exact nvm_reports hcu (allowed_logEv allowsReports_nvmReports ..)
  have hts := congrArg Nvm.tsum h1
  have hh := congrArg Nvm.uhist h1
  change t.nvm.tsum = u.nvm.tsum at hts
  change t.nvm.uhist = u.nvm.uhist at hh
  rw [hts, hh]
  obtain ⟨h3, v, -, hv, h4⟩ | ⟨h3, h4, h5⟩ := nvmWrite_made (modNvm fun n => { n with uhist := ringPut n.uhist { r with pos := s.nvm.pos } }) hc
  · have hvt := congrArg Nvm.tsum h4
    have hvh := congrArg Nvm.uhist h4
    change v.nvm.tsum = s.nvm.tsum at hvt
    change v.nvm.uhist = s.nvm.uhist at hvh
    rw [hu, hv]
    exact ⟨hvt, .inl ⟨h3, congrArg (ringPut · _) hvh⟩⟩
  · have hvt := congrArg Nvm.tsum h4
    have hvh := congrArg Nvm.uhist h4
    rw [← hu] at h5 hvt hvh
    exact ⟨hvt, .inr ⟨h3, hvh, h2 h5⟩⟩

theorem places_ring (r : HistRec) : Keeps (Places 1) (histRing r) := fun s hc x n hn ⟨pre, post, h1, h2⟩ => by
  obtain ⟨ht, hh⟩ := histRing_shows r hc rfl
  have hw := unworn_congr ht
  obtain ⟨-, hh⟩ | ⟨-, hh, -⟩ := hh
  · obtain ⟨pre', hp⟩ := ringPut_keeps (pre := pre) (x := x) (post := post) (by omega) { r with pos := s.nvm.pos }
    refine ⟨pre', post ++ [{ r with pos := s.nvm.pos }], by rw [hh, h1, hp], ?_⟩
    rw [hw, List.length_append, List.length_singleton]
    omega
  · exact ⟨pre, post, hh.trans h1, by rw [hw]; omega⟩

theorem places_modTsum (t : TileId) (f : TileSum → TileSum) (hf : ∀ m, m.rewrites ≤ (f m).rewrites) : Keeps (Places 0) (modTsum t f) := fun _ _ =>
  places_of_kept rfl (unworn_subset (rewrites_modTsum (hf _)))

/-- A rewrite that is counted leaves a record at most where a tile is worn by it. -/
theorem places_countRewrite (t : TileId) : Keeps (Places 0) (countRewrite t) := fun s hc => by
  obtain ⟨u, hu⟩ : ∃ u, u = after (modTsum t fun m => { m with rewrites := (s.tsum t).rewrites + 1 }) s := ⟨_, rfl⟩
  have hcu : u.canon = true := hu ▸ after_canon _ s hc
  change Places 0 s (after (seqA [modTsum t fun m => { m with rewrites := (s.tsum t).rewrites + 1 }, whenA (fun _ => (s.tsum t).rewrites + 1 == 90000) (histRing _)]) s)
  rw [after_seqA_cons, after_seqA_cons, after_seqA_end, ← hu, after_whenA]
  have hsub : u.unworn ⊆ s.unworn := hu ▸ unworn_subset (rewrites_modTsum (Nat.le_succ _))
  split
  · next hn =>
    have hn : (s.tsum t).rewrites + 1 = 90000 := by simpa using hn
    have hlt : u.unworn.card < s.unworn.card := by
      refine Finset.card_lt_card ⟨hsub, fun h => ?_⟩
      have hs : (t.d, t.x, t.y) ∈ s.unworn := by
        rw [mem_unworn]
        change (s.tsum t).rewrites < 90000
        omega
      have h1 := h hs
      rw [mem_unworn] at h1
      change (u.tsum t).rewrites < 90000 at h1
      rw [hu, tsum_modTsum_same] at h1
      dsimp only at h1
      omega
    rintro x n hlim ⟨pre, post, h1, h2⟩
    obtain ⟨m, rfl⟩ : ∃ m, n = m + 1 := ⟨n - 1, by omega⟩
    exact places_ring _ u hcu x m (by omega) ⟨pre, post, by rw [hu]; exact h1, by omega⟩
  · exact places_of_kept (by rw [hu]; rfl) hsub

theorem overRecord_places : OverRecord (Places 0) (Places 1) where
  moves :=
    { composes := composes_places
      moves := fun s e _ h => by
        have hk : HistKept s e := by
          cases e with
          | nvm => exact ⟨h.1, h.2.1⟩
          | lost => exact h.elim
          | _ => trivial
        exact places_of_kept (histKept_ap hk).1 (by rw [unworn_congr (histKept_ap hk).2])
      count := places_countRewrite
      untag := fun t => places_modTsum t _ fun _ => le_refl _ }
  pre _ _ _ h1 h2 := fun x n hn h => h2 x n hn (h1 x n (by omega) h)
  post _ _ _ h1 h2 := fun x n hn h => h2 x (n + 1) (by omega) (h1 x n hn h)
  weaken _ _ h1 := fun x n hn h => by
    obtain ⟨pre, post, h2, h3⟩ := h1 x n (by omega) h
    exact ⟨pre, post, h2, by omega⟩
  tsum t f hf := places_modTsum t f fun m => (hf m).ge
  ring := places_ring

end Sys2Proof.Machine
end

section
/-!
SUPPORT. The unit history, soft counts and test runs (R327, R329–R331, R333, R335).
-/
namespace Sys2Proof.Machine

section
variable {s : State} (hc : s.canon = true)
include hc

/-! ## A record of the unit history, and soft counts -/

theorem unitHistoryRecord_records (hk : s.keeperUp = true) (u : Word32) (kind flags : BitVec 8) (stage : BitVec 16) (h det : Word32) :
    ∃ t, exec (.unitHistoryRecord u kind flags stage h det) s = .next t ∧
      (Config.nvmFails s.free ≤ s.nvm.spare → ⟨u, kind.toNat, flags.toNat, stage.toNat, s.mile, s.nvm.pos, h, det⟩ ∈ t.nvm.uhist) ∧
      (s.nvm.spare < Config.nvmFails s.free → t.nvm.worn = true) ∧ t.cells = s.cells := by
  obtain ⟨r, hr⟩ : ∃ r : HistRec, r = ⟨u, kind.toNat, flags.toNat, stage.toNat, s.mile, 0, h, det⟩ := ⟨_, rfl⟩
  obtain ⟨v, hv⟩ : ∃ v, v = after (histRing r) s := ⟨_, rfl⟩
  have hcv : v.canon = true := hv ▸ after_canon _ s hc
  refine ⟨after (countEvent r) v, congrArg Host.Outcome.next ((after_congr (b := seqA [histRing r, countEvent r]) ?_).trans ?_), fun hn => ?_, fun hn => ?_, ?_⟩
  · rw [hr]
    exact if_pos hk
  · rw [after_seqA_cons, after_seqA_cons, after_seqA_end, hv]
  · obtain ⟨-, ⟨-, hh⟩ | ⟨h1, -⟩⟩ := histRing_shows r hc hv
    · have hrec : Recorded { r with pos := s.nvm.pos } 135168 v := ⟨_, [], hh, by simpa using card_unworn_le v⟩
      obtain ⟨pre, post, h2, -⟩ := overRecord_places.countEvent r v hcv _ _ (by decide) hrec
      rw [h2, hr]
      exact List.mem_append_right _ (List.mem_cons_self ..)
    · omega
  · obtain ⟨-, ⟨h1, -⟩ | ⟨-, -, hw⟩⟩ := histRing_shows r hc hv
    · omega
    · exact (overRecord_settled.countEvent r v hcv).worn hw
  · rw [(overRecord_settled.countEvent r v hcv).cells, hv, (settled_ring r s hc).cells]

omit hc in
theorem moves_calAsk (t : TileId) (cls : Nat) (delta : Int) (s : State) : Allowed Moves (calAsk t cls delta s) s := by
  have hreg : ∀ o < 65536, NotRuns (regKey .cal t.d.val o) := fun o ho => notRuns_of_blk (by decide) (by have := t.d.isLt; omega) ho
  have hcls : ∀ f ∈ [F.CAL_TRIG_START, F.CAL_TRIG_DEMAND, F.CAL_TRIG_TEMP, F.CAL_TRIG_PERIOD], NotRuns (regKey f.blk t.d.val f.off) := by
    simp only [List.forall_mem_cons, List.not_mem_nil, false_implies, implies_true, and_true]
    exact ⟨hreg _ (by decide), hreg _ (by decide), hreg _ (by decide), hreg _ (by decide)⟩
  simp only [calAsk]
  split
  · exact .nil _
  · split
    · simp only [allowed_seqA_cons, allowed_bump, allowed_modDie, allowed_seqA_nil, and_true]
      exact ⟨hreg _ (by decide), id⟩
    · simp only [allowed_seqA_cons, allowed_bump, allowed_modDie, allowed_seqA_nil, and_true]
      refine ⟨hcls _ ?_, id⟩
      rw [List.getD_eq_getElem?_getD]
      cases hx : [F.CAL_TRIG_START, F.CAL_TRIG_DEMAND, F.CAL_TRIG_TEMP, F.CAL_TRIG_PERIOD][cls]? with
      | none => simp
      | some f => exact List.mem_of_getElem? hx

omit hc in
theorem settled_of_moves {a : Act} (h : ∀ s, Allowed Moves (a s) s) : Keeps Settled a := overRecord_settled.moves.of_allowed h

omit hc in
theorem settled_modKeeper (f : Keeper → Keeper) : Keeps Settled (modKeeper f) := settled_of_moves fun s => (allowed_modKeeper s f).2 trivial

omit hc in
theorem settled_softAsk (t : TileId) (f : Keeper → Keeper) (r : HistRec) : Keeps Settled (seqA [modKeeper f, calAsk t 1 0, keeperRecord r]) :=
  keeps_seqA_cons composes_settled (settled_modKeeper f) (keeps_seqA_cons composes_settled (settled_of_moves (moves_calAsk t 1 0))
    (keeps_seqA_cons composes_settled (settled_keeperRecord r) (keeps_seqA_nil composes_settled)))

omit hc in
theorem settled_softCount (d k n : Nat) : Keeps Settled (softCount d k n) := fun s hc => by
  have hR := composes_settled
  rw [after_congr (a := softCount d k n) (b := seqA _) (by simp only [softCount]; rfl)]
  refine keeps_seqA_cons (a := modKeeper _) hR (settled_modKeeper _) (keeps_seqA_cons hR (keeps_whenA hR _ ?_) (keeps_seqA_nil hR)) s hc
  exact keeps_forOpt hR _ _ fun t => settled_softAsk t _ _

theorem softReport_takes (hk : s.keeperUp = true) (d : Fin 32) :
    ∃ t, exec (.softReport d) s = .next t ∧ (t.die d.val).softUp = [] ∧ t.cells = s.cells := by
  obtain ⟨u, hu⟩ : ∃ u, u = after (modDie d.val fun x => { x with softUp := [] }) s := ⟨_, rfl⟩
  have hcu : u.canon = true := hu ▸ after_canon _ s hc
  have hR := composes_settled
  have hrest : ∀ l m, Keeps Settled (seqA [forA l fun k => softCount d.val k ((s.die d.val).softUp.countP fun x => x == k), forA m fun x : TileId × Nat => retireDue x.1, moveDue d.val]) :=
    fun l m => keeps_seqA_cons hR (keeps_forA hR _ _ fun k _ => settled_softCount _ _ _) (keeps_seqA_cons hR (keeps_forA hR _ _ fun x _ =>
      overRecord_settled.retireDue x.1) (keeps_seqA_cons hR (overRecord_settled.moves.moveDue d.val) (keeps_seqA_nil hR)))
  refine ⟨_, congrArg Host.Outcome.next ((after_congr (b := seqA (modDie d.val (fun x => { x with softUp := [] }) :: _)) (if_pos hk)).trans (after_seqA_cons ..)), ?_, ?_⟩
  · rw [← hu]
    refine (hrest _ _ u hcu).soft d.val ?_
    rw [hu, modDie, after_eff, die_ap_die s hc, if_pos rfl]
  · rw [← hu, (hrest _ _ u hcu).cells, hu]
    rfl

end

end Sys2Proof.Machine
end

section
/-!
SUPPORT. Test runs of arrays (R331, R333, R335).
-/
namespace Sys2Proof.Machine

/-! ## The start of a run -/

/-- What a run's MVM costs: reserved codes of its input, and its charge to the die. -/
def testCost (d : Nat) (m : MvmOp × Nat) : Act := seqA [countRsvd d m.2, whenA (fun _ => !m.1.skipped) (chargeDie d m.1.pconv m.1.nrow)]

/-- The charge of a run's MVM alone. -/
def testCharge (d : Nat) (m : MvmOp × Nat) : Act := whenA (fun _ => !m.1.skipped) (chargeDie d m.1.pconv m.1.nrow)

theorem dies_testCharge (d : Nat) (m : MvmOp × Nat) {s t : State} (hd : t.dies = s.dies) (hs : t.sensors = s.sensors) :
    (after (testCharge d m) t).dies = (after (testCharge d m) s).dies ∧ (after (testCharge d m) t).sensors = (after (testCharge d m) s).sensors := by
  have hdie : t.die d = s.die d := by simp only [State.die, hd]
  rw [testCharge, after_whenA, after_whenA]
  split
  · refine ⟨?_, hs⟩
    change SMap.set _ t.dies d (Die.spend (t.charge d m.1.pconv m.1.nrow) (t.die d)) = SMap.set _ s.dies d (Die.spend (s.charge d m.1.pconv m.1.nrow) (s.die d))
    rw [hd, hdie, charge_congr hs]
  · exact ⟨hd, hs⟩

section
variable {s : State} (hc : s.canon = true)
include hc

theorem rsvd_countRsvd (d n : Nat) :
    (after (countRsvd d n) s).fld F.SCH_FMT_CNT_RSVD_CODE d = min (s.fld F.SCH_FMT_CNT_RSVD_CODE d + n) F.SCH_FMT_CNT_RSVD_CODE.top := by
  rw [countRsvd, after_whenA]
  split
  · exact fld_bump_same hc _ _ _ (by decide)
  · next hn =>
    have h0 : n = 0 := by simpa using hn
    have hlt : s.fld F.SCH_FMT_CNT_RSVD_CODE d < 2 ^ 32 := bitsOf_lt _ _ _
    have htop : F.SCH_FMT_CNT_RSVD_CODE.top = 2 ^ 32 - 1 := rfl
    omega

theorem dies_testCost (d : Nat) (m : MvmOp × Nat) {t : State} (hd : t.dies = s.dies) (hs : t.sensors = s.sensors) :
    (after (testCost d m) s).dies = (after (testCharge d m) t).dies ∧ (after (testCost d m) s).sensors = (after (testCharge d m) t).sensors ∧
      (after (testCost d m) s).fld F.SCH_FMT_CNT_RSVD_CODE d = min (s.fld F.SCH_FMT_CNT_RSVD_CODE d + m.2) F.SCH_FMT_CNT_RSVD_CODE.top := by
  obtain ⟨u, hu⟩ : ∃ u, u = after (countRsvd d m.2) s := ⟨_, rfl⟩
  have hfu : u = { s with regs := u.regs } := hu ▸ after_overlay [.regs] (onlyFields_countRsvd d m.2 s)
  have h := dies_testCharge d m (s := t) (t := u) (by rw [hfu]; exact hd.symm) (by rw [hfu]; exact hs.symm)
  rw [testCost, after_seqA_cons, after_seqA_cons, after_seqA_end, ← hu]
  refine ⟨h.1, h.2, ?_⟩
  rw [← rsvd_countRsvd hc d m.2, ← hu]
  exact after_read_eq (fs := [.dies]) (State.fld · _ _) (by simp [chargeDie]) fun _ => rfl

end

/-- The MVMs of a run, counted and charged one after another. -/
theorem testCosts_show (d : Nat) : ∀ {l : List (MvmOp × Nat)} {s s' : State}, s.canon = true → s'.dies = s.dies → s'.sensors = s.sensors →
    (after (forA l (testCost d)) s).dies = (after (forA l (testCharge d)) s').dies ∧
      (after (forA l (testCost d)) s).fld F.SCH_FMT_CNT_RSVD_CODE d =
        min (s.fld F.SCH_FMT_CNT_RSVD_CODE d + (l.map Prod.snd).sum) F.SCH_FMT_CNT_RSVD_CODE.top
  | [], s, s', _, hd, _ => by
    have hlt : s.fld F.SCH_FMT_CNT_RSVD_CODE d < 2 ^ 32 := bitsOf_lt _ _ _
    have htop : F.SCH_FMT_CNT_RSVD_CODE.top = 2 ^ 32 - 1 := rfl
    refine ⟨hd.symm, ?_⟩
    rw [List.map_nil, List.sum_nil, Nat.add_zero, Nat.min_eq_left (by omega)]
    rfl
  | m :: l, s, s', hc, hd, hs => by
    obtain ⟨h1, h2, h3⟩ := dies_testCost hc d m hd hs
    rw [after_forA_cons, after_forA_cons]
    obtain ⟨h4, h5⟩ := testCosts_show d (l := l) (after_canon (testCost d m) s hc) h1.symm h2.symm
    refine ⟨h4, ?_⟩
    rw [h5, h3, List.map_cons, List.sum_cons]
    omega

section
variable {s : State} (hc : s.canon = true) {x : TileId}
include hc

theorem testRunStart_starts {pat : BitVec 12} {kind sel : Nat} (hpat : s.pattern pat.toNat = some (kind, sel))
    (hdue : s.pstate = 0 ∧ s.keeperUp = true ∧ s.fld (F.THM_DIE_FACTOR.nth x.d.val) 0 = 256 ∧ (sel = 0x3F ∨ sel = x.d.val) ∧ 1 ≤ kind ∧
      kind ≤ 4 ∧ s.testTarget x kind = true ∧ s.runDue x pat.toNat = true ∧ (s.core (.tile x)).item = none ∧ (s.core (.tile x)).queue = [] ∧
      (s.core (.tile x)).testRet = none ∧ s.testing x.d.val < 64 ∧ (s.die x.d.val).calNow.any (fun c => c.tile == x) = false) :
    ∃ t, exec (.testRunStart x pat) s = .next t ∧
      t.core (.tile x) = { s.core (.tile x) with testRet := some (s.arrState x + 16 * pat.toNat) } ∧ t.arrState x = 2 ∧
      t.fld F.CHK_TP_RUNS x.d.val = min (s.fld F.CHK_TP_RUNS x.d.val + 1) F.CHK_TP_RUNS.top ∧ CoresBut [.tile x] s t ∧
      t.fld F.SCH_FMT_CNT_RSVD_CODE x.d.val =
        min (s.fld F.SCH_FMT_CNT_RSVD_CODE x.d.val + ((s.testMvms pat.toNat).map Prod.snd).sum) F.SCH_FMT_CNT_RSVD_CODE.top ∧
      RegsBut [regKey .til (tileKey x) F.TIL_ARR_STS_STATE.off, regKey .chk x.d.val F.CHK_TP_RUNS.off, regKey .sch x.d.val F.SCH_FMT_CNT_RSVD_CODE.off] s t ∧
      t.dies = (after (forA (s.testMvms pat.toNat) (testCharge x.d.val)) s).dies ∧
      t = { s with regs := t.regs, cores := t.cores, dies := t.dies,
                   keeper := { s.keeper with lastRun := SMap.set (fun _ => 0) s.keeper.lastRun (tileKey x * 4096 + pat.toNat) (s.nvm.pos + 1) } } := by
  obtain ⟨a, ha⟩ : ∃ a, a = after (modCore (.tile x) fun k => { k with testRet := some (s.arrState x + 16 * pat.toNat) }) s := ⟨_, rfl⟩
  obtain ⟨b, hb⟩ : ∃ b, b = after (modKeeper fun k => { k with lastRun := SMap.set (fun _ => 0) k.lastRun (tileKey x * 4096 + pat.toNat) (s.nvm.pos + 1) }) a := ⟨_, rfl⟩
  obtain ⟨u, hu⟩ : ∃ u, u = after (setF F.TIL_ARR_STS_STATE (tileKey x) 2) b := ⟨_, rfl⟩
  obtain ⟨v, hv⟩ : ∃ v, v = after (bump F.CHK_TP_RUNS x.d.val 1) u := ⟨_, rfl⟩
  obtain ⟨t, ht⟩ : ∃ t, t = after (forA (s.testMvms pat.toNat) (testCost x.d.val)) v := ⟨_, rfl⟩
  have hca : a.canon = true := ha ▸ after_canon _ s hc
  have hcb : b.canon = true := hb ▸ after_canon _ a hca
  have hcu : u.canon = true := hu ▸ after_canon _ b hcb
  have hcv : v.canon = true := hv ▸ after_canon _ u hcu
  have hfa : a = { s with cores := a.cores } := ha ▸ rfl
  have hfb : b = { a with keeper := { s.keeper with lastRun := SMap.set (fun _ => 0) s.keeper.lastRun (tileKey x * 4096 + pat.toNat) (s.nvm.pos + 1) } } := by
    rw [hb, ha]
    rfl
  have hfu : u = { b with regs := u.regs } := hu ▸ after_overlay [.regs] (by simp)
  have hfv : v = { u with regs := v.regs } := hv ▸ after_overlay [.regs] (by simp)
  have hcost : Allowed (onlyFields [.regs, .dies]) (forA (s.testMvms pat.toNat) (testCost x.d.val) v) v := allowed_forA _ _ _ fun m _ w => by
    simp [testCost, countRsvd, chargeDie]
  have hft : t = { v with regs := t.regs, dies := t.dies } := ht ▸ after_overlay [.regs, .dies] hcost
  have hregb : b.regs = s.regs := by rw [hfb, hfa]
  have hcore : t.cores = a.cores := by rw [hft, hfv, hfu, hfb]
  have hregt : RegsBut [regKey .sch x.d.val F.SCH_FMT_CNT_RSVD_CODE.off] v t := ht ▸ after_regsBut hcv (allowed_forA _ _ _ fun m _ w => by
    simp [testCost, countRsvd, chargeDie, regIn])
  have hregv : RegsBut [regKey .chk x.d.val F.CHK_TP_RUNS.off] u v := hv ▸ after_regsBut hcu (by simp [regIn])
  have hregu : RegsBut [regKey .til (tileKey x) F.TIL_ARR_STS_STATE.off] b u := hu ▸ after_regsBut hcb (by simp [regIn])
  have hkeep : ∀ {y z : State} {c : Blk} {n o : Nat} (f : Fld) (i : Nat), RegsBut [regKey c n o] y z → f.off % 65536 ≠ o % 65536 → z.fld f i = y.fld f i :=
    fun f i h ho => fld_of_regsBut h (by rw [List.mem_singleton]; exact regKey_ne_of_off ho)
  obtain ⟨hdies, hrsvd⟩ := testCosts_show x.d.val (l := s.testMvms pat.toNat) (s := v) (s' := s) hcv (by rw [hfv, hfu, hfb, hfa]) (by rw [hfv, hfu, hfb, hfa])
  rw [← ht] at hdies hrsvd
  refine ⟨t, congrArg Host.Outcome.next ((after_congr (b := seqA [modCore (.tile x) fun k => { k with testRet := some (s.arrState x + 16 * pat.toNat) },
      modKeeper fun k => { k with lastRun := SMap.set (fun _ => 0) k.lastRun (tileKey x * 4096 + pat.toNat) (s.nvm.pos + 1) },
      setF F.TIL_ARR_STS_STATE (tileKey x) 2, bump F.CHK_TP_RUNS x.d.val 1, forA (s.testMvms pat.toNat) (testCost x.d.val)]) ?_).trans ?_),
    ?_, ?_, ?_, fun c hm => ?_, ?_, fun k hk => ?_, hdies, ?_⟩
  · simp only [hpat]
    exact if_pos hdue
  · rw [after_seqA_cons, after_seqA_cons, after_seqA_cons, after_seqA_cons, after_seqA_cons, after_seqA_end, ← ha, ← hb, ← hu, ← hv, ht]
  · rw [State.core, hcore]
    change a.core (.tile x) = _
    rw [ha, core_modCore s hc, if_pos rfl]
  · rw [State.arrState, hkeep F.TIL_ARR_STS_STATE _ hregt (by decide), hkeep F.TIL_ARR_STS_STATE _ hregv (by decide), hu, fld_set_same hcb _ _ _ (by decide)]
    rfl
  · rw [hkeep F.CHK_TP_RUNS _ hregt (by decide), hv, fld_bump_same hcu _ _ _ (by decide), hkeep F.CHK_TP_RUNS _ hregu (by decide), State.fld, State.reg, hregb]
    rfl
  · rw [State.core, hcore]
    change a.core c = _
    rw [ha, core_modCore s hc, if_neg fun h => hm (by rw [h]; exact List.mem_singleton.2 rfl)]
  · rw [hrsvd, hkeep F.SCH_FMT_CNT_RSVD_CODE _ hregv (by decide), hkeep F.SCH_FMT_CNT_RSVD_CODE _ hregu (by decide), State.fld, State.reg, hregb]
    rfl
  · simp only [List.mem_cons, List.not_mem_nil, or_false, not_or] at hk
    obtain ⟨h1, h2, h3⟩ := hk
    rw [hregt k (by simpa using h3), hregv k (by simpa using h2), hregu k (by simpa using h1), hregb]
  · rw [hft, hfv, hfu, hfb, hfa]

end

end Sys2Proof.Machine
end

section
/-!
SUPPORT. The end of a test run (R331, R333, R335).
-/
namespace Sys2Proof.Machine

/-- What the end of a run reports in state s, whose run of tile x had `r` to return to. -/
def testReport (s : State) (x : TileId) (pass : Bool) (r : Nat) : Act :=
  let kind := ((s.pattern (r / 16)).map Prod.fst).getD 0
  if kind = 3 then marchEnd x pass
  else whenA (fun _ => !pass) (seqA [
    dieRecord x.d.val (plainRec s (unitTile (if kind = 1 then 0 else if kind = 2 then 1 else 2) x) 7
      ((s.core (.tile x)).bound.elim 0xFFFF fun b => b.1) (if kind = 4 then 0 else Config.freeNat s.free)), draw])

/-- The state of the tile's array and of its run, and the count of failed runs. -/
def testOver (x : TileId) (pass : Bool) (r : Nat) : Act :=
  seqA [modCore (.tile x) fun k => { k with testRet := none }, setF F.TIL_ARR_STS_STATE (tileKey x) (r % 16), whenA (fun _ => !pass) (bump F.CHK_TP_FAILS x.d.val 1)]

theorem exec_testRunDone {s : State} {x : TileId} {r : Nat} (h : (s.core (.tile x)).testRet = some r) (pass : Bool) :
    exec (.testRunDone x pass) s = .next (after (retireDue x) (after (testReport s x pass r) (after (testOver x pass r) s))) := by
  refine congrArg Host.Outcome.next ((after_congr (b := seqA [modCore (.tile x) fun k => { k with testRet := none },
    setF F.TIL_ARR_STS_STATE (tileKey x) (r % 16), whenA (fun _ => !pass) (bump F.CHK_TP_FAILS x.d.val 1), testReport s x pass r, retireDue x]) ?_).trans ?_)
  · simp only [h, testReport]
  · rw [testOver]
    simp only [after_seqA_cons, after_seqA_end]

section
variable {s : State} (hc : s.canon = true) {x : TileId} {r : Nat}
include hc

theorem testOver_shows (pass : Bool) {t : State} (ht : t = after (testOver x pass r) s) :
    t.core (.tile x) = { s.core (.tile x) with testRet := none } ∧ CoresBut [.tile x] s t ∧ t.arrState x = r % 16 % 8 ∧
      (pass = true → RegsBut [regKey .til (tileKey x) F.TIL_ARR_STS_STATE.off] s t) ∧
      (pass = false → t.fld F.CHK_TP_FAILS x.d.val = min (s.fld F.CHK_TP_FAILS x.d.val + 1) F.CHK_TP_FAILS.top) ∧
      t = { s with regs := t.regs, cores := t.cores } := by
  obtain ⟨a, ha⟩ : ∃ a, a = after (modCore (.tile x) fun k => { k with testRet := none }) s := ⟨_, rfl⟩
  obtain ⟨b, hb⟩ : ∃ b, b = after (setF F.TIL_ARR_STS_STATE (tileKey x) (r % 16)) a := ⟨_, rfl⟩
  have hca : a.canon = true := ha ▸ after_canon _ s hc
  have hcb : b.canon = true := hb ▸ after_canon _ a hca
  have hfa : a = { s with cores := a.cores } := ha ▸ rfl
  have hfb : b = { a with regs := b.regs } := hb ▸ after_overlay [.regs] (by simp)
  have htb : t = after (whenA (fun _ => !pass) (bump F.CHK_TP_FAILS x.d.val 1)) b := by
    rw [ht, testOver, after_seqA_cons, after_seqA_cons, after_seqA_cons, after_seqA_end, ← ha, ← hb]
  have hft : t = { b with regs := t.regs } := htb ▸ after_overlay [.regs] (by simp)
  have hcores : t.cores = a.cores := by rw [hft, hfb]
  have hregb : RegsBut [regKey .til (tileKey x) F.TIL_ARR_STS_STATE.off] a b := hb ▸ after_regsBut hca (by simp [regIn])
  refine ⟨?_, fun c hm => ?_, ?_, fun hp => ?_, fun hp => ?_, by rw [hft, hfb, hfa]⟩
  · rw [State.core, hcores]
    change a.core (.tile x) = _
    rw [ha, core_modCore s hc, if_pos rfl]
  · rw [State.core, hcores]
    change a.core c = _
    rw [ha, core_modCore s hc, if_neg fun h => hm (by rw [h]; exact List.mem_singleton.2 rfl)]
  · have h1 : t.arrState x = b.arrState x := by
      rw [htb, after_whenA]
      split
      · exact fld_bump_other hcb F.CHK_TP_FAILS F.TIL_ARR_STS_STATE _ _ _ (.inl (by decide))
      · rfl
    rw [h1, hb]
    exact fld_set_same hca _ _ _ (by decide)
  · subst hp
    have h1 : t = b := by rw [htb, after_whenA]; rfl
    rw [h1]
    intro k hk
    rw [hregb k hk, hfa]
  · subst hp
    have h1 : t = after (bump F.CHK_TP_FAILS x.d.val 1) b := by rw [htb, after_whenA]; rfl
    rw [h1, fld_bump_same hcb _ _ _ (by decide), hb, fld_set_off hca _ _ _ _ _ (by decide), hfa]
    rfl

theorem keeperUp_testOver {t : State} (ht : t = after (testOver x true r) s) : t.keeperUp = s.keeperUp := by
  obtain ⟨-, -, -, hregs, -, hft⟩ := testOver_shows hc true ht
  have h1 : t.fld F.KPR_STS_STATE 0 = s.fld F.KPR_STS_STATE 0 :=
    fld_of_regsBut (hregs rfl) (by rw [List.mem_singleton]; exact regKey_ne_of_off (by decide))
  have h2 : t.keeper = s.keeper := by rw [hft]
  simp only [State.keeperUp, h1, h2]

omit hc in
theorem retireDue_idle (h : s.keeper.retWait.any (fun y => y.1 == x) = false) : after (retireDue x) s = s := by
  have hf : s.keeper.retWait.find? (fun y => y.1 == x) = none := by
    rw [List.find?_eq_none]
    rw [List.any_eq_false] at h
    exact h
  rw [after_congr (b := skip) (by simp only [retireDue, hf]; split <;> rfl), after_skipped]

omit hc in
/-- A run that passes reports nothing but the march of a spare. -/
theorem testReport_passed (u : State) (r : Nat) : after (testReport u x true r) s = s ∨
    s.keeperUp = true ∧ after (testReport u x true r) s = after (modTsum x fun m => { m with stFails := m.stFails % 16 }) s ∨
    s.keeperUp = false ∧ after (testReport u x true r) s = after (modDie x.d.val fun y => { y with marchHeld := y.marchHeld ++ [(tileKey x, true)] }) s := by
  rw [testReport]
  split
  · by_cases hk : s.keeperUp = true
    · refine .inr (.inl ⟨hk, ?_⟩)
      rw [after_congr (a := marchEnd x true) (b := seqA [skip, modTsum x fun m => { m with stFails := m.stFails % 16 }]) (by simp only [marchEnd, hk, if_true]; rfl),
        after_seqA_cons, after_seqA_cons, after_seqA_end, after_skipped]
    · have hk : s.keeperUp = false := by simpa using hk
      exact .inr (.inr ⟨hk, after_congr (by simp only [marchEnd, hk, Bool.false_eq_true, if_false, if_true])⟩)
  · exact .inl rfl

theorem testRunDone_passes (h : (s.core (.tile x)).testRet = some r) (hw : s.keeper.retWait.any (fun y => y.1 == x) = false) :
    ∃ t, exec (.testRunDone x true) s = .next t ∧ t.core (.tile x) = { s.core (.tile x) with testRet := none } ∧ t.arrState x = r % 16 % 8 ∧
      CoresBut [.tile x] s t ∧ RegsBut [regKey .til (tileKey x) F.TIL_ARR_STS_STATE.off] s t ∧
      (∀ e, t.die e = { s.die e with marchHeld := (t.die e).marchHeld }) ∧ (s.keeperUp = true → t.dies = s.dies) ∧
      t = { s with regs := t.regs, cores := t.cores, nvm := t.nvm, dies := t.dies } := by
  obtain ⟨u, hu⟩ : ∃ u, u = after (testOver x true r) s := ⟨_, rfl⟩
  have hcu : u.canon = true := hu ▸ after_canon _ s hc
  obtain ⟨hcore, hcores, harr, hregs, -, hfu⟩ := testOver_shows hc true hu
  have hregs := hregs rfl
  have hdu : u.dies = s.dies := by rw [hfu]
  have hdie : ∀ e, u.die e = s.die e := fun e => by rw [State.die, hdu]; rfl
  have hku := keeperUp_testOver hc hu
  have hidle : ∀ v : State, v.keeper = s.keeper → after (retireDue x) v = v := fun v hv => retireDue_idle (by rw [hv]; exact hw)
  rw [exec_testRunDone h, ← hu]
  obtain h1 | ⟨-, h1⟩ | ⟨hk, h1⟩ := testReport_passed (s := u) (x := x) s r
  · rw [h1, hidle u (by rw [hfu])]
    exact ⟨u, rfl, hcore, harr, hcores, hregs, fun e => by rw [hdie], fun _ => hdu, by rw [hfu]⟩
  · obtain ⟨v, hv⟩ : ∃ v, v = after (modTsum x fun m => { m with stFails := m.stFails % 16 }) u := ⟨_, rfl⟩
    have hfv : v = { u with nvm := v.nvm } := hv ▸ rfl
    rw [h1, ← hv, hidle v (by rw [hfv, hfu])]
    have hd : ∀ e, v.die e = s.die e := fun e => by rw [hfv]; exact hdie e
    exact ⟨v, rfl, by rw [hfv]; exact hcore, by rw [hfv]; exact harr, by rw [hfv]; exact hcores, by rw [hfv]; exact hregs, fun e => by rw [hd],
      fun _ => by rw [hfv]; exact hdu, by rw [hfv, hfu]⟩
  · obtain ⟨v, hv⟩ : ∃ v, v = after (modDie x.d.val fun y => { y with marchHeld := y.marchHeld ++ [(tileKey x, true)] }) u := ⟨_, rfl⟩
    have hfv : v = { u with dies := v.dies } := hv ▸ rfl
    rw [h1, ← hv, hidle v (by rw [hfv, hfu])]
    refine ⟨v, rfl, by rw [hfv]; exact hcore, by rw [hfv]; exact harr, by rw [hfv]; exact hcores, by rw [hfv]; exact hregs, fun e => ?_,
      fun h => absurd (hku.trans h) (by rw [hk]; decide), by rw [hfv, hfu]⟩
    rw [hv, die_modDie hcu, ← hdie]
    split
    · next he => rw [he]
    · rfl

/-! ## A run that fails -/

omit hc in
theorem settled_chkLast {d : Nat} (hd : d < 32) (r : HistRec) : Keeps Settled (chkLast d r) := settled_of_moves (moves_chkLast hd r)

omit hc in
theorem settled_dieRecord {d : Nat} (hd : d < 32) (r : HistRec) : Keeps Settled (dieRecord d r) := fun s hc => by
  by_cases hk : s.keeperUp = true
  · rw [after_congr (a := dieRecord d r) (b := seqA _) (by simp only [dieRecord, hk, if_true]; rfl)]
    exact keeps_seqA_cons composes_settled (settled_chkLast hd r) (keeps_seqA_cons composes_settled (settled_keeperRecord r) (keeps_seqA_nil composes_settled)) s hc
  · rw [after_congr (a := dieRecord d r) (b := chkReport d r) (by simp only [dieRecord, hk]; rfl)]
    exact settled_of_moves (moves_chkReport hd r) s hc

omit hc in
theorem settled_marchDone (x : TileId) (pass : Bool) : Keeps Settled (marchDone x pass) := fun s hc => by
  simp only [after, marchDone]
  split
  · exact settled_modTsum x _ s hc
  · split
    · exact settled_modTsum x _ s hc
    · exact overRecord_settled.keeperRetire x 7 s hc

omit hc in
theorem settled_marchEnd (x : TileId) (pass : Bool) : Keeps Settled (marchEnd x pass) := fun s hc => by
  have hR := composes_settled
  have hhold : Keeps Settled (modDie x.d.val fun y => { y with marchHeld := y.marchHeld ++ [(tileKey x, pass)] }) :=
    settled_of_moves fun s => (allowed_modDie s _ _).2 id
  by_cases hk : s.keeperUp = true
  · rw [after_congr (a := marchEnd x pass) (b := seqA _) (by simp only [marchEnd, hk, if_true]; rfl)]
    exact keeps_seqA_cons hR (keeps_whenA hR _ (keeps_seqA_cons hR (settled_chkLast x.d.isLt _) (keeps_seqA_cons hR (settled_ring _) (keeps_seqA_nil hR))))
      (keeps_seqA_cons hR (settled_marchDone x pass) (keeps_seqA_nil hR)) s hc
  · have hk : s.keeperUp = false := by simpa using hk
    cases pass with
    | true =>
      rw [after_congr (a := marchEnd x true) (b := modDie _ _) (by simp only [marchEnd, hk, Bool.false_eq_true, if_false, if_true]; rfl)]
      exact hhold s hc
    | false =>
      rw [after_congr (a := marchEnd x false) (b := seqA _) (by simp only [marchEnd, hk, Bool.false_eq_true, if_false]; rfl)]
      exact keeps_seqA_cons hR (keeps_whenA hR _ hhold) (keeps_seqA_cons hR (settled_of_moves (moves_chkReport x.d.isLt _)) (keeps_seqA_nil hR)) s hc

omit hc in
theorem settled_testReport (u : State) (x : TileId) (pass : Bool) (r : Nat) : Keeps Settled (testReport u x pass r) := fun s hc => by
  have hR := composes_settled
  rw [testReport]
  split
  · exact settled_marchEnd x pass s hc
  · exact keeps_whenA hR _ (keeps_seqA_cons hR (settled_dieRecord x.d.isLt _) (keeps_seqA_cons hR
      (settled_of_moves fun s => (allowed_draw s).2 trivial) (keeps_seqA_nil hR))) s hc

theorem testRunDone_fails (h : (s.core (.tile x)).testRet = some r) : ∃ t, exec (.testRunDone x false) s = .next t ∧ (t.core (.tile x)).testRet = none ∧
    t.fld F.CHK_TP_FAILS x.d.val = min (s.fld F.CHK_TP_FAILS x.d.val + 1) F.CHK_TP_FAILS.top ∧ t.cells = s.cells := by
  obtain ⟨u, hu⟩ : ∃ u, u = after (testOver x false r) s := ⟨_, rfl⟩
  have hcu : u.canon = true := hu ▸ after_canon _ s hc
  obtain ⟨hcore, -, -, -, hfails, hfu⟩ := testOver_shows hc false hu
  have hset : Settled u (after (retireDue x) (after (testReport s x false r) u)) := composes_settled.trans _ _ _ (settled_testReport s x false r u hcu)
    (overRecord_settled.retireDue x _ (after_canon _ u hcu))
  rw [exec_testRunDone h, ← hu]
  refine ⟨_, rfl, hset.test _ (by rw [hcore]), ?_, ?_⟩
  · rw [hset.fails _ x.d.isLt, hfails rfl]
  · rw [hset.cells, hfu]

/-! ## A retirement that waited for the end -/

theorem testRunDone_retires (h : (s.core (.tile x)).testRet = some r) (hk : s.keeperUp = true) {c : Nat}
    (hw : s.keeper.retWait.find? (fun y => y.1 == x) = some (x, c)) (hr : (s.tsum x).retired = false) :
    ∃ t, exec (.testRunDone x true) s = .next t ∧ (t.tsum x).retired = true ∧ (t.tsum x).retCause = c ∧ t.cells = s.cells := by
  obtain ⟨u, hu⟩ : ∃ u, u = after (testOver x true r) s := ⟨_, rfl⟩
  obtain ⟨v, hv⟩ : ∃ v, v = after (testReport s x true r) u := ⟨_, rfl⟩
  have hcu : u.canon = true := hu ▸ after_canon _ s hc
  have hcv : v.canon = true := hv ▸ after_canon _ u hcu
  obtain ⟨-, -, -, -, -, hfu⟩ := testOver_shows hc true hu
  have hku : u.keeperUp = true := (keeperUp_testOver hc hu).trans hk
  obtain ⟨hfv, hkv, hrv⟩ : v.keeper = s.keeper ∧ v.keeperUp = true ∧ (v.tsum x).retired = false := by
    obtain h1 | ⟨-, h1⟩ | ⟨h1, -⟩ := testReport_passed (s := u) (x := x) s r
    · rw [hv, h1, hku, hfu]
      exact ⟨rfl, rfl, hr⟩
    · rw [hv, h1, tsum_modTsum_same]
      refine ⟨?_, hku, ?_⟩
      · change u.keeper = _
        rw [hfu]
      · rw [hfu]
        exact hr
    · rw [hku] at h1
      cases h1
  obtain ⟨w, hw'⟩ : ∃ w, w = after (modKeeper fun k => { k with retWait := k.retWait.filter fun y => y.1 != x }) v := ⟨_, rfl⟩
  have hcw : w.canon = true := hw' ▸ after_canon _ v hcv
  have hdue : after (retireDue x) v = after (retireNow x c) w := by
    rw [after_congr (a := retireDue x) (b := seqA [modKeeper fun k => { k with retWait := k.retWait.filter fun y => y.1 != x }, retireNow x c])
      (by simp only [retireDue, hkv, hfv, hw, Bool.true_eq_false, if_false, forOpt]), after_seqA_cons, after_seqA_cons, after_seqA_end, hw']
  have hset := (overRecord_settled.retireDue x v hcv).cells
  have hrep := (settled_testReport s x true r u hcu).cells
  obtain ⟨h1, h2⟩ := retireNow_retires hcw (x := x) (by rw [hw']; exact hrv) c
  rw [exec_testRunDone h, ← hu, ← hv]
  exact ⟨_, rfl, by rw [hdue]; exact h1, by rw [hdue]; exact h2, by rw [hset, hv, hrep, hfu]⟩

end

end Sys2Proof.Machine

open Sys2Proof Sys2Proof.Machine

/-- Settles O37: what a record and a retirement leave is carried along the chain of the array that leaves its tile; at most one record for
each tile that is worn, and one more, follows a record, so it stays in the unit history. -/
theorem historyAndTests : Obligations.HistoryAndTests := by
  unfold Obligations.HistoryAndTests
  refine ⟨fun s hc hk => ⟨fun u kind flags stage h det => unitHistoryRecord_records hc hk u kind flags stage h det, softReport_takes hc hk⟩,
    fun s x hc => ⟨fun pat kind sel hpat h1 h2 h3 h4 h5 h6 h7 h8 h9 h10 h11 h12 h13 =>
      testRunStart_starts hc hpat ⟨h1, h2, h3, h4, h5, h6, h7, h8, h9, h10, h11, h12, h13⟩,
      fun r hr => ⟨testRunDone_passes hc hr, testRunDone_fails hc hr, fun c hk hw ht _ _ => testRunDone_retires hc hr hk hw ht⟩⟩⟩

end
